-- ==== Sys2Proof/Word.lean ====
section
/-!
DEFINITION. The word and byte types and their plainest arithmetic.
-/

namespace Sys2Proof

/-- A 32-bit word, the unit of every register access (R31). -/
abbrev Word := BitVec 32

/-- A byte, the smallest addressable unit (R27). -/
abbrev Byte := BitVec 8

end Sys2Proof
end

