-- ==== Sys2Proof/Syntax.lean ====
section
/-!
DEFINITION. The syntax of the commands that the part takes: the paths they come by, their operands, and `Instr`.
-/

namespace Sys2Proof

/-- The access paths into the register space, with the SRC codes of R29. -/
inductive Path
  | gw0 | gw1 | pilot | hawser | jtag | watchkeeper
deriving DecidableEq, Repr

/-- The switched rails that Capstan waits for at power-up (R51, R52). -/
inductive Rail
  | vana | vcore | vddr | vio
deriving DecidableEq, Repr

/-- What a PMIC enable brings up: a rail of the power-up order, or a VRF group (R51). -/
inductive Supply
  | rail (r : Rail) | vrf (g : Fin 6)
deriving DecidableEq, Repr

/-- The three PLLs (R15). -/
inductive Pll
  | a | d | e
deriving DecidableEq, Repr

/-- The wake sources of PW_WAKE_EN (03_power_clocks_resets.md). -/
inductive WakeSource
  | detect | gw0cs | tcap (k : Fin 4) | tamper (k : Fin 2) | gpio (k : Fin 4) | alarm
deriving DecidableEq, Repr

/-- The two power-fail inputs (R70). -/
inductive PfailInput
  | pin | vin
deriving DecidableEq, Repr

/-- What the outside gives at the release of a CORE reset: the strap levels (R74) and the 32 bytes read from each flash
directory entry (R90), empty where the flash does not answer. -/
structure BootEnv where
  bootSrc : Fin 4
  cascadeMaster : Bool
  dirA : List Byte
  dirB : List Byte
deriving DecidableEq, Repr

/-- What the slicer has of one bit (R139): the strengths of its decisions for 1 and for 0 (for Manchester coding, those of the two
half-bits). `u`, `v`: with BPSK, `u` is the bit's energy; with two subcarriers, the energies at the two frequencies within one half-bit;
else 0. -/
structure Slice where
  one : Nat
  zero : Nat
  u : Nat
  v : Nat
deriving DecidableEq, Repr

/-- A frame as it reaches the slicer: the bits after the start of frame (Type A with parity bits), Type B stop bits that are 0 and
whether the EOF is missing (R162), sideband amplitude and phase (R149), the reply delay RS - CE in oct (R157), and the equaliser's MSE in
-0.5 dB (R145, R146): that over the pattern first, then that over the 16 data bits that end with bit 15, bit 16, and so on. -/
structure RxFrame where
  slices : List Slice
  stops : Nat
  noEof : Bool
  sbAmp : Byte
  phase : Byte
  delay : Nat
  mses : List Byte
deriving DecidableEq, Repr


/-- What a read asks for (R31): a byte or a halfword (a load of Pilot), or whole words. -/
inductive AccessSize
  | byte | half | words (n : Nat)
deriving DecidableEq, Repr

/-- A coupling value that a peer returns after a cross survey: source berth, listener berth, level, phase (R215). -/
structure SurveyValue where
  src : Nat
  dst : Nat
  mag : Nat
  phase : Nat
deriving DecidableEq, Repr

/-- The way a service command came (R321, R328): the mailbox, Q26, or the ECALL of a core. -/
inductive Via
  | mailbox | queue | ecall (core : Fin 4)
deriving DecidableEq, Repr

/-- A link frame as its codeword decodes, with its CRC right (R362): KIND, FSEQ, ACK, NAK, LANE, START, payload. -/
structure LinkFrame where
  kind : Fin 16
  fseq : Byte
  ack : Byte
  nak : Bool
  control : Bool
  start : Fin 1024
  payload : List Byte
deriving DecidableEq, Repr

/-- What TRAIN_INFO says of the partner (R360), its scrambler seed among it (R358), with the cable length and the SNR measured in training. -/
structure TrainInfo where
  unit : BitVec 64
  fabric : BitVec 32
  priority : Byte
  booting : Bool
  seed : BitVec 31
  length : Byte
  snr : Byte
deriving DecidableEq, Repr

/-- What an LSA carries (R373): address, unit ID, sequence number, links (port, neighbour, cost), upstream neighbour. -/
structure LsaInfo where
  addr : BitVec 12
  unit : BitVec 64
  seq : Word
  links : List (Fin 4 × BitVec 12 × Byte)
  upstream : Option (BitVec 12)
deriving DecidableEq, Repr

/-- What one block of calibration finds on one channel (R423, R427, R429): a foreign field before or over its end, the trims
for the selection in use with its spares, and the trims for the factory selection. -/
structure CalMeas where
  before : Bool
  after : Bool
  gain : BitVec 6
  offset : BitVec 5
  amp : BitVec 5
  txSpares : Fin 5
  cmpSpares : Fin 3
  capSpares : Fin 3
  fGain : BitVec 6
  fOffset : BitVec 5
  fAmp : BitVec 5
deriving DecidableEq, Repr


/-- A slave frame of a Gangway port, as its opcode, address and data bits decode (R402 to R404): the data bits that the host clocked,
for a write the data bytes transferred with the replies in the air then (R106), for a read whether the frame waited for its first
word. -/
inductive SlaveFrame
  | write (addr : Word) (bits : Nat) (data : List Byte) (frags : List (Fin 24 × RxFrame))
  | read (addr : Word) (bits : Nat) (waited : Bool)
  | pop (queue : Word) (bits : Nat) (waited : Bool)
  | popItem (queue : Word) (bits : Nat) (waited : Bool)
  | status (bits : Nat)
  | id (bits : Nat)
  | modeReset
  | badOp
deriving DecidableEq, Repr

/-- The commands of the part: one constructor per row of the opcode table, in the table's order. The operands are what
the world outside the part decides in that step; everything else comes from the state. -/
inductive Instr
  /-- VAON_POWER_ON (R52). VAON first enters regulation: the power-on reset holds every domain, Capstan runs from its RC oscillator and the crystal oscillator starts. -/
  | vaonPowerOn
  /-- CRYSTAL_STABLE (R52). The crystal becomes stable: Capstan changes over to it and asserts PEN1. -/
  | crystalStable
  /-- RAIL_IN_REGULATION (R52). A switched rail reaches regulation, and the next enable or the PLL start of the power-up order follows. -/
  | railInRegulation (r : Rail)
  /-- RAIL_FAIL (R53). A rail fails to regulate within 5 ms of its enable: RAIL_FAIL is set and the enables drop in reverse order. -/
  | railFail (what : Supply)
  /-- XTAL_FAIL (R53). The crystal fails to become stable within 10 ms: XTAL_FAIL is set and the enables drop. -/
  | xtalFail
  /-- ENABLE_DROP_STEP (R53). The 100 µs spacing timer expires and Capstan drops the next PMIC enable of a drop sequence. -/
  | enableDropStep
  /-- POWER_UP_RETRY (R53). 100 ms after a failed power-up has dropped its enables, power-up restarts from step 1 with the AON registers kept. -/
  | powerUpRetry
  /-- PLL_LOCK (R59). PLL_A, PLL_D or PLL_E achieves lock; at power-up, both PLL_A and PLL_D locked releases the CORE reset. -/
  | pllLock (pll : Pll) (env : BootEnv)
  /-- PLLA_UNLOCK (R19). PLL_A loses lock: the RF drivers turn off within 2 µs, the Deck, Pilot and channels halt, and the Tideclock counts from the crystal. -/
  | pllaUnlock (frags : List (Fin 24 × RxFrame))
  /-- PLLD_UNLOCK (R59). PLL_D loses lock: DRAM accesses stall and PLLD_UNLOCK is set. -/
  | plldUnlock
  /-- PLLE_UNLOCK (R59). PLL_E loses lock: both SGMII links drop and PLLE_UNLOCK is set. -/
  | plleUnlock
  /-- TEMP_SAMPLE (R57). A die temperature sample is taken; it sets the thermal factor and clears a thermal shutdown once T is below THROTTLE. -/
  | tempSample (t : BitVec 11)
  /-- THERMAL_SHUTDOWN (R58). The die reaches 125 °C: every RF driver turns off within 1 cc, THERM_SHUT is set and no grant is issued. -/
  | thermalShutdown (frags : List (Fin 24 × RxFrame))
  /-- SLOT_BOUNDARY (R18). The Tideclock reaches a tide slot start: the slot's grants and listen assignments begin and end. -/
  | slotBoundary
  /-- VRF_GROUP_LEVEL_CHANGE (R54). A VRF group crosses 4.75 V, which changes its VRF_OK bit and its channels' eligibility for transmit grants. -/
  | vrfGroupLevelChange (g : Fin 6) (mv : Nat)
  /-- REGULATOR_CURRENT_LIMIT (R56). A tracking regulator reaches its current limit: it lowers its output and sets the channel's bit in PW_CHREG_FAULT. -/
  | regulatorCurrentLimit (n : Fin 24)
  /-- REGULATOR_DROPOUT (R104). A tracking regulator enters or leaves dropout while the field is on, which updates HEADROOM and sets HEADROOM_SEEN. -/
  | regulatorDropout (n : Fin 24)
  /-- TRIM_REQUEST (R61). A write of PW_STATE.REQ = Trim requests a recalibration, or is refused with LOCKED. -/
  | trimRequest (p : Path)
  /-- TRIM_ENTRY (R61). Once all grants have ended, or after boot when Trim is due, the device enters Trim and starts calibration. -/
  | trimEntry
  /-- WATCH_REQUEST (R62). A write of PW_STATE.REQ = Watch sets BUSY and stops new grants, or is refused with LOCKED. -/
  | watchRequest (p : Path)
  /-- WATCH_ENTRY_CONTINUE (R62). Once every Pontoon has released its grant, the journal commits, ports power down, DRAM enters self-refresh, the clocks stop and Watch is reached. -/
  | watchEntryContinue
  /-- DORMANT_REQUEST (R64). A write of PW_STATE.REQ = Dormant, by software or by Watchkeeper, starts Dormant entry, or is refused with LOCKED. -/
  | dormantRequest (p : Path)
  /-- DORMANT_ENTRY_CONTINUE (R64). After the drain, every port powers down and the enables drop in power-down order. -/
  | dormantEntryContinue
  /-- WAKE_EVENT (R65). An enabled wake source fires, or a deferred wake takes effect once an entry sequence completes. -/
  | wakeEvent (source : WakeSource)
  /-- COLD_RESET (R66). VAON stays below 1.62 V for more than 1 µs: a COLD reset holds the device until VAON is again at or above 1.71 V. -/
  | coldReset
  /-- BROWN_RESET (R66). VCORE falls below 0.69 V for more than 1 µs, or VANA or VDDR leaves regulation for more than 10 µs: a BROWN reset occurs. -/
  | brownReset (r : Rail)
  /-- PIN_RESET (R66). RESET_N stays low for at least 1 µs: a PIN reset holds the device for as long as RESET_N is low. -/
  | pinReset
  /-- GC_RESET (R66). A write of GC_RESET with GO = 1 and KEY = 0x5A schedules a SOFT reset; any other KEY is refused with RANGE. -/
  | gcReset (p : Path) (w : Word)
  /-- SOFT_RESET (R66). 1 µs after a valid GC_RESET write, a SOFT reset occurs, with the Deck kept when KEEP_DECK = 1. -/
  | softReset
  /-- RESET_RELEASE (R66). A reset's hold ends and the CORE reset is released; the boot ROM then starts. -/
  | resetRelease (env : BootEnv)
  /-- PFAIL_ASSERT (R72). The power-fail source asserts: PFAIL is set, Pilot is interrupted, new grants, journal records and fuse commits stop. -/
  | pfailAssert (input : PfailInput)
  /-- PFAIL_RELEASE (R73). The power-fail source is released before the fence: grants and journal records resume and PFAIL_GLITCH is set. -/
  | pfailRelease (input : PfailInput)
  /-- MRAM_FENCE (R73). 1.2 ms after the power-fail assertion, the MRAM write fence is set and a BROWN reset follows. -/
  | mramFence
  /-- IMAGE_FETCH_DONE (R76). A Manifest image has been fetched into staging and is checked under R77; it is then applied, or the next candidate or Bare deck follows. -/
  | imageFetchDone (img : Option (List Byte))
  /-- CONFIG_APPLY_DONE (R76). Step 6 of the boot completes (Deck, channels, queues, fabric, programs) and journal recovery starts. -/
  | configApplyDone
  /-- BOOT_DECK_PARITY (R79). A Deck configuration parity error while tiles are loaded: the tiles are cleared, registers are reset and error 0x1C is recorded. -/
  | bootDeckParity
  /-- JOURNAL_RECOVERY_DONE (R317). Journal recovery completes: DONE is set, PEN4 and PEN5 follow the roles, and Trim or the runtime follows. -/
  | journalRecoveryDone (ecc : Option Nat)
  /-- NEIGHBOUR_BOOT_PORT_TIMEOUT (R94). A port gives no complete image within 200 ms, so the boot ROM moves to the next port, or to cause TRANSPORT after three rounds. -/
  | neighbourBootPortTimeout
  /-- STATUS (R97). Service command 0x0001 returns GC_BOOT, GC_BOOT_ERR and GC_STRAP. -/
  | status (via : Via)
  /-- BOOT_REPORT (R97). Service command 0x0002 lists the images tried since the last CORE reset. -/
  | bootReport (via : Via)
  /-- MANIFEST_BOOT (R97). Service command 0x0010 verifies a staged image and, on success, releases the mailbox and applies it. -/
  | manifestBoot (via : Via)
  /-- SLOT_WRITE (R93). Service command 0x0011 checks, programs and verifies an image into the unbooted flash slot and writes its directory entry last. -/
  | slotWrite (via : Via) (same : Bool)
  /-- SLOT_CONFIRM (R92). Service command 0x0012 confirms the booted flash slot and, with ADVANCE, raises the fuse minimum. -/
  | slotConfirm (via : Via)
  /-- RESET (R97). Service command 0x001F has the effect of a valid GC_RESET write. -/
  | reset (via : Via)
  /-- TX_AMP_WRITE (R105). A write of CHn_TX_AMP.CODE is checked against MAX_POWER and applied at once, held pending, or cuts the field (ZERO_CODE). -/
  | txAmpWrite (p : Path) (n : Fin 24) (w : Word) (soFar : RxFrame)
  /-- SUPPLY_SETTLED (R55). A channel's tracking supply settles; the field enters RAMP_UP if its boundary has passed and its coil is applied. -/
  | supplySettled (n : Fin 24)
  /-- RAMP_UP_DONE (R108). RAMP_ON cc have elapsed and the field enters ON. -/
  | rampUpDone (n : Fin 24)
  /-- LOAD_MEASUREMENT_DONE (R123). The 256 cc load measurement after entry to ON ends; CHn_TX_LOAD and the own carrier are written and the load window is checked. -/
  | loadMeasurementDone (n : Fin 24) (mag : Fin 4096) (phase level carrierPhase : Byte)
  /-- GUARD_EXPIRY (R108). The tag power-up guard elapses and the Pontoon may start modulation. -/
  | guardExpiry (n : Fin 24)
  /-- FIELD_END_POINT (R110). The point at which RAMP_DOWN must begin is reached; RAMP_DOWN starts and any exchange in progress is cut with GRANT_END. -/
  | fieldEndPoint (n : Fin 24) (soFar : RxFrame)
  /-- RAMP_DOWN_DONE (R109). RAMP_OFF cc have elapsed; the outputs clamp and the field goes to OFF or RESET_OFF. -/
  | rampDownDone (n : Fin 24)
  /-- RF_RESET_OFF_EXPIRY (R112). RESET_OFF µs have elapsed in RESET_OFF; the field ramps up again and the guard restarts. -/
  | rfResetOffExpiry (n : Fin 24)
  /-- GRANT_RELEASE (R106). A Pontoon releases its grant; the field ramps down and the remaining slots are freed from the next confirmation point. -/
  | grantRelease (n : Fin 24) (soFar : RxFrame)
  /-- GRANT_END (R499). A grant reaches its network-time end; its listen assignments end and its channel returns to OFF. -/
  | grantEnd (n : Fin 24)
  /-- SELECT_FRAME (R118). LEAD before a slot boundary, a group sends a select frame that carries its channels' new or repeated coil selections. -/
  | selectFrame (g : Fin 6)
  /-- CORRELATION (R136). A correlation at or above threshold outside blanking opens a frame, or is judged as a newcomer under the capture, false-preamble or interference rules. -/
  | correlation (n : Fin 24) (level floor : Byte) (oct : Fin 8) (at_ : Nat) (look : List Word) (soFar : RxFrame)
  /-- RX_EARLY_WINDOW_END (R141). 24 bit-times after a frame opens, the receiver moves from RX_EARLY to RX_LATE. -/
  | rxEarlyWindowEnd (n : Fin 24)
  /-- REPLAY_CATCH_UP (R138). A replay from the lookback buffer catches up with the live samples. -/
  | replayCatchUp (n : Fin 24)
  /-- INTERFERENCE_END (R142). An interferer's level stays 6 dB below its correlation level for 2 bit-times, and collision flagging stops. -/
  | interferenceEnd (n : Fin 24) (b : Nat)
  /-- ADC_OVERLOAD (R130). Four consecutive overload samples during a frame set OVERLOAD and count in the statistics. -/
  | adcOverload (n : Fin 24)
  /-- END_OF_FRAME (R135). The end of a frame is detected and the receiver enters CHECK. -/
  | endOfFrame (n : Fin 24) (fr : RxFrame)
  /-- VERDICT_DELIVERED (R174). The decoded frame, its flags and its CRC verdict reach the sequencer, which acts on them in the same Deck clock. -/
  | verdictDelivered (n : Fin 24)
  /-- LISTENER_MEASUREMENT (R150). A listening channel's sideband measurement of a frame reaches the survey engine within 2 cc of the frame's end. -/
  | listenerMeasurement (n l : Fin 24) (amp phase : Byte) (below : Bool)
  /-- FOREIGN_CARRIER_MEASUREMENT (R151). A 256 cc carrier measurement on a selected coil with the field off completes and updates CHn_RX_CARRIER and FOREIGN. -/
  | foreignCarrierMeasurement (n : Fin 24) (level : Byte)
  /-- SEED_CLR (R156). A write of SEED_CLR = 1 clears the 64 equaliser seeds of the channel, at the frame's end if a frame is running. -/
  | seedClr (p : Path) (n : Fin 24)
  /-- PLACEMENT_POINT (R163). The frame-delay-time engine reaches a frame's placement point; a ready frame is sent, otherwise LATE applies. -/
  | placementPoint (n : Fin 24) (ready fits : Bool)
  /-- FRAME_READY (R164). A frame that was not ready at its placement point becomes ready and is sent late, or the exchange is aborted with GRANT_END. -/
  | frameReady (n : Fin 24) (lateOct : Nat) (fits : Bool)
  /-- COMMAND_END (R175). The command's CE is reached; the receiver is armed if a reply is expected, otherwise the exchange ends DONE. -/
  | commandEnd (n : Fin 24)
  /-- REPLY_DEADLINE (R168). The reply deadline plus the pattern length and 1 bit-time passes without an opened frame, and NO_REPLY is reported. -/
  | replyDeadline (n : Fin 24)
  /-- SFGT_EXPIRY (R170). SFGT + ΔSFGT after an ATS or ATTRIB answer has elapsed, and frames may again be sent to the tag. -/
  | sfgtExpiry (n : Fin 24) (k : Fin 8)
  /-- PCMD_WORD (R183). A word written to CHn_PCMD is assembled per path; a complete command enters the command queue or is discarded with OVERFLOW. -/
  | pcmdWord (p : Path) (n : Fin 24) (w : Word)
  /-- INVENTORY (R184). Opcode 0x01 requests a grant and runs an anticollision round of the chosen protocol on a coil. -/
  | inventory (n : Fin 24)
  /-- ACTIVATE (R196). Opcode 0x02 wakes, selects and activates a kept tag to ACTIVE or ACTIVE_4. -/
  | activate (n : Fin 24)
  /-- EXCHANGE (R184). Opcode 0x03 sends data to a session in I-blocks or as a raw frame and returns the response. -/
  | exchange (n : Fin 24)
  /-- HALT (R184). Opcode 0x04 halts a session's tag and frees its context. -/
  | halt (n : Fin 24)
  /-- RELEASE (R184). Opcode 0x05 frees a context with no frame on the air. -/
  | release (n : Fin 24)
  /-- MIGRATE (R200). Opcode 0x06 moves a session to another channel's Pontoon, if accepted, and increments GEN. -/
  | migrate (n : Fin 24)
  /-- RF_RESET (R112). Opcode 0x07 ramps the field down for RESET_OFF µs and back up within the present grant. -/
  | rfReset (n : Fin 24)
  /-- CANCEL (R184). Opcode 0x08 removes a queued command that has not started. -/
  | cancel (n : Fin 24)
  /-- AUTH (R247). Opcode 0x10 runs three-pass mutual authentication with a tag and derives the session keys. -/
  | auth (n : Fin 24)
  /-- SM_EXCHANGE (R249). Opcode 0x11 sends one secured APDU under the session keys and counter and verifies the reply. -/
  | smExchange (n : Fin 24)
  /-- SM_END (R251). Opcode 0x12 discards a context's secure session with no frame on the air. -/
  | smEnd (n : Fin 24)
  /-- SURVEY_GO (R211). A write of TS_SURVEY.GO = 1 starts an internal or cross survey, or is refused with LOCKED. -/
  | surveyGo (p : Path) (w : Word)
  /-- SURVEY_ABORT (R211). A write of ABORT = 1 ends a running survey ABORTED, with the tables unchanged. -/
  | surveyAbort (p : Path) (w : Word)
  /-- SURVEY_DRAIN_DONE (R211). Every running grant has ended, and the survey moves to MEASURE or SYNC. -/
  | surveyDrainDone
  /-- SURVEY_START_SLOT (R215). The agreed start slot of a cross survey is reached; the initiator measures and the peer listens. -/
  | surveyStartSlot (peerCoils : Fin 65)
  /-- SURVEY_MEASUREMENT (R212). A listener's quiet-slot or coupling carrier measurement of a survey block completes. -/
  | surveyMeasurement (n : Fin 24) (level phase floor : Byte)
  /-- SURVEY_COMMIT (R214). The last block and its repeats are done, and every measured table is replaced at once. -/
  | surveyCommit
  /-- SURVEY_PROPOSAL (R215). A cross-survey proposal from a peer is received and accepted or refused. -/
  | surveyProposal (peer : BitVec 12) (startMs : Nat) (code : Fin 1024) (avg : Fin 16) (sources : List Nat)
  /-- SURVEY_BLOCK_RESULT (R215). The peer receives the source's own-carrier level and phase and computes the coupling values. -/
  | surveyBlockResult (level phase : Byte) (refused : Bool)
  /-- SURVEY_RESULTS (R215). The initiator receives the peer's coupling values and stores them as cross-device entries. -/
  | surveyResults (values : List SurveyValue)
  /-- SURVEY_PEER_TIMEOUT (R211). No answer to a proposal within 100 ms, or the peer is lost for 100 ms, and the survey ends. -/
  | surveyPeerTimeout
  /-- NB_COMMIT (R210). A write of TS_NB_SEL.COMMIT sets NB_VALID. -/
  | nbCommit (p : Path) (w : Word)
  /-- NB_CLEAR (R210). A write of TS_NB_SEL.CLEAR empties every table and clears NB_VALID. -/
  | nbClear (p : Path) (w : Word)
  /-- GRANT_REQUEST (R223). The second word of a request written to TS_GREQ enters the request queue, or is discarded. -/
  | grantRequest (p : Path) (w : Word)
  /-- CONFIRMATION_POINT (R218). 150 µs before a slot boundary, pending requests are considered oldest first and confirmed, emulation requests first. -/
  | confirmationPoint
  /-- REQUEST_URGENT (R220). A request that has waited AGE slots becomes urgent. -/
  | requestUrgent
  /-- ATTRIBUTION (R228). The survey engine attributes a frame from the listeners' measurements and delivers BERTH1/BERTH2 with confidences. -/
  | attribution (n : Fin 24)
  /-- SNIFF_BURST (R231). At network time PHASE modulo PERIOD in Watch, Watchkeeper starts a burst of sniffs over the enabled entries. -/
  | sniffBurst
  /-- SNIFF (R232). One sniff measures a berth's carrier, updates its baseline or repeats 1 ms later, and trips the entry after CONFIRM deviations. -/
  | sniff (e : Byte) (x : Fin 4096)
  /-- KDATA_WRITE (R238). A word written to CY_KDATA is appended to the key command input, or discarded beyond 64 words. -/
  | kdataWrite (p : Path) (w : Word)
  /-- KDATA_READ (R238). A read of CY_KDATA returns the next output word of the last key command, or 0. -/
  | kdataRead (p : Path)
  /-- GENERATE (R239). Key command 0x01 fills an empty slot with a key from the DRBG. -/
  | generate (p : Path) (slot : Fin 64) (len : Fin 4) (attr : Byte)
  /-- IMPORT_PLAIN (R239). Key command 0x02 imports a plaintext key, in OPEN key mode only. -/
  | importPlain (p : Path) (slot : Fin 64) (len : Fin 4) (attr : Byte)
  /-- IMPORT_WRAPPED (R239). Key command 0x03 unwraps a key under a KEK slot into a slot. -/
  | importWrapped (p : Path) (slot kek : Fin 64) (len : Fin 4) (attr : Byte)
  /-- EXPORT_WRAPPED (R239). Key command 0x04 outputs an exportable key wrapped under a KEK. -/
  | exportWrapped (p : Path) (slot kek : Fin 64)
  /-- ERASE (R242). Key command 0x05 empties a slot and ends every session derived from it. -/
  | erase (p : Path) (slot : Fin 64)
  /-- INFO (R239). Key command 0x06 returns a slot's header and key check value. -/
  | info (p : Path) (slot : Fin 64)
  /-- SAVE_BLOB (R243). Key command 0x07 outputs a slot's blob wrapped under the root key. -/
  | saveBlob (p : Path) (slot : Fin 64)
  /-- LOAD_BLOB (R243). Key command 0x08 unwraps a blob under the root key into a slot. -/
  | loadBlob (p : Path) (slot : Fin 64) (len : Fin 4) (attr : Byte)
  /-- ECDH_START (R244). Key command 0x09 generates an ephemeral P-256 key pair and outputs its public key. -/
  | ecdhStart (p : Path)
  /-- ECDH_IMPORT (R244). Key command 0x0A verifies a signed envelope and imports the key it carries through ECDH. -/
  | ecdhImport (p : Path) (slot : Fin 64) (len : Fin 4) (attr : Byte)
  /-- BURN_HASH (R246). Key command 0x0B burns a customer key hash into a fuse slot. -/
  | burnHash (p : Path)
  /-- REVOKE_HASH (R246). Key command 0x0C burns the REVOKE bit of a customer key hash slot. -/
  | revokeHash (p : Path)
  /-- BURN_MKEY (R246). Key command 0x0D burns the Manifest key delivered in a signed ECDH envelope. -/
  | burnMkey (p : Path)
  /-- FUSE_BURN_DONE (R245). A fuse burn of a key command completes, after data read-back and VALID burned last. -/
  | fuseBurnDone (ok : Bool)
  /-- KEY_BLOB_SAVE (R243). While CY_KSTATUS.DIRTY is set, the runtime saves every occupied slot's blob and the epoch through the journal and clears DIRTY. -/
  | keyBlobSave
  /-- TGUARD_TOGGLE (R256). Every 1 024 crystal periods Capstan inverts each TGUARDn. -/
  | tguardToggle
  /-- TAMPER_SAMPLE (R256). 512 crystal periods after an inversion, TAMPERn is compared with TGUARDn. -/
  | tamperSample (loop : Fin 2) (level : Bool)
  /-- TAMPER_EVENT (R257). Four consecutive mismatches: the epoch increments and the key slots, session cache, DRBG state and ECDH key are erased. -/
  | tamperEvent (loop : Fin 2)
  /-- TRNG_STARTUP_DONE (R259). A 4 096-bit start-up test of the entropy source passes or fails; after 4 failures the source halts. -/
  | trngStartupDone (pass : Bool)
  /-- TRNG_HEALTH_FAILURE (R258). The repetition count or adaptive proportion test reaches its cutoff, and the source re-runs its start-up test. -/
  | trngHealthFailure (adaptive : Bool)
  /-- DRBG_RESEED (R258). After 1 024 requests, the DRBG reseeds from the conditioned source. -/
  | drbgReseed
  /-- CARRIER_LOCK (R264). The emulation phase tracker locks to a phone's carrier within ±7 kHz. -/
  | carrierLock (k : Fin 8)
  /-- PHONE_FIELD_DETECTED (R265). The received carrier stays above FIELD_THR for 64 rcc, and the instance requests an emulation grant. `level` is the lowest level in
  those 64 rcc, in 0.01 dB below full scale. -/
  | phoneFieldDetected (k : Fin 8) (level : Nat)
  /-- PHONE_FIELD_LOST (R265). The carrier stays 3 dB below threshold for 256 rcc, and the instance goes to POWER_OFF. `level` is the highest level in those
  256 rcc, in 0.01 dB below full scale. -/
  | phoneFieldLost (k : Fin 8) (level : Nat)
  /-- EMULATION_GRANT_END (R266). At a slot boundary, an emulation grant ends after 10 ms without field or on preemption, and CE_EVENT PREEMPTED is queued where it applies. -/
  | emulationGrantEnd (k : Fin 8)
  /-- EMU_FRAME_RECEIVED (R268). A frame from the phone moves the card state machine and starts a field transaction or a forwarded command. `ctr` is
  the counter under which a secured command was made (R277). -/
  | emuFrameReceived (k : Fin 8) (bits : List Bool) (parityOk : Bool) (ctr : Word)
  /-- EMU_REPLY_START (R270). The instance starts a reply at the grid point of R270 on the received carrier. `ready`: the rcc after the
  phone's last pause at which a forwarded response was ready. -/
  | emuReplyStart (k : Fin 8) (ready : Nat)
  /-- FIELD_TRANSACTION_END (R278). At TE of the status frame, staged writes commit to the shadow, CSEQ increments and the waiting host bursts proceed. -/
  | fieldTransactionEnd (k : Fin 8) (whole : Bool)
  /-- EMU_WTX_POINT (R273). A forwarded response is not ready at a half point: an S(WTX) request is sent, or 6F 00 with EXPIRED. -/
  | emuWtxPoint (k : Fin 8)
  /-- CE_RSP_WRITE (R273). A response written to CE_INSTk_RSP for a waiting CMD_ID is accepted, or is discarded with REFUSED or RANGE. -/
  | ceRspWrite (p : Path) (k : Fin 8) (w : Word)
  /-- CE_ENABLE (R275). A write of CE_INSTk_CFG.EN checks the image header and coil and enables or disables the instance. -/
  | ceEnable (p : Path) (k : Fin 8) (w : Word)
  /-- CE_LOCK_WRITE (R280). A write of a lock region sets or removes a read-only or absent lock for the next field transaction. -/
  | ceLockWrite (p : Path) (k : Fin 8) (m : Fin 4) (w : Word)
  /-- SHADOW_HOST_BURST (R279). A host burst to the emulation shadow reads a consistent version or stages a write, waiting for blocks in use. -/
  | shadowHostBurst (p : Path) (off : Fin 32768) (data : List Word) (n : Nat)
  /-- HOST_WAIT_EXPIRY (R279). A waiting shadow burst exceeds HOST_WAIT, has no effect and records BUSY in CE_ACC. -/
  | hostWaitExpiry (k : Fin 8)
  /-- EMU_IMAGE_PERSIST (R282). The runtime journals dirty shadow blocks to the MRAM image in CSEQ order and clears their dirty bits. -/
  | emuImagePersist (k : Fin 8)
  /-- QUEUE_POP (R294). A read of LQn_POP delivers and removes the next word, stalls on an empty queue, or is refused for the wrong side. -/
  | queuePop (p : Path) (q : Fin 32)
  /-- QUEUE_STALL_EXPIRY (R295). LQ_STALL µs pass without a visible item, and the stalled read returns the EMPTY marker. -/
  | queueStallExpiry (q : Fin 32)
  /-- QUEUE_ITEM_COMPLETE (R296). A producer completes an item; it takes a SEQ and is stored, or makes room under R301, or is dropped into a GAP marker. -/
  | queueItemComplete (q : Fin 32) (typ : Byte) (payload : List Word)
  /-- QUEUE_PUSH (R302). A word written to LQn_PUSH is assembled into a software item, or the push is refused. -/
  | queuePush (p : Path) (q : Fin 32) (w : Word)
  /-- DROP_REST (R298). Consumer command 0x1 removes the rest of the partly popped item. -/
  | dropRest (p : Path) (q : Fin 32)
  /-- FLUSH (R299). Consumer command 0x2 removes every item and the mark and leaves a FLUSHED marker. -/
  | flush (p : Path) (q : Fin 32)
  /-- MARK (R300). Consumer command 0x3 sets the mark at the head item. -/
  | mark (p : Path) (q : Fin 32)
  /-- REWIND (R300). Consumer command 0x4 returns the head to the mark and redelivers retained items with REPLAYED. -/
  | rewind (p : Path) (q : Fin 32)
  /-- CLEAR_MARK (R298). Consumer command 0x5 removes the mark, releases retained items and clears MARK_LOST. -/
  | clearMark (p : Path) (q : Fin 32)
  /-- QUEUE_CFG_WRITE (R304). A write of LQn_CFG sets interrupt fields and THRESH, or is refused when it would change CONSUMER from outside Pilot. -/
  | queueCfgWrite (p : Path) (q : Fin 32) (w : Word)
  /-- MBOX_WORD (R331). A word written to SV_MBOX_IN is assembled, and the command runs when LEN words have arrived. -/
  | mboxWord (p : Path) (w : Word)
  /-- MBOX_READ (R331). A read of SV_MBOX_OUT returns the next response word. -/
  | mboxRead (p : Path)
  /-- REG_LOOKUP (R311). Service command 0x0020 finds a registry record by key. -/
  | regLookup (via : Via)
  /-- REG_PUT (R312). Service command 0x0021 creates or updates a record's settable fields, with an optional version check. -/
  | regPut (via : Via)
  /-- REG_DELETE (R311). Service command 0x0022 marks a record TOMB. -/
  | regDelete (via : Via)
  /-- REG_QUERY (R323). Service command 0x0023 scans the registry for matching records. -/
  | regQuery (via : Via)
  /-- REG_STATS (R323). Service command 0x0024 returns registry occupancy and the longest probe chain. -/
  | regStats (via : Via)
  /-- REG_COMPACT (R311). Service command 0x0025 rewrites a stripe so that no TOMB precedes an IN_USE record of its chain. -/
  | regCompact (via : Via)
  /-- REG_SCRUB (R323). Service command 0x0026 reports records with a bad CHECK. -/
  | regScrub (via : Via)
  /-- POLICY_SET (R325). Service command 0x0030 writes a policy class entry. -/
  | policySet (via : Via)
  /-- POLICY_GET (R325). Service command 0x0031 reads a policy class entry. -/
  | policyGet (via : Via)
  /-- AUDIT_READ (R323). Service command 0x0038 returns audit entries from an index. -/
  | auditRead (via : Via)
  /-- AUDIT_HEAD (R323). Service command 0x0039 returns AUDIT_HEAD and the oldest index held. -/
  | auditHead (via : Via)
  /-- QUEUE_CONSUMER (R304). Service command 0x0040 changes a queue's consumer. -/
  | queueConsumer (via : Via)
  /-- KEY_OP (R323). Service command 0x0048 runs a Crypto key command and replies after the blob save. -/
  | keyOp (via : Via)
  /-- TAG_WRITE (R320). Service command 0x0050 performs a tag write through an intent slot. -/
  | tagWrite (via : Via)
  /-- PROGRAM_START (R323). Service command 0x0058 starts a customer program on an unused core. -/
  | programStart (via : Via)
  /-- CONFIG_GET (R327). Service command 0x0060 reads a SERVICE configuration record. -/
  | configGet (via : Via)
  /-- CONFIG_SET (R327). Service command 0x0061 writes a SERVICE configuration record unless it is forced. -/
  | configSet (via : Via)
  /-- SERVICE_ECALL (R328). A customer program issues a service command through ECALL. -/
  | serviceEcall (core : Fin 4) (code : BitVec 16) (addr plen buf size : Word)
  /-- JOURNAL_COMMIT (R315). A journal record is fully written and its COMMIT word stored, after which its events may be released. -/
  | journalCommit
  /-- JOURNAL_APPLY (R315). The applier copies a committed record's entries to their targets, then advances APPLIED_SEQ and TAIL. -/
  | journalApply
  /-- JOURNAL_WAIT_EXPIRY (R315). A command has waited 50 ms for journal space and completes JOURNAL_BUSY. -/
  | journalWaitExpiry
  /-- COALESCE_TIMER (R313). COALESCE_MS elapses and a held sighting refresh is journalled. -/
  | coalesceTimer
  /-- ABSENCE_TIMEOUT (R325). A tag has not been sighted for HOLD_S seconds, changes to absent and gets verdict ABSENT. -/
  | absenceTimeout (rec : Nat)
  /-- NB_TABLE_SAVE (R210). While NB_DIRTY is set, the runtime saves the neighbour tables and reference levels through the journal and clears NB_DIRTY. -/
  | nbTableSave
  /-- OFFSET_DELIVERED (R337). A measured offset arrives (a TC_OFFSET commit or a beacon computation) and is discarded, acquired, refused or accepted into the servo. -/
  | offsetDelivered (p : Path) (w : Word)
  /-- STEP (R339). TC_CMD.OP = STEP adds the staged signed amount to the counter, subject to ALLOW_BACK. -/
  | step (p : Path)
  /-- ACCEPT_STEP (R340). TC_CMD.OP = ACCEPT_STEP applies a held negative offset as a forward step. -/
  | acceptStep (p : Path)
  /-- HOLD (R342). TC_CMD.OP = HOLD puts the Tideclock into holdover. -/
  | hold (p : Path)
  /-- SRC_WRITE (R336). A write of TC_CFG.SRC changes the time source, ends holdover for 0b00 and sets MASTER_CHANGED. -/
  | srcWrite (p : Path) (w : Word)
  /-- MASTER_CHANGE (R343). TC_MASTER changes by a write or with the fabric root, and MASTER_CHANGED is set. -/
  | masterChange (p : Path) (w : Word)
  /-- BEACON_HOLDOVER_TIMEOUT (R342). No beacon is accepted for HOLD_BEACONS intervals, and holdover begins. -/
  | beaconHoldoverTimeout
  /-- BEACON_SEND (R344). Every 2^BEACON_LOG ms, a device sends a BEACON downstream with t1. -/
  | beaconSend
  /-- BEACON (R381). A BEACON received on the upstream port gives t2 and triggers a DREQ. -/
  | beacon (p : Fin 4) (t1 : Nat)
  /-- DREQ (R381). A DREQ received from downstream is answered with DRESP at the next codeword boundary. -/
  | dreq (p : Fin 4) (t3 : Nat)
  /-- DRESP (R344). A DRESP gives t4; the link delay is filtered and θ is computed. -/
  | dresp (p : Fin 4) (t4 t3 : Nat)
  /-- PULSE_ARM (R350). A write of TC_PULSEk CTL.ARM checks START, PERIOD and WIDTH and arms the pulse. -/
  | pulseArm (p : Path) (k : Fin 4) (w : Word)
  /-- PULSE_STOP (R350). A write of CTL.STOP makes the output inactive and clears ACTIVE. -/
  | pulseStop (p : Path) (k : Fin 4) (w : Word)
  /-- PULSE_EDGE (R350). The Tideclock reaches START + m × PERIOD and TPULSEk becomes active. -/
  | pulseEdge (k : Fin 4)
  /-- PULSE_END (R350). WIDTH ns after an edge, TPULSEk becomes inactive. -/
  | pulseEnd (k : Fin 4)
  /-- TC_ALARM (R351). The Tideclock reaches or passes TPULSE0's start time, raising the wake alarm. -/
  | tcAlarm
  /-- CAPTURE_EDGE (R352). A qualified edge on TCAPk is timestamped into the AON buffer, or counted as lost. -/
  | captureEdge (k : Fin 4) (rising : Bool)
  /-- CAPTURE_ITEM (R353). A buffered capture is moved into Q24 as a CAPTURE item when the LQ block runs. -/
  | captureItem (k : Fin 4)
  /-- LINK_DETECT (R360). Line energy is received for 100 µs and the port enters TRAIN. -/
  | linkDetect (p : Fin 4)
  /-- LINK_TRAIN_DONE (R360). Training converges on both ends and the port enters ALIGN. -/
  | linkTrainDone (p : Fin 4)
  /-- LINK_ALIGN_DONE (R360). 8 consecutive codewords decode with zero syndrome and the port enters EXCHANGE. -/
  | linkAlignDone (p : Fin 4)
  /-- TRAIN_INFO (R360). TRAIN_INFO is received and the port enters UP, FOREIGN, LOOP or BOOT_PEER. -/
  | trainInfo (p : Fin 4) (info : TrainInfo)
  /-- LINK_TRAIN_TIMEOUT (R360). 100 ms pass without the port reaching a final state, and it returns to DETECT. -/
  | linkTrainTimeout (p : Fin 4)
  /-- LINK_DROP (R364). A link in UP or BOOT_PEER fails (32 failed codewords, RETRY_MAX exceeded, or 100 µs without decode); unacknowledged packets are discarded. -/
  | linkDrop (p : Fin 4)
  /-- LINK_REDETECT (R360). 1 ms after a drop, the port returns to DETECT. -/
  | linkRedetect (p : Fin 4)
  /-- LINE_ENERGY_LOST (R360). A port in FOREIGN or LOOP loses line energy and returns to DETECT. -/
  | lineEnergyLost (p : Fin 4)
  /-- RETRAIN (R360). HS_CMD.OP = RETRAIN, or HSp_CFG.RETRAIN, sends a port back to DETECT. -/
  | retrain (path : Path) (p : Fin 4) (command : Bool)
  /-- CODEWORD_RECEIVED (R361). A codeword is decoded into a link frame, or fails; DATA frames are accepted in order, with ACK and NAK processed. -/
  | codewordReceived (p : Fin 4) (frame : Option LinkFrame) (corrected : Bool) (iterAvg snr : Byte)
  /-- ACK_TIMEOUT (R363). The oldest unacknowledged DATA frame waits ACK_TO µs and the sender goes back N. -/
  | ackTimeout (p : Fin 4)
  /-- PACKET_RECEIVED (R366). A complete packet reaches a router and is forwarded, dropped or handled by its class. -/
  | packetReceived (p : Fin 4)
  /-- HELLO_SEND (R369). Every 10 ms in ELECT, a device sends HELLO on each port in UP. -/
  | helloSend
  /-- HELLO (R369). A received HELLO can make the device adopt a better root candidate. -/
  | hello (p : Fin 4) (priority : Byte) (unit : BitVec 64) (hops : BitVec 16)
  /-- ELECT_END (R369). The candidate has been unchanged for 100 ms, so it becomes the root and ASSIGN begins. -/
  | electEnd
  /-- ADDRESS_REQUEST (R371). The root answers an ADDRESS_REQUEST from its binding table. -/
  | addressRequest (p : Fin 4) (unit : BitVec 64) (held : Option (BitVec 12))
  /-- ADDRESS_ASSIGN (R371). A device receives its address assignment, including a reassignment after a conflict, or ADDR_FULL. -/
  | addressAssign (p : Fin 4) (unit : BitVec 64) (addr : Option (BitVec 12)) (conflict : Bool) (rootAddr : BitVec 12)
  /-- BIND (R371). A BIND packet updates a router's replica of the binding table. -/
  | bind (p : Fin 4) (unit : BitVec 64) (addr : BitVec 12)
  /-- BINDING_EXPIRY (R371). A binding expires 24 h after its unit was last present. -/
  | bindingExpiry (addr : BitVec 12)
  /-- DISCOVERY_TIMEOUT (R370). RUN is not reached within DISC_TIMEOUT; FAILS increments and ELECT restarts, or Cascade is entered at 8. -/
  | discoveryTimeout
  /-- LSA (R373). A received LSA that is newer is stored and flooded, otherwise discarded. -/
  | lsa (p : Fin 4) (info : LsaInfo)
  /-- LSA_REFRESH (R373). A device floods its LSA at least once per second. -/
  | lsaRefresh
  /-- LSA_AGE_OUT (R373). An LSA not refreshed for 4 s is removed, which can restart discovery. -/
  | lsaAgeOut (unit : BitVec 64)
  /-- ROUTING_TABLE_UPDATE (R374). The routing table is recomputed after a change of the LSA set. -/
  | routingTableUpdate
  /-- HS_SEND_WORD (R377). A word written to HS_SEND is assembled, and a complete packet is judged and sent. -/
  | hsSendWord (path : Path) (w : Word)
  /-- REG_READ_PACKET (R378). A REG READ packet performs remote register reads and replies. -/
  | regReadPacket
  /-- REG_WRITE_PACKET (R378). A REG WRITE packet performs remote register writes and replies. -/
  | regWritePacket (frags : List (Fin 24 × RxFrame))
  /-- BOOT_REQUEST (R379). A booting neighbour's BOOT_REQUEST is queued in Q28 and answered by streaming the image or BOOT_DENY. -/
  | bootRequest (p : Fin 4)
  /-- BOOT_DATA (R379). The boot ROM stores a received BOOT_DATA chunk into staging. -/
  | bootData (p : Fin 4) (offset : Word) (chunk : List Byte)
  /-- BOOT_END (R379). BOOT_END completes a neighbour image, which is then checked under R77. -/
  | bootEnd (p : Fin 4) (total : Word)
  /-- BOOT_DENY (R379). BOOT_DENY makes the boot ROM move to its next port. -/
  | bootDeny (p : Fin 4)
  /-- RESET_DEV (R380). HS_CMD.OP = RESET_DEV on the root or master sends a LINK reset order to a device. -/
  | resetDev (path : Path) (target : BitVec 12)
  /-- RESET_ORDER (R380). A received reset order is accepted, leading to a LINK reset after the reply, or is refused. -/
  | resetOrder (srcAddr : BitVec 12) (srcUnit : BitVec 64)
  /-- RESET_REPLY (R380). The root receives the reset reply and shows it in HS_CMD_STATUS. -/
  | resetReply (code : Byte)
  /-- RESET_REPLY_TIMEOUT (R380). No reset reply within 10 ms, so CODE reads NO_REPLY. -/
  | resetReplyTimeout
  /-- REDISCOVER (R382). HS_CMD.OP = REDISCOVER clears FAILS, leaves fallback Cascade and restarts discovery. -/
  | rediscover (path : Path)
  /-- CHAIN (R383). A CHAIN message gives a Cascade device its position and address and is forwarded. -/
  | chain (p : Fin 2) (position : Int) (strapped : Bool) (master : BitVec 64)
  /-- SGMII_AUTONEG (R387). The PHY's auto-negotiation word brings the Ethernet link up, or HALF_SEEN is set for half duplex. -/
  | sgmiiAutoneg (n : Fin 2) (link full : Bool) (speed : Fin 3)
  /-- ETH_FRAME_RECEIVED (R390). A received frame is filtered, timestamped and placed in its receive ring, or dropped; PAUSE frames act on transmission. -/
  | ethFrameReceived (n : Fin 2) (frame : List Byte) (fcsOk cut : Bool) (sfd : Nat)
  /-- RING_TAIL_WRITE (R389). A write of a ring's TAIL hands descriptors to hardware. -/
  | ringTailWrite (p : Path) (n : Fin 2) (r : Fin 6) (w : Word)
  /-- ETH_FRAME_TRANSMITTED (R394). A transmit descriptor's frame is sent, completed one-step where set, and its timestamp queued in Q27 where requested. -/
  | ethFrameTransmitted (n : Fin 2) (sfd : Nat)
  /-- MDIO_CMD (R397). A write of EN0_MDIO_CMD starts one MDIO frame, or is refused while BUSY. -/
  | mdioCmd (p : Path) (w : Word)
  /-- MDIO_DONE (R397). An MDIO frame completes with DONE or NO_PHY. -/
  | mdioDone (phy : Bool) (data : BitVec 16)
  /-- GW_WRITE (R409). A slave WRITE frame is staged and applied at CS0_N rise as one burst, if whole. -/
  | gwWrite (n : Fin 2) (a : Word) (bits : Nat) (data : List Byte) (frags : List (Fin 24 × RxFrame))
  /-- GW_READ (R403). A slave READ frame returns words from the address under the burst rules. -/
  | gwRead (n : Fin 2) (a : Word) (bits : Nat) (waited : Bool)
  /-- GW_POP (R403). A slave POP frame pops words from a queue. -/
  | gwPop (n : Fin 2) (q : Word) (bits : Nat) (waited : Bool)
  /-- GW_POP_ITEM (R408). A slave POP_ITEM frame pops the words of one item. -/
  | gwPopItem (n : Fin 2) (q : Word) (bits : Nat) (waited : Bool)
  /-- GW_STATUS (R403). A slave STATUS frame returns GWn_STATUS. -/
  | gwStatus (n : Fin 2) (bits : Nat)
  /-- GW_ID (R403). A slave ID frame returns GC_BLKID and GC_ID0–GC_ID3. -/
  | gwId (n : Fin 2) (bits : Nat)
  /-- MODE_RESET (R404). A frame whose first instruction byte is 0xFF returns the slave to 1-lane SDR. -/
  | modeReset (n : Fin 2)
  /-- BAD_OP (R403). An unlisted opcode keeps IO high-impedance and sets BAD_OP. -/
  | badOp (n : Fin 2)
  /-- MASTER_COMMAND (R411). A write of GWn_MCMD checks and starts a master frame. -/
  | masterCommand (p : Path) (n : Fin 2) (w : Word)
  /-- MASTER_COMMAND_DONE (R410). A master frame completes and its read data is left in MDATA. -/
  | masterCommandDone (n : Fin 2) (data : List Word)
  /-- MDATA_WRITE (R411). A word written to GWn_MDATA is appended to the master data. -/
  | mdataWrite (p : Path) (n : Fin 2) (w : Word)
  /-- MDATA_READ (R411). A read of GWn_MDATA returns the next word of master read data. -/
  | mdataRead (p : Path) (n : Fin 2)
  /-- XIP_READ (R412). A read of the XIP window is served from the prefetch buffer, or starts a line fill. -/
  | xipRead (p : Path) (x : Fin 268435456) (size : Fin 4)
  /-- XIP_LINE_FILL (R413). A prefetch line fill completes and the waiting read is served. -/
  | xipLineFill (data : List Byte)
  /-- INVAL (R415). A write of GW1_XIP_CMD.INVAL empties the prefetch buffer. -/
  | inval (p : Path)
  /-- XIP_CFG_WRITE (R414). A write of GW1_XIP_CFG EN or HOLD sends the exit frame or releases waiting misses. -/
  | xipCfgWrite (p : Path) (w : Word)
  /-- CAL_STEP_DONE (R423). Calibration step 1 or 4 completes, tracing or falling back. -/
  | calStepDone (dev lvl ppm : Int) (iref ofs slope : Byte)
  /-- CAL_BLOCK (R424). 100 µs after a slot boundary, a step 2 or 3 block runs for a VRF group, with the foreign-field checks. -/
  | calBlock (m0 m1 m2 m3 : CalMeas)
  /-- CAL_FINISH (R425). Finishing writes every calibration result at once, increments CL_COUNT and leaves Trim for Run. -/
  | calFinish
  /-- CAL_COUNT_JOURNAL (R436). While COUNT_DIRTY is set, the runtime journals CL_COUNT and clears the flag. -/
  | calCountJournal
  /-- COMMIT (R432). CL_CMD.OP = COMMIT burns the last calibration's trims into the lowest blank fuse record slot, if permitted. -/
  | commit (p : Path)
  /-- COMMIT_BURN_DONE (R433). A fuse record commit completes with its marker burned, or stops with FUSE_FAIL. -/
  | commitBurnDone (ok : Bool)
  /-- DOUBLE_TRAP (R439). A hart takes a machine-mode trap while its trap-in-progress bit is set, a fatal error. -/
  | doubleTrap (hart : Fin 4) (first second : Word)
  /-- DECK_PARITY (R439). A Deck configuration parity error after boot step 7, a fatal error. -/
  | deckParity (tile : Fin 64)
  /-- WDOG_PRE (R445). The watchdog count reaches TIMEOUT − PRE and raises a fatal error. -/
  | wdogPre
  /-- JOURNAL_ECC (R439). An uncorrectable MRAM ECC error reading the journal outside recovery, a fatal error. -/
  | journalEcc (a : Word) (seq : BitVec 64)
  /-- CRASH_SLOT_WRITTEN (R443). The fault handler commits the crash slot. -/
  | crashSlotWritten (harts : List (List Byte)) (ring : Nat)
  /-- DRAM_DUMP_WRITTEN (R442). The fault handler commits the DRAM dump and ends with a WDOG reset. -/
  | dramDumpWritten
  /-- HANDLER_TIMEOUT (R441). The handler has not finished within 50 ms; a WDOG reset follows with TIMEOUT set. -/
  | handlerTimeout
  /-- WATCHDOG_EXPIRY (R445). The watchdog count reaches TIMEOUT and a WDOG reset follows. -/
  | watchdogExpiry
  /-- WDOG_KICK (R445). A write of 0x4B1C to FD_WDOG_KICK restarts the count; other values are refused. -/
  | wdogKick (p : Path) (w : Word)
  /-- WDOG_ENABLE (R445). A write of FD_WDOG_CFG.EN = 1 starts the watchdog. -/
  | wdogEnable (p : Path) (w : Word)
  /-- ECC_ERROR (R439). A non-fatal uncorrectable or corrected ECC error is recorded and interrupt source 45 is raised. -/
  | eccError (a : Word) (corrected pilot : Bool)
  /-- GPIO_EDGE (R463). A qualified edge on a GPIO sets its PEND bit where enabled. -/
  | gpioEdge (m : Fin 32) (rising : Bool)
  /-- PILOT_ACCESS_FAULT (R38). A Pilot load or store to an unassigned address takes an access-fault exception with no effect. -/
  | pilotAccessFault (a : Word) (store customer : Bool)
  /-- LATCHED_READ (R34). A read of the least significant word of a 64-bit or wider value snapshots its other words for that path. -/
  | latchedRead (p : Path) (a : Word)
  /-- STAGED_WRITE (R35). A write of the most significant word of a wide writable value commits all staged words at once, or is refused. -/
  | stagedWrite (p : Path) (a w : Word)
  /-- RC_READ (R44). A read of an RC register returns its value and clears it. -/
  | rcRead (p : Path) (a : Word) (size : AccessSize)
  /-- REGISTER_WRITE (R45). A write to a register without a row of its own is applied, or refused whole with RANGE, LOCKED or WIDTH. -/
  | registerWrite (p : Path) (a : Word) (data : List Byte) (frags : List (Fin 24 × RxFrame))
  /-- ENABLE_ASSERT_STEP (R63). On a wake from Watch, PEN5 asserts 100 µs after PEN4. -/
  | enableAssertStep
  /-- LINK_FRAME_SEND (R362). At each codeword boundary, a Hawser port sends its next link frame: a waiting control-lane DATA frame first, then a message-lane frame, a BEACON, DREQ or DRESP in a reserved slot, or IDLE, with the current ACK and NAK. -/
  | linkFrameSend (p : Fin 4)
  /-- PAUSE_HOLD_END (R390). The pause time set by a received PAUSE frame runs out, and the MAC resumes transmission from its transmit rings. -/
  | pauseHoldEnd (n : Fin 2)
deriving DecidableEq, Repr

end Sys2Proof
end

