-- ==== Sys2Proof/Config.lean ====
section
/-!
DEFINITION. What an implementation fixes and what the spec leaves open: free values without a body, and the
cryptographic primitives that the spec names by reference to their standards (assumption 12). Statements hold for every
value of them.
-/

namespace Sys2Proof.Config

/-- A free value: the `n`-th value that the spec leaves open in a run. Nothing constrains it. -/
opaque freeValue : Nat → Nat

/-- The `n`-th byte that the DRBG delivers (R258). -/
opaque drbgByte : Nat → Byte

/-- The AES block cipher, forward: key and block (R247, R249). -/
opaque aesEncrypt : List Byte → List Byte → List Byte

/-- The AES block cipher, inverse: key and block. -/
opaque aesDecrypt : List Byte → List Byte → List Byte

/-- SHA-256 (R82, R237). -/
opaque sha256 : List Byte → List Byte

/-- ECDSA P-256 verification: public key X then Y, digest, signature r then s (R82). -/
opaque ecdsaVerify : List Byte → List Byte → List Byte → Bool

/-- The public key, X then Y, of a P-256 private key (R244). -/
opaque p256Public : List Byte → List Byte

/-- The shared secret Z of a P-256 private key and a public key (R244). -/
opaque p256Shared : List Byte → List Byte → List Byte

/-- AES-256-GCM decryption: key, initialisation vector, additional data, ciphertext, tag (R83). -/
opaque gcmDecrypt : List Byte → List Byte → List Byte → List Byte → List Byte → Option (List Byte)

/-- The Dexmal signature of a Ferryman program image (R89). -/
opaque dexmalSignatureOk : List Byte → Bool

/-- The 256-bit fuse secret (R237). -/
opaque fuseSecret : List Byte

/-- The circular mean of angles whose unit vectors cancel, which R228 does not give, in 2⁻³² turns. -/
opaque circularMean : List Nat → Int

/-- Training of the equaliser's 24 taps over the lookback samples with step 2 to the minus MU_TRAIN (R145): the spec names LMS and gives no
arithmetic of it. Operands: MU_TRAIN, the start taps, the samples. -/
opaque lmsTrain : Nat → List Word → List Word → List Word

/-- Tracking over the decided bits with step 2 to the minus MU_TRACK (R145): MU_TRACK, the trained taps, the bits. -/
opaque lmsTrack : Nat → List Word → List Slice → List Word

/-- Is the 1 out of 256 coding selected (R158)? The spec names no register that selects it. -/
opaque oneOf256 : Bool

/-- Does a block raise its interrupt to Pilot (R329), by source and the block's registers? The spec names the block as the origin, and no
condition. -/
opaque blockRaises : Nat → List (Nat × Nat) → Bool

/-- The priority that the runtime gives an interrupt source (R329); the spec fixes that of source 33 only. -/
opaque irqPriority : Nat → Nat

/-- The core that the data of SERVICE record 0x0004 delegate an interrupt source to (R327, R329): the spec gives no layout of them. -/
opaque irqDelegate : List Byte → Nat → Option (Fin 4)

/-- The state that the PTP stack reports, by the Tideclock's counter (R347). -/
opaque ptpState : Nat → Nat

end Sys2Proof.Config
end

