-- ==== Sys2Proof/Machine/RegFile.lean ====
section
/-!
DEFINITION. The register file: register fields by bit address, in one canonical sparse list, and what a register's
description says (access kinds of R3, stated ranges of R6). A field is kept as the number that it holds. A field that
holds its reset value has no entry.
-/

namespace Sys2Proof.Machine

/-- A register field: `bit` is its place (byte address of the register × 8 + lowest bit), `w` its width in bits,
`rst` its reset value (the Reset column of its table). -/
structure Fld where
  bit : Nat
  w : Nat
  rst : Nat
deriving DecidableEq, Repr

/-- The access codes of R3. `mirror` is RW in channels 0, 4, 8, 12, 16 and 20 and RO elsewhere (R118). -/
inductive Acc
  | rw | ro | wo | w1c | w1s | rc | mirror
deriving DecidableEq, Repr

/-- The stated range of a field (R6): any value; a span; a span or zero; listed values; 2-bit groups other than 0b11. -/
inductive Rng
  | any
  | span (lo hi : Nat)
  | zeroOr (lo hi : Nat)
  | oneOf (vs : List Nat)
  | pulls
deriving DecidableEq, Repr

/-- No 2-bit group among the first `k` groups of `v` is 0b11 (R463). -/
def pullsOk : Nat → Nat → Bool
  | 0, _ => true
  | k + 1, v => v % 4 != 3 && pullsOk k (v / 4)

/-- Is `v` inside the stated range (R6, R46)? -/
def Rng.holds (r : Rng) (v : Nat) : Bool :=
  match r with
  | .any => true
  | .span lo hi => lo ≤ v && v ≤ hi
  | .zeroOr lo hi => v == 0 || (lo ≤ v && v ≤ hi)
  | .oneOf vs => vs.contains v
  | .pulls => pullsOk 16 v

/-- One field inside a register: its lowest bit in the register's value, the field itself, access and range. -/
structure FieldSpec where
  lo : Nat
  fld : Fld
  acc : Acc
  rng : Rng
deriving DecidableEq, Repr

/-- One register or array of registers: address of element (0, 0), words per element, two array dimensions
(count and byte stride each), its domain (AON or not, R5), and its fields. -/
structure RegSpec where
  addr : Nat
  words : Nat
  count1 : Nat
  stride1 : Nat
  count2 : Nat
  stride2 : Nat
  aon : Bool
  flds : Nat → Nat → List FieldSpec

/-- A register found at an address: the description, the element numbers, and the word inside the register's value. -/
structure RegHit where
  spec : RegSpec
  i : Nat
  j : Nat
  word : Nat

/-- The element of `r` that holds byte address `a`, if any. -/
def RegSpec.hit (r : RegSpec) (a : Nat) : Option RegHit :=
  if a < r.addr then none else
  let d := a - r.addr
  let i := if r.count1 = 1 then 0 else d / r.stride1
  let d1 := d - i * r.stride1
  let j := if r.count2 = 1 then 0 else d1 / r.stride2
  let d2 := d1 - j * r.stride2
  if i < r.count1 && j < r.count2 && d2 < 4 * r.words then some ⟨r, i, j, d2 / 4⟩ else none

/-- The first register of a list that holds byte address `a`. -/
def lookupReg : List RegSpec → Nat → Option RegHit
  | [], _ => none
  | r :: rs, a =>
    match r.hit a with
    | some h => some h
    | none => lookupReg rs a

/-- The sparse register file: (bit address, value), bit addresses strictly rising. -/
abbrev RegFile := List (Nat × Nat)

/-- Value of the field at bit address `b`, whose reset value is `rst`. -/
def RegFile.get : RegFile → Nat → Nat → Nat
  | [], _, rst => rst
  | (k, v) :: f, b, rst => if k = b then v else RegFile.get f b rst

/-- Drop the entry at bit address `b`. -/
def RegFile.drop : RegFile → Nat → RegFile
  | [], _ => []
  | (k, v) :: f, b => if k = b then RegFile.drop f b else (k, v) :: RegFile.drop f b

/-- Enter the value `x` at bit address `b`. -/
def RegFile.enter : RegFile → Nat → Nat → RegFile
  | [], b, x => [(b, x)]
  | (k, v) :: f, b, x =>
    if k = b then (b, x) :: f else if b < k then (b, x) :: (k, v) :: f else (k, v) :: RegFile.enter f b x

/-- Set the field at bit address `b`: a field at its reset value has no entry. -/
def RegFile.put (f : RegFile) (b rst x : Nat) : RegFile :=
  if x = rst then f.drop b else f.enter b x

/-- The register file's form: bit addresses strictly rising. -/
def RegFile.wf : RegFile → Bool
  | [] => true
  | [_] => true
  | (k, _) :: (k', v') :: f => k < k' && RegFile.wf ((k', v') :: f)

end Sys2Proof.Machine
end

