-- ==== Sys2Proof/Machine/Regs.lean ====
section
/-!
DEFINITION. The register map: one constant per register field of spec/ (its place, width and reset value), and the
table of every register with the access kind and the stated range of each field. An index of an array of registers counts
modulo the array's length, so that no index leaves the array. Every line follows the register table
of the chapter that it names. A field whose reset value the spec leaves to fuses, straps, the Manifest or a record has
the value that assumption 10 names.
-/

namespace Sys2Proof.Machine

/-! PW_STATE (03_power_clocks_resets.md). -/

/-- `PW_STATE.CUR` [18:16], RO. Current state -/
abbrev PW_STATE_CUR : Fld := ⟨(0x1010) * 8 + 16, 3, 1⟩
/-- `PW_STATE.REQ` [10:8], RW. Requested state. Writing Watch, Dormant or Trim starts the transition (R61). Other codes are out of range -/
abbrev PW_STATE_REQ : Fld := ⟨(0x1010) * 8 + 8, 3, 1⟩
/-- `PW_STATE.BUSY` [0:0], RO. 1 while a transition is in progress -/
abbrev PW_STATE_BUSY : Fld := ⟨(0x1010) * 8 + 0, 1, 0⟩
/-! PW_CFG (03_power_clocks_resets.md). -/

/-- `PW_CFG.VIN_TRIP` [23:19], RW. VIN monitor threshold, 4.0 V + 0.25 V × value (4.0–11.75 V). The reset value gives 4.5 V -/
abbrev PW_CFG_VIN_TRIP : Fld := ⟨(0x1014) * 8 + 19, 5, 2⟩
/-- `PW_CFG.VIN_MON` [18:18], RW. 1 selects the VIN monitor as a power-fail input -/
abbrev PW_CFG_VIN_MON : Fld := ⟨(0x1014) * 8 + 18, 1, 0⟩
/-- `PW_CFG.PFAIL_PIN` [17:17], RW. 1 selects PFAIL_N as a power-fail input -/
abbrev PW_CFG_PFAIL_PIN : Fld := ⟨(0x1014) * 8 + 17, 1, 1⟩
/-- `PW_CFG.DRAM_KEEP` [16:16], RW. 1 keeps DRAM in self-refresh in Watch -/
abbrev PW_CFG_DRAM_KEEP : Fld := ⟨(0x1014) * 8 + 16, 1, 0⟩
/-- `PW_CFG.TRIM_ALWAYS` [15:15], RW. 1 runs Trim after PIN, WDOG, SOFT and LINK resets -/
abbrev PW_CFG_TRIM_ALWAYS : Fld := ⟨(0x1014) * 8 + 15, 1, 0⟩
/-! PW_STATUS (03_power_clocks_resets.md). -/

/-- `PW_STATUS.PFAIL` [31:31], RO. The power-fail source is asserted now -/
abbrev PW_STATUS_PFAIL : Fld := ⟨(0x1018) * 8 + 31, 1, 0⟩
/-- `PW_STATUS.PFAIL_SEEN` [30:30], W1C. The power-fail source has asserted -/
abbrev PW_STATUS_PFAIL_SEEN : Fld := ⟨(0x1018) * 8 + 30, 1, 0⟩
/-- `PW_STATUS.PFAIL_GLITCH` [29:29], W1C. The power-fail source was released before the fence (R73) -/
abbrev PW_STATUS_PFAIL_GLITCH : Fld := ⟨(0x1018) * 8 + 29, 1, 0⟩
/-- `PW_STATUS.THERM_THROTTLE` [28:28], RO. The thermal factor F is now below 1 -/
abbrev PW_STATUS_THERM_THROTTLE : Fld := ⟨(0x1018) * 8 + 28, 1, 0⟩
/-- `PW_STATUS.THERM_SHUT` [27:27], RO. Thermal shutdown is in effect (R58) -/
abbrev PW_STATUS_THERM_SHUT : Fld := ⟨(0x1018) * 8 + 27, 1, 0⟩
/-- `PW_STATUS.THERM_SHUT_SEEN` [26:26], W1C. A thermal shutdown has occurred -/
abbrev PW_STATUS_THERM_SHUT_SEEN : Fld := ⟨(0x1018) * 8 + 26, 1, 0⟩
/-- `PW_STATUS.DRAM_VALID` [25:25], RO. DRAM contents were kept through the last reset or Watch -/
abbrev PW_STATUS_DRAM_VALID : Fld := ⟨(0x1018) * 8 + 25, 1, 0⟩
/-- `PW_STATUS.XTAL_FAIL` [24:24], W1C. The crystal failed to start within 10 ms (R53) -/
abbrev PW_STATUS_XTAL_FAIL : Fld := ⟨(0x1018) * 8 + 24, 1, 0⟩
/-! PW_RAIL (03_power_clocks_resets.md). -/

/-- `PW_RAIL.VRF_OK` [21:16], RO. Bit k = 1 when VRF_Gk is at or above 4.75 V -/
abbrev PW_RAIL_VRF_OK : Fld := ⟨(0x101c) * 8 + 16, 6, 0⟩
/-- `PW_RAIL.PEN` [13:8], RO. Present level of PEN5–PEN0 -/
abbrev PW_RAIL_PEN : Fld := ⟨(0x101c) * 8 + 8, 6, 0⟩
/-- `PW_RAIL.VIO_OK` [5:5], RO. VIO in regulation -/
abbrev PW_RAIL_VIO_OK : Fld := ⟨(0x101c) * 8 + 5, 1, 0⟩
/-- `PW_RAIL.VDDR_OK` [4:4], RO. VDDR in regulation -/
abbrev PW_RAIL_VDDR_OK : Fld := ⟨(0x101c) * 8 + 4, 1, 0⟩
/-- `PW_RAIL.VANA_OK` [3:3], RO. VANA in regulation -/
abbrev PW_RAIL_VANA_OK : Fld := ⟨(0x101c) * 8 + 3, 1, 0⟩
/-- `PW_RAIL.VCORE_OK` [2:2], RO. VCORE in regulation -/
abbrev PW_RAIL_VCORE_OK : Fld := ⟨(0x101c) * 8 + 2, 1, 0⟩
/-- `PW_RAIL.RAIL_FAIL` [1:1], W1C. A rail failed to come into regulation within its timeout (R53) -/
abbrev PW_RAIL_RAIL_FAIL : Fld := ⟨(0x101c) * 8 + 1, 1, 0⟩
/-- `PW_RAIL.VAON_OK` [0:0], RO. VAON in regulation -/
abbrev PW_RAIL_VAON_OK : Fld := ⟨(0x101c) * 8 + 0, 1, 1⟩
/-! PW_RF_CAP (03_power_clocks_resets.md). -/

/-- `PW_RF_CAP.CAP` [10:0], RW. Cap in 10 mW units, range 10–1 800 (0.1–18 W). Zero is out of range (R46) -/
abbrev PW_RF_CAP_CAP : Fld := ⟨(0x1020) * 8 + 0, 11, 1200⟩
/-! PW_RF_BUDGET (03_power_clocks_resets.md). -/

/-- `PW_RF_BUDGET.IN_USE` [26:16], RO. Commanded power of the channels energised in this slot, in 10 mW units -/
abbrev PW_RF_BUDGET_IN_USE : Fld := ⟨(0x1024) * 8 + 16, 11, 0⟩
/-- `PW_RF_BUDGET.BUDGET` [10:0], RO. Budget for this slot under R57, in 10 mW units -/
abbrev PW_RF_BUDGET_BUDGET : Fld := ⟨(0x1024) * 8 + 0, 11, 1200⟩
/-! PW_THERM (03_power_clocks_resets.md). -/

/-- `PW_THERM.THROTTLE` [7:0], RW. Throttle start in °C, range 90–115 -/
abbrev PW_THERM_THROTTLE : Fld := ⟨(0x1028) * 8 + 0, 8, 110⟩
/-! PW_TEMP (03_power_clocks_resets.md). -/

/-- `PW_TEMP.STALE` [31:31], RO. The value is held during Trim or from before it -/
abbrev PW_TEMP_STALE : Fld := ⟨(0x102c) * 8 + 31, 1, 1⟩
/-- `PW_TEMP.UNTRACED` [30:30], RO. The sensor trim has not been traced to a good calibration (*Calibration and Trimming*) -/
abbrev PW_TEMP_UNTRACED : Fld := ⟨(0x102c) * 8 + 30, 1, 0⟩
/-- `PW_TEMP.TEMP` [10:0], RO. Hottest sensor, two's complement, 0.25 °C per step -/
abbrev PW_TEMP_TEMP : Fld := ⟨(0x102c) * 8 + 0, 11, 0⟩
/-! PW_WAKE_EN (03_power_clocks_resets.md). -/

/-- `PW_WAKE_EN.TC_ALARM` [12:12], RW. The Tideclock reaches the start time of TPULSE0 -/
abbrev PW_WAKE_EN_TC_ALARM : Fld := ⟨(0x1030) * 8 + 12, 1, 1⟩
/-- `PW_WAKE_EN.GPIO` [11:8], RW. Edges on GPIO3–GPIO0, with polarity as set in *Signals and Ball Map* -/
abbrev PW_WAKE_EN_GPIO : Fld := ⟨(0x1030) * 8 + 8, 4, 0⟩
/-- `PW_WAKE_EN.TAMPER` [7:6], RO. TAMPER1 and TAMPER0. Always enabled -/
abbrev PW_WAKE_EN_TAMPER : Fld := ⟨(0x1030) * 8 + 6, 2, 3⟩
/-- `PW_WAKE_EN.TCAP` [5:2], RW. Edges on TCAP3–TCAP0 -/
abbrev PW_WAKE_EN_TCAP : Fld := ⟨(0x1030) * 8 + 2, 4, 15⟩
/-- `PW_WAKE_EN.GW0_CS` [1:1], RW. GW0 chip select 0 asserted. Watch only -/
abbrev PW_WAKE_EN_GW0_CS : Fld := ⟨(0x1030) * 8 + 1, 1, 1⟩
/-- `PW_WAKE_EN.DETECT` [0:0], RW. A Watchkeeper card detector has tripped -/
abbrev PW_WAKE_EN_DETECT : Fld := ⟨(0x1030) * 8 + 0, 1, 1⟩
/-! PW_WAKE_SRC (03_power_clocks_resets.md). -/

/-- `PW_WAKE_SRC.TC_ALARM` [12:12], W1C. The Tideclock reaches the start time of TPULSE0 -/
abbrev PW_WAKE_SRC_TC_ALARM : Fld := ⟨(0x1034) * 8 + 12, 1, 0⟩
/-- `PW_WAKE_SRC.GPIO` [11:8], W1C. Edges on GPIO3–GPIO0, with polarity as set in *Signals and Ball Map* -/
abbrev PW_WAKE_SRC_GPIO : Fld := ⟨(0x1034) * 8 + 8, 4, 0⟩
/-- `PW_WAKE_SRC.TAMPER` [7:6], W1C. TAMPER1 and TAMPER0. Always enabled -/
abbrev PW_WAKE_SRC_TAMPER : Fld := ⟨(0x1034) * 8 + 6, 2, 0⟩
/-- `PW_WAKE_SRC.TCAP` [5:2], W1C. Edges on TCAP3–TCAP0 -/
abbrev PW_WAKE_SRC_TCAP : Fld := ⟨(0x1034) * 8 + 2, 4, 0⟩
/-- `PW_WAKE_SRC.GW0_CS` [1:1], W1C. GW0 chip select 0 asserted. Watch only -/
abbrev PW_WAKE_SRC_GW0_CS : Fld := ⟨(0x1034) * 8 + 1, 1, 0⟩
/-- `PW_WAKE_SRC.DETECT` [0:0], W1C. A Watchkeeper card detector has tripped -/
abbrev PW_WAKE_SRC_DETECT : Fld := ⟨(0x1034) * 8 + 0, 1, 0⟩
/-! PW_CHREG_FAULT (03_power_clocks_resets.md). -/

/-- `PW_CHREG_FAULT.CH` [23:0], W1C. Bit n = 1 when channel n's regulator has reached its current limit. While the bit is set, channel n gets no transmit grants (R56) -/
abbrev PW_CHREG_FAULT_CH : Fld := ⟨(0x1038) * 8 + 0, 24, 0⟩
/-! GC_STATUS (03_power_clocks_resets.md). -/

/-- `GC_STATUS.PLLE_UNLOCK` [6:6], W1C. PLL_E has lost lock -/
abbrev GC_STATUS_PLLE_UNLOCK : Fld := ⟨(0x40) * 8 + 6, 1, 0⟩
/-- `GC_STATUS.PLLD_UNLOCK` [5:5], W1C. PLL_D has lost lock -/
abbrev GC_STATUS_PLLD_UNLOCK : Fld := ⟨(0x40) * 8 + 5, 1, 0⟩
/-- `GC_STATUS.PLLA_UNLOCK` [4:4], W1C. PLL_A has lost lock (R19) -/
abbrev GC_STATUS_PLLA_UNLOCK : Fld := ⟨(0x40) * 8 + 4, 1, 0⟩
/-- `GC_STATUS.PLLE_LOCK` [2:2], RO. PLL_E is locked now -/
abbrev GC_STATUS_PLLE_LOCK : Fld := ⟨(0x40) * 8 + 2, 1, 0⟩
/-- `GC_STATUS.PLLD_LOCK` [1:1], RO. PLL_D is locked now -/
abbrev GC_STATUS_PLLD_LOCK : Fld := ⟨(0x40) * 8 + 1, 1, 1⟩
/-- `GC_STATUS.PLLA_LOCK` [0:0], RO. PLL_A is locked now -/
abbrev GC_STATUS_PLLA_LOCK : Fld := ⟨(0x40) * 8 + 0, 1, 1⟩
/-! GC_CFG (03_power_clocks_resets.md). -/

/-- `GC_CFG.LINK_RESET_OK` [1:1], RW. 1 accepts LINK resets from the fabric root -/
abbrev GC_CFG_LINK_RESET_OK : Fld := ⟨(0x44) * 8 + 1, 1, 0⟩
/-- `GC_CFG.PLLE_EN` [0:0], RW. 1 runs PLL_E for SGMII -/
abbrev GC_CFG_PLLE_EN : Fld := ⟨(0x44) * 8 + 0, 1, 0⟩
/-! GC_RESET (03_power_clocks_resets.md). -/

/-- `GC_RESET.KEY` [15:8], WO. Must be 0x5A -/
abbrev GC_RESET_KEY : Fld := ⟨(0x48) * 8 + 8, 8, 0⟩
/-- `GC_RESET.KEEP_DECK` [1:1], WO. 1 keeps the Deck structure and skips the Manifest reload -/
abbrev GC_RESET_KEEP_DECK : Fld := ⟨(0x48) * 8 + 1, 1, 0⟩
/-- `GC_RESET.GO` [0:0], WO. 1 requests the reset -/
abbrev GC_RESET_GO : Fld := ⟨(0x48) * 8 + 0, 1, 0⟩
/-! GC_STRAP (04_boot_manifest.md). -/

/-- `GC_STRAP.CASCADE_MASTER` [4:4], RO. Level of CASCADE_MASTER at reset release Reset value: assumption 10. -/
abbrev GC_STRAP_CASCADE_MASTER : Fld := ⟨(0x50) * 8 + 4, 1, 0⟩
/-- `GC_STRAP.BOOT_SRC` [1:0], RO. Level of BOOT_SRC[1:0] at reset release Reset value: assumption 10. -/
abbrev GC_STRAP_BOOT_SRC : Fld := ⟨(0x50) * 8 + 0, 2, 0⟩
/-! GC_BOOT (04_boot_manifest.md). -/

/-- `GC_BOOT.BARE_CAUSE` [23:20], RO. 0x0 none, 0x1 STRAP, 0x2 AWAIT_HOST, 0x3 NO_IMAGE, 0x4 VERIFY_FAIL, 0x5 TRANSPORT -/
abbrev GC_BOOT_BARE_CAUSE : Fld := ⟨(0x54) * 8 + 20, 4, 0⟩
/-- `GC_BOOT.BARE` [19:19], RO. 1 in Bare deck -/
abbrev GC_BOOT_BARE : Fld := ⟨(0x54) * 8 + 19, 1, 0⟩
/-- `GC_BOOT.DECK_KEPT` [18:18], RO. Deck tiles kept under R99 -/
abbrev GC_BOOT_DECK_KEPT : Fld := ⟨(0x54) * 8 + 18, 1, 0⟩
/-- `GC_BOOT.KEYMODE` [17:16], RO. 0b01 SECURE, 0b10 OPEN (R82); 0b00 before check 2 -/
abbrev GC_BOOT_KEYMODE : Fld := ⟨(0x54) * 8 + 16, 2, 0⟩
/-- `GC_BOOT.SOURCE` [11:8], RO. Source of the running image: 0x1 flash slot A, 0x2 flash slot B, 0x3 host, 0x4–0x7 Hawser port 0–3; 0x0 none -/
abbrev GC_BOOT_SOURCE : Fld := ⟨(0x54) * 8 + 8, 4, 0⟩
/-- `GC_BOOT.STAGE` [2:0], RO. Step of R76, 0x1–0x7 -/
abbrev GC_BOOT_STAGE : Fld := ⟨(0x54) * 8 + 0, 3, 1⟩
/-! GC_BOOT_ERR (04_boot_manifest.md). -/

/-- `GC_BOOT_ERR.LAST_SECT` [31:24], RO. Low byte of the failing section type for the last image tried after the first; 0x00 when only one image was tried -/
abbrev GC_BOOT_ERR_LAST_SECT : Fld := ⟨(0x58) * 8 + 24, 8, 0⟩
/-- `GC_BOOT_ERR.LAST` [23:16], RO. Error of the last image tried after the first; 0x00 when only one image was tried -/
abbrev GC_BOOT_ERR_LAST : Fld := ⟨(0x58) * 8 + 16, 8, 0⟩
/-- `GC_BOOT_ERR.FIRST_SECT` [15:8], RO. Low byte of the failing section type for the first image tried -/
abbrev GC_BOOT_ERR_FIRST_SECT : Fld := ⟨(0x58) * 8 + 8, 8, 0⟩
/-- `GC_BOOT_ERR.FIRST` [7:0], RO. Error of the first image tried -/
abbrev GC_BOOT_ERR_FIRST : Fld := ⟨(0x58) * 8 + 0, 8, 0⟩
/-! GC_MANIFEST_ID (04_boot_manifest.md). -/

/-- `GC_MANIFEST_ID.ID` [63:0], RO. Header MANIFEST_ID -/
abbrev GC_MANIFEST_ID_ID : Fld := ⟨(0x5c) * 8 + 0, 64, 0⟩
/-! GC_SECVER (04_boot_manifest.md). -/

/-- `GC_SECVER.FUSE_MIN` [22:16], RO. Fuse minimum, 0–64 Reset value: assumption 10. -/
abbrev GC_SECVER_FUSE_MIN : Fld := ⟨(0x64) * 8 + 16, 7, 0⟩
/-- `GC_SECVER.RUNNING` [6:0], RO. SEC_VERSION of the running image -/
abbrev GC_SECVER_RUNNING : Fld := ⟨(0x64) * 8 + 0, 7, 0⟩
/-! DK_STATUS (04_boot_manifest.md). -/

/-- `DK_STATUS.TILES_USED` [15:8], RO. Tiles occupied, 0–64 -/
abbrev DK_STATUS_TILES_USED : Fld := ⟨(0x10010) * 8 + 8, 8, 0⟩
/-- `DK_STATUS.LOADED` [0:0], RO. 1 once step 6 of R76 has completed -/
abbrev DK_STATUS_LOADED : Fld := ⟨(0x10010) * 8 + 0, 1, 0⟩
/-! DK_MANIFEST_ID (04_boot_manifest.md). -/

/-- `DK_MANIFEST_ID.ID` [63:0], RO. MANIFEST_ID -/
abbrev DK_MANIFEST_ID_ID : Fld := ⟨(0x10014) * 8 + 0, 64, 0⟩
/-! DK_TILE (04_boot_manifest.md). -/

/-- `DK_TILE.CHANNEL` [15:8], RO. Channel served, or 0xFF for a shared engine or a free tile -/
abbrev DK_TILE_CHANNEL (n : Nat) : Fld := ⟨(0x10100 + n % 64 * 0x4) * 8 + 8, 8, 255⟩
/-- `DK_TILE.FUNC` [3:0], RO. FUNC code of R85, or 0x0 for a free tile -/
abbrev DK_TILE_FUNC (n : Nat) : Fld := ⟨(0x10100 + n % 64 * 0x4) * 8 + 0, 4, 0⟩
/-! CH_TX_AMP (05_transmit.md). -/

/-- `CH_TX_AMP.MAXP` [31:24], RO. MAX_POWER of the channel, 10 mW units Reset value: assumption 10. -/
abbrev CH_TX_AMP_MAXP (n : Nat) : Fld := ⟨(0x40010 + n % 24 * 0x2000) * 8 + 24, 8, 0⟩
/-- `CH_TX_AMP.PWR` [23:16], RO. P(CODE) of R102, 10 mW units -/
abbrev CH_TX_AMP_PWR (n : Nat) : Fld := ⟨(0x40010 + n % 24 * 0x2000) * 8 + 16, 8, 0⟩
/-- `CH_TX_AMP.CODE` [9:0], RW. Amplitude code 0–1023; 0 means no field (R102, R103, R105) -/
abbrev CH_TX_AMP_CODE (n : Nat) : Fld := ⟨(0x40010 + n % 24 * 0x2000) * 8 + 0, 10, 0⟩
/-! CH_TX_RAMP (05_transmit.md). -/

/-- `CH_TX_RAMP.TAIL` [23:16], RW. µs between the end of RAMP_DOWN and the end point of R110, range 1–50 -/
abbrev CH_TX_RAMP_TAIL (n : Nat) : Fld := ⟨(0x40014 + n % 24 * 0x2000) * 8 + 16, 8, 8⟩
/-- `CH_TX_RAMP.RAMP_OFF` [15:8], RW. cc, 0–255; 0 means no ramp -/
abbrev CH_TX_RAMP_RAMP_OFF (n : Nat) : Fld := ⟨(0x40014 + n % 24 * 0x2000) * 8 + 8, 8, 16⟩
/-- `CH_TX_RAMP.RAMP_ON` [7:0], RW. cc, 0–255; 0 means no ramp -/
abbrev CH_TX_RAMP_RAMP_ON (n : Nat) : Fld := ⟨(0x40014 + n % 24 * 0x2000) * 8 + 0, 8, 16⟩
/-! CH_TX_PAUSE (05_transmit.md). -/

/-- `CH_TX_PAUSE.PAUSE_A848` [31:24], RW. Pause at fc/16 -/
abbrev CH_TX_PAUSE_PAUSE_A848 (n : Nat) : Fld := ⟨(0x40018 + n % 24 * 0x2000) * 8 + 24, 8, 5⟩
/-- `CH_TX_PAUSE.PAUSE_A424` [23:16], RW. Pause at fc/32 -/
abbrev CH_TX_PAUSE_PAUSE_A424 (n : Nat) : Fld := ⟨(0x40018 + n % 24 * 0x2000) * 8 + 16, 8, 9⟩
/-- `CH_TX_PAUSE.PAUSE_A212` [15:8], RW. Pause at fc/64 -/
abbrev CH_TX_PAUSE_PAUSE_A212 (n : Nat) : Fld := ⟨(0x40018 + n % 24 * 0x2000) * 8 + 8, 8, 17⟩
/-- `CH_TX_PAUSE.PAUSE_A106` [7:0], RW. Pause at fc/128 -/
abbrev CH_TX_PAUSE_PAUSE_A106 (n : Nat) : Fld := ⟨(0x40018 + n % 24 * 0x2000) * 8 + 0, 8, 34⟩
/-! CH_TX_ASK100 (05_transmit.md). -/

/-- `CH_TX_ASK100.PAUSE_V` [23:16], RW. ISO/IEC 15693 pause, cc, 1–255 -/
abbrev CH_TX_ASK100_PAUSE_V (n : Nat) : Fld := ⟨(0x4001c + n % 24 * 0x2000) * 8 + 16, 8, 128⟩
/-- `CH_TX_ASK100.KICK` [15:8], RW. Phase reversal at pause start, oct, 0–32; 0 means none -/
abbrev CH_TX_ASK100_KICK (n : Nat) : Fld := ⟨(0x4001c + n % 24 * 0x2000) * 8 + 8, 8, 8⟩
/-- `CH_TX_ASK100.RISE` [3:0], RW. Restart ramp, cc, 0–15; 0 means none -/
abbrev CH_TX_ASK100_RISE (n : Nat) : Fld := ⟨(0x4001c + n % 24 * 0x2000) * 8 + 0, 4, 2⟩
/-! CH_TX_ASK10 (05_transmit.md). -/

/-- `CH_TX_ASK10.EDGE` [31:24], RW. Transition length, cc, 0–31; 0 means one step -/
abbrev CH_TX_ASK10_EDGE (n : Nat) : Fld := ⟨(0x40020 + n % 24 * 0x2000) * 8 + 24, 8, 3⟩
/-- `CH_TX_ASK10.INDEX_F` [23:16], RW. NFC-F -/
abbrev CH_TX_ASK10_INDEX_F (n : Nat) : Fld := ⟨(0x40020 + n % 24 * 0x2000) * 8 + 16, 8, 12⟩
/-- `CH_TX_ASK10.INDEX_V` [15:8], RW. ISO/IEC 15693 -/
abbrev CH_TX_ASK10_INDEX_V (n : Nat) : Fld := ⟨(0x40020 + n % 24 * 0x2000) * 8 + 8, 8, 15⟩
/-- `CH_TX_ASK10.INDEX_B` [7:0], RW. ISO/IEC 14443 Type B and VHBR ASK -/
abbrev CH_TX_ASK10_INDEX_B (n : Nat) : Fld := ⟨(0x40020 + n % 24 * 0x2000) * 8 + 0, 8, 11⟩
/-! CH_TX_PSK (05_transmit.md). -/

/-- `CH_TX_PSK.ANGLE` [7:0], RW. Phase change in 3° units, 1–60 -/
abbrev CH_TX_PSK_ANGLE (n : Nat) : Fld := ⟨(0x40024 + n % 24 * 0x2000) * 8 + 0, 8, 60⟩
/-! CH_TX_GUARD (05_transmit.md). -/

/-- `CH_TX_GUARD.RESET_OFF` [31:16], RW. RF reset off time, µs, 100–20 000 (R112) -/
abbrev CH_TX_GUARD_RESET_OFF (n : Nat) : Fld := ⟨(0x40028 + n % 24 * 0x2000) * 8 + 16, 16, 6000⟩
/-- `CH_TX_GUARD.GUARD` [15:0], RW. µs from entry to RAMP_UP until the first command, 0–20 000; 0 means none (R108) -/
abbrev CH_TX_GUARD_GUARD (n : Nat) : Fld := ⟨(0x40028 + n % 24 * 0x2000) * 8 + 0, 16, 5000⟩
/-! CH_SEL_CFG (05_transmit.md). -/

/-- `CH_SEL_CFG.SELDIV` [17:16], RW, RO in mirror channels. SELCLK period T: 0b00 4 cc, 0b01 8 cc, 0b10 16 cc, 0b11 32 cc -/
abbrev CH_SEL_CFG_SELDIV (n : Nat) : Fld := ⟨(0x4002c + n % 24 * 0x2000) * 8 + 16, 2, 1⟩
/-- `CH_SEL_CFG.PARK` [9:9], RW. 1 disconnects the coils in idle slots (R122) -/
abbrev CH_SEL_CFG_PARK (n : Nat) : Fld := ⟨(0x4002c + n % 24 * 0x2000) * 8 + 9, 1, 0⟩
/-- `CH_SEL_CFG.LEAD` [8:0], RW, RO in mirror channels. Frame start before the slot boundary, µs, 32–500 -/
abbrev CH_SEL_CFG_LEAD (n : Nat) : Fld := ⟨(0x4002c + n % 24 * 0x2000) * 8 + 0, 9, 100⟩
/-! CH_SEL_STATUS (05_transmit.md). -/

/-- `CH_SEL_STATUS.FRAMES` [31:16], RO. Select frames sent, modulo 65 536 -/
abbrev CH_SEL_STATUS_FRAMES (n : Nat) : Fld := ⟨(0x40030 + n % 24 * 0x2000) * 8 + 16, 16, 0⟩
/-- `CH_SEL_STATUS.ON` [7:7], RO. ON bit of the last applied frame -/
abbrev CH_SEL_STATUS_ON (n : Nat) : Fld := ⟨(0x40030 + n % 24 * 0x2000) * 8 + 7, 1, 0⟩
/-- `CH_SEL_STATUS.PENDING` [6:6], RO. A frame is scheduled for the next boundary -/
abbrev CH_SEL_STATUS_PENDING (n : Nat) : Fld := ⟨(0x40030 + n % 24 * 0x2000) * 8 + 6, 1, 0⟩
/-- `CH_SEL_STATUS.COIL` [5:0], RO. Coil index of the last applied frame -/
abbrev CH_SEL_STATUS_COIL (n : Nat) : Fld := ⟨(0x40030 + n % 24 * 0x2000) * 8 + 0, 6, 0⟩
/-! CH_TX_STATUS (05_transmit.md). -/

/-- `CH_TX_STATUS.FIELD_ON` [31:31], RO. State is RAMP_UP, ON, RESET_DOWN or RAMP_DOWN -/
abbrev CH_TX_STATUS_FIELD_ON (n : Nat) : Fld := ⟨(0x40034 + n % 24 * 0x2000) * 8 + 31, 1, 0⟩
/-- `CH_TX_STATUS.RAMPING` [30:30], RO. State is RAMP_UP, RESET_DOWN or RAMP_DOWN -/
abbrev CH_TX_STATUS_RAMPING (n : Nat) : Fld := ⟨(0x40034 + n % 24 * 0x2000) * 8 + 30, 1, 0⟩
/-- `CH_TX_STATUS.HEADROOM` [29:29], RO. Regulator in dropout now (R104) -/
abbrev CH_TX_STATUS_HEADROOM (n : Nat) : Fld := ⟨(0x40034 + n % 24 * 0x2000) * 8 + 29, 1, 0⟩
/-- `CH_TX_STATUS.AMP_PENDING` [28:28], RO. A higher code waits for the next grant (R105) -/
abbrev CH_TX_STATUS_AMP_PENDING (n : Nat) : Fld := ⟨(0x40034 + n % 24 * 0x2000) * 8 + 28, 1, 0⟩
/-- `CH_TX_STATUS.ACTIVE_CODE` [25:16], RO. Code in force -/
abbrev CH_TX_STATUS_ACTIVE_CODE (n : Nat) : Fld := ⟨(0x40034 + n % 24 * 0x2000) * 8 + 16, 10, 0⟩
/-- `CH_TX_STATUS.LOAD_COIL` [15:10], RO. Coil of the last load fault -/
abbrev CH_TX_STATUS_LOAD_COIL (n : Nat) : Fld := ⟨(0x40034 + n % 24 * 0x2000) * 8 + 10, 6, 0⟩
/-- `CH_TX_STATUS.CUT_CAUSE` [6:4], RO. Last cut: 0b001 thermal shutdown, 0b010 PLL_A unlock, 0b011 ZERO_CODE; 0b000 none -/
abbrev CH_TX_STATUS_CUT_CAUSE (n : Nat) : Fld := ⟨(0x40034 + n % 24 * 0x2000) * 8 + 4, 3, 0⟩
/-- `CH_TX_STATUS.CUT_SEEN` [3:3], W1C. A cut has occurred (R111) -/
abbrev CH_TX_STATUS_CUT_SEEN (n : Nat) : Fld := ⟨(0x40034 + n % 24 * 0x2000) * 8 + 3, 1, 0⟩
/-- `CH_TX_STATUS.HEADROOM_SEEN` [2:2], W1C. Dropout has occurred -/
abbrev CH_TX_STATUS_HEADROOM_SEEN (n : Nat) : Fld := ⟨(0x40034 + n % 24 * 0x2000) * 8 + 2, 1, 0⟩
/-- `CH_TX_STATUS.LOAD_FAULT` [1:1], W1C. A load outside the window has been measured (R124) -/
abbrev CH_TX_STATUS_LOAD_FAULT (n : Nat) : Fld := ⟨(0x40034 + n % 24 * 0x2000) * 8 + 1, 1, 0⟩
/-! CH_TX_LOAD (05_transmit.md). -/

/-- `CH_TX_LOAD.STALE` [31:31], RO. No measurement since Trim or reset -/
abbrev CH_TX_LOAD_STALE (n : Nat) : Fld := ⟨(0x40038 + n % 24 * 0x2000) * 8 + 31, 1, 1⟩
/-- `CH_TX_LOAD.UNTRACED` [30:30], RO. Calibration not traced -/
abbrev CH_TX_LOAD_UNTRACED (n : Nat) : Fld := ⟨(0x40038 + n % 24 * 0x2000) * 8 + 30, 1, 0⟩
/-- `CH_TX_LOAD.COIL` [29:24], RO. Coil index measured -/
abbrev CH_TX_LOAD_COIL (n : Nat) : Fld := ⟨(0x40038 + n % 24 * 0x2000) * 8 + 24, 6, 0⟩
/-- `CH_TX_LOAD.PHASE` [23:16], RO. Load phase, degrees, two's complement -/
abbrev CH_TX_LOAD_PHASE (n : Nat) : Fld := ⟨(0x40038 + n % 24 * 0x2000) * 8 + 16, 8, 0⟩
/-- `CH_TX_LOAD.MAG` [11:0], RO. Load magnitude, 0.1 Ω units -/
abbrev CH_TX_LOAD_MAG (n : Nat) : Fld := ⟨(0x40038 + n % 24 * 0x2000) * 8 + 0, 12, 0⟩
/-! CH_TX_LIMIT (05_transmit.md). -/

/-- `CH_TX_LIMIT.PHASE_MAX` [31:24], RW. Degrees, 5–90 -/
abbrev CH_TX_LIMIT_PHASE_MAX (n : Nat) : Fld := ⟨(0x4003c + n % 24 * 0x2000) * 8 + 24, 8, 35⟩
/-- `CH_TX_LIMIT.MAG_MAX` [23:12], RW. 0.1 Ω units, 30–4 000 -/
abbrev CH_TX_LIMIT_MAG_MAX (n : Nat) : Fld := ⟨(0x4003c + n % 24 * 0x2000) * 8 + 12, 12, 400⟩
/-- `CH_TX_LIMIT.MAG_MIN` [11:0], RW. 0.1 Ω units, 20–3 990 -/
abbrev CH_TX_LIMIT_MAG_MIN (n : Nat) : Fld := ⟨(0x4003c + n % 24 * 0x2000) * 8 + 0, 12, 100⟩
/-! CH_RX_CFG (06_receive.md). -/

/-- `CH_RX_CFG.COLL_DB` [20:16], RW. Collision criterion of R139, dB, 3–24 -/
abbrev CH_RX_CFG_COLL_DB (n : Nat) : Fld := ⟨(0x40100 + n % 24 * 0x2000) * 8 + 16, 5, 12⟩
/-- `CH_RX_CFG.CORR_THRESH` [14:10], RW. Correlation threshold above the noise floor, dB, 3–20 -/
abbrev CH_RX_CFG_CORR_THRESH (n : Nat) : Fld := ⟨(0x40100 + n % 24 * 0x2000) * 8 + 10, 5, 9⟩
/-- `CH_RX_CFG.BLANK` [9:0], RW. Blanking after the last modulation edge, cc, 0–1023; 0 means none -/
abbrev CH_RX_CFG_BLANK (n : Nat) : Fld := ⟨(0x40100 + n % 24 * 0x2000) * 8 + 0, 10, 64⟩
/-! CH_EQ_CFG (06_receive.md). -/

/-- `CH_EQ_CFG.CONV` [23:16], RW. Convergence bound, MSE at or below −CONV dB, 6–30 -/
abbrev CH_EQ_CFG_CONV (n : Nat) : Fld := ⟨(0x40104 + n % 24 * 0x2000) * 8 + 16, 8, 14⟩
/-- `CH_EQ_CFG.MU_TRACK` [15:12], RW. Tracking step 2^−value; 0 or 4–14; 0 means no tracking -/
abbrev CH_EQ_CFG_MU_TRACK (n : Nat) : Fld := ⟨(0x40104 + n % 24 * 0x2000) * 8 + 12, 4, 11⟩
/-- `CH_EQ_CFG.MU_TRAIN` [11:8], RW. Training step 2^−value, 4–14 -/
abbrev CH_EQ_CFG_MU_TRAIN (n : Nat) : Fld := ⟨(0x40104 + n % 24 * 0x2000) * 8 + 8, 4, 7⟩
/-- `CH_EQ_CFG.SEED_CLR` [3:3], W1S. 1 clears the 64 seeds; reads 1 until done -/
abbrev CH_EQ_CFG_SEED_CLR (n : Nat) : Fld := ⟨(0x40104 + n % 24 * 0x2000) * 8 + 3, 1, 0⟩
/-- `CH_EQ_CFG.SEED` [2:2], RW. 1 starts from the coil's seed (R145) -/
abbrev CH_EQ_CFG_SEED (n : Nat) : Fld := ⟨(0x40104 + n % 24 * 0x2000) * 8 + 2, 1, 1⟩
/-- `CH_EQ_CFG.EQ_MODE` [1:0], RW. 0b00 off, 0b01 fc/8 and above, 0b10 fc/16 and above; 0b11 out of range -/
abbrev CH_EQ_CFG_EQ_MODE (n : Nat) : Fld := ⟨(0x40104 + n % 24 * 0x2000) * 8 + 0, 2, 1⟩
/-! CH_RX_STATUS (06_receive.md). -/

/-- `CH_RX_STATUS.STATE` [31:29], RO. 0 IDLE, 1 HUNT, 2 RX_EARLY, 3 RX_LATE, 4 REPLAY, 5 CHECK, 6 LISTEN -/
abbrev CH_RX_STATUS_STATE (n : Nat) : Fld := ⟨(0x40108 + n % 24 * 0x2000) * 8 + 29, 3, 0⟩
/-- `CH_RX_STATUS.FOREIGN` [5:5], RO. Last foreign carrier above −40 dBm (R151) -/
abbrev CH_RX_STATUS_FOREIGN (n : Nat) : Fld := ⟨(0x40108 + n % 24 * 0x2000) * 8 + 5, 1, 0⟩
/-- `CH_RX_STATUS.OVERLOAD_SEEN` [4:4], W1C. R130 has applied -/
abbrev CH_RX_STATUS_OVERLOAD_SEEN (n : Nat) : Fld := ⟨(0x40108 + n % 24 * 0x2000) * 8 + 4, 1, 0⟩
/-- `CH_RX_STATUS.EQ_DIVERGED_SEEN` [3:3], W1C. R146 has applied -/
abbrev CH_RX_STATUS_EQ_DIVERGED_SEEN (n : Nat) : Fld := ⟨(0x40108 + n % 24 * 0x2000) * 8 + 3, 1, 0⟩
/-- `CH_RX_STATUS.CAPTURE_SEEN` [2:2], W1C. R140 has applied -/
abbrev CH_RX_STATUS_CAPTURE_SEEN (n : Nat) : Fld := ⟨(0x40108 + n % 24 * 0x2000) * 8 + 2, 1, 0⟩
/-- `CH_RX_STATUS.INTERF_SEEN` [1:1], W1C. R142 has applied -/
abbrev CH_RX_STATUS_INTERF_SEEN (n : Nat) : Fld := ⟨(0x40108 + n % 24 * 0x2000) * 8 + 1, 1, 0⟩
/-! CH_RX_LEVEL (06_receive.md). -/

/-- `CH_RX_LEVEL.STALE` [31:31], RO. R152 -/
abbrev CH_RX_LEVEL_STALE (n : Nat) : Fld := ⟨(0x4010c + n % 24 * 0x2000) * 8 + 31, 1, 1⟩
/-- `CH_RX_LEVEL.UNTRACED` [30:30], RO. R152 -/
abbrev CH_RX_LEVEL_UNTRACED (n : Nat) : Fld := ⟨(0x4010c + n % 24 * 0x2000) * 8 + 30, 1, 0⟩
/-- `CH_RX_LEVEL.COIL` [29:24], RO. Coil selected for the frame -/
abbrev CH_RX_LEVEL_COIL (n : Nat) : Fld := ⟨(0x4010c + n % 24 * 0x2000) * 8 + 24, 6, 0⟩
/-- `CH_RX_LEVEL.PHASE` [23:16], RO. Value × 360 / 256 degrees -/
abbrev CH_RX_LEVEL_PHASE (n : Nat) : Fld := ⟨(0x4010c + n % 24 * 0x2000) * 8 + 16, 8, 0⟩
/-- `CH_RX_LEVEL.SB_AMP` [15:8], RO. −0.5 dB × value, dBFS -/
abbrev CH_RX_LEVEL_SB_AMP (n : Nat) : Fld := ⟨(0x4010c + n % 24 * 0x2000) * 8 + 8, 8, 0⟩
/-- `CH_RX_LEVEL.LEVEL` [7:0], RO. −0.5 dB × value, dBFS -/
abbrev CH_RX_LEVEL_LEVEL (n : Nat) : Fld := ⟨(0x4010c + n % 24 * 0x2000) * 8 + 0, 8, 0⟩
/-! CH_RX_CARRIER (06_receive.md). -/

/-- `CH_RX_CARRIER.STALE` [31:31], RO. R152 -/
abbrev CH_RX_CARRIER_STALE (n : Nat) : Fld := ⟨(0x40110 + n % 24 * 0x2000) * 8 + 31, 1, 1⟩
/-- `CH_RX_CARRIER.UNTRACED` [30:30], RO. R152 -/
abbrev CH_RX_CARRIER_UNTRACED (n : Nat) : Fld := ⟨(0x40110 + n % 24 * 0x2000) * 8 + 30, 1, 0⟩
/-- `CH_RX_CARRIER.OWN` [29:29], RO. 1 own carrier, 0 foreign -/
abbrev CH_RX_CARRIER_OWN (n : Nat) : Fld := ⟨(0x40110 + n % 24 * 0x2000) * 8 + 29, 1, 0⟩
/-- `CH_RX_CARRIER.COIL` [13:8], RO. Coil selected -/
abbrev CH_RX_CARRIER_COIL (n : Nat) : Fld := ⟨(0x40110 + n % 24 * 0x2000) * 8 + 8, 6, 0⟩
/-- `CH_RX_CARRIER.LEVEL` [7:0], RO. −0.5 dB × value, dBFS -/
abbrev CH_RX_CARRIER_LEVEL (n : Nat) : Fld := ⟨(0x40110 + n % 24 * 0x2000) * 8 + 0, 8, 0⟩
/-! CH_RX_COLLMAP (06_receive.md). -/

/-- `CH_RX_COLLMAP.FLAGS` [31:0], RO. Bit j = flag of frame bit 32m + j in register m; 0 beyond BITS -/
abbrev CH_RX_COLLMAP_FLAGS (n k : Nat) : Fld := ⟨(0x40114 + n % 24 * 0x2000 + k % 3 * 0x4) * 8 + 0, 32, 0⟩
/-! CH_RX_FRAMES (06_receive.md). -/

/-- `CH_RX_FRAMES.COUNT` [63:0], RO. R154 -/
abbrev CH_RX_FRAMES_COUNT (n : Nat) : Fld := ⟨(0x40120 + n % 24 * 0x2000) * 8 + 0, 64, 0⟩
/-! CH_STATS (06_receive.md). -/

/-- `CH_STATS.FALSE_SOF` [31:24], RC. Frames discarded under R141 -/
abbrev CH_STATS_FALSE_SOF (n : Nat) : Fld := ⟨(0x40128 + n % 24 * 0x2000) * 8 + 24, 8, 0⟩
/-- `CH_STATS.FRAGMENT` [23:16], RC. Frames abandoned under R140 -/
abbrev CH_STATS_FRAGMENT (n : Nat) : Fld := ⟨(0x40128 + n % 24 * 0x2000) * 8 + 16, 8, 0⟩
/-- `CH_STATS.CRC_ERR` [15:8], RC. Frames with a failed CRC -/
abbrev CH_STATS_CRC_ERR (n : Nat) : Fld := ⟨(0x40128 + n % 24 * 0x2000) * 8 + 8, 8, 0⟩
/-- `CH_STATS.OVERLOAD` [7:0], RC. Frames with OVERLOAD -/
abbrev CH_STATS_OVERLOAD (n : Nat) : Fld := ⟨(0x40128 + n % 24 * 0x2000) * 8 + 0, 8, 0⟩
/-! CH_EQ_STATUS (06_receive.md). -/

/-- `CH_EQ_STATUS.HOLD` [31:31], RW. 1 freezes the snapshot -/
abbrev CH_EQ_STATUS_HOLD (n : Nat) : Fld := ⟨(0x4012c + n % 24 * 0x2000) * 8 + 31, 1, 0⟩
/-- `CH_EQ_STATUS.VALID` [30:30], RO. A snapshot has been taken since reset -/
abbrev CH_EQ_STATUS_VALID (n : Nat) : Fld := ⟨(0x4012c + n % 24 * 0x2000) * 8 + 30, 1, 0⟩
/-- `CH_EQ_STATUS.DIVERGED` [29:29], RO. The snapshot frame had EQ_DIVERGED -/
abbrev CH_EQ_STATUS_DIVERGED (n : Nat) : Fld := ⟨(0x4012c + n % 24 * 0x2000) * 8 + 29, 1, 0⟩
/-- `CH_EQ_STATUS.COIL` [28:23], RO. Coil of the snapshot frame -/
abbrev CH_EQ_STATUS_COIL (n : Nat) : Fld := ⟨(0x4012c + n % 24 * 0x2000) * 8 + 23, 6, 0⟩
/-- `CH_EQ_STATUS.MSE` [15:8], RO. Final MSE = −0.5 dB × value -/
abbrev CH_EQ_STATUS_MSE (n : Nat) : Fld := ⟨(0x4012c + n % 24 * 0x2000) * 8 + 8, 8, 0⟩
/-- `CH_EQ_STATUS.SEQ` [7:0], RO. Snapshots taken, modulo 256 -/
abbrev CH_EQ_STATUS_SEQ (n : Nat) : Fld := ⟨(0x4012c + n % 24 * 0x2000) * 8 + 0, 8, 0⟩
/-! CH_EQ_FFE (06_receive.md). -/

/-- `CH_EQ_FFE.I` [31:16], RO. In-phase part -/
abbrev CH_EQ_FFE_I (n k : Nat) : Fld := ⟨(0x40140 + n % 24 * 0x2000 + k % 16 * 0x4) * 8 + 16, 16, (if k = 7 then 0x2000 else 0)⟩
/-- `CH_EQ_FFE.Q` [15:0], RO. Quadrature part -/
abbrev CH_EQ_FFE_Q (n k : Nat) : Fld := ⟨(0x40140 + n % 24 * 0x2000 + k % 16 * 0x4) * 8 + 0, 16, 0⟩
/-! CH_EQ_DFE (06_receive.md). -/

/-- `CH_EQ_DFE.I` [31:16], RO. In-phase part -/
abbrev CH_EQ_DFE_I (n k : Nat) : Fld := ⟨(0x40180 + n % 24 * 0x2000 + k % 8 * 0x4) * 8 + 16, 16, 0⟩
/-- `CH_EQ_DFE.Q` [15:0], RO. Quadrature part -/
abbrev CH_EQ_DFE_Q (n k : Nat) : Fld := ⟨(0x40180 + n % 24 * 0x2000 + k % 8 * 0x4) * 8 + 0, 16, 0⟩
/-! CH_FT_DLY_A (07_framing_timing.md). -/

/-- `CH_FT_DLY_A.DLY_OCT` [26:24], RW. Additional oct, 0–7 -/
abbrev CH_FT_DLY_A_DLY_OCT (n : Nat) : Fld := ⟨(0x40200 + n % 24 * 0x2000) * 8 + 24, 3, 0⟩
/-- `CH_FT_DLY_A.DLY_CC` [19:0], RW. cc, 1 172–1 048 575 -/
abbrev CH_FT_DLY_A_DLY_CC (n : Nat) : Fld := ⟨(0x40200 + n % 24 * 0x2000) * 8 + 0, 20, 1172⟩
/-! CH_FT_DLY_B (07_framing_timing.md). -/

/-- `CH_FT_DLY_B.DLY_OCT` [26:24], RW. Additional oct, 0–7 -/
abbrev CH_FT_DLY_B_DLY_OCT (n : Nat) : Fld := ⟨(0x40204 + n % 24 * 0x2000) * 8 + 24, 3, 0⟩
/-- `CH_FT_DLY_B.DLY_CC` [19:0], RW. cc, 1 172–1 048 575 -/
abbrev CH_FT_DLY_B_DLY_CC (n : Nat) : Fld := ⟨(0x40204 + n % 24 * 0x2000) * 8 + 0, 20, 1280⟩
/-! CH_FT_DLY_V (07_framing_timing.md). -/

/-- `CH_FT_DLY_V.DLY_OCT` [26:24], RW. Additional oct, 0–7 -/
abbrev CH_FT_DLY_V_DLY_OCT (n : Nat) : Fld := ⟨(0x40208 + n % 24 * 0x2000) * 8 + 24, 3, 0⟩
/-- `CH_FT_DLY_V.DLY_CC` [19:0], RW. cc, 1 172–1 048 575 -/
abbrev CH_FT_DLY_V_DLY_CC (n : Nat) : Fld := ⟨(0x40208 + n % 24 * 0x2000) * 8 + 0, 20, 4192⟩
/-! CH_FT_DLY_F (07_framing_timing.md). -/

/-- `CH_FT_DLY_F.DLY_OCT` [26:24], RW. Additional oct, 0–7 -/
abbrev CH_FT_DLY_F_DLY_OCT (n : Nat) : Fld := ⟨(0x4020c + n % 24 * 0x2000) * 8 + 24, 3, 0⟩
/-- `CH_FT_DLY_F.DLY_CC` [19:0], RW. cc, 1 172–1 048 575 -/
abbrev CH_FT_DLY_F_DLY_CC (n : Nat) : Fld := ⟨(0x4020c + n % 24 * 0x2000) * 8 + 0, 20, 1280⟩
/-! CH_FT_WIN (07_framing_timing.md). -/

/-- `CH_FT_WIN.LATE_TOL` [23:12], RW. cc after the expected RS, or after the fixed deadline, 16–2 048 (R167) -/
abbrev CH_FT_WIN_LATE_TOL (n : Nat) : Fld := ⟨(0x40210 + n % 24 * 0x2000) * 8 + 12, 12, 256⟩
/-- `CH_FT_WIN.DEV_TOL` [11:0], RW. oct, 1–4 095 (R169) -/
abbrev CH_FT_WIN_DEV_TOL (n : Nat) : Fld := ⟨(0x40210 + n % 24 * 0x2000) * 8 + 0, 12, 64⟩
/-! CH_FT_FWT (07_framing_timing.md). -/

/-- `CH_FT_FWT.WTX_MAX` [31:24], RW. S(WTX) requests accepted per exchange, 0–255; 0 means none (R173) -/
abbrev CH_FT_FWT_WTX_MAX (n : Nat) : Fld := ⟨(0x40214 + n % 24 * 0x2000) * 8 + 24, 8, 64⟩
/-- `CH_FT_FWT.RETRY` [19:16], RW. Recovery frames per exchange, 0–5; 0 means none (R172) -/
abbrev CH_FT_FWT_RETRY (n : Nat) : Fld := ⟨(0x40214 + n % 24 * 0x2000) * 8 + 16, 4, 2⟩
/-- `CH_FT_FWT.FWI_DEF` [3:0], RW. FWI used before a session has one, 0–14 (R170) -/
abbrev CH_FT_FWT_FWI_DEF (n : Nat) : Fld := ⟨(0x40214 + n % 24 * 0x2000) * 8 + 0, 4, 4⟩
/-! CH_FT_STATUS (07_framing_timing.md). -/

/-- `CH_FT_STATUS.SEQ` [31:28], RO. 0 IDLE, 1 WAIT_GUARD, 2 PLACE, 3 TX, 4 ARMED, 5 RECEIVE, 6 RECOVER -/
abbrev CH_FT_STATUS_SEQ (n : Nat) : Fld := ⟨(0x40218 + n % 24 * 0x2000) * 8 + 28, 4, 0⟩
/-- `CH_FT_STATUS.LATE_SEEN` [3:3], W1C. R164 has applied -/
abbrev CH_FT_STATUS_LATE_SEEN (n : Nat) : Fld := ⟨(0x40218 + n % 24 * 0x2000) * 8 + 3, 1, 0⟩
/-- `CH_FT_STATUS.DEV_SEEN` [2:2], W1C. R169 has set DEV -/
abbrev CH_FT_STATUS_DEV_SEEN (n : Nat) : Fld := ⟨(0x40218 + n % 24 * 0x2000) * 8 + 2, 1, 0⟩
/-- `CH_FT_STATUS.WTX_SEEN` [1:1], W1C. R171 has applied -/
abbrev CH_FT_STATUS_WTX_SEEN (n : Nat) : Fld := ⟨(0x40218 + n % 24 * 0x2000) * 8 + 1, 1, 0⟩
/-- `CH_FT_STATUS.FMT_SEEN` [0:0], W1C. R162 has set FMT_ERR -/
abbrev CH_FT_STATUS_FMT_SEEN (n : Nat) : Fld := ⟨(0x40218 + n % 24 * 0x2000) * 8 + 0, 1, 0⟩
/-! CH_FT_STATS (07_framing_timing.md). -/

/-- `CH_FT_STATS.WTX` [31:24], RC. S(WTX) requests answered -/
abbrev CH_FT_STATS_WTX (n : Nat) : Fld := ⟨(0x4021c + n % 24 * 0x2000) * 8 + 24, 8, 0⟩
/-- `CH_FT_STATS.TIMEOUT` [23:16], RC. Armings reported NO_REPLY -/
abbrev CH_FT_STATS_TIMEOUT (n : Nat) : Fld := ⟨(0x4021c + n % 24 * 0x2000) * 8 + 16, 8, 0⟩
/-- `CH_FT_STATS.DEV` [15:8], RC. Replies outside DEV_TOL -/
abbrev CH_FT_STATS_DEV (n : Nat) : Fld := ⟨(0x4021c + n % 24 * 0x2000) * 8 + 8, 8, 0⟩
/-- `CH_FT_STATS.LATE` [7:0], RC. Commands placed late -/
abbrev CH_FT_STATS_LATE (n : Nat) : Fld := ⟨(0x4021c + n % 24 * 0x2000) * 8 + 0, 8, 0⟩
/-! CH_FT_LAST (07_framing_timing.md). -/

/-- `CH_FT_LAST.REF` [31:30], RO. R178 -/
abbrev CH_FT_LAST_REF (n : Nat) : Fld := ⟨(0x40220 + n % 24 * 0x2000) * 8 + 30, 2, 0⟩
/-- `CH_FT_LAST.DELAY` [29:0], RO. R178 -/
abbrev CH_FT_LAST_DELAY (n : Nat) : Fld := ⟨(0x40220 + n % 24 * 0x2000) * 8 + 0, 30, 0⟩
/-! CH_FT_LASTX (07_framing_timing.md). -/

/-- `CH_FT_LASTX.WORD` [31:0], RO. R178 -/
abbrev CH_FT_LASTX_WORD (n : Nat) : Fld := ⟨(0x40224 + n % 24 * 0x2000) * 8 + 0, 32, 0⟩
/-! CH_INV_CFG (08_inventory.md). -/

/-- `CH_INV_CFG.BRANCH1` [31:31], RW. Value followed first at a Type A collision (R187) -/
abbrev CH_INV_CFG_BRANCH1 (n : Nat) : Fld := ⟨(0x40300 + n % 24 * 0x2000) * 8 + 31, 1, 1⟩
/-- `CH_INV_CFG.V_QUIET` [30:30], RW. 1 sends Stay quiet to the ISO/IEC 15693 tags found (R192) -/
abbrev CH_INV_CFG_V_QUIET (n : Nat) : Fld := ⟨(0x40300 + n % 24 * 0x2000) * 8 + 30, 1, 1⟩
/-- `CH_INV_CFG.B_SLOTS` [20:16], RW. Type B N: 1, 2, 4, 8 or 16; other values out of range (R49) -/
abbrev CH_INV_CFG_B_SLOTS (n : Nat) : Fld := ⟨(0x40300 + n % 24 * 0x2000) * 8 + 16, 5, 4⟩
/-- `CH_INV_CFG.F_SLOTS` [12:8], RW. NFC-F time slots: 1, 2, 4, 8 or 16 -/
abbrev CH_INV_CFG_F_SLOTS (n : Nat) : Fld := ⟨(0x40300 + n % 24 * 0x2000) * 8 + 8, 5, 4⟩
/-- `CH_INV_CFG.ROUNDS` [3:0], RW. Type B passes and NFC-F polls per round, 1–15 -/
abbrev CH_INV_CFG_ROUNDS (n : Nat) : Fld := ⟨(0x40300 + n % 24 * 0x2000) * 8 + 0, 4, 4⟩
/-! CH_INV_STATUS (08_inventory.md). -/

/-- `CH_INV_STATUS.WALK` [31:29], RO. 0 IDLE, 1 REQ, 2 ANTICOLL, 3 SELECT, 4 DISPOSE, 5 SLOTS -/
abbrev CH_INV_STATUS_WALK (n : Nat) : Fld := ⟨(0x40304 + n % 24 * 0x2000) * 8 + 29, 3, 0⟩
/-- `CH_INV_STATUS.DEPTH` [28:22], RO. Branch stack depth, 0–80 -/
abbrev CH_INV_STATUS_DEPTH (n : Nat) : Fld := ⟨(0x40304 + n % 24 * 0x2000) * 8 + 22, 7, 0⟩
/-- `CH_INV_STATUS.LEVEL` [21:20], RO. Type A cascade level 1–3; 0 otherwise -/
abbrev CH_INV_STATUS_LEVEL (n : Nat) : Fld := ⟨(0x40304 + n % 24 * 0x2000) * 8 + 20, 2, 0⟩
/-- `CH_INV_STATUS.FOUND` [19:12], RO. Tags found in the current or last round, saturating at 255 -/
abbrev CH_INV_STATUS_FOUND (n : Nat) : Fld := ⟨(0x40304 + n % 24 * 0x2000) * 8 + 12, 8, 0⟩
/-- `CH_INV_STATUS.CTX_FREE` [11:8], RO. Free contexts, 0–8 -/
abbrev CH_INV_STATUS_CTX_FREE (n : Nat) : Fld := ⟨(0x40304 + n % 24 * 0x2000) * 8 + 8, 4, 8⟩
/-- `CH_INV_STATUS.STACK_FULL_SEEN` [3:3], W1C. R189 has applied -/
abbrev CH_INV_STATUS_STACK_FULL_SEEN (n : Nat) : Fld := ⟨(0x40304 + n % 24 * 0x2000) * 8 + 3, 1, 0⟩
/-- `CH_INV_STATUS.TWIN_SEEN` [2:2], W1C. R197 has set TWIN -/
abbrev CH_INV_STATUS_TWIN_SEEN (n : Nat) : Fld := ⟨(0x40304 + n % 24 * 0x2000) * 8 + 2, 1, 0⟩
/-- `CH_INV_STATUS.STALE_SEEN` [1:1], W1C. An item with STALE_PLACEMENT has been queued (R202) -/
abbrev CH_INV_STATUS_STALE_SEEN (n : Nat) : Fld := ⟨(0x40304 + n % 24 * 0x2000) * 8 + 1, 1, 0⟩
/-- `CH_INV_STATUS.NO_CTX_SEEN` [0:0], W1C. A tag found with KEEP = 1 was reported with no context because none was free (R194) -/
abbrev CH_INV_STATUS_NO_CTX_SEEN (n : Nat) : Fld := ⟨(0x40304 + n % 24 * 0x2000) * 8 + 0, 1, 0⟩
/-! CH_INV_STATS (08_inventory.md). -/

/-- `CH_INV_STATS.ROUNDS` [31:24], RC. Inventories ended -/
abbrev CH_INV_STATS_ROUNDS (n : Nat) : Fld := ⟨(0x40308 + n % 24 * 0x2000) * 8 + 24, 8, 0⟩
/-- `CH_INV_STATS.TAGS` [23:16], RC. TAG items queued -/
abbrev CH_INV_STATS_TAGS (n : Nat) : Fld := ⟨(0x40308 + n % 24 * 0x2000) * 8 + 16, 8, 0⟩
/-- `CH_INV_STATS.STALE` [15:8], RC. Items queued with STALE_PLACEMENT -/
abbrev CH_INV_STATS_STALE (n : Nat) : Fld := ⟨(0x40308 + n % 24 * 0x2000) * 8 + 8, 8, 0⟩
/-- `CH_INV_STATS.MIGRATED` [7:0], RC. Sessions migrated out -/
abbrev CH_INV_STATS_MIGRATED (n : Nat) : Fld := ⟨(0x40308 + n % 24 * 0x2000) * 8 + 0, 8, 0⟩
/-! CH_CTX (08_inventory.md). -/

/-- `CH_CTX.STATE` [31:29], RO. R180 -/
abbrev CH_CTX_STATE (n k : Nat) : Fld := ⟨(0x40340 + n % 24 * 0x2000 + k % 8 * 0x4) * 8 + 29, 3, 0⟩
/-- `CH_CTX.PROTO` [28:26], RO. 1 Type A or NFC-A, 2 Type B, 3 ISO/IEC 15693, 4 NFC-F; 0 when FREE -/
abbrev CH_CTX_PROTO (n k : Nat) : Fld := ⟨(0x40340 + n % 24 * 0x2000 + k % 8 * 0x4) * 8 + 26, 3, 0⟩
/-- `CH_CTX.CID` [25:22], RO. CID 1–14, or 0xF -/
abbrev CH_CTX_CID (n k : Nat) : Fld := ⟨(0x40340 + n % 24 * 0x2000 + k % 8 * 0x4) * 8 + 22, 4, 15⟩
/-- `CH_CTX.GEN` [21:14], RO. Placement generation -/
abbrev CH_CTX_GEN (n k : Nat) : Fld := ⟨(0x40340 + n % 24 * 0x2000 + k % 8 * 0x4) * 8 + 14, 8, 0⟩
/-- `CH_CTX.COIL` [13:8], RO. Coil of the session -/
abbrev CH_CTX_COIL (n k : Nat) : Fld := ⟨(0x40340 + n % 24 * 0x2000 + k % 8 * 0x4) * 8 + 8, 6, 0⟩
/-- `CH_CTX.BLOCK` [7:7], RO. Current ISO/IEC 14443-4 block number -/
abbrev CH_CTX_BLOCK (n k : Nat) : Fld := ⟨(0x40340 + n % 24 * 0x2000 + k % 8 * 0x4) * 8 + 7, 1, 0⟩
/-- `CH_CTX.TWIN` [6:6], RO. R197 -/
abbrev CH_CTX_TWIN (n k : Nat) : Fld := ⟨(0x40340 + n % 24 * 0x2000 + k % 8 * 0x4) * 8 + 6, 1, 0⟩
/-- `CH_CTX.SECURE` [5:5], RO. A secure session is held in the session cache -/
abbrev CH_CTX_SECURE (n k : Nat) : Fld := ⟨(0x40340 + n % 24 * 0x2000 + k % 8 * 0x4) * 8 + 5, 1, 0⟩
/-- `CH_CTX.DEP` [4:4], RO. Activated in NFC-DEP -/
abbrev CH_CTX_DEP (n k : Nat) : Fld := ⟨(0x40340 + n % 24 * 0x2000 + k % 8 * 0x4) * 8 + 4, 1, 0⟩
/-- `CH_CTX.FWI` [3:0], RO. FWI in use (R170) -/
abbrev CH_CTX_FWI (n k : Nat) : Fld := ⟨(0x40340 + n % 24 * 0x2000 + k % 8 * 0x4) * 8 + 0, 4, 0⟩
/-! CH_CTX_ID0 (08_inventory.md). -/

/-- `CH_CTX_ID0.ID` [31:0], RO. Identifier bytes; 0 when FREE -/
abbrev CH_CTX_ID0_ID (n k : Nat) : Fld := ⟨(0x40360 + n % 24 * 0x2000 + k % 8 * 0x10) * 8 + 0, 32, 0⟩
/-! CH_CTX_ID1 (08_inventory.md). -/

/-- `CH_CTX_ID1.ID` [31:0], RO. Identifier bytes; 0 when FREE -/
abbrev CH_CTX_ID1_ID (n k : Nat) : Fld := ⟨(0x40364 + n % 24 * 0x2000 + k % 8 * 0x10) * 8 + 0, 32, 0⟩
/-! CH_CTX_ID2 (08_inventory.md). -/

/-- `CH_CTX_ID2.ID` [31:0], RO. Identifier bytes; 0 when FREE -/
abbrev CH_CTX_ID2_ID (n k : Nat) : Fld := ⟨(0x40368 + n % 24 * 0x2000 + k % 8 * 0x10) * 8 + 0, 32, 0⟩
/-! CH_PCMD (08_inventory.md). -/

/-- `CH_PCMD.WORD` [31:0], WO. Next word of a command -/
abbrev CH_PCMD_WORD (n : Nat) : Fld := ⟨(0x403e0 + n % 24 * 0x2000) * 8 + 0, 32, 0⟩
/-! CH_PCMD_STATUS (08_inventory.md). -/

/-- `CH_PCMD_STATUS.OVERFLOW` [31:31], W1C. A command was discarded for lack of space -/
abbrev CH_PCMD_STATUS_OVERFLOW (n : Nat) : Fld := ⟨(0x403e4 + n % 24 * 0x2000) * 8 + 31, 1, 0⟩
/-- `CH_PCMD_STATUS.RUNNING` [30:30], RO. A command is in progress -/
abbrev CH_PCMD_STATUS_RUNNING (n : Nat) : Fld := ⟨(0x403e4 + n % 24 * 0x2000) * 8 + 30, 1, 0⟩
/-- `CH_PCMD_STATUS.CMDS` [20:16], RO. Commands queued, 0–16 -/
abbrev CH_PCMD_STATUS_CMDS (n : Nat) : Fld := ⟨(0x403e4 + n % 24 * 0x2000) * 8 + 16, 5, 0⟩
/-- `CH_PCMD_STATUS.WORDS_FREE` [10:0], RO. Free words in the queue, 0–1 024 -/
abbrev CH_PCMD_STATUS_WORDS_FREE (n : Nat) : Fld := ⟨(0x403e4 + n % 24 * 0x2000) * 8 + 0, 11, 1024⟩
/-! TS_CFG (09_survey_scheduling.md). -/

/-- `TS_CFG.THRESH` [31:24], RW. Conflict at or above −0.5 dB × value, 20–120 (R209) -/
abbrev TS_CFG_THRESH : Fld := ⟨(0x38010) * 8 + 24, 8, 60⟩
/-- `TS_CFG.AGE` [23:16], RW. Slots before a request becomes urgent, 0–255; 0 means never (R220) -/
abbrev TS_CFG_AGE : Fld := ⟨(0x38010) * 8 + 16, 8, 64⟩
/-- `TS_CFG.LISTEN_MAX` [12:8], RW. Listeners per grant, 0–23; 0 means none (R221) -/
abbrev TS_CFG_LISTEN_MAX : Fld := ⟨(0x38010) * 8 + 8, 5, 4⟩
/-- `TS_CFG.HOLD_STOP` [2:2], RW. R224 -/
abbrev TS_CFG_HOLD_STOP : Fld := ⟨(0x38010) * 8 + 2, 1, 1⟩
/-- `TS_CFG.XEN` [1:1], RW. Cross-device conflicts and cross surveys are enabled -/
abbrev TS_CFG_XEN : Fld := ⟨(0x38010) * 8 + 1, 1, 0⟩
/-! TS_CYCLE (09_survey_scheduling.md). -/

/-- `TS_CYCLE.SLOTS` [8:0], RW. Slots per cycle, 1–256 (R216) -/
abbrev TS_CYCLE_SLOTS : Fld := ⟨(0x38014) * 8 + 0, 9, 256⟩
/-! TS_STATUS (09_survey_scheduling.md). -/

/-- `TS_STATUS.SLOT` [31:24], RO. Current slot index -/
abbrev TS_STATUS_SLOT : Fld := ⟨(0x38018) * 8 + 24, 8, 0⟩
/-- `TS_STATUS.NB_VALID` [23:23], RO. The tables are valid (R210) -/
abbrev TS_STATUS_NB_VALID : Fld := ⟨(0x38018) * 8 + 23, 1, 0⟩
/-- `TS_STATUS.NB_DIRTY` [22:22], W1C. The tables have changed since they were last saved -/
abbrev TS_STATUS_NB_DIRTY : Fld := ⟨(0x38018) * 8 + 22, 1, 0⟩
/-- `TS_STATUS.SURVEY` [21:19], RO. 0 IDLE, 1 DRAIN, 2 SYNC, 3 MEASURE, 4 LISTEN, 5 COMMIT -/
abbrev TS_STATUS_SURVEY : Fld := ⟨(0x38018) * 8 + 19, 3, 0⟩
/-- `TS_STATUS.NOWIN_SEEN` [4:4], W1C. R218 -/
abbrev TS_STATUS_NOWIN_SEEN : Fld := ⟨(0x38018) * 8 + 4, 1, 0⟩
/-- `TS_STATUS.HOLD_BLOCK` [3:3], W1C. R224 -/
abbrev TS_STATUS_HOLD_BLOCK : Fld := ⟨(0x38018) * 8 + 3, 1, 0⟩
/-- `TS_STATUS.EXCL_SEEN` [2:2], W1C. R225 -/
abbrev TS_STATUS_EXCL_SEEN : Fld := ⟨(0x38018) * 8 + 2, 1, 0⟩
/-- `TS_STATUS.URGENT` [1:1], RO. An urgent request is pending -/
abbrev TS_STATUS_URGENT : Fld := ⟨(0x38018) * 8 + 1, 1, 0⟩
/-! TS_SURVEY (09_survey_scheduling.md). -/

/-- `TS_SURVEY.GO` [31:31], W1S. Starts a survey; reads 1 until it ends -/
abbrev TS_SURVEY_GO : Fld := ⟨(0x3801c) * 8 + 31, 1, 0⟩
/-- `TS_SURVEY.ABORT` [30:30], W1S. Ends the survey with ABORTED -/
abbrev TS_SURVEY_ABORT : Fld := ⟨(0x3801c) * 8 + 30, 1, 0⟩
/-- `TS_SURVEY.CROSS` [29:29], RW. 1 selects a cross survey (R215) -/
abbrev TS_SURVEY_CROSS : Fld := ⟨(0x3801c) * 8 + 29, 1, 0⟩
/-- `TS_SURVEY.PEER` [27:16], RW. Peer's Hawser address -/
abbrev TS_SURVEY_PEER : Fld := ⟨(0x3801c) * 8 + 16, 12, 0⟩
/-- `TS_SURVEY.AVG` [13:10], RW. Measurement length in units of 256 cc, 1–15 -/
abbrev TS_SURVEY_AVG : Fld := ⟨(0x3801c) * 8 + 10, 4, 8⟩
/-- `TS_SURVEY.CODE` [9:0], RW. Survey code, 1–1023 -/
abbrev TS_SURVEY_CODE : Fld := ⟨(0x3801c) * 8 + 0, 10, 264⟩
/-! TS_SURVEY_STATUS (09_survey_scheduling.md). -/

/-- `TS_SURVEY_STATUS.CODE` [31:24], RO. Completion code of the last survey -/
abbrev TS_SURVEY_STATUS_CODE : Fld := ⟨(0x38020) * 8 + 24, 8, 0⟩
/-- `TS_SURVEY_STATUS.FOREIGN` [23:23], RO. R213 -/
abbrev TS_SURVEY_STATUS_FOREIGN : Fld := ⟨(0x38020) * 8 + 23, 1, 0⟩
/-- `TS_SURVEY_STATUS.MISSING` [22:22], RO. A source was left unsurveyed -/
abbrev TS_SURVEY_STATUS_MISSING : Fld := ⟨(0x38020) * 8 + 22, 1, 0⟩
/-- `TS_SURVEY_STATUS.BERTH` [21:11], RO. Source in progress, or the last source -/
abbrev TS_SURVEY_STATUS_BERTH : Fld := ⟨(0x38020) * 8 + 11, 11, 0⟩
/-! TS_ATTR (09_survey_scheduling.md). -/

/-- `TS_ATTR.SPLIT` [31:24], RW. CONF2 needed to report a second candidate, 1–255 -/
abbrev TS_ATTR_SPLIT : Fld := ⟨(0x38024) * 8 + 24, 8, 64⟩
/-- `TS_ATTR.LEARN_CONF` [23:16], RW. CONF1 needed to update the reference, 1–255 -/
abbrev TS_ATTR_LEARN_CONF : Fld := ⟨(0x38024) * 8 + 16, 8, 192⟩
/-- `TS_ATTR.PHW` [15:8], RW. Degrees counted as 1 dB, 1–60 -/
abbrev TS_ATTR_PHW : Fld := ⟨(0x38024) * 8 + 8, 8, 8⟩
/-- `TS_ATTR.SIGMA` [7:0], RW. 0.25 dB units, 1–80 -/
abbrev TS_ATTR_SIGMA : Fld := ⟨(0x38024) * 8 + 0, 8, 12⟩
/-! TS_GREQ (09_survey_scheduling.md). -/

/-- `TS_GREQ.WORD` [31:0], WO. Next word of a request -/
abbrev TS_GREQ_WORD : Fld := ⟨(0x38028) * 8 + 0, 32, 0⟩
/-! TS_GREQ_STATUS (09_survey_scheduling.md). -/

/-- `TS_GREQ_STATUS.OVERFLOW` [31:31], W1C. A request was discarded -/
abbrev TS_GREQ_STATUS_OVERFLOW : Fld := ⟨(0x3802c) * 8 + 31, 1, 0⟩
/-- `TS_GREQ_STATUS.PENDING` [4:0], RO. Firmware requests waiting, 0–16 -/
abbrev TS_GREQ_STATUS_PENDING : Fld := ⟨(0x3802c) * 8 + 0, 5, 0⟩
/-! TS_NB_SEL (09_survey_scheduling.md). -/

/-- `TS_NB_SEL.COMMIT` [31:31], W1S. Sets NB_VALID -/
abbrev TS_NB_SEL_COMMIT : Fld := ⟨(0x38030) * 8 + 31, 1, 0⟩
/-- `TS_NB_SEL.CLEAR` [30:30], W1S. Empties every table and sets NB_VALID to 0 -/
abbrev TS_NB_SEL_CLEAR : Fld := ⟨(0x38030) * 8 + 30, 1, 0⟩
/-- `TS_NB_SEL.BERTH` [10:0], RW. Berth shown in TS_NB_HDR and TS_NB_ENTk; a berth that does not exist is out of range -/
abbrev TS_NB_SEL_BERTH : Fld := ⟨(0x38030) * 8 + 0, 11, 0⟩
/-! TS_NB_HDR (09_survey_scheduling.md). -/

/-- `TS_NB_HDR.COUNT` [31:27], RW. Entries, 0–16 -/
abbrev TS_NB_HDR_COUNT : Fld := ⟨(0x38034) * 8 + 27, 5, 0⟩
/-- `TS_NB_HDR.SURVEYED` [26:26], RW. Measured by the last survey -/
abbrev TS_NB_HDR_SURVEYED : Fld := ⟨(0x38034) * 8 + 26, 1, 0⟩
/-- `TS_NB_HDR.REF_CODE` [25:16], RW. R230 -/
abbrev TS_NB_HDR_REF_CODE : Fld := ⟨(0x38034) * 8 + 16, 10, 0⟩
/-- `TS_NB_HDR.REF_AMP` [15:8], RW. −0.5 dB × value, dBFS -/
abbrev TS_NB_HDR_REF_AMP : Fld := ⟨(0x38034) * 8 + 8, 8, 0⟩
/-- `TS_NB_HDR.REF_N` [5:0], RW. 0 means no reference -/
abbrev TS_NB_HDR_REF_N : Fld := ⟨(0x38034) * 8 + 0, 6, 0⟩
/-! TS_EXCL (09_survey_scheduling.md). -/

/-- `TS_EXCL.BERTHS` [31:0], W1C. Bit j = 1: berth 32m + j is excluded (R225) -/
abbrev TS_EXCL_BERTHS (n : Nat) : Fld := ⟨(0x38100 + n % 48 * 0x4) * 8 + 0, 32, 0⟩
/-! TS_SLOT (09_survey_scheduling.md). -/

/-- `TS_SLOT.XOWN` [31:31], RW. Cross-device conflicts may be energised -/
abbrev TS_SLOT_XOWN (n : Nat) : Fld := ⟨(0x38400 + n % 256 * 0x4) * 8 + 31, 1, 0⟩
/-- `TS_SLOT.QUIET` [30:30], RW. No fields from this device -/
abbrev TS_SLOT_QUIET (n : Nat) : Fld := ⟨(0x38400 + n % 256 * 0x4) * 8 + 30, 1, 0⟩
/-- `TS_SLOT.TXEN` [23:0], RW. Bit n: channel n may be energised -/
abbrev TS_SLOT_TXEN (n : Nat) : Fld := ⟨(0x38400 + n % 256 * 0x4) * 8 + 0, 24, 0⟩
/-! PW_WK_CFG (09_survey_scheduling.md). -/

/-- `PW_WK_CFG.CODE` [31:22], RW. Sniff code, 1–1023 -/
abbrev PW_WK_CFG_CODE : Fld := ⟨(0x1100) * 8 + 22, 10, 264⟩
/-- `PW_WK_CFG.BASE_SHIFT` [19:16], RW. Baseline weight 2^−value, 1–8 -/
abbrev PW_WK_CFG_BASE_SHIFT : Fld := ⟨(0x1100) * 8 + 16, 4, 4⟩
/-- `PW_WK_CFG.CONFIRM` [11:8], RW. Consecutive sniffs needed to trip, 1–4 -/
abbrev PW_WK_CFG_CONFIRM : Fld := ⟨(0x1100) * 8 + 8, 4, 2⟩
/-- `PW_WK_CFG.MEAS` [4:0], RW. Measurement in units of 16 cc, 1–16 -/
abbrev PW_WK_CFG_MEAS : Fld := ⟨(0x1100) * 8 + 0, 5, 8⟩
/-! PW_WK_TIME (09_survey_scheduling.md). -/

/-- `PW_WK_TIME.PHASE` [31:16], RW. ms offset of the burst (R231) -/
abbrev PW_WK_TIME_PHASE : Fld := ⟨(0x1104) * 8 + 16, 16, 0⟩
/-- `PW_WK_TIME.PERIOD` [12:0], RW. 10 ms units, 1–6 000 -/
abbrev PW_WK_TIME_PERIOD : Fld := ⟨(0x1104) * 8 + 0, 13, 50⟩
/-! PW_WK_STATUS (09_survey_scheduling.md). -/

/-- `PW_WK_STATUS.RUN` [31:31], RO. Sniffing is in progress -/
abbrev PW_WK_STATUS_RUN : Fld := ⟨(0x1108) * 8 + 31, 1, 0⟩
/-- `PW_WK_STATUS.LEARNING` [30:30], RO. R232 -/
abbrev PW_WK_STATUS_LEARNING : Fld := ⟨(0x1108) * 8 + 30, 1, 0⟩
/-- `PW_WK_STATUS.TRIP_SEEN` [29:29], W1C. An entry has tripped -/
abbrev PW_WK_STATUS_TRIP_SEEN : Fld := ⟨(0x1108) * 8 + 29, 1, 0⟩
/-- `PW_WK_STATUS.ACTIVE` [8:0], RO. Enabled entries, 0–256 -/
abbrev PW_WK_STATUS_ACTIVE : Fld := ⟨(0x1108) * 8 + 0, 9, 0⟩
/-! PW_WK_TRIP (09_survey_scheduling.md). -/

/-- `PW_WK_TRIP.DEV` [31:24], RO. Deviation, 0.05 dB units, saturating -/
abbrev PW_WK_TRIP_DEV : Fld := ⟨(0x110c) * 8 + 24, 8, 0⟩
/-- `PW_WK_TRIP.ENTRY` [23:16], RO. Entry index -/
abbrev PW_WK_TRIP_ENTRY : Fld := ⟨(0x110c) * 8 + 16, 8, 0⟩
/-- `PW_WK_TRIP.BERTH` [10:0], RO. Berth -/
abbrev PW_WK_TRIP_BERTH : Fld := ⟨(0x110c) * 8 + 0, 11, 0⟩
/-! PW_WK_ENT (09_survey_scheduling.md). -/

/-- `PW_WK_ENT.EN` [31:31], RW. The entry is sniffed -/
abbrev PW_WK_ENT_EN (n : Nat) : Fld := ⟨(0x1200 + n % 256 * 0x4) * 8 + 31, 1, 0⟩
/-- `PW_WK_ENT.TRIPPED` [30:30], RO. R232 -/
abbrev PW_WK_ENT_TRIPPED (n : Nat) : Fld := ⟨(0x1200 + n % 256 * 0x4) * 8 + 30, 1, 0⟩
/-- `PW_WK_ENT.BERTH` [26:16], RW. Berth -/
abbrev PW_WK_ENT_BERTH (n : Nat) : Fld := ⟨(0x1200 + n % 256 * 0x4) * 8 + 16, 11, 0⟩
/-- `PW_WK_ENT.THR` [15:8], RW. Trip deviation, 0.05 dB units, 1–255 -/
abbrev PW_WK_ENT_THR (n : Nat) : Fld := ⟨(0x1200 + n % 256 * 0x4) * 8 + 8, 8, 10⟩
/-- `PW_WK_ENT.LAST` [7:0], RO. Last deviation, 0.05 dB units, saturating -/
abbrev PW_WK_ENT_LAST (n : Nat) : Fld := ⟨(0x1200 + n % 256 * 0x4) * 8 + 0, 8, 0⟩
/-! CY_KCMD (10_secure_sessions.md). -/

/-- `CY_KCMD.OP` [31:24], WO. Command of R239; other values out of range -/
abbrev CY_KCMD_OP : Fld := ⟨(0x30010) * 8 + 24, 8, 0⟩
/-- `CY_KCMD.SLOT` [23:18], WO. Target slot 0–63 -/
abbrev CY_KCMD_SLOT : Fld := ⟨(0x30010) * 8 + 18, 6, 0⟩
/-- `CY_KCMD.KEK` [17:12], WO. Wrapping slot 0–63 -/
abbrev CY_KCMD_KEK : Fld := ⟨(0x30010) * 8 + 12, 6, 0⟩
/-- `CY_KCMD.LEN` [11:10], WO. 0b00 128, 0b01 192, 0b10 256 bits; 0b11 out of range -/
abbrev CY_KCMD_LEN : Fld := ⟨(0x30010) * 8 + 10, 2, 0⟩
/-- `CY_KCMD.ATTR` [7:0], WO. Attributes of R235 -/
abbrev CY_KCMD_ATTR : Fld := ⟨(0x30010) * 8 + 0, 8, 0⟩
/-! CY_KSTATUS (10_secure_sessions.md). -/

/-- `CY_KSTATUS.BUSY` [31:31], RO. A key command is running -/
abbrev CY_KSTATUS_BUSY : Fld := ⟨(0x30014) * 8 + 31, 1, 0⟩
/-- `CY_KSTATUS.DIRTY` [30:30], W1C. R241 -/
abbrev CY_KSTATUS_DIRTY : Fld := ⟨(0x30014) * 8 + 30, 1, 0⟩
/-- `CY_KSTATUS.CODE` [15:8], RO. Completion code of the last key command -/
abbrev CY_KSTATUS_CODE : Fld := ⟨(0x30014) * 8 + 8, 8, 0⟩
/-- `CY_KSTATUS.OUT_WORDS` [6:0], RO. Output words not yet read, 0–64 -/
abbrev CY_KSTATUS_OUT_WORDS : Fld := ⟨(0x30014) * 8 + 0, 7, 0⟩
/-! CY_KDATA (10_secure_sessions.md). -/

/-- `CY_KDATA.WORD` [31:0], RW. A write appends an input word. A read returns the next output word, or 0 -/
abbrev CY_KDATA_WORD : Fld := ⟨(0x30018) * 8 + 0, 32, 0⟩
/-! CY_SLOTMAP (10_secure_sessions.md). -/

/-- `CY_SLOTMAP.USED` [63:0], RO. Bit k = 1 when slot k holds a key -/
abbrev CY_SLOTMAP_USED : Fld := ⟨(0x3001c) * 8 + 0, 64, 0⟩
/-! CY_EPOCH (10_secure_sessions.md). -/

/-- `CY_EPOCH.EPOCH` [63:0], RO. Tamper events since manufacture Reset value: assumption 10. -/
abbrev CY_EPOCH_EPOCH : Fld := ⟨(0x30024) * 8 + 0, 64, 0⟩
/-! CY_TAMPER (10_secure_sessions.md). -/

/-- `CY_TAMPER.EVENT1` [3:3], W1C. A tamper event on loop 1 Reset value: assumption 10. -/
abbrev CY_TAMPER_EVENT1 : Fld := ⟨(0x3002c) * 8 + 3, 1, 0⟩
/-- `CY_TAMPER.EVENT0` [2:2], W1C. A tamper event on loop 0 Reset value: assumption 10. -/
abbrev CY_TAMPER_EVENT0 : Fld := ⟨(0x3002c) * 8 + 2, 1, 0⟩
/-- `CY_TAMPER.LOOP1_OK` [1:1], RO. Loop 1 follows its guard now -/
abbrev CY_TAMPER_LOOP1_OK : Fld := ⟨(0x3002c) * 8 + 1, 1, 0⟩
/-- `CY_TAMPER.LOOP0_OK` [0:0], RO. Loop 0 follows its guard now -/
abbrev CY_TAMPER_LOOP0_OK : Fld := ⟨(0x3002c) * 8 + 0, 1, 0⟩
/-! CY_TRNG (10_secure_sessions.md). -/

/-- `CY_TRNG.HALT` [31:31], RO. The source has halted (R259) -/
abbrev CY_TRNG_HALT : Fld := ⟨(0x30030) * 8 + 31, 1, 0⟩
/-- `CY_TRNG.READY` [30:30], RO. The DRBG can deliver -/
abbrev CY_TRNG_READY : Fld := ⟨(0x30030) * 8 + 30, 1, 0⟩
/-- `CY_TRNG.STARTUP` [29:29], RO. A start-up test is running -/
abbrev CY_TRNG_STARTUP : Fld := ⟨(0x30030) * 8 + 29, 1, 1⟩
/-- `CY_TRNG.FAILS` [2:0], RO. Consecutive failed start-ups, 0–4 -/
abbrev CY_TRNG_FAILS : Fld := ⟨(0x30030) * 8 + 0, 3, 0⟩
/-! CY_TRNG_STATS (10_secure_sessions.md). -/

/-- `CY_TRNG_STATS.RCT` [31:24], RC. Repetition count failures -/
abbrev CY_TRNG_STATS_RCT : Fld := ⟨(0x30034) * 8 + 24, 8, 0⟩
/-- `CY_TRNG_STATS.APT` [23:16], RC. Adaptive proportion failures -/
abbrev CY_TRNG_STATS_APT : Fld := ⟨(0x30034) * 8 + 16, 8, 0⟩
/-- `CY_TRNG_STATS.RESTARTS` [15:8], RC. Start-up tests run -/
abbrev CY_TRNG_STATS_RESTARTS : Fld := ⟨(0x30034) * 8 + 8, 8, 0⟩
/-- `CY_TRNG_STATS.RESEEDS` [7:0], RC. DRBG reseeds -/
abbrev CY_TRNG_STATS_RESEEDS : Fld := ⟨(0x30034) * 8 + 0, 8, 0⟩
/-! CY_CACHE (10_secure_sessions.md). -/

/-- `CY_CACHE.IN_USE` [7:0], RO. Entries holding a session, 0–192 -/
abbrev CY_CACHE_IN_USE : Fld := ⟨(0x30038) * 8 + 0, 8, 0⟩
/-! CY_SM_STATS (10_secure_sessions.md). -/

/-- `CY_SM_STATS.AUTH_FAIL` [31:24], RC. AUTH ended AUTH_FAIL -/
abbrev CY_SM_STATS_AUTH_FAIL : Fld := ⟨(0x3003c) * 8 + 24, 8, 0⟩
/-- `CY_SM_STATS.MAC_FAIL` [23:16], RC. SM_EXCHANGE ended MAC_FAIL -/
abbrev CY_SM_STATS_MAC_FAIL : Fld := ⟨(0x3003c) * 8 + 16, 8, 0⟩
/-- `CY_SM_STATS.SEQ_EXHAUSTED` [15:8], RC. Commands refused for C -/
abbrev CY_SM_STATS_SEQ_EXHAUSTED : Fld := ⟨(0x3003c) * 8 + 8, 8, 0⟩
/-- `CY_SM_STATS.TAG_STATUS` [7:0], RC. Plain status word replies -/
abbrev CY_SM_STATS_TAG_STATUS : Fld := ⟨(0x3003c) * 8 + 0, 8, 0⟩
/-! CY_FUSE (10_secure_sessions.md). -/

/-- `CY_FUSE.MKEY_DAMAGED` [17:17], RO. Manifest key partly burned Reset value: assumption 10. -/
abbrev CY_FUSE_MKEY_DAMAGED : Fld := ⟨(0x30040) * 8 + 17, 1, 0⟩
/-- `CY_FUSE.MKEY_VALID` [16:16], RO. Manifest key burned Reset value: assumption 10. -/
abbrev CY_FUSE_MKEY_VALID : Fld := ⟨(0x30040) * 8 + 16, 1, 0⟩
/-- `CY_FUSE.HASH` [15:0], RO. Bit 4k + 2 DAMAGED, 4k + 1 REVOKED, 4k VALID; bit 4k + 3 reserved Reset value: assumption 10. -/
abbrev CY_FUSE_HASH : Fld := ⟨(0x30040) * 8 + 0, 16, 0⟩
/-! CE_CFG (11_card_emulation.md). -/

/-- `CE_CFG.HOST_WAIT` [15:0], RW. µs, 0–65 535; 0 means no waiting (R279) -/
abbrev CE_CFG_HOST_WAIT : Fld := ⟨(0x70010) * 8 + 0, 16, 100⟩
/-! CE_ACC (11_card_emulation.md). -/

/-- `CE_ACC.CODE` [31:24], RO. DONE, EMPTY or BUSY (R47) -/
abbrev CE_ACC_CODE : Fld := ⟨(0x70014) * 8 + 24, 8, 0⟩
/-- `CE_ACC.INST` [22:20], RO. Instance -/
abbrev CE_ACC_INST : Fld := ⟨(0x70014) * 8 + 20, 3, 0⟩
/-- `CE_ACC.BLOCK` [19:12], RO. First block in use, for BUSY -/
abbrev CE_ACC_BLOCK : Fld := ⟨(0x70014) * 8 + 12, 8, 0⟩
/-- `CE_ACC.BUSY_SEEN` [0:0], W1C. A host access has returned BUSY -/
abbrev CE_ACC_BUSY_SEEN : Fld := ⟨(0x70014) * 8 + 0, 1, 0⟩
/-! CE_WIN (11_card_emulation.md). -/

/-- `CE_WIN.HALF` [3:3], RW. 0: blocks 0–127; 1: blocks 128–255 -/
abbrev CE_WIN_HALF : Fld := ⟨(0x70018) * 8 + 3, 1, 0⟩
/-- `CE_WIN.INST` [2:0], RW. Instance shown at 0x8000–0xFFFF -/
abbrev CE_WIN_INST : Fld := ⟨(0x70018) * 8 + 0, 3, 0⟩
/-! CE_INST_CFG (11_card_emulation.md). -/

/-- `CE_INST_CFG.EN` [31:31], RW. 1 enables the instance (R275) -/
abbrev CE_INST_CFG_EN (n : Nat) : Fld := ⟨(0x70100 + n % 8 * 0x80) * 8 + 31, 1, 0⟩
/-- `CE_INST_CFG.FWD` [30:30], RW. 1 forwards APDUs not handled in hardware (R273) -/
abbrev CE_INST_CFG_FWD (n : Nat) : Fld := ⟨(0x70100 + n % 8 * 0x80) * 8 + 30, 1, 0⟩
/-- `CE_INST_CFG.ALM_CODE` [29:20], RW. Reply amplitude, 1–1023; P(c) must not exceed MAX_POWER -/
abbrev CE_INST_CFG_ALM_CODE (n : Nat) : Fld := ⟨(0x70100 + n % 8 * 0x80) * 8 + 20, 10, 264⟩
/-- `CE_INST_CFG.COIL` [19:14], RW. Panel coil (R265) -/
abbrev CE_INST_CFG_COIL (n : Nat) : Fld := ⟨(0x70100 + n % 8 * 0x80) * 8 + 14, 6, 0⟩
/-- `CE_INST_CFG.ALM_PHASE` [13:8], RW. Burst phase, 3° units, 0–59 -/
abbrev CE_INST_CFG_ALM_PHASE (n : Nat) : Fld := ⟨(0x70100 + n % 8 * 0x80) * 8 + 8, 6, 0⟩
/-- `CE_INST_CFG.FIELD_THR` [7:0], RW. Field detection at −0.5 dB × value dBFS, 2–80 -/
abbrev CE_INST_CFG_FIELD_THR (n : Nat) : Fld := ⟨(0x70100 + n % 8 * 0x80) * 8 + 0, 8, 40⟩
/-! CE_INST_WTX (11_card_emulation.md). -/

/-- `CE_INST_WTX.WTXM` [13:8], RW. 1–59 -/
abbrev CE_INST_WTX_WTXM (n : Nat) : Fld := ⟨(0x70104 + n % 8 * 0x80) * 8 + 8, 6, 4⟩
/-- `CE_INST_WTX.WTX_MAX` [7:0], RW. 0–255; 0 means none -/
abbrev CE_INST_WTX_WTX_MAX (n : Nat) : Fld := ⟨(0x70104 + n % 8 * 0x80) * 8 + 0, 8, 16⟩
/-! CE_INST_STATUS (11_card_emulation.md). -/

/-- `CE_INST_STATUS.STATE` [31:29], RO. R268 -/
abbrev CE_INST_STATUS_STATE (n : Nat) : Fld := ⟨(0x70108 + n % 8 * 0x80) * 8 + 29, 3, 0⟩
/-- `CE_INST_STATUS.FIELD` [28:28], RO. Phone field detected -/
abbrev CE_INST_STATUS_FIELD (n : Nat) : Fld := ⟨(0x70108 + n % 8 * 0x80) * 8 + 28, 1, 0⟩
/-- `CE_INST_STATUS.CARRIER` [27:27], RO. Tracker locked (R264) -/
abbrev CE_INST_STATUS_CARRIER (n : Nat) : Fld := ⟨(0x70108 + n % 8 * 0x80) * 8 + 27, 1, 0⟩
/-- `CE_INST_STATUS.GRANT` [26:26], RO. Emulation grant running -/
abbrev CE_INST_STATUS_GRANT (n : Nat) : Fld := ⟨(0x70108 + n % 8 * 0x80) * 8 + 26, 1, 0⟩
/-- `CE_INST_STATUS.SECURE` [25:25], RO. Card-side session held (R277) -/
abbrev CE_INST_STATUS_SECURE (n : Nat) : Fld := ⟨(0x70108 + n % 8 * 0x80) * 8 + 25, 1, 0⟩
/-- `CE_INST_STATUS.RATE` [17:16], RO. 0 fc/128, 1 fc/64, 2 fc/32, 3 fc/16 -/
abbrev CE_INST_STATUS_RATE (n : Nat) : Fld := ⟨(0x70108 + n % 8 * 0x80) * 8 + 16, 2, 0⟩
/-- `CE_INST_STATUS.RSP_CODE` [15:8], RO. Last response write: DONE, REFUSED or RANGE -/
abbrev CE_INST_STATUS_RSP_CODE (n : Nat) : Fld := ⟨(0x70108 + n % 8 * 0x80) * 8 + 8, 8, 0⟩
/-- `CE_INST_STATUS.DEAF_SEEN` [3:3], W1C. R266, R269 -/
abbrev CE_INST_STATUS_DEAF_SEEN (n : Nat) : Fld := ⟨(0x70108 + n % 8 * 0x80) * 8 + 3, 1, 0⟩
/-- `CE_INST_STATUS.EXPIRED_SEEN` [2:2], W1C. R273 -/
abbrev CE_INST_STATUS_EXPIRED_SEEN (n : Nat) : Fld := ⟨(0x70108 + n % 8 * 0x80) * 8 + 2, 1, 0⟩
/-- `CE_INST_STATUS.FIELD_LOSS_SEEN` [1:1], W1C. The field was lost outside POWER_OFF -/
abbrev CE_INST_STATUS_FIELD_LOSS_SEEN (n : Nat) : Fld := ⟨(0x70108 + n % 8 * 0x80) * 8 + 1, 1, 0⟩
/-- `CE_INST_STATUS.DISCARD_SEEN` [0:0], W1C. R278 -/
abbrev CE_INST_STATUS_DISCARD_SEEN (n : Nat) : Fld := ⟨(0x70108 + n % 8 * 0x80) * 8 + 0, 1, 0⟩
/-! CE_INST_RSP (11_card_emulation.md). -/

/-- `CE_INST_RSP.WORD` [31:0], WO. Next word of a response -/
abbrev CE_INST_RSP_WORD (n : Nat) : Fld := ⟨(0x7010c + n % 8 * 0x80) * 8 + 0, 32, 0⟩
/-! CE_INST_LOCK (11_card_emulation.md). -/

/-- `CE_INST_LOCK.START` [31:24], RW. First block, 1–255 -/
abbrev CE_INST_LOCK_START (n k : Nat) : Fld := ⟨(0x70110 + n % 8 * 0x80 + k % 4 * 0x4) * 8 + 24, 8, 1⟩
/-- `CE_INST_LOCK.LEN` [23:15], RW. Blocks, 0–255; 0 means no lock -/
abbrev CE_INST_LOCK_LEN (n k : Nat) : Fld := ⟨(0x70110 + n % 8 * 0x80 + k % 4 * 0x4) * 8 + 15, 9, 0⟩
/-- `CE_INST_LOCK.MODE` [14:14], RW. 0 read-only, 1 absent -/
abbrev CE_INST_LOCK_MODE (n k : Nat) : Fld := ⟨(0x70110 + n % 8 * 0x80 + k % 4 * 0x4) * 8 + 14, 1, 0⟩
/-! CE_INST_DIRTY (11_card_emulation.md). -/

/-- `CE_INST_DIRTY.BLOCKS` [31:0], W1C. Bit i: block 32j + i changed since it was last journalled -/
abbrev CE_INST_DIRTY_BLOCKS (n k : Nat) : Fld := ⟨(0x70120 + n % 8 * 0x80 + k % 8 * 0x4) * 8 + 0, 32, 0⟩
/-! CE_INST_CSEQ (11_card_emulation.md). -/

/-- `CE_INST_CSEQ.CSEQ` [15:0], RO. Field commits, modulo 65 536 -/
abbrev CE_INST_CSEQ_CSEQ (n : Nat) : Fld := ⟨(0x70140 + n % 8 * 0x80) * 8 + 0, 16, 0⟩
/-! LQ_CFG (12_landing_queues.md). -/

/-- `LQ_CFG.MARK_YIELD` [31:0], RW. Bit n: policy of queue n under R301 -/
abbrev LQ_CFG_MARK_YIELD : Fld := ⟨(0x20010) * 8 + 0, 32, 4294967295⟩
/-! LQ_STALL (12_landing_queues.md). -/

/-- `LQ_STALL.STALL` [15:0], RW. µs, 0–65 535; 0 means no stall (R295) -/
abbrev LQ_STALL_STALL : Fld := ⟨(0x20014) * 8 + 0, 16, 200⟩
/-! LQ_IRQ (12_landing_queues.md). -/

/-- `LQ_IRQ.PEND` [31:0], RO. Bit n: queue n raises its interrupt (R303) -/
abbrev LQ_IRQ_PEND : Fld := ⟨(0x20018) * 8 + 0, 32, 0⟩
/-! LQ_POOL (12_landing_queues.md). -/

/-- `LQ_POOL.USED` [19:0], RO. Words allocated, 0–524 288 Reset value: assumption 10. -/
abbrev LQ_POOL_USED : Fld := ⟨(0x2001c) * 8 + 0, 20, 0⟩
/-! LQN_POP (12_landing_queues.md). -/

/-- `LQN_POP.WORD` [31:0], RO. A read removes and returns the next word -/
abbrev LQN_POP_WORD (n : Nat) : Fld := ⟨(0x21000 + n % 32 * 0x40) * 8 + 0, 32, 0⟩
/-! LQN_PUSH (12_landing_queues.md). -/

/-- `LQN_PUSH.WORD` [31:0], WO. Next word of an item -/
abbrev LQN_PUSH_WORD (n : Nat) : Fld := ⟨(0x21004 + n % 32 * 0x40) * 8 + 0, 32, 0⟩
/-! LQN_CMD (12_landing_queues.md). -/

/-- `LQN_CMD.OP` [2:0], WO. 0x1–0x5; other values out of range -/
abbrev LQN_CMD_OP (n : Nat) : Fld := ⟨(0x21008 + n % 32 * 0x40) * 8 + 0, 3, 0⟩
/-! LQN_STATUS (12_landing_queues.md). -/

/-- `LQN_STATUS.CODE` [31:24], RO. Last command, or REFUSED after a refused pop -/
abbrev LQN_STATUS_CODE (n : Nat) : Fld := ⟨(0x2100c + n % 32 * 0x40) * 8 + 24, 8, 0⟩
/-- `LQN_STATUS.NONEMPTY` [11:11], RO. An item is waiting -/
abbrev LQN_STATUS_NONEMPTY (n : Nat) : Fld := ⟨(0x2100c + n % 32 * 0x40) * 8 + 11, 1, 0⟩
/-- `LQN_STATUS.THRESH_HIT` [10:10], RO. At least THRESH items are waiting, THRESH > 0 -/
abbrev LQN_STATUS_THRESH_HIT (n : Nat) : Fld := ⟨(0x2100c + n % 32 * 0x40) * 8 + 10, 1, 0⟩
/-- `LQN_STATUS.MARK_VALID` [9:9], RO. A mark is set -/
abbrev LQN_STATUS_MARK_VALID (n : Nat) : Fld := ⟨(0x2100c + n % 32 * 0x40) * 8 + 9, 1, 0⟩
/-- `LQN_STATUS.MARK_LOST` [8:8], RO. R301 -/
abbrev LQN_STATUS_MARK_LOST (n : Nat) : Fld := ⟨(0x2100c + n % 32 * 0x40) * 8 + 8, 1, 0⟩
/-- `LQN_STATUS.MID_ITEM` [7:7], RO. An item is partly popped -/
abbrev LQN_STATUS_MID_ITEM (n : Nat) : Fld := ⟨(0x2100c + n % 32 * 0x40) * 8 + 7, 1, 0⟩
/-- `LQN_STATUS.MARK_LOST_SEEN` [5:5], W1C. A mark has been lost -/
abbrev LQN_STATUS_MARK_LOST_SEEN (n : Nat) : Fld := ⟨(0x2100c + n % 32 * 0x40) * 8 + 5, 1, 0⟩
/-- `LQN_STATUS.GAP_SEEN` [4:4], W1C. An item has been dropped (R296) -/
abbrev LQN_STATUS_GAP_SEEN (n : Nat) : Fld := ⟨(0x2100c + n % 32 * 0x40) * 8 + 4, 1, 0⟩
/-- `LQN_STATUS.OVERSIZE_SEEN` [3:3], W1C. An item longer than SIZE − 1 has been dropped -/
abbrev LQN_STATUS_OVERSIZE_SEEN (n : Nat) : Fld := ⟨(0x2100c + n % 32 * 0x40) * 8 + 3, 1, 0⟩
/-- `LQN_STATUS.FLUSH_SEEN` [2:2], W1C. R299 -/
abbrev LQN_STATUS_FLUSH_SEEN (n : Nat) : Fld := ⟨(0x2100c + n % 32 * 0x40) * 8 + 2, 1, 0⟩
/-- `LQN_STATUS.REFUSED_SEEN` [1:1], W1C. A pop from the wrong side (R294) -/
abbrev LQN_STATUS_REFUSED_SEEN (n : Nat) : Fld := ⟨(0x2100c + n % 32 * 0x40) * 8 + 1, 1, 0⟩
/-- `LQN_STATUS.STALL_SEEN` [0:0], W1C. A stall has expired (R295) -/
abbrev LQN_STATUS_STALL_SEEN (n : Nat) : Fld := ⟨(0x2100c + n % 32 * 0x40) * 8 + 0, 1, 0⟩
/-! LQN_CFG (12_landing_queues.md). -/

/-- `LQN_CFG.CONSUMER` [31:31], RW. 0 Ferryman runtime, 1 host (R304) Reset value: assumption 10. -/
abbrev LQN_CFG_CONSUMER (n : Nat) : Fld := ⟨(0x21010 + n % 32 * 0x40) * 8 + 31, 1, 0⟩
/-- `LQN_CFG.IE_MARK_LOST` [27:27], RW. R303 -/
abbrev LQN_CFG_IE_MARK_LOST (n : Nat) : Fld := ⟨(0x21010 + n % 32 * 0x40) * 8 + 27, 1, 0⟩
/-- `LQN_CFG.IE_GAP` [26:26], RW. R303 -/
abbrev LQN_CFG_IE_GAP (n : Nat) : Fld := ⟨(0x21010 + n % 32 * 0x40) * 8 + 26, 1, 1⟩
/-- `LQN_CFG.IE_THRESH` [25:25], RW. R303 -/
abbrev LQN_CFG_IE_THRESH (n : Nat) : Fld := ⟨(0x21010 + n % 32 * 0x40) * 8 + 25, 1, 0⟩
/-- `LQN_CFG.IE_NONEMPTY` [24:24], RW. R303 -/
abbrev LQN_CFG_IE_NONEMPTY (n : Nat) : Fld := ⟨(0x21010 + n % 32 * 0x40) * 8 + 24, 1, 1⟩
/-- `LQN_CFG.THRESH` [19:0], RW. Items, 0–524 288; 0 means none -/
abbrev LQN_CFG_THRESH (n : Nat) : Fld := ⟨(0x21010 + n % 32 * 0x40) * 8 + 0, 20, 0⟩
/-! LQN_POOL (12_landing_queues.md). -/

/-- `LQN_POOL.BASE` [31:19], RO. First pool word ÷ 64, 0–8 191 Reset value: assumption 10. -/
abbrev LQN_POOL_BASE (n : Nat) : Fld := ⟨(0x21014 + n % 32 * 0x40) * 8 + 19, 13, 0⟩
/-- `LQN_POOL.SIZE` [13:0], RO. Words ÷ 64, 0–8 192; 0 means absent Reset value: assumption 10. -/
abbrev LQN_POOL_SIZE (n : Nat) : Fld := ⟨(0x21014 + n % 32 * 0x40) * 8 + 0, 14, 0⟩
/-! LQN_LEVEL (12_landing_queues.md). -/

/-- `LQN_LEVEL.ITEMS` [19:0], RO. Items waiting, markers included -/
abbrev LQN_LEVEL_ITEMS (n : Nat) : Fld := ⟨(0x21018 + n % 32 * 0x40) * 8 + 0, 20, 0⟩
/-! LQN_WORDS (12_landing_queues.md). -/

/-- `LQN_WORDS.USED` [19:0], RO. Stored words: waiting, retained and markers -/
abbrev LQN_WORDS_USED (n : Nat) : Fld := ⟨(0x2101c + n % 32 * 0x40) * 8 + 0, 20, 0⟩
/-! LQN_SEQ (12_landing_queues.md). -/

/-- `LQN_SEQ.NEXT_IN` [27:16], RO. Number the next producer item will take -/
abbrev LQN_SEQ_NEXT_IN (n : Nat) : Fld := ⟨(0x21020 + n % 32 * 0x40) * 8 + 16, 12, 0⟩
/-- `LQN_SEQ.NEXT_OUT` [11:0], RO. SEQ of the item at the head -/
abbrev LQN_SEQ_NEXT_OUT (n : Nat) : Fld := ⟨(0x21020 + n % 32 * 0x40) * 8 + 0, 12, 0⟩
/-! LQN_DROPPED (12_landing_queues.md). -/

/-- `LQN_DROPPED.COUNT` [63:0], RO. R296 -/
abbrev LQN_DROPPED_COUNT (n : Nat) : Fld := ⟨(0x21024 + n % 32 * 0x40) * 8 + 0, 64, 0⟩
/-! SV_MBOX_IN (13_registry_services.md). -/

/-- `SV_MBOX_IN.WORD` [31:0], WO. Next command word. The command runs when LEN words have arrived -/
abbrev SV_MBOX_IN_WORD : Fld := ⟨(0x34010) * 8 + 0, 32, 0⟩
/-! SV_MBOX_OUT (13_registry_services.md). -/

/-- `SV_MBOX_OUT.WORD` [31:0], RO. Next response word, or 0 when none is left -/
abbrev SV_MBOX_OUT_WORD : Fld := ⟨(0x34014) * 8 + 0, 32, 0⟩
/-! SV_MBOX_STATUS (13_registry_services.md). -/

/-- `SV_MBOX_STATUS.BUSY` [31:31], RO. A mailbox command is in progress or its response is unread -/
abbrev SV_MBOX_STATUS_BUSY : Fld := ⟨(0x34018) * 8 + 31, 1, 0⟩
/-- `SV_MBOX_STATUS.OUT_READY` [30:30], RO. A response is waiting -/
abbrev SV_MBOX_STATUS_OUT_READY : Fld := ⟨(0x34018) * 8 + 30, 1, 0⟩
/-- `SV_MBOX_STATUS.OVERFLOW` [29:29], W1C. Words arrived while BUSY -/
abbrev SV_MBOX_STATUS_OVERFLOW : Fld := ⟨(0x34018) * 8 + 29, 1, 0⟩
/-- `SV_MBOX_STATUS.OUT_WORDS` [8:0], RO. Response words not yet read, 0–256 -/
abbrev SV_MBOX_STATUS_OUT_WORDS : Fld := ⟨(0x34018) * 8 + 0, 9, 0⟩
/-! SV_RUNTIME (13_registry_services.md). -/

/-- `SV_RUNTIME.STATE` [31:28], RO. 0 boot ROM, 1 recovering, 2 running, 3 power-fail stop -/
abbrev SV_RUNTIME_STATE : Fld := ⟨(0x3401c) * 8 + 28, 4, 0⟩
/-- `SV_RUNTIME.VERSION` [15:0], RO. Runtime version; 0 under the boot ROM -/
abbrev SV_RUNTIME_VERSION : Fld := ⟨(0x3401c) * 8 + 0, 16, 0⟩
/-! SV_RECOV (13_registry_services.md). -/

/-- `SV_RECOV.DONE` [31:31], RO. Recovery has completed -/
abbrev SV_RECOV_DONE : Fld := ⟨(0x34020) * 8 + 31, 1, 0⟩
/-- `SV_RECOV.ECC_STOP` [30:30], RO. R318 -/
abbrev SV_RECOV_ECC_STOP : Fld := ⟨(0x34020) * 8 + 30, 1, 0⟩
/-- `SV_RECOV.DISCARDED` [29:29], RO. An invalid record was discarded -/
abbrev SV_RECOV_DISCARDED : Fld := ⟨(0x34020) * 8 + 29, 1, 0⟩
/-- `SV_RECOV.INDET` [28:20], RO. Slots closed as INDETERMINATE, 0–192 -/
abbrev SV_RECOV_INDET : Fld := ⟨(0x34020) * 8 + 20, 9, 0⟩
/-- `SV_RECOV.REPLAYED` [15:0], RO. Records applied, saturating at 65 535 -/
abbrev SV_RECOV_REPLAYED : Fld := ⟨(0x34020) * 8 + 0, 16, 0⟩
/-! SV_APPLIED (13_registry_services.md). -/

/-- `SV_APPLIED.SEQ` [63:0], RO. Copy of APPLIED_SEQ -/
abbrev SV_APPLIED_SEQ : Fld := ⟨(0x34024) * 8 + 0, 64, 0⟩
/-! TC_TIME (14_tideclock.md). -/

/-- `TC_TIME.SEC` [127:64], RO. TC_TIME2 low, TC_TIME3 high -/
abbrev TC_TIME_SEC : Fld := ⟨(0x4010) * 8 + 64, 64, 0⟩
/-- `TC_TIME.NS` [61:32], RO. TC_TIME1 -/
abbrev TC_TIME_NS : Fld := ⟨(0x4010) * 8 + 32, 30, 0⟩
/-- `TC_TIME.FRAC` [15:0], RO. TC_TIME0; a read latches the other words -/
abbrev TC_TIME_FRAC : Fld := ⟨(0x4010) * 8 + 0, 16, 0⟩
/-! TC_CFG (14_tideclock.md). -/

/-- `TC_CFG.SRC` [31:30], RW. R336 -/
abbrev TC_CFG_SRC : Fld := ⟨(0x4020) * 8 + 30, 2, 0⟩
/-- `TC_CFG.ALLOW_BACK` [29:29], RW. Permits a negative STEP (R339) -/
abbrev TC_CFG_ALLOW_BACK : Fld := ⟨(0x4020) * 8 + 29, 1, 0⟩
/-- `TC_CFG.KP_SHIFT` [27:24], RW. 0–15 (R338) -/
abbrev TC_CFG_KP_SHIFT : Fld := ⟨(0x4020) * 8 + 24, 4, 1⟩
/-- `TC_CFG.KI_SHIFT` [23:20], RW. 0–15 (R338) -/
abbrev TC_CFG_KI_SHIFT : Fld := ⟨(0x4020) * 8 + 20, 4, 4⟩
/-! TC_JUMP_LIMIT (14_tideclock.md). -/

/-- `TC_JUMP_LIMIT.LIMIT` [29:0], RW. ns, 1 000–1 000 000 000 (R49) -/
abbrev TC_JUMP_LIMIT_LIMIT : Fld := ⟨(0x4024) * 8 + 0, 30, 1000000⟩
/-! TC_SLEW_MAX (14_tideclock.md). -/

/-- `TC_SLEW_MAX.PPM` [9:0], RW. 1–1 000 (R49) -/
abbrev TC_SLEW_MAX_PPM : Fld := ⟨(0x4028) * 8 + 0, 10, 200⟩
/-! TC_STATUS (14_tideclock.md). -/

/-- `TC_STATUS.SET` [31:31], RO. R332 -/
abbrev TC_STATUS_SET : Fld := ⟨(0x402c) * 8 + 31, 1, 0⟩
/-- `TC_STATUS.HOLDOVER` [30:30], RO. R342 -/
abbrev TC_STATUS_HOLDOVER : Fld := ⟨(0x402c) * 8 + 30, 1, 0⟩
/-- `TC_STATUS.XTAL_MODE` [29:29], RO. Counting from the crystal (R333) -/
abbrev TC_STATUS_XTAL_MODE : Fld := ⟨(0x402c) * 8 + 29, 1, 0⟩
/-- `TC_STATUS.CLAMPED` [28:28], RO. RATE at TC_SLEW_MAX (R338) -/
abbrev TC_STATUS_CLAMPED : Fld := ⟨(0x402c) * 8 + 28, 1, 0⟩
/-- `TC_STATUS.REFUSED_PENDING` [27:27], RO. An offset is held for ACCEPT_STEP -/
abbrev TC_STATUS_REFUSED_PENDING : Fld := ⟨(0x402c) * 8 + 27, 1, 0⟩
/-- `TC_STATUS.STEP_REFUSED` [4:4], W1C. An offset has been refused (R337) -/
abbrev TC_STATUS_STEP_REFUSED : Fld := ⟨(0x402c) * 8 + 4, 1, 0⟩
/-- `TC_STATUS.STEPPED` [3:3], W1C. A step has been applied (R341) -/
abbrev TC_STATUS_STEPPED : Fld := ⟨(0x402c) * 8 + 3, 1, 0⟩
/-- `TC_STATUS.HOLD_SEEN` [2:2], W1C. Holdover has begun -/
abbrev TC_STATUS_HOLD_SEEN : Fld := ⟨(0x402c) * 8 + 2, 1, 0⟩
/-- `TC_STATUS.MASTER_CHANGED` [1:1], W1C. R343 -/
abbrev TC_STATUS_MASTER_CHANGED : Fld := ⟨(0x402c) * 8 + 1, 1, 0⟩
/-- `TC_STATUS.CAP_LOST` [0:0], W1C. A capture has been lost (R353) -/
abbrev TC_STATUS_CAP_LOST : Fld := ⟨(0x402c) * 8 + 0, 1, 0⟩
/-! TC_CMD (14_tideclock.md). -/

/-- `TC_CMD.OP` [3:0], WO. In TC_CMD: 0x1 STEP, 0x2 ACCEPT_STEP, 0x3 HOLD; other values out of range -/
abbrev TC_CMD_OP : Fld := ⟨(0x4030) * 8 + 0, 4, 0⟩
/-! TC_CMD_STATUS (14_tideclock.md). -/

/-- `TC_CMD_STATUS.CODE` [31:24], RO. In TC_CMD_STATUS: DONE, EMPTY, REFUSED or RANGE of the last command -/
abbrev TC_CMD_STATUS_CODE : Fld := ⟨(0x4034) * 8 + 24, 8, 0⟩
/-! TC_STEP (14_tideclock.md). -/

/-- `TC_STEP.NS` [63:0], RW. Signed step, ns (R339) -/
abbrev TC_STEP_NS : Fld := ⟨(0x4038) * 8 + 0, 64, 0⟩
/-! TC_OFFSET (14_tideclock.md). -/

/-- `TC_OFFSET.THETA` [63:0], WO. Signed, 2⁻¹⁶ ns -/
abbrev TC_OFFSET_THETA : Fld := ⟨(0x4040) * 8 + 0, 64, 0⟩
/-! TC_LAST_OFFSET (14_tideclock.md). -/

/-- `TC_LAST_OFFSET.VERDICT` [63:62], RO. 0 none, 1 accepted, 2 refused, 3 acquisition or discarded -/
abbrev TC_LAST_OFFSET_VERDICT : Fld := ⟨(0x4048) * 8 + 62, 2, 0⟩
/-- `TC_LAST_OFFSET.THETA` [61:0], RO. Signed, 2⁻¹⁶ ns -/
abbrev TC_LAST_OFFSET_THETA : Fld := ⟨(0x4048) * 8 + 0, 62, 0⟩
/-! TC_RATE (14_tideclock.md). -/

/-- `TC_RATE.VALUE` [31:0], RO. Signed, 2⁻⁸ ppb (R338) -/
abbrev TC_RATE_VALUE : Fld := ⟨(0x4050) * 8 + 0, 32, 0⟩
/-! TC_INTEG (14_tideclock.md). -/

/-- `TC_INTEG.VALUE` [31:0], RO. Signed, 2⁻⁸ ppb (R338) -/
abbrev TC_INTEG_VALUE : Fld := ⟨(0x4054) * 8 + 0, 32, 0⟩
/-! TC_INC (14_tideclock.md). -/

/-- `TC_INC.INC` [47:0], RO. 2⁻⁴⁰ ns (R333) -/
abbrev TC_INC_INC : Fld := ⟨(0x4058) * 8 + 0, 48, 2702830943402⟩
/-! TC_MASTER (14_tideclock.md). -/

/-- `TC_MASTER.ID` [63:0], RW. R343; hardware writes it for SRC = 0b10 -/
abbrev TC_MASTER_ID : Fld := ⟨(0x4060) * 8 + 0, 64, 0⟩
/-! TC_COUNTS (14_tideclock.md). -/

/-- `TC_COUNTS.REFUSED` [31:24], RC. Offsets refused -/
abbrev TC_COUNTS_REFUSED : Fld := ⟨(0x4068) * 8 + 24, 8, 0⟩
/-- `TC_COUNTS.STEPS` [23:16], RC. Steps applied -/
abbrev TC_COUNTS_STEPS : Fld := ⟨(0x4068) * 8 + 16, 8, 0⟩
/-- `TC_COUNTS.HOLDS` [15:8], RC. Holdovers begun -/
abbrev TC_COUNTS_HOLDS : Fld := ⟨(0x4068) * 8 + 8, 8, 0⟩
/-- `TC_COUNTS.MASTERS` [7:0], RC. Master changes -/
abbrev TC_COUNTS_MASTERS : Fld := ⟨(0x4068) * 8 + 0, 8, 0⟩
/-! TC_HS_CFG (14_tideclock.md). -/

/-- `TC_HS_CFG.DLY_SHIFT` [11:8], RW. Delay filter weight 2^−value, 0–8 -/
abbrev TC_HS_CFG_DLY_SHIFT : Fld := ⟨(0x406c) * 8 + 8, 4, 3⟩
/-- `TC_HS_CFG.HOLD_BEACONS` [7:4], RW. 1–15 (R342) -/
abbrev TC_HS_CFG_HOLD_BEACONS : Fld := ⟨(0x406c) * 8 + 4, 4, 4⟩
/-- `TC_HS_CFG.BEACON_LOG` [3:0], RW. Interval 2^value ms, 4–10 -/
abbrev TC_HS_CFG_BEACON_LOG : Fld := ⟨(0x406c) * 8 + 0, 4, 7⟩
/-! TC_ASYM_HS (14_tideclock.md). -/

/-- `TC_ASYM_HS.ASYM` [23:0], RW. Signed, 1/16 ns (R345) -/
abbrev TC_ASYM_HS_ASYM (n : Nat) : Fld := ⟨(0x4070 + n % 4 * 0x4) * 8 + 0, 24, 0⟩
/-! TC_ASYM_EN (14_tideclock.md). -/

/-- `TC_ASYM_EN.ASYM` [31:0], RW. Signed, ns (R345) -/
abbrev TC_ASYM_EN_ASYM (n : Nat) : Fld := ⟨(0x4080 + n % 2 * 0x4) * 8 + 0, 32, 0⟩
/-! TC_PTP_CFG (14_tideclock.md). -/

/-- `TC_PTP_CFG.STATE` [31:30], RO. 0 DISABLED, 1 LISTENING, 2 SLAVE, 3 MASTER -/
abbrev TC_PTP_CFG_STATE : Fld := ⟨(0x4088) * 8 + 30, 2, 0⟩
/-- `TC_PTP_CFG.DOMAIN` [22:16], RW. 0–127 -/
abbrev TC_PTP_CFG_DOMAIN : Fld := ⟨(0x4088) * 8 + 16, 7, 0⟩
/-- `TC_PTP_CFG.LOG_SYNC` [12:8], RW. Two's complement, −4 to +1; reset −3 -/
abbrev TC_PTP_CFG_LOG_SYNC : Fld := ⟨(0x4088) * 8 + 8, 5, 29⟩
/-- `TC_PTP_CFG.UDP` [5:5], RW. 1 UDP over IPv4 -/
abbrev TC_PTP_CFG_UDP : Fld := ⟨(0x4088) * 8 + 5, 1, 0⟩
/-- `TC_PTP_CFG.P2P` [4:4], RW. 1 peer delay -/
abbrev TC_PTP_CFG_P2P : Fld := ⟨(0x4088) * 8 + 4, 1, 0⟩
/-- `TC_PTP_CFG.ONE_STEP` [3:3], RW. 1 one-step transmit -/
abbrev TC_PTP_CFG_ONE_STEP : Fld := ⟨(0x4088) * 8 + 3, 1, 0⟩
/-- `TC_PTP_CFG.SLAVE_ONLY` [2:2], RW. R347 -/
abbrev TC_PTP_CFG_SLAVE_ONLY : Fld := ⟨(0x4088) * 8 + 2, 1, 1⟩
/-- `TC_PTP_CFG.PORT` [1:1], RW. Ethernet port -/
abbrev TC_PTP_CFG_PORT : Fld := ⟨(0x4088) * 8 + 1, 1, 0⟩
/-- `TC_PTP_CFG.PTP_EN` [0:0], RW. 1 runs the stack -/
abbrev TC_PTP_CFG_PTP_EN : Fld := ⟨(0x4088) * 8 + 0, 1, 0⟩
/-! TC_LINKDLY (14_tideclock.md). -/

/-- `TC_LINKDLY.M` [31:0], RO. Filtered link delay, 1/16 ns (R344) -/
abbrev TC_LINKDLY_M (n : Nat) : Fld := ⟨(0x4090 + n % 4 * 0x4) * 8 + 0, 32, 0⟩
/-! TC_CAP_CFG (14_tideclock.md). -/

/-- `TC_CAP_CFG.EN` [31:31], RW. In TC_CAPk_CFG: captures enabled -/
abbrev TC_CAP_CFG_EN (n : Nat) : Fld := ⟨(0x4180 + n % 4 * 0x8) * 8 + 31, 1, 0⟩
/-- `TC_CAP_CFG.EDGE` [30:29], RW. In TC_CAPk_CFG: 0b01 rising, 0b10 falling, 0b11 both; 0b00 out of range -/
abbrev TC_CAP_CFG_EDGE (n : Nat) : Fld := ⟨(0x4180 + n % 4 * 0x8) * 8 + 29, 2, 1⟩
/-- `TC_CAP_CFG.DEBOUNCE` [15:0], RW. In TC_CAPk_CFG: µs, 0–65 535; 0 means none -/
abbrev TC_CAP_CFG_DEBOUNCE (n : Nat) : Fld := ⟨(0x4180 + n % 4 * 0x8) * 8 + 0, 16, 0⟩
/-! TC_CAP_STAT (14_tideclock.md). -/

/-- `TC_CAP_STAT.LOST` [31:16], RO. In TC_CAPk_STAT: edges lost since the last item -/
abbrev TC_CAP_STAT_LOST (n : Nat) : Fld := ⟨(0x4184 + n % 4 * 0x8) * 8 + 16, 16, 0⟩
/-- `TC_CAP_STAT.FILL` [2:0], RO. In TC_CAPk_STAT: captures buffered, 0–4 -/
abbrev TC_CAP_STAT_FILL (n : Nat) : Fld := ⟨(0x4184 + n % 4 * 0x8) * 8 + 0, 3, 0⟩
/-! HS_CFG (15_hawser_fabric.md). -/

/-- `HS_CFG.TTL` [31:24], RW. Initial TTL, 1–255 (R367) -/
abbrev HS_CFG_TTL : Fld := ⟨(0x8010) * 8 + 24, 8, 32⟩
/-- `HS_CFG.DISC_TIMEOUT` [15:4], RW. 10 ms units, 10–3 000 (R370) -/
abbrev HS_CFG_DISC_TIMEOUT : Fld := ⟨(0x8010) * 8 + 4, 12, 200⟩
/-- `HS_CFG.REMOTE_WR` [2:2], RW. Permits remote writes (R378) -/
abbrev HS_CFG_REMOTE_WR : Fld := ⟨(0x8010) * 8 + 2, 1, 0⟩
/-- `HS_CFG.REMOTE_RD` [1:1], RW. Permits remote reads (R378) -/
abbrev HS_CFG_REMOTE_RD : Fld := ⟨(0x8010) * 8 + 1, 1, 1⟩
/-! HS_FABRIC_ID (15_hawser_fabric.md). -/

/-- `HS_FABRIC_ID.ID` [31:0], RO. R88 Reset value: assumption 10. -/
abbrev HS_FABRIC_ID_ID : Fld := ⟨(0x8014) * 8 + 0, 32, 0⟩
/-! HS_MCFG (15_hawser_fabric.md). -/

/-- `HS_MCFG.MODE` [17:16], RO. 0 off, 1 Hawser, 2 Cascade Reset value: assumption 10. -/
abbrev HS_MCFG_MODE : Fld := ⟨(0x8018) * 8 + 16, 2, 0⟩
/-- `HS_MCFG.PRIORITY` [15:8], RO. ROOT_PRIORITY Reset value: assumption 10. -/
abbrev HS_MCFG_PRIORITY : Fld := ⟨(0x8018) * 8 + 8, 8, 0⟩
/-- `HS_MCFG.SERVE_BOOT` [4:4], RO. R379 Reset value: assumption 10. -/
abbrev HS_MCFG_SERVE_BOOT : Fld := ⟨(0x8018) * 8 + 4, 1, 0⟩
/-- `HS_MCFG.PORTS` [3:0], RO. Enabled ports Reset value: assumption 10. -/
abbrev HS_MCFG_PORTS : Fld := ⟨(0x8018) * 8 + 0, 4, 0⟩
/-! HS_STATUS (15_hawser_fabric.md). -/

/-- `HS_STATUS.MODE` [31:30], RO. Mode in force: 0 off, 1 Hawser, 2 Cascade -/
abbrev HS_STATUS_MODE : Fld := ⟨(0x801c) * 8 + 30, 2, 0⟩
/-- `HS_STATUS.ROLE` [29:28], RO. 0 none, 1 member, 2 root, 3 Cascade master -/
abbrev HS_STATUS_ROLE : Fld := ⟨(0x801c) * 8 + 28, 2, 0⟩
/-- `HS_STATUS.DISC` [27:25], RO. 0 IDLE, 1 ELECT, 2 ASSIGN, 3 RUN, 4 CHAIN -/
abbrev HS_STATUS_DISC : Fld := ⟨(0x801c) * 8 + 25, 3, 0⟩
/-- `HS_STATUS.ADDR_VALID` [24:24], RO. An address is confirmed -/
abbrev HS_STATUS_ADDR_VALID : Fld := ⟨(0x801c) * 8 + 24, 1, 0⟩
/-- `HS_STATUS.ADDR` [23:12], RO. Device address -/
abbrev HS_STATUS_ADDR : Fld := ⟨(0x801c) * 8 + 12, 12, 0⟩
/-- `HS_STATUS.FAILS` [11:8], RO. Consecutive discovery failures, 0–8 -/
abbrev HS_STATUS_FAILS : Fld := ⟨(0x801c) * 8 + 8, 4, 0⟩
/-- `HS_STATUS.ADDR_FULL` [7:7], RO. The root had no free address (R371) -/
abbrev HS_STATUS_ADDR_FULL : Fld := ⟨(0x801c) * 8 + 7, 1, 0⟩
/-- `HS_STATUS.RESET_REFUSED_SEEN` [5:5], W1C. R380 -/
abbrev HS_STATUS_RESET_REFUSED_SEEN : Fld := ⟨(0x801c) * 8 + 5, 1, 0⟩
/-- `HS_STATUS.CONFLICT_SEEN` [4:4], W1C. R372, R383 -/
abbrev HS_STATUS_CONFLICT_SEEN : Fld := ⟨(0x801c) * 8 + 4, 1, 0⟩
/-- `HS_STATUS.FALLBACK_SEEN` [3:3], W1C. R370 -/
abbrev HS_STATUS_FALLBACK_SEEN : Fld := ⟨(0x801c) * 8 + 3, 1, 0⟩
/-- `HS_STATUS.ADDR_CHANGED_SEEN` [2:2], W1C. The address has changed -/
abbrev HS_STATUS_ADDR_CHANGED_SEEN : Fld := ⟨(0x801c) * 8 + 2, 1, 0⟩
/-- `HS_STATUS.ROOT_CHANGED_SEEN` [1:1], W1C. R375 -/
abbrev HS_STATUS_ROOT_CHANGED_SEEN : Fld := ⟨(0x801c) * 8 + 1, 1, 0⟩
/-- `HS_STATUS.PATH_CHANGED_SEEN` [0:0], W1C. R375 -/
abbrev HS_STATUS_PATH_CHANGED_SEEN : Fld := ⟨(0x801c) * 8 + 0, 1, 0⟩
/-! HS_ROOT (15_hawser_fabric.md). -/

/-- `HS_ROOT.ID` [63:0], RO. Unit ID of the root or master; 0 when none -/
abbrev HS_ROOT_ID : Fld := ⟨(0x8020) * 8 + 0, 64, 0⟩
/-! HS_ROOTINFO (15_hawser_fabric.md). -/

/-- `HS_ROOTINFO.PRIORITY` [31:24], RO. Root's ROOT_PRIORITY -/
abbrev HS_ROOTINFO_PRIORITY : Fld := ⟨(0x8028) * 8 + 24, 8, 0⟩
/-- `HS_ROOTINFO.ADDR` [23:12], RO. Root's address -/
abbrev HS_ROOTINFO_ADDR : Fld := ⟨(0x8028) * 8 + 12, 12, 0⟩
/-! HS_UPSTREAM (15_hawser_fabric.md). -/

/-- `HS_UPSTREAM.VALID` [31:31], RO. An upstream port exists -/
abbrev HS_UPSTREAM_VALID : Fld := ⟨(0x802c) * 8 + 31, 1, 0⟩
/-- `HS_UPSTREAM.PORT` [29:28], RO. Upstream port -/
abbrev HS_UPSTREAM_PORT : Fld := ⟨(0x802c) * 8 + 28, 2, 0⟩
/-- `HS_UPSTREAM.NEIGH` [23:12], RO. Upstream neighbour's address -/
abbrev HS_UPSTREAM_NEIGH : Fld := ⟨(0x802c) * 8 + 12, 12, 0⟩
/-- `HS_UPSTREAM.HOPS` [7:0], RO. Hops to the root, saturating at 255 -/
abbrev HS_UPSTREAM_HOPS : Fld := ⟨(0x802c) * 8 + 0, 8, 0⟩
/-! HS_CMD (15_hawser_fabric.md). -/

/-- `HS_CMD.OP` [31:28], WO. 0x1 REDISCOVER, 0x2 RESET_DEV, 0x3 RETRAIN; other values out of range -/
abbrev HS_CMD_OP : Fld := ⟨(0x8030) * 8 + 28, 4, 0⟩
/-- `HS_CMD.TARGET` [11:0], WO. Address for RESET_DEV; port 0–3 for RETRAIN -/
abbrev HS_CMD_TARGET : Fld := ⟨(0x8030) * 8 + 0, 12, 0⟩
/-! HS_CMD_STATUS (15_hawser_fabric.md). -/

/-- `HS_CMD_STATUS.CODE` [31:24], RO. DONE, REFUSED, RANGE or 0x11 NO_REPLY -/
abbrev HS_CMD_STATUS_CODE : Fld := ⟨(0x8034) * 8 + 24, 8, 0⟩
/-! HS_RT_SEL (15_hawser_fabric.md). -/

/-- `HS_RT_SEL.ADDR` [11:0], RW. In HS_RT_SEL: address shown -/
abbrev HS_RT_SEL_ADDR : Fld := ⟨(0x8038) * 8 + 0, 12, 0⟩
/-! HS_RT_DATA (15_hawser_fabric.md). -/

/-- `HS_RT_DATA.VALID` [31:31], RO. In HS_RT_DATA: a path exists -/
abbrev HS_RT_DATA_VALID : Fld := ⟨(0x803c) * 8 + 31, 1, 0⟩
/-- `HS_RT_DATA.LOCAL` [30:30], RO. In HS_RT_DATA: own address -/
abbrev HS_RT_DATA_LOCAL : Fld := ⟨(0x803c) * 8 + 30, 1, 0⟩
/-- `HS_RT_DATA.PORT` [29:28], RO. In HS_RT_DATA: next-hop port -/
abbrev HS_RT_DATA_PORT : Fld := ⟨(0x803c) * 8 + 28, 2, 0⟩
/-- `HS_RT_DATA.HOPS` [23:16], RO. In HS_RT_DATA: hops -/
abbrev HS_RT_DATA_HOPS : Fld := ⟨(0x803c) * 8 + 16, 8, 0⟩
/-- `HS_RT_DATA.COST` [15:0], RO. In HS_RT_DATA: path cost -/
abbrev HS_RT_DATA_COST : Fld := ⟨(0x803c) * 8 + 0, 16, 0⟩
/-! HS_BIND_SEL (15_hawser_fabric.md). -/

/-- `HS_BIND_SEL.ADDR` [11:0], RW. In HS_BIND_SEL: address shown -/
abbrev HS_BIND_SEL_ADDR : Fld := ⟨(0x8040) * 8 + 0, 12, 0⟩
/-! HS_BIND_ID (15_hawser_fabric.md). -/

/-- `HS_BIND_ID.ID` [63:0], RO. In HS_BIND_ID: bound unit ID; 0 when unbound -/
abbrev HS_BIND_ID_ID : Fld := ⟨(0x8044) * 8 + 0, 64, 0⟩
/-! HS_BIND_AGE (15_hawser_fabric.md). -/

/-- `HS_BIND_AGE.PRESENT` [31:31], RO. The bound unit is present now -/
abbrev HS_BIND_AGE_PRESENT : Fld := ⟨(0x804c) * 8 + 31, 1, 0⟩
/-- `HS_BIND_AGE.MIN` [10:0], RO. Minutes since the unit was last present, saturating at 1 440 -/
abbrev HS_BIND_AGE_MIN : Fld := ⟨(0x804c) * 8 + 0, 11, 0⟩
/-! HS_SEND (15_hawser_fabric.md). -/

/-- `HS_SEND.WORD` [31:0], WO. Next word of a packet -/
abbrev HS_SEND_WORD : Fld := ⟨(0x8050) * 8 + 0, 32, 0⟩
/-! HS_SEND_STATUS (15_hawser_fabric.md). -/

/-- `HS_SEND_STATUS.CODE` [31:24], RO. R377 -/
abbrev HS_SEND_STATUS_CODE : Fld := ⟨(0x8054) * 8 + 24, 8, 0⟩
/-- `HS_SEND_STATUS.PSEQ` [15:0], RO. PSEQ of the last packet accepted -/
abbrev HS_SEND_STATUS_PSEQ : Fld := ⟨(0x8054) * 8 + 0, 16, 0⟩
/-! HS_STATS (15_hawser_fabric.md). -/

/-- `HS_STATS.TTL_DROP` [31:24], RC. R367 -/
abbrev HS_STATS_TTL_DROP : Fld := ⟨(0x8058) * 8 + 24, 8, 0⟩
/-- `HS_STATS.NO_ROUTE` [23:16], RC. R367 -/
abbrev HS_STATS_NO_ROUTE : Fld := ⟨(0x8058) * 8 + 16, 8, 0⟩
/-- `HS_STATS.FWD_DROP` [15:8], RC. R365, R366, R367 -/
abbrev HS_STATS_FWD_DROP : Fld := ⟨(0x8058) * 8 + 8, 8, 0⟩
/-- `HS_STATS.LINK_DROP` [7:0], RC. R364 -/
abbrev HS_STATS_LINK_DROP : Fld := ⟨(0x8058) * 8 + 0, 8, 0⟩
/-! HSP_CFG (15_hawser_fabric.md). -/

/-- `HSP_CFG.COST` [31:24], RW. Link cost, 1–255 (R374) -/
abbrev HSP_CFG_COST (n : Nat) : Fld := ⟨(0x8100 + n % 4 * 0x40) * 8 + 24, 8, 1⟩
/-- `HSP_CFG.ITER_MAX` [23:20], RW. Decoder iterations, 1–12 (R361) -/
abbrev HSP_CFG_ITER_MAX (n : Nat) : Fld := ⟨(0x8100 + n % 4 * 0x40) * 8 + 20, 4, 12⟩
/-- `HSP_CFG.ACK_TO` [15:8], RW. µs, 4–255 (R363) -/
abbrev HSP_CFG_ACK_TO (n : Nat) : Fld := ⟨(0x8100 + n % 4 * 0x40) * 8 + 8, 8, 16⟩
/-- `HSP_CFG.RETRY_MAX` [7:4], RW. Resends per frame, 1–15 (R364) -/
abbrev HSP_CFG_RETRY_MAX (n : Nat) : Fld := ⟨(0x8100 + n % 4 * 0x40) * 8 + 4, 4, 8⟩
/-- `HSP_CFG.RETRAIN` [0:0], W1S. Restarts training; reads 1 until DETECT -/
abbrev HSP_CFG_RETRAIN (n : Nat) : Fld := ⟨(0x8100 + n % 4 * 0x40) * 8 + 0, 1, 0⟩
/-! HSP_STATUS (15_hawser_fabric.md). -/

/-- `HSP_STATUS.LINK` [31:28], RO. 0 OFF, 1 DETECT, 2 TRAIN, 3 ALIGN, 4 EXCHANGE, 5 UP, 6 FOREIGN, 7 LOOP, 8 BOOT_PEER -/
abbrev HSP_STATUS_LINK (n : Nat) : Fld := ⟨(0x8104 + n % 4 * 0x40) * 8 + 28, 4, 0⟩
/-- `HSP_STATUS.NEIGH` [27:16], RO. Neighbour's address -/
abbrev HSP_STATUS_NEIGH (n : Nat) : Fld := ⟨(0x8104 + n % 4 * 0x40) * 8 + 16, 12, 0⟩
/-- `HSP_STATUS.NEIGH_VALID` [15:15], RO. The neighbour has an address -/
abbrev HSP_STATUS_NEIGH_VALID (n : Nat) : Fld := ⟨(0x8104 + n % 4 * 0x40) * 8 + 15, 1, 0⟩
/-- `HSP_STATUS.UPSTREAM` [14:14], RO. This is the upstream port -/
abbrev HSP_STATUS_UPSTREAM (n : Nat) : Fld := ⟨(0x8104 + n % 4 * 0x40) * 8 + 14, 1, 0⟩
/-- `HSP_STATUS.DOWN_SEEN` [3:3], W1C. The link has dropped (R364) -/
abbrev HSP_STATUS_DOWN_SEEN (n : Nat) : Fld := ⟨(0x8104 + n % 4 * 0x40) * 8 + 3, 1, 0⟩
/-- `HSP_STATUS.FOREIGN_SEEN` [2:2], W1C. FOREIGN has been entered -/
abbrev HSP_STATUS_FOREIGN_SEEN (n : Nat) : Fld := ⟨(0x8104 + n % 4 * 0x40) * 8 + 2, 1, 0⟩
/-- `HSP_STATUS.LOOP_SEEN` [1:1], W1C. LOOP has been entered -/
abbrev HSP_STATUS_LOOP_SEEN (n : Nat) : Fld := ⟨(0x8104 + n % 4 * 0x40) * 8 + 1, 1, 0⟩
/-- `HSP_STATUS.NO_SIGNAL_SEEN` [0:0], W1C. R356 -/
abbrev HSP_STATUS_NO_SIGNAL_SEEN (n : Nat) : Fld := ⟨(0x8104 + n % 4 * 0x40) * 8 + 0, 1, 0⟩
/-! HSP_NEIGH (15_hawser_fabric.md). -/

/-- `HSP_NEIGH.ID` [63:0], RO. From TRAIN_INFO -/
abbrev HSP_NEIGH_ID (n : Nat) : Fld := ⟨(0x8108 + n % 4 * 0x40) * 8 + 0, 64, 0⟩
/-! HSP_DIAG (15_hawser_fabric.md). -/

/-- `HSP_DIAG.SNR` [31:24], RO. Slicer SNR, 0.25 dB units -/
abbrev HSP_DIAG_SNR (n : Nat) : Fld := ⟨(0x8110 + n % 4 * 0x40) * 8 + 24, 8, 0⟩
/-- `HSP_DIAG.ITER_AVG` [23:16], RO. Mean decoder iterations over the last 65 536 codewords, 1/16 units -/
abbrev HSP_DIAG_ITER_AVG (n : Nat) : Fld := ⟨(0x8110 + n % 4 * 0x40) * 8 + 16, 8, 0⟩
/-- `HSP_DIAG.LEN_M` [15:8], RO. Cable length estimate, m, saturating (R360) -/
abbrev HSP_DIAG_LEN_M (n : Nat) : Fld := ⟨(0x8110 + n % 4 * 0x40) * 8 + 8, 8, 0⟩
/-! HSP_ERR (15_hawser_fabric.md). -/

/-- `HSP_ERR.CW_FAIL` [31:24], RC. Failed codewords -/
abbrev HSP_ERR_CW_FAIL (n : Nat) : Fld := ⟨(0x8114 + n % 4 * 0x40) * 8 + 24, 8, 0⟩
/-- `HSP_ERR.RESENT` [23:16], RC. DATA frames resent -/
abbrev HSP_ERR_RESENT (n : Nat) : Fld := ⟨(0x8114 + n % 4 * 0x40) * 8 + 16, 8, 0⟩
/-- `HSP_ERR.NAK` [15:8], RC. NAKs sent -/
abbrev HSP_ERR_NAK (n : Nat) : Fld := ⟨(0x8114 + n % 4 * 0x40) * 8 + 8, 8, 0⟩
/-- `HSP_ERR.DOWN` [7:0], RC. Link drops -/
abbrev HSP_ERR_DOWN (n : Nat) : Fld := ⟨(0x8114 + n % 4 * 0x40) * 8 + 0, 8, 0⟩
/-! HSP_CW (15_hawser_fabric.md). -/

/-- `HSP_CW.COUNT` [63:0], RO. Since the last CORE reset -/
abbrev HSP_CW_COUNT (n : Nat) : Fld := ⟨(0x8118 + n % 4 * 0x40) * 8 + 0, 64, 0⟩
/-! HSP_CORR (15_hawser_fabric.md). -/

/-- `HSP_CORR.COUNT` [63:0], RO. Since the last CORE reset -/
abbrev HSP_CORR_COUNT (n : Nat) : Fld := ⟨(0x8120 + n % 4 * 0x40) * 8 + 0, 64, 0⟩
/-! EN_CFG (16_ethernet.md). -/

/-- `EN_CFG.TX_EN` [31:31], RW. Transmit enabled -/
abbrev EN_CFG_TX_EN (n : Nat) : Fld := ⟨(0x6010 + n % 2 * 0x800) * 8 + 31, 1, 0⟩
/-- `EN_CFG.RX_EN` [30:30], RW. Receive enabled -/
abbrev EN_CFG_RX_EN (n : Nat) : Fld := ⟨(0x6010 + n % 2 * 0x800) * 8 + 30, 1, 0⟩
/-- `EN_CFG.PROMISC` [29:29], RW. R391 -/
abbrev EN_CFG_PROMISC (n : Nat) : Fld := ⟨(0x6010 + n % 2 * 0x800) * 8 + 29, 1, 0⟩
/-- `EN_CFG.BCAST` [28:28], RW. R391 -/
abbrev EN_CFG_BCAST (n : Nat) : Fld := ⟨(0x6010 + n % 2 * 0x800) * 8 + 28, 1, 1⟩
/-- `EN_CFG.ACCEPT_UNTAG` [27:27], RW. R391 -/
abbrev EN_CFG_ACCEPT_UNTAG (n : Nat) : Fld := ⟨(0x6010 + n % 2 * 0x800) * 8 + 27, 1, 1⟩
/-- `EN_CFG.STRIP` [26:26], RW. R391 -/
abbrev EN_CFG_STRIP (n : Nat) : Fld := ⟨(0x6010 + n % 2 * 0x800) * 8 + 26, 1, 1⟩
/-- `EN_CFG.PAUSE_RX` [25:25], RW. R390 -/
abbrev EN_CFG_PAUSE_RX (n : Nat) : Fld := ⟨(0x6010 + n % 2 * 0x800) * 8 + 25, 1, 1⟩
/-- `EN_CFG.PAUSE_TX` [24:24], RW. R390 -/
abbrev EN_CFG_PAUSE_TX (n : Nat) : Fld := ⟨(0x6010 + n % 2 * 0x800) * 8 + 24, 1, 0⟩
/-- `EN_CFG.JUMBO` [23:23], RW. R387 -/
abbrev EN_CFG_JUMBO (n : Nat) : Fld := ⟨(0x6010 + n % 2 * 0x800) * 8 + 23, 1, 0⟩
/-- `EN_CFG.BUF_LEN` [13:0], RW. Receive buffer bytes, 64–9 216 -/
abbrev EN_CFG_BUF_LEN (n : Nat) : Fld := ⟨(0x6010 + n % 2 * 0x800) * 8 + 0, 14, 2048⟩
/-! EN_STATUS (16_ethernet.md). -/

/-- `EN_STATUS.LINK` [31:31], RO. Link up -/
abbrev EN_STATUS_LINK (n : Nat) : Fld := ⟨(0x6014 + n % 2 * 0x800) * 8 + 31, 1, 0⟩
/-- `EN_STATUS.SPEED` [30:29], RO. 0b00 10, 0b01 100, 0b10 1 000 Mb/s -/
abbrev EN_STATUS_SPEED (n : Nat) : Fld := ⟨(0x6014 + n % 2 * 0x800) * 8 + 29, 2, 0⟩
/-- `EN_STATUS.LINK_CHG_SEEN` [2:2], W1C. R388 -/
abbrev EN_STATUS_LINK_CHG_SEEN (n : Nat) : Fld := ⟨(0x6014 + n % 2 * 0x800) * 8 + 2, 1, 0⟩
/-- `EN_STATUS.HALF_SEEN` [1:1], W1C. R387 -/
abbrev EN_STATUS_HALF_SEEN (n : Nat) : Fld := ⟨(0x6014 + n % 2 * 0x800) * 8 + 1, 1, 0⟩
/-- `EN_STATUS.RX_DROP_SEEN` [0:0], W1C. R390 -/
abbrev EN_STATUS_RX_DROP_SEEN (n : Nat) : Fld := ⟨(0x6014 + n % 2 * 0x800) * 8 + 0, 1, 0⟩
/-! EN_MAC (16_ethernet.md). -/

/-- `EN_MAC.ADDR` [47:0], RW. First octet in bits [7:0] -/
abbrev EN_MAC_ADDR (n : Nat) : Fld := ⟨(0x6018 + n % 2 * 0x800) * 8 + 0, 48, 0⟩
/-! EN_HASH (16_ethernet.md). -/

/-- `EN_HASH.BITS` [63:0], RW. Multicast hash (R391) -/
abbrev EN_HASH_BITS (n : Nat) : Fld := ⟨(0x6020 + n % 2 * 0x800) * 8 + 0, 64, 0⟩
/-! EN_TS_LAT (16_ethernet.md). -/

/-- `EN_TS_LAT.EGRESS` [31:16], RW. ns, 0–65 535 -/
abbrev EN_TS_LAT_EGRESS (n : Nat) : Fld := ⟨(0x6028 + n % 2 * 0x800) * 8 + 16, 16, 0⟩
/-- `EN_TS_LAT.INGRESS` [15:0], RW. ns, 0–65 535 -/
abbrev EN_TS_LAT_INGRESS (n : Nat) : Fld := ⟨(0x6028 + n % 2 * 0x800) * 8 + 0, 16, 0⟩
/-! EN_STATS (16_ethernet.md). -/

/-- `EN_STATS.RX_DROP` [31:24], RC. Ring full (R390) -/
abbrev EN_STATS_RX_DROP (n : Nat) : Fld := ⟨(0x602c + n % 2 * 0x800) * 8 + 24, 8, 0⟩
/-- `EN_STATS.RX_LONG` [23:16], RC. Longer than BUF_LEN -/
abbrev EN_STATS_RX_LONG (n : Nat) : Fld := ⟨(0x602c + n % 2 * 0x800) * 8 + 16, 8, 0⟩
/-- `EN_STATS.RX_FCS` [15:8], RC. FCS errors -/
abbrev EN_STATS_RX_FCS (n : Nat) : Fld := ⟨(0x602c + n % 2 * 0x800) * 8 + 8, 8, 0⟩
/-- `EN_STATS.RX_ERR` [7:0], RC. Error symbols and frames cut by a link drop -/
abbrev EN_STATS_RX_ERR (n : Nat) : Fld := ⟨(0x602c + n % 2 * 0x800) * 8 + 0, 8, 0⟩
/-! EN_FRAMES (16_ethernet.md). -/

/-- `EN_FRAMES.TX` [31:16], RO. Frames sent -/
abbrev EN_FRAMES_TX (n : Nat) : Fld := ⟨(0x6030 + n % 2 * 0x800) * 8 + 16, 16, 0⟩
/-- `EN_FRAMES.RX` [15:0], RO. Frames accepted -/
abbrev EN_FRAMES_RX (n : Nat) : Fld := ⟨(0x6030 + n % 2 * 0x800) * 8 + 0, 16, 0⟩
/-! EN_VLAN (16_ethernet.md). -/

/-- `EN_VLAN.EN` [31:31], RW. Entry in use -/
abbrev EN_VLAN_EN (n k : Nat) : Fld := ⟨(0x6040 + n % 2 * 0x800 + k % 16 * 0x4) * 8 + 31, 1, 0⟩
/-- `EN_VLAN.RING` [13:12], RW. Receive ring 1–3; 0b00 out of range -/
abbrev EN_VLAN_RING (n k : Nat) : Fld := ⟨(0x6040 + n % 2 * 0x800 + k % 16 * 0x4) * 8 + 12, 2, 1⟩
/-- `EN_VLAN.VID` [11:0], RW. 1–4 094 -/
abbrev EN_VLAN_VID (n k : Nat) : Fld := ⟨(0x6040 + n % 2 * 0x800 + k % 16 * 0x4) * 8 + 0, 12, 1⟩
/-! EN0_MDIO_CFG (16_ethernet.md). -/

/-- `EN0_MDIO_CFG.DIV` [7:0], RW. 2–255 (R397) -/
abbrev EN0_MDIO_CFG_DIV : Fld := ⟨(0x6200) * 8 + 0, 8, 82⟩
/-! EN0_MDIO_CMD (16_ethernet.md). -/

/-- `EN0_MDIO_CMD.BUSY` [31:31], RO. A frame is in progress -/
abbrev EN0_MDIO_CMD_BUSY : Fld := ⟨(0x6204) * 8 + 31, 1, 0⟩
/-- `EN0_MDIO_CMD.C45` [30:30], RW. 1 Clause 45 -/
abbrev EN0_MDIO_CMD_C45 : Fld := ⟨(0x6204) * 8 + 30, 1, 0⟩
/-- `EN0_MDIO_CMD.OP` [29:28], RW. Clause 22: 0b01 write, 0b10 read. Clause 45: 0b00 address, 0b01 write, 0b11 read -/
abbrev EN0_MDIO_CMD_OP : Fld := ⟨(0x6204) * 8 + 28, 2, 2⟩
/-- `EN0_MDIO_CMD.PHYAD` [27:23], RW. PHY or port address -/
abbrev EN0_MDIO_CMD_PHYAD : Fld := ⟨(0x6204) * 8 + 23, 5, 0⟩
/-- `EN0_MDIO_CMD.REGAD` [22:18], RW. Register or device address -/
abbrev EN0_MDIO_CMD_REGAD : Fld := ⟨(0x6204) * 8 + 18, 5, 0⟩
/-- `EN0_MDIO_CMD.CODE` [17:16], RO. 0b00 DONE, 0b01 NO_PHY -/
abbrev EN0_MDIO_CMD_CODE : Fld := ⟨(0x6204) * 8 + 16, 2, 0⟩
/-- `EN0_MDIO_CMD.DATA` [15:0], RW. Data written, or data read -/
abbrev EN0_MDIO_CMD_DATA : Fld := ⟨(0x6204) * 8 + 0, 16, 0⟩
/-! GW_CFG (17_gangway.md). -/

/-- `GW_CFG.ROLE` [31:31], RW. 0 slave, 1 master (R399) Reset value: assumption 10. -/
abbrev GW_CFG_ROLE (n : Nat) : Fld := ⟨(0x5010 + n % 2 * 0x800) * 8 + 31, 1, n⟩
/-- `GW_CFG.LANES` [27:26], RW. Slave lanes: 0b00 1, 0b01 2, 0b10 4, 0b11 8 -/
abbrev GW_CFG_LANES (n : Nat) : Fld := ⟨(0x5010 + n % 2 * 0x800) * 8 + 26, 2, 0⟩
/-- `GW_CFG.DDR` [25:25], RW. Slave DDR -/
abbrev GW_CFG_DDR (n : Nat) : Fld := ⟨(0x5010 + n % 2 * 0x800) * 8 + 25, 1, 0⟩
/-- `GW_CFG.DUMMY` [20:16], RW. Slave dummy cycles, 0–31 -/
abbrev GW_CFG_DUMMY (n : Nat) : Fld := ⟨(0x5010 + n % 2 * 0x800) * 8 + 16, 5, 8⟩
/-- `GW_CFG.UNIT` [5:0], RW. Slave transfer unit, bits, 4–32 (R49) -/
abbrev GW_CFG_UNIT (n : Nat) : Fld := ⟨(0x5010 + n % 2 * 0x800) * 8 + 0, 6, 32⟩
/-! GW_STATUS (17_gangway.md). -/

/-- `GW_STATUS.CODE` [31:24], RO. Completion code of the last slave frame -/
abbrev GW_STATUS_CODE (n : Nat) : Fld := ⟨(0x5014 + n % 2 * 0x800) * 8 + 24, 8, 0⟩
/-- `GW_STATUS.BAD_OP` [8:8], W1C. R403 -/
abbrev GW_STATUS_BAD_OP (n : Nat) : Fld := ⟨(0x5014 + n % 2 * 0x800) * 8 + 8, 1, 0⟩
/-- `GW_STATUS.LONG` [7:7], W1C. R409 -/
abbrev GW_STATUS_LONG (n : Nat) : Fld := ⟨(0x5014 + n % 2 * 0x800) * 8 + 7, 1, 0⟩
/-- `GW_STATUS.ITEM_END` [6:6], W1C. R408 -/
abbrev GW_STATUS_ITEM_END (n : Nat) : Fld := ⟨(0x5014 + n % 2 * 0x800) * 8 + 6, 1, 0⟩
/-- `GW_STATUS.WAITED` [5:5], W1C. R405 -/
abbrev GW_STATUS_WAITED (n : Nat) : Fld := ⟨(0x5014 + n % 2 * 0x800) * 8 + 5, 1, 0⟩
/-- `GW_STATUS.MODE_RESET_SEEN` [4:4], W1C. R404 -/
abbrev GW_STATUS_MODE_RESET_SEEN (n : Nat) : Fld := ⟨(0x5014 + n % 2 * 0x800) * 8 + 4, 1, 0⟩
/-- `GW_STATUS.FRAME_ODD` [3:3], W1C. R406, R409, R411 -/
abbrev GW_STATUS_FRAME_ODD (n : Nat) : Fld := ⟨(0x5014 + n % 2 * 0x800) * 8 + 3, 1, 0⟩
/-- `GW_STATUS.PAGE_END` [2:2], W1C. R36 -/
abbrev GW_STATUS_PAGE_END (n : Nat) : Fld := ⟨(0x5014 + n % 2 * 0x800) * 8 + 2, 1, 0⟩
/-- `GW_STATUS.HOLE` [1:1], W1C. R36, R38, R39, R40, R403 -/
abbrev GW_STATUS_HOLE (n : Nat) : Fld := ⟨(0x5014 + n % 2 * 0x800) * 8 + 1, 1, 0⟩
/-! GW_FRAMES (17_gangway.md). -/

/-- `GW_FRAMES.MASTER` [31:16], RO. Master frames sent -/
abbrev GW_FRAMES_MASTER (n : Nat) : Fld := ⟨(0x5018 + n % 2 * 0x800) * 8 + 16, 16, 0⟩
/-- `GW_FRAMES.SLAVE` [15:0], RO. Slave frames decoded -/
abbrev GW_FRAMES_SLAVE (n : Nat) : Fld := ⟨(0x5018 + n % 2 * 0x800) * 8 + 0, 16, 0⟩
/-! GW_CS_CFG (17_gangway.md). -/

/-- `GW_CS_CFG.UNIT` [31:26], RW. Transfer unit, bits, 4–32 -/
abbrev GW_CS_CFG_UNIT (n k : Nat) : Fld := ⟨(0x5040 + n % 2 * 0x800 + k % 4 * 0x8) * 8 + 26, 6, 8⟩
/-- `GW_CS_CFG.LANES` [25:24], RW. As in GWn_CFG -/
abbrev GW_CS_CFG_LANES (n k : Nat) : Fld := ⟨(0x5040 + n % 2 * 0x800 + k % 4 * 0x8) * 8 + 24, 2, 0⟩
/-- `GW_CS_CFG.DDR` [23:23], RW. DDR -/
abbrev GW_CS_CFG_DDR (n k : Nat) : Fld := ⟨(0x5040 + n % 2 * 0x800 + k % 4 * 0x8) * 8 + 23, 1, 0⟩
/-- `GW_CS_CFG.WAIT_EN` [22:22], RW. Honour the WAIT input (R410) -/
abbrev GW_CS_CFG_WAIT_EN (n k : Nat) : Fld := ⟨(0x5040 + n % 2 * 0x800 + k % 4 * 0x8) * 8 + 22, 1, 0⟩
/-- `GW_CS_CFG.RX_DLY` [19:16], RW. SDR sampling delay, PLL_A periods, 0–15 -/
abbrev GW_CS_CFG_RX_DLY (n k : Nat) : Fld := ⟨(0x5040 + n % 2 * 0x800 + k % 4 * 0x8) * 8 + 16, 4, 4⟩
/-- `GW_CS_CFG.DIV` [6:0], RW. SCK divider, 3–64 -/
abbrev GW_CS_CFG_DIV (n k : Nat) : Fld := ⟨(0x5040 + n % 2 * 0x800 + k % 4 * 0x8) * 8 + 0, 7, 16⟩
/-! GW_CS_DLY (17_gangway.md). -/

/-- `GW_CS_DLY.CSI` [26:18], RW. Minimum high time between frames -/
abbrev GW_CS_DLY_CSI (n k : Nat) : Fld := ⟨(0x5044 + n % 2 * 0x800 + k % 4 * 0x8) * 8 + 18, 9, 16⟩
/-- `GW_CS_DLY.CSH` [17:9], RW. Last edge to chip select rise -/
abbrev GW_CS_DLY_CSH (n k : Nat) : Fld := ⟨(0x5044 + n % 2 * 0x800 + k % 4 * 0x8) * 8 + 9, 9, 4⟩
/-- `GW_CS_DLY.CSS` [8:0], RW. Chip select fall to first edge -/
abbrev GW_CS_DLY_CSS (n k : Nat) : Fld := ⟨(0x5044 + n % 2 * 0x800 + k % 4 * 0x8) * 8 + 0, 9, 4⟩
/-! GW_MCMD (17_gangway.md). -/

/-- `GW_MCMD.CS` [31:30], WO. Chip select -/
abbrev GW_MCMD_CS (n : Nat) : Fld := ⟨(0x5100 + n % 2 * 0x800) * 8 + 30, 2, 0⟩
/-- `GW_MCMD.READ` [29:29], WO. 1 read, 0 write -/
abbrev GW_MCMD_READ (n : Nat) : Fld := ⟨(0x5100 + n % 2 * 0x800) * 8 + 29, 1, 0⟩
/-- `GW_MCMD.ABYTES` [28:26], WO. Address bytes, 0–4 -/
abbrev GW_MCMD_ABYTES (n : Nat) : Fld := ⟨(0x5100 + n % 2 * 0x800) * 8 + 26, 3, 0⟩
/-- `GW_MCMD.NO_OP` [25:25], WO. 1 omits the instruction -/
abbrev GW_MCMD_NO_OP (n : Nat) : Fld := ⟨(0x5100 + n % 2 * 0x800) * 8 + 25, 1, 0⟩
/-- `GW_MCMD.DUMMY` [24:20], WO. Dummy cycles, 0–31 -/
abbrev GW_MCMD_DUMMY (n : Nat) : Fld := ⟨(0x5100 + n % 2 * 0x800) * 8 + 20, 5, 0⟩
/-- `GW_MCMD.OPCODE` [7:0], WO. Instruction -/
abbrev GW_MCMD_OPCODE (n : Nat) : Fld := ⟨(0x5100 + n % 2 * 0x800) * 8 + 0, 8, 0⟩
/-! GW_MLEN (17_gangway.md). -/

/-- `GW_MLEN.DLEN` [13:0], RW. Bits, 0–8 192; 0 means no data phase -/
abbrev GW_MLEN_DLEN (n : Nat) : Fld := ⟨(0x5104 + n % 2 * 0x800) * 8 + 0, 14, 0⟩
/-! GW_MADDR (17_gangway.md). -/

/-- `GW_MADDR.ADDR` [31:0], RW. Sent as its low ABYTES bytes, most significant first -/
abbrev GW_MADDR_ADDR (n : Nat) : Fld := ⟨(0x5108 + n % 2 * 0x800) * 8 + 0, 32, 0⟩
/-! GW_MDATA (17_gangway.md). -/

/-- `GW_MDATA.WORD` [31:0], RW. A write appends a word. A read returns the next word, or 0 -/
abbrev GW_MDATA_WORD (n : Nat) : Fld := ⟨(0x510c + n % 2 * 0x800) * 8 + 0, 32, 0⟩
/-! GW_MSTATUS (17_gangway.md). -/

/-- `GW_MSTATUS.BUSY` [31:31], RO. A command is in progress -/
abbrev GW_MSTATUS_BUSY (n : Nat) : Fld := ⟨(0x5110 + n % 2 * 0x800) * 8 + 31, 1, 0⟩
/-- `GW_MSTATUS.CODE` [23:16], RO. DONE, EMPTY or RANGE -/
abbrev GW_MSTATUS_CODE (n : Nat) : Fld := ⟨(0x5110 + n % 2 * 0x800) * 8 + 16, 8, 0⟩
/-- `GW_MSTATUS.WORDS` [8:0], RO. Words held in MDATA, 0–256 -/
abbrev GW_MSTATUS_WORDS (n : Nat) : Fld := ⟨(0x5110 + n % 2 * 0x800) * 8 + 0, 9, 0⟩
/-! GW1_XIP_CFG (17_gangway.md). -/

/-- `GW1_XIP_CFG.EN` [31:31], RW. Window enabled (R412) -/
abbrev GW1_XIP_CFG_EN : Fld := ⟨(0x5a00) * 8 + 31, 1, 0⟩
/-- `GW1_XIP_CFG.HOLD` [30:30], RW. Misses wait (R415) -/
abbrev GW1_XIP_CFG_HOLD : Fld := ⟨(0x5a00) * 8 + 30, 1, 0⟩
/-- `GW1_XIP_CFG.CONT` [29:29], RW. Command-omitting mode (R414) -/
abbrev GW1_XIP_CFG_CONT : Fld := ⟨(0x5a00) * 8 + 29, 1, 0⟩
/-- `GW1_XIP_CFG.PREFETCH` [28:28], RW. Next-line fetch (R413) -/
abbrev GW1_XIP_CFG_PREFETCH : Fld := ⟨(0x5a00) * 8 + 28, 1, 1⟩
/-- `GW1_XIP_CFG.CS` [27:26], RW. Flash chip select -/
abbrev GW1_XIP_CFG_CS : Fld := ⟨(0x5a00) * 8 + 26, 2, 0⟩
/-- `GW1_XIP_CFG.A4` [25:25], RW. 4-byte addresses -/
abbrev GW1_XIP_CFG_A4 : Fld := ⟨(0x5a00) * 8 + 25, 1, 1⟩
/-- `GW1_XIP_CFG.DUMMY` [20:16], RW. Dummy cycles, 0–31 -/
abbrev GW1_XIP_CFG_DUMMY : Fld := ⟨(0x5a00) * 8 + 16, 5, 8⟩
/-- `GW1_XIP_CFG.OPCODE` [15:8], RW. Read instruction -/
abbrev GW1_XIP_CFG_OPCODE : Fld := ⟨(0x5a00) * 8 + 8, 8, 3⟩
/-- `GW1_XIP_CFG.MODE` [7:0], RW. Mode byte that keeps the flash in continuous read -/
abbrev GW1_XIP_CFG_MODE : Fld := ⟨(0x5a00) * 8 + 0, 8, 160⟩
/-! GW1_XIP_CMD (17_gangway.md). -/

/-- `GW1_XIP_CMD.INVAL` [0:0], W1S. Empties the prefetch buffer; reads 1 until done -/
abbrev GW1_XIP_CMD_INVAL : Fld := ⟨(0x5a04) * 8 + 0, 1, 0⟩
/-! GW1_XIP_STATS (17_gangway.md). -/

/-- `GW1_XIP_STATS.MISSES` [31:16], RC. Reads that fetched a line -/
abbrev GW1_XIP_STATS_MISSES : Fld := ⟨(0x5a08) * 8 + 16, 16, 0⟩
/-- `GW1_XIP_STATS.HITS` [15:0], RC. Reads served from the buffer -/
abbrev GW1_XIP_STATS_HITS : Fld := ⟨(0x5a08) * 8 + 0, 16, 0⟩
/-! CL_STATUS (18_calibration.md). -/

/-- `CL_STATUS.RUNNING` [31:31], RO. A calibration is in progress -/
abbrev CL_STATUS_RUNNING : Fld := ⟨(0x2010) * 8 + 31, 1, 0⟩
/-- `CL_STATUS.STEP` [30:28], RO. 0 none, 1–4 step, 5 retry phase, 6 finishing -/
abbrev CL_STATUS_STEP : Fld := ⟨(0x2010) * 8 + 28, 3, 0⟩
/-- `CL_STATUS.REFRES` [27:26], RO. 0 good, 1 REF_ABSENT, 2 REF_OUT_OF_WINDOW, 3 NOT_CHECKED -/
abbrev CL_STATUS_REFRES : Fld := ⟨(0x2010) * 8 + 26, 2, 3⟩
/-- `CL_STATUS.REFTONE` [25:24], RO. As REFRES (R422) -/
abbrev CL_STATUS_REFTONE : Fld := ⟨(0x2010) * 8 + 24, 2, 3⟩
/-- `CL_STATUS.IREF_TRACED` [23:23], RO. Step 1 traced -/
abbrev CL_STATUS_IREF_TRACED : Fld := ⟨(0x2010) * 8 + 23, 1, 0⟩
/-- `CL_STATUS.TEMP_TRACED` [22:22], RO. Step 4 traced -/
abbrev CL_STATUS_TEMP_TRACED : Fld := ⟨(0x2010) * 8 + 22, 1, 0⟩
/-- `CL_STATUS.ALL_TRACED` [21:21], RO. Every step traced on every channel -/
abbrev CL_STATUS_ALL_TRACED : Fld := ⟨(0x2010) * 8 + 21, 1, 0⟩
/-- `CL_STATUS.SLOTS_USED` [20:16], RO. Consumed slots, 0–24 Reset value: assumption 10. -/
abbrev CL_STATUS_SLOTS_USED : Fld := ⟨(0x2010) * 8 + 16, 5, 0⟩
/-- `CL_STATUS.LAST_VALID` [15:11], RO. Last valid slot 0–23, or 31 for none Reset value: assumption 10. -/
abbrev CL_STATUS_LAST_VALID : Fld := ⟨(0x2010) * 8 + 11, 5, 31⟩
/-- `CL_STATUS.COUNT_DIRTY` [3:3], W1C. R436 -/
abbrev CL_STATUS_COUNT_DIRTY : Fld := ⟨(0x2010) * 8 + 3, 1, 0⟩
/-- `CL_STATUS.REC_BAD_SEEN` [2:2], W1C. R433 -/
abbrev CL_STATUS_REC_BAD_SEEN : Fld := ⟨(0x2010) * 8 + 2, 1, 0⟩
/-- `CL_STATUS.FOREIGN_SEEN` [1:1], W1C. R429 -/
abbrev CL_STATUS_FOREIGN_SEEN : Fld := ⟨(0x2010) * 8 + 1, 1, 0⟩
/-- `CL_STATUS.REF_SEEN` [0:0], W1C. A reference was not good (R428) -/
abbrev CL_STATUS_REF_SEEN : Fld := ⟨(0x2010) * 8 + 0, 1, 0⟩
/-! CL_TRACE (18_calibration.md). -/

/-- `CL_TRACE.CH` [23:0], RO. CL_TRACE: bit n = channel n traced (R430). CL_FOREIGN: bit n = channel n left untraced by a foreign field (R429) -/
abbrev CL_TRACE_CH : Fld := ⟨(0x2014) * 8 + 0, 24, 0⟩
/-! CL_FOREIGN (18_calibration.md). -/

/-- `CL_FOREIGN.CH` [23:0], RO. CL_TRACE: bit n = channel n traced (R430). CL_FOREIGN: bit n = channel n left untraced by a foreign field (R429) -/
abbrev CL_FOREIGN_CH : Fld := ⟨(0x2018) * 8 + 0, 24, 0⟩
/-! CL_CMD (18_calibration.md). -/

/-- `CL_CMD.OP` [3:0], WO. 0x1 COMMIT; other values out of range -/
abbrev CL_CMD_OP : Fld := ⟨(0x201c) * 8 + 0, 4, 0⟩
/-! CL_CMD_STATUS (18_calibration.md). -/

/-- `CL_CMD_STATUS.BUSY` [31:31], RO. A commit is burning -/
abbrev CL_CMD_STATUS_BUSY : Fld := ⟨(0x2020) * 8 + 31, 1, 0⟩
/-- `CL_CMD_STATUS.CODE` [23:16], RO. R432 -/
abbrev CL_CMD_STATUS_CODE : Fld := ⟨(0x2020) * 8 + 16, 8, 0⟩
/-- `CL_CMD_STATUS.SLOT` [4:0], RO. Slot of the last commit -/
abbrev CL_CMD_STATUS_SLOT : Fld := ⟨(0x2020) * 8 + 0, 5, 0⟩
/-! CL_COUNT (18_calibration.md). -/

/-- `CL_COUNT.COUNT` [31:0], RW. Completed calibrations. Written by the boot ROM only (R436) -/
abbrev CL_COUNT_COUNT : Fld := ⟨(0x2024) * 8 + 0, 32, 0⟩
/-! CL_SEQ (18_calibration.md). -/

/-- `CL_SEQ.SEQ` [47:0], RW. BOOT_SEQ [47:0], written by the boot ROM -/
abbrev CL_SEQ_SEQ : Fld := ⟨(0x2028) * 8 + 0, 48, 0⟩
/-! CL_LAST_TIME (18_calibration.md). -/

/-- `CL_LAST_TIME.TIME` [95:0], RO. 96-bit format (R334), or CL_SEQ when SET = 0 (R436) -/
abbrev CL_LAST_TIME_TIME : Fld := ⟨(0x2030) * 8 + 0, 96, 0⟩
/-! CL_REF (18_calibration.md). -/

/-- `CL_REF.RES_DEV` [31:24], RO. REFRES deviation, signed, 0.1 %, saturating -/
abbrev CL_REF_RES_DEV : Fld := ⟨(0x203c) * 8 + 24, 8, 0⟩
/-- `CL_REF.TONE_LVL` [23:16], RO. REFTONE level deviation, signed, 0.1 dB, saturating -/
abbrev CL_REF_TONE_LVL : Fld := ⟨(0x203c) * 8 + 16, 8, 0⟩
/-- `CL_REF.TONE_PPM` [15:0], RO. REFTONE frequency deviation, signed, 0.1 ppm, saturating -/
abbrev CL_REF_TONE_PPM : Fld := ⟨(0x203c) * 8 + 0, 16, 0⟩
/-! CL_GLOBAL (18_calibration.md). -/

/-- `CL_GLOBAL.IREF` [31:24], RO. R431 units Reset value: assumption 10. -/
abbrev CL_GLOBAL_IREF : Fld := ⟨(0x2040) * 8 + 24, 8, 0⟩
/-- `CL_GLOBAL.TEMP_OFS` [23:16], RO. R431 units Reset value: assumption 10. -/
abbrev CL_GLOBAL_TEMP_OFS : Fld := ⟨(0x2040) * 8 + 16, 8, 0⟩
/-- `CL_GLOBAL.TEMP_SLOPE` [15:8], RO. R431 units Reset value: assumption 10. -/
abbrev CL_GLOBAL_TEMP_SLOPE : Fld := ⟨(0x2040) * 8 + 8, 8, 0⟩
/-- `CL_GLOBAL.IREF_SOURCE` [7:6], RO. 0 measured, 1 committed record, 2 factory record Reset value: assumption 10. -/
abbrev CL_GLOBAL_IREF_SOURCE : Fld := ⟨(0x2040) * 8 + 6, 2, 2⟩
/-- `CL_GLOBAL.TEMP_SOURCE` [5:4], RO. As IREF_SOURCE Reset value: assumption 10. -/
abbrev CL_GLOBAL_TEMP_SOURCE : Fld := ⟨(0x2040) * 8 + 4, 2, 2⟩
/-! CL_SLOTUSED (18_calibration.md). -/

/-- `CL_SLOTUSED.SLOTS` [23:0], RO. Bit k: slot k consumed, or valid (R433) Reset value: assumption 10. -/
abbrev CL_SLOTUSED_SLOTS : Fld := ⟨(0x2044) * 8 + 0, 24, 0⟩
/-! CL_SLOTVALID (18_calibration.md). -/

/-- `CL_SLOTVALID.SLOTS` [23:0], RO. Bit k: slot k consumed, or valid (R433) Reset value: assumption 10. -/
abbrev CL_SLOTVALID_SLOTS : Fld := ⟨(0x2048) * 8 + 0, 24, 0⟩
/-! CL_CH (18_calibration.md). -/

/-- `CL_CH.GAIN` [31:26], RO. R431 units, for the selection in use Reset value: assumption 10. -/
abbrev CL_CH_GAIN (n : Nat) : Fld := ⟨(0x2100 + n % 24 * 0x4) * 8 + 26, 6, 0⟩
/-- `CL_CH.OFFSET` [25:21], RO. R431 units Reset value: assumption 10. -/
abbrev CL_CH_OFFSET (n : Nat) : Fld := ⟨(0x2100 + n % 24 * 0x4) * 8 + 21, 5, 0⟩
/-- `CL_CH.AMP` [20:16], RO. R431 units Reset value: assumption 10. -/
abbrev CL_CH_AMP (n : Nat) : Fld := ⟨(0x2100 + n % 24 * 0x4) * 8 + 16, 5, 0⟩
/-- `CL_CH.TX_SPARES` [15:13], RO. Spare transmit cells in use, 0–4 -/
abbrev CL_CH_TX_SPARES (n : Nat) : Fld := ⟨(0x2100 + n % 24 * 0x4) * 8 + 13, 3, 0⟩
/-- `CL_CH.CMP_SPARES` [12:11], RO. Spare comparator slices in use, 0–2 -/
abbrev CL_CH_CMP_SPARES (n : Nat) : Fld := ⟨(0x2100 + n % 24 * 0x4) * 8 + 11, 2, 0⟩
/-- `CL_CH.CAP_SPARES` [10:9], RO. Spare tuning capacitors in use, 0–2 -/
abbrev CL_CH_CAP_SPARES (n : Nat) : Fld := ⟨(0x2100 + n % 24 * 0x4) * 8 + 9, 2, 0⟩
/-- `CL_CH.SOURCE` [8:7], RO. 0 measured, 1 committed record, 2 factory record Reset value: assumption 10. -/
abbrev CL_CH_SOURCE (n : Nat) : Fld := ⟨(0x2100 + n % 24 * 0x4) * 8 + 7, 2, 2⟩
/-- `CL_CH.FOREIGN` [6:6], RO. As CL_FOREIGN bit n -/
abbrev CL_CH_FOREIGN (n : Nat) : Fld := ⟨(0x2100 + n % 24 * 0x4) * 8 + 6, 1, 0⟩
/-- `CL_CH.TRACED` [5:5], RO. As CL_TRACE bit n -/
abbrev CL_CH_TRACED (n : Nat) : Fld := ⟨(0x2100 + n % 24 * 0x4) * 8 + 5, 1, 0⟩
/-! GC_ID0 (19_faults_identity.md). -/

/-- `GC_ID0.LOT0_4` [29:0], RO. LOT0 in [29:24] … LOT4 in [5:0] Reset value: the example die of R451 (assumption 10). -/
abbrev GC_ID0_LOT0_4 : Fld := ⟨(0x10) * 8 + 0, 30, 337485974⟩
/-! GC_ID1 (19_faults_identity.md). -/

/-- `GC_ID1.WAFER` [28:24], RO. 0–24 Reset value: the example die of R451 (assumption 10). -/
abbrev GC_ID1_WAFER : Fld := ⟨(0x14) * 8 + 24, 5, 11⟩
/-- `GC_ID1.DIE_X` [23:16], RO. 1–254 Reset value: the example die of R451 (assumption 10). -/
abbrev GC_ID1_DIE_X : Fld := ⟨(0x14) * 8 + 16, 8, 37⟩
/-- `GC_ID1.DIE_Y` [15:8], RO. 1–254 Reset value: the example die of R451 (assumption 10). -/
abbrev GC_ID1_DIE_Y : Fld := ⟨(0x14) * 8 + 8, 8, 102⟩
/-! GC_ID2 (19_faults_identity.md). -/

/-- `GC_ID2.LOT5` [31:26], RO. R449 Reset value: the example die of R451 (assumption 10). -/
abbrev GC_ID2_LOT5 : Fld := ⟨(0x18) * 8 + 26, 6, 4⟩
/-- `GC_ID2.LOT6` [25:20], RO. R449 Reset value: the example die of R451 (assumption 10). -/
abbrev GC_ID2_LOT6 : Fld := ⟨(0x18) * 8 + 20, 6, 10⟩
/-- `GC_ID2.TEST_DATE` [15:0], RO. Days since 2020-01-01 Reset value: the example die of R451 (assumption 10). -/
abbrev GC_ID2_TEST_DATE : Fld := ⟨(0x18) * 8 + 0, 16, 1534⟩
/-! GC_ID3 (19_faults_identity.md). -/

/-- `GC_ID3.CHECK` [31:16], RO. R451 Reset value: the example die of R451 (assumption 10). -/
abbrev GC_ID3_CHECK : Fld := ⟨(0x1c) * 8 + 16, 16, 22363⟩
/-- `GC_ID3.FORMAT` [15:8], RO. 0x01 Reset value: the example die of R451 (assumption 10). -/
abbrev GC_ID3_FORMAT : Fld := ⟨(0x1c) * 8 + 8, 8, 1⟩
/-- `GC_ID3.TEMP_GRADE` [5:4], RO. 0b00 FV-2496-C, 0b01 FV-2496-I Reset value: the example die of R451 (assumption 10). -/
abbrev GC_ID3_TEMP_GRADE : Fld := ⟨(0x1c) * 8 + 4, 2, 0⟩
/-- `GC_ID3.SPEED` [3:0], RO. 0x1; other values not used Reset value: the example die of R451 (assumption 10). -/
abbrev GC_ID3_SPEED : Fld := ⟨(0x1c) * 8 + 0, 4, 1⟩
/-! GC_UNITID (19_faults_identity.md). -/

/-- `GC_UNITID.ID` [63:0], RO. R450 Reset value: the example die of R451 (assumption 10). -/
abbrev GC_UNITID_ID : Fld := ⟨(0x20) * 8 + 0, 64, 2898982442935985510⟩
/-! FD_CAUSE (19_faults_identity.md). -/

/-- `FD_CAUSE.FATAL` [31:31], RO. The reset ended a fatal-error handler -/
abbrev FD_CAUSE_FATAL : Fld := ⟨(0x3010) * 8 + 31, 1, 0⟩
/-- `FD_CAUSE.WAKE` [30:30], RO. Wake from Dormant; CLASS then reads 0x0 -/
abbrev FD_CAUSE_WAKE : Fld := ⟨(0x3010) * 8 + 30, 1, 0⟩
/-- `FD_CAUSE.BROWN_SRC` [19:16], RO. Bit 0 VCORE, 1 VANA, 2 VDDR, 3 power-fail fence -/
abbrev FD_CAUSE_BROWN_SRC : Fld := ⟨(0x3010) * 8 + 16, 4, 0⟩
/-- `FD_CAUSE.ALL` [13:8], RO. Bit k − 1: cause of class code k coincided -/
abbrev FD_CAUSE_ALL : Fld := ⟨(0x3010) * 8 + 8, 6, 1⟩
/-- `FD_CAUSE.CLASS` [3:0], RO. Governing class code -/
abbrev FD_CAUSE_CLASS : Fld := ⟨(0x3010) * 8 + 0, 4, 1⟩
/-! FD_HIST (19_faults_identity.md). -/

/-- `FD_HIST.WAKE_SEEN` [7:7], W1C. Wake from Dormant -/
abbrev FD_HIST_WAKE_SEEN : Fld := ⟨(0x3014) * 8 + 7, 1, 0⟩
/-- `FD_HIST.FATAL_SEEN` [6:6], W1C. A fatal error -/
abbrev FD_HIST_FATAL_SEEN : Fld := ⟨(0x3014) * 8 + 6, 1, 0⟩
/-- `FD_HIST.CLASS_SEEN` [5:0], W1C. Bit k − 1: reset of class code k -/
abbrev FD_HIST_CLASS_SEEN : Fld := ⟨(0x3014) * 8 + 0, 6, 1⟩
/-! FD_RESETS (19_faults_identity.md). -/

/-- `FD_RESETS.COUNT` [31:0], RO. CORE resets and Dormant wakes since COLD, saturating -/
abbrev FD_RESETS_COUNT : Fld := ⟨(0x3018) * 8 + 0, 32, 0⟩
/-! FD_FATAL (19_faults_identity.md). -/

/-- `FD_FATAL.COUNT` [31:24], RO. Fatal errors since COLD, saturating at 255 -/
abbrev FD_FATAL_COUNT : Fld := ⟨(0x301c) * 8 + 24, 8, 0⟩
/-- `FD_FATAL.BARE` [20:20], RO. In Bare deck at t_f -/
abbrev FD_FATAL_BARE : Fld := ⟨(0x301c) * 8 + 20, 1, 0⟩
/-- `FD_FATAL.DRAM_OK` [19:19], RO. DRAM dump committed -/
abbrev FD_FATAL_DRAM_OK : Fld := ⟨(0x301c) * 8 + 19, 1, 0⟩
/-- `FD_FATAL.SLOT_OK` [18:18], RO. Crash slot committed -/
abbrev FD_FATAL_SLOT_OK : Fld := ⟨(0x301c) * 8 + 18, 1, 0⟩
/-- `FD_FATAL.TIMEOUT` [17:17], RO. R441 -/
abbrev FD_FATAL_TIMEOUT : Fld := ⟨(0x301c) * 8 + 17, 1, 0⟩
/-- `FD_FATAL.NESTED` [16:16], RO. R441 -/
abbrev FD_FATAL_NESTED : Fld := ⟨(0x301c) * 8 + 16, 1, 0⟩
/-- `FD_FATAL.BITS` [11:8], RO. Bit c − 1: source code c detected -/
abbrev FD_FATAL_BITS : Fld := ⟨(0x301c) * 8 + 8, 4, 0⟩
/-- `FD_FATAL.SOURCE` [3:0], RO. R439; 0x0 none -/
abbrev FD_FATAL_SOURCE : Fld := ⟨(0x301c) * 8 + 0, 4, 0⟩
/-! FD_CRASH (19_faults_identity.md). -/

/-- `FD_CRASH.LAST_VALID` [31:31], RO. In FD_CRASH: slot LAST holds a valid record Reset value: assumption 10. -/
abbrev FD_CRASH_LAST_VALID : Fld := ⟨(0x3020) * 8 + 31, 1, 0⟩
/-- `FD_CRASH.LAST` [25:24], RO. In FD_CRASH: slot of the newest valid record Reset value: assumption 10. -/
abbrev FD_CRASH_LAST : Fld := ⟨(0x3020) * 8 + 24, 2, 0⟩
/-- `FD_CRASH.NEXT` [17:16], RO. In FD_CRASH: slot the next fatal error writes (R443) Reset value: assumption 10. -/
abbrev FD_CRASH_NEXT : Fld := ⟨(0x3020) * 8 + 16, 2, 0⟩
/-! FD_CRASH_SEQ (19_faults_identity.md). -/

/-- `FD_CRASH_SEQ.SEQ` [31:0], RO. In FD_CRASH_SEQ: CRASH_SEQ of slot LAST Reset value: assumption 10. -/
abbrev FD_CRASH_SEQ_SEQ : Fld := ⟨(0x3024) * 8 + 0, 32, 0⟩
/-! FD_WDOG_CFG (19_faults_identity.md). -/

/-- `FD_WDOG_CFG.EN` [31:31], W1S. Watchdog running (R445) -/
abbrev FD_WDOG_CFG_EN : Fld := ⟨(0x3030) * 8 + 31, 1, 0⟩
/-- `FD_WDOG_CFG.PRE` [27:16], RW. ms before TIMEOUT, 1–4 095 -/
abbrev FD_WDOG_CFG_PRE : Fld := ⟨(0x3030) * 8 + 16, 12, 100⟩
/-- `FD_WDOG_CFG.TIMEOUT` [15:0], RW. ms, 10–65 535 -/
abbrev FD_WDOG_CFG_TIMEOUT : Fld := ⟨(0x3030) * 8 + 0, 16, 1000⟩
/-! FD_WDOG_KICK (19_faults_identity.md). -/

/-- `FD_WDOG_KICK.KEY` [15:0], WO. 0x4B1C restarts the count -/
abbrev FD_WDOG_KICK_KEY : Fld := ⟨(0x3034) * 8 + 0, 16, 0⟩
/-! FD_WDOG_STATUS (19_faults_identity.md). -/

/-- `FD_WDOG_STATUS.RUNNING` [31:31], RO. EN = 1 -/
abbrev FD_WDOG_STATUS_RUNNING : Fld := ⟨(0x3038) * 8 + 31, 1, 0⟩
/-- `FD_WDOG_STATUS.PAUSED` [30:30], RO. Counting paused (R445) -/
abbrev FD_WDOG_STATUS_PAUSED : Fld := ⟨(0x3038) * 8 + 30, 1, 0⟩
/-- `FD_WDOG_STATUS.ELAPSED` [15:0], RO. ms since the last kick -/
abbrev FD_WDOG_STATUS_ELAPSED : Fld := ⟨(0x3038) * 8 + 0, 16, 0⟩
/-! FD_STATUS (19_faults_identity.md). -/

/-- `FD_STATUS.ID_BAD` [4:4], RO. R451 -/
abbrev FD_STATUS_ID_BAD : Fld := ⟨(0x3040) * 8 + 4, 1, 0⟩
/-- `FD_STATUS.MRAM_UE_SEEN` [2:2], W1C. Non-fatal uncorrectable MRAM error (R439) -/
abbrev FD_STATUS_MRAM_UE_SEEN : Fld := ⟨(0x3040) * 8 + 2, 1, 0⟩
/-- `FD_STATUS.DRAM_UE_SEEN` [1:1], W1C. Uncorrectable DRAM error -/
abbrev FD_STATUS_DRAM_UE_SEEN : Fld := ⟨(0x3040) * 8 + 1, 1, 0⟩
/-- `FD_STATUS.CE_SEEN` [0:0], W1C. A corrected error -/
abbrev FD_STATUS_CE_SEEN : Fld := ⟨(0x3040) * 8 + 0, 1, 0⟩
/-! FD_ECC_ADDR (19_faults_identity.md). -/

/-- `FD_ECC_ADDR.ADDR` [31:0], RO. Address of the first uncorrectable error since both UE flags were last clear -/
abbrev FD_ECC_ADDR_ADDR : Fld := ⟨(0x3044) * 8 + 0, 32, 0⟩
/-! FD_ECC_STATS (19_faults_identity.md). -/

/-- `FD_ECC_STATS.CORR` [31:16], RC. Corrected errors, to 65 535 -/
abbrev FD_ECC_STATS_CORR : Fld := ⟨(0x3048) * 8 + 16, 16, 0⟩
/-- `FD_ECC_STATS.UNCORR` [15:0], RC. Non-fatal uncorrectable errors, to 65 535 -/
abbrev FD_ECC_STATS_UNCORR : Fld := ⟨(0x3048) * 8 + 0, 16, 0⟩
/-! GC_GPIO_DIR (20_signals.md). -/

/-- `GC_GPIO_DIR.DIR` [31:0], RW. Bit m = 1: GPIOm is an output -/
abbrev GC_GPIO_DIR_DIR : Fld := ⟨(0x100) * 8 + 0, 32, 0⟩
/-! GC_GPIO_OUT (20_signals.md). -/

/-- `GC_GPIO_OUT.OUT` [31:0], RW. Output levels -/
abbrev GC_GPIO_OUT_OUT : Fld := ⟨(0x104) * 8 + 0, 32, 0⟩
/-! GC_GPIO_SET (20_signals.md). -/

/-! GC_GPIO_CLR (20_signals.md). -/

/-! GC_GPIO_IN (20_signals.md). -/

/-- `GC_GPIO_IN.IN` [31:0], RO. Synchronised ball levels Reset value: assumption 10. -/
abbrev GC_GPIO_IN_IN : Fld := ⟨(0x110) * 8 + 0, 32, 0⟩
/-! GC_GPIO_PULL0 (20_signals.md). -/

/-- `GC_GPIO_PULL0.PULL` [31:8], RW. In PULL0: GPIOm at [2m + 1:2m], m = 4–15 -/
abbrev GC_GPIO_PULL0_PULL : Fld := ⟨(0x114) * 8 + 8, 24, 5592405⟩
/-! GC_GPIO_PULL1 (20_signals.md). -/

/-- `GC_GPIO_PULL1.PULL` [31:0], RW. In PULL1: GPIOm at [2(m − 16) + 1:2(m − 16)], m = 16–31 -/
abbrev GC_GPIO_PULL1_PULL : Fld := ⟨(0x118) * 8 + 0, 32, 1431655765⟩
/-! GC_GPIO_RISE (20_signals.md). -/

/-- `GC_GPIO_RISE.EN` [31:0], RW. Bit m = 1: the rising (RISE) or falling (FALL) edge of GPIOm sets PEND -/
abbrev GC_GPIO_RISE_EN : Fld := ⟨(0x11c) * 8 + 0, 32, 0⟩
/-! GC_GPIO_FALL (20_signals.md). -/

/-- `GC_GPIO_FALL.EN` [31:0], RW. Bit m = 1: the rising (RISE) or falling (FALL) edge of GPIOm sets PEND -/
abbrev GC_GPIO_FALL_EN : Fld := ⟨(0x120) * 8 + 0, 32, 0⟩
/-! GC_GPIO_PEND (20_signals.md). -/

/-- `GC_GPIO_PEND.PEND` [31:0], W1C. An enabled edge has occurred (R463) -/
abbrev GC_GPIO_PEND_PEND : Fld := ⟨(0x124) * 8 + 0, 32, 0⟩
/-! GC_HOSTIRQ (20_signals.md). -/

/-- `GC_HOSTIRQ.EN` [0:0], RW. GPIO4 is HOST_IRQ_N (R464) -/
abbrev GC_HOSTIRQ_EN : Fld := ⟨(0x128) * 8 + 0, 1, 1⟩
/-! PW_GPIO_WAKE (20_signals.md). -/

/-- `PW_GPIO_WAKE.PULL` [15:8], RW. GPIOm at [2m + 9:2m + 8], m = 0–3, coded as GC_GPIO_PULL0 -/
abbrev PW_GPIO_WAKE_PULL : Fld := ⟨(0x1600) * 8 + 8, 8, 85⟩
/-- `PW_GPIO_WAKE.FALL` [3:0], RW. Bit m = 1: GPIOm wakes on a falling edge; 0: on a rising edge -/
abbrev PW_GPIO_WAKE_FALL : Fld := ⟨(0x1600) * 8 + 0, 4, 0⟩
/-! TS_NB_ENT_A (09_survey_scheduling.md). -/

/-- `TS_NB_ENT_A.W` [31:0], RW.  -/
abbrev TS_NB_ENT_A_W (n : Nat) : Fld := ⟨(0x38040 + n % 16 * 0x8) * 8 + 0, 32, 0⟩
/-! TS_NB_ENT_B (09_survey_scheduling.md). -/

/-- `TS_NB_ENT_B.W` [31:0], RW.  -/
abbrev TS_NB_ENT_B_W (n : Nat) : Fld := ⟨(0x38044 + n % 16 * 0x8) * 8 + 0, 32, 0⟩
/-! TC_PULSE_START_NS (14_tideclock.md). -/

/-- `TC_PULSE_START_NS.NS` [29:0], RW.  -/
abbrev TC_PULSE_START_NS_NS (n : Nat) : Fld := ⟨(0x4100 + n % 4 * 0x20) * 8 + 0, 30, 0⟩
/-! TC_PULSE_START_SEC_LO (14_tideclock.md). -/

/-- `TC_PULSE_START_SEC_LO.SEC` [31:0], RW.  -/
abbrev TC_PULSE_START_SEC_LO_SEC (n : Nat) : Fld := ⟨(0x4104 + n % 4 * 0x20) * 8 + 0, 32, 0⟩
/-! TC_PULSE_START_SEC_HI (14_tideclock.md). -/

/-- `TC_PULSE_START_SEC_HI.SEC` [15:0], RW.  -/
abbrev TC_PULSE_START_SEC_HI_SEC (n : Nat) : Fld := ⟨(0x4108 + n % 4 * 0x20) * 8 + 0, 16, 0⟩
/-! TC_PULSE_PERIOD (14_tideclock.md). -/

/-- `TC_PULSE_PERIOD.NS` [31:0], RW.  -/
abbrev TC_PULSE_PERIOD_NS (n : Nat) : Fld := ⟨(0x410c + n % 4 * 0x20) * 8 + 0, 32, 0⟩
/-! TC_PULSE_WIDTH (14_tideclock.md). -/

/-- `TC_PULSE_WIDTH.NS` [31:0], RW.  -/
abbrev TC_PULSE_WIDTH_NS (n : Nat) : Fld := ⟨(0x4110 + n % 4 * 0x20) * 8 + 0, 32, 0⟩
/-! TC_PULSE_CTL (14_tideclock.md). -/

/-- `TC_PULSE_CTL.ARM` [31:31], W1S.  -/
abbrev TC_PULSE_CTL_ARM (n : Nat) : Fld := ⟨(0x4114 + n % 4 * 0x20) * 8 + 31, 1, 0⟩
/-- `TC_PULSE_CTL.STOP` [30:30], W1S.  -/
abbrev TC_PULSE_CTL_STOP (n : Nat) : Fld := ⟨(0x4114 + n % 4 * 0x20) * 8 + 30, 1, 0⟩
/-- `TC_PULSE_CTL.POL` [0:0], RW.  -/
abbrev TC_PULSE_CTL_POL (n : Nat) : Fld := ⟨(0x4114 + n % 4 * 0x20) * 8 + 0, 1, 0⟩
/-! TC_PULSE_STAT (14_tideclock.md). -/

/-- `TC_PULSE_STAT.CODE` [31:24], RO.  -/
abbrev TC_PULSE_STAT_CODE (n : Nat) : Fld := ⟨(0x4118 + n % 4 * 0x20) * 8 + 24, 8, 0⟩
/-- `TC_PULSE_STAT.ACTIVE` [23:23], RO.  -/
abbrev TC_PULSE_STAT_ACTIVE (n : Nat) : Fld := ⟨(0x4118 + n % 4 * 0x20) * 8 + 23, 1, 0⟩
/-- `TC_PULSE_STAT.MISSED` [7:0], RC.  -/
abbrev TC_PULSE_STAT_MISSED (n : Nat) : Fld := ⟨(0x4118 + n % 4 * 0x20) * 8 + 0, 8, 0⟩
/-! EN_RING_BASE (16_ethernet.md). -/

/-- `EN_RING_BASE.ADDR` [31:0], RW.  -/
abbrev EN_RING_BASE_ADDR (n k : Nat) : Fld := ⟨(0x6080 + n % 2 * 0x800 + k % 6 * 0x10) * 8 + 0, 32, 0⟩
/-! EN_RING_SIZE (16_ethernet.md). -/

/-- `EN_RING_SIZE.N` [15:0], RW.  -/
abbrev EN_RING_SIZE_N (n k : Nat) : Fld := ⟨(0x6084 + n % 2 * 0x800 + k % 6 * 0x10) * 8 + 0, 16, 0⟩
/-! EN_RING_HEAD (16_ethernet.md). -/

/-- `EN_RING_HEAD.IDX` [15:0], RO.  -/
abbrev EN_RING_HEAD_IDX (n k : Nat) : Fld := ⟨(0x6088 + n % 2 * 0x800 + k % 6 * 0x10) * 8 + 0, 16, 0⟩
/-! EN_RING_TAIL (16_ethernet.md). -/

/-- `EN_RING_TAIL.IDX` [15:0], RW.  -/
abbrev EN_RING_TAIL_IDX (n k : Nat) : Fld := ⟨(0x608c + n % 2 * 0x800 + k % 6 * 0x10) * 8 + 0, 16, 0⟩

/-! The block header of R29, the same in every block; `b` is the block's base address. -/

/-- `<P>BLKID.TYPE`: the block's type code. -/
abbrev BLKID_TYPE (b ty : Nat) : Fld := ⟨b * 8 + 24, 8, ty⟩
/-- `<P>BLKID.INST`: the instance. -/
abbrev BLKID_INST (b i : Nat) : Fld := ⟨b * 8 + 16, 8, i⟩
/-- `<P>BLKID.MAJOR`: the major revision. -/
abbrev BLKID_MAJOR (b : Nat) : Fld := ⟨b * 8 + 8, 8, 1⟩
/-- `<P>BLKID.MINOR`: the minor revision. -/
abbrev BLKID_MINOR (b : Nat) : Fld := ⟨b * 8, 8, 0⟩
/-- `<P>ERR.LOCKED`: a write named a field fixed in the present state. -/
abbrev ERR_LOCKED (b : Nat) : Fld := ⟨(b + 4) * 8 + 2, 1, 0⟩
/-- `<P>ERR.WIDTH`: a narrow store. -/
abbrev ERR_WIDTH (b : Nat) : Fld := ⟨(b + 4) * 8 + 1, 1, 0⟩
/-- `<P>ERR.RANGE`: a value outside a stated range. -/
abbrev ERR_RANGE (b : Nat) : Fld := ⟨(b + 4) * 8, 1, 0⟩
/-- `<P>ERRADDR.SRC`: path of the captured access. -/
abbrev ERRADDR_SRC (b : Nat) : Fld := ⟨(b + 8) * 8 + 29, 3, 0⟩
/-- `<P>ERRADDR.WRITE`: the captured access was a write. -/
abbrev ERRADDR_WRITE (b : Nat) : Fld := ⟨(b + 8) * 8 + 28, 1, 0⟩
/-- `<P>ERRADDR.OFFSET`: byte offset of the captured access. -/
abbrev ERRADDR_OFFSET (b : Nat) : Fld := ⟨(b + 8) * 8, 16, 0⟩

/-- The three header registers of a block at base `b`, with `cnt` instances `stride` apart. -/
def headerRegs (b cnt stride ty : Nat) (inst aon : Bool) : List RegSpec :=
  [⟨b, 1, cnt, stride, 1, 4, aon, fun n _ =>
     [⟨24, BLKID_TYPE (b + n * stride) ty, .ro, .any⟩, ⟨16, BLKID_INST (b + n * stride) (if inst then n else 0), .ro, .any⟩,
      ⟨8, BLKID_MAJOR (b + n * stride), .ro, .any⟩, ⟨0, BLKID_MINOR (b + n * stride), .ro, .any⟩]⟩,
   ⟨b + 4, 1, cnt, stride, 1, 4, aon, fun n _ =>
     [⟨2, ERR_LOCKED (b + n * stride), .w1c, .any⟩, ⟨1, ERR_WIDTH (b + n * stride), .w1c, .any⟩,
      ⟨0, ERR_RANGE (b + n * stride), .w1c, .any⟩]⟩,
   ⟨b + 8, 1, cnt, stride, 1, 4, aon, fun n _ =>
     [⟨29, ERRADDR_SRC (b + n * stride), .ro, .any⟩, ⟨28, ERRADDR_WRITE (b + n * stride), .ro, .any⟩,
      ⟨0, ERRADDR_OFFSET (b + n * stride), .ro, .any⟩]⟩]

/-- The registers of block GC (R27, R29 and its chapter's tables). -/
def regsGC : List RegSpec :=
  headerRegs 0x0 1 4 1 false false ++
  [⟨0x40, 1, 1, 4, 1, 4, false, fun _ _ =>
     [⟨6, GC_STATUS_PLLE_UNLOCK, .w1c, .any⟩, ⟨5, GC_STATUS_PLLD_UNLOCK, .w1c, .any⟩, ⟨4, GC_STATUS_PLLA_UNLOCK, .w1c, .any⟩, ⟨2, GC_STATUS_PLLE_LOCK, .ro, .any⟩, ⟨1, GC_STATUS_PLLD_LOCK, .ro, .any⟩, ⟨0, GC_STATUS_PLLA_LOCK, .ro, .any⟩]⟩,
   ⟨0x44, 1, 1, 4, 1, 4, false, fun _ _ =>
     [⟨1, GC_CFG_LINK_RESET_OK, .rw, .any⟩, ⟨0, GC_CFG_PLLE_EN, .rw, .any⟩]⟩,
   ⟨0x48, 1, 1, 4, 1, 4, false, fun _ _ =>
     [⟨8, GC_RESET_KEY, .wo, .any⟩, ⟨1, GC_RESET_KEEP_DECK, .wo, .any⟩, ⟨0, GC_RESET_GO, .wo, .any⟩]⟩,
   ⟨0x50, 1, 1, 4, 1, 4, false, fun _ _ =>
     [⟨4, GC_STRAP_CASCADE_MASTER, .ro, .any⟩, ⟨0, GC_STRAP_BOOT_SRC, .ro, .any⟩]⟩,
   ⟨0x54, 1, 1, 4, 1, 4, false, fun _ _ =>
     [⟨20, GC_BOOT_BARE_CAUSE, .ro, .any⟩, ⟨19, GC_BOOT_BARE, .ro, .any⟩, ⟨18, GC_BOOT_DECK_KEPT, .ro, .any⟩, ⟨16, GC_BOOT_KEYMODE, .ro, .any⟩, ⟨8, GC_BOOT_SOURCE, .ro, .any⟩, ⟨0, GC_BOOT_STAGE, .ro, .any⟩]⟩,
   ⟨0x58, 1, 1, 4, 1, 4, false, fun _ _ =>
     [⟨24, GC_BOOT_ERR_LAST_SECT, .ro, .any⟩, ⟨16, GC_BOOT_ERR_LAST, .ro, .any⟩, ⟨8, GC_BOOT_ERR_FIRST_SECT, .ro, .any⟩, ⟨0, GC_BOOT_ERR_FIRST, .ro, .any⟩]⟩,
   ⟨0x5c, 2, 1, 4, 1, 4, false, fun _ _ =>
     [⟨0, GC_MANIFEST_ID_ID, .ro, .any⟩]⟩,
   ⟨0x64, 1, 1, 4, 1, 4, false, fun _ _ =>
     [⟨16, GC_SECVER_FUSE_MIN, .ro, .any⟩, ⟨0, GC_SECVER_RUNNING, .ro, .any⟩]⟩,
   ⟨0x10, 1, 1, 4, 1, 4, true, fun _ _ =>
     [⟨0, GC_ID0_LOT0_4, .ro, .any⟩]⟩,
   ⟨0x14, 1, 1, 4, 1, 4, true, fun _ _ =>
     [⟨24, GC_ID1_WAFER, .ro, .any⟩, ⟨16, GC_ID1_DIE_X, .ro, .any⟩, ⟨8, GC_ID1_DIE_Y, .ro, .any⟩]⟩,
   ⟨0x18, 1, 1, 4, 1, 4, true, fun _ _ =>
     [⟨26, GC_ID2_LOT5, .ro, .any⟩, ⟨20, GC_ID2_LOT6, .ro, .any⟩, ⟨0, GC_ID2_TEST_DATE, .ro, .any⟩]⟩,
   ⟨0x1c, 1, 1, 4, 1, 4, true, fun _ _ =>
     [⟨16, GC_ID3_CHECK, .ro, .any⟩, ⟨8, GC_ID3_FORMAT, .ro, .any⟩, ⟨4, GC_ID3_TEMP_GRADE, .ro, .any⟩, ⟨0, GC_ID3_SPEED, .ro, .any⟩]⟩,
   ⟨0x20, 2, 1, 4, 1, 4, true, fun _ _ =>
     [⟨0, GC_UNITID_ID, .ro, .any⟩]⟩,
   ⟨0x100, 1, 1, 4, 1, 4, false, fun _ _ =>
     [⟨0, GC_GPIO_DIR_DIR, .rw, .any⟩]⟩,
   ⟨0x104, 1, 1, 4, 1, 4, false, fun _ _ =>
     [⟨0, GC_GPIO_OUT_OUT, .rw, .any⟩]⟩,
   ⟨0x108, 1, 1, 4, 1, 4, false, fun _ _ =>
     [⟨0, GC_GPIO_OUT_OUT, .w1s, .any⟩]⟩,
   ⟨0x10c, 1, 1, 4, 1, 4, false, fun _ _ =>
     [⟨0, GC_GPIO_OUT_OUT, .w1c, .any⟩]⟩,
   ⟨0x110, 1, 1, 4, 1, 4, false, fun _ _ =>
     [⟨0, GC_GPIO_IN_IN, .ro, .any⟩]⟩,
   ⟨0x114, 1, 1, 4, 1, 4, false, fun _ _ =>
     [⟨8, GC_GPIO_PULL0_PULL, .rw, .pulls⟩]⟩,
   ⟨0x118, 1, 1, 4, 1, 4, false, fun _ _ =>
     [⟨0, GC_GPIO_PULL1_PULL, .rw, .pulls⟩]⟩,
   ⟨0x11c, 1, 1, 4, 1, 4, false, fun _ _ =>
     [⟨0, GC_GPIO_RISE_EN, .rw, .any⟩]⟩,
   ⟨0x120, 1, 1, 4, 1, 4, false, fun _ _ =>
     [⟨0, GC_GPIO_FALL_EN, .rw, .any⟩]⟩,
   ⟨0x124, 1, 1, 4, 1, 4, false, fun _ _ =>
     [⟨0, GC_GPIO_PEND_PEND, .w1c, .any⟩]⟩,
   ⟨0x128, 1, 1, 4, 1, 4, false, fun _ _ =>
     [⟨0, GC_HOSTIRQ_EN, .rw, .any⟩]⟩]

/-- The registers of block PW (R27, R29 and its chapter's tables). -/
def regsPW : List RegSpec :=
  headerRegs 0x1000 1 4 2 false true ++
  [⟨0x1010, 1, 1, 4, 1, 4, true, fun _ _ =>
     [⟨16, PW_STATE_CUR, .ro, .any⟩, ⟨8, PW_STATE_REQ, .rw, .oneOf [2, 3, 4]⟩, ⟨0, PW_STATE_BUSY, .ro, .any⟩]⟩,
   ⟨0x1014, 1, 1, 4, 1, 4, true, fun _ _ =>
     [⟨19, PW_CFG_VIN_TRIP, .rw, .any⟩, ⟨18, PW_CFG_VIN_MON, .rw, .any⟩, ⟨17, PW_CFG_PFAIL_PIN, .rw, .any⟩, ⟨16, PW_CFG_DRAM_KEEP, .rw, .any⟩, ⟨15, PW_CFG_TRIM_ALWAYS, .rw, .any⟩]⟩,
   ⟨0x1018, 1, 1, 4, 1, 4, true, fun _ _ =>
     [⟨31, PW_STATUS_PFAIL, .ro, .any⟩, ⟨30, PW_STATUS_PFAIL_SEEN, .w1c, .any⟩, ⟨29, PW_STATUS_PFAIL_GLITCH, .w1c, .any⟩, ⟨28, PW_STATUS_THERM_THROTTLE, .ro, .any⟩, ⟨27, PW_STATUS_THERM_SHUT, .ro, .any⟩, ⟨26, PW_STATUS_THERM_SHUT_SEEN, .w1c, .any⟩, ⟨25, PW_STATUS_DRAM_VALID, .ro, .any⟩, ⟨24, PW_STATUS_XTAL_FAIL, .w1c, .any⟩]⟩,
   ⟨0x101c, 1, 1, 4, 1, 4, true, fun _ _ =>
     [⟨16, PW_RAIL_VRF_OK, .ro, .any⟩, ⟨8, PW_RAIL_PEN, .ro, .any⟩, ⟨5, PW_RAIL_VIO_OK, .ro, .any⟩, ⟨4, PW_RAIL_VDDR_OK, .ro, .any⟩, ⟨3, PW_RAIL_VANA_OK, .ro, .any⟩, ⟨2, PW_RAIL_VCORE_OK, .ro, .any⟩, ⟨1, PW_RAIL_RAIL_FAIL, .w1c, .any⟩, ⟨0, PW_RAIL_VAON_OK, .ro, .any⟩]⟩,
   ⟨0x1020, 1, 1, 4, 1, 4, true, fun _ _ =>
     [⟨0, PW_RF_CAP_CAP, .rw, .span 10 1800⟩]⟩,
   ⟨0x1024, 1, 1, 4, 1, 4, true, fun _ _ =>
     [⟨16, PW_RF_BUDGET_IN_USE, .ro, .any⟩, ⟨0, PW_RF_BUDGET_BUDGET, .ro, .any⟩]⟩,
   ⟨0x1028, 1, 1, 4, 1, 4, true, fun _ _ =>
     [⟨0, PW_THERM_THROTTLE, .rw, .span 90 115⟩]⟩,
   ⟨0x102c, 1, 1, 4, 1, 4, true, fun _ _ =>
     [⟨31, PW_TEMP_STALE, .ro, .any⟩, ⟨30, PW_TEMP_UNTRACED, .ro, .any⟩, ⟨0, PW_TEMP_TEMP, .ro, .any⟩]⟩,
   ⟨0x1030, 1, 1, 4, 1, 4, true, fun _ _ =>
     [⟨12, PW_WAKE_EN_TC_ALARM, .rw, .any⟩, ⟨8, PW_WAKE_EN_GPIO, .rw, .any⟩, ⟨6, PW_WAKE_EN_TAMPER, .ro, .any⟩, ⟨2, PW_WAKE_EN_TCAP, .rw, .any⟩, ⟨1, PW_WAKE_EN_GW0_CS, .rw, .any⟩, ⟨0, PW_WAKE_EN_DETECT, .rw, .any⟩]⟩,
   ⟨0x1034, 1, 1, 4, 1, 4, true, fun _ _ =>
     [⟨12, PW_WAKE_SRC_TC_ALARM, .w1c, .any⟩, ⟨8, PW_WAKE_SRC_GPIO, .w1c, .any⟩, ⟨6, PW_WAKE_SRC_TAMPER, .w1c, .any⟩, ⟨2, PW_WAKE_SRC_TCAP, .w1c, .any⟩, ⟨1, PW_WAKE_SRC_GW0_CS, .w1c, .any⟩, ⟨0, PW_WAKE_SRC_DETECT, .w1c, .any⟩]⟩,
   ⟨0x1038, 1, 1, 4, 1, 4, true, fun _ _ =>
     [⟨0, PW_CHREG_FAULT_CH, .w1c, .any⟩]⟩,
   ⟨0x1100, 1, 1, 4, 1, 4, true, fun _ _ =>
     [⟨22, PW_WK_CFG_CODE, .rw, .span 1 1023⟩, ⟨16, PW_WK_CFG_BASE_SHIFT, .rw, .span 1 8⟩, ⟨8, PW_WK_CFG_CONFIRM, .rw, .span 1 4⟩, ⟨0, PW_WK_CFG_MEAS, .rw, .span 1 16⟩]⟩,
   ⟨0x1104, 1, 1, 4, 1, 4, true, fun _ _ =>
     [⟨16, PW_WK_TIME_PHASE, .rw, .any⟩, ⟨0, PW_WK_TIME_PERIOD, .rw, .span 1 6000⟩]⟩,
   ⟨0x1108, 1, 1, 4, 1, 4, true, fun _ _ =>
     [⟨31, PW_WK_STATUS_RUN, .ro, .any⟩, ⟨30, PW_WK_STATUS_LEARNING, .ro, .any⟩, ⟨29, PW_WK_STATUS_TRIP_SEEN, .w1c, .any⟩, ⟨0, PW_WK_STATUS_ACTIVE, .ro, .any⟩]⟩,
   ⟨0x110c, 1, 1, 4, 1, 4, true, fun _ _ =>
     [⟨24, PW_WK_TRIP_DEV, .ro, .any⟩, ⟨16, PW_WK_TRIP_ENTRY, .ro, .any⟩, ⟨0, PW_WK_TRIP_BERTH, .ro, .any⟩]⟩,
   ⟨0x1200, 1, 256, 0x4, 1, 4, true, fun n _ =>
     [⟨31, PW_WK_ENT_EN n, .rw, .any⟩, ⟨30, PW_WK_ENT_TRIPPED n, .ro, .any⟩, ⟨16, PW_WK_ENT_BERTH n, .rw, .any⟩, ⟨8, PW_WK_ENT_THR n, .rw, .span 1 255⟩, ⟨0, PW_WK_ENT_LAST n, .ro, .any⟩]⟩,
   ⟨0x1600, 1, 1, 4, 1, 4, true, fun _ _ =>
     [⟨8, PW_GPIO_WAKE_PULL, .rw, .pulls⟩, ⟨0, PW_GPIO_WAKE_FALL, .rw, .any⟩]⟩]

/-- The registers of block CL (R27, R29 and its chapter's tables). -/
def regsCL : List RegSpec :=
  headerRegs 0x2000 1 4 3 false false ++
  [⟨0x2010, 1, 1, 4, 1, 4, true, fun _ _ =>
     [⟨31, CL_STATUS_RUNNING, .ro, .any⟩, ⟨28, CL_STATUS_STEP, .ro, .any⟩, ⟨26, CL_STATUS_REFRES, .ro, .any⟩, ⟨24, CL_STATUS_REFTONE, .ro, .any⟩, ⟨23, CL_STATUS_IREF_TRACED, .ro, .any⟩, ⟨22, CL_STATUS_TEMP_TRACED, .ro, .any⟩, ⟨21, CL_STATUS_ALL_TRACED, .ro, .any⟩, ⟨16, CL_STATUS_SLOTS_USED, .ro, .any⟩, ⟨11, CL_STATUS_LAST_VALID, .ro, .any⟩, ⟨3, CL_STATUS_COUNT_DIRTY, .w1c, .any⟩, ⟨2, CL_STATUS_REC_BAD_SEEN, .w1c, .any⟩, ⟨1, CL_STATUS_FOREIGN_SEEN, .w1c, .any⟩, ⟨0, CL_STATUS_REF_SEEN, .w1c, .any⟩]⟩,
   ⟨0x2014, 1, 1, 4, 1, 4, true, fun _ _ =>
     [⟨0, CL_TRACE_CH, .ro, .any⟩]⟩,
   ⟨0x2018, 1, 1, 4, 1, 4, true, fun _ _ =>
     [⟨0, CL_FOREIGN_CH, .ro, .any⟩]⟩,
   ⟨0x201c, 1, 1, 4, 1, 4, false, fun _ _ =>
     [⟨0, CL_CMD_OP, .wo, .span 1 1⟩]⟩,
   ⟨0x2020, 1, 1, 4, 1, 4, false, fun _ _ =>
     [⟨31, CL_CMD_STATUS_BUSY, .ro, .any⟩, ⟨16, CL_CMD_STATUS_CODE, .ro, .any⟩, ⟨0, CL_CMD_STATUS_SLOT, .ro, .any⟩]⟩,
   ⟨0x2024, 1, 1, 4, 1, 4, true, fun _ _ =>
     [⟨0, CL_COUNT_COUNT, .rw, .any⟩]⟩,
   ⟨0x2028, 2, 1, 4, 1, 4, true, fun _ _ =>
     [⟨0, CL_SEQ_SEQ, .rw, .any⟩]⟩,
   ⟨0x2030, 3, 1, 4, 1, 4, true, fun _ _ =>
     [⟨0, CL_LAST_TIME_TIME, .ro, .any⟩]⟩,
   ⟨0x203c, 1, 1, 4, 1, 4, true, fun _ _ =>
     [⟨24, CL_REF_RES_DEV, .ro, .any⟩, ⟨16, CL_REF_TONE_LVL, .ro, .any⟩, ⟨0, CL_REF_TONE_PPM, .ro, .any⟩]⟩,
   ⟨0x2040, 1, 1, 4, 1, 4, true, fun _ _ =>
     [⟨24, CL_GLOBAL_IREF, .ro, .any⟩, ⟨16, CL_GLOBAL_TEMP_OFS, .ro, .any⟩, ⟨8, CL_GLOBAL_TEMP_SLOPE, .ro, .any⟩, ⟨6, CL_GLOBAL_IREF_SOURCE, .ro, .any⟩, ⟨4, CL_GLOBAL_TEMP_SOURCE, .ro, .any⟩]⟩,
   ⟨0x2044, 1, 1, 4, 1, 4, true, fun _ _ =>
     [⟨0, CL_SLOTUSED_SLOTS, .ro, .any⟩]⟩,
   ⟨0x2048, 1, 1, 4, 1, 4, true, fun _ _ =>
     [⟨0, CL_SLOTVALID_SLOTS, .ro, .any⟩]⟩,
   ⟨0x2100, 1, 24, 0x4, 1, 4, true, fun n _ =>
     [⟨26, CL_CH_GAIN n, .ro, .any⟩, ⟨21, CL_CH_OFFSET n, .ro, .any⟩, ⟨16, CL_CH_AMP n, .ro, .any⟩, ⟨13, CL_CH_TX_SPARES n, .ro, .any⟩, ⟨11, CL_CH_CMP_SPARES n, .ro, .any⟩, ⟨9, CL_CH_CAP_SPARES n, .ro, .any⟩, ⟨7, CL_CH_SOURCE n, .ro, .any⟩, ⟨6, CL_CH_FOREIGN n, .ro, .any⟩, ⟨5, CL_CH_TRACED n, .ro, .any⟩]⟩]

/-- The registers of block FD (R27, R29 and its chapter's tables). -/
def regsFD : List RegSpec :=
  headerRegs 0x3000 1 4 4 false false ++
  [⟨0x3010, 1, 1, 4, 1, 4, true, fun _ _ =>
     [⟨31, FD_CAUSE_FATAL, .ro, .any⟩, ⟨30, FD_CAUSE_WAKE, .ro, .any⟩, ⟨16, FD_CAUSE_BROWN_SRC, .ro, .any⟩, ⟨8, FD_CAUSE_ALL, .ro, .any⟩, ⟨0, FD_CAUSE_CLASS, .ro, .any⟩]⟩,
   ⟨0x3014, 1, 1, 4, 1, 4, true, fun _ _ =>
     [⟨7, FD_HIST_WAKE_SEEN, .w1c, .any⟩, ⟨6, FD_HIST_FATAL_SEEN, .w1c, .any⟩, ⟨0, FD_HIST_CLASS_SEEN, .w1c, .any⟩]⟩,
   ⟨0x3018, 1, 1, 4, 1, 4, true, fun _ _ =>
     [⟨0, FD_RESETS_COUNT, .ro, .any⟩]⟩,
   ⟨0x301c, 1, 1, 4, 1, 4, true, fun _ _ =>
     [⟨24, FD_FATAL_COUNT, .ro, .any⟩, ⟨20, FD_FATAL_BARE, .ro, .any⟩, ⟨19, FD_FATAL_DRAM_OK, .ro, .any⟩, ⟨18, FD_FATAL_SLOT_OK, .ro, .any⟩, ⟨17, FD_FATAL_TIMEOUT, .ro, .any⟩, ⟨16, FD_FATAL_NESTED, .ro, .any⟩, ⟨8, FD_FATAL_BITS, .ro, .any⟩, ⟨0, FD_FATAL_SOURCE, .ro, .any⟩]⟩,
   ⟨0x3020, 1, 1, 4, 1, 4, true, fun _ _ =>
     [⟨31, FD_CRASH_LAST_VALID, .ro, .any⟩, ⟨24, FD_CRASH_LAST, .ro, .any⟩, ⟨16, FD_CRASH_NEXT, .ro, .any⟩]⟩,
   ⟨0x3024, 1, 1, 4, 1, 4, true, fun _ _ =>
     [⟨0, FD_CRASH_SEQ_SEQ, .ro, .any⟩]⟩,
   ⟨0x3030, 1, 1, 4, 1, 4, false, fun _ _ =>
     [⟨31, FD_WDOG_CFG_EN, .w1s, .any⟩, ⟨16, FD_WDOG_CFG_PRE, .rw, .span 1 4095⟩, ⟨0, FD_WDOG_CFG_TIMEOUT, .rw, .span 10 65535⟩]⟩,
   ⟨0x3034, 1, 1, 4, 1, 4, false, fun _ _ =>
     [⟨0, FD_WDOG_KICK_KEY, .wo, .any⟩]⟩,
   ⟨0x3038, 1, 1, 4, 1, 4, false, fun _ _ =>
     [⟨31, FD_WDOG_STATUS_RUNNING, .ro, .any⟩, ⟨30, FD_WDOG_STATUS_PAUSED, .ro, .any⟩, ⟨0, FD_WDOG_STATUS_ELAPSED, .ro, .any⟩]⟩,
   ⟨0x3040, 1, 1, 4, 1, 4, false, fun _ _ =>
     [⟨4, FD_STATUS_ID_BAD, .ro, .any⟩, ⟨2, FD_STATUS_MRAM_UE_SEEN, .w1c, .any⟩, ⟨1, FD_STATUS_DRAM_UE_SEEN, .w1c, .any⟩, ⟨0, FD_STATUS_CE_SEEN, .w1c, .any⟩]⟩,
   ⟨0x3044, 1, 1, 4, 1, 4, false, fun _ _ =>
     [⟨0, FD_ECC_ADDR_ADDR, .ro, .any⟩]⟩,
   ⟨0x3048, 1, 1, 4, 1, 4, false, fun _ _ =>
     [⟨16, FD_ECC_STATS_CORR, .rc, .any⟩, ⟨0, FD_ECC_STATS_UNCORR, .rc, .any⟩]⟩]

/-- The registers of block TC (R27, R29 and its chapter's tables). -/
def regsTC : List RegSpec :=
  headerRegs 0x4000 1 4 5 false false ++
  [⟨0x4010, 4, 1, 4, 1, 4, true, fun _ _ =>
     [⟨64, TC_TIME_SEC, .ro, .any⟩, ⟨32, TC_TIME_NS, .ro, .any⟩, ⟨0, TC_TIME_FRAC, .ro, .any⟩]⟩,
   ⟨0x4020, 1, 1, 4, 1, 4, true, fun _ _ =>
     [⟨30, TC_CFG_SRC, .rw, .span 0 2⟩, ⟨29, TC_CFG_ALLOW_BACK, .rw, .any⟩, ⟨24, TC_CFG_KP_SHIFT, .rw, .any⟩, ⟨20, TC_CFG_KI_SHIFT, .rw, .any⟩]⟩,
   ⟨0x4024, 1, 1, 4, 1, 4, true, fun _ _ =>
     [⟨0, TC_JUMP_LIMIT_LIMIT, .rw, .span 1000 1000000000⟩]⟩,
   ⟨0x4028, 1, 1, 4, 1, 4, true, fun _ _ =>
     [⟨0, TC_SLEW_MAX_PPM, .rw, .span 1 1000⟩]⟩,
   ⟨0x402c, 1, 1, 4, 1, 4, true, fun _ _ =>
     [⟨31, TC_STATUS_SET, .ro, .any⟩, ⟨30, TC_STATUS_HOLDOVER, .ro, .any⟩, ⟨29, TC_STATUS_XTAL_MODE, .ro, .any⟩, ⟨28, TC_STATUS_CLAMPED, .ro, .any⟩, ⟨27, TC_STATUS_REFUSED_PENDING, .ro, .any⟩, ⟨4, TC_STATUS_STEP_REFUSED, .w1c, .any⟩, ⟨3, TC_STATUS_STEPPED, .w1c, .any⟩, ⟨2, TC_STATUS_HOLD_SEEN, .w1c, .any⟩, ⟨1, TC_STATUS_MASTER_CHANGED, .w1c, .any⟩, ⟨0, TC_STATUS_CAP_LOST, .w1c, .any⟩]⟩,
   ⟨0x4030, 1, 1, 4, 1, 4, true, fun _ _ =>
     [⟨0, TC_CMD_OP, .wo, .span 1 3⟩]⟩,
   ⟨0x4034, 1, 1, 4, 1, 4, true, fun _ _ =>
     [⟨24, TC_CMD_STATUS_CODE, .ro, .any⟩]⟩,
   ⟨0x4038, 2, 1, 4, 1, 4, true, fun _ _ =>
     [⟨0, TC_STEP_NS, .rw, .any⟩]⟩,
   ⟨0x4040, 2, 1, 4, 1, 4, true, fun _ _ =>
     [⟨0, TC_OFFSET_THETA, .wo, .any⟩]⟩,
   ⟨0x4048, 2, 1, 4, 1, 4, true, fun _ _ =>
     [⟨62, TC_LAST_OFFSET_VERDICT, .ro, .any⟩, ⟨0, TC_LAST_OFFSET_THETA, .ro, .any⟩]⟩,
   ⟨0x4050, 1, 1, 4, 1, 4, true, fun _ _ =>
     [⟨0, TC_RATE_VALUE, .ro, .any⟩]⟩,
   ⟨0x4054, 1, 1, 4, 1, 4, true, fun _ _ =>
     [⟨0, TC_INTEG_VALUE, .ro, .any⟩]⟩,
   ⟨0x4058, 2, 1, 4, 1, 4, true, fun _ _ =>
     [⟨0, TC_INC_INC, .ro, .any⟩]⟩,
   ⟨0x4060, 2, 1, 4, 1, 4, true, fun _ _ =>
     [⟨0, TC_MASTER_ID, .rw, .any⟩]⟩,
   ⟨0x4068, 1, 1, 4, 1, 4, true, fun _ _ =>
     [⟨24, TC_COUNTS_REFUSED, .rc, .any⟩, ⟨16, TC_COUNTS_STEPS, .rc, .any⟩, ⟨8, TC_COUNTS_HOLDS, .rc, .any⟩, ⟨0, TC_COUNTS_MASTERS, .rc, .any⟩]⟩,
   ⟨0x406c, 1, 1, 4, 1, 4, true, fun _ _ =>
     [⟨8, TC_HS_CFG_DLY_SHIFT, .rw, .span 0 8⟩, ⟨4, TC_HS_CFG_HOLD_BEACONS, .rw, .span 1 15⟩, ⟨0, TC_HS_CFG_BEACON_LOG, .rw, .span 4 10⟩]⟩,
   ⟨0x4070, 1, 4, 0x4, 1, 4, true, fun n _ =>
     [⟨0, TC_ASYM_HS_ASYM n, .rw, .any⟩]⟩,
   ⟨0x4080, 1, 2, 0x4, 1, 4, true, fun n _ =>
     [⟨0, TC_ASYM_EN_ASYM n, .rw, .any⟩]⟩,
   ⟨0x4088, 1, 1, 4, 1, 4, true, fun _ _ =>
     [⟨30, TC_PTP_CFG_STATE, .ro, .any⟩, ⟨16, TC_PTP_CFG_DOMAIN, .rw, .any⟩, ⟨8, TC_PTP_CFG_LOG_SYNC, .rw, .oneOf [28, 29, 30, 31, 0, 1]⟩, ⟨5, TC_PTP_CFG_UDP, .rw, .any⟩, ⟨4, TC_PTP_CFG_P2P, .rw, .any⟩, ⟨3, TC_PTP_CFG_ONE_STEP, .rw, .any⟩, ⟨2, TC_PTP_CFG_SLAVE_ONLY, .rw, .any⟩, ⟨1, TC_PTP_CFG_PORT, .rw, .any⟩, ⟨0, TC_PTP_CFG_PTP_EN, .rw, .any⟩]⟩,
   ⟨0x4090, 1, 4, 0x4, 1, 4, true, fun n _ =>
     [⟨0, TC_LINKDLY_M n, .ro, .any⟩]⟩,
   ⟨0x4180, 1, 4, 0x8, 1, 4, true, fun n _ =>
     [⟨31, TC_CAP_CFG_EN n, .rw, .any⟩, ⟨29, TC_CAP_CFG_EDGE n, .rw, .span 1 3⟩, ⟨0, TC_CAP_CFG_DEBOUNCE n, .rw, .any⟩]⟩,
   ⟨0x4184, 1, 4, 0x8, 1, 4, true, fun n _ =>
     [⟨16, TC_CAP_STAT_LOST n, .ro, .any⟩, ⟨0, TC_CAP_STAT_FILL n, .ro, .any⟩]⟩,
   ⟨0x4100, 1, 4, 0x20, 1, 4, true, fun n _ =>
     [⟨0, TC_PULSE_START_NS_NS n, .rw, .span 0 999999999⟩]⟩,
   ⟨0x4104, 1, 4, 0x20, 1, 4, true, fun n _ =>
     [⟨0, TC_PULSE_START_SEC_LO_SEC n, .rw, .any⟩]⟩,
   ⟨0x4108, 1, 4, 0x20, 1, 4, true, fun n _ =>
     [⟨0, TC_PULSE_START_SEC_HI_SEC n, .rw, .any⟩]⟩,
   ⟨0x410c, 1, 4, 0x20, 1, 4, true, fun n _ =>
     [⟨0, TC_PULSE_PERIOD_NS n, .rw, .zeroOr 20 4000000000⟩]⟩,
   ⟨0x4110, 1, 4, 0x20, 1, 4, true, fun n _ =>
     [⟨0, TC_PULSE_WIDTH_NS n, .rw, .zeroOr 5 4000000000⟩]⟩,
   ⟨0x4114, 1, 4, 0x20, 1, 4, true, fun n _ =>
     [⟨31, TC_PULSE_CTL_ARM n, .w1s, .any⟩, ⟨30, TC_PULSE_CTL_STOP n, .w1s, .any⟩, ⟨0, TC_PULSE_CTL_POL n, .rw, .any⟩]⟩,
   ⟨0x4118, 1, 4, 0x20, 1, 4, true, fun n _ =>
     [⟨24, TC_PULSE_STAT_CODE n, .ro, .any⟩, ⟨23, TC_PULSE_STAT_ACTIVE n, .ro, .any⟩, ⟨0, TC_PULSE_STAT_MISSED n, .rc, .any⟩]⟩]

/-- The registers of block GW (R27, R29 and its chapter's tables). -/
def regsGW : List RegSpec :=
  headerRegs 0x5000 2 0x800 6 true false ++
  [⟨0x5010, 1, 2, 0x800, 1, 4, false, fun n _ =>
     [⟨31, GW_CFG_ROLE n, .rw, .any⟩, ⟨26, GW_CFG_LANES n, .rw, .any⟩, ⟨25, GW_CFG_DDR n, .rw, .any⟩, ⟨16, GW_CFG_DUMMY n, .rw, .any⟩, ⟨0, GW_CFG_UNIT n, .rw, .span 4 32⟩]⟩,
   ⟨0x5014, 1, 2, 0x800, 1, 4, false, fun n _ =>
     [⟨24, GW_STATUS_CODE n, .ro, .any⟩, ⟨8, GW_STATUS_BAD_OP n, .w1c, .any⟩, ⟨7, GW_STATUS_LONG n, .w1c, .any⟩, ⟨6, GW_STATUS_ITEM_END n, .w1c, .any⟩, ⟨5, GW_STATUS_WAITED n, .w1c, .any⟩, ⟨4, GW_STATUS_MODE_RESET_SEEN n, .w1c, .any⟩, ⟨3, GW_STATUS_FRAME_ODD n, .w1c, .any⟩, ⟨2, GW_STATUS_PAGE_END n, .w1c, .any⟩, ⟨1, GW_STATUS_HOLE n, .w1c, .any⟩]⟩,
   ⟨0x5018, 1, 2, 0x800, 1, 4, false, fun n _ =>
     [⟨16, GW_FRAMES_MASTER n, .ro, .any⟩, ⟨0, GW_FRAMES_SLAVE n, .ro, .any⟩]⟩,
   ⟨0x5040, 1, 2, 0x800, 4, 0x8, false, fun n k =>
     [⟨26, GW_CS_CFG_UNIT n k, .rw, .span 4 32⟩, ⟨24, GW_CS_CFG_LANES n k, .rw, .any⟩, ⟨23, GW_CS_CFG_DDR n k, .rw, .any⟩, ⟨22, GW_CS_CFG_WAIT_EN n k, .rw, .any⟩, ⟨16, GW_CS_CFG_RX_DLY n k, .rw, .any⟩, ⟨0, GW_CS_CFG_DIV n k, .rw, .span 3 64⟩]⟩,
   ⟨0x5044, 1, 2, 0x800, 4, 0x8, false, fun n k =>
     [⟨18, GW_CS_DLY_CSI n k, .rw, .span 1 256⟩, ⟨9, GW_CS_DLY_CSH n k, .rw, .span 1 256⟩, ⟨0, GW_CS_DLY_CSS n k, .rw, .span 1 256⟩]⟩,
   ⟨0x5100, 1, 2, 0x800, 1, 4, false, fun n _ =>
     [⟨30, GW_MCMD_CS n, .wo, .any⟩, ⟨29, GW_MCMD_READ n, .wo, .any⟩, ⟨26, GW_MCMD_ABYTES n, .wo, .any⟩, ⟨25, GW_MCMD_NO_OP n, .wo, .any⟩, ⟨20, GW_MCMD_DUMMY n, .wo, .any⟩, ⟨0, GW_MCMD_OPCODE n, .wo, .any⟩]⟩,
   ⟨0x5104, 1, 2, 0x800, 1, 4, false, fun n _ =>
     [⟨0, GW_MLEN_DLEN n, .rw, .span 0 8192⟩]⟩,
   ⟨0x5108, 1, 2, 0x800, 1, 4, false, fun n _ =>
     [⟨0, GW_MADDR_ADDR n, .rw, .any⟩]⟩,
   ⟨0x510c, 1, 2, 0x800, 1, 4, false, fun n _ =>
     [⟨0, GW_MDATA_WORD n, .rw, .any⟩]⟩,
   ⟨0x5110, 1, 2, 0x800, 1, 4, false, fun n _ =>
     [⟨31, GW_MSTATUS_BUSY n, .ro, .any⟩, ⟨16, GW_MSTATUS_CODE n, .ro, .any⟩, ⟨0, GW_MSTATUS_WORDS n, .ro, .any⟩]⟩,
   ⟨0x5a00, 1, 1, 4, 1, 4, false, fun _ _ =>
     [⟨31, GW1_XIP_CFG_EN, .rw, .any⟩, ⟨30, GW1_XIP_CFG_HOLD, .rw, .any⟩, ⟨29, GW1_XIP_CFG_CONT, .rw, .any⟩, ⟨28, GW1_XIP_CFG_PREFETCH, .rw, .any⟩, ⟨26, GW1_XIP_CFG_CS, .rw, .any⟩, ⟨25, GW1_XIP_CFG_A4, .rw, .any⟩, ⟨16, GW1_XIP_CFG_DUMMY, .rw, .any⟩, ⟨8, GW1_XIP_CFG_OPCODE, .rw, .any⟩, ⟨0, GW1_XIP_CFG_MODE, .rw, .any⟩]⟩,
   ⟨0x5a04, 1, 1, 4, 1, 4, false, fun _ _ =>
     [⟨0, GW1_XIP_CMD_INVAL, .w1s, .any⟩]⟩,
   ⟨0x5a08, 1, 1, 4, 1, 4, false, fun _ _ =>
     [⟨16, GW1_XIP_STATS_MISSES, .rc, .any⟩, ⟨0, GW1_XIP_STATS_HITS, .rc, .any⟩]⟩]

/-- The registers of block EN (R27, R29 and its chapter's tables). -/
def regsEN : List RegSpec :=
  headerRegs 0x6000 2 0x800 7 true false ++
  [⟨0x6010, 1, 2, 0x800, 1, 4, false, fun n _ =>
     [⟨31, EN_CFG_TX_EN n, .rw, .any⟩, ⟨30, EN_CFG_RX_EN n, .rw, .any⟩, ⟨29, EN_CFG_PROMISC n, .rw, .any⟩, ⟨28, EN_CFG_BCAST n, .rw, .any⟩, ⟨27, EN_CFG_ACCEPT_UNTAG n, .rw, .any⟩, ⟨26, EN_CFG_STRIP n, .rw, .any⟩, ⟨25, EN_CFG_PAUSE_RX n, .rw, .any⟩, ⟨24, EN_CFG_PAUSE_TX n, .rw, .any⟩, ⟨23, EN_CFG_JUMBO n, .rw, .any⟩, ⟨0, EN_CFG_BUF_LEN n, .rw, .span 64 9216⟩]⟩,
   ⟨0x6014, 1, 2, 0x800, 1, 4, false, fun n _ =>
     [⟨31, EN_STATUS_LINK n, .ro, .any⟩, ⟨29, EN_STATUS_SPEED n, .ro, .any⟩, ⟨2, EN_STATUS_LINK_CHG_SEEN n, .w1c, .any⟩, ⟨1, EN_STATUS_HALF_SEEN n, .w1c, .any⟩, ⟨0, EN_STATUS_RX_DROP_SEEN n, .w1c, .any⟩]⟩,
   ⟨0x6018, 2, 2, 0x800, 1, 4, false, fun n _ =>
     [⟨0, EN_MAC_ADDR n, .rw, .any⟩]⟩,
   ⟨0x6020, 2, 2, 0x800, 1, 4, false, fun n _ =>
     [⟨0, EN_HASH_BITS n, .rw, .any⟩]⟩,
   ⟨0x6028, 1, 2, 0x800, 1, 4, false, fun n _ =>
     [⟨16, EN_TS_LAT_EGRESS n, .rw, .any⟩, ⟨0, EN_TS_LAT_INGRESS n, .rw, .any⟩]⟩,
   ⟨0x602c, 1, 2, 0x800, 1, 4, false, fun n _ =>
     [⟨24, EN_STATS_RX_DROP n, .rc, .any⟩, ⟨16, EN_STATS_RX_LONG n, .rc, .any⟩, ⟨8, EN_STATS_RX_FCS n, .rc, .any⟩, ⟨0, EN_STATS_RX_ERR n, .rc, .any⟩]⟩,
   ⟨0x6030, 1, 2, 0x800, 1, 4, false, fun n _ =>
     [⟨16, EN_FRAMES_TX n, .ro, .any⟩, ⟨0, EN_FRAMES_RX n, .ro, .any⟩]⟩,
   ⟨0x6040, 1, 2, 0x800, 16, 0x4, false, fun n k =>
     [⟨31, EN_VLAN_EN n k, .rw, .any⟩, ⟨12, EN_VLAN_RING n k, .rw, .span 1 3⟩, ⟨0, EN_VLAN_VID n k, .rw, .span 1 4094⟩]⟩,
   ⟨0x6200, 1, 1, 4, 1, 4, false, fun _ _ =>
     [⟨0, EN0_MDIO_CFG_DIV, .rw, .span 2 255⟩]⟩,
   ⟨0x6204, 1, 1, 4, 1, 4, false, fun _ _ =>
     [⟨31, EN0_MDIO_CMD_BUSY, .ro, .any⟩, ⟨30, EN0_MDIO_CMD_C45, .rw, .any⟩, ⟨28, EN0_MDIO_CMD_OP, .rw, .any⟩, ⟨23, EN0_MDIO_CMD_PHYAD, .rw, .any⟩, ⟨18, EN0_MDIO_CMD_REGAD, .rw, .any⟩, ⟨16, EN0_MDIO_CMD_CODE, .ro, .any⟩, ⟨0, EN0_MDIO_CMD_DATA, .rw, .any⟩]⟩,
   ⟨0x6080, 1, 2, 0x800, 6, 0x10, false, fun n k =>
     [⟨0, EN_RING_BASE_ADDR n k, .rw, .any⟩]⟩,
   ⟨0x6084, 1, 2, 0x800, 6, 0x10, false, fun n k =>
     [⟨0, EN_RING_SIZE_N n k, .rw, .any⟩]⟩,
   ⟨0x6088, 1, 2, 0x800, 6, 0x10, false, fun n k =>
     [⟨0, EN_RING_HEAD_IDX n k, .ro, .any⟩]⟩,
   ⟨0x608c, 1, 2, 0x800, 6, 0x10, false, fun n k =>
     [⟨0, EN_RING_TAIL_IDX n k, .rw, .any⟩]⟩]

/-- The registers of block HS (R27, R29 and its chapter's tables). -/
def regsHS : List RegSpec :=
  headerRegs 0x8000 1 4 8 false false ++
  [⟨0x8010, 1, 1, 4, 1, 4, false, fun _ _ =>
     [⟨24, HS_CFG_TTL, .rw, .span 1 255⟩, ⟨4, HS_CFG_DISC_TIMEOUT, .rw, .span 10 3000⟩, ⟨2, HS_CFG_REMOTE_WR, .rw, .any⟩, ⟨1, HS_CFG_REMOTE_RD, .rw, .any⟩]⟩,
   ⟨0x8014, 1, 1, 4, 1, 4, false, fun _ _ =>
     [⟨0, HS_FABRIC_ID_ID, .ro, .any⟩]⟩,
   ⟨0x8018, 1, 1, 4, 1, 4, false, fun _ _ =>
     [⟨16, HS_MCFG_MODE, .ro, .any⟩, ⟨8, HS_MCFG_PRIORITY, .ro, .any⟩, ⟨4, HS_MCFG_SERVE_BOOT, .ro, .any⟩, ⟨0, HS_MCFG_PORTS, .ro, .any⟩]⟩,
   ⟨0x801c, 1, 1, 4, 1, 4, false, fun _ _ =>
     [⟨30, HS_STATUS_MODE, .ro, .any⟩, ⟨28, HS_STATUS_ROLE, .ro, .any⟩, ⟨25, HS_STATUS_DISC, .ro, .any⟩, ⟨24, HS_STATUS_ADDR_VALID, .ro, .any⟩, ⟨12, HS_STATUS_ADDR, .ro, .any⟩, ⟨8, HS_STATUS_FAILS, .ro, .any⟩, ⟨7, HS_STATUS_ADDR_FULL, .ro, .any⟩, ⟨5, HS_STATUS_RESET_REFUSED_SEEN, .w1c, .any⟩, ⟨4, HS_STATUS_CONFLICT_SEEN, .w1c, .any⟩, ⟨3, HS_STATUS_FALLBACK_SEEN, .w1c, .any⟩, ⟨2, HS_STATUS_ADDR_CHANGED_SEEN, .w1c, .any⟩, ⟨1, HS_STATUS_ROOT_CHANGED_SEEN, .w1c, .any⟩, ⟨0, HS_STATUS_PATH_CHANGED_SEEN, .w1c, .any⟩]⟩,
   ⟨0x8020, 2, 1, 4, 1, 4, false, fun _ _ =>
     [⟨0, HS_ROOT_ID, .ro, .any⟩]⟩,
   ⟨0x8028, 1, 1, 4, 1, 4, false, fun _ _ =>
     [⟨24, HS_ROOTINFO_PRIORITY, .ro, .any⟩, ⟨12, HS_ROOTINFO_ADDR, .ro, .any⟩]⟩,
   ⟨0x802c, 1, 1, 4, 1, 4, false, fun _ _ =>
     [⟨31, HS_UPSTREAM_VALID, .ro, .any⟩, ⟨28, HS_UPSTREAM_PORT, .ro, .any⟩, ⟨12, HS_UPSTREAM_NEIGH, .ro, .any⟩, ⟨0, HS_UPSTREAM_HOPS, .ro, .any⟩]⟩,
   ⟨0x8030, 1, 1, 4, 1, 4, false, fun _ _ =>
     [⟨28, HS_CMD_OP, .wo, .span 1 3⟩, ⟨0, HS_CMD_TARGET, .wo, .any⟩]⟩,
   ⟨0x8034, 1, 1, 4, 1, 4, false, fun _ _ =>
     [⟨24, HS_CMD_STATUS_CODE, .ro, .any⟩]⟩,
   ⟨0x8038, 1, 1, 4, 1, 4, false, fun _ _ =>
     [⟨0, HS_RT_SEL_ADDR, .rw, .any⟩]⟩,
   ⟨0x803c, 1, 1, 4, 1, 4, false, fun _ _ =>
     [⟨31, HS_RT_DATA_VALID, .ro, .any⟩, ⟨30, HS_RT_DATA_LOCAL, .ro, .any⟩, ⟨28, HS_RT_DATA_PORT, .ro, .any⟩, ⟨16, HS_RT_DATA_HOPS, .ro, .any⟩, ⟨0, HS_RT_DATA_COST, .ro, .any⟩]⟩,
   ⟨0x8040, 1, 1, 4, 1, 4, false, fun _ _ =>
     [⟨0, HS_BIND_SEL_ADDR, .rw, .any⟩]⟩,
   ⟨0x8044, 2, 1, 4, 1, 4, false, fun _ _ =>
     [⟨0, HS_BIND_ID_ID, .ro, .any⟩]⟩,
   ⟨0x804c, 1, 1, 4, 1, 4, false, fun _ _ =>
     [⟨31, HS_BIND_AGE_PRESENT, .ro, .any⟩, ⟨0, HS_BIND_AGE_MIN, .ro, .any⟩]⟩,
   ⟨0x8050, 1, 1, 4, 1, 4, false, fun _ _ =>
     [⟨0, HS_SEND_WORD, .wo, .any⟩]⟩,
   ⟨0x8054, 1, 1, 4, 1, 4, false, fun _ _ =>
     [⟨24, HS_SEND_STATUS_CODE, .ro, .any⟩, ⟨0, HS_SEND_STATUS_PSEQ, .ro, .any⟩]⟩,
   ⟨0x8058, 1, 1, 4, 1, 4, false, fun _ _ =>
     [⟨24, HS_STATS_TTL_DROP, .rc, .any⟩, ⟨16, HS_STATS_NO_ROUTE, .rc, .any⟩, ⟨8, HS_STATS_FWD_DROP, .rc, .any⟩, ⟨0, HS_STATS_LINK_DROP, .rc, .any⟩]⟩,
   ⟨0x8100, 1, 4, 0x40, 1, 4, false, fun n _ =>
     [⟨24, HSP_CFG_COST n, .rw, .span 1 255⟩, ⟨20, HSP_CFG_ITER_MAX n, .rw, .span 1 12⟩, ⟨8, HSP_CFG_ACK_TO n, .rw, .span 4 255⟩, ⟨4, HSP_CFG_RETRY_MAX n, .rw, .span 1 15⟩, ⟨0, HSP_CFG_RETRAIN n, .w1s, .any⟩]⟩,
   ⟨0x8104, 1, 4, 0x40, 1, 4, false, fun n _ =>
     [⟨28, HSP_STATUS_LINK n, .ro, .any⟩, ⟨16, HSP_STATUS_NEIGH n, .ro, .any⟩, ⟨15, HSP_STATUS_NEIGH_VALID n, .ro, .any⟩, ⟨14, HSP_STATUS_UPSTREAM n, .ro, .any⟩, ⟨3, HSP_STATUS_DOWN_SEEN n, .w1c, .any⟩, ⟨2, HSP_STATUS_FOREIGN_SEEN n, .w1c, .any⟩, ⟨1, HSP_STATUS_LOOP_SEEN n, .w1c, .any⟩, ⟨0, HSP_STATUS_NO_SIGNAL_SEEN n, .w1c, .any⟩]⟩,
   ⟨0x8108, 2, 4, 0x40, 1, 4, false, fun n _ =>
     [⟨0, HSP_NEIGH_ID n, .ro, .any⟩]⟩,
   ⟨0x8110, 1, 4, 0x40, 1, 4, false, fun n _ =>
     [⟨24, HSP_DIAG_SNR n, .ro, .any⟩, ⟨16, HSP_DIAG_ITER_AVG n, .ro, .any⟩, ⟨8, HSP_DIAG_LEN_M n, .ro, .any⟩]⟩,
   ⟨0x8114, 1, 4, 0x40, 1, 4, false, fun n _ =>
     [⟨24, HSP_ERR_CW_FAIL n, .rc, .any⟩, ⟨16, HSP_ERR_RESENT n, .rc, .any⟩, ⟨8, HSP_ERR_NAK n, .rc, .any⟩, ⟨0, HSP_ERR_DOWN n, .rc, .any⟩]⟩,
   ⟨0x8118, 2, 4, 0x40, 1, 4, false, fun n _ =>
     [⟨0, HSP_CW_COUNT n, .ro, .any⟩]⟩,
   ⟨0x8120, 2, 4, 0x40, 1, 4, false, fun n _ =>
     [⟨0, HSP_CORR_COUNT n, .ro, .any⟩]⟩]

/-- The registers of block DK (R27, R29 and its chapter's tables). -/
def regsDK : List RegSpec :=
  headerRegs 0x10000 1 4 9 false false ++
  [⟨0x10010, 1, 1, 4, 1, 4, false, fun _ _ =>
     [⟨8, DK_STATUS_TILES_USED, .ro, .any⟩, ⟨0, DK_STATUS_LOADED, .ro, .any⟩]⟩,
   ⟨0x10014, 2, 1, 4, 1, 4, false, fun _ _ =>
     [⟨0, DK_MANIFEST_ID_ID, .ro, .any⟩]⟩,
   ⟨0x10100, 1, 64, 0x4, 1, 4, false, fun n _ =>
     [⟨8, DK_TILE_CHANNEL n, .ro, .any⟩, ⟨0, DK_TILE_FUNC n, .ro, .any⟩]⟩]

/-- The registers of block LQ (R27, R29 and its chapter's tables). -/
def regsLQ : List RegSpec :=
  headerRegs 0x20000 1 4 10 false false ++
  [⟨0x20010, 1, 1, 4, 1, 4, false, fun _ _ =>
     [⟨0, LQ_CFG_MARK_YIELD, .rw, .any⟩]⟩,
   ⟨0x20014, 1, 1, 4, 1, 4, false, fun _ _ =>
     [⟨0, LQ_STALL_STALL, .rw, .any⟩]⟩,
   ⟨0x20018, 1, 1, 4, 1, 4, false, fun _ _ =>
     [⟨0, LQ_IRQ_PEND, .ro, .any⟩]⟩,
   ⟨0x2001c, 1, 1, 4, 1, 4, false, fun _ _ =>
     [⟨0, LQ_POOL_USED, .ro, .any⟩]⟩,
   ⟨0x21000, 1, 32, 0x40, 1, 4, false, fun n _ =>
     [⟨0, LQN_POP_WORD n, .ro, .any⟩]⟩,
   ⟨0x21004, 1, 32, 0x40, 1, 4, false, fun n _ =>
     [⟨0, LQN_PUSH_WORD n, .wo, .any⟩]⟩,
   ⟨0x21008, 1, 32, 0x40, 1, 4, false, fun n _ =>
     [⟨0, LQN_CMD_OP n, .wo, .span 1 5⟩]⟩,
   ⟨0x2100c, 1, 32, 0x40, 1, 4, false, fun n _ =>
     [⟨24, LQN_STATUS_CODE n, .ro, .any⟩, ⟨11, LQN_STATUS_NONEMPTY n, .ro, .any⟩, ⟨10, LQN_STATUS_THRESH_HIT n, .ro, .any⟩, ⟨9, LQN_STATUS_MARK_VALID n, .ro, .any⟩, ⟨8, LQN_STATUS_MARK_LOST n, .ro, .any⟩, ⟨7, LQN_STATUS_MID_ITEM n, .ro, .any⟩, ⟨5, LQN_STATUS_MARK_LOST_SEEN n, .w1c, .any⟩, ⟨4, LQN_STATUS_GAP_SEEN n, .w1c, .any⟩, ⟨3, LQN_STATUS_OVERSIZE_SEEN n, .w1c, .any⟩, ⟨2, LQN_STATUS_FLUSH_SEEN n, .w1c, .any⟩, ⟨1, LQN_STATUS_REFUSED_SEEN n, .w1c, .any⟩, ⟨0, LQN_STATUS_STALL_SEEN n, .w1c, .any⟩]⟩,
   ⟨0x21010, 1, 32, 0x40, 1, 4, false, fun n _ =>
     [⟨31, LQN_CFG_CONSUMER n, .rw, .any⟩, ⟨27, LQN_CFG_IE_MARK_LOST n, .rw, .any⟩, ⟨26, LQN_CFG_IE_GAP n, .rw, .any⟩, ⟨25, LQN_CFG_IE_THRESH n, .rw, .any⟩, ⟨24, LQN_CFG_IE_NONEMPTY n, .rw, .any⟩, ⟨0, LQN_CFG_THRESH n, .rw, .span 0 524288⟩]⟩,
   ⟨0x21014, 1, 32, 0x40, 1, 4, false, fun n _ =>
     [⟨19, LQN_POOL_BASE n, .ro, .any⟩, ⟨0, LQN_POOL_SIZE n, .ro, .any⟩]⟩,
   ⟨0x21018, 1, 32, 0x40, 1, 4, false, fun n _ =>
     [⟨0, LQN_LEVEL_ITEMS n, .ro, .any⟩]⟩,
   ⟨0x2101c, 1, 32, 0x40, 1, 4, false, fun n _ =>
     [⟨0, LQN_WORDS_USED n, .ro, .any⟩]⟩,
   ⟨0x21020, 1, 32, 0x40, 1, 4, false, fun n _ =>
     [⟨16, LQN_SEQ_NEXT_IN n, .ro, .any⟩, ⟨0, LQN_SEQ_NEXT_OUT n, .ro, .any⟩]⟩,
   ⟨0x21024, 2, 32, 0x40, 1, 4, false, fun n _ =>
     [⟨0, LQN_DROPPED_COUNT n, .ro, .any⟩]⟩]

/-- The registers of block CY (R27, R29 and its chapter's tables). -/
def regsCY : List RegSpec :=
  headerRegs 0x30000 1 4 11 false false ++
  [⟨0x30010, 1, 1, 4, 1, 4, false, fun _ _ =>
     [⟨24, CY_KCMD_OP, .wo, .any⟩, ⟨18, CY_KCMD_SLOT, .wo, .any⟩, ⟨12, CY_KCMD_KEK, .wo, .any⟩, ⟨10, CY_KCMD_LEN, .wo, .any⟩, ⟨0, CY_KCMD_ATTR, .wo, .any⟩]⟩,
   ⟨0x30014, 1, 1, 4, 1, 4, false, fun _ _ =>
     [⟨31, CY_KSTATUS_BUSY, .ro, .any⟩, ⟨30, CY_KSTATUS_DIRTY, .w1c, .any⟩, ⟨8, CY_KSTATUS_CODE, .ro, .any⟩, ⟨0, CY_KSTATUS_OUT_WORDS, .ro, .any⟩]⟩,
   ⟨0x30018, 1, 1, 4, 1, 4, false, fun _ _ =>
     [⟨0, CY_KDATA_WORD, .rw, .any⟩]⟩,
   ⟨0x3001c, 2, 1, 4, 1, 4, false, fun _ _ =>
     [⟨0, CY_SLOTMAP_USED, .ro, .any⟩]⟩,
   ⟨0x30024, 2, 1, 4, 1, 4, false, fun _ _ =>
     [⟨0, CY_EPOCH_EPOCH, .ro, .any⟩]⟩,
   ⟨0x3002c, 1, 1, 4, 1, 4, false, fun _ _ =>
     [⟨3, CY_TAMPER_EVENT1, .w1c, .any⟩, ⟨2, CY_TAMPER_EVENT0, .w1c, .any⟩, ⟨1, CY_TAMPER_LOOP1_OK, .ro, .any⟩, ⟨0, CY_TAMPER_LOOP0_OK, .ro, .any⟩]⟩,
   ⟨0x30030, 1, 1, 4, 1, 4, false, fun _ _ =>
     [⟨31, CY_TRNG_HALT, .ro, .any⟩, ⟨30, CY_TRNG_READY, .ro, .any⟩, ⟨29, CY_TRNG_STARTUP, .ro, .any⟩, ⟨0, CY_TRNG_FAILS, .ro, .any⟩]⟩,
   ⟨0x30034, 1, 1, 4, 1, 4, false, fun _ _ =>
     [⟨24, CY_TRNG_STATS_RCT, .rc, .any⟩, ⟨16, CY_TRNG_STATS_APT, .rc, .any⟩, ⟨8, CY_TRNG_STATS_RESTARTS, .rc, .any⟩, ⟨0, CY_TRNG_STATS_RESEEDS, .rc, .any⟩]⟩,
   ⟨0x30038, 1, 1, 4, 1, 4, false, fun _ _ =>
     [⟨0, CY_CACHE_IN_USE, .ro, .any⟩]⟩,
   ⟨0x3003c, 1, 1, 4, 1, 4, false, fun _ _ =>
     [⟨24, CY_SM_STATS_AUTH_FAIL, .rc, .any⟩, ⟨16, CY_SM_STATS_MAC_FAIL, .rc, .any⟩, ⟨8, CY_SM_STATS_SEQ_EXHAUSTED, .rc, .any⟩, ⟨0, CY_SM_STATS_TAG_STATUS, .rc, .any⟩]⟩,
   ⟨0x30040, 1, 1, 4, 1, 4, false, fun _ _ =>
     [⟨17, CY_FUSE_MKEY_DAMAGED, .ro, .any⟩, ⟨16, CY_FUSE_MKEY_VALID, .ro, .any⟩, ⟨0, CY_FUSE_HASH, .ro, .any⟩]⟩]

/-- The registers of block SV (R27, R29 and its chapter's tables). -/
def regsSV : List RegSpec :=
  headerRegs 0x34000 1 4 12 false false ++
  [⟨0x34010, 1, 1, 4, 1, 4, false, fun _ _ =>
     [⟨0, SV_MBOX_IN_WORD, .wo, .any⟩]⟩,
   ⟨0x34014, 1, 1, 4, 1, 4, false, fun _ _ =>
     [⟨0, SV_MBOX_OUT_WORD, .ro, .any⟩]⟩,
   ⟨0x34018, 1, 1, 4, 1, 4, false, fun _ _ =>
     [⟨31, SV_MBOX_STATUS_BUSY, .ro, .any⟩, ⟨30, SV_MBOX_STATUS_OUT_READY, .ro, .any⟩, ⟨29, SV_MBOX_STATUS_OVERFLOW, .w1c, .any⟩, ⟨0, SV_MBOX_STATUS_OUT_WORDS, .ro, .any⟩]⟩,
   ⟨0x3401c, 1, 1, 4, 1, 4, false, fun _ _ =>
     [⟨28, SV_RUNTIME_STATE, .ro, .any⟩, ⟨0, SV_RUNTIME_VERSION, .ro, .any⟩]⟩,
   ⟨0x34020, 1, 1, 4, 1, 4, false, fun _ _ =>
     [⟨31, SV_RECOV_DONE, .ro, .any⟩, ⟨30, SV_RECOV_ECC_STOP, .ro, .any⟩, ⟨29, SV_RECOV_DISCARDED, .ro, .any⟩, ⟨20, SV_RECOV_INDET, .ro, .any⟩, ⟨0, SV_RECOV_REPLAYED, .ro, .any⟩]⟩,
   ⟨0x34024, 2, 1, 4, 1, 4, false, fun _ _ =>
     [⟨0, SV_APPLIED_SEQ, .ro, .any⟩]⟩]

/-- The registers of block TS (R27, R29 and its chapter's tables). -/
def regsTS : List RegSpec :=
  headerRegs 0x38000 1 4 13 false false ++
  [⟨0x38010, 1, 1, 4, 1, 4, false, fun _ _ =>
     [⟨24, TS_CFG_THRESH, .rw, .span 20 120⟩, ⟨16, TS_CFG_AGE, .rw, .any⟩, ⟨8, TS_CFG_LISTEN_MAX, .rw, .span 0 23⟩, ⟨2, TS_CFG_HOLD_STOP, .rw, .any⟩, ⟨1, TS_CFG_XEN, .rw, .any⟩]⟩,
   ⟨0x38014, 1, 1, 4, 1, 4, false, fun _ _ =>
     [⟨0, TS_CYCLE_SLOTS, .rw, .span 1 256⟩]⟩,
   ⟨0x38018, 1, 1, 4, 1, 4, false, fun _ _ =>
     [⟨24, TS_STATUS_SLOT, .ro, .any⟩, ⟨23, TS_STATUS_NB_VALID, .ro, .any⟩, ⟨22, TS_STATUS_NB_DIRTY, .w1c, .any⟩, ⟨19, TS_STATUS_SURVEY, .ro, .any⟩, ⟨4, TS_STATUS_NOWIN_SEEN, .w1c, .any⟩, ⟨3, TS_STATUS_HOLD_BLOCK, .w1c, .any⟩, ⟨2, TS_STATUS_EXCL_SEEN, .w1c, .any⟩, ⟨1, TS_STATUS_URGENT, .ro, .any⟩]⟩,
   ⟨0x3801c, 1, 1, 4, 1, 4, false, fun _ _ =>
     [⟨31, TS_SURVEY_GO, .w1s, .any⟩, ⟨30, TS_SURVEY_ABORT, .w1s, .any⟩, ⟨29, TS_SURVEY_CROSS, .rw, .any⟩, ⟨16, TS_SURVEY_PEER, .rw, .any⟩, ⟨10, TS_SURVEY_AVG, .rw, .span 1 15⟩, ⟨0, TS_SURVEY_CODE, .rw, .span 1 1023⟩]⟩,
   ⟨0x38020, 1, 1, 4, 1, 4, false, fun _ _ =>
     [⟨24, TS_SURVEY_STATUS_CODE, .ro, .any⟩, ⟨23, TS_SURVEY_STATUS_FOREIGN, .ro, .any⟩, ⟨22, TS_SURVEY_STATUS_MISSING, .ro, .any⟩, ⟨11, TS_SURVEY_STATUS_BERTH, .ro, .any⟩]⟩,
   ⟨0x38024, 1, 1, 4, 1, 4, false, fun _ _ =>
     [⟨24, TS_ATTR_SPLIT, .rw, .span 1 255⟩, ⟨16, TS_ATTR_LEARN_CONF, .rw, .span 1 255⟩, ⟨8, TS_ATTR_PHW, .rw, .span 1 60⟩, ⟨0, TS_ATTR_SIGMA, .rw, .span 1 80⟩]⟩,
   ⟨0x38028, 1, 1, 4, 1, 4, false, fun _ _ =>
     [⟨0, TS_GREQ_WORD, .wo, .any⟩]⟩,
   ⟨0x3802c, 1, 1, 4, 1, 4, false, fun _ _ =>
     [⟨31, TS_GREQ_STATUS_OVERFLOW, .w1c, .any⟩, ⟨0, TS_GREQ_STATUS_PENDING, .ro, .any⟩]⟩,
   ⟨0x38030, 1, 1, 4, 1, 4, false, fun _ _ =>
     [⟨31, TS_NB_SEL_COMMIT, .w1s, .any⟩, ⟨30, TS_NB_SEL_CLEAR, .w1s, .any⟩, ⟨0, TS_NB_SEL_BERTH, .rw, .any⟩]⟩,
   ⟨0x38034, 1, 1, 4, 1, 4, false, fun _ _ =>
     [⟨27, TS_NB_HDR_COUNT, .rw, .span 0 16⟩, ⟨26, TS_NB_HDR_SURVEYED, .rw, .any⟩, ⟨16, TS_NB_HDR_REF_CODE, .rw, .any⟩, ⟨8, TS_NB_HDR_REF_AMP, .rw, .any⟩, ⟨0, TS_NB_HDR_REF_N, .rw, .any⟩]⟩,
   ⟨0x38100, 1, 48, 0x4, 1, 4, false, fun n _ =>
     [⟨0, TS_EXCL_BERTHS n, .w1c, .any⟩]⟩,
   ⟨0x38400, 1, 256, 0x4, 1, 4, false, fun n _ =>
     [⟨31, TS_SLOT_XOWN n, .rw, .any⟩, ⟨30, TS_SLOT_QUIET n, .rw, .any⟩, ⟨0, TS_SLOT_TXEN n, .rw, .any⟩]⟩,
   ⟨0x38040, 1, 16, 0x8, 1, 4, false, fun n _ =>
     [⟨0, TS_NB_ENT_A_W n, .rw, .any⟩]⟩,
   ⟨0x38044, 1, 16, 0x8, 1, 4, false, fun n _ =>
     [⟨0, TS_NB_ENT_B_W n, .rw, .any⟩]⟩]

/-- The registers of block CH (R27, R29 and its chapter's tables). -/
def regsCH : List RegSpec :=
  headerRegs 0x40000 24 0x2000 14 true false ++
  [⟨0x40010, 1, 24, 0x2000, 1, 4, false, fun n _ =>
     [⟨24, CH_TX_AMP_MAXP n, .ro, .any⟩, ⟨16, CH_TX_AMP_PWR n, .ro, .any⟩, ⟨0, CH_TX_AMP_CODE n, .rw, .any⟩]⟩,
   ⟨0x40014, 1, 24, 0x2000, 1, 4, false, fun n _ =>
     [⟨16, CH_TX_RAMP_TAIL n, .rw, .span 1 50⟩, ⟨8, CH_TX_RAMP_RAMP_OFF n, .rw, .any⟩, ⟨0, CH_TX_RAMP_RAMP_ON n, .rw, .any⟩]⟩,
   ⟨0x40018, 1, 24, 0x2000, 1, 4, false, fun n _ =>
     [⟨24, CH_TX_PAUSE_PAUSE_A848 n, .rw, .span 1 255⟩, ⟨16, CH_TX_PAUSE_PAUSE_A424 n, .rw, .span 1 255⟩, ⟨8, CH_TX_PAUSE_PAUSE_A212 n, .rw, .span 1 255⟩, ⟨0, CH_TX_PAUSE_PAUSE_A106 n, .rw, .span 1 255⟩]⟩,
   ⟨0x4001c, 1, 24, 0x2000, 1, 4, false, fun n _ =>
     [⟨16, CH_TX_ASK100_PAUSE_V n, .rw, .span 1 255⟩, ⟨8, CH_TX_ASK100_KICK n, .rw, .span 0 32⟩, ⟨0, CH_TX_ASK100_RISE n, .rw, .any⟩]⟩,
   ⟨0x40020, 1, 24, 0x2000, 1, 4, false, fun n _ =>
     [⟨24, CH_TX_ASK10_EDGE n, .rw, .span 0 31⟩, ⟨16, CH_TX_ASK10_INDEX_F n, .rw, .span 6 30⟩, ⟨8, CH_TX_ASK10_INDEX_V n, .rw, .span 6 30⟩, ⟨0, CH_TX_ASK10_INDEX_B n, .rw, .span 6 30⟩]⟩,
   ⟨0x40024, 1, 24, 0x2000, 1, 4, false, fun n _ =>
     [⟨0, CH_TX_PSK_ANGLE n, .rw, .span 1 60⟩]⟩,
   ⟨0x40028, 1, 24, 0x2000, 1, 4, false, fun n _ =>
     [⟨16, CH_TX_GUARD_RESET_OFF n, .rw, .span 100 20000⟩, ⟨0, CH_TX_GUARD_GUARD n, .rw, .span 0 20000⟩]⟩,
   ⟨0x4002c, 1, 24, 0x2000, 1, 4, false, fun n _ =>
     [⟨16, CH_SEL_CFG_SELDIV n, .mirror, .any⟩, ⟨9, CH_SEL_CFG_PARK n, .rw, .any⟩, ⟨0, CH_SEL_CFG_LEAD n, .mirror, .span 32 500⟩]⟩,
   ⟨0x40030, 1, 24, 0x2000, 1, 4, false, fun n _ =>
     [⟨16, CH_SEL_STATUS_FRAMES n, .ro, .any⟩, ⟨7, CH_SEL_STATUS_ON n, .ro, .any⟩, ⟨6, CH_SEL_STATUS_PENDING n, .ro, .any⟩, ⟨0, CH_SEL_STATUS_COIL n, .ro, .any⟩]⟩,
   ⟨0x40034, 1, 24, 0x2000, 1, 4, false, fun n _ =>
     [⟨31, CH_TX_STATUS_FIELD_ON n, .ro, .any⟩, ⟨30, CH_TX_STATUS_RAMPING n, .ro, .any⟩, ⟨29, CH_TX_STATUS_HEADROOM n, .ro, .any⟩, ⟨28, CH_TX_STATUS_AMP_PENDING n, .ro, .any⟩, ⟨16, CH_TX_STATUS_ACTIVE_CODE n, .ro, .any⟩, ⟨10, CH_TX_STATUS_LOAD_COIL n, .ro, .any⟩, ⟨4, CH_TX_STATUS_CUT_CAUSE n, .ro, .any⟩, ⟨3, CH_TX_STATUS_CUT_SEEN n, .w1c, .any⟩, ⟨2, CH_TX_STATUS_HEADROOM_SEEN n, .w1c, .any⟩, ⟨1, CH_TX_STATUS_LOAD_FAULT n, .w1c, .any⟩]⟩,
   ⟨0x40038, 1, 24, 0x2000, 1, 4, false, fun n _ =>
     [⟨31, CH_TX_LOAD_STALE n, .ro, .any⟩, ⟨30, CH_TX_LOAD_UNTRACED n, .ro, .any⟩, ⟨24, CH_TX_LOAD_COIL n, .ro, .any⟩, ⟨16, CH_TX_LOAD_PHASE n, .ro, .any⟩, ⟨0, CH_TX_LOAD_MAG n, .ro, .any⟩]⟩,
   ⟨0x4003c, 1, 24, 0x2000, 1, 4, false, fun n _ =>
     [⟨24, CH_TX_LIMIT_PHASE_MAX n, .rw, .span 5 90⟩, ⟨12, CH_TX_LIMIT_MAG_MAX n, .rw, .span 30 4000⟩, ⟨0, CH_TX_LIMIT_MAG_MIN n, .rw, .span 20 3990⟩]⟩,
   ⟨0x40100, 1, 24, 0x2000, 1, 4, false, fun n _ =>
     [⟨16, CH_RX_CFG_COLL_DB n, .rw, .span 3 24⟩, ⟨10, CH_RX_CFG_CORR_THRESH n, .rw, .span 3 20⟩, ⟨0, CH_RX_CFG_BLANK n, .rw, .any⟩]⟩,
   ⟨0x40104, 1, 24, 0x2000, 1, 4, false, fun n _ =>
     [⟨16, CH_EQ_CFG_CONV n, .rw, .span 6 30⟩, ⟨12, CH_EQ_CFG_MU_TRACK n, .rw, .zeroOr 4 14⟩, ⟨8, CH_EQ_CFG_MU_TRAIN n, .rw, .span 4 14⟩, ⟨3, CH_EQ_CFG_SEED_CLR n, .w1s, .any⟩, ⟨2, CH_EQ_CFG_SEED n, .rw, .any⟩, ⟨0, CH_EQ_CFG_EQ_MODE n, .rw, .span 0 2⟩]⟩,
   ⟨0x40108, 1, 24, 0x2000, 1, 4, false, fun n _ =>
     [⟨29, CH_RX_STATUS_STATE n, .ro, .any⟩, ⟨5, CH_RX_STATUS_FOREIGN n, .ro, .any⟩, ⟨4, CH_RX_STATUS_OVERLOAD_SEEN n, .w1c, .any⟩, ⟨3, CH_RX_STATUS_EQ_DIVERGED_SEEN n, .w1c, .any⟩, ⟨2, CH_RX_STATUS_CAPTURE_SEEN n, .w1c, .any⟩, ⟨1, CH_RX_STATUS_INTERF_SEEN n, .w1c, .any⟩]⟩,
   ⟨0x4010c, 1, 24, 0x2000, 1, 4, false, fun n _ =>
     [⟨31, CH_RX_LEVEL_STALE n, .ro, .any⟩, ⟨30, CH_RX_LEVEL_UNTRACED n, .ro, .any⟩, ⟨24, CH_RX_LEVEL_COIL n, .ro, .any⟩, ⟨16, CH_RX_LEVEL_PHASE n, .ro, .any⟩, ⟨8, CH_RX_LEVEL_SB_AMP n, .ro, .any⟩, ⟨0, CH_RX_LEVEL_LEVEL n, .ro, .any⟩]⟩,
   ⟨0x40110, 1, 24, 0x2000, 1, 4, false, fun n _ =>
     [⟨31, CH_RX_CARRIER_STALE n, .ro, .any⟩, ⟨30, CH_RX_CARRIER_UNTRACED n, .ro, .any⟩, ⟨29, CH_RX_CARRIER_OWN n, .ro, .any⟩, ⟨8, CH_RX_CARRIER_COIL n, .ro, .any⟩, ⟨0, CH_RX_CARRIER_LEVEL n, .ro, .any⟩]⟩,
   ⟨0x40114, 1, 24, 0x2000, 3, 0x4, false, fun n k =>
     [⟨0, CH_RX_COLLMAP_FLAGS n k, .ro, .any⟩]⟩,
   ⟨0x40120, 2, 24, 0x2000, 1, 4, false, fun n _ =>
     [⟨0, CH_RX_FRAMES_COUNT n, .ro, .any⟩]⟩,
   ⟨0x40128, 1, 24, 0x2000, 1, 4, false, fun n _ =>
     [⟨24, CH_STATS_FALSE_SOF n, .rc, .any⟩, ⟨16, CH_STATS_FRAGMENT n, .rc, .any⟩, ⟨8, CH_STATS_CRC_ERR n, .rc, .any⟩, ⟨0, CH_STATS_OVERLOAD n, .rc, .any⟩]⟩,
   ⟨0x4012c, 1, 24, 0x2000, 1, 4, false, fun n _ =>
     [⟨31, CH_EQ_STATUS_HOLD n, .rw, .any⟩, ⟨30, CH_EQ_STATUS_VALID n, .ro, .any⟩, ⟨29, CH_EQ_STATUS_DIVERGED n, .ro, .any⟩, ⟨23, CH_EQ_STATUS_COIL n, .ro, .any⟩, ⟨8, CH_EQ_STATUS_MSE n, .ro, .any⟩, ⟨0, CH_EQ_STATUS_SEQ n, .ro, .any⟩]⟩,
   ⟨0x40140, 1, 24, 0x2000, 16, 0x4, false, fun n k =>
     [⟨16, CH_EQ_FFE_I n k, .ro, .any⟩, ⟨0, CH_EQ_FFE_Q n k, .ro, .any⟩]⟩,
   ⟨0x40180, 1, 24, 0x2000, 8, 0x4, false, fun n k =>
     [⟨16, CH_EQ_DFE_I n k, .ro, .any⟩, ⟨0, CH_EQ_DFE_Q n k, .ro, .any⟩]⟩,
   ⟨0x40200, 1, 24, 0x2000, 1, 4, false, fun n _ =>
     [⟨24, CH_FT_DLY_A_DLY_OCT n, .rw, .any⟩, ⟨0, CH_FT_DLY_A_DLY_CC n, .rw, .span 1172 1048575⟩]⟩,
   ⟨0x40204, 1, 24, 0x2000, 1, 4, false, fun n _ =>
     [⟨24, CH_FT_DLY_B_DLY_OCT n, .rw, .any⟩, ⟨0, CH_FT_DLY_B_DLY_CC n, .rw, .span 1280 1048575⟩]⟩,
   ⟨0x40208, 1, 24, 0x2000, 1, 4, false, fun n _ =>
     [⟨24, CH_FT_DLY_V_DLY_OCT n, .rw, .any⟩, ⟨0, CH_FT_DLY_V_DLY_CC n, .rw, .span 4192 1048575⟩]⟩,
   ⟨0x4020c, 1, 24, 0x2000, 1, 4, false, fun n _ =>
     [⟨24, CH_FT_DLY_F_DLY_OCT n, .rw, .any⟩, ⟨0, CH_FT_DLY_F_DLY_CC n, .rw, .span 1024 1048575⟩]⟩,
   ⟨0x40210, 1, 24, 0x2000, 1, 4, false, fun n _ =>
     [⟨12, CH_FT_WIN_LATE_TOL n, .rw, .span 16 2048⟩, ⟨0, CH_FT_WIN_DEV_TOL n, .rw, .span 1 4095⟩]⟩,
   ⟨0x40214, 1, 24, 0x2000, 1, 4, false, fun n _ =>
     [⟨24, CH_FT_FWT_WTX_MAX n, .rw, .any⟩, ⟨16, CH_FT_FWT_RETRY n, .rw, .span 0 5⟩, ⟨0, CH_FT_FWT_FWI_DEF n, .rw, .span 0 14⟩]⟩,
   ⟨0x40218, 1, 24, 0x2000, 1, 4, false, fun n _ =>
     [⟨28, CH_FT_STATUS_SEQ n, .ro, .any⟩, ⟨3, CH_FT_STATUS_LATE_SEEN n, .w1c, .any⟩, ⟨2, CH_FT_STATUS_DEV_SEEN n, .w1c, .any⟩, ⟨1, CH_FT_STATUS_WTX_SEEN n, .w1c, .any⟩, ⟨0, CH_FT_STATUS_FMT_SEEN n, .w1c, .any⟩]⟩,
   ⟨0x4021c, 1, 24, 0x2000, 1, 4, false, fun n _ =>
     [⟨24, CH_FT_STATS_WTX n, .rc, .any⟩, ⟨16, CH_FT_STATS_TIMEOUT n, .rc, .any⟩, ⟨8, CH_FT_STATS_DEV n, .rc, .any⟩, ⟨0, CH_FT_STATS_LATE n, .rc, .any⟩]⟩,
   ⟨0x40220, 1, 24, 0x2000, 1, 4, false, fun n _ =>
     [⟨30, CH_FT_LAST_REF n, .ro, .any⟩, ⟨0, CH_FT_LAST_DELAY n, .ro, .any⟩]⟩,
   ⟨0x40224, 1, 24, 0x2000, 1, 4, false, fun n _ =>
     [⟨0, CH_FT_LASTX_WORD n, .ro, .any⟩]⟩,
   ⟨0x40300, 1, 24, 0x2000, 1, 4, false, fun n _ =>
     [⟨31, CH_INV_CFG_BRANCH1 n, .rw, .any⟩, ⟨30, CH_INV_CFG_V_QUIET n, .rw, .any⟩, ⟨16, CH_INV_CFG_B_SLOTS n, .rw, .oneOf [1, 2, 4, 8, 16]⟩, ⟨8, CH_INV_CFG_F_SLOTS n, .rw, .oneOf [1, 2, 4, 8, 16]⟩, ⟨0, CH_INV_CFG_ROUNDS n, .rw, .span 1 15⟩]⟩,
   ⟨0x40304, 1, 24, 0x2000, 1, 4, false, fun n _ =>
     [⟨29, CH_INV_STATUS_WALK n, .ro, .any⟩, ⟨22, CH_INV_STATUS_DEPTH n, .ro, .any⟩, ⟨20, CH_INV_STATUS_LEVEL n, .ro, .any⟩, ⟨12, CH_INV_STATUS_FOUND n, .ro, .any⟩, ⟨8, CH_INV_STATUS_CTX_FREE n, .ro, .any⟩, ⟨3, CH_INV_STATUS_STACK_FULL_SEEN n, .w1c, .any⟩, ⟨2, CH_INV_STATUS_TWIN_SEEN n, .w1c, .any⟩, ⟨1, CH_INV_STATUS_STALE_SEEN n, .w1c, .any⟩, ⟨0, CH_INV_STATUS_NO_CTX_SEEN n, .w1c, .any⟩]⟩,
   ⟨0x40308, 1, 24, 0x2000, 1, 4, false, fun n _ =>
     [⟨24, CH_INV_STATS_ROUNDS n, .rc, .any⟩, ⟨16, CH_INV_STATS_TAGS n, .rc, .any⟩, ⟨8, CH_INV_STATS_STALE n, .rc, .any⟩, ⟨0, CH_INV_STATS_MIGRATED n, .rc, .any⟩]⟩,
   ⟨0x40340, 1, 24, 0x2000, 8, 0x4, false, fun n k =>
     [⟨29, CH_CTX_STATE n k, .ro, .any⟩, ⟨26, CH_CTX_PROTO n k, .ro, .any⟩, ⟨22, CH_CTX_CID n k, .ro, .any⟩, ⟨14, CH_CTX_GEN n k, .ro, .any⟩, ⟨8, CH_CTX_COIL n k, .ro, .any⟩, ⟨7, CH_CTX_BLOCK n k, .ro, .any⟩, ⟨6, CH_CTX_TWIN n k, .ro, .any⟩, ⟨5, CH_CTX_SECURE n k, .ro, .any⟩, ⟨4, CH_CTX_DEP n k, .ro, .any⟩, ⟨0, CH_CTX_FWI n k, .ro, .any⟩]⟩,
   ⟨0x40360, 1, 24, 0x2000, 8, 0x10, false, fun n k =>
     [⟨0, CH_CTX_ID0_ID n k, .ro, .any⟩]⟩,
   ⟨0x40364, 1, 24, 0x2000, 8, 0x10, false, fun n k =>
     [⟨0, CH_CTX_ID1_ID n k, .ro, .any⟩]⟩,
   ⟨0x40368, 1, 24, 0x2000, 8, 0x10, false, fun n k =>
     [⟨0, CH_CTX_ID2_ID n k, .ro, .any⟩]⟩,
   ⟨0x403e0, 1, 24, 0x2000, 1, 4, false, fun n _ =>
     [⟨0, CH_PCMD_WORD n, .wo, .any⟩]⟩,
   ⟨0x403e4, 1, 24, 0x2000, 1, 4, false, fun n _ =>
     [⟨31, CH_PCMD_STATUS_OVERFLOW n, .w1c, .any⟩, ⟨30, CH_PCMD_STATUS_RUNNING n, .ro, .any⟩, ⟨16, CH_PCMD_STATUS_CMDS n, .ro, .any⟩, ⟨0, CH_PCMD_STATUS_WORDS_FREE n, .ro, .any⟩]⟩]

/-- The registers of block CE (R27, R29 and its chapter's tables). -/
def regsCE : List RegSpec :=
  headerRegs 0x70000 1 4 15 false false ++
  [⟨0x70010, 1, 1, 4, 1, 4, false, fun _ _ =>
     [⟨0, CE_CFG_HOST_WAIT, .rw, .any⟩]⟩,
   ⟨0x70014, 1, 1, 4, 1, 4, false, fun _ _ =>
     [⟨24, CE_ACC_CODE, .ro, .any⟩, ⟨20, CE_ACC_INST, .ro, .any⟩, ⟨12, CE_ACC_BLOCK, .ro, .any⟩, ⟨0, CE_ACC_BUSY_SEEN, .w1c, .any⟩]⟩,
   ⟨0x70018, 1, 1, 4, 1, 4, false, fun _ _ =>
     [⟨3, CE_WIN_HALF, .rw, .any⟩, ⟨0, CE_WIN_INST, .rw, .any⟩]⟩,
   ⟨0x70100, 1, 8, 0x80, 1, 4, false, fun n _ =>
     [⟨31, CE_INST_CFG_EN n, .rw, .any⟩, ⟨30, CE_INST_CFG_FWD n, .rw, .any⟩, ⟨20, CE_INST_CFG_ALM_CODE n, .rw, .span 1 1023⟩, ⟨14, CE_INST_CFG_COIL n, .rw, .any⟩, ⟨8, CE_INST_CFG_ALM_PHASE n, .rw, .span 0 59⟩, ⟨0, CE_INST_CFG_FIELD_THR n, .rw, .span 2 80⟩]⟩,
   ⟨0x70104, 1, 8, 0x80, 1, 4, false, fun n _ =>
     [⟨8, CE_INST_WTX_WTXM n, .rw, .span 1 59⟩, ⟨0, CE_INST_WTX_WTX_MAX n, .rw, .any⟩]⟩,
   ⟨0x70108, 1, 8, 0x80, 1, 4, false, fun n _ =>
     [⟨29, CE_INST_STATUS_STATE n, .ro, .any⟩, ⟨28, CE_INST_STATUS_FIELD n, .ro, .any⟩, ⟨27, CE_INST_STATUS_CARRIER n, .ro, .any⟩, ⟨26, CE_INST_STATUS_GRANT n, .ro, .any⟩, ⟨25, CE_INST_STATUS_SECURE n, .ro, .any⟩, ⟨16, CE_INST_STATUS_RATE n, .ro, .any⟩, ⟨8, CE_INST_STATUS_RSP_CODE n, .ro, .any⟩, ⟨3, CE_INST_STATUS_DEAF_SEEN n, .w1c, .any⟩, ⟨2, CE_INST_STATUS_EXPIRED_SEEN n, .w1c, .any⟩, ⟨1, CE_INST_STATUS_FIELD_LOSS_SEEN n, .w1c, .any⟩, ⟨0, CE_INST_STATUS_DISCARD_SEEN n, .w1c, .any⟩]⟩,
   ⟨0x7010c, 1, 8, 0x80, 1, 4, false, fun n _ =>
     [⟨0, CE_INST_RSP_WORD n, .wo, .any⟩]⟩,
   ⟨0x70110, 1, 8, 0x80, 4, 0x4, false, fun n k =>
     [⟨24, CE_INST_LOCK_START n k, .rw, .span 1 255⟩, ⟨15, CE_INST_LOCK_LEN n k, .rw, .span 0 255⟩, ⟨14, CE_INST_LOCK_MODE n k, .rw, .any⟩]⟩,
   ⟨0x70120, 1, 8, 0x80, 8, 0x4, false, fun n k =>
     [⟨0, CE_INST_DIRTY_BLOCKS n k, .w1c, .any⟩]⟩,
   ⟨0x70140, 1, 8, 0x80, 1, 4, false, fun n _ =>
     [⟨0, CE_INST_CSEQ_CSEQ n, .ro, .any⟩]⟩]

/-- The registers of the block that holds byte address `a` of the register space (R27); none for an unassigned address. -/
def blockRegs (a : Nat) : List RegSpec :=
  if 0x0 ≤ a && a < 0x1000 then regsGC
  else if 0x1000 ≤ a && a < 0x2000 then regsPW
  else if 0x2000 ≤ a && a < 0x3000 then regsCL
  else if 0x3000 ≤ a && a < 0x4000 then regsFD
  else if 0x4000 ≤ a && a < 0x5000 then regsTC
  else if 0x5000 ≤ a && a < 0x6000 then regsGW
  else if 0x6000 ≤ a && a < 0x7000 then regsEN
  else if 0x8000 ≤ a && a < 0xa000 then regsHS
  else if 0x10000 ≤ a && a < 0x20000 then regsDK
  else if 0x20000 ≤ a && a < 0x30000 then regsLQ
  else if 0x30000 ≤ a && a < 0x34000 then regsCY
  else if 0x34000 ≤ a && a < 0x38000 then regsSV
  else if 0x38000 ≤ a && a < 0x40000 then regsTS
  else if 0x40000 ≤ a && a < 0x70000 then regsCH
  else if 0x70000 ≤ a && a < 0x80000 then regsCE
  else []

/-- Base address of the block that holds `a` (R27); 0 where no block holds it. -/
def blockBase (a : Nat) : Nat :=
  if 0x0 ≤ a && a < 0x1000 then 0x0
  else if 0x1000 ≤ a && a < 0x2000 then 0x1000
  else if 0x2000 ≤ a && a < 0x3000 then 0x2000
  else if 0x3000 ≤ a && a < 0x4000 then 0x3000
  else if 0x4000 ≤ a && a < 0x5000 then 0x4000
  else if 0x5000 ≤ a && a < 0x6000 then a - (a - 0x5000) % 0x800
  else if 0x6000 ≤ a && a < 0x7000 then a - (a - 0x6000) % 0x800
  else if 0x8000 ≤ a && a < 0xa000 then 0x8000
  else if 0x10000 ≤ a && a < 0x20000 then 0x10000
  else if 0x20000 ≤ a && a < 0x30000 then 0x20000
  else if 0x30000 ≤ a && a < 0x34000 then 0x30000
  else if 0x34000 ≤ a && a < 0x38000 then 0x34000
  else if 0x38000 ≤ a && a < 0x40000 then 0x38000
  else if 0x40000 ≤ a && a < 0x70000 then a - (a - 0x40000) % 0x2000
  else if 0x70000 ≤ a && a < 0x80000 then 0x70000
  else 0

/-- Is `a` inside a block of the register space (R27)? -/
def inRegisterSpace (a : Nat) : Bool :=
  (0x0 ≤ a && a < 0x1000) || (0x1000 ≤ a && a < 0x2000) || (0x2000 ≤ a && a < 0x3000) || (0x3000 ≤ a && a < 0x4000) || (0x4000 ≤ a && a < 0x5000) || (0x5000 ≤ a && a < 0x6000) || (0x6000 ≤ a && a < 0x7000) || (0x8000 ≤ a && a < 0xa000) || (0x10000 ≤ a && a < 0x20000) || (0x20000 ≤ a && a < 0x30000) || (0x30000 ≤ a && a < 0x34000) || (0x34000 ≤ a && a < 0x38000) || (0x38000 ≤ a && a < 0x40000) || (0x40000 ≤ a && a < 0x70000) || (0x70000 ≤ a && a < 0x80000)

/-- The register that holds byte address `a`, with its element numbers and the word of it that `a` names. -/
def findReg (a : Nat) : Option RegHit := lookupReg (blockRegs a) a

/-- Is the field at bit address `bit` an AON field (R5)? -/
def isAonBit (bit : Nat) : Bool :=
  match findReg (bit / 32 * 4) with
  | some h => h.spec.aon
  | none => false

end Sys2Proof.Machine
end

