-- ==== Sys2Proof/Machine/State.lean ====
section
/-!
DEFINITION. The machine's state: every register (in the register file), buffer, queue, counter, mode and pin that the
spec gives the part, the parts of its engines' progress that no register shows, and the queue of waiting commands.
-/

namespace Sys2Proof.Machine

/-! Register access (02_register_access.md). -/

/-- The shadow of a latched value (R34): the path, the address of its least significant word, its other words, and those of
them (1 upward) that have not been read since. -/
structure Latch where
  path : Path
  addr : Nat
  words : List Word
  unread : List Nat
deriving DecidableEq, Repr

/-- An access to the DRAM window that waits for PLL_D (R59): its path, address, the bytes to write, or the number of bytes to read and the
words that read 0 behind them. -/
structure DramWait where
  path : Path
  addr : Nat
  data : List Byte
  count : Nat
  pad : Nat
deriving DecidableEq, Repr

/-! Power, clocks, states and resets (03_power_clocks_resets.md). -/

/-- Where the power-up order of R52 stands. `failed`: the enables drop after a failure, or the 100 ms before the
restart run (R53). -/
inductive PowerUp
  | off | crystal | rail (r : Rail) | plls | up | failed
deriving DecidableEq, Repr

/-- What follows once the enables of a drop sequence have dropped (R53, R61, R64). -/
inductive AfterDrop
  | nothing | retry | dormant | off
deriving DecidableEq, Repr

/-- Reset classes (R66). -/
inductive ResetClass
  | cold | brown | pin | wdog | soft | link
  /-- The power-on reset of a restarted power-up (R53), which is no class. -/
  | restart
deriving DecidableEq, Repr

/-- An entry sequence under way: the state that it leads to, and whether its first step has run (R62, R64). -/
inductive Entry2
  | none | trim | watch | dormant
deriving DecidableEq, Repr

/-- What Capstan holds beside its registers. -/
structure PowerSt where
  /-- Power-up progress (R52). -/
  step : PowerUp
  /-- Enables that still drop, the next one first, 100 µs apart (R53). -/
  drops : List Nat
  /-- What follows the last drop. -/
  after : AfterDrop
  /-- Enables that still assert, 100 µs apart (R63). -/
  asserts : List Nat
  /-- PEN4 and PEN5 as step 9 of R52 asks of the present Manifest. -/
  pen4Role : Bool
  pen5Role : Bool
  /-- The reset in force, until its release (R66). -/
  hold : Option ResetClass
  /-- The entry sequence under way (R61). -/
  entry : Entry2
  /-- Wake events that wait for the end of an entry sequence, as PW_WAKE_SRC bits (R65). -/
  deferred : Nat
  /-- A wake from Watch waits for its PLLs (R63). -/
  waking : Bool
  /-- A wake from Dormant leads through power-up (R64). -/
  dormantWake : Bool
  /-- When the reset in force began, in ns (R66). -/
  holdAt : Nat
  /-- RESET_N is low (R66). -/
  resetPin : Bool
  /-- A SOFT reset is scheduled: KEEP_DECK, and the ns of the write (R66). -/
  softDue : Option (Bool × Nat)
  /-- A LINK reset is scheduled once the acceptance reply has left, and the reply's number (R380). -/
  linkDue : Bool
  replyId : Nat
  /-- Level of VRF_G0 to VRF_G5 in mV (R54). -/
  vrf : List Nat
  /-- Groups that have not come into regulation since their enable asserted (R53). -/
  vrfWait : List Nat
  /-- The latest temperature sample in 0.25 °C, two's complement of 11 bits (R57). -/
  temp : Nat
  /-- The VIN monitor is armed (R70). -/
  vinArmed : Bool
  /-- PFAIL_N is low; the VIN monitor is below its threshold (R70). -/
  pfailPin : Bool
  pfailVin : Bool
  /-- When the power-fail source asserted, in ns (R73). -/
  pfailAt : Nat
  /-- The MRAM write fence is set (R73). -/
  fence : Bool
  /-- DRAM has been initialised and holds its contents (R62, R67). -/
  dram : Bool
  /-- Trim is due when recovery ends (R67). -/
  trimDue : Bool
deriving DecidableEq, Repr

/-- Capstan as VAON first enters regulation (R52). -/
def PowerSt.reset : PowerSt :=
  { step := .crystal, drops := [], after := .nothing, asserts := [], pen4Role := false, pen5Role := false,
    hold := some .cold, entry := .none, deferred := 0, waking := false, dormantWake := false, holdAt := 0, resetPin := false,
    softDue := none, linkDue := false, replyId := 0, vrf := [0, 0, 0, 0, 0, 0], vrfWait := [], temp := 0, vinArmed := false, pfailPin := false,
    pfailVin := false, pfailAt := 0, fence := false, dram := false, trimDue := true }

/-! Boot and the Manifest (04_boot_manifest.md). -/

/-- One channel's entry of the CHANNELS section (R86). -/
structure ChanDecl where
  role : Nat
  coils : Nat
  protocols : Nat
  maxPower : Nat
deriving DecidableEq, Repr

/-- One placement of the DECK section (R85). -/
structure Placement where
  func : Nat
  channel : Nat
  first : Nat
deriving DecidableEq, Repr

/-- One program record (R89). -/
structure Program where
  kind : Nat
  cores : Nat
  load : Nat
  entry : Nat
  image : List Byte
deriving DecidableEq, Repr

/-- A verified Manifest (R80 to R89). -/
structure Manifest where
  id : Nat
  secVersion : Nat
  advance : Bool
  deck : List Placement
  channels : List ChanDecl
  queues : List (Nat × Nat)
  fabricMode : Nat
  ports : Nat
  rootPriority : Nat
  serveBoot : Bool
  fabricId : Nat
  programs : List Program
  service : List Byte
  totalLen : Nat
deriving DecidableEq, Repr

/-- A valid entry of the flash directory (R90). -/
structure DirEntry where
  slotOffset : Nat
  slotSize : Nat
  sequence : Nat
  profile : Nat
  attempts : Nat
  confirm : Nat
deriving DecidableEq, Repr

/-- An image tried since the last CORE reset, as BOOT_REPORT lists it (R97). -/
structure Tried where
  source : Nat
  slot : Nat
  id : Nat
  err : Nat
  sect : Nat
deriving DecidableEq, Repr

/-- A read of the flash on GW1 by the boot ROM (R90): opcode, offset, bytes, SCK divider, lane code (0 one lane, 3 eight), DDR, dummy
cycles. -/
structure FlashRead where
  op : Nat
  offset : Nat
  len : Nat
  div : Nat
  lanes : Nat
  ddr : Bool
  dummy : Nat
deriving DecidableEq, Repr

/-- Where the boot ROM stands (R76). -/
inductive BootPhase
  | held | fetch | apply | recover | trim | runtime | bare
  /-- Pilot's programs are fetched again after a wake that found DRAM lost (R63). -/
  | reload
deriving DecidableEq, Repr

/-- What the boot ROM holds beside its registers. -/
structure BootSt where
  phase : BootPhase
  /-- The flash directory entries A and B that are valid (R91). -/
  dirA : Option DirEntry
  dirB : Option DirEntry
  /-- Source and slot of the image being fetched: 1 slot A, 2 slot B, 3 host, 4 neighbour (GC_BOOT.SOURCE). -/
  source : Nat
  /-- Flash candidates still to try after this one, as SOURCE codes. -/
  others : List Nat
  /-- Images tried (R97). -/
  tried : List Tried
  /-- The verified Manifest: applied, or about to be. -/
  manifest : Option Manifest
  /-- The image came through MANIFEST_BOOT, SLOT_WRITE or a neighbour: its bytes in the staging area, offset and
  length. -/
  staged : Nat × Nat
  /-- Source of the last image that was applied; it lives with the Deck (R99). -/
  lastSource : Nat
  /-- The Deck is kept by the SOFT reset, if the image agrees (R99). -/
  keepDeck : Bool
  /-- Neighbour boot: the port in use and the round (R94). -/
  port : Nat
  round : Nat
  /-- Bytes received in order from the neighbour so far (R379), and the ns at which its port was taken up (R94). -/
  got : Nat
  since : Nat
  /-- A BOOT_END that waits for PLL_D: port and length (R59, R379). -/
  ended : Option (Nat × Nat)
  /-- The image's length as fetched into the staging area (R76). -/
  fetched : Nat
  /-- A customer key hash was valid at the release of the CORE reset, so the JTAG access path is closed (R462). -/
  jtagClosed : Bool
  /-- What the part did to the flash in the last command: (opcode, offset, length). The model's own. -/
  flashOps : List (Nat × Nat × Nat)
  /-- The reads of the flash in the last command. The model's own. -/
  flashReads : List FlashRead
deriving DecidableEq, Repr

def BootSt.reset : BootSt :=
  { phase := .held, dirA := none, dirB := none, source := 0, others := [], tried := [], manifest := none,
    staged := (0, 0), lastSource := 0, keepDeck := false, port := 0, round := 0, got := 0,
    since := 0, ended := none, fetched := 0, jtagClosed := false, flashOps := [], flashReads := [] }

/-! RF channels and their Pontoons (05_transmit.md to 08_inventory.md). -/

/-- States of a channel's field (R108). -/
inductive FieldState
  | off | supply | rampUp | on | resetDown | resetOff | rampDown
deriving DecidableEq, Repr

/-- The select frame that a channel's SELD sent last (R119): its bits b7 to b0, the ns at its start, the SELCLK period in cc (0 before any
frame), and the selection in force until its apply edge. -/
structure SelFrame where
  byte : Nat
  start : Nat
  cc : Nat
  oldOn : Bool
  oldCoil : Nat
deriving DecidableEq, Repr

/-- The transmit half of a channel beside its registers. -/
structure FieldSt where
  st : FieldState
  /-- The supply has settled for the confirmed grant (R55). -/
  settled : Bool
  /-- A slot boundary of the grant has been reached at which its coil was applied (R108). -/
  boundary : Bool
  /-- The code taken at the confirmation of a later grant, while this one's field has not gone (R105, R106). -/
  next : Option Nat
  /-- The guard has elapsed (R108). -/
  guard : Bool
  /-- RESET_DOWN ends in OFF (CODE written 0, R108). -/
  thenOff : Bool
  /-- The load measurement after the last entry to ON has ended (R123). -/
  measured : Bool
  /-- When the outputs last clamped, in ns (R118). -/
  offAt : Option Nat
  /-- The counter value of the last cut (R111). -/
  cutAt : Option Nat
  sel : SelFrame
deriving DecidableEq, Repr

def FieldSt.reset : FieldSt :=
  { st := .off, settled := false, boundary := false, next := none, guard := false, thenOff := false,
    measured := false, offAt := none, cutAt := none, sel := { byte := 0, start := 0, cc := 0, oldOn := false, oldCoil := 0 } }

/-- A correlation that the receiver holds: level, octant and timestamp (R136, R137). -/
structure Corr where
  level : Nat
  oct : Nat
  stamp : List Word
deriving DecidableEq, Repr

/-- The command classes of R167. -/
inductive CmdClass
  | aTimed | rats | block | bTimed | v | vWrite | fPoll (slots : Nat) | fOther | raw | none
deriving DecidableEq, Repr

/-- A frame for the air: what it is, its bytes before the CRC, the bits of the last byte that are sent (8 for a whole
byte), whether the CRC is appended (R159), its class (R167), and the rate code of its reply (R196). -/
structure AirFrame where
  proto : Nat
  bytes : List Byte
  lastBits : Nat
  crc : Bool
  cls : CmdClass
  rate : Nat
deriving DecidableEq, Repr

/-- The receive half of a channel beside its registers (R135). -/
structure RxSt where
  armed : Bool
  cur : Corr
  /-- The current frame is 24 bit-times old or more (R140, R141). -/
  aged : Bool
  replayed : Bool
  overload : Bool
  eqUsed : Bool
  /-- Spans of interference: first bit, and the bit after the last once it has ended (R142). -/
  interf : List (Nat × Option Nat)
  /-- The end of a replayed frame was decoded before the catch-up (R138). -/
  ended : Bool
  /-- The decoded frame that waits in CHECK. -/
  frame : Option RxFrame
  /-- A correlation held in CHECK (R135). -/
  held : Option Corr
  /-- The command that the current frame answers, with its format (R158, R159). -/
  sent : Option AirFrame
  /-- The lookback buffer: up to 128 complex samples of the detector output, I and Q (R138). -/
  look : List Word
  /-- The equaliser's taps after training, FFE then DFE (R145). -/
  taps : List Word
  /-- The timestamp of the frame that listeners measure, while it may be measured (R143, R150). -/
  window : Option (List Word)
  /-- Equaliser seeds: coil and 24 taps (R145). -/
  seeds : List (Nat × List Word)
  /-- SEED_CLR waits for the end of the frame (R156). -/
  clearSeeds : Bool
deriving DecidableEq, Repr

def Corr.zero : Corr := { level := 0, oct := 0, stamp := [0, 0, 0] }

def RxSt.reset : RxSt :=
  { armed := false, cur := Corr.zero, aged := false, replayed := false, overload := false, eqUsed := false,
    interf := [], ended := false, frame := none, held := none, sent := none, look := [], taps := [], window := none, seeds := [],
    clearSeeds := false }

/-- One secure session of the session cache (R254). -/
structure SmSession where
  kEnc : List Byte
  kMac : List Byte
  c : Nat
  slot : Nat
  version : Nat
  unconfirmed : Bool
deriving DecidableEq, Repr

/-- One session context (R180). -/
structure Ctx where
  /-- State code of R180. -/
  st : Nat
  proto : Nat
  cid : Nat
  gen : Nat
  coil : Nat
  block : Nat
  twin : Bool
  dep : Bool
  fwi : Nat
  sfgi : Nat
  fsc : Nat
  id : List Byte
  sak : Nat
  /-- The state before a migration (R203). -/
  prev : Nat
  /-- This is the old placement of a session that has migrated (R201). -/
  leaving : Bool
  /-- SFGT runs for this session (R170). -/
  sfgt : Bool
  /-- Rate codes of R196 in use: reader to tag, and tag to reader. -/
  dr : Nat
  ds : Nat
  /-- The session's entry in the session cache (R254). -/
  sm : Option SmSession
deriving DecidableEq, Repr

def Ctx.free : Ctx :=
  { st := 0, proto := 0, cid := 15, gen := 0, coil := 0, block := 0, twin := false, dep := false, fwi := 0, sfgi := 0,
    fsc := 0, id := [], sak := 0, prev := 0, leaving := false, sfgt := false, dr := 0, ds := 0, sm := none }

/-- A command in a Pontoon's queue (R183). -/
structure PCmd where
  opcode : Nat
  tag : Nat
  args : List Word
deriving DecidableEq, Repr

/-- A branch left for later (R186), or a mask still to walk (R192): level, known bits, value. -/
structure Branch where
  level : Nat
  known : Nat
  value : Nat
deriving DecidableEq, Repr

/-- What a Pontoon's inventory waits for next. -/
inductive InvStep
  | grant | rfReset | clear (popped : Bool) | req | anticoll | select | popReq | popSelect (j : Nat) | halt | slot (s : Nat) | quiet
  | attrib | rats | atr | pps | params (k : Nat) | deselect
  /-- Nothing is left to walk; the attribution of the last tag is still due (R229). -/
  | closing
deriving DecidableEq, Repr

/-- The tag that a round is disposing of (R194). -/
structure FoundTag where
  proto : Nat
  id : List Byte
  info0 : Nat
  info1 : Nat
  sak : Nat
  record : List Word
  sbAmp : Nat
  /-- The context taken, whether the round halted or quieted the tag, whether it was activated, and whether its disposal
  is over. -/
  ctx : Option Nat
  halted : Bool
  activated : Bool
  ready : Bool
  /-- BERTH1, CONF1, BERTH2, CONF2 of the identifying reply, once known (R229). -/
  attr : Option (Nat × Nat × Nat × Nat)
deriving DecidableEq, Repr

/-- An inventory under way (R186 to R194). -/
structure InvSt where
  proto : Nat
  coil : Nat
  limit : Nat
  slots : Nat
  afi : Nat
  maskLen : Nat
  vhbr : Bool
  activate : Bool
  keep : Bool
  wake : Bool
  mask : Nat
  tag : Nat
  step : InvStep
  level : Nat
  known : Nat
  value : Nat
  cl1 : Nat
  cl2 : Nat
  atqa : Nat
  retried : Bool
  stack : List Branch
  found : Nat
  kept : Nat
  noCtx : Nat
  passes : Nat
  maxDepth : Nat
  twin : Bool
  stackFull : Bool
  incomplete : Bool
  limitHit : Bool
  start : List Word
  /-- Slots of the present pass that collided (R191 to R193). -/
  collided : List Nat
  /-- Identifiers found in the present request or round (R192, R193). -/
  ids : List (List Byte)
  newIds : Bool
  /-- A frame was heard in the present polling (R193). -/
  heard : Bool
  /-- Repeats of the present frame (R196). -/
  tries : Nat
  /-- The session being activated (R196). -/
  build : Ctx
  tagNow : Option FoundTag
  /-- Tags still to quiet (R192). -/
  toQuiet : List FoundTag
deriving DecidableEq, Repr

/-- What a running command other than INVENTORY waits for next. -/
inductive CmdStep
  | hlta (tries : Nat) | wup (tries : Nat) | sel (level tries : Nat) | rats | atr | pps | params (k : Nat) | attrib (tries : Nat)
  | vSelect (tries : Nat) | deselect | raw | data | halt | protoHalt | auth1 | auth2 | sm | rfReset
  | reconcile (tries : Nat)
deriving DecidableEq, Repr

/-- A running command other than INVENTORY: the command, its context, its step, the bytes still to send (chaining) and
to receive, random numbers of AUTH, and a private copy of the session (R255). -/
structure CmdSt where
  cmd : PCmd
  ctx : Nat
  gen : Nat
  step : CmdStep
  toSend : List Byte
  data : List Byte
  ra : List Byte
  rb : List Byte
  sm : Option SmSession
  /-- An RF_RESET that has begun (R112). -/
  begun : Bool
  /-- REPEAT and NOT_RECEIVED of the final item (R203). -/
  repeat_ : Bool
  notReceived : Bool
  /-- The tag is chaining its answer (R172). -/
  chaining : Bool
  /-- The session being activated (R196). -/
  build : Ctx
deriving DecidableEq, Repr

/-- What the Pontoon is working on. -/
inductive Job
  | inv (i : InvSt)
  | cmd (c : CmdSt)
deriving DecidableEq, Repr

/-- The exchange that the sequencer runs (R175). -/
structure Exch where
  frame : AirFrame
  /-- REF of the timing word (R178). -/
  ref : Nat
  sent : Bool
  late : Bool
  lateOct : Nat
  retries : Nat
  wtx : Nat
  /-- WTXM that extends the next wait (R171). -/
  wtxm : Nat
  /-- The last I-block sent, for a retransmission (R172). -/
  lastBlock : AirFrame
  /-- The context that the frame is addressed to (R170); 15 for none. -/
  ctx : Nat
  /-- Reply deadline in oct after CE, once CE has passed (R167). -/
  deadline : Option Nat
  /-- The placement was withdrawn while the frame was in TX (R177). -/
  withdrawn : Bool
  /-- The frame's CS: its octant, and how many oct it lies after its reference (R163). -/
  csOct : Nat
  placed : Nat
  /-- The frame as it is modulated (R158, R161). -/
  air : List Bool
  fmtCount : Nat
deriving DecidableEq, Repr

/-- Reply records and the first CS of the command under way (R204). -/
structure Records where
  replies : Nat
  last : List (List Word)
  csTime : List Word
  csOct : Nat
  /-- The first CS has passed. -/
  started : Bool
deriving DecidableEq, Repr

def Records.none : Records := { replies := 0, last := [], csTime := [0, 0, 0], csOct := 0, started := false }

/-- One RF channel with its reader Pontoon. -/
structure Chan where
  field : FieldSt
  rx : RxSt
  /-- The next placement's reference (R163): 0 TE, 1 deadline, 2 CE, 3 guard or SFGT; and the octant of its TE, deadline or CE. -/
  nextRef : Nat
  refOct : Nat
  exch : Option Exch
  recs : Records
  job : Option Job
  queue : List PCmd
  /-- Arrived sessions whose block numbers are still to be reconciled: context, and the MIGRATE command (R203). -/
  arrived : List (Nat × PCmd)
  /-- Per-path assembly of commands (R183): path, words so far, words of a discarded command still to swallow. -/
  asm : List (Path × List Word × Nat)
  ctx : Vector Ctx 8
  /-- Sideband terms of the frame's listeners: channel, coil, amplitude, phase, below floor (R150). -/
  terms : List (Nat × Nat × Nat × Nat × Bool)
  /-- The timestamp of the frame that those terms measure (R150). -/
  termsAt : List Word
  /-- The last frame delivered was a FRAME without a flagged bit, which is attributed (R228). -/
  clean : Bool
  /-- BERTH1, CONF1, BERTH2, CONF2 of the last attribution (R229). -/
  attr : Option (Nat × Nat × Nat × Nat)
  /-- Items that wait behind TAG items of earlier frames (R13): how many of them, type, payload. -/
  behind : List (Nat × Nat × List Word)
deriving DecidableEq, Repr

def Chan.reset : Chan :=
  { field := FieldSt.reset, rx := RxSt.reset, nextRef := 3, refOct := 0, exch := none, recs := Records.none,
    job := none, queue := [], arrived := [], asm := [], ctx := Vector.replicate 8 Ctx.free, terms := [], termsAt := [], clean := false,
    attr := none, behind := [] }

/-! Tide scheduler and Crossing survey (09_survey_scheduling.md). -/

/-- One entry of a neighbour table (R208). -/
structure NbEntry where
  xdev : Bool
  dev : Nat
  berth : Nat
  mag : Nat
  phase : Nat
deriving DecidableEq, Repr

/-- An entry that reads 0. -/
def NbEntry.zero : NbEntry := { xdev := false, dev := 0, berth := 0, mag := 0, phase := 0 }

/-- The neighbour table of one berth (R208, R230). -/
structure NbTable where
  berth : Nat
  surveyed : Bool
  refCode : Nat
  refAmp : Nat
  refN : Nat
  /-- COUNT, and the 16 entries as they stand. -/
  count : Nat
  entries : List NbEntry
deriving DecidableEq, Repr

/-- Who asked for a grant: a Pontoon's inventory, firmware through TS_GREQ with its TAG, an emulation instance, or the
survey. -/
inductive Owner
  | pontoon | firmware (tag : Nat) | emulation (k : Nat) | survey
deriving DecidableEq, Repr

/-- A request for a grant (R218, R223). -/
structure GrantReq where
  owner : Owner
  ch : Nat
  coil : Nat
  slots : Nat
  handover : Bool
  partner : Nat
  /-- Slots waited so far, and whether the request has become urgent (R220). -/
  waited : Nat
  urgent : Bool
deriving DecidableEq, Repr

/-- A listen assignment: channel, coil, and the millisecond at which it ends (R221, R222). -/
structure Listen where
  ch : Nat
  coil : Nat
  until_ : Nat
deriving DecidableEq, Repr

/-- A confirmed grant: channel, coil, start (ms of network time), slots, power in 10 mW units of the code in force for it, its
listeners; `isOpen` for an emulation grant, which has no set length (R266); `released` holds the counter value at its release (R221,
R227); `begun` once its first slot had begun when a step carried the counter back (R499). -/
structure Grant where
  owner : Owner
  ch : Nat
  coil : Nat
  start : Nat
  slots : Nat
  isOpen : Bool
  power : Nat
  listeners : List Listen
  released : Option Nat
  begun : Bool
deriving DecidableEq, Repr

/-- A measured value of a survey: source berth, listener berth, level and phase. -/
structure Coupling where
  src : Nat
  dst : Nat
  mag : Nat
  phase : Nat
deriving DecidableEq, Repr

/-- The survey under way (R211 to R215). -/
structure SurveySt where
  cross : Bool
  initiator : Bool
  peer : Nat
  /-- Survey code and AVG in use. -/
  code : Nat
  avg : Nat
  /-- Sources still to measure, the present one first, and those to repeat (R213). -/
  sources : List Nat
  again : List Nat
  repeating : Bool
  /-- 0 before the first block; otherwise one more than the slot of the present block. -/
  pos : Nat
  /-- Slots C_L of a block after its quiet slot. -/
  len : Nat
  /-- The quiet check of the present block has failed; the present source is left unsurveyed (R213). -/
  spoiled : Bool
  refused : Bool
  ownLevel : Nat
  ownPhase : Nat
  /-- Carriers of the present block: berth, level, phase. -/
  raw : List (Nat × Nat × Nat)
  /-- The shadow: values measured so far, the sources measured, and those left unsurveyed (R214). -/
  values : List Coupling
  done : List Nat
  missing : List Nat
  /-- The agreed start, in ms of network time. -/
  startMs : Nat
  /-- The peer's answer to the proposal is awaited (R215). -/
  waiting : Bool
  /-- Blocks that have run at the peer, oldest first, whose own carrier the initiator still sends: source, a failed quiet check, and
  the carriers of its listeners. -/
  closed : List (Nat × Bool × List (Nat × Nat × Nat))
deriving DecidableEq, Repr

def SurveySt.reset : SurveySt :=
  { cross := false, initiator := true, peer := 0, code := 0, avg := 0, sources := [], again := [], repeating := false,
    pos := 0, len := 0, spoiled := false, refused := false, ownLevel := 0, ownPhase := 0, raw := [], values := [],
    done := [], missing := [], startMs := 0, waiting := false, closed := [] }

/-- Watchkeeper's detector of one entry: sniffs learned so far and their sum, the baseline, consecutive deviations
(R232). -/
structure Detector where
  entry : Nat
  learned : Nat
  baseline : Int
  streak : Nat
deriving DecidableEq, Repr

/-- The scheduler, the survey and Watchkeeper's detectors beside their registers. -/
structure TsSt where
  reqs : List GrantReq
  grants : List Grant
  /-- Words of a request written so far, by path (R223). -/
  asm : List (Path × Word)
  tables : List NbTable
  survey : SurveySt
  detectors : List Detector
  /-- Groups that owe the frame of R122, with the boundary (ms) that it precedes. -/
  selInit : List (Nat × Nat)
  /-- Survey messages to be sent: destination, type and payload (R215). -/
  outbox : List (Nat × Nat × List Word)
  /-- Entries that the present burst still sniffs, and the ns of the next of its sniffs (R231). -/
  burst : List Nat
  sniffAt : Nat
  /-- Entries to be sniffed again, with the ns of that sniff (R232). -/
  resniff : List (Nat × Nat)
  /-- The last sniff: its berth, its code, and the ns at which its field rose (R231). -/
  sniffed : Option (Nat × Nat × Nat)
deriving DecidableEq, Repr

def TsSt.reset : TsSt :=
  { reqs := [], grants := [], asm := [], tables := [], survey := SurveySt.reset, detectors := [], selInit := [],
    outbox := [], burst := [], sniffAt := 0, resniff := [], sniffed := none }

/-! Crypto (10_secure_sessions.md). -/

/-- A key in a slot, with its header (R235). -/
structure KeySlot where
  attr : Nat
  len : Nat
  version : Nat
  key : List Byte
deriving DecidableEq, Repr

/-- A fuse burn under way (R245): the key command, its slot and the data to burn. -/
structure FuseBurn where
  op : Nat
  slot : Nat
  data : List Byte
deriving DecidableEq, Repr

/-- One customer key hash in fuses, or the Manifest key (R82, R83, R245). -/
structure FuseKey where
  data : List Byte
  valid : Bool
  revoked : Bool
  damaged : Bool
deriving DecidableEq, Repr

def FuseKey.blank : FuseKey := { data := [], valid := false, revoked := false, damaged := false }

/-- The fuses that hold keys and the security minimum (R82 to R84, R245), and the fuse records (R431). -/
structure Fuses where
  hash : Vector FuseKey 4
  mkey : FuseKey
  /-- The fuse minimum as burned thermometer bits (R84). -/
  secMin : Nat
  /-- The 64 bytes of each record slot, empty while every bit reads 0, and the factory record (R431). -/
  records : Vector (List Byte) 24
  factory : List Byte
deriving DecidableEq, Repr

def Fuses.blank : Fuses :=
  { hash := Vector.replicate 4 FuseKey.blank, mkey := FuseKey.blank, secMin := 0,
    records := Vector.replicate 24 [], factory := [] }

/-- What Crypto holds beside its registers. -/
structure CySt where
  slots : Vector (Option KeySlot) 64
  inp : List Word
  outp : List Word
  /-- The ephemeral private key (R244). -/
  ecdh : Option (List Byte)
  burn : Option FuseBurn
  /-- DRBG requests since the last reseed (R258). -/
  requests : Nat
  /-- Consecutive mismatches of the tamper loops (R256), and their guard levels. -/
  miss0 : Nat
  miss1 : Nat
  guard0 : Bool
  guard1 : Bool
  /-- A tamper event that happened in Watch or Dormant waits for Crypto, by loop (R257). -/
  due0 : Bool
  due1 : Bool
  /-- The counter value at which a key command completed last, and that of the last tamper response (R260). -/
  doneAt : Option Nat
  tamperAt : Option Nat
deriving DecidableEq, Repr

def CySt.reset : CySt :=
  { slots := Vector.replicate 64 none, inp := [], outp := [], ecdh := none, burn := none, requests := 0,
    miss0 := 0, miss1 := 0, guard0 := false, guard1 := false, due0 := false, due1 := false, doneAt := none, tamperAt := none }

/-! Tag emulation (11_card_emulation.md). -/

/-- The card-side secure session of an instance (R277): keys and the last accepted counter. -/
structure CardSession where
  kEnc : List Byte
  kMac : List Byte
  last : Nat
deriving DecidableEq, Repr

/-- A field transaction in progress (R278): the command frame's blocks in use, the staged writes (offset in the image,
byte), and the response that ends it. -/
structure FieldTxn where
  blocks : List Nat
  writes : List (Nat × Byte)
deriving DecidableEq, Repr

/-- A host burst that waits for blocks in use (R279): path, write data by offset (empty for a read), offset, words,
words beyond the page, which read 0, the first block in use, and the ns at which its wait began. -/
structure HostBurst where
  path : Path
  writes : List (Nat × Byte)
  offset : Nat
  words : Nat
  pad : Nat
  block : Nat
  since : Nat
deriving DecidableEq, Repr

/-- A lock region in force for the present transaction (R280): start, length, absent. -/
structure LockRegion where
  start : Nat
  len : Nat
  absent : Bool
deriving DecidableEq, Repr

/-- One emulation instance beside its registers. -/
structure CeInst where
  /-- UID presented (R269). -/
  uid : List Byte
  /-- Block number, CID (15 for none) and FSD of the session (R272). -/
  block : Nat
  cid : Nat
  fsd : Nat
  /-- Bytes of a chained command so far, bytes of the response still to send, and the last block sent (R272). -/
  rx : List Byte
  tx : List Byte
  lastBlock : List Byte
  /-- The reply frame that waits for its start, as bits with CRC and parity (R267, R270); `status` says that it carries the status
  word of a response. -/
  reply : Option (List Bool)
  status : Bool
  /-- Cascade level of the selection under way, 1 or 2. -/
  level : Nat
  /-- Where the present transaction stands. -/
  txn : Option FieldTxn
  /-- Current DF and current file, as indices of the header's tables (R276). -/
  df : Option Nat
  file : Option Nat
  /-- The forwarded command that waits (R273), WTX requests sent for it, and whether the phone's S(WTX) response is
  awaited. -/
  fwd : Option Nat
  wtx : Nat
  wtxAwait : Bool
  cmdId : Nat
  /-- RB of a GET CHALLENGE, and the session (R277). -/
  challenge : List Byte
  session : Option CardSession
  /-- Words of a response written so far, by path (R273, R284). -/
  asm : List (Path × List Word)
  /-- When the field was lost, in ns, while the grant still runs (R266). -/
  lostAt : Option Nat
  /-- The grant has been asked to end (R266). -/
  preempt : Bool
  /-- HALT follows the reply: an S(DESELECT) response is on its way (R268). -/
  toHalt : Bool
  /-- The rate that follows a PPS response. -/
  newRate : Option Nat
  /-- Host bursts that wait (R279). -/
  host : List HostBurst
  /-- The last bit of the phone's last frame; the reply may come later than the first grid point; the start of the last reply, in rcc after
  the phone's last pause (R270). -/
  lastBit : Bool
  late : Bool
  startAt : Nat
  /-- The ns until which the guard time after the ATS runs, once that has been sent (R271). -/
  guardAt : Option Nat
deriving DecidableEq, Repr

def CeInst.reset : CeInst :=
  { uid := [], block := 0, cid := 15, fsd := 256, rx := [], tx := [], lastBlock := [], reply := none, status := false, level := 1,
    txn := none, df := none, file := none, fwd := none, wtx := 0, wtxAwait := false, cmdId := 0, challenge := [],
    session := none, asm := [], lostAt := none, preempt := false, toHalt := false, newRate := none, host := [], lastBit := false,
    late := false, startAt := 0, guardAt := none }

/-! Landing queues (12_landing_queues.md). -/

/-- What a queue stores (R288, R297, R299): a producer's item, a GAP marker or a FLUSHED marker. -/
inductive EntryBody
  | item (typ seq : Nat) (payload : List Word)
  | gap (first count last : Nat)
  | flushed (seq items : Nat) (cut : Bool)
deriving DecidableEq, Repr

/-- A stored entry; `replayed` after a REWIND (R300), `begun` once its delivery has begun (R296). -/
structure Entry where
  body : EntryBody
  replayed : Bool
  begun : Bool
deriving DecidableEq, Repr

/-- One path's push buffer of one queue (R302): the words taken so far, and the words of a flushed item still to
absorb (R299). -/
structure PushBuf where
  path : Path
  words : List Word
  absorb : Nat
deriving DecidableEq, Repr

/-- What is left of an ascending burst (R36): its path, the next address, the words to the end of its region, the words of 0 behind them,
and CODE of the frame before (R407). -/
structure BurstRest where
  path : Path
  addr : Nat
  words : Nat
  pad : Nat
  code : Nat
deriving DecidableEq, Repr

/-- A read of LQn_POP that waits for an item (R295): its path, the words of its burst still to deliver, whether it ends with
the item (R408), what of an ascending burst stands behind it (R36), and the ns at which its present word began to stall. -/
structure StalledRead where
  path : Path
  words : Nat
  oneItem : Bool
  behind : Option BurstRest
  since : Nat
deriving DecidableEq, Repr

/-- One Landing queue: retained items oldest first, waiting items head first, words of the head already popped,
a GAP marker that has no free word yet (first, count, last), the next sequence number, the mark, push buffers,
stalled reads, and ascending bursts whose stall at this queue is over and that go on (R36). -/
structure Queue where
  retained : List Entry
  waiting : List Entry
  popped : Nat
  heldGap : Option (Nat × Nat × Nat)
  nextIn : Nat
  mark : Bool
  markLost : Bool
  push : List PushBuf
  stalled : List StalledRead
  resumed : List BurstRest
deriving DecidableEq, Repr

/-- An empty queue, as every CORE reset leaves it (R306). -/
def Queue.empty : Queue :=
  { retained := [], waiting := [], popped := 0, heldGap := none, nextIn := 0, mark := false, markLost := false,
    push := [], stalled := [], resumed := [] }

/-! Registry, journal and services (13_registry_services.md). -/

/-- A service command that waits or runs (R321): the way it came, CODE, TAG, payload, whether its lengths agree; the
response buffer of an ECALL (R328). -/
structure SvcCmd where
  via : Via
  code : Nat
  tag : Nat
  payload : List Byte
  lenOk : Bool
  buf : Nat × Nat
deriving DecidableEq, Repr

/-- A sighting of a tag (R312, R325): the key (bytes 0x01 to 0x0B of its record), berths and confidences of its TAG item, TWIN,
context (15 for none), channel, time, and how many sightings it stands for. -/
structure Sighting where
  key : List Byte
  berth : Nat
  conf : Nat
  berth2 : Nat
  twin : Bool
  ch : Nat
  ctx : Nat
  stamp : List Byte
  count : Nat
deriving DecidableEq, Repr

/-- An audit entry to be written (R326): TYPE, berth, record index, DETAIL; `none` where the spec states no content. -/
structure AuditJob where
  typ : Option Nat
  berth : Option Nat
  record : Nat
  detail : Option (List Byte)
deriving DecidableEq, Repr

/-- Work of the runtime that waits for its journal record (R314, R315). -/
inductive Work
  /-- An audit entry alone. -/
  | audit (a : AuditJob)
  /-- The sighting of a registered tag, journalled at once; `sticky` sets TWIN_STICKY. -/
  | sight (rec_ : Nat) (s : Sighting) (sticky : Bool) (a : Option AuditJob)
  /-- A coalesced refresh (R313). -/
  | refresh (rec_ : Nat) (s : Sighting)
  /-- A tag absent for HOLD_S (R325). -/
  | absent (rec_ : Nat) (a : AuditJob)
  /-- A service command that changes persistent state. -/
  | cmd (c : SvcCmd)
  /-- The records that REG_COMPACT of a stripe still has to move, those moved so far (R311). -/
  | compact (c : SvcCmd) (stripe moved : Nat)
  /-- An INTENT record of a tag write, and the tag's record index (R320). -/
  | intent (c : SvcCmd) (rec_ : Nat)
  /-- An OUTCOME record: slot, completion code, response data, the audit entry (R320). -/
  | outcome (slot code : Nat) (c : Option SvcCmd) (data : List Byte) (a : AuditJob)
  /-- The key blobs and the epoch (R243), with the KEY_OP that waits for them. -/
  | keys (c : Option (SvcCmd × Nat × List Byte))
  /-- The neighbour tables from a berth on, as they stood when the save began (R210). -/
  | tables (berth : Nat) (start : List NbTable)
  /-- The dirty blocks of an emulation image (R282). -/
  | image (k : Nat)
  /-- CL_COUNT (R436). -/
  | count
deriving DecidableEq, Repr

/-- A tag write under way (R320): intent slot, channel, context, TAG of its Pontoon command, data of its items so far. -/
structure TagWrite where
  slot : Nat
  ch : Nat
  ctx : Nat
  tag : Nat
  cmd : SvcCmd
  data : List Byte
deriving DecidableEq, Repr

/-- A journal record that is committed and not yet applied (R315): SEQ, entries by MRAM offset, the journal offset behind it,
the replies that wait for it, and the tag write whose exchange is posted then (R320). -/
structure JRecord where
  seq : Nat
  entries : List (Nat × List Byte)
  next : Nat
  replies : List (SvcCmd × Nat × List Byte)
  post : Option TagWrite
deriving DecidableEq, Repr

/-- The runtime, the journal and the mailbox. -/
structure SvSt where
  /-- Mailbox words written so far; response words still to read (R331). -/
  mboxIn : List Word
  mboxOut : List Word
  /-- Service commands that wait, and those being served (R322). -/
  waiting : List SvcCmd
  running : List SvcCmd
  /-- Work that waits for its journal record; whether the first was begun before a power-fail assertion (R72). -/
  todo : List Work
  begun : Bool
  /-- Committed records, oldest first; next record's journal offset and SEQ. -/
  committed : List JRecord
  jpos : Nat
  jseq : Nat
  /-- Refreshes held in DRAM (R313): record index, sighting. -/
  held : List (Nat × Sighting)
  /-- The last verdict by key (R325). -/
  verdicts : List (List Byte × Nat)
  /-- Words that the Pilot path popped of items not yet complete, by queue (R287). -/
  popped : List (Nat × List Word)
  /-- The TAG of the runtime's next Pontoon command. -/
  nextTag : Nat
  /-- AUTH commands that the runtime awaits: TAG, record index, sighting (R325). -/
  auths : List (Nat × Nat × Sighting)
  writes : List TagWrite
  /-- When the record of the oldest work first found no journal space, in ns (R315). -/
  waitAt : Option Nat
  /-- The Q24 item that the runtime forwarded last, header first (R326). -/
  forwarded : List Word
  /-- The KEY_OP that waits for a fuse burn (R323). -/
  keyOp : Option SvcCmd
  /-- Entry point of each started customer core (R328). -/
  cores : Vector (Option Nat) 4
  /-- Result of each core's last ECALL: a0, a1 (R328). -/
  ecall : Vector (Option (Nat × Nat)) 4
deriving DecidableEq, Repr

def SvSt.reset : SvSt :=
  { mboxIn := [], mboxOut := [], waiting := [], running := [], todo := [], begun := false, committed := [], jpos := 0,
    jseq := 1, held := [], verdicts := [], popped := [], nextTag := 0, auths := [], writes := [], waitAt := none, forwarded := [], keyOp := none,
    cores := Vector.replicate 4 none, ecall := Vector.replicate 4 none }

/-! Tideclock (14_tideclock.md). -/

/-- A timed pulse beside its registers (R350): the next edge, the output's activity, and the ns at which it ends. -/
structure PulseSt where
  edge : Nat
  high : Bool
  endAt : Nat
deriving DecidableEq, Repr

/-- A capture input beside its registers (R352, R353): buffered captures (rising, timestamp), and the counter value until which
edges are ignored. -/
structure CapSt where
  buf : List (Bool × List Word)
  quietUntil : Nat
deriving DecidableEq, Repr

/-- What the Tideclock holds beside its counter and registers. -/
structure TcSt where
  /-- The refused offset held for ACCEPT_STEP, in 2⁻¹⁶ ns (R337). -/
  held : Option Int
  /-- The counter at the last accepted offset; the next offset takes Δ = 1 s (R338). -/
  lastAt : Nat
  fresh : Bool
  pulses : Vector PulseSt 4
  caps : Vector CapSt 4
  /-- Network time in ns from which the holdover timeout counts (R342). -/
  beaconAt : Nat
  /-- The upstream port that the delay filter has a measurement of (R344). -/
  dlyPort : Option Nat
  /-- t1, t2 and t3 of the exchange under way, in units of 2⁻⁴⁰ ns (R344). -/
  t1 : Nat
  t2 : Nat
  t3 : Nat
  /-- TIME_EVENT payloads that the runtime still owes to Q24 (R349). -/
  owed : List (List Word)
deriving DecidableEq, Repr

def TcSt.reset : TcSt :=
  { held := none, lastAt := 0, fresh := true, pulses := Vector.replicate 4 { edge := 0, high := false, endAt := 0 },
    caps := Vector.replicate 4 { buf := [], quietUntil := 0 }, beaconAt := 0, dlyPort := none, t1 := 0, t2 := 0, t3 := 0,
    owed := [] }

/-! Hawser (15_hawser_fabric.md). -/

/-- A DATA frame in the retry window (R362, R363): FSEQ, lane (true: control), START, payload, the packets that it carries, whether
it has been sent, and how often it has been sent again. -/
structure TxFrame where
  fseq : Nat
  control : Bool
  start : Nat
  payload : List Byte
  packets : List Nat
  sent : Bool
  resent : Nat
deriving DecidableEq, Repr

/-- One lane of a port's transmitter: packets that wait, with their numbers, and what is left of the packet under way. -/
structure TxLane where
  waiting : List (Nat × List Byte)
  current : Nat × List Byte
deriving DecidableEq, Repr

/-- A frame that a port owes at a codeword boundary that it has reserved (R381): kind 3 BEACON, 4 DREQ, 5 DRESP with t4 and the
echoed t3 in 2⁻¹⁶ ns. -/
structure TimeFrame where
  kind : Nat
  t4 : Nat
  t3 : Nat
deriving DecidableEq, Repr

/-- One Hawser port beside its registers. -/
structure HsPort where
  /-- The 1 ms after a drop has not run yet (R360). -/
  holdoff : Bool
  control : TxLane
  message : TxLane
  /-- The retry window, oldest first; how many of its frames have been sent since the last return; the next FSEQ (R363). -/
  window : List TxFrame
  cursor : Nat
  nextSeq : Nat
  /-- Receiver: the FSEQ expected next, a NAK that is due, a gap that has had its NAK (R363). -/
  expect : Nat
  nakDue : Bool
  gap : Bool
  /-- Consecutive failed codewords (R364). -/
  failed : Nat
  /-- Bytes of the present packet by lane, and whether the stream is in step (R362). -/
  rxControl : Option (List Byte)
  rxMessage : Option (List Byte)
  /-- Complete packets that have not reached the router (R366). -/
  arrived : List (List Byte)
  times : List TimeFrame
  /-- The neighbour's best candidate from its last HELLO: priority, unit ID, hops (R369). -/
  heard : Option (Nat × Nat × Nat)
  /-- The neighbour's own priority from TRAIN_INFO. -/
  priority : Nat
  /-- Seeds of the 31-bit scramblers: the port's own, and the neighbour's from TRAIN_INFO (R358, R360). -/
  seed : Nat
  peerSeed : Nat
deriving DecidableEq, Repr

def HsPort.reset : HsPort :=
  { holdoff := false, control := { waiting := [], current := (0, []) }, message := { waiting := [], current := (0, []) }, window := [], cursor := 0,
    nextSeq := 0, expect := 0, nakDue := false, gap := false, failed := 0, rxControl := none, rxMessage := none, arrived := [],
    times := [], heard := none, priority := 0, seed := 0, peerSeed := 0 }

/-- A link-state advertisement (R373): address, unit ID, sequence number, links (port, neighbour, cost), upstream neighbour,
and the ns at which it was refreshed. -/
structure Lsa where
  addr : Nat
  unit : Nat
  seq : Nat
  links : List (Nat × Nat × Nat)
  upstream : Option Nat
  at_ : Nat
deriving DecidableEq, Repr

/-- A routing table entry (R374). -/
structure Route where
  addr : Nat
  cost : Nat
  hops : Nat
  first : Nat
  port : Nat
deriving DecidableEq, Repr

/-- A binding (R371): unit ID, address, whether the unit is present, the ns at which it was last present, and the order in which
the bindings were made. -/
structure Binding where
  unit : Nat
  addr : Nat
  present : Bool
  last : Nat
  age : Nat
deriving DecidableEq, Repr

/-- The router beside its registers. -/
structure HsSt where
  ports : Vector HsPort 4
  /-- Root candidate: priority, unit ID, hops; the ns at which it last changed; the start of ELECT (R369, R370). -/
  cand : Nat × Nat × Nat
  candAt : Nat
  electAt : Nat
  lsas : List Lsa
  lsaSeq : Nat
  routes : List Route
  /-- The LSA set has changed since the table was computed (R374). -/
  stale : Bool
  bindings : List Binding
  /-- Ports that ADDRESS_REQUESTs came by: unit ID, port. -/
  asked : List (Nat × Nat)
  /-- Packets being assembled at HS_SEND, by path (R377); the packet counter. -/
  asm : List (Path × List Word)
  pseq : Nat
  /-- Number of the next packet handed to a port. -/
  pid : Nat
  /-- REG requests that wait for their access (R378): port and packet. -/
  regs : List (Nat × List Byte)
  /-- The reply that is owed: the port and the request, and CODE (R378). -/
  reply : Option (Nat × List Byte × Nat)
  /-- Words that the access has delivered so far. -/
  got : List Word
  /-- Packets of a dropped link that wait for a new next hop (R364). -/
  orphans : List (List Byte)
  /-- A reset order awaits its reply, and since when (R380). -/
  resetAt : Option Nat
  /-- The root for which the upstream was found last (R375). -/
  upRoot : Nat
  /-- Position in the Cascade chain, and whether it counts from a strapped master (R383). -/
  position : Int
  strapped : Bool
  /-- A neighbour boot being served: port and image offset (R379). -/
  serving : Option (Nat × Nat)
deriving DecidableEq, Repr

def HsSt.reset : HsSt :=
  { ports := Vector.replicate 4 HsPort.reset, cand := (0, 0, 0), candAt := 0, electAt := 0, lsas := [], lsaSeq := 0, routes := [],
    stale := false, bindings := [], asked := [], asm := [], pseq := 0, pid := 0, regs := [], reply := none, got := [], orphans := [], resetAt := none,
    upRoot := 0, position := 0, strapped := false, serving := none }

/-! Ethernet (16_ethernet.md) and the GPIO balls (20_signals.md). -/

/-- One Ethernet port beside its registers: a received PAUSE frame holds transmission, the PAUSE frame last sent asked to hold
(R390), the bytes of the last frame sent, without its FCS, and the received frames that wait for PLL_D: ring, bytes, counter value at the
timestamp point (R59). -/
structure EnPort where
  held : Bool
  pausing : Bool
  sent : List Byte
  waiting : List (Nat × List Byte × Nat)
deriving DecidableEq, Repr

def EnPort.reset : EnPort := { held := false, pausing := false, sent := [], waiting := [] }

/-! Gangway (17_gangway.md). -/

/-- A master frame (R410): chip select, instruction unless it is omitted, address bytes as sent, mode byte, dummy cycles, whether it
reads, data bits, and the data words written. -/
structure MasterFrame where
  cs : Nat
  op : Option Nat
  addr : List Byte
  mode : Option Nat
  dummy : Nat
  read : Bool
  bits : Nat
  words : List Word
deriving DecidableEq, Repr

/-- A read of the XIP window that waits (R412, R413): its path, the flash address of its next byte, bytes of one access, bytes
still to deliver, whether its present access has fetched a line, and the words that read 0 behind them (R36). -/
structure XipRead where
  path : Path
  addr : Nat
  size : Nat
  left : Nat
  missed : Bool
  pad : Nat
deriving DecidableEq, Repr

/-- One Gangway port beside its registers. -/
structure GwPort where
  /-- The words of MDATA (R411). -/
  mdata : List Word
  /-- The master command in progress, and whether its frame is on the wire yet (R411, R418). -/
  cmd : Option MasterFrame
  started : Bool
  /-- The last master frame sent. -/
  frame : Option MasterFrame
  /-- The prefetch buffer: line number and bytes, most recently used first (R413). -/
  lines : List (Nat × List Byte)
  /-- Lines that the frame in progress still brings, and whether they will be discarded (R413, R415, R418). -/
  fill : List (Nat × Bool)
  /-- The flash is in its continuous-read state (R414). -/
  cont : Bool
  waits : List XipRead
  /-- Slave frames that wait for an earlier write frame to be applied (R405, R409, R418). -/
  held : List SlaveFrame
deriving DecidableEq, Repr

def GwPort.reset : GwPort :=
  { mdata := [], cmd := none, started := false, frame := none, lines := [], fill := [], cont := false, waits := [], held := [] }

/-! Calibration (18_calibration.md). -/

/-- Trims of one channel (R431). -/
structure ChTrim where
  gain : Nat
  offset : Nat
  amp : Nat
deriving DecidableEq, Repr

/-- The trims of a record: globals and channels (R431). -/
structure Trims where
  iref : Nat
  tempOfs : Nat
  tempSlope : Nat
  ch : List ChTrim
deriving DecidableEq, Repr

/-- A channel during a calibration (R423, R429): blocks done of the 8 and 14 of steps 2 and 3, set aside for the retry phase,
failures of the next block, left untraced by a foreign field, and the engine's own copies of its results (R425). -/
structure ClChan where
  done : Nat
  aside : Bool
  fails : Nat
  lost : Bool
  trim : ChTrim
  txSpares : Nat
  cmpSpares : Nat
  capSpares : Nat
  factory : ChTrim
deriving DecidableEq, Repr

def ChTrim.zero : ChTrim := { gain := 0, offset := 0, amp := 0 }

def ClChan.start : ClChan :=
  { done := 0, aside := false, fails := 0, lost := false, trim := ChTrim.zero, txSpares := 0, cmpSpares := 0, capSpares := 0,
    factory := ChTrim.zero }

/-- The calibration engine beside its registers. -/
structure ClSt where
  /-- The next of the 48 and 84 regular blocks (R424). -/
  block : Nat
  chans : Vector ClChan 24
  /-- State codes of the references, their deviations, and the measured globals. -/
  refres : Nat
  reftone : Nat
  resDev : Int
  toneLvl : Int
  tonePpm : Int
  iref : Nat
  tempOfs : Nat
  tempSlope : Nat
  /-- The calibration restarts when PLL_A locks (R426). -/
  restart : Bool
  /-- Trims for the factory selection, held for a commit (R427). -/
  held : Trims
  /-- The commit under way: slot and record (R433). -/
  burn : Option (Nat × List Byte)
deriving DecidableEq, Repr

def Trims.zero : Trims := { iref := 0, tempOfs := 0, tempSlope := 0, ch := [] }

def ClSt.reset : ClSt :=
  { block := 0, chans := Vector.replicate 24 ClChan.start, refres := 3, reftone := 3, resDev := 0, toneLvl := 0, tonePpm := 0,
    iref := 0, tempOfs := 0, tempSlope := 0, restart := false, held := Trims.zero, burn := none }

/-! The fault handler (19_faults_identity.md). -/

/-- The fault handler in the boot ROM, while it runs (R440). -/
structure FdSt where
  handling : Bool
  /-- When the error was detected, as a counter value. -/
  entry : Nat
  /-- The handler has advanced FD_CRASH.NEXT and written COMMIT of its slot to 0 (R443). -/
  begun : Bool
  /-- The slot that the handler writes, and CRASH_SEQ of the event. -/
  slot : Nat
  seq : Nat
  /-- HART and DETAIL of the header, TIME_SET and CAUSE_PREV at t_f (R444). -/
  hart : Nat
  detail : List Byte
  timeSet : Bool
  cause : Nat
  /-- The power-fail source has been asserted during the handler. -/
  pfail : Bool
  /-- The hart records and RING_POS of the event, once the slot has been written (R444, R446). -/
  harts : List (List Byte)
  ring : Nat
deriving DecidableEq, Repr

/-- No handler runs. -/
def FdSt.reset : FdSt :=
  { handling := false, entry := 0, begun := false, slot := 0, seq := 0, hart := 255, detail := [], timeSet := false, cause := 0,
    pfail := false, harts := [], ring := 0 }

/-- Counters of Deck clocks: those inside the present millisecond of the watchdog (R445), and all since the last CORE reset, which the
machine timer divides by 4 (R329). -/
structure ClockSt where
  wdog : Nat
  deck : Nat
deriving DecidableEq, Repr

def ClockSt.reset : ClockSt := { wdog := 0, deck := 0 }

/-- Everything the part holds. -/
structure Dev where
  /-- Every register field that does not hold its reset value (the tables of spec/, Machine/Regs.lean). -/
  regs : RegFile
  /-- DRAM and MRAM by address (R24, R27), in canonical form. -/
  mem : List Host.Cell
  /-- The Tideclock's counter in units of 2⁻⁴⁰ ns (R332). -/
  time : Nat
  /-- Capstan (chapter 3). -/
  power : PowerSt
  /-- The boot ROM (chapter 4). -/
  boot : BootSt
  /-- The 24 RF channels and their Pontoons (chapters 5 to 8). -/
  chans : Vector Chan 24
  /-- The Tide scheduler, the survey and card detection (chapter 9). -/
  ts : TsSt
  /-- The 32 Landing queues (chapter 12). -/
  lq : Vector Queue 32
  /-- The words that the last command delivered to its path. The model's own. -/
  out : List Word
  /-- Counts the free values taken so far. The model's own. -/
  freeCtr : Nat
  /-- The counters of Deck clocks (R329, R445). -/
  clk : ClockSt
  /-- Crypto (chapter 10). -/
  cy : CySt
  /-- The key fuses (R82 to R84, R245). -/
  fuses : Fuses
  /-- The tamper epoch, an MRAM row outside the window (R237). -/
  epoch : Nat
  /-- HOLE (bit 0) and PAGE_END (bit 1) of the reply to the present Hawser access (R50). -/
  hawserStatus : Nat
  /-- The emulation instances (chapter 11). -/
  ce : Vector CeInst 8
  /-- The emulation shadow, by instance × 65 536 + offset, in canonical form (R274). -/
  shadow : List Host.Cell
  /-- HOLE (bit 0) and PAGE_END (bit 1) of the JTAG access status word (R50). -/
  jtagStatus : Nat
  /-- The runtime's services, the journal and the mailbox (chapter 13). -/
  sv : SvSt
  /-- The Tideclock beside its counter (chapter 14). -/
  tc : TcSt
  /-- Staged words by path and address (R35). -/
  stage : List (Path × Nat × Word)
  /-- The shadows of latched values (R34). -/
  latch : List Latch
  /-- Accesses to DRAM that wait for PLL_D, oldest first (R59). -/
  dramWait : List DramWait
  /-- The Gangway ports (chapter 17). -/
  gw : Vector GwPort 2
  /-- The Hawser's ports and router (chapter 15). -/
  hs : HsSt
  /-- The Ethernet ports (chapter 16). -/
  en : Vector EnPort 2
  /-- The qualified levels at the GPIO balls, bit m for GPIOm (R463). -/
  gpio : Nat
  /-- The calibration engine (chapter 18). -/
  cl : ClSt
  /-- The fault handler (chapter 19). -/
  fd : FdSt
  /-- The last access fault that a Pilot load (false) or store (true) took, and its address (R38, R439). -/
  pilotFault : Option (Bool × Nat)
deriving DecidableEq, Repr

/-- The part right after VAON first enters regulation: power-up step 1 of R52 under the COLD reset; every register at
its reset value. Values that the spec does not give are those of assumption 10. -/
def Dev.reset : Dev :=
  { regs := [],
    mem := [],
    time := 0,
    power := PowerSt.reset,
    boot := BootSt.reset,
    chans := Vector.replicate 24 Chan.reset,
    ts := TsSt.reset,
    lq := Vector.replicate 32 Queue.empty,
    out := [],
    freeCtr := 0,
    clk := ClockSt.reset,
    cy := CySt.reset,
    fuses := Fuses.blank,
    epoch := 0,
    hawserStatus := 0,
    ce := Vector.replicate 8 CeInst.reset,
    shadow := [],
    jtagStatus := 0,
    sv := SvSt.reset,
    tc := TcSt.reset,
    stage := [],
    latch := [],
    dramWait := [],
    gw := Vector.replicate 2 GwPort.reset,
    hs := HsSt.reset,
    en := Vector.replicate 2 EnPort.reset,
    gpio := 0,
    cl := ClSt.reset,
    fd := FdSt.reset,
    pilotFault := none }

/-- The state of the model: the part, and the commands that wait for it, first in first out. -/
structure State where
  /-- The waiting commands, the next one first. -/
  pending : List Instr
  /-- The part. -/
  dev : Dev
deriving DecidableEq, Repr

/-- The machine right after reset: the part after VAON's arrival, no command waiting. -/
def State.reset : State := { pending := [], dev := Dev.reset }

/-- Why a command stops the machine. No command of this part does: every outcome the spec describes is a next state. -/
inductive Fault
  /-- Raised by nothing; it keeps the type inhabited. Safe. -/
  | none
deriving DecidableEq, Repr

/-- Why a command has no meaning. -/
inductive Refusal
  /-- Raised by the dispatch for a row that has no meaning yet. Safe: the machine stops. -/
  | notModelled (mnemonic : String)
deriving DecidableEq, Repr

end Sys2Proof.Machine
end

