-- ==== Sys2Proof/Machine/Ops.lean ====
section
/-!
DEFINITION. The named operations over the state: register fields, memory bytes, vectors of units, packed words.
-/

namespace Sys2Proof.Machine

/-- Run an effect on the part; the waiting commands are not touched, and what the last command delivered is gone. -/
def State.act (s : State) (f : Dev → Dev) : Host.Outcome State Fault Refusal :=
  .next { s with dev := f { s.dev with out := [] } }

/-! Register fields. -/

/-- The value that a field holds. -/
def Dev.rd (d : Dev) (f : Fld) : Nat := d.regs.get f.bit f.rst

/-- Put a value into a field, modulo the field's width. -/
def Dev.wr (d : Dev) (f : Fld) (v : Nat) : Dev := { d with regs := d.regs.put f.bit f.rst (v % 2 ^ f.w) }

/-- Is a field other than zero? -/
def Dev.on (d : Dev) (f : Fld) : Bool := d.rd f != 0

/-- Apply an effect when a condition holds. -/
def Dev.when (d : Dev) (c : Bool) (f : Dev → Dev) : Dev := if c then f d else d

/-- Apply an effect for every element of a list, in order. -/
def Dev.each {α : Type} (d : Dev) (xs : List α) (f : α → Dev → Dev) : Dev := xs.foldl (fun d x => f x d) d

/-- A list of the numbers 0 to n - 1. -/
abbrev upTo (n : Nat) : List Nat := List.range n

/-- Take the next free value, and advance the counter of free values. -/
def Dev.free (d : Dev) : Nat × Dev := (Config.freeValue d.freeCtr, { d with freeCtr := d.freeCtr + 1 })

/-! Memory: bytes by address, in canonical form: addresses strictly rising, no entry equal to what an unlisted
address reads as (zero, assumption 11). -/

/-- A memory. -/
abbrev Memory := List Host.Cell

/-- The byte at address `a`; an unlisted address reads as zero (assumption 11). -/
def Memory.get : Memory → Nat → Byte
  | [], _ => 0
  | (k, v) :: m, a => if k = a then v else Memory.get m a

/-- Remove the entry of address `a`. -/
def Memory.drop : Memory → Nat → Memory
  | [], _ => []
  | (k, v) :: m, a => if k = a then Memory.drop m a else (k, v) :: Memory.drop m a

/-- Enter the byte `b` at address `a`, in order. -/
def Memory.enter : Memory → Nat → Byte → Memory
  | [], a, b => [(a, b)]
  | (k, v) :: m, a, b =>
    if k = a then (a, b) :: m else if a < k then (a, b) :: (k, v) :: m else (k, v) :: Memory.enter m a b

/-- Write one byte. -/
def Memory.set (m : Memory) (a : Nat) (b : Byte) : Memory := if b = 0 then m.drop a else m.enter a b

/-- Write consecutive bytes from `a` upward. -/
def Memory.write : Memory → Nat → List Byte → Memory
  | m, _, [] => m
  | m, a, b :: bs => Memory.write (m.set a b) (a + 1) bs

/-- Read `n` consecutive bytes from `a` upward. -/
def Memory.read (m : Memory) (a : Nat) : Nat → List Byte
  | 0 => []
  | n + 1 => m.get a :: Memory.read m (a + 1) n

/-- The canonical form. -/
def Memory.wf : Memory → Bool
  | [] => true
  | [(_, v)] => v != 0
  | (k, v) :: (k', v') :: m => v != 0 && k < k' && Memory.wf ((k', v') :: m)

/-- Forget every byte from `lo` to `hi - 1`. -/
def Memory.forget (m : Memory) (lo hi : Nat) : Memory := m.filter fun c => c.1 < lo || hi ≤ c.1

/-- The number that little-endian bytes hold (R28). -/
def leNat : List Byte → Nat
  | [] => 0
  | b :: bs => b.toNat + 256 * leNat bs

/-- The `n` little-endian bytes of a number (R28). -/
def leBytes : Nat → Nat → List Byte
  | 0, _ => []
  | n + 1, v => BitVec.ofNat 8 v :: leBytes n (v / 256)

/-- The number that big-endian bytes hold. -/
def beNat (bs : List Byte) : Nat := leNat bs.reverse

/-- The `n` big-endian bytes of a number. -/
def beBytes (n v : Nat) : List Byte := (leBytes n v).reverse

/-- The little-endian word at byte offset `o` of a byte list. -/
def le32At (bs : List Byte) (o : Nat) : Nat := leNat ((bs.drop o).take 4)

/-- The little-endian halfword at byte offset `o` of a byte list. -/
def le16At (bs : List Byte) (o : Nat) : Nat := leNat ((bs.drop o).take 2)

/-- The byte at offset `o` of a byte list, as a number. -/
def u8At (bs : List Byte) (o : Nat) : Nat := (bs.getD o 0).toNat

/-- The word at byte address `a` of a memory (R28). -/
def Memory.word (m : Memory) (a : Nat) : Nat := leNat (m.read a 4)

/-- Write a word at byte address `a` (R28). -/
def Memory.setWord (m : Memory) (a v : Nat) : Memory := m.write a (leBytes 4 v)

/-! Vectors of units. -/

/-- Element `i`, or `x` beyond the end. -/
def vget {α : Type} {n : Nat} (v : Vector α n) (i : Nat) (x : α) : α := v.toArray.toList.getD i x

/-- Change element `i`; beyond the end nothing changes. -/
def vmod {α : Type} {n : Nat} (v : Vector α n) (i : Nat) (f : α → α) : Vector α n :=
  if h : i < n then v.set i (f v[i]) else v

/-- Change element `i` of a list; beyond the end nothing changes. -/
def lmod {α : Type} : List α → Nat → (α → α) → List α
  | [], _, _ => []
  | x :: xs, 0, f => f x :: xs
  | x :: xs, i + 1, f => x :: lmod xs i f

end Sys2Proof.Machine
end

