-- ==== Sys2Proof/Machine/Operands.lean ====
section
/-!
DEFINITION. The operand forms: words packed from fields and taken apart, signed values, path codes, time formats.
-/

namespace Sys2Proof.Machine

/-- Pack a word from (lowest bit, width, value) triples. -/
def packW (fs : List (Nat × Nat × Nat)) : Word :=
  BitVec.ofNat 32 (fs.foldl (fun acc f => acc + (f.2.2 % 2 ^ f.2.1) * 2 ^ f.1) 0)

/-- Bits [hi:lo] of a number. -/
def bits (v hi lo : Nat) : Nat := v / 2 ^ lo % 2 ^ (hi + 1 - lo)

/-- Bit `i` of a number. -/
def bit (v i : Nat) : Bool := v / 2 ^ i % 2 == 1

/-- A number with bit `i` set. -/
def setBit (v i : Nat) : Nat := v ||| 2 ^ i

/-- A number with bit `i` clear. -/
def clearBit (v i : Nat) : Nat := if bit v i then v ^^^ 2 ^ i else v

/-- 1 for true, 0 for false. -/
def b2n (b : Bool) : Nat := if b then 1 else 0

/-- Two's complement value of the low `w` bits. -/
def toSigned (w v : Nat) : Int :=
  let u := v % 2 ^ w
  if u < 2 ^ (w - 1) then (u : Int) else (u : Int) - 2 ^ w

/-- The low `w` bits of the two's complement form. -/
def ofSigned (w : Nat) (v : Int) : Nat := (v % 2 ^ w).toNat

/-- A signed value cut to what `w` bits hold. -/
def clampSigned (w : Nat) (v : Int) : Int := max (-(2 ^ (w - 1))) (min v (2 ^ (w - 1) - 1))

/-- The SRC code of a path (R29). -/
def pathCode : Path → Nat
  | .gw0 => 0 | .gw1 => 1 | .pilot => 2 | .hawser => 3 | .jtag => 4 | .watchkeeper => 5

/-- The host side of the queues: every path but Pilot and Watchkeeper (R287). -/
def hostSide : Path → Bool
  | .gw0 | .gw1 | .hawser | .jtag => true
  | .pilot | .watchkeeper => false

/-- A word as a number. -/
abbrev wn (w : Word) : Nat := w.toNat

/-- A number as a word. -/
abbrev nw (n : Nat) : Word := BitVec.ofNat 32 n

/-- Word `i` of a list of words, as a number; 0 beyond the end. -/
def wordAt (ws : List Word) (i : Nat) : Nat := (ws.getD i 0).toNat

/-- The low and the high word of a 64-bit number. -/
def words64 (v : Nat) : List Word := [nw v, nw (v / 2 ^ 32)]

/-- A 64-bit number from a low and a high word. -/
def join64 (lo hi : Nat) : Nat := lo % 2 ^ 32 + 2 ^ 32 * (hi % 2 ^ 32)

/-- Bytes packed into words, the first byte in bits [7:0], the last word filled with zeros. -/
def bytesToWords : List Byte → List Word
  | [] => []
  | [a] => [nw a.toNat]
  | [a, b] => [nw (leNat [a, b])]
  | [a, b, c] => [nw (leNat [a, b, c])]
  | a :: b :: c :: d :: bs => nw (leNat [a, b, c, d]) :: bytesToWords bs

/-- The bytes of words, the lowest byte of each first. -/
def wordsToBytes : List Word → List Byte
  | [] => []
  | w :: ws => leBytes 4 w.toNat ++ wordsToBytes ws

end Sys2Proof.Machine
end

