-- ==== Sys2Proof/Machine/Flags.lean ====
section
/-!
DEFINITION. The status flags: raising and clearing them, counters that saturate or wrap, and the block error flags with
their capture (R30, R45).
-/

namespace Sys2Proof.Machine

/-- Set a flag. -/
def Dev.raise (d : Dev) (f : Fld) : Dev := d.wr f 1

/-- Clear a flag. -/
def Dev.lower (d : Dev) (f : Fld) : Dev := d.wr f 0

/-- Set a flag to a condition. -/
def Dev.flag (d : Dev) (f : Fld) (c : Bool) : Dev := d.wr f (b2n c)

/-- Set a flag where a condition holds. -/
def Dev.raiseIf (d : Dev) (c : Bool) (f : Fld) : Dev := if c then d.raise f else d

/-- Add to a counter that wraps at its width. -/
def Dev.count (d : Dev) (f : Fld) (k : Nat) : Dev := d.wr f (d.rd f + k)

/-- Add to a counter that saturates at its width's greatest value. -/
def Dev.countSat (d : Dev) (f : Fld) (k : Nat) : Dev := d.wr f (min (d.rd f + k) (2 ^ f.w - 1))

/-- Set bit `i` of a field. -/
def Dev.setBit (d : Dev) (f : Fld) (i : Nat) : Dev := d.wr f (Machine.setBit (d.rd f) i)

/-- Clear bit `i` of a field. -/
def Dev.clearBit (d : Dev) (f : Fld) (i : Nat) : Dev := d.wr f (Machine.clearBit (d.rd f) i)

/-- Is bit `i` of a field set? -/
def Dev.bitOn (d : Dev) (f : Fld) (i : Nat) : Bool := bit (d.rd f) i

/-- Bit `i` of a field becomes `c`. -/
def Dev.putBit (d : Dev) (f : Fld) (i : Nat) (c : Bool) : Dev := if c then d.setBit f i else d.clearBit f i

/-- What an access to a register can do wrong (R29). -/
structure AccErr where
  range : Bool
  locked : Bool
  width : Bool
deriving DecidableEq, Repr

/-- Record an access error in the header of the block at base `b`: the first error while every flag reads 0 is
captured (R30); the flags are set (R45). -/
def Dev.accessError (d : Dev) (b : Nat) (p : Path) (write : Bool) (addr : Nat) (e : AccErr) : Dev :=
  let first := !(d.on (ERR_LOCKED b) || d.on (ERR_WIDTH b) || d.on (ERR_RANGE b))
  let d := d.when first fun d =>
    ((d.wr (ERRADDR_SRC b) (pathCode p)).flag (ERRADDR_WRITE b) write).wr (ERRADDR_OFFSET b) (addr - b)
  ((d.raiseIf e.range (ERR_RANGE b)).raiseIf e.locked (ERR_LOCKED b)).raiseIf e.width (ERR_WIDTH b)

/-- A write refused with RANGE (R45). -/
def Dev.errRange (d : Dev) (p : Path) (addr : Nat) : Dev :=
  d.accessError (blockBase addr) p true (addr / 4 * 4) ⟨true, false, false⟩

/-- A write refused with LOCKED (R45). -/
def Dev.errLocked (d : Dev) (p : Path) (addr : Nat) : Dev :=
  d.accessError (blockBase addr) p true (addr / 4 * 4) ⟨false, true, false⟩

/-- A narrow store (R31). -/
def Dev.errWidth (d : Dev) (p : Path) (addr : Nat) : Dev :=
  d.accessError (blockBase addr) p true (addr / 4 * 4) ⟨false, false, true⟩

/-- Completion codes common to all blocks (R47). -/
abbrev cDONE : Nat := 0x00
abbrev cEMPTY : Nat := 0x01
abbrev cBUSY : Nat := 0x02
abbrev cRANGE : Nat := 0x03
abbrev cREFUSED : Nat := 0x04
abbrev cABORTED : Nat := 0x05

end Sys2Proof.Machine
end

