-- ==== Sys2Proof/Machine/Time.lean ====
section
/-!
DEFINITION. The Tideclock's counter as every other block reads it: network time, timestamps, slot times, and time that
passes (14_tideclock.md, R216, R499). An event that the spec places at an instant of network time counts the Tideclock
on to the first Deck clock that reaches the instant (assumption 4).
-/

namespace Sys2Proof.Machine

/-- Network time in whole nanoseconds. -/
def Dev.ns (d : Dev) : Nat := d.time / 2 ^ 40

/-- The 96-bit timestamp format of R334 for the counter value `t`. -/
def Dev.stampOf (d : Dev) (t : Nat) : List Word :=
  let ns := t / 2 ^ 40
  let sec := ns / 1000000000
  [packW [(31, 1, d.rd TC_STATUS_SET), (30, 1, d.rd TC_STATUS_HOLDOVER), (0, 30, ns % 1000000000)],
   nw sec, packW [(16, 16, sec / 2 ^ 32), (0, 16, t % 2 ^ 40 / 2 ^ 24)]]

/-- The timestamp of this instant. -/
def Dev.stamp (d : Dev) : List Word := d.stampOf d.time

/-- A timestamp that says "no time" (R334). -/
def noStamp : List Word := [0, 0, 0]

/-- Is the watchdog counting (R445)? It pauses while PLL_A is unlocked and in Watch. -/
def Dev.wdogCounts (d : Dev) : Bool :=
  d.on FD_WDOG_CFG_EN && !d.on FD_WDOG_STATUS_PAUSED

/-- Does the Deck clock run for Pilot, so that its machine timer counts: PLL_A is locked and no reset holds (R19, R60, R66)? -/
def Dev.timerCounts (d : Dev) : Bool := !d.on TC_STATUS_XTAL_MODE && d.power.hold.isNone

/-- The machine timer, at the Deck clock divided by 4 (R329): 64 bits. -/
def Dev.mtime (d : Dev) : Nat := d.clk.deck / 4 % 2 ^ 64

/-- `n` Deck clocks pass: the Tideclock adds one increment each (R333), the machine timer counts them (R329), and the watchdog too
(R445). -/
def Dev.elapse (d : Dev) (n : Nat) : Dev :=
  let sub := d.clk.wdog + n
  let deck := if d.timerCounts then d.clk.deck + n else d.clk.deck
  let d' := { d with time := d.time + n * d.rd TC_INC_INC }
  if d.wdogCounts then
    ({ d' with clk := { wdog := sub % 406800, deck := deck } }).countSat FD_WDOG_STATUS_ELAPSED (sub / 406800)
  else { d' with clk := { wdog := d.clk.wdog, deck := deck } }

/-- With no command waiting, the crystal counts on while the part is powered and has left the COLD reset: a Deck clock passes, or a
whole crystal period while PLL_A does not run (R19, R332, R333). -/
def Dev.tick (d : Dev) : Dev :=
  if d.power.step = .off || d.power.hold = some .cold then d else d.elapse (if d.on TC_STATUS_XTAL_MODE then 15 else 1)

/-- Deck clocks until the counter first reaches `ns` nanoseconds (R18); whole crystal periods while it counts from the
crystal (R19). -/
def Dev.clocksTo (d : Dev) (ns : Nat) : Nat :=
  let step := if d.on TC_STATUS_XTAL_MODE then 15 else 1
  let inc := step * d.rd TC_INC_INC
  if ns * 2 ^ 40 ≤ d.time || inc = 0 then 0
  else step * ((ns * 2 ^ 40 - d.time + inc - 1) / inc)

/-- The Tideclock counts on until it reaches `ns` nanoseconds. -/
def Dev.reach (d : Dev) (ns : Nat) : Dev := d.elapse (d.clocksTo ns)

/-- The millisecond of network time, which numbers the slots (R216). -/
def Dev.ms (d : Dev) : Nat := d.ns / 1000000

/-- Index in the tide cycle of the slot that starts at millisecond `m` (R216). -/
def Dev.slotIndex (d : Dev) (m : Nat) : Nat := m % max 1 (d.rd TS_CYCLE_SLOTS)

/-- The next slot boundary after this instant, in milliseconds. -/
def Dev.nextBoundary (d : Dev) : Nat := d.ms + 1

/-- The boundary whose point `lead` µs before it comes next. -/
def Dev.boundaryAfterLead (d : Dev) (leadUs : Nat) : Nat := (d.ns + leadUs * 1000) / 1000000 + 1

end Sys2Proof.Machine
end

