-- ==== Sys2Proof/Machine/Frames.lean ====
section
/-!
DEFINITION. Frames on the air: the CRCs of R159, the bits of a reply taken apart (R158, R160, R162), the frame
descriptor (R153), the timing and exchange words (R178).
-/

namespace Sys2Proof

/-- The value of a bit: the stronger decision, 1 where both are equal in strength (R139). -/
def Slice.bit (s : Slice) : Bool := decide (s.zero ≤ s.one)

/-- The bits of a frame. -/
def RxFrame.bits (f : RxFrame) : List Bool := f.slices.map Slice.bit

/-- Format faults of a frame other than parity and an incomplete character (R162). -/
def RxFrame.faults (f : RxFrame) : Nat := f.stops + Machine.b2n f.noEof

/-- The projection of a bit on the reference phase, or the difference of its two half-bits. -/
def Slice.span (s : Slice) : Nat := (s.one - s.zero) + (s.zero - s.one)

end Sys2Proof

namespace Sys2Proof.Machine

/-! Collision flags (R139). A level in dB is 10 times the logarithm of an energy and 20 times that of an amplitude, so that `a` lies more
than `D` dB below `b` where a^k * 10^D < b^k, with k = 10 or 20. -/

/-- Do two energies both stand, the weaker no more than `D` dB below the stronger? -/
def bothStand (db a b : Nat) : Bool := a != 0 && b != 0 && decide ((max a b) ^ 10 ≤ (min a b) ^ 10 * 10 ^ db)

/-- Does `x` lie more than `db` dB below the mean of `len` values whose sum is `sum`? -/
def belowMean (k db x sum len : Nat) : Bool := decide ((x * len) ^ k * 10 ^ db < sum ^ k)

/-- Is a bit of an OOK or FSK Manchester frame flagged? -/
def manchesterHit (db : Nat) (s : Slice) : Bool := bothStand db s.one s.zero || bothStand db s.u s.v

/-- Is a bit flagged whose projection falls short of the frame's mean while its energy `e` does not? -/
def spanHit (k db : Nat) (ss : List Slice) (e : Slice → Nat) (s : Slice) : Bool :=
  belowMean 20 db s.span ((ss.map Slice.span).sum) ss.length && !belowMean k 3 (e s) ((ss.map e).sum) ss.length

/-- The flagged bits of a frame, by protocol and rate code, with COLL_DB. -/
def flagsOf (proto rate db : Nat) (ss : List Slice) : List Nat :=
  let hit : Slice → Bool :=
    if proto = 3 || (proto = 1 && rate = 0) then manchesterHit db
    else if proto = 4 then spanHit 20 db ss (fun s => s.one + s.zero)
    else spanHit 10 db ss Slice.u
  (upTo ss.length).filter fun i => (ss[i]?).any hit

/-- One bit of a reflected CRC-16 with the polynomial of R159. -/
def crcBitR (c : Nat) : Nat := if c % 2 = 1 then (c / 2) ^^^ 0x8408 else c / 2

/-- One byte of a reflected CRC-16. -/
def crcByteR (c : Nat) (b : Byte) : Nat :=
  let c := c ^^^ b.toNat
  crcBitR (crcBitR (crcBitR (crcBitR (crcBitR (crcBitR (crcBitR (crcBitR c)))))))

/-- One bit of a CRC-16 that is not reflected. -/
def crcBitN (c : Nat) : Nat := if 0x8000 ≤ c then ((c * 2) % 65536) ^^^ 0x1021 else c * 2

/-- One byte of a CRC-16 that is not reflected. -/
def crcByteN (c : Nat) (b : Byte) : Nat :=
  let c := c ^^^ (b.toNat * 256)
  crcBitN (crcBitN (crcBitN (crcBitN (crcBitN (crcBitN (crcBitN (crcBitN c)))))))

/-- CRC_A (R159). -/
def crcA (bs : List Byte) : Nat := bs.foldl crcByteR 0x6363
/-- CRC_B and CRC_V (R159). -/
def crcB (bs : List Byte) : Nat := 0xFFFF - bs.foldl crcByteR 0xFFFF
/-- CRC_F (R159). -/
def crcF (bs : List Byte) : Nat := bs.foldl crcByteN 0

/-- The two CRC bytes in the order sent, by protocol (1 Type A, 2 Type B, 3 ISO/IEC 15693, 4 NFC-F). -/
def crcBytes (proto : Nat) (bs : List Byte) : List Byte :=
  if proto = 1 then leBytes 2 (crcA bs)
  else if proto = 4 then beBytes 2 (crcF bs)
  else leBytes 2 (crcB bs)

/-- The bytes that a frame carries on the air, CRC included. -/
def AirFrame.wire (f : AirFrame) : List Byte := if f.crc then f.bytes ++ crcBytes f.proto f.bytes else f.bytes

/-- Bits of a byte, least significant first. -/
def byteBits (b : Byte) : List Bool := (upTo 8).map fun i => bit b.toNat i

/-- The odd parity bit of a byte. -/
def oddParity (b : Byte) : Bool := ((byteBits b).filter id).length % 2 == 0

/-- A Type A byte with its odd parity bit; the last byte of a frame cut after `k` of its bits has none (R158, R160). -/
def bitsA (k : Nat) : List Byte → List Bool
  | [] => []
  | [b] => if k < 8 then (byteBits b).take k else byteBits b ++ [oddParity b]
  | b :: bs => byteBits b ++ oddParity b :: bitsA k bs

/-- A Type B character: start bit, data, stop bit (R158). -/
def charB (b : Byte) : List Bool := false :: byteBits b ++ [true]

/-- A pause in slot `p` of `n` slots (ISO/IEC 15693): the carrier is on in all but that one. -/
def pauseIn (n p : Nat) : List Bool := (upTo n).map fun i => i != p

/-- A byte in 1 out of 4 or 1 out of 256 coding. -/
def codeV (wide : Bool) (b : Byte) : List Bool :=
  if wide then pauseIn 512 (2 * b.toNat + 1)
  else ((upTo 4).map fun i => pauseIn 8 (2 * (b.toNat / 4 ^ i % 4) + 1)).flatten

/-- A frame as it is modulated, by bit-times, etu, or slots of ISO/IEC 15693 (R158, R160, R161). Type A: start bit, bytes and parity.
Type B: SOF of 10 etu low and 2 high, characters with no extra guard time, EOF of 10 etu low. ISO/IEC 15693: SOF, bytes, EOF. NFC-F: 48
zero bits, sync code, length, payload and CRC. -/
def AirFrame.air (f : AirFrame) : List Bool :=
  if f.proto = 1 then false :: bitsA f.lastBits f.wire
  else if f.proto = 2 then
    List.replicate 10 false ++ [true, true] ++ (f.wire.map charB).flatten ++ List.replicate 10 false
  else if f.proto = 3 then
    (if f.bytes.isEmpty then []
     else ((upTo 8).map fun i => i != 0 && i != (if Config.oneOf256 then 7 else 5)) ++ (f.wire.map (codeV Config.oneOf256)).flatten)
      ++ pauseIn 4 2
  else
    List.replicate 48 false ++ (([0xB2, 0x4D] ++ f.wire).map fun b => (byteBits b).reverse).flatten

/-- Split Type A reply bits into data bits with their frame index and the indices of parity bits that do not match
(R158, R160). `pos` is the position in the present byte, `ones` the ones counted in it, the reader's bits included. -/
def parseA : List Bool → Nat → Nat → Nat → List (Bool × Nat) × List Nat
  | [], _, _, _ => ([], [])
  | b :: bs, pos, ones, i =>
    if pos = 8 then
      let r := parseA bs 0 0 (i + 1)
      if (ones + b2n b) % 2 = 1 then r else (r.1, i :: r.2)
    else
      let r := parseA bs (pos + 1) (ones + b2n b) (i + 1)
      ((b, i) :: r.1, r.2)

/-- A byte from up to eight bits, least significant first. -/
def packLsb : List Bool → Nat
  | [] => 0
  | b :: bs => b2n b + 2 * packLsb bs

/-- Bytes from data bits; only whole bytes. `msb`: most significant bit first (NFC-F). -/
def packBytes (msb : Bool) : Nat → List Bool → List Byte
  | 0, _ => []
  | n + 1, bs =>
    if bs.length < 8 then []
    else
      let o := bs.take 8
      BitVec.ofNat 8 (packLsb (if msb then o.reverse else o)) :: packBytes msb n (bs.drop 8)

/-- A reply taken apart. -/
structure Parsed where
  /-- Data bits, with the index in the frame. -/
  data : List (Bool × Nat)
  /-- Whole bytes. -/
  bytes : List Byte
  /-- Bytes before the CRC, where the reply carries one. -/
  body : List Byte
  crcChecked : Bool
  crcOk : Bool
  /-- An unflagged parity bit does not match (R186). -/
  parityErr : Bool
  fmtErr : Bool
  fmtCount : Nat
  /-- All flags, those of R142 included. -/
  flags : List Nat
deriving DecidableEq, Repr

/-- Take a reply apart: protocol, whether it carries a CRC, the reader's known bits of a split byte and their ones, and
whether it is byte-oriented. The length byte of an NFC-F frame counts the bytes before its CRC (R158, R159). -/
def parseReply (proto : Nat) (hasCrc : Bool) (splitPos splitOnes : Nat) (byteFrame : Bool) (fr : RxFrame)
    (flags : List Nat) : Parsed :=
  let pa := if proto = 1 then parseA fr.bits splitPos splitOnes 0 else (fr.bits.zip (upTo fr.bits.length), [])
  let dataBits := pa.1.map (·.1)
  let bytes := packBytes (proto == 4) (dataBits.length / 8 + 1) dataBits
  let body := if hasCrc then bytes.take (bytes.length - 2) else bytes
  let whole := proto != 4 || u8At bytes 0 == body.length
  let ok := hasCrc && 2 ≤ bytes.length && whole && bytes.drop (bytes.length - 2) == crcBytes proto body
  let short := byteFrame && (if proto = 1 then fr.bits.length % 9 != 0 else dataBits.length % 8 != 0)
  let parity := pa.2.any (fun i => !flags.contains i)
  { data := pa.1, bytes := bytes, body := body, crcChecked := hasCrc, crcOk := ok, parityErr := parity,
    fmtErr := fr.faults != 0 || short || parity,
    fmtCount := fr.faults + pa.2.length + b2n short, flags := flags }

/-- The flags of a frame: those that its slices carry (`own`, R139) and those of the interference spans (R142). -/
def allFlags (own : List Nat) (len : Nat) (spans : List (Nat × Option Nat)) : List Nat :=
  (upTo len).filter fun i =>
    own.contains i || spans.any fun s => s.1 ≤ i && (match s.2 with | some e => i < e | none => true)

/-- The descriptor words of R153. -/
def descriptor (kind : Nat) (rx : RxSt) (fr : RxFrame) (diverged : Bool) (p : Parsed) (untraced : Bool) : List Word :=
  [packW [(28, 4, kind), (25, 3, rx.cur.oct), (24, 1, b2n p.crcOk), (23, 1, b2n p.crcChecked),
          (22, 1, b2n (!p.flags.isEmpty)), (21, 1, b2n (!rx.interf.isEmpty)), (20, 1, b2n rx.replayed),
          (19, 1, b2n rx.eqUsed), (18, 1, b2n (rx.eqUsed && diverged)), (17, 1, b2n rx.overload),
          (16, 1, b2n untraced), (0, 16, min fr.bits.length 65535)],
   packW [(24, 8, rx.cur.level), (16, 8, fr.sbAmp.toNat), (8, 8, fr.phase.toNat)],
   packW [(16, 16, min p.flags.length 65535), (0, 16, p.flags.headD 0xFFFF)]]

/-- The descriptor words of an unanswered arming (R153). -/
def noReplyDescriptor : List Word := [packW [(28, 4, 3)], 0, packW [(0, 16, 0xFFFF)]]

/-- Expected reply delay of a command in oct, where it has one (R167): for Type A it depends on the command's last bit;
for a polling it is that of the time slot nearest to the measured delay. -/
def expectedRs (f : AirFrame) (delay : Nat) : Option Nat :=
  match f.cls with
  | .aTimed =>
    let last := f.wire.getLastD 0
    let lastBit : Bool :=
      if f.lastBits < 8 then bit last.toNat (f.lastBits - 1)
      else oddParity last
    some ((if lastBit then 1236 else 1172) * 8)
  | .v => some (4320 * 8)
  | .fPoll slots =>
    let slot := (delay + 128 * 512 - 512 * 512) / (256 * 512)
    some ((512 + 256 * min slot (slots - 1)) * 512)
  | _ => none

/-- FWT in cc of an FWI (R170). -/
def fwtOf (fwi : Nat) : Nat := 4096 * 2 ^ fwi

/-- ΔFWT and FWTmax in cc (R167). -/
abbrev deltaFwt : Nat := 49152
abbrev fwtMax : Nat := 67108864

/-- The reply deadline in oct after CE (R167, R170, R171): LATE_TOL in cc, the session's FWI, and the WTXM of an extension
for this wait (0 for none; for another NFC-F command its response time in cc); none for a command that expects no reply. -/
def deadlineOct (f : AirFrame) (lateTol fwi wtxm : Nat) : Option Nat :=
  match f.cls with
  | .aTimed => (expectedRs f 0).map fun x => x + lateTol * 8
  | .rats => some ((71680 + deltaFwt) * 8)
  | .fOther => some (min wtxm fwtMax * 8)
  | .block | .raw =>
    some (((if wtxm = 0 then fwtOf fwi else min (fwtOf fwi * wtxm) fwtMax) + deltaFwt) * 8)
  | .bTimed => some ((7680 + lateTol) * 8)
  | .v => some ((4352 + lateTol) * 8)
  | .vWrite => some ((271200 + lateTol) * 8)
  | .fPoll slots => some (((512 + 256 * slots) * 64 + lateTol) * 8)
  | .none => none

/-- The timing word (R178). -/
def timingWord (e : Exch) (delay : Nat) : Word := packW [(30, 2, e.ref), (0, 30, min delay 0x3FFFFFFF)]

/-- Signed deviation from the expected reply start, in oct (R169). -/
def deviation (f : AirFrame) (delay : Nat) : Option Int :=
  match expectedRs f delay with
  | some x => some ((delay : Int) - (x : Int))
  | none => none

/-- The exchange word (R178). -/
def exchangeWord (e : Exch) (dev : Bool) (devOct : Int) (fmtErr : Bool) (fmtCount : Nat) : Word :=
  packW [(31, 1, b2n e.late), (30, 1, b2n dev), (29, 1, b2n fmtErr), (24, 5, min fmtCount 31),
         (16, 8, min e.wtx 255), (0, 16, if e.late then min e.lateOct 0x7FFF else ofSigned 16 (clampSigned 16 devOct))]

end Sys2Proof.Machine
end

