-- ==== Sys2Proof/Machine/Paths.lean ====
section
/-!
DEFINITION. The access paths: which blocks run, and what a path's own flags record of an access (R38 to R40, R50, R96).
-/

namespace Sys2Proof.Machine

/-- Do the CORE blocks run: power is up, no reset holds, the state is Run or Trim, PLL_A is locked and no wake is still
under way (R19, R40, R60, R63)? -/
def Dev.coreRuns (d : Dev) : Bool :=
  d.power.step == .up && d.power.hold.isNone && (d.rd PW_STATE_CUR == 1 || d.rd PW_STATE_CUR == 2)
    && d.on GC_STATUS_PLLA_LOCK && !d.power.waking

/-- Has the application of a Manifest completed, so that the blocks it places run (R76, R96)? They run while Pilot reloads (R63). -/
def Dev.applied (d : Dev) : Bool :=
  d.coreRuns && d.on DK_STATUS_LOADED && !d.on GC_BOOT_BARE
    && (d.boot.phase == .recover || d.boot.phase == .trim || d.boot.phase == .runtime || d.boot.phase == .reload)

/-- Does the block at base `b` answer (R40, R60, R96)? PW and the Tideclock run from VAON, the Tideclock from the crystal where PLL_A does
not run (R19, R355); in Bare deck only GC, FD, GW0 and the service interface run beside them. -/
def Dev.blockRuns (d : Dev) (b : Nat) : Bool :=
  if b = 0x1000 || b = 0x4000 then d.power.step != .off
  else d.coreRuns && (!d.on GC_BOOT_BARE || b == 0 || b == 0x3000 || b == 0x5000 || b == 0x34000 || b == 0x2000)

/-- The path records a hole (R36, R38, R39, R40, R50). -/
def Dev.hole (d : Dev) (p : Path) : Dev :=
  match p with
  | .gw0 => d.raise (GW_STATUS_HOLE 0)
  | .gw1 => d.raise (GW_STATUS_HOLE 1)
  | .hawser => { d with hawserStatus := Machine.setBit d.hawserStatus 0 }
  | .jtag => { d with jtagStatus := Machine.setBit d.jtagStatus 0 }
  | .pilot | .watchkeeper => d

/-- The path records the end of its region (R36, R50). -/
def Dev.pageEnd (d : Dev) (p : Path) : Dev :=
  match p with
  | .gw0 => d.raise (GW_STATUS_PAGE_END 0)
  | .gw1 => d.raise (GW_STATUS_PAGE_END 1)
  | .hawser => { d with hawserStatus := Machine.setBit d.hawserStatus 1 }
  | .jtag => { d with jtagStatus := Machine.setBit d.jtagStatus 1 }
  | .pilot | .watchkeeper => d

/-- Words are delivered to a path: a Gangway's read frame is then DONE (R407), and a Hawser peer's go into its reply (R378). -/
def Dev.give (d : Dev) (p : Path) (ws : List Word) : Dev :=
  if ws.isEmpty then d
  else
    let d := { d with out := d.out ++ ws }
    match p with
    | .gw0 => d.wr (GW_STATUS_CODE 0) cDONE
    | .gw1 => d.wr (GW_STATUS_CODE 1) cDONE
    | .hawser => { d with hs := { d.hs with got := d.hs.got ++ ws } }
    | .pilot | .jtag | .watchkeeper => d

/-- Until a read frame of a Gangway ends, CODE is that of the frame before (R407). -/
def frameCode (p : Path) (code : Nat) (d : Dev) : Dev :=
  match p with
  | .gw0 => if d.rd (GW_STATUS_CODE 0) = code then d else d.wr (GW_STATUS_CODE 0) code
  | .gw1 => if d.rd (GW_STATUS_CODE 1) = code then d else d.wr (GW_STATUS_CODE 1) code
  | _ => d

/-- A new access of a path begins: the status that accompanies its reply starts clear. -/
def Dev.beginAccess (d : Dev) (p : Path) : Dev :=
  match p with
  | .hawser => { d with hawserStatus := 0 }
  | .jtag => { d with jtagStatus := 0 }
  | _ => d

/-- Can a path carry an access now? A Gangway does in slave role while the CORE blocks run, GW1 not in Bare deck (R96, R399); Pilot
and a Hawser peer while they run; JTAG unless the part holds a customer key (R462); Watchkeeper does not run in Dormant (R60). -/
def Dev.pathOpen (d : Dev) : Path → Bool
  | .gw0 => d.coreRuns && !d.on (GW_CFG_ROLE 0)
  | .gw1 => d.coreRuns && !d.on GC_BOOT_BARE && !d.on (GW_CFG_ROLE 1)
  | .pilot => d.coreRuns
  | .hawser => d.applied
  | .jtag => d.power.step != .off && !d.boot.jtagClosed
  | .watchkeeper => d.power.step != .off && d.rd PW_STATE_CUR != 4

/-- An access to a register with a meaning of its own, in the block at base `b`: a hole where the block does not run
(R40), its words then reading 0. -/
def onPort (b : Nat) (p : Path) (f : Dev → Dev) (d : Dev) : Dev :=
  let d := d.beginAccess p
  if !d.pathOpen p then d
  else if d.blockRuns b then f d else (d.hole p).give p [0]

end Sys2Proof.Machine
end

