-- ==== Sys2Proof/Machine/Queue.lean ====
section
/-!
DEFINITION. Landing queues: items, markers, popping and the stall, a full queue, marks, flush, pushes (chapter
12_landing_queues.md).
-/

namespace Sys2Proof.Machine

/-- Queue `n`. -/
def Dev.q (d : Dev) (n : Nat) : Queue := vget d.lq n Queue.empty

/-- Change queue `n`. -/
def Dev.modQ (d : Dev) (n : Nat) (f : Queue → Queue) : Dev := { d with lq := vmod d.lq n f }

/-- SIZE of queue `n` in words (R292). -/
def Dev.qSize (d : Dev) (n : Nat) : Nat := d.rd (LQN_POOL_SIZE n) * 64

/-- The consumer of queue `n` is the host side (R12, R304). -/
def Dev.qHost (d : Dev) (n : Nat) : Bool := d.on (LQN_CFG_CONSUMER n)

/-- Does path `p` belong to the consumer of queue `n` (R287)? -/
def Dev.isConsumer (d : Dev) (p : Path) (n : Nat) : Bool :=
  if d.qHost n then hostSide p else p == .pilot

/-- Words of storage that an entry takes (R293). -/
def Entry.size (e : Entry) : Nat :=
  match e.body with
  | .item _ _ ws => ws.length + 1
  | .gap _ _ _ => 1
  | .flushed _ _ _ => 1

/-- The SEQ of an entry (R289). -/
def Entry.seq (e : Entry) : Nat :=
  match e.body with
  | .item _ s _ => s
  | .gap f _ _ => f
  | .flushed s _ _ => s

/-- An item header (R288). -/
def itemHeader (typ len : Nat) (sys replayed : Bool) (seq : Nat) : Word :=
  packW [(24, 8, typ), (15, 9, len), (14, 1, b2n sys), (13, 1, b2n replayed), (0, 12, seq)]

/-- The words an entry is delivered as (R288, R297, R299). -/
def Entry.words (e : Entry) : List Word :=
  match e.body with
  | .item t s ws => itemHeader t (ws.length + 1) false e.replayed s :: ws
  | .gap f c l => [itemHeader 0x02 2 true e.replayed f, packW [(12, 20, c), (0, 12, l)]]
  | .flushed s n cut => [itemHeader 0x03 2 true e.replayed s, packW [(1, 31, n), (0, 1, b2n cut)]]

/-- Is an entry a producer's item? -/
def Entry.isItem (e : Entry) : Bool :=
  match e.body with
  | .item _ _ _ => true
  | _ => false

/-- Stored words: waiting, retained and markers (LQn_WORDS.USED). -/
def Queue.used (q : Queue) : Nat :=
  (q.retained.map Entry.size).sum + (q.waiting.map Entry.size).sum

/-- Store a GAP marker that was held for want of a free word, once one is free (R296). -/
def Queue.settle (q : Queue) (size : Nat) : Queue :=
  match q.heldGap with
  | some (f, c, l) =>
    if q.used + 1 ≤ size then { q with heldGap := none, waiting := q.waiting ++ [⟨.gap f c l, false, false⟩] } else q
  | none => q

/-- Release the retained items and drop the mark as lost (R301). -/
def Queue.yieldMark (q : Queue) (size : Nat) : Queue :=
  Queue.settle { q with retained := [], mark := false, markLost := true } size

/-- Does an item of `len` words fit with one word left free (R296)? A held marker goes before it. -/
def Queue.fits (q : Queue) (size len : Nat) : Bool := q.heldGap.isNone && q.used + len + 1 ≤ size

/-- The last waiting entry takes in a dropped item, where it is a GAP marker whose delivery has not begun (R296). -/
def mergeGap : List Entry → Nat → Option (List Entry)
  | [], _ => none
  | [e], seq =>
    match e.body, e.begun with
    | .gap f c _, false => some [{ e with body := .gap f (min (c + 1) 1048575) seq }]
    | _, _ => none
  | e :: es, seq => (mergeGap es seq).map (e :: ·)

/-- Record a dropped item (R296, R297). -/
def Queue.gapFor (q : Queue) (size seq : Nat) : Queue :=
  match q.heldGap with
  | some (f, c, _) => { q with heldGap := some (f, min (c + 1) 1048575, seq) }
  | none =>
    match mergeGap q.waiting seq with
    | some ws => { q with waiting := ws }
    | none => Queue.settle { q with heldGap := some (seq, 1, seq) } size

/-- Deliver the next word at the head and remove it (R294); `none` on an empty queue. -/
def Queue.take (q : Queue) (size : Nat) : Option (Word × Queue) :=
  match q.waiting with
  | [] => none
  | e :: rest =>
    let w := e.words.getD q.popped 0
    if q.popped + 1 < e.words.length then
      some (w, { q with waiting := { e with begun := true } :: rest, popped := q.popped + 1 })
    else
      let e' := { e with begun := true }
      some (w, Queue.settle { q with waiting := rest, popped := 0,
                                     retained := if q.mark then q.retained ++ [e'] else q.retained } size)

/-- The EMPTY marker of queue `q` (R295). -/
def Queue.emptyMarker (q : Queue) : Word := packW [(24, 8, 0x01), (15, 9, 1), (14, 1, 1), (0, 12, q.nextIn)]

/-- Words that Pilot has popped of queue `i` and whose item it has not taken whole yet (R287). -/
def Dev.taken (d : Dev) (i : Nat) : List Word := ((d.sv.popped.find? (·.1 = i)).map (·.2)).getD []

/-- Set those words. -/
def Dev.setTaken (d : Dev) (i : Nat) (ws : List Word) : Dev :=
  { d with sv := { d.sv with popped := d.sv.popped.filter (·.1 ≠ i) ++ (if ws.isEmpty then [] else [(i, ws)]) } }

/-- Pilot has popped a word of a queue whose consumer it is. -/
def Dev.take1 (d : Dev) (i : Nat) (w : Word) : Dev := if d.qHost i then d else d.setTaken i (d.taken i ++ [w])

/-- Deliver up to `n` words of queue `i` to a waiting read: the words, and how many are still wanted. -/
def popWords (i : Nat) : Nat → Dev → List Word × Nat × Dev
  | 0, d => ([], 0, d)
  | n + 1, d =>
    match (d.q i).take (d.qSize i) with
    | none => ([], n + 1, d)
    | some (w, q') =>
      let r := popWords i n ((d.modQ i fun _ => q').take1 i w)
      (w :: r.1, r.2.1, r.2.2)

/-- Words beyond the end of an item, in a POP_ITEM frame (R408): zeros, and ITEM_END. -/
def beyondItem (p : Path) (k : Nat) (d : Dev) : Dev :=
  let d := d.give p (List.replicate k 0)
  match p with
  | .gw0 => d.raiseIf (k != 0) (GW_STATUS_ITEM_END 0)
  | .gw1 => d.raiseIf (k != 0) (GW_STATUS_ITEM_END 1)
  | _ => d

/-- Deliver `n` words confined to the item at the head, or to the rest of it (R408); the queue is not empty. -/
def popOneItem (p : Path) (i n : Nat) (d : Dev) : Dev :=
  let q := d.q i
  let left := match q.waiting with
    | [] => 0
    | e :: _ => e.words.length - q.popped
  let r := popWords i (min n left) d
  beyondItem p (n - left) (r.2.2.give p r.1)

/-- A read that has taken its turn waits behind the reads of the other paths, before a later one of its own path (R33). -/
def rotateRead (s : StalledRead) (ss : List StalledRead) : List StalledRead :=
  ss.takeWhile (·.path ≠ s.path) ++ s :: ss.dropWhile (·.path ≠ s.path)

/-- A stalled read is over: an ascending burst goes on behind it (R36). -/
def readOver (i : Nat) (s : StalledRead) (ss : List StalledRead) (d : Dev) : Dev :=
  d.modQ i fun q => { q with stalled := ss, resumed := q.resumed ++ s.behind.toList }

/-- Serve the reads that stall at queue `i` (R295): each takes one word at its turn, the paths in rotation from the oldest read on
(R33). The fuel is the number of words that they want. -/
def serveReads (i : Nat) : Nat → Dev → Dev
  | 0, d => d
  | k + 1, d =>
    match (d.q i).stalled, (d.q i).take (d.qSize i) with
    | s :: ss, some (w, q') =>
      let d := (((d.modQ i fun _ => q').take1 i w).give s.path [w])
      let ends := s.oneItem && q'.popped = 0
      let d := if ends then beyondItem s.path (s.words - 1) d else d
      serveReads i k
        (if s.words ≤ 1 || ends then readOver i s ss d
         else d.modQ i fun q => { q with stalled := rotateRead { s with words := s.words - 1, since := d.ns } ss })
    | _, _ => d

/-- Serve the reads that stall at queue `i` (R33, R295). -/
def serveStalled (i : Nat) (d : Dev) : Dev := serveReads i (((d.q i).stalled.map (·.words)).sum) d

/-- A producer completes an item on queue `i`: it takes a SEQ; it is stored, or makes room under R301 and is stored, or
is dropped into a GAP marker (R289, R290, R296, R301). -/
def Dev.post (d : Dev) (i : Nat) (typ : Nat) (payload : List Word) : Dev :=
  let size := d.qSize i
  if size = 0 then d else
  let len := payload.length + 1
  let q0 := d.q i
  let seq := q0.nextIn
  let q := { q0 with nextIn := (seq + 1) % 4096 }
  let tooLong := decide (size - 1 < len)
  let full27 := i == 27 && 16 ≤ (q.waiting.filter Entry.isItem).length + (q.retained.filter Entry.isItem).length
  let fit (q : Queue) : Bool := q.fits size len && !full27
  let yields := !tooLong && !fit q && q.mark && !q.retained.isEmpty && d.bitOn LQ_CFG_MARK_YIELD i
  let q := if yields then q.yieldMark size else q
  let d := d.raiseIf yields (LQN_STATUS_MARK_LOST_SEEN i)
  let full27' := i == 27 && 16 ≤ (q.waiting.filter Entry.isItem).length + (q.retained.filter Entry.isItem).length
  if !tooLong && q.fits size len && !full27' then
    serveStalled i (d.modQ i fun _ => { q with waiting := q.waiting ++ [⟨.item typ seq payload, false, false⟩] })
  else
    let d := (d.raiseIf tooLong (LQN_STATUS_OVERSIZE_SEEN i)).raise (LQN_STATUS_GAP_SEEN i)
    serveStalled i ((d.count (LQN_DROPPED_COUNT i) 1).modQ i fun _ => q.gapFor size seq)

/-- The MID_ITEM state of queue `i` (R294). -/
def Queue.mid (q : Queue) : Bool := q.popped != 0

/-- Items waiting, markers included (LQn_LEVEL). -/
def Queue.level (q : Queue) : Nat := q.waiting.length

/-- SEQ of the item at the head; on an empty queue the number of the next item (the worked example of chapter 12). -/
def Queue.nextOut (q : Queue) : Nat :=
  match q.waiting with
  | [] => q.nextIn
  | e :: _ => e.seq

/-- Does queue `i` raise its interrupt (R303)? -/
def Dev.qIrq (d : Dev) (i : Nat) : Bool :=
  let q := d.q i
  let th := d.rd (LQN_CFG_THRESH i)
  (d.on (LQN_CFG_IE_NONEMPTY i) && !q.waiting.isEmpty)
  || (d.on (LQN_CFG_IE_THRESH i) && th != 0 && th ≤ q.level)
  || (d.on (LQN_CFG_IE_GAP i) && d.on (LQN_STATUS_GAP_SEEN i))
  || (d.on (LQN_CFG_IE_MARK_LOST i) && d.on (LQN_STATUS_MARK_LOST_SEEN i))

/-- A read of LQn_POP by the side that is not the consumer (R294). -/
def Dev.popRefused (d : Dev) (p : Path) (i : Nat) : Dev :=
  let d := d.accessError 0x20000 p false (0x1000 + 0x40 * i + 0x20000) ⟨false, true, false⟩
  (d.raise (LQN_STATUS_REFUSED_SEEN i)).wr (LQN_STATUS_CODE i) cREFUSED

/-- A read of `n` words at LQn_POP: words of items, then a stall on an empty queue; with LQ_STALL = 0, and on an
absent queue, the EMPTY marker at once and zeros for the rest (R292, R295). -/
def popBurst (p : Path) (i n : Nat) (d : Dev) : Dev :=
  if n = 0 then d
  else if !d.isConsumer p i then (d.popRefused p i).give p (List.replicate n 0)
  else
    let r := popWords i n d
    let d := r.2.2.give p r.1
    if r.2.1 = 0 then d
    else if d.qSize i = 0 || d.rd LQ_STALL_STALL = 0 then
      d.give p ((d.q i).emptyMarker :: List.replicate (r.2.1 - 1) 0)
    else d.modQ i fun q => { q with stalled := q.stalled ++ [⟨p, r.2.1, false, none, d.ns⟩] }

/-- A POP_ITEM frame of `n` words (R408): one item, or the rest of one; on an empty queue as a read. -/
def popItemBurst (p : Path) (i n : Nat) (d : Dev) : Dev :=
  if n = 0 then d
  else if !d.isConsumer p i then (d.popRefused p i).give p (List.replicate n 0)
  else if !(d.q i).waiting.isEmpty then popOneItem p i n d
  else if d.qSize i = 0 || d.rd LQ_STALL_STALL = 0 then beyondItem p (n - 1) (d.give p [(d.q i).emptyMarker])
  else d.modQ i fun q => { q with stalled := q.stalled ++ [⟨p, n, true, none, d.ns⟩] }

/-- The stall of the oldest waiting read ends, LQ_STALL µs after it began: the EMPTY marker, zeros for the rest of the burst, STALL_SEEN
(R295). -/
def queueStallExpiry (i : Nat) (d : Dev) : Dev :=
  match (d.q i).stalled with
  | [] => d
  | s :: ss =>
    let d := d.reach (s.since + d.rd LQ_STALL_STALL * 1000)
    let d := d.give s.path [(d.q i).emptyMarker]
    let d := if s.oneItem then beyondItem s.path (s.words - 1) d else d.give s.path (List.replicate (s.words - 1) 0)
    (readOver i s ss d).raise (LQN_STATUS_STALL_SEEN i)

/-- A producer completes an item (R296). -/
def queueItemComplete (i typ : Nat) (payload : List Word) (d : Dev) : Dev := d.post i typ (payload.take 255)

/-- May path `p` push to queue `i` (R302)? -/
def mayPush (p : Path) (i : Nat) : Bool :=
  match p with
  | .pilot => i == 24 || i == 25
  | .watchkeeper => false
  | _ => i == 26

/-- The push buffer of a path. -/
def Queue.buf (q : Queue) (p : Path) : PushBuf := (q.push.find? (·.path = p)).getD ⟨p, [], 0⟩

/-- Set the push buffer of a path; an empty buffer has no entry. -/
def Queue.setBuf (q : Queue) (b : PushBuf) : Queue :=
  let rest := q.push.filter (·.path ≠ b.path)
  { q with push := if b.words.isEmpty && b.absorb = 0 then rest else rest ++ [b] }

/-- A word written to LQn_PUSH (R302): assembled into an item that completes with its last word. -/
def queuePushCmd (p : Path) (i : Nat) (w : Word) (d : Dev) : Dev :=
  let addr := 0x21004 + 0x40 * i
  if !mayPush p i then d.errLocked p addr
  else if d.qSize i = 0 then d
  else
    let b := (d.q i).buf p
    if b.absorb ≠ 0 then d.modQ i (·.setBuf { b with absorb := b.absorb - 1 })
    else
      let ws := b.words ++ [w]
      let h := wordAt ws 0
      let len := bits h 23 15
      let typ := bits h 31 24
      if b.words.isEmpty && (len = 0 || 256 < len || typ < 0x20) then d.errRange p addr
      else if ws.length < len then d.modQ i (·.setBuf { b with words := ws })
      else (d.modQ i (·.setBuf { b with words := [] })).post i typ (ws.drop 1)

/-- The guard of every consumer command but FLUSH: the consumer's side only (R298); an absent queue completes EMPTY
(R292). -/
def consumerCmd (p : Path) (i : Nat) (f : Dev → Dev) (d : Dev) : Dev :=
  if !d.isConsumer p i then d.wr (LQN_STATUS_CODE i) cREFUSED
  else if d.qSize i = 0 then d.wr (LQN_STATUS_CODE i) cEMPTY
  else f d

/-- DROP_REST (R298). -/
def dropRestCmd (p : Path) (i : Nat) (d : Dev) : Dev :=
  consumerCmd p i (fun d =>
    if !(d.q i).mid then d.wr (LQN_STATUS_CODE i) cEMPTY
    else
      let size := d.qSize i
      ((d.setTaken i []).modQ i fun q =>
        match q.waiting with
        | [] => q
        | e :: rest => Queue.settle { q with waiting := rest, popped := 0,
                                             retained := if q.mark then q.retained ++ [e] else q.retained } size).wr
        (LQN_STATUS_CODE i) cDONE) d

/-- Words that a push buffer still has to take for its item. -/
def PushBuf.missing (b : PushBuf) : Nat :=
  if b.words.isEmpty then b.absorb else bits (wordAt b.words 0) 23 15 - b.words.length

/-- FLUSH takes effect (R299). -/
def Queue.flush (q : Queue) : Queue :=
  let cut := q.push.any fun b => !b.words.isEmpty
  let n := (q.waiting.filter Entry.isItem).length
  { q with retained := [], popped := 0, heldGap := none, mark := false,
           waiting := [⟨.flushed q.nextIn n cut, false, false⟩],
           push := (q.push.map fun b => { b with words := [], absorb := b.missing }).filter (·.absorb ≠ 0) }

/-- FLUSH (R298, R299): the consumer's side, or Pilot whatever the consumer. -/
def flushCmd (p : Path) (i : Nat) (d : Dev) : Dev :=
  if !(d.isConsumer p i || p == .pilot) then d.wr (LQN_STATUS_CODE i) cREFUSED
  else if d.qSize i = 0 then d.wr (LQN_STATUS_CODE i) cEMPTY
  else
    serveStalled i ((((d.setTaken i []).modQ i Queue.flush).raise (LQN_STATUS_FLUSH_SEEN i)).wr (LQN_STATUS_CODE i) cDONE)

/-- MARK (R300): the mark stands at the start of the item at the head; what the old mark retained is released. -/
def markCmd (p : Path) (i : Nat) (d : Dev) : Dev :=
  consumerCmd p i (fun d =>
    let size := d.qSize i
    (d.modQ i fun q => Queue.settle { q with mark := true, markLost := false, retained := [] } size).wr
      (LQN_STATUS_CODE i) cDONE) d

/-- REWIND (R300, R301). -/
def rewindCmd (p : Path) (i : Nat) (d : Dev) : Dev :=
  consumerCmd p i (fun d =>
    let q := d.q i
    if q.mark then
      let again (e : Entry) : Entry := { e with replayed := true }
      let head := match q.waiting, q.mid with
        | e :: rest, true => again e :: rest
        | ws, _ => ws
      serveStalled i (((d.setTaken i []).modQ i fun q => { q with waiting := q.retained.map again ++ head, retained := [], popped := 0 }).wr
        (LQN_STATUS_CODE i) cDONE)
    else d.wr (LQN_STATUS_CODE i) (if q.markLost then 0x10 else cREFUSED)) d

/-- CLEAR_MARK (R298). -/
def clearMarkCmd (p : Path) (i : Nat) (d : Dev) : Dev :=
  consumerCmd p i (fun d =>
    let q := d.q i
    if !q.mark && !q.markLost then d.wr (LQN_STATUS_CODE i) cEMPTY
    else
      let size := d.qSize i
      (d.modQ i fun q => Queue.settle { q with mark := false, markLost := false, retained := [] } size).wr
        (LQN_STATUS_CODE i) cDONE) d

/-- The consumer has changed: reads of the other side that stall are refused from their next word on (R294, R304; DEDUCED, assumption
22). -/
def refuseStalled (i : Nat) (d : Dev) : Dev :=
  d.each ((d.q i).stalled.filter fun s => !d.isConsumer s.path i) fun s d =>
    readOver i s ((d.q i).stalled.erase s) ((d.popRefused s.path i).give s.path (List.replicate s.words 0))

/-- A write of LQn_CFG (R304, R45): refused whole where it would change CONSUMER from a path other than Pilot or in
mid-item; refused whole where THRESH is out of range. -/
def queueCfgWriteCmd (p : Path) (i : Nat) (w : Word) (d : Dev) : Dev :=
  let v := wn w
  let addr := 0x21010 + 0x40 * i
  let changes := bits v 31 31 != d.rd (LQN_CFG_CONSUMER i)
  let locked := changes && (p != .pilot || (d.q i).mid)
  let range := decide (524288 < bits v 19 0)
  if locked || range then d.accessError 0x20000 p true addr ⟨range, locked, false⟩
  else
    refuseStalled i <| (((((d.wr (LQN_CFG_CONSUMER i) (bits v 31 31)).wr (LQN_CFG_IE_MARK_LOST i) (bits v 27 27)).wr
      (LQN_CFG_IE_GAP i) (bits v 26 26)).wr (LQN_CFG_IE_THRESH i) (bits v 25 25)).wr
      (LQN_CFG_IE_NONEMPTY i) (bits v 24 24)).wr (LQN_CFG_THRESH i) (bits v 19 0)

/-! The meanings of the rows of this family. -/

/-- QUEUE_STALL_EXPIRY (R295): LQ_STALL µs pass without a visible item, and the stalled read returns the EMPTY marker. -/
def execQueueStallExpiry (q : Fin 32) (s : State) : Host.Outcome State Fault Refusal :=
  s.act (queueStallExpiry q.val)

/-- QUEUE_ITEM_COMPLETE (R296): A producer completes an item; it takes a SEQ and is stored, or makes room under R301, or is dropped into a GAP marker. -/
def execQueueItemComplete (q : Fin 32) (typ : Byte) (payload : List Word) (s : State) : Host.Outcome State Fault Refusal :=
  s.act (queueItemComplete q.val typ.toNat payload)

/-- QUEUE_PUSH (R302): A word written to LQn_PUSH is assembled into a software item, or the push is refused. -/
def execQueuePush (p : Path) (q : Fin 32) (w : Word) (s : State) : Host.Outcome State Fault Refusal :=
  s.act (onPort 0x20000 p (queuePushCmd p q.val w))

/-- DROP_REST (R298): Consumer command 0x1 removes the rest of the partly popped item. -/
def execDropRest (p : Path) (q : Fin 32) (s : State) : Host.Outcome State Fault Refusal :=
  s.act (onPort 0x20000 p (dropRestCmd p q.val))

/-- FLUSH (R299): Consumer command 0x2 removes every item and the mark and leaves a FLUSHED marker. -/
def execFlush (p : Path) (q : Fin 32) (s : State) : Host.Outcome State Fault Refusal :=
  s.act (onPort 0x20000 p (flushCmd p q.val))

/-- MARK (R300): Consumer command 0x3 sets the mark at the head item. -/
def execMark (p : Path) (q : Fin 32) (s : State) : Host.Outcome State Fault Refusal :=
  s.act (onPort 0x20000 p (markCmd p q.val))

/-- REWIND (R300): Consumer command 0x4 returns the head to the mark and redelivers retained items with REPLAYED. -/
def execRewind (p : Path) (q : Fin 32) (s : State) : Host.Outcome State Fault Refusal :=
  s.act (onPort 0x20000 p (rewindCmd p q.val))

/-- CLEAR_MARK (R298): Consumer command 0x5 removes the mark, releases retained items and clears MARK_LOST. -/
def execClearMark (p : Path) (q : Fin 32) (s : State) : Host.Outcome State Fault Refusal :=
  s.act (onPort 0x20000 p (clearMarkCmd p q.val))

/-- QUEUE_CFG_WRITE (R304): A write of LQn_CFG sets interrupt fields and THRESH, or is refused when it would change CONSUMER from outside Pilot. -/
def execQueueCfgWrite (p : Path) (q : Fin 32) (w : Word) (s : State) : Host.Outcome State Fault Refusal :=
  s.act (onPort 0x20000 p (queueCfgWriteCmd p q.val w))

end Sys2Proof.Machine
end

