-- ==== Sys2Proof/Machine/Chan.lean ====
section
/-!
DEFINITION. Shared operations on a channel: access to its parts, its Manifest declaration, its power, whether the core
runs.
-/

namespace Sys2Proof.Machine

/-- Channel `n`. -/
def Dev.chan (d : Dev) (n : Nat) : Chan := vget d.chans n Chan.reset

/-- Change channel `n`. -/
def Dev.modChan (d : Dev) (n : Nat) (f : Chan → Chan) : Dev := { d with chans := vmod d.chans n f }

/-- Change the field of channel `n`. -/
def Dev.modField (d : Dev) (n : Nat) (f : FieldSt → FieldSt) : Dev := d.modChan n fun c => { c with field := f c.field }

/-- Change the receiver of channel `n`. -/
def Dev.modRx (d : Dev) (n : Nat) (f : RxSt → RxSt) : Dev := d.modChan n fun c => { c with rx := f c.rx }

/-- Context `k` of a channel. -/
def Chan.context (c : Chan) (k : Nat) : Ctx := vget c.ctx k Ctx.free

/-- TAG items that the round under way still owes: of the tag that it is disposing of, and of those that it is still to quiet (R194). -/
def Chan.tagsDue (c : Chan) : Nat :=
  match c.job with
  | some (.inv i) => b2n i.tagNow.isSome + i.toQuiet.length
  | _ => 0

/-- Queue an item of channel `n`; it waits behind the TAG items of earlier frames that are still due (R13). -/
def postIn (n typ : Nat) (payload : List Word) (d : Dev) : Dev :=
  let k := (d.chan n).tagsDue
  if k = 0 then d.post n typ payload else d.modChan n fun c => { c with behind := c.behind ++ [(k, typ, payload)] }

/-- Queue the items that wait behind no TAG item any more, once `k` more have been queued. -/
def postBehind (n k : Nat) (d : Dev) : Dev :=
  let bs := (d.chan n).behind
  let d := d.modChan n fun c => { c with behind := (c.behind.filter (k < ·.1)).map fun x => (x.1 - k, x.2) }
  d.each (bs.filter (·.1 ≤ k)) fun x => fun d => d.post n x.2.1 x.2.2

/-- Change context `k` of channel `n`. -/
def Dev.modCtx (d : Dev) (n k : Nat) (f : Ctx → Ctx) : Dev := d.modChan n fun c => { c with ctx := vmod c.ctx k f }

/-- The lowest free context (R194, R201). -/
def Chan.freeCtx (c : Chan) : Option Nat := (upTo 8).find? fun k => (c.context k).st == 0

/-- The CHANNELS entry of channel `n` in the applied Manifest (R86); none before one is applied. -/
def Dev.decl (d : Dev) (n : Nat) : ChanDecl :=
  match d.boot.manifest with
  | some m => m.channels.getD n ⟨0, 0, 0, 0⟩
  | none => ⟨0, 0, 0, 0⟩

/-- Coils declared for channel `n` (R7). -/
def Dev.coils (d : Dev) (n : Nat) : Nat := (d.decl n).coils

/-- Has the channel a reader Pontoon (R86)? -/
def Dev.reader (d : Dev) (n : Nat) : Bool := bit (d.decl n).role 0

/-- Has the channel an emulation Pontoon (R86)? -/
def Dev.emulates (d : Dev) (n : Nat) : Bool := bit (d.decl n).role 1

/-- Is the channel's reader Pontoon a VHBR Pontoon (R20)? -/
def Dev.vhbr (d : Dev) (n : Nat) : Bool :=
  match d.boot.manifest with
  | some m => m.deck.any fun p => p.func == 2 && p.channel == n
  | none => false

/-- Is the berth one that exists (R7)? -/
def Dev.berthExists (d : Dev) (b : Nat) : Bool := b / 64 < 24 && b % 64 < d.coils (b / 64)

/-- Berth number (R7). -/
def berthOf (ch coil : Nat) : Nat := ch * 64 + coil

/-- Commanded output power P(c) in 10 mW units, rounded up (R102). -/
def powerOf (c : Nat) : Nat := (150 * c * c + 1023 * 1023 - 1) / (1023 * 1023)

/-- Is the field energised (CHn_TX_STATUS.FIELD_ON)? -/
def FieldSt.lit (f : FieldSt) : Bool :=
  match f.st with
  | .rampUp | .on | .resetDown | .rampDown => true
  | .off | .supply | .resetOff => false

/-- The highest code whose power is within `m` (R103). -/
def topCode (m : Nat) : Nat := ((upTo 1024).filter fun c => powerOf c ≤ m).length - 1

/-- The frame-start timestamp of the record of a reply: its timestamp words. -/
def Corr.words (c : Corr) : List Word := c.stamp

/-- The coil that channel `n` has selected (R118). -/
def Dev.selected (d : Dev) (n : Nat) : Nat := d.rd (CH_SEL_STATUS_COIL n)

/-! Select frames (R119). -/

/-- Bits b7 to b0 of a frame: ON, PAR, which makes the number of ones odd, and the coil index. -/
def selectBits (on : Bool) (coil : Nat) : Nat :=
  let v := if on then 0x80 + coil % 64 else 0
  if ((upTo 8).filter (bit v)).length % 2 = 0 then v + 0x40 else v

/-- Half periods of SELCLK since the start of a frame, `none` outside it: edge k rises at half period 2k - 1 and falls at 2k, for k = 1
to 9. A carrier cycle is 25000 / 339 ns. -/
def SelFrame.half (f : SelFrame) (ns : Nat) : Option Nat :=
  let h := (ns - f.start) * 678 / (25000 * f.cc)
  if f.cc = 0 || ns < f.start || 18 ≤ h then none else some h

/-- Is a select frame of group `g` in progress (R127)? -/
def Dev.selBusy (d : Dev) (g : Nat) : Bool := (upTo 4).any fun j => ((d.chan (4 * g + j)).field.sel.half d.ns).isSome

/-- The level of SELCLKg, low outside frames (R118, R122). -/
def Dev.selclk (d : Dev) (g : Nat) : Bool :=
  match (d.chan (4 * g)).field.sel.half d.ns with
  | some h => h % 2 = 1
  | none => false

/-- The level of SELDn: b7 first, changing as SELCLK falls, low at edge 9 and outside frames. -/
def Dev.seld (d : Dev) (n : Nat) : Bool :=
  let f := (d.chan n).field.sel
  match f.half d.ns with
  | some h => h < 16 && bit f.byte (7 - h / 2)
  | none => false

/-- Is the frame of channel `n` still before its apply edge, which is rising edge 9? -/
def Dev.selPending (d : Dev) (n : Nat) : Bool :=
  match (d.chan n).field.sel.half d.ns with
  | some h => h < 17
  | none => false

/-- Channel `n` sends a selection in a frame that starts now, with a SELCLK period of `cc` carrier cycles. -/
def sendSelect (n cc : Nat) (on : Bool) (coil : Nat) (d : Dev) : Dev :=
  let f : SelFrame := { byte := selectBits on coil, start := d.ns, cc := cc, oldOn := d.on (CH_SEL_STATUS_ON n), oldCoil := d.selected n }
  (((d.count (CH_SEL_STATUS_FRAMES n) 1).flag (CH_SEL_STATUS_ON n) on).wr (CH_SEL_STATUS_COIL n) (if on then coil else 0)).modField n
    fun x => { x with sel := f }

end Sys2Proof.Machine
end

