-- ==== Sys2Proof/Machine/Cipher.lean ====
section
/-!
DEFINITION. The modes and derivations that Crypto builds on its primitives: CBC, CMAC, key wrap, session keys, secure
messaging (R237, R239, R243, R247 to R250), and the random source.
-/

namespace Sys2Proof.Machine

/-- Exclusive or of byte strings. -/
def xorBytes (a b : List Byte) : List Byte := List.zipWith (· ^^^ ·) a b

/-- `n` zero bytes. -/
def zeros (n : Nat) : List Byte := List.replicate n 0

/-- AES-CBC encryption of `n` blocks (R247, R249). -/
def cbcEncrypt (key : List Byte) : Nat → List Byte → List Byte → List Byte
  | 0, _, _ => []
  | n + 1, iv, bs =>
    let c := Config.aesEncrypt key (xorBytes iv (bs.take 16))
    c ++ cbcEncrypt key n c (bs.drop 16)

/-- AES-CBC decryption of `n` blocks. -/
def cbcDecrypt (key : List Byte) : Nat → List Byte → List Byte → List Byte
  | 0, _, _ => []
  | n + 1, iv, bs =>
    xorBytes iv (Config.aesDecrypt key (bs.take 16)) ++ cbcDecrypt key n (bs.take 16) (bs.drop 16)

/-- Doubling in the field of CMAC (AES-CMAC is the PRF of R248). -/
def cmacDouble (b : List Byte) : List Byte :=
  let v := beNat b
  let w := (v * 2) % 2 ^ 128
  beBytes 16 (if 2 ^ 127 ≤ v then w ^^^ 0x87 else w)

/-- The chaining of CMAC over whole blocks. -/
def cmacChain (key : List Byte) : Nat → List Byte → List Byte → List Byte
  | 0, x, _ => x
  | n + 1, x, bs => cmacChain key n (Config.aesEncrypt key (xorBytes x (bs.take 16))) (bs.drop 16)

/-- AES-CMAC (R239, R248, R249). -/
def cmac (key msg : List Byte) : List Byte :=
  let k1 := cmacDouble (Config.aesEncrypt key (zeros 16))
  let n := (msg.length - 1) / 16
  let last := msg.drop (16 * n)
  let final :=
    if last.length = 16 then xorBytes last k1
    else xorBytes (last ++ [0x80] ++ zeros (15 - last.length)) (cmacDouble k1)
  cmacChain key (n + 1) (zeros 16) (msg.take (16 * n) ++ final)

/-- One pass of the key wrap of NIST SP 800-38F over the registers: A, done registers, registers left, counter. -/
def wrapPass (key : List Byte) (a : List Byte) (done : List Byte) : List Byte → Nat → Nat → List Byte × List Byte
  | _, 0, _ => (a, done)
  | r, n + 1, t =>
    let b := Config.aesEncrypt key (a ++ r.take 8)
    wrapPass key (xorBytes (b.take 8) (beBytes 8 t)) (done ++ b.drop 8) (r.drop 8) n (t + 1)

/-- The six passes of the key wrap. -/
def wrapPasses (key : List Byte) : Nat → List Byte → List Byte → Nat → Nat → List Byte
  | 0, a, r, _, _ => a ++ r
  | k + 1, a, r, n, t =>
    let p := wrapPass key a [] r n t
    wrapPasses key k p.1 p.2 n (t + n)

/-- AES key wrap (R239, R243). -/
def keyWrap (key plain : List Byte) : List Byte :=
  wrapPasses key 6 (List.replicate 8 0xA6) plain (plain.length / 8) 1

/-- One pass of the unwrap, from the last register to the first: A, registers left to take, done. -/
def unwrapPass (key : List Byte) (a : List Byte) (done : List Byte) (r : List Byte) : Nat → Nat → List Byte × List Byte
  | 0, _ => (a, done)
  | n + 1, t =>
    let b := Config.aesDecrypt key (xorBytes a (beBytes 8 t) ++ (r.drop (8 * n)).take 8)
    unwrapPass key (b.take 8) (b.drop 8 ++ done) r n (t - 1)

/-- The six passes of the unwrap. -/
def unwrapPasses (key : List Byte) : Nat → List Byte → List Byte → Nat → Nat → List Byte × List Byte
  | 0, a, r, _, _ => (a, r)
  | k + 1, a, r, n, t =>
    let p := unwrapPass key a [] r n t
    unwrapPasses key k p.1 p.2 n (t - n)

/-- AES key unwrap; `none` where its integrity check fails. -/
def keyUnwrap (key wrapped : List Byte) : Option (List Byte) :=
  let n := (wrapped.length - 8) / 8
  let p := unwrapPasses key 6 (wrapped.take 8) (wrapped.drop 8) n (6 * n)
  if p.1 = List.replicate 8 0xA6 then some p.2 else none

/-- Key length in bytes of a LEN code (R235). -/
def keyBytes (len : Nat) : Nat := 16 + 8 * len

/-- One session key of R248: label byte 0x01 or 0x02. -/
def deriveKey (k : List Byte) (label : Nat) (ra rb : List Byte) : List Byte :=
  let l := k.length * 8
  let block (i : Nat) := cmac k ([BitVec.ofNat 8 i, BitVec.ofNat 8 label, 0] ++ ra ++ rb ++ beBytes 2 l)
  ((block 1) ++ (if 128 < l then block 2 else [])).take k.length

/-- Padding of ISO/IEC 7816-4 to a multiple of 16 (R249). -/
def pad16 (bs : List Byte) : List Byte := bs ++ [0x80] ++ zeros (15 - bs.length % 16)

/-- Remove that padding, from the end, with at most `n` zero bytes; `none` where it is wrong (R250). -/
def unpadRev : Nat → List Byte → Option (List Byte)
  | _, [] => none
  | 0, b :: bs => if b = 0x80 then some bs.reverse else none
  | n + 1, b :: bs => if b = 0x80 then some bs.reverse else if b = 0 then unpadRev n bs else none

/-- The IV of secure messaging: direction byte and counter (R249, R250). -/
def smIv (kEnc : List Byte) (dir c : Nat) : List Byte :=
  Config.aesEncrypt kEnc ([BitVec.ofNat 8 dir] ++ beBytes 4 c ++ zeros 11)

/-- The MAC of secure messaging: the first 8 bytes of a CMAC (R249, R250). -/
def smMac (kMac : List Byte) (dir c : Nat) (msg : List Byte) : List Byte :=
  (cmac kMac ([BitVec.ofNat 8 dir] ++ beBytes 4 c ++ msg)).take 8

/-- The secured command APDU of R249. -/
def smWrap (s : SmSession) (cla ins p1 p2 le : Nat) (plain : List Byte) : List Byte :=
  let b (n : Nat) : Byte := BitVec.ofNat 8 n
  let hdr := [b (cla ||| 0x0C), b ins, b p1, b p2]
  let padded := pad16 plain
  let e := if plain.isEmpty then [] else cbcEncrypt s.kEnc (padded.length / 16) (smIv s.kEnc 0 s.c) padded
  let m := smMac s.kMac 0 s.c (hdr ++ e)
  hdr ++ [b (e.length + 8)] ++ e ++ m ++ (if 0 < le then [b (le % 256)] else [])

/-- The outcome of a secured reply (R250): the plaintext with its status word; `none` for a failed MAC or padding. -/
def smUnwrap (s : SmSession) (reply : List Byte) : Option (List Byte) :=
  let n := reply.length
  if n < 10 || (n - 10) % 16 ≠ 0 then none
  else
    let e := reply.take (n - 10)
    let m := (reply.drop (n - 10)).take 8
    let sw := reply.drop (n - 2)
    if m ≠ smMac s.kMac 1 s.c (e ++ sw) then none
    else if e.isEmpty then some sw
    else
      match unpadRev 15 (cbcDecrypt s.kEnc (e.length / 16) (smIv s.kEnc 1 s.c) e).reverse with
      | some p => some (p ++ sw)
      | none => none

/-- `n` bytes of the DRBG (R258). -/
def Dev.random (d : Dev) (n : Nat) : List Byte × Dev :=
  ((upTo n).map fun i => Config.drbgByte (d.freeCtr + i), { d with freeCtr := d.freeCtr + n, cy := { d.cy with requests := d.cy.requests + 1 } })

/-- Can the DRBG deliver (R258, R259)? -/
def Dev.entropy (d : Dev) : Bool := d.on CY_TRNG_READY && !d.on CY_TRNG_HALT

/-- Do both tamper loops follow their guards (R257)? -/
def Dev.loopsClosed (d : Dev) : Bool := d.on CY_TAMPER_LOOP0_OK && d.on CY_TAMPER_LOOP1_OK

/-- The key in slot `k` (R235). -/
def Dev.keySlot (d : Dev) (k : Nat) : Option KeySlot := vget d.cy.slots k none

end Sys2Proof.Machine
end

