-- ==== Sys2Proof/Machine/Sessions.lean ====
section
/-!
DEFINITION. Session contexts, block formats of the half-duplex protocols, result items of a Pontoon, and the launch of a
frame (R175, R180, R198, R199, R204). The bytes of standard frames are those of the standards that the rules name
(assumption 13).
-/

namespace Sys2Proof.Machine

/-- The three identifier words of an item (R204). -/
def idWords (id : List Byte) : List Word := bytesToWords ((id ++ zeros 12).take 12)

/-- Causes of SESSION_END (R204). -/
abbrev seRELEASED : Nat := 1
abbrev seHALTED : Nat := 2
abbrev seFIELD_OFF : Nat := 3
abbrev seMIGRATED_OUT : Nat := 4
abbrev seRECON_FAIL : Nat := 5
abbrev sePROTOCOL : Nat := 6

/-- Cut causes (R185). -/
abbrev cutTHERMAL : Nat := 1
abbrev cutPLLA : Nat := 2
abbrev cutZERO_CODE : Nat := 3
abbrev cutGRANT_END : Nat := 4
abbrev cutMIGRATED : Nat := 5
abbrev cutPOWER_FAIL : Nat := 6

/-- Completion codes of the channel (R185, R252). -/
abbrev cPROTOCOL : Nat := 0x10
abbrev cWTX_LIMIT : Nat := 0x11
abbrev cNO_CONTEXT : Nat := 0x12
abbrev cCID_CONFLICT : Nat := 0x13
abbrev cNOT_FOUND : Nat := 0x14
abbrev cRECON_FAIL : Nat := 0x15
abbrev cAUTH_FAIL : Nat := 0x16
abbrev cMAC_FAIL : Nat := 0x17
abbrev cKEY_EMPTY : Nat := 0x18
abbrev cSEQ_EXHAUSTED : Nat := 0x19
abbrev cTAG_STATUS : Nat := 0x1A
abbrev cENTROPY : Nat := 0x1B

/-- The session of context `k` ends: SESSION_END is queued, the context is FREE, its cache entry is gone (R180, R204,
R254). -/
def sessionEnd (n k cause : Nat) (d : Dev) : Dev :=
  let c := (d.chan n).context k
  if c.st = 0 then d
  else
    ((postIn n 0x24 (packW [(28, 4, k), (20, 8, c.gen), (16, 4, cause)] :: idWords c.id ++ d.stamp) d).modCtx n k
      fun _ => Ctx.free).modChan n fun c => { c with arrived := c.arrived.filter (·.1 ≠ k) }

/-- Every session of the channel ends, as the field leaves ON (R180). -/
def sessionsEnd (n cause : Nat) (d : Dev) : Dev := d.each (upTo 8) fun k => sessionEnd n k cause

/-- Discard the cache entry of a context (R254). -/
def dropSession (n k : Nat) (d : Dev) : Dev := d.modCtx n k fun c => { c with sm := none }

/-- Discard every cache entry derived from key slot `s` (R242). -/
def dropSlotSessions (s : Nat) (d : Dev) : Dev :=
  d.each (upTo 24) fun n d => d.each (upTo 8) fun k d =>
    d.modCtx n k fun c => { c with sm := c.sm.filter fun x => x.slot != s }

/-- The blocks of ISO/IEC 14443-4 and of NFC-DEP that the sequencer tells apart (R171, R172, R184). -/
inductive Block
  | info (num : Nat) (more : Bool) (data : List Byte)
  | ack (num : Nat)
  | nak (num : Nat)
  | wtx (m : Nat)
  | deselect
  | params (data : List Byte)
  | bad
deriving DecidableEq, Repr

/-- Block numbers count modulo 2, packet numbers of NFC-DEP modulo 4. -/
def Ctx.modulus (c : Ctx) : Nat := if c.dep then 4 else 2

/-- The bytes of a block for a session: with its CID, or as a DEP PDU with its DID. -/
def buildBlock (c : Ctx) (b : Block) : List Byte :=
  let u (n : Nat) : Byte := BitVec.ofNat 8 n
  let cidOn := c.cid != 15
  if c.dep then
    let did := if cidOn then [u c.cid] else []
    let f := if cidOn then 4 else 0
    let pdu : List Byte :=
      match b with
      | .info num more data => [0xD4, 0x06, u (num % 4 + f + (if more then 0x10 else 0))] ++ did ++ data
      | .ack num => [0xD4, 0x06, u (0x40 + num % 4 + f)] ++ did
      | .nak num => [0xD4, 0x06, u (0x50 + num % 4 + f)] ++ did
      | .wtx m => [0xD4, 0x06, u (0x90 + f)] ++ did ++ [u m]
      | .deselect => [0xD4, 0x08] ++ did
      | .params _ | .bad => []
    (if c.proto = 4 then [] else [0xF0]) ++ [u (pdu.length + 1)] ++ pdu
  else
    let f := if cidOn then 8 else 0
    let cid := if cidOn then [u c.cid] else []
    match b with
    | .info num more data => [u (0x02 + num % 2 + f + (if more then 0x10 else 0))] ++ cid ++ data
    | .ack num => [u (0xA2 + num % 2 + f)] ++ cid
    | .nak num => [u (0xB2 + num % 2 + f)] ++ cid
    | .wtx m => [u (0xF2 + f)] ++ cid ++ [u m]
    | .deselect => [u (0xC2 + f)] ++ cid
    | .params data => [u (0xF0 + f)] ++ cid ++ data
    | .bad => []

/-- Take a received block apart. -/
def parseBlock (c : Ctx) (bs : List Byte) : Block :=
  if c.dep then
    let pdu := bs.drop (if c.proto = 4 then 1 else 2)
    if pdu.getD 0 0 ≠ 0xD5 then .bad
    else if pdu.getD 1 0 = 0x09 then .deselect
    else if pdu.getD 1 0 ≠ 0x07 then .bad
    else
      let pfb := u8At pdu 2
      let rest := pdu.drop (if bit pfb 2 then 4 else 3)
      if pfb / 32 = 0 then .info (pfb % 4) (bit pfb 4) rest
      else if pfb / 32 = 2 then (if bit pfb 4 then .nak (pfb % 4) else .ack (pfb % 4))
      else if pfb / 16 = 9 then .wtx (u8At rest 0 % 64)
      else .bad
  else
    match bs with
    | [] => .bad
    | p :: t =>
      let v := p.toNat
      let rest := if bit v 3 then t.drop 1 else t
      if v / 64 = 0 && bit v 1 then .info (v % 2) (bit v 4) (if bit v 2 then rest.drop 1 else rest)
      else if v / 32 = 5 then (if bit v 4 then .nak (v % 2) else .ack (v % 2))
      else if v / 16 = 15 then (if bit v 1 then .wtx (u8At rest 0 % 64) else .params rest)
      else if v / 16 = 12 then .deselect
      else .bad

/-- A block as a frame for the air. -/
def blockFrame (c : Ctx) (b : Block) : AirFrame :=
  { proto := c.proto, bytes := buildBlock c b, lastBits := 8, crc := true, cls := .block, rate := c.ds }

/-- Frame size in bytes of an FSCI code. -/
def fscOf (i : Nat) : Nat := [16, 24, 32, 40, 48, 64, 96, 128, 256].getD i 256

/-- Bytes of information that one block of the session carries (R184). -/
def Ctx.chunk (c : Ctx) : Nat := max 1 (c.fsc - (if c.dep then 8 else 3) - (if c.cid = 15 then 0 else 1))

/-- Does a context other than `k` hold CID `x`? -/
def Chan.cidHeld (c : Chan) (k x : Nat) : Bool := (upTo 8).any fun j => j != k && (c.context j).st != 0 && (c.context j).cid == x

/-- The lowest CID from 1 to 14 that no context other than `k` holds (R198). -/
def Chan.freeCid (c : Chan) (k : Nat) : Nat := ((upTo 14).map (· + 1)).find? (fun x => !c.cidHeld k x) |>.getD 15

/-- Another session without CID in ACTIVE_4, or back in it once it is reconciled (R199, R203). -/
def Chan.otherNoCid (c : Chan) (k : Nat) : Option Nat :=
  (upTo 8).find? fun j =>
    let x := c.context j
    j != k && x.cid == 15 && !x.leaving && (x.st == 3 || (x.st == 5 && x.prev == 3))

/-- The session that an activation under way builds, from its RATS, ATR_REQ or ATTRIB on (R196). -/
def Chan.built (c : Chan) : Option Ctx :=
  match c.job with
  | some (.inv i) =>
    match i.step with
    | .rats | .atr | .pps | .params _ | .deselect | .attrib => some i.build
    | _ => none
  | some (.cmd s) =>
    match s.step with
    | .rats | .atr | .pps | .params _ | .deselect | .attrib _ => some s.build
    | _ => none
  | none => none

/-- That session once its ATS or ATQB is known: its FWI and SFGI hold from then on (R170). -/
def Chan.building (c : Chan) : Option Ctx :=
  match c.job with
  | some (.inv i) => if i.step = .rats || i.step = .atr then none else c.built
  | some (.cmd s) => if s.step = .rats || s.step = .atr then none else c.built
  | none => none

/-- Set the job of a Pontoon. -/
def Dev.setJob (d : Dev) (n : Nat) (j : Job) : Dev := d.modChan n fun c => { c with job := some j }

/-- Set the sequencer's state (R175): 0 IDLE, 1 WAIT_GUARD, 2 PLACE, 3 TX, 4 ARMED, 5 RECEIVE, 6 RECOVER. -/
def Dev.seq (d : Dev) (n s : Nat) : Dev := d.wr (CH_FT_STATUS_SEQ n) s

/-- A waiting exchange takes the state that the field and the guard allow (R175). -/
def kick (n : Nat) (d : Dev) : Dev :=
  let c := d.chan n
  match c.exch with
  | none => d
  | some e =>
    if e.sent then d
    else if c.field.st ≠ .on then d.seq n 0
    else if c.field.guard && !(c.context e.ctx).sfgt && !c.building.any (·.sfgt) then d.seq n 2
    else d.seq n 1

/-- Post a frame, addressed to context `k` (15 for none), as a new exchange (R175). -/
def launch (n k : Nat) (f : AirFrame) (d : Dev) : Dev :=
  kick n (d.modChan n fun c =>
    { c with exch := some { frame := f, ref := c.nextRef, sent := false, late := false, lateOct := 0, retries := 0,
                            wtx := 0, wtxm := 0, lastBlock := f, ctx := k, deadline := none, withdrawn := false,
                            csOct := 0, placed := 0, air := [], fmtCount := 0 } })

/-- Place a further frame of the same exchange: an S(WTX) response, the next block, or a recovery frame (R171, R172). -/
def relaunch (n : Nat) (f : AirFrame) (g : Exch → Exch) (d : Dev) : Dev :=
  kick n (d.modChan n fun c =>
    { c with exch := c.exch.map fun e => g { e with frame := f, ref := c.nextRef, sent := false, late := false, lateOct := 0,
                                                           deadline := none } })

/-- The exchange is over: the receiver is disarmed once it has nothing open, the sequencer is IDLE. -/
def closeExchange (n : Nat) (d : Dev) : Dev :=
  let d := (d.modChan n fun c => { c with exch := none, rx := { c.rx with armed := false } }).seq n 0
  if d.rd (CH_RX_STATUS_STATE n) = 1 then d.wr (CH_RX_STATUS_STATE n) 0 else d

/-- Queue the EXCHANGE items of a command: the data split at 868 bytes, with MORE (R204). -/
def exchangeItems (n : Nat) (w0 : Word) (w1 : Bool → Word) (cs : List Word) :
    Nat → List (List Word) → List Byte → Dev → Dev
  | 0, _, _, d => d
  | fuel + 1, recs, data, d =>
    let part := data.take 868
    let more := decide (868 < data.length)
    let d := postIn n 0x23 ([w0, w1 more] ++ cs ++ recs.flatten ++ [nw part.length] ++ bytesToWords part) d
    if more then exchangeItems n w0 w1 cs fuel [] (data.drop 868) d else d

/-- The final item of a command other than INVENTORY (R204), with STALE_PLACEMENT where the session has moved on
(R202). -/
def commandItem (n : Nat) (cmd : PCmd) (ctx gen : Nat) (stale : Bool) (code cut : Nat) (rep notRec : Bool)
    (data : List Byte) (d : Dev) : Dev :=
  let r := (d.chan n).recs
  let w0 := packW [(24, 8, cmd.opcode), (16, 8, code), (0, 16, cmd.tag)]
  let w1 (more : Bool) := packW [(28, 4, ctx), (20, 8, gen), (19, 1, b2n stale), (16, 3, cut), (8, 8, min r.replies 255),
    (7, 1, b2n more), (6, 1, b2n rep), (5, 1, b2n notRec), (0, 3, r.csOct)]
  let d := exchangeItems n w0 w1 r.csTime (data.length / 868 + 1) r.last data d
  let d := d.when stale fun d => (d.countSat (CH_INV_STATS_STALE n) 1).raise (CH_INV_STATUS_STALE_SEEN n)
  d.modChan n fun c => { c with recs := Records.none }

/-- The final item of a command that ran no exchange, with the context that it names (15 for none), the GEN and STALE_PLACEMENT (R183,
R202, R204). -/
def plainItemAs (n : Nat) (cmd : PCmd) (ctx gen : Nat) (stale : Bool) (code cut : Nat) (d : Dev) : Dev :=
  let r := (d.chan n).recs
  let d := commandItem n cmd ctx gen stale code cut false false [] (d.modChan n fun c => { c with recs := Records.none })
  d.modChan n fun c => { c with recs := r }

/-- The same, with the GEN of the context as it stands; at the old placement of a session that has moved on it is stale. -/
def plainItem (n : Nat) (cmd : PCmd) (ctx code cut : Nat) (d : Dev) : Dev :=
  let c := if ctx < 8 then (d.chan n).context ctx else Ctx.free
  plainItemAs n cmd ctx c.gen c.leaving code cut d

/-- An INVENTORY_END item without a round (R204). -/
def emptyRound (n tag code cut : Nat) (d : Dev) : Dev :=
  (postIn n 0x21 [packW [(24, 8, 1), (16, 8, code), (0, 16, tag)], 0, packW [(8, 3, cut)], 0, 0, 0] d).countSat
    (CH_INV_STATS_ROUNDS n) 1

/-- Argument words that a command needs (R184, R247, R249, R251); none for an opcode that is not listed. -/
def PCmd.needs (c : PCmd) : Option Nat :=
  match c.opcode with
  | 0x01 => let p := bits (wordAt c.args 0) 31 28
            some (if p = 3 then 4 else if p = 4 then 3 else 2)
  | 0x02 | 0x04 | 0x05 | 0x06 | 0x08 | 0x10 | 0x12 => some 1
  | 0x03 => some (1 + (bits (wordAt c.args 0) 15 0 + 3) / 4)
  | 0x07 => some 0
  | 0x11 => some (3 + (bits (wordAt c.args 0) 15 0 + 3) / 4)
  | _ => none

/-- Is the command complete and listed (R184)? -/
def PCmd.valid (c : PCmd) : Bool :=
  match c.needs with
  | some k => k ≤ c.args.length
  | none => false

/-- Commands at the head of the queue that are not valid complete RANGE while no command runs (R184). -/
def drainHeads (n : Nat) : List PCmd → Dev → Dev
  | [], d => d
  | c :: cs, d =>
    if c.valid then d
    else
      let d := d.modChan n fun ch => { ch with queue := cs }
      drainHeads n cs (if c.opcode = 1 then emptyRound n c.tag cRANGE 0 d else plainItem n c 15 cRANGE 0 d)

/-- The Pontoon is idle: invalid heads complete, unless the power-fail source is asserted (R72). -/
def drain (n : Nat) (d : Dev) : Dev :=
  let c := d.chan n
  if c.job.isSome || d.on PW_STATUS_PFAIL then d else drainHeads n c.queue d

/-- The old placement of a migrated session has nothing left: SESSION_END MIGRATED_OUT (R201). -/
def leaveOld (n k : Nat) (d : Dev) : Dev :=
  if ((d.chan n).context k).leaving then
    (sessionEnd n k seMIGRATED_OUT d).countSat (CH_INV_STATS_MIGRATED n) 1
  else d

/-- Start the reconciliation of the next session that has arrived, before any other command (R203); none starts while the power-fail
source is asserted (R72). -/
def reconcileNext (n : Nat) (d : Dev) : Dev :=
  let c := d.chan n
  if d.on PW_STATUS_PFAIL then d else
  match c.job, c.arrived with
  | none, (k, cmd) :: rest =>
    let x := c.context k
    let d := d.modChan n fun c =>
      { c with arrived := rest,
               job := some (.cmd { cmd := cmd, ctx := k, gen := x.gen, step := .reconcile 0, toSend := [], data := [],
                                   ra := [], rb := [], sm := x.sm, begun := false, repeat_ := false, notReceived := false,
                                   chaining := false, build := x }) }
    launch n k (blockFrame x (.nak x.block)) d
  | _, _ => d

/-- The running command ends with a code and a cut cause; its data follows (R204). -/
def endCommand (n : Nat) (s : CmdSt) (code cut : Nat) (data : List Byte) (d : Dev) : Dev :=
  let stale := ((d.chan n).context s.ctx).leaving
  let d := commandItem n s.cmd s.ctx s.gen stale code cut s.repeat_ s.notReceived data d
  let d := closeExchange n (d.modChan n fun c => { c with job := none })
  drain n (reconcileNext n (leaveOld n s.ctx d))

/-- The INVENTORY_END item and the end of the round, behind everything that was still due (R204). -/
def endInventory (n : Nat) (i : InvSt) (code cut : Nat) (d : Dev) : Dev :=
  let d := (postBehind n (d.chan n).tagsDue d).post n 0x21
    ([packW [(24, 8, 1), (16, 8, code), (0, 16, i.tag)],
      packW [(24, 8, min i.found 255), (16, 8, i.kept), (8, 8, min i.noCtx 255), (0, 8, min i.passes 255)],
      packW [(16, 8, i.maxDepth), (8, 3, cut), (3, 1, b2n i.twin), (2, 1, b2n i.stackFull),
             (1, 1, b2n i.incomplete), (0, 1, b2n i.limitHit)]] ++ i.start)
  let d := (d.countSat (CH_INV_STATS_ROUNDS n) 1).wr (CH_INV_STATUS_WALK n) 0
  let d := (d.wr (CH_INV_STATUS_DEPTH n) 0).wr (CH_INV_STATUS_LEVEL n) 0
  drain n (reconcileNext n (closeExchange n (d.modChan n fun c => { c with job := none, recs := Records.none })))

end Sys2Proof.Machine
end

