-- ==== Sys2Proof/Machine/Loss.lean ====
section
/-!
DEFINITION. What a Pontoon and a receiver do when the field goes: the FRAGMENT of an open frame, the end of the exchange
and of the command or round with its cut cause (R111, R135, R175, R180, R195), the report of a found tag with its twin
check (R194, R197, R204, R230).
-/

namespace Sys2Proof.Machine

/-- UNTRACED of channel `n`'s measurements (R430). -/
def Dev.untraced (d : Dev) (n : Nat) : Bool := !bit (d.rd CL_TRACE_CH) n

/-- A frame with no bits. -/
def emptyFrame : RxFrame := { slices := [], stops := 0, noEof := false, sbAmp := 0, phase := 0, delay := 0, mses := [] }

/-- The flags of the current frame's bits `fr` on channel `n`: those of the slicer, with COLL_DB, and those of interference (R139, R142). -/
def Dev.frameFlags (d : Dev) (n : Nat) (fr : RxFrame) : List Nat :=
  let rx := (d.chan n).rx
  let own := match rx.sent with
    | some f => flagsOf f.proto f.rate (d.rd (CH_RX_CFG_COLL_DB n)) fr.slices
    | none => []
  allFlags own fr.slices.length rx.interf

/-- The first MSE above -CONV dB (R146): that over the pattern is number 0. -/
def divergedAt (fr : RxFrame) (conv : Nat) : Option Nat := fr.mses.findIdx? fun m => m.toNat < 2 * conv

/-- Has the equaliser diverged in a frame (R146)? -/
def Dev.diverged (d : Dev) (n : Nat) (fr : RxFrame) : Bool := (divergedAt fr (d.rd (CH_EQ_CFG_CONV n))).isSome

/-- The equaliser's taps at the end of a frame: tracked over its bits, up to where they froze (R145, R146). -/
def Dev.finalTaps (d : Dev) (n : Nat) (fr : RxFrame) : List Word :=
  let t := (d.chan n).rx.taps
  let mu := d.rd (CH_EQ_CFG_MU_TRACK n)
  if mu = 0 then t
  else
    match divergedAt fr (d.rd (CH_EQ_CFG_CONV n)) with
    | some 0 => t
    | some k => Config.lmsTrack mu t (fr.slices.take (15 + k))
    | none => Config.lmsTrack mu t fr.slices

/-- A SEED_CLR that has waited for the end of the frame (R156). -/
def seedsDue (n : Nat) (d : Dev) : Dev :=
  if (d.chan n).rx.clearSeeds then
    (d.modRx n fun r => { r with seeds := [], clearSeeds := false }).wr (CH_EQ_CFG_SEED_CLR n) 0
  else d

/-- Bits packed into words from bit 0 upward. -/
def packWords : Nat → List Bool → List Word
  | 0, _ => []
  | k + 1, bs => if bs.isEmpty then [] else nw (packLsb (bs.take 32)) :: packWords k (bs.drop 32)

/-- The timing word and the exchange word of a reply (R178): for a fragment or a frame outside an exchange, zeros. -/
def exchWords (e : Option Exch) (delay devTol : Nat) (fmtErr : Bool) (fmtCount : Nat) : List Word :=
  match e with
  | none => [0, 0]
  | some e =>
    let dv := (deviation e.frame delay).getD 0
    [timingWord e delay, exchangeWord e (decide ((devTol : Int) < max dv (-dv))) dv fmtErr fmtCount]

/-- DEV of a reply counts and is seen (R169). -/
def countDev (n : Nat) (lastx : Word) (d : Dev) : Dev :=
  if bit lastx.toNat 30 then (d.raise (CH_FT_STATUS_DEV_SEEN n)).countSat (CH_FT_STATS_DEV n) 1 else d

/-- The open frame ends as a FRAGMENT with the bits decided so far (R140, R135, R204): its item is queued, its listeners' measurements
go (R143), and the events of R146, R156 and R169 apply to it. -/
def fragmentItem (n : Nat) (fr : RxFrame) (d : Dev) : Dev :=
  let c := d.chan n
  let flags := d.frameFlags n fr
  let p : Parsed := { data := [], bytes := [], body := [], crcChecked := false, crcOk := false, parityErr := false, fmtErr := false,
                      fmtCount := 0, flags := flags }
  let k := match c.exch with
    | some e => e.ctx
    | none => 15
  let w0 := packW [(28, 4, k), (20, 8, if k < 8 then (c.context k).gen else 0), (0, 1, b2n (decide (7680 < fr.bits.length)))]
  let w := exchWords c.exch fr.delay (d.rd (CH_FT_WIN_DEV_TOL n)) false 0
  let d := postIn n 0x25 ([w0] ++ descriptor 2 c.rx fr (d.diverged n fr) p (d.untraced n) ++ w ++ c.rx.cur.stamp
    ++ packWords 240 (fr.bits.take 7680)) d
  let d := countDev n (w.getD 1 0) (d.raiseIf (c.rx.eqUsed && d.diverged n fr) (CH_RX_STATUS_EQ_DIVERGED_SEEN n))
  seedsDue n (d.modChan n fun c => { c with terms := [], clean := false, rx := { c.rx with window := none } })

/-- The receiver is disarmed, or its field is cut (R135): an open frame becomes a FRAGMENT, CHECK goes on to its verdict,
LISTEN is not affected. -/
def disarm (n : Nat) (fr : RxFrame) (d : Dev) : Dev :=
  let st := d.rd (CH_RX_STATUS_STATE n)
  let d := if st = 2 || st = 3 || st = 4 then fragmentItem n fr d else d
  let d := d.modRx n fun r => { r with armed := false, held := none }
  if st = 5 || st = 6 then d else d.wr (CH_RX_STATUS_STATE n) 0

/-- The neighbour table of berth `b` (R208). -/
def Dev.table (d : Dev) (b : Nat) : Option NbTable := d.ts.tables.find? (·.berth = b)

/-- An empty neighbour table. -/
def NbTable.blank (b : Nat) : NbTable :=
  { berth := b, surveyed := false, refCode := 0, refAmp := 0, refN := 0, count := 0,
    entries := List.replicate 16 NbEntry.zero }

/-- Replace the neighbour table of a berth; a blank table has no entry, and the tables stand in berth order. -/
def putTable (t : NbTable) (ts : List NbTable) : List NbTable :=
  let low := ts.filter fun x => x.berth < t.berth
  let high := ts.filter fun x => t.berth < x.berth
  if t = NbTable.blank t.berth then low ++ high else low ++ t :: high

/-- Change the neighbour table of a berth. -/
def Dev.modTable (d : Dev) (b : Nat) (f : NbTable → NbTable) : Dev :=
  { d with ts := { d.ts with tables := putTable (f ((d.table b).getD (NbTable.blank b))) d.ts.tables } }

/-- A level moved an eighth of its difference toward a new one (R230). The spec gives no rounding: `up` says which of the
two nearest values is taken. -/
def moveEighth (old new up : Nat) : Nat :=
  let x : Int := (new : Int) - (old : Int)
  ((old : Int) + (if x % 8 = 0 || up % 2 = 0 then x / 8 else x / 8 + 1)).toNat

/-- The single-tag reference after one more reply (R230). -/
def NbTable.learn (t : NbTable) (code amp up : Nat) : NbTable :=
  if t.refN = 0 || t.refCode ≠ code then { t with refCode := code, refAmp := amp, refN := 1 }
  else { t with refAmp := moveEighth t.refAmp amp up, refN := min (t.refN + 1) 63 }

/-- Report a found tag at its disposal: the twin check, the TAG item, the reference update (R194, R197, R204, R230).
Answers whether a twin is suspected. -/
def tagItem (n : Nat) (coil : Nat) (t : FoundTag) (d : Dev) : Bool × Dev :=
  let s := berthOf n coil
  let a := t.attr.getD (s, 0, 0x7FF, 0)
  let code := d.rd (CH_TX_STATUS_ACTIVE_CODE n)
  let tab := (d.table s).getD (NbTable.blank s)
  let noRef := a.2.1 = 0 || a.1 ≠ s || tab.refN = 0 || tab.refCode ≠ code
  let twin := !noRef && decide (t.sbAmp + 12 ≤ tab.refAmp)
  let d := d.raiseIf twin (CH_INV_STATUS_TWIN_SEEN n)
  let d := match t.ctx with
    | some k => if twin then d.modCtx n k fun c => { c with twin := true } else d
    | none => d
  let c := match t.ctx with
    | some k => (d.chan n).context k
    | none => Ctx.free
  let w0 := packW [(28, 4, t.proto), (24, 4, t.id.length), (20, 4, t.ctx.getD 15), (12, 8, c.gen), (11, 1, b2n twin),
    (10, 1, b2n noRef), (9, 1, b2n t.activated), (8, 1, b2n t.halted), (4, 4, c.cid)]
  let d := d.post n 0x22 ([w0] ++ idWords t.id ++ [nw t.info0, nw t.info1,
    packW [(16, 11, a.1), (0, 8, a.2.1)], packW [(16, 11, a.2.2.1), (0, 8, a.2.2.2)]] ++ t.record)
  let d := postBehind n 1 (d.countSat (CH_INV_STATS_TAGS n) 1)
  let learn := d.rd TS_ATTR_LEARN_CONF ≤ a.2.1 && !twin && a.1 = s
  if learn then
    let r := d.free
    (twin, r.2.modTable s (·.learn code t.sbAmp r.1))
  else (twin, d)

/-- Report the tag of the round whose disposal is over (R194, R204). -/
def flushTag (n : Nat) (d : Dev) : Dev :=
  match (d.chan n).job with
  | some (.inv i) =>
    match i.tagNow with
    | some t =>
      if t.ready then
        let r := tagItem n i.coil t d
        r.2.setJob n (.inv { i with tagNow := none, twin := i.twin || r.1 })
      else d
    | none => d
  | _ => d

/-- Tags whose disposal the loss of the field cuts short are reported as they stand, in the order in which they were found: not halted,
with no context (R195, R204). -/
def flushTags (n : Nat) : List FoundTag → Dev → Dev
  | [], d => d
  | t :: ts, d =>
    match (d.chan n).job with
    | some (.inv i) =>
      let n1 := if t.ready then 0 else 1
      flushTags n ts (flushTag n (d.setJob n (.inv { i with found := i.found + n1, tagNow := some { t with ready := true }, toQuiet := ts })))
    | _ => d

/-- The tags that the round still owes are reported as they stand. -/
def flushCut (n : Nat) (d : Dev) : Dev :=
  match (d.chan n).job with
  | some (.inv i) => flushTags n (i.tagNow.toList ++ i.toQuiet) d
  | _ => d

/-- Is a grant one of an emulation instance (R266)? -/
def Grant.isEmu (g : Grant) : Bool :=
  match g.owner with
  | .emulation _ => true
  | _ => false

/-- Does a grant hold the slot that starts at millisecond `m` (R499)? One that had begun before a step back holds the slots that
repeat. -/
def Grant.covers (g : Grant) (m : Nat) : Bool := (g.begun || g.start ≤ m) && (g.isOpen || m < g.start + g.slots)

/-- The transmit grant in force on channel `n` (R499): started, not ended, not released. -/
def Dev.grantNow (d : Dev) (n : Nat) : Option Grant :=
  d.ts.grants.find? fun g => g.ch == n && !g.isEmu && g.covers d.ms && g.released.isNone

/-- The grant of channel `n` that is confirmed, whether its first slot has begun or not. -/
def Dev.grantHeld (d : Dev) (n : Nat) : Option Grant :=
  match d.grantNow n with
  | some g => some g
  | none => d.ts.grants.find? fun g => g.ch == n && !g.isEmu && d.ms < g.start && g.released.isNone

/-- The transmit grant of channel `n` confirmed last, of those not released. -/
def Dev.lastGrant (d : Dev) (n : Nat) : Option Grant := d.ts.grants.reverse.find? fun g => g.ch == n && !g.isEmu && g.released.isNone

/-- The grant that the field of channel `n` belongs to: in SUPPLY the one confirmed last, or the one before where a later one waits for
the field to go (R106); else the one in force. -/
def Dev.fieldGrant (d : Dev) (n : Nat) : Option Grant :=
  let f := (d.chan n).field
  if f.st = .supply then
    if f.next.isSome then ((d.ts.grants.filter fun g => g.ch == n && !g.isEmu && g.released.isNone).dropLast).getLast?
    else d.lastGrant n
  else d.grantNow n

/-- Does the field of channel `n` belong to a grant that its own Pontoon asked for? -/
def Dev.ownField (d : Dev) (n : Nat) : Bool :=
  match d.fieldGrant n with
  | some g => g.owner == .pontoon
  | none => false

/-- Does a cut of channel `n`'s field take a field from its own Pontoon: the present one, or that of a grant confirmed behind it? -/
def Dev.ownLost (d : Dev) (n : Nat) : Bool :=
  d.ownField n || ((d.chan n).field.next.isSome && match d.lastGrant n with
    | some g => g.owner == .pontoon
    | none => false)

/-- Is the job of a channel one that the loss of its field ends? A round that still waits for a grant is, where the grant
that loses its field is its own (`mine`); an RF_RESET that has not started goes on waiting (R112, R175, R195). -/
def Chan.jobBound (c : Chan) (mine : Bool) : Bool :=
  match c.job with
  | none => false
  | some (.inv i) => i.step ≠ .grant || mine
  | some (.cmd s) => s.step ≠ .rfReset || s.begun

/-- The job of channel `n` ends ABORTED with a cut cause (R175, R185, R195). A session whose command has already been
reported loses its S(DESELECT) only. -/
def abortJob (n cut : Nat) (d : Dev) : Dev :=
  let d := flushCut n d
  match (d.chan n).job with
  | none => closeExchange n d
  | some (.inv i) => endInventory n i cABORTED cut d
  | some (.cmd s) =>
    if s.step = .protoHalt then closeExchange n (sessionEnd n s.ctx sePROTOCOL (d.modChan n fun c => { c with job := none }))
    else endCommand n s cABORTED cut [] d

/-- The sessions that wait for their reconciliation lose their field: their MIGRATE ends ABORTED (R175, R180, R203). -/
def abortArrived (n cut : Nat) (as : List (Nat × PCmd)) (d : Dev) : Dev :=
  d.each as fun x => plainItem n x.2 x.1 cABORTED cut

/-- The field of channel `n` has left ON, or will not rise: tags still to be reported, the open frame, the exchange, the command or round
and the sessions end, in the order of their items' timestamps (R13, R135, R175, R180, R195). -/
def loseField (n cut : Nat) (fr : RxFrame) (mine : Bool) (d : Dev) : Dev :=
  let bound := (d.chan n).jobBound mine
  let as := (d.chan n).arrived
  let d := disarm n fr (if bound then flushCut n d else d)
  let d := d.modChan n fun c => { c with arrived := [] }
  let d := if bound then abortJob n cut d else d
  sessionsEnd n seFIELD_OFF (abortArrived n cut as d)

/-- Record a cut (R111): of causes in one Deck clock the lowest code. -/
def recordCut (n cause : Nat) (d : Dev) : Dev :=
  let code := if (d.chan n).field.cutAt = some d.time then min cause (d.rd (CH_TX_STATUS_CUT_CAUSE n)) else cause
  ((d.wr (CH_TX_STATUS_CUT_CAUSE n) code).raise (CH_TX_STATUS_CUT_SEEN n)).modField n fun f => { f with cutAt := some d.time }

/-- Dropout of the channel's regulator (R104): the code in force needs more than VRF less 0.8 V. It is watched while the field is on. -/
def headroom (n : Nat) (d : Dev) : Dev :=
  if (d.chan n).field.lit then
    let c := decide (1023 * (d.power.vrf.getD (n / 4) 0 - 800) < 6200 * d.rd (CH_TX_STATUS_ACTIVE_CODE n))
    (d.flag (CH_TX_STATUS_HEADROOM n) c).raiseIf c (CH_TX_STATUS_HEADROOM_SEEN n)
  else d.lower (CH_TX_STATUS_HEADROOM n)

/-- The field begins to ramp down (R108). -/
def fieldDown (n : Nat) (d : Dev) : Dev :=
  d.modField n fun f => { f with st := .rampDown, guard := false, boundary := false, settled := false }

/-- Has a select frame applied the coil that a grant names (R118)? -/
def Dev.coilApplied (d : Dev) (g : Grant) : Bool := d.on (CH_SEL_STATUS_ON g.ch) && d.selected g.ch == g.coil

/-- RAMP_UP begins: the guard counts from here (R108). -/
def rampUp (n : Nat) (d : Dev) : Dev :=
  headroom n (d.modField n fun f => { f with st := .rampUp, guard := false, measured := false, thenOff := false })

/-- The outputs clamp at the end of RESET_DOWN (R108). -/
def resetClamp (n : Nat) (d : Dev) : Dev :=
  (d.modField n fun f => { f with st := .resetOff, offAt := some d.ns }).lower (CH_TX_STATUS_HEADROOM n)

/-- An RF reset leaves ON (R112); with RAMP_OFF 0 the outputs clamp in one step (R109). -/
def resetField (n : Nat) (d : Dev) : Dev :=
  let d := d.modField n fun f => { f with st := .resetDown, guard := false, thenOff := false }
  if d.rd (CH_TX_RAMP_RAMP_OFF n) = 0 then resetClamp n d else d

/-- SUPPLY leads to RAMP_UP once the supply has settled and a boundary has been reached at which the coil was applied
(R108). -/
def tryRampUp (n : Nat) (d : Dev) : Dev :=
  let f := (d.chan n).field
  if f.st = .supply && f.settled && f.boundary then rampUp n d else d

/-- Capstan starts the supply ramp for a grant with the code in force (R55, R105): the field enters SUPPLY. A higher code that was
written since goes on waiting. -/
def supplyRamp (n code : Nat) (settled boundary : Bool) (d : Dev) : Dev :=
  let pending := d.on (CH_TX_STATUS_AMP_PENDING n) && decide (powerOf code < powerOf (d.rd (CH_TX_AMP_CODE n)))
  tryRampUp n (((d.modField n fun f =>
    { f with st := .supply, settled := settled, boundary := boundary, next := none, guard := false,
             thenOff := false }).wr (CH_TX_STATUS_ACTIVE_CODE n) code).flag (CH_TX_STATUS_AMP_PENDING n) pending)

/-- The field is off: the outputs clamp (R101, R108). A later grant that is confirmed already starts its supply now
(R106); a code that has become 0 raises no field (R108). -/
def fieldOff (n : Nat) (d : Dev) : Dev :=
  let f := (d.chan n).field
  let old := d.rd (CH_TX_STATUS_ACTIVE_CODE n)
  let d := (d.modField n fun f =>
    { f with st := .off, guard := false, boundary := false, settled := false, thenOff := false, next := none,
             offAt := if f.lit then some d.ns else f.offAt }).lower (CH_TX_STATUS_HEADROOM n)
  match f.next, d.lastGrant n with
  | some code, some g =>
    if code = 0 then loseField n cutZERO_CODE emptyFrame (g.owner == .pontoon) d
    else supplyRamp n code (code == old) (decide (g.start ≤ d.ms) && d.coilApplied g) d
  | _, _ => d

/-- The field of channel `n` ends for the end of its grant or its release, as R108 gives for the state it is in; with RAMP_OFF 0 in one
step (R109). -/
def endField (n cut : Nat) (fr : RxFrame) (mine : Bool) (d : Dev) : Dev :=
  match (d.chan n).field.st with
  | .supply | .resetOff => fieldOff n (loseField n cut fr mine d)
  | .rampUp | .on =>
    if d.rd (CH_TX_RAMP_RAMP_OFF n) = 0 then fieldOff n (loseField n cut fr mine d) else fieldDown n (loseField n cut fr mine d)
  | .resetDown => (loseField n cut fr mine d).modField n fun f => { f with thenOff := true }
  | .off | .rampDown => d

/-- The Pontoon of channel `n` releases its grant (R106, R108, R221, R227): the field ramps down, or does not rise. -/
def releaseGrant (n : Nat) (fr : RxFrame) (d : Dev) : Dev :=
  match d.fieldGrant n with
  | none => d
  | some g =>
    if g.owner ≠ .pontoon && !d.on PW_STATUS_PFAIL then d
    else
      let t := d.time
      endField n cutGRANT_END fr (g.owner == .pontoon)
        { d with ts := { d.ts with grants := d.ts.grants.map fun x => if x = g then { x with released := some t } else x } }

end Sys2Proof.Machine
end

