-- ==== Sys2Proof/Machine/Air.lean ====
section
/-!
DEFINITION. The frames that a Pontoon builds and the answers that it takes apart for anticollision and activation (R158,
R160, R186, R191 to R193, R196). The bytes are those of the standards that the rules name (assumption 13).
-/

namespace Sys2Proof.Machine

/-- A number as a byte. -/
abbrev byte (n : Nat) : Byte := BitVec.ofNat 8 n

/-- REQA or WUPA. -/
def fReqa (wake : Bool) : AirFrame :=
  { proto := 1, bytes := [if wake then 0x52 else 0x26], lastBits := 7, crc := false, cls := .aTimed, rate := 0 }

/-- SEL(L) (R186). -/
def selByte (level : Nat) : Byte := byte (0x91 + 2 * level)

/-- ANTICOLLISION with `k` known bits of `prefix` (R160, R186). -/
def fAnticoll (level k pre : Nat) : AirFrame :=
  { proto := 1,
    bytes := [selByte level, byte ((2 + k / 8) * 16 + k % 8)] ++ leBytes ((k + 7) / 8) (pre % 2 ^ k),
    lastBits := if k % 8 = 0 then 8 else k % 8, crc := false, cls := .aTimed, rate := 0 }

/-- The BCC of a resolved level (R186, R188). -/
def bccOf (pre : Nat) : Nat :=
  ((pre % 256) ^^^ (pre / 2 ^ 8 % 256)) ^^^ ((pre / 2 ^ 16 % 256) ^^^ (pre / 2 ^ 24 % 256))

/-- SELECT of a level, with the computed BCC (R186, R188). -/
def fSelect (level pre : Nat) : AirFrame :=
  { proto := 1, bytes := [selByte level, 0x70] ++ leBytes 4 pre ++ [byte (bccOf pre)], lastBits := 8, crc := true,
    cls := .aTimed, rate := 0 }

/-- HLTA. -/
def fHlta : AirFrame := { proto := 1, bytes := [0x50, 0x00], lastBits := 8, crc := true, cls := .none, rate := 0 }

/-- RATS (R196). -/
def fRats (fsdi cid : Nat) : AirFrame :=
  { proto := 1, bytes := [0xE0, byte (fsdi * 16 + cid % 15)], lastBits := 8, crc := true, cls := .rats, rate := 0 }

/-- PPS with the rate codes chosen (R196). -/
def fPps (c : Ctx) : AirFrame :=
  { proto := 1, bytes := [byte (0xD0 + c.cid % 15), 0x11, byte (c.ds * 4 + c.dr)], lastBits := 8, crc := true,
    cls := .block, rate := 0 }

/-- ATR_REQ with the initiator's identifier and DID (R196). -/
def fAtr (proto did : Nat) (nfcid : List Byte) : AirFrame :=
  let pdu := [(0xD4 : Byte), 0x00] ++ nfcid ++ [byte (did % 15), 0x00, 0x00, 0x32]
  { proto := proto, bytes := (if proto = 4 then [] else [0xF0]) ++ [byte (pdu.length + 1)] ++ pdu, lastBits := 8,
    crc := true, cls := .fOther, rate := 0 }

/-- Code of a slot count (1, 2, 4, 8, 16). -/
def slotCode (n : Nat) : Nat := if n ≤ 1 then 0 else if n ≤ 2 then 1 else if n ≤ 4 then 2 else if n ≤ 8 then 3 else 4

/-- REQB or WUPB (R191). -/
def fReqb (wake : Bool) (afi slots : Nat) : AirFrame :=
  { proto := 2, bytes := [0x05, byte afi, byte ((if wake then 8 else 0) + slotCode slots)], lastBits := 8, crc := true,
    cls := .bTimed, rate := 0 }

/-- The Slot-MARKER that opens slot `s` (R191). -/
def fMarker (s : Nat) : AirFrame :=
  { proto := 2, bytes := [byte ((s - 1) * 16 + 5)], lastBits := 8, crc := true, cls := .bTimed, rate := 0 }

/-- HLTB with a PUPI (R191). -/
def fHltb (pupi : List Byte) : AirFrame :=
  { proto := 2, bytes := 0x50 :: pupi, lastBits := 8, crc := true, cls := .bTimed, rate := 0 }

/-- ATTRIB with the choices of R196. Its ATQB has been parsed, so the tag's FWT holds for its answer (R167, R170). -/
def fAttrib (c : Ctx) (fsdi : Nat) : AirFrame :=
  { proto := 2, bytes := 0x1D :: c.id ++ [0x00, byte (c.ds * 64 + c.dr * 16 + fsdi), 0x01, byte (c.cid % 15)],
    lastBits := 8, crc := true, cls := .block, rate := 0 }

/-- An Inventory request with 16 slots, AFI and mask (R192). -/
def fInventory (afi maskLen mask : Nat) : AirFrame :=
  { proto := 3,
    bytes := [0x16, 0x01, byte afi, byte maskLen] ++ leBytes ((maskLen + 7) / 8) (mask % 2 ^ maskLen),
    lastBits := 8, crc := true, cls := .v, rate := 0 }

/-- An EOF that opens the next slot (R192). -/
def fEof : AirFrame := { proto := 3, bytes := [], lastBits := 8, crc := false, cls := .v, rate := 0 }

/-- Stay quiet, addressed (R192). -/
def fQuiet (uid : List Byte) : AirFrame :=
  { proto := 3, bytes := [0x22, 0x02] ++ uid, lastBits := 8, crc := true, cls := .none, rate := 0 }

/-- Select, addressed (R180, R196). -/
def fVSelect (uid : List Byte) : AirFrame :=
  { proto := 3, bytes := [0x22, 0x25] ++ uid, lastBits := 8, crc := true, cls := .v, rate := 0 }

/-- An NFC-F polling request (R193). -/
def fPoll (system req slots : Nat) : AirFrame :=
  { proto := 4, bytes := [0x06, 0x00] ++ beBytes 2 system ++ [byte req, byte (slots - 1)], lastBits := 8, crc := true,
    cls := .fPoll slots, rate := 0 }

/-- The 15693 commands of the write-alternative group: with the option flag set they are answered under the 20 ms row of
R167. -/
def vWriteCmd (b : Byte) : Bool := [0x21, 0x22, 0x24, 0x27, 0x28, 0x29, 0x2A].contains b.toNat

/-- The class of a raw frame (R167, R184). -/
def rawClass (proto : Nat) (bs : List Byte) : CmdClass :=
  if proto = 3 then (if bit (u8At bs 0) 6 && vWriteCmd (bs.getD 1 0) then .vWrite else .v)
  else if proto = 4 then .fOther
  else .raw

/-- A raw frame of a session's protocol with its CRC, and for NFC-F with its length byte (R158, R184). -/
def fRaw (c : Ctx) (bs : List Byte) : AirFrame :=
  { proto := c.proto, bytes := if c.proto = 4 then byte (bs.length + 1) :: bs else bs, lastBits := 8, crc := true, cls := rawClass c.proto bs, rate := c.ds }

/-- The identifier bytes of a Type A tag from its resolved levels: CL1, CL2 and the last level (R186, R204). -/
def uidOf (level cl1 cl2 pre : Nat) : List Byte :=
  match level with
  | 1 => leBytes 4 pre
  | 2 => (leBytes 4 cl1).drop 1 ++ leBytes 4 pre
  | _ => (leBytes 4 cl1).drop 1 ++ (leBytes 4 cl2).drop 1 ++ leBytes 4 pre

/-- Levels of an identifier. -/
def uidLevels (id : List Byte) : Nat := if id.length ≤ 4 then 1 else if id.length ≤ 7 then 2 else 3

/-- The 32-bit word of a cascade level of a known identifier. -/
def uidWord (id : List Byte) (level : Nat) : Nat :=
  let off := 3 * (level - 1)
  if level < uidLevels id then leNat (0x88 :: (id.drop off).take 3) else leNat ((id.drop off).take 4)

/-- Highest rate code up to `limit` whose bit is set in `mask` (bit r - 1 for code r). -/
def bestRate (mask : Nat) : Nat → Nat
  | 0 => 0
  | r + 1 => if bit mask r then r + 1 else bestRate mask r

/-- The rates chosen from a rate byte of ISO/IEC 14443-3 and -4: [2:0] reader to tag, [6:4] tag to reader, [7] the same
in both directions (R196). -/
def chooseRates (ta maxrate : Nat) : Nat × Nat :=
  let dr := bestRate (bits ta 2 0) 3
  let ds := bestRate (bits ta 6 4) (min maxrate 3)
  if bit ta 7 then
    let r := bestRate (bits ta 2 0 &&& bits ta 6 4) (min maxrate 3)
    (r, r)
  else (dr, ds)

/-- The ATS taken apart: the session with FSC, FWI, SFGI, CID support, and the rate byte (R170, R196, R198, R199). -/
def parseAts (c : Ctx) (bs : List Byte) : Ctx × Nat :=
  let t0 := if 1 < bs.length then u8At bs 1 else 0x02
  let has (i : Nat) : Bool := decide (1 < bs.length) && bit t0 i
  let ta := if has 4 then u8At bs 2 else 0
  let oB := 2 + b2n (has 4)
  let tb := if has 5 then u8At bs oB else 0x40
  let tc := if has 6 then u8At bs (oB + b2n (has 5)) else 0x02
  ({ c with fsc := fscOf (t0 % 16), fwi := min (tb / 16) 14, sfgi := tb % 16, sfgt := decide (0 < tb % 16),
            cid := if bit tc 1 then c.cid else 15 }, ta)

/-- The ATR_RES taken apart: waiting time and frame length. -/
def parseAtr (c : Ctx) (pdu : List Byte) : Ctx :=
  { c with fwi := min (u8At pdu 15 % 16) 14, fsc := [64, 128, 192, 254].getD (bits (u8At pdu 16) 5 4) 64, sfgi := 0 }

/-- Does an ATQB have its form: 0x50, PUPI, application data, protocol info? -/
def isAtqb (p : Parsed) : Bool := p.crcOk && !p.fmtErr && p.flags.isEmpty && p.body.getD 0 0 == 0x50 && 12 ≤ p.body.length

/-- The ATQB taken apart for a session, with the rates chosen (R170, R196, R199). -/
def parseAtqb (c : Ctx) (bs : List Byte) (maxrate : Nat) : Ctx :=
  let r := chooseRates (u8At bs 9) maxrate
  { c with id := (bs.drop 1).take 4, fsc := fscOf (u8At bs 10 / 16), fwi := min (u8At bs 11 / 16) 14,
           sfgi := if 12 < bs.length then u8At bs 12 / 16 else 0, dr := r.1, ds := r.2,
           cid := if bit (u8At bs 11) 0 then c.cid else 15 }

/-- S(PARAMETERS) of the VHBR negotiation (R196): `k` = 0 asks for the rates, `k` = 1 activates those chosen. -/
def paramBlock (k : Nat) (c : Ctx) : Block :=
  if k = 0 then .params [0xA0, 0x02, 0xA1, 0x00]
  else .params ([0xA0, 0x0A, 0xA3, 0x08, 0x83, 0x02] ++ leBytes 2 (2 ^ c.dr) ++ [0x84, 0x02] ++ leBytes 2 (2 ^ c.ds))

/-- The rates chosen from the answer to the rate request: reader to tag up to fc/4 (R113), tag to reader up to MAXRATE. -/
def paramRates (data : List Byte) (maxrate : Nat) : Nat × Nat :=
  let t := data.drop 4
  let down := if t.getD 0 0 = 0x80 then le16At t 2 else 1
  let up := if (t.drop 4).getD 0 0 = 0x81 then le16At t 6 else 1
  (bestRate (down / 2) 5, bestRate (up / 2) (min maxrate 6))

end Sys2Proof.Machine
end

