-- ==== Sys2Proof/Machine/Journal.lean ====
section
/-!
DEFINITION. The journal in MRAM (R308, R309, R314 to R318), the configuration store's layout, audit entries (R326), the
registry's records and their lookup (R310, R311), and the replies to service commands (R321, R324, R331).
-/

namespace Sys2Proof.Machine

/-! CRC-32 (IEEE 802.3). -/

/-- One bit of the reflected CRC-32. -/
def crc32Bit (c : Nat) : Nat := if c % 2 = 1 then (c / 2) ^^^ 0xEDB88320 else c / 2

/-- One byte of the CRC-32. -/
def crc32Byte (c : Nat) (b : Byte) : Nat :=
  let c := c ^^^ b.toNat
  crc32Bit (crc32Bit (crc32Bit (crc32Bit (crc32Bit (crc32Bit (crc32Bit (crc32Bit c)))))))

/-- The CRC-32 of bytes (R80, R310, R314, R326). -/
def crc32 (bs : List Byte) : Nat := 0xFFFFFFFF - bs.foldl crc32Byte 0xFFFFFFFF

/-! MRAM (R308). Offsets are those of the MRAM window. -/

abbrev mramBase : Nat := 0x20000000
abbrev journalAt : Nat := 0x4000000
abbrev journalSize : Nat := 0x400000
abbrev storeAt : Nat := 0x4400000
abbrev imagesAt : Nat := 0x4600000
abbrev controlAt : Nat := 0x4680000
abbrev crashAt : Nat := 0x4690000
abbrev auditAt : Nat := 0x46D0000
abbrev auditSlots : Nat := 150528

/-- Places in the configuration store; the spec lays out its records, and leaves their places open (assumption 15). -/
def serviceAt (t : Nat) : Nat := storeAt + 0x1000 * t
def tableAt (berth : Nat) : Nat := storeAt + 0x10000 + 160 * berth
def blobAt (slot : Nat) : Nat := storeAt + 0x80000 + 128 * slot
abbrev savedEpochAt : Nat := storeAt + 0x8F000
/-- An intent slot (R309, R320). -/
def intentAt (k : Nat) : Nat := controlAt + 0x1000 + 32 * k

/-- A write of MRAM; the fence discards it (R73). -/
def mramWrite (off : Nat) (bs : List Byte) (d : Dev) : Dev :=
  if d.power.fence then d else { d with mem := Memory.write d.mem (mramBase + off) bs }

/-- The entries of journal records, written into a memory in order (R315). -/
def applyEntries (m : Memory) (es : List (Nat × List Byte)) : Memory :=
  es.foldl (fun (m : Memory) (e : Nat × List Byte) => Memory.write m (mramBase + e.1) e.2) m

/-- MRAM as it stands once every committed record is applied: what the runtime's commands read (R315, R322). -/
def Dev.mview (d : Dev) : Memory := d.sv.committed.foldl (fun m r => applyEntries m r.entries) d.mem

/-- Bytes of that view. -/
def Dev.vread (d : Dev) (off n : Nat) : List Byte := Memory.read d.mview (mramBase + off) n

/-- Is the Ferryman runtime running (step 10 of R76)? A fatal error stops it (R440). -/
def Dev.runtime (d : Dev) : Bool := d.applied && d.boot.phase == .runtime && !d.fd.handling

/-- Change the runtime's state. -/
def Dev.modSv (d : Dev) (f : SvSt → SvSt) : Dev := { d with sv := f d.sv }

/-- The value of a register word as its fields stand. -/
def Dev.rawWord (d : Dev) (a : Nat) : Nat :=
  match findReg a with
  | none => 0
  | some h => ((h.spec.flds h.i h.j).foldl (fun acc f => acc + d.rd f.fld * 2 ^ f.lo) 0) / 2 ^ (32 * h.word) % 2 ^ 32

/-! Journal records (R314). -/

/-- `n` rounded up to a multiple of `k`. -/
def roundUp (n k : Nat) : Nat := (n + k - 1) / k * k

/-- The bytes of an entry. -/
def entryBytes (e : Nat × List Byte) : List Byte :=
  leBytes 4 e.1 ++ leBytes 2 e.2.length ++ [0, 0] ++ e.2 ++ List.replicate (roundUp e.2.length 8 - e.2.length) 0

/-- The length of a record with these entries. -/
def recordLen (es : List (Nat × List Byte)) : Nat := roundUp (24 + (es.map fun e => (entryBytes e).length).sum + 16) 64

/-- The bytes of a record: KIND, SEQ, LEN, entries. -/
def recordBytes (kind seq len : Nat) (es : List (Nat × List Byte)) : List Byte :=
  let head := leBytes 4 0x4A524E31 ++ leBytes 2 es.length ++ leBytes 2 kind ++ leBytes 8 seq ++ leBytes 4 len ++ leBytes 4 0
  let body := head ++ (es.map entryBytes).flatten
  let body := body ++ List.replicate (len - 16 - body.length) 0
  body ++ leBytes 4 (crc32 body) ++ leBytes 4 0 ++ leBytes 8 (seq ^^^ 0xA5A5A5A5A5A5A5A5)

/-- A TARGET and SIZE inside the regions that a record may change (R314). -/
def targetOk (t n : Nat) : Bool :=
  decide (1 ≤ n && n ≤ 4096) && (decide (t + n ≤ journalAt) || decide (storeAt ≤ t ∧ t + n ≤ controlAt)
    || decide (controlAt + 0x10 ≤ t ∧ t + n ≤ crashAt) || decide (auditAt ≤ t ∧ t + n ≤ 0x5000000))

/-- The entries of a record's bytes behind its header, if they are well formed. -/
def parseEntries : Nat → List Byte → Option (List (Nat × List Byte))
  | 0, _ => some []
  | k + 1, bs =>
    let t := le32At bs 0
    let n := le16At bs 4
    if bs.length < 8 + roundUp n 8 || !targetOk t n then none
    else (parseEntries k (bs.drop (8 + roundUp n 8))).map fun r => (t, (bs.drop 8).take n) :: r

/-- A valid record read at a journal offset: KIND, SEQ, LEN, entries (R314, R317). -/
def readRecord (m : Memory) (off : Nat) : Option (Nat × Nat × Nat × List (Nat × List Byte)) :=
  let at_ := mramBase + journalAt + off
  let h := m.read at_ 24
  let len := le32At h 16
  let n := le16At h 4
  let kind := le16At h 6
  let seq := leNat ((h.drop 8).take 8)
  if le32At h 0 ≠ 0x4A524E31 || len < 64 || 32768 < len || len % 64 ≠ 0 || journalSize < off + len || 512 < n
      || kind < 1 || 4 < kind || (n = 0 && kind ≠ 4) then none
  else
    let bs := m.read at_ len
    if le32At bs (len - 16) ≠ crc32 (bs.take (len - 16)) || leNat (bs.drop (len - 8)) ≠ (seq ^^^ 0xA5A5A5A5A5A5A5A5) then none
    else (parseEntries n ((bs.take (len - 16)).drop 24)).map fun es => (kind, seq, len, es)

/-- The journal offset of the oldest record not yet applied (TAIL). -/
def Dev.tail (d : Dev) : Nat := Memory.word d.mem (mramBase + controlAt + 8)

/-- APPLIED_SEQ as the control block holds it. -/
def Dev.appliedSeq (d : Dev) : Nat := leNat (Memory.read d.mem (mramBase + controlAt) 8)

/-- Bytes between TAIL and the write position. -/
def Dev.journalUsed (d : Dev) : Nat := (d.sv.jpos + journalSize - d.tail) % journalSize

/-- Does a record of `len` bytes fit, with the PAD record that it may need (R314, R315)? -/
def Dev.journalFits (d : Dev) (len : Nat) : Bool :=
  let pad := if journalSize < d.sv.jpos + len then journalSize - d.sv.jpos else 0
  decide (d.journalUsed + pad + len < journalSize)

/-- Write one record with its COMMIT at the write position (R315 steps 1 and 2). -/
def writeRecord (kind len : Nat) (es : List (Nat × List Byte)) (replies : List (SvcCmd × Nat × List Byte))
    (post : Option TagWrite) (d : Dev) : Dev :=
  let s := d.sv
  let d := mramWrite (journalAt + s.jpos) (recordBytes kind s.jseq len es) d
  let next := (s.jpos + len) % journalSize
  d.modSv fun s => { s with committed := s.committed ++ [⟨s.jseq, es, next, replies, post⟩], jpos := next, jseq := s.jseq + 1 }

/-- Commit a record, behind a PAD record where it would cross the end of the region (R314). -/
def commitRecord (kind : Nat) (es : List (Nat × List Byte)) (replies : List (SvcCmd × Nat × List Byte))
    (post : Option TagWrite) (d : Dev) : Dev :=
  let len := recordLen es
  let d := if journalSize < d.sv.jpos + len then writeRecord 4 (journalSize - d.sv.jpos) [] [] none d else d
  writeRecord kind len es replies post d

/-! Replies (R321, R331). -/

/-- The words of a response (R321). -/
def responseWords (c : SvcCmd) (rc : Nat) (data : List Byte) : List Word :=
  [packW [(16, 16, c.code), (0, 16, c.tag)], packW [(24, 8, rc), (0, 16, data.length)]] ++ bytesToWords data

/-- Answer a service command on the path it came by (R321, R322, R328). A response buffer outside what R328 lets the customer write
receives nothing. -/
def reply (c : SvcCmd) (rc : Nat) (data : List Byte) (d : Dev) : Dev :=
  let data := data.take 1012
  let d := d.modSv fun s => { s with running := s.running.filter (·.via ≠ c.via) }
  let ws := responseWords c rc data
  match c.via with
  | .mailbox =>
    (d.modSv fun s => { s with mboxOut := itemHeader 0x51 (ws.length + 1) false false 0 :: ws }).raise SV_MBOX_STATUS_OUT_READY
  | .queue => d.post 25 0x51 ws
  | .ecall k =>
    let bs := data.take c.buf.2
    let open_ := decide (0x14000000 ≤ c.buf.1 ∧ c.buf.1 + bs.length ≤ 0x1FE00000)
    let d := if open_ then { d with mem := Memory.write d.mem c.buf.1 bs } else d
    d.modSv fun s => { s with ecall := vmod s.ecall k.val fun _ => some (rc, data.length) }

/-- Answer once every committed record is applied, since the answer may rest on it (R315). -/
def replyApplied (c : SvcCmd) (rc : Nat) (data : List Byte) (d : Dev) : Dev :=
  match d.sv.committed.reverse with
  | [] => reply c rc data d
  | r :: rs =>
    d.modSv fun s => { s with committed := rs.reverse ++ [{ r with replies := r.replies ++ [(c, rc, data)] }] }

/-- Let work wait for its journal record. -/
def Dev.owe (d : Dev) (w : Work) : Dev := d.modSv fun s => { s with todo := s.todo ++ [w] }

/-- An audit entry that the runtime writes, once it runs (R326). -/
def audit (a : AuditJob) (d : Dev) : Dev := d.owe (.audit a)

/-! Audit entries (R326). -/

/-- The device's Hawser address, which is 0 where it has none. -/
def Dev.hawserAddr (d : Dev) : Nat := d.rd HS_STATUS_ADDR

/-- The 12 bytes of a timestamp (R334). -/
def stampBytes (ws : List Word) : List Byte := wordsToBytes ws

/-- The next audit entry: its two journal entries, the Q24 item's payload, and what is left of the free values. -/
def auditEntries (a : AuditJob) (d : Dev) : List (Nat × List Byte) × List Word × Dev :=
  let head := leNat (d.vread (controlAt + 0x10) 8)
  let r1 := d.free
  let r2 := r1.2.free
  let r3 := r2.2.free
  let d := r3.2
  let body := leBytes 8 head ++ stampBytes d.stamp ++ leBytes 2 (a.typ.getD r1.1) ++ leBytes 2 d.hawserAddr
    ++ leBytes 2 (a.berth.getD r2.1) ++ [0, 0] ++ leBytes 4 a.record ++ (((a.detail.getD (leBytes 28 r3.1)) ++ List.replicate 28 0).take 28)
  let entry := body ++ leBytes 4 (crc32 body)
  ([(auditAt + 64 * (head % auditSlots), entry), (controlAt + 0x10, leBytes 8 (head + 1))], bytesToWords entry, d)

/-- The entries and events of an audit entry, where there is one. -/
def auditOf (a : Option AuditJob) (d : Dev) : List (Nat × List Byte) × List (List Word) × Dev :=
  match a with
  | none => ([], [], d)
  | some a =>
    let r := auditEntries a d
    (r.1, [r.2.1], r.2.2)

/-! Registry records (R310, R311). -/

/-- Number of registry records. -/
abbrev registrySize : Nat := 1048576

/-- A record as the runtime sees it, and whether its CHECK is right. -/
def Dev.regRecord (d : Dev) (i : Nat) : List Byte := d.vread (64 * i) 64
def checkOk (r : List Byte) : Bool := le32At r 60 == crc32 (r.take 60)

/-- STATE of a record; a record with a wrong CHECK is treated as FREE. Memory that nothing has written reads as a free
record. -/
def recState (r : List Byte) : Nat := if checkOk r then u8At r 0 else 0

/-- The bytes 0x01 to 0x0B of a record. -/
def recKey (r : List Byte) : List Byte := (r.drop 1).take 11

/-- The home index of a key. -/
def homeIndex (key : List Byte) : Nat := crc32 key % registrySize

/-- The outcome of the probes: the record found, and the first index free for an insertion. -/
def probe (d : Dev) (key : List Byte) : Nat → Nat → Option Nat → Option Nat × Option Nat
  | 0, _, slot => (none, slot)
  | n + 1, i, slot =>
    let r := d.regRecord i
    let st := recState r
    let slot' := if slot.isNone && (st = 0 || st = 2) then some i else slot
    if st = 1 && recKey r == key then (some i, slot')
    else if st = 0 then (none, slot')
    else probe d key n ((i + 1) % registrySize) slot'

/-- Look a key up (R311). -/
def Dev.lookup (d : Dev) (key : List Byte) : Option Nat × Option Nat := probe d key 128 (homeIndex key) none

/-- Replace bytes of a record from an offset on. -/
def putAt (r : List Byte) (o : Nat) (bs : List Byte) : List Byte := r.take o ++ bs ++ r.drop (o + bs.length)

/-- A committed change: VER increments and CHECK is recomputed (R312). -/
def reseal (r : List Byte) : List Byte :=
  let r := putAt r 12 (leBytes 4 (le32At r 12 + 1))
  putAt r 60 (leBytes 4 (crc32 (r.take 60)))

/-! SERVICE records and policy classes (R325, R327). -/

/-- The SERVICE records of a Manifest's section: TYPE, FLAGS, data; `n` bounds the scan. -/
def parseService : Nat → List Byte → List (Nat × Nat × List Byte)
  | 0, _ => []
  | n + 1, bs =>
    if bs.length < 8 then []
    else
      let len := le16At bs 2
      (le16At bs 0, le16At bs 4, (bs.drop 8).take len) :: parseService n (bs.drop (8 + roundUp len 4))

/-- The record of a type in the Manifest: FLAGS and data. -/
def Dev.manifestRecord (d : Dev) (t : Nat) : Option (Nat × List Byte) :=
  match d.boot.manifest with
  | none => none
  | some m => ((parseService (m.service.length / 8 + 1) m.service).find? (·.1 = t)).map (·.2)

/-- The record of a type in the configuration store. -/
def Dev.storedRecord (d : Dev) (t : Nat) : Option (Nat × List Byte) :=
  let h := d.vread (serviceAt t) 8
  if le16At h 0 = t && 1 ≤ t then some (le16At h 4, d.vread (serviceAt t + 8) (le16At h 2)) else none

/-- Does the Manifest force a type? -/
def Dev.forced (d : Dev) (t : Nat) : Bool :=
  match d.manifestRecord t with
  | some (f, _) => bit f 0
  | none => false

/-- The record of a type in effect. -/
def Dev.serviceRecord (d : Dev) (t : Nat) : Option (Nat × List Byte) :=
  if d.forced t then d.manifestRecord t
  else match d.storedRecord t with
    | some r => some r
    | none => d.manifestRecord t

/-- COALESCE_MS in effect (R313). -/
def Dev.coalesceMs (d : Dev) : Nat :=
  match d.serviceRecord 1 with
  | some (_, bs) => leNat bs
  | none => 1000

/-- The entry of a policy class; a class that nothing has set reads 0 (R325). -/
def Dev.policy (d : Dev) (c : Nat) : List Byte :=
  match d.serviceRecord 2 with
  | some (_, bs) => ((bs.drop (8 * c)).take 8 ++ List.replicate 8 0).take 8
  | none => List.replicate 8 0

end Sys2Proof.Machine
end

