-- ==== Sys2Proof/Machine/Rounds.lean ====
section
/-!
DEFINITION. Inventory rounds: the tree walk of Type A, the slots of Type B, the masks of ISO/IEC 15693, the polls of NFC-F,
and the disposal of what is found (R182, R186 to R196).
-/

namespace Sys2Proof.Machine

/-- CHn_INV_STATUS.WALK of a step. -/
def InvStep.walk : InvStep → Nat
  | .grant => 0
  | .rfReset | .clear _ | .req | .popReq => 1
  | .anticoll => 2
  | .select | .popSelect _ => 3
  | .halt | .quiet | .attrib | .rats | .atr | .pps | .params _ | .deselect | .closing => 4
  | .slot _ => 5

/-- Hold the round's progress and show it in CHn_INV_STATUS (R189, R205). -/
def setInv (n : Nat) (i : InvSt) (d : Dev) : Dev :=
  let i := { i with maxDepth := max i.maxDepth i.stack.length }
  ((((d.setJob n (.inv i)).wr (CH_INV_STATUS_WALK n) i.step.walk).wr (CH_INV_STATUS_DEPTH n) i.stack.length).wr
    (CH_INV_STATUS_LEVEL n) (if i.proto = 1 then i.level else 0)).wr (CH_INV_STATUS_FOUND n) (min i.found 255)

/-- The next frame of a command or round, to context `k` (15 for none). While the power-fail source is asserted the round
or command stops before it, and the Pontoon releases its grant (R72, R185). -/
def nextFrame (n k : Nat) (f : AirFrame) (d : Dev) : Dev :=
  if d.on PW_STATUS_PFAIL then releaseGrant n emptyFrame (abortJob n cutPOWER_FAIL d) else launch n k f d

/-- Send a frame of the round. -/
def goInv (n : Nat) (i : InvSt) (f : AirFrame) (d : Dev) : Dev := nextFrame n 15 f (setInv n i d)

/-- The round ends DONE, once the attribution of its last tag has come (R204, R229). Tags beyond LIMIT are not disposed of (R194). -/
def endRound (n : Nat) (i : InvSt) (d : Dev) : Dev :=
  if i.tagNow.any (·.attr.isNone) then closeExchange n (setInv n { i with step := .closing, toQuiet := [] } d)
  else
    let d := flushCut n (setInv n { i with toQuiet := [] } d)
    match (d.chan n).job with
    | some (.inv i) => endInventory n i cDONE 0 d
    | _ => d

/-- Push a branch or mask; a push beyond 80 entries is not made, and the round is INCOMPLETE and STACK_FULL (R189). -/
def pushBranch (n : Nat) (i : InvSt) (b : Branch) (d : Dev) : InvSt × Dev :=
  if i.stack.length < 80 then ({ i with stack := b :: i.stack }, d)
  else ({ i with stackFull := true, incomplete := true }, d.raise (CH_INV_STATUS_STACK_FULL_SEEN n))

/-- Is a Type A context in ACTIVE (R182)? -/
def Chan.activeA (c : Chan) : Bool := (upTo 8).any fun k => (c.context k).proto == 1 && (c.context k).st == 2

/-- Type A: pop the next branch and send REQA, after HLTA where a Type A context is in ACTIVE, or end the round (R182, R186). -/
def nextA (n : Nat) (i : InvSt) (d : Dev) : Dev :=
  match i.stack with
  | [] => endRound n i d
  | b :: rest =>
    let i := { i with stack := rest, level := b.level, known := b.known, value := b.value, retried := false }
    if (d.chan n).activeA then goInv n { i with step := .clear true } fHlta d else goInv n { i with step := .popReq } (fReqa false) d

/-- Type A: abandon the branch; the round is INCOMPLETE (R186). -/
def abandonA (n : Nat) (i : InvSt) (d : Dev) : Dev := nextA n { i with incomplete := true, retried := false } d

/-- Type A: ANTICOLLISION on the present branch. -/
def walkA (n : Nat) (i : InvSt) (d : Dev) : Dev :=
  goInv n { i with step := .anticoll } (fAnticoll i.level i.known i.value) d

/-- Type A: first REQA or WUPA of the round, after HLTA where a Type A context is in ACTIVE (R182). -/
def startA (n : Nat) (i : InvSt) (d : Dev) : Dev :=
  if (d.chan n).activeA then goInv n { i with step := .clear false, passes := 1 } fHlta d
  else goInv n { i with step := .req, passes := 1 } (fReqa i.wake) d

/-- Move every Type A context in ACTIVE to HALT (R182). -/
def haltActiveA (n : Nat) (d : Dev) : Dev :=
  d.each (upTo 8) fun k => fun d =>
    d.modCtx n k fun c => if c.proto = 1 && c.st = 2 then { c with st := 4 } else c

/-- 15693: request the slots of the present mask (R192). -/
def requestV (n : Nat) (i : InvSt) (d : Dev) : Dev :=
  goInv n { i with step := .slot 0, collided := [], ids := [], toQuiet := [] } (fInventory i.afi i.maskLen i.mask) d

/-- 15693: walk the next mask, or end the round. -/
def nextV (n : Nat) (i : InvSt) (d : Dev) : Dev :=
  match i.stack with
  | [] => endRound n i d
  | b :: rest => requestV n { i with stack := rest, maskLen := b.known, mask := b.value } d

/-- 15693: push the masks of the collided slots, in descending slot order; a mask beyond 60 bits is not pushed (R192). -/
def pushMasks (n : Nat) : List Nat → InvSt → Dev → InvSt × Dev
  | [], i, d => (i, d)
  | j :: js, i, d =>
    if 60 < i.maskLen + 4 then pushMasks n js { i with incomplete := true } d
    else
      let r := pushBranch n i { level := 0, known := i.maskLen + 4, value := i.mask + j * 2 ^ i.maskLen } d
      pushMasks n js r.1 r.2

/-- Is there work left for the round (LIMIT_HIT), with ROUNDS passes or polls? An NFC-F round would poll again after a poll with a
collision or a new IDm. -/
def InvSt.workLeft (i : InvSt) (rounds : Nat) : Bool :=
  !i.stack.isEmpty || !i.collided.isEmpty || !i.toQuiet.isEmpty || (i.proto == 4 && i.newIds && decide (i.passes < rounds))
    || (match i.step with
        | .slot s => if i.proto = 2 then decide (s < i.slots) else i.proto == 3 && decide (s < 15)
        | _ => i.proto == 2 && decide (i.known < i.slots))

/-- 15693: after slot 15, quiet what was found, push the collided slots, go on (R192). -/
def afterSlotsV (n : Nat) (i : InvSt) (d : Dev) : Dev :=
  match i.toQuiet with
  | t :: rest =>
    goInv n { i with step := .quiet, toQuiet := rest, tagNow := some t } (fQuiet t.id) d
  | [] =>
    let r := pushMasks n (i.collided.mergeSort (fun a b => b ≤ a)) i d
    nextV n { r.1 with collided := [] } r.2

/-- Type B: the next slot, the next pass, or the end of the round (R191). -/
def nextB (n : Nat) (i : InvSt) (d : Dev) : Dev :=
  if i.known < i.slots then
    goInv n { i with step := .slot (i.known + 1), known := i.known + 1 } (fMarker (i.known + 1)) d
  else if i.collided.isEmpty then endRound n i d
  else if i.passes < d.rd (CH_INV_CFG_ROUNDS n) then
    goInv n { i with step := .slot 1, known := 1, passes := i.passes + 1, collided := [] } (fReqb false i.afi i.slots) d
  else endRound n { i with incomplete := true, collided := [] } d

/-- NFC-F: send the polling request (R193). -/
def pollF (n : Nat) (i : InvSt) (d : Dev) : Dev :=
  goInv n { i with step := .slot 0, passes := i.passes + 1, collided := [], newIds := false, heard := false }
    (fPoll (i.mask / 65536 % 65536) (i.mask % 256) i.slots) d

/-- Go on with the round after a tag has been disposed of (R186, R194). -/
def afterDispose (n : Nat) (d : Dev) : Dev :=
  match (d.chan n).job with
  | some (.inv i) =>
    if i.limit ≤ i.found then endRound n { i with limitHit := i.workLeft (d.rd (CH_INV_CFG_ROUNDS n)) } d
    else if i.proto = 1 then nextA n i d
    else if i.proto = 2 then nextB n i d
    else if i.proto = 3 then
      match i.step with
      | .quiet => afterSlotsV n i d
      | _ => d
    else d
  | _ => d

/-- The tag of the round has been disposed of: it takes a context where KEEP asks for one and one is free, and its item
is queued, once its attribution is known for a tag that needs no further frame (R180, R194). -/
def disposed (n st : Nat) (halted activated : Bool) (d : Dev) : Dev :=
  match (d.chan n).job with
  | some (.inv i) =>
    match i.tagNow with
    | none => d
    | some t =>
      let k := if i.keep then (d.chan n).freeCtx else none
      let d := match k with
        | some k => d.modCtx n k fun c =>
            { i.build with st := st, proto := t.proto, gen := c.gen, coil := i.coil, id := t.id, sak := t.sak }
        | none => d
      let noCtx := i.keep && k.isNone
      let i := { i with found := i.found + 1, kept := i.kept + b2n k.isSome, noCtx := i.noCtx + b2n noCtx,
                        tagNow := some { t with ctx := k, halted := halted, activated := activated && k.isSome,
                                                ready := true },
                        build := Ctx.free }
      let d := setInv n i (d.raiseIf noCtx (CH_INV_STATUS_NO_CTX_SEEN n))
      if t.proto ≤ 2 || t.attr.isSome then flushTag n d else d
  | _ => d

/-- Halt the tag of the round: HLTA, or HLTB with its PUPI (R191, R194). -/
def haltTag (n : Nat) (i : InvSt) (t : FoundTag) (d : Dev) : Dev :=
  goInv n { i with step := .halt, tagNow := some t, build := Ctx.free } (if t.proto = 1 then fHlta else fHltb t.id) d

/-- MAXRATE that an inventory's activation uses (R196). -/
def InvSt.maxrate (i : InvSt) : Nat := if i.vhbr then 6 else 0

/-- Send ATTRIB for the tag of the round, or refuse with CID_CONFLICT and halt it (R191, R196, R199). -/
def attribTag (n : Nat) (i : InvSt) (t : FoundTag) (d : Dev) : Dev :=
  let c := d.chan n
  if i.build.cid = 15 && (c.otherNoCid 15).isSome then haltTag n i t d
  else goInv n { i with step := .attrib, tagNow := some t } (fAttrib i.build 8) d

/-- The session under construction for an activation into context `k`, 15 where none is taken yet (R196, R198). -/
def buildCtx (proto coil k : Nat) (c : Chan) (sak : Nat) (id : List Byte) : Ctx :=
  { Ctx.free with proto := proto, coil := coil, cid := c.freeCid k, id := id, sak := sak }

/-- A tag has been found: activate it, halt it, or note it for the quiet frames (R186, R191 to R194). -/
def foundTag (n : Nat) (i : InvSt) (t : FoundTag) (atqb : Option Parsed) (d : Dev) : Dev :=
  let c := d.chan n
  let t := { t with attr := if bit (wordAt t.record 0) 22 then some (berthOf n i.coil, 0, 0x7FF, 0) else none }
  let act := i.keep && i.activate && c.freeCtx.isSome
  if i.proto = 1 then
    if act && (bit t.sak 5 || bit t.sak 6) then
      let b := buildCtx 1 i.coil 15 c t.sak t.id
      if bit t.sak 5 then goInv n { i with step := .rats, tagNow := some t, build := b } (fRats 8 b.cid) d
      else
        let r := d.free
        goInv n { i with step := .atr, tagNow := some t, build := { b with dep := true } }
          (fAtr 1 b.cid (beBytes 10 r.1)) r.2
    else haltTag n i t d
  else if i.proto = 2 then
    match atqb with
    | some p =>
      if act then
        attribTag n { i with tries := 0, build := parseAtqb (buildCtx 2 i.coil 15 c 0 t.id) p.body i.maxrate } t d
      else haltTag n i t d
    | none => haltTag n i t d
  else if i.proto = 3 then
    if d.on (CH_INV_CFG_V_QUIET n) then setInv n { i with toQuiet := i.toQuiet ++ [t] } d
    else disposed n 1 false false (setInv n { i with tagNow := some t } d)
  else disposed n 2 false false (setInv n { i with tagNow := some t, ids := t.id :: i.ids, newIds := true } d)

/-- A found tag from its identifying reply. -/
def mkFound (proto : Nat) (id : List Byte) (info0 info1 sak : Nat) (rec : List Word) : FoundTag :=
  { proto := proto, id := id, info0 := info0, info1 := info1, sak := sak, record := rec,
    sbAmp := bits (wordAt rec 1) 23 16, ctx := none, halted := false, activated := false, ready := false, attr := none }

/-- The activation of the round's tag has succeeded (R194). -/
def activatedTag (n : Nat) (i : InvSt) (d : Dev) : Dev :=
  let sfgt := if i.proto = 2 then decide (0 < i.build.sfgi) else i.build.sfgt
  let d := disposed n 3 false true (setInv n { i with build := { i.build with block := 0, sfgt := sfgt } } d)
  afterDispose n d

/-- Does an ATS offer a rate above fc/128 in either direction (R196)? -/
def offersRates (ta : Nat) : Bool := bits ta 2 0 != 0 || bits ta 6 4 != 0

/-- What follows a good ATS: CID conflict, rate negotiation, or the end of the activation (R196, R199). -/
def afterAts (n : Nat) (i : InvSt) (ta : Nat) (d : Dev) : Dev :=
  let c := d.chan n
  if i.build.cid = 15 && (c.otherNoCid 15).isSome then
    goInv n { i with step := .deselect } (blockFrame { i.build with cid := 15 } .deselect) d
  else if offersRates ta && d.vhbr n && 3 < i.maxrate then
    goInv n { i with step := .params 0 } (blockFrame i.build (paramBlock 0 i.build)) d
  else if offersRates ta then
    let r := chooseRates ta i.maxrate
    let b := { i.build with dr := r.1, ds := r.2 }
    goInv n { i with step := .pps, build := b } (fPps b) d
  else activatedTag n i d

/-- A Type A anticollision answer (R186, R188). -/
def onAnticoll (n : Nat) (i : InvSt) (r : Option (Parsed × List Word)) (d : Dev) : Dev :=
  match r with
  | none => abandonA n i d
  | some (p, _) =>
    let uid := p.data.take (32 - i.known)
    let rest := (p.data.drop (32 - i.known)).take 8
    match uid.findIdx? (fun x => p.flags.contains x.2) with
    | some o =>
      let pos := i.known + o
      let got := i.value + packLsb ((uid.take o).map (·.1)) * 2 ^ i.known
      let b1 := d.rd (CH_INV_CFG_BRANCH1 n)
      let r := pushBranch n i { level := i.level, known := pos + 1, value := got + (1 - b1) * 2 ^ pos } d
      walkA n { r.1 with known := pos + 1, value := got + b1 * 2 ^ pos, retried := false } r.2
    | none =>
      let full := i.value + packLsb (uid.map (·.1)) * 2 ^ i.known
      let bccBad := !(rest.any fun x => p.flags.contains x.2) && packLsb (rest.map (·.1)) != bccOf full
      if rest.length < 8 || p.parityErr || bccBad then
        if i.retried then abandonA n i d else walkA n { i with retried := true } d
      else
        goInv n { i with step := .select, value := full, known := 32, retried := false } (fSelect i.level full) d

/-- The SAK that follows SELECT (R186). -/
def onSak (n : Nat) (i : InvSt) (r : Option (Parsed × List Word)) (d : Dev) : Dev :=
  match r with
  | none => abandonA n i d
  | some (p, rec) =>
    if !p.crcOk || p.body.isEmpty then abandonA n i d
    else
      let sak := u8At p.body 0
      if bit sak 2 then
        if i.level = 3 then abandonA n i d
        else
          let i := if i.level = 1 then { i with cl1 := i.value } else { i with cl2 := i.value }
          walkA n { i with level := i.level + 1, known := 0, value := 0 } d
      else
        foundTag n i (mkFound 1 (uidOf i.level i.cl1 i.cl2 i.value) (i.atqa * 65536 + sak) 0 sak rec) none d

/-- The SAK of a path level after a pop (R186). -/
def onPopSak (n : Nat) (i : InvSt) (j : Nat) (r : Option (Parsed × List Word)) (d : Dev) : Dev :=
  match r with
  | none => abandonA n i d
  | some (p, _) =>
    if !p.crcOk || !bit (u8At p.body 0) 2 then abandonA n i d
    else if j + 1 < i.level then goInv n { i with step := .popSelect (j + 1) } (fSelect (j + 1) i.cl2) d
    else walkA n i d

/-- An answer, or none, in a slot of Type B or ISO/IEC 15693, or in a polling (R191 to R193). -/
def onSlot (n : Nat) (i : InvSt) (s : Nat) (r : Option (Parsed × List Word)) (d : Dev) : Dev :=
  if i.proto = 2 then
    match r with
    | none => nextB n i d
    | some (p, rec) =>
      if isAtqb p then
        foundTag n i (mkFound 2 ((p.body.drop 1).take 4) (le32At p.body 5) (leNat ((p.body.drop 9).take 3)) 0 rec)
          (some p) d
      else nextB n { i with collided := i.collided ++ [s] } d
  else if i.proto = 3 then
    let d := match r with
      | none => d
      | some (p, rec) =>
        if p.crcOk && p.flags.isEmpty && 10 ≤ p.body.length then
          foundTag n i (mkFound 3 ((p.body.drop 2).take 8) (u8At p.body 1) 0 0 rec) none d
        else setInv n { i with collided := i.collided ++ [s] } d
    match (d.chan n).job with
    | some (.inv i) =>
      if i.limit ≤ i.found then endRound n { i with limitHit := i.workLeft (d.rd (CH_INV_CFG_ROUNDS n)) } d
      else if s < 15 then goInv n { i with step := .slot (s + 1) } fEof d
      else afterSlotsV n i d
    | _ => d
  else
    match r with
    | none =>
      if i.collided.isEmpty && !i.newIds then endRound n i d
      else if i.passes < d.rd (CH_INV_CFG_ROUNDS n) then pollF n i d
      else endRound n { i with incomplete := i.incomplete || !i.collided.isEmpty } d
    | some (p, rec) =>
      let i := { i with heard := true }
      if p.crcOk && p.flags.isEmpty && 18 ≤ p.body.length then
        let id := (p.body.drop 2).take 8
        if i.ids.contains id then setInv n i d
        else
          let d := flushTag n (setInv n i d)
          match (d.chan n).job with
          | some (.inv i) =>
            afterDispose n (foundTag n i (mkFound 4 id (le32At p.body 10) (le32At p.body 14) 0 rec) none d)
          | _ => d
      else setInv n { i with collided := i.collided ++ [0] } d

/-- A further frame of the S(PARAMETERS) exchange of a round's activation: the response to S(WTX), a retransmission that R(ACK) asks for,
or R(NAK), while the limits allow (R171 to R173); then the tag stays at fc/128. -/
def onInvParams (n : Nat) (i : InvSt) (b : Block) (d : Dev) : Dev :=
  match (d.chan n).exch with
  | none => d
  | some e =>
    let c := { i.build with ds := 0 }
    let slow (d : Dev) := activatedTag n { i with build := { i.build with dr := 0, ds := 0 } } d
    let again (f : AirFrame) (d : Dev) : Dev :=
      if e.retries < d.rd (CH_FT_FWT_RETRY n) then
        relaunch n f (fun e => { e with retries := e.retries + 1, wtxm := 0 }) (d.seq n 6)
      else slow d
    match b with
    | .wtx m =>
      if 1 ≤ m && m ≤ 59 then
        if d.rd (CH_FT_FWT_WTX_MAX n) ≤ e.wtx then slow d
        else
          relaunch n (blockFrame c (.wtx m)) (fun e => { e with wtx := e.wtx + 1, wtxm := m })
            ((d.raise (CH_FT_STATUS_WTX_SEEN n)).countSat (CH_FT_STATS_WTX n) 1)
      else again (blockFrame c (.nak c.block)) d
    | .ack _ => again e.lastBlock d
    | _ => again (blockFrame c (.nak c.block)) d

/-- A frame of the round has its answer, or none (R186, R191 to R196, R199). -/
def onInv (n : Nat) (i : InvSt) (r : Option (Parsed × List Word)) (d : Dev) : Dev :=
  let good := match r with
    | some (p, _) => p.crcOk && !p.fmtErr
    | none => false
  let body := match r with
    | some (p, _) => p.body
    | none => []
  match i.step with
  | .grant | .rfReset | .clear _ | .quiet | .closing => d
  | .req =>
    match r with
    | none => endRound n i d
    | some (p, _) => walkA n { i with atqa := le16At p.bytes 0, level := 1, known := 0, value := 0 } d
  | .popReq =>
    match r with
    | none => abandonA n i d
    | some (p, _) =>
      let i := { i with atqa := le16At p.bytes 0 }
      if 1 < i.level then goInv n { i with step := .popSelect 1 } (fSelect 1 i.cl1) d else walkA n i d
  | .anticoll => onAnticoll n i r d
  | .select => onSak n i r d
  | .popSelect j => onPopSak n i j r d
  | .halt => afterDispose n (disposed n 4 true false d)
  | .slot s => onSlot n i s r d
  | .rats =>
    if good then
      let a := parseAts i.build body
      afterAts n { i with build := a.1 } a.2 d
    else
      match i.tagNow with
      | some t => haltTag n i t d
      | none => d
  | .atr =>
    let pdu := body.drop 2
    if good && pdu.getD 0 0 == 0xD5 && pdu.getD 1 0 == 0x01 then activatedTag n { i with build := parseAtr i.build pdu } d
    else
      match i.tagNow with
      | some t => haltTag n i t d
      | none => d
  | .pps =>
    activatedTag n { i with build := if good then i.build else { i.build with dr := 0, ds := 0 } } d
  | .params k =>
    match parseBlock i.build body, good, k with
    | .params data, true, 0 =>
      let x := paramRates data i.maxrate
      let b := { i.build with dr := x.1, ds := x.2 }
      goInv n { i with step := .params 1, build := b } (blockFrame { b with ds := 0 } (paramBlock 1 b)) d
    | .params _, true, _ => activatedTag n i d
    | b, _, _ => onInvParams n i (if good then b else .bad) d
  | .attrib =>
    if good then activatedTag n i d
    else if i.tries < d.rd (CH_FT_FWT_RETRY n) then
      goInv n { i with tries := i.tries + 1 } (fAttrib i.build 8) d
    else
      match i.tagNow with
      | some t => haltTag n i t d
      | none => d
  | .deselect =>
    -- both sessions without CID are deselected (R199)
    let d := match (d.chan n).otherNoCid 15 with
      | some j => d.modCtx n j fun c => { c with st := 4 }
      | none => d
    afterDispose n (disposed n 4 true false d)

/-- A frame of the round that expects no answer has ended (R186, R192, R194). -/
def onInvSent (n : Nat) (i : InvSt) (d : Dev) : Dev :=
  match i.step with
  | .clear false => goInv n { i with step := .req } (fReqa i.wake) (haltActiveA n d)
  | .clear true => goInv n { i with step := .popReq } (fReqa false) (haltActiveA n d)
  | .halt => afterDispose n (disposed n 4 true false d)
  | .quiet => afterDispose n (flushTag n (disposed n 4 true false d))
  | _ => d

/-- The guard of the round's grant has elapsed: the first frame, with the slot count in force (R184, R191 to R193). The mask of a command
is the first entry of its stack. -/
def startRound (n : Nat) (i : InvSt) (d : Dev) : Dev :=
  if i.proto = 1 then startA n i d
  else if i.proto = 2 then
    let slots := d.rd (CH_INV_CFG_B_SLOTS n)
    goInv n { i with step := .slot 1, known := 1, passes := 1, slots := slots } (fReqb i.wake i.afi slots) d
  else if i.proto = 3 then
    nextV n { i with passes := 1, stack := [{ level := 0, known := i.maskLen, value := i.mask }], maxDepth := 1 } d
  else pollF n { i with slots := d.rd (CH_INV_CFG_F_SLOTS n) } d

end Sys2Proof.Machine
end

