-- ==== Sys2Proof/Machine/Commands.lean ====
section
/-!
DEFINITION. The Pontoon's commands other than INVENTORY: activation, exchanges with block chaining and recovery, halting,
migration, RF reset, authentication and secure messaging (R171 to R173, R182 to R184, R196 to R203, R247 to R255).
-/

namespace Sys2Proof.Machine

/-- Send the frame of the running command's next exchange. At the old placement of a session that has migrated none is sent any more
(R177, R201). -/
def goCmd (n : Nat) (s : CmdSt) (f : AirFrame) (d : Dev) : Dev :=
  if ((d.chan n).context s.ctx).leaving then endCommand n s cABORTED cutMIGRATED [] d
  else nextFrame n s.ctx f (d.setJob n (.cmd s))

/-- A command that starts on context `k`. -/
def mkCmd (cmd : PCmd) (k : Nat) (c : Ctx) (step : CmdStep) : CmdSt :=
  { cmd := cmd, ctx := k, gen := c.gen, step := step, toSend := [], data := [], ra := [], rb := [], sm := none,
    begun := false, repeat_ := false, notReceived := false, chaining := false, build := Ctx.free }

/-! Activation (R182, R196, R198, R199). -/

/-- FSDI and MAXRATE of an ACTIVATE. -/
def CmdSt.fsdi (s : CmdSt) : Nat := bits (wordAt s.cmd.args 0) 7 4
def CmdSt.maxrate (s : CmdSt) : Nat := bits (wordAt s.cmd.args 0) 3 0
def CmdSt.dep (s : CmdSt) : Bool := bit (wordAt s.cmd.args 0) 8

/-- Send WUPA or WUPB; before WUPA, HLTA where a Type A context is in ACTIVE (R182). -/
def goWup (n : Nat) (s : CmdSt) (tries : Nat) (d : Dev) : Dev :=
  let c := (d.chan n).context s.ctx
  if c.proto = 1 && (d.chan n).activeA then goCmd n { s with step := .hlta tries } fHlta d
  else goCmd n { s with step := .wup tries } (if c.proto = 1 then fReqa true else fReqb true 0 1) d

/-- Send SELECT of a level. -/
def goSel (n : Nat) (s : CmdSt) (level tries : Nat) (d : Dev) : Dev :=
  let c := (d.chan n).context s.ctx
  goCmd n { s with step := .sel level tries } (fSelect level (uidWord c.id level)) d

/-- ACTIVATE ends NOT_FOUND; the context keeps its state (R196). -/
def notFound (n : Nat) (s : CmdSt) (d : Dev) : Dev := endCommand n s cNOT_FOUND 0 [] d

/-- The activation has succeeded: the context takes its state (R180), unless its session has moved on (R202). -/
def activateDone (n st : Nat) (s : CmdSt) (d : Dev) : Dev :=
  let d := d.modCtx n s.ctx fun c =>
    if c.leaving then c
    else
      { s.build with st := st, proto := c.proto, gen := c.gen, coil := c.coil, twin := c.twin, id := c.id, sak := c.sak,
                     block := 0, sfgt := if c.proto = 2 then decide (0 < s.build.sfgi) else s.build.sfgt }
  endCommand n s cDONE 0 [] d

/-- A Type A tag has been selected: activate it if it is capable (R180, R196). -/
def afterSelect (n : Nat) (s : CmdSt) (sak : Nat) (d : Dev) : Dev :=
  let c := d.chan n
  let x := c.context s.ctx
  let b := buildCtx 1 x.coil s.ctx c sak x.id
  let d := d.modCtx n s.ctx fun x => if x.leaving then x else { x with sak := sak }
  if s.dep || (bit sak 6 && !bit sak 5) then
    let r := d.free
    goCmd n { s with step := .atr, build := { b with dep := true } } (fAtr 1 b.cid (beBytes 10 r.1)) r.2
  else if bit sak 5 then goCmd n { s with step := .rats, build := b } (fRats s.fsdi b.cid) d
  else activateDone n 2 { s with build := { b with cid := 15 } } d

/-- What follows a good ATS in an ACTIVATE (R196, R199). -/
def activateAts (n : Nat) (s : CmdSt) (ta : Nat) (d : Dev) : Dev :=
  let c := d.chan n
  if s.build.cid = 15 && (c.otherNoCid s.ctx).isSome then
    goCmd n { s with step := .deselect } (blockFrame s.build .deselect) d
  else if offersRates ta && d.vhbr n && 3 < s.maxrate then
    goCmd n { s with step := .params 0 } (blockFrame s.build (paramBlock 0 s.build)) d
  else if offersRates ta then
    let r := chooseRates ta s.maxrate
    let b := { s.build with dr := r.1, ds := r.2 }
    goCmd n { s with step := .pps, build := b } (fPps b) d
  else activateDone n 3 s d

/-- ATTRIB of an ACTIVATE, or CID_CONFLICT (R199). -/
def goAttrib (n : Nat) (s : CmdSt) (tries : Nat) (d : Dev) : Dev :=
  if s.build.cid = 15 && ((d.chan n).otherNoCid s.ctx).isSome then endCommand n s cCID_CONFLICT 0 [] d
  else goCmd n { s with step := .attrib tries } (fAttrib s.build s.fsdi) d

/-! Exchanges in ISO/IEC 14443-4 and NFC-DEP (R171 to R173, R184). -/

/-- The session whose blocks a command exchanges: of S(PARAMETERS), the one that its activation builds, at fc/128 until then (R196). -/
def Chan.session (c : Chan) (s : CmdSt) : Ctx :=
  match s.step with
  | .params _ => { s.build with ds := 0 }
  | _ => c.context s.ctx

/-- Send the next I-block of the data still to send. -/
def sendChunk (n : Nat) (s : CmdSt) (d : Dev) : Dev :=
  let c := (d.chan n).context s.ctx
  let part := s.toSend.take c.chunk
  let rest := s.toSend.drop c.chunk
  let f := blockFrame c (.info c.block (!rest.isEmpty) part)
  let d := d.setJob n (.cmd { s with toSend := rest })
  match (d.chan n).exch with
  | some _ => relaunch n f (fun e => { e with lastBlock := f, wtxm := 0 }) d
  | none => nextFrame n s.ctx f d

/-- Begin an exchange that sends `bs` as information field (R184); at the old placement of a session that has migrated none begins (R177). -/
def beginBlocks (n : Nat) (s : CmdSt) (bs : List Byte) (d : Dev) : Dev :=
  if ((d.chan n).context s.ctx).leaving then endCommand n s cABORTED cutMIGRATED [] d
  else sendChunk n { s with toSend := bs, data := [], chaining := false }
    (d.modChan n fun c => { c with exch := none })

/-- The session does not answer after its migration (R203). -/
def reconFail (n : Nat) (s : CmdSt) (d : Dev) : Dev :=
  endCommand n s cRECON_FAIL 0 [] (sessionEnd n s.ctx seRECON_FAIL d)

/-- The exchange has failed for good: the command ends PROTOCOL, and the session is halted by S(DESELECT) if the tag still
answers (R172, R180). A reconciliation fails (R203); an activation leaves its context as it was. -/
def protocolEnd (n : Nat) (s : CmdSt) (d : Dev) : Dev :=
  let c := (d.chan n).context s.ctx
  if c.leaving then endCommand n s cPROTOCOL 0 [] d
  else
    match s.step with
    | .reconcile _ => reconFail n s d
    | .params _ => endCommand n s cPROTOCOL 0 [] d
    | _ =>
    let d := commandItem n s.cmd s.ctx s.gen false cPROTOCOL 0 s.repeat_ s.notReceived [] d
    let d := closeExchange n d
    if s.step = .halt then endHalt d else launch n s.ctx (blockFrame c .deselect) (d.setJob n (.cmd { s with step := .protoHalt }))
where
  endHalt (d : Dev) : Dev :=
    drain n (reconcileNext n (sessionEnd n s.ctx sePROTOCOL (d.modChan n fun c => { c with job := none })))

/-- Another frame of the exchange after a failed block: a retransmission, R(NAK) or R(ACK), while attempts remain
(R172). -/
def retry (n : Nat) (s : CmdSt) (e : Exch) (f : AirFrame) (d : Dev) : Dev :=
  let d := d.seq n 6
  if e.retries < d.rd (CH_FT_FWT_RETRY n) then
    relaunch n f (fun e => { e with retries := e.retries + 1, wtxm := 0 }) d
  else protocolEnd n s d

/-- R(NAK), or R(ACK) while the tag is chaining (R172). -/
def recover (n : Nat) (s : CmdSt) (e : Exch) (d : Dev) : Dev :=
  let c := (d.chan n).session s
  retry n s e (blockFrame c (if s.chaining then .ack c.block else .nak c.block)) d

/-- Toggle the block number of the session. -/
def toggleBlock (n k : Nat) (d : Dev) : Dev := d.modCtx n k fun c => { c with block := (c.block + 1) % c.modulus }

/-- The status word at the end of a reply, none where it is shorter (R247). -/
def statusWord (bs : List Byte) : List Byte := if bs.length < 2 then [] else bs.drop (bs.length - 2)

/-- A reply that is a plain status word counts (CY_SM_STATS). -/
def plainStatus (bs : List Byte) (d : Dev) : Dev := if bs.length = 2 then d.countSat CY_SM_STATS_TAG_STATUS 1 else d

/-- The outcome of pass 1 of AUTH: E is sent, or the command ends (R247). -/
def authPass2 (n : Nat) (s : CmdSt) (d : Dev) : Dev :=
  let w := wordAt s.cmd.args 0
  let sw := statusWord s.data
  if s.data.length ≠ 18 || sw ≠ [0x90, 0x00] then endCommand n s cTAG_STATUS 0 sw (plainStatus s.data d)
  else
    match d.keySlot (bits w 21 16) with
    | none => endCommand n s cKEY_EMPTY 0 sw d
    | some k =>
      let rb := s.data.take 16
      let e := cbcEncrypt k.key 2 (zeros 16) (s.ra ++ rb)
      beginBlocks n { s with step := .auth2, rb := rb }
        ([byte (bits w 7 0), 0x82, 0x00, byte (bits w 15 8), 0x20] ++ e ++ [0x20]) d

/-- The outcome of pass 3 of AUTH (R247, R248). -/
def authEnd (n : Nat) (s : CmdSt) (d : Dev) : Dev :=
  let w := wordAt s.cmd.args 0
  let slot := bits w 21 16
  -- pass 1 ended with 90 00, which is the last status word where pass 3 gives none
  let sw := if s.data.length < 2 then [0x90, 0x00] else statusWord s.data
  if s.data.length ≠ 34 || sw ≠ [0x90, 0x00] then endCommand n s cTAG_STATUS 0 sw (plainStatus s.data d)
  else
    match d.keySlot slot with
    | none => endCommand n s cKEY_EMPTY 0 sw d
    | some k =>
      if cbcDecrypt k.key 2 (zeros 16) (s.data.take 32) = s.rb ++ s.ra then
        let sm : SmSession := { kEnc := deriveKey k.key 1 s.ra s.rb, kMac := deriveKey k.key 2 s.ra s.rb, c := 0,
                                slot := slot, version := k.version, unconfirmed := false }
        let d := d.modCtx n s.ctx fun c => if c.leaving then c else { c with sm := some sm }
        endCommand n s cDONE 0 sw d
      else endCommand n s cAUTH_FAIL 0 sw (d.countSat CY_SM_STATS_AUTH_FAIL 1)

/-- The outcome of a secured exchange (R250, R254, R255). -/
def smEnd (n : Nat) (s : CmdSt) (d : Dev) : Dev :=
  let c := (d.chan n).context s.ctx
  match s.sm with
  | none => endCommand n s cKEY_EMPTY 0 [] d
  | some x =>
    if !c.leaving && c.sm.isNone then endCommand n s cKEY_EMPTY 0 [] d
    else
      let lose (d : Dev) : Dev := if c.leaving then d else dropSession n s.ctx d
      if s.data.length = 2 then
        endCommand n s cTAG_STATUS 0 s.data (lose (d.countSat CY_SM_STATS_TAG_STATUS 1))
      else
        match smUnwrap x s.data with
        | none => endCommand n s cMAC_FAIL 0 [] (lose (d.countSat CY_SM_STATS_MAC_FAIL 1))
        | some plain =>
          let d := d.modCtx n s.ctx fun c =>
            if c.leaving then c else { c with sm := c.sm.map fun y => { y with unconfirmed := false } }
          endCommand n s cDONE 0 plain d

/-- The reconciled session takes its state again, and MIGRATE ends (R203, R255). Where the entry that its answer needs has been discarded
meanwhile, nothing is decrypted (R254). -/
def reconcileEnd (n : Nat) (s : CmdSt) (d : Dev) : Dev :=
  let d := d.modCtx n s.ctx fun c => { c with st := c.prev }
  match ((d.chan n).context s.ctx).sm with
  | some x =>
    if !x.unconfirmed then endCommand n s cDONE 0 s.data d
    else if s.notReceived then
      endCommand n s cDONE 0 [] (d.modCtx n s.ctx fun c => { c with sm := some { x with c := x.c - 1, unconfirmed := false } })
    else
      match smUnwrap x s.data with
      | some plain =>
        endCommand n s cDONE 0 plain (d.modCtx n s.ctx fun c => { c with sm := some { x with unconfirmed := false } })
      | none => endCommand n s cMAC_FAIL 0 [] (dropSession n s.ctx d)
  | none =>
    if s.sm.any (·.unconfirmed) then endCommand n s cKEY_EMPTY 0 [] d else endCommand n s cDONE 0 s.data d

/-- The whole answer of an exchange has arrived. -/
def answered (n : Nat) (s : CmdSt) (d : Dev) : Dev :=
  match s.step with
  | .auth1 => authPass2 n s d
  | .auth2 => authEnd n s d
  | .sm => smEnd n s d
  | .reconcile _ => reconcileEnd n { s with repeat_ := true } d
  | _ => endCommand n s cDONE 0 s.data d

/-- Has the session of a secured command been discarded while it runs (R254)? At the old placement it keeps a private copy (R255). -/
def lostSession (c : Chan) : Option CmdSt :=
  match c.job with
  | some (.cmd s) =>
    if s.step = .sm && !(c.context s.ctx).leaving && (c.context s.ctx).sm.isNone then some s else none
  | _ => none

/-- A failed answer to a block: the recovery of R172, a further attempt of R203, or a further S(DESELECT). An exchange whose session keys
were discarded ends here (R254). -/
def failedBlock (n : Nat) (s : CmdSt) (e : Exch) (d : Dev) : Dev :=
  if (lostSession (d.chan n)).isSome then endCommand n s cKEY_EMPTY 0 [] d
  else
  match s.step with
  | .reconcile tries =>
    if s.chaining then recover n s e d
    else if tries < d.rd (CH_FT_FWT_RETRY n) then
      relaunch n e.lastBlock (fun e => { e with wtxm := 0 }) (d.setJob n (.cmd { s with step := .reconcile (tries + 1) }))
    else reconFail n s d
  | .halt => retry n s e e.lastBlock d
  | _ => recover n s e d

/-- Is the step one of the S(PARAMETERS) negotiation? -/
def CmdStep.isParams : CmdStep → Bool
  | .params _ => true
  | _ => false

/-- The halting frame of HALT is over: the session ends HALTED, unless it has moved on (R180, R201). -/
def halted (n k : Nat) (d : Dev) : Dev := if ((d.chan n).context k).leaving then d else sessionEnd n k seHALTED d

/-- A block has been answered, or not (R171 to R173, R184, R203). -/
def onBlock (n : Nat) (s : CmdSt) (e : Exch) (p : Option Parsed) (d : Dev) : Dev :=
  let c := (d.chan n).session s
  let b := match p with
    | some p => if p.crcOk && !p.fmtErr then parseBlock c p.body else .bad
    | none => .bad
  match b with
  | .wtx m =>
    if 1 ≤ m && m ≤ 59 then
      if (lostSession (d.chan n)).isSome then endCommand n s cKEY_EMPTY 0 [] d
      else if d.rd (CH_FT_FWT_WTX_MAX n) ≤ e.wtx then
        match s.step with
        | .reconcile _ => reconFail n s d
        | _ => endCommand n s cWTX_LIMIT 0 [] d
      else
        let d := (d.raise (CH_FT_STATUS_WTX_SEEN n)).countSat (CH_FT_STATS_WTX n) 1
        relaunch n (blockFrame c (.wtx m)) (fun e => { e with wtx := e.wtx + 1, wtxm := m }) d
    else failedBlock n s e d
  | .info num more data =>
    if s.step = .halt || s.step.isParams || num ≠ c.block then failedBlock n s e d
    else
      let d := toggleBlock n s.ctx d
      let s := { s with data := s.data ++ data, chaining := more }
      if more then
        let f := blockFrame ((d.chan n).context s.ctx) (.ack ((d.chan n).context s.ctx).block)
        relaunch n f (fun e => { e with wtxm := 0 }) (d.setJob n (.cmd s))
      else answered n s d
  | .ack num =>
    match s.step with
    | .reconcile _ => if s.chaining then failedBlock n s e d else reconcileEnd n { s with notReceived := true } d
    | .halt => failedBlock n s e d
    | .params _ => retry n s e e.lastBlock d
    | _ =>
      if num ≠ c.block then (if s.chaining then failedBlock n s e d else retry n s e e.lastBlock d)
      else if s.toSend.isEmpty then failedBlock n s e d
      else sendChunk n s (toggleBlock n s.ctx d)
  | .deselect =>
    if s.step = .halt then endCommand n s cDONE 0 [] (halted n s.ctx d) else failedBlock n s e d
  | .nak _ | .params _ | .bad => failedBlock n s e d

/-- The S(DESELECT) after an exchange that ended PROTOCOL is over: the tag is halted or its session ends (R180), unless the session has
moved on (R201). -/
def protoHaltEnd (n : Nat) (s : CmdSt) (answered : Bool) (d : Dev) : Dev :=
  let d := closeExchange n (d.modChan n fun c => { c with job := none, recs := Records.none })
  let d :=
    if ((d.chan n).context s.ctx).leaving then leaveOld n s.ctx d
    else if answered then d.modCtx n s.ctx fun c => { c with st := 4 } else sessionEnd n s.ctx sePROTOCOL d
  drain n (reconcileNext n d)

/-- A frame of a command has its answer, or none. -/
def onCmd (n : Nat) (s : CmdSt) (e : Exch) (p : Option Parsed) (d : Dev) : Dev :=
  let c := d.chan n
  let x := c.context s.ctx
  let good := match p with
    | some p => p.crcOk && !p.fmtErr
    | none => false
  let body := match p with
    | some p => p.body
    | none => []
  let max := d.rd (CH_FT_FWT_RETRY n)
  match s.step with
  | .hlta _ | .rfReset => d
  | .wup tries =>
    let ok := match p with
      | none => false
      | some p => if x.proto = 1 then !p.fmtErr else isAtqb p && (p.body.drop 1).take 4 == x.id
    if !ok then (if tries < max then goWup n s (tries + 1) d else notFound n s d)
    else if x.proto = 1 then goSel n s 1 0 d
    else goAttrib n { s with build := parseAtqb (buildCtx 2 x.coil s.ctx c 0 x.id) body s.maxrate } 0 d
  | .sel level tries =>
    let last := decide (uidLevels x.id ≤ level)
    if good && !body.isEmpty && bit (u8At body 0) 2 != last then
      if last then afterSelect n s (u8At body 0) d else goSel n s (level + 1) 0 d
    else if tries < max then goSel n s level (tries + 1) d
    else notFound n s d
  | .vSelect tries =>
    if good && !bit (u8At body 0) 0 then
      activateDone n 2 { s with build := Ctx.free } d
    else if tries < max then goCmd n { s with step := .vSelect (tries + 1) } (fVSelect x.id) d
    else notFound n s d
  | .rats =>
    if good then
      let a := parseAts s.build body
      activateAts n { s with build := a.1 } a.2 d
    else endCommand n s cPROTOCOL 0 [] d
  | .atr =>
    let pdu := body.drop 2
    if good && pdu.getD 0 0 == 0xD5 && pdu.getD 1 0 == 0x01 then activateDone n 3 { s with build := parseAtr s.build pdu } d
    else endCommand n s cPROTOCOL 0 [] d
  | .pps =>
    if good then activateDone n 3 s d else activateDone n 3 { s with build := { s.build with dr := 0, ds := 0 } } d
  | .params k =>
    match parseBlock s.build body, good, k with
    | .params data, true, 0 =>
      let r := paramRates data s.maxrate
      let b := { s.build with dr := r.1, ds := r.2 }
      goCmd n { s with step := .params 1, build := b } (blockFrame { b with ds := 0 } (paramBlock 1 b)) d
    | .params _, true, _ => activateDone n 3 s d
    | _, _, _ => onBlock n s e p d
  | .attrib tries =>
    if good then activateDone n 3 s d
    else if tries < max then goAttrib n s (tries + 1) d
    else notFound n s d
  | .deselect =>
    let d := match c.otherNoCid s.ctx with
      | some j => d.modCtx n j fun c => { c with st := 4 }
      | none => d
    endCommand n s cCID_CONFLICT 0 [] (d.modCtx n s.ctx fun c => if c.leaving then c else { c with st := 4 })
  | .raw => endCommand n s cDONE 0 body d
  | .protoHalt =>
    protoHaltEnd n s (good && parseBlock x body == .deselect) d
  | .data | .halt | .auth1 | .auth2 | .sm | .reconcile _ => onBlock n s e p d

/-- A frame of a command that expects no answer has ended. -/
def onCmdSent (n : Nat) (s : CmdSt) (d : Dev) : Dev :=
  match s.step with
  | .hlta tries => goWup n s tries (haltActiveA n d)
  | .halt => endCommand n s cDONE 0 [] (halted n s.ctx d)
  | _ => endCommand n s cDONE 0 [] d

/-- The answer of the present frame, parsed with its reply record, or none, reaches the Pontoon. -/
def onReply (n : Nat) (p : Option (Parsed × List Word)) (d : Dev) : Dev :=
  let c := d.chan n
  match c.job, c.exch with
  | some (.inv i), _ => onInv n i p d
  | some (.cmd s), some e => onCmd n s e (p.map (·.1)) d
  | _, _ => closeExchange n d

/-! Taking commands from the queue (R183, R184). -/

/-- Can the Pontoon of channel `n` take a command now? It exists and runs, and the power-fail source is not asserted
(R72). -/
def Dev.mayTake (d : Dev) : Bool := d.applied && !d.on PW_STATUS_PFAIL

/-- Take the command at the head of the queue where it has the given opcode and no command runs (R183). A channel without
a reader Pontoon refuses it. -/
def takeHead (n op : Nat) (f : PCmd → Dev → Dev) (d : Dev) : Dev :=
  let c := d.chan n
  match c.queue with
  | [] => d
  | cmd :: rest =>
    if cmd.opcode ≠ op || c.job.isSome || !d.mayTake || !cmd.valid then d
    else
      let d := d.modChan n fun c => { c with queue := rest }
      drain n (if d.reader n then f cmd d
        else if op = 1 then emptyRound n cmd.tag cREFUSED 0 d
        else plainItem n cmd 15 cREFUSED 0 d)

/-- Word 1 of a command. -/
def PCmd.w1 (c : PCmd) : Nat := wordAt c.args 0

/-- Run a command on the context that it names, where the context's state is one of `sts` (R183, R184). A context number
above 7 is out of range. -/
def onContext (n : Nat) (cmd : PCmd) (sts : List Nat) (f : Nat → Ctx → Dev → Dev) (d : Dev) : Dev :=
  let k := bits cmd.w1 31 28
  if 8 ≤ k then plainItem n cmd 15 cRANGE 0 d
  else
    let c := (d.chan n).context k
    if c.leaving || !sts.contains c.st then plainItem n cmd k cREFUSED 0 d else f k c d

/-- INVENTORY (R184): refusals, or a request for a grant of its own. -/
def cmdInventory (n : Nat) (cmd : PCmd) (d : Dev) : Dev :=
  let w1 := cmd.w1
  let w2 := wordAt cmd.args 1
  let proto := bits w1 31 28
  let coil := bits w1 27 22
  let maskLen := bits w2 21 16
  if proto = 0 || 4 < proto || d.coils n ≤ coil || (proto = 3 && 60 < maskLen) then emptyRound n cmd.tag cRANGE 0 d
  else if bits w1 15 8 = 0 || bits w1 7 0 = 0 then emptyRound n cmd.tag cEMPTY 0 d
  else if !bit (d.decl n).protocols (proto - 1) then emptyRound n cmd.tag cREFUSED 0 d
  else
    let mask := if proto = 3 then join64 (wordAt cmd.args 2) (wordAt cmd.args 3) % 2 ^ maskLen else wordAt cmd.args 2
    let i : InvSt :=
      { proto := proto, coil := coil, limit := bits w1 15 8,
        slots := 0,
        afi := bits w2 31 24, maskLen := maskLen, vhbr := bit w2 4, activate := bit w2 2, keep := bit w2 1,
        wake := bit w2 0, mask := mask, tag := cmd.tag, step := .grant, level := 0, known := 0, value := 0, cl1 := 0,
        cl2 := 0, atqa := 0, retried := false, stack := [], found := 0, kept := 0, noCtx := 0, passes := 0,
        maxDepth := 0, twin := false, stackFull := false, incomplete := false, limitHit := false, start := [0, 0, 0],
        collided := [], ids := [], newIds := false, heard := false, tries := 0, build := Ctx.free, tagNow := none,
        toQuiet := [] }
    let d := setInv n i (d.modChan n fun c => { c with recs := Records.none })
    { d with ts := { d.ts with reqs := d.ts.reqs ++ [{ owner := .pontoon, ch := n, coil := coil, slots := bits w1 7 0,
                                                       handover := false, partner := 0, waited := 0,
                                                       urgent := false }] } }

/-- ACTIVATE (R184, R196). -/
def cmdActivate (n : Nat) (cmd : PCmd) (d : Dev) : Dev :=
  let w := cmd.w1
  if 8 < bits w 7 4 || 6 < bits w 3 0 then plainItem n cmd (min 15 (bits w 31 28)) cRANGE 0 d
  else
    onContext n cmd [1, 4] (fun k c d =>
      let s := mkCmd cmd k c (.wup 0)
      if c.proto = 3 then goCmd n { s with step := .vSelect 0 } (fVSelect c.id) d else goWup n s 0 d) d

/-- EXCHANGE (R184): blocks in ACTIVE_4, one raw frame in ACTIVE. -/
def cmdExchange (n : Nat) (cmd : PCmd) (d : Dev) : Dev :=
  let len := bits cmd.w1 15 0
  onContext n cmd [2, 3] (fun k c d =>
    let data := (wordsToBytes (cmd.args.drop 1)).take len
    if len = 0 then plainItem n cmd k cEMPTY 0 d
    else if bit cmd.w1 27 != (c.st == 2) then plainItem n cmd k cREFUSED 0 d
    else if c.st = 2 then goCmd n (mkCmd cmd k c .raw) (fRaw c data) d
    else beginBlocks n (mkCmd cmd k c .data) data d) d

/-- HALT (R180, R184). -/
def cmdHalt (n : Nat) (cmd : PCmd) (d : Dev) : Dev :=
  onContext n cmd [2, 3] (fun k c d =>
    let s := mkCmd cmd k c .halt
    if c.st = 3 then goCmd n s (blockFrame c .deselect) d
    else if c.proto = 1 then goCmd n s fHlta d
    else if c.proto = 3 then goCmd n s (fQuiet c.id) d
    else plainItem n cmd k cDONE 0 (sessionEnd n k seHALTED d)) d

/-- RELEASE (R180, R184). -/
def cmdRelease (n : Nat) (cmd : PCmd) (d : Dev) : Dev :=
  onContext n cmd [1, 2, 3, 4, 5] (fun k _ d =>
    sessionEnd n k seRELEASED (plainItem n cmd k cDONE 0 d)) d

/-- RF_RESET runs from ON: the sessions end as the field leaves ON (R112, R180). -/
def startRfReset (n : Nat) (s : CmdSt) (d : Dev) : Dev :=
  resetField n (sessionsEnd n seFIELD_OFF (d.setJob n (.cmd { s with begun := true })))

/-- RF_RESET (R112, R184): at once where the field is ON, else once it is. -/
def cmdRfReset (n : Nat) (cmd : PCmd) (d : Dev) : Dev :=
  let s := mkCmd cmd 15 Ctx.free .rfReset
  if (d.chan n).field.st = .on then startRfReset n s d else d.setJob n (.cmd s)

/-- Remove the first command that satisfies `p`. -/
def takeFirst (p : PCmd → Bool) : List PCmd → Option (PCmd × List PCmd)
  | [] => none
  | c :: cs =>
    if p c then some (c, cs)
    else (takeFirst p cs).map fun r => (r.1, c :: r.2)

/-- CANCEL (R184): it acts on what is queued, so it does not wait for its turn. -/
def cmdCancel (n : Nat) (d : Dev) : Dev :=
  if !d.mayTake then d
  else
    match takeFirst (fun c => c.opcode == 8 && c.valid) (d.chan n).queue with
    | none => d
    | some (cmd, rest) =>
      let tag := bits cmd.w1 15 0
      match takeFirst (·.tag == tag) rest with
      | none => drain n (plainItem n cmd 15 cEMPTY 0 (d.modChan n fun c => { c with queue := rest }))
      | some (x, rest) =>
        let d := d.modChan n fun c => { c with queue := rest }
        let d := if x.opcode = 1 then emptyRound n x.tag cABORTED 0 d else plainItem n x 15 cABORTED 0 d
        drain n (plainItem n cmd 15 cDONE 0 d)

/-- AUTH (R247). -/
def cmdAuth (n : Nat) (cmd : PCmd) (d : Dev) : Dev :=
  onContext n cmd [3] (fun k c d =>
    let d := dropSession n k d
    let usable := match d.keySlot (bits cmd.w1 21 16) with
      | some x => bit x.attr 0
      | none => false
    if !usable || !d.loopsClosed then plainItem n cmd k cKEY_EMPTY 0 d
    else if !d.entropy then plainItem n cmd k cENTROPY 0 d
    else
      let r := d.random 16
      beginBlocks n { mkCmd cmd k c .auth1 with ra := r.1 } [byte (bits cmd.w1 7 0), 0x84, 0x00, 0x00, 0x10] r.2) d

/-- SM_EXCHANGE (R249). -/
def cmdSm (n : Nat) (cmd : PCmd) (d : Dev) : Dev :=
  let len := bits cmd.w1 15 0
  let w2 := wordAt cmd.args 1
  let le := bits (wordAt cmd.args 2) 8 0
  if 239 < len || 256 < le then plainItem n cmd (min 15 (bits cmd.w1 31 28)) cRANGE 0 d
  else
    onContext n cmd [3] (fun k c d =>
      match c.sm with
      | none => plainItem n cmd k cREFUSED 0 d
      | some x =>
        if x.c = 0xFFFFFFFF then plainItem n cmd k cSEQ_EXHAUSTED 0 (d.countSat CY_SM_STATS_SEQ_EXHAUSTED 1)
        else
          let y := { x with c := x.c + 1 }
          let plain := (wordsToBytes (cmd.args.drop 3)).take len
          beginBlocks n { mkCmd cmd k c .sm with sm := some y }
            (smWrap y (bits w2 31 24) (bits w2 23 16) (bits w2 15 8) (bits w2 7 0) le plain) d) d

/-- SM_END (R251). -/
def cmdSmEnd (n : Nat) (cmd : PCmd) (d : Dev) : Dev :=
  let k := bits cmd.w1 31 28
  if 8 ≤ k then plainItem n cmd 15 cRANGE 0 d
  else if ((d.chan n).context k).sm.isNone then plainItem n cmd k cEMPTY 0 d
  else plainItem n cmd k cDONE 0 (dropSession n k d)

/-! Migration (R200 to R203). -/

/-- Does a command name context `k`? -/
def PCmd.names (c : PCmd) (k : Nat) : Bool :=
  [0x02, 0x03, 0x04, 0x05, 0x06, 0x10, 0x11, 0x12].contains c.opcode && bits c.w1 31 28 == k

/-- The MIGRATE that may act now: every command ahead of it, and the running one, is of the session that it moves
(R177, R201). -/
def Chan.migrateReady (c : Chan) : Option (PCmd × List PCmd) :=
  match takeFirst (fun x => x.opcode == 6 && x.valid) c.queue with
  | none => none
  | some (cmd, rest) =>
    let k := bits cmd.w1 31 28
    let ahead := c.queue.takeWhile (· != cmd)
    let ok := match c.job with
      | none => true
      | some (.cmd s) => s.ctx == k
      | some (.inv _) => false
    if ok && (ahead.all (·.names k)) then some (cmd, rest) else none

/-- The code with which a MIGRATE is refused (R200); none where it is accepted. -/
def migrateRefusal (n k t : Nat) (c : Ctx) (d : Dev) : Option Nat :=
  let tgt := d.chan t
  if c.leaving || !([1, 2, 3, 4].contains c.st) then some cREFUSED
  else if t = n || 24 ≤ t || !d.reader t || tgt.field.st ≠ .on then some cREFUSED
  else if tgt.freeCtx.isNone then some cNO_CONTEXT
  else if c.cid ≠ 15 && (tgt.cidHeld 15 c.cid || tgt.built.any (·.cid == c.cid)) then some cCID_CONFLICT
  else if c.cid = 15 && c.st = 3 && ((tgt.otherNoCid 15).isSome || tgt.building.any (·.cid == 15)) then some cCID_CONFLICT
  else if 8 ≤ k then some cRANGE
  else none

/-- The source sequencer's part of a migration (R177): a reply that has opened goes on; a frame in TX is sent and then
withdrawn; anything else is cancelled. -/
def withdraw (n k : Nat) (d : Dev) : Dev :=
  let c := d.chan n
  match c.job with
  | some (.cmd s) =>
    if s.ctx ≠ k then d
    else
      let st := d.rd (CH_RX_STATUS_STATE n)
      if 2 ≤ st && st ≤ 5 then d
      else if d.rd (CH_FT_STATUS_SEQ n) = 3 then
        d.modChan n fun c => { c with exch := c.exch.map fun e => { e with withdrawn := true } }
      else if s.step = .protoHalt then protoHaltEnd n s false d
      else endCommand n s cABORTED cutMIGRATED [] d
  | _ => leaveOld n k d

/-- MIGRATE is accepted (R201): the session passes to the target in one Deck clock. -/
def migrate (n k t j : Nat) (cmd : PCmd) (c : Ctx) (d : Dev) : Dev :=
  let gen := (c.gen + 1) % 256
  let x : Ctx := { c with st := 5, prev := c.st, gen := gen, coil := d.selected t }
  let d := d.modCtx t j fun _ => x
  let d := d.modCtx n k fun c => { c with st := 5, leaving := true, sm := none }
  let mine := (d.chan n).queue.filter (·.names k)
  let d := d.modChan n fun c => { c with queue := c.queue.filter fun x => !x.names k }
  let d := withdraw n k d
  let d := drain n (d.each mine fun x => plainItemAs n x k c.gen true cABORTED cutMIGRATED)
  if c.st = 3 then
    reconcileNext t (d.modChan t fun c => { c with arrived := c.arrived ++ [(j, cmd)] })
  else
    plainItem t cmd j cDONE 0 (d.modCtx t j fun c => { c with st := c.prev })

/-- MIGRATE (R184, R200 to R203). -/
def cmdMigrate (n : Nat) (d : Dev) : Dev :=
  if !d.mayTake then d
  else
    match (d.chan n).migrateReady with
    | none => d
    | some (cmd, rest) =>
      let k := bits cmd.w1 31 28
      let t := bits cmd.w1 27 23
      let c := (d.chan n).context k
      let d := d.modChan n fun c => { c with queue := rest }
      if 8 ≤ k then drain n (plainItem n cmd 15 cRANGE 0 d)
      else
        match migrateRefusal n k t c d, (d.chan t).freeCtx with
        | some code, _ => drain n (plainItem n cmd k code 0 d)
        | none, none => drain n (plainItem n cmd k cNO_CONTEXT 0 d)
        | none, some j => migrate n k t j cmd c d

/-! The command port (R183). -/

/-- Words that the queue holds. -/
def Chan.queueWords (c : Chan) : Nat := (c.queue.map fun x => 1 + x.args.length).sum

/-- A word written to CHn_PCMD (R183). -/
def pcmdWord (p : Path) (n : Nat) (w : Word) (d : Dev) : Dev :=
  let c := d.chan n
  let mine := (c.asm.find? (·.1 = p)).getD (p, [], 0)
  let others := c.asm.filter (·.1 ≠ p)
  if mine.2.2 ≠ 0 then
    let left := mine.2.2 - 1
    d.modChan n fun c => { c with asm := if left = 0 then others else others ++ [(p, [], left)] }
  else
    let ws := mine.2.1 ++ [w]
    let len := bits (wordAt ws 0) 23 16
    let full := 16 ≤ c.queue.length || 1024 < c.queueWords + 1 + len
    if mine.2.1.isEmpty && full then
      (d.modChan n fun c => { c with asm := if len = 0 then others else others ++ [(p, [], len)] }).raise
        (CH_PCMD_STATUS_OVERFLOW n)
    else if ws.length < len + 1 then d.modChan n fun c => { c with asm := others ++ [(p, ws, 0)] }
    else if full then (d.modChan n fun c => { c with asm := others }).raise (CH_PCMD_STATUS_OVERFLOW n)
    else
      let cmd : PCmd := { opcode := bits (wordAt ws 0) 31 24, tag := bits (wordAt ws 0) 15 0, args := ws.drop 1 }
      drain n (d.modChan n fun c => { c with asm := others, queue := c.queue ++ [cmd] })

/-! The meanings of the rows of this family. -/

/-- PCMD_WORD (R183): A word written to CHn_PCMD is assembled per path; a complete command enters the command queue or is discarded with OVERFLOW. -/
def execPcmdWord (p : Path) (n : Fin 24) (w : Word) (s : State) : Host.Outcome State Fault Refusal :=
  s.act (onPort (0x40000 + n.val * 0x2000) p (pcmdWord p n.val w))

/-- INVENTORY (R184): Opcode 0x01 requests a grant and runs an anticollision round of the chosen protocol on a coil. -/
def execInventory (n : Fin 24) (s : State) : Host.Outcome State Fault Refusal :=
  s.act (takeHead n.val 1 (cmdInventory n.val))

/-- ACTIVATE (R196): Opcode 0x02 wakes, selects and activates a kept tag to ACTIVE or ACTIVE_4. -/
def execActivate (n : Fin 24) (s : State) : Host.Outcome State Fault Refusal :=
  s.act (takeHead n.val 2 (cmdActivate n.val))

/-- EXCHANGE (R184): Opcode 0x03 sends data to a session in I-blocks or as a raw frame and returns the response. -/
def execExchange (n : Fin 24) (s : State) : Host.Outcome State Fault Refusal :=
  s.act (takeHead n.val 3 (cmdExchange n.val))

/-- HALT (R184): Opcode 0x04 halts a session's tag and frees its context. -/
def execHalt (n : Fin 24) (s : State) : Host.Outcome State Fault Refusal :=
  s.act (takeHead n.val 4 (cmdHalt n.val))

/-- RELEASE (R184): Opcode 0x05 frees a context with no frame on the air. -/
def execRelease (n : Fin 24) (s : State) : Host.Outcome State Fault Refusal :=
  s.act (takeHead n.val 5 (cmdRelease n.val))

/-- MIGRATE (R200): Opcode 0x06 moves a session to another channel's Pontoon, if accepted, and increments GEN. -/
def execMigrate (n : Fin 24) (s : State) : Host.Outcome State Fault Refusal :=
  s.act (cmdMigrate n.val)

/-- RF_RESET (R112): Opcode 0x07 ramps the field down for RESET_OFF µs and back up within the present grant. -/
def execRfReset (n : Fin 24) (s : State) : Host.Outcome State Fault Refusal :=
  s.act (takeHead n.val 7 (cmdRfReset n.val))

/-- CANCEL (R184): Opcode 0x08 removes a queued command that has not started. -/
def execCancel (n : Fin 24) (s : State) : Host.Outcome State Fault Refusal :=
  s.act (cmdCancel n.val)

/-- AUTH (R247): Opcode 0x10 runs three-pass mutual authentication with a tag and derives the session keys. -/
def execAuth (n : Fin 24) (s : State) : Host.Outcome State Fault Refusal :=
  s.act (takeHead n.val 0x10 (cmdAuth n.val))

/-- SM_EXCHANGE (R249): Opcode 0x11 sends one secured APDU under the session keys and counter and verifies the reply. -/
def execSmExchange (n : Fin 24) (s : State) : Host.Outcome State Fault Refusal :=
  s.act (takeHead n.val 0x11 (cmdSm n.val))

/-- SM_END (R251): Opcode 0x12 discards a context's secure session with no frame on the air. -/
def execSmEnd (n : Fin 24) (s : State) : Host.Outcome State Fault Refusal :=
  s.act (takeHead n.val 0x12 (cmdSmEnd n.val))

end Sys2Proof.Machine
end

