-- ==== Sys2Proof/Machine/Sequencer.lean ====
section
/-!
DEFINITION. The frame sequencer's events: placement, the end of a command, the reply deadline, the verdict, the guard and
SFGT (R163 to R178).
-/

namespace Sys2Proof.Machine

/-- Arm the receiver (R135, R167). -/
def arm (n : Nat) (d : Dev) : Dev :=
  let d := d.modRx n fun r => { r with armed := true, held := none }
  if d.rd (CH_RX_STATUS_STATE n) = 0 then d.wr (CH_RX_STATUS_STATE n) 1 else d

/-- The first CS of a round or command: its time and octant; the session counter of a secured command counts (R178, R204,
R255). -/
def firstCs (n oct : Nat) (d : Dev) : Dev :=
  let c := d.chan n
  if c.recs.started then d
  else
    let st := d.stamp
    let d := d.modChan n fun c => { c with recs := { c.recs with started := true, csTime := st, csOct := oct } }
    match c.job with
    | some (.inv i) => d.setJob n (.inv { i with start := st })
    | some (.cmd s) =>
      if s.step = .sm then
        d.modCtx n s.ctx fun c =>
          if c.leaving then c else { c with sm := c.sm.map fun x => { x with c := x.c + 1, unconfirmed := true } }
      else d
    | none => d

/-- The programmed delay of a placement in oct: CHn_FT_DLY_x of the frame's protocol, 0 after the guard or SFGT (R163). -/
def Dev.delayOf (d : Dev) (n : Nat) (e : Exch) : Nat :=
  if e.ref = 3 then 0
  else if e.frame.proto = 1 then 8 * d.rd (CH_FT_DLY_A_DLY_CC n) + d.rd (CH_FT_DLY_A_DLY_OCT n)
  else if e.frame.proto = 2 then 8 * d.rd (CH_FT_DLY_B_DLY_CC n) + d.rd (CH_FT_DLY_B_DLY_OCT n)
  else if e.frame.proto = 3 then 8 * d.rd (CH_FT_DLY_V_DLY_CC n) + d.rd (CH_FT_DLY_V_DLY_OCT n)
  else 8 * d.rd (CH_FT_DLY_F_DLY_CC n) + d.rd (CH_FT_DLY_F_DLY_OCT n)

/-- How many oct a frame's CS lies after its reference, `late` oct behind its placement point (R163, R164). -/
def Dev.placedAt (d : Dev) (n : Nat) (e : Exch) (late : Nat) : Nat := d.delayOf n e + late

/-- The octant of that CS (R26, R163): TE, deadline and CE lie whole carrier cycles from the reply's timestamp or the command's CS, and the
end of the guard or SFGT counts at a cycle boundary. -/
def Dev.csOctant (d : Dev) (n : Nat) (e : Exch) (late : Nat) : Nat :=
  ((if e.ref = 3 then 0 else (d.chan n).refOct) + d.placedAt n e late) % 8

/-- Is the waiting frame one that needs data from the Ferryman runtime or from Crypto (R164)? Every other is built by the Pontoon alone and
is always ready in time: of an exchange's frames, all but its I-blocks and its raw frame. -/
def Chan.mayBeLate (c : Chan) (e : Exch) : Bool :=
  match c.job with
  | some (.cmd s) =>
    match s.step with
    | .raw | .data | .auth1 | .auth2 | .sm => e.frame == e.lastBlock
    | _ => false
  | _ => false

/-- The frame starts, `late` oct after its placement point where it is late: TX, and the receiver is armed where a reply is expected (R163,
R164, R167, R175). -/
def startTx (n : Nat) (late : Option Nat) (e : Exch) (d : Dev) : Dev :=
  let at_ := d.placedAt n e (late.getD 0)
  let oct := d.csOctant n e (late.getD 0)
  let d := firstCs n oct (flushTag n d)
  let d := match late with
    | some _ => (d.raise (CH_FT_STATUS_LATE_SEEN n)).countSat (CH_FT_STATS_LATE n) 1
    | none => d
  let d := (d.modChan n fun c =>
    { c with exch := c.exch.map fun e => { e with sent := true, late := late.isSome, lateOct := late.getD 0, csOct := oct,
                                                   placed := at_, air := e.frame.air } }).seq n 3
  if e.frame.cls = .none then d else arm n d

/-- The placement point of the waiting frame is reached: it is sent, it is late, or it would end after the field
(R163, R164, R175). -/
def placementPoint (n : Nat) (ready fits : Bool) (d : Dev) : Dev :=
  match (d.chan n).exch with
  | none => d
  | some e =>
    if !d.coreRuns || d.rd (CH_FT_STATUS_SEQ n) ≠ 2 || e.late then d
    else
      match lostSession (d.chan n) with
      | some s => endCommand n s cKEY_EMPTY 0 [] d
      | none =>
        if !ready && (d.chan n).mayBeLate e then d.modChan n fun c => { c with exch := c.exch.map fun e => { e with late := true } }
        else if fits then startTx n none e d
        else abortJob n cutGRANT_END d

/-- A late frame becomes ready: it is sent `lateOct` after its placement point, or not at all (R164). -/
def frameReady (n lateOct : Nat) (fits : Bool) (d : Dev) : Dev :=
  match (d.chan n).exch with
  | none => d
  | some e =>
    if !d.coreRuns || d.rd (CH_FT_STATUS_SEQ n) ≠ 2 || !e.late then d
    else
      match lostSession (d.chan n) with
      | some s => endCommand n s cKEY_EMPTY 0 [] d
      | none => if fits then startTx n (some lateOct) e d else abortJob n cutGRANT_END d

/-- A frame that expects no answer has ended: the exchange is DONE (R175). -/
def sentOnly (n : Nat) (d : Dev) : Dev :=
  let c := d.chan n
  let d := closeExchange n (d.modChan n fun c => { c with nextRef := 2, refOct := (c.exch.map (·.csOct)).getD 0 })
  match c.job with
  | some (.inv i) => onInvSent n i d
  | some (.cmd s) => onCmdSent n s d
  | none => d

/-- FWI in force for a frame addressed to context `k` (R170): of the session that an activation builds, once its ATS or ATQB is known. -/
def Dev.fwiOf (d : Dev) (n k : Nat) : Nat :=
  let c := (d.chan n).context k
  match (d.chan n).building with
  | some b => b.fwi
  | none => if c.st = 3 || c.st = 5 then c.fwi else d.rd (CH_FT_FWT_FWI_DEF n)

/-- CE of the frame in TX (R157, R167, R175): the deadline is set; a withdrawn placement ends (R177). -/
def commandEnd (n : Nat) (d : Dev) : Dev :=
  let c := d.chan n
  match c.exch with
  | none => d
  | some e =>
    if !d.coreRuns || d.rd (CH_FT_STATUS_SEQ n) ≠ 3 then d
    else if e.withdrawn then
      match c.job with
      | some (.cmd s) =>
        let d := disarm n emptyFrame d
        if s.step = .protoHalt then protoHaltEnd n s false d else endCommand n s cABORTED cutMIGRATED [] d
      | _ => closeExchange n d
    else if e.frame.cls = .none then sentOnly n d
    else
      -- the response time of another NFC-F command is given with the command, in words that the spec does not lay out
      let r := if e.frame.cls = .fOther then d.free else (e.wtxm, d)
      let d := r.2
      let dl := deadlineOct e.frame (d.rd (CH_FT_WIN_LATE_TOL n)) (d.fwiOf n e.ctx) r.1
      (d.modChan n fun c => { c with exch := c.exch.map fun e => { e with deadline := dl } }).seq n 4

/-- Add a reply record to the command's item (R204). -/
def pushRecord (n : Nat) (rec : List Word) (d : Dev) : Dev :=
  d.modChan n fun c =>
    let l := c.recs.last ++ [rec]
    { c with recs := { c.recs with replies := c.recs.replies + 1, last := l.drop (l.length - 4) } }

/-- Has the present polling heard a frame (R193)? -/
def Chan.heard (c : Chan) : Bool :=
  match c.job with
  | some (.inv i) => i.heard
  | _ => false

/-- The EOF that a Pontoon sends at the deadline of a write-alternative request (R167). -/
def Exch.eofDue (e : Exch) : Bool := e.frame.cls == .vWrite

/-- The receiver has stayed armed past the deadline without a frame: NO_REPLY (R168, R175). A polling that has heard frames
only ends; a write-alternative request goes on with its EOF (R167). -/
def replyDeadline (n : Nat) (d : Dev) : Dev :=
  let c := d.chan n
  match c.exch with
  | none => d
  | some e =>
    if !d.coreRuns || d.rd (CH_FT_STATUS_SEQ n) ≠ 4 || d.rd (CH_RX_STATUS_STATE n) ≠ 1 then d
    else
      let d := disarm n emptyFrame d
      let d := d.modChan n fun c => { c with nextRef := 1, refOct := e.csOct }
      if c.heard then onReply n none d
      else if e.eofDue then relaunch n fEof id d
      else
        let w := exchWords (some e) 0 (d.rd (CH_FT_WIN_DEV_TOL n)) false 0
        let x := exchangeWord e false 0 false 0
        let d := ((d.wr (CH_FT_LAST_REF n) e.ref).wr (CH_FT_LAST_DELAY n) 0).wr (CH_FT_LASTX_WORD n) x.toNat
        let d := d.countSat (CH_FT_STATS_TIMEOUT n) 1
        onReply n none (pushRecord n (noReplyDescriptor ++ [w.headD 0, x] ++ noStamp) d)

/-- SFGT of the session that an activation builds no longer runs. -/
def Job.sfgtOver : Job → Job
  | .inv i => .inv { i with build := { i.build with sfgt := false } }
  | .cmd s => .cmd { s with build := { s.build with sfgt := false } }

/-- Is the session that an activation builds to take context `k`: the one that ACTIVATE names, or the lowest free one of a round? -/
def Chan.buildsFor (c : Chan) (k : Nat) : Bool :=
  match c.job with
  | some (.cmd s) => s.ctx == k
  | some (.inv _) => c.freeCtx == some k
  | none => false

/-- SFGT + ΔSFGT of session `k`, or of the one that an activation builds for that context, has passed (R170). -/
def sfgtExpiry (n k : Nat) (d : Dev) : Dev :=
  let c := d.chan n
  let build := c.building.any (·.sfgt) && c.buildsFor k
  if !(c.context k).sfgt && !build then d
  else
    let d := d.modCtx n k fun c => { c with sfgt := false }
    let d := d.modChan n fun c =>
      { c with nextRef := 3, exch := c.exch.map fun e => if (build || e.ctx = k) && !e.sent then { e with ref := 3 } else e,
               job := if build then c.job.map Job.sfgtOver else c.job }
    kick n d

/-- An inventory orders the RF reset of a woken 15693 round (R192). -/
def inventoryReset (n : Nat) (i : InvSt) (d : Dev) : Dev :=
  resetField n (sessionsEnd n seFIELD_OFF (setInv n { i with step := .rfReset } d))

/-- The field is ON and its guard has elapsed: what waited for it goes on (R112, R175, R184). -/
def fieldReady (n : Nat) (d : Dev) : Dev :=
  let c := d.chan n
  if c.field.st ≠ .on || !c.field.guard then d
  else
    match c.job with
    | some (.inv i) =>
      match i.step, d.grantNow n with
      | .grant, some g =>
        if g.owner = .pontoon then
          if i.proto = 3 && i.wake then inventoryReset n i d else startRound n i d
        else d
      | .rfReset, _ => startRound n i d
      | _, _ => kick n d
    | some (.cmd s) => if s.step = .rfReset && s.begun then endCommand n s cDONE 0 [] d else kick n d
    | none => kick n d

/-- GUARD has elapsed since the entry to RAMP_UP (R108). -/
def guardExpiry (n : Nat) (d : Dev) : Dev :=
  let c := d.chan n
  if !d.coreRuns || c.field.guard || (c.field.st ≠ .on && c.field.st ≠ .rampUp) then d
  else
    fieldReady n ((d.modField n fun f => { f with guard := true }).modChan n fun c =>
      { c with nextRef := 3, exch := c.exch.map fun e => if e.sent then e else { e with ref := 3 } })

/-- What the sequencer expects of the reply to a frame, also once its exchange is over: whether it carries a CRC, the known bits of a split byte and their ones,
whether it is byte-oriented (R159, R160). -/
def expectation (f : Option AirFrame) (bits : Nat) : Bool × Nat × Nat × Bool :=
  match f with
  | none => (true, 0, 0, true)
  | some f =>
    match f.cls with
    | .aTimed =>
      if f.crc then (true, 0, 0, true)
      else if f.lastBits = 7 && f.bytes.length = 1 then (false, 0, 0, true)
      else
        let k := u8At f.bytes 1 % 16
        (false, k, if k = 0 then 0 else ((byteBits (f.bytes.getLastD 0)).take k).countP id, false)
    | .raw => (decide (27 ≤ bits), 0, 0, decide (9 ≤ bits))
    | _ => (true, 0, 0, true)

/-- Does the equaliser run for frames at rate code `rate` (R144)? -/
def Dev.equalises (d : Dev) (n proto rate : Nat) : Bool :=
  let m := d.rd (CH_EQ_CFG_EQ_MODE n)
  d.vhbr n && proto ≤ 2 && ((m == 1 && 4 ≤ rate) || (m == 2 && 3 ≤ rate))

/-- The taps from which a frame starts: the coil's seed where SEED asks for it and one is held, else 1.0 in feed-forward tap 7 (R145). -/
def Dev.startTaps (d : Dev) (n : Nat) : List Word :=
  let seed := (d.chan n).rx.seeds.find? (·.1 = d.selected n)
  match seed, d.on (CH_EQ_CFG_SEED n) with
  | some s, true => s.2
  | _, _ => (upTo 24).map fun k => if k = 7 then 0x20000000 else 0

/-- A correlation opens a frame, or a newcomer becomes the current frame (R135 to R138, R141, R143): it answers the frame that was sent
last, the listeners' measurements of a replaced frame are discarded and theirs begin at its timestamp, and the equaliser trains over the
lookback samples (R145). -/
def openFrame (n st : Nat) (c : Corr) (replayed : Bool) (d : Dev) : Dev :=
  let f := match (d.chan n).exch with
    | some e => some e.frame
    | none => (d.chan n).rx.sent
  let eq := match f with
    | some f => d.equalises n f.proto f.rate
    | none => false
  let d := seedsDue n d
  let taps := if eq then Config.lmsTrain (d.rd (CH_EQ_CFG_MU_TRAIN n)) (d.startTaps n) (d.chan n).rx.look else []
  let d := d.modChan n fun ch =>
    { ch with terms := [],
              rx := { ch.rx with cur := c, aged := false, replayed := replayed, overload := false, eqUsed := eq, sent := f,
                                 taps := taps, window := some c.stamp, interf := [], ended := false, frame := none } }
  (d.wr (CH_RX_STATUS_STATE n) st).seq n 5

/-- The receiver leaves CHECK (R135): HUNT if still armed, or the held correlation opens a frame through REPLAY. -/
def leaveCheck (n : Nat) (d : Dev) : Dev :=
  let rx := (d.chan n).rx
  let d := d.modRx n fun r => { r with frame := none, ended := false, held := none }
  if !rx.armed then d.wr (CH_RX_STATUS_STATE n) 0
  else
    match rx.held with
    | none => d.wr (CH_RX_STATUS_STATE n) 1
    | some c => openFrame n 4 c true d

/-- The equaliser's seed of the coil after a good frame (R147), and a pending SEED_CLR (R156). -/
def updateSeed (n : Nat) (good : Bool) (fr : RxFrame) (d : Dev) : Dev :=
  let coil := d.selected n
  let taps := d.finalTaps n fr
  seedsDue n (d.when good fun d =>
    d.modRx n fun r => { r with seeds := r.seeds.filter (·.1 ≠ coil) ++ [(coil, taps)] })

/-- The verdict reaches the sequencer (R153, R154, R162, R169, R174, R175, R178): statistics, the reply record, and what
the Pontoon does next in the same Deck clock. -/
def verdict (n : Nat) (d : Dev) : Dev :=
  let c := d.chan n
  match c.rx.frame with
  | none => d
  | some fr =>
    if !d.coreRuns || d.rd (CH_RX_STATUS_STATE n) ≠ 5 then d
    else
      let x := expectation c.rx.sent fr.bits.length
      let proto := match c.rx.sent with
        | some f => f.proto
        | none => 1
      let p := parseReply proto x.1 x.2.1 x.2.2.1 x.2.2.2 fr (d.frameFlags n fr)
      let diverged := d.diverged n fr
      let d := (d.modChan n fun c => { c with clean := p.flags.isEmpty }).count (CH_RX_FRAMES_COUNT n) 1
      let d := if p.crcChecked && !p.crcOk then d.countSat (CH_STATS_CRC_ERR n) 1 else d
      let d := updateSeed n (c.rx.eqUsed && p.crcOk && !diverged) fr d
      match c.exch with
      | none => leaveCheck n d
      | some e =>
        if d.rd (CH_FT_STATUS_SEQ n) ≠ 5 then leaveCheck n d
        else
          let w := exchWords (some e) fr.delay (d.rd (CH_FT_WIN_DEV_TOL n)) p.fmtErr p.fmtCount
          let lx := (w.getD 1 0).toNat
          let rec_ := descriptor 1 c.rx fr diverged p (d.untraced n) ++ w ++ c.rx.cur.stamp
          let d := ((d.wr (CH_FT_LAST_REF n) e.ref).wr (CH_FT_LAST_DELAY n) (min fr.delay 0x3FFFFFFF)).wr
            (CH_FT_LASTX_WORD n) lx
          let d := countDev n (w.getD 1 0) d
          let d := d.raiseIf p.fmtErr (CH_FT_STATUS_FMT_SEEN n)
          let d := pushRecord n rec_ d
          let polling := match e.frame.cls with
            | .fPoll _ => true
            | _ => false
          if polling then
            leaveCheck n (onReply n (some (p, rec_)) (d.seq n 4))
          else
            let d := d.modChan n fun c => { c with nextRef := 0, refOct := c.rx.cur.oct, rx := { c.rx with armed := false } }
            leaveCheck n (onReply n (some (p, rec_)) d)

/-! The meanings of the rows of this family. -/

/-- GUARD_EXPIRY (R108): The tag power-up guard elapses and the Pontoon may start modulation. -/
def execGuardExpiry (n : Fin 24) (s : State) : Host.Outcome State Fault Refusal :=
  s.act (guardExpiry n.val)

/-- VERDICT_DELIVERED (R174): The decoded frame, its flags and its CRC verdict reach the sequencer, which acts on them in the same Deck clock. -/
def execVerdictDelivered (n : Fin 24) (s : State) : Host.Outcome State Fault Refusal :=
  s.act (verdict n.val)

/-- PLACEMENT_POINT (R163): The frame-delay-time engine reaches a frame's placement point; a ready frame is sent, otherwise LATE applies. -/
def execPlacementPoint (n : Fin 24) (ready fits : Bool) (s : State) : Host.Outcome State Fault Refusal :=
  s.act (placementPoint n.val ready fits)

/-- FRAME_READY (R164): A frame that was not ready at its placement point becomes ready and is sent late, or the exchange is aborted with GRANT_END. -/
def execFrameReady (n : Fin 24) (lateOct : Nat) (fits : Bool) (s : State) : Host.Outcome State Fault Refusal :=
  s.act (frameReady n.val lateOct fits)

/-- COMMAND_END (R175): The command's CE is reached; the receiver is armed if a reply is expected, otherwise the exchange ends DONE. -/
def execCommandEnd (n : Fin 24) (s : State) : Host.Outcome State Fault Refusal :=
  s.act (commandEnd n.val)

/-- REPLY_DEADLINE (R168): The reply deadline plus the pattern length and 1 bit-time passes without an opened frame, and NO_REPLY is reported. -/
def execReplyDeadline (n : Fin 24) (s : State) : Host.Outcome State Fault Refusal :=
  s.act (replyDeadline n.val)

/-- SFGT_EXPIRY (R170): SFGT + ΔSFGT after an ATS or ATTRIB answer has elapsed, and frames may again be sent to the tag. -/
def execSfgtExpiry (n : Fin 24) (k : Fin 8) (s : State) : Host.Outcome State Fault Refusal :=
  s.act (sfgtExpiry n.val k.val)

end Sys2Proof.Machine
end

