-- ==== Sys2Proof/Machine/Receiver.lean ====
section
/-!
DEFINITION. The receiver's events: correlations, the false-preamble, capture and interference rules, the end of a frame,
measurements (R130, R135 to R152, R156).
-/

namespace Sys2Proof.Machine

/-- A newcomer that does not displace the frame is interference from bit `b` on (R142). -/
def interfere (n b : Nat) (d : Dev) : Dev :=
  (d.modRx n fun r => { r with interf := r.interf ++ [(b, none)] }).raise (CH_RX_STATUS_INTERF_SEEN n)

/-- Does a correlation peak `at_` oct after CE lie within the deadline (R168)? -/
def inTime (c : Chan) (at_ : Nat) : Bool :=
  match c.exch with
  | none => false
  | some e =>
    match e.deadline with
    | some dl => at_ ≤ dl
    | none => true

/-- Does a correlation at level `level` reach the threshold above the noise floor, both in -0.5 dB (R136)? -/
def Dev.overThreshold (d : Dev) (n level floor : Nat) : Bool := decide (level + 2 * d.rd (CH_RX_CFG_CORR_THRESH n) ≤ floor)

/-- Does a correlation `at_` oct after CE lie in the blanking of the present command: while it is sent, and for BLANK cc after its end
(R136)? -/
def Dev.blanked (d : Dev) (n at_ : Nat) : Bool :=
  d.rd (CH_FT_STATUS_SEQ n) == 3 || ((d.chan n).exch.isSome && decide (at_ < 8 * d.rd (CH_RX_CFG_BLANK n)))

/-- A correlation peak, more than half a bit-time from the current frame's: its level and the noise floor (-0.5 dB units), octant, place
after CE in oct, the lookback samples, and the current frame's bits decided before the bit in which its pattern started (R135, R136,
R138, R140 to R142, R168). Below the threshold, or in the blanking interval, it is none. In REPLAY, a frame whose end is decoded already is
no longer displaced (R141): the correlation is held as in CHECK. -/
def correlation (n level floor oct at_ : Nat) (look : List Word) (soFar : RxFrame) (d : Dev) : Dev :=
  let c := d.chan n
  let new : Corr := { level := level, oct := oct, stamp := d.stamp }
  let st := d.rd (CH_RX_STATUS_STATE n)
  if !d.coreRuns || !d.overThreshold n level floor || d.blanked n at_ then d
  else
  let d := d.modRx n fun r => { r with look := look }
  if st = 1 then (if c.rx.armed && inTime c at_ then openFrame n 2 new false d else d)
  else if st = 5 || (st = 4 && c.rx.ended) then (if inTime c at_ then d.modRx n fun r => { r with held := some new } else d)
  else if st = 2 || st = 3 || st = 4 then
    if !inTime c at_ then interfere n soFar.bits.length d
    else if !c.rx.aged then
      if level + 6 ≤ c.rx.cur.level then openFrame n 4 new true (d.countSat (CH_STATS_FALSE_SOF n) 1)
      else interfere n soFar.bits.length d
    else if level + 16 ≤ c.rx.cur.level then
      let d := (fragmentItem n soFar d).raise (CH_RX_STATUS_CAPTURE_SEEN n)
      openFrame n 4 new true (d.countSat (CH_STATS_FRAGMENT n) 1)
    else interfere n soFar.bits.length d
  else d

/-- 24 bit-times have passed since the current frame opened (R135, R141). -/
def rxEarlyWindowEnd (n : Nat) (d : Dev) : Dev :=
  let st := d.rd (CH_RX_STATUS_STATE n)
  if st = 2 then (d.modRx n fun r => { r with aged := true }).wr (CH_RX_STATUS_STATE n) 3
  else if st = 4 then d.modRx n fun r => { r with aged := true }
  else d

/-- The replay has caught up with live samples (R135, R138). -/
def replayCatchUp (n : Nat) (d : Dev) : Dev :=
  if d.rd (CH_RX_STATUS_STATE n) ≠ 4 then d
  else
    let r := (d.chan n).rx
    d.wr (CH_RX_STATUS_STATE n) (if r.ended then 5 else if r.aged then 3 else 2)

/-- Close the oldest open interference span at bit `b`. -/
def closeSpan (b : Nat) : List (Nat × Option Nat) → List (Nat × Option Nat)
  | [] => []
  | (s, none) :: r => (s, some b) :: r
  | x :: r => x :: closeSpan b r

/-- The interferer has stayed 6 dB below its level for 2 bit-times: bit `b` is no longer flagged (R142). -/
def interferenceEnd (n b : Nat) (d : Dev) : Dev :=
  let st := d.rd (CH_RX_STATUS_STATE n)
  if st = 2 || st = 3 || st = 4 then d.modRx n fun r => { r with interf := closeSpan b r.interf } else d

/-- Four or more consecutive overload samples during a frame (R130). -/
def adcOverload (n : Nat) (d : Dev) : Dev :=
  let st := d.rd (CH_RX_STATUS_STATE n)
  if (st = 2 || st = 3 || st = 4) && !(d.chan n).rx.overload then
    ((d.modRx n fun r => { r with overload := true }).raise (CH_RX_STATUS_OVERLOAD_SEEN n)).countSat
      (CH_STATS_OVERLOAD n) 1
  else d

/-- The three words of CHn_RX_COLLMAP (R139). -/
def collMap (n : Nat) (flags : List Nat) (d : Dev) : Dev :=
  d.each (upTo 3) fun k => fun d =>
    d.wr (CH_RX_COLLMAP_FLAGS n k) (packLsb ((upTo 32).map fun j => flags.contains (32 * k + j)))

/-- The tap snapshot of a frame with EQ_USED (R148). -/
def eqSnapshot (n : Nat) (fr : RxFrame) (d : Dev) : Dev :=
  if d.on (CH_EQ_STATUS_HOLD n) then d
  else
    let taps := d.finalTaps n fr
    let diverged := d.diverged n fr
    let d := d.each (upTo 16) fun k => fun d =>
      let w := wordAt taps k
      (d.wr (CH_EQ_FFE_I n k) (w / 65536)).wr (CH_EQ_FFE_Q n k) w
    let d := d.each (upTo 8) fun k => fun d =>
      let w := wordAt taps (16 + k)
      (d.wr (CH_EQ_DFE_I n k) (w / 65536)).wr (CH_EQ_DFE_Q n k) w
    ((((d.raise (CH_EQ_STATUS_VALID n)).flag (CH_EQ_STATUS_DIVERGED n) diverged).wr (CH_EQ_STATUS_COIL n)
      (d.selected n)).wr (CH_EQ_STATUS_MSE n) (fr.mses.getLastD 0).toNat).count (CH_EQ_STATUS_SEQ n) 1

/-- The end of a frame is detected (R135, R139, R146, R148, R149, R152): CHECK, or once the replay has caught up. -/
def endOfFrame (n : Nat) (fr : RxFrame) (d : Dev) : Dev :=
  let c := d.chan n
  let st := d.rd (CH_RX_STATUS_STATE n)
  if !d.coreRuns || !(st = 2 || st = 3 || st = 4) || c.rx.ended then d
  else
    let d := d.modRx n fun r => { r with frame := some fr, ended := true }
    let d := ((((d.lower (CH_RX_LEVEL_STALE n)).flag (CH_RX_LEVEL_UNTRACED n) (d.untraced n)).wr (CH_RX_LEVEL_COIL n)
      (d.selected n)).wr (CH_RX_LEVEL_PHASE n) fr.phase.toNat).wr (CH_RX_LEVEL_SB_AMP n) fr.sbAmp.toNat
    let d := d.wr (CH_RX_LEVEL_LEVEL n) c.rx.cur.level
    let d := collMap n (d.frameFlags n fr) d
    let d := if c.rx.eqUsed then eqSnapshot n fr (d.raiseIf (d.diverged n fr) (CH_RX_STATUS_EQ_DIVERGED_SEEN n)) else d
    if st = 4 then d else d.wr (CH_RX_STATUS_STATE n) 5

/-- A listener's measurement of the frame of transmitting channel `n` arrives, tagged with the frame's timestamp (R143, R150): a frame that
is received or has ended, not one that ended as a FRAGMENT. The listener's assignment still runs and its own receiver, where it has a
Pontoon, is in LISTEN (R21, R135). -/
def listenerMeasurement (n l amp phase : Nat) (below : Bool) (d : Dev) : Dev :=
  match d.grantNow n, (d.chan n).rx.window with
  | none, _ | _, none => d
  | some g, some stamp =>
    match g.listeners.find? (·.ch = l) with
    | none => d
    | some x =>
      if d.selected l ≠ x.coil || !d.on (CH_SEL_STATUS_ON l) || x.until_ ≤ d.ms || (d.reader l && d.rd (CH_RX_STATUS_STATE l) ≠ 6) then d
      else d.modChan n fun c =>
        { c with terms := c.terms.filter (·.1 ≠ l) ++ [(l, x.coil, amp, phase, below)], termsAt := stamp }

/-- The carrier at the start of a slot in which the field is off and a coil is selected (R151, R152). -/
def foreignCarrier (n level : Nat) (d : Dev) : Dev :=
  if !d.coreRuns || (d.chan n).field.lit || !d.on (CH_SEL_STATUS_ON n) || d.rd PW_STATE_CUR = 2 then d
  else
    (((((d.lower (CH_RX_CARRIER_STALE n)).flag (CH_RX_CARRIER_UNTRACED n) (d.untraced n)).lower (CH_RX_CARRIER_OWN n)).wr
      (CH_RX_CARRIER_COIL n) (d.selected n)).wr (CH_RX_CARRIER_LEVEL n) level).flag (CH_RX_STATUS_FOREIGN n)
      (decide (level < 106))

/-- A write of SEED_CLR = 1 (R147, R156): at once, or at the end of the frame under way. -/
def seedClear (n : Nat) (d : Dev) : Dev :=
  let st := d.rd (CH_RX_STATUS_STATE n)
  if 2 ≤ st && st ≤ 5 then (d.modRx n fun r => { r with clearSeeds := true }).raise (CH_EQ_CFG_SEED_CLR n)
  else d.modRx n fun r => { r with seeds := [] }

/-! The meanings of the rows of this family. -/

/-- CORRELATION (R136): A correlation at or above threshold outside blanking opens a frame, or is judged as a newcomer under the capture, false-preamble or interference rules. -/
def execCorrelation (n : Fin 24) (level floor : Byte) (oct : Fin 8) (at_ : Nat) (look : List Word) (soFar : RxFrame) (s : State) :
    Host.Outcome State Fault Refusal :=
  s.act (correlation n.val level.toNat floor.toNat oct.val at_ look soFar)

/-- RX_EARLY_WINDOW_END (R141): 24 bit-times after a frame opens, the receiver moves from RX_EARLY to RX_LATE. -/
def execRxEarlyWindowEnd (n : Fin 24) (s : State) : Host.Outcome State Fault Refusal :=
  s.act (rxEarlyWindowEnd n.val)

/-- REPLAY_CATCH_UP (R138): A replay from the lookback buffer catches up with the live samples. -/
def execReplayCatchUp (n : Fin 24) (s : State) : Host.Outcome State Fault Refusal :=
  s.act (replayCatchUp n.val)

/-- INTERFERENCE_END (R142): An interferer's level stays 6 dB below its correlation level for 2 bit-times, and collision flagging stops. -/
def execInterferenceEnd (n : Fin 24) (b : Nat) (s : State) : Host.Outcome State Fault Refusal :=
  s.act (interferenceEnd n.val b)

/-- ADC_OVERLOAD (R130): Four consecutive overload samples during a frame set OVERLOAD and count in the statistics. -/
def execAdcOverload (n : Fin 24) (s : State) : Host.Outcome State Fault Refusal :=
  s.act (adcOverload n.val)

/-- END_OF_FRAME (R135): The end of a frame is detected and the receiver enters CHECK. -/
def execEndOfFrame (n : Fin 24) (fr : RxFrame) (s : State) : Host.Outcome State Fault Refusal :=
  s.act (endOfFrame n.val fr)

/-- LISTENER_MEASUREMENT (R150): A listening channel's sideband measurement of a frame reaches the survey engine within 2 cc of the frame's end. -/
def execListenerMeasurement (n l : Fin 24) (amp phase : Byte) (below : Bool) (s : State) : Host.Outcome State Fault Refusal :=
  s.act (listenerMeasurement n.val l.val amp.toNat phase.toNat below)

/-- FOREIGN_CARRIER_MEASUREMENT (R151): A 256 cc carrier measurement on a selected coil with the field off completes and updates CHn_RX_CARRIER and FOREIGN. -/
def execForeignCarrierMeasurement (n : Fin 24) (level : Byte) (s : State) : Host.Outcome State Fault Refusal :=
  s.act (foreignCarrier n.val level.toNat)

/-- SEED_CLR (R156): A write of SEED_CLR = 1 clears the 64 equaliser seeds of the channel, at the frame's end if a frame is running. -/
def execSeedClr (p : Path) (n : Fin 24) (s : State) : Host.Outcome State Fault Refusal :=
  s.act (onPort (0x40000 + n.val * 0x2000) p (seedClear n.val))

end Sys2Proof.Machine
end

