-- ==== Sys2Proof/Machine/Field.lean ====
section
/-!
DEFINITION. The transmit half of a channel: codes and power, the field's states, the load measurement, and the release of a
grant (R101 to R112, R123, R124).
-/

namespace Sys2Proof.Machine

/-- The code of channel `n` becomes 0 while its field is not OFF (R105, R108): a ZERO_CODE cut. -/
def zeroCode (n : Nat) (fr : RxFrame) (d : Dev) : Dev :=
  if (d.chan n).field.st = .off then d else endField n cutZERO_CODE fr (d.ownField n) (recordCut n cutZERO_CODE d)

/-- The grant `g` is charged `pw` from now on: the code in force for it has changed (R102, R105). -/
def charge (g : Grant) (pw : Nat) (d : Dev) : Dev :=
  { d with ts := { d.ts with grants := d.ts.grants.map fun x => if x = g then { x with power := pw } else x } }

/-- A code within the power of the grant that is confirmed behind the present field is the one that its field will take (R105, R106). -/
def nextCode (n code : Nat) (d : Dev) : Dev :=
  match (d.chan n).field.next with
  | some c =>
    if powerOf c < powerOf code then d
    else
      let d := d.modField n fun f => { f with next := some code }
      match d.lastGrant n with
      | some g => charge g (powerOf code) d
      | none => d
  | none => d

/-- A write of CHn_TX_AMP (R102, R103, R105): the code takes effect at once where its power is not above that of the code in force, and
waits otherwise; `fr` is what the receiver has decoded of an open frame. -/
def txAmpWrite (p : Path) (n : Nat) (w : Word) (fr : RxFrame) (d : Dev) : Dev :=
  let code := bits w.toNat 9 0
  let pw := powerOf code
  if (d.decl n).maxPower < pw then d.errRange p (0x40010 + n * 0x2000)
  else
    let d := (d.wr (CH_TX_AMP_CODE n) code).wr (CH_TX_AMP_PWR n) pw
    let next := (d.chan n).field.next
    let fits := match next with
      | some c => decide (pw ≤ powerOf c)
      | none => true
    let d := nextCode n code d
    match d.fieldGrant n with
    | none =>
      if next.isNone then d
      else
        let d := d.flag (CH_TX_STATUS_AMP_PENDING n) (!fits)
        if code = 0 then recordCut n cutZERO_CODE d else d
    | some g =>
      let now := decide (pw ≤ powerOf (d.rd (CH_TX_STATUS_ACTIVE_CODE n)))
      let d := d.flag (CH_TX_STATUS_AMP_PENDING n) (!now || !fits)
      if !now then d
      else
        let d := headroom n (charge g pw (d.wr (CH_TX_STATUS_ACTIVE_CODE n) code))
        if code = 0 then zeroCode n fr d else d

/-- The tracking supply of channel `n` has settled (R55, R108). -/
def supplySettled (n : Nat) (d : Dev) : Dev :=
  if (d.chan n).field.st = .supply && d.coreRuns then
    tryRampUp n (d.modField n fun f => { f with settled := true })
  else d

/-- RAMP_ON cc have elapsed: the field enters ON (R108, R112). A guard of 0 is no guard. -/
def rampUpDone (n : Nat) (d : Dev) : Dev :=
  if (d.chan n).field.st ≠ .rampUp || !d.coreRuns then d
  else
    let d := kick n (d.modField n fun f => { f with st := .on })
    match (d.chan n).job with
    | some (.cmd s) =>
      if s.step = .rfReset && !s.begun then startRfReset n s d
      else if d.rd (CH_TX_GUARD_GUARD n) = 0 then guardExpiry n d else fieldReady n d
    | _ => if d.rd (CH_TX_GUARD_GUARD n) = 0 then guardExpiry n d else fieldReady n d

/-- Is a transmit berth excluded (R225)? -/
def Dev.excluded (d : Dev) (b : Nat) : Bool := d.bitOn (TS_EXCL_BERTHS (b / 32)) (b % 32)

/-- A request for a grant ends with a code: a GRANT item for firmware, the final item of the Pontoon's round, nothing for an
emulation instance (R204, R218, R223). -/
def refuseReq (r : GrantReq) (code : Nat) (d : Dev) : Dev :=
  match r.owner with
  | .firmware tag =>
    postIn r.ch 0x26 [packW [(16, 8, code), (0, 16, tag)], packW [(27, 5, r.ch), (21, 6, r.coil), (0, 8, r.slots)], 0, 0, 0] d
  | .pontoon =>
    match (d.chan r.ch).job with
    | some (.inv i) => endInventory r.ch i code 0 d
    | _ => d
  | .emulation _ | .survey => d

/-- Drop the requests that satisfy a condition, each with a code. -/
def dropReqs (c : GrantReq → Bool) (code : Nat) (d : Dev) : Dev :=
  let gone := d.ts.reqs.filter c
  let d := { d with ts := { d.ts with reqs := d.ts.reqs.filter fun r => !c r } }
  d.each gone fun r => refuseReq r code

/-- Exclude a berth after a load fault (R225): its pending requests complete REFUSED. One of an emulation instance on a channel without
coils names no berth (R266). -/
def exclude (b : Nat) (d : Dev) : Dev :=
  let names (r : GrantReq) : Bool := berthOf r.ch r.coil == b && !((match r.owner with | .emulation _ => true | _ => false) && d.coils r.ch == 0)
  dropReqs names cREFUSED ((d.setBit (TS_EXCL_BERTHS (b / 32)) (b % 32)).raise TS_STATUS_EXCL_SEEN)

/-- The load measurement after the entry to ON ends (R123, R124, R151): magnitude in 0.1 Ω, phase in degrees (two's
complement), and the own carrier's level and phase. -/
def loadMeasured (n mag phase level cphase : Nat) (d : Dev) : Dev :=
  let f := (d.chan n).field
  if f.st ≠ .on || f.measured || !d.coreRuns then d
  else
    let coil := d.selected n
    let d := d.modField n fun f => { f with measured := true }
    let d := ((((d.lower (CH_TX_LOAD_STALE n)).flag (CH_TX_LOAD_UNTRACED n) (d.untraced n)).wr (CH_TX_LOAD_COIL n) coil).wr
      (CH_TX_LOAD_PHASE n) phase).wr (CH_TX_LOAD_MAG n) mag
    let d := ((((d.lower (CH_RX_CARRIER_STALE n)).flag (CH_RX_CARRIER_UNTRACED n) (d.untraced n)).raise
      (CH_RX_CARRIER_OWN n)).wr (CH_RX_CARRIER_COIL n) coil).wr (CH_RX_CARRIER_LEVEL n) level
    let a := toSigned 8 phase
    let bad := mag < d.rd (CH_TX_LIMIT_MAG_MIN n) || d.rd (CH_TX_LIMIT_MAG_MAX n) < mag
      || (d.rd (CH_TX_LIMIT_PHASE_MAX n) : Int) < max a (-a)
    let sv := d.ts.survey
    let own : Bool := match d.fieldGrant n with
      | some g => g.owner == .survey
      | none => false
    let d := if own then
        { d with ts := { d.ts with survey := { sv with ownLevel := level, ownPhase := cphase, refused := sv.refused || bad } } }
      else d
    if bad then
      exclude (berthOf n coil) ((d.raise (CH_TX_STATUS_LOAD_FAULT n)).wr (CH_TX_STATUS_LOAD_COIL n) coil)
    else d

/-- RAMP_OFF cc have elapsed (R108, R109): the outputs clamp; OFF, or RESET_OFF of an RF reset. -/
def rampDownDone (n : Nat) (d : Dev) : Dev :=
  let f := (d.chan n).field
  if f.st = .rampDown then fieldOff n d
  else if f.st = .resetDown then
    if f.thenOff then fieldOff n d else resetClamp n d
  else d

/-- RESET_OFF µs have elapsed (R108, R112): the field ramps up again and the guard restarts, while the grant runs. -/
def rfResetOffExpiry (n : Nat) (d : Dev) : Dev :=
  if (d.chan n).field.st ≠ .resetOff || !d.coreRuns then d
  else if (d.grantNow n).isSome then rampUp n d
  else endField n cutGRANT_END emptyFrame true d

/-- With RAMP_ON 0 the field is ON in one step (R109). -/
def rampInOne (n : Nat) (d : Dev) : Dev :=
  if (d.chan n).field.st = .rampUp && d.rd (CH_TX_RAMP_RAMP_ON n) = 0 then rampUpDone n d else d

/-- A cut at once for a thermal shutdown or a PLL_A unlock (R108, R111): in any state but OFF the outputs clamp, and no
grant that is confirmed already raises a field. A second cause in the Deck clock of a cut is judged with the first. -/
def cutField (n cause : Nat) (fr : RxFrame) (d : Dev) : Dev :=
  let f := (d.chan n).field
  if f.st = .off then (if f.cutAt = some d.time then recordCut n cause d else d)
  else
    let d := loseField n cause fr (d.ownLost n) (recordCut n cause d)
    (d.modField n fun f =>
      { f with st := .off, guard := false, boundary := false, settled := false, thenOff := false, next := none,
               offAt := if f.lit then some d.ns else f.offAt }).lower (CH_TX_STATUS_HEADROOM n)

/-- What the receiver of channel `n` has decoded of an open frame, among those given. -/
def fragOf (frs : List (Fin 24 × RxFrame)) (n : Nat) : RxFrame :=
  ((frs.find? fun x => x.1.val == n).map (·.2)).getD emptyFrame

/-- A tracking regulator reaches its current limit (R56). -/
def currentLimit (n : Nat) (d : Dev) : Dev := d.setBit PW_CHREG_FAULT_CH n

/-! The meanings of the rows of this family. -/

/-- REGULATOR_CURRENT_LIMIT (R56): A tracking regulator reaches its current limit: it lowers its output and sets the channel's bit in PW_CHREG_FAULT. -/
def execRegulatorCurrentLimit (n : Fin 24) (s : State) : Host.Outcome State Fault Refusal :=
  s.act (currentLimit n.val)

/-- REGULATOR_DROPOUT (R104): A tracking regulator enters or leaves dropout while the field is on, which updates HEADROOM and sets HEADROOM_SEEN. -/
def execRegulatorDropout (n : Fin 24) (s : State) : Host.Outcome State Fault Refusal :=
  s.act (headroom n.val)

/-- TX_AMP_WRITE (R105): A write of CHn_TX_AMP.CODE is checked against MAX_POWER and applied at once, held pending, or cuts the field (ZERO_CODE). -/
def execTxAmpWrite (p : Path) (n : Fin 24) (w : Word) (soFar : RxFrame) (s : State) : Host.Outcome State Fault Refusal :=
  s.act (onPort (0x40000 + n.val * 0x2000) p fun d => rampInOne n.val (txAmpWrite p n.val w soFar d))

/-- SUPPLY_SETTLED (R55): A channel's tracking supply settles; the field enters RAMP_UP if its boundary has passed and its coil is applied. -/
def execSupplySettled (n : Fin 24) (s : State) : Host.Outcome State Fault Refusal :=
  s.act (fun d => rampInOne n.val (supplySettled n.val d))

/-- RAMP_UP_DONE (R108): RAMP_ON cc have elapsed and the field enters ON. -/
def execRampUpDone (n : Fin 24) (s : State) : Host.Outcome State Fault Refusal :=
  s.act (rampUpDone n.val)

/-- LOAD_MEASUREMENT_DONE (R123): The 256 cc load measurement after entry to ON ends; CHn_TX_LOAD and the own carrier are written and the load window is checked. -/
def execLoadMeasurementDone (n : Fin 24) (mag : Fin 4096) (phase level carrierPhase : Byte) (s : State) : Host.Outcome State Fault Refusal :=
  s.act (loadMeasured n.val mag.val phase.toNat level.toNat carrierPhase.toNat)

/-- RAMP_DOWN_DONE (R109): RAMP_OFF cc have elapsed; the outputs clamp and the field goes to OFF or RESET_OFF. -/
def execRampDownDone (n : Fin 24) (s : State) : Host.Outcome State Fault Refusal :=
  s.act (fun d => rampInOne n.val (rampDownDone n.val d))

/-- RF_RESET_OFF_EXPIRY (R112): RESET_OFF µs have elapsed in RESET_OFF; the field ramps up again and the guard restarts. -/
def execRfResetOffExpiry (n : Fin 24) (s : State) : Host.Outcome State Fault Refusal :=
  s.act (fun d => rampInOne n.val (rfResetOffExpiry n.val d))

/-- GRANT_RELEASE (R106): A Pontoon releases its grant; the field ramps down and the remaining slots are freed from the next confirmation point. -/
def execGrantRelease (n : Fin 24) (soFar : RxFrame) (s : State) : Host.Outcome State Fault Refusal :=
  s.act (fun d => rampInOne n.val (releaseGrant n.val soFar d))

end Sys2Proof.Machine
end

