-- ==== Sys2Proof/Machine/Sched.lean ====
section
/-!
DEFINITION. The Tide scheduler: the conflict graph, requests, confirmation, listeners, slot boundaries, select frames, and
the ends of grants (R54, R55, R57, R110, R118 to R122, R207 to R227, R499).
-/

namespace Sys2Proof.Machine

/-! The conflict graph. -/

/-- The valid entries of a table (R208). -/
def NbTable.live (t : NbTable) : List NbEntry := t.entries.take (min t.count 16)

/-- The valid entries of berth `b`. -/
def Dev.entries (d : Dev) (b : Nat) : List NbEntry :=
  match d.table b with
  | some t => t.live
  | none => []

/-- Does the table of `b` hold local berth `t` with a coupling at or above THRESH (R209)? -/
def Dev.coupled (d : Dev) (b t : Nat) : Bool :=
  (d.entries b).any fun e => !e.xdev && e.berth == t && e.mag ≤ d.rd TS_CFG_THRESH

/-- Do two local berths conflict (R207, R209)? A berth with no entries in a valid table conflicts with none. -/
def Dev.conflict (d : Dev) (b t : Nat) : Bool :=
  if b / 64 = t / 64 then false
  else if !d.on TS_STATUS_NB_VALID then true
  else if (d.entries b).isEmpty || (d.entries t).isEmpty then false
  else d.coupled b t || d.coupled t b

/-- Has berth `b` a cross-device conflict (R209, R224)? -/
def Dev.crossConflict (d : Dev) (b : Nat) : Bool :=
  d.on TS_CFG_XEN && (!d.on TS_STATUS_NB_VALID
    || (d.entries b).any fun e => e.xdev && e.mag ≤ d.rd TS_CFG_THRESH)

/-! Emulation instances, as the scheduler sees them. -/

/-- Channel of emulation instance `k`: the k-th emulation Pontoon of the DECK section (R262). -/
def Dev.ceChan (d : Dev) (k : Nat) : Option Nat :=
  match d.boot.manifest with
  | some m => ((m.deck.filter (·.func == 3)).map (·.channel))[k]?
  | none => none

/-- The coil that an enabled instance keeps selected on channel `n` (R265). -/
def Dev.ceCoil (d : Dev) (n : Nat) : Option Nat :=
  match (upTo 8).find? fun k => d.ceChan k == some n && d.on (CE_INST_CFG_EN k) with
  | some k => if d.coils n = 0 then none else some (d.rd (CE_INST_CFG_COIL k))
  | none => none

/-- Is a grant for an emulation instance without a berth (R266)? -/
def Dev.noBerth (d : Dev) (ch : Nat) : Bool := d.coils ch == 0

/-- Change emulation instance `k`. -/
def Dev.modCe (d : Dev) (k : Nat) (f : CeInst → CeInst) : Dev := { d with ce := vmod d.ce k f }

/-- Emulation instance `k`. -/
def Dev.inst (d : Dev) (k : Nat) : CeInst := vget d.ce k CeInst.reset

/-- A byte of the image of instance `k` (R274). -/
def Dev.img (d : Dev) (k off : Nat) : Nat := (Memory.get d.shadow (k * 65536 + off)).toNat

/-- Queue a CE_EVENT item (R284): event code, and the map of the blocks written. -/
def ceEvent (k ev : Nat) (map : List Word) (d : Dev) : Dev :=
  match d.ceChan k with
  | some n => postIn n 0x28 ([packW [(28, 4, k), (24, 4, ev), (0, 16, d.rd (CE_INST_CSEQ_CSEQ k))]] ++ d.stamp ++ map) d
  | none => d

/-- The map of a CE_EVENT item that names no blocks. -/
def noBlocks : List Word := List.replicate 8 0

/-- An instance stays silent (R266, R269). -/
def ceDeaf (k : Nat) (d : Dev) : Dev := ceEvent k 8 noBlocks (d.raise (CE_INST_STATUS_DEAF_SEEN k))

/-- POWER_OFF leads to IDLE once the phone's field is there, its carrier is locked and a grant is confirmed (R268); the UID is
drawn or read (R269). -/
def ceIdle (k : Nat) (d : Dev) : Dev :=
  if !d.on (CE_INST_STATUS_FIELD k) || !d.on (CE_INST_STATUS_CARRIER k) || !d.on (CE_INST_STATUS_GRANT k)
    || d.rd (CE_INST_STATUS_STATE k) ≠ 0 then d
  else
    let mode := d.img k 2
    let go (uid : List Byte) (d : Dev) : Dev :=
      (d.modCe k fun c => { CeInst.reset with uid := uid, cmdId := c.cmdId, asm := c.asm, host := c.host }).wr
        (CE_INST_STATUS_STATE k) 1
    let fixed (n : Nat) : List Byte := (upTo n).map fun i => BitVec.ofNat 8 (d.img k (3 + i))
    if mode = 0 then
      if !d.entropy then ceDeaf k d
      else
        let r := d.random 3
        go (0x08 :: r.1) r.2
    else go (fixed (if mode = 2 then 7 else 4)) d

/-! Requests. -/

/-- Firmware requests waiting (TS_GREQ_STATUS.PENDING). -/
def Dev.fwRequests (d : Dev) : Nat :=
  (d.ts.reqs.filter fun r => match r.owner with | .firmware _ => true | _ => false).length

/-- A request enters the scheduler (R7, R223, R225): it is refused at once, or it waits. A handover to a berth that does not exist is
RANGE (DEDUCED, assumption 22). -/
def addRequest (r : GrantReq) (d : Dev) : Dev :=
  if !d.reader r.ch then refuseReq r cREFUSED d
  else if d.coils r.ch ≤ r.coil || (r.handover && (8 < r.slots || !d.berthExists r.partner)) then refuseReq r cRANGE d
  else if r.slots = 0 then refuseReq r cEMPTY d
  else if d.excluded (berthOf r.ch r.coil) then refuseReq r cREFUSED d
  else { d with ts := { d.ts with reqs := d.ts.reqs ++ [r] } }

/-- A word written to TS_GREQ (R223). -/
def grantRequest (p : Path) (w : Word) (d : Dev) : Dev :=
  match d.ts.asm.find? (·.1 = p) with
  | none => { d with ts := { d.ts with asm := d.ts.asm ++ [(p, w)] } }
  | some x =>
    let w0 := x.2.toNat
    let w1 := w.toNat
    let d := { d with ts := { d.ts with asm := d.ts.asm.filter (·.1 ≠ p) } }
    if 24 ≤ bits w0 31 27 then d.errRange p 0x38028
    else if 16 ≤ d.fwRequests then d.raise TS_GREQ_STATUS_OVERFLOW
    else
      addRequest { owner := .firmware (bits w1 15 0), ch := bits w0 31 27, coil := bits w0 26 21, slots := bits w0 7 0,
                   handover := bit w0 20, partner := bits w1 26 16, waited := 0, urgent := false } d

/-- A request that has waited AGE slots becomes urgent (R220). -/
def requestUrgent (d : Dev) : Dev :=
  let age := d.rd TS_CFG_AGE
  { d with ts := { d.ts with reqs := d.ts.reqs.map fun r =>
                                       { r with urgent := r.urgent || (decide (0 < age) && decide (age ≤ r.waited)) } } }

/-! Confirmation. -/

/-- May a field be granted at all now (R58, R67, R72, R76)? -/
def Dev.mayGrant (d : Dev) : Bool :=
  d.applied && d.boot.phase == .runtime && d.rd PW_STATE_CUR == 1 && !d.on PW_STATUS_PFAIL && !d.on PW_STATUS_THERM_SHUT
    && !d.fd.handling

/-- May the scheduler confirm the grants that are asked for (R61, R62)? -/
def Dev.grantsAllowed (d : Dev) : Bool := d.mayGrant && !d.on PW_STATE_BUSY

/-- Does a grant still hold its slots at a confirmation point? A release in the same Deck clock does not free them
(R227). -/
def Dev.holds (d : Dev) (g : Grant) : Bool := g.released.isNone || g.released == some d.time

/-- Grants that hold one of the slots from millisecond `m` on, `n` of them. -/
def Dev.during (d : Dev) (m n : Nat) : List Grant :=
  d.ts.grants.filter fun g => d.holds g && (g.begun || g.start < m + n) && (g.isOpen || m < g.start + g.slots)

/-- Committed power in the slot that starts at millisecond `m` (R10, R219). -/
def Dev.committed (d : Dev) (m : Nat) : Nat := ((d.during m 1).map (·.power)).sum

/-- Power that a request is charged (R102, R266). -/
def Dev.reqPower (d : Dev) (r : GrantReq) : Nat :=
  match r.owner with
  | .emulation k => powerOf (d.rd (CE_INST_CFG_ALM_CODE k))
  | _ => powerOf (d.rd (CH_TX_AMP_CODE r.ch))

/-- Is slot index `k` one that a request may use (R217, R218, R224)? -/
def Dev.slotOk (d : Dev) (ch : Nat) (cross : Bool) (k : Nat) : Bool :=
  d.bitOn (TS_SLOT_TXEN k) ch && !d.on (TS_SLOT_QUIET k) && (!cross || d.on (TS_SLOT_XOWN k))

/-- Longest run of good slots, walking the cycle twice: flags still to see, run so far, best. -/
def longestRun : List Bool → Nat → Nat → Nat
  | [], _, best => best
  | true :: l, run, best => longestRun l (run + 1) (max best (run + 1))
  | false :: l, _, best => longestRun l 0 best

/-- Does the cycle hold `n` consecutive eligible slot indices (R218)? -/
def Dev.hasWindow (d : Dev) (ch : Nat) (cross : Bool) (n : Nat) : Bool :=
  let f := (upTo (d.rd TS_CYCLE_SLOTS)).map (d.slotOk ch cross)
  f.all id || n ≤ longestRun (f ++ f) 0 0

/-- Is VRF_OK set for the channel's group, and its regulator without a fault (R54, R56)? -/
def Dev.supplyOk (d : Dev) (ch : Nat) : Bool := d.bitOn PW_RAIL_VRF_OK (ch / 4) && !d.bitOn PW_CHREG_FAULT_CH ch

/-- Does a request fit beside the grants that hold its slots (R218, R222, R266)? -/
def Dev.beside (d : Dev) (r : GrantReq) (m n : Nat) : Bool :=
  let b := berthOf r.ch r.coil
  let free := match r.owner with
    | .emulation _ => d.noBerth r.ch
    | _ => false
  (d.during m n).all fun g =>
    let partner := r.handover && berthOf g.ch g.coil == r.partner && !(g.isEmu && d.noBerth g.ch)
    let gb := berthOf g.ch g.coil
    let meets := !free && !(g.isEmu && d.noBerth g.ch)
    g.ch != r.ch && (partner || !(g.listeners.any fun l => l.ch == r.ch && m < l.until_))
      && (partner || !(meets && d.conflict b gb))
      && !(!free && g.listeners.any fun l => m < l.until_ && l.ch != r.ch && d.conflict b (berthOf l.ch l.coil))

/-- Slots that a request needs to be good: an emulation grant has no set length, and its first slot is judged. -/
def GrantReq.span (r : GrantReq) : Nat :=
  match r.owner with
  | .emulation _ => 1
  | _ => r.slots

/-- The conditions of R218 and R219 for a request at the confirmation point of boundary `m` (ms). -/
def Dev.eligible (d : Dev) (r : GrantReq) (m : Nat) : Bool :=
  let n := r.span
  let b := berthOf r.ch r.coil
  let emu := match r.owner with
    | .emulation _ => true
    | _ => false
  let cross := !(emu && d.noBerth r.ch) && d.crossConflict b
  ((upTo n).all fun j => d.slotOk r.ch cross (d.slotIndex (m + j)))
    && !(cross && d.on TS_CFG_HOLD_STOP && d.on TC_STATUS_HOLDOVER)
    && ((emu && d.noBerth r.ch) || !d.excluded b) && d.supplyOk r.ch && d.beside r m n
    && (!r.handover || (d.during m 1).any fun g => berthOf g.ch g.coil == r.partner && !g.isEmu && g.released.isNone)
    && ((upTo n).all fun j => d.committed (m + j) + d.reqPower r ≤ d.rd PW_RF_BUDGET_BUDGET)

/-- Listeners for a grant on berth (`ch`, `coil`) in the slots from `m` on (R221): entries still to see, those chosen. -/
def pickListeners (d : Dev) (ch m n left : Nat) : List NbEntry → List Listen → List Listen
  | [], acc => acc
  | e :: es, acc =>
    let t := e.berth
    let tc := t / 64
    let ok := acc.length < left && !e.xdev && tc != ch && d.berthExists t && !(acc.any (·.ch == tc))
      && !(d.ts.reqs.any fun q => q.ch == tc && q.urgent)
      && ((d.during m n).all fun g => g.ch != tc && !(g.listeners.any fun l => l.ch == tc && m < l.until_)
            && ((g.isEmu && d.noBerth g.ch) || !d.conflict t (berthOf g.ch g.coil)))
    pickListeners d ch m n left es (if ok then acc ++ [⟨tc, t % 64, m + n⟩] else acc)

/-- The listeners that a request gets (R221, R222): none for a handover or an emulation grant. -/
def Dev.listenersFor (d : Dev) (r : GrantReq) (m : Nat) : List Listen :=
  match r.owner with
  | .emulation _ => []
  | _ => if r.handover then []
         else pickListeners d r.ch m r.slots (d.rd TS_CFG_LISTEN_MAX) (d.entries (berthOf r.ch r.coil)) []

/-- Is a request one of an emulation instance on a channel without coils, which names no berth (R266)? -/
def Dev.berthless (d : Dev) (r : GrantReq) : Bool :=
  match r.owner with
  | .emulation _ => d.noBerth r.ch
  | _ => false

/-- Would the younger request `y` block the urgent request `u` (R220)? -/
def Dev.blocks (d : Dev) (y u : GrantReq) (m : Nat) : Bool :=
  y.ch == u.ch || (!d.berthless y && !d.berthless u && d.conflict (berthOf y.ch y.coil) (berthOf u.ch u.coil))
    || ((d.listenersFor y m).any (·.ch == u.ch))
    || ((upTo (min y.span u.span)).any fun j =>
          d.rd PW_RF_BUDGET_BUDGET < d.committed (m + j) + d.reqPower y + d.reqPower u)

/-- The field of a channel whose grant has been confirmed (R55, R105, R106): SUPPLY, or later, once the present field is
off. -/
def startSupply (n code : Nat) (d : Dev) : Dev :=
  if (d.chan n).field.st = .off then supplyRamp n code false false d
  else (d.modField n fun f => { f with next := some code }).lower (CH_TX_STATUS_AMP_PENDING n)

/-- Listen assignments that a handover ends on its channel from its first slot on (R222). -/
def cutListeners (r : GrantReq) (m : Nat) (gs : List Grant) : List Grant :=
  gs.map fun g =>
    if r.handover && berthOf g.ch g.coil == r.partner then
      { g with listeners := g.listeners.map fun l => if l.ch == r.ch then { l with until_ := min l.until_ m } else l }
    else g

/-- Confirm a request for the slots from boundary `m` on (R218, R221, R222, R223). -/
def confirm (r : GrantReq) (m : Nat) (d : Dev) : Dev :=
  let emu := match r.owner with
    | .emulation _ => true
    | _ => false
  let g : Grant :=
    { owner := r.owner, ch := r.ch, coil := r.coil, start := m, slots := r.slots, isOpen := emu, power := d.reqPower r,
      listeners := d.listenersFor r m, released := none, begun := false }
  let d := { d with ts := { d.ts with reqs := d.ts.reqs.erase r, grants := cutListeners r m d.ts.grants ++ [g] } }
  match r.owner with
  | .emulation k => ceIdle k (d.raise (CE_INST_STATUS_GRANT k))
  | .firmware tag =>
    startSupply r.ch (d.rd (CH_TX_AMP_CODE r.ch)) (postIn r.ch 0x26
      ([packW [(16, 8, cDONE), (0, 16, tag)], packW [(27, 5, r.ch), (21, 6, r.coil), (0, 8, r.slots)]]
        ++ d.stampOf (m * 1000000 * 2 ^ 40)) d)
  | .pontoon | .survey => startSupply r.ch (d.rd (CH_TX_AMP_CODE r.ch)) d

/-- Consider one request at the confirmation point of boundary `m` (R218, R219, R220, R224). -/
def consider (m : Nat) (d : Dev) (r : GrantReq) : Dev :=
  if !d.ts.reqs.contains r then d
  else
    let emu := match r.owner with
      | .emulation _ => true
      | _ => false
    if !emu && d.rd (CH_TX_AMP_CODE r.ch) = 0 then
      refuseReq r cEMPTY { d with ts := { d.ts with reqs := d.ts.reqs.erase r } }
    else
      let cross := !(emu && d.noBerth r.ch) && d.crossConflict (berthOf r.ch r.coil)
      let d := d.raiseIf (!d.hasWindow r.ch cross r.span) TS_STATUS_NOWIN_SEEN
      let d := d.raiseIf (cross && d.on TS_CFG_HOLD_STOP && d.on TC_STATUS_HOLDOVER) TS_STATUS_HOLD_BLOCK
      let older := d.ts.reqs.takeWhile (· ≠ r)
      if d.eligible r m && (emu || !(older.any fun u => u.urgent && d.blocks r u m)) then confirm r m d else d

/-! The survey's own grants. -/

/-- Is a survey under way (TS_STATUS.SURVEY is not IDLE)? -/
def Dev.surveying (d : Dev) : Bool := d.rd TS_STATUS_SURVEY != 0

/-- Does this device transmit in the survey that measures (R212, R215)? -/
def Dev.surveySource (d : Dev) : Bool := d.rd TS_STATUS_SURVEY == 3

/-- The grant of the present block's source, at the confirmation point before the slot after the quiet slot (R211, R212,
R213): a source that is refused is left unsurveyed. -/
def surveyConfirm (m : Nat) (d : Dev) : Dev :=
  let s := d.ts.survey
  if !d.surveySource || s.pos ≠ 1 then d
  else
    match s.sources with
    | [] => d
    | b :: _ =>
      let pw := powerOf s.code
      let ok := d.supplyOk (b / 64) && !d.excluded b
        && ((upTo s.len).all fun j => d.committed (m + j) + pw ≤ d.rd PW_RF_BUDGET_BUDGET)
      if !ok then { d with ts := { d.ts with survey := { s with refused := true } } }
      else
        let g : Grant := { owner := .survey, ch := b / 64, coil := b % 64, start := m, slots := s.len, isOpen := false,
                           power := pw, listeners := [], released := none, begun := false }
        startSupply (b / 64) s.code { d with ts := { d.ts with grants := d.ts.grants ++ [g] } }

/-- 150 µs before a slot boundary (R218, R499): pending requests are considered, emulation requests first, then the oldest
first. A Trim request waits until a survey has ended, which goes on with its own grants (R211). -/
def confirmationPoint (d : Dev) : Dev :=
  if !d.coreRuns then d
  else
    let m := d.boundaryAfterLead 150
    let d := d.reach (m * 1000000 - 150000)
    if d.surveying then (if d.mayGrant && (!d.on PW_STATE_BUSY || d.power.entry = .trim) then surveyConfirm m d else d)
    else if !d.grantsAllowed then d
    else
      let emu := d.ts.reqs.filter fun r => match r.owner with | .emulation _ => true | _ => false
      let rest := d.ts.reqs.filter fun r => match r.owner with | .emulation _ => false | _ => true
      (emu ++ rest).foldl (consider m) d

/-! Selections. -/

/-- The source of the block that slot 0 begins next (R212, R213): of the sources, or of those to be repeated. -/
def SurveySt.upcoming (s : SurveySt) : Option Nat :=
  match (if s.pos = 0 then s.sources else s.sources.drop 1) with
  | b :: _ => some b
  | [] =>
    if s.repeating then none
    else (s.again ++ (if s.pos ≠ 0 && s.spoiled && !s.cross && !s.refused then s.sources.take 1 else [])).head?

/-- What the survey selects on channel `n` in the slot that starts at millisecond `m` (R212): outer `none` where it does not say,
inner `none` to park. A cross survey selects from SYNC on for its start slot. -/
def Dev.surveyCoil (d : Dev) (n m : Nat) : Option (Option Nat) :=
  let s := d.ts.survey
  let st := d.rd TS_STATUS_SURVEY
  if st ≠ 3 && st ≠ 4 && !(st = 2 && m = s.startMs) then none
  else
    let slot := if st = 2 || s.pos = s.len + 1 then 0 else s.pos
    let source := st = 3 || (st = 2 && s.initiator)
    match (if slot = 0 then s.upcoming else s.sources.head?) with
    | none => none
    | some b =>
      if source && b / 64 = n then some (some (b % 64))
      else if d.coils n = 0 || (source && s.cross) then none
      else if slot = 0 then some (some 0)
      else if slot - 1 < d.coils n then some (some (slot - 1)) else some none

/-- The selection that channel `n` needs for the slot that starts at millisecond `m`: a coil that a grant, an assignment,
the survey or an emulation instance names (R118, R265). -/
def Dev.wanted (d : Dev) (n m : Nat) : Option Nat :=
  match d.ts.grants.find? fun g => g.ch == n && g.covers m && g.released.isNone && !(g.isEmu && d.noBerth n) with
  | some g => some g.coil
  | none =>
    match (d.ts.grants.filter fun g => g.covers m && g.released.isNone).findSome? fun g =>
        g.listeners.find? fun l => l.ch == n && m < l.until_ with
    | some l => some l.coil
    | none =>
      match d.surveyCoil n m with
      | some (some c) => some c
      | some none => none
      | none => d.ceCoil n

/-- Does channel `n` need a selection at millisecond `m` that differs from its present one (R118)? -/
def Dev.selects (d : Dev) (n m : Nat) : Bool :=
  match d.wanted n m with
  | some c => !(d.on (CH_SEL_STATUS_ON n) && d.selected n == c)
  | none => false

/-- Is a frame of group `g` due before the boundary at millisecond `m` (R118, R122)? -/
def Dev.frameDue (d : Dev) (g m : Nat) : Bool :=
  d.ts.selInit.contains (g, m) || (upTo 4).any fun j => d.selects (4 * g + j) m

/-- Does a select frame before the boundary at millisecond `m` change the selection of channel `n` (R118, R122)? Parking does where the
group sends a frame at all. -/
def Dev.changes (d : Dev) (n m : Nat) : Bool :=
  d.selects n m || ((d.wanted n m).isNone && d.on (CH_SEL_CFG_PARK n) && d.on (CH_SEL_STATUS_ON n) && d.frameDue (n / 4) m)

/-- Has TAIL passed since the outputs of channel `n` clamped (R118)? -/
def Dev.decayed (d : Dev) (n : Nat) : Bool :=
  match (d.chan n).field.offAt with
  | some t => d.ns < t || t + d.rd (CH_TX_RAMP_TAIL n) * 1000 ≤ d.ns
  | none => true

/-- Put one channel's selection into a frame with a SELCLK period of `cc` (R118, R120, R122): a channel whose field is on, or went off less
than TAIL ago, repeats its own; the frame of R122 selects nothing. -/
def selectOne (initial : Bool) (cc m n : Nat) (d : Dev) : Dev :=
  let on := d.on (CH_SEL_STATUS_ON n)
  let keep := sendSelect n cc on (d.selected n) d
  if (d.chan n).field.lit || !d.decayed n then keep
  else if initial then sendSelect n cc false 0 d
  else
    match d.wanted n m with
    | some c => sendSelect n cc true c d
    | none => if d.on (CH_SEL_CFG_PARK n) then sendSelect n cc false 0 d else keep

/-- LEAD before a slot boundary, group `g` sends a select frame where one is due (R118 to R122). -/
def selectFrame (g : Nat) (d : Dev) : Dev :=
  if !d.applied then d
  else
    let lead := d.rd (CH_SEL_CFG_LEAD (4 * g))
    let m := d.boundaryAfterLead lead
    let d := d.reach (m * 1000000 - lead * 1000)
    if !d.frameDue g m then d
    else
      let initial := d.ts.selInit.contains (g, m)
      let d := { d with ts := { d.ts with selInit := d.ts.selInit.filter (·.1 ≠ g) } }
      let cc := 4 * 2 ^ d.rd (CH_SEL_CFG_SELDIV (4 * g))
      d.each (upTo 4) fun j => selectOne initial cc m (4 * g + j)

/-! Ends of grants, and slot boundaries. -/

/-- The point in ns that lies `lead` µs, TAIL and the ramp of channel `n` before the boundary at millisecond `m`. -/
def Dev.rampPoint (d : Dev) (n m lead : Nat) : Nat :=
  m * 1000000 - (lead + d.rd (CH_TX_RAMP_TAIL n)) * 1000 - (d.rd (CH_TX_RAMP_RAMP_OFF n) * 1000 * 100 + 1355) / 1356

/-- The field end point of channel `n` in the slot that runs now, in ns (R110): TAIL and the ramp before the end of the grant, or before
the select frame that changes the channel's selection, where the field can still go down in time for it (R118). -/
def Dev.endPoint (d : Dev) (n m : Nat) : Nat :=
  let e := d.rampPoint n m (d.rd (CH_SEL_CFG_LEAD (4 * (n / 4))))
  if d.changes n m && d.ns ≤ e then e else d.rampPoint n m 0

/-- The field end point of R110 is reached (R108, R110, R499): in the grant's last slot, or once a step has passed its end. -/
def fieldEndPoint (n : Nat) (fr : RxFrame) (d : Dev) : Dev :=
  match d.fieldGrant n with
  | none => d
  | some g =>
    let m := g.start + g.slots
    if !d.coreRuns || g.isOpen || d.nextBoundary < m then d
    else endField n cutGRANT_END fr (g.owner == .pontoon) (d.reach (d.endPoint n m))

/-- A step back finds these grants running: they go on to their end (R499). -/
def beginGrants (d : Dev) : Dev :=
  { d with ts := { d.ts with grants := d.ts.grants.map fun g => { g with begun := g.begun || decide (g.start ≤ d.ms) } } }

/-- One grant ends (R110, R221, R223, R499): its field where it still has one, its listen assignments, and the handover
requests that wait for it. -/
def endGrant (g : Grant) (d : Dev) : Dev :=
  let mine := match d.fieldGrant g.ch with
    | some x => decide (x = g)
    | none => (d.chan g.ch).field.st ≠ .supply
  let d := if mine && g.released.isNone && !g.isEmu then endField g.ch cutGRANT_END emptyFrame (g.owner == .pontoon) d else d
  let d := { d with ts := { d.ts with grants := d.ts.grants.filter (· ≠ g) } }
  dropReqs (fun r => r.handover && r.partner == berthOf g.ch g.coil) cABORTED d

/-- The grants whose end has been reached, and those that were released in an earlier slot, are gone (R221, R227, R499). -/
def endGrants (d : Dev) : Dev :=
  d.each (d.ts.grants.filter fun g =>
    (!g.isOpen && g.start + g.slots ≤ d.ms) || (match g.released with | some t => t / 2 ^ 40 / 1000000 < d.ms | none => false))
    endGrant

/-- Does channel `n` hold a listen assignment now (R11, R221)? The survey's listeners listen throughout its blocks. -/
def Dev.listening (d : Dev) (n : Nat) : Bool :=
  (d.ts.grants.any fun g => g.covers d.ms && g.listeners.any fun l => l.ch == n && d.ms < l.until_)
    || (d.ts.survey.pos != 0 && (d.rd TS_STATUS_SURVEY == 3 || d.rd TS_STATUS_SURVEY == 4)
          && !(d.surveySource && (d.ts.survey.cross || (d.ts.survey.sources.headD 0) / 64 == n)) && d.coils n != 0)

/-- The receivers enter and leave LISTEN with their assignments (R135). -/
def followListeners (d : Dev) : Dev :=
  d.each (upTo 24) fun n d =>
    let st := d.rd (CH_RX_STATUS_STATE n)
    if d.listening n then (if st = 0 then d.wr (CH_RX_STATUS_STATE n) 6 else d)
    else if st = 6 then d.wr (CH_RX_STATUS_STATE n) 0 else d

/-- A grant ends at its network-time end (R499). -/
def grantEnd (n : Nat) (d : Dev) : Dev :=
  match d.grantNow n with
  | none => followListeners (endGrants d)
  | some g =>
    if g.isOpen then d
    else followListeners (endGrants (d.reach ((g.start + g.slots) * 1000000)))

/-- The thermal factor times ten, floored: BUDGET of a cap (R57), from a temperature in quarter degrees. -/
def budgetOf (cap throttle : Nat) (t : Int) : Nat :=
  let above := t - 4 * (throttle : Int)
  if above ≤ 0 then cap else if 40 < above then 0 else (cap * (40 - above).toNat) / 40

/-- Capstan computes the budget for the slot that starts (R57). -/
def rfBudget (d : Dev) : Dev :=
  d.wr PW_RF_BUDGET_BUDGET (budgetOf (d.rd PW_RF_CAP_CAP) (d.rd PW_THERM_THROTTLE) (toSigned 11 d.power.temp))

/-- The power of the channels energised in the slot that runs now (R57, R102). -/
def Dev.inUse (d : Dev) : Nat :=
  ((d.ts.grants.filter fun g => g.covers d.ms && g.released.isNone).map (·.power)).sum

/-- Channels in SUPPLY whose grant has begun and whose coil is applied reach their boundary (R108). -/
def raiseFields (d : Dev) : Dev :=
  d.each (upTo 24) fun n d => rampInOne n <|
    match d.fieldGrant n with
    | some g =>
      if (d.chan n).field.st = .supply && g.start ≤ d.ms && d.coilApplied g then
        tryRampUp n (d.modField n fun f => { f with boundary := true })
      else d
    | none => d

/-! The meanings of the rows of this family. -/

/-- FIELD_END_POINT (R110): The point at which RAMP_DOWN must begin is reached; RAMP_DOWN starts and any exchange in progress is cut with GRANT_END. -/
def execFieldEndPoint (n : Fin 24) (soFar : RxFrame) (s : State) : Host.Outcome State Fault Refusal :=
  s.act (fun d => rampInOne n.val (fieldEndPoint n.val soFar d))

/-- GRANT_END (R499): A grant reaches its network-time end; its listen assignments end and its channel returns to OFF. -/
def execGrantEnd (n : Fin 24) (s : State) : Host.Outcome State Fault Refusal :=
  s.act (fun d => rampInOne n.val (grantEnd n.val d))

/-- SELECT_FRAME (R118): LEAD before a slot boundary, a group sends a select frame that carries its channels' new or repeated coil selections. -/
def execSelectFrame (g : Fin 6) (s : State) : Host.Outcome State Fault Refusal :=
  s.act (selectFrame g.val)

/-- GRANT_REQUEST (R223): The second word of a request written to TS_GREQ enters the request queue, or is discarded. -/
def execGrantRequest (p : Path) (w : Word) (s : State) : Host.Outcome State Fault Refusal :=
  s.act (onPort 0x38000 p (grantRequest p w))

/-- CONFIRMATION_POINT (R218): 150 µs before a slot boundary, pending requests are considered oldest first and confirmed, emulation requests first. -/
def execConfirmationPoint (s : State) : Host.Outcome State Fault Refusal :=
  s.act (confirmationPoint)

/-- REQUEST_URGENT (R220): A request that has waited AGE slots becomes urgent. -/
def execRequestUrgent (s : State) : Host.Outcome State Fault Refusal :=
  s.act (requestUrgent)

end Sys2Proof.Machine
end

