-- ==== Sys2Proof/Machine/Angle.lean ====
section
/-!
DEFINITION. The arithmetic of the attribution (R228): the circular mean and the weight 2 ^ (-x), to 2⁻³² turns and 2⁻⁶⁴. R228 gives the
real numbers and no precision (DESIGN CHOICE, assumption 5).
-/

namespace Sys2Proof.Machine

/-- The cosine of k/256 turns for k = 0 to 64, in units of 2⁻³⁰. -/
def quarterWave : List Int :=
  [1073741824, 1073418433, 1072448455, 1070832474, 1068571464, 1065666786, 1062120190, 1057933813, 1053110176, 1047652185, 1041563127, 1034846671]
    ++ [1027506862, 1019548121, 1010975242, 1001793390, 992008094, 981625251, 970651112, 959092290, 946955747, 934248793, 920979082, 907154608]
    ++ [892783698, 877875009, 862437520, 846480531, 830013654, 813046808, 795590213, 777654384, 759250125, 740388522, 721080937, 701339000]
    ++ [681174602, 660599890, 639627258, 618269338, 596538995, 574449320, 552013618, 529245404, 506158392, 482766489, 459083786, 435124548]
    ++ [410903207, 386434353, 361732726, 336813204, 311690799, 286380643, 260897982, 235258165, 209476638, 183568930, 157550647, 131437462]
    ++ [105245103, 78989349, 52686014, 26350943, 0]

/-- The cosine of k/256 turns. -/
def cosTurn (k : Nat) : Int :=
  let k := k % 256
  if k ≤ 64 then quarterWave.getD k 0
  else if k ≤ 128 then -quarterWave.getD (128 - k) 0
  else if k ≤ 192 then -quarterWave.getD (k - 128) 0
  else quarterWave.getD (256 - k) 0

/-- The arc tangent of 2⁻ⁱ for i = 0 to 30, in units of 2⁻³² turns. -/
def arcTangents : List Int :=
  [536870912, 316933406, 167458907, 85004756, 42667331, 21354465, 10679838, 5340245, 2670163, 1335087, 667544, 333772]
    ++ [166886, 83443, 41722, 20861, 10430, 5215, 2608, 1304, 652, 326, 163, 81]
    ++ [41, 20, 10, 5, 3, 1, 1]

/-- Turn a vector toward the x axis, step by step: the angle turned through, in 2⁻³² turns. -/
def turnDown : List Int → Nat → Int → Int → Int → Int
  | [], _, _, _, z => z
  | a :: as, k, x, y, z =>
    if y < 0 then turnDown as (2 * k) (x - y / k) (y + x / k) (z - a) else turnDown as (2 * k) (x + y / k) (y - x / k) (z + a)

/-- The direction of a vector, in 2⁻³² turns. -/
def direction (x y : Int) : Int :=
  let s : Int := 2 ^ 32
  if x < 0 then turnDown arcTangents 1 (-x * s) (-y * s) (2 ^ 31) else turnDown arcTangents 1 (x * s) (y * s) 0

/-- The circular mean of angles in 1/256 turns, in 2⁻³² turns. Where they cancel, the mean has no direction: a free value. -/
def circularMean (as : List Nat) : Int :=
  let x := (as.map cosTurn).sum
  let y := (as.map fun a => cosTurn (a + 192)).sum
  if x = 0 ∧ y = 0 then Config.circularMean as else direction x y

/-- 2 to the power of -(1/2), -(1/4), …, in units of 2⁻⁶⁴. -/
def halvingRoots : List Nat :=
  [13043817825332782212, 15511800964685064948, 16915738899553466671, 17664662643191237676, 18051468387014017850, 18248035989933441397]
    ++ [18347121020861646924, 18396865112328554661, 18421787711448657618, 18434261669329232140, 18440501815349552982, 18443622680442407998]
    ++ [18445183311048607332, 18445963675871538004, 18446353870663572145, 18446548971154807802, 18446646522174239825, 18446695297877410579]
    ++ [18446719685777359791, 18446731879739425374, 18446737976723480912, 18446741025216264368, 18446742549462845018, 18446743311586182574]
    ++ [18446743692647863159, 18446743883178706404, 18446743978444128764, 18446744026076840128, 18446744049893195857, 18446744061801373733]
    ++ [18446744067755462673, 18446744070732507144, 18446744072221029380, 18446744072965290498, 18446744073337421057, 18446744073523486337]
    ++ [18446744073616518976, 18446744073663035296, 18446744073686293456, 18446744073697922536, 18446744073703737076, 18446744073706644346]
    ++ [18446744073708097981, 18446744073708824799, 18446744073709188207, 18446744073709369912, 18446744073709460764, 18446744073709506190]

/-- 2 to the power of -f, where the bits of `f` after the point are given from the highest on. -/
def powerOfFraction : List Nat → Nat → Nat → Nat
  | [], _, p => p
  | r :: rs, f, p => powerOfFraction rs (2 * f % 2 ^ 48) (if 2 ^ 47 ≤ f then p * r / 2 ^ 64 else p)

/-- 2 to the power of -(num / den), in units of 2⁻⁶⁴. -/
def weight (num den : Nat) : Nat :=
  powerOfFraction halvingRoots (num % den * 2 ^ 48 / den) (2 ^ 64) / 2 ^ min (num / den) 128

end Sys2Proof.Machine
end

