-- ==== Sys2Proof/Machine/Survey.lean ====
section
/-!
DEFINITION. The Crossing survey and the survey engine: running a survey, its shadow and commit, surveys across devices, the
neighbour-table commands, attribution, and the slot boundary (R18, R57, R206 to R216, R220, R228, R229, R499). The words of
the survey messages are the model's (assumption 14).
-/

namespace Sys2Proof.Machine

/-- Change the survey's progress. -/
def Dev.modSurvey (d : Dev) (f : SurveySt → SurveySt) : Dev := { d with ts := { d.ts with survey := f d.ts.survey } }

/-- Is a survey engine placed (R20)? -/
def Dev.engine (d : Dev) : Bool :=
  match d.boot.manifest with
  | some m => d.applied && m.deck.any (·.func == 4)
  | none => false

/-- Berths of the reader channels, ascending (R212). -/
def Dev.readerBerths (d : Dev) : List Nat :=
  (upTo 24).flatMap fun c => if d.reader c then (upTo (d.coils c)).map (berthOf c) else []

/-- Berths of every channel. -/
def Dev.allBerths (d : Dev) : List Nat := (upTo 24).flatMap fun c => (upTo (d.coils c)).map (berthOf c)

/-- C_L for a source channel (R212); 24 for a source on another device. -/
def Dev.blockLen (d : Dev) (src : Nat) : Nat :=
  ((upTo 24).map fun c => if c = src then 0 else d.coils c).foldl max 0

/-- A survey ends with a code (R211): IDLE, GO and ABORT read 0 again. -/
def endSurvey (code : Nat) (d : Dev) : Dev :=
  let d := ((((d.wr TS_STATUS_SURVEY 0).lower TS_SURVEY_GO).lower TS_SURVEY_ABORT).wr TS_SURVEY_STATUS_CODE code).modSurvey
    fun s => { SurveySt.reset with peer := s.peer }
  followListeners d

/-- A running survey is aborted (R211): its own grant ends, the tables are unchanged (R214). A proposal that waits is no running
survey. -/
def abortSurvey (d : Dev) : Dev :=
  if !d.surveying then d
  else
    let own := d.ts.grants.filter (·.owner == .survey)
    endSurvey cABORTED (d.each own endGrant)

/-- Send a survey message (R215): 1 proposal, 2 answer, 3 the own carrier of a source, 4 the values, 5 a block whose quiet check failed
(assumption 14). -/
def surveySend (dst typ : Nat) (ws : List Word) (d : Dev) : Dev :=
  { d with ts := { d.ts with outbox := d.ts.outbox ++ [(dst, typ, ws)] } }

/-- A write of TS_SURVEY with GO = 1 (R211, R215). -/
def surveyGo (p : Path) (w : Word) (d : Dev) : Dev :=
  let v := w.toNat
  let code := bits v 9 0
  let avg := bits v 13 10
  let cross := bit v 29
  let range := code = 0 || avg = 0
  let locked := d.on TS_SURVEY_GO || d.surveying || d.rd PW_STATE_CUR ≠ 1
  if locked || range then d.accessError 0x38000 p true 0x3801C ⟨range, locked, false⟩
  else
    let d := ((((d.raise TS_SURVEY_GO).flag TS_SURVEY_CROSS cross).wr TS_SURVEY_PEER (bits v 27 16)).wr TS_SURVEY_AVG
      avg).wr TS_SURVEY_CODE code
    let d := (d.lower TS_SURVEY_STATUS_FOREIGN).lower TS_SURVEY_STATUS_MISSING
    let srcs := d.readerBerths
    let s : SurveySt := { SurveySt.reset with cross := cross, peer := bits v 27 16, code := code, avg := avg, sources := srcs }
    if !d.engine then endSurvey cREFUSED d
    else if srcs.any fun b => (d.decl (b / 64)).maxPower < powerOf code then endSurvey cRANGE d
    else if !cross then (d.modSurvey fun _ => s).wr TS_STATUS_SURVEY 1
    else if !d.on TS_STATUS_NB_VALID then endSurvey 0x10 d
    else if d.on TC_STATUS_HOLDOVER then endSurvey 0x13 d
    else if !d.on TS_CFG_XEN then endSurvey cREFUSED d
    else
      let m := d.ms + 201
      surveySend (bits v 27 16) 1 ([packW [(10, 4, avg), (0, 10, code)], nw m, nw (m / 2 ^ 32)]
        ++ srcs.map nw) (d.modSurvey fun _ => { s with startMs := m, waiting := true })

/-- A write of TS_SURVEY with ABORT = 1 and GO = 0 (R211, R234): while a survey runs it is aborted and nothing else is
written; otherwise ABORT has no effect and the other fields are written, but not while GO still reads 1 for a proposal. -/
def surveyAbort (p : Path) (w : Word) (d : Dev) : Dev :=
  let v := w.toNat
  if d.surveying then abortSurvey d
  else if d.ts.survey.waiting then d
  else if bits v 9 0 = 0 || bits v 13 10 = 0 then d.errRange p 0x3801C
  else (((d.flag TS_SURVEY_CROSS (bit v 29)).wr TS_SURVEY_PEER (bits v 27 16)).wr TS_SURVEY_AVG (bits v 13 10)).wr
    TS_SURVEY_CODE (bits v 9 0)

/-- The peer answers the proposal (R215): 0 to accept, else the completion code. -/
def surveyAnswer (code : Nat) (d : Dev) : Dev :=
  if !d.ts.survey.waiting then d
  else if code ≠ 0 then endSurvey code d
  else (d.modSurvey fun s => { s with waiting := false }).wr TS_STATUS_SURVEY 1

/-- A proposal from a peer (R215): accepted into DRAIN, or refused with a code. -/
def surveyProposal (peer startMs code avg : Nat) (srcs : List Nat) (d : Dev) : Dev :=
  let refusal : Nat :=
    if !d.on TS_STATUS_NB_VALID then 0x10
    else if d.surveying || d.on TS_SURVEY_GO || !d.on TS_CFG_XEN then 0x12
    else if d.on TC_STATUS_HOLDOVER then 0x13
    else if !d.engine then cREFUSED else 0
  if !d.coreRuns then d
  else
    let d := surveySend peer 2 [nw refusal] d
    if refusal ≠ 0 then d
    else
      ((d.modSurvey fun _ =>
        { SurveySt.reset with cross := true, initiator := false, peer := peer, code := code, avg := avg, sources := srcs,
                              startMs := startMs }).wr TS_STATUS_SURVEY 1)

/-- Every running grant has ended (R211): MEASURE, or SYNC of a cross survey. -/
def surveyDrainDone (d : Dev) : Dev :=
  if d.rd TS_STATUS_SURVEY ≠ 1 || !d.ts.grants.isEmpty then d
  else d.wr TS_STATUS_SURVEY (if d.ts.survey.cross then 2 else 3)

/-- Begin the block of the first remaining source (R212). -/
def beginBlock (pos : Nat) (d : Dev) : Dev :=
  let s := d.ts.survey
  match s.sources with
  | [] => d.modSurvey fun s => { s with pos := 0 }
  | b :: _ =>
    let len := if s.initiator && !s.cross then d.blockLen (b / 64) else if s.initiator then s.len else d.blockLen 24
    (d.modSurvey fun s => { s with pos := pos, len := len, spoiled := false, refused := false, raw := [] }).wr
      TS_SURVEY_STATUS_BERTH (if s.initiator then b else 0)

/-- The agreed start slot of a cross survey is reached (R215): the initiator measures, the peer listens. `peerCoils` is the
peer's largest COILS, for the initiator's blocks. -/
def surveyStartSlot (peerCoils : Nat) (d : Dev) : Dev :=
  if d.rd TS_STATUS_SURVEY ≠ 2 then d
  else
    let d := d.reach (d.ts.survey.startMs * 1000000)
    let d := d.wr TS_STATUS_SURVEY (if d.ts.survey.initiator then 3 else 4)
    followListeners (beginBlock 1 (d.modSurvey fun s => { s with len := peerCoils }))

/-- The values of a block (R206): source, its own carrier's level and phase, and the carriers of its listeners. -/
def blockValues (src level phase : Nat) (raw : List (Nat × Nat × Nat)) : List Coupling :=
  raw.map fun x => { src := src, dst := x.1, mag := min (x.2.1 - level) 255, phase := (x.2.2 + 256 - phase) % 256 }

/-- The source of the present block is done (R213, R214, R215): its values go to the shadow, or it is repeated, or left. In a cross survey
the peer gets the own carrier, and whether the source has transmitted at all. -/
def closeBlock (d : Dev) : Dev :=
  let s := d.ts.survey
  match s.sources with
  | [] => d
  | b :: rest =>
    let again := s.spoiled && !s.repeating && !s.cross && !s.refused
    let failed := s.refused || (s.spoiled && !again)
    let d := d.raiseIf failed TS_SURVEY_STATUS_MISSING
    let vals := if s.cross || s.spoiled || s.refused then [] else blockValues b s.ownLevel s.ownPhase s.raw
    let d := if s.cross then surveySend s.peer 3 [packW [(31, 1, b2n s.refused), (8, 8, s.ownPhase), (0, 8, s.ownLevel)]] d else d
    d.modSurvey fun s =>
      { s with sources := rest, again := if again then s.again ++ [b] else s.again,
               missing := if failed then s.missing ++ [b] else s.missing,
               done := if failed || again then s.done else s.done ++ [b],
               values := s.values ++ vals, ownLevel := 0, ownPhase := 0 }

/-- The peer's present block has run (R215): its source's own carrier is still to come. -/
def peerBlockDone (d : Dev) : Dev :=
  d.modSurvey fun s => { s with closed := s.closed ++ [(s.sources.headD 0, s.spoiled, s.raw)], sources := s.sources.drop 1, raw := [] }

/-- The sources to be repeated are taken up (R213). -/
def startRepeats (d : Dev) : Dev :=
  beginBlock 1 (d.modSurvey fun s => { s with sources := s.again, again := [], repeating := true })

/-- The blocks of a survey move on at a slot boundary (R212, R213): the next slot, the next block, the repeats, COMMIT. The repeats of a
cross survey start one slot later, when both devices know of them. -/
def surveySlot (d : Dev) : Dev :=
  let s := d.ts.survey
  let st := d.rd TS_STATUS_SURVEY
  if st ≠ 3 && st ≠ 4 then d
  else if s.sources.isEmpty then
    if s.cross && s.closed.isEmpty && !s.again.isEmpty && !s.repeating then startRepeats d else d
  else if s.pos = 0 then beginBlock 1 d
  else if s.pos < s.len + 1 then d.modSurvey fun s => { s with pos := s.pos + 1 }
  else
    let d := if st = 4 then peerBlockDone d else closeBlock d
    let s := d.ts.survey
    if !s.sources.isEmpty then beginBlock 1 d
    else if !s.cross && !s.again.isEmpty then startRepeats d
    else
      let d := d.modSurvey fun s => { s with pos := 0 }
      if s.cross then d else d.wr TS_STATUS_SURVEY 5

/-- A listener's carrier measurement of the present slot completes (R206, R212, R213): level and phase, and the noise floor,
levels in -0.5 dB units. In the quiet slot it is the check for foreign fields. -/
def surveyMeasurement (n level phase floor : Nat) (d : Dev) : Dev :=
  let s := d.ts.survey
  if !d.listening n || s.pos = 0 then d
  else if s.pos = 1 then
    if level + 12 ≤ floor then (d.modSurvey fun s => { s with spoiled := true }).raise TS_SURVEY_STATUS_FOREIGN else d
  else if d.selected n ≠ s.pos - 2 || !d.on (CH_SEL_STATUS_ON n) || floor < level + 12 then d
  else d.modSurvey fun s => { s with raw := s.raw.filter (·.1 ≠ berthOf n (s.pos - 2)) ++ [(berthOf n (s.pos - 2), level, phase)] }

/-- The peer receives the own-carrier level and phase of the source whose block has ended (R215), or hears that it never transmitted: it
computes its values. A block whose quiet check failed is to be repeated once (R213), of which it tells the initiator. After the last source it
returns the values. -/
def surveyBlockResult (level phase : Nat) (refused : Bool) (d : Dev) : Dev :=
  let s := d.ts.survey
  if d.rd TS_STATUS_SURVEY ≠ 4 || s.initiator then d
  else
    match s.closed with
    | [] => d
    | (b, spoiled, raw) :: rest =>
      let bad := spoiled && !refused
      let d := if bad then surveySend s.peer 5 [nw b] d else d
      let d := d.raiseIf (refused || (bad && s.repeating)) TS_SURVEY_STATUS_MISSING
      let d := d.modSurvey fun s => { s with closed := rest, again := if bad && !s.repeating then s.again ++ [b] else s.again,
                                             values := s.values ++ if spoiled || refused then [] else blockValues b level phase raw }
      let s := d.ts.survey
      if s.sources.isEmpty && s.closed.isEmpty && (s.again.isEmpty || s.repeating) then
        surveySend s.peer 4 (s.values.flatMap fun v => [packW [(16, 11, v.src), (0, 11, v.dst)], packW [(8, 8, v.mag), (0, 8, v.phase)]])
          (d.wr TS_STATUS_SURVEY 5)
      else d

/-- The initiator hears that the quiet check of a source's block has failed at the peer (R213): the block is repeated once, and its source
is left unsurveyed when the repeat fails too. -/
def surveyAgain (b : Nat) (d : Dev) : Dev :=
  let s := d.ts.survey
  if d.rd TS_STATUS_SURVEY ≠ 3 || !s.cross || !s.initiator || !s.done.contains b then d
  else
    ((d.raise TS_SURVEY_STATUS_FOREIGN).raiseIf s.repeating TS_SURVEY_STATUS_MISSING).modSurvey fun s =>
      { s with done := s.done.filter (· ≠ b), again := if s.repeating then s.again else s.again ++ [b],
               missing := if s.repeating then s.missing ++ [b] else s.missing }

/-- The initiator receives the peer's values (R215). -/
def surveyResults (vs : List Coupling) (d : Dev) : Dev :=
  let s := d.ts.survey
  if d.rd TS_STATUS_SURVEY ≠ 3 || !s.cross || !s.initiator || !s.sources.isEmpty || !s.again.isEmpty then d
  else (d.modSurvey fun s => { s with values := vs }).wr TS_STATUS_SURVEY 5

/-- Order of the entries of a table (R208): strongest first, local before cross-device, lower device, lower berth. -/
def entryBefore (a b : NbEntry) : Bool :=
  let k (e : NbEntry) : Nat := ((e.mag * 2 + b2n e.xdev) * 4096 + e.dev) * 2048 + e.berth
  k a ≤ k b

/-- A table with the strongest 16 of some entries (R208). -/
def fillTable (surveyed : Bool) (es : List NbEntry) (t : NbTable) : NbTable :=
  let es := (es.mergeSort entryBefore).take 16
  { t with surveyed := surveyed, count := es.length, entries := es ++ List.replicate (16 - es.length) NbEntry.zero }

/-- Replace every table that an internal survey measured (R208, R214). -/
def commitInternal (d : Dev) : Dev :=
  let s := d.ts.survey
  d.each d.allBerths fun b d =>
    if d.reader (b / 64) then
      if s.done.contains b then
        d.modTable b (fillTable true ((s.values.filter (·.src == b)).map fun v => ⟨false, 0, v.dst, v.mag, v.phase⟩))
      else if s.missing.contains b then d.modTable b fun t => { t with surveyed := false }
      else d
    else d.modTable b (fillTable true ((s.values.filter (·.dst == b)).map fun v => ⟨false, 0, v.src, v.mag, v.phase⟩))

/-- Store the values of a cross survey in place of earlier entries that name the peer (R215). The table of a source that was left
unsurveyed keeps its entries, with SURVEYED = 0 (R213). -/
def commitCross (d : Dev) : Dev :=
  let s := d.ts.survey
  d.each d.allBerths fun b d =>
    if s.initiator && s.missing.contains b then d.modTable b fun t => { t with surveyed := false } else
    let new := s.values.filterMap fun v =>
      if s.initiator then (if v.src = b then some ⟨true, s.peer, v.dst, v.mag, v.phase⟩ else none)
      else (if v.dst = b then some (⟨true, s.peer, v.src, v.mag, v.phase⟩ : NbEntry) else none)
    let keep := (d.entries b).filter fun e => !(e.xdev && e.dev == s.peer)
    let t := (d.table b).getD (NbTable.blank b)
    if new.isEmpty && keep.length = (d.entries b).length then d
    else d.modTable b (fillTable (t.surveyed || (s.initiator && s.done.contains b)) (keep ++ new))

/-- The last block and its repeats are done: every measured table is replaced at once (R210, R211, R214). -/
def surveyCommit (d : Dev) : Dev :=
  if d.rd TS_STATUS_SURVEY ≠ 5 then d
  else
    let d := if d.ts.survey.cross then commitCross d else commitInternal d
    endSurvey cDONE ((d.raise TS_STATUS_NB_VALID).raise TS_STATUS_NB_DIRTY)

/-- No answer to a proposal within 100 ms, or the peer lost for 100 ms (R211, R215). -/
def surveyPeerTimeout (d : Dev) : Dev :=
  if d.ts.survey.waiting then endSurvey 0x11 d
  else if d.surveying && d.ts.survey.cross then abortSurvey d
  else d

/-! The table commands (R210, R234). -/

/-- A write of TS_NB_SEL: the selection, COMMIT and CLEAR (R210, R234). -/
def nbSelWrite (p : Path) (w : Word) (d : Dev) : Dev :=
  let v := w.toNat
  let commit := bit v 31
  let clear := bit v 30
  let range := (commit && clear) || !d.berthExists (bits v 10 0)
  let locked := d.surveying && (commit || clear)
  if range || locked then d.accessError 0x38000 p true 0x38030 ⟨range, locked, false⟩
  else
    let d := d.wr TS_NB_SEL_BERTH (bits v 10 0)
    let d := if clear then { d.lower TS_STATUS_NB_VALID with ts := { d.ts with tables := [] } } else d
    if commit then d.raise TS_STATUS_NB_VALID else d

/-! Attribution (R228, R229). -/

/-- One term of a frame: the berth that heard it, its amplitude in -0.5 dB units, its phase, and whether it is a floor
term. -/
structure Term where
  berth : Nat
  amp : Nat
  phase : Nat
  below : Bool
deriving DecidableEq, Repr

/-- (A, P) of candidate `x` at term berth `t`: a level in quarter dB, and the phase where it has one (R228). -/
def Dev.signature (d : Dev) (x t : Nat) : Int × Option Nat :=
  if t = x then (0, some 0)
  else
    match (d.entries x).find? fun e => !e.xdev && e.berth == t with
    | some e => (-2 * (e.mag : Int), some e.phase)
    | none => (-240, none)

/-- The candidates X of R228: s, the local berths of its table, the berths of its channel that name a listener. -/
def Dev.candidates (d : Dev) (s : Nat) (listeners : List Nat) : List Nat :=
  let near := ((d.entries s).filter fun e => !e.xdev).map (·.berth)
  let same := ((upTo (d.coils (s / 64))).map (berthOf (s / 64))).filter fun b =>
    b != s && !near.contains b && (d.entries b).any fun e => !e.xdev && listeners.contains e.berth
  (s :: (near ++ same)).take 32

/-- The angle `v`, in 2⁻³² turns, brought into half a turn either way. -/
def wrapTurn (v : Int) : Int := (v + 2 ^ 31) % 2 ^ 32 - 2 ^ 31

/-- E / SIGMA² of candidate `x` (R228) over the terms `u`, as a fraction; `none` with fewer than two terms above floor. PHW is in degrees,
SIGMA in quarter dB. -/
def Dev.misfit (d : Dev) (x : Nat) (u : List Term) : Option (Nat × Nat) :=
  let above := u.filter (!·.below)
  if above.length < 2 then none
  else
    let m : Int := above.length
    let phw : Int := d.rd TS_ATTR_PHW
    let sig : Int := d.rd TS_ATTR_SIGMA
    let res (t : Term) : Int := -2 * (t.amp : Int) - (d.signature x t.berth).1
    let sum := (above.map res).foldl (· + ·) 0
    let theta := circularMean (above.filterMap fun t =>
      (d.signature x t.berth).2.map fun p => (t.phase + 256 - p) % 256)
    let dp : Int := 2 ^ 32 * phw
    let e := (u.map fun t =>
      if t.below then
        let r := max 0 (-(m * res t) + sum)
        r * r * dp * dp
      else
        let r := m * res t - sum
        let q : Int := match (d.signature x t.berth).2 with
          | some p => 1440 * wrapTurn (((t.phase : Int) - p) * 2 ^ 24 - theta) * m
          | none => 0
        r * r * dp * dp + q * q).foldl (· + ·) 0
    some (e.toNat, ((u.length : Int) * m * m * dp * dp * sig * sig).toNat)

/-- The smallest of the fractions. -/
def leastOf : List (Nat × Nat) → Nat × Nat
  | [] => (0, 1)
  | [a] => a
  | a :: as =>
    let b := leastOf as
    if a.1 * b.2 ≤ b.1 * a.2 then a else b

/-- The weights w of the candidates (R228), each over that of the best, which leaves every CONF as it is. -/
def weights (es : List (Nat × Option (Nat × Nat))) : List (Nat × Nat) :=
  let m := leastOf (es.filterMap (·.2))
  es.map fun e => (e.1, match e.2 with
    | some f => weight (f.1 * m.2 - m.1 * f.2) (f.2 * m.2)
    | none => 0)

/-- Order of candidates by confidence: higher first, then the lower berth (R229). -/
def confBefore (a b : Nat × Nat) : Bool := b.2 < a.2 || (a.2 == b.2 && a.1 ≤ b.1)

/-- BERTH1, CONF1, BERTH2, CONF2 of a frame on channel `n` with sideband amplitude and phase (R228, R229). -/
def Dev.attribute (d : Dev) (n amp phase : Nat) : Nat × Nat × Nat × Nat :=
  let s := berthOf n (d.selected n)
  let heard := (d.chan n).terms.map fun x => (⟨berthOf x.1 x.2.1, x.2.2.1, x.2.2.2.1, x.2.2.2.2⟩ : Term)
  let terms := heard ++ [⟨s, amp, phase, false⟩]
  let ws := weights <| (d.candidates s (heard.map (·.berth))).map fun x =>
    (x, d.misfit x (if x ≠ s && x / 64 = n then terms.filter (·.berth ≠ s) else terms))
  let total := (ws.map (·.2)).sum
  if total = 0 || !d.on TS_STATUS_NB_VALID then (s, 0, 0x7FF, 0)
  else
    match (ws.map fun x => (x.1, (510 * x.2 + total) / (2 * total))).mergeSort confBefore with
    | a :: b :: _ => if d.rd TS_ATTR_SPLIT ≤ b.2 then (a.1, a.2, b.1, b.2) else (a.1, a.2, 0x7FF, 0)
    | [a] => (a.1, a.2, 0x7FF, 0)
    | [] => (s, 0, 0x7FF, 0)

/-- Give a found tag its attribution where `stamp` is the timestamp of its identifying reply and it has none yet. -/
def FoundTag.attributed (stamp : List Word) (a : Nat × Nat × Nat × Nat) (t : FoundTag) : FoundTag :=
  if t.attr.isNone && t.record.drop 5 == stamp then { t with attr := some a } else t

/-- The survey engine delivers the attribution of the last frame of channel `n`, a FRAME with no flagged bit (R228, R229). It is that of the
found tag whose identifying reply the frame was, at whatever stage of its disposal (R197); a tag that waits for it is reported, and a round
that waits for it ends. -/
def attribution (n : Nat) (d : Dev) : Dev :=
  if !d.engine || !(d.chan n).clean then d
  else
    let a := d.attribute n (d.rd (CH_RX_LEVEL_SB_AMP n)) (d.rd (CH_RX_LEVEL_PHASE n))
    let stamp := (d.chan n).rx.cur.stamp
    let d := d.modChan n fun c => { c with attr := some a, terms := [], clean := false }
    match (d.chan n).job with
    | some (.inv i) =>
      let i := { i with tagNow := i.tagNow.map (·.attributed stamp a), toQuiet := i.toQuiet.map (·.attributed stamp a) }
      let d := flushTag n (d.setJob n (.inv i))
      match (d.chan n).job with
      | some (.inv i) => if i.step = .closing then endRound n i d else d
      | _ => d
    | _ => d

/-! The slot boundary. -/

/-- A request has waited one more slot (R220). -/
def GrantReq.age (r : GrantReq) : GrantReq := { r with waited := r.waited + 1 }

/-- The Tideclock reaches the next slot start (R18, R57, R108, R216, R220, R221, R499). -/
def slotBoundary (d : Dev) : Dev :=
  let d := d.reach (d.nextBoundary * 1000000)
  if d.power.step ≠ .up then d
  else
    let d := rfBudget d
    if !d.coreRuns then d
    else
      let d := endGrants d
      let d := { d with ts := { d.ts with reqs := d.ts.reqs.map GrantReq.age } }
      raiseFields (followListeners (surveySlot (d.wr TS_STATUS_SLOT (d.slotIndex d.ms))))

/-! The meanings of the rows of this family. -/

/-- SLOT_BOUNDARY (R18): The Tideclock reaches a tide slot start: the slot's grants and listen assignments begin and end. -/
def execSlotBoundary (s : State) : Host.Outcome State Fault Refusal :=
  s.act (Machine.slotBoundary)

/-- SURVEY_GO (R211): A write of TS_SURVEY.GO = 1 starts an internal or cross survey, or is refused with LOCKED. -/
def execSurveyGo (p : Path) (w : Word) (s : State) : Host.Outcome State Fault Refusal :=
  s.act (onPort 0x38000 p (surveyGo p w))

/-- SURVEY_ABORT (R211): A write of ABORT = 1 ends a running survey ABORTED, with the tables unchanged. -/
def execSurveyAbort (p : Path) (w : Word) (s : State) : Host.Outcome State Fault Refusal :=
  s.act (onPort 0x38000 p (Machine.surveyAbort p w))

/-- SURVEY_DRAIN_DONE (R211): Every running grant has ended, and the survey moves to MEASURE or SYNC. -/
def execSurveyDrainDone (s : State) : Host.Outcome State Fault Refusal :=
  s.act (surveyDrainDone)

/-- SURVEY_START_SLOT (R215): The agreed start slot of a cross survey is reached; the initiator measures and the peer listens. -/
def execSurveyStartSlot (peerCoils : Fin 65) (s : State) : Host.Outcome State Fault Refusal :=
  s.act (surveyStartSlot peerCoils.val)

/-- SURVEY_MEASUREMENT (R212): A listener's quiet-slot or coupling carrier measurement of a survey block completes. -/
def execSurveyMeasurement (n : Fin 24) (level phase floor : Byte) (s : State) : Host.Outcome State Fault Refusal :=
  s.act (surveyMeasurement n.val level.toNat phase.toNat floor.toNat)

/-- SURVEY_COMMIT (R214): The last block and its repeats are done, and every measured table is replaced at once. -/
def execSurveyCommit (s : State) : Host.Outcome State Fault Refusal :=
  s.act (surveyCommit)

/-- SURVEY_PROPOSAL (R215): A cross-survey proposal from a peer is received and accepted or refused. -/
def execSurveyProposal (peer : BitVec 12) (startMs : Nat) (code : Fin 1024) (avg : Fin 16) (sources : List Nat) (s : State) : Host.Outcome State Fault Refusal :=
  s.act (surveyProposal peer.toNat startMs code.val avg.val sources)

/-- SURVEY_BLOCK_RESULT (R215): The peer receives the source's own-carrier level and phase and computes the coupling values. -/
def execSurveyBlockResult (level phase : Byte) (refused : Bool) (s : State) : Host.Outcome State Fault Refusal :=
  s.act (surveyBlockResult level.toNat phase.toNat refused)

/-- SURVEY_RESULTS (R215): The initiator receives the peer's coupling values and stores them as cross-device entries. -/
def execSurveyResults (values : List SurveyValue) (s : State) : Host.Outcome State Fault Refusal :=
  s.act (surveyResults (values.map fun v => ⟨v.src, v.dst, v.mag, v.phase⟩))

/-- SURVEY_PEER_TIMEOUT (R211): No answer to a proposal within 100 ms, or the peer is lost for 100 ms, and the survey ends. -/
def execSurveyPeerTimeout (s : State) : Host.Outcome State Fault Refusal :=
  s.act (surveyPeerTimeout)

/-- NB_COMMIT (R210): A write of TS_NB_SEL.COMMIT sets NB_VALID. -/
def execNbCommit (p : Path) (w : Word) (s : State) : Host.Outcome State Fault Refusal :=
  s.act (onPort 0x38000 p (nbSelWrite p (w ||| 0x80000000#32)))

/-- NB_CLEAR (R210): A write of TS_NB_SEL.CLEAR empties every table and clears NB_VALID. -/
def execNbClear (p : Path) (w : Word) (s : State) : Host.Outcome State Fault Refusal :=
  s.act (onPort 0x38000 p (nbSelWrite p (w ||| 0x40000000#32)))

/-- ATTRIBUTION (R228): The survey engine attributes a frame from the listeners' measurements and delivers BERTH1/BERTH2 with confidences. -/
def execAttribution (n : Fin 24) (s : State) : Host.Outcome State Fault Refusal :=
  s.act (attribution n.val)

end Sys2Proof.Machine
end

