-- ==== Sys2Proof/Machine/Wake.lean ====
section
/-!
DEFINITION. The PMIC enables and the wake sources (R51, R52, R63 to R65), and the sniffs of card detection (R231 to R233).
-/

namespace Sys2Proof.Machine

/-- The enable that switches a rail (R51). -/
def railPen : Rail → Nat
  | .vcore => 0 | .vana => 1 | .vddr => 2 | .vio => 3

/-- The PW_RAIL flag of a rail. -/
def railOk : Rail → Fld
  | .vcore => PW_RAIL_VCORE_OK | .vana => PW_RAIL_VANA_OK | .vddr => PW_RAIL_VDDR_OK | .vio => PW_RAIL_VIO_OK

/-- The VRF groups that an enable switches (R51). -/
def penGroups (k : Nat) : List Nat := if k = 4 then [0, 1, 2] else if k = 5 then [3, 4, 5] else []

/-- Is a VRF group in regulation: inside the range of R51? -/
def Dev.groupUp (d : Dev) (g : Nat) : Bool :=
  let mv := d.power.vrf.getD g 0
  decide (4750 ≤ mv ∧ mv ≤ 12600)

/-- Assert an enable: its VRF groups are to come into regulation (R53). With VRF_G0 at 4.75 V the VIN monitor is armed (R70). -/
def Dev.penUp (d : Dev) (k : Nat) : Dev :=
  let due := (penGroups k).filter fun g => !d.groupUp g
  let d := d.setBit PW_RAIL_PEN k
  let d := { d with power := { d.power with vrfWait := d.power.vrfWait.filter (fun g => !(penGroups k).contains g) ++ due } }
  if k = 4 && 4750 ≤ d.power.vrf.getD 0 0 then { d with power := { d.power with vinArmed := true } } else d

/-- Drop an enable: its rail is no longer in regulation, nothing waits for its groups, and the VIN monitor of PEN4 is no longer armed
(R70). -/
def Dev.penDown (d : Dev) (k : Nat) : Dev :=
  let d := d.clearBit PW_RAIL_PEN k
  let d := { d with power := { d.power with vrfWait := d.power.vrfWait.filter fun g => !(penGroups k).contains g } }
  if k = 0 then d.lower PW_RAIL_VCORE_OK
  else if k = 1 then d.lower PW_RAIL_VANA_OK
  else if k = 2 then d.lower PW_RAIL_VDDR_OK
  else if k = 3 then d.lower PW_RAIL_VIO_OK
  else if k = 4 then { d with power := { d.power with vinArmed := false, pfailVin := false } }
  else d

/-- Change Capstan's progress. -/
def Dev.modPower (d : Dev) (f : PowerSt → PowerSt) : Dev := { d with power := f d.power }

/-- The place of a wake source in PW_WAKE_EN and PW_WAKE_SRC. -/
def wakeBit : WakeSource → Nat
  | .detect => 0 | .gw0cs => 1 | .tcap k => 2 + k.val | .tamper k => 6 + k.val | .gpio k => 8 + k.val | .alarm => 12

/-- Is a wake source enabled (PW_WAKE_EN)? The tamper sources always are. -/
def Dev.wakeEnabled (d : Dev) : WakeSource → Bool
  | .detect => d.on PW_WAKE_EN_DETECT
  | .gw0cs => d.on PW_WAKE_EN_GW0_CS
  | .tcap k => d.bitOn PW_WAKE_EN_TCAP k.val
  | .tamper _ => true
  | .gpio k => d.bitOn PW_WAKE_EN_GPIO k.val
  | .alarm => d.on PW_WAKE_EN_TC_ALARM

/-- Record wake sources, given as PW_WAKE_SRC bits. -/
def recordWake (m : Nat) (d : Dev) : Dev :=
  let d := d.raiseIf (Machine.bit m 0) PW_WAKE_SRC_DETECT
  let d := d.raiseIf (Machine.bit m 1) PW_WAKE_SRC_GW0_CS
  let d := d.wr PW_WAKE_SRC_TCAP (d.rd PW_WAKE_SRC_TCAP ||| bits m 5 2)
  let d := d.wr PW_WAKE_SRC_TAMPER (d.rd PW_WAKE_SRC_TAMPER ||| bits m 7 6)
  let d := d.wr PW_WAKE_SRC_GPIO (d.rd PW_WAKE_SRC_GPIO ||| bits m 11 8)
  d.raiseIf (Machine.bit m 12) PW_WAKE_SRC_TC_ALARM

/-- A wake from Watch begins (R63): PEN4 asserts, PEN5 follows, PEN2 where it was dropped; the PLLs start. Sniffing stops
(R232). -/
def wakeWatch (m : Nat) (d : Dev) : Dev :=
  let d := ((recordWake m d).raise PW_STATE_BUSY).modPower fun p => { p with waking := true, deferred := 0, drops := [] }
  let d := if d.bitOn PW_RAIL_PEN 2 then d else d.penUp 2
  let need4 := d.power.pen4Role && !d.bitOn PW_RAIL_PEN 4
  let need5 := d.power.pen5Role && !d.bitOn PW_RAIL_PEN 5
  let d := if need4 then d.penUp 4 else d
  let d := d.modPower fun p => { p with asserts := if need5 then [5] else [] }
  { d.lower PW_WK_STATUS_RUN with ts := { d.ts with burst := [], resniff := [] } }

/-- A wake from Dormant begins (R64): the rails power up from step 3 of R52. -/
def wakeDormant (m : Nat) (d : Dev) : Dev :=
  (((recordWake m d).raise PW_STATE_BUSY).penUp 1).modPower fun p => { p with step := .rail .vana, dormantWake := true, deferred := 0 }

/-- A wake source fires (R63 to R65): in Watch and Dormant it wakes the device, during an entry it waits for the end of the
entry, and otherwise it wakes nothing. -/
def fireWake (w : WakeSource) (d : Dev) : Dev :=
  if !d.wakeEnabled w then d
  else
    let m := 2 ^ wakeBit w
    if d.power.entry ≠ .none then
      if d.power.entry = .trim then d else d.modPower fun p => { p with deferred := p.deferred ||| m }
    else if d.rd PW_STATE_CUR = 3 && !d.power.waking then wakeWatch m d
    else if d.rd PW_STATE_CUR = 4 && !d.power.dormantWake && d.power.drops.isEmpty && w ≠ .gw0cs then wakeDormant m d
    else d

/-- Wake events that waited for the end of an entry sequence take effect (R65). -/
def takeDeferred (d : Dev) : Dev :=
  let m := d.power.deferred
  if m = 0 then d
  else if d.rd PW_STATE_CUR = 3 then wakeWatch m d
  else if d.rd PW_STATE_CUR = 4 then
    let m := Machine.clearBit m 1
    if m = 0 then d.modPower fun p => { p with deferred := 0 } else wakeDormant m d
  else d

/-- On a wake from Watch, PEN5 asserts 100 µs after PEN4 (R63). -/
def enableAssertStep (d : Dev) : Dev :=
  match d.power.asserts with
  | [] => d
  | k :: r => (d.penUp k).modPower fun p => { p with asserts := r }

/-! Sniffs of Watchkeeper (R231 to R233). -/

/-- The entries that are enabled, in index order. -/
def Dev.wkEnabled (d : Dev) : List Nat := (upTo 256).filter fun k => d.on (PW_WK_ENT_EN k)

/-- A sniff burst starts at network time PHASE modulo PERIOD, in Watch (R231). -/
def sniffBurst (d : Dev) : Dev :=
  if d.rd PW_STATE_CUR ≠ 3 || d.power.waking then d
  else
    let period := d.rd PW_WK_TIME_PERIOD * 10
    let phase := d.rd PW_WK_TIME_PHASE
    let m := d.ms + 1
    let k := if period = 0 then m else m + (phase + period - m % period) % period
    let d := d.reach (k * 1000000)
    { d.raise PW_WK_STATUS_RUN with
      ts := { d.ts with burst := d.wkEnabled.filter (fun e => !d.excluded (d.rd (PW_WK_ENT_BERTH e))), sniffAt := k * 1000000 } }

/-- The ns at which entry `e` is sniffed next (R231, R232): in a burst in its turn, 100 µs after the entry before, or again 1 ms after a
deviation. -/
def Dev.sniffDue (d : Dev) (e : Nat) : Option Nat :=
  if d.ts.burst.head? = some e then some d.ts.sniffAt else (d.ts.resniff.find? (·.1 = e)).map (·.2)

/-- The sniff code (R231): within CODE and within the channel's MAX_POWER. -/
def Dev.sniffCode (d : Dev) (ch : Nat) : Nat := min (d.rd PW_WK_CFG_CODE) (topCode (d.decl ch).maxPower)

/-- Carrier cycles in ns, rounded up. -/
def cycles (n : Nat) : Nat := (n * 25000 + 338) / 339

/-- The sniff's field (R9, R231): a select frame, timed from the crystal, where the coil changes; 30 µs later the field for two ramps, the
settling and the measurement; then the outputs clamp again. -/
def sniffField (b at_ : Nat) (d : Dev) : Dev :=
  let n := b / 64
  let d := d.reach at_
  let d := if d.on (CH_SEL_STATUS_ON n) && d.selected n = b % 64 then d
    else d.each (upTo 4) fun j d =>
      let k := n / 4 * 4 + j
      if k = n then sendSelect n 8 true (b % 64) d else sendSelect k 8 (d.on (CH_SEL_STATUS_ON k)) (d.selected k) d
  let d := d.reach (at_ + 30000)
  let d := { d with ts := { d.ts with sniffed := some (b, d.sniffCode n, d.ns) } }
  let d := d.reach (at_ + 30000 + cycles (64 + 16 * d.rd PW_WK_CFG_MEAS))
  d.modField n fun f => { f with offAt := some d.ns }

/-- The detector of an entry. -/
def Dev.detector (d : Dev) (e : Nat) : Detector :=
  (d.ts.detectors.find? (·.entry = e)).getD { entry := e, learned := 0, baseline := 0, streak := 0 }

/-- Replace the detector of an entry; the detectors stand in entry order. -/
def putDetector (t : Detector) (ts : List Detector) : List Detector :=
  ts.filter (fun x => x.entry < t.entry) ++ t :: ts.filter (fun x => t.entry < x.entry)

/-- A quotient that the spec gives no rounding for: `up` says which of the two nearest values is taken. -/
def divEither (a : Int) (b : Nat) (up : Nat) : Int := if a % b = 0 || up % 2 = 0 then a / b else a / b + 1

/-- An entry trips (R232). -/
def trip (e dev : Nat) (d : Dev) : Dev :=
  let first := !d.on PW_WK_STATUS_TRIP_SEEN
  let d := (d.raise (PW_WK_ENT_TRIPPED e)).raise PW_WK_STATUS_TRIP_SEEN
  let d := if first then
      ((d.wr PW_WK_TRIP_DEV (min dev 255)).wr PW_WK_TRIP_ENTRY e).wr PW_WK_TRIP_BERTH (d.rd (PW_WK_ENT_BERTH e))
    else d
  fireWake .detect d

/-- Replace an entry's detector in the state. -/
def putDetectorOf (t : Detector) (d : Dev) : Dev := { d with ts := { d.ts with detectors := putDetector t d.ts.detectors } }

/-- A sniff of entry `e` has measured `x` in 0.05 dB steps (R232): it teaches the baseline, moves it, or counts a deviation, after which the
berth is sniffed again 1 ms after `at_`; CONFIRM deviations in a row trip the entry. -/
def sniffed (e x at_ : Nat) (d : Dev) : Dev :=
  let r := d.free
  let d := r.2
  let t := d.detector e
  if t.learned < 4 then
    let sum := t.baseline + (x : Int)
    let d := putDetectorOf { t with learned := t.learned + 1,
                                    baseline := if t.learned = 3 then divEither sum 4 r.1 else sum, streak := 0 } d
    d.flag PW_WK_STATUS_LEARNING (d.wkEnabled.any fun k => (d.detector k).learned < 4)
  else
    let diff : Int := (x : Int) - t.baseline
    let dev := (max diff (-diff)).toNat
    let d := d.wr (PW_WK_ENT_LAST e) (min dev 255)
    if dev < d.rd (PW_WK_ENT_THR e) then
      putDetectorOf { t with baseline := t.baseline + divEither diff (2 ^ d.rd PW_WK_CFG_BASE_SHIFT) r.1, streak := 0 } d
    else
      let n := t.streak + 1
      let d := putDetectorOf { t with streak := n } d
      let d := { d with ts := { d.ts with resniff := d.ts.resniff ++ [(e, at_ + 1000000)] } }
      if d.rd PW_WK_CFG_CONFIRM ≤ n && !d.on PW_WK_STATUS_LEARNING && !d.on (PW_WK_ENT_TRIPPED e) then trip e dev d else d

/-- The sniff that is due leaves the schedule. -/
def takeSniff (e : Nat) (d : Dev) : Dev :=
  if d.ts.burst.head? = some e then { d with ts := { d.ts with burst := d.ts.burst.drop 1, sniffAt := d.ts.sniffAt + 100000 } }
  else { d with ts := { d.ts with resniff := d.ts.resniff.eraseP (·.1 = e) } }

/-- One sniff of entry `e` measures `x` (R231, R232), where its time has come. -/
def sniff (e x : Nat) (d : Dev) : Dev :=
  let b := d.rd (PW_WK_ENT_BERTH e)
  match d.sniffDue e with
  | none => d
  | some t =>
    if d.rd PW_STATE_CUR ≠ 3 || d.power.waking || !d.on (PW_WK_ENT_EN e) || d.excluded b then d
    else
      let d := sniffed e x t (sniffField b t (takeSniff e d))
      d.flag PW_WK_STATUS_RUN (!d.ts.burst.isEmpty || !d.ts.resniff.isEmpty)

/-- Card detection starts afresh at each entry to Watch (R232). -/
def startSniffs (d : Dev) : Dev :=
  let d := d.each (upTo 256) fun k d => d.lower (PW_WK_ENT_TRIPPED k)
  let n := d.wkEnabled.length
  ({ d with ts := { d.ts with detectors := [], burst := [], resniff := [] } }.flag PW_WK_STATUS_LEARNING (decide (0 < n)))

/-! The meanings of the rows of this family. -/

/-- WAKE_EVENT (R65): An enabled wake source fires, or a deferred wake takes effect once an entry sequence completes. -/
def execWakeEvent (source : WakeSource) (s : State) : Host.Outcome State Fault Refusal :=
  s.act (fireWake source)

/-- SNIFF_BURST (R231): At network time PHASE modulo PERIOD in Watch, Watchkeeper starts a burst of sniffs over the enabled entries. -/
def execSniffBurst (s : State) : Host.Outcome State Fault Refusal :=
  s.act (Machine.sniffBurst)

/-- SNIFF (R232): One sniff measures a berth's carrier, updates its baseline or repeats 1 ms later, and trips the entry after CONFIRM deviations. -/
def execSniff (e : Byte) (x : Fin 4096) (s : State) : Host.Outcome State Fault Refusal :=
  s.act (Machine.sniff e.toNat x.val)

/-- ENABLE_ASSERT_STEP (R63): On a wake from Watch, PEN5 asserts 100 µs after PEN4. -/
def execEnableAssertStep (s : State) : Host.Outcome State Fault Refusal :=
  s.act (Machine.enableAssertStep)

end Sys2Proof.Machine
end

