-- ==== Sys2Proof/Machine/Keys.lean ====
section
/-!
DEFINITION. Crypto's key commands, fuse keys, tamper response and entropy source (R235 to R246, R254, R256 to R260).
-/

namespace Sys2Proof.Machine

/-- Codes of R240. -/
abbrev kSLOT_USED : Nat := 0x10
abbrev kSLOT_EMPTY : Nat := 0x11
abbrev kATTR : Nat := 0x12
abbrev kUNWRAP : Nat := 0x13
abbrev kSIGNATURE : Nat := 0x14
abbrev kENTROPY : Nat := 0x15
abbrev kMODE : Nat := 0x16
abbrev kFUSE : Nat := 0x17
abbrev kTAMPER : Nat := 0x18

/-- Change Crypto's state. -/
def Dev.modCy (d : Dev) (f : CySt → CySt) : Dev := { d with cy := f d.cy }

/-- The 8 bytes of the unit ID (R450). -/
def Dev.unitBytes (d : Dev) : List Byte := leBytes 8 (d.rd GC_UNITID_ID)

/-- The root key (R237). -/
def Dev.rootKey (d : Dev) : List Byte := Config.sha256 (Config.fuseSecret ++ d.unitBytes ++ leBytes 8 d.epoch)

/-- Is a key header in range (R235)? -/
def headerOk (attr len : Nat) : Bool :=
  let usage := bits attr 2 0
  usage != 0 && !(bit attr 2 && (bit attr 0 || bit attr 1)) && bits attr 6 3 == 0 && len ≤ 2

/-- The 8 header bytes of a key (R235). -/
def headerBytes (slot : Nat) (k : KeySlot) : List Byte :=
  [BitVec.ofNat 8 slot, BitVec.ofNat 8 k.attr, BitVec.ofNat 8 k.len, BitVec.ofNat 8 k.version, 0, 0, 0, 0]

/-- Header and key, padded to 40 bytes (R235). -/
def keyRecord (slot : Nat) (k : KeySlot) : List Byte := headerBytes slot k ++ k.key ++ zeros (32 - k.key.length)

/-- The operands of a key command: CY_KCMD without its OP. -/
structure KeyArgs where
  slot : Nat
  kek : Nat
  len : Nat
  attr : Nat

/-- A key command completes with a code (R238). -/
def keyEnd (code : Nat) (d : Dev) : Dev :=
  ((d.lower CY_KSTATUS_BUSY).wr CY_KSTATUS_CODE code).modCy fun c => { c with doneAt := some d.time }

/-- A key command completes DONE with output words. -/
def keyOut (bs : List Byte) (d : Dev) : Dev := keyEnd cDONE (d.modCy fun c => { c with outp := bytesToWords bs })

/-- Fill a slot (R241). -/
def fillSlot (s : Nat) (k : KeySlot) (d : Dev) : Dev :=
  let same := d.keySlot s == some k
  keyEnd cDONE ((d.modCy fun c => { c with slots := vmod c.slots s fun _ => some k }).raiseIf (!same) CY_KSTATUS_DIRTY)

/-- The key that an unwrapped record of 40 bytes carries, where its header agrees with the command (R239). -/
def recordKey (slot : Nat) (a : KeyArgs) (bs : List Byte) : Option KeySlot :=
  let k : KeySlot := { attr := u8At bs 1, len := u8At bs 2, version := u8At bs 3,
                       key := (bs.drop 8).take (keyBytes (u8At bs 2)) }
  if u8At bs 0 = slot && k.attr = a.attr && k.len = a.len && headerOk k.attr k.len && (bs.drop 4).take 4 == zeros 4 then some k
  else none

/-- GENERATE (R239). -/
def keyGenerate (a : KeyArgs) (d : Dev) : Dev :=
  if !headerOk a.attr a.len then keyEnd cRANGE d
  else if !d.loopsClosed then keyEnd kTAMPER d
  else if (d.keySlot a.slot).isSome then keyEnd kSLOT_USED d
  else if !d.entropy then keyEnd kENTROPY d
  else
    let r := d.random (keyBytes a.len)
    fillSlot a.slot { attr := a.attr, len := a.len, version := 0, key := r.1 } r.2

/-- IMPORT_PLAIN (R239). -/
def keyImportPlain (a : KeyArgs) (inp : List Word) (d : Dev) : Dev :=
  let bs := wordsToBytes inp
  if inp.length < 10 || !headerOk a.attr a.len then keyEnd cRANGE d
  else if d.rd GC_BOOT_KEYMODE ≠ 2 then keyEnd kMODE d
  else if !headerOk (u8At bs 1) (u8At bs 2) || (bs.drop 4).take 4 != zeros 4 then keyEnd cRANGE d
  else if !d.loopsClosed then keyEnd kTAMPER d
  else if (d.keySlot a.slot).isSome then keyEnd kSLOT_USED d
  else
    match recordKey a.slot a bs with
    | some k => fillSlot a.slot k d
    | none => keyEnd kUNWRAP d

/-- The key of a KEK slot, or the code that refuses it (R239). -/
def Dev.kekOf (d : Dev) (s : Nat) : Except Nat (List Byte) :=
  match d.keySlot s with
  | none => .error kSLOT_EMPTY
  | some k => if bit k.attr 2 then .ok k.key else .error kATTR

/-- IMPORT_WRAPPED (R239). -/
def keyImportWrapped (a : KeyArgs) (inp : List Word) (d : Dev) : Dev :=
  if inp.length < 12 || !headerOk a.attr a.len then keyEnd cRANGE d
  else if !d.loopsClosed then keyEnd kTAMPER d
  else if (d.keySlot a.slot).isSome then keyEnd kSLOT_USED d
  else
    match d.kekOf a.kek with
    | .error c => keyEnd c d
    | .ok kek =>
      match keyUnwrap kek ((wordsToBytes inp).take 48) with
      | none => keyEnd kUNWRAP d
      | some bs =>
        match recordKey a.slot a bs with
        | some k => fillSlot a.slot k d
        | none => keyEnd kUNWRAP d

/-- EXPORT_WRAPPED (R239). -/
def keyExport (a : KeyArgs) (d : Dev) : Dev :=
  match d.keySlot a.slot, d.kekOf a.kek with
  | none, _ => keyEnd kSLOT_EMPTY d
  | some _, .error c => keyEnd c d
  | some k, .ok kek =>
    if !bit k.attr 7 then keyEnd kATTR d else keyOut (keyWrap kek (keyRecord a.slot k)) d

/-- ERASE (R239, R242). -/
def keyErase (a : KeyArgs) (d : Dev) : Dev :=
  match d.keySlot a.slot with
  | none => keyEnd cEMPTY d
  | some _ =>
    keyEnd cDONE (dropSlotSessions a.slot
      ((d.modCy fun c => { c with slots := vmod c.slots a.slot fun _ => none }).raise CY_KSTATUS_DIRTY))

/-- INFO (R239). -/
def keyInfo (a : KeyArgs) (d : Dev) : Dev :=
  match d.keySlot a.slot with
  | none => keyEnd kSLOT_EMPTY d
  | some k => keyOut (headerBytes a.slot k ++ (cmac k.key (zeros 16)).take 3) d

/-- The 64-byte blob of a slot (R243). -/
def Dev.blob (d : Dev) (s : Nat) (k : KeySlot) : List Byte :=
  headerBytes s k ++ keyWrap d.rootKey (keyRecord s k) ++ zeros 8

/-- SAVE_BLOB (R243). -/
def keySave (a : KeyArgs) (d : Dev) : Dev :=
  match d.keySlot a.slot with
  | none => keyEnd kSLOT_EMPTY d
  | some k => keyOut (d.blob a.slot k) d

/-- LOAD_BLOB (R239, R243). -/
def keyLoad (a : KeyArgs) (inp : List Word) (d : Dev) : Dev :=
  if inp.length < 16 || !headerOk a.attr a.len then keyEnd cRANGE d
  else if !d.loopsClosed then keyEnd kTAMPER d
  else
    let bs := wordsToBytes inp
    match keyUnwrap d.rootKey ((bs.drop 8).take 48) with
    | none => keyEnd kUNWRAP d
    | some r =>
      match recordKey a.slot a r with
      | some k => if r.take 8 == bs.take 8 then fillSlot a.slot k d else keyEnd kUNWRAP d
      | none => keyEnd kUNWRAP d

/-- ECDH_START (R244). -/
def keyEcdhStart (d : Dev) : Dev :=
  if !d.entropy then keyEnd kENTROPY d
  else
    let r := d.random 32
    keyOut (Config.p256Public r.1) (r.2.modCy fun c => { c with ecdh := some r.1 })

/-- Is any customer key hash burned (R82, R245)? -/
def Dev.secureFuses (d : Dev) : Bool := (upTo 4).any fun k => (vget d.fuses.hash k FuseKey.blank).valid

/-- The key check of R82 for a signer of a request or an envelope, which names no slot: the hash of its key equals some
burned slot that is not revoked, other than `except`; or no slot is burned. -/
def Dev.signerOk (d : Dev) (pub : List Byte) (except : Option Nat) : Bool :=
  !d.secureFuses || (upTo 4).any fun k =>
    let f := vget d.fuses.hash k FuseKey.blank
    some k != except && f.valid && !f.revoked && f.data == Config.sha256 pub

/-- Verify and open an ECDH envelope (R244): the unwrapped record, or a code. -/
def Dev.openEnvelope (d : Dev) (env : List Byte) : Except Nat (List Byte) :=
  match d.cy.ecdh with
  | none => .error cREFUSED
  | some priv =>
    let dev := Config.p256Public priv
    let srv := env.take 64
    let wrapped := (env.drop 64).take 48
    let pub := (env.drop 112).take 64
    let sig := (env.drop 176).take 64
    if !d.signerOk pub none || !Config.ecdsaVerify pub (Config.sha256 (dev ++ srv ++ wrapped ++ d.unitBytes)) sig then
      .error kSIGNATURE
    else
      match keyUnwrap (Config.sha256 (Config.p256Shared priv srv ++ dev.take 32 ++ srv.take 32)) wrapped with
      | none => .error kUNWRAP
      | some r => .ok r

/-- ECDH_IMPORT (R244): the private key goes with any code. -/
def keyEcdhImport (a : KeyArgs) (inp : List Word) (d : Dev) : Dev :=
  let clear (d : Dev) : Dev := d.modCy fun c => { c with ecdh := none }
  if inp.length < 60 || !headerOk a.attr a.len then keyEnd cRANGE (clear d)
  else if !d.loopsClosed then keyEnd kTAMPER (clear d)
  else
    match d.openEnvelope (wordsToBytes inp) with
    | .error c => keyEnd c (clear d)
    | .ok r =>
      if (d.keySlot a.slot).isSome then keyEnd kSLOT_USED (clear d)
      else
        match recordKey a.slot a r with
        | some k => fillSlot a.slot k (clear d)
        | none => keyEnd kUNWRAP (clear d)

/-- Start a fuse burn (R72, R245): refused while the power-fail source is asserted; a commit has the fuse programmer (R437). -/
def startBurn (b : FuseBurn) (d : Dev) : Dev :=
  if d.on PW_STATUS_PFAIL then keyEnd cREFUSED d
  else if d.cl.burn.isSome then keyEnd cBUSY d
  else (d.modCy fun c => { c with burn := some b }).raise CY_KSTATUS_BUSY

/-- The hash slot `k` of the fuses. -/
def Dev.hashFuse (d : Dev) (k : Nat) : FuseKey := vget d.fuses.hash k FuseKey.blank

/-- Does a fuse request's signer pass (R246)? `body` is everything before the signer key. -/
def Dev.requestSigned (d : Dev) (bs : List Byte) (n : Nat) (except : Option Nat) : Bool :=
  let pub := (bs.drop n).take 64
  d.signerOk pub except && Config.ecdsaVerify pub (Config.sha256 (bs.take n)) ((bs.drop (n + 64)).take 64)

/-- BURN_HASH (R246). -/
def keyBurnHash (inp : List Word) (d : Dev) : Dev :=
  let bs := wordsToBytes inp
  let isOpen := d.rd GC_BOOT_KEYMODE = 2
  let s := u8At bs 1
  if inp.length < (if isOpen then 11 else 43) || u8At bs 0 ≠ 0x0B || 4 ≤ s || le16At bs 2 ≠ 0 then keyEnd cRANGE d
  else if (bs.drop 4).take 8 ≠ d.unitBytes then keyEnd kSIGNATURE d
  else if (d.hashFuse s).valid || (d.hashFuse s).damaged then keyEnd kFUSE d
  else if !isOpen && !d.requestSigned bs 44 none then keyEnd kSIGNATURE d
  else startBurn { op := 0x0B, slot := s, data := (bs.drop 12).take 32 } d

/-- REVOKE_HASH (R246). -/
def keyRevokeHash (inp : List Word) (d : Dev) : Dev :=
  let bs := wordsToBytes inp
  let s := u8At bs 1
  if inp.length < 35 || u8At bs 0 ≠ 0x0C || 4 ≤ s || le16At bs 2 ≠ 0 then keyEnd cRANGE d
  else if (bs.drop 4).take 8 ≠ d.unitBytes then keyEnd kSIGNATURE d
  else if !(d.hashFuse s).valid || (d.hashFuse s).revoked then keyEnd kFUSE d
  else if !d.requestSigned bs 12 (some s) then keyEnd kSIGNATURE d
  else if !((upTo 4).any fun k => k != s && (d.hashFuse k).valid && !(d.hashFuse k).revoked) then keyEnd cREFUSED d
  else startBurn { op := 0x0C, slot := s, data := [] } d

/-- BURN_MKEY (R244, R246). -/
def keyBurnMkey (inp : List Word) (d : Dev) : Dev :=
  let clear (d : Dev) : Dev := d.modCy fun c => { c with ecdh := none }
  if inp.length < 60 then keyEnd cRANGE (clear d)
  else
    match d.openEnvelope (wordsToBytes inp) with
    | .error c => keyEnd c (clear d)
    | .ok r =>
      if d.fuses.mkey.valid || d.fuses.mkey.damaged then keyEnd kFUSE (clear d)
      else if u8At r 0 ≠ 0xFF || u8At r 1 ≠ 0 || u8At r 2 ≠ 2 then keyEnd kUNWRAP (clear d)
      else startBurn { op := 0x0D, slot := 0, data := (r.drop 8).take 32 } (clear d)

/-- Run a key command (R238): its input is taken, the output of the last one is gone. One that meets a tamper event ends ABORTED (R260). A
LEN out of range is one more code with which ECDH_IMPORT and BURN_MKEY drop the private key (R244). -/
def keyCommand (op : Nat) (a : KeyArgs) (d : Dev) : Dev :=
  let inp := d.cy.inp
  let d := d.modCy fun c => { c with inp := [], outp := [] }
  if d.cy.tamperAt = some d.time then keyEnd cABORTED d
  else if 2 < a.len then
    keyEnd cRANGE (d.when (op = 0x0A || op = 0x0D) fun d => d.modCy fun c => { c with ecdh := none })
  else
    match op with
    | 0x01 => keyGenerate a d
    | 0x02 => keyImportPlain a inp d
    | 0x03 => keyImportWrapped a inp d
    | 0x04 => keyExport a d
    | 0x05 => keyErase a d
    | 0x06 => keyInfo a d
    | 0x07 => keySave a d
    | 0x08 => keyLoad a inp d
    | 0x09 => keyEcdhStart d
    | 0x0A => keyEcdhImport a inp d
    | 0x0B => keyBurnHash inp d
    | 0x0C => keyRevokeHash inp d
    | 0x0D => keyBurnMkey inp d
    | _ => keyEnd cRANGE d

/-- A write of CY_KCMD (R238). -/
def kcmdWrite (p : Path) (op slot kek len attr : Nat) (d : Dev) : Dev :=
  if d.on CY_KSTATUS_BUSY then d.errLocked p 0x30010
  else keyCommand op { slot := slot, kek := kek, len := len, attr := attr } d

/-- A write of CY_KDATA (R238). -/
def kdataWrite (p : Path) (w : Word) (d : Dev) : Dev :=
  if 64 ≤ d.cy.inp.length then d.errRange p 0x30018 else d.modCy fun c => { c with inp := c.inp ++ [w] }

/-- A read of CY_KDATA (R238). -/
def kdataRead (p : Path) (d : Dev) : Dev :=
  (d.modCy fun c => { c with outp := c.outp.drop 1 }).give p [d.cy.outp.headD 0]

/-- A fuse burn completes (R245, R246): data, read-back, VALID last; or it fails. -/
def fuseBurnDone (ok : Bool) (d : Dev) : Dev :=
  match d.cy.burn with
  | none => d
  | some b =>
    let d := d.modCy fun c => { c with burn := none }
    if b.op = 0x0C then
      if ok then
        keyEnd cDONE { d with fuses := { d.fuses with hash := vmod d.fuses.hash b.slot fun f => { f with revoked := true } } }
      else keyEnd kFUSE d
    else
      let f : FuseKey := { data := b.data, valid := ok, revoked := false, damaged := !ok }
      let fuses := if b.op = 0x0D then { d.fuses with mkey := f }
                   else { d.fuses with hash := vmod d.fuses.hash b.slot fun _ => f }
      keyEnd (if ok then cDONE else kFUSE) { d with fuses := fuses }

/-- A fuse burn that a reset interrupts (R245): whether data bits are set by then is open. -/
def burnCut (d : Dev) : Dev :=
  match d.cy.burn with
  | none => d
  | some b =>
    let r := d.free
    let hit := r.1 % 2 = 1
    let f : FuseKey := { data := b.data, valid := false, revoked := false, damaged := hit }
    if b.op = 0x0C then
      { r.2 with fuses := { d.fuses with hash := vmod d.fuses.hash b.slot fun f => { f with revoked := hit } } }
    else if b.op = 0x0D then { r.2 with fuses := { d.fuses with mkey := f } }
    else { r.2 with fuses := { d.fuses with hash := vmod d.fuses.hash b.slot fun _ => f } }

/-! Tamper loops. -/

/-- The EVENT flag of a loop. -/
def tamperFlag (k : Nat) : Fld := if k = 0 then CY_TAMPER_EVENT0 else CY_TAMPER_EVENT1

/-- The tamper response of Crypto (R257): a new epoch, and no key, session, DRBG state or ECDH key. A key command that is under way, or
completes in the same Deck clock, ends ABORTED (R260). -/
def tamperResponse (k : Nat) (d : Dev) : Dev :=
  let met := decide (d.cy.doneAt = some d.time)
  let busy := d.on CY_KSTATUS_BUSY || met
  let d := burnCut d
  let d := { d with epoch := (d.epoch + 1) % 2 ^ 64 }
  let d := d.modCy fun c =>
    { c with slots := Vector.replicate 64 none, ecdh := none, burn := none, outp := if met then [] else c.outp }
  let d := d.each (upTo 24) fun n d => d.each (upTo 8) fun j => dropSession n j
  let d := d.lower CY_TRNG_READY
  let d := if busy then keyEnd cABORTED d else d
  audit { typ := some 3, berth := none, record := 0xFFFFFFFF, detail := none } (d.raise (tamperFlag k))

/-- A tamper event on loop `k` (R257): at once in Run and Trim, or at the first CORE clock once PLL_A locks again; in Watch it wakes the
device and is completed after the wake, in Dormant at the release of the reset that follows. -/
def tamperEvent (k : Fin 2) (d : Dev) : Dev :=
  if d.power.step = .off then d
  else if d.coreRuns then (tamperResponse k.val d).modCy fun c => { c with tamperAt := some d.time }
  else fireWake (.tamper k)
    (d.modCy fun c => if k.val = 0 then { c with due0 := true } else { c with due1 := true })

/-- Tamper events that waited for Crypto's clock (R257). -/
def tamperDue (d : Dev) : Dev :=
  let c := d.cy
  let d := d.modCy fun c => { c with due0 := false, due1 := false }
  let d := if c.due0 then tamperResponse 0 d else d
  if c.due1 then tamperResponse 1 d else d

/-- Every 1 024 crystal periods the guard outputs are inverted (R256). -/
def tguardToggle (d : Dev) : Dev :=
  if d.power.step = .off then d else d.modCy fun c => { c with guard0 := !c.guard0, guard1 := !c.guard1 }

/-- The sample of TAMPERn after an inversion (R256): the fourth mismatch in a row is a tamper event. -/
def tamperSample (k : Fin 2) (level : Bool) (d : Dev) : Dev :=
  if d.power.step = .off then d
  else
    let c := d.cy
    let ok := level == (if k.val = 0 then c.guard0 else c.guard1)
    let miss := if ok then 0 else (if k.val = 0 then c.miss0 else c.miss1) + 1
    let d := d.modCy fun c => if k.val = 0 then { c with miss0 := min miss 4 } else { c with miss1 := min miss 4 }
    let d := d.flag (if k.val = 0 then CY_TAMPER_LOOP0_OK else CY_TAMPER_LOOP1_OK) ok
    if miss = 4 then tamperEvent k d else d

/-! Entropy (R258, R259). -/

/-- A start-up test of 4 096 raw bits ends (R259). -/
def trngStartup (pass : Bool) (d : Dev) : Dev :=
  if !d.coreRuns || d.on CY_TRNG_HALT || !d.on CY_TRNG_STARTUP then d
  else
    let d := d.countSat CY_TRNG_STATS_RESTARTS 1
    if pass then
      ((((d.lower CY_TRNG_STARTUP).raise CY_TRNG_READY).wr CY_TRNG_FAILS 0).countSat CY_TRNG_STATS_RESEEDS 1).modCy
        fun c => { c with requests := 0 }
    else
      let d := (d.lower CY_TRNG_READY).wr CY_TRNG_FAILS (d.rd CY_TRNG_FAILS + 1)
      if 4 ≤ d.rd CY_TRNG_FAILS then (d.lower CY_TRNG_STARTUP).raise CY_TRNG_HALT else d

/-- A health test reaches its cutoff (R258, R259): it counts, also during a start-up test, and there is no output until one passes. -/
def trngFailure (adaptive : Bool) (d : Dev) : Dev :=
  if !d.coreRuns || d.on CY_TRNG_HALT then d
  else
    ((d.countSat (if adaptive then CY_TRNG_STATS_APT else CY_TRNG_STATS_RCT) 1).lower CY_TRNG_READY).raise CY_TRNG_STARTUP

/-- After 1 024 requests the DRBG reseeds (R258). -/
def drbgReseed (d : Dev) : Dev :=
  if !d.coreRuns || d.cy.requests < 1024 || !d.entropy then d
  else (d.countSat CY_TRNG_STATS_RESEEDS 1).modCy fun c => { c with requests := 0 }

/-! The meanings of the rows of this family. -/

/-- KDATA_WRITE (R238): A word written to CY_KDATA is appended to the key command input, or discarded beyond 64 words. -/
def execKdataWrite (p : Path) (w : Word) (s : State) : Host.Outcome State Fault Refusal :=
  s.act (onPort 0x30000 p (Machine.kdataWrite p w))

/-- KDATA_READ (R238): A read of CY_KDATA returns the next output word of the last key command, or 0. -/
def execKdataRead (p : Path) (s : State) : Host.Outcome State Fault Refusal :=
  s.act (onPort 0x30000 p (Machine.kdataRead p))

/-- GENERATE (R239): Key command 0x01 fills an empty slot with a key from the DRBG. -/
def execGenerate (p : Path) (slot : Fin 64) (len : Fin 4) (attr : Byte) (s : State) : Host.Outcome State Fault Refusal :=
  s.act (onPort 0x30000 p (kcmdWrite p 0x01 slot.val 0 len.val attr.toNat))

/-- IMPORT_PLAIN (R239): Key command 0x02 imports a plaintext key, in OPEN key mode only. -/
def execImportPlain (p : Path) (slot : Fin 64) (len : Fin 4) (attr : Byte) (s : State) : Host.Outcome State Fault Refusal :=
  s.act (onPort 0x30000 p (kcmdWrite p 0x02 slot.val 0 len.val attr.toNat))

/-- IMPORT_WRAPPED (R239): Key command 0x03 unwraps a key under a KEK slot into a slot. -/
def execImportWrapped (p : Path) (slot kek : Fin 64) (len : Fin 4) (attr : Byte) (s : State) : Host.Outcome State Fault Refusal :=
  s.act (onPort 0x30000 p (kcmdWrite p 0x03 slot.val kek.val len.val attr.toNat))

/-- EXPORT_WRAPPED (R239): Key command 0x04 outputs an exportable key wrapped under a KEK. -/
def execExportWrapped (p : Path) (slot kek : Fin 64) (s : State) : Host.Outcome State Fault Refusal :=
  s.act (onPort 0x30000 p (kcmdWrite p 0x04 slot.val kek.val 0 0))

/-- ERASE (R242): Key command 0x05 empties a slot and ends every session derived from it. -/
def execErase (p : Path) (slot : Fin 64) (s : State) : Host.Outcome State Fault Refusal :=
  s.act (onPort 0x30000 p (kcmdWrite p 0x05 slot.val 0 0 0))

/-- INFO (R239): Key command 0x06 returns a slot's header and key check value. -/
def execInfo (p : Path) (slot : Fin 64) (s : State) : Host.Outcome State Fault Refusal :=
  s.act (onPort 0x30000 p (kcmdWrite p 0x06 slot.val 0 0 0))

/-- SAVE_BLOB (R243): Key command 0x07 outputs a slot's blob wrapped under the root key. -/
def execSaveBlob (p : Path) (slot : Fin 64) (s : State) : Host.Outcome State Fault Refusal :=
  s.act (onPort 0x30000 p (kcmdWrite p 0x07 slot.val 0 0 0))

/-- LOAD_BLOB (R243): Key command 0x08 unwraps a blob under the root key into a slot. -/
def execLoadBlob (p : Path) (slot : Fin 64) (len : Fin 4) (attr : Byte) (s : State) : Host.Outcome State Fault Refusal :=
  s.act (onPort 0x30000 p (kcmdWrite p 0x08 slot.val 0 len.val attr.toNat))

/-- ECDH_START (R244): Key command 0x09 generates an ephemeral P-256 key pair and outputs its public key. -/
def execEcdhStart (p : Path) (s : State) : Host.Outcome State Fault Refusal :=
  s.act (onPort 0x30000 p (kcmdWrite p 0x09 0 0 0 0))

/-- ECDH_IMPORT (R244): Key command 0x0A verifies a signed envelope and imports the key it carries through ECDH. -/
def execEcdhImport (p : Path) (slot : Fin 64) (len : Fin 4) (attr : Byte) (s : State) : Host.Outcome State Fault Refusal :=
  s.act (onPort 0x30000 p (kcmdWrite p 0x0A slot.val 0 len.val attr.toNat))

/-- BURN_HASH (R246): Key command 0x0B burns a customer key hash into a fuse slot. -/
def execBurnHash (p : Path) (s : State) : Host.Outcome State Fault Refusal :=
  s.act (onPort 0x30000 p (kcmdWrite p 0x0B 0 0 0 0))

/-- REVOKE_HASH (R246): Key command 0x0C burns the REVOKE bit of a customer key hash slot. -/
def execRevokeHash (p : Path) (s : State) : Host.Outcome State Fault Refusal :=
  s.act (onPort 0x30000 p (kcmdWrite p 0x0C 0 0 0 0))

/-- BURN_MKEY (R246): Key command 0x0D burns the Manifest key delivered in a signed ECDH envelope. -/
def execBurnMkey (p : Path) (s : State) : Host.Outcome State Fault Refusal :=
  s.act (onPort 0x30000 p (kcmdWrite p 0x0D 0 0 0 0))

/-- TGUARD_TOGGLE (R256): Every 1 024 crystal periods Capstan inverts each TGUARDn. -/
def execTguardToggle (s : State) : Host.Outcome State Fault Refusal :=
  s.act (Machine.tguardToggle)

/-- TRNG_STARTUP_DONE (R259): A 4 096-bit start-up test of the entropy source passes or fails; after 4 failures the source halts. -/
def execTrngStartupDone (pass : Bool) (s : State) : Host.Outcome State Fault Refusal :=
  s.act (trngStartup pass)

/-- TRNG_HEALTH_FAILURE (R258): The repetition count or adaptive proportion test reaches its cutoff, and the source re-runs its start-up test. -/
def execTrngHealthFailure (adaptive : Bool) (s : State) : Host.Outcome State Fault Refusal :=
  s.act (trngFailure adaptive)

/-- DRBG_RESEED (R258): After 1 024 requests, the DRBG reseeds from the conditioned source. -/
def execDrbgReseed (s : State) : Host.Outcome State Fault Refusal :=
  s.act (Machine.drbgReseed)

end Sys2Proof.Machine
end

