-- ==== Sys2Proof/Machine/Emu.lean ====
section
/-!
DEFINITION. Tag emulation toward phones: the image and its header, card states, blocks, APDUs, secure messaging in card
role, forwarded commands, field transactions and host bursts (chapter 11_card_emulation.md).
-/

namespace Sys2Proof.Machine

/-- Bytes of the image of instance `k`. -/
def Dev.imgBytes (d : Dev) (k off n : Nat) : List Byte := Memory.read d.shadow (k * 65536 + off) n

/-- A big-endian halfword of the image. -/
def Dev.img16 (d : Dev) (k off : Nat) : Nat := d.img k off * 256 + d.img k (off + 1)

/-- A file entry of the header (R275). -/
structure EmuFile where
  fid : Nat
  first : Nat
  flags : Nat
  size : Nat
  df : Nat
  pad : Nat
deriving DecidableEq, Repr

/-- File entry `i` of instance `k`. -/
def Dev.emuFile (d : Dev) (k i : Nat) : EmuFile :=
  let o := 0x70 + 8 * i
  { fid := d.img16 k o, first := d.img k (o + 2), flags := d.img k (o + 3), size := d.img16 k (o + 4), df := d.img k (o + 6),
    pad := d.img k (o + 7) }

/-- The files of instance `k`. -/
def Dev.emuFiles (d : Dev) (k : Nat) : List EmuFile := (upTo (d.img k 0x22)).map (d.emuFile k)

/-- Does one file entry meet its rules (R275)? -/
def EmuFile.ok (f : EmuFile) : Bool :=
  f.fid != 0x3F00 && f.fid != 0xFFFF && 1 ≤ f.first && f.flags ≤ 7 && 1 ≤ f.size && f.size ≤ 65280
    && f.first * 256 + f.size ≤ 65536 && f.df ≤ 3 && f.pad == 0

/-- Do two files keep apart: distinct FIDs within a DF, and no byte in common (R275)? -/
def EmuFile.apart (f g : EmuFile) : Bool :=
  !(f.fid == g.fid && f.df == g.df) && (f.first * 256 + f.size ≤ g.first * 256 || g.first * 256 + g.size ≤ f.first * 256)

/-- Every pair of a list satisfies a relation. -/
def allPairs {α : Type} (r : α → α → Bool) : List α → Bool
  | [] => true
  | x :: xs => xs.all (r x) && allPairs r xs

/-- Bytes `off` to `off + n - 1` of the image are zero. -/
def Dev.imgZero (d : Dev) (k off n : Nat) : Bool := (d.imgBytes k off n).all (· == 0)

/-- AID `i` of the header: length, then 16 bytes (R275). -/
def Dev.aidOk (d : Dev) (k i : Nat) : Bool :=
  let o := 0x24 + 17 * i
  let n := d.img k o
  5 ≤ n && n ≤ 16 && d.imgZero k (o + 1 + n) (16 - n)

/-- Does the header of instance `k` meet every rule (R275)? -/
def Dev.headerOk (d : Dev) (k : Nat) : Bool :=
  let mode := d.img k 2
  let uid := if mode = 2 then 7 else if mode = 1 then 4 else 0
  let files := d.emuFiles k
  d.img16 k 0 == 0xCE01 && mode ≤ 2 && d.imgZero k (3 + uid) (7 - uid)
    && d.img k 0x0A / 64 == (if mode = 2 then 1 else 0) && d.img k 0x0C ≤ 8 && d.img k 0x0D / 16 ≤ 14 && d.img k 0x0D % 16 ≤ 14
    && !bit (d.img k 0x0E) 3 && d.img k 0x0F ≤ 1 && d.img k 0x10 ≤ 15 && (d.img k 0x20 ≤ 63 || d.img k 0x20 == 0xFF)
    && d.img k 0x22 ≤ 16 && d.img k 0x23 ≤ 4 && ((upTo (d.img k 0x23)).all (d.aidOk k)) && d.imgZero k 0x68 8
    && files.all EmuFile.ok && allPairs EmuFile.apart files && d.imgZero k 0xF0 16

/-! Card states. -/

/-- The state of instance `k` (R268). -/
def Dev.ceState (d : Dev) (k : Nat) : Nat := d.rd (CE_INST_STATUS_STATE k)

/-- Set the state. -/
def ceTo (k s : Nat) (d : Dev) : Dev := d.wr (CE_INST_STATUS_STATE k) s

/-- A field transaction whose status frame is not sent whole is discarded (R278). -/
def ceDiscard (k : Nat) (d : Dev) : Dev :=
  match (d.inst k).txn with
  | none => d
  | some _ =>
    let d := d.modCe k fun c => { c with txn := none, status := false }
    ceEvent k 6 noBlocks (d.raise (CE_INST_STATUS_DISCARD_SEEN k))

/-- The card-side session ends (R277). -/
def ceEndSession (k : Nat) (d : Dev) : Dev :=
  (d.modCe k fun c => { c with session := none, challenge := [] }).lower (CE_INST_STATUS_SECURE k)

/-- Write bytes into the image: a commit or a host write (R278, R282): the blocks are marked dirty and CSEQ counts. -/
def ceCommit (k : Nat) (ws : List (Nat × Byte)) (d : Dev) : Dev :=
  let d := { d with shadow := ws.foldl (fun (m : Memory) (w : Nat × Byte) => Memory.set m (k * 65536 + w.1) w.2) d.shadow }
  let d := d.each (ws.map fun (w : Nat × Byte) => w.1 / 256) fun b d => d.setBit (CE_INST_DIRTY_BLOCKS k (b / 32)) (b % 32)
  d.count (CE_INST_CSEQ_CSEQ k) 1

/-- The 256-bit map of the blocks that some writes touch. -/
def blockMap (ws : List (Nat × Byte)) : List Word :=
  (upTo 8).map fun j => nw (packLsb ((upTo 32).map fun i => ws.any fun w => w.1 / 256 == 32 * j + i))

/-- Record a host access to the shadow (R279). -/
def ceAcc (code k block : Nat) (d : Dev) : Dev :=
  (((d.wr CE_ACC_CODE code).wr CE_ACC_INST k).wr CE_ACC_BLOCK block).raiseIf (code == cBUSY) CE_ACC_BUSY_SEEN

/-- A host burst runs: a read delivers its words, a write is applied (R279). -/
def hostRun (k : Nat) (b : HostBurst) (d : Dev) : Dev :=
  let d := if b.writes.isEmpty then d.give b.path (bytesToWords (d.imgBytes k b.offset (4 * b.words)) ++ List.replicate b.pad 0)
           else ceCommit k b.writes d
  ceAcc cDONE k 0 d

/-- No transaction of instance `k` runs any more: waiting host bursts proceed, oldest first (R279). -/
def hostProceed (k : Nat) (d : Dev) : Dev :=
  let bs := (d.inst k).host
  d.each bs (fun b => hostRun k b) |>.modCe k fun c => { c with host := [] }

/-- Instance `k` goes to POWER_OFF (R268): its transaction, forwarded command and session end. -/
def ceOff (k : Nat) (d : Dev) : Dev :=
  let d := hostProceed k (ceEndSession k (ceDiscard k d))
  let d := d.modCe k fun c => { CeInst.reset with cmdId := c.cmdId, asm := c.asm, lostAt := c.lostAt }
  (d.wr (CE_INST_STATUS_RATE k) 0).wr (CE_INST_STATUS_STATE k) 0

/-- The emulation grant of instance `k` ends, and with it any request for one (R266). -/
def ceUngrant (k : Nat) (d : Dev) : Dev :=
  let d := { d with ts := { d.ts with grants := d.ts.grants.filter (·.owner ≠ Owner.emulation k),
                                      reqs := d.ts.reqs.filter (·.owner ≠ Owner.emulation k) } }
  ceOff k ((d.modCe k fun c => { c with lostAt := none }).lower (CE_INST_STATUS_GRANT k))

/-- A cut of R111 ends the emulation grants (R266). -/
def ceCut (d : Dev) : Dev := d.each (upTo 8) fun k d => if d.on (CE_INST_STATUS_GRANT k) then ceUngrant k d else d

/-- Is an emulation grant asked to end, and no new one confirmed (R266)? -/
def Dev.preempts (d : Dev) : Bool := d.on PW_STATE_BUSY || d.surveying || d.on PW_STATUS_PFAIL

/-- Ask for an emulation grant, where the instance has none and asks for none (R266). -/
def ceRequest (k n : Nat) (d : Dev) : Dev :=
  if d.on (CE_INST_STATUS_GRANT k) || d.ts.reqs.any (·.owner == Owner.emulation k) then d
  else
    { d with ts := { d.ts with reqs := d.ts.reqs ++ [{ owner := .emulation k, ch := n, coil := d.rd (CE_INST_CFG_COIL k),
                                                       slots := 1, handover := false, partner := 0, waited := 0,
                                                       urgent := false }] } }

/-- The phone's field is detected at FIELD_THR or above (R21, R265, R266): only where the channel holds no transmit grant, its own field is off and it does not
listen. -/
def phoneDetected (k level : Nat) (d : Dev) : Dev :=
  match d.ceChan k with
  | none => d
  | some n =>
    if !d.coreRuns || !d.on (CE_INST_CFG_EN k) || d.on (CE_INST_STATUS_FIELD k) || (d.chan n).field.lit || (d.grantNow n).isSome || d.listening n
        || 50 * d.rd (CE_INST_CFG_FIELD_THR k) < level then d
    else
      let d := ceEvent k 1 noBlocks ((d.raise (CE_INST_STATUS_FIELD k)).modCe k fun c => { c with lostAt := none })
      ceRequest k n d

/-- The phase tracker locks to the phone's carrier (R264, R268). -/
def carrierLock (k : Nat) (d : Dev) : Dev :=
  if !d.coreRuns || !d.on (CE_INST_STATUS_FIELD k) then d else ceIdle k (d.raise (CE_INST_STATUS_CARRIER k))

/-- The phone's field is lost, more than 3 dB below FIELD_THR (R265, R268). -/
def phoneLost (k level : Nat) (d : Dev) : Dev :=
  if !d.coreRuns || !d.on (CE_INST_STATUS_FIELD k) || level ≤ 50 * d.rd (CE_INST_CFG_FIELD_THR k) + 300 then d
  else
    let d := d.raiseIf (d.ceState k != 0) (CE_INST_STATUS_FIELD_LOSS_SEEN k)
    let t := d.ns
    let d := (ceOff k d).modCe k fun c => { c with lostAt := some t }
    let d := (d.lower (CE_INST_STATUS_FIELD k)).lower (CE_INST_STATUS_CARRIER k)
    ceEvent k 2 noBlocks { d with ts := { d.ts with reqs := d.ts.reqs.filter (·.owner ≠ Owner.emulation k) } }

/-- Is this the Deck clock at which a slot boundary is reached (R18)? -/
def Dev.atBoundary (d : Dev) : Bool := decide (d.time % (1000000 * 2 ^ 40) < (if d.on TC_STATUS_XTAL_MODE then 15 else 1) * d.rd TC_INC_INC)

/-- At a slot boundary an emulation grant ends (R266): 10 ms without a field, or on preemption with no transaction in
progress. -/
def emuGrantEnd (k : Nat) (d : Dev) : Dev :=
  if !d.on (CE_INST_STATUS_GRANT k) then d
  else
    let d := if d.atBoundary then d else d.reach (d.nextBoundary * 1000000)
    let gone := match (d.inst k).lostAt with
      | some t => decide (t + 10000000 ≤ d.ns)
      | none => false
    if gone then ceUngrant k d
    else if d.preempts && (d.inst k).txn.isNone then ceEvent k 9 noBlocks (ceUngrant k d)
    else d

/-! Frames. -/

/-- The bits of bytes, each least significant bit first. -/
def bytesBits (bs : List Byte) : List Bool := bs.flatMap byteBits

/-- Prepare a reply that carries a CRC. -/
def ceReply (k : Nat) (bs : List Byte) (d : Dev) : Dev :=
  d.modCe k fun c => { c with reply := some (bitsA 8 (bs ++ crcBytes 1 bs)) }

/-- Levels of the UID: bytes of the UID CLn and its BCC (R269). -/
def uidLevel (uid : List Byte) (l : Nat) : List Byte :=
  let b := if uid.length ≤ 4 then uid.take 4 else if l = 1 then 0x88 :: uid.take 3 else (uid.drop 3).take 4
  b ++ [b.foldl (· ^^^ ·) 0]

/-- A frame that is not valid in the state: IDLE, or HALT from the starred states (R268). -/
def ceReject (k : Nat) (d : Dev) : Dev :=
  let s := d.ceState k
  if s = 2 || s = 3 then ceTo k 1 d else if s = 5 || s = 6 then ceTo k 4 d else d

/-- An anticollision or SELECT frame in READY or READY* (R268, R269). -/
def ceSelect (k : Nat) (bits_ : List Bool) (bs : List Byte) (crcOk : Bool) (d : Dev) : Dev :=
  let c := d.inst k
  let own := uidLevel c.uid c.level
  let nvb := u8At bs 1
  let sel := u8At bs 0
  if sel ≠ 0x91 + 2 * c.level then ceReject k d
  else if nvb = 0x70 then
    if !crcOk || bs.length ≠ 9 || (bs.drop 2).take 5 ≠ own then ceReject k d
    else if c.level = 1 && c.uid.length = 7 then ceReply k [0x04] (d.modCe k fun c => { c with level := 2 })
    else ceReply k [0x20] (ceTo k (if d.ceState k = 2 then 3 else 6) d)
  else
    let known := bits_.drop 16
    let mine := bytesBits own
    let rest := (bitsA 8 own).drop (known.length + known.length / 8)
    if nvb / 16 < 2 || 7 < nvb / 16 || bits_.length ≠ 8 * (nvb / 16) + nvb % 16 || 40 ≤ known.length then ceReject k d
    else if mine.take known.length == known then d.modCe k fun c => { c with reply := some rest }
    else d

/-- The ATS of the image (R263, R271): TL, T0, TA, TB, TC and the historical bytes. -/
def Dev.ats (d : Dev) (k : Nat) : List Byte :=
  let h := d.img k 0x10
  let u (n : Nat) : Byte := BitVec.ofNat 8 n
  [u (5 + h), u (0x70 + d.img k 0x0C), u (d.img k 0x0E), u (d.img k 0x0D), u (if bit (d.img k 0x0F) 0 then 2 else 0)]
    ++ d.imgBytes k 0x11 h

/-- The prologue of a block of the session: PCB, and the CID where the session has one. -/
def cePcb (c : CeInst) (pcb : Nat) : List Byte :=
  if c.cid = 15 then [BitVec.ofNat 8 pcb] else [BitVec.ofNat 8 (pcb + 8), BitVec.ofNat 8 c.cid]

/-- Send the next part of the response as an I-block (R272): chained to the phone's FSD. -/
def ceSendI (k : Nat) (d : Dev) : Dev :=
  let c := d.inst k
  let room := c.fsd - (if c.cid = 15 then 3 else 4)
  let more := decide (room < c.tx.length)
  let bs := cePcb c (0x02 + c.block + (if more then 0x10 else 0)) ++ c.tx.take room
  ceReply k bs (d.modCe k fun c => { c with tx := c.tx.drop room, lastBlock := bs, status := !more })

/-- Answer a command APDU with a body and a status word. -/
def ceAnswer (k : Nat) (body : List Byte) (sw : Nat) (d : Dev) : Dev :=
  ceSendI k (d.modCe k fun c => { c with tx := body ++ beBytes 2 sw })

/-- A command APDU taken apart: header, data, Le. -/
structure Apdu where
  cla : Nat
  ins : Nat
  p1 : Nat
  p2 : Nat
  data : List Byte
  le : Option Nat
deriving DecidableEq, Repr

/-- Take a command APDU apart; `none` for a wrong length. -/
def parseApdu (bs : List Byte) : Option Apdu :=
  let n := bs.length
  let mk (data : List Byte) (le : Option Nat) : Apdu :=
    { cla := u8At bs 0, ins := u8At bs 1, p1 := u8At bs 2, p2 := u8At bs 3, data := data, le := le }
  if n < 4 || 261 < n then none
  else if n = 4 then some (mk [] none)
  else
    let lc := u8At bs 4
    let leOf (v : Nat) : Nat := if v = 0 then 256 else v
    if n = 5 then some (mk [] (some (leOf lc)))
    else if n = 5 + lc then some (mk (bs.drop 5) none)
    else if n = 6 + lc then some (mk ((bs.drop 5).take lc) (some (leOf (u8At bs (5 + lc)))))
    else none

/-- What the hardware answers to an APDU: a body and a status word; it hands the APDU on; or it leaves the status open. -/
inductive ApduResult
  | answer (body : List Byte) (sw : Nat)
  | forward
  | unstated
deriving DecidableEq, Repr

/-- Is any byte of a file in a lock region of the given mode (R280)? -/
def Dev.fileLocked (d : Dev) (k : Nat) (f : EmuFile) (absent : Bool) (lo n : Nat) : Bool :=
  (upTo 4).any fun m =>
    let s := d.rd (CE_INST_LOCK_START k m)
    let l := d.rd (CE_INST_LOCK_LEN k m)
    let a := f.first * 256 + lo
    l != 0 && d.on (CE_INST_LOCK_MODE k m) == absent && a < (s + l) * 256 && s * 256 < a + n

/-- The file that is selected, where it still exists (R276, R280). -/
def Dev.curFile (d : Dev) (k : Nat) : Option EmuFile :=
  match (d.inst k).file with
  | some i =>
    let f := d.emuFile k i
    if d.fileLocked k f true 0 f.size then none else some f
  | none => none

/-- The card key of the image (R277). -/
def Dev.cardKey (d : Dev) (k : Nat) : Option KeySlot :=
  let s := d.img k 0x20
  if 63 < s then none
  else
    match d.keySlot s with
    | some x => if bit x.attr 1 then some x else none
    | none => none

/-- Blocks that `n` bytes of a file from `lo` on touch. -/
def fileBlocks (f : EmuFile) (lo n : Nat) : List Nat :=
  if n = 0 then [] else
    let a := f.first * 256 + lo
    (upTo ((a + n - 1) / 256 - a / 256 + 1)).map (a / 256 + ·)

/-- READ BINARY and UPDATE BINARY on a file (R276): the result, the blocks used, the bytes written. -/
def Dev.fileApdu (d : Dev) (k : Nat) (a : Apdu) (f : EmuFile) : ApduResult × List Nat × List (Nat × Byte) :=
  let off := a.p1 * 256 + a.p2
  if a.ins = 0xB0 then
    if f.size ≤ off then (.answer [] 0x6B00, [], [])
    else
      let le := a.le.getD 0
      let n := min le (f.size - off)
      (.answer (d.imgBytes k (f.first * 256 + off) n) (if n < le then 0x6282 else 0x9000), fileBlocks f off n, [])
  else
    let n := a.data.length
    if !bit f.flags 0 || d.fileLocked k f false off n then (.answer [] 0x6985, [], [])
    else if f.size ≤ off then (.answer [] 0x6B00, [], [])
    else if f.size < off + n || n = 0 then (.answer [] 0x6700, [], [])
    else (.answer [] 0x9000, fileBlocks f off n, (upTo n).map fun i => (f.first * 256 + off + i, a.data.getD i 0))

/-- What an APDU does (R276, R277): the result, blocks used, bytes written, and the change of the instance. `secured`: it came
under secure messaging, and has been unwrapped. -/
def Dev.runApdu (d : Dev) (k : Nat) (a : Apdu) (secured : Bool) :
    ApduResult × List Nat × List (Nat × Byte) × (Dev → Dev) :=
  let c := d.inst k
  let plain (r : ApduResult) : ApduResult × List Nat × List (Nat × Byte) × (Dev → Dev) := (r, [], [], id)
  let files := d.emuFiles k
  if a.ins = 0xA4 && a.p1 = 0x04 then
    match (upTo (d.img k 0x23)).find? fun i => d.imgBytes k (0x25 + 17 * i) (d.img k (0x24 + 17 * i)) == a.data with
    | some i => (.answer [] 0x9000, [], [], fun d => d.modCe k fun c => { c with df := some i, file := none })
    | none => plain (.answer [] 0x6A82)
  else if a.ins = 0xA4 && (a.p1 = 0 || a.p1 = 2) && a.p2 = 0x0C then
    match (upTo files.length).find? fun i =>
        let f := d.emuFile k i
        some f.df == c.df && [BitVec.ofNat 8 (f.fid / 256), BitVec.ofNat 8 f.fid] == a.data
          && !d.fileLocked k f true 0 f.size with
    | some i =>
      let pick (d : Dev) : Dev := d.modCe k fun c => { c with file := some i }
      if bit (d.emuFile k i).flags 2 then (.forward, [], [], pick) else (.answer [] 0x9000, [], [], pick)
    | none => plain (.answer [] 0x6A82)
  else if a.ins = 0xB0 || a.ins = 0xD6 then
    match d.curFile k with
    | none => plain (.answer [] 0x6986)
    | some f =>
      if bit f.flags 2 then plain .forward
      else if bit f.flags 1 && !secured then
        if c.session.isSome then (.answer [] 0x6988, [], [], ceEndSession k) else plain (.answer [] 0x6982)
      else
        let r := d.fileApdu k a f
        (r.1, r.2.1, r.2.2, id)
  else if a.ins = 0x84 then
    match d.cardKey k with
    | none => plain (.answer [] 0x6D00)
    | some _ =>
      if !d.entropy then plain .unstated
      else
        let r := d.random 16
        let rb := r.1
        (.answer rb 0x9000, [], [], fun d => (d.random 16).2.modCe k fun c => { c with challenge := rb })
  else if a.ins = 0x82 && (d.cardKey k).isSome then
    match d.cardKey k with
    | none => plain .forward
    | some key =>
      let x := cbcDecrypt key.key 2 (zeros 16) a.data
      let ra := x.take 16
      let rb := x.drop 16
      if a.data.length ≠ 32 || a.p2 ≠ d.img k 0x21 || c.challenge.isEmpty || rb ≠ c.challenge then
        (.unstated, [], [], fun d => d.modCe k fun c => { c with challenge := [] })
      else
        let s : CardSession := { kEnc := deriveKey key.key 1 ra rb, kMac := deriveKey key.key 2 ra rb, last := 0 }
        (.answer (cbcEncrypt key.key 2 (zeros 16) (rb ++ ra)) 0x9000, [], [], fun d =>
          (d.modCe k fun c => { c with challenge := [], session := some s }).raise (CE_INST_STATUS_SECURE k))
  else plain .forward

/-- Unwrap a secured command in card role (R249, R277), which the phone made under counter `cnt`: it must exceed the last accepted. -/
def cardUnwrap (s : CardSession) (cnt : Nat) (bs : List Byte) (a : Apdu) : Option (List Byte) :=
  let n := a.data.length
  if cnt ≤ s.last || n < 8 || (n - 8) % 16 ≠ 0 then none
  else
    let e := a.data.take (n - 8)
    if a.data.drop (n - 8) ≠ smMac s.kMac 0 cnt (bs.take 4 ++ e) then none
    else if e.isEmpty then some []
    else (unpadRev 15 (cbcDecrypt s.kEnc (e.length / 16) (smIv s.kEnc 0 cnt) e).reverse)

/-- Wrap a response in card role (R250, R277). -/
def cardWrap (s : CardSession) (body : List Byte) (sw : Nat) : List Byte :=
  let padded := pad16 body
  let e := if body.isEmpty then [] else cbcEncrypt s.kEnc (padded.length / 16) (smIv s.kEnc 1 s.last) padded
  e ++ smMac s.kMac 1 s.last (e ++ beBytes 2 sw)

/-- Start a field transaction (R278): block 0 and the blocks of the APDU are in use until its end. -/
def ceTxn (k : Nat) (blocks : List Nat) (ws : List (Nat × Byte)) (d : Dev) : Dev :=
  d.modCe k fun c => { c with txn := some { blocks := 0 :: blocks, writes := ws } }

/-- Forward a command APDU, or answer 6D 00 (R273). -/
def ceForward (k : Nat) (bs : List Byte) (d : Dev) : Dev :=
  if !d.on (CE_INST_CFG_FWD k) then ceAnswer k [] 0x6D00 (ceTxn k [] [] d)
  else
    let id := (d.inst k).cmdId
    let d := d.modCe k fun c => { c with fwd := some id, wtx := 0, wtxAwait := false, tx := [], cmdId := (id + 1) % 65536 }
    match d.ceChan k with
    | some n => postIn n 0x27 ([packW [(28, 4, k), (16, 9, bs.length), (0, 16, id)]] ++ d.stamp ++ bytesToWords bs) d
    | none => d

/-- Finish a command APDU that the hardware handles: its transaction starts, and its response is ready (R271, R278). -/
def ceFinish (k : Nat) (r : ApduResult × List Nat × List (Nat × Byte) × (Dev → Dev)) (bs : List Byte)
    (wrap : Option CardSession) (d : Dev) : Dev :=
  let d := r.2.2.2 d
  match r.1 with
  | .forward => ceForward k bs d
  | .unstated =>
    let f := d.free
    ceAnswer k [] (f.1 % 65536) (ceTxn k [] [] f.2)
  | .answer body sw =>
    let d := ceTxn k r.2.1 r.2.2.1 d
    match wrap with
    | some s => ceAnswer k (cardWrap s body sw) sw d
    | none => ceAnswer k body sw d

/-- The answer to a secured APDU without a session: 69 82 to a SECURE file (R276); the spec states no other status. -/
def Dev.noSession (d : Dev) (k : Nat) (a : Apdu) : ApduResult :=
  match d.curFile k with
  | some f => if (a.ins = 0xB0 || a.ins = 0xD6) && bit f.flags 1 && !bit f.flags 2 then .answer [] 0x6982 else .unstated
  | none => .unstated

/-- What a new command APDU leaves behind: the one before it is over, its transaction discarded where its status frame has not been sent
(R273, R278), and a file under an absent lock becomes unselected (R280). -/
def ceBegin (k : Nat) (d : Dev) : Dev :=
  let d := if (d.inst k).txn.isSome then hostProceed k (ceDiscard k d) else d
  let keep := (d.curFile k).isSome
  d.modCe k fun c => { c with fwd := none, wtxAwait := false, tx := [], file := if keep then c.file else none }

/-- A complete command APDU, made under counter `ctr` where it is secured (R273, R276, R277). After a power-fail warning no transaction
starts (R283). -/
def ceApdu (k ctr : Nat) (bs : List Byte) (d : Dev) : Dev :=
  if d.on PW_STATUS_PFAIL then d
  else
    match parseApdu bs with
    | none => ceAnswer k [] 0x6700 (ceTxn k [] [] d)
    | some a =>
      if a.cla = 0x00 then ceFinish k (d.runApdu k a false) bs none d
      else if a.cla = 0x0C then
        match (d.inst k).session with
        | none => ceFinish k (d.noSession k a, [], [], id) bs none d
        | some s =>
          match cardUnwrap s ctr bs a with
          | none => ceAnswer k [] 0x6988 (ceTxn k [] [] (ceEndSession k d))
          | some p =>
            let s' := { s with last := ctr }
            let d := d.modCe k fun c => { c with session := some s' }
            ceFinish k (d.runApdu k { a with data := p } true) bs (some s') d
      else ceAnswer k [] 0x6E00 (ceTxn k [] [] d)

/-- An I-block of the session (R272): chaining up to 261 bytes. -/
def ceInfo (k ctr : Nat) (more : Bool) (inf : List Byte) (d : Dev) : Dev :=
  let d := d.modCe k fun c => { c with block := 1 - c.block, rx := (c.rx ++ inf).take 262 }
  let c := d.inst k
  if more then
    let bs := cePcb c (0xA2 + c.block)
    ceReply k bs (d.modCe k fun c => { c with lastBlock := bs, status := false })
  else ceApdu k ctr c.rx (ceBegin k (d.modCe k fun c => { c with rx := [] }))

/-- An R-block of the session (R272). -/
def ceAck (k : Nat) (nak : Bool) (num : Nat) (d : Dev) : Dev :=
  let c := d.inst k
  if num = c.block then (if c.lastBlock.isEmpty then d else ceReply k c.lastBlock d)
  else if nak then ceReply k (cePcb c (0xA2 + c.block)) d
  else if c.tx.isEmpty then d
  else ceSendI k (d.modCe k fun c => { c with block := 1 - c.block })

/-- A block in PROTOCOL (R268, R272, R273): its CID must be the session's. -/
def ceBlock (k ctr : Nat) (bs : List Byte) (d : Dev) : Dev :=
  let c := d.inst k
  let pcb := u8At bs 0
  let hasCid := bit pcb 3
  let cidOk := if hasCid then c.cid != 15 && u8At bs 1 % 16 == c.cid else c.cid == 15 || c.cid == 0
  let rest := bs.drop (if hasCid then 2 else 1)
  if bs.isEmpty then d
  else if pcb / 16 = 0xD then
    let rates := u8At bs 2
    let dsi := bits rates 3 2
    let ta := d.img k 0x0E
    let ok (r : Nat) (m : Nat) : Bool := r == 0 || bit m (r - 1)
    if pcb % 16 ≠ (if c.cid = 15 then 0 else c.cid) || !c.lastBlock.isEmpty then d
    else if ok dsi (bits ta 6 4) && ok (bits rates 1 0) (bits ta 2 0) && (!bit ta 7 || dsi == bits rates 1 0) then
      ceReply k [bs.getD 0 0] (d.modCe k fun c => { c with newRate := some dsi })
    else d
  else if !cidOk then d
  else if pcb / 64 = 0 then (if bit pcb 2 then d else ceInfo k ctr (bit pcb 4) rest d)
  else if pcb / 32 = 5 then ceAck k (bit pcb 4) (pcb % 2) d
  else if pcb / 16 = 0xC then
    ceReply k (cePcb c 0xC2) (d.modCe k fun c => { c with toHalt := true })
  else if pcb / 16 = 0xF && bit pcb 1 && c.wtxAwait then
    let d := d.modCe k fun c => { c with wtxAwait := false }
    if c.fwd.isNone && !c.tx.isEmpty then ceSendI k d else d
  else d

/-- The last bit of a frame from the phone, a parity bit where it ends with a whole byte (R166, R270). -/
def lastBitOf (bits_ : List Bool) (bs : List Byte) : Bool :=
  if bits_.length % 8 = 0 then (match bs.getLast? with
    | some b => oddParity b
    | none => false)
  else bits_.getLast?.getD false

/-- A frame from the phone: its data bits, whether its parity is right (R268, R269, R272), and the counter that it is secured under
(R277). Without a grant the instance stays silent (R266). -/
def emuFrame (k : Nat) (bits_ : List Bool) (parityOk : Bool) (ctr : Nat) (d : Dev) : Dev :=
  if !d.coreRuns || !d.on (CE_INST_CFG_EN k) || !d.on (CE_INST_STATUS_FIELD k) then d
  else if !d.on (CE_INST_STATUS_GRANT k) then ceDeaf k d
  else
    let st := d.ceState k
    let bs := packBytes false (bits_.length / 8 + 1) bits_
    let last := lastBitOf bits_ bs
    let body := bs.take (bs.length - 2)
    let crcOk := parityOk && bits_.length % 8 = 0 && 3 ≤ bs.length && bs.drop (bs.length - 2) == crcBytes 1 body
    let short := if bits_.length = 7 then packLsb bits_ else 0
    let d := d.modCe k fun c => { c with reply := none, toHalt := false, newRate := none, lastBit := last, late := false }
    let atqa (s : Nat) (d : Dev) : Dev :=
      (ceTo k s d).modCe k fun c => { c with level := 1, reply := some (bitsA 8 (d.imgBytes k 0x0A 2)) }
    if st = 1 then (if short = 0x26 || short = 0x52 then atqa 2 d else d)
    else if st = 4 then (if short = 0x52 then atqa 5 d else d)
    else if st = 2 || st = 5 then (if parityOk then ceSelect k bits_ bs crcOk d else ceReject k d)
    else if st = 3 || st = 6 then
      if crcOk && body = [0x50, 0x00] then ceTo k 4 d
      else if crcOk && body.length = 2 && u8At body 0 = 0xE0 && u8At body 1 % 16 ≠ 15 then
        let p := u8At body 1
        let d := d.modCe k fun c =>
          { c with block := 1, cid := if bit (d.img k 0x0F) 0 then p % 16 else 15, fsd := fscOf (p / 16), rx := [], tx := [],
                   lastBlock := [], df := none, file := none, guardAt := none }
        ceEvent k 3 noBlocks (ceReply k (d.ats k) (ceTo k 7 d))
      else ceReject k d
    else if st = 7 then (if crcOk && u8At body 0 ≠ 0xE0 then ceBlock k ctr body d else d)
    else d

/-- The start of a reply in rcc after the phone's last pause: n = 9, or for a reply that was not ready then the first grid point at which it
is (R270, R271). -/
def replyAt (lastBit late : Bool) (ready : Nat) : Nat :=
  let ofs := if lastBit then 84 else 20
  let n := if late then max 9 ((ready - ofs + 127) / 128) else 9
  n * 128 + ofs

/-- SFGT of the image in ns, 4 096 × 2 to the SFGI cycles (R271); none for SFGI 0. -/
def Dev.cardGuard (d : Dev) (k : Nat) : Nat :=
  let sfgi := d.img k 0x0D % 16
  if sfgi = 0 then 0 else (4096 * 2 ^ sfgi * 100000 + 1355) / 1356

/-- The instance starts its reply (R270): start bit and bits go out (R267), after the ATS no sooner than SFGT (R271); the states that follow
a reply are taken. -/
def emuReplyStart (k ready : Nat) (d : Dev) : Dev :=
  let c := d.inst k
  match c.reply with
  | none => d
  | some b =>
    if !d.on (CE_INST_STATUS_GRANT k) then d
    else
      let d := match c.guardAt with
        | some t => d.reach t
        | none => d
      let g := if d.ceState k = 7 && c.guardAt.isNone then some (d.ns + d.cardGuard k) else c.guardAt
      let s := replyAt c.lastBit c.late ready
      let d := { d.modCe k (fun c => { c with reply := none, toHalt := false, newRate := none, startAt := s, guardAt := g }) with
                 out := packWords 80 (true :: b) }
      let d := match c.newRate with
        | some r => d.wr (CE_INST_STATUS_RATE k) r
        | none => d
      if c.toHalt then ceEvent k 4 noBlocks (ceTo k 4 (ceEndSession k (ceBegin k d))) else d

/-- TE of the frame that carries a status word (R278): sent whole, the writes commit; else they are discarded. -/
def fieldTxnEnd (k : Nat) (whole : Bool) (d : Dev) : Dev :=
  let c := d.inst k
  match c.txn with
  | none => d
  | some t =>
    if !c.status then d
    else if !whole then hostProceed k (ceDiscard k d)
    else
      let d := d.modCe k fun c => { c with txn := none, status := false }
      let d := if t.writes.isEmpty then d else ceEvent k 5 (blockMap t.writes) (ceCommit k t.writes d)
      hostProceed k d

/-- A half point of the wait for a forwarded response (R273): S(WTX), or 6F 00 and EXPIRED. -/
def emuWtxPoint (k : Nat) (d : Dev) : Dev :=
  let c := d.inst k
  if c.fwd.isNone || c.wtxAwait || c.reply.isSome || d.ceState k ≠ 7 then d
  else if c.wtx < d.rd (CE_INST_WTX_WTX_MAX k) then
    let bs := cePcb c 0xF2 ++ [BitVec.ofNat 8 (d.rd (CE_INST_WTX_WTXM k))]
    ceReply k bs (d.modCe k fun c => { c with wtx := c.wtx + 1, wtxAwait := true, late := true, lastBlock := bs, status := false })
  else
    let d := d.modCe k fun c => { c with fwd := none, late := true }
    ceEvent k 7 noBlocks (ceAnswer k [] 0x6F00 (d.raise (CE_INST_STATUS_EXPIRED_SEEN k)))

/-- A word written to CE_INSTk_RSP (R273, R284). A response that comes before the phone's S(WTX) response follows that. -/
def ceRspWrite (p : Path) (k : Nat) (w : Word) (d : Dev) : Dev :=
  let c := d.inst k
  let ws := ((c.asm.find? (·.1 = p)).map (·.2)).getD [] ++ [w]
  let others := c.asm.filter (·.1 ≠ p)
  let len := bits (wordAt ws 0) 8 0
  let id := bits (wordAt ws 0) 31 16
  let code (x : Nat) (d : Dev) : Dev := d.wr (CE_INST_STATUS_RSP_CODE k) x
  if ws.length < 1 + (len + 3) / 4 then d.modCe k fun c => { c with asm := others ++ [(p, ws)] }
  else
    let d := d.modCe k fun c => { c with asm := others }
    if len < 2 || 258 < len then code cRANGE d
    else if c.fwd ≠ some id || d.ceState k ≠ 7 then code cREFUSED d
    else
      let d := code cDONE (d.modCe k fun c => { c with fwd := none, late := true, tx := (wordsToBytes (ws.drop 1)).take len })
      if c.wtxAwait then d else ceSendI k d

/-- A write of CE_INSTk_CFG (R265, R275, R285). -/
def ceEnable (p : Path) (k : Nat) (w : Word) (d : Dev) : Dev :=
  match d.ceChan k with
  | none => d.hole p
  | some n =>
    let v := w.toNat
    let en := bit v 31
    let alm := bits v 29 20
    let coil := bits v 19 14
    let was := d.on (CE_INST_CFG_EN k)
    let addr := 0x70100 + k * 0x80
    let range := alm = 0 || (d.decl n).maxPower < powerOf alm || 59 < bits v 13 8 || bits v 7 0 < 2 || 80 < bits v 7 0
      || (en && !was && (!d.headerOk k || (d.coils n ≠ 0 && d.coils n ≤ coil)))
    let locked := was && (alm ≠ d.rd (CE_INST_CFG_ALM_CODE k) || coil ≠ d.rd (CE_INST_CFG_COIL k)
      || bits v 30 30 ≠ d.rd (CE_INST_CFG_FWD k))
    if range || locked then d.accessError 0x70000 p true addr ⟨range, locked, false⟩
    else
      let d := (((((d.flag (CE_INST_CFG_EN k) en).flag (CE_INST_CFG_FWD k) (bit v 30)).wr (CE_INST_CFG_ALM_CODE k) alm).wr
        (CE_INST_CFG_COIL k) coil).wr (CE_INST_CFG_ALM_PHASE k) (bits v 13 8)).wr (CE_INST_CFG_FIELD_THR k) (bits v 7 0)
      if was && !en then
        ((ceUngrant k d).lower (CE_INST_STATUS_FIELD k)).lower (CE_INST_STATUS_CARRIER k)
      else d

/-- A write of CE_INSTk_LOCKm (R280). -/
def ceLockWrite (p : Path) (k m : Nat) (w : Word) (d : Dev) : Dev :=
  let v := w.toNat
  let s := bits v 31 24
  let l := bits v 23 15
  if (d.ceChan k).isNone then d.hole p
  else if s = 0 || 255 < l || 256 < s + l then d.errRange p (0x70110 + k * 0x80 + m * 4)
  else
    let d := ((d.wr (CE_INST_LOCK_START k m) s).wr (CE_INST_LOCK_LEN k m) l).wr (CE_INST_LOCK_MODE k m) (bits v 14 14)
    ceAcc (if l = 0 then cEMPTY else cDONE) k 0 d

/-- The first block of some that a transaction of instance `k` uses. -/
def Dev.blockInUse (d : Dev) (k : Nat) (bs : List Nat) : Option Nat :=
  match (d.inst k).txn with
  | some t => bs.find? fun b => t.blocks.contains b
  | none => none

/-- A host burst to the window of the shadow (R36, R274, R275, R279): `off` in the window, the words to write or the number of
words to read. It ends at its 4 KiB page. -/
def shadowBurst (p : Path) (off : Nat) (data : List Word) (n : Nat) (d : Dev) : Dev :=
  let k := d.rd CE_WIN_INST
  if (d.ceChan k).isNone then (d.hole p).give p (List.replicate n 0)
  else
    let off := off / 4 * 4
    let room := (4096 - off % 4096) / 4
    let count := if data.isEmpty then n else data.length
    let d := if room < count then d.pageEnd p else d
    let len := min count room
    let start := d.rd CE_WIN_HALF * 32768 + off
    let bytes := wordsToBytes (data.take room)
    let zero := !data.isEmpty && start / 256 = 0 && d.on (CE_INST_CFG_EN k)
    let d := if zero then d.accessError 0x70000 p true (0x78000 + off) ⟨false, true, false⟩ else d
    let ws := ((upTo bytes.length).map fun i => (start + i, bytes.getD i 0)).filter fun x => !(zero && x.1 < 256)
    if len = 0 then d
    else if !data.isEmpty && ws.isEmpty then ceAcc cDONE k 0 d
    else
      let blocks := (upTo ((start + 4 * len - 1) / 256 - start / 256 + 1)).map (start / 256 + ·)
      let b : HostBurst := { path := p, writes := ws, offset := start, words := len, pad := if data.isEmpty then n - len else 0, block := 0, since := d.ns }
      match d.blockInUse k (if data.isEmpty then blocks else (ws.map fun x => x.1 / 256)) with
      | none => hostRun k b d
      | some x =>
        if d.rd CE_CFG_HOST_WAIT = 0 then ceAcc cBUSY k x (d.give p (if data.isEmpty then List.replicate n 0 else []))
        else d.modCe k fun c => { c with host := c.host ++ [{ b with block := x }] }

/-- The oldest waiting burst of instance `k` exceeds HOST_WAIT: it has no effect (R279). -/
def hostWaitExpiry (k : Nat) (d : Dev) : Dev :=
  match (d.inst k).host with
  | [] => d
  | b :: rest =>
    let d := (d.reach (b.since + d.rd CE_CFG_HOST_WAIT * 1000)).modCe k fun c => { c with host := rest }
    ceAcc cBUSY k b.block (d.give b.path (if b.writes.isEmpty then List.replicate (b.words + b.pad) 0 else []))

/-! The meanings of the rows of this family. -/

/-- CARRIER_LOCK (R264): The emulation phase tracker locks to a phone's carrier within ±7 kHz. -/
def execCarrierLock (k : Fin 8) (s : State) : Host.Outcome State Fault Refusal :=
  s.act (Machine.carrierLock k.val)

/-- PHONE_FIELD_DETECTED (R265): The received carrier stays above FIELD_THR for 64 rcc, and the instance requests an emulation grant. -/
def execPhoneFieldDetected (k : Fin 8) (level : Nat) (s : State) : Host.Outcome State Fault Refusal :=
  s.act (phoneDetected k.val level)

/-- EMU_FRAME_RECEIVED (R268): A frame from the phone moves the card state machine and starts a field transaction or a forwarded command. -/
def execEmuFrameReceived (k : Fin 8) (bits : List Bool) (parityOk : Bool) (ctr : Word) (s : State) : Host.Outcome State Fault Refusal :=
  s.act (emuFrame k.val bits parityOk ctr.toNat)

/-- EMU_REPLY_START (R270): The instance starts a reply at the grid point of R270 on the received carrier. -/
def execEmuReplyStart (k : Fin 8) (ready : Nat) (s : State) : Host.Outcome State Fault Refusal :=
  s.act (Machine.emuReplyStart k.val ready)

/-- EMU_WTX_POINT (R273): A forwarded response is not ready at a half point: an S(WTX) request is sent, or 6F 00 with EXPIRED. -/
def execEmuWtxPoint (k : Fin 8) (s : State) : Host.Outcome State Fault Refusal :=
  s.act (Machine.emuWtxPoint k.val)

/-- CE_RSP_WRITE (R273): A response written to CE_INSTk_RSP for a waiting CMD_ID is accepted, or is discarded with REFUSED or RANGE. -/
def execCeRspWrite (p : Path) (k : Fin 8) (w : Word) (s : State) : Host.Outcome State Fault Refusal :=
  s.act (onPort 0x70000 p (Machine.ceRspWrite p k.val w))

/-- CE_LOCK_WRITE (R280): A write of a lock region sets or removes a read-only or absent lock for the next field transaction. -/
def execCeLockWrite (p : Path) (k : Fin 8) (m : Fin 4) (w : Word) (s : State) : Host.Outcome State Fault Refusal :=
  s.act (onPort 0x70000 p (Machine.ceLockWrite p k.val m.val w))

/-- SHADOW_HOST_BURST (R279): A host burst to the emulation shadow reads a consistent version or stages a write, waiting for blocks in use. -/
def execShadowHostBurst (p : Path) (off : Fin 32768) (data : List Word) (n : Nat) (s : State) : Host.Outcome State Fault Refusal :=
  s.act (onPort 0x70000 p (shadowBurst p off.val data n))

end Sys2Proof.Machine
end

