-- ==== Sys2Proof/Machine/Runtime.lean ====
section
/-!
DEFINITION. The Ferryman runtime's persistent work: journal records built, committed and applied (R314 to R316), sightings
and verdicts (R312, R313, R325), tag writes (R320), the saves of keys, neighbour tables, emulation images and the calibration
count (R210, R243, R282, R436), and its start (R320, R210, R243, R274).
-/

namespace Sys2Proof.Machine

/-! Control-block fields (R309). -/

/-- BOOT_SEQ. -/
def Dev.bootSeq (d : Dev) : Nat := leNat (d.vread (controlAt + 0x20) 8)

/-- The state byte of an intent slot: 1 OPEN, 2 CLOSED (assumption 15). -/
def Dev.intentState (d : Dev) (k : Nat) : Nat := u8At (d.vread (intentAt k) 1) 0

/-- The 32 bytes of an intent slot (assumption 15). -/
def intentBytes (st ch ctx code tag rec_ seq : Nat) : List Byte :=
  [BitVec.ofNat 8 st, BitVec.ofNat 8 ch, BitVec.ofNat 8 ctx, BitVec.ofNat 8 code] ++ leBytes 2 tag ++ [0, 0] ++ leBytes 4 rec_
    ++ leBytes 8 seq ++ zeros 12

/-! The saved copies in the configuration store (assumption 15). -/

/-- A saved neighbour table (R208, R210). -/
def tableBytes (t : NbTable) : List Byte :=
  [BitVec.ofNat 8 (1 + 2 * b2n t.surveyed), BitVec.ofNat 8 t.count] ++ leBytes 2 t.refCode ++ leBytes 2 t.refAmp
    ++ leBytes 2 t.refN ++ (t.entries.map fun e => leBytes 2 (e.dev + 32768 * b2n e.xdev) ++ leBytes 2 e.berth
      ++ leBytes 2 e.mag ++ leBytes 2 e.phase).flatten

/-- A neighbour table as saved, where the place holds one. -/
def parseTable (berth : Nat) (bs : List Byte) : Option NbTable :=
  if u8At bs 0 % 2 = 0 then none
  else some { berth := berth, surveyed := bit (u8At bs 0) 1, refCode := le16At bs 2, refAmp := le16At bs 4, refN := le16At bs 6,
              count := u8At bs 1,
              entries := (upTo 16).map fun i =>
                { xdev := bit (le16At bs (8 + 8 * i)) 15, dev := le16At bs (8 + 8 * i) % 32768, berth := le16At bs (10 + 8 * i),
                  mag := le16At bs (12 + 8 * i), phase := le16At bs (14 + 8 * i) } }

/-- Bytes of a place for a neighbour table. -/
abbrev tablePlace : Nat := 136

/-- The blobs of every slot, and the epoch (R243). -/
def keyEntries (d : Dev) : List (Nat × List Byte) :=
  ((upTo 64).map fun s => match d.keySlot s with
    | some k => (blobAt s, leBytes 8 1 ++ d.blob s k)
    | none => (blobAt s, leBytes 8 0)) ++ [(savedEpochAt, leBytes 8 d.epoch)]

/-- Dirty blocks of an emulation image, at most as many as one record carries (R282, R314). -/
def Dev.dirtyBlocks (d : Dev) (k : Nat) : List Nat :=
  ((upTo 256).filter fun b => bit (d.rd (CE_INST_DIRTY_BLOCKS k (b / 32))) (b % 32)).take 120

/-! What a piece of work turns into (R314, R315). -/

/-- A record to be committed: KIND, entries, the events released by its commit (R14), the replies that wait for its
application, and the exchange posted then. -/
structure Built where
  kind : Nat
  entries : List (Nat × List Byte)
  events : List (List Word)
  replies : List (SvcCmd × Nat × List Byte)
  post : Option TagWrite

/-- A plain UPDATE record. -/
def Built.update (es : List (Nat × List Byte)) (events : List (List Word)) (replies : List (SvcCmd × Nat × List Byte)) : Built :=
  { kind := 1, entries := es, events := events, replies := replies, post := none }

/-- An update of record `i` with an audit entry where there is one. -/
def recordUpdate (i : Nat) (r : List Byte) (a : Option AuditJob) (d : Dev) : Option Built × Dev :=
  let x := auditOf a d
  (some (.update ((64 * i, reseal r) :: x.1) x.2.1 []), x.2.2)

/-- A sighting written into a record: the fields that the runtime alone writes (R312). -/
def sightRecord (r : List Byte) (dev : Nat) (s : Sighting) : List Byte :=
  let r := putAt r 0x1A (leBytes 2 dev ++ leBytes 2 s.berth ++ [BitVec.ofNat 8 s.conf, 1])
  let r := putAt r 0x20 s.stamp
  putAt r 0x2C (leBytes 4 (min (le32At r 0x2C + s.count) 0xFFFFFFFF))

/-- The sighting of a refresh of record `i` that is due (R330). -/
def Work.refreshOf (w : Work) (i : Nat) : Option Sighting :=
  match w with
  | .refresh k s => if k = i then some s else none
  | _ => none

/-- Does a piece of work put the record with this key? -/
def Work.puts (w : Work) (key : List Byte) : Bool :=
  match w with
  | .cmd c => c.code == 0x21 && c.payload.take 11 == key
  | _ => false

/-- REG_PUT on the record that stands (R312), or on a new one. -/
def putFields (r : List Byte) (fields : List Byte) : List Byte :=
  putAt (putAt r 0x10 (fields.take 10)) 0x30 (fields.drop 10)

/-- REG_PUT (R311, R312). -/
def buildPut (c : SvcCmd) (d : Dev) : Except Nat Built :=
  let key := c.payload.take 11
  let expect := le32At c.payload 12
  let fields := c.payload.drop 16
  match d.lookup key with
  | (some i, _) =>
    let r := d.regRecord i
    if expect ≠ 0xFFFFFFFF && expect ≠ le32At r 12 then .error 0x14
    else
      let r := match d.sv.todo.findSome? (·.refreshOf i) with
        | some s => sightRecord r (le16At r 0x1A) s
        | none => r
      let r := reseal (putFields r fields)
      .ok (.update [(64 * i, r)] [] [(c, cDONE, leBytes 4 i ++ (r.drop 12).take 4)])
  | (none, slot) =>
    if expect ≠ 0xFFFFFFFF then .error 0x14
    else
      match slot with
      | none => .error 0x12
      | some i =>
        let blank := [1] ++ key ++ zeros 16 ++ leBytes 2 0x7FF ++ zeros 34
        let r := reseal (putFields blank fields)
        .ok (.update [(64 * i, r)] [] [(c, cDONE, leBytes 4 i ++ (r.drop 12).take 4)])

/-- REG_DELETE (R311). -/
def buildDelete (c : SvcCmd) (d : Dev) : Except Nat (Nat × Built) :=
  match d.lookup (c.payload.take 11) with
  | (none, _) => .error 0x11
  | (some i, _) =>
    let r := d.regRecord i
    let expect := le32At c.payload 12
    if expect ≠ 0xFFFFFFFF && expect ≠ le32At r 12 then .error 0x14
    else .ok (i, .update [(64 * i, reseal (putAt r 0 [2]))] [] [(c, cDONE, leBytes 4 i)])

/-- The next move of REG_COMPACT (R311): an IN_USE record of the stripe and the first TOMB before it in its chain. -/
def compactNext (d : Dev) (stripe : Nat) : Option (Nat × Nat) :=
  (upTo 4096).findSome? fun x =>
    let i := stripe * 4096 + x
    let r := d.regRecord i
    if recState r = 1 then
      let home := homeIndex (recKey r)
      let dist := (i + registrySize - home) % registrySize
      ((upTo (min dist 128)).map fun j => (home + j) % registrySize).findSome? fun t =>
        if t / 4096 = stripe && recState (d.regRecord t) = 2 then some (i, t) else none
    else none

/-- POLICY_SET (R325): the class's entry inside the SERVICE record of type 0x0002. -/
def buildPolicy (c : SvcCmd) (d : Dev) : Built :=
  let cls := le16At c.payload 0
  let all := ((upTo 256).map fun k => if k = cls then (c.payload.drop 2).take 8 else d.policy k).flatten
  .update [(serviceAt 2, leBytes 2 2 ++ leBytes 2 2048 ++ leBytes 2 0 ++ [0, 0] ++ all)] [] [(c, cDONE, [])]

/-- CONFIG_SET (R327). -/
def buildConfig (c : SvcCmd) : Built :=
  .update [(serviceAt (le16At c.payload 0), c.payload)] [] [(c, cDONE, [])]

/-- Whether the runtime writes an audit entry beside a change of the registry or of a key, which the spec does not say: a free
value; its DETAIL is free too (assumption 16). -/
def maybeAudit (typ rec_ : Nat) (d : Dev) : Option AuditJob × Dev :=
  let r := d.free
  (if r.1 % 2 = 1 then some { typ := some typ, berth := none, record := rec_, detail := none } else none, r.2)

/-- Add an audit entry to a record. -/
def Built.audited (b : Built) (a : Option AuditJob) (d : Dev) : Option Built × Dev :=
  let x := auditOf a d
  (some { b with entries := b.entries ++ x.1, events := b.events ++ x.2.1 }, x.2.2)

/-- A command that changes persistent state: its record, or its reply where it is refused. -/
def buildCmd (c : SvcCmd) (d : Dev) : Option Built × Dev :=
  if c.code = 0x21 then
    match buildPut c d with
    | .error e => (none, replyApplied c e [] d)
    | .ok b =>
      let i := ((b.entries.map (·.1)).headD 0) / 64
      let a := maybeAudit 2 i (d.modSv fun s => { s with todo := s.todo.filter fun w => (w.refreshOf i).isNone })
      b.audited a.1 a.2
  else if c.code = 0x22 then
    match buildDelete c d with
    | .error e => (none, replyApplied c e [] d)
    | .ok (i, b) =>
      let d := d.modSv fun s => { s with held := s.held.filter (·.1 ≠ i), todo := s.todo.filter fun w => (w.refreshOf i).isNone }
      let a := maybeAudit 2 i d
      b.audited a.1 a.2
  else if c.code = 0x30 then (some (buildPolicy c d), d)
  else if c.code = 0x61 then (some (buildConfig c), d)
  else (none, d)

/-- The words of a Pontoon command that the runtime posts (R183). -/
def postCmd (n : Nat) (ws : List Word) (d : Dev) : Dev := d.each ws fun w => pcmdWord .pilot n w

/-- The exchange of a tag write (R320): EXCHANGE, or SM_EXCHANGE of the APDU where SECURE is set (R184, R249). -/
def writeCommand (t : TagWrite) : List Word :=
  let data := t.cmd.payload.drop 4
  if u8At t.cmd.payload 2 = 0 then
    let args := packW [(28, 4, t.ctx), (0, 16, data.length)] :: bytesToWords data
    packW [(24, 8, 0x03), (16, 8, args.length), (0, 16, t.tag)] :: args
  else
    let lc := if data.length ≤ 5 then 0 else u8At data 4
    let body := (data.drop 5).take lc
    let le := if data.length = 5 then (if u8At data 4 = 0 then 256 else u8At data 4)
      else if 5 + lc < data.length then (if u8At data (5 + lc) = 0 then 256 else u8At data (5 + lc)) else 0
    let args := [packW [(28, 4, t.ctx), (0, 16, body.length)],
      packW [(24, 8, u8At data 0), (16, 8, u8At data 1), (8, 8, u8At data 2), (0, 8, u8At data 3)], packW [(0, 9, le)]]
      ++ bytesToWords body
    packW [(24, 8, 0x11), (16, 8, args.length), (0, 16, t.tag)] :: args

/-- The record, or the direct effect, of a piece of work. -/
def buildWork (w : Work) (d : Dev) : Option Built × Dev :=
  match w with
  | .audit a => let x := auditOf (some a) d; (some (.update x.1 x.2.1 []), x.2.2)
  | .sight i s sticky a =>
    let r := d.regRecord i
    if recState r ≠ 1 then
      match a with
      | some _ => let x := auditOf a d; (some (.update x.1 x.2.1 []), x.2.2)
      | none => (none, d)
    else
      let r := sightRecord r d.hawserAddr s
      recordUpdate i (if sticky then putAt r 0x12 (leBytes 2 (le16At r 0x12 ||| 4)) else r) a d
  | .refresh i s =>
    let r := d.regRecord i
    if recState r ≠ 1 then (none, d)
    else if d.sv.todo.any (·.puts (recKey r)) then (none, d.owe (.refresh i s))
    else recordUpdate i (sightRecord r (le16At r 0x1A) s) none d
  | .absent i a =>
    let r := d.regRecord i
    if recState r ≠ 1 then (none, d) else recordUpdate i (putAt r 0x1F [2]) (some a) d
  | .cmd c => buildCmd c d
  | .compact c stripe moved =>
    match compactNext d stripe with
    | none => (none, replyApplied c cDONE (leBytes 4 moved) d)
    | some (i, t) =>
      let r := d.regRecord i
      (some (.update [(64 * t, r), (64 * i, reseal (putAt r 0 [2]))] [] []),
        d.modSv fun s => { s with todo := .compact c stripe (moved + 1) :: s.todo })
  | .intent c i =>
    match (upTo 192).find? fun k => d.intentState k ≠ 1 with
    | none => (none, replyApplied c cBUSY [] d)
    | some slot =>
      let tag := d.sv.nextTag
      let d := d.modSv fun s => { s with nextTag := (tag + 1) % 65536 }
      let ch := u8At c.payload 0
      let ctx := u8At c.payload 1
      (some { kind := 2, entries := [(intentAt slot, intentBytes 1 ch ctx 0 c.tag i d.bootSeq)], events := [], replies := [],
              post := some ⟨slot, ch, ctx, tag, c, []⟩ }, d)
  | .outcome slot code c data a =>
    let old := d.vread (intentAt slot) 32
    let x := auditOf (some a) d
    (some { kind := 3, entries := (intentAt slot, putAt (putAt old 0 [2]) 3 [BitVec.ofNat 8 code]) :: x.1, events := x.2.1,
            replies := (c.toList.map fun c => (c, code, data)), post := none }, x.2.2)
  | .keys c =>
    let d := d.lower CY_KSTATUS_DIRTY
    (some (.update (keyEntries d) [] (c.toList.map fun x => (x.1, cDONE, leBytes 4 x.2.1 ++ x.2.2))), d)
  | .tables berth start =>
    let now := (upTo 1536).filter fun b => berth ≤ b &&
      ((d.table b).isSome || u8At (d.vread (tableAt b) 1) 0 % 2 = 1)
    let part := now.take 200
    let es := part.map fun b => (tableAt b, match d.table b with
      | some t => tableBytes t
      | none => leBytes 8 0)
    let rest := now.drop 200
    let d := if rest.isEmpty then (if d.ts.tables = start then d.lower TS_STATUS_NB_DIRTY else d)
      else d.modSv fun s => { s with todo := .tables (rest.headD 0) start :: s.todo }
    if es.isEmpty then (none, d) else (some (.update es [] []), d)
  | .image k =>
    let bs := d.dirtyBlocks k
    if bs.isEmpty then (none, d)
    else
      let es := bs.map fun b => (imagesAt + k * 65536 + b * 256, Memory.read d.shadow (k * 65536 + b * 256) 256)
      let d := d.each bs fun b d => d.clearBit (CE_INST_DIRTY_BLOCKS k (b / 32)) (b % 32)
      (some (.update es [] []), d)
  | .count => (some (.update [(controlAt + 0x18, leBytes 4 (d.rd CL_COUNT_COUNT))] [] []), d.lower CL_STATUS_COUNT_DIRTY)

/-- May the runtime start or finish a record now (R72, R73)? -/
def Dev.mayCommit (d : Dev) : Bool :=
  d.runtime && !d.power.fence && (!d.on PW_STATUS_PFAIL || d.sv.begun)

/-- The oldest piece of work becomes a journal record, and its COMMIT is stored (R315 steps 1 and 2): from here its events are
released (R14, R326). A record that does not fit in free space waits (R315). -/
def journalCommit (d : Dev) : Dev :=
  if !d.mayCommit then d
  else
    match d.sv.todo with
    | [] => d
    | w :: rest =>
      match buildWork w (d.modSv fun s => { s with todo := rest }) with
      | (none, d') => d'
      | (some b, d') =>
        if !d.journalFits (recordLen b.entries) then d.modSv fun s => { s with waitAt := some (s.waitAt.getD d.ns) }
        else
          let d' := commitRecord b.kind b.entries b.replies b.post (d'.modSv fun s => { s with begun := false, waitAt := none })
          d'.each b.events fun ws => (·.post 24 0x30 ws)

/-- The command that a piece of work serves. -/
def Work.command (w : Work) : Option SvcCmd :=
  match w with
  | .cmd c | .compact c _ _ | .intent c _ => some c
  | .keys (some c) => some c.1
  | _ => none

/-- A command has waited 50 ms for journal space (R315). -/
def journalWaitExpiry (d : Dev) : Dev :=
  if !d.mayCommit then d
  else
    match d.sv.todo with
    | [] => d
    | w :: rest =>
      match w.command, buildWork w (d.modSv fun s => { s with todo := rest }) with
      | some c, (some b, _) =>
        if d.journalFits (recordLen b.entries) then d
        else
          let d := d.reach (d.sv.waitAt.getD d.ns + 50000000)
          replyApplied c 0x13 [] (d.modSv fun s => { s with todo := rest, waitAt := none })
      | _, _ => d

/-- The applier copies the oldest committed record to its targets, then advances APPLIED_SEQ and TAIL (R315 steps 3 to 5). -/
def journalApply (d : Dev) : Dev :=
  if !d.runtime || d.power.fence then d
  else
    match d.sv.committed with
    | [] => d
    | r :: rest =>
      let d := { d with mem := applyEntries d.mem r.entries }
      let d := mramWrite (controlAt + 8) (leBytes 4 r.next ++ leBytes 4 0) (mramWrite controlAt (leBytes 8 r.seq) d)
      let d := (d.wr SV_APPLIED_SEQ r.seq).modSv fun s => { s with committed := rest }
      let d := d.each r.replies fun x => reply x.1 x.2.1 x.2.2
      match r.post with
      | none => d
      | some t => (postCmd t.ch (writeCommand t) d).modSv fun s => { s with writes := s.writes ++ [t] }

/-! Sightings and verdicts (R312, R313, R325). -/

/-- The DETAIL of a verdict: verdict, CONF1, BERTH2, identifier (R326; its layout is assumption 15). -/
def verdictDetail (v : Nat) (s : Sighting) : List Byte :=
  [BitVec.ofNat 8 v, BitVec.ofNat 8 s.conf] ++ leBytes 2 s.berth2 ++ s.key.drop 1 ++ zeros 14

/-- The audit entry of a verdict. -/
def verdictAudit (v rec_ : Nat) (s : Sighting) : AuditJob :=
  { typ := some 1, berth := some s.berth, record := rec_, detail := some (verdictDetail v s) }

/-- The verdict for a sighting (R325): the rows from the bottom upward, the first that applies. Where no row applies the spec
states none: a free value. -/
def verdictOf (s : Sighting) (r : Option (List Byte)) (authOk : Bool) (d : Dev) : Nat × Dev :=
  match r with
  | none => (if s.twin then 8 else 5, d)
  | some r =>
    let mode := u8At (d.policy (le16At r 0x10)) 0
    let home := s.berth = le16At r 0x18 && d.hawserAddr = le16At r 0x16
    if s.twin then (8, d)
    else if !authOk then (7, d)
    else if bit (le16At r 0x12) 1 then (6, d)
    else if s.conf < 128 || s.berth2 ≠ 0x7FF then (4, d)
    else if home then (1, d)
    else if mode = 2 || (mode = 1 && d.hawserAddr = le16At r 0x16) then (3, d)
    else if mode = 0 && s.berth ≠ le16At r 0x18 then (2, d)
    else let x := d.free; (x.1 % 256, x.2)

/-- Is a sighting's authentication required: AUTH_REQ of the record or of its class (R325)? -/
def Dev.authReq (d : Dev) (r : List Byte) : Bool := bit (le16At r 0x12) 0 || bit (u8At (d.policy (le16At r 0x10)) 3) 0

/-- The verdict is issued; the record, the refresh held for it and the audit entry follow (R312, R313, R325). -/
def decide_ (i : Option Nat) (s : Sighting) (authOk : Bool) (d : Dev) : Dev :=
  let r := i.map d.regRecord
  let x := verdictOf s r authOk d
  let v := x.1
  let d := x.2
  let known := (d.sv.verdicts.find? (·.1 = s.key)).map (·.2)
  let d := d.modSv fun st => { st with verdicts := st.verdicts.filter (·.1 ≠ s.key) ++ [(s.key, v)] }
  match i, r with
  | some i, some r =>
    let notify := bit (le16At r 0x12) 3 || bit (u8At (d.policy (le16At r 0x10)) 3) 1
    let a := if known ≠ some v || u8At r 0x1F ≠ 1 || notify then some (verdictAudit v i s) else none
    let sticky := s.twin && !bit (le16At r 0x12) 2
    let major := le16At r 0x1A ≠ d.hawserAddr || le16At r 0x1C ≠ s.berth || u8At r 0x1F ≠ 1 || sticky
    let old := (d.sv.held.find? (·.1 = i)).map (·.2)
    let s := { s with count := s.count + ((old.map (·.count)).getD 0) }
    let d := d.modSv fun st => { st with held := st.held.filter (·.1 ≠ i) }
    if major || d.coalesceMs = 0 then d.owe (.sight i s sticky a)
    else
      let d := d.modSv fun st => { st with held := st.held ++ [(i, s)] }
      match a with
      | some a => d.owe (.audit a)
      | none => d
  | _, _ => if known ≠ some v then d.owe (.audit (verdictAudit v 0xFFFFFFFF s)) else d

/-- The runtime takes a TAG item (R312, R325); where the record asks for it, it first runs AUTH with the record's key. -/
def onTag (ch : Nat) (ws : List Word) (d : Dev) : Dev :=
  let w0 := wordAt ws 0
  let id := wordsToBytes ((ws.drop 1).take 3)
  let key := BitVec.ofNat 8 (bits w0 31 28 * 16 + bits w0 27 24) :: id.take 10
  let s : Sighting :=
  { key := key, berth := bits (wordAt ws 6) 26 16, conf := bits (wordAt ws 6) 7 0,
    berth2 := bits (wordAt ws 7) 26 16, twin := bit w0 11, ch := ch, ctx := bits w0 23 20,
    stamp := wordsToBytes ((ws.drop 13).take 3), count := 1 }
  match (d.lookup key).1 with
  | none => decide_ none s true d
  | some i =>
    let r := d.regRecord i
    if !d.authReq r then decide_ (some i) s true d
    else if s.ctx = 15 || u8At r 0x14 = 0xFF || 16 ≤ (d.chan ch).queue.length then decide_ (some i) s false d
    else
      let tag := d.sv.nextTag
      let d := d.modSv fun st => { st with nextTag := (tag + 1) % 65536, auths := st.auths ++ [(tag, i, s)] }
      postCmd ch [packW [(24, 8, 0x10), (16, 8, 1), (0, 16, tag)],
        packW [(28, 4, s.ctx), (16, 6, u8At r 0x14), (8, 8, u8At r 0x15)]] d

/-- The data of an EXCHANGE item (R204): behind the reply records. -/
def exchangeData (first : Bool) (ws : List Word) : List Byte :=
  let n := if first then 8 * min (bits (wordAt ws 1) 15 8) 4 else 0
  let rest := ws.drop (5 + n)
  (wordsToBytes (rest.drop 1)).take (bits (wordAt rest 0) 15 0)

/-- The runtime takes an EXCHANGE item: the end of an AUTH that it asked for (R325), or of a tag write (R320). -/
def onExchange (ch : Nat) (ws : List Word) (d : Dev) : Dev :=
  let tag := bits (wordAt ws 0) 15 0
  let code := bits (wordAt ws 0) 23 16
  let more := bit (wordAt ws 1) 7
  match d.sv.auths.find? (fun x => x.1 == tag && x.2.2.ch == ch), d.sv.writes.find? (fun t => t.tag == tag && t.ch == ch) with
  | some (_, i, s), _ =>
    if more then d
    else decide_ (some i) s (code == cDONE) (d.modSv fun st => { st with auths := st.auths.filter (·.1 ≠ tag) })
  | none, some t =>
    let t' := { t with data := t.data ++ exchangeData t.data.isEmpty ws }
    let d := d.modSv fun st => { st with writes := st.writes.filter (· ≠ t) }
    if more then d.modSv fun st => { st with writes := st.writes ++ [t'] }
    else
      d.owe (.outcome t.slot code (some t.cmd) t'.data
        { typ := none, berth := none, record := le32At (d.vread (intentAt t.slot) 32) 8, detail := none })
  | none, none => d

/-- The instant of a 96-bit timestamp in ns (R334). -/
def stampNs (bs : List Byte) : Nat := (le32At bs 4 + 2 ^ 32 * (le16At bs 10)) * 1000000000 + le32At bs 0 % 2 ^ 30

/-- A held refresh falls due COALESCE_MS after the last sighting that the record's journalled state tells of (R313). -/
def coalesceTimer (d : Dev) : Dev :=
  if !d.runtime then d
  else
    match d.sv.held with
    | [] => d
    | (i, s) :: rest =>
      let last := stampNs (((d.regRecord i).drop 0x20).take 12)
      ((d.reach (last + d.coalesceMs * 1000000)).modSv fun st => { st with held := rest }).owe (.refresh i s)

/-- A tag has not been sighted for HOLD_S seconds (R325): absent, verdict ABSENT. -/
def absenceTimeout (i : Nat) (d : Dev) : Dev :=
  if !d.runtime || registrySize ≤ i then d
  else
    let r := d.regRecord i
    let hold := le16At (d.policy (le16At r 0x10)) 1
    if recState r ≠ 1 || u8At r 0x1F ≠ 1 || hold = 0 then d
    else
      let held := (d.sv.held.find? (·.1 = i)).map (·.2)
      let last := match held with
        | some s => s.stamp
        | none => (r.drop 0x20).take 12
      let d := d.reach (stampNs last + hold * 1000000000)
      let s : Sighting := { key := recKey r, berth := le16At r 0x1C, conf := u8At r 0x1E, berth2 := 0x7FF, twin := false, ch := 0,
                            ctx := 15, stamp := last, count := 0 }
      let d := d.modSv fun st => { st with held := st.held.filter (·.1 ≠ i),
                                           verdicts := st.verdicts.filter (·.1 ≠ s.key) ++ [(s.key, 9)] }
      let d := match held with
        | some h => d.owe (.refresh i h)
        | none => d
      d.owe (.absent i (verdictAudit 9 i s))

/-! Which commands are served (R97, R321 to R323). -/

/-- The codes of R97. -/
def bareCode (code : Nat) : Bool := [0x01, 0x02, 0x10, 0x11, 0x12, 0x1F].contains code

/-- The codes that the runtime serves (R97, R323). -/
def listedCode (code : Nat) : Bool :=
  bareCode code || [0x20, 0x21, 0x22, 0x23, 0x24, 0x25, 0x26, 0x30, 0x31, 0x38, 0x39, 0x40, 0x48, 0x50, 0x58, 0x60, 0x61].contains code

/-- Does the boot ROM serve the mailbox in Bare deck (R97)? -/
def Dev.bareServes (d : Dev) : Bool := d.coreRuns && d.on GC_BOOT_BARE && d.boot.phase == .bare && !d.fd.handling

/-- Is a path served now, with nothing under way on it (R322)? -/
def Dev.pathServed (d : Dev) (v : Via) : Bool :=
  (d.runtime || (v == .mailbox && d.bareServes)) && !d.sv.running.any (·.via = v)

/-- Commands at the front of a path whose code is not served complete REFUSED (R97). -/
def refuseUnlisted (v : Via) : Nat → Dev → Dev
  | 0, d => d
  | n + 1, d =>
    if !d.pathServed v then d
    else
      match d.sv.waiting.find? (·.via = v) with
      | none => d
      | some c =>
        if (if d.runtime then listedCode c.code else bareCode c.code) then d
        else refuseUnlisted v n (reply c cREFUSED [] (d.modSv fun s => { s with waiting := s.waiting.erase c }))

/-- Every path's commands that are refused for their code are answered. -/
def settleServices (d : Dev) : Dev :=
  d.each [.mailbox, .queue, .ecall 0, .ecall 1, .ecall 2, .ecall 3] fun v d => refuseUnlisted v d.sv.waiting.length d

/-! The saves (R210, R243, R282, R436). -/

/-- KEY_BLOB_SAVE (R243). -/
def keyBlobSave (d : Dev) : Dev :=
  if d.runtime && d.on CY_KSTATUS_DIRTY && !d.sv.todo.any (fun w => match w with | .keys _ => true | _ => false)
  then d.owe (.keys none) else d

/-- NB_TABLE_SAVE (R210). -/
def nbTableSave (d : Dev) : Dev :=
  if d.runtime && d.on TS_STATUS_NB_DIRTY && !d.sv.todo.any (fun w => match w with | .tables _ _ => true | _ => false)
  then d.owe (.tables 0 d.ts.tables) else d

/-- EMU_IMAGE_PERSIST (R282). -/
def emuImagePersist (k : Nat) (d : Dev) : Dev :=
  if d.runtime && !(d.dirtyBlocks k).isEmpty then d.owe (.image k) else d

/-- CAL_COUNT_JOURNAL (R436). -/
def calCountJournal (d : Dev) : Dev :=
  if d.runtime && d.on CL_STATUS_COUNT_DIRTY then d.owe .count else d

/-! The runtime's start (step 10 of R76). -/

/-- The saved blobs fill the key slots, unless they are of another epoch, which is a tamper discovered (R243). -/
def restoreKeys (d : Dev) : Dev :=
  let saved := (upTo 64).filter fun s => le32At (d.vread (blobAt s) 8) 0 = 1
  if leNat (d.vread savedEpochAt 8) ≠ d.epoch then
    audit { typ := some 3, berth := none, record := 0xFFFFFFFF, detail := none } d
  else
    d.each saved fun s d =>
      let b := d.vread (blobAt s + 8) 64
      keyCommand 0x08 { slot := s, kek := 0, len := u8At b 2, attr := u8At b 1 }
        (d.modCy fun c => { c with inp := bytesToWords b })

/-- The saved neighbour tables are written back and committed (R210). -/
def restoreTables (d : Dev) : Dev :=
  let ts := (upTo 1536).filterMap fun b => parseTable b (d.vread (tableAt b) tablePlace)
  if ts.isEmpty then d else { d.raise TS_STATUS_NB_VALID with ts := { d.ts with tables := ts } }

/-- The images of the placed instances are loaded into the shadow (R274). -/
def restoreImages (d : Dev) : Dev :=
  let base := mramBase + imagesAt
  { d with shadow := (d.mview.filter fun c => base ≤ c.1 && c.1 < base + 0x80000
      && (d.ceChan ((c.1 - base) / 65536)).isSome).map fun c => (c.1 - base, c.2) }

/-- Each intent slot still OPEN closes as INDETERMINATE (R320). -/
def closeIntents (d : Dev) : Dev :=
  let left := (upTo 192).filter fun k => d.intentState k = 1
  let d := d.wr SV_RECOV_INDET left.length
  d.each left fun k d =>
    let b := d.vread (intentAt k) 32
    d.owe (.outcome k 0x15 none [] { typ := some 5, berth := none, record := le32At b 8, detail := some (b.drop 1) })

/-- Core 0 enters the runtime, and cores 1 to 3 the programs that name them (R76, R89, R328). The runtime's version number is
not stated: a free value. -/
def runtimeStart (d : Dev) : Dev :=
  let r := d.free
  let d := ((r.2.wr SV_RUNTIME_STATE 2).wr SV_RUNTIME_VERSION r.1).wr GC_BOOT_STAGE 7
  let d := { d with boot := { d.boot with phase := .runtime } }
  let progs := match d.boot.manifest with
    | some m => m.programs
    | none => []
  let d := d.modSv fun s => { s with cores := Vector.ofFn fun k : Fin 4 =>
    ((progs.find? fun p => p.kind = 2 && bit p.cores k.val).map (·.entry)) }
  let d := closeIntents (restoreImages (restoreTables (restoreKeys d)))
  if d.on SV_RECOV_ECC_STOP then
    audit { typ := some 6, berth := none, record := 0xFFFFFFFF, detail := some (leBytes 4 (d.rawWord 0x34020) ++ leBytes 8 d.bootSeq) } d
  else d

/-! The meanings of the rows of this family. -/

/-- KEY_BLOB_SAVE (R243): While CY_KSTATUS.DIRTY is set, the runtime saves every occupied slot's blob and the epoch through the journal and clears DIRTY. -/
def execKeyBlobSave (s : State) : Host.Outcome State Fault Refusal :=
  s.act (Machine.keyBlobSave)

/-- EMU_IMAGE_PERSIST (R282): The runtime journals dirty shadow blocks to the MRAM image in CSEQ order and clears their dirty bits. -/
def execEmuImagePersist (k : Fin 8) (s : State) : Host.Outcome State Fault Refusal :=
  s.act (Machine.emuImagePersist k.val)

/-- JOURNAL_COMMIT (R315): A journal record is fully written and its COMMIT word stored, after which its events may be released. -/
def execJournalCommit (s : State) : Host.Outcome State Fault Refusal :=
  s.act (fun d => settleServices (Machine.journalCommit d))

/-- JOURNAL_WAIT_EXPIRY (R315): A command has waited 50 ms for journal space and completes JOURNAL_BUSY. -/
def execJournalWaitExpiry (s : State) : Host.Outcome State Fault Refusal :=
  s.act (fun d => settleServices (Machine.journalWaitExpiry d))

/-- COALESCE_TIMER (R313): COALESCE_MS elapses and a held sighting refresh is journalled. -/
def execCoalesceTimer (s : State) : Host.Outcome State Fault Refusal :=
  s.act (Machine.coalesceTimer)

/-- ABSENCE_TIMEOUT (R325): A tag has not been sighted for HOLD_S seconds, changes to absent and gets verdict ABSENT. -/
def execAbsenceTimeout (rec : Nat) (s : State) : Host.Outcome State Fault Refusal :=
  s.act (Machine.absenceTimeout rec)

/-- NB_TABLE_SAVE (R210): While NB_DIRTY is set, the runtime saves the neighbour tables and reference levels through the journal and clears NB_DIRTY. -/
def execNbTableSave (s : State) : Host.Outcome State Fault Refusal :=
  s.act (Machine.nbTableSave)

/-- CAL_COUNT_JOURNAL (R436): While COUNT_DIRTY is set, the runtime journals CL_COUNT and clears the flag. -/
def execCalCountJournal (s : State) : Host.Outcome State Fault Refusal :=
  s.act (Machine.calCountJournal)

end Sys2Proof.Machine
end

