-- ==== Sys2Proof/Machine/Services.lean ====
section
/-!
DEFINITION. The service commands (R321 to R328): their arrival through the mailbox, Q26 and ECALL, the commands that the
runtime alone serves, and the items that the runtime takes from the queues (R287, R312, R320).
-/

namespace Sys2Proof.Machine

/-! Arrival (R321, R328, R331). -/

/-- A command whose words are complete waits for its turn. -/
def arrive (c : SvcCmd) (d : Dev) : Dev := settleServices (d.modSv fun s => { s with waiting := s.waiting ++ [c] })

/-- The command that the words of an item spell, header first (R321). -/
def svcOfWords (via : Via) (ws : List Word) : SvcCmd :=
  let plen := bits (wordAt ws 2) 15 0
  { via := via, code := bits (wordAt ws 1) 31 16, tag := bits (wordAt ws 1) 15 0,
    payload := (wordsToBytes (ws.drop 3)).take plen,
    lenOk := decide (3 ≤ ws.length) && bits (wordAt ws 0) 31 24 == 0x50 && decide (plen ≤ 1012)
      && ws.length == 3 + (plen + 3) / 4 && bits (wordAt ws 0) 23 15 == ws.length,
    buf := (0, 0) }

/-- A word written to SV_MBOX_IN (R331). -/
def mboxWord (p : Path) (w : Word) (d : Dev) : Dev :=
  if d.on SV_MBOX_STATUS_BUSY then (d.errLocked p 0x34010).raise SV_MBOX_STATUS_OVERFLOW
  else
    let ws := d.sv.mboxIn ++ [w]
    if ws.length < bits (wordAt ws 0) 23 15 then d.modSv fun s => { s with mboxIn := ws }
    else arrive (svcOfWords .mailbox ws) ((d.modSv fun s => { s with mboxIn := [] }).raise SV_MBOX_STATUS_BUSY)

/-- A read of SV_MBOX_OUT (R331). -/
def mboxRead (p : Path) (d : Dev) : Dev :=
  match d.sv.mboxOut with
  | [] => d.give p [0]
  | w :: rest =>
    let d := (d.modSv fun s => { s with mboxOut := rest }).give p [w]
    if rest.isEmpty then (d.lower SV_MBOX_STATUS_OUT_READY).lower SV_MBOX_STATUS_BUSY else d

/-- ECALL on a core that a customer program runs on (R328): the command's payload is read where the registers point. -/
def serviceEcall (core : Fin 4) (code addr plen buf size : Nat) (d : Dev) : Dev :=
  let via := Via.ecall core
  if !d.runtime || (vget d.sv.cores core.val none).isNone || (d.sv.waiting ++ d.sv.running).any (·.via = via) then d
  else
    arrive { via := via, code := code, tag := 0, payload := Memory.read d.mem addr (min plen 1012), lenOk := decide (plen ≤ 1012),
             buf := (buf, size) }
      (d.modSv fun s => { s with ecall := vmod s.ecall core.val fun _ => none })

/-! The runtime as a consumer (R287, R312, R320, R321). -/

/-- The runtime takes one item, header first; markers carry nothing for it. While it is the consumer of Q24, it forwards each item on the
routes of SERVICE record 0x0003 (R326), whose layout and framing the spec does not give (assumption 17). -/
def runtimeItem (i : Nat) (ws : List Word) (d : Dev) : Dev :=
  let typ := bits (wordAt ws 0) 31 24
  if bit (wordAt ws 0) 14 then d
  else if i = 26 && typ = 0x50 then arrive (svcOfWords .queue ws) d
  else if i = 24 && (d.serviceRecord 3).isSome then d.modSv fun s => { s with forwarded := ws }
  else if i < 24 && typ = 0x22 then onTag i (ws.drop 1) d
  else if i < 24 && typ = 0x23 then onExchange i (ws.drop 1) d
  else d

/-- The runtime takes what Pilot has popped whole of queue `i`. -/
def runtimeTakes (i : Nat) : Nat → Dev → Dev
  | 0, d => d
  | n + 1, d =>
    let ws := d.taken i
    let len := max 1 (bits (wordAt ws 0) 23 15)
    if ws.length < len || !d.runtime then d
    else runtimeTakes i n (runtimeItem i (ws.take len) (d.setTaken i (ws.drop len)))

/-- A pop by Pilot's path, and what the runtime makes of it. -/
def popAndTake (p : Path) (i : Nat) (d : Dev) : Dev :=
  let d := onPort 0x20000 p (popBurst p i 1) d
  runtimeTakes i (d.taken i).length d

/-! Serving (R322, R323). -/

/-- The payload lengths that a command takes, in bytes: least and greatest. A length outside completes RANGE (R321). -/
def payloadLens (code : Nat) : Nat × Nat :=
  match code with
  | 0x10 => (8, 8)
  | 0x11 => (12, 12)
  | 0x1F => (1, 1012)
  | 0x20 => (12, 12)
  | 0x21 => (38, 38)
  | 0x22 => (16, 16)
  | 0x23 => (12, 12)
  | 0x25 => (2, 2)
  | 0x26 => (8, 8)
  | 0x30 => (10, 10)
  | 0x31 => (2, 2)
  | 0x38 => (9, 9)
  | 0x40 => (2, 2)
  | 0x48 => (4, 1012)
  | 0x50 => (4, 1012)
  | 0x58 => (16, 16)
  | 0x60 => (2, 2)
  | 0x61 => (8, 1012)
  | _ => (0, 0)

/-- Serve the next command of a path, where it is the one with this code (R322). -/
def serve (via : Via) (code : Nat) (f : SvcCmd → Dev → Dev) (d : Dev) : Dev :=
  if !d.pathServed via then d
  else
    match d.sv.waiting.find? (·.via = via) with
    | none => d
    | some c =>
      if c.code ≠ code || !(d.runtime || bareCode code) then d
      else
        let d := d.modSv fun s => { s with waiting := s.waiting.erase c, running := s.running ++ [c] }
        let n := c.payload.length
        settleServices
          (if !c.lenOk || n < (payloadLens code).1 || (payloadLens code).2 < n then reply c cRANGE [] d else f c d)

/-! The registry's read commands (R310, R311, R323). -/

/-- REG_LOOKUP. -/
def regLookup (c : SvcCmd) (d : Dev) : Dev :=
  match (d.lookup (c.payload.take 11)).1 with
  | none => replyApplied c 0x11 [] d
  | some i => replyApplied c cDONE (leBytes 4 i ++ d.regRecord i) d

/-- Are the fields of a REG_PUT in the ranges of R310, and does a home berth on this device exist (R7)? -/
def putFieldsOk (d : Dev) (f : List Byte) : Bool :=
  decide (le16At f 0 ≤ 255) && decide (le16At f 2 < 16) && (decide (u8At f 4 < 64) || u8At f 4 == 0xFF)
    && decide (le16At f 6 ≤ 4095) && (decide (le16At f 8 ≤ 1535) || le16At f 8 == 0x7FF)
    && (le16At f 8 == 0x7FF || le16At f 6 != d.hawserAddr || d.berthExists (le16At f 8))

/-- REG_PUT, REG_DELETE and the other commands that a journal record carries out wait for it. -/
def byJournal (ok : SvcCmd → Bool) (c : SvcCmd) (d : Dev) : Dev := if ok c then d.owe (.cmd c) else reply c cRANGE [] d

/-- Is a key of 12 bytes well formed: PROTO of R184, at most 10 bytes, unused bytes and the padding 0 (R310, R323)? -/
def keyOk (k : List Byte) : Bool :=
  let p := u8At k 0 / 16
  let n := u8At k 0 % 16
  decide (1 ≤ p && p ≤ 4 && n ≤ 10) && ((k.drop (1 + n)).all (· == 0))

/-- REG_PUT. -/
def regPut (c : SvcCmd) (d : Dev) : Dev := byJournal (fun c => keyOk (c.payload.take 12) && putFieldsOk d (c.payload.drop 16)) c d

/-- Does a record match a REG_QUERY? -/
def queryMatch (q r : List Byte) : Bool :=
  recState r == 1 && (le16At q 6 == 0xFFFF || le16At q 6 == le16At r 0x10)
    && (le16At q 8 == 0x7FF || le16At q 8 == le16At r 0x1C) && (u8At q 10 == 0xFF || u8At q 10 == u8At r 0x1F)

/-- The scan of a REG_QUERY: fuel, index, matches still wanted; the matches, and where a further query resumes. -/
def queryScan (d : Dev) (q : List Byte) : Nat → Nat → Nat → List Nat × Nat
  | 0, i, _ => ([], i)
  | n + 1, i, want =>
    if want = 0 || registrySize ≤ i then ([], i)
    else if queryMatch q (d.regRecord i) then
      let r := queryScan d q n (i + 1) (want - 1)
      (i :: r.1, r.2)
    else queryScan d q n (i + 1) want

/-- REG_QUERY. A berth that it names must exist (R7): the runtime records sightings at its own berths (R312). -/
def regQuery (c : SvcCmd) (d : Dev) : Dev :=
  let q := c.payload
  let limit := le16At q 4
  if limit = 0 then reply c cEMPTY [] d
  else if 14 < limit || registrySize ≤ le32At q 0 || (le16At q 8 ≠ 0x7FF && !d.berthExists (le16At q 8)) then reply c cRANGE [] d
  else
    let r := queryScan d q 65536 (le32At q 0) limit
    let next := if registrySize ≤ r.2 then 0xFFFFFFFF else r.2
    replyApplied c cDONE (leBytes 2 r.1.length ++ [0, 0] ++ leBytes 4 next
      ++ (r.1.map fun i => leBytes 4 i ++ d.regRecord i).flatten) d

/-- Probes that a lookup of the record at `i` takes (R311). -/
def probesOf (d : Dev) (i : Nat) : Nat := (i + registrySize - homeIndex (recKey (d.regRecord i))) % registrySize + 1

/-- REG_STATS. -/
def regStats (c : SvcCmd) (d : Dev) : Dev :=
  let used := (upTo registrySize).filter fun i => recState (d.regRecord i) = 1
  let tomb := (upTo registrySize).filter fun i => recState (d.regRecord i) = 2
  let chain := used.foldl (fun m i => max m (probesOf d i)) 0
  replyApplied c cDONE (leBytes 4 used.length ++ leBytes 4 tomb.length ++ leBytes 2 chain ++ [0, 0]) d

/-- REG_COMPACT (R311): its moves travel one by one in journal records. -/
def regCompact (c : SvcCmd) (d : Dev) : Dev :=
  let stripe := le16At c.payload 0
  if 255 < stripe then reply c cRANGE [] d else d.owe (.compact c stripe 0)

/-- REG_SCRUB. -/
def regScrub (c : SvcCmd) (d : Dev) : Dev :=
  let start := le32At c.payload 0
  let n := le32At c.payload 4
  if n = 0 || 65536 < n || registrySize < start + n then reply c cRANGE [] d
  else
    let bad := ((upTo n).map (start + ·)).filter fun i => !checkOk (d.regRecord i)
    replyApplied c cDONE ((bad.take 200).map (leBytes 4)).flatten d

/-! Policy and audit (R325, R326). -/

/-- POLICY_GET. -/
def policyGet (c : SvcCmd) (d : Dev) : Dev :=
  let k := le16At c.payload 0
  if 255 < k then reply c cRANGE [] d else replyApplied c cDONE (d.policy k) d

/-- AUDIT_HEAD, and the oldest index that the ring holds. -/
def Dev.auditHead (d : Dev) : Nat := leNat (d.vread (controlAt + 0x10) 8)
def Dev.auditOldest (d : Dev) : Nat := d.auditHead - auditSlots

/-- AUDIT_READ. -/
def auditRead (c : SvcCmd) (d : Dev) : Dev :=
  let from_ := leNat (c.payload.take 8)
  let n := u8At c.payload 8
  if n = 0 || 15 < n then reply c cRANGE [] d
  else
    let first := max from_ d.auditOldest
    let is := ((upTo n).map (first + ·)).filter (· < d.auditHead)
    replyApplied c (if from_ < d.auditOldest then 0x16 else cDONE)
      (is.map fun i => d.vread (auditAt + 64 * (i % auditSlots)) 64).flatten d

/-- AUDIT_HEAD. -/
def auditHeadCmd (c : SvcCmd) (d : Dev) : Dev :=
  replyApplied c cDONE (leBytes 8 d.auditHead ++ leBytes 8 d.auditOldest) d

/-! Queues, keys, tag writes, programs (R304, R320, R323, R328). -/

/-- QUEUE_CONSUMER (R304): a write of LQn_CFG through the Pilot path. -/
def queueConsumer (c : SvcCmd) (d : Dev) : Dev :=
  let i := u8At c.payload 0
  let v := u8At c.payload 1
  if 32 ≤ i || 2 ≤ v then reply c cRANGE [] d
  else
    let w := d.rawWord (0x21010 + 0x40 * i)
    let refused := v ≠ d.rd (LQN_CFG_CONSUMER i) && (d.q i).mid
    let d := queueCfgWriteCmd .pilot i (nw (w % 2 ^ 31 + v * 2 ^ 31)) d
    reply c (if refused then cREFUSED else cDONE) [] d

/-- A KEY_OP whose key command has ended: its reply, after the save of R243 where a slot changed. -/
def keyOpEnd (c : SvcCmd) (d : Dev) : Dev :=
  let code := d.rd CY_KSTATUS_CODE
  let data := wordsToBytes d.cy.outp
  let d := d.modCy fun s => { s with outp := [] }
  let a := maybeAudit 7 0xFFFFFFFF d
  let d := match a.1 with
    | some j => a.2.owe (.audit j)
    | none => a.2
  if d.on CY_KSTATUS_DIRTY then d.owe (.keys (some (c, code, data)))
  else reply c cDONE (leBytes 4 code ++ data) d

/-- KEY_OP (R238, R239): the runtime writes the input words and the command. -/
def keyOp (c : SvcCmd) (d : Dev) : Dev :=
  if c.payload.length % 4 ≠ 0 then reply c cRANGE [] d
  else if d.on CY_KSTATUS_BUSY then reply c cBUSY [] d
  else
    let w := le32At c.payload 0
    let d := d.each (bytesToWords (c.payload.drop 4)) fun w => kdataWrite .pilot w
    let d := kcmdWrite .pilot (bits w 31 24) (bits w 23 18) (bits w 17 12) (bits w 11 10) (bits w 7 0) d
    if d.on CY_KSTATUS_BUSY then d.modSv fun s => { s with keyOp := some c } else keyOpEnd c d

/-- The key command of a waiting KEY_OP has ended. -/
def keyOpSettle (d : Dev) : Dev :=
  match d.sv.keyOp with
  | none => d
  | some c =>
    if d.on CY_KSTATUS_BUSY || !d.runtime then d
    else settleServices (keyOpEnd c (d.modSv fun s => { s with keyOp := none }))

/-- TAG_WRITE (R320): first its INTENT record. -/
def tagWrite (c : SvcCmd) (d : Dev) : Dev :=
  let ch := u8At c.payload 0
  let j := u8At c.payload 1
  if 24 ≤ ch || 8 ≤ j || 2 ≤ u8At c.payload 2 || u8At c.payload 3 ≠ 0 then reply c cRANGE [] d
  else
    let x := vget (d.chan ch).ctx j Ctx.free
    let key := BitVec.ofNat 8 (x.proto * 16 + x.id.length) :: (x.id ++ zeros 10).take 10
    d.owe (.intent c (((d.lookup key).1).getD 0xFFFFFFFF))

/-- PROGRAM_START (R328). -/
def programStart (c : SvcCmd) (d : Dev) : Dev :=
  let k := u8At c.payload 0
  if k = 0 || 4 ≤ k || (c.payload.drop 1).take 7 != zeros 7 then reply c cRANGE [] d
  else
    let named := match d.boot.manifest with
      | some m => m.programs.any fun p => bit p.cores k
      | none => false
    if named || (vget d.sv.cores k none).isSome then reply c cREFUSED [] d
    else reply c cDONE [] (d.modSv fun s => { s with cores := vmod s.cores k fun _ => some (leNat (c.payload.drop 8)) })

/-- CONFIG_GET (R327). For a type that neither store nor Manifest has, the completion code is not stated: a free value. -/
def configGet (c : SvcCmd) (d : Dev) : Dev :=
  let t := le16At c.payload 0
  match d.serviceRecord t with
  | some (flags, data) =>
    replyApplied c cDONE (leBytes 2 t ++ leBytes 2 data.length ++ leBytes 2 flags ++ [0, 0] ++ data
      ++ zeros (roundUp data.length 4 - data.length)) d
  | none =>
    let r := d.free
    replyApplied c (r.1 % 256) [] r.2

/-- CONFIG_SET (R327, R313). -/
def configSet (c : SvcCmd) (d : Dev) : Dev :=
  let t := le16At c.payload 0
  let len := le16At c.payload 2
  if t = 0 || 4 < t || c.payload.length ≠ 8 + roundUp len 4 || 2 ≤ le16At c.payload 4 || le16At c.payload 6 ≠ 0
      || (t = 1 && 60000 < leNat ((c.payload.drop 8).take len)) then reply c cRANGE [] d
  else if d.forced t then reply c cREFUSED [] d
  else d.owe (.cmd c)

/-! The meanings of the rows of this family. -/

/-- FUSE_BURN_DONE (R245): A fuse burn of a key command completes, after data read-back and VALID burned last. -/
def execFuseBurnDone (ok : Bool) (s : State) : Host.Outcome State Fault Refusal :=
  s.act (fun d => keyOpSettle (Machine.fuseBurnDone ok d))

/-- TAMPER_SAMPLE (R256): 512 crystal periods after an inversion, TAMPERn is compared with TGUARDn. -/
def execTamperSample (loop : Fin 2) (level : Bool) (s : State) : Host.Outcome State Fault Refusal :=
  s.act (fun d => keyOpSettle (Machine.tamperSample loop level d))

/-- TAMPER_EVENT (R257): Four consecutive mismatches: the epoch increments and the key slots, session cache, DRBG state and ECDH key are erased. -/
def execTamperEvent (loop : Fin 2) (s : State) : Host.Outcome State Fault Refusal :=
  s.act (fun d => keyOpSettle (Machine.tamperEvent loop d))

/-- QUEUE_POP (R294): A read of LQn_POP delivers and removes the next word, stalls on an empty queue, or is refused for the wrong side. -/
def execQueuePop (p : Path) (q : Fin 32) (s : State) : Host.Outcome State Fault Refusal :=
  s.act (popAndTake p q.val)

/-- MBOX_WORD (R331): A word written to SV_MBOX_IN is assembled, and the command runs when LEN words have arrived. -/
def execMboxWord (p : Path) (w : Word) (s : State) : Host.Outcome State Fault Refusal :=
  s.act (onPort 0x34000 p (Machine.mboxWord p w))

/-- MBOX_READ (R331): A read of SV_MBOX_OUT returns the next response word. -/
def execMboxRead (p : Path) (s : State) : Host.Outcome State Fault Refusal :=
  s.act (onPort 0x34000 p (Machine.mboxRead p))

/-- REG_LOOKUP (R311): Service command 0x0020 finds a registry record by key. -/
def execRegLookup (via : Via) (s : State) : Host.Outcome State Fault Refusal :=
  s.act (serve via 0x20 Machine.regLookup)

/-- REG_PUT (R312): Service command 0x0021 creates or updates a record's settable fields, with an optional version check. -/
def execRegPut (via : Via) (s : State) : Host.Outcome State Fault Refusal :=
  s.act (serve via 0x21 Machine.regPut)

/-- REG_DELETE (R311): Service command 0x0022 marks a record TOMB. -/
def execRegDelete (via : Via) (s : State) : Host.Outcome State Fault Refusal :=
  s.act (serve via 0x22 (byJournal fun _ => true))

/-- REG_QUERY (R323): Service command 0x0023 scans the registry for matching records. -/
def execRegQuery (via : Via) (s : State) : Host.Outcome State Fault Refusal :=
  s.act (serve via 0x23 Machine.regQuery)

/-- REG_STATS (R323): Service command 0x0024 returns registry occupancy and the longest probe chain. -/
def execRegStats (via : Via) (s : State) : Host.Outcome State Fault Refusal :=
  s.act (serve via 0x24 Machine.regStats)

/-- REG_COMPACT (R311): Service command 0x0025 rewrites a stripe so that no TOMB precedes an IN_USE record of its chain. -/
def execRegCompact (via : Via) (s : State) : Host.Outcome State Fault Refusal :=
  s.act (serve via 0x25 Machine.regCompact)

/-- REG_SCRUB (R323): Service command 0x0026 reports records with a bad CHECK. -/
def execRegScrub (via : Via) (s : State) : Host.Outcome State Fault Refusal :=
  s.act (serve via 0x26 Machine.regScrub)

/-- POLICY_SET (R325): Service command 0x0030 writes a policy class entry. -/
def execPolicySet (via : Via) (s : State) : Host.Outcome State Fault Refusal :=
  s.act (serve via 0x30 (byJournal fun c => decide (le16At c.payload 0 ≤ 255)))

/-- POLICY_GET (R325): Service command 0x0031 reads a policy class entry. -/
def execPolicyGet (via : Via) (s : State) : Host.Outcome State Fault Refusal :=
  s.act (serve via 0x31 Machine.policyGet)

/-- AUDIT_READ (R323): Service command 0x0038 returns audit entries from an index. -/
def execAuditRead (via : Via) (s : State) : Host.Outcome State Fault Refusal :=
  s.act (serve via 0x38 Machine.auditRead)

/-- AUDIT_HEAD (R323): Service command 0x0039 returns AUDIT_HEAD and the oldest index held. -/
def execAuditHead (via : Via) (s : State) : Host.Outcome State Fault Refusal :=
  s.act (serve via 0x39 auditHeadCmd)

/-- QUEUE_CONSUMER (R304): Service command 0x0040 changes a queue's consumer. -/
def execQueueConsumer (via : Via) (s : State) : Host.Outcome State Fault Refusal :=
  s.act (serve via 0x40 Machine.queueConsumer)

/-- KEY_OP (R323): Service command 0x0048 runs a Crypto key command and replies after the blob save. -/
def execKeyOp (via : Via) (s : State) : Host.Outcome State Fault Refusal :=
  s.act (serve via 0x48 Machine.keyOp)

/-- TAG_WRITE (R320): Service command 0x0050 performs a tag write through an intent slot. -/
def execTagWrite (via : Via) (s : State) : Host.Outcome State Fault Refusal :=
  s.act (serve via 0x50 Machine.tagWrite)

/-- PROGRAM_START (R323): Service command 0x0058 starts a customer program on an unused core. -/
def execProgramStart (via : Via) (s : State) : Host.Outcome State Fault Refusal :=
  s.act (serve via 0x58 Machine.programStart)

/-- CONFIG_GET (R327): Service command 0x0060 reads a SERVICE configuration record. -/
def execConfigGet (via : Via) (s : State) : Host.Outcome State Fault Refusal :=
  s.act (serve via 0x60 Machine.configGet)

/-- CONFIG_SET (R327): Service command 0x0061 writes a SERVICE configuration record unless it is forced. -/
def execConfigSet (via : Via) (s : State) : Host.Outcome State Fault Refusal :=
  s.act (serve via 0x61 Machine.configSet)

/-- SERVICE_ECALL (R328): A customer program issues a service command through ECALL. -/
def execServiceEcall (core : Fin 4) (code : BitVec 16) (addr plen buf size : Word) (s : State) : Host.Outcome State Fault Refusal :=
  s.act (Machine.serviceEcall core code.toNat addr.toNat plen.toNat buf.toNat size.toNat)

/-- JOURNAL_APPLY (R315): The applier copies a committed record's entries to their targets, then advances APPLIED_SEQ and TAIL. -/
def execJournalApply (s : State) : Host.Outcome State Fault Refusal :=
  s.act (fun d => settleServices (Machine.journalApply d))

end Sys2Proof.Machine
end

