-- ==== Sys2Proof/Machine/Clock.lean ====
section
/-!
DEFINITION. The Tideclock: offsets and the servo, steps, holdover, the master, timed pulses, the alarm, captures, and the
events that the runtime reports of it (14_tideclock.md).
-/

namespace Sys2Proof.Machine

/-- Change the Tideclock's state. -/
def Dev.modTc (d : Dev) (f : TcSt → TcSt) : Dev := { d with tc := f d.tc }

/-- Queue a TIME_EVENT (R349): KIND, the offset judged or the step applied in 2⁻¹⁶ ns. What happens while the runtime does not
run it queues once it runs. -/
def timeEvent (kind : Nat) (x : Int) (d : Dev) : Dev :=
  let ws := [packW [(24, 8, kind)]] ++ d.stamp ++ words64 (ofSigned 64 x) ++ words64 (d.rd TC_MASTER_ID)
  if d.runtime then d.post 24 0x41 ws else d.modTc fun t => { t with owed := t.owed ++ [ws] }

/-- The runtime queues what it owes. -/
def flushTimeEvents (d : Dev) : Dev :=
  let ws := d.tc.owed
  (d.modTc fun t => { t with owed := [] }).each ws fun w => (·.post 24 0x41 w)

/-! The counter's rate (R333, R338). -/

abbrev nominalInc : Nat := 0x02754D473CAA

/-- Set RATE, and TC_INC with it: NOMINAL × (1 + RATE × 2⁻⁸ × 10⁻⁹), rounded to the nearest unit (R333). -/
def setRate (v : Int) (d : Dev) : Dev :=
  let den : Nat := 256000000000
  let inc : Int := (((nominalInc : Int) * ((den : Int) + v)) * 2 + den) / (2 * den)
  (d.wr TC_RATE_VALUE (ofSigned 32 v)).wr TC_INC_INC inc.toNat

/-- INTEG as a signed number. -/
def Dev.integ (d : Dev) : Int := toSigned 32 (d.rd TC_INTEG_VALUE)

/-- Holdover begins (R342): RATE is the learned INTEG. Nothing happens while SRC = 0b00, or in holdover already. -/
def enterHoldover (d : Dev) : Dev :=
  if d.rd TC_CFG_SRC = 0 || d.on TC_STATUS_HOLDOVER then d
  else
    let d := setRate d.integ d
    let d := ((d.raise TC_STATUS_HOLDOVER).raise TC_STATUS_HOLD_SEEN).countSat TC_COUNTS_HOLDS 1
    timeEvent 3 0 (d.modTc fun t => { t with fresh := true })

/-- Holdover ends (R342). -/
def leaveHoldover (d : Dev) : Dev :=
  if d.on TC_STATUS_HOLDOVER then timeEvent 4 0 (d.lower TC_STATUS_HOLDOVER) else d

/-! Pulses (R350, R351). -/

/-- START of TPULSE `k` in ns. -/
def Dev.pulseStart (d : Dev) (k : Nat) : Nat :=
  (d.rd (TC_PULSE_START_SEC_LO_SEC k) + 2 ^ 32 * d.rd (TC_PULSE_START_SEC_HI_SEC k)) * 1000000000 + d.rd (TC_PULSE_START_NS_NS k)

/-- Change a pulse. -/
def Dev.modPulse (d : Dev) (k : Nat) (f : PulseSt → PulseSt) : Dev := d.modTc fun t => { t with pulses := vmod t.pulses k f }
def Dev.pulse (d : Dev) (k : Nat) : PulseSt := vget d.tc.pulses k { edge := 0, high := false, endAt := 0 }

/-- The first edge number from `m` on whose edge lies at `t` (in units of 2⁻⁴⁰ ns) or later. -/
def firstEdge (start period m t : Nat) : Nat :=
  let s := start * 2 ^ 40
  let p := period * 2 ^ 40
  if t ≤ s || p = 0 then m else max m ((t - s + p - 1) / p)

/-- Edges that a forward step passes over are not produced and count as MISSED (R351). -/
def passEdges (k : Nat) (d : Dev) : Dev :=
  if !d.on (TC_PULSE_STAT_ACTIVE k) then d
  else
    let period := d.rd (TC_PULSE_PERIOD_NS k)
    let m := (d.pulse k).edge
    if period = 0 then
      if d.pulseStart k * 2 ^ 40 < d.time then (d.countSat (TC_PULSE_STAT_MISSED k) 1).lower (TC_PULSE_STAT_ACTIVE k) else d
    else
      let m' := firstEdge (d.pulseStart k) period m d.time
      (d.countSat (TC_PULSE_STAT_MISSED k) (m' - m)).modPulse k fun p => { p with edge := m' }

/-- The counter moves by a step of `x` units of 2⁻⁴⁰ ns (R339 to R341, R351): SET and STEPPED are set, the alarm is not lost,
the runtime writes the audit entry, and the next offset takes Δ = 1 s. A step back lengthens the grants (R499). -/
def applyStep (x : Int) (cause : Nat) (d : Dev) : Dev :=
  let before := d.stamp
  let t0 := d.time
  let d := if x < 0 then beginGrants d else d
  let d := { d with time := ((t0 : Int) + x).toNat }
  let d := ((d.raise TC_STATUS_SET).raise TC_STATUS_STEPPED).countSat TC_COUNTS_STEPS 1
  let d := d.each (upTo 4) passEdges
  let a := d.pulseStart 0 * 2 ^ 40
  let d := if t0 < a && a ≤ d.time then fireWake .alarm d else d
  let d := if cause = 1 then d else d.modTc fun t => { t with fresh := true }
  let detail := stampBytes before ++ stampBytes d.stamp ++ leBytes 2 cause ++ [0, 0]
  timeEvent 2 (x / 2 ^ 24) (audit { typ := some 4, berth := none, record := 0xFFFFFFFF, detail := some detail } d)

/-! Offsets (R337, R338). -/

/-- Record an offset and its verdict. -/
def lastOffset (x : Int) (v : Nat) (d : Dev) : Dev := (d.wr TC_LAST_OFFSET_VERDICT v).wr TC_LAST_OFFSET_THETA (ofSigned 62 x)

/-- The servo on an accepted offset `x` in 2⁻¹⁶ ns (R338). The spec gives no rounding of RATE and INTEG: two free bits. -/
def servo (x : Int) (d : Dev) : Dev :=
  let a := d.free
  let b := a.2.free
  let d := b.2
  let unit : Nat := 1000000000 * 2 ^ 40
  let dt := if d.tc.fresh then unit else max (unit / 16) (min (16 * unit) (d.time - d.tc.lastAt))
  let num : Int := x * (unit : Int)
  let rate := d.integ - divEither num (256 * dt * 2 ^ d.rd TC_CFG_KP_SHIFT) a.1
  let lim : Int := (d.rd TC_SLEW_MAX_PPM * 256000 : Nat)
  let d := d.modTc fun t => { t with fresh := false, lastAt := d.time }
  if lim < rate then (setRate lim d).raise TC_STATUS_CLAMPED
  else if rate < -lim then (setRate (-lim) d).raise TC_STATUS_CLAMPED
  else
    let integ := d.integ - divEither num (256 * dt * 2 ^ d.rd TC_CFG_KI_SHIFT) b.1
    ((setRate rate d).wr TC_INTEG_VALUE (ofSigned 32 integ)).lower TC_STATUS_CLAMPED

/-- An offset is judged as it arrives (R337). -/
def judge (x : Int) (d : Dev) : Dev :=
  let lim : Int := (d.rd TC_JUMP_LIMIT_LIMIT * 65536 : Nat)
  if !d.on TC_STATUS_SET && x < 0 then applyStep (-x * 2 ^ 24) 1 (lastOffset x 3 d)
  else if lim < x || x < -lim then
    let d := (((lastOffset x 2 d).raise TC_STATUS_STEP_REFUSED).raise TC_STATUS_REFUSED_PENDING).countSat TC_COUNTS_REFUSED 1
    timeEvent 1 x (d.modTc fun t => { t with held := some x })
  else
    let d := servo x (lastOffset x 1 d)
    leaveHoldover ((d.lower TC_STATUS_REFUSED_PENDING).modTc fun t => { t with held := none })

/-! Staging (R35). -/

/-- Hold a word in the path's staging. -/
def Dev.stageWord (d : Dev) (p : Path) (a : Nat) (w : Word) : Dev :=
  { d with stage := d.stage.filter (fun x => !(x.1 == p && x.2.1 == a)) ++ [(p, a, w)] }

/-- The staged word of a path at an address, or what stands there. -/
def Dev.staged (d : Dev) (p : Path) (a cur : Nat) : Nat :=
  match d.stage.find? fun x => x.1 == p && x.2.1 == a with
  | some x => x.2.2.toNat
  | none => cur

/-- A commit or its refusal clears the path's staging. -/
def Dev.unstage (d : Dev) (p : Path) : Dev := { d with stage := d.stage.filter (·.1 ≠ p) }

/-- TC_OFFSET's high word is written: the offset is delivered (R335, R336); refused while SRC is not software. With no low word staged
the low word is 0: a write-only value has no current one (R35; DESIGN CHOICE, assumption 25). -/
def offsetCommit (p : Path) (w : Word) (d : Dev) : Dev :=
  let x := toSigned 64 (join64 (d.staged p 0x4040 0) w.toNat)
  let d := d.unstage p
  if d.rd TC_CFG_SRC ≠ 1 then d.errLocked p 0x4044 else judge x d

/-! The master (R343). -/

/-- TC_MASTER takes a value; a change sets MASTER_CHANGED, and the first offset of the new master takes Δ = 1 s. -/
def setMaster (v : Nat) (d : Dev) : Dev :=
  if d.rd TC_MASTER_ID = v then d
  else
    timeEvent 5 0 ((((d.wr TC_MASTER_ID v).raise TC_STATUS_MASTER_CHANGED).countSat TC_COUNTS_MASTERS 1).modTc
      fun t => { t with fresh := true })

/-- TC_MASTER's high word is written (R35, R343). -/
def masterCommit (p : Path) (w : Word) (d : Dev) : Dev :=
  let lo := d.staged p 0x4060 (d.rd TC_MASTER_ID % 2 ^ 32)
  setMaster (join64 lo w.toNat) (d.unstage p)

/-- The unit ID of the fabric root, as the Hawser knows it (R343). -/
def Dev.rootUnit (d : Dev) : Nat := d.rd HS_ROOT_ID

/-- A write of TC_CFG (R336, R342, R343). -/
def srcWrite (p : Path) (w : Word) (d : Dev) : Dev :=
  let src := bits w.toNat 31 30
  if src = 3 then d.errRange p 0x4020
  else
    let old := d.rd TC_CFG_SRC
    let d := (((d.wr TC_CFG_SRC src).wr TC_CFG_ALLOW_BACK (bits w.toNat 29 29)).wr TC_CFG_KP_SHIFT
      (bits w.toNat 27 24)).wr TC_CFG_KI_SHIFT (bits w.toNat 23 20)
    if src = old then d
    else
      let d := d.modTc fun t => { t with fresh := true, beaconAt := d.ns }
      let m := if src = 0 then 0 else if src = 2 then d.rootUnit else d.rd TC_MASTER_ID
      let d := (d.wr TC_MASTER_ID m).raise TC_STATUS_MASTER_CHANGED
      let d := timeEvent 5 0 (d.countSat TC_COUNTS_MASTERS 1)
      if src = 0 then leaveHoldover d else d

/-! Commands of TC_CMD (R339, R340, R342). -/

/-- A command of TC_CMD completes. -/
def tcEnd (code : Nat) (d : Dev) : Dev := d.wr TC_CMD_STATUS_CODE code

/-- STEP (R339). -/
def tcStep (d : Dev) : Dev :=
  let x := toSigned 64 (d.rd TC_STEP_NS) * 2 ^ 40
  if x = 0 then tcEnd cEMPTY d
  else if (d.time : Int) + x < 0 then tcEnd cRANGE d
  else if x < 0 && !d.on TC_CFG_ALLOW_BACK then tcEnd cREFUSED d
  else tcEnd cDONE (applyStep x 2 d)

/-- ACCEPT_STEP (R340). -/
def tcAcceptStep (d : Dev) : Dev :=
  match d.tc.held with
  | none => tcEnd cEMPTY d
  | some x =>
    if 0 < x then tcEnd cREFUSED d
    else
      let d := (d.modTc fun t => { t with held := none }).lower TC_STATUS_REFUSED_PENDING
      tcEnd cDONE (applyStep (-x * 2 ^ 24) 3 d)

/-- HOLD (R342). -/
def tcHold (d : Dev) : Dev :=
  if d.rd TC_CFG_SRC = 0 then tcEnd cREFUSED d else tcEnd cDONE (enterHoldover d)

/-- No beacon for HOLD_BEACONS intervals (R342). -/
def beaconTimeout (d : Dev) : Dev :=
  if d.power.step = .off || d.rd TC_CFG_SRC ≠ 2 then d
  else
    let span := d.rd TC_HS_CFG_HOLD_BEACONS * 2 ^ d.rd TC_HS_CFG_BEACON_LOG * 1000000
    enterHoldover (d.reach (d.tc.beaconAt + span))

/-! Pulse commands and edges (R350, R351). -/

/-- Make the output inactive and clear ACTIVE. -/
def pulseStop (k : Nat) (d : Dev) : Dev :=
  (d.lower (TC_PULSE_STAT_ACTIVE k)).modPulse k fun p => { p with high := false }

/-- ARM (R350). -/
def pulseArm (k : Nat) (d : Dev) : Dev :=
  let width := d.rd (TC_PULSE_WIDTH_NS k)
  let period := d.rd (TC_PULSE_PERIOD_NS k)
  let start := d.pulseStart k
  let soon := d.time + 1000 * 2 ^ 40
  let code := TC_PULSE_STAT_CODE k
  if width = 0 then (pulseStop k d).wr code cEMPTY
  else if 0 < period && period < width + 5 then d.wr code cRANGE
  else if period = 0 && start * 2 ^ 40 < soon then d.wr code 0x10
  else
    let m := if start * 2 ^ 40 < d.time then firstEdge start period 0 soon else 0
    ((d.wr code cDONE).raise (TC_PULSE_STAT_ACTIVE k)).modPulse k fun p => { p with edge := m }

/-- A write of CTL (R350): POL is fixed while ACTIVE; ARM and STOP act in this order. -/
def pulseCtl (p : Path) (k : Nat) (w : Word) (d : Dev) : Dev :=
  let pol := bits w.toNat 0 0
  if d.on (TC_PULSE_STAT_ACTIVE k) && pol ≠ d.rd (TC_PULSE_CTL_POL k) then d.errLocked p (0x4114 + 0x20 * k)
  else
    let d := d.wr (TC_PULSE_CTL_POL k) pol
    let d := if bit w.toNat 31 then pulseArm k d else d
    if bit w.toNat 30 then pulseStop k d else d

/-- The Tideclock reaches the next edge of an armed pulse (R350). -/
def pulseEdge (k : Nat) (d : Dev) : Dev :=
  if d.power.step = .off || !d.on (TC_PULSE_STAT_ACTIVE k) then d
  else
    let period := d.rd (TC_PULSE_PERIOD_NS k)
    let t := d.pulseStart k + (d.pulse k).edge * period
    let d := (d.reach t).modPulse k fun p =>
      { p with edge := p.edge + 1, high := true, endAt := t + d.rd (TC_PULSE_WIDTH_NS k) }
    if period = 0 then d.lower (TC_PULSE_STAT_ACTIVE k) else d

/-- WIDTH ns after an edge (R350). -/
def pulseEnd (k : Nat) (d : Dev) : Dev :=
  if d.power.step = .off || !(d.pulse k).high then d
  else (d.reach (d.pulse k).endAt).modPulse k fun p => { p with high := false }

/-- The Tideclock reaches TPULSE0's start time by counting (R351). -/
def tcAlarm (d : Dev) : Dev :=
  let a := d.pulseStart 0
  if d.power.step = .off || a * 2 ^ 40 ≤ d.time then d else fireWake .alarm (d.reach a)

/-! Captures (R352, R353). -/

/-- Capture input `k`. -/
def Dev.cap (d : Dev) (k : Nat) : CapSt := vget d.tc.caps k { buf := [], quietUntil := 0 }

/-- A qualified edge on TCAPk (R352, R353): stamped into the buffer, or counted as lost; a wake source in Watch and Dormant. -/
def captureEdge (k : Fin 4) (rising : Bool) (d : Dev) : Dev :=
  let sel := bit (d.rd (TC_CAP_CFG_EDGE k.val)) (if rising then 0 else 1)
  let c := d.cap k.val
  if d.power.step = .off || !d.on (TC_CAP_CFG_EN k.val) || !sel || d.time < c.quietUntil then d
  else
    let d :=
      if 4 ≤ c.buf.length then (d.countSat (TC_CAP_STAT_LOST k.val) 1).raise TC_STATUS_CAP_LOST
      else
        let q := d.time + d.rd (TC_CAP_CFG_DEBOUNCE k.val) * 1000 * 2 ^ 40
        (d.modTc fun t => { t with caps := vmod t.caps k.val fun c =>
          { buf := c.buf ++ [(rising, d.stamp)], quietUntil := q } }).wr (TC_CAP_STAT_FILL k.val) (c.buf.length + 1)
    fireWake (.tcap k) d

/-- A buffered capture moves into Q24 (R353). -/
def captureItem (k : Nat) (d : Dev) : Dev :=
  match (d.cap k).buf, d.blockRuns 0x20000 with
  | x :: rest, true =>
    let lost := d.rd (TC_CAP_STAT_LOST k)
    let d := d.modTc fun t => { t with caps := vmod t.caps k fun c => { c with buf := rest } }
    let d := (d.wr (TC_CAP_STAT_FILL k) rest.length).wr (TC_CAP_STAT_LOST k) 0
    d.post 24 0x40 (packW [(28, 4, k), (27, 1, b2n x.1), (0, 16, lost)] :: x.2)
  | _, _ => d

/-! The meanings of the rows of this family. -/

/-- OFFSET_DELIVERED (R337): A measured offset arrives (a TC_OFFSET commit or a beacon computation) and is discarded, acquired, refused or accepted into the servo. -/
def execOffsetDelivered (p : Path) (w : Word) (s : State) : Host.Outcome State Fault Refusal :=
  s.act (onPort 0x4000 p (offsetCommit p w))

/-- STEP (R339): TC_CMD.OP = STEP adds the staged signed amount to the counter, subject to ALLOW_BACK. -/
def execStep (p : Path) (s : State) : Host.Outcome State Fault Refusal :=
  s.act (onPort 0x4000 p tcStep)

/-- ACCEPT_STEP (R340): TC_CMD.OP = ACCEPT_STEP applies a held negative offset as a forward step. -/
def execAcceptStep (p : Path) (s : State) : Host.Outcome State Fault Refusal :=
  s.act (onPort 0x4000 p tcAcceptStep)

/-- HOLD (R342): TC_CMD.OP = HOLD puts the Tideclock into holdover. -/
def execHold (p : Path) (s : State) : Host.Outcome State Fault Refusal :=
  s.act (onPort 0x4000 p tcHold)

/-- SRC_WRITE (R336): A write of TC_CFG.SRC changes the time source, ends holdover for 0b00 and sets MASTER_CHANGED. -/
def execSrcWrite (p : Path) (w : Word) (s : State) : Host.Outcome State Fault Refusal :=
  s.act (onPort 0x4000 p (Machine.srcWrite p w))

/-- MASTER_CHANGE (R343): TC_MASTER changes by a write or with the fabric root, and MASTER_CHANGED is set. -/
def execMasterChange (p : Path) (w : Word) (s : State) : Host.Outcome State Fault Refusal :=
  s.act (onPort 0x4000 p (masterCommit p w))

/-- BEACON_HOLDOVER_TIMEOUT (R342): No beacon is accepted for HOLD_BEACONS intervals, and holdover begins. -/
def execBeaconHoldoverTimeout (s : State) : Host.Outcome State Fault Refusal :=
  s.act (beaconTimeout)

/-- PULSE_ARM (R350): A write of TC_PULSEk CTL.ARM checks START, PERIOD and WIDTH and arms the pulse. -/
def execPulseArm (p : Path) (k : Fin 4) (w : Word) (s : State) : Host.Outcome State Fault Refusal :=
  s.act (onPort 0x4000 p (pulseCtl p k.val (w ||| 0x80000000#32)))

/-- PULSE_STOP (R350): A write of CTL.STOP makes the output inactive and clears ACTIVE. -/
def execPulseStop (p : Path) (k : Fin 4) (w : Word) (s : State) : Host.Outcome State Fault Refusal :=
  s.act (onPort 0x4000 p (pulseCtl p k.val (w ||| 0x40000000#32)))

/-- PULSE_EDGE (R350): The Tideclock reaches START + m × PERIOD and TPULSEk becomes active. -/
def execPulseEdge (k : Fin 4) (s : State) : Host.Outcome State Fault Refusal :=
  s.act (Machine.pulseEdge k.val)

/-- PULSE_END (R350): WIDTH ns after an edge, TPULSEk becomes inactive. -/
def execPulseEnd (k : Fin 4) (s : State) : Host.Outcome State Fault Refusal :=
  s.act (Machine.pulseEnd k.val)

/-- TC_ALARM (R351): The Tideclock reaches or passes TPULSE0's start time, raising the wake alarm. -/
def execTcAlarm (s : State) : Host.Outcome State Fault Refusal :=
  s.act (Machine.tcAlarm)

/-- CAPTURE_EDGE (R352): A qualified edge on TCAPk is timestamped into the AON buffer, or counted as lost. -/
def execCaptureEdge (k : Fin 4) (rising : Bool) (s : State) : Host.Outcome State Fault Refusal :=
  s.act (Machine.captureEdge k rising)

/-- CAPTURE_ITEM (R353): A buffered capture is moved into Q24 as a CAPTURE item when the LQ block runs. -/
def execCaptureItem (k : Fin 4) (s : State) : Host.Outcome State Fault Refusal :=
  s.act (Machine.captureItem k.val)

end Sys2Proof.Machine
end

