-- ==== Sys2Proof/Machine/Gpio.lean ====
section
/-!
DEFINITION. GPIO and the host interrupt (R463, R464).
-/

namespace Sys2Proof.Machine

/-- Is HOST_IRQ_N driven low: a host-side queue interrupt while EN = 1 (R464)? -/
def Dev.hostIrq (d : Dev) : Bool :=
  d.on GC_HOSTIRQ_EN && (upTo 32).any fun i => d.qHost i && d.qIrq i

/-- The level that the part drives on GPIO `m`, where it drives one: an output's OUT bit, or the open-drain HOST_IRQ_N
(R463, R464). -/
def Dev.gpioDriven (d : Dev) (m : Nat) : Option Bool :=
  if m = 4 && d.on GC_HOSTIRQ_EN then (if d.hostIrq then some false else none)
  else if d.bitOn GC_GPIO_DIR_DIR m then some (d.bitOn GC_GPIO_OUT_OUT m)
  else none

/-- GC_GPIO_IN: the level at every ball. -/
def Dev.gpioIn (d : Dev) : Nat :=
  (upTo 32).foldl (fun v m => v + b2n ((d.gpioDriven m).getD (bit d.gpio m)) * 2 ^ m) 0

/-- An edge on a GPIO: its new level has been held for 2 Deck clocks, while the Deck clock runs (R463). A ball that the part drives
takes the driven level only; a level that does not change is no edge. -/
def gpioEdge (m : Nat) (rising : Bool) (d : Dev) : Dev :=
  let driven := match d.gpioDriven m with
    | some l => l == rising
    | none => true
  if bit d.gpio m == rising || !driven || d.power.step = .off then d
  else
    let d := { d with gpio := if rising then setBit d.gpio m else clearBit d.gpio m }
    if d.coreRuns && d.bitOn (if rising then GC_GPIO_RISE_EN else GC_GPIO_FALL_EN) m then d.setBit GC_GPIO_PEND_PEND m else d

/-! The meanings of the rows of this family. -/

/-- GPIO_EDGE (R463): A qualified edge on a GPIO sets its PEND bit where enabled. -/
def execGpioEdge (m : Fin 32) (rising : Bool) (s : State) : Host.Outcome State Fault Refusal :=
  s.act (Machine.gpioEdge m.val rising)

end Sys2Proof.Machine
end

