-- ==== Sys2Proof/Machine/Pilot.lean ====
section
/-!
DEFINITION. Pilot's interrupts (R303, R329): where each source of the interrupt controller comes from, the contexts, the routing and its
delegation, and the source that a context is given first. The controller is internal to Pilot (assumption 6).
-/

namespace Sys2Proof.Machine

/-- A context of the interrupt controller: a core, in machine or supervisor mode (R329). -/
structure IrqCtx where
  core : Fin 4
  supervisor : Bool
deriving DecidableEq, Repr

/-- The register block behind an interrupt source: base address and bytes (R27, R329). -/
def irqBlock (src : Nat) : Option (Nat × Nat) :=
  if 47 ≤ src && src ≤ 70 then some (0x40000 + (src - 47) * 0x2000, 0x2000)
  else match src with
    | 36 => some (0x4000, 0x1000)
    | 37 => some (0x5000, 0x800)
    | 38 => some (0x5800, 0x800)
    | 39 => some (0x6000, 0x800)
    | 40 => some (0x6800, 0x800)
    | 41 => some (0x8000, 0x2000)
    | 42 => some (0x30000, 0x4000)
    | 43 => some (0x38000, 0x8000)
    | 44 => some (0x70000, 0x10000)
    | 45 => some (0x3000, 0x1000)
    | _ => none

/-- The fields of the register block behind a source. -/
def Dev.blockFields (d : Dev) (b : Nat × Nat) : RegFile :=
  d.regs.filter fun x => b.1 * 8 ≤ x.1 && x.1 < (b.1 + b.2) * 8

/-- Is a wake from Watch recorded (R65)? -/
def Dev.wakeSeen (d : Dev) : Bool :=
  d.on PW_WAKE_SRC_DETECT || d.on PW_WAKE_SRC_GW0_CS || d.rd PW_WAKE_SRC_TCAP != 0 || d.rd PW_WAKE_SRC_TAMPER != 0
    || d.rd PW_WAKE_SRC_GPIO != 0 || d.on PW_WAKE_SRC_TC_ALARM

/-- Does the origin of an interrupt source raise it (R329)? A queue's interrupt reaches Pilot only while the runtime is the queue's
consumer (R303). -/
def Dev.irqLevel (d : Dev) (src : Nat) : Bool :=
  if 1 ≤ src && src ≤ 32 then !d.qHost (src - 1) && d.qIrq (src - 1)
  else if 71 ≤ src && src ≤ 102 then d.bitOn GC_GPIO_PEND_PEND (src - 71)
  else match src with
    | 33 => d.on PW_STATUS_PFAIL
    | 34 => d.wakeSeen
    | 35 => d.on PW_STATUS_THERM_THROTTLE || d.on PW_STATUS_THERM_SHUT
    | 46 => d.sv.waiting.any fun c => c.via == .mailbox
    | _ => match irqBlock src with
      | some b => Config.blockRaises src (d.blockFields b)
      | none => false

/-- The core that SERVICE record 0x0004 delegates a source to; source 33 is never delegated (R329). -/
def Dev.irqDelegated (d : Dev) (src : Nat) : Option (Fin 4) :=
  if src = 33 then none
  else match d.serviceRecord 4 with
    | some (_, data) => Config.irqDelegate data src
    | none => none

/-- The context that a source is routed to: core 0 in machine mode, or supervisor mode of the core that it is delegated to (R328, R329). -/
def Dev.irqContext (d : Dev) (src : Nat) : IrqCtx :=
  match d.irqDelegated src with
  | some c => { core := c, supervisor := true }
  | none => { core := 0, supervisor := false }

/-- The priority of a source: 7 for source 33; the runtime sets the others, 0 being never (R329). -/
def irqPriority (src : Nat) : Nat := if src = 33 then 7 else Config.irqPriority src % 8

/-- The sources that a context is given while Pilot runs, in the order of their numbers (R329). -/
def Dev.irqPending (d : Dev) (c : IrqCtx) : List Nat :=
  if d.coreRuns then
    ((upTo 102).map (· + 1)).filter fun src => d.irqContext src == c && irqPriority src != 0 && d.irqLevel src
  else []

/-- What a claim by the context answers: the pending source of the highest priority, the lowest number among equals, 0 if none is
pending (R329). -/
def Dev.irqClaim (d : Dev) (c : IrqCtx) : Nat :=
  (d.irqPending c).foldl (fun best src => if best = 0 || irqPriority best < irqPriority src then src else best) 0

/-- Is the context's external interrupt raised? -/
def Dev.irqRaised (d : Dev) (c : IrqCtx) : Bool := !(d.irqPending c).isEmpty

end Sys2Proof.Machine
end

