-- ==== Sys2Proof/Machine/Ether.lean ====
section
/-!
DEFINITION. The Ethernet ports (chapter 16_ethernet.md): links, descriptor rings, filters, PTP detection and timestamps, MDIO.
Frames are given without their FCS.
-/

namespace Sys2Proof.Machine

/-- Port `n`, and a change of it. -/
def Dev.enPort (d : Dev) (n : Nat) : EnPort := vget d.en n EnPort.reset
def Dev.modEn (d : Dev) (n : Nat) (f : EnPort → EnPort) : Dev := { d with en := vmod d.en n f }

/-- Address of a port's block. -/
def enBase (n : Nat) : Nat := 0x6000 + n % 2 * 0x800

/-- May the port be up (R387)? -/
def Dev.enAble (d : Dev) (n : Nat) : Bool :=
  d.applied && d.on GC_CFG_PLLE_EN && d.on GC_STATUS_PLLE_LOCK && (d.on (EN_CFG_RX_EN n) || d.on (EN_CFG_TX_EN n))

/-- The link drops (R388). -/
def enDrop (n : Nat) (d : Dev) : Dev :=
  if d.on (EN_STATUS_LINK n) then
    ((d.lower (EN_STATUS_LINK n)).raise (EN_STATUS_LINK_CHG_SEEN n)).modEn n fun p => { p with held := false }
  else d

/-- Both links drop (R59, R62, R388). -/
def enDropAll (d : Dev) : Dev := enDrop 1 (enDrop 0 d)

/-- A link that may no longer be up drops (R387). -/
def enCheck (d : Dev) : Dev := d.each [0, 1] fun n d => if d.enAble n then d else enDrop n d

/-- The PHY's auto-negotiation word arrives (R387): link, full duplex, speed. -/
def sgmiiAutoneg (n : Nat) (link full : Bool) (speed : Nat) (d : Dev) : Dev :=
  if !d.enAble n then d
  else if !link then enDrop n d
  else if !full then (enDrop n d).raise (EN_STATUS_HALF_SEEN n)
  else
    let d := if d.on (EN_STATUS_LINK n) then d else (d.raise (EN_STATUS_LINK n)).raise (EN_STATUS_LINK_CHG_SEEN n)
    d.wr (EN_STATUS_SPEED n) speed

/-! Rings (R389). -/

/-- Descriptors that ring `r` gives to hardware. -/
def Dev.ringFull (d : Dev) (n r : Nat) : Nat :=
  let size := d.rd (EN_RING_SIZE_N n r)
  if size = 0 then 0 else (d.rd (EN_RING_TAIL_IDX n r) + size - d.rd (EN_RING_HEAD_IDX n r) % size) % size

/-- Address of the descriptor at HEAD. -/
def Dev.ringAt (d : Dev) (n r : Nat) : Nat := d.rd (EN_RING_BASE_ADDR n r) + 32 * d.rd (EN_RING_HEAD_IDX n r)

/-- HEAD advances, and wraps at SIZE. -/
def ringAdvance (n r : Nat) (d : Dev) : Dev :=
  let h := d.rd (EN_RING_HEAD_IDX n r) + 1
  d.wr (EN_RING_HEAD_IDX n r) (if d.rd (EN_RING_SIZE_N n r) ≤ h then 0 else h)

/-- Does the hardware own a descriptor at HEAD? -/
def Dev.ringOwned (d : Dev) (n r : Nat) : Bool :=
  d.ringFull n r != 0 && bit (Memory.word d.mem (d.ringAt n r)) 31

/-- Bytes written to DRAM by a port; a buffer outside DRAM takes none. -/
def dmaWrite (a : Nat) (bs : List Byte) (d : Dev) : Dev :=
  if 0x10000000 ≤ a && a + bs.length ≤ 0x20000000 then { d with mem := Memory.write d.mem a bs } else d

/-- PAUSE frames of the port: quanta 0xFFFF while a receive ring has fewer than 4 free descriptors, 0 when each has 4 again
(R390). Absent rings do not count. -/
def pauseFrame (quanta : Nat) (d : Dev) (n : Nat) : List Byte :=
  [0x01, 0x80, 0xC2, 0, 0, 0x01] ++ leBytes 6 (d.rd (EN_MAC_ADDR n)) ++ [0x88, 0x08, 0, 1] ++ beBytes 2 quanta
    ++ List.replicate 42 0
def pauseCheck (n : Nat) (d : Dev) : Dev :=
  if !d.on (EN_CFG_PAUSE_TX n) || !d.on (EN_STATUS_LINK n) then d
  else
    let low := (upTo 4).any fun r => d.rd (EN_RING_SIZE_N n r) != 0 && d.ringFull n r < 4
    if low == (d.enPort n).pausing then d
    else
      let f := pauseFrame (if low then 0xFFFF else 0) d n
      d.modEn n fun p => { p with pausing := low, sent := f }

/-! What a frame is (R391, R392). -/

/-- The 802.1Q tag's TCI, and the offset of the Ethertype behind it. -/
def frameTag (f : List Byte) : Option Nat × Nat :=
  if beNat ((f.drop 12).take 2) = 0x8100 then (some (beNat ((f.drop 14).take 2)), 16) else (none, 12)

/-- The PTP message in a frame (R392): its offset, and that of the UDP header where there is one. -/
def ptpAt (f : List Byte) : Option (Nat × Option Nat) :=
  let o := (frameTag f).2
  let t := beNat ((f.drop o).take 2)
  let ip := o + 2
  if t = 0x88F7 then some (o + 2, none)
  else if t = 0x0800 && u8At f ip / 16 = 4 then
    let udp := ip + 4 * (u8At f ip % 16)
    let port := beNat ((f.drop (udp + 2)).take 2)
    if beNat ((f.drop (ip + 6)).take 2) % 0x4000 = 0 && u8At f (ip + 9) = 17 && (port = 319 || port = 320) then
      some (udp + 8, some udp)
    else none
  else none

/-- The multicast addresses that are always accepted. -/
def ptpAddresses : List (List Byte) :=
  [[0x01, 0x1B, 0x19, 0, 0, 0], [0x01, 0x80, 0xC2, 0, 0, 0x0E], [0x01, 0, 0x5E, 0, 0x01, 0x81], [0x01, 0, 0x5E, 0, 0, 0x6B]]

/-- Is the destination accepted (R391)? -/
def Dev.destOk (d : Dev) (n : Nat) (a : List Byte) : Bool :=
  d.on (EN_CFG_PROMISC n) || leNat a == d.rd (EN_MAC_ADDR n)
    || (d.on (EN_CFG_BCAST n) && a == List.replicate 6 0xFF) || ptpAddresses.contains a
    || (u8At a 0 % 2 == 1 && a != List.replicate 6 0xFF && bit (d.rd (EN_HASH_BITS n)) (crc32 a / 2 ^ 26))

/-- The ring of the enabled VLAN entry that holds a VID. -/
def Dev.vlanRing (d : Dev) (n vid : Nat) : Option Nat :=
  ((upTo 16).find? fun k => d.on (EN_VLAN_EN n k) && d.rd (EN_VLAN_VID n k) == vid).map fun k => d.rd (EN_VLAN_RING n k)

/-- The receive ring of an accepted frame, `none` where a filter drops it (R390, R391). -/
def Dev.rxRing (d : Dev) (n : Nat) (f : List Byte) : Option Nat :=
  let vid := ((frameTag f).1.map (· % 4096)).getD 0
  if !d.destOk n (f.take 6) then none
  else
    let ring := if vid = 0 then (if d.on (EN_CFG_ACCEPT_UNTAG n) then some 1 else none) else d.vlanRing n vid
    if (ptpAt f).isSome then ring.map fun _ => 0 else ring

/-- Place a frame in a ring (R389 to R393). -/
def placeFrame (n r : Nat) (f : List Byte) (sfd : Nat) (d : Dev) : Dev :=
  let tag := (frameTag f).1
  let strip := tag.isSome && d.on (EN_CFG_STRIP n)
  let body := if strip then f.take 12 ++ f.drop 16 else f
  if !d.ringOwned n r then (d.countSat (EN_STATS_RX_DROP n) 1).raise (EN_STATUS_RX_DROP_SEEN n)
  else if d.rd (EN_CFG_BUF_LEN n) < body.length then (d.countSat (EN_STATS_RX_LONG n) 1).raise (EN_STATUS_RX_DROP_SEEN n)
  else
    let at_ := d.ringAt n r
    let stamp := d.stampOf (sfd - d.rd (EN_TS_LAT_INGRESS n) * 2 ^ 40)
    let d := dmaWrite (Memory.word d.mem (at_ + 4)) body d
    let w0 := packW [(30, 1, b2n (ptpAt f).isSome), (29, 1, b2n tag.isSome), (0, 14, body.length)]
    let d := dmaWrite at_ (leBytes 4 w0.toNat) d
    let d := dmaWrite (at_ + 8) (leBytes 4 (if strip then tag.getD 0 else 0) ++ leBytes 4 0 ++ wordsToBytes stamp ++ leBytes 4 0) d
    pauseCheck n ((ringAdvance n r d).count (EN_FRAMES_RX n) 1)

/-- A frame has been received (R388, R390 to R393): its bytes, whether its FCS is right, whether an error symbol or a link drop cut
it, and the counter value at its timestamp point. Its place in DRAM waits for PLL_D (R59). -/
def ethFrameReceived (n : Nat) (f : List Byte) (fcsOk cut : Bool) (sfd : Nat) (d : Dev) : Dev :=
  let sfd := min sfd d.time
  if !d.applied || !d.on (EN_CFG_RX_EN n) then d
  else if cut then d.countSat (EN_STATS_RX_ERR n) 1
  else if !d.on (EN_STATUS_LINK n) then d
  else if !fcsOk then d.countSat (EN_STATS_RX_FCS n) 1
  else if f.length < 60 || (if d.on (EN_CFG_JUMBO n) then 9018 else 1518) < f.length then d
  else if beNat ((f.drop 12).take 2) = 0x8808 then
    let mine := f.take 6 == [0x01, 0x80, 0xC2, 0, 0, 0x01] || leNat (f.take 6) == d.rd (EN_MAC_ADDR n)
    if mine && beNat ((f.drop 14).take 2) == 1 && d.on (EN_CFG_PAUSE_RX n) then
      d.modEn n fun p => { p with held := beNat ((f.drop 16).take 2) != 0 }
    else d
  else
    match d.rxRing n f with
    | none => d
    | some r =>
      if d.on GC_STATUS_PLLD_LOCK then placeFrame n r f sfd d else d.modEn n fun p => { p with waiting := p.waiting ++ [(r, f, sfd)] }

/-- PLL_D has locked: the frames that wait for DRAM are placed (R59). -/
def placeWaiting (d : Dev) : Dev :=
  if !d.on GC_STATUS_PLLD_LOCK then d
  else d.each [0, 1] fun n d => (d.modEn n fun p => { p with waiting := [] }).each (d.enPort n).waiting fun x d => placeFrame n x.1 x.2.1 x.2.2 d

/-- The time of a received PAUSE frame runs out (R390). -/
def pauseHoldEnd (n : Nat) (d : Dev) : Dev := d.modEn n fun p => { p with held := false }

/-- A write of a ring's TAIL (R389). -/
def ringTailWrite (p : Path) (n r : Nat) (w : Word) (d : Dev) : Dev :=
  let v := wn w % 65536
  if d.rd (EN_RING_SIZE_N n r) ≤ v then d.errRange p (enBase n + 0x8C + 0x10 * r)
  else pauseCheck n (d.wr (EN_RING_TAIL_IDX n r) v)

/-! Transmission (R389, R394, R395). -/

/-- Descriptors with LEN = 0 at HEAD are skipped (R48). -/
def skipEmpty (n r : Nat) : Nat → Dev → Dev
  | 0, d => d
  | k + 1, d =>
    let a := d.ringAt n r
    if d.ringOwned n r && Memory.word d.mem a % 2 ^ 14 = 0 then
      skipEmpty n r k (ringAdvance n r (dmaWrite a (leBytes 4 (clearBit (Memory.word d.mem a) 31)) d))
    else d

/-- A timestamp of the 96-bit format in 2⁻¹⁶ ns (R334). -/
def stamp16 (ws : List Word) : Nat :=
  ((wordAt ws 1 + 2 ^ 32 * (wordAt ws 2 / 65536)) * 1000000000 + wordAt ws 0 % 2 ^ 30) * 65536 + wordAt ws 2 % 65536

/-- Complete a one-step message (R395): its bytes, and whether it was one. -/
def oneStep (f : List Byte) (egress t2 : Nat) : List Byte × Bool :=
  match ptpAt f with
  | none => (f, false)
  | some (o, udp) =>
    let typ := u8At f o % 16
    let clear (f : List Byte) : List Byte := match udp with
      | some u => putAt f (u + 6) [0, 0]
      | none => f
    let ns := egress / 65536
    if typ = 0 then
      (clear (putAt f (o + 34) (beBytes 6 (ns / 1000000000) ++ beBytes 4 (ns % 1000000000))), true)
    else if typ = 3 then
      let c := beNat ((f.drop (o + 8)).take 8)
      (clear (putAt f (o + 8) (beBytes 8 (ofSigned 64 ((c : Int) + egress - t2)))), true)
    else (f, false)

/-- The frame of ring `r`'s descriptor at HEAD is sent (R389, R393 to R395). -/
def sendFrame (n r sfd : Nat) (d : Dev) : Dev :=
  let a := d.ringAt n r
  let w0 := Memory.word d.mem a
  let f := Memory.read d.mem (Memory.word d.mem (a + 4)) (w0 % 2 ^ 14)
  let f := if bit w0 28 then f.take 12 ++ [0x81, 0] ++ beBytes 2 (Memory.word d.mem (a + 8) % 65536) ++ f.drop 12 else f
  let out := sfd + d.rd (EN_TS_LAT_EGRESS n) * 2 ^ 40
  let t2 := stamp16 (bytesToWords (Memory.read d.mem (a + 16) 12))
  let x := if bit w0 29 then oneStep f (out / 2 ^ 24) t2 else (f, false)
  let sent := x.1 ++ zeros (60 - x.1.length)
  let d := dmaWrite a (leBytes 4 (clearBit w0 31)) d
  let d := ((ringAdvance n r d).count (EN_FRAMES_TX n) 1).modEn n fun p => { p with sent := sent }
  match ptpAt f with
  | some (o, _) =>
    let typ := u8At f o % 16
    if bit w0 30 && typ < 4 && !x.2 then
      d.post 27 0x60 (packW [(16, 16, beNat ((f.drop (o + 30)).take 2)), (12, 4, n), (8, 4, typ), (0, 8, u8At f (o + 4))] :: d.stampOf out)
    else d
  | none => d

/-- A transmit descriptor's frame is sent, ring 4 before ring 5 (R389, R390), while DRAM answers (R59). -/
def ethFrameTransmitted (n sfd : Nat) (d : Dev) : Dev :=
  let sfd := min sfd d.time
  if !d.applied || !d.on (EN_STATUS_LINK n) || !d.on (EN_CFG_TX_EN n) || (d.enPort n).held || !d.on GC_STATUS_PLLD_LOCK then d
  else
    let d := skipEmpty n 4 (d.ringFull n 4) d
    if d.ringOwned n 4 then sendFrame n 4 sfd d
    else
      let d := skipEmpty n 5 (d.ringFull n 5) d
      if d.ringOwned n 5 then sendFrame n 5 sfd d else d

/-! MDIO (R397). -/

/-- A write of EN0_MDIO_CMD. -/
def mdioCmd (p : Path) (w : Word) (d : Dev) : Dev :=
  let v := wn w
  let op := bits v 29 28
  let bad := if bit v 30 then op == 2 else op == 0 || op == 3
  let busy := d.on EN0_MDIO_CMD_BUSY
  if bad || busy then d.accessError 0x6000 p true 0x6204 ⟨bad, busy, false⟩
  else
    (((((d.wr EN0_MDIO_CMD_C45 (bits v 30 30)).wr EN0_MDIO_CMD_OP op).wr EN0_MDIO_CMD_PHYAD (bits v 27 23)).wr
      EN0_MDIO_CMD_REGAD (bits v 22 18)).wr EN0_MDIO_CMD_DATA (bits v 15 0)).raise EN0_MDIO_CMD_BUSY

/-- The frame ends: a read takes its data, or 0xFFFF with NO_PHY where no PHY drives the line. -/
def mdioDone (phy : Bool) (data : Nat) (d : Dev) : Dev :=
  if !d.on EN0_MDIO_CMD_BUSY then d
  else
    let d := d.lower EN0_MDIO_CMD_BUSY
    let read := d.rd EN0_MDIO_CMD_OP == (if d.on EN0_MDIO_CMD_C45 then 3 else 2)
    if !read then d.wr EN0_MDIO_CMD_CODE 0
    else if phy then (d.wr EN0_MDIO_CMD_DATA data).wr EN0_MDIO_CMD_CODE 0
    else (d.wr EN0_MDIO_CMD_DATA 0xFFFF).wr EN0_MDIO_CMD_CODE 1

/-! The meanings of the rows of this family. -/

/-- SGMII_AUTONEG (R387): The PHY's auto-negotiation word brings the Ethernet link up, or HALF_SEEN is set for half duplex. -/
def execSgmiiAutoneg (n : Fin 2) (link full : Bool) (speed : Fin 3) (s : State) : Host.Outcome State Fault Refusal :=
  s.act (Machine.sgmiiAutoneg n.val link full speed.val)

/-- ETH_FRAME_RECEIVED (R390): A received frame is filtered, timestamped and placed in its receive ring, or dropped; PAUSE frames act on transmission. -/
def execEthFrameReceived (n : Fin 2) (frame : List Byte) (fcsOk cut : Bool) (sfd : Nat) (s : State) : Host.Outcome State Fault Refusal :=
  s.act (Machine.ethFrameReceived n.val frame fcsOk cut sfd)

/-- RING_TAIL_WRITE (R389): A write of a ring's TAIL hands descriptors to hardware. -/
def execRingTailWrite (p : Path) (n : Fin 2) (r : Fin 6) (w : Word) (s : State) : Host.Outcome State Fault Refusal :=
  s.act (onPort (enBase n.val) p (Machine.ringTailWrite p n.val r.val w))

/-- ETH_FRAME_TRANSMITTED (R394): A transmit descriptor's frame is sent, completed one-step where set, and its timestamp queued in Q27 where requested. -/
def execEthFrameTransmitted (n : Fin 2) (sfd : Nat) (s : State) : Host.Outcome State Fault Refusal :=
  s.act (Machine.ethFrameTransmitted n.val sfd)

/-- MDIO_CMD (R397): A write of EN0_MDIO_CMD starts one MDIO frame, or is refused while BUSY. -/
def execMdioCmd (p : Path) (w : Word) (s : State) : Host.Outcome State Fault Refusal :=
  s.act (onPort 0x6000 p (Machine.mdioCmd p w))

/-- MDIO_DONE (R397): An MDIO frame completes with DONE or NO_PHY. -/
def execMdioDone (phy : Bool) (data : BitVec 16) (s : State) : Host.Outcome State Fault Refusal :=
  s.act (Machine.mdioDone phy data.toNat)

/-- PAUSE_HOLD_END (R390): The pause time set by a received PAUSE frame runs out, and the MAC resumes transmission from its transmit rings. -/
def execPauseHoldEnd (n : Fin 2) (s : State) : Host.Outcome State Fault Refusal :=
  s.act (Machine.pauseHoldEnd n.val)

end Sys2Proof.Machine
end

