-- ==== Sys2Proof/Machine/Calib.lean ====
section
/-!
DEFINITION. Calibration (chapter 18_calibration.md): the run, its blocks and retries, its results, fuse records and the commit.
-/

namespace Sys2Proof.Machine

/-- Change the engine, or one channel of it. -/
def Dev.modCl (d : Dev) (f : ClSt → ClSt) : Dev := { d with cl := f d.cl }
def Dev.modClChan (d : Dev) (n : Nat) (f : ClChan → ClChan) : Dev := d.modCl fun c => { c with chans := vmod c.chans n f }
def Dev.clChan (d : Dev) (n : Nat) : ClChan := vget d.cl.chans n ClChan.start

/-! Fuse records (R431, R433). -/

/-- A fuse record slot, and whether it is consumed or valid. -/
def Dev.recordSlot (d : Dev) (k : Nat) : List Byte := vget d.fuses.records k []
def slotUsed (r : List Byte) : Bool := r.any (· != 0)
def slotMarked (r : List Byte) : Bool := le16At r 62 == 0xC35A
def slotValid (r : List Byte) : Bool := slotMarked r && le32At r 58 == crc32 ((r ++ zeros 64).take 58)

/-- The trims of a record (R431). -/
def trimsOf (r : List Byte) : Trims :=
  { iref := u8At r 1, tempOfs := u8At r 2, tempSlope := u8At r 3,
    ch := (upTo 24).map fun n =>
      let v := le16At r (8 + 2 * n)
      { gain := bits v 15 10, offset := bits v 9 5, amp := bits v 4 0 } }

/-- The bytes of a record (R431). -/
def recordOf (t : Trims) (count : Nat) : List Byte :=
  let body := [0x01, BitVec.ofNat 8 t.iref, BitVec.ofNat 8 t.tempOfs, BitVec.ofNat 8 t.tempSlope] ++ leBytes 4 count
    ++ (t.ch.map fun c => leBytes 2 (c.gain * 1024 + c.offset * 32 + c.amp)).flatten ++ [0, 0]
  body ++ leBytes 4 (crc32 body) ++ leBytes 2 0xC35A

/-- The fallback record (R428): the highest-numbered valid slot, or the factory record; and its SOURCE code. -/
def Dev.fallback (d : Dev) : Trims × Nat :=
  match (upTo 24).reverse.find? fun k => slotValid (d.recordSlot k) with
  | some k => (trimsOf (d.recordSlot k), 1)
  | none => (trimsOf d.fuses.factory, 2)

/-- The engine reads all slots (R433). -/
def readSlots (d : Dev) : Dev :=
  let used := (upTo 24).filter fun k => slotUsed (d.recordSlot k)
  let valid := (upTo 24).filter fun k => slotValid (d.recordSlot k)
  let mask (ks : List Nat) : Nat := (ks.map (2 ^ ·)).sum
  let d := (d.wr CL_SLOTUSED_SLOTS (mask used)).wr CL_SLOTVALID_SLOTS (mask valid)
  let d := (d.wr CL_STATUS_SLOTS_USED used.length).wr CL_STATUS_LAST_VALID (valid.reverse.headD 31)
  d.raiseIf ((upTo 24).any fun k => slotMarked (d.recordSlot k) && !slotValid (d.recordSlot k)) CL_STATUS_REC_BAD_SEEN

/-- Put a channel's trims in force. -/
def putChTrim (n : Nat) (t : ChTrim) (src : Nat) (d : Dev) : Dev :=
  (((d.wr (CL_CH_GAIN n) t.gain).wr (CL_CH_OFFSET n) t.offset).wr (CL_CH_AMP n) t.amp).wr (CL_CH_SOURCE n) src

/-- After a COLD reset the trims of the fallback record are in force (R438). -/
def loadTrims (d : Dev) : Dev :=
  let (t, src) := d.fallback
  let d := ((d.wr CL_GLOBAL_IREF t.iref).wr CL_GLOBAL_TEMP_OFS t.tempOfs).wr CL_GLOBAL_TEMP_SLOPE t.tempSlope
  let d := (d.wr CL_GLOBAL_IREF_SOURCE src).wr CL_GLOBAL_TEMP_SOURCE src
  d.each (upTo 24) fun n d => putChTrim n (t.ch.getD n ChTrim.zero) src d

/-! The run (R423, R424, R426). -/

/-- Every measurement value holds with STALE = 1 from the start of Trim (R152). -/
def staleAll (d : Dev) : Dev :=
  (d.each (upTo 24) fun n d =>
    ((d.raise (CH_TX_LOAD_STALE n)).raise (CH_RX_LEVEL_STALE n)).raise (CH_RX_CARRIER_STALE n)).raise PW_TEMP_STALE

/-- A calibration starts at step 1. -/
def calStart (d : Dev) : Dev :=
  ((d.raise CL_STATUS_RUNNING).wr CL_STATUS_STEP 1).modCl fun c =>
    { ClSt.reset with held := c.held, burn := c.burn }

/-- A calibration ends before finishing: it changes nothing and does not count (R425, R426). -/
def calAbort (d : Dev) : Dev :=
  ((d.lower CL_STATUS_RUNNING).wr CL_STATUS_STEP 0).modCl fun c => { ClSt.reset with held := c.held, burn := c.burn }

/-- PLL_A loses lock: the calibration restarts from step 1 when lock returns (R426). -/
def calUnlock (d : Dev) : Dev := if d.on CL_STATUS_RUNNING then d.modCl fun c => { c with restart := true } else d
def calRelock (d : Dev) : Dev := if d.cl.restart then calStart d else d

/-- Judge REFRES (R421), in 0.1 %. -/
def refresState (dev : Int) : Nat := if -20 ≤ dev && dev ≤ 20 then 0 else if -500 ≤ dev && dev ≤ 500 then 2 else 1

/-- Judge REFTONE (R420, R422): level in 0.1 dB, frequency in 0.1 ppm. -/
def reftoneState (lvl ppm : Int) : Nat :=
  if lvl < -100 then 1 else if -10 ≤ lvl && lvl ≤ 10 && -500 ≤ ppm && ppm ≤ 500 then 0 else 2

/-- Time passes in a calibration step. -/
def calWait (us : Nat) (d : Dev) : Dev := d.reach (d.ns + us * 1000)

/-- Step 1 or 4 completes (R421 to R423, R428); REFTONE is measured behind a step 1 that has traced. Where steps 2 and 3 fall back on
every channel, step 4 follows. -/
def calStepDone (dev lvl ppm : Int) (iref ofs slope : Nat) (d : Dev) : Dev :=
  if !d.on CL_STATUS_RUNNING || !d.coreRuns then d
  else if d.rd CL_STATUS_STEP = 1 then
    let r := refresState dev
    let t := if r = 0 then reftoneState lvl ppm else 3
    let d := (calWait 2000 d).modCl fun c =>
      { c with refres := r, reftone := t, resDev := dev, toneLvl := if r = 0 then lvl else 0, tonePpm := if r = 0 then ppm else 0,
               iref := iref }
    d.wr CL_STATUS_STEP (if t = 0 then 2 else 4)
  else if d.rd CL_STATUS_STEP = 4 then
    let d := (calWait 12000 d).modCl fun c => { c with tempOfs := ofs, tempSlope := slope }
    d.wr CL_STATUS_STEP (if d.cl.chans.toList.any fun c => c.aside && !c.lost then 5 else 6)
  else d

/-- A block on one channel (R429): without a foreign field it is done and its measurements stand; with one it is discarded, and the
channel set aside, or left untraced once three retries have failed. -/
def calOne (m : CalMeas) (n : Nat) (d : Dev) : Dev :=
  d.modClChan n fun c =>
    if m.before || m.after then
      let f := c.fails + 1
      { c with aside := true, fails := f, lost := decide (4 ≤ f) }
    else
      let c := { c with done := c.done + 1, fails := 0 }
      let c := if c.done ≤ 8 then
          { c with trim := { c.trim with gain := m.gain.toNat, offset := m.offset.toNat }, cmpSpares := m.cmpSpares.val,
                   capSpares := m.capSpares.val, factory := { c.factory with gain := m.fGain.toNat, offset := m.fOffset.toNat } }
        else { c with trim := { c.trim with amp := m.amp.toNat }, txSpares := m.txSpares.val,
                      factory := { c.factory with amp := m.fAmp.toNat } }
      if c.done = 22 then { c with aside := false } else c

/-- Channels that the next retry slot serves: those set aside in the group of the first, at most four. -/
def Dev.retryChans (d : Dev) : List Nat :=
  let open_ := (upTo 24).filter fun n => (d.clChan n).aside && !(d.clChan n).lost
  let wait := open_.filter fun n => !(d.on PW_STATUS_THERM_SHUT && 8 ≤ (d.clChan n).done)
  match wait with
  | [] => []
  | n :: _ => wait.filter fun k => k / 4 = n / 4

/-- The slots that a retry may use (R226, R429): quiet ones; where the slot table marks no index below SLOTS, every one. -/
def Dev.retrySlot (d : Dev) (m : Nat) : Bool :=
  let slots := d.rd TS_CYCLE_SLOTS
  let quiet := (upTo slots).any fun i => d.on (TS_SLOT_QUIET i)
  !quiet || d.on (TS_SLOT_QUIET (m % max 1 slots))

/-- The first slot from `m` on that a retry may use, within one tide cycle. -/
def Dev.nextRetrySlot (d : Dev) : Nat → Nat → Nat
  | 0, m => m
  | k + 1, m => if d.retrySlot m then m else d.nextRetrySlot k (m + 1)

/-- The slot of the next block: a block starts 100 µs after its slot's boundary (R424). -/
def Dev.blockSlot (d : Dev) : Nat := if d.ns < d.ms * 1000000 + 100000 then d.ms else d.ms + 1

/-- A phase of blocks ends with its last slot (R424). -/
def slotOver (d : Dev) : Dev := d.reach (d.nextBoundary * 1000000)

/-- A calibration block runs 100 µs after a slot boundary (R424, R426, R429): the next regular block of its VRF group, or in the retry
phase the blocks of the channels set aside. -/
def calBlock (ms : List CalMeas) (d : Dev) : Dev :=
  let run (ns : List Nat) (d : Dev) : Dev := d.each (ns.zip ms) fun (x : Nat × CalMeas) d => calOne x.2 x.1 d
  let step := d.rd CL_STATUS_STEP
  if !d.on CL_STATUS_RUNNING || !d.coreRuns then d
  else if step = 2 || step = 3 then
    if step = 3 && d.on PW_STATUS_THERM_SHUT then d
    else
      let d := d.reach (d.blockSlot * 1000000 + 100000)
      let b := d.cl.block
      let g := if b < 48 then b / 8 else (b - 48) / 14
      let ns := ((upTo 4).map (4 * g + ·))
      let d := d.each (ns.zip ms) fun (x : Nat × CalMeas) d => if (d.clChan x.1).aside then d else calOne x.2 x.1 d
      let d := d.modCl fun c => { c with block := b + 1 }
      if b + 1 < 132 then d.wr CL_STATUS_STEP (if b + 1 < 48 then 2 else 3) else (slotOver d).wr CL_STATUS_STEP 4
  else if step = 5 then
    let ns := d.retryChans
    if ns.isEmpty then d
    else
      let m := d.nextRetrySlot (d.rd TS_CYCLE_SLOTS) d.blockSlot
      let d := run ns (d.reach (m * 1000000 + 100000))
      if (upTo 24).any fun n => (d.clChan n).aside && !(d.clChan n).lost then d else (slotOver d).wr CL_STATUS_STEP 6
  else d

/-! Finishing (R425, R427, R430, R436). -/

/-- A signed value saturated to `w` bits. -/
def satSigned (w : Nat) (v : Int) : Nat := ofSigned w (clampSigned w v)

/-- Every result is written at once. -/
def calResults (d : Dev) : Dev :=
  let c := d.cl
  let (fb, src) := d.fallback
  let s1 := c.refres = 0
  let tone := c.reftone = 0
  let traced := (upTo 24).filter fun n => s1 && tone && (d.clChan n).done = 22 && !(d.clChan n).lost
  let foreign := (upTo 24).filter fun n => (d.clChan n).lost
  let mask (ks : List Nat) : Nat := (ks.map (2 ^ ·)).sum
  let d := ((d.wr CL_STATUS_REFRES c.refres).wr CL_STATUS_REFTONE c.reftone).flag CL_STATUS_IREF_TRACED s1
  let d := (d.flag CL_STATUS_TEMP_TRACED s1).flag CL_STATUS_ALL_TRACED (decide (traced.length = 24))
  let d := (d.raiseIf (!foreign.isEmpty) CL_STATUS_FOREIGN_SEEN).raiseIf (!(s1 && tone)) CL_STATUS_REF_SEEN
  let d := (d.wr CL_TRACE_CH (mask traced)).wr CL_FOREIGN_CH (mask foreign)
  let d := ((d.wr CL_REF_RES_DEV (satSigned 8 c.resDev)).wr CL_REF_TONE_LVL (satSigned 8 c.toneLvl)).wr CL_REF_TONE_PPM
    (satSigned 16 c.tonePpm)
  let d := (d.wr CL_GLOBAL_IREF (if s1 then c.iref else fb.iref)).wr CL_GLOBAL_TEMP_OFS (if s1 then c.tempOfs else fb.tempOfs)
  let d := (d.wr CL_GLOBAL_TEMP_SLOPE (if s1 then c.tempSlope else fb.tempSlope)).wr CL_GLOBAL_IREF_SOURCE (if s1 then 0 else src)
  let d := d.wr CL_GLOBAL_TEMP_SOURCE (if s1 then 0 else src)
  let d := d.each (upTo 24) fun n d =>
    let x := d.clChan n
    let ok := traced.contains n
    let d := putChTrim n (if ok then x.trim else fb.ch.getD n ChTrim.zero) (if ok then 0 else src) d
    let d := ((d.wr (CL_CH_TX_SPARES n) (if ok then x.txSpares else 0)).wr (CL_CH_CMP_SPARES n) (if ok then x.cmpSpares else 0)).wr
      (CL_CH_CAP_SPARES n) (if ok then x.capSpares else 0)
    (d.flag (CL_CH_FOREIGN n) (foreign.contains n)).flag (CL_CH_TRACED n) ok
  d.modCl fun c => { c with held :=
    { iref := c.iref, tempOfs := c.tempOfs, tempSlope := c.tempSlope, ch := c.chans.toList.map (·.factory) } }

/-- The calibration count and time (R436). -/
def calCount (d : Dev) : Dev :=
  let seq := d.rd CL_SEQ_SEQ
  let ws := if d.on TC_STATUS_SET then d.stamp else [0, nw seq, packW [(16, 16, seq / 2 ^ 32)]]
  ((d.wr CL_COUNT_COUNT (min (d.rd CL_COUNT_COUNT + 1) 0xFFFFFFFF)).raise CL_STATUS_COUNT_DIRTY).wr CL_LAST_TIME_TIME
    (leNat (wordsToBytes ws))

/-- The runtime takes over (step 10 of R76). -/
def enterRuntime (d : Dev) : Dev := flushTimeEvents (settleServices (runtimeStart d))

/-- Finishing, and Trim is left for Run (R61, R424, R425): the boot goes on where it waited for Trim. -/
def calFinish (d : Dev) : Dev :=
  if !d.on CL_STATUS_RUNNING || d.rd CL_STATUS_STEP ≠ 6 || !d.coreRuns then d
  else
    let d := calCount (calResults (calWait 4000 d))
    let d := ((d.lower CL_STATUS_RUNNING).wr CL_STATUS_STEP 0).wr PW_STATE_CUR 1
    if d.boot.phase = .trim then enterRuntime d else d

/-! The commit (R432 to R435, R437). -/

/-- COMMIT. -/
def commitCmd (p : Path) (d : Dev) : Dev :=
  if d.on CL_CMD_STATUS_BUSY then d.errLocked p 0x201C
  else if d.cy.burn.isSome then d.wr CL_CMD_STATUS_CODE cBUSY
  else if d.rd PW_STATE_CUR ≠ 1 || d.on PW_STATUS_PFAIL || !d.on CL_STATUS_ALL_TRACED then d.wr CL_CMD_STATUS_CODE cREFUSED
  else
    match (upTo 24).find? fun k => !slotUsed (d.recordSlot k) with
    | none => d.wr CL_CMD_STATUS_CODE 0x10
    | some k =>
      ((d.raise CL_CMD_STATUS_BUSY).wr CL_CMD_STATUS_SLOT k).modCl fun c =>
        { c with burn := some (k, recordOf c.held (d.rd CL_COUNT_COUNT)) }

/-- Write a record slot. -/
def putSlot (k : Nat) (r : List Byte) (d : Dev) : Dev :=
  { d with fuses := { d.fuses with records := vmod d.fuses.records k fun _ => r } }

/-- The burn ends: with its marker, or stopped before it by a read-back that differs (R433). -/
def commitBurnDone (ok : Bool) (d : Dev) : Dev :=
  match d.cl.burn with
  | none => d
  | some (k, r) =>
    let d := (putSlot k (if ok then r else r.take 58 ++ zeros 6) d).modCl fun c => { c with burn := none }
    readSlots ((d.lower CL_CMD_STATUS_BUSY).wr CL_CMD_STATUS_CODE (if ok then cDONE else 0x11))

/-- A reset stops a commit (R434): whether a bit has been burned by then is open; a marker never has. -/
def commitCut (d : Dev) : Dev :=
  match d.cl.burn with
  | none => d
  | some (k, r) =>
    let x := d.free
    let d := x.2.modCl fun c => { c with burn := none }
    if x.1 % 2 = 1 then putSlot k (r.take 58 ++ zeros 6) d else d

/-! The meanings of the rows of this family. -/

/-- CAL_STEP_DONE (R423): Calibration step 1 or 4 completes, tracing or falling back. -/
def execCalStepDone (dev lvl ppm : Int) (iref ofs slope : Byte) (s : State) : Host.Outcome State Fault Refusal :=
  s.act (Machine.calStepDone dev lvl ppm iref.toNat ofs.toNat slope.toNat)

/-- CAL_BLOCK (R424): 100 µs after a slot boundary, a step 2 or 3 block runs for a VRF group, with the foreign-field checks. -/
def execCalBlock (m0 m1 m2 m3 : CalMeas) (s : State) : Host.Outcome State Fault Refusal :=
  s.act (Machine.calBlock [m0, m1, m2, m3])

/-- CAL_FINISH (R425): Finishing writes every calibration result at once, increments CL_COUNT and leaves Trim for Run. -/
def execCalFinish (s : State) : Host.Outcome State Fault Refusal :=
  s.act (Machine.calFinish)

/-- COMMIT (R432): CL_CMD.OP = COMMIT burns the last calibration's trims into the lowest blank fuse record slot, if permitted. -/
def execCommit (p : Path) (s : State) : Host.Outcome State Fault Refusal :=
  s.act (onPort 0x2000 p (commitCmd p))

/-- COMMIT_BURN_DONE (R433): A fuse record commit completes with its marker burned, or stops with FUSE_FAIL. -/
def execCommitBurnDone (ok : Bool) (s : State) : Host.Outcome State Fault Refusal :=
  s.act (Machine.commitBurnDone ok)

end Sys2Proof.Machine
end

