-- ==== Sys2Proof/Machine/Links.lean ====
section
/-!
DEFINITION. Hawser links: the port's states, link frames, the packet stream of a lane, go-back-N retry, drops (R356 to R364),
and packets as they stand on a link (R365).
-/

namespace Sys2Proof.Machine

/-- Port `p` of the Hawser. -/
def Dev.port (d : Dev) (p : Nat) : HsPort := vget d.hs.ports p HsPort.reset

/-- Change the router's state, or a port. -/
def Dev.modHs (d : Dev) (f : HsSt → HsSt) : Dev := { d with hs := f d.hs }
def Dev.modPort (d : Dev) (p : Nat) (f : HsPort → HsPort) : Dev := d.modHs fun h => { h with ports := vmod h.ports p f }

/-- The states of R360 in HSp_STATUS.LINK. -/
abbrev lOFF : Nat := 0
abbrev lDETECT : Nat := 1
abbrev lTRAIN : Nat := 2
abbrev lALIGN : Nat := 3
abbrev lEXCHANGE : Nat := 4
abbrev lUP : Nat := 5
abbrev lFOREIGN : Nat := 6
abbrev lLOOP : Nat := 7
abbrev lBOOT_PEER : Nat := 8

/-- LINK of port `p`. -/
def Dev.link (d : Dev) (p : Nat) : Nat := d.rd (HSP_STATUS_LINK p)

/-- Do the ports' clocks run? -/
def Dev.hsRuns (d : Dev) : Bool := d.coreRuns

/-- Does the port carry frames? -/
def Dev.carries (d : Dev) (p : Nat) : Bool := d.hsRuns && (d.link p == lUP || d.link p == lBOOT_PEER)

/-! Packets (R365). -/

/-- A packet: CLASS, DST, QSEL, LOCAL, SRC, TTL, TYPE, PSEQ, payload. -/
structure Packet where
  cls : Nat
  dst : Nat
  qsel : Nat
  loc : Bool
  src : Nat
  ttl : Nat
  typ : Nat
  pseq : Nat
  body : List Byte
deriving DecidableEq, Repr

/-- The bytes of a packet, with its PCRC. -/
def Packet.bytes (x : Packet) : List Byte :=
  let head := leBytes 2 (x.cls * 4096 + x.dst % 4096) ++ leBytes 2 (x.qsel * 16384 + b2n x.loc * 8192 + x.src % 4096)
    ++ [BitVec.ofNat 8 x.ttl, BitVec.ofNat 8 x.typ] ++ leBytes 2 x.body.length ++ leBytes 2 x.pseq ++ [0, 0]
  head ++ leBytes 4 (crc32 (head ++ x.body)) ++ x.body

/-- A packet read from its bytes. -/
def parsePacket (bs : List Byte) : Packet :=
  let a := le16At bs 0
  let b := le16At bs 2
  { cls := a / 4096, dst := a % 4096, qsel := b / 16384, loc := bit b 13, src := b % 4096, ttl := u8At bs 4, typ := u8At bs 5,
    pseq := le16At bs 8, body := (bs.drop 16).take (le16At bs 6) }

/-- Is the PCRC of a packet right? -/
def pcrcOk (bs : List Byte) : Bool := le32At bs 12 == crc32 (bs.take 12 ++ bs.drop 16)

/-- The control lane carries classes DISC, LSA and RESET (R362). -/
def controlClass (cls : Nat) : Bool := cls == 1 || cls == 2 || cls == 6

/-- Bytes that wait in a lane of a port's buffer (R367). -/
def TxLane.waitingBytes (l : TxLane) : Nat := (l.waiting.map fun x => x.2.length).sum

/-- The lane of a packet. -/
def HsPort.lane (x : HsPort) (control : Bool) : TxLane := if control then x.control else x.message

/-- Change a lane. -/
def HsPort.modLane (x : HsPort) (control : Bool) (f : TxLane → TxLane) : HsPort :=
  if control then { x with control := f x.control } else { x with message := f x.message }

/-- Is there room for `n` bytes in the 64 KiB buffer of a lane (R367)? -/
def Dev.room (d : Dev) (p : Nat) (control : Bool) (n : Nat) : Bool :=
  decide (((d.port p).lane control).waitingBytes + n ≤ 65536)

/-- Hand a packet to a port: it waits in its lane, or is dropped for want of room and counted (R367). -/
def sendOn (p : Nat) (bs : List Byte) (d : Dev) : Dev :=
  let control := controlClass (parsePacket bs).cls
  if !d.room p control bs.length then d.countSat HS_STATS_FWD_DROP 1
  else
    let i := d.hs.pid + 1
    (d.modHs fun h => { h with pid := i }).modPort p fun x =>
      x.modLane control fun l => { l with waiting := l.waiting ++ [(i, bs)] }

/-- Ports in UP. -/
def Dev.upPorts (d : Dev) : List Nat := (upTo 4).filter fun p => d.link p = lUP

/-- A LOCAL packet for the neighbour on port `p` (R365, R367). -/
def sendLocal (p cls typ : Nat) (body : List Byte) (d : Dev) : Dev :=
  let s := d.hs.pseq
  let x : Packet := { cls := cls, dst := 0, qsel := 0, loc := true, src := if d.on HS_STATUS_ADDR_VALID then d.rd HS_STATUS_ADDR else 0, ttl := 1, typ := typ, pseq := s, body := body }
  sendOn p x.bytes (d.modHs fun h => { h with pseq := (s + 1) % 65536 })

/-! Link frames (R362). -/

/-- Packets taken from a lane into `room` bytes: the bytes, the packets' numbers, what is left of the last, the rest. -/
def fillFrom : Nat → List (Nat × List Byte) → List Byte × List Nat × (Nat × List Byte) × List (Nat × List Byte)
  | _, [] => ([], [], (0, []), [])
  | room, (i, b) :: ws =>
    if room = 0 then ([], [], (0, []), (i, b) :: ws)
    else if b.length ≤ room then
      let r := fillFrom (room - b.length) ws
      (b ++ r.1, i :: r.2.1, r.2.2.1, r.2.2.2)
    else (b.take room, [i], (i, b.drop room), ws)

/-- Does a lane have bytes to send? -/
def TxLane.busy (l : TxLane) : Bool := !l.current.2.isEmpty || !l.waiting.isEmpty

/-- The next DATA frame of a lane, and the lane behind it. -/
def nextData (l : TxLane) (control : Bool) (fseq : Nat) : TxFrame × TxLane :=
  let head := l.current.2.take 216
  let rest := l.current.2.drop 216
  let r := if rest.isEmpty then fillFrom (216 - head.length) l.waiting else ([], [], (l.current.1, rest), l.waiting)
  let payload := head ++ r.1
  ({ fseq := fseq, control := control, start := if r.1.isEmpty then 0x3FF else head.length,
     payload := payload ++ List.replicate (216 - payload.length) 0,
     packets := (if head.isEmpty then [] else [l.current.1]) ++ r.2.1, sent := true, resent := 0 },
   { waiting := r.2.2.2, current := r.2.2.1 })

/-- The 224 bytes of a link frame. -/
def frameBytes (kind fseq ack : Nat) (nak control : Bool) (start : Nat) (payload : List Byte) : List Byte :=
  let h := kind * 2 ^ 28 + fseq % 256 * 2 ^ 20 + ack % 256 * 2 ^ 12 + b2n nak * 2048 + b2n control * 1024 + start % 1024
  let body := leBytes 4 h ++ (payload ++ List.replicate 216 0).take 216
  body ++ leBytes 4 (crc32 body)

/-- A timestamp in 2⁻¹⁶ ns in the 96-bit format. -/
def Dev.stamp16 (d : Dev) (t : Nat) : List Byte := stampBytes (d.stampOf (t * 2 ^ 24))

/-- Time now in 2⁻¹⁶ ns. -/
def Dev.time16 (d : Dev) : Nat := d.time / 2 ^ 24

/-- The content of a time frame as it leaves (R381). -/
def timePayload (t : TimeFrame) (d : Dev) : List Byte :=
  if t.kind = 3 then
    d.stamp16 d.time16 ++ leBytes 8 (d.rd HS_ROOT_ID) ++ leBytes 1 (d.rd HS_UPSTREAM_HOPS) ++ leBytes 1 (d.rd TC_STATUS_HOLDOVER)
      ++ leBytes 2 (d.rd HS_STATUS_ADDR)
  else if t.kind = 4 then d.stamp16 d.time16 ++ leBytes 2 (d.rd HS_STATUS_ADDR)
  else d.stamp16 t.t4 ++ d.stamp16 t.t3

/-! Drops and power (R357, R360, R364). -/

/-- The packets that a link loses: those with a frame unacknowledged. -/
def HsPort.lost (x : HsPort) : List Nat :=
  ((x.window.map (·.packets)).flatten ++ (if x.control.current.2.isEmpty then [] else [x.control.current.1])
    ++ (if x.message.current.2.isEmpty then [] else [x.message.current.1])).eraseDups

/-- The link's contents go: unacknowledged packets and LOCAL ones are discarded and counted, the others wait for a new next
hop (R364). -/
def emptyLink (p : Nat) (d : Dev) : Dev :=
  let x := d.port p
  let waiting := (x.control.waiting ++ x.message.waiting).map (·.2)
  let keep := waiting.filter fun b => !(parsePacket b).loc
  let n := x.lost.length + (waiting.length - keep.length)
  (((d.countSat HS_STATS_LINK_DROP n).modHs fun h =>
    { h with orphans := h.orphans ++ keep, stale := true, serving := if (h.serving.map (·.1)) = some p then none else h.serving }).modPort p
      fun x => { HsPort.reset with arrived := x.arrived, holdoff := x.holdoff, seed := x.seed, peerSeed := x.peerSeed }).wr (HSP_STATUS_NEIGH p) 0
    |>.lower (HSP_STATUS_NEIGH_VALID p)

/-- LINK of a port changes. -/
def setLink (p s : Nat) (d : Dev) : Dev := (d.wr (HSP_STATUS_LINK p) s).lower (HSP_CFG_RETRAIN p)

/-- A link in UP or BOOT_PEER drops (R364); the port returns to DETECT, and starts to detect 1 ms later (R360). -/
def linkDrop (p : Nat) (d : Dev) : Dev :=
  let d := emptyLink p ((d.raise (HSP_STATUS_DOWN_SEEN p)).countSat (HSP_ERR_DOWN p) 1)
  setLink p lDETECT (d.modPort p fun x => { x with holdoff := true })

/-- Is port `p` powered (R357)? A neighbour boot powers the port that the boot ROM uses (R94). -/
def Dev.portPowered (d : Dev) (p : Nat) : Bool :=
  let mode := d.rd HS_STATUS_MODE
  (d.applied && bit (d.rd HS_MCFG_PORTS) p && (mode = 1 || (mode = 2 && p ≤ 1)))
    || (d.coreRuns && (d.boot.phase == .fetch || d.boot.phase == .reload) && d.boot.source == 4 && d.boot.port == p)

/-- The ports take the power that R357 gives them. -/
def powerPorts (d : Dev) : Dev :=
  d.each (upTo 4) fun p d =>
    let on := d.portPowered p
    if on && d.link p = lOFF then setLink p lDETECT d
    else if !on && d.link p ≠ lOFF then
      let d := if d.link p = lUP || d.link p = lBOOT_PEER then emptyLink p d else d
      setLink p lOFF (d.modPort p fun x => { HsPort.reset with arrived := x.arrived })
    else d

/-! Training (R360). -/

/-- Line energy has been received for 100 µs: the training seeds the transmit scrambler, with a value that the spec leaves open (R358). -/
def linkDetect (p : Nat) (d : Dev) : Dev :=
  if d.hsRuns && d.link p = lDETECT && !(d.port p).holdoff then
    let r := d.free
    setLink p lTRAIN (r.2.modPort p fun x => { x with seed := r.1 % 2 ^ 31 })
  else d

/-- Training has converged on both ends. -/
def linkTrainDone (p : Nat) (d : Dev) : Dev := if d.hsRuns && d.link p = lTRAIN then setLink p lALIGN d else d

/-- Eight codewords have decoded with a zero syndrome. -/
def linkAlignDone (p : Nat) (d : Dev) : Dev := if d.hsRuns && d.link p = lALIGN then setLink p lEXCHANGE d else d

/-- 100 ms without a final state; a receiver that heard nothing sets NO_SIGNAL_SEEN (R356). -/
def linkTrainTimeout (p : Nat) (d : Dev) : Dev :=
  let s := d.link p
  if !d.hsRuns || s < 1 || 4 < s then d
  else setLink p lDETECT (d.raiseIf (s = lDETECT) (HSP_STATUS_NO_SIGNAL_SEEN p))

/-- 1 ms after a drop. -/
def linkRedetect (p : Nat) (d : Dev) : Dev :=
  if d.hsRuns && d.link p = lDETECT then d.modPort p fun x => { x with holdoff := false } else d

/-- A port in FOREIGN or LOOP loses line energy. -/
def lineEnergyLost (p : Nat) (d : Dev) : Dev :=
  if d.hsRuns && (d.link p = lFOREIGN || d.link p = lLOOP) then setLink p lDETECT d else d

/-! Codewords (R361 to R364). -/

/-- Whole packets at the front of bytes that begin with one; `n` bounds the count. Bytes of class 0 are padding. -/
def takePackets : Nat → List Byte → List (List Byte) × List Byte
  | 0, bs => ([], bs)
  | n + 1, bs =>
    if bs.length < 2 then ([], bs)
    else if le16At bs 0 < 4096 then ([], [])
    else if bs.length < 16 || bs.length < 16 + le16At bs 6 then ([], bs)
    else
      let k := 16 + le16At bs 6
      let r := takePackets n (bs.drop k)
      (bs.take k :: r.1, r.2)

/-- A payload behind what a lane has of its present packet: complete packets, and what remains; out of step, only from START
on. -/
def takeStream (buf : Option (List Byte)) (start : Nat) (payload : List Byte) : List (List Byte) × Option (List Byte) :=
  let cont := if start = 0x3FF then payload else payload.take start
  let a := match buf with
    | none => ([], none)
    | some b => let r := takePackets 16 (if b.isEmpty then [] else b ++ cont); (r.1, some r.2)
  if start = 0x3FF then a
  else
    let r := takePackets 16 (payload.drop start)
    (a.1 ++ r.1, some r.2)

/-- The sender returns to its oldest unacknowledged frame (R363), and the link drops past RETRY_MAX (R364). -/
def goBack (p : Nat) (d : Dev) : Dev :=
  match (d.port p).window with
  | [] => d
  | f :: fs =>
    if d.rd (HSP_CFG_RETRY_MAX p) < f.resent + 1 then linkDrop p d
    else d.modPort p fun x => { x with window := { f with resent := f.resent + 1 } :: fs, cursor := 0 }

/-- An acknowledgement: every frame up to the one named leaves the window (R363). -/
def ackFrames (p a : Nat) (d : Dev) : Dev :=
  let w := (d.port p).window
  match w.findIdx? (·.fseq = a) with
  | none => d
  | some i => d.modPort p fun x => { x with window := w.drop (i + 1), cursor := x.cursor - (i + 1) }

/-- A failed or discarded frame: one NAK for each gap (R363). -/
def gapSeen (p : Nat) (d : Dev) : Dev :=
  d.modPort p fun x => if x.gap then x else { x with gap := true, nakDue := true }

/-- A DATA frame (R363): accepted in order, or discarded. -/
def dataFrame (p : Nat) (f : LinkFrame) (d : Dev) : Dev :=
  let x := d.port p
  if f.fseq.toNat ≠ x.expect then gapSeen p d
  else
    let r := takeStream (if f.control then x.rxControl else x.rxMessage) f.start.val f.payload
    d.modPort p fun x =>
      let x := { x with expect := (x.expect + 1) % 256, gap := false, arrived := x.arrived ++ r.1 }
      if f.control then { x with rxControl := r.2 } else { x with rxMessage := r.2 }

/-- A codeword is decoded, or fails (R361, R363, R364). -/
def codeword (p : Nat) (f : Option LinkFrame) (corrected : Bool) (iterAvg snr : Byte) (d : Dev) : Dev :=
  if !d.carries p then d
  else
    let d := ((d.count (HSP_CW_COUNT p) 1).wr (HSP_DIAG_ITER_AVG p) iterAvg.toNat).wr (HSP_DIAG_SNR p) snr.toNat
    match f with
    | none =>
      let d := gapSeen p ((d.countSat (HSP_ERR_CW_FAIL p) 1).modPort p fun x => { x with failed := x.failed + 1 })
      if 32 ≤ (d.port p).failed then linkDrop p d else d
    | some f =>
      let d := if corrected then d.count (HSP_CORR_COUNT p) 1 else d
      let d := ackFrames p f.ack.toNat (d.modPort p fun x => { x with failed := 0 })
      let d := if f.nak then goBack p d else d
      if f.kind.val = 1 && d.carries p then dataFrame p f d else d

/-- The oldest unacknowledged frame has waited ACK_TO µs (R363). -/
def ackTimeout (p : Nat) (d : Dev) : Dev := if d.carries p then goBack p d else d

/-- What a neighbour boot still streams (R379): the next BOOT_DATA packet, or BOOT_END. -/
def serveBoot (p : Nat) (d : Dev) : Dev :=
  match d.hs.serving with
  | some (q, off) =>
    if q ≠ p || (d.port p).message.busy then d
    else
      let total := d.boot.staged.2
      let base := 0x10000000 + d.boot.staged.1
      if total ≤ off then (sendLocal p 4 3 (leBytes 4 total) d).modHs fun h => { h with serving := none }
      else
        let n := min 1004 (total - off)
        (sendLocal p 4 2 (leBytes 4 off ++ Memory.read d.mem (base + off) n) d).modHs fun h => { h with serving := some (p, off + n) }
  | none => d

/-- Does the boot ROM train this port (R379)? -/
def Dev.marksBooting (d : Dev) (p : Nat) : Bool :=
  d.boot.phase == .fetch || (d.boot.phase == .reload && d.boot.source == 4 && d.boot.port == p)

/-- The content of TRAIN_INFO, in the order in which R360 names it: unit ID, FABRIC_ID, port, mode, ROOT_PRIORITY, the mark of a boot, the
scrambler seed. The spec gives no layout (DESIGN CHOICE, assumption 17). -/
def trainPayload (p : Nat) (d : Dev) : List Byte :=
  leBytes 8 (d.rd GC_UNITID_ID) ++ leBytes 4 (d.rd HS_FABRIC_ID_ID) ++ leBytes 1 p ++ leBytes 1 (d.rd HS_STATUS_MODE)
    ++ leBytes 1 (d.rd HS_MCFG_PRIORITY) ++ leBytes 1 (b2n (d.marksBooting p)) ++ leBytes 4 (d.port p).seed

/-- A codeword boundary (R362): the next link frame leaves, with the current ACK and NAK; in EXCHANGE it is TRAIN_INFO (R360). A frame due
in a reserved slot goes there; then the frames to be sent again, the control lane, the message lane, or IDLE. -/
def linkFrameSend (p : Nat) (d : Dev) : Dev :=
  if d.hsRuns && d.link p = lEXCHANGE then
    { d with out := bytesToWords (frameBytes 6 0 (((d.port p).expect + 255) % 256) false false 0x3FF (trainPayload p d)) }
  else if !d.carries p then d
  else
    let d := serveBoot p d
    let x := d.port p
    let ack := (x.expect + 255) % 256
    let d := if x.nakDue then (d.countSat (HSP_ERR_NAK p) 1).modPort p fun x => { x with nakDue := false } else d
    let emit (kind fseq : Nat) (control : Bool) (start : Nat) (payload : List Byte) (d : Dev) : Dev :=
      { d with out := bytesToWords (frameBytes kind fseq ack x.nakDue control start payload) }
    match x.times with
    | t :: ts =>
      let d := if t.kind = 4 then d.modTc fun c => { c with t3 := d.time16 } else d
      emit t.kind 0 false 0x3FF (timePayload t d) (d.modPort p fun x => { x with times := ts })
    | [] =>
      match x.window.drop x.cursor with
      | f :: _ =>
        emit 1 f.fseq f.control f.start f.payload
          ((d.countSat (HSP_ERR_RESENT p) 1).modPort p fun x => { x with cursor := x.cursor + 1 })
      | [] =>
        let control := x.control.busy
        if x.window.length < 64 && (control || x.message.busy) then
          let r := nextData (x.lane control) control x.nextSeq
          emit 1 r.1.fseq control r.1.start r.1.payload (d.modPort p fun x =>
            { x.modLane control (fun _ => r.2) with window := x.window ++ [r.1], cursor := x.cursor + 1,
                                                    nextSeq := (x.nextSeq + 1) % 256 })
        else emit 0 0 false 0x3FF [] d

end Sys2Proof.Machine
end

