-- ==== Sys2Proof/Machine/Fabric.lean ====
section
/-!
DEFINITION. The Hawser's router: discovery and the root, addresses, link state, routing, upstream, fabric events, messages,
resets, time beacons and Cascade (R365 to R385). Contents of router messages whose bytes the spec does not lay out come as the
operands of their rows, and leave in the layout of assumption 17.
-/

namespace Sys2Proof.Machine

/-- The unit ID of this device (R450). -/
def Dev.unitId (d : Dev) : Nat := d.rd GC_UNITID_ID

/-- Mode in force: 0 off, 1 Hawser, 2 Cascade; phases of discovery. -/
def Dev.hsMode (d : Dev) : Nat := d.rd HS_STATUS_MODE
def Dev.disc (d : Dev) : Nat := d.rd HS_STATUS_DISC

/-- Queue a FABRIC_EVENT (R376). -/
def fabricEvent (kind prev : Nat) (d : Dev) : Dev :=
  let addr := if d.on HS_STATUS_ADDR_VALID then d.rd HS_STATUS_ADDR else 0
  d.post 28 0x73 ([packW [(24, 8, kind), (12, 12, addr), (0, 12, prev)]] ++ d.stamp ++ words64 (d.rd HS_ROOT_ID))

/-- A candidate is better when its priority is lower, then its unit ID (R369). -/
def better (a b : Nat × Nat × Nat) : Bool := decide (a.1 < b.1) || (a.1 == b.1 && decide (a.2.1 < b.2.1))

/-- A router message on every port in UP but one. -/
def flood (skip : Option Nat) (cls typ : Nat) (body : List Byte) (d : Dev) : Dev :=
  d.each (d.upPorts.filter fun p => some p ≠ skip) fun p => sendLocal p cls typ body

/-- The root of the fabric becomes a unit (R343, R375): a change is reported, and TC_MASTER follows. -/
def setRoot (prio unit : Nat) (d : Dev) : Dev :=
  let old := d.rd HS_ROOT_ID
  let d := (d.wr HS_ROOT_ID unit).wr HS_ROOTINFO_PRIORITY prio
  if old = unit then d
  else
    let d := if unit ≠ 0 then fabricEvent 4 0 (d.raise HS_STATUS_ROOT_CHANGED_SEEN) else d
    if d.rd TC_CFG_SRC = 2 then setMaster unit d else d

/-- The device takes an address (R371, R372, R383). -/
def setAddr (a : Nat) (conflict : Bool) (d : Dev) : Dev :=
  let had := d.on HS_STATUS_ADDR_VALID
  let old := d.rd HS_STATUS_ADDR
  let d := (((d.wr HS_STATUS_ADDR a).raise HS_STATUS_ADDR_VALID).lower HS_STATUS_ADDR_FULL).modHs fun h => { h with stale := true }
  let d := if conflict then fabricEvent 5 0 (d.raise HS_STATUS_CONFLICT_SEEN) else d
  if had && old ≠ a then fabricEvent 2 old (d.raise HS_STATUS_ADDR_CHANGED_SEEN) else d

/-! Discovery (R369, R370). -/

/-- ELECT starts: the device is its own best candidate. -/
def startElect (d : Dev) : Dev :=
  (d.wr HS_STATUS_DISC 1).modHs fun h => { h with cand := (d.rd HS_MCFG_PRIORITY, d.unitId, 0), candAt := d.ns, electAt := d.ns,
                                                  asked := [] }

/-- Discovery runs with a port in UP, and not without one (R369, R370). -/
def checkDiscovery (d : Dev) : Dev :=
  if d.hsMode ≠ 1 then d
  else if d.upPorts.isEmpty then d.wr HS_STATUS_DISC 0
  else if d.disc = 0 then startElect d
  else d

/-- This device's LSA as it stands (R373). -/
def Dev.ownLsa (d : Dev) : Lsa :=
  { addr := d.rd HS_STATUS_ADDR, unit := d.unitId, seq := (d.hs.lsaSeq + 1) % 2 ^ 32,
    links := (d.upPorts.filter fun p => d.on (HSP_STATUS_NEIGH_VALID p)).map fun p =>
      (p, d.rd (HSP_STATUS_NEIGH p), d.rd (HSP_CFG_COST p)),
    upstream := if d.on HS_UPSTREAM_VALID then some (d.rd HS_UPSTREAM_NEIGH) else none, at_ := d.ns }

/-- The bytes of an LSA (assumption 17). -/
def Lsa.bytes (l : Lsa) : List Byte :=
  leBytes 2 l.addr ++ leBytes 2 (l.upstream.getD 0xFFFF) ++ leBytes 8 l.unit ++ leBytes 4 l.seq ++ leBytes 4 l.links.length
    ++ (l.links.map fun x => leBytes 1 x.1 ++ leBytes 1 x.2.2 ++ leBytes 2 x.2.1).flatten

/-- Keep an LSA in the set, one for each unit. -/
def putLsa (l : Lsa) (d : Dev) : Dev :=
  d.modHs fun h => { h with lsas := h.lsas.filter (·.unit ≠ l.unit) ++ [l], stale := true }

/-- Flood the device's LSA (R373). -/
def floodOwn (d : Dev) : Dev :=
  if d.disc ≠ 3 then d
  else
    let l := d.ownLsa
    flood none 2 1 l.bytes (putLsa l (d.modHs fun h => { h with lsaSeq := l.seq }))

/-- RUN is reached (R369, R370). -/
def reachRun (d : Dev) : Dev := floodOwn ((d.wr HS_STATUS_DISC 3).wr HS_STATUS_FAILS 0)

/-- The port toward the root in the election tree: the neighbour with the lowest hop distance to the candidate, then the lower
port (R369). -/
def Dev.treePort (d : Dev) : Option Nat :=
  let xs := d.upPorts.filterMap fun p => match (d.port p).heard with
    | some c => if c.2.1 = d.hs.cand.2.1 then some (c.2.2, p) else none
    | none => none
  (xs.foldl (fun (m : Option (Nat × Nat)) x => match m with
    | none => some x
    | some y => if x.1 < y.1 then some x else some y) none).map (·.2)

/-- An address request on its way to the root. -/
def sendRequest (unit : Nat) (held : Option Nat) (d : Dev) : Dev :=
  match d.treePort with
  | some p => sendLocal p 1 2 (leBytes 8 unit ++ leBytes 2 (held.getD 0xFFFF)) d
  | none => d

/-- An expired binding is of no account: 24 h after the unit was last present (R371). -/
def Binding.live (b : Binding) (now : Nat) : Bool := b.present || decide (now < b.last + 86400 * 1000000000)

/-- The root's answer to a request (R371): the bound address, the one named, the lowest unbound one, or none. -/
def Dev.choose (d : Dev) (unit : Nat) (held : Option Nat) : Option Nat :=
  let bs := d.hs.bindings.filter (·.live d.ns)
  let taken (a : Nat) : Bool := bs.any fun b => b.addr == a && b.unit != unit
  match bs.find? (·.unit = unit) with
  | some b => some b.addr
  | none =>
    match held with
    | some a => if taken a then (upTo 4096).find? fun a => !taken a else some a
    | none => (upTo 4096).find? fun a => !taken a

/-- Bind a unit to an address, as present now. -/
def bind (unit a : Nat) (d : Dev) : Dev :=
  let now := d.ns
  d.modHs fun h =>
    let age := ((h.bindings.find? (·.unit = unit)).map (·.age)).getD ((h.bindings.map (·.age)).foldl max 0 + 1)
    { h with bindings := h.bindings.filter (fun b => b.unit ≠ unit && (b.addr ≠ a || b.live now))
        ++ [⟨unit, a, true, now, age⟩] }

/-- The root assigns and floods the binding (R371). -/
def assignAs (unit : Nat) (a : Nat) (d : Dev) : Dev :=
  flood none 1 4 (leBytes 8 unit ++ leBytes 2 a) (bind unit a d)

/-- The root takes its own address by the rule of every request, and reaches RUN (R371). -/
def rootAddress (d : Dev) : Dev :=
  let held := if d.on HS_STATUS_ADDR_VALID then some (d.rd HS_STATUS_ADDR) else none
  match d.choose d.unitId held with
  | some a => reachRun ((assignAs d.unitId a (setAddr a false d)).wr HS_ROOTINFO_ADDR a)
  | none => (d.raise HS_STATUS_ADDR_FULL).wr HS_STATUS_DISC 2

/-- ELECT ends: the candidate has been unchanged for 100 ms (R369). -/
def electEnd (d : Dev) : Dev :=
  if !d.applied || d.hsMode ≠ 1 || d.disc ≠ 1 then d
  else
    let d := d.reach (d.hs.candAt + 100000000)
    let c := d.hs.cand
    let d := setRoot c.1 c.2.1 d
    if c.2.1 = d.unitId then rootAddress (d.wr HS_STATUS_ROLE 2)
    else
      let d := d.wr HS_STATUS_ROLE 1
      if d.on HS_STATUS_ADDR_VALID then reachRun d
      else sendRequest d.unitId none (d.wr HS_STATUS_DISC 2)

/-- A HELLO every 10 ms in ELECT on every port in UP (R369). -/
def helloSend (d : Dev) : Dev :=
  if !d.applied || d.disc ≠ 1 then d
  else
    let c := d.hs.cand
    flood none 1 1 (leBytes 1 (d.rd HS_MCFG_PRIORITY) ++ leBytes 8 d.unitId ++ leBytes 1 c.1 ++ leBytes 8 c.2.1 ++ leBytes 2 c.2.2) d

/-- A HELLO received: a better candidate is adopted (R369); a shorter way to the same candidate gives its hop distance. -/
def hello (p : Nat) (prio unit hops : Nat) (d : Dev) : Dev :=
  if !d.applied || d.link p ≠ lUP || d.hsMode ≠ 1 then d
  else
    let c := (prio, unit, hops)
    let d := d.modPort p fun x => { x with heard := some c }
    let d := if d.disc ≠ 1 && better c (d.rd HS_ROOTINFO_PRIORITY, d.rd HS_ROOT_ID, 0) then startElect d else d
    if d.disc = 1 && better c d.hs.cand then
      d.modHs fun h => { h with cand := (prio, unit, hops + 1), candAt := d.ns }
    else if d.disc = 1 && unit = d.hs.cand.2.1 && hops + 1 < d.hs.cand.2.2 then
      d.modHs fun h => { h with cand := (prio, unit, hops + 1) }
    else d

/-! The upstream (R375). -/

/-- The upstream port, its neighbour and the hops take values; a change while the root stays is reported (R375). -/
def setUpstream (v : Option (Nat × Nat × Nat)) (sameRoot : Bool) (d : Dev) : Dev :=
  let had := d.on HS_UPSTREAM_VALID
  let old := (d.rd HS_UPSTREAM_PORT, d.rd HS_UPSTREAM_NEIGH)
  let d := d.each (upTo 4) fun p d => d.flag (HSP_STATUS_UPSTREAM p) (match v with | some x => x.1 == p | none => false)
  let d := match v with
    | some (p, a, h) => (((d.raise HS_UPSTREAM_VALID).wr HS_UPSTREAM_PORT p).wr HS_UPSTREAM_NEIGH a).wr HS_UPSTREAM_HOPS (min h 255)
    | none => (((d.lower HS_UPSTREAM_VALID).wr HS_UPSTREAM_PORT 0).wr HS_UPSTREAM_NEIGH 0).wr HS_UPSTREAM_HOPS 0
  let changed := match v with
    | some (p, a, _) => !had || (p, a) ≠ old
    | none => had
  let portChanged := match v with
    | some (p, _, _) => !had || p ≠ old.1
    | none => had
  let d := if portChanged then d.modTc fun t => { t with dlyPort := none } else d
  if changed && sameRoot then
    fabricEvent 3 (if had then old.2 else 0xFFF) (d.raise HS_STATUS_PATH_CHANGED_SEEN)
  else d

/-! Cascade (R382 to R384). -/

/-- Send CHAIN with a position (assumption 17). -/
def sendChain (p : Nat) (pos : Int) (strapped : Bool) (d : Dev) : Dev :=
  if d.link p = lUP then sendLocal p 1 5 (leBytes 2 (ofSigned 16 pos) ++ leBytes 1 (b2n strapped) ++ leBytes 8 (d.rd HS_ROOT_ID)) d
  else d

/-- The device becomes Cascade master, with address 0 (R383). -/
def becomeMaster (d : Dev) : Dev :=
  let sameRoot := d.rd HS_ROOT_ID = d.unitId
  let d := setRoot (d.rd HS_MCFG_PRIORITY) d.unitId (setAddr 0 false ((d.wr HS_STATUS_ROLE 3).wr HS_STATUS_DISC 4))
  let d := (setUpstream none sameRoot (d.wr HS_ROOTINFO_ADDR 0)).modHs fun h =>
    { h with position := 0, strapped := d.on GC_STRAP_CASCADE_MASTER }
  let s := d.on GC_STRAP_CASCADE_MASTER
  sendChain 0 (-1) s (sendChain 1 1 s d)

/-- Who is master (R383): the strapped device with no strapped one upstream, or, where no device has the strap, the one whose port 0 is
not in UP. -/
def checkCascade (d : Dev) : Dev :=
  if d.hsMode ≠ 2 then d
  else
    let member := d.rd HS_STATUS_ROLE = 1 && d.hs.strapped
    if (d.on GC_STRAP_CASCADE_MASTER || d.link 0 ≠ lUP) && !member then becomeMaster d
    else
      let d := if d.rd HS_STATUS_ROLE = 3 then d.wr HS_STATUS_ROLE 0 else d
      d.wr HS_STATUS_DISC 4

/-- A link of a Cascade member reaches UP: the member passes its numbering on (R383). -/
def extendChain (p : Nat) (d : Dev) : Dev :=
  if d.hsMode = 2 && d.rd HS_STATUS_ROLE = 1 && d.on HS_UPSTREAM_VALID && d.rd HS_UPSTREAM_PORT ≠ p then
    sendChain p (if p = 1 then d.hs.position + 1 else d.hs.position - 1) d.hs.strapped d
  else d

/-- Does an unstrapped device take its numbering from this CHAIN (R383): from its upstream, from a strapped master where it has none, or
one further upstream, or from an unstrapped one while it has no strapped one? -/
def Dev.followsChain (d : Dev) (p : Nat) (strapped : Bool) : Bool :=
  (d.on HS_UPSTREAM_VALID && d.rd HS_UPSTREAM_PORT == p) || (strapped && (!d.hs.strapped || p == 0))
    || (!strapped && !d.hs.strapped && p == 0)

/-- A CHAIN message (R383): the device takes its position and passes the chain on. A strapped device behind a strapped master is a
member, and reports the conflict; any other chain does not reach past a strapped device. -/
def chain (p : Nat) (pos : Int) (strapped : Bool) (master : Nat) (d : Dev) : Dev :=
  if !d.applied || d.hsMode ≠ 2 || d.link p ≠ lUP || 1 < p then d
  else if d.on GC_STRAP_CASCADE_MASTER && (!strapped || p = 1) then d
  else if !d.on GC_STRAP_CASCADE_MASTER && !d.followsChain p strapped then d
  else
    let d := if d.on GC_STRAP_CASCADE_MASTER then fabricEvent 5 0 (d.raise HS_STATUS_CONFLICT_SEEN) else d
    let sameRoot := d.rd HS_ROOT_ID = master
    let d := setRoot (d.rd HS_ROOTINFO_PRIORITY) master ((d.wr HS_STATUS_ROLE 1).wr HS_STATUS_DISC 4)
    let d := setAddr (pos % 4096).toNat false (d.modHs fun h => { h with position := pos, strapped := strapped })
    let back : Int := if p = 0 then pos - 1 else pos + 1
    let d := setUpstream (some (p, (back % 4096).toNat, pos.natAbs)) sameRoot d
    sendChain (1 - p) (if p = 0 then pos + 1 else pos - 1) strapped d

/-- Cascade is entered (R370, R382). -/
def enterCascade (d : Dev) : Dev :=
  let d := (((d.wr HS_STATUS_MODE 2).wr HS_STATUS_DISC 4).wr HS_STATUS_ROLE 0).modHs fun h =>
    { h with routes := [], lsas := [], strapped := false }
  checkCascade (powerPorts d)

/-- Discovery has not reached RUN within DISC_TIMEOUT (R370); a device without an address for want of a free one asks again
(R371). -/
def discoveryTimeout (d : Dev) : Dev :=
  if !d.applied || d.hsMode ≠ 1 || (d.disc ≠ 1 && d.disc ≠ 2) then d
  else
    let d := d.reach (d.hs.electAt + d.rd HS_CFG_DISC_TIMEOUT * 10000000)
    if d.on HS_STATUS_ADDR_FULL then
      let d := d.modHs fun h => { h with electAt := d.ns }
      if d.rd HS_STATUS_ROLE = 2 then rootAddress d else sendRequest d.unitId none d
    else
      let fails := min 8 (d.rd HS_STATUS_FAILS + 1)
      let d := d.wr HS_STATUS_FAILS fails
      if fails = 8 && d.rd HS_MCFG_MODE = 1 && d.rd HS_MCFG_PORTS % 4 = 3 then
        fabricEvent 1 0 (enterCascade (d.raise HS_STATUS_FALLBACK_SEEN))
      else startElect d

/-- REDISCOVER (R369, R382). -/
def rediscover (d : Dev) : Dev :=
  let d := (d.wr HS_CMD_STATUS_CODE cDONE).wr HS_STATUS_FAILS 0
  if d.rd HS_MCFG_MODE = 1 then
    let back := d.hsMode = 2
    let d := d.wr HS_STATUS_MODE 1
    let d := if back then ((d.wr HS_STATUS_DISC 0).wr HS_STATUS_ROLE 0) else d
    let d := powerPorts d
    if d.upPorts.isEmpty then d.wr HS_STATUS_DISC 0 else startElect d
  else d

/-! Links coming up (R360, R369, R383). -/

/-- TRAIN_INFO is received (R360). -/
def trainInfo (p : Nat) (i : TrainInfo) (d : Dev) : Dev :=
  if !d.hsRuns || d.link p ≠ lEXCHANGE then d
  else
    let d := ((d.wr (HSP_NEIGH_ID p) i.unit.toNat).wr (HSP_DIAG_LEN_M p) i.length.toNat).wr (HSP_DIAG_SNR p) i.snr.toNat
    let d := d.modPort p fun x => { HsPort.reset with priority := i.priority.toNat, seed := x.seed, peerSeed := i.seed.toNat }
    if i.booting then setLink p lBOOT_PEER d
    else if d.marksBooting p then sendLocal p 4 1 [] (setLink p lUP d)
    else if i.unit.toNat = d.unitId then (setLink p lLOOP d).raise (HSP_STATUS_LOOP_SEEN p)
    else if i.fabric.toNat ≠ d.rd HS_FABRIC_ID_ID then (setLink p lFOREIGN d).raise (HSP_STATUS_FOREIGN_SEEN p)
    else
      let d := setLink p lUP d
      let adv := (i.priority.toNat, i.unit.toNat, 0)
      let d := if d.hsMode = 1 && d.disc ≠ 0 && d.disc ≠ 1 && better adv (d.rd HS_ROOTINFO_PRIORITY, d.rd HS_ROOT_ID, 0) then
          startElect d
        else checkDiscovery d
      floodOwn (extendChain p (checkCascade d))

/-- What follows a drop (R364, R370, R373, R383): in Cascade, a device cut off from its master is numbered anew. -/
def afterDrop (p : Nat) (d : Dev) : Dev :=
  let d := floodOwn (checkDiscovery d)
  if d.hsMode ≠ 2 then d
  else if d.on HS_UPSTREAM_VALID && d.rd HS_UPSTREAM_PORT = p then
    checkCascade (((setUpstream none false d).wr HS_STATUS_ROLE 0).modHs fun h => { h with strapped := false })
  else checkCascade d

/-- A link fails (R364): 100 µs without a decoded codeword. -/
def linkDropEvent (p : Nat) (d : Dev) : Dev :=
  if d.carries p then afterDrop p (linkDrop p d) else d

/-- A row that may drop the link: what follows the drop follows here. -/
def withDrop (p : Nat) (f : Dev → Dev) (d : Dev) : Dev :=
  let was := d.link p
  let d := f d
  if (was = lUP || was = lBOOT_PEER) && d.link p = lDETECT then afterDrop p d else d

/-- RETRAIN (R360, R364): any state but OFF goes to DETECT. -/
def retrain (p : Nat) (d : Dev) : Dev :=
  if d.link p = lOFF then d
  else if d.link p = lUP || d.link p = lBOOT_PEER then afterDrop p (linkDrop p d)
  else setLink p lDETECT d

/-! Addresses (R371, R372). -/

/-- An ADDRESS_REQUEST (R371): the root answers; another device passes it toward the root. -/
def addressRequest (p unit : Nat) (held : Option Nat) (d : Dev) : Dev :=
  if !d.applied || d.link p ≠ lUP || d.hsMode ≠ 1 then d
  else if d.rd HS_STATUS_ROLE = 2 then
    match d.choose unit held with
    | some a => sendLocal p 1 3 (leBytes 8 unit ++ leBytes 2 a ++ [0, 0]) (assignAs unit a d)
    | none => sendLocal p 1 3 (leBytes 8 unit ++ leBytes 2 0xFFFF ++ [1, 0]) d
  else sendRequest unit held (d.modHs fun h => { h with asked := h.asked.filter (·.1 ≠ unit) ++ [(unit, p)] })

/-- An assignment (R371, R372): for this device, or passed to where its request came from. `none`: no address is free. -/
def addressAssign (p unit : Nat) (a : Option Nat) (conflict : Bool) (rootAddr : Nat) (d : Dev) : Dev :=
  if !d.applied || d.link p ≠ lUP || d.hsMode ≠ 1 then d
  else if unit = d.unitId then
    match a with
    | none => d.raise HS_STATUS_ADDR_FULL
    | some a =>
      let d := (setAddr a conflict d).wr HS_ROOTINFO_ADDR rootAddr
      if d.disc = 2 then reachRun d else floodOwn d
  else
    match d.hs.asked.find? (·.1 = unit) with
    | some (_, q) => sendLocal q 1 3 (leBytes 8 unit ++ leBytes 2 (a.getD 0xFFFF) ++ [BitVec.ofNat 8 (b2n a.isNone), BitVec.ofNat 8 (b2n conflict)]) d
    | none => d

/-- A BIND updates the replica and goes on (R371). -/
def bindPacket (p unit a : Nat) (d : Dev) : Dev :=
  if !d.applied || d.link p ≠ lUP || d.hsMode ≠ 1 then d
  else if d.hs.bindings.any (fun b => b.unit == unit && b.addr == a) then d
  else flood (some p) 1 4 (leBytes 8 unit ++ leBytes 2 a) (bind unit a d)

/-- A binding expires 24 h after its unit was last present (R371). -/
def bindingExpiry (a : Nat) (d : Dev) : Dev :=
  match d.hs.bindings.find? (fun b => b.addr == a && !b.present) with
  | none => d
  | some b =>
    if !d.applied then d
    else (d.reach (b.last + 86400 * 1000000000)).modHs fun h => { h with bindings := h.bindings.filter (· ≠ b) }

/-- On the root, the device of a newer binding gives way where two hold one address (R372). -/
def checkConflict (l : Lsa) (d : Dev) : Dev :=
  if d.rd HS_STATUS_ROLE ≠ 2 then d
  else
    match d.hs.bindings.find? (fun b => b.addr == l.addr && b.unit != l.unit && b.live d.ns) with
    | none => d
    | some b =>
      let other := (d.hs.bindings.find? (·.unit = l.unit)).map (·.age)
      let loser := match other with
        | some g => if g < b.age then b.unit else l.unit
        | none => l.unit
      let d := d.modHs fun h => { h with bindings := h.bindings.filter (·.unit ≠ loser) }
      match d.choose loser none with
      | some a => flood none 1 3 (leBytes 8 loser ++ leBytes 2 a ++ [0, 1]) (assignAs loser a d)
      | none => d

/-! Link state and routing (R373 to R375). -/

/-- A received LSA (R373): a newer one is kept and goes on, an older or equal one is discarded. One that gives a neighbour its address
changes the device's own, which it floods. -/
def lsa (p : Nat) (i : LsaInfo) (d : Dev) : Dev :=
  if !d.applied || d.link p ≠ lUP || d.hsMode ≠ 1 then d
  else
    let l : Lsa := { addr := i.addr.toNat, unit := i.unit.toNat, seq := i.seq.toNat,
                     links := i.links.map fun x => (x.1.val, x.2.1.toNat, x.2.2.toNat), upstream := i.upstream.map (·.toNat), at_ := d.ns }
    let old := d.hs.lsas.find? (·.unit = l.unit)
    let newer := match old with
      | some o => decide (o.seq < l.seq)
      | none => true
    if !newer || l.unit = d.unitId then d
    else
      let links := d.ownLsa.links
      let d := if (d.rd (HSP_NEIGH_ID p)) = l.unit then ((d.wr (HSP_STATUS_NEIGH p) l.addr).raise (HSP_STATUS_NEIGH_VALID p)) else d
      let d := if d.ownLsa.links ≠ links then floodOwn d else d
      let d := if d.rd HS_ROOT_ID = l.unit then d.wr HS_ROOTINFO_ADDR l.addr else d
      let d := d.modHs fun h => { h with bindings := h.bindings.map fun b => if b.unit = l.unit then { b with present := true, last := l.at_ } else b }
      checkConflict l (flood (some p) 2 1 l.bytes (putLsa l d))

/-- At least once per second (R373). -/
def lsaRefresh (d : Dev) : Dev := if d.applied && d.hsMode = 1 then floodOwn d else d

/-- An LSA not refreshed for 4 s is removed (R373); the loss of the root's restarts discovery (R369). -/
def lsaAgeOut (unit : Nat) (d : Dev) : Dev :=
  match d.hs.lsas.find? (·.unit = unit) with
  | none => d
  | some l =>
    if !d.applied || unit = d.unitId then d
    else
      let d := d.reach (l.at_ + 4000000000)
      let d := d.modHs fun h =>
        { h with lsas := h.lsas.filter (·.unit ≠ unit), stale := true,
                 bindings := h.bindings.map fun b => if b.unit = unit then { b with present := false } else b }
      if unit = d.rd HS_ROOT_ID && d.hsMode = 1 && d.disc = 3 && !d.upPorts.isEmpty then startElect d else d

/-- Which of two paths is better (R374): cost, hops, first hop's address, port. -/
def Route.better (a b : Route) : Bool :=
  decide (a.cost < b.cost) || (a.cost == b.cost && (decide (a.hops < b.hops) || (a.hops == b.hops
    && (decide (a.first < b.first) || (a.first == b.first && decide (a.port < b.port))))))

/-- Keep the better path to an address. -/
def addRoute (r : Route) (rs : List Route) : List Route :=
  match rs.find? (·.addr = r.addr) with
  | some o => if r.better o then rs.map fun x => if x.addr = r.addr then r else x else rs
  | none => rs ++ [r]

/-- One round: every known path is extended by the links of its end. -/
def extend (lsas : List Lsa) (rs : List Route) : List Route :=
  rs.foldl (fun acc r =>
    match lsas.find? (·.addr = r.addr) with
    | none => acc
    | some l => l.links.foldl (fun acc x =>
        addRoute { addr := x.2.1, cost := r.cost + x.2.2, hops := r.hops + 1, first := r.first, port := r.port } acc) acc) rs

/-- Rounds until nothing can change any more. -/
def rounds (lsas : List Lsa) : Nat → List Route → List Route
  | 0, rs => rs
  | n + 1, rs => rounds lsas n (extend lsas rs)

/-- The table (R374): the paths from this device over the LSA set; the own address is not routed. -/
def Dev.computeRoutes (d : Dev) : List Route :=
  let own := d.ownLsa
  let first := own.links.foldl (fun acc x => addRoute { addr := x.2.1, cost := x.2.2, hops := 1, first := x.2.1, port := x.1 } acc) []
  let others := d.hs.lsas.filter (·.unit ≠ d.unitId)
  (rounds others (others.length + 1) first).filter (·.addr ≠ own.addr)

/-- The port of the next hop toward an address: by the table, or by position in Cascade (R374, R384). -/
def Dev.nextHop (d : Dev) (a : Nat) : Option Nat :=
  if d.hsMode = 2 then
    let pos : Int := if a < 2048 then (a : Int) else (a : Int) - 4096
    if d.hs.position < pos then some 1 else if pos < d.hs.position then some 0 else none
  else if d.disc = 3 then (d.hs.routes.find? (·.addr = a)).map (·.port)
  else none

/-- The routing table is computed again, the packets of a dropped link go to their new next hop or are lost, and the upstream
follows (R364, R374, R375). -/
def routingUpdate (d : Dev) : Dev :=
  if !d.applied || d.hsMode ≠ 1 then d
  else
    let rs := if d.disc = 3 then d.computeRoutes else d.hs.routes
    let orphans := d.hs.orphans
    let d := d.modHs fun h => { h with routes := rs, stale := false, orphans := [] }
    let d := d.each orphans fun b d =>
      match d.nextHop (parsePacket b).dst with
      | some p => if d.link p = lUP then sendOn p b d else d.countSat HS_STATS_LINK_DROP 1
      | none => d.countSat HS_STATS_LINK_DROP 1
    if d.disc ≠ 3 then d
    else
      let up := if d.rd HS_STATUS_ROLE = 2 then none
        else (rs.find? (·.addr = d.rd HS_ROOTINFO_ADDR)).map fun r => (r.port, r.first, r.hops)
      let before := d.ownLsa.upstream
      let d := (setUpstream up (d.hs.upRoot = d.rd HS_ROOT_ID) d).modHs fun h => { h with upRoot := d.rd HS_ROOT_ID }
      if d.ownLsa.upstream ≠ before then floodOwn d else d

/-! Packets at the router (R366, R367, R377, R378). -/

/-- The words of a queued packet (R377). -/
def packetItem (x : Packet) : List Word :=
  [packW [(20, 12, x.src), (18, 2, x.qsel), (0, 16, x.body.length)],
   packW [(16, 16, x.pseq), (8, 8, x.typ), (0, 8, x.ttl)]] ++ bytesToWords x.body

/-- The router forwards a packet, or discards and counts it (R367). -/
def forward (x : Packet) (d : Dev) : Dev :=
  if x.ttl ≤ 1 then d.countSat HS_STATS_TTL_DROP 1
  else
    match d.nextHop x.dst with
    | some q => if d.link q = lUP then sendOn q { x with ttl := x.ttl - 1 }.bytes d else d.countSat HS_STATS_NO_ROUTE 1
    | none => d.countSat HS_STATS_NO_ROUTE 1

/-- A survey message of the survey's peer (R215): an answer, or a block whose quiet check failed; the others act by their rows. -/
def surveyPacket (x : Packet) (d : Dev) : Dev :=
  if x.src ≠ d.ts.survey.peer then d
  else if x.typ = 2 then surveyAnswer (u8At x.body 0) d
  else if x.typ = 5 then surveyAgain (le16At x.body 0) d
  else d

/-- A packet for this device (R366): REG requests wait for their access; the router's own classes act by their rows. -/
def deliver (p : Nat) (x : Packet) (bs : List Byte) (d : Dev) : Dev :=
  if x.cls = 3 then
    if x.typ = 0x81 || x.typ = 0x82 then d.post (28 + x.qsel) 0x71 (packetItem x)
    else if x.typ = 1 || x.typ = 2 then d.modHs fun h => { h with regs := h.regs ++ [(p, bs)] }
    else d.countSat HS_STATS_FWD_DROP 1
  else if x.cls = 8 then d.post (28 + x.qsel) 0x70 (packetItem x)
  else if x.cls = 5 then surveyPacket x d
  else if x.cls = 1 || x.cls = 2 || x.cls = 4 || x.cls = 6 then d
  else d.countSat HS_STATS_FWD_DROP 1

/-- The first packet that has arrived on a port reaches the router (R366, R367). A port in BOOT_PEER carries only LOCAL packets of
class BOOT (R360). -/
def packetReceived (p : Nat) (d : Dev) : Dev :=
  match (d.port p).arrived, d.hsRuns with
  | bs :: rest, true =>
    let d := d.modPort p fun x => { x with arrived := rest }
    let x := parsePacket bs
    if d.link p = lBOOT_PEER && !(x.loc && x.cls = 4) then d
    else if !d.applied then d
    else
      let mine := x.loc || (d.on HS_STATUS_ADDR_VALID && x.dst = d.rd HS_STATUS_ADDR)
      if !mine then forward x d
      else if !pcrcOk bs then d.countSat HS_STATS_FWD_DROP 1
      else deliver p x bs d
  | _, _ => d

/-- Send a packet from this device; a packet to itself is delivered (R377). -/
def sendFrom (x : Packet) (d : Dev) : Nat × Dev :=
  if x.loc then
    match d.upPorts with
    | [] => (0x10, d)
    | p :: _ => if d.room p (controlClass x.cls) x.bytes.length then (cDONE, sendOn p x.bytes d) else (cBUSY, d)
  else if d.on HS_STATUS_ADDR_VALID && x.dst = d.rd HS_STATUS_ADDR then (cDONE, deliver 0 x x.bytes d)
  else
    match d.nextHop x.dst with
    | none => (0x10, d)
    | some p =>
      if d.link p ≠ lUP then (0x10, d)
      else if d.room p (controlClass x.cls) x.bytes.length then (cDONE, sendOn p x.bytes d)
      else (cBUSY, d)

/-- A word written to HS_SEND (R377): the packet is judged when its last word arrives. -/
def hsSendWord (p : Path) (w : Word) (d : Dev) : Dev :=
  let ws := ((d.hs.asm.find? (·.1 = p)).map (·.2)).getD [] ++ [w]
  let others := d.hs.asm.filter (·.1 ≠ p)
  let len := bits (wordAt ws 0) 11 0
  let cls := bits (wordAt ws 0) 16 12
  if ws.length < 2 + (min len 4095 + 3) / 4 then d.modHs fun h => { h with asm := others ++ [(p, ws)] }
  else
    let d := d.modHs fun h => { h with asm := others }
    let done (c : Nat) (d : Dev) : Dev := d.wr HS_SEND_STATUS_CODE c
    if 1008 < len || (cls ≠ 3 && cls ≠ 8) then done cRANGE d
    else if !d.on HS_STATUS_ADDR_VALID || d.hsMode = 0 then done cREFUSED d
    else
      let s := d.hs.pseq
      let x : Packet := { cls := cls, dst := bits (wordAt ws 0) 31 20, qsel := bits (wordAt ws 0) 19 18, loc := bit (wordAt ws 0) 17,
                          src := d.rd HS_STATUS_ADDR, ttl := if bit (wordAt ws 0) 17 then 1 else d.rd HS_CFG_TTL,
                          typ := bits (wordAt ws 1) 31 24, pseq := s, body := (wordsToBytes (ws.drop 2)).take len }
      let r := sendFrom x d
      if r.1 = cDONE then ((done cDONE r.2).modHs fun h => { h with pseq := (s + 1) % 65536 }).wr HS_SEND_STATUS_PSEQ s
      else done r.1 d

/-- A message in parts of at most 252 words, the longest payload of a packet (R377): TYPE has bit 7 set in every part but the last. -/
def messageParts : Nat → Nat → List Word → List (Nat × List Word)
  | 0, typ, ws => [(typ, ws)]
  | k + 1, typ, ws => if ws.length ≤ 252 then [(typ, ws)] else (typ + 0x80, ws.take 252) :: messageParts k typ (ws.drop 252)

/-- Survey messages that wait leave as packets of class SURVEY (R215, assumption 14). -/
def sendSurveys (d : Dev) : Dev :=
  let ms := d.ts.outbox
  let d := { d with ts := { d.ts with outbox := [] } }
  d.each ms fun m d => d.each (messageParts m.2.2.length m.2.1 m.2.2) fun (part : Nat × List Word) d =>
    let s := d.hs.pseq
    let x : Packet := { cls := 5, dst := m.1, qsel := 0, loc := false, src := d.rd HS_STATUS_ADDR, ttl := d.rd HS_CFG_TTL, typ := part.1, pseq := s,
                        body := wordsToBytes part.2 }
    (sendFrom x (d.modHs fun h => { h with pseq := (s + 1) % 65536 })).2

/-! Neighbour boot, the serving side (R379). -/

/-- A booting neighbour's request is queued in Q28 and answered. -/
def bootRequest (p : Nat) (d : Dev) : Dev :=
  if !d.applied || d.link p ≠ lBOOT_PEER then d
  else
    let d := d.post 28 0x72 [packW [(18, 2, 0)], packW [(8, 8, 1), (0, 8, 1)]]
    if !d.runtime then d
    else if d.on HS_MCFG_SERVE_BOOT && d.boot.staged.2 ≠ 0 then d.modHs fun h => { h with serving := some (p, 0) }
    else sendLocal p 4 4 [] d

/-! Link reset (R380). -/

/-- RESET_DEV on the root or the Cascade master. -/
def resetDev (target : Nat) (d : Dev) : Dev :=
  let role := d.rd HS_STATUS_ROLE
  if role ≠ 2 && role ≠ 3 then d.wr HS_CMD_STATUS_CODE cREFUSED
  else
    let s := d.hs.pseq
    let x : Packet := { cls := 6, dst := target, qsel := 0, loc := false, src := d.rd HS_STATUS_ADDR, ttl := d.rd HS_CFG_TTL, typ := 1, pseq := s,
                        body := leBytes 8 d.unitId }
    (sendFrom x (d.modHs fun h => { h with pseq := (s + 1) % 65536, resetAt := some d.ns })).2

/-- A reset order reaches this device: accepted, a LINK reset follows its reply; or refused. -/
def resetOrder (srcAddr srcUnit : Nat) (d : Dev) : Dev :=
  if !d.applied then d
  else
    let ok := srcUnit = d.rd HS_ROOT_ID && d.on GC_CFG_LINK_RESET_OK
    let s := d.hs.pseq
    let x : Packet := { cls := 6, dst := srcAddr, qsel := 0, loc := false, src := d.rd HS_STATUS_ADDR, ttl := d.rd HS_CFG_TTL, typ := 0x81,
                        pseq := s, body := leBytes 1 (if ok then cDONE else cREFUSED) }
    let d := (sendFrom x (d.modHs fun h => { h with pseq := (s + 1) % 65536 })).2
    if ok then d.modPower fun p => { p with linkDue := true } else d.raise HS_STATUS_RESET_REFUSED_SEEN

/-- The reply reaches the root. -/
def resetReply (code : Nat) (d : Dev) : Dev :=
  if d.hs.resetAt.isNone || !d.applied then d
  else (d.wr HS_CMD_STATUS_CODE code).modHs fun h => { h with resetAt := none }

/-- No reply within 10 ms. -/
def resetReplyTimeout (d : Dev) : Dev :=
  match d.hs.resetAt with
  | none => d
  | some t => ((d.reach (t + 10000000)).wr HS_CMD_STATUS_CODE 0x11).modHs fun h => { h with resetAt := none }

/-! Time beacons (R344, R381). -/

/-- Ports that beacons go to: those whose neighbour's LSA names this device as upstream; in Cascade the ports away from the
master. -/
def Dev.beaconPorts (d : Dev) : List Nat :=
  d.upPorts.filter fun p =>
    if d.hsMode = 2 then !(d.on HS_UPSTREAM_VALID && d.rd HS_UPSTREAM_PORT = p)
    else d.on HS_STATUS_ADDR_VALID && d.hs.lsas.any fun l => l.unit == d.rd (HSP_NEIGH_ID p) && l.upstream == some (d.rd HS_STATUS_ADDR)

/-- Reserve a codeword boundary for a time frame. -/
def reserve (p : Nat) (t : TimeFrame) (d : Dev) : Dev := d.modPort p fun x => { x with times := x.times ++ [t] }

/-- Every 2^BEACON_LOG ms of the device's Tideclock (R344). -/
def beaconSend (d : Dev) : Dev :=
  if !d.applied then d
  else
    let k := 2 ^ d.rd TC_HS_CFG_BEACON_LOG
    let d := d.reach ((d.ms / k + 1) * k * 1000000)
    d.each d.beaconPorts fun p => reserve p ⟨3, 0, 0⟩

/-- A BEACON with t1, in 2⁻¹⁶ ns (R344, R381): accepted on the upstream port; a DREQ follows. -/
def beacon (p t1 : Nat) (d : Dev) : Dev :=
  if !d.applied || d.rd TC_CFG_SRC ≠ 2 || !(d.on HS_UPSTREAM_VALID && d.rd HS_UPSTREAM_PORT = p) then d
  else reserve p ⟨4, 0, 0⟩ (d.modTc fun t => { t with t1 := t1, t2 := d.time16, beaconAt := d.ns })

/-- A DREQ with t3 from downstream (R344, R381). -/
def dreq (p t3 : Nat) (d : Dev) : Dev :=
  if !d.applied || d.link p ≠ lUP then d else reserve p ⟨5, d.time16, t3⟩ d

/-- A DRESP with t4 and the echoed t3 (R344): the delay is filtered and θ judged. The spec gives no rounding: three free bits. -/
def dresp (p t4 t3 : Nat) (d : Dev) : Dev :=
  let t := d.tc
  if !d.applied || d.rd TC_CFG_SRC ≠ 2 || !(d.on HS_UPSTREAM_VALID && d.rd HS_UPSTREAM_PORT = p) || t.t3 ≠ t3 then d
  else
    let a := d.free
    let b := a.2.free
    let c := b.2.free
    let d := c.2
    let twice : Int := ((t4 : Int) - t.t1) - ((t.t3 : Int) - t.t2)
    let mean := divEither twice (2 * 4096) a.1
    let old := toSigned 32 (d.rd (TC_LINKDLY_M p))
    let m := if t.dlyPort = some p then old + divEither (mean - old) (2 ^ d.rd TC_HS_CFG_DLY_SHIFT) b.1 else mean
    let d := (d.wr (TC_LINKDLY_M p) (ofSigned 32 m)).modTc fun t => { t with dlyPort := some p }
    let down := m * 4096 + divEither (toSigned 24 (d.rd (TC_ASYM_HS_ASYM p)) * 4096) 2 c.1
    judge (((t.t2 : Int) - t.t1) - down) d

/-! The meanings of the rows of this family. -/

/-- BEACON_SEND (R344): Every 2^BEACON_LOG ms, a device sends a BEACON downstream with t1. -/
def execBeaconSend (s : State) : Host.Outcome State Fault Refusal :=
  s.act (Machine.beaconSend)

/-- BEACON (R381): A BEACON received on the upstream port gives t2 and triggers a DREQ. -/
def execBeacon (p : Fin 4) (t1 : Nat) (s : State) : Host.Outcome State Fault Refusal :=
  s.act (Machine.beacon p.val t1)

/-- DREQ (R381): A DREQ received from downstream is answered with DRESP at the next codeword boundary. -/
def execDreq (p : Fin 4) (t3 : Nat) (s : State) : Host.Outcome State Fault Refusal :=
  s.act (Machine.dreq p.val t3)

/-- DRESP (R344): A DRESP gives t4; the link delay is filtered and θ is computed. -/
def execDresp (p : Fin 4) (t4 t3 : Nat) (s : State) : Host.Outcome State Fault Refusal :=
  s.act (Machine.dresp p.val t4 t3)

/-- LINK_DETECT (R360): Line energy is received for 100 µs and the port enters TRAIN. -/
def execLinkDetect (p : Fin 4) (s : State) : Host.Outcome State Fault Refusal :=
  s.act (Machine.linkDetect p.val)

/-- LINK_TRAIN_DONE (R360): Training converges on both ends and the port enters ALIGN. -/
def execLinkTrainDone (p : Fin 4) (s : State) : Host.Outcome State Fault Refusal :=
  s.act (Machine.linkTrainDone p.val)

/-- LINK_ALIGN_DONE (R360): 8 consecutive codewords decode with zero syndrome and the port enters EXCHANGE. -/
def execLinkAlignDone (p : Fin 4) (s : State) : Host.Outcome State Fault Refusal :=
  s.act (Machine.linkAlignDone p.val)

/-- TRAIN_INFO (R360): TRAIN_INFO is received and the port enters UP, FOREIGN, LOOP or BOOT_PEER. -/
def execTrainInfo (p : Fin 4) (info : TrainInfo) (s : State) : Host.Outcome State Fault Refusal :=
  s.act (Machine.trainInfo p.val info)

/-- LINK_TRAIN_TIMEOUT (R360): 100 ms pass without the port reaching a final state, and it returns to DETECT. -/
def execLinkTrainTimeout (p : Fin 4) (s : State) : Host.Outcome State Fault Refusal :=
  s.act (Machine.linkTrainTimeout p.val)

/-- LINK_REDETECT (R360): 1 ms after a drop, the port returns to DETECT. -/
def execLinkRedetect (p : Fin 4) (s : State) : Host.Outcome State Fault Refusal :=
  s.act (Machine.linkRedetect p.val)

/-- LINE_ENERGY_LOST (R360): A port in FOREIGN or LOOP loses line energy and returns to DETECT. -/
def execLineEnergyLost (p : Fin 4) (s : State) : Host.Outcome State Fault Refusal :=
  s.act (Machine.lineEnergyLost p.val)

/-- PACKET_RECEIVED (R366): A complete packet reaches a router and is forwarded, dropped or handled by its class. -/
def execPacketReceived (p : Fin 4) (s : State) : Host.Outcome State Fault Refusal :=
  s.act (Machine.packetReceived p.val)

/-- HELLO_SEND (R369): Every 10 ms in ELECT, a device sends HELLO on each port in UP. -/
def execHelloSend (s : State) : Host.Outcome State Fault Refusal :=
  s.act (Machine.helloSend)

/-- HELLO (R369): A received HELLO can make the device adopt a better root candidate. -/
def execHello (p : Fin 4) (priority : Byte) (unit : BitVec 64) (hops : BitVec 16) (s : State) : Host.Outcome State Fault Refusal :=
  s.act (Machine.hello p.val priority.toNat unit.toNat hops.toNat)

/-- ELECT_END (R369): The candidate has been unchanged for 100 ms, so it becomes the root and ASSIGN begins. -/
def execElectEnd (s : State) : Host.Outcome State Fault Refusal :=
  s.act (Machine.electEnd)

/-- ADDRESS_REQUEST (R371): The root answers an ADDRESS_REQUEST from its binding table. -/
def execAddressRequest (p : Fin 4) (unit : BitVec 64) (held : Option (BitVec 12)) (s : State) : Host.Outcome State Fault Refusal :=
  s.act (Machine.addressRequest p.val unit.toNat (held.map (·.toNat)))

/-- ADDRESS_ASSIGN (R371): A device receives its address assignment, including a reassignment after a conflict, or ADDR_FULL. -/
def execAddressAssign (p : Fin 4) (unit : BitVec 64) (addr : Option (BitVec 12)) (conflict : Bool) (rootAddr : BitVec 12) (s : State) : Host.Outcome State Fault Refusal :=
  s.act (Machine.addressAssign p.val unit.toNat (addr.map (·.toNat)) conflict rootAddr.toNat)

/-- BIND (R371): A BIND packet updates a router's replica of the binding table. -/
def execBind (p : Fin 4) (unit : BitVec 64) (addr : BitVec 12) (s : State) : Host.Outcome State Fault Refusal :=
  s.act (bindPacket p.val unit.toNat addr.toNat)

/-- BINDING_EXPIRY (R371): A binding expires 24 h after its unit was last present. -/
def execBindingExpiry (addr : BitVec 12) (s : State) : Host.Outcome State Fault Refusal :=
  s.act (Machine.bindingExpiry addr.toNat)

/-- DISCOVERY_TIMEOUT (R370): RUN is not reached within DISC_TIMEOUT; FAILS increments and ELECT restarts, or Cascade is entered at 8. -/
def execDiscoveryTimeout (s : State) : Host.Outcome State Fault Refusal :=
  s.act (Machine.discoveryTimeout)

/-- LSA (R373): A received LSA that is newer is stored and flooded, otherwise discarded. -/
def execLsa (p : Fin 4) (info : LsaInfo) (s : State) : Host.Outcome State Fault Refusal :=
  s.act (Machine.lsa p.val info)

/-- LSA_REFRESH (R373): A device floods its LSA at least once per second. -/
def execLsaRefresh (s : State) : Host.Outcome State Fault Refusal :=
  s.act (Machine.lsaRefresh)

/-- LSA_AGE_OUT (R373): An LSA not refreshed for 4 s is removed, which can restart discovery. -/
def execLsaAgeOut (unit : BitVec 64) (s : State) : Host.Outcome State Fault Refusal :=
  s.act (Machine.lsaAgeOut unit.toNat)

/-- HS_SEND_WORD (R377): A word written to HS_SEND is assembled, and a complete packet is judged and sent. -/
def execHsSendWord (path : Path) (w : Word) (s : State) : Host.Outcome State Fault Refusal :=
  s.act (onPort 0x8000 path (Machine.hsSendWord path w))

/-- BOOT_REQUEST (R379): A booting neighbour's BOOT_REQUEST is queued in Q28 and answered by streaming the image or BOOT_DENY. -/
def execBootRequest (p : Fin 4) (s : State) : Host.Outcome State Fault Refusal :=
  s.act (Machine.bootRequest p.val)

/-- RESET_DEV (R380): HS_CMD.OP = RESET_DEV on the root or master sends a LINK reset order to a device. -/
def execResetDev (path : Path) (target : BitVec 12) (s : State) : Host.Outcome State Fault Refusal :=
  s.act (onPort 0x8000 path (Machine.resetDev target.toNat))

/-- RESET_REPLY (R380): The root receives the reset reply and shows it in HS_CMD_STATUS. -/
def execResetReply (code : Byte) (s : State) : Host.Outcome State Fault Refusal :=
  s.act (Machine.resetReply code.toNat)

/-- RESET_REPLY_TIMEOUT (R380): No reset reply within 10 ms, so CODE reads NO_REPLY. -/
def execResetReplyTimeout (s : State) : Host.Outcome State Fault Refusal :=
  s.act (Machine.resetReplyTimeout)

/-- REDISCOVER (R382): HS_CMD.OP = REDISCOVER clears FAILS, leaves fallback Cascade and restarts discovery. -/
def execRediscover (path : Path) (s : State) : Host.Outcome State Fault Refusal :=
  s.act (onPort 0x8000 path Machine.rediscover)

/-- CHAIN (R383): A CHAIN message gives a Cascade device its position and address and is forwarded. -/
def execChain (p : Fin 2) (position : Int) (strapped : Bool) (master : BitVec 64) (s : State) : Host.Outcome State Fault Refusal :=
  s.act (Machine.chain p.val position strapped master.toNat)

end Sys2Proof.Machine
end

