-- ==== Sys2Proof/Machine/Power.lean ====
section
/-!
DEFINITION. Capstan (chapter 03_power_clocks_resets.md): power-up and failure, PLLs, temperature, the power states' entries and the
wake from Watch, the resets, and the power-fail source.
-/

namespace Sys2Proof.Machine

/-! Enables and power-up (R51 to R53). -/

/-- DRAM loses its contents (R68). -/
def dramLost (d : Dev) : Dev :=
  { (d.modPower fun p => { p with dram := false }) with mem := Memory.forget d.mem 0x10000000 0x20000000 }

/-- The power-fail source, as PW_CFG selects it (R70). -/
def Dev.pfailNow (d : Dev) : Bool :=
  (d.on PW_CFG_PFAIL_PIN && d.power.pfailPin) || (d.on PW_CFG_VIN_MON && d.power.pfailVin && d.power.vinArmed)

/-- The source asserts (R72) or is released (R73): a record under way may still be committed, a survey ends, and a release before
the fence is a glitch. -/
def settlePfail (d : Dev) : Dev :=
  let now := d.pfailNow
  if now = d.on PW_STATUS_PFAIL then d
  else if now then
    let d := (d.raise PW_STATUS_PFAIL).raise PW_STATUS_PFAIL_SEEN
    let d := (d.modPower fun p => { p with pfailAt := d.ns }).modSv fun s => { s with begun := !s.todo.isEmpty }
    let d := { d with fd := { d.fd with pfail := d.fd.handling } }
    if d.coreRuns then abortSurvey d else d
  else
    let d := settleServices ((d.lower PW_STATUS_PFAIL).raiseIf (!d.power.fence) PW_STATUS_PFAIL_GLITCH)
    if d.coreRuns then d.each (upTo 24) fun n => fun d => drain n (reconcileNext n d) else d

/-- Drop an enable with what hangs on its rail. -/
def dropPen (k : Nat) (d : Dev) : Dev :=
  let d := d.penDown k
  if k = 2 then dramLost d else if k = 4 then settlePfail d else d

/-- The order of a power-down (R53). -/
def downOrder : List Nat := [5, 4, 3, 2, 0, 1]

/-- The last enable of a drop sequence has dropped: Dormant is reached (R64), and wake events that waited take effect (R65). -/
def dropsDone (d : Dev) : Dev :=
  match d.power.after with
  | .dormant =>
    takeDeferred (((d.wr PW_STATE_CUR 4).lower PW_STATE_BUSY).modPower fun p => { p with entry := .none, after := .nothing })
  | _ => d

/-- Enables drop 100 µs apart, the first at once. -/
def startDrops (ks : List Nat) (after : AfterDrop) (d : Dev) : Dev :=
  let d := d.modPower fun p => { p with after := after, asserts := [] }
  match ks.filter fun k => d.bitOn PW_RAIL_PEN k with
  | [] => dropsDone (d.modPower fun p => { p with drops := [] })
  | k :: r =>
    let d := (dropPen k d).modPower fun p => { p with drops := r }
    if r.isEmpty then dropsDone d else d

/-- 100 µs later the next one drops. -/
def enableDropStep (d : Dev) : Dev :=
  match d.power.drops with
  | [] => d
  | k :: r =>
    let d := (dropPen k d).modPower fun p => { p with drops := r }
    if r.isEmpty then dropsDone d else d

/-- VAON first enters regulation (R52 step 1). -/
def vaonPowerOn (d : Dev) : Dev :=
  if d.power.step ≠ .off then d
  else { (d.wr PW_RAIL_PEN 0).raise PW_RAIL_VAON_OK with power := PowerSt.reset }

/-- The crystal is stable (R52 steps 2 and 3). -/
def crystalStable (d : Dev) : Dev :=
  if d.power.step ≠ .crystal then d else (d.penUp 1).modPower fun p => { p with step := .rail .vana }

/-- The order in which the rails come up (R52). -/
def railOrder : List Rail := [.vana, .vcore, .vddr, .vio]

/-- Power-up goes on: the next rail's enable asserts, or the PLLs start (R52 steps 3 to 7). -/
def powerUpNext (d : Dev) : Dev :=
  match railOrder.find? fun r => !d.bitOn PW_RAIL_PEN (railPen r) with
  | some r => (d.penUp (railPen r)).modPower fun p => { p with step := .rail r }
  | none =>
    ((d.lower GC_STATUS_PLLA_LOCK).lower GC_STATUS_PLLD_LOCK).modPower fun p => { p with step := .plls }

/-- A failed power-up drops its enables in reverse order (R53). -/
def powerUpFail (d : Dev) : Dev := startDrops downOrder .retry (d.modPower fun p => { p with step := .failed })

/-- The crystal has not become stable within 10 ms (R53). -/
def xtalFail (d : Dev) : Dev :=
  if d.power.step ≠ .crystal then d else powerUpFail (d.raise PW_STATUS_XTAL_FAIL)

/-- Power-up restarts from step 1; the AON registers keep their values (R53). -/
def powerUpRetry (d : Dev) : Dev :=
  if d.power.step = .failed && d.power.drops.isEmpty then d.modPower fun p => { p with step := .crystal } else d

/-! Resets (R66 to R68). -/

/-- Is the register field at a bit address kept through a CORE reset: an AON register, or a DK_ register that the Deck keeps (R68)? -/
def keptField (deck : Bool) (bitAddr : Nat) : Bool :=
  match findReg (bitAddr / 32 * 4) with
  | some h => h.spec.aon || (deck && 0x10000 ≤ bitAddr / 8 && bitAddr / 8 < 0x11000)
  | none => false

/-- The handler starts on its slot (R443): NEXT advances, and COMMIT of the slot is written to 0; a slot LAST that this hits is
valid no more. -/
def handlerBegins (d : Dev) : Dev :=
  if !d.fd.handling || d.fd.begun then d
  else
    let s := d.fd.slot
    let d := (d.wr FD_CRASH_NEXT ((s + 1) % 4)).flag FD_CRASH_LAST_VALID (d.on FD_CRASH_LAST_VALID && d.rd FD_CRASH_LAST ≠ s)
    mramWrite (crashAt + 0x10000 * s + 0x7C) (leBytes 4 0) { d with fd := { d.fd with begun := true } }

/-- A reset stops a handler; one in the Deck clock of the error finds it not yet begun (R452). -/
def handlerCut (d : Dev) : Dev := if d.time = d.fd.entry then d else handlerBegins d

/-- What a CORE reset leaves (R68): AON registers, MRAM, DRAM where it is kept, the Tideclock, fuses, and the Deck where it is kept.
Burns and a calibration under way end (R245, R426, R434). -/
def coreReset (deck : Bool) (d : Dev) : Dev :=
  let d := handlerCut (calAbort (commitCut (burnCut d)))
  let r := Dev.reset
  let b := { BootSt.reset with lastSource := if deck then d.boot.lastSource else 0,
                               staged := if deck then d.boot.staged else (0, 0), keepDeck := deck }
  let d' : Dev :=
    { r with regs := d.regs.filter fun x => keptField deck x.1
             mem := d.mem, time := d.time, boot := b, freeCtr := d.freeCtr, fuses := d.fuses, epoch := d.epoch, tc := d.tc,
             gpio := d.gpio, cl := d.cl
             cy := { CySt.reset with miss0 := d.cy.miss0, miss1 := d.cy.miss1, guard0 := d.cy.guard0, guard1 := d.cy.guard1,
                                     due0 := d.cy.due0, due1 := d.cy.due1 }
             power := { d.power with asserts := [], entry := .none, deferred := 0, waking := false, dormantWake := false,
                                     softDue := none, linkDue := false, pen4Role := false, pen5Role := false } }
  let d' := (d'.flag GC_STATUS_PLLA_LOCK (d.on GC_STATUS_PLLA_LOCK)).flag GC_STATUS_PLLD_LOCK (d.on GC_STATUS_PLLD_LOCK)
  let d' := d'.lower PW_WK_STATUS_RUN
  d'.flag TC_STATUS_XTAL_MODE (!d.on GC_STATUS_PLLA_LOCK)

/-- Codes of the classes (R66). -/
def classCode : ResetClass → Nat
  | .cold => 1 | .brown => 2 | .pin => 3 | .wdog => 4 | .soft => 5 | .link => 6 | .restart => 0

/-- What the cause registers say of a reset (R66, FD_CAUSE, FD_HIST, FD_RESETS): a cause that comes while a reset holds coincides
with it. -/
def recordReset (c : ResetClass) (src : Nat) (d : Dev) : Dev :=
  let k := classCode c
  let fresh := d.power.hold.isNone || d.power.hold = some .restart
  let d := if fresh then
      ((((d.lower FD_CAUSE_FATAL).lower FD_CAUSE_WAKE).wr FD_CAUSE_BROWN_SRC 0).wr FD_CAUSE_ALL 0).countSat FD_RESETS_COUNT 1
    else d
  let cls := if fresh then k else min k (d.rd FD_CAUSE_CLASS)
  let d := if cls ≠ d.rd FD_CAUSE_CLASS then d.lower FD_CAUSE_FATAL else d
  let d := ((d.wr FD_CAUSE_CLASS cls).wr FD_CAUSE_BROWN_SRC (d.rd FD_CAUSE_BROWN_SRC ||| src)).setBit FD_CAUSE_ALL (k - 1)
  if cls = k then d.setBit FD_HIST_CLASS_SEEN (k - 1) else d

/-- The reset holds (R66, R67): the state is Run, Trim is due or not, PEN5 and PEN4 drop, and with power up the rails and the PLLs that
do not run start again (R52). -/
def resetHold (c : ResetClass) (keep : Bool) (old : Option ResetClass) (d : Dev) : Dev :=
  let d := d.flag PW_STATUS_DRAM_VALID keep
  let d := ((d.wr PW_STATE_CUR 1).wr PW_STATE_REQ 1).lower PW_STATE_BUSY
  let due := c = .brown || d.on PW_CFG_TRIM_ALWAYS || (old = some .restart)
  let d := d.modPower fun p => { p with hold := some c, holdAt := d.ns, trimDue := due }
  if d.power.step = .failed then d
  else
    let d := startDrops [5, 4] .nothing d
    if d.power.step = .up then
      if (railOrder.any fun r => !d.bitOn PW_RAIL_PEN (railPen r)) || !d.on GC_STATUS_PLLA_LOCK || !d.on GC_STATUS_PLLD_LOCK then
        powerUpNext d
      else d
    else d

/-- A reset of a class other than COLD (R52, R66 to R68): PEN5 and PEN4 drop, DRAM stays in self-refresh or is lost, and the rails
and PLLs that do not run start again. One that coincides with a reset nearer the top of R66 is only recorded. -/
def startReset (c : ResetClass) (deck : Bool) (src : Nat) (d : Dev) : Dev :=
  if d.power.step = .off then d
  else
    let governs := match d.power.hold with
      | none => true
      | some h => decide (h = .restart ∨ classCode c < classCode h)
    let old := d.power.hold
    let d := recordReset c src d
    if !governs then d
    else
      let keep := c ≠ .brown && d.power.dram
      let d := coreReset deck d
      resetHold c keep old (if keep then d else dramLost d)

/-- VAON has been below 1.62 V for more than 1 µs (R61, R66): everything but MRAM and fuses is lost, and the enables drop. -/
def coldReset (d : Dev) : Dev :=
  if d.power.step = .off then d
  else
    let d := handlerCut (commitCut (burnCut d))
    let r := Dev.reset
    let d' : Dev :=
      { r with mem := Memory.forget d.mem 0 0x20000000, freeCtr := d.freeCtr, fuses := d.fuses, epoch := d.epoch, gpio := d.gpio,
               power := { PowerSt.reset with step := .off } }
    startDrops downOrder .off ((d'.wr PW_RAIL_PEN (d.rd PW_RAIL_PEN)).lower PW_RAIL_VAON_OK)

/-- A switched rail leaves regulation, which its monitor shows (R52). It is a brownout (R66) where VCORE is below 0.69 V, or VANA or
VDDR out of regulation in Run or Trim. VIO causes none. -/
def brownReset (r : Rail) (d : Dev) : Dev :=
  let live := d.bitOn PW_RAIL_PEN (railPen r) && d.on (railOk r)
  let run := d.power.step = .up && (d.rd PW_STATE_CUR = 1 || d.rd PW_STATE_CUR = 2)
  if !live then d
  else
    let e := d.lower (railOk r)
    match r with
    | .vcore => startReset .brown false 1 e
    | .vana => if run then startReset .brown false 2 e else e
    | .vddr => if run then startReset .brown false 4 e else e
    | .vio => e

/-- RESET_N has been low for 1 µs (R66). -/
def pinReset (d : Dev) : Dev :=
  if d.power.step = .off then d
  else (startReset .pin false 0 d).modPower fun p => { p with resetPin := true }

/-- A write of GC_RESET (chapter 3): GO with the key schedules a SOFT reset. A second valid write while one is scheduled changes nothing
(DESIGN CHOICE, assumption 25). -/
def gcReset (p : Path) (w : Word) (d : Dev) : Dev :=
  let v := w.toNat
  if !bit v 0 then d
  else if bits v 15 8 ≠ 0x5A then d.errRange p 0x48
  else if d.power.softDue.isSome then d
  else d.modPower fun q => { q with softDue := some (bit v 1, d.ns) }

/-- 1 µs after the write (R66). -/
def softReset (d : Dev) : Dev :=
  match d.power.softDue with
  | none => d
  | some (deck, t) => startReset .soft deck 0 (d.reach (t + 1000))

/-- Is a packet the reply of an accepted reset order (R380)? -/
def isResetReply (bs : List Byte) : Bool := (parsePacket bs).cls == 6 && (parsePacket bs).typ == 0x81

/-- The LINK reset of an accepted order occurs once the reply has left (R66, R380). -/
def linkReset (d : Dev) : Dev :=
  if !d.power.linkDue then d
  else
    let queued := (upTo 4).flatMap fun p => (d.port p).control.waiting.filter fun x => isResetReply x.2
    match queued with
    | x :: _ => d.modPower fun p => { p with replyId := x.1 }
    | [] =>
      let under := (upTo 4).any fun p =>
        let c := (d.port p).control.current
        c.1 == d.power.replyId && !c.2.isEmpty
      if under || d.hs.orphans.any isResetReply then d else startReset .link false 0 d

/-- A supply whose enable asserted after power-up fails: the power-on reset of the restart holds every domain but AON (R53). -/
def supplyFail (d : Dev) : Dev :=
  let d := ((((coreReset false d).wr PW_STATE_CUR 1).wr PW_STATE_REQ 1).lower PW_STATE_BUSY).lower PW_STATUS_DRAM_VALID
  powerUpFail ((d.raise PW_RAIL_RAIL_FAIL).modPower fun p => { p with hold := some .restart, holdAt := d.ns, trimDue := true })

/-- A rail does not come into regulation within 5 ms of its enable (R53): at power-up, on a wake from Watch, or a VRF group once PEN4 or
PEN5 has asserted. -/
def railFail (what : Supply) (d : Dev) : Dev :=
  match what with
  | .rail r =>
    if d.power.step = .rail r then powerUpFail (d.raise PW_RAIL_RAIL_FAIL)
    else if d.power.waking && d.bitOn PW_RAIL_PEN (railPen r) && !d.on (railOk r) then supplyFail d
    else d
  | .vrf g => if d.power.step = .up && d.power.vrfWait.contains g.val then supplyFail d else d

/-! Power failure (R70 to R73). -/

/-- An input of the power-fail source asserts. The VIN monitor does so only while armed, below its threshold. -/
def pfailAssert (i : PfailInput) (d : Dev) : Dev :=
  if d.power.step = .off then d
  else
    match i with
    | .pin => settlePfail (d.modPower fun p => { p with pfailPin := true })
    | .vin =>
      if d.power.vinArmed && d.power.vrf.getD 0 0 < 4000 + 250 * d.rd PW_CFG_VIN_TRIP then
        settlePfail (d.modPower fun p => { p with pfailVin := true })
      else d

/-- An input is released. -/
def pfailRelease (i : PfailInput) (d : Dev) : Dev :=
  if d.power.step = .off then d
  else settlePfail (d.modPower fun p => match i with
    | .pin => { p with pfailPin := false }
    | .vin => { p with pfailVin := false })

/-- 1.2 ms after the assertion (R73). -/
def mramFence (d : Dev) : Dev :=
  if d.power.step = .off || !d.on PW_STATUS_PFAIL || d.power.fence then d
  else
    let d := (d.reach (d.power.pfailAt + 1200000)).modPower fun p => { p with fence := true }
    startReset .brown false 8 d

/-- A VRF group's level changes (R53, R54, R70, R104). -/
def vrfLevel (g mv : Nat) (d : Dev) : Dev :=
  if d.power.step = .off then d
  else
    let ok := decide (4750 ≤ mv)
    let d := (d.modPower fun p => { p with vrf := lmod p.vrf g fun _ => mv }).putBit PW_RAIL_VRF_OK g ok
    let d := if d.groupUp g then d.modPower fun p => { p with vrfWait := p.vrfWait.filter (· ≠ g) } else d
    let d := d.each (upTo 4) fun j => headroom (4 * g + j)
    if g = 0 && ok && d.bitOn PW_RAIL_PEN 4 then d.modPower fun p => { p with vinArmed := true } else d

/-! PLLs (R19, R59). -/

/-- PLL_A loses lock (R19): every field is cut, the Deck, Pilot and the channels halt, and the Tideclock counts from the crystal. Where
it has locked in a power-up or a wake that is not over, that waits for it again. -/
def pllaUnlock (frs : List (Fin 24 × RxFrame)) (d : Dev) : Dev :=
  if !d.on GC_STATUS_PLLA_LOCK || !(d.power.step = .up || d.power.step = .plls) then d
  else if d.power.step = .plls || d.power.waking then (d.raise GC_STATUS_PLLA_UNLOCK).lower GC_STATUS_PLLA_LOCK
  else
    let d := ceCut (d.each (upTo 24) fun n => cutField n cutPLLA (fragOf frs n))
    let d := (d.raise GC_STATUS_PLLA_UNLOCK).lower GC_STATUS_PLLA_LOCK
    let d := (calUnlock ((d.raise TC_STATUS_XTAL_MODE).raise FD_WDOG_STATUS_PAUSED))
    let d := enterHoldover d
    if d.power.hold.isSome then d.modPower fun p => { p with step := .plls } else d

/-- PLL_D loses lock (R59): DRAM accesses stall until it locks again. -/
def plldUnlock (d : Dev) : Dev :=
  if !d.on GC_STATUS_PLLD_LOCK || !(d.power.step = .up || d.power.step = .plls) then d
  else
    let d := (d.raise GC_STATUS_PLLD_UNLOCK).lower GC_STATUS_PLLD_LOCK
    if d.power.hold.isSome then d.modPower fun p => { p with step := .plls } else d

/-- PLL_E loses lock (R59, R388). -/
def plleUnlock (d : Dev) : Dev :=
  if !d.on GC_STATUS_PLLE_LOCK then d else enDropAll ((d.raise GC_STATUS_PLLE_UNLOCK).lower GC_STATUS_PLLE_LOCK)

/-! Temperature (R57, R58). -/

/-- Is the die watched: power is up, and the state is Run, Trim or Watch? In Dormant the sensor's rail is off. -/
def Dev.dieWatched (d : Dev) : Bool := d.power.step == .up && d.rd PW_STATE_CUR != 4

/-- A temperature sample, in 0.25 °C. In Trim PW_TEMP holds its value (R152), the budget follows the sample all the same (R57). -/
def tempSample (t : Nat) (d : Dev) : Dev :=
  if !d.dieWatched then d
  else
    let d := d.modPower fun p => { p with temp := t }
    let d := if d.rd PW_STATE_CUR = 2 then d else (d.wr PW_TEMP_TEMP t).lower PW_TEMP_STALE
    if toSigned 11 t < 4 * (d.rd PW_THERM_THROTTLE : Int) then d.lower PW_STATUS_THERM_SHUT else d

/-- The die reaches 125 °C (R58): every driver is turned off, Watchkeeper's too. -/
def thermalShutdown (frs : List (Fin 24 × RxFrame)) (d : Dev) : Dev :=
  if !d.dieWatched then d
  else
    let d := (d.raise PW_STATUS_THERM_SHUT).raise PW_STATUS_THERM_SHUT_SEEN
    if !d.coreRuns then d
    else abortSurvey (ceCut (d.each (upTo 24) fun n => cutField n cutTHERMAL (fragOf frs n)))

/-! Power states (R60 to R64). -/

/-- A write of PW_STATE (R61): a request that may not be made now is refused with LOCKED, a code that names no request with RANGE. -/
def pwStateWrite (p : Path) (w : Word) (d : Dev) : Dev :=
  let req := bits w.toNat 10 8
  let cur := d.rd PW_STATE_CUR
  let range := decide (req < 2 ∨ 4 < req)
  let listed := (cur = 1 && !(d.on GC_BOOT_BARE && req ≠ 4)) || (cur = 3 && req = 4 && p == .watchkeeper)
  let locked := d.on PW_STATE_BUSY || d.power.hold.isSome || d.power.step ≠ .up || (!range && !listed)
  if range || locked then d.accessError 0x1000 p true 0x1010 ⟨range, locked, false⟩
  else
    let d := ((d.wr PW_STATE_REQ req).raise PW_STATE_BUSY).modPower fun q =>
      { q with entry := if req = 2 then .trim else if req = 3 then .watch else .dormant }
    if req = 2 || cur ≠ 1 then d else abortSurvey d

/-- A write of PW_STATE with a given REQ. -/
def stateRequest (req : Nat) (p : Path) : Dev → Dev := onPort 0x1000 p (pwStateWrite p (nw (req * 256)))

/-- Has every Pontoon released its grant and every field gone OFF (R101), and does no survey run (R61, R62)? -/
def Dev.drained (d : Dev) : Bool :=
  d.ts.grants.all (·.released.isSome) && ((upTo 24).all fun n => (d.chan n).field.st == .off) && !d.surveying && !d.ts.survey.waiting

/-- Trim is entered at a slot boundary (R61, R152, R424). -/
def trimEntry (d : Dev) : Dev :=
  if !d.coreRuns || d.rd PW_STATE_CUR ≠ 1 || !(d.power.entry = .trim || d.boot.phase = .trim) || !d.drained then d
  else
    let d := d.reach (d.nextBoundary * 1000000)
    let d := ((d.wr PW_STATE_CUR 2).wr PW_STATE_REQ 1).lower PW_STATE_BUSY
    calStart (staleAll (d.modPower fun p => { p with entry := .none }))

/-- Every port powers down, and the PLLs stop (R62, R64). -/
def stopPorts (d : Dev) : Dev :=
  let d := (enDropAll d).lower GC_STATUS_PLLE_LOCK
  let d := (d.lower GC_STATUS_PLLA_LOCK).lower GC_STATUS_PLLD_LOCK
  powerPorts ((d.raise TC_STATUS_XTAL_MODE).raise FD_WDOG_STATUS_PAUSED)

/-- Does an enabled Watchkeeper entry name a berth in one of the groups that an enable switches (R62)? -/
def Dev.wkNeeds (d : Dev) (pen : Nat) : Bool :=
  d.wkEnabled.any fun e =>
    let ch := d.rd (PW_WK_ENT_BERTH e) / 64
    if pen = 4 then decide (ch < 12) else decide (12 ≤ ch ∧ ch < 24)

/-- Step 3 of R62: the runtime commits the record that it has open. -/
def commitOpen (d : Dev) : Dev := settleServices (journalCommit d)

/-- Watch is entered once the grants are released (R62 steps 3 to 7); the open journal record is committed first. -/
def watchEntry (d : Dev) : Dev :=
  if d.power.entry ≠ .watch || !d.coreRuns || !d.drained then d
  else
    let d := stopPorts (commitOpen d)
    let d := if d.on PW_CFG_DRAM_KEEP then d else dropPen 2 d
    let d := ((d.wr PW_STATE_CUR 3).lower PW_STATE_BUSY).modPower fun p => { p with entry := .none }
    let d := startDrops ([5, 4].filter fun k => !d.wkNeeds k) .nothing (startSniffs (enterHoldover d))
    takeDeferred d

/-- Dormant is entered once the grants are released and the open journal record is committed, or from Watch (R64): the CORE domain is
lost, and the enables drop. -/
def dormantEntry (d : Dev) : Dev :=
  let ready := (d.rd PW_STATE_CUR = 3 && !d.power.waking) || (d.coreRuns && d.drained)
  if d.power.entry ≠ .dormant || !d.power.drops.isEmpty && d.power.after = .dormant || !ready then d
  else
    let deferred := d.power.deferred
    let d := coreReset false (enterHoldover (stopPorts (commitOpen d)))
    startDrops downOrder .dormant (d.modPower fun p => { p with entry := .dormant, deferred := deferred, trimDue := true })

/-! The wake from Watch (R63). -/

/-- The Manifest's programs are copied to their load addresses (R76 step 6, R89). -/
def loadPrograms (d : Dev) : Dev :=
  match d.boot.manifest with
  | none => d
  | some m => { d with mem := m.programs.foldl (fun (mem : Memory) (x : Program) => Memory.write mem x.load x.image) d.mem }

/-- Pilot restarts from the boot ROM where DRAM was lost in Watch (R63): what the runtime held in DRAM is gone, and the programs are
fetched again from the source of the boot. -/
def restartPilot (d : Dev) : Dev :=
  let d := d.modSv fun s => { SvSt.reset with committed := s.committed, jpos := s.jpos, jseq := s.jseq, mboxIn := s.mboxIn,
                                              mboxOut := s.mboxOut, waiting := s.waiting }
  if d.boot.phase ≠ .runtime then d
  else
    let b := d.boot
    { d with boot := { b with phase := .reload, source := min b.lastSource 4, port := b.lastSource - 4, got := 0, since := d.ns } }

/-- The wake completes once the PLLs have locked and DRAM answers. -/
def wakeDone (d : Dev) : Dev :=
  if !d.power.waking || !d.on GC_STATUS_PLLA_LOCK || !d.on GC_STATUS_PLLD_LOCK || !d.on PW_RAIL_VDDR_OK then d
  else
    let kept := d.power.dram
    let d := ((d.wr PW_STATE_CUR 1).wr PW_STATE_REQ 1).lower PW_STATE_BUSY
    let d := (d.modPower fun p => { p with waking := false, dram := true }).flag PW_STATUS_DRAM_VALID kept
    let d := (d.lower TC_STATUS_XTAL_MODE).lower FD_WDOG_STATUS_PAUSED
    let d := tamperDue d
    let d := if kept then d else restartPilot d
    settleServices (flushTimeEvents (powerPorts d))

/-- A rail reaches regulation: power-up goes on (R52), or a wake from Watch completes (R63). -/
def railInRegulation (r : Rail) (d : Dev) : Dev :=
  if !d.bitOn PW_RAIL_PEN (railPen r) || d.power.step = .off then d
  else
    let d := d.raise (railOk r)
    if d.power.step = .rail r then powerUpNext d else wakeDone d

/-! The meanings of the rows of this family. -/

/-- VAON_POWER_ON (R52): VAON first enters regulation: the power-on reset holds every domain, Capstan runs from its RC oscillator and the crystal oscillator starts. -/
def execVaonPowerOn (s : State) : Host.Outcome State Fault Refusal :=
  s.act (Machine.vaonPowerOn)

/-- CRYSTAL_STABLE (R52): The crystal becomes stable: Capstan changes over to it and asserts PEN1. -/
def execCrystalStable (s : State) : Host.Outcome State Fault Refusal :=
  s.act (Machine.crystalStable)

/-- RAIL_FAIL (R53): A rail fails to regulate within 5 ms of its enable: RAIL_FAIL is set and the enables drop in reverse order. -/
def execRailFail (what : Supply) (s : State) : Host.Outcome State Fault Refusal :=
  s.act (Machine.railFail what)

/-- XTAL_FAIL (R53): The crystal fails to become stable within 10 ms: XTAL_FAIL is set and the enables drop. -/
def execXtalFail (s : State) : Host.Outcome State Fault Refusal :=
  s.act (Machine.xtalFail)

/-- ENABLE_DROP_STEP (R53): The 100 µs spacing timer expires and Capstan drops the next PMIC enable of a drop sequence. -/
def execEnableDropStep (s : State) : Host.Outcome State Fault Refusal :=
  s.act (Machine.enableDropStep)

/-- POWER_UP_RETRY (R53): 100 ms after a failed power-up has dropped its enables, power-up restarts from step 1 with the AON registers kept. -/
def execPowerUpRetry (s : State) : Host.Outcome State Fault Refusal :=
  s.act (Machine.powerUpRetry)

/-- PLLA_UNLOCK (R19): PLL_A loses lock: the RF drivers turn off within 2 µs, the Deck, Pilot and channels halt, and the Tideclock counts from the crystal. -/
def execPllaUnlock (frags : List (Fin 24 × RxFrame)) (s : State) : Host.Outcome State Fault Refusal :=
  s.act (Machine.pllaUnlock frags)

/-- PLLD_UNLOCK (R59): PLL_D loses lock: DRAM accesses stall and PLLD_UNLOCK is set. -/
def execPlldUnlock (s : State) : Host.Outcome State Fault Refusal :=
  s.act (Machine.plldUnlock)

/-- PLLE_UNLOCK (R59): PLL_E loses lock: both SGMII links drop and PLLE_UNLOCK is set. -/
def execPlleUnlock (s : State) : Host.Outcome State Fault Refusal :=
  s.act (Machine.plleUnlock)

/-- TEMP_SAMPLE (R57): A die temperature sample is taken; it sets the thermal factor and clears a thermal shutdown once T is below THROTTLE. -/
def execTempSample (t : BitVec 11) (s : State) : Host.Outcome State Fault Refusal :=
  s.act (Machine.tempSample t.toNat)

/-- THERMAL_SHUTDOWN (R58): The die reaches 125 °C: every RF driver turns off within 1 cc, THERM_SHUT is set and no grant is issued. -/
def execThermalShutdown (frags : List (Fin 24 × RxFrame)) (s : State) : Host.Outcome State Fault Refusal :=
  s.act (Machine.thermalShutdown frags)

/-- VRF_GROUP_LEVEL_CHANGE (R54): A VRF group crosses 4.75 V, which changes its VRF_OK bit and its channels' eligibility for transmit grants. -/
def execVrfGroupLevelChange (g : Fin 6) (mv : Nat) (s : State) : Host.Outcome State Fault Refusal :=
  s.act (vrfLevel g.val mv)

/-- TRIM_REQUEST (R61): A write of PW_STATE.REQ = Trim requests a recalibration, or is refused with LOCKED. -/
def execTrimRequest (p : Path) (s : State) : Host.Outcome State Fault Refusal :=
  s.act (stateRequest 2 p)

/-- TRIM_ENTRY (R61): Once all grants have ended, or after boot when Trim is due, the device enters Trim and starts calibration. -/
def execTrimEntry (s : State) : Host.Outcome State Fault Refusal :=
  s.act (Machine.trimEntry)

/-- WATCH_REQUEST (R62): A write of PW_STATE.REQ = Watch sets BUSY and stops new grants, or is refused with LOCKED. -/
def execWatchRequest (p : Path) (s : State) : Host.Outcome State Fault Refusal :=
  s.act (stateRequest 3 p)

/-- WATCH_ENTRY_CONTINUE (R62): Once every Pontoon has released its grant, the journal commits, ports power down, DRAM enters self-refresh, the clocks stop and Watch is reached. -/
def execWatchEntryContinue (s : State) : Host.Outcome State Fault Refusal :=
  s.act (watchEntry)

/-- DORMANT_REQUEST (R64): A write of PW_STATE.REQ = Dormant, by software or by Watchkeeper, starts Dormant entry, or is refused with LOCKED. -/
def execDormantRequest (p : Path) (s : State) : Host.Outcome State Fault Refusal :=
  s.act (stateRequest 4 p)

/-- DORMANT_ENTRY_CONTINUE (R64): After the drain, every port powers down and the enables drop in power-down order. -/
def execDormantEntryContinue (s : State) : Host.Outcome State Fault Refusal :=
  s.act (dormantEntry)

/-- COLD_RESET (R66): VAON stays below 1.62 V for more than 1 µs: a COLD reset holds the device until VAON is again at or above 1.71 V. -/
def execColdReset (s : State) : Host.Outcome State Fault Refusal :=
  s.act (Machine.coldReset)

/-- BROWN_RESET (R66): VCORE falls below 0.69 V for more than 1 µs, or VANA or VDDR leaves regulation for more than 10 µs: a BROWN reset occurs. -/
def execBrownReset (r : Rail) (s : State) : Host.Outcome State Fault Refusal :=
  s.act (Machine.brownReset r)

/-- PIN_RESET (R66): RESET_N stays low for at least 1 µs: a PIN reset holds the device for as long as RESET_N is low. -/
def execPinReset (s : State) : Host.Outcome State Fault Refusal :=
  s.act (Machine.pinReset)

/-- GC_RESET (R66): A write of GC_RESET with GO = 1 and KEY = 0x5A schedules a SOFT reset; any other KEY is refused with RANGE. -/
def execGcReset (p : Path) (w : Word) (s : State) : Host.Outcome State Fault Refusal :=
  s.act (onPort 0 p (Machine.gcReset p w))

/-- SOFT_RESET (R66): 1 µs after a valid GC_RESET write, a SOFT reset occurs, with the Deck kept when KEEP_DECK = 1. -/
def execSoftReset (s : State) : Host.Outcome State Fault Refusal :=
  s.act (Machine.softReset)

/-- PFAIL_ASSERT (R72): The power-fail source asserts: PFAIL is set, Pilot is interrupted, new grants, journal records and fuse commits stop. -/
def execPfailAssert (input : PfailInput) (s : State) : Host.Outcome State Fault Refusal :=
  s.act (Machine.pfailAssert input)

/-- PFAIL_RELEASE (R73): The power-fail source is released before the fence: grants and journal records resume and PFAIL_GLITCH is set. -/
def execPfailRelease (input : PfailInput) (s : State) : Host.Outcome State Fault Refusal :=
  s.act (Machine.pfailRelease input)

/-- MRAM_FENCE (R73): 1.2 ms after the power-fail assertion, the MRAM write fence is set and a BROWN reset follows. -/
def execMramFence (s : State) : Host.Outcome State Fault Refusal :=
  s.act (Machine.mramFence)

/-- LINK_DROP (R364): A link in UP or BOOT_PEER fails (32 failed codewords, RETRY_MAX exceeded, or 100 µs without decode); unacknowledged packets are discarded. -/
def execLinkDrop (p : Fin 4) (s : State) : Host.Outcome State Fault Refusal :=
  s.act (fun d => linkReset (linkDropEvent p.val d))

/-- RETRAIN (R360): HS_CMD.OP = RETRAIN, or HSp_CFG.RETRAIN, sends a port back to DETECT. -/
def execRetrain (path : Path) (p : Fin 4) (command : Bool) (s : State) : Host.Outcome State Fault Refusal :=
  s.act (fun d => linkReset (onPort 0x8000 path (fun d => Machine.retrain p.val (if command then d.wr HS_CMD_STATUS_CODE cDONE else d)) d))

/-- CODEWORD_RECEIVED (R361): A codeword is decoded into a link frame, or fails; DATA frames are accepted in order, with ACK and NAK processed. -/
def execCodewordReceived (p : Fin 4) (frame : Option LinkFrame) (corrected : Bool) (iterAvg snr : Byte) (s : State) : Host.Outcome State Fault Refusal :=
  s.act (fun d => linkReset (withDrop p.val (codeword p.val frame corrected iterAvg snr) d))

/-- ACK_TIMEOUT (R363): The oldest unacknowledged DATA frame waits ACK_TO µs and the sender goes back N. -/
def execAckTimeout (p : Fin 4) (s : State) : Host.Outcome State Fault Refusal :=
  s.act (fun d => linkReset (withDrop p.val (Machine.ackTimeout p.val) d))

/-- ROUTING_TABLE_UPDATE (R374): The routing table is recomputed after a change of the LSA set. -/
def execRoutingTableUpdate (s : State) : Host.Outcome State Fault Refusal :=
  s.act (fun d => linkReset (routingUpdate d))

/-- RESET_ORDER (R380): A received reset order is accepted, leading to a LINK reset after the reply, or is refused. -/
def execResetOrder (srcAddr : BitVec 12) (srcUnit : BitVec 64) (s : State) : Host.Outcome State Fault Refusal :=
  s.act (fun d => linkReset (Machine.resetOrder srcAddr.toNat srcUnit.toNat d))

end Sys2Proof.Machine
end

