-- ==== Sys2Proof/Machine/Image.lean ====
section
/-!
DEFINITION. Manifest images and the flash directory (chapter 04_boot_manifest.md): the checks of R77 in their order, with the error
code of R100 and the failing section type, and the directory entries of R90.
-/

namespace Sys2Proof.Machine

/-! Error codes (R100). -/
abbrev eNO_IMAGE : Nat := 0x10
abbrev eSIZE : Nat := 0x11
abbrev eKEY : Nat := 0x12
abbrev eSIGNATURE : Nat := 0x13
abbrev eROLLBACK : Nat := 0x14
abbrev eDECRYPT : Nat := 0x15
abbrev eSECTION : Nat := 0x16
abbrev eTILES : Nat := 0x17
abbrev ePOOL : Nat := 0x18
abbrev eROLE : Nat := 0x19
abbrev eFABRIC : Nat := 0x1A
abbrev ePROGRAM : Nat := 0x1B
abbrev eDECK_PARITY : Nat := 0x1C
abbrev eTRIAL : Nat := 0x1D
abbrev eTRANSPORT : Nat := 0x1E
abbrev eHEADER : Nat := 0x1F

/-- Length of the staging area (R76, R97). -/
abbrev stagingLen : Nat := 0x2000000
abbrev stagingAt : Nat := 0x10000000

/-- Are bytes `lo` to `hi - 1` all 0? -/
def allZero (bs : List Byte) (lo hi : Nat) : Bool := ((bs.drop lo).take (hi - lo)).all (· == 0)

/-- Check 1 (R77, R80): the error of the header, if any. -/
def headerError (img : List Byte) (slotSize : Option Nat) : Option Nat :=
  let len := le32At img 8
  let flags := le32At img 12
  let count := le16At img 0x18
  if img.length < 4 || le32At img 0 ≠ 0x464A4D31 then some eNO_IMAGE
  else if img.length < 128 then some eSIZE
  else if le16At img 4 ≠ 1 then some eHEADER
  else if le16At img 6 ≠ 0x80 || len < 512 || stagingLen < len || img.length < len
      || (match slotSize with
          | some s => decide (s < len)
          | none => false) then some eSIZE
  else if 4 ≤ flags || 64 < le32At img 0x10 || count < 5 || 16 < count || 3 < u8At img 0x1A || le32At img 0x1C ≠ 0x80
      || 2 < u8At img 0x2A || (flags % 2 = 0 && !allZero img 0x2C 0x48) || !allZero img 0x1B 0x1C || !allZero img 0x2B 0x2C
      || !allZero img 0x48 0x80 then some eHEADER
  else none

/-- Check 2 (R82): does the signer's key pass? -/
def Dev.imageKeyOk (d : Dev) (keyIndex : Nat) (pub : List Byte) : Bool :=
  if d.secureFuses then
    let f := d.hashFuse keyIndex
    f.valid && !f.revoked && Config.sha256 pub == f.data
  else true

/-- Check 5 (R83): the image with its payloads in plain text. -/
def Dev.decrypted (d : Dev) (img : List Byte) : Option (List Byte) :=
  if le32At img 12 % 2 = 0 then some img
  else if !d.fuses.mkey.valid then none
  else
    let start := 0x80 + 16 * le16At img 0x18
    let sig := img.length - 128
    let aad := img.take 0x38 ++ zeros 16 ++ (img.take start).drop 0x48
    match Config.gcmDecrypt d.fuses.mkey.data ((img.drop 0x2C).take 12) aad ((img.take sig).drop start) ((img.drop 0x38).take 16) with
    | none => none
    | some plain => if stagingLen < start + plain.length + 128 then none else some (img.take start ++ plain ++ img.drop sig)

/-! Check 6 (R81). -/

/-- An entry of the section table: TYPE, SFLAGS, OFFSET, LENGTH, and whether the last word is 0. -/
def sectEntry (img : List Byte) (i : Nat) : Nat × Nat × Nat × Nat × Bool :=
  let o := 0x80 + 16 * i
  (le16At img o, le16At img (o + 2), le32At img (o + 4), le32At img (o + 8), le32At img (o + 12) = 0)

/-- Walk the table: the sections found (type and payload), or the type that fails. -/
def walkTable (img : List Byte) : List Nat → List (Nat × Nat) → List (Nat × List Byte) → Except Nat (List (Nat × List Byte))
  | [], _, found => .ok found
  | i :: is, spans, found =>
    let (t, fl, off, len, z) := sectEntry img i
    let start := 0x80 + 16 * le16At img 0x18
    let sig := img.length - 128
    if fl % 0x8000 ≠ 0 || !z || off % 16 ≠ 0 || off < start || sig < off + len then .error t
    else if 0 < len && spans.any fun s => decide (off < s.2 ∧ s.1 < off + len) then .error t
    else
      let spans := if 0 < len then (off, off + len) :: spans else spans
      if 1 ≤ t && t ≤ 6 then
        if found.any (·.1 == t) || (t = 6 && 0x100000 < len) then .error t
        else walkTable img is spans (found ++ [(t, (img.drop off).take len)])
      else if fl = 0x8000 then walkTable img is spans found
      else .error t

/-- The sections of an image; types 1 to 5 are all there. -/
def sections (img : List Byte) : Except Nat (List (Nat × List Byte)) :=
  let n := le16At img 0x18
  if img.length - 128 < 0x80 + 16 * n then .error 0
  else
    match walkTable img (upTo n) [] [] with
    | .error t => .error t
    | .ok found =>
      match [1, 2, 3, 4, 5].find? fun t => !found.any (·.1 == t) with
      | some t => .error t
      | none => .ok found

/-- The payload of a section. -/
def sectOf (found : List (Nat × List Byte)) (t : Nat) : List Byte := ((found.find? (·.1 == t)).map (·.2)).getD []

/-! Check 7 (R85 to R89). -/

/-- Tile cost of a function (R20). -/
def tileCost (func : Nat) : Nat := if func = 1 then 1 else if func = 5 then 4 else 2

/-- The DECK section's entries. -/
def parseDeck : List Byte → Option (List Placement)
  | [] => some []
  | f :: c :: t :: z :: bs =>
    if z ≠ 0 || f = 0 || 5 < f.toNat then none
    else (parseDeck bs).map fun ps => ⟨f.toNat, c.toNat, t.toNat⟩ :: ps
  | _ => none

/-- Tiles that a placement occupies. -/
def Placement.tiles (p : Placement) : List Nat := (upTo (tileCost p.func)).map (p.first + ·)

/-- Are the numbers of a list all different? -/
def distinct : List Nat → Bool
  | [] => true
  | x :: xs => !xs.contains x && distinct xs

/-- R85, with the counts and pairings of R20 and R21. -/
def deckOk (ps : List Placement) (tileTotal mode : Nat) (roles : List Nat) : Bool :=
  let readers := (ps.filter fun p => p.func = 1 || p.func = 2).map (·.channel)
  let emus := (ps.filter fun p => p.func = 3).map (·.channel)
  let total := (ps.map fun p => tileCost p.func).sum
  let tiles := ps.flatMap Placement.tiles
  tiles.all (· < 64) && distinct tiles && total == tileTotal && decide (total ≤ 64) && distinct readers && distinct emus
    && decide (emus.length ≤ 8) && (readers ++ emus).all (· < 24) && (ps.all fun p => p.func < 4 || p.channel = 0xFF)
    && (ps.filter (·.func = 4)).length == b2n (!readers.isEmpty) && (ps.filter (·.func = 5)).length == b2n (mode ≠ 0)
    && (upTo 24).all fun n =>
      let r := roles.getD n 0
      3 < r || (bit r 0 == readers.contains n && bit r 1 == emus.contains n)

/-- The CHANNELS section's entries. -/
def parseChans : Nat → List Byte → List (ChanDecl × Nat)
  | 0, _ => []
  | n + 1, bs =>
    ({ role := u8At bs 0, coils := u8At bs 1, protocols := le16At bs 2, maxPower := le16At bs 4 }, le16At bs 6)
      :: parseChans n (bs.drop 8)

/-- R86 for one channel. PROTOCOLS bits 15:5, of which R86 says nothing, are 0 (DESIGN CHOICE, assumption 26). -/
def chanOk (c : ChanDecl) (z : Nat) (vhbr : Bool) : Bool :=
  let reader := bit c.role 0
  c.role ≤ 3 && c.coils ≤ 64 && z == 0 && c.protocols < 32 && (c.coils ≠ 0 || c.role = 0 || c.role = 2)
    && (if reader then c.protocols % 16 ≠ 0 && bit c.protocols 4 == vhbr else c.protocols = 0)
    && (c.role = 0 || (1 ≤ c.maxPower && c.maxPower ≤ 150))

/-- The QUEUES section's entries: SIZE, CONSUMER, and whether the reserved bytes are 0. -/
def parseQueues : Nat → List Byte → List (Nat × Nat × Bool)
  | 0, _ => []
  | n + 1, bs => (le32At bs 0, u8At bs 4, allZero bs 5 8) :: parseQueues n (bs.drop 8)

/-- R87. -/
def queuesOk (qs : List (Nat × Nat × Bool)) : Bool :=
  let size (n : Nat) : Nat := (qs.getD n (0, 0, true)).1
  let cons (n : Nat) : Nat := (qs.getD n (0, 0, true)).2.1
  (qs.all fun q => (q.1 == 0 || (q.1 % 64 == 0 && q.1 ≤ 524288)) && q.2.1 ≤ 1 && q.2.2) && decide ((qs.map (·.1)).sum ≤ 524288)
    && (size 27 == 0 || size 27 == 128) && cons 25 == 1 && cons 26 == 0

/-- R88. PORTS bits 7:4, of which R88 says nothing, are 0 (DESIGN CHOICE, assumption 26). -/
def fabricOk (f : List Byte) (mode : Nat) : Bool :=
  let ports := u8At f 1
  f.length == 16 && u8At f 0 == mode && mode ≤ 2 && ports < 16 && !(mode = 0 && ports ≠ 0) && !(mode = 2 && ports % 4 ≠ 3)
    && u8At f 3 ≤ 1 && allZero f 8 16

/-- The PROGRAM section's records (R89); `n` bounds the walk. -/
def parsePrograms : Nat → List Byte → Option (List Program)
  | 0, bs => if bs.isEmpty then some [] else none
  | n + 1, bs =>
    if bs.isEmpty then some []
    else
      let len := le32At bs 4
      let whole := 32 + roundUp len 16
      if bs.length < 32 || bs.length < whole || !allZero bs 2 4 || !allZero bs 0x18 0x20 || len = 0 then none
      else
        (parsePrograms n (bs.drop whole)).map fun ps =>
          { kind := u8At bs 0, cores := u8At bs 1, load := leNat ((bs.drop 8).take 8), entry := leNat ((bs.drop 16).take 8),
            image := (bs.drop 32).take len } :: ps

/-- R89 and R328 for one record. CORES bits 7:4, of which R89 says nothing, are 0 (DESIGN CHOICE, assumption 26). -/
def programOk (x : Program) : Bool :=
  let last := x.load + x.image.length
  (x.kind = 1 || x.kind = 2) && x.cores < 16 && x.load ≤ x.entry && x.entry < last && 0x12000000 ≤ x.load && last ≤ 0x1FF00000
    && (x.kind = 2 || (bit x.cores 0 && Config.dexmalSignatureOk x.image))
    && (x.kind = 1 || (0x14000000 ≤ x.load && last ≤ 0x1FE00000))

/-- Images apart, and each core named by at most one record. -/
def programsApart : List Program → Bool
  | [] => true
  | x :: xs =>
    (xs.all fun y => (x.load + x.image.length ≤ y.load || y.load + y.image.length ≤ x.load) && x.cores &&& y.cores == 0)
      && programsApart xs

/-- R89. -/
def programsOk (ps : List Program) : Bool :=
  ps.all programOk && programsApart ps && (ps.filter (·.kind = 1)).length == 1

/-- Check 7, in the order of the section types. -/
def buildManifest (img : List Byte) (found : List (Nat × List Byte)) : Except (Nat × Nat) Manifest :=
  let mode := u8At img 0x2A
  let raw := sectOf found 2
  let chans := parseChans 24 raw
  let queues := parseQueues 32 (sectOf found 3)
  let fab := sectOf found 4
  let prog := sectOf found 5
  match parseDeck (sectOf found 1) with
  | none => .error (eTILES, 1)
  | some ps =>
    if !deckOk ps (le16At img 0x28) mode (if raw.length = 192 then chans.map (·.1.role) else List.replicate 24 4) then .error (eTILES, 1)
    else if raw.length ≠ 192 || !((upTo 24).all fun n =>
        let c := chans.getD n (⟨0, 0, 0, 0⟩, 1)
        chanOk c.1 c.2 (ps.any fun p => p.func == 2 && p.channel == n)) then .error (eROLE, 2)
    else if (sectOf found 3).length ≠ 256 || !queuesOk queues then .error (ePOOL, 3)
    else if !fabricOk fab mode then .error (eFABRIC, 4)
    else
      match parsePrograms (prog.length / 32 + 1) prog with
      | none => .error (ePROGRAM, 5)
      | some progs =>
        if !programsOk progs then .error (ePROGRAM, 5)
        else
          .ok { id := leNat ((img.drop 0x20).take 8), secVersion := le32At img 0x10, advance := bit (le32At img 12) 1, deck := ps,
                channels := chans.map (·.1), queues := queues.map fun q => (q.1, q.2.1), fabricMode := mode, ports := u8At fab 1,
                rootPriority := u8At fab 2, serveBoot := u8At fab 3 = 1, fabricId := le32At fab 4, programs := progs,
                service := sectOf found 6, totalLen := le32At img 8 }

/-- The checks of R77 in order; the first that fails gives the error and the failing section type. -/
def Dev.verify (d : Dev) (img : List Byte) (slotSize : Option Nat) : Except (Nat × Nat) Manifest :=
  match headerError img slotSize with
  | some e => .error (e, 0)
  | none =>
    let img := img.take (le32At img 8)
    let sig := img.length - 128
    let pub := (img.drop sig).take 64
    if !d.imageKeyOk (u8At img 0x1A) pub then .error (eKEY, 0)
    else if !Config.ecdsaVerify pub (Config.sha256 (img.take sig)) (img.drop (sig + 64)) then .error (eSIGNATURE, 0)
    else if le32At img 0x10 < d.fuses.secMin then .error (eROLLBACK, 0)
    else
      match d.decrypted img with
      | none => .error (eDECRYPT, 0)
      | some img =>
        match sections img with
        | .error t => .error (eSECTION, t)
        | .ok found => buildManifest img found

/-- KEYMODE is set the first time that check 2 runs (R82). -/
def noteKeyMode (img : List Byte) (slotSize : Option Nat) (d : Dev) : Dev :=
  if (headerError img slotSize).isSome || d.rd GC_BOOT_KEYMODE ≠ 0 then d
  else d.wr GC_BOOT_KEYMODE (if d.secureFuses then 1 else 2)

/-- MANIFEST_ID as an image gives it. -/
def imageId (img : List Byte) : Nat := leNat ((img.drop 0x20).take 8)

/-! The flash directory (R90, R91). -/

/-- Flash offset of the entry of a slot: 1 A, 2 B. -/
def dirAt (slot : Nat) : Nat := if slot = 2 then 0x1000 else 0

/-- A directory entry as read, where it is valid (R90, R91). The reserved bytes 0x1A to 0x1F are not looked at (DESIGN CHOICE,
assumption 26). -/
def parseDir (bs : List Byte) : Option DirEntry :=
  let off := le32At bs 4
  let size := le32At bs 8
  let seq := le32At bs 12
  let prof := le32At bs 16
  if bs.length < 32 || le32At bs 0 ≠ 0x464A4431 || le32At bs 20 ≠ crc32 (bs.take 20) || off % 0x10000 ≠ 0 || off = 0
      || stagingLen < size || seq = 0 || seq = 0xFFFFFFFF || prof % 16 < 3 || bit prof 7 || bits prof 15 13 ≠ 0
      || bits prof 31 24 ≠ 0 then none
  else some { slotOffset := off, slotSize := size, sequence := seq, profile := prof, attempts := u8At bs 0x18, confirm := u8At bs 0x19 }

/-- Both entries; entries whose areas overlap are invalid. -/
def parseDirs (a b : List Byte) : Option DirEntry × Option DirEntry :=
  match parseDir a, parseDir b with
  | some x, some y =>
    if x.slotOffset < y.slotOffset + y.slotSize && y.slotOffset < x.slotOffset + x.slotSize then (none, none) else (some x, some y)
  | x, y => (x, y)

/-- The entry of a slot, and a change of it. -/
def Dev.dirEntry (d : Dev) (slot : Nat) : Option DirEntry := if slot = 1 then d.boot.dirA else if slot = 2 then d.boot.dirB else none
def Dev.modBoot (d : Dev) (f : BootSt → BootSt) : Dev := { d with boot := f d.boot }
def setEntry (slot : Nat) (e : Option DirEntry) (d : Dev) : Dev :=
  d.modBoot fun b => if slot = 1 then { b with dirA := e } else { b with dirB := e }

/-- The boot ROM uses the flash on GW1: how many master frames that takes is not stated, and stays free (R410). -/
def romFrames (d : Dev) : Dev :=
  let r := d.free
  r.2.count (GW_FRAMES_MASTER 1) r.1

/-- The boot ROM reads the flash (R90). -/
def flashRead (r : FlashRead) (d : Dev) : Dev :=
  romFrames (d.modBoot fun b => { b with flashReads := b.flashReads ++ [r] })

/-- The read of a directory entry: 25.425 MHz, one lane, SDR, opcode 0x03. -/
def dirRead (slot : Nat) : FlashRead := { op := 3, offset := dirAt slot, len := 32, div := 16, lanes := 0, ddr := false, dummy := 0 }

/-- The read of an image with the profile of its entry. -/
def imageRead (e : DirEntry) (len : Nat) : FlashRead :=
  { op := bits e.profile 23 16, offset := e.slotOffset, len := len, div := e.profile % 16, lanes := bits e.profile 5 4,
    ddr := bit e.profile 6, dummy := bits e.profile 12 8 }

/-- The flash is programmed or erased: opcode 0x02 program, 0x20 erase. -/
def flashOp (op off len : Nat) (d : Dev) : Dev :=
  romFrames (d.modBoot fun b => { b with flashOps := b.flashOps ++ [(op, off, len)] })

/-- A trial of an unconfirmed slot is counted before its fetch (R91). -/
def countTrial (slot : Nat) (d : Dev) : Dev :=
  match d.dirEntry slot with
  | none => d
  | some e =>
    if e.confirm ≠ 0xFF || e.attempts = 0 then d
    else flashOp 0x02 (dirAt slot + 0x18) 1 (setEntry slot (some { e with attempts := e.attempts &&& (e.attempts - 1) }) d)

end Sys2Proof.Machine
end

