-- ==== Sys2Proof/Machine/Boot.lean ====
section
/-!
DEFINITION. The boot ROM (chapter 04_boot_manifest.md): release of the CORE reset, the sources and their candidates, applying a
Manifest, journal recovery (R317, R318), Bare deck, and the service commands of R97.
-/

namespace Sys2Proof.Machine

/-- GW1 sends one recovery frame on each chip select before the boot ROM reads the flash (R416). -/
def recoveryFrames (d : Dev) : Dev := romFrames (d.count (GW_FRAMES_MASTER 1) 4)

/-! Errors, Bare deck, candidates (R75, R91, R94, R96). -/

/-- GC_BOOT_ERR takes an error. -/
def bootErr (err sect : Nat) (d : Dev) : Dev :=
  if d.boot.tried.isEmpty then (d.wr GC_BOOT_ERR_FIRST err).wr GC_BOOT_ERR_FIRST_SECT sect
  else (d.wr GC_BOOT_ERR_LAST err).wr GC_BOOT_ERR_LAST_SECT sect

/-- The SOURCE code of the image under way. -/
def Dev.sourceCode (d : Dev) : Nat := if d.boot.source = 4 then 4 + d.boot.port else d.boot.source

/-- An image has been tried (R97). -/
def noteTried (id err sect : Nat) (d : Dev) : Dev :=
  let t : Tried := { source := d.sourceCode, slot := if d.boot.source = 2 then 1 else 0, id := id, err := err, sect := sect }
  (bootErr err sect d).modBoot fun b => { b with tried := b.tried ++ [t] }

/-- The Deck holds no tile (R78, R96, R99). -/
def clearDeck (d : Dev) : Dev :=
  let d := (((d.wr DK_STATUS_TILES_USED 0).lower DK_STATUS_LOADED).wr DK_MANIFEST_ID_ID 0).modBoot fun b =>
    { b with keepDeck := false, lastSource := 0 }
  d.each (upTo 64) fun t d => (d.wr (DK_TILE_CHANNEL t) 0xFF).wr (DK_TILE_FUNC t) 0

/-- Bare deck is entered (R96): an empty configuration; journal recovery still runs. -/
def enterBare (cause : Nat) (d : Dev) : Dev :=
  let d := ((clearDeck d).raise GC_BOOT_BARE).wr GC_BOOT_BARE_CAUSE cause
  let d := ((d.wr GC_BOOT_SOURCE 0).wr GC_MANIFEST_ID_ID 0).wr GC_SECVER_RUNNING 0
  powerPorts ((d.wr SV_RUNTIME_STATE 1).modBoot fun b => { b with phase := .recover, source := 0, manifest := none, others := [] })

/-- The cause of Bare deck when the strapped source gives no image (R75, R91). An image of MANIFEST_BOOT that a Deck parity error ends
(R79) names no cause of its own: it takes this one (DESIGN CHOICE, assumption 26). -/
def Dev.bareCause (d : Dev) : Nat :=
  match d.rd GC_STRAP_BOOT_SRC with
  | 0 => if d.boot.dirA.isSome || d.boot.dirB.isSome then 4 else 3
  | 1 => 2
  | 2 => 5
  | _ => 1

/-- A fetch begins (step 3 of R76). -/
def startFetch (source : Nat) (d : Dev) : Dev :=
  powerPorts ((d.wr GC_BOOT_STAGE 2).modBoot fun b => { b with phase := .fetch, source := source, got := 0, since := d.ns })

/-- The next flash candidate (R91): an exhausted trial is recorded and passed over. -/
def nextFlash : List Nat → Dev → Dev
  | [], d => enterBare d.bareCause (if d.boot.tried.isEmpty then bootErr eNO_IMAGE 0 d else d)
  | s :: rest, d =>
    let d := d.modBoot fun b => { b with source := s, others := rest }
    match d.dirEntry s with
    | none => nextFlash rest d
    | some e =>
      if e.confirm = 0xFF && e.attempts = 0 then nextFlash rest (noteTried 0 eTRIAL 0 d) else startFetch s (countTrial s d)

/-- The flash candidates, the higher SEQUENCE first; of equal ones A. -/
def Dev.flashOrder (d : Dev) : List Nat :=
  match d.boot.dirA, d.boot.dirB with
  | some a, some b => if a.sequence < b.sequence then [2, 1] else [1, 2]
  | some _, none => [1]
  | none, some _ => [2]
  | none, none => []

/-- A neighbour boot takes up a port (R94). -/
def takePort (port round : Nat) (d : Dev) : Dev :=
  startFetch 4 (d.modBoot fun b => { b with source := 4, port := port, round := round })

/-- The next port, or Bare deck after three rounds. -/
def nextPort (d : Dev) : Dev :=
  let b := d.boot
  if b.port < 3 then takePort (b.port + 1) b.round d
  else if b.round < 2 then takePort 0 (b.round + 1) d
  else enterBare 5 (if d.boot.tried.isEmpty then bootErr eTRANSPORT 0 d else d)

/-- The boot starts at the strapped source (R75); a slot that failed already under R99 is passed over. -/
def startSource (skip : Nat) (d : Dev) : Dev :=
  match d.rd GC_STRAP_BOOT_SRC with
  | 0 => nextFlash (d.flashOrder.filter (· ≠ skip)) d
  | 1 => enterBare 2 d
  | 2 => takePort 0 0 d
  | _ => enterBare 1 d

/-- What follows an image that fails (R78, R79, R94, R99). -/
def nextCandidate (d : Dev) : Dev :=
  let d := d.modBoot fun b => { b with manifest := none }
  if d.boot.keepDeck then
    startSource (if d.boot.source ≤ 2 then d.boot.source else 0) (clearDeck d)
  else if d.boot.source = 4 then nextPort d
  else if d.boot.source = 3 then enterBare d.bareCause d
  else nextFlash d.boot.others d

/-- The image is checked under R77 (STAGE 3); it is applied (STAGE 4), or the next candidate follows. -/
def checkImage (img : List Byte) (slotSize : Option Nat) (d : Dev) : Dev :=
  let d := noteKeyMode img slotSize (d.wr GC_BOOT_STAGE 3)
  match d.verify img slotSize with
  | .error (e, s) => nextCandidate (noteTried (imageId img) e s d)
  | .ok m =>
    let d := if d.boot.keepDeck && m.id ≠ d.rd DK_MANIFEST_ID_ID then
        { clearDeck d with boot := { d.boot with keepDeck := false } }
      else d
    powerPorts ((d.wr GC_BOOT_STAGE 4).modBoot fun b => { b with phase := .apply, manifest := some m, fetched := img.length })

/-- The programs that the boot ROM has fetched again are in place, and the runtime starts anew on the journal as it stands (R63). -/
def programsReloaded (m : Manifest) (d : Dev) : Dev :=
  enterRuntime (powerPorts (loadPrograms (d.modBoot fun b => { b with manifest := some m })))

/-- The image of the boot has been fetched again (R63): with the Manifest's programs in it the runtime starts; otherwise the fetch is
repeated (DESIGN CHOICE, assumption 26). -/
def reloadImage (img : List Byte) (slotSize : Option Nat) (d : Dev) : Dev :=
  match d.verify img slotSize with
  | .ok m => if m.id = d.rd GC_MANIFEST_ID_ID then programsReloaded m d else d
  | .error _ => d

/-- What follows a fetched image: a boot checks it, a reload takes its programs. -/
def useImage (img : List Byte) (slotSize : Option Nat) (d : Dev) : Dev :=
  if d.boot.phase = .reload then reloadImage img slotSize d else checkImage img slotSize d

/-- Does the boot ROM fetch an image now (R63, R76)? -/
def Dev.fetching (d : Dev) : Bool := d.coreRuns && (d.boot.phase == .fetch || d.boot.phase == .reload)

/-- An image has been fetched into the staging area (R76 step 4), with the profile of its slot; a host image under R99 stands there
already. No bytes: the flash did not read. The staging area is DRAM, which waits for PLL_D (R59). -/
def imageFetchDone (img : Option (List Byte)) (d : Dev) : Dev :=
  if !d.fetching || !d.on GC_STATUS_PLLD_LOCK || d.boot.source = 4 then d
  else if d.boot.source = 3 then
    useImage (Memory.read d.mem (stagingAt + d.boot.staged.1) d.boot.staged.2) none d
  else
    match img with
    | none => if d.boot.phase = .reload then d else nextCandidate (noteTried 0 eTRANSPORT 0 d)
    | some bs =>
      let bs := bs.take stagingLen
      let e := d.dirEntry d.boot.source
      let d := match e with
        | some e => flashRead (imageRead e bs.length) d
        | none => d
      let d := { d with mem := Memory.write d.mem stagingAt bs, boot := { d.boot with staged := (0, bs.length) } }
      useImage bs (e.map (·.slotSize)) d

/-- A Deck parity error while the tiles are loaded (R79). -/
def bootDeckParity (d : Dev) : Dev :=
  if !d.coreRuns || d.boot.phase ≠ .apply then d
  else
    match d.boot.manifest with
    | none => d
    | some m =>
      let skip := d.boot.keepDeck
      let d := noteTried m.id eDECK_PARITY 0 d
      if skip then nextCandidate d else nextCandidate (clearDeck d)

/-- A port gives no image: the next one follows (R94). After a SOFT reset with the Deck kept the boot starts afresh (R99), and a reload
asks the same port again (R63). -/
def portLeft (d : Dev) : Dev :=
  if d.boot.phase = .reload then d.modBoot fun b => { b with got := 0, since := d.ns }
  else if d.boot.keepDeck then startSource 0 (clearDeck d)
  else nextPort d

/-- A port of the neighbour boot has given no complete image within 200 ms (R94). -/
def portTimeout (d : Dev) : Dev :=
  if !d.fetching || d.boot.source ≠ 4 then d
  else portLeft (d.reach (d.boot.since + 200000000))

/-- Does the boot ROM take a message of the neighbour boot on port `p` (R379)? -/
def Dev.bootsOn (d : Dev) (p : Nat) : Bool := d.fetching && d.boot.source == 4 && d.boot.port == p && d.link p == lUP

/-- Bytes that the part itself writes to DRAM, which wait for PLL_D (R59). -/
def stageBytes (a : Nat) (bs : List Byte) (d : Dev) : Dev :=
  if d.on GC_STATUS_PLLD_LOCK && d.dramWait.isEmpty then { d with mem := Memory.write d.mem a bs }
  else if bs.isEmpty then d
  else { d with dramWait := d.dramWait ++ [{ path := .pilot, addr := a, data := bs, count := 0, pad := 0 }] }

/-- BOOT_DATA (R379): the chunk goes into the staging area. -/
def bootData (p off : Nat) (bs : List Byte) (d : Dev) : Dev :=
  let bs := bs.take 1004
  if !d.bootsOn p || stagingLen < off + bs.length then d
  else
    (stageBytes (stagingAt + off) bs d).modBoot fun b =>
      { b with got := if off ≤ b.got then max b.got (off + bs.length) else b.got }

/-- BOOT_END (R379): what has been received is checked, once PLL_D is locked (R59). -/
def bootEnd (p total : Nat) (d : Dev) : Dev :=
  if !d.bootsOn p then d
  else if !d.on GC_STATUS_PLLD_LOCK then d.modBoot fun b => { b with ended := some (p, total) }
  else
    let n := min total d.boot.got
    useImage (Memory.read d.mem stagingAt n) none (d.modBoot fun b => { b with staged := (0, n), ended := none })

/-- PLL_D has locked: a BOOT_END that waits is carried out (R59). -/
def bootResume (d : Dev) : Dev :=
  match d.boot.ended with
  | some (p, total) => if d.on GC_STATUS_PLLD_LOCK then bootEnd p total (d.modBoot fun b => { b with ended := none }) else d
  | none => d

/-- BOOT_DENY (R379). -/
def bootDeny (p : Nat) (d : Dev) : Dev := if d.bootsOn p then portLeft d else d

/-! Step 6 (R76, R85 to R90, R292, R416). -/

/-- The tiles of the Deck section. -/
def placeTiles (m : Manifest) (d : Dev) : Dev :=
  let d := d.each m.deck fun p d => d.each p.tiles fun t d =>
    (d.wr (DK_TILE_FUNC t) p.func).wr (DK_TILE_CHANNEL t) p.channel
  ((d.wr DK_STATUS_TILES_USED (m.deck.map fun p => tileCost p.func).sum).wr DK_MANIFEST_ID_ID m.id)

/-- Each queue's region of the pool, in order, and its consumer. -/
def placeQueues : Nat → Nat → List (Nat × Nat) → Dev → Dev
  | _, _, [], d => d
  | n, base, (size, consumer) :: qs, d =>
    placeQueues (n + 1) (base + size / 64) qs
      (((d.wr (LQN_POOL_BASE n) base).wr (LQN_POOL_SIZE n) (size / 64)).wr (LQN_CFG_CONSUMER n) consumer)

/-- After a flash boot the XIP window follows the slot's PROFILE (R416). -/
def profileXip (d : Dev) : Dev :=
  match d.dirEntry d.boot.source with
  | none => d
  | some e =>
    let v := e.profile
    let d := (((d.raise GW1_XIP_CFG_EN).lower GW1_XIP_CFG_CONT).raise GW1_XIP_CFG_PREFETCH).wr GW1_XIP_CFG_CS 0
    let d := ((d.raise GW1_XIP_CFG_A4).wr GW1_XIP_CFG_DUMMY (bits v 12 8)).wr GW1_XIP_CFG_OPCODE (bits v 23 16)
    ((d.wr (GW_CS_CFG_LANES 1 0) (bits v 5 4)).wr (GW_CS_CFG_DDR 1 0) (bits v 6 6)).wr (GW_CS_CFG_DIV 1 0) (v % 16)

/-- Groups that hold a coil owe the frame of R122 before the first boundary at least LEAD away. -/
def oweSelects (d : Dev) : Dev :=
  let gs := (upTo 6).filter fun g => (upTo 4).any fun j => d.coils (4 * g + j) ≠ 0
  { d with ts := { d.ts with selInit := gs.map fun g => (g, d.boundaryAfterLead (d.rd (CH_SEL_CFG_LEAD (4 * g)))) } }

/-- The valid entries behind the slot that boots whose attempts are used up are recorded too (R91): after it, since they stand behind it
in the order of SEQUENCE (DEDUCED, assumption 22). -/
def noteExhausted (d : Dev) : Dev :=
  let s := d.boot.source
  let d := d.each d.boot.others fun o d =>
    match d.dirEntry o with
    | some e => if e.confirm = 0xFF && e.attempts = 0 then noteTried 0 eTRIAL 0 (d.modBoot fun b => { b with source := o }) else d
    | none => d
  d.modBoot fun b => { b with source := s, others := [] }

/-- Step 6 completes. -/
def configApplyDone (d : Dev) : Dev :=
  if !d.coreRuns || d.boot.phase ≠ .apply then d
  else
    match d.boot.manifest with
    | none => d
    | some m =>
      let kept := d.boot.keepDeck
      let code := d.sourceCode
      let d := noteExhausted (noteTried m.id 0 0 d)
      let d := (if kept then d else placeTiles m d).raise DK_STATUS_LOADED
      let d := (((d.flag GC_BOOT_DECK_KEPT kept).wr GC_BOOT_SOURCE code).wr GC_MANIFEST_ID_ID m.id).wr GC_SECVER_RUNNING m.secVersion
      let d := placeQueues 0 0 m.queues d
      let d := (((d.wr HS_MCFG_MODE m.fabricMode).wr HS_MCFG_PRIORITY m.rootPriority).flag HS_MCFG_SERVE_BOOT m.serveBoot).wr
        HS_MCFG_PORTS m.ports
      let d := (d.wr HS_FABRIC_ID_ID m.fabricId).wr HS_STATUS_MODE m.fabricMode
      let d := profileXip (loadPrograms d)
      let d := (d.wr GC_BOOT_STAGE 5).wr SV_RUNTIME_STATE 1
      let d := oweSelects (d.modBoot fun b => { b with phase := .recover, lastSource := code, keepDeck := false })
      if m.fabricMode = 2 then enterCascade d else powerPorts d

/-! Journal recovery (R309, R317, R318, R436). -/

/-- Apply one record: entries, APPLIED_SEQ, TAIL (R315 steps 3 to 5). -/
def recoverRecord (seq next : Nat) (es : List (Nat × List Byte)) (d : Dev) : Dev :=
  let d := d.each es fun (e : Nat × List Byte) d => mramWrite e.1 e.2 d
  mramWrite (controlAt + 8) (leBytes 4 next ++ leBytes 4 0) (mramWrite controlAt (leBytes 8 seq) d)

/-- The scan from journal offset `off`, expecting `seq`; `ecc` counts the records until an uncorrectable one. It answers where the
scan ends, the sequence number expected there, whether ECC ended it, and how many records were applied. -/
def scanJournal : Nat → Nat → Nat → Option Nat → Nat → Dev → Nat × Nat × Bool × Nat × Dev
  | 0, off, seq, _, k, d => (off, seq, false, k, d)
  | n + 1, off, seq, ecc, k, d =>
    if ecc = some 0 then (off, seq, true, k, d)
    else
      let off := if journalSize ≤ off then 0 else off
      match readRecord d.mem off with
      | none => (off, seq, false, k, d)
      | some (_, s, len, es) =>
        let next := (off + len) % journalSize
        if s + 1 = seq && s = d.appliedSeq && k = 0 then
          scanJournal n next seq (ecc.map (· - 1)) k (mramWrite (controlAt + 8) (leBytes 4 next ++ leBytes 4 0) d)
        else if s ≠ seq then (off, seq, false, k, d)
        else scanJournal n next (seq + 1) (ecc.map (· - 1)) (k + 1) (recoverRecord s next es d)

/-- The recovery itself: the scan, a record begun but not whole is discarded, BOOT_SEQ, CL_COUNT and CL_SEQ. -/
def recoverJournal (ecc : Option Nat) (d : Dev) : Dev :=
  let start := d.tail % journalSize / 64 * 64
  let r := scanJournal 65536 start (d.appliedSeq + 1) ecc 0 d
  let off := r.1 % journalSize
  let seq := r.2.1
  let stopped := r.2.2.1
  let d := r.2.2.2.2
  let h := Memory.read d.mem (mramBase + journalAt + off) 16
  let torn := le32At h 0 = 0x4A524E31 && leNat (h.drop 8) = seq
  let d := if torn then (mramWrite (journalAt + off) [0, 0, 0, 0] d).raise SV_RECOV_DISCARDED else d
  let d := (d.raiseIf stopped SV_RECOV_ECC_STOP).wr SV_RECOV_REPLAYED (min r.2.2.2.1 65535)
  let d := d.modSv fun s => { s with jpos := off, jseq := seq, committed := [] }
  let boot := leNat (Memory.read d.mem (mramBase + controlAt + 0x20) 8) + 1
  let d := commitRecord 1 [(controlAt + 0x20, leBytes 8 boot)] [] none d
  let d := d.each d.sv.committed fun r d => recoverRecord r.seq r.next r.entries d
  let d := (d.modSv fun s => { s with committed := [] }).wr SV_APPLIED_SEQ d.appliedSeq
  let d := (d.wr CL_COUNT_COUNT (Memory.word d.mem (mramBase + controlAt + 0x18))).wr CL_SEQ_SEQ boot
  d.raise SV_RECOV_DONE

/-- PEN4 and PEN5 as the Manifest's roles ask (R52 step 9). -/
def raiseRf (d : Dev) : Dev :=
  let need (lo : Nat) : Bool := (upTo 12).any fun j => (d.decl (lo + j)).role ≠ 0
  let d := d.modPower fun p => { p with pen4Role := need 0, pen5Role := need 12, drops := [], after := .nothing }
  let d := if need 0 then d.penUp 4 else d
  if need 12 then d.penUp 5 else d

/-- Recovery completes (steps 7 to 10 of R76): Trim where it is due, or the runtime; in Bare deck the boot ROM serves the mailbox. -/
def recoveryDone (ecc : Option Nat) (d : Dev) : Dev :=
  if !d.coreRuns || d.boot.phase ≠ .recover then d
  else
    let d := (recoverJournal ecc d).wr SV_RUNTIME_STATE 0
    if d.on GC_BOOT_BARE then settleServices (d.modBoot fun b => { b with phase := .bare })
    else
      let d := (raiseRf d).wr GC_BOOT_STAGE 6
      if d.power.trimDue then d.modBoot fun b => { b with phase := .trim } else enterRuntime d

/-! Release of the CORE reset (R66, R74, R443, R451, R458). -/

/-- One bit, and one byte, of the CRC-16 of R451. -/
def crc16Bit (c : Nat) : Nat := if c / 32768 % 2 = 1 then (c * 2 % 65536) ^^^ 0x1021 else c * 2 % 65536
def crc16Byte (c : Nat) (b : Byte) : Nat :=
  let c := c ^^^ (b.toNat * 256)
  crc16Bit (crc16Bit (crc16Bit (crc16Bit (crc16Bit (crc16Bit (crc16Bit (crc16Bit c)))))))

/-- Does CHECK of GC_ID3 agree with the identity fuses (R451)? -/
def Dev.idGood (d : Dev) : Bool :=
  let bs := beBytes 4 (d.rawWord 0x10) ++ beBytes 4 (d.rawWord 0x14) ++ beBytes 4 (d.rawWord 0x18) ++ beBytes 2 (d.rawWord 0x1C % 65536)
  bs.foldl crc16Byte 0xFFFF == d.rd GC_ID3_CHECK

/-- Offset of a crash slot in the MRAM window (R443). -/
def crashSlotAt (s : Nat) : Nat := crashAt + 0x10000 * s

/-- CRASH_SEQ of a valid crash slot (R443, R444). -/
def Dev.crashSeq (d : Dev) (s : Nat) : Option Nat :=
  let a := mramBase + crashSlotAt s
  let seq := Memory.word d.mem (a + 0x0C)
  if Memory.word d.mem (a + 0x7C) = (seq ^^^ 0x5A5A5A5A)
      && Memory.word d.mem (a + 0x78) == crc32 (Memory.read d.mem a 0x78 ++ Memory.read d.mem (a + 0x80) (0x10000 - 0x80)) then some seq
  else none

/-- FD_CRASH and FD_CRASH_SEQ are rebuilt from the slots after a COLD reset (R443). -/
def rebuildCrash (d : Dev) : Dev :=
  let best := (upTo 4).foldl (fun (b : Option (Nat × Nat)) s =>
    match d.crashSeq s, b with
    | some q, some x => if x.2 < q then some (s, q) else some x
    | some q, none => some (s, q)
    | none, b => b) none
  match best with
  | none => (d.lower FD_CRASH_LAST_VALID).wr FD_CRASH_NEXT 0
  | some (s, q) =>
    (((d.raise FD_CRASH_LAST_VALID).wr FD_CRASH_LAST s).wr FD_CRASH_NEXT ((s + 1) % 4)).wr FD_CRASH_SEQ_SEQ q

/-- The image that the boot starts with: where the Deck is kept, the one that it was loaded from (R99); else the strapped source's (R75). -/
def bootFrom (last : Nat) (d : Dev) : Dev :=
  if !d.boot.keepDeck || last = 0 then startSource 0 (clearDeck d)
  else if last = 3 then startFetch 3 d
  else if 4 ≤ last then takePort (last - 4) 0 d
  else
    match d.dirEntry last with
    | some _ => startFetch last (countTrial last (d.modBoot fun b => { b with source := last, others := [] }))
    | none => nextCandidate (noteTried 0 eNO_IMAGE 0 (d.modBoot fun b => { b with source := last }))

/-- The CORE reset is released, and the boot ROM starts (R76 steps 1 to 3): straps, identity check, fuse records, and after a COLD
reset the trims and the crash index; holdover begins (R342). It reads the directory whichever source is strapped, which SLOT_WRITE needs
(R93), and STAGE is 2 from here, in Bare deck too (DESIGN CHOICE, assumption 26). -/
def coreRelease (env : BootEnv) (d : Dev) : Dev :=
  let cold := d.power.hold = some .cold
  let d := if d.power.dormantWake && d.power.hold.isNone then
      let d := (((d.lower FD_CAUSE_FATAL).raise FD_CAUSE_WAKE).wr FD_CAUSE_BROWN_SRC 0).wr FD_CAUSE_ALL 0
      ((d.wr FD_CAUSE_CLASS 0).raise FD_HIST_WAKE_SEEN).countSat FD_RESETS_COUNT 1
    else d
  let d := if d.power.dram then d else d.lower PW_STATUS_DRAM_VALID
  let d := d.modPower fun p =>
    { p with hold := none, dormantWake := false, fence := false, resetPin := false, dram := true, step := .up }
  let d := ((d.wr PW_STATE_CUR 1).wr PW_STATE_REQ 1).lower PW_STATE_BUSY
  let d := d.lower TC_STATUS_XTAL_MODE
  let d := (d.wr GC_STRAP_BOOT_SRC env.bootSrc.val).flag GC_STRAP_CASCADE_MASTER env.cascadeMaster
  let d := readSlots (d.raiseIf (!d.idGood) FD_STATUS_ID_BAD)
  let d := if cold then rebuildCrash (loadTrims d) else d
  let d := flashRead (dirRead 2) (flashRead (dirRead 1) (recoveryFrames (tamperDue (enterHoldover d))))
  let dirs := parseDirs env.dirA env.dirB
  let d := (d.wr GC_BOOT_STAGE 2).modBoot fun b => { b with dirA := dirs.1, dirB := dirs.2, jtagClosed := d.secureFuses }
  bootFrom d.boot.lastSource d

/-- Are the rails that a release waits for in regulation (R66)? -/
def Dev.railsOk (d : Dev) : Bool :=
  d.on PW_RAIL_VCORE_OK && d.on PW_RAIL_VANA_OK && d.on PW_RAIL_VDDR_OK && d.on PW_RAIL_VIO_OK

/-- A reset's hold ends (R66): of RESET_N when the ball rises, of BROWN once the rails and the power-fail source allow it, of the
others 10 µs after the cause. -/
def resetRelease (env : BootEnv) (d : Dev) : Dev :=
  match d.power.hold with
  | none => d
  | some c =>
    if d.power.step ≠ .up || !d.railsOk || (c = .brown && d.on PW_STATUS_PFAIL) then d
    else coreRelease env (if c = .wdog || c = .soft || c = .link then d.reach (d.power.holdAt + 10000) else d)

/-- A PLL locks (R52 steps 7 and 8, R59, R63): power-up ends, a wake from Watch completes, or what had halted resumes (R19). -/
def pllLock (pll : Pll) (env : BootEnv) (d : Dev) : Dev :=
  match pll with
  | .e =>
    let runs := d.power.step == .up && d.power.hold.isNone && d.rd PW_STATE_CUR < 3 && !d.power.waking
    if runs && d.on GC_CFG_PLLE_EN then d.raise GC_STATUS_PLLE_LOCK else d
  | .d =>
    if d.on GC_STATUS_PLLD_LOCK || !(d.power.step = .plls || d.power.waking || (d.power.step = .up && d.rd PW_STATE_CUR < 3)) then d
    else afterLock (d.raise GC_STATUS_PLLD_LOCK)
  | .a =>
    if d.on GC_STATUS_PLLA_LOCK || !(d.power.step = .plls || d.power.waking || (d.power.step = .up && d.rd PW_STATE_CUR < 3)) then d
    else
      let d := d.raise GC_STATUS_PLLA_LOCK
      if d.power.step = .up && d.power.hold.isNone && !d.power.waking then
        settleServices (flushTimeEvents (calRelock (tamperDue ((d.lower TC_STATUS_XTAL_MODE).lower FD_WDOG_STATUS_PAUSED))))
      else afterLock d
where
  /-- Both locks at power-up release the CORE reset, where only the power-on reset or a wake from Dormant waits for them. -/
  afterLock (d : Dev) : Dev :=
    if d.power.waking then wakeDone d
    else if d.power.step ≠ .plls || !d.on GC_STATUS_PLLA_LOCK || !d.on GC_STATUS_PLLD_LOCK then d
    else
      let d := (d.lower TC_STATUS_XTAL_MODE).modPower fun p => { p with step := .up }
      let alone := d.power.hold.isNone || d.power.hold = some .cold || d.power.hold = some .restart
      if alone && !d.power.resetPin then coreRelease env d else d

/-! Service commands of R97. -/

/-- STATUS. -/
def statusCmd (c : SvcCmd) (d : Dev) : Dev :=
  reply c cDONE (leBytes 4 (d.rawWord 0x54) ++ leBytes 4 (d.rawWord 0x58) ++ leBytes 4 (d.rawWord 0x50)) d

/-- BOOT_REPORT: source, slot, error, 0, section type, 0, MANIFEST_ID for each image; R97 gives no layout (DESIGN CHOICE,
assumption 26). -/
def bootReport (c : SvcCmd) (d : Dev) : Dev :=
  let one (t : Tried) : List Byte :=
    leBytes 1 t.source ++ leBytes 1 t.slot ++ leBytes 1 t.err ++ [0] ++ leBytes 2 t.sect ++ [0, 0] ++ leBytes 8 t.id
  reply c cDONE ((d.boot.tried.take 12).flatMap one) d

/-- Judge a staging offset and length (R97). -/
def stagedCode (off len : Nat) : Option Nat := if len = 0 then some cEMPTY else if stagingLen < off + len then some cRANGE else none

/-- MANIFEST_BOOT (R95, R97): the runtime refuses it. Its payload is offset and length, and code 0x10 carries the failing section type
behind the boot error (DESIGN CHOICE, assumption 26). -/
def manifestBoot (c : SvcCmd) (d : Dev) : Dev :=
  if d.runtime then reply c cREFUSED [] d
  else
    let off := le32At c.payload 0
    let len := le32At c.payload 4
    match stagedCode off len with
    | some e => reply c e [] d
    | none =>
      let img := Memory.read d.mem (stagingAt + off) len
      let d := noteKeyMode img none ((d.wr GC_BOOT_STAGE 3).modBoot fun b => { b with source := 3 })
      match d.verify img none with
      | .error (e, s) => reply c 0x10 (leBytes 1 e ++ leBytes 1 s) ((noteTried (imageId img) e s d).modBoot fun b => { b with source := 0 })
      | .ok m =>
        let d := d.modSv fun s => { s with running := s.running.filter (·.via ≠ c.via), mboxOut := [] }
        let d := ((d.lower SV_MBOX_STATUS_BUSY).lower SV_MBOX_STATUS_OUT_READY).lower GC_BOOT_BARE
        ((d.wr GC_BOOT_BARE_CAUSE 0).wr GC_BOOT_STAGE 4).modBoot fun b =>
          { b with phase := .apply, manifest := some m, staged := (off, len), fetched := len }

/-- The 64 KiB step at which a slot without an entry is placed: `r` picks one of those, the directory's apart, at which 32 MiB end
inside the 32-bit offsets and outside the other slot's area (R90, R93). -/
def freePlace (r : Nat) (other : Option DirEntry) : Nat :=
  match other with
  | none => r % (0x10000 - 512) + 1
  | some e =>
    let o := e.slotOffset / 0x10000
    let past := o + (e.slotSize + 0xFFFF) / 0x10000
    let below := o - 512
    let above := 0x10000 - 512 + 1 - past
    let i := r % (below + above)
    if i < below then i + 1 else past + (i - below)

/-- SLOT_WRITE (R93): its payload is the slot at 0, the offset at 4 and the length at 8; `same` says that the flash reads back what was
programmed. A slot number above 1 is RANGE, and the image of DRAM keeps the slot size of the entry. Where the slot has no valid entry, place
and profile of the new one are not stated: free values; its size is 32 MiB (DESIGN CHOICE, assumption 26). -/
def slotWrite (same : Bool) (c : SvcCmd) (d : Dev) : Dev :=
  let slot := u8At c.payload 0 + 1
  let off := le32At c.payload 4
  let len := le32At c.payload 8
  if 2 < slot then reply c cRANGE [] d
  else if d.rd GC_BOOT_SOURCE = slot then reply c cREFUSED [] d
  else
    match stagedCode off len with
    | some e => reply c e [] d
    | none =>
      let booted := d.dirEntry (d.rd GC_BOOT_SOURCE)
      let base := match booted with
        | some e => e.sequence
        | none => max ((d.boot.dirA.map (·.sequence)).getD 0) ((d.boot.dirB.map (·.sequence)).getD 0)
      if 0xFFFFFFFF ≤ base + 1 then reply c cRANGE [] d
      else
        let r1 := d.free
        let r2 := r1.2.free
        let old := (r2.2.dirEntry slot).getD
          { slotOffset := freePlace r1.1 (d.dirEntry (3 - slot)) * 0x10000, slotSize := stagingLen, sequence := 0, profile := r2.1 % 2 ^ 24, attempts := 0, confirm := 0 }
        let img := Memory.read d.mem (stagingAt + off) len
        let d := noteKeyMode img (some old.slotSize) r2.2
        match d.verify img (some old.slotSize) with
        | .error (e, s) => reply c 0x10 (leBytes 1 e ++ leBytes 1 s) d
        | .ok m =>
          let d := flashOp 0x02 old.slotOffset m.totalLen (flashOp 0x20 old.slotOffset m.totalLen d)
          if !same then
            let r := d.free
            reply c (r.1 % 256) [] r.2
          else
            let e := { old with sequence := base + 1, attempts := 7, confirm := 0xFF }
            reply c cDONE [] (setEntry slot (some e) (flashOp 0x02 (dirAt slot) 32 (flashOp 0x20 (dirAt slot) 0x1000 d)))

/-- SLOT_CONFIRM (R92). -/
def slotConfirm (c : SvcCmd) (d : Dev) : Dev :=
  let slot := d.rd GC_BOOT_SOURCE
  match d.dirEntry slot, d.boot.manifest with
  | some e, some m =>
    if e.confirm ≠ 0xFF then reply c cREFUSED [] d
    else
      let d := flashOp 0x02 (dirAt slot + 0x19) 1 (setEntry slot (some { e with confirm := 0 }) d)
      let d := if m.advance then { d with fuses := { d.fuses with secMin := max d.fuses.secMin m.secVersion } } else d
      reply c cDONE [] d
  | _, _ => reply c cREFUSED [] d

/-- RESET: the effect of a valid GC_RESET write; KEEP_DECK is bit 0 of the payload's first byte (DESIGN CHOICE, assumption 26). -/
def resetCmd (c : SvcCmd) (d : Dev) : Dev :=
  gcReset .pilot (nw (0x5A01 + 2 * (u8At c.payload 0 % 2))) (reply c cDONE [] d)

/-- A service command that writes the flash starts with no operation noted. -/
def freshFlash (d : Dev) : Dev := d.modBoot fun b => { b with flashOps := [], flashReads := [] }

/-! The meanings of the rows of this family. -/

/-- RESET_RELEASE (R66): A reset's hold ends and the CORE reset is released; the boot ROM then starts. -/
def execResetRelease (env : BootEnv) (s : State) : Host.Outcome State Fault Refusal :=
  s.act (fun d => Machine.resetRelease env (freshFlash d))

/-- IMAGE_FETCH_DONE (R76): A Manifest image has been fetched into staging and is checked under R77; it is then applied, or the next candidate or Bare deck follows. -/
def execImageFetchDone (img : Option (List Byte)) (s : State) : Host.Outcome State Fault Refusal :=
  s.act (fun d => Machine.imageFetchDone img (freshFlash d))

/-- CONFIG_APPLY_DONE (R76): Step 6 of the boot completes (Deck, channels, queues, fabric, programs) and journal recovery starts. -/
def execConfigApplyDone (s : State) : Host.Outcome State Fault Refusal :=
  s.act (Machine.configApplyDone)

/-- BOOT_DECK_PARITY (R79): A Deck configuration parity error while tiles are loaded: the tiles are cleared, registers are reset and error 0x1C is recorded. -/
def execBootDeckParity (s : State) : Host.Outcome State Fault Refusal :=
  s.act (fun d => Machine.bootDeckParity (freshFlash d))

/-- JOURNAL_RECOVERY_DONE (R317): Journal recovery completes: DONE is set, PEN4 and PEN5 follow the roles, and Trim or the runtime follows. -/
def execJournalRecoveryDone (ecc : Option Nat) (s : State) : Host.Outcome State Fault Refusal :=
  s.act (recoveryDone ecc)

/-- NEIGHBOUR_BOOT_PORT_TIMEOUT (R94): A port gives no complete image within 200 ms, so the boot ROM moves to the next port, or to cause TRANSPORT after three rounds. -/
def execNeighbourBootPortTimeout (s : State) : Host.Outcome State Fault Refusal :=
  s.act (portTimeout)

/-- STATUS (R97): Service command 0x0001 returns GC_BOOT, GC_BOOT_ERR and GC_STRAP. -/
def execStatus (via : Via) (s : State) : Host.Outcome State Fault Refusal :=
  s.act (serve via 0x01 statusCmd)

/-- BOOT_REPORT (R97): Service command 0x0002 lists the images tried since the last CORE reset. -/
def execBootReport (via : Via) (s : State) : Host.Outcome State Fault Refusal :=
  s.act (serve via 0x02 Machine.bootReport)

/-- MANIFEST_BOOT (R97): Service command 0x0010 verifies a staged image and, on success, releases the mailbox and applies it. -/
def execManifestBoot (via : Via) (s : State) : Host.Outcome State Fault Refusal :=
  s.act (serve via 0x10 Machine.manifestBoot)

/-- SLOT_WRITE (R93): Service command 0x0011 checks, programs and verifies an image into the unbooted flash slot and writes its directory entry last. -/
def execSlotWrite (via : Via) (same : Bool) (s : State) : Host.Outcome State Fault Refusal :=
  s.act (fun d => serve via 0x11 (Machine.slotWrite same) (freshFlash d))

/-- SLOT_CONFIRM (R92): Service command 0x0012 confirms the booted flash slot and, with ADVANCE, raises the fuse minimum. -/
def execSlotConfirm (via : Via) (s : State) : Host.Outcome State Fault Refusal :=
  s.act (fun d => serve via 0x12 Machine.slotConfirm (freshFlash d))

/-- RESET (R97): Service command 0x001F has the effect of a valid GC_RESET write. -/
def execReset (via : Via) (s : State) : Host.Outcome State Fault Refusal :=
  s.act (serve via 0x1F resetCmd)

/-- BOOT_DATA (R379): The boot ROM stores a received BOOT_DATA chunk into staging. -/
def execBootData (p : Fin 4) (offset : Word) (chunk : List Byte) (s : State) : Host.Outcome State Fault Refusal :=
  s.act (Machine.bootData p.val offset.toNat chunk)

/-- BOOT_END (R379): BOOT_END completes a neighbour image, which is then checked under R77. -/
def execBootEnd (p : Fin 4) (total : Word) (s : State) : Host.Outcome State Fault Refusal :=
  s.act (Machine.bootEnd p.val total.toNat)

/-- BOOT_DENY (R379): BOOT_DENY makes the boot ROM move to its next port. -/
def execBootDeny (p : Fin 4) (s : State) : Host.Outcome State Fault Refusal :=
  s.act (Machine.bootDeny p.val)

end Sys2Proof.Machine
end

