-- ==== Sys2Proof/Machine/Views.lean ====
section
/-!
DEFINITION. What a register reads as (R28, R29): the fields that other parts of the state determine, and the value of a whole
register. Reading here changes nothing; the effects of an access are in Machine/Bus.lean.
-/

namespace Sys2Proof.Machine

/-- The table of the berth that TS_NB_SEL names (R208). -/
def Dev.shownTable (d : Dev) : NbTable :=
  let b := d.rd TS_NB_SEL_BERTH
  (d.ts.tables.find? (·.berth = b)).getD { berth := b, surveyed := false, refCode := 0, refAmp := 0, refN := 0, count := 0, entries := [] }

/-- Words A and B of a table entry (R208). -/
def NbEntry.wordA (e : NbEntry) : Nat := (packW [(31, 1, b2n e.xdev), (16, 12, e.dev), (0, 11, e.berth)]).toNat
def NbEntry.wordB (e : NbEntry) : Nat := (packW [(24, 8, e.mag), (16, 8, e.phase)]).toNat

/-- Entry `k` of a table; entries from COUNT on read 0 (R208). -/
def NbTable.entry (t : NbTable) (k : Nat) : NbEntry := if k < t.count then t.entries.getD k NbEntry.zero else NbEntry.zero

/-- Does a field of TX_STATUS read as energised, and as ramping (CHn_TX_STATUS)? -/
def FieldState.energised : FieldState → Bool
  | .rampUp | .on | .resetDown | .rampDown => true
  | .off | .supply | .resetOff => false
def FieldState.ramping : FieldState → Bool
  | .rampUp | .resetDown | .rampDown => true
  | .off | .supply | .on | .resetOff => false

/-- The fields of channel `n` that its state determines: offset in the block, second index, lowest bit. -/
def Dev.viewChan (d : Dev) (n off j lo : Nat) : Option Nat :=
  let c := d.chan n
  let x := vget c.ctx j Ctx.free
  match off, lo with
  | 0x10, 24 => some (d.decl n).maxPower
  | 0x2C, 16 => some (d.rd (CH_SEL_CFG_SELDIV (n / 4 * 4)))
  | 0x2C, 0 => some (d.rd (CH_SEL_CFG_LEAD (n / 4 * 4)))
  | 0x30, 7 => some (if d.selPending n then b2n c.field.sel.oldOn else d.rd (CH_SEL_STATUS_ON n))
  | 0x30, 0 => some (if d.selPending n then c.field.sel.oldCoil else d.rd (CH_SEL_STATUS_COIL n))
  | 0x30, 6 => some (b2n (d.applied && d.frameDue (n / 4) d.nextBoundary))
  | 0x34, 31 => some (b2n c.field.st.energised)
  | 0x34, 30 => some (b2n c.field.st.ramping)
  | 0x38, 30 => some (b2n (d.untraced n))
  | 0x10C, 30 => some (b2n (d.untraced n))
  | 0x110, 30 => some (b2n (d.untraced n))
  | 0x304, 8 => some (((upTo 8).filter fun k => (vget c.ctx k Ctx.free).st == 0).length)
  | 0x340, 29 => some x.st
  | 0x340, 26 => some x.proto
  | 0x340, 22 => some x.cid
  | 0x340, 14 => some x.gen
  | 0x340, 8 => some x.coil
  | 0x340, 7 => some x.block
  | 0x340, 6 => some (b2n x.twin)
  | 0x340, 5 => some (b2n x.sm.isSome)
  | 0x340, 4 => some (b2n x.dep)
  | 0x340, 0 => some x.fwi
  | 0x360, _ => some (wordAt (idWords x.id) 0)
  | 0x364, _ => some (wordAt (idWords x.id) 1)
  | 0x368, _ => some (wordAt (idWords x.id) 2)
  | 0x3E4, 30 => some (b2n c.job.isSome)
  | 0x3E4, 16 => some c.queue.length
  | 0x3E4, 0 => some (1024 - c.queueWords)
  | _, _ => none

/-- The fields of queue `n` that its state determines. -/
def Dev.viewQueue (d : Dev) (n off lo : Nat) : Option Nat :=
  let q := d.q n
  let th := d.rd (LQN_CFG_THRESH n)
  match off, lo with
  | 0x0C, 11 => some (b2n !q.waiting.isEmpty)
  | 0x0C, 10 => some (b2n (th != 0 && th ≤ q.level))
  | 0x0C, 9 => some (b2n q.mark)
  | 0x0C, 8 => some (b2n q.markLost)
  | 0x0C, 7 => some (b2n q.mid)
  | 0x18, _ => some q.level
  | 0x1C, _ => some q.used
  | 0x20, 16 => some q.nextIn
  | 0x20, 0 => some q.nextOut
  | _, _ => none

/-- What the PTP stack reports (R347, R348): DISABLED while it does not run; otherwise a state that the spec leaves to IEEE 1588. -/
def Dev.ptpState (d : Dev) : Nat :=
  if d.runtime && d.on TC_PTP_CFG_PTP_EN && d.qSize 27 != 0 && !d.qHost 27 then Config.ptpState d.time % 4 else 0

/-- The service interface's state (SV_RUNTIME): 3 once the runtime has stopped for a power failure (R72). -/
def Dev.runtimeState (d : Dev) : Nat :=
  if d.rd SV_RUNTIME_STATE = 2 && d.on PW_STATUS_PFAIL then 3 else d.rd SV_RUNTIME_STATE

/-- The binding of the address that HS_BIND_SEL names (R371). -/
def Dev.shownBinding (d : Dev) : Option Binding := d.hs.bindings.find? (·.addr = d.rd HS_BIND_SEL_ADDR)

/-- The routing entry that HS_RT_SEL names, and whether it is the device's own address (R374). -/
def Dev.shownRoute (d : Dev) : Option Route := d.hs.routes.find? (·.addr = d.rd HS_RT_SEL_ADDR)
def Dev.shownLocal (d : Dev) : Bool := d.on HS_STATUS_ADDR_VALID && d.rd HS_STATUS_ADDR = d.rd HS_RT_SEL_ADDR

/-- The fields outside the channels and queues that other state determines: register address, first index, lowest bit. -/
def Dev.viewOther (d : Dev) (a i lo : Nat) : Option Nat :=
  match a, lo with
  | 0x64, 16 => some d.fuses.secMin
  | 0x108, 0 => some (d.rd GC_GPIO_OUT_OUT)
  | 0x10C, 0 => some (d.rd GC_GPIO_OUT_OUT)
  | 0x110, 0 => some d.gpioIn
  | 0x1018, 28 => some (b2n (4 * (d.rd PW_THERM_THROTTLE : Int) < toSigned 11 d.power.temp))
  | 0x1024, 16 => some d.inUse
  | 0x102C, 30 => some (b2n !(d.on CL_STATUS_TEMP_TRACED))
  | 0x1108, 0 => some d.wkEnabled.length
  | 0x3038, 31 => some (d.rd FD_WDOG_CFG_EN)
  | 0x4010, 64 => some (d.ns / 1000000000)
  | 0x4010, 32 => some (d.ns % 1000000000)
  | 0x4010, 0 => some (d.time % 2 ^ 40 / 2 ^ 24)
  | 0x4088, 30 => some d.ptpState
  | 0x803C, 31 => some (b2n (d.shownRoute.isSome || d.shownLocal))
  | 0x803C, 30 => some (b2n d.shownLocal)
  | 0x803C, 28 => some ((d.shownRoute.map (·.port)).getD 0)
  | 0x803C, 16 => some ((d.shownRoute.map (·.hops)).getD 0)
  | 0x803C, 0 => some ((d.shownRoute.map (·.cost)).getD 0)
  | 0x5110, 31 => some (b2n (vget d.gw i GwPort.reset).cmd.isSome)
  | 0x5110, 0 => some (vget d.gw i GwPort.reset).mdata.length
  | 0x8044, 0 => some ((d.shownBinding.map (·.unit)).getD 0)
  | 0x804C, 31 => some (b2n ((d.shownBinding.map (·.present)).getD false))
  | 0x804C, 0 => some ((d.shownBinding.map fun b => if b.present then 0 else min 1440 ((d.ns - b.last) / 60000000000)).getD 0)
  | 0x20018, 0 => some ((upTo 32).foldl (fun v k => v + b2n (d.qIrq k) * 2 ^ k) 0)
  | 0x2001C, 0 => some (((upTo 32).map d.qSize).sum)
  | 0x30014, 0 => some d.cy.outp.length
  | 0x3001C, 0 => some ((upTo 64).foldl (fun v k => v + b2n (vget d.cy.slots k none).isSome * 2 ^ k) 0)
  | 0x30024, 0 => some d.epoch
  | 0x30038, 0 => some (((upTo 24).map fun n => ((upTo 8).filter fun k => (vget (d.chan n).ctx k Ctx.free).sm.isSome).length).sum)
  | 0x30040, 17 => some (b2n d.fuses.mkey.damaged)
  | 0x30040, 16 => some (b2n d.fuses.mkey.valid)
  | 0x30040, 0 => some ((upTo 4).foldl (fun v k =>
      let h := vget d.fuses.hash k FuseKey.blank
      v + (b2n h.valid + 2 * b2n h.revoked + 4 * b2n h.damaged) * 2 ^ (4 * k)) 0)
  | 0x34018, 0 => some d.sv.mboxOut.length
  | 0x3401C, 28 => some d.runtimeState
  | 0x38018, 1 => some (b2n (d.ts.reqs.any (·.urgent)))
  | 0x3802C, 0 => some (d.ts.reqs.filter fun r => match r.owner with | .firmware _ => true | _ => false).length
  | 0x38034, 27 => some d.shownTable.count
  | 0x38034, 26 => some (b2n d.shownTable.surveyed)
  | 0x38034, 16 => some d.shownTable.refCode
  | 0x38034, 8 => some d.shownTable.refAmp
  | 0x38034, 0 => some d.shownTable.refN
  | 0x38040, 0 => some (d.shownTable.entry i).wordA
  | 0x38044, 0 => some (d.shownTable.entry i).wordB
  | _, _ => none

/-- What a field reads as: element `i`, `j` of the register at address `a` (of its first element), the field at bit `lo`.
WO fields read 0 (R3). -/
def Dev.fieldNow (d : Dev) (a i j : Nat) (fs : FieldSpec) : Nat :=
  let v :=
    if 0x40000 ≤ a && a < 0x70000 then d.viewChan i (a - 0x40000) j fs.lo
    else if 0x21000 ≤ a && a < 0x30000 then d.viewQueue i (a - 0x21000) fs.lo
    else d.viewOther a i fs.lo
  match fs.acc with
  | .wo => 0
  | _ => v.getD (d.rd fs.fld) % 2 ^ fs.fld.w

/-- The value of a whole register (R28). -/
def Dev.regNow (d : Dev) (h : RegHit) : Nat :=
  ((h.spec.flds h.i h.j).map fun fs => d.fieldNow h.spec.addr h.i h.j fs * 2 ^ fs.lo).sum

/-- The live word of a register that a read finds, with no effect. -/
def Dev.wordNow (d : Dev) (h : RegHit) : Nat := d.regNow h / 2 ^ (32 * h.word) % 2 ^ 32

/-- Is an address a port address (R37)? -/
def portAddress (a : Nat) : Bool :=
  let a := a / 4 * 4
  (0x21000 ≤ a && a < 0x21800 && (a % 0x40 == 0 || a % 0x40 == 4)) || a == 0x30018 || a == 0x34010 || a == 0x34014
    || (0x70100 ≤ a && a < 0x70500 && a % 0x80 == 0x0C) || a == 0x38028 || a == 0x8050 || a == 0x510C || a == 0x590C
    || (0x40000 ≤ a && a < 0x70000 && a % 0x2000 == 0x3E0)

/-- GW0 has no XIP registers, EN1 no MDIO registers, and a CE instance exists only where it is placed: holes (R397, R412). -/
def Dev.regAt (d : Dev) (a : Nat) : Option RegHit :=
  if 0x70100 ≤ a && a < 0x70500 && (d.ceChan ((a - 0x70100) / 0x80)).isNone then none else findReg a

/-- A word of the register space as the fault handler reads it, free of side effects: port addresses, holes and stopped blocks
read 0 (R440, R442). -/
def Dev.peek (d : Dev) (a : Nat) : Nat :=
  if portAddress a || !inRegisterSpace a || !d.blockRuns (blockBase a) then 0
  else match d.regAt a with
    | some h => d.wordNow h
    | none => 0

end Sys2Proof.Machine
end

