-- ==== Sys2Proof/Machine/Faults.lean ====
section
/-!
DEFINITION. Fatal errors, the handler in the boot ROM, crash slots, the DRAM dump, the watchdog, and ECC errors
(chapter 19_faults_identity.md).
-/

namespace Sys2Proof.Machine

/-! Fatal errors (R439 to R441, R452). -/

/-- FD_FATAL is loaded (R440): a new error, or a further source of the same Deck clock. -/
def loadFatal (src : Nat) (d : Dev) : Dev :=
  let d := (d.countSat FD_FATAL_COUNT 1).flag FD_FATAL_BARE (d.on GC_BOOT_BARE)
  let d := (((d.lower FD_FATAL_DRAM_OK).lower FD_FATAL_SLOT_OK).lower FD_FATAL_TIMEOUT).lower FD_FATAL_NESTED
  ((d.wr FD_FATAL_BITS (2 ^ (src - 1))).wr FD_FATAL_SOURCE src).raise FD_HIST_FATAL_SEEN

/-- The handler ends with a WDOG reset (R440, R441); FATAL is set where no reset nearer the top governs. -/
def handlerReset (d : Dev) : Dev :=
  let d := startReset .wdog false 0 d
  d.raiseIf (d.rd FD_CAUSE_CLASS = 4) FD_CAUSE_FATAL

/-- A fatal error is detected (R439 to R441): its source, the hart that trapped or 0xFF, and DETAIL. -/
def fatal (src hart : Nat) (detail : List Byte) (d : Dev) : Dev :=
  if d.fd.handling then
    if d.time = d.fd.entry then
      let lower := decide (src < d.rd FD_FATAL_SOURCE)
      let d := d.setBit FD_FATAL_BITS (src - 1)
      if lower then { d.wr FD_FATAL_SOURCE src with fd := { d.fd with hart := hart, detail := detail } } else d
    else handlerReset (d.raise FD_FATAL_NESTED)
  else
    let cause := d.rawWord 0x3010
    let d := loadFatal src d
    { d with fd :=
      { FdSt.reset with handling := true, entry := d.time, slot := d.rd FD_CRASH_NEXT, seq := (d.rd FD_CRASH_SEQ_SEQ + 1) % 2 ^ 32,
                        hart := hart, detail := detail, timeSet := d.on TC_STATUS_SET, cause := cause, pfail := d.on PW_STATUS_PFAIL } }

/-- A fatal error in the Deck clock of a PIN reset is only recorded (R452). -/
def fatalOrPin (src hart : Nat) (detail : List Byte) (d : Dev) : Dev :=
  if d.coreRuns then fatal src hart detail d
  else if d.power.hold = some .pin && d.ns = d.power.holdAt then loadFatal src d
  else d

/-- A hart takes a trap while its trap-in-progress bit is set: mcause of the two traps (R439, R444). -/
def doubleTrap (hart first second : Nat) (d : Dev) : Dev :=
  fatalOrPin 1 hart (leBytes 4 hart ++ leBytes 4 first ++ leBytes 4 second ++ leBytes 4 0) d

/-- A parity error in a loaded tile, from step 7 of R76 on (R79, R439). -/
def deckParity (tile : Nat) (d : Dev) : Dev :=
  let func := d.rd (DK_TILE_FUNC tile)
  if !d.applied || func = 0 then d
  else fatal 2 0xFF (leBytes 1 tile ++ leBytes 1 func ++ leBytes 1 (d.rd (DK_TILE_CHANNEL tile)) ++ zeros 13) d

/-- Deck clocks until the watchdog's count reaches `ms`. -/
def Dev.clocksToCount (d : Dev) (ms : Nat) : Nat := ms * 406800 - (d.rd FD_WDOG_STATUS_ELAPSED * 406800 + d.clk.wdog)

/-- The count reaches TIMEOUT - PRE (R445), once in a run of the handler. -/
def wdogPre (d : Dev) : Dev :=
  if !d.coreRuns || !d.wdogCounts || (d.fd.handling && d.bitOn FD_FATAL_BITS 2) then d
  else
    let d := d.elapse (d.clocksToCount (d.rd FD_WDOG_CFG_TIMEOUT - d.rd FD_WDOG_CFG_PRE))
    fatal 3 0xFF (leBytes 4 (d.rd FD_WDOG_STATUS_ELAPSED) ++ zeros 12) d

/-- The count reaches TIMEOUT: a WDOG reset, whatever the handler is doing (R441, R445). -/
def watchdogExpiry (d : Dev) : Dev :=
  if !d.coreRuns || !d.wdogCounts then d
  else
    let d := d.elapse (d.clocksToCount (d.rd FD_WDOG_CFG_TIMEOUT))
    if d.fd.handling then handlerReset (d.raise FD_FATAL_TIMEOUT) else startReset .wdog false 0 d

/-- Is `a` an address of the MRAM window's journal region (R308)? -/
def journalAddress (a : Nat) : Bool := mramBase + journalAt ≤ a && a < mramBase + journalAt + journalSize

/-- An uncorrectable error in a read of the journal outside recovery (R318, R439). -/
def journalEcc (a seq : Nat) (d : Dev) : Dev :=
  if !d.coreRuns || d.boot.phase = .recover || !journalAddress a then d
  else fatal 4 0xFF (leBytes 4 a ++ leBytes 4 0 ++ leBytes 8 seq) d

/-! The records (R442 to R447). -/

/-- The header but for COMMIT and CRC (R444). -/
def dumpHeader (dram : Bool) (skip : Bool) (d : Dev) : List Byte :=
  let f := d.fd
  let fatal := clearBit (clearBit (d.rawWord 0x301C) 18) 19
  let flags := b2n f.timeSet + 2 * b2n f.pfail + 4 * d.rd FD_FATAL_BARE + 8 * b2n (skip && !dram)
  leBytes 4 (if dram then 0x46564431 else 0x46564331) ++ leBytes 2 1 ++ leBytes 2 0x80 ++ leBytes 4 (if dram then 0x100000 else 0x10000)
    ++ leBytes 4 f.seq ++ leBytes 1 (d.rd FD_FATAL_SOURCE) ++ leBytes 1 f.hart ++ leBytes 2 flags ++ leBytes 4 fatal
    ++ wordsToBytes (d.stampOf f.entry) ++ wordsToBytes d.stamp ++ Memory.read d.mem (mramBase + controlAt + 0x20) 8
    ++ leBytes 8 d.unitId ++ leBytes 8 (d.rd GC_MANIFEST_ID_ID) ++ leBytes 4 f.cause ++ leBytes 4 f.ring ++ (f.detail ++ zeros 16).take 16
    ++ zeros 24

/-- Bytes cut or filled with zeros to a length. -/
def fitBytes (n : Nat) (bs : List Byte) : List Byte := (bs ++ zeros n).take n

/-- A queue table entry (R447): the spec leaves the places inside the queue's storage open, so head, tail and mark are free values. -/
def queueEntry (d : Dev) (n : Nat) : List Byte :=
  let a := 0x21000 + 0x40 * n
  let q := d.q n
  let free (k : Nat) : Nat := Config.freeValue (d.freeCtr + 3 * n + k) % 16384
  let mark := if q.mark then free 2 else 0xFFFFFFFF
  let head := (q.waiting.flatMap Entry.words).drop q.popped
  ([d.peek (a + 0x14), free 0, free 1, mark, d.peek (a + 0x18), d.peek (a + 0x1C), d.peek (a + 0x20), d.peek (a + 0x0C),
    d.peek (a + 0x10), d.peek (a + 0x24), d.peek (a + 0x28)].flatMap (leBytes 4))
    ++ leBytes 4 (wordAt head 0) ++ leBytes 4 (wordAt head 1) ++ leBytes 4 (wordAt head 2) ++ zeros 8

/-- The queue table. -/
def queueTable (d : Dev) : List Byte := (upTo 32).flatMap (queueEntry d)

/-- Words of the register space from `a` on, as the snapshot reads them (R440, R442). -/
def pages (d : Dev) (a n : Nat) : List Byte := (upTo n).flatMap fun i => leBytes 4 (d.peek (a + 4 * i))

/-- The last `n` bytes of the event log ring, ending at RING_POS (R442). -/
def ringCopy (d : Dev) (n : Nat) : List Byte :=
  (upTo n).map fun i => Memory.get d.mem (0x1FE00000 + (d.fd.ring + 0x100000 - n + i) % 0x100000)

/-- A channel record of a crash slot (R443). -/
def channelRecord (d : Dev) (n : Nat) : List Byte :=
  let b := 0x40000 + 0x2000 * n
  let offs := [0x34, 0x10, 0x30, 0x38, 0x108, 0x10C, 0x218, 0x224, 0x304, 0x3E4] ++ (upTo 8).map (0x340 + 4 * ·) ++ [4, 8]
  fitBytes 128 (offs.flatMap fun o => leBytes 4 (d.peek (b + o)))

/-- A hart record as a slot keeps it (R443): its first 1 KiB, f0 to f31 written as 0. -/
def slotHart (r : List Byte) : List Byte :=
  let r := fitBytes 0x400 r
  r.take 0x100 ++ zeros 0x100 ++ r.drop 0x200

/-- A record with its header's CRC and COMMIT (R444). -/
def sealRecord (seq : Nat) (header body : List Byte) : List Byte :=
  header ++ leBytes 4 (crc32 (header ++ body)) ++ leBytes 4 (seq ^^^ 0x5A5A5A5A) ++ body

/-- The 64 KiB of a crash slot (R443). -/
def slotImage (skip : Bool) (d : Dev) : List Byte :=
  let body := zeros 0x180 ++ (upTo 4).flatMap (fun h => slotHart (d.fd.harts.getD h [])) ++ queueTable d ++ zeros 0x600 ++ pages d 0 0x1400
    ++ (upTo 24).flatMap (channelRecord d) ++ zeros 0x400 ++ ringCopy d 0x7800 ++ zeros 0x800
  sealRecord d.fd.seq (dumpHeader false skip d) body

/-- The 1 MiB of the DRAM dump (R442). -/
def dumpImage (d : Dev) : List Byte :=
  let body := zeros 0xF80 ++ (upTo 4).flatMap (fun h => fitBytes 0x1000 (d.fd.harts.getD h [])) ++ fitBytes 0x1000 (queueTable d)
    ++ zeros 0x2000 ++ pages d 0 0x1E000 ++ ringCopy d 0x80000
  sealRecord d.fd.seq (dumpHeader true false d) body

/-- Will step 4 of R440 not run: DRAM was not initialised, or PLL_D is unlocked? -/
def Dev.dumpSkipped (d : Dev) : Bool := !d.power.dram || !d.on GC_STATUS_PLLD_LOCK

/-- Step 3 of R440 (R443): the handler commits the crash slot. `harts` and `ring` are what it found of the harts and of the event
log ring's position. -/
def crashSlotWritten (harts : List (List Byte)) (ring : Nat) (d : Dev) : Dev :=
  if !d.fd.handling || !d.coreRuns || d.on FD_FATAL_SLOT_OK then d
  else
    let d := handlerBegins d
    let d := { d with fd := { d.fd with harts := harts, ring := ring % 0x100000 } }
    let bs := slotImage d.dumpSkipped d
    let d := mramWrite (crashAt + 0x10000 * d.fd.slot) bs { d with freeCtr := d.freeCtr + 96 }
    (((d.raise FD_FATAL_SLOT_OK).raise FD_CRASH_LAST_VALID).wr FD_CRASH_LAST d.fd.slot).wr FD_CRASH_SEQ_SEQ d.fd.seq

/-- Steps 4 and 5 of R440 (R442): the DRAM dump is committed, unless it is skipped, and the handler ends. -/
def dramDumpWritten (d : Dev) : Dev :=
  if !d.fd.handling || !d.coreRuns || !d.on FD_FATAL_SLOT_OK then d
  else if d.dumpSkipped then handlerReset d
  else
    let d := { d with mem := Memory.write d.mem 0x1FF00000 (dumpImage d), freeCtr := d.freeCtr + 96 }
    handlerReset (d.raise FD_FATAL_DRAM_OK)

/-- The handler has not ended within 50 ms (R440, R441). -/
def handlerTimeout (d : Dev) : Dev :=
  if !d.fd.handling then d
  else handlerReset ((d.reach (d.fd.entry / 2 ^ 40 + 50000000)).raise FD_FATAL_TIMEOUT)

/-! The watchdog's registers (R445, R453). -/

/-- A write of FD_WDOG_KICK. -/
def wdogKick (p : Path) (w : Word) (d : Dev) : Dev :=
  if bits w.toNat 15 0 = 0x4B1C then { d.wr FD_WDOG_STATUS_ELAPSED 0 with clk := { d.clk with wdog := 0 } } else d.errRange p 0x3034

/-- A write of FD_WDOG_CFG: EN starts the count. -/
def wdogCfgWrite (p : Path) (w : Word) (d : Dev) : Dev :=
  let v := w.toNat
  let pre := bits v 27 16
  let out := bits v 15 0
  let range := pre = 0 || out < 10 || out ≤ pre
  let locked := d.on FD_WDOG_CFG_EN && (pre ≠ d.rd FD_WDOG_CFG_PRE || out ≠ d.rd FD_WDOG_CFG_TIMEOUT)
  if range || locked then d.accessError 0x3000 p true 0x3030 ⟨range, locked, false⟩
  else
    let d := (d.wr FD_WDOG_CFG_PRE pre).wr FD_WDOG_CFG_TIMEOUT out
    if bit v 31 && !d.on FD_WDOG_CFG_EN then { (d.raise FD_WDOG_CFG_EN).wr FD_WDOG_STATUS_ELAPSED 0 with clk := { d.clk with wdog := 0 } } else d

/-! ECC (R439). -/

/-- A read of DRAM or MRAM meets an error that is not fatal. An uncorrectable one gives a Pilot load an access fault. -/
def eccError (a : Nat) (corrected pilot : Bool) (d : Dev) : Dev :=
  let dram := decide (0x10000000 ≤ a ∧ a < 0x20000000)
  let mram := decide (0x20000000 ≤ a ∧ a < 0x25000000)
  if !d.coreRuns || !(dram || mram) then d
  else if corrected then (d.raise FD_STATUS_CE_SEEN).countSat FD_ECC_STATS_CORR 1
  else if journalAddress a && d.boot.phase ≠ .recover then d
  else
    let first := !d.on FD_STATUS_MRAM_UE_SEEN && !d.on FD_STATUS_DRAM_UE_SEEN
    let d := if first then d.wr FD_ECC_ADDR_ADDR a else d
    let d := d.raise (if dram then FD_STATUS_DRAM_UE_SEEN else FD_STATUS_MRAM_UE_SEEN)
    let d := d.countSat FD_ECC_STATS_UNCORR 1
    if pilot then { d with pilotFault := some (false, a) } else d

/-! The meanings of the rows of this family. -/

/-- DOUBLE_TRAP (R439): A hart takes a machine-mode trap while its trap-in-progress bit is set, a fatal error. -/
def execDoubleTrap (hart : Fin 4) (first second : Word) (s : State) : Host.Outcome State Fault Refusal :=
  s.act (Machine.doubleTrap hart.val first.toNat second.toNat)

/-- DECK_PARITY (R439): A Deck configuration parity error after boot step 7, a fatal error. -/
def execDeckParity (tile : Fin 64) (s : State) : Host.Outcome State Fault Refusal :=
  s.act (Machine.deckParity tile.val)

/-- WDOG_PRE (R445): The watchdog count reaches TIMEOUT − PRE and raises a fatal error. -/
def execWdogPre (s : State) : Host.Outcome State Fault Refusal :=
  s.act (Machine.wdogPre)

/-- JOURNAL_ECC (R439): An uncorrectable MRAM ECC error reading the journal outside recovery, a fatal error. -/
def execJournalEcc (a : Word) (seq : BitVec 64) (s : State) : Host.Outcome State Fault Refusal :=
  s.act (Machine.journalEcc a.toNat seq.toNat)

/-- CRASH_SLOT_WRITTEN (R443): The fault handler commits the crash slot. -/
def execCrashSlotWritten (harts : List (List Byte)) (ring : Nat) (s : State) : Host.Outcome State Fault Refusal :=
  s.act (Machine.crashSlotWritten harts ring)

/-- DRAM_DUMP_WRITTEN (R442): The fault handler commits the DRAM dump and ends with a WDOG reset. -/
def execDramDumpWritten (s : State) : Host.Outcome State Fault Refusal :=
  s.act (Machine.dramDumpWritten)

/-- HANDLER_TIMEOUT (R441): The handler has not finished within 50 ms; a WDOG reset follows with TIMEOUT set. -/
def execHandlerTimeout (s : State) : Host.Outcome State Fault Refusal :=
  s.act (Machine.handlerTimeout)

/-- WATCHDOG_EXPIRY (R445): The watchdog count reaches TIMEOUT and a WDOG reset follows. -/
def execWatchdogExpiry (s : State) : Host.Outcome State Fault Refusal :=
  s.act (Machine.watchdogExpiry)

/-- WDOG_KICK (R445): A write of 0x4B1C to FD_WDOG_KICK restarts the count; other values are refused. -/
def execWdogKick (p : Path) (w : Word) (s : State) : Host.Outcome State Fault Refusal :=
  s.act (onPort 0x3000 p (Machine.wdogKick p w))

/-- WDOG_ENABLE (R445): A write of FD_WDOG_CFG.EN = 1 starts the watchdog. -/
def execWdogEnable (p : Path) (w : Word) (s : State) : Host.Outcome State Fault Refusal :=
  s.act (onPort 0x3000 p (wdogCfgWrite p (w ||| 0x80000000#32)))

/-- ECC_ERROR (R439): A non-fatal uncorrectable or corrected ECC error is recorded and interrupt source 45 is raised. -/
def execEccError (a : Word) (corrected pilot : Bool) (s : State) : Host.Outcome State Fault Refusal :=
  s.act (Machine.eccError a.toNat corrected pilot)

end Sys2Proof.Machine
end

