-- ==== Sys2Proof/Machine/Master.lean ====
section
/-!
DEFINITION. The Gangway as master: roles, master commands and their frames, execute in place and its prefetch buffer (R399, R410 to
R416, R418, R419).
-/

namespace Sys2Proof.Machine

/-- Gangway port `n`. -/
def Dev.gwp (d : Dev) (n : Nat) : GwPort := vget d.gw n GwPort.reset

/-- Change a Gangway port. -/
def Dev.modGw (d : Dev) (n : Nat) (f : GwPort → GwPort) : Dev := { d with gw := vmod d.gw n f }

/-- The base of a Gangway block (R27). -/
def gwBase (n : Nat) : Nat := 0x5000 + n % 2 * 0x800

/-- The access path of a Gangway port. -/
def gwPath (n : Nat) : Path := if n = 0 then .gw0 else .gw1

/-- A master frame goes out (R410). -/
def sendMaster (n : Nat) (f : MasterFrame) (d : Dev) : Dev := (d.count (GW_FRAMES_MASTER n) 1).modGw n fun g => { g with frame := some f }

/-- The exit frame, where CONT = 1 (R414). -/
def exitFrame (d : Dev) : Dev :=
  if !d.on GW1_XIP_CFG_CONT then d
  else
    let f : MasterFrame := { cs := d.rd GW1_XIP_CFG_CS, op := none, addr := zeros (if d.on GW1_XIP_CFG_A4 then 4 else 3), mode := some 0xFF,
                             dummy := 0, read := false, bits := 0, words := [] }
    (sendMaster 1 f d).modGw 1 fun g => { g with cont := false }

/-- Is a chip select the XIP chip select of the port (R414, R415)? -/
def Dev.xipSelect (d : Dev) (n cs : Nat) : Bool := n == 1 && d.on GW1_XIP_CFG_EN && cs == d.rd GW1_XIP_CFG_CS

/-- The waiting command's frame starts, behind the frame in progress: on the XIP chip select after the exit frame, and the buffer is
emptied (R411, R414, R415, R418). -/
def beginCommand (n : Nat) (d : Dev) : Dev :=
  let g := d.gwp n
  match g.cmd, g.started || !g.fill.isEmpty with
  | some f, false =>
    let d := if d.xipSelect n f.cs then (exitFrame d).modGw 1 fun g => { g with lines := [] } else d
    (sendMaster n f d).modGw n fun g => { g with started := true, mdata := [] }
  | _, _ => d

/-! Execute in place (R412 to R415). -/

/-- Does the XIP window answer (R39, R412)? -/
def Dev.xipOpen (d : Dev) : Bool := d.blockRuns 0x5800 && d.on (GW_CFG_ROLE 1) && d.on GW1_XIP_CFG_EN

/-- A frame fetches a line, and the next one where PREFETCH = 1 and the buffer does not hold it (R412 to R414). -/
def startFill (l : Nat) (d : Dev) : Dev :=
  let g := d.gwp 1
  let cont := d.on GW1_XIP_CFG_CONT
  let two := d.on GW1_XIP_CFG_PREFETCH && !(g.lines.any (·.1 == l + 1)) && decide (l + 1 < 0x400000)
  let f : MasterFrame :=
    { cs := d.rd GW1_XIP_CFG_CS, op := if cont && g.cont then none else some (d.rd GW1_XIP_CFG_OPCODE),
      addr := beBytes (if d.on GW1_XIP_CFG_A4 then 4 else 3) (64 * l), mode := if cont then some (d.rd GW1_XIP_CFG_MODE) else none,
      dummy := d.rd GW1_XIP_CFG_DUMMY, read := true, bits := if two then 1024 else 512, words := [] }
  (sendMaster 1 f d).modGw 1 fun g => { g with fill := (l, false) :: (if two then [(l + 1, false)] else []), cont := cont }

/-- A line of the buffer becomes the most recently used. -/
def touch (l : Nat) (ls : List (Nat × List Byte)) : List (Nat × List Byte) := ls.filter (·.1 == l) ++ ls.filter (·.1 != l)

/-- A byte of the buffer. -/
def lineByte (ls : List (Nat × List Byte)) (x : Nat) : Byte := ((ls.find? (·.1 == x / 64)).map fun l => l.2.getD (x % 64) 0).getD 0

/-- Serve one read as far as it goes: hits are delivered, a miss starts a fill, or waits for one in progress, for a command, or
for HOLD to be cleared (R413, R415). Once the window is closed, what is not on its way reads as a hole (R39). -/
def xipServe : Nat → XipRead → Dev → Option XipRead × Dev
  | 0, r, d => (some r, d)
  | k + 1, r, d =>
    if r.left = 0 then (none, d.give r.path (List.replicate r.pad 0))
    else
      let n := min r.size r.left
      let g := d.gwp 1
      match [r.addr / 64, (r.addr + n - 1) / 64].find? fun l => !(g.lines.any (·.1 == l)) with
      | none =>
        let bs := (upTo n).map fun i => lineByte g.lines (r.addr + i)
        let d := (d.give r.path (bytesToWords bs)).modGw 1 fun g => { g with lines := touch (r.addr / 64) g.lines }
        let d := if r.missed then d else d.countSat GW1_XIP_STATS_HITS 1
        xipServe k { r with addr := r.addr + n, left := r.left - n, missed := false } d
      | some l =>
        if g.fill.any (·.1 == l) then (some r, d)
        else if !d.xipOpen then (none, (d.hole r.path).give r.path (List.replicate ((r.left + 3) / 4 + r.pad) 0))
        else if d.on GW1_XIP_CFG_HOLD || g.cmd.isSome || !g.fill.isEmpty then (some r, d)
        else
          let d := if r.missed then d else d.countSat GW1_XIP_STATS_MISSES 1
          (some { r with missed := true }, startFill l d)

/-- The waiting reads go on, oldest first. -/
def xipProceed (d : Dev) : Dev :=
  let rs := (d.gwp 1).waits
  (d.modGw 1 fun g => { g with waits := [] }).each rs fun r d =>
    match xipServe (r.left + 1) r d with
    | (some r', d') => d'.modGw 1 fun g => { g with waits := g.waits ++ [r'] }
    | (none, d') => d'

/-- A read of `n` bytes at flash address `x`, in accesses of `size` bytes, then `pad` words of 0 (R36, R39, R412). -/
def xipAccess (p : Path) (x size n pad : Nat) (d : Dev) : Dev :=
  if !d.xipOpen || 0x10000000 < x + n then (d.hole p).give p (List.replicate ((n + 3) / 4 + pad) 0)
  else xipProceed (d.modGw 1 fun g => { g with waits := g.waits ++ [⟨p, x, size, n, false, pad⟩] })

/-- A read of the XIP window by a path (R412): 1, 2, 4 or 8 bytes. -/
def xipLoad (p : Path) (x n : Nat) (d : Dev) : Dev :=
  let d := d.beginAccess p
  if d.pathOpen p then xipAccess p x n n 0 d else d

/-- Bytes of a line have arrived: the reads that wait for them are served; a line emptied in the same time is discarded (R413, R418). -/
def xipLineFill (data : List Byte) (d : Dev) : Dev :=
  match (d.gwp 1).fill with
  | [] => d
  | (l, gone) :: rest =>
    let d := d.modGw 1 fun g => { g with lines := ((l, fitBytes 64 data) :: g.lines.filter (·.1 != l)).take 4, fill := rest }
    let d := xipProceed d
    let d := if gone then d.modGw 1 fun g => { g with lines := g.lines.filter (·.1 != l) } else d
    xipProceed (beginCommand 1 d)

/-- The buffer is emptied, with the lines on their way (R415, R418). -/
def xipEmpty (d : Dev) : Dev := d.modGw 1 fun g => { g with lines := [], fill := g.fill.map fun x => (x.1, true) }

/-- A write of GW1_XIP_CMD (R415). -/
def xipCommand (w : Word) (d : Dev) : Dev := if bit w.toNat 0 then xipEmpty d else d

/-- A write of GW1_XIP_CFG (R414, R415, R419): while EN = 1, only EN and HOLD may change. -/
def xipCfgWrite (p : Path) (w : Word) (d : Dev) : Dev :=
  let v := w.toNat
  let en := d.on GW1_XIP_CFG_EN
  let differs (f : Fld) (x : Nat) : Bool := d.rd f != x
  if en && (differs GW1_XIP_CFG_CONT (bits v 29 29) || differs GW1_XIP_CFG_PREFETCH (bits v 28 28) || differs GW1_XIP_CFG_CS (bits v 27 26)
      || differs GW1_XIP_CFG_A4 (bits v 25 25) || differs GW1_XIP_CFG_DUMMY (bits v 20 16) || differs GW1_XIP_CFG_OPCODE (bits v 15 8)
      || differs GW1_XIP_CFG_MODE (bits v 7 0)) then
    d.errLocked p 0x5A00
  else
    let d := if en && !bit v 31 then exitFrame d else d
    let d := ((d.wr GW1_XIP_CFG_CONT (bits v 29 29)).wr GW1_XIP_CFG_PREFETCH (bits v 28 28)).wr GW1_XIP_CFG_CS (bits v 27 26)
    let d := ((d.wr GW1_XIP_CFG_A4 (bits v 25 25)).wr GW1_XIP_CFG_DUMMY (bits v 20 16)).wr GW1_XIP_CFG_OPCODE (bits v 15 8)
    let d := d.wr GW1_XIP_CFG_MODE (bits v 7 0)
    let d := (d.flag GW1_XIP_CFG_EN (bit v 31)).flag GW1_XIP_CFG_HOLD (bit v 30)
    xipProceed (if en != bit v 31 then xipEmpty d else d)

/-! Master commands (R410, R411). -/

/-- Words that `n` bits of data take, in units of `u` bits (R411). -/
def masterWords (u n : Nat) : Nat := if u = 8 || u = 16 || u = 32 then (n + 31) / 32 else n / u

/-- A write of GWn_MCMD: the checks of R411, in order. In slave role the port runs no master command. -/
def masterCommand (p : Path) (n : Nat) (w : Word) (d : Dev) : Dev :=
  let v := w.toNat
  let g := d.gwp n
  let range := decide (4 < bits v 28 26)
  let locked := g.cmd.isSome
  if range || locked then d.accessError (gwBase n) p true (gwBase n + 0x100) ⟨range, locked, false⟩
  else if !d.on (GW_CFG_ROLE n) then d
  else
    let cs := bits v 31 30
    let read := bit v 29
    let unit := d.rd (GW_CS_CFG_UNIT n cs)
    let len := d.rd (GW_MLEN_DLEN n)
    let need := masterWords unit len
    let fail (d : Dev) : Dev := (d.wr (GW_MSTATUS_CODE n) cRANGE).modGw n fun g => { g with mdata := [] }
    if len % unit ≠ 0 then fail (d.raise (GW_STATUS_FRAME_ODD n))
    else if 256 < need || (!read && g.mdata.length ≠ need) then fail d
    else
      let f : MasterFrame :=
        { cs := cs, op := if bit v 25 then none else some (bits v 7 0), addr := beBytes (bits v 28 26) (d.rd (GW_MADDR_ADDR n)), mode := none,
          dummy := if len = 0 then 0 else bits v 24 20, read := read, bits := len, words := if read then [] else g.mdata }
      beginCommand n (d.modGw n fun g => { g with cmd := some f, started := false })

/-- Words of read data, as MDATA keeps them: dense units fill the words, others stand alone, right-aligned (R411). -/
def packRead (u n : Nat) (ws : List Word) : List Word :=
  let k := masterWords u n
  let dense := u = 8 || u = 16 || u = 32
  (upTo k).map fun i =>
    let w := wordAt ws i
    nw (if dense then (if 32 * (i + 1) ≤ n then w else w % 2 ^ (n % 32)) else w % 2 ^ u)

/-- The frame of the command in progress completes: a read leaves its data in MDATA (R411). -/
def masterDone (n : Nat) (data : List Word) (d : Dev) : Dev :=
  let g := d.gwp n
  match g.cmd, g.started with
  | some f, true =>
    let unit := d.rd (GW_CS_CFG_UNIT n f.cs)
    let d := d.modGw n fun g => { g with cmd := none, started := false, mdata := if f.read then packRead unit f.bits data else g.mdata }
    let d := d.wr (GW_MSTATUS_CODE n) (if f.bits = 0 then cEMPTY else cDONE)
    if n = 1 then xipProceed d else d
  | _, _ => d

/-- A word written to GWn_MDATA; MDATA holds 256 words at most, and one beyond them is discarded. -/
def mdataWrite (n : Nat) (w : Word) (d : Dev) : Dev :=
  if 256 ≤ (d.gwp n).mdata.length then d else d.modGw n fun g => { g with mdata := g.mdata ++ [w] }

/-- A read of GWn_MDATA: the next word, or 0. -/
def mdataRead (p : Path) (n : Nat) (d : Dev) : Dev :=
  let w := (d.gwp n).mdata.headD 0
  (d.modGw n fun g => { g with mdata := g.mdata.drop 1 }).give p [w]

/-! The port's own configuration (R399, R419). -/

/-- Does a read of a path stall or wait somewhere (R295, R279, R413, R59)? -/
def Dev.readWaits (d : Dev) (p : Path) : Bool :=
  (upTo 32).any (fun i => (d.q i).stalled.any (·.path == p) || (d.q i).resumed.any (·.path == p))
    || (upTo 8).any (fun k => (d.inst k).host.any fun b => b.path == p && b.writes.isEmpty)
    || (d.gwp 1).waits.any (·.path == p) || d.dramWait.any (fun x => x.path == p && x.data.isEmpty)

/-- Does a write of a path wait (R279, R59)? -/
def Dev.writeWaits (d : Dev) (p : Path) : Bool :=
  (upTo 8).any (fun k => (d.inst k).host.any fun b => b.path == p && !b.writes.isEmpty)
    || d.dramWait.any fun x => x.path == p && !x.data.isEmpty

/-- Is a frame in progress on the port (R399)? -/
def Dev.frameBusy (d : Dev) (n : Nat) : Bool :=
  let g := d.gwp n
  g.cmd.isSome || !g.fill.isEmpty || !g.held.isEmpty || d.readWaits (gwPath n)

/-- A write of GWn_CFG (R399): ROLE is fixed in the cases of R399. -/
def gwCfgWrite (p : Path) (n : Nat) (w : Word) (d : Dev) : Dev :=
  let v := w.toNat
  let role := d.rd (GW_CFG_ROLE n)
  let range := decide (bits v 5 0 < 4 ∨ 32 < bits v 5 0)
  let locked := bits v 31 31 != role && (d.frameBusy n || (p == gwPath n && role == 0) || d.on GW1_XIP_CFG_EN)
  if range || locked then d.accessError (gwBase n) p true (gwBase n + 0x10) ⟨range, locked, false⟩
  else
    ((((d.wr (GW_CFG_ROLE n) (bits v 31 31)).wr (GW_CFG_LANES n) (bits v 27 26)).wr (GW_CFG_DDR n) (bits v 25 25)).wr
      (GW_CFG_DUMMY n) (bits v 20 16)).wr (GW_CFG_UNIT n) (bits v 5 0)

/-- Is the configuration of chip select `k` fixed (R419)? -/
def Dev.selectFixed (d : Dev) (n k : Nat) : Bool :=
  ((d.gwp n).cmd.map fun f => f.cs == k).getD false || d.xipSelect n k
    || (n == 1 && !(d.gwp 1).fill.isEmpty && k == d.rd GW1_XIP_CFG_CS)

end Sys2Proof.Machine
end

