-- ==== Sys2Proof/Machine/Bus.lean ====
section
/-!
DEFINITION. Register and memory access by address (chapter 02_register_access.md): reads with latching and read-clear, writes with
ranges, locks and staging, bursts and their regions, the memory windows, Pilot's own rules.
-/

namespace Sys2Proof.Machine

/-! Regions (R27, R36). -/

def dramBase : Nat := 0x10000000
def xipBase : Nat := 0x40000000
def Dev.inDram (a : Nat) : Bool := 0x10000000 ≤ a && a < 0x20000000
def Dev.inMram (a : Nat) : Bool := 0x20000000 ≤ a && a < 0x25000000
def Dev.inXip (a : Nat) : Bool := 0x40000000 ≤ a && a < 0x50000000

/-- The end of the region of a burst that starts at `a`: the 4 KiB page, GW0, GW1, EN0 and EN1 being half a page each (R36). -/
def regionEnd (a : Nat) : Nat := if 0x5000 ≤ a && a < 0x7000 then a / 0x800 * 0x800 + 0x800 else a / 0x1000 * 0x1000 + 0x1000

/-! Reading a register (R34, R44). -/

/-- The read-clear fields in word `k` of a register's element are cleared (R44). -/
def clearRead (h : RegHit) (d : Dev) : Dev :=
  d.each (h.spec.flds h.i h.j) fun fs d => if fs.acc = .rc && fs.lo / 32 = h.word then d.wr fs.fld 0 else d

/-- A software read of one word of a register (R32, R34, R44): the word, and what the read changes. A value of more than one word
latches, those of 33 to 63 bits included, of which R34 does not speak (assumption 25). -/
def readReg (p : Path) (a : Nat) (h : RegHit) (d : Dev) : Word × Dev :=
  let live := nw (d.wordNow h)
  let base := a - 4 * h.word
  let mine (l : Latch) : Bool := l.path == p && l.addr == base
  if h.spec.words = 1 then (live, clearRead h d)
  else if h.word = 0 then
    let others := (upTo (h.spec.words - 1)).map fun k => nw (d.wordNow { h with word := k + 1 })
    let l : Latch := ⟨p, base, others, (upTo (h.spec.words - 1)).map (· + 1)⟩
    (live, { clearRead h d with latch := d.latch.filter (!mine ·) ++ [l] })
  else
    match d.latch.find? mine with
    | none => (live, clearRead h d)
    | some l =>
      let l' := { l with unread := l.unread.filter (· != h.word) }
      let rest := d.latch.filter (!mine ·)
      (l.words.getD (h.word - 1) 0, { d with latch := if l'.unread.isEmpty then rest else rest ++ [l'] })

/-! Memory windows (R31, R41, R59, R73, R96). -/

/-- A memory access runs: bytes are written where there are any, else `count` bytes and `pad` words of 0 are delivered. -/
def memRun (x : DramWait) (d : Dev) : Dev :=
  if x.data.isEmpty then d.give x.path (bytesToWords (Memory.read d.mem x.addr x.count) ++ List.replicate x.pad 0)
  else { d with mem := Memory.write d.mem x.addr x.data }

/-- An access to DRAM, which waits while PLL_D is unlocked (R59). -/
def dramAccess (x : DramWait) (d : Dev) : Dev :=
  if d.on GC_STATUS_PLLD_LOCK && d.dramWait.isEmpty then memRun x d else { d with dramWait := d.dramWait ++ [x] }

/-- The DRAM accesses that wait run, once PLL_D has locked (R59). -/
def serveDram (d : Dev) : Dev :=
  if d.on GC_STATUS_PLLD_LOCK then { d with dramWait := [] }.each d.dramWait memRun else d

/-- A write to the MRAM window: discarded under the fence (R73); in Bare deck discarded with HOLE (R96). -/
def mramStore (p : Path) (a : Nat) (bs : List Byte) (d : Dev) : Dev :=
  if d.on GC_BOOT_BARE then d.hole p else mramWrite (a - mramBase) bs d

/-! Writing a register (R6, R35, R45). -/

/-- Can software write the field (R3, R118)? -/
def FieldSpec.writable (fs : FieldSpec) (i : Nat) : Bool :=
  match fs.acc with
  | .rw | .wo | .w1s => true
  | .mirror => i % 4 == 0
  | .ro | .w1c | .rc => false

/-- Channel `n`'s field is not OFF. -/
def Dev.fieldOn (d : Dev) (n : Nat) : Bool := (d.chan n).field.st != .off

/-- Is a register fixed in the present state: R127, R156, R179, R205, R233, R234, R350, R386, R398, R419, R438, R463? -/
def Dev.regFixed (d : Dev) (a i j : Nat) : Bool :=
  match a with
  | 0x40014 | 0x40018 | 0x4001C | 0x40020 | 0x40024 | 0x40028 | 0x4003C => d.fieldOn i
  | 0x4002C => i % 4 == 0 && (d.selBusy (i / 4) || (upTo 4).any fun k => d.fieldOn (i + k))
  | 0x40100 => d.rd (CH_RX_STATUS_STATE i) != 0
  | 0x40200 | 0x40204 | 0x40208 | 0x4020C | 0x40210 | 0x40214 => d.rd (CH_FT_STATUS_SEQ i) != 0
  | 0x40300 => d.rd (CH_INV_STATUS_WALK i) != 0
  | 0x1100 | 0x1104 | 0x1108 | 0x110C | 0x1200 | 0x1600 => d.rd PW_STATE_CUR == 3 || d.on PW_STATE_BUSY
  | 0x38014 => d.ts.grants.any (·.released.isNone)
  | 0x4100 | 0x4104 | 0x4108 | 0x410C | 0x4110 => d.on (TC_PULSE_STAT_ACTIVE i)
  | 0x8010 => d.rd HS_STATUS_DISC == 1 || d.rd HS_STATUS_DISC == 2
  | 0x6010 | 0x6018 | 0x6020 | 0x6040 => d.on (EN_CFG_RX_EN i)
  | 0x6080 | 0x6084 => if j < 4 then d.on (EN_CFG_RX_EN i) else d.on (EN_CFG_TX_EN i)
  | 0x2024 | 0x2028 => d.on CL_STATUS_RUNNING
  | 0x5040 | 0x5044 => d.selectFixed i j
  | _ => false

/-- The rules on a register's value beside its fields' own ranges: R70, R124, R233, R389. -/
def Dev.valueBad (d : Dev) (a v : Nat) : Bool :=
  match a with
  | 0x1014 => !bit v 18 && !bit v 17
  | 0x1104 => bits v 12 0 * 10 ≤ bits v 31 16
  | 0x1200 => !d.berthExists (bits v 26 16)
  | 0x4003C => bits v 23 12 ≤ bits v 11 0
  | 0x6080 => v % 32 != 0 || !Dev.inDram v
  | _ => false

/-- A register takes a value: RW fields take theirs, written ones clear W1C flags, the others keep (R3). -/
def putReg (h : RegHit) (v : Nat) (d : Dev) : Dev :=
  d.each (h.spec.flds h.i h.j) fun fs d =>
    let x := bits v (fs.lo + fs.fld.w - 1) fs.lo
    match fs.acc with
    | .rw => d.wr fs.fld x
    | .mirror => if h.i % 4 = 0 then d.wr fs.fld x else d
    | .w1c => d.wr fs.fld (d.rd fs.fld - (d.rd fs.fld &&& x))
    | .ro | .wo | .w1s | .rc => d

/-- What follows from a new value at once: the power-fail source (R70), PLL_E and the SGMII links (R59, R388), the neighbour tables'
selection has none. -/
def afterWrite (a : Nat) (d : Dev) : Dev :=
  match a with
  | 0x1014 => settlePfail d
  | 0x44 => if d.on GC_CFG_PLLE_EN then d else enCheck (d.lower GC_STATUS_PLLE_LOCK)
  | 0x6010 => enCheck d
  | _ => d

/-- A register's whole value is written: refused whole with RANGE, LOCKED or both, or applied (R6, R45, R46). -/
def writeValue (p : Path) (a : Nat) (h : RegHit) (v : Nat) (d : Dev) : Dev :=
  let fs := h.spec.flds h.i h.j
  let out (f : FieldSpec) : Bool := f.writable h.i && !f.rng.holds (bits v (f.lo + f.fld.w - 1) f.lo)
  let range := fs.any out || d.valueBad h.spec.addr v
  let locked := d.regFixed h.spec.addr h.i h.j
  if range || locked then d.accessError (blockBase a) p true a ⟨range, locked, false⟩ else afterWrite h.spec.addr (putReg h v d)

/-- A word is written to a register without a rule of its own (R35, R45): words of a wide writable value are staged, and its most
significant word commits them. -/
def writeReg (p : Path) (a : Nat) (h : RegHit) (w : Word) (d : Dev) : Dev :=
  let n := h.spec.words
  if n = 1 || !(h.spec.flds h.i h.j).any (·.writable h.i) then
    if n = 1 then writeValue p a h w.toNat d else d
  else if h.word + 1 < n then d.stageWord p a w
  else
    let base := a - 4 * h.word
    let v := (upTo (n - 1)).foldl (fun v k => v + 2 ^ (32 * k) * d.staged p (base + 4 * k) (d.wordNow { h with word := k })) (2 ^ (32 * (n - 1)) * w.toNat)
    writeValue p a h v (d.unstage p)

/-! Registers whose write does more (their chapters). -/

/-- A write of LQn_CMD (R298). -/
def queueCommand (p : Path) (i : Nat) (w : Word) (d : Dev) : Dev :=
  match w.toNat % 8 with
  | 1 => dropRestCmd p i d
  | 2 => flushCmd p i d
  | 3 => markCmd p i d
  | 4 => rewindCmd p i d
  | 5 => clearMarkCmd p i d
  | _ => d.errRange p (0x21008 + 0x40 * i)

/-- A write of TC_CMD (R339, R340, R342). -/
def tideCommand (p : Path) (w : Word) (d : Dev) : Dev :=
  match w.toNat % 16 with
  | 1 => tcStep d
  | 2 => tcAcceptStep d
  | 3 => tcHold d
  | _ => d.errRange p 0x4030

/-- A write of HS_CMD (R370, R380, R360): the port of RETRAIN is 0 to 3. -/
def hawserCommand (p : Path) (w : Word) (d : Dev) : Dev :=
  let v := w.toNat
  match bits v 31 28 with
  | 1 => rediscover d
  | 2 => resetDev (bits v 11 0) d
  | 3 => if bits v 11 0 < 4 then linkReset (retrain (bits v 11 0) (d.wr HS_CMD_STATUS_CODE cDONE)) else d.errRange p 0x8030
  | _ => d.errRange p 0x8030

/-- A write of CL_CMD (R434, R438). -/
def calCommand (p : Path) (w : Word) (d : Dev) : Dev :=
  if w.toNat % 16 = 1 then commitCmd p d
  else d.accessError 0x2000 p true 0x201C ⟨true, d.on CL_CMD_STATUS_BUSY, false⟩

/-- A write of HSp_CFG (R360, chapter 15): while the port is in UP, only RETRAIN may be written. -/
def portCfgWrite (p : Path) (a : Nat) (h : RegHit) (w : Word) (d : Dev) : Dev :=
  let v := w.toNat
  let fs := h.spec.flds h.i h.j
  let x (f : FieldSpec) : Nat := bits v (f.lo + f.fld.w - 1) f.lo
  let range := fs.any fun f => f.writable h.i && !f.rng.holds (x f)
  let locked := d.link h.i = lUP && fs.any fun f => f.acc == .rw && x f != d.rd f.fld
  if range || locked then d.accessError 0x8000 p true a ⟨range, locked, false⟩
  else
    let d := putReg h v d
    if bit v 0 then linkReset (retrain h.i d) else d

/-- A write of CHn_EQ_CFG (R144, R156): SEED_CLR alone may be written at any time. -/
def eqCfgWrite (p : Path) (a : Nat) (h : RegHit) (w : Word) (d : Dev) : Dev :=
  let v := w.toNat
  let n := h.i
  let fs := h.spec.flds n h.j
  let x (f : FieldSpec) : Nat := bits v (f.lo + f.fld.w - 1) f.lo
  let range := fs.any fun f => f.writable n && !f.rng.holds (x f)
  let same := fs.all fun f => f.acc != .rw || x f == d.rd f.fld
  let busy := d.rd (CH_RX_STATUS_STATE n) != 0 && !(same && bit v 3)
  let locked := busy || (bits v 1 0 == 2 && !d.vhbr n)
  if range || locked then d.accessError (blockBase a) p true a ⟨range, locked, false⟩
  else
    let d := putReg h v d
    if bit v 3 then seedClear n d else d

/-- A write of TS_SURVEY (R211, R234). -/
def surveyWrite (p : Path) (w : Word) (d : Dev) : Dev :=
  let v := w.toNat
  if bit v 31 then surveyGo p w d
  else if bit v 30 then surveyAbort p w d
  else if d.surveying then d.accessError 0x38000 p true 0x3801C ⟨bits v 9 0 == 0 || bits v 13 10 == 0, true, false⟩
  else surveyAbort p w d

/-- Entry `k` of a table takes a value; the entries before it stand as they are. -/
def setNbEntry (k : Nat) (e : NbEntry) (t : NbTable) : NbTable :=
  let es := t.entries ++ List.replicate (16 - t.entries.length) NbEntry.zero
  { t with entries := lmod es k fun _ => e }

/-- A write of TS_NB_HDR or of a word of TS_NB_ENTk, for the berth that TS_NB_SEL names (R208, R210, R234). -/
def tableWrite (p : Path) (a : Nat) (w : Word) (d : Dev) : Dev :=
  let v := w.toNat
  let range := (a = 0x38034 && 16 < bits v 31 27) || (a ≠ 0x38034 && (a - 0x38040) % 8 = 0 && 1535 < bits v 10 0)
  if range || d.surveying then d.accessError 0x38000 p true a ⟨range, d.surveying, false⟩
  else
    d.modTable (d.rd TS_NB_SEL_BERTH) fun t =>
      if a = 0x38034 then
        { t with count := bits v 31 27, surveyed := bit v 26, refCode := bits v 25 16, refAmp := bits v 15 8, refN := bits v 5 0 }
      else
        let k := (a - 0x38040) / 8
        let e := t.entries.getD k NbEntry.zero
        setNbEntry k (if (a - 0x38040) % 8 = 0 then { e with xdev := bit v 31, dev := bits v 27 16, berth := bits v 10 0 }
                      else { e with mag := bits v 31 24, phase := bits v 23 16 }) t

/-- A word reaches the register at word address `a`, which the read of the map has found (R27). -/
def storeWord (p : Path) (a : Nat) (h : RegHit) (w : Word) (frs : List (Fin 24 × RxFrame)) (d : Dev) : Dev :=
  match h.spec.addr with
  | 0x1010 => pwStateWrite p w d
  | 0x48 => gcReset p w d
  | 0x104 => d.wr GC_GPIO_OUT_OUT w.toNat
  | 0x108 => d.wr GC_GPIO_OUT_OUT (d.rd GC_GPIO_OUT_OUT ||| w.toNat)
  | 0x10C => d.wr GC_GPIO_OUT_OUT (d.rd GC_GPIO_OUT_OUT - (d.rd GC_GPIO_OUT_OUT &&& w.toNat))
  | 0x40010 => rampInOne h.i (txAmpWrite p h.i w (fragOf frs h.i) d)
  | 0x40104 => eqCfgWrite p a h w d
  | 0x403E0 => Machine.pcmdWord p h.i w d
  | 0x3801C => surveyWrite p w d
  | 0x38028 => Machine.grantRequest p w d
  | 0x38030 => nbSelWrite p w d
  | 0x38034 | 0x38040 | 0x38044 => tableWrite p a w d
  | 0x30010 => kcmdWrite p (bits w.toNat 31 24) (bits w.toNat 23 18) (bits w.toNat 17 12) (bits w.toNat 11 10) (bits w.toNat 7 0) d
  | 0x30018 => Machine.kdataWrite p w d
  | 0x70100 => Machine.ceEnable p h.i w d
  | 0x7010C => Machine.ceRspWrite p h.i w d
  | 0x70110 => Machine.ceLockWrite p h.i h.j w d
  | 0x21004 => queuePushCmd p h.i w d
  | 0x21008 => queueCommand p h.i w d
  | 0x21010 => queueCfgWriteCmd p h.i w d
  | 0x34010 => Machine.mboxWord p w d
  | 0x4020 => Machine.srcWrite p w d
  | 0x4030 => tideCommand p w d
  | 0x4040 => if h.word = 1 then offsetCommit p w d else d.stageWord p a w
  | 0x4060 => if h.word = 1 then masterCommit p w d else d.stageWord p a w
  | 0x4114 => pulseCtl p h.i w d
  | 0x8030 => hawserCommand p w d
  | 0x8050 => Machine.hsSendWord p w d
  | 0x8100 => portCfgWrite p a h w d
  | 0x6204 => Machine.mdioCmd p w d
  | 0x608C => Machine.ringTailWrite p h.i h.j w d
  | 0x201C => calCommand p w d
  | 0x3030 => wdogCfgWrite p w d
  | 0x3034 => Machine.wdogKick p w d
  | 0x5010 => gwCfgWrite p h.i w d
  | 0x5100 => Machine.masterCommand p h.i w d
  | 0x510C => Machine.mdataWrite h.i w d
  | 0x5A00 => Machine.xipCfgWrite p w d
  | 0x5A04 => xipCommand w d
  | _ => writeReg p a h w d

/-! One word (R31, R36, R38 to R40). -/

/-- Is an address in the window of the emulation shadow (R274)? -/
def inShadowWindow (a : Nat) : Bool := 0x78000 ≤ a && a < 0x80000

/-- A Pilot access to an unassigned address (R38); for the other paths a hole. -/
def unassigned (p : Path) (store : Bool) (a : Nat) (d : Dev) : Dev :=
  if p = .pilot then { d with pilotFault := some (store, a) } else d.hole p

/-- `n` reads at a port address (R37): each word is the port's next. -/
def portReads (p : Path) (a n : Nat) (d : Dev) : Dev :=
  match d.regAt a with
  | none => (d.hole p).give p (List.replicate n 0)
  | some h =>
    match h.spec.addr with
    | 0x21000 =>
      let d := popBurst p h.i n d
      if p = .pilot then runtimeTakes h.i (d.taken h.i).length d else d
    | 0x30018 => d.each (upTo n) fun _ => Machine.kdataRead p
    | 0x34014 => d.each (upTo n) fun _ => Machine.mboxRead p
    | 0x510C => d.each (upTo n) fun _ => Machine.mdataRead p h.i
    | _ => d.give p (List.replicate n 0)

/-- A read of the word at register-space address `a`. -/
def loadWord (p : Path) (a : Nat) (d : Dev) : Dev :=
  let a := a / 4 * 4
  if !d.blockRuns (blockBase a) then (d.hole p).give p [0]
  else if portAddress a then portReads p a 1 d
  else if inShadowWindow a then shadowBurst p (a - 0x78000) [] 1 d
  else
    match d.regAt a with
    | none => (d.hole p).give p [0]
    | some h =>
      let r := readReg p a h d
      r.2.give p [r.1]

/-- A write of a word at register-space address `a`; `narrow` marks a store of Pilot below 32 bits, which is discarded (R31). -/
def storeAddr (p : Path) (a : Nat) (w : Word) (narrow : Bool) (frs : List (Fin 24 × RxFrame)) (d : Dev) : Dev :=
  let a := a / 4 * 4
  if !d.blockRuns (blockBase a) then d.hole p
  else if narrow then (if inShadowWindow a || (d.regAt a).isSome then d else d.hole p).errWidth p a
  else if inShadowWindow a then shadowBurst p (a - 0x78000) [w] 0 d
  else
    match d.regAt a with
    | none => d.hole p
    | some h => storeWord p a h w frs d

/-! Bursts (R36, R37). -/

/-- A memory window's read of `n` bytes at `a`, with `pad` words of 0 behind them. -/
def memLoad (p : Path) (a n pad : Nat) (d : Dev) : Dev :=
  if !d.coreRuns then (d.hole p).give p (List.replicate ((n + 3) / 4 + pad) 0)
  else if Dev.inDram a then dramAccess ⟨p, a, [], n, pad⟩ d
  else if Dev.inMram a then memRun ⟨p, a, [], n, pad⟩ d
  else xipAccess p (a - xipBase) (min n 4) n pad d

/-- A memory window's write at `a` (R39, R73, R96). -/
def memStore (p : Path) (a : Nat) (bs : List Byte) (d : Dev) : Dev :=
  if bs.isEmpty then d
  else if !d.coreRuns then d.hole p
  else if Dev.inDram a then dramAccess ⟨p, a, bs, 0, 0⟩ d
  else if Dev.inMram a then mramStore p a bs d
  else d.hole p

/-- Is `a` in a memory window (R27)? -/
def inWindow (a : Nat) : Bool := Dev.inDram a || Dev.inMram a || Dev.inXip a

/-- What of a burst stands behind a read that has begun to stall at queue `i`. -/
def putBehind (i : Nat) (b : BurstRest) (d : Dev) : Dev :=
  d.modQ i fun q => { q with stalled := lmod q.stalled (q.stalled.length - 1) fun s => { s with behind := some b } }

/-- The words of an ascending burst in register space (R36): a word that stalls holds the later ones back. Until the frame ends CODE
is that of the frame before (R407). -/
def burstReads (p : Path) (code pad : Nat) : Nat → Nat → Dev → Dev
  | 0, _, d => d.give p (List.replicate pad 0)
  | k + 1, a, d =>
    let e := loadWord p a (frameCode p code d)
    let i := (a - 0x21000) / 0x40
    if (d.q i).stalled.length < (e.q i).stalled.length then putBehind i ⟨p, a + 4, k, pad, code⟩ e
    else burstReads p code pad k (a + 4) e

/-- Ascending bursts whose stall is over go on (R33, R36). -/
def burstsGoOn (d : Dev) : Dev :=
  d.each (upTo 32) fun i d =>
    let rs := (d.q i).resumed
    if rs.isEmpty then d
    else (d.modQ i fun q => { q with resumed := [] }).each rs fun b => burstReads b.path b.code b.pad b.words b.addr

/-- A read burst of `n` words at `a` by a path other than Pilot (R36 to R40); one of no words does nothing (R48). -/
def readBurst (p : Path) (a n : Nat) (d : Dev) : Dev :=
  if n = 0 then d
  else if inWindow a then
    let k := min (4 * n) (regionEnd a - a)
    let d := if k < 4 * n then d.pageEnd p else d
    memLoad p a k (n - (k + 3) / 4) d
  else if !inRegisterSpace a then
    let room := (regionEnd a - a / 4 * 4) / 4
    ((if room < n then d.pageEnd p else d).hole p).give p (List.replicate n 0)
  else if portAddress a then
    if d.blockRuns (blockBase a) then portReads p (a / 4 * 4) n d else (d.hole p).give p (List.replicate n 0)
  else
    let a := a / 4 * 4
    let k := min n ((regionEnd a - a) / 4)
    let d := if k < n then d.pageEnd p else d
    if inShadowWindow a && d.blockRuns 0x70000 then shadowBurst p (a - 0x78000) [] n d
    else
      burstReads p (d.rd (GW_STATUS_CODE (if p = .gw1 then 1 else 0))) (n - k) k a d

/-- Pilot's loads (R31, R38): each word is judged on its own address; an access fault ends the access. -/
def pilotLoads (a : Nat) : Nat → Dev → Dev
  | 0, d => d
  | n + 1, d =>
    if inWindow a then pilotLoads (a + 4) n (memLoad .pilot a 4 0 d)
    else if !inRegisterSpace a then unassigned .pilot false a d
    else pilotLoads (a + 4) n (loadWord .pilot a d)

/-- The words that the last access delivered, cut to the `n` bytes that were addressed (R31). -/
def narrowed (a n old : Nat) (d : Dev) : Dev :=
  { d with out := d.out.take old ++ (d.out.drop old).map fun w => nw (w.toNat / 2 ^ (8 * (a % 4)) % 2 ^ (8 * n)) }

/-- A load of 1 or 2 bytes by Pilot (R31, R38): in register space a whole word is read, with all that its read does. -/
def narrowLoad (a n : Nat) (d : Dev) : Dev :=
  if inWindow a then memLoad .pilot a n 0 d
  else if !inRegisterSpace a then unassigned .pilot false a d
  else narrowed a n d.out.length (loadWord .pilot a d)

/-- A read of `n` words at `a` by a path. -/
def busRead (p : Path) (a n : Nat) (d : Dev) : Dev :=
  let d := (burstsGoOn d).beginAccess p
  if !d.pathOpen p then d else if p = .pilot then pilotLoads a n d else readBurst p a n d

/-- A read of a byte or a halfword, which Pilot alone can make; the other paths read the whole word (R31). -/
def busLoad (p : Path) (a n : Nat) (d : Dev) : Dev :=
  if p = .pilot then
    let d := burstsGoOn d
    if d.pathOpen .pilot then narrowLoad a n d else d
  else busRead p a 1 d

/-- A write burst at `a` by a path other than Pilot (R36 to R40). -/
def writeBurst (p : Path) (a : Nat) (bs : List Byte) (frs : List (Fin 24 × RxFrame)) (d : Dev) : Dev :=
  if inWindow a then
    let k := min bs.length (regionEnd a - a)
    memStore p a (bs.take k) (if k < bs.length then d.pageEnd p else d)
  else if !inRegisterSpace a then
    (if (regionEnd a - a / 4 * 4) / 4 < (bytesToWords bs).length then d.pageEnd p else d).hole p
  else
    let ws := bytesToWords bs
    let a := a / 4 * 4
    if portAddress a then d.each ws fun w => storeAddr p a w false frs
    else
      let k := min ws.length ((regionEnd a - a) / 4)
      let d := if k < ws.length then d.pageEnd p else d
      if inShadowWindow a && d.blockRuns 0x70000 then shadowBurst p (a - 0x78000) (ws.take k) 0 d
      else d.each ((ws.take k).zipIdx) fun (x : Word × Nat) => storeAddr p (a + 4 * x.2) x.1 false frs

/-- Pilot's stores of whole words (R31, R38). -/
def pilotStores (frs : List (Fin 24 × RxFrame)) : Nat → List Word → Dev → Dev
  | _, [], d => d
  | a, w :: ws, d =>
    if inWindow a then pilotStores frs (a + 4) ws (memStore .pilot a (leBytes 4 w.toNat) d)
    else if !inRegisterSpace a then unassigned .pilot true a d
    else pilotStores frs (a + 4) ws (storeAddr .pilot a w false frs d)

/-- A write of bytes at `a` by a path; fewer than 4 bytes are a narrow store of Pilot (R31), other paths write whole words of
register space. -/
def busWrite (p : Path) (a : Nat) (bs : List Byte) (frs : List (Fin 24 × RxFrame)) (d : Dev) : Dev :=
  let d := (burstsGoOn d).beginAccess p
  if !d.pathOpen p || bs.isEmpty then d
  else if p = .pilot then
    if bs.length < 4 then
      if inWindow a then memStore p a bs d
      else if inRegisterSpace a then storeAddr p a 0 true frs d
      else unassigned p true a d
    else pilotStores frs a (bytesToWords bs) d
  else writeBurst p a bs frs d

/-! Access faults of Pilot (R38, R328). -/

/-- Does the PMP of a customer program's core deny an access (R328)? -/
def customerDenied (store : Bool) (a : Nat) : Bool :=
  if inRegisterSpace a then
    (0x34000 ≤ a && a < 0x38000) || (0x30000 ≤ a && a < 0x34000) || (0x3000 ≤ a && a < 0x4000) || a / 4 * 4 == 0x48
  else if Dev.inDram a then a < 0x14000000 || 0x1FF00000 ≤ a || (store && 0x1FE00000 ≤ a)
  else if Dev.inMram a || Dev.inXip a then store
  else true

/-- A load or store of Pilot that takes an access fault has no effect but the fault (R38). -/
def pilotAccess (store customer : Bool) (a : Nat) (d : Dev) : Dev :=
  if !d.pathOpen .pilot then d
  else if (inRegisterSpace a || inWindow a) && !(customer && customerDenied store a) then d
  else { d with pilotFault := some (store, a) }

/-! The meanings of the rows of this family. -/

/-- MASTER_COMMAND (R411): A write of GWn_MCMD checks and starts a master frame. -/
def execMasterCommand (p : Path) (n : Fin 2) (w : Word) (s : State) : Host.Outcome State Fault Refusal :=
  s.act (onPort (gwBase n.val) p (Machine.masterCommand p n.val w))

/-- MASTER_COMMAND_DONE (R410): A master frame completes and its read data is left in MDATA. -/
def execMasterCommandDone (n : Fin 2) (data : List Word) (s : State) : Host.Outcome State Fault Refusal :=
  s.act (masterDone n.val data)

/-- MDATA_WRITE (R411): A word written to GWn_MDATA is appended to the master data. -/
def execMdataWrite (p : Path) (n : Fin 2) (w : Word) (s : State) : Host.Outcome State Fault Refusal :=
  s.act (onPort (gwBase n.val) p (Machine.mdataWrite n.val w))

/-- MDATA_READ (R411): A read of GWn_MDATA returns the next word of master read data. -/
def execMdataRead (p : Path) (n : Fin 2) (s : State) : Host.Outcome State Fault Refusal :=
  s.act (onPort (gwBase n.val) p (Machine.mdataRead p n.val))

/-- XIP_READ (R412): A read of the XIP window is served from the prefetch buffer, or starts a line fill. -/
def execXipRead (p : Path) (x : Fin 268435456) (size : Fin 4) (s : State) : Host.Outcome State Fault Refusal :=
  s.act (xipLoad p x.val (2 ^ size.val))

/-- XIP_LINE_FILL (R413): A prefetch line fill completes and the waiting read is served. -/
def execXipLineFill (data : List Byte) (s : State) : Host.Outcome State Fault Refusal :=
  s.act (Machine.xipLineFill data)

/-- INVAL (R415): A write of GW1_XIP_CMD.INVAL empties the prefetch buffer. -/
def execInval (p : Path) (s : State) : Host.Outcome State Fault Refusal :=
  s.act (onPort 0x5800 p xipEmpty)

/-- XIP_CFG_WRITE (R414): A write of GW1_XIP_CFG EN or HOLD sends the exit frame or releases waiting misses. -/
def execXipCfgWrite (p : Path) (w : Word) (s : State) : Host.Outcome State Fault Refusal :=
  s.act (onPort 0x5800 p (Machine.xipCfgWrite p w))

/-- PILOT_ACCESS_FAULT (R38): A Pilot load or store to an unassigned address takes an access-fault exception with no effect. -/
def execPilotAccessFault (a : Word) (store customer : Bool) (s : State) : Host.Outcome State Fault Refusal :=
  s.act (pilotAccess store customer a.toNat)

/-- LATCHED_READ (R34): A read of the least significant word of a 64-bit or wider value snapshots its other words for that path. -/
def execLatchedRead (p : Path) (a : Word) (s : State) : Host.Outcome State Fault Refusal :=
  s.act (busRead p a.toNat 1)

/-- STAGED_WRITE (R35): A write of the most significant word of a wide writable value commits all staged words at once, or is refused. -/
def execStagedWrite (p : Path) (a w : Word) (s : State) : Host.Outcome State Fault Refusal :=
  s.act (busWrite p a.toNat (leBytes 4 w.toNat) [])

/-- RC_READ (R44): A read of an RC register returns its value and clears it. -/
def execRcRead (p : Path) (a : Word) (size : AccessSize) (s : State) : Host.Outcome State Fault Refusal :=
  s.act (fun d => match size with
    | .byte => busLoad p a.toNat 1 d
    | .half => busLoad p a.toNat 2 d
    | .words n => busRead p a.toNat n d)

/-- REGISTER_WRITE (R45): A write to a register without a row of its own is applied, or refused whole with RANGE, LOCKED or WIDTH. -/
def execRegisterWrite (p : Path) (a : Word) (data : List Byte) (frags : List (Fin 24 × RxFrame)) (s : State) : Host.Outcome State Fault Refusal :=
  s.act (busWrite p a.toNat data frags)

end Sys2Proof.Machine
end

