-- ==== Sys2Proof/Machine/Gangway.lean ====
section
/-!
DEFINITION. The Gangway as slave (R399 to R409, R418), and the remote register accesses of a Hawser peer (R378).
-/

namespace Sys2Proof.Machine

/-! Slave frames (R402 to R409). -/

/-- The words that a register shows at an address, with no effect. -/
def Dev.shown (d : Dev) (a : Nat) : Word := ((d.regAt a).map fun h => nw (d.wordNow h)).getD 0

/-- The reads of a path that wait anywhere end with their frame (R406, R418): nothing more is delivered. -/
def dropReads (p : Path) (d : Dev) : Dev :=
  let d := d.each (upTo 32) fun i d =>
    if (d.q i).stalled.any (·.path == p) || (d.q i).resumed.any (·.path == p) then
      d.modQ i fun q => { q with stalled := q.stalled.filter (·.path != p), resumed := q.resumed.filter (·.path != p) }
    else d
  let d := d.each (upTo 8) fun k d => d.modCe k fun c => { c with host := c.host.filter fun b => b.path != p || !b.writes.isEmpty }
  { d.modGw 1 fun g => { g with waits := g.waits.filter (·.path != p) } with
    dramWait := d.dramWait.filter fun x => x.path != p || !x.data.isEmpty }

/-- A frame with one of the opcodes of R403 is counted. -/
def frameBegins (n : Nat) (d : Dev) : Dev := d.count (GW_FRAMES_SLAVE n) 1

/-- A read frame of `bits` data bits (R406, R407): whole words are delivered; a word cut short sets FRAME_ODD. Until the frame ends CODE
is that of the frame before, and a frame that has delivered no word is EMPTY. -/
def readFrame (n bits : Nat) (waited : Bool) (f : Nat → Dev → Dev) (d : Dev) : Dev :=
  let b := frameBegins n d
  let e := f (bits / 32) b
  let e := if e.out.length = b.out.length then e.wr (GW_STATUS_CODE n) cEMPTY else e
  (e.raiseIf (bits % 32 != 0) (GW_STATUS_FRAME_ODD n)).raiseIf (waited || e.readWaits (gwPath n)) (GW_STATUS_WAITED n)

/-- The words of a frame whose data the port itself holds: those it has, then words of 0. -/
def ownWords (n : Nat) (ws : List Word) (k : Nat) (d : Dev) : Dev := d.give (gwPath n) ((ws ++ List.replicate k 0).take k)

/-- A POP or POP_ITEM of queue `q` (R403): other queue numbers read 0 and set HOLE; a frame of no words does nothing (R48). -/
def popFrame (n q : Nat) (f : Nat → Dev → Dev) (k : Nat) (d : Dev) : Dev :=
  if k = 0 then d
  else if q < 32 && d.blockRuns 0x20000 then f k d else ownWords n [] k (d.hole (gwPath n))

/-- A WRITE frame is judged as CS0_N rises, and applied (R409). -/
def writeFrame (n a bits : Nat) (data : List Byte) (frs : List (Fin 24 × RxFrame)) (d : Dev) : Dev :=
  let granule := if Dev.inDram a || Dev.inMram a then 8 else 32
  let unit := d.rd (GW_CFG_UNIT n)
  let d := frameBegins n d
  if bits = 0 then d.wr (GW_STATUS_CODE n) cEMPTY
  else if bits % unit ≠ 0 || bits % granule ≠ 0 then (d.wr (GW_STATUS_CODE n) cRANGE).raise (GW_STATUS_FRAME_ODD n)
  else if 8192 < bits then (d.wr (GW_STATUS_CODE n) cRANGE).raise (GW_STATUS_LONG n)
  else busWrite (gwPath n) a (fitBytes (bits / 8) data) frs (d.wr (GW_STATUS_CODE n) cDONE)

/-- A slave frame is carried out (R403, R404). -/
def runFrame (n : Nat) (f : SlaveFrame) (d : Dev) : Dev :=
  let p := gwPath n
  match f with
  | .write a bits data frs => writeFrame n a.toNat bits data frs d
  | .read a bits waited => readFrame n bits waited (busRead p a.toNat) d
  | .pop q bits waited => readFrame n bits waited (popFrame n q.toNat (popBurst p q.toNat)) d
  | .popItem q bits waited => readFrame n bits waited (popFrame n q.toNat (popItemBurst p q.toNat)) d
  | .status bits => readFrame n bits false (ownWords n [d.shown (gwBase n + 0x14)]) d
  | .id bits => readFrame n bits false (ownWords n ([0, 0x10, 0x14, 0x18, 0x1C].map d.shown)) d
  | .modeReset => ((d.wr (GW_CFG_LANES n) 0).wr (GW_CFG_DDR n) 0).raise (GW_STATUS_MODE_RESET_SEEN n)
  | .badOp => (d.raise (GW_STATUS_BAD_OP n)).wr (GW_STATUS_CODE n) 0x10

/-- The frames that wait on a port go on, one after the other, until a write of the port waits again (R405, R418). -/
def runHeld (n : Nat) : List SlaveFrame → Dev → Dev
  | [], d => d.modGw n fun g => { g with held := [] }
  | f :: fs, d =>
    if d.writeWaits (gwPath n) then d.modGw n fun g => { g with held := f :: fs }
    else runHeld n fs (runFrame n f (dropReads (gwPath n) d))

/-- The frames that wait on the ports, if any, go on. -/
def settleFrames (d : Dev) : Dev :=
  d.each [0, 1] fun n d => if (d.gwp n).held.isEmpty || !d.pathOpen (gwPath n) then d else runHeld n (d.gwp n).held d

/-- Does a frame on chip select 0 of GW0 wake the device from Watch, or come while a wake is under way (R63)? -/
def Dev.frameWakes (d : Dev) (n : Nat) : Bool :=
  n == 0 && d.power.step == .up && d.rd PW_STATE_CUR == 3 && !d.on (GW_CFG_ROLE 0) && (d.wakeEnabled .gw0cs || d.power.waking)

/-- A slave frame on port `n` (R402 to R409): it ends the reads of the frame before, and waits while an earlier write of the port
is still being applied. In Watch it is held, by GW0_WAIT, until the wake that its chip select starts is over (R63). -/
def slaveFrame (n : Nat) (f : SlaveFrame) (d : Dev) : Dev :=
  if d.frameWakes n then
    fireWake .gw0cs ((d.modGw n fun g => { g with held := g.held ++ [f] }).raise (GW_STATUS_WAITED n))
  else if !d.pathOpen (gwPath n) then d
  else
    let d := settleFrames d
    if d.writeWaits (gwPath n) then (d.modGw n fun g => { g with held := g.held ++ [f] }).raise (GW_STATUS_WAITED n)
    else runFrame n f (dropReads (gwPath n) d)

/-! Remote register access (R378). -/

/-- The reply that is owed leaves, once its access no longer waits and a port has room. -/
def regFinish (d : Dev) : Dev :=
  match d.hs.reply with
  | none => d
  | some (p, bs, code) =>
    if d.readWaits .hawser || d.writeWaits .hawser then d
    else
      let x := parsePacket bs
      let flags := b2n (bit d.hawserStatus 1) + 2 * b2n (bit d.hawserStatus 0)
      let body := leBytes 1 code ++ leBytes 1 flags ++ [0, 0] ++ (if x.typ = 1 then wordsToBytes d.hs.got else [])
      let s := d.hs.pseq
      let r : Packet := { cls := 3, dst := x.src, qsel := x.qsel, loc := x.loc, src := if d.on HS_STATUS_ADDR_VALID then d.rd HS_STATUS_ADDR else 0,
                          ttl := if x.loc then 1 else d.rd HS_CFG_TTL, typ := 0x80 + x.typ, pseq := s, body := body }
      let res := if x.loc then (cDONE, sendOn p r.bytes d) else sendFrom r d
      if res.1 = cBUSY then d
      else
        let d := if res.1 = cDONE then res.2 else res.2.countSat HS_STATS_NO_ROUTE 1
        d.modHs fun h => { h with reply := none, got := [], pseq := (s + 1) % 65536 }

/-- The router performs the oldest request, where it is of this TYPE (R378). -/
def regPacket (typ : Nat) (frs : List (Fin 24 × RxFrame)) (d : Dev) : Dev :=
  let d := regFinish d
  match d.hs.regs, d.applied && d.hs.reply.isNone with
  | (p, bs) :: rest, true =>
    let x := parsePacket bs
    if x.typ ≠ typ then d
    else
      let a := le32At x.body 0
      let n := u8At x.body 4
      let code :=
        if !d.on (if typ = 1 then HS_CFG_REMOTE_RD else HS_CFG_REMOTE_WR) then cREFUSED
        else if n = 0 then cEMPTY
        else if 64 < n || (typ = 2 && (x.body.drop 8).length ≠ 4 * n) then cRANGE
        else cDONE
      let d := (d.modHs fun h => { h with regs := rest, reply := some (p, bs, code), got := [] }).beginAccess .hawser
      if code ≠ cDONE then regFinish d
      else regFinish (if typ = 1 then busRead .hawser a n d else busWrite .hawser a (x.body.drop 8) frs d)
  | _, _ => d

/-- What waits for DRAM goes on where PLL_D is locked: accesses, received Ethernet frames, the end of a neighbour boot (R59). -/
def resumeDram (d : Dev) : Dev := bootResume (placeWaiting (serveDram d))

/-! The meanings of the rows of this family. -/

/-- RAIL_IN_REGULATION (R52): A switched rail reaches regulation, and the next enable or the PLL start of the power-up order follows. -/
def execRailInRegulation (r : Rail) (s : State) : Host.Outcome State Fault Refusal :=
  s.act (fun d => settleFrames (resumeDram (Machine.railInRegulation r d)))

/-- PLL_LOCK (R59): PLL_A, PLL_D or PLL_E achieves lock; at power-up, both PLL_A and PLL_D locked releases the CORE reset. -/
def execPllLock (pll : Pll) (env : BootEnv) (s : State) : Host.Outcome State Fault Refusal :=
  s.act (fun d => settleFrames (resumeDram (Machine.pllLock pll env (freshFlash d))))

/-- PHONE_FIELD_LOST (R265): The carrier stays 3 dB below threshold for 256 rcc, and the instance goes to POWER_OFF. -/
def execPhoneFieldLost (k : Fin 8) (level : Nat) (s : State) : Host.Outcome State Fault Refusal :=
  s.act (fun d => settleFrames (phoneLost k.val level d))

/-- EMULATION_GRANT_END (R266): At a slot boundary, an emulation grant ends after 10 ms without field or on preemption, and CE_EVENT PREEMPTED is queued where it applies. -/
def execEmulationGrantEnd (k : Fin 8) (s : State) : Host.Outcome State Fault Refusal :=
  s.act (fun d => settleFrames (emuGrantEnd k.val d))

/-- FIELD_TRANSACTION_END (R278): At TE of the status frame, staged writes commit to the shadow, CSEQ increments and the waiting host bursts proceed. -/
def execFieldTransactionEnd (k : Fin 8) (whole : Bool) (s : State) : Host.Outcome State Fault Refusal :=
  s.act (fun d => settleFrames (fieldTxnEnd k.val whole d))

/-- CE_ENABLE (R275): A write of CE_INSTk_CFG.EN checks the image header and coil and enables or disables the instance. -/
def execCeEnable (p : Path) (k : Fin 8) (w : Word) (s : State) : Host.Outcome State Fault Refusal :=
  s.act (fun d => settleFrames (onPort 0x70000 p (Machine.ceEnable p k.val w) d))

/-- HOST_WAIT_EXPIRY (R279): A waiting shadow burst exceeds HOST_WAIT, has no effect and records BUSY in CE_ACC. -/
def execHostWaitExpiry (k : Fin 8) (s : State) : Host.Outcome State Fault Refusal :=
  s.act (fun d => settleFrames (Machine.hostWaitExpiry k.val d))

/-- REG_READ_PACKET (R378): A REG READ packet performs remote register reads and replies. -/
def execRegReadPacket (s : State) : Host.Outcome State Fault Refusal :=
  s.act (regPacket 1 [])

/-- REG_WRITE_PACKET (R378): A REG WRITE packet performs remote register writes and replies. -/
def execRegWritePacket (frags : List (Fin 24 × RxFrame)) (s : State) : Host.Outcome State Fault Refusal :=
  s.act (regPacket 2 frags)

/-- GW_WRITE (R409): A slave WRITE frame is staged and applied at CS0_N rise as one burst, if whole. -/
def execGwWrite (n : Fin 2) (a : Word) (bits : Nat) (data : List Byte) (frags : List (Fin 24 × RxFrame)) (s : State) : Host.Outcome State Fault Refusal :=
  s.act (slaveFrame n.val (.write a bits data frags))

/-- GW_READ (R403): A slave READ frame returns words from the address under the burst rules. -/
def execGwRead (n : Fin 2) (a : Word) (bits : Nat) (waited : Bool) (s : State) : Host.Outcome State Fault Refusal :=
  s.act (slaveFrame n.val (.read a bits waited))

/-- GW_POP (R403): A slave POP frame pops words from a queue. -/
def execGwPop (n : Fin 2) (q : Word) (bits : Nat) (waited : Bool) (s : State) : Host.Outcome State Fault Refusal :=
  s.act (slaveFrame n.val (.pop q bits waited))

/-- GW_POP_ITEM (R408): A slave POP_ITEM frame pops the words of one item. -/
def execGwPopItem (n : Fin 2) (q : Word) (bits : Nat) (waited : Bool) (s : State) : Host.Outcome State Fault Refusal :=
  s.act (slaveFrame n.val (.popItem q bits waited))

/-- GW_STATUS (R403): A slave STATUS frame returns GWn_STATUS. -/
def execGwStatus (n : Fin 2) (bits : Nat) (s : State) : Host.Outcome State Fault Refusal :=
  s.act (slaveFrame n.val (.status bits))

/-- GW_ID (R403): A slave ID frame returns GC_BLKID and GC_ID0–GC_ID3. -/
def execGwId (n : Fin 2) (bits : Nat) (s : State) : Host.Outcome State Fault Refusal :=
  s.act (slaveFrame n.val (.id bits))

/-- MODE_RESET (R404): A frame whose first instruction byte is 0xFF returns the slave to 1-lane SDR. -/
def execModeReset (n : Fin 2) (s : State) : Host.Outcome State Fault Refusal :=
  s.act (slaveFrame n.val .modeReset)

/-- BAD_OP (R403): An unlisted opcode keeps IO high-impedance and sets BAD_OP. -/
def execBadOp (n : Fin 2) (s : State) : Host.Outcome State Fault Refusal :=
  s.act (slaveFrame n.val .badOp)

/-- LINK_FRAME_SEND (R362): At each codeword boundary, a Hawser port sends its next link frame: a waiting control-lane DATA frame first, then a message-lane frame, a BEACON, DREQ or DRESP in a reserved slot, or IDLE, with the current ACK and NAK. -/
def execLinkFrameSend (p : Fin 4) (s : State) : Host.Outcome State Fault Refusal :=
  s.act (fun d => linkReset (Machine.linkFrameSend p.val (sendSurveys (regFinish d))))

end Sys2Proof.Machine
end

