-- ==== Sys2Proof/Machine/Dispatch.lean ====
section
/-!
DEFINITION. One arm per command, each a direct call of its meaning.
-/

namespace Sys2Proof.Machine

def exec (i : Instr) (s : State) : Host.Outcome State Fault Refusal :=
  match i with
  | .vaonPowerOn => Sys2Proof.Machine.execVaonPowerOn s
  | .crystalStable => Sys2Proof.Machine.execCrystalStable s
  | .railInRegulation r => Sys2Proof.Machine.execRailInRegulation r s
  | .railFail what => Sys2Proof.Machine.execRailFail what s
  | .xtalFail => Sys2Proof.Machine.execXtalFail s
  | .enableDropStep => Sys2Proof.Machine.execEnableDropStep s
  | .powerUpRetry => Sys2Proof.Machine.execPowerUpRetry s
  | .pllLock pll env => Sys2Proof.Machine.execPllLock pll env s
  | .pllaUnlock frags => Sys2Proof.Machine.execPllaUnlock frags s
  | .plldUnlock => Sys2Proof.Machine.execPlldUnlock s
  | .plleUnlock => Sys2Proof.Machine.execPlleUnlock s
  | .tempSample t => Sys2Proof.Machine.execTempSample t s
  | .thermalShutdown frags => Sys2Proof.Machine.execThermalShutdown frags s
  | .slotBoundary => Sys2Proof.Machine.execSlotBoundary s
  | .vrfGroupLevelChange g mv => Sys2Proof.Machine.execVrfGroupLevelChange g mv s
  | .regulatorCurrentLimit n => Sys2Proof.Machine.execRegulatorCurrentLimit n s
  | .regulatorDropout n => Sys2Proof.Machine.execRegulatorDropout n s
  | .trimRequest p => Sys2Proof.Machine.execTrimRequest p s
  | .trimEntry => Sys2Proof.Machine.execTrimEntry s
  | .watchRequest p => Sys2Proof.Machine.execWatchRequest p s
  | .watchEntryContinue => Sys2Proof.Machine.execWatchEntryContinue s
  | .dormantRequest p => Sys2Proof.Machine.execDormantRequest p s
  | .dormantEntryContinue => Sys2Proof.Machine.execDormantEntryContinue s
  | .wakeEvent source => Sys2Proof.Machine.execWakeEvent source s
  | .coldReset => Sys2Proof.Machine.execColdReset s
  | .brownReset r => Sys2Proof.Machine.execBrownReset r s
  | .pinReset => Sys2Proof.Machine.execPinReset s
  | .gcReset p w => Sys2Proof.Machine.execGcReset p w s
  | .softReset => Sys2Proof.Machine.execSoftReset s
  | .resetRelease env => Sys2Proof.Machine.execResetRelease env s
  | .pfailAssert input => Sys2Proof.Machine.execPfailAssert input s
  | .pfailRelease input => Sys2Proof.Machine.execPfailRelease input s
  | .mramFence => Sys2Proof.Machine.execMramFence s
  | .imageFetchDone img => Sys2Proof.Machine.execImageFetchDone img s
  | .configApplyDone => Sys2Proof.Machine.execConfigApplyDone s
  | .bootDeckParity => Sys2Proof.Machine.execBootDeckParity s
  | .journalRecoveryDone ecc => Sys2Proof.Machine.execJournalRecoveryDone ecc s
  | .neighbourBootPortTimeout => Sys2Proof.Machine.execNeighbourBootPortTimeout s
  | .status via => Sys2Proof.Machine.execStatus via s
  | .bootReport via => Sys2Proof.Machine.execBootReport via s
  | .manifestBoot via => Sys2Proof.Machine.execManifestBoot via s
  | .slotWrite via same => Sys2Proof.Machine.execSlotWrite via same s
  | .slotConfirm via => Sys2Proof.Machine.execSlotConfirm via s
  | .reset via => Sys2Proof.Machine.execReset via s
  | .txAmpWrite p n w soFar => Sys2Proof.Machine.execTxAmpWrite p n w soFar s
  | .supplySettled n => Sys2Proof.Machine.execSupplySettled n s
  | .rampUpDone n => Sys2Proof.Machine.execRampUpDone n s
  | .loadMeasurementDone n mag phase level carrierPhase => Sys2Proof.Machine.execLoadMeasurementDone n mag phase level carrierPhase s
  | .guardExpiry n => Sys2Proof.Machine.execGuardExpiry n s
  | .fieldEndPoint n soFar => Sys2Proof.Machine.execFieldEndPoint n soFar s
  | .rampDownDone n => Sys2Proof.Machine.execRampDownDone n s
  | .rfResetOffExpiry n => Sys2Proof.Machine.execRfResetOffExpiry n s
  | .grantRelease n soFar => Sys2Proof.Machine.execGrantRelease n soFar s
  | .grantEnd n => Sys2Proof.Machine.execGrantEnd n s
  | .selectFrame g => Sys2Proof.Machine.execSelectFrame g s
  | .correlation n level floor oct at_ look soFar => Sys2Proof.Machine.execCorrelation n level floor oct at_ look soFar s
  | .rxEarlyWindowEnd n => Sys2Proof.Machine.execRxEarlyWindowEnd n s
  | .replayCatchUp n => Sys2Proof.Machine.execReplayCatchUp n s
  | .interferenceEnd n b => Sys2Proof.Machine.execInterferenceEnd n b s
  | .adcOverload n => Sys2Proof.Machine.execAdcOverload n s
  | .endOfFrame n fr => Sys2Proof.Machine.execEndOfFrame n fr s
  | .verdictDelivered n => Sys2Proof.Machine.execVerdictDelivered n s
  | .listenerMeasurement n l amp phase below => Sys2Proof.Machine.execListenerMeasurement n l amp phase below s
  | .foreignCarrierMeasurement n level => Sys2Proof.Machine.execForeignCarrierMeasurement n level s
  | .seedClr p n => Sys2Proof.Machine.execSeedClr p n s
  | .placementPoint n ready fits => Sys2Proof.Machine.execPlacementPoint n ready fits s
  | .frameReady n lateOct fits => Sys2Proof.Machine.execFrameReady n lateOct fits s
  | .commandEnd n => Sys2Proof.Machine.execCommandEnd n s
  | .replyDeadline n => Sys2Proof.Machine.execReplyDeadline n s
  | .sfgtExpiry n k => Sys2Proof.Machine.execSfgtExpiry n k s
  | .pcmdWord p n w => Sys2Proof.Machine.execPcmdWord p n w s
  | .inventory n => Sys2Proof.Machine.execInventory n s
  | .activate n => Sys2Proof.Machine.execActivate n s
  | .exchange n => Sys2Proof.Machine.execExchange n s
  | .halt n => Sys2Proof.Machine.execHalt n s
  | .release n => Sys2Proof.Machine.execRelease n s
  | .migrate n => Sys2Proof.Machine.execMigrate n s
  | .rfReset n => Sys2Proof.Machine.execRfReset n s
  | .cancel n => Sys2Proof.Machine.execCancel n s
  | .auth n => Sys2Proof.Machine.execAuth n s
  | .smExchange n => Sys2Proof.Machine.execSmExchange n s
  | .smEnd n => Sys2Proof.Machine.execSmEnd n s
  | .surveyGo p w => Sys2Proof.Machine.execSurveyGo p w s
  | .surveyAbort p w => Sys2Proof.Machine.execSurveyAbort p w s
  | .surveyDrainDone => Sys2Proof.Machine.execSurveyDrainDone s
  | .surveyStartSlot peerCoils => Sys2Proof.Machine.execSurveyStartSlot peerCoils s
  | .surveyMeasurement n level phase floor => Sys2Proof.Machine.execSurveyMeasurement n level phase floor s
  | .surveyCommit => Sys2Proof.Machine.execSurveyCommit s
  | .surveyProposal peer startMs code avg sources => Sys2Proof.Machine.execSurveyProposal peer startMs code avg sources s
  | .surveyBlockResult level phase refused => Sys2Proof.Machine.execSurveyBlockResult level phase refused s
  | .surveyResults values => Sys2Proof.Machine.execSurveyResults values s
  | .surveyPeerTimeout => Sys2Proof.Machine.execSurveyPeerTimeout s
  | .nbCommit p w => Sys2Proof.Machine.execNbCommit p w s
  | .nbClear p w => Sys2Proof.Machine.execNbClear p w s
  | .grantRequest p w => Sys2Proof.Machine.execGrantRequest p w s
  | .confirmationPoint => Sys2Proof.Machine.execConfirmationPoint s
  | .requestUrgent => Sys2Proof.Machine.execRequestUrgent s
  | .attribution n => Sys2Proof.Machine.execAttribution n s
  | .sniffBurst => Sys2Proof.Machine.execSniffBurst s
  | .sniff e x => Sys2Proof.Machine.execSniff e x s
  | .kdataWrite p w => Sys2Proof.Machine.execKdataWrite p w s
  | .kdataRead p => Sys2Proof.Machine.execKdataRead p s
  | .generate p slot len attr => Sys2Proof.Machine.execGenerate p slot len attr s
  | .importPlain p slot len attr => Sys2Proof.Machine.execImportPlain p slot len attr s
  | .importWrapped p slot kek len attr => Sys2Proof.Machine.execImportWrapped p slot kek len attr s
  | .exportWrapped p slot kek => Sys2Proof.Machine.execExportWrapped p slot kek s
  | .erase p slot => Sys2Proof.Machine.execErase p slot s
  | .info p slot => Sys2Proof.Machine.execInfo p slot s
  | .saveBlob p slot => Sys2Proof.Machine.execSaveBlob p slot s
  | .loadBlob p slot len attr => Sys2Proof.Machine.execLoadBlob p slot len attr s
  | .ecdhStart p => Sys2Proof.Machine.execEcdhStart p s
  | .ecdhImport p slot len attr => Sys2Proof.Machine.execEcdhImport p slot len attr s
  | .burnHash p => Sys2Proof.Machine.execBurnHash p s
  | .revokeHash p => Sys2Proof.Machine.execRevokeHash p s
  | .burnMkey p => Sys2Proof.Machine.execBurnMkey p s
  | .fuseBurnDone ok => Sys2Proof.Machine.execFuseBurnDone ok s
  | .keyBlobSave => Sys2Proof.Machine.execKeyBlobSave s
  | .tguardToggle => Sys2Proof.Machine.execTguardToggle s
  | .tamperSample loop level => Sys2Proof.Machine.execTamperSample loop level s
  | .tamperEvent loop => Sys2Proof.Machine.execTamperEvent loop s
  | .trngStartupDone pass => Sys2Proof.Machine.execTrngStartupDone pass s
  | .trngHealthFailure adaptive => Sys2Proof.Machine.execTrngHealthFailure adaptive s
  | .drbgReseed => Sys2Proof.Machine.execDrbgReseed s
  | .carrierLock k => Sys2Proof.Machine.execCarrierLock k s
  | .phoneFieldDetected k level => Sys2Proof.Machine.execPhoneFieldDetected k level s
  | .phoneFieldLost k level => Sys2Proof.Machine.execPhoneFieldLost k level s
  | .emulationGrantEnd k => Sys2Proof.Machine.execEmulationGrantEnd k s
  | .emuFrameReceived k bits parityOk ctr => Sys2Proof.Machine.execEmuFrameReceived k bits parityOk ctr s
  | .emuReplyStart k ready => Sys2Proof.Machine.execEmuReplyStart k ready s
  | .fieldTransactionEnd k whole => Sys2Proof.Machine.execFieldTransactionEnd k whole s
  | .emuWtxPoint k => Sys2Proof.Machine.execEmuWtxPoint k s
  | .ceRspWrite p k w => Sys2Proof.Machine.execCeRspWrite p k w s
  | .ceEnable p k w => Sys2Proof.Machine.execCeEnable p k w s
  | .ceLockWrite p k m w => Sys2Proof.Machine.execCeLockWrite p k m w s
  | .shadowHostBurst p off data n => Sys2Proof.Machine.execShadowHostBurst p off data n s
  | .hostWaitExpiry k => Sys2Proof.Machine.execHostWaitExpiry k s
  | .emuImagePersist k => Sys2Proof.Machine.execEmuImagePersist k s
  | .queuePop p q => Sys2Proof.Machine.execQueuePop p q s
  | .queueStallExpiry q => Sys2Proof.Machine.execQueueStallExpiry q s
  | .queueItemComplete q typ payload => Sys2Proof.Machine.execQueueItemComplete q typ payload s
  | .queuePush p q w => Sys2Proof.Machine.execQueuePush p q w s
  | .dropRest p q => Sys2Proof.Machine.execDropRest p q s
  | .flush p q => Sys2Proof.Machine.execFlush p q s
  | .mark p q => Sys2Proof.Machine.execMark p q s
  | .rewind p q => Sys2Proof.Machine.execRewind p q s
  | .clearMark p q => Sys2Proof.Machine.execClearMark p q s
  | .queueCfgWrite p q w => Sys2Proof.Machine.execQueueCfgWrite p q w s
  | .mboxWord p w => Sys2Proof.Machine.execMboxWord p w s
  | .mboxRead p => Sys2Proof.Machine.execMboxRead p s
  | .regLookup via => Sys2Proof.Machine.execRegLookup via s
  | .regPut via => Sys2Proof.Machine.execRegPut via s
  | .regDelete via => Sys2Proof.Machine.execRegDelete via s
  | .regQuery via => Sys2Proof.Machine.execRegQuery via s
  | .regStats via => Sys2Proof.Machine.execRegStats via s
  | .regCompact via => Sys2Proof.Machine.execRegCompact via s
  | .regScrub via => Sys2Proof.Machine.execRegScrub via s
  | .policySet via => Sys2Proof.Machine.execPolicySet via s
  | .policyGet via => Sys2Proof.Machine.execPolicyGet via s
  | .auditRead via => Sys2Proof.Machine.execAuditRead via s
  | .auditHead via => Sys2Proof.Machine.execAuditHead via s
  | .queueConsumer via => Sys2Proof.Machine.execQueueConsumer via s
  | .keyOp via => Sys2Proof.Machine.execKeyOp via s
  | .tagWrite via => Sys2Proof.Machine.execTagWrite via s
  | .programStart via => Sys2Proof.Machine.execProgramStart via s
  | .configGet via => Sys2Proof.Machine.execConfigGet via s
  | .configSet via => Sys2Proof.Machine.execConfigSet via s
  | .serviceEcall core code addr plen buf size => Sys2Proof.Machine.execServiceEcall core code addr plen buf size s
  | .journalCommit => Sys2Proof.Machine.execJournalCommit s
  | .journalApply => Sys2Proof.Machine.execJournalApply s
  | .journalWaitExpiry => Sys2Proof.Machine.execJournalWaitExpiry s
  | .coalesceTimer => Sys2Proof.Machine.execCoalesceTimer s
  | .absenceTimeout rec => Sys2Proof.Machine.execAbsenceTimeout rec s
  | .nbTableSave => Sys2Proof.Machine.execNbTableSave s
  | .offsetDelivered p w => Sys2Proof.Machine.execOffsetDelivered p w s
  | .step p => Sys2Proof.Machine.execStep p s
  | .acceptStep p => Sys2Proof.Machine.execAcceptStep p s
  | .hold p => Sys2Proof.Machine.execHold p s
  | .srcWrite p w => Sys2Proof.Machine.execSrcWrite p w s
  | .masterChange p w => Sys2Proof.Machine.execMasterChange p w s
  | .beaconHoldoverTimeout => Sys2Proof.Machine.execBeaconHoldoverTimeout s
  | .beaconSend => Sys2Proof.Machine.execBeaconSend s
  | .beacon p t1 => Sys2Proof.Machine.execBeacon p t1 s
  | .dreq p t3 => Sys2Proof.Machine.execDreq p t3 s
  | .dresp p t4 t3 => Sys2Proof.Machine.execDresp p t4 t3 s
  | .pulseArm p k w => Sys2Proof.Machine.execPulseArm p k w s
  | .pulseStop p k w => Sys2Proof.Machine.execPulseStop p k w s
  | .pulseEdge k => Sys2Proof.Machine.execPulseEdge k s
  | .pulseEnd k => Sys2Proof.Machine.execPulseEnd k s
  | .tcAlarm => Sys2Proof.Machine.execTcAlarm s
  | .captureEdge k rising => Sys2Proof.Machine.execCaptureEdge k rising s
  | .captureItem k => Sys2Proof.Machine.execCaptureItem k s
  | .linkDetect p => Sys2Proof.Machine.execLinkDetect p s
  | .linkTrainDone p => Sys2Proof.Machine.execLinkTrainDone p s
  | .linkAlignDone p => Sys2Proof.Machine.execLinkAlignDone p s
  | .trainInfo p info => Sys2Proof.Machine.execTrainInfo p info s
  | .linkTrainTimeout p => Sys2Proof.Machine.execLinkTrainTimeout p s
  | .linkDrop p => Sys2Proof.Machine.execLinkDrop p s
  | .linkRedetect p => Sys2Proof.Machine.execLinkRedetect p s
  | .lineEnergyLost p => Sys2Proof.Machine.execLineEnergyLost p s
  | .retrain path p command => Sys2Proof.Machine.execRetrain path p command s
  | .codewordReceived p frame corrected iterAvg snr => Sys2Proof.Machine.execCodewordReceived p frame corrected iterAvg snr s
  | .ackTimeout p => Sys2Proof.Machine.execAckTimeout p s
  | .packetReceived p => Sys2Proof.Machine.execPacketReceived p s
  | .helloSend => Sys2Proof.Machine.execHelloSend s
  | .hello p priority unit hops => Sys2Proof.Machine.execHello p priority unit hops s
  | .electEnd => Sys2Proof.Machine.execElectEnd s
  | .addressRequest p unit held => Sys2Proof.Machine.execAddressRequest p unit held s
  | .addressAssign p unit addr conflict rootAddr => Sys2Proof.Machine.execAddressAssign p unit addr conflict rootAddr s
  | .bind p unit addr => Sys2Proof.Machine.execBind p unit addr s
  | .bindingExpiry addr => Sys2Proof.Machine.execBindingExpiry addr s
  | .discoveryTimeout => Sys2Proof.Machine.execDiscoveryTimeout s
  | .lsa p info => Sys2Proof.Machine.execLsa p info s
  | .lsaRefresh => Sys2Proof.Machine.execLsaRefresh s
  | .lsaAgeOut unit => Sys2Proof.Machine.execLsaAgeOut unit s
  | .routingTableUpdate => Sys2Proof.Machine.execRoutingTableUpdate s
  | .hsSendWord path w => Sys2Proof.Machine.execHsSendWord path w s
  | .regReadPacket => Sys2Proof.Machine.execRegReadPacket s
  | .regWritePacket frags => Sys2Proof.Machine.execRegWritePacket frags s
  | .bootRequest p => Sys2Proof.Machine.execBootRequest p s
  | .bootData p offset chunk => Sys2Proof.Machine.execBootData p offset chunk s
  | .bootEnd p total => Sys2Proof.Machine.execBootEnd p total s
  | .bootDeny p => Sys2Proof.Machine.execBootDeny p s
  | .resetDev path target => Sys2Proof.Machine.execResetDev path target s
  | .resetOrder srcAddr srcUnit => Sys2Proof.Machine.execResetOrder srcAddr srcUnit s
  | .resetReply code => Sys2Proof.Machine.execResetReply code s
  | .resetReplyTimeout => Sys2Proof.Machine.execResetReplyTimeout s
  | .rediscover path => Sys2Proof.Machine.execRediscover path s
  | .chain p position strapped master => Sys2Proof.Machine.execChain p position strapped master s
  | .sgmiiAutoneg n link full speed => Sys2Proof.Machine.execSgmiiAutoneg n link full speed s
  | .ethFrameReceived n frame fcsOk cut sfd => Sys2Proof.Machine.execEthFrameReceived n frame fcsOk cut sfd s
  | .ringTailWrite p n r w => Sys2Proof.Machine.execRingTailWrite p n r w s
  | .ethFrameTransmitted n sfd => Sys2Proof.Machine.execEthFrameTransmitted n sfd s
  | .mdioCmd p w => Sys2Proof.Machine.execMdioCmd p w s
  | .mdioDone phy data => Sys2Proof.Machine.execMdioDone phy data s
  | .gwWrite n a bits data frags => Sys2Proof.Machine.execGwWrite n a bits data frags s
  | .gwRead n a bits waited => Sys2Proof.Machine.execGwRead n a bits waited s
  | .gwPop n q bits waited => Sys2Proof.Machine.execGwPop n q bits waited s
  | .gwPopItem n q bits waited => Sys2Proof.Machine.execGwPopItem n q bits waited s
  | .gwStatus n bits => Sys2Proof.Machine.execGwStatus n bits s
  | .gwId n bits => Sys2Proof.Machine.execGwId n bits s
  | .modeReset n => Sys2Proof.Machine.execModeReset n s
  | .badOp n => Sys2Proof.Machine.execBadOp n s
  | .masterCommand p n w => Sys2Proof.Machine.execMasterCommand p n w s
  | .masterCommandDone n data => Sys2Proof.Machine.execMasterCommandDone n data s
  | .mdataWrite p n w => Sys2Proof.Machine.execMdataWrite p n w s
  | .mdataRead p n => Sys2Proof.Machine.execMdataRead p n s
  | .xipRead p x size => Sys2Proof.Machine.execXipRead p x size s
  | .xipLineFill data => Sys2Proof.Machine.execXipLineFill data s
  | .inval p => Sys2Proof.Machine.execInval p s
  | .xipCfgWrite p w => Sys2Proof.Machine.execXipCfgWrite p w s
  | .calStepDone dev lvl ppm iref ofs slope => Sys2Proof.Machine.execCalStepDone dev lvl ppm iref ofs slope s
  | .calBlock m0 m1 m2 m3 => Sys2Proof.Machine.execCalBlock m0 m1 m2 m3 s
  | .calFinish => Sys2Proof.Machine.execCalFinish s
  | .calCountJournal => Sys2Proof.Machine.execCalCountJournal s
  | .commit p => Sys2Proof.Machine.execCommit p s
  | .commitBurnDone ok => Sys2Proof.Machine.execCommitBurnDone ok s
  | .doubleTrap hart first second => Sys2Proof.Machine.execDoubleTrap hart first second s
  | .deckParity tile => Sys2Proof.Machine.execDeckParity tile s
  | .wdogPre => Sys2Proof.Machine.execWdogPre s
  | .journalEcc a seq => Sys2Proof.Machine.execJournalEcc a seq s
  | .crashSlotWritten harts ring => Sys2Proof.Machine.execCrashSlotWritten harts ring s
  | .dramDumpWritten => Sys2Proof.Machine.execDramDumpWritten s
  | .handlerTimeout => Sys2Proof.Machine.execHandlerTimeout s
  | .watchdogExpiry => Sys2Proof.Machine.execWatchdogExpiry s
  | .wdogKick p w => Sys2Proof.Machine.execWdogKick p w s
  | .wdogEnable p w => Sys2Proof.Machine.execWdogEnable p w s
  | .eccError a corrected pilot => Sys2Proof.Machine.execEccError a corrected pilot s
  | .gpioEdge m rising => Sys2Proof.Machine.execGpioEdge m rising s
  | .pilotAccessFault a store customer => Sys2Proof.Machine.execPilotAccessFault a store customer s
  | .latchedRead p a => Sys2Proof.Machine.execLatchedRead p a s
  | .stagedWrite p a w => Sys2Proof.Machine.execStagedWrite p a w s
  | .rcRead p a size => Sys2Proof.Machine.execRcRead p a size s
  | .registerWrite p a data frags => Sys2Proof.Machine.execRegisterWrite p a data frags s
  | .enableAssertStep => Sys2Proof.Machine.execEnableAssertStep s
  | .linkFrameSend p => Sys2Proof.Machine.execLinkFrameSend p s
  | .pauseHoldEnd n => Sys2Proof.Machine.execPauseHoldEnd n s

end Sys2Proof.Machine
end

