-- ==== Sys2Proof/Safety.lean ====
section
/-!
DEFINITION. What holds of every state that a run can reach: the sparse lists of the state have one canonical form;
and the terms of statements about one command: the parts of the state, sets of register fields, what a command keeps, and that it completes.
-/

namespace Sys2Proof.Machine

/-- The canonical forms: DRAM and MRAM, the emulation shadow, and the register file. -/
structure Dev.Canonical (d : Dev) : Prop where
  mem : Memory.wf d.mem = true
  shadow : Memory.wf d.shadow = true
  regs : RegFile.wf d.regs = true

/-- The state's lists are in canonical form. -/
def State.Canonical (s : State) : Prop := s.dev.Canonical

/-- The parts of the state. -/
inductive Part
  | regs | mem | time | power | boot | chans | ts | lq | out | freeCtr | clk | cy | fuses | epoch | hawserStatus | ce | shadow
  | jtagStatus | sv | tc | stage | latch | dramWait | gw | hs | en | gpio | cl | fd | pilotFault
deriving DecidableEq, Repr

/-- Do two states of the part agree in a part? The register file is compared field by field elsewhere. -/
def Part.same (d e : Dev) : Part → Prop
  | .regs => e.regs = d.regs
  | .mem => e.mem = d.mem
  | .time => e.time = d.time
  | .power => e.power = d.power
  | .boot => e.boot = d.boot
  | .chans => e.chans = d.chans
  | .ts => e.ts = d.ts
  | .lq => e.lq = d.lq
  | .out => e.out = d.out
  | .freeCtr => e.freeCtr = d.freeCtr
  | .clk => e.clk = d.clk
  | .cy => e.cy = d.cy
  | .fuses => e.fuses = d.fuses
  | .epoch => e.epoch = d.epoch
  | .hawserStatus => e.hawserStatus = d.hawserStatus
  | .ce => e.ce = d.ce
  | .shadow => e.shadow = d.shadow
  | .jtagStatus => e.jtagStatus = d.jtagStatus
  | .sv => e.sv = d.sv
  | .tc => e.tc = d.tc
  | .stage => e.stage = d.stage
  | .latch => e.latch = d.latch
  | .dramWait => e.dramWait = d.dramWait
  | .gw => e.gw = d.gw
  | .hs => e.hs = d.hs
  | .en => e.en = d.en
  | .gpio => e.gpio = d.gpio
  | .cl => e.cl = d.cl
  | .fd => e.fd = d.fd
  | .pilotFault => e.pilotFault = d.pilotFault

/-- A set of register fields, by bit address: one field; a field of every register of an array; of a two-dimensional array; the error
registers of every block; every field. -/
inductive Span
  | one (b : Nat)
  | row (base c s lo : Nat)
  | grid (base c1 s1 c2 s2 lo : Nat)
  | errors
  | every
deriving DecidableEq, Repr

/-- The base addresses of the blocks (R27). -/
def blockBases : List Nat :=
  [0x0, 0x1000, 0x2000, 0x3000, 0x4000, 0x5000, 0x5800, 0x6000, 0x6800, 0x8000, 0x10000, 0x20000, 0x30000, 0x34000, 0x38000, 0x70000]
    ++ (List.range 24).map fun n => 0x40000 + n * 0x2000

/-- Is bit address `b` in a set of fields? -/
def Span.has (b : Nat) : Span → Prop
  | .one x => b = x
  | .row base c s lo => ∃ i, i < c ∧ b = (base + i * s) * 8 + lo
  | .grid base c1 s1 c2 s2 lo => ∃ i j, i < c1 ∧ j < c2 ∧ b = (base + i * s1 + j * s2) * 8 + lo
  | .errors => ∃ x ∈ blockBases, b ∈ [(x + 4) * 8, (x + 4) * 8 + 1, (x + 4) * 8 + 2, (x + 8) * 8, (x + 8) * 8 + 28, (x + 8) * 8 + 29]
  | .every => True

/-- Is bit address `b` in one of the sets? -/
def Rows (W : List Span) (b : Nat) : Prop := ∃ w ∈ W, w.has b

/-- `e` agrees with `d` outside the parts `S` and, inside the register file, outside the fields `W`. -/
def Dev.Keeps (S : List Part) (W : List Span) (d e : Dev) : Prop :=
  (∀ c, c ∉ S → c.same d e) ∧ ∀ b r, ¬ Rows W b → RegFile.get e.regs b r = RegFile.get d.regs b r

/-- Command `c` completes in `s`: it answers a next state, the waiting commands stand as they are, and `P` holds of the part. -/
def Completes (c : Instr) (s : State) (P : Dev → Prop) : Prop :=
  ∃ t, exec c s = .next t ∧ t.pending = s.pending ∧ P t.dev

/-- Path `p` is open, and the block at base `b` runs (R32, R38 to R40). -/
def Dev.reaches (d : Dev) (p : Path) (b : Nat) : Bool := d.pathOpen p && d.blockRuns b

/-- The part as an access of path `p` finds it: nothing delivered yet, the status of its reply clear. -/
def Dev.accessed (d : Dev) (p : Path) : Dev := ({ d with out := [] } : Dev).beginAccess p

/-- Nothing waits for PLL_D, for DRAM or for an earlier write of its port: no access, no slave frame, no received Ethernet frame, no end of a
neighbour boot (R59, R63, R409). -/
abbrev Dev.NothingWaits (d : Dev) : Prop :=
  d.dramWait = [] ∧ (∀ n : Fin 2, (d.gwp n.val).held = []) ∧ (∀ n : Fin 2, (d.enPort n.val).waiting = []) ∧ d.boot.ended = none

/-- No burst that an item has released from its stall waits to go on. -/
abbrev Dev.Quiet (d : Dev) : Prop := ∀ i : Fin 32, (d.q i.val).resumed = []

/-- The part as an access of path `p` to the address space meets it: bursts that an item has released have gone on (R33, R36); in a quiet
part this is `Dev.accessed`. -/
def Dev.met (d : Dev) (p : Path) : Dev := (burstsGoOn { d with out := [] }).beginAccess p

/-- Address `a` names a word of register `h` (no port address, outside the shadow's window) in a block that runs, over an open path. -/
def Dev.Names (d : Dev) (p : Path) (a : Nat) (h : RegHit) : Prop :=
  d.reaches p (blockBase a) = true ∧ inRegisterSpace a = true ∧ a % 4 = 0 ∧ portAddress a = false ∧ inShadowWindow a = false ∧ d.regAt a = some h

/-- Registers whose write does more than store fields: their addresses (first element). -/
def ownWrite : List Nat :=
  [0x1010, 0x48, 0x104, 0x108, 0x10C, 0x40010, 0x40104, 0x403E0, 0x3801C, 0x38028, 0x38030, 0x38034, 0x38040, 0x38044, 0x30010, 0x30018, 0x70100,
    0x7010C, 0x70110, 0x21004, 0x21008, 0x21010, 0x34010, 0x4020, 0x4030, 0x4040, 0x4060, 0x4114, 0x8030, 0x8050, 0x8100, 0x6204, 0x608C, 0x201C,
    0x3030, 0x3034, 0x5010, 0x5100, 0x510C, 0x5A00, 0x5A04]

/-- `c` is the one service command there, on path `via`, with this code and a length that the command takes, and it is served (R97, R321, R322). -/
def Dev.Offers (d : Dev) (via : Via) (code : Nat) (c : SvcCmd) : Prop :=
  d.sv.waiting = [c] ∧ d.sv.running = [] ∧ c.via = via ∧ c.code = code ∧ c.lenOk = true ∧
    (payloadLens code).1 ≤ c.payload.length ∧ c.payload.length ≤ (payloadLens code).2 ∧
    (d.runtime = true ∨ (via = .mailbox ∧ d.bareServes = true ∧ bareCode code = true))

/-- The part once it serves the one service command there. -/
def Dev.serving (c : SvcCmd) (d : Dev) : Dev := { d with out := [], sv := { d.sv with waiting := [], running := [c] } }

/-- The answer to `c` waits for every committed journal record, and nothing else changes (R315, R321). -/
def AnswersApplied (c : SvcCmd) (rc : Nat) (data : List Byte) (i : Instr) (s : State) : Prop :=
  Completes i s fun d => d = replyApplied c rc data (s.dev.serving c)

/-- `c` is answered at once, and nothing else changes (R321). -/
def Answers (c : SvcCmd) (rc : Nat) (data : List Byte) (i : Instr) (s : State) : Prop :=
  Completes i s fun d => d = reply c rc data (s.dev.serving c)

/-- Command `cmd` stands at the head of the queue of channel `n`, complete and listed, and its reader Pontoon may take it (R72, R183). -/
def Dev.Heads (d : Dev) (n op : Nat) (cmd : PCmd) (rest : List PCmd) : Prop :=
  (d.chan n).queue = cmd :: rest ∧ cmd.opcode = op ∧ cmd.valid = true ∧ (d.chan n).job = none ∧ d.mayTake = true ∧ d.reader n = true

/-- Channel `n` holds frame `f`, addressed to context `k`, as an exchange that has not been sent (R175). -/
def Dev.Posts (d : Dev) (n k : Nat) (f : AirFrame) : Prop :=
  ∃ e, (d.chan n).exch = some e ∧ e.frame = f ∧ e.ctx = k ∧ e.sent = false

/-- The first I-block of a session that sends `bs` (R184). -/
def firstBlock (c : Ctx) (bs : List Byte) : AirFrame :=
  blockFrame c (.info c.block (!(bs.drop c.chunk).isEmpty) (bs.take c.chunk))

/-- A field of every register of an array, and of a two-dimensional one. -/
abbrev Span.arr (f : Nat → Fld) (c s : Nat) : Span := .row ((f 0).bit / 32 * 4) c s ((f 0).bit % 32)
abbrev Span.arr2 (f : Nat → Nat → Fld) (c1 s1 c2 s2 : Nat) : Span := .grid ((f 0 0).bit / 32 * 4) c1 s1 c2 s2 ((f 0 0).bit % 32)

/-- What an item that is posted, and the reads that it serves, can mark (R295, R296, R301, R407, R408). -/
abbrev itemsPosted : List Span :=
  [Span.arr GW_STATUS_ITEM_END 2 0x800, Span.arr GW_STATUS_CODE 2 0x800, Span.arr LQN_STATUS_OVERSIZE_SEEN 32 0x40, Span.arr LQN_STATUS_GAP_SEEN 32 0x40,
      Span.arr LQN_STATUS_MARK_LOST_SEEN 32 0x40, Span.arr LQN_DROPPED_COUNT 32 0x40]

/-- What an access can mark of its own path in a Gangway (R36, R407). -/
abbrev replyFlags : List Span :=
  [Span.arr GW_STATUS_HOLE 2 0x800, Span.arr GW_STATUS_CODE 2 0x800]

/-- What the end of a field, and of the sessions in it, can mark (R110, R175, R181). -/
abbrev sessionsLost : List Span :=
  [Span.arr CH_TX_STATUS_ACTIVE_CODE 24 0x2000, Span.arr CH_TX_STATUS_AMP_PENDING 24 0x2000, Span.arr CH_TX_STATUS_HEADROOM 24 0x2000,
      Span.arr CH_RX_STATUS_STATE 24 0x2000, Span.arr CH_FT_STATUS_SEQ 24 0x2000, Span.arr CH_INV_STATUS_STALE_SEEN 24 0x2000,
      Span.arr CH_INV_STATUS_TWIN_SEEN 24 0x2000, Span.arr CH_INV_STATUS_LEVEL 24 0x2000, Span.arr CH_INV_STATUS_DEPTH 24 0x2000,
      Span.arr CH_INV_STATUS_WALK 24 0x2000, Span.arr CH_INV_STATS_MIGRATED 24 0x2000, Span.arr CH_INV_STATS_STALE 24 0x2000,
      Span.arr CH_INV_STATS_TAGS 24 0x2000, Span.arr CH_INV_STATS_ROUNDS 24 0x2000]

/-- What a wake from Watch can mark (R61, R63). -/
abbrev wakeStarts : List Span :=
  [Span.one PW_STATE_BUSY.bit, Span.one PW_RAIL_PEN.bit, Span.one PW_WAKE_SRC_DETECT.bit, Span.one PW_WAKE_SRC_GW0_CS.bit, Span.one PW_WAKE_SRC_TCAP.bit,
      Span.one PW_WAKE_SRC_TAMPER.bit, Span.one PW_WAKE_SRC_GPIO.bit, Span.one PW_WAKE_SRC_TC_ALARM.bit, Span.one PW_WK_STATUS_RUN.bit]

/-- What the boot ROM can write as it goes on to the next image, or ends in Bare deck (R76, R91, R98). -/
abbrev bootGoesOn : List Span :=
  [Span.one GC_BOOT_STAGE.bit, Span.one GC_BOOT_SOURCE.bit, Span.one GC_BOOT_BARE.bit, Span.one GC_BOOT_BARE_CAUSE.bit, Span.one GC_BOOT_ERR_FIRST.bit,
      Span.one GC_BOOT_ERR_FIRST_SECT.bit, Span.one GC_BOOT_ERR_LAST.bit, Span.one GC_BOOT_ERR_LAST_SECT.bit, Span.one GC_MANIFEST_ID_ID.bit,
      Span.one GC_SECVER_RUNNING.bit, Span.one HS_STATS_LINK_DROP.bit, Span.one DK_STATUS_LOADED.bit, Span.one DK_STATUS_TILES_USED.bit,
      Span.one DK_MANIFEST_ID_ID.bit, Span.one SV_RUNTIME_STATE.bit, Span.arr HSP_CFG_RETRAIN 4 0x40, Span.arr HSP_STATUS_NEIGH_VALID 4 0x40,
      Span.arr HSP_STATUS_NEIGH 4 0x40, Span.arr HSP_STATUS_LINK 4 0x40, Span.arr DK_TILE_FUNC 64 0x4, Span.arr DK_TILE_CHANNEL 64 0x4]

/-- The frame of a command: the waiting commands stand as they are, and the part changes at most in the parts `S` and, among register fields,
in the fields `W`. -/
def State.Keeps (S : List Part) (W : List Span) (s t : State) : Prop := t.pending = s.pending ∧ s.dev.Keeps S W t.dev

/-- The path's HOLE flag stands, where the path has one (R36, R50). -/
def Dev.holeMarked (d : Dev) : Path → Prop
  | .gw0 => d.rd (GW_STATUS_HOLE 0) = 1
  | .gw1 => d.rd (GW_STATUS_HOLE 1) = 1
  | .hawser => bit d.hawserStatus 0 = true
  | .jtag => bit d.jtagStatus 0 = true
  | .pilot | .watchkeeper => True

end Sys2Proof.Machine
end

