-- ==== Sys2Proof/Certificates/Slice0/Obligations.lean ====
section
/-!
DEFINITION. The statements, from the spec's numbered rules, chapter by chapter. A statement about a command says under which conditions on the
state and the operands it completes (`Completes`), and what then holds of the part; a clause of a statement that concerns several commands names
each of them. The model's own choices that a clause meets are those of the assumption log: an event that cannot happen in a state changes nothing
(3), events at an instant of network time count the Tideclock on to it (4), frames, packets and records whose bytes the spec leaves to a named
standard or open (13 to 17), primitives of cryptography are opaque (12).
-/

open Sys2Proof Sys2Proof.Machine

/-! The queue of commands, reset, and what every step keeps. -/

/-- Every step runs the command at the front of the queue on the queue's rest, whatever the command (assumption 20). -/
def Obligations.StepRunsTheFrontCommand : Prop :=
  ∀ (c : Instr) (s : State), step { s with pending := c :: s.pending } = exec c s

/-- With no command waiting (the model's choice, assumption 2), bursts that an item has released from their stall deliver their next words, which
touches neither the clock nor the power state, and where there are none leaves everything; then time passes: nothing while the part is off or held
by a COLD reset, else one Deck clock, or one crystal period of 15 Deck clocks while PLL_A does not run. The Tideclock adds its increment for each, the
machine timer of Pilot counts them while PLL_A runs and no reset holds, the watchdog counts them while it runs. -/
def Obligations.EmptyQueueCountsTime : Prop :=
  ∀ (s : State), s.pending = [] → ∃ e : Dev,
    (s.dev.Quiet → e = s.dev) ∧
    s.dev.Keeps [.regs, .mem, .chans, .lq, .out, .freeCtr, .cy, .hawserStatus, .ce, .shadow, .jtagStatus, .sv, .latch, .gw, .hs] [.every] e ∧
    (e.power.step = .off ∨ e.power.hold = some .cold → step s = .next { s with dev := e }) ∧
    (e.power.step ≠ .off → e.power.hold ≠ some .cold → ∃ t, step s = .next t ∧ t.pending = [] ∧
      t.dev.time = e.time + (if e.on TC_STATUS_XTAL_MODE then 15 else 1) * e.rd TC_INC_INC ∧
      (e.wdogCounts = false → t.dev.clk.wdog = e.clk.wdog ∧ t.dev.regs = e.regs) ∧
      (e.wdogCounts = true → e.clk.wdog < 406800 → e.rd FD_WDOG_STATUS_ELAPSED < 65535 →
        t.dev.clk.wdog < 406800 ∧ t.dev.rd FD_WDOG_STATUS_ELAPSED * 406800 + t.dev.clk.wdog =
          e.rd FD_WDOG_STATUS_ELAPSED * 406800 + e.clk.wdog + (if e.on TC_STATUS_XTAL_MODE then 15 else 1)) ∧
      (e.on TC_STATUS_XTAL_MODE = false → e.power.hold = none → t.dev.clk.deck = e.clk.deck + 1) ∧
      (e.on TC_STATUS_XTAL_MODE = true ∨ e.power.hold ≠ none → t.dev.clk.deck = e.clk.deck) ∧
      e.Keeps [.regs, .time, .clk] [.one FD_WDOG_STATUS_ELAPSED.bit] t.dev)

/-- Reset (R52, R66, and the Reset columns of the chapters' register tables): COLD holds as the crystal starts, no time has passed, these
register fields have the values of their tables, and every field and context is off or free. The model's choices here: nothing waits (assumption
20), no byte of memory is written (assumption 11), the queues hold nothing and have no storage before a Manifest (assumption 10). -/
def Obligations.ResetValues : Prop :=
  State.reset.pending = [] ∧ State.reset.dev.mem = [] ∧ State.reset.dev.shadow = [] ∧ State.reset.dev.time = 0 ∧
  State.reset.dev.power.hold = some .cold ∧ State.reset.dev.power.step = .crystal ∧
  (∀ x ∈ [(PW_STATE_CUR, 1), (PW_STATE_REQ, 1), (PW_RF_CAP_CAP, 1200), (PW_THERM_THROTTLE, 110), (FD_CAUSE_CLASS, 1), (FD_CAUSE_ALL, 1),
      (FD_WDOG_CFG_EN, 0), (FD_WDOG_CFG_PRE, 100), (FD_WDOG_CFG_TIMEOUT, 1000), (TS_CYCLE_SLOTS, 256), (LQ_STALL_STALL, 200),
      (TC_INC_INC, 2702830943402), (TC_JUMP_LIMIT_LIMIT, 1000000), (TC_STATUS_SET, 0), (HS_CFG_TTL, 32), (CE_CFG_HOST_WAIT, 100), (CY_TRNG_STARTUP, 1),
      (GC_HOSTIRQ_EN, 1), (CL_STATUS_REFRES, 3), (EN0_MDIO_CMD_OP, 2), (SV_RUNTIME_STATE, 0), (DK_STATUS_LOADED, 0)], State.reset.dev.rd x.1 = x.2) ∧
  State.reset.dev.rd (GW_CFG_ROLE 0) = 0 ∧ State.reset.dev.rd (GW_CFG_ROLE 1) = 1 ∧
  (∀ n : Fin 2, State.reset.dev.rd (GW_CFG_UNIT n.val) = 32 ∧ State.reset.dev.rd (GW_CFG_DUMMY n.val) = 8) ∧
  (∀ n : Fin 24, State.reset.dev.rd (CH_FT_DLY_A_DLY_CC n.val) = 1172 ∧ State.reset.dev.rd (CH_TX_GUARD_GUARD n.val) = 5000 ∧
    State.reset.dev.rd (CH_INV_STATUS_CTX_FREE n.val) = 8 ∧ (State.reset.dev.chan n.val).field.st = .off) ∧
  (∀ i : Fin 32, (State.reset.dev.q i.val).waiting = [] ∧ State.reset.dev.qSize i.val = 0)

/-- The reset state is in canonical form. -/
def Obligations.ResetIsCanonical : Prop :=
  State.reset.Canonical

/-- Whatever command is at the front, and when none is: a step from a state in canonical form (memory, the emulation shadow and the register file: one
form for equal contents, nothing listed that an unlisted place reads as) leads to a state in canonical form. -/
def Obligations.StepKeepsCanonicalForm : Prop :=
  ∀ s t : State, s.Canonical → step s = .next t → t.Canonical

/-- Unassigned addresses (R38): holes on the host, Hawser and JTAG paths, an access fault with no other effect for Pilot; and a hole inside a block
reads 0 and discards writes for Pilot with no fault. -/
def Obligations.UnassignedAddresses : Prop :=
  ∀ (s : State) (a : Word),
    (∀ p, s.dev.Quiet → s.dev.met p = s.dev.accessed p) ∧
    (inRegisterSpace a.toNat = false → inWindow a.toNat = false →
      (∀ p ∈ [Path.gw0, .gw1, .hawser, .jtag], (s.dev.met p).pathOpen p = true →
        (Completes (.latchedRead p a) s fun d =>
          d.out = (s.dev.met p).out ++ [0] ∧ d.holeMarked p ∧ (s.dev.met p).Keeps [.regs, .out, .hawserStatus, .jtagStatus, .hs] replyFlags d) ∧
        (∀ data frs, data ≠ [] → data.length ≤ 4 → Completes (.registerWrite p a data frs) s fun d =>
          d.holeMarked p ∧ (s.dev.met p).Keeps [.regs, .out, .hawserStatus, .jtagStatus] [.arr GW_STATUS_HOLE 2 0x800] d) ∧
        (∀ data frs, data ≠ [] → Completes (.registerWrite p a data frs) s fun d => d.holeMarked p ∧
          (s.dev.met p).Keeps [.regs, .out, .hawserStatus, .jtagStatus] [.arr GW_STATUS_HOLE 2 0x800, .arr GW_STATUS_PAGE_END 2 0x800] d)) ∧
      ((s.dev.met .pilot).pathOpen .pilot = true →
        (Completes (.latchedRead .pilot a) s fun d => d = { s.dev.met .pilot with pilotFault := some (false, a.toNat) }) ∧
        (∀ data frs, data ≠ [] → Completes (.registerWrite .pilot a data frs) s fun d =>
          d = { s.dev.met .pilot with pilotFault := some (true, a.toNat) })) ∧
      (s.dev.pathOpen .pilot = true → ∀ store customer, Completes (.pilotAccessFault a store customer) s fun d =>
          d = { s.dev with out := [], pilotFault := some (store, a.toNat) })) ∧
    (inRegisterSpace a.toNat = true → (s.dev.met .pilot).reaches .pilot (blockBase (a.toNat / 4 * 4)) = true → portAddress (a.toNat / 4 * 4) = false →
      inShadowWindow (a.toNat / 4 * 4) = false → (s.dev.met .pilot).regAt (a.toNat / 4 * 4) = none →
      (Completes (.latchedRead .pilot a) s fun d => d = { s.dev.met .pilot with out := (s.dev.met .pilot).out ++ [0] }) ∧
      (∀ w frs, Completes (.registerWrite .pilot a (leBytes 4 w) frs) s fun d => d = s.dev.met .pilot))

/-- The XIP window (R39): a write to it is discarded and marks a hole of the path; and while Gangway 1 is not in master role with XIP_CFG.EN set
(a flash attached, R412), every read of it is a hole. Pilot's path has no flag. -/
def Obligations.XipWindowIsReadOnly : Prop :=
  ∀ (s : State) (p : Path) (a : Word), Dev.inXip a.toNat = true →
    ((s.dev.met p).pathOpen p = true → ∀ data frs, data ≠ [] → (p = .pilot → a.toNat + data.length ≤ 0x50000000) →
      Completes (.registerWrite p a data frs) s fun d => d.holeMarked p ∧
        (s.dev.met p).Keeps [.regs, .out, .hawserStatus, .jtagStatus] [.arr GW_STATUS_HOLE 2 0x800, .arr GW_STATUS_PAGE_END 2 0x800] d) ∧
    ((s.dev.met p).pathOpen p = true → (s.dev.met p).on (GW_CFG_ROLE 1) = false ∨ (s.dev.met p).on GW1_XIP_CFG_EN = false →
      Completes (.latchedRead p a) s fun d => d.out = (s.dev.met p).out ++ [0] ∧ d.holeMarked p ∧
        (s.dev.met p).Keeps [.regs, .out, .hawserStatus, .jtagStatus, .hs]
          [.arr GW_STATUS_HOLE 2 0x800, .arr GW_STATUS_PAGE_END 2 0x800, .arr GW_STATUS_CODE 2 0x800] d) ∧
    (s.dev.pathOpen p = true → s.dev.on (GW_CFG_ROLE 1) = false ∨ s.dev.on GW1_XIP_CFG_EN = false →
      ∀ (x : Fin 268435456) (k : Fin 4), Completes (.xipRead p x k) s fun d => d.out = List.replicate ((2 ^ k.val + 3) / 4) 0 ∧ d.holeMarked p ∧
        s.dev.Keeps [.regs, .out, .hawserStatus, .jtagStatus, .hs] replyFlags d)

/-! Register access (02_register_access.md). -/

/-- Reads of registers (R28, R34, R44): a one-word register, the snapshot of a wide one, its shadow and the shadow's release, a read-clear register. -/
def Obligations.RegisterReads : Prop :=
  ∀ (s : State) (p : Path),
    (∀ (a : Word) (h : RegHit), (s.dev.met p).Names p a.toNat h →
      (h.spec.words = 1 → Completes (.latchedRead p a) s fun d => d.out = (s.dev.met p).out ++ [nw ((s.dev.met p).wordNow h)] ∧ d.mem = (s.dev.met p).mem) ∧
      (1 < h.spec.words → h.word = 0 → Completes (.latchedRead p a) s fun d =>
        d.out = (s.dev.met p).out ++ [nw ((s.dev.met p).wordNow h)] ∧ d.mem = (s.dev.met p).mem ∧
        ∃ l, l ∈ d.latch ∧ l.path = p ∧ l.addr = a.toNat - 4 * h.word ∧
          l.words = (upTo (h.spec.words - 1)).map fun k => nw ((s.dev.met p).wordNow { h with word := k + 1 })) ∧
      (∀ l, 1 < h.spec.words → h.word ≠ 0 → (s.dev.met p).latch.find? (fun x => x.path == p && x.addr == a.toNat - 4 * h.word) = some l →
        Completes (.latchedRead p a) s fun d =>
        d.out = (s.dev.met p).out ++ [l.words.getD (h.word - 1) 0] ∧  d.mem = (s.dev.met p).mem ∧
        (l.unread = [h.word] → ∀ x ∈ d.latch, x.path = p → x.addr ≠ a.toNat - 4 * h.word)) ∧
      (1 < h.spec.words → h.word ≠ 0 → (s.dev.met p).latch.find? (fun x => x.path == p && x.addr == a.toNat - 4 * h.word) = none →
        Completes (.latchedRead p a) s fun d => d.out = (s.dev.met p).out ++ [nw ((s.dev.met p).wordNow h)] ∧ d.latch = (s.dev.met p).latch ∧ d.mem =
            (s.dev.met p).mem)) ∧
    ((s.dev.met p).reaches p 0x4000 = true → Completes (.rcRead p 0x4068 (.words 1)) s fun d =>
      d.out = (s.dev.met p).out ++ [packW [(24, 8, (s.dev.met p).rd TC_COUNTS_REFUSED), (16, 8, (s.dev.met p).rd TC_COUNTS_STEPS), (8, 8, (s.dev.met p).rd
          TC_COUNTS_HOLDS), (0, 8, (s.dev.met p).rd TC_COUNTS_MASTERS)]] ∧
      d.rd TC_COUNTS_REFUSED = 0 ∧ d.rd TC_COUNTS_STEPS = 0 ∧ d.rd TC_COUNTS_HOLDS = 0 ∧ d.rd TC_COUNTS_MASTERS = 0 ∧ d.mem = (s.dev.met p).mem) ∧
    (∀ k : Fin 4, (s.dev.met .pilot).reaches .pilot 0x4000 = true → Completes (.rcRead .pilot (0x4068 + BitVec.ofNat 32 k.val) .byte) s fun d =>
      d.out = (s.dev.met .pilot).out ++ [nw ((s.dev.met .pilot).rd ([TC_COUNTS_MASTERS, TC_COUNTS_HOLDS, TC_COUNTS_STEPS, TC_COUNTS_REFUSED].getD k.val
          TC_COUNTS_MASTERS))] ∧
      d.rd TC_COUNTS_REFUSED = 0 ∧ d.rd TC_COUNTS_STEPS = 0 ∧ d.rd TC_COUNTS_HOLDS = 0 ∧ d.rd TC_COUNTS_MASTERS = 0 ∧ d.mem = (s.dev.met .pilot).mem) ∧
    (∀ a : Word, p ≠ .pilot → ∀ sz ∈ [AccessSize.byte, .half], exec (.rcRead p a sz) s = exec (.rcRead p a (.words 1)) s)

/-- Writes of registers, and Pilot's access faults (R31, R35, R38, R45): a field in range is stored, one out of range or fixed refuses the whole write,
the words of a wide value are staged and committed at once, and an access fault has no other effect. -/
def Obligations.RegisterWrites : Prop :=
  ∀ (s : State) (p : Path),
    (∀ (w : Word) (frs : List (Fin 24 × RxFrame)),
      ((s.dev.met p).reaches p 0 = true → Completes (.registerWrite p 0x100 (leBytes 4 w.toNat) frs) s fun d => d.rd GC_GPIO_DIR_DIR = w.toNat ∧ d.mem =
          (s.dev.met p).mem) ∧
      ((s.dev.met p).reaches p 0x1000 = true → 10 ≤ bits w.toNat 10 0 → bits w.toNat 10 0 ≤ 1800 → Completes (.registerWrite p 0x1020 (leBytes 4 w.toNat)
          frs) s fun d =>
        d.rd PW_RF_CAP_CAP = bits w.toNat 10 0 ∧ d.mem = (s.dev.met p).mem) ∧
      ((s.dev.met p).reaches p 0x1000 = true → bits w.toNat 10 0 < 10 ∨ 1800 < bits w.toNat 10 0 → Completes (.registerWrite p 0x1020 (leBytes 4 w.toNat)
          frs) s fun d =>
        d.rd PW_RF_CAP_CAP = (s.dev.met p).rd PW_RF_CAP_CAP ∧ d.rd (ERR_RANGE 0x1000) = 1 ∧ d.mem = (s.dev.met p).mem)) ∧
    (∀ (a w : Word) (frs : List (Fin 24 × RxFrame)) (h : RegHit), (s.dev.met p).Names p a.toNat h → h.spec.words = 1 → h.spec.addr ∉ ownWrite →
      (s.dev.met p).regFixed h.spec.addr h.i h.j = true → Completes (.registerWrite p a (leBytes 4 w.toNat) frs) s fun d =>
      d.rd (ERR_LOCKED (blockBase a.toNat)) = 1 ∧ (s.dev.met p).Keeps [.regs] [.errors] d) ∧
    (∀ (a w : Word) (h : RegHit), (s.dev.met p).Names p a.toNat h → h.spec.addr ∉ ownWrite → (h.spec.flds h.i h.j).any (·.writable h.i) = true →
      h.word + 1 < h.spec.words → Completes (.stagedWrite p a w) s fun d =>
      d.stage = (s.dev.met p).stage.filter (fun x => !(x.1 == p && x.2.1 == a.toNat)) ++ [(p, a.toNat, w)] ∧ d.regs = (s.dev.met p).regs ∧ d.mem =
          (s.dev.met p).mem) ∧
    ((s.dev.met p).reaches p 0x6000 = true → ∀ (lo hi : Word), (s.dev.met p).stage.find? (fun x => x.1 == p && x.2.1 == 0x6020) = some (p, 0x6020, lo) →
      ((s.dev.met p).on (EN_CFG_RX_EN 0) = false → Completes (.stagedWrite p 0x6024 hi) s fun d =>
        d.rd (EN_HASH_BITS 0) = lo.toNat + 2 ^ 32 * hi.toNat ∧ d.stage = (s.dev.met p).stage.filter (·.1 ≠ p) ∧ d.mem = (s.dev.met p).mem) ∧
      ((s.dev.met p).on (EN_CFG_RX_EN 0) = true → Completes (.stagedWrite p 0x6024 hi) s fun d =>
        d.rd (EN_HASH_BITS 0) = (s.dev.met p).rd (EN_HASH_BITS 0) ∧ d.rd (ERR_LOCKED 0x6000) = 1 ∧ d.stage = (s.dev.met p).stage.filter (·.1 ≠ p) ∧ d.mem =
            (s.dev.met p).mem)) ∧
    ((s.dev.met .pilot).reaches .pilot 0 = true → ∀ (data : List Byte) (frs : List (Fin 24 × RxFrame)), 0 < data.length → data.length < 4 →
      Completes (.registerWrite .pilot 0x100 data frs) s fun d =>
      d.rd (ERR_WIDTH 0) = 1 ∧ d.rd GC_GPIO_DIR_DIR = (s.dev.met .pilot).rd GC_GPIO_DIR_DIR ∧ d.mem = (s.dev.met .pilot).mem) ∧
    (s.dev.pathOpen .pilot = true → ∀ (a : Word) (store customer : Bool),
      ((inRegisterSpace a.toNat = false ∧ inWindow a.toNat = false) ∨ (customer = true ∧ customerDenied store a.toNat = true) →
        Completes (.pilotAccessFault a store customer) s fun d => d = { s.dev with out := [], pilotFault := some (store, a.toNat) }) ∧
      ((inRegisterSpace a.toNat = true ∨ inWindow a.toNat = true) → customer = false ∨ customerDenied store a.toNat = false →
        Completes (.pilotAccessFault a store customer) s fun d => d = { s.dev with out := [] }))

/-! Power, clocks, states and resets (03_power_clocks_resets.md). -/

/-- The power-up order and its failures (R52, R53, R63): each row of it completes with its own step. -/
def Obligations.PowerUpGoesOn : Prop :=
  ∀ s : State,
    (s.dev.power.step = .off → Completes .vaonPowerOn s fun d =>
      d.power = PowerSt.reset ∧ d.rd PW_RAIL_PEN = 0 ∧ d.rd PW_RAIL_VAON_OK = 1 ∧ d.mem = s.dev.mem) ∧
    (s.dev.power.step = .crystal → Completes .crystalStable s fun d =>
      d.power.step = .rail .vana ∧ d.bitOn PW_RAIL_PEN 1 = true ∧ d.mem = s.dev.mem) ∧
    (∀ r, s.dev.power.step = .rail r → s.dev.bitOn PW_RAIL_PEN (railPen r) = true → s.dev.NothingWaits → Completes (.railInRegulation r) s fun d =>
      d.rd (railOk r) = 1 ∧ d.mem = s.dev.mem ∧
      match railOrder.find? fun q => !s.dev.bitOn PW_RAIL_PEN (railPen q) with
      | some q => d.power.step = .rail q ∧ d.bitOn PW_RAIL_PEN (railPen q) = true
      | none => d.power.step = .plls ∧ d.rd GC_STATUS_PLLA_LOCK = 0 ∧ d.rd GC_STATUS_PLLD_LOCK = 0) ∧
    (∀ r, s.dev.power.step = .rail r → Completes (.railFail (.rail r)) s fun d =>
      d.power.step = .failed ∧ d.power.after = .retry ∧ d.rd PW_RAIL_RAIL_FAIL = 1) ∧
    (∀ g : Fin 6, s.dev.power.step = .up → g.val ∈ s.dev.power.vrfWait → Completes (.railFail (.vrf g)) s fun d =>
      d.power.step = .failed ∧ d.power.after = .retry ∧ d.rd PW_RAIL_RAIL_FAIL = 1 ∧ d.rd PW_STATE_CUR = 1) ∧
    (s.dev.power.step = .crystal → Completes .xtalFail s fun d =>
      d.power.step = .failed ∧ d.power.after = .retry ∧ d.rd PW_STATUS_XTAL_FAIL = 1) ∧
    (∀ k r, s.dev.power.drops = k :: r → k < 6 → s.dev.power.after = .retry → Completes .enableDropStep s fun d =>
      d.bitOn PW_RAIL_PEN k = false ∧ d.power.drops = r ∧ d.power.step = s.dev.power.step) ∧
    (s.dev.power.step = .failed → s.dev.power.drops = [] → Completes .powerUpRetry s fun d =>
      d.power.step = .crystal ∧ d.regs = s.dev.regs ∧ d.mem = s.dev.mem) ∧
    (∀ k r, s.dev.power.asserts = k :: r → k < 6 → Completes .enableAssertStep s fun d =>
      d.bitOn PW_RAIL_PEN k = true ∧ d.power.asserts = r ∧ d.mem = s.dev.mem)

/-- The PLLs lock and lose lock (R19, R52, R59). -/
def Obligations.PllsLockAndUnlock : Prop :=
  ∀ (s : State) (env : BootEnv) (frs : List (Fin 24 × RxFrame)),
    (s.dev.power.step = .plls → s.dev.power.waking = false → s.dev.power.hold = some .cold → s.dev.power.resetPin = false →
      s.dev.on GC_STATUS_PLLA_LOCK = false → s.dev.on GC_STATUS_PLLD_LOCK = true →
      s.dev.NothingWaits → Completes (.pllLock .a env) s fun d =>
        d.power.hold = none ∧ d.rd PW_STATE_CUR = 1 ∧ d.rd PW_STATE_BUSY = 0 ∧ d.rd GC_STRAP_BOOT_SRC = env.bootSrc.val) ∧
    (s.dev.power.step = .up →
    (s.dev.rd PW_STATE_CUR = 1 → s.dev.power.waking = false → s.dev.power.hold = none → s.dev.on GC_STATUS_PLLA_LOCK = false →
      s.dev.NothingWaits → Completes (.pllLock .a env) s fun d =>
        d.rd GC_STATUS_PLLA_LOCK = 1 ∧ d.rd TC_STATUS_XTAL_MODE = 0 ∧ d.rd FD_WDOG_STATUS_PAUSED = 0) ∧
    (s.dev.rd PW_STATE_CUR = 1 → s.dev.power.waking = false → s.dev.on GC_STATUS_PLLD_LOCK = false →
      s.dev.NothingWaits → Completes (.pllLock .d env) s fun d =>
        d.rd GC_STATUS_PLLD_LOCK = 1 ∧ d.mem = s.dev.mem) ∧
    (s.dev.power.hold = none → s.dev.power.waking = false → s.dev.rd PW_STATE_CUR < 3 → s.dev.on GC_CFG_PLLE_EN = true →
      s.dev.NothingWaits → Completes (.pllLock .e env) s fun d =>
        d.rd GC_STATUS_PLLE_LOCK = 1 ∧ d.mem = s.dev.mem) ∧
    (s.dev.power.waking = false → s.dev.on GC_STATUS_PLLA_LOCK = true → Completes (.pllaUnlock frs) s fun d =>
      d.rd GC_STATUS_PLLA_UNLOCK = 1 ∧ d.rd GC_STATUS_PLLA_LOCK = 0 ∧ d.rd TC_STATUS_XTAL_MODE = 1 ∧ d.rd FD_WDOG_STATUS_PAUSED = 1) ∧
    (s.dev.power.waking = true → s.dev.on GC_STATUS_PLLA_LOCK = true → Completes (.pllaUnlock frs) s fun d =>
      d.rd GC_STATUS_PLLA_UNLOCK = 1 ∧ d.rd GC_STATUS_PLLA_LOCK = 0 ∧ d.power = s.dev.power ∧ d.mem = s.dev.mem) ∧
    (s.dev.on GC_STATUS_PLLD_LOCK = true → Completes .plldUnlock s fun d =>
      d.rd GC_STATUS_PLLD_UNLOCK = 1 ∧ d.rd GC_STATUS_PLLD_LOCK = 0 ∧ d.mem = s.dev.mem) ∧
    (s.dev.on GC_STATUS_PLLE_LOCK = true → Completes .plleUnlock s fun d =>
      d.rd GC_STATUS_PLLE_UNLOCK = 1 ∧ d.rd GC_STATUS_PLLE_LOCK = 0 ∧ d.mem = s.dev.mem))

/-- Temperature, VRF groups and the tracking regulators (R54, R56 to R58, R104). -/
def Obligations.CapstanMeasurements : Prop :=
  ∀ s : State,
    (∀ t, s.dev.power.step = .up → s.dev.rd PW_STATE_CUR = 1 ∨ s.dev.rd PW_STATE_CUR = 3 → Completes (.tempSample t) s fun d =>
      d.rd PW_TEMP_TEMP = t.toNat ∧ d.rd PW_TEMP_STALE = 0 ∧ d.power.temp = t.toNat ∧
      d.rd PW_STATUS_THERM_SHUT = (if toSigned 11 t.toNat < 4 * (s.dev.rd PW_THERM_THROTTLE : Int) then 0 else s.dev.rd PW_STATUS_THERM_SHUT) ∧
      d.mem = s.dev.mem) ∧
    (∀ t, s.dev.power.step = .up → s.dev.rd PW_STATE_CUR = 2 → Completes (.tempSample t) s fun d =>
      d.rd PW_TEMP_TEMP = s.dev.rd PW_TEMP_TEMP ∧ d.power.temp = t.toNat ∧ d.mem = s.dev.mem) ∧
    (∀ frs, s.dev.power.step = .up → s.dev.rd PW_STATE_CUR ≠ 4 → Completes (.thermalShutdown frs) s fun d =>
      d.rd PW_STATUS_THERM_SHUT = 1 ∧ d.rd PW_STATUS_THERM_SHUT_SEEN = 1 ∧ d.mem = s.dev.mem) ∧
    (∀ (g : Fin 6) mv, s.dev.power.step ≠ .off → Completes (.vrfGroupLevelChange g mv) s fun d =>
      d.bitOn PW_RAIL_VRF_OK g.val = decide (4750 ≤ mv) ∧ d.power.vrf = lmod s.dev.power.vrf g.val (fun _ => mv) ∧ d.mem = s.dev.mem)

/-- Requests for Trim, Watch and Dormant, the entries that they lead to, and the wake from Watch (R61 to R65). -/
def Obligations.PowerStatesChange : Prop :=
  ∀ s : State,
    (∀ p, s.dev.pathOpen p = true → s.dev.power.step = .up → s.dev.power.hold = none → s.dev.rd PW_STATE_CUR = 1 →
      s.dev.rd PW_STATE_BUSY = 0 → s.dev.rd GC_BOOT_BARE = 0 →
      (Completes (.trimRequest p) s fun d =>
        d.rd PW_STATE_REQ = 2 ∧ d.rd PW_STATE_BUSY = 1 ∧ d.rd PW_STATE_CUR = 1 ∧ d.power.entry = .trim) ∧
      (Completes (.watchRequest p) s fun d =>
        d.rd PW_STATE_REQ = 3 ∧ d.rd PW_STATE_BUSY = 1 ∧ d.rd PW_STATE_CUR = 1 ∧ d.power.entry = .watch) ∧
      (Completes (.dormantRequest p) s fun d =>
        d.rd PW_STATE_REQ = 4 ∧ d.rd PW_STATE_BUSY = 1 ∧ d.rd PW_STATE_CUR = 1 ∧ d.power.entry = .dormant)) ∧
    (s.dev.coreRuns = true → s.dev.rd PW_STATE_CUR = 1 → s.dev.power.entry = .trim → s.dev.drained = true → Completes .trimEntry s fun d =>
      d.rd PW_STATE_CUR = 2 ∧ d.rd PW_STATE_REQ = 1 ∧ d.rd PW_STATE_BUSY = 0 ∧ d.rd CL_STATUS_RUNNING = 1 ∧ d.power.entry = .none) ∧
    (s.dev.coreRuns = true → s.dev.power.entry = .watch → s.dev.drained = true → s.dev.power.deferred = 0 → Completes .watchEntryContinue s fun d =>
      d.rd PW_STATE_CUR = 3 ∧ d.rd PW_STATE_BUSY = 0 ∧ d.rd GC_STATUS_PLLA_LOCK = 0 ∧ d.rd GC_STATUS_PLLD_LOCK = 0 ∧
      d.rd TC_STATUS_XTAL_MODE = 1 ∧ d.power.entry = .none) ∧
    (s.dev.coreRuns = true → s.dev.power.entry = .dormant → s.dev.power.drops = [] → s.dev.drained = true →
      s.dev.bitOn PW_RAIL_PEN 0 = true → s.dev.bitOn PW_RAIL_PEN 1 = true → Completes .dormantEntryContinue s fun d =>
      d.power.entry = .dormant ∧ d.power.after = .dormant ∧ d.power.drops ≠ [] ∧ d.boot.phase = .held) ∧
    (∀ w, s.dev.wakeEnabled w = true → s.dev.power.entry = .none → s.dev.rd PW_STATE_CUR = 3 → s.dev.power.waking = false →
      Completes (.wakeEvent w) s fun d =>
      d.rd PW_STATE_BUSY = 1 ∧ d.rd PW_WK_STATUS_RUN = 0 ∧ d.power.waking = true ∧ d.mem = s.dev.mem)

/-- A request for a power state while a transition is in progress is refused: PW_ERR.LOCKED is set, and nothing but PW's error registers
changes (R61). -/
def Obligations.BusyRequestIsLocked : Prop :=
  ∀ (s : State) (p : Path), s.dev.pathOpen p = true → s.dev.power.step = .up → s.dev.on PW_STATE_BUSY = true →
    ∀ i ∈ [Instr.trimRequest p, .watchRequest p, .dormantRequest p], Completes i s fun d =>
      d.rd (ERR_LOCKED 0x1000) = 1 ∧
      s.dev.Keeps [.regs, .out, .hawserStatus, .jtagStatus] [.one (ERR_LOCKED 0x1000).bit, .one (ERR_RANGE 0x1000).bit, .one (ERR_WIDTH 0x1000).bit,
        .one (ERRADDR_SRC 0x1000).bit, .one (ERRADDR_WRITE 0x1000).bit, .one (ERRADDR_OFFSET 0x1000).bit] d

/-- The resets: their causes, what they record, and their release (R61, R66). -/
def Obligations.ResetsHoldAndRelease : Prop :=
  ∀ s : State,
    (s.dev.power.step ≠ .off → Completes .coldReset s fun d =>
      d.power.step = .off ∧ d.power.after = .off ∧ d.rd PW_RAIL_VAON_OK = 0) ∧
    (s.dev.power.step = .up → s.dev.power.hold = none → s.dev.rd PW_STATE_CUR = 1 →
      ∀ r, r ≠ .vio → s.dev.bitOn PW_RAIL_PEN (railPen r) = true → s.dev.on (railOk r) = true → Completes (.brownReset r) s fun d =>
        d.power.hold = some .brown ∧ d.rd FD_CAUSE_CLASS = 2 ∧ d.rd PW_STATE_CUR = 1 ∧
        d.rd FD_CAUSE_BROWN_SRC = (match r with | .vcore => 1 | .vana => 2 | .vddr => 4 | .vio => 0)) ∧
    (s.dev.bitOn PW_RAIL_PEN (railPen .vio) = true → s.dev.on PW_RAIL_VIO_OK = true → Completes (.brownReset .vio) s fun d =>
        d.rd PW_RAIL_VIO_OK = 0 ∧ d.power = s.dev.power ∧ d.mem = s.dev.mem) ∧
    (∀ r ∈ [Rail.vana, .vddr], s.dev.rd PW_STATE_CUR = 3 → s.dev.bitOn PW_RAIL_PEN (railPen r) = true → s.dev.on (railOk r) = true →
      Completes (.brownReset r) s fun d => d.rd (railOk r) = 0 ∧ d.power = s.dev.power ∧ d.mem = s.dev.mem) ∧
    (s.dev.power.step ≠ .off → s.dev.power.hold = none → Completes .pinReset s fun d =>
      d.power.hold = some .pin ∧ d.power.resetPin = true ∧ d.rd FD_CAUSE_CLASS = 3 ∧ d.rd PW_STATE_CUR = 1) ∧
    (∀ p w, s.dev.reaches p 0 = true → s.dev.power.softDue = none → bit w.toNat 0 = true → bits w.toNat 15 8 = 0x5A →
      Completes (.gcReset p w) s fun d =>
        d.power.softDue = some (bit w.toNat 1, s.dev.ns) ∧ d.regs = s.dev.regs ∧ d.mem = s.dev.mem) ∧
    (∀ p w, s.dev.reaches p 0 = true → bit w.toNat 0 = true → bits w.toNat 15 8 ≠ 0x5A → Completes (.gcReset p w) s fun d =>
        d.rd (ERR_RANGE 0) = 1 ∧ d.power = s.dev.power ∧ d.mem = s.dev.mem) ∧
    (∀ k t, s.dev.power.softDue = some (k, t) → s.dev.power.step ≠ .off → s.dev.power.hold = none → Completes .softReset s fun d =>
        d.power.hold = some .soft ∧ d.power.softDue = none ∧ d.rd FD_CAUSE_CLASS = 5 ∧ d.rd PW_STATE_CUR = 1) ∧
    (∀ env c, s.dev.power.hold = some c → c ≠ .brown → s.dev.power.step = .up → s.dev.railsOk = true →
      Completes (.resetRelease env) s fun d =>
        d.power.hold = none ∧ d.rd PW_STATE_CUR = 1 ∧ d.rd PW_STATE_BUSY = 0 ∧ d.rd GC_STRAP_BOOT_SRC = env.bootSrc.val)

/-- The power-fail source and the MRAM write fence (R70, R72, R73). -/
def Obligations.PowerFailAndFence : Prop :=
  ∀ s : State, s.dev.power.step ≠ .off →
    (s.dev.on PW_CFG_PFAIL_PIN = true → s.dev.rd PW_STATUS_PFAIL = 0 → Completes (.pfailAssert .pin) s fun d =>
      d.rd PW_STATUS_PFAIL = 1 ∧ d.rd PW_STATUS_PFAIL_SEEN = 1 ∧ d.power.pfailPin = true ∧ d.power.pfailAt = s.dev.ns) ∧
    (s.dev.on PW_CFG_VIN_MON = true → s.dev.power.vinArmed = true → s.dev.power.vrf.getD 0 0 < 4000 + 250 * s.dev.rd PW_CFG_VIN_TRIP →
      s.dev.rd PW_STATUS_PFAIL = 0 → Completes (.pfailAssert .vin) s fun d =>
      d.rd PW_STATUS_PFAIL = 1 ∧ d.rd PW_STATUS_PFAIL_SEEN = 1 ∧ d.power.pfailVin = true ∧ d.power.pfailAt = s.dev.ns) ∧
    (s.dev.rd PW_STATUS_PFAIL = 1 → s.dev.on PW_CFG_VIN_MON = false → s.dev.power.fence = false → Completes (.pfailRelease .pin) s fun d =>
      d.rd PW_STATUS_PFAIL = 0 ∧ d.rd PW_STATUS_PFAIL_GLITCH = 1 ∧ d.power.fence = false) ∧
    (s.dev.rd PW_STATUS_PFAIL = 1 → s.dev.on PW_CFG_PFAIL_PIN = false → s.dev.power.fence = false → Completes (.pfailRelease .vin) s fun d =>
      d.rd PW_STATUS_PFAIL = 0 ∧ d.rd PW_STATUS_PFAIL_GLITCH = 1 ∧ d.power.fence = false) ∧
    (s.dev.rd PW_STATUS_PFAIL = 1 → s.dev.power.fence = false → s.dev.power.hold = none → Completes .mramFence s fun d =>
      d.power.fence = true ∧ d.power.hold = some .brown ∧ d.rd FD_CAUSE_CLASS = 2 ∧ d.rd FD_CAUSE_BROWN_SRC = 8)

/-! Boot and the Manifest (04_boot_manifest.md). -/

/-- An image in the staging area is checked whole, and only then applied (R76, R77, R78, R79, R91): fetched from flash, and from a
neighbour; its configuration is applied, or cleared again on a Deck parity error; journal recovery follows. -/
def Obligations.BootAppliesOnlyCheckedImages : Prop :=
  ∀ s : State,
    (∀ bs : List Byte, s.dev.coreRuns = true → s.dev.on GC_STATUS_PLLD_LOCK = true → s.dev.boot.phase = .fetch → s.dev.boot.source = 1 →
      bs.length ≤ stagingLen → s.dev.boot.keepDeck = false → s.dev.boot.tried = [] → s.dev.boot.others = [] → Completes (.imageFetchDone (some bs)) s fun d =>
        d.mem = Memory.write s.dev.mem stagingAt bs ∧
        match s.dev.verify bs ((s.dev.dirEntry 1).map (·.slotSize)) with
        | .ok m => d.boot.phase = .apply ∧ d.boot.manifest = some m ∧ d.boot.staged = (0, bs.length) ∧ d.rd GC_BOOT_STAGE = 4
        | .error e => d.boot.phase = .recover ∧ d.boot.manifest = none ∧ d.rd GC_BOOT_BARE = 1 ∧ d.rd GC_BOOT_ERR_FIRST = e.1 % 256) ∧
    (∀ (bs : List Byte) m, s.dev.coreRuns = true → s.dev.on GC_STATUS_PLLD_LOCK = true → s.dev.boot.phase = .reload → s.dev.boot.source = 1 →
      bs.length ≤ stagingLen → s.dev.verify bs ((s.dev.dirEntry 1).map (·.slotSize)) = .ok m →
      (m.id = s.dev.rd GC_MANIFEST_ID_ID → Completes (.imageFetchDone (some bs)) s fun d =>
        d.boot.phase = .runtime ∧ d.boot.manifest = some m ∧ d.rd SV_RUNTIME_STATE = 2) ∧
      (m.id ≠ s.dev.rd GC_MANIFEST_ID_ID → Completes (.imageFetchDone (some bs)) s fun d =>
        d.boot.phase = .reload ∧ d.mem = Memory.write s.dev.mem stagingAt bs)) ∧
    (∀ m, s.dev.coreRuns = true → s.dev.boot.phase = .apply → s.dev.boot.manifest = some m → m.fabricMode ≠ 2 → Completes .configApplyDone s fun d =>
      d.boot.phase = .recover ∧ d.rd DK_STATUS_LOADED = 1 ∧ d.rd GC_BOOT_STAGE = 5 ∧ d.rd SV_RUNTIME_STATE = 1 ∧ d.rd GC_MANIFEST_ID_ID = m.id % 2 ^ 64) ∧
    (∀ m, s.dev.coreRuns = true → s.dev.boot.phase = .apply → s.dev.boot.manifest = some m → s.dev.boot.keepDeck = false → s.dev.boot.source = 3 →
      s.dev.boot.tried = [] → Completes .bootDeckParity s fun d =>
      d.boot.phase = .recover ∧ d.boot.manifest = none ∧ d.rd GC_BOOT_BARE = 1 ∧ d.rd GC_BOOT_ERR_FIRST = 0x1C) ∧
    (∀ ecc, s.dev.coreRuns = true → s.dev.boot.phase = .recover → s.dev.on GC_BOOT_BARE = true → Completes (.journalRecoveryDone ecc) s fun d =>
      d.boot.phase = .bare ∧ d.rd SV_RECOV_DONE = 1 ∧ d.rd SV_RUNTIME_STATE = 0) ∧
    (∀ ecc, s.dev.coreRuns = true → s.dev.boot.phase = .recover → s.dev.on GC_BOOT_BARE = false → s.dev.power.trimDue = true →
      Completes (.journalRecoveryDone ecc) s fun d => d.boot.phase = .trim ∧ d.rd SV_RECOV_DONE = 1 ∧ d.rd GC_BOOT_STAGE = 6)

/-- The boot from a neighbour (R94, R379): chunks of the image go into the staging area, BOOT_END has it checked, a refusal and a timeout
lead to the next port, and a booting neighbour is served from the image that the part holds.
And: The service commands of the boot ROM (R92, R93, R97), which the runtime serves with the same meanings but for MANIFEST_BOOT. -/
def Obligations.NeighbourBootAndBootServices : Prop :=
  (∀ s : State,
      (∀ (p : Fin 4) (off : Word) (bs : List Byte), s.dev.bootsOn p.val = true → s.dev.on GC_STATUS_PLLD_LOCK = true → s.dev.dramWait = [] → bs.length ≤
          1004 → off.toNat + bs.length ≤ stagingLen →
        Completes (.bootData p off bs) s fun d =>
          (∀ i, i < bs.length → Memory.get d.mem (stagingAt + off.toNat + i) = bs.getD i 0) ∧
          (∀ a, a < stagingAt + off.toNat ∨ stagingAt + off.toNat + bs.length ≤ a → Memory.get d.mem a = Memory.get s.dev.mem a) ∧
          d.regs = s.dev.regs) ∧
      (∀ (p : Fin 4) (off : Word) (bs : List Byte), s.dev.bootsOn p.val = true → s.dev.on GC_STATUS_PLLD_LOCK = false → bs ≠ [] → bs.length ≤ 1004 →
        off.toNat + bs.length ≤ stagingLen → Completes (.bootData p off bs) s fun d =>
          d.dramWait = s.dev.dramWait ++ [⟨.pilot, stagingAt + off.toNat, bs, 0, 0⟩] ∧ d.mem = s.dev.mem ∧ d.regs = s.dev.regs) ∧
      (∀ (p : Fin 4) (total : Word), s.dev.bootsOn p.val = true → s.dev.on GC_STATUS_PLLD_LOCK = false → Completes (.bootEnd p total) s fun d =>
          d.boot.ended = some (p.val, total.toNat) ∧ d.mem = s.dev.mem ∧ d.regs = s.dev.regs) ∧
      (∀ (p : Fin 4) (total : Word), s.dev.bootsOn p.val = true → s.dev.on GC_STATUS_PLLD_LOCK = true → s.dev.boot.phase = .fetch → s.dev.boot.keepDeck =
          false → s.dev.boot.tried = [] → Completes (.bootEnd p total) s fun d =>
          d.mem = s.dev.mem ∧
          match s.dev.verify (Memory.read s.dev.mem stagingAt (min total.toNat s.dev.boot.got)) none with
          | .ok m => d.boot.phase = .apply ∧ d.boot.manifest = some m ∧ d.rd GC_BOOT_STAGE = 4
          | .error e => d.boot.manifest = none ∧ d.rd GC_BOOT_ERR_FIRST = e.1 % 256) ∧
      (∀ p : Fin 4, s.dev.bootsOn p.val = true → s.dev.boot.phase = .fetch → s.dev.boot.keepDeck = false → p.val < 3 → Completes (.bootDeny p) s fun d =>
          d.boot.phase = .fetch ∧ d.boot.port = p.val + 1 ∧ d.boot.round = s.dev.boot.round ∧ d.boot.got = 0 ∧ d.mem = s.dev.mem) ∧
      (∀ p : Fin 4, s.dev.bootsOn p.val = true → s.dev.boot.phase = .reload → Completes (.bootDeny p) s fun d =>
          d.boot.phase = .reload ∧ d.boot.port = p.val ∧ d.boot.got = 0 ∧ d.mem = s.dev.mem) ∧
      (s.dev.coreRuns = true → s.dev.boot.phase = .fetch → s.dev.boot.source = 4 → s.dev.boot.keepDeck = false → s.dev.boot.port < 3 → Completes
          .neighbourBootPortTimeout s fun d =>
          d.boot.phase = .fetch ∧ d.boot.port = s.dev.boot.port + 1 ∧ d.boot.round = s.dev.boot.round ∧ d.boot.got = 0 ∧ d.mem = s.dev.mem) ∧
      (∀ p : Fin 4, s.dev.applied = true → s.dev.link p.val = lBOOT_PEER → s.dev.runtime = true → s.dev.on HS_MCFG_SERVE_BOOT = true →
        s.dev.boot.staged.2 ≠ 0 → Completes (.bootRequest p) s fun d => d.hs.serving = some (p.val, 0) ∧ d.mem = s.dev.mem)) ∧
  (∀ (s : State) (via : Via) (c : SvcCmd),
      (s.dev.Offers via 0x01 c →
        Answers c 0 (leBytes 4 (s.dev.rawWord 0x54) ++ leBytes 4 (s.dev.rawWord 0x58) ++ leBytes 4 (s.dev.rawWord 0x50)) (.status via) s) ∧
      (s.dev.Offers via 0x02 c →
        Answers c 0 ((s.dev.boot.tried.take 12).flatMap fun t =>
          leBytes 1 t.source ++ leBytes 1 t.slot ++ leBytes 1 t.err ++ [0] ++ leBytes 2 t.sect ++ [0, 0] ++ leBytes 8 t.id) (.bootReport via) s) ∧
      (s.dev.Offers via 0x10 c → s.dev.runtime = false → 0 < le32At c.payload 4 → le32At c.payload 0 + le32At c.payload 4 ≤ stagingLen →
        Completes (.manifestBoot via) s fun d =>
          d.mem = s.dev.mem ∧
          match s.dev.verify (Memory.read s.dev.mem (stagingAt + le32At c.payload 0) (le32At c.payload 4)) none with
          | .ok m => d.boot.phase = .apply ∧ d.boot.manifest = some m ∧ d.boot.staged = (le32At c.payload 0, le32At c.payload 4) ∧
              d.sv.mboxOut = [] ∧ d.rd GC_BOOT_BARE = 0 ∧ d.rd SV_MBOX_STATUS_BUSY = 0 ∧ d.rd SV_MBOX_STATUS_OUT_READY = 0 ∧ d.rd GC_BOOT_STAGE = 4
          | .error e => d.boot.phase = s.dev.boot.phase ∧ d.rd GC_BOOT_STAGE = 3 ∧ d.rd GC_BOOT_BARE = s.dev.rd GC_BOOT_BARE ∧ d.rd SV_MBOX_STATUS_OUT_READY
              = 1 ∧
              d.sv.mboxOut = itemHeader 0x51 4 false false 0 :: responseWords c 0x10 (leBytes 1 e.1 ++ leBytes 1 e.2)) ∧
      (s.dev.Offers via 0x10 c → s.dev.runtime = true → Answers c 4 [] (.manifestBoot via) s) ∧
      (∀ same booted old, s.dev.Offers via 0x11 c → u8At c.payload 0 < 2 → s.dev.rd GC_BOOT_SOURCE ≠ u8At c.payload 0 + 1 →
        0 < le32At c.payload 8 → le32At c.payload 4 + le32At c.payload 8 ≤ stagingLen → s.dev.dirEntry (s.dev.rd GC_BOOT_SOURCE) = some booted →
        s.dev.dirEntry (u8At c.payload 0 + 1) = some old → booted.sequence + 1 < 0xFFFFFFFF →
        Completes (.slotWrite via same) s fun d =>
          match s.dev.verify (Memory.read s.dev.mem (stagingAt + le32At c.payload 4) (le32At c.payload 8)) (some old.slotSize) with
          | .error _ => d.boot.flashOps = [] ∧ d.dirEntry (u8At c.payload 0 + 1) = some old
          | .ok m =>
            if same then
              d.boot.flashOps = [(0x20, old.slotOffset, m.totalLen), (0x02, old.slotOffset, m.totalLen), (0x20, dirAt (u8At c.payload 0 + 1), 0x1000),
                (0x02, dirAt (u8At c.payload 0 + 1), 32)] ∧
              d.dirEntry (u8At c.payload 0 + 1) = some { old with sequence := booted.sequence + 1, attempts := 7, confirm := 0xFF }
            else
              d.boot.flashOps = [(0x20, old.slotOffset, m.totalLen), (0x02, old.slotOffset, m.totalLen)]) ∧
      (∀ e m, s.dev.Offers via 0x12 c → s.dev.dirEntry (s.dev.rd GC_BOOT_SOURCE) = some e → s.dev.boot.manifest = some m → e.confirm = 0xFF →
        Completes (.slotConfirm via) s fun d =>
          d.dirEntry (s.dev.rd GC_BOOT_SOURCE) = some { e with confirm := 0 } ∧
          d.fuses.secMin = if m.advance then max s.dev.fuses.secMin m.secVersion else s.dev.fuses.secMin) ∧
      (s.dev.Offers via 0x12 c → (s.dev.dirEntry (s.dev.rd GC_BOOT_SOURCE) = none ∨ ∃ e, s.dev.dirEntry (s.dev.rd GC_BOOT_SOURCE) = some e ∧ e.confirm ≠ 0xFF) →
        Completes (.slotConfirm via) s fun d => d = reply c 4 [] ((freshFlash s.dev).serving c)) ∧
      (s.dev.Offers via 0x1F c → s.dev.power.softDue = none → Completes (.reset via) s fun d =>
        d.power.softDue = some (bit (u8At c.payload 0) 0, s.dev.ns)))

/-! RF channels: field generation (05_transmit.md). -/

/-- The tracking regulators (R56, R104): a current limit sets the channel's bit of PW_CHREG_FAULT; while the field is on, dropout is shown
where the code in force needs more than VRF less 0.8 V, and with the field off none is.
And: A write of CHn_TX_AMP (R102, R103, R105): refused beyond MAX_POWER, applied at once without a grant or where P(c) does not rise (the
grant is then charged P(c)), held pending where it rises; a grant confirmed behind the present field takes a code that is not above its
own. A field in RAMP_UP with RAMP_ON 0, which R109 does not know, is left out. -/
def Obligations.AmplitudeAndRegulators : Prop :=
  (∀ (s : State) (n : Fin 24),
      (Completes (.regulatorCurrentLimit n) s fun d =>
        d.bitOn PW_CHREG_FAULT_CH n.val = true ∧ d.chans = s.dev.chans ∧ d.mem = s.dev.mem) ∧
      (∀ c, c = decide (1023 * (s.dev.power.vrf.getD (n.val / 4) 0 - 800) < 6200 * s.dev.rd (CH_TX_STATUS_ACTIVE_CODE n.val)) →
        (s.dev.chan n.val).field.lit = true → Completes (.regulatorDropout n) s fun d =>
        d.rd (CH_TX_STATUS_HEADROOM n.val) = b2n c ∧ (c = true → d.rd (CH_TX_STATUS_HEADROOM_SEEN n.val) = 1) ∧
        d.chans = s.dev.chans ∧ d.mem = s.dev.mem) ∧
      ((s.dev.chan n.val).field.lit = false → Completes (.regulatorDropout n) s fun d =>
        d.rd (CH_TX_STATUS_HEADROOM n.val) = 0 ∧ d.chans = s.dev.chans ∧ d.mem = s.dev.mem)) ∧
  (∀ (s : State) (p : Path) (n : Fin 24) (w : Word) (fr : RxFrame), s.dev.reaches p (0x40000 + n.val * 0x2000) = true →
      ((s.dev.chan n.val).field.st = .rampUp → s.dev.rd (CH_TX_RAMP_RAMP_ON n.val) ≠ 0) → ∀ c q, c = bits w.toNat 9 0 → q = powerOf c →
        ((s.dev.decl n.val).maxPower < q → Completes (.txAmpWrite p n w fr) s fun d =>
          d.rd (ERR_RANGE (0x40000 + n.val * 0x2000)) = 1 ∧ d.rd (CH_TX_AMP_CODE n.val) = s.dev.rd (CH_TX_AMP_CODE n.val) ∧ d.chans = s.dev.chans) ∧
        (q ≤ (s.dev.decl n.val).maxPower → s.dev.fieldGrant n.val = none → (s.dev.chan n.val).field.next = none → Completes (.txAmpWrite p n w fr) s fun d =>
          d.rd (CH_TX_AMP_CODE n.val) = c ∧ d.rd (CH_TX_AMP_PWR n.val) = q % 256 ∧ d.chans = s.dev.chans ∧ d.mem = s.dev.mem) ∧
        (∀ c0, q ≤ (s.dev.decl n.val).maxPower → s.dev.fieldGrant n.val = none → (s.dev.chan n.val).field.next = some c0 → Completes (.txAmpWrite p n w fr)
            s fun d =>
          d.rd (CH_TX_AMP_CODE n.val) = c ∧ d.rd (CH_TX_STATUS_AMP_PENDING n.val) = b2n (decide (powerOf c0 < q)) ∧
          (d.chan n.val).field.next = some (if powerOf c0 < q then c0 else c) ∧ d.mem = s.dev.mem) ∧
        (∀ g, q ≤ (s.dev.decl n.val).maxPower → s.dev.fieldGrant n.val = some g → (s.dev.chan n.val).field.next = none → c ≠ 0 →
          (q ≤ powerOf (s.dev.rd (CH_TX_STATUS_ACTIVE_CODE n.val)) → Completes (.txAmpWrite p n w fr) s fun d =>
            d.rd (CH_TX_AMP_CODE n.val) = c ∧ d.rd (CH_TX_STATUS_ACTIVE_CODE n.val) = c ∧ d.rd (CH_TX_STATUS_AMP_PENDING n.val) = 0 ∧
            d.ts.grants = (s.dev.ts.grants.map fun x => if x = g then { x with power := q } else x) ∧ d.chans = s.dev.chans ∧ d.mem = s.dev.mem) ∧
          (powerOf (s.dev.rd (CH_TX_STATUS_ACTIVE_CODE n.val)) < q → Completes (.txAmpWrite p n w fr) s fun d =>
            d.rd (CH_TX_AMP_CODE n.val) = c ∧ d.rd (CH_TX_STATUS_ACTIVE_CODE n.val) = s.dev.rd (CH_TX_STATUS_ACTIVE_CODE n.val) ∧
            d.rd (CH_TX_STATUS_AMP_PENDING n.val) = 1 ∧ d.chans = s.dev.chans ∧ d.mem = s.dev.mem)))

/-- The field of a channel rises (R104, R108, R109, R112, R123, R151): supply, ramp (with RAMP_ON 0 in one step), guard, load measurement,
and the ramp of an RF reset. Of the registers, only HEADROOM and HEADROOM_SEEN follow the ramp's start.
And: The field of a channel goes (R106, R108 to R110, R112, R118): the field end point and a release ramp it down, where RAMP_OFF is not 0,
and the end of the ramp clamps it, from which TAIL counts. -/
def Obligations.FieldRisesAndGoes : Prop :=
  (∀ (s : State) (n : Fin 24), s.dev.coreRuns = true →
      ((s.dev.chan n.val).field.st = .supply → (s.dev.chan n.val).field.boundary = true → s.dev.rd (CH_TX_RAMP_RAMP_ON n.val) ≠ 0 →
        Completes (.supplySettled n) s fun d =>
        (d.chan n.val).field.st = .rampUp ∧ (d.chan n.val).field.settled = true ∧
        s.dev.Keeps [.regs, .chans, .out] [.one (CH_TX_STATUS_HEADROOM n.val).bit, .one (CH_TX_STATUS_HEADROOM_SEEN n.val).bit] d) ∧
      ((s.dev.chan n.val).field.st = .supply → (s.dev.chan n.val).field.boundary = true → s.dev.rd (CH_TX_RAMP_RAMP_ON n.val) = 0 →
        s.dev.rd (CH_TX_GUARD_GUARD n.val) ≠ 0 → (s.dev.chan n.val).job = none → (s.dev.chan n.val).exch = none → Completes (.supplySettled n) s fun d =>
        (d.chan n.val).field.st = .on ∧ (d.chan n.val).field.guard = false ∧
        s.dev.Keeps [.regs, .chans, .out] [.one (CH_TX_STATUS_HEADROOM n.val).bit, .one (CH_TX_STATUS_HEADROOM_SEEN n.val).bit] d) ∧
      ((s.dev.chan n.val).field.st = .supply → (s.dev.chan n.val).field.boundary = false → Completes (.supplySettled n) s fun d =>
        (d.chan n.val).field.st = .supply ∧ (d.chan n.val).field.settled = true ∧ d.regs = s.dev.regs ∧ d.mem = s.dev.mem) ∧
      ((s.dev.chan n.val).field.st = .rampUp → (s.dev.chan n.val).field.guard = false → s.dev.rd (CH_TX_GUARD_GUARD n.val) ≠ 0 →
        (s.dev.chan n.val).job = none → (s.dev.chan n.val).exch = none → Completes (.rampUpDone n) s fun d =>
        (d.chan n.val).field.st = .on ∧ d.regs = s.dev.regs ∧ d.mem = s.dev.mem) ∧
      ((s.dev.chan n.val).field.st = .rampUp → (s.dev.chan n.val).field.guard = false → Completes (.guardExpiry n) s fun d =>
        (d.chan n.val).field.guard = true ∧ (d.chan n.val).nextRef = 3 ∧ d.regs = s.dev.regs ∧ d.mem = s.dev.mem) ∧
      (∀ (mag : Fin 4096) (phase level cp : Byte), (s.dev.chan n.val).field.st = .on → (s.dev.chan n.val).field.measured = false →
        Completes (.loadMeasurementDone n mag phase level cp) s fun d =>
        d.rd (CH_TX_LOAD_MAG n.val) = mag.val ∧ d.rd (CH_TX_LOAD_PHASE n.val) = phase.toNat ∧ d.rd (CH_TX_LOAD_STALE n.val) = 0 ∧
        d.rd (CH_RX_CARRIER_LEVEL n.val) = level.toNat ∧ d.rd (CH_RX_CARRIER_OWN n.val) = 1 ∧ d.mem = s.dev.mem) ∧
      ((s.dev.chan n.val).field.st = .resetOff → (s.dev.grantNow n.val).isSome = true → s.dev.rd (CH_TX_RAMP_RAMP_ON n.val) ≠ 0 →
        Completes (.rfResetOffExpiry n) s fun d =>
        (d.chan n.val).field.st = .rampUp ∧ (d.chan n.val).field.guard = false ∧
        s.dev.Keeps [.regs, .chans, .out] [.one (CH_TX_STATUS_HEADROOM n.val).bit, .one (CH_TX_STATUS_HEADROOM_SEEN n.val).bit] d)) ∧
  (∀ (s : State) (n : Fin 24),
      (∀ g fr, s.dev.coreRuns = true → s.dev.fieldGrant n.val = some g → g.isOpen = false → g.start + g.slots ≤ s.dev.nextBoundary →
        (s.dev.chan n.val).field.st = .on → s.dev.rd (CH_TX_RAMP_RAMP_OFF n.val) ≠ 0 → Completes (.fieldEndPoint n fr) s fun d =>
        (d.chan n.val).field.st = .rampDown ∧ d.mem = s.dev.mem) ∧
      (∀ g fr, s.dev.fieldGrant n.val = some g → g.owner = .pontoon → (s.dev.chan n.val).field.st = .on → s.dev.rd (CH_TX_RAMP_RAMP_OFF n.val) ≠ 0 →
        Completes (.grantRelease n fr) s fun d =>
        (d.chan n.val).field.st = .rampDown ∧ d.mem = s.dev.mem) ∧
      ((s.dev.chan n.val).field.st = .rampDown → (s.dev.chan n.val).field.next = none → Completes (.rampDownDone n) s fun d =>
        (d.chan n.val).field.st = .off ∧ (d.chan n.val).field.offAt = some s.dev.ns ∧
        s.dev.Keeps [.regs, .chans, .out] [.one (CH_TX_STATUS_HEADROOM n.val).bit] d ∧ d.rd (CH_TX_STATUS_HEADROOM n.val) = 0) ∧
      ((s.dev.chan n.val).field.st = .resetDown → (s.dev.chan n.val).field.thenOff = false → Completes (.rampDownDone n) s fun d =>
        (d.chan n.val).field.st = .resetOff ∧ (d.chan n.val).field.offAt = some s.dev.ns ∧
        s.dev.Keeps [.regs, .chans, .out] [.one (CH_TX_STATUS_HEADROOM n.val).bit] d ∧ d.rd (CH_TX_STATUS_HEADROOM n.val) = 0))

/-- Requests, confirmation and ends of grants (R110, R118, R122, R218 to R223, R499). -/
def Obligations.GrantsAreRequestedAndEnd : Prop :=
  ∀ s : State,
    (∀ (p : Path) (w : Word), s.dev.reaches p 0x38000 = true →
      (s.dev.ts.asm.find? (·.1 = p) = none → Completes (.grantRequest p w) s fun d =>
        d.ts.asm = s.dev.ts.asm ++ [(p, w)] ∧ d.regs = s.dev.regs ∧ d.mem = s.dev.mem) ∧
      (∀ w0 : Word, s.dev.ts.asm.find? (·.1 = p) = some (p, w0) →
        let r : GrantReq := { owner := .firmware (bits w.toNat 15 0), ch := bits w0.toNat 31 27, coil := bits w0.toNat 26 21, slots := bits w0.toNat 7 0,
                              handover := bit w0.toNat 20, partner := bits w.toNat 26 16, waited := 0, urgent := false }
        r.ch < 24 → s.dev.fwRequests < 16 → s.dev.reader r.ch = true → r.coil < s.dev.coils r.ch → (r.handover = true → r.slots ≤ 8 ∧ s.dev.berthExists
            r.partner = true) → r.slots ≠ 0 →
        s.dev.excluded (berthOf r.ch r.coil) = false → Completes (.grantRequest p w) s fun d =>
          d.ts.reqs = s.dev.ts.reqs ++ [r] ∧ d.ts.asm = s.dev.ts.asm.filter (·.1 ≠ p) ∧ d.regs = s.dev.regs ∧ d.mem = s.dev.mem)) ∧
    (Completes .requestUrgent s fun d =>
      d.ts.reqs = s.dev.ts.reqs.map (fun r => { r with urgent := r.urgent || (decide (0 < s.dev.rd TS_CFG_AGE) && decide (s.dev.rd TS_CFG_AGE ≤ r.waited)) }) ∧
      d.regs = s.dev.regs ∧ d.mem = s.dev.mem) ∧
    (∀ (m : Nat) (e : Dev), s.dev.coreRuns = true → m = s.dev.boundaryAfterLead 150 → e = ({ s.dev with out := [] } : Dev).reach (m * 1000000 - 150000) →
      e.grantsAllowed = true → e.surveying = false → Completes .confirmationPoint s fun d =>
        d = ((e.ts.reqs.filter fun r => match r.owner with | .emulation _ => true | _ => false)
          ++ (e.ts.reqs.filter fun r => match r.owner with | .emulation _ => false | _ => true)).foldl (consider m) e ∧ d.mem = s.dev.mem) ∧
    (∀ (g : Fin 6) (lead m : Nat) (e : Dev), s.dev.applied = true → lead = s.dev.rd (CH_SEL_CFG_LEAD (4 * g.val)) → m = s.dev.boundaryAfterLead lead →
      e = ({ s.dev with out := [] } : Dev).reach (m * 1000000 - lead * 1000) → e.frameDue g.val m = true → Completes (.selectFrame g) s fun d =>
        d = ({ e with ts := { e.ts with selInit := e.ts.selInit.filter (·.1 ≠ g.val) } } : Dev).each (upTo 4)
          (fun j => selectOne (e.ts.selInit.contains (g.val, m)) (4 * 2 ^ e.rd (CH_SEL_CFG_SELDIV (4 * g.val))) m (4 * g.val + j)) ∧ d.mem = s.dev.mem) ∧
    (∀ (n : Fin 24) (g : Grant), s.dev.grantNow n.val = some g → g.isOpen = false → Completes (.grantEnd n) s fun d =>
      d = rampInOne n.val (followListeners (endGrants (({ s.dev with out := [] } : Dev).reach ((g.start + g.slots) * 1000000)))) ∧ d.mem = s.dev.mem)

/-! RF channels: reception, and the frame sequencer (06_receive.md, 07_framing_timing.md). -/

/-- The receiver opens, judges and ends frames (R130, R135, R136, R138, R140 to R142): a correlation counts at or above the threshold and
outside blanking, and below or within them it is none.
And: The channel's measurements and the equaliser's seeds (R143, R147, R150 to R152, R156). -/
def Obligations.Reception : Prop :=
  (∀ (s : State) (n : Fin 24),
      (∀ (level floor : Byte) (oct : Fin 8) (at_ : Nat) (look : List Word) (fr : RxFrame),
        s.dev.overThreshold n.val level.toNat floor.toNat = false ∨ s.dev.blanked n.val at_ = true → Completes (.correlation n level floor oct at_ look fr)
            s fun d =>
        d.regs = s.dev.regs ∧ d.chans = s.dev.chans ∧ d.mem = s.dev.mem) ∧
      (∀ (level floor : Byte) (oct : Fin 8) (at_ : Nat) (look : List Word) (fr : RxFrame), s.dev.coreRuns = true →
        s.dev.overThreshold n.val level.toNat floor.toNat = true → s.dev.blanked n.val at_ = false →
        (∀ e, (s.dev.chan n.val).exch = some e → s.dev.rd (CH_RX_STATUS_STATE n.val) = 1 → (s.dev.chan n.val).rx.armed = true →
          (∀ dl, e.deadline = some dl → at_ ≤ dl) → Completes (.correlation n level floor oct at_ look fr) s fun d =>
          d.rd (CH_RX_STATUS_STATE n.val) = 2 ∧ d.rd (CH_FT_STATUS_SEQ n.val) = 5 ∧
          (d.chan n.val).rx.cur = { level := level.toNat, oct := oct.val, stamp := s.dev.stamp } ∧ (d.chan n.val).rx.frame = none ∧ (d.chan n.val).rx.look =
              look ∧ d.mem = s.dev.mem) ∧
        (∀ e, (s.dev.chan n.val).exch = some e → s.dev.rd (CH_RX_STATUS_STATE n.val) = 2 → (s.dev.chan n.val).rx.aged = false →
          (∀ dl, e.deadline = some dl → at_ ≤ dl) →
          (level.toNat + 6 ≤ (s.dev.chan n.val).rx.cur.level → Completes (.correlation n level floor oct at_ look fr) s fun d =>
            d.rd (CH_RX_STATUS_STATE n.val) = 4 ∧ (d.chan n.val).rx.cur.level = level.toNat ∧
            d.rd (CH_STATS_FALSE_SOF n.val) = min (s.dev.rd (CH_STATS_FALSE_SOF n.val) + 1) 255 ∧ d.mem = s.dev.mem) ∧
          ((s.dev.chan n.val).rx.cur.level < level.toNat + 6 → Completes (.correlation n level floor oct at_ look fr) s fun d =>
            d.rd (CH_RX_STATUS_STATE n.val) = 2 ∧ d.rd (CH_RX_STATUS_INTERF_SEEN n.val) = 1 ∧
            (d.chan n.val).rx.interf = (s.dev.chan n.val).rx.interf ++ [(fr.bits.length, none)] ∧ d.mem = s.dev.mem))) ∧
      (s.dev.rd (CH_RX_STATUS_STATE n.val) = 2 → Completes (.rxEarlyWindowEnd n) s fun d =>
        d.rd (CH_RX_STATUS_STATE n.val) = 3 ∧ (d.chan n.val).rx.aged = true ∧ d.mem = s.dev.mem) ∧
      (s.dev.rd (CH_RX_STATUS_STATE n.val) = 4 → Completes (.replayCatchUp n) s fun d =>
        d.rd (CH_RX_STATUS_STATE n.val) = (if (s.dev.chan n.val).rx.ended then 5 else if (s.dev.chan n.val).rx.aged then 3 else 2) ∧
        d.chans = s.dev.chans ∧ d.mem = s.dev.mem) ∧
      (∀ b, s.dev.rd (CH_RX_STATUS_STATE n.val) ∈ [2, 3, 4] → Completes (.interferenceEnd n b) s fun d =>
        (d.chan n.val).rx.interf = closeSpan b (s.dev.chan n.val).rx.interf ∧ d.regs = s.dev.regs ∧ d.mem = s.dev.mem) ∧
      (s.dev.rd (CH_RX_STATUS_STATE n.val) ∈ [2, 3, 4] → (s.dev.chan n.val).rx.overload = false → Completes (.adcOverload n) s fun d =>
        (d.chan n.val).rx.overload = true ∧ d.rd (CH_RX_STATUS_OVERLOAD_SEEN n.val) = 1 ∧ d.mem = s.dev.mem) ∧
      (∀ fr, s.dev.coreRuns = true → s.dev.rd (CH_RX_STATUS_STATE n.val) = 2 ∨ s.dev.rd (CH_RX_STATUS_STATE n.val) = 3 →
        (s.dev.chan n.val).rx.ended = false → Completes (.endOfFrame n fr) s fun d =>
        d.rd (CH_RX_STATUS_STATE n.val) = 5 ∧ (d.chan n.val).rx.frame = some fr ∧ (d.chan n.val).rx.ended = true ∧ d.mem = s.dev.mem)) ∧
  (∀ (s : State) (n : Fin 24),
      (∀ level : Byte, s.dev.coreRuns = true → (s.dev.chan n.val).field.lit = false → s.dev.on (CH_SEL_STATUS_ON n.val) = true →
        s.dev.rd PW_STATE_CUR ≠ 2 → Completes (.foreignCarrierMeasurement n level) s fun d =>
        d.rd (CH_RX_CARRIER_LEVEL n.val) = level.toNat ∧ d.rd (CH_RX_CARRIER_OWN n.val) = 0 ∧ d.rd (CH_RX_CARRIER_STALE n.val) = 0 ∧
        d.rd (CH_RX_STATUS_FOREIGN n.val) = (if level.toNat < 106 then 1 else 0) ∧ d.chans = s.dev.chans ∧ d.mem = s.dev.mem) ∧
      (∀ (l : Fin 24) (amp phase : Byte) below g x w, s.dev.grantNow n.val = some g → (s.dev.chan n.val).rx.window = some w →
        g.listeners.find? (·.ch = l.val) = some x → s.dev.selected l.val = x.coil → s.dev.on (CH_SEL_STATUS_ON l.val) = true → s.dev.ms < x.until_ →
        (s.dev.reader l.val = true → s.dev.rd (CH_RX_STATUS_STATE l.val) = 6) → Completes (.listenerMeasurement n l amp phase below) s fun d =>
        (d.chan n.val).terms = (s.dev.chan n.val).terms.filter (·.1 ≠ l.val) ++ [(l.val, x.coil, amp.toNat, phase.toNat, below)] ∧
        (d.chan n.val).termsAt = w ∧ d.regs = s.dev.regs ∧ d.mem = s.dev.mem) ∧
      (∀ p, s.dev.reaches p (0x40000 + n.val * 0x2000) = true →
        (s.dev.rd (CH_RX_STATUS_STATE n.val) < 2 → Completes (.seedClr p n) s fun d =>
          (d.chan n.val).rx.seeds = [] ∧ d.regs = s.dev.regs ∧ d.mem = s.dev.mem) ∧
        (2 ≤ s.dev.rd (CH_RX_STATUS_STATE n.val) → s.dev.rd (CH_RX_STATUS_STATE n.val) ≤ 5 → Completes (.seedClr p n) s fun d =>
          (d.chan n.val).rx.clearSeeds = true ∧ d.rd (CH_EQ_CFG_SEED_CLR n.val) = 1 ∧ d.mem = s.dev.mem)))

/-- The frame sequencer (R163, R164, R167, R168, R170, R174, R175): placement, a late frame (only one that waits for data can be late), the end
of a command, the reply deadline (at which a write-alternative request goes on with its EOF), the verdict, and the end of SFGT. The response
time of another NFC-F command is a free value (assumption 7). -/
def Obligations.SequencerRunsExchanges : Prop :=
  ∀ (s : State) (n : Fin 24), s.dev.coreRuns = true →
    (∀ e, (s.dev.chan n.val).exch = some e → lostSession (s.dev.chan n.val) = none → s.dev.rd (CH_FT_STATUS_SEQ n.val) = 2 →
      (e.late = false → ∀ ready, (ready || !(s.dev.chan n.val).mayBeLate e) = true → Completes (.placementPoint n ready true) s fun d =>
        d.rd (CH_FT_STATUS_SEQ n.val) = 3 ∧ (e.frame.cls ≠ .none → (d.chan n.val).rx.armed = true) ∧ d.mem = s.dev.mem) ∧
      (e.late = false → (s.dev.chan n.val).mayBeLate e = true → ∀ fits, Completes (.placementPoint n false fits) s fun d =>
        d.rd (CH_FT_STATUS_SEQ n.val) = 2 ∧ (d.chan n.val).exch = some { e with late := true } ∧ d.regs = s.dev.regs ∧ d.mem = s.dev.mem) ∧
      (e.late = true → ∀ lo, Completes (.frameReady n lo true) s fun d =>
        d.rd (CH_FT_STATUS_SEQ n.val) = 3 ∧ d.rd (CH_FT_STATUS_LATE_SEEN n.val) = 1 ∧
        (e.frame.cls ≠ .none → (d.chan n.val).rx.armed = true) ∧ d.mem = s.dev.mem)) ∧
    (∀ e, (s.dev.chan n.val).exch = some e → s.dev.rd (CH_FT_STATUS_SEQ n.val) = 3 → e.withdrawn = false → e.frame.cls ≠ .none →
      (e.frame.cls ≠ .fOther → Completes (.commandEnd n) s fun d =>
        d.rd (CH_FT_STATUS_SEQ n.val) = 4 ∧
        (d.chan n.val).exch = some { e with deadline := deadlineOct e.frame (s.dev.rd (CH_FT_WIN_LATE_TOL n.val)) (s.dev.fwiOf n.val e.ctx) e.wtxm } ∧
        d.mem = s.dev.mem) ∧
      (e.frame.cls = .fOther → Completes (.commandEnd n) s fun d =>
        d.rd (CH_FT_STATUS_SEQ n.val) = 4 ∧
        (∃ t, (d.chan n.val).exch = some { e with deadline := deadlineOct e.frame (s.dev.rd (CH_FT_WIN_LATE_TOL n.val)) (s.dev.fwiOf n.val e.ctx) t }) ∧
        d.mem = s.dev.mem)) ∧
    (∀ e, (s.dev.chan n.val).exch = some e → s.dev.rd (CH_FT_STATUS_SEQ n.val) = 4 → s.dev.rd (CH_RX_STATUS_STATE n.val) = 1 →
      (s.dev.chan n.val).heard = false →
      (e.eofDue = false → Completes (.replyDeadline n) s fun d =>
        d.rd (CH_FT_LAST_REF n.val) = e.ref % 4 ∧ d.rd (CH_FT_LAST_DELAY n.val) = 0 ∧
        d.rd (CH_FT_LASTX_WORD n.val) = (exchangeWord e false 0 false 0).toNat ∧ d.mem = s.dev.mem) ∧
      (e.eofDue = true → Completes (.replyDeadline n) s fun d =>
        (d.chan n.val).exch = some { e with frame := fEof, ref := 1, sent := false, late := false, lateOct := 0, deadline := none } ∧
        (d.chan n.val).nextRef = 1 ∧ d.mem = s.dev.mem)) ∧
    (∀ e fr, (s.dev.chan n.val).rx.frame = some fr → (s.dev.chan n.val).exch = some e → s.dev.rd (CH_RX_STATUS_STATE n.val) = 5 →
      s.dev.rd (CH_FT_STATUS_SEQ n.val) = 5 → Completes (.verdictDelivered n) s fun d =>
        d.rd (CH_RX_FRAMES_COUNT n.val) = (s.dev.rd (CH_RX_FRAMES_COUNT n.val) + 1) % 2 ^ 64 ∧ d.rd (CH_FT_LAST_REF n.val) = e.ref % 4 ∧
        d.rd (CH_FT_LAST_DELAY n.val) = min fr.delay 0x3FFFFFFF ∧ d.mem = s.dev.mem) ∧
    (∀ (k : Fin 8) e, ((s.dev.chan n.val).context k.val).sfgt = true → (s.dev.chan n.val).building.any (·.sfgt) = false → (s.dev.chan n.val).exch = some e →
        e.ctx = k.val → e.sent = false →
      (s.dev.chan n.val).field.st = .on → (s.dev.chan n.val).field.guard = true → Completes (.sfgtExpiry n k) s fun d =>
        ((d.chan n.val).context k.val).sfgt = false ∧ (d.chan n.val).nextRef = 3 ∧ d.rd (CH_FT_STATUS_SEQ n.val) = 2 ∧ d.mem = s.dev.mem)

/-! The Pontoons' commands (08_inventory.md, 10_secure_sessions.md). -/

/-- Words written to CHn_PCMD (R183): collected per path; a complete command enters the queue, and one that finds it full is discarded with
OVERFLOW. -/
def Obligations.CommandWords : Prop :=
  ∀ (s : State) (p : Path) (n : Fin 24) (w : Word), s.dev.reaches p (0x40000 + n.val * 0x2000) = true →
    let c := s.dev.chan n.val
    let rest := c.asm.filter (·.1 ≠ p)
    ∀ ws left, (c.asm.find? (·.1 = p)).getD (p, [], 0) = (p, ws, left) →
      let len := bits (wordAt (ws ++ [w]) 0) 23 16
      (left ≠ 0 → Completes (.pcmdWord p n w) s fun d =>
        (d.chan n.val).asm = (if left = 1 then rest else rest ++ [(p, [], left - 1)]) ∧ (d.chan n.val).queue = c.queue ∧ d.regs = s.dev.regs ∧ d.mem =
            s.dev.mem) ∧
      (left = 0 → c.queue.length < 16 → c.queueWords + 1 + len ≤ 1024 → ws.length < len → Completes (.pcmdWord p n w) s fun d =>
        (d.chan n.val).asm = rest ++ [(p, ws ++ [w], 0)] ∧ (d.chan n.val).queue = c.queue ∧ d.regs = s.dev.regs ∧ d.mem = s.dev.mem) ∧
      (left = 0 → c.queue.length < 16 → c.queueWords + 1 + len ≤ 1024 → len ≤ ws.length → c.job.isSome = true → Completes (.pcmdWord p n w) s fun d =>
        (d.chan n.val).asm = rest ∧
        (d.chan n.val).queue = c.queue ++
            [{ opcode := bits (wordAt (ws ++ [w]) 0) 31 24, tag := bits (wordAt (ws ++ [w]) 0) 15 0, args := (ws ++ [w]).drop 1 }] ∧
        d.regs = s.dev.regs ∧ d.mem = s.dev.mem) ∧
      (left = 0 → ws = [] → 16 ≤ c.queue.length ∨ 1024 < c.queueWords + 1 + len → Completes (.pcmdWord p n w) s fun d =>
        d.rd (CH_PCMD_STATUS_OVERFLOW n.val) = 1 ∧ (d.chan n.val).queue = c.queue ∧ d.mem = s.dev.mem)

/-- INVENTORY and RF_RESET (R112, R180, R184): a round asks for its grant; a reset of the field runs from ON and ends every session, and waits
otherwise. -/
def Obligations.RoundAndResetCommands : Prop :=
  ∀ (s : State) (n : Fin 24) (cmd : PCmd) (rest : List PCmd),
    (s.dev.Heads n.val 1 cmd rest →
      ∀ proto coil, proto = bits cmd.w1 31 28 → coil = bits cmd.w1 27 22 → 1 ≤ proto → proto ≤ 4 → coil < s.dev.coils n.val →
      (proto = 3 → bits (wordAt cmd.args 1) 21 16 ≤ 60) → bits cmd.w1 15 8 ≠ 0 → bits cmd.w1 7 0 ≠ 0 →
      bit (s.dev.decl n.val).protocols (proto - 1) = true → Completes (.inventory n) s fun d =>
        (d.chan n.val).queue = rest ∧
        (∃ i, (d.chan n.val).job = some (.inv i) ∧ i.step = .grant ∧ i.proto = proto ∧ i.coil = coil ∧ i.limit = bits cmd.w1 15 8 ∧ i.tag = cmd.tag) ∧
        d.ts.reqs = s.dev.ts.reqs ++ [{ owner := .pontoon, ch := n.val, coil := coil, slots := bits cmd.w1 7 0, handover := false, partner := 0, waited := 0,
                                        urgent := false }] ∧ d.mem = s.dev.mem) ∧
    (s.dev.Heads n.val 7 cmd rest → (s.dev.chan n.val).field.st = .on → Completes (.rfReset n) s fun d =>
        (d.chan n.val).queue = rest ∧ (d.chan n.val).field.guard = false ∧
        (d.chan n.val).field.st = (if s.dev.rd (CH_TX_RAMP_RAMP_OFF n.val) = 0 then .resetOff else .resetDown) ∧
        (∀ k, k < 8 → ((d.chan n.val).context k).st = 0) ∧ d.mem = s.dev.mem) ∧
    (s.dev.Heads n.val 7 cmd rest → (s.dev.chan n.val).field.st ≠ .on → Completes (.rfReset n) s fun d =>
        (d.chan n.val).queue = rest ∧ (d.chan n.val).field = (s.dev.chan n.val).field ∧
        (d.chan n.val).job = some (.cmd (mkCmd cmd 15 Ctx.free .rfReset)) ∧ d.regs = s.dev.regs ∧ d.mem = s.dev.mem)

/-- ACTIVATE, EXCHANGE, HALT and RELEASE of a session (R180, R182, R184, R196): the frame that each posts; RELEASE frees the context with no
frame. -/
def Obligations.SessionCommands : Prop :=
  ∀ (s : State) (n : Fin 24) (cmd : PCmd) (rest : List PCmd) (k : Nat) (c : Ctx),
    k = bits cmd.w1 31 28 → k < 8 → c = (s.dev.chan n.val).context k → c.leaving = false →
    (s.dev.Heads n.val 2 cmd rest → c.st = 1 ∨ c.st = 4 → bits cmd.w1 7 4 ≤ 8 → bits cmd.w1 3 0 ≤ 6 →
      (c.proto = 1 → (∀ j, j < 8 → ((s.dev.chan n.val).context j).st ≠ 2) → Completes (.activate n) s fun d =>
        d.Posts n.val k (fReqa true) ∧ (d.chan n.val).queue = rest ∧ d.mem = s.dev.mem) ∧
      (c.proto = 1 → ((s.dev.chan n.val).context 0).proto = 1 → ((s.dev.chan n.val).context 0).st = 2 → Completes (.activate n) s fun d =>
        d.Posts n.val k fHlta ∧ (d.chan n.val).queue = rest ∧ d.mem = s.dev.mem) ∧
      (c.proto = 2 → Completes (.activate n) s fun d => d.Posts n.val k (fReqb true 0 1) ∧ (d.chan n.val).queue = rest ∧ d.mem = s.dev.mem) ∧
      (c.proto = 3 → Completes (.activate n) s fun d => d.Posts n.val k (fVSelect c.id) ∧ (d.chan n.val).queue = rest ∧ d.mem = s.dev.mem)) ∧
    (s.dev.Heads n.val 3 cmd rest → bits cmd.w1 15 0 ≠ 0 →
      ∀ data, data = (wordsToBytes (cmd.args.drop 1)).take (bits cmd.w1 15 0) →
      (c.st = 2 → bit cmd.w1 27 = true → Completes (.exchange n) s fun d =>
        d.Posts n.val k (fRaw c data) ∧ (d.chan n.val).queue = rest ∧ d.mem = s.dev.mem) ∧
      (c.st = 3 → bit cmd.w1 27 = false → Completes (.exchange n) s fun d =>
        d.Posts n.val k (firstBlock c data) ∧ (d.chan n.val).queue = rest ∧ d.mem = s.dev.mem)) ∧
    (s.dev.Heads n.val 4 cmd rest →
      (c.st = 3 → Completes (.halt n) s fun d => d.Posts n.val k (blockFrame c .deselect) ∧ (d.chan n.val).queue = rest ∧ d.mem = s.dev.mem) ∧
      (c.st = 2 → c.proto = 1 → Completes (.halt n) s fun d => d.Posts n.val k fHlta ∧ (d.chan n.val).queue = rest ∧ d.mem = s.dev.mem) ∧
      (c.st = 2 → c.proto = 3 → Completes (.halt n) s fun d => d.Posts n.val k (fQuiet c.id) ∧ (d.chan n.val).queue = rest ∧ d.mem = s.dev.mem)) ∧
    (s.dev.Heads n.val 5 cmd rest → 1 ≤ c.st → c.st ≤ 5 → (∀ x xs, rest = x :: xs → x.valid = true) → Completes (.release n) s fun d =>
      (d.chan n.val).context k = Ctx.free ∧ (d.chan n.val).exch = (s.dev.chan n.val).exch ∧ (d.chan n.val).job = none ∧ (d.chan n.val).queue = rest ∧ d.mem
          = s.dev.mem)

/-- MIGRATE of a session that is not in ACTIVE_4 (R200, R201): it passes to the target's lowest free context with GEN + 1, and the old
placement is FREE; a MIGRATE that is refused changes no context.
And: CANCEL takes the named command out of the queue while another runs (R184). -/
def Obligations.SessionsMigrateAndCommandsAreCancelled : Prop :=
  (∀ (s : State) (n : Fin 24) (cmd : PCmd) (rest : List PCmd) (k t j : Nat) (c : Ctx),
      (s.dev.chan n.val).migrateReady = some (cmd, rest) → s.dev.mayTake = true → (s.dev.chan n.val).job = none →
      k = bits cmd.w1 31 28 → k < 8 → t = bits cmd.w1 27 23 → c = (s.dev.chan n.val).context k →
      (migrateRefusal n.val k t c s.dev = none → (s.dev.chan t).freeCtx = some j → c.st ≠ 3 → Completes (.migrate n) s fun d =>
        (d.chan t).context j = { c with prev := c.st, gen := (c.gen + 1) % 256, coil := s.dev.selected t } ∧
        (d.chan n.val).context k = Ctx.free ∧ d.mem = s.dev.mem) ∧
      (migrateRefusal n.val k t c s.dev ≠ none → (∀ x xs, rest = x :: xs → x.valid = true) → Completes (.migrate n) s fun d =>
        (∀ i, (d.chan n.val).context i = (s.dev.chan n.val).context i) ∧ (d.chan n.val).queue = rest ∧ d.mem = s.dev.mem)) ∧
  (∀ (s : State) (n : Fin 24) (cmd x : PCmd) (rest left : List PCmd), s.dev.mayTake = true → (s.dev.chan n.val).job.isSome = true →
      takeFirst (fun c => c.opcode == 8 && c.valid) (s.dev.chan n.val).queue = some (cmd, rest) →
      takeFirst (·.tag == bits cmd.w1 15 0) rest = some (x, left) → Completes (.cancel n) s fun d =>
        (d.chan n.val).queue = left ∧ (d.chan n.val).job = (s.dev.chan n.val).job ∧ (d.chan n.val).exch = (s.dev.chan n.val).exch ∧ d.mem = s.dev.mem)

/-- AUTH, SM_EXCHANGE and SM_END (R247, R249, R251): the first pass, the wrapped APDU under the next counter, and the end of the session. -/
def Obligations.SecureSessionCommands : Prop :=
  ∀ (s : State) (n : Fin 24) (cmd : PCmd) (rest : List PCmd) (k : Nat) (c : Ctx),
    k = bits cmd.w1 31 28 → k < 8 → c = (s.dev.chan n.val).context k → c.leaving = false →
    (∀ key, s.dev.Heads n.val 0x10 cmd rest → c.st = 3 → s.dev.keySlot (bits cmd.w1 21 16) = some key → bit key.attr 0 = true →
      s.dev.loopsClosed = true → s.dev.entropy = true → Completes (.auth n) s fun d =>
        d.Posts n.val k (firstBlock c [byte (bits cmd.w1 7 0), 0x84, 0x00, 0x00, 0x10]) ∧ ((d.chan n.val).context k).sm = none ∧
        d.cy.requests = s.dev.cy.requests + 1 ∧ d.mem = s.dev.mem) ∧
    (∀ x, s.dev.Heads n.val 0x11 cmd rest → c.st = 3 → bits cmd.w1 15 0 ≤ 239 → bits (wordAt cmd.args 2) 8 0 ≤ 256 → c.sm = some x →
      x.c ≠ 0xFFFFFFFF → Completes (.smExchange n) s fun d =>
        d.Posts n.val k (firstBlock c (smWrap { x with c := x.c + 1 } (bits (wordAt cmd.args 1) 31 24) (bits (wordAt cmd.args 1) 23 16)
          (bits (wordAt cmd.args 1) 15 8) (bits (wordAt cmd.args 1) 7 0) (bits (wordAt cmd.args 2) 8 0)
          ((wordsToBytes (cmd.args.drop 3)).take (bits cmd.w1 15 0)))) ∧ (d.chan n.val).queue = rest ∧ d.mem = s.dev.mem) ∧
    (s.dev.Heads n.val 0x12 cmd rest → c.sm.isSome = true → (∀ x xs, rest = x :: xs → x.valid = true) → Completes (.smEnd n) s fun d =>
      (d.chan n.val).context k = { c with sm := none } ∧ (d.chan n.val).exch = (s.dev.chan n.val).exch ∧ d.mem = s.dev.mem)

/-! The slot boundary, surveys, attribution and card detection (09_survey_scheduling.md). -/

/-- A slot boundary (R18, R57, R216, R219, R220): the slot index and the budget are renewed, and waiting requests age. -/
def Obligations.SlotBoundaries : Prop :=
  ∀ s : State, s.dev.coreRuns = true → s.dev.ts.grants = [] → s.dev.rd TC_INC_INC ≠ 0 → Completes .slotBoundary s fun d =>
    s.dev.ms + 1 ≤ d.ms ∧ d.rd TS_STATUS_SLOT = d.slotIndex d.ms % 2 ^ 8 ∧
    d.rd PW_RF_BUDGET_BUDGET = budgetOf (s.dev.rd PW_RF_CAP_CAP) (s.dev.rd PW_THERM_THROTTLE) (toSigned 11 s.dev.power.temp) % 2 ^ 11 ∧
    d.ts.reqs = s.dev.ts.reqs.map GrantReq.age ∧ d.mem = s.dev.mem

/-- A survey starts, drains, measures and commits (R210 to R214): its states, its measurements and its end.
And: Surveys across devices (R211, R215): the proposal at the peer, the start slot, the peer's values and their return, and the lost peer. -/
def Obligations.SurveysRun : Prop :=
  (∀ s : State,
      (∀ (p : Path) (w : Word), s.dev.reaches p 0x38000 = true → bits w.toNat 9 0 ≠ 0 → bits w.toNat 13 10 ≠ 0 → bit w.toNat 29 = false →
        s.dev.on TS_SURVEY_GO = false → s.dev.surveying = false → s.dev.rd PW_STATE_CUR = 1 → s.dev.engine = true →
        (s.dev.readerBerths.any fun b => decide ((s.dev.decl (b / 64)).maxPower < powerOf (bits w.toNat 9 0))) = false →
        Completes (.surveyGo p w) s fun d =>
          d.rd TS_STATUS_SURVEY = 1 ∧ d.rd TS_SURVEY_GO = 1 ∧ d.rd TS_SURVEY_CODE = bits w.toNat 9 0 ∧ d.rd TS_SURVEY_AVG = bits w.toNat 13 10 ∧
          d.ts.survey.sources = s.dev.readerBerths ∧ d.ts.tables = s.dev.ts.tables ∧ d.mem = s.dev.mem) ∧
      (∀ (p : Path) (w : Word), s.dev.reaches p 0x38000 = true → s.dev.surveying = true → (∀ g ∈ s.dev.ts.grants, g.owner ≠ .survey) →
        Completes (.surveyAbort p w) s fun d =>
          d.rd TS_STATUS_SURVEY = 0 ∧ d.rd TS_SURVEY_GO = 0 ∧ d.rd TS_SURVEY_ABORT = 0 ∧ d.rd TS_SURVEY_STATUS_CODE = cABORTED ∧
          d.ts.tables = s.dev.ts.tables ∧ d.rd TS_STATUS_NB_VALID = s.dev.rd TS_STATUS_NB_VALID ∧ d.mem = s.dev.mem) ∧
      (s.dev.rd TS_STATUS_SURVEY = 1 → s.dev.ts.grants = [] → Completes .surveyDrainDone s fun d =>
        d.rd TS_STATUS_SURVEY = (if s.dev.ts.survey.cross then 2 else 3) ∧ d.ts = s.dev.ts ∧ d.mem = s.dev.mem) ∧
      (∀ (n : Fin 24) (level phase floor : Byte), s.dev.listening n.val = true → level.toNat + 12 ≤ floor.toNat →
        (s.dev.ts.survey.pos = 1 → Completes (.surveyMeasurement n level phase floor) s fun d =>
          d.ts.survey.spoiled = true ∧ d.rd TS_SURVEY_STATUS_FOREIGN = 1 ∧ d.mem = s.dev.mem) ∧
        (2 ≤ s.dev.ts.survey.pos → s.dev.selected n.val = s.dev.ts.survey.pos - 2 → s.dev.on (CH_SEL_STATUS_ON n.val) = true →
          Completes (.surveyMeasurement n level phase floor) s fun d =>
          d.ts.survey.raw = s.dev.ts.survey.raw.filter (·.1 ≠ berthOf n.val (s.dev.ts.survey.pos - 2))
            ++ [(berthOf n.val (s.dev.ts.survey.pos - 2), level.toNat, phase.toNat)] ∧ d.regs = s.dev.regs ∧ d.mem = s.dev.mem)) ∧
      (s.dev.rd TS_STATUS_SURVEY = 5 → Completes .surveyCommit s fun d =>
        d.rd TS_STATUS_SURVEY = 0 ∧ d.rd TS_STATUS_NB_VALID = 1 ∧ d.rd TS_STATUS_NB_DIRTY = 1 ∧ d.rd TS_SURVEY_STATUS_CODE = cDONE ∧ d.mem = s.dev.mem)) ∧
  (∀ s : State,
      (∀ (peer : BitVec 12) startMs (code : Fin 1024) (avg : Fin 16) sources, s.dev.coreRuns = true → s.dev.on TS_STATUS_NB_VALID = true →
        s.dev.surveying = false → s.dev.on TS_SURVEY_GO = false → s.dev.on TS_CFG_XEN = true → s.dev.on TC_STATUS_HOLDOVER = false → s.dev.engine = true →
        Completes (.surveyProposal peer startMs code avg sources) s fun d =>
          d.rd TS_STATUS_SURVEY = 1 ∧ d.ts.survey.cross = true ∧ d.ts.survey.initiator = false ∧ d.ts.survey.peer = peer.toNat ∧
          d.ts.survey.sources = sources ∧ d.ts.survey.startMs = startMs ∧
          d.ts.outbox = s.dev.ts.outbox ++ [(peer.toNat, 2, [nw 0])] ∧ d.mem = s.dev.mem) ∧
      (∀ n : Fin 65, s.dev.rd TS_STATUS_SURVEY = 2 → Completes (.surveyStartSlot n) s fun d =>
        d.rd TS_STATUS_SURVEY = (if s.dev.ts.survey.initiator then 3 else 4) ∧ d.mem = s.dev.mem) ∧
      (∀ (level phase : Byte) b sp raw r, s.dev.rd TS_STATUS_SURVEY = 4 → s.dev.ts.survey.initiator = false → s.dev.ts.survey.closed = (b, sp, raw) :: r →
        (sp = false → Completes (.surveyBlockResult level phase false) s fun d =>
          d.rd TS_STATUS_SURVEY = (if s.dev.ts.survey.sources.isEmpty && r.isEmpty && (s.dev.ts.survey.again.isEmpty || s.dev.ts.survey.repeating) then 5
              else 4) ∧
          d.ts.survey.closed = r ∧
          d.ts.survey.values = s.dev.ts.survey.values ++ raw.map (fun x =>
            { src := b, dst := x.1, mag := min (x.2.1 - level.toNat) 255, phase := (x.2.2 + 256 - phase.toNat) % 256 }) ∧ d.mem = s.dev.mem) ∧
        (sp = true → s.dev.ts.survey.repeating = false → Completes (.surveyBlockResult level phase false) s fun d =>
          d.rd TS_STATUS_SURVEY = 4 ∧ d.ts.survey.again = s.dev.ts.survey.again ++ [b] ∧ d.ts.survey.values = s.dev.ts.survey.values ∧
          d.ts.outbox = s.dev.ts.outbox ++ [(s.dev.ts.survey.peer, 5, [nw b])] ∧ d.mem = s.dev.mem) ∧
        (Completes (.surveyBlockResult level phase true) s fun d =>
          d.rd TS_SURVEY_STATUS_MISSING = 1 ∧ d.ts.survey.values = s.dev.ts.survey.values ∧ d.mem = s.dev.mem)) ∧
      (∀ values : List SurveyValue, s.dev.rd TS_STATUS_SURVEY = 3 → s.dev.ts.survey.cross = true → s.dev.ts.survey.initiator = true →
        s.dev.ts.survey.sources = [] → s.dev.ts.survey.again = [] → Completes (.surveyResults values) s fun d =>
          d.rd TS_STATUS_SURVEY = 5 ∧ d.ts.survey.values = values.map (fun v => ⟨v.src, v.dst, v.mag, v.phase⟩) ∧ d.mem = s.dev.mem) ∧
      (s.dev.ts.survey.waiting = true → Completes .surveyPeerTimeout s fun d =>
        d.rd TS_STATUS_SURVEY = 0 ∧ d.rd TS_SURVEY_GO = 0 ∧ d.rd TS_SURVEY_STATUS_CODE = 0x11 ∧ d.ts.tables = s.dev.ts.tables ∧ d.mem = s.dev.mem))

/-- Card detection in Watch (R231, R232): a burst, and a sniff that is due: one that teaches, that deviates, and that trips its entry. A sniff
whose time has not come measures nothing.
And: COMMIT and CLEAR of the neighbour tables, and attribution (R210, R228, R229). -/
def Obligations.SniffsTablesAndAttribution : Prop :=
  (∀ s : State, s.dev.rd PW_STATE_CUR = 3 → s.dev.power.waking = false →
      (Completes .sniffBurst s fun d =>
        d.rd PW_WK_STATUS_RUN = 1 ∧ d.ts.burst = s.dev.wkEnabled.filter (fun e => !s.dev.excluded (s.dev.rd (PW_WK_ENT_BERTH e))) ∧ d.mem = s.dev.mem) ∧
      (∀ (e : Byte) (x : Fin 4096) t, s.dev.on (PW_WK_ENT_EN e.toNat) = true → s.dev.excluded (s.dev.rd (PW_WK_ENT_BERTH e.toNat)) = false →
        t = s.dev.detector e.toNat →
        (s.dev.sniffDue e.toNat = none → Completes (.sniff e x) s fun d => d.regs = s.dev.regs ∧ d.ts = s.dev.ts ∧ d.mem = s.dev.mem) ∧
        ∀ at_, s.dev.sniffDue e.toNat = some at_ →
        (t.learned < 3 → Completes (.sniff e x) s fun d =>
          d.detector e.toNat = { t with learned := t.learned + 1, baseline := t.baseline + x.val, streak := 0 } ∧
          (∃ u, d.ts.sniffed = some (s.dev.rd (PW_WK_ENT_BERTH e.toNat), s.dev.sniffCode (s.dev.rd (PW_WK_ENT_BERTH e.toNat) / 64), u)) ∧ d.mem = s.dev.mem) ∧
        (∀ dev, 4 ≤ t.learned → dev = (max ((x.val : Int) - t.baseline) (t.baseline - x.val)).toNat → s.dev.rd (PW_WK_ENT_THR e.toNat) ≤ dev →
          (t.streak + 1 < s.dev.rd PW_WK_CFG_CONFIRM → Completes (.sniff e x) s fun d =>
            d.detector e.toNat = { t with streak := t.streak + 1 } ∧ d.rd (PW_WK_ENT_LAST e.toNat) = min dev 255 ∧ d.mem = s.dev.mem) ∧
          (s.dev.rd PW_WK_CFG_CONFIRM ≤ t.streak + 1 → s.dev.on PW_WK_STATUS_LEARNING = false → s.dev.on (PW_WK_ENT_TRIPPED e.toNat) = false →
            Completes (.sniff e x) s fun d =>
            d.rd (PW_WK_ENT_TRIPPED e.toNat) = 1 ∧ d.rd PW_WK_STATUS_TRIP_SEEN = 1 ∧ d.mem = s.dev.mem)))) ∧
  (∀ s : State,
      (∀ (p : Path) (w : Word), s.dev.reaches p 0x38000 = true → s.dev.berthExists (bits w.toNat 10 0) = true → s.dev.surveying = false →
        (bit w.toNat 30 = false → Completes (.nbCommit p w) s fun d =>
          d.rd TS_STATUS_NB_VALID = 1 ∧ d.rd TS_NB_SEL_BERTH = bits w.toNat 10 0 ∧ d.ts = s.dev.ts ∧ d.mem = s.dev.mem) ∧
        (bit w.toNat 31 = false → Completes (.nbClear p w) s fun d =>
          d.rd TS_STATUS_NB_VALID = 0 ∧ d.rd TS_NB_SEL_BERTH = bits w.toNat 10 0 ∧ d.ts.tables = [] ∧ d.mem = s.dev.mem)) ∧
      (∀ n : Fin 24, s.dev.engine = true → (s.dev.chan n.val).clean = true → (s.dev.chan n.val).job = none → Completes (.attribution n) s fun d =>
        (d.chan n.val).attr = some (s.dev.attribute n.val (s.dev.rd (CH_RX_LEVEL_SB_AMP n.val)) (s.dev.rd (CH_RX_LEVEL_PHASE n.val))) ∧
        (d.chan n.val).terms = [] ∧ (d.chan n.val).clean = false ∧ d.regs = s.dev.regs ∧ d.mem = s.dev.mem))

/-! Crypto: key commands, fuse keys, tamper loops and entropy (10_secure_sessions.md). -/

/-- Key commands that fill a slot (R238, R239, R241, R243, R244): GENERATE, IMPORT_PLAIN, IMPORT_WRAPPED, LOAD_BLOB and ECDH_IMPORT into an empty
slot; what a key wrap or a signature refuses leaves the slot empty.
And: The key port, and key commands that read or empty a slot (R238, R239, R242 to R244). -/
def Obligations.KeyCommands : Prop :=
  (∀ (s : State) (p : Path) (slot : Fin 64) (len : Fin 4) (attr : Byte), s.dev.reaches p 0x30000 = true → s.dev.on CY_KSTATUS_BUSY = false →
      s.dev.cy.tamperAt ≠ some s.dev.time → len.val ≤ 2 → s.dev.loopsClosed = true → s.dev.keySlot slot.val = none →
      ∀ a bs, a = (⟨slot.val, 0, len.val, attr.toNat⟩ : KeyArgs) → bs = wordsToBytes s.dev.cy.inp →
        (headerOk attr.toNat len.val = true → s.dev.entropy = true → Completes (.generate p slot len attr) s fun d =>
          (∃ key, d.keySlot slot.val = some ⟨attr.toNat, len.val, 0, key⟩ ∧ key.length = keyBytes len.val) ∧
          d.rd CY_KSTATUS_DIRTY = 1 ∧ d.rd CY_KSTATUS_CODE = cDONE ∧ d.cy.inp = [] ∧ d.mem = s.dev.mem) ∧
        (∀ k, 10 ≤ s.dev.cy.inp.length → s.dev.rd GC_BOOT_KEYMODE = 2 → headerOk attr.toNat len.val = true → headerOk (u8At bs 1) (u8At bs 2) = true →
          (bs.drop 4).take 4 = zeros 4 → recordKey slot.val a bs = some k →
          Completes (.importPlain p slot len attr) s fun d =>
          d.keySlot slot.val = some k ∧ d.rd CY_KSTATUS_DIRTY = 1 ∧ d.rd CY_KSTATUS_CODE = cDONE ∧ d.cy.inp = [] ∧ d.mem = s.dev.mem) ∧
        (∀ (kek : Fin 64) key, 12 ≤ s.dev.cy.inp.length → headerOk attr.toNat len.val = true → s.dev.kekOf kek.val = .ok key → Completes (.importWrapped p
            slot kek len attr) s fun d =>
          d.cy.inp = [] ∧ d.mem = s.dev.mem ∧
          match (keyUnwrap key (bs.take 48)).bind (recordKey slot.val a) with
          | some k => d.keySlot slot.val = some k ∧ d.rd CY_KSTATUS_DIRTY = 1 ∧ d.rd CY_KSTATUS_CODE = cDONE
          | none => d.keySlot slot.val = none ∧ d.rd CY_KSTATUS_CODE = kUNWRAP) ∧
        (16 ≤ s.dev.cy.inp.length → headerOk attr.toNat len.val = true → Completes (.loadBlob p slot len attr) s fun d =>
          d.cy.inp = [] ∧ d.mem = s.dev.mem ∧
          match (keyUnwrap s.dev.rootKey ((bs.drop 8).take 48)).bind (fun r => if r.take 8 == bs.take 8 then recordKey slot.val a r else none) with
          | some k => d.keySlot slot.val = some k ∧ d.rd CY_KSTATUS_DIRTY = 1 ∧ d.rd CY_KSTATUS_CODE = cDONE
          | none => d.keySlot slot.val = none ∧ d.rd CY_KSTATUS_CODE = kUNWRAP) ∧
        (60 ≤ s.dev.cy.inp.length → headerOk attr.toNat len.val = true → Completes (.ecdhImport p slot len attr) s fun d =>
          d.cy.inp = [] ∧ d.cy.ecdh = none ∧ d.mem = s.dev.mem ∧
          match s.dev.openEnvelope bs with
          | .error c => d.keySlot slot.val = none ∧ d.rd CY_KSTATUS_CODE = c % 256
          | .ok r =>
            match recordKey slot.val a r with
            | some k => d.keySlot slot.val = some k ∧ d.rd CY_KSTATUS_DIRTY = 1 ∧ d.rd CY_KSTATUS_CODE = cDONE
            | none => d.keySlot slot.val = none ∧ d.rd CY_KSTATUS_CODE = kUNWRAP) ∧
        (headerOk attr.toNat len.val = false → ∀ kek : Fin 64,
          ∀ c ∈ [Instr.generate p slot len attr, .importWrapped p slot kek len attr, .loadBlob p slot len attr, .ecdhImport p slot len attr],
            Completes c s fun d => d.keySlot slot.val = none ∧ d.rd CY_KSTATUS_CODE = cRANGE ∧ d.cy.inp = [] ∧ d.mem = s.dev.mem)) ∧
  (∀ (s : State) (p : Path), s.dev.reaches p 0x30000 = true →
      (∀ w : Word, s.dev.cy.inp.length < 64 → Completes (.kdataWrite p w) s fun d =>
        d.cy.inp = s.dev.cy.inp ++ [w] ∧ d.regs = s.dev.regs ∧ d.mem = s.dev.mem) ∧
      (∀ w : Word, 64 ≤ s.dev.cy.inp.length → Completes (.kdataWrite p w) s fun d =>
        d.cy = s.dev.cy ∧ d.rd (ERR_RANGE 0x30000) = 1 ∧ d.mem = s.dev.mem) ∧
      (Completes (.kdataRead p) s fun d =>
        d.out = [s.dev.cy.outp.headD 0] ∧ d.cy.outp = s.dev.cy.outp.drop 1 ∧ d.mem = s.dev.mem) ∧
      (s.dev.on CY_KSTATUS_BUSY = false → s.dev.cy.tamperAt ≠ some s.dev.time → ∀ slot : Fin 64,
        (∀ k, s.dev.keySlot slot.val = some k →
          (Completes (.erase p slot) s fun d =>
            d.keySlot slot.val = none ∧ d.rd CY_KSTATUS_DIRTY = 1 ∧ d.rd CY_KSTATUS_CODE = cDONE ∧
            (∀ n j x, n < 24 → j < 8 → ((d.chan n).context j).sm = some x → x.slot ≠ slot.val) ∧ d.mem = s.dev.mem) ∧
          (Completes (.info p slot) s fun d =>
            d.cy.outp = bytesToWords (headerBytes slot.val k ++ (cmac k.key (zeros 16)).take 3) ∧ d.rd CY_KSTATUS_CODE = cDONE ∧
            d.cy.slots = s.dev.cy.slots ∧ d.mem = s.dev.mem) ∧
          (∀ (kek : Fin 64) key, s.dev.kekOf kek.val = .ok key → bit k.attr 7 = true → Completes (.exportWrapped p slot kek) s fun d =>
            d.cy.outp = bytesToWords (keyWrap key (keyRecord slot.val k)) ∧ d.rd CY_KSTATUS_CODE = cDONE ∧ d.cy.slots = s.dev.cy.slots ∧ d.mem = s.dev.mem) ∧
          (Completes (.saveBlob p slot) s fun d =>
            d.cy.outp = bytesToWords (s.dev.blob slot.val k) ∧ d.rd CY_KSTATUS_CODE = cDONE ∧ d.cy.slots = s.dev.cy.slots ∧ d.mem = s.dev.mem)) ∧
        (s.dev.entropy = true → Completes (.ecdhStart p) s fun d =>
          (∃ key, d.cy.ecdh = some key ∧ key.length = 32 ∧ d.cy.outp = bytesToWords (Config.p256Public key)) ∧ d.rd CY_KSTATUS_CODE = cDONE ∧ d.mem =
              s.dev.mem)))

/-- Burns of fuse keys (R245, R246): a request that passes its checks starts the burn, and the burn sets VALID or REVOKE, or damages its
target. -/
def Obligations.FuseKeyBurns : Prop :=
  ∀ s : State,
    (∀ (p : Path) bs, s.dev.reaches p 0x30000 = true → s.dev.on CY_KSTATUS_BUSY = false → s.dev.cy.tamperAt ≠ some s.dev.time →
      s.dev.on PW_STATUS_PFAIL = false → s.dev.cl.burn = none →
      bs = wordsToBytes s.dev.cy.inp →
      (11 ≤ s.dev.cy.inp.length → s.dev.rd GC_BOOT_KEYMODE = 2 → u8At bs 0 = 0x0B → u8At bs 1 < 4 → le16At bs 2 = 0 →
        (bs.drop 4).take 8 = s.dev.unitBytes → (s.dev.hashFuse (u8At bs 1)).valid = false → (s.dev.hashFuse (u8At bs 1)).damaged = false →
        Completes (.burnHash p) s fun d =>
        d.rd CY_KSTATUS_BUSY = 1 ∧ d.cy.burn = some { op := 0x0B, slot := u8At bs 1, data := (bs.drop 12).take 32 } ∧ d.fuses = s.dev.fuses ∧ d.mem =
            s.dev.mem) ∧
      (35 ≤ s.dev.cy.inp.length → u8At bs 0 = 0x0C → u8At bs 1 < 4 → le16At bs 2 = 0 → (bs.drop 4).take 8 = s.dev.unitBytes →
        (s.dev.hashFuse (u8At bs 1)).valid = true → (s.dev.hashFuse (u8At bs 1)).revoked = false →
        ((upTo 4).any fun k => k != u8At bs 1 && (s.dev.hashFuse k).valid && !(s.dev.hashFuse k).revoked) = true → Completes (.revokeHash p) s fun d =>
        d.fuses = s.dev.fuses ∧ d.mem = s.dev.mem ∧
        if s.dev.requestSigned bs 12 (some (u8At bs 1)) then
          d.rd CY_KSTATUS_BUSY = 1 ∧ d.cy.burn = some { op := 0x0C, slot := u8At bs 1, data := [] }
        else d.rd CY_KSTATUS_CODE = kSIGNATURE ∧ d.cy.burn = s.dev.cy.burn) ∧
      (60 ≤ s.dev.cy.inp.length → s.dev.fuses.mkey.valid = false → s.dev.fuses.mkey.damaged = false → Completes (.burnMkey p) s fun d =>
        d.fuses = s.dev.fuses ∧ d.cy.ecdh = none ∧ d.mem = s.dev.mem ∧
        match s.dev.openEnvelope bs with
        | .error c => d.rd CY_KSTATUS_CODE = c % 256 ∧ d.cy.burn = s.dev.cy.burn
        | .ok r =>
          if u8At r 0 = 0xFF ∧ u8At r 1 = 0 ∧ u8At r 2 = 2 then
            d.rd CY_KSTATUS_BUSY = 1 ∧ d.cy.burn = some { op := 0x0D, slot := 0, data := (r.drop 8).take 32 }
          else d.rd CY_KSTATUS_CODE = kUNWRAP ∧ d.cy.burn = s.dev.cy.burn)) ∧
    (∀ b ok, s.dev.cy.burn = some b → Completes (.fuseBurnDone ok) s fun d =>
      d.cy.burn = none ∧ d.rd CY_KSTATUS_BUSY = 0 ∧ d.rd CY_KSTATUS_CODE = (if ok then cDONE else kFUSE) ∧ d.mem = s.dev.mem ∧
      (b.op = 0x0C → b.slot < 4 → d.hashFuse b.slot = (if ok then { s.dev.hashFuse b.slot with revoked := true } else s.dev.hashFuse b.slot)) ∧
      (b.op = 0x0B → b.slot < 4 → d.hashFuse b.slot = { data := b.data, valid := ok, revoked := false, damaged := !ok }) ∧
      (b.op = 0x0D → d.fuses.mkey = { data := b.data, valid := ok, revoked := false, damaged := !ok }))

/-- The tamper loops (R256, R257): the guards toggle, samples are judged, and a tamper event in Run or Trim advances the epoch and empties
every key slot and session.
And: The entropy source (R258, R259): start-up tests, health tests, and reseeding. -/
def Obligations.TamperAndEntropy : Prop :=
  (∀ s : State, s.dev.power.step ≠ .off →
      (Completes .tguardToggle s fun d =>
        d.cy = { s.dev.cy with guard0 := !s.dev.cy.guard0, guard1 := !s.dev.cy.guard1 } ∧ d.regs = s.dev.regs ∧ d.mem = s.dev.mem) ∧
      (Completes (.tamperSample 0 s.dev.cy.guard0) s fun d => d.rd CY_TAMPER_LOOP0_OK = 1 ∧ d.cy = { s.dev.cy with miss0 := 0 } ∧ d.mem = s.dev.mem) ∧
      (Completes (.tamperSample 1 s.dev.cy.guard1) s fun d => d.rd CY_TAMPER_LOOP1_OK = 1 ∧ d.cy = { s.dev.cy with miss1 := 0 } ∧ d.mem = s.dev.mem) ∧
      (s.dev.cy.miss0 < 3 → Completes (.tamperSample 0 (!s.dev.cy.guard0)) s fun d =>
        d.rd CY_TAMPER_LOOP0_OK = 0 ∧ d.cy = { s.dev.cy with miss0 := s.dev.cy.miss0 + 1 } ∧ d.mem = s.dev.mem) ∧
      (∀ k : Fin 2, s.dev.coreRuns = true → Completes (.tamperEvent k) s fun d =>
        d.epoch = (s.dev.epoch + 1) % 2 ^ 64 ∧ (∀ j, d.keySlot j = none) ∧ d.cy.ecdh = none ∧ d.cy.burn = none ∧
        (∀ n j, n < 24 → j < 8 → ((d.chan n).context j).sm = none) ∧ d.rd CY_TRNG_READY = 0 ∧ d.rd (tamperFlag k.val) = 1 ∧ d.mem = s.dev.mem ∧
        (s.dev.on CY_KSTATUS_BUSY = true ∨ s.dev.cy.doneAt = some s.dev.time → d.rd CY_KSTATUS_CODE = cABORTED ∧ d.rd CY_KSTATUS_BUSY = 0)) ∧
      (∀ (p : Path) (slot : Fin 64), s.dev.reaches p 0x30000 = true → s.dev.on CY_KSTATUS_BUSY = false → s.dev.cy.tamperAt = some s.dev.time →
        Completes (.erase p slot) s fun d => d.rd CY_KSTATUS_CODE = cABORTED ∧ d.cy.slots = s.dev.cy.slots ∧ d.cy.inp = [] ∧ d.mem = s.dev.mem)) ∧
  (∀ s : State, s.dev.coreRuns = true → s.dev.on CY_TRNG_HALT = false →
      (s.dev.on CY_TRNG_STARTUP = true →
        (Completes (.trngStartupDone true) s fun d =>
          d.rd CY_TRNG_READY = 1 ∧ d.rd CY_TRNG_STARTUP = 0 ∧ d.rd CY_TRNG_FAILS = 0 ∧ d.cy.requests = 0 ∧ d.mem = s.dev.mem) ∧
        (s.dev.rd CY_TRNG_FAILS < 3 → Completes (.trngStartupDone false) s fun d =>
          d.rd CY_TRNG_READY = 0 ∧ d.rd CY_TRNG_STARTUP = s.dev.rd CY_TRNG_STARTUP ∧ d.rd CY_TRNG_FAILS = s.dev.rd CY_TRNG_FAILS + 1 ∧
          d.rd CY_TRNG_HALT = 0 ∧ d.mem = s.dev.mem) ∧
        (s.dev.rd CY_TRNG_FAILS = 3 → Completes (.trngStartupDone false) s fun d => d.rd CY_TRNG_HALT = 1 ∧ d.rd CY_TRNG_READY = 0 ∧ d.mem = s.dev.mem)) ∧
      ((Completes (.trngHealthFailure false) s fun d =>
          d.rd CY_TRNG_READY = 0 ∧ d.rd CY_TRNG_STARTUP = 1 ∧ d.rd CY_TRNG_STATS_RCT = min (s.dev.rd CY_TRNG_STATS_RCT + 1) 255 ∧ d.mem = s.dev.mem) ∧
        (Completes (.trngHealthFailure true) s fun d =>
          d.rd CY_TRNG_READY = 0 ∧ d.rd CY_TRNG_STARTUP = 1 ∧ d.rd CY_TRNG_STATS_APT = min (s.dev.rd CY_TRNG_STATS_APT + 1) 255 ∧ d.mem = s.dev.mem)) ∧
      (s.dev.on CY_TRNG_READY = true → 1024 ≤ s.dev.cy.requests → Completes .drbgReseed s fun d =>
        d.cy.requests = 0 ∧ d.rd CY_TRNG_STATS_RESEEDS = min (s.dev.rd CY_TRNG_STATS_RESEEDS + 1) 255 ∧ d.mem = s.dev.mem))

/-! Card emulation (11_card_emulation.md). -/

/-- The phone's field, its carrier and frames (R264 to R266, R268 to R270, R273, R278): detection, lock and loss, the card states, the replies,
waiting-time extensions and the end of a field transaction. -/
def Obligations.EmulationFollowsThePhone : Prop :=
  ∀ (s : State) (k : Fin 8), ∀ c, c = s.dev.inst k.val →
    (s.dev.coreRuns = true →
      (s.dev.on (CE_INST_STATUS_FIELD k.val) = true → s.dev.on (CE_INST_STATUS_GRANT k.val) = false → Completes (.carrierLock k) s fun d =>
        d.rd (CE_INST_STATUS_CARRIER k.val) = 1 ∧ d.ceState k.val = s.dev.ceState k.val ∧ d.ce = s.dev.ce ∧ d.mem = s.dev.mem) ∧
      (s.dev.on (CE_INST_STATUS_FIELD k.val) = true → s.dev.on (CE_INST_STATUS_GRANT k.val) = true → s.dev.ceState k.val = 0 → s.dev.img k.val 2 = 2 →
        Completes (.carrierLock k) s fun d =>
        d.rd (CE_INST_STATUS_CARRIER k.val) = 1 ∧ d.ceState k.val = 1 ∧ (d.inst k.val).uid = s.dev.imgBytes k.val 3 7 ∧ d.mem = s.dev.mem) ∧
      (∀ n level, s.dev.ceChan k.val = some n → s.dev.on (CE_INST_CFG_EN k.val) = true → s.dev.on (CE_INST_STATUS_FIELD k.val) = false →
        (s.dev.chan n).field.lit = false → s.dev.grantNow n = none → s.dev.listening n = false → level ≤ 50 * s.dev.rd (CE_INST_CFG_FIELD_THR k.val) →
            s.dev.on (CE_INST_STATUS_GRANT k.val) = false →
        s.dev.ts.reqs.any (·.owner == Owner.emulation k.val) = false → Completes (.phoneFieldDetected k level) s fun d =>
        d.rd (CE_INST_STATUS_FIELD k.val) = 1 ∧ (d.inst k.val).lostAt = none ∧
        d.ts.reqs = s.dev.ts.reqs ++ [⟨.emulation k.val, n, s.dev.rd (CE_INST_CFG_COIL k.val), 1, false, 0, 0, false⟩] ∧ d.mem = s.dev.mem) ∧
      (∀ level, s.dev.on (CE_INST_STATUS_FIELD k.val) = true → 50 * s.dev.rd (CE_INST_CFG_FIELD_THR k.val) + 300 < level →
        (s.dev.gwp 0).held = [] → (s.dev.gwp 1).held = [] → Completes (.phoneFieldLost k level) s fun d =>
        d.rd (CE_INST_STATUS_FIELD k.val) = 0 ∧ d.rd (CE_INST_STATUS_CARRIER k.val) = 0 ∧ d.ceState k.val = 0 ∧
        (d.inst k.val).lostAt = some s.dev.ns ∧ (s.dev.ceState k.val ≠ 0 → d.rd (CE_INST_STATUS_FIELD_LOSS_SEEN k.val) = 1) ∧ d.mem = s.dev.mem) ∧
      (s.dev.on (CE_INST_CFG_EN k.val) = true → s.dev.on (CE_INST_STATUS_FIELD k.val) = true →
        (∀ bits ok ctr, s.dev.on (CE_INST_STATUS_GRANT k.val) = false → Completes (.emuFrameReceived k bits ok ctr) s fun d =>
          d.rd (CE_INST_STATUS_DEAF_SEEN k.val) = 1 ∧ d.ceState k.val = s.dev.ceState k.val ∧ d.ce = s.dev.ce ∧ d.mem = s.dev.mem) ∧
        (s.dev.on (CE_INST_STATUS_GRANT k.val) = true →
          (∀ bits ok ctr, bits.length = 7 → packLsb bits = 0x26 ∨ packLsb bits = 0x52 → s.dev.ceState k.val = 1 → Completes (.emuFrameReceived k bits ok
              ctr) s fun d =>
            d.ceState k.val = 2 ∧ (d.inst k.val).reply = some (bitsA 8 (s.dev.imgBytes k.val 0x0A 2)) ∧ d.mem = s.dev.mem) ∧
          (∀ bits ok ctr, bits.length = 7 → packLsb bits = 0x52 → s.dev.ceState k.val = 4 → Completes (.emuFrameReceived k bits ok ctr) s fun d =>
            d.ceState k.val = 5 ∧ (d.inst k.val).reply = some (bitsA 8 (s.dev.imgBytes k.val 0x0A 2)) ∧ d.mem = s.dev.mem) ∧
          (s.dev.ceState k.val = 3 ∨ s.dev.ceState k.val = 6 →
            (∀ ctr, Completes (.emuFrameReceived k (bytesBits ([0x50, 0x00] ++ crcBytes 1 [0x50, 0x00])) true ctr) s fun d =>
              d.ceState k.val = 4 ∧ (d.inst k.val).reply = none ∧ d.mem = s.dev.mem) ∧
            (∀ (p : Byte) ctr, p.toNat % 16 ≠ 15 → Completes (.emuFrameReceived k (bytesBits ([0xE0, p] ++ crcBytes 1 [0xE0, p])) true ctr) s fun d =>
              d.ceState k.val = 7 ∧ (d.inst k.val).reply = some (bitsA 8 (s.dev.ats k.val ++ crcBytes 1 (s.dev.ats k.val))) ∧
              (d.inst k.val).fsd = fscOf (p.toNat / 16) ∧ d.mem = s.dev.mem))))) ∧
    (s.dev.on (CE_INST_STATUS_GRANT k.val) = true →
      ((s.dev.gwp 0).held = [] → (s.dev.gwp 1).held = [] →
        (∀ t, c.lostAt = some t → t + 10000000 ≤ s.dev.ns → Completes (.emulationGrantEnd k) s fun d =>
          d.rd (CE_INST_STATUS_GRANT k.val) = 0 ∧ d.ceState k.val = 0 ∧ d.ts.grants = s.dev.ts.grants.filter (·.owner ≠ Owner.emulation k.val) ∧ d.mem =
              s.dev.mem) ∧
        (c.lostAt = none → s.dev.preempts = true → c.txn = none → Completes (.emulationGrantEnd k) s fun d =>
          d.rd (CE_INST_STATUS_GRANT k.val) = 0 ∧ d.ceState k.val = 0 ∧ d.mem = s.dev.mem)) ∧
      (∀ b ready, c.reply = some b → c.newRate = none →
        (c.toHalt = false → c.guardAt = none → Completes (.emuReplyStart k ready) s fun d =>
          d.out = packWords 80 (true :: b) ∧ (d.inst k.val).reply = none ∧ (d.inst k.val).startAt = replyAt c.lastBit c.late ready ∧
          (s.dev.ceState k.val = 7 → (d.inst k.val).guardAt = some (s.dev.ns + s.dev.cardGuard k.val)) ∧ d.regs = s.dev.regs ∧ d.mem = s.dev.mem) ∧
        (c.toHalt = true → Completes (.emuReplyStart k ready) s fun d => (d.inst k.val).reply = none ∧ d.ceState k.val = 4 ∧ d.mem = s.dev.mem))) ∧
    (∀ t, c.txn = some t → c.status = true → c.host = [] → (s.dev.gwp 0).held = [] → (s.dev.gwp 1).held = [] →
      (t.writes ≠ [] → Completes (.fieldTransactionEnd k true) s fun d =>
        (d.inst k.val).txn = none ∧ d.rd (CE_INST_CSEQ_CSEQ k.val) = (s.dev.rd (CE_INST_CSEQ_CSEQ k.val) + 1) % 2 ^ 16 ∧
        d.shadow = t.writes.foldl (fun m w => Memory.set m (k.val * 65536 + w.1) w.2) s.dev.shadow ∧ d.mem = s.dev.mem) ∧
      (Completes (.fieldTransactionEnd k false) s fun d =>
        (d.inst k.val).txn = none ∧ d.shadow = s.dev.shadow ∧ d.rd (CE_INST_STATUS_DISCARD_SEEN k.val) = 1 ∧ d.mem = s.dev.mem)) ∧
    (c.fwd ≠ none → c.wtxAwait = false → c.reply = none → s.dev.ceState k.val = 7 →
      (c.wtx < s.dev.rd (CE_INST_WTX_WTX_MAX k.val) → Completes (.emuWtxPoint k) s fun d =>
        (d.inst k.val).wtx = c.wtx + 1 ∧ (d.inst k.val).wtxAwait = true ∧ (d.inst k.val).fwd = c.fwd ∧ (d.inst k.val).reply.isSome = true ∧ d.mem = s.dev.mem) ∧
      (s.dev.rd (CE_INST_WTX_WTX_MAX k.val) ≤ c.wtx → Completes (.emuWtxPoint k) s fun d =>
        (d.inst k.val).fwd = none ∧ d.rd (CE_INST_STATUS_EXPIRED_SEEN k.val) = 1 ∧ (d.inst k.val).reply.isSome = true ∧ d.mem = s.dev.mem))

/-- The host's side of an emulation instance (R273, R275, R279, R280): responses, the enable with its check of the image, locks, and bursts to the
shadow, which wait for the blocks that a field transaction uses. -/
def Obligations.EmulationHostSide : Prop :=
  ∀ (s : State) (k : Fin 8), ∀ c, c = s.dev.inst k.val →
    (∀ b rest, c.host = b :: rest → (s.dev.gwp 0).held = [] → (s.dev.gwp 1).held = [] → Completes (.hostWaitExpiry k) s fun d =>
      (d.inst k.val).host = rest ∧ d.rd CE_ACC_CODE = cBUSY ∧ d.rd CE_ACC_BUSY_SEEN = 1 ∧ d.shadow = s.dev.shadow ∧ d.mem = s.dev.mem) ∧
    (∀ p : Path, s.dev.reaches p 0x70000 = true →
      (∀ (w : Word) ws len id, ws = ((c.asm.find? (·.1 = p)).map (·.2)).getD [] ++ [w] → len = bits (wordAt ws 0) 8 0 → id = bits (wordAt ws 0) 31 16 →
        (ws.length < 1 + (len + 3) / 4 → Completes (.ceRspWrite p k w) s fun d =>
          (d.inst k.val).asm = c.asm.filter (·.1 ≠ p) ++ [(p, ws)] ∧ d.regs = s.dev.regs ∧ d.mem = s.dev.mem) ∧
        (1 + (len + 3) / 4 ≤ ws.length →
          (len < 2 ∨ 258 < len → Completes (.ceRspWrite p k w) s fun d =>
            d.rd (CE_INST_STATUS_RSP_CODE k.val) = cRANGE ∧ (d.inst k.val).fwd = c.fwd ∧ (d.inst k.val).reply = c.reply ∧ d.mem = s.dev.mem) ∧
          (2 ≤ len → len ≤ 258 → c.fwd ≠ some id ∨ s.dev.ceState k.val ≠ 7 → Completes (.ceRspWrite p k w) s fun d =>
            d.rd (CE_INST_STATUS_RSP_CODE k.val) = cREFUSED ∧ (d.inst k.val).fwd = c.fwd ∧ (d.inst k.val).reply = c.reply ∧ d.mem = s.dev.mem) ∧
          (2 ≤ len → len ≤ 258 → c.fwd = some id → s.dev.ceState k.val = 7 → c.wtxAwait = false → Completes (.ceRspWrite p k w) s fun d =>
            d.rd (CE_INST_STATUS_RSP_CODE k.val) = cDONE ∧ (d.inst k.val).fwd = none ∧ (d.inst k.val).reply.isSome = true ∧ d.mem = s.dev.mem))) ∧
      (∀ (w : Word) n, s.dev.ceChan k.val = some n → (s.dev.gwp 0).held = [] → (s.dev.gwp 1).held = [] → ∀ alm coil, alm = bits w.toNat 29 20 → coil = bits
          w.toNat 19 14 →
        alm ≠ 0 → powerOf alm ≤ (s.dev.decl n).maxPower → bits w.toNat 13 8 ≤ 59 → 2 ≤ bits w.toNat 7 0 → bits w.toNat 7 0 ≤ 80 →
        (s.dev.on (CE_INST_CFG_EN k.val) = false → bit w.toNat 31 = true → s.dev.headerOk k.val = true → coil < s.dev.coils n ∨ s.dev.coils n = 0 →
          Completes (.ceEnable p k w) s fun d =>
            d.rd (CE_INST_CFG_EN k.val) = 1 ∧ d.rd (CE_INST_CFG_ALM_CODE k.val) = alm ∧ d.rd (CE_INST_CFG_COIL k.val) = coil ∧
            d.rd (CE_INST_CFG_FWD k.val) = bits w.toNat 30 30 ∧ d.mem = s.dev.mem) ∧
        (s.dev.on (CE_INST_CFG_EN k.val) = false → bit w.toNat 31 = true → s.dev.headerOk k.val = false → Completes (.ceEnable p k w) s fun d =>
            d.rd (CE_INST_CFG_EN k.val) = 0 ∧ d.rd (ERR_RANGE 0x70000) = 1 ∧ d.ce = s.dev.ce ∧ d.mem = s.dev.mem) ∧
        (s.dev.on (CE_INST_CFG_EN k.val) = true → bit w.toNat 31 = false → alm = s.dev.rd (CE_INST_CFG_ALM_CODE k.val) → coil = s.dev.rd (CE_INST_CFG_COIL
            k.val) →
          bits w.toNat 30 30 = s.dev.rd (CE_INST_CFG_FWD k.val) → Completes (.ceEnable p k w) s fun d =>
            d.rd (CE_INST_CFG_EN k.val) = 0 ∧ d.rd (CE_INST_STATUS_GRANT k.val) = 0 ∧ d.rd (CE_INST_STATUS_FIELD k.val) = 0 ∧ d.ceState k.val = 0 ∧ d.mem =
                s.dev.mem)) ∧
      (∀ (m : Fin 4) (w : Word), s.dev.ceChan k.val ≠ none →
        (bits w.toNat 31 24 ≠ 0 → bits w.toNat 23 15 ≤ 255 → bits w.toNat 31 24 + bits w.toNat 23 15 ≤ 256 → Completes (.ceLockWrite p k m w) s fun d =>
          d.rd (CE_INST_LOCK_START k.val m.val) = bits w.toNat 31 24 ∧ d.rd (CE_INST_LOCK_LEN k.val m.val) = bits w.toNat 23 15 ∧
          d.rd (CE_INST_LOCK_MODE k.val m.val) = bits w.toNat 14 14 ∧ d.rd CE_ACC_CODE = (if bits w.toNat 23 15 = 0 then cEMPTY else cDONE) ∧ d.mem =
              s.dev.mem) ∧
        (bits w.toNat 31 24 = 0 ∨ 256 < bits w.toNat 31 24 + bits w.toNat 23 15 → Completes (.ceLockWrite p k m w) s fun d =>
          d.rd (ERR_RANGE 0x70000) = 1 ∧ d.rd (CE_INST_LOCK_START k.val m.val) = s.dev.rd (CE_INST_LOCK_START k.val m.val) ∧ d.mem = s.dev.mem)) ∧
      (s.dev.rd CE_WIN_INST = k.val → s.dev.ceChan k.val ≠ none →
        (∀ (off : Fin 32768) n start, off.val % 4 = 0 → 1 ≤ n → off.val % 4096 + 4 * n ≤ 4096 → start = s.dev.rd CE_WIN_HALF * 32768 + off.val →
          (c.txn = none → Completes (.shadowHostBurst p off [] n) s fun d =>
            d.out = bytesToWords (s.dev.imgBytes k.val start (4 * n)) ∧ d.rd CE_ACC_CODE = cDONE ∧ d.shadow = s.dev.shadow ∧ d.mem = s.dev.mem) ∧
          (∀ t, c.txn = some t → start / 256 ∈ t.blocks →
            (s.dev.rd CE_CFG_HOST_WAIT ≠ 0 → Completes (.shadowHostBurst p off [] n) s fun d =>
              d.out = [] ∧ (∃ b, (d.inst k.val).host = c.host ++ [b] ∧ b.path = p ∧ b.offset = start ∧ b.words = n ∧ b.writes = []) ∧
              d.shadow = s.dev.shadow ∧ d.mem = s.dev.mem) ∧
            (s.dev.rd CE_CFG_HOST_WAIT = 0 → Completes (.shadowHostBurst p off [] n) s fun d =>
              d.out = List.replicate n 0 ∧ d.rd CE_ACC_CODE = cBUSY ∧ d.rd CE_ACC_BUSY_SEEN = 1 ∧ d.shadow = s.dev.shadow ∧ d.mem = s.dev.mem))) ∧
        (∀ (off : Fin 32768) (w : Word) start, off.val % 4 = 0 → start = s.dev.rd CE_WIN_HALF * 32768 + off.val → 256 ≤ start → c.txn = none →
          Completes (.shadowHostBurst p off [w] 0) s fun d =>
            d.shadow = (upTo 4).foldl (fun m i => Memory.set m (k.val * 65536 + (start + i)) ((leBytes 4 w.toNat).getD i 0)) s.dev.shadow ∧
            d.rd (CE_INST_CSEQ_CSEQ k.val) = (s.dev.rd (CE_INST_CSEQ_CSEQ k.val) + 1) % 2 ^ 16 ∧ d.rd CE_ACC_CODE = cDONE ∧ d.mem = s.dev.mem) ∧
        (∀ (off : Fin 32768) (w : Word), off.val % 4 = 0 → s.dev.rd CE_WIN_HALF = 0 → off.val < 256 → s.dev.on (CE_INST_CFG_EN k.val) = true →
          Completes (.shadowHostBurst p off [w] 0) s fun d => d.shadow = s.dev.shadow ∧ d.rd (ERR_LOCKED 0x70000) = 1 ∧ d.mem = s.dev.mem)))

/-! Landing queues (12_landing_queues.md). -/

/-- Producers, reads and the stall of the Landing queues (R289, R294 to R296): an item that fits is stored with the next number, one that does
not is dropped into a GAP marker; a read of LQn_POP takes the next word, stalls, is answered by an EMPTY marker, or is refused; and the stall ends. -/
def Obligations.QueuesDeliverItems : Prop :=
  ∀ (s : State) (i : Fin 32), ∀ q, q = s.dev.q i.val →
    (∀ (typ : Byte) (ws : List Word), ws.length ≤ 255 → i.val ≠ 27 → q.stalled = [] →
      (q.fits (s.dev.qSize i.val) (ws.length + 1) = true → Completes (.queueItemComplete i typ ws) s fun d =>
        (d.q i.val).waiting = q.waiting ++ [⟨.item typ.toNat q.nextIn ws, false, false⟩] ∧ (d.q i.val).nextIn = (q.nextIn + 1) % 4096 ∧
        d.regs = s.dev.regs ∧ d.mem = s.dev.mem) ∧
      (s.dev.qSize i.val < q.used + ws.length + 2 → q.used + 1 ≤ s.dev.qSize i.val → q.mark = false → q.heldGap = none →
        mergeGap q.waiting q.nextIn = none → Completes (.queueItemComplete i typ ws) s fun d =>
        (d.q i.val).waiting = q.waiting ++ [⟨.gap q.nextIn 1 q.nextIn, false, false⟩] ∧ (d.q i.val).nextIn = (q.nextIn + 1) % 4096 ∧
        d.rd (LQN_STATUS_GAP_SEEN i.val) = 1 ∧ d.mem = s.dev.mem)) ∧
    (∀ st ss, q.stalled = st :: ss → st.oneItem = false → 0 < st.words → Completes (.queueStallExpiry i) s fun d =>
      d.out = q.emptyMarker :: List.replicate (st.words - 1) 0 ∧ (d.q i.val).stalled = ss ∧ (∀ b, st.behind = some b → (d.q i.val).resumed = q.resumed ++ [b]) ∧
      d.rd (LQN_STATUS_STALL_SEEN i.val) = 1 ∧ d.mem = s.dev.mem) ∧
    (∀ p, s.dev.reaches p 0x20000 = true → s.dev.taken i.val = [] →
      (s.dev.isConsumer p i.val = true → q.heldGap = none → ∀ e rest, q.waiting = e :: rest →
        (p ≠ .pilot → q.popped < e.words.length → Completes (.queuePop p i) s fun d =>
          d.out = [e.words.getD q.popped 0] ∧ d.mem = s.dev.mem ∧
          if q.popped + 1 < e.words.length then (d.q i.val).waiting = { e with begun := true } :: rest ∧ (d.q i.val).popped = q.popped + 1
          else (d.q i.val).waiting = rest ∧ (d.q i.val).popped = 0) ∧
        (q.popped = 0 → ∀ t n ws, e.body = .item t n ws → 0 < ws.length → ws.length ≤ 255 → Completes (.queuePop p i) s fun d =>
          d.out = [itemHeader t (ws.length + 1) false e.replayed n] ∧ (d.q i.val).waiting = { e with begun := true } :: rest ∧
          (d.q i.val).popped = 1 ∧ d.mem = s.dev.mem)) ∧
      (s.dev.isConsumer p i.val = true → q.waiting = [] → s.dev.qSize i.val ≠ 0 → s.dev.rd LQ_STALL_STALL ≠ 0 → Completes (.queuePop p i) s fun d =>
        d.out = [] ∧ (d.q i.val).stalled = q.stalled ++ [⟨p, 1, false, none, s.dev.ns⟩] ∧ d.regs = s.dev.regs ∧ d.mem = s.dev.mem) ∧
      (s.dev.isConsumer p i.val = true → q.waiting = [] → (s.dev.qSize i.val = 0 ∨ s.dev.rd LQ_STALL_STALL = 0) → Completes (.queuePop p i) s fun d =>
        d.out = [q.emptyMarker] ∧ (d.q i.val).stalled = q.stalled ∧ d.mem = s.dev.mem) ∧
      (s.dev.isConsumer p i.val = false → Completes (.queuePop p i) s fun d =>
        d.out = [0] ∧ d.rd (ERR_LOCKED 0x20000) = 1 ∧ d.rd (LQN_STATUS_REFUSED_SEEN i.val) = 1 ∧ d.rd (LQN_STATUS_CODE i.val) = cREFUSED ∧
        d.lq = s.dev.lq ∧ d.mem = s.dev.mem))

/-- Pushes, the consumer commands and the configuration of the Landing queues (R298 to R302, R304). -/
def Obligations.QueueCommands : Prop :=
  ∀ (s : State) (i : Fin 32) (p : Path), s.dev.reaches p 0x20000 = true → ∀ q, q = s.dev.q i.val →
    (∀ w, mayPush p i.val = true → s.dev.qSize i.val ≠ 0 → (q.buf p).absorb = 0 →
      ((q.buf p).words = [] → 2 ≤ bits w.toNat 23 15 → bits w.toNat 23 15 ≤ 256 → 0x20 ≤ bits w.toNat 31 24 → Completes (.queuePush p i w) s fun d =>
        ((d.q i.val).buf p).words = [w] ∧ (d.q i.val).waiting = q.waiting ∧ d.regs = s.dev.regs ∧ d.mem = s.dev.mem) ∧
      ((q.buf p).words = [] → bits w.toNat 23 15 = 0 ∨ 256 < bits w.toNat 23 15 ∨ bits w.toNat 31 24 < 0x20 → Completes (.queuePush p i w) s fun d =>
        d.rd (ERR_RANGE 0x20000) = 1 ∧ d.lq = s.dev.lq ∧ d.mem = s.dev.mem) ∧
      (∀ h ws, (q.buf p).words = h :: ws → ws.length + 2 = bits h.toNat 23 15 → q.stalled = [] → i.val ≠ 27 →
        q.fits (s.dev.qSize i.val) (ws.length + 2) = true → Completes (.queuePush p i w) s fun d =>
        (d.q i.val).waiting = q.waiting ++ [⟨.item (bits h.toNat 31 24) q.nextIn (ws ++ [w]), false, false⟩] ∧
        ((d.q i.val).buf p).words = [] ∧ (d.q i.val).nextIn = (q.nextIn + 1) % 4096 ∧ d.mem = s.dev.mem)) ∧
    (∀ w, mayPush p i.val = false → Completes (.queuePush p i w) s fun d => d.rd (ERR_LOCKED 0x20000) = 1 ∧ d.lq = s.dev.lq ∧ d.mem = s.dev.mem) ∧
    (s.dev.qSize i.val ≠ 0 → s.dev.isConsumer p i.val = true →
      (∀ e rest, q.mid = true → q.waiting = e :: rest → q.heldGap = none → Completes (.dropRest p i) s fun d =>
        (d.q i.val).waiting = rest ∧ (d.q i.val).popped = 0 ∧ (d.q i.val).retained = (if q.mark then q.retained ++ [e] else q.retained) ∧
        d.rd (LQN_STATUS_CODE i.val) = cDONE ∧ d.mem = s.dev.mem) ∧
      (q.mid = false → Completes (.dropRest p i) s fun d => d.rd (LQN_STATUS_CODE i.val) = cEMPTY ∧ d.lq = s.dev.lq ∧ d.mem = s.dev.mem) ∧
      (q.heldGap = none → Completes (.mark p i) s fun d =>
        (d.q i.val).mark = true ∧ (d.q i.val).markLost = false ∧ (d.q i.val).retained = [] ∧ (d.q i.val).waiting = q.waiting ∧
        d.rd (LQN_STATUS_CODE i.val) = cDONE ∧ d.mem = s.dev.mem) ∧
      (q.mark = true → q.mid = false → q.stalled = [] → Completes (.rewind p i) s fun d =>
        (d.q i.val).waiting = q.retained.map (fun e => { e with replayed := true }) ++ q.waiting ∧ (d.q i.val).mark = true ∧
        d.rd (LQN_STATUS_CODE i.val) = cDONE ∧ d.mem = s.dev.mem) ∧
      (q.mark = false → Completes (.rewind p i) s fun d =>
        d.rd (LQN_STATUS_CODE i.val) = (if q.markLost then 0x10 else cREFUSED) ∧ d.lq = s.dev.lq ∧ d.mem = s.dev.mem) ∧
      (q.mark = true ∨ q.markLost = true → q.heldGap = none → Completes (.clearMark p i) s fun d =>
        (d.q i.val).mark = false ∧ (d.q i.val).markLost = false ∧ (d.q i.val).retained = [] ∧ (d.q i.val).waiting = q.waiting ∧
        d.rd (LQN_STATUS_CODE i.val) = cDONE ∧ d.mem = s.dev.mem) ∧
      (q.mark = false → q.markLost = false → Completes (.clearMark p i) s fun d =>
        d.rd (LQN_STATUS_CODE i.val) = cEMPTY ∧ d.lq = s.dev.lq ∧ d.mem = s.dev.mem)) ∧
    (s.dev.qSize i.val ≠ 0 → s.dev.isConsumer p i.val = true ∨ p = .pilot → q.stalled = [] → Completes (.flush p i) s fun d =>
      (d.q i.val).waiting = [⟨.flushed q.nextIn (q.waiting.filter Entry.isItem).length (q.push.any fun b => !b.words.isEmpty), false, false⟩] ∧
      (d.q i.val).retained = [] ∧ (d.q i.val).mark = false ∧ (d.q i.val).popped = 0 ∧ d.rd (LQN_STATUS_FLUSH_SEEN i.val) = 1 ∧
      d.rd (LQN_STATUS_CODE i.val) = cDONE ∧ d.mem = s.dev.mem) ∧
    (s.dev.isConsumer p i.val = false →
      ∀ c ∈ [Instr.dropRest p i, .mark p i, .rewind p i, .clearMark p i], Completes c s fun d =>
        d.rd (LQN_STATUS_CODE i.val) = cREFUSED ∧ d.lq = s.dev.lq ∧ d.mem = s.dev.mem) ∧
    (∀ w, bits w.toNat 19 0 ≤ 524288 →
      (bits w.toNat 31 31 = s.dev.rd (LQN_CFG_CONSUMER i.val) ∨ (p = .pilot ∧ q.mid = false) → Completes (.queueCfgWrite p i w) s fun d =>
        d.rd (LQN_CFG_CONSUMER i.val) = bits w.toNat 31 31 ∧ d.rd (LQN_CFG_THRESH i.val) = bits w.toNat 19 0 ∧
        d.rd (LQN_CFG_IE_NONEMPTY i.val) = bits w.toNat 24 24 ∧ d.rd (LQN_CFG_IE_THRESH i.val) = bits w.toNat 25 25 ∧
        d.rd (LQN_CFG_IE_GAP i.val) = bits w.toNat 26 26 ∧ d.rd (LQN_CFG_IE_MARK_LOST i.val) = bits w.toNat 27 27 ∧ d.mem = s.dev.mem) ∧
      (bits w.toNat 31 31 ≠ s.dev.rd (LQN_CFG_CONSUMER i.val) → p ≠ .pilot ∨ q.mid = true → Completes (.queueCfgWrite p i w) s fun d =>
        d.rd (ERR_LOCKED 0x20000) = 1 ∧ d.rd (LQN_CFG_CONSUMER i.val) = s.dev.rd (LQN_CFG_CONSUMER i.val) ∧ d.mem = s.dev.mem))



/-- The registry's read commands (R310, R311, R323): lookup, query and scrub answer from the journalled registry. -/
def Obligations.RegistryReadCommands : Prop :=
  ∀ (s : State) (via : Via) (c : SvcCmd),
    (s.dev.Offers via 0x20 c → (s.dev.lookup (c.payload.take 11)).1 = none → AnswersApplied c 0x11 [] (.regLookup via) s) ∧
    (∀ i, s.dev.Offers via 0x20 c → (s.dev.lookup (c.payload.take 11)).1 = some i →
      AnswersApplied c 0 (leBytes 4 i ++ s.dev.regRecord i) (.regLookup via) s) ∧
    (s.dev.Offers via 0x23 c → le16At c.payload 4 = 0 → Answers c 1 [] (.regQuery via) s) ∧
    (s.dev.Offers via 0x23 c → 14 < le16At c.payload 4 ∨ le16At c.payload 4 ≠ 0 ∧ registrySize ≤ le32At c.payload 0 → Answers c 3 [] (.regQuery via) s) ∧
    (s.dev.Offers via 0x23 c → le16At c.payload 4 ≠ 0 → le16At c.payload 8 ≠ 0x7FF → s.dev.berthExists (le16At c.payload 8) = false →
      Answers c 3 [] (.regQuery via) s) ∧
    (∀ is next, s.dev.Offers via 0x23 c → 1 ≤ le16At c.payload 4 → le16At c.payload 4 ≤ 14 → le32At c.payload 0 < registrySize →
      le16At c.payload 8 = 0x7FF ∨ s.dev.berthExists (le16At c.payload 8) = true →
      queryScan s.dev c.payload 65536 (le32At c.payload 0) (le16At c.payload 4) = (is, next) →
      AnswersApplied c 0 (leBytes 2 is.length ++ [0, 0] ++ leBytes 4 (if registrySize ≤ next then 0xFFFFFFFF else next)
        ++ (is.map fun i => leBytes 4 i ++ s.dev.regRecord i).flatten) (.regQuery via) s) ∧
    (s.dev.Offers via 0x26 c → le32At c.payload 4 = 0 ∨ 65536 < le32At c.payload 4 ∨ registrySize < le32At c.payload 0 + le32At c.payload 4 →
      Answers c 3 [] (.regScrub via) s) ∧
    (s.dev.Offers via 0x26 c → 0 < le32At c.payload 4 → le32At c.payload 4 ≤ 65536 → le32At c.payload 0 + le32At c.payload 4 ≤ registrySize →
      AnswersApplied c 0 ((((upTo (le32At c.payload 4)).map (le32At c.payload 0 + ·)).filter fun i => !checkOk (s.dev.regRecord i)).take 200
        |>.map (leBytes 4)).flatten (.regScrub via) s) ∧
    (s.dev.Offers via 0x24 c → ∃ data, AnswersApplied c 0 data (.regStats via) s ∧
      le32At data 0 = ((upTo registrySize).filter fun i => recState (s.dev.regRecord i) = 1).length ∧
      le32At data 4 = ((upTo registrySize).filter fun i => recState (s.dev.regRecord i) = 2).length)

/-- The service commands that change persistent state wait for their journal record (R311, R314, R315, R320, R323, R325, R327), and those
outside their ranges complete RANGE. -/
def Obligations.JournalledCommandsWait : Prop :=
  ∀ (s : State) (via : Via) (c : SvcCmd),
    (s.dev.Offers via 0x21 c → keyOk (c.payload.take 12) = true → putFieldsOk s.dev (c.payload.drop 16) = true → Completes (.regPut via) s fun d => d =
        (s.dev.serving c).owe (.cmd c)) ∧
    (s.dev.Offers via 0x21 c → keyOk (c.payload.take 12) = false ∨ putFieldsOk s.dev (c.payload.drop 16) = false → Answers c 3 [] (.regPut via) s) ∧
    (s.dev.Offers via 0x22 c → Completes (.regDelete via) s fun d => d = (s.dev.serving c).owe (.cmd c)) ∧
    (s.dev.Offers via 0x25 c → le16At c.payload 0 ≤ 255 → Completes (.regCompact via) s fun d =>
      d = (s.dev.serving c).owe (.compact c (le16At c.payload 0) 0)) ∧
    (s.dev.Offers via 0x25 c → 255 < le16At c.payload 0 → Answers c 3 [] (.regCompact via) s) ∧
    (s.dev.Offers via 0x30 c → le16At c.payload 0 ≤ 255 → Completes (.policySet via) s fun d => d = (s.dev.serving c).owe (.cmd c)) ∧
    (s.dev.Offers via 0x30 c → 255 < le16At c.payload 0 → Answers c 3 [] (.policySet via) s) ∧
    (s.dev.Offers via 0x50 c → u8At c.payload 0 < 24 → u8At c.payload 1 < 8 → u8At c.payload 2 < 2 → u8At c.payload 3 = 0 →
      ∃ k, Completes (.tagWrite via) s fun d => d = (s.dev.serving c).owe (.intent c k)) ∧
    (s.dev.Offers via 0x50 c → 24 ≤ u8At c.payload 0 ∨ 8 ≤ u8At c.payload 1 ∨ 2 ≤ u8At c.payload 2 ∨ u8At c.payload 3 ≠ 0 →
      Answers c 3 [] (.tagWrite via) s) ∧
    (s.dev.Offers via 0x61 c → 1 ≤ le16At c.payload 0 → le16At c.payload 0 ≤ 4 → c.payload.length = 8 + roundUp (le16At c.payload 2) 4 →
      le16At c.payload 4 < 2 → le16At c.payload 6 = 0 →
      (le16At c.payload 0 = 1 → leNat ((c.payload.drop 8).take (le16At c.payload 2)) ≤ 60000) →
      (s.dev.forced (le16At c.payload 0) = false → Completes (.configSet via) s fun d => d = (s.dev.serving c).owe (.cmd c)) ∧
      (s.dev.forced (le16At c.payload 0) = true → Answers c 4 [] (.configSet via) s))

/-- Policies, the audit ring, configuration records, queue consumers, key operations and programs (R304, R323, R325 to R328). -/
def Obligations.ResidentServices : Prop :=
  ∀ (s : State) (via : Via) (c : SvcCmd),
    (s.dev.Offers via 0x31 c → le16At c.payload 0 ≤ 255 → AnswersApplied c 0 (s.dev.policy (le16At c.payload 0)) (.policyGet via) s) ∧
    (s.dev.Offers via 0x31 c → 255 < le16At c.payload 0 → Answers c 3 [] (.policyGet via) s) ∧
    (s.dev.Offers via 0x38 c → u8At c.payload 8 = 0 ∨ 15 < u8At c.payload 8 → Answers c 3 [] (.auditRead via) s) ∧
    (s.dev.Offers via 0x38 c → 1 ≤ u8At c.payload 8 → u8At c.payload 8 ≤ 15 →
      AnswersApplied c (if leNat (c.payload.take 8) < s.dev.auditOldest then 0x16 else 0)
        ((((upTo (u8At c.payload 8)).map (max (leNat (c.payload.take 8)) s.dev.auditOldest + ·)).filter (· < s.dev.auditHead)).map fun i =>
          s.dev.vread (auditAt + 64 * (i % auditSlots)) 64).flatten (.auditRead via) s) ∧
    (s.dev.Offers via 0x39 c → AnswersApplied c 0 (leBytes 8 s.dev.auditHead ++ leBytes 8 s.dev.auditOldest) (.auditHead via) s) ∧
    (∀ f data, s.dev.Offers via 0x60 c → s.dev.serviceRecord (le16At c.payload 0) = some (f, data) →
      AnswersApplied c 0 (leBytes 2 (le16At c.payload 0) ++ leBytes 2 data.length ++ leBytes 2 f ++ [0, 0] ++ data
        ++ zeros (roundUp data.length 4 - data.length)) (.configGet via) s) ∧
    (s.dev.Offers via 0x40 c → 32 ≤ u8At c.payload 0 ∨ 2 ≤ u8At c.payload 1 → Answers c 3 [] (.queueConsumer via) s) ∧
    (s.dev.Offers via 0x40 c → u8At c.payload 0 < 32 → u8At c.payload 1 < 2 →
      (s.dev.q (u8At c.payload 0)).mid = false → Completes (.queueConsumer via) s fun d =>
        d.rd (LQN_CFG_CONSUMER (u8At c.payload 0)) = u8At c.payload 1 ∧ d.mem = (reply c 0 [] (s.dev.serving c)).mem) ∧
    (s.dev.Offers via 0x48 c → c.payload.length % 4 ≠ 0 → Answers c 3 [] (.keyOp via) s) ∧
    (s.dev.Offers via 0x48 c → c.payload.length % 4 = 0 → s.dev.on CY_KSTATUS_BUSY = true → Answers c 2 [] (.keyOp via) s) ∧
    (∀ m, s.dev.Offers via 0x58 c → 0 < u8At c.payload 0 → u8At c.payload 0 < 4 → (c.payload.drop 1).take 7 = zeros 7 → s.dev.boot.manifest = some m →
      m.programs.any (fun p => bit p.cores (u8At c.payload 0)) = false → vget s.dev.sv.cores (u8At c.payload 0) none = none →
      Completes (.programStart via) s fun d => vget d.sv.cores (u8At c.payload 0) none = some (leNat (c.payload.drop 8))) ∧
    (∀ m, s.dev.Offers via 0x58 c → 0 < u8At c.payload 0 → u8At c.payload 0 < 4 → (c.payload.drop 1).take 7 = zeros 7 → s.dev.boot.manifest = some m →
      m.programs.any (fun p => bit p.cores (u8At c.payload 0)) = true → Answers c 4 [] (.programStart via) s)



/-- The mailbox, ECALL, and a key operation of the runtime (R323, R328, R331). -/
def Obligations.CommandsArrive : Prop :=
  ∀ (s : State),
    (∀ (p : Path) (w : Word), s.dev.reaches p 0x34000 = true →
      (s.dev.on SV_MBOX_STATUS_BUSY = false → s.dev.sv.mboxIn.length + 1 < bits (wordAt (s.dev.sv.mboxIn ++ [w]) 0) 23 15 →
        Completes (.mboxWord p w) s fun d =>
          d.sv = { s.dev.sv with mboxIn := s.dev.sv.mboxIn ++ [w] } ∧ d.regs = s.dev.regs ∧ d.mem = s.dev.mem) ∧
      (∀ c, s.dev.on SV_MBOX_STATUS_BUSY = false → bits (wordAt (s.dev.sv.mboxIn ++ [w]) 0) 23 15 ≤ s.dev.sv.mboxIn.length + 1 →
        svcOfWords .mailbox (s.dev.sv.mboxIn ++ [w]) = c → s.dev.runtime = true → listedCode c.code = true → s.dev.sv.waiting = [] → s.dev.sv.running = [] →
        Completes (.mboxWord p w) s fun d =>
          d.sv = { s.dev.sv with mboxIn := [], waiting := [c] } ∧ d.rd SV_MBOX_STATUS_BUSY = 1 ∧ d.mem = s.dev.mem) ∧
      (s.dev.on SV_MBOX_STATUS_BUSY = true → Completes (.mboxWord p w) s fun d =>
          d.sv = s.dev.sv ∧ d.rd SV_MBOX_STATUS_OVERFLOW = 1 ∧ d.rd (ERR_LOCKED 0x34000) = 1 ∧ d.mem = s.dev.mem) ∧
      (Completes (.mboxRead p) s fun d =>
        d.mem = s.dev.mem ∧ d.out = [s.dev.sv.mboxOut.headD 0] ∧ d.sv = { s.dev.sv with mboxOut := s.dev.sv.mboxOut.drop 1 } ∧
        (s.dev.sv.mboxOut.length = 1 → d.rd SV_MBOX_STATUS_OUT_READY = 0 ∧ d.rd SV_MBOX_STATUS_BUSY = 0))) ∧
    (∀ (core : Fin 4) (code addr plen buf size : Nat), s.dev.runtime = true → (vget s.dev.sv.cores core.val none).isSome = true →
      s.dev.sv.waiting = [] → s.dev.sv.running = [] → listedCode code = true → Completes (.serviceEcall core code addr plen buf size) s fun d =>
        d.sv.waiting = [⟨.ecall core, code, 0, Memory.read s.dev.mem addr (min plen 1012), decide (plen ≤ 1012), (buf, size)⟩] ∧
        d.regs = s.dev.regs ∧ d.mem = s.dev.mem) ∧
    (∀ (via : Via) (c : SvcCmd) (e : Dev), s.dev.Offers via 0x48 c → c.payload.length % 4 = 0 → s.dev.on CY_KSTATUS_BUSY = false →
      e = kcmdWrite .pilot (bits (le32At c.payload 0) 31 24) (bits (le32At c.payload 0) 23 18) (bits (le32At c.payload 0) 17 12)
        (bits (le32At c.payload 0) 11 10) (bits (le32At c.payload 0) 7 0)
        ((bytesToWords (c.payload.drop 4)).foldl (fun d w => kdataWrite .pilot w d) (s.dev.serving c)) →
      (e.on CY_KSTATUS_BUSY = true → Completes (.keyOp via) s fun d =>
        d.sv.keyOp = some c ∧ d.sv.running = [c] ∧ d.cy = e.cy ∧ d.regs = e.regs ∧ d.mem = e.mem) ∧
      (e.on CY_KSTATUS_BUSY = false → Completes (.keyOp via) s fun d =>
        d.cy = { e.cy with outp := [] } ∧ d.rd CY_KSTATUS_CODE = e.rd CY_KSTATUS_CODE ∧ d.fuses = e.fuses))

/-- The journal's records and the runtime's own timers (R210, R243, R282, R313, R315, R325, R436). -/
def Obligations.JournalAndTimers : Prop :=
  ∀ (s : State),
    (∀ w rest b e, s.dev.mayCommit = true → s.dev.sv.todo = w :: rest →
      buildWork w (({ s.dev with out := [] } : Dev).modSv fun v => { v with todo := rest }) = (some b, e) →
      (s.dev.journalFits (recordLen b.entries) = true → e.sv.jpos + recordLen b.entries ≤ journalSize → Completes .journalCommit s fun d =>
        d.sv.committed = e.sv.committed ++ [⟨e.sv.jseq, b.entries, (e.sv.jpos + recordLen b.entries) % journalSize, b.replies, b.post⟩] ∧
        d.sv.jseq = e.sv.jseq + 1 ∧ d.sv.todo = e.sv.todo ∧
        d.mem = Memory.write e.mem (mramBase + (journalAt + e.sv.jpos)) (recordBytes b.kind e.sv.jseq (recordLen b.entries) b.entries)) ∧
      (∀ c, w.command = some c → s.dev.journalFits (recordLen b.entries) = false → s.dev.sv.committed = [] → c.via = .mailbox →
        s.dev.sv.waiting = [] → Completes .journalWaitExpiry s fun d =>
        d.sv.mboxOut = itemHeader 0x51 3 false false 0 :: responseWords c 0x13 [] ∧ d.rd SV_MBOX_STATUS_OUT_READY = 1 ∧ d.sv.todo = rest ∧
        d.mem = s.dev.mem)) ∧
    (∀ r rest, s.dev.runtime = true → s.dev.power.fence = false → s.dev.sv.committed = r :: rest → r.post = none → r.replies = [] →
      Completes .journalApply s fun d =>
        d.rd SV_APPLIED_SEQ = r.seq % 2 ^ 64 ∧ d.sv.committed = rest ∧
        d.mem = Memory.write (Memory.write (applyEntries s.dev.mem r.entries) (mramBase + Machine.controlAt) (leBytes 8 r.seq))
          (mramBase + (Machine.controlAt + 8)) (leBytes 4 r.next ++ leBytes 4 0)) ∧
    (s.dev.runtime = true →
      (∀ k x rest, s.dev.sv.held = (k, x) :: rest → Completes .coalesceTimer s fun d =>
        d.sv = { s.dev.sv with held := rest, todo := s.dev.sv.todo ++ [.refresh k x] } ∧ d.mem = s.dev.mem ∧
        d.time = (s.dev.reach (stampNs (((s.dev.regRecord k).drop 0x20).take 12) + s.dev.coalesceMs * 1000000)).time) ∧
      (∀ k, k < registrySize → ∀ r, r = s.dev.vread (64 * k) 64 → recState r = 1 → u8At r 0x1F = 1 →
        le16At (s.dev.policy (le16At r 0x10)) 1 ≠ 0 → Completes (.absenceTimeout k) s fun d =>
        (recKey r, 9) ∈ d.sv.verdicts ∧ d.sv.held = s.dev.sv.held.filter (·.1 ≠ k) ∧ d.mem = s.dev.mem ∧
        ∃ a, d.sv.todo.getLast? = some (.absent k a) ∧ a.typ = some 1 ∧ a.record = k ∧ a.berth = some (le16At r 0x1C)) ∧
      (s.dev.on CY_KSTATUS_DIRTY = true → (∀ x, Work.keys x ∉ s.dev.sv.todo) → Completes .keyBlobSave s fun d =>
        d = ({ s.dev with out := [] } : Dev).owe (.keys none)) ∧
      (s.dev.on TS_STATUS_NB_DIRTY = true → (∀ b t, Work.tables b t ∉ s.dev.sv.todo) → Completes .nbTableSave s fun d =>
        d = ({ s.dev with out := [] } : Dev).owe (.tables 0 s.dev.ts.tables)) ∧
      (∀ k : Fin 8, s.dev.dirtyBlocks k.val ≠ [] → Completes (.emuImagePersist k) s fun d =>
        d = ({ s.dev with out := [] } : Dev).owe (.image k.val)) ∧
      (s.dev.on CL_STATUS_COUNT_DIRTY = true → Completes .calCountJournal s fun d =>
        d = ({ s.dev with out := [] } : Dev).owe .count))

/-! The Tideclock (14_tideclock.md). -/

/-- Measured offsets and steps (R337 to R343): an offset is acquired, refused or taken into the servo; steps, holdover, the source and the master. -/
def Obligations.OffsetsAndSteps : Prop :=
  ∀ (s : State) (p : Path), s.dev.reaches p 0x4000 = true →
    (∀ (w : Word) (x lim : Int), s.dev.rd TC_CFG_SRC = 1 → x = toSigned 64 (join64 (s.dev.staged p 0x4040 0) w.toNat) →
      lim = (s.dev.rd TC_JUMP_LIMIT_LIMIT * 65536 : Nat) →
      (s.dev.on TC_STATUS_SET = false → x < 0 → Completes (.offsetDelivered p w) s fun d =>
        (d.time : Int) = s.dev.time - x * 2 ^ 24 ∧ d.rd TC_STATUS_SET = 1 ∧ d.rd TC_STATUS_STEPPED = 1 ∧ d.rd TC_LAST_OFFSET_VERDICT = 3 ∧ d.mem = s.dev.mem) ∧
      ((s.dev.on TC_STATUS_SET = true ∨ 0 ≤ x) → (lim < x ∨ x < -lim) → Completes (.offsetDelivered p w) s fun d =>
        d.time = s.dev.time ∧ d.tc.held = some x ∧ d.rd TC_LAST_OFFSET_VERDICT = 2 ∧ d.rd TC_STATUS_STEP_REFUSED = 1 ∧
        d.rd TC_STATUS_REFUSED_PENDING = 1 ∧ d.mem = s.dev.mem) ∧
      ((s.dev.on TC_STATUS_SET = true ∨ 0 ≤ x) → x ≤ lim → -lim ≤ x → Completes (.offsetDelivered p w) s fun d =>
        d.time = s.dev.time ∧ d.tc.held = none ∧ d.rd TC_LAST_OFFSET_VERDICT = 1 ∧ d.rd TC_STATUS_REFUSED_PENDING = 0 ∧
        d.rd TC_STATUS_HOLDOVER = 0 ∧ d.tc.lastAt = s.dev.time ∧ d.mem = s.dev.mem)) ∧
    (∀ x, x = toSigned 64 (s.dev.rd TC_STEP_NS) * 2 ^ 40 →
      (x ≠ 0 → 0 ≤ (s.dev.time : Int) + x → 0 < x ∨ s.dev.on TC_CFG_ALLOW_BACK = true → Completes (.step p) s fun d =>
        (d.time : Int) = s.dev.time + x ∧ d.rd TC_STATUS_SET = 1 ∧ d.rd TC_STATUS_STEPPED = 1 ∧ d.rd TC_CMD_STATUS_CODE = cDONE ∧ d.mem = s.dev.mem) ∧
      (x = 0 → Completes (.step p) s fun d => d.time = s.dev.time ∧ d.rd TC_CMD_STATUS_CODE = cEMPTY ∧ d.mem = s.dev.mem) ∧
      (x < 0 → 0 ≤ (s.dev.time : Int) + x → s.dev.on TC_CFG_ALLOW_BACK = false → Completes (.step p) s fun d =>
        d.time = s.dev.time ∧ d.rd TC_CMD_STATUS_CODE = cREFUSED ∧ d.mem = s.dev.mem)) ∧
    (∀ x, s.dev.tc.held = some x → x ≤ 0 → Completes (.acceptStep p) s fun d =>
      (d.time : Int) = s.dev.time - x * 2 ^ 24 ∧ d.tc.held = none ∧ d.rd TC_STATUS_REFUSED_PENDING = 0 ∧ d.rd TC_CMD_STATUS_CODE = cDONE) ∧
    (∀ x, s.dev.tc.held = some x → 0 < x → Completes (.acceptStep p) s fun d =>
      d.time = s.dev.time ∧ d.tc.held = some x ∧ d.rd TC_CMD_STATUS_CODE = cREFUSED ∧ d.mem = s.dev.mem) ∧
    (s.dev.tc.held = none → Completes (.acceptStep p) s fun d => d.time = s.dev.time ∧ d.rd TC_CMD_STATUS_CODE = cEMPTY ∧ d.mem = s.dev.mem) ∧
    (s.dev.rd TC_CFG_SRC ≠ 0 → s.dev.on TC_STATUS_HOLDOVER = false → Completes (.hold p) s fun d =>
      d.rd TC_STATUS_HOLDOVER = 1 ∧ d.rd TC_STATUS_HOLD_SEEN = 1 ∧ d.rd TC_RATE_VALUE = ofSigned 32 s.dev.integ ∧ d.rd TC_CMD_STATUS_CODE = cDONE ∧
      d.mem = s.dev.mem) ∧
    (s.dev.rd TC_CFG_SRC = 0 → Completes (.hold p) s fun d => d.rd TC_CMD_STATUS_CODE = cREFUSED ∧ d.mem = s.dev.mem) ∧
    (∀ w : Word, bits w.toNat 31 30 ≠ 3 → bits w.toNat 31 30 ≠ s.dev.rd TC_CFG_SRC → Completes (.srcWrite p w) s fun d =>
      d.rd TC_CFG_SRC = bits w.toNat 31 30 ∧ d.rd TC_STATUS_MASTER_CHANGED = 1 ∧ d.mem = s.dev.mem) ∧
    (∀ w : Word, bits w.toNat 31 30 = 3 → Completes (.srcWrite p w) s fun d =>
      d.rd TC_CFG_SRC = s.dev.rd TC_CFG_SRC ∧ d.rd (ERR_RANGE 0x4000) = 1 ∧ d.mem = s.dev.mem) ∧
    (∀ (w : Word) v, v = join64 (s.dev.staged p 0x4060 (s.dev.rd TC_MASTER_ID % 2 ^ 32)) w.toNat → v ≠ s.dev.rd TC_MASTER_ID →
      Completes (.masterChange p w) s fun d => d.rd TC_MASTER_ID = v % 2 ^ 64 ∧ d.rd TC_STATUS_MASTER_CHANGED = 1 ∧ d.mem = s.dev.mem)

/-- Beacons, holdover for want of them, timed pulses, the alarm and captures (R342, R344, R350 to R353, R381). -/
def Obligations.TimeEventsHappen : Prop :=
  ∀ s : State,
    (s.dev.applied = true →
      (Completes .beaconSend s fun d =>
        (∀ q : Fin 4, q.val ∈ s.dev.beaconPorts → (d.port q.val).times = (s.dev.port q.val).times ++ [⟨3, 0, 0⟩]) ∧
        (∀ q : Fin 4, q.val ∉ s.dev.beaconPorts → d.port q.val = s.dev.port q.val) ∧ d.mem = s.dev.mem) ∧
      (∀ (p : Fin 4) t3, s.dev.link p.val = lUP → Completes (.dreq p t3) s fun d =>
        (d.port p.val).times = (s.dev.port p.val).times ++ [⟨5, s.dev.time / 2 ^ 24, t3⟩] ∧ d.regs = s.dev.regs ∧ d.mem = s.dev.mem) ∧
      (∀ p : Fin 4, s.dev.rd TC_CFG_SRC = 2 → s.dev.on HS_UPSTREAM_VALID = true → s.dev.rd HS_UPSTREAM_PORT = p.val →
        (∀ t1, Completes (.beacon p t1) s fun d =>
          d.tc.t1 = t1 ∧ d.tc.t2 = s.dev.time / 2 ^ 24 ∧ (d.port p.val).times = (s.dev.port p.val).times ++ [⟨4, 0, 0⟩] ∧ d.regs = s.dev.regs ∧ d.mem =
              s.dev.mem) ∧
        (∀ t4, s.dev.tc.dlyPort ≠ some p.val → Completes (.dresp p t4 s.dev.tc.t3) s fun d =>
          ∃ m : Int, d.rd (TC_LINKDLY_M p.val) = ofSigned 32 m ∧
            8192 * m - (((t4 : Int) - s.dev.tc.t1) - ((s.dev.tc.t3 : Int) - s.dev.tc.t2)) < 8192 ∧
            (((t4 : Int) - s.dev.tc.t1) - ((s.dev.tc.t3 : Int) - s.dev.tc.t2)) - 8192 * m < 8192))) ∧
    (s.dev.power.step ≠ .off →
      (s.dev.rd TC_CFG_SRC = 2 → s.dev.on TC_STATUS_HOLDOVER = false → Completes .beaconHoldoverTimeout s fun d =>
        d.rd TC_STATUS_HOLDOVER = 1 ∧ d.rd TC_STATUS_HOLD_SEEN = 1 ∧ d.rd TC_RATE_VALUE = ofSigned 32 s.dev.integ ∧ d.mem = s.dev.mem) ∧
      (s.dev.time < s.dev.pulseStart 0 * 2 ^ 40 → s.dev.wakeEnabled .alarm = true → s.dev.power.entry = .none → s.dev.rd PW_STATE_CUR = 3 →
        s.dev.power.waking = false → Completes .tcAlarm s fun d => d.rd PW_STATE_BUSY = 1 ∧ d.power.waking = true ∧ d.mem = s.dev.mem) ∧
      (∀ k : Fin 4,
        (s.dev.on (TC_PULSE_STAT_ACTIVE k.val) = true → Completes (.pulseEdge k) s fun d =>
          ∃ t, t = s.dev.pulseStart k.val + (s.dev.pulse k.val).edge * s.dev.rd (TC_PULSE_PERIOD_NS k.val) ∧
            d.pulse k.val = ⟨(s.dev.pulse k.val).edge + 1, true, t + s.dev.rd (TC_PULSE_WIDTH_NS k.val)⟩ ∧
            d.rd (TC_PULSE_STAT_ACTIVE k.val) = (if s.dev.rd (TC_PULSE_PERIOD_NS k.val) = 0 then 0 else s.dev.rd (TC_PULSE_STAT_ACTIVE k.val)) ∧ d.mem =
                s.dev.mem) ∧
        ((s.dev.pulse k.val).high = true → Completes (.pulseEnd k) s fun d => (d.pulse k.val).high = false ∧ d.mem = s.dev.mem) ∧
        (∀ up : Bool, s.dev.on (TC_CAP_CFG_EN k.val) = true → bit (s.dev.rd (TC_CAP_CFG_EDGE k.val)) (if up then 0 else 1) = true →
          (s.dev.cap k.val).quietUntil ≤ s.dev.time →
          ((s.dev.cap k.val).buf.length < 4 → Completes (.captureEdge k up) s fun d =>
            (d.cap k.val).buf = (s.dev.cap k.val).buf ++ [(up, s.dev.stamp)] ∧ d.mem = s.dev.mem) ∧
          (4 ≤ (s.dev.cap k.val).buf.length → Completes (.captureEdge k up) s fun d =>
            (d.cap k.val).buf = (s.dev.cap k.val).buf ∧ d.rd TC_STATUS_CAP_LOST = 1 ∧ d.mem = s.dev.mem)) ∧
        (∀ x rest, (s.dev.cap k.val).buf = x :: rest → s.dev.blockRuns 0x20000 = true → Completes (.captureItem k) s fun d =>
          (d.cap k.val).buf = rest ∧ d.rd (TC_CAP_STAT_FILL k.val) = rest.length % 8 ∧ d.rd (TC_CAP_STAT_LOST k.val) = 0 ∧ d.mem = s.dev.mem))) ∧
    (∀ (p : Path) (k : Fin 4) (w : Word), s.dev.reaches p 0x4000 = true →
      (s.dev.on (TC_PULSE_STAT_ACTIVE k.val) = false → bit w.toNat 31 = true → bit w.toNat 30 = false →
        ∀ width period start, width = s.dev.rd (TC_PULSE_WIDTH_NS k.val) → period = s.dev.rd (TC_PULSE_PERIOD_NS k.val) →
        start = s.dev.pulseStart k.val * 2 ^ 40 → width ≠ 0 →
        (period = 0 → s.dev.time + 1000 * 2 ^ 40 ≤ start → Completes (.pulseArm p k w) s fun d =>
          d.rd (TC_PULSE_STAT_ACTIVE k.val) = 1 ∧ d.rd (TC_PULSE_STAT_CODE k.val) = cDONE ∧ (d.pulse k.val).edge = 0 ∧ d.mem = s.dev.mem) ∧
        (period = 0 → start < s.dev.time + 1000 * 2 ^ 40 → Completes (.pulseArm p k w) s fun d =>
          d.rd (TC_PULSE_STAT_ACTIVE k.val) = 0 ∧ d.rd (TC_PULSE_STAT_CODE k.val) = 0x10 ∧ d.mem = s.dev.mem) ∧
        (width + 5 ≤ period → Completes (.pulseArm p k w) s fun d =>
          d.rd (TC_PULSE_STAT_ACTIVE k.val) = 1 ∧ d.rd (TC_PULSE_STAT_CODE k.val) = cDONE ∧ d.mem = s.dev.mem) ∧
        (0 < period → period < width + 5 → Completes (.pulseArm p k w) s fun d =>
          d.rd (TC_PULSE_STAT_ACTIVE k.val) = 0 ∧ d.rd (TC_PULSE_STAT_CODE k.val) = cRANGE ∧ d.mem = s.dev.mem)) ∧
      (bit w.toNat 31 = false → (s.dev.on (TC_PULSE_STAT_ACTIVE k.val) = true → bits w.toNat 0 0 = s.dev.rd (TC_PULSE_CTL_POL k.val)) →
        bit w.toNat 30 = true → Completes (.pulseStop p k w) s fun d =>
        d.rd (TC_PULSE_STAT_ACTIVE k.val) = 0 ∧ (d.pulse k.val).high = false ∧ d.mem = s.dev.mem))

/-! The Hawser fabric (15_hawser_fabric.md). -/

/-- A link trains, carries link frames, and drops (R356, R360 to R364). -/
def Obligations.LinksTrainAndCarry : Prop :=
  ∀ (s : State) (p : Fin 4), s.dev.power.linkDue = false →
    (s.dev.coreRuns = true →
      (s.dev.link p.val = lDETECT → (s.dev.port p.val).holdoff = false → Completes (.linkDetect p) s fun d => d.link p.val = lTRAIN ∧ d.mem = s.dev.mem) ∧
      (s.dev.link p.val = lTRAIN → Completes (.linkTrainDone p) s fun d => d.link p.val = lALIGN ∧ d.mem = s.dev.mem) ∧
      (s.dev.link p.val = lALIGN → Completes (.linkAlignDone p) s fun d => d.link p.val = lEXCHANGE ∧ d.mem = s.dev.mem) ∧
      (s.dev.link p.val = lEXCHANGE → Completes (.linkFrameSend p) s fun d =>
        d.out = bytesToWords (frameBytes 6 0 (((s.dev.port p.val).expect + 255) % 256) false false 0x3FF (trainPayload p.val s.dev)) ∧
        d.regs = s.dev.regs ∧ d.mem = s.dev.mem) ∧
      (∀ i : TrainInfo, s.dev.link p.val = lEXCHANGE →
        (i.booting = false → s.dev.marksBooting p.val = false → Completes (.trainInfo p i) s fun d =>
          d.link p.val = (if i.unit.toNat = s.dev.rd GC_UNITID_ID then lLOOP else if i.fabric.toNat ≠ s.dev.rd HS_FABRIC_ID_ID then lFOREIGN else lUP) ∧
          d.rd (HSP_NEIGH_ID p.val) = i.unit.toNat ∧ d.rd (HSP_DIAG_LEN_M p.val) = i.length.toNat ∧ d.mem = s.dev.mem) ∧
        (i.booting = false → s.dev.marksBooting p.val = true → Completes (.trainInfo p i) s fun d => d.link p.val = lUP ∧ d.mem = s.dev.mem) ∧
        (i.booting = true → Completes (.trainInfo p i) s fun d =>
          d.link p.val = lBOOT_PEER ∧ d.rd (HSP_NEIGH_ID p.val) = i.unit.toNat ∧ d.mem = s.dev.mem)) ∧
      (1 ≤ s.dev.link p.val → s.dev.link p.val ≤ 4 → Completes (.linkTrainTimeout p) s fun d =>
        d.link p.val = lDETECT ∧ (s.dev.link p.val = lDETECT → d.rd (HSP_STATUS_NO_SIGNAL_SEEN p.val) = 1) ∧ d.mem = s.dev.mem) ∧
      (s.dev.link p.val = lDETECT → Completes (.linkRedetect p) s fun d => (d.port p.val).holdoff = false ∧ d.regs = s.dev.regs ∧ d.mem = s.dev.mem) ∧
      (s.dev.link p.val = lFOREIGN ∨ s.dev.link p.val = lLOOP → Completes (.lineEnergyLost p) s fun d => d.link p.val = lDETECT ∧ d.mem = s.dev.mem) ∧
      (s.dev.link p.val = lUP ∨ s.dev.link p.val = lBOOT_PEER → Completes (.linkDrop p) s fun d =>
        d.link p.val = lDETECT ∧ d.rd (HSP_STATUS_DOWN_SEEN p.val) = 1 ∧ d.rd (HSP_ERR_DOWN p.val) = min (s.dev.rd (HSP_ERR_DOWN p.val) + 1) 255 ∧
        d.rd (HSP_STATUS_NEIGH_VALID p.val) = 0 ∧ d.mem = s.dev.mem)) ∧
    (∀ (a : Path) (c : Bool), s.dev.reaches a 0x8000 = true → s.dev.link p.val ≠ lOFF → Completes (.retrain a p c) s fun d =>
      d.link p.val = lDETECT ∧ (s.dev.link p.val = lUP ∨ s.dev.link p.val = lBOOT_PEER → d.rd (HSP_STATUS_DOWN_SEEN p.val) = 1) ∧ d.mem = s.dev.mem) ∧
    (s.dev.carries p.val = true → ∀ x, x = s.dev.port p.val →
      (∀ c i n, x.failed < 31 → Completes (.codewordReceived p none c i n) s fun d =>
        (d.port p.val).failed = x.failed + 1 ∧ (d.port p.val).gap = true ∧ (x.gap = false → (d.port p.val).nakDue = true) ∧
        d.rd (HSP_CW_COUNT p.val) = (s.dev.rd (HSP_CW_COUNT p.val) + 1) % 2 ^ 64 ∧ d.rd (HSP_ERR_CW_FAIL p.val) = min (s.dev.rd (HSP_ERR_CW_FAIL p.val) + 1)
            255 ∧
        d.mem = s.dev.mem) ∧
      (∀ (f : LinkFrame) c i n, f.kind.val = 1 → f.nak = false → f.fseq.toNat = x.expect → x.window = [] →
        ∀ r, r = takeStream (if f.control then x.rxControl else x.rxMessage) f.start.val f.payload → Completes (.codewordReceived p (some f) c i n) s fun d =>
        (d.port p.val).expect = (f.fseq.toNat + 1) % 256 ∧ (d.port p.val).arrived = x.arrived ++ r.1 ∧
        (if f.control then (d.port p.val).rxControl = r.2 else (d.port p.val).rxMessage = r.2) ∧ (d.port p.val).failed = 0 ∧ d.mem = s.dev.mem) ∧
      (∀ (f : LinkFrame) c i n k, f.kind.val = 0 → f.nak = false → x.window.findIdx? (·.fseq = f.ack.toNat) = some k →
        Completes (.codewordReceived p (some f) c i n) s fun d =>
        (d.port p.val).window = x.window.drop (k + 1) ∧ (d.port p.val).expect = x.expect ∧ d.mem = s.dev.mem) ∧
      (∀ f fs, x.window = f :: fs → f.resent < s.dev.rd (HSP_CFG_RETRY_MAX p.val) → Completes (.ackTimeout p) s fun d =>
        (d.port p.val).window = { f with resent := f.resent + 1 } :: fs ∧ (d.port p.val).cursor = 0 ∧ d.regs = s.dev.regs ∧ d.mem = s.dev.mem) ∧
      (s.dev.hs.reply = none → s.dev.ts.outbox = [] → s.dev.hs.serving = none → x.times = [] → x.nakDue = false → x.window.drop x.cursor = [] →
        x.control.busy = false →
        (x.message.busy = false → Completes (.linkFrameSend p) s fun d =>
          d.out = bytesToWords (frameBytes 0 0 ((x.expect + 255) % 256) false false 0x3FF []) ∧ d.hs = s.dev.hs ∧ d.regs = s.dev.regs ∧ d.mem = s.dev.mem) ∧
        (x.message.busy = true → x.window.length < 64 → ∀ r, r = nextData x.message false x.nextSeq → Completes (.linkFrameSend p) s fun d =>
          d.out = bytesToWords (frameBytes 1 x.nextSeq ((x.expect + 255) % 256) false false r.1.start r.1.payload) ∧
          (d.port p.val).window = x.window ++ [r.1] ∧ (d.port p.val).message = r.2 ∧ (d.port p.val).nextSeq = (x.nextSeq + 1) % 256 ∧
          d.regs = s.dev.regs ∧ d.mem = s.dev.mem)))

/-- Discovery: HELLO and the root's election, addresses and bindings, link state and routes, Cascade (R366, R369 to R375, R382, R383). -/
def Obligations.DiscoveryAndRouting : Prop :=
  ∀ s : State, s.dev.applied = true →
    (s.dev.rd HS_STATUS_DISC = 1 → Completes .helloSend s fun d =>
      d = flood none 1 1 (leBytes 1 (s.dev.rd HS_MCFG_PRIORITY) ++ leBytes 8 (s.dev.rd GC_UNITID_ID) ++ leBytes 1 s.dev.hs.cand.1 ++
        leBytes 8 s.dev.hs.cand.2.1 ++ leBytes 2 s.dev.hs.cand.2.2) { s.dev with out := [] }) ∧
    (s.dev.rd HS_STATUS_MODE = 1 →
      (∀ (p : Fin 4), s.dev.link p.val = lUP →
        (∀ (prio : Byte) (u : BitVec 64) (hops : BitVec 16), s.dev.rd HS_STATUS_DISC = 1 → better (prio.toNat, u.toNat, hops.toNat) s.dev.hs.cand = true →
          Completes (.hello p prio u hops) s fun d =>
            d.hs.cand = (prio.toNat, u.toNat, hops.toNat + 1) ∧ d.hs.candAt = s.dev.ns ∧ (d.port p.val).heard = some (prio.toNat, u.toNat, hops.toNat) ∧
            d.regs = s.dev.regs ∧ d.mem = s.dev.mem) ∧
        (∀ (u : BitVec 64) (h : Option (BitVec 12)) a, s.dev.rd HS_STATUS_ROLE = 2 → s.dev.choose u.toNat (h.map (·.toNat)) = some a →
          Completes (.addressRequest p u h) s fun d =>
            d = sendLocal p.val 1 3 (leBytes 8 u.toNat ++ leBytes 2 a ++ [0, 0]) (assignAs u.toNat a { s.dev with out := [] }) ∧
            ∃ b ∈ d.hs.bindings, b.unit = u.toNat ∧ b.addr = a ∧ b.present = true) ∧
        (∀ (u : BitVec 64) (a : BitVec 12) (c : Bool) (r : BitVec 12), u.toNat = s.dev.rd GC_UNITID_ID → Completes (.addressAssign p u (some a) c r) s fun d =>
            d.rd HS_STATUS_ADDR = a.toNat ∧ d.rd HS_STATUS_ADDR_VALID = 1 ∧ d.rd HS_STATUS_ADDR_FULL = 0 ∧ d.rd HS_ROOTINFO_ADDR = r.toNat ∧
            (s.dev.rd HS_STATUS_DISC = 2 → d.rd HS_STATUS_DISC = 3) ∧ d.mem = s.dev.mem) ∧
        (∀ (u : BitVec 64) (c : Bool) (r : BitVec 12), u.toNat = s.dev.rd GC_UNITID_ID → Completes (.addressAssign p u none c r) s fun d =>
            d.rd HS_STATUS_ADDR_FULL = 1 ∧ d.hs = s.dev.hs ∧ d.mem = s.dev.mem) ∧
        (∀ (u : BitVec 64) (a : BitVec 12), s.dev.hs.bindings.any (fun x => x.unit == u.toNat && x.addr == a.toNat) = false → Completes (.bind p u a) s fun d =>
            (∃ b ∈ d.hs.bindings, b.unit = u.toNat ∧ b.addr = a.toNat ∧ b.present = true) ∧ d.mem = s.dev.mem) ∧
        (∀ i : LsaInfo, s.dev.hs.lsas.find? (fun x => decide (x.unit = i.unit.toNat)) = none → i.unit.toNat ≠ s.dev.rd GC_UNITID_ID → s.dev.rd
            HS_STATUS_ROLE ≠ 2 →
          Completes (.lsa p i) s fun d =>
            (∃ l ∈ d.hs.lsas, l.unit = i.unit.toNat ∧ l.addr = i.addr.toNat ∧ l.seq = i.seq.toNat) ∧ d.hs.stale = true ∧ d.mem = s.dev.mem) ∧
        (∀ i l, s.dev.hs.lsas.find? (fun x => decide (x.unit = i.unit.toNat)) = some l → i.seq.toNat ≤ l.seq → Completes (.lsa p i) s fun d =>
            d = { s.dev with out := [] })) ∧
      (s.dev.rd HS_STATUS_DISC = 1 → ∀ prio u h, s.dev.hs.cand = (prio, u, h) → u < 2 ^ 64 →
        (u ≠ s.dev.rd GC_UNITID_ID → Completes .electEnd s fun d =>
          d.rd HS_STATUS_ROLE = 1 ∧ d.rd HS_ROOT_ID = u ∧ d.rd HS_STATUS_DISC = (if s.dev.on HS_STATUS_ADDR_VALID then 3 else 2) ∧ d.mem = s.dev.mem) ∧
        (u = s.dev.rd GC_UNITID_ID → s.dev.hs.bindings = [] → s.dev.on HS_STATUS_ADDR_VALID = false → Completes .electEnd s fun d =>
          d.rd HS_STATUS_ROLE = 2 ∧ d.rd HS_ROOT_ID = u ∧ d.rd HS_STATUS_DISC = 3 ∧ d.rd HS_STATUS_ADDR = 0 ∧ d.rd HS_STATUS_ADDR_VALID = 1 ∧ d.mem =
              s.dev.mem)) ∧
      (s.dev.rd HS_STATUS_DISC = 1 ∨ s.dev.rd HS_STATUS_DISC = 2 → s.dev.on HS_STATUS_ADDR_FULL = false → s.dev.rd HS_STATUS_FAILS < 7 →
        Completes .discoveryTimeout s fun d => d.rd HS_STATUS_FAILS = s.dev.rd HS_STATUS_FAILS + 1 ∧ d.rd HS_STATUS_DISC = 1 ∧ d.mem = s.dev.mem) ∧
      (s.dev.rd HS_STATUS_DISC = 3 → Completes .lsaRefresh s fun d =>
        d.hs.lsaSeq = (s.dev.hs.lsaSeq + 1) % 2 ^ 32 ∧ s.dev.ownLsa ∈ d.hs.lsas ∧ d.mem = s.dev.mem) ∧
      (s.dev.rd HS_STATUS_DISC = 3 → s.dev.power.linkDue = false → s.dev.hs.orphans = [] → Completes .routingTableUpdate s fun d =>
        d.hs.routes = s.dev.computeRoutes ∧ d.mem = s.dev.mem)) ∧
    (∀ (u : BitVec 64) l, s.dev.hs.lsas.find? (fun x => decide (x.unit = u.toNat)) = some l → u.toNat ≠ s.dev.rd GC_UNITID_ID → Completes (.lsaAgeOut u) s
        fun d =>
      d.hs.lsas = s.dev.hs.lsas.filter (fun x => decide (x.unit ≠ u.toNat)) ∧ d.mem = s.dev.mem) ∧
    (∀ (a : BitVec 12) b, s.dev.hs.bindings.find? (fun x => x.addr == a.toNat && !x.present) = some b → Completes (.bindingExpiry a) s fun d =>
      d.hs.bindings = s.dev.hs.bindings.filter (· ≠ b) ∧ d.mem = s.dev.mem) ∧
    (∀ a : Path, s.dev.reaches a 0x8000 = true → s.dev.rd HS_MCFG_MODE = 1 → Completes (.rediscover a) s fun d =>
      d.rd HS_CMD_STATUS_CODE = 0 ∧ d.rd HS_STATUS_FAILS = 0 ∧ d.rd HS_STATUS_MODE = 1 ∧ d.mem = s.dev.mem) ∧
    (∀ (p : Fin 2) (pos : Int) (strapped : Bool) (m : BitVec 64), s.dev.rd HS_STATUS_MODE = 2 → s.dev.link p.val = lUP → s.dev.on GC_STRAP_CASCADE_MASTER =
        false →
      s.dev.followsChain p.val strapped = true → Completes (.chain p pos strapped m) s fun d =>
        d.rd HS_STATUS_ROLE = 1 ∧ d.rd HS_STATUS_DISC = 4 ∧ d.rd HS_STATUS_ADDR = (pos % 4096).toNat ∧ d.rd HS_STATUS_ADDR_VALID = 1 ∧ d.rd HS_ROOT_ID =
            m.toNat ∧
        d.hs.position = pos ∧ d.rd HS_UPSTREAM_PORT = p.val ∧ d.mem = s.dev.mem)

/-- Packets: sending, receiving and forwarding, remote register accesses, and the reset of another device (R366, R367, R377, R378, R380). -/
def Obligations.HawserPackets : Prop :=
  ∀ s : State, s.dev.applied = true →
    (∀ (a : Path) (w : Word) ws, s.dev.reaches a 0x8000 = true → ws = ((s.dev.hs.asm.find? (·.1 = a)).map (·.2)).getD [] ++ [w] →
      (ws.length < 2 + (min (bits (wordAt ws 0) 11 0) 4095 + 3) / 4 → Completes (.hsSendWord a w) s fun d =>
        d.hs.asm = s.dev.hs.asm.filter (·.1 ≠ a) ++ [(a, ws)] ∧ d.regs = s.dev.regs ∧ d.mem = s.dev.mem) ∧
      (2 + (min (bits (wordAt ws 0) 11 0) 4095 + 3) / 4 ≤ ws.length →
        (1008 < bits (wordAt ws 0) 11 0 ∨ (bits (wordAt ws 0) 16 12 ≠ 3 ∧ bits (wordAt ws 0) 16 12 ≠ 8) → Completes (.hsSendWord a w) s fun d =>
          d.rd HS_SEND_STATUS_CODE = cRANGE ∧ d.hs.asm = s.dev.hs.asm.filter (·.1 ≠ a) ∧ d.hs.ports = s.dev.hs.ports ∧ d.mem = s.dev.mem) ∧
        (bits (wordAt ws 0) 11 0 ≤ 1008 → bits (wordAt ws 0) 16 12 = 8 →
          (s.dev.on HS_STATUS_ADDR_VALID = false → Completes (.hsSendWord a w) s fun d =>
            d.rd HS_SEND_STATUS_CODE = cREFUSED ∧ d.hs.ports = s.dev.hs.ports ∧ d.mem = s.dev.mem) ∧
          (∀ q : Fin 4, ∀ x : Packet, s.dev.on HS_STATUS_ADDR_VALID = true → s.dev.rd HS_STATUS_MODE ≠ 0 → bit (wordAt ws 0) 17 = false →
            x = ⟨8, bits (wordAt ws 0) 31 20, bits (wordAt ws 0) 19 18, false, s.dev.rd HS_STATUS_ADDR, s.dev.rd HS_CFG_TTL, bits (wordAt ws 1) 31 24,
                s.dev.hs.pseq,
              (wordsToBytes (ws.drop 2)).take (bits (wordAt ws 0) 11 0)⟩ →
            x.dst ≠ s.dev.rd HS_STATUS_ADDR → s.dev.nextHop x.dst = some q.val → s.dev.link q.val = lUP → s.dev.room q.val false x.bytes.length = true →
            Completes (.hsSendWord a w) s fun d =>
              d.rd HS_SEND_STATUS_CODE = cDONE ∧ d.hs.pseq = (s.dev.hs.pseq + 1) % 65536 ∧
              (d.port q.val).message.waiting = (s.dev.port q.val).message.waiting ++ [(s.dev.hs.pid + 1, x.bytes)] ∧ d.mem = s.dev.mem)))) ∧
    (∀ (p : Fin 4) bs rest x e, (s.dev.port p.val).arrived = bs :: rest → s.dev.link p.val = lUP → x = parsePacket bs →
      e = ({ s.dev with out := [] } : Dev).modPort p.val (fun y => { y with arrived := rest }) → Completes (.packetReceived p) s fun d =>
        d = (if !(x.loc || (s.dev.on HS_STATUS_ADDR_VALID && x.dst = s.dev.rd HS_STATUS_ADDR)) then forward x e
          else if !pcrcOk bs then e.countSat HS_STATS_FWD_DROP 1 else deliver p.val x bs e)) ∧
    (∀ p bs rest x e, s.dev.hs.regs = (p, bs) :: rest → s.dev.hs.reply = none → x = parsePacket bs →
      e = (fun code => ({ s.dev with out := [] }.modHs fun h => { h with regs := rest, reply := some (p, bs, code), got := [] }).beginAccess .hawser) →
      (x.typ = 1 → s.dev.on HS_CFG_REMOTE_RD = true → 1 ≤ u8At x.body 4 → u8At x.body 4 ≤ 64 → Completes .regReadPacket s fun d =>
        d = regFinish (busRead .hawser (le32At x.body 0) (u8At x.body 4) (e cDONE))) ∧
      (x.typ = 1 → s.dev.on HS_CFG_REMOTE_RD = false → Completes .regReadPacket s fun d => d = regFinish (e cREFUSED)) ∧
      (∀ frs, x.typ = 2 → s.dev.on HS_CFG_REMOTE_WR = true → 1 ≤ u8At x.body 4 → u8At x.body 4 ≤ 64 → (x.body.drop 8).length = 4 * u8At x.body 4 →
        Completes (.regWritePacket frs) s fun d => d = regFinish (busWrite .hawser (le32At x.body 0) (x.body.drop 8) frs (e cDONE))) ∧
      (∀ frs, x.typ = 2 → s.dev.on HS_CFG_REMOTE_WR = false → Completes (.regWritePacket frs) s fun d => d = regFinish (e cREFUSED))) ∧
    (∀ (t : BitVec 12) (q : Fin 4), s.dev.nextHop t.toNat = some q.val → s.dev.link q.val = lUP → ¬ (s.dev.on HS_STATUS_ADDR_VALID = true ∧ t.toNat =
        s.dev.rd HS_STATUS_ADDR) →
      (s.dev.port q.val).control.waitingBytes + 24 ≤ 65536 →
      (∀ a : Path, s.dev.reaches a 0x8000 = true → s.dev.rd HS_STATUS_ROLE = 2 ∨ s.dev.rd HS_STATUS_ROLE = 3 → Completes (.resetDev a t) s fun d =>
        (d.port q.val).control.waiting = (s.dev.port q.val).control.waiting ++
          [(s.dev.hs.pid + 1, (⟨6, t.toNat, 0, false, s.dev.rd HS_STATUS_ADDR, s.dev.rd HS_CFG_TTL, 1, s.dev.hs.pseq, leBytes 8 (s.dev.rd GC_UNITID_ID)⟩ :
              Packet).bytes)] ∧
        d.hs.resetAt = some s.dev.ns ∧ d.mem = s.dev.mem) ∧
      (∀ u : BitVec 64, u.toNat = s.dev.rd HS_ROOT_ID → s.dev.on GC_CFG_LINK_RESET_OK = true → Completes (.resetOrder t u) s fun d =>
        d.power.linkDue = true ∧ d.power.hold = s.dev.power.hold ∧
        (d.port q.val).control.waiting = (s.dev.port q.val).control.waiting ++
          [(s.dev.hs.pid + 1, (⟨6, t.toNat, 0, false, s.dev.rd HS_STATUS_ADDR, s.dev.rd HS_CFG_TTL, 0x81, s.dev.hs.pseq, [0]⟩ : Packet).bytes)] ∧ d.mem =
              s.dev.mem)) ∧
    (∀ (t : BitVec 12) (u : BitVec 64), s.dev.power.linkDue = false → u.toNat ≠ s.dev.rd HS_ROOT_ID ∨ s.dev.on GC_CFG_LINK_RESET_OK = false →
      Completes (.resetOrder t u) s fun d => d.power.hold = s.dev.power.hold ∧ d.power.linkDue = false ∧ d.rd HS_STATUS_RESET_REFUSED_SEEN = 1) ∧
    (∀ a : Path, ∀ t : BitVec 12, s.dev.reaches a 0x8000 = true → s.dev.rd HS_STATUS_ROLE < 2 → Completes (.resetDev a t) s fun d =>
      d.rd HS_CMD_STATUS_CODE = cREFUSED ∧ d.hs = s.dev.hs ∧ d.mem = s.dev.mem) ∧
    (∀ t, s.dev.hs.resetAt = some t →
      (∀ c : Byte, Completes (.resetReply c) s fun d => d.rd HS_CMD_STATUS_CODE = c.toNat ∧ d.hs.resetAt = none ∧ d.mem = s.dev.mem) ∧
      (Completes .resetReplyTimeout s fun d => d.rd HS_CMD_STATUS_CODE = 0x11 ∧ d.hs.resetAt = none ∧ d.mem = s.dev.mem))

/-! Ethernet and GPIO (16_ethernet.md, 20_interrupts_gpio_debug.md). -/

/-- The Ethernet links, received frames and PAUSE (R387, R389 to R391, R393).
And: Rings handed over, frames sent and their timestamps, and MDIO (R389, R390, R393, R394, R397). -/
def Obligations.EthernetPorts : Prop :=
  (∀ (s : State) (n : Fin 2),
      (s.dev.enAble n.val = true → ∀ (speed : Fin 3),
        (Completes (.sgmiiAutoneg n true true speed) s fun d =>
          d.rd (EN_STATUS_LINK n.val) = 1 ∧ d.rd (EN_STATUS_SPEED n.val) = speed.val ∧
          d.rd (EN_STATUS_LINK_CHG_SEEN n.val) = (if s.dev.on (EN_STATUS_LINK n.val) then s.dev.rd (EN_STATUS_LINK_CHG_SEEN n.val) else 1) ∧ d.mem =
              s.dev.mem) ∧
        (Completes (.sgmiiAutoneg n true false speed) s fun d => d.rd (EN_STATUS_LINK n.val) = 0 ∧ d.rd (EN_STATUS_HALF_SEEN n.val) = 1 ∧ d.mem = s.dev.mem) ∧
        (∀ full, Completes (.sgmiiAutoneg n false full speed) s fun d =>
          d.rd (EN_STATUS_LINK n.val) = 0 ∧ d.rd (EN_STATUS_SPEED n.val) = s.dev.rd (EN_STATUS_SPEED n.val) ∧ d.mem = s.dev.mem)) ∧
      (s.dev.applied = true → s.dev.on (EN_CFG_RX_EN n.val) = true → ∀ (f : List Byte) (sfd : Nat),
        (∀ fcs, Completes (.ethFrameReceived n f fcs true sfd) s fun d =>
          d.rd (EN_STATS_RX_ERR n.val) = min (s.dev.rd (EN_STATS_RX_ERR n.val) + 1) 255 ∧ d.en = s.dev.en ∧ d.mem = s.dev.mem) ∧
        (s.dev.on (EN_STATUS_LINK n.val) = true →
          (Completes (.ethFrameReceived n f false false sfd) s fun d =>
            d.rd (EN_STATS_RX_FCS n.val) = min (s.dev.rd (EN_STATS_RX_FCS n.val) + 1) 255 ∧ d.en = s.dev.en ∧ d.mem = s.dev.mem) ∧
          (60 ≤ f.length → f.length ≤ 1518 →
            (f.take 6 = [0x01, 0x80, 0xC2, 0, 0, 0x01] → beNat ((f.drop 12).take 2) = 0x8808 → beNat ((f.drop 14).take 2) = 1 →
              s.dev.on (EN_CFG_PAUSE_RX n.val) = true → Completes (.ethFrameReceived n f true false sfd) s fun d =>
              (d.enPort n.val).held = decide (beNat ((f.drop 16).take 2) ≠ 0) ∧ d.regs = s.dev.regs ∧ d.mem = s.dev.mem) ∧
            (beNat ((f.drop 12).take 2) ≠ 0x8808 → s.dev.on GC_STATUS_PLLD_LOCK = true → ∀ r, s.dev.rxRing n.val f = some r → s.dev.ringOwned n.val r = false →
              Completes (.ethFrameReceived n f true false sfd) s fun d =>
              d.rd (EN_STATS_RX_DROP n.val) = min (s.dev.rd (EN_STATS_RX_DROP n.val) + 1) 255 ∧ d.rd (EN_STATUS_RX_DROP_SEEN n.val) = 1 ∧ d.mem = s.dev.mem) ∧
            (beNat ((f.drop 12).take 2) ≠ 0x8808 → beNat ((f.drop 12).take 2) ≠ 0x8100 → ptpAt f = none → s.dev.destOk n.val (f.take 6) = true →
              s.dev.on (EN_CFG_ACCEPT_UNTAG n.val) = true → s.dev.ringOwned n.val 1 = true → f.length ≤ s.dev.rd (EN_CFG_BUF_LEN n.val) →
              s.dev.on (EN_CFG_PAUSE_TX n.val) = false → s.dev.on GC_STATUS_PLLD_LOCK = true →
              ∀ desc buf, desc = s.dev.ringAt n.val 1 → buf = Memory.word s.dev.mem (desc + 4) → 0x10000000 ≤ desc → desc + 32 ≤ 0x20000000 →
              0x10000000 ≤ buf → buf + f.length ≤ 0x20000000 → Completes (.ethFrameReceived n f true false sfd) s fun d =>
              d.mem = Memory.write (Memory.write (Memory.write s.dev.mem buf f) desc (leBytes 4 f.length)) (desc + 8)
                (zeros 8 ++ wordsToBytes (s.dev.stampOf (min sfd s.dev.time - s.dev.rd (EN_TS_LAT_INGRESS n.val) * 2 ^ 40)) ++ zeros 4) ∧
              d.rd (EN_RING_HEAD_IDX n.val 1) = (if s.dev.rd (EN_RING_SIZE_N n.val 1) ≤ s.dev.rd (EN_RING_HEAD_IDX n.val 1) + 1 then 0
                else s.dev.rd (EN_RING_HEAD_IDX n.val 1) + 1) ∧
              d.rd (EN_FRAMES_RX n.val) = (s.dev.rd (EN_FRAMES_RX n.val) + 1) % 65536) ∧
            (beNat ((f.drop 12).take 2) ≠ 0x8808 → s.dev.on GC_STATUS_PLLD_LOCK = false → ∀ r, s.dev.rxRing n.val f = some r →
              Completes (.ethFrameReceived n f true false sfd) s fun d =>
              (d.enPort n.val).waiting = (s.dev.enPort n.val).waiting ++ [(r, f, sfd)] ∧ d.regs = s.dev.regs ∧ d.mem = s.dev.mem)))) ∧
      (Completes (.pauseHoldEnd n) s fun d => (d.enPort n.val).held = false ∧ d.regs = s.dev.regs ∧ d.mem = s.dev.mem)) ∧
  (∀ (s : State) (n : Fin 2) (p : Path),
      (s.dev.reaches p (enBase n.val) = true → s.dev.on (EN_CFG_PAUSE_TX n.val) = false → ∀ (r : Fin 6) (w : Word),
        (w.toNat % 65536 < s.dev.rd (EN_RING_SIZE_N n.val r.val) → Completes (.ringTailWrite p n r w) s fun d =>
          d.rd (EN_RING_TAIL_IDX n.val r.val) = w.toNat % 65536 ∧ d.en = s.dev.en ∧ d.mem = s.dev.mem) ∧
        (s.dev.rd (EN_RING_SIZE_N n.val r.val) ≤ w.toNat % 65536 → Completes (.ringTailWrite p n r w) s fun d =>
          d.rd (EN_RING_TAIL_IDX n.val r.val) = s.dev.rd (EN_RING_TAIL_IDX n.val r.val) ∧ d.rd (ERR_RANGE (enBase n.val)) = 1 ∧ d.mem = s.dev.mem)) ∧
      (s.dev.applied = true → s.dev.on (EN_STATUS_LINK n.val) = true → s.dev.on (EN_CFG_TX_EN n.val) = true → s.dev.on GC_STATUS_PLLD_LOCK = true →
          (s.dev.enPort n.val).held = false →
        s.dev.ringOwned n.val 4 = true → ∀ desc w0 f sfd, desc = s.dev.ringAt n.val 4 → w0 = Memory.word s.dev.mem desc → w0 % 2 ^ 14 ≠ 0 →
        bit w0 28 = false → bit w0 29 = false → 0x10000000 ≤ desc → desc + 32 ≤ 0x20000000 →
        f = Memory.read s.dev.mem (Memory.word s.dev.mem (desc + 4)) (w0 % 2 ^ 14) →
        (bit w0 30 = false ∨ ptpAt f = none → Completes (.ethFrameTransmitted n sfd) s fun d =>
          (d.enPort n.val).sent = f ++ zeros (60 - f.length) ∧ d.mem = Memory.write s.dev.mem desc (leBytes 4 (clearBit w0 31)) ∧
          d.rd (EN_RING_HEAD_IDX n.val 4) = (if s.dev.rd (EN_RING_SIZE_N n.val 4) ≤ s.dev.rd (EN_RING_HEAD_IDX n.val 4) + 1 then 0
            else s.dev.rd (EN_RING_HEAD_IDX n.val 4) + 1) ∧
          d.rd (EN_FRAMES_TX n.val) = (s.dev.rd (EN_FRAMES_TX n.val) + 1) % 65536 ∧ d.lq = s.dev.lq) ∧
        (∀ o udp, bit w0 30 = true → ptpAt f = some (o, udp) → u8At f o % 16 < 4 → (s.dev.q 27).stalled = [] →
          (s.dev.q 27).fits (s.dev.qSize 27) 5 = true →
          ((s.dev.q 27).waiting.filter Entry.isItem).length + ((s.dev.q 27).retained.filter Entry.isItem).length < 16 →
          Completes (.ethFrameTransmitted n sfd) s fun d =>
          (d.enPort n.val).sent = f ++ zeros (60 - f.length) ∧
          (d.q 27).waiting = (s.dev.q 27).waiting ++ [⟨.item 0x60 (s.dev.q 27).nextIn
            (packW [(16, 16, beNat ((f.drop (o + 30)).take 2)), (12, 4, n.val), (8, 4, u8At f o % 16), (0, 8, u8At f (o + 4))]
              :: s.dev.stampOf (min sfd s.dev.time + s.dev.rd (EN_TS_LAT_EGRESS n.val) * 2 ^ 40)), false, false⟩])) ∧
      (s.dev.reaches p 0x6000 = true → ∀ (w : Word),
        (s.dev.on EN0_MDIO_CMD_BUSY = false → (if bit w.toNat 30 then bits w.toNat 29 28 ≠ 2 else bits w.toNat 29 28 = 1 ∨ bits w.toNat 29 28 = 2) →
          Completes (.mdioCmd p w) s fun d =>
          d.rd EN0_MDIO_CMD_BUSY = 1 ∧ d.rd EN0_MDIO_CMD_C45 = bits w.toNat 30 30 ∧ d.rd EN0_MDIO_CMD_OP = bits w.toNat 29 28 ∧
          d.rd EN0_MDIO_CMD_PHYAD = bits w.toNat 27 23 ∧ d.rd EN0_MDIO_CMD_REGAD = bits w.toNat 22 18 ∧ d.rd EN0_MDIO_CMD_DATA = bits w.toNat 15 0 ∧
          d.mem = s.dev.mem) ∧
        (s.dev.on EN0_MDIO_CMD_BUSY = true → Completes (.mdioCmd p w) s fun d =>
          d.rd (ERR_LOCKED 0x6000) = 1 ∧ d.rd EN0_MDIO_CMD_DATA = s.dev.rd EN0_MDIO_CMD_DATA ∧ d.rd EN0_MDIO_CMD_OP = s.dev.rd EN0_MDIO_CMD_OP ∧
          d.mem = s.dev.mem)) ∧
      (s.dev.on EN0_MDIO_CMD_BUSY = true → ∀ (data : BitVec 16) (phy : Bool), Completes (.mdioDone phy data) s fun d =>
        d.rd EN0_MDIO_CMD_BUSY = 0 ∧ d.mem = s.dev.mem ∧
        (s.dev.rd EN0_MDIO_CMD_OP = (if s.dev.on EN0_MDIO_CMD_C45 then 3 else 2) →
          d.rd EN0_MDIO_CMD_DATA = (if phy then data.toNat else 0xFFFF) ∧ d.rd EN0_MDIO_CMD_CODE = (if phy then 0 else 1)) ∧
        (s.dev.rd EN0_MDIO_CMD_OP ≠ (if s.dev.on EN0_MDIO_CMD_C45 then 3 else 2) →
          d.rd EN0_MDIO_CMD_DATA = s.dev.rd EN0_MDIO_CMD_DATA ∧ d.rd EN0_MDIO_CMD_CODE = 0)))

/-- GPIO edges (R463): the ball takes the level, and a bit of PEND is set where the edge is enabled.
And: Pilot's interrupts (R329): the origin of a queue's, of the power-fail source's and of a GPIO edge's interrupt, where they are routed, which
source a claim answers, and the machine timer. The priorities, the delegation and the conditions inside the blocks are opaque (assumption 7). -/
def Obligations.GpioEdges : Prop :=
  (∀ (s : State) (m : Fin 32) (rising : Bool),
      (s.dev.power.step ≠ .off → s.dev.gpioDriven m.val = none → bit s.dev.gpio m.val ≠ rising → Completes (.gpioEdge m rising) s fun d =>
        d.gpio = (if rising then Machine.setBit s.dev.gpio m.val else clearBit s.dev.gpio m.val) ∧
        d.bitOn GC_GPIO_PEND_PEND m.val = (s.dev.bitOn GC_GPIO_PEND_PEND m.val ||
          (s.dev.coreRuns && s.dev.bitOn (if rising then GC_GPIO_RISE_EN else GC_GPIO_FALL_EN) m.val)) ∧
        (∀ k, k < 32 → k ≠ m.val → d.bitOn GC_GPIO_PEND_PEND k = s.dev.bitOn GC_GPIO_PEND_PEND k) ∧ d.mem = s.dev.mem) ∧
      (bit s.dev.gpio m.val = rising → Completes (.gpioEdge m rising) s fun d => d = { s.dev with out := [] })) ∧
  (∀ (s : State),
      (∀ i : Fin 32, s.dev.irqLevel (i.val + 1) = (!s.dev.on (LQN_CFG_CONSUMER i.val) && s.dev.qIrq i.val)) ∧
      s.dev.irqLevel 33 = s.dev.on PW_STATUS_PFAIL ∧ irqPriority 33 = 7 ∧ s.dev.irqContext 33 = { core := 0, supervisor := false } ∧
      (s.dev.serviceRecord 4 = none → ∀ src, s.dev.irqContext src = { core := 0, supervisor := false }) ∧
      (∀ (m : Fin 32) (rising : Bool), s.dev.coreRuns = true → s.dev.gpioDriven m.val = none → bit s.dev.gpio m.val ≠ rising →
        s.dev.bitOn (if rising then GC_GPIO_RISE_EN else GC_GPIO_FALL_EN) m.val = true → Completes (.gpioEdge m rising) s fun d =>
          d.irqLevel (71 + m.val) = true ∧ (irqPriority (71 + m.val) ≠ 0 → 71 + m.val ∈ d.irqPending (d.irqContext (71 + m.val)))) ∧
      (∀ c : IrqCtx, (s.dev.irqPending c = [] → s.dev.irqClaim c = 0) ∧
        (s.dev.irqPending c ≠ [] → s.dev.irqClaim c ∈ s.dev.irqPending c ∧
          ∀ src ∈ s.dev.irqPending c, irqPriority src ≤ irqPriority (s.dev.irqClaim c) ∧
            (irqPriority src = irqPriority (s.dev.irqClaim c) → s.dev.irqClaim c ≤ src))) ∧
      (∀ n, (s.dev.elapse n).mtime = if s.dev.timerCounts then (s.dev.clk.deck + n) / 4 % 2 ^ 64 else s.dev.mtime))

/-! The Gangway (17_gangway.md). -/

/-- Slave frames on a port in slave role with nothing waiting on it and no released burst to go on (R403, R404, R406 to R409): what WRITE writes or why it does not, what READ,
POP, POP_ITEM, STATUS and ID deliver, MODE_RESET and a bad opcode. -/
def Obligations.SlaveFrames : Prop :=
  ∀ (s : State) (n : Fin 2), s.dev.pathOpen (gwPath n.val) = true → s.dev.Quiet → (s.dev.gwp 0).held = [] → (s.dev.gwp 1).held = [] →
    s.dev.writeWaits (gwPath n.val) = false → s.dev.readWaits (gwPath n.val) = false →
    (∀ (a : Word) (bits : Nat) (data : List Byte) (frs : List (Fin 24 × RxFrame)),
      (Completes (.gwWrite n a 0 data frs) s fun d => d.rd (GW_STATUS_CODE n.val) = 1 ∧ d.mem = s.dev.mem ∧ d.out = []) ∧
      (bits ≠ 0 → bits % s.dev.rd (GW_CFG_UNIT n.val) ≠ 0 ∨ bits % (if Dev.inDram a.toNat || Dev.inMram a.toNat then 8 else 32) ≠ 0 →
        Completes (.gwWrite n a bits data frs) s fun d =>
        d.rd (GW_STATUS_CODE n.val) = 3 ∧ d.rd (GW_STATUS_FRAME_ODD n.val) = 1 ∧ d.mem = s.dev.mem ∧ d.out = []) ∧
      (8192 < bits → bits % s.dev.rd (GW_CFG_UNIT n.val) = 0 → bits % (if Dev.inDram a.toNat || Dev.inMram a.toNat then 8 else 32) = 0 →
        Completes (.gwWrite n a bits data frs) s fun d =>
        d.rd (GW_STATUS_CODE n.val) = 3 ∧ d.rd (GW_STATUS_LONG n.val) = 1 ∧ d.mem = s.dev.mem ∧ d.out = []) ∧
      (0 < bits → bits ≤ 8192 → bits % s.dev.rd (GW_CFG_UNIT n.val) = 0 → bits % 8 = 0 → Dev.inDram a.toNat = true →
        a.toNat + bits / 8 ≤ a.toNat / 4096 * 4096 + 4096 → s.dev.on GC_STATUS_PLLD_LOCK = true → s.dev.dramWait = [] →
        Completes (.gwWrite n a bits data frs) s fun d =>
        d.rd (GW_STATUS_CODE n.val) = 0 ∧ d.rd (GW_FRAMES_SLAVE n.val) = (s.dev.rd (GW_FRAMES_SLAVE n.val) + 1) % 65536 ∧
        d.mem = Memory.write s.dev.mem a.toNat (fitBytes (bits / 8) data) ∧ d.out = [])) ∧
    (∀ (w : Nat) (frs : List (Fin 24 × RxFrame)), 32 % s.dev.rd (GW_CFG_UNIT n.val) = 0 → Completes (.gwWrite n 0x100 32 (leBytes 4 w) frs) s fun d =>
      d.rd (GW_STATUS_CODE n.val) = 0 ∧ d.rd GC_GPIO_DIR_DIR = w % 2 ^ 32 ∧ d.mem = s.dev.mem) ∧
    (∀ (a : Word) (bits : Nat) (waited : Bool),
      (bits < 32 → Completes (.gwRead n a bits waited) s fun d =>
        d.out = [] ∧ d.rd (GW_STATUS_CODE n.val) = 1 ∧ d.mem = s.dev.mem ∧ (bits ≠ 0 → d.rd (GW_STATUS_FRAME_ODD n.val) = 1)) ∧
      (32 ≤ bits → Dev.inDram a.toNat = true → a.toNat + 4 * (bits / 32) ≤ a.toNat / 4096 * 4096 + 4096 → s.dev.on GC_STATUS_PLLD_LOCK = true →
        s.dev.dramWait = [] → Completes (.gwRead n a bits waited) s fun d =>
        d.out = bytesToWords (Memory.read s.dev.mem a.toNat (4 * (bits / 32))) ∧ d.rd (GW_STATUS_CODE n.val) = 0 ∧ d.mem = s.dev.mem ∧
        (bits % 32 ≠ 0 → d.rd (GW_STATUS_FRAME_ODD n.val) = 1)) ∧
      (32 ≤ bits → inRegisterSpace a.toNat = false → inWindow a.toNat = false → Completes (.gwRead n a bits waited) s fun d =>
        d.out = List.replicate (bits / 32) 0 ∧ d.rd (GW_STATUS_HOLE n.val) = 1 ∧ d.mem = s.dev.mem)) ∧
    (s.dev.blockRuns 0x20000 = true → ∀ (i : Fin 32) (q : Queue), q = s.dev.q i.val → s.dev.isConsumer (gwPath n.val) i.val = true → q.heldGap = none →
      ∀ e rest waited, q.waiting = e :: rest →
      (q.popped < e.words.length → Completes (.gwPop n (nw i.val) 32 waited) s fun d =>
        d.out = [e.words.getD q.popped 0] ∧ d.rd (GW_STATUS_CODE n.val) = 0 ∧ d.mem = s.dev.mem ∧
        if q.popped + 1 < e.words.length then (d.q i.val).waiting = { e with begun := true } :: rest ∧ (d.q i.val).popped = q.popped + 1
        else (d.q i.val).waiting = rest ∧ (d.q i.val).popped = 0) ∧
      (q.popped < e.words.length → ∀ k, e.words.length - q.popped ≤ k → Completes (.gwPopItem n (nw i.val) (32 * k) waited) s fun d =>
        d.out = e.words.drop q.popped ++ List.replicate (k - (e.words.length - q.popped)) 0 ∧ (d.q i.val).waiting = rest ∧ (d.q i.val).popped = 0 ∧
        (e.words.length - q.popped < k → d.rd (GW_STATUS_ITEM_END n.val) = 1) ∧ d.rd (GW_STATUS_CODE n.val) = 0 ∧ d.mem = s.dev.mem)) ∧
    (∀ (q : Word) (k : Nat) (waited : Bool), 32 ≤ q.toNat → 0 < k →
      (Completes (.gwPop n q (32 * k) waited) s fun d => d.out = List.replicate k 0 ∧ d.rd (GW_STATUS_HOLE n.val) = 1 ∧ d.lq = s.dev.lq ∧ d.mem = s.dev.mem) ∧
      (Completes (.gwPopItem n q (32 * k) waited) s fun d => d.out = List.replicate k 0 ∧ d.rd (GW_STATUS_HOLE n.val) = 1 ∧ d.lq = s.dev.lq ∧ d.mem =
          s.dev.mem)) ∧
    (Completes (.gwStatus n 32) s fun d => d.out = [s.dev.shown (gwBase n.val + 0x14)] ∧ d.rd (GW_STATUS_CODE n.val) = 0 ∧ d.lq = s.dev.lq ∧ d.mem =
        s.dev.mem) ∧
    (Completes (.gwId n 160) s fun d =>
      d.out = [s.dev.shown 0, s.dev.shown 0x10, s.dev.shown 0x14, s.dev.shown 0x18, s.dev.shown 0x1C] ∧ d.rd (GW_STATUS_CODE n.val) = 0 ∧
      d.lq = s.dev.lq ∧ d.mem = s.dev.mem) ∧
    (Completes (.modeReset n) s fun d =>
      d.rd (GW_CFG_LANES n.val) = 0 ∧ d.rd (GW_CFG_DDR n.val) = 0 ∧ d.rd (GW_STATUS_MODE_RESET_SEEN n.val) = 1 ∧
      d.rd (GW_STATUS_CODE n.val) = s.dev.rd (GW_STATUS_CODE n.val) ∧ d.lq = s.dev.lq ∧ d.mem = s.dev.mem) ∧
    (Completes (.badOp n) s fun d =>
      d.rd (GW_STATUS_BAD_OP n.val) = 1 ∧ d.rd (GW_STATUS_CODE n.val) = 0x10 ∧ d.lq = s.dev.lq ∧ d.mem = s.dev.mem)

/-- Master commands and their data (R399, R410, R411).
And: Execute in place (R39, R412 to R415, R419): hits, misses and line fills, the closed window, INVAL and GW1_XIP_CFG. -/
def Obligations.GangwayMaster : Prop :=
  (∀ (s : State) (n : Fin 2) (p : Path), s.dev.reaches p (gwBase n.val) = true →
      (∀ (w : Word), s.dev.on (GW_CFG_ROLE n.val) = true → (s.dev.gwp n.val).cmd = none → bits w.toNat 28 26 ≤ 4 →
        s.dev.rd (GW_MLEN_DLEN n.val) % s.dev.rd (GW_CS_CFG_UNIT n.val (bits w.toNat 31 30)) = 0 →
        masterWords (s.dev.rd (GW_CS_CFG_UNIT n.val (bits w.toNat 31 30))) (s.dev.rd (GW_MLEN_DLEN n.val)) ≤ 256 →
        (bit w.toNat 29 = false → (s.dev.gwp n.val).mdata.length = masterWords (s.dev.rd (GW_CS_CFG_UNIT n.val (bits w.toNat 31 30))) (s.dev.rd
            (GW_MLEN_DLEN n.val))) →
        (s.dev.gwp n.val).fill = [] → s.dev.xipSelect n.val (bits w.toNat 31 30) = false → Completes (.masterCommand p n w) s fun d =>
          (d.gwp n.val).cmd = some ⟨bits w.toNat 31 30, if bit w.toNat 25 then none else some (bits w.toNat 7 0),
            beBytes (bits w.toNat 28 26) (s.dev.rd (GW_MADDR_ADDR n.val)), none, if s.dev.rd (GW_MLEN_DLEN n.val) = 0 then 0 else bits w.toNat 24 20,
            bit w.toNat 29, s.dev.rd (GW_MLEN_DLEN n.val), if bit w.toNat 29 then [] else (s.dev.gwp n.val).mdata⟩ ∧
          (d.gwp n.val).frame = (d.gwp n.val).cmd ∧ (d.gwp n.val).started = true ∧ (d.gwp n.val).mdata = [] ∧
          d.rd (GW_FRAMES_MASTER n.val) = (s.dev.rd (GW_FRAMES_MASTER n.val) + 1) % 65536 ∧ d.mem = s.dev.mem) ∧
      (∀ (w : Word), s.dev.on (GW_CFG_ROLE n.val) = true → bits w.toNat 28 26 ≤ 4 →
        ((s.dev.gwp n.val).cmd ≠ none → Completes (.masterCommand p n w) s fun d =>
          d.rd (ERR_LOCKED (gwBase n.val)) = 1 ∧ d.gw = s.dev.gw ∧ d.mem = s.dev.mem) ∧
        ((s.dev.gwp n.val).cmd = none → s.dev.rd (GW_MLEN_DLEN n.val) % s.dev.rd (GW_CS_CFG_UNIT n.val (bits w.toNat 31 30)) ≠ 0 →
          Completes (.masterCommand p n w) s fun d =>
          d.rd (GW_MSTATUS_CODE n.val) = 3 ∧ d.rd (GW_STATUS_FRAME_ODD n.val) = 1 ∧ (d.gwp n.val).cmd = none ∧ (d.gwp n.val).mdata = [] ∧
          (d.gwp n.val).frame = (s.dev.gwp n.val).frame ∧ d.mem = s.dev.mem)) ∧
      (∀ f data, (s.dev.gwp n.val).cmd = some f → (s.dev.gwp n.val).started = true → (s.dev.gwp 1).waits = [] → Completes (.masterCommandDone n data) s fun d =>
        (d.gwp n.val).cmd = none ∧
        (d.gwp n.val).mdata = (if f.read then packRead (s.dev.rd (GW_CS_CFG_UNIT n.val f.cs)) f.bits data else (s.dev.gwp n.val).mdata) ∧
        d.rd (GW_MSTATUS_CODE n.val) = (if f.bits = 0 then 1 else 0) ∧ d.mem = s.dev.mem) ∧
      (∀ w, (s.dev.gwp n.val).mdata.length < 256 → Completes (.mdataWrite p n w) s fun d =>
        (d.gwp n.val).mdata = (s.dev.gwp n.val).mdata ++ [w] ∧ d.regs = s.dev.regs ∧ d.mem = s.dev.mem) ∧
      (∀ w ws, (s.dev.gwp n.val).mdata = w :: ws → Completes (.mdataRead p n) s fun d =>
        d.out = [w] ∧ (d.gwp n.val).mdata = ws ∧ d.mem = s.dev.mem) ∧
      ((s.dev.gwp n.val).mdata = [] → Completes (.mdataRead p n) s fun d => d.out = [0] ∧ (d.gwp n.val).mdata = [] ∧ d.mem = s.dev.mem)) ∧
  (∀ (s : State) (p : Path),
      (∀ (x : Fin 268435456) (k : Fin 4), s.dev.pathOpen p = true → x.val % 2 ^ k.val = 0 →
        (s.dev.xipOpen = true → (s.dev.gwp 1).waits = [] →
          ((s.dev.gwp 1).lines.any (·.1 == x.val / 64) = true → Completes (.xipRead p x k) s fun d =>
            d.out = bytesToWords ((upTo (2 ^ k.val)).map fun i => lineByte (s.dev.gwp 1).lines (x.val + i)) ∧
            d.rd GW1_XIP_STATS_HITS = min (s.dev.rd GW1_XIP_STATS_HITS + 1) 65535 ∧ (d.gwp 1).waits = [] ∧ d.mem = s.dev.mem) ∧
          ((s.dev.gwp 1).lines.any (·.1 == x.val / 64) = false → (s.dev.gwp 1).fill = [] → (s.dev.gwp 1).cmd = none → s.dev.on GW1_XIP_CFG_HOLD = false →
            Completes (.xipRead p x k) s fun d =>
            d.out = [] ∧ d.rd GW1_XIP_STATS_MISSES = min (s.dev.rd GW1_XIP_STATS_MISSES + 1) 65535 ∧
            (d.gwp 1).waits = [⟨p, x.val, 2 ^ k.val, 2 ^ k.val, true, 0⟩] ∧ (d.gwp 1).fill.head? = some (x.val / 64, false) ∧
            d.rd (GW_FRAMES_MASTER 1) = (s.dev.rd (GW_FRAMES_MASTER 1) + 1) % 65536)) ∧
        (s.dev.xipOpen = false → Completes (.xipRead p x k) s fun d =>
          d.out = List.replicate ((2 ^ k.val + 3) / 4) 0 ∧ d.gw = s.dev.gw ∧ d.mem = s.dev.mem)) ∧
      (∀ l rest data, (s.dev.gwp 1).fill = (l, false) :: rest → (s.dev.gwp 1).waits = [] → (s.dev.gwp 1).cmd = none → Completes (.xipLineFill data) s fun d =>
        (d.gwp 1).lines = ((l, fitBytes 64 data) :: (s.dev.gwp 1).lines.filter (·.1 != l)).take 4 ∧ (d.gwp 1).fill = rest ∧ d.regs = s.dev.regs) ∧
      (∀ l data x sz (k : Nat), (s.dev.gwp 1).fill = [(l, false)] → (s.dev.gwp 1).waits = [⟨p, x, sz, k, true, 0⟩] → (s.dev.gwp 1).cmd = none →
        0 < k → k ≤ sz → x / 64 = l → (x + k - 1) / 64 = l → Completes (.xipLineFill data) s fun d =>
        d.out = bytesToWords (((fitBytes 64 data).drop (x % 64)).take k) ∧ (d.gwp 1).waits = []) ∧
      (s.dev.reaches p 0x5800 = true →
        (Completes (.inval p) s fun d =>
          (d.gwp 1).lines = [] ∧ (d.gwp 1).fill = (s.dev.gwp 1).fill.map (fun x => (x.1, true)) ∧ d.regs = s.dev.regs ∧ d.mem = s.dev.mem) ∧
        (∀ w, s.dev.on GW1_XIP_CFG_EN = false → (s.dev.gwp 1).waits = [] → Completes (.xipCfgWrite p w) s fun d =>
          d.on GW1_XIP_CFG_EN = bit w.toNat 31 ∧ d.on GW1_XIP_CFG_HOLD = bit w.toNat 30 ∧ d.rd GW1_XIP_CFG_CONT = bits w.toNat 29 29 ∧
          d.rd GW1_XIP_CFG_PREFETCH = bits w.toNat 28 28 ∧ d.rd GW1_XIP_CFG_CS = bits w.toNat 27 26 ∧ d.rd GW1_XIP_CFG_A4 = bits w.toNat 25 25 ∧
          d.rd GW1_XIP_CFG_DUMMY = bits w.toNat 20 16 ∧ d.rd GW1_XIP_CFG_OPCODE = bits w.toNat 15 8 ∧ d.rd GW1_XIP_CFG_MODE = bits w.toNat 7 0) ∧
        (∀ w, s.dev.on GW1_XIP_CFG_EN = true → s.dev.rd GW1_XIP_CFG_OPCODE ≠ bits w.toNat 15 8 → Completes (.xipCfgWrite p w) s fun d =>
          d.rd (ERR_LOCKED 0x5800) = 1 ∧ d.gw = s.dev.gw ∧ d.rd GW1_XIP_CFG_OPCODE = s.dev.rd GW1_XIP_CFG_OPCODE ∧ d.mem = s.dev.mem)))

/-! Calibration (18_calibration.md). -/

/-- The calibration run (R421 to R425, R429, R436): steps 1 and 4, the blocks of steps 2 and 3, and finishing.
And: The commit of a calibration into a fuse record slot (R432 to R435). -/
def Obligations.CalibrationAndCommits : Prop :=
  (∀ (s : State), s.dev.on CL_STATUS_RUNNING = true → s.dev.coreRuns = true →
      (∀ (dev lvl ppm : Int) (iref ofs slope : Byte),
        (s.dev.rd CL_STATUS_STEP = 1 → Completes (.calStepDone dev lvl ppm iref ofs slope) s fun d =>
          d.cl.refres = refresState dev ∧ d.cl.reftone = (if refresState dev = 0 then reftoneState lvl ppm else 3) ∧ d.cl.iref = iref.toNat ∧
          d.rd CL_STATUS_STEP = (if d.cl.reftone = 0 then 2 else 4) ∧ d.mem = s.dev.mem) ∧
        (s.dev.rd CL_STATUS_STEP = 4 → Completes (.calStepDone dev lvl ppm iref ofs slope) s fun d =>
          d.cl.tempOfs = ofs.toNat ∧ d.cl.tempSlope = slope.toNat ∧
          d.rd CL_STATUS_STEP = (if s.dev.cl.chans.toList.any fun c => c.aside && !c.lost then 5 else 6) ∧ d.mem = s.dev.mem)) ∧
      (∀ (m : Fin 4 → CalMeas) (b : Nat), s.dev.cl.block = b →
        (s.dev.rd CL_STATUS_STEP = 2 ∧ b < 48 ∨ s.dev.rd CL_STATUS_STEP = 3 ∧ 48 ≤ b ∧ b < 132 ∧ s.dev.on PW_STATUS_THERM_SHUT = false) →
        Completes (.calBlock (m 0) (m 1) (m 2) (m 3)) s fun d =>
          d.cl.block = b + 1 ∧ d.rd CL_STATUS_STEP = (if b + 1 < 48 then 2 else if b + 1 < 132 then 3 else 4) ∧ d.mem = s.dev.mem ∧
          ∀ (k : Fin 4) (n : Nat), n = 4 * (if b < 48 then b / 8 else (b - 48) / 14) + k.val →
            ((s.dev.clChan n).aside = true → d.clChan n = s.dev.clChan n) ∧
            ((s.dev.clChan n).aside = false →
              (((m k).before || (m k).after) = true → (d.clChan n).aside = true ∧ (d.clChan n).fails = (s.dev.clChan n).fails + 1 ∧
                (d.clChan n).done = (s.dev.clChan n).done) ∧
              (((m k).before || (m k).after) = false → (d.clChan n).aside = false ∧ (d.clChan n).fails = 0 ∧
                (d.clChan n).done = (s.dev.clChan n).done + 1 ∧
                (if (s.dev.clChan n).done < 8 then (d.clChan n).trim.gain = (m k).gain.toNat ∧ (d.clChan n).trim.offset = (m k).offset.toNat
                 else (d.clChan n).trim.amp = (m k).amp.toNat)))) ∧
      (s.dev.rd CL_STATUS_STEP = 6 → s.dev.boot.phase = .runtime → Completes .calFinish s fun d =>
        d.rd CL_STATUS_RUNNING = 0 ∧ d.rd CL_STATUS_STEP = 0 ∧ d.rd PW_STATE_CUR = 1 ∧
        d.rd CL_COUNT_COUNT = min (s.dev.rd CL_COUNT_COUNT + 1) 0xFFFFFFFF ∧ d.rd CL_STATUS_COUNT_DIRTY = 1 ∧
        d.rd CL_STATUS_IREF_TRACED = (if s.dev.cl.refres = 0 then 1 else 0) ∧ d.rd CL_STATUS_TEMP_TRACED = (if s.dev.cl.refres = 0 then 1 else 0) ∧
        (∀ n : Fin 24, d.rd (CL_CH_TRACED n.val) =
          (if s.dev.cl.refres = 0 ∧ s.dev.cl.reftone = 0 ∧ (s.dev.clChan n.val).done = 22 ∧ (s.dev.clChan n.val).lost = false then 1 else 0)) ∧
        (∀ n : Fin 24, d.rd (CL_CH_FOREIGN n.val) = (if (s.dev.clChan n.val).lost then 1 else 0)))) ∧
  (∀ (s : State) (p : Path),
      (s.dev.reaches p 0x2000 = true →
        (s.dev.on CL_CMD_STATUS_BUSY = true → Completes (.commit p) s fun d =>
          d.rd (ERR_LOCKED 0x2000) = 1 ∧ d.cl = s.dev.cl ∧ d.fuses = s.dev.fuses ∧ d.mem = s.dev.mem) ∧
        (s.dev.on CL_CMD_STATUS_BUSY = false →
          (s.dev.cy.burn ≠ none → Completes (.commit p) s fun d => d.rd CL_CMD_STATUS_CODE = 2 ∧ d.cl = s.dev.cl ∧ d.fuses = s.dev.fuses) ∧
          (s.dev.cy.burn = none →
            (s.dev.rd PW_STATE_CUR ≠ 1 ∨ s.dev.on PW_STATUS_PFAIL = true ∨ s.dev.on CL_STATUS_ALL_TRACED = false → Completes (.commit p) s fun d =>
              d.rd CL_CMD_STATUS_CODE = 4 ∧ d.cl = s.dev.cl ∧ d.fuses = s.dev.fuses) ∧
            (s.dev.rd PW_STATE_CUR = 1 → s.dev.on PW_STATUS_PFAIL = false → s.dev.on CL_STATUS_ALL_TRACED = true →
              (∀ k, (upTo 24).find? (fun k => !slotUsed (s.dev.recordSlot k)) = some k → Completes (.commit p) s fun d =>
                d.rd CL_CMD_STATUS_BUSY = 1 ∧ d.rd CL_CMD_STATUS_SLOT = k ∧ d.cl.burn = some (k, recordOf s.dev.cl.held (s.dev.rd CL_COUNT_COUNT)) ∧
                d.fuses = s.dev.fuses ∧ d.mem = s.dev.mem) ∧
              ((∀ k, k < 24 → slotUsed (s.dev.recordSlot k) = true) → Completes (.commit p) s fun d =>
                d.rd CL_CMD_STATUS_CODE = 0x10 ∧ d.cl = s.dev.cl ∧ d.fuses = s.dev.fuses))))) ∧
      (∀ k r, s.dev.cl.burn = some (k, r) → k < 24 → ∀ ok, Completes (.commitBurnDone ok) s fun d =>
        d.recordSlot k = (if ok then r else r.take 58 ++ zeros 6) ∧ (∀ j, j < 24 → j ≠ k → d.recordSlot j = s.dev.recordSlot j) ∧
        d.cl.burn = none ∧ d.rd CL_CMD_STATUS_BUSY = 0 ∧ d.rd CL_CMD_STATUS_CODE = (if ok then 0 else 0x11) ∧
        d.fuses.factory = s.dev.fuses.factory ∧ d.mem = s.dev.mem))

/-! Faults and the watchdog (19_faults_identity.md). -/

/-- Fatal errors (R439 to R441): each loads FD_FATAL and starts the handler; one that comes later ends it with NESTED, one of the same Deck clock
adds its source.
And: The handler's records, its end and its time limit (R440 to R444). -/
def Obligations.FatalErrorsAndTheirRecords : Prop :=
  (∀ (s : State), s.dev.coreRuns = true →
      (s.dev.fd.handling = false →
        (∀ (hart : Fin 4) (first second : Word), Completes (.doubleTrap hart first second) s fun d =>
          d.rd FD_FATAL_SOURCE = 1 ∧ d.rd FD_FATAL_BITS = 1 ∧ d.rd FD_FATAL_COUNT = min (s.dev.rd FD_FATAL_COUNT + 1) 255 ∧ d.rd FD_HIST_FATAL_SEEN = 1 ∧
          d.fd.handling = true ∧ d.fd.hart = hart.val ∧ d.fd.slot = s.dev.rd FD_CRASH_NEXT ∧ d.fd.seq = (s.dev.rd FD_CRASH_SEQ_SEQ + 1) % 2 ^ 32 ∧
          d.fd.detail = leBytes 4 hart.val ++ leBytes 4 first.toNat ++ leBytes 4 second.toNat ++ leBytes 4 0 ∧ d.mem = s.dev.mem) ∧
        (∀ (tile : Fin 64), s.dev.applied = true → s.dev.rd (DK_TILE_FUNC tile.val) ≠ 0 → Completes (.deckParity tile) s fun d =>
          d.rd FD_FATAL_SOURCE = 2 ∧ d.rd FD_FATAL_BITS = 2 ∧ d.fd.handling = true ∧ d.fd.hart = 0xFF ∧
          d.fd.detail = leBytes 1 tile.val ++ leBytes 1 (s.dev.rd (DK_TILE_FUNC tile.val)) ++ leBytes 1 (s.dev.rd (DK_TILE_CHANNEL tile.val)) ++ zeros 13 ∧
          d.mem = s.dev.mem) ∧
        (s.dev.wdogCounts = true → s.dev.rd FD_WDOG_STATUS_ELAPSED * 406800 + s.dev.clk.wdog ≤ (s.dev.rd FD_WDOG_CFG_TIMEOUT - s.dev.rd FD_WDOG_CFG_PRE) *
            406800 →
          Completes .wdogPre s fun d =>
          d.rd FD_FATAL_SOURCE = 3 ∧ d.rd FD_FATAL_BITS = 4 ∧ d.fd.handling = true ∧ d.fd.hart = 0xFF ∧
          d.rd FD_WDOG_STATUS_ELAPSED = s.dev.rd FD_WDOG_CFG_TIMEOUT - s.dev.rd FD_WDOG_CFG_PRE ∧ d.mem = s.dev.mem) ∧
        (∀ (a : Word) (seq : BitVec 64), s.dev.boot.phase ≠ .recover → journalAddress a.toNat = true → Completes (.journalEcc a seq) s fun d =>
          d.rd FD_FATAL_SOURCE = 4 ∧ d.rd FD_FATAL_BITS = 8 ∧ d.fd.handling = true ∧ d.fd.hart = 0xFF ∧
          d.fd.detail = leBytes 4 a.toNat ++ leBytes 4 0 ++ leBytes 8 seq.toNat ∧ d.mem = s.dev.mem)) ∧
      (s.dev.fd.handling = true → ∀ (hart : Fin 4) (first second : Word),
        (s.dev.time ≠ s.dev.fd.entry → Completes (.doubleTrap hart first second) s fun d =>
          d.rd FD_FATAL_NESTED = 1 ∧ d.power.hold = some .wdog ∧ d.rd FD_CAUSE_CLASS = 4 ∧ d.rd FD_CAUSE_FATAL = 1 ∧ d.fd.handling = false) ∧
        (s.dev.time = s.dev.fd.entry → 1 < s.dev.rd FD_FATAL_SOURCE → Completes (.doubleTrap hart first second) s fun d =>
          d.rd FD_FATAL_SOURCE = 1 ∧ d.bitOn FD_FATAL_BITS 0 = true ∧ d.fd.handling = true ∧ d.fd.hart = hart.val ∧ d.power = s.dev.power ∧ d.mem =
              s.dev.mem))) ∧
  (∀ (s : State), s.dev.coreRuns = true → s.dev.fd.handling = true →
      (s.dev.on FD_FATAL_SLOT_OK = false → s.dev.fd.slot < 4 → ∀ harts ring, Completes (.crashSlotWritten harts ring) s fun d =>
        d.rd FD_FATAL_SLOT_OK = 1 ∧ d.rd FD_CRASH_LAST_VALID = 1 ∧ d.rd FD_CRASH_LAST = s.dev.fd.slot ∧ d.rd FD_CRASH_SEQ_SEQ = s.dev.fd.seq % 2 ^ 32 ∧
        d.fd.begun = true ∧ d.fd.handling = true ∧
        (s.dev.fd.begun = false → d.rd FD_CRASH_NEXT = (s.dev.fd.slot + 1) % 4) ∧
        (s.dev.power.fence = false → Memory.read d.mem (0x24690000 + 0x10000 * s.dev.fd.slot) 4 = leBytes 4 0x46564331) ∧
        (s.dev.power.fence = true → d.mem = s.dev.mem)) ∧
      (s.dev.on FD_FATAL_SLOT_OK = true → Completes .dramDumpWritten s fun d =>
        d.power.hold = some .wdog ∧ d.rd FD_CAUSE_CLASS = 4 ∧ d.rd FD_CAUSE_FATAL = 1 ∧ d.fd.handling = false ∧
        (s.dev.dumpSkipped = false → d.rd FD_FATAL_DRAM_OK = 1 ∧ Memory.read d.mem 0x1FF00000 4 = leBytes 4 0x46564431) ∧
        (s.dev.dumpSkipped = true → d.rd FD_FATAL_DRAM_OK = s.dev.rd FD_FATAL_DRAM_OK)) ∧
      (Completes .handlerTimeout s fun d =>
        d.rd FD_FATAL_TIMEOUT = 1 ∧ d.power.hold = some .wdog ∧ d.rd FD_CAUSE_CLASS = 4 ∧ d.rd FD_CAUSE_FATAL = 1 ∧ d.fd.handling = false))

/-- The watchdog and the errors of memory (R439, R441, R445, R453). -/
def Obligations.WatchdogAndEcc : Prop :=
  ∀ (s : State),
    (s.dev.coreRuns = true → s.dev.wdogCounts = true → Completes .watchdogExpiry s fun d =>
      d.power.hold = some .wdog ∧ d.rd FD_CAUSE_CLASS = 4 ∧ d.rd FD_CAUSE_FATAL = (if s.dev.fd.handling then 1 else 0) ∧
      (s.dev.fd.handling = true → d.rd FD_FATAL_TIMEOUT = 1)) ∧
    (∀ (p : Path) (w : Word), s.dev.reaches p 0x3000 = true →
      (bits w.toNat 15 0 = 0x4B1C → Completes (.wdogKick p w) s fun d => d.rd FD_WDOG_STATUS_ELAPSED = 0 ∧ d.clk.wdog = 0 ∧ d.mem = s.dev.mem) ∧
      (bits w.toNat 15 0 ≠ 0x4B1C → Completes (.wdogKick p w) s fun d =>
        d.rd (ERR_RANGE 0x3000) = 1 ∧ d.rd FD_WDOG_STATUS_ELAPSED = s.dev.rd FD_WDOG_STATUS_ELAPSED ∧ d.clk.wdog = s.dev.clk.wdog ∧ d.mem = s.dev.mem) ∧
      (s.dev.on FD_WDOG_CFG_EN = false → 10 ≤ bits w.toNat 15 0 → 0 < bits w.toNat 27 16 → bits w.toNat 27 16 < bits w.toNat 15 0 →
        Completes (.wdogEnable p w) s fun d =>
        d.rd FD_WDOG_CFG_EN = 1 ∧ d.rd FD_WDOG_CFG_PRE = bits w.toNat 27 16 ∧ d.rd FD_WDOG_CFG_TIMEOUT = bits w.toNat 15 0 ∧
        d.rd FD_WDOG_STATUS_ELAPSED = 0 ∧ d.clk.wdog = 0 ∧ d.mem = s.dev.mem) ∧
      (s.dev.on FD_WDOG_CFG_EN = true → bits w.toNat 15 0 ≠ s.dev.rd FD_WDOG_CFG_TIMEOUT → Completes (.wdogEnable p w) s fun d =>
        d.rd (ERR_LOCKED 0x3000) = 1 ∧ d.rd FD_WDOG_CFG_TIMEOUT = s.dev.rd FD_WDOG_CFG_TIMEOUT ∧ d.rd FD_WDOG_CFG_PRE = s.dev.rd FD_WDOG_CFG_PRE ∧
        d.rd FD_WDOG_STATUS_ELAPSED = s.dev.rd FD_WDOG_STATUS_ELAPSED ∧ d.mem = s.dev.mem)) ∧
    (∀ (a : Word) (pilot : Bool), s.dev.coreRuns = true → Dev.inDram a.toNat = true ∨ Dev.inMram a.toNat = true →
      (Completes (.eccError a true pilot) s fun d =>
        d.rd FD_STATUS_CE_SEEN = 1 ∧ d.rd FD_ECC_STATS_CORR = min (s.dev.rd FD_ECC_STATS_CORR + 1) 65535 ∧ d.pilotFault = s.dev.pilotFault ∧ d.mem =
            s.dev.mem) ∧
      (journalAddress a.toNat = false → Completes (.eccError a false pilot) s fun d =>
        d.rd (if Dev.inDram a.toNat then FD_STATUS_DRAM_UE_SEEN else FD_STATUS_MRAM_UE_SEEN) = 1 ∧
        d.rd FD_ECC_ADDR_ADDR = (if s.dev.on FD_STATUS_MRAM_UE_SEEN || s.dev.on FD_STATUS_DRAM_UE_SEEN then s.dev.rd FD_ECC_ADDR_ADDR else a.toNat) ∧
        d.rd FD_ECC_STATS_UNCORR = min (s.dev.rd FD_ECC_STATS_UNCORR + 1) 65535 ∧
        d.pilotFault = (if pilot then some (false, a.toNat) else s.dev.pilotFault) ∧ d.mem = s.dev.mem))

/-! Completion of the scheduler's commands and of the fatal errors (05_transmit.md, 09_survey_scheduling.md, 19_faults_identity.md). -/

/-- Every command of the scheduler and of the fault handler completes with its own effect, under conditions on the state and the operands alone
(R118, R122, R218, R220, R223, R439 to R443, R445, R499): GRANT_REQUEST, REQUEST_URGENT, CONFIRMATION_POINT, SELECT_FRAME and GRANT_END; DOUBLE_TRAP,
DECK_PARITY, WDOG_PRE, JOURNAL_ECC, CRASH_SLOT_WRITTEN, DRAM_DUMP_WRITTEN and HANDLER_TIMEOUT. -/
def Obligations.GrantsAndFatalErrorsComplete : Prop :=
  ∀ s : State,
    (∀ (p : Path) (w : Word), s.dev.reaches p 0x38000 = true → s.dev.ts.asm.find? (·.1 = p) = none → Completes (.grantRequest p w) s fun d =>
      d.ts = { s.dev.ts with asm := s.dev.ts.asm ++ [(p, w)] } ∧ d.regs = s.dev.regs ∧ d.mem = s.dev.mem) ∧
    (∀ (p : Path) (w w0 : Word) ch coil slots, s.dev.reaches p 0x38000 = true → s.dev.ts.asm.find? (·.1 = p) = some (p, w0) →
      ch = bits w0.toNat 31 27 → coil = bits w0.toNat 26 21 → slots = bits w0.toNat 7 0 → ch < 24 → s.dev.fwRequests < 16 → s.dev.reader ch = true →
      coil < s.dev.coils ch → bit w0.toNat 20 = false → slots ≠ 0 → s.dev.excluded (berthOf ch coil) = false → Completes (.grantRequest p w) s fun d =>
        d.ts.reqs = s.dev.ts.reqs ++ [{ owner := .firmware (bits w.toNat 15 0), ch := ch, coil := coil, slots := slots, handover := false,
                                          partner := bits w.toNat 26 16, waited := 0, urgent := false }] ∧ d.regs = s.dev.regs ∧ d.mem = s.dev.mem) ∧
    (Completes .requestUrgent s fun d =>
      (∀ r ∈ d.ts.reqs, 0 < s.dev.rd TS_CFG_AGE → s.dev.rd TS_CFG_AGE ≤ r.waited → r.urgent = true) ∧
      d.ts.reqs.map (fun r : GrantReq => { r with urgent := false }) = s.dev.ts.reqs.map (fun r : GrantReq => { r with urgent := false }) ∧ d.regs =
          s.dev.regs ∧ d.mem = s.dev.mem) ∧
    (s.dev.coreRuns = true → s.dev.surveying = false → s.dev.ts.reqs = [] → Completes .confirmationPoint s fun d =>
      d.ts = s.dev.ts ∧ d.chans = s.dev.chans ∧ d.mem = s.dev.mem) ∧
    (∀ (r : GrantReq) (m : Nat) (e : Dev), s.dev.coreRuns = true → s.dev.surveying = false → s.dev.ts.reqs = [r] → r.owner = .pontoon →
      s.dev.rd (CH_TX_AMP_CODE r.ch) ≠ 0 → m = s.dev.boundaryAfterLead 150 → e = ({ s.dev with out := [] } : Dev).reach (m * 1000000 - 150000) →
      e.grantsAllowed = true → e.eligible r m = true → Completes .confirmationPoint s fun d =>
        d.ts.reqs = [] ∧ (∃ g ∈ d.ts.grants, g.owner = .pontoon ∧ g.ch = r.ch ∧ g.coil = r.coil ∧ g.start = m ∧ g.slots = r.slots ∧
          g.power = powerOf (s.dev.rd (CH_TX_AMP_CODE r.ch))) ∧ d.mem = s.dev.mem) ∧
    (∀ (g : Fin 6) (lead : Nat), s.dev.applied = true → lead = s.dev.rd (CH_SEL_CFG_LEAD (4 * g.val)) →
      s.dev.ts.selInit.contains (g.val, s.dev.boundaryAfterLead lead) = true → Completes (.selectFrame g) s fun d =>
        d.ts.selInit = s.dev.ts.selInit.filter (·.1 ≠ g.val) ∧ d.mem = s.dev.mem ∧
        ∀ n, n / 4 = g.val → (s.dev.chan n).field.lit = false → (s.dev.chan n).field.offAt = none → d.rd (CH_SEL_STATUS_ON n) = 0 ∧ d.selected n = 0) ∧
    (∀ (n : Fin 24) (g : Grant), s.dev.rd TC_INC_INC ≠ 0 → s.dev.ts.grants = [g] → s.dev.grantNow n.val = some g → g.isOpen = false →
      Completes (.grantEnd n) s fun d => d.ts.grants = [] ∧ d.mem = s.dev.mem) ∧
    (s.dev.coreRuns = true → s.dev.fd.handling = false →
      (∀ (hart : Fin 4) (first second : Word), Completes (.doubleTrap hart first second) s fun d =>
        d.rd FD_FATAL_SOURCE = 1 ∧ d.rd FD_FATAL_BITS = 1 ∧ d.fd.handling = true ∧ d.fd.hart = hart.val ∧ d.mem = s.dev.mem) ∧
      (∀ tile : Fin 64, s.dev.applied = true → s.dev.rd (DK_TILE_FUNC tile.val) ≠ 0 → Completes (.deckParity tile) s fun d =>
        d.rd FD_FATAL_SOURCE = 2 ∧ d.rd FD_FATAL_BITS = 2 ∧ d.fd.handling = true ∧ d.mem = s.dev.mem) ∧
      (s.dev.wdogCounts = true → Completes .wdogPre s fun d =>
        d.rd FD_FATAL_SOURCE = 3 ∧ d.rd FD_FATAL_BITS = 4 ∧ d.fd.handling = true ∧ d.mem = s.dev.mem) ∧
      (∀ (a : Word) (seq : BitVec 64), s.dev.boot.phase ≠ .recover → journalAddress a.toNat = true → Completes (.journalEcc a seq) s fun d =>
        d.rd FD_FATAL_SOURCE = 4 ∧ d.rd FD_FATAL_BITS = 8 ∧ d.fd.handling = true ∧ d.mem = s.dev.mem)) ∧
    (s.dev.coreRuns = true → s.dev.fd.handling = true →
      (∀ (hart : Fin 4) (first second : Word), s.dev.time = s.dev.fd.entry → Completes (.doubleTrap hart first second) s fun d =>
        d.bitOn FD_FATAL_BITS 0 = true ∧ d.rd FD_FATAL_SOURCE = (if 1 < s.dev.rd FD_FATAL_SOURCE then 1 else s.dev.rd FD_FATAL_SOURCE) ∧
        d.fd.handling = true ∧ d.mem = s.dev.mem) ∧
      (∀ (hart : Fin 4) (first second : Word), s.dev.time ≠ s.dev.fd.entry → Completes (.doubleTrap hart first second) s fun d =>
        d.rd FD_FATAL_NESTED = 1 ∧ d.power.hold = some .wdog ∧ d.fd.handling = false) ∧
      (s.dev.on FD_FATAL_SLOT_OK = false → ∀ harts ring, Completes (.crashSlotWritten harts ring) s fun d =>
        d.rd FD_FATAL_SLOT_OK = 1 ∧ d.rd FD_CRASH_LAST_VALID = 1 ∧ d.fd.handling = true) ∧
      (s.dev.on FD_FATAL_SLOT_OK = true → Completes .dramDumpWritten s fun d =>
        d.power.hold = some .wdog ∧ d.rd FD_CAUSE_FATAL = 1 ∧ d.fd.handling = false ∧ (s.dev.dumpSkipped = false → d.rd FD_FATAL_DRAM_OK = 1)) ∧
      (Completes .handlerTimeout s fun d =>
        d.rd FD_FATAL_TIMEOUT = 1 ∧ d.power.hold = some .wdog ∧ d.rd FD_CAUSE_FATAL = 1 ∧ d.fd.handling = false))

/-! Frames: what each command can change. A register field that is not named reads as before; a part that is not named is as before; memory
(DRAM and MRAM) changes only where `.mem` is named. -/

/-- Power, boot, wakes, calibration, faults and GPIO: what each of these commands can change; everything else stands. -/
def Obligations.PowerBootAndCalibrationFrames : Prop :=
  ∀ s t : State,
    (∀ (env : BootEnv), exec (.resetRelease env) s = .next t → s.Keeps [.regs, .time, .power, .boot, .chans, .lq, .out, .freeCtr, .clk, .cy, .fuses, .epoch,
        .sv, .tc, .hs] (itemsPosted ++ bootGoesOn ++ [Span.one GC_STRAP_BOOT_SRC.bit, Span.one GC_STRAP_CASCADE_MASTER.bit, Span.one PW_STATE_BUSY.bit,
        Span.one PW_STATE_REQ.bit, Span.one PW_STATE_CUR.bit, Span.one PW_STATUS_DRAM_VALID.bit, Span.one CL_STATUS_REC_BAD_SEEN.bit,
        Span.one CL_STATUS_LAST_VALID.bit, Span.one CL_STATUS_SLOTS_USED.bit, Span.one CL_GLOBAL_TEMP_SOURCE.bit, Span.one CL_GLOBAL_IREF_SOURCE.bit,
        Span.one CL_GLOBAL_TEMP_SLOPE.bit, Span.one CL_GLOBAL_TEMP_OFS.bit, Span.one CL_GLOBAL_IREF.bit, Span.one CL_SLOTUSED_SLOTS.bit,
        Span.one CL_SLOTVALID_SLOTS.bit, Span.one FD_CAUSE_CLASS.bit, Span.one FD_CAUSE_ALL.bit, Span.one FD_CAUSE_BROWN_SRC.bit, Span.one FD_CAUSE_WAKE.bit,
        Span.one FD_CAUSE_FATAL.bit, Span.one FD_HIST_WAKE_SEEN.bit, Span.one FD_RESETS_COUNT.bit, Span.one FD_CRASH_NEXT.bit, Span.one FD_CRASH_LAST.bit,
        Span.one FD_CRASH_LAST_VALID.bit, Span.one FD_CRASH_SEQ_SEQ.bit, Span.one FD_WDOG_STATUS_ELAPSED.bit, Span.one FD_STATUS_ID_BAD.bit,
        Span.one TC_STATUS_HOLD_SEEN.bit, Span.one TC_STATUS_XTAL_MODE.bit, Span.one TC_STATUS_HOLDOVER.bit, Span.one TC_RATE_VALUE.bit,
        Span.one TC_INC_INC.bit, Span.one TC_COUNTS_HOLDS.bit, Span.one CY_KSTATUS_CODE.bit, Span.one CY_KSTATUS_BUSY.bit, Span.one CY_TAMPER_EVENT0.bit,
        Span.one CY_TAMPER_EVENT1.bit, Span.one CY_TRNG_READY.bit, Span.arr CL_CH_SOURCE 24 0x4, Span.arr CL_CH_AMP 24 0x4, Span.arr CL_CH_OFFSET 24 0x4,
        Span.arr CL_CH_GAIN 24 0x4, Span.arr GW_FRAMES_MASTER 2 0x800]) t) ∧
    (∀ (img : Option (List Byte)), exec (.imageFetchDone img) s = .next t → s.Keeps [.regs, .mem, .boot, .chans, .ts, .lq, .out, .freeCtr, .cy, .shadow,
        .sv, .tc, .hs] (itemsPosted ++ bootGoesOn ++ [Span.one GC_BOOT_KEYMODE.bit, Span.one CY_KSTATUS_CODE.bit, Span.one CY_KSTATUS_DIRTY.bit,
        Span.one CY_KSTATUS_BUSY.bit, Span.one SV_MBOX_STATUS_OUT_READY.bit, Span.one SV_RUNTIME_VERSION.bit, Span.one SV_RECOV_INDET.bit,
        Span.one TS_STATUS_NB_VALID.bit, Span.arr GW_FRAMES_MASTER 2 0x800]) t) ∧
    (exec .configApplyDone s = .next t → s.Keeps [.regs, .mem, .boot, .ts, .lq, .out, .sv, .tc, .hs] (itemsPosted ++ [Span.arr2 GW_CS_CFG_DIV 2 0x800 4 0x8,
        Span.arr2 GW_CS_CFG_DDR 2 0x800 4 0x8, Span.arr2 GW_CS_CFG_LANES 2 0x800 4 0x8, Span.one GC_BOOT_STAGE.bit, Span.one GC_BOOT_SOURCE.bit,
        Span.one GC_BOOT_DECK_KEPT.bit, Span.one GC_BOOT_ERR_FIRST.bit, Span.one GC_BOOT_ERR_FIRST_SECT.bit, Span.one GC_BOOT_ERR_LAST.bit,
        Span.one GC_BOOT_ERR_LAST_SECT.bit, Span.one GC_MANIFEST_ID_ID.bit, Span.one GC_SECVER_RUNNING.bit, Span.one TC_STATUS_MASTER_CHANGED.bit,
        Span.one TC_MASTER_ID.bit, Span.one TC_COUNTS_MASTERS.bit, Span.one GW1_XIP_CFG_OPCODE.bit, Span.one GW1_XIP_CFG_DUMMY.bit, Span.one GW1_XIP_CFG_A4.bit,
        Span.one GW1_XIP_CFG_CS.bit, Span.one GW1_XIP_CFG_PREFETCH.bit, Span.one GW1_XIP_CFG_CONT.bit, Span.one GW1_XIP_CFG_EN.bit,
        Span.one HS_FABRIC_ID_ID.bit, Span.one HS_MCFG_PORTS.bit, Span.one HS_MCFG_SERVE_BOOT.bit, Span.one HS_MCFG_PRIORITY.bit, Span.one HS_MCFG_MODE.bit,
        Span.one HS_STATUS_PATH_CHANGED_SEEN.bit, Span.one HS_STATUS_ROOT_CHANGED_SEEN.bit, Span.one HS_STATUS_ADDR_CHANGED_SEEN.bit,
        Span.one HS_STATUS_CONFLICT_SEEN.bit, Span.one HS_STATUS_ADDR_FULL.bit, Span.one HS_STATUS_ADDR.bit, Span.one HS_STATUS_ADDR_VALID.bit,
        Span.one HS_STATUS_DISC.bit, Span.one HS_STATUS_ROLE.bit, Span.one HS_STATUS_MODE.bit, Span.one HS_ROOT_ID.bit, Span.one HS_ROOTINFO_ADDR.bit,
        Span.one HS_ROOTINFO_PRIORITY.bit, Span.one HS_UPSTREAM_HOPS.bit, Span.one HS_UPSTREAM_NEIGH.bit, Span.one HS_UPSTREAM_PORT.bit,
        Span.one HS_UPSTREAM_VALID.bit, Span.one HS_STATS_LINK_DROP.bit, Span.one HS_STATS_FWD_DROP.bit, Span.one DK_STATUS_LOADED.bit,
        Span.one DK_STATUS_TILES_USED.bit, Span.one DK_MANIFEST_ID_ID.bit, Span.one SV_RUNTIME_STATE.bit, Span.arr HSP_CFG_RETRAIN 4 0x40,
        Span.arr HSP_STATUS_UPSTREAM 4 0x40, Span.arr HSP_STATUS_NEIGH_VALID 4 0x40, Span.arr HSP_STATUS_NEIGH 4 0x40, Span.arr HSP_STATUS_LINK 4 0x40,
        Span.arr DK_TILE_FUNC 64 0x4, Span.arr DK_TILE_CHANNEL 64 0x4, Span.arr LQN_CFG_CONSUMER 32 0x40, Span.arr LQN_POOL_SIZE 32 0x40,
        Span.arr LQN_POOL_BASE 32 0x40]) t) ∧
    (exec .bootDeckParity s = .next t → s.Keeps [.regs, .boot, .out, .freeCtr, .hs] (bootGoesOn ++ [Span.arr GW_FRAMES_MASTER 2 0x800]) t) ∧
    (∀ (ecc : Option Nat), exec (.journalRecoveryDone ecc) s = .next t → s.Keeps [.regs, .mem, .power, .boot, .chans, .ts, .lq, .out, .freeCtr, .cy,
        .shadow, .sv, .tc, .hs] (itemsPosted ++ [Span.one GC_BOOT_STAGE.bit, Span.one PW_RAIL_PEN.bit, Span.one CL_COUNT_COUNT.bit, Span.one CL_SEQ_SEQ.bit,
        Span.one CY_KSTATUS_CODE.bit, Span.one CY_KSTATUS_DIRTY.bit, Span.one CY_KSTATUS_BUSY.bit, Span.one SV_MBOX_STATUS_OUT_READY.bit,
        Span.one SV_RUNTIME_VERSION.bit, Span.one SV_RUNTIME_STATE.bit, Span.one SV_RECOV_REPLAYED.bit, Span.one SV_RECOV_INDET.bit,
        Span.one SV_RECOV_DISCARDED.bit, Span.one SV_RECOV_ECC_STOP.bit, Span.one SV_RECOV_DONE.bit, Span.one SV_APPLIED_SEQ.bit,
        Span.one TS_STATUS_NB_VALID.bit]) t) ∧
    (exec .neighbourBootPortTimeout s = .next t → s.Keeps [.regs, .time, .boot, .out, .freeCtr, .clk,
        .hs] (bootGoesOn ++ [Span.one FD_WDOG_STATUS_ELAPSED.bit, Span.arr GW_FRAMES_MASTER 2 0x800]) t) ∧
    (∀ (via : Via), exec (.status via) s = .next t → s.Keeps [.regs, .mem, .lq, .out, .sv, .hs] (itemsPosted ++ [Span.one SV_MBOX_STATUS_OUT_READY.bit]) t) ∧
    (∀ (via : Via), exec (.bootReport via) s = .next t → s.Keeps [.regs, .mem, .lq, .out, .sv,
        .hs] (itemsPosted ++ [Span.one SV_MBOX_STATUS_OUT_READY.bit]) t) ∧
    (∀ (via : Via), exec (.manifestBoot via) s = .next t → s.Keeps [.regs, .mem, .boot, .lq, .out, .sv, .hs] (itemsPosted ++ [Span.one GC_BOOT_STAGE.bit,
        Span.one GC_BOOT_KEYMODE.bit, Span.one GC_BOOT_BARE.bit, Span.one GC_BOOT_BARE_CAUSE.bit, Span.one GC_BOOT_ERR_FIRST.bit,
        Span.one GC_BOOT_ERR_FIRST_SECT.bit, Span.one GC_BOOT_ERR_LAST.bit, Span.one GC_BOOT_ERR_LAST_SECT.bit, Span.one SV_MBOX_STATUS_OUT_READY.bit,
        Span.one SV_MBOX_STATUS_BUSY.bit]) t) ∧
    (∀ (via : Via) (same : Bool), exec (.slotWrite via same) s = .next t → s.Keeps [.regs, .mem, .boot, .lq, .out, .freeCtr, .sv,
        .hs] (itemsPosted ++ [Span.one GC_BOOT_KEYMODE.bit, Span.one SV_MBOX_STATUS_OUT_READY.bit, Span.arr GW_FRAMES_MASTER 2 0x800]) t) ∧
    (∀ (via : Via), exec (.slotConfirm via) s = .next t → s.Keeps [.regs, .mem, .boot, .lq, .out, .freeCtr, .fuses, .sv,
        .hs] (itemsPosted ++ [Span.one SV_MBOX_STATUS_OUT_READY.bit, Span.arr GW_FRAMES_MASTER 2 0x800]) t) ∧
    (∀ (via : Via), exec (.reset via) s = .next t → s.Keeps [.regs, .mem, .power, .lq, .out, .sv, .hs] (itemsPosted ++ [Span.errors,
        Span.one SV_MBOX_STATUS_OUT_READY.bit]) t) ∧
    (∀ (p : Fin 4) (offset : Word) (chunk : List Byte), exec (.bootData p offset chunk) s = .next t → s.Keeps [.mem, .boot, .out, .dramWait] [] t) ∧
    (∀ (p : Fin 4) (total : Word), exec (.bootEnd p total) s = .next t → s.Keeps [.regs, .mem, .boot, .chans, .ts, .lq, .out, .freeCtr, .cy, .shadow, .sv,
        .tc, .hs] (itemsPosted ++ bootGoesOn ++ [Span.one GC_BOOT_KEYMODE.bit, Span.one CY_KSTATUS_CODE.bit, Span.one CY_KSTATUS_DIRTY.bit,
        Span.one CY_KSTATUS_BUSY.bit, Span.one SV_MBOX_STATUS_OUT_READY.bit, Span.one SV_RUNTIME_VERSION.bit, Span.one SV_RECOV_INDET.bit,
        Span.one TS_STATUS_NB_VALID.bit, Span.arr GW_FRAMES_MASTER 2 0x800]) t) ∧
    (∀ (p : Fin 4), exec (.bootDeny p) s = .next t → s.Keeps [.regs, .boot, .out, .freeCtr, .hs] (bootGoesOn ++ [Span.arr GW_FRAMES_MASTER 2 0x800]) t) ∧
    (∀ (dev : Int) (lvl : Int) (ppm : Int) (iref : Byte) (ofs : Byte) (slope : Byte),
        exec (.calStepDone dev lvl ppm iref ofs slope) s = .next t → s.Keeps [.regs, .time, .out, .clk, .cl] [Span.one CL_STATUS_STEP.bit,
        Span.one FD_WDOG_STATUS_ELAPSED.bit] t) ∧
    (∀ (m0 : CalMeas) (m1 : CalMeas) (m2 : CalMeas) (m3 : CalMeas), exec (.calBlock m0 m1 m2 m3) s = .next t → s.Keeps [.regs, .time, .out, .clk,
        .cl] [Span.one CL_STATUS_STEP.bit, Span.one FD_WDOG_STATUS_ELAPSED.bit] t) ∧
    (exec .calFinish s = .next t → s.Keeps [.regs, .mem, .time, .boot, .chans, .ts, .lq, .out, .freeCtr, .clk, .cy, .shadow, .sv, .tc, .hs,
        .cl] (itemsPosted ++ [Span.one GC_BOOT_STAGE.bit, Span.one PW_STATE_CUR.bit, Span.one CL_STATUS_REF_SEEN.bit, Span.one CL_STATUS_FOREIGN_SEEN.bit,
        Span.one CL_STATUS_COUNT_DIRTY.bit, Span.one CL_STATUS_ALL_TRACED.bit, Span.one CL_STATUS_TEMP_TRACED.bit, Span.one CL_STATUS_IREF_TRACED.bit,
        Span.one CL_STATUS_REFTONE.bit, Span.one CL_STATUS_REFRES.bit, Span.one CL_STATUS_STEP.bit, Span.one CL_STATUS_RUNNING.bit, Span.one CL_TRACE_CH.bit,
        Span.one CL_FOREIGN_CH.bit, Span.one CL_COUNT_COUNT.bit, Span.one CL_LAST_TIME_TIME.bit, Span.one CL_REF_TONE_PPM.bit, Span.one CL_REF_TONE_LVL.bit,
        Span.one CL_REF_RES_DEV.bit, Span.one CL_GLOBAL_TEMP_SOURCE.bit, Span.one CL_GLOBAL_IREF_SOURCE.bit, Span.one CL_GLOBAL_TEMP_SLOPE.bit,
        Span.one CL_GLOBAL_TEMP_OFS.bit, Span.one CL_GLOBAL_IREF.bit, Span.one FD_WDOG_STATUS_ELAPSED.bit, Span.one CY_KSTATUS_CODE.bit,
        Span.one CY_KSTATUS_DIRTY.bit, Span.one CY_KSTATUS_BUSY.bit, Span.one SV_MBOX_STATUS_OUT_READY.bit, Span.one SV_RUNTIME_VERSION.bit,
        Span.one SV_RUNTIME_STATE.bit, Span.one SV_RECOV_INDET.bit, Span.one TS_STATUS_NB_VALID.bit, Span.arr CL_CH_TRACED 24 0x4,
        Span.arr CL_CH_FOREIGN 24 0x4, Span.arr CL_CH_SOURCE 24 0x4, Span.arr CL_CH_CAP_SPARES 24 0x4, Span.arr CL_CH_CMP_SPARES 24 0x4,
        Span.arr CL_CH_TX_SPARES 24 0x4, Span.arr CL_CH_AMP 24 0x4, Span.arr CL_CH_OFFSET 24 0x4, Span.arr CL_CH_GAIN 24 0x4]) t) ∧
    (∀ (p : Path), exec (.commit p) s = .next t → s.Keeps [.regs, .out, .hawserStatus, .jtagStatus, .hs, .cl] (replyFlags ++ [Span.errors,
        Span.one CL_CMD_STATUS_SLOT.bit, Span.one CL_CMD_STATUS_CODE.bit, Span.one CL_CMD_STATUS_BUSY.bit]) t) ∧
    (∀ (ok : Bool), exec (.commitBurnDone ok) s = .next t → s.Keeps [.regs, .out, .fuses, .cl] [Span.one CL_STATUS_REC_BAD_SEEN.bit,
        Span.one CL_STATUS_LAST_VALID.bit, Span.one CL_STATUS_SLOTS_USED.bit, Span.one CL_CMD_STATUS_CODE.bit, Span.one CL_CMD_STATUS_BUSY.bit,
        Span.one CL_SLOTUSED_SLOTS.bit, Span.one CL_SLOTVALID_SLOTS.bit] t) ∧
    (∀ (harts : List (List Byte)) (ring : Nat), exec (.crashSlotWritten harts ring) s = .next t → s.Keeps [.regs, .mem, .out, .freeCtr,
        .fd] [Span.one FD_FATAL_SLOT_OK.bit, Span.one FD_CRASH_NEXT.bit, Span.one FD_CRASH_LAST.bit, Span.one FD_CRASH_LAST_VALID.bit,
        Span.one FD_CRASH_SEQ_SEQ.bit] t) ∧
    (∀ (p : Path) (w : Word), exec (.wdogKick p w) s = .next t → s.Keeps [.regs, .out, .clk, .hawserStatus, .jtagStatus, .hs] (replyFlags ++ [Span.errors,
        Span.one FD_WDOG_STATUS_ELAPSED.bit]) t) ∧
    (∀ (p : Path) (w : Word), exec (.wdogEnable p w) s = .next t → s.Keeps [.regs, .out, .clk, .hawserStatus, .jtagStatus, .hs] (replyFlags ++ [Span.errors,
        Span.one FD_WDOG_CFG_TIMEOUT.bit, Span.one FD_WDOG_CFG_PRE.bit, Span.one FD_WDOG_CFG_EN.bit, Span.one FD_WDOG_STATUS_ELAPSED.bit]) t) ∧
    (∀ (x0 : Word) (corrected : Bool) (pilot : Bool), exec (.eccError x0 corrected pilot) s = .next t → s.Keeps [.regs, .out,
        .pilotFault] [Span.one FD_STATUS_CE_SEEN.bit, Span.one FD_STATUS_DRAM_UE_SEEN.bit, Span.one FD_STATUS_MRAM_UE_SEEN.bit, Span.one FD_ECC_ADDR_ADDR.bit,
        Span.one FD_ECC_STATS_UNCORR.bit, Span.one FD_ECC_STATS_CORR.bit] t) ∧
    (∀ (m : Fin 32) (rising : Bool), exec (.gpioEdge m rising) s = .next t → s.Keeps [.regs, .out, .gpio] [Span.one GC_GPIO_PEND_PEND.bit] t) ∧
    (exec .vaonPowerOn s = .next t → s.Keeps [.regs, .power, .out] [Span.one PW_RAIL_VAON_OK.bit, Span.one PW_RAIL_PEN.bit] t) ∧
    (exec .crystalStable s = .next t → s.Keeps [.regs, .power, .out] [Span.one PW_RAIL_PEN.bit] t) ∧
    (exec .xtalFail s = .next t → s.Keeps [.regs, .mem, .power, .chans, .ts, .lq, .out, .freeCtr, .sv, .hs,
        .fd] (itemsPosted ++ sessionsLost ++ wakeStarts ++ [Span.one PW_STATE_CUR.bit, Span.one PW_STATUS_XTAL_FAIL.bit, Span.one PW_STATUS_PFAIL_GLITCH.bit,
        Span.one PW_STATUS_PFAIL_SEEN.bit, Span.one PW_STATUS_PFAIL.bit, Span.one PW_RAIL_VCORE_OK.bit, Span.one PW_RAIL_VANA_OK.bit,
        Span.one PW_RAIL_VDDR_OK.bit, Span.one PW_RAIL_VIO_OK.bit, Span.one SV_MBOX_STATUS_OUT_READY.bit, Span.one TS_STATUS_SURVEY.bit,
        Span.one TS_SURVEY_ABORT.bit, Span.one TS_SURVEY_GO.bit, Span.one TS_SURVEY_STATUS_CODE.bit, Span.arr CH_TX_STATUS_HEADROOM_SEEN 24 0x2000,
        Span.arr CH_EQ_CFG_SEED_CLR 24 0x2000, Span.arr CH_RX_STATUS_EQ_DIVERGED_SEEN 24 0x2000, Span.arr CH_FT_STATUS_DEV_SEEN 24 0x2000,
        Span.arr CH_FT_STATS_DEV 24 0x2000]) t) ∧
    (exec .enableDropStep s = .next t → s.Keeps [.regs, .mem, .power, .chans, .ts, .lq, .out, .freeCtr, .sv, .hs,
        .fd] (itemsPosted ++ sessionsLost ++ wakeStarts ++ [Span.one PW_STATE_CUR.bit, Span.one PW_STATUS_PFAIL_GLITCH.bit, Span.one PW_STATUS_PFAIL_SEEN.bit,
        Span.one PW_STATUS_PFAIL.bit, Span.one PW_RAIL_VCORE_OK.bit, Span.one PW_RAIL_VANA_OK.bit, Span.one PW_RAIL_VDDR_OK.bit, Span.one PW_RAIL_VIO_OK.bit,
        Span.one SV_MBOX_STATUS_OUT_READY.bit, Span.one TS_STATUS_SURVEY.bit, Span.one TS_SURVEY_ABORT.bit, Span.one TS_SURVEY_GO.bit,
        Span.one TS_SURVEY_STATUS_CODE.bit, Span.arr CH_TX_STATUS_HEADROOM_SEEN 24 0x2000, Span.arr CH_EQ_CFG_SEED_CLR 24 0x2000,
        Span.arr CH_RX_STATUS_EQ_DIVERGED_SEEN 24 0x2000, Span.arr CH_FT_STATUS_DEV_SEEN 24 0x2000, Span.arr CH_FT_STATS_DEV 24 0x2000]) t) ∧
    (exec .powerUpRetry s = .next t → s.Keeps [.power, .out] [] t) ∧
    (∀ (frags : List (Fin 24 × RxFrame)), exec (.pllaUnlock frags) s = .next t → s.Keeps [.regs, .power, .chans, .ts, .lq, .out, .freeCtr, .ce, .shadow,
        .sv, .tc, .hs, .cl] (itemsPosted ++ [Span.arr2 CE_INST_DIRTY_BLOCKS 8 0x80 8 0x4, Span.one GC_STATUS_PLLA_LOCK.bit, Span.one GC_STATUS_PLLA_UNLOCK.bit,
        Span.one FD_WDOG_STATUS_PAUSED.bit, Span.one TC_STATUS_HOLD_SEEN.bit, Span.one TC_STATUS_XTAL_MODE.bit, Span.one TC_STATUS_HOLDOVER.bit,
        Span.one TC_RATE_VALUE.bit, Span.one TC_INC_INC.bit, Span.one TC_COUNTS_HOLDS.bit, Span.one CE_ACC_BUSY_SEEN.bit, Span.one CE_ACC_BLOCK.bit,
        Span.one CE_ACC_INST.bit, Span.one CE_ACC_CODE.bit, Span.arr CH_TX_STATUS_CUT_SEEN 24 0x2000, Span.arr CH_TX_STATUS_CUT_CAUSE 24 0x2000,
        Span.arr CH_TX_STATUS_HEADROOM 24 0x2000, Span.arr CH_EQ_CFG_SEED_CLR 24 0x2000, Span.arr CH_RX_STATUS_EQ_DIVERGED_SEEN 24 0x2000,
        Span.arr CH_RX_STATUS_STATE 24 0x2000, Span.arr CH_FT_STATUS_DEV_SEEN 24 0x2000, Span.arr CH_FT_STATUS_SEQ 24 0x2000,
        Span.arr CH_FT_STATS_DEV 24 0x2000, Span.arr CH_INV_STATUS_STALE_SEEN 24 0x2000, Span.arr CH_INV_STATUS_TWIN_SEEN 24 0x2000,
        Span.arr CH_INV_STATUS_LEVEL 24 0x2000, Span.arr CH_INV_STATUS_DEPTH 24 0x2000, Span.arr CH_INV_STATUS_WALK 24 0x2000,
        Span.arr CH_INV_STATS_MIGRATED 24 0x2000, Span.arr CH_INV_STATS_STALE 24 0x2000, Span.arr CH_INV_STATS_TAGS 24 0x2000,
        Span.arr CH_INV_STATS_ROUNDS 24 0x2000, Span.arr CE_INST_STATUS_DISCARD_SEEN 8 0x80, Span.arr CE_INST_STATUS_RATE 8 0x80,
        Span.arr CE_INST_STATUS_SECURE 8 0x80, Span.arr CE_INST_STATUS_GRANT 8 0x80, Span.arr CE_INST_STATUS_STATE 8 0x80,
        Span.arr CE_INST_CSEQ_CSEQ 8 0x80]) t) ∧
    (exec .plldUnlock s = .next t → s.Keeps [.regs, .power, .out] [Span.one GC_STATUS_PLLD_LOCK.bit, Span.one GC_STATUS_PLLD_UNLOCK.bit] t) ∧
    (exec .plleUnlock s = .next t → s.Keeps [.regs, .out, .en] [Span.one GC_STATUS_PLLE_LOCK.bit, Span.one GC_STATUS_PLLE_UNLOCK.bit,
        Span.arr EN_STATUS_LINK_CHG_SEEN 2 0x800, Span.arr EN_STATUS_LINK 2 0x800] t) ∧
    (∀ (t0 : BitVec 11), exec (.tempSample t0) s = .next t → s.Keeps [.regs, .power, .out] [Span.one PW_STATUS_THERM_SHUT.bit, Span.one PW_TEMP_TEMP.bit,
        Span.one PW_TEMP_STALE.bit] t) ∧
    (∀ (frags : List (Fin 24 × RxFrame)), exec (.thermalShutdown frags) s = .next t → s.Keeps [.regs, .chans, .ts, .lq, .out, .freeCtr, .ce, .shadow, .sv,
        .hs] (itemsPosted ++ sessionsLost ++ [Span.arr2 CE_INST_DIRTY_BLOCKS 8 0x80 8 0x4, Span.one PW_STATUS_THERM_SHUT_SEEN.bit,
        Span.one PW_STATUS_THERM_SHUT.bit, Span.one TS_STATUS_SURVEY.bit, Span.one TS_SURVEY_ABORT.bit, Span.one TS_SURVEY_GO.bit,
        Span.one TS_SURVEY_STATUS_CODE.bit, Span.one CE_ACC_BUSY_SEEN.bit, Span.one CE_ACC_BLOCK.bit, Span.one CE_ACC_INST.bit, Span.one CE_ACC_CODE.bit,
        Span.arr CH_TX_STATUS_HEADROOM_SEEN 24 0x2000, Span.arr CH_TX_STATUS_CUT_SEEN 24 0x2000, Span.arr CH_TX_STATUS_CUT_CAUSE 24 0x2000,
        Span.arr CH_EQ_CFG_SEED_CLR 24 0x2000, Span.arr CH_RX_STATUS_EQ_DIVERGED_SEEN 24 0x2000, Span.arr CH_FT_STATUS_DEV_SEEN 24 0x2000,
        Span.arr CH_FT_STATS_DEV 24 0x2000, Span.arr CE_INST_STATUS_DISCARD_SEEN 8 0x80, Span.arr CE_INST_STATUS_RATE 8 0x80,
        Span.arr CE_INST_STATUS_SECURE 8 0x80, Span.arr CE_INST_STATUS_GRANT 8 0x80, Span.arr CE_INST_STATUS_STATE 8 0x80,
        Span.arr CE_INST_CSEQ_CSEQ 8 0x80]) t) ∧
    (∀ (g : Fin 6) (mv : Nat), exec (.vrfGroupLevelChange g mv) s = .next t → s.Keeps [.regs, .power, .out] [Span.one PW_RAIL_VRF_OK.bit,
        Span.arr CH_TX_STATUS_HEADROOM_SEEN 24 0x2000, Span.arr CH_TX_STATUS_HEADROOM 24 0x2000] t) ∧
    (∀ (p : Path), exec (.trimRequest p) s = .next t → s.Keeps [.regs, .power, .chans, .ts, .lq, .out, .freeCtr, .hawserStatus, .jtagStatus, .sv,
        .hs] (itemsPosted ++ sessionsLost ++ [Span.errors, Span.one PW_STATE_BUSY.bit, Span.one PW_STATE_REQ.bit, Span.one TS_STATUS_SURVEY.bit,
        Span.one TS_SURVEY_ABORT.bit, Span.one TS_SURVEY_GO.bit, Span.one TS_SURVEY_STATUS_CODE.bit, Span.arr GW_STATUS_HOLE 2 0x800,
        Span.arr CH_TX_STATUS_HEADROOM_SEEN 24 0x2000, Span.arr CH_EQ_CFG_SEED_CLR 24 0x2000, Span.arr CH_RX_STATUS_EQ_DIVERGED_SEEN 24 0x2000,
        Span.arr CH_FT_STATUS_DEV_SEEN 24 0x2000, Span.arr CH_FT_STATS_DEV 24 0x2000]) t) ∧
    (exec .trimEntry s = .next t → s.Keeps [.regs, .time, .power, .out, .clk, .cl] [Span.one PW_STATE_BUSY.bit, Span.one PW_STATE_REQ.bit,
        Span.one PW_STATE_CUR.bit, Span.one PW_TEMP_STALE.bit, Span.one CL_STATUS_STEP.bit, Span.one CL_STATUS_RUNNING.bit, Span.one FD_WDOG_STATUS_ELAPSED.bit,
        Span.arr CH_TX_LOAD_STALE 24 0x2000, Span.arr CH_RX_LEVEL_STALE 24 0x2000, Span.arr CH_RX_CARRIER_STALE 24 0x2000] t) ∧
    (∀ (p : Path), exec (.watchRequest p) s = .next t → s.Keeps [.regs, .power, .chans, .ts, .lq, .out, .freeCtr, .hawserStatus, .jtagStatus, .sv,
        .hs] (itemsPosted ++ sessionsLost ++ [Span.errors, Span.one PW_STATE_BUSY.bit, Span.one PW_STATE_REQ.bit, Span.one TS_STATUS_SURVEY.bit,
        Span.one TS_SURVEY_ABORT.bit, Span.one TS_SURVEY_GO.bit, Span.one TS_SURVEY_STATUS_CODE.bit, Span.arr GW_STATUS_HOLE 2 0x800,
        Span.arr CH_TX_STATUS_HEADROOM_SEEN 24 0x2000, Span.arr CH_EQ_CFG_SEED_CLR 24 0x2000, Span.arr CH_RX_STATUS_EQ_DIVERGED_SEEN 24 0x2000,
        Span.arr CH_FT_STATUS_DEV_SEEN 24 0x2000, Span.arr CH_FT_STATS_DEV 24 0x2000]) t) ∧
    (exec .watchEntryContinue s = .next t → s.Keeps [.regs, .mem, .power, .chans, .ts, .lq, .out, .freeCtr, .sv, .tc, .hs, .en,
        .fd] (itemsPosted ++ sessionsLost ++ wakeStarts ++ [Span.arr2 CE_INST_DIRTY_BLOCKS 8 0x80 8 0x4, Span.one GC_STATUS_PLLA_LOCK.bit,
        Span.one GC_STATUS_PLLD_LOCK.bit, Span.one GC_STATUS_PLLE_LOCK.bit, Span.one PW_STATE_CUR.bit, Span.one PW_STATUS_PFAIL_GLITCH.bit,
        Span.one PW_STATUS_PFAIL_SEEN.bit, Span.one PW_STATUS_PFAIL.bit, Span.one PW_RAIL_VCORE_OK.bit, Span.one PW_RAIL_VANA_OK.bit,
        Span.one PW_RAIL_VDDR_OK.bit, Span.one PW_RAIL_VIO_OK.bit, Span.one PW_WK_STATUS_LEARNING.bit, Span.one CL_STATUS_COUNT_DIRTY.bit,
        Span.one FD_WDOG_STATUS_PAUSED.bit, Span.one TC_STATUS_HOLD_SEEN.bit, Span.one TC_STATUS_XTAL_MODE.bit, Span.one TC_STATUS_HOLDOVER.bit,
        Span.one TC_RATE_VALUE.bit, Span.one TC_INC_INC.bit, Span.one TC_COUNTS_HOLDS.bit, Span.one HS_STATS_LINK_DROP.bit, Span.one CY_KSTATUS_DIRTY.bit,
        Span.one SV_MBOX_STATUS_OUT_READY.bit, Span.one TS_STATUS_SURVEY.bit, Span.one TS_STATUS_NB_DIRTY.bit, Span.one TS_SURVEY_ABORT.bit,
        Span.one TS_SURVEY_GO.bit, Span.one TS_SURVEY_STATUS_CODE.bit, Span.arr PW_WK_ENT_TRIPPED 256 0x4, Span.arr EN_STATUS_LINK_CHG_SEEN 2 0x800,
        Span.arr EN_STATUS_LINK 2 0x800, Span.arr HSP_CFG_RETRAIN 4 0x40, Span.arr HSP_STATUS_NEIGH_VALID 4 0x40, Span.arr HSP_STATUS_NEIGH 4 0x40,
        Span.arr HSP_STATUS_LINK 4 0x40, Span.arr CH_TX_STATUS_HEADROOM_SEEN 24 0x2000, Span.arr CH_EQ_CFG_SEED_CLR 24 0x2000,
        Span.arr CH_RX_STATUS_EQ_DIVERGED_SEEN 24 0x2000, Span.arr CH_FT_STATUS_DEV_SEEN 24 0x2000, Span.arr CH_FT_STATS_DEV 24 0x2000]) t) ∧
    (∀ (p : Path), exec (.dormantRequest p) s = .next t → s.Keeps [.regs, .power, .chans, .ts, .lq, .out, .freeCtr, .hawserStatus, .jtagStatus, .sv,
        .hs] (itemsPosted ++ sessionsLost ++ [Span.errors, Span.one PW_STATE_BUSY.bit, Span.one PW_STATE_REQ.bit, Span.one TS_STATUS_SURVEY.bit,
        Span.one TS_SURVEY_ABORT.bit, Span.one TS_SURVEY_GO.bit, Span.one TS_SURVEY_STATUS_CODE.bit, Span.arr GW_STATUS_HOLE 2 0x800,
        Span.arr CH_TX_STATUS_HEADROOM_SEEN 24 0x2000, Span.arr CH_EQ_CFG_SEED_CLR 24 0x2000, Span.arr CH_RX_STATUS_EQ_DIVERGED_SEEN 24 0x2000,
        Span.arr CH_FT_STATUS_DEV_SEEN 24 0x2000, Span.arr CH_FT_STATS_DEV 24 0x2000]) t) ∧
    (∀ (p : Path) (w : Word), exec (.gcReset p w) s = .next t → s.Keeps [.regs, .power, .out, .hawserStatus, .jtagStatus,
        .hs] (replyFlags ++ [Span.errors]) t) ∧
    (∀ (input : PfailInput), exec (.pfailAssert input) s = .next t → s.Keeps [.regs, .mem, .power, .chans, .ts, .lq, .out, .freeCtr, .sv, .hs,
        .fd] (itemsPosted ++ sessionsLost ++ [Span.one PW_STATUS_PFAIL_GLITCH.bit, Span.one PW_STATUS_PFAIL_SEEN.bit, Span.one PW_STATUS_PFAIL.bit,
        Span.one SV_MBOX_STATUS_OUT_READY.bit, Span.one TS_STATUS_SURVEY.bit, Span.one TS_SURVEY_ABORT.bit, Span.one TS_SURVEY_GO.bit,
        Span.one TS_SURVEY_STATUS_CODE.bit, Span.arr CH_TX_STATUS_HEADROOM_SEEN 24 0x2000, Span.arr CH_EQ_CFG_SEED_CLR 24 0x2000,
        Span.arr CH_RX_STATUS_EQ_DIVERGED_SEEN 24 0x2000, Span.arr CH_FT_STATUS_DEV_SEEN 24 0x2000, Span.arr CH_FT_STATS_DEV 24 0x2000]) t) ∧
    (∀ (input : PfailInput), exec (.pfailRelease input) s = .next t → s.Keeps [.regs, .mem, .power, .chans, .ts, .lq, .out, .freeCtr, .sv, .hs,
        .fd] (itemsPosted ++ sessionsLost ++ [Span.one PW_STATUS_PFAIL_GLITCH.bit, Span.one PW_STATUS_PFAIL_SEEN.bit, Span.one PW_STATUS_PFAIL.bit,
        Span.one SV_MBOX_STATUS_OUT_READY.bit, Span.one TS_STATUS_SURVEY.bit, Span.one TS_SURVEY_ABORT.bit, Span.one TS_SURVEY_GO.bit,
        Span.one TS_SURVEY_STATUS_CODE.bit, Span.arr CH_TX_STATUS_HEADROOM_SEEN 24 0x2000, Span.arr CH_EQ_CFG_SEED_CLR 24 0x2000,
        Span.arr CH_RX_STATUS_EQ_DIVERGED_SEEN 24 0x2000, Span.arr CH_FT_STATUS_DEV_SEEN 24 0x2000, Span.arr CH_FT_STATS_DEV 24 0x2000]) t) ∧
    (∀ (source : WakeSource), exec (.wakeEvent source) s = .next t → s.Keeps [.regs, .power, .ts, .out] (wakeStarts) t) ∧
    (exec .sniffBurst s = .next t → s.Keeps [.regs, .time, .ts, .out, .clk] [Span.one PW_WK_STATUS_RUN.bit, Span.one FD_WDOG_STATUS_ELAPSED.bit] t) ∧
    (∀ (e0 : Byte) (x : Fin 4096), exec (.sniff e0 x) s = .next t → s.Keeps [.regs, .time, .power, .chans, .ts, .out, .freeCtr,
        .clk] (wakeStarts ++ [Span.one PW_WK_STATUS_TRIP_SEEN.bit, Span.one PW_WK_STATUS_LEARNING.bit, Span.one PW_WK_TRIP_BERTH.bit,
        Span.one PW_WK_TRIP_ENTRY.bit, Span.one PW_WK_TRIP_DEV.bit, Span.one FD_WDOG_STATUS_ELAPSED.bit, Span.arr PW_WK_ENT_LAST 256 0x4,
        Span.arr PW_WK_ENT_TRIPPED 256 0x4, Span.arr CH_SEL_STATUS_COIL 24 0x2000, Span.arr CH_SEL_STATUS_ON 24 0x2000,
        Span.arr CH_SEL_STATUS_FRAMES 24 0x2000]) t) ∧
    (exec .enableAssertStep s = .next t → s.Keeps [.regs, .power, .out] [Span.one PW_RAIL_PEN.bit] t) ∧
    (∀ (r : Rail), s.dev.NothingWaits → exec (.railInRegulation r) s = .next t → s.Keeps [.regs, .mem, .power, .boot, .chans, .lq, .out, .freeCtr, .cy,
        .fuses, .epoch, .sv, .tc, .hs] (itemsPosted ++ [Span.one GC_STATUS_PLLA_LOCK.bit, Span.one GC_STATUS_PLLD_LOCK.bit, Span.one PW_STATE_BUSY.bit,
        Span.one PW_STATE_REQ.bit, Span.one PW_STATE_CUR.bit, Span.one PW_STATUS_DRAM_VALID.bit, Span.one PW_RAIL_VCORE_OK.bit, Span.one PW_RAIL_VANA_OK.bit,
        Span.one PW_RAIL_VDDR_OK.bit, Span.one PW_RAIL_VIO_OK.bit, Span.one PW_RAIL_PEN.bit, Span.one FD_WDOG_STATUS_PAUSED.bit,
        Span.one TC_STATUS_XTAL_MODE.bit, Span.one HS_STATS_LINK_DROP.bit, Span.one CY_KSTATUS_CODE.bit, Span.one CY_KSTATUS_BUSY.bit,
        Span.one CY_TAMPER_EVENT0.bit, Span.one CY_TAMPER_EVENT1.bit, Span.one CY_TRNG_READY.bit, Span.one SV_MBOX_STATUS_OUT_READY.bit,
        Span.arr HSP_CFG_RETRAIN 4 0x40, Span.arr HSP_STATUS_NEIGH_VALID 4 0x40, Span.arr HSP_STATUS_NEIGH 4 0x40, Span.arr HSP_STATUS_LINK 4 0x40]) t)

/-- Fields, reception, the sequencer, card commands, the schedule and the surveys: what each of these commands can change. -/
def Obligations.ChannelAndScheduleFrames : Prop :=
  ∀ s t : State,
    (∀ (p : Path) (n : Fin 24) (w : Word), exec (.pcmdWord p n w) s = .next t → s.Keeps [.regs, .chans, .lq, .out, .hawserStatus, .jtagStatus, .sv,
        .hs] (itemsPosted ++ [Span.arr GW_STATUS_HOLE 2 0x800, Span.arr CH_INV_STATUS_STALE_SEEN 24 0x2000, Span.arr CH_INV_STATS_STALE 24 0x2000,
        Span.arr CH_INV_STATS_ROUNDS 24 0x2000, Span.arr CH_PCMD_STATUS_OVERFLOW 24 0x2000]) t) ∧
    (∀ (n : Fin 24), exec (.inventory n) s = .next t → s.Keeps [.regs, .chans, .ts, .lq, .out, .sv,
        .hs] (itemsPosted ++ [Span.arr CH_INV_STATUS_STALE_SEEN 24 0x2000, Span.arr CH_INV_STATUS_FOUND 24 0x2000, Span.arr CH_INV_STATUS_LEVEL 24 0x2000,
        Span.arr CH_INV_STATUS_DEPTH 24 0x2000, Span.arr CH_INV_STATUS_WALK 24 0x2000, Span.arr CH_INV_STATS_STALE 24 0x2000,
        Span.arr CH_INV_STATS_ROUNDS 24 0x2000]) t) ∧
    (∀ (n : Fin 24), exec (.activate n) s = .next t → s.Keeps [.regs, .chans, .ts, .lq, .out, .freeCtr, .sv,
        .hs] (itemsPosted ++ sessionsLost ++ [Span.arr CH_TX_STATUS_HEADROOM_SEEN 24 0x2000, Span.arr CH_EQ_CFG_SEED_CLR 24 0x2000,
        Span.arr CH_RX_STATUS_EQ_DIVERGED_SEEN 24 0x2000, Span.arr CH_FT_STATUS_DEV_SEEN 24 0x2000, Span.arr CH_FT_STATS_DEV 24 0x2000]) t) ∧
    (∀ (n : Fin 24), exec (.exchange n) s = .next t → s.Keeps [.regs, .chans, .ts, .lq, .out, .freeCtr, .sv,
        .hs] (itemsPosted ++ sessionsLost ++ [Span.arr CH_TX_STATUS_HEADROOM_SEEN 24 0x2000, Span.arr CH_EQ_CFG_SEED_CLR 24 0x2000,
        Span.arr CH_RX_STATUS_EQ_DIVERGED_SEEN 24 0x2000, Span.arr CH_FT_STATUS_DEV_SEEN 24 0x2000, Span.arr CH_FT_STATS_DEV 24 0x2000]) t) ∧
    (∀ (n : Fin 24), exec (.halt n) s = .next t → s.Keeps [.regs, .chans, .ts, .lq, .out, .freeCtr, .sv,
        .hs] (itemsPosted ++ sessionsLost ++ [Span.arr CH_TX_STATUS_HEADROOM_SEEN 24 0x2000, Span.arr CH_EQ_CFG_SEED_CLR 24 0x2000,
        Span.arr CH_RX_STATUS_EQ_DIVERGED_SEEN 24 0x2000, Span.arr CH_FT_STATUS_DEV_SEEN 24 0x2000, Span.arr CH_FT_STATS_DEV 24 0x2000]) t) ∧
    (∀ (n : Fin 24), exec (.release n) s = .next t → s.Keeps [.regs, .chans, .lq, .out, .sv,
        .hs] (itemsPosted ++ [Span.arr CH_INV_STATUS_STALE_SEEN 24 0x2000, Span.arr CH_INV_STATS_STALE 24 0x2000, Span.arr CH_INV_STATS_ROUNDS 24 0x2000]) t) ∧
    (∀ (n : Fin 24), exec (.migrate n) s = .next t → s.Keeps [.regs, .chans, .lq, .out, .sv, .hs] (itemsPosted ++ [Span.arr CH_RX_STATUS_STATE 24 0x2000,
        Span.arr CH_FT_STATUS_SEQ 24 0x2000, Span.arr CH_INV_STATUS_STALE_SEEN 24 0x2000, Span.arr CH_INV_STATS_MIGRATED 24 0x2000,
        Span.arr CH_INV_STATS_STALE 24 0x2000, Span.arr CH_INV_STATS_ROUNDS 24 0x2000]) t) ∧
    (∀ (n : Fin 24), exec (.rfReset n) s = .next t → s.Keeps [.regs, .chans, .lq, .out, .sv, .hs] (itemsPosted ++ [Span.arr CH_TX_STATUS_HEADROOM 24 0x2000,
        Span.arr CH_INV_STATUS_STALE_SEEN 24 0x2000, Span.arr CH_INV_STATS_STALE 24 0x2000, Span.arr CH_INV_STATS_ROUNDS 24 0x2000]) t) ∧
    (∀ (n : Fin 24), exec (.cancel n) s = .next t → s.Keeps [.regs, .chans, .lq, .out, .sv,
        .hs] (itemsPosted ++ [Span.arr CH_INV_STATUS_STALE_SEEN 24 0x2000, Span.arr CH_INV_STATS_STALE 24 0x2000, Span.arr CH_INV_STATS_ROUNDS 24 0x2000]) t) ∧
    (∀ (n : Fin 24), exec (.auth n) s = .next t → s.Keeps [.regs, .chans, .ts, .lq, .out, .freeCtr, .cy, .sv,
        .hs] (itemsPosted ++ sessionsLost ++ [Span.arr CH_TX_STATUS_HEADROOM_SEEN 24 0x2000, Span.arr CH_EQ_CFG_SEED_CLR 24 0x2000,
        Span.arr CH_RX_STATUS_EQ_DIVERGED_SEEN 24 0x2000, Span.arr CH_FT_STATUS_DEV_SEEN 24 0x2000, Span.arr CH_FT_STATS_DEV 24 0x2000]) t) ∧
    (∀ (n : Fin 24), exec (.smExchange n) s = .next t → s.Keeps [.regs, .chans, .ts, .lq, .out, .freeCtr, .sv,
        .hs] (itemsPosted ++ sessionsLost ++ [Span.one CY_SM_STATS_SEQ_EXHAUSTED.bit, Span.arr CH_TX_STATUS_HEADROOM_SEEN 24 0x2000,
        Span.arr CH_EQ_CFG_SEED_CLR 24 0x2000, Span.arr CH_RX_STATUS_EQ_DIVERGED_SEEN 24 0x2000, Span.arr CH_FT_STATUS_DEV_SEEN 24 0x2000,
        Span.arr CH_FT_STATS_DEV 24 0x2000]) t) ∧
    (∀ (n : Fin 24), exec (.smEnd n) s = .next t → s.Keeps [.regs, .chans, .lq, .out, .sv,
        .hs] (itemsPosted ++ [Span.arr CH_INV_STATUS_STALE_SEEN 24 0x2000, Span.arr CH_INV_STATS_STALE 24 0x2000, Span.arr CH_INV_STATS_ROUNDS 24 0x2000]) t) ∧
    (∀ (n : Fin 24), exec (.regulatorCurrentLimit n) s = .next t → s.Keeps [.regs, .out] [Span.one PW_CHREG_FAULT_CH.bit] t) ∧
    (∀ (n : Fin 24), exec (.regulatorDropout n) s = .next t → s.Keeps [.regs, .out] [Span.arr CH_TX_STATUS_HEADROOM_SEEN 24 0x2000,
        Span.arr CH_TX_STATUS_HEADROOM 24 0x2000] t) ∧
    (∀ (p : Path) (n : Fin 24) (w : Word) (soFar : RxFrame), exec (.txAmpWrite p n w soFar) s = .next t → s.Keeps [.regs, .chans, .ts, .lq, .out, .freeCtr,
        .hawserStatus, .jtagStatus, .sv, .hs] (itemsPosted ++ sessionsLost ++ [Span.errors, Span.arr GW_STATUS_HOLE 2 0x800, Span.arr CH_TX_AMP_CODE 24 0x2000,
        Span.arr CH_TX_AMP_PWR 24 0x2000, Span.arr CH_TX_STATUS_HEADROOM_SEEN 24 0x2000, Span.arr CH_TX_STATUS_CUT_SEEN 24 0x2000,
        Span.arr CH_TX_STATUS_CUT_CAUSE 24 0x2000, Span.arr CH_EQ_CFG_SEED_CLR 24 0x2000, Span.arr CH_RX_STATUS_EQ_DIVERGED_SEEN 24 0x2000,
        Span.arr CH_FT_STATUS_DEV_SEEN 24 0x2000, Span.arr CH_FT_STATS_DEV 24 0x2000, Span.arr CH_INV_STATUS_FOUND 24 0x2000]) t) ∧
    (∀ (n : Fin 24), exec (.supplySettled n) s = .next t → s.Keeps [.regs, .chans, .ts, .lq, .out, .freeCtr, .sv,
        .hs] (itemsPosted ++ sessionsLost ++ [Span.arr CH_TX_STATUS_HEADROOM_SEEN 24 0x2000, Span.arr CH_EQ_CFG_SEED_CLR 24 0x2000,
        Span.arr CH_RX_STATUS_EQ_DIVERGED_SEEN 24 0x2000, Span.arr CH_FT_STATUS_DEV_SEEN 24 0x2000, Span.arr CH_FT_STATS_DEV 24 0x2000,
        Span.arr CH_INV_STATUS_FOUND 24 0x2000]) t) ∧
    (∀ (n : Fin 24), exec (.rampUpDone n) s = .next t → s.Keeps [.regs, .chans, .ts, .lq, .out, .freeCtr, .sv,
        .hs] (itemsPosted ++ sessionsLost ++ [Span.arr CH_TX_STATUS_HEADROOM_SEEN 24 0x2000, Span.arr CH_EQ_CFG_SEED_CLR 24 0x2000,
        Span.arr CH_RX_STATUS_EQ_DIVERGED_SEEN 24 0x2000, Span.arr CH_FT_STATUS_DEV_SEEN 24 0x2000, Span.arr CH_FT_STATS_DEV 24 0x2000,
        Span.arr CH_INV_STATUS_FOUND 24 0x2000]) t) ∧
    (∀ (n : Fin 24) (mag : Fin 4096) (phase : Byte) (level : Byte) (carrierPhase : Byte),
        exec (.loadMeasurementDone n mag phase level carrierPhase) s = .next t → s.Keeps [.regs, .chans, .ts, .lq, .out, .sv,
        .hs] (itemsPosted ++ [Span.one TS_STATUS_EXCL_SEEN.bit, Span.arr TS_EXCL_BERTHS 48 0x4, Span.arr CH_TX_STATUS_LOAD_FAULT 24 0x2000,
        Span.arr CH_TX_STATUS_LOAD_COIL 24 0x2000, Span.arr CH_TX_LOAD_MAG 24 0x2000, Span.arr CH_TX_LOAD_PHASE 24 0x2000, Span.arr CH_TX_LOAD_COIL 24 0x2000,
        Span.arr CH_TX_LOAD_UNTRACED 24 0x2000, Span.arr CH_TX_LOAD_STALE 24 0x2000, Span.arr CH_RX_STATUS_STATE 24 0x2000,
        Span.arr CH_RX_CARRIER_LEVEL 24 0x2000, Span.arr CH_RX_CARRIER_COIL 24 0x2000, Span.arr CH_RX_CARRIER_OWN 24 0x2000,
        Span.arr CH_RX_CARRIER_UNTRACED 24 0x2000, Span.arr CH_RX_CARRIER_STALE 24 0x2000, Span.arr CH_FT_STATUS_SEQ 24 0x2000,
        Span.arr CH_INV_STATUS_STALE_SEEN 24 0x2000, Span.arr CH_INV_STATUS_LEVEL 24 0x2000, Span.arr CH_INV_STATUS_DEPTH 24 0x2000,
        Span.arr CH_INV_STATUS_WALK 24 0x2000, Span.arr CH_INV_STATS_STALE 24 0x2000, Span.arr CH_INV_STATS_ROUNDS 24 0x2000]) t) ∧
    (∀ (n : Fin 24), exec (.rampDownDone n) s = .next t → s.Keeps [.regs, .chans, .ts, .lq, .out, .freeCtr, .sv,
        .hs] (itemsPosted ++ sessionsLost ++ [Span.arr CH_TX_STATUS_HEADROOM_SEEN 24 0x2000, Span.arr CH_EQ_CFG_SEED_CLR 24 0x2000,
        Span.arr CH_RX_STATUS_EQ_DIVERGED_SEEN 24 0x2000, Span.arr CH_FT_STATUS_DEV_SEEN 24 0x2000, Span.arr CH_FT_STATS_DEV 24 0x2000,
        Span.arr CH_INV_STATUS_FOUND 24 0x2000]) t) ∧
    (∀ (n : Fin 24), exec (.rfResetOffExpiry n) s = .next t → s.Keeps [.regs, .chans, .ts, .lq, .out, .freeCtr, .sv,
        .hs] (itemsPosted ++ sessionsLost ++ [Span.arr CH_TX_STATUS_HEADROOM_SEEN 24 0x2000, Span.arr CH_EQ_CFG_SEED_CLR 24 0x2000,
        Span.arr CH_RX_STATUS_EQ_DIVERGED_SEEN 24 0x2000, Span.arr CH_FT_STATUS_DEV_SEEN 24 0x2000, Span.arr CH_FT_STATS_DEV 24 0x2000,
        Span.arr CH_INV_STATUS_FOUND 24 0x2000]) t) ∧
    (∀ (n : Fin 24) (soFar : RxFrame), exec (.grantRelease n soFar) s = .next t → s.Keeps [.regs, .chans, .ts, .lq, .out, .freeCtr, .sv,
        .hs] (itemsPosted ++ sessionsLost ++ [Span.arr CH_TX_STATUS_HEADROOM_SEEN 24 0x2000, Span.arr CH_EQ_CFG_SEED_CLR 24 0x2000,
        Span.arr CH_RX_STATUS_EQ_DIVERGED_SEEN 24 0x2000, Span.arr CH_FT_STATUS_DEV_SEEN 24 0x2000, Span.arr CH_FT_STATS_DEV 24 0x2000,
        Span.arr CH_INV_STATUS_FOUND 24 0x2000]) t) ∧
    (∀ (n : Fin 24) (level : Byte) (floor : Byte) (oct : Fin 8) (at_ : Nat) (look : List Word) (soFar : RxFrame),
        exec (.correlation n level floor oct at_ look soFar) s = .next t → s.Keeps [.regs, .chans, .lq, .out, .sv,
        .hs] (itemsPosted ++ [Span.arr CH_EQ_CFG_SEED_CLR 24 0x2000, Span.arr CH_RX_STATUS_INTERF_SEEN 24 0x2000, Span.arr CH_RX_STATUS_CAPTURE_SEEN 24 0x2000,
        Span.arr CH_RX_STATUS_EQ_DIVERGED_SEEN 24 0x2000, Span.arr CH_RX_STATUS_STATE 24 0x2000, Span.arr CH_STATS_FRAGMENT 24 0x2000,
        Span.arr CH_STATS_FALSE_SOF 24 0x2000, Span.arr CH_FT_STATUS_DEV_SEEN 24 0x2000, Span.arr CH_FT_STATUS_SEQ 24 0x2000,
        Span.arr CH_FT_STATS_DEV 24 0x2000]) t) ∧
    (∀ (n : Fin 24), exec (.rxEarlyWindowEnd n) s = .next t → s.Keeps [.regs, .chans, .out] [Span.arr CH_RX_STATUS_STATE 24 0x2000] t) ∧
    (∀ (n : Fin 24), exec (.replayCatchUp n) s = .next t → s.Keeps [.regs, .out] [Span.arr CH_RX_STATUS_STATE 24 0x2000] t) ∧
    (∀ (n : Fin 24) (b : Nat), exec (.interferenceEnd n b) s = .next t → s.Keeps [.chans, .out] [] t) ∧
    (∀ (n : Fin 24), exec (.adcOverload n) s = .next t → s.Keeps [.regs, .chans, .out] [Span.arr CH_RX_STATUS_OVERLOAD_SEEN 24 0x2000,
        Span.arr CH_STATS_OVERLOAD 24 0x2000] t) ∧
    (∀ (n : Fin 24) (fr : RxFrame), exec (.endOfFrame n fr) s = .next t → s.Keeps [.regs, .chans, .out] [Span.arr2 CH_RX_COLLMAP_FLAGS 24 0x2000 3 0x4,
        Span.arr2 CH_EQ_FFE_Q 24 0x2000 16 0x4, Span.arr2 CH_EQ_FFE_I 24 0x2000 16 0x4, Span.arr2 CH_EQ_DFE_Q 24 0x2000 8 0x4,
        Span.arr2 CH_EQ_DFE_I 24 0x2000 8 0x4, Span.arr CH_RX_STATUS_EQ_DIVERGED_SEEN 24 0x2000, Span.arr CH_RX_STATUS_STATE 24 0x2000,
        Span.arr CH_RX_LEVEL_LEVEL 24 0x2000, Span.arr CH_RX_LEVEL_SB_AMP 24 0x2000, Span.arr CH_RX_LEVEL_PHASE 24 0x2000, Span.arr CH_RX_LEVEL_COIL 24 0x2000,
        Span.arr CH_RX_LEVEL_UNTRACED 24 0x2000, Span.arr CH_RX_LEVEL_STALE 24 0x2000, Span.arr CH_EQ_STATUS_SEQ 24 0x2000, Span.arr CH_EQ_STATUS_MSE 24 0x2000,
        Span.arr CH_EQ_STATUS_COIL 24 0x2000, Span.arr CH_EQ_STATUS_DIVERGED 24 0x2000, Span.arr CH_EQ_STATUS_VALID 24 0x2000] t) ∧
    (∀ (n : Fin 24) (l : Fin 24) (amp : Byte) (phase : Byte) (below : Bool), exec (.listenerMeasurement n l amp phase below) s = .next t → s.Keeps [.chans,
        .out] [] t) ∧
    (∀ (n : Fin 24) (level : Byte), exec (.foreignCarrierMeasurement n level) s = .next t → s.Keeps [.regs, .out] [Span.arr CH_RX_STATUS_FOREIGN 24 0x2000,
        Span.arr CH_RX_CARRIER_LEVEL 24 0x2000, Span.arr CH_RX_CARRIER_COIL 24 0x2000, Span.arr CH_RX_CARRIER_OWN 24 0x2000,
        Span.arr CH_RX_CARRIER_UNTRACED 24 0x2000, Span.arr CH_RX_CARRIER_STALE 24 0x2000] t) ∧
    (∀ (p : Path) (n : Fin 24), exec (.seedClr p n) s = .next t → s.Keeps [.regs, .chans, .out, .hawserStatus, .jtagStatus,
        .hs] (replyFlags ++ [Span.arr CH_EQ_CFG_SEED_CLR 24 0x2000]) t) ∧
    (∀ (n : Fin 24) (soFar : RxFrame), exec (.fieldEndPoint n soFar) s = .next t → s.Keeps [.regs, .time, .chans, .ts, .lq, .out, .freeCtr, .clk, .sv,
        .hs] (itemsPosted ++ sessionsLost ++ [Span.one FD_WDOG_STATUS_ELAPSED.bit, Span.arr CH_TX_STATUS_HEADROOM_SEEN 24 0x2000,
        Span.arr CH_EQ_CFG_SEED_CLR 24 0x2000, Span.arr CH_RX_STATUS_EQ_DIVERGED_SEEN 24 0x2000, Span.arr CH_FT_STATUS_DEV_SEEN 24 0x2000,
        Span.arr CH_FT_STATS_DEV 24 0x2000, Span.arr CH_INV_STATUS_FOUND 24 0x2000]) t) ∧
    (∀ (n : Fin 24), exec (.grantEnd n) s = .next t → s.Keeps [.regs, .time, .chans, .ts, .lq, .out, .freeCtr, .clk, .sv,
        .hs] (itemsPosted ++ sessionsLost ++ [Span.one FD_WDOG_STATUS_ELAPSED.bit, Span.arr CH_TX_STATUS_HEADROOM_SEEN 24 0x2000,
        Span.arr CH_EQ_CFG_SEED_CLR 24 0x2000, Span.arr CH_RX_STATUS_EQ_DIVERGED_SEEN 24 0x2000, Span.arr CH_FT_STATUS_DEV_SEEN 24 0x2000,
        Span.arr CH_FT_STATS_DEV 24 0x2000, Span.arr CH_INV_STATUS_FOUND 24 0x2000]) t) ∧
    (∀ (g : Fin 6), exec (.selectFrame g) s = .next t → s.Keeps [.regs, .time, .chans, .ts, .out, .clk] [Span.one FD_WDOG_STATUS_ELAPSED.bit,
        Span.arr CH_SEL_STATUS_COIL 24 0x2000, Span.arr CH_SEL_STATUS_ON 24 0x2000, Span.arr CH_SEL_STATUS_FRAMES 24 0x2000] t) ∧
    (∀ (p : Path) (w : Word), exec (.grantRequest p w) s = .next t → s.Keeps [.regs, .chans, .ts, .lq, .out, .hawserStatus, .jtagStatus, .sv,
        .hs] (itemsPosted ++ [Span.errors, Span.one TS_GREQ_STATUS_OVERFLOW.bit, Span.arr GW_STATUS_HOLE 2 0x800, Span.arr CH_RX_STATUS_STATE 24 0x2000,
        Span.arr CH_FT_STATUS_SEQ 24 0x2000, Span.arr CH_INV_STATUS_STALE_SEEN 24 0x2000, Span.arr CH_INV_STATUS_LEVEL 24 0x2000,
        Span.arr CH_INV_STATUS_DEPTH 24 0x2000, Span.arr CH_INV_STATUS_WALK 24 0x2000, Span.arr CH_INV_STATS_STALE 24 0x2000,
        Span.arr CH_INV_STATS_ROUNDS 24 0x2000]) t) ∧
    (exec .confirmationPoint s = .next t → s.Keeps [.regs, .time, .chans, .ts, .lq, .out, .freeCtr, .clk, .cy, .ce, .sv,
        .hs] (itemsPosted ++ [Span.one FD_WDOG_STATUS_ELAPSED.bit, Span.one TS_STATUS_HOLD_BLOCK.bit, Span.one TS_STATUS_NOWIN_SEEN.bit,
        Span.arr CH_TX_STATUS_HEADROOM_SEEN 24 0x2000, Span.arr CH_TX_STATUS_ACTIVE_CODE 24 0x2000, Span.arr CH_TX_STATUS_AMP_PENDING 24 0x2000,
        Span.arr CH_TX_STATUS_HEADROOM 24 0x2000, Span.arr CH_RX_STATUS_STATE 24 0x2000, Span.arr CH_FT_STATUS_SEQ 24 0x2000,
        Span.arr CH_INV_STATUS_STALE_SEEN 24 0x2000, Span.arr CH_INV_STATUS_LEVEL 24 0x2000, Span.arr CH_INV_STATUS_DEPTH 24 0x2000,
        Span.arr CH_INV_STATUS_WALK 24 0x2000, Span.arr CH_INV_STATS_STALE 24 0x2000, Span.arr CH_INV_STATS_ROUNDS 24 0x2000,
        Span.arr CE_INST_STATUS_DEAF_SEEN 8 0x80, Span.arr CE_INST_STATUS_GRANT 8 0x80, Span.arr CE_INST_STATUS_STATE 8 0x80]) t) ∧
    (exec .requestUrgent s = .next t → s.Keeps [.ts, .out] [] t) ∧
    (∀ (n : Fin 24), exec (.guardExpiry n) s = .next t → s.Keeps [.regs, .chans, .ts, .lq, .out, .freeCtr, .sv,
        .hs] (itemsPosted ++ sessionsLost ++ [Span.arr CH_TX_STATUS_HEADROOM_SEEN 24 0x2000, Span.arr CH_EQ_CFG_SEED_CLR 24 0x2000,
        Span.arr CH_RX_STATUS_EQ_DIVERGED_SEEN 24 0x2000, Span.arr CH_FT_STATUS_DEV_SEEN 24 0x2000, Span.arr CH_FT_STATS_DEV 24 0x2000,
        Span.arr CH_INV_STATUS_FOUND 24 0x2000]) t) ∧
    (∀ (n : Fin 24), exec (.verdictDelivered n) s = .next t → s.Keeps [.regs, .chans, .ts, .lq, .out, .freeCtr, .sv,
        .hs] (itemsPosted ++ sessionsLost ++ [Span.one CY_SM_STATS_TAG_STATUS.bit, Span.one CY_SM_STATS_MAC_FAIL.bit, Span.one CY_SM_STATS_AUTH_FAIL.bit,
        Span.arr CH_TX_STATUS_HEADROOM_SEEN 24 0x2000, Span.arr CH_EQ_CFG_SEED_CLR 24 0x2000, Span.arr CH_RX_STATUS_EQ_DIVERGED_SEEN 24 0x2000,
        Span.arr CH_RX_FRAMES_COUNT 24 0x2000, Span.arr CH_STATS_CRC_ERR 24 0x2000, Span.arr CH_FT_STATUS_FMT_SEEN 24 0x2000,
        Span.arr CH_FT_STATUS_WTX_SEEN 24 0x2000, Span.arr CH_FT_STATUS_DEV_SEEN 24 0x2000, Span.arr CH_FT_STATS_DEV 24 0x2000,
        Span.arr CH_FT_STATS_WTX 24 0x2000, Span.arr CH_FT_LAST_DELAY 24 0x2000, Span.arr CH_FT_LAST_REF 24 0x2000, Span.arr CH_FT_LASTX_WORD 24 0x2000,
        Span.arr CH_INV_STATUS_NO_CTX_SEEN 24 0x2000, Span.arr CH_INV_STATUS_STACK_FULL_SEEN 24 0x2000, Span.arr CH_INV_STATUS_FOUND 24 0x2000]) t) ∧
    (∀ (n : Fin 24) (ready : Bool) (fits : Bool), exec (.placementPoint n ready fits) s = .next t → s.Keeps [.regs, .chans, .ts, .lq, .out, .freeCtr, .sv,
        .hs] (itemsPosted ++ [Span.arr CH_RX_STATUS_STATE 24 0x2000, Span.arr CH_FT_STATUS_LATE_SEEN 24 0x2000, Span.arr CH_FT_STATUS_SEQ 24 0x2000,
        Span.arr CH_FT_STATS_LATE 24 0x2000, Span.arr CH_INV_STATUS_STALE_SEEN 24 0x2000, Span.arr CH_INV_STATUS_TWIN_SEEN 24 0x2000,
        Span.arr CH_INV_STATUS_LEVEL 24 0x2000, Span.arr CH_INV_STATUS_DEPTH 24 0x2000, Span.arr CH_INV_STATUS_WALK 24 0x2000,
        Span.arr CH_INV_STATS_MIGRATED 24 0x2000, Span.arr CH_INV_STATS_STALE 24 0x2000, Span.arr CH_INV_STATS_TAGS 24 0x2000,
        Span.arr CH_INV_STATS_ROUNDS 24 0x2000]) t) ∧
    (∀ (n : Fin 24) (lateOct : Nat) (fits : Bool), exec (.frameReady n lateOct fits) s = .next t → s.Keeps [.regs, .chans, .ts, .lq, .out, .freeCtr, .sv,
        .hs] (itemsPosted ++ [Span.arr CH_RX_STATUS_STATE 24 0x2000, Span.arr CH_FT_STATUS_LATE_SEEN 24 0x2000, Span.arr CH_FT_STATUS_SEQ 24 0x2000,
        Span.arr CH_FT_STATS_LATE 24 0x2000, Span.arr CH_INV_STATUS_STALE_SEEN 24 0x2000, Span.arr CH_INV_STATUS_TWIN_SEEN 24 0x2000,
        Span.arr CH_INV_STATUS_LEVEL 24 0x2000, Span.arr CH_INV_STATUS_DEPTH 24 0x2000, Span.arr CH_INV_STATUS_WALK 24 0x2000,
        Span.arr CH_INV_STATS_MIGRATED 24 0x2000, Span.arr CH_INV_STATS_STALE 24 0x2000, Span.arr CH_INV_STATS_TAGS 24 0x2000,
        Span.arr CH_INV_STATS_ROUNDS 24 0x2000]) t) ∧
    (∀ (n : Fin 24), exec (.commandEnd n) s = .next t → s.Keeps [.regs, .chans, .ts, .lq, .out, .freeCtr, .sv,
        .hs] (itemsPosted ++ sessionsLost ++ [Span.arr CH_TX_STATUS_HEADROOM_SEEN 24 0x2000, Span.arr CH_EQ_CFG_SEED_CLR 24 0x2000,
        Span.arr CH_RX_STATUS_EQ_DIVERGED_SEEN 24 0x2000, Span.arr CH_FT_STATUS_DEV_SEEN 24 0x2000, Span.arr CH_FT_STATS_DEV 24 0x2000,
        Span.arr CH_INV_STATUS_NO_CTX_SEEN 24 0x2000, Span.arr CH_INV_STATUS_STACK_FULL_SEEN 24 0x2000, Span.arr CH_INV_STATUS_FOUND 24 0x2000]) t) ∧
    (∀ (n : Fin 24), exec (.replyDeadline n) s = .next t → s.Keeps [.regs, .chans, .ts, .lq, .out, .freeCtr, .sv,
        .hs] (itemsPosted ++ sessionsLost ++ [Span.one CY_SM_STATS_TAG_STATUS.bit, Span.one CY_SM_STATS_MAC_FAIL.bit, Span.one CY_SM_STATS_AUTH_FAIL.bit,
        Span.arr CH_TX_STATUS_HEADROOM_SEEN 24 0x2000, Span.arr CH_EQ_CFG_SEED_CLR 24 0x2000, Span.arr CH_RX_STATUS_EQ_DIVERGED_SEEN 24 0x2000,
        Span.arr CH_FT_STATUS_WTX_SEEN 24 0x2000, Span.arr CH_FT_STATUS_DEV_SEEN 24 0x2000, Span.arr CH_FT_STATS_DEV 24 0x2000,
        Span.arr CH_FT_STATS_TIMEOUT 24 0x2000, Span.arr CH_FT_STATS_WTX 24 0x2000, Span.arr CH_FT_LAST_DELAY 24 0x2000, Span.arr CH_FT_LAST_REF 24 0x2000,
        Span.arr CH_FT_LASTX_WORD 24 0x2000, Span.arr CH_INV_STATUS_NO_CTX_SEEN 24 0x2000, Span.arr CH_INV_STATUS_STACK_FULL_SEEN 24 0x2000,
        Span.arr CH_INV_STATUS_FOUND 24 0x2000]) t) ∧
    (∀ (n : Fin 24) (k : Fin 8), exec (.sfgtExpiry n k) s = .next t → s.Keeps [.regs, .chans, .out] [Span.arr CH_FT_STATUS_SEQ 24 0x2000] t) ∧
    (exec .slotBoundary s = .next t → s.Keeps [.regs, .time, .chans, .ts, .lq, .out, .freeCtr, .clk, .sv,
        .hs] (itemsPosted ++ sessionsLost ++ [Span.one PW_RF_BUDGET_BUDGET.bit, Span.one FD_WDOG_STATUS_ELAPSED.bit, Span.one TS_STATUS_SURVEY.bit,
        Span.one TS_STATUS_SLOT.bit, Span.one TS_SURVEY_STATUS_BERTH.bit, Span.one TS_SURVEY_STATUS_MISSING.bit, Span.arr CH_TX_STATUS_HEADROOM_SEEN 24 0x2000,
        Span.arr CH_EQ_CFG_SEED_CLR 24 0x2000, Span.arr CH_RX_STATUS_EQ_DIVERGED_SEEN 24 0x2000, Span.arr CH_FT_STATUS_DEV_SEEN 24 0x2000,
        Span.arr CH_FT_STATS_DEV 24 0x2000, Span.arr CH_INV_STATUS_FOUND 24 0x2000]) t) ∧
    (∀ (p : Path) (w : Word), exec (.surveyGo p w) s = .next t → s.Keeps [.regs, .ts, .out, .hawserStatus, .jtagStatus, .hs] (replyFlags ++ [Span.errors,
        Span.one TS_STATUS_SURVEY.bit, Span.one TS_SURVEY_CODE.bit, Span.one TS_SURVEY_AVG.bit, Span.one TS_SURVEY_PEER.bit, Span.one TS_SURVEY_CROSS.bit,
        Span.one TS_SURVEY_ABORT.bit, Span.one TS_SURVEY_GO.bit, Span.one TS_SURVEY_STATUS_MISSING.bit, Span.one TS_SURVEY_STATUS_FOREIGN.bit,
        Span.one TS_SURVEY_STATUS_CODE.bit, Span.arr CH_RX_STATUS_STATE 24 0x2000]) t) ∧
    (∀ (p : Path) (w : Word), exec (.surveyAbort p w) s = .next t → s.Keeps [.regs, .chans, .ts, .lq, .out, .freeCtr, .hawserStatus, .jtagStatus, .sv,
        .hs] (itemsPosted ++ sessionsLost ++ [Span.errors, Span.one TS_STATUS_SURVEY.bit, Span.one TS_SURVEY_CODE.bit, Span.one TS_SURVEY_AVG.bit,
        Span.one TS_SURVEY_PEER.bit, Span.one TS_SURVEY_CROSS.bit, Span.one TS_SURVEY_ABORT.bit, Span.one TS_SURVEY_GO.bit, Span.one TS_SURVEY_STATUS_CODE.bit,
        Span.arr GW_STATUS_HOLE 2 0x800, Span.arr CH_TX_STATUS_HEADROOM_SEEN 24 0x2000, Span.arr CH_EQ_CFG_SEED_CLR 24 0x2000,
        Span.arr CH_RX_STATUS_EQ_DIVERGED_SEEN 24 0x2000, Span.arr CH_FT_STATUS_DEV_SEEN 24 0x2000, Span.arr CH_FT_STATS_DEV 24 0x2000]) t) ∧
    (exec .surveyDrainDone s = .next t → s.Keeps [.regs, .out] [Span.one TS_STATUS_SURVEY.bit] t) ∧
    (∀ (peerCoils : Fin 65), exec (.surveyStartSlot peerCoils) s = .next t → s.Keeps [.regs, .time, .ts, .out, .clk] [Span.one FD_WDOG_STATUS_ELAPSED.bit,
        Span.one TS_STATUS_SURVEY.bit, Span.one TS_SURVEY_STATUS_BERTH.bit, Span.arr CH_RX_STATUS_STATE 24 0x2000] t) ∧
    (∀ (n : Fin 24) (level : Byte) (phase : Byte) (floor : Byte), exec (.surveyMeasurement n level phase floor) s = .next t → s.Keeps [.regs, .ts,
        .out] [Span.one TS_SURVEY_STATUS_FOREIGN.bit] t) ∧
    (exec .surveyCommit s = .next t → s.Keeps [.regs, .ts, .out] [Span.one TS_STATUS_SURVEY.bit, Span.one TS_STATUS_NB_DIRTY.bit,
        Span.one TS_STATUS_NB_VALID.bit, Span.one TS_SURVEY_ABORT.bit, Span.one TS_SURVEY_GO.bit, Span.one TS_SURVEY_STATUS_CODE.bit,
        Span.arr CH_RX_STATUS_STATE 24 0x2000] t) ∧
    (∀ (peer : BitVec 12) (startMs : Nat) (code : Fin 1024) (avg : Fin 16) (sources : List Nat),
        exec (.surveyProposal peer startMs code avg sources) s = .next t → s.Keeps [.regs, .ts, .out] [Span.one TS_STATUS_SURVEY.bit] t) ∧
    (∀ (level : Byte) (phase : Byte) (refused : Bool), exec (.surveyBlockResult level phase refused) s = .next t → s.Keeps [.regs, .ts,
        .out] [Span.one TS_STATUS_SURVEY.bit, Span.one TS_SURVEY_STATUS_MISSING.bit] t) ∧
    (∀ (values : List SurveyValue), exec (.surveyResults values) s = .next t → s.Keeps [.regs, .ts, .out] [Span.one TS_STATUS_SURVEY.bit] t) ∧
    (exec .surveyPeerTimeout s = .next t → s.Keeps [.regs, .chans, .ts, .lq, .out, .freeCtr, .sv,
        .hs] (itemsPosted ++ sessionsLost ++ [Span.one TS_STATUS_SURVEY.bit, Span.one TS_SURVEY_ABORT.bit, Span.one TS_SURVEY_GO.bit,
        Span.one TS_SURVEY_STATUS_CODE.bit, Span.arr CH_TX_STATUS_HEADROOM_SEEN 24 0x2000, Span.arr CH_EQ_CFG_SEED_CLR 24 0x2000,
        Span.arr CH_RX_STATUS_EQ_DIVERGED_SEEN 24 0x2000, Span.arr CH_FT_STATUS_DEV_SEEN 24 0x2000, Span.arr CH_FT_STATS_DEV 24 0x2000]) t) ∧
    (∀ (p : Path) (w : Word), exec (.nbCommit p w) s = .next t → s.Keeps [.regs, .ts, .out, .hawserStatus, .jtagStatus, .hs] (replyFlags ++ [Span.errors,
        Span.one TS_STATUS_NB_VALID.bit, Span.one TS_NB_SEL_BERTH.bit]) t) ∧
    (∀ (p : Path) (w : Word), exec (.nbClear p w) s = .next t → s.Keeps [.regs, .ts, .out, .hawserStatus, .jtagStatus, .hs] (replyFlags ++ [Span.errors,
        Span.one TS_STATUS_NB_VALID.bit, Span.one TS_NB_SEL_BERTH.bit]) t) ∧
    (∀ (n : Fin 24), exec (.attribution n) s = .next t → s.Keeps [.regs, .chans, .ts, .lq, .out, .freeCtr, .sv,
        .hs] (itemsPosted ++ [Span.arr CH_RX_STATUS_STATE 24 0x2000, Span.arr CH_FT_STATUS_SEQ 24 0x2000, Span.arr CH_INV_STATUS_STALE_SEEN 24 0x2000,
        Span.arr CH_INV_STATUS_TWIN_SEEN 24 0x2000, Span.arr CH_INV_STATUS_FOUND 24 0x2000, Span.arr CH_INV_STATUS_LEVEL 24 0x2000,
        Span.arr CH_INV_STATUS_DEPTH 24 0x2000, Span.arr CH_INV_STATUS_WALK 24 0x2000, Span.arr CH_INV_STATS_STALE 24 0x2000,
        Span.arr CH_INV_STATS_TAGS 24 0x2000, Span.arr CH_INV_STATS_ROUNDS 24 0x2000]) t)

/-- Landing queues, services, the runtime, keys and emulation: what each of these commands can change. -/
def Obligations.QueueServiceAndKeyFrames : Prop :=
  ∀ s t : State,
    (∀ (k : Fin 8), exec (.carrierLock k) s = .next t → s.Keeps [.regs, .chans, .lq, .out, .freeCtr, .cy, .ce, .sv,
        .hs] (itemsPosted ++ [Span.arr CE_INST_STATUS_DEAF_SEEN 8 0x80, Span.arr CE_INST_STATUS_CARRIER 8 0x80, Span.arr CE_INST_STATUS_STATE 8 0x80]) t) ∧
    (∀ (k : Fin 8) (level : Nat), exec (.phoneFieldDetected k level) s = .next t → s.Keeps [.regs, .chans, .ts, .lq, .out, .ce, .sv,
        .hs] (itemsPosted ++ [Span.arr CE_INST_STATUS_FIELD 8 0x80]) t) ∧
    (∀ (k : Fin 8) (bits : List Bool) (parityOk : Bool) (ctr : Word), exec (.emuFrameReceived k bits parityOk ctr) s = .next t → s.Keeps [.regs, .chans,
        .lq, .out, .freeCtr, .cy, .ce, .shadow, .sv, .hs] (itemsPosted ++ [Span.arr2 CE_INST_DIRTY_BLOCKS 8 0x80 8 0x4, Span.one CE_ACC_BUSY_SEEN.bit,
        Span.one CE_ACC_BLOCK.bit, Span.one CE_ACC_INST.bit, Span.one CE_ACC_CODE.bit, Span.arr CE_INST_STATUS_DISCARD_SEEN 8 0x80,
        Span.arr CE_INST_STATUS_DEAF_SEEN 8 0x80, Span.arr CE_INST_STATUS_SECURE 8 0x80, Span.arr CE_INST_STATUS_STATE 8 0x80,
        Span.arr CE_INST_CSEQ_CSEQ 8 0x80]) t) ∧
    (∀ (k : Fin 8) (ready : Nat), exec (.emuReplyStart k ready) s = .next t → s.Keeps [.regs, .time, .chans, .lq, .out, .clk, .ce, .shadow, .sv,
        .hs] (itemsPosted ++ [Span.arr2 CE_INST_DIRTY_BLOCKS 8 0x80 8 0x4, Span.one FD_WDOG_STATUS_ELAPSED.bit, Span.one CE_ACC_BUSY_SEEN.bit,
        Span.one CE_ACC_BLOCK.bit, Span.one CE_ACC_INST.bit, Span.one CE_ACC_CODE.bit, Span.arr CE_INST_STATUS_DISCARD_SEEN 8 0x80,
        Span.arr CE_INST_STATUS_RATE 8 0x80, Span.arr CE_INST_STATUS_SECURE 8 0x80, Span.arr CE_INST_STATUS_STATE 8 0x80,
        Span.arr CE_INST_CSEQ_CSEQ 8 0x80]) t) ∧
    (∀ (k : Fin 8), exec (.emuWtxPoint k) s = .next t → s.Keeps [.regs, .chans, .lq, .out, .ce, .sv,
        .hs] (itemsPosted ++ [Span.arr CE_INST_STATUS_EXPIRED_SEEN 8 0x80]) t) ∧
    (∀ (p : Path) (k : Fin 8) (w : Word), exec (.ceRspWrite p k w) s = .next t → s.Keeps [.regs, .out, .hawserStatus, .ce, .jtagStatus,
        .hs] (replyFlags ++ [Span.arr CE_INST_STATUS_RSP_CODE 8 0x80]) t) ∧
    (∀ (p : Path) (k : Fin 8) (m : Fin 4) (w : Word), exec (.ceLockWrite p k m w) s = .next t → s.Keeps [.regs, .out, .hawserStatus, .jtagStatus,
        .hs] (replyFlags ++ [Span.errors, Span.arr2 CE_INST_LOCK_MODE 8 0x80 4 0x4, Span.arr2 CE_INST_LOCK_LEN 8 0x80 4 0x4,
        Span.arr2 CE_INST_LOCK_START 8 0x80 4 0x4, Span.one CE_ACC_BUSY_SEEN.bit, Span.one CE_ACC_BLOCK.bit, Span.one CE_ACC_INST.bit,
        Span.one CE_ACC_CODE.bit]) t) ∧
    (∀ (p : Path) (off : Fin 32768) (data : List Word) (n : Nat), exec (.shadowHostBurst p off data n) s = .next t → s.Keeps [.regs, .out, .hawserStatus,
        .ce, .shadow, .jtagStatus, .hs] (replyFlags ++ [Span.errors, Span.arr2 CE_INST_DIRTY_BLOCKS 8 0x80 8 0x4, Span.one CE_ACC_BUSY_SEEN.bit,
        Span.one CE_ACC_BLOCK.bit, Span.one CE_ACC_INST.bit, Span.one CE_ACC_CODE.bit, Span.arr GW_STATUS_PAGE_END 2 0x800,
        Span.arr CE_INST_CSEQ_CSEQ 8 0x80]) t) ∧
    (∀ (p : Path) (w : Word), exec (.kdataWrite p w) s = .next t → s.Keeps [.regs, .out, .cy, .hawserStatus, .jtagStatus,
        .hs] (replyFlags ++ [Span.errors]) t) ∧
    (∀ (p : Path), exec (.kdataRead p) s = .next t → s.Keeps [.regs, .out, .cy, .hawserStatus, .jtagStatus, .hs] (replyFlags) t) ∧
    (∀ (p : Path) (slot : Fin 64) (len : Fin 4) (attr : Byte), exec (.generate p slot len attr) s = .next t → s.Keeps [.regs, .chans, .out, .freeCtr, .cy,
        .hawserStatus, .jtagStatus, .hs] (replyFlags ++ [Span.errors, Span.one CY_KSTATUS_CODE.bit, Span.one CY_KSTATUS_DIRTY.bit,
        Span.one CY_KSTATUS_BUSY.bit]) t) ∧
    (∀ (p : Path) (slot : Fin 64) (len : Fin 4) (attr : Byte), exec (.importPlain p slot len attr) s = .next t → s.Keeps [.regs, .chans, .out, .freeCtr,
        .cy, .hawserStatus, .jtagStatus, .hs] (replyFlags ++ [Span.errors, Span.one CY_KSTATUS_CODE.bit, Span.one CY_KSTATUS_DIRTY.bit,
        Span.one CY_KSTATUS_BUSY.bit]) t) ∧
    (∀ (p : Path) (slot : Fin 64) (kek : Fin 64) (len : Fin 4) (attr : Byte), exec (.importWrapped p slot kek len attr) s = .next t → s.Keeps [.regs,
        .chans, .out, .freeCtr, .cy, .hawserStatus, .jtagStatus, .hs] (replyFlags ++ [Span.errors, Span.one CY_KSTATUS_CODE.bit, Span.one CY_KSTATUS_DIRTY.bit,
        Span.one CY_KSTATUS_BUSY.bit]) t) ∧
    (∀ (p : Path) (slot : Fin 64) (kek : Fin 64), exec (.exportWrapped p slot kek) s = .next t → s.Keeps [.regs, .chans, .out, .freeCtr, .cy, .hawserStatus,
        .jtagStatus, .hs] (replyFlags ++ [Span.errors, Span.one CY_KSTATUS_CODE.bit, Span.one CY_KSTATUS_DIRTY.bit, Span.one CY_KSTATUS_BUSY.bit]) t) ∧
    (∀ (p : Path) (slot : Fin 64), exec (.erase p slot) s = .next t → s.Keeps [.regs, .chans, .out, .freeCtr, .cy, .hawserStatus, .jtagStatus,
        .hs] (replyFlags ++ [Span.errors, Span.one CY_KSTATUS_CODE.bit, Span.one CY_KSTATUS_DIRTY.bit, Span.one CY_KSTATUS_BUSY.bit]) t) ∧
    (∀ (p : Path) (slot : Fin 64), exec (.info p slot) s = .next t → s.Keeps [.regs, .chans, .out, .freeCtr, .cy, .hawserStatus, .jtagStatus,
        .hs] (replyFlags ++ [Span.errors, Span.one CY_KSTATUS_CODE.bit, Span.one CY_KSTATUS_DIRTY.bit, Span.one CY_KSTATUS_BUSY.bit]) t) ∧
    (∀ (p : Path) (slot : Fin 64), exec (.saveBlob p slot) s = .next t → s.Keeps [.regs, .chans, .out, .freeCtr, .cy, .hawserStatus, .jtagStatus,
        .hs] (replyFlags ++ [Span.errors, Span.one CY_KSTATUS_CODE.bit, Span.one CY_KSTATUS_DIRTY.bit, Span.one CY_KSTATUS_BUSY.bit]) t) ∧
    (∀ (p : Path) (slot : Fin 64) (len : Fin 4) (attr : Byte), exec (.loadBlob p slot len attr) s = .next t → s.Keeps [.regs, .chans, .out, .freeCtr, .cy,
        .hawserStatus, .jtagStatus, .hs] (replyFlags ++ [Span.errors, Span.one CY_KSTATUS_CODE.bit, Span.one CY_KSTATUS_DIRTY.bit,
        Span.one CY_KSTATUS_BUSY.bit]) t) ∧
    (∀ (p : Path), exec (.ecdhStart p) s = .next t → s.Keeps [.regs, .chans, .out, .freeCtr, .cy, .hawserStatus, .jtagStatus,
        .hs] (replyFlags ++ [Span.errors, Span.one CY_KSTATUS_CODE.bit, Span.one CY_KSTATUS_DIRTY.bit, Span.one CY_KSTATUS_BUSY.bit]) t) ∧
    (∀ (p : Path) (slot : Fin 64) (len : Fin 4) (attr : Byte), exec (.ecdhImport p slot len attr) s = .next t → s.Keeps [.regs, .chans, .out, .freeCtr, .cy,
        .hawserStatus, .jtagStatus, .hs] (replyFlags ++ [Span.errors, Span.one CY_KSTATUS_CODE.bit, Span.one CY_KSTATUS_DIRTY.bit,
        Span.one CY_KSTATUS_BUSY.bit]) t) ∧
    (∀ (p : Path), exec (.burnHash p) s = .next t → s.Keeps [.regs, .chans, .out, .freeCtr, .cy, .hawserStatus, .jtagStatus,
        .hs] (replyFlags ++ [Span.errors, Span.one CY_KSTATUS_CODE.bit, Span.one CY_KSTATUS_DIRTY.bit, Span.one CY_KSTATUS_BUSY.bit]) t) ∧
    (∀ (p : Path), exec (.revokeHash p) s = .next t → s.Keeps [.regs, .chans, .out, .freeCtr, .cy, .hawserStatus, .jtagStatus,
        .hs] (replyFlags ++ [Span.errors, Span.one CY_KSTATUS_CODE.bit, Span.one CY_KSTATUS_DIRTY.bit, Span.one CY_KSTATUS_BUSY.bit]) t) ∧
    (∀ (p : Path), exec (.burnMkey p) s = .next t → s.Keeps [.regs, .chans, .out, .freeCtr, .cy, .hawserStatus, .jtagStatus,
        .hs] (replyFlags ++ [Span.errors, Span.one CY_KSTATUS_CODE.bit, Span.one CY_KSTATUS_DIRTY.bit, Span.one CY_KSTATUS_BUSY.bit]) t) ∧
    (exec .tguardToggle s = .next t → s.Keeps [.out, .cy] [] t) ∧
    (∀ (pass : Bool), exec (.trngStartupDone pass) s = .next t → s.Keeps [.regs, .out, .cy] [Span.one CY_TRNG_FAILS.bit, Span.one CY_TRNG_STARTUP.bit,
        Span.one CY_TRNG_READY.bit, Span.one CY_TRNG_HALT.bit, Span.one CY_TRNG_STATS_RESEEDS.bit, Span.one CY_TRNG_STATS_RESTARTS.bit] t) ∧
    (∀ (adaptive : Bool), exec (.trngHealthFailure adaptive) s = .next t → s.Keeps [.regs, .out] [Span.one CY_TRNG_STARTUP.bit, Span.one CY_TRNG_READY.bit,
        Span.one CY_TRNG_STATS_APT.bit, Span.one CY_TRNG_STATS_RCT.bit] t) ∧
    (exec .drbgReseed s = .next t → s.Keeps [.regs, .out, .cy] [Span.one CY_TRNG_STATS_RESEEDS.bit] t) ∧
    (∀ (q : Fin 32), exec (.queueStallExpiry q) s = .next t → s.Keeps [.regs, .time, .lq, .out, .clk, .hs] [Span.one FD_WDOG_STATUS_ELAPSED.bit,
        Span.arr GW_STATUS_ITEM_END 2 0x800, Span.arr GW_STATUS_CODE 2 0x800, Span.arr LQN_STATUS_STALL_SEEN 32 0x40] t) ∧
    (∀ (q : Fin 32) (typ : Byte) (payload : List Word), exec (.queueItemComplete q typ payload) s = .next t → s.Keeps [.regs, .lq, .out, .sv, .hs]
        (itemsPosted) t) ∧
    (∀ (p : Path) (q : Fin 32) (w : Word), exec (.queuePush p q w) s = .next t → s.Keeps [.regs, .lq, .out, .hawserStatus, .jtagStatus, .sv,
        .hs] (itemsPosted ++ [Span.errors, Span.arr GW_STATUS_HOLE 2 0x800]) t) ∧
    (∀ (p : Path) (q : Fin 32), exec (.dropRest p q) s = .next t → s.Keeps [.regs, .lq, .out, .hawserStatus, .jtagStatus, .sv,
        .hs] (replyFlags ++ [Span.arr LQN_STATUS_CODE 32 0x40]) t) ∧
    (∀ (p : Path) (q : Fin 32), exec (.flush p q) s = .next t → s.Keeps [.regs, .lq, .out, .hawserStatus, .jtagStatus, .sv,
        .hs] (replyFlags ++ [Span.arr GW_STATUS_ITEM_END 2 0x800, Span.arr LQN_STATUS_FLUSH_SEEN 32 0x40, Span.arr LQN_STATUS_CODE 32 0x40]) t) ∧
    (∀ (p : Path) (q : Fin 32), exec (.mark p q) s = .next t → s.Keeps [.regs, .lq, .out, .hawserStatus, .jtagStatus,
        .hs] (replyFlags ++ [Span.arr LQN_STATUS_CODE 32 0x40]) t) ∧
    (∀ (p : Path) (q : Fin 32), exec (.rewind p q) s = .next t → s.Keeps [.regs, .lq, .out, .hawserStatus, .jtagStatus, .sv,
        .hs] (replyFlags ++ [Span.arr GW_STATUS_ITEM_END 2 0x800, Span.arr LQN_STATUS_CODE 32 0x40]) t) ∧
    (∀ (p : Path) (q : Fin 32), exec (.clearMark p q) s = .next t → s.Keeps [.regs, .lq, .out, .hawserStatus, .jtagStatus,
        .hs] (replyFlags ++ [Span.arr LQN_STATUS_CODE 32 0x40]) t) ∧
    (∀ (p : Path) (q : Fin 32) (w : Word), exec (.queueCfgWrite p q w) s = .next t → s.Keeps [.regs, .lq, .out, .hawserStatus, .jtagStatus,
        .hs] (replyFlags ++ [Span.errors, Span.arr LQN_STATUS_REFUSED_SEEN 32 0x40, Span.arr LQN_STATUS_CODE 32 0x40, Span.arr LQN_CFG_THRESH 32 0x40,
        Span.arr LQN_CFG_IE_NONEMPTY 32 0x40, Span.arr LQN_CFG_IE_THRESH 32 0x40, Span.arr LQN_CFG_IE_GAP 32 0x40, Span.arr LQN_CFG_IE_MARK_LOST 32 0x40,
        Span.arr LQN_CFG_CONSUMER 32 0x40]) t) ∧
    (exec .keyBlobSave s = .next t → s.Keeps [.out, .sv] [] t) ∧
    (∀ (k : Fin 8), exec (.emuImagePersist k) s = .next t → s.Keeps [.out, .sv] [] t) ∧
    (exec .journalCommit s = .next t → s.Keeps [.regs, .mem, .lq, .out, .freeCtr, .sv, .hs] (itemsPosted ++ [Span.arr2 CE_INST_DIRTY_BLOCKS 8 0x80 8 0x4,
        Span.one CL_STATUS_COUNT_DIRTY.bit, Span.one CY_KSTATUS_DIRTY.bit, Span.one SV_MBOX_STATUS_OUT_READY.bit, Span.one TS_STATUS_NB_DIRTY.bit]) t) ∧
    (exec .journalWaitExpiry s = .next t → s.Keeps [.regs, .mem, .time, .lq, .out, .freeCtr, .clk, .sv,
        .hs] (itemsPosted ++ [Span.arr2 CE_INST_DIRTY_BLOCKS 8 0x80 8 0x4, Span.one CL_STATUS_COUNT_DIRTY.bit, Span.one FD_WDOG_STATUS_ELAPSED.bit,
        Span.one CY_KSTATUS_DIRTY.bit, Span.one SV_MBOX_STATUS_OUT_READY.bit, Span.one TS_STATUS_NB_DIRTY.bit]) t) ∧
    (exec .coalesceTimer s = .next t → s.Keeps [.regs, .time, .out, .clk, .sv] [Span.one FD_WDOG_STATUS_ELAPSED.bit] t) ∧
    (∀ (rec : Nat), exec (.absenceTimeout rec) s = .next t → s.Keeps [.regs, .time, .out, .clk, .sv] [Span.one FD_WDOG_STATUS_ELAPSED.bit] t) ∧
    (exec .nbTableSave s = .next t → s.Keeps [.out, .sv] [] t) ∧
    (exec .calCountJournal s = .next t → s.Keeps [.out, .sv] [] t) ∧
    (∀ (ok : Bool), exec (.fuseBurnDone ok) s = .next t → s.Keeps [.regs, .mem, .lq, .out, .freeCtr, .cy, .fuses, .sv,
        .hs] (itemsPosted ++ [Span.one CY_KSTATUS_CODE.bit, Span.one CY_KSTATUS_BUSY.bit, Span.one SV_MBOX_STATUS_OUT_READY.bit]) t) ∧
    (∀ (loop : Fin 2) (level : Bool), exec (.tamperSample loop level) s = .next t → s.Keeps [.regs, .mem, .power, .chans, .ts, .lq, .out, .freeCtr, .cy,
        .fuses, .epoch, .sv, .hs] (itemsPosted ++ wakeStarts ++ [Span.one CY_KSTATUS_CODE.bit, Span.one CY_KSTATUS_BUSY.bit, Span.one CY_TAMPER_LOOP0_OK.bit,
        Span.one CY_TAMPER_LOOP1_OK.bit, Span.one CY_TAMPER_EVENT0.bit, Span.one CY_TAMPER_EVENT1.bit, Span.one CY_TRNG_READY.bit,
        Span.one SV_MBOX_STATUS_OUT_READY.bit]) t) ∧
    (∀ (loop : Fin 2), exec (.tamperEvent loop) s = .next t → s.Keeps [.regs, .mem, .power, .chans, .ts, .lq, .out, .freeCtr, .cy, .fuses, .epoch, .sv,
        .hs] (itemsPosted ++ wakeStarts ++ [Span.one CY_KSTATUS_CODE.bit, Span.one CY_KSTATUS_BUSY.bit, Span.one CY_TAMPER_EVENT0.bit,
        Span.one CY_TAMPER_EVENT1.bit, Span.one CY_TRNG_READY.bit, Span.one SV_MBOX_STATUS_OUT_READY.bit]) t) ∧
    (∀ (p : Path) (q : Fin 32), exec (.queuePop p q) s = .next t → s.Keeps [.regs, .mem, .chans, .lq, .out, .freeCtr, .hawserStatus, .jtagStatus, .sv,
        .hs] (itemsPosted ++ [Span.errors, Span.one SV_MBOX_STATUS_OUT_READY.bit, Span.arr GW_STATUS_HOLE 2 0x800, Span.arr LQN_STATUS_REFUSED_SEEN 32 0x40,
        Span.arr LQN_STATUS_CODE 32 0x40, Span.arr CH_INV_STATUS_STALE_SEEN 24 0x2000, Span.arr CH_INV_STATS_STALE 24 0x2000,
        Span.arr CH_INV_STATS_ROUNDS 24 0x2000, Span.arr CH_PCMD_STATUS_OVERFLOW 24 0x2000]) t) ∧
    (∀ (p : Path) (w : Word), exec (.mboxWord p w) s = .next t → s.Keeps [.regs, .mem, .lq, .out, .hawserStatus, .jtagStatus, .sv,
        .hs] (itemsPosted ++ [Span.errors, Span.one SV_MBOX_STATUS_OVERFLOW.bit, Span.one SV_MBOX_STATUS_OUT_READY.bit, Span.one SV_MBOX_STATUS_BUSY.bit,
        Span.arr GW_STATUS_HOLE 2 0x800]) t) ∧
    (∀ (p : Path), exec (.mboxRead p) s = .next t → s.Keeps [.regs, .out, .hawserStatus, .jtagStatus, .sv,
        .hs] (replyFlags ++ [Span.one SV_MBOX_STATUS_OUT_READY.bit, Span.one SV_MBOX_STATUS_BUSY.bit]) t) ∧
    (∀ (via : Via), exec (.regLookup via) s = .next t → s.Keeps [.regs, .mem, .lq, .out, .sv, .hs] (itemsPosted ++ [Span.one SV_MBOX_STATUS_OUT_READY.bit]) t) ∧
    (∀ (via : Via), exec (.regPut via) s = .next t → s.Keeps [.regs, .mem, .lq, .out, .sv, .hs] (itemsPosted ++ [Span.one SV_MBOX_STATUS_OUT_READY.bit]) t) ∧
    (∀ (via : Via), exec (.regDelete via) s = .next t → s.Keeps [.regs, .mem, .lq, .out, .sv, .hs] (itemsPosted ++ [Span.one SV_MBOX_STATUS_OUT_READY.bit]) t) ∧
    (∀ (via : Via), exec (.regQuery via) s = .next t → s.Keeps [.regs, .mem, .lq, .out, .sv, .hs] (itemsPosted ++ [Span.one SV_MBOX_STATUS_OUT_READY.bit]) t) ∧
    (∀ (via : Via), exec (.regStats via) s = .next t → s.Keeps [.regs, .mem, .lq, .out, .sv, .hs] (itemsPosted ++ [Span.one SV_MBOX_STATUS_OUT_READY.bit]) t) ∧
    (∀ (via : Via), exec (.regCompact via) s = .next t → s.Keeps [.regs, .mem, .lq, .out, .sv,
        .hs] (itemsPosted ++ [Span.one SV_MBOX_STATUS_OUT_READY.bit]) t) ∧
    (∀ (via : Via), exec (.regScrub via) s = .next t → s.Keeps [.regs, .mem, .lq, .out, .sv, .hs] (itemsPosted ++ [Span.one SV_MBOX_STATUS_OUT_READY.bit]) t) ∧
    (∀ (via : Via), exec (.policySet via) s = .next t → s.Keeps [.regs, .mem, .lq, .out, .sv, .hs] (itemsPosted ++ [Span.one SV_MBOX_STATUS_OUT_READY.bit]) t) ∧
    (∀ (via : Via), exec (.policyGet via) s = .next t → s.Keeps [.regs, .mem, .lq, .out, .sv, .hs] (itemsPosted ++ [Span.one SV_MBOX_STATUS_OUT_READY.bit]) t) ∧
    (∀ (via : Via), exec (.auditRead via) s = .next t → s.Keeps [.regs, .mem, .lq, .out, .sv, .hs] (itemsPosted ++ [Span.one SV_MBOX_STATUS_OUT_READY.bit]) t) ∧
    (∀ (via : Via), exec (.auditHead via) s = .next t → s.Keeps [.regs, .mem, .lq, .out, .sv, .hs] (itemsPosted ++ [Span.one SV_MBOX_STATUS_OUT_READY.bit]) t) ∧
    (∀ (via : Via), exec (.queueConsumer via) s = .next t → s.Keeps [.regs, .mem, .lq, .out, .sv, .hs] (itemsPosted ++ [Span.errors,
        Span.one SV_MBOX_STATUS_OUT_READY.bit, Span.arr LQN_STATUS_REFUSED_SEEN 32 0x40, Span.arr LQN_STATUS_CODE 32 0x40, Span.arr LQN_CFG_THRESH 32 0x40,
        Span.arr LQN_CFG_IE_NONEMPTY 32 0x40, Span.arr LQN_CFG_IE_THRESH 32 0x40, Span.arr LQN_CFG_IE_GAP 32 0x40, Span.arr LQN_CFG_IE_MARK_LOST 32 0x40,
        Span.arr LQN_CFG_CONSUMER 32 0x40]) t) ∧
    (∀ (via : Via), exec (.keyOp via) s = .next t → s.Keeps [.regs, .mem, .chans, .lq, .out, .freeCtr, .cy, .sv, .hs] (itemsPosted ++ [Span.errors,
        Span.one CY_KSTATUS_CODE.bit, Span.one CY_KSTATUS_DIRTY.bit, Span.one CY_KSTATUS_BUSY.bit, Span.one SV_MBOX_STATUS_OUT_READY.bit]) t) ∧
    (∀ (via : Via), exec (.tagWrite via) s = .next t → s.Keeps [.regs, .mem, .lq, .out, .sv, .hs] (itemsPosted ++ [Span.one SV_MBOX_STATUS_OUT_READY.bit]) t) ∧
    (∀ (via : Via), exec (.programStart via) s = .next t → s.Keeps [.regs, .mem, .lq, .out, .sv,
        .hs] (itemsPosted ++ [Span.one SV_MBOX_STATUS_OUT_READY.bit]) t) ∧
    (∀ (via : Via), exec (.configGet via) s = .next t → s.Keeps [.regs, .mem, .lq, .out, .freeCtr, .sv,
        .hs] (itemsPosted ++ [Span.one SV_MBOX_STATUS_OUT_READY.bit]) t) ∧
    (∀ (via : Via), exec (.configSet via) s = .next t → s.Keeps [.regs, .mem, .lq, .out, .sv, .hs] (itemsPosted ++ [Span.one SV_MBOX_STATUS_OUT_READY.bit]) t) ∧
    (∀ (core : Fin 4) (code : BitVec 16) (addr : Word) (plen : Word) (buf : Word) (size : Word),
        exec (.serviceEcall core code addr plen buf size) s = .next t → s.Keeps [.regs, .mem, .lq, .out, .sv,
        .hs] (itemsPosted ++ [Span.one SV_MBOX_STATUS_OUT_READY.bit]) t) ∧
    (exec .journalApply s = .next t → s.Keeps [.regs, .mem, .chans, .lq, .out, .sv, .hs] (itemsPosted ++ [Span.one SV_MBOX_STATUS_OUT_READY.bit,
        Span.one SV_APPLIED_SEQ.bit, Span.arr CH_INV_STATUS_STALE_SEEN 24 0x2000, Span.arr CH_INV_STATS_STALE 24 0x2000, Span.arr CH_INV_STATS_ROUNDS 24 0x2000,
        Span.arr CH_PCMD_STATUS_OVERFLOW 24 0x2000]) t)

/-- The Tideclock, the Hawser fabric, Ethernet and the Gangway as master: what each of these commands can change. -/
def Obligations.ClockFabricAndPortFrames : Prop :=
  ∀ s t : State,
    (∀ (p : Path) (n : Fin 2) (w : Word), exec (.masterCommand p n w) s = .next t → s.Keeps [.regs, .out, .hawserStatus, .jtagStatus, .gw,
        .hs] (replyFlags ++ [Span.errors, Span.arr GW_STATUS_FRAME_ODD 2 0x800, Span.arr GW_FRAMES_MASTER 2 0x800, Span.arr GW_MSTATUS_CODE 2 0x800]) t) ∧
    (∀ (n : Fin 2) (data : List Word), exec (.masterCommandDone n data) s = .next t → s.Keeps [.regs, .out, .hawserStatus, .jtagStatus, .gw,
        .hs] (replyFlags ++ [Span.one GW1_XIP_STATS_HITS.bit, Span.one GW1_XIP_STATS_MISSES.bit, Span.arr GW_FRAMES_MASTER 2 0x800,
        Span.arr GW_MSTATUS_CODE 2 0x800]) t) ∧
    (∀ (p : Path) (n : Fin 2) (w : Word), exec (.mdataWrite p n w) s = .next t → s.Keeps [.regs, .out, .hawserStatus, .jtagStatus, .gw, .hs] (replyFlags) t) ∧
    (∀ (p : Path) (n : Fin 2), exec (.mdataRead p n) s = .next t → s.Keeps [.regs, .out, .hawserStatus, .jtagStatus, .gw, .hs] (replyFlags) t) ∧
    (∀ (p : Path) (x : Fin 268435456) (size : Fin 4), exec (.xipRead p x size) s = .next t → s.Keeps [.regs, .out, .hawserStatus, .jtagStatus, .gw,
        .hs] (replyFlags ++ [Span.one GW1_XIP_STATS_HITS.bit, Span.one GW1_XIP_STATS_MISSES.bit, Span.arr GW_FRAMES_MASTER 2 0x800]) t) ∧
    (∀ (data : List Byte), exec (.xipLineFill data) s = .next t → s.Keeps [.regs, .out, .hawserStatus, .jtagStatus, .gw,
        .hs] (replyFlags ++ [Span.one GW1_XIP_STATS_HITS.bit, Span.one GW1_XIP_STATS_MISSES.bit, Span.arr GW_FRAMES_MASTER 2 0x800]) t) ∧
    (∀ (p : Path), exec (.inval p) s = .next t → s.Keeps [.regs, .out, .hawserStatus, .jtagStatus, .gw, .hs] (replyFlags) t) ∧
    (∀ (p : Path) (w : Word), exec (.xipCfgWrite p w) s = .next t → s.Keeps [.regs, .out, .hawserStatus, .jtagStatus, .gw, .hs] (replyFlags ++ [Span.errors,
        Span.one GW1_XIP_CFG_MODE.bit, Span.one GW1_XIP_CFG_OPCODE.bit, Span.one GW1_XIP_CFG_DUMMY.bit, Span.one GW1_XIP_CFG_A4.bit,
        Span.one GW1_XIP_CFG_CS.bit, Span.one GW1_XIP_CFG_PREFETCH.bit, Span.one GW1_XIP_CFG_CONT.bit, Span.one GW1_XIP_CFG_HOLD.bit,
        Span.one GW1_XIP_CFG_EN.bit, Span.one GW1_XIP_STATS_HITS.bit, Span.one GW1_XIP_STATS_MISSES.bit, Span.arr GW_FRAMES_MASTER 2 0x800]) t) ∧
    (∀ (x0 : Word) (store : Bool) (customer : Bool), exec (.pilotAccessFault x0 store customer) s = .next t → s.Keeps [.out, .pilotFault] [] t) ∧
    (∀ (p : Path) (x1 : Word), exec (.latchedRead p x1) s = .next t → s.Keeps [.regs, .mem, .chans, .lq, .out, .freeCtr, .cy, .hawserStatus, .ce, .shadow,
        .jtagStatus, .sv, .latch, .dramWait, .gw, .hs, .pilotFault] [Span.every] t) ∧
    (∀ (p : Path) (x1 : Word) (size : AccessSize), exec (.rcRead p x1 size) s = .next t → s.Keeps [.regs, .mem, .chans, .lq, .out, .freeCtr, .cy,
        .hawserStatus, .ce, .shadow, .jtagStatus, .sv, .latch, .dramWait, .gw, .hs, .pilotFault] [Span.every] t) ∧
    (∀ (p : Path) (w : Word), exec (.offsetDelivered p w) s = .next t → s.Keeps [.regs, .time, .power, .ts, .lq, .out, .freeCtr, .hawserStatus, .jtagStatus,
        .sv, .tc, .stage, .hs] (itemsPosted ++ wakeStarts ++ [Span.errors, Span.one TC_STATUS_STEPPED.bit, Span.one TC_STATUS_STEP_REFUSED.bit,
        Span.one TC_STATUS_REFUSED_PENDING.bit, Span.one TC_STATUS_CLAMPED.bit, Span.one TC_STATUS_HOLDOVER.bit, Span.one TC_STATUS_SET.bit,
        Span.one TC_LAST_OFFSET_THETA.bit, Span.one TC_LAST_OFFSET_VERDICT.bit, Span.one TC_RATE_VALUE.bit, Span.one TC_INTEG_VALUE.bit,
        Span.one TC_INC_INC.bit, Span.one TC_COUNTS_STEPS.bit, Span.one TC_COUNTS_REFUSED.bit, Span.arr TC_PULSE_STAT_MISSED 4 0x20,
        Span.arr TC_PULSE_STAT_ACTIVE 4 0x20, Span.arr GW_STATUS_HOLE 2 0x800]) t) ∧
    (∀ (p : Path), exec (.step p) s = .next t → s.Keeps [.regs, .time, .power, .ts, .lq, .out, .hawserStatus, .jtagStatus, .sv, .tc,
        .hs] (itemsPosted ++ wakeStarts ++ [Span.one TC_STATUS_STEPPED.bit, Span.one TC_STATUS_SET.bit, Span.one TC_CMD_STATUS_CODE.bit,
        Span.one TC_COUNTS_STEPS.bit, Span.arr TC_PULSE_STAT_MISSED 4 0x20, Span.arr TC_PULSE_STAT_ACTIVE 4 0x20, Span.arr GW_STATUS_HOLE 2 0x800]) t) ∧
    (∀ (p : Path), exec (.acceptStep p) s = .next t → s.Keeps [.regs, .time, .power, .ts, .lq, .out, .hawserStatus, .jtagStatus, .sv, .tc,
        .hs] (itemsPosted ++ wakeStarts ++ [Span.one TC_STATUS_STEPPED.bit, Span.one TC_STATUS_REFUSED_PENDING.bit, Span.one TC_STATUS_SET.bit,
        Span.one TC_CMD_STATUS_CODE.bit, Span.one TC_COUNTS_STEPS.bit, Span.arr TC_PULSE_STAT_MISSED 4 0x20, Span.arr TC_PULSE_STAT_ACTIVE 4 0x20,
        Span.arr GW_STATUS_HOLE 2 0x800]) t) ∧
    (∀ (p : Path), exec (.hold p) s = .next t → s.Keeps [.regs, .lq, .out, .hawserStatus, .jtagStatus, .sv, .tc,
        .hs] (itemsPosted ++ [Span.one TC_STATUS_HOLD_SEEN.bit, Span.one TC_STATUS_HOLDOVER.bit, Span.one TC_CMD_STATUS_CODE.bit, Span.one TC_RATE_VALUE.bit,
        Span.one TC_INC_INC.bit, Span.one TC_COUNTS_HOLDS.bit, Span.arr GW_STATUS_HOLE 2 0x800]) t) ∧
    (∀ (p : Path) (w : Word), exec (.srcWrite p w) s = .next t → s.Keeps [.regs, .lq, .out, .hawserStatus, .jtagStatus, .sv, .tc,
        .hs] (itemsPosted ++ [Span.errors, Span.one TC_CFG_KI_SHIFT.bit, Span.one TC_CFG_KP_SHIFT.bit, Span.one TC_CFG_ALLOW_BACK.bit, Span.one TC_CFG_SRC.bit,
        Span.one TC_STATUS_MASTER_CHANGED.bit, Span.one TC_STATUS_HOLDOVER.bit, Span.one TC_MASTER_ID.bit, Span.one TC_COUNTS_MASTERS.bit,
        Span.arr GW_STATUS_HOLE 2 0x800]) t) ∧
    (∀ (p : Path) (w : Word), exec (.masterChange p w) s = .next t → s.Keeps [.regs, .lq, .out, .hawserStatus, .jtagStatus, .sv, .tc, .stage,
        .hs] (itemsPosted ++ [Span.one TC_STATUS_MASTER_CHANGED.bit, Span.one TC_MASTER_ID.bit, Span.one TC_COUNTS_MASTERS.bit,
        Span.arr GW_STATUS_HOLE 2 0x800]) t) ∧
    (exec .beaconHoldoverTimeout s = .next t → s.Keeps [.regs, .time, .lq, .out, .clk, .sv, .tc, .hs] (itemsPosted ++ [Span.one FD_WDOG_STATUS_ELAPSED.bit,
        Span.one TC_STATUS_HOLD_SEEN.bit, Span.one TC_STATUS_HOLDOVER.bit, Span.one TC_RATE_VALUE.bit, Span.one TC_INC_INC.bit,
        Span.one TC_COUNTS_HOLDS.bit]) t) ∧
    (∀ (p : Path) (k : Fin 4) (w : Word), exec (.pulseArm p k w) s = .next t → s.Keeps [.regs, .out, .hawserStatus, .jtagStatus, .tc,
        .hs] (replyFlags ++ [Span.errors, Span.arr TC_PULSE_CTL_POL 4 0x20, Span.arr TC_PULSE_STAT_ACTIVE 4 0x20, Span.arr TC_PULSE_STAT_CODE 4 0x20]) t) ∧
    (∀ (p : Path) (k : Fin 4) (w : Word), exec (.pulseStop p k w) s = .next t → s.Keeps [.regs, .out, .hawserStatus, .jtagStatus, .tc,
        .hs] (replyFlags ++ [Span.errors, Span.arr TC_PULSE_CTL_POL 4 0x20, Span.arr TC_PULSE_STAT_ACTIVE 4 0x20, Span.arr TC_PULSE_STAT_CODE 4 0x20]) t) ∧
    (∀ (k : Fin 4), exec (.pulseEdge k) s = .next t → s.Keeps [.regs, .time, .out, .clk, .tc] [Span.one FD_WDOG_STATUS_ELAPSED.bit,
        Span.arr TC_PULSE_STAT_ACTIVE 4 0x20] t) ∧
    (∀ (k : Fin 4), exec (.pulseEnd k) s = .next t → s.Keeps [.regs, .time, .out, .clk, .tc] [Span.one FD_WDOG_STATUS_ELAPSED.bit] t) ∧
    (exec .tcAlarm s = .next t → s.Keeps [.regs, .time, .power, .ts, .out, .clk] (wakeStarts ++ [Span.one FD_WDOG_STATUS_ELAPSED.bit]) t) ∧
    (∀ (k : Fin 4) (rising : Bool), exec (.captureEdge k rising) s = .next t → s.Keeps [.regs, .power, .ts, .out,
        .tc] (wakeStarts ++ [Span.one TC_STATUS_CAP_LOST.bit, Span.arr TC_CAP_STAT_FILL 4 0x8, Span.arr TC_CAP_STAT_LOST 4 0x8]) t) ∧
    (∀ (k : Fin 4), exec (.captureItem k) s = .next t → s.Keeps [.regs, .lq, .out, .sv, .tc, .hs] (itemsPosted ++ [Span.arr TC_CAP_STAT_FILL 4 0x8,
        Span.arr TC_CAP_STAT_LOST 4 0x8]) t) ∧
    (∀ (n : Fin 2) (link : Bool) (full : Bool) (speed : Fin 3), exec (.sgmiiAutoneg n link full speed) s = .next t → s.Keeps [.regs, .out,
        .en] [Span.arr EN_STATUS_HALF_SEEN 2 0x800, Span.arr EN_STATUS_LINK_CHG_SEEN 2 0x800, Span.arr EN_STATUS_SPEED 2 0x800,
        Span.arr EN_STATUS_LINK 2 0x800] t) ∧
    (∀ (n : Fin 2) (frame : List Byte) (fcsOk : Bool) (cut : Bool) (sfd : Nat), exec (.ethFrameReceived n frame fcsOk cut sfd) s = .next t → s.Keeps [.regs,
        .mem, .out, .en] [Span.arr2 EN_RING_HEAD_IDX 2 0x800 6 0x10, Span.arr EN_STATUS_RX_DROP_SEEN 2 0x800, Span.arr EN_STATS_RX_ERR 2 0x800,
        Span.arr EN_STATS_RX_FCS 2 0x800, Span.arr EN_STATS_RX_LONG 2 0x800, Span.arr EN_STATS_RX_DROP 2 0x800, Span.arr EN_FRAMES_RX 2 0x800] t) ∧
    (∀ (p : Path) (n : Fin 2) (r : Fin 6) (w : Word), exec (.ringTailWrite p n r w) s = .next t → s.Keeps [.regs, .out, .hawserStatus, .jtagStatus, .hs,
        .en] (replyFlags ++ [Span.errors, Span.arr2 EN_RING_TAIL_IDX 2 0x800 6 0x10]) t) ∧
    (∀ (n : Fin 2) (sfd : Nat), exec (.ethFrameTransmitted n sfd) s = .next t → s.Keeps [.regs, .mem, .lq, .out, .sv, .hs,
        .en] (itemsPosted ++ [Span.arr2 EN_RING_HEAD_IDX 2 0x800 6 0x10, Span.arr EN_FRAMES_TX 2 0x800]) t) ∧
    (∀ (p : Path) (w : Word), exec (.mdioCmd p w) s = .next t → s.Keeps [.regs, .out, .hawserStatus, .jtagStatus, .hs] (replyFlags ++ [Span.errors,
        Span.one EN0_MDIO_CMD_DATA.bit, Span.one EN0_MDIO_CMD_REGAD.bit, Span.one EN0_MDIO_CMD_PHYAD.bit, Span.one EN0_MDIO_CMD_OP.bit,
        Span.one EN0_MDIO_CMD_C45.bit, Span.one EN0_MDIO_CMD_BUSY.bit]) t) ∧
    (∀ (phy : Bool) (data : BitVec 16), exec (.mdioDone phy data) s = .next t → s.Keeps [.regs, .out] [Span.one EN0_MDIO_CMD_DATA.bit,
        Span.one EN0_MDIO_CMD_CODE.bit, Span.one EN0_MDIO_CMD_BUSY.bit] t) ∧
    (∀ (n : Fin 2), exec (.pauseHoldEnd n) s = .next t → s.Keeps [.out, .en] [] t) ∧
    (exec .beaconSend s = .next t → s.Keeps [.regs, .time, .out, .clk, .hs] [Span.one FD_WDOG_STATUS_ELAPSED.bit] t) ∧
    (∀ (p : Fin 4) (t1 : Nat), exec (.beacon p t1) s = .next t → s.Keeps [.out, .tc, .hs] [] t) ∧
    (∀ (p : Fin 4) (t3 : Nat), exec (.dreq p t3) s = .next t → s.Keeps [.out, .hs] [] t) ∧
    (∀ (p : Fin 4) (t4 : Nat) (t3 : Nat), exec (.dresp p t4 t3) s = .next t → s.Keeps [.regs, .time, .power, .ts, .lq, .out, .freeCtr, .sv, .tc,
        .hs] (itemsPosted ++ wakeStarts ++ [Span.one TC_STATUS_STEPPED.bit, Span.one TC_STATUS_STEP_REFUSED.bit, Span.one TC_STATUS_REFUSED_PENDING.bit,
        Span.one TC_STATUS_CLAMPED.bit, Span.one TC_STATUS_HOLDOVER.bit, Span.one TC_STATUS_SET.bit, Span.one TC_LAST_OFFSET_THETA.bit,
        Span.one TC_LAST_OFFSET_VERDICT.bit, Span.one TC_RATE_VALUE.bit, Span.one TC_INTEG_VALUE.bit, Span.one TC_INC_INC.bit, Span.one TC_COUNTS_STEPS.bit,
        Span.one TC_COUNTS_REFUSED.bit, Span.arr TC_LINKDLY_M 4 0x4, Span.arr TC_PULSE_STAT_MISSED 4 0x20, Span.arr TC_PULSE_STAT_ACTIVE 4 0x20]) t) ∧
    (∀ (p : Fin 4), exec (.linkDetect p) s = .next t → s.Keeps [.regs, .out, .freeCtr, .hs] [Span.arr HSP_CFG_RETRAIN 4 0x40,
        Span.arr HSP_STATUS_LINK 4 0x40] t) ∧
    (∀ (p : Fin 4), exec (.linkTrainDone p) s = .next t → s.Keeps [.regs, .out] [Span.arr HSP_CFG_RETRAIN 4 0x40, Span.arr HSP_STATUS_LINK 4 0x40] t) ∧
    (∀ (p : Fin 4), exec (.linkAlignDone p) s = .next t → s.Keeps [.regs, .out] [Span.arr HSP_CFG_RETRAIN 4 0x40, Span.arr HSP_STATUS_LINK 4 0x40] t) ∧
    (∀ (p : Fin 4) (info : TrainInfo), exec (.trainInfo p info) s = .next t → s.Keeps [.regs, .lq, .out, .sv, .tc,
        .hs] (itemsPosted ++ [Span.one TC_STATUS_MASTER_CHANGED.bit, Span.one TC_MASTER_ID.bit, Span.one TC_COUNTS_MASTERS.bit,
        Span.one HS_STATUS_PATH_CHANGED_SEEN.bit, Span.one HS_STATUS_ROOT_CHANGED_SEEN.bit, Span.one HS_STATUS_ADDR_CHANGED_SEEN.bit,
        Span.one HS_STATUS_CONFLICT_SEEN.bit, Span.one HS_STATUS_ADDR_FULL.bit, Span.one HS_STATUS_ADDR.bit, Span.one HS_STATUS_ADDR_VALID.bit,
        Span.one HS_STATUS_DISC.bit, Span.one HS_STATUS_ROLE.bit, Span.one HS_ROOT_ID.bit, Span.one HS_ROOTINFO_ADDR.bit, Span.one HS_ROOTINFO_PRIORITY.bit,
        Span.one HS_UPSTREAM_HOPS.bit, Span.one HS_UPSTREAM_NEIGH.bit, Span.one HS_UPSTREAM_PORT.bit, Span.one HS_UPSTREAM_VALID.bit,
        Span.one HS_STATS_FWD_DROP.bit, Span.arr HSP_CFG_RETRAIN 4 0x40, Span.arr HSP_STATUS_LOOP_SEEN 4 0x40, Span.arr HSP_STATUS_FOREIGN_SEEN 4 0x40,
        Span.arr HSP_STATUS_UPSTREAM 4 0x40, Span.arr HSP_STATUS_LINK 4 0x40, Span.arr HSP_NEIGH_ID 4 0x40, Span.arr HSP_DIAG_LEN_M 4 0x40,
        Span.arr HSP_DIAG_SNR 4 0x40]) t) ∧
    (∀ (p : Fin 4), exec (.linkTrainTimeout p) s = .next t → s.Keeps [.regs, .out] [Span.arr HSP_CFG_RETRAIN 4 0x40,
        Span.arr HSP_STATUS_NO_SIGNAL_SEEN 4 0x40, Span.arr HSP_STATUS_LINK 4 0x40] t) ∧
    (∀ (p : Fin 4), exec (.linkRedetect p) s = .next t → s.Keeps [.out, .hs] [] t) ∧
    (∀ (p : Fin 4), exec (.lineEnergyLost p) s = .next t → s.Keeps [.regs, .out] [Span.arr HSP_CFG_RETRAIN 4 0x40, Span.arr HSP_STATUS_LINK 4 0x40] t) ∧
    (∀ (p : Fin 4), exec (.packetReceived p) s = .next t → s.Keeps [.regs, .ts, .lq, .out, .sv, .hs] (itemsPosted ++ [Span.one HS_STATS_FWD_DROP.bit,
        Span.one HS_STATS_NO_ROUTE.bit, Span.one HS_STATS_TTL_DROP.bit, Span.one TS_STATUS_SURVEY.bit, Span.one TS_SURVEY_ABORT.bit, Span.one TS_SURVEY_GO.bit,
        Span.one TS_SURVEY_STATUS_MISSING.bit, Span.one TS_SURVEY_STATUS_FOREIGN.bit, Span.one TS_SURVEY_STATUS_CODE.bit,
        Span.arr CH_RX_STATUS_STATE 24 0x2000]) t) ∧
    (exec .helloSend s = .next t → s.Keeps [.regs, .out, .hs] [Span.one HS_STATS_FWD_DROP.bit] t) ∧
    (∀ (p : Fin 4) (priority : Byte) (unit : BitVec 64) (hops : BitVec 16), exec (.hello p priority unit hops) s = .next t → s.Keeps [.regs, .out,
        .hs] [Span.one HS_STATUS_DISC.bit] t) ∧
    (exec .electEnd s = .next t → s.Keeps [.regs, .time, .lq, .out, .clk, .sv, .tc, .hs] (itemsPosted ++ [Span.one FD_WDOG_STATUS_ELAPSED.bit,
        Span.one TC_STATUS_MASTER_CHANGED.bit, Span.one TC_MASTER_ID.bit, Span.one TC_COUNTS_MASTERS.bit, Span.one HS_STATUS_ROOT_CHANGED_SEEN.bit,
        Span.one HS_STATUS_ADDR_CHANGED_SEEN.bit, Span.one HS_STATUS_CONFLICT_SEEN.bit, Span.one HS_STATUS_ADDR_FULL.bit, Span.one HS_STATUS_FAILS.bit,
        Span.one HS_STATUS_ADDR.bit, Span.one HS_STATUS_ADDR_VALID.bit, Span.one HS_STATUS_DISC.bit, Span.one HS_STATUS_ROLE.bit, Span.one HS_ROOT_ID.bit,
        Span.one HS_ROOTINFO_ADDR.bit, Span.one HS_ROOTINFO_PRIORITY.bit, Span.one HS_STATS_FWD_DROP.bit]) t) ∧
    (∀ (p : Fin 4) (unit : BitVec 64) (held : Option (BitVec 12)), exec (.addressRequest p unit held) s = .next t → s.Keeps [.regs, .out,
        .hs] [Span.one HS_STATS_FWD_DROP.bit] t) ∧
    (∀ (p : Fin 4) (unit : BitVec 64) (addr : Option (BitVec 12)) (conflict : Bool) (rootAddr : BitVec 12),
        exec (.addressAssign p unit addr conflict rootAddr) s = .next t → s.Keeps [.regs, .lq, .out, .sv,
        .hs] (itemsPosted ++ [Span.one HS_STATUS_ADDR_CHANGED_SEEN.bit, Span.one HS_STATUS_CONFLICT_SEEN.bit, Span.one HS_STATUS_ADDR_FULL.bit,
        Span.one HS_STATUS_FAILS.bit, Span.one HS_STATUS_ADDR.bit, Span.one HS_STATUS_ADDR_VALID.bit, Span.one HS_STATUS_DISC.bit,
        Span.one HS_ROOTINFO_ADDR.bit, Span.one HS_STATS_FWD_DROP.bit]) t) ∧
    (∀ (p : Fin 4) (unit : BitVec 64) (addr : BitVec 12), exec (.bind p unit addr) s = .next t → s.Keeps [.regs, .out,
        .hs] [Span.one HS_STATS_FWD_DROP.bit] t) ∧
    (∀ (addr : BitVec 12), exec (.bindingExpiry addr) s = .next t → s.Keeps [.regs, .time, .out, .clk, .hs] [Span.one FD_WDOG_STATUS_ELAPSED.bit] t) ∧
    (exec .discoveryTimeout s = .next t → s.Keeps [.regs, .time, .lq, .out, .clk, .sv, .tc, .hs] (itemsPosted ++ [Span.one FD_WDOG_STATUS_ELAPSED.bit,
        Span.one TC_STATUS_MASTER_CHANGED.bit, Span.one TC_MASTER_ID.bit, Span.one TC_COUNTS_MASTERS.bit, Span.one HS_STATUS_PATH_CHANGED_SEEN.bit,
        Span.one HS_STATUS_ROOT_CHANGED_SEEN.bit, Span.one HS_STATUS_ADDR_CHANGED_SEEN.bit, Span.one HS_STATUS_FALLBACK_SEEN.bit,
        Span.one HS_STATUS_CONFLICT_SEEN.bit, Span.one HS_STATUS_ADDR_FULL.bit, Span.one HS_STATUS_FAILS.bit, Span.one HS_STATUS_ADDR.bit,
        Span.one HS_STATUS_ADDR_VALID.bit, Span.one HS_STATUS_DISC.bit, Span.one HS_STATUS_ROLE.bit, Span.one HS_STATUS_MODE.bit, Span.one HS_ROOT_ID.bit,
        Span.one HS_ROOTINFO_ADDR.bit, Span.one HS_ROOTINFO_PRIORITY.bit, Span.one HS_UPSTREAM_HOPS.bit, Span.one HS_UPSTREAM_NEIGH.bit,
        Span.one HS_UPSTREAM_PORT.bit, Span.one HS_UPSTREAM_VALID.bit, Span.one HS_STATS_LINK_DROP.bit, Span.one HS_STATS_FWD_DROP.bit,
        Span.arr HSP_CFG_RETRAIN 4 0x40, Span.arr HSP_STATUS_UPSTREAM 4 0x40, Span.arr HSP_STATUS_NEIGH_VALID 4 0x40, Span.arr HSP_STATUS_NEIGH 4 0x40,
        Span.arr HSP_STATUS_LINK 4 0x40]) t) ∧
    (∀ (p : Fin 4) (info : LsaInfo), exec (.lsa p info) s = .next t → s.Keeps [.regs, .out, .hs] [Span.one HS_ROOTINFO_ADDR.bit,
        Span.one HS_STATS_FWD_DROP.bit, Span.arr HSP_STATUS_NEIGH_VALID 4 0x40, Span.arr HSP_STATUS_NEIGH 4 0x40] t) ∧
    (exec .lsaRefresh s = .next t → s.Keeps [.regs, .out, .hs] [Span.one HS_STATS_FWD_DROP.bit] t) ∧
    (∀ (unit : BitVec 64), exec (.lsaAgeOut unit) s = .next t → s.Keeps [.regs, .time, .out, .clk, .hs] [Span.one FD_WDOG_STATUS_ELAPSED.bit,
        Span.one HS_STATUS_DISC.bit] t) ∧
    (∀ (path : Path) (w : Word), exec (.hsSendWord path w) s = .next t → s.Keeps [.regs, .ts, .lq, .out, .hawserStatus, .jtagStatus, .sv,
        .hs] (itemsPosted ++ [Span.one HS_SEND_STATUS_PSEQ.bit, Span.one HS_SEND_STATUS_CODE.bit, Span.one HS_STATS_FWD_DROP.bit, Span.one TS_STATUS_SURVEY.bit,
        Span.one TS_SURVEY_ABORT.bit, Span.one TS_SURVEY_GO.bit, Span.one TS_SURVEY_STATUS_MISSING.bit, Span.one TS_SURVEY_STATUS_FOREIGN.bit,
        Span.one TS_SURVEY_STATUS_CODE.bit, Span.arr GW_STATUS_HOLE 2 0x800, Span.arr CH_RX_STATUS_STATE 24 0x2000]) t) ∧
    (∀ (p : Fin 4), exec (.bootRequest p) s = .next t → s.Keeps [.regs, .lq, .out, .sv, .hs] (itemsPosted ++ [Span.one HS_STATS_FWD_DROP.bit]) t) ∧
    (∀ (path : Path) (target : BitVec 12), exec (.resetDev path target) s = .next t → s.Keeps [.regs, .ts, .lq, .out, .hawserStatus, .jtagStatus, .sv,
        .hs] (itemsPosted ++ [Span.one HS_CMD_STATUS_CODE.bit, Span.one HS_STATS_FWD_DROP.bit, Span.one TS_STATUS_SURVEY.bit, Span.one TS_SURVEY_ABORT.bit,
        Span.one TS_SURVEY_GO.bit, Span.one TS_SURVEY_STATUS_MISSING.bit, Span.one TS_SURVEY_STATUS_FOREIGN.bit, Span.one TS_SURVEY_STATUS_CODE.bit,
        Span.arr GW_STATUS_HOLE 2 0x800, Span.arr CH_RX_STATUS_STATE 24 0x2000]) t) ∧
    (∀ (code : Byte), exec (.resetReply code) s = .next t → s.Keeps [.regs, .out, .hs] [Span.one HS_CMD_STATUS_CODE.bit] t) ∧
    (exec .resetReplyTimeout s = .next t → s.Keeps [.regs, .time, .out, .clk, .hs] [Span.one FD_WDOG_STATUS_ELAPSED.bit, Span.one HS_CMD_STATUS_CODE.bit] t) ∧
    (∀ (path : Path), exec (.rediscover path) s = .next t → s.Keeps [.regs, .out, .hawserStatus, .jtagStatus,
        .hs] (replyFlags ++ [Span.one HS_STATUS_FAILS.bit, Span.one HS_STATUS_DISC.bit, Span.one HS_STATUS_ROLE.bit, Span.one HS_STATUS_MODE.bit,
        Span.one HS_CMD_STATUS_CODE.bit, Span.one HS_STATS_LINK_DROP.bit, Span.arr HSP_CFG_RETRAIN 4 0x40, Span.arr HSP_STATUS_NEIGH_VALID 4 0x40,
        Span.arr HSP_STATUS_NEIGH 4 0x40, Span.arr HSP_STATUS_LINK 4 0x40]) t) ∧
    (∀ (p : Fin 2) (position : Int) (strapped : Bool) (master : BitVec 64), exec (.chain p position strapped master) s = .next t → s.Keeps [.regs, .lq,
        .out, .sv, .tc, .hs] (itemsPosted ++ [Span.one TC_STATUS_MASTER_CHANGED.bit, Span.one TC_MASTER_ID.bit, Span.one TC_COUNTS_MASTERS.bit,
        Span.one HS_STATUS_PATH_CHANGED_SEEN.bit, Span.one HS_STATUS_ROOT_CHANGED_SEEN.bit, Span.one HS_STATUS_ADDR_CHANGED_SEEN.bit,
        Span.one HS_STATUS_CONFLICT_SEEN.bit, Span.one HS_STATUS_ADDR_FULL.bit, Span.one HS_STATUS_ADDR.bit, Span.one HS_STATUS_ADDR_VALID.bit,
        Span.one HS_STATUS_DISC.bit, Span.one HS_STATUS_ROLE.bit, Span.one HS_ROOT_ID.bit, Span.one HS_ROOTINFO_PRIORITY.bit, Span.one HS_UPSTREAM_HOPS.bit,
        Span.one HS_UPSTREAM_NEIGH.bit, Span.one HS_UPSTREAM_PORT.bit, Span.one HS_UPSTREAM_VALID.bit, Span.one HS_STATS_FWD_DROP.bit,
        Span.arr HSP_STATUS_UPSTREAM 4 0x40]) t)
end

