-- ==== Sys2Proof/Laws/State.lean ====
section
/-!
SUPPORT. What each named update leaves of each part of the state: one lemma per part and update, true by unfolding.
-/

namespace Sys2Proof.Machine

/-! A register write touches the register file alone. -/

@[simp] theorem Dev.wr_mem (d : Dev) (g : Fld) (v : Nat) : (d.wr g v).mem = d.mem := rfl
@[simp] theorem Dev.wr_time (d : Dev) (g : Fld) (v : Nat) : (d.wr g v).time = d.time := rfl
@[simp] theorem Dev.wr_power (d : Dev) (g : Fld) (v : Nat) : (d.wr g v).power = d.power := rfl
@[simp] theorem Dev.wr_boot (d : Dev) (g : Fld) (v : Nat) : (d.wr g v).boot = d.boot := rfl
@[simp] theorem Dev.wr_chans (d : Dev) (g : Fld) (v : Nat) : (d.wr g v).chans = d.chans := rfl
@[simp] theorem Dev.wr_ts (d : Dev) (g : Fld) (v : Nat) : (d.wr g v).ts = d.ts := rfl
@[simp] theorem Dev.wr_lq (d : Dev) (g : Fld) (v : Nat) : (d.wr g v).lq = d.lq := rfl
@[simp] theorem Dev.wr_out (d : Dev) (g : Fld) (v : Nat) : (d.wr g v).out = d.out := rfl
@[simp] theorem Dev.wr_freeCtr (d : Dev) (g : Fld) (v : Nat) : (d.wr g v).freeCtr = d.freeCtr := rfl
@[simp] theorem Dev.wr_clk (d : Dev) (g : Fld) (v : Nat) : (d.wr g v).clk = d.clk := rfl
@[simp] theorem Dev.wr_cy (d : Dev) (g : Fld) (v : Nat) : (d.wr g v).cy = d.cy := rfl
@[simp] theorem Dev.wr_fuses (d : Dev) (g : Fld) (v : Nat) : (d.wr g v).fuses = d.fuses := rfl
@[simp] theorem Dev.wr_epoch (d : Dev) (g : Fld) (v : Nat) : (d.wr g v).epoch = d.epoch := rfl
@[simp] theorem Dev.wr_hawserStatus (d : Dev) (g : Fld) (v : Nat) : (d.wr g v).hawserStatus = d.hawserStatus := rfl
@[simp] theorem Dev.wr_ce (d : Dev) (g : Fld) (v : Nat) : (d.wr g v).ce = d.ce := rfl
@[simp] theorem Dev.wr_shadow (d : Dev) (g : Fld) (v : Nat) : (d.wr g v).shadow = d.shadow := rfl
@[simp] theorem Dev.wr_jtagStatus (d : Dev) (g : Fld) (v : Nat) : (d.wr g v).jtagStatus = d.jtagStatus := rfl
@[simp] theorem Dev.wr_sv (d : Dev) (g : Fld) (v : Nat) : (d.wr g v).sv = d.sv := rfl
@[simp] theorem Dev.wr_tc (d : Dev) (g : Fld) (v : Nat) : (d.wr g v).tc = d.tc := rfl
@[simp] theorem Dev.wr_stage (d : Dev) (g : Fld) (v : Nat) : (d.wr g v).stage = d.stage := rfl
@[simp] theorem Dev.wr_latch (d : Dev) (g : Fld) (v : Nat) : (d.wr g v).latch = d.latch := rfl
@[simp] theorem Dev.wr_dramWait (d : Dev) (g : Fld) (v : Nat) : (d.wr g v).dramWait = d.dramWait := rfl
@[simp] theorem Dev.wr_gw (d : Dev) (g : Fld) (v : Nat) : (d.wr g v).gw = d.gw := rfl
@[simp] theorem Dev.wr_hs (d : Dev) (g : Fld) (v : Nat) : (d.wr g v).hs = d.hs := rfl
@[simp] theorem Dev.wr_en (d : Dev) (g : Fld) (v : Nat) : (d.wr g v).en = d.en := rfl
@[simp] theorem Dev.wr_gpio (d : Dev) (g : Fld) (v : Nat) : (d.wr g v).gpio = d.gpio := rfl
@[simp] theorem Dev.wr_cl (d : Dev) (g : Fld) (v : Nat) : (d.wr g v).cl = d.cl := rfl
@[simp] theorem Dev.wr_fd (d : Dev) (g : Fld) (v : Nat) : (d.wr g v).fd = d.fd := rfl
@[simp] theorem Dev.wr_pilotFault (d : Dev) (g : Fld) (v : Nat) : (d.wr g v).pilotFault = d.pilotFault := rfl

@[simp] theorem Dev.wr_regs (d : Dev) (g : Fld) (v : Nat) : (d.wr g v).regs = d.regs.put g.bit g.rst (v % 2 ^ g.w) := rfl

/-! The flags are register writes. -/

theorem Dev.raise_eq (d : Dev) (f : Fld) : d.raise f = d.wr f 1 := rfl

theorem Dev.lower_eq (d : Dev) (f : Fld) : d.lower f = d.wr f 0 := rfl

theorem Dev.flag_eq (d : Dev) (f : Fld) (c : Bool) : d.flag f c = d.wr f (b2n c) := rfl

theorem Dev.count_eq (d : Dev) (f : Fld) (k : Nat) : d.count f k = d.wr f (d.rd f + k) := rfl

theorem Dev.setBit_eq (d : Dev) (f : Fld) (i : Nat) : d.setBit f i = d.wr f (Machine.setBit (d.rd f) i) := rfl

theorem Dev.clearBit_eq (d : Dev) (f : Fld) (i : Nat) : d.clearBit f i = d.wr f (Machine.clearBit (d.rd f) i) := rfl

/-! A change of one channel touches the channels alone. -/

@[simp] theorem Dev.modChan_regs (d : Dev) (n : Nat) (f : Chan → Chan) : (d.modChan n f).regs = d.regs := rfl
@[simp] theorem Dev.modChan_mem (d : Dev) (n : Nat) (f : Chan → Chan) : (d.modChan n f).mem = d.mem := rfl
@[simp] theorem Dev.modChan_time (d : Dev) (n : Nat) (f : Chan → Chan) : (d.modChan n f).time = d.time := rfl
@[simp] theorem Dev.modChan_power (d : Dev) (n : Nat) (f : Chan → Chan) : (d.modChan n f).power = d.power := rfl
@[simp] theorem Dev.modChan_boot (d : Dev) (n : Nat) (f : Chan → Chan) : (d.modChan n f).boot = d.boot := rfl
@[simp] theorem Dev.modChan_ts (d : Dev) (n : Nat) (f : Chan → Chan) : (d.modChan n f).ts = d.ts := rfl
@[simp] theorem Dev.modChan_lq (d : Dev) (n : Nat) (f : Chan → Chan) : (d.modChan n f).lq = d.lq := rfl
@[simp] theorem Dev.modChan_out (d : Dev) (n : Nat) (f : Chan → Chan) : (d.modChan n f).out = d.out := rfl
@[simp] theorem Dev.modChan_freeCtr (d : Dev) (n : Nat) (f : Chan → Chan) : (d.modChan n f).freeCtr = d.freeCtr := rfl
@[simp] theorem Dev.modChan_clk (d : Dev) (n : Nat) (f : Chan → Chan) : (d.modChan n f).clk = d.clk := rfl
@[simp] theorem Dev.modChan_cy (d : Dev) (n : Nat) (f : Chan → Chan) : (d.modChan n f).cy = d.cy := rfl
@[simp] theorem Dev.modChan_fuses (d : Dev) (n : Nat) (f : Chan → Chan) : (d.modChan n f).fuses = d.fuses := rfl
@[simp] theorem Dev.modChan_epoch (d : Dev) (n : Nat) (f : Chan → Chan) : (d.modChan n f).epoch = d.epoch := rfl
@[simp] theorem Dev.modChan_hawserStatus (d : Dev) (n : Nat) (f : Chan → Chan) : (d.modChan n f).hawserStatus = d.hawserStatus := rfl
@[simp] theorem Dev.modChan_ce (d : Dev) (n : Nat) (f : Chan → Chan) : (d.modChan n f).ce = d.ce := rfl
@[simp] theorem Dev.modChan_shadow (d : Dev) (n : Nat) (f : Chan → Chan) : (d.modChan n f).shadow = d.shadow := rfl
@[simp] theorem Dev.modChan_jtagStatus (d : Dev) (n : Nat) (f : Chan → Chan) : (d.modChan n f).jtagStatus = d.jtagStatus := rfl
@[simp] theorem Dev.modChan_sv (d : Dev) (n : Nat) (f : Chan → Chan) : (d.modChan n f).sv = d.sv := rfl
@[simp] theorem Dev.modChan_tc (d : Dev) (n : Nat) (f : Chan → Chan) : (d.modChan n f).tc = d.tc := rfl
@[simp] theorem Dev.modChan_stage (d : Dev) (n : Nat) (f : Chan → Chan) : (d.modChan n f).stage = d.stage := rfl
@[simp] theorem Dev.modChan_latch (d : Dev) (n : Nat) (f : Chan → Chan) : (d.modChan n f).latch = d.latch := rfl
@[simp] theorem Dev.modChan_dramWait (d : Dev) (n : Nat) (f : Chan → Chan) : (d.modChan n f).dramWait = d.dramWait := rfl
@[simp] theorem Dev.modChan_gw (d : Dev) (n : Nat) (f : Chan → Chan) : (d.modChan n f).gw = d.gw := rfl
@[simp] theorem Dev.modChan_hs (d : Dev) (n : Nat) (f : Chan → Chan) : (d.modChan n f).hs = d.hs := rfl
@[simp] theorem Dev.modChan_en (d : Dev) (n : Nat) (f : Chan → Chan) : (d.modChan n f).en = d.en := rfl
@[simp] theorem Dev.modChan_gpio (d : Dev) (n : Nat) (f : Chan → Chan) : (d.modChan n f).gpio = d.gpio := rfl
@[simp] theorem Dev.modChan_cl (d : Dev) (n : Nat) (f : Chan → Chan) : (d.modChan n f).cl = d.cl := rfl
@[simp] theorem Dev.modChan_fd (d : Dev) (n : Nat) (f : Chan → Chan) : (d.modChan n f).fd = d.fd := rfl
@[simp] theorem Dev.modChan_pilotFault (d : Dev) (n : Nat) (f : Chan → Chan) : (d.modChan n f).pilotFault = d.pilotFault := rfl

/-! A change of Capstan touches Capstan alone. -/

@[simp] theorem Dev.modPower_regs (d : Dev) (f : PowerSt → PowerSt) : (d.modPower f).regs = d.regs := rfl
@[simp] theorem Dev.modPower_mem (d : Dev) (f : PowerSt → PowerSt) : (d.modPower f).mem = d.mem := rfl
@[simp] theorem Dev.modPower_time (d : Dev) (f : PowerSt → PowerSt) : (d.modPower f).time = d.time := rfl
@[simp] theorem Dev.modPower_boot (d : Dev) (f : PowerSt → PowerSt) : (d.modPower f).boot = d.boot := rfl
@[simp] theorem Dev.modPower_chans (d : Dev) (f : PowerSt → PowerSt) : (d.modPower f).chans = d.chans := rfl
@[simp] theorem Dev.modPower_ts (d : Dev) (f : PowerSt → PowerSt) : (d.modPower f).ts = d.ts := rfl
@[simp] theorem Dev.modPower_lq (d : Dev) (f : PowerSt → PowerSt) : (d.modPower f).lq = d.lq := rfl
@[simp] theorem Dev.modPower_out (d : Dev) (f : PowerSt → PowerSt) : (d.modPower f).out = d.out := rfl
@[simp] theorem Dev.modPower_freeCtr (d : Dev) (f : PowerSt → PowerSt) : (d.modPower f).freeCtr = d.freeCtr := rfl
@[simp] theorem Dev.modPower_clk (d : Dev) (f : PowerSt → PowerSt) : (d.modPower f).clk = d.clk := rfl
@[simp] theorem Dev.modPower_cy (d : Dev) (f : PowerSt → PowerSt) : (d.modPower f).cy = d.cy := rfl
@[simp] theorem Dev.modPower_fuses (d : Dev) (f : PowerSt → PowerSt) : (d.modPower f).fuses = d.fuses := rfl
@[simp] theorem Dev.modPower_epoch (d : Dev) (f : PowerSt → PowerSt) : (d.modPower f).epoch = d.epoch := rfl
@[simp] theorem Dev.modPower_hawserStatus (d : Dev) (f : PowerSt → PowerSt) : (d.modPower f).hawserStatus = d.hawserStatus := rfl
@[simp] theorem Dev.modPower_ce (d : Dev) (f : PowerSt → PowerSt) : (d.modPower f).ce = d.ce := rfl
@[simp] theorem Dev.modPower_shadow (d : Dev) (f : PowerSt → PowerSt) : (d.modPower f).shadow = d.shadow := rfl
@[simp] theorem Dev.modPower_jtagStatus (d : Dev) (f : PowerSt → PowerSt) : (d.modPower f).jtagStatus = d.jtagStatus := rfl
@[simp] theorem Dev.modPower_sv (d : Dev) (f : PowerSt → PowerSt) : (d.modPower f).sv = d.sv := rfl
@[simp] theorem Dev.modPower_tc (d : Dev) (f : PowerSt → PowerSt) : (d.modPower f).tc = d.tc := rfl
@[simp] theorem Dev.modPower_stage (d : Dev) (f : PowerSt → PowerSt) : (d.modPower f).stage = d.stage := rfl
@[simp] theorem Dev.modPower_latch (d : Dev) (f : PowerSt → PowerSt) : (d.modPower f).latch = d.latch := rfl
@[simp] theorem Dev.modPower_dramWait (d : Dev) (f : PowerSt → PowerSt) : (d.modPower f).dramWait = d.dramWait := rfl
@[simp] theorem Dev.modPower_gw (d : Dev) (f : PowerSt → PowerSt) : (d.modPower f).gw = d.gw := rfl
@[simp] theorem Dev.modPower_hs (d : Dev) (f : PowerSt → PowerSt) : (d.modPower f).hs = d.hs := rfl
@[simp] theorem Dev.modPower_en (d : Dev) (f : PowerSt → PowerSt) : (d.modPower f).en = d.en := rfl
@[simp] theorem Dev.modPower_gpio (d : Dev) (f : PowerSt → PowerSt) : (d.modPower f).gpio = d.gpio := rfl
@[simp] theorem Dev.modPower_cl (d : Dev) (f : PowerSt → PowerSt) : (d.modPower f).cl = d.cl := rfl
@[simp] theorem Dev.modPower_fd (d : Dev) (f : PowerSt → PowerSt) : (d.modPower f).fd = d.fd := rfl
@[simp] theorem Dev.modPower_pilotFault (d : Dev) (f : PowerSt → PowerSt) : (d.modPower f).pilotFault = d.pilotFault := rfl

@[simp] theorem Dev.modPower_power (d : Dev) (f : PowerSt → PowerSt) : (d.modPower f).power = f d.power := rfl

/-! Running a command: the queue is not touched, and what the last command delivered is gone. -/

theorem State.act_eq (s : State) (f : Dev → Dev) : s.act f = .next { s with dev := f { s.dev with out := [] } } := rfl

end Sys2Proof.Machine
end

