-- ==== Sys2Proof/Laws/Ops.lean ====
section
/-!
SUPPORT. The laws of the named operations: reading a register field after a write, reading memory after a write, and the canonical
forms, which every operation keeps.
-/

namespace Sys2Proof.Machine

/-! The register file. -/

theorem RegFile.get_drop_same (f : RegFile) (b r : Nat) : (f.drop b).get b r = r := by
  induction f with
  | nil => rfl
  | cons c f ih =>
    obtain ⟨k, v⟩ := c
    by_cases h : k = b
    · simp [RegFile.drop, h, ih]
    · simp [RegFile.drop, RegFile.get, h, ih]

theorem RegFile.get_drop_ne (f : RegFile) {b c : Nat} (r : Nat) (h : c ≠ b) : (f.drop b).get c r = f.get c r := by
  induction f with
  | nil => rfl
  | cons x f ih =>
    obtain ⟨k, v⟩ := x
    by_cases hk : k = b
    · have : k ≠ c := fun e => h (e.symm.trans hk)
      simp [RegFile.drop, RegFile.get, hk, ih]
      intro e; exact absurd e.symm h
    · simp [RegFile.drop, RegFile.get, hk, ih]

theorem RegFile.get_enter_same (f : RegFile) (b x r : Nat) : (f.enter b x).get b r = x := by
  induction f with
  | nil => simp [RegFile.enter, RegFile.get]
  | cons y f ih =>
    obtain ⟨k, v⟩ := y
    by_cases hk : k = b
    · simp [RegFile.enter, RegFile.get, hk]
    · by_cases hb : b < k <;> simp [RegFile.enter, RegFile.get, hk, hb, ih]

theorem RegFile.get_enter_ne (f : RegFile) {b c : Nat} (x r : Nat) (h : c ≠ b) : (f.enter b x).get c r = f.get c r := by
  have h' : b ≠ c := fun e => h e.symm
  induction f with
  | nil => simp [RegFile.enter, RegFile.get, h']
  | cons y f ih =>
    obtain ⟨k, v⟩ := y
    by_cases hk : k = b
    · subst hk; simp [RegFile.enter, RegFile.get, h']
    · by_cases hb : b < k <;> simp [RegFile.enter, RegFile.get, hk, hb, ih, h']

theorem RegFile.get_put_same (f : RegFile) (b r x : Nat) : (f.put b r x).get b r = x := by
  by_cases h : x = r
  · simp [RegFile.put, h, RegFile.get_drop_same]
  · simp [RegFile.put, h, RegFile.get_enter_same]

theorem RegFile.get_put_ne (f : RegFile) {b c : Nat} (r x q : Nat) (h : c ≠ b) : (f.put b r x).get c q = f.get c q := by
  by_cases e : x = r
  · simp [RegFile.put, e, RegFile.get_drop_ne f q h]
  · simp [RegFile.put, e, RegFile.get_enter_ne f x q h]

/-- The lowest address of a register file, if any, is above `b`. -/
def RegFile.above (b : Nat) : RegFile → Prop
  | [] => True
  | (k, _) :: _ => b < k

theorem RegFile.wf_cons (k v : Nat) (f : RegFile) : RegFile.wf ((k, v) :: f) = true ↔ RegFile.above k f ∧ RegFile.wf f = true := by
  cases f with
  | nil => simp [RegFile.wf, RegFile.above]
  | cons y f => obtain ⟨k', v'⟩ := y; simp [RegFile.wf, RegFile.above]

theorem RegFile.above_drop {f : RegFile} {a : Nat} (b : Nat) (h : RegFile.wf f = true) (ha : RegFile.above a f) :
    RegFile.above a (f.drop b) := by
  induction f with
  | nil => trivial
  | cons y f ih =>
    obtain ⟨k, v⟩ := y
    have hw := (RegFile.wf_cons k v f).1 h
    by_cases hk : k = b
    · simp only [RegFile.drop, hk, if_true]
      refine ih hw.2 ?_
      cases f with
      | nil => trivial
      | cons z f => exact Nat.lt_trans ha hw.1
    · simpa [RegFile.drop, hk, RegFile.above] using ha

theorem RegFile.wf_drop {f : RegFile} (b : Nat) (h : RegFile.wf f = true) : RegFile.wf (f.drop b) = true := by
  induction f with
  | nil => rfl
  | cons y f ih =>
    obtain ⟨k, v⟩ := y
    have hw := (RegFile.wf_cons k v f).1 h
    by_cases hk : k = b
    · simpa [RegFile.drop, hk] using ih hw.2
    · simp only [RegFile.drop, hk, if_false]
      exact (RegFile.wf_cons k v _).2 ⟨RegFile.above_drop b hw.2 hw.1, ih hw.2⟩

theorem RegFile.above_enter {f : RegFile} {a : Nat} (b x : Nat) (ha : RegFile.above a f) (hab : a < b) :
    RegFile.above a (f.enter b x) := by
  cases f with
  | nil => exact hab
  | cons y f =>
    obtain ⟨k, v⟩ := y
    by_cases hk : k = b
    · simpa [RegFile.enter, hk, RegFile.above] using hab
    · by_cases hb : b < k
      · simpa [RegFile.enter, hk, hb, RegFile.above] using hab
      · simpa [RegFile.enter, hk, hb, RegFile.above] using ha

theorem RegFile.wf_enter {f : RegFile} (b x : Nat) (h : RegFile.wf f = true) : RegFile.wf (f.enter b x) = true := by
  induction f with
  | nil => rfl
  | cons y f ih =>
    obtain ⟨k, v⟩ := y
    have hw := (RegFile.wf_cons k v f).1 h
    by_cases hk : k = b
    · subst hk; simpa [RegFile.enter] using (RegFile.wf_cons k x f).2 hw
    · by_cases hb : b < k
      · simp only [RegFile.enter, hk, hb, if_false, if_true]
        exact (RegFile.wf_cons b x _).2 ⟨hb, h⟩
      · simp only [RegFile.enter, hk, hb, if_false]
        refine (RegFile.wf_cons k v _).2 ⟨RegFile.above_enter b x hw.1 ?_, ih hw.2⟩
        omega

/-- Setting a field keeps the register file's form. -/
theorem RegFile.wf_put {f : RegFile} (b r x : Nat) (h : RegFile.wf f = true) : RegFile.wf (f.put b r x) = true := by
  by_cases e : x = r
  · simpa [RegFile.put, e] using RegFile.wf_drop b h
  · simpa [RegFile.put, e] using RegFile.wf_enter b x h

theorem RegFile.above_filter {f : RegFile} {a : Nat} (q : Nat × Nat → Bool) (h : RegFile.wf f = true) (ha : RegFile.above a f) :
    RegFile.above a (f.filter q) := by
  induction f with
  | nil => trivial
  | cons y f ih =>
    obtain ⟨k, v⟩ := y
    have hw := (RegFile.wf_cons k v f).1 h
    by_cases hq : q (k, v) = true
    · simpa [List.filter, hq, RegFile.above] using ha
    · simp only [Bool.not_eq_true] at hq
      simp only [List.filter, hq]
      refine ih hw.2 ?_
      cases f with
      | nil => trivial
      | cons z f => exact Nat.lt_trans ha hw.1

theorem RegFile.wf_filter {f : RegFile} (q : Nat × Nat → Bool) (h : RegFile.wf f = true) : RegFile.wf (f.filter q) = true := by
  induction f with
  | nil => rfl
  | cons y f ih =>
    obtain ⟨k, v⟩ := y
    have hw := (RegFile.wf_cons k v f).1 h
    by_cases hq : q (k, v) = true
    · simp only [List.filter, hq]
      exact (RegFile.wf_cons k v _).2 ⟨RegFile.above_filter q hw.2 hw.1, ih hw.2⟩
    · simp only [Bool.not_eq_true] at hq
      simpa only [List.filter, hq] using ih hw.2

/-! Register fields. -/

/-- A field reads what was written, modulo its width. -/
@[simp] theorem Dev.rd_wr_same (d : Dev) (f : Fld) (v : Nat) : (d.wr f v).rd f = v % 2 ^ f.w :=
  RegFile.get_put_same _ _ _ _

/-- A write of one field leaves every field at another place alone. -/
theorem Dev.rd_wr_ne (d : Dev) {f g : Fld} (v : Nat) (h : f.bit ≠ g.bit) : (d.wr g v).rd f = d.rd f :=
  RegFile.get_put_ne _ _ _ _ h

/-! Memory. -/

theorem Memory.get_drop_same (m : Memory) (a : Nat) : (m.drop a).get a = 0 := by
  induction m with
  | nil => rfl
  | cons c m ih =>
    obtain ⟨k, v⟩ := c
    by_cases h : k = a
    · simp [Memory.drop, h, ih]
    · simp [Memory.drop, Memory.get, h, ih]

theorem Memory.get_drop_ne (m : Memory) {a c : Nat} (h : c ≠ a) : (m.drop a).get c = m.get c := by
  have h' : a ≠ c := fun e => h e.symm
  induction m with
  | nil => rfl
  | cons x m ih =>
    obtain ⟨k, v⟩ := x
    by_cases hk : k = a
    · simp [Memory.drop, Memory.get, hk, ih, h']
    · simp [Memory.drop, Memory.get, hk, ih]

theorem Memory.get_enter_same (m : Memory) (a : Nat) (b : Byte) : (m.enter a b).get a = b := by
  induction m with
  | nil => simp [Memory.enter, Memory.get]
  | cons y m ih =>
    obtain ⟨k, v⟩ := y
    by_cases hk : k = a
    · simp [Memory.enter, Memory.get, hk]
    · by_cases ha : a < k <;> simp [Memory.enter, Memory.get, hk, ha, ih]

theorem Memory.get_enter_ne (m : Memory) {a c : Nat} (b : Byte) (h : c ≠ a) : (m.enter a b).get c = m.get c := by
  have h' : a ≠ c := fun e => h e.symm
  induction m with
  | nil => simp [Memory.enter, Memory.get, h']
  | cons y m ih =>
    obtain ⟨k, v⟩ := y
    by_cases hk : k = a
    · subst hk; simp [Memory.enter, Memory.get, h']
    · by_cases ha : a < k <;> simp [Memory.enter, Memory.get, hk, ha, ih, h']

/-- A byte reads what was written. -/
theorem Memory.get_set_same (m : Memory) (a : Nat) (b : Byte) : (m.set a b).get a = b := by
  by_cases h : b = 0
  · simp [Memory.set, h, Memory.get_drop_same]
  · unfold Memory.set; rw [if_neg h]; exact Memory.get_enter_same m a b

/-- A write of one byte leaves every other byte alone. -/
theorem Memory.get_set_ne (m : Memory) {a c : Nat} (b : Byte) (h : c ≠ a) : (m.set a b).get c = m.get c := by
  by_cases e : b = 0
  · simp [Memory.set, e, Memory.get_drop_ne m h]
  · unfold Memory.set; rw [if_neg e]; exact Memory.get_enter_ne m b h

/-- A write of consecutive bytes leaves every byte outside them alone. -/
theorem Memory.get_write_outside (m : Memory) (a : Nat) (bs : List Byte) (c : Nat) (h : c < a ∨ a + bs.length ≤ c) :
    (m.write a bs).get c = m.get c := by
  induction bs generalizing m a with
  | nil => rfl
  | cons b bs ih =>
    simp only [List.length_cons] at h
    simp only [Memory.write]
    rw [ih (m.set a b) (a + 1) (by omega), Memory.get_set_ne m b (by omega)]

/-- Written bytes read back in their order. -/
theorem Memory.get_write_inside (m : Memory) (a : Nat) (bs : List Byte) (i : Nat) (h : i < bs.length) :
    (m.write a bs).get (a + i) = bs[i] := by
  induction bs generalizing m a i with
  | nil => simp at h
  | cons b bs ih =>
    simp only [Memory.write]
    cases i with
    | zero => rw [Memory.get_write_outside _ _ _ _ (by omega)]; simpa using Memory.get_set_same m a b
    | succ i =>
      have := ih (m.set a b) (a + 1) i (by simpa using h)
      rw [show a + (i + 1) = a + 1 + i by omega, this]; simp

theorem Memory.read_length (m : Memory) (a n : Nat) : (m.read a n).length = n := by
  induction n generalizing a with
  | zero => rfl
  | succ n ih => simp [Memory.read, ih]

/-- The lowest address of a memory, if any, is above `a`. -/
def Memory.above (a : Nat) : Memory → Prop
  | [] => True
  | (k, _) :: _ => a < k

theorem Memory.wf_cons (k : Nat) (v : Byte) (m : Memory) :
    Memory.wf ((k, v) :: m) = true ↔ v ≠ 0 ∧ Memory.above k m ∧ Memory.wf m = true := by
  cases m with
  | nil => simp [Memory.wf, Memory.above]
  | cons y m => obtain ⟨k', v'⟩ := y; simp [Memory.wf, Memory.above, and_assoc]

theorem Memory.above_mono {m : Memory} {a b : Nat} (h : a < b) (hb : Memory.above b m) : Memory.above a m := by
  cases m with
  | nil => trivial
  | cons y m => exact Nat.lt_trans h hb

theorem Memory.above_filter {m : Memory} {a : Nat} (q : Host.Cell → Bool) (h : Memory.wf m = true) (ha : Memory.above a m) :
    Memory.above a (m.filter q) := by
  induction m with
  | nil => trivial
  | cons y m ih =>
    obtain ⟨k, v⟩ := y
    have hw := (Memory.wf_cons k v m).1 h
    by_cases hq : q (k, v) = true
    · simpa [List.filter, hq, Memory.above] using ha
    · simp only [Bool.not_eq_true] at hq
      simp only [List.filter, hq]
      exact ih hw.2.2 (Memory.above_mono ha hw.2.1)

/-- Forgetting entries keeps the canonical form. -/
theorem Memory.wf_filter {m : Memory} (q : Host.Cell → Bool) (h : Memory.wf m = true) : Memory.wf (m.filter q) = true := by
  induction m with
  | nil => rfl
  | cons y m ih =>
    obtain ⟨k, v⟩ := y
    have hw := (Memory.wf_cons k v m).1 h
    by_cases hq : q (k, v) = true
    · simp only [List.filter, hq]
      exact (Memory.wf_cons k v _).2 ⟨hw.1, Memory.above_filter q hw.2.2 hw.2.1, ih hw.2.2⟩
    · simp only [Bool.not_eq_true] at hq
      simpa only [List.filter, hq] using ih hw.2.2

theorem Memory.drop_eq_filter (m : Memory) (a : Nat) : m.drop a = m.filter fun c => c.1 != a := by
  induction m with
  | nil => rfl
  | cons y m ih =>
    obtain ⟨k, v⟩ := y
    by_cases h : k = a
    · simp [Memory.drop, List.filter, h, ih]
    · have : (k != a) = true := by simpa using h
      simp [Memory.drop, List.filter, h, ih, this]

theorem Memory.above_enter {m : Memory} {c : Nat} (a : Nat) (b : Byte) (hc : Memory.above c m) (h : c < a) :
    Memory.above c (m.enter a b) := by
  cases m with
  | nil => exact h
  | cons y m =>
    obtain ⟨k, v⟩ := y
    by_cases hk : k = a
    · simpa [Memory.enter, hk, Memory.above] using h
    · by_cases ha : a < k
      · simpa [Memory.enter, hk, ha, Memory.above] using h
      · simpa [Memory.enter, hk, ha, Memory.above] using hc

theorem Memory.wf_enter {m : Memory} (a : Nat) (b : Byte) (hb : b ≠ 0) (h : Memory.wf m = true) :
    Memory.wf (m.enter a b) = true := by
  induction m with
  | nil => exact (Memory.wf_cons a b []).2 ⟨hb, trivial, rfl⟩
  | cons y m ih =>
    obtain ⟨k, v⟩ := y
    have hw := (Memory.wf_cons k v m).1 h
    by_cases hk : k = a
    · subst hk; simpa [Memory.enter] using (Memory.wf_cons k b m).2 ⟨hb, hw.2⟩
    · by_cases ha : a < k
      · simp only [Memory.enter, hk, ha, if_false, if_true]
        exact (Memory.wf_cons a b _).2 ⟨hb, ha, h⟩
      · simp only [Memory.enter, hk, ha, if_false]
        refine (Memory.wf_cons k v _).2 ⟨hw.1, Memory.above_enter a b hw.2.1 ?_, ih hw.2.2⟩
        omega

/-- Writing a byte keeps the canonical form. -/
theorem Memory.wf_set {m : Memory} (a : Nat) (b : Byte) (h : Memory.wf m = true) : Memory.wf (m.set a b) = true := by
  by_cases e : b = 0
  · simp only [Memory.set, e, if_true, Memory.drop_eq_filter]; exact Memory.wf_filter _ h
  · simp only [Memory.set, e, if_false]; exact Memory.wf_enter a b e h

/-- Writing consecutive bytes keeps the canonical form. -/
theorem Memory.wf_write {m : Memory} (a : Nat) (bs : List Byte) (h : Memory.wf m = true) : Memory.wf (m.write a bs) = true := by
  induction bs generalizing m a with
  | nil => exact h
  | cons b bs ih => exact ih (a + 1) (Memory.wf_set a b h)

/-- A run of writes keeps the canonical form. -/
theorem Memory.wf_foldl {α : Type} {m : Memory} (xs : List α) {f : Memory → α → Memory} (h : Memory.wf m = true)
    (hf : ∀ m x, Memory.wf m = true → Memory.wf (f m x) = true) : Memory.wf (xs.foldl f m) = true := by
  induction xs generalizing m with
  | nil => exact h
  | cons x xs ih => exact ih (hf m x h)

/-- A move of every entry downward by `k` keeps the canonical form. -/
theorem Memory.wf_shift {m : Memory} (k : Nat) (h : Memory.wf m = true) (hk : ∀ c ∈ m, k ≤ c.1) :
    Memory.wf (m.map fun c => (c.1 - k, c.2)) = true := by
  induction m with
  | nil => rfl
  | cons y m ih =>
    obtain ⟨a, v⟩ := y
    have hw := (Memory.wf_cons a v m).1 h
    refine (Memory.wf_cons (a - k) v _).2 ⟨hw.1, ?_, ih hw.2.2 fun c hc => hk c (List.mem_cons_of_mem _ hc)⟩
    cases m with
    | nil => trivial
    | cons z m =>
      have h1 : a < z.1 := hw.2.1
      have h2 := hk (a, v) List.mem_cons_self
      show a - k < z.1 - k
      simp only at h2
      omega

/-- Forgetting a span keeps the canonical form. -/
theorem Memory.wf_forget {m : Memory} (lo hi : Nat) (h : Memory.wf m = true) : Memory.wf (m.forget lo hi) = true :=
  Memory.wf_filter _ h

/-- A forgotten byte reads as an unlisted one. -/
theorem Memory.get_filter (m : Memory) (q : Host.Cell → Bool) (p : Nat → Bool) (hq : ∀ c, q c = p c.1) (a : Nat) :
    Memory.get (m.filter q) a = if p a then m.get a else 0 := by
  induction m with
  | nil => simp [Memory.get]
  | cons y m ih =>
    obtain ⟨k, v⟩ := y
    by_cases hk : p k = true
    · simp only [List.filter, hq, hk, Memory.get]
      by_cases e : k = a
      · subst e; simp [hk]
      · simp [e, ih]
    · simp only [Bool.not_eq_true] at hk
      simp only [List.filter, hq, hk, Memory.get, ih]
      by_cases e : k = a
      · subst e; simp [hk]
      · simp [e]

/-! Vectors and lists of units. -/

theorem lmod_getD_same {α : Type} (xs : List α) (i : Nat) (f : α → α) (x : α) (h : i < xs.length) :
    (lmod xs i f).getD i x = f (xs.getD i x) := by
  induction xs generalizing i with
  | nil => simp at h
  | cons y ys ih =>
    cases i with
    | zero => simp [lmod]
    | succ i => simpa [lmod] using ih i (by simpa using h)

theorem lmod_getD_ne {α : Type} (xs : List α) {i j : Nat} (f : α → α) (x : α) (h : j ≠ i) :
    (lmod xs i f).getD j x = xs.getD j x := by
  induction xs generalizing i j with
  | nil => cases i <;> rfl
  | cons y ys ih =>
    cases i with
    | zero => cases j with
      | zero => exact absurd rfl h
      | succ j => simp [lmod]
    | succ i => cases j with
      | zero => simp [lmod]
      | succ j => simpa [lmod] using ih (i := i) (j := j) (by omega)

/-- A changed unit reads as changed. -/
@[simp] theorem vget_vmod_same {α : Type} {n : Nat} (v : Vector α n) (i : Nat) (f : α → α) (x : α) (h : i < n) :
    vget (vmod v i f) i x = f (vget v i x) := by
  simp [vget, vmod, h]

/-- A change of one unit leaves every other unit alone. -/
theorem vget_vmod_ne {α : Type} {n : Nat} (v : Vector α n) {i j : Nat} (f : α → α) (x : α) (h : j ≠ i) :
    vget (vmod v i f) j x = vget v j x := by
  by_cases hi : i < n
  · simp [vget, vmod, hi, Ne.symm h]
  · simp [vmod, hi]

end Sys2Proof.Machine
end

