-- ==== Sys2Proof/Laws/Frame.lean ====
section
/-!
SUPPORT. What an operation can change: the parts of the state and the register fields. `Changes S W d e` says that `e` differs from `d` at
most in the parts `S` and, inside the register file, in the fields `W`, and that it is canonical where `d` is. Every operation has one
lemma of this form (Laws/Changes and the files beside it).
-/

namespace Sys2Proof.Machine

/-- Is one list contained in another? -/
def within {α : Type} [DecidableEq α] (xs ys : List α) : Bool := xs.all fun x => decide (x ∈ ys)

theorem within_mem {α : Type} [DecidableEq α] {xs ys : List α} (h : within xs ys = true) {x : α} (hx : x ∈ xs) : x ∈ ys := by
  have := List.all_eq_true.1 h x hx
  simpa using this

theorem within_trans {α : Type} [DecidableEq α] {xs ys zs : List α} (h : within xs ys = true) (k : within ys zs = true) :
    within xs zs = true := by
  simp only [within, List.all_eq_true, decide_eq_true_eq] at *
  exact fun x hx => k x (h x hx)

theorem within_refl {α : Type} [DecidableEq α] (xs : List α) : within xs xs = true := by
  simp [within]

/-- Does one set of fields contain another, as their lists show? -/
def covers (V W : List Span) : Bool := decide (Span.every ∈ W) || within V W

theorem covers_trans {V W X : List Span} (h : covers V W = true) (k : covers W X = true) : covers V X = true := by
  simp only [covers, Bool.or_eq_true, decide_eq_true_eq] at *
  rcases k with k | k
  · exact .inl k
  · rcases h with h | h
    · exact .inl (within_mem k h)
    · exact .inr (within_trans h k)

theorem covers_refl (V : List Span) : covers V V = true := by
  simp [covers, within_refl]

theorem covers_rows {V W : List Span} (h : covers V W = true) {b : Nat} (hb : Rows V b) : Rows W b := by
  simp only [covers, Bool.or_eq_true, decide_eq_true_eq] at h
  rcases h with h | h
  · exact ⟨_, h, trivial⟩
  · obtain ⟨w, m, x⟩ := hb; exact ⟨w, within_mem h m, x⟩

/-- `e` differs from `d` at most in the parts `S` and, inside the register file, in the fields `W`; it is canonical where `d` is. -/
structure Changes (S : List Part) (W : List Span) (d e : Dev) : Prop where
  parts : ∀ c, c ∉ S → c.same d e
  regs : ∀ b r, ¬ Rows W b → RegFile.get e.regs b r = RegFile.get d.regs b r
  canonical : d.Canonical → e.Canonical

theorem Changes.refl (S : List Part) (W : List Span) (d : Dev) : Changes S W d d :=
  ⟨fun c _ => by cases c <;> rfl, fun _ _ _ => rfl, id⟩

theorem Changes.trans {S : List Part} {W : List Span} {d e f : Dev} (h : Changes S W d e) (k : Changes S W e f) : Changes S W d f :=
  ⟨fun c hc => by have a := h.parts c hc; have b := k.parts c hc; cases c <;> exact Eq.trans b a,
   fun b r hb => (k.regs b r hb).trans (h.regs b r hb), fun x => k.canonical (h.canonical x)⟩

theorem Changes.mono {S T : List Part} {W V : List Span} {d e : Dev} (h : Changes S W d e) (hS : within S T = true)
    (hW : covers W V = true) : Changes T V d e :=
  ⟨fun c hc => h.parts c fun m => hc (within_mem hS m),
   fun b r hb => h.regs b r fun x => hb (covers_rows hW x), h.canonical⟩

/-- What changes at most in `S` and `W` keeps the rest. -/
theorem Changes.keeps {S : List Part} {W : List Span} {d e : Dev} (h : Changes S W d e) : d.Keeps S W e := ⟨h.parts, h.regs⟩

/-- Every part. -/
def allParts : List Part :=
  [.regs, .mem, .time, .power, .boot, .chans, .ts, .lq, .out, .freeCtr, .clk, .cy, .fuses, .epoch, .hawserStatus, .ce,
   .shadow, .jtagStatus, .sv, .tc, .stage, .latch, .dramWait, .gw, .hs, .en, .gpio, .cl, .fd, .pilotFault]

/-- Where every part and every field may change, only the canonical form is to be kept. -/
theorem Changes.any {S : List Part} {W : List Span} {d e : Dev} (hS : within allParts S = true) (hW : covers [.every] W = true)
    (hc : d.Canonical → e.Canonical) : Changes S W d e :=
  ⟨fun c hc => absurd (within_mem hS (by cases c <;> decide)) hc,
   fun b _ hb => absurd (covers_rows hW ⟨.every, List.mem_singleton.2 rfl, trivial⟩) hb, hc⟩

/-- A field outside the changed fields reads as before. -/
theorem Changes.rd {S : List Part} {W : List Span} {d e : Dev} (h : Changes S W d e) {f : Fld} (hf : ¬ Rows W f.bit) :
    e.rd f = d.rd f := h.regs f.bit f.rst hf

/-- Does a set of fields leave out bit address `b`? -/
def Span.misses (b : Nat) : Span → Bool
  | .one x => b != x
  | .row base c s lo => (List.range c).all fun i => b != (base + i * s) * 8 + lo
  | .grid base c1 s1 c2 s2 lo => (List.range c1).all fun i => (List.range c2).all fun j => b != (base + i * s1 + j * s2) * 8 + lo
  | .errors => blockBases.all fun x =>
      ([(x + 4) * 8, (x + 4) * 8 + 1, (x + 4) * 8 + 2, (x + 8) * 8, (x + 8) * 8 + 28, (x + 8) * 8 + 29] : List Nat).all fun y => b != y
  | .every => false

theorem Span.not_has {w : Span} {b : Nat} (h : w.misses b = true) : ¬ w.has b := by
  cases w with
  | one x => simpa [Span.misses, Span.has] using h
  | row base c s lo =>
    rintro ⟨i, hi, e⟩
    simp only [Span.misses, List.all_eq_true, List.mem_range, bne_iff_ne, ne_eq] at h
    exact h i hi e
  | grid base c1 s1 c2 s2 lo =>
    rintro ⟨i, j, hi, hj, e⟩
    simp only [Span.misses, List.all_eq_true, List.mem_range, bne_iff_ne, ne_eq] at h
    exact h i hi j hj e
  | errors =>
    rintro ⟨x, hx, hb⟩
    simp only [Span.misses, List.all_eq_true, bne_iff_ne, ne_eq] at h
    exact h x hx b hb rfl
  | every => simp [Span.misses] at h

/-- A field that every set leaves out is in none of them. -/
theorem rows_not {W : List Span} {b : Nat} (h : W.all (Span.misses b) = true) : ¬ Rows W b := fun ⟨w, m, x⟩ =>
  Span.not_has (List.all_eq_true.1 h w m) x

/-! Membership of the fields that the register map names. -/

theorem rows_one {V W : List Span} (hW : covers V W = true) {b : Nat} (h : covers [.one b] V = true) : Rows W b :=
  covers_rows (covers_trans h hW) ⟨_, List.mem_singleton.2 rfl, rfl⟩

theorem rows_row {V W : List Span} (hW : covers V W = true) {base n c s lo : Nat} (h : covers [.row base c s lo] V = true)
    (hc : decide (0 < c) = true) : Rows W ((base + n % c * s) * 8 + lo) :=
  covers_rows (covers_trans h hW) ⟨_, List.mem_singleton.2 rfl, _, Nat.mod_lt n (of_decide_eq_true hc), rfl⟩

theorem rows_grid {V W : List Span} (hW : covers V W = true) {base n k c1 s1 c2 s2 lo : Nat}
    (h : covers [.grid base c1 s1 c2 s2 lo] V = true) (h1 : decide (0 < c1) = true) (h2 : decide (0 < c2) = true) :
    Rows W ((base + n % c1 * s1 + k % c2 * s2) * 8 + lo) :=
  covers_rows (covers_trans h hW)
    ⟨_, List.mem_singleton.2 rfl, _, _, Nat.mod_lt n (of_decide_eq_true h1), Nat.mod_lt k (of_decide_eq_true h2), rfl⟩

/-- Where every field may change, any may. -/
theorem rows_every {W : List Span} (hW : covers [.every] W = true) (b : Nat) : Rows W b :=
  covers_rows hW ⟨_, List.mem_singleton.2 rfl, trivial⟩

/-! The steps. -/

section
variable {S : List Part} {W : List Span} {d e : Dev}

/-- A new state built from parts of `e`, each the same or in `S`. -/
theorem mk_after {e : Dev} {x1 : List Host.Cell} {x2 : Nat} {x3 : PowerSt} {x4 : BootSt} {x5 : Vector Chan 24} {x6 : TsSt} {x7 : Vector Queue 32} {x8 :
    List Word} {x9 : Nat} {x10 : ClockSt} {x11 : CySt} {x12 : Fuses} {x13 : Nat} {x14 : Nat} {x15 : Vector CeInst 8} {x16 : List
    Host.Cell} {x17 : Nat} {x18 : SvSt} {x19 : TcSt} {x20 : List (Path × Nat × Word)} {x21 : List Latch} {x22 : List DramWait}
    {x23 : Vector GwPort 2} {x24 : HsSt} {x25 : Vector EnPort 2} {x26 : Nat} {x27 : ClSt} {x28 : FdSt} {x29 : Option (Bool ×
    Nat)}
    (h : Changes S W d e)
    (h1 : x1 = e.mem ∨ Part.mem ∈ S) (h2 : x2 = e.time ∨ Part.time ∈ S) (h3 : x3 = e.power ∨ Part.power ∈ S) (h4 : x4 = e.boot ∨
    Part.boot ∈ S) (h5 : x5 = e.chans ∨ Part.chans ∈ S) (h6 : x6 = e.ts ∨ Part.ts ∈ S) (h7 : x7 = e.lq ∨ Part.lq ∈ S) (h8 : x8 =
    e.out ∨ Part.out ∈ S) (h9 : x9 = e.freeCtr ∨ Part.freeCtr ∈ S) (h10 : x10 = e.clk ∨ Part.clk ∈ S) (h11 : x11 = e.cy ∨
    Part.cy ∈ S) (h12 : x12 = e.fuses ∨ Part.fuses ∈ S) (h13 : x13 = e.epoch ∨ Part.epoch ∈ S) (h14 : x14 = e.hawserStatus ∨
    Part.hawserStatus ∈ S) (h15 : x15 = e.ce ∨ Part.ce ∈ S) (h16 : x16 = e.shadow ∨ Part.shadow ∈ S) (h17 : x17 = e.jtagStatus ∨
    Part.jtagStatus ∈ S) (h18 : x18 = e.sv ∨ Part.sv ∈ S) (h19 : x19 = e.tc ∨ Part.tc ∈ S) (h20 : x20 = e.stage ∨ Part.stage ∈ S)
    (h21 : x21 = e.latch ∨ Part.latch ∈ S) (h22 : x22 = e.dramWait ∨ Part.dramWait ∈ S) (h23 : x23 = e.gw ∨ Part.gw ∈ S) (h24 :
    x24 = e.hs ∨ Part.hs ∈ S) (h25 : x25 = e.en ∨ Part.en ∈ S) (h26 : x26 = e.gpio ∨ Part.gpio ∈ S) (h27 : x27 = e.cl ∨ Part.cl ∈
    S) (h28 : x28 = e.fd ∨ Part.fd ∈ S) (h29 : x29 = e.pilotFault ∨ Part.pilotFault ∈ S)
    (hm : e.Canonical → Memory.wf x1 = true) (hs : e.Canonical → Memory.wf x16 = true) :
    Changes S W d ⟨e.regs, x1, x2, x3, x4, x5, x6, x7, x8, x9, x10, x11, x12, x13, x14, x15, x16, x17, x18, x19, x20, x21, x22, x23, x24, x25, x26, x27, x28, x29⟩ := by
  refine h.trans ⟨fun c hc => ?_, fun _ _ _ => rfl, fun k => ⟨hm k, hs k, k.regs⟩⟩
  cases c
  · rfl
  · exact h1.resolve_right hc
  · exact h2.resolve_right hc
  · exact h3.resolve_right hc
  · exact h4.resolve_right hc
  · exact h5.resolve_right hc
  · exact h6.resolve_right hc
  · exact h7.resolve_right hc
  · exact h8.resolve_right hc
  · exact h9.resolve_right hc
  · exact h10.resolve_right hc
  · exact h11.resolve_right hc
  · exact h12.resolve_right hc
  · exact h13.resolve_right hc
  · exact h14.resolve_right hc
  · exact h15.resolve_right hc
  · exact h16.resolve_right hc
  · exact h17.resolve_right hc
  · exact h18.resolve_right hc
  · exact h19.resolve_right hc
  · exact h20.resolve_right hc
  · exact h21.resolve_right hc
  · exact h22.resolve_right hc
  · exact h23.resolve_right hc
  · exact h24.resolve_right hc
  · exact h25.resolve_right hc
  · exact h26.resolve_right hc
  · exact h27.resolve_right hc
  · exact h28.resolve_right hc
  · exact h29.resolve_right hc

theorem set_mem_after (h : Changes S W d e) (hS : within [.mem] S = true) {x : List Host.Cell} (hm : e.Canonical → Memory.wf x = true) :
    Changes S W d { e with mem := x } :=
  mk_after h (.inr (within_mem hS (List.mem_singleton.2 rfl))) (.inl rfl) (.inl rfl) (.inl rfl) (.inl rfl) (.inl rfl) (.inl rfl)
    (.inl rfl) (.inl rfl) (.inl rfl) (.inl rfl) (.inl rfl) (.inl rfl) (.inl rfl) (.inl rfl) (.inl rfl) (.inl rfl) (.inl rfl)
    (.inl rfl) (.inl rfl) (.inl rfl) (.inl rfl) (.inl rfl) (.inl rfl) (.inl rfl) (.inl rfl) (.inl rfl) (.inl rfl) (.inl rfl) hm (fun k => k.shadow)

theorem set_time_after (h : Changes S W d e) (hS : within [.time] S = true) {x : Nat} :
    Changes S W d { e with time := x } :=
  mk_after h (.inl rfl) (.inr (within_mem hS (List.mem_singleton.2 rfl))) (.inl rfl) (.inl rfl) (.inl rfl) (.inl rfl) (.inl rfl)
    (.inl rfl) (.inl rfl) (.inl rfl) (.inl rfl) (.inl rfl) (.inl rfl) (.inl rfl) (.inl rfl) (.inl rfl) (.inl rfl) (.inl rfl)
    (.inl rfl) (.inl rfl) (.inl rfl) (.inl rfl) (.inl rfl) (.inl rfl) (.inl rfl) (.inl rfl) (.inl rfl) (.inl rfl) (.inl rfl) (fun k => k.mem) (fun k => k.shadow)

theorem set_power_after (h : Changes S W d e) (hS : within [.power] S = true) {x : PowerSt} :
    Changes S W d { e with power := x } :=
  mk_after h (.inl rfl) (.inl rfl) (.inr (within_mem hS (List.mem_singleton.2 rfl))) (.inl rfl) (.inl rfl) (.inl rfl) (.inl rfl)
    (.inl rfl) (.inl rfl) (.inl rfl) (.inl rfl) (.inl rfl) (.inl rfl) (.inl rfl) (.inl rfl) (.inl rfl) (.inl rfl) (.inl rfl)
    (.inl rfl) (.inl rfl) (.inl rfl) (.inl rfl) (.inl rfl) (.inl rfl) (.inl rfl) (.inl rfl) (.inl rfl) (.inl rfl) (.inl rfl) (fun k => k.mem) (fun k => k.shadow)

theorem set_boot_after (h : Changes S W d e) (hS : within [.boot] S = true) {x : BootSt} :
    Changes S W d { e with boot := x } :=
  mk_after h (.inl rfl) (.inl rfl) (.inl rfl) (.inr (within_mem hS (List.mem_singleton.2 rfl))) (.inl rfl) (.inl rfl) (.inl rfl)
    (.inl rfl) (.inl rfl) (.inl rfl) (.inl rfl) (.inl rfl) (.inl rfl) (.inl rfl) (.inl rfl) (.inl rfl) (.inl rfl) (.inl rfl)
    (.inl rfl) (.inl rfl) (.inl rfl) (.inl rfl) (.inl rfl) (.inl rfl) (.inl rfl) (.inl rfl) (.inl rfl) (.inl rfl) (.inl rfl) (fun k => k.mem) (fun k => k.shadow)

theorem set_chans_after (h : Changes S W d e) (hS : within [.chans] S = true) {x : Vector Chan 24} :
    Changes S W d { e with chans := x } :=
  mk_after h (.inl rfl) (.inl rfl) (.inl rfl) (.inl rfl) (.inr (within_mem hS (List.mem_singleton.2 rfl))) (.inl rfl) (.inl rfl)
    (.inl rfl) (.inl rfl) (.inl rfl) (.inl rfl) (.inl rfl) (.inl rfl) (.inl rfl) (.inl rfl) (.inl rfl) (.inl rfl) (.inl rfl)
    (.inl rfl) (.inl rfl) (.inl rfl) (.inl rfl) (.inl rfl) (.inl rfl) (.inl rfl) (.inl rfl) (.inl rfl) (.inl rfl) (.inl rfl) (fun k => k.mem) (fun k => k.shadow)

theorem set_ts_after (h : Changes S W d e) (hS : within [.ts] S = true) {x : TsSt} :
    Changes S W d { e with ts := x } :=
  mk_after h (.inl rfl) (.inl rfl) (.inl rfl) (.inl rfl) (.inl rfl) (.inr (within_mem hS (List.mem_singleton.2 rfl))) (.inl rfl)
    (.inl rfl) (.inl rfl) (.inl rfl) (.inl rfl) (.inl rfl) (.inl rfl) (.inl rfl) (.inl rfl) (.inl rfl) (.inl rfl) (.inl rfl)
    (.inl rfl) (.inl rfl) (.inl rfl) (.inl rfl) (.inl rfl) (.inl rfl) (.inl rfl) (.inl rfl) (.inl rfl) (.inl rfl) (.inl rfl) (fun k => k.mem) (fun k => k.shadow)

theorem set_lq_after (h : Changes S W d e) (hS : within [.lq] S = true) {x : Vector Queue 32} :
    Changes S W d { e with lq := x } :=
  mk_after h (.inl rfl) (.inl rfl) (.inl rfl) (.inl rfl) (.inl rfl) (.inl rfl) (.inr (within_mem hS (List.mem_singleton.2 rfl)))
    (.inl rfl) (.inl rfl) (.inl rfl) (.inl rfl) (.inl rfl) (.inl rfl) (.inl rfl) (.inl rfl) (.inl rfl) (.inl rfl) (.inl rfl)
    (.inl rfl) (.inl rfl) (.inl rfl) (.inl rfl) (.inl rfl) (.inl rfl) (.inl rfl) (.inl rfl) (.inl rfl) (.inl rfl) (.inl rfl) (fun k => k.mem) (fun k => k.shadow)

theorem set_out_after (h : Changes S W d e) (hS : within [.out] S = true) {x : List Word} :
    Changes S W d { e with out := x } :=
  mk_after h (.inl rfl) (.inl rfl) (.inl rfl) (.inl rfl) (.inl rfl) (.inl rfl) (.inl rfl) (.inr (within_mem hS (List.mem_singleton.2
    rfl))) (.inl rfl) (.inl rfl) (.inl rfl) (.inl rfl) (.inl rfl) (.inl rfl) (.inl rfl) (.inl rfl) (.inl rfl) (.inl rfl)
    (.inl rfl) (.inl rfl) (.inl rfl) (.inl rfl) (.inl rfl) (.inl rfl) (.inl rfl) (.inl rfl) (.inl rfl) (.inl rfl) (.inl rfl) (fun k => k.mem) (fun k => k.shadow)

theorem set_freeCtr_after (h : Changes S W d e) (hS : within [.freeCtr] S = true) {x : Nat} :
    Changes S W d { e with freeCtr := x } :=
  mk_after h (.inl rfl) (.inl rfl) (.inl rfl) (.inl rfl) (.inl rfl) (.inl rfl) (.inl rfl) (.inl rfl) (.inr (within_mem hS
    (List.mem_singleton.2 rfl))) (.inl rfl) (.inl rfl) (.inl rfl) (.inl rfl) (.inl rfl) (.inl rfl) (.inl rfl) (.inl rfl)
    (.inl rfl) (.inl rfl) (.inl rfl) (.inl rfl) (.inl rfl) (.inl rfl) (.inl rfl) (.inl rfl) (.inl rfl) (.inl rfl) (.inl rfl)
    (.inl rfl) (fun k => k.mem) (fun k => k.shadow)

theorem set_clk_after (h : Changes S W d e) (hS : within [.clk] S = true) {x : ClockSt} :
    Changes S W d { e with clk := x } :=
  mk_after h (.inl rfl) (.inl rfl) (.inl rfl) (.inl rfl) (.inl rfl) (.inl rfl) (.inl rfl) (.inl rfl) (.inl rfl) (.inr (within_mem hS
    (List.mem_singleton.2 rfl))) (.inl rfl) (.inl rfl) (.inl rfl) (.inl rfl) (.inl rfl) (.inl rfl) (.inl rfl) (.inl rfl)
    (.inl rfl) (.inl rfl) (.inl rfl) (.inl rfl) (.inl rfl) (.inl rfl) (.inl rfl) (.inl rfl) (.inl rfl) (.inl rfl) (.inl rfl) (fun k => k.mem) (fun k => k.shadow)

theorem set_cy_after (h : Changes S W d e) (hS : within [.cy] S = true) {x : CySt} :
    Changes S W d { e with cy := x } :=
  mk_after h (.inl rfl) (.inl rfl) (.inl rfl) (.inl rfl) (.inl rfl) (.inl rfl) (.inl rfl) (.inl rfl) (.inl rfl) (.inl rfl) (.inr
    (within_mem hS (List.mem_singleton.2 rfl))) (.inl rfl) (.inl rfl) (.inl rfl) (.inl rfl) (.inl rfl) (.inl rfl) (.inl rfl)
    (.inl rfl) (.inl rfl) (.inl rfl) (.inl rfl) (.inl rfl) (.inl rfl) (.inl rfl) (.inl rfl) (.inl rfl) (.inl rfl) (.inl rfl) (fun k => k.mem) (fun k => k.shadow)

theorem set_fuses_after (h : Changes S W d e) (hS : within [.fuses] S = true) {x : Fuses} :
    Changes S W d { e with fuses := x } :=
  mk_after h (.inl rfl) (.inl rfl) (.inl rfl) (.inl rfl) (.inl rfl) (.inl rfl) (.inl rfl) (.inl rfl) (.inl rfl) (.inl rfl) (.inl rfl)
    (.inr (within_mem hS (List.mem_singleton.2 rfl))) (.inl rfl) (.inl rfl) (.inl rfl) (.inl rfl) (.inl rfl) (.inl rfl)
    (.inl rfl) (.inl rfl) (.inl rfl) (.inl rfl) (.inl rfl) (.inl rfl) (.inl rfl) (.inl rfl) (.inl rfl) (.inl rfl) (.inl rfl) (fun k => k.mem) (fun k => k.shadow)

theorem set_epoch_after (h : Changes S W d e) (hS : within [.epoch] S = true) {x : Nat} :
    Changes S W d { e with epoch := x } :=
  mk_after h (.inl rfl) (.inl rfl) (.inl rfl) (.inl rfl) (.inl rfl) (.inl rfl) (.inl rfl) (.inl rfl) (.inl rfl) (.inl rfl) (.inl rfl)
    (.inl rfl) (.inr (within_mem hS (List.mem_singleton.2 rfl))) (.inl rfl) (.inl rfl) (.inl rfl) (.inl rfl) (.inl rfl)
    (.inl rfl) (.inl rfl) (.inl rfl) (.inl rfl) (.inl rfl) (.inl rfl) (.inl rfl) (.inl rfl) (.inl rfl) (.inl rfl) (.inl rfl) (fun k => k.mem) (fun k => k.shadow)

theorem set_hawserStatus_after (h : Changes S W d e) (hS : within [.hawserStatus] S = true) {x : Nat} :
    Changes S W d { e with hawserStatus := x } :=
  mk_after h (.inl rfl) (.inl rfl) (.inl rfl) (.inl rfl) (.inl rfl) (.inl rfl) (.inl rfl) (.inl rfl) (.inl rfl) (.inl rfl) (.inl rfl)
    (.inl rfl) (.inl rfl) (.inr (within_mem hS (List.mem_singleton.2 rfl))) (.inl rfl) (.inl rfl) (.inl rfl) (.inl rfl)
    (.inl rfl) (.inl rfl) (.inl rfl) (.inl rfl) (.inl rfl) (.inl rfl) (.inl rfl) (.inl rfl) (.inl rfl) (.inl rfl) (.inl rfl) (fun k => k.mem) (fun k => k.shadow)

theorem set_ce_after (h : Changes S W d e) (hS : within [.ce] S = true) {x : Vector CeInst 8} :
    Changes S W d { e with ce := x } :=
  mk_after h (.inl rfl) (.inl rfl) (.inl rfl) (.inl rfl) (.inl rfl) (.inl rfl) (.inl rfl) (.inl rfl) (.inl rfl) (.inl rfl) (.inl rfl)
    (.inl rfl) (.inl rfl) (.inl rfl) (.inr (within_mem hS (List.mem_singleton.2 rfl))) (.inl rfl) (.inl rfl) (.inl rfl)
    (.inl rfl) (.inl rfl) (.inl rfl) (.inl rfl) (.inl rfl) (.inl rfl) (.inl rfl) (.inl rfl) (.inl rfl) (.inl rfl) (.inl rfl) (fun k => k.mem) (fun k => k.shadow)

theorem set_shadow_after (h : Changes S W d e) (hS : within [.shadow] S = true) {x : List Host.Cell} (hm : e.Canonical → Memory.wf x = true) :
    Changes S W d { e with shadow := x } :=
  mk_after h (.inl rfl) (.inl rfl) (.inl rfl) (.inl rfl) (.inl rfl) (.inl rfl) (.inl rfl) (.inl rfl) (.inl rfl) (.inl rfl) (.inl rfl)
    (.inl rfl) (.inl rfl) (.inl rfl) (.inl rfl) (.inr (within_mem hS (List.mem_singleton.2 rfl))) (.inl rfl) (.inl rfl)
    (.inl rfl) (.inl rfl) (.inl rfl) (.inl rfl) (.inl rfl) (.inl rfl) (.inl rfl) (.inl rfl) (.inl rfl) (.inl rfl) (.inl rfl) (fun k => k.mem) hm

theorem set_jtagStatus_after (h : Changes S W d e) (hS : within [.jtagStatus] S = true) {x : Nat} :
    Changes S W d { e with jtagStatus := x } :=
  mk_after h (.inl rfl) (.inl rfl) (.inl rfl) (.inl rfl) (.inl rfl) (.inl rfl) (.inl rfl) (.inl rfl) (.inl rfl) (.inl rfl) (.inl rfl)
    (.inl rfl) (.inl rfl) (.inl rfl) (.inl rfl) (.inl rfl) (.inr (within_mem hS (List.mem_singleton.2 rfl))) (.inl rfl)
    (.inl rfl) (.inl rfl) (.inl rfl) (.inl rfl) (.inl rfl) (.inl rfl) (.inl rfl) (.inl rfl) (.inl rfl) (.inl rfl) (.inl rfl) (fun k => k.mem) (fun k => k.shadow)

theorem set_sv_after (h : Changes S W d e) (hS : within [.sv] S = true) {x : SvSt} :
    Changes S W d { e with sv := x } :=
  mk_after h (.inl rfl) (.inl rfl) (.inl rfl) (.inl rfl) (.inl rfl) (.inl rfl) (.inl rfl) (.inl rfl) (.inl rfl) (.inl rfl) (.inl rfl)
    (.inl rfl) (.inl rfl) (.inl rfl) (.inl rfl) (.inl rfl) (.inl rfl) (.inr (within_mem hS (List.mem_singleton.2 rfl)))
    (.inl rfl) (.inl rfl) (.inl rfl) (.inl rfl) (.inl rfl) (.inl rfl) (.inl rfl) (.inl rfl) (.inl rfl) (.inl rfl) (.inl rfl) (fun k => k.mem) (fun k => k.shadow)

theorem set_tc_after (h : Changes S W d e) (hS : within [.tc] S = true) {x : TcSt} :
    Changes S W d { e with tc := x } :=
  mk_after h (.inl rfl) (.inl rfl) (.inl rfl) (.inl rfl) (.inl rfl) (.inl rfl) (.inl rfl) (.inl rfl) (.inl rfl) (.inl rfl) (.inl rfl)
    (.inl rfl) (.inl rfl) (.inl rfl) (.inl rfl) (.inl rfl) (.inl rfl) (.inl rfl) (.inr (within_mem hS (List.mem_singleton.2
    rfl))) (.inl rfl) (.inl rfl) (.inl rfl) (.inl rfl) (.inl rfl) (.inl rfl) (.inl rfl) (.inl rfl) (.inl rfl) (.inl rfl) (fun k => k.mem) (fun k => k.shadow)

theorem set_stage_after (h : Changes S W d e) (hS : within [.stage] S = true) {x : List (Path × Nat × Word)} :
    Changes S W d { e with stage := x } :=
  mk_after h (.inl rfl) (.inl rfl) (.inl rfl) (.inl rfl) (.inl rfl) (.inl rfl) (.inl rfl) (.inl rfl) (.inl rfl) (.inl rfl) (.inl rfl)
    (.inl rfl) (.inl rfl) (.inl rfl) (.inl rfl) (.inl rfl) (.inl rfl) (.inl rfl) (.inl rfl) (.inr (within_mem hS
    (List.mem_singleton.2 rfl))) (.inl rfl) (.inl rfl) (.inl rfl) (.inl rfl) (.inl rfl) (.inl rfl) (.inl rfl) (.inl rfl)
    (.inl rfl) (fun k => k.mem) (fun k => k.shadow)

theorem set_latch_after (h : Changes S W d e) (hS : within [.latch] S = true) {x : List Latch} :
    Changes S W d { e with latch := x } :=
  mk_after h (.inl rfl) (.inl rfl) (.inl rfl) (.inl rfl) (.inl rfl) (.inl rfl) (.inl rfl) (.inl rfl) (.inl rfl) (.inl rfl) (.inl rfl)
    (.inl rfl) (.inl rfl) (.inl rfl) (.inl rfl) (.inl rfl) (.inl rfl) (.inl rfl) (.inl rfl) (.inl rfl) (.inr (within_mem hS
    (List.mem_singleton.2 rfl))) (.inl rfl) (.inl rfl) (.inl rfl) (.inl rfl) (.inl rfl) (.inl rfl) (.inl rfl) (.inl rfl) (fun k => k.mem) (fun k => k.shadow)

theorem set_dramWait_after (h : Changes S W d e) (hS : within [.dramWait] S = true) {x : List DramWait} :
    Changes S W d { e with dramWait := x } :=
  mk_after h (.inl rfl) (.inl rfl) (.inl rfl) (.inl rfl) (.inl rfl) (.inl rfl) (.inl rfl) (.inl rfl) (.inl rfl) (.inl rfl) (.inl rfl)
    (.inl rfl) (.inl rfl) (.inl rfl) (.inl rfl) (.inl rfl) (.inl rfl) (.inl rfl) (.inl rfl) (.inl rfl) (.inl rfl) (.inr
    (within_mem hS (List.mem_singleton.2 rfl))) (.inl rfl) (.inl rfl) (.inl rfl) (.inl rfl) (.inl rfl) (.inl rfl) (.inl rfl) (fun k => k.mem) (fun k => k.shadow)

theorem set_gw_after (h : Changes S W d e) (hS : within [.gw] S = true) {x : Vector GwPort 2} :
    Changes S W d { e with gw := x } :=
  mk_after h (.inl rfl) (.inl rfl) (.inl rfl) (.inl rfl) (.inl rfl) (.inl rfl) (.inl rfl) (.inl rfl) (.inl rfl) (.inl rfl) (.inl rfl)
    (.inl rfl) (.inl rfl) (.inl rfl) (.inl rfl) (.inl rfl) (.inl rfl) (.inl rfl) (.inl rfl) (.inl rfl) (.inl rfl) (.inl rfl)
    (.inr (within_mem hS (List.mem_singleton.2 rfl))) (.inl rfl) (.inl rfl) (.inl rfl) (.inl rfl) (.inl rfl) (.inl rfl) (fun k => k.mem) (fun k => k.shadow)

theorem set_hs_after (h : Changes S W d e) (hS : within [.hs] S = true) {x : HsSt} :
    Changes S W d { e with hs := x } :=
  mk_after h (.inl rfl) (.inl rfl) (.inl rfl) (.inl rfl) (.inl rfl) (.inl rfl) (.inl rfl) (.inl rfl) (.inl rfl) (.inl rfl) (.inl rfl)
    (.inl rfl) (.inl rfl) (.inl rfl) (.inl rfl) (.inl rfl) (.inl rfl) (.inl rfl) (.inl rfl) (.inl rfl) (.inl rfl) (.inl rfl)
    (.inl rfl) (.inr (within_mem hS (List.mem_singleton.2 rfl))) (.inl rfl) (.inl rfl) (.inl rfl) (.inl rfl) (.inl rfl) (fun k => k.mem) (fun k => k.shadow)

theorem set_en_after (h : Changes S W d e) (hS : within [.en] S = true) {x : Vector EnPort 2} :
    Changes S W d { e with en := x } :=
  mk_after h (.inl rfl) (.inl rfl) (.inl rfl) (.inl rfl) (.inl rfl) (.inl rfl) (.inl rfl) (.inl rfl) (.inl rfl) (.inl rfl) (.inl rfl)
    (.inl rfl) (.inl rfl) (.inl rfl) (.inl rfl) (.inl rfl) (.inl rfl) (.inl rfl) (.inl rfl) (.inl rfl) (.inl rfl) (.inl rfl)
    (.inl rfl) (.inl rfl) (.inr (within_mem hS (List.mem_singleton.2 rfl))) (.inl rfl) (.inl rfl) (.inl rfl) (.inl rfl) (fun k => k.mem) (fun k => k.shadow)

theorem set_gpio_after (h : Changes S W d e) (hS : within [.gpio] S = true) {x : Nat} :
    Changes S W d { e with gpio := x } :=
  mk_after h (.inl rfl) (.inl rfl) (.inl rfl) (.inl rfl) (.inl rfl) (.inl rfl) (.inl rfl) (.inl rfl) (.inl rfl) (.inl rfl) (.inl rfl)
    (.inl rfl) (.inl rfl) (.inl rfl) (.inl rfl) (.inl rfl) (.inl rfl) (.inl rfl) (.inl rfl) (.inl rfl) (.inl rfl) (.inl rfl)
    (.inl rfl) (.inl rfl) (.inl rfl) (.inr (within_mem hS (List.mem_singleton.2 rfl))) (.inl rfl) (.inl rfl) (.inl rfl) (fun k => k.mem) (fun k => k.shadow)

theorem set_cl_after (h : Changes S W d e) (hS : within [.cl] S = true) {x : ClSt} :
    Changes S W d { e with cl := x } :=
  mk_after h (.inl rfl) (.inl rfl) (.inl rfl) (.inl rfl) (.inl rfl) (.inl rfl) (.inl rfl) (.inl rfl) (.inl rfl) (.inl rfl) (.inl rfl)
    (.inl rfl) (.inl rfl) (.inl rfl) (.inl rfl) (.inl rfl) (.inl rfl) (.inl rfl) (.inl rfl) (.inl rfl) (.inl rfl) (.inl rfl)
    (.inl rfl) (.inl rfl) (.inl rfl) (.inl rfl) (.inr (within_mem hS (List.mem_singleton.2 rfl))) (.inl rfl) (.inl rfl) (fun k => k.mem) (fun k => k.shadow)

theorem set_fd_after (h : Changes S W d e) (hS : within [.fd] S = true) {x : FdSt} :
    Changes S W d { e with fd := x } :=
  mk_after h (.inl rfl) (.inl rfl) (.inl rfl) (.inl rfl) (.inl rfl) (.inl rfl) (.inl rfl) (.inl rfl) (.inl rfl) (.inl rfl) (.inl rfl)
    (.inl rfl) (.inl rfl) (.inl rfl) (.inl rfl) (.inl rfl) (.inl rfl) (.inl rfl) (.inl rfl) (.inl rfl) (.inl rfl) (.inl rfl)
    (.inl rfl) (.inl rfl) (.inl rfl) (.inl rfl) (.inl rfl) (.inr (within_mem hS (List.mem_singleton.2 rfl))) (.inl rfl) (fun k => k.mem) (fun k => k.shadow)

theorem set_pilotFault_after (h : Changes S W d e) (hS : within [.pilotFault] S = true) {x : Option (Bool × Nat)} :
    Changes S W d { e with pilotFault := x } :=
  mk_after h (.inl rfl) (.inl rfl) (.inl rfl) (.inl rfl) (.inl rfl) (.inl rfl) (.inl rfl) (.inl rfl) (.inl rfl) (.inl rfl) (.inl rfl)
    (.inl rfl) (.inl rfl) (.inl rfl) (.inl rfl) (.inl rfl) (.inl rfl) (.inl rfl) (.inl rfl) (.inl rfl) (.inl rfl) (.inl rfl)
    (.inl rfl) (.inl rfl) (.inl rfl) (.inl rfl) (.inl rfl) (.inl rfl) (.inr (within_mem hS (List.mem_singleton.2 rfl))) (fun k => k.mem) (fun k => k.shadow)

theorem ite_after {p : Prop} {_ : Decidable p} {a b : Dev} (ha : p → Changes S W d a) (hb : ¬ p → Changes S W d b) :
    Changes S W d (if p then a else b) := by
  by_cases h : p
  · rw [if_pos h]; exact ha h
  · rw [if_neg h]; exact hb h

theorem wr_after (h : Changes S W d e) (hS : within [.regs] S = true) {f : Fld} (hW : Rows W f.bit) (v : Nat) :
    Changes S W d (e.wr f v) := by
  refine h.trans ⟨fun c hc => ?_, fun b r hb => ?_, fun k => ⟨k.mem, k.shadow, RegFile.wf_put _ _ _ k.regs⟩⟩
  · cases c <;> first | rfl | exact absurd (within_mem hS (List.mem_singleton.2 rfl)) hc
  · exact RegFile.get_put_ne _ _ _ _ fun x => hb (by rw [x]; exact hW)

theorem raise_after (h : Changes S W d e) (hS : within [.regs] S = true) {f : Fld} (hW : Rows W f.bit) :
    Changes S W d (e.raise f) := wr_after h hS hW _

theorem lower_after (h : Changes S W d e) (hS : within [.regs] S = true) {f : Fld} (hW : Rows W f.bit) :
    Changes S W d (e.lower f) := wr_after h hS hW _

theorem flag_after (h : Changes S W d e) (hS : within [.regs] S = true) {f : Fld} (hW : Rows W f.bit) (c : Bool) :
    Changes S W d (e.flag f c) := wr_after h hS hW _

theorem raiseIf_after (h : Changes S W d e) (hS : within [.regs] S = true) {f : Fld} (hW : Rows W f.bit) (c : Bool) :
    Changes S W d (e.raiseIf c f) := by
  unfold Dev.raiseIf; exact ite_after (fun _ => raise_after h hS hW) fun _ => h

theorem count_after (h : Changes S W d e) (hS : within [.regs] S = true) {f : Fld} (hW : Rows W f.bit) (k : Nat) :
    Changes S W d (e.count f k) := wr_after h hS hW _

theorem countSat_after (h : Changes S W d e) (hS : within [.regs] S = true) {f : Fld} (hW : Rows W f.bit) (k : Nat) :
    Changes S W d (e.countSat f k) := wr_after h hS hW _

theorem setBit_after (h : Changes S W d e) (hS : within [.regs] S = true) {f : Fld} (hW : Rows W f.bit) (i : Nat) :
    Changes S W d (e.setBit f i) := wr_after h hS hW _

theorem clearBit_after (h : Changes S W d e) (hS : within [.regs] S = true) {f : Fld} (hW : Rows W f.bit) (i : Nat) :
    Changes S W d (e.clearBit f i) := wr_after h hS hW _

theorem putBit_after (h : Changes S W d e) (hS : within [.regs] S = true) {f : Fld} (hW : Rows W f.bit) (i : Nat) (c : Bool) :
    Changes S W d (e.putBit f i c) := by
  unfold Dev.putBit; exact ite_after (fun _ => setBit_after h hS hW i) fun _ => clearBit_after h hS hW i

theorem when_after (h : Changes S W d e) (c : Bool) {f : Dev → Dev} (hf : ∀ e, Changes S W d e → Changes S W d (f e)) :
    Changes S W d (e.when c f) := by
  unfold Dev.when; exact ite_after (fun _ => hf _ h) fun _ => h

theorem foldl_after {α : Type} (h : Changes S W d e) (xs : List α) {f : Dev → α → Dev}
    (hf : ∀ x e, Changes S W d e → Changes S W d (f e x)) : Changes S W d (xs.foldl f e) := by
  induction xs generalizing e with
  | nil => exact h
  | cons x xs ih => exact ih (hf x e h)

theorem each_after {α : Type} (h : Changes S W d e) (xs : List α) {f : α → Dev → Dev}
    (hf : ∀ x e, Changes S W d e → Changes S W d (f x e)) : Changes S W d (e.each xs f) := foldl_after h xs hf

theorem free_after (h : Changes S W d e) (hS : within [.freeCtr] S = true) : Changes S W d e.free.2 := by
  refine h.trans ⟨fun c hc => ?_, fun _ _ _ => rfl, fun k => ⟨k.mem, k.shadow, k.regs⟩⟩
  cases c <;> first | rfl | exact absurd (within_mem hS (List.mem_singleton.2 rfl)) hc

theorem blockBase_mem (a : Nat) : blockBase a ∈ blockBases := by
  have ch : ∀ n, n < 24 → 0x40000 + n * 0x2000 ∈ blockBases := fun n hn =>
    List.mem_append_right _ (List.mem_map.2 ⟨n, List.mem_range.2 hn, rfl⟩)
  have lt : ∀ {x y : Nat}, (decide (x ≤ a) && decide (a < y)) = true → x ≤ a ∧ a < y := fun h => by
    rw [Bool.and_eq_true] at h; exact ⟨of_decide_eq_true h.1, of_decide_eq_true h.2⟩
  have ite : ∀ {p : Prop} [Decidable p] {x y : Nat}, (p → x ∈ blockBases) → (¬ p → y ∈ blockBases) →
      (if p then x else y) ∈ blockBases := fun {p} _ {x y} hx hy => by
    by_cases h : p
    · rw [if_pos h]; exact hx h
    · rw [if_neg h]; exact hy h
  delta blockBase
  refine ite (fun _ => by decide) fun _ => ite (fun _ => by decide) fun _ => ite (fun _ => by decide) fun _ =>
    ite (fun _ => by decide) fun _ => ite (fun _ => by decide) fun _ => ite (fun h => ?_) fun _ => ite (fun h => ?_) fun _ =>
    ite (fun _ => by decide) fun _ => ite (fun _ => by decide) fun _ => ite (fun _ => by decide) fun _ =>
    ite (fun _ => by decide) fun _ => ite (fun _ => by decide) fun _ => ite (fun _ => by decide) fun _ =>
    ite (fun h => ?_) fun _ => ite (fun _ => by decide) fun _ => by decide
  · have := lt h
    have : a - (a - 0x5000) % 0x800 = 0x5000 ∨ a - (a - 0x5000) % 0x800 = 0x5800 := by omega
    rcases this with h | h <;> rw [h] <;> decide
  · have := lt h
    have : a - (a - 0x6000) % 0x800 = 0x6000 ∨ a - (a - 0x6000) % 0x800 = 0x6800 := by omega
    rcases this with h | h <;> rw [h] <;> decide
  · have := lt h
    have := ch ((a - 0x40000) / 0x2000) (by omega)
    rwa [show a - (a - 0x40000) % 0x2000 = 0x40000 + (a - 0x40000) / 0x2000 * 0x2000 by omega]

theorem rows_errors (hW : covers [.errors] W = true) {x b : Nat} (hx : x ∈ blockBases)
    (hb : b ∈ [(x + 4) * 8, (x + 4) * 8 + 1, (x + 4) * 8 + 2, (x + 8) * 8, (x + 8) * 8 + 28, (x + 8) * 8 + 29]) : Rows W b :=
  covers_rows hW ⟨.errors, List.mem_singleton.2 rfl, x, hx, hb⟩

theorem accessError_after (h : Changes S W d e) (hS : within [.regs] S = true) (hW : covers [.errors] W = true) {b : Nat}
    (hb : b ∈ blockBases) (p : Path) (write : Bool) (addr : Nat) (x : AccErr) : Changes S W d (e.accessError b p write addr x) := by
  unfold Dev.accessError
  refine raiseIf_after (raiseIf_after (raiseIf_after (when_after h _ fun e h => ?_) hS ?_ _) hS ?_ _) hS ?_ _
  · refine wr_after (flag_after (wr_after h hS ?_ _) hS ?_ _) hS ?_ _
    · exact rows_errors hW hb (by simp)
    · exact rows_errors hW hb (by simp)
    · exact rows_errors hW hb (by simp)
  · exact rows_errors hW hb (by simp)
  · exact rows_errors hW hb (by simp)
  · exact rows_errors hW hb (by simp)

theorem errRange_after (h : Changes S W d e) (hS : within [.regs] S = true) (hW : covers [.errors] W = true) (p : Path) (a : Nat) :
    Changes S W d (e.errRange p a) := accessError_after h hS hW (blockBase_mem a) ..

theorem errLocked_after (h : Changes S W d e) (hS : within [.regs] S = true) (hW : covers [.errors] W = true) (p : Path) (a : Nat) :
    Changes S W d (e.errLocked p a) := accessError_after h hS hW (blockBase_mem a) ..

theorem errWidth_after (h : Changes S W d e) (hS : within [.regs] S = true) (hW : covers [.errors] W = true) (p : Path) (a : Nat) :
    Changes S W d (e.errWidth p a) := accessError_after h hS hW (blockBase_mem a) ..

/-- A command leaves the queue alone and changes what its effect changes. -/
theorem act_changes {s t : State} {f : Dev → Dev} (hS : within [.out] S = true) (h : s.act f = .next t)
    (hf : ∀ e, Changes S W s.dev e → Changes S W s.dev (f e)) : t.pending = s.pending ∧ Changes S W s.dev t.dev := by
  unfold State.act at h
  cases h
  exact ⟨rfl, hf _ (set_out_after (Changes.refl S W s.dev) hS)⟩

end

end Sys2Proof.Machine
end

