-- ==== Sys2Proof/Laws/ChangesTime.lean ====
section
/-!
SUPPORT. What every operation of Machine/Time can change.
-/

set_option Elab.async false
set_option linter.all false

namespace Sys2Proof.Machine

section
variable {S : List Part} {W : List Span} {d e : Dev}

theorem Dev.elapse_after (h : Changes S W d e) (hS : within [.regs, .time, .clk] S = true) (hW : covers [.one 98752] W = true) (n : Nat) :
    Changes S W d (Dev.elapse e n) := by
  unfold Dev.elapse
  try dsimp only
  repeat' first
    | (with_reducible assumption)
    | (with_reducible refine ite_after ?_ ?_)
    | (with_reducible apply countSat_after)
    | (intro _; try dsimp only)
    | exact within_trans (by decide) hS
    | exact covers_trans (by decide) hW
    | exact rows_one hW (by decide)
    | split
    | (with_reducible apply set_time_after)
    | (with_reducible apply set_clk_after)
    | ((with_reducible show Changes _ _ _ (Dev.mk _ _ _ _ _ _ _ _ _ _ _ _ _ _ _ _ _ _ _ _ _ _ _ _ _ _ _ _ _ _)); refine mk_after ?_ (.inl rfl) (.inr (within_mem hS (by decide))) (.inl rfl) (.inl rfl) (.inl rfl) (.inl rfl) (.inl rfl) (.inl rfl) (.inl rfl) (.inr (within_mem hS (by decide))) (.inl rfl) (.inl rfl) (.inl rfl) (.inl rfl) (.inl rfl) (.inl rfl) (.inl rfl) (.inl rfl) (.inl rfl) (.inl rfl) (.inl rfl) (.inl rfl) (.inl rfl) (.inl rfl) (.inl rfl) (.inl rfl) (.inl rfl) (.inl rfl) (.inl rfl) (fun can => can.mem) (fun can => can.shadow))

theorem Dev.tick_after (h : Changes S W d e) (hS : within [.regs, .time, .clk] S = true) (hW : covers [.one 98752] W = true) :
    Changes S W d (Dev.tick e) := by
  unfold Dev.tick
  try dsimp only
  repeat' first
    | (with_reducible assumption)
    | (with_reducible refine ite_after ?_ ?_)
    | (with_reducible apply Dev.elapse_after)
    | (intro _; try dsimp only)
    | exact within_trans (by decide) hS
    | exact covers_trans (by decide) hW
    | exact rows_one hW (by decide)
    | split

theorem Dev.reach_after (h : Changes S W d e) (hS : within [.regs, .time, .clk] S = true) (hW : covers [.one 98752] W = true) (ns : Nat) :
    Changes S W d (Dev.reach e ns) := by
  unfold Dev.reach
  try dsimp only
  repeat' first
    | (with_reducible assumption)
    | (with_reducible refine ite_after ?_ ?_)
    | (with_reducible apply Dev.elapse_after)
    | (intro _; try dsimp only)
    | exact within_trans (by decide) hS
    | exact covers_trans (by decide) hW
    | exact rows_one hW (by decide)
    | split

end

end Sys2Proof.Machine
end

