-- ==== Sys2Proof/Laws/ChangesPaths.lean ====
section
/-!
SUPPORT. What every operation of Machine/Paths can change.
-/

set_option Elab.async false
set_option linter.all false

namespace Sys2Proof.Machine

section
variable {S : List Part} {W : List Span} {d e : Dev}

theorem Dev.hole_after (h : Changes S W d e) (hS : within [.regs, .hawserStatus, .jtagStatus] S = true) (hW : covers [.row 0x5014 2 0x800 1] W = true) (p : Path) :
    Changes S W d (Dev.hole e p) := by
  unfold Dev.hole
  try dsimp only
  repeat' first
    | (with_reducible assumption)
    | (with_reducible refine ite_after ?_ ?_)
    | (with_reducible apply raise_after)
    | (intro _; try dsimp only)
    | exact within_trans (by decide) hS
    | exact covers_trans (by decide) hW
    | exact rows_row hW (by decide) (by decide)
    | split
    | (with_reducible apply set_hawserStatus_after)
    | (with_reducible apply set_jtagStatus_after)
    | ((with_reducible show Changes _ _ _ (Dev.mk _ _ _ _ _ _ _ _ _ _ _ _ _ _ _ _ _ _ _ _ _ _ _ _ _ _ _ _ _ _)); refine mk_after ?_ (.inl rfl) (.inl rfl) (.inl rfl) (.inl rfl) (.inl rfl) (.inl rfl) (.inl rfl) (.inl rfl) (.inl rfl) (.inl rfl) (.inl rfl) (.inl rfl) (.inl rfl) (.inr (within_mem hS (by decide))) (.inl rfl) (.inl rfl) (.inr (within_mem hS (by decide))) (.inl rfl) (.inl rfl) (.inl rfl) (.inl rfl) (.inl rfl) (.inl rfl) (.inl rfl) (.inl rfl) (.inl rfl) (.inl rfl) (.inl rfl) (.inl rfl) (fun can => can.mem) (fun can => can.shadow))

theorem Dev.pageEnd_after (h : Changes S W d e) (hS : within [.regs, .hawserStatus, .jtagStatus] S = true) (hW : covers [.row 0x5014 2 0x800 2] W = true) (p : Path) :
    Changes S W d (Dev.pageEnd e p) := by
  unfold Dev.pageEnd
  try dsimp only
  repeat' first
    | (with_reducible assumption)
    | (with_reducible refine ite_after ?_ ?_)
    | (with_reducible apply raise_after)
    | (intro _; try dsimp only)
    | exact within_trans (by decide) hS
    | exact covers_trans (by decide) hW
    | exact rows_row hW (by decide) (by decide)
    | split
    | (with_reducible apply set_hawserStatus_after)
    | (with_reducible apply set_jtagStatus_after)
    | ((with_reducible show Changes _ _ _ (Dev.mk _ _ _ _ _ _ _ _ _ _ _ _ _ _ _ _ _ _ _ _ _ _ _ _ _ _ _ _ _ _)); refine mk_after ?_ (.inl rfl) (.inl rfl) (.inl rfl) (.inl rfl) (.inl rfl) (.inl rfl) (.inl rfl) (.inl rfl) (.inl rfl) (.inl rfl) (.inl rfl) (.inl rfl) (.inl rfl) (.inr (within_mem hS (by decide))) (.inl rfl) (.inl rfl) (.inr (within_mem hS (by decide))) (.inl rfl) (.inl rfl) (.inl rfl) (.inl rfl) (.inl rfl) (.inl rfl) (.inl rfl) (.inl rfl) (.inl rfl) (.inl rfl) (.inl rfl) (.inl rfl) (fun can => can.mem) (fun can => can.shadow))

theorem Dev.give_after (h : Changes S W d e) (hS : within [.regs, .out, .hs] S = true) (hW : covers [.row 0x5014 2 0x800 24] W = true) (p : Path) (ws : List Word) :
    Changes S W d (Dev.give e p ws) := by
  unfold Dev.give
  try dsimp only
  repeat' first
    | (with_reducible assumption)
    | (with_reducible refine ite_after ?_ ?_)
    | (with_reducible apply wr_after)
    | (intro _; try dsimp only)
    | exact within_trans (by decide) hS
    | exact covers_trans (by decide) hW
    | exact rows_row hW (by decide) (by decide)
    | split
    | (with_reducible apply set_out_after)
    | (with_reducible apply set_hs_after)
    | ((with_reducible show Changes _ _ _ (Dev.mk _ _ _ _ _ _ _ _ _ _ _ _ _ _ _ _ _ _ _ _ _ _ _ _ _ _ _ _ _ _)); refine mk_after ?_ (.inl rfl) (.inl rfl) (.inl rfl) (.inl rfl) (.inl rfl) (.inl rfl) (.inl rfl) (.inr (within_mem hS (by decide))) (.inl rfl) (.inl rfl) (.inl rfl) (.inl rfl) (.inl rfl) (.inl rfl) (.inl rfl) (.inl rfl) (.inl rfl) (.inl rfl) (.inl rfl) (.inl rfl) (.inl rfl) (.inl rfl) (.inl rfl) (.inr (within_mem hS (by decide))) (.inl rfl) (.inl rfl) (.inl rfl) (.inl rfl) (.inl rfl) (fun can => can.mem) (fun can => can.shadow))

theorem frameCode_after (h : Changes S W d e) (hS : within [.regs] S = true) (hW : covers [.row 0x5014 2 0x800 24] W = true) (p : Path) (code : Nat) :
    Changes S W d (frameCode p code e) := by
  unfold frameCode
  try dsimp only
  repeat' first
    | (with_reducible assumption)
    | (with_reducible refine ite_after ?_ ?_)
    | (with_reducible apply wr_after)
    | (intro _; try dsimp only)
    | exact within_trans (by decide) hS
    | exact covers_trans (by decide) hW
    | exact rows_row hW (by decide) (by decide)
    | split

theorem Dev.beginAccess_after (h : Changes S W d e) (hS : within [.hawserStatus, .jtagStatus] S = true) (hW : covers [] W = true) (p : Path) :
    Changes S W d (Dev.beginAccess e p) := by
  unfold Dev.beginAccess
  try dsimp only
  repeat' first
    | (with_reducible assumption)
    | (with_reducible refine ite_after ?_ ?_)
    | (intro _; try dsimp only)
    | exact within_trans (by decide) hS
    | split
    | (with_reducible apply set_hawserStatus_after)
    | (with_reducible apply set_jtagStatus_after)
    | ((with_reducible show Changes _ _ _ (Dev.mk _ _ _ _ _ _ _ _ _ _ _ _ _ _ _ _ _ _ _ _ _ _ _ _ _ _ _ _ _ _)); refine mk_after ?_ (.inl rfl) (.inl rfl) (.inl rfl) (.inl rfl) (.inl rfl) (.inl rfl) (.inl rfl) (.inl rfl) (.inl rfl) (.inl rfl) (.inl rfl) (.inl rfl) (.inl rfl) (.inr (within_mem hS (by decide))) (.inl rfl) (.inl rfl) (.inr (within_mem hS (by decide))) (.inl rfl) (.inl rfl) (.inl rfl) (.inl rfl) (.inl rfl) (.inl rfl) (.inl rfl) (.inl rfl) (.inl rfl) (.inl rfl) (.inl rfl) (.inl rfl) (fun can => can.mem) (fun can => can.shadow))

theorem onPort_after (h : Changes S W d e) (hS : within [.regs, .out, .hawserStatus, .jtagStatus, .hs] S = true) (hW : covers [.row 0x5014 2 0x800 1, .row 0x5014 2 0x800 24] W = true) (b : Nat) (p : Path)
    {f : Dev → Dev} (hf : ∀ e, Changes S W d e → Changes S W d (f e)) :
    Changes S W d (onPort b p f e) := by
  unfold onPort
  try dsimp only
  repeat' first
    | (with_reducible assumption)
    | (with_reducible refine ite_after ?_ ?_)
    | (with_reducible apply hf)
    | (with_reducible apply Dev.beginAccess_after)
    | (with_reducible apply Dev.hole_after)
    | (with_reducible apply Dev.give_after)
    | (intro _; try dsimp only)
    | exact within_trans (by decide) hS
    | exact covers_trans (by decide) hW
    | exact rows_row hW (by decide) (by decide)
    | split

end

end Sys2Proof.Machine
end

