-- ==== Sys2Proof/Laws/ChangesQueue.lean ====
section
/-!
SUPPORT. What every operation of Machine/Queue can change.
-/

set_option Elab.async false
set_option linter.all false

namespace Sys2Proof.Machine

section
variable {S : List Part} {W : List Span} {d e : Dev}

theorem Dev.modQ_after (h : Changes S W d e) (hS : within [.lq] S = true) (hW : covers [] W = true) (n : Nat) (f : Queue → Queue) :
    Changes S W d (Dev.modQ e n f) := by
  unfold Dev.modQ
  try dsimp only
  repeat' first
    | (with_reducible assumption)
    | (with_reducible refine ite_after ?_ ?_)
    | (intro _; try dsimp only)
    | exact within_trans (by decide) hS
    | split
    | (with_reducible apply set_lq_after)
    | ((with_reducible show Changes _ _ _ (Dev.mk _ _ _ _ _ _ _ _ _ _ _ _ _ _ _ _ _ _ _ _ _ _ _ _ _ _ _ _ _ _)); refine mk_after ?_ (.inl rfl) (.inl rfl) (.inl rfl) (.inl rfl) (.inl rfl) (.inl rfl) (.inr (within_mem hS (by decide))) (.inl rfl) (.inl rfl) (.inl rfl) (.inl rfl) (.inl rfl) (.inl rfl) (.inl rfl) (.inl rfl) (.inl rfl) (.inl rfl) (.inl rfl) (.inl rfl) (.inl rfl) (.inl rfl) (.inl rfl) (.inl rfl) (.inl rfl) (.inl rfl) (.inl rfl) (.inl rfl) (.inl rfl) (.inl rfl) (fun can => can.mem) (fun can => can.shadow))

theorem Dev.setTaken_after (h : Changes S W d e) (hS : within [.sv] S = true) (hW : covers [] W = true) (i : Nat) (ws : List Word) :
    Changes S W d (Dev.setTaken e i ws) := by
  unfold Dev.setTaken
  try dsimp only
  repeat' first
    | (with_reducible assumption)
    | (with_reducible refine ite_after ?_ ?_)
    | (intro _; try dsimp only)
    | exact within_trans (by decide) hS
    | split
    | (with_reducible apply set_sv_after)
    | ((with_reducible show Changes _ _ _ (Dev.mk _ _ _ _ _ _ _ _ _ _ _ _ _ _ _ _ _ _ _ _ _ _ _ _ _ _ _ _ _ _)); refine mk_after ?_ (.inl rfl) (.inl rfl) (.inl rfl) (.inl rfl) (.inl rfl) (.inl rfl) (.inl rfl) (.inl rfl) (.inl rfl) (.inl rfl) (.inl rfl) (.inl rfl) (.inl rfl) (.inl rfl) (.inl rfl) (.inl rfl) (.inl rfl) (.inr (within_mem hS (by decide))) (.inl rfl) (.inl rfl) (.inl rfl) (.inl rfl) (.inl rfl) (.inl rfl) (.inl rfl) (.inl rfl) (.inl rfl) (.inl rfl) (.inl rfl) (fun can => can.mem) (fun can => can.shadow))

theorem Dev.take1_after (h : Changes S W d e) (hS : within [.sv] S = true) (hW : covers [] W = true) (i : Nat) (w : Word) :
    Changes S W d (Dev.take1 e i w) := by
  unfold Dev.take1
  try dsimp only
  repeat' first
    | (with_reducible assumption)
    | (with_reducible refine ite_after ?_ ?_)
    | (with_reducible apply Dev.setTaken_after)
    | (intro _; try dsimp only)
    | exact within_trans (by decide) hS
    | split

theorem popWords_after (h : Changes S W d e) (hS : within [.lq, .sv] S = true) (hW : covers [] W = true) (i : Nat) (x1 : Nat) :
    Changes S W d (popWords i x1 e).2.2 := by
  induction x1 generalizing e with
  | zero =>
    unfold popWords
    try dsimp only
    repeat' first
      | (with_reducible assumption)
      | (with_reducible refine ite_after ?_ ?_)
      | (with_reducible apply ih)
      | (with_reducible apply Dev.take1_after)
      | (with_reducible apply Dev.modQ_after)
      | (intro _; try dsimp only)
      | exact within_trans (by decide) hS
      | split
  | succ _ ih =>
    unfold popWords
    try dsimp only
    repeat' first
      | (with_reducible assumption)
      | (with_reducible refine ite_after ?_ ?_)
      | (with_reducible apply ih)
      | (with_reducible apply Dev.take1_after)
      | (with_reducible apply Dev.modQ_after)
      | (intro _; try dsimp only)
      | exact within_trans (by decide) hS
      | split

theorem beyondItem_after (h : Changes S W d e) (hS : within [.regs, .out, .hs] S = true) (hW : covers [.row 0x5014 2 0x800 6, .row 0x5014 2 0x800 24] W = true) (p : Path) (k : Nat) :
    Changes S W d (beyondItem p k e) := by
  unfold beyondItem
  try dsimp only
  repeat' first
    | (with_reducible assumption)
    | (with_reducible refine ite_after ?_ ?_)
    | (with_reducible apply raiseIf_after)
    | (with_reducible apply Dev.give_after)
    | (intro _; try dsimp only)
    | exact within_trans (by decide) hS
    | exact covers_trans (by decide) hW
    | exact rows_row hW (by decide) (by decide)
    | split

theorem popOneItem_after (h : Changes S W d e) (hS : within [.regs, .lq, .out, .sv, .hs] S = true) (hW : covers [.row 0x5014 2 0x800 6, .row 0x5014 2 0x800 24] W = true) (p : Path) (i : Nat) (n : Nat) :
    Changes S W d (popOneItem p i n e) := by
  unfold popOneItem
  try dsimp only
  repeat' first
    | (with_reducible assumption)
    | (with_reducible refine ite_after ?_ ?_)
    | (with_reducible apply Dev.give_after)
    | (with_reducible apply popWords_after)
    | (with_reducible apply beyondItem_after)
    | (intro _; try dsimp only)
    | exact within_trans (by decide) hS
    | exact covers_trans (by decide) hW
    | exact rows_row hW (by decide) (by decide)
    | split

theorem readOver_after (h : Changes S W d e) (hS : within [.lq] S = true) (hW : covers [] W = true) (i : Nat) (s0 : StalledRead) (ss : List StalledRead) :
    Changes S W d (readOver i s0 ss e) := by
  unfold readOver
  try dsimp only
  repeat' first
    | (with_reducible assumption)
    | (with_reducible refine ite_after ?_ ?_)
    | (with_reducible apply Dev.modQ_after)
    | (intro _; try dsimp only)
    | exact within_trans (by decide) hS
    | split

theorem serveReads_after (h : Changes S W d e) (hS : within [.regs, .lq, .out, .sv, .hs] S = true) (hW : covers [.row 0x5014 2 0x800 6, .row 0x5014 2 0x800 24] W = true) (i : Nat) (x1 : Nat) :
    Changes S W d (serveReads i x1 e) := by
  induction x1 generalizing e with
  | zero =>
    unfold serveReads
    try dsimp only
    repeat' first
      | (with_reducible assumption)
      | (with_reducible refine ite_after ?_ ?_)
      | (with_reducible apply ih)
      | (with_reducible apply Dev.take1_after)
      | (with_reducible apply Dev.give_after)
      | (with_reducible apply readOver_after)
      | (with_reducible apply Dev.modQ_after)
      | (with_reducible apply beyondItem_after)
      | (intro _; try dsimp only)
      | exact within_trans (by decide) hS
      | exact covers_trans (by decide) hW
      | exact rows_row hW (by decide) (by decide)
      | split
      | (have q := congrArg Prod.snd ‹(_ : Dev → Dev) = _›; dsimp only at q; rw [← q]; clear q)
  | succ _ ih =>
    unfold serveReads
    try dsimp only
    repeat' first
      | (with_reducible assumption)
      | (with_reducible refine ite_after ?_ ?_)
      | (with_reducible apply ih)
      | (with_reducible apply Dev.take1_after)
      | (with_reducible apply Dev.give_after)
      | (with_reducible apply readOver_after)
      | (with_reducible apply Dev.modQ_after)
      | (with_reducible apply beyondItem_after)
      | (intro _; try dsimp only)
      | exact within_trans (by decide) hS
      | exact covers_trans (by decide) hW
      | exact rows_row hW (by decide) (by decide)
      | split
      | (have q := congrArg Prod.snd ‹(_ : Dev → Dev) = _›; dsimp only at q; rw [← q]; clear q)

theorem serveStalled_after (h : Changes S W d e) (hS : within [.regs, .lq, .out, .sv, .hs] S = true) (hW : covers [.row 0x5014 2 0x800 6, .row 0x5014 2 0x800 24] W = true) (i : Nat) :
    Changes S W d (serveStalled i e) := by
  unfold serveStalled
  try dsimp only
  repeat' first
    | (with_reducible assumption)
    | (with_reducible refine ite_after ?_ ?_)
    | (with_reducible apply serveReads_after)
    | (intro _; try dsimp only)
    | exact within_trans (by decide) hS
    | exact covers_trans (by decide) hW
    | exact rows_row hW (by decide) (by decide)
    | split

theorem Dev.post_after (h : Changes S W d e) (hS : within [.regs, .lq, .out, .sv, .hs] S = true) (hW : covers [.row 0x5014 2 0x800 6, .row 0x5014 2 0x800 24, .row 0x2100c 32 0x40 3, .row 0x2100c 32 0x40 4, .row 0x2100c 32 0x40 5, .row 0x21024 32 0x40 0] W = true) (i : Nat) (typ : Nat) (payload : List Word) :
    Changes S W d (Dev.post e i typ payload) := by
  unfold Dev.post
  try dsimp only
  repeat' first
    | (with_reducible assumption)
    | (with_reducible refine ite_after ?_ ?_)
    | (with_reducible apply raise_after)
    | (with_reducible apply serveStalled_after)
    | (with_reducible apply raiseIf_after)
    | (with_reducible apply count_after)
    | (with_reducible apply Dev.modQ_after)
    | (intro _; try dsimp only)
    | exact within_trans (by decide) hS
    | exact covers_trans (by decide +kernel) hW
    | exact rows_row hW (by decide +kernel) (by decide)
    | split

theorem Dev.popRefused_after (h : Changes S W d e) (hS : within [.regs] S = true) (hW : covers [.errors, .row 0x2100c 32 0x40 1, .row 0x2100c 32 0x40 24] W = true) (p : Path) (i : Nat) :
    Changes S W d (Dev.popRefused e p i) := by
  unfold Dev.popRefused
  try dsimp only
  repeat' first
    | (with_reducible assumption)
    | (with_reducible refine ite_after ?_ ?_)
    | (with_reducible apply wr_after)
    | (with_reducible apply raise_after)
    | (with_reducible apply accessError_after)
    | (intro _; try dsimp only)
    | exact within_trans (by decide) hS
    | exact covers_trans (by decide) hW
    | exact rows_row hW (by decide) (by decide)
    | exact blockBase_mem _
    | (with_reducible show _ ∈ blockBases; decide)
    | split

theorem popBurst_after (h : Changes S W d e) (hS : within [.regs, .lq, .out, .sv, .hs] S = true) (hW : covers [.errors, .row 0x5014 2 0x800 24, .row 0x2100c 32 0x40 1, .row 0x2100c 32 0x40 24] W = true) (p : Path) (i : Nat) (n : Nat) :
    Changes S W d (popBurst p i n e) := by
  unfold popBurst
  try dsimp only
  repeat' first
    | (with_reducible assumption)
    | (with_reducible refine ite_after ?_ ?_)
    | (with_reducible apply Dev.popRefused_after)
    | (with_reducible apply Dev.give_after)
    | (with_reducible apply popWords_after)
    | (with_reducible apply Dev.modQ_after)
    | (intro _; try dsimp only)
    | exact within_trans (by decide) hS
    | exact covers_trans (by decide +kernel) hW
    | exact rows_row hW (by decide +kernel) (by decide)
    | split

theorem popItemBurst_after (h : Changes S W d e) (hS : within [.regs, .lq, .out, .sv, .hs] S = true) (hW : covers [.errors, .row 0x5014 2 0x800 6, .row 0x5014 2 0x800 24, .row 0x2100c 32 0x40 1, .row 0x2100c 32 0x40 24] W = true) (p : Path) (i : Nat) (n : Nat) :
    Changes S W d (popItemBurst p i n e) := by
  unfold popItemBurst
  try dsimp only
  repeat' first
    | (with_reducible assumption)
    | (with_reducible refine ite_after ?_ ?_)
    | (with_reducible apply Dev.popRefused_after)
    | (with_reducible apply Dev.give_after)
    | (with_reducible apply Dev.modQ_after)
    | (with_reducible apply popOneItem_after)
    | (with_reducible apply beyondItem_after)
    | (intro _; try dsimp only)
    | exact within_trans (by decide) hS
    | exact covers_trans (by decide +kernel) hW
    | exact rows_row hW (by decide +kernel) (by decide)
    | split

theorem queueStallExpiry_after (h : Changes S W d e) (hS : within [.regs, .time, .lq, .out, .clk, .hs] S = true) (hW : covers [.one 98752, .row 0x5014 2 0x800 6, .row 0x5014 2 0x800 24, .row 0x2100c 32 0x40 0] W = true) (i : Nat) :
    Changes S W d (queueStallExpiry i e) := by
  unfold queueStallExpiry
  try dsimp only
  repeat' first
    | (with_reducible assumption)
    | (with_reducible refine ite_after ?_ ?_)
    | (with_reducible apply raise_after)
    | (with_reducible apply Dev.give_after)
    | (with_reducible apply readOver_after)
    | (with_reducible apply Dev.reach_after)
    | (with_reducible apply beyondItem_after)
    | (intro _; try dsimp only)
    | exact within_trans (by decide) hS
    | exact covers_trans (by decide +kernel) hW
    | exact rows_one hW (by decide +kernel)
    | exact rows_row hW (by decide +kernel) (by decide)
    | split

theorem queueItemComplete_after (h : Changes S W d e) (hS : within [.regs, .lq, .out, .sv, .hs] S = true) (hW : covers [.row 0x5014 2 0x800 6, .row 0x5014 2 0x800 24, .row 0x2100c 32 0x40 3, .row 0x2100c 32 0x40 4, .row 0x2100c 32 0x40 5, .row 0x21024 32 0x40 0] W = true) (i : Nat) (typ : Nat) (payload : List Word) :
    Changes S W d (queueItemComplete i typ payload e) := by
  unfold queueItemComplete
  try dsimp only
  repeat' first
    | (with_reducible assumption)
    | (with_reducible refine ite_after ?_ ?_)
    | (with_reducible apply Dev.post_after)
    | (intro _; try dsimp only)
    | exact within_trans (by decide) hS
    | exact covers_trans (by decide +kernel) hW
    | exact rows_row hW (by decide +kernel) (by decide)
    | split

theorem queuePushCmd_after (h : Changes S W d e) (hS : within [.regs, .lq, .out, .sv, .hs] S = true) (hW : covers [.errors, .row 0x5014 2 0x800 6, .row 0x5014 2 0x800 24, .row 0x2100c 32 0x40 3, .row 0x2100c 32 0x40 4, .row 0x2100c 32 0x40 5, .row 0x21024 32 0x40 0] W = true) (p : Path) (i : Nat) (w : Word) :
    Changes S W d (queuePushCmd p i w e) := by
  unfold queuePushCmd
  try dsimp only
  repeat' first
    | (with_reducible assumption)
    | (with_reducible refine ite_after ?_ ?_)
    | (with_reducible apply Dev.post_after)
    | (with_reducible apply errLocked_after)
    | (with_reducible apply errRange_after)
    | (with_reducible apply Dev.modQ_after)
    | (intro _; try dsimp only)
    | exact within_trans (by decide) hS
    | exact covers_trans (by decide +kernel) hW
    | exact rows_row hW (by decide +kernel) (by decide)
    | split

theorem consumerCmd_after (h : Changes S W d e) (hS : within [.regs] S = true) (hW : covers [.row 0x2100c 32 0x40 24] W = true) (p : Path) (i : Nat)
    {f : Dev → Dev} (hf : ∀ e, Changes S W d e → Changes S W d (f e)) :
    Changes S W d (consumerCmd p i f e) := by
  unfold consumerCmd
  try dsimp only
  repeat' first
    | (with_reducible assumption)
    | (with_reducible refine ite_after ?_ ?_)
    | (with_reducible apply hf)
    | (with_reducible apply wr_after)
    | (intro _; try dsimp only)
    | exact within_trans (by decide) hS
    | exact covers_trans (by decide) hW
    | exact rows_row hW (by decide) (by decide)
    | split

theorem dropRestCmd_after (h : Changes S W d e) (hS : within [.regs, .lq, .sv] S = true) (hW : covers [.row 0x2100c 32 0x40 24] W = true) (p : Path) (i : Nat) :
    Changes S W d (dropRestCmd p i e) := by
  unfold dropRestCmd
  try dsimp only
  repeat' first
    | (with_reducible assumption)
    | (with_reducible refine ite_after ?_ ?_)
    | (with_reducible apply wr_after)
    | (with_reducible apply Dev.setTaken_after)
    | (with_reducible apply consumerCmd_after)
    | (with_reducible apply Dev.modQ_after)
    | (intro _; try dsimp only)
    | exact within_trans (by decide) hS
    | exact covers_trans (by decide) hW
    | exact rows_row hW (by decide) (by decide)
    | split

theorem flushCmd_after (h : Changes S W d e) (hS : within [.regs, .lq, .out, .sv, .hs] S = true) (hW : covers [.row 0x5014 2 0x800 6, .row 0x5014 2 0x800 24, .row 0x2100c 32 0x40 2, .row 0x2100c 32 0x40 24] W = true) (p : Path) (i : Nat) :
    Changes S W d (flushCmd p i e) := by
  unfold flushCmd
  try dsimp only
  repeat' first
    | (with_reducible assumption)
    | (with_reducible refine ite_after ?_ ?_)
    | (with_reducible apply wr_after)
    | (with_reducible apply raise_after)
    | (with_reducible apply serveStalled_after)
    | (with_reducible apply Dev.setTaken_after)
    | (with_reducible apply Dev.modQ_after)
    | (intro _; try dsimp only)
    | exact within_trans (by decide) hS
    | exact covers_trans (by decide +kernel) hW
    | exact rows_row hW (by decide +kernel) (by decide)
    | split

theorem markCmd_after (h : Changes S W d e) (hS : within [.regs, .lq] S = true) (hW : covers [.row 0x2100c 32 0x40 24] W = true) (p : Path) (i : Nat) :
    Changes S W d (markCmd p i e) := by
  unfold markCmd
  try dsimp only
  repeat' first
    | (with_reducible assumption)
    | (with_reducible refine ite_after ?_ ?_)
    | (with_reducible apply wr_after)
    | (with_reducible apply consumerCmd_after)
    | (with_reducible apply Dev.modQ_after)
    | (intro _; try dsimp only)
    | exact within_trans (by decide) hS
    | exact covers_trans (by decide) hW
    | exact rows_row hW (by decide) (by decide)
    | split

theorem rewindCmd_after (h : Changes S W d e) (hS : within [.regs, .lq, .out, .sv, .hs] S = true) (hW : covers [.row 0x5014 2 0x800 6, .row 0x5014 2 0x800 24, .row 0x2100c 32 0x40 24] W = true) (p : Path) (i : Nat) :
    Changes S W d (rewindCmd p i e) := by
  unfold rewindCmd
  try dsimp only
  repeat' first
    | (with_reducible assumption)
    | (with_reducible refine ite_after ?_ ?_)
    | (with_reducible apply wr_after)
    | (with_reducible apply serveStalled_after)
    | (with_reducible apply Dev.setTaken_after)
    | (with_reducible apply consumerCmd_after)
    | (with_reducible apply Dev.modQ_after)
    | (intro _; try dsimp only)
    | exact within_trans (by decide) hS
    | exact covers_trans (by decide) hW
    | exact rows_row hW (by decide) (by decide)
    | split

theorem clearMarkCmd_after (h : Changes S W d e) (hS : within [.regs, .lq] S = true) (hW : covers [.row 0x2100c 32 0x40 24] W = true) (p : Path) (i : Nat) :
    Changes S W d (clearMarkCmd p i e) := by
  unfold clearMarkCmd
  try dsimp only
  repeat' first
    | (with_reducible assumption)
    | (with_reducible refine ite_after ?_ ?_)
    | (with_reducible apply wr_after)
    | (with_reducible apply consumerCmd_after)
    | (with_reducible apply Dev.modQ_after)
    | (intro _; try dsimp only)
    | exact within_trans (by decide) hS
    | exact covers_trans (by decide) hW
    | exact rows_row hW (by decide) (by decide)
    | split

theorem refuseStalled_after (h : Changes S W d e) (hS : within [.regs, .lq, .out, .hs] S = true) (hW : covers [.errors, .row 0x5014 2 0x800 24, .row 0x2100c 32 0x40 1, .row 0x2100c 32 0x40 24] W = true) (i : Nat) :
    Changes S W d (refuseStalled i e) := by
  unfold refuseStalled
  try dsimp only
  repeat' first
    | (with_reducible assumption)
    | (with_reducible refine ite_after ?_ ?_)
    | (with_reducible apply Dev.popRefused_after)
    | (with_reducible apply each_after)
    | (with_reducible apply Dev.give_after)
    | (with_reducible apply readOver_after)
    | (intro _; try dsimp only)
    | exact within_trans (by decide) hS
    | exact covers_trans (by decide +kernel) hW
    | exact rows_row hW (by decide +kernel) (by decide)
    | split

theorem queueCfgWriteCmd_after (h : Changes S W d e) (hS : within [.regs, .lq, .out, .hs] S = true) (hW : covers [.errors, .row 0x5014 2 0x800 24, .row 0x2100c 32 0x40 1, .row 0x2100c 32 0x40 24, .row 0x21010 32 0x40 0, .row 0x21010 32 0x40 24, .row 0x21010 32 0x40 25, .row 0x21010 32 0x40 26, .row 0x21010 32 0x40 27, .row 0x21010 32 0x40 31] W = true) (p : Path) (i : Nat) (w : Word) :
    Changes S W d (queueCfgWriteCmd p i w e) := by
  unfold queueCfgWriteCmd
  try dsimp only
  repeat' first
    | (with_reducible assumption)
    | (with_reducible refine ite_after ?_ ?_)
    | (with_reducible apply wr_after)
    | (with_reducible apply accessError_after)
    | (with_reducible apply refuseStalled_after)
    | (intro _; try dsimp only)
    | exact within_trans (by decide) hS
    | exact covers_trans (by decide +kernel) hW
    | exact rows_row hW (by decide +kernel) (by decide)
    | exact blockBase_mem _
    | (with_reducible show _ ∈ blockBases; decide)
    | split

theorem execQueueStallExpiry_changes {s t : State} (q : Fin 32) (h : execQueueStallExpiry q s = .next t) :
    t.pending = s.pending ∧ Changes [.regs, .time, .lq, .out, .clk, .hs] [.one 98752, .row 0x5014 2 0x800 6, .row 0x5014 2 0x800 24, .row 0x2100c 32 0x40 0] s.dev t.dev := by
  unfold execQueueStallExpiry at h
  refine act_changes (by decide) h fun e h => ?_
  repeat' first
    | (with_reducible assumption)
    | (with_reducible refine ite_after ?_ ?_)
    | (with_reducible apply queueStallExpiry_after)
    | (intro _; try dsimp only)
    | exact within_trans (by decide) (within_refl _)
    | exact covers_trans (by decide +kernel) (covers_refl _)
    | exact rows_one (covers_refl _) (by decide +kernel)
    | exact rows_row (covers_refl _) (by decide +kernel) (by decide)
    | split

theorem execQueueItemComplete_changes {s t : State} (q : Fin 32) (typ : Byte) (payload : List Word) (h : execQueueItemComplete q typ payload s = .next t) :
    t.pending = s.pending ∧ Changes [.regs, .lq, .out, .sv, .hs] [.row 0x5014 2 0x800 6, .row 0x5014 2 0x800 24, .row 0x2100c 32 0x40 3, .row 0x2100c 32 0x40 4, .row 0x2100c 32 0x40 5, .row 0x21024 32 0x40 0] s.dev t.dev := by
  unfold execQueueItemComplete at h
  refine act_changes (by decide) h fun e h => ?_
  repeat' first
    | (with_reducible assumption)
    | (with_reducible refine ite_after ?_ ?_)
    | (with_reducible apply queueItemComplete_after)
    | (intro _; try dsimp only)
    | exact within_trans (by decide) (within_refl _)
    | exact covers_trans (by decide +kernel) (covers_refl _)
    | exact rows_row (covers_refl _) (by decide +kernel) (by decide)
    | split

theorem execQueuePush_changes {s t : State} (p : Path) (q : Fin 32) (w : Word) (h : execQueuePush p q w s = .next t) :
    t.pending = s.pending ∧ Changes [.regs, .lq, .out, .hawserStatus, .jtagStatus, .sv, .hs] [.errors, .row 0x5014 2 0x800 1, .row 0x5014 2 0x800 6, .row 0x5014 2 0x800 24, .row 0x2100c 32 0x40 3, .row 0x2100c 32 0x40 4, .row 0x2100c 32 0x40 5, .row 0x21024 32 0x40 0] s.dev t.dev := by
  unfold execQueuePush at h
  refine act_changes (by decide) h fun e h => ?_
  repeat' first
    | (with_reducible assumption)
    | (with_reducible refine ite_after ?_ ?_)
    | (with_reducible apply queuePushCmd_after)
    | (with_reducible apply onPort_after)
    | (intro _; try dsimp only)
    | exact within_trans (by decide) (within_refl _)
    | exact covers_trans (by decide +kernel) (covers_refl _)
    | exact rows_row (covers_refl _) (by decide +kernel) (by decide)
    | split

theorem execDropRest_changes {s t : State} (p : Path) (q : Fin 32) (h : execDropRest p q s = .next t) :
    t.pending = s.pending ∧ Changes [.regs, .lq, .out, .hawserStatus, .jtagStatus, .sv, .hs] [.row 0x5014 2 0x800 1, .row 0x5014 2 0x800 24, .row 0x2100c 32 0x40 24] s.dev t.dev := by
  unfold execDropRest at h
  refine act_changes (by decide) h fun e h => ?_
  repeat' first
    | (with_reducible assumption)
    | (with_reducible refine ite_after ?_ ?_)
    | (with_reducible apply dropRestCmd_after)
    | (with_reducible apply onPort_after)
    | (intro _; try dsimp only)
    | exact within_trans (by decide) (within_refl _)
    | exact covers_trans (by decide) (covers_refl _)
    | exact rows_row (covers_refl _) (by decide) (by decide)
    | split

theorem execFlush_changes {s t : State} (p : Path) (q : Fin 32) (h : execFlush p q s = .next t) :
    t.pending = s.pending ∧ Changes [.regs, .lq, .out, .hawserStatus, .jtagStatus, .sv, .hs] [.row 0x5014 2 0x800 1, .row 0x5014 2 0x800 6, .row 0x5014 2 0x800 24, .row 0x2100c 32 0x40 2, .row 0x2100c 32 0x40 24] s.dev t.dev := by
  unfold execFlush at h
  refine act_changes (by decide) h fun e h => ?_
  repeat' first
    | (with_reducible assumption)
    | (with_reducible refine ite_after ?_ ?_)
    | (with_reducible apply flushCmd_after)
    | (with_reducible apply onPort_after)
    | (intro _; try dsimp only)
    | exact within_trans (by decide) (within_refl _)
    | exact covers_trans (by decide +kernel) (covers_refl _)
    | exact rows_row (covers_refl _) (by decide +kernel) (by decide)
    | split

theorem execMark_changes {s t : State} (p : Path) (q : Fin 32) (h : execMark p q s = .next t) :
    t.pending = s.pending ∧ Changes [.regs, .lq, .out, .hawserStatus, .jtagStatus, .hs] [.row 0x5014 2 0x800 1, .row 0x5014 2 0x800 24, .row 0x2100c 32 0x40 24] s.dev t.dev := by
  unfold execMark at h
  refine act_changes (by decide) h fun e h => ?_
  repeat' first
    | (with_reducible assumption)
    | (with_reducible refine ite_after ?_ ?_)
    | (with_reducible apply markCmd_after)
    | (with_reducible apply onPort_after)
    | (intro _; try dsimp only)
    | exact within_trans (by decide) (within_refl _)
    | exact covers_trans (by decide) (covers_refl _)
    | exact rows_row (covers_refl _) (by decide) (by decide)
    | split

theorem execRewind_changes {s t : State} (p : Path) (q : Fin 32) (h : execRewind p q s = .next t) :
    t.pending = s.pending ∧ Changes [.regs, .lq, .out, .hawserStatus, .jtagStatus, .sv, .hs] [.row 0x5014 2 0x800 1, .row 0x5014 2 0x800 6, .row 0x5014 2 0x800 24, .row 0x2100c 32 0x40 24] s.dev t.dev := by
  unfold execRewind at h
  refine act_changes (by decide) h fun e h => ?_
  repeat' first
    | (with_reducible assumption)
    | (with_reducible refine ite_after ?_ ?_)
    | (with_reducible apply rewindCmd_after)
    | (with_reducible apply onPort_after)
    | (intro _; try dsimp only)
    | exact within_trans (by decide) (within_refl _)
    | exact covers_trans (by decide +kernel) (covers_refl _)
    | exact rows_row (covers_refl _) (by decide +kernel) (by decide)
    | split

theorem execClearMark_changes {s t : State} (p : Path) (q : Fin 32) (h : execClearMark p q s = .next t) :
    t.pending = s.pending ∧ Changes [.regs, .lq, .out, .hawserStatus, .jtagStatus, .hs] [.row 0x5014 2 0x800 1, .row 0x5014 2 0x800 24, .row 0x2100c 32 0x40 24] s.dev t.dev := by
  unfold execClearMark at h
  refine act_changes (by decide) h fun e h => ?_
  repeat' first
    | (with_reducible assumption)
    | (with_reducible refine ite_after ?_ ?_)
    | (with_reducible apply clearMarkCmd_after)
    | (with_reducible apply onPort_after)
    | (intro _; try dsimp only)
    | exact within_trans (by decide) (within_refl _)
    | exact covers_trans (by decide) (covers_refl _)
    | exact rows_row (covers_refl _) (by decide) (by decide)
    | split

theorem execQueueCfgWrite_changes {s t : State} (p : Path) (q : Fin 32) (w : Word) (h : execQueueCfgWrite p q w s = .next t) :
    t.pending = s.pending ∧ Changes [.regs, .lq, .out, .hawserStatus, .jtagStatus, .hs] [.errors, .row 0x5014 2 0x800 1, .row 0x5014 2 0x800 24, .row 0x2100c 32 0x40 1, .row 0x2100c 32 0x40 24, .row 0x21010 32 0x40 0, .row 0x21010 32 0x40 24, .row 0x21010 32 0x40 25, .row 0x21010 32 0x40 26, .row 0x21010 32 0x40 27, .row 0x21010 32 0x40 31] s.dev t.dev := by
  unfold execQueueCfgWrite at h
  refine act_changes (by decide) h fun e h => ?_
  repeat' first
    | (with_reducible assumption)
    | (with_reducible refine ite_after ?_ ?_)
    | (with_reducible apply queueCfgWriteCmd_after)
    | (with_reducible apply onPort_after)
    | (intro _; try dsimp only)
    | exact within_trans (by decide) (within_refl _)
    | exact covers_trans (by decide +kernel) (covers_refl _)
    | exact rows_row (covers_refl _) (by decide +kernel) (by decide)
    | split

end

end Sys2Proof.Machine
end

