-- ==== Sys2Proof/Laws/ChangesChan.lean ====
section
/-!
SUPPORT. What every operation of Machine/Chan can change.
-/

set_option Elab.async false
set_option linter.all false

namespace Sys2Proof.Machine

section
variable {S : List Part} {W : List Span} {d e : Dev}

theorem Dev.modChan_after (h : Changes S W d e) (hS : within [.chans] S = true) (hW : covers [] W = true) (n : Nat) (f : Chan → Chan) :
    Changes S W d (Dev.modChan e n f) := by
  unfold Dev.modChan
  try dsimp only
  repeat' first
    | (with_reducible assumption)
    | (with_reducible refine ite_after ?_ ?_)
    | (intro _; try dsimp only)
    | exact within_trans (by decide) hS
    | split
    | (with_reducible apply set_chans_after)
    | ((with_reducible show Changes _ _ _ (Dev.mk _ _ _ _ _ _ _ _ _ _ _ _ _ _ _ _ _ _ _ _ _ _ _ _ _ _ _ _ _ _)); refine mk_after ?_ (.inl rfl) (.inl rfl) (.inl rfl) (.inl rfl) (.inr (within_mem hS (by decide))) (.inl rfl) (.inl rfl) (.inl rfl) (.inl rfl) (.inl rfl) (.inl rfl) (.inl rfl) (.inl rfl) (.inl rfl) (.inl rfl) (.inl rfl) (.inl rfl) (.inl rfl) (.inl rfl) (.inl rfl) (.inl rfl) (.inl rfl) (.inl rfl) (.inl rfl) (.inl rfl) (.inl rfl) (.inl rfl) (.inl rfl) (.inl rfl) (fun can => can.mem) (fun can => can.shadow))

theorem Dev.modField_after (h : Changes S W d e) (hS : within [.chans] S = true) (hW : covers [] W = true) (n : Nat) (f : FieldSt → FieldSt) :
    Changes S W d (Dev.modField e n f) := by
  unfold Dev.modField
  try dsimp only
  repeat' first
    | (with_reducible assumption)
    | (with_reducible refine ite_after ?_ ?_)
    | (with_reducible apply Dev.modChan_after)
    | (intro _; try dsimp only)
    | exact within_trans (by decide) hS
    | split

theorem Dev.modRx_after (h : Changes S W d e) (hS : within [.chans] S = true) (hW : covers [] W = true) (n : Nat) (f : RxSt → RxSt) :
    Changes S W d (Dev.modRx e n f) := by
  unfold Dev.modRx
  try dsimp only
  repeat' first
    | (with_reducible assumption)
    | (with_reducible refine ite_after ?_ ?_)
    | (with_reducible apply Dev.modChan_after)
    | (intro _; try dsimp only)
    | exact within_trans (by decide) hS
    | split

theorem postIn_after (h : Changes S W d e) (hS : within [.regs, .chans, .lq, .out, .sv, .hs] S = true) (hW : covers [.row 0x5014 2 0x800 6, .row 0x5014 2 0x800 24, .row 0x2100c 32 0x40 3, .row 0x2100c 32 0x40 4, .row 0x2100c 32 0x40 5, .row 0x21024 32 0x40 0] W = true) (n : Nat) (typ : Nat) (payload : List Word) :
    Changes S W d (postIn n typ payload e) := by
  unfold postIn
  try dsimp only
  repeat' first
    | (with_reducible assumption)
    | (with_reducible refine ite_after ?_ ?_)
    | (with_reducible apply Dev.post_after)
    | (with_reducible apply Dev.modChan_after)
    | (intro _; try dsimp only)
    | exact within_trans (by decide) hS
    | exact covers_trans (by decide +kernel) hW
    | exact rows_row hW (by decide +kernel) (by decide)
    | split

theorem postBehind_after (h : Changes S W d e) (hS : within [.regs, .chans, .lq, .out, .sv, .hs] S = true) (hW : covers [.row 0x5014 2 0x800 6, .row 0x5014 2 0x800 24, .row 0x2100c 32 0x40 3, .row 0x2100c 32 0x40 4, .row 0x2100c 32 0x40 5, .row 0x21024 32 0x40 0] W = true) (n : Nat) (k : Nat) :
    Changes S W d (postBehind n k e) := by
  unfold postBehind
  try dsimp only
  repeat' first
    | (with_reducible assumption)
    | (with_reducible refine ite_after ?_ ?_)
    | (with_reducible apply Dev.post_after)
    | (with_reducible apply each_after)
    | (with_reducible apply Dev.modChan_after)
    | (intro _; try dsimp only)
    | exact within_trans (by decide) hS
    | exact covers_trans (by decide +kernel) hW
    | exact rows_row hW (by decide +kernel) (by decide)
    | split

theorem Dev.modCtx_after (h : Changes S W d e) (hS : within [.chans] S = true) (hW : covers [] W = true) (n : Nat) (k : Nat) (f : Ctx → Ctx) :
    Changes S W d (Dev.modCtx e n k f) := by
  unfold Dev.modCtx
  try dsimp only
  repeat' first
    | (with_reducible assumption)
    | (with_reducible refine ite_after ?_ ?_)
    | (with_reducible apply Dev.modChan_after)
    | (intro _; try dsimp only)
    | exact within_trans (by decide) hS
    | split

theorem sendSelect_after (h : Changes S W d e) (hS : within [.regs, .chans] S = true) (hW : covers [.row 0x40030 24 0x2000 0, .row 0x40030 24 0x2000 7, .row 0x40030 24 0x2000 16] W = true) (n : Nat) (cc : Nat) (on : Bool) (coil : Nat) :
    Changes S W d (sendSelect n cc on coil e) := by
  unfold sendSelect
  try dsimp only
  repeat' first
    | (with_reducible assumption)
    | (with_reducible refine ite_after ?_ ?_)
    | (with_reducible apply wr_after)
    | (with_reducible apply flag_after)
    | (with_reducible apply Dev.modField_after)
    | (with_reducible apply count_after)
    | (intro _; try dsimp only)
    | exact within_trans (by decide) hS
    | exact covers_trans (by decide) hW
    | exact rows_row hW (by decide) (by decide)
    | split

end

end Sys2Proof.Machine
end

