-- ==== Sys2Proof/Laws/ChangesCipher.lean ====
section
/-!
SUPPORT. What every operation of Machine/Cipher can change.
-/

set_option Elab.async false
set_option linter.all false

namespace Sys2Proof.Machine

section
variable {S : List Part} {W : List Span} {d e : Dev}

theorem Dev.random_after (h : Changes S W d e) (hS : within [.freeCtr, .cy] S = true) (hW : covers [] W = true) (n : Nat) :
    Changes S W d (Dev.random e n).2 := by
  unfold Dev.random
  try dsimp only
  repeat' first
    | (with_reducible assumption)
    | (with_reducible refine ite_after ?_ ?_)
    | (intro _; try dsimp only)
    | exact within_trans (by decide) hS
    | split
    | (with_reducible apply set_freeCtr_after)
    | (with_reducible apply set_cy_after)
    | ((with_reducible show Changes _ _ _ (Dev.mk _ _ _ _ _ _ _ _ _ _ _ _ _ _ _ _ _ _ _ _ _ _ _ _ _ _ _ _ _ _)); refine mk_after ?_ (.inl rfl) (.inl rfl) (.inl rfl) (.inl rfl) (.inl rfl) (.inl rfl) (.inl rfl) (.inl rfl) (.inr (within_mem hS (by decide))) (.inl rfl) (.inr (within_mem hS (by decide))) (.inl rfl) (.inl rfl) (.inl rfl) (.inl rfl) (.inl rfl) (.inl rfl) (.inl rfl) (.inl rfl) (.inl rfl) (.inl rfl) (.inl rfl) (.inl rfl) (.inl rfl) (.inl rfl) (.inl rfl) (.inl rfl) (.inl rfl) (.inl rfl) (fun can => can.mem) (fun can => can.shadow))

end

end Sys2Proof.Machine
end

