-- ==== Sys2Proof/Laws/ChangesSessions.lean ====
section
/-!
SUPPORT. What every operation of Machine/Sessions can change.
-/

set_option Elab.async false
set_option linter.all false

namespace Sys2Proof.Machine

section
variable {S : List Part} {W : List Span} {d e : Dev}

theorem sessionEnd_after (h : Changes S W d e) (hS : within [.regs, .chans, .lq, .out, .sv, .hs] S = true) (hW : covers [.row 0x5014 2 0x800 6, .row 0x5014 2 0x800 24, .row 0x2100c 32 0x40 3, .row 0x2100c 32 0x40 4, .row 0x2100c 32 0x40 5, .row 0x21024 32 0x40 0] W = true) (n : Nat) (k : Nat) (cause : Nat) :
    Changes S W d (sessionEnd n k cause e) := by
  unfold sessionEnd
  try dsimp only
  repeat' first
    | (with_reducible assumption)
    | (with_reducible refine ite_after ?_ ?_)
    | (with_reducible apply Dev.modCtx_after)
    | (with_reducible apply postIn_after)
    | (with_reducible apply Dev.modChan_after)
    | (intro _; try dsimp only)
    | exact within_trans (by decide) hS
    | exact covers_trans (by decide +kernel) hW
    | exact rows_row hW (by decide +kernel) (by decide)
    | split

theorem sessionsEnd_after (h : Changes S W d e) (hS : within [.regs, .chans, .lq, .out, .sv, .hs] S = true) (hW : covers [.row 0x5014 2 0x800 6, .row 0x5014 2 0x800 24, .row 0x2100c 32 0x40 3, .row 0x2100c 32 0x40 4, .row 0x2100c 32 0x40 5, .row 0x21024 32 0x40 0] W = true) (n : Nat) (cause : Nat) :
    Changes S W d (sessionsEnd n cause e) := by
  unfold sessionsEnd
  try dsimp only
  repeat' first
    | (with_reducible assumption)
    | (with_reducible refine ite_after ?_ ?_)
    | (with_reducible apply sessionEnd_after)
    | (with_reducible apply each_after)
    | (intro _; try dsimp only)
    | exact within_trans (by decide) hS
    | exact covers_trans (by decide +kernel) hW
    | exact rows_row hW (by decide +kernel) (by decide)
    | split

theorem dropSession_after (h : Changes S W d e) (hS : within [.chans] S = true) (hW : covers [] W = true) (n : Nat) (k : Nat) :
    Changes S W d (dropSession n k e) := by
  unfold dropSession
  try dsimp only
  repeat' first
    | (with_reducible assumption)
    | (with_reducible refine ite_after ?_ ?_)
    | (with_reducible apply Dev.modCtx_after)
    | (intro _; try dsimp only)
    | exact within_trans (by decide) hS
    | split

theorem dropSlotSessions_after (h : Changes S W d e) (hS : within [.chans] S = true) (hW : covers [] W = true) (s0 : Nat) :
    Changes S W d (dropSlotSessions s0 e) := by
  unfold dropSlotSessions
  try dsimp only
  repeat' first
    | (with_reducible assumption)
    | (with_reducible refine ite_after ?_ ?_)
    | (with_reducible apply Dev.modCtx_after)
    | (with_reducible apply each_after)
    | (intro _; try dsimp only)
    | exact within_trans (by decide) hS
    | split

theorem Dev.setJob_after (h : Changes S W d e) (hS : within [.chans] S = true) (hW : covers [] W = true) (n : Nat) (j : Job) :
    Changes S W d (Dev.setJob e n j) := by
  unfold Dev.setJob
  try dsimp only
  repeat' first
    | (with_reducible assumption)
    | (with_reducible refine ite_after ?_ ?_)
    | (with_reducible apply Dev.modChan_after)
    | (intro _; try dsimp only)
    | exact within_trans (by decide) hS
    | split

theorem Dev.seq_after (h : Changes S W d e) (hS : within [.regs] S = true) (hW : covers [.row 0x40218 24 0x2000 28] W = true) (n : Nat) (s0 : Nat) :
    Changes S W d (Dev.seq e n s0) := by
  unfold Dev.seq
  try dsimp only
  repeat' first
    | (with_reducible assumption)
    | (with_reducible refine ite_after ?_ ?_)
    | (with_reducible apply wr_after)
    | (intro _; try dsimp only)
    | exact within_trans (by decide) hS
    | exact covers_trans (by decide) hW
    | exact rows_row hW (by decide) (by decide)
    | split

theorem kick_after (h : Changes S W d e) (hS : within [.regs] S = true) (hW : covers [.row 0x40218 24 0x2000 28] W = true) (n : Nat) :
    Changes S W d (kick n e) := by
  unfold kick
  try dsimp only
  repeat' first
    | (with_reducible assumption)
    | (with_reducible refine ite_after ?_ ?_)
    | (with_reducible apply Dev.seq_after)
    | (intro _; try dsimp only)
    | exact within_trans (by decide) hS
    | exact covers_trans (by decide) hW
    | exact rows_row hW (by decide) (by decide)
    | split

theorem launch_after (h : Changes S W d e) (hS : within [.regs, .chans] S = true) (hW : covers [.row 0x40218 24 0x2000 28] W = true) (n : Nat) (k : Nat) (f : AirFrame) :
    Changes S W d (launch n k f e) := by
  unfold launch
  try dsimp only
  repeat' first
    | (with_reducible assumption)
    | (with_reducible refine ite_after ?_ ?_)
    | (with_reducible apply Dev.modChan_after)
    | (with_reducible apply kick_after)
    | (intro _; try dsimp only)
    | exact within_trans (by decide) hS
    | exact covers_trans (by decide) hW
    | exact rows_row hW (by decide) (by decide)
    | split

theorem relaunch_after (h : Changes S W d e) (hS : within [.regs, .chans] S = true) (hW : covers [.row 0x40218 24 0x2000 28] W = true) (n : Nat) (f : AirFrame) (g : Exch → Exch) :
    Changes S W d (relaunch n f g e) := by
  unfold relaunch
  try dsimp only
  repeat' first
    | (with_reducible assumption)
    | (with_reducible refine ite_after ?_ ?_)
    | (with_reducible apply Dev.modChan_after)
    | (with_reducible apply kick_after)
    | (intro _; try dsimp only)
    | exact within_trans (by decide) hS
    | exact covers_trans (by decide) hW
    | exact rows_row hW (by decide) (by decide)
    | split

theorem closeExchange_after (h : Changes S W d e) (hS : within [.regs, .chans] S = true) (hW : covers [.row 0x40108 24 0x2000 29, .row 0x40218 24 0x2000 28] W = true) (n : Nat) :
    Changes S W d (closeExchange n e) := by
  unfold closeExchange
  try dsimp only
  repeat' first
    | (with_reducible assumption)
    | (with_reducible refine ite_after ?_ ?_)
    | (with_reducible apply wr_after)
    | (with_reducible apply Dev.modChan_after)
    | (with_reducible apply Dev.seq_after)
    | (intro _; try dsimp only)
    | exact within_trans (by decide) hS
    | exact covers_trans (by decide) hW
    | exact rows_row hW (by decide) (by decide)
    | split

theorem exchangeItems_after (h : Changes S W d e) (hS : within [.regs, .chans, .lq, .out, .sv, .hs] S = true) (hW : covers [.row 0x5014 2 0x800 6, .row 0x5014 2 0x800 24, .row 0x2100c 32 0x40 3, .row 0x2100c 32 0x40 4, .row 0x2100c 32 0x40 5, .row 0x21024 32 0x40 0] W = true) (n : Nat) (w0 : Word) (w1 : Bool → Word) (cs : List Word) (x4 : Nat) (x5 : List (List Word)) (x6 : List Byte) :
    Changes S W d (exchangeItems n w0 w1 cs x4 x5 x6 e) := by
  induction x4 generalizing x5 x6 e with
  | zero =>
    unfold exchangeItems
    try dsimp only
    repeat' first
      | (with_reducible assumption)
      | (with_reducible refine ite_after ?_ ?_)
      | (with_reducible apply ih)
      | (with_reducible apply postIn_after)
      | (intro _; try dsimp only)
      | exact within_trans (by decide) hS
      | exact covers_trans (by decide +kernel) hW
      | exact rows_row hW (by decide +kernel) (by decide)
      | split
  | succ _ ih =>
    unfold exchangeItems
    try dsimp only
    repeat' first
      | (with_reducible assumption)
      | (with_reducible refine ite_after ?_ ?_)
      | (with_reducible apply ih)
      | (with_reducible apply postIn_after)
      | (intro _; try dsimp only)
      | exact within_trans (by decide) hS
      | exact covers_trans (by decide +kernel) hW
      | exact rows_row hW (by decide +kernel) (by decide)
      | split

theorem commandItem_after (h : Changes S W d e) (hS : within [.regs, .chans, .lq, .out, .sv, .hs] S = true) (hW : covers [.row 0x5014 2 0x800 6, .row 0x5014 2 0x800 24, .row 0x2100c 32 0x40 3, .row 0x2100c 32 0x40 4, .row 0x2100c 32 0x40 5, .row 0x21024 32 0x40 0, .row 0x40304 24 0x2000 1, .row 0x40308 24 0x2000 8] W = true) (n : Nat) (cmd : PCmd) (ctx : Nat) (gen : Nat) (stale : Bool) (code : Nat) (cut : Nat) (rep : Bool) (notRec : Bool) (data : List Byte) :
    Changes S W d (commandItem n cmd ctx gen stale code cut rep notRec data e) := by
  unfold commandItem
  try dsimp only
  repeat' first
    | (with_reducible assumption)
    | (with_reducible refine ite_after ?_ ?_)
    | (with_reducible apply when_after)
    | (with_reducible apply raise_after)
    | (with_reducible apply countSat_after)
    | (with_reducible apply Dev.modChan_after)
    | (with_reducible apply exchangeItems_after)
    | (intro _; try dsimp only)
    | exact within_trans (by decide) hS
    | exact covers_trans (by decide +kernel) hW
    | exact rows_row hW (by decide +kernel) (by decide)
    | split

theorem plainItemAs_after (h : Changes S W d e) (hS : within [.regs, .chans, .lq, .out, .sv, .hs] S = true) (hW : covers [.row 0x5014 2 0x800 6, .row 0x5014 2 0x800 24, .row 0x2100c 32 0x40 3, .row 0x2100c 32 0x40 4, .row 0x2100c 32 0x40 5, .row 0x21024 32 0x40 0, .row 0x40304 24 0x2000 1, .row 0x40308 24 0x2000 8] W = true) (n : Nat) (cmd : PCmd) (ctx : Nat) (gen : Nat) (stale : Bool) (code : Nat) (cut : Nat) :
    Changes S W d (plainItemAs n cmd ctx gen stale code cut e) := by
  unfold plainItemAs
  try dsimp only
  repeat' first
    | (with_reducible assumption)
    | (with_reducible refine ite_after ?_ ?_)
    | (with_reducible apply Dev.modChan_after)
    | (with_reducible apply commandItem_after)
    | (intro _; try dsimp only)
    | exact within_trans (by decide) hS
    | exact covers_trans (by decide +kernel) hW
    | exact rows_row hW (by decide +kernel) (by decide)
    | split

theorem plainItem_after (h : Changes S W d e) (hS : within [.regs, .chans, .lq, .out, .sv, .hs] S = true) (hW : covers [.row 0x5014 2 0x800 6, .row 0x5014 2 0x800 24, .row 0x2100c 32 0x40 3, .row 0x2100c 32 0x40 4, .row 0x2100c 32 0x40 5, .row 0x21024 32 0x40 0, .row 0x40304 24 0x2000 1, .row 0x40308 24 0x2000 8] W = true) (n : Nat) (cmd : PCmd) (ctx : Nat) (code : Nat) (cut : Nat) :
    Changes S W d (plainItem n cmd ctx code cut e) := by
  unfold plainItem
  try dsimp only
  repeat' first
    | (with_reducible assumption)
    | (with_reducible refine ite_after ?_ ?_)
    | (with_reducible apply plainItemAs_after)
    | (intro _; try dsimp only)
    | exact within_trans (by decide) hS
    | exact covers_trans (by decide +kernel) hW
    | exact rows_row hW (by decide +kernel) (by decide)
    | split

theorem emptyRound_after (h : Changes S W d e) (hS : within [.regs, .chans, .lq, .out, .sv, .hs] S = true) (hW : covers [.row 0x5014 2 0x800 6, .row 0x5014 2 0x800 24, .row 0x2100c 32 0x40 3, .row 0x2100c 32 0x40 4, .row 0x2100c 32 0x40 5, .row 0x21024 32 0x40 0, .row 0x40308 24 0x2000 24] W = true) (n : Nat) (tag : Nat) (code : Nat) (cut : Nat) :
    Changes S W d (emptyRound n tag code cut e) := by
  unfold emptyRound
  try dsimp only
  repeat' first
    | (with_reducible assumption)
    | (with_reducible refine ite_after ?_ ?_)
    | (with_reducible apply postIn_after)
    | (with_reducible apply countSat_after)
    | (intro _; try dsimp only)
    | exact within_trans (by decide) hS
    | exact covers_trans (by decide +kernel) hW
    | exact rows_row hW (by decide +kernel) (by decide)
    | split

theorem drainHeads_after (h : Changes S W d e) (hS : within [.regs, .chans, .lq, .out, .sv, .hs] S = true) (hW : covers [.row 0x5014 2 0x800 6, .row 0x5014 2 0x800 24, .row 0x2100c 32 0x40 3, .row 0x2100c 32 0x40 4, .row 0x2100c 32 0x40 5, .row 0x21024 32 0x40 0, .row 0x40304 24 0x2000 1, .row 0x40308 24 0x2000 8, .row 0x40308 24 0x2000 24] W = true) (n : Nat) (x1 : List PCmd) :
    Changes S W d (drainHeads n x1 e) := by
  induction x1 generalizing e with
  | nil =>
    unfold drainHeads
    try dsimp only
    repeat' first
      | (with_reducible assumption)
      | (with_reducible refine ite_after ?_ ?_)
      | (with_reducible apply ih)
      | (with_reducible apply plainItem_after)
      | (with_reducible apply emptyRound_after)
      | (with_reducible apply Dev.modChan_after)
      | (intro _; try dsimp only)
      | exact within_trans (by decide) hS
      | exact covers_trans (by decide +kernel) hW
      | exact rows_row hW (by decide +kernel) (by decide)
      | split
      | (have q := congrArg Prod.snd ‹(_ : Dev → Dev) = _›; dsimp only at q; rw [← q]; clear q)
  | cons _ _ ih =>
    unfold drainHeads
    try dsimp only
    repeat' first
      | (with_reducible assumption)
      | (with_reducible refine ite_after ?_ ?_)
      | (with_reducible apply ih)
      | (with_reducible apply plainItem_after)
      | (with_reducible apply emptyRound_after)
      | (with_reducible apply Dev.modChan_after)
      | (intro _; try dsimp only)
      | exact within_trans (by decide) hS
      | exact covers_trans (by decide +kernel) hW
      | exact rows_row hW (by decide +kernel) (by decide)
      | split
      | (have q := congrArg Prod.snd ‹(_ : Dev → Dev) = _›; dsimp only at q; rw [← q]; clear q)

theorem drain_after (h : Changes S W d e) (hS : within [.regs, .chans, .lq, .out, .sv, .hs] S = true) (hW : covers [.row 0x5014 2 0x800 6, .row 0x5014 2 0x800 24, .row 0x2100c 32 0x40 3, .row 0x2100c 32 0x40 4, .row 0x2100c 32 0x40 5, .row 0x21024 32 0x40 0, .row 0x40304 24 0x2000 1, .row 0x40308 24 0x2000 8, .row 0x40308 24 0x2000 24] W = true) (n : Nat) :
    Changes S W d (drain n e) := by
  unfold drain
  try dsimp only
  repeat' first
    | (with_reducible assumption)
    | (with_reducible refine ite_after ?_ ?_)
    | (with_reducible apply drainHeads_after)
    | (intro _; try dsimp only)
    | exact within_trans (by decide) hS
    | exact covers_trans (by decide +kernel) hW
    | exact rows_row hW (by decide +kernel) (by decide)
    | split

theorem leaveOld_after (h : Changes S W d e) (hS : within [.regs, .chans, .lq, .out, .sv, .hs] S = true) (hW : covers [.row 0x5014 2 0x800 6, .row 0x5014 2 0x800 24, .row 0x2100c 32 0x40 3, .row 0x2100c 32 0x40 4, .row 0x2100c 32 0x40 5, .row 0x21024 32 0x40 0, .row 0x40308 24 0x2000 0] W = true) (n : Nat) (k : Nat) :
    Changes S W d (leaveOld n k e) := by
  unfold leaveOld
  try dsimp only
  repeat' first
    | (with_reducible assumption)
    | (with_reducible refine ite_after ?_ ?_)
    | (with_reducible apply sessionEnd_after)
    | (with_reducible apply countSat_after)
    | (intro _; try dsimp only)
    | exact within_trans (by decide) hS
    | exact covers_trans (by decide +kernel) hW
    | exact rows_row hW (by decide +kernel) (by decide)
    | split

theorem reconcileNext_after (h : Changes S W d e) (hS : within [.regs, .chans] S = true) (hW : covers [.row 0x40218 24 0x2000 28] W = true) (n : Nat) :
    Changes S W d (reconcileNext n e) := by
  unfold reconcileNext
  try dsimp only
  repeat' first
    | (with_reducible assumption)
    | (with_reducible refine ite_after ?_ ?_)
    | (with_reducible apply Dev.modChan_after)
    | (with_reducible apply launch_after)
    | (intro _; try dsimp only)
    | exact within_trans (by decide) hS
    | exact covers_trans (by decide) hW
    | exact rows_row hW (by decide) (by decide)
    | split

theorem endCommand_after (h : Changes S W d e) (hS : within [.regs, .chans, .lq, .out, .sv, .hs] S = true) (hW : covers [.row 0x5014 2 0x800 6, .row 0x5014 2 0x800 24, .row 0x2100c 32 0x40 3, .row 0x2100c 32 0x40 4, .row 0x2100c 32 0x40 5, .row 0x21024 32 0x40 0, .row 0x40108 24 0x2000 29, .row 0x40218 24 0x2000 28, .row 0x40304 24 0x2000 1, .row 0x40308 24 0x2000 0, .row 0x40308 24 0x2000 8, .row 0x40308 24 0x2000 24] W = true) (n : Nat) (s0 : CmdSt) (code : Nat) (cut : Nat) (data : List Byte) :
    Changes S W d (endCommand n s0 code cut data e) := by
  unfold endCommand
  try dsimp only
  repeat' first
    | (with_reducible assumption)
    | (with_reducible refine ite_after ?_ ?_)
    | (with_reducible apply closeExchange_after)
    | (with_reducible apply Dev.modChan_after)
    | (with_reducible apply leaveOld_after)
    | (with_reducible apply reconcileNext_after)
    | (with_reducible apply drain_after)
    | (with_reducible apply commandItem_after)
    | (intro _; try dsimp only)
    | exact within_trans (by decide) hS
    | exact covers_trans (by decide +kernel) hW
    | exact rows_row hW (by decide +kernel) (by decide)
    | split

theorem endInventory_after (h : Changes S W d e) (hS : within [.regs, .chans, .lq, .out, .sv, .hs] S = true) (hW : covers [.row 0x5014 2 0x800 6, .row 0x5014 2 0x800 24, .row 0x2100c 32 0x40 3, .row 0x2100c 32 0x40 4, .row 0x2100c 32 0x40 5, .row 0x21024 32 0x40 0, .row 0x40108 24 0x2000 29, .row 0x40218 24 0x2000 28, .row 0x40304 24 0x2000 1, .row 0x40304 24 0x2000 20, .row 0x40304 24 0x2000 22, .row 0x40304 24 0x2000 29, .row 0x40308 24 0x2000 8, .row 0x40308 24 0x2000 24] W = true) (n : Nat) (i : InvSt) (code : Nat) (cut : Nat) :
    Changes S W d (endInventory n i code cut e) := by
  unfold endInventory
  try dsimp only
  repeat' first
    | (with_reducible assumption)
    | (with_reducible refine ite_after ?_ ?_)
    | (with_reducible apply wr_after)
    | (with_reducible apply Dev.post_after)
    | (with_reducible apply closeExchange_after)
    | (with_reducible apply countSat_after)
    | (with_reducible apply Dev.modChan_after)
    | (with_reducible apply reconcileNext_after)
    | (with_reducible apply postBehind_after)
    | (with_reducible apply drain_after)
    | (intro _; try dsimp only)
    | exact within_trans (by decide) hS
    | exact covers_trans (by decide +kernel) hW
    | exact rows_row hW (by decide +kernel) (by decide)
    | split

end

end Sys2Proof.Machine
end

