-- ==== Sys2Proof/Laws/ChangesLoss.lean ====
section
/-!
SUPPORT. What every operation of Machine/Loss can change.
-/

set_option Elab.async false
set_option linter.all false

namespace Sys2Proof.Machine

section
variable {S : List Part} {W : List Span} {d e : Dev}

theorem seedsDue_after (h : Changes S W d e) (hS : within [.regs, .chans] S = true) (hW : covers [.row 0x40104 24 0x2000 3] W = true) (n : Nat) :
    Changes S W d (seedsDue n e) := by
  unfold seedsDue
  try dsimp only
  repeat' first
    | (with_reducible assumption)
    | (with_reducible refine ite_after ?_ ?_)
    | (with_reducible apply wr_after)
    | (with_reducible apply Dev.modRx_after)
    | (intro _; try dsimp only)
    | exact within_trans (by decide) hS
    | exact covers_trans (by decide) hW
    | exact rows_row hW (by decide) (by decide)
    | split

theorem countDev_after (h : Changes S W d e) (hS : within [.regs] S = true) (hW : covers [.row 0x40218 24 0x2000 2, .row 0x4021c 24 0x2000 8] W = true) (n : Nat) (lastx : Word) :
    Changes S W d (countDev n lastx e) := by
  unfold countDev
  try dsimp only
  repeat' first
    | (with_reducible assumption)
    | (with_reducible refine ite_after ?_ ?_)
    | (with_reducible apply raise_after)
    | (with_reducible apply countSat_after)
    | (intro _; try dsimp only)
    | exact within_trans (by decide) hS
    | exact covers_trans (by decide) hW
    | exact rows_row hW (by decide) (by decide)
    | split

theorem fragmentItem_after (h : Changes S W d e) (hS : within [.regs, .chans, .lq, .out, .sv, .hs] S = true) (hW : covers [.row 0x5014 2 0x800 6, .row 0x5014 2 0x800 24, .row 0x2100c 32 0x40 3, .row 0x2100c 32 0x40 4, .row 0x2100c 32 0x40 5, .row 0x21024 32 0x40 0, .row 0x40104 24 0x2000 3, .row 0x40108 24 0x2000 3, .row 0x40218 24 0x2000 2, .row 0x4021c 24 0x2000 8] W = true) (n : Nat) (fr : RxFrame) :
    Changes S W d (fragmentItem n fr e) := by
  unfold fragmentItem
  try dsimp only
  repeat' first
    | (with_reducible assumption)
    | (with_reducible refine ite_after ?_ ?_)
    | (with_reducible apply seedsDue_after)
    | (with_reducible apply postIn_after)
    | (with_reducible apply raiseIf_after)
    | (with_reducible apply Dev.modChan_after)
    | (with_reducible apply countDev_after)
    | (intro _; try dsimp only)
    | exact within_trans (by decide) hS
    | exact covers_trans (by decide +kernel) hW
    | exact rows_row hW (by decide +kernel) (by decide)
    | split

theorem disarm_after (h : Changes S W d e) (hS : within [.regs, .chans, .lq, .out, .sv, .hs] S = true) (hW : covers [.row 0x5014 2 0x800 6, .row 0x5014 2 0x800 24, .row 0x2100c 32 0x40 3, .row 0x2100c 32 0x40 4, .row 0x2100c 32 0x40 5, .row 0x21024 32 0x40 0, .row 0x40104 24 0x2000 3, .row 0x40108 24 0x2000 3, .row 0x40108 24 0x2000 29, .row 0x40218 24 0x2000 2, .row 0x4021c 24 0x2000 8] W = true) (n : Nat) (fr : RxFrame) :
    Changes S W d (disarm n fr e) := by
  unfold disarm
  try dsimp only
  repeat' first
    | (with_reducible assumption)
    | (with_reducible refine ite_after ?_ ?_)
    | (with_reducible apply wr_after)
    | (with_reducible apply Dev.modRx_after)
    | (with_reducible apply fragmentItem_after)
    | (intro _; try dsimp only)
    | exact within_trans (by decide) hS
    | exact covers_trans (by decide +kernel) hW
    | exact rows_row hW (by decide +kernel) (by decide)
    | split

theorem Dev.modTable_after (h : Changes S W d e) (hS : within [.ts] S = true) (hW : covers [] W = true) (b : Nat) (f : NbTable → NbTable) :
    Changes S W d (Dev.modTable e b f) := by
  unfold Dev.modTable
  try dsimp only
  repeat' first
    | (with_reducible assumption)
    | (with_reducible refine ite_after ?_ ?_)
    | (intro _; try dsimp only)
    | exact within_trans (by decide) hS
    | split
    | (with_reducible apply set_ts_after)
    | ((with_reducible show Changes _ _ _ (Dev.mk _ _ _ _ _ _ _ _ _ _ _ _ _ _ _ _ _ _ _ _ _ _ _ _ _ _ _ _ _ _)); refine mk_after ?_ (.inl rfl) (.inl rfl) (.inl rfl) (.inl rfl) (.inl rfl) (.inr (within_mem hS (by decide))) (.inl rfl) (.inl rfl) (.inl rfl) (.inl rfl) (.inl rfl) (.inl rfl) (.inl rfl) (.inl rfl) (.inl rfl) (.inl rfl) (.inl rfl) (.inl rfl) (.inl rfl) (.inl rfl) (.inl rfl) (.inl rfl) (.inl rfl) (.inl rfl) (.inl rfl) (.inl rfl) (.inl rfl) (.inl rfl) (.inl rfl) (fun can => can.mem) (fun can => can.shadow))

theorem tagItem_after (h : Changes S W d e) (hS : within [.regs, .chans, .ts, .lq, .out, .freeCtr, .sv, .hs] S = true) (hW : covers [.row 0x5014 2 0x800 6, .row 0x5014 2 0x800 24, .row 0x2100c 32 0x40 3, .row 0x2100c 32 0x40 4, .row 0x2100c 32 0x40 5, .row 0x21024 32 0x40 0, .row 0x40304 24 0x2000 2, .row 0x40308 24 0x2000 16] W = true) (n : Nat) (coil : Nat) (t0 : FoundTag) :
    Changes S W d (tagItem n coil t0 e).2 := by
  unfold tagItem
  try dsimp only
  repeat' first
    | (with_reducible assumption)
    | (with_reducible refine ite_after ?_ ?_)
    | (with_reducible apply Dev.modCtx_after)
    | (with_reducible apply Dev.modTable_after)
    | (with_reducible apply Dev.post_after)
    | (with_reducible apply countSat_after)
    | (with_reducible apply raiseIf_after)
    | (with_reducible apply postBehind_after)
    | (with_reducible apply free_after)
    | (intro _; try dsimp only)
    | exact within_trans (by decide) hS
    | exact covers_trans (by decide +kernel) hW
    | exact rows_row hW (by decide +kernel) (by decide)
    | split

theorem flushTag_after (h : Changes S W d e) (hS : within [.regs, .chans, .ts, .lq, .out, .freeCtr, .sv, .hs] S = true) (hW : covers [.row 0x5014 2 0x800 6, .row 0x5014 2 0x800 24, .row 0x2100c 32 0x40 3, .row 0x2100c 32 0x40 4, .row 0x2100c 32 0x40 5, .row 0x21024 32 0x40 0, .row 0x40304 24 0x2000 2, .row 0x40308 24 0x2000 16] W = true) (n : Nat) :
    Changes S W d (flushTag n e) := by
  unfold flushTag
  try dsimp only
  repeat' first
    | (with_reducible assumption)
    | (with_reducible refine ite_after ?_ ?_)
    | (with_reducible apply Dev.setJob_after)
    | (with_reducible apply tagItem_after)
    | (intro _; try dsimp only)
    | exact within_trans (by decide) hS
    | exact covers_trans (by decide +kernel) hW
    | exact rows_row hW (by decide +kernel) (by decide)
    | split

theorem flushTags_after (h : Changes S W d e) (hS : within [.regs, .chans, .ts, .lq, .out, .freeCtr, .sv, .hs] S = true) (hW : covers [.row 0x5014 2 0x800 6, .row 0x5014 2 0x800 24, .row 0x2100c 32 0x40 3, .row 0x2100c 32 0x40 4, .row 0x2100c 32 0x40 5, .row 0x21024 32 0x40 0, .row 0x40304 24 0x2000 2, .row 0x40308 24 0x2000 16] W = true) (n : Nat) (x1 : List FoundTag) :
    Changes S W d (flushTags n x1 e) := by
  induction x1 generalizing e with
  | nil =>
    unfold flushTags
    try dsimp only
    repeat' first
      | (with_reducible assumption)
      | (with_reducible refine ite_after ?_ ?_)
      | (with_reducible apply ih)
      | (with_reducible apply Dev.setJob_after)
      | (with_reducible apply flushTag_after)
      | (intro _; try dsimp only)
      | exact within_trans (by decide) hS
      | exact covers_trans (by decide +kernel) hW
      | exact rows_row hW (by decide +kernel) (by decide)
      | split
      | (have q := congrArg Prod.snd ‹(_ : Dev → Dev) = _›; dsimp only at q; rw [← q]; clear q)
  | cons _ _ ih =>
    unfold flushTags
    try dsimp only
    repeat' first
      | (with_reducible assumption)
      | (with_reducible refine ite_after ?_ ?_)
      | (with_reducible apply ih)
      | (with_reducible apply Dev.setJob_after)
      | (with_reducible apply flushTag_after)
      | (intro _; try dsimp only)
      | exact within_trans (by decide) hS
      | exact covers_trans (by decide +kernel) hW
      | exact rows_row hW (by decide +kernel) (by decide)
      | split
      | (have q := congrArg Prod.snd ‹(_ : Dev → Dev) = _›; dsimp only at q; rw [← q]; clear q)

theorem flushCut_after (h : Changes S W d e) (hS : within [.regs, .chans, .ts, .lq, .out, .freeCtr, .sv, .hs] S = true) (hW : covers [.row 0x5014 2 0x800 6, .row 0x5014 2 0x800 24, .row 0x2100c 32 0x40 3, .row 0x2100c 32 0x40 4, .row 0x2100c 32 0x40 5, .row 0x21024 32 0x40 0, .row 0x40304 24 0x2000 2, .row 0x40308 24 0x2000 16] W = true) (n : Nat) :
    Changes S W d (flushCut n e) := by
  unfold flushCut
  try dsimp only
  repeat' first
    | (with_reducible assumption)
    | (with_reducible refine ite_after ?_ ?_)
    | (with_reducible apply flushTags_after)
    | (intro _; try dsimp only)
    | exact within_trans (by decide) hS
    | exact covers_trans (by decide +kernel) hW
    | exact rows_row hW (by decide +kernel) (by decide)
    | split

theorem abortJob_after (h : Changes S W d e) (hS : within [.regs, .chans, .ts, .lq, .out, .freeCtr, .sv, .hs] S = true) (hW : covers [.row 0x5014 2 0x800 6, .row 0x5014 2 0x800 24, .row 0x2100c 32 0x40 3, .row 0x2100c 32 0x40 4, .row 0x2100c 32 0x40 5, .row 0x21024 32 0x40 0, .row 0x40108 24 0x2000 29, .row 0x40218 24 0x2000 28, .row 0x40304 24 0x2000 1, .row 0x40304 24 0x2000 2, .row 0x40304 24 0x2000 20, .row 0x40304 24 0x2000 22, .row 0x40304 24 0x2000 29, .row 0x40308 24 0x2000 0, .row 0x40308 24 0x2000 8, .row 0x40308 24 0x2000 16, .row 0x40308 24 0x2000 24] W = true) (n : Nat) (cut : Nat) :
    Changes S W d (abortJob n cut e) := by
  unfold abortJob
  try dsimp only
  repeat' first
    | (with_reducible assumption)
    | (with_reducible refine ite_after ?_ ?_)
    | (with_reducible apply sessionEnd_after)
    | (with_reducible apply flushCut_after)
    | (with_reducible apply closeExchange_after)
    | (with_reducible apply Dev.modChan_after)
    | (with_reducible apply endCommand_after)
    | (with_reducible apply endInventory_after)
    | (intro _; try dsimp only)
    | exact within_trans (by decide) hS
    | exact covers_trans (by decide +kernel) hW
    | exact rows_row hW (by decide +kernel) (by decide)
    | split

theorem abortArrived_after (h : Changes S W d e) (hS : within [.regs, .chans, .lq, .out, .sv, .hs] S = true) (hW : covers [.row 0x5014 2 0x800 6, .row 0x5014 2 0x800 24, .row 0x2100c 32 0x40 3, .row 0x2100c 32 0x40 4, .row 0x2100c 32 0x40 5, .row 0x21024 32 0x40 0, .row 0x40304 24 0x2000 1, .row 0x40308 24 0x2000 8] W = true) (n : Nat) (cut : Nat) (as : List (Nat × PCmd)) :
    Changes S W d (abortArrived n cut as e) := by
  unfold abortArrived
  try dsimp only
  repeat' first
    | (with_reducible assumption)
    | (with_reducible refine ite_after ?_ ?_)
    | (with_reducible apply plainItem_after)
    | (with_reducible apply each_after)
    | (intro _; try dsimp only)
    | exact within_trans (by decide) hS
    | exact covers_trans (by decide +kernel) hW
    | exact rows_row hW (by decide +kernel) (by decide)
    | split

theorem loseField_after (h : Changes S W d e) (hS : within [.regs, .chans, .ts, .lq, .out, .freeCtr, .sv, .hs] S = true) (hW : covers [.row 0x5014 2 0x800 6, .row 0x5014 2 0x800 24, .row 0x2100c 32 0x40 3, .row 0x2100c 32 0x40 4, .row 0x2100c 32 0x40 5, .row 0x21024 32 0x40 0, .row 0x40104 24 0x2000 3, .row 0x40108 24 0x2000 3, .row 0x40108 24 0x2000 29, .row 0x40218 24 0x2000 2, .row 0x40218 24 0x2000 28, .row 0x4021c 24 0x2000 8, .row 0x40304 24 0x2000 1, .row 0x40304 24 0x2000 2, .row 0x40304 24 0x2000 20, .row 0x40304 24 0x2000 22, .row 0x40304 24 0x2000 29, .row 0x40308 24 0x2000 0, .row 0x40308 24 0x2000 8, .row 0x40308 24 0x2000 16, .row 0x40308 24 0x2000 24] W = true) (n : Nat) (cut : Nat) (fr : RxFrame) (mine : Bool) :
    Changes S W d (loseField n cut fr mine e) := by
  unfold loseField
  try dsimp only
  repeat' first
    | (with_reducible assumption)
    | (with_reducible refine ite_after ?_ ?_)
    | (with_reducible apply disarm_after)
    | (with_reducible apply sessionsEnd_after)
    | (with_reducible apply flushCut_after)
    | (with_reducible apply abortArrived_after)
    | (with_reducible apply Dev.modChan_after)
    | (with_reducible apply abortJob_after)
    | (intro _; try dsimp only)
    | exact within_trans (by decide) hS
    | exact covers_trans (by decide +kernel) hW
    | exact rows_row hW (by decide +kernel) (by decide)
    | split

theorem recordCut_after (h : Changes S W d e) (hS : within [.regs, .chans] S = true) (hW : covers [.row 0x40034 24 0x2000 3, .row 0x40034 24 0x2000 4] W = true) (n : Nat) (cause : Nat) :
    Changes S W d (recordCut n cause e) := by
  unfold recordCut
  try dsimp only
  repeat' first
    | (with_reducible assumption)
    | (with_reducible refine ite_after ?_ ?_)
    | (with_reducible apply wr_after)
    | (with_reducible apply raise_after)
    | (with_reducible apply Dev.modField_after)
    | (intro _; try dsimp only)
    | exact within_trans (by decide) hS
    | exact covers_trans (by decide) hW
    | exact rows_row hW (by decide) (by decide)
    | split

theorem headroom_after (h : Changes S W d e) (hS : within [.regs] S = true) (hW : covers [.row 0x40034 24 0x2000 2, .row 0x40034 24 0x2000 29] W = true) (n : Nat) :
    Changes S W d (headroom n e) := by
  unfold headroom
  try dsimp only
  repeat' first
    | (with_reducible assumption)
    | (with_reducible refine ite_after ?_ ?_)
    | (with_reducible apply raiseIf_after)
    | (with_reducible apply lower_after)
    | (with_reducible apply flag_after)
    | (intro _; try dsimp only)
    | exact within_trans (by decide) hS
    | exact covers_trans (by decide) hW
    | exact rows_row hW (by decide) (by decide)
    | split

theorem fieldDown_after (h : Changes S W d e) (hS : within [.chans] S = true) (hW : covers [] W = true) (n : Nat) :
    Changes S W d (fieldDown n e) := by
  unfold fieldDown
  try dsimp only
  repeat' first
    | (with_reducible assumption)
    | (with_reducible refine ite_after ?_ ?_)
    | (with_reducible apply Dev.modField_after)
    | (intro _; try dsimp only)
    | exact within_trans (by decide) hS
    | split

theorem rampUp_after (h : Changes S W d e) (hS : within [.regs, .chans] S = true) (hW : covers [.row 0x40034 24 0x2000 2, .row 0x40034 24 0x2000 29] W = true) (n : Nat) :
    Changes S W d (rampUp n e) := by
  unfold rampUp
  try dsimp only
  repeat' first
    | (with_reducible assumption)
    | (with_reducible refine ite_after ?_ ?_)
    | (with_reducible apply headroom_after)
    | (with_reducible apply Dev.modField_after)
    | (intro _; try dsimp only)
    | exact within_trans (by decide) hS
    | exact covers_trans (by decide) hW
    | exact rows_row hW (by decide) (by decide)
    | split

theorem resetClamp_after (h : Changes S W d e) (hS : within [.regs, .chans] S = true) (hW : covers [.row 0x40034 24 0x2000 29] W = true) (n : Nat) :
    Changes S W d (resetClamp n e) := by
  unfold resetClamp
  try dsimp only
  repeat' first
    | (with_reducible assumption)
    | (with_reducible refine ite_after ?_ ?_)
    | (with_reducible apply lower_after)
    | (with_reducible apply Dev.modField_after)
    | (intro _; try dsimp only)
    | exact within_trans (by decide) hS
    | exact covers_trans (by decide) hW
    | exact rows_row hW (by decide) (by decide)
    | split

theorem resetField_after (h : Changes S W d e) (hS : within [.regs, .chans] S = true) (hW : covers [.row 0x40034 24 0x2000 29] W = true) (n : Nat) :
    Changes S W d (resetField n e) := by
  unfold resetField
  try dsimp only
  repeat' first
    | (with_reducible assumption)
    | (with_reducible refine ite_after ?_ ?_)
    | (with_reducible apply Dev.modField_after)
    | (with_reducible apply resetClamp_after)
    | (intro _; try dsimp only)
    | exact within_trans (by decide) hS
    | exact covers_trans (by decide) hW
    | exact rows_row hW (by decide) (by decide)
    | split

theorem tryRampUp_after (h : Changes S W d e) (hS : within [.regs, .chans] S = true) (hW : covers [.row 0x40034 24 0x2000 2, .row 0x40034 24 0x2000 29] W = true) (n : Nat) :
    Changes S W d (tryRampUp n e) := by
  unfold tryRampUp
  try dsimp only
  repeat' first
    | (with_reducible assumption)
    | (with_reducible refine ite_after ?_ ?_)
    | (with_reducible apply rampUp_after)
    | (intro _; try dsimp only)
    | exact within_trans (by decide) hS
    | exact covers_trans (by decide) hW
    | exact rows_row hW (by decide) (by decide)
    | split

theorem supplyRamp_after (h : Changes S W d e) (hS : within [.regs, .chans] S = true) (hW : covers [.row 0x40034 24 0x2000 2, .row 0x40034 24 0x2000 16, .row 0x40034 24 0x2000 28, .row 0x40034 24 0x2000 29] W = true) (n : Nat) (code : Nat) (settled : Bool) (boundary : Bool) :
    Changes S W d (supplyRamp n code settled boundary e) := by
  unfold supplyRamp
  try dsimp only
  repeat' first
    | (with_reducible assumption)
    | (with_reducible refine ite_after ?_ ?_)
    | (with_reducible apply wr_after)
    | (with_reducible apply flag_after)
    | (with_reducible apply tryRampUp_after)
    | (with_reducible apply Dev.modField_after)
    | (intro _; try dsimp only)
    | exact within_trans (by decide) hS
    | exact covers_trans (by decide +kernel) hW
    | exact rows_row hW (by decide +kernel) (by decide)
    | split

theorem fieldOff_after (h : Changes S W d e) (hS : within [.regs, .chans, .ts, .lq, .out, .freeCtr, .sv, .hs] S = true) (hW : covers [.row 0x5014 2 0x800 6, .row 0x5014 2 0x800 24, .row 0x2100c 32 0x40 3, .row 0x2100c 32 0x40 4, .row 0x2100c 32 0x40 5, .row 0x21024 32 0x40 0, .row 0x40034 24 0x2000 2, .row 0x40034 24 0x2000 16, .row 0x40034 24 0x2000 28, .row 0x40034 24 0x2000 29, .row 0x40104 24 0x2000 3, .row 0x40108 24 0x2000 3, .row 0x40108 24 0x2000 29, .row 0x40218 24 0x2000 2, .row 0x40218 24 0x2000 28, .row 0x4021c 24 0x2000 8, .row 0x40304 24 0x2000 1, .row 0x40304 24 0x2000 2, .row 0x40304 24 0x2000 20, .row 0x40304 24 0x2000 22, .row 0x40304 24 0x2000 29, .row 0x40308 24 0x2000 0, .row 0x40308 24 0x2000 8, .row 0x40308 24 0x2000 16, .row 0x40308 24 0x2000 24] W = true) (n : Nat) :
    Changes S W d (fieldOff n e) := by
  unfold fieldOff
  try dsimp only
  repeat' first
    | (with_reducible assumption)
    | (with_reducible refine ite_after ?_ ?_)
    | (with_reducible apply lower_after)
    | (with_reducible apply Dev.modField_after)
    | (with_reducible apply supplyRamp_after)
    | (with_reducible apply loseField_after)
    | (intro _; try dsimp only)
    | exact within_trans (by decide) hS
    | exact covers_trans (by decide +kernel) hW
    | exact rows_row hW (by decide +kernel) (by decide)
    | split

theorem endField_after (h : Changes S W d e) (hS : within [.regs, .chans, .ts, .lq, .out, .freeCtr, .sv, .hs] S = true) (hW : covers [.row 0x5014 2 0x800 6, .row 0x5014 2 0x800 24, .row 0x2100c 32 0x40 3, .row 0x2100c 32 0x40 4, .row 0x2100c 32 0x40 5, .row 0x21024 32 0x40 0, .row 0x40034 24 0x2000 2, .row 0x40034 24 0x2000 16, .row 0x40034 24 0x2000 28, .row 0x40034 24 0x2000 29, .row 0x40104 24 0x2000 3, .row 0x40108 24 0x2000 3, .row 0x40108 24 0x2000 29, .row 0x40218 24 0x2000 2, .row 0x40218 24 0x2000 28, .row 0x4021c 24 0x2000 8, .row 0x40304 24 0x2000 1, .row 0x40304 24 0x2000 2, .row 0x40304 24 0x2000 20, .row 0x40304 24 0x2000 22, .row 0x40304 24 0x2000 29, .row 0x40308 24 0x2000 0, .row 0x40308 24 0x2000 8, .row 0x40308 24 0x2000 16, .row 0x40308 24 0x2000 24] W = true) (n : Nat) (cut : Nat) (fr : RxFrame) (mine : Bool) :
    Changes S W d (endField n cut fr mine e) := by
  unfold endField
  try dsimp only
  repeat' first
    | (with_reducible assumption)
    | (with_reducible refine ite_after ?_ ?_)
    | (with_reducible apply fieldOff_after)
    | (with_reducible apply Dev.modField_after)
    | (with_reducible apply fieldDown_after)
    | (with_reducible apply loseField_after)
    | (intro _; try dsimp only)
    | exact within_trans (by decide) hS
    | exact covers_trans (by decide +kernel) hW
    | exact rows_row hW (by decide +kernel) (by decide)
    | split

theorem releaseGrant_after (h : Changes S W d e) (hS : within [.regs, .chans, .ts, .lq, .out, .freeCtr, .sv, .hs] S = true) (hW : covers [.row 0x5014 2 0x800 6, .row 0x5014 2 0x800 24, .row 0x2100c 32 0x40 3, .row 0x2100c 32 0x40 4, .row 0x2100c 32 0x40 5, .row 0x21024 32 0x40 0, .row 0x40034 24 0x2000 2, .row 0x40034 24 0x2000 16, .row 0x40034 24 0x2000 28, .row 0x40034 24 0x2000 29, .row 0x40104 24 0x2000 3, .row 0x40108 24 0x2000 3, .row 0x40108 24 0x2000 29, .row 0x40218 24 0x2000 2, .row 0x40218 24 0x2000 28, .row 0x4021c 24 0x2000 8, .row 0x40304 24 0x2000 1, .row 0x40304 24 0x2000 2, .row 0x40304 24 0x2000 20, .row 0x40304 24 0x2000 22, .row 0x40304 24 0x2000 29, .row 0x40308 24 0x2000 0, .row 0x40308 24 0x2000 8, .row 0x40308 24 0x2000 16, .row 0x40308 24 0x2000 24] W = true) (n : Nat) (fr : RxFrame) :
    Changes S W d (releaseGrant n fr e) := by
  unfold releaseGrant
  try dsimp only
  repeat' first
    | (with_reducible assumption)
    | (with_reducible refine ite_after ?_ ?_)
    | (with_reducible apply endField_after)
    | (intro _; try dsimp only)
    | exact within_trans (by decide) hS
    | exact covers_trans (by decide +kernel) hW
    | exact rows_row hW (by decide +kernel) (by decide)
    | split
    | (with_reducible apply set_ts_after)
    | ((with_reducible show Changes _ _ _ (Dev.mk _ _ _ _ _ _ _ _ _ _ _ _ _ _ _ _ _ _ _ _ _ _ _ _ _ _ _ _ _ _)); refine mk_after ?_ (.inl rfl) (.inl rfl) (.inl rfl) (.inl rfl) (.inl rfl) (.inr (within_mem hS (by decide))) (.inl rfl) (.inl rfl) (.inl rfl) (.inl rfl) (.inl rfl) (.inl rfl) (.inl rfl) (.inl rfl) (.inl rfl) (.inl rfl) (.inl rfl) (.inl rfl) (.inl rfl) (.inl rfl) (.inl rfl) (.inl rfl) (.inl rfl) (.inl rfl) (.inl rfl) (.inl rfl) (.inl rfl) (.inl rfl) (.inl rfl) (fun can => can.mem) (fun can => can.shadow))

end

end Sys2Proof.Machine
end

