-- ==== Sys2Proof/Laws/ChangesRounds.lean ====
section
/-!
SUPPORT. What every operation of Machine/Rounds can change.
-/

set_option Elab.async false
set_option linter.all false

namespace Sys2Proof.Machine

section
variable {S : List Part} {W : List Span} {d e : Dev}

theorem setInv_after (h : Changes S W d e) (hS : within [.regs, .chans] S = true) (hW : covers [.row 0x40304 24 0x2000 12, .row 0x40304 24 0x2000 20, .row 0x40304 24 0x2000 22, .row 0x40304 24 0x2000 29] W = true) (n : Nat) (i : InvSt) :
    Changes S W d (setInv n i e) := by
  unfold setInv
  try dsimp only
  repeat' first
    | (with_reducible assumption)
    | (with_reducible refine ite_after ?_ ?_)
    | (with_reducible apply wr_after)
    | (with_reducible apply Dev.setJob_after)
    | (intro _; try dsimp only)
    | exact within_trans (by decide) hS
    | exact covers_trans (by decide +kernel) hW
    | exact rows_row hW (by decide +kernel) (by decide)
    | split

theorem nextFrame_after (h : Changes S W d e) (hS : within [.regs, .chans, .ts, .lq, .out, .freeCtr, .sv, .hs] S = true) (hW : covers [.row 0x5014 2 0x800 6, .row 0x5014 2 0x800 24, .row 0x2100c 32 0x40 3, .row 0x2100c 32 0x40 4, .row 0x2100c 32 0x40 5, .row 0x21024 32 0x40 0, .row 0x40034 24 0x2000 2, .row 0x40034 24 0x2000 16, .row 0x40034 24 0x2000 28, .row 0x40034 24 0x2000 29, .row 0x40104 24 0x2000 3, .row 0x40108 24 0x2000 3, .row 0x40108 24 0x2000 29, .row 0x40218 24 0x2000 2, .row 0x40218 24 0x2000 28, .row 0x4021c 24 0x2000 8, .row 0x40304 24 0x2000 1, .row 0x40304 24 0x2000 2, .row 0x40304 24 0x2000 20, .row 0x40304 24 0x2000 22, .row 0x40304 24 0x2000 29, .row 0x40308 24 0x2000 0, .row 0x40308 24 0x2000 8, .row 0x40308 24 0x2000 16, .row 0x40308 24 0x2000 24] W = true) (n : Nat) (k : Nat) (f : AirFrame) :
    Changes S W d (nextFrame n k f e) := by
  unfold nextFrame
  try dsimp only
  repeat' first
    | (with_reducible assumption)
    | (with_reducible refine ite_after ?_ ?_)
    | (with_reducible apply releaseGrant_after)
    | (with_reducible apply launch_after)
    | (with_reducible apply abortJob_after)
    | (intro _; try dsimp only)
    | exact within_trans (by decide) hS
    | exact covers_trans (by decide +kernel) hW
    | exact rows_row hW (by decide +kernel) (by decide)
    | split

theorem goInv_after (h : Changes S W d e) (hS : within [.regs, .chans, .ts, .lq, .out, .freeCtr, .sv, .hs] S = true) (hW : covers [.row 0x5014 2 0x800 6, .row 0x5014 2 0x800 24, .row 0x2100c 32 0x40 3, .row 0x2100c 32 0x40 4, .row 0x2100c 32 0x40 5, .row 0x21024 32 0x40 0, .row 0x40034 24 0x2000 2, .row 0x40034 24 0x2000 16, .row 0x40034 24 0x2000 28, .row 0x40034 24 0x2000 29, .row 0x40104 24 0x2000 3, .row 0x40108 24 0x2000 3, .row 0x40108 24 0x2000 29, .row 0x40218 24 0x2000 2, .row 0x40218 24 0x2000 28, .row 0x4021c 24 0x2000 8, .row 0x40304 24 0x2000 1, .row 0x40304 24 0x2000 2, .row 0x40304 24 0x2000 12, .row 0x40304 24 0x2000 20, .row 0x40304 24 0x2000 22, .row 0x40304 24 0x2000 29, .row 0x40308 24 0x2000 0, .row 0x40308 24 0x2000 8, .row 0x40308 24 0x2000 16, .row 0x40308 24 0x2000 24] W = true) (n : Nat) (i : InvSt) (f : AirFrame) :
    Changes S W d (goInv n i f e) := by
  unfold goInv
  try dsimp only
  repeat' first
    | (with_reducible assumption)
    | (with_reducible refine ite_after ?_ ?_)
    | (with_reducible apply nextFrame_after)
    | (with_reducible apply setInv_after)
    | (intro _; try dsimp only)
    | exact within_trans (by decide) hS
    | exact covers_trans (by decide +kernel) hW
    | exact rows_row hW (by decide +kernel) (by decide)
    | split

theorem endRound_after (h : Changes S W d e) (hS : within [.regs, .chans, .ts, .lq, .out, .freeCtr, .sv, .hs] S = true) (hW : covers [.row 0x5014 2 0x800 6, .row 0x5014 2 0x800 24, .row 0x2100c 32 0x40 3, .row 0x2100c 32 0x40 4, .row 0x2100c 32 0x40 5, .row 0x21024 32 0x40 0, .row 0x40108 24 0x2000 29, .row 0x40218 24 0x2000 28, .row 0x40304 24 0x2000 1, .row 0x40304 24 0x2000 2, .row 0x40304 24 0x2000 12, .row 0x40304 24 0x2000 20, .row 0x40304 24 0x2000 22, .row 0x40304 24 0x2000 29, .row 0x40308 24 0x2000 8, .row 0x40308 24 0x2000 16, .row 0x40308 24 0x2000 24] W = true) (n : Nat) (i : InvSt) :
    Changes S W d (endRound n i e) := by
  unfold endRound
  try dsimp only
  repeat' first
    | (with_reducible assumption)
    | (with_reducible refine ite_after ?_ ?_)
    | (with_reducible apply flushCut_after)
    | (with_reducible apply closeExchange_after)
    | (with_reducible apply setInv_after)
    | (with_reducible apply endInventory_after)
    | (intro _; try dsimp only)
    | exact within_trans (by decide) hS
    | exact covers_trans (by decide +kernel) hW
    | exact rows_row hW (by decide +kernel) (by decide)
    | split

theorem pushBranch_after (h : Changes S W d e) (hS : within [.regs] S = true) (hW : covers [.row 0x40304 24 0x2000 3] W = true) (n : Nat) (i : InvSt) (b : Branch) :
    Changes S W d (pushBranch n i b e).2 := by
  unfold pushBranch
  try dsimp only
  repeat' first
    | (with_reducible assumption)
    | (with_reducible refine ite_after ?_ ?_)
    | (with_reducible apply raise_after)
    | (intro _; try dsimp only)
    | exact within_trans (by decide) hS
    | exact covers_trans (by decide) hW
    | exact rows_row hW (by decide) (by decide)
    | split

theorem nextA_after (h : Changes S W d e) (hS : within [.regs, .chans, .ts, .lq, .out, .freeCtr, .sv, .hs] S = true) (hW : covers [.row 0x5014 2 0x800 6, .row 0x5014 2 0x800 24, .row 0x2100c 32 0x40 3, .row 0x2100c 32 0x40 4, .row 0x2100c 32 0x40 5, .row 0x21024 32 0x40 0, .row 0x40034 24 0x2000 2, .row 0x40034 24 0x2000 16, .row 0x40034 24 0x2000 28, .row 0x40034 24 0x2000 29, .row 0x40104 24 0x2000 3, .row 0x40108 24 0x2000 3, .row 0x40108 24 0x2000 29, .row 0x40218 24 0x2000 2, .row 0x40218 24 0x2000 28, .row 0x4021c 24 0x2000 8, .row 0x40304 24 0x2000 1, .row 0x40304 24 0x2000 2, .row 0x40304 24 0x2000 12, .row 0x40304 24 0x2000 20, .row 0x40304 24 0x2000 22, .row 0x40304 24 0x2000 29, .row 0x40308 24 0x2000 0, .row 0x40308 24 0x2000 8, .row 0x40308 24 0x2000 16, .row 0x40308 24 0x2000 24] W = true) (n : Nat) (i : InvSt) :
    Changes S W d (nextA n i e) := by
  unfold nextA
  try dsimp only
  repeat' first
    | (with_reducible assumption)
    | (with_reducible refine ite_after ?_ ?_)
    | (with_reducible apply goInv_after)
    | (with_reducible apply endRound_after)
    | (intro _; try dsimp only)
    | exact within_trans (by decide) hS
    | exact covers_trans (by decide +kernel) hW
    | exact rows_row hW (by decide +kernel) (by decide)
    | split

theorem abandonA_after (h : Changes S W d e) (hS : within [.regs, .chans, .ts, .lq, .out, .freeCtr, .sv, .hs] S = true) (hW : covers [.row 0x5014 2 0x800 6, .row 0x5014 2 0x800 24, .row 0x2100c 32 0x40 3, .row 0x2100c 32 0x40 4, .row 0x2100c 32 0x40 5, .row 0x21024 32 0x40 0, .row 0x40034 24 0x2000 2, .row 0x40034 24 0x2000 16, .row 0x40034 24 0x2000 28, .row 0x40034 24 0x2000 29, .row 0x40104 24 0x2000 3, .row 0x40108 24 0x2000 3, .row 0x40108 24 0x2000 29, .row 0x40218 24 0x2000 2, .row 0x40218 24 0x2000 28, .row 0x4021c 24 0x2000 8, .row 0x40304 24 0x2000 1, .row 0x40304 24 0x2000 2, .row 0x40304 24 0x2000 12, .row 0x40304 24 0x2000 20, .row 0x40304 24 0x2000 22, .row 0x40304 24 0x2000 29, .row 0x40308 24 0x2000 0, .row 0x40308 24 0x2000 8, .row 0x40308 24 0x2000 16, .row 0x40308 24 0x2000 24] W = true) (n : Nat) (i : InvSt) :
    Changes S W d (abandonA n i e) := by
  unfold abandonA
  try dsimp only
  repeat' first
    | (with_reducible assumption)
    | (with_reducible refine ite_after ?_ ?_)
    | (with_reducible apply nextA_after)
    | (intro _; try dsimp only)
    | exact within_trans (by decide) hS
    | exact covers_trans (by decide +kernel) hW
    | exact rows_row hW (by decide +kernel) (by decide)
    | split

theorem walkA_after (h : Changes S W d e) (hS : within [.regs, .chans, .ts, .lq, .out, .freeCtr, .sv, .hs] S = true) (hW : covers [.row 0x5014 2 0x800 6, .row 0x5014 2 0x800 24, .row 0x2100c 32 0x40 3, .row 0x2100c 32 0x40 4, .row 0x2100c 32 0x40 5, .row 0x21024 32 0x40 0, .row 0x40034 24 0x2000 2, .row 0x40034 24 0x2000 16, .row 0x40034 24 0x2000 28, .row 0x40034 24 0x2000 29, .row 0x40104 24 0x2000 3, .row 0x40108 24 0x2000 3, .row 0x40108 24 0x2000 29, .row 0x40218 24 0x2000 2, .row 0x40218 24 0x2000 28, .row 0x4021c 24 0x2000 8, .row 0x40304 24 0x2000 1, .row 0x40304 24 0x2000 2, .row 0x40304 24 0x2000 12, .row 0x40304 24 0x2000 20, .row 0x40304 24 0x2000 22, .row 0x40304 24 0x2000 29, .row 0x40308 24 0x2000 0, .row 0x40308 24 0x2000 8, .row 0x40308 24 0x2000 16, .row 0x40308 24 0x2000 24] W = true) (n : Nat) (i : InvSt) :
    Changes S W d (walkA n i e) := by
  unfold walkA
  try dsimp only
  repeat' first
    | (with_reducible assumption)
    | (with_reducible refine ite_after ?_ ?_)
    | (with_reducible apply goInv_after)
    | (intro _; try dsimp only)
    | exact within_trans (by decide) hS
    | exact covers_trans (by decide +kernel) hW
    | exact rows_row hW (by decide +kernel) (by decide)
    | split

theorem startA_after (h : Changes S W d e) (hS : within [.regs, .chans, .ts, .lq, .out, .freeCtr, .sv, .hs] S = true) (hW : covers [.row 0x5014 2 0x800 6, .row 0x5014 2 0x800 24, .row 0x2100c 32 0x40 3, .row 0x2100c 32 0x40 4, .row 0x2100c 32 0x40 5, .row 0x21024 32 0x40 0, .row 0x40034 24 0x2000 2, .row 0x40034 24 0x2000 16, .row 0x40034 24 0x2000 28, .row 0x40034 24 0x2000 29, .row 0x40104 24 0x2000 3, .row 0x40108 24 0x2000 3, .row 0x40108 24 0x2000 29, .row 0x40218 24 0x2000 2, .row 0x40218 24 0x2000 28, .row 0x4021c 24 0x2000 8, .row 0x40304 24 0x2000 1, .row 0x40304 24 0x2000 2, .row 0x40304 24 0x2000 12, .row 0x40304 24 0x2000 20, .row 0x40304 24 0x2000 22, .row 0x40304 24 0x2000 29, .row 0x40308 24 0x2000 0, .row 0x40308 24 0x2000 8, .row 0x40308 24 0x2000 16, .row 0x40308 24 0x2000 24] W = true) (n : Nat) (i : InvSt) :
    Changes S W d (startA n i e) := by
  unfold startA
  try dsimp only
  repeat' first
    | (with_reducible assumption)
    | (with_reducible refine ite_after ?_ ?_)
    | (with_reducible apply goInv_after)
    | (intro _; try dsimp only)
    | exact within_trans (by decide) hS
    | exact covers_trans (by decide +kernel) hW
    | exact rows_row hW (by decide +kernel) (by decide)
    | split

theorem haltActiveA_after (h : Changes S W d e) (hS : within [.chans] S = true) (hW : covers [] W = true) (n : Nat) :
    Changes S W d (haltActiveA n e) := by
  unfold haltActiveA
  try dsimp only
  repeat' first
    | (with_reducible assumption)
    | (with_reducible refine ite_after ?_ ?_)
    | (with_reducible apply Dev.modCtx_after)
    | (with_reducible apply each_after)
    | (intro _; try dsimp only)
    | exact within_trans (by decide) hS
    | split

theorem requestV_after (h : Changes S W d e) (hS : within [.regs, .chans, .ts, .lq, .out, .freeCtr, .sv, .hs] S = true) (hW : covers [.row 0x5014 2 0x800 6, .row 0x5014 2 0x800 24, .row 0x2100c 32 0x40 3, .row 0x2100c 32 0x40 4, .row 0x2100c 32 0x40 5, .row 0x21024 32 0x40 0, .row 0x40034 24 0x2000 2, .row 0x40034 24 0x2000 16, .row 0x40034 24 0x2000 28, .row 0x40034 24 0x2000 29, .row 0x40104 24 0x2000 3, .row 0x40108 24 0x2000 3, .row 0x40108 24 0x2000 29, .row 0x40218 24 0x2000 2, .row 0x40218 24 0x2000 28, .row 0x4021c 24 0x2000 8, .row 0x40304 24 0x2000 1, .row 0x40304 24 0x2000 2, .row 0x40304 24 0x2000 12, .row 0x40304 24 0x2000 20, .row 0x40304 24 0x2000 22, .row 0x40304 24 0x2000 29, .row 0x40308 24 0x2000 0, .row 0x40308 24 0x2000 8, .row 0x40308 24 0x2000 16, .row 0x40308 24 0x2000 24] W = true) (n : Nat) (i : InvSt) :
    Changes S W d (requestV n i e) := by
  unfold requestV
  try dsimp only
  repeat' first
    | (with_reducible assumption)
    | (with_reducible refine ite_after ?_ ?_)
    | (with_reducible apply goInv_after)
    | (intro _; try dsimp only)
    | exact within_trans (by decide) hS
    | exact covers_trans (by decide +kernel) hW
    | exact rows_row hW (by decide +kernel) (by decide)
    | split

theorem nextV_after (h : Changes S W d e) (hS : within [.regs, .chans, .ts, .lq, .out, .freeCtr, .sv, .hs] S = true) (hW : covers [.row 0x5014 2 0x800 6, .row 0x5014 2 0x800 24, .row 0x2100c 32 0x40 3, .row 0x2100c 32 0x40 4, .row 0x2100c 32 0x40 5, .row 0x21024 32 0x40 0, .row 0x40034 24 0x2000 2, .row 0x40034 24 0x2000 16, .row 0x40034 24 0x2000 28, .row 0x40034 24 0x2000 29, .row 0x40104 24 0x2000 3, .row 0x40108 24 0x2000 3, .row 0x40108 24 0x2000 29, .row 0x40218 24 0x2000 2, .row 0x40218 24 0x2000 28, .row 0x4021c 24 0x2000 8, .row 0x40304 24 0x2000 1, .row 0x40304 24 0x2000 2, .row 0x40304 24 0x2000 12, .row 0x40304 24 0x2000 20, .row 0x40304 24 0x2000 22, .row 0x40304 24 0x2000 29, .row 0x40308 24 0x2000 0, .row 0x40308 24 0x2000 8, .row 0x40308 24 0x2000 16, .row 0x40308 24 0x2000 24] W = true) (n : Nat) (i : InvSt) :
    Changes S W d (nextV n i e) := by
  unfold nextV
  try dsimp only
  repeat' first
    | (with_reducible assumption)
    | (with_reducible refine ite_after ?_ ?_)
    | (with_reducible apply requestV_after)
    | (with_reducible apply endRound_after)
    | (intro _; try dsimp only)
    | exact within_trans (by decide) hS
    | exact covers_trans (by decide +kernel) hW
    | exact rows_row hW (by decide +kernel) (by decide)
    | split

theorem pushMasks_after (h : Changes S W d e) (hS : within [.regs] S = true) (hW : covers [.row 0x40304 24 0x2000 3] W = true) (n : Nat) (x1 : List Nat) (x2 : InvSt) :
    Changes S W d (pushMasks n x1 x2 e).2 := by
  induction x1 generalizing x2 e with
  | nil =>
    unfold pushMasks
    try dsimp only
    repeat' first
      | (with_reducible assumption)
      | (with_reducible refine ite_after ?_ ?_)
      | (with_reducible apply ih)
      | (with_reducible apply pushBranch_after)
      | (intro _; try dsimp only)
      | exact within_trans (by decide) hS
      | exact covers_trans (by decide) hW
      | exact rows_row hW (by decide) (by decide)
      | split
  | cons _ _ ih =>
    unfold pushMasks
    try dsimp only
    repeat' first
      | (with_reducible assumption)
      | (with_reducible refine ite_after ?_ ?_)
      | (with_reducible apply ih)
      | (with_reducible apply pushBranch_after)
      | (intro _; try dsimp only)
      | exact within_trans (by decide) hS
      | exact covers_trans (by decide) hW
      | exact rows_row hW (by decide) (by decide)
      | split

theorem afterSlotsV_after (h : Changes S W d e) (hS : within [.regs, .chans, .ts, .lq, .out, .freeCtr, .sv, .hs] S = true) (hW : covers [.row 0x5014 2 0x800 6, .row 0x5014 2 0x800 24, .row 0x2100c 32 0x40 3, .row 0x2100c 32 0x40 4, .row 0x2100c 32 0x40 5, .row 0x21024 32 0x40 0, .row 0x40034 24 0x2000 2, .row 0x40034 24 0x2000 16, .row 0x40034 24 0x2000 28, .row 0x40034 24 0x2000 29, .row 0x40104 24 0x2000 3, .row 0x40108 24 0x2000 3, .row 0x40108 24 0x2000 29, .row 0x40218 24 0x2000 2, .row 0x40218 24 0x2000 28, .row 0x4021c 24 0x2000 8, .row 0x40304 24 0x2000 1, .row 0x40304 24 0x2000 2, .row 0x40304 24 0x2000 3, .row 0x40304 24 0x2000 12, .row 0x40304 24 0x2000 20, .row 0x40304 24 0x2000 22, .row 0x40304 24 0x2000 29, .row 0x40308 24 0x2000 0, .row 0x40308 24 0x2000 8, .row 0x40308 24 0x2000 16, .row 0x40308 24 0x2000 24] W = true) (n : Nat) (i : InvSt) :
    Changes S W d (afterSlotsV n i e) := by
  unfold afterSlotsV
  try dsimp only
  repeat' first
    | (with_reducible assumption)
    | (with_reducible refine ite_after ?_ ?_)
    | (with_reducible apply nextV_after)
    | (with_reducible apply goInv_after)
    | (with_reducible apply pushMasks_after)
    | (intro _; try dsimp only)
    | exact within_trans (by decide) hS
    | exact covers_trans (by decide +kernel) hW
    | exact rows_row hW (by decide +kernel) (by decide)
    | split

theorem nextB_after (h : Changes S W d e) (hS : within [.regs, .chans, .ts, .lq, .out, .freeCtr, .sv, .hs] S = true) (hW : covers [.row 0x5014 2 0x800 6, .row 0x5014 2 0x800 24, .row 0x2100c 32 0x40 3, .row 0x2100c 32 0x40 4, .row 0x2100c 32 0x40 5, .row 0x21024 32 0x40 0, .row 0x40034 24 0x2000 2, .row 0x40034 24 0x2000 16, .row 0x40034 24 0x2000 28, .row 0x40034 24 0x2000 29, .row 0x40104 24 0x2000 3, .row 0x40108 24 0x2000 3, .row 0x40108 24 0x2000 29, .row 0x40218 24 0x2000 2, .row 0x40218 24 0x2000 28, .row 0x4021c 24 0x2000 8, .row 0x40304 24 0x2000 1, .row 0x40304 24 0x2000 2, .row 0x40304 24 0x2000 12, .row 0x40304 24 0x2000 20, .row 0x40304 24 0x2000 22, .row 0x40304 24 0x2000 29, .row 0x40308 24 0x2000 0, .row 0x40308 24 0x2000 8, .row 0x40308 24 0x2000 16, .row 0x40308 24 0x2000 24] W = true) (n : Nat) (i : InvSt) :
    Changes S W d (nextB n i e) := by
  unfold nextB
  try dsimp only
  repeat' first
    | (with_reducible assumption)
    | (with_reducible refine ite_after ?_ ?_)
    | (with_reducible apply goInv_after)
    | (with_reducible apply endRound_after)
    | (intro _; try dsimp only)
    | exact within_trans (by decide) hS
    | exact covers_trans (by decide +kernel) hW
    | exact rows_row hW (by decide +kernel) (by decide)
    | split

theorem pollF_after (h : Changes S W d e) (hS : within [.regs, .chans, .ts, .lq, .out, .freeCtr, .sv, .hs] S = true) (hW : covers [.row 0x5014 2 0x800 6, .row 0x5014 2 0x800 24, .row 0x2100c 32 0x40 3, .row 0x2100c 32 0x40 4, .row 0x2100c 32 0x40 5, .row 0x21024 32 0x40 0, .row 0x40034 24 0x2000 2, .row 0x40034 24 0x2000 16, .row 0x40034 24 0x2000 28, .row 0x40034 24 0x2000 29, .row 0x40104 24 0x2000 3, .row 0x40108 24 0x2000 3, .row 0x40108 24 0x2000 29, .row 0x40218 24 0x2000 2, .row 0x40218 24 0x2000 28, .row 0x4021c 24 0x2000 8, .row 0x40304 24 0x2000 1, .row 0x40304 24 0x2000 2, .row 0x40304 24 0x2000 12, .row 0x40304 24 0x2000 20, .row 0x40304 24 0x2000 22, .row 0x40304 24 0x2000 29, .row 0x40308 24 0x2000 0, .row 0x40308 24 0x2000 8, .row 0x40308 24 0x2000 16, .row 0x40308 24 0x2000 24] W = true) (n : Nat) (i : InvSt) :
    Changes S W d (pollF n i e) := by
  unfold pollF
  try dsimp only
  repeat' first
    | (with_reducible assumption)
    | (with_reducible refine ite_after ?_ ?_)
    | (with_reducible apply goInv_after)
    | (intro _; try dsimp only)
    | exact within_trans (by decide) hS
    | exact covers_trans (by decide +kernel) hW
    | exact rows_row hW (by decide +kernel) (by decide)
    | split

theorem afterDispose_after (h : Changes S W d e) (hS : within [.regs, .chans, .ts, .lq, .out, .freeCtr, .sv, .hs] S = true) (hW : covers [.row 0x5014 2 0x800 6, .row 0x5014 2 0x800 24, .row 0x2100c 32 0x40 3, .row 0x2100c 32 0x40 4, .row 0x2100c 32 0x40 5, .row 0x21024 32 0x40 0, .row 0x40034 24 0x2000 2, .row 0x40034 24 0x2000 16, .row 0x40034 24 0x2000 28, .row 0x40034 24 0x2000 29, .row 0x40104 24 0x2000 3, .row 0x40108 24 0x2000 3, .row 0x40108 24 0x2000 29, .row 0x40218 24 0x2000 2, .row 0x40218 24 0x2000 28, .row 0x4021c 24 0x2000 8, .row 0x40304 24 0x2000 1, .row 0x40304 24 0x2000 2, .row 0x40304 24 0x2000 3, .row 0x40304 24 0x2000 12, .row 0x40304 24 0x2000 20, .row 0x40304 24 0x2000 22, .row 0x40304 24 0x2000 29, .row 0x40308 24 0x2000 0, .row 0x40308 24 0x2000 8, .row 0x40308 24 0x2000 16, .row 0x40308 24 0x2000 24] W = true) (n : Nat) :
    Changes S W d (afterDispose n e) := by
  unfold afterDispose
  try dsimp only
  repeat' first
    | (with_reducible assumption)
    | (with_reducible refine ite_after ?_ ?_)
    | (with_reducible apply nextA_after)
    | (with_reducible apply afterSlotsV_after)
    | (with_reducible apply endRound_after)
    | (with_reducible apply nextB_after)
    | (intro _; try dsimp only)
    | exact within_trans (by decide) hS
    | exact covers_trans (by decide +kernel) hW
    | exact rows_row hW (by decide +kernel) (by decide)
    | split

theorem disposed_after (h : Changes S W d e) (hS : within [.regs, .chans, .ts, .lq, .out, .freeCtr, .sv, .hs] S = true) (hW : covers [.row 0x5014 2 0x800 6, .row 0x5014 2 0x800 24, .row 0x2100c 32 0x40 3, .row 0x2100c 32 0x40 4, .row 0x2100c 32 0x40 5, .row 0x21024 32 0x40 0, .row 0x40304 24 0x2000 0, .row 0x40304 24 0x2000 2, .row 0x40304 24 0x2000 12, .row 0x40304 24 0x2000 20, .row 0x40304 24 0x2000 22, .row 0x40304 24 0x2000 29, .row 0x40308 24 0x2000 16] W = true) (n : Nat) (st : Nat) (halted : Bool) (activated : Bool) :
    Changes S W d (disposed n st halted activated e) := by
  unfold disposed
  try dsimp only
  repeat' first
    | (with_reducible assumption)
    | (with_reducible refine ite_after ?_ ?_)
    | (with_reducible apply Dev.modCtx_after)
    | (with_reducible apply raiseIf_after)
    | (with_reducible apply flushTag_after)
    | (with_reducible apply setInv_after)
    | (intro _; try dsimp only)
    | exact within_trans (by decide) hS
    | exact covers_trans (by decide +kernel) hW
    | exact rows_row hW (by decide +kernel) (by decide)
    | split

theorem haltTag_after (h : Changes S W d e) (hS : within [.regs, .chans, .ts, .lq, .out, .freeCtr, .sv, .hs] S = true) (hW : covers [.row 0x5014 2 0x800 6, .row 0x5014 2 0x800 24, .row 0x2100c 32 0x40 3, .row 0x2100c 32 0x40 4, .row 0x2100c 32 0x40 5, .row 0x21024 32 0x40 0, .row 0x40034 24 0x2000 2, .row 0x40034 24 0x2000 16, .row 0x40034 24 0x2000 28, .row 0x40034 24 0x2000 29, .row 0x40104 24 0x2000 3, .row 0x40108 24 0x2000 3, .row 0x40108 24 0x2000 29, .row 0x40218 24 0x2000 2, .row 0x40218 24 0x2000 28, .row 0x4021c 24 0x2000 8, .row 0x40304 24 0x2000 1, .row 0x40304 24 0x2000 2, .row 0x40304 24 0x2000 12, .row 0x40304 24 0x2000 20, .row 0x40304 24 0x2000 22, .row 0x40304 24 0x2000 29, .row 0x40308 24 0x2000 0, .row 0x40308 24 0x2000 8, .row 0x40308 24 0x2000 16, .row 0x40308 24 0x2000 24] W = true) (n : Nat) (i : InvSt) (t0 : FoundTag) :
    Changes S W d (haltTag n i t0 e) := by
  unfold haltTag
  try dsimp only
  repeat' first
    | (with_reducible assumption)
    | (with_reducible refine ite_after ?_ ?_)
    | (with_reducible apply goInv_after)
    | (intro _; try dsimp only)
    | exact within_trans (by decide) hS
    | exact covers_trans (by decide +kernel) hW
    | exact rows_row hW (by decide +kernel) (by decide)
    | split

theorem attribTag_after (h : Changes S W d e) (hS : within [.regs, .chans, .ts, .lq, .out, .freeCtr, .sv, .hs] S = true) (hW : covers [.row 0x5014 2 0x800 6, .row 0x5014 2 0x800 24, .row 0x2100c 32 0x40 3, .row 0x2100c 32 0x40 4, .row 0x2100c 32 0x40 5, .row 0x21024 32 0x40 0, .row 0x40034 24 0x2000 2, .row 0x40034 24 0x2000 16, .row 0x40034 24 0x2000 28, .row 0x40034 24 0x2000 29, .row 0x40104 24 0x2000 3, .row 0x40108 24 0x2000 3, .row 0x40108 24 0x2000 29, .row 0x40218 24 0x2000 2, .row 0x40218 24 0x2000 28, .row 0x4021c 24 0x2000 8, .row 0x40304 24 0x2000 1, .row 0x40304 24 0x2000 2, .row 0x40304 24 0x2000 12, .row 0x40304 24 0x2000 20, .row 0x40304 24 0x2000 22, .row 0x40304 24 0x2000 29, .row 0x40308 24 0x2000 0, .row 0x40308 24 0x2000 8, .row 0x40308 24 0x2000 16, .row 0x40308 24 0x2000 24] W = true) (n : Nat) (i : InvSt) (t0 : FoundTag) :
    Changes S W d (attribTag n i t0 e) := by
  unfold attribTag
  try dsimp only
  repeat' first
    | (with_reducible assumption)
    | (with_reducible refine ite_after ?_ ?_)
    | (with_reducible apply haltTag_after)
    | (with_reducible apply goInv_after)
    | (intro _; try dsimp only)
    | exact within_trans (by decide) hS
    | exact covers_trans (by decide +kernel) hW
    | exact rows_row hW (by decide +kernel) (by decide)
    | split

theorem foundTag_after (h : Changes S W d e) (hS : within [.regs, .chans, .ts, .lq, .out, .freeCtr, .sv, .hs] S = true) (hW : covers [.row 0x5014 2 0x800 6, .row 0x5014 2 0x800 24, .row 0x2100c 32 0x40 3, .row 0x2100c 32 0x40 4, .row 0x2100c 32 0x40 5, .row 0x21024 32 0x40 0, .row 0x40034 24 0x2000 2, .row 0x40034 24 0x2000 16, .row 0x40034 24 0x2000 28, .row 0x40034 24 0x2000 29, .row 0x40104 24 0x2000 3, .row 0x40108 24 0x2000 3, .row 0x40108 24 0x2000 29, .row 0x40218 24 0x2000 2, .row 0x40218 24 0x2000 28, .row 0x4021c 24 0x2000 8, .row 0x40304 24 0x2000 0, .row 0x40304 24 0x2000 1, .row 0x40304 24 0x2000 2, .row 0x40304 24 0x2000 12, .row 0x40304 24 0x2000 20, .row 0x40304 24 0x2000 22, .row 0x40304 24 0x2000 29, .row 0x40308 24 0x2000 0, .row 0x40308 24 0x2000 8, .row 0x40308 24 0x2000 16, .row 0x40308 24 0x2000 24] W = true) (n : Nat) (i : InvSt) (t0 : FoundTag) (atqb : Option Parsed) :
    Changes S W d (foundTag n i t0 atqb e) := by
  unfold foundTag
  try dsimp only
  repeat' first
    | (with_reducible assumption)
    | (with_reducible refine ite_after ?_ ?_)
    | (with_reducible apply haltTag_after)
    | (with_reducible apply attribTag_after)
    | (with_reducible apply disposed_after)
    | (with_reducible apply goInv_after)
    | (with_reducible apply setInv_after)
    | (with_reducible apply free_after)
    | (intro _; try dsimp only)
    | exact within_trans (by decide) hS
    | exact covers_trans (by decide +kernel) hW
    | exact rows_row hW (by decide +kernel) (by decide)
    | split

theorem activatedTag_after (h : Changes S W d e) (hS : within [.regs, .chans, .ts, .lq, .out, .freeCtr, .sv, .hs] S = true) (hW : covers [.row 0x5014 2 0x800 6, .row 0x5014 2 0x800 24, .row 0x2100c 32 0x40 3, .row 0x2100c 32 0x40 4, .row 0x2100c 32 0x40 5, .row 0x21024 32 0x40 0, .row 0x40034 24 0x2000 2, .row 0x40034 24 0x2000 16, .row 0x40034 24 0x2000 28, .row 0x40034 24 0x2000 29, .row 0x40104 24 0x2000 3, .row 0x40108 24 0x2000 3, .row 0x40108 24 0x2000 29, .row 0x40218 24 0x2000 2, .row 0x40218 24 0x2000 28, .row 0x4021c 24 0x2000 8, .row 0x40304 24 0x2000 0, .row 0x40304 24 0x2000 1, .row 0x40304 24 0x2000 2, .row 0x40304 24 0x2000 3, .row 0x40304 24 0x2000 12, .row 0x40304 24 0x2000 20, .row 0x40304 24 0x2000 22, .row 0x40304 24 0x2000 29, .row 0x40308 24 0x2000 0, .row 0x40308 24 0x2000 8, .row 0x40308 24 0x2000 16, .row 0x40308 24 0x2000 24] W = true) (n : Nat) (i : InvSt) :
    Changes S W d (activatedTag n i e) := by
  unfold activatedTag
  try dsimp only
  repeat' first
    | (with_reducible assumption)
    | (with_reducible refine ite_after ?_ ?_)
    | (with_reducible apply disposed_after)
    | (with_reducible apply afterDispose_after)
    | (with_reducible apply setInv_after)
    | (intro _; try dsimp only)
    | exact within_trans (by decide) hS
    | exact covers_trans (by decide +kernel) hW
    | exact rows_row hW (by decide +kernel) (by decide)
    | split

theorem afterAts_after (h : Changes S W d e) (hS : within [.regs, .chans, .ts, .lq, .out, .freeCtr, .sv, .hs] S = true) (hW : covers [.row 0x5014 2 0x800 6, .row 0x5014 2 0x800 24, .row 0x2100c 32 0x40 3, .row 0x2100c 32 0x40 4, .row 0x2100c 32 0x40 5, .row 0x21024 32 0x40 0, .row 0x40034 24 0x2000 2, .row 0x40034 24 0x2000 16, .row 0x40034 24 0x2000 28, .row 0x40034 24 0x2000 29, .row 0x40104 24 0x2000 3, .row 0x40108 24 0x2000 3, .row 0x40108 24 0x2000 29, .row 0x40218 24 0x2000 2, .row 0x40218 24 0x2000 28, .row 0x4021c 24 0x2000 8, .row 0x40304 24 0x2000 0, .row 0x40304 24 0x2000 1, .row 0x40304 24 0x2000 2, .row 0x40304 24 0x2000 3, .row 0x40304 24 0x2000 12, .row 0x40304 24 0x2000 20, .row 0x40304 24 0x2000 22, .row 0x40304 24 0x2000 29, .row 0x40308 24 0x2000 0, .row 0x40308 24 0x2000 8, .row 0x40308 24 0x2000 16, .row 0x40308 24 0x2000 24] W = true) (n : Nat) (i : InvSt) (ta : Nat) :
    Changes S W d (afterAts n i ta e) := by
  unfold afterAts
  try dsimp only
  repeat' first
    | (with_reducible assumption)
    | (with_reducible refine ite_after ?_ ?_)
    | (with_reducible apply activatedTag_after)
    | (with_reducible apply goInv_after)
    | (intro _; try dsimp only)
    | exact within_trans (by decide) hS
    | exact covers_trans (by decide +kernel) hW
    | exact rows_row hW (by decide +kernel) (by decide)
    | split

theorem onAnticoll_after (h : Changes S W d e) (hS : within [.regs, .chans, .ts, .lq, .out, .freeCtr, .sv, .hs] S = true) (hW : covers [.row 0x5014 2 0x800 6, .row 0x5014 2 0x800 24, .row 0x2100c 32 0x40 3, .row 0x2100c 32 0x40 4, .row 0x2100c 32 0x40 5, .row 0x21024 32 0x40 0, .row 0x40034 24 0x2000 2, .row 0x40034 24 0x2000 16, .row 0x40034 24 0x2000 28, .row 0x40034 24 0x2000 29, .row 0x40104 24 0x2000 3, .row 0x40108 24 0x2000 3, .row 0x40108 24 0x2000 29, .row 0x40218 24 0x2000 2, .row 0x40218 24 0x2000 28, .row 0x4021c 24 0x2000 8, .row 0x40304 24 0x2000 1, .row 0x40304 24 0x2000 2, .row 0x40304 24 0x2000 3, .row 0x40304 24 0x2000 12, .row 0x40304 24 0x2000 20, .row 0x40304 24 0x2000 22, .row 0x40304 24 0x2000 29, .row 0x40308 24 0x2000 0, .row 0x40308 24 0x2000 8, .row 0x40308 24 0x2000 16, .row 0x40308 24 0x2000 24] W = true) (n : Nat) (i : InvSt) (r : Option (Parsed × List Word)) :
    Changes S W d (onAnticoll n i r e) := by
  unfold onAnticoll
  try dsimp only
  repeat' first
    | (with_reducible assumption)
    | (with_reducible refine ite_after ?_ ?_)
    | (with_reducible apply goInv_after)
    | (with_reducible apply walkA_after)
    | (with_reducible apply abandonA_after)
    | (with_reducible apply pushBranch_after)
    | (intro _; try dsimp only)
    | exact within_trans (by decide) hS
    | exact covers_trans (by decide +kernel) hW
    | exact rows_row hW (by decide +kernel) (by decide)
    | split

theorem onSak_after (h : Changes S W d e) (hS : within [.regs, .chans, .ts, .lq, .out, .freeCtr, .sv, .hs] S = true) (hW : covers [.row 0x5014 2 0x800 6, .row 0x5014 2 0x800 24, .row 0x2100c 32 0x40 3, .row 0x2100c 32 0x40 4, .row 0x2100c 32 0x40 5, .row 0x21024 32 0x40 0, .row 0x40034 24 0x2000 2, .row 0x40034 24 0x2000 16, .row 0x40034 24 0x2000 28, .row 0x40034 24 0x2000 29, .row 0x40104 24 0x2000 3, .row 0x40108 24 0x2000 3, .row 0x40108 24 0x2000 29, .row 0x40218 24 0x2000 2, .row 0x40218 24 0x2000 28, .row 0x4021c 24 0x2000 8, .row 0x40304 24 0x2000 0, .row 0x40304 24 0x2000 1, .row 0x40304 24 0x2000 2, .row 0x40304 24 0x2000 12, .row 0x40304 24 0x2000 20, .row 0x40304 24 0x2000 22, .row 0x40304 24 0x2000 29, .row 0x40308 24 0x2000 0, .row 0x40308 24 0x2000 8, .row 0x40308 24 0x2000 16, .row 0x40308 24 0x2000 24] W = true) (n : Nat) (i : InvSt) (r : Option (Parsed × List Word)) :
    Changes S W d (onSak n i r e) := by
  unfold onSak
  try dsimp only
  repeat' first
    | (with_reducible assumption)
    | (with_reducible refine ite_after ?_ ?_)
    | (with_reducible apply foundTag_after)
    | (with_reducible apply walkA_after)
    | (with_reducible apply abandonA_after)
    | (intro _; try dsimp only)
    | exact within_trans (by decide) hS
    | exact covers_trans (by decide +kernel) hW
    | exact rows_row hW (by decide +kernel) (by decide)
    | split

theorem onPopSak_after (h : Changes S W d e) (hS : within [.regs, .chans, .ts, .lq, .out, .freeCtr, .sv, .hs] S = true) (hW : covers [.row 0x5014 2 0x800 6, .row 0x5014 2 0x800 24, .row 0x2100c 32 0x40 3, .row 0x2100c 32 0x40 4, .row 0x2100c 32 0x40 5, .row 0x21024 32 0x40 0, .row 0x40034 24 0x2000 2, .row 0x40034 24 0x2000 16, .row 0x40034 24 0x2000 28, .row 0x40034 24 0x2000 29, .row 0x40104 24 0x2000 3, .row 0x40108 24 0x2000 3, .row 0x40108 24 0x2000 29, .row 0x40218 24 0x2000 2, .row 0x40218 24 0x2000 28, .row 0x4021c 24 0x2000 8, .row 0x40304 24 0x2000 1, .row 0x40304 24 0x2000 2, .row 0x40304 24 0x2000 12, .row 0x40304 24 0x2000 20, .row 0x40304 24 0x2000 22, .row 0x40304 24 0x2000 29, .row 0x40308 24 0x2000 0, .row 0x40308 24 0x2000 8, .row 0x40308 24 0x2000 16, .row 0x40308 24 0x2000 24] W = true) (n : Nat) (i : InvSt) (j : Nat) (r : Option (Parsed × List Word)) :
    Changes S W d (onPopSak n i j r e) := by
  unfold onPopSak
  try dsimp only
  repeat' first
    | (with_reducible assumption)
    | (with_reducible refine ite_after ?_ ?_)
    | (with_reducible apply goInv_after)
    | (with_reducible apply walkA_after)
    | (with_reducible apply abandonA_after)
    | (intro _; try dsimp only)
    | exact within_trans (by decide) hS
    | exact covers_trans (by decide +kernel) hW
    | exact rows_row hW (by decide +kernel) (by decide)
    | split

theorem onSlot_after (h : Changes S W d e) (hS : within [.regs, .chans, .ts, .lq, .out, .freeCtr, .sv, .hs] S = true) (hW : covers [.row 0x5014 2 0x800 6, .row 0x5014 2 0x800 24, .row 0x2100c 32 0x40 3, .row 0x2100c 32 0x40 4, .row 0x2100c 32 0x40 5, .row 0x21024 32 0x40 0, .row 0x40034 24 0x2000 2, .row 0x40034 24 0x2000 16, .row 0x40034 24 0x2000 28, .row 0x40034 24 0x2000 29, .row 0x40104 24 0x2000 3, .row 0x40108 24 0x2000 3, .row 0x40108 24 0x2000 29, .row 0x40218 24 0x2000 2, .row 0x40218 24 0x2000 28, .row 0x4021c 24 0x2000 8, .row 0x40304 24 0x2000 0, .row 0x40304 24 0x2000 1, .row 0x40304 24 0x2000 2, .row 0x40304 24 0x2000 3, .row 0x40304 24 0x2000 12, .row 0x40304 24 0x2000 20, .row 0x40304 24 0x2000 22, .row 0x40304 24 0x2000 29, .row 0x40308 24 0x2000 0, .row 0x40308 24 0x2000 8, .row 0x40308 24 0x2000 16, .row 0x40308 24 0x2000 24] W = true) (n : Nat) (i : InvSt) (s0 : Nat) (r : Option (Parsed × List Word)) :
    Changes S W d (onSlot n i s0 r e) := by
  unfold onSlot
  try dsimp only
  repeat' first
    | (with_reducible assumption)
    | (with_reducible refine ite_after ?_ ?_)
    | (with_reducible apply foundTag_after)
    | (with_reducible apply afterSlotsV_after)
    | (with_reducible apply pollF_after)
    | (with_reducible apply afterDispose_after)
    | (with_reducible apply flushTag_after)
    | (with_reducible apply goInv_after)
    | (with_reducible apply endRound_after)
    | (with_reducible apply setInv_after)
    | (with_reducible apply nextB_after)
    | (intro _; try dsimp only)
    | exact within_trans (by decide) hS
    | exact covers_trans (by decide +kernel) hW
    | exact rows_row hW (by decide +kernel) (by decide)
    | split

theorem onInvParams_after (h : Changes S W d e) (hS : within [.regs, .chans, .ts, .lq, .out, .freeCtr, .sv, .hs] S = true) (hW : covers [.row 0x5014 2 0x800 6, .row 0x5014 2 0x800 24, .row 0x2100c 32 0x40 3, .row 0x2100c 32 0x40 4, .row 0x2100c 32 0x40 5, .row 0x21024 32 0x40 0, .row 0x40034 24 0x2000 2, .row 0x40034 24 0x2000 16, .row 0x40034 24 0x2000 28, .row 0x40034 24 0x2000 29, .row 0x40104 24 0x2000 3, .row 0x40108 24 0x2000 3, .row 0x40108 24 0x2000 29, .row 0x40218 24 0x2000 1, .row 0x40218 24 0x2000 2, .row 0x40218 24 0x2000 28, .row 0x4021c 24 0x2000 8, .row 0x4021c 24 0x2000 24, .row 0x40304 24 0x2000 0, .row 0x40304 24 0x2000 1, .row 0x40304 24 0x2000 2, .row 0x40304 24 0x2000 3, .row 0x40304 24 0x2000 12, .row 0x40304 24 0x2000 20, .row 0x40304 24 0x2000 22, .row 0x40304 24 0x2000 29, .row 0x40308 24 0x2000 0, .row 0x40308 24 0x2000 8, .row 0x40308 24 0x2000 16, .row 0x40308 24 0x2000 24] W = true) (n : Nat) (i : InvSt) (b : Block) :
    Changes S W d (onInvParams n i b e) := by
  unfold onInvParams
  try dsimp only
  repeat' first
    | (with_reducible assumption)
    | (with_reducible refine ite_after ?_ ?_)
    | (with_reducible apply relaunch_after)
    | (with_reducible apply raise_after)
    | (with_reducible apply countSat_after)
    | (with_reducible apply activatedTag_after)
    | (with_reducible apply Dev.seq_after)
    | (intro _; try dsimp only)
    | exact within_trans (by decide) hS
    | exact covers_trans (by decide +kernel) hW
    | exact rows_row hW (by decide +kernel) (by decide)
    | split

theorem onInv_after (h : Changes S W d e) (hS : within [.regs, .chans, .ts, .lq, .out, .freeCtr, .sv, .hs] S = true) (hW : covers [.row 0x5014 2 0x800 6, .row 0x5014 2 0x800 24, .row 0x2100c 32 0x40 3, .row 0x2100c 32 0x40 4, .row 0x2100c 32 0x40 5, .row 0x21024 32 0x40 0, .row 0x40034 24 0x2000 2, .row 0x40034 24 0x2000 16, .row 0x40034 24 0x2000 28, .row 0x40034 24 0x2000 29, .row 0x40104 24 0x2000 3, .row 0x40108 24 0x2000 3, .row 0x40108 24 0x2000 29, .row 0x40218 24 0x2000 1, .row 0x40218 24 0x2000 2, .row 0x40218 24 0x2000 28, .row 0x4021c 24 0x2000 8, .row 0x4021c 24 0x2000 24, .row 0x40304 24 0x2000 0, .row 0x40304 24 0x2000 1, .row 0x40304 24 0x2000 2, .row 0x40304 24 0x2000 3, .row 0x40304 24 0x2000 12, .row 0x40304 24 0x2000 20, .row 0x40304 24 0x2000 22, .row 0x40304 24 0x2000 29, .row 0x40308 24 0x2000 0, .row 0x40308 24 0x2000 8, .row 0x40308 24 0x2000 16, .row 0x40308 24 0x2000 24] W = true) (n : Nat) (i : InvSt) (r : Option (Parsed × List Word)) :
    Changes S W d (onInv n i r e) := by
  unfold onInv
  try dsimp only
  repeat' first
    | (with_reducible assumption)
    | (with_reducible refine ite_after ?_ ?_)
    | (with_reducible apply haltTag_after)
    | (with_reducible apply Dev.modCtx_after)
    | (with_reducible apply disposed_after)
    | (with_reducible apply onPopSak_after)
    | (with_reducible apply onSak_after)
    | (with_reducible apply activatedTag_after)
    | (with_reducible apply afterDispose_after)
    | (with_reducible apply onSlot_after)
    | (with_reducible apply goInv_after)
    | (with_reducible apply endRound_after)
    | (with_reducible apply onAnticoll_after)
    | (with_reducible apply walkA_after)
    | (with_reducible apply abandonA_after)
    | (with_reducible apply afterAts_after)
    | (with_reducible apply onInvParams_after)
    | (intro _; try dsimp only)
    | exact within_trans (by decide) hS
    | exact covers_trans (by decide +kernel) hW
    | exact rows_row hW (by decide +kernel) (by decide)
    | split

theorem onInvSent_after (h : Changes S W d e) (hS : within [.regs, .chans, .ts, .lq, .out, .freeCtr, .sv, .hs] S = true) (hW : covers [.row 0x5014 2 0x800 6, .row 0x5014 2 0x800 24, .row 0x2100c 32 0x40 3, .row 0x2100c 32 0x40 4, .row 0x2100c 32 0x40 5, .row 0x21024 32 0x40 0, .row 0x40034 24 0x2000 2, .row 0x40034 24 0x2000 16, .row 0x40034 24 0x2000 28, .row 0x40034 24 0x2000 29, .row 0x40104 24 0x2000 3, .row 0x40108 24 0x2000 3, .row 0x40108 24 0x2000 29, .row 0x40218 24 0x2000 2, .row 0x40218 24 0x2000 28, .row 0x4021c 24 0x2000 8, .row 0x40304 24 0x2000 0, .row 0x40304 24 0x2000 1, .row 0x40304 24 0x2000 2, .row 0x40304 24 0x2000 3, .row 0x40304 24 0x2000 12, .row 0x40304 24 0x2000 20, .row 0x40304 24 0x2000 22, .row 0x40304 24 0x2000 29, .row 0x40308 24 0x2000 0, .row 0x40308 24 0x2000 8, .row 0x40308 24 0x2000 16, .row 0x40308 24 0x2000 24] W = true) (n : Nat) (i : InvSt) :
    Changes S W d (onInvSent n i e) := by
  unfold onInvSent
  try dsimp only
  repeat' first
    | (with_reducible assumption)
    | (with_reducible refine ite_after ?_ ?_)
    | (with_reducible apply disposed_after)
    | (with_reducible apply afterDispose_after)
    | (with_reducible apply flushTag_after)
    | (with_reducible apply goInv_after)
    | (with_reducible apply haltActiveA_after)
    | (intro _; try dsimp only)
    | exact within_trans (by decide) hS
    | exact covers_trans (by decide +kernel) hW
    | exact rows_row hW (by decide +kernel) (by decide)
    | split

theorem startRound_after (h : Changes S W d e) (hS : within [.regs, .chans, .ts, .lq, .out, .freeCtr, .sv, .hs] S = true) (hW : covers [.row 0x5014 2 0x800 6, .row 0x5014 2 0x800 24, .row 0x2100c 32 0x40 3, .row 0x2100c 32 0x40 4, .row 0x2100c 32 0x40 5, .row 0x21024 32 0x40 0, .row 0x40034 24 0x2000 2, .row 0x40034 24 0x2000 16, .row 0x40034 24 0x2000 28, .row 0x40034 24 0x2000 29, .row 0x40104 24 0x2000 3, .row 0x40108 24 0x2000 3, .row 0x40108 24 0x2000 29, .row 0x40218 24 0x2000 2, .row 0x40218 24 0x2000 28, .row 0x4021c 24 0x2000 8, .row 0x40304 24 0x2000 1, .row 0x40304 24 0x2000 2, .row 0x40304 24 0x2000 12, .row 0x40304 24 0x2000 20, .row 0x40304 24 0x2000 22, .row 0x40304 24 0x2000 29, .row 0x40308 24 0x2000 0, .row 0x40308 24 0x2000 8, .row 0x40308 24 0x2000 16, .row 0x40308 24 0x2000 24] W = true) (n : Nat) (i : InvSt) :
    Changes S W d (startRound n i e) := by
  unfold startRound
  try dsimp only
  repeat' first
    | (with_reducible assumption)
    | (with_reducible refine ite_after ?_ ?_)
    | (with_reducible apply nextV_after)
    | (with_reducible apply pollF_after)
    | (with_reducible apply startA_after)
    | (with_reducible apply goInv_after)
    | (intro _; try dsimp only)
    | exact within_trans (by decide) hS
    | exact covers_trans (by decide +kernel) hW
    | exact rows_row hW (by decide +kernel) (by decide)
    | split

end

end Sys2Proof.Machine
end

