-- ==== Sys2Proof/Laws/ChangesCommands.lean ====
section
/-!
SUPPORT. What every operation of Machine/Commands can change.
-/

set_option Elab.async false
set_option linter.all false

namespace Sys2Proof.Machine

section
variable {S : List Part} {W : List Span} {d e : Dev}

theorem goCmd_after (h : Changes S W d e) (hS : within [.regs, .chans, .ts, .lq, .out, .freeCtr, .sv, .hs] S = true) (hW : covers [.row 0x5014 2 0x800 6, .row 0x5014 2 0x800 24, .row 0x2100c 32 0x40 3, .row 0x2100c 32 0x40 4, .row 0x2100c 32 0x40 5, .row 0x21024 32 0x40 0, .row 0x40034 24 0x2000 2, .row 0x40034 24 0x2000 16, .row 0x40034 24 0x2000 28, .row 0x40034 24 0x2000 29, .row 0x40104 24 0x2000 3, .row 0x40108 24 0x2000 3, .row 0x40108 24 0x2000 29, .row 0x40218 24 0x2000 2, .row 0x40218 24 0x2000 28, .row 0x4021c 24 0x2000 8, .row 0x40304 24 0x2000 1, .row 0x40304 24 0x2000 2, .row 0x40304 24 0x2000 20, .row 0x40304 24 0x2000 22, .row 0x40304 24 0x2000 29, .row 0x40308 24 0x2000 0, .row 0x40308 24 0x2000 8, .row 0x40308 24 0x2000 16, .row 0x40308 24 0x2000 24] W = true) (n : Nat) (s0 : CmdSt) (f : AirFrame) :
    Changes S W d (goCmd n s0 f e) := by
  unfold goCmd
  try dsimp only
  repeat' first
    | (with_reducible assumption)
    | (with_reducible refine ite_after ?_ ?_)
    | (with_reducible apply Dev.setJob_after)
    | (with_reducible apply nextFrame_after)
    | (with_reducible apply endCommand_after)
    | (intro _; try dsimp only)
    | exact within_trans (by decide) hS
    | exact covers_trans (by decide +kernel) hW
    | exact rows_row hW (by decide +kernel) (by decide)
    | split

theorem goWup_after (h : Changes S W d e) (hS : within [.regs, .chans, .ts, .lq, .out, .freeCtr, .sv, .hs] S = true) (hW : covers [.row 0x5014 2 0x800 6, .row 0x5014 2 0x800 24, .row 0x2100c 32 0x40 3, .row 0x2100c 32 0x40 4, .row 0x2100c 32 0x40 5, .row 0x21024 32 0x40 0, .row 0x40034 24 0x2000 2, .row 0x40034 24 0x2000 16, .row 0x40034 24 0x2000 28, .row 0x40034 24 0x2000 29, .row 0x40104 24 0x2000 3, .row 0x40108 24 0x2000 3, .row 0x40108 24 0x2000 29, .row 0x40218 24 0x2000 2, .row 0x40218 24 0x2000 28, .row 0x4021c 24 0x2000 8, .row 0x40304 24 0x2000 1, .row 0x40304 24 0x2000 2, .row 0x40304 24 0x2000 20, .row 0x40304 24 0x2000 22, .row 0x40304 24 0x2000 29, .row 0x40308 24 0x2000 0, .row 0x40308 24 0x2000 8, .row 0x40308 24 0x2000 16, .row 0x40308 24 0x2000 24] W = true) (n : Nat) (s0 : CmdSt) (tries : Nat) :
    Changes S W d (goWup n s0 tries e) := by
  unfold goWup
  try dsimp only
  repeat' first
    | (with_reducible assumption)
    | (with_reducible refine ite_after ?_ ?_)
    | (with_reducible apply goCmd_after)
    | (intro _; try dsimp only)
    | exact within_trans (by decide) hS
    | exact covers_trans (by decide +kernel) hW
    | exact rows_row hW (by decide +kernel) (by decide)
    | split

theorem goSel_after (h : Changes S W d e) (hS : within [.regs, .chans, .ts, .lq, .out, .freeCtr, .sv, .hs] S = true) (hW : covers [.row 0x5014 2 0x800 6, .row 0x5014 2 0x800 24, .row 0x2100c 32 0x40 3, .row 0x2100c 32 0x40 4, .row 0x2100c 32 0x40 5, .row 0x21024 32 0x40 0, .row 0x40034 24 0x2000 2, .row 0x40034 24 0x2000 16, .row 0x40034 24 0x2000 28, .row 0x40034 24 0x2000 29, .row 0x40104 24 0x2000 3, .row 0x40108 24 0x2000 3, .row 0x40108 24 0x2000 29, .row 0x40218 24 0x2000 2, .row 0x40218 24 0x2000 28, .row 0x4021c 24 0x2000 8, .row 0x40304 24 0x2000 1, .row 0x40304 24 0x2000 2, .row 0x40304 24 0x2000 20, .row 0x40304 24 0x2000 22, .row 0x40304 24 0x2000 29, .row 0x40308 24 0x2000 0, .row 0x40308 24 0x2000 8, .row 0x40308 24 0x2000 16, .row 0x40308 24 0x2000 24] W = true) (n : Nat) (s0 : CmdSt) (level : Nat) (tries : Nat) :
    Changes S W d (goSel n s0 level tries e) := by
  unfold goSel
  try dsimp only
  repeat' first
    | (with_reducible assumption)
    | (with_reducible refine ite_after ?_ ?_)
    | (with_reducible apply goCmd_after)
    | (intro _; try dsimp only)
    | exact within_trans (by decide) hS
    | exact covers_trans (by decide +kernel) hW
    | exact rows_row hW (by decide +kernel) (by decide)
    | split

theorem notFound_after (h : Changes S W d e) (hS : within [.regs, .chans, .lq, .out, .sv, .hs] S = true) (hW : covers [.row 0x5014 2 0x800 6, .row 0x5014 2 0x800 24, .row 0x2100c 32 0x40 3, .row 0x2100c 32 0x40 4, .row 0x2100c 32 0x40 5, .row 0x21024 32 0x40 0, .row 0x40108 24 0x2000 29, .row 0x40218 24 0x2000 28, .row 0x40304 24 0x2000 1, .row 0x40308 24 0x2000 0, .row 0x40308 24 0x2000 8, .row 0x40308 24 0x2000 24] W = true) (n : Nat) (s0 : CmdSt) :
    Changes S W d (notFound n s0 e) := by
  unfold notFound
  try dsimp only
  repeat' first
    | (with_reducible assumption)
    | (with_reducible refine ite_after ?_ ?_)
    | (with_reducible apply endCommand_after)
    | (intro _; try dsimp only)
    | exact within_trans (by decide) hS
    | exact covers_trans (by decide +kernel) hW
    | exact rows_row hW (by decide +kernel) (by decide)
    | split

theorem activateDone_after (h : Changes S W d e) (hS : within [.regs, .chans, .lq, .out, .sv, .hs] S = true) (hW : covers [.row 0x5014 2 0x800 6, .row 0x5014 2 0x800 24, .row 0x2100c 32 0x40 3, .row 0x2100c 32 0x40 4, .row 0x2100c 32 0x40 5, .row 0x21024 32 0x40 0, .row 0x40108 24 0x2000 29, .row 0x40218 24 0x2000 28, .row 0x40304 24 0x2000 1, .row 0x40308 24 0x2000 0, .row 0x40308 24 0x2000 8, .row 0x40308 24 0x2000 24] W = true) (n : Nat) (st : Nat) (s0 : CmdSt) :
    Changes S W d (activateDone n st s0 e) := by
  unfold activateDone
  try dsimp only
  repeat' first
    | (with_reducible assumption)
    | (with_reducible refine ite_after ?_ ?_)
    | (with_reducible apply Dev.modCtx_after)
    | (with_reducible apply endCommand_after)
    | (intro _; try dsimp only)
    | exact within_trans (by decide) hS
    | exact covers_trans (by decide +kernel) hW
    | exact rows_row hW (by decide +kernel) (by decide)
    | split

theorem afterSelect_after (h : Changes S W d e) (hS : within [.regs, .chans, .ts, .lq, .out, .freeCtr, .sv, .hs] S = true) (hW : covers [.row 0x5014 2 0x800 6, .row 0x5014 2 0x800 24, .row 0x2100c 32 0x40 3, .row 0x2100c 32 0x40 4, .row 0x2100c 32 0x40 5, .row 0x21024 32 0x40 0, .row 0x40034 24 0x2000 2, .row 0x40034 24 0x2000 16, .row 0x40034 24 0x2000 28, .row 0x40034 24 0x2000 29, .row 0x40104 24 0x2000 3, .row 0x40108 24 0x2000 3, .row 0x40108 24 0x2000 29, .row 0x40218 24 0x2000 2, .row 0x40218 24 0x2000 28, .row 0x4021c 24 0x2000 8, .row 0x40304 24 0x2000 1, .row 0x40304 24 0x2000 2, .row 0x40304 24 0x2000 20, .row 0x40304 24 0x2000 22, .row 0x40304 24 0x2000 29, .row 0x40308 24 0x2000 0, .row 0x40308 24 0x2000 8, .row 0x40308 24 0x2000 16, .row 0x40308 24 0x2000 24] W = true) (n : Nat) (s0 : CmdSt) (sak : Nat) :
    Changes S W d (afterSelect n s0 sak e) := by
  unfold afterSelect
  try dsimp only
  repeat' first
    | (with_reducible assumption)
    | (with_reducible refine ite_after ?_ ?_)
    | (with_reducible apply Dev.modCtx_after)
    | (with_reducible apply goCmd_after)
    | (with_reducible apply activateDone_after)
    | (with_reducible apply free_after)
    | (intro _; try dsimp only)
    | exact within_trans (by decide) hS
    | exact covers_trans (by decide +kernel) hW
    | exact rows_row hW (by decide +kernel) (by decide)
    | split

theorem activateAts_after (h : Changes S W d e) (hS : within [.regs, .chans, .ts, .lq, .out, .freeCtr, .sv, .hs] S = true) (hW : covers [.row 0x5014 2 0x800 6, .row 0x5014 2 0x800 24, .row 0x2100c 32 0x40 3, .row 0x2100c 32 0x40 4, .row 0x2100c 32 0x40 5, .row 0x21024 32 0x40 0, .row 0x40034 24 0x2000 2, .row 0x40034 24 0x2000 16, .row 0x40034 24 0x2000 28, .row 0x40034 24 0x2000 29, .row 0x40104 24 0x2000 3, .row 0x40108 24 0x2000 3, .row 0x40108 24 0x2000 29, .row 0x40218 24 0x2000 2, .row 0x40218 24 0x2000 28, .row 0x4021c 24 0x2000 8, .row 0x40304 24 0x2000 1, .row 0x40304 24 0x2000 2, .row 0x40304 24 0x2000 20, .row 0x40304 24 0x2000 22, .row 0x40304 24 0x2000 29, .row 0x40308 24 0x2000 0, .row 0x40308 24 0x2000 8, .row 0x40308 24 0x2000 16, .row 0x40308 24 0x2000 24] W = true) (n : Nat) (s0 : CmdSt) (ta : Nat) :
    Changes S W d (activateAts n s0 ta e) := by
  unfold activateAts
  try dsimp only
  repeat' first
    | (with_reducible assumption)
    | (with_reducible refine ite_after ?_ ?_)
    | (with_reducible apply goCmd_after)
    | (with_reducible apply activateDone_after)
    | (intro _; try dsimp only)
    | exact within_trans (by decide) hS
    | exact covers_trans (by decide +kernel) hW
    | exact rows_row hW (by decide +kernel) (by decide)
    | split

theorem goAttrib_after (h : Changes S W d e) (hS : within [.regs, .chans, .ts, .lq, .out, .freeCtr, .sv, .hs] S = true) (hW : covers [.row 0x5014 2 0x800 6, .row 0x5014 2 0x800 24, .row 0x2100c 32 0x40 3, .row 0x2100c 32 0x40 4, .row 0x2100c 32 0x40 5, .row 0x21024 32 0x40 0, .row 0x40034 24 0x2000 2, .row 0x40034 24 0x2000 16, .row 0x40034 24 0x2000 28, .row 0x40034 24 0x2000 29, .row 0x40104 24 0x2000 3, .row 0x40108 24 0x2000 3, .row 0x40108 24 0x2000 29, .row 0x40218 24 0x2000 2, .row 0x40218 24 0x2000 28, .row 0x4021c 24 0x2000 8, .row 0x40304 24 0x2000 1, .row 0x40304 24 0x2000 2, .row 0x40304 24 0x2000 20, .row 0x40304 24 0x2000 22, .row 0x40304 24 0x2000 29, .row 0x40308 24 0x2000 0, .row 0x40308 24 0x2000 8, .row 0x40308 24 0x2000 16, .row 0x40308 24 0x2000 24] W = true) (n : Nat) (s0 : CmdSt) (tries : Nat) :
    Changes S W d (goAttrib n s0 tries e) := by
  unfold goAttrib
  try dsimp only
  repeat' first
    | (with_reducible assumption)
    | (with_reducible refine ite_after ?_ ?_)
    | (with_reducible apply goCmd_after)
    | (with_reducible apply endCommand_after)
    | (intro _; try dsimp only)
    | exact within_trans (by decide) hS
    | exact covers_trans (by decide +kernel) hW
    | exact rows_row hW (by decide +kernel) (by decide)
    | split

theorem sendChunk_after (h : Changes S W d e) (hS : within [.regs, .chans, .ts, .lq, .out, .freeCtr, .sv, .hs] S = true) (hW : covers [.row 0x5014 2 0x800 6, .row 0x5014 2 0x800 24, .row 0x2100c 32 0x40 3, .row 0x2100c 32 0x40 4, .row 0x2100c 32 0x40 5, .row 0x21024 32 0x40 0, .row 0x40034 24 0x2000 2, .row 0x40034 24 0x2000 16, .row 0x40034 24 0x2000 28, .row 0x40034 24 0x2000 29, .row 0x40104 24 0x2000 3, .row 0x40108 24 0x2000 3, .row 0x40108 24 0x2000 29, .row 0x40218 24 0x2000 2, .row 0x40218 24 0x2000 28, .row 0x4021c 24 0x2000 8, .row 0x40304 24 0x2000 1, .row 0x40304 24 0x2000 2, .row 0x40304 24 0x2000 20, .row 0x40304 24 0x2000 22, .row 0x40304 24 0x2000 29, .row 0x40308 24 0x2000 0, .row 0x40308 24 0x2000 8, .row 0x40308 24 0x2000 16, .row 0x40308 24 0x2000 24] W = true) (n : Nat) (s0 : CmdSt) :
    Changes S W d (sendChunk n s0 e) := by
  unfold sendChunk
  try dsimp only
  repeat' first
    | (with_reducible assumption)
    | (with_reducible refine ite_after ?_ ?_)
    | (with_reducible apply relaunch_after)
    | (with_reducible apply Dev.setJob_after)
    | (with_reducible apply nextFrame_after)
    | (intro _; try dsimp only)
    | exact within_trans (by decide) hS
    | exact covers_trans (by decide +kernel) hW
    | exact rows_row hW (by decide +kernel) (by decide)
    | split

theorem beginBlocks_after (h : Changes S W d e) (hS : within [.regs, .chans, .ts, .lq, .out, .freeCtr, .sv, .hs] S = true) (hW : covers [.row 0x5014 2 0x800 6, .row 0x5014 2 0x800 24, .row 0x2100c 32 0x40 3, .row 0x2100c 32 0x40 4, .row 0x2100c 32 0x40 5, .row 0x21024 32 0x40 0, .row 0x40034 24 0x2000 2, .row 0x40034 24 0x2000 16, .row 0x40034 24 0x2000 28, .row 0x40034 24 0x2000 29, .row 0x40104 24 0x2000 3, .row 0x40108 24 0x2000 3, .row 0x40108 24 0x2000 29, .row 0x40218 24 0x2000 2, .row 0x40218 24 0x2000 28, .row 0x4021c 24 0x2000 8, .row 0x40304 24 0x2000 1, .row 0x40304 24 0x2000 2, .row 0x40304 24 0x2000 20, .row 0x40304 24 0x2000 22, .row 0x40304 24 0x2000 29, .row 0x40308 24 0x2000 0, .row 0x40308 24 0x2000 8, .row 0x40308 24 0x2000 16, .row 0x40308 24 0x2000 24] W = true) (n : Nat) (s0 : CmdSt) (bs : List Byte) :
    Changes S W d (beginBlocks n s0 bs e) := by
  unfold beginBlocks
  try dsimp only
  repeat' first
    | (with_reducible assumption)
    | (with_reducible refine ite_after ?_ ?_)
    | (with_reducible apply Dev.modChan_after)
    | (with_reducible apply endCommand_after)
    | (with_reducible apply sendChunk_after)
    | (intro _; try dsimp only)
    | exact within_trans (by decide) hS
    | exact covers_trans (by decide +kernel) hW
    | exact rows_row hW (by decide +kernel) (by decide)
    | split

theorem reconFail_after (h : Changes S W d e) (hS : within [.regs, .chans, .lq, .out, .sv, .hs] S = true) (hW : covers [.row 0x5014 2 0x800 6, .row 0x5014 2 0x800 24, .row 0x2100c 32 0x40 3, .row 0x2100c 32 0x40 4, .row 0x2100c 32 0x40 5, .row 0x21024 32 0x40 0, .row 0x40108 24 0x2000 29, .row 0x40218 24 0x2000 28, .row 0x40304 24 0x2000 1, .row 0x40308 24 0x2000 0, .row 0x40308 24 0x2000 8, .row 0x40308 24 0x2000 24] W = true) (n : Nat) (s0 : CmdSt) :
    Changes S W d (reconFail n s0 e) := by
  unfold reconFail
  try dsimp only
  repeat' first
    | (with_reducible assumption)
    | (with_reducible refine ite_after ?_ ?_)
    | (with_reducible apply sessionEnd_after)
    | (with_reducible apply endCommand_after)
    | (intro _; try dsimp only)
    | exact within_trans (by decide) hS
    | exact covers_trans (by decide +kernel) hW
    | exact rows_row hW (by decide +kernel) (by decide)
    | split

theorem protocolEnd.endHalt_after (h : Changes S W d e) (hS : within [.regs, .chans, .lq, .out, .sv, .hs] S = true) (hW : covers [.row 0x5014 2 0x800 6, .row 0x5014 2 0x800 24, .row 0x2100c 32 0x40 3, .row 0x2100c 32 0x40 4, .row 0x2100c 32 0x40 5, .row 0x21024 32 0x40 0, .row 0x40218 24 0x2000 28, .row 0x40304 24 0x2000 1, .row 0x40308 24 0x2000 8, .row 0x40308 24 0x2000 24] W = true) (n : Nat) (s0 : CmdSt) :
    Changes S W d (protocolEnd.endHalt n s0 e) := by
  unfold protocolEnd.endHalt
  try dsimp only
  repeat' first
    | (with_reducible assumption)
    | (with_reducible refine ite_after ?_ ?_)
    | (with_reducible apply sessionEnd_after)
    | (with_reducible apply Dev.modChan_after)
    | (with_reducible apply reconcileNext_after)
    | (with_reducible apply drain_after)
    | (intro _; try dsimp only)
    | exact within_trans (by decide) hS
    | exact covers_trans (by decide +kernel) hW
    | exact rows_row hW (by decide +kernel) (by decide)
    | split

theorem protocolEnd_after (h : Changes S W d e) (hS : within [.regs, .chans, .lq, .out, .sv, .hs] S = true) (hW : covers [.row 0x5014 2 0x800 6, .row 0x5014 2 0x800 24, .row 0x2100c 32 0x40 3, .row 0x2100c 32 0x40 4, .row 0x2100c 32 0x40 5, .row 0x21024 32 0x40 0, .row 0x40108 24 0x2000 29, .row 0x40218 24 0x2000 28, .row 0x40304 24 0x2000 1, .row 0x40308 24 0x2000 0, .row 0x40308 24 0x2000 8, .row 0x40308 24 0x2000 24] W = true) (n : Nat) (s0 : CmdSt) :
    Changes S W d (protocolEnd n s0 e) := by
  unfold protocolEnd
  try dsimp only
  repeat' first
    | (with_reducible assumption)
    | (with_reducible refine ite_after ?_ ?_)
    | (with_reducible apply closeExchange_after)
    | (with_reducible apply Dev.setJob_after)
    | (with_reducible apply launch_after)
    | (with_reducible apply protocolEnd.endHalt_after)
    | (with_reducible apply reconFail_after)
    | (with_reducible apply commandItem_after)
    | (with_reducible apply endCommand_after)
    | (intro _; try dsimp only)
    | exact within_trans (by decide) hS
    | exact covers_trans (by decide +kernel) hW
    | exact rows_row hW (by decide +kernel) (by decide)
    | split

theorem retry_after (h : Changes S W d e) (hS : within [.regs, .chans, .lq, .out, .sv, .hs] S = true) (hW : covers [.row 0x5014 2 0x800 6, .row 0x5014 2 0x800 24, .row 0x2100c 32 0x40 3, .row 0x2100c 32 0x40 4, .row 0x2100c 32 0x40 5, .row 0x21024 32 0x40 0, .row 0x40108 24 0x2000 29, .row 0x40218 24 0x2000 28, .row 0x40304 24 0x2000 1, .row 0x40308 24 0x2000 0, .row 0x40308 24 0x2000 8, .row 0x40308 24 0x2000 24] W = true) (n : Nat) (s0 : CmdSt) (e0 : Exch) (f : AirFrame) :
    Changes S W d (retry n s0 e0 f e) := by
  unfold retry
  try dsimp only
  repeat' first
    | (with_reducible assumption)
    | (with_reducible refine ite_after ?_ ?_)
    | (with_reducible apply relaunch_after)
    | (with_reducible apply Dev.seq_after)
    | (with_reducible apply protocolEnd_after)
    | (intro _; try dsimp only)
    | exact within_trans (by decide) hS
    | exact covers_trans (by decide +kernel) hW
    | exact rows_row hW (by decide +kernel) (by decide)
    | split

theorem recover_after (h : Changes S W d e) (hS : within [.regs, .chans, .lq, .out, .sv, .hs] S = true) (hW : covers [.row 0x5014 2 0x800 6, .row 0x5014 2 0x800 24, .row 0x2100c 32 0x40 3, .row 0x2100c 32 0x40 4, .row 0x2100c 32 0x40 5, .row 0x21024 32 0x40 0, .row 0x40108 24 0x2000 29, .row 0x40218 24 0x2000 28, .row 0x40304 24 0x2000 1, .row 0x40308 24 0x2000 0, .row 0x40308 24 0x2000 8, .row 0x40308 24 0x2000 24] W = true) (n : Nat) (s0 : CmdSt) (e0 : Exch) :
    Changes S W d (recover n s0 e0 e) := by
  unfold recover
  try dsimp only
  repeat' first
    | (with_reducible assumption)
    | (with_reducible refine ite_after ?_ ?_)
    | (with_reducible apply retry_after)
    | (intro _; try dsimp only)
    | exact within_trans (by decide) hS
    | exact covers_trans (by decide +kernel) hW
    | exact rows_row hW (by decide +kernel) (by decide)
    | split

theorem toggleBlock_after (h : Changes S W d e) (hS : within [.chans] S = true) (hW : covers [] W = true) (n : Nat) (k : Nat) :
    Changes S W d (toggleBlock n k e) := by
  unfold toggleBlock
  try dsimp only
  repeat' first
    | (with_reducible assumption)
    | (with_reducible refine ite_after ?_ ?_)
    | (with_reducible apply Dev.modCtx_after)
    | (intro _; try dsimp only)
    | exact within_trans (by decide) hS
    | split

theorem plainStatus_after (h : Changes S W d e) (hS : within [.regs] S = true) (hW : covers [.one 1573344] W = true) (bs : List Byte) :
    Changes S W d (plainStatus bs e) := by
  unfold plainStatus
  try dsimp only
  repeat' first
    | (with_reducible assumption)
    | (with_reducible refine ite_after ?_ ?_)
    | (with_reducible apply countSat_after)
    | (intro _; try dsimp only)
    | exact within_trans (by decide) hS
    | exact covers_trans (by decide) hW
    | exact rows_one hW (by decide)
    | split

theorem authPass2_after (h : Changes S W d e) (hS : within [.regs, .chans, .ts, .lq, .out, .freeCtr, .sv, .hs] S = true) (hW : covers [.one 1573344, .row 0x5014 2 0x800 6, .row 0x5014 2 0x800 24, .row 0x2100c 32 0x40 3, .row 0x2100c 32 0x40 4, .row 0x2100c 32 0x40 5, .row 0x21024 32 0x40 0, .row 0x40034 24 0x2000 2, .row 0x40034 24 0x2000 16, .row 0x40034 24 0x2000 28, .row 0x40034 24 0x2000 29, .row 0x40104 24 0x2000 3, .row 0x40108 24 0x2000 3, .row 0x40108 24 0x2000 29, .row 0x40218 24 0x2000 2, .row 0x40218 24 0x2000 28, .row 0x4021c 24 0x2000 8, .row 0x40304 24 0x2000 1, .row 0x40304 24 0x2000 2, .row 0x40304 24 0x2000 20, .row 0x40304 24 0x2000 22, .row 0x40304 24 0x2000 29, .row 0x40308 24 0x2000 0, .row 0x40308 24 0x2000 8, .row 0x40308 24 0x2000 16, .row 0x40308 24 0x2000 24] W = true) (n : Nat) (s0 : CmdSt) :
    Changes S W d (authPass2 n s0 e) := by
  unfold authPass2
  try dsimp only
  repeat' first
    | (with_reducible assumption)
    | (with_reducible refine ite_after ?_ ?_)
    | (with_reducible apply beginBlocks_after)
    | (with_reducible apply plainStatus_after)
    | (with_reducible apply endCommand_after)
    | (intro _; try dsimp only)
    | exact within_trans (by decide) hS
    | exact covers_trans (by decide +kernel) hW
    | exact rows_one hW (by decide +kernel)
    | exact rows_row hW (by decide +kernel) (by decide)
    | split

theorem authEnd_after (h : Changes S W d e) (hS : within [.regs, .chans, .lq, .out, .sv, .hs] S = true) (hW : covers [.one 1573344, .one 1573368, .row 0x5014 2 0x800 6, .row 0x5014 2 0x800 24, .row 0x2100c 32 0x40 3, .row 0x2100c 32 0x40 4, .row 0x2100c 32 0x40 5, .row 0x21024 32 0x40 0, .row 0x40108 24 0x2000 29, .row 0x40218 24 0x2000 28, .row 0x40304 24 0x2000 1, .row 0x40308 24 0x2000 0, .row 0x40308 24 0x2000 8, .row 0x40308 24 0x2000 24] W = true) (n : Nat) (s0 : CmdSt) :
    Changes S W d (authEnd n s0 e) := by
  unfold authEnd
  try dsimp only
  repeat' first
    | (with_reducible assumption)
    | (with_reducible refine ite_after ?_ ?_)
    | (with_reducible apply Dev.modCtx_after)
    | (with_reducible apply countSat_after)
    | (with_reducible apply plainStatus_after)
    | (with_reducible apply endCommand_after)
    | (intro _; try dsimp only)
    | exact within_trans (by decide) hS
    | exact covers_trans (by decide +kernel) hW
    | exact rows_one hW (by decide +kernel)
    | exact rows_row hW (by decide +kernel) (by decide)
    | split

theorem smEnd_after (h : Changes S W d e) (hS : within [.regs, .chans, .lq, .out, .sv, .hs] S = true) (hW : covers [.one 1573344, .one 1573360, .row 0x5014 2 0x800 6, .row 0x5014 2 0x800 24, .row 0x2100c 32 0x40 3, .row 0x2100c 32 0x40 4, .row 0x2100c 32 0x40 5, .row 0x21024 32 0x40 0, .row 0x40108 24 0x2000 29, .row 0x40218 24 0x2000 28, .row 0x40304 24 0x2000 1, .row 0x40308 24 0x2000 0, .row 0x40308 24 0x2000 8, .row 0x40308 24 0x2000 24] W = true) (n : Nat) (s0 : CmdSt) :
    Changes S W d (smEnd n s0 e) := by
  unfold smEnd
  try dsimp only
  repeat' first
    | (with_reducible assumption)
    | (with_reducible refine ite_after ?_ ?_)
    | (with_reducible apply Dev.modCtx_after)
    | (with_reducible apply countSat_after)
    | (with_reducible apply dropSession_after)
    | (with_reducible apply endCommand_after)
    | (intro _; try dsimp only)
    | exact within_trans (by decide) hS
    | exact covers_trans (by decide +kernel) hW
    | exact rows_one hW (by decide +kernel)
    | exact rows_row hW (by decide +kernel) (by decide)
    | split

theorem reconcileEnd_after (h : Changes S W d e) (hS : within [.regs, .chans, .lq, .out, .sv, .hs] S = true) (hW : covers [.row 0x5014 2 0x800 6, .row 0x5014 2 0x800 24, .row 0x2100c 32 0x40 3, .row 0x2100c 32 0x40 4, .row 0x2100c 32 0x40 5, .row 0x21024 32 0x40 0, .row 0x40108 24 0x2000 29, .row 0x40218 24 0x2000 28, .row 0x40304 24 0x2000 1, .row 0x40308 24 0x2000 0, .row 0x40308 24 0x2000 8, .row 0x40308 24 0x2000 24] W = true) (n : Nat) (s0 : CmdSt) :
    Changes S W d (reconcileEnd n s0 e) := by
  unfold reconcileEnd
  try dsimp only
  repeat' first
    | (with_reducible assumption)
    | (with_reducible refine ite_after ?_ ?_)
    | (with_reducible apply Dev.modCtx_after)
    | (with_reducible apply dropSession_after)
    | (with_reducible apply endCommand_after)
    | (intro _; try dsimp only)
    | exact within_trans (by decide) hS
    | exact covers_trans (by decide +kernel) hW
    | exact rows_row hW (by decide +kernel) (by decide)
    | split

theorem answered_after (h : Changes S W d e) (hS : within [.regs, .chans, .ts, .lq, .out, .freeCtr, .sv, .hs] S = true) (hW : covers [.one 1573344, .one 1573360, .one 1573368, .row 0x5014 2 0x800 6, .row 0x5014 2 0x800 24, .row 0x2100c 32 0x40 3, .row 0x2100c 32 0x40 4, .row 0x2100c 32 0x40 5, .row 0x21024 32 0x40 0, .row 0x40034 24 0x2000 2, .row 0x40034 24 0x2000 16, .row 0x40034 24 0x2000 28, .row 0x40034 24 0x2000 29, .row 0x40104 24 0x2000 3, .row 0x40108 24 0x2000 3, .row 0x40108 24 0x2000 29, .row 0x40218 24 0x2000 2, .row 0x40218 24 0x2000 28, .row 0x4021c 24 0x2000 8, .row 0x40304 24 0x2000 1, .row 0x40304 24 0x2000 2, .row 0x40304 24 0x2000 20, .row 0x40304 24 0x2000 22, .row 0x40304 24 0x2000 29, .row 0x40308 24 0x2000 0, .row 0x40308 24 0x2000 8, .row 0x40308 24 0x2000 16, .row 0x40308 24 0x2000 24] W = true) (n : Nat) (s0 : CmdSt) :
    Changes S W d (answered n s0 e) := by
  unfold answered
  try dsimp only
  repeat' first
    | (with_reducible assumption)
    | (with_reducible refine ite_after ?_ ?_)
    | (with_reducible apply authPass2_after)
    | (with_reducible apply smEnd_after)
    | (with_reducible apply reconcileEnd_after)
    | (with_reducible apply authEnd_after)
    | (with_reducible apply endCommand_after)
    | (intro _; try dsimp only)
    | exact within_trans (by decide) hS
    | exact covers_trans (by decide +kernel) hW
    | exact rows_one hW (by decide +kernel)
    | exact rows_row hW (by decide +kernel) (by decide)
    | split

theorem failedBlock_after (h : Changes S W d e) (hS : within [.regs, .chans, .lq, .out, .sv, .hs] S = true) (hW : covers [.row 0x5014 2 0x800 6, .row 0x5014 2 0x800 24, .row 0x2100c 32 0x40 3, .row 0x2100c 32 0x40 4, .row 0x2100c 32 0x40 5, .row 0x21024 32 0x40 0, .row 0x40108 24 0x2000 29, .row 0x40218 24 0x2000 28, .row 0x40304 24 0x2000 1, .row 0x40308 24 0x2000 0, .row 0x40308 24 0x2000 8, .row 0x40308 24 0x2000 24] W = true) (n : Nat) (s0 : CmdSt) (e0 : Exch) :
    Changes S W d (failedBlock n s0 e0 e) := by
  unfold failedBlock
  try dsimp only
  repeat' first
    | (with_reducible assumption)
    | (with_reducible refine ite_after ?_ ?_)
    | (with_reducible apply relaunch_after)
    | (with_reducible apply Dev.setJob_after)
    | (with_reducible apply retry_after)
    | (with_reducible apply recover_after)
    | (with_reducible apply reconFail_after)
    | (with_reducible apply endCommand_after)
    | (intro _; try dsimp only)
    | exact within_trans (by decide) hS
    | exact covers_trans (by decide +kernel) hW
    | exact rows_row hW (by decide +kernel) (by decide)
    | split

theorem halted_after (h : Changes S W d e) (hS : within [.regs, .chans, .lq, .out, .sv, .hs] S = true) (hW : covers [.row 0x5014 2 0x800 6, .row 0x5014 2 0x800 24, .row 0x2100c 32 0x40 3, .row 0x2100c 32 0x40 4, .row 0x2100c 32 0x40 5, .row 0x21024 32 0x40 0] W = true) (n : Nat) (k : Nat) :
    Changes S W d (halted n k e) := by
  unfold halted
  try dsimp only
  repeat' first
    | (with_reducible assumption)
    | (with_reducible refine ite_after ?_ ?_)
    | (with_reducible apply sessionEnd_after)
    | (intro _; try dsimp only)
    | exact within_trans (by decide) hS
    | exact covers_trans (by decide +kernel) hW
    | exact rows_row hW (by decide +kernel) (by decide)
    | split

theorem onBlock_after (h : Changes S W d e) (hS : within [.regs, .chans, .ts, .lq, .out, .freeCtr, .sv, .hs] S = true) (hW : covers [.one 1573344, .one 1573360, .one 1573368, .row 0x5014 2 0x800 6, .row 0x5014 2 0x800 24, .row 0x2100c 32 0x40 3, .row 0x2100c 32 0x40 4, .row 0x2100c 32 0x40 5, .row 0x21024 32 0x40 0, .row 0x40034 24 0x2000 2, .row 0x40034 24 0x2000 16, .row 0x40034 24 0x2000 28, .row 0x40034 24 0x2000 29, .row 0x40104 24 0x2000 3, .row 0x40108 24 0x2000 3, .row 0x40108 24 0x2000 29, .row 0x40218 24 0x2000 1, .row 0x40218 24 0x2000 2, .row 0x40218 24 0x2000 28, .row 0x4021c 24 0x2000 8, .row 0x4021c 24 0x2000 24, .row 0x40304 24 0x2000 1, .row 0x40304 24 0x2000 2, .row 0x40304 24 0x2000 20, .row 0x40304 24 0x2000 22, .row 0x40304 24 0x2000 29, .row 0x40308 24 0x2000 0, .row 0x40308 24 0x2000 8, .row 0x40308 24 0x2000 16, .row 0x40308 24 0x2000 24] W = true) (n : Nat) (s0 : CmdSt) (e0 : Exch) (p : Option Parsed) :
    Changes S W d (onBlock n s0 e0 p e) := by
  unfold onBlock
  try dsimp only
  repeat' first
    | (with_reducible assumption)
    | (with_reducible refine ite_after ?_ ?_)
    | (with_reducible apply relaunch_after)
    | (with_reducible apply raise_after)
    | (with_reducible apply countSat_after)
    | (with_reducible apply halted_after)
    | (with_reducible apply answered_after)
    | (with_reducible apply Dev.setJob_after)
    | (with_reducible apply failedBlock_after)
    | (with_reducible apply retry_after)
    | (with_reducible apply reconFail_after)
    | (with_reducible apply reconcileEnd_after)
    | (with_reducible apply toggleBlock_after)
    | (with_reducible apply endCommand_after)
    | (with_reducible apply sendChunk_after)
    | (intro _; try dsimp only)
    | exact within_trans (by decide) hS
    | exact covers_trans (by decide +kernel) hW
    | exact rows_one hW (by decide +kernel)
    | exact rows_row hW (by decide +kernel) (by decide)
    | split

theorem protoHaltEnd_after (h : Changes S W d e) (hS : within [.regs, .chans, .lq, .out, .sv, .hs] S = true) (hW : covers [.row 0x5014 2 0x800 6, .row 0x5014 2 0x800 24, .row 0x2100c 32 0x40 3, .row 0x2100c 32 0x40 4, .row 0x2100c 32 0x40 5, .row 0x21024 32 0x40 0, .row 0x40108 24 0x2000 29, .row 0x40218 24 0x2000 28, .row 0x40304 24 0x2000 1, .row 0x40308 24 0x2000 0, .row 0x40308 24 0x2000 8, .row 0x40308 24 0x2000 24] W = true) (n : Nat) (s0 : CmdSt) (answered : Bool) :
    Changes S W d (protoHaltEnd n s0 answered e) := by
  unfold protoHaltEnd
  try dsimp only
  repeat' first
    | (with_reducible assumption)
    | (with_reducible refine ite_after ?_ ?_)
    | (with_reducible apply Dev.modCtx_after)
    | (with_reducible apply sessionEnd_after)
    | (with_reducible apply closeExchange_after)
    | (with_reducible apply Dev.modChan_after)
    | (with_reducible apply leaveOld_after)
    | (with_reducible apply reconcileNext_after)
    | (with_reducible apply drain_after)
    | (intro _; try dsimp only)
    | exact within_trans (by decide) hS
    | exact covers_trans (by decide +kernel) hW
    | exact rows_row hW (by decide +kernel) (by decide)
    | split

theorem onCmd_after (h : Changes S W d e) (hS : within [.regs, .chans, .ts, .lq, .out, .freeCtr, .sv, .hs] S = true) (hW : covers [.one 1573344, .one 1573360, .one 1573368, .row 0x5014 2 0x800 6, .row 0x5014 2 0x800 24, .row 0x2100c 32 0x40 3, .row 0x2100c 32 0x40 4, .row 0x2100c 32 0x40 5, .row 0x21024 32 0x40 0, .row 0x40034 24 0x2000 2, .row 0x40034 24 0x2000 16, .row 0x40034 24 0x2000 28, .row 0x40034 24 0x2000 29, .row 0x40104 24 0x2000 3, .row 0x40108 24 0x2000 3, .row 0x40108 24 0x2000 29, .row 0x40218 24 0x2000 1, .row 0x40218 24 0x2000 2, .row 0x40218 24 0x2000 28, .row 0x4021c 24 0x2000 8, .row 0x4021c 24 0x2000 24, .row 0x40304 24 0x2000 1, .row 0x40304 24 0x2000 2, .row 0x40304 24 0x2000 20, .row 0x40304 24 0x2000 22, .row 0x40304 24 0x2000 29, .row 0x40308 24 0x2000 0, .row 0x40308 24 0x2000 8, .row 0x40308 24 0x2000 16, .row 0x40308 24 0x2000 24] W = true) (n : Nat) (s0 : CmdSt) (e0 : Exch) (p : Option Parsed) :
    Changes S W d (onCmd n s0 e0 p e) := by
  unfold onCmd
  try dsimp only
  repeat' first
    | (with_reducible assumption)
    | (with_reducible refine ite_after ?_ ?_)
    | (with_reducible apply Dev.modCtx_after)
    | (with_reducible apply onBlock_after)
    | (with_reducible apply afterSelect_after)
    | (with_reducible apply goCmd_after)
    | (with_reducible apply activateDone_after)
    | (with_reducible apply notFound_after)
    | (with_reducible apply goSel_after)
    | (with_reducible apply protoHaltEnd_after)
    | (with_reducible apply activateAts_after)
    | (with_reducible apply goWup_after)
    | (with_reducible apply goAttrib_after)
    | (with_reducible apply endCommand_after)
    | (intro _; try dsimp only)
    | exact within_trans (by decide) hS
    | exact covers_trans (by decide +kernel) hW
    | exact rows_one hW (by decide +kernel)
    | exact rows_row hW (by decide +kernel) (by decide)
    | split

theorem onCmdSent_after (h : Changes S W d e) (hS : within [.regs, .chans, .ts, .lq, .out, .freeCtr, .sv, .hs] S = true) (hW : covers [.row 0x5014 2 0x800 6, .row 0x5014 2 0x800 24, .row 0x2100c 32 0x40 3, .row 0x2100c 32 0x40 4, .row 0x2100c 32 0x40 5, .row 0x21024 32 0x40 0, .row 0x40034 24 0x2000 2, .row 0x40034 24 0x2000 16, .row 0x40034 24 0x2000 28, .row 0x40034 24 0x2000 29, .row 0x40104 24 0x2000 3, .row 0x40108 24 0x2000 3, .row 0x40108 24 0x2000 29, .row 0x40218 24 0x2000 2, .row 0x40218 24 0x2000 28, .row 0x4021c 24 0x2000 8, .row 0x40304 24 0x2000 1, .row 0x40304 24 0x2000 2, .row 0x40304 24 0x2000 20, .row 0x40304 24 0x2000 22, .row 0x40304 24 0x2000 29, .row 0x40308 24 0x2000 0, .row 0x40308 24 0x2000 8, .row 0x40308 24 0x2000 16, .row 0x40308 24 0x2000 24] W = true) (n : Nat) (s0 : CmdSt) :
    Changes S W d (onCmdSent n s0 e) := by
  unfold onCmdSent
  try dsimp only
  repeat' first
    | (with_reducible assumption)
    | (with_reducible refine ite_after ?_ ?_)
    | (with_reducible apply halted_after)
    | (with_reducible apply goWup_after)
    | (with_reducible apply haltActiveA_after)
    | (with_reducible apply endCommand_after)
    | (intro _; try dsimp only)
    | exact within_trans (by decide) hS
    | exact covers_trans (by decide +kernel) hW
    | exact rows_row hW (by decide +kernel) (by decide)
    | split

theorem onReply_after (h : Changes S W d e) (hS : within [.regs, .chans, .ts, .lq, .out, .freeCtr, .sv, .hs] S = true) (hW : covers [.one 1573344, .one 1573360, .one 1573368, .row 0x5014 2 0x800 6, .row 0x5014 2 0x800 24, .row 0x2100c 32 0x40 3, .row 0x2100c 32 0x40 4, .row 0x2100c 32 0x40 5, .row 0x21024 32 0x40 0, .row 0x40034 24 0x2000 2, .row 0x40034 24 0x2000 16, .row 0x40034 24 0x2000 28, .row 0x40034 24 0x2000 29, .row 0x40104 24 0x2000 3, .row 0x40108 24 0x2000 3, .row 0x40108 24 0x2000 29, .row 0x40218 24 0x2000 1, .row 0x40218 24 0x2000 2, .row 0x40218 24 0x2000 28, .row 0x4021c 24 0x2000 8, .row 0x4021c 24 0x2000 24, .row 0x40304 24 0x2000 0, .row 0x40304 24 0x2000 1, .row 0x40304 24 0x2000 2, .row 0x40304 24 0x2000 3, .row 0x40304 24 0x2000 12, .row 0x40304 24 0x2000 20, .row 0x40304 24 0x2000 22, .row 0x40304 24 0x2000 29, .row 0x40308 24 0x2000 0, .row 0x40308 24 0x2000 8, .row 0x40308 24 0x2000 16, .row 0x40308 24 0x2000 24] W = true) (n : Nat) (p : Option (Parsed × List Word)) :
    Changes S W d (onReply n p e) := by
  unfold onReply
  try dsimp only
  repeat' first
    | (with_reducible assumption)
    | (with_reducible refine ite_after ?_ ?_)
    | (with_reducible apply onInv_after)
    | (with_reducible apply closeExchange_after)
    | (with_reducible apply onCmd_after)
    | (intro _; try dsimp only)
    | exact within_trans (by decide) hS
    | exact covers_trans (by decide +kernel) hW
    | exact rows_one hW (by decide +kernel)
    | exact rows_row hW (by decide +kernel) (by decide)
    | split

theorem takeHead_after (h : Changes S W d e) (hS : within [.regs, .chans, .lq, .out, .sv, .hs] S = true) (hW : covers [.row 0x5014 2 0x800 6, .row 0x5014 2 0x800 24, .row 0x2100c 32 0x40 3, .row 0x2100c 32 0x40 4, .row 0x2100c 32 0x40 5, .row 0x21024 32 0x40 0, .row 0x40304 24 0x2000 1, .row 0x40308 24 0x2000 8, .row 0x40308 24 0x2000 24] W = true) (n : Nat) (op : Nat)
    {f : PCmd → Dev → Dev} (hf : ∀ x0 e, Changes S W d e → Changes S W d (f x0 e)) :
    Changes S W d (takeHead n op f e) := by
  unfold takeHead
  try dsimp only
  repeat' first
    | (with_reducible assumption)
    | (with_reducible refine ite_after ?_ ?_)
    | (with_reducible apply hf)
    | (with_reducible apply plainItem_after)
    | (with_reducible apply emptyRound_after)
    | (with_reducible apply Dev.modChan_after)
    | (with_reducible apply drain_after)
    | (intro _; try dsimp only)
    | exact within_trans (by decide) hS
    | exact covers_trans (by decide +kernel) hW
    | exact rows_row hW (by decide +kernel) (by decide)
    | split

theorem onContext_after (h : Changes S W d e) (hS : within [.regs, .chans, .lq, .out, .sv, .hs] S = true) (hW : covers [.row 0x5014 2 0x800 6, .row 0x5014 2 0x800 24, .row 0x2100c 32 0x40 3, .row 0x2100c 32 0x40 4, .row 0x2100c 32 0x40 5, .row 0x21024 32 0x40 0, .row 0x40304 24 0x2000 1, .row 0x40308 24 0x2000 8] W = true) (n : Nat) (cmd : PCmd) (sts : List Nat)
    {f : Nat → Ctx → Dev → Dev} (hf : ∀ x0 x1 e, Changes S W d e → Changes S W d (f x0 x1 e)) :
    Changes S W d (onContext n cmd sts f e) := by
  unfold onContext
  try dsimp only
  repeat' first
    | (with_reducible assumption)
    | (with_reducible refine ite_after ?_ ?_)
    | (with_reducible apply hf)
    | (with_reducible apply plainItem_after)
    | (intro _; try dsimp only)
    | exact within_trans (by decide) hS
    | exact covers_trans (by decide +kernel) hW
    | exact rows_row hW (by decide +kernel) (by decide)
    | split

theorem cmdInventory_after (h : Changes S W d e) (hS : within [.regs, .chans, .ts, .lq, .out, .sv, .hs] S = true) (hW : covers [.row 0x5014 2 0x800 6, .row 0x5014 2 0x800 24, .row 0x2100c 32 0x40 3, .row 0x2100c 32 0x40 4, .row 0x2100c 32 0x40 5, .row 0x21024 32 0x40 0, .row 0x40304 24 0x2000 12, .row 0x40304 24 0x2000 20, .row 0x40304 24 0x2000 22, .row 0x40304 24 0x2000 29, .row 0x40308 24 0x2000 24] W = true) (n : Nat) (cmd : PCmd) :
    Changes S W d (cmdInventory n cmd e) := by
  unfold cmdInventory
  try dsimp only
  repeat' first
    | (with_reducible assumption)
    | (with_reducible refine ite_after ?_ ?_)
    | (with_reducible apply emptyRound_after)
    | (with_reducible apply Dev.modChan_after)
    | (with_reducible apply setInv_after)
    | (intro _; try dsimp only)
    | exact within_trans (by decide) hS
    | exact covers_trans (by decide +kernel) hW
    | exact rows_row hW (by decide +kernel) (by decide)
    | split
    | (with_reducible apply set_ts_after)
    | ((with_reducible show Changes _ _ _ (Dev.mk _ _ _ _ _ _ _ _ _ _ _ _ _ _ _ _ _ _ _ _ _ _ _ _ _ _ _ _ _ _)); refine mk_after ?_ (.inl rfl) (.inl rfl) (.inl rfl) (.inl rfl) (.inl rfl) (.inr (within_mem hS (by decide))) (.inl rfl) (.inl rfl) (.inl rfl) (.inl rfl) (.inl rfl) (.inl rfl) (.inl rfl) (.inl rfl) (.inl rfl) (.inl rfl) (.inl rfl) (.inl rfl) (.inl rfl) (.inl rfl) (.inl rfl) (.inl rfl) (.inl rfl) (.inl rfl) (.inl rfl) (.inl rfl) (.inl rfl) (.inl rfl) (.inl rfl) (fun can => can.mem) (fun can => can.shadow))

theorem cmdActivate_after (h : Changes S W d e) (hS : within [.regs, .chans, .ts, .lq, .out, .freeCtr, .sv, .hs] S = true) (hW : covers [.row 0x5014 2 0x800 6, .row 0x5014 2 0x800 24, .row 0x2100c 32 0x40 3, .row 0x2100c 32 0x40 4, .row 0x2100c 32 0x40 5, .row 0x21024 32 0x40 0, .row 0x40034 24 0x2000 2, .row 0x40034 24 0x2000 16, .row 0x40034 24 0x2000 28, .row 0x40034 24 0x2000 29, .row 0x40104 24 0x2000 3, .row 0x40108 24 0x2000 3, .row 0x40108 24 0x2000 29, .row 0x40218 24 0x2000 2, .row 0x40218 24 0x2000 28, .row 0x4021c 24 0x2000 8, .row 0x40304 24 0x2000 1, .row 0x40304 24 0x2000 2, .row 0x40304 24 0x2000 20, .row 0x40304 24 0x2000 22, .row 0x40304 24 0x2000 29, .row 0x40308 24 0x2000 0, .row 0x40308 24 0x2000 8, .row 0x40308 24 0x2000 16, .row 0x40308 24 0x2000 24] W = true) (n : Nat) (cmd : PCmd) :
    Changes S W d (cmdActivate n cmd e) := by
  unfold cmdActivate
  try dsimp only
  repeat' first
    | (with_reducible assumption)
    | (with_reducible refine ite_after ?_ ?_)
    | (with_reducible apply plainItem_after)
    | (with_reducible apply goCmd_after)
    | (with_reducible apply onContext_after)
    | (with_reducible apply goWup_after)
    | (intro _; try dsimp only)
    | exact within_trans (by decide) hS
    | exact covers_trans (by decide +kernel) hW
    | exact rows_row hW (by decide +kernel) (by decide)
    | split

theorem cmdExchange_after (h : Changes S W d e) (hS : within [.regs, .chans, .ts, .lq, .out, .freeCtr, .sv, .hs] S = true) (hW : covers [.row 0x5014 2 0x800 6, .row 0x5014 2 0x800 24, .row 0x2100c 32 0x40 3, .row 0x2100c 32 0x40 4, .row 0x2100c 32 0x40 5, .row 0x21024 32 0x40 0, .row 0x40034 24 0x2000 2, .row 0x40034 24 0x2000 16, .row 0x40034 24 0x2000 28, .row 0x40034 24 0x2000 29, .row 0x40104 24 0x2000 3, .row 0x40108 24 0x2000 3, .row 0x40108 24 0x2000 29, .row 0x40218 24 0x2000 2, .row 0x40218 24 0x2000 28, .row 0x4021c 24 0x2000 8, .row 0x40304 24 0x2000 1, .row 0x40304 24 0x2000 2, .row 0x40304 24 0x2000 20, .row 0x40304 24 0x2000 22, .row 0x40304 24 0x2000 29, .row 0x40308 24 0x2000 0, .row 0x40308 24 0x2000 8, .row 0x40308 24 0x2000 16, .row 0x40308 24 0x2000 24] W = true) (n : Nat) (cmd : PCmd) :
    Changes S W d (cmdExchange n cmd e) := by
  unfold cmdExchange
  try dsimp only
  repeat' first
    | (with_reducible assumption)
    | (with_reducible refine ite_after ?_ ?_)
    | (with_reducible apply plainItem_after)
    | (with_reducible apply goCmd_after)
    | (with_reducible apply onContext_after)
    | (with_reducible apply beginBlocks_after)
    | (intro _; try dsimp only)
    | exact within_trans (by decide) hS
    | exact covers_trans (by decide +kernel) hW
    | exact rows_row hW (by decide +kernel) (by decide)
    | split

theorem cmdHalt_after (h : Changes S W d e) (hS : within [.regs, .chans, .ts, .lq, .out, .freeCtr, .sv, .hs] S = true) (hW : covers [.row 0x5014 2 0x800 6, .row 0x5014 2 0x800 24, .row 0x2100c 32 0x40 3, .row 0x2100c 32 0x40 4, .row 0x2100c 32 0x40 5, .row 0x21024 32 0x40 0, .row 0x40034 24 0x2000 2, .row 0x40034 24 0x2000 16, .row 0x40034 24 0x2000 28, .row 0x40034 24 0x2000 29, .row 0x40104 24 0x2000 3, .row 0x40108 24 0x2000 3, .row 0x40108 24 0x2000 29, .row 0x40218 24 0x2000 2, .row 0x40218 24 0x2000 28, .row 0x4021c 24 0x2000 8, .row 0x40304 24 0x2000 1, .row 0x40304 24 0x2000 2, .row 0x40304 24 0x2000 20, .row 0x40304 24 0x2000 22, .row 0x40304 24 0x2000 29, .row 0x40308 24 0x2000 0, .row 0x40308 24 0x2000 8, .row 0x40308 24 0x2000 16, .row 0x40308 24 0x2000 24] W = true) (n : Nat) (cmd : PCmd) :
    Changes S W d (cmdHalt n cmd e) := by
  unfold cmdHalt
  try dsimp only
  repeat' first
    | (with_reducible assumption)
    | (with_reducible refine ite_after ?_ ?_)
    | (with_reducible apply plainItem_after)
    | (with_reducible apply goCmd_after)
    | (with_reducible apply sessionEnd_after)
    | (with_reducible apply onContext_after)
    | (intro _; try dsimp only)
    | exact within_trans (by decide) hS
    | exact covers_trans (by decide +kernel) hW
    | exact rows_row hW (by decide +kernel) (by decide)
    | split

theorem cmdRelease_after (h : Changes S W d e) (hS : within [.regs, .chans, .lq, .out, .sv, .hs] S = true) (hW : covers [.row 0x5014 2 0x800 6, .row 0x5014 2 0x800 24, .row 0x2100c 32 0x40 3, .row 0x2100c 32 0x40 4, .row 0x2100c 32 0x40 5, .row 0x21024 32 0x40 0, .row 0x40304 24 0x2000 1, .row 0x40308 24 0x2000 8] W = true) (n : Nat) (cmd : PCmd) :
    Changes S W d (cmdRelease n cmd e) := by
  unfold cmdRelease
  try dsimp only
  repeat' first
    | (with_reducible assumption)
    | (with_reducible refine ite_after ?_ ?_)
    | (with_reducible apply plainItem_after)
    | (with_reducible apply sessionEnd_after)
    | (with_reducible apply onContext_after)
    | (intro _; try dsimp only)
    | exact within_trans (by decide) hS
    | exact covers_trans (by decide +kernel) hW
    | exact rows_row hW (by decide +kernel) (by decide)
    | split

theorem startRfReset_after (h : Changes S W d e) (hS : within [.regs, .chans, .lq, .out, .sv, .hs] S = true) (hW : covers [.row 0x5014 2 0x800 6, .row 0x5014 2 0x800 24, .row 0x2100c 32 0x40 3, .row 0x2100c 32 0x40 4, .row 0x2100c 32 0x40 5, .row 0x21024 32 0x40 0, .row 0x40034 24 0x2000 29] W = true) (n : Nat) (s0 : CmdSt) :
    Changes S W d (startRfReset n s0 e) := by
  unfold startRfReset
  try dsimp only
  repeat' first
    | (with_reducible assumption)
    | (with_reducible refine ite_after ?_ ?_)
    | (with_reducible apply sessionsEnd_after)
    | (with_reducible apply resetField_after)
    | (with_reducible apply Dev.setJob_after)
    | (intro _; try dsimp only)
    | exact within_trans (by decide) hS
    | exact covers_trans (by decide +kernel) hW
    | exact rows_row hW (by decide +kernel) (by decide)
    | split

theorem cmdRfReset_after (h : Changes S W d e) (hS : within [.regs, .chans, .lq, .out, .sv, .hs] S = true) (hW : covers [.row 0x5014 2 0x800 6, .row 0x5014 2 0x800 24, .row 0x2100c 32 0x40 3, .row 0x2100c 32 0x40 4, .row 0x2100c 32 0x40 5, .row 0x21024 32 0x40 0, .row 0x40034 24 0x2000 29] W = true) (n : Nat) (cmd : PCmd) :
    Changes S W d (cmdRfReset n cmd e) := by
  unfold cmdRfReset
  try dsimp only
  repeat' first
    | (with_reducible assumption)
    | (with_reducible refine ite_after ?_ ?_)
    | (with_reducible apply Dev.setJob_after)
    | (with_reducible apply startRfReset_after)
    | (intro _; try dsimp only)
    | exact within_trans (by decide) hS
    | exact covers_trans (by decide +kernel) hW
    | exact rows_row hW (by decide +kernel) (by decide)
    | split

theorem cmdCancel_after (h : Changes S W d e) (hS : within [.regs, .chans, .lq, .out, .sv, .hs] S = true) (hW : covers [.row 0x5014 2 0x800 6, .row 0x5014 2 0x800 24, .row 0x2100c 32 0x40 3, .row 0x2100c 32 0x40 4, .row 0x2100c 32 0x40 5, .row 0x21024 32 0x40 0, .row 0x40304 24 0x2000 1, .row 0x40308 24 0x2000 8, .row 0x40308 24 0x2000 24] W = true) (n : Nat) :
    Changes S W d (cmdCancel n e) := by
  unfold cmdCancel
  try dsimp only
  repeat' first
    | (with_reducible assumption)
    | (with_reducible refine ite_after ?_ ?_)
    | (with_reducible apply plainItem_after)
    | (with_reducible apply emptyRound_after)
    | (with_reducible apply Dev.modChan_after)
    | (with_reducible apply drain_after)
    | (intro _; try dsimp only)
    | exact within_trans (by decide) hS
    | exact covers_trans (by decide +kernel) hW
    | exact rows_row hW (by decide +kernel) (by decide)
    | split

theorem cmdAuth_after (h : Changes S W d e) (hS : within [.regs, .chans, .ts, .lq, .out, .freeCtr, .cy, .sv, .hs] S = true) (hW : covers [.row 0x5014 2 0x800 6, .row 0x5014 2 0x800 24, .row 0x2100c 32 0x40 3, .row 0x2100c 32 0x40 4, .row 0x2100c 32 0x40 5, .row 0x21024 32 0x40 0, .row 0x40034 24 0x2000 2, .row 0x40034 24 0x2000 16, .row 0x40034 24 0x2000 28, .row 0x40034 24 0x2000 29, .row 0x40104 24 0x2000 3, .row 0x40108 24 0x2000 3, .row 0x40108 24 0x2000 29, .row 0x40218 24 0x2000 2, .row 0x40218 24 0x2000 28, .row 0x4021c 24 0x2000 8, .row 0x40304 24 0x2000 1, .row 0x40304 24 0x2000 2, .row 0x40304 24 0x2000 20, .row 0x40304 24 0x2000 22, .row 0x40304 24 0x2000 29, .row 0x40308 24 0x2000 0, .row 0x40308 24 0x2000 8, .row 0x40308 24 0x2000 16, .row 0x40308 24 0x2000 24] W = true) (n : Nat) (cmd : PCmd) :
    Changes S W d (cmdAuth n cmd e) := by
  unfold cmdAuth
  try dsimp only
  repeat' first
    | (with_reducible assumption)
    | (with_reducible refine ite_after ?_ ?_)
    | (with_reducible apply plainItem_after)
    | (with_reducible apply Dev.random_after)
    | (with_reducible apply onContext_after)
    | (with_reducible apply beginBlocks_after)
    | (with_reducible apply dropSession_after)
    | (intro _; try dsimp only)
    | exact within_trans (by decide) hS
    | exact covers_trans (by decide +kernel) hW
    | exact rows_row hW (by decide +kernel) (by decide)
    | split

theorem cmdSm_after (h : Changes S W d e) (hS : within [.regs, .chans, .ts, .lq, .out, .freeCtr, .sv, .hs] S = true) (hW : covers [.one 1573352, .row 0x5014 2 0x800 6, .row 0x5014 2 0x800 24, .row 0x2100c 32 0x40 3, .row 0x2100c 32 0x40 4, .row 0x2100c 32 0x40 5, .row 0x21024 32 0x40 0, .row 0x40034 24 0x2000 2, .row 0x40034 24 0x2000 16, .row 0x40034 24 0x2000 28, .row 0x40034 24 0x2000 29, .row 0x40104 24 0x2000 3, .row 0x40108 24 0x2000 3, .row 0x40108 24 0x2000 29, .row 0x40218 24 0x2000 2, .row 0x40218 24 0x2000 28, .row 0x4021c 24 0x2000 8, .row 0x40304 24 0x2000 1, .row 0x40304 24 0x2000 2, .row 0x40304 24 0x2000 20, .row 0x40304 24 0x2000 22, .row 0x40304 24 0x2000 29, .row 0x40308 24 0x2000 0, .row 0x40308 24 0x2000 8, .row 0x40308 24 0x2000 16, .row 0x40308 24 0x2000 24] W = true) (n : Nat) (cmd : PCmd) :
    Changes S W d (cmdSm n cmd e) := by
  unfold cmdSm
  try dsimp only
  repeat' first
    | (with_reducible assumption)
    | (with_reducible refine ite_after ?_ ?_)
    | (with_reducible apply plainItem_after)
    | (with_reducible apply countSat_after)
    | (with_reducible apply onContext_after)
    | (with_reducible apply beginBlocks_after)
    | (intro _; try dsimp only)
    | exact within_trans (by decide) hS
    | exact covers_trans (by decide +kernel) hW
    | exact rows_one hW (by decide +kernel)
    | exact rows_row hW (by decide +kernel) (by decide)
    | split

theorem cmdSmEnd_after (h : Changes S W d e) (hS : within [.regs, .chans, .lq, .out, .sv, .hs] S = true) (hW : covers [.row 0x5014 2 0x800 6, .row 0x5014 2 0x800 24, .row 0x2100c 32 0x40 3, .row 0x2100c 32 0x40 4, .row 0x2100c 32 0x40 5, .row 0x21024 32 0x40 0, .row 0x40304 24 0x2000 1, .row 0x40308 24 0x2000 8] W = true) (n : Nat) (cmd : PCmd) :
    Changes S W d (cmdSmEnd n cmd e) := by
  unfold cmdSmEnd
  try dsimp only
  repeat' first
    | (with_reducible assumption)
    | (with_reducible refine ite_after ?_ ?_)
    | (with_reducible apply plainItem_after)
    | (with_reducible apply dropSession_after)
    | (intro _; try dsimp only)
    | exact within_trans (by decide) hS
    | exact covers_trans (by decide +kernel) hW
    | exact rows_row hW (by decide +kernel) (by decide)
    | split

theorem withdraw_after (h : Changes S W d e) (hS : within [.regs, .chans, .lq, .out, .sv, .hs] S = true) (hW : covers [.row 0x5014 2 0x800 6, .row 0x5014 2 0x800 24, .row 0x2100c 32 0x40 3, .row 0x2100c 32 0x40 4, .row 0x2100c 32 0x40 5, .row 0x21024 32 0x40 0, .row 0x40108 24 0x2000 29, .row 0x40218 24 0x2000 28, .row 0x40304 24 0x2000 1, .row 0x40308 24 0x2000 0, .row 0x40308 24 0x2000 8, .row 0x40308 24 0x2000 24] W = true) (n : Nat) (k : Nat) :
    Changes S W d (withdraw n k e) := by
  unfold withdraw
  try dsimp only
  repeat' first
    | (with_reducible assumption)
    | (with_reducible refine ite_after ?_ ?_)
    | (with_reducible apply Dev.modChan_after)
    | (with_reducible apply leaveOld_after)
    | (with_reducible apply protoHaltEnd_after)
    | (with_reducible apply endCommand_after)
    | (intro _; try dsimp only)
    | exact within_trans (by decide) hS
    | exact covers_trans (by decide +kernel) hW
    | exact rows_row hW (by decide +kernel) (by decide)
    | split

theorem migrate_after (h : Changes S W d e) (hS : within [.regs, .chans, .lq, .out, .sv, .hs] S = true) (hW : covers [.row 0x5014 2 0x800 6, .row 0x5014 2 0x800 24, .row 0x2100c 32 0x40 3, .row 0x2100c 32 0x40 4, .row 0x2100c 32 0x40 5, .row 0x21024 32 0x40 0, .row 0x40108 24 0x2000 29, .row 0x40218 24 0x2000 28, .row 0x40304 24 0x2000 1, .row 0x40308 24 0x2000 0, .row 0x40308 24 0x2000 8, .row 0x40308 24 0x2000 24] W = true) (n : Nat) (k : Nat) (t0 : Nat) (j : Nat) (cmd : PCmd) (c : Ctx) :
    Changes S W d (migrate n k t0 j cmd c e) := by
  unfold migrate
  try dsimp only
  repeat' first
    | (with_reducible assumption)
    | (with_reducible refine ite_after ?_ ?_)
    | (with_reducible apply Dev.modCtx_after)
    | (with_reducible apply plainItem_after)
    | (with_reducible apply each_after)
    | (with_reducible apply Dev.modChan_after)
    | (with_reducible apply plainItemAs_after)
    | (with_reducible apply reconcileNext_after)
    | (with_reducible apply drain_after)
    | (with_reducible apply withdraw_after)
    | (intro _; try dsimp only)
    | exact within_trans (by decide) hS
    | exact covers_trans (by decide +kernel) hW
    | exact rows_row hW (by decide +kernel) (by decide)
    | split

theorem cmdMigrate_after (h : Changes S W d e) (hS : within [.regs, .chans, .lq, .out, .sv, .hs] S = true) (hW : covers [.row 0x5014 2 0x800 6, .row 0x5014 2 0x800 24, .row 0x2100c 32 0x40 3, .row 0x2100c 32 0x40 4, .row 0x2100c 32 0x40 5, .row 0x21024 32 0x40 0, .row 0x40108 24 0x2000 29, .row 0x40218 24 0x2000 28, .row 0x40304 24 0x2000 1, .row 0x40308 24 0x2000 0, .row 0x40308 24 0x2000 8, .row 0x40308 24 0x2000 24] W = true) (n : Nat) :
    Changes S W d (cmdMigrate n e) := by
  unfold cmdMigrate
  try dsimp only
  repeat' first
    | (with_reducible assumption)
    | (with_reducible refine ite_after ?_ ?_)
    | (with_reducible apply plainItem_after)
    | (with_reducible apply Dev.modChan_after)
    | (with_reducible apply drain_after)
    | (with_reducible apply migrate_after)
    | (intro _; try dsimp only)
    | exact within_trans (by decide) hS
    | exact covers_trans (by decide +kernel) hW
    | exact rows_row hW (by decide +kernel) (by decide)
    | split

theorem pcmdWord_after (h : Changes S W d e) (hS : within [.regs, .chans, .lq, .out, .sv, .hs] S = true) (hW : covers [.row 0x5014 2 0x800 6, .row 0x5014 2 0x800 24, .row 0x2100c 32 0x40 3, .row 0x2100c 32 0x40 4, .row 0x2100c 32 0x40 5, .row 0x21024 32 0x40 0, .row 0x40304 24 0x2000 1, .row 0x40308 24 0x2000 8, .row 0x40308 24 0x2000 24, .row 0x403e4 24 0x2000 31] W = true) (p : Path) (n : Nat) (w : Word) :
    Changes S W d (pcmdWord p n w e) := by
  unfold pcmdWord
  try dsimp only
  repeat' first
    | (with_reducible assumption)
    | (with_reducible refine ite_after ?_ ?_)
    | (with_reducible apply raise_after)
    | (with_reducible apply Dev.modChan_after)
    | (with_reducible apply drain_after)
    | (intro _; try dsimp only)
    | exact within_trans (by decide) hS
    | exact covers_trans (by decide +kernel) hW
    | exact rows_row hW (by decide +kernel) (by decide)
    | split

theorem execPcmdWord_changes {s t : State} (p : Path) (n : Fin 24) (w : Word) (h : execPcmdWord p n w s = .next t) :
    t.pending = s.pending ∧ Changes [.regs, .chans, .lq, .out, .hawserStatus, .jtagStatus, .sv, .hs] [.row 0x5014 2 0x800 1, .row 0x5014 2 0x800 6, .row 0x5014 2 0x800 24, .row 0x2100c 32 0x40 3, .row 0x2100c 32 0x40 4, .row 0x2100c 32 0x40 5, .row 0x21024 32 0x40 0, .row 0x40304 24 0x2000 1, .row 0x40308 24 0x2000 8, .row 0x40308 24 0x2000 24, .row 0x403e4 24 0x2000 31] s.dev t.dev := by
  unfold execPcmdWord at h
  refine act_changes (by decide) h fun e h => ?_
  repeat' first
    | (with_reducible assumption)
    | (with_reducible refine ite_after ?_ ?_)
    | (with_reducible apply pcmdWord_after)
    | (with_reducible apply onPort_after)
    | (intro _; try dsimp only)
    | exact within_trans (by decide) (within_refl _)
    | exact covers_trans (by decide +kernel) (covers_refl _)
    | exact rows_row (covers_refl _) (by decide +kernel) (by decide)
    | split

theorem execInventory_changes {s t : State} (n : Fin 24) (h : execInventory n s = .next t) :
    t.pending = s.pending ∧ Changes [.regs, .chans, .ts, .lq, .out, .sv, .hs] [.row 0x5014 2 0x800 6, .row 0x5014 2 0x800 24, .row 0x2100c 32 0x40 3, .row 0x2100c 32 0x40 4, .row 0x2100c 32 0x40 5, .row 0x21024 32 0x40 0, .row 0x40304 24 0x2000 1, .row 0x40304 24 0x2000 12, .row 0x40304 24 0x2000 20, .row 0x40304 24 0x2000 22, .row 0x40304 24 0x2000 29, .row 0x40308 24 0x2000 8, .row 0x40308 24 0x2000 24] s.dev t.dev := by
  unfold execInventory at h
  refine act_changes (by decide) h fun e h => ?_
  repeat' first
    | (with_reducible assumption)
    | (with_reducible refine ite_after ?_ ?_)
    | (with_reducible apply takeHead_after)
    | (with_reducible apply cmdInventory_after)
    | (intro _; try dsimp only)
    | exact within_trans (by decide) (within_refl _)
    | exact covers_trans (by decide +kernel) (covers_refl _)
    | exact rows_row (covers_refl _) (by decide +kernel) (by decide)
    | split

theorem execActivate_changes {s t : State} (n : Fin 24) (h : execActivate n s = .next t) :
    t.pending = s.pending ∧ Changes [.regs, .chans, .ts, .lq, .out, .freeCtr, .sv, .hs] [.row 0x5014 2 0x800 6, .row 0x5014 2 0x800 24, .row 0x2100c 32 0x40 3, .row 0x2100c 32 0x40 4, .row 0x2100c 32 0x40 5, .row 0x21024 32 0x40 0, .row 0x40034 24 0x2000 2, .row 0x40034 24 0x2000 16, .row 0x40034 24 0x2000 28, .row 0x40034 24 0x2000 29, .row 0x40104 24 0x2000 3, .row 0x40108 24 0x2000 3, .row 0x40108 24 0x2000 29, .row 0x40218 24 0x2000 2, .row 0x40218 24 0x2000 28, .row 0x4021c 24 0x2000 8, .row 0x40304 24 0x2000 1, .row 0x40304 24 0x2000 2, .row 0x40304 24 0x2000 20, .row 0x40304 24 0x2000 22, .row 0x40304 24 0x2000 29, .row 0x40308 24 0x2000 0, .row 0x40308 24 0x2000 8, .row 0x40308 24 0x2000 16, .row 0x40308 24 0x2000 24] s.dev t.dev := by
  unfold execActivate at h
  refine act_changes (by decide) h fun e h => ?_
  repeat' first
    | (with_reducible assumption)
    | (with_reducible refine ite_after ?_ ?_)
    | (with_reducible apply cmdActivate_after)
    | (with_reducible apply takeHead_after)
    | (intro _; try dsimp only)
    | exact within_trans (by decide) (within_refl _)
    | exact covers_trans (by decide +kernel) (covers_refl _)
    | exact rows_row (covers_refl _) (by decide +kernel) (by decide)
    | split

theorem execExchange_changes {s t : State} (n : Fin 24) (h : execExchange n s = .next t) :
    t.pending = s.pending ∧ Changes [.regs, .chans, .ts, .lq, .out, .freeCtr, .sv, .hs] [.row 0x5014 2 0x800 6, .row 0x5014 2 0x800 24, .row 0x2100c 32 0x40 3, .row 0x2100c 32 0x40 4, .row 0x2100c 32 0x40 5, .row 0x21024 32 0x40 0, .row 0x40034 24 0x2000 2, .row 0x40034 24 0x2000 16, .row 0x40034 24 0x2000 28, .row 0x40034 24 0x2000 29, .row 0x40104 24 0x2000 3, .row 0x40108 24 0x2000 3, .row 0x40108 24 0x2000 29, .row 0x40218 24 0x2000 2, .row 0x40218 24 0x2000 28, .row 0x4021c 24 0x2000 8, .row 0x40304 24 0x2000 1, .row 0x40304 24 0x2000 2, .row 0x40304 24 0x2000 20, .row 0x40304 24 0x2000 22, .row 0x40304 24 0x2000 29, .row 0x40308 24 0x2000 0, .row 0x40308 24 0x2000 8, .row 0x40308 24 0x2000 16, .row 0x40308 24 0x2000 24] s.dev t.dev := by
  unfold execExchange at h
  refine act_changes (by decide) h fun e h => ?_
  repeat' first
    | (with_reducible assumption)
    | (with_reducible refine ite_after ?_ ?_)
    | (with_reducible apply cmdExchange_after)
    | (with_reducible apply takeHead_after)
    | (intro _; try dsimp only)
    | exact within_trans (by decide) (within_refl _)
    | exact covers_trans (by decide +kernel) (covers_refl _)
    | exact rows_row (covers_refl _) (by decide +kernel) (by decide)
    | split

theorem execHalt_changes {s t : State} (n : Fin 24) (h : execHalt n s = .next t) :
    t.pending = s.pending ∧ Changes [.regs, .chans, .ts, .lq, .out, .freeCtr, .sv, .hs] [.row 0x5014 2 0x800 6, .row 0x5014 2 0x800 24, .row 0x2100c 32 0x40 3, .row 0x2100c 32 0x40 4, .row 0x2100c 32 0x40 5, .row 0x21024 32 0x40 0, .row 0x40034 24 0x2000 2, .row 0x40034 24 0x2000 16, .row 0x40034 24 0x2000 28, .row 0x40034 24 0x2000 29, .row 0x40104 24 0x2000 3, .row 0x40108 24 0x2000 3, .row 0x40108 24 0x2000 29, .row 0x40218 24 0x2000 2, .row 0x40218 24 0x2000 28, .row 0x4021c 24 0x2000 8, .row 0x40304 24 0x2000 1, .row 0x40304 24 0x2000 2, .row 0x40304 24 0x2000 20, .row 0x40304 24 0x2000 22, .row 0x40304 24 0x2000 29, .row 0x40308 24 0x2000 0, .row 0x40308 24 0x2000 8, .row 0x40308 24 0x2000 16, .row 0x40308 24 0x2000 24] s.dev t.dev := by
  unfold execHalt at h
  refine act_changes (by decide) h fun e h => ?_
  repeat' first
    | (with_reducible assumption)
    | (with_reducible refine ite_after ?_ ?_)
    | (with_reducible apply takeHead_after)
    | (with_reducible apply cmdHalt_after)
    | (intro _; try dsimp only)
    | exact within_trans (by decide) (within_refl _)
    | exact covers_trans (by decide +kernel) (covers_refl _)
    | exact rows_row (covers_refl _) (by decide +kernel) (by decide)
    | split

theorem execRelease_changes {s t : State} (n : Fin 24) (h : execRelease n s = .next t) :
    t.pending = s.pending ∧ Changes [.regs, .chans, .lq, .out, .sv, .hs] [.row 0x5014 2 0x800 6, .row 0x5014 2 0x800 24, .row 0x2100c 32 0x40 3, .row 0x2100c 32 0x40 4, .row 0x2100c 32 0x40 5, .row 0x21024 32 0x40 0, .row 0x40304 24 0x2000 1, .row 0x40308 24 0x2000 8, .row 0x40308 24 0x2000 24] s.dev t.dev := by
  unfold execRelease at h
  refine act_changes (by decide) h fun e h => ?_
  repeat' first
    | (with_reducible assumption)
    | (with_reducible refine ite_after ?_ ?_)
    | (with_reducible apply takeHead_after)
    | (with_reducible apply cmdRelease_after)
    | (intro _; try dsimp only)
    | exact within_trans (by decide) (within_refl _)
    | exact covers_trans (by decide +kernel) (covers_refl _)
    | exact rows_row (covers_refl _) (by decide +kernel) (by decide)
    | split

theorem execMigrate_changes {s t : State} (n : Fin 24) (h : execMigrate n s = .next t) :
    t.pending = s.pending ∧ Changes [.regs, .chans, .lq, .out, .sv, .hs] [.row 0x5014 2 0x800 6, .row 0x5014 2 0x800 24, .row 0x2100c 32 0x40 3, .row 0x2100c 32 0x40 4, .row 0x2100c 32 0x40 5, .row 0x21024 32 0x40 0, .row 0x40108 24 0x2000 29, .row 0x40218 24 0x2000 28, .row 0x40304 24 0x2000 1, .row 0x40308 24 0x2000 0, .row 0x40308 24 0x2000 8, .row 0x40308 24 0x2000 24] s.dev t.dev := by
  unfold execMigrate at h
  refine act_changes (by decide) h fun e h => ?_
  repeat' first
    | (with_reducible assumption)
    | (with_reducible refine ite_after ?_ ?_)
    | (with_reducible apply cmdMigrate_after)
    | (intro _; try dsimp only)
    | exact within_trans (by decide) (within_refl _)
    | exact covers_trans (by decide +kernel) (covers_refl _)
    | exact rows_row (covers_refl _) (by decide +kernel) (by decide)
    | split

theorem execRfReset_changes {s t : State} (n : Fin 24) (h : execRfReset n s = .next t) :
    t.pending = s.pending ∧ Changes [.regs, .chans, .lq, .out, .sv, .hs] [.row 0x5014 2 0x800 6, .row 0x5014 2 0x800 24, .row 0x2100c 32 0x40 3, .row 0x2100c 32 0x40 4, .row 0x2100c 32 0x40 5, .row 0x21024 32 0x40 0, .row 0x40034 24 0x2000 29, .row 0x40304 24 0x2000 1, .row 0x40308 24 0x2000 8, .row 0x40308 24 0x2000 24] s.dev t.dev := by
  unfold execRfReset at h
  refine act_changes (by decide) h fun e h => ?_
  repeat' first
    | (with_reducible assumption)
    | (with_reducible refine ite_after ?_ ?_)
    | (with_reducible apply takeHead_after)
    | (with_reducible apply cmdRfReset_after)
    | (intro _; try dsimp only)
    | exact within_trans (by decide) (within_refl _)
    | exact covers_trans (by decide +kernel) (covers_refl _)
    | exact rows_row (covers_refl _) (by decide +kernel) (by decide)
    | split

theorem execCancel_changes {s t : State} (n : Fin 24) (h : execCancel n s = .next t) :
    t.pending = s.pending ∧ Changes [.regs, .chans, .lq, .out, .sv, .hs] [.row 0x5014 2 0x800 6, .row 0x5014 2 0x800 24, .row 0x2100c 32 0x40 3, .row 0x2100c 32 0x40 4, .row 0x2100c 32 0x40 5, .row 0x21024 32 0x40 0, .row 0x40304 24 0x2000 1, .row 0x40308 24 0x2000 8, .row 0x40308 24 0x2000 24] s.dev t.dev := by
  unfold execCancel at h
  refine act_changes (by decide) h fun e h => ?_
  repeat' first
    | (with_reducible assumption)
    | (with_reducible refine ite_after ?_ ?_)
    | (with_reducible apply cmdCancel_after)
    | (intro _; try dsimp only)
    | exact within_trans (by decide) (within_refl _)
    | exact covers_trans (by decide +kernel) (covers_refl _)
    | exact rows_row (covers_refl _) (by decide +kernel) (by decide)
    | split

theorem execAuth_changes {s t : State} (n : Fin 24) (h : execAuth n s = .next t) :
    t.pending = s.pending ∧ Changes [.regs, .chans, .ts, .lq, .out, .freeCtr, .cy, .sv, .hs] [.row 0x5014 2 0x800 6, .row 0x5014 2 0x800 24, .row 0x2100c 32 0x40 3, .row 0x2100c 32 0x40 4, .row 0x2100c 32 0x40 5, .row 0x21024 32 0x40 0, .row 0x40034 24 0x2000 2, .row 0x40034 24 0x2000 16, .row 0x40034 24 0x2000 28, .row 0x40034 24 0x2000 29, .row 0x40104 24 0x2000 3, .row 0x40108 24 0x2000 3, .row 0x40108 24 0x2000 29, .row 0x40218 24 0x2000 2, .row 0x40218 24 0x2000 28, .row 0x4021c 24 0x2000 8, .row 0x40304 24 0x2000 1, .row 0x40304 24 0x2000 2, .row 0x40304 24 0x2000 20, .row 0x40304 24 0x2000 22, .row 0x40304 24 0x2000 29, .row 0x40308 24 0x2000 0, .row 0x40308 24 0x2000 8, .row 0x40308 24 0x2000 16, .row 0x40308 24 0x2000 24] s.dev t.dev := by
  unfold execAuth at h
  refine act_changes (by decide) h fun e h => ?_
  repeat' first
    | (with_reducible assumption)
    | (with_reducible refine ite_after ?_ ?_)
    | (with_reducible apply takeHead_after)
    | (with_reducible apply cmdAuth_after)
    | (intro _; try dsimp only)
    | exact within_trans (by decide) (within_refl _)
    | exact covers_trans (by decide +kernel) (covers_refl _)
    | exact rows_row (covers_refl _) (by decide +kernel) (by decide)
    | split

theorem execSmExchange_changes {s t : State} (n : Fin 24) (h : execSmExchange n s = .next t) :
    t.pending = s.pending ∧ Changes [.regs, .chans, .ts, .lq, .out, .freeCtr, .sv, .hs] [.one 1573352, .row 0x5014 2 0x800 6, .row 0x5014 2 0x800 24, .row 0x2100c 32 0x40 3, .row 0x2100c 32 0x40 4, .row 0x2100c 32 0x40 5, .row 0x21024 32 0x40 0, .row 0x40034 24 0x2000 2, .row 0x40034 24 0x2000 16, .row 0x40034 24 0x2000 28, .row 0x40034 24 0x2000 29, .row 0x40104 24 0x2000 3, .row 0x40108 24 0x2000 3, .row 0x40108 24 0x2000 29, .row 0x40218 24 0x2000 2, .row 0x40218 24 0x2000 28, .row 0x4021c 24 0x2000 8, .row 0x40304 24 0x2000 1, .row 0x40304 24 0x2000 2, .row 0x40304 24 0x2000 20, .row 0x40304 24 0x2000 22, .row 0x40304 24 0x2000 29, .row 0x40308 24 0x2000 0, .row 0x40308 24 0x2000 8, .row 0x40308 24 0x2000 16, .row 0x40308 24 0x2000 24] s.dev t.dev := by
  unfold execSmExchange at h
  refine act_changes (by decide) h fun e h => ?_
  repeat' first
    | (with_reducible assumption)
    | (with_reducible refine ite_after ?_ ?_)
    | (with_reducible apply takeHead_after)
    | (with_reducible apply cmdSm_after)
    | (intro _; try dsimp only)
    | exact within_trans (by decide) (within_refl _)
    | exact covers_trans (by decide +kernel) (covers_refl _)
    | exact rows_one (covers_refl _) (by decide +kernel)
    | exact rows_row (covers_refl _) (by decide +kernel) (by decide)
    | split

theorem execSmEnd_changes {s t : State} (n : Fin 24) (h : execSmEnd n s = .next t) :
    t.pending = s.pending ∧ Changes [.regs, .chans, .lq, .out, .sv, .hs] [.row 0x5014 2 0x800 6, .row 0x5014 2 0x800 24, .row 0x2100c 32 0x40 3, .row 0x2100c 32 0x40 4, .row 0x2100c 32 0x40 5, .row 0x21024 32 0x40 0, .row 0x40304 24 0x2000 1, .row 0x40308 24 0x2000 8, .row 0x40308 24 0x2000 24] s.dev t.dev := by
  unfold execSmEnd at h
  refine act_changes (by decide) h fun e h => ?_
  repeat' first
    | (with_reducible assumption)
    | (with_reducible refine ite_after ?_ ?_)
    | (with_reducible apply takeHead_after)
    | (with_reducible apply cmdSmEnd_after)
    | (intro _; try dsimp only)
    | exact within_trans (by decide) (within_refl _)
    | exact covers_trans (by decide +kernel) (covers_refl _)
    | exact rows_row (covers_refl _) (by decide +kernel) (by decide)
    | split

end

end Sys2Proof.Machine
end

