-- ==== Sys2Proof/Laws/ChangesSequencer.lean ====
section
/-!
SUPPORT. What every operation of Machine/Sequencer can change.
-/

set_option Elab.async false
set_option linter.all false

namespace Sys2Proof.Machine

section
variable {S : List Part} {W : List Span} {d e : Dev}

theorem arm_after (h : Changes S W d e) (hS : within [.regs, .chans] S = true) (hW : covers [.row 0x40108 24 0x2000 29] W = true) (n : Nat) :
    Changes S W d (arm n e) := by
  unfold arm
  try dsimp only
  repeat' first
    | (with_reducible assumption)
    | (with_reducible refine ite_after ?_ ?_)
    | (with_reducible apply wr_after)
    | (with_reducible apply Dev.modRx_after)
    | (intro _; try dsimp only)
    | exact within_trans (by decide) hS
    | exact covers_trans (by decide) hW
    | exact rows_row hW (by decide) (by decide)
    | split

theorem firstCs_after (h : Changes S W d e) (hS : within [.chans] S = true) (hW : covers [] W = true) (n : Nat) (oct : Nat) :
    Changes S W d (firstCs n oct e) := by
  unfold firstCs
  try dsimp only
  repeat' first
    | (with_reducible assumption)
    | (with_reducible refine ite_after ?_ ?_)
    | (with_reducible apply Dev.modCtx_after)
    | (with_reducible apply Dev.modChan_after)
    | (with_reducible apply Dev.setJob_after)
    | (intro _; try dsimp only)
    | exact within_trans (by decide) hS
    | split

theorem startTx_after (h : Changes S W d e) (hS : within [.regs, .chans, .ts, .lq, .out, .freeCtr, .sv, .hs] S = true) (hW : covers [.row 0x5014 2 0x800 6, .row 0x5014 2 0x800 24, .row 0x2100c 32 0x40 3, .row 0x2100c 32 0x40 4, .row 0x2100c 32 0x40 5, .row 0x21024 32 0x40 0, .row 0x40108 24 0x2000 29, .row 0x40218 24 0x2000 3, .row 0x40218 24 0x2000 28, .row 0x4021c 24 0x2000 0, .row 0x40304 24 0x2000 2, .row 0x40308 24 0x2000 16] W = true) (n : Nat) (late : Option Nat) (e0 : Exch) :
    Changes S W d (startTx n late e0 e) := by
  unfold startTx
  try dsimp only
  repeat' first
    | (with_reducible assumption)
    | (with_reducible refine ite_after ?_ ?_)
    | (with_reducible apply raise_after)
    | (with_reducible apply countSat_after)
    | (with_reducible apply Dev.modChan_after)
    | (with_reducible apply flushTag_after)
    | (with_reducible apply Dev.seq_after)
    | (with_reducible apply firstCs_after)
    | (with_reducible apply arm_after)
    | (intro _; try dsimp only)
    | exact within_trans (by decide) hS
    | exact covers_trans (by decide +kernel) hW
    | exact rows_row hW (by decide +kernel) (by decide)
    | split

theorem placementPoint_after (h : Changes S W d e) (hS : within [.regs, .chans, .ts, .lq, .out, .freeCtr, .sv, .hs] S = true) (hW : covers [.row 0x5014 2 0x800 6, .row 0x5014 2 0x800 24, .row 0x2100c 32 0x40 3, .row 0x2100c 32 0x40 4, .row 0x2100c 32 0x40 5, .row 0x21024 32 0x40 0, .row 0x40108 24 0x2000 29, .row 0x40218 24 0x2000 3, .row 0x40218 24 0x2000 28, .row 0x4021c 24 0x2000 0, .row 0x40304 24 0x2000 1, .row 0x40304 24 0x2000 2, .row 0x40304 24 0x2000 20, .row 0x40304 24 0x2000 22, .row 0x40304 24 0x2000 29, .row 0x40308 24 0x2000 0, .row 0x40308 24 0x2000 8, .row 0x40308 24 0x2000 16, .row 0x40308 24 0x2000 24] W = true) (n : Nat) (ready : Bool) (fits : Bool) :
    Changes S W d (placementPoint n ready fits e) := by
  unfold placementPoint
  try dsimp only
  repeat' first
    | (with_reducible assumption)
    | (with_reducible refine ite_after ?_ ?_)
    | (with_reducible apply Dev.modChan_after)
    | (with_reducible apply startTx_after)
    | (with_reducible apply abortJob_after)
    | (with_reducible apply endCommand_after)
    | (intro _; try dsimp only)
    | exact within_trans (by decide) hS
    | exact covers_trans (by decide +kernel) hW
    | exact rows_row hW (by decide +kernel) (by decide)
    | split

theorem frameReady_after (h : Changes S W d e) (hS : within [.regs, .chans, .ts, .lq, .out, .freeCtr, .sv, .hs] S = true) (hW : covers [.row 0x5014 2 0x800 6, .row 0x5014 2 0x800 24, .row 0x2100c 32 0x40 3, .row 0x2100c 32 0x40 4, .row 0x2100c 32 0x40 5, .row 0x21024 32 0x40 0, .row 0x40108 24 0x2000 29, .row 0x40218 24 0x2000 3, .row 0x40218 24 0x2000 28, .row 0x4021c 24 0x2000 0, .row 0x40304 24 0x2000 1, .row 0x40304 24 0x2000 2, .row 0x40304 24 0x2000 20, .row 0x40304 24 0x2000 22, .row 0x40304 24 0x2000 29, .row 0x40308 24 0x2000 0, .row 0x40308 24 0x2000 8, .row 0x40308 24 0x2000 16, .row 0x40308 24 0x2000 24] W = true) (n : Nat) (lateOct : Nat) (fits : Bool) :
    Changes S W d (frameReady n lateOct fits e) := by
  unfold frameReady
  try dsimp only
  repeat' first
    | (with_reducible assumption)
    | (with_reducible refine ite_after ?_ ?_)
    | (with_reducible apply startTx_after)
    | (with_reducible apply abortJob_after)
    | (with_reducible apply endCommand_after)
    | (intro _; try dsimp only)
    | exact within_trans (by decide) hS
    | exact covers_trans (by decide +kernel) hW
    | exact rows_row hW (by decide +kernel) (by decide)
    | split

theorem sentOnly_after (h : Changes S W d e) (hS : within [.regs, .chans, .ts, .lq, .out, .freeCtr, .sv, .hs] S = true) (hW : covers [.row 0x5014 2 0x800 6, .row 0x5014 2 0x800 24, .row 0x2100c 32 0x40 3, .row 0x2100c 32 0x40 4, .row 0x2100c 32 0x40 5, .row 0x21024 32 0x40 0, .row 0x40034 24 0x2000 2, .row 0x40034 24 0x2000 16, .row 0x40034 24 0x2000 28, .row 0x40034 24 0x2000 29, .row 0x40104 24 0x2000 3, .row 0x40108 24 0x2000 3, .row 0x40108 24 0x2000 29, .row 0x40218 24 0x2000 2, .row 0x40218 24 0x2000 28, .row 0x4021c 24 0x2000 8, .row 0x40304 24 0x2000 0, .row 0x40304 24 0x2000 1, .row 0x40304 24 0x2000 2, .row 0x40304 24 0x2000 3, .row 0x40304 24 0x2000 12, .row 0x40304 24 0x2000 20, .row 0x40304 24 0x2000 22, .row 0x40304 24 0x2000 29, .row 0x40308 24 0x2000 0, .row 0x40308 24 0x2000 8, .row 0x40308 24 0x2000 16, .row 0x40308 24 0x2000 24] W = true) (n : Nat) :
    Changes S W d (sentOnly n e) := by
  unfold sentOnly
  try dsimp only
  repeat' first
    | (with_reducible assumption)
    | (with_reducible refine ite_after ?_ ?_)
    | (with_reducible apply onInvSent_after)
    | (with_reducible apply closeExchange_after)
    | (with_reducible apply onCmdSent_after)
    | (with_reducible apply Dev.modChan_after)
    | (intro _; try dsimp only)
    | exact within_trans (by decide) hS
    | exact covers_trans (by decide +kernel) hW
    | exact rows_row hW (by decide +kernel) (by decide)
    | split

theorem commandEnd_after (h : Changes S W d e) (hS : within [.regs, .chans, .ts, .lq, .out, .freeCtr, .sv, .hs] S = true) (hW : covers [.row 0x5014 2 0x800 6, .row 0x5014 2 0x800 24, .row 0x2100c 32 0x40 3, .row 0x2100c 32 0x40 4, .row 0x2100c 32 0x40 5, .row 0x21024 32 0x40 0, .row 0x40034 24 0x2000 2, .row 0x40034 24 0x2000 16, .row 0x40034 24 0x2000 28, .row 0x40034 24 0x2000 29, .row 0x40104 24 0x2000 3, .row 0x40108 24 0x2000 3, .row 0x40108 24 0x2000 29, .row 0x40218 24 0x2000 2, .row 0x40218 24 0x2000 28, .row 0x4021c 24 0x2000 8, .row 0x40304 24 0x2000 0, .row 0x40304 24 0x2000 1, .row 0x40304 24 0x2000 2, .row 0x40304 24 0x2000 3, .row 0x40304 24 0x2000 12, .row 0x40304 24 0x2000 20, .row 0x40304 24 0x2000 22, .row 0x40304 24 0x2000 29, .row 0x40308 24 0x2000 0, .row 0x40308 24 0x2000 8, .row 0x40308 24 0x2000 16, .row 0x40308 24 0x2000 24] W = true) (n : Nat) :
    Changes S W d (commandEnd n e) := by
  unfold commandEnd
  try dsimp only
  repeat' first
    | (with_reducible assumption)
    | (with_reducible refine ite_after ?_ ?_)
    | (with_reducible apply disarm_after)
    | (with_reducible apply closeExchange_after)
    | (with_reducible apply sentOnly_after)
    | (with_reducible apply Dev.modChan_after)
    | (with_reducible apply protoHaltEnd_after)
    | (with_reducible apply Dev.seq_after)
    | (with_reducible apply endCommand_after)
    | (with_reducible apply free_after)
    | (intro _; try dsimp only)
    | exact within_trans (by decide) hS
    | exact covers_trans (by decide +kernel) hW
    | exact rows_row hW (by decide +kernel) (by decide)
    | split

theorem pushRecord_after (h : Changes S W d e) (hS : within [.chans] S = true) (hW : covers [] W = true) (n : Nat) (rec : List Word) :
    Changes S W d (pushRecord n rec e) := by
  unfold pushRecord
  try dsimp only
  repeat' first
    | (with_reducible assumption)
    | (with_reducible refine ite_after ?_ ?_)
    | (with_reducible apply Dev.modChan_after)
    | (intro _; try dsimp only)
    | exact within_trans (by decide) hS
    | split

theorem replyDeadline_after (h : Changes S W d e) (hS : within [.regs, .chans, .ts, .lq, .out, .freeCtr, .sv, .hs] S = true) (hW : covers [.one 1573344, .one 1573360, .one 1573368, .row 0x5014 2 0x800 6, .row 0x5014 2 0x800 24, .row 0x2100c 32 0x40 3, .row 0x2100c 32 0x40 4, .row 0x2100c 32 0x40 5, .row 0x21024 32 0x40 0, .row 0x40034 24 0x2000 2, .row 0x40034 24 0x2000 16, .row 0x40034 24 0x2000 28, .row 0x40034 24 0x2000 29, .row 0x40104 24 0x2000 3, .row 0x40108 24 0x2000 3, .row 0x40108 24 0x2000 29, .row 0x40218 24 0x2000 1, .row 0x40218 24 0x2000 2, .row 0x40218 24 0x2000 28, .row 0x4021c 24 0x2000 8, .row 0x4021c 24 0x2000 16, .row 0x4021c 24 0x2000 24, .row 0x40220 24 0x2000 0, .row 0x40220 24 0x2000 30, .row 0x40224 24 0x2000 0, .row 0x40304 24 0x2000 0, .row 0x40304 24 0x2000 1, .row 0x40304 24 0x2000 2, .row 0x40304 24 0x2000 3, .row 0x40304 24 0x2000 12, .row 0x40304 24 0x2000 20, .row 0x40304 24 0x2000 22, .row 0x40304 24 0x2000 29, .row 0x40308 24 0x2000 0, .row 0x40308 24 0x2000 8, .row 0x40308 24 0x2000 16, .row 0x40308 24 0x2000 24] W = true) (n : Nat) :
    Changes S W d (replyDeadline n e) := by
  unfold replyDeadline
  try dsimp only
  repeat' first
    | (with_reducible assumption)
    | (with_reducible refine ite_after ?_ ?_)
    | (with_reducible apply disarm_after)
    | (with_reducible apply onReply_after)
    | (with_reducible apply wr_after)
    | (with_reducible apply relaunch_after)
    | (with_reducible apply countSat_after)
    | (with_reducible apply Dev.modChan_after)
    | (with_reducible apply pushRecord_after)
    | (intro _; try dsimp only)
    | exact within_trans (by decide) hS
    | exact covers_trans (by decide +kernel) hW
    | exact rows_one hW (by decide +kernel)
    | exact rows_row hW (by decide +kernel) (by decide)
    | split

theorem sfgtExpiry_after (h : Changes S W d e) (hS : within [.regs, .chans] S = true) (hW : covers [.row 0x40218 24 0x2000 28] W = true) (n : Nat) (k : Nat) :
    Changes S W d (sfgtExpiry n k e) := by
  unfold sfgtExpiry
  try dsimp only
  repeat' first
    | (with_reducible assumption)
    | (with_reducible refine ite_after ?_ ?_)
    | (with_reducible apply Dev.modCtx_after)
    | (with_reducible apply Dev.modChan_after)
    | (with_reducible apply kick_after)
    | (intro _; try dsimp only)
    | exact within_trans (by decide) hS
    | exact covers_trans (by decide) hW
    | exact rows_row hW (by decide) (by decide)
    | split

theorem inventoryReset_after (h : Changes S W d e) (hS : within [.regs, .chans, .lq, .out, .sv, .hs] S = true) (hW : covers [.row 0x5014 2 0x800 6, .row 0x5014 2 0x800 24, .row 0x2100c 32 0x40 3, .row 0x2100c 32 0x40 4, .row 0x2100c 32 0x40 5, .row 0x21024 32 0x40 0, .row 0x40034 24 0x2000 29, .row 0x40304 24 0x2000 12, .row 0x40304 24 0x2000 20, .row 0x40304 24 0x2000 22, .row 0x40304 24 0x2000 29] W = true) (n : Nat) (i : InvSt) :
    Changes S W d (inventoryReset n i e) := by
  unfold inventoryReset
  try dsimp only
  repeat' first
    | (with_reducible assumption)
    | (with_reducible refine ite_after ?_ ?_)
    | (with_reducible apply sessionsEnd_after)
    | (with_reducible apply resetField_after)
    | (with_reducible apply setInv_after)
    | (intro _; try dsimp only)
    | exact within_trans (by decide) hS
    | exact covers_trans (by decide +kernel) hW
    | exact rows_row hW (by decide +kernel) (by decide)
    | split

theorem fieldReady_after (h : Changes S W d e) (hS : within [.regs, .chans, .ts, .lq, .out, .freeCtr, .sv, .hs] S = true) (hW : covers [.row 0x5014 2 0x800 6, .row 0x5014 2 0x800 24, .row 0x2100c 32 0x40 3, .row 0x2100c 32 0x40 4, .row 0x2100c 32 0x40 5, .row 0x21024 32 0x40 0, .row 0x40034 24 0x2000 2, .row 0x40034 24 0x2000 16, .row 0x40034 24 0x2000 28, .row 0x40034 24 0x2000 29, .row 0x40104 24 0x2000 3, .row 0x40108 24 0x2000 3, .row 0x40108 24 0x2000 29, .row 0x40218 24 0x2000 2, .row 0x40218 24 0x2000 28, .row 0x4021c 24 0x2000 8, .row 0x40304 24 0x2000 1, .row 0x40304 24 0x2000 2, .row 0x40304 24 0x2000 12, .row 0x40304 24 0x2000 20, .row 0x40304 24 0x2000 22, .row 0x40304 24 0x2000 29, .row 0x40308 24 0x2000 0, .row 0x40308 24 0x2000 8, .row 0x40308 24 0x2000 16, .row 0x40308 24 0x2000 24] W = true) (n : Nat) :
    Changes S W d (fieldReady n e) := by
  unfold fieldReady
  try dsimp only
  repeat' first
    | (with_reducible assumption)
    | (with_reducible refine ite_after ?_ ?_)
    | (with_reducible apply inventoryReset_after)
    | (with_reducible apply startRound_after)
    | (with_reducible apply kick_after)
    | (with_reducible apply endCommand_after)
    | (intro _; try dsimp only)
    | exact within_trans (by decide) hS
    | exact covers_trans (by decide +kernel) hW
    | exact rows_row hW (by decide +kernel) (by decide)
    | split

theorem guardExpiry_after (h : Changes S W d e) (hS : within [.regs, .chans, .ts, .lq, .out, .freeCtr, .sv, .hs] S = true) (hW : covers [.row 0x5014 2 0x800 6, .row 0x5014 2 0x800 24, .row 0x2100c 32 0x40 3, .row 0x2100c 32 0x40 4, .row 0x2100c 32 0x40 5, .row 0x21024 32 0x40 0, .row 0x40034 24 0x2000 2, .row 0x40034 24 0x2000 16, .row 0x40034 24 0x2000 28, .row 0x40034 24 0x2000 29, .row 0x40104 24 0x2000 3, .row 0x40108 24 0x2000 3, .row 0x40108 24 0x2000 29, .row 0x40218 24 0x2000 2, .row 0x40218 24 0x2000 28, .row 0x4021c 24 0x2000 8, .row 0x40304 24 0x2000 1, .row 0x40304 24 0x2000 2, .row 0x40304 24 0x2000 12, .row 0x40304 24 0x2000 20, .row 0x40304 24 0x2000 22, .row 0x40304 24 0x2000 29, .row 0x40308 24 0x2000 0, .row 0x40308 24 0x2000 8, .row 0x40308 24 0x2000 16, .row 0x40308 24 0x2000 24] W = true) (n : Nat) :
    Changes S W d (guardExpiry n e) := by
  unfold guardExpiry
  try dsimp only
  repeat' first
    | (with_reducible assumption)
    | (with_reducible refine ite_after ?_ ?_)
    | (with_reducible apply Dev.modChan_after)
    | (with_reducible apply Dev.modField_after)
    | (with_reducible apply fieldReady_after)
    | (intro _; try dsimp only)
    | exact within_trans (by decide) hS
    | exact covers_trans (by decide +kernel) hW
    | exact rows_row hW (by decide +kernel) (by decide)
    | split

theorem openFrame_after (h : Changes S W d e) (hS : within [.regs, .chans] S = true) (hW : covers [.row 0x40104 24 0x2000 3, .row 0x40108 24 0x2000 29, .row 0x40218 24 0x2000 28] W = true) (n : Nat) (st : Nat) (c : Corr) (replayed : Bool) :
    Changes S W d (openFrame n st c replayed e) := by
  unfold openFrame
  try dsimp only
  repeat' first
    | (with_reducible assumption)
    | (with_reducible refine ite_after ?_ ?_)
    | (with_reducible apply seedsDue_after)
    | (with_reducible apply wr_after)
    | (with_reducible apply Dev.modChan_after)
    | (with_reducible apply Dev.seq_after)
    | (intro _; try dsimp only)
    | exact within_trans (by decide) hS
    | exact covers_trans (by decide) hW
    | exact rows_row hW (by decide) (by decide)
    | split

theorem leaveCheck_after (h : Changes S W d e) (hS : within [.regs, .chans] S = true) (hW : covers [.row 0x40104 24 0x2000 3, .row 0x40108 24 0x2000 29, .row 0x40218 24 0x2000 28] W = true) (n : Nat) :
    Changes S W d (leaveCheck n e) := by
  unfold leaveCheck
  try dsimp only
  repeat' first
    | (with_reducible assumption)
    | (with_reducible refine ite_after ?_ ?_)
    | (with_reducible apply openFrame_after)
    | (with_reducible apply wr_after)
    | (with_reducible apply Dev.modRx_after)
    | (intro _; try dsimp only)
    | exact within_trans (by decide) hS
    | exact covers_trans (by decide) hW
    | exact rows_row hW (by decide) (by decide)
    | split

theorem updateSeed_after (h : Changes S W d e) (hS : within [.regs, .chans] S = true) (hW : covers [.row 0x40104 24 0x2000 3] W = true) (n : Nat) (good : Bool) (fr : RxFrame) :
    Changes S W d (updateSeed n good fr e) := by
  unfold updateSeed
  try dsimp only
  repeat' first
    | (with_reducible assumption)
    | (with_reducible refine ite_after ?_ ?_)
    | (with_reducible apply seedsDue_after)
    | (with_reducible apply when_after)
    | (with_reducible apply Dev.modRx_after)
    | (intro _; try dsimp only)
    | exact within_trans (by decide) hS
    | exact covers_trans (by decide) hW
    | exact rows_row hW (by decide) (by decide)
    | split

theorem verdict_after (h : Changes S W d e) (hS : within [.regs, .chans, .ts, .lq, .out, .freeCtr, .sv, .hs] S = true) (hW : covers [.one 1573344, .one 1573360, .one 1573368, .row 0x5014 2 0x800 6, .row 0x5014 2 0x800 24, .row 0x2100c 32 0x40 3, .row 0x2100c 32 0x40 4, .row 0x2100c 32 0x40 5, .row 0x21024 32 0x40 0, .row 0x40034 24 0x2000 2, .row 0x40034 24 0x2000 16, .row 0x40034 24 0x2000 28, .row 0x40034 24 0x2000 29, .row 0x40104 24 0x2000 3, .row 0x40108 24 0x2000 3, .row 0x40108 24 0x2000 29, .row 0x40120 24 0x2000 0, .row 0x40128 24 0x2000 8, .row 0x40218 24 0x2000 0, .row 0x40218 24 0x2000 1, .row 0x40218 24 0x2000 2, .row 0x40218 24 0x2000 28, .row 0x4021c 24 0x2000 8, .row 0x4021c 24 0x2000 24, .row 0x40220 24 0x2000 0, .row 0x40220 24 0x2000 30, .row 0x40224 24 0x2000 0, .row 0x40304 24 0x2000 0, .row 0x40304 24 0x2000 1, .row 0x40304 24 0x2000 2, .row 0x40304 24 0x2000 3, .row 0x40304 24 0x2000 12, .row 0x40304 24 0x2000 20, .row 0x40304 24 0x2000 22, .row 0x40304 24 0x2000 29, .row 0x40308 24 0x2000 0, .row 0x40308 24 0x2000 8, .row 0x40308 24 0x2000 16, .row 0x40308 24 0x2000 24] W = true) (n : Nat) :
    Changes S W d (verdict n e) := by
  unfold verdict
  try dsimp only
  repeat' first
    | (with_reducible assumption)
    | (with_reducible refine ite_after ?_ ?_)
    | (with_reducible apply updateSeed_after)
    | (with_reducible apply onReply_after)
    | (with_reducible apply wr_after)
    | (with_reducible apply countSat_after)
    | (with_reducible apply raiseIf_after)
    | (with_reducible apply Dev.modChan_after)
    | (with_reducible apply Dev.seq_after)
    | (with_reducible apply countDev_after)
    | (with_reducible apply pushRecord_after)
    | (with_reducible apply leaveCheck_after)
    | (with_reducible apply count_after)
    | (intro _; try dsimp only)
    | exact within_trans (by decide) hS
    | exact covers_trans (by decide +kernel) hW
    | exact rows_one hW (by decide +kernel)
    | exact rows_row hW (by decide +kernel) (by decide)
    | split

theorem execGuardExpiry_changes {s t : State} (n : Fin 24) (h : execGuardExpiry n s = .next t) :
    t.pending = s.pending ∧ Changes [.regs, .chans, .ts, .lq, .out, .freeCtr, .sv, .hs] [.row 0x5014 2 0x800 6, .row 0x5014 2 0x800 24, .row 0x2100c 32 0x40 3, .row 0x2100c 32 0x40 4, .row 0x2100c 32 0x40 5, .row 0x21024 32 0x40 0, .row 0x40034 24 0x2000 2, .row 0x40034 24 0x2000 16, .row 0x40034 24 0x2000 28, .row 0x40034 24 0x2000 29, .row 0x40104 24 0x2000 3, .row 0x40108 24 0x2000 3, .row 0x40108 24 0x2000 29, .row 0x40218 24 0x2000 2, .row 0x40218 24 0x2000 28, .row 0x4021c 24 0x2000 8, .row 0x40304 24 0x2000 1, .row 0x40304 24 0x2000 2, .row 0x40304 24 0x2000 12, .row 0x40304 24 0x2000 20, .row 0x40304 24 0x2000 22, .row 0x40304 24 0x2000 29, .row 0x40308 24 0x2000 0, .row 0x40308 24 0x2000 8, .row 0x40308 24 0x2000 16, .row 0x40308 24 0x2000 24] s.dev t.dev := by
  unfold execGuardExpiry at h
  refine act_changes (by decide) h fun e h => ?_
  repeat' first
    | (with_reducible assumption)
    | (with_reducible refine ite_after ?_ ?_)
    | (with_reducible apply guardExpiry_after)
    | (intro _; try dsimp only)
    | exact within_trans (by decide) (within_refl _)
    | exact covers_trans (by decide +kernel) (covers_refl _)
    | exact rows_row (covers_refl _) (by decide +kernel) (by decide)
    | split

theorem execVerdictDelivered_changes {s t : State} (n : Fin 24) (h : execVerdictDelivered n s = .next t) :
    t.pending = s.pending ∧ Changes [.regs, .chans, .ts, .lq, .out, .freeCtr, .sv, .hs] [.one 1573344, .one 1573360, .one 1573368, .row 0x5014 2 0x800 6, .row 0x5014 2 0x800 24, .row 0x2100c 32 0x40 3, .row 0x2100c 32 0x40 4, .row 0x2100c 32 0x40 5, .row 0x21024 32 0x40 0, .row 0x40034 24 0x2000 2, .row 0x40034 24 0x2000 16, .row 0x40034 24 0x2000 28, .row 0x40034 24 0x2000 29, .row 0x40104 24 0x2000 3, .row 0x40108 24 0x2000 3, .row 0x40108 24 0x2000 29, .row 0x40120 24 0x2000 0, .row 0x40128 24 0x2000 8, .row 0x40218 24 0x2000 0, .row 0x40218 24 0x2000 1, .row 0x40218 24 0x2000 2, .row 0x40218 24 0x2000 28, .row 0x4021c 24 0x2000 8, .row 0x4021c 24 0x2000 24, .row 0x40220 24 0x2000 0, .row 0x40220 24 0x2000 30, .row 0x40224 24 0x2000 0, .row 0x40304 24 0x2000 0, .row 0x40304 24 0x2000 1, .row 0x40304 24 0x2000 2, .row 0x40304 24 0x2000 3, .row 0x40304 24 0x2000 12, .row 0x40304 24 0x2000 20, .row 0x40304 24 0x2000 22, .row 0x40304 24 0x2000 29, .row 0x40308 24 0x2000 0, .row 0x40308 24 0x2000 8, .row 0x40308 24 0x2000 16, .row 0x40308 24 0x2000 24] s.dev t.dev := by
  unfold execVerdictDelivered at h
  refine act_changes (by decide) h fun e h => ?_
  repeat' first
    | (with_reducible assumption)
    | (with_reducible refine ite_after ?_ ?_)
    | (with_reducible apply verdict_after)
    | (intro _; try dsimp only)
    | exact within_trans (by decide) (within_refl _)
    | exact covers_trans (by decide +kernel) (covers_refl _)
    | exact rows_one (covers_refl _) (by decide +kernel)
    | exact rows_row (covers_refl _) (by decide +kernel) (by decide)
    | split

theorem execPlacementPoint_changes {s t : State} (n : Fin 24) (ready : Bool) (fits : Bool) (h : execPlacementPoint n ready fits s = .next t) :
    t.pending = s.pending ∧ Changes [.regs, .chans, .ts, .lq, .out, .freeCtr, .sv, .hs] [.row 0x5014 2 0x800 6, .row 0x5014 2 0x800 24, .row 0x2100c 32 0x40 3, .row 0x2100c 32 0x40 4, .row 0x2100c 32 0x40 5, .row 0x21024 32 0x40 0, .row 0x40108 24 0x2000 29, .row 0x40218 24 0x2000 3, .row 0x40218 24 0x2000 28, .row 0x4021c 24 0x2000 0, .row 0x40304 24 0x2000 1, .row 0x40304 24 0x2000 2, .row 0x40304 24 0x2000 20, .row 0x40304 24 0x2000 22, .row 0x40304 24 0x2000 29, .row 0x40308 24 0x2000 0, .row 0x40308 24 0x2000 8, .row 0x40308 24 0x2000 16, .row 0x40308 24 0x2000 24] s.dev t.dev := by
  unfold execPlacementPoint at h
  refine act_changes (by decide) h fun e h => ?_
  repeat' first
    | (with_reducible assumption)
    | (with_reducible refine ite_after ?_ ?_)
    | (with_reducible apply placementPoint_after)
    | (intro _; try dsimp only)
    | exact within_trans (by decide) (within_refl _)
    | exact covers_trans (by decide +kernel) (covers_refl _)
    | exact rows_row (covers_refl _) (by decide +kernel) (by decide)
    | split

theorem execFrameReady_changes {s t : State} (n : Fin 24) (lateOct : Nat) (fits : Bool) (h : execFrameReady n lateOct fits s = .next t) :
    t.pending = s.pending ∧ Changes [.regs, .chans, .ts, .lq, .out, .freeCtr, .sv, .hs] [.row 0x5014 2 0x800 6, .row 0x5014 2 0x800 24, .row 0x2100c 32 0x40 3, .row 0x2100c 32 0x40 4, .row 0x2100c 32 0x40 5, .row 0x21024 32 0x40 0, .row 0x40108 24 0x2000 29, .row 0x40218 24 0x2000 3, .row 0x40218 24 0x2000 28, .row 0x4021c 24 0x2000 0, .row 0x40304 24 0x2000 1, .row 0x40304 24 0x2000 2, .row 0x40304 24 0x2000 20, .row 0x40304 24 0x2000 22, .row 0x40304 24 0x2000 29, .row 0x40308 24 0x2000 0, .row 0x40308 24 0x2000 8, .row 0x40308 24 0x2000 16, .row 0x40308 24 0x2000 24] s.dev t.dev := by
  unfold execFrameReady at h
  refine act_changes (by decide) h fun e h => ?_
  repeat' first
    | (with_reducible assumption)
    | (with_reducible refine ite_after ?_ ?_)
    | (with_reducible apply frameReady_after)
    | (intro _; try dsimp only)
    | exact within_trans (by decide) (within_refl _)
    | exact covers_trans (by decide +kernel) (covers_refl _)
    | exact rows_row (covers_refl _) (by decide +kernel) (by decide)
    | split

theorem execCommandEnd_changes {s t : State} (n : Fin 24) (h : execCommandEnd n s = .next t) :
    t.pending = s.pending ∧ Changes [.regs, .chans, .ts, .lq, .out, .freeCtr, .sv, .hs] [.row 0x5014 2 0x800 6, .row 0x5014 2 0x800 24, .row 0x2100c 32 0x40 3, .row 0x2100c 32 0x40 4, .row 0x2100c 32 0x40 5, .row 0x21024 32 0x40 0, .row 0x40034 24 0x2000 2, .row 0x40034 24 0x2000 16, .row 0x40034 24 0x2000 28, .row 0x40034 24 0x2000 29, .row 0x40104 24 0x2000 3, .row 0x40108 24 0x2000 3, .row 0x40108 24 0x2000 29, .row 0x40218 24 0x2000 2, .row 0x40218 24 0x2000 28, .row 0x4021c 24 0x2000 8, .row 0x40304 24 0x2000 0, .row 0x40304 24 0x2000 1, .row 0x40304 24 0x2000 2, .row 0x40304 24 0x2000 3, .row 0x40304 24 0x2000 12, .row 0x40304 24 0x2000 20, .row 0x40304 24 0x2000 22, .row 0x40304 24 0x2000 29, .row 0x40308 24 0x2000 0, .row 0x40308 24 0x2000 8, .row 0x40308 24 0x2000 16, .row 0x40308 24 0x2000 24] s.dev t.dev := by
  unfold execCommandEnd at h
  refine act_changes (by decide) h fun e h => ?_
  repeat' first
    | (with_reducible assumption)
    | (with_reducible refine ite_after ?_ ?_)
    | (with_reducible apply commandEnd_after)
    | (intro _; try dsimp only)
    | exact within_trans (by decide) (within_refl _)
    | exact covers_trans (by decide +kernel) (covers_refl _)
    | exact rows_row (covers_refl _) (by decide +kernel) (by decide)
    | split

theorem execReplyDeadline_changes {s t : State} (n : Fin 24) (h : execReplyDeadline n s = .next t) :
    t.pending = s.pending ∧ Changes [.regs, .chans, .ts, .lq, .out, .freeCtr, .sv, .hs] [.one 1573344, .one 1573360, .one 1573368, .row 0x5014 2 0x800 6, .row 0x5014 2 0x800 24, .row 0x2100c 32 0x40 3, .row 0x2100c 32 0x40 4, .row 0x2100c 32 0x40 5, .row 0x21024 32 0x40 0, .row 0x40034 24 0x2000 2, .row 0x40034 24 0x2000 16, .row 0x40034 24 0x2000 28, .row 0x40034 24 0x2000 29, .row 0x40104 24 0x2000 3, .row 0x40108 24 0x2000 3, .row 0x40108 24 0x2000 29, .row 0x40218 24 0x2000 1, .row 0x40218 24 0x2000 2, .row 0x40218 24 0x2000 28, .row 0x4021c 24 0x2000 8, .row 0x4021c 24 0x2000 16, .row 0x4021c 24 0x2000 24, .row 0x40220 24 0x2000 0, .row 0x40220 24 0x2000 30, .row 0x40224 24 0x2000 0, .row 0x40304 24 0x2000 0, .row 0x40304 24 0x2000 1, .row 0x40304 24 0x2000 2, .row 0x40304 24 0x2000 3, .row 0x40304 24 0x2000 12, .row 0x40304 24 0x2000 20, .row 0x40304 24 0x2000 22, .row 0x40304 24 0x2000 29, .row 0x40308 24 0x2000 0, .row 0x40308 24 0x2000 8, .row 0x40308 24 0x2000 16, .row 0x40308 24 0x2000 24] s.dev t.dev := by
  unfold execReplyDeadline at h
  refine act_changes (by decide) h fun e h => ?_
  repeat' first
    | (with_reducible assumption)
    | (with_reducible refine ite_after ?_ ?_)
    | (with_reducible apply replyDeadline_after)
    | (intro _; try dsimp only)
    | exact within_trans (by decide) (within_refl _)
    | exact covers_trans (by decide +kernel) (covers_refl _)
    | exact rows_one (covers_refl _) (by decide +kernel)
    | exact rows_row (covers_refl _) (by decide +kernel) (by decide)
    | split

theorem execSfgtExpiry_changes {s t : State} (n : Fin 24) (k : Fin 8) (h : execSfgtExpiry n k s = .next t) :
    t.pending = s.pending ∧ Changes [.regs, .chans, .out] [.row 0x40218 24 0x2000 28] s.dev t.dev := by
  unfold execSfgtExpiry at h
  refine act_changes (by decide) h fun e h => ?_
  repeat' first
    | (with_reducible assumption)
    | (with_reducible refine ite_after ?_ ?_)
    | (with_reducible apply sfgtExpiry_after)
    | (intro _; try dsimp only)
    | exact within_trans (by decide) (within_refl _)
    | exact covers_trans (by decide) (covers_refl _)
    | exact rows_row (covers_refl _) (by decide) (by decide)
    | split

end

end Sys2Proof.Machine
end

