-- ==== Sys2Proof/Laws/ChangesReceiver.lean ====
section
/-!
SUPPORT. What every operation of Machine/Receiver can change.
-/

set_option Elab.async false
set_option linter.all false

namespace Sys2Proof.Machine

section
variable {S : List Part} {W : List Span} {d e : Dev}

theorem interfere_after (h : Changes S W d e) (hS : within [.regs, .chans] S = true) (hW : covers [.row 0x40108 24 0x2000 1] W = true) (n : Nat) (b : Nat) :
    Changes S W d (interfere n b e) := by
  unfold interfere
  try dsimp only
  repeat' first
    | (with_reducible assumption)
    | (with_reducible refine ite_after ?_ ?_)
    | (with_reducible apply raise_after)
    | (with_reducible apply Dev.modRx_after)
    | (intro _; try dsimp only)
    | exact within_trans (by decide) hS
    | exact covers_trans (by decide) hW
    | exact rows_row hW (by decide) (by decide)
    | split

theorem correlation_after (h : Changes S W d e) (hS : within [.regs, .chans, .lq, .out, .sv, .hs] S = true) (hW : covers [.row 0x5014 2 0x800 6, .row 0x5014 2 0x800 24, .row 0x2100c 32 0x40 3, .row 0x2100c 32 0x40 4, .row 0x2100c 32 0x40 5, .row 0x21024 32 0x40 0, .row 0x40104 24 0x2000 3, .row 0x40108 24 0x2000 1, .row 0x40108 24 0x2000 2, .row 0x40108 24 0x2000 3, .row 0x40108 24 0x2000 29, .row 0x40128 24 0x2000 16, .row 0x40128 24 0x2000 24, .row 0x40218 24 0x2000 2, .row 0x40218 24 0x2000 28, .row 0x4021c 24 0x2000 8] W = true) (n : Nat) (level : Nat) (floor : Nat) (oct : Nat) (at_ : Nat) (look : List Word) (soFar : RxFrame) :
    Changes S W d (correlation n level floor oct at_ look soFar e) := by
  unfold correlation
  try dsimp only
  repeat' first
    | (with_reducible assumption)
    | (with_reducible refine ite_after ?_ ?_)
    | (with_reducible apply openFrame_after)
    | (with_reducible apply raise_after)
    | (with_reducible apply countSat_after)
    | (with_reducible apply Dev.modRx_after)
    | (with_reducible apply interfere_after)
    | (with_reducible apply fragmentItem_after)
    | (intro _; try dsimp only)
    | exact within_trans (by decide) hS
    | exact covers_trans (by decide +kernel) hW
    | exact rows_row hW (by decide +kernel) (by decide)
    | split

theorem rxEarlyWindowEnd_after (h : Changes S W d e) (hS : within [.regs, .chans] S = true) (hW : covers [.row 0x40108 24 0x2000 29] W = true) (n : Nat) :
    Changes S W d (rxEarlyWindowEnd n e) := by
  unfold rxEarlyWindowEnd
  try dsimp only
  repeat' first
    | (with_reducible assumption)
    | (with_reducible refine ite_after ?_ ?_)
    | (with_reducible apply wr_after)
    | (with_reducible apply Dev.modRx_after)
    | (intro _; try dsimp only)
    | exact within_trans (by decide) hS
    | exact covers_trans (by decide) hW
    | exact rows_row hW (by decide) (by decide)
    | split

theorem replayCatchUp_after (h : Changes S W d e) (hS : within [.regs] S = true) (hW : covers [.row 0x40108 24 0x2000 29] W = true) (n : Nat) :
    Changes S W d (replayCatchUp n e) := by
  unfold replayCatchUp
  try dsimp only
  repeat' first
    | (with_reducible assumption)
    | (with_reducible refine ite_after ?_ ?_)
    | (with_reducible apply wr_after)
    | (intro _; try dsimp only)
    | exact within_trans (by decide) hS
    | exact covers_trans (by decide) hW
    | exact rows_row hW (by decide) (by decide)
    | split

theorem interferenceEnd_after (h : Changes S W d e) (hS : within [.chans] S = true) (hW : covers [] W = true) (n : Nat) (b : Nat) :
    Changes S W d (interferenceEnd n b e) := by
  unfold interferenceEnd
  try dsimp only
  repeat' first
    | (with_reducible assumption)
    | (with_reducible refine ite_after ?_ ?_)
    | (with_reducible apply Dev.modRx_after)
    | (intro _; try dsimp only)
    | exact within_trans (by decide) hS
    | split

theorem adcOverload_after (h : Changes S W d e) (hS : within [.regs, .chans] S = true) (hW : covers [.row 0x40108 24 0x2000 4, .row 0x40128 24 0x2000 0] W = true) (n : Nat) :
    Changes S W d (adcOverload n e) := by
  unfold adcOverload
  try dsimp only
  repeat' first
    | (with_reducible assumption)
    | (with_reducible refine ite_after ?_ ?_)
    | (with_reducible apply raise_after)
    | (with_reducible apply countSat_after)
    | (with_reducible apply Dev.modRx_after)
    | (intro _; try dsimp only)
    | exact within_trans (by decide) hS
    | exact covers_trans (by decide) hW
    | exact rows_row hW (by decide) (by decide)
    | split

theorem collMap_after (h : Changes S W d e) (hS : within [.regs] S = true) (hW : covers [.grid 0x40114 24 0x2000 3 0x4 0] W = true) (n : Nat) (flags : List Nat) :
    Changes S W d (collMap n flags e) := by
  unfold collMap
  try dsimp only
  repeat' first
    | (with_reducible assumption)
    | (with_reducible refine ite_after ?_ ?_)
    | (with_reducible apply wr_after)
    | (with_reducible apply each_after)
    | (intro _; try dsimp only)
    | exact within_trans (by decide) hS
    | exact covers_trans (by decide) hW
    | exact rows_grid hW (by decide) (by decide) (by decide)
    | split

theorem eqSnapshot_after (h : Changes S W d e) (hS : within [.regs] S = true) (hW : covers [.grid 0x40140 24 0x2000 16 0x4 0, .grid 0x40140 24 0x2000 16 0x4 16, .grid 0x40180 24 0x2000 8 0x4 0, .grid 0x40180 24 0x2000 8 0x4 16, .row 0x4012c 24 0x2000 0, .row 0x4012c 24 0x2000 8, .row 0x4012c 24 0x2000 23, .row 0x4012c 24 0x2000 29, .row 0x4012c 24 0x2000 30] W = true) (n : Nat) (fr : RxFrame) :
    Changes S W d (eqSnapshot n fr e) := by
  unfold eqSnapshot
  try dsimp only
  repeat' first
    | (with_reducible assumption)
    | (with_reducible refine ite_after ?_ ?_)
    | (with_reducible apply wr_after)
    | (with_reducible apply raise_after)
    | (with_reducible apply each_after)
    | (with_reducible apply flag_after)
    | (with_reducible apply count_after)
    | (intro _; try dsimp only)
    | exact within_trans (by decide) hS
    | exact covers_trans (by decide +kernel) hW
    | exact rows_row hW (by decide +kernel) (by decide)
    | exact rows_grid hW (by decide +kernel) (by decide) (by decide)
    | split

theorem endOfFrame_after (h : Changes S W d e) (hS : within [.regs, .chans] S = true) (hW : covers [.grid 0x40114 24 0x2000 3 0x4 0, .grid 0x40140 24 0x2000 16 0x4 0, .grid 0x40140 24 0x2000 16 0x4 16, .grid 0x40180 24 0x2000 8 0x4 0, .grid 0x40180 24 0x2000 8 0x4 16, .row 0x40108 24 0x2000 3, .row 0x40108 24 0x2000 29, .row 0x4010c 24 0x2000 0, .row 0x4010c 24 0x2000 8, .row 0x4010c 24 0x2000 16, .row 0x4010c 24 0x2000 24, .row 0x4010c 24 0x2000 30, .row 0x4010c 24 0x2000 31, .row 0x4012c 24 0x2000 0, .row 0x4012c 24 0x2000 8, .row 0x4012c 24 0x2000 23, .row 0x4012c 24 0x2000 29, .row 0x4012c 24 0x2000 30] W = true) (n : Nat) (fr : RxFrame) :
    Changes S W d (endOfFrame n fr e) := by
  unfold endOfFrame
  try dsimp only
  repeat' first
    | (with_reducible assumption)
    | (with_reducible refine ite_after ?_ ?_)
    | (with_reducible apply wr_after)
    | (with_reducible apply raiseIf_after)
    | (with_reducible apply lower_after)
    | (with_reducible apply flag_after)
    | (with_reducible apply Dev.modRx_after)
    | (with_reducible apply eqSnapshot_after)
    | (with_reducible apply collMap_after)
    | (intro _; try dsimp only)
    | exact within_trans (by decide) hS
    | exact covers_trans (by decide +kernel) hW
    | exact rows_row hW (by decide +kernel) (by decide)
    | exact rows_grid hW (by decide +kernel) (by decide) (by decide)
    | split

theorem listenerMeasurement_after (h : Changes S W d e) (hS : within [.chans] S = true) (hW : covers [] W = true) (n : Nat) (l : Nat) (amp : Nat) (phase : Nat) (below : Bool) :
    Changes S W d (listenerMeasurement n l amp phase below e) := by
  unfold listenerMeasurement
  try dsimp only
  repeat' first
    | (with_reducible assumption)
    | (with_reducible refine ite_after ?_ ?_)
    | (with_reducible apply Dev.modChan_after)
    | (intro _; try dsimp only)
    | exact within_trans (by decide) hS
    | split

theorem foreignCarrier_after (h : Changes S W d e) (hS : within [.regs] S = true) (hW : covers [.row 0x40108 24 0x2000 5, .row 0x40110 24 0x2000 0, .row 0x40110 24 0x2000 8, .row 0x40110 24 0x2000 29, .row 0x40110 24 0x2000 30, .row 0x40110 24 0x2000 31] W = true) (n : Nat) (level : Nat) :
    Changes S W d (foreignCarrier n level e) := by
  unfold foreignCarrier
  try dsimp only
  repeat' first
    | (with_reducible assumption)
    | (with_reducible refine ite_after ?_ ?_)
    | (with_reducible apply wr_after)
    | (with_reducible apply lower_after)
    | (with_reducible apply flag_after)
    | (intro _; try dsimp only)
    | exact within_trans (by decide) hS
    | exact covers_trans (by decide +kernel) hW
    | exact rows_row hW (by decide +kernel) (by decide)
    | split

theorem seedClear_after (h : Changes S W d e) (hS : within [.regs, .chans] S = true) (hW : covers [.row 0x40104 24 0x2000 3] W = true) (n : Nat) :
    Changes S W d (seedClear n e) := by
  unfold seedClear
  try dsimp only
  repeat' first
    | (with_reducible assumption)
    | (with_reducible refine ite_after ?_ ?_)
    | (with_reducible apply raise_after)
    | (with_reducible apply Dev.modRx_after)
    | (intro _; try dsimp only)
    | exact within_trans (by decide) hS
    | exact covers_trans (by decide) hW
    | exact rows_row hW (by decide) (by decide)
    | split

theorem execCorrelation_changes {s t : State} (n : Fin 24) (level : Byte) (floor : Byte) (oct : Fin 8) (at_ : Nat) (look : List Word) (soFar : RxFrame) (h : execCorrelation n level floor oct at_ look soFar s = .next t) :
    t.pending = s.pending ∧ Changes [.regs, .chans, .lq, .out, .sv, .hs] [.row 0x5014 2 0x800 6, .row 0x5014 2 0x800 24, .row 0x2100c 32 0x40 3, .row 0x2100c 32 0x40 4, .row 0x2100c 32 0x40 5, .row 0x21024 32 0x40 0, .row 0x40104 24 0x2000 3, .row 0x40108 24 0x2000 1, .row 0x40108 24 0x2000 2, .row 0x40108 24 0x2000 3, .row 0x40108 24 0x2000 29, .row 0x40128 24 0x2000 16, .row 0x40128 24 0x2000 24, .row 0x40218 24 0x2000 2, .row 0x40218 24 0x2000 28, .row 0x4021c 24 0x2000 8] s.dev t.dev := by
  unfold execCorrelation at h
  refine act_changes (by decide) h fun e h => ?_
  repeat' first
    | (with_reducible assumption)
    | (with_reducible refine ite_after ?_ ?_)
    | (with_reducible apply correlation_after)
    | (intro _; try dsimp only)
    | exact within_trans (by decide) (within_refl _)
    | exact covers_trans (by decide +kernel) (covers_refl _)
    | exact rows_row (covers_refl _) (by decide +kernel) (by decide)
    | split

theorem execRxEarlyWindowEnd_changes {s t : State} (n : Fin 24) (h : execRxEarlyWindowEnd n s = .next t) :
    t.pending = s.pending ∧ Changes [.regs, .chans, .out] [.row 0x40108 24 0x2000 29] s.dev t.dev := by
  unfold execRxEarlyWindowEnd at h
  refine act_changes (by decide) h fun e h => ?_
  repeat' first
    | (with_reducible assumption)
    | (with_reducible refine ite_after ?_ ?_)
    | (with_reducible apply rxEarlyWindowEnd_after)
    | (intro _; try dsimp only)
    | exact within_trans (by decide) (within_refl _)
    | exact covers_trans (by decide) (covers_refl _)
    | exact rows_row (covers_refl _) (by decide) (by decide)
    | split

theorem execReplayCatchUp_changes {s t : State} (n : Fin 24) (h : execReplayCatchUp n s = .next t) :
    t.pending = s.pending ∧ Changes [.regs, .out] [.row 0x40108 24 0x2000 29] s.dev t.dev := by
  unfold execReplayCatchUp at h
  refine act_changes (by decide) h fun e h => ?_
  repeat' first
    | (with_reducible assumption)
    | (with_reducible refine ite_after ?_ ?_)
    | (with_reducible apply replayCatchUp_after)
    | (intro _; try dsimp only)
    | exact within_trans (by decide) (within_refl _)
    | exact covers_trans (by decide) (covers_refl _)
    | exact rows_row (covers_refl _) (by decide) (by decide)
    | split

theorem execInterferenceEnd_changes {s t : State} (n : Fin 24) (b : Nat) (h : execInterferenceEnd n b s = .next t) :
    t.pending = s.pending ∧ Changes [.chans, .out] [] s.dev t.dev := by
  unfold execInterferenceEnd at h
  refine act_changes (by decide) h fun e h => ?_
  repeat' first
    | (with_reducible assumption)
    | (with_reducible refine ite_after ?_ ?_)
    | (with_reducible apply interferenceEnd_after)
    | (intro _; try dsimp only)
    | exact within_trans (by decide) (within_refl _)
    | split

theorem execAdcOverload_changes {s t : State} (n : Fin 24) (h : execAdcOverload n s = .next t) :
    t.pending = s.pending ∧ Changes [.regs, .chans, .out] [.row 0x40108 24 0x2000 4, .row 0x40128 24 0x2000 0] s.dev t.dev := by
  unfold execAdcOverload at h
  refine act_changes (by decide) h fun e h => ?_
  repeat' first
    | (with_reducible assumption)
    | (with_reducible refine ite_after ?_ ?_)
    | (with_reducible apply adcOverload_after)
    | (intro _; try dsimp only)
    | exact within_trans (by decide) (within_refl _)
    | exact covers_trans (by decide) (covers_refl _)
    | exact rows_row (covers_refl _) (by decide) (by decide)
    | split

theorem execEndOfFrame_changes {s t : State} (n : Fin 24) (fr : RxFrame) (h : execEndOfFrame n fr s = .next t) :
    t.pending = s.pending ∧ Changes [.regs, .chans, .out] [.grid 0x40114 24 0x2000 3 0x4 0, .grid 0x40140 24 0x2000 16 0x4 0, .grid 0x40140 24 0x2000 16 0x4 16, .grid 0x40180 24 0x2000 8 0x4 0, .grid 0x40180 24 0x2000 8 0x4 16, .row 0x40108 24 0x2000 3, .row 0x40108 24 0x2000 29, .row 0x4010c 24 0x2000 0, .row 0x4010c 24 0x2000 8, .row 0x4010c 24 0x2000 16, .row 0x4010c 24 0x2000 24, .row 0x4010c 24 0x2000 30, .row 0x4010c 24 0x2000 31, .row 0x4012c 24 0x2000 0, .row 0x4012c 24 0x2000 8, .row 0x4012c 24 0x2000 23, .row 0x4012c 24 0x2000 29, .row 0x4012c 24 0x2000 30] s.dev t.dev := by
  unfold execEndOfFrame at h
  refine act_changes (by decide) h fun e h => ?_
  repeat' first
    | (with_reducible assumption)
    | (with_reducible refine ite_after ?_ ?_)
    | (with_reducible apply endOfFrame_after)
    | (intro _; try dsimp only)
    | exact within_trans (by decide) (within_refl _)
    | exact covers_trans (by decide +kernel) (covers_refl _)
    | exact rows_row (covers_refl _) (by decide +kernel) (by decide)
    | exact rows_grid (covers_refl _) (by decide +kernel) (by decide) (by decide)
    | split

theorem execListenerMeasurement_changes {s t : State} (n : Fin 24) (l : Fin 24) (amp : Byte) (phase : Byte) (below : Bool) (h : execListenerMeasurement n l amp phase below s = .next t) :
    t.pending = s.pending ∧ Changes [.chans, .out] [] s.dev t.dev := by
  unfold execListenerMeasurement at h
  refine act_changes (by decide) h fun e h => ?_
  repeat' first
    | (with_reducible assumption)
    | (with_reducible refine ite_after ?_ ?_)
    | (with_reducible apply listenerMeasurement_after)
    | (intro _; try dsimp only)
    | exact within_trans (by decide) (within_refl _)
    | split

theorem execForeignCarrierMeasurement_changes {s t : State} (n : Fin 24) (level : Byte) (h : execForeignCarrierMeasurement n level s = .next t) :
    t.pending = s.pending ∧ Changes [.regs, .out] [.row 0x40108 24 0x2000 5, .row 0x40110 24 0x2000 0, .row 0x40110 24 0x2000 8, .row 0x40110 24 0x2000 29, .row 0x40110 24 0x2000 30, .row 0x40110 24 0x2000 31] s.dev t.dev := by
  unfold execForeignCarrierMeasurement at h
  refine act_changes (by decide) h fun e h => ?_
  repeat' first
    | (with_reducible assumption)
    | (with_reducible refine ite_after ?_ ?_)
    | (with_reducible apply foreignCarrier_after)
    | (intro _; try dsimp only)
    | exact within_trans (by decide) (within_refl _)
    | exact covers_trans (by decide +kernel) (covers_refl _)
    | exact rows_row (covers_refl _) (by decide +kernel) (by decide)
    | split

theorem execSeedClr_changes {s t : State} (p : Path) (n : Fin 24) (h : execSeedClr p n s = .next t) :
    t.pending = s.pending ∧ Changes [.regs, .chans, .out, .hawserStatus, .jtagStatus, .hs] [.row 0x5014 2 0x800 1, .row 0x5014 2 0x800 24, .row 0x40104 24 0x2000 3] s.dev t.dev := by
  unfold execSeedClr at h
  refine act_changes (by decide) h fun e h => ?_
  repeat' first
    | (with_reducible assumption)
    | (with_reducible refine ite_after ?_ ?_)
    | (with_reducible apply seedClear_after)
    | (with_reducible apply onPort_after)
    | (intro _; try dsimp only)
    | exact within_trans (by decide) (within_refl _)
    | exact covers_trans (by decide) (covers_refl _)
    | exact rows_row (covers_refl _) (by decide) (by decide)
    | split

end

end Sys2Proof.Machine
end

