-- ==== Sys2Proof/Laws/ChangesField.lean ====
section
/-!
SUPPORT. What every operation of Machine/Field can change.
-/

set_option Elab.async false
set_option linter.all false

namespace Sys2Proof.Machine

section
variable {S : List Part} {W : List Span} {d e : Dev}

theorem zeroCode_after (h : Changes S W d e) (hS : within [.regs, .chans, .ts, .lq, .out, .freeCtr, .sv, .hs] S = true) (hW : covers [.row 0x5014 2 0x800 6, .row 0x5014 2 0x800 24, .row 0x2100c 32 0x40 3, .row 0x2100c 32 0x40 4, .row 0x2100c 32 0x40 5, .row 0x21024 32 0x40 0, .row 0x40034 24 0x2000 2, .row 0x40034 24 0x2000 3, .row 0x40034 24 0x2000 4, .row 0x40034 24 0x2000 16, .row 0x40034 24 0x2000 28, .row 0x40034 24 0x2000 29, .row 0x40104 24 0x2000 3, .row 0x40108 24 0x2000 3, .row 0x40108 24 0x2000 29, .row 0x40218 24 0x2000 2, .row 0x40218 24 0x2000 28, .row 0x4021c 24 0x2000 8, .row 0x40304 24 0x2000 1, .row 0x40304 24 0x2000 2, .row 0x40304 24 0x2000 20, .row 0x40304 24 0x2000 22, .row 0x40304 24 0x2000 29, .row 0x40308 24 0x2000 0, .row 0x40308 24 0x2000 8, .row 0x40308 24 0x2000 16, .row 0x40308 24 0x2000 24] W = true) (n : Nat) (fr : RxFrame) :
    Changes S W d (zeroCode n fr e) := by
  unfold zeroCode
  try dsimp only
  repeat' first
    | (with_reducible assumption)
    | (with_reducible refine ite_after ?_ ?_)
    | (with_reducible apply endField_after)
    | (with_reducible apply recordCut_after)
    | (intro _; try dsimp only)
    | exact within_trans (by decide) hS
    | exact covers_trans (by decide +kernel) hW
    | exact rows_row hW (by decide +kernel) (by decide)
    | split

theorem charge_after (h : Changes S W d e) (hS : within [.ts] S = true) (hW : covers [] W = true) (g : Grant) (pw : Nat) :
    Changes S W d (charge g pw e) := by
  unfold charge
  try dsimp only
  repeat' first
    | (with_reducible assumption)
    | (with_reducible refine ite_after ?_ ?_)
    | (intro _; try dsimp only)
    | exact within_trans (by decide) hS
    | split
    | (with_reducible apply set_ts_after)
    | ((with_reducible show Changes _ _ _ (Dev.mk _ _ _ _ _ _ _ _ _ _ _ _ _ _ _ _ _ _ _ _ _ _ _ _ _ _ _ _ _ _)); refine mk_after ?_ (.inl rfl) (.inl rfl) (.inl rfl) (.inl rfl) (.inl rfl) (.inr (within_mem hS (by decide))) (.inl rfl) (.inl rfl) (.inl rfl) (.inl rfl) (.inl rfl) (.inl rfl) (.inl rfl) (.inl rfl) (.inl rfl) (.inl rfl) (.inl rfl) (.inl rfl) (.inl rfl) (.inl rfl) (.inl rfl) (.inl rfl) (.inl rfl) (.inl rfl) (.inl rfl) (.inl rfl) (.inl rfl) (.inl rfl) (.inl rfl) (fun can => can.mem) (fun can => can.shadow))

theorem nextCode_after (h : Changes S W d e) (hS : within [.chans, .ts] S = true) (hW : covers [] W = true) (n : Nat) (code : Nat) :
    Changes S W d (nextCode n code e) := by
  unfold nextCode
  try dsimp only
  repeat' first
    | (with_reducible assumption)
    | (with_reducible refine ite_after ?_ ?_)
    | (with_reducible apply Dev.modField_after)
    | (with_reducible apply charge_after)
    | (intro _; try dsimp only)
    | exact within_trans (by decide) hS
    | split

theorem txAmpWrite_after (h : Changes S W d e) (hS : within [.regs, .chans, .ts, .lq, .out, .freeCtr, .sv, .hs] S = true) (hW : covers [.errors, .row 0x5014 2 0x800 6, .row 0x5014 2 0x800 24, .row 0x2100c 32 0x40 3, .row 0x2100c 32 0x40 4, .row 0x2100c 32 0x40 5, .row 0x21024 32 0x40 0, .row 0x40010 24 0x2000 0, .row 0x40010 24 0x2000 16, .row 0x40034 24 0x2000 2, .row 0x40034 24 0x2000 3, .row 0x40034 24 0x2000 4, .row 0x40034 24 0x2000 16, .row 0x40034 24 0x2000 28, .row 0x40034 24 0x2000 29, .row 0x40104 24 0x2000 3, .row 0x40108 24 0x2000 3, .row 0x40108 24 0x2000 29, .row 0x40218 24 0x2000 2, .row 0x40218 24 0x2000 28, .row 0x4021c 24 0x2000 8, .row 0x40304 24 0x2000 1, .row 0x40304 24 0x2000 2, .row 0x40304 24 0x2000 20, .row 0x40304 24 0x2000 22, .row 0x40304 24 0x2000 29, .row 0x40308 24 0x2000 0, .row 0x40308 24 0x2000 8, .row 0x40308 24 0x2000 16, .row 0x40308 24 0x2000 24] W = true) (p : Path) (n : Nat) (w : Word) (fr : RxFrame) :
    Changes S W d (txAmpWrite p n w fr e) := by
  unfold txAmpWrite
  try dsimp only
  repeat' first
    | (with_reducible assumption)
    | (with_reducible refine ite_after ?_ ?_)
    | (with_reducible apply wr_after)
    | (with_reducible apply flag_after)
    | (with_reducible apply headroom_after)
    | (with_reducible apply nextCode_after)
    | (with_reducible apply recordCut_after)
    | (with_reducible apply errRange_after)
    | (with_reducible apply zeroCode_after)
    | (with_reducible apply charge_after)
    | (intro _; try dsimp only)
    | exact within_trans (by decide) hS
    | exact covers_trans (by decide +kernel) hW
    | exact rows_row hW (by decide +kernel) (by decide)
    | split

theorem supplySettled_after (h : Changes S W d e) (hS : within [.regs, .chans] S = true) (hW : covers [.row 0x40034 24 0x2000 2, .row 0x40034 24 0x2000 29] W = true) (n : Nat) :
    Changes S W d (supplySettled n e) := by
  unfold supplySettled
  try dsimp only
  repeat' first
    | (with_reducible assumption)
    | (with_reducible refine ite_after ?_ ?_)
    | (with_reducible apply tryRampUp_after)
    | (with_reducible apply Dev.modField_after)
    | (intro _; try dsimp only)
    | exact within_trans (by decide) hS
    | exact covers_trans (by decide) hW
    | exact rows_row hW (by decide) (by decide)
    | split

theorem rampUpDone_after (h : Changes S W d e) (hS : within [.regs, .chans, .ts, .lq, .out, .freeCtr, .sv, .hs] S = true) (hW : covers [.row 0x5014 2 0x800 6, .row 0x5014 2 0x800 24, .row 0x2100c 32 0x40 3, .row 0x2100c 32 0x40 4, .row 0x2100c 32 0x40 5, .row 0x21024 32 0x40 0, .row 0x40034 24 0x2000 2, .row 0x40034 24 0x2000 16, .row 0x40034 24 0x2000 28, .row 0x40034 24 0x2000 29, .row 0x40104 24 0x2000 3, .row 0x40108 24 0x2000 3, .row 0x40108 24 0x2000 29, .row 0x40218 24 0x2000 2, .row 0x40218 24 0x2000 28, .row 0x4021c 24 0x2000 8, .row 0x40304 24 0x2000 1, .row 0x40304 24 0x2000 2, .row 0x40304 24 0x2000 12, .row 0x40304 24 0x2000 20, .row 0x40304 24 0x2000 22, .row 0x40304 24 0x2000 29, .row 0x40308 24 0x2000 0, .row 0x40308 24 0x2000 8, .row 0x40308 24 0x2000 16, .row 0x40308 24 0x2000 24] W = true) (n : Nat) :
    Changes S W d (rampUpDone n e) := by
  unfold rampUpDone
  try dsimp only
  repeat' first
    | (with_reducible assumption)
    | (with_reducible refine ite_after ?_ ?_)
    | (with_reducible apply Dev.modField_after)
    | (with_reducible apply guardExpiry_after)
    | (with_reducible apply startRfReset_after)
    | (with_reducible apply kick_after)
    | (with_reducible apply fieldReady_after)
    | (intro _; try dsimp only)
    | exact within_trans (by decide) hS
    | exact covers_trans (by decide +kernel) hW
    | exact rows_row hW (by decide +kernel) (by decide)
    | split

theorem refuseReq_after (h : Changes S W d e) (hS : within [.regs, .chans, .lq, .out, .sv, .hs] S = true) (hW : covers [.row 0x5014 2 0x800 6, .row 0x5014 2 0x800 24, .row 0x2100c 32 0x40 3, .row 0x2100c 32 0x40 4, .row 0x2100c 32 0x40 5, .row 0x21024 32 0x40 0, .row 0x40108 24 0x2000 29, .row 0x40218 24 0x2000 28, .row 0x40304 24 0x2000 1, .row 0x40304 24 0x2000 20, .row 0x40304 24 0x2000 22, .row 0x40304 24 0x2000 29, .row 0x40308 24 0x2000 8, .row 0x40308 24 0x2000 24] W = true) (r : GrantReq) (code : Nat) :
    Changes S W d (refuseReq r code e) := by
  unfold refuseReq
  try dsimp only
  repeat' first
    | (with_reducible assumption)
    | (with_reducible refine ite_after ?_ ?_)
    | (with_reducible apply postIn_after)
    | (with_reducible apply endInventory_after)
    | (intro _; try dsimp only)
    | exact within_trans (by decide) hS
    | exact covers_trans (by decide +kernel) hW
    | exact rows_row hW (by decide +kernel) (by decide)
    | split

theorem dropReqs_after (h : Changes S W d e) (hS : within [.regs, .chans, .ts, .lq, .out, .sv, .hs] S = true) (hW : covers [.row 0x5014 2 0x800 6, .row 0x5014 2 0x800 24, .row 0x2100c 32 0x40 3, .row 0x2100c 32 0x40 4, .row 0x2100c 32 0x40 5, .row 0x21024 32 0x40 0, .row 0x40108 24 0x2000 29, .row 0x40218 24 0x2000 28, .row 0x40304 24 0x2000 1, .row 0x40304 24 0x2000 20, .row 0x40304 24 0x2000 22, .row 0x40304 24 0x2000 29, .row 0x40308 24 0x2000 8, .row 0x40308 24 0x2000 24] W = true) (c : GrantReq → Bool) (code : Nat) :
    Changes S W d (dropReqs c code e) := by
  unfold dropReqs
  try dsimp only
  repeat' first
    | (with_reducible assumption)
    | (with_reducible refine ite_after ?_ ?_)
    | (with_reducible apply each_after)
    | (with_reducible apply refuseReq_after)
    | (intro _; try dsimp only)
    | exact within_trans (by decide) hS
    | exact covers_trans (by decide +kernel) hW
    | exact rows_row hW (by decide +kernel) (by decide)
    | split
    | (with_reducible apply set_ts_after)
    | ((with_reducible show Changes _ _ _ (Dev.mk _ _ _ _ _ _ _ _ _ _ _ _ _ _ _ _ _ _ _ _ _ _ _ _ _ _ _ _ _ _)); refine mk_after ?_ (.inl rfl) (.inl rfl) (.inl rfl) (.inl rfl) (.inl rfl) (.inr (within_mem hS (by decide))) (.inl rfl) (.inl rfl) (.inl rfl) (.inl rfl) (.inl rfl) (.inl rfl) (.inl rfl) (.inl rfl) (.inl rfl) (.inl rfl) (.inl rfl) (.inl rfl) (.inl rfl) (.inl rfl) (.inl rfl) (.inl rfl) (.inl rfl) (.inl rfl) (.inl rfl) (.inl rfl) (.inl rfl) (.inl rfl) (.inl rfl) (fun can => can.mem) (fun can => can.shadow))

theorem exclude_after (h : Changes S W d e) (hS : within [.regs, .chans, .ts, .lq, .out, .sv, .hs] S = true) (hW : covers [.one 1835202, .row 0x5014 2 0x800 6, .row 0x5014 2 0x800 24, .row 0x2100c 32 0x40 3, .row 0x2100c 32 0x40 4, .row 0x2100c 32 0x40 5, .row 0x21024 32 0x40 0, .row 0x38100 48 0x4 0, .row 0x40108 24 0x2000 29, .row 0x40218 24 0x2000 28, .row 0x40304 24 0x2000 1, .row 0x40304 24 0x2000 20, .row 0x40304 24 0x2000 22, .row 0x40304 24 0x2000 29, .row 0x40308 24 0x2000 8, .row 0x40308 24 0x2000 24] W = true) (b : Nat) :
    Changes S W d (exclude b e) := by
  unfold exclude
  try dsimp only
  repeat' first
    | (with_reducible assumption)
    | (with_reducible refine ite_after ?_ ?_)
    | (with_reducible apply setBit_after)
    | (with_reducible apply raise_after)
    | (with_reducible apply dropReqs_after)
    | (intro _; try dsimp only)
    | exact within_trans (by decide) hS
    | exact covers_trans (by decide +kernel) hW
    | exact rows_one hW (by decide +kernel)
    | exact rows_row hW (by decide +kernel) (by decide)
    | split

theorem loadMeasured_after (h : Changes S W d e) (hS : within [.regs, .chans, .ts, .lq, .out, .sv, .hs] S = true) (hW : covers [.one 1835202, .row 0x5014 2 0x800 6, .row 0x5014 2 0x800 24, .row 0x2100c 32 0x40 3, .row 0x2100c 32 0x40 4, .row 0x2100c 32 0x40 5, .row 0x21024 32 0x40 0, .row 0x38100 48 0x4 0, .row 0x40034 24 0x2000 1, .row 0x40034 24 0x2000 10, .row 0x40038 24 0x2000 0, .row 0x40038 24 0x2000 16, .row 0x40038 24 0x2000 24, .row 0x40038 24 0x2000 30, .row 0x40038 24 0x2000 31, .row 0x40108 24 0x2000 29, .row 0x40110 24 0x2000 0, .row 0x40110 24 0x2000 8, .row 0x40110 24 0x2000 29, .row 0x40110 24 0x2000 30, .row 0x40110 24 0x2000 31, .row 0x40218 24 0x2000 28, .row 0x40304 24 0x2000 1, .row 0x40304 24 0x2000 20, .row 0x40304 24 0x2000 22, .row 0x40304 24 0x2000 29, .row 0x40308 24 0x2000 8, .row 0x40308 24 0x2000 24] W = true) (n : Nat) (mag : Nat) (phase : Nat) (level : Nat) (cphase : Nat) :
    Changes S W d (loadMeasured n mag phase level cphase e) := by
  unfold loadMeasured
  try dsimp only
  repeat' first
    | (with_reducible assumption)
    | (with_reducible refine ite_after ?_ ?_)
    | (with_reducible apply wr_after)
    | (with_reducible apply raise_after)
    | (with_reducible apply lower_after)
    | (with_reducible apply flag_after)
    | (with_reducible apply exclude_after)
    | (with_reducible apply Dev.modField_after)
    | (intro _; try dsimp only)
    | exact within_trans (by decide) hS
    | exact covers_trans (by decide +kernel) hW
    | exact rows_one hW (by decide +kernel)
    | exact rows_row hW (by decide +kernel) (by decide)
    | split
    | (with_reducible apply set_ts_after)
    | ((with_reducible show Changes _ _ _ (Dev.mk _ _ _ _ _ _ _ _ _ _ _ _ _ _ _ _ _ _ _ _ _ _ _ _ _ _ _ _ _ _)); refine mk_after ?_ (.inl rfl) (.inl rfl) (.inl rfl) (.inl rfl) (.inl rfl) (.inr (within_mem hS (by decide))) (.inl rfl) (.inl rfl) (.inl rfl) (.inl rfl) (.inl rfl) (.inl rfl) (.inl rfl) (.inl rfl) (.inl rfl) (.inl rfl) (.inl rfl) (.inl rfl) (.inl rfl) (.inl rfl) (.inl rfl) (.inl rfl) (.inl rfl) (.inl rfl) (.inl rfl) (.inl rfl) (.inl rfl) (.inl rfl) (.inl rfl) (fun can => can.mem) (fun can => can.shadow))

theorem rampDownDone_after (h : Changes S W d e) (hS : within [.regs, .chans, .ts, .lq, .out, .freeCtr, .sv, .hs] S = true) (hW : covers [.row 0x5014 2 0x800 6, .row 0x5014 2 0x800 24, .row 0x2100c 32 0x40 3, .row 0x2100c 32 0x40 4, .row 0x2100c 32 0x40 5, .row 0x21024 32 0x40 0, .row 0x40034 24 0x2000 2, .row 0x40034 24 0x2000 16, .row 0x40034 24 0x2000 28, .row 0x40034 24 0x2000 29, .row 0x40104 24 0x2000 3, .row 0x40108 24 0x2000 3, .row 0x40108 24 0x2000 29, .row 0x40218 24 0x2000 2, .row 0x40218 24 0x2000 28, .row 0x4021c 24 0x2000 8, .row 0x40304 24 0x2000 1, .row 0x40304 24 0x2000 2, .row 0x40304 24 0x2000 20, .row 0x40304 24 0x2000 22, .row 0x40304 24 0x2000 29, .row 0x40308 24 0x2000 0, .row 0x40308 24 0x2000 8, .row 0x40308 24 0x2000 16, .row 0x40308 24 0x2000 24] W = true) (n : Nat) :
    Changes S W d (rampDownDone n e) := by
  unfold rampDownDone
  try dsimp only
  repeat' first
    | (with_reducible assumption)
    | (with_reducible refine ite_after ?_ ?_)
    | (with_reducible apply fieldOff_after)
    | (with_reducible apply resetClamp_after)
    | (intro _; try dsimp only)
    | exact within_trans (by decide) hS
    | exact covers_trans (by decide +kernel) hW
    | exact rows_row hW (by decide +kernel) (by decide)
    | split

theorem rfResetOffExpiry_after (h : Changes S W d e) (hS : within [.regs, .chans, .ts, .lq, .out, .freeCtr, .sv, .hs] S = true) (hW : covers [.row 0x5014 2 0x800 6, .row 0x5014 2 0x800 24, .row 0x2100c 32 0x40 3, .row 0x2100c 32 0x40 4, .row 0x2100c 32 0x40 5, .row 0x21024 32 0x40 0, .row 0x40034 24 0x2000 2, .row 0x40034 24 0x2000 16, .row 0x40034 24 0x2000 28, .row 0x40034 24 0x2000 29, .row 0x40104 24 0x2000 3, .row 0x40108 24 0x2000 3, .row 0x40108 24 0x2000 29, .row 0x40218 24 0x2000 2, .row 0x40218 24 0x2000 28, .row 0x4021c 24 0x2000 8, .row 0x40304 24 0x2000 1, .row 0x40304 24 0x2000 2, .row 0x40304 24 0x2000 20, .row 0x40304 24 0x2000 22, .row 0x40304 24 0x2000 29, .row 0x40308 24 0x2000 0, .row 0x40308 24 0x2000 8, .row 0x40308 24 0x2000 16, .row 0x40308 24 0x2000 24] W = true) (n : Nat) :
    Changes S W d (rfResetOffExpiry n e) := by
  unfold rfResetOffExpiry
  try dsimp only
  repeat' first
    | (with_reducible assumption)
    | (with_reducible refine ite_after ?_ ?_)
    | (with_reducible apply endField_after)
    | (with_reducible apply rampUp_after)
    | (intro _; try dsimp only)
    | exact within_trans (by decide) hS
    | exact covers_trans (by decide +kernel) hW
    | exact rows_row hW (by decide +kernel) (by decide)
    | split

theorem rampInOne_after (h : Changes S W d e) (hS : within [.regs, .chans, .ts, .lq, .out, .freeCtr, .sv, .hs] S = true) (hW : covers [.row 0x5014 2 0x800 6, .row 0x5014 2 0x800 24, .row 0x2100c 32 0x40 3, .row 0x2100c 32 0x40 4, .row 0x2100c 32 0x40 5, .row 0x21024 32 0x40 0, .row 0x40034 24 0x2000 2, .row 0x40034 24 0x2000 16, .row 0x40034 24 0x2000 28, .row 0x40034 24 0x2000 29, .row 0x40104 24 0x2000 3, .row 0x40108 24 0x2000 3, .row 0x40108 24 0x2000 29, .row 0x40218 24 0x2000 2, .row 0x40218 24 0x2000 28, .row 0x4021c 24 0x2000 8, .row 0x40304 24 0x2000 1, .row 0x40304 24 0x2000 2, .row 0x40304 24 0x2000 12, .row 0x40304 24 0x2000 20, .row 0x40304 24 0x2000 22, .row 0x40304 24 0x2000 29, .row 0x40308 24 0x2000 0, .row 0x40308 24 0x2000 8, .row 0x40308 24 0x2000 16, .row 0x40308 24 0x2000 24] W = true) (n : Nat) :
    Changes S W d (rampInOne n e) := by
  unfold rampInOne
  try dsimp only
  repeat' first
    | (with_reducible assumption)
    | (with_reducible refine ite_after ?_ ?_)
    | (with_reducible apply rampUpDone_after)
    | (intro _; try dsimp only)
    | exact within_trans (by decide) hS
    | exact covers_trans (by decide +kernel) hW
    | exact rows_row hW (by decide +kernel) (by decide)
    | split

theorem cutField_after (h : Changes S W d e) (hS : within [.regs, .chans, .ts, .lq, .out, .freeCtr, .sv, .hs] S = true) (hW : covers [.row 0x5014 2 0x800 6, .row 0x5014 2 0x800 24, .row 0x2100c 32 0x40 3, .row 0x2100c 32 0x40 4, .row 0x2100c 32 0x40 5, .row 0x21024 32 0x40 0, .row 0x40034 24 0x2000 3, .row 0x40034 24 0x2000 4, .row 0x40034 24 0x2000 29, .row 0x40104 24 0x2000 3, .row 0x40108 24 0x2000 3, .row 0x40108 24 0x2000 29, .row 0x40218 24 0x2000 2, .row 0x40218 24 0x2000 28, .row 0x4021c 24 0x2000 8, .row 0x40304 24 0x2000 1, .row 0x40304 24 0x2000 2, .row 0x40304 24 0x2000 20, .row 0x40304 24 0x2000 22, .row 0x40304 24 0x2000 29, .row 0x40308 24 0x2000 0, .row 0x40308 24 0x2000 8, .row 0x40308 24 0x2000 16, .row 0x40308 24 0x2000 24] W = true) (n : Nat) (cause : Nat) (fr : RxFrame) :
    Changes S W d (cutField n cause fr e) := by
  unfold cutField
  try dsimp only
  repeat' first
    | (with_reducible assumption)
    | (with_reducible refine ite_after ?_ ?_)
    | (with_reducible apply lower_after)
    | (with_reducible apply Dev.modField_after)
    | (with_reducible apply recordCut_after)
    | (with_reducible apply loseField_after)
    | (intro _; try dsimp only)
    | exact within_trans (by decide) hS
    | exact covers_trans (by decide +kernel) hW
    | exact rows_row hW (by decide +kernel) (by decide)
    | split

theorem currentLimit_after (h : Changes S W d e) (hS : within [.regs] S = true) (hW : covers [.one 33216] W = true) (n : Nat) :
    Changes S W d (currentLimit n e) := by
  unfold currentLimit
  try dsimp only
  repeat' first
    | (with_reducible assumption)
    | (with_reducible refine ite_after ?_ ?_)
    | (with_reducible apply setBit_after)
    | (intro _; try dsimp only)
    | exact within_trans (by decide) hS
    | exact covers_trans (by decide) hW
    | exact rows_one hW (by decide)
    | split

theorem execRegulatorCurrentLimit_changes {s t : State} (n : Fin 24) (h : execRegulatorCurrentLimit n s = .next t) :
    t.pending = s.pending ∧ Changes [.regs, .out] [.one 33216] s.dev t.dev := by
  unfold execRegulatorCurrentLimit at h
  refine act_changes (by decide) h fun e h => ?_
  repeat' first
    | (with_reducible assumption)
    | (with_reducible refine ite_after ?_ ?_)
    | (with_reducible apply currentLimit_after)
    | (intro _; try dsimp only)
    | exact within_trans (by decide) (within_refl _)
    | exact covers_trans (by decide) (covers_refl _)
    | exact rows_one (covers_refl _) (by decide)
    | split

theorem execRegulatorDropout_changes {s t : State} (n : Fin 24) (h : execRegulatorDropout n s = .next t) :
    t.pending = s.pending ∧ Changes [.regs, .out] [.row 0x40034 24 0x2000 2, .row 0x40034 24 0x2000 29] s.dev t.dev := by
  unfold execRegulatorDropout at h
  refine act_changes (by decide) h fun e h => ?_
  repeat' first
    | (with_reducible assumption)
    | (with_reducible refine ite_after ?_ ?_)
    | (with_reducible apply headroom_after)
    | (intro _; try dsimp only)
    | exact within_trans (by decide) (within_refl _)
    | exact covers_trans (by decide) (covers_refl _)
    | exact rows_row (covers_refl _) (by decide) (by decide)
    | split

theorem execTxAmpWrite_changes {s t : State} (p : Path) (n : Fin 24) (w : Word) (soFar : RxFrame) (h : execTxAmpWrite p n w soFar s = .next t) :
    t.pending = s.pending ∧ Changes [.regs, .chans, .ts, .lq, .out, .freeCtr, .hawserStatus, .jtagStatus, .sv, .hs] [.errors, .row 0x5014 2 0x800 1, .row 0x5014 2 0x800 6, .row 0x5014 2 0x800 24, .row 0x2100c 32 0x40 3, .row 0x2100c 32 0x40 4, .row 0x2100c 32 0x40 5, .row 0x21024 32 0x40 0, .row 0x40010 24 0x2000 0, .row 0x40010 24 0x2000 16, .row 0x40034 24 0x2000 2, .row 0x40034 24 0x2000 3, .row 0x40034 24 0x2000 4, .row 0x40034 24 0x2000 16, .row 0x40034 24 0x2000 28, .row 0x40034 24 0x2000 29, .row 0x40104 24 0x2000 3, .row 0x40108 24 0x2000 3, .row 0x40108 24 0x2000 29, .row 0x40218 24 0x2000 2, .row 0x40218 24 0x2000 28, .row 0x4021c 24 0x2000 8, .row 0x40304 24 0x2000 1, .row 0x40304 24 0x2000 2, .row 0x40304 24 0x2000 12, .row 0x40304 24 0x2000 20, .row 0x40304 24 0x2000 22, .row 0x40304 24 0x2000 29, .row 0x40308 24 0x2000 0, .row 0x40308 24 0x2000 8, .row 0x40308 24 0x2000 16, .row 0x40308 24 0x2000 24] s.dev t.dev := by
  unfold execTxAmpWrite at h
  refine act_changes (by decide) h fun e h => ?_
  repeat' first
    | (with_reducible assumption)
    | (with_reducible refine ite_after ?_ ?_)
    | (with_reducible apply rampInOne_after)
    | (with_reducible apply txAmpWrite_after)
    | (with_reducible apply onPort_after)
    | (intro _; try dsimp only)
    | exact within_trans (by decide) (within_refl _)
    | exact covers_trans (by decide +kernel) (covers_refl _)
    | exact rows_row (covers_refl _) (by decide +kernel) (by decide)
    | split

theorem execSupplySettled_changes {s t : State} (n : Fin 24) (h : execSupplySettled n s = .next t) :
    t.pending = s.pending ∧ Changes [.regs, .chans, .ts, .lq, .out, .freeCtr, .sv, .hs] [.row 0x5014 2 0x800 6, .row 0x5014 2 0x800 24, .row 0x2100c 32 0x40 3, .row 0x2100c 32 0x40 4, .row 0x2100c 32 0x40 5, .row 0x21024 32 0x40 0, .row 0x40034 24 0x2000 2, .row 0x40034 24 0x2000 16, .row 0x40034 24 0x2000 28, .row 0x40034 24 0x2000 29, .row 0x40104 24 0x2000 3, .row 0x40108 24 0x2000 3, .row 0x40108 24 0x2000 29, .row 0x40218 24 0x2000 2, .row 0x40218 24 0x2000 28, .row 0x4021c 24 0x2000 8, .row 0x40304 24 0x2000 1, .row 0x40304 24 0x2000 2, .row 0x40304 24 0x2000 12, .row 0x40304 24 0x2000 20, .row 0x40304 24 0x2000 22, .row 0x40304 24 0x2000 29, .row 0x40308 24 0x2000 0, .row 0x40308 24 0x2000 8, .row 0x40308 24 0x2000 16, .row 0x40308 24 0x2000 24] s.dev t.dev := by
  unfold execSupplySettled at h
  refine act_changes (by decide) h fun e h => ?_
  repeat' first
    | (with_reducible assumption)
    | (with_reducible refine ite_after ?_ ?_)
    | (with_reducible apply rampInOne_after)
    | (with_reducible apply supplySettled_after)
    | (intro _; try dsimp only)
    | exact within_trans (by decide) (within_refl _)
    | exact covers_trans (by decide +kernel) (covers_refl _)
    | exact rows_row (covers_refl _) (by decide +kernel) (by decide)
    | split

theorem execRampUpDone_changes {s t : State} (n : Fin 24) (h : execRampUpDone n s = .next t) :
    t.pending = s.pending ∧ Changes [.regs, .chans, .ts, .lq, .out, .freeCtr, .sv, .hs] [.row 0x5014 2 0x800 6, .row 0x5014 2 0x800 24, .row 0x2100c 32 0x40 3, .row 0x2100c 32 0x40 4, .row 0x2100c 32 0x40 5, .row 0x21024 32 0x40 0, .row 0x40034 24 0x2000 2, .row 0x40034 24 0x2000 16, .row 0x40034 24 0x2000 28, .row 0x40034 24 0x2000 29, .row 0x40104 24 0x2000 3, .row 0x40108 24 0x2000 3, .row 0x40108 24 0x2000 29, .row 0x40218 24 0x2000 2, .row 0x40218 24 0x2000 28, .row 0x4021c 24 0x2000 8, .row 0x40304 24 0x2000 1, .row 0x40304 24 0x2000 2, .row 0x40304 24 0x2000 12, .row 0x40304 24 0x2000 20, .row 0x40304 24 0x2000 22, .row 0x40304 24 0x2000 29, .row 0x40308 24 0x2000 0, .row 0x40308 24 0x2000 8, .row 0x40308 24 0x2000 16, .row 0x40308 24 0x2000 24] s.dev t.dev := by
  unfold execRampUpDone at h
  refine act_changes (by decide) h fun e h => ?_
  repeat' first
    | (with_reducible assumption)
    | (with_reducible refine ite_after ?_ ?_)
    | (with_reducible apply rampUpDone_after)
    | (intro _; try dsimp only)
    | exact within_trans (by decide) (within_refl _)
    | exact covers_trans (by decide +kernel) (covers_refl _)
    | exact rows_row (covers_refl _) (by decide +kernel) (by decide)
    | split

theorem execLoadMeasurementDone_changes {s t : State} (n : Fin 24) (mag : Fin 4096) (phase : Byte) (level : Byte) (carrierPhase : Byte) (h : execLoadMeasurementDone n mag phase level carrierPhase s = .next t) :
    t.pending = s.pending ∧ Changes [.regs, .chans, .ts, .lq, .out, .sv, .hs] [.one 1835202, .row 0x5014 2 0x800 6, .row 0x5014 2 0x800 24, .row 0x2100c 32 0x40 3, .row 0x2100c 32 0x40 4, .row 0x2100c 32 0x40 5, .row 0x21024 32 0x40 0, .row 0x38100 48 0x4 0, .row 0x40034 24 0x2000 1, .row 0x40034 24 0x2000 10, .row 0x40038 24 0x2000 0, .row 0x40038 24 0x2000 16, .row 0x40038 24 0x2000 24, .row 0x40038 24 0x2000 30, .row 0x40038 24 0x2000 31, .row 0x40108 24 0x2000 29, .row 0x40110 24 0x2000 0, .row 0x40110 24 0x2000 8, .row 0x40110 24 0x2000 29, .row 0x40110 24 0x2000 30, .row 0x40110 24 0x2000 31, .row 0x40218 24 0x2000 28, .row 0x40304 24 0x2000 1, .row 0x40304 24 0x2000 20, .row 0x40304 24 0x2000 22, .row 0x40304 24 0x2000 29, .row 0x40308 24 0x2000 8, .row 0x40308 24 0x2000 24] s.dev t.dev := by
  unfold execLoadMeasurementDone at h
  refine act_changes (by decide) h fun e h => ?_
  repeat' first
    | (with_reducible assumption)
    | (with_reducible refine ite_after ?_ ?_)
    | (with_reducible apply loadMeasured_after)
    | (intro _; try dsimp only)
    | exact within_trans (by decide) (within_refl _)
    | exact covers_trans (by decide +kernel) (covers_refl _)
    | exact rows_one (covers_refl _) (by decide +kernel)
    | exact rows_row (covers_refl _) (by decide +kernel) (by decide)
    | split

theorem execRampDownDone_changes {s t : State} (n : Fin 24) (h : execRampDownDone n s = .next t) :
    t.pending = s.pending ∧ Changes [.regs, .chans, .ts, .lq, .out, .freeCtr, .sv, .hs] [.row 0x5014 2 0x800 6, .row 0x5014 2 0x800 24, .row 0x2100c 32 0x40 3, .row 0x2100c 32 0x40 4, .row 0x2100c 32 0x40 5, .row 0x21024 32 0x40 0, .row 0x40034 24 0x2000 2, .row 0x40034 24 0x2000 16, .row 0x40034 24 0x2000 28, .row 0x40034 24 0x2000 29, .row 0x40104 24 0x2000 3, .row 0x40108 24 0x2000 3, .row 0x40108 24 0x2000 29, .row 0x40218 24 0x2000 2, .row 0x40218 24 0x2000 28, .row 0x4021c 24 0x2000 8, .row 0x40304 24 0x2000 1, .row 0x40304 24 0x2000 2, .row 0x40304 24 0x2000 12, .row 0x40304 24 0x2000 20, .row 0x40304 24 0x2000 22, .row 0x40304 24 0x2000 29, .row 0x40308 24 0x2000 0, .row 0x40308 24 0x2000 8, .row 0x40308 24 0x2000 16, .row 0x40308 24 0x2000 24] s.dev t.dev := by
  unfold execRampDownDone at h
  refine act_changes (by decide) h fun e h => ?_
  repeat' first
    | (with_reducible assumption)
    | (with_reducible refine ite_after ?_ ?_)
    | (with_reducible apply rampInOne_after)
    | (with_reducible apply rampDownDone_after)
    | (intro _; try dsimp only)
    | exact within_trans (by decide) (within_refl _)
    | exact covers_trans (by decide +kernel) (covers_refl _)
    | exact rows_row (covers_refl _) (by decide +kernel) (by decide)
    | split

theorem execRfResetOffExpiry_changes {s t : State} (n : Fin 24) (h : execRfResetOffExpiry n s = .next t) :
    t.pending = s.pending ∧ Changes [.regs, .chans, .ts, .lq, .out, .freeCtr, .sv, .hs] [.row 0x5014 2 0x800 6, .row 0x5014 2 0x800 24, .row 0x2100c 32 0x40 3, .row 0x2100c 32 0x40 4, .row 0x2100c 32 0x40 5, .row 0x21024 32 0x40 0, .row 0x40034 24 0x2000 2, .row 0x40034 24 0x2000 16, .row 0x40034 24 0x2000 28, .row 0x40034 24 0x2000 29, .row 0x40104 24 0x2000 3, .row 0x40108 24 0x2000 3, .row 0x40108 24 0x2000 29, .row 0x40218 24 0x2000 2, .row 0x40218 24 0x2000 28, .row 0x4021c 24 0x2000 8, .row 0x40304 24 0x2000 1, .row 0x40304 24 0x2000 2, .row 0x40304 24 0x2000 12, .row 0x40304 24 0x2000 20, .row 0x40304 24 0x2000 22, .row 0x40304 24 0x2000 29, .row 0x40308 24 0x2000 0, .row 0x40308 24 0x2000 8, .row 0x40308 24 0x2000 16, .row 0x40308 24 0x2000 24] s.dev t.dev := by
  unfold execRfResetOffExpiry at h
  refine act_changes (by decide) h fun e h => ?_
  repeat' first
    | (with_reducible assumption)
    | (with_reducible refine ite_after ?_ ?_)
    | (with_reducible apply rampInOne_after)
    | (with_reducible apply rfResetOffExpiry_after)
    | (intro _; try dsimp only)
    | exact within_trans (by decide) (within_refl _)
    | exact covers_trans (by decide +kernel) (covers_refl _)
    | exact rows_row (covers_refl _) (by decide +kernel) (by decide)
    | split

theorem execGrantRelease_changes {s t : State} (n : Fin 24) (soFar : RxFrame) (h : execGrantRelease n soFar s = .next t) :
    t.pending = s.pending ∧ Changes [.regs, .chans, .ts, .lq, .out, .freeCtr, .sv, .hs] [.row 0x5014 2 0x800 6, .row 0x5014 2 0x800 24, .row 0x2100c 32 0x40 3, .row 0x2100c 32 0x40 4, .row 0x2100c 32 0x40 5, .row 0x21024 32 0x40 0, .row 0x40034 24 0x2000 2, .row 0x40034 24 0x2000 16, .row 0x40034 24 0x2000 28, .row 0x40034 24 0x2000 29, .row 0x40104 24 0x2000 3, .row 0x40108 24 0x2000 3, .row 0x40108 24 0x2000 29, .row 0x40218 24 0x2000 2, .row 0x40218 24 0x2000 28, .row 0x4021c 24 0x2000 8, .row 0x40304 24 0x2000 1, .row 0x40304 24 0x2000 2, .row 0x40304 24 0x2000 12, .row 0x40304 24 0x2000 20, .row 0x40304 24 0x2000 22, .row 0x40304 24 0x2000 29, .row 0x40308 24 0x2000 0, .row 0x40308 24 0x2000 8, .row 0x40308 24 0x2000 16, .row 0x40308 24 0x2000 24] s.dev t.dev := by
  unfold execGrantRelease at h
  refine act_changes (by decide) h fun e h => ?_
  repeat' first
    | (with_reducible assumption)
    | (with_reducible refine ite_after ?_ ?_)
    | (with_reducible apply rampInOne_after)
    | (with_reducible apply releaseGrant_after)
    | (intro _; try dsimp only)
    | exact within_trans (by decide) (within_refl _)
    | exact covers_trans (by decide +kernel) (covers_refl _)
    | exact rows_row (covers_refl _) (by decide +kernel) (by decide)
    | split

end

end Sys2Proof.Machine
end

