-- ==== Sys2Proof/Laws/ChangesSurvey.lean ====
section
/-!
SUPPORT. What every operation of Machine/Survey can change.
-/

set_option Elab.async false
set_option linter.all false

namespace Sys2Proof.Machine

section
variable {S : List Part} {W : List Span} {d e : Dev}

theorem Dev.modSurvey_after (h : Changes S W d e) (hS : within [.ts] S = true) (hW : covers [] W = true) (f : SurveySt → SurveySt) :
    Changes S W d (Dev.modSurvey e f) := by
  unfold Dev.modSurvey
  try dsimp only
  repeat' first
    | (with_reducible assumption)
    | (with_reducible refine ite_after ?_ ?_)
    | (intro _; try dsimp only)
    | exact within_trans (by decide) hS
    | split
    | (with_reducible apply set_ts_after)
    | ((with_reducible show Changes _ _ _ (Dev.mk _ _ _ _ _ _ _ _ _ _ _ _ _ _ _ _ _ _ _ _ _ _ _ _ _ _ _ _ _ _)); refine mk_after ?_ (.inl rfl) (.inl rfl) (.inl rfl) (.inl rfl) (.inl rfl) (.inr (within_mem hS (by decide))) (.inl rfl) (.inl rfl) (.inl rfl) (.inl rfl) (.inl rfl) (.inl rfl) (.inl rfl) (.inl rfl) (.inl rfl) (.inl rfl) (.inl rfl) (.inl rfl) (.inl rfl) (.inl rfl) (.inl rfl) (.inl rfl) (.inl rfl) (.inl rfl) (.inl rfl) (.inl rfl) (.inl rfl) (.inl rfl) (.inl rfl) (fun can => can.mem) (fun can => can.shadow))

theorem endSurvey_after (h : Changes S W d e) (hS : within [.regs, .ts] S = true) (hW : covers [.one 1835219, .one 1835262, .one 1835263, .one 1835288, .row 0x40108 24 0x2000 29] W = true) (code : Nat) :
    Changes S W d (endSurvey code e) := by
  unfold endSurvey
  try dsimp only
  repeat' first
    | (with_reducible assumption)
    | (with_reducible refine ite_after ?_ ?_)
    | (with_reducible apply wr_after)
    | (with_reducible apply lower_after)
    | (with_reducible apply Dev.modSurvey_after)
    | (with_reducible apply followListeners_after)
    | (intro _; try dsimp only)
    | exact within_trans (by decide) hS
    | exact covers_trans (by decide +kernel) hW
    | exact rows_one hW (by decide +kernel)
    | exact rows_row hW (by decide +kernel) (by decide)
    | split

theorem abortSurvey_after (h : Changes S W d e) (hS : within [.regs, .chans, .ts, .lq, .out, .freeCtr, .sv, .hs] S = true) (hW : covers [.one 1835219, .one 1835262, .one 1835263, .one 1835288, .row 0x5014 2 0x800 6, .row 0x5014 2 0x800 24, .row 0x2100c 32 0x40 3, .row 0x2100c 32 0x40 4, .row 0x2100c 32 0x40 5, .row 0x21024 32 0x40 0, .row 0x40034 24 0x2000 2, .row 0x40034 24 0x2000 16, .row 0x40034 24 0x2000 28, .row 0x40034 24 0x2000 29, .row 0x40104 24 0x2000 3, .row 0x40108 24 0x2000 3, .row 0x40108 24 0x2000 29, .row 0x40218 24 0x2000 2, .row 0x40218 24 0x2000 28, .row 0x4021c 24 0x2000 8, .row 0x40304 24 0x2000 1, .row 0x40304 24 0x2000 2, .row 0x40304 24 0x2000 20, .row 0x40304 24 0x2000 22, .row 0x40304 24 0x2000 29, .row 0x40308 24 0x2000 0, .row 0x40308 24 0x2000 8, .row 0x40308 24 0x2000 16, .row 0x40308 24 0x2000 24] W = true) :
    Changes S W d (abortSurvey e) := by
  unfold abortSurvey
  try dsimp only
  repeat' first
    | (with_reducible assumption)
    | (with_reducible refine ite_after ?_ ?_)
    | (with_reducible apply endSurvey_after)
    | (with_reducible apply endGrant_after)
    | (with_reducible apply each_after)
    | (intro _; try dsimp only)
    | exact within_trans (by decide) hS
    | exact covers_trans (by decide +kernel) hW
    | exact rows_one hW (by decide +kernel)
    | exact rows_row hW (by decide +kernel) (by decide)
    | split

theorem surveySend_after (h : Changes S W d e) (hS : within [.ts] S = true) (hW : covers [] W = true) (dst : Nat) (typ : Nat) (ws : List Word) :
    Changes S W d (surveySend dst typ ws e) := by
  unfold surveySend
  try dsimp only
  repeat' first
    | (with_reducible assumption)
    | (with_reducible refine ite_after ?_ ?_)
    | (intro _; try dsimp only)
    | exact within_trans (by decide) hS
    | split
    | (with_reducible apply set_ts_after)
    | ((with_reducible show Changes _ _ _ (Dev.mk _ _ _ _ _ _ _ _ _ _ _ _ _ _ _ _ _ _ _ _ _ _ _ _ _ _ _ _ _ _)); refine mk_after ?_ (.inl rfl) (.inl rfl) (.inl rfl) (.inl rfl) (.inl rfl) (.inr (within_mem hS (by decide))) (.inl rfl) (.inl rfl) (.inl rfl) (.inl rfl) (.inl rfl) (.inl rfl) (.inl rfl) (.inl rfl) (.inl rfl) (.inl rfl) (.inl rfl) (.inl rfl) (.inl rfl) (.inl rfl) (.inl rfl) (.inl rfl) (.inl rfl) (.inl rfl) (.inl rfl) (.inl rfl) (.inl rfl) (.inl rfl) (.inl rfl) (fun can => can.mem) (fun can => can.shadow))

theorem surveyGo_after (h : Changes S W d e) (hS : within [.regs, .ts] S = true) (hW : covers [.errors, .one 1835219, .one 1835232, .one 1835242, .one 1835248, .one 1835261, .one 1835262, .one 1835263, .one 1835286, .one 1835287, .one 1835288, .row 0x40108 24 0x2000 29] W = true) (p : Path) (w : Word) :
    Changes S W d (surveyGo p w e) := by
  unfold surveyGo
  try dsimp only
  repeat' first
    | (with_reducible assumption)
    | (with_reducible refine ite_after ?_ ?_)
    | (with_reducible apply wr_after)
    | (with_reducible apply endSurvey_after)
    | (with_reducible apply raise_after)
    | (with_reducible apply lower_after)
    | (with_reducible apply accessError_after)
    | (with_reducible apply flag_after)
    | (with_reducible apply Dev.modSurvey_after)
    | (with_reducible apply surveySend_after)
    | (intro _; try dsimp only)
    | exact within_trans (by decide) hS
    | exact covers_trans (by decide +kernel) hW
    | exact rows_one hW (by decide +kernel)
    | exact rows_row hW (by decide +kernel) (by decide)
    | exact blockBase_mem _
    | (with_reducible show _ ∈ blockBases; decide)
    | split

theorem surveyAbort_after (h : Changes S W d e) (hS : within [.regs, .chans, .ts, .lq, .out, .freeCtr, .sv, .hs] S = true) (hW : covers [.errors, .one 1835219, .one 1835232, .one 1835242, .one 1835248, .one 1835261, .one 1835262, .one 1835263, .one 1835288, .row 0x5014 2 0x800 6, .row 0x5014 2 0x800 24, .row 0x2100c 32 0x40 3, .row 0x2100c 32 0x40 4, .row 0x2100c 32 0x40 5, .row 0x21024 32 0x40 0, .row 0x40034 24 0x2000 2, .row 0x40034 24 0x2000 16, .row 0x40034 24 0x2000 28, .row 0x40034 24 0x2000 29, .row 0x40104 24 0x2000 3, .row 0x40108 24 0x2000 3, .row 0x40108 24 0x2000 29, .row 0x40218 24 0x2000 2, .row 0x40218 24 0x2000 28, .row 0x4021c 24 0x2000 8, .row 0x40304 24 0x2000 1, .row 0x40304 24 0x2000 2, .row 0x40304 24 0x2000 20, .row 0x40304 24 0x2000 22, .row 0x40304 24 0x2000 29, .row 0x40308 24 0x2000 0, .row 0x40308 24 0x2000 8, .row 0x40308 24 0x2000 16, .row 0x40308 24 0x2000 24] W = true) (p : Path) (w : Word) :
    Changes S W d (surveyAbort p w e) := by
  unfold surveyAbort
  try dsimp only
  repeat' first
    | (with_reducible assumption)
    | (with_reducible refine ite_after ?_ ?_)
    | (with_reducible apply wr_after)
    | (with_reducible apply flag_after)
    | (with_reducible apply errRange_after)
    | (with_reducible apply abortSurvey_after)
    | (intro _; try dsimp only)
    | exact within_trans (by decide) hS
    | exact covers_trans (by decide +kernel) hW
    | exact rows_one hW (by decide +kernel)
    | exact rows_row hW (by decide +kernel) (by decide)
    | split

theorem surveyAnswer_after (h : Changes S W d e) (hS : within [.regs, .ts] S = true) (hW : covers [.one 1835219, .one 1835262, .one 1835263, .one 1835288, .row 0x40108 24 0x2000 29] W = true) (code : Nat) :
    Changes S W d (surveyAnswer code e) := by
  unfold surveyAnswer
  try dsimp only
  repeat' first
    | (with_reducible assumption)
    | (with_reducible refine ite_after ?_ ?_)
    | (with_reducible apply wr_after)
    | (with_reducible apply endSurvey_after)
    | (with_reducible apply Dev.modSurvey_after)
    | (intro _; try dsimp only)
    | exact within_trans (by decide) hS
    | exact covers_trans (by decide +kernel) hW
    | exact rows_one hW (by decide +kernel)
    | exact rows_row hW (by decide +kernel) (by decide)
    | split

theorem surveyProposal_after (h : Changes S W d e) (hS : within [.regs, .ts] S = true) (hW : covers [.one 1835219] W = true) (peer : Nat) (startMs : Nat) (code : Nat) (avg : Nat) (srcs : List Nat) :
    Changes S W d (surveyProposal peer startMs code avg srcs e) := by
  unfold surveyProposal
  try dsimp only
  repeat' first
    | (with_reducible assumption)
    | (with_reducible refine ite_after ?_ ?_)
    | (with_reducible apply wr_after)
    | (with_reducible apply Dev.modSurvey_after)
    | (with_reducible apply surveySend_after)
    | (intro _; try dsimp only)
    | exact within_trans (by decide) hS
    | exact covers_trans (by decide) hW
    | exact rows_one hW (by decide)
    | split

theorem surveyDrainDone_after (h : Changes S W d e) (hS : within [.regs] S = true) (hW : covers [.one 1835219] W = true) :
    Changes S W d (surveyDrainDone e) := by
  unfold surveyDrainDone
  try dsimp only
  repeat' first
    | (with_reducible assumption)
    | (with_reducible refine ite_after ?_ ?_)
    | (with_reducible apply wr_after)
    | (intro _; try dsimp only)
    | exact within_trans (by decide) hS
    | exact covers_trans (by decide) hW
    | exact rows_one hW (by decide)
    | split

theorem beginBlock_after (h : Changes S W d e) (hS : within [.regs, .ts] S = true) (hW : covers [.one 1835275] W = true) (pos : Nat) :
    Changes S W d (beginBlock pos e) := by
  unfold beginBlock
  try dsimp only
  repeat' first
    | (with_reducible assumption)
    | (with_reducible refine ite_after ?_ ?_)
    | (with_reducible apply wr_after)
    | (with_reducible apply Dev.modSurvey_after)
    | (intro _; try dsimp only)
    | exact within_trans (by decide) hS
    | exact covers_trans (by decide) hW
    | exact rows_one hW (by decide)
    | split

theorem surveyStartSlot_after (h : Changes S W d e) (hS : within [.regs, .time, .ts, .clk] S = true) (hW : covers [.one 98752, .one 1835219, .one 1835275, .row 0x40108 24 0x2000 29] W = true) (peerCoils : Nat) :
    Changes S W d (surveyStartSlot peerCoils e) := by
  unfold surveyStartSlot
  try dsimp only
  repeat' first
    | (with_reducible assumption)
    | (with_reducible refine ite_after ?_ ?_)
    | (with_reducible apply wr_after)
    | (with_reducible apply Dev.modSurvey_after)
    | (with_reducible apply followListeners_after)
    | (with_reducible apply Dev.reach_after)
    | (with_reducible apply beginBlock_after)
    | (intro _; try dsimp only)
    | exact within_trans (by decide) hS
    | exact covers_trans (by decide +kernel) hW
    | exact rows_one hW (by decide +kernel)
    | exact rows_row hW (by decide +kernel) (by decide)
    | split

theorem closeBlock_after (h : Changes S W d e) (hS : within [.regs, .ts] S = true) (hW : covers [.one 1835286] W = true) :
    Changes S W d (closeBlock e) := by
  unfold closeBlock
  try dsimp only
  repeat' first
    | (with_reducible assumption)
    | (with_reducible refine ite_after ?_ ?_)
    | (with_reducible apply raiseIf_after)
    | (with_reducible apply Dev.modSurvey_after)
    | (with_reducible apply surveySend_after)
    | (intro _; try dsimp only)
    | exact within_trans (by decide) hS
    | exact covers_trans (by decide) hW
    | exact rows_one hW (by decide)
    | split

theorem peerBlockDone_after (h : Changes S W d e) (hS : within [.ts] S = true) (hW : covers [] W = true) :
    Changes S W d (peerBlockDone e) := by
  unfold peerBlockDone
  try dsimp only
  repeat' first
    | (with_reducible assumption)
    | (with_reducible refine ite_after ?_ ?_)
    | (with_reducible apply Dev.modSurvey_after)
    | (intro _; try dsimp only)
    | exact within_trans (by decide) hS
    | split

theorem startRepeats_after (h : Changes S W d e) (hS : within [.regs, .ts] S = true) (hW : covers [.one 1835275] W = true) :
    Changes S W d (startRepeats e) := by
  unfold startRepeats
  try dsimp only
  repeat' first
    | (with_reducible assumption)
    | (with_reducible refine ite_after ?_ ?_)
    | (with_reducible apply Dev.modSurvey_after)
    | (with_reducible apply beginBlock_after)
    | (intro _; try dsimp only)
    | exact within_trans (by decide) hS
    | exact covers_trans (by decide) hW
    | exact rows_one hW (by decide)
    | split

theorem surveySlot_after (h : Changes S W d e) (hS : within [.regs, .ts] S = true) (hW : covers [.one 1835219, .one 1835275, .one 1835286] W = true) :
    Changes S W d (surveySlot e) := by
  unfold surveySlot
  try dsimp only
  repeat' first
    | (with_reducible assumption)
    | (with_reducible refine ite_after ?_ ?_)
    | (with_reducible apply wr_after)
    | (with_reducible apply closeBlock_after)
    | (with_reducible apply Dev.modSurvey_after)
    | (with_reducible apply startRepeats_after)
    | (with_reducible apply peerBlockDone_after)
    | (with_reducible apply beginBlock_after)
    | (intro _; try dsimp only)
    | exact within_trans (by decide) hS
    | exact covers_trans (by decide) hW
    | exact rows_one hW (by decide)
    | split

theorem surveyMeasurement_after (h : Changes S W d e) (hS : within [.regs, .ts] S = true) (hW : covers [.one 1835287] W = true) (n : Nat) (level : Nat) (phase : Nat) (floor : Nat) :
    Changes S W d (surveyMeasurement n level phase floor e) := by
  unfold surveyMeasurement
  try dsimp only
  repeat' first
    | (with_reducible assumption)
    | (with_reducible refine ite_after ?_ ?_)
    | (with_reducible apply raise_after)
    | (with_reducible apply Dev.modSurvey_after)
    | (intro _; try dsimp only)
    | exact within_trans (by decide) hS
    | exact covers_trans (by decide) hW
    | exact rows_one hW (by decide)
    | split

theorem surveyBlockResult_after (h : Changes S W d e) (hS : within [.regs, .ts] S = true) (hW : covers [.one 1835219, .one 1835286] W = true) (level : Nat) (phase : Nat) (refused : Bool) :
    Changes S W d (surveyBlockResult level phase refused e) := by
  unfold surveyBlockResult
  try dsimp only
  repeat' first
    | (with_reducible assumption)
    | (with_reducible refine ite_after ?_ ?_)
    | (with_reducible apply wr_after)
    | (with_reducible apply raiseIf_after)
    | (with_reducible apply Dev.modSurvey_after)
    | (with_reducible apply surveySend_after)
    | (intro _; try dsimp only)
    | exact within_trans (by decide) hS
    | exact covers_trans (by decide) hW
    | exact rows_one hW (by decide)
    | split

theorem surveyAgain_after (h : Changes S W d e) (hS : within [.regs, .ts] S = true) (hW : covers [.one 1835286, .one 1835287] W = true) (b : Nat) :
    Changes S W d (surveyAgain b e) := by
  unfold surveyAgain
  try dsimp only
  repeat' first
    | (with_reducible assumption)
    | (with_reducible refine ite_after ?_ ?_)
    | (with_reducible apply raise_after)
    | (with_reducible apply raiseIf_after)
    | (with_reducible apply Dev.modSurvey_after)
    | (intro _; try dsimp only)
    | exact within_trans (by decide) hS
    | exact covers_trans (by decide) hW
    | exact rows_one hW (by decide)
    | split

theorem surveyResults_after (h : Changes S W d e) (hS : within [.regs, .ts] S = true) (hW : covers [.one 1835219] W = true) (vs : List Coupling) :
    Changes S W d (surveyResults vs e) := by
  unfold surveyResults
  try dsimp only
  repeat' first
    | (with_reducible assumption)
    | (with_reducible refine ite_after ?_ ?_)
    | (with_reducible apply wr_after)
    | (with_reducible apply Dev.modSurvey_after)
    | (intro _; try dsimp only)
    | exact within_trans (by decide) hS
    | exact covers_trans (by decide) hW
    | exact rows_one hW (by decide)
    | split

theorem commitInternal_after (h : Changes S W d e) (hS : within [.ts] S = true) (hW : covers [] W = true) :
    Changes S W d (commitInternal e) := by
  unfold commitInternal
  try dsimp only
  repeat' first
    | (with_reducible assumption)
    | (with_reducible refine ite_after ?_ ?_)
    | (with_reducible apply Dev.modTable_after)
    | (with_reducible apply each_after)
    | (intro _; try dsimp only)
    | exact within_trans (by decide) hS
    | split

theorem commitCross_after (h : Changes S W d e) (hS : within [.ts] S = true) (hW : covers [] W = true) :
    Changes S W d (commitCross e) := by
  unfold commitCross
  try dsimp only
  repeat' first
    | (with_reducible assumption)
    | (with_reducible refine ite_after ?_ ?_)
    | (with_reducible apply Dev.modTable_after)
    | (with_reducible apply each_after)
    | (intro _; try dsimp only)
    | exact within_trans (by decide) hS
    | split

theorem surveyCommit_after (h : Changes S W d e) (hS : within [.regs, .ts] S = true) (hW : covers [.one 1835219, .one 1835222, .one 1835223, .one 1835262, .one 1835263, .one 1835288, .row 0x40108 24 0x2000 29] W = true) :
    Changes S W d (surveyCommit e) := by
  unfold surveyCommit
  try dsimp only
  repeat' first
    | (with_reducible assumption)
    | (with_reducible refine ite_after ?_ ?_)
    | (with_reducible apply endSurvey_after)
    | (with_reducible apply raise_after)
    | (with_reducible apply commitCross_after)
    | (with_reducible apply commitInternal_after)
    | (intro _; try dsimp only)
    | exact within_trans (by decide) hS
    | exact covers_trans (by decide +kernel) hW
    | exact rows_one hW (by decide +kernel)
    | exact rows_row hW (by decide +kernel) (by decide)
    | split

theorem surveyPeerTimeout_after (h : Changes S W d e) (hS : within [.regs, .chans, .ts, .lq, .out, .freeCtr, .sv, .hs] S = true) (hW : covers [.one 1835219, .one 1835262, .one 1835263, .one 1835288, .row 0x5014 2 0x800 6, .row 0x5014 2 0x800 24, .row 0x2100c 32 0x40 3, .row 0x2100c 32 0x40 4, .row 0x2100c 32 0x40 5, .row 0x21024 32 0x40 0, .row 0x40034 24 0x2000 2, .row 0x40034 24 0x2000 16, .row 0x40034 24 0x2000 28, .row 0x40034 24 0x2000 29, .row 0x40104 24 0x2000 3, .row 0x40108 24 0x2000 3, .row 0x40108 24 0x2000 29, .row 0x40218 24 0x2000 2, .row 0x40218 24 0x2000 28, .row 0x4021c 24 0x2000 8, .row 0x40304 24 0x2000 1, .row 0x40304 24 0x2000 2, .row 0x40304 24 0x2000 20, .row 0x40304 24 0x2000 22, .row 0x40304 24 0x2000 29, .row 0x40308 24 0x2000 0, .row 0x40308 24 0x2000 8, .row 0x40308 24 0x2000 16, .row 0x40308 24 0x2000 24] W = true) :
    Changes S W d (surveyPeerTimeout e) := by
  unfold surveyPeerTimeout
  try dsimp only
  repeat' first
    | (with_reducible assumption)
    | (with_reducible refine ite_after ?_ ?_)
    | (with_reducible apply endSurvey_after)
    | (with_reducible apply abortSurvey_after)
    | (intro _; try dsimp only)
    | exact within_trans (by decide) hS
    | exact covers_trans (by decide +kernel) hW
    | exact rows_one hW (by decide +kernel)
    | exact rows_row hW (by decide +kernel) (by decide)
    | split

theorem nbSelWrite_after (h : Changes S W d e) (hS : within [.regs, .ts] S = true) (hW : covers [.errors, .one 1835223, .one 1835392] W = true) (p : Path) (w : Word) :
    Changes S W d (nbSelWrite p w e) := by
  unfold nbSelWrite
  try dsimp only
  repeat' first
    | (with_reducible assumption)
    | (with_reducible refine ite_after ?_ ?_)
    | (with_reducible apply wr_after)
    | (with_reducible apply raise_after)
    | (with_reducible apply lower_after)
    | (with_reducible apply accessError_after)
    | (intro _; try dsimp only)
    | exact within_trans (by decide) hS
    | exact covers_trans (by decide) hW
    | exact rows_one hW (by decide)
    | exact blockBase_mem _
    | (with_reducible show _ ∈ blockBases; decide)
    | split
    | (with_reducible apply set_ts_after)
    | ((with_reducible show Changes _ _ _ (Dev.mk _ _ _ _ _ _ _ _ _ _ _ _ _ _ _ _ _ _ _ _ _ _ _ _ _ _ _ _ _ _)); refine mk_after ?_ (.inl rfl) (.inl rfl) (.inl rfl) (.inl rfl) (.inl rfl) (.inr (within_mem hS (by decide))) (.inl rfl) (.inl rfl) (.inl rfl) (.inl rfl) (.inl rfl) (.inl rfl) (.inl rfl) (.inl rfl) (.inl rfl) (.inl rfl) (.inl rfl) (.inl rfl) (.inl rfl) (.inl rfl) (.inl rfl) (.inl rfl) (.inl rfl) (.inl rfl) (.inl rfl) (.inl rfl) (.inl rfl) (.inl rfl) (.inl rfl) (fun can => can.mem) (fun can => can.shadow))

theorem attribution_after (h : Changes S W d e) (hS : within [.regs, .chans, .ts, .lq, .out, .freeCtr, .sv, .hs] S = true) (hW : covers [.row 0x5014 2 0x800 6, .row 0x5014 2 0x800 24, .row 0x2100c 32 0x40 3, .row 0x2100c 32 0x40 4, .row 0x2100c 32 0x40 5, .row 0x21024 32 0x40 0, .row 0x40108 24 0x2000 29, .row 0x40218 24 0x2000 28, .row 0x40304 24 0x2000 1, .row 0x40304 24 0x2000 2, .row 0x40304 24 0x2000 12, .row 0x40304 24 0x2000 20, .row 0x40304 24 0x2000 22, .row 0x40304 24 0x2000 29, .row 0x40308 24 0x2000 8, .row 0x40308 24 0x2000 16, .row 0x40308 24 0x2000 24] W = true) (n : Nat) :
    Changes S W d (attribution n e) := by
  unfold attribution
  try dsimp only
  repeat' first
    | (with_reducible assumption)
    | (with_reducible refine ite_after ?_ ?_)
    | (with_reducible apply Dev.modChan_after)
    | (with_reducible apply Dev.setJob_after)
    | (with_reducible apply flushTag_after)
    | (with_reducible apply endRound_after)
    | (intro _; try dsimp only)
    | exact within_trans (by decide) hS
    | exact covers_trans (by decide +kernel) hW
    | exact rows_row hW (by decide +kernel) (by decide)
    | split

theorem slotBoundary_after (h : Changes S W d e) (hS : within [.regs, .time, .chans, .ts, .lq, .out, .freeCtr, .clk, .sv, .hs] S = true) (hW : covers [.one 33056, .one 98752, .one 1835219, .one 1835224, .one 1835275, .one 1835286, .row 0x5014 2 0x800 6, .row 0x5014 2 0x800 24, .row 0x2100c 32 0x40 3, .row 0x2100c 32 0x40 4, .row 0x2100c 32 0x40 5, .row 0x21024 32 0x40 0, .row 0x40034 24 0x2000 2, .row 0x40034 24 0x2000 16, .row 0x40034 24 0x2000 28, .row 0x40034 24 0x2000 29, .row 0x40104 24 0x2000 3, .row 0x40108 24 0x2000 3, .row 0x40108 24 0x2000 29, .row 0x40218 24 0x2000 2, .row 0x40218 24 0x2000 28, .row 0x4021c 24 0x2000 8, .row 0x40304 24 0x2000 1, .row 0x40304 24 0x2000 2, .row 0x40304 24 0x2000 12, .row 0x40304 24 0x2000 20, .row 0x40304 24 0x2000 22, .row 0x40304 24 0x2000 29, .row 0x40308 24 0x2000 0, .row 0x40308 24 0x2000 8, .row 0x40308 24 0x2000 16, .row 0x40308 24 0x2000 24] W = true) :
    Changes S W d (slotBoundary e) := by
  unfold slotBoundary
  try dsimp only
  repeat' first
    | (with_reducible assumption)
    | (with_reducible refine ite_after ?_ ?_)
    | (with_reducible apply wr_after)
    | (with_reducible apply surveySlot_after)
    | (with_reducible apply rfBudget_after)
    | (with_reducible apply endGrants_after)
    | (with_reducible apply followListeners_after)
    | (with_reducible apply raiseFields_after)
    | (with_reducible apply Dev.reach_after)
    | (intro _; try dsimp only)
    | exact within_trans (by decide) hS
    | exact covers_trans (by decide +kernel) hW
    | exact rows_one hW (by decide +kernel)
    | exact rows_row hW (by decide +kernel) (by decide)
    | split
    | (with_reducible apply set_ts_after)
    | ((with_reducible show Changes _ _ _ (Dev.mk _ _ _ _ _ _ _ _ _ _ _ _ _ _ _ _ _ _ _ _ _ _ _ _ _ _ _ _ _ _)); refine mk_after ?_ (.inl rfl) (.inl rfl) (.inl rfl) (.inl rfl) (.inl rfl) (.inr (within_mem hS (by decide))) (.inl rfl) (.inl rfl) (.inl rfl) (.inl rfl) (.inl rfl) (.inl rfl) (.inl rfl) (.inl rfl) (.inl rfl) (.inl rfl) (.inl rfl) (.inl rfl) (.inl rfl) (.inl rfl) (.inl rfl) (.inl rfl) (.inl rfl) (.inl rfl) (.inl rfl) (.inl rfl) (.inl rfl) (.inl rfl) (.inl rfl) (fun can => can.mem) (fun can => can.shadow))

theorem execSlotBoundary_changes {s t : State} (h : execSlotBoundary s = .next t) :
    t.pending = s.pending ∧ Changes [.regs, .time, .chans, .ts, .lq, .out, .freeCtr, .clk, .sv, .hs] [.one 33056, .one 98752, .one 1835219, .one 1835224, .one 1835275, .one 1835286, .row 0x5014 2 0x800 6, .row 0x5014 2 0x800 24, .row 0x2100c 32 0x40 3, .row 0x2100c 32 0x40 4, .row 0x2100c 32 0x40 5, .row 0x21024 32 0x40 0, .row 0x40034 24 0x2000 2, .row 0x40034 24 0x2000 16, .row 0x40034 24 0x2000 28, .row 0x40034 24 0x2000 29, .row 0x40104 24 0x2000 3, .row 0x40108 24 0x2000 3, .row 0x40108 24 0x2000 29, .row 0x40218 24 0x2000 2, .row 0x40218 24 0x2000 28, .row 0x4021c 24 0x2000 8, .row 0x40304 24 0x2000 1, .row 0x40304 24 0x2000 2, .row 0x40304 24 0x2000 12, .row 0x40304 24 0x2000 20, .row 0x40304 24 0x2000 22, .row 0x40304 24 0x2000 29, .row 0x40308 24 0x2000 0, .row 0x40308 24 0x2000 8, .row 0x40308 24 0x2000 16, .row 0x40308 24 0x2000 24] s.dev t.dev := by
  unfold execSlotBoundary at h
  refine act_changes (by decide) h fun e h => ?_
  repeat' first
    | (with_reducible assumption)
    | (with_reducible refine ite_after ?_ ?_)
    | (with_reducible apply slotBoundary_after)
    | (intro _; try dsimp only)
    | exact within_trans (by decide) (within_refl _)
    | exact covers_trans (by decide +kernel) (covers_refl _)
    | exact rows_one (covers_refl _) (by decide +kernel)
    | exact rows_row (covers_refl _) (by decide +kernel) (by decide)
    | split

theorem execSurveyGo_changes {s t : State} (p : Path) (w : Word) (h : execSurveyGo p w s = .next t) :
    t.pending = s.pending ∧ Changes [.regs, .ts, .out, .hawserStatus, .jtagStatus, .hs] [.errors, .one 1835219, .one 1835232, .one 1835242, .one 1835248, .one 1835261, .one 1835262, .one 1835263, .one 1835286, .one 1835287, .one 1835288, .row 0x5014 2 0x800 1, .row 0x5014 2 0x800 24, .row 0x40108 24 0x2000 29] s.dev t.dev := by
  unfold execSurveyGo at h
  refine act_changes (by decide) h fun e h => ?_
  repeat' first
    | (with_reducible assumption)
    | (with_reducible refine ite_after ?_ ?_)
    | (with_reducible apply surveyGo_after)
    | (with_reducible apply onPort_after)
    | (intro _; try dsimp only)
    | exact within_trans (by decide) (within_refl _)
    | exact covers_trans (by decide +kernel) (covers_refl _)
    | exact rows_one (covers_refl _) (by decide +kernel)
    | exact rows_row (covers_refl _) (by decide +kernel) (by decide)
    | split

theorem execSurveyAbort_changes {s t : State} (p : Path) (w : Word) (h : execSurveyAbort p w s = .next t) :
    t.pending = s.pending ∧ Changes [.regs, .chans, .ts, .lq, .out, .freeCtr, .hawserStatus, .jtagStatus, .sv, .hs] [.errors, .one 1835219, .one 1835232, .one 1835242, .one 1835248, .one 1835261, .one 1835262, .one 1835263, .one 1835288, .row 0x5014 2 0x800 1, .row 0x5014 2 0x800 6, .row 0x5014 2 0x800 24, .row 0x2100c 32 0x40 3, .row 0x2100c 32 0x40 4, .row 0x2100c 32 0x40 5, .row 0x21024 32 0x40 0, .row 0x40034 24 0x2000 2, .row 0x40034 24 0x2000 16, .row 0x40034 24 0x2000 28, .row 0x40034 24 0x2000 29, .row 0x40104 24 0x2000 3, .row 0x40108 24 0x2000 3, .row 0x40108 24 0x2000 29, .row 0x40218 24 0x2000 2, .row 0x40218 24 0x2000 28, .row 0x4021c 24 0x2000 8, .row 0x40304 24 0x2000 1, .row 0x40304 24 0x2000 2, .row 0x40304 24 0x2000 20, .row 0x40304 24 0x2000 22, .row 0x40304 24 0x2000 29, .row 0x40308 24 0x2000 0, .row 0x40308 24 0x2000 8, .row 0x40308 24 0x2000 16, .row 0x40308 24 0x2000 24] s.dev t.dev := by
  unfold execSurveyAbort at h
  refine act_changes (by decide) h fun e h => ?_
  repeat' first
    | (with_reducible assumption)
    | (with_reducible refine ite_after ?_ ?_)
    | (with_reducible apply surveyAbort_after)
    | (with_reducible apply onPort_after)
    | (intro _; try dsimp only)
    | exact within_trans (by decide) (within_refl _)
    | exact covers_trans (by decide +kernel) (covers_refl _)
    | exact rows_one (covers_refl _) (by decide +kernel)
    | exact rows_row (covers_refl _) (by decide +kernel) (by decide)
    | split

theorem execSurveyDrainDone_changes {s t : State} (h : execSurveyDrainDone s = .next t) :
    t.pending = s.pending ∧ Changes [.regs, .out] [.one 1835219] s.dev t.dev := by
  unfold execSurveyDrainDone at h
  refine act_changes (by decide) h fun e h => ?_
  repeat' first
    | (with_reducible assumption)
    | (with_reducible refine ite_after ?_ ?_)
    | (with_reducible apply surveyDrainDone_after)
    | (intro _; try dsimp only)
    | exact within_trans (by decide) (within_refl _)
    | exact covers_trans (by decide) (covers_refl _)
    | exact rows_one (covers_refl _) (by decide)
    | split

theorem execSurveyStartSlot_changes {s t : State} (peerCoils : Fin 65) (h : execSurveyStartSlot peerCoils s = .next t) :
    t.pending = s.pending ∧ Changes [.regs, .time, .ts, .out, .clk] [.one 98752, .one 1835219, .one 1835275, .row 0x40108 24 0x2000 29] s.dev t.dev := by
  unfold execSurveyStartSlot at h
  refine act_changes (by decide) h fun e h => ?_
  repeat' first
    | (with_reducible assumption)
    | (with_reducible refine ite_after ?_ ?_)
    | (with_reducible apply surveyStartSlot_after)
    | (intro _; try dsimp only)
    | exact within_trans (by decide) (within_refl _)
    | exact covers_trans (by decide +kernel) (covers_refl _)
    | exact rows_one (covers_refl _) (by decide +kernel)
    | exact rows_row (covers_refl _) (by decide +kernel) (by decide)
    | split

theorem execSurveyMeasurement_changes {s t : State} (n : Fin 24) (level : Byte) (phase : Byte) (floor : Byte) (h : execSurveyMeasurement n level phase floor s = .next t) :
    t.pending = s.pending ∧ Changes [.regs, .ts, .out] [.one 1835287] s.dev t.dev := by
  unfold execSurveyMeasurement at h
  refine act_changes (by decide) h fun e h => ?_
  repeat' first
    | (with_reducible assumption)
    | (with_reducible refine ite_after ?_ ?_)
    | (with_reducible apply surveyMeasurement_after)
    | (intro _; try dsimp only)
    | exact within_trans (by decide) (within_refl _)
    | exact covers_trans (by decide) (covers_refl _)
    | exact rows_one (covers_refl _) (by decide)
    | split

theorem execSurveyCommit_changes {s t : State} (h : execSurveyCommit s = .next t) :
    t.pending = s.pending ∧ Changes [.regs, .ts, .out] [.one 1835219, .one 1835222, .one 1835223, .one 1835262, .one 1835263, .one 1835288, .row 0x40108 24 0x2000 29] s.dev t.dev := by
  unfold execSurveyCommit at h
  refine act_changes (by decide) h fun e h => ?_
  repeat' first
    | (with_reducible assumption)
    | (with_reducible refine ite_after ?_ ?_)
    | (with_reducible apply surveyCommit_after)
    | (intro _; try dsimp only)
    | exact within_trans (by decide) (within_refl _)
    | exact covers_trans (by decide +kernel) (covers_refl _)
    | exact rows_one (covers_refl _) (by decide +kernel)
    | exact rows_row (covers_refl _) (by decide +kernel) (by decide)
    | split

theorem execSurveyProposal_changes {s t : State} (peer : BitVec 12) (startMs : Nat) (code : Fin 1024) (avg : Fin 16) (sources : List Nat) (h : execSurveyProposal peer startMs code avg sources s = .next t) :
    t.pending = s.pending ∧ Changes [.regs, .ts, .out] [.one 1835219] s.dev t.dev := by
  unfold execSurveyProposal at h
  refine act_changes (by decide) h fun e h => ?_
  repeat' first
    | (with_reducible assumption)
    | (with_reducible refine ite_after ?_ ?_)
    | (with_reducible apply surveyProposal_after)
    | (intro _; try dsimp only)
    | exact within_trans (by decide) (within_refl _)
    | exact covers_trans (by decide) (covers_refl _)
    | exact rows_one (covers_refl _) (by decide)
    | split

theorem execSurveyBlockResult_changes {s t : State} (level : Byte) (phase : Byte) (refused : Bool) (h : execSurveyBlockResult level phase refused s = .next t) :
    t.pending = s.pending ∧ Changes [.regs, .ts, .out] [.one 1835219, .one 1835286] s.dev t.dev := by
  unfold execSurveyBlockResult at h
  refine act_changes (by decide) h fun e h => ?_
  repeat' first
    | (with_reducible assumption)
    | (with_reducible refine ite_after ?_ ?_)
    | (with_reducible apply surveyBlockResult_after)
    | (intro _; try dsimp only)
    | exact within_trans (by decide) (within_refl _)
    | exact covers_trans (by decide) (covers_refl _)
    | exact rows_one (covers_refl _) (by decide)
    | split

theorem execSurveyResults_changes {s t : State} (values : List SurveyValue) (h : execSurveyResults values s = .next t) :
    t.pending = s.pending ∧ Changes [.regs, .ts, .out] [.one 1835219] s.dev t.dev := by
  unfold execSurveyResults at h
  refine act_changes (by decide) h fun e h => ?_
  repeat' first
    | (with_reducible assumption)
    | (with_reducible refine ite_after ?_ ?_)
    | (with_reducible apply surveyResults_after)
    | (intro _; try dsimp only)
    | exact within_trans (by decide) (within_refl _)
    | exact covers_trans (by decide) (covers_refl _)
    | exact rows_one (covers_refl _) (by decide)
    | split

theorem execSurveyPeerTimeout_changes {s t : State} (h : execSurveyPeerTimeout s = .next t) :
    t.pending = s.pending ∧ Changes [.regs, .chans, .ts, .lq, .out, .freeCtr, .sv, .hs] [.one 1835219, .one 1835262, .one 1835263, .one 1835288, .row 0x5014 2 0x800 6, .row 0x5014 2 0x800 24, .row 0x2100c 32 0x40 3, .row 0x2100c 32 0x40 4, .row 0x2100c 32 0x40 5, .row 0x21024 32 0x40 0, .row 0x40034 24 0x2000 2, .row 0x40034 24 0x2000 16, .row 0x40034 24 0x2000 28, .row 0x40034 24 0x2000 29, .row 0x40104 24 0x2000 3, .row 0x40108 24 0x2000 3, .row 0x40108 24 0x2000 29, .row 0x40218 24 0x2000 2, .row 0x40218 24 0x2000 28, .row 0x4021c 24 0x2000 8, .row 0x40304 24 0x2000 1, .row 0x40304 24 0x2000 2, .row 0x40304 24 0x2000 20, .row 0x40304 24 0x2000 22, .row 0x40304 24 0x2000 29, .row 0x40308 24 0x2000 0, .row 0x40308 24 0x2000 8, .row 0x40308 24 0x2000 16, .row 0x40308 24 0x2000 24] s.dev t.dev := by
  unfold execSurveyPeerTimeout at h
  refine act_changes (by decide) h fun e h => ?_
  repeat' first
    | (with_reducible assumption)
    | (with_reducible refine ite_after ?_ ?_)
    | (with_reducible apply surveyPeerTimeout_after)
    | (intro _; try dsimp only)
    | exact within_trans (by decide) (within_refl _)
    | exact covers_trans (by decide +kernel) (covers_refl _)
    | exact rows_one (covers_refl _) (by decide +kernel)
    | exact rows_row (covers_refl _) (by decide +kernel) (by decide)
    | split

theorem execNbCommit_changes {s t : State} (p : Path) (w : Word) (h : execNbCommit p w s = .next t) :
    t.pending = s.pending ∧ Changes [.regs, .ts, .out, .hawserStatus, .jtagStatus, .hs] [.errors, .one 1835223, .one 1835392, .row 0x5014 2 0x800 1, .row 0x5014 2 0x800 24] s.dev t.dev := by
  unfold execNbCommit at h
  refine act_changes (by decide) h fun e h => ?_
  repeat' first
    | (with_reducible assumption)
    | (with_reducible refine ite_after ?_ ?_)
    | (with_reducible apply nbSelWrite_after)
    | (with_reducible apply onPort_after)
    | (intro _; try dsimp only)
    | exact within_trans (by decide) (within_refl _)
    | exact covers_trans (by decide +kernel) (covers_refl _)
    | exact rows_one (covers_refl _) (by decide +kernel)
    | exact rows_row (covers_refl _) (by decide +kernel) (by decide)
    | split

theorem execNbClear_changes {s t : State} (p : Path) (w : Word) (h : execNbClear p w s = .next t) :
    t.pending = s.pending ∧ Changes [.regs, .ts, .out, .hawserStatus, .jtagStatus, .hs] [.errors, .one 1835223, .one 1835392, .row 0x5014 2 0x800 1, .row 0x5014 2 0x800 24] s.dev t.dev := by
  unfold execNbClear at h
  refine act_changes (by decide) h fun e h => ?_
  repeat' first
    | (with_reducible assumption)
    | (with_reducible refine ite_after ?_ ?_)
    | (with_reducible apply nbSelWrite_after)
    | (with_reducible apply onPort_after)
    | (intro _; try dsimp only)
    | exact within_trans (by decide) (within_refl _)
    | exact covers_trans (by decide +kernel) (covers_refl _)
    | exact rows_one (covers_refl _) (by decide +kernel)
    | exact rows_row (covers_refl _) (by decide +kernel) (by decide)
    | split

theorem execAttribution_changes {s t : State} (n : Fin 24) (h : execAttribution n s = .next t) :
    t.pending = s.pending ∧ Changes [.regs, .chans, .ts, .lq, .out, .freeCtr, .sv, .hs] [.row 0x5014 2 0x800 6, .row 0x5014 2 0x800 24, .row 0x2100c 32 0x40 3, .row 0x2100c 32 0x40 4, .row 0x2100c 32 0x40 5, .row 0x21024 32 0x40 0, .row 0x40108 24 0x2000 29, .row 0x40218 24 0x2000 28, .row 0x40304 24 0x2000 1, .row 0x40304 24 0x2000 2, .row 0x40304 24 0x2000 12, .row 0x40304 24 0x2000 20, .row 0x40304 24 0x2000 22, .row 0x40304 24 0x2000 29, .row 0x40308 24 0x2000 8, .row 0x40308 24 0x2000 16, .row 0x40308 24 0x2000 24] s.dev t.dev := by
  unfold execAttribution at h
  refine act_changes (by decide) h fun e h => ?_
  repeat' first
    | (with_reducible assumption)
    | (with_reducible refine ite_after ?_ ?_)
    | (with_reducible apply attribution_after)
    | (intro _; try dsimp only)
    | exact within_trans (by decide) (within_refl _)
    | exact covers_trans (by decide +kernel) (covers_refl _)
    | exact rows_row (covers_refl _) (by decide +kernel) (by decide)
    | split

end

end Sys2Proof.Machine
end

