-- ==== Sys2Proof/Laws/ChangesWake.lean ====
section
/-!
SUPPORT. What every operation of Machine/Wake can change.
-/

set_option Elab.async false
set_option linter.all false

namespace Sys2Proof.Machine

section
variable {S : List Part} {W : List Span} {d e : Dev}

theorem Dev.penUp_after (h : Changes S W d e) (hS : within [.regs, .power] S = true) (hW : covers [.one 33000] W = true) (k : Nat) :
    Changes S W d (Dev.penUp e k) := by
  unfold Dev.penUp
  try dsimp only
  repeat' first
    | (with_reducible assumption)
    | (with_reducible refine ite_after ?_ ?_)
    | (with_reducible apply setBit_after)
    | (intro _; try dsimp only)
    | exact within_trans (by decide) hS
    | exact covers_trans (by decide) hW
    | exact rows_one hW (by decide)
    | split
    | (with_reducible apply set_power_after)
    | ((with_reducible show Changes _ _ _ (Dev.mk _ _ _ _ _ _ _ _ _ _ _ _ _ _ _ _ _ _ _ _ _ _ _ _ _ _ _ _ _ _)); refine mk_after ?_ (.inl rfl) (.inl rfl) (.inr (within_mem hS (by decide))) (.inl rfl) (.inl rfl) (.inl rfl) (.inl rfl) (.inl rfl) (.inl rfl) (.inl rfl) (.inl rfl) (.inl rfl) (.inl rfl) (.inl rfl) (.inl rfl) (.inl rfl) (.inl rfl) (.inl rfl) (.inl rfl) (.inl rfl) (.inl rfl) (.inl rfl) (.inl rfl) (.inl rfl) (.inl rfl) (.inl rfl) (.inl rfl) (.inl rfl) (.inl rfl) (fun can => can.mem) (fun can => can.shadow))

theorem Dev.penDown_after (h : Changes S W d e) (hS : within [.regs, .power] S = true) (hW : covers [.one 32994, .one 32995, .one 32996, .one 32997, .one 33000] W = true) (k : Nat) :
    Changes S W d (Dev.penDown e k) := by
  unfold Dev.penDown
  try dsimp only
  repeat' first
    | (with_reducible assumption)
    | (with_reducible refine ite_after ?_ ?_)
    | (with_reducible apply lower_after)
    | (with_reducible apply clearBit_after)
    | (intro _; try dsimp only)
    | exact within_trans (by decide) hS
    | exact covers_trans (by decide +kernel) hW
    | exact rows_one hW (by decide +kernel)
    | split
    | (with_reducible apply set_power_after)
    | ((with_reducible show Changes _ _ _ (Dev.mk _ _ _ _ _ _ _ _ _ _ _ _ _ _ _ _ _ _ _ _ _ _ _ _ _ _ _ _ _ _)); refine mk_after ?_ (.inl rfl) (.inl rfl) (.inr (within_mem hS (by decide))) (.inl rfl) (.inl rfl) (.inl rfl) (.inl rfl) (.inl rfl) (.inl rfl) (.inl rfl) (.inl rfl) (.inl rfl) (.inl rfl) (.inl rfl) (.inl rfl) (.inl rfl) (.inl rfl) (.inl rfl) (.inl rfl) (.inl rfl) (.inl rfl) (.inl rfl) (.inl rfl) (.inl rfl) (.inl rfl) (.inl rfl) (.inl rfl) (.inl rfl) (.inl rfl) (fun can => can.mem) (fun can => can.shadow))

theorem Dev.modPower_after (h : Changes S W d e) (hS : within [.power] S = true) (hW : covers [] W = true) (f : PowerSt → PowerSt) :
    Changes S W d (Dev.modPower e f) := by
  unfold Dev.modPower
  try dsimp only
  repeat' first
    | (with_reducible assumption)
    | (with_reducible refine ite_after ?_ ?_)
    | (intro _; try dsimp only)
    | exact within_trans (by decide) hS
    | split
    | (with_reducible apply set_power_after)
    | ((with_reducible show Changes _ _ _ (Dev.mk _ _ _ _ _ _ _ _ _ _ _ _ _ _ _ _ _ _ _ _ _ _ _ _ _ _ _ _ _ _)); refine mk_after ?_ (.inl rfl) (.inl rfl) (.inr (within_mem hS (by decide))) (.inl rfl) (.inl rfl) (.inl rfl) (.inl rfl) (.inl rfl) (.inl rfl) (.inl rfl) (.inl rfl) (.inl rfl) (.inl rfl) (.inl rfl) (.inl rfl) (.inl rfl) (.inl rfl) (.inl rfl) (.inl rfl) (.inl rfl) (.inl rfl) (.inl rfl) (.inl rfl) (.inl rfl) (.inl rfl) (.inl rfl) (.inl rfl) (.inl rfl) (.inl rfl) (fun can => can.mem) (fun can => can.shadow))

theorem recordWake_after (h : Changes S W d e) (hS : within [.regs] S = true) (hW : covers [.one 33184, .one 33185, .one 33186, .one 33190, .one 33192, .one 33196] W = true) (m : Nat) :
    Changes S W d (recordWake m e) := by
  unfold recordWake
  try dsimp only
  repeat' first
    | (with_reducible assumption)
    | (with_reducible refine ite_after ?_ ?_)
    | (with_reducible apply wr_after)
    | (with_reducible apply raiseIf_after)
    | (intro _; try dsimp only)
    | exact within_trans (by decide) hS
    | exact covers_trans (by decide +kernel) hW
    | exact rows_one hW (by decide +kernel)
    | split

theorem wakeWatch_after (h : Changes S W d e) (hS : within [.regs, .power, .ts] S = true) (hW : covers [.one 32896, .one 33000, .one 33184, .one 33185, .one 33186, .one 33190, .one 33192, .one 33196, .one 34911] W = true) (m : Nat) :
    Changes S W d (wakeWatch m e) := by
  unfold wakeWatch
  try dsimp only
  repeat' first
    | (with_reducible assumption)
    | (with_reducible refine ite_after ?_ ?_)
    | (with_reducible apply raise_after)
    | (with_reducible apply Dev.penUp_after)
    | (with_reducible apply recordWake_after)
    | (with_reducible apply lower_after)
    | (with_reducible apply Dev.modPower_after)
    | (intro _; try dsimp only)
    | exact within_trans (by decide) hS
    | exact covers_trans (by decide +kernel) hW
    | exact rows_one hW (by decide +kernel)
    | split
    | (with_reducible apply set_ts_after)
    | ((with_reducible show Changes _ _ _ (Dev.mk _ _ _ _ _ _ _ _ _ _ _ _ _ _ _ _ _ _ _ _ _ _ _ _ _ _ _ _ _ _)); refine mk_after ?_ (.inl rfl) (.inl rfl) (.inl rfl) (.inl rfl) (.inl rfl) (.inr (within_mem hS (by decide))) (.inl rfl) (.inl rfl) (.inl rfl) (.inl rfl) (.inl rfl) (.inl rfl) (.inl rfl) (.inl rfl) (.inl rfl) (.inl rfl) (.inl rfl) (.inl rfl) (.inl rfl) (.inl rfl) (.inl rfl) (.inl rfl) (.inl rfl) (.inl rfl) (.inl rfl) (.inl rfl) (.inl rfl) (.inl rfl) (.inl rfl) (fun can => can.mem) (fun can => can.shadow))

theorem wakeDormant_after (h : Changes S W d e) (hS : within [.regs, .power] S = true) (hW : covers [.one 32896, .one 33000, .one 33184, .one 33185, .one 33186, .one 33190, .one 33192, .one 33196] W = true) (m : Nat) :
    Changes S W d (wakeDormant m e) := by
  unfold wakeDormant
  try dsimp only
  repeat' first
    | (with_reducible assumption)
    | (with_reducible refine ite_after ?_ ?_)
    | (with_reducible apply raise_after)
    | (with_reducible apply Dev.penUp_after)
    | (with_reducible apply recordWake_after)
    | (with_reducible apply Dev.modPower_after)
    | (intro _; try dsimp only)
    | exact within_trans (by decide) hS
    | exact covers_trans (by decide +kernel) hW
    | exact rows_one hW (by decide +kernel)
    | split

theorem fireWake_after (h : Changes S W d e) (hS : within [.regs, .power, .ts] S = true) (hW : covers [.one 32896, .one 33000, .one 33184, .one 33185, .one 33186, .one 33190, .one 33192, .one 33196, .one 34911] W = true) (w : WakeSource) :
    Changes S W d (fireWake w e) := by
  unfold fireWake
  try dsimp only
  repeat' first
    | (with_reducible assumption)
    | (with_reducible refine ite_after ?_ ?_)
    | (with_reducible apply wakeDormant_after)
    | (with_reducible apply wakeWatch_after)
    | (with_reducible apply Dev.modPower_after)
    | (intro _; try dsimp only)
    | exact within_trans (by decide) hS
    | exact covers_trans (by decide +kernel) hW
    | exact rows_one hW (by decide +kernel)
    | split

theorem takeDeferred_after (h : Changes S W d e) (hS : within [.regs, .power, .ts] S = true) (hW : covers [.one 32896, .one 33000, .one 33184, .one 33185, .one 33186, .one 33190, .one 33192, .one 33196, .one 34911] W = true) :
    Changes S W d (takeDeferred e) := by
  unfold takeDeferred
  try dsimp only
  repeat' first
    | (with_reducible assumption)
    | (with_reducible refine ite_after ?_ ?_)
    | (with_reducible apply wakeDormant_after)
    | (with_reducible apply wakeWatch_after)
    | (with_reducible apply Dev.modPower_after)
    | (intro _; try dsimp only)
    | exact within_trans (by decide) hS
    | exact covers_trans (by decide +kernel) hW
    | exact rows_one hW (by decide +kernel)
    | split

theorem enableAssertStep_after (h : Changes S W d e) (hS : within [.regs, .power] S = true) (hW : covers [.one 33000] W = true) :
    Changes S W d (enableAssertStep e) := by
  unfold enableAssertStep
  try dsimp only
  repeat' first
    | (with_reducible assumption)
    | (with_reducible refine ite_after ?_ ?_)
    | (with_reducible apply Dev.penUp_after)
    | (with_reducible apply Dev.modPower_after)
    | (intro _; try dsimp only)
    | exact within_trans (by decide) hS
    | exact covers_trans (by decide) hW
    | exact rows_one hW (by decide)
    | split

theorem sniffBurst_after (h : Changes S W d e) (hS : within [.regs, .time, .ts, .clk] S = true) (hW : covers [.one 34911, .one 98752] W = true) :
    Changes S W d (sniffBurst e) := by
  unfold sniffBurst
  try dsimp only
  repeat' first
    | (with_reducible assumption)
    | (with_reducible refine ite_after ?_ ?_)
    | (with_reducible apply raise_after)
    | (with_reducible apply Dev.reach_after)
    | (intro _; try dsimp only)
    | exact within_trans (by decide) hS
    | exact covers_trans (by decide) hW
    | exact rows_one hW (by decide)
    | split
    | (with_reducible apply set_ts_after)
    | ((with_reducible show Changes _ _ _ (Dev.mk _ _ _ _ _ _ _ _ _ _ _ _ _ _ _ _ _ _ _ _ _ _ _ _ _ _ _ _ _ _)); refine mk_after ?_ (.inl rfl) (.inl rfl) (.inl rfl) (.inl rfl) (.inl rfl) (.inr (within_mem hS (by decide))) (.inl rfl) (.inl rfl) (.inl rfl) (.inl rfl) (.inl rfl) (.inl rfl) (.inl rfl) (.inl rfl) (.inl rfl) (.inl rfl) (.inl rfl) (.inl rfl) (.inl rfl) (.inl rfl) (.inl rfl) (.inl rfl) (.inl rfl) (.inl rfl) (.inl rfl) (.inl rfl) (.inl rfl) (.inl rfl) (.inl rfl) (fun can => can.mem) (fun can => can.shadow))

theorem sniffField_after (h : Changes S W d e) (hS : within [.regs, .time, .chans, .ts, .clk] S = true) (hW : covers [.one 98752, .row 0x40030 24 0x2000 0, .row 0x40030 24 0x2000 7, .row 0x40030 24 0x2000 16] W = true) (b : Nat) (at_ : Nat) :
    Changes S W d (sniffField b at_ e) := by
  unfold sniffField
  try dsimp only
  repeat' first
    | (with_reducible assumption)
    | (with_reducible refine ite_after ?_ ?_)
    | (with_reducible apply each_after)
    | (with_reducible apply Dev.modField_after)
    | (with_reducible apply Dev.reach_after)
    | (with_reducible apply sendSelect_after)
    | (intro _; try dsimp only)
    | exact within_trans (by decide) hS
    | exact covers_trans (by decide +kernel) hW
    | exact rows_one hW (by decide +kernel)
    | exact rows_row hW (by decide +kernel) (by decide)
    | split
    | (with_reducible apply set_ts_after)
    | ((with_reducible show Changes _ _ _ (Dev.mk _ _ _ _ _ _ _ _ _ _ _ _ _ _ _ _ _ _ _ _ _ _ _ _ _ _ _ _ _ _)); refine mk_after ?_ (.inl rfl) (.inl rfl) (.inl rfl) (.inl rfl) (.inl rfl) (.inr (within_mem hS (by decide))) (.inl rfl) (.inl rfl) (.inl rfl) (.inl rfl) (.inl rfl) (.inl rfl) (.inl rfl) (.inl rfl) (.inl rfl) (.inl rfl) (.inl rfl) (.inl rfl) (.inl rfl) (.inl rfl) (.inl rfl) (.inl rfl) (.inl rfl) (.inl rfl) (.inl rfl) (.inl rfl) (.inl rfl) (.inl rfl) (.inl rfl) (fun can => can.mem) (fun can => can.shadow))

theorem trip_after (h : Changes S W d e) (hS : within [.regs, .power, .ts] S = true) (hW : covers [.one 32896, .one 33000, .one 33184, .one 33185, .one 33186, .one 33190, .one 33192, .one 33196, .one 34909, .one 34911, .one 34912, .one 34928, .one 34936, .row 0x1200 256 0x4 30] W = true) (e0 : Nat) (dev : Nat) :
    Changes S W d (trip e0 dev e) := by
  unfold trip
  try dsimp only
  repeat' first
    | (with_reducible assumption)
    | (with_reducible refine ite_after ?_ ?_)
    | (with_reducible apply wr_after)
    | (with_reducible apply raise_after)
    | (with_reducible apply fireWake_after)
    | (intro _; try dsimp only)
    | exact within_trans (by decide) hS
    | exact covers_trans (by decide +kernel) hW
    | exact rows_one hW (by decide +kernel)
    | exact rows_row hW (by decide +kernel) (by decide)
    | split

theorem putDetectorOf_after (h : Changes S W d e) (hS : within [.ts] S = true) (hW : covers [] W = true) (t0 : Detector) :
    Changes S W d (putDetectorOf t0 e) := by
  unfold putDetectorOf
  try dsimp only
  repeat' first
    | (with_reducible assumption)
    | (with_reducible refine ite_after ?_ ?_)
    | (intro _; try dsimp only)
    | exact within_trans (by decide) hS
    | split
    | (with_reducible apply set_ts_after)
    | ((with_reducible show Changes _ _ _ (Dev.mk _ _ _ _ _ _ _ _ _ _ _ _ _ _ _ _ _ _ _ _ _ _ _ _ _ _ _ _ _ _)); refine mk_after ?_ (.inl rfl) (.inl rfl) (.inl rfl) (.inl rfl) (.inl rfl) (.inr (within_mem hS (by decide))) (.inl rfl) (.inl rfl) (.inl rfl) (.inl rfl) (.inl rfl) (.inl rfl) (.inl rfl) (.inl rfl) (.inl rfl) (.inl rfl) (.inl rfl) (.inl rfl) (.inl rfl) (.inl rfl) (.inl rfl) (.inl rfl) (.inl rfl) (.inl rfl) (.inl rfl) (.inl rfl) (.inl rfl) (.inl rfl) (.inl rfl) (fun can => can.mem) (fun can => can.shadow))

theorem sniffed_after (h : Changes S W d e) (hS : within [.regs, .power, .ts, .freeCtr] S = true) (hW : covers [.one 32896, .one 33000, .one 33184, .one 33185, .one 33186, .one 33190, .one 33192, .one 33196, .one 34909, .one 34910, .one 34911, .one 34912, .one 34928, .one 34936, .row 0x1200 256 0x4 0, .row 0x1200 256 0x4 30] W = true) (e0 : Nat) (x : Nat) (at_ : Nat) :
    Changes S W d (sniffed e0 x at_ e) := by
  unfold sniffed
  try dsimp only
  repeat' first
    | (with_reducible assumption)
    | (with_reducible refine ite_after ?_ ?_)
    | (with_reducible apply wr_after)
    | (with_reducible apply flag_after)
    | (with_reducible apply putDetectorOf_after)
    | (with_reducible apply free_after)
    | (with_reducible apply trip_after)
    | (intro _; try dsimp only)
    | exact within_trans (by decide) hS
    | exact covers_trans (by decide +kernel) hW
    | exact rows_one hW (by decide +kernel)
    | exact rows_row hW (by decide +kernel) (by decide)
    | split
    | (with_reducible apply set_ts_after)
    | ((with_reducible show Changes _ _ _ (Dev.mk _ _ _ _ _ _ _ _ _ _ _ _ _ _ _ _ _ _ _ _ _ _ _ _ _ _ _ _ _ _)); refine mk_after ?_ (.inl rfl) (.inl rfl) (.inl rfl) (.inl rfl) (.inl rfl) (.inr (within_mem hS (by decide))) (.inl rfl) (.inl rfl) (.inl rfl) (.inl rfl) (.inl rfl) (.inl rfl) (.inl rfl) (.inl rfl) (.inl rfl) (.inl rfl) (.inl rfl) (.inl rfl) (.inl rfl) (.inl rfl) (.inl rfl) (.inl rfl) (.inl rfl) (.inl rfl) (.inl rfl) (.inl rfl) (.inl rfl) (.inl rfl) (.inl rfl) (fun can => can.mem) (fun can => can.shadow))

theorem takeSniff_after (h : Changes S W d e) (hS : within [.ts] S = true) (hW : covers [] W = true) (e0 : Nat) :
    Changes S W d (takeSniff e0 e) := by
  unfold takeSniff
  try dsimp only
  repeat' first
    | (with_reducible assumption)
    | (with_reducible refine ite_after ?_ ?_)
    | (intro _; try dsimp only)
    | exact within_trans (by decide) hS
    | split
    | (with_reducible apply set_ts_after)
    | ((with_reducible show Changes _ _ _ (Dev.mk _ _ _ _ _ _ _ _ _ _ _ _ _ _ _ _ _ _ _ _ _ _ _ _ _ _ _ _ _ _)); refine mk_after ?_ (.inl rfl) (.inl rfl) (.inl rfl) (.inl rfl) (.inl rfl) (.inr (within_mem hS (by decide))) (.inl rfl) (.inl rfl) (.inl rfl) (.inl rfl) (.inl rfl) (.inl rfl) (.inl rfl) (.inl rfl) (.inl rfl) (.inl rfl) (.inl rfl) (.inl rfl) (.inl rfl) (.inl rfl) (.inl rfl) (.inl rfl) (.inl rfl) (.inl rfl) (.inl rfl) (.inl rfl) (.inl rfl) (.inl rfl) (.inl rfl) (fun can => can.mem) (fun can => can.shadow))

theorem sniff_after (h : Changes S W d e) (hS : within [.regs, .time, .power, .chans, .ts, .freeCtr, .clk] S = true) (hW : covers [.one 32896, .one 33000, .one 33184, .one 33185, .one 33186, .one 33190, .one 33192, .one 33196, .one 34909, .one 34910, .one 34911, .one 34912, .one 34928, .one 34936, .one 98752, .row 0x1200 256 0x4 0, .row 0x1200 256 0x4 30, .row 0x40030 24 0x2000 0, .row 0x40030 24 0x2000 7, .row 0x40030 24 0x2000 16] W = true) (e0 : Nat) (x : Nat) :
    Changes S W d (sniff e0 x e) := by
  unfold sniff
  try dsimp only
  repeat' first
    | (with_reducible assumption)
    | (with_reducible refine ite_after ?_ ?_)
    | (with_reducible apply takeSniff_after)
    | (with_reducible apply flag_after)
    | (with_reducible apply sniffed_after)
    | (with_reducible apply sniffField_after)
    | (intro _; try dsimp only)
    | exact within_trans (by decide) hS
    | exact covers_trans (by decide +kernel) hW
    | exact rows_one hW (by decide +kernel)
    | exact rows_row hW (by decide +kernel) (by decide)
    | split

theorem startSniffs_after (h : Changes S W d e) (hS : within [.regs, .ts] S = true) (hW : covers [.one 34910, .row 0x1200 256 0x4 30] W = true) :
    Changes S W d (startSniffs e) := by
  unfold startSniffs
  try dsimp only
  repeat' first
    | (with_reducible assumption)
    | (with_reducible refine ite_after ?_ ?_)
    | (with_reducible apply each_after)
    | (with_reducible apply lower_after)
    | (with_reducible apply flag_after)
    | (intro _; try dsimp only)
    | exact within_trans (by decide) hS
    | exact covers_trans (by decide) hW
    | exact rows_one hW (by decide)
    | exact rows_row hW (by decide) (by decide)
    | split
    | (with_reducible apply set_ts_after)
    | ((with_reducible show Changes _ _ _ (Dev.mk _ _ _ _ _ _ _ _ _ _ _ _ _ _ _ _ _ _ _ _ _ _ _ _ _ _ _ _ _ _)); refine mk_after ?_ (.inl rfl) (.inl rfl) (.inl rfl) (.inl rfl) (.inl rfl) (.inr (within_mem hS (by decide))) (.inl rfl) (.inl rfl) (.inl rfl) (.inl rfl) (.inl rfl) (.inl rfl) (.inl rfl) (.inl rfl) (.inl rfl) (.inl rfl) (.inl rfl) (.inl rfl) (.inl rfl) (.inl rfl) (.inl rfl) (.inl rfl) (.inl rfl) (.inl rfl) (.inl rfl) (.inl rfl) (.inl rfl) (.inl rfl) (.inl rfl) (fun can => can.mem) (fun can => can.shadow))

theorem execWakeEvent_changes {s t : State} (source : WakeSource) (h : execWakeEvent source s = .next t) :
    t.pending = s.pending ∧ Changes [.regs, .power, .ts, .out] [.one 32896, .one 33000, .one 33184, .one 33185, .one 33186, .one 33190, .one 33192, .one 33196, .one 34911] s.dev t.dev := by
  unfold execWakeEvent at h
  refine act_changes (by decide) h fun e h => ?_
  repeat' first
    | (with_reducible assumption)
    | (with_reducible refine ite_after ?_ ?_)
    | (with_reducible apply fireWake_after)
    | (intro _; try dsimp only)
    | exact within_trans (by decide) (within_refl _)
    | exact covers_trans (by decide +kernel) (covers_refl _)
    | exact rows_one (covers_refl _) (by decide +kernel)
    | split

theorem execSniffBurst_changes {s t : State} (h : execSniffBurst s = .next t) :
    t.pending = s.pending ∧ Changes [.regs, .time, .ts, .out, .clk] [.one 34911, .one 98752] s.dev t.dev := by
  unfold execSniffBurst at h
  refine act_changes (by decide) h fun e h => ?_
  repeat' first
    | (with_reducible assumption)
    | (with_reducible refine ite_after ?_ ?_)
    | (with_reducible apply sniffBurst_after)
    | (intro _; try dsimp only)
    | exact within_trans (by decide) (within_refl _)
    | exact covers_trans (by decide) (covers_refl _)
    | exact rows_one (covers_refl _) (by decide)
    | split

theorem execSniff_changes {s t : State} (e0 : Byte) (x : Fin 4096) (h : execSniff e0 x s = .next t) :
    t.pending = s.pending ∧ Changes [.regs, .time, .power, .chans, .ts, .out, .freeCtr, .clk] [.one 32896, .one 33000, .one 33184, .one 33185, .one 33186, .one 33190, .one 33192, .one 33196, .one 34909, .one 34910, .one 34911, .one 34912, .one 34928, .one 34936, .one 98752, .row 0x1200 256 0x4 0, .row 0x1200 256 0x4 30, .row 0x40030 24 0x2000 0, .row 0x40030 24 0x2000 7, .row 0x40030 24 0x2000 16] s.dev t.dev := by
  unfold execSniff at h
  refine act_changes (by decide) h fun e h => ?_
  repeat' first
    | (with_reducible assumption)
    | (with_reducible refine ite_after ?_ ?_)
    | (with_reducible apply sniff_after)
    | (intro _; try dsimp only)
    | exact within_trans (by decide) (within_refl _)
    | exact covers_trans (by decide +kernel) (covers_refl _)
    | exact rows_one (covers_refl _) (by decide +kernel)
    | exact rows_row (covers_refl _) (by decide +kernel) (by decide)
    | split

theorem execEnableAssertStep_changes {s t : State} (h : execEnableAssertStep s = .next t) :
    t.pending = s.pending ∧ Changes [.regs, .power, .out] [.one 33000] s.dev t.dev := by
  unfold execEnableAssertStep at h
  refine act_changes (by decide) h fun e h => ?_
  repeat' first
    | (with_reducible assumption)
    | (with_reducible refine ite_after ?_ ?_)
    | (with_reducible apply enableAssertStep_after)
    | (intro _; try dsimp only)
    | exact within_trans (by decide) (within_refl _)
    | exact covers_trans (by decide) (covers_refl _)
    | exact rows_one (covers_refl _) (by decide)
    | split

end

end Sys2Proof.Machine
end

