-- ==== Sys2Proof/Laws/ChangesJournal.lean ====
section
/-!
SUPPORT. What every operation of Machine/Journal can change.
-/

set_option Elab.async false
set_option linter.all false

namespace Sys2Proof.Machine

section
variable {S : List Part} {W : List Span} {d e : Dev}

theorem applyEntries_wf {m : Memory} (h : Memory.wf m = true) (es : List (Nat × List Byte)) :
    Memory.wf (applyEntries m es) = true :=
  Memory.wf_foldl es h fun _ _ h => Memory.wf_write _ _ h

theorem Dev.mview_wf (h : d.Canonical) : Memory.wf d.mview = true :=
  Memory.wf_foldl _ h.mem fun _ _ h => applyEntries_wf h _

theorem mramWrite_after (h : Changes S W d e) (hS : within [.mem] S = true) (hW : covers [] W = true) (off : Nat) (bs : List Byte) :
    Changes S W d (mramWrite off bs e) := by
  unfold mramWrite
  try dsimp only
  repeat' first
    | (with_reducible assumption)
    | (with_reducible refine ite_after ?_ ?_)
    | (intro _; try dsimp only)
    | exact within_trans (by decide) hS
    | split
    | (with_reducible apply set_mem_after)
    | (with_reducible exact Dev.Canonical.mem ‹_›)
    | (with_reducible apply Memory.wf_write)
    | (with_reducible apply Memory.wf_set)
    | (with_reducible apply Memory.wf_forget)
    | (with_reducible apply Memory.wf_foldl)
    | (with_reducible apply applyEntries_wf)
    | (rename_i can; exact can.mem)
    | ((with_reducible show Changes _ _ _ (Dev.mk _ _ _ _ _ _ _ _ _ _ _ _ _ _ _ _ _ _ _ _ _ _ _ _ _ _ _ _ _ _)); refine mk_after ?_ (.inr (within_mem hS (by decide))) (.inl rfl) (.inl rfl) (.inl rfl) (.inl rfl) (.inl rfl) (.inl rfl) (.inl rfl) (.inl rfl) (.inl rfl) (.inl rfl) (.inl rfl) (.inl rfl) (.inl rfl) (.inl rfl) (.inl rfl) (.inl rfl) (.inl rfl) (.inl rfl) (.inl rfl) (.inl rfl) (.inl rfl) (.inl rfl) (.inl rfl) (.inl rfl) (.inl rfl) (.inl rfl) (.inl rfl) (.inl rfl) (fun can => by repeat' first | (with_reducible exact can.mem) | (with_reducible assumption) | (with_reducible apply Memory.wf_foldl) | intro _ | (with_reducible apply Memory.wf_write) | (with_reducible apply Memory.wf_set) | (with_reducible apply applyEntries_wf) | (with_reducible apply Memory.wf_forget) | (with_reducible apply Memory.wf_filter) | exact can.mem) (fun can => can.shadow))

theorem Dev.modSv_after (h : Changes S W d e) (hS : within [.sv] S = true) (hW : covers [] W = true) (f : SvSt → SvSt) :
    Changes S W d (Dev.modSv e f) := by
  unfold Dev.modSv
  try dsimp only
  repeat' first
    | (with_reducible assumption)
    | (with_reducible refine ite_after ?_ ?_)
    | (intro _; try dsimp only)
    | exact within_trans (by decide) hS
    | split
    | (with_reducible apply set_sv_after)
    | ((with_reducible show Changes _ _ _ (Dev.mk _ _ _ _ _ _ _ _ _ _ _ _ _ _ _ _ _ _ _ _ _ _ _ _ _ _ _ _ _ _)); refine mk_after ?_ (.inl rfl) (.inl rfl) (.inl rfl) (.inl rfl) (.inl rfl) (.inl rfl) (.inl rfl) (.inl rfl) (.inl rfl) (.inl rfl) (.inl rfl) (.inl rfl) (.inl rfl) (.inl rfl) (.inl rfl) (.inl rfl) (.inl rfl) (.inr (within_mem hS (by decide))) (.inl rfl) (.inl rfl) (.inl rfl) (.inl rfl) (.inl rfl) (.inl rfl) (.inl rfl) (.inl rfl) (.inl rfl) (.inl rfl) (.inl rfl) (fun can => can.mem) (fun can => can.shadow))

theorem writeRecord_after (h : Changes S W d e) (hS : within [.mem, .sv] S = true) (hW : covers [] W = true) (kind : Nat) (len : Nat) (es : List (Nat × List Byte)) (replies : List (SvcCmd × Nat × List Byte)) (post : Option TagWrite) :
    Changes S W d (writeRecord kind len es replies post e) := by
  unfold writeRecord
  try dsimp only
  repeat' first
    | (with_reducible assumption)
    | (with_reducible refine ite_after ?_ ?_)
    | (with_reducible apply Dev.modSv_after)
    | (with_reducible apply mramWrite_after)
    | (intro _; try dsimp only)
    | exact within_trans (by decide) hS
    | split

theorem commitRecord_after (h : Changes S W d e) (hS : within [.mem, .sv] S = true) (hW : covers [] W = true) (kind : Nat) (es : List (Nat × List Byte)) (replies : List (SvcCmd × Nat × List Byte)) (post : Option TagWrite) :
    Changes S W d (commitRecord kind es replies post e) := by
  unfold commitRecord
  try dsimp only
  repeat' first
    | (with_reducible assumption)
    | (with_reducible refine ite_after ?_ ?_)
    | (with_reducible apply writeRecord_after)
    | (intro _; try dsimp only)
    | exact within_trans (by decide) hS
    | split

theorem reply_after (h : Changes S W d e) (hS : within [.regs, .mem, .lq, .out, .sv, .hs] S = true) (hW : covers [.one 1704158, .row 0x5014 2 0x800 6, .row 0x5014 2 0x800 24, .row 0x2100c 32 0x40 3, .row 0x2100c 32 0x40 4, .row 0x2100c 32 0x40 5, .row 0x21024 32 0x40 0] W = true) (c : SvcCmd) (rc : Nat) (data : List Byte) :
    Changes S W d (reply c rc data e) := by
  unfold reply
  try dsimp only
  repeat' first
    | (with_reducible assumption)
    | (with_reducible refine ite_after ?_ ?_)
    | (with_reducible apply raise_after)
    | (with_reducible apply Dev.post_after)
    | (with_reducible apply Dev.modSv_after)
    | (intro _; try dsimp only)
    | exact within_trans (by decide) hS
    | exact covers_trans (by decide +kernel) hW
    | exact rows_one hW (by decide +kernel)
    | exact rows_row hW (by decide +kernel) (by decide)
    | split
    | (with_reducible apply set_mem_after)
    | (with_reducible exact Dev.Canonical.mem ‹_›)
    | (with_reducible apply Memory.wf_write)
    | (with_reducible apply Memory.wf_set)
    | (with_reducible apply Memory.wf_forget)
    | (with_reducible apply Memory.wf_foldl)
    | (with_reducible apply applyEntries_wf)
    | (rename_i can; exact can.mem)
    | ((with_reducible show Changes _ _ _ (Dev.mk _ _ _ _ _ _ _ _ _ _ _ _ _ _ _ _ _ _ _ _ _ _ _ _ _ _ _ _ _ _)); refine mk_after ?_ (.inr (within_mem hS (by decide))) (.inl rfl) (.inl rfl) (.inl rfl) (.inl rfl) (.inl rfl) (.inl rfl) (.inl rfl) (.inl rfl) (.inl rfl) (.inl rfl) (.inl rfl) (.inl rfl) (.inl rfl) (.inl rfl) (.inl rfl) (.inl rfl) (.inl rfl) (.inl rfl) (.inl rfl) (.inl rfl) (.inl rfl) (.inl rfl) (.inl rfl) (.inl rfl) (.inl rfl) (.inl rfl) (.inl rfl) (.inl rfl) (fun can => by repeat' first | (with_reducible exact can.mem) | (with_reducible assumption) | (with_reducible apply Memory.wf_foldl) | intro _ | (with_reducible apply Memory.wf_write) | (with_reducible apply Memory.wf_set) | (with_reducible apply applyEntries_wf) | (with_reducible apply Memory.wf_forget) | (with_reducible apply Memory.wf_filter) | exact can.mem) (fun can => can.shadow))

theorem replyApplied_after (h : Changes S W d e) (hS : within [.regs, .mem, .lq, .out, .sv, .hs] S = true) (hW : covers [.one 1704158, .row 0x5014 2 0x800 6, .row 0x5014 2 0x800 24, .row 0x2100c 32 0x40 3, .row 0x2100c 32 0x40 4, .row 0x2100c 32 0x40 5, .row 0x21024 32 0x40 0] W = true) (c : SvcCmd) (rc : Nat) (data : List Byte) :
    Changes S W d (replyApplied c rc data e) := by
  unfold replyApplied
  try dsimp only
  repeat' first
    | (with_reducible assumption)
    | (with_reducible refine ite_after ?_ ?_)
    | (with_reducible apply Dev.modSv_after)
    | (with_reducible apply reply_after)
    | (intro _; try dsimp only)
    | exact within_trans (by decide) hS
    | exact covers_trans (by decide +kernel) hW
    | exact rows_one hW (by decide +kernel)
    | exact rows_row hW (by decide +kernel) (by decide)
    | split

theorem Dev.owe_after (h : Changes S W d e) (hS : within [.sv] S = true) (hW : covers [] W = true) (w : Work) :
    Changes S W d (Dev.owe e w) := by
  unfold Dev.owe
  try dsimp only
  repeat' first
    | (with_reducible assumption)
    | (with_reducible refine ite_after ?_ ?_)
    | (with_reducible apply Dev.modSv_after)
    | (intro _; try dsimp only)
    | exact within_trans (by decide) hS
    | split

theorem audit_after (h : Changes S W d e) (hS : within [.sv] S = true) (hW : covers [] W = true) (x0 : AuditJob) :
    Changes S W d (audit x0 e) := by
  unfold audit
  try dsimp only
  repeat' first
    | (with_reducible assumption)
    | (with_reducible refine ite_after ?_ ?_)
    | (with_reducible apply Dev.owe_after)
    | (intro _; try dsimp only)
    | exact within_trans (by decide) hS
    | split

theorem auditEntries_after (h : Changes S W d e) (hS : within [.freeCtr] S = true) (hW : covers [] W = true) (x0 : AuditJob) :
    Changes S W d (auditEntries x0 e).2.2 := by
  unfold auditEntries
  try dsimp only
  repeat' first
    | (with_reducible assumption)
    | (with_reducible refine ite_after ?_ ?_)
    | (with_reducible apply free_after)
    | (intro _; try dsimp only)
    | exact within_trans (by decide) hS
    | split

theorem auditOf_after (h : Changes S W d e) (hS : within [.freeCtr] S = true) (hW : covers [] W = true) (x0 : Option AuditJob) :
    Changes S W d (auditOf x0 e).2.2 := by
  unfold auditOf
  try dsimp only
  repeat' first
    | (with_reducible assumption)
    | (with_reducible refine ite_after ?_ ?_)
    | (with_reducible apply auditEntries_after)
    | (intro _; try dsimp only)
    | exact within_trans (by decide) hS
    | split

end

end Sys2Proof.Machine
end

