-- ==== Sys2Proof/Laws/ChangesKeys.lean ====
section
/-!
SUPPORT. What every operation of Machine/Keys can change.
-/

set_option Elab.async false
set_option linter.all false

namespace Sys2Proof.Machine

section
variable {S : List Part} {W : List Span} {d e : Dev}

theorem Dev.modCy_after (h : Changes S W d e) (hS : within [.cy] S = true) (hW : covers [] W = true) (f : CySt → CySt) :
    Changes S W d (Dev.modCy e f) := by
  unfold Dev.modCy
  try dsimp only
  repeat' first
    | (with_reducible assumption)
    | (with_reducible refine ite_after ?_ ?_)
    | (intro _; try dsimp only)
    | exact within_trans (by decide) hS
    | split
    | (with_reducible apply set_cy_after)
    | ((with_reducible show Changes _ _ _ (Dev.mk _ _ _ _ _ _ _ _ _ _ _ _ _ _ _ _ _ _ _ _ _ _ _ _ _ _ _ _ _ _)); refine mk_after ?_ (.inl rfl) (.inl rfl) (.inl rfl) (.inl rfl) (.inl rfl) (.inl rfl) (.inl rfl) (.inl rfl) (.inl rfl) (.inl rfl) (.inr (within_mem hS (by decide))) (.inl rfl) (.inl rfl) (.inl rfl) (.inl rfl) (.inl rfl) (.inl rfl) (.inl rfl) (.inl rfl) (.inl rfl) (.inl rfl) (.inl rfl) (.inl rfl) (.inl rfl) (.inl rfl) (.inl rfl) (.inl rfl) (.inl rfl) (.inl rfl) (fun can => can.mem) (fun can => can.shadow))

theorem keyEnd_after (h : Changes S W d e) (hS : within [.regs, .cy] S = true) (hW : covers [.one 1573032, .one 1573055] W = true) (code : Nat) :
    Changes S W d (keyEnd code e) := by
  unfold keyEnd
  try dsimp only
  repeat' first
    | (with_reducible assumption)
    | (with_reducible refine ite_after ?_ ?_)
    | (with_reducible apply wr_after)
    | (with_reducible apply lower_after)
    | (with_reducible apply Dev.modCy_after)
    | (intro _; try dsimp only)
    | exact within_trans (by decide) hS
    | exact covers_trans (by decide) hW
    | exact rows_one hW (by decide)
    | split

theorem keyOut_after (h : Changes S W d e) (hS : within [.regs, .cy] S = true) (hW : covers [.one 1573032, .one 1573055] W = true) (bs : List Byte) :
    Changes S W d (keyOut bs e) := by
  unfold keyOut
  try dsimp only
  repeat' first
    | (with_reducible assumption)
    | (with_reducible refine ite_after ?_ ?_)
    | (with_reducible apply Dev.modCy_after)
    | (with_reducible apply keyEnd_after)
    | (intro _; try dsimp only)
    | exact within_trans (by decide) hS
    | exact covers_trans (by decide) hW
    | exact rows_one hW (by decide)
    | split

theorem fillSlot_after (h : Changes S W d e) (hS : within [.regs, .cy] S = true) (hW : covers [.one 1573032, .one 1573054, .one 1573055] W = true) (s0 : Nat) (k : KeySlot) :
    Changes S W d (fillSlot s0 k e) := by
  unfold fillSlot
  try dsimp only
  repeat' first
    | (with_reducible assumption)
    | (with_reducible refine ite_after ?_ ?_)
    | (with_reducible apply raiseIf_after)
    | (with_reducible apply Dev.modCy_after)
    | (with_reducible apply keyEnd_after)
    | (intro _; try dsimp only)
    | exact within_trans (by decide) hS
    | exact covers_trans (by decide) hW
    | exact rows_one hW (by decide)
    | split

theorem keyGenerate_after (h : Changes S W d e) (hS : within [.regs, .freeCtr, .cy] S = true) (hW : covers [.one 1573032, .one 1573054, .one 1573055] W = true) (x0 : KeyArgs) :
    Changes S W d (keyGenerate x0 e) := by
  unfold keyGenerate
  try dsimp only
  repeat' first
    | (with_reducible assumption)
    | (with_reducible refine ite_after ?_ ?_)
    | (with_reducible apply Dev.random_after)
    | (with_reducible apply fillSlot_after)
    | (with_reducible apply keyEnd_after)
    | (intro _; try dsimp only)
    | exact within_trans (by decide) hS
    | exact covers_trans (by decide) hW
    | exact rows_one hW (by decide)
    | split

theorem keyImportPlain_after (h : Changes S W d e) (hS : within [.regs, .cy] S = true) (hW : covers [.one 1573032, .one 1573054, .one 1573055] W = true) (x0 : KeyArgs) (inp : List Word) :
    Changes S W d (keyImportPlain x0 inp e) := by
  unfold keyImportPlain
  try dsimp only
  repeat' first
    | (with_reducible assumption)
    | (with_reducible refine ite_after ?_ ?_)
    | (with_reducible apply fillSlot_after)
    | (with_reducible apply keyEnd_after)
    | (intro _; try dsimp only)
    | exact within_trans (by decide) hS
    | exact covers_trans (by decide) hW
    | exact rows_one hW (by decide)
    | split

theorem keyImportWrapped_after (h : Changes S W d e) (hS : within [.regs, .cy] S = true) (hW : covers [.one 1573032, .one 1573054, .one 1573055] W = true) (x0 : KeyArgs) (inp : List Word) :
    Changes S W d (keyImportWrapped x0 inp e) := by
  unfold keyImportWrapped
  try dsimp only
  repeat' first
    | (with_reducible assumption)
    | (with_reducible refine ite_after ?_ ?_)
    | (with_reducible apply fillSlot_after)
    | (with_reducible apply keyEnd_after)
    | (intro _; try dsimp only)
    | exact within_trans (by decide) hS
    | exact covers_trans (by decide) hW
    | exact rows_one hW (by decide)
    | split

theorem keyExport_after (h : Changes S W d e) (hS : within [.regs, .cy] S = true) (hW : covers [.one 1573032, .one 1573055] W = true) (x0 : KeyArgs) :
    Changes S W d (keyExport x0 e) := by
  unfold keyExport
  try dsimp only
  repeat' first
    | (with_reducible assumption)
    | (with_reducible refine ite_after ?_ ?_)
    | (with_reducible apply keyOut_after)
    | (with_reducible apply keyEnd_after)
    | (intro _; try dsimp only)
    | exact within_trans (by decide) hS
    | exact covers_trans (by decide) hW
    | exact rows_one hW (by decide)
    | split

theorem keyErase_after (h : Changes S W d e) (hS : within [.regs, .chans, .cy] S = true) (hW : covers [.one 1573032, .one 1573054, .one 1573055] W = true) (x0 : KeyArgs) :
    Changes S W d (keyErase x0 e) := by
  unfold keyErase
  try dsimp only
  repeat' first
    | (with_reducible assumption)
    | (with_reducible refine ite_after ?_ ?_)
    | (with_reducible apply raise_after)
    | (with_reducible apply dropSlotSessions_after)
    | (with_reducible apply Dev.modCy_after)
    | (with_reducible apply keyEnd_after)
    | (intro _; try dsimp only)
    | exact within_trans (by decide) hS
    | exact covers_trans (by decide) hW
    | exact rows_one hW (by decide)
    | split

theorem keyInfo_after (h : Changes S W d e) (hS : within [.regs, .cy] S = true) (hW : covers [.one 1573032, .one 1573055] W = true) (x0 : KeyArgs) :
    Changes S W d (keyInfo x0 e) := by
  unfold keyInfo
  try dsimp only
  repeat' first
    | (with_reducible assumption)
    | (with_reducible refine ite_after ?_ ?_)
    | (with_reducible apply keyOut_after)
    | (with_reducible apply keyEnd_after)
    | (intro _; try dsimp only)
    | exact within_trans (by decide) hS
    | exact covers_trans (by decide) hW
    | exact rows_one hW (by decide)
    | split

theorem keySave_after (h : Changes S W d e) (hS : within [.regs, .cy] S = true) (hW : covers [.one 1573032, .one 1573055] W = true) (x0 : KeyArgs) :
    Changes S W d (keySave x0 e) := by
  unfold keySave
  try dsimp only
  repeat' first
    | (with_reducible assumption)
    | (with_reducible refine ite_after ?_ ?_)
    | (with_reducible apply keyOut_after)
    | (with_reducible apply keyEnd_after)
    | (intro _; try dsimp only)
    | exact within_trans (by decide) hS
    | exact covers_trans (by decide) hW
    | exact rows_one hW (by decide)
    | split

theorem keyLoad_after (h : Changes S W d e) (hS : within [.regs, .cy] S = true) (hW : covers [.one 1573032, .one 1573054, .one 1573055] W = true) (x0 : KeyArgs) (inp : List Word) :
    Changes S W d (keyLoad x0 inp e) := by
  unfold keyLoad
  try dsimp only
  repeat' first
    | (with_reducible assumption)
    | (with_reducible refine ite_after ?_ ?_)
    | (with_reducible apply fillSlot_after)
    | (with_reducible apply keyEnd_after)
    | (intro _; try dsimp only)
    | exact within_trans (by decide) hS
    | exact covers_trans (by decide) hW
    | exact rows_one hW (by decide)
    | split

theorem keyEcdhStart_after (h : Changes S W d e) (hS : within [.regs, .freeCtr, .cy] S = true) (hW : covers [.one 1573032, .one 1573055] W = true) :
    Changes S W d (keyEcdhStart e) := by
  unfold keyEcdhStart
  try dsimp only
  repeat' first
    | (with_reducible assumption)
    | (with_reducible refine ite_after ?_ ?_)
    | (with_reducible apply keyOut_after)
    | (with_reducible apply Dev.random_after)
    | (with_reducible apply Dev.modCy_after)
    | (with_reducible apply keyEnd_after)
    | (intro _; try dsimp only)
    | exact within_trans (by decide) hS
    | exact covers_trans (by decide) hW
    | exact rows_one hW (by decide)
    | split

theorem keyEcdhImport_after (h : Changes S W d e) (hS : within [.regs, .cy] S = true) (hW : covers [.one 1573032, .one 1573054, .one 1573055] W = true) (x0 : KeyArgs) (inp : List Word) :
    Changes S W d (keyEcdhImport x0 inp e) := by
  unfold keyEcdhImport
  try dsimp only
  repeat' first
    | (with_reducible assumption)
    | (with_reducible refine ite_after ?_ ?_)
    | (with_reducible apply fillSlot_after)
    | (with_reducible apply Dev.modCy_after)
    | (with_reducible apply keyEnd_after)
    | (intro _; try dsimp only)
    | exact within_trans (by decide) hS
    | exact covers_trans (by decide) hW
    | exact rows_one hW (by decide)
    | split

theorem startBurn_after (h : Changes S W d e) (hS : within [.regs, .cy] S = true) (hW : covers [.one 1573032, .one 1573055] W = true) (b : FuseBurn) :
    Changes S W d (startBurn b e) := by
  unfold startBurn
  try dsimp only
  repeat' first
    | (with_reducible assumption)
    | (with_reducible refine ite_after ?_ ?_)
    | (with_reducible apply raise_after)
    | (with_reducible apply Dev.modCy_after)
    | (with_reducible apply keyEnd_after)
    | (intro _; try dsimp only)
    | exact within_trans (by decide) hS
    | exact covers_trans (by decide) hW
    | exact rows_one hW (by decide)
    | split

theorem keyBurnHash_after (h : Changes S W d e) (hS : within [.regs, .cy] S = true) (hW : covers [.one 1573032, .one 1573055] W = true) (inp : List Word) :
    Changes S W d (keyBurnHash inp e) := by
  unfold keyBurnHash
  try dsimp only
  repeat' first
    | (with_reducible assumption)
    | (with_reducible refine ite_after ?_ ?_)
    | (with_reducible apply startBurn_after)
    | (with_reducible apply keyEnd_after)
    | (intro _; try dsimp only)
    | exact within_trans (by decide) hS
    | exact covers_trans (by decide) hW
    | exact rows_one hW (by decide)
    | split

theorem keyRevokeHash_after (h : Changes S W d e) (hS : within [.regs, .cy] S = true) (hW : covers [.one 1573032, .one 1573055] W = true) (inp : List Word) :
    Changes S W d (keyRevokeHash inp e) := by
  unfold keyRevokeHash
  try dsimp only
  repeat' first
    | (with_reducible assumption)
    | (with_reducible refine ite_after ?_ ?_)
    | (with_reducible apply startBurn_after)
    | (with_reducible apply keyEnd_after)
    | (intro _; try dsimp only)
    | exact within_trans (by decide) hS
    | exact covers_trans (by decide) hW
    | exact rows_one hW (by decide)
    | split

theorem keyBurnMkey_after (h : Changes S W d e) (hS : within [.regs, .cy] S = true) (hW : covers [.one 1573032, .one 1573055] W = true) (inp : List Word) :
    Changes S W d (keyBurnMkey inp e) := by
  unfold keyBurnMkey
  try dsimp only
  repeat' first
    | (with_reducible assumption)
    | (with_reducible refine ite_after ?_ ?_)
    | (with_reducible apply startBurn_after)
    | (with_reducible apply Dev.modCy_after)
    | (with_reducible apply keyEnd_after)
    | (intro _; try dsimp only)
    | exact within_trans (by decide) hS
    | exact covers_trans (by decide) hW
    | exact rows_one hW (by decide)
    | split

theorem keyCommand_after (h : Changes S W d e) (hS : within [.regs, .chans, .freeCtr, .cy] S = true) (hW : covers [.one 1573032, .one 1573054, .one 1573055] W = true) (op : Nat) (x1 : KeyArgs) :
    Changes S W d (keyCommand op x1 e) := by
  unfold keyCommand
  try dsimp only
  repeat' first
    | (with_reducible assumption)
    | (with_reducible refine ite_after ?_ ?_)
    | (with_reducible apply keyImportPlain_after)
    | (with_reducible apply when_after)
    | (with_reducible apply keyExport_after)
    | (with_reducible apply keySave_after)
    | (with_reducible apply keyInfo_after)
    | (with_reducible apply keyEcdhImport_after)
    | (with_reducible apply keyBurnHash_after)
    | (with_reducible apply keyGenerate_after)
    | (with_reducible apply Dev.modCy_after)
    | (with_reducible apply keyEnd_after)
    | (with_reducible apply keyErase_after)
    | (with_reducible apply keyImportWrapped_after)
    | (with_reducible apply keyRevokeHash_after)
    | (with_reducible apply keyBurnMkey_after)
    | (with_reducible apply keyLoad_after)
    | (with_reducible apply keyEcdhStart_after)
    | (intro _; try dsimp only)
    | exact within_trans (by decide) hS
    | exact covers_trans (by decide) hW
    | exact rows_one hW (by decide)
    | split

theorem kcmdWrite_after (h : Changes S W d e) (hS : within [.regs, .chans, .freeCtr, .cy] S = true) (hW : covers [.errors, .one 1573032, .one 1573054, .one 1573055] W = true) (p : Path) (op : Nat) (slot : Nat) (kek : Nat) (len : Nat) (attr : Nat) :
    Changes S W d (kcmdWrite p op slot kek len attr e) := by
  unfold kcmdWrite
  try dsimp only
  repeat' first
    | (with_reducible assumption)
    | (with_reducible refine ite_after ?_ ?_)
    | (with_reducible apply keyCommand_after)
    | (with_reducible apply errLocked_after)
    | (intro _; try dsimp only)
    | exact within_trans (by decide) hS
    | exact covers_trans (by decide +kernel) hW
    | exact rows_one hW (by decide +kernel)
    | split

theorem kdataWrite_after (h : Changes S W d e) (hS : within [.regs, .cy] S = true) (hW : covers [.errors] W = true) (p : Path) (w : Word) :
    Changes S W d (kdataWrite p w e) := by
  unfold kdataWrite
  try dsimp only
  repeat' first
    | (with_reducible assumption)
    | (with_reducible refine ite_after ?_ ?_)
    | (with_reducible apply Dev.modCy_after)
    | (with_reducible apply errRange_after)
    | (intro _; try dsimp only)
    | exact within_trans (by decide) hS
    | exact covers_trans (by decide) hW
    | split

theorem kdataRead_after (h : Changes S W d e) (hS : within [.regs, .out, .cy, .hs] S = true) (hW : covers [.row 0x5014 2 0x800 24] W = true) (p : Path) :
    Changes S W d (kdataRead p e) := by
  unfold kdataRead
  try dsimp only
  repeat' first
    | (with_reducible assumption)
    | (with_reducible refine ite_after ?_ ?_)
    | (with_reducible apply Dev.give_after)
    | (with_reducible apply Dev.modCy_after)
    | (intro _; try dsimp only)
    | exact within_trans (by decide) hS
    | exact covers_trans (by decide) hW
    | exact rows_row hW (by decide) (by decide)
    | split

theorem fuseBurnDone_after (h : Changes S W d e) (hS : within [.regs, .cy, .fuses] S = true) (hW : covers [.one 1573032, .one 1573055] W = true) (ok : Bool) :
    Changes S W d (fuseBurnDone ok e) := by
  unfold fuseBurnDone
  try dsimp only
  repeat' first
    | (with_reducible assumption)
    | (with_reducible refine ite_after ?_ ?_)
    | (with_reducible apply Dev.modCy_after)
    | (with_reducible apply keyEnd_after)
    | (intro _; try dsimp only)
    | exact within_trans (by decide) hS
    | exact covers_trans (by decide) hW
    | exact rows_one hW (by decide)
    | split
    | (with_reducible apply set_fuses_after)
    | ((with_reducible show Changes _ _ _ (Dev.mk _ _ _ _ _ _ _ _ _ _ _ _ _ _ _ _ _ _ _ _ _ _ _ _ _ _ _ _ _ _)); refine mk_after ?_ (.inl rfl) (.inl rfl) (.inl rfl) (.inl rfl) (.inl rfl) (.inl rfl) (.inl rfl) (.inl rfl) (.inl rfl) (.inl rfl) (.inl rfl) (.inr (within_mem hS (by decide))) (.inl rfl) (.inl rfl) (.inl rfl) (.inl rfl) (.inl rfl) (.inl rfl) (.inl rfl) (.inl rfl) (.inl rfl) (.inl rfl) (.inl rfl) (.inl rfl) (.inl rfl) (.inl rfl) (.inl rfl) (.inl rfl) (.inl rfl) (fun can => can.mem) (fun can => can.shadow))

theorem burnCut_after (h : Changes S W d e) (hS : within [.freeCtr, .fuses] S = true) (hW : covers [] W = true) :
    Changes S W d (burnCut e) := by
  unfold burnCut
  try dsimp only
  repeat' first
    | (with_reducible assumption)
    | (with_reducible refine ite_after ?_ ?_)
    | (with_reducible apply free_after)
    | (intro _; try dsimp only)
    | exact within_trans (by decide) hS
    | split
    | (with_reducible apply set_fuses_after)
    | ((with_reducible show Changes _ _ _ (Dev.mk _ _ _ _ _ _ _ _ _ _ _ _ _ _ _ _ _ _ _ _ _ _ _ _ _ _ _ _ _ _)); refine mk_after ?_ (.inl rfl) (.inl rfl) (.inl rfl) (.inl rfl) (.inl rfl) (.inl rfl) (.inl rfl) (.inl rfl) (.inl rfl) (.inl rfl) (.inl rfl) (.inr (within_mem hS (by decide))) (.inl rfl) (.inl rfl) (.inl rfl) (.inl rfl) (.inl rfl) (.inl rfl) (.inl rfl) (.inl rfl) (.inl rfl) (.inl rfl) (.inl rfl) (.inl rfl) (.inl rfl) (.inl rfl) (.inl rfl) (.inl rfl) (.inl rfl) (fun can => can.mem) (fun can => can.shadow))

theorem tamperResponse_after (h : Changes S W d e) (hS : within [.regs, .chans, .freeCtr, .cy, .fuses, .epoch, .sv] S = true) (hW : covers [.one 1573032, .one 1573055, .one 1573218, .one 1573219, .one 1573278] W = true) (k : Nat) :
    Changes S W d (tamperResponse k e) := by
  unfold tamperResponse
  try dsimp only
  repeat' first
    | (with_reducible assumption)
    | (with_reducible refine ite_after ?_ ?_)
    | (with_reducible apply raise_after)
    | (with_reducible apply each_after)
    | (with_reducible apply lower_after)
    | (with_reducible apply burnCut_after)
    | (with_reducible apply Dev.modCy_after)
    | (with_reducible apply keyEnd_after)
    | (with_reducible apply dropSession_after)
    | (with_reducible apply audit_after)
    | (intro _; try dsimp only)
    | exact within_trans (by decide) hS
    | exact covers_trans (by decide +kernel) hW
    | exact rows_one hW (by decide +kernel)
    | split
    | ((with_reducible show Rows _ (Fld.bit (tamperFlag _))); unfold tamperFlag; split)
    | (with_reducible apply set_epoch_after)
    | ((with_reducible show Changes _ _ _ (Dev.mk _ _ _ _ _ _ _ _ _ _ _ _ _ _ _ _ _ _ _ _ _ _ _ _ _ _ _ _ _ _)); refine mk_after ?_ (.inl rfl) (.inl rfl) (.inl rfl) (.inl rfl) (.inl rfl) (.inl rfl) (.inl rfl) (.inl rfl) (.inl rfl) (.inl rfl) (.inl rfl) (.inl rfl) (.inr (within_mem hS (by decide))) (.inl rfl) (.inl rfl) (.inl rfl) (.inl rfl) (.inl rfl) (.inl rfl) (.inl rfl) (.inl rfl) (.inl rfl) (.inl rfl) (.inl rfl) (.inl rfl) (.inl rfl) (.inl rfl) (.inl rfl) (.inl rfl) (fun can => can.mem) (fun can => can.shadow))

theorem tamperEvent_after (h : Changes S W d e) (hS : within [.regs, .power, .chans, .ts, .freeCtr, .cy, .fuses, .epoch, .sv] S = true) (hW : covers [.one 32896, .one 33000, .one 33184, .one 33185, .one 33186, .one 33190, .one 33192, .one 33196, .one 34911, .one 1573032, .one 1573055, .one 1573218, .one 1573219, .one 1573278] W = true) (k : Fin 2) :
    Changes S W d (tamperEvent k e) := by
  unfold tamperEvent
  try dsimp only
  repeat' first
    | (with_reducible assumption)
    | (with_reducible refine ite_after ?_ ?_)
    | (with_reducible apply tamperResponse_after)
    | (with_reducible apply fireWake_after)
    | (with_reducible apply Dev.modCy_after)
    | (intro _; try dsimp only)
    | exact within_trans (by decide) hS
    | exact covers_trans (by decide +kernel) hW
    | exact rows_one hW (by decide +kernel)
    | split

theorem tamperDue_after (h : Changes S W d e) (hS : within [.regs, .chans, .freeCtr, .cy, .fuses, .epoch, .sv] S = true) (hW : covers [.one 1573032, .one 1573055, .one 1573218, .one 1573219, .one 1573278] W = true) :
    Changes S W d (tamperDue e) := by
  unfold tamperDue
  try dsimp only
  repeat' first
    | (with_reducible assumption)
    | (with_reducible refine ite_after ?_ ?_)
    | (with_reducible apply tamperResponse_after)
    | (with_reducible apply Dev.modCy_after)
    | (intro _; try dsimp only)
    | exact within_trans (by decide) hS
    | exact covers_trans (by decide +kernel) hW
    | exact rows_one hW (by decide +kernel)
    | split

theorem tguardToggle_after (h : Changes S W d e) (hS : within [.cy] S = true) (hW : covers [] W = true) :
    Changes S W d (tguardToggle e) := by
  unfold tguardToggle
  try dsimp only
  repeat' first
    | (with_reducible assumption)
    | (with_reducible refine ite_after ?_ ?_)
    | (with_reducible apply Dev.modCy_after)
    | (intro _; try dsimp only)
    | exact within_trans (by decide) hS
    | split

theorem tamperSample_after (h : Changes S W d e) (hS : within [.regs, .power, .chans, .ts, .freeCtr, .cy, .fuses, .epoch, .sv] S = true) (hW : covers [.one 32896, .one 33000, .one 33184, .one 33185, .one 33186, .one 33190, .one 33192, .one 33196, .one 34911, .one 1573032, .one 1573055, .one 1573216, .one 1573217, .one 1573218, .one 1573219, .one 1573278] W = true) (k : Fin 2) (level : Bool) :
    Changes S W d (tamperSample k level e) := by
  unfold tamperSample
  try dsimp only
  repeat' first
    | (with_reducible assumption)
    | (with_reducible refine ite_after ?_ ?_)
    | (with_reducible apply tamperEvent_after)
    | (with_reducible apply flag_after)
    | (with_reducible apply Dev.modCy_after)
    | (intro _; try dsimp only)
    | exact within_trans (by decide) hS
    | exact covers_trans (by decide +kernel) hW
    | exact rows_one hW (by decide +kernel)
    | split

theorem trngStartup_after (h : Changes S W d e) (hS : within [.regs, .cy] S = true) (hW : covers [.one 1573248, .one 1573277, .one 1573278, .one 1573279, .one 1573280, .one 1573288] W = true) (pass : Bool) :
    Changes S W d (trngStartup pass e) := by
  unfold trngStartup
  try dsimp only
  repeat' first
    | (with_reducible assumption)
    | (with_reducible refine ite_after ?_ ?_)
    | (with_reducible apply wr_after)
    | (with_reducible apply raise_after)
    | (with_reducible apply countSat_after)
    | (with_reducible apply lower_after)
    | (with_reducible apply Dev.modCy_after)
    | (intro _; try dsimp only)
    | exact within_trans (by decide) hS
    | exact covers_trans (by decide +kernel) hW
    | exact rows_one hW (by decide +kernel)
    | split

theorem trngFailure_after (h : Changes S W d e) (hS : within [.regs] S = true) (hW : covers [.one 1573277, .one 1573278, .one 1573296, .one 1573304] W = true) (adaptive : Bool) :
    Changes S W d (trngFailure adaptive e) := by
  unfold trngFailure
  try dsimp only
  repeat' first
    | (with_reducible assumption)
    | (with_reducible refine ite_after ?_ ?_)
    | (with_reducible apply raise_after)
    | (with_reducible apply countSat_after)
    | (with_reducible apply lower_after)
    | (intro _; try dsimp only)
    | exact within_trans (by decide) hS
    | exact covers_trans (by decide +kernel) hW
    | exact rows_one hW (by decide +kernel)
    | split

theorem drbgReseed_after (h : Changes S W d e) (hS : within [.regs, .cy] S = true) (hW : covers [.one 1573280] W = true) :
    Changes S W d (drbgReseed e) := by
  unfold drbgReseed
  try dsimp only
  repeat' first
    | (with_reducible assumption)
    | (with_reducible refine ite_after ?_ ?_)
    | (with_reducible apply countSat_after)
    | (with_reducible apply Dev.modCy_after)
    | (intro _; try dsimp only)
    | exact within_trans (by decide) hS
    | exact covers_trans (by decide) hW
    | exact rows_one hW (by decide)
    | split

theorem execKdataWrite_changes {s t : State} (p : Path) (w : Word) (h : execKdataWrite p w s = .next t) :
    t.pending = s.pending ∧ Changes [.regs, .out, .cy, .hawserStatus, .jtagStatus, .hs] [.errors, .row 0x5014 2 0x800 1, .row 0x5014 2 0x800 24] s.dev t.dev := by
  unfold execKdataWrite at h
  refine act_changes (by decide) h fun e h => ?_
  repeat' first
    | (with_reducible assumption)
    | (with_reducible refine ite_after ?_ ?_)
    | (with_reducible apply kdataWrite_after)
    | (with_reducible apply onPort_after)
    | (intro _; try dsimp only)
    | exact within_trans (by decide) (within_refl _)
    | exact covers_trans (by decide) (covers_refl _)
    | exact rows_row (covers_refl _) (by decide) (by decide)
    | split

theorem execKdataRead_changes {s t : State} (p : Path) (h : execKdataRead p s = .next t) :
    t.pending = s.pending ∧ Changes [.regs, .out, .cy, .hawserStatus, .jtagStatus, .hs] [.row 0x5014 2 0x800 1, .row 0x5014 2 0x800 24] s.dev t.dev := by
  unfold execKdataRead at h
  refine act_changes (by decide) h fun e h => ?_
  repeat' first
    | (with_reducible assumption)
    | (with_reducible refine ite_after ?_ ?_)
    | (with_reducible apply kdataRead_after)
    | (with_reducible apply onPort_after)
    | (intro _; try dsimp only)
    | exact within_trans (by decide) (within_refl _)
    | exact covers_trans (by decide) (covers_refl _)
    | exact rows_row (covers_refl _) (by decide) (by decide)
    | split

theorem execGenerate_changes {s t : State} (p : Path) (slot : Fin 64) (len : Fin 4) (attr : Byte) (h : execGenerate p slot len attr s = .next t) :
    t.pending = s.pending ∧ Changes [.regs, .chans, .out, .freeCtr, .cy, .hawserStatus, .jtagStatus, .hs] [.errors, .one 1573032, .one 1573054, .one 1573055, .row 0x5014 2 0x800 1, .row 0x5014 2 0x800 24] s.dev t.dev := by
  unfold execGenerate at h
  refine act_changes (by decide) h fun e h => ?_
  repeat' first
    | (with_reducible assumption)
    | (with_reducible refine ite_after ?_ ?_)
    | (with_reducible apply kcmdWrite_after)
    | (with_reducible apply onPort_after)
    | (intro _; try dsimp only)
    | exact within_trans (by decide) (within_refl _)
    | exact covers_trans (by decide +kernel) (covers_refl _)
    | exact rows_one (covers_refl _) (by decide +kernel)
    | exact rows_row (covers_refl _) (by decide +kernel) (by decide)
    | split

theorem execImportPlain_changes {s t : State} (p : Path) (slot : Fin 64) (len : Fin 4) (attr : Byte) (h : execImportPlain p slot len attr s = .next t) :
    t.pending = s.pending ∧ Changes [.regs, .chans, .out, .freeCtr, .cy, .hawserStatus, .jtagStatus, .hs] [.errors, .one 1573032, .one 1573054, .one 1573055, .row 0x5014 2 0x800 1, .row 0x5014 2 0x800 24] s.dev t.dev := by
  unfold execImportPlain at h
  refine act_changes (by decide) h fun e h => ?_
  repeat' first
    | (with_reducible assumption)
    | (with_reducible refine ite_after ?_ ?_)
    | (with_reducible apply kcmdWrite_after)
    | (with_reducible apply onPort_after)
    | (intro _; try dsimp only)
    | exact within_trans (by decide) (within_refl _)
    | exact covers_trans (by decide +kernel) (covers_refl _)
    | exact rows_one (covers_refl _) (by decide +kernel)
    | exact rows_row (covers_refl _) (by decide +kernel) (by decide)
    | split

theorem execImportWrapped_changes {s t : State} (p : Path) (slot : Fin 64) (kek : Fin 64) (len : Fin 4) (attr : Byte) (h : execImportWrapped p slot kek len attr s = .next t) :
    t.pending = s.pending ∧ Changes [.regs, .chans, .out, .freeCtr, .cy, .hawserStatus, .jtagStatus, .hs] [.errors, .one 1573032, .one 1573054, .one 1573055, .row 0x5014 2 0x800 1, .row 0x5014 2 0x800 24] s.dev t.dev := by
  unfold execImportWrapped at h
  refine act_changes (by decide) h fun e h => ?_
  repeat' first
    | (with_reducible assumption)
    | (with_reducible refine ite_after ?_ ?_)
    | (with_reducible apply kcmdWrite_after)
    | (with_reducible apply onPort_after)
    | (intro _; try dsimp only)
    | exact within_trans (by decide) (within_refl _)
    | exact covers_trans (by decide +kernel) (covers_refl _)
    | exact rows_one (covers_refl _) (by decide +kernel)
    | exact rows_row (covers_refl _) (by decide +kernel) (by decide)
    | split

theorem execExportWrapped_changes {s t : State} (p : Path) (slot : Fin 64) (kek : Fin 64) (h : execExportWrapped p slot kek s = .next t) :
    t.pending = s.pending ∧ Changes [.regs, .chans, .out, .freeCtr, .cy, .hawserStatus, .jtagStatus, .hs] [.errors, .one 1573032, .one 1573054, .one 1573055, .row 0x5014 2 0x800 1, .row 0x5014 2 0x800 24] s.dev t.dev := by
  unfold execExportWrapped at h
  refine act_changes (by decide) h fun e h => ?_
  repeat' first
    | (with_reducible assumption)
    | (with_reducible refine ite_after ?_ ?_)
    | (with_reducible apply kcmdWrite_after)
    | (with_reducible apply onPort_after)
    | (intro _; try dsimp only)
    | exact within_trans (by decide) (within_refl _)
    | exact covers_trans (by decide +kernel) (covers_refl _)
    | exact rows_one (covers_refl _) (by decide +kernel)
    | exact rows_row (covers_refl _) (by decide +kernel) (by decide)
    | split

theorem execErase_changes {s t : State} (p : Path) (slot : Fin 64) (h : execErase p slot s = .next t) :
    t.pending = s.pending ∧ Changes [.regs, .chans, .out, .freeCtr, .cy, .hawserStatus, .jtagStatus, .hs] [.errors, .one 1573032, .one 1573054, .one 1573055, .row 0x5014 2 0x800 1, .row 0x5014 2 0x800 24] s.dev t.dev := by
  unfold execErase at h
  refine act_changes (by decide) h fun e h => ?_
  repeat' first
    | (with_reducible assumption)
    | (with_reducible refine ite_after ?_ ?_)
    | (with_reducible apply kcmdWrite_after)
    | (with_reducible apply onPort_after)
    | (intro _; try dsimp only)
    | exact within_trans (by decide) (within_refl _)
    | exact covers_trans (by decide +kernel) (covers_refl _)
    | exact rows_one (covers_refl _) (by decide +kernel)
    | exact rows_row (covers_refl _) (by decide +kernel) (by decide)
    | split

theorem execInfo_changes {s t : State} (p : Path) (slot : Fin 64) (h : execInfo p slot s = .next t) :
    t.pending = s.pending ∧ Changes [.regs, .chans, .out, .freeCtr, .cy, .hawserStatus, .jtagStatus, .hs] [.errors, .one 1573032, .one 1573054, .one 1573055, .row 0x5014 2 0x800 1, .row 0x5014 2 0x800 24] s.dev t.dev := by
  unfold execInfo at h
  refine act_changes (by decide) h fun e h => ?_
  repeat' first
    | (with_reducible assumption)
    | (with_reducible refine ite_after ?_ ?_)
    | (with_reducible apply kcmdWrite_after)
    | (with_reducible apply onPort_after)
    | (intro _; try dsimp only)
    | exact within_trans (by decide) (within_refl _)
    | exact covers_trans (by decide +kernel) (covers_refl _)
    | exact rows_one (covers_refl _) (by decide +kernel)
    | exact rows_row (covers_refl _) (by decide +kernel) (by decide)
    | split

theorem execSaveBlob_changes {s t : State} (p : Path) (slot : Fin 64) (h : execSaveBlob p slot s = .next t) :
    t.pending = s.pending ∧ Changes [.regs, .chans, .out, .freeCtr, .cy, .hawserStatus, .jtagStatus, .hs] [.errors, .one 1573032, .one 1573054, .one 1573055, .row 0x5014 2 0x800 1, .row 0x5014 2 0x800 24] s.dev t.dev := by
  unfold execSaveBlob at h
  refine act_changes (by decide) h fun e h => ?_
  repeat' first
    | (with_reducible assumption)
    | (with_reducible refine ite_after ?_ ?_)
    | (with_reducible apply kcmdWrite_after)
    | (with_reducible apply onPort_after)
    | (intro _; try dsimp only)
    | exact within_trans (by decide) (within_refl _)
    | exact covers_trans (by decide +kernel) (covers_refl _)
    | exact rows_one (covers_refl _) (by decide +kernel)
    | exact rows_row (covers_refl _) (by decide +kernel) (by decide)
    | split

theorem execLoadBlob_changes {s t : State} (p : Path) (slot : Fin 64) (len : Fin 4) (attr : Byte) (h : execLoadBlob p slot len attr s = .next t) :
    t.pending = s.pending ∧ Changes [.regs, .chans, .out, .freeCtr, .cy, .hawserStatus, .jtagStatus, .hs] [.errors, .one 1573032, .one 1573054, .one 1573055, .row 0x5014 2 0x800 1, .row 0x5014 2 0x800 24] s.dev t.dev := by
  unfold execLoadBlob at h
  refine act_changes (by decide) h fun e h => ?_
  repeat' first
    | (with_reducible assumption)
    | (with_reducible refine ite_after ?_ ?_)
    | (with_reducible apply kcmdWrite_after)
    | (with_reducible apply onPort_after)
    | (intro _; try dsimp only)
    | exact within_trans (by decide) (within_refl _)
    | exact covers_trans (by decide +kernel) (covers_refl _)
    | exact rows_one (covers_refl _) (by decide +kernel)
    | exact rows_row (covers_refl _) (by decide +kernel) (by decide)
    | split

theorem execEcdhStart_changes {s t : State} (p : Path) (h : execEcdhStart p s = .next t) :
    t.pending = s.pending ∧ Changes [.regs, .chans, .out, .freeCtr, .cy, .hawserStatus, .jtagStatus, .hs] [.errors, .one 1573032, .one 1573054, .one 1573055, .row 0x5014 2 0x800 1, .row 0x5014 2 0x800 24] s.dev t.dev := by
  unfold execEcdhStart at h
  refine act_changes (by decide) h fun e h => ?_
  repeat' first
    | (with_reducible assumption)
    | (with_reducible refine ite_after ?_ ?_)
    | (with_reducible apply kcmdWrite_after)
    | (with_reducible apply onPort_after)
    | (intro _; try dsimp only)
    | exact within_trans (by decide) (within_refl _)
    | exact covers_trans (by decide +kernel) (covers_refl _)
    | exact rows_one (covers_refl _) (by decide +kernel)
    | exact rows_row (covers_refl _) (by decide +kernel) (by decide)
    | split

theorem execEcdhImport_changes {s t : State} (p : Path) (slot : Fin 64) (len : Fin 4) (attr : Byte) (h : execEcdhImport p slot len attr s = .next t) :
    t.pending = s.pending ∧ Changes [.regs, .chans, .out, .freeCtr, .cy, .hawserStatus, .jtagStatus, .hs] [.errors, .one 1573032, .one 1573054, .one 1573055, .row 0x5014 2 0x800 1, .row 0x5014 2 0x800 24] s.dev t.dev := by
  unfold execEcdhImport at h
  refine act_changes (by decide) h fun e h => ?_
  repeat' first
    | (with_reducible assumption)
    | (with_reducible refine ite_after ?_ ?_)
    | (with_reducible apply kcmdWrite_after)
    | (with_reducible apply onPort_after)
    | (intro _; try dsimp only)
    | exact within_trans (by decide) (within_refl _)
    | exact covers_trans (by decide +kernel) (covers_refl _)
    | exact rows_one (covers_refl _) (by decide +kernel)
    | exact rows_row (covers_refl _) (by decide +kernel) (by decide)
    | split

theorem execBurnHash_changes {s t : State} (p : Path) (h : execBurnHash p s = .next t) :
    t.pending = s.pending ∧ Changes [.regs, .chans, .out, .freeCtr, .cy, .hawserStatus, .jtagStatus, .hs] [.errors, .one 1573032, .one 1573054, .one 1573055, .row 0x5014 2 0x800 1, .row 0x5014 2 0x800 24] s.dev t.dev := by
  unfold execBurnHash at h
  refine act_changes (by decide) h fun e h => ?_
  repeat' first
    | (with_reducible assumption)
    | (with_reducible refine ite_after ?_ ?_)
    | (with_reducible apply kcmdWrite_after)
    | (with_reducible apply onPort_after)
    | (intro _; try dsimp only)
    | exact within_trans (by decide) (within_refl _)
    | exact covers_trans (by decide +kernel) (covers_refl _)
    | exact rows_one (covers_refl _) (by decide +kernel)
    | exact rows_row (covers_refl _) (by decide +kernel) (by decide)
    | split

theorem execRevokeHash_changes {s t : State} (p : Path) (h : execRevokeHash p s = .next t) :
    t.pending = s.pending ∧ Changes [.regs, .chans, .out, .freeCtr, .cy, .hawserStatus, .jtagStatus, .hs] [.errors, .one 1573032, .one 1573054, .one 1573055, .row 0x5014 2 0x800 1, .row 0x5014 2 0x800 24] s.dev t.dev := by
  unfold execRevokeHash at h
  refine act_changes (by decide) h fun e h => ?_
  repeat' first
    | (with_reducible assumption)
    | (with_reducible refine ite_after ?_ ?_)
    | (with_reducible apply kcmdWrite_after)
    | (with_reducible apply onPort_after)
    | (intro _; try dsimp only)
    | exact within_trans (by decide) (within_refl _)
    | exact covers_trans (by decide +kernel) (covers_refl _)
    | exact rows_one (covers_refl _) (by decide +kernel)
    | exact rows_row (covers_refl _) (by decide +kernel) (by decide)
    | split

theorem execBurnMkey_changes {s t : State} (p : Path) (h : execBurnMkey p s = .next t) :
    t.pending = s.pending ∧ Changes [.regs, .chans, .out, .freeCtr, .cy, .hawserStatus, .jtagStatus, .hs] [.errors, .one 1573032, .one 1573054, .one 1573055, .row 0x5014 2 0x800 1, .row 0x5014 2 0x800 24] s.dev t.dev := by
  unfold execBurnMkey at h
  refine act_changes (by decide) h fun e h => ?_
  repeat' first
    | (with_reducible assumption)
    | (with_reducible refine ite_after ?_ ?_)
    | (with_reducible apply kcmdWrite_after)
    | (with_reducible apply onPort_after)
    | (intro _; try dsimp only)
    | exact within_trans (by decide) (within_refl _)
    | exact covers_trans (by decide +kernel) (covers_refl _)
    | exact rows_one (covers_refl _) (by decide +kernel)
    | exact rows_row (covers_refl _) (by decide +kernel) (by decide)
    | split

theorem execTguardToggle_changes {s t : State} (h : execTguardToggle s = .next t) :
    t.pending = s.pending ∧ Changes [.out, .cy] [] s.dev t.dev := by
  unfold execTguardToggle at h
  refine act_changes (by decide) h fun e h => ?_
  repeat' first
    | (with_reducible assumption)
    | (with_reducible refine ite_after ?_ ?_)
    | (with_reducible apply tguardToggle_after)
    | (intro _; try dsimp only)
    | exact within_trans (by decide) (within_refl _)
    | split

theorem execTrngStartupDone_changes {s t : State} (pass : Bool) (h : execTrngStartupDone pass s = .next t) :
    t.pending = s.pending ∧ Changes [.regs, .out, .cy] [.one 1573248, .one 1573277, .one 1573278, .one 1573279, .one 1573280, .one 1573288] s.dev t.dev := by
  unfold execTrngStartupDone at h
  refine act_changes (by decide) h fun e h => ?_
  repeat' first
    | (with_reducible assumption)
    | (with_reducible refine ite_after ?_ ?_)
    | (with_reducible apply trngStartup_after)
    | (intro _; try dsimp only)
    | exact within_trans (by decide) (within_refl _)
    | exact covers_trans (by decide +kernel) (covers_refl _)
    | exact rows_one (covers_refl _) (by decide +kernel)
    | split

theorem execTrngHealthFailure_changes {s t : State} (adaptive : Bool) (h : execTrngHealthFailure adaptive s = .next t) :
    t.pending = s.pending ∧ Changes [.regs, .out] [.one 1573277, .one 1573278, .one 1573296, .one 1573304] s.dev t.dev := by
  unfold execTrngHealthFailure at h
  refine act_changes (by decide) h fun e h => ?_
  repeat' first
    | (with_reducible assumption)
    | (with_reducible refine ite_after ?_ ?_)
    | (with_reducible apply trngFailure_after)
    | (intro _; try dsimp only)
    | exact within_trans (by decide) (within_refl _)
    | exact covers_trans (by decide +kernel) (covers_refl _)
    | exact rows_one (covers_refl _) (by decide +kernel)
    | split

theorem execDrbgReseed_changes {s t : State} (h : execDrbgReseed s = .next t) :
    t.pending = s.pending ∧ Changes [.regs, .out, .cy] [.one 1573280] s.dev t.dev := by
  unfold execDrbgReseed at h
  refine act_changes (by decide) h fun e h => ?_
  repeat' first
    | (with_reducible assumption)
    | (with_reducible refine ite_after ?_ ?_)
    | (with_reducible apply drbgReseed_after)
    | (intro _; try dsimp only)
    | exact within_trans (by decide) (within_refl _)
    | exact covers_trans (by decide) (covers_refl _)
    | exact rows_one (covers_refl _) (by decide)
    | split

end

end Sys2Proof.Machine
end

