-- ==== Sys2Proof/Laws/ChangesEmu.lean ====
section
/-!
SUPPORT. What every operation of Machine/Emu can change.
-/

set_option Elab.async false
set_option linter.all false

namespace Sys2Proof.Machine

section
variable {S : List Part} {W : List Span} {d e : Dev}

theorem ceTo_after (h : Changes S W d e) (hS : within [.regs] S = true) (hW : covers [.row 0x70108 8 0x80 29] W = true) (k : Nat) (s0 : Nat) :
    Changes S W d (ceTo k s0 e) := by
  unfold ceTo
  try dsimp only
  repeat' first
    | (with_reducible assumption)
    | (with_reducible refine ite_after ?_ ?_)
    | (with_reducible apply wr_after)
    | (intro _; try dsimp only)
    | exact within_trans (by decide) hS
    | exact covers_trans (by decide) hW
    | exact rows_row hW (by decide) (by decide)
    | split

theorem ceDiscard_after (h : Changes S W d e) (hS : within [.regs, .chans, .lq, .out, .ce, .sv, .hs] S = true) (hW : covers [.row 0x5014 2 0x800 6, .row 0x5014 2 0x800 24, .row 0x2100c 32 0x40 3, .row 0x2100c 32 0x40 4, .row 0x2100c 32 0x40 5, .row 0x21024 32 0x40 0, .row 0x70108 8 0x80 0] W = true) (k : Nat) :
    Changes S W d (ceDiscard k e) := by
  unfold ceDiscard
  try dsimp only
  repeat' first
    | (with_reducible assumption)
    | (with_reducible refine ite_after ?_ ?_)
    | (with_reducible apply raise_after)
    | (with_reducible apply Dev.modCe_after)
    | (with_reducible apply ceEvent_after)
    | (intro _; try dsimp only)
    | exact within_trans (by decide) hS
    | exact covers_trans (by decide +kernel) hW
    | exact rows_row hW (by decide +kernel) (by decide)
    | split

theorem ceEndSession_after (h : Changes S W d e) (hS : within [.regs, .ce] S = true) (hW : covers [.row 0x70108 8 0x80 25] W = true) (k : Nat) :
    Changes S W d (ceEndSession k e) := by
  unfold ceEndSession
  try dsimp only
  repeat' first
    | (with_reducible assumption)
    | (with_reducible refine ite_after ?_ ?_)
    | (with_reducible apply Dev.modCe_after)
    | (with_reducible apply lower_after)
    | (intro _; try dsimp only)
    | exact within_trans (by decide) hS
    | exact covers_trans (by decide) hW
    | exact rows_row hW (by decide) (by decide)
    | split

theorem ceCommit_after (h : Changes S W d e) (hS : within [.regs, .shadow] S = true) (hW : covers [.grid 0x70120 8 0x80 8 0x4 0, .row 0x70140 8 0x80 0] W = true) (k : Nat) (ws : List (Nat × Byte)) :
    Changes S W d (ceCommit k ws e) := by
  unfold ceCommit
  try dsimp only
  repeat' first
    | (with_reducible assumption)
    | (with_reducible refine ite_after ?_ ?_)
    | (with_reducible apply setBit_after)
    | (with_reducible apply each_after)
    | (with_reducible apply count_after)
    | (with_reducible apply foldl_after)
    | (intro _; try dsimp only)
    | exact within_trans (by decide) hS
    | exact covers_trans (by decide) hW
    | exact rows_row hW (by decide) (by decide)
    | exact rows_grid hW (by decide) (by decide) (by decide)
    | split
    | (with_reducible apply set_shadow_after)
    | (with_reducible exact Dev.Canonical.shadow ‹_›)
    | (with_reducible apply Memory.wf_write)
    | (with_reducible apply Memory.wf_set)
    | (with_reducible apply Memory.wf_forget)
    | (with_reducible apply Memory.wf_foldl)
    | (with_reducible apply applyEntries_wf)
    | (rename_i can; exact can.shadow)
    | ((with_reducible show Changes _ _ _ (Dev.mk _ _ _ _ _ _ _ _ _ _ _ _ _ _ _ _ _ _ _ _ _ _ _ _ _ _ _ _ _ _)); refine mk_after ?_ (.inl rfl) (.inl rfl) (.inl rfl) (.inl rfl) (.inl rfl) (.inl rfl) (.inl rfl) (.inl rfl) (.inl rfl) (.inl rfl) (.inl rfl) (.inl rfl) (.inl rfl) (.inl rfl) (.inl rfl) (.inr (within_mem hS (by decide))) (.inl rfl) (.inl rfl) (.inl rfl) (.inl rfl) (.inl rfl) (.inl rfl) (.inl rfl) (.inl rfl) (.inl rfl) (.inl rfl) (.inl rfl) (.inl rfl) (.inl rfl) (fun can => can.mem) (fun can => can.shadow))

theorem ceAcc_after (h : Changes S W d e) (hS : within [.regs] S = true) (hW : covers [.one 3670176, .one 3670188, .one 3670196, .one 3670200] W = true) (code : Nat) (k : Nat) (block : Nat) :
    Changes S W d (ceAcc code k block e) := by
  unfold ceAcc
  try dsimp only
  repeat' first
    | (with_reducible assumption)
    | (with_reducible refine ite_after ?_ ?_)
    | (with_reducible apply wr_after)
    | (with_reducible apply raiseIf_after)
    | (intro _; try dsimp only)
    | exact within_trans (by decide) hS
    | exact covers_trans (by decide +kernel) hW
    | exact rows_one hW (by decide +kernel)
    | split

theorem hostRun_after (h : Changes S W d e) (hS : within [.regs, .out, .shadow, .hs] S = true) (hW : covers [.grid 0x70120 8 0x80 8 0x4 0, .one 3670176, .one 3670188, .one 3670196, .one 3670200, .row 0x5014 2 0x800 24, .row 0x70140 8 0x80 0] W = true) (k : Nat) (b : HostBurst) :
    Changes S W d (hostRun k b e) := by
  unfold hostRun
  try dsimp only
  repeat' first
    | (with_reducible assumption)
    | (with_reducible refine ite_after ?_ ?_)
    | (with_reducible apply ceAcc_after)
    | (with_reducible apply Dev.give_after)
    | (with_reducible apply ceCommit_after)
    | (intro _; try dsimp only)
    | exact within_trans (by decide) hS
    | exact covers_trans (by decide +kernel) hW
    | exact rows_one hW (by decide +kernel)
    | exact rows_row hW (by decide +kernel) (by decide)
    | exact rows_grid hW (by decide +kernel) (by decide) (by decide)
    | split

theorem hostProceed_after (h : Changes S W d e) (hS : within [.regs, .out, .ce, .shadow, .hs] S = true) (hW : covers [.grid 0x70120 8 0x80 8 0x4 0, .one 3670176, .one 3670188, .one 3670196, .one 3670200, .row 0x5014 2 0x800 24, .row 0x70140 8 0x80 0] W = true) (k : Nat) :
    Changes S W d (hostProceed k e) := by
  unfold hostProceed
  try dsimp only
  repeat' first
    | (with_reducible assumption)
    | (with_reducible refine ite_after ?_ ?_)
    | (with_reducible apply each_after)
    | (with_reducible apply Dev.modCe_after)
    | (with_reducible apply hostRun_after)
    | (intro _; try dsimp only)
    | exact within_trans (by decide) hS
    | exact covers_trans (by decide +kernel) hW
    | exact rows_one hW (by decide +kernel)
    | exact rows_row hW (by decide +kernel) (by decide)
    | exact rows_grid hW (by decide +kernel) (by decide) (by decide)
    | split

theorem ceOff_after (h : Changes S W d e) (hS : within [.regs, .chans, .lq, .out, .ce, .shadow, .sv, .hs] S = true) (hW : covers [.grid 0x70120 8 0x80 8 0x4 0, .one 3670176, .one 3670188, .one 3670196, .one 3670200, .row 0x5014 2 0x800 6, .row 0x5014 2 0x800 24, .row 0x2100c 32 0x40 3, .row 0x2100c 32 0x40 4, .row 0x2100c 32 0x40 5, .row 0x21024 32 0x40 0, .row 0x70108 8 0x80 0, .row 0x70108 8 0x80 16, .row 0x70108 8 0x80 25, .row 0x70108 8 0x80 29, .row 0x70140 8 0x80 0] W = true) (k : Nat) :
    Changes S W d (ceOff k e) := by
  unfold ceOff
  try dsimp only
  repeat' first
    | (with_reducible assumption)
    | (with_reducible refine ite_after ?_ ?_)
    | (with_reducible apply ceEndSession_after)
    | (with_reducible apply wr_after)
    | (with_reducible apply Dev.modCe_after)
    | (with_reducible apply ceDiscard_after)
    | (with_reducible apply hostProceed_after)
    | (intro _; try dsimp only)
    | exact within_trans (by decide) hS
    | exact covers_trans (by decide +kernel) hW
    | exact rows_one hW (by decide +kernel)
    | exact rows_row hW (by decide +kernel) (by decide)
    | exact rows_grid hW (by decide +kernel) (by decide) (by decide)
    | split

theorem ceUngrant_after (h : Changes S W d e) (hS : within [.regs, .chans, .ts, .lq, .out, .ce, .shadow, .sv, .hs] S = true) (hW : covers [.grid 0x70120 8 0x80 8 0x4 0, .one 3670176, .one 3670188, .one 3670196, .one 3670200, .row 0x5014 2 0x800 6, .row 0x5014 2 0x800 24, .row 0x2100c 32 0x40 3, .row 0x2100c 32 0x40 4, .row 0x2100c 32 0x40 5, .row 0x21024 32 0x40 0, .row 0x70108 8 0x80 0, .row 0x70108 8 0x80 16, .row 0x70108 8 0x80 25, .row 0x70108 8 0x80 26, .row 0x70108 8 0x80 29, .row 0x70140 8 0x80 0] W = true) (k : Nat) :
    Changes S W d (ceUngrant k e) := by
  unfold ceUngrant
  try dsimp only
  repeat' first
    | (with_reducible assumption)
    | (with_reducible refine ite_after ?_ ?_)
    | (with_reducible apply ceOff_after)
    | (with_reducible apply Dev.modCe_after)
    | (with_reducible apply lower_after)
    | (intro _; try dsimp only)
    | exact within_trans (by decide) hS
    | exact covers_trans (by decide +kernel) hW
    | exact rows_one hW (by decide +kernel)
    | exact rows_row hW (by decide +kernel) (by decide)
    | exact rows_grid hW (by decide +kernel) (by decide) (by decide)
    | split
    | (with_reducible apply set_ts_after)
    | ((with_reducible show Changes _ _ _ (Dev.mk _ _ _ _ _ _ _ _ _ _ _ _ _ _ _ _ _ _ _ _ _ _ _ _ _ _ _ _ _ _)); refine mk_after ?_ (.inl rfl) (.inl rfl) (.inl rfl) (.inl rfl) (.inl rfl) (.inr (within_mem hS (by decide))) (.inl rfl) (.inl rfl) (.inl rfl) (.inl rfl) (.inl rfl) (.inl rfl) (.inl rfl) (.inl rfl) (.inl rfl) (.inl rfl) (.inl rfl) (.inl rfl) (.inl rfl) (.inl rfl) (.inl rfl) (.inl rfl) (.inl rfl) (.inl rfl) (.inl rfl) (.inl rfl) (.inl rfl) (.inl rfl) (.inl rfl) (fun can => can.mem) (fun can => can.shadow))

theorem ceCut_after (h : Changes S W d e) (hS : within [.regs, .chans, .ts, .lq, .out, .ce, .shadow, .sv, .hs] S = true) (hW : covers [.grid 0x70120 8 0x80 8 0x4 0, .one 3670176, .one 3670188, .one 3670196, .one 3670200, .row 0x5014 2 0x800 6, .row 0x5014 2 0x800 24, .row 0x2100c 32 0x40 3, .row 0x2100c 32 0x40 4, .row 0x2100c 32 0x40 5, .row 0x21024 32 0x40 0, .row 0x70108 8 0x80 0, .row 0x70108 8 0x80 16, .row 0x70108 8 0x80 25, .row 0x70108 8 0x80 26, .row 0x70108 8 0x80 29, .row 0x70140 8 0x80 0] W = true) :
    Changes S W d (ceCut e) := by
  unfold ceCut
  try dsimp only
  repeat' first
    | (with_reducible assumption)
    | (with_reducible refine ite_after ?_ ?_)
    | (with_reducible apply ceUngrant_after)
    | (with_reducible apply each_after)
    | (intro _; try dsimp only)
    | exact within_trans (by decide) hS
    | exact covers_trans (by decide +kernel) hW
    | exact rows_one hW (by decide +kernel)
    | exact rows_row hW (by decide +kernel) (by decide)
    | exact rows_grid hW (by decide +kernel) (by decide) (by decide)
    | split

theorem ceRequest_after (h : Changes S W d e) (hS : within [.ts] S = true) (hW : covers [] W = true) (k : Nat) (n : Nat) :
    Changes S W d (ceRequest k n e) := by
  unfold ceRequest
  try dsimp only
  repeat' first
    | (with_reducible assumption)
    | (with_reducible refine ite_after ?_ ?_)
    | (intro _; try dsimp only)
    | exact within_trans (by decide) hS
    | split
    | (with_reducible apply set_ts_after)
    | ((with_reducible show Changes _ _ _ (Dev.mk _ _ _ _ _ _ _ _ _ _ _ _ _ _ _ _ _ _ _ _ _ _ _ _ _ _ _ _ _ _)); refine mk_after ?_ (.inl rfl) (.inl rfl) (.inl rfl) (.inl rfl) (.inl rfl) (.inr (within_mem hS (by decide))) (.inl rfl) (.inl rfl) (.inl rfl) (.inl rfl) (.inl rfl) (.inl rfl) (.inl rfl) (.inl rfl) (.inl rfl) (.inl rfl) (.inl rfl) (.inl rfl) (.inl rfl) (.inl rfl) (.inl rfl) (.inl rfl) (.inl rfl) (.inl rfl) (.inl rfl) (.inl rfl) (.inl rfl) (.inl rfl) (.inl rfl) (fun can => can.mem) (fun can => can.shadow))

theorem phoneDetected_after (h : Changes S W d e) (hS : within [.regs, .chans, .ts, .lq, .out, .ce, .sv, .hs] S = true) (hW : covers [.row 0x5014 2 0x800 6, .row 0x5014 2 0x800 24, .row 0x2100c 32 0x40 3, .row 0x2100c 32 0x40 4, .row 0x2100c 32 0x40 5, .row 0x21024 32 0x40 0, .row 0x70108 8 0x80 28] W = true) (k : Nat) (level : Nat) :
    Changes S W d (phoneDetected k level e) := by
  unfold phoneDetected
  try dsimp only
  repeat' first
    | (with_reducible assumption)
    | (with_reducible refine ite_after ?_ ?_)
    | (with_reducible apply raise_after)
    | (with_reducible apply Dev.modCe_after)
    | (with_reducible apply ceEvent_after)
    | (with_reducible apply ceRequest_after)
    | (intro _; try dsimp only)
    | exact within_trans (by decide) hS
    | exact covers_trans (by decide +kernel) hW
    | exact rows_row hW (by decide +kernel) (by decide)
    | split

theorem carrierLock_after (h : Changes S W d e) (hS : within [.regs, .chans, .lq, .out, .freeCtr, .cy, .ce, .sv, .hs] S = true) (hW : covers [.row 0x5014 2 0x800 6, .row 0x5014 2 0x800 24, .row 0x2100c 32 0x40 3, .row 0x2100c 32 0x40 4, .row 0x2100c 32 0x40 5, .row 0x21024 32 0x40 0, .row 0x70108 8 0x80 3, .row 0x70108 8 0x80 27, .row 0x70108 8 0x80 29] W = true) (k : Nat) :
    Changes S W d (carrierLock k e) := by
  unfold carrierLock
  try dsimp only
  repeat' first
    | (with_reducible assumption)
    | (with_reducible refine ite_after ?_ ?_)
    | (with_reducible apply ceIdle_after)
    | (with_reducible apply raise_after)
    | (intro _; try dsimp only)
    | exact within_trans (by decide) hS
    | exact covers_trans (by decide +kernel) hW
    | exact rows_row hW (by decide +kernel) (by decide)
    | split

theorem phoneLost_after (h : Changes S W d e) (hS : within [.regs, .chans, .ts, .lq, .out, .ce, .shadow, .sv, .hs] S = true) (hW : covers [.grid 0x70120 8 0x80 8 0x4 0, .one 3670176, .one 3670188, .one 3670196, .one 3670200, .row 0x5014 2 0x800 6, .row 0x5014 2 0x800 24, .row 0x2100c 32 0x40 3, .row 0x2100c 32 0x40 4, .row 0x2100c 32 0x40 5, .row 0x21024 32 0x40 0, .row 0x70108 8 0x80 0, .row 0x70108 8 0x80 1, .row 0x70108 8 0x80 16, .row 0x70108 8 0x80 25, .row 0x70108 8 0x80 27, .row 0x70108 8 0x80 28, .row 0x70108 8 0x80 29, .row 0x70140 8 0x80 0] W = true) (k : Nat) (level : Nat) :
    Changes S W d (phoneLost k level e) := by
  unfold phoneLost
  try dsimp only
  repeat' first
    | (with_reducible assumption)
    | (with_reducible refine ite_after ?_ ?_)
    | (with_reducible apply ceOff_after)
    | (with_reducible apply raiseIf_after)
    | (with_reducible apply Dev.modCe_after)
    | (with_reducible apply lower_after)
    | (with_reducible apply ceEvent_after)
    | (intro _; try dsimp only)
    | exact within_trans (by decide) hS
    | exact covers_trans (by decide +kernel) hW
    | exact rows_one hW (by decide +kernel)
    | exact rows_row hW (by decide +kernel) (by decide)
    | exact rows_grid hW (by decide +kernel) (by decide) (by decide)
    | split
    | (with_reducible apply set_ts_after)
    | ((with_reducible show Changes _ _ _ (Dev.mk _ _ _ _ _ _ _ _ _ _ _ _ _ _ _ _ _ _ _ _ _ _ _ _ _ _ _ _ _ _)); refine mk_after ?_ (.inl rfl) (.inl rfl) (.inl rfl) (.inl rfl) (.inl rfl) (.inr (within_mem hS (by decide))) (.inl rfl) (.inl rfl) (.inl rfl) (.inl rfl) (.inl rfl) (.inl rfl) (.inl rfl) (.inl rfl) (.inl rfl) (.inl rfl) (.inl rfl) (.inl rfl) (.inl rfl) (.inl rfl) (.inl rfl) (.inl rfl) (.inl rfl) (.inl rfl) (.inl rfl) (.inl rfl) (.inl rfl) (.inl rfl) (.inl rfl) (fun can => can.mem) (fun can => can.shadow))

theorem emuGrantEnd_after (h : Changes S W d e) (hS : within [.regs, .time, .chans, .ts, .lq, .out, .clk, .ce, .shadow, .sv, .hs] S = true) (hW : covers [.grid 0x70120 8 0x80 8 0x4 0, .one 98752, .one 3670176, .one 3670188, .one 3670196, .one 3670200, .row 0x5014 2 0x800 6, .row 0x5014 2 0x800 24, .row 0x2100c 32 0x40 3, .row 0x2100c 32 0x40 4, .row 0x2100c 32 0x40 5, .row 0x21024 32 0x40 0, .row 0x70108 8 0x80 0, .row 0x70108 8 0x80 16, .row 0x70108 8 0x80 25, .row 0x70108 8 0x80 26, .row 0x70108 8 0x80 29, .row 0x70140 8 0x80 0] W = true) (k : Nat) :
    Changes S W d (emuGrantEnd k e) := by
  unfold emuGrantEnd
  try dsimp only
  repeat' first
    | (with_reducible assumption)
    | (with_reducible refine ite_after ?_ ?_)
    | (with_reducible apply ceUngrant_after)
    | (with_reducible apply ceEvent_after)
    | (with_reducible apply Dev.reach_after)
    | (intro _; try dsimp only)
    | exact within_trans (by decide) hS
    | exact covers_trans (by decide +kernel) hW
    | exact rows_one hW (by decide +kernel)
    | exact rows_row hW (by decide +kernel) (by decide)
    | exact rows_grid hW (by decide +kernel) (by decide) (by decide)
    | split

theorem ceReply_after (h : Changes S W d e) (hS : within [.ce] S = true) (hW : covers [] W = true) (k : Nat) (bs : List Byte) :
    Changes S W d (ceReply k bs e) := by
  unfold ceReply
  try dsimp only
  repeat' first
    | (with_reducible assumption)
    | (with_reducible refine ite_after ?_ ?_)
    | (with_reducible apply Dev.modCe_after)
    | (intro _; try dsimp only)
    | exact within_trans (by decide) hS
    | split

theorem ceReject_after (h : Changes S W d e) (hS : within [.regs] S = true) (hW : covers [.row 0x70108 8 0x80 29] W = true) (k : Nat) :
    Changes S W d (ceReject k e) := by
  unfold ceReject
  try dsimp only
  repeat' first
    | (with_reducible assumption)
    | (with_reducible refine ite_after ?_ ?_)
    | (with_reducible apply ceTo_after)
    | (intro _; try dsimp only)
    | exact within_trans (by decide) hS
    | exact covers_trans (by decide) hW
    | exact rows_row hW (by decide) (by decide)
    | split

theorem ceSelect_after (h : Changes S W d e) (hS : within [.regs, .ce] S = true) (hW : covers [.row 0x70108 8 0x80 29] W = true) (k : Nat) (bits_ : List Bool) (bs : List Byte) (crcOk : Bool) :
    Changes S W d (ceSelect k bits_ bs crcOk e) := by
  unfold ceSelect
  try dsimp only
  repeat' first
    | (with_reducible assumption)
    | (with_reducible refine ite_after ?_ ?_)
    | (with_reducible apply Dev.modCe_after)
    | (with_reducible apply ceTo_after)
    | (with_reducible apply ceReject_after)
    | (with_reducible apply ceReply_after)
    | (intro _; try dsimp only)
    | exact within_trans (by decide) hS
    | exact covers_trans (by decide) hW
    | exact rows_row hW (by decide) (by decide)
    | split

theorem ceSendI_after (h : Changes S W d e) (hS : within [.ce] S = true) (hW : covers [] W = true) (k : Nat) :
    Changes S W d (ceSendI k e) := by
  unfold ceSendI
  try dsimp only
  repeat' first
    | (with_reducible assumption)
    | (with_reducible refine ite_after ?_ ?_)
    | (with_reducible apply Dev.modCe_after)
    | (with_reducible apply ceReply_after)
    | (intro _; try dsimp only)
    | exact within_trans (by decide) hS
    | split

theorem ceAnswer_after (h : Changes S W d e) (hS : within [.ce] S = true) (hW : covers [] W = true) (k : Nat) (body : List Byte) (sw : Nat) :
    Changes S W d (ceAnswer k body sw e) := by
  unfold ceAnswer
  try dsimp only
  repeat' first
    | (with_reducible assumption)
    | (with_reducible refine ite_after ?_ ?_)
    | (with_reducible apply ceSendI_after)
    | (with_reducible apply Dev.modCe_after)
    | (intro _; try dsimp only)
    | exact within_trans (by decide) hS
    | split

theorem Dev.runApdu_after (h : Changes S W d e) (hS : within [.regs, .freeCtr, .cy, .ce] S = true) (hW : covers [.row 0x70108 8 0x80 25] W = true) (c : Dev) (k : Nat) (x2 : Apdu) (secured : Bool) :
    Changes S W d ((Dev.runApdu c k x2 secured).2.2.2 e) := by
  unfold Dev.runApdu
  try dsimp only
  repeat' first
    | (with_reducible assumption)
    | exact h
    | (with_reducible refine ite_after ?_ ?_)
    | (with_reducible apply ceEndSession_after)
    | (with_reducible apply raise_after)
    | (with_reducible apply Dev.modCe_after)
    | (with_reducible apply Dev.random_after)
    | (intro _; try dsimp only)
    | exact within_trans (by decide) hS
    | exact covers_trans (by decide) hW
    | exact rows_row hW (by decide) (by decide)
    | split

theorem ceTxn_after (h : Changes S W d e) (hS : within [.ce] S = true) (hW : covers [] W = true) (k : Nat) (blocks : List Nat) (ws : List (Nat × Byte)) :
    Changes S W d (ceTxn k blocks ws e) := by
  unfold ceTxn
  try dsimp only
  repeat' first
    | (with_reducible assumption)
    | (with_reducible refine ite_after ?_ ?_)
    | (with_reducible apply Dev.modCe_after)
    | (intro _; try dsimp only)
    | exact within_trans (by decide) hS
    | split

theorem ceForward_after (h : Changes S W d e) (hS : within [.regs, .chans, .lq, .out, .ce, .sv, .hs] S = true) (hW : covers [.row 0x5014 2 0x800 6, .row 0x5014 2 0x800 24, .row 0x2100c 32 0x40 3, .row 0x2100c 32 0x40 4, .row 0x2100c 32 0x40 5, .row 0x21024 32 0x40 0] W = true) (k : Nat) (bs : List Byte) :
    Changes S W d (ceForward k bs e) := by
  unfold ceForward
  try dsimp only
  repeat' first
    | (with_reducible assumption)
    | (with_reducible refine ite_after ?_ ?_)
    | (with_reducible apply ceAnswer_after)
    | (with_reducible apply postIn_after)
    | (with_reducible apply Dev.modCe_after)
    | (with_reducible apply ceTxn_after)
    | (intro _; try dsimp only)
    | exact within_trans (by decide) hS
    | exact covers_trans (by decide +kernel) hW
    | exact rows_row hW (by decide +kernel) (by decide)
    | split

theorem ceFinish_after (h : Changes S W d e) (hS : within [.regs, .chans, .lq, .out, .freeCtr, .ce, .sv, .hs] S = true) (hW : covers [.row 0x5014 2 0x800 6, .row 0x5014 2 0x800 24, .row 0x2100c 32 0x40 3, .row 0x2100c 32 0x40 4, .row 0x2100c 32 0x40 5, .row 0x21024 32 0x40 0] W = true) (k : Nat) (r : ApduResult × List Nat × List (Nat × Byte) × (Dev → Dev)) (bs : List Byte) (wrap : Option CardSession)
    (hf : ∀ e, Changes S W d e → Changes S W d (r.2.2.2 e)) :
    Changes S W d (ceFinish k r bs wrap e) := by
  unfold ceFinish
  try dsimp only
  repeat' first
    | (with_reducible assumption)
    | (with_reducible refine ite_after ?_ ?_)
    | (with_reducible apply hf)
    | (with_reducible apply ceForward_after)
    | (with_reducible apply ceAnswer_after)
    | (with_reducible apply free_after)
    | (with_reducible apply ceTxn_after)
    | (intro _; try dsimp only)
    | exact within_trans (by decide) hS
    | exact covers_trans (by decide +kernel) hW
    | exact rows_row hW (by decide +kernel) (by decide)
    | split

theorem ceBegin_after (h : Changes S W d e) (hS : within [.regs, .chans, .lq, .out, .ce, .shadow, .sv, .hs] S = true) (hW : covers [.grid 0x70120 8 0x80 8 0x4 0, .one 3670176, .one 3670188, .one 3670196, .one 3670200, .row 0x5014 2 0x800 6, .row 0x5014 2 0x800 24, .row 0x2100c 32 0x40 3, .row 0x2100c 32 0x40 4, .row 0x2100c 32 0x40 5, .row 0x21024 32 0x40 0, .row 0x70108 8 0x80 0, .row 0x70140 8 0x80 0] W = true) (k : Nat) :
    Changes S W d (ceBegin k e) := by
  unfold ceBegin
  try dsimp only
  repeat' first
    | (with_reducible assumption)
    | (with_reducible refine ite_after ?_ ?_)
    | (with_reducible apply Dev.modCe_after)
    | (with_reducible apply ceDiscard_after)
    | (with_reducible apply hostProceed_after)
    | (intro _; try dsimp only)
    | exact within_trans (by decide) hS
    | exact covers_trans (by decide +kernel) hW
    | exact rows_one hW (by decide +kernel)
    | exact rows_row hW (by decide +kernel) (by decide)
    | exact rows_grid hW (by decide +kernel) (by decide) (by decide)
    | split

theorem ceApdu_after (h : Changes S W d e) (hS : within [.regs, .chans, .lq, .out, .freeCtr, .cy, .ce, .sv, .hs] S = true) (hW : covers [.row 0x5014 2 0x800 6, .row 0x5014 2 0x800 24, .row 0x2100c 32 0x40 3, .row 0x2100c 32 0x40 4, .row 0x2100c 32 0x40 5, .row 0x21024 32 0x40 0, .row 0x70108 8 0x80 25] W = true) (k : Nat) (ctr : Nat) (bs : List Byte) :
    Changes S W d (ceApdu k ctr bs e) := by
  unfold ceApdu
  try dsimp only
  repeat' first
    | (with_reducible assumption)
    | (with_reducible refine ite_after ?_ ?_)
    | (with_reducible apply ceEndSession_after)
    | (with_reducible apply ceAnswer_after)
    | (with_reducible apply Dev.modCe_after)
    | (with_reducible apply Dev.runApdu_after)
    | (with_reducible apply ceFinish_after)
    | (with_reducible apply ceTxn_after)
    | (intro _; try dsimp only)
    | exact within_trans (by decide) hS
    | exact covers_trans (by decide +kernel) hW
    | exact rows_row hW (by decide +kernel) (by decide)
    | split
    | (rw [id_eq]; assumption)

theorem ceInfo_after (h : Changes S W d e) (hS : within [.regs, .chans, .lq, .out, .freeCtr, .cy, .ce, .shadow, .sv, .hs] S = true) (hW : covers [.grid 0x70120 8 0x80 8 0x4 0, .one 3670176, .one 3670188, .one 3670196, .one 3670200, .row 0x5014 2 0x800 6, .row 0x5014 2 0x800 24, .row 0x2100c 32 0x40 3, .row 0x2100c 32 0x40 4, .row 0x2100c 32 0x40 5, .row 0x21024 32 0x40 0, .row 0x70108 8 0x80 0, .row 0x70108 8 0x80 25, .row 0x70140 8 0x80 0] W = true) (k : Nat) (ctr : Nat) (more : Bool) (inf : List Byte) :
    Changes S W d (ceInfo k ctr more inf e) := by
  unfold ceInfo
  try dsimp only
  repeat' first
    | (with_reducible assumption)
    | (with_reducible refine ite_after ?_ ?_)
    | (with_reducible apply Dev.modCe_after)
    | (with_reducible apply ceApdu_after)
    | (with_reducible apply ceBegin_after)
    | (with_reducible apply ceReply_after)
    | (intro _; try dsimp only)
    | exact within_trans (by decide) hS
    | exact covers_trans (by decide +kernel) hW
    | exact rows_one hW (by decide +kernel)
    | exact rows_row hW (by decide +kernel) (by decide)
    | exact rows_grid hW (by decide +kernel) (by decide) (by decide)
    | split

theorem ceAck_after (h : Changes S W d e) (hS : within [.ce] S = true) (hW : covers [] W = true) (k : Nat) (nak : Bool) (num : Nat) :
    Changes S W d (ceAck k nak num e) := by
  unfold ceAck
  try dsimp only
  repeat' first
    | (with_reducible assumption)
    | (with_reducible refine ite_after ?_ ?_)
    | (with_reducible apply ceSendI_after)
    | (with_reducible apply Dev.modCe_after)
    | (with_reducible apply ceReply_after)
    | (intro _; try dsimp only)
    | exact within_trans (by decide) hS
    | split

theorem ceBlock_after (h : Changes S W d e) (hS : within [.regs, .chans, .lq, .out, .freeCtr, .cy, .ce, .shadow, .sv, .hs] S = true) (hW : covers [.grid 0x70120 8 0x80 8 0x4 0, .one 3670176, .one 3670188, .one 3670196, .one 3670200, .row 0x5014 2 0x800 6, .row 0x5014 2 0x800 24, .row 0x2100c 32 0x40 3, .row 0x2100c 32 0x40 4, .row 0x2100c 32 0x40 5, .row 0x21024 32 0x40 0, .row 0x70108 8 0x80 0, .row 0x70108 8 0x80 25, .row 0x70140 8 0x80 0] W = true) (k : Nat) (ctr : Nat) (bs : List Byte) :
    Changes S W d (ceBlock k ctr bs e) := by
  unfold ceBlock
  try dsimp only
  repeat' first
    | (with_reducible assumption)
    | (with_reducible refine ite_after ?_ ?_)
    | (with_reducible apply ceSendI_after)
    | (with_reducible apply Dev.modCe_after)
    | (with_reducible apply ceInfo_after)
    | (with_reducible apply ceAck_after)
    | (with_reducible apply ceReply_after)
    | (intro _; try dsimp only)
    | exact within_trans (by decide) hS
    | exact covers_trans (by decide +kernel) hW
    | exact rows_one hW (by decide +kernel)
    | exact rows_row hW (by decide +kernel) (by decide)
    | exact rows_grid hW (by decide +kernel) (by decide) (by decide)
    | split

theorem emuFrame_after (h : Changes S W d e) (hS : within [.regs, .chans, .lq, .out, .freeCtr, .cy, .ce, .shadow, .sv, .hs] S = true) (hW : covers [.grid 0x70120 8 0x80 8 0x4 0, .one 3670176, .one 3670188, .one 3670196, .one 3670200, .row 0x5014 2 0x800 6, .row 0x5014 2 0x800 24, .row 0x2100c 32 0x40 3, .row 0x2100c 32 0x40 4, .row 0x2100c 32 0x40 5, .row 0x21024 32 0x40 0, .row 0x70108 8 0x80 0, .row 0x70108 8 0x80 3, .row 0x70108 8 0x80 25, .row 0x70108 8 0x80 29, .row 0x70140 8 0x80 0] W = true) (k : Nat) (bits_ : List Bool) (parityOk : Bool) (ctr : Nat) :
    Changes S W d (emuFrame k bits_ parityOk ctr e) := by
  unfold emuFrame
  try dsimp only
  repeat' first
    | (with_reducible assumption)
    | (with_reducible refine ite_after ?_ ?_)
    | (with_reducible apply ceSelect_after)
    | (with_reducible apply ceDeaf_after)
    | (with_reducible apply Dev.modCe_after)
    | (with_reducible apply ceEvent_after)
    | (with_reducible apply ceTo_after)
    | (with_reducible apply ceBlock_after)
    | (with_reducible apply ceReject_after)
    | (with_reducible apply ceReply_after)
    | (intro _; try dsimp only)
    | exact within_trans (by decide) hS
    | exact covers_trans (by decide +kernel) hW
    | exact rows_one hW (by decide +kernel)
    | exact rows_row hW (by decide +kernel) (by decide)
    | exact rows_grid hW (by decide +kernel) (by decide) (by decide)
    | split

theorem emuReplyStart_after (h : Changes S W d e) (hS : within [.regs, .time, .chans, .lq, .out, .clk, .ce, .shadow, .sv, .hs] S = true) (hW : covers [.grid 0x70120 8 0x80 8 0x4 0, .one 98752, .one 3670176, .one 3670188, .one 3670196, .one 3670200, .row 0x5014 2 0x800 6, .row 0x5014 2 0x800 24, .row 0x2100c 32 0x40 3, .row 0x2100c 32 0x40 4, .row 0x2100c 32 0x40 5, .row 0x21024 32 0x40 0, .row 0x70108 8 0x80 0, .row 0x70108 8 0x80 16, .row 0x70108 8 0x80 25, .row 0x70108 8 0x80 29, .row 0x70140 8 0x80 0] W = true) (k : Nat) (ready : Nat) :
    Changes S W d (emuReplyStart k ready e) := by
  unfold emuReplyStart
  try dsimp only
  repeat' first
    | (with_reducible assumption)
    | (with_reducible refine ite_after ?_ ?_)
    | (with_reducible apply ceEndSession_after)
    | (with_reducible apply wr_after)
    | (with_reducible apply Dev.modCe_after)
    | (with_reducible apply ceBegin_after)
    | (with_reducible apply ceEvent_after)
    | (with_reducible apply ceTo_after)
    | (with_reducible apply Dev.reach_after)
    | (intro _; try dsimp only)
    | exact within_trans (by decide) hS
    | exact covers_trans (by decide +kernel) hW
    | exact rows_one hW (by decide +kernel)
    | exact rows_row hW (by decide +kernel) (by decide)
    | exact rows_grid hW (by decide +kernel) (by decide) (by decide)
    | split
    | (with_reducible apply set_out_after)
    | ((with_reducible show Changes _ _ _ (Dev.mk _ _ _ _ _ _ _ _ _ _ _ _ _ _ _ _ _ _ _ _ _ _ _ _ _ _ _ _ _ _)); refine mk_after ?_ (.inl rfl) (.inl rfl) (.inl rfl) (.inl rfl) (.inl rfl) (.inl rfl) (.inl rfl) (.inr (within_mem hS (by decide))) (.inl rfl) (.inl rfl) (.inl rfl) (.inl rfl) (.inl rfl) (.inl rfl) (.inl rfl) (.inl rfl) (.inl rfl) (.inl rfl) (.inl rfl) (.inl rfl) (.inl rfl) (.inl rfl) (.inl rfl) (.inl rfl) (.inl rfl) (.inl rfl) (.inl rfl) (.inl rfl) (.inl rfl) (fun can => can.mem) (fun can => can.shadow))

theorem fieldTxnEnd_after (h : Changes S W d e) (hS : within [.regs, .chans, .lq, .out, .ce, .shadow, .sv, .hs] S = true) (hW : covers [.grid 0x70120 8 0x80 8 0x4 0, .one 3670176, .one 3670188, .one 3670196, .one 3670200, .row 0x5014 2 0x800 6, .row 0x5014 2 0x800 24, .row 0x2100c 32 0x40 3, .row 0x2100c 32 0x40 4, .row 0x2100c 32 0x40 5, .row 0x21024 32 0x40 0, .row 0x70108 8 0x80 0, .row 0x70140 8 0x80 0] W = true) (k : Nat) (whole : Bool) :
    Changes S W d (fieldTxnEnd k whole e) := by
  unfold fieldTxnEnd
  try dsimp only
  repeat' first
    | (with_reducible assumption)
    | (with_reducible refine ite_after ?_ ?_)
    | (with_reducible apply Dev.modCe_after)
    | (with_reducible apply ceEvent_after)
    | (with_reducible apply ceDiscard_after)
    | (with_reducible apply ceCommit_after)
    | (with_reducible apply hostProceed_after)
    | (intro _; try dsimp only)
    | exact within_trans (by decide) hS
    | exact covers_trans (by decide +kernel) hW
    | exact rows_one hW (by decide +kernel)
    | exact rows_row hW (by decide +kernel) (by decide)
    | exact rows_grid hW (by decide +kernel) (by decide) (by decide)
    | split

theorem emuWtxPoint_after (h : Changes S W d e) (hS : within [.regs, .chans, .lq, .out, .ce, .sv, .hs] S = true) (hW : covers [.row 0x5014 2 0x800 6, .row 0x5014 2 0x800 24, .row 0x2100c 32 0x40 3, .row 0x2100c 32 0x40 4, .row 0x2100c 32 0x40 5, .row 0x21024 32 0x40 0, .row 0x70108 8 0x80 2] W = true) (k : Nat) :
    Changes S W d (emuWtxPoint k e) := by
  unfold emuWtxPoint
  try dsimp only
  repeat' first
    | (with_reducible assumption)
    | (with_reducible refine ite_after ?_ ?_)
    | (with_reducible apply ceAnswer_after)
    | (with_reducible apply raise_after)
    | (with_reducible apply Dev.modCe_after)
    | (with_reducible apply ceEvent_after)
    | (with_reducible apply ceReply_after)
    | (intro _; try dsimp only)
    | exact within_trans (by decide) hS
    | exact covers_trans (by decide +kernel) hW
    | exact rows_row hW (by decide +kernel) (by decide)
    | split

theorem ceRspWrite_after (h : Changes S W d e) (hS : within [.regs, .ce] S = true) (hW : covers [.row 0x70108 8 0x80 8] W = true) (p : Path) (k : Nat) (w : Word) :
    Changes S W d (ceRspWrite p k w e) := by
  unfold ceRspWrite
  try dsimp only
  repeat' first
    | (with_reducible assumption)
    | (with_reducible refine ite_after ?_ ?_)
    | (with_reducible apply wr_after)
    | (with_reducible apply ceSendI_after)
    | (with_reducible apply Dev.modCe_after)
    | (intro _; try dsimp only)
    | exact within_trans (by decide) hS
    | exact covers_trans (by decide) hW
    | exact rows_row hW (by decide) (by decide)
    | split

theorem ceEnable_after (h : Changes S W d e) (hS : within [.regs, .chans, .ts, .lq, .out, .hawserStatus, .ce, .shadow, .jtagStatus, .sv, .hs] S = true) (hW : covers [.errors, .grid 0x70120 8 0x80 8 0x4 0, .one 3670176, .one 3670188, .one 3670196, .one 3670200, .row 0x5014 2 0x800 1, .row 0x5014 2 0x800 6, .row 0x5014 2 0x800 24, .row 0x2100c 32 0x40 3, .row 0x2100c 32 0x40 4, .row 0x2100c 32 0x40 5, .row 0x21024 32 0x40 0, .row 0x70100 8 0x80 0, .row 0x70100 8 0x80 8, .row 0x70100 8 0x80 14, .row 0x70100 8 0x80 20, .row 0x70100 8 0x80 30, .row 0x70100 8 0x80 31, .row 0x70108 8 0x80 0, .row 0x70108 8 0x80 16, .row 0x70108 8 0x80 25, .row 0x70108 8 0x80 26, .row 0x70108 8 0x80 27, .row 0x70108 8 0x80 28, .row 0x70108 8 0x80 29, .row 0x70140 8 0x80 0] W = true) (p : Path) (k : Nat) (w : Word) :
    Changes S W d (ceEnable p k w e) := by
  unfold ceEnable
  try dsimp only
  repeat' first
    | (with_reducible assumption)
    | (with_reducible refine ite_after ?_ ?_)
    | (with_reducible apply ceUngrant_after)
    | (with_reducible apply wr_after)
    | (with_reducible apply lower_after)
    | (with_reducible apply accessError_after)
    | (with_reducible apply flag_after)
    | (with_reducible apply Dev.hole_after)
    | (intro _; try dsimp only)
    | exact within_trans (by decide) hS
    | exact covers_trans (by decide +kernel) hW
    | exact rows_one hW (by decide +kernel)
    | exact rows_row hW (by decide +kernel) (by decide)
    | exact rows_grid hW (by decide +kernel) (by decide) (by decide)
    | exact blockBase_mem _
    | (with_reducible show _ ∈ blockBases; decide)
    | split

theorem ceLockWrite_after (h : Changes S W d e) (hS : within [.regs, .hawserStatus, .jtagStatus] S = true) (hW : covers [.errors, .grid 0x70110 8 0x80 4 0x4 14, .grid 0x70110 8 0x80 4 0x4 15, .grid 0x70110 8 0x80 4 0x4 24, .one 3670176, .one 3670188, .one 3670196, .one 3670200, .row 0x5014 2 0x800 1] W = true) (p : Path) (k : Nat) (m : Nat) (w : Word) :
    Changes S W d (ceLockWrite p k m w e) := by
  unfold ceLockWrite
  try dsimp only
  repeat' first
    | (with_reducible assumption)
    | (with_reducible refine ite_after ?_ ?_)
    | (with_reducible apply ceAcc_after)
    | (with_reducible apply wr_after)
    | (with_reducible apply Dev.hole_after)
    | (with_reducible apply errRange_after)
    | (intro _; try dsimp only)
    | exact within_trans (by decide) hS
    | exact covers_trans (by decide +kernel) hW
    | exact rows_one hW (by decide +kernel)
    | exact rows_row hW (by decide +kernel) (by decide)
    | exact rows_grid hW (by decide +kernel) (by decide) (by decide)
    | split

theorem shadowBurst_after (h : Changes S W d e) (hS : within [.regs, .out, .hawserStatus, .ce, .shadow, .jtagStatus, .hs] S = true) (hW : covers [.errors, .grid 0x70120 8 0x80 8 0x4 0, .one 3670176, .one 3670188, .one 3670196, .one 3670200, .row 0x5014 2 0x800 1, .row 0x5014 2 0x800 2, .row 0x5014 2 0x800 24, .row 0x70140 8 0x80 0] W = true) (p : Path) (off : Nat) (data : List Word) (n : Nat) :
    Changes S W d (shadowBurst p off data n e) := by
  unfold shadowBurst
  try dsimp only
  repeat' first
    | (with_reducible assumption)
    | (with_reducible refine ite_after ?_ ?_)
    | (with_reducible apply ceAcc_after)
    | (with_reducible apply Dev.modCe_after)
    | (with_reducible apply accessError_after)
    | (with_reducible apply Dev.hole_after)
    | (with_reducible apply Dev.give_after)
    | (with_reducible apply hostRun_after)
    | (with_reducible apply Dev.pageEnd_after)
    | (intro _; try dsimp only)
    | exact within_trans (by decide) hS
    | exact covers_trans (by decide +kernel) hW
    | exact rows_one hW (by decide +kernel)
    | exact rows_row hW (by decide +kernel) (by decide)
    | exact rows_grid hW (by decide +kernel) (by decide) (by decide)
    | exact blockBase_mem _
    | (with_reducible show _ ∈ blockBases; decide)
    | split

theorem hostWaitExpiry_after (h : Changes S W d e) (hS : within [.regs, .time, .out, .clk, .ce, .hs] S = true) (hW : covers [.one 98752, .one 3670176, .one 3670188, .one 3670196, .one 3670200, .row 0x5014 2 0x800 24] W = true) (k : Nat) :
    Changes S W d (hostWaitExpiry k e) := by
  unfold hostWaitExpiry
  try dsimp only
  repeat' first
    | (with_reducible assumption)
    | (with_reducible refine ite_after ?_ ?_)
    | (with_reducible apply ceAcc_after)
    | (with_reducible apply Dev.modCe_after)
    | (with_reducible apply Dev.give_after)
    | (with_reducible apply Dev.reach_after)
    | (intro _; try dsimp only)
    | exact within_trans (by decide) hS
    | exact covers_trans (by decide +kernel) hW
    | exact rows_one hW (by decide +kernel)
    | exact rows_row hW (by decide +kernel) (by decide)
    | split

theorem execCarrierLock_changes {s t : State} (k : Fin 8) (h : execCarrierLock k s = .next t) :
    t.pending = s.pending ∧ Changes [.regs, .chans, .lq, .out, .freeCtr, .cy, .ce, .sv, .hs] [.row 0x5014 2 0x800 6, .row 0x5014 2 0x800 24, .row 0x2100c 32 0x40 3, .row 0x2100c 32 0x40 4, .row 0x2100c 32 0x40 5, .row 0x21024 32 0x40 0, .row 0x70108 8 0x80 3, .row 0x70108 8 0x80 27, .row 0x70108 8 0x80 29] s.dev t.dev := by
  unfold execCarrierLock at h
  refine act_changes (by decide) h fun e h => ?_
  repeat' first
    | (with_reducible assumption)
    | (with_reducible refine ite_after ?_ ?_)
    | (with_reducible apply carrierLock_after)
    | (intro _; try dsimp only)
    | exact within_trans (by decide) (within_refl _)
    | exact covers_trans (by decide +kernel) (covers_refl _)
    | exact rows_row (covers_refl _) (by decide +kernel) (by decide)
    | split

theorem execPhoneFieldDetected_changes {s t : State} (k : Fin 8) (level : Nat) (h : execPhoneFieldDetected k level s = .next t) :
    t.pending = s.pending ∧ Changes [.regs, .chans, .ts, .lq, .out, .ce, .sv, .hs] [.row 0x5014 2 0x800 6, .row 0x5014 2 0x800 24, .row 0x2100c 32 0x40 3, .row 0x2100c 32 0x40 4, .row 0x2100c 32 0x40 5, .row 0x21024 32 0x40 0, .row 0x70108 8 0x80 28] s.dev t.dev := by
  unfold execPhoneFieldDetected at h
  refine act_changes (by decide) h fun e h => ?_
  repeat' first
    | (with_reducible assumption)
    | (with_reducible refine ite_after ?_ ?_)
    | (with_reducible apply phoneDetected_after)
    | (intro _; try dsimp only)
    | exact within_trans (by decide) (within_refl _)
    | exact covers_trans (by decide +kernel) (covers_refl _)
    | exact rows_row (covers_refl _) (by decide +kernel) (by decide)
    | split

theorem execEmuFrameReceived_changes {s t : State} (k : Fin 8) (bits : List Bool) (parityOk : Bool) (ctr : Word) (h : execEmuFrameReceived k bits parityOk ctr s = .next t) :
    t.pending = s.pending ∧ Changes [.regs, .chans, .lq, .out, .freeCtr, .cy, .ce, .shadow, .sv, .hs] [.grid 0x70120 8 0x80 8 0x4 0, .one 3670176, .one 3670188, .one 3670196, .one 3670200, .row 0x5014 2 0x800 6, .row 0x5014 2 0x800 24, .row 0x2100c 32 0x40 3, .row 0x2100c 32 0x40 4, .row 0x2100c 32 0x40 5, .row 0x21024 32 0x40 0, .row 0x70108 8 0x80 0, .row 0x70108 8 0x80 3, .row 0x70108 8 0x80 25, .row 0x70108 8 0x80 29, .row 0x70140 8 0x80 0] s.dev t.dev := by
  unfold execEmuFrameReceived at h
  refine act_changes (by decide) h fun e h => ?_
  repeat' first
    | (with_reducible assumption)
    | (with_reducible refine ite_after ?_ ?_)
    | (with_reducible apply emuFrame_after)
    | (intro _; try dsimp only)
    | exact within_trans (by decide) (within_refl _)
    | exact covers_trans (by decide +kernel) (covers_refl _)
    | exact rows_one (covers_refl _) (by decide +kernel)
    | exact rows_row (covers_refl _) (by decide +kernel) (by decide)
    | exact rows_grid (covers_refl _) (by decide +kernel) (by decide) (by decide)
    | split

theorem execEmuReplyStart_changes {s t : State} (k : Fin 8) (ready : Nat) (h : execEmuReplyStart k ready s = .next t) :
    t.pending = s.pending ∧ Changes [.regs, .time, .chans, .lq, .out, .clk, .ce, .shadow, .sv, .hs] [.grid 0x70120 8 0x80 8 0x4 0, .one 98752, .one 3670176, .one 3670188, .one 3670196, .one 3670200, .row 0x5014 2 0x800 6, .row 0x5014 2 0x800 24, .row 0x2100c 32 0x40 3, .row 0x2100c 32 0x40 4, .row 0x2100c 32 0x40 5, .row 0x21024 32 0x40 0, .row 0x70108 8 0x80 0, .row 0x70108 8 0x80 16, .row 0x70108 8 0x80 25, .row 0x70108 8 0x80 29, .row 0x70140 8 0x80 0] s.dev t.dev := by
  unfold execEmuReplyStart at h
  refine act_changes (by decide) h fun e h => ?_
  repeat' first
    | (with_reducible assumption)
    | (with_reducible refine ite_after ?_ ?_)
    | (with_reducible apply emuReplyStart_after)
    | (intro _; try dsimp only)
    | exact within_trans (by decide) (within_refl _)
    | exact covers_trans (by decide +kernel) (covers_refl _)
    | exact rows_one (covers_refl _) (by decide +kernel)
    | exact rows_row (covers_refl _) (by decide +kernel) (by decide)
    | exact rows_grid (covers_refl _) (by decide +kernel) (by decide) (by decide)
    | split

theorem execEmuWtxPoint_changes {s t : State} (k : Fin 8) (h : execEmuWtxPoint k s = .next t) :
    t.pending = s.pending ∧ Changes [.regs, .chans, .lq, .out, .ce, .sv, .hs] [.row 0x5014 2 0x800 6, .row 0x5014 2 0x800 24, .row 0x2100c 32 0x40 3, .row 0x2100c 32 0x40 4, .row 0x2100c 32 0x40 5, .row 0x21024 32 0x40 0, .row 0x70108 8 0x80 2] s.dev t.dev := by
  unfold execEmuWtxPoint at h
  refine act_changes (by decide) h fun e h => ?_
  repeat' first
    | (with_reducible assumption)
    | (with_reducible refine ite_after ?_ ?_)
    | (with_reducible apply emuWtxPoint_after)
    | (intro _; try dsimp only)
    | exact within_trans (by decide) (within_refl _)
    | exact covers_trans (by decide +kernel) (covers_refl _)
    | exact rows_row (covers_refl _) (by decide +kernel) (by decide)
    | split

theorem execCeRspWrite_changes {s t : State} (p : Path) (k : Fin 8) (w : Word) (h : execCeRspWrite p k w s = .next t) :
    t.pending = s.pending ∧ Changes [.regs, .out, .hawserStatus, .ce, .jtagStatus, .hs] [.row 0x5014 2 0x800 1, .row 0x5014 2 0x800 24, .row 0x70108 8 0x80 8] s.dev t.dev := by
  unfold execCeRspWrite at h
  refine act_changes (by decide) h fun e h => ?_
  repeat' first
    | (with_reducible assumption)
    | (with_reducible refine ite_after ?_ ?_)
    | (with_reducible apply ceRspWrite_after)
    | (with_reducible apply onPort_after)
    | (intro _; try dsimp only)
    | exact within_trans (by decide) (within_refl _)
    | exact covers_trans (by decide) (covers_refl _)
    | exact rows_row (covers_refl _) (by decide) (by decide)
    | split

theorem execCeLockWrite_changes {s t : State} (p : Path) (k : Fin 8) (m : Fin 4) (w : Word) (h : execCeLockWrite p k m w s = .next t) :
    t.pending = s.pending ∧ Changes [.regs, .out, .hawserStatus, .jtagStatus, .hs] [.errors, .grid 0x70110 8 0x80 4 0x4 14, .grid 0x70110 8 0x80 4 0x4 15, .grid 0x70110 8 0x80 4 0x4 24, .one 3670176, .one 3670188, .one 3670196, .one 3670200, .row 0x5014 2 0x800 1, .row 0x5014 2 0x800 24] s.dev t.dev := by
  unfold execCeLockWrite at h
  refine act_changes (by decide) h fun e h => ?_
  repeat' first
    | (with_reducible assumption)
    | (with_reducible refine ite_after ?_ ?_)
    | (with_reducible apply ceLockWrite_after)
    | (with_reducible apply onPort_after)
    | (intro _; try dsimp only)
    | exact within_trans (by decide) (within_refl _)
    | exact covers_trans (by decide +kernel) (covers_refl _)
    | exact rows_one (covers_refl _) (by decide +kernel)
    | exact rows_row (covers_refl _) (by decide +kernel) (by decide)
    | exact rows_grid (covers_refl _) (by decide +kernel) (by decide) (by decide)
    | split

theorem execShadowHostBurst_changes {s t : State} (p : Path) (off : Fin 32768) (data : List Word) (n : Nat) (h : execShadowHostBurst p off data n s = .next t) :
    t.pending = s.pending ∧ Changes [.regs, .out, .hawserStatus, .ce, .shadow, .jtagStatus, .hs] [.errors, .grid 0x70120 8 0x80 8 0x4 0, .one 3670176, .one 3670188, .one 3670196, .one 3670200, .row 0x5014 2 0x800 1, .row 0x5014 2 0x800 2, .row 0x5014 2 0x800 24, .row 0x70140 8 0x80 0] s.dev t.dev := by
  unfold execShadowHostBurst at h
  refine act_changes (by decide) h fun e h => ?_
  repeat' first
    | (with_reducible assumption)
    | (with_reducible refine ite_after ?_ ?_)
    | (with_reducible apply shadowBurst_after)
    | (with_reducible apply onPort_after)
    | (intro _; try dsimp only)
    | exact within_trans (by decide) (within_refl _)
    | exact covers_trans (by decide +kernel) (covers_refl _)
    | exact rows_one (covers_refl _) (by decide +kernel)
    | exact rows_row (covers_refl _) (by decide +kernel) (by decide)
    | exact rows_grid (covers_refl _) (by decide +kernel) (by decide) (by decide)
    | split

end

end Sys2Proof.Machine
end

