-- ==== Sys2Proof/Laws/ChangesRuntime.lean ====
section
/-!
SUPPORT. What every operation of Machine/Runtime can change.
-/

set_option Elab.async false
set_option linter.all false

namespace Sys2Proof.Machine

section
variable {S : List Part} {W : List Span} {d e : Dev}

theorem recordUpdate_after (h : Changes S W d e) (hS : within [.freeCtr] S = true) (hW : covers [] W = true) (i : Nat) (r : List Byte) (x2 : Option AuditJob) :
    Changes S W d (recordUpdate i r x2 e).2 := by
  unfold recordUpdate
  try dsimp only
  repeat' first
    | (with_reducible assumption)
    | (with_reducible refine ite_after ?_ ?_)
    | (with_reducible apply auditOf_after)
    | (intro _; try dsimp only)
    | exact within_trans (by decide) hS
    | split

theorem maybeAudit_after (h : Changes S W d e) (hS : within [.freeCtr] S = true) (hW : covers [] W = true) (typ : Nat) (rec_ : Nat) :
    Changes S W d (maybeAudit typ rec_ e).2 := by
  unfold maybeAudit
  try dsimp only
  repeat' first
    | (with_reducible assumption)
    | (with_reducible refine ite_after ?_ ?_)
    | (with_reducible apply free_after)
    | (intro _; try dsimp only)
    | exact within_trans (by decide) hS
    | split

theorem Built.audited_after (h : Changes S W d e) (hS : within [.freeCtr] S = true) (hW : covers [] W = true) (b : Built) (x1 : Option AuditJob) :
    Changes S W d (Built.audited b x1 e).2 := by
  unfold Built.audited
  try dsimp only
  repeat' first
    | (with_reducible assumption)
    | (with_reducible refine ite_after ?_ ?_)
    | (with_reducible apply auditOf_after)
    | (intro _; try dsimp only)
    | exact within_trans (by decide) hS
    | split

theorem buildCmd_after (h : Changes S W d e) (hS : within [.regs, .mem, .lq, .out, .freeCtr, .sv, .hs] S = true) (hW : covers [.one 1704158, .row 0x5014 2 0x800 6, .row 0x5014 2 0x800 24, .row 0x2100c 32 0x40 3, .row 0x2100c 32 0x40 4, .row 0x2100c 32 0x40 5, .row 0x21024 32 0x40 0] W = true) (c : SvcCmd) :
    Changes S W d (buildCmd c e).2 := by
  unfold buildCmd
  try dsimp only
  repeat' first
    | (with_reducible assumption)
    | (with_reducible refine ite_after ?_ ?_)
    | (with_reducible apply replyApplied_after)
    | (with_reducible apply Dev.modSv_after)
    | (with_reducible apply maybeAudit_after)
    | (with_reducible apply Built.audited_after)
    | (intro _; try dsimp only)
    | exact within_trans (by decide) hS
    | exact covers_trans (by decide +kernel) hW
    | exact rows_one hW (by decide +kernel)
    | exact rows_row hW (by decide +kernel) (by decide)
    | split

theorem postCmd_after (h : Changes S W d e) (hS : within [.regs, .chans, .lq, .out, .sv, .hs] S = true) (hW : covers [.row 0x5014 2 0x800 6, .row 0x5014 2 0x800 24, .row 0x2100c 32 0x40 3, .row 0x2100c 32 0x40 4, .row 0x2100c 32 0x40 5, .row 0x21024 32 0x40 0, .row 0x40304 24 0x2000 1, .row 0x40308 24 0x2000 8, .row 0x40308 24 0x2000 24, .row 0x403e4 24 0x2000 31] W = true) (n : Nat) (ws : List Word) :
    Changes S W d (postCmd n ws e) := by
  unfold postCmd
  try dsimp only
  repeat' first
    | (with_reducible assumption)
    | (with_reducible refine ite_after ?_ ?_)
    | (with_reducible apply each_after)
    | (with_reducible apply pcmdWord_after)
    | (intro _; try dsimp only)
    | exact within_trans (by decide) hS
    | exact covers_trans (by decide +kernel) hW
    | exact rows_row hW (by decide +kernel) (by decide)
    | split

theorem buildWork_after (h : Changes S W d e) (hS : within [.regs, .mem, .lq, .out, .freeCtr, .sv, .hs] S = true) (hW : covers [.grid 0x70120 8 0x80 8 0x4 0, .one 65667, .one 1573054, .one 1704158, .one 1835222, .row 0x5014 2 0x800 6, .row 0x5014 2 0x800 24, .row 0x2100c 32 0x40 3, .row 0x2100c 32 0x40 4, .row 0x2100c 32 0x40 5, .row 0x21024 32 0x40 0] W = true) (w : Work) :
    Changes S W d (buildWork w e).2 := by
  unfold buildWork
  try dsimp only
  repeat' first
    | (with_reducible assumption)
    | (with_reducible refine ite_after ?_ ?_)
    | (with_reducible apply replyApplied_after)
    | (with_reducible apply Dev.modSv_after)
    | (with_reducible apply each_after)
    | (with_reducible apply lower_after)
    | (with_reducible apply Dev.owe_after)
    | (with_reducible apply recordUpdate_after)
    | (with_reducible apply buildCmd_after)
    | (with_reducible apply auditOf_after)
    | (with_reducible apply clearBit_after)
    | (intro _; try dsimp only)
    | exact within_trans (by decide) hS
    | exact covers_trans (by decide +kernel) hW
    | exact rows_one hW (by decide +kernel)
    | exact rows_row hW (by decide +kernel) (by decide)
    | exact rows_grid hW (by decide +kernel) (by decide) (by decide)
    | split

theorem journalCommit_after (h : Changes S W d e) (hS : within [.regs, .mem, .lq, .out, .freeCtr, .sv, .hs] S = true) (hW : covers [.grid 0x70120 8 0x80 8 0x4 0, .one 65667, .one 1573054, .one 1704158, .one 1835222, .row 0x5014 2 0x800 6, .row 0x5014 2 0x800 24, .row 0x2100c 32 0x40 3, .row 0x2100c 32 0x40 4, .row 0x2100c 32 0x40 5, .row 0x21024 32 0x40 0] W = true) :
    Changes S W d (journalCommit e) := by
  unfold journalCommit
  try dsimp only
  repeat' first
    | (with_reducible assumption)
    | (with_reducible refine ite_after ?_ ?_)
    | (with_reducible apply Dev.post_after)
    | (with_reducible apply Dev.modSv_after)
    | (with_reducible apply each_after)
    | (with_reducible apply commitRecord_after)
    | (with_reducible apply buildWork_after)
    | (intro _; try dsimp only)
    | exact within_trans (by decide) hS
    | exact covers_trans (by decide +kernel) hW
    | exact rows_one hW (by decide +kernel)
    | exact rows_row hW (by decide +kernel) (by decide)
    | exact rows_grid hW (by decide +kernel) (by decide) (by decide)
    | split
    | (have q := congrArg Prod.snd ‹(_ : Option Built × Dev) = _›; dsimp only at q; rw [← q]; clear q)
    | (have q := congrArg Prod.snd ‹(_ : Dev → Dev) = _›; dsimp only at q; rw [← q]; clear q)

theorem journalWaitExpiry_after (h : Changes S W d e) (hS : within [.regs, .mem, .time, .lq, .out, .freeCtr, .clk, .sv, .hs] S = true) (hW : covers [.grid 0x70120 8 0x80 8 0x4 0, .one 65667, .one 98752, .one 1573054, .one 1704158, .one 1835222, .row 0x5014 2 0x800 6, .row 0x5014 2 0x800 24, .row 0x2100c 32 0x40 3, .row 0x2100c 32 0x40 4, .row 0x2100c 32 0x40 5, .row 0x21024 32 0x40 0] W = true) :
    Changes S W d (journalWaitExpiry e) := by
  unfold journalWaitExpiry
  try dsimp only
  repeat' first
    | (with_reducible assumption)
    | (with_reducible refine ite_after ?_ ?_)
    | (with_reducible apply replyApplied_after)
    | (with_reducible apply Dev.modSv_after)
    | (with_reducible apply Dev.reach_after)
    | (with_reducible apply buildWork_after)
    | (intro _; try dsimp only)
    | exact within_trans (by decide) hS
    | exact covers_trans (by decide +kernel) hW
    | exact rows_one hW (by decide +kernel)
    | exact rows_row hW (by decide +kernel) (by decide)
    | exact rows_grid hW (by decide +kernel) (by decide) (by decide)
    | split
    | (have q := congrArg Prod.snd ‹(_ : Option Built × Dev) = _›; dsimp only at q; rw [← q]; clear q)

theorem journalApply_after (h : Changes S W d e) (hS : within [.regs, .mem, .chans, .lq, .out, .sv, .hs] S = true) (hW : covers [.one 1704158, .one 1704224, .row 0x5014 2 0x800 6, .row 0x5014 2 0x800 24, .row 0x2100c 32 0x40 3, .row 0x2100c 32 0x40 4, .row 0x2100c 32 0x40 5, .row 0x21024 32 0x40 0, .row 0x40304 24 0x2000 1, .row 0x40308 24 0x2000 8, .row 0x40308 24 0x2000 24, .row 0x403e4 24 0x2000 31] W = true) :
    Changes S W d (journalApply e) := by
  unfold journalApply
  try dsimp only
  repeat' first
    | (with_reducible assumption)
    | (with_reducible refine ite_after ?_ ?_)
    | (with_reducible apply wr_after)
    | (with_reducible apply Dev.modSv_after)
    | (with_reducible apply each_after)
    | (with_reducible apply mramWrite_after)
    | (with_reducible apply reply_after)
    | (with_reducible apply postCmd_after)
    | (intro _; try dsimp only)
    | exact within_trans (by decide) hS
    | exact covers_trans (by decide +kernel) hW
    | exact rows_one hW (by decide +kernel)
    | exact rows_row hW (by decide +kernel) (by decide)
    | split
    | (with_reducible apply set_mem_after)
    | (with_reducible exact Dev.Canonical.mem ‹_›)
    | (with_reducible apply Memory.wf_write)
    | (with_reducible apply Memory.wf_set)
    | (with_reducible apply Memory.wf_forget)
    | (with_reducible apply Memory.wf_foldl)
    | (with_reducible apply applyEntries_wf)
    | (rename_i can; exact can.mem)
    | ((with_reducible show Changes _ _ _ (Dev.mk _ _ _ _ _ _ _ _ _ _ _ _ _ _ _ _ _ _ _ _ _ _ _ _ _ _ _ _ _ _)); refine mk_after ?_ (.inr (within_mem hS (by decide))) (.inl rfl) (.inl rfl) (.inl rfl) (.inl rfl) (.inl rfl) (.inl rfl) (.inl rfl) (.inl rfl) (.inl rfl) (.inl rfl) (.inl rfl) (.inl rfl) (.inl rfl) (.inl rfl) (.inl rfl) (.inl rfl) (.inl rfl) (.inl rfl) (.inl rfl) (.inl rfl) (.inl rfl) (.inl rfl) (.inl rfl) (.inl rfl) (.inl rfl) (.inl rfl) (.inl rfl) (.inl rfl) (fun can => by repeat' first | (with_reducible exact can.mem) | (with_reducible assumption) | (with_reducible apply Memory.wf_foldl) | intro _ | (with_reducible apply Memory.wf_write) | (with_reducible apply Memory.wf_set) | (with_reducible apply applyEntries_wf) | (with_reducible apply Memory.wf_forget) | (with_reducible apply Memory.wf_filter) | exact can.mem) (fun can => can.shadow))

theorem verdictOf_after (h : Changes S W d e) (hS : within [.freeCtr] S = true) (hW : covers [] W = true) (s0 : Sighting) (r : Option (List Byte)) (authOk : Bool) :
    Changes S W d (verdictOf s0 r authOk e).2 := by
  unfold verdictOf
  try dsimp only
  repeat' first
    | (with_reducible assumption)
    | (with_reducible refine ite_after ?_ ?_)
    | (with_reducible apply free_after)
    | (intro _; try dsimp only)
    | exact within_trans (by decide) hS
    | split

theorem decide__after (h : Changes S W d e) (hS : within [.freeCtr, .sv] S = true) (hW : covers [] W = true) (i : Option Nat) (s0 : Sighting) (authOk : Bool) :
    Changes S W d (decide_ i s0 authOk e) := by
  unfold decide_
  try dsimp only
  repeat' first
    | (with_reducible assumption)
    | (with_reducible refine ite_after ?_ ?_)
    | (with_reducible apply Dev.modSv_after)
    | (with_reducible apply verdictOf_after)
    | (with_reducible apply Dev.owe_after)
    | (intro _; try dsimp only)
    | exact within_trans (by decide) hS
    | split

theorem onTag_after (h : Changes S W d e) (hS : within [.regs, .chans, .lq, .out, .freeCtr, .sv, .hs] S = true) (hW : covers [.row 0x5014 2 0x800 6, .row 0x5014 2 0x800 24, .row 0x2100c 32 0x40 3, .row 0x2100c 32 0x40 4, .row 0x2100c 32 0x40 5, .row 0x21024 32 0x40 0, .row 0x40304 24 0x2000 1, .row 0x40308 24 0x2000 8, .row 0x40308 24 0x2000 24, .row 0x403e4 24 0x2000 31] W = true) (ch : Nat) (ws : List Word) :
    Changes S W d (onTag ch ws e) := by
  unfold onTag
  try dsimp only
  repeat' first
    | (with_reducible assumption)
    | (with_reducible refine ite_after ?_ ?_)
    | (with_reducible apply decide__after)
    | (with_reducible apply Dev.modSv_after)
    | (with_reducible apply postCmd_after)
    | (intro _; try dsimp only)
    | exact within_trans (by decide) hS
    | exact covers_trans (by decide +kernel) hW
    | exact rows_row hW (by decide +kernel) (by decide)
    | split

theorem onExchange_after (h : Changes S W d e) (hS : within [.freeCtr, .sv] S = true) (hW : covers [] W = true) (ch : Nat) (ws : List Word) :
    Changes S W d (onExchange ch ws e) := by
  unfold onExchange
  try dsimp only
  repeat' first
    | (with_reducible assumption)
    | (with_reducible refine ite_after ?_ ?_)
    | (with_reducible apply decide__after)
    | (with_reducible apply Dev.modSv_after)
    | (with_reducible apply Dev.owe_after)
    | (intro _; try dsimp only)
    | exact within_trans (by decide) hS
    | split

theorem coalesceTimer_after (h : Changes S W d e) (hS : within [.regs, .time, .clk, .sv] S = true) (hW : covers [.one 98752] W = true) :
    Changes S W d (coalesceTimer e) := by
  unfold coalesceTimer
  try dsimp only
  repeat' first
    | (with_reducible assumption)
    | (with_reducible refine ite_after ?_ ?_)
    | (with_reducible apply Dev.modSv_after)
    | (with_reducible apply Dev.owe_after)
    | (with_reducible apply Dev.reach_after)
    | (intro _; try dsimp only)
    | exact within_trans (by decide) hS
    | exact covers_trans (by decide) hW
    | exact rows_one hW (by decide)
    | split

theorem absenceTimeout_after (h : Changes S W d e) (hS : within [.regs, .time, .clk, .sv] S = true) (hW : covers [.one 98752] W = true) (i : Nat) :
    Changes S W d (absenceTimeout i e) := by
  unfold absenceTimeout
  try dsimp only
  repeat' first
    | (with_reducible assumption)
    | (with_reducible refine ite_after ?_ ?_)
    | (with_reducible apply Dev.modSv_after)
    | (with_reducible apply Dev.owe_after)
    | (with_reducible apply Dev.reach_after)
    | (intro _; try dsimp only)
    | exact within_trans (by decide) hS
    | exact covers_trans (by decide) hW
    | exact rows_one hW (by decide)
    | split

theorem refuseUnlisted_after (h : Changes S W d e) (hS : within [.regs, .mem, .lq, .out, .sv, .hs] S = true) (hW : covers [.one 1704158, .row 0x5014 2 0x800 6, .row 0x5014 2 0x800 24, .row 0x2100c 32 0x40 3, .row 0x2100c 32 0x40 4, .row 0x2100c 32 0x40 5, .row 0x21024 32 0x40 0] W = true) (v : Via) (x1 : Nat) :
    Changes S W d (refuseUnlisted v x1 e) := by
  induction x1 generalizing e with
  | zero =>
    unfold refuseUnlisted
    try dsimp only
    repeat' first
      | (with_reducible assumption)
      | (with_reducible refine ite_after ?_ ?_)
      | (with_reducible apply ih)
      | (with_reducible apply Dev.modSv_after)
      | (with_reducible apply reply_after)
      | (intro _; try dsimp only)
      | exact within_trans (by decide) hS
      | exact covers_trans (by decide +kernel) hW
      | exact rows_one hW (by decide +kernel)
      | exact rows_row hW (by decide +kernel) (by decide)
      | split
      | (have q := congrArg Prod.snd ‹(_ : Dev → Dev) = _›; dsimp only at q; rw [← q]; clear q)
  | succ _ ih =>
    unfold refuseUnlisted
    try dsimp only
    repeat' first
      | (with_reducible assumption)
      | (with_reducible refine ite_after ?_ ?_)
      | (with_reducible apply ih)
      | (with_reducible apply Dev.modSv_after)
      | (with_reducible apply reply_after)
      | (intro _; try dsimp only)
      | exact within_trans (by decide) hS
      | exact covers_trans (by decide +kernel) hW
      | exact rows_one hW (by decide +kernel)
      | exact rows_row hW (by decide +kernel) (by decide)
      | split
      | (have q := congrArg Prod.snd ‹(_ : Dev → Dev) = _›; dsimp only at q; rw [← q]; clear q)

theorem settleServices_after (h : Changes S W d e) (hS : within [.regs, .mem, .lq, .out, .sv, .hs] S = true) (hW : covers [.one 1704158, .row 0x5014 2 0x800 6, .row 0x5014 2 0x800 24, .row 0x2100c 32 0x40 3, .row 0x2100c 32 0x40 4, .row 0x2100c 32 0x40 5, .row 0x21024 32 0x40 0] W = true) :
    Changes S W d (settleServices e) := by
  unfold settleServices
  try dsimp only
  repeat' first
    | (with_reducible assumption)
    | (with_reducible refine ite_after ?_ ?_)
    | (with_reducible apply refuseUnlisted_after)
    | (with_reducible apply each_after)
    | (intro _; try dsimp only)
    | exact within_trans (by decide) hS
    | exact covers_trans (by decide +kernel) hW
    | exact rows_one hW (by decide +kernel)
    | exact rows_row hW (by decide +kernel) (by decide)
    | split

theorem keyBlobSave_after (h : Changes S W d e) (hS : within [.sv] S = true) (hW : covers [] W = true) :
    Changes S W d (keyBlobSave e) := by
  unfold keyBlobSave
  try dsimp only
  repeat' first
    | (with_reducible assumption)
    | (with_reducible refine ite_after ?_ ?_)
    | (with_reducible apply Dev.owe_after)
    | (intro _; try dsimp only)
    | exact within_trans (by decide) hS
    | split

theorem nbTableSave_after (h : Changes S W d e) (hS : within [.sv] S = true) (hW : covers [] W = true) :
    Changes S W d (nbTableSave e) := by
  unfold nbTableSave
  try dsimp only
  repeat' first
    | (with_reducible assumption)
    | (with_reducible refine ite_after ?_ ?_)
    | (with_reducible apply Dev.owe_after)
    | (intro _; try dsimp only)
    | exact within_trans (by decide) hS
    | split

theorem emuImagePersist_after (h : Changes S W d e) (hS : within [.sv] S = true) (hW : covers [] W = true) (k : Nat) :
    Changes S W d (emuImagePersist k e) := by
  unfold emuImagePersist
  try dsimp only
  repeat' first
    | (with_reducible assumption)
    | (with_reducible refine ite_after ?_ ?_)
    | (with_reducible apply Dev.owe_after)
    | (intro _; try dsimp only)
    | exact within_trans (by decide) hS
    | split

theorem calCountJournal_after (h : Changes S W d e) (hS : within [.sv] S = true) (hW : covers [] W = true) :
    Changes S W d (calCountJournal e) := by
  unfold calCountJournal
  try dsimp only
  repeat' first
    | (with_reducible assumption)
    | (with_reducible refine ite_after ?_ ?_)
    | (with_reducible apply Dev.owe_after)
    | (intro _; try dsimp only)
    | exact within_trans (by decide) hS
    | split

theorem restoreKeys_after (h : Changes S W d e) (hS : within [.regs, .chans, .freeCtr, .cy, .sv] S = true) (hW : covers [.one 1573032, .one 1573054, .one 1573055] W = true) :
    Changes S W d (restoreKeys e) := by
  unfold restoreKeys
  try dsimp only
  repeat' first
    | (with_reducible assumption)
    | (with_reducible refine ite_after ?_ ?_)
    | (with_reducible apply each_after)
    | (with_reducible apply keyCommand_after)
    | (with_reducible apply Dev.modCy_after)
    | (with_reducible apply audit_after)
    | (intro _; try dsimp only)
    | exact within_trans (by decide) hS
    | exact covers_trans (by decide) hW
    | exact rows_one hW (by decide)
    | split

theorem restoreTables_after (h : Changes S W d e) (hS : within [.regs, .ts] S = true) (hW : covers [.one 1835223] W = true) :
    Changes S W d (restoreTables e) := by
  unfold restoreTables
  try dsimp only
  repeat' first
    | (with_reducible assumption)
    | (with_reducible refine ite_after ?_ ?_)
    | (with_reducible apply raise_after)
    | (intro _; try dsimp only)
    | exact within_trans (by decide) hS
    | exact covers_trans (by decide) hW
    | exact rows_one hW (by decide)
    | split
    | (with_reducible apply set_ts_after)
    | ((with_reducible show Changes _ _ _ (Dev.mk _ _ _ _ _ _ _ _ _ _ _ _ _ _ _ _ _ _ _ _ _ _ _ _ _ _ _ _ _ _)); refine mk_after ?_ (.inl rfl) (.inl rfl) (.inl rfl) (.inl rfl) (.inl rfl) (.inr (within_mem hS (by decide))) (.inl rfl) (.inl rfl) (.inl rfl) (.inl rfl) (.inl rfl) (.inl rfl) (.inl rfl) (.inl rfl) (.inl rfl) (.inl rfl) (.inl rfl) (.inl rfl) (.inl rfl) (.inl rfl) (.inl rfl) (.inl rfl) (.inl rfl) (.inl rfl) (.inl rfl) (.inl rfl) (.inl rfl) (.inl rfl) (.inl rfl) (fun can => can.mem) (fun can => can.shadow))

theorem restoreImages_after (h : Changes S W d e) (hS : within [.shadow] S = true) (hW : covers [] W = true) :
    Changes S W d (restoreImages e) := by
  unfold restoreImages
  try dsimp only
  refine mk_after h (.inl rfl) (.inl rfl) (.inl rfl) (.inl rfl) (.inl rfl) (.inl rfl) (.inl rfl) (.inl rfl) (.inl rfl) (.inl rfl) (.inl rfl) (.inl rfl) (.inl rfl) (.inl rfl) (.inl rfl) (.inr (within_mem hS (by decide))) (.inl rfl) (.inl rfl) (.inl rfl) (.inl rfl) (.inl rfl) (.inl rfl) (.inl rfl) (.inl rfl) (.inl rfl) (.inl rfl) (.inl rfl) (.inl rfl) (.inl rfl) (fun can => can.mem) fun can => ?_
  refine Memory.wf_shift _ (Memory.wf_filter _ (Dev.mview_wf can)) fun c hc => ?_
  have := (List.mem_filter.1 hc).2
  simp only [Bool.and_eq_true, decide_eq_true_eq] at this
  exact this.1.1

theorem closeIntents_after (h : Changes S W d e) (hS : within [.regs, .sv] S = true) (hW : covers [.one 1704212] W = true) :
    Changes S W d (closeIntents e) := by
  unfold closeIntents
  try dsimp only
  repeat' first
    | (with_reducible assumption)
    | (with_reducible refine ite_after ?_ ?_)
    | (with_reducible apply wr_after)
    | (with_reducible apply each_after)
    | (with_reducible apply Dev.owe_after)
    | (intro _; try dsimp only)
    | exact within_trans (by decide) hS
    | exact covers_trans (by decide) hW
    | exact rows_one hW (by decide)
    | split

theorem runtimeStart_after (h : Changes S W d e) (hS : within [.regs, .boot, .chans, .ts, .freeCtr, .cy, .shadow, .sv] S = true) (hW : covers [.one 672, .one 1573032, .one 1573054, .one 1573055, .one 1704160, .one 1704188, .one 1704212, .one 1835223] W = true) :
    Changes S W d (runtimeStart e) := by
  unfold runtimeStart
  try dsimp only
  repeat' first
    | (with_reducible assumption)
    | (with_reducible refine ite_after ?_ ?_)
    | (with_reducible apply wr_after)
    | (with_reducible apply Dev.modSv_after)
    | (with_reducible apply restoreKeys_after)
    | (with_reducible apply closeIntents_after)
    | (with_reducible apply restoreImages_after)
    | (with_reducible apply restoreTables_after)
    | (with_reducible apply free_after)
    | (with_reducible apply audit_after)
    | (intro _; try dsimp only)
    | exact within_trans (by decide) hS
    | exact covers_trans (by decide +kernel) hW
    | exact rows_one hW (by decide +kernel)
    | split
    | (with_reducible apply set_boot_after)
    | ((with_reducible show Changes _ _ _ (Dev.mk _ _ _ _ _ _ _ _ _ _ _ _ _ _ _ _ _ _ _ _ _ _ _ _ _ _ _ _ _ _)); refine mk_after ?_ (.inl rfl) (.inl rfl) (.inl rfl) (.inr (within_mem hS (by decide))) (.inl rfl) (.inl rfl) (.inl rfl) (.inl rfl) (.inl rfl) (.inl rfl) (.inl rfl) (.inl rfl) (.inl rfl) (.inl rfl) (.inl rfl) (.inl rfl) (.inl rfl) (.inl rfl) (.inl rfl) (.inl rfl) (.inl rfl) (.inl rfl) (.inl rfl) (.inl rfl) (.inl rfl) (.inl rfl) (.inl rfl) (.inl rfl) (.inl rfl) (fun can => can.mem) (fun can => can.shadow))

theorem execKeyBlobSave_changes {s t : State} (h : execKeyBlobSave s = .next t) :
    t.pending = s.pending ∧ Changes [.out, .sv] [] s.dev t.dev := by
  unfold execKeyBlobSave at h
  refine act_changes (by decide) h fun e h => ?_
  repeat' first
    | (with_reducible assumption)
    | (with_reducible refine ite_after ?_ ?_)
    | (with_reducible apply keyBlobSave_after)
    | (intro _; try dsimp only)
    | exact within_trans (by decide) (within_refl _)
    | split

theorem execEmuImagePersist_changes {s t : State} (k : Fin 8) (h : execEmuImagePersist k s = .next t) :
    t.pending = s.pending ∧ Changes [.out, .sv] [] s.dev t.dev := by
  unfold execEmuImagePersist at h
  refine act_changes (by decide) h fun e h => ?_
  repeat' first
    | (with_reducible assumption)
    | (with_reducible refine ite_after ?_ ?_)
    | (with_reducible apply emuImagePersist_after)
    | (intro _; try dsimp only)
    | exact within_trans (by decide) (within_refl _)
    | split

theorem execJournalCommit_changes {s t : State} (h : execJournalCommit s = .next t) :
    t.pending = s.pending ∧ Changes [.regs, .mem, .lq, .out, .freeCtr, .sv, .hs] [.grid 0x70120 8 0x80 8 0x4 0, .one 65667, .one 1573054, .one 1704158, .one 1835222, .row 0x5014 2 0x800 6, .row 0x5014 2 0x800 24, .row 0x2100c 32 0x40 3, .row 0x2100c 32 0x40 4, .row 0x2100c 32 0x40 5, .row 0x21024 32 0x40 0] s.dev t.dev := by
  unfold execJournalCommit at h
  refine act_changes (by decide) h fun e h => ?_
  repeat' first
    | (with_reducible assumption)
    | (with_reducible refine ite_after ?_ ?_)
    | (with_reducible apply settleServices_after)
    | (with_reducible apply journalCommit_after)
    | (intro _; try dsimp only)
    | exact within_trans (by decide) (within_refl _)
    | exact covers_trans (by decide +kernel) (covers_refl _)
    | exact rows_one (covers_refl _) (by decide +kernel)
    | exact rows_row (covers_refl _) (by decide +kernel) (by decide)
    | exact rows_grid (covers_refl _) (by decide +kernel) (by decide) (by decide)
    | split

theorem execJournalWaitExpiry_changes {s t : State} (h : execJournalWaitExpiry s = .next t) :
    t.pending = s.pending ∧ Changes [.regs, .mem, .time, .lq, .out, .freeCtr, .clk, .sv, .hs] [.grid 0x70120 8 0x80 8 0x4 0, .one 65667, .one 98752, .one 1573054, .one 1704158, .one 1835222, .row 0x5014 2 0x800 6, .row 0x5014 2 0x800 24, .row 0x2100c 32 0x40 3, .row 0x2100c 32 0x40 4, .row 0x2100c 32 0x40 5, .row 0x21024 32 0x40 0] s.dev t.dev := by
  unfold execJournalWaitExpiry at h
  refine act_changes (by decide) h fun e h => ?_
  repeat' first
    | (with_reducible assumption)
    | (with_reducible refine ite_after ?_ ?_)
    | (with_reducible apply settleServices_after)
    | (with_reducible apply journalWaitExpiry_after)
    | (intro _; try dsimp only)
    | exact within_trans (by decide) (within_refl _)
    | exact covers_trans (by decide +kernel) (covers_refl _)
    | exact rows_one (covers_refl _) (by decide +kernel)
    | exact rows_row (covers_refl _) (by decide +kernel) (by decide)
    | exact rows_grid (covers_refl _) (by decide +kernel) (by decide) (by decide)
    | split

theorem execCoalesceTimer_changes {s t : State} (h : execCoalesceTimer s = .next t) :
    t.pending = s.pending ∧ Changes [.regs, .time, .out, .clk, .sv] [.one 98752] s.dev t.dev := by
  unfold execCoalesceTimer at h
  refine act_changes (by decide) h fun e h => ?_
  repeat' first
    | (with_reducible assumption)
    | (with_reducible refine ite_after ?_ ?_)
    | (with_reducible apply coalesceTimer_after)
    | (intro _; try dsimp only)
    | exact within_trans (by decide) (within_refl _)
    | exact covers_trans (by decide) (covers_refl _)
    | exact rows_one (covers_refl _) (by decide)
    | split

theorem execAbsenceTimeout_changes {s t : State} (rec : Nat) (h : execAbsenceTimeout rec s = .next t) :
    t.pending = s.pending ∧ Changes [.regs, .time, .out, .clk, .sv] [.one 98752] s.dev t.dev := by
  unfold execAbsenceTimeout at h
  refine act_changes (by decide) h fun e h => ?_
  repeat' first
    | (with_reducible assumption)
    | (with_reducible refine ite_after ?_ ?_)
    | (with_reducible apply absenceTimeout_after)
    | (intro _; try dsimp only)
    | exact within_trans (by decide) (within_refl _)
    | exact covers_trans (by decide) (covers_refl _)
    | exact rows_one (covers_refl _) (by decide)
    | split

theorem execNbTableSave_changes {s t : State} (h : execNbTableSave s = .next t) :
    t.pending = s.pending ∧ Changes [.out, .sv] [] s.dev t.dev := by
  unfold execNbTableSave at h
  refine act_changes (by decide) h fun e h => ?_
  repeat' first
    | (with_reducible assumption)
    | (with_reducible refine ite_after ?_ ?_)
    | (with_reducible apply nbTableSave_after)
    | (intro _; try dsimp only)
    | exact within_trans (by decide) (within_refl _)
    | split

theorem execCalCountJournal_changes {s t : State} (h : execCalCountJournal s = .next t) :
    t.pending = s.pending ∧ Changes [.out, .sv] [] s.dev t.dev := by
  unfold execCalCountJournal at h
  refine act_changes (by decide) h fun e h => ?_
  repeat' first
    | (with_reducible assumption)
    | (with_reducible refine ite_after ?_ ?_)
    | (with_reducible apply calCountJournal_after)
    | (intro _; try dsimp only)
    | exact within_trans (by decide) (within_refl _)
    | split

end

end Sys2Proof.Machine
end

