-- ==== Sys2Proof/Laws/ChangesServices.lean ====
section
/-!
SUPPORT. What every operation of Machine/Services can change.
-/

set_option Elab.async false
set_option linter.all false

namespace Sys2Proof.Machine

section
variable {S : List Part} {W : List Span} {d e : Dev}

theorem arrive_after (h : Changes S W d e) (hS : within [.regs, .mem, .lq, .out, .sv, .hs] S = true) (hW : covers [.one 1704158, .row 0x5014 2 0x800 6, .row 0x5014 2 0x800 24, .row 0x2100c 32 0x40 3, .row 0x2100c 32 0x40 4, .row 0x2100c 32 0x40 5, .row 0x21024 32 0x40 0] W = true) (c : SvcCmd) :
    Changes S W d (arrive c e) := by
  unfold arrive
  try dsimp only
  repeat' first
    | (with_reducible assumption)
    | (with_reducible refine ite_after ?_ ?_)
    | (with_reducible apply Dev.modSv_after)
    | (with_reducible apply settleServices_after)
    | (intro _; try dsimp only)
    | exact within_trans (by decide) hS
    | exact covers_trans (by decide +kernel) hW
    | exact rows_one hW (by decide +kernel)
    | exact rows_row hW (by decide +kernel) (by decide)
    | split

theorem mboxWord_after (h : Changes S W d e) (hS : within [.regs, .mem, .lq, .out, .sv, .hs] S = true) (hW : covers [.errors, .one 1704157, .one 1704158, .one 1704159, .row 0x5014 2 0x800 6, .row 0x5014 2 0x800 24, .row 0x2100c 32 0x40 3, .row 0x2100c 32 0x40 4, .row 0x2100c 32 0x40 5, .row 0x21024 32 0x40 0] W = true) (p : Path) (w : Word) :
    Changes S W d (mboxWord p w e) := by
  unfold mboxWord
  try dsimp only
  repeat' first
    | (with_reducible assumption)
    | (with_reducible refine ite_after ?_ ?_)
    | (with_reducible apply raise_after)
    | (with_reducible apply Dev.modSv_after)
    | (with_reducible apply arrive_after)
    | (with_reducible apply errLocked_after)
    | (intro _; try dsimp only)
    | exact within_trans (by decide) hS
    | exact covers_trans (by decide +kernel) hW
    | exact rows_one hW (by decide +kernel)
    | exact rows_row hW (by decide +kernel) (by decide)
    | split

theorem mboxRead_after (h : Changes S W d e) (hS : within [.regs, .out, .sv, .hs] S = true) (hW : covers [.one 1704158, .one 1704159, .row 0x5014 2 0x800 24] W = true) (p : Path) :
    Changes S W d (mboxRead p e) := by
  unfold mboxRead
  try dsimp only
  repeat' first
    | (with_reducible assumption)
    | (with_reducible refine ite_after ?_ ?_)
    | (with_reducible apply Dev.modSv_after)
    | (with_reducible apply lower_after)
    | (with_reducible apply Dev.give_after)
    | (intro _; try dsimp only)
    | exact within_trans (by decide) hS
    | exact covers_trans (by decide) hW
    | exact rows_one hW (by decide)
    | exact rows_row hW (by decide) (by decide)
    | split

theorem serviceEcall_after (h : Changes S W d e) (hS : within [.regs, .mem, .lq, .out, .sv, .hs] S = true) (hW : covers [.one 1704158, .row 0x5014 2 0x800 6, .row 0x5014 2 0x800 24, .row 0x2100c 32 0x40 3, .row 0x2100c 32 0x40 4, .row 0x2100c 32 0x40 5, .row 0x21024 32 0x40 0] W = true) (core : Fin 4) (code : Nat) (addr : Nat) (plen : Nat) (buf : Nat) (size : Nat) :
    Changes S W d (serviceEcall core code addr plen buf size e) := by
  unfold serviceEcall
  try dsimp only
  repeat' first
    | (with_reducible assumption)
    | (with_reducible refine ite_after ?_ ?_)
    | (with_reducible apply Dev.modSv_after)
    | (with_reducible apply arrive_after)
    | (intro _; try dsimp only)
    | exact within_trans (by decide) hS
    | exact covers_trans (by decide +kernel) hW
    | exact rows_one hW (by decide +kernel)
    | exact rows_row hW (by decide +kernel) (by decide)
    | split

theorem runtimeItem_after (h : Changes S W d e) (hS : within [.regs, .mem, .chans, .lq, .out, .freeCtr, .sv, .hs] S = true) (hW : covers [.one 1704158, .row 0x5014 2 0x800 6, .row 0x5014 2 0x800 24, .row 0x2100c 32 0x40 3, .row 0x2100c 32 0x40 4, .row 0x2100c 32 0x40 5, .row 0x21024 32 0x40 0, .row 0x40304 24 0x2000 1, .row 0x40308 24 0x2000 8, .row 0x40308 24 0x2000 24, .row 0x403e4 24 0x2000 31] W = true) (i : Nat) (ws : List Word) :
    Changes S W d (runtimeItem i ws e) := by
  unfold runtimeItem
  try dsimp only
  repeat' first
    | (with_reducible assumption)
    | (with_reducible refine ite_after ?_ ?_)
    | (with_reducible apply Dev.modSv_after)
    | (with_reducible apply arrive_after)
    | (with_reducible apply onTag_after)
    | (with_reducible apply onExchange_after)
    | (intro _; try dsimp only)
    | exact within_trans (by decide) hS
    | exact covers_trans (by decide +kernel) hW
    | exact rows_one hW (by decide +kernel)
    | exact rows_row hW (by decide +kernel) (by decide)
    | split

theorem runtimeTakes_after (h : Changes S W d e) (hS : within [.regs, .mem, .chans, .lq, .out, .freeCtr, .sv, .hs] S = true) (hW : covers [.one 1704158, .row 0x5014 2 0x800 6, .row 0x5014 2 0x800 24, .row 0x2100c 32 0x40 3, .row 0x2100c 32 0x40 4, .row 0x2100c 32 0x40 5, .row 0x21024 32 0x40 0, .row 0x40304 24 0x2000 1, .row 0x40308 24 0x2000 8, .row 0x40308 24 0x2000 24, .row 0x403e4 24 0x2000 31] W = true) (i : Nat) (x1 : Nat) :
    Changes S W d (runtimeTakes i x1 e) := by
  induction x1 generalizing e with
  | zero =>
    unfold runtimeTakes
    try dsimp only
    repeat' first
      | (with_reducible assumption)
      | (with_reducible refine ite_after ?_ ?_)
      | (with_reducible apply ih)
      | (with_reducible apply runtimeItem_after)
      | (with_reducible apply Dev.setTaken_after)
      | (intro _; try dsimp only)
      | exact within_trans (by decide) hS
      | exact covers_trans (by decide +kernel) hW
      | exact rows_one hW (by decide +kernel)
      | exact rows_row hW (by decide +kernel) (by decide)
      | split
      | (have q := congrArg Prod.snd ‹(_ : Dev → Dev) = _›; dsimp only at q; rw [← q]; clear q)
  | succ _ ih =>
    unfold runtimeTakes
    try dsimp only
    repeat' first
      | (with_reducible assumption)
      | (with_reducible refine ite_after ?_ ?_)
      | (with_reducible apply ih)
      | (with_reducible apply runtimeItem_after)
      | (with_reducible apply Dev.setTaken_after)
      | (intro _; try dsimp only)
      | exact within_trans (by decide) hS
      | exact covers_trans (by decide +kernel) hW
      | exact rows_one hW (by decide +kernel)
      | exact rows_row hW (by decide +kernel) (by decide)
      | split
      | (have q := congrArg Prod.snd ‹(_ : Dev → Dev) = _›; dsimp only at q; rw [← q]; clear q)

theorem popAndTake_after (h : Changes S W d e) (hS : within [.regs, .mem, .chans, .lq, .out, .freeCtr, .hawserStatus, .jtagStatus, .sv, .hs] S = true) (hW : covers [.errors, .one 1704158, .row 0x5014 2 0x800 1, .row 0x5014 2 0x800 6, .row 0x5014 2 0x800 24, .row 0x2100c 32 0x40 1, .row 0x2100c 32 0x40 3, .row 0x2100c 32 0x40 4, .row 0x2100c 32 0x40 5, .row 0x2100c 32 0x40 24, .row 0x21024 32 0x40 0, .row 0x40304 24 0x2000 1, .row 0x40308 24 0x2000 8, .row 0x40308 24 0x2000 24, .row 0x403e4 24 0x2000 31] W = true) (p : Path) (i : Nat) :
    Changes S W d (popAndTake p i e) := by
  unfold popAndTake
  try dsimp only
  repeat' first
    | (with_reducible assumption)
    | (with_reducible refine ite_after ?_ ?_)
    | (with_reducible apply popBurst_after)
    | (with_reducible apply runtimeTakes_after)
    | (with_reducible apply onPort_after)
    | (intro _; try dsimp only)
    | exact within_trans (by decide) hS
    | exact covers_trans (by decide +kernel) hW
    | exact rows_one hW (by decide +kernel)
    | exact rows_row hW (by decide +kernel) (by decide)
    | split

theorem serve_after (h : Changes S W d e) (hS : within [.regs, .mem, .lq, .out, .sv, .hs] S = true) (hW : covers [.one 1704158, .row 0x5014 2 0x800 6, .row 0x5014 2 0x800 24, .row 0x2100c 32 0x40 3, .row 0x2100c 32 0x40 4, .row 0x2100c 32 0x40 5, .row 0x21024 32 0x40 0] W = true) (via : Via) (code : Nat)
    {f : SvcCmd → Dev → Dev} (hf : ∀ x0 e, Changes S W d e → Changes S W d (f x0 e)) :
    Changes S W d (serve via code f e) := by
  unfold serve
  try dsimp only
  repeat' first
    | (with_reducible assumption)
    | (with_reducible refine ite_after ?_ ?_)
    | (with_reducible apply hf)
    | (with_reducible apply Dev.modSv_after)
    | (with_reducible apply settleServices_after)
    | (with_reducible apply reply_after)
    | (intro _; try dsimp only)
    | exact within_trans (by decide) hS
    | exact covers_trans (by decide +kernel) hW
    | exact rows_one hW (by decide +kernel)
    | exact rows_row hW (by decide +kernel) (by decide)
    | split

theorem regLookup_after (h : Changes S W d e) (hS : within [.regs, .mem, .lq, .out, .sv, .hs] S = true) (hW : covers [.one 1704158, .row 0x5014 2 0x800 6, .row 0x5014 2 0x800 24, .row 0x2100c 32 0x40 3, .row 0x2100c 32 0x40 4, .row 0x2100c 32 0x40 5, .row 0x21024 32 0x40 0] W = true) (c : SvcCmd) :
    Changes S W d (regLookup c e) := by
  unfold regLookup
  try dsimp only
  repeat' first
    | (with_reducible assumption)
    | (with_reducible refine ite_after ?_ ?_)
    | (with_reducible apply replyApplied_after)
    | (intro _; try dsimp only)
    | exact within_trans (by decide) hS
    | exact covers_trans (by decide +kernel) hW
    | exact rows_one hW (by decide +kernel)
    | exact rows_row hW (by decide +kernel) (by decide)
    | split

theorem byJournal_after (h : Changes S W d e) (hS : within [.regs, .mem, .lq, .out, .sv, .hs] S = true) (hW : covers [.one 1704158, .row 0x5014 2 0x800 6, .row 0x5014 2 0x800 24, .row 0x2100c 32 0x40 3, .row 0x2100c 32 0x40 4, .row 0x2100c 32 0x40 5, .row 0x21024 32 0x40 0] W = true) (ok : SvcCmd → Bool) (c : SvcCmd) :
    Changes S W d (byJournal ok c e) := by
  unfold byJournal
  try dsimp only
  repeat' first
    | (with_reducible assumption)
    | (with_reducible refine ite_after ?_ ?_)
    | (with_reducible apply Dev.owe_after)
    | (with_reducible apply reply_after)
    | (intro _; try dsimp only)
    | exact within_trans (by decide) hS
    | exact covers_trans (by decide +kernel) hW
    | exact rows_one hW (by decide +kernel)
    | exact rows_row hW (by decide +kernel) (by decide)
    | split

theorem regPut_after (h : Changes S W d e) (hS : within [.regs, .mem, .lq, .out, .sv, .hs] S = true) (hW : covers [.one 1704158, .row 0x5014 2 0x800 6, .row 0x5014 2 0x800 24, .row 0x2100c 32 0x40 3, .row 0x2100c 32 0x40 4, .row 0x2100c 32 0x40 5, .row 0x21024 32 0x40 0] W = true) (c : SvcCmd) :
    Changes S W d (regPut c e) := by
  unfold regPut
  try dsimp only
  repeat' first
    | (with_reducible assumption)
    | (with_reducible refine ite_after ?_ ?_)
    | (with_reducible apply byJournal_after)
    | (intro _; try dsimp only)
    | exact within_trans (by decide) hS
    | exact covers_trans (by decide +kernel) hW
    | exact rows_one hW (by decide +kernel)
    | exact rows_row hW (by decide +kernel) (by decide)
    | split

theorem regQuery_after (h : Changes S W d e) (hS : within [.regs, .mem, .lq, .out, .sv, .hs] S = true) (hW : covers [.one 1704158, .row 0x5014 2 0x800 6, .row 0x5014 2 0x800 24, .row 0x2100c 32 0x40 3, .row 0x2100c 32 0x40 4, .row 0x2100c 32 0x40 5, .row 0x21024 32 0x40 0] W = true) (c : SvcCmd) :
    Changes S W d (regQuery c e) := by
  unfold regQuery
  try dsimp only
  repeat' first
    | (with_reducible assumption)
    | (with_reducible refine ite_after ?_ ?_)
    | (with_reducible apply replyApplied_after)
    | (with_reducible apply reply_after)
    | (intro _; try dsimp only)
    | exact within_trans (by decide) hS
    | exact covers_trans (by decide +kernel) hW
    | exact rows_one hW (by decide +kernel)
    | exact rows_row hW (by decide +kernel) (by decide)
    | split

theorem regStats_after (h : Changes S W d e) (hS : within [.regs, .mem, .lq, .out, .sv, .hs] S = true) (hW : covers [.one 1704158, .row 0x5014 2 0x800 6, .row 0x5014 2 0x800 24, .row 0x2100c 32 0x40 3, .row 0x2100c 32 0x40 4, .row 0x2100c 32 0x40 5, .row 0x21024 32 0x40 0] W = true) (c : SvcCmd) :
    Changes S W d (regStats c e) := by
  unfold regStats
  try dsimp only
  repeat' first
    | (with_reducible assumption)
    | (with_reducible refine ite_after ?_ ?_)
    | (with_reducible apply replyApplied_after)
    | (with_reducible apply foldl_after)
    | (intro _; try dsimp only)
    | exact within_trans (by decide) hS
    | exact covers_trans (by decide +kernel) hW
    | exact rows_one hW (by decide +kernel)
    | exact rows_row hW (by decide +kernel) (by decide)
    | split

theorem regCompact_after (h : Changes S W d e) (hS : within [.regs, .mem, .lq, .out, .sv, .hs] S = true) (hW : covers [.one 1704158, .row 0x5014 2 0x800 6, .row 0x5014 2 0x800 24, .row 0x2100c 32 0x40 3, .row 0x2100c 32 0x40 4, .row 0x2100c 32 0x40 5, .row 0x21024 32 0x40 0] W = true) (c : SvcCmd) :
    Changes S W d (regCompact c e) := by
  unfold regCompact
  try dsimp only
  repeat' first
    | (with_reducible assumption)
    | (with_reducible refine ite_after ?_ ?_)
    | (with_reducible apply Dev.owe_after)
    | (with_reducible apply reply_after)
    | (intro _; try dsimp only)
    | exact within_trans (by decide) hS
    | exact covers_trans (by decide +kernel) hW
    | exact rows_one hW (by decide +kernel)
    | exact rows_row hW (by decide +kernel) (by decide)
    | split

theorem regScrub_after (h : Changes S W d e) (hS : within [.regs, .mem, .lq, .out, .sv, .hs] S = true) (hW : covers [.one 1704158, .row 0x5014 2 0x800 6, .row 0x5014 2 0x800 24, .row 0x2100c 32 0x40 3, .row 0x2100c 32 0x40 4, .row 0x2100c 32 0x40 5, .row 0x21024 32 0x40 0] W = true) (c : SvcCmd) :
    Changes S W d (regScrub c e) := by
  unfold regScrub
  try dsimp only
  repeat' first
    | (with_reducible assumption)
    | (with_reducible refine ite_after ?_ ?_)
    | (with_reducible apply replyApplied_after)
    | (with_reducible apply reply_after)
    | (intro _; try dsimp only)
    | exact within_trans (by decide) hS
    | exact covers_trans (by decide +kernel) hW
    | exact rows_one hW (by decide +kernel)
    | exact rows_row hW (by decide +kernel) (by decide)
    | split

theorem policyGet_after (h : Changes S W d e) (hS : within [.regs, .mem, .lq, .out, .sv, .hs] S = true) (hW : covers [.one 1704158, .row 0x5014 2 0x800 6, .row 0x5014 2 0x800 24, .row 0x2100c 32 0x40 3, .row 0x2100c 32 0x40 4, .row 0x2100c 32 0x40 5, .row 0x21024 32 0x40 0] W = true) (c : SvcCmd) :
    Changes S W d (policyGet c e) := by
  unfold policyGet
  try dsimp only
  repeat' first
    | (with_reducible assumption)
    | (with_reducible refine ite_after ?_ ?_)
    | (with_reducible apply replyApplied_after)
    | (with_reducible apply reply_after)
    | (intro _; try dsimp only)
    | exact within_trans (by decide) hS
    | exact covers_trans (by decide +kernel) hW
    | exact rows_one hW (by decide +kernel)
    | exact rows_row hW (by decide +kernel) (by decide)
    | split

theorem auditRead_after (h : Changes S W d e) (hS : within [.regs, .mem, .lq, .out, .sv, .hs] S = true) (hW : covers [.one 1704158, .row 0x5014 2 0x800 6, .row 0x5014 2 0x800 24, .row 0x2100c 32 0x40 3, .row 0x2100c 32 0x40 4, .row 0x2100c 32 0x40 5, .row 0x21024 32 0x40 0] W = true) (c : SvcCmd) :
    Changes S W d (auditRead c e) := by
  unfold auditRead
  try dsimp only
  repeat' first
    | (with_reducible assumption)
    | (with_reducible refine ite_after ?_ ?_)
    | (with_reducible apply replyApplied_after)
    | (with_reducible apply reply_after)
    | (intro _; try dsimp only)
    | exact within_trans (by decide) hS
    | exact covers_trans (by decide +kernel) hW
    | exact rows_one hW (by decide +kernel)
    | exact rows_row hW (by decide +kernel) (by decide)
    | split

theorem auditHeadCmd_after (h : Changes S W d e) (hS : within [.regs, .mem, .lq, .out, .sv, .hs] S = true) (hW : covers [.one 1704158, .row 0x5014 2 0x800 6, .row 0x5014 2 0x800 24, .row 0x2100c 32 0x40 3, .row 0x2100c 32 0x40 4, .row 0x2100c 32 0x40 5, .row 0x21024 32 0x40 0] W = true) (c : SvcCmd) :
    Changes S W d (auditHeadCmd c e) := by
  unfold auditHeadCmd
  try dsimp only
  repeat' first
    | (with_reducible assumption)
    | (with_reducible refine ite_after ?_ ?_)
    | (with_reducible apply replyApplied_after)
    | (intro _; try dsimp only)
    | exact within_trans (by decide) hS
    | exact covers_trans (by decide +kernel) hW
    | exact rows_one hW (by decide +kernel)
    | exact rows_row hW (by decide +kernel) (by decide)
    | split

theorem queueConsumer_after (h : Changes S W d e) (hS : within [.regs, .mem, .lq, .out, .sv, .hs] S = true) (hW : covers [.errors, .one 1704158, .row 0x5014 2 0x800 6, .row 0x5014 2 0x800 24, .row 0x2100c 32 0x40 1, .row 0x2100c 32 0x40 3, .row 0x2100c 32 0x40 4, .row 0x2100c 32 0x40 5, .row 0x2100c 32 0x40 24, .row 0x21010 32 0x40 0, .row 0x21010 32 0x40 24, .row 0x21010 32 0x40 25, .row 0x21010 32 0x40 26, .row 0x21010 32 0x40 27, .row 0x21010 32 0x40 31, .row 0x21024 32 0x40 0] W = true) (c : SvcCmd) :
    Changes S W d (queueConsumer c e) := by
  unfold queueConsumer
  try dsimp only
  repeat' first
    | (with_reducible assumption)
    | (with_reducible refine ite_after ?_ ?_)
    | (with_reducible apply queueCfgWriteCmd_after)
    | (with_reducible apply reply_after)
    | (intro _; try dsimp only)
    | exact within_trans (by decide) hS
    | exact covers_trans (by decide +kernel) hW
    | exact rows_one hW (by decide +kernel)
    | exact rows_row hW (by decide +kernel) (by decide)
    | split

theorem keyOpEnd_after (h : Changes S W d e) (hS : within [.regs, .mem, .lq, .out, .freeCtr, .cy, .sv, .hs] S = true) (hW : covers [.one 1704158, .row 0x5014 2 0x800 6, .row 0x5014 2 0x800 24, .row 0x2100c 32 0x40 3, .row 0x2100c 32 0x40 4, .row 0x2100c 32 0x40 5, .row 0x21024 32 0x40 0] W = true) (c : SvcCmd) :
    Changes S W d (keyOpEnd c e) := by
  unfold keyOpEnd
  try dsimp only
  repeat' first
    | (with_reducible assumption)
    | (with_reducible refine ite_after ?_ ?_)
    | (with_reducible apply Dev.owe_after)
    | (with_reducible apply Dev.modCy_after)
    | (with_reducible apply maybeAudit_after)
    | (with_reducible apply reply_after)
    | (intro _; try dsimp only)
    | exact within_trans (by decide) hS
    | exact covers_trans (by decide +kernel) hW
    | exact rows_one hW (by decide +kernel)
    | exact rows_row hW (by decide +kernel) (by decide)
    | split

theorem keyOp_after (h : Changes S W d e) (hS : within [.regs, .mem, .chans, .lq, .out, .freeCtr, .cy, .sv, .hs] S = true) (hW : covers [.errors, .one 1573032, .one 1573054, .one 1573055, .one 1704158, .row 0x5014 2 0x800 6, .row 0x5014 2 0x800 24, .row 0x2100c 32 0x40 3, .row 0x2100c 32 0x40 4, .row 0x2100c 32 0x40 5, .row 0x21024 32 0x40 0] W = true) (c : SvcCmd) :
    Changes S W d (keyOp c e) := by
  unfold keyOp
  try dsimp only
  repeat' first
    | (with_reducible assumption)
    | (with_reducible refine ite_after ?_ ?_)
    | (with_reducible apply Dev.modSv_after)
    | (with_reducible apply each_after)
    | (with_reducible apply kcmdWrite_after)
    | (with_reducible apply kdataWrite_after)
    | (with_reducible apply reply_after)
    | (with_reducible apply keyOpEnd_after)
    | (intro _; try dsimp only)
    | exact within_trans (by decide) hS
    | exact covers_trans (by decide +kernel) hW
    | exact rows_one hW (by decide +kernel)
    | exact rows_row hW (by decide +kernel) (by decide)
    | split

theorem keyOpSettle_after (h : Changes S W d e) (hS : within [.regs, .mem, .lq, .out, .freeCtr, .cy, .sv, .hs] S = true) (hW : covers [.one 1704158, .row 0x5014 2 0x800 6, .row 0x5014 2 0x800 24, .row 0x2100c 32 0x40 3, .row 0x2100c 32 0x40 4, .row 0x2100c 32 0x40 5, .row 0x21024 32 0x40 0] W = true) :
    Changes S W d (keyOpSettle e) := by
  unfold keyOpSettle
  try dsimp only
  repeat' first
    | (with_reducible assumption)
    | (with_reducible refine ite_after ?_ ?_)
    | (with_reducible apply Dev.modSv_after)
    | (with_reducible apply settleServices_after)
    | (with_reducible apply keyOpEnd_after)
    | (intro _; try dsimp only)
    | exact within_trans (by decide) hS
    | exact covers_trans (by decide +kernel) hW
    | exact rows_one hW (by decide +kernel)
    | exact rows_row hW (by decide +kernel) (by decide)
    | split

theorem tagWrite_after (h : Changes S W d e) (hS : within [.regs, .mem, .lq, .out, .sv, .hs] S = true) (hW : covers [.one 1704158, .row 0x5014 2 0x800 6, .row 0x5014 2 0x800 24, .row 0x2100c 32 0x40 3, .row 0x2100c 32 0x40 4, .row 0x2100c 32 0x40 5, .row 0x21024 32 0x40 0] W = true) (c : SvcCmd) :
    Changes S W d (tagWrite c e) := by
  unfold tagWrite
  try dsimp only
  repeat' first
    | (with_reducible assumption)
    | (with_reducible refine ite_after ?_ ?_)
    | (with_reducible apply Dev.owe_after)
    | (with_reducible apply reply_after)
    | (intro _; try dsimp only)
    | exact within_trans (by decide) hS
    | exact covers_trans (by decide +kernel) hW
    | exact rows_one hW (by decide +kernel)
    | exact rows_row hW (by decide +kernel) (by decide)
    | split

theorem programStart_after (h : Changes S W d e) (hS : within [.regs, .mem, .lq, .out, .sv, .hs] S = true) (hW : covers [.one 1704158, .row 0x5014 2 0x800 6, .row 0x5014 2 0x800 24, .row 0x2100c 32 0x40 3, .row 0x2100c 32 0x40 4, .row 0x2100c 32 0x40 5, .row 0x21024 32 0x40 0] W = true) (c : SvcCmd) :
    Changes S W d (programStart c e) := by
  unfold programStart
  try dsimp only
  repeat' first
    | (with_reducible assumption)
    | (with_reducible refine ite_after ?_ ?_)
    | (with_reducible apply Dev.modSv_after)
    | (with_reducible apply reply_after)
    | (intro _; try dsimp only)
    | exact within_trans (by decide) hS
    | exact covers_trans (by decide +kernel) hW
    | exact rows_one hW (by decide +kernel)
    | exact rows_row hW (by decide +kernel) (by decide)
    | split

theorem configGet_after (h : Changes S W d e) (hS : within [.regs, .mem, .lq, .out, .freeCtr, .sv, .hs] S = true) (hW : covers [.one 1704158, .row 0x5014 2 0x800 6, .row 0x5014 2 0x800 24, .row 0x2100c 32 0x40 3, .row 0x2100c 32 0x40 4, .row 0x2100c 32 0x40 5, .row 0x21024 32 0x40 0] W = true) (c : SvcCmd) :
    Changes S W d (configGet c e) := by
  unfold configGet
  try dsimp only
  repeat' first
    | (with_reducible assumption)
    | (with_reducible refine ite_after ?_ ?_)
    | (with_reducible apply replyApplied_after)
    | (with_reducible apply free_after)
    | (intro _; try dsimp only)
    | exact within_trans (by decide) hS
    | exact covers_trans (by decide +kernel) hW
    | exact rows_one hW (by decide +kernel)
    | exact rows_row hW (by decide +kernel) (by decide)
    | split

theorem configSet_after (h : Changes S W d e) (hS : within [.regs, .mem, .lq, .out, .sv, .hs] S = true) (hW : covers [.one 1704158, .row 0x5014 2 0x800 6, .row 0x5014 2 0x800 24, .row 0x2100c 32 0x40 3, .row 0x2100c 32 0x40 4, .row 0x2100c 32 0x40 5, .row 0x21024 32 0x40 0] W = true) (c : SvcCmd) :
    Changes S W d (configSet c e) := by
  unfold configSet
  try dsimp only
  repeat' first
    | (with_reducible assumption)
    | (with_reducible refine ite_after ?_ ?_)
    | (with_reducible apply Dev.owe_after)
    | (with_reducible apply reply_after)
    | (intro _; try dsimp only)
    | exact within_trans (by decide) hS
    | exact covers_trans (by decide +kernel) hW
    | exact rows_one hW (by decide +kernel)
    | exact rows_row hW (by decide +kernel) (by decide)
    | split

theorem execFuseBurnDone_changes {s t : State} (ok : Bool) (h : execFuseBurnDone ok s = .next t) :
    t.pending = s.pending ∧ Changes [.regs, .mem, .lq, .out, .freeCtr, .cy, .fuses, .sv, .hs] [.one 1573032, .one 1573055, .one 1704158, .row 0x5014 2 0x800 6, .row 0x5014 2 0x800 24, .row 0x2100c 32 0x40 3, .row 0x2100c 32 0x40 4, .row 0x2100c 32 0x40 5, .row 0x21024 32 0x40 0] s.dev t.dev := by
  unfold execFuseBurnDone at h
  refine act_changes (by decide) h fun e h => ?_
  repeat' first
    | (with_reducible assumption)
    | (with_reducible refine ite_after ?_ ?_)
    | (with_reducible apply keyOpSettle_after)
    | (with_reducible apply fuseBurnDone_after)
    | (intro _; try dsimp only)
    | exact within_trans (by decide) (within_refl _)
    | exact covers_trans (by decide +kernel) (covers_refl _)
    | exact rows_one (covers_refl _) (by decide +kernel)
    | exact rows_row (covers_refl _) (by decide +kernel) (by decide)
    | split

theorem execTamperSample_changes {s t : State} (loop : Fin 2) (level : Bool) (h : execTamperSample loop level s = .next t) :
    t.pending = s.pending ∧ Changes [.regs, .mem, .power, .chans, .ts, .lq, .out, .freeCtr, .cy, .fuses, .epoch, .sv, .hs] [.one 32896, .one 33000, .one 33184, .one 33185, .one 33186, .one 33190, .one 33192, .one 33196, .one 34911, .one 1573032, .one 1573055, .one 1573216, .one 1573217, .one 1573218, .one 1573219, .one 1573278, .one 1704158, .row 0x5014 2 0x800 6, .row 0x5014 2 0x800 24, .row 0x2100c 32 0x40 3, .row 0x2100c 32 0x40 4, .row 0x2100c 32 0x40 5, .row 0x21024 32 0x40 0] s.dev t.dev := by
  unfold execTamperSample at h
  refine act_changes (by decide) h fun e h => ?_
  repeat' first
    | (with_reducible assumption)
    | (with_reducible refine ite_after ?_ ?_)
    | (with_reducible apply tamperSample_after)
    | (with_reducible apply keyOpSettle_after)
    | (intro _; try dsimp only)
    | exact within_trans (by decide) (within_refl _)
    | exact covers_trans (by decide +kernel) (covers_refl _)
    | exact rows_one (covers_refl _) (by decide +kernel)
    | exact rows_row (covers_refl _) (by decide +kernel) (by decide)
    | split

theorem execTamperEvent_changes {s t : State} (loop : Fin 2) (h : execTamperEvent loop s = .next t) :
    t.pending = s.pending ∧ Changes [.regs, .mem, .power, .chans, .ts, .lq, .out, .freeCtr, .cy, .fuses, .epoch, .sv, .hs] [.one 32896, .one 33000, .one 33184, .one 33185, .one 33186, .one 33190, .one 33192, .one 33196, .one 34911, .one 1573032, .one 1573055, .one 1573218, .one 1573219, .one 1573278, .one 1704158, .row 0x5014 2 0x800 6, .row 0x5014 2 0x800 24, .row 0x2100c 32 0x40 3, .row 0x2100c 32 0x40 4, .row 0x2100c 32 0x40 5, .row 0x21024 32 0x40 0] s.dev t.dev := by
  unfold execTamperEvent at h
  refine act_changes (by decide) h fun e h => ?_
  repeat' first
    | (with_reducible assumption)
    | (with_reducible refine ite_after ?_ ?_)
    | (with_reducible apply tamperEvent_after)
    | (with_reducible apply keyOpSettle_after)
    | (intro _; try dsimp only)
    | exact within_trans (by decide) (within_refl _)
    | exact covers_trans (by decide +kernel) (covers_refl _)
    | exact rows_one (covers_refl _) (by decide +kernel)
    | exact rows_row (covers_refl _) (by decide +kernel) (by decide)
    | split

theorem execQueuePop_changes {s t : State} (p : Path) (q : Fin 32) (h : execQueuePop p q s = .next t) :
    t.pending = s.pending ∧ Changes [.regs, .mem, .chans, .lq, .out, .freeCtr, .hawserStatus, .jtagStatus, .sv, .hs] [.errors, .one 1704158, .row 0x5014 2 0x800 1, .row 0x5014 2 0x800 6, .row 0x5014 2 0x800 24, .row 0x2100c 32 0x40 1, .row 0x2100c 32 0x40 3, .row 0x2100c 32 0x40 4, .row 0x2100c 32 0x40 5, .row 0x2100c 32 0x40 24, .row 0x21024 32 0x40 0, .row 0x40304 24 0x2000 1, .row 0x40308 24 0x2000 8, .row 0x40308 24 0x2000 24, .row 0x403e4 24 0x2000 31] s.dev t.dev := by
  unfold execQueuePop at h
  refine act_changes (by decide) h fun e h => ?_
  repeat' first
    | (with_reducible assumption)
    | (with_reducible refine ite_after ?_ ?_)
    | (with_reducible apply popAndTake_after)
    | (intro _; try dsimp only)
    | exact within_trans (by decide) (within_refl _)
    | exact covers_trans (by decide +kernel) (covers_refl _)
    | exact rows_one (covers_refl _) (by decide +kernel)
    | exact rows_row (covers_refl _) (by decide +kernel) (by decide)
    | split

theorem execMboxWord_changes {s t : State} (p : Path) (w : Word) (h : execMboxWord p w s = .next t) :
    t.pending = s.pending ∧ Changes [.regs, .mem, .lq, .out, .hawserStatus, .jtagStatus, .sv, .hs] [.errors, .one 1704157, .one 1704158, .one 1704159, .row 0x5014 2 0x800 1, .row 0x5014 2 0x800 6, .row 0x5014 2 0x800 24, .row 0x2100c 32 0x40 3, .row 0x2100c 32 0x40 4, .row 0x2100c 32 0x40 5, .row 0x21024 32 0x40 0] s.dev t.dev := by
  unfold execMboxWord at h
  refine act_changes (by decide) h fun e h => ?_
  repeat' first
    | (with_reducible assumption)
    | (with_reducible refine ite_after ?_ ?_)
    | (with_reducible apply mboxWord_after)
    | (with_reducible apply onPort_after)
    | (intro _; try dsimp only)
    | exact within_trans (by decide) (within_refl _)
    | exact covers_trans (by decide +kernel) (covers_refl _)
    | exact rows_one (covers_refl _) (by decide +kernel)
    | exact rows_row (covers_refl _) (by decide +kernel) (by decide)
    | split

theorem execMboxRead_changes {s t : State} (p : Path) (h : execMboxRead p s = .next t) :
    t.pending = s.pending ∧ Changes [.regs, .out, .hawserStatus, .jtagStatus, .sv, .hs] [.one 1704158, .one 1704159, .row 0x5014 2 0x800 1, .row 0x5014 2 0x800 24] s.dev t.dev := by
  unfold execMboxRead at h
  refine act_changes (by decide) h fun e h => ?_
  repeat' first
    | (with_reducible assumption)
    | (with_reducible refine ite_after ?_ ?_)
    | (with_reducible apply mboxRead_after)
    | (with_reducible apply onPort_after)
    | (intro _; try dsimp only)
    | exact within_trans (by decide) (within_refl _)
    | exact covers_trans (by decide +kernel) (covers_refl _)
    | exact rows_one (covers_refl _) (by decide +kernel)
    | exact rows_row (covers_refl _) (by decide +kernel) (by decide)
    | split

theorem execRegLookup_changes {s t : State} (via : Via) (h : execRegLookup via s = .next t) :
    t.pending = s.pending ∧ Changes [.regs, .mem, .lq, .out, .sv, .hs] [.one 1704158, .row 0x5014 2 0x800 6, .row 0x5014 2 0x800 24, .row 0x2100c 32 0x40 3, .row 0x2100c 32 0x40 4, .row 0x2100c 32 0x40 5, .row 0x21024 32 0x40 0] s.dev t.dev := by
  unfold execRegLookup at h
  refine act_changes (by decide) h fun e h => ?_
  repeat' first
    | (with_reducible assumption)
    | (with_reducible refine ite_after ?_ ?_)
    | (with_reducible apply regLookup_after)
    | (with_reducible apply serve_after)
    | (intro _; try dsimp only)
    | exact within_trans (by decide) (within_refl _)
    | exact covers_trans (by decide +kernel) (covers_refl _)
    | exact rows_one (covers_refl _) (by decide +kernel)
    | exact rows_row (covers_refl _) (by decide +kernel) (by decide)
    | split

theorem execRegPut_changes {s t : State} (via : Via) (h : execRegPut via s = .next t) :
    t.pending = s.pending ∧ Changes [.regs, .mem, .lq, .out, .sv, .hs] [.one 1704158, .row 0x5014 2 0x800 6, .row 0x5014 2 0x800 24, .row 0x2100c 32 0x40 3, .row 0x2100c 32 0x40 4, .row 0x2100c 32 0x40 5, .row 0x21024 32 0x40 0] s.dev t.dev := by
  unfold execRegPut at h
  refine act_changes (by decide) h fun e h => ?_
  repeat' first
    | (with_reducible assumption)
    | (with_reducible refine ite_after ?_ ?_)
    | (with_reducible apply serve_after)
    | (with_reducible apply regPut_after)
    | (intro _; try dsimp only)
    | exact within_trans (by decide) (within_refl _)
    | exact covers_trans (by decide +kernel) (covers_refl _)
    | exact rows_one (covers_refl _) (by decide +kernel)
    | exact rows_row (covers_refl _) (by decide +kernel) (by decide)
    | split

theorem execRegDelete_changes {s t : State} (via : Via) (h : execRegDelete via s = .next t) :
    t.pending = s.pending ∧ Changes [.regs, .mem, .lq, .out, .sv, .hs] [.one 1704158, .row 0x5014 2 0x800 6, .row 0x5014 2 0x800 24, .row 0x2100c 32 0x40 3, .row 0x2100c 32 0x40 4, .row 0x2100c 32 0x40 5, .row 0x21024 32 0x40 0] s.dev t.dev := by
  unfold execRegDelete at h
  refine act_changes (by decide) h fun e h => ?_
  repeat' first
    | (with_reducible assumption)
    | (with_reducible refine ite_after ?_ ?_)
    | (with_reducible apply serve_after)
    | (with_reducible apply byJournal_after)
    | (intro _; try dsimp only)
    | exact within_trans (by decide) (within_refl _)
    | exact covers_trans (by decide +kernel) (covers_refl _)
    | exact rows_one (covers_refl _) (by decide +kernel)
    | exact rows_row (covers_refl _) (by decide +kernel) (by decide)
    | split

theorem execRegQuery_changes {s t : State} (via : Via) (h : execRegQuery via s = .next t) :
    t.pending = s.pending ∧ Changes [.regs, .mem, .lq, .out, .sv, .hs] [.one 1704158, .row 0x5014 2 0x800 6, .row 0x5014 2 0x800 24, .row 0x2100c 32 0x40 3, .row 0x2100c 32 0x40 4, .row 0x2100c 32 0x40 5, .row 0x21024 32 0x40 0] s.dev t.dev := by
  unfold execRegQuery at h
  refine act_changes (by decide) h fun e h => ?_
  repeat' first
    | (with_reducible assumption)
    | (with_reducible refine ite_after ?_ ?_)
    | (with_reducible apply serve_after)
    | (with_reducible apply regQuery_after)
    | (intro _; try dsimp only)
    | exact within_trans (by decide) (within_refl _)
    | exact covers_trans (by decide +kernel) (covers_refl _)
    | exact rows_one (covers_refl _) (by decide +kernel)
    | exact rows_row (covers_refl _) (by decide +kernel) (by decide)
    | split

theorem execRegStats_changes {s t : State} (via : Via) (h : execRegStats via s = .next t) :
    t.pending = s.pending ∧ Changes [.regs, .mem, .lq, .out, .sv, .hs] [.one 1704158, .row 0x5014 2 0x800 6, .row 0x5014 2 0x800 24, .row 0x2100c 32 0x40 3, .row 0x2100c 32 0x40 4, .row 0x2100c 32 0x40 5, .row 0x21024 32 0x40 0] s.dev t.dev := by
  unfold execRegStats at h
  refine act_changes (by decide) h fun e h => ?_
  repeat' first
    | (with_reducible assumption)
    | (with_reducible refine ite_after ?_ ?_)
    | (with_reducible apply regStats_after)
    | (with_reducible apply serve_after)
    | (intro _; try dsimp only)
    | exact within_trans (by decide) (within_refl _)
    | exact covers_trans (by decide +kernel) (covers_refl _)
    | exact rows_one (covers_refl _) (by decide +kernel)
    | exact rows_row (covers_refl _) (by decide +kernel) (by decide)
    | split

theorem execRegCompact_changes {s t : State} (via : Via) (h : execRegCompact via s = .next t) :
    t.pending = s.pending ∧ Changes [.regs, .mem, .lq, .out, .sv, .hs] [.one 1704158, .row 0x5014 2 0x800 6, .row 0x5014 2 0x800 24, .row 0x2100c 32 0x40 3, .row 0x2100c 32 0x40 4, .row 0x2100c 32 0x40 5, .row 0x21024 32 0x40 0] s.dev t.dev := by
  unfold execRegCompact at h
  refine act_changes (by decide) h fun e h => ?_
  repeat' first
    | (with_reducible assumption)
    | (with_reducible refine ite_after ?_ ?_)
    | (with_reducible apply regCompact_after)
    | (with_reducible apply serve_after)
    | (intro _; try dsimp only)
    | exact within_trans (by decide) (within_refl _)
    | exact covers_trans (by decide +kernel) (covers_refl _)
    | exact rows_one (covers_refl _) (by decide +kernel)
    | exact rows_row (covers_refl _) (by decide +kernel) (by decide)
    | split

theorem execRegScrub_changes {s t : State} (via : Via) (h : execRegScrub via s = .next t) :
    t.pending = s.pending ∧ Changes [.regs, .mem, .lq, .out, .sv, .hs] [.one 1704158, .row 0x5014 2 0x800 6, .row 0x5014 2 0x800 24, .row 0x2100c 32 0x40 3, .row 0x2100c 32 0x40 4, .row 0x2100c 32 0x40 5, .row 0x21024 32 0x40 0] s.dev t.dev := by
  unfold execRegScrub at h
  refine act_changes (by decide) h fun e h => ?_
  repeat' first
    | (with_reducible assumption)
    | (with_reducible refine ite_after ?_ ?_)
    | (with_reducible apply serve_after)
    | (with_reducible apply regScrub_after)
    | (intro _; try dsimp only)
    | exact within_trans (by decide) (within_refl _)
    | exact covers_trans (by decide +kernel) (covers_refl _)
    | exact rows_one (covers_refl _) (by decide +kernel)
    | exact rows_row (covers_refl _) (by decide +kernel) (by decide)
    | split

theorem execPolicySet_changes {s t : State} (via : Via) (h : execPolicySet via s = .next t) :
    t.pending = s.pending ∧ Changes [.regs, .mem, .lq, .out, .sv, .hs] [.one 1704158, .row 0x5014 2 0x800 6, .row 0x5014 2 0x800 24, .row 0x2100c 32 0x40 3, .row 0x2100c 32 0x40 4, .row 0x2100c 32 0x40 5, .row 0x21024 32 0x40 0] s.dev t.dev := by
  unfold execPolicySet at h
  refine act_changes (by decide) h fun e h => ?_
  repeat' first
    | (with_reducible assumption)
    | (with_reducible refine ite_after ?_ ?_)
    | (with_reducible apply serve_after)
    | (with_reducible apply byJournal_after)
    | (intro _; try dsimp only)
    | exact within_trans (by decide) (within_refl _)
    | exact covers_trans (by decide +kernel) (covers_refl _)
    | exact rows_one (covers_refl _) (by decide +kernel)
    | exact rows_row (covers_refl _) (by decide +kernel) (by decide)
    | split

theorem execPolicyGet_changes {s t : State} (via : Via) (h : execPolicyGet via s = .next t) :
    t.pending = s.pending ∧ Changes [.regs, .mem, .lq, .out, .sv, .hs] [.one 1704158, .row 0x5014 2 0x800 6, .row 0x5014 2 0x800 24, .row 0x2100c 32 0x40 3, .row 0x2100c 32 0x40 4, .row 0x2100c 32 0x40 5, .row 0x21024 32 0x40 0] s.dev t.dev := by
  unfold execPolicyGet at h
  refine act_changes (by decide) h fun e h => ?_
  repeat' first
    | (with_reducible assumption)
    | (with_reducible refine ite_after ?_ ?_)
    | (with_reducible apply policyGet_after)
    | (with_reducible apply serve_after)
    | (intro _; try dsimp only)
    | exact within_trans (by decide) (within_refl _)
    | exact covers_trans (by decide +kernel) (covers_refl _)
    | exact rows_one (covers_refl _) (by decide +kernel)
    | exact rows_row (covers_refl _) (by decide +kernel) (by decide)
    | split

theorem execAuditRead_changes {s t : State} (via : Via) (h : execAuditRead via s = .next t) :
    t.pending = s.pending ∧ Changes [.regs, .mem, .lq, .out, .sv, .hs] [.one 1704158, .row 0x5014 2 0x800 6, .row 0x5014 2 0x800 24, .row 0x2100c 32 0x40 3, .row 0x2100c 32 0x40 4, .row 0x2100c 32 0x40 5, .row 0x21024 32 0x40 0] s.dev t.dev := by
  unfold execAuditRead at h
  refine act_changes (by decide) h fun e h => ?_
  repeat' first
    | (with_reducible assumption)
    | (with_reducible refine ite_after ?_ ?_)
    | (with_reducible apply auditRead_after)
    | (with_reducible apply serve_after)
    | (intro _; try dsimp only)
    | exact within_trans (by decide) (within_refl _)
    | exact covers_trans (by decide +kernel) (covers_refl _)
    | exact rows_one (covers_refl _) (by decide +kernel)
    | exact rows_row (covers_refl _) (by decide +kernel) (by decide)
    | split

theorem execAuditHead_changes {s t : State} (via : Via) (h : execAuditHead via s = .next t) :
    t.pending = s.pending ∧ Changes [.regs, .mem, .lq, .out, .sv, .hs] [.one 1704158, .row 0x5014 2 0x800 6, .row 0x5014 2 0x800 24, .row 0x2100c 32 0x40 3, .row 0x2100c 32 0x40 4, .row 0x2100c 32 0x40 5, .row 0x21024 32 0x40 0] s.dev t.dev := by
  unfold execAuditHead at h
  refine act_changes (by decide) h fun e h => ?_
  repeat' first
    | (with_reducible assumption)
    | (with_reducible refine ite_after ?_ ?_)
    | (with_reducible apply auditHeadCmd_after)
    | (with_reducible apply serve_after)
    | (intro _; try dsimp only)
    | exact within_trans (by decide) (within_refl _)
    | exact covers_trans (by decide +kernel) (covers_refl _)
    | exact rows_one (covers_refl _) (by decide +kernel)
    | exact rows_row (covers_refl _) (by decide +kernel) (by decide)
    | split

theorem execQueueConsumer_changes {s t : State} (via : Via) (h : execQueueConsumer via s = .next t) :
    t.pending = s.pending ∧ Changes [.regs, .mem, .lq, .out, .sv, .hs] [.errors, .one 1704158, .row 0x5014 2 0x800 6, .row 0x5014 2 0x800 24, .row 0x2100c 32 0x40 1, .row 0x2100c 32 0x40 3, .row 0x2100c 32 0x40 4, .row 0x2100c 32 0x40 5, .row 0x2100c 32 0x40 24, .row 0x21010 32 0x40 0, .row 0x21010 32 0x40 24, .row 0x21010 32 0x40 25, .row 0x21010 32 0x40 26, .row 0x21010 32 0x40 27, .row 0x21010 32 0x40 31, .row 0x21024 32 0x40 0] s.dev t.dev := by
  unfold execQueueConsumer at h
  refine act_changes (by decide) h fun e h => ?_
  repeat' first
    | (with_reducible assumption)
    | (with_reducible refine ite_after ?_ ?_)
    | (with_reducible apply queueConsumer_after)
    | (with_reducible apply serve_after)
    | (intro _; try dsimp only)
    | exact within_trans (by decide) (within_refl _)
    | exact covers_trans (by decide +kernel) (covers_refl _)
    | exact rows_one (covers_refl _) (by decide +kernel)
    | exact rows_row (covers_refl _) (by decide +kernel) (by decide)
    | split

theorem execKeyOp_changes {s t : State} (via : Via) (h : execKeyOp via s = .next t) :
    t.pending = s.pending ∧ Changes [.regs, .mem, .chans, .lq, .out, .freeCtr, .cy, .sv, .hs] [.errors, .one 1573032, .one 1573054, .one 1573055, .one 1704158, .row 0x5014 2 0x800 6, .row 0x5014 2 0x800 24, .row 0x2100c 32 0x40 3, .row 0x2100c 32 0x40 4, .row 0x2100c 32 0x40 5, .row 0x21024 32 0x40 0] s.dev t.dev := by
  unfold execKeyOp at h
  refine act_changes (by decide) h fun e h => ?_
  repeat' first
    | (with_reducible assumption)
    | (with_reducible refine ite_after ?_ ?_)
    | (with_reducible apply serve_after)
    | (with_reducible apply keyOp_after)
    | (intro _; try dsimp only)
    | exact within_trans (by decide) (within_refl _)
    | exact covers_trans (by decide +kernel) (covers_refl _)
    | exact rows_one (covers_refl _) (by decide +kernel)
    | exact rows_row (covers_refl _) (by decide +kernel) (by decide)
    | split

theorem execTagWrite_changes {s t : State} (via : Via) (h : execTagWrite via s = .next t) :
    t.pending = s.pending ∧ Changes [.regs, .mem, .lq, .out, .sv, .hs] [.one 1704158, .row 0x5014 2 0x800 6, .row 0x5014 2 0x800 24, .row 0x2100c 32 0x40 3, .row 0x2100c 32 0x40 4, .row 0x2100c 32 0x40 5, .row 0x21024 32 0x40 0] s.dev t.dev := by
  unfold execTagWrite at h
  refine act_changes (by decide) h fun e h => ?_
  repeat' first
    | (with_reducible assumption)
    | (with_reducible refine ite_after ?_ ?_)
    | (with_reducible apply tagWrite_after)
    | (with_reducible apply serve_after)
    | (intro _; try dsimp only)
    | exact within_trans (by decide) (within_refl _)
    | exact covers_trans (by decide +kernel) (covers_refl _)
    | exact rows_one (covers_refl _) (by decide +kernel)
    | exact rows_row (covers_refl _) (by decide +kernel) (by decide)
    | split

theorem execProgramStart_changes {s t : State} (via : Via) (h : execProgramStart via s = .next t) :
    t.pending = s.pending ∧ Changes [.regs, .mem, .lq, .out, .sv, .hs] [.one 1704158, .row 0x5014 2 0x800 6, .row 0x5014 2 0x800 24, .row 0x2100c 32 0x40 3, .row 0x2100c 32 0x40 4, .row 0x2100c 32 0x40 5, .row 0x21024 32 0x40 0] s.dev t.dev := by
  unfold execProgramStart at h
  refine act_changes (by decide) h fun e h => ?_
  repeat' first
    | (with_reducible assumption)
    | (with_reducible refine ite_after ?_ ?_)
    | (with_reducible apply programStart_after)
    | (with_reducible apply serve_after)
    | (intro _; try dsimp only)
    | exact within_trans (by decide) (within_refl _)
    | exact covers_trans (by decide +kernel) (covers_refl _)
    | exact rows_one (covers_refl _) (by decide +kernel)
    | exact rows_row (covers_refl _) (by decide +kernel) (by decide)
    | split

theorem execConfigGet_changes {s t : State} (via : Via) (h : execConfigGet via s = .next t) :
    t.pending = s.pending ∧ Changes [.regs, .mem, .lq, .out, .freeCtr, .sv, .hs] [.one 1704158, .row 0x5014 2 0x800 6, .row 0x5014 2 0x800 24, .row 0x2100c 32 0x40 3, .row 0x2100c 32 0x40 4, .row 0x2100c 32 0x40 5, .row 0x21024 32 0x40 0] s.dev t.dev := by
  unfold execConfigGet at h
  refine act_changes (by decide) h fun e h => ?_
  repeat' first
    | (with_reducible assumption)
    | (with_reducible refine ite_after ?_ ?_)
    | (with_reducible apply configGet_after)
    | (with_reducible apply serve_after)
    | (intro _; try dsimp only)
    | exact within_trans (by decide) (within_refl _)
    | exact covers_trans (by decide +kernel) (covers_refl _)
    | exact rows_one (covers_refl _) (by decide +kernel)
    | exact rows_row (covers_refl _) (by decide +kernel) (by decide)
    | split

theorem execConfigSet_changes {s t : State} (via : Via) (h : execConfigSet via s = .next t) :
    t.pending = s.pending ∧ Changes [.regs, .mem, .lq, .out, .sv, .hs] [.one 1704158, .row 0x5014 2 0x800 6, .row 0x5014 2 0x800 24, .row 0x2100c 32 0x40 3, .row 0x2100c 32 0x40 4, .row 0x2100c 32 0x40 5, .row 0x21024 32 0x40 0] s.dev t.dev := by
  unfold execConfigSet at h
  refine act_changes (by decide) h fun e h => ?_
  repeat' first
    | (with_reducible assumption)
    | (with_reducible refine ite_after ?_ ?_)
    | (with_reducible apply configSet_after)
    | (with_reducible apply serve_after)
    | (intro _; try dsimp only)
    | exact within_trans (by decide) (within_refl _)
    | exact covers_trans (by decide +kernel) (covers_refl _)
    | exact rows_one (covers_refl _) (by decide +kernel)
    | exact rows_row (covers_refl _) (by decide +kernel) (by decide)
    | split

theorem execServiceEcall_changes {s t : State} (core : Fin 4) (code : BitVec 16) (addr : Word) (plen : Word) (buf : Word) (size : Word) (h : execServiceEcall core code addr plen buf size s = .next t) :
    t.pending = s.pending ∧ Changes [.regs, .mem, .lq, .out, .sv, .hs] [.one 1704158, .row 0x5014 2 0x800 6, .row 0x5014 2 0x800 24, .row 0x2100c 32 0x40 3, .row 0x2100c 32 0x40 4, .row 0x2100c 32 0x40 5, .row 0x21024 32 0x40 0] s.dev t.dev := by
  unfold execServiceEcall at h
  refine act_changes (by decide) h fun e h => ?_
  repeat' first
    | (with_reducible assumption)
    | (with_reducible refine ite_after ?_ ?_)
    | (with_reducible apply serviceEcall_after)
    | (intro _; try dsimp only)
    | exact within_trans (by decide) (within_refl _)
    | exact covers_trans (by decide +kernel) (covers_refl _)
    | exact rows_one (covers_refl _) (by decide +kernel)
    | exact rows_row (covers_refl _) (by decide +kernel) (by decide)
    | split

theorem execJournalApply_changes {s t : State} (h : execJournalApply s = .next t) :
    t.pending = s.pending ∧ Changes [.regs, .mem, .chans, .lq, .out, .sv, .hs] [.one 1704158, .one 1704224, .row 0x5014 2 0x800 6, .row 0x5014 2 0x800 24, .row 0x2100c 32 0x40 3, .row 0x2100c 32 0x40 4, .row 0x2100c 32 0x40 5, .row 0x21024 32 0x40 0, .row 0x40304 24 0x2000 1, .row 0x40308 24 0x2000 8, .row 0x40308 24 0x2000 24, .row 0x403e4 24 0x2000 31] s.dev t.dev := by
  unfold execJournalApply at h
  refine act_changes (by decide) h fun e h => ?_
  repeat' first
    | (with_reducible assumption)
    | (with_reducible refine ite_after ?_ ?_)
    | (with_reducible apply journalApply_after)
    | (with_reducible apply settleServices_after)
    | (intro _; try dsimp only)
    | exact within_trans (by decide) (within_refl _)
    | exact covers_trans (by decide +kernel) (covers_refl _)
    | exact rows_one (covers_refl _) (by decide +kernel)
    | exact rows_row (covers_refl _) (by decide +kernel) (by decide)
    | split

end

end Sys2Proof.Machine
end

