-- ==== Sys2Proof/Laws/ChangesClock.lean ====
section
/-!
SUPPORT. What every operation of Machine/Clock can change.
-/

set_option Elab.async false
set_option linter.all false

namespace Sys2Proof.Machine

section
variable {S : List Part} {W : List Span} {d e : Dev}

theorem Dev.modTc_after (h : Changes S W d e) (hS : within [.tc] S = true) (hW : covers [] W = true) (f : TcSt → TcSt) :
    Changes S W d (Dev.modTc e f) := by
  unfold Dev.modTc
  try dsimp only
  repeat' first
    | (with_reducible assumption)
    | (with_reducible refine ite_after ?_ ?_)
    | (intro _; try dsimp only)
    | exact within_trans (by decide) hS
    | split
    | (with_reducible apply set_tc_after)
    | ((with_reducible show Changes _ _ _ (Dev.mk _ _ _ _ _ _ _ _ _ _ _ _ _ _ _ _ _ _ _ _ _ _ _ _ _ _ _ _ _ _)); refine mk_after ?_ (.inl rfl) (.inl rfl) (.inl rfl) (.inl rfl) (.inl rfl) (.inl rfl) (.inl rfl) (.inl rfl) (.inl rfl) (.inl rfl) (.inl rfl) (.inl rfl) (.inl rfl) (.inl rfl) (.inl rfl) (.inl rfl) (.inl rfl) (.inl rfl) (.inr (within_mem hS (by decide))) (.inl rfl) (.inl rfl) (.inl rfl) (.inl rfl) (.inl rfl) (.inl rfl) (.inl rfl) (.inl rfl) (.inl rfl) (.inl rfl) (fun can => can.mem) (fun can => can.shadow))

theorem timeEvent_after (h : Changes S W d e) (hS : within [.regs, .lq, .out, .sv, .tc, .hs] S = true) (hW : covers [.row 0x5014 2 0x800 6, .row 0x5014 2 0x800 24, .row 0x2100c 32 0x40 3, .row 0x2100c 32 0x40 4, .row 0x2100c 32 0x40 5, .row 0x21024 32 0x40 0] W = true) (kind : Nat) (x : Int) :
    Changes S W d (timeEvent kind x e) := by
  unfold timeEvent
  try dsimp only
  repeat' first
    | (with_reducible assumption)
    | (with_reducible refine ite_after ?_ ?_)
    | (with_reducible apply Dev.post_after)
    | (with_reducible apply Dev.modTc_after)
    | (intro _; try dsimp only)
    | exact within_trans (by decide) hS
    | exact covers_trans (by decide +kernel) hW
    | exact rows_row hW (by decide +kernel) (by decide)
    | split

theorem flushTimeEvents_after (h : Changes S W d e) (hS : within [.regs, .lq, .out, .sv, .tc, .hs] S = true) (hW : covers [.row 0x5014 2 0x800 6, .row 0x5014 2 0x800 24, .row 0x2100c 32 0x40 3, .row 0x2100c 32 0x40 4, .row 0x2100c 32 0x40 5, .row 0x21024 32 0x40 0] W = true) :
    Changes S W d (flushTimeEvents e) := by
  unfold flushTimeEvents
  try dsimp only
  repeat' first
    | (with_reducible assumption)
    | (with_reducible refine ite_after ?_ ?_)
    | (with_reducible apply Dev.post_after)
    | (with_reducible apply Dev.modTc_after)
    | (with_reducible apply each_after)
    | (intro _; try dsimp only)
    | exact within_trans (by decide) hS
    | exact covers_trans (by decide +kernel) hW
    | exact rows_row hW (by decide +kernel) (by decide)
    | split

theorem setRate_after (h : Changes S W d e) (hS : within [.regs] S = true) (hW : covers [.one 131712, .one 131776] W = true) (v : Int) :
    Changes S W d (setRate v e) := by
  unfold setRate
  try dsimp only
  repeat' first
    | (with_reducible assumption)
    | (with_reducible refine ite_after ?_ ?_)
    | (with_reducible apply wr_after)
    | (intro _; try dsimp only)
    | exact within_trans (by decide) hS
    | exact covers_trans (by decide) hW
    | exact rows_one hW (by decide)
    | split

theorem enterHoldover_after (h : Changes S W d e) (hS : within [.regs, .lq, .out, .sv, .tc, .hs] S = true) (hW : covers [.one 131426, .one 131454, .one 131712, .one 131776, .one 131912, .row 0x5014 2 0x800 6, .row 0x5014 2 0x800 24, .row 0x2100c 32 0x40 3, .row 0x2100c 32 0x40 4, .row 0x2100c 32 0x40 5, .row 0x21024 32 0x40 0] W = true) :
    Changes S W d (enterHoldover e) := by
  unfold enterHoldover
  try dsimp only
  repeat' first
    | (with_reducible assumption)
    | (with_reducible refine ite_after ?_ ?_)
    | (with_reducible apply raise_after)
    | (with_reducible apply countSat_after)
    | (with_reducible apply Dev.modTc_after)
    | (with_reducible apply timeEvent_after)
    | (with_reducible apply setRate_after)
    | (intro _; try dsimp only)
    | exact within_trans (by decide) hS
    | exact covers_trans (by decide +kernel) hW
    | exact rows_one hW (by decide +kernel)
    | exact rows_row hW (by decide +kernel) (by decide)
    | split

theorem leaveHoldover_after (h : Changes S W d e) (hS : within [.regs, .lq, .out, .sv, .tc, .hs] S = true) (hW : covers [.one 131454, .row 0x5014 2 0x800 6, .row 0x5014 2 0x800 24, .row 0x2100c 32 0x40 3, .row 0x2100c 32 0x40 4, .row 0x2100c 32 0x40 5, .row 0x21024 32 0x40 0] W = true) :
    Changes S W d (leaveHoldover e) := by
  unfold leaveHoldover
  try dsimp only
  repeat' first
    | (with_reducible assumption)
    | (with_reducible refine ite_after ?_ ?_)
    | (with_reducible apply timeEvent_after)
    | (with_reducible apply lower_after)
    | (intro _; try dsimp only)
    | exact within_trans (by decide) hS
    | exact covers_trans (by decide +kernel) hW
    | exact rows_one hW (by decide +kernel)
    | exact rows_row hW (by decide +kernel) (by decide)
    | split

theorem Dev.modPulse_after (h : Changes S W d e) (hS : within [.tc] S = true) (hW : covers [] W = true) (k : Nat) (f : PulseSt → PulseSt) :
    Changes S W d (Dev.modPulse e k f) := by
  unfold Dev.modPulse
  try dsimp only
  repeat' first
    | (with_reducible assumption)
    | (with_reducible refine ite_after ?_ ?_)
    | (with_reducible apply Dev.modTc_after)
    | (intro _; try dsimp only)
    | exact within_trans (by decide) hS
    | split

theorem passEdges_after (h : Changes S W d e) (hS : within [.regs, .tc] S = true) (hW : covers [.row 0x4118 4 0x20 0, .row 0x4118 4 0x20 23] W = true) (k : Nat) :
    Changes S W d (passEdges k e) := by
  unfold passEdges
  try dsimp only
  repeat' first
    | (with_reducible assumption)
    | (with_reducible refine ite_after ?_ ?_)
    | (with_reducible apply countSat_after)
    | (with_reducible apply lower_after)
    | (with_reducible apply Dev.modPulse_after)
    | (intro _; try dsimp only)
    | exact within_trans (by decide) hS
    | exact covers_trans (by decide) hW
    | exact rows_row hW (by decide) (by decide)
    | split

theorem applyStep_after (h : Changes S W d e) (hS : within [.regs, .time, .power, .ts, .lq, .out, .sv, .tc, .hs] S = true) (hW : covers [.one 32896, .one 33000, .one 33184, .one 33185, .one 33186, .one 33190, .one 33192, .one 33196, .one 34911, .one 131427, .one 131455, .one 131920, .row 0x4118 4 0x20 0, .row 0x4118 4 0x20 23, .row 0x5014 2 0x800 6, .row 0x5014 2 0x800 24, .row 0x2100c 32 0x40 3, .row 0x2100c 32 0x40 4, .row 0x2100c 32 0x40 5, .row 0x21024 32 0x40 0] W = true) (x : Int) (cause : Nat) :
    Changes S W d (applyStep x cause e) := by
  unfold applyStep
  try dsimp only
  repeat' first
    | (with_reducible assumption)
    | (with_reducible refine ite_after ?_ ?_)
    | (with_reducible apply passEdges_after)
    | (with_reducible apply raise_after)
    | (with_reducible apply countSat_after)
    | (with_reducible apply Dev.modTc_after)
    | (with_reducible apply each_after)
    | (with_reducible apply timeEvent_after)
    | (with_reducible apply fireWake_after)
    | (with_reducible apply beginGrants_after)
    | (with_reducible apply audit_after)
    | (intro _; try dsimp only)
    | exact within_trans (by decide) hS
    | exact covers_trans (by decide +kernel) hW
    | exact rows_one hW (by decide +kernel)
    | exact rows_row hW (by decide +kernel) (by decide)
    | split
    | (with_reducible apply set_time_after)
    | ((with_reducible show Changes _ _ _ (Dev.mk _ _ _ _ _ _ _ _ _ _ _ _ _ _ _ _ _ _ _ _ _ _ _ _ _ _ _ _ _ _)); refine mk_after ?_ (.inl rfl) (.inr (within_mem hS (by decide))) (.inl rfl) (.inl rfl) (.inl rfl) (.inl rfl) (.inl rfl) (.inl rfl) (.inl rfl) (.inl rfl) (.inl rfl) (.inl rfl) (.inl rfl) (.inl rfl) (.inl rfl) (.inl rfl) (.inl rfl) (.inl rfl) (.inl rfl) (.inl rfl) (.inl rfl) (.inl rfl) (.inl rfl) (.inl rfl) (.inl rfl) (.inl rfl) (.inl rfl) (.inl rfl) (.inl rfl) (fun can => can.mem) (fun can => can.shadow))

theorem lastOffset_after (h : Changes S W d e) (hS : within [.regs] S = true) (hW : covers [.one 131648, .one 131710] W = true) (x : Int) (v : Nat) :
    Changes S W d (lastOffset x v e) := by
  unfold lastOffset
  try dsimp only
  repeat' first
    | (with_reducible assumption)
    | (with_reducible refine ite_after ?_ ?_)
    | (with_reducible apply wr_after)
    | (intro _; try dsimp only)
    | exact within_trans (by decide) hS
    | exact covers_trans (by decide) hW
    | exact rows_one hW (by decide)
    | split

theorem servo_after (h : Changes S W d e) (hS : within [.regs, .freeCtr, .tc] S = true) (hW : covers [.one 131452, .one 131712, .one 131744, .one 131776] W = true) (x : Int) :
    Changes S W d (servo x e) := by
  unfold servo
  try dsimp only
  repeat' first
    | (with_reducible assumption)
    | (with_reducible refine ite_after ?_ ?_)
    | (with_reducible apply wr_after)
    | (with_reducible apply raise_after)
    | (with_reducible apply Dev.modTc_after)
    | (with_reducible apply lower_after)
    | (with_reducible apply free_after)
    | (with_reducible apply setRate_after)
    | (intro _; try dsimp only)
    | exact within_trans (by decide) hS
    | exact covers_trans (by decide +kernel) hW
    | exact rows_one hW (by decide +kernel)
    | split

theorem judge_after (h : Changes S W d e) (hS : within [.regs, .time, .power, .ts, .lq, .out, .freeCtr, .sv, .tc, .hs] S = true) (hW : covers [.one 32896, .one 33000, .one 33184, .one 33185, .one 33186, .one 33190, .one 33192, .one 33196, .one 34911, .one 131427, .one 131428, .one 131451, .one 131452, .one 131454, .one 131455, .one 131648, .one 131710, .one 131712, .one 131744, .one 131776, .one 131920, .one 131928, .row 0x4118 4 0x20 0, .row 0x4118 4 0x20 23, .row 0x5014 2 0x800 6, .row 0x5014 2 0x800 24, .row 0x2100c 32 0x40 3, .row 0x2100c 32 0x40 4, .row 0x2100c 32 0x40 5, .row 0x21024 32 0x40 0] W = true) (x : Int) :
    Changes S W d (judge x e) := by
  unfold judge
  try dsimp only
  repeat' first
    | (with_reducible assumption)
    | (with_reducible refine ite_after ?_ ?_)
    | (with_reducible apply servo_after)
    | (with_reducible apply lastOffset_after)
    | (with_reducible apply raise_after)
    | (with_reducible apply applyStep_after)
    | (with_reducible apply leaveHoldover_after)
    | (with_reducible apply countSat_after)
    | (with_reducible apply Dev.modTc_after)
    | (with_reducible apply timeEvent_after)
    | (with_reducible apply lower_after)
    | (intro _; try dsimp only)
    | exact within_trans (by decide) hS
    | exact covers_trans (by decide +kernel) hW
    | exact rows_one hW (by decide +kernel)
    | exact rows_row hW (by decide +kernel) (by decide)
    | split

theorem Dev.stageWord_after (h : Changes S W d e) (hS : within [.stage] S = true) (hW : covers [] W = true) (p : Path) (x2 : Nat) (w : Word) :
    Changes S W d (Dev.stageWord e p x2 w) := by
  unfold Dev.stageWord
  try dsimp only
  repeat' first
    | (with_reducible assumption)
    | (with_reducible refine ite_after ?_ ?_)
    | (intro _; try dsimp only)
    | exact within_trans (by decide) hS
    | split
    | (with_reducible apply set_stage_after)
    | ((with_reducible show Changes _ _ _ (Dev.mk _ _ _ _ _ _ _ _ _ _ _ _ _ _ _ _ _ _ _ _ _ _ _ _ _ _ _ _ _ _)); refine mk_after ?_ (.inl rfl) (.inl rfl) (.inl rfl) (.inl rfl) (.inl rfl) (.inl rfl) (.inl rfl) (.inl rfl) (.inl rfl) (.inl rfl) (.inl rfl) (.inl rfl) (.inl rfl) (.inl rfl) (.inl rfl) (.inl rfl) (.inl rfl) (.inl rfl) (.inl rfl) (.inr (within_mem hS (by decide))) (.inl rfl) (.inl rfl) (.inl rfl) (.inl rfl) (.inl rfl) (.inl rfl) (.inl rfl) (.inl rfl) (.inl rfl) (fun can => can.mem) (fun can => can.shadow))

theorem Dev.unstage_after (h : Changes S W d e) (hS : within [.stage] S = true) (hW : covers [] W = true) (p : Path) :
    Changes S W d (Dev.unstage e p) := by
  unfold Dev.unstage
  try dsimp only
  repeat' first
    | (with_reducible assumption)
    | (with_reducible refine ite_after ?_ ?_)
    | (intro _; try dsimp only)
    | exact within_trans (by decide) hS
    | split
    | (with_reducible apply set_stage_after)
    | ((with_reducible show Changes _ _ _ (Dev.mk _ _ _ _ _ _ _ _ _ _ _ _ _ _ _ _ _ _ _ _ _ _ _ _ _ _ _ _ _ _)); refine mk_after ?_ (.inl rfl) (.inl rfl) (.inl rfl) (.inl rfl) (.inl rfl) (.inl rfl) (.inl rfl) (.inl rfl) (.inl rfl) (.inl rfl) (.inl rfl) (.inl rfl) (.inl rfl) (.inl rfl) (.inl rfl) (.inl rfl) (.inl rfl) (.inl rfl) (.inl rfl) (.inr (within_mem hS (by decide))) (.inl rfl) (.inl rfl) (.inl rfl) (.inl rfl) (.inl rfl) (.inl rfl) (.inl rfl) (.inl rfl) (.inl rfl) (fun can => can.mem) (fun can => can.shadow))

theorem offsetCommit_after (h : Changes S W d e) (hS : within [.regs, .time, .power, .ts, .lq, .out, .freeCtr, .sv, .tc, .stage, .hs] S = true) (hW : covers [.errors, .one 32896, .one 33000, .one 33184, .one 33185, .one 33186, .one 33190, .one 33192, .one 33196, .one 34911, .one 131427, .one 131428, .one 131451, .one 131452, .one 131454, .one 131455, .one 131648, .one 131710, .one 131712, .one 131744, .one 131776, .one 131920, .one 131928, .row 0x4118 4 0x20 0, .row 0x4118 4 0x20 23, .row 0x5014 2 0x800 6, .row 0x5014 2 0x800 24, .row 0x2100c 32 0x40 3, .row 0x2100c 32 0x40 4, .row 0x2100c 32 0x40 5, .row 0x21024 32 0x40 0] W = true) (p : Path) (w : Word) :
    Changes S W d (offsetCommit p w e) := by
  unfold offsetCommit
  try dsimp only
  repeat' first
    | (with_reducible assumption)
    | (with_reducible refine ite_after ?_ ?_)
    | (with_reducible apply judge_after)
    | (with_reducible apply errLocked_after)
    | (with_reducible apply Dev.unstage_after)
    | (intro _; try dsimp only)
    | exact within_trans (by decide) hS
    | exact covers_trans (by decide +kernel) hW
    | exact rows_one hW (by decide +kernel)
    | exact rows_row hW (by decide +kernel) (by decide)
    | split

theorem setMaster_after (h : Changes S W d e) (hS : within [.regs, .lq, .out, .sv, .tc, .hs] S = true) (hW : covers [.one 131425, .one 131840, .one 131904, .row 0x5014 2 0x800 6, .row 0x5014 2 0x800 24, .row 0x2100c 32 0x40 3, .row 0x2100c 32 0x40 4, .row 0x2100c 32 0x40 5, .row 0x21024 32 0x40 0] W = true) (v : Nat) :
    Changes S W d (setMaster v e) := by
  unfold setMaster
  try dsimp only
  repeat' first
    | (with_reducible assumption)
    | (with_reducible refine ite_after ?_ ?_)
    | (with_reducible apply wr_after)
    | (with_reducible apply raise_after)
    | (with_reducible apply countSat_after)
    | (with_reducible apply Dev.modTc_after)
    | (with_reducible apply timeEvent_after)
    | (intro _; try dsimp only)
    | exact within_trans (by decide) hS
    | exact covers_trans (by decide +kernel) hW
    | exact rows_one hW (by decide +kernel)
    | exact rows_row hW (by decide +kernel) (by decide)
    | split

theorem masterCommit_after (h : Changes S W d e) (hS : within [.regs, .lq, .out, .sv, .tc, .stage, .hs] S = true) (hW : covers [.one 131425, .one 131840, .one 131904, .row 0x5014 2 0x800 6, .row 0x5014 2 0x800 24, .row 0x2100c 32 0x40 3, .row 0x2100c 32 0x40 4, .row 0x2100c 32 0x40 5, .row 0x21024 32 0x40 0] W = true) (p : Path) (w : Word) :
    Changes S W d (masterCommit p w e) := by
  unfold masterCommit
  try dsimp only
  repeat' first
    | (with_reducible assumption)
    | (with_reducible refine ite_after ?_ ?_)
    | (with_reducible apply setMaster_after)
    | (with_reducible apply Dev.unstage_after)
    | (intro _; try dsimp only)
    | exact within_trans (by decide) hS
    | exact covers_trans (by decide +kernel) hW
    | exact rows_one hW (by decide +kernel)
    | exact rows_row hW (by decide +kernel) (by decide)
    | split

theorem srcWrite_after (h : Changes S W d e) (hS : within [.regs, .lq, .out, .sv, .tc, .hs] S = true) (hW : covers [.errors, .one 131348, .one 131352, .one 131357, .one 131358, .one 131425, .one 131454, .one 131840, .one 131904, .row 0x5014 2 0x800 6, .row 0x5014 2 0x800 24, .row 0x2100c 32 0x40 3, .row 0x2100c 32 0x40 4, .row 0x2100c 32 0x40 5, .row 0x21024 32 0x40 0] W = true) (p : Path) (w : Word) :
    Changes S W d (srcWrite p w e) := by
  unfold srcWrite
  try dsimp only
  repeat' first
    | (with_reducible assumption)
    | (with_reducible refine ite_after ?_ ?_)
    | (with_reducible apply wr_after)
    | (with_reducible apply raise_after)
    | (with_reducible apply leaveHoldover_after)
    | (with_reducible apply countSat_after)
    | (with_reducible apply Dev.modTc_after)
    | (with_reducible apply timeEvent_after)
    | (with_reducible apply errRange_after)
    | (intro _; try dsimp only)
    | exact within_trans (by decide) hS
    | exact covers_trans (by decide +kernel) hW
    | exact rows_one hW (by decide +kernel)
    | exact rows_row hW (by decide +kernel) (by decide)
    | split

theorem tcEnd_after (h : Changes S W d e) (hS : within [.regs] S = true) (hW : covers [.one 131512] W = true) (code : Nat) :
    Changes S W d (tcEnd code e) := by
  unfold tcEnd
  try dsimp only
  repeat' first
    | (with_reducible assumption)
    | (with_reducible refine ite_after ?_ ?_)
    | (with_reducible apply wr_after)
    | (intro _; try dsimp only)
    | exact within_trans (by decide) hS
    | exact covers_trans (by decide) hW
    | exact rows_one hW (by decide)
    | split

theorem tcStep_after (h : Changes S W d e) (hS : within [.regs, .time, .power, .ts, .lq, .out, .sv, .tc, .hs] S = true) (hW : covers [.one 32896, .one 33000, .one 33184, .one 33185, .one 33186, .one 33190, .one 33192, .one 33196, .one 34911, .one 131427, .one 131455, .one 131512, .one 131920, .row 0x4118 4 0x20 0, .row 0x4118 4 0x20 23, .row 0x5014 2 0x800 6, .row 0x5014 2 0x800 24, .row 0x2100c 32 0x40 3, .row 0x2100c 32 0x40 4, .row 0x2100c 32 0x40 5, .row 0x21024 32 0x40 0] W = true) :
    Changes S W d (tcStep e) := by
  unfold tcStep
  try dsimp only
  repeat' first
    | (with_reducible assumption)
    | (with_reducible refine ite_after ?_ ?_)
    | (with_reducible apply tcEnd_after)
    | (with_reducible apply applyStep_after)
    | (intro _; try dsimp only)
    | exact within_trans (by decide) hS
    | exact covers_trans (by decide +kernel) hW
    | exact rows_one hW (by decide +kernel)
    | exact rows_row hW (by decide +kernel) (by decide)
    | split

theorem tcAcceptStep_after (h : Changes S W d e) (hS : within [.regs, .time, .power, .ts, .lq, .out, .sv, .tc, .hs] S = true) (hW : covers [.one 32896, .one 33000, .one 33184, .one 33185, .one 33186, .one 33190, .one 33192, .one 33196, .one 34911, .one 131427, .one 131451, .one 131455, .one 131512, .one 131920, .row 0x4118 4 0x20 0, .row 0x4118 4 0x20 23, .row 0x5014 2 0x800 6, .row 0x5014 2 0x800 24, .row 0x2100c 32 0x40 3, .row 0x2100c 32 0x40 4, .row 0x2100c 32 0x40 5, .row 0x21024 32 0x40 0] W = true) :
    Changes S W d (tcAcceptStep e) := by
  unfold tcAcceptStep
  try dsimp only
  repeat' first
    | (with_reducible assumption)
    | (with_reducible refine ite_after ?_ ?_)
    | (with_reducible apply tcEnd_after)
    | (with_reducible apply applyStep_after)
    | (with_reducible apply Dev.modTc_after)
    | (with_reducible apply lower_after)
    | (intro _; try dsimp only)
    | exact within_trans (by decide) hS
    | exact covers_trans (by decide +kernel) hW
    | exact rows_one hW (by decide +kernel)
    | exact rows_row hW (by decide +kernel) (by decide)
    | split

theorem tcHold_after (h : Changes S W d e) (hS : within [.regs, .lq, .out, .sv, .tc, .hs] S = true) (hW : covers [.one 131426, .one 131454, .one 131512, .one 131712, .one 131776, .one 131912, .row 0x5014 2 0x800 6, .row 0x5014 2 0x800 24, .row 0x2100c 32 0x40 3, .row 0x2100c 32 0x40 4, .row 0x2100c 32 0x40 5, .row 0x21024 32 0x40 0] W = true) :
    Changes S W d (tcHold e) := by
  unfold tcHold
  try dsimp only
  repeat' first
    | (with_reducible assumption)
    | (with_reducible refine ite_after ?_ ?_)
    | (with_reducible apply tcEnd_after)
    | (with_reducible apply enterHoldover_after)
    | (intro _; try dsimp only)
    | exact within_trans (by decide) hS
    | exact covers_trans (by decide +kernel) hW
    | exact rows_one hW (by decide +kernel)
    | exact rows_row hW (by decide +kernel) (by decide)
    | split

theorem beaconTimeout_after (h : Changes S W d e) (hS : within [.regs, .time, .lq, .out, .clk, .sv, .tc, .hs] S = true) (hW : covers [.one 98752, .one 131426, .one 131454, .one 131712, .one 131776, .one 131912, .row 0x5014 2 0x800 6, .row 0x5014 2 0x800 24, .row 0x2100c 32 0x40 3, .row 0x2100c 32 0x40 4, .row 0x2100c 32 0x40 5, .row 0x21024 32 0x40 0] W = true) :
    Changes S W d (beaconTimeout e) := by
  unfold beaconTimeout
  try dsimp only
  repeat' first
    | (with_reducible assumption)
    | (with_reducible refine ite_after ?_ ?_)
    | (with_reducible apply Dev.reach_after)
    | (with_reducible apply enterHoldover_after)
    | (intro _; try dsimp only)
    | exact within_trans (by decide) hS
    | exact covers_trans (by decide +kernel) hW
    | exact rows_one hW (by decide +kernel)
    | exact rows_row hW (by decide +kernel) (by decide)
    | split

theorem pulseStop_after (h : Changes S W d e) (hS : within [.regs, .tc] S = true) (hW : covers [.row 0x4118 4 0x20 23] W = true) (k : Nat) :
    Changes S W d (pulseStop k e) := by
  unfold pulseStop
  try dsimp only
  repeat' first
    | (with_reducible assumption)
    | (with_reducible refine ite_after ?_ ?_)
    | (with_reducible apply lower_after)
    | (with_reducible apply Dev.modPulse_after)
    | (intro _; try dsimp only)
    | exact within_trans (by decide) hS
    | exact covers_trans (by decide) hW
    | exact rows_row hW (by decide) (by decide)
    | split

theorem pulseArm_after (h : Changes S W d e) (hS : within [.regs, .tc] S = true) (hW : covers [.row 0x4118 4 0x20 23, .row 0x4118 4 0x20 24] W = true) (k : Nat) :
    Changes S W d (pulseArm k e) := by
  unfold pulseArm
  try dsimp only
  repeat' first
    | (with_reducible assumption)
    | (with_reducible refine ite_after ?_ ?_)
    | (with_reducible apply wr_after)
    | (with_reducible apply raise_after)
    | (with_reducible apply pulseStop_after)
    | (with_reducible apply Dev.modPulse_after)
    | (intro _; try dsimp only)
    | exact within_trans (by decide) hS
    | exact covers_trans (by decide) hW
    | exact rows_row hW (by decide) (by decide)
    | split

theorem pulseCtl_after (h : Changes S W d e) (hS : within [.regs, .tc] S = true) (hW : covers [.errors, .row 0x4114 4 0x20 0, .row 0x4118 4 0x20 23, .row 0x4118 4 0x20 24] W = true) (p : Path) (k : Nat) (w : Word) :
    Changes S W d (pulseCtl p k w e) := by
  unfold pulseCtl
  try dsimp only
  repeat' first
    | (with_reducible assumption)
    | (with_reducible refine ite_after ?_ ?_)
    | (with_reducible apply wr_after)
    | (with_reducible apply errLocked_after)
    | (with_reducible apply pulseArm_after)
    | (with_reducible apply pulseStop_after)
    | (intro _; try dsimp only)
    | exact within_trans (by decide) hS
    | exact covers_trans (by decide +kernel) hW
    | exact rows_row hW (by decide +kernel) (by decide)
    | split

theorem pulseEdge_after (h : Changes S W d e) (hS : within [.regs, .time, .clk, .tc] S = true) (hW : covers [.one 98752, .row 0x4118 4 0x20 23] W = true) (k : Nat) :
    Changes S W d (pulseEdge k e) := by
  unfold pulseEdge
  try dsimp only
  repeat' first
    | (with_reducible assumption)
    | (with_reducible refine ite_after ?_ ?_)
    | (with_reducible apply lower_after)
    | (with_reducible apply Dev.reach_after)
    | (with_reducible apply Dev.modPulse_after)
    | (intro _; try dsimp only)
    | exact within_trans (by decide) hS
    | exact covers_trans (by decide) hW
    | exact rows_one hW (by decide)
    | exact rows_row hW (by decide) (by decide)
    | split

theorem pulseEnd_after (h : Changes S W d e) (hS : within [.regs, .time, .clk, .tc] S = true) (hW : covers [.one 98752] W = true) (k : Nat) :
    Changes S W d (pulseEnd k e) := by
  unfold pulseEnd
  try dsimp only
  repeat' first
    | (with_reducible assumption)
    | (with_reducible refine ite_after ?_ ?_)
    | (with_reducible apply Dev.reach_after)
    | (with_reducible apply Dev.modPulse_after)
    | (intro _; try dsimp only)
    | exact within_trans (by decide) hS
    | exact covers_trans (by decide) hW
    | exact rows_one hW (by decide)
    | split

theorem tcAlarm_after (h : Changes S W d e) (hS : within [.regs, .time, .power, .ts, .clk] S = true) (hW : covers [.one 32896, .one 33000, .one 33184, .one 33185, .one 33186, .one 33190, .one 33192, .one 33196, .one 34911, .one 98752] W = true) :
    Changes S W d (tcAlarm e) := by
  unfold tcAlarm
  try dsimp only
  repeat' first
    | (with_reducible assumption)
    | (with_reducible refine ite_after ?_ ?_)
    | (with_reducible apply fireWake_after)
    | (with_reducible apply Dev.reach_after)
    | (intro _; try dsimp only)
    | exact within_trans (by decide) hS
    | exact covers_trans (by decide +kernel) hW
    | exact rows_one hW (by decide +kernel)
    | split

theorem captureEdge_after (h : Changes S W d e) (hS : within [.regs, .power, .ts, .tc] S = true) (hW : covers [.one 32896, .one 33000, .one 33184, .one 33185, .one 33186, .one 33190, .one 33192, .one 33196, .one 34911, .one 131424, .row 0x4184 4 0x8 0, .row 0x4184 4 0x8 16] W = true) (k : Fin 4) (rising : Bool) :
    Changes S W d (captureEdge k rising e) := by
  unfold captureEdge
  try dsimp only
  repeat' first
    | (with_reducible assumption)
    | (with_reducible refine ite_after ?_ ?_)
    | (with_reducible apply wr_after)
    | (with_reducible apply raise_after)
    | (with_reducible apply countSat_after)
    | (with_reducible apply Dev.modTc_after)
    | (with_reducible apply fireWake_after)
    | (intro _; try dsimp only)
    | exact within_trans (by decide) hS
    | exact covers_trans (by decide +kernel) hW
    | exact rows_one hW (by decide +kernel)
    | exact rows_row hW (by decide +kernel) (by decide)
    | split

theorem captureItem_after (h : Changes S W d e) (hS : within [.regs, .lq, .out, .sv, .tc, .hs] S = true) (hW : covers [.row 0x4184 4 0x8 0, .row 0x4184 4 0x8 16, .row 0x5014 2 0x800 6, .row 0x5014 2 0x800 24, .row 0x2100c 32 0x40 3, .row 0x2100c 32 0x40 4, .row 0x2100c 32 0x40 5, .row 0x21024 32 0x40 0] W = true) (k : Nat) :
    Changes S W d (captureItem k e) := by
  unfold captureItem
  try dsimp only
  repeat' first
    | (with_reducible assumption)
    | (with_reducible refine ite_after ?_ ?_)
    | (with_reducible apply wr_after)
    | (with_reducible apply Dev.post_after)
    | (with_reducible apply Dev.modTc_after)
    | (intro _; try dsimp only)
    | exact within_trans (by decide) hS
    | exact covers_trans (by decide +kernel) hW
    | exact rows_row hW (by decide +kernel) (by decide)
    | split

theorem execOffsetDelivered_changes {s t : State} (p : Path) (w : Word) (h : execOffsetDelivered p w s = .next t) :
    t.pending = s.pending ∧ Changes [.regs, .time, .power, .ts, .lq, .out, .freeCtr, .hawserStatus, .jtagStatus, .sv, .tc, .stage, .hs] [.errors, .one 32896, .one 33000, .one 33184, .one 33185, .one 33186, .one 33190, .one 33192, .one 33196, .one 34911, .one 131427, .one 131428, .one 131451, .one 131452, .one 131454, .one 131455, .one 131648, .one 131710, .one 131712, .one 131744, .one 131776, .one 131920, .one 131928, .row 0x4118 4 0x20 0, .row 0x4118 4 0x20 23, .row 0x5014 2 0x800 1, .row 0x5014 2 0x800 6, .row 0x5014 2 0x800 24, .row 0x2100c 32 0x40 3, .row 0x2100c 32 0x40 4, .row 0x2100c 32 0x40 5, .row 0x21024 32 0x40 0] s.dev t.dev := by
  unfold execOffsetDelivered at h
  refine act_changes (by decide) h fun e h => ?_
  repeat' first
    | (with_reducible assumption)
    | (with_reducible refine ite_after ?_ ?_)
    | (with_reducible apply offsetCommit_after)
    | (with_reducible apply onPort_after)
    | (intro _; try dsimp only)
    | exact within_trans (by decide) (within_refl _)
    | exact covers_trans (by decide +kernel) (covers_refl _)
    | exact rows_one (covers_refl _) (by decide +kernel)
    | exact rows_row (covers_refl _) (by decide +kernel) (by decide)
    | split

theorem execStep_changes {s t : State} (p : Path) (h : execStep p s = .next t) :
    t.pending = s.pending ∧ Changes [.regs, .time, .power, .ts, .lq, .out, .hawserStatus, .jtagStatus, .sv, .tc, .hs] [.one 32896, .one 33000, .one 33184, .one 33185, .one 33186, .one 33190, .one 33192, .one 33196, .one 34911, .one 131427, .one 131455, .one 131512, .one 131920, .row 0x4118 4 0x20 0, .row 0x4118 4 0x20 23, .row 0x5014 2 0x800 1, .row 0x5014 2 0x800 6, .row 0x5014 2 0x800 24, .row 0x2100c 32 0x40 3, .row 0x2100c 32 0x40 4, .row 0x2100c 32 0x40 5, .row 0x21024 32 0x40 0] s.dev t.dev := by
  unfold execStep at h
  refine act_changes (by decide) h fun e h => ?_
  repeat' first
    | (with_reducible assumption)
    | (with_reducible refine ite_after ?_ ?_)
    | (with_reducible apply tcStep_after)
    | (with_reducible apply onPort_after)
    | (intro _; try dsimp only)
    | exact within_trans (by decide) (within_refl _)
    | exact covers_trans (by decide +kernel) (covers_refl _)
    | exact rows_one (covers_refl _) (by decide +kernel)
    | exact rows_row (covers_refl _) (by decide +kernel) (by decide)
    | split

theorem execAcceptStep_changes {s t : State} (p : Path) (h : execAcceptStep p s = .next t) :
    t.pending = s.pending ∧ Changes [.regs, .time, .power, .ts, .lq, .out, .hawserStatus, .jtagStatus, .sv, .tc, .hs] [.one 32896, .one 33000, .one 33184, .one 33185, .one 33186, .one 33190, .one 33192, .one 33196, .one 34911, .one 131427, .one 131451, .one 131455, .one 131512, .one 131920, .row 0x4118 4 0x20 0, .row 0x4118 4 0x20 23, .row 0x5014 2 0x800 1, .row 0x5014 2 0x800 6, .row 0x5014 2 0x800 24, .row 0x2100c 32 0x40 3, .row 0x2100c 32 0x40 4, .row 0x2100c 32 0x40 5, .row 0x21024 32 0x40 0] s.dev t.dev := by
  unfold execAcceptStep at h
  refine act_changes (by decide) h fun e h => ?_
  repeat' first
    | (with_reducible assumption)
    | (with_reducible refine ite_after ?_ ?_)
    | (with_reducible apply tcAcceptStep_after)
    | (with_reducible apply onPort_after)
    | (intro _; try dsimp only)
    | exact within_trans (by decide) (within_refl _)
    | exact covers_trans (by decide +kernel) (covers_refl _)
    | exact rows_one (covers_refl _) (by decide +kernel)
    | exact rows_row (covers_refl _) (by decide +kernel) (by decide)
    | split

theorem execHold_changes {s t : State} (p : Path) (h : execHold p s = .next t) :
    t.pending = s.pending ∧ Changes [.regs, .lq, .out, .hawserStatus, .jtagStatus, .sv, .tc, .hs] [.one 131426, .one 131454, .one 131512, .one 131712, .one 131776, .one 131912, .row 0x5014 2 0x800 1, .row 0x5014 2 0x800 6, .row 0x5014 2 0x800 24, .row 0x2100c 32 0x40 3, .row 0x2100c 32 0x40 4, .row 0x2100c 32 0x40 5, .row 0x21024 32 0x40 0] s.dev t.dev := by
  unfold execHold at h
  refine act_changes (by decide) h fun e h => ?_
  repeat' first
    | (with_reducible assumption)
    | (with_reducible refine ite_after ?_ ?_)
    | (with_reducible apply tcHold_after)
    | (with_reducible apply onPort_after)
    | (intro _; try dsimp only)
    | exact within_trans (by decide) (within_refl _)
    | exact covers_trans (by decide +kernel) (covers_refl _)
    | exact rows_one (covers_refl _) (by decide +kernel)
    | exact rows_row (covers_refl _) (by decide +kernel) (by decide)
    | split

theorem execSrcWrite_changes {s t : State} (p : Path) (w : Word) (h : execSrcWrite p w s = .next t) :
    t.pending = s.pending ∧ Changes [.regs, .lq, .out, .hawserStatus, .jtagStatus, .sv, .tc, .hs] [.errors, .one 131348, .one 131352, .one 131357, .one 131358, .one 131425, .one 131454, .one 131840, .one 131904, .row 0x5014 2 0x800 1, .row 0x5014 2 0x800 6, .row 0x5014 2 0x800 24, .row 0x2100c 32 0x40 3, .row 0x2100c 32 0x40 4, .row 0x2100c 32 0x40 5, .row 0x21024 32 0x40 0] s.dev t.dev := by
  unfold execSrcWrite at h
  refine act_changes (by decide) h fun e h => ?_
  repeat' first
    | (with_reducible assumption)
    | (with_reducible refine ite_after ?_ ?_)
    | (with_reducible apply srcWrite_after)
    | (with_reducible apply onPort_after)
    | (intro _; try dsimp only)
    | exact within_trans (by decide) (within_refl _)
    | exact covers_trans (by decide +kernel) (covers_refl _)
    | exact rows_one (covers_refl _) (by decide +kernel)
    | exact rows_row (covers_refl _) (by decide +kernel) (by decide)
    | split

theorem execMasterChange_changes {s t : State} (p : Path) (w : Word) (h : execMasterChange p w s = .next t) :
    t.pending = s.pending ∧ Changes [.regs, .lq, .out, .hawserStatus, .jtagStatus, .sv, .tc, .stage, .hs] [.one 131425, .one 131840, .one 131904, .row 0x5014 2 0x800 1, .row 0x5014 2 0x800 6, .row 0x5014 2 0x800 24, .row 0x2100c 32 0x40 3, .row 0x2100c 32 0x40 4, .row 0x2100c 32 0x40 5, .row 0x21024 32 0x40 0] s.dev t.dev := by
  unfold execMasterChange at h
  refine act_changes (by decide) h fun e h => ?_
  repeat' first
    | (with_reducible assumption)
    | (with_reducible refine ite_after ?_ ?_)
    | (with_reducible apply masterCommit_after)
    | (with_reducible apply onPort_after)
    | (intro _; try dsimp only)
    | exact within_trans (by decide) (within_refl _)
    | exact covers_trans (by decide +kernel) (covers_refl _)
    | exact rows_one (covers_refl _) (by decide +kernel)
    | exact rows_row (covers_refl _) (by decide +kernel) (by decide)
    | split

theorem execBeaconHoldoverTimeout_changes {s t : State} (h : execBeaconHoldoverTimeout s = .next t) :
    t.pending = s.pending ∧ Changes [.regs, .time, .lq, .out, .clk, .sv, .tc, .hs] [.one 98752, .one 131426, .one 131454, .one 131712, .one 131776, .one 131912, .row 0x5014 2 0x800 6, .row 0x5014 2 0x800 24, .row 0x2100c 32 0x40 3, .row 0x2100c 32 0x40 4, .row 0x2100c 32 0x40 5, .row 0x21024 32 0x40 0] s.dev t.dev := by
  unfold execBeaconHoldoverTimeout at h
  refine act_changes (by decide) h fun e h => ?_
  repeat' first
    | (with_reducible assumption)
    | (with_reducible refine ite_after ?_ ?_)
    | (with_reducible apply beaconTimeout_after)
    | (intro _; try dsimp only)
    | exact within_trans (by decide) (within_refl _)
    | exact covers_trans (by decide +kernel) (covers_refl _)
    | exact rows_one (covers_refl _) (by decide +kernel)
    | exact rows_row (covers_refl _) (by decide +kernel) (by decide)
    | split

theorem execPulseArm_changes {s t : State} (p : Path) (k : Fin 4) (w : Word) (h : execPulseArm p k w s = .next t) :
    t.pending = s.pending ∧ Changes [.regs, .out, .hawserStatus, .jtagStatus, .tc, .hs] [.errors, .row 0x4114 4 0x20 0, .row 0x4118 4 0x20 23, .row 0x4118 4 0x20 24, .row 0x5014 2 0x800 1, .row 0x5014 2 0x800 24] s.dev t.dev := by
  unfold execPulseArm at h
  refine act_changes (by decide) h fun e h => ?_
  repeat' first
    | (with_reducible assumption)
    | (with_reducible refine ite_after ?_ ?_)
    | (with_reducible apply pulseCtl_after)
    | (with_reducible apply onPort_after)
    | (intro _; try dsimp only)
    | exact within_trans (by decide) (within_refl _)
    | exact covers_trans (by decide +kernel) (covers_refl _)
    | exact rows_row (covers_refl _) (by decide +kernel) (by decide)
    | split

theorem execPulseStop_changes {s t : State} (p : Path) (k : Fin 4) (w : Word) (h : execPulseStop p k w s = .next t) :
    t.pending = s.pending ∧ Changes [.regs, .out, .hawserStatus, .jtagStatus, .tc, .hs] [.errors, .row 0x4114 4 0x20 0, .row 0x4118 4 0x20 23, .row 0x4118 4 0x20 24, .row 0x5014 2 0x800 1, .row 0x5014 2 0x800 24] s.dev t.dev := by
  unfold execPulseStop at h
  refine act_changes (by decide) h fun e h => ?_
  repeat' first
    | (with_reducible assumption)
    | (with_reducible refine ite_after ?_ ?_)
    | (with_reducible apply pulseCtl_after)
    | (with_reducible apply onPort_after)
    | (intro _; try dsimp only)
    | exact within_trans (by decide) (within_refl _)
    | exact covers_trans (by decide +kernel) (covers_refl _)
    | exact rows_row (covers_refl _) (by decide +kernel) (by decide)
    | split

theorem execPulseEdge_changes {s t : State} (k : Fin 4) (h : execPulseEdge k s = .next t) :
    t.pending = s.pending ∧ Changes [.regs, .time, .out, .clk, .tc] [.one 98752, .row 0x4118 4 0x20 23] s.dev t.dev := by
  unfold execPulseEdge at h
  refine act_changes (by decide) h fun e h => ?_
  repeat' first
    | (with_reducible assumption)
    | (with_reducible refine ite_after ?_ ?_)
    | (with_reducible apply pulseEdge_after)
    | (intro _; try dsimp only)
    | exact within_trans (by decide) (within_refl _)
    | exact covers_trans (by decide) (covers_refl _)
    | exact rows_one (covers_refl _) (by decide)
    | exact rows_row (covers_refl _) (by decide) (by decide)
    | split

theorem execPulseEnd_changes {s t : State} (k : Fin 4) (h : execPulseEnd k s = .next t) :
    t.pending = s.pending ∧ Changes [.regs, .time, .out, .clk, .tc] [.one 98752] s.dev t.dev := by
  unfold execPulseEnd at h
  refine act_changes (by decide) h fun e h => ?_
  repeat' first
    | (with_reducible assumption)
    | (with_reducible refine ite_after ?_ ?_)
    | (with_reducible apply pulseEnd_after)
    | (intro _; try dsimp only)
    | exact within_trans (by decide) (within_refl _)
    | exact covers_trans (by decide) (covers_refl _)
    | exact rows_one (covers_refl _) (by decide)
    | split

theorem execTcAlarm_changes {s t : State} (h : execTcAlarm s = .next t) :
    t.pending = s.pending ∧ Changes [.regs, .time, .power, .ts, .out, .clk] [.one 32896, .one 33000, .one 33184, .one 33185, .one 33186, .one 33190, .one 33192, .one 33196, .one 34911, .one 98752] s.dev t.dev := by
  unfold execTcAlarm at h
  refine act_changes (by decide) h fun e h => ?_
  repeat' first
    | (with_reducible assumption)
    | (with_reducible refine ite_after ?_ ?_)
    | (with_reducible apply tcAlarm_after)
    | (intro _; try dsimp only)
    | exact within_trans (by decide) (within_refl _)
    | exact covers_trans (by decide +kernel) (covers_refl _)
    | exact rows_one (covers_refl _) (by decide +kernel)
    | split

theorem execCaptureEdge_changes {s t : State} (k : Fin 4) (rising : Bool) (h : execCaptureEdge k rising s = .next t) :
    t.pending = s.pending ∧ Changes [.regs, .power, .ts, .out, .tc] [.one 32896, .one 33000, .one 33184, .one 33185, .one 33186, .one 33190, .one 33192, .one 33196, .one 34911, .one 131424, .row 0x4184 4 0x8 0, .row 0x4184 4 0x8 16] s.dev t.dev := by
  unfold execCaptureEdge at h
  refine act_changes (by decide) h fun e h => ?_
  repeat' first
    | (with_reducible assumption)
    | (with_reducible refine ite_after ?_ ?_)
    | (with_reducible apply captureEdge_after)
    | (intro _; try dsimp only)
    | exact within_trans (by decide) (within_refl _)
    | exact covers_trans (by decide +kernel) (covers_refl _)
    | exact rows_one (covers_refl _) (by decide +kernel)
    | exact rows_row (covers_refl _) (by decide +kernel) (by decide)
    | split

theorem execCaptureItem_changes {s t : State} (k : Fin 4) (h : execCaptureItem k s = .next t) :
    t.pending = s.pending ∧ Changes [.regs, .lq, .out, .sv, .tc, .hs] [.row 0x4184 4 0x8 0, .row 0x4184 4 0x8 16, .row 0x5014 2 0x800 6, .row 0x5014 2 0x800 24, .row 0x2100c 32 0x40 3, .row 0x2100c 32 0x40 4, .row 0x2100c 32 0x40 5, .row 0x21024 32 0x40 0] s.dev t.dev := by
  unfold execCaptureItem at h
  refine act_changes (by decide) h fun e h => ?_
  repeat' first
    | (with_reducible assumption)
    | (with_reducible refine ite_after ?_ ?_)
    | (with_reducible apply captureItem_after)
    | (intro _; try dsimp only)
    | exact within_trans (by decide) (within_refl _)
    | exact covers_trans (by decide +kernel) (covers_refl _)
    | exact rows_row (covers_refl _) (by decide +kernel) (by decide)
    | split

end

end Sys2Proof.Machine
end

