-- ==== Sys2Proof/Laws/ChangesEther.lean ====
section
/-!
SUPPORT. What every operation of Machine/Ether can change.
-/

set_option Elab.async false
set_option linter.all false

namespace Sys2Proof.Machine

section
variable {S : List Part} {W : List Span} {d e : Dev}

theorem Dev.modEn_after (h : Changes S W d e) (hS : within [.en] S = true) (hW : covers [] W = true) (n : Nat) (f : EnPort → EnPort) :
    Changes S W d (Dev.modEn e n f) := by
  unfold Dev.modEn
  try dsimp only
  repeat' first
    | (with_reducible assumption)
    | (with_reducible refine ite_after ?_ ?_)
    | (intro _; try dsimp only)
    | exact within_trans (by decide) hS
    | split
    | (with_reducible apply set_en_after)
    | ((with_reducible show Changes _ _ _ (Dev.mk _ _ _ _ _ _ _ _ _ _ _ _ _ _ _ _ _ _ _ _ _ _ _ _ _ _ _ _ _ _)); refine mk_after ?_ (.inl rfl) (.inl rfl) (.inl rfl) (.inl rfl) (.inl rfl) (.inl rfl) (.inl rfl) (.inl rfl) (.inl rfl) (.inl rfl) (.inl rfl) (.inl rfl) (.inl rfl) (.inl rfl) (.inl rfl) (.inl rfl) (.inl rfl) (.inl rfl) (.inl rfl) (.inl rfl) (.inl rfl) (.inl rfl) (.inl rfl) (.inl rfl) (.inr (within_mem hS (by decide))) (.inl rfl) (.inl rfl) (.inl rfl) (.inl rfl) (fun can => can.mem) (fun can => can.shadow))

theorem enDrop_after (h : Changes S W d e) (hS : within [.regs, .en] S = true) (hW : covers [.row 0x6014 2 0x800 2, .row 0x6014 2 0x800 31] W = true) (n : Nat) :
    Changes S W d (enDrop n e) := by
  unfold enDrop
  try dsimp only
  repeat' first
    | (with_reducible assumption)
    | (with_reducible refine ite_after ?_ ?_)
    | (with_reducible apply raise_after)
    | (with_reducible apply Dev.modEn_after)
    | (with_reducible apply lower_after)
    | (intro _; try dsimp only)
    | exact within_trans (by decide) hS
    | exact covers_trans (by decide) hW
    | exact rows_row hW (by decide) (by decide)
    | split

theorem enDropAll_after (h : Changes S W d e) (hS : within [.regs, .en] S = true) (hW : covers [.row 0x6014 2 0x800 2, .row 0x6014 2 0x800 31] W = true) :
    Changes S W d (enDropAll e) := by
  unfold enDropAll
  try dsimp only
  repeat' first
    | (with_reducible assumption)
    | (with_reducible refine ite_after ?_ ?_)
    | (with_reducible apply enDrop_after)
    | (intro _; try dsimp only)
    | exact within_trans (by decide) hS
    | exact covers_trans (by decide) hW
    | exact rows_row hW (by decide) (by decide)
    | split

theorem enCheck_after (h : Changes S W d e) (hS : within [.regs, .en] S = true) (hW : covers [.row 0x6014 2 0x800 2, .row 0x6014 2 0x800 31] W = true) :
    Changes S W d (enCheck e) := by
  unfold enCheck
  try dsimp only
  repeat' first
    | (with_reducible assumption)
    | (with_reducible refine ite_after ?_ ?_)
    | (with_reducible apply each_after)
    | (with_reducible apply enDrop_after)
    | (intro _; try dsimp only)
    | exact within_trans (by decide) hS
    | exact covers_trans (by decide) hW
    | exact rows_row hW (by decide) (by decide)
    | split

theorem sgmiiAutoneg_after (h : Changes S W d e) (hS : within [.regs, .en] S = true) (hW : covers [.row 0x6014 2 0x800 1, .row 0x6014 2 0x800 2, .row 0x6014 2 0x800 29, .row 0x6014 2 0x800 31] W = true) (n : Nat) (link : Bool) (full : Bool) (speed : Nat) :
    Changes S W d (sgmiiAutoneg n link full speed e) := by
  unfold sgmiiAutoneg
  try dsimp only
  repeat' first
    | (with_reducible assumption)
    | (with_reducible refine ite_after ?_ ?_)
    | (with_reducible apply wr_after)
    | (with_reducible apply raise_after)
    | (with_reducible apply enDrop_after)
    | (intro _; try dsimp only)
    | exact within_trans (by decide) hS
    | exact covers_trans (by decide +kernel) hW
    | exact rows_row hW (by decide +kernel) (by decide)
    | split

theorem ringAdvance_after (h : Changes S W d e) (hS : within [.regs] S = true) (hW : covers [.grid 0x6088 2 0x800 6 0x10 0] W = true) (n : Nat) (r : Nat) :
    Changes S W d (ringAdvance n r e) := by
  unfold ringAdvance
  try dsimp only
  repeat' first
    | (with_reducible assumption)
    | (with_reducible refine ite_after ?_ ?_)
    | (with_reducible apply wr_after)
    | (intro _; try dsimp only)
    | exact within_trans (by decide) hS
    | exact covers_trans (by decide) hW
    | exact rows_grid hW (by decide) (by decide) (by decide)
    | split

theorem dmaWrite_after (h : Changes S W d e) (hS : within [.mem] S = true) (hW : covers [] W = true) (x0 : Nat) (bs : List Byte) :
    Changes S W d (dmaWrite x0 bs e) := by
  unfold dmaWrite
  try dsimp only
  repeat' first
    | (with_reducible assumption)
    | (with_reducible refine ite_after ?_ ?_)
    | (intro _; try dsimp only)
    | exact within_trans (by decide) hS
    | split
    | (with_reducible apply set_mem_after)
    | (with_reducible exact Dev.Canonical.mem ‹_›)
    | (with_reducible apply Memory.wf_write)
    | (with_reducible apply Memory.wf_set)
    | (with_reducible apply Memory.wf_forget)
    | (with_reducible apply Memory.wf_foldl)
    | (with_reducible apply applyEntries_wf)
    | (rename_i can; exact can.mem)
    | ((with_reducible show Changes _ _ _ (Dev.mk _ _ _ _ _ _ _ _ _ _ _ _ _ _ _ _ _ _ _ _ _ _ _ _ _ _ _ _ _ _)); refine mk_after ?_ (.inr (within_mem hS (by decide))) (.inl rfl) (.inl rfl) (.inl rfl) (.inl rfl) (.inl rfl) (.inl rfl) (.inl rfl) (.inl rfl) (.inl rfl) (.inl rfl) (.inl rfl) (.inl rfl) (.inl rfl) (.inl rfl) (.inl rfl) (.inl rfl) (.inl rfl) (.inl rfl) (.inl rfl) (.inl rfl) (.inl rfl) (.inl rfl) (.inl rfl) (.inl rfl) (.inl rfl) (.inl rfl) (.inl rfl) (.inl rfl) (fun can => by repeat' first | (with_reducible exact can.mem) | (with_reducible assumption) | (with_reducible apply Memory.wf_foldl) | intro _ | (with_reducible apply Memory.wf_write) | (with_reducible apply Memory.wf_set) | (with_reducible apply applyEntries_wf) | (with_reducible apply Memory.wf_forget) | (with_reducible apply Memory.wf_filter) | exact can.mem) (fun can => can.shadow))

theorem pauseCheck_after (h : Changes S W d e) (hS : within [.en] S = true) (hW : covers [] W = true) (n : Nat) :
    Changes S W d (pauseCheck n e) := by
  unfold pauseCheck
  try dsimp only
  repeat' first
    | (with_reducible assumption)
    | (with_reducible refine ite_after ?_ ?_)
    | (with_reducible apply Dev.modEn_after)
    | (intro _; try dsimp only)
    | exact within_trans (by decide) hS
    | split

theorem placeFrame_after (h : Changes S W d e) (hS : within [.regs, .mem, .en] S = true) (hW : covers [.grid 0x6088 2 0x800 6 0x10 0, .row 0x6014 2 0x800 0, .row 0x602c 2 0x800 16, .row 0x602c 2 0x800 24, .row 0x6030 2 0x800 0] W = true) (n : Nat) (r : Nat) (f : List Byte) (sfd : Nat) :
    Changes S W d (placeFrame n r f sfd e) := by
  unfold placeFrame
  try dsimp only
  repeat' first
    | (with_reducible assumption)
    | (with_reducible refine ite_after ?_ ?_)
    | (with_reducible apply raise_after)
    | (with_reducible apply ringAdvance_after)
    | (with_reducible apply countSat_after)
    | (with_reducible apply pauseCheck_after)
    | (with_reducible apply dmaWrite_after)
    | (with_reducible apply count_after)
    | (intro _; try dsimp only)
    | exact within_trans (by decide) hS
    | exact covers_trans (by decide +kernel) hW
    | exact rows_row hW (by decide +kernel) (by decide)
    | exact rows_grid hW (by decide +kernel) (by decide) (by decide)
    | split

theorem ethFrameReceived_after (h : Changes S W d e) (hS : within [.regs, .mem, .en] S = true) (hW : covers [.grid 0x6088 2 0x800 6 0x10 0, .row 0x6014 2 0x800 0, .row 0x602c 2 0x800 0, .row 0x602c 2 0x800 8, .row 0x602c 2 0x800 16, .row 0x602c 2 0x800 24, .row 0x6030 2 0x800 0] W = true) (n : Nat) (f : List Byte) (fcsOk : Bool) (cut : Bool) (sfd : Nat) :
    Changes S W d (ethFrameReceived n f fcsOk cut sfd e) := by
  unfold ethFrameReceived
  try dsimp only
  repeat' first
    | (with_reducible assumption)
    | (with_reducible refine ite_after ?_ ?_)
    | (with_reducible apply placeFrame_after)
    | (with_reducible apply countSat_after)
    | (with_reducible apply Dev.modEn_after)
    | (intro _; try dsimp only)
    | exact within_trans (by decide) hS
    | exact covers_trans (by decide +kernel) hW
    | exact rows_row hW (by decide +kernel) (by decide)
    | exact rows_grid hW (by decide +kernel) (by decide) (by decide)
    | split

theorem placeWaiting_after (h : Changes S W d e) (hS : within [.regs, .mem, .en] S = true) (hW : covers [.grid 0x6088 2 0x800 6 0x10 0, .row 0x6014 2 0x800 0, .row 0x602c 2 0x800 16, .row 0x602c 2 0x800 24, .row 0x6030 2 0x800 0] W = true) :
    Changes S W d (placeWaiting e) := by
  unfold placeWaiting
  try dsimp only
  repeat' first
    | (with_reducible assumption)
    | (with_reducible refine ite_after ?_ ?_)
    | (with_reducible apply placeFrame_after)
    | (with_reducible apply each_after)
    | (with_reducible apply Dev.modEn_after)
    | (intro _; try dsimp only)
    | exact within_trans (by decide) hS
    | exact covers_trans (by decide +kernel) hW
    | exact rows_row hW (by decide +kernel) (by decide)
    | exact rows_grid hW (by decide +kernel) (by decide) (by decide)
    | split

theorem pauseHoldEnd_after (h : Changes S W d e) (hS : within [.en] S = true) (hW : covers [] W = true) (n : Nat) :
    Changes S W d (pauseHoldEnd n e) := by
  unfold pauseHoldEnd
  try dsimp only
  repeat' first
    | (with_reducible assumption)
    | (with_reducible refine ite_after ?_ ?_)
    | (with_reducible apply Dev.modEn_after)
    | (intro _; try dsimp only)
    | exact within_trans (by decide) hS
    | split

theorem ringTailWrite_after (h : Changes S W d e) (hS : within [.regs, .en] S = true) (hW : covers [.errors, .grid 0x608c 2 0x800 6 0x10 0] W = true) (p : Path) (n : Nat) (r : Nat) (w : Word) :
    Changes S W d (ringTailWrite p n r w e) := by
  unfold ringTailWrite
  try dsimp only
  repeat' first
    | (with_reducible assumption)
    | (with_reducible refine ite_after ?_ ?_)
    | (with_reducible apply wr_after)
    | (with_reducible apply pauseCheck_after)
    | (with_reducible apply errRange_after)
    | (intro _; try dsimp only)
    | exact within_trans (by decide) hS
    | exact covers_trans (by decide) hW
    | exact rows_grid hW (by decide) (by decide) (by decide)
    | split

theorem skipEmpty_after (h : Changes S W d e) (hS : within [.regs, .mem] S = true) (hW : covers [.grid 0x6088 2 0x800 6 0x10 0] W = true) (n : Nat) (r : Nat) (x2 : Nat) :
    Changes S W d (skipEmpty n r x2 e) := by
  induction x2 generalizing e with
  | zero =>
    unfold skipEmpty
    try dsimp only
    repeat' first
      | (with_reducible assumption)
      | (with_reducible refine ite_after ?_ ?_)
      | (with_reducible apply ih)
      | (with_reducible apply ringAdvance_after)
      | (with_reducible apply dmaWrite_after)
      | (intro _; try dsimp only)
      | exact within_trans (by decide) hS
      | exact covers_trans (by decide) hW
      | exact rows_grid hW (by decide) (by decide) (by decide)
      | split
      | (have q := congrArg Prod.snd ‹(_ : Dev → Dev) = _›; dsimp only at q; rw [← q]; clear q)
  | succ _ ih =>
    unfold skipEmpty
    try dsimp only
    repeat' first
      | (with_reducible assumption)
      | (with_reducible refine ite_after ?_ ?_)
      | (with_reducible apply ih)
      | (with_reducible apply ringAdvance_after)
      | (with_reducible apply dmaWrite_after)
      | (intro _; try dsimp only)
      | exact within_trans (by decide) hS
      | exact covers_trans (by decide) hW
      | exact rows_grid hW (by decide) (by decide) (by decide)
      | split
      | (have q := congrArg Prod.snd ‹(_ : Dev → Dev) = _›; dsimp only at q; rw [← q]; clear q)

theorem sendFrame_after (h : Changes S W d e) (hS : within [.regs, .mem, .lq, .out, .sv, .hs, .en] S = true) (hW : covers [.grid 0x6088 2 0x800 6 0x10 0, .row 0x5014 2 0x800 6, .row 0x5014 2 0x800 24, .row 0x6030 2 0x800 16, .row 0x2100c 32 0x40 3, .row 0x2100c 32 0x40 4, .row 0x2100c 32 0x40 5, .row 0x21024 32 0x40 0] W = true) (n : Nat) (r : Nat) (sfd : Nat) :
    Changes S W d (sendFrame n r sfd e) := by
  unfold sendFrame
  try dsimp only
  repeat' first
    | (with_reducible assumption)
    | (with_reducible refine ite_after ?_ ?_)
    | (with_reducible apply Dev.post_after)
    | (with_reducible apply ringAdvance_after)
    | (with_reducible apply Dev.modEn_after)
    | (with_reducible apply dmaWrite_after)
    | (with_reducible apply count_after)
    | (intro _; try dsimp only)
    | exact within_trans (by decide) hS
    | exact covers_trans (by decide +kernel) hW
    | exact rows_row hW (by decide +kernel) (by decide)
    | exact rows_grid hW (by decide +kernel) (by decide) (by decide)
    | split

theorem ethFrameTransmitted_after (h : Changes S W d e) (hS : within [.regs, .mem, .lq, .out, .sv, .hs, .en] S = true) (hW : covers [.grid 0x6088 2 0x800 6 0x10 0, .row 0x5014 2 0x800 6, .row 0x5014 2 0x800 24, .row 0x6030 2 0x800 16, .row 0x2100c 32 0x40 3, .row 0x2100c 32 0x40 4, .row 0x2100c 32 0x40 5, .row 0x21024 32 0x40 0] W = true) (n : Nat) (sfd : Nat) :
    Changes S W d (ethFrameTransmitted n sfd e) := by
  unfold ethFrameTransmitted
  try dsimp only
  repeat' first
    | (with_reducible assumption)
    | (with_reducible refine ite_after ?_ ?_)
    | (with_reducible apply sendFrame_after)
    | (with_reducible apply skipEmpty_after)
    | (intro _; try dsimp only)
    | exact within_trans (by decide) hS
    | exact covers_trans (by decide +kernel) hW
    | exact rows_row hW (by decide +kernel) (by decide)
    | exact rows_grid hW (by decide +kernel) (by decide) (by decide)
    | split

theorem mdioCmd_after (h : Changes S W d e) (hS : within [.regs] S = true) (hW : covers [.errors, .one 200736, .one 200754, .one 200759, .one 200764, .one 200766, .one 200767] W = true) (p : Path) (w : Word) :
    Changes S W d (mdioCmd p w e) := by
  unfold mdioCmd
  try dsimp only
  repeat' first
    | (with_reducible assumption)
    | (with_reducible refine ite_after ?_ ?_)
    | (with_reducible apply wr_after)
    | (with_reducible apply raise_after)
    | (with_reducible apply accessError_after)
    | (intro _; try dsimp only)
    | exact within_trans (by decide) hS
    | exact covers_trans (by decide +kernel) hW
    | exact rows_one hW (by decide +kernel)
    | exact blockBase_mem _
    | (with_reducible show _ ∈ blockBases; decide)
    | split

theorem mdioDone_after (h : Changes S W d e) (hS : within [.regs] S = true) (hW : covers [.one 200736, .one 200752, .one 200767] W = true) (phy : Bool) (data : Nat) :
    Changes S W d (mdioDone phy data e) := by
  unfold mdioDone
  try dsimp only
  repeat' first
    | (with_reducible assumption)
    | (with_reducible refine ite_after ?_ ?_)
    | (with_reducible apply wr_after)
    | (with_reducible apply lower_after)
    | (intro _; try dsimp only)
    | exact within_trans (by decide) hS
    | exact covers_trans (by decide) hW
    | exact rows_one hW (by decide)
    | split

theorem execSgmiiAutoneg_changes {s t : State} (n : Fin 2) (link : Bool) (full : Bool) (speed : Fin 3) (h : execSgmiiAutoneg n link full speed s = .next t) :
    t.pending = s.pending ∧ Changes [.regs, .out, .en] [.row 0x6014 2 0x800 1, .row 0x6014 2 0x800 2, .row 0x6014 2 0x800 29, .row 0x6014 2 0x800 31] s.dev t.dev := by
  unfold execSgmiiAutoneg at h
  refine act_changes (by decide) h fun e h => ?_
  repeat' first
    | (with_reducible assumption)
    | (with_reducible refine ite_after ?_ ?_)
    | (with_reducible apply sgmiiAutoneg_after)
    | (intro _; try dsimp only)
    | exact within_trans (by decide) (within_refl _)
    | exact covers_trans (by decide +kernel) (covers_refl _)
    | exact rows_row (covers_refl _) (by decide +kernel) (by decide)
    | split

theorem execEthFrameReceived_changes {s t : State} (n : Fin 2) (frame : List Byte) (fcsOk : Bool) (cut : Bool) (sfd : Nat) (h : execEthFrameReceived n frame fcsOk cut sfd s = .next t) :
    t.pending = s.pending ∧ Changes [.regs, .mem, .out, .en] [.grid 0x6088 2 0x800 6 0x10 0, .row 0x6014 2 0x800 0, .row 0x602c 2 0x800 0, .row 0x602c 2 0x800 8, .row 0x602c 2 0x800 16, .row 0x602c 2 0x800 24, .row 0x6030 2 0x800 0] s.dev t.dev := by
  unfold execEthFrameReceived at h
  refine act_changes (by decide) h fun e h => ?_
  repeat' first
    | (with_reducible assumption)
    | (with_reducible refine ite_after ?_ ?_)
    | (with_reducible apply ethFrameReceived_after)
    | (intro _; try dsimp only)
    | exact within_trans (by decide) (within_refl _)
    | exact covers_trans (by decide +kernel) (covers_refl _)
    | exact rows_row (covers_refl _) (by decide +kernel) (by decide)
    | exact rows_grid (covers_refl _) (by decide +kernel) (by decide) (by decide)
    | split

theorem execRingTailWrite_changes {s t : State} (p : Path) (n : Fin 2) (r : Fin 6) (w : Word) (h : execRingTailWrite p n r w s = .next t) :
    t.pending = s.pending ∧ Changes [.regs, .out, .hawserStatus, .jtagStatus, .hs, .en] [.errors, .grid 0x608c 2 0x800 6 0x10 0, .row 0x5014 2 0x800 1, .row 0x5014 2 0x800 24] s.dev t.dev := by
  unfold execRingTailWrite at h
  refine act_changes (by decide) h fun e h => ?_
  repeat' first
    | (with_reducible assumption)
    | (with_reducible refine ite_after ?_ ?_)
    | (with_reducible apply onPort_after)
    | (with_reducible apply ringTailWrite_after)
    | (intro _; try dsimp only)
    | exact within_trans (by decide) (within_refl _)
    | exact covers_trans (by decide +kernel) (covers_refl _)
    | exact rows_row (covers_refl _) (by decide +kernel) (by decide)
    | exact rows_grid (covers_refl _) (by decide +kernel) (by decide) (by decide)
    | split

theorem execEthFrameTransmitted_changes {s t : State} (n : Fin 2) (sfd : Nat) (h : execEthFrameTransmitted n sfd s = .next t) :
    t.pending = s.pending ∧ Changes [.regs, .mem, .lq, .out, .sv, .hs, .en] [.grid 0x6088 2 0x800 6 0x10 0, .row 0x5014 2 0x800 6, .row 0x5014 2 0x800 24, .row 0x6030 2 0x800 16, .row 0x2100c 32 0x40 3, .row 0x2100c 32 0x40 4, .row 0x2100c 32 0x40 5, .row 0x21024 32 0x40 0] s.dev t.dev := by
  unfold execEthFrameTransmitted at h
  refine act_changes (by decide) h fun e h => ?_
  repeat' first
    | (with_reducible assumption)
    | (with_reducible refine ite_after ?_ ?_)
    | (with_reducible apply ethFrameTransmitted_after)
    | (intro _; try dsimp only)
    | exact within_trans (by decide) (within_refl _)
    | exact covers_trans (by decide +kernel) (covers_refl _)
    | exact rows_row (covers_refl _) (by decide +kernel) (by decide)
    | exact rows_grid (covers_refl _) (by decide +kernel) (by decide) (by decide)
    | split

theorem execMdioCmd_changes {s t : State} (p : Path) (w : Word) (h : execMdioCmd p w s = .next t) :
    t.pending = s.pending ∧ Changes [.regs, .out, .hawserStatus, .jtagStatus, .hs] [.errors, .one 200736, .one 200754, .one 200759, .one 200764, .one 200766, .one 200767, .row 0x5014 2 0x800 1, .row 0x5014 2 0x800 24] s.dev t.dev := by
  unfold execMdioCmd at h
  refine act_changes (by decide) h fun e h => ?_
  repeat' first
    | (with_reducible assumption)
    | (with_reducible refine ite_after ?_ ?_)
    | (with_reducible apply mdioCmd_after)
    | (with_reducible apply onPort_after)
    | (intro _; try dsimp only)
    | exact within_trans (by decide) (within_refl _)
    | exact covers_trans (by decide +kernel) (covers_refl _)
    | exact rows_one (covers_refl _) (by decide +kernel)
    | exact rows_row (covers_refl _) (by decide +kernel) (by decide)
    | split

theorem execMdioDone_changes {s t : State} (phy : Bool) (data : BitVec 16) (h : execMdioDone phy data s = .next t) :
    t.pending = s.pending ∧ Changes [.regs, .out] [.one 200736, .one 200752, .one 200767] s.dev t.dev := by
  unfold execMdioDone at h
  refine act_changes (by decide) h fun e h => ?_
  repeat' first
    | (with_reducible assumption)
    | (with_reducible refine ite_after ?_ ?_)
    | (with_reducible apply mdioDone_after)
    | (intro _; try dsimp only)
    | exact within_trans (by decide) (within_refl _)
    | exact covers_trans (by decide) (covers_refl _)
    | exact rows_one (covers_refl _) (by decide)
    | split

theorem execPauseHoldEnd_changes {s t : State} (n : Fin 2) (h : execPauseHoldEnd n s = .next t) :
    t.pending = s.pending ∧ Changes [.out, .en] [] s.dev t.dev := by
  unfold execPauseHoldEnd at h
  refine act_changes (by decide) h fun e h => ?_
  repeat' first
    | (with_reducible assumption)
    | (with_reducible refine ite_after ?_ ?_)
    | (with_reducible apply pauseHoldEnd_after)
    | (intro _; try dsimp only)
    | exact within_trans (by decide) (within_refl _)
    | split

end

end Sys2Proof.Machine
end

