-- ==== Sys2Proof/Laws/ChangesCalib.lean ====
section
/-!
SUPPORT. What every operation of Machine/Calib can change.
-/

set_option Elab.async false
set_option linter.all false

namespace Sys2Proof.Machine

section
variable {S : List Part} {W : List Span} {d e : Dev}

theorem Dev.modCl_after (h : Changes S W d e) (hS : within [.cl] S = true) (hW : covers [] W = true) (f : ClSt → ClSt) :
    Changes S W d (Dev.modCl e f) := by
  unfold Dev.modCl
  try dsimp only
  repeat' first
    | (with_reducible assumption)
    | (with_reducible refine ite_after ?_ ?_)
    | (intro _; try dsimp only)
    | exact within_trans (by decide) hS
    | split
    | (with_reducible apply set_cl_after)
    | ((with_reducible show Changes _ _ _ (Dev.mk _ _ _ _ _ _ _ _ _ _ _ _ _ _ _ _ _ _ _ _ _ _ _ _ _ _ _ _ _ _)); refine mk_after ?_ (.inl rfl) (.inl rfl) (.inl rfl) (.inl rfl) (.inl rfl) (.inl rfl) (.inl rfl) (.inl rfl) (.inl rfl) (.inl rfl) (.inl rfl) (.inl rfl) (.inl rfl) (.inl rfl) (.inl rfl) (.inl rfl) (.inl rfl) (.inl rfl) (.inl rfl) (.inl rfl) (.inl rfl) (.inl rfl) (.inl rfl) (.inl rfl) (.inl rfl) (.inl rfl) (.inr (within_mem hS (by decide))) (.inl rfl) (.inl rfl) (fun can => can.mem) (fun can => can.shadow))

theorem Dev.modClChan_after (h : Changes S W d e) (hS : within [.cl] S = true) (hW : covers [] W = true) (n : Nat) (f : ClChan → ClChan) :
    Changes S W d (Dev.modClChan e n f) := by
  unfold Dev.modClChan
  try dsimp only
  repeat' first
    | (with_reducible assumption)
    | (with_reducible refine ite_after ?_ ?_)
    | (with_reducible apply Dev.modCl_after)
    | (intro _; try dsimp only)
    | exact within_trans (by decide) hS
    | split

theorem readSlots_after (h : Changes S W d e) (hS : within [.regs] S = true) (hW : covers [.one 65666, .one 65675, .one 65680, .one 66080, .one 66112] W = true) :
    Changes S W d (readSlots e) := by
  unfold readSlots
  try dsimp only
  repeat' first
    | (with_reducible assumption)
    | (with_reducible refine ite_after ?_ ?_)
    | (with_reducible apply wr_after)
    | (with_reducible apply raiseIf_after)
    | (intro _; try dsimp only)
    | exact within_trans (by decide) hS
    | exact covers_trans (by decide +kernel) hW
    | exact rows_one hW (by decide +kernel)
    | split

theorem putChTrim_after (h : Changes S W d e) (hS : within [.regs] S = true) (hW : covers [.row 0x2100 24 0x4 7, .row 0x2100 24 0x4 16, .row 0x2100 24 0x4 21, .row 0x2100 24 0x4 26] W = true) (n : Nat) (t0 : ChTrim) (src : Nat) :
    Changes S W d (putChTrim n t0 src e) := by
  unfold putChTrim
  try dsimp only
  repeat' first
    | (with_reducible assumption)
    | (with_reducible refine ite_after ?_ ?_)
    | (with_reducible apply wr_after)
    | (intro _; try dsimp only)
    | exact within_trans (by decide) hS
    | exact covers_trans (by decide +kernel) hW
    | exact rows_row hW (by decide +kernel) (by decide)
    | split

theorem loadTrims_after (h : Changes S W d e) (hS : within [.regs] S = true) (hW : covers [.one 66052, .one 66054, .one 66056, .one 66064, .one 66072, .row 0x2100 24 0x4 7, .row 0x2100 24 0x4 16, .row 0x2100 24 0x4 21, .row 0x2100 24 0x4 26] W = true) :
    Changes S W d (loadTrims e) := by
  unfold loadTrims
  try dsimp only
  repeat' first
    | (with_reducible assumption)
    | (with_reducible refine ite_after ?_ ?_)
    | (with_reducible apply wr_after)
    | (with_reducible apply each_after)
    | (with_reducible apply putChTrim_after)
    | (intro _; try dsimp only)
    | exact within_trans (by decide) hS
    | exact covers_trans (by decide +kernel) hW
    | exact rows_one hW (by decide +kernel)
    | exact rows_row hW (by decide +kernel) (by decide)
    | split

theorem staleAll_after (h : Changes S W d e) (hS : within [.regs] S = true) (hW : covers [.one 33151, .row 0x40038 24 0x2000 31, .row 0x4010c 24 0x2000 31, .row 0x40110 24 0x2000 31] W = true) :
    Changes S W d (staleAll e) := by
  unfold staleAll
  try dsimp only
  repeat' first
    | (with_reducible assumption)
    | (with_reducible refine ite_after ?_ ?_)
    | (with_reducible apply raise_after)
    | (with_reducible apply each_after)
    | (intro _; try dsimp only)
    | exact within_trans (by decide) hS
    | exact covers_trans (by decide +kernel) hW
    | exact rows_one hW (by decide +kernel)
    | exact rows_row hW (by decide +kernel) (by decide)
    | split

theorem calStart_after (h : Changes S W d e) (hS : within [.regs, .cl] S = true) (hW : covers [.one 65692, .one 65695] W = true) :
    Changes S W d (calStart e) := by
  unfold calStart
  try dsimp only
  repeat' first
    | (with_reducible assumption)
    | (with_reducible refine ite_after ?_ ?_)
    | (with_reducible apply wr_after)
    | (with_reducible apply raise_after)
    | (with_reducible apply Dev.modCl_after)
    | (intro _; try dsimp only)
    | exact within_trans (by decide) hS
    | exact covers_trans (by decide) hW
    | exact rows_one hW (by decide)
    | split

theorem calAbort_after (h : Changes S W d e) (hS : within [.regs, .cl] S = true) (hW : covers [.one 65692, .one 65695] W = true) :
    Changes S W d (calAbort e) := by
  unfold calAbort
  try dsimp only
  repeat' first
    | (with_reducible assumption)
    | (with_reducible refine ite_after ?_ ?_)
    | (with_reducible apply wr_after)
    | (with_reducible apply lower_after)
    | (with_reducible apply Dev.modCl_after)
    | (intro _; try dsimp only)
    | exact within_trans (by decide) hS
    | exact covers_trans (by decide) hW
    | exact rows_one hW (by decide)
    | split

theorem calUnlock_after (h : Changes S W d e) (hS : within [.cl] S = true) (hW : covers [] W = true) :
    Changes S W d (calUnlock e) := by
  unfold calUnlock
  try dsimp only
  repeat' first
    | (with_reducible assumption)
    | (with_reducible refine ite_after ?_ ?_)
    | (with_reducible apply Dev.modCl_after)
    | (intro _; try dsimp only)
    | exact within_trans (by decide) hS
    | split

theorem calRelock_after (h : Changes S W d e) (hS : within [.regs, .cl] S = true) (hW : covers [.one 65692, .one 65695] W = true) :
    Changes S W d (calRelock e) := by
  unfold calRelock
  try dsimp only
  repeat' first
    | (with_reducible assumption)
    | (with_reducible refine ite_after ?_ ?_)
    | (with_reducible apply calStart_after)
    | (intro _; try dsimp only)
    | exact within_trans (by decide) hS
    | exact covers_trans (by decide) hW
    | exact rows_one hW (by decide)
    | split

theorem calWait_after (h : Changes S W d e) (hS : within [.regs, .time, .clk] S = true) (hW : covers [.one 98752] W = true) (us : Nat) :
    Changes S W d (calWait us e) := by
  unfold calWait
  try dsimp only
  repeat' first
    | (with_reducible assumption)
    | (with_reducible refine ite_after ?_ ?_)
    | (with_reducible apply Dev.reach_after)
    | (intro _; try dsimp only)
    | exact within_trans (by decide) hS
    | exact covers_trans (by decide) hW
    | exact rows_one hW (by decide)
    | split

theorem calStepDone_after (h : Changes S W d e) (hS : within [.regs, .time, .clk, .cl] S = true) (hW : covers [.one 65692, .one 98752] W = true) (dev : Int) (lvl : Int) (ppm : Int) (iref : Nat) (ofs : Nat) (slope : Nat) :
    Changes S W d (calStepDone dev lvl ppm iref ofs slope e) := by
  unfold calStepDone
  try dsimp only
  repeat' first
    | (with_reducible assumption)
    | (with_reducible refine ite_after ?_ ?_)
    | (with_reducible apply wr_after)
    | (with_reducible apply Dev.modCl_after)
    | (with_reducible apply calWait_after)
    | (intro _; try dsimp only)
    | exact within_trans (by decide) hS
    | exact covers_trans (by decide) hW
    | exact rows_one hW (by decide)
    | split

theorem calOne_after (h : Changes S W d e) (hS : within [.cl] S = true) (hW : covers [] W = true) (m : CalMeas) (n : Nat) :
    Changes S W d (calOne m n e) := by
  unfold calOne
  try dsimp only
  repeat' first
    | (with_reducible assumption)
    | (with_reducible refine ite_after ?_ ?_)
    | (with_reducible apply Dev.modClChan_after)
    | (intro _; try dsimp only)
    | exact within_trans (by decide) hS
    | split

theorem slotOver_after (h : Changes S W d e) (hS : within [.regs, .time, .clk] S = true) (hW : covers [.one 98752] W = true) :
    Changes S W d (slotOver e) := by
  unfold slotOver
  try dsimp only
  repeat' first
    | (with_reducible assumption)
    | (with_reducible refine ite_after ?_ ?_)
    | (with_reducible apply Dev.reach_after)
    | (intro _; try dsimp only)
    | exact within_trans (by decide) hS
    | exact covers_trans (by decide) hW
    | exact rows_one hW (by decide)
    | split

theorem calBlock_after (h : Changes S W d e) (hS : within [.regs, .time, .clk, .cl] S = true) (hW : covers [.one 65692, .one 98752] W = true) (ms : List CalMeas) :
    Changes S W d (calBlock ms e) := by
  unfold calBlock
  try dsimp only
  repeat' first
    | (with_reducible assumption)
    | (with_reducible refine ite_after ?_ ?_)
    | (with_reducible apply wr_after)
    | (with_reducible apply each_after)
    | (with_reducible apply Dev.modCl_after)
    | (with_reducible apply calOne_after)
    | (with_reducible apply Dev.reach_after)
    | (with_reducible apply slotOver_after)
    | (intro _; try dsimp only)
    | exact within_trans (by decide) hS
    | exact covers_trans (by decide) hW
    | exact rows_one hW (by decide)
    | split

theorem calResults_after (h : Changes S W d e) (hS : within [.regs, .cl] S = true) (hW : covers [.one 65664, .one 65665, .one 65685, .one 65686, .one 65687, .one 65688, .one 65690, .one 65696, .one 65728, .one 66016, .one 66032, .one 66040, .one 66052, .one 66054, .one 66056, .one 66064, .one 66072, .row 0x2100 24 0x4 5, .row 0x2100 24 0x4 6, .row 0x2100 24 0x4 7, .row 0x2100 24 0x4 9, .row 0x2100 24 0x4 11, .row 0x2100 24 0x4 13, .row 0x2100 24 0x4 16, .row 0x2100 24 0x4 21, .row 0x2100 24 0x4 26] W = true) :
    Changes S W d (calResults e) := by
  unfold calResults
  try dsimp only
  repeat' first
    | (with_reducible assumption)
    | (with_reducible refine ite_after ?_ ?_)
    | (with_reducible apply wr_after)
    | (with_reducible apply raiseIf_after)
    | (with_reducible apply each_after)
    | (with_reducible apply flag_after)
    | (with_reducible apply Dev.modCl_after)
    | (with_reducible apply putChTrim_after)
    | (intro _; try dsimp only)
    | exact within_trans (by decide) hS
    | exact covers_trans (by decide +kernel) hW
    | exact rows_one hW (by decide +kernel)
    | exact rows_row hW (by decide +kernel) (by decide)
    | split

theorem calCount_after (h : Changes S W d e) (hS : within [.regs] S = true) (hW : covers [.one 65667, .one 65824, .one 65920] W = true) :
    Changes S W d (calCount e) := by
  unfold calCount
  try dsimp only
  repeat' first
    | (with_reducible assumption)
    | (with_reducible refine ite_after ?_ ?_)
    | (with_reducible apply wr_after)
    | (with_reducible apply raise_after)
    | (intro _; try dsimp only)
    | exact within_trans (by decide) hS
    | exact covers_trans (by decide) hW
    | exact rows_one hW (by decide)
    | split

theorem enterRuntime_after (h : Changes S W d e) (hS : within [.regs, .mem, .boot, .chans, .ts, .lq, .out, .freeCtr, .cy, .shadow, .sv, .tc, .hs] S = true) (hW : covers [.one 672, .one 1573032, .one 1573054, .one 1573055, .one 1704158, .one 1704160, .one 1704188, .one 1704212, .one 1835223, .row 0x5014 2 0x800 6, .row 0x5014 2 0x800 24, .row 0x2100c 32 0x40 3, .row 0x2100c 32 0x40 4, .row 0x2100c 32 0x40 5, .row 0x21024 32 0x40 0] W = true) :
    Changes S W d (enterRuntime e) := by
  unfold enterRuntime
  try dsimp only
  repeat' first
    | (with_reducible assumption)
    | (with_reducible refine ite_after ?_ ?_)
    | (with_reducible apply flushTimeEvents_after)
    | (with_reducible apply settleServices_after)
    | (with_reducible apply runtimeStart_after)
    | (intro _; try dsimp only)
    | exact within_trans (by decide) hS
    | exact covers_trans (by decide +kernel) hW
    | exact rows_one hW (by decide +kernel)
    | exact rows_row hW (by decide +kernel) (by decide)
    | split

theorem calFinish_after (h : Changes S W d e) (hS : within [.regs, .mem, .time, .boot, .chans, .ts, .lq, .out, .freeCtr, .clk, .cy, .shadow, .sv, .tc, .hs, .cl] S = true) (hW : covers [.one 672, .one 32912, .one 65664, .one 65665, .one 65667, .one 65685, .one 65686, .one 65687, .one 65688, .one 65690, .one 65692, .one 65695, .one 65696, .one 65728, .one 65824, .one 65920, .one 66016, .one 66032, .one 66040, .one 66052, .one 66054, .one 66056, .one 66064, .one 66072, .one 98752, .one 1573032, .one 1573054, .one 1573055, .one 1704158, .one 1704160, .one 1704188, .one 1704212, .one 1835223, .row 0x2100 24 0x4 5, .row 0x2100 24 0x4 6, .row 0x2100 24 0x4 7, .row 0x2100 24 0x4 9, .row 0x2100 24 0x4 11, .row 0x2100 24 0x4 13, .row 0x2100 24 0x4 16, .row 0x2100 24 0x4 21, .row 0x2100 24 0x4 26, .row 0x5014 2 0x800 6, .row 0x5014 2 0x800 24, .row 0x2100c 32 0x40 3, .row 0x2100c 32 0x40 4, .row 0x2100c 32 0x40 5, .row 0x21024 32 0x40 0] W = true) :
    Changes S W d (calFinish e) := by
  unfold calFinish
  try dsimp only
  repeat' first
    | (with_reducible assumption)
    | (with_reducible refine ite_after ?_ ?_)
    | (with_reducible apply wr_after)
    | (with_reducible apply calCount_after)
    | (with_reducible apply lower_after)
    | (with_reducible apply enterRuntime_after)
    | (with_reducible apply calResults_after)
    | (with_reducible apply calWait_after)
    | (intro _; try dsimp only)
    | exact within_trans (by decide) hS
    | exact covers_trans (by decide +kernel) hW
    | exact rows_one hW (by decide +kernel)
    | exact rows_row hW (by decide +kernel) (by decide)
    | split

theorem commitCmd_after (h : Changes S W d e) (hS : within [.regs, .cl] S = true) (hW : covers [.errors, .one 65792, .one 65808, .one 65823] W = true) (p : Path) :
    Changes S W d (commitCmd p e) := by
  unfold commitCmd
  try dsimp only
  repeat' first
    | (with_reducible assumption)
    | (with_reducible refine ite_after ?_ ?_)
    | (with_reducible apply wr_after)
    | (with_reducible apply raise_after)
    | (with_reducible apply Dev.modCl_after)
    | (with_reducible apply errLocked_after)
    | (intro _; try dsimp only)
    | exact within_trans (by decide) hS
    | exact covers_trans (by decide +kernel) hW
    | exact rows_one hW (by decide +kernel)
    | split

theorem putSlot_after (h : Changes S W d e) (hS : within [.fuses] S = true) (hW : covers [] W = true) (k : Nat) (r : List Byte) :
    Changes S W d (putSlot k r e) := by
  unfold putSlot
  try dsimp only
  repeat' first
    | (with_reducible assumption)
    | (with_reducible refine ite_after ?_ ?_)
    | (intro _; try dsimp only)
    | exact within_trans (by decide) hS
    | split
    | (with_reducible apply set_fuses_after)
    | ((with_reducible show Changes _ _ _ (Dev.mk _ _ _ _ _ _ _ _ _ _ _ _ _ _ _ _ _ _ _ _ _ _ _ _ _ _ _ _ _ _)); refine mk_after ?_ (.inl rfl) (.inl rfl) (.inl rfl) (.inl rfl) (.inl rfl) (.inl rfl) (.inl rfl) (.inl rfl) (.inl rfl) (.inl rfl) (.inl rfl) (.inr (within_mem hS (by decide))) (.inl rfl) (.inl rfl) (.inl rfl) (.inl rfl) (.inl rfl) (.inl rfl) (.inl rfl) (.inl rfl) (.inl rfl) (.inl rfl) (.inl rfl) (.inl rfl) (.inl rfl) (.inl rfl) (.inl rfl) (.inl rfl) (.inl rfl) (fun can => can.mem) (fun can => can.shadow))

theorem commitBurnDone_after (h : Changes S W d e) (hS : within [.regs, .fuses, .cl] S = true) (hW : covers [.one 65666, .one 65675, .one 65680, .one 65808, .one 65823, .one 66080, .one 66112] W = true) (ok : Bool) :
    Changes S W d (commitBurnDone ok e) := by
  unfold commitBurnDone
  try dsimp only
  repeat' first
    | (with_reducible assumption)
    | (with_reducible refine ite_after ?_ ?_)
    | (with_reducible apply wr_after)
    | (with_reducible apply lower_after)
    | (with_reducible apply Dev.modCl_after)
    | (with_reducible apply putSlot_after)
    | (with_reducible apply readSlots_after)
    | (intro _; try dsimp only)
    | exact within_trans (by decide) hS
    | exact covers_trans (by decide +kernel) hW
    | exact rows_one hW (by decide +kernel)
    | split

theorem commitCut_after (h : Changes S W d e) (hS : within [.freeCtr, .fuses, .cl] S = true) (hW : covers [] W = true) :
    Changes S W d (commitCut e) := by
  unfold commitCut
  try dsimp only
  repeat' first
    | (with_reducible assumption)
    | (with_reducible refine ite_after ?_ ?_)
    | (with_reducible apply Dev.modCl_after)
    | (with_reducible apply putSlot_after)
    | (with_reducible apply free_after)
    | (intro _; try dsimp only)
    | exact within_trans (by decide) hS
    | split

theorem execCalStepDone_changes {s t : State} (dev : Int) (lvl : Int) (ppm : Int) (iref : Byte) (ofs : Byte) (slope : Byte) (h : execCalStepDone dev lvl ppm iref ofs slope s = .next t) :
    t.pending = s.pending ∧ Changes [.regs, .time, .out, .clk, .cl] [.one 65692, .one 98752] s.dev t.dev := by
  unfold execCalStepDone at h
  refine act_changes (by decide) h fun e h => ?_
  repeat' first
    | (with_reducible assumption)
    | (with_reducible refine ite_after ?_ ?_)
    | (with_reducible apply calStepDone_after)
    | (intro _; try dsimp only)
    | exact within_trans (by decide) (within_refl _)
    | exact covers_trans (by decide) (covers_refl _)
    | exact rows_one (covers_refl _) (by decide)
    | split

theorem execCalBlock_changes {s t : State} (m0 : CalMeas) (m1 : CalMeas) (m2 : CalMeas) (m3 : CalMeas) (h : execCalBlock m0 m1 m2 m3 s = .next t) :
    t.pending = s.pending ∧ Changes [.regs, .time, .out, .clk, .cl] [.one 65692, .one 98752] s.dev t.dev := by
  unfold execCalBlock at h
  refine act_changes (by decide) h fun e h => ?_
  repeat' first
    | (with_reducible assumption)
    | (with_reducible refine ite_after ?_ ?_)
    | (with_reducible apply calBlock_after)
    | (intro _; try dsimp only)
    | exact within_trans (by decide) (within_refl _)
    | exact covers_trans (by decide) (covers_refl _)
    | exact rows_one (covers_refl _) (by decide)
    | split

theorem execCalFinish_changes {s t : State} (h : execCalFinish s = .next t) :
    t.pending = s.pending ∧ Changes [.regs, .mem, .time, .boot, .chans, .ts, .lq, .out, .freeCtr, .clk, .cy, .shadow, .sv, .tc, .hs, .cl] [.one 672, .one 32912, .one 65664, .one 65665, .one 65667, .one 65685, .one 65686, .one 65687, .one 65688, .one 65690, .one 65692, .one 65695, .one 65696, .one 65728, .one 65824, .one 65920, .one 66016, .one 66032, .one 66040, .one 66052, .one 66054, .one 66056, .one 66064, .one 66072, .one 98752, .one 1573032, .one 1573054, .one 1573055, .one 1704158, .one 1704160, .one 1704188, .one 1704212, .one 1835223, .row 0x2100 24 0x4 5, .row 0x2100 24 0x4 6, .row 0x2100 24 0x4 7, .row 0x2100 24 0x4 9, .row 0x2100 24 0x4 11, .row 0x2100 24 0x4 13, .row 0x2100 24 0x4 16, .row 0x2100 24 0x4 21, .row 0x2100 24 0x4 26, .row 0x5014 2 0x800 6, .row 0x5014 2 0x800 24, .row 0x2100c 32 0x40 3, .row 0x2100c 32 0x40 4, .row 0x2100c 32 0x40 5, .row 0x21024 32 0x40 0] s.dev t.dev := by
  unfold execCalFinish at h
  refine act_changes (by decide) h fun e h => ?_
  repeat' first
    | (with_reducible assumption)
    | (with_reducible refine ite_after ?_ ?_)
    | (with_reducible apply calFinish_after)
    | (intro _; try dsimp only)
    | exact within_trans (by decide) (within_refl _)
    | exact covers_trans (by decide +kernel) (covers_refl _)
    | exact rows_one (covers_refl _) (by decide +kernel)
    | exact rows_row (covers_refl _) (by decide +kernel) (by decide)
    | split

theorem execCommit_changes {s t : State} (p : Path) (h : execCommit p s = .next t) :
    t.pending = s.pending ∧ Changes [.regs, .out, .hawserStatus, .jtagStatus, .hs, .cl] [.errors, .one 65792, .one 65808, .one 65823, .row 0x5014 2 0x800 1, .row 0x5014 2 0x800 24] s.dev t.dev := by
  unfold execCommit at h
  refine act_changes (by decide) h fun e h => ?_
  repeat' first
    | (with_reducible assumption)
    | (with_reducible refine ite_after ?_ ?_)
    | (with_reducible apply commitCmd_after)
    | (with_reducible apply onPort_after)
    | (intro _; try dsimp only)
    | exact within_trans (by decide) (within_refl _)
    | exact covers_trans (by decide +kernel) (covers_refl _)
    | exact rows_one (covers_refl _) (by decide +kernel)
    | exact rows_row (covers_refl _) (by decide +kernel) (by decide)
    | split

theorem execCommitBurnDone_changes {s t : State} (ok : Bool) (h : execCommitBurnDone ok s = .next t) :
    t.pending = s.pending ∧ Changes [.regs, .out, .fuses, .cl] [.one 65666, .one 65675, .one 65680, .one 65808, .one 65823, .one 66080, .one 66112] s.dev t.dev := by
  unfold execCommitBurnDone at h
  refine act_changes (by decide) h fun e h => ?_
  repeat' first
    | (with_reducible assumption)
    | (with_reducible refine ite_after ?_ ?_)
    | (with_reducible apply commitBurnDone_after)
    | (intro _; try dsimp only)
    | exact within_trans (by decide) (within_refl _)
    | exact covers_trans (by decide +kernel) (covers_refl _)
    | exact rows_one (covers_refl _) (by decide +kernel)
    | split

end

end Sys2Proof.Machine
end

