-- ==== Sys2Proof/Laws/ChangesLinks.lean ====
section
/-!
SUPPORT. What every operation of Machine/Links can change.
-/

set_option Elab.async false
set_option linter.all false

namespace Sys2Proof.Machine

section
variable {S : List Part} {W : List Span} {d e : Dev}

theorem Dev.modHs_after (h : Changes S W d e) (hS : within [.hs] S = true) (hW : covers [] W = true) (f : HsSt → HsSt) :
    Changes S W d (Dev.modHs e f) := by
  unfold Dev.modHs
  try dsimp only
  repeat' first
    | (with_reducible assumption)
    | (with_reducible refine ite_after ?_ ?_)
    | (intro _; try dsimp only)
    | exact within_trans (by decide) hS
    | split
    | (with_reducible apply set_hs_after)
    | ((with_reducible show Changes _ _ _ (Dev.mk _ _ _ _ _ _ _ _ _ _ _ _ _ _ _ _ _ _ _ _ _ _ _ _ _ _ _ _ _ _)); refine mk_after ?_ (.inl rfl) (.inl rfl) (.inl rfl) (.inl rfl) (.inl rfl) (.inl rfl) (.inl rfl) (.inl rfl) (.inl rfl) (.inl rfl) (.inl rfl) (.inl rfl) (.inl rfl) (.inl rfl) (.inl rfl) (.inl rfl) (.inl rfl) (.inl rfl) (.inl rfl) (.inl rfl) (.inl rfl) (.inl rfl) (.inl rfl) (.inr (within_mem hS (by decide))) (.inl rfl) (.inl rfl) (.inl rfl) (.inl rfl) (.inl rfl) (fun can => can.mem) (fun can => can.shadow))

theorem Dev.modPort_after (h : Changes S W d e) (hS : within [.hs] S = true) (hW : covers [] W = true) (p : Nat) (f : HsPort → HsPort) :
    Changes S W d (Dev.modPort e p f) := by
  unfold Dev.modPort
  try dsimp only
  repeat' first
    | (with_reducible assumption)
    | (with_reducible refine ite_after ?_ ?_)
    | (with_reducible apply Dev.modHs_after)
    | (intro _; try dsimp only)
    | exact within_trans (by decide) hS
    | split

theorem sendOn_after (h : Changes S W d e) (hS : within [.regs, .hs] S = true) (hW : covers [.one 262856] W = true) (p : Nat) (bs : List Byte) :
    Changes S W d (sendOn p bs e) := by
  unfold sendOn
  try dsimp only
  repeat' first
    | (with_reducible assumption)
    | (with_reducible refine ite_after ?_ ?_)
    | (with_reducible apply countSat_after)
    | (with_reducible apply Dev.modPort_after)
    | (with_reducible apply Dev.modHs_after)
    | (intro _; try dsimp only)
    | exact within_trans (by decide) hS
    | exact covers_trans (by decide) hW
    | exact rows_one hW (by decide)
    | split

theorem sendLocal_after (h : Changes S W d e) (hS : within [.regs, .hs] S = true) (hW : covers [.one 262856] W = true) (p : Nat) (cls : Nat) (typ : Nat) (body : List Byte) :
    Changes S W d (sendLocal p cls typ body e) := by
  unfold sendLocal
  try dsimp only
  repeat' first
    | (with_reducible assumption)
    | (with_reducible refine ite_after ?_ ?_)
    | (with_reducible apply sendOn_after)
    | (with_reducible apply Dev.modHs_after)
    | (intro _; try dsimp only)
    | exact within_trans (by decide) hS
    | exact covers_trans (by decide) hW
    | exact rows_one hW (by decide)
    | split

theorem emptyLink_after (h : Changes S W d e) (hS : within [.regs, .hs] S = true) (hW : covers [.one 262848, .row 0x8104 4 0x40 15, .row 0x8104 4 0x40 16] W = true) (p : Nat) :
    Changes S W d (emptyLink p e) := by
  unfold emptyLink
  try dsimp only
  repeat' first
    | (with_reducible assumption)
    | (with_reducible refine ite_after ?_ ?_)
    | (with_reducible apply wr_after)
    | (with_reducible apply countSat_after)
    | (with_reducible apply Dev.modPort_after)
    | (with_reducible apply lower_after)
    | (with_reducible apply Dev.modHs_after)
    | (intro _; try dsimp only)
    | exact within_trans (by decide) hS
    | exact covers_trans (by decide) hW
    | exact rows_one hW (by decide)
    | exact rows_row hW (by decide) (by decide)
    | split

theorem setLink_after (h : Changes S W d e) (hS : within [.regs] S = true) (hW : covers [.row 0x8100 4 0x40 0, .row 0x8104 4 0x40 28] W = true) (p : Nat) (s0 : Nat) :
    Changes S W d (setLink p s0 e) := by
  unfold setLink
  try dsimp only
  repeat' first
    | (with_reducible assumption)
    | (with_reducible refine ite_after ?_ ?_)
    | (with_reducible apply wr_after)
    | (with_reducible apply lower_after)
    | (intro _; try dsimp only)
    | exact within_trans (by decide) hS
    | exact covers_trans (by decide) hW
    | exact rows_row hW (by decide) (by decide)
    | split

theorem linkDrop_after (h : Changes S W d e) (hS : within [.regs, .hs] S = true) (hW : covers [.one 262848, .row 0x8100 4 0x40 0, .row 0x8104 4 0x40 3, .row 0x8104 4 0x40 15, .row 0x8104 4 0x40 16, .row 0x8104 4 0x40 28, .row 0x8114 4 0x40 0] W = true) (p : Nat) :
    Changes S W d (linkDrop p e) := by
  unfold linkDrop
  try dsimp only
  repeat' first
    | (with_reducible assumption)
    | (with_reducible refine ite_after ?_ ?_)
    | (with_reducible apply emptyLink_after)
    | (with_reducible apply raise_after)
    | (with_reducible apply countSat_after)
    | (with_reducible apply Dev.modPort_after)
    | (with_reducible apply setLink_after)
    | (intro _; try dsimp only)
    | exact within_trans (by decide) hS
    | exact covers_trans (by decide +kernel) hW
    | exact rows_one hW (by decide +kernel)
    | exact rows_row hW (by decide +kernel) (by decide)
    | split

theorem powerPorts_after (h : Changes S W d e) (hS : within [.regs, .hs] S = true) (hW : covers [.one 262848, .row 0x8100 4 0x40 0, .row 0x8104 4 0x40 15, .row 0x8104 4 0x40 16, .row 0x8104 4 0x40 28] W = true) :
    Changes S W d (powerPorts e) := by
  unfold powerPorts
  try dsimp only
  repeat' first
    | (with_reducible assumption)
    | (with_reducible refine ite_after ?_ ?_)
    | (with_reducible apply emptyLink_after)
    | (with_reducible apply each_after)
    | (with_reducible apply Dev.modPort_after)
    | (with_reducible apply setLink_after)
    | (intro _; try dsimp only)
    | exact within_trans (by decide) hS
    | exact covers_trans (by decide +kernel) hW
    | exact rows_one hW (by decide +kernel)
    | exact rows_row hW (by decide +kernel) (by decide)
    | split

theorem linkDetect_after (h : Changes S W d e) (hS : within [.regs, .freeCtr, .hs] S = true) (hW : covers [.row 0x8100 4 0x40 0, .row 0x8104 4 0x40 28] W = true) (p : Nat) :
    Changes S W d (linkDetect p e) := by
  unfold linkDetect
  try dsimp only
  repeat' first
    | (with_reducible assumption)
    | (with_reducible refine ite_after ?_ ?_)
    | (with_reducible apply Dev.modPort_after)
    | (with_reducible apply setLink_after)
    | (with_reducible apply free_after)
    | (intro _; try dsimp only)
    | exact within_trans (by decide) hS
    | exact covers_trans (by decide) hW
    | exact rows_row hW (by decide) (by decide)
    | split

theorem linkTrainDone_after (h : Changes S W d e) (hS : within [.regs] S = true) (hW : covers [.row 0x8100 4 0x40 0, .row 0x8104 4 0x40 28] W = true) (p : Nat) :
    Changes S W d (linkTrainDone p e) := by
  unfold linkTrainDone
  try dsimp only
  repeat' first
    | (with_reducible assumption)
    | (with_reducible refine ite_after ?_ ?_)
    | (with_reducible apply setLink_after)
    | (intro _; try dsimp only)
    | exact within_trans (by decide) hS
    | exact covers_trans (by decide) hW
    | exact rows_row hW (by decide) (by decide)
    | split

theorem linkAlignDone_after (h : Changes S W d e) (hS : within [.regs] S = true) (hW : covers [.row 0x8100 4 0x40 0, .row 0x8104 4 0x40 28] W = true) (p : Nat) :
    Changes S W d (linkAlignDone p e) := by
  unfold linkAlignDone
  try dsimp only
  repeat' first
    | (with_reducible assumption)
    | (with_reducible refine ite_after ?_ ?_)
    | (with_reducible apply setLink_after)
    | (intro _; try dsimp only)
    | exact within_trans (by decide) hS
    | exact covers_trans (by decide) hW
    | exact rows_row hW (by decide) (by decide)
    | split

theorem linkTrainTimeout_after (h : Changes S W d e) (hS : within [.regs] S = true) (hW : covers [.row 0x8100 4 0x40 0, .row 0x8104 4 0x40 0, .row 0x8104 4 0x40 28] W = true) (p : Nat) :
    Changes S W d (linkTrainTimeout p e) := by
  unfold linkTrainTimeout
  try dsimp only
  repeat' first
    | (with_reducible assumption)
    | (with_reducible refine ite_after ?_ ?_)
    | (with_reducible apply raiseIf_after)
    | (with_reducible apply setLink_after)
    | (intro _; try dsimp only)
    | exact within_trans (by decide) hS
    | exact covers_trans (by decide) hW
    | exact rows_row hW (by decide) (by decide)
    | split

theorem linkRedetect_after (h : Changes S W d e) (hS : within [.hs] S = true) (hW : covers [] W = true) (p : Nat) :
    Changes S W d (linkRedetect p e) := by
  unfold linkRedetect
  try dsimp only
  repeat' first
    | (with_reducible assumption)
    | (with_reducible refine ite_after ?_ ?_)
    | (with_reducible apply Dev.modPort_after)
    | (intro _; try dsimp only)
    | exact within_trans (by decide) hS
    | split

theorem lineEnergyLost_after (h : Changes S W d e) (hS : within [.regs] S = true) (hW : covers [.row 0x8100 4 0x40 0, .row 0x8104 4 0x40 28] W = true) (p : Nat) :
    Changes S W d (lineEnergyLost p e) := by
  unfold lineEnergyLost
  try dsimp only
  repeat' first
    | (with_reducible assumption)
    | (with_reducible refine ite_after ?_ ?_)
    | (with_reducible apply setLink_after)
    | (intro _; try dsimp only)
    | exact within_trans (by decide) hS
    | exact covers_trans (by decide) hW
    | exact rows_row hW (by decide) (by decide)
    | split

theorem goBack_after (h : Changes S W d e) (hS : within [.regs, .hs] S = true) (hW : covers [.one 262848, .row 0x8100 4 0x40 0, .row 0x8104 4 0x40 3, .row 0x8104 4 0x40 15, .row 0x8104 4 0x40 16, .row 0x8104 4 0x40 28, .row 0x8114 4 0x40 0] W = true) (p : Nat) :
    Changes S W d (goBack p e) := by
  unfold goBack
  try dsimp only
  repeat' first
    | (with_reducible assumption)
    | (with_reducible refine ite_after ?_ ?_)
    | (with_reducible apply linkDrop_after)
    | (with_reducible apply Dev.modPort_after)
    | (intro _; try dsimp only)
    | exact within_trans (by decide) hS
    | exact covers_trans (by decide +kernel) hW
    | exact rows_one hW (by decide +kernel)
    | exact rows_row hW (by decide +kernel) (by decide)
    | split

theorem ackFrames_after (h : Changes S W d e) (hS : within [.hs] S = true) (hW : covers [] W = true) (p : Nat) (x1 : Nat) :
    Changes S W d (ackFrames p x1 e) := by
  unfold ackFrames
  try dsimp only
  repeat' first
    | (with_reducible assumption)
    | (with_reducible refine ite_after ?_ ?_)
    | (with_reducible apply Dev.modPort_after)
    | (intro _; try dsimp only)
    | exact within_trans (by decide) hS
    | split

theorem gapSeen_after (h : Changes S W d e) (hS : within [.hs] S = true) (hW : covers [] W = true) (p : Nat) :
    Changes S W d (gapSeen p e) := by
  unfold gapSeen
  try dsimp only
  repeat' first
    | (with_reducible assumption)
    | (with_reducible refine ite_after ?_ ?_)
    | (with_reducible apply Dev.modPort_after)
    | (intro _; try dsimp only)
    | exact within_trans (by decide) hS
    | split

theorem dataFrame_after (h : Changes S W d e) (hS : within [.hs] S = true) (hW : covers [] W = true) (p : Nat) (f : LinkFrame) :
    Changes S W d (dataFrame p f e) := by
  unfold dataFrame
  try dsimp only
  repeat' first
    | (with_reducible assumption)
    | (with_reducible refine ite_after ?_ ?_)
    | (with_reducible apply gapSeen_after)
    | (with_reducible apply Dev.modPort_after)
    | (intro _; try dsimp only)
    | exact within_trans (by decide) hS
    | split

theorem codeword_after (h : Changes S W d e) (hS : within [.regs, .hs] S = true) (hW : covers [.one 262848, .row 0x8100 4 0x40 0, .row 0x8104 4 0x40 3, .row 0x8104 4 0x40 15, .row 0x8104 4 0x40 16, .row 0x8104 4 0x40 28, .row 0x8110 4 0x40 16, .row 0x8110 4 0x40 24, .row 0x8114 4 0x40 0, .row 0x8114 4 0x40 24, .row 0x8118 4 0x40 0, .row 0x8120 4 0x40 0] W = true) (p : Nat) (f : Option LinkFrame) (corrected : Bool) (iterAvg : Byte) (snr : Byte) :
    Changes S W d (codeword p f corrected iterAvg snr e) := by
  unfold codeword
  try dsimp only
  repeat' first
    | (with_reducible assumption)
    | (with_reducible refine ite_after ?_ ?_)
    | (with_reducible apply gapSeen_after)
    | (with_reducible apply linkDrop_after)
    | (with_reducible apply wr_after)
    | (with_reducible apply countSat_after)
    | (with_reducible apply Dev.modPort_after)
    | (with_reducible apply goBack_after)
    | (with_reducible apply dataFrame_after)
    | (with_reducible apply ackFrames_after)
    | (with_reducible apply count_after)
    | (intro _; try dsimp only)
    | exact within_trans (by decide) hS
    | exact covers_trans (by decide +kernel) hW
    | exact rows_one hW (by decide +kernel)
    | exact rows_row hW (by decide +kernel) (by decide)
    | split

theorem ackTimeout_after (h : Changes S W d e) (hS : within [.regs, .hs] S = true) (hW : covers [.one 262848, .row 0x8100 4 0x40 0, .row 0x8104 4 0x40 3, .row 0x8104 4 0x40 15, .row 0x8104 4 0x40 16, .row 0x8104 4 0x40 28, .row 0x8114 4 0x40 0] W = true) (p : Nat) :
    Changes S W d (ackTimeout p e) := by
  unfold ackTimeout
  try dsimp only
  repeat' first
    | (with_reducible assumption)
    | (with_reducible refine ite_after ?_ ?_)
    | (with_reducible apply goBack_after)
    | (intro _; try dsimp only)
    | exact within_trans (by decide) hS
    | exact covers_trans (by decide +kernel) hW
    | exact rows_one hW (by decide +kernel)
    | exact rows_row hW (by decide +kernel) (by decide)
    | split

theorem serveBoot_after (h : Changes S W d e) (hS : within [.regs, .hs] S = true) (hW : covers [.one 262856] W = true) (p : Nat) :
    Changes S W d (serveBoot p e) := by
  unfold serveBoot
  try dsimp only
  repeat' first
    | (with_reducible assumption)
    | (with_reducible refine ite_after ?_ ?_)
    | (with_reducible apply sendLocal_after)
    | (with_reducible apply Dev.modHs_after)
    | (intro _; try dsimp only)
    | exact within_trans (by decide) hS
    | exact covers_trans (by decide) hW
    | exact rows_one hW (by decide)
    | split

theorem linkFrameSend_after (h : Changes S W d e) (hS : within [.regs, .out, .tc, .hs] S = true) (hW : covers [.one 262856, .row 0x8114 4 0x40 8, .row 0x8114 4 0x40 16] W = true) (p : Nat) :
    Changes S W d (linkFrameSend p e) := by
  unfold linkFrameSend
  try dsimp only
  repeat' first
    | (with_reducible assumption)
    | (with_reducible refine ite_after ?_ ?_)
    | (with_reducible apply countSat_after)
    | (with_reducible apply Dev.modTc_after)
    | (with_reducible apply Dev.modPort_after)
    | (with_reducible apply serveBoot_after)
    | (intro _; try dsimp only)
    | exact within_trans (by decide) hS
    | exact covers_trans (by decide) hW
    | exact rows_one hW (by decide)
    | exact rows_row hW (by decide) (by decide)
    | split
    | (with_reducible apply set_out_after)
    | ((with_reducible show Changes _ _ _ (Dev.mk _ _ _ _ _ _ _ _ _ _ _ _ _ _ _ _ _ _ _ _ _ _ _ _ _ _ _ _ _ _)); refine mk_after ?_ (.inl rfl) (.inl rfl) (.inl rfl) (.inl rfl) (.inl rfl) (.inl rfl) (.inl rfl) (.inr (within_mem hS (by decide))) (.inl rfl) (.inl rfl) (.inl rfl) (.inl rfl) (.inl rfl) (.inl rfl) (.inl rfl) (.inl rfl) (.inl rfl) (.inl rfl) (.inl rfl) (.inl rfl) (.inl rfl) (.inl rfl) (.inl rfl) (.inl rfl) (.inl rfl) (.inl rfl) (.inl rfl) (.inl rfl) (.inl rfl) (fun can => can.mem) (fun can => can.shadow))

end

end Sys2Proof.Machine
end

