-- ==== Sys2Proof/Laws/ChangesFabric.lean ====
section
/-!
SUPPORT. What every operation of Machine/Fabric can change.
-/

set_option Elab.async false
set_option linter.all false

namespace Sys2Proof.Machine

section
variable {S : List Part} {W : List Span} {d e : Dev}

theorem fabricEvent_after (h : Changes S W d e) (hS : within [.regs, .lq, .out, .sv, .hs] S = true) (hW : covers [.row 0x5014 2 0x800 6, .row 0x5014 2 0x800 24, .row 0x2100c 32 0x40 3, .row 0x2100c 32 0x40 4, .row 0x2100c 32 0x40 5, .row 0x21024 32 0x40 0] W = true) (kind : Nat) (prev : Nat) :
    Changes S W d (fabricEvent kind prev e) := by
  unfold fabricEvent
  try dsimp only
  repeat' first
    | (with_reducible assumption)
    | (with_reducible refine ite_after ?_ ?_)
    | (with_reducible apply Dev.post_after)
    | (intro _; try dsimp only)
    | exact within_trans (by decide) hS
    | exact covers_trans (by decide +kernel) hW
    | exact rows_row hW (by decide +kernel) (by decide)
    | split

theorem flood_after (h : Changes S W d e) (hS : within [.regs, .hs] S = true) (hW : covers [.one 262856] W = true) (skip : Option Nat) (cls : Nat) (typ : Nat) (body : List Byte) :
    Changes S W d (flood skip cls typ body e) := by
  unfold flood
  try dsimp only
  repeat' first
    | (with_reducible assumption)
    | (with_reducible refine ite_after ?_ ?_)
    | (with_reducible apply each_after)
    | (with_reducible apply sendLocal_after)
    | (intro _; try dsimp only)
    | exact within_trans (by decide) hS
    | exact covers_trans (by decide) hW
    | exact rows_one hW (by decide)
    | split

theorem setRoot_after (h : Changes S W d e) (hS : within [.regs, .lq, .out, .sv, .tc, .hs] S = true) (hW : covers [.one 131425, .one 131840, .one 131904, .one 262369, .one 262400, .one 262488, .row 0x5014 2 0x800 6, .row 0x5014 2 0x800 24, .row 0x2100c 32 0x40 3, .row 0x2100c 32 0x40 4, .row 0x2100c 32 0x40 5, .row 0x21024 32 0x40 0] W = true) (prio : Nat) (unit : Nat) :
    Changes S W d (setRoot prio unit e) := by
  unfold setRoot
  try dsimp only
  repeat' first
    | (with_reducible assumption)
    | (with_reducible refine ite_after ?_ ?_)
    | (with_reducible apply wr_after)
    | (with_reducible apply raise_after)
    | (with_reducible apply fabricEvent_after)
    | (with_reducible apply setMaster_after)
    | (intro _; try dsimp only)
    | exact within_trans (by decide) hS
    | exact covers_trans (by decide +kernel) hW
    | exact rows_one hW (by decide +kernel)
    | exact rows_row hW (by decide +kernel) (by decide)
    | split

theorem setAddr_after (h : Changes S W d e) (hS : within [.regs, .lq, .out, .sv, .hs] S = true) (hW : covers [.one 262370, .one 262372, .one 262375, .one 262380, .one 262392, .row 0x5014 2 0x800 6, .row 0x5014 2 0x800 24, .row 0x2100c 32 0x40 3, .row 0x2100c 32 0x40 4, .row 0x2100c 32 0x40 5, .row 0x21024 32 0x40 0] W = true) (x0 : Nat) (conflict : Bool) :
    Changes S W d (setAddr x0 conflict e) := by
  unfold setAddr
  try dsimp only
  repeat' first
    | (with_reducible assumption)
    | (with_reducible refine ite_after ?_ ?_)
    | (with_reducible apply wr_after)
    | (with_reducible apply raise_after)
    | (with_reducible apply fabricEvent_after)
    | (with_reducible apply lower_after)
    | (with_reducible apply Dev.modHs_after)
    | (intro _; try dsimp only)
    | exact within_trans (by decide) hS
    | exact covers_trans (by decide +kernel) hW
    | exact rows_one hW (by decide +kernel)
    | exact rows_row hW (by decide +kernel) (by decide)
    | split

theorem startElect_after (h : Changes S W d e) (hS : within [.regs, .hs] S = true) (hW : covers [.one 262393] W = true) :
    Changes S W d (startElect e) := by
  unfold startElect
  try dsimp only
  repeat' first
    | (with_reducible assumption)
    | (with_reducible refine ite_after ?_ ?_)
    | (with_reducible apply wr_after)
    | (with_reducible apply Dev.modHs_after)
    | (intro _; try dsimp only)
    | exact within_trans (by decide) hS
    | exact covers_trans (by decide) hW
    | exact rows_one hW (by decide)
    | split

theorem checkDiscovery_after (h : Changes S W d e) (hS : within [.regs, .hs] S = true) (hW : covers [.one 262393] W = true) :
    Changes S W d (checkDiscovery e) := by
  unfold checkDiscovery
  try dsimp only
  repeat' first
    | (with_reducible assumption)
    | (with_reducible refine ite_after ?_ ?_)
    | (with_reducible apply wr_after)
    | (with_reducible apply startElect_after)
    | (intro _; try dsimp only)
    | exact within_trans (by decide) hS
    | exact covers_trans (by decide) hW
    | exact rows_one hW (by decide)
    | split

theorem putLsa_after (h : Changes S W d e) (hS : within [.hs] S = true) (hW : covers [] W = true) (l : Lsa) :
    Changes S W d (putLsa l e) := by
  unfold putLsa
  try dsimp only
  repeat' first
    | (with_reducible assumption)
    | (with_reducible refine ite_after ?_ ?_)
    | (with_reducible apply Dev.modHs_after)
    | (intro _; try dsimp only)
    | exact within_trans (by decide) hS
    | split

theorem floodOwn_after (h : Changes S W d e) (hS : within [.regs, .hs] S = true) (hW : covers [.one 262856] W = true) :
    Changes S W d (floodOwn e) := by
  unfold floodOwn
  try dsimp only
  repeat' first
    | (with_reducible assumption)
    | (with_reducible refine ite_after ?_ ?_)
    | (with_reducible apply putLsa_after)
    | (with_reducible apply Dev.modHs_after)
    | (with_reducible apply flood_after)
    | (intro _; try dsimp only)
    | exact within_trans (by decide) hS
    | exact covers_trans (by decide) hW
    | exact rows_one hW (by decide)
    | split

theorem reachRun_after (h : Changes S W d e) (hS : within [.regs, .hs] S = true) (hW : covers [.one 262376, .one 262393, .one 262856] W = true) :
    Changes S W d (reachRun e) := by
  unfold reachRun
  try dsimp only
  repeat' first
    | (with_reducible assumption)
    | (with_reducible refine ite_after ?_ ?_)
    | (with_reducible apply wr_after)
    | (with_reducible apply floodOwn_after)
    | (intro _; try dsimp only)
    | exact within_trans (by decide) hS
    | exact covers_trans (by decide) hW
    | exact rows_one hW (by decide)
    | split

theorem sendRequest_after (h : Changes S W d e) (hS : within [.regs, .hs] S = true) (hW : covers [.one 262856] W = true) (unit : Nat) (held : Option Nat) :
    Changes S W d (sendRequest unit held e) := by
  unfold sendRequest
  try dsimp only
  repeat' first
    | (with_reducible assumption)
    | (with_reducible refine ite_after ?_ ?_)
    | (with_reducible apply sendLocal_after)
    | (intro _; try dsimp only)
    | exact within_trans (by decide) hS
    | exact covers_trans (by decide) hW
    | exact rows_one hW (by decide)
    | split

theorem bind_after (h : Changes S W d e) (hS : within [.hs] S = true) (hW : covers [] W = true) (unit : Nat) (x1 : Nat) :
    Changes S W d (bind unit x1 e) := by
  unfold bind
  try dsimp only
  repeat' first
    | (with_reducible assumption)
    | (with_reducible refine ite_after ?_ ?_)
    | (with_reducible apply Dev.modHs_after)
    | (with_reducible apply foldl_after)
    | (intro _; try dsimp only)
    | exact within_trans (by decide) hS
    | split

theorem assignAs_after (h : Changes S W d e) (hS : within [.regs, .hs] S = true) (hW : covers [.one 262856] W = true) (unit : Nat) (x1 : Nat) :
    Changes S W d (assignAs unit x1 e) := by
  unfold assignAs
  try dsimp only
  repeat' first
    | (with_reducible assumption)
    | (with_reducible refine ite_after ?_ ?_)
    | (with_reducible apply flood_after)
    | (with_reducible apply bind_after)
    | (intro _; try dsimp only)
    | exact within_trans (by decide) hS
    | exact covers_trans (by decide) hW
    | exact rows_one hW (by decide)
    | split

theorem rootAddress_after (h : Changes S W d e) (hS : within [.regs, .lq, .out, .sv, .hs] S = true) (hW : covers [.one 262370, .one 262372, .one 262375, .one 262376, .one 262380, .one 262392, .one 262393, .one 262476, .one 262856, .row 0x5014 2 0x800 6, .row 0x5014 2 0x800 24, .row 0x2100c 32 0x40 3, .row 0x2100c 32 0x40 4, .row 0x2100c 32 0x40 5, .row 0x21024 32 0x40 0] W = true) :
    Changes S W d (rootAddress e) := by
  unfold rootAddress
  try dsimp only
  repeat' first
    | (with_reducible assumption)
    | (with_reducible refine ite_after ?_ ?_)
    | (with_reducible apply wr_after)
    | (with_reducible apply raise_after)
    | (with_reducible apply assignAs_after)
    | (with_reducible apply reachRun_after)
    | (with_reducible apply setAddr_after)
    | (intro _; try dsimp only)
    | exact within_trans (by decide) hS
    | exact covers_trans (by decide +kernel) hW
    | exact rows_one hW (by decide +kernel)
    | exact rows_row hW (by decide +kernel) (by decide)
    | split

theorem electEnd_after (h : Changes S W d e) (hS : within [.regs, .time, .lq, .out, .clk, .sv, .tc, .hs] S = true) (hW : covers [.one 98752, .one 131425, .one 131840, .one 131904, .one 262369, .one 262370, .one 262372, .one 262375, .one 262376, .one 262380, .one 262392, .one 262393, .one 262396, .one 262400, .one 262476, .one 262488, .one 262856, .row 0x5014 2 0x800 6, .row 0x5014 2 0x800 24, .row 0x2100c 32 0x40 3, .row 0x2100c 32 0x40 4, .row 0x2100c 32 0x40 5, .row 0x21024 32 0x40 0] W = true) :
    Changes S W d (electEnd e) := by
  unfold electEnd
  try dsimp only
  repeat' first
    | (with_reducible assumption)
    | (with_reducible refine ite_after ?_ ?_)
    | (with_reducible apply setRoot_after)
    | (with_reducible apply rootAddress_after)
    | (with_reducible apply wr_after)
    | (with_reducible apply sendRequest_after)
    | (with_reducible apply Dev.reach_after)
    | (with_reducible apply reachRun_after)
    | (intro _; try dsimp only)
    | exact within_trans (by decide) hS
    | exact covers_trans (by decide +kernel) hW
    | exact rows_one hW (by decide +kernel)
    | exact rows_row hW (by decide +kernel) (by decide)
    | split

theorem helloSend_after (h : Changes S W d e) (hS : within [.regs, .hs] S = true) (hW : covers [.one 262856] W = true) :
    Changes S W d (helloSend e) := by
  unfold helloSend
  try dsimp only
  repeat' first
    | (with_reducible assumption)
    | (with_reducible refine ite_after ?_ ?_)
    | (with_reducible apply flood_after)
    | (intro _; try dsimp only)
    | exact within_trans (by decide) hS
    | exact covers_trans (by decide) hW
    | exact rows_one hW (by decide)
    | split

theorem hello_after (h : Changes S W d e) (hS : within [.regs, .hs] S = true) (hW : covers [.one 262393] W = true) (p : Nat) (prio : Nat) (unit : Nat) (hops : Nat) :
    Changes S W d (hello p prio unit hops e) := by
  unfold hello
  try dsimp only
  repeat' first
    | (with_reducible assumption)
    | (with_reducible refine ite_after ?_ ?_)
    | (with_reducible apply Dev.modPort_after)
    | (with_reducible apply startElect_after)
    | (with_reducible apply Dev.modHs_after)
    | (intro _; try dsimp only)
    | exact within_trans (by decide) hS
    | exact covers_trans (by decide) hW
    | exact rows_one hW (by decide)
    | split

theorem setUpstream_after (h : Changes S W d e) (hS : within [.regs, .lq, .out, .sv, .tc, .hs] S = true) (hW : covers [.one 262368, .one 262496, .one 262508, .one 262524, .one 262527, .row 0x5014 2 0x800 6, .row 0x5014 2 0x800 24, .row 0x8104 4 0x40 14, .row 0x2100c 32 0x40 3, .row 0x2100c 32 0x40 4, .row 0x2100c 32 0x40 5, .row 0x21024 32 0x40 0] W = true) (v : Option (Nat × Nat × Nat)) (sameRoot : Bool) :
    Changes S W d (setUpstream v sameRoot e) := by
  unfold setUpstream
  try dsimp only
  repeat' first
    | (with_reducible assumption)
    | (with_reducible refine ite_after ?_ ?_)
    | (with_reducible apply wr_after)
    | (with_reducible apply raise_after)
    | (with_reducible apply fabricEvent_after)
    | (with_reducible apply Dev.modTc_after)
    | (with_reducible apply each_after)
    | (with_reducible apply lower_after)
    | (with_reducible apply flag_after)
    | (intro _; try dsimp only)
    | exact within_trans (by decide) hS
    | exact covers_trans (by decide +kernel) hW
    | exact rows_one hW (by decide +kernel)
    | exact rows_row hW (by decide +kernel) (by decide)
    | split

theorem sendChain_after (h : Changes S W d e) (hS : within [.regs, .hs] S = true) (hW : covers [.one 262856] W = true) (p : Nat) (pos : Int) (strapped : Bool) :
    Changes S W d (sendChain p pos strapped e) := by
  unfold sendChain
  try dsimp only
  repeat' first
    | (with_reducible assumption)
    | (with_reducible refine ite_after ?_ ?_)
    | (with_reducible apply sendLocal_after)
    | (intro _; try dsimp only)
    | exact within_trans (by decide) hS
    | exact covers_trans (by decide) hW
    | exact rows_one hW (by decide)
    | split

theorem becomeMaster_after (h : Changes S W d e) (hS : within [.regs, .lq, .out, .sv, .tc, .hs] S = true) (hW : covers [.one 131425, .one 131840, .one 131904, .one 262368, .one 262369, .one 262370, .one 262372, .one 262375, .one 262380, .one 262392, .one 262393, .one 262396, .one 262400, .one 262476, .one 262488, .one 262496, .one 262508, .one 262524, .one 262527, .one 262856, .row 0x5014 2 0x800 6, .row 0x5014 2 0x800 24, .row 0x8104 4 0x40 14, .row 0x2100c 32 0x40 3, .row 0x2100c 32 0x40 4, .row 0x2100c 32 0x40 5, .row 0x21024 32 0x40 0] W = true) :
    Changes S W d (becomeMaster e) := by
  unfold becomeMaster
  try dsimp only
  repeat' first
    | (with_reducible assumption)
    | (with_reducible refine ite_after ?_ ?_)
    | (with_reducible apply setRoot_after)
    | (with_reducible apply wr_after)
    | (with_reducible apply setUpstream_after)
    | (with_reducible apply sendChain_after)
    | (with_reducible apply Dev.modHs_after)
    | (with_reducible apply setAddr_after)
    | (intro _; try dsimp only)
    | exact within_trans (by decide) hS
    | exact covers_trans (by decide +kernel) hW
    | exact rows_one hW (by decide +kernel)
    | exact rows_row hW (by decide +kernel) (by decide)
    | split

theorem checkCascade_after (h : Changes S W d e) (hS : within [.regs, .lq, .out, .sv, .tc, .hs] S = true) (hW : covers [.one 131425, .one 131840, .one 131904, .one 262368, .one 262369, .one 262370, .one 262372, .one 262375, .one 262380, .one 262392, .one 262393, .one 262396, .one 262400, .one 262476, .one 262488, .one 262496, .one 262508, .one 262524, .one 262527, .one 262856, .row 0x5014 2 0x800 6, .row 0x5014 2 0x800 24, .row 0x8104 4 0x40 14, .row 0x2100c 32 0x40 3, .row 0x2100c 32 0x40 4, .row 0x2100c 32 0x40 5, .row 0x21024 32 0x40 0] W = true) :
    Changes S W d (checkCascade e) := by
  unfold checkCascade
  try dsimp only
  repeat' first
    | (with_reducible assumption)
    | (with_reducible refine ite_after ?_ ?_)
    | (with_reducible apply wr_after)
    | (with_reducible apply becomeMaster_after)
    | (intro _; try dsimp only)
    | exact within_trans (by decide) hS
    | exact covers_trans (by decide +kernel) hW
    | exact rows_one hW (by decide +kernel)
    | exact rows_row hW (by decide +kernel) (by decide)
    | split

theorem extendChain_after (h : Changes S W d e) (hS : within [.regs, .hs] S = true) (hW : covers [.one 262856] W = true) (p : Nat) :
    Changes S W d (extendChain p e) := by
  unfold extendChain
  try dsimp only
  repeat' first
    | (with_reducible assumption)
    | (with_reducible refine ite_after ?_ ?_)
    | (with_reducible apply sendChain_after)
    | (intro _; try dsimp only)
    | exact within_trans (by decide) hS
    | exact covers_trans (by decide) hW
    | exact rows_one hW (by decide)
    | split

theorem chain_after (h : Changes S W d e) (hS : within [.regs, .lq, .out, .sv, .tc, .hs] S = true) (hW : covers [.one 131425, .one 131840, .one 131904, .one 262368, .one 262369, .one 262370, .one 262372, .one 262375, .one 262380, .one 262392, .one 262393, .one 262396, .one 262400, .one 262488, .one 262496, .one 262508, .one 262524, .one 262527, .one 262856, .row 0x5014 2 0x800 6, .row 0x5014 2 0x800 24, .row 0x8104 4 0x40 14, .row 0x2100c 32 0x40 3, .row 0x2100c 32 0x40 4, .row 0x2100c 32 0x40 5, .row 0x21024 32 0x40 0] W = true) (p : Nat) (pos : Int) (strapped : Bool) (master : Nat) :
    Changes S W d (chain p pos strapped master e) := by
  unfold chain
  try dsimp only
  repeat' first
    | (with_reducible assumption)
    | (with_reducible refine ite_after ?_ ?_)
    | (with_reducible apply setRoot_after)
    | (with_reducible apply wr_after)
    | (with_reducible apply raise_after)
    | (with_reducible apply fabricEvent_after)
    | (with_reducible apply setUpstream_after)
    | (with_reducible apply sendChain_after)
    | (with_reducible apply Dev.modHs_after)
    | (with_reducible apply setAddr_after)
    | (intro _; try dsimp only)
    | exact within_trans (by decide) hS
    | exact covers_trans (by decide +kernel) hW
    | exact rows_one hW (by decide +kernel)
    | exact rows_row hW (by decide +kernel) (by decide)
    | split

theorem enterCascade_after (h : Changes S W d e) (hS : within [.regs, .lq, .out, .sv, .tc, .hs] S = true) (hW : covers [.one 131425, .one 131840, .one 131904, .one 262368, .one 262369, .one 262370, .one 262372, .one 262375, .one 262380, .one 262392, .one 262393, .one 262396, .one 262398, .one 262400, .one 262476, .one 262488, .one 262496, .one 262508, .one 262524, .one 262527, .one 262848, .one 262856, .row 0x5014 2 0x800 6, .row 0x5014 2 0x800 24, .row 0x8100 4 0x40 0, .row 0x8104 4 0x40 14, .row 0x8104 4 0x40 15, .row 0x8104 4 0x40 16, .row 0x8104 4 0x40 28, .row 0x2100c 32 0x40 3, .row 0x2100c 32 0x40 4, .row 0x2100c 32 0x40 5, .row 0x21024 32 0x40 0] W = true) :
    Changes S W d (enterCascade e) := by
  unfold enterCascade
  try dsimp only
  repeat' first
    | (with_reducible assumption)
    | (with_reducible refine ite_after ?_ ?_)
    | (with_reducible apply wr_after)
    | (with_reducible apply checkCascade_after)
    | (with_reducible apply Dev.modHs_after)
    | (with_reducible apply powerPorts_after)
    | (intro _; try dsimp only)
    | exact within_trans (by decide) hS
    | exact covers_trans (by decide +kernel) hW
    | exact rows_one hW (by decide +kernel)
    | exact rows_row hW (by decide +kernel) (by decide)
    | split

theorem discoveryTimeout_after (h : Changes S W d e) (hS : within [.regs, .time, .lq, .out, .clk, .sv, .tc, .hs] S = true) (hW : covers [.one 98752, .one 131425, .one 131840, .one 131904, .one 262368, .one 262369, .one 262370, .one 262371, .one 262372, .one 262375, .one 262376, .one 262380, .one 262392, .one 262393, .one 262396, .one 262398, .one 262400, .one 262476, .one 262488, .one 262496, .one 262508, .one 262524, .one 262527, .one 262848, .one 262856, .row 0x5014 2 0x800 6, .row 0x5014 2 0x800 24, .row 0x8100 4 0x40 0, .row 0x8104 4 0x40 14, .row 0x8104 4 0x40 15, .row 0x8104 4 0x40 16, .row 0x8104 4 0x40 28, .row 0x2100c 32 0x40 3, .row 0x2100c 32 0x40 4, .row 0x2100c 32 0x40 5, .row 0x21024 32 0x40 0] W = true) :
    Changes S W d (discoveryTimeout e) := by
  unfold discoveryTimeout
  try dsimp only
  repeat' first
    | (with_reducible assumption)
    | (with_reducible refine ite_after ?_ ?_)
    | (with_reducible apply rootAddress_after)
    | (with_reducible apply wr_after)
    | (with_reducible apply raise_after)
    | (with_reducible apply fabricEvent_after)
    | (with_reducible apply startElect_after)
    | (with_reducible apply enterCascade_after)
    | (with_reducible apply sendRequest_after)
    | (with_reducible apply Dev.reach_after)
    | (with_reducible apply Dev.modHs_after)
    | (intro _; try dsimp only)
    | exact within_trans (by decide) hS
    | exact covers_trans (by decide +kernel) hW
    | exact rows_one hW (by decide +kernel)
    | exact rows_row hW (by decide +kernel) (by decide)
    | split

theorem rediscover_after (h : Changes S W d e) (hS : within [.regs, .hs] S = true) (hW : covers [.one 262376, .one 262393, .one 262396, .one 262398, .one 262584, .one 262848, .row 0x8100 4 0x40 0, .row 0x8104 4 0x40 15, .row 0x8104 4 0x40 16, .row 0x8104 4 0x40 28] W = true) :
    Changes S W d (rediscover e) := by
  unfold rediscover
  try dsimp only
  repeat' first
    | (with_reducible assumption)
    | (with_reducible refine ite_after ?_ ?_)
    | (with_reducible apply wr_after)
    | (with_reducible apply startElect_after)
    | (with_reducible apply powerPorts_after)
    | (intro _; try dsimp only)
    | exact within_trans (by decide) hS
    | exact covers_trans (by decide +kernel) hW
    | exact rows_one hW (by decide +kernel)
    | exact rows_row hW (by decide +kernel) (by decide)
    | split

theorem trainInfo_after (h : Changes S W d e) (hS : within [.regs, .lq, .out, .sv, .tc, .hs] S = true) (hW : covers [.one 131425, .one 131840, .one 131904, .one 262368, .one 262369, .one 262370, .one 262372, .one 262375, .one 262380, .one 262392, .one 262393, .one 262396, .one 262400, .one 262476, .one 262488, .one 262496, .one 262508, .one 262524, .one 262527, .one 262856, .row 0x5014 2 0x800 6, .row 0x5014 2 0x800 24, .row 0x8100 4 0x40 0, .row 0x8104 4 0x40 1, .row 0x8104 4 0x40 2, .row 0x8104 4 0x40 14, .row 0x8104 4 0x40 28, .row 0x8108 4 0x40 0, .row 0x8110 4 0x40 8, .row 0x8110 4 0x40 24, .row 0x2100c 32 0x40 3, .row 0x2100c 32 0x40 4, .row 0x2100c 32 0x40 5, .row 0x21024 32 0x40 0] W = true) (p : Nat) (i : TrainInfo) :
    Changes S W d (trainInfo p i e) := by
  unfold trainInfo
  try dsimp only
  repeat' first
    | (with_reducible assumption)
    | (with_reducible refine ite_after ?_ ?_)
    | (with_reducible apply extendChain_after)
    | (with_reducible apply wr_after)
    | (with_reducible apply raise_after)
    | (with_reducible apply Dev.modPort_after)
    | (with_reducible apply setLink_after)
    | (with_reducible apply startElect_after)
    | (with_reducible apply checkCascade_after)
    | (with_reducible apply checkDiscovery_after)
    | (with_reducible apply floodOwn_after)
    | (with_reducible apply sendLocal_after)
    | (intro _; try dsimp only)
    | exact within_trans (by decide) hS
    | exact covers_trans (by decide +kernel) hW
    | exact rows_one hW (by decide +kernel)
    | exact rows_row hW (by decide +kernel) (by decide)
    | split

theorem afterDrop_after (h : Changes S W d e) (hS : within [.regs, .lq, .out, .sv, .tc, .hs] S = true) (hW : covers [.one 131425, .one 131840, .one 131904, .one 262368, .one 262369, .one 262370, .one 262372, .one 262375, .one 262380, .one 262392, .one 262393, .one 262396, .one 262400, .one 262476, .one 262488, .one 262496, .one 262508, .one 262524, .one 262527, .one 262856, .row 0x5014 2 0x800 6, .row 0x5014 2 0x800 24, .row 0x8104 4 0x40 14, .row 0x2100c 32 0x40 3, .row 0x2100c 32 0x40 4, .row 0x2100c 32 0x40 5, .row 0x21024 32 0x40 0] W = true) (p : Nat) :
    Changes S W d (afterDrop p e) := by
  unfold afterDrop
  try dsimp only
  repeat' first
    | (with_reducible assumption)
    | (with_reducible refine ite_after ?_ ?_)
    | (with_reducible apply wr_after)
    | (with_reducible apply setUpstream_after)
    | (with_reducible apply checkCascade_after)
    | (with_reducible apply checkDiscovery_after)
    | (with_reducible apply floodOwn_after)
    | (with_reducible apply Dev.modHs_after)
    | (intro _; try dsimp only)
    | exact within_trans (by decide) hS
    | exact covers_trans (by decide +kernel) hW
    | exact rows_one hW (by decide +kernel)
    | exact rows_row hW (by decide +kernel) (by decide)
    | split

theorem linkDropEvent_after (h : Changes S W d e) (hS : within [.regs, .lq, .out, .sv, .tc, .hs] S = true) (hW : covers [.one 131425, .one 131840, .one 131904, .one 262368, .one 262369, .one 262370, .one 262372, .one 262375, .one 262380, .one 262392, .one 262393, .one 262396, .one 262400, .one 262476, .one 262488, .one 262496, .one 262508, .one 262524, .one 262527, .one 262848, .one 262856, .row 0x5014 2 0x800 6, .row 0x5014 2 0x800 24, .row 0x8100 4 0x40 0, .row 0x8104 4 0x40 3, .row 0x8104 4 0x40 14, .row 0x8104 4 0x40 15, .row 0x8104 4 0x40 16, .row 0x8104 4 0x40 28, .row 0x8114 4 0x40 0, .row 0x2100c 32 0x40 3, .row 0x2100c 32 0x40 4, .row 0x2100c 32 0x40 5, .row 0x21024 32 0x40 0] W = true) (p : Nat) :
    Changes S W d (linkDropEvent p e) := by
  unfold linkDropEvent
  try dsimp only
  repeat' first
    | (with_reducible assumption)
    | (with_reducible refine ite_after ?_ ?_)
    | (with_reducible apply linkDrop_after)
    | (with_reducible apply afterDrop_after)
    | (intro _; try dsimp only)
    | exact within_trans (by decide) hS
    | exact covers_trans (by decide +kernel) hW
    | exact rows_one hW (by decide +kernel)
    | exact rows_row hW (by decide +kernel) (by decide)
    | split

theorem withDrop_after (h : Changes S W d e) (hS : within [.regs, .lq, .out, .sv, .tc, .hs] S = true) (hW : covers [.one 131425, .one 131840, .one 131904, .one 262368, .one 262369, .one 262370, .one 262372, .one 262375, .one 262380, .one 262392, .one 262393, .one 262396, .one 262400, .one 262476, .one 262488, .one 262496, .one 262508, .one 262524, .one 262527, .one 262856, .row 0x5014 2 0x800 6, .row 0x5014 2 0x800 24, .row 0x8104 4 0x40 14, .row 0x2100c 32 0x40 3, .row 0x2100c 32 0x40 4, .row 0x2100c 32 0x40 5, .row 0x21024 32 0x40 0] W = true) (p : Nat)
    {f : Dev → Dev} (hf : ∀ e, Changes S W d e → Changes S W d (f e)) :
    Changes S W d (withDrop p f e) := by
  unfold withDrop
  try dsimp only
  repeat' first
    | (with_reducible assumption)
    | (with_reducible refine ite_after ?_ ?_)
    | (with_reducible apply hf)
    | (with_reducible apply afterDrop_after)
    | (intro _; try dsimp only)
    | exact within_trans (by decide) hS
    | exact covers_trans (by decide +kernel) hW
    | exact rows_one hW (by decide +kernel)
    | exact rows_row hW (by decide +kernel) (by decide)
    | split

theorem retrain_after (h : Changes S W d e) (hS : within [.regs, .lq, .out, .sv, .tc, .hs] S = true) (hW : covers [.one 131425, .one 131840, .one 131904, .one 262368, .one 262369, .one 262370, .one 262372, .one 262375, .one 262380, .one 262392, .one 262393, .one 262396, .one 262400, .one 262476, .one 262488, .one 262496, .one 262508, .one 262524, .one 262527, .one 262848, .one 262856, .row 0x5014 2 0x800 6, .row 0x5014 2 0x800 24, .row 0x8100 4 0x40 0, .row 0x8104 4 0x40 3, .row 0x8104 4 0x40 14, .row 0x8104 4 0x40 15, .row 0x8104 4 0x40 16, .row 0x8104 4 0x40 28, .row 0x8114 4 0x40 0, .row 0x2100c 32 0x40 3, .row 0x2100c 32 0x40 4, .row 0x2100c 32 0x40 5, .row 0x21024 32 0x40 0] W = true) (p : Nat) :
    Changes S W d (retrain p e) := by
  unfold retrain
  try dsimp only
  repeat' first
    | (with_reducible assumption)
    | (with_reducible refine ite_after ?_ ?_)
    | (with_reducible apply linkDrop_after)
    | (with_reducible apply setLink_after)
    | (with_reducible apply afterDrop_after)
    | (intro _; try dsimp only)
    | exact within_trans (by decide) hS
    | exact covers_trans (by decide +kernel) hW
    | exact rows_one hW (by decide +kernel)
    | exact rows_row hW (by decide +kernel) (by decide)
    | split

theorem addressRequest_after (h : Changes S W d e) (hS : within [.regs, .hs] S = true) (hW : covers [.one 262856] W = true) (p : Nat) (unit : Nat) (held : Option Nat) :
    Changes S W d (addressRequest p unit held e) := by
  unfold addressRequest
  try dsimp only
  repeat' first
    | (with_reducible assumption)
    | (with_reducible refine ite_after ?_ ?_)
    | (with_reducible apply assignAs_after)
    | (with_reducible apply sendLocal_after)
    | (with_reducible apply sendRequest_after)
    | (with_reducible apply Dev.modHs_after)
    | (intro _; try dsimp only)
    | exact within_trans (by decide) hS
    | exact covers_trans (by decide) hW
    | exact rows_one hW (by decide)
    | split

theorem addressAssign_after (h : Changes S W d e) (hS : within [.regs, .lq, .out, .sv, .hs] S = true) (hW : covers [.one 262370, .one 262372, .one 262375, .one 262376, .one 262380, .one 262392, .one 262393, .one 262476, .one 262856, .row 0x5014 2 0x800 6, .row 0x5014 2 0x800 24, .row 0x2100c 32 0x40 3, .row 0x2100c 32 0x40 4, .row 0x2100c 32 0x40 5, .row 0x21024 32 0x40 0] W = true) (p : Nat) (unit : Nat) (x2 : Option Nat) (conflict : Bool) (rootAddr : Nat) :
    Changes S W d (addressAssign p unit x2 conflict rootAddr e) := by
  unfold addressAssign
  try dsimp only
  repeat' first
    | (with_reducible assumption)
    | (with_reducible refine ite_after ?_ ?_)
    | (with_reducible apply wr_after)
    | (with_reducible apply raise_after)
    | (with_reducible apply floodOwn_after)
    | (with_reducible apply sendLocal_after)
    | (with_reducible apply reachRun_after)
    | (with_reducible apply setAddr_after)
    | (intro _; try dsimp only)
    | exact within_trans (by decide) hS
    | exact covers_trans (by decide +kernel) hW
    | exact rows_one hW (by decide +kernel)
    | exact rows_row hW (by decide +kernel) (by decide)
    | split

theorem bindPacket_after (h : Changes S W d e) (hS : within [.regs, .hs] S = true) (hW : covers [.one 262856] W = true) (p : Nat) (unit : Nat) (x2 : Nat) :
    Changes S W d (bindPacket p unit x2 e) := by
  unfold bindPacket
  try dsimp only
  repeat' first
    | (with_reducible assumption)
    | (with_reducible refine ite_after ?_ ?_)
    | (with_reducible apply flood_after)
    | (with_reducible apply bind_after)
    | (intro _; try dsimp only)
    | exact within_trans (by decide) hS
    | exact covers_trans (by decide) hW
    | exact rows_one hW (by decide)
    | split

theorem bindingExpiry_after (h : Changes S W d e) (hS : within [.regs, .time, .clk, .hs] S = true) (hW : covers [.one 98752] W = true) (x0 : Nat) :
    Changes S W d (bindingExpiry x0 e) := by
  unfold bindingExpiry
  try dsimp only
  repeat' first
    | (with_reducible assumption)
    | (with_reducible refine ite_after ?_ ?_)
    | (with_reducible apply Dev.reach_after)
    | (with_reducible apply Dev.modHs_after)
    | (intro _; try dsimp only)
    | exact within_trans (by decide) hS
    | exact covers_trans (by decide) hW
    | exact rows_one hW (by decide)
    | split

theorem checkConflict_after (h : Changes S W d e) (hS : within [.regs, .hs] S = true) (hW : covers [.one 262856] W = true) (l : Lsa) :
    Changes S W d (checkConflict l e) := by
  unfold checkConflict
  try dsimp only
  repeat' first
    | (with_reducible assumption)
    | (with_reducible refine ite_after ?_ ?_)
    | (with_reducible apply assignAs_after)
    | (with_reducible apply Dev.modHs_after)
    | (with_reducible apply flood_after)
    | (intro _; try dsimp only)
    | exact within_trans (by decide) hS
    | exact covers_trans (by decide) hW
    | exact rows_one hW (by decide)
    | split

theorem lsa_after (h : Changes S W d e) (hS : within [.regs, .hs] S = true) (hW : covers [.one 262476, .one 262856, .row 0x8104 4 0x40 15, .row 0x8104 4 0x40 16] W = true) (p : Nat) (i : LsaInfo) :
    Changes S W d (lsa p i e) := by
  unfold lsa
  try dsimp only
  repeat' first
    | (with_reducible assumption)
    | (with_reducible refine ite_after ?_ ?_)
    | (with_reducible apply wr_after)
    | (with_reducible apply raise_after)
    | (with_reducible apply putLsa_after)
    | (with_reducible apply floodOwn_after)
    | (with_reducible apply Dev.modHs_after)
    | (with_reducible apply flood_after)
    | (with_reducible apply checkConflict_after)
    | (intro _; try dsimp only)
    | exact within_trans (by decide) hS
    | exact covers_trans (by decide +kernel) hW
    | exact rows_one hW (by decide +kernel)
    | exact rows_row hW (by decide +kernel) (by decide)
    | split

theorem lsaRefresh_after (h : Changes S W d e) (hS : within [.regs, .hs] S = true) (hW : covers [.one 262856] W = true) :
    Changes S W d (lsaRefresh e) := by
  unfold lsaRefresh
  try dsimp only
  repeat' first
    | (with_reducible assumption)
    | (with_reducible refine ite_after ?_ ?_)
    | (with_reducible apply floodOwn_after)
    | (intro _; try dsimp only)
    | exact within_trans (by decide) hS
    | exact covers_trans (by decide) hW
    | exact rows_one hW (by decide)
    | split

theorem lsaAgeOut_after (h : Changes S W d e) (hS : within [.regs, .time, .clk, .hs] S = true) (hW : covers [.one 98752, .one 262393] W = true) (unit : Nat) :
    Changes S W d (lsaAgeOut unit e) := by
  unfold lsaAgeOut
  try dsimp only
  repeat' first
    | (with_reducible assumption)
    | (with_reducible refine ite_after ?_ ?_)
    | (with_reducible apply startElect_after)
    | (with_reducible apply Dev.reach_after)
    | (with_reducible apply Dev.modHs_after)
    | (intro _; try dsimp only)
    | exact within_trans (by decide) hS
    | exact covers_trans (by decide) hW
    | exact rows_one hW (by decide)
    | split

theorem routingUpdate_after (h : Changes S W d e) (hS : within [.regs, .lq, .out, .sv, .tc, .hs] S = true) (hW : covers [.one 262368, .one 262496, .one 262508, .one 262524, .one 262527, .one 262848, .one 262856, .row 0x5014 2 0x800 6, .row 0x5014 2 0x800 24, .row 0x8104 4 0x40 14, .row 0x2100c 32 0x40 3, .row 0x2100c 32 0x40 4, .row 0x2100c 32 0x40 5, .row 0x21024 32 0x40 0] W = true) :
    Changes S W d (routingUpdate e) := by
  unfold routingUpdate
  try dsimp only
  repeat' first
    | (with_reducible assumption)
    | (with_reducible refine ite_after ?_ ?_)
    | (with_reducible apply countSat_after)
    | (with_reducible apply setUpstream_after)
    | (with_reducible apply each_after)
    | (with_reducible apply sendOn_after)
    | (with_reducible apply floodOwn_after)
    | (with_reducible apply Dev.modHs_after)
    | (intro _; try dsimp only)
    | exact within_trans (by decide) hS
    | exact covers_trans (by decide +kernel) hW
    | exact rows_one hW (by decide +kernel)
    | exact rows_row hW (by decide +kernel) (by decide)
    | split

theorem forward_after (h : Changes S W d e) (hS : within [.regs, .hs] S = true) (hW : covers [.one 262856, .one 262864, .one 262872] W = true) (x : Packet) :
    Changes S W d (forward x e) := by
  unfold forward
  try dsimp only
  repeat' first
    | (with_reducible assumption)
    | (with_reducible refine ite_after ?_ ?_)
    | (with_reducible apply countSat_after)
    | (with_reducible apply sendOn_after)
    | (intro _; try dsimp only)
    | exact within_trans (by decide) hS
    | exact covers_trans (by decide) hW
    | exact rows_one hW (by decide)
    | split

theorem surveyPacket_after (h : Changes S W d e) (hS : within [.regs, .ts] S = true) (hW : covers [.one 1835219, .one 1835262, .one 1835263, .one 1835286, .one 1835287, .one 1835288, .row 0x40108 24 0x2000 29] W = true) (x : Packet) :
    Changes S W d (surveyPacket x e) := by
  unfold surveyPacket
  try dsimp only
  repeat' first
    | (with_reducible assumption)
    | (with_reducible refine ite_after ?_ ?_)
    | (with_reducible apply surveyAgain_after)
    | (with_reducible apply surveyAnswer_after)
    | (intro _; try dsimp only)
    | exact within_trans (by decide) hS
    | exact covers_trans (by decide +kernel) hW
    | exact rows_one hW (by decide +kernel)
    | exact rows_row hW (by decide +kernel) (by decide)
    | split

theorem deliver_after (h : Changes S W d e) (hS : within [.regs, .ts, .lq, .out, .sv, .hs] S = true) (hW : covers [.one 262856, .one 1835219, .one 1835262, .one 1835263, .one 1835286, .one 1835287, .one 1835288, .row 0x5014 2 0x800 6, .row 0x5014 2 0x800 24, .row 0x2100c 32 0x40 3, .row 0x2100c 32 0x40 4, .row 0x2100c 32 0x40 5, .row 0x21024 32 0x40 0, .row 0x40108 24 0x2000 29] W = true) (p : Nat) (x : Packet) (bs : List Byte) :
    Changes S W d (deliver p x bs e) := by
  unfold deliver
  try dsimp only
  repeat' first
    | (with_reducible assumption)
    | (with_reducible refine ite_after ?_ ?_)
    | (with_reducible apply Dev.post_after)
    | (with_reducible apply surveyPacket_after)
    | (with_reducible apply countSat_after)
    | (with_reducible apply Dev.modHs_after)
    | (intro _; try dsimp only)
    | exact within_trans (by decide) hS
    | exact covers_trans (by decide +kernel) hW
    | exact rows_one hW (by decide +kernel)
    | exact rows_row hW (by decide +kernel) (by decide)
    | split

theorem packetReceived_after (h : Changes S W d e) (hS : within [.regs, .ts, .lq, .out, .sv, .hs] S = true) (hW : covers [.one 262856, .one 262864, .one 262872, .one 1835219, .one 1835262, .one 1835263, .one 1835286, .one 1835287, .one 1835288, .row 0x5014 2 0x800 6, .row 0x5014 2 0x800 24, .row 0x2100c 32 0x40 3, .row 0x2100c 32 0x40 4, .row 0x2100c 32 0x40 5, .row 0x21024 32 0x40 0, .row 0x40108 24 0x2000 29] W = true) (p : Nat) :
    Changes S W d (packetReceived p e) := by
  unfold packetReceived
  try dsimp only
  repeat' first
    | (with_reducible assumption)
    | (with_reducible refine ite_after ?_ ?_)
    | (with_reducible apply countSat_after)
    | (with_reducible apply Dev.modPort_after)
    | (with_reducible apply forward_after)
    | (with_reducible apply deliver_after)
    | (intro _; try dsimp only)
    | exact within_trans (by decide) hS
    | exact covers_trans (by decide +kernel) hW
    | exact rows_one hW (by decide +kernel)
    | exact rows_row hW (by decide +kernel) (by decide)
    | split

theorem sendFrom_after (h : Changes S W d e) (hS : within [.regs, .ts, .lq, .out, .sv, .hs] S = true) (hW : covers [.one 262856, .one 1835219, .one 1835262, .one 1835263, .one 1835286, .one 1835287, .one 1835288, .row 0x5014 2 0x800 6, .row 0x5014 2 0x800 24, .row 0x2100c 32 0x40 3, .row 0x2100c 32 0x40 4, .row 0x2100c 32 0x40 5, .row 0x21024 32 0x40 0, .row 0x40108 24 0x2000 29] W = true) (x : Packet) :
    Changes S W d (sendFrom x e).2 := by
  unfold sendFrom
  try dsimp only
  repeat' first
    | (with_reducible assumption)
    | (with_reducible refine ite_after ?_ ?_)
    | (with_reducible apply sendOn_after)
    | (with_reducible apply deliver_after)
    | (intro _; try dsimp only)
    | exact within_trans (by decide) hS
    | exact covers_trans (by decide +kernel) hW
    | exact rows_one hW (by decide +kernel)
    | exact rows_row hW (by decide +kernel) (by decide)
    | split

theorem hsSendWord_after (h : Changes S W d e) (hS : within [.regs, .ts, .lq, .out, .sv, .hs] S = true) (hW : covers [.one 262816, .one 262840, .one 262856, .one 1835219, .one 1835262, .one 1835263, .one 1835286, .one 1835287, .one 1835288, .row 0x5014 2 0x800 6, .row 0x5014 2 0x800 24, .row 0x2100c 32 0x40 3, .row 0x2100c 32 0x40 4, .row 0x2100c 32 0x40 5, .row 0x21024 32 0x40 0, .row 0x40108 24 0x2000 29] W = true) (p : Path) (w : Word) :
    Changes S W d (hsSendWord p w e) := by
  unfold hsSendWord
  try dsimp only
  repeat' first
    | (with_reducible assumption)
    | (with_reducible refine ite_after ?_ ?_)
    | (with_reducible apply wr_after)
    | (with_reducible apply sendFrom_after)
    | (with_reducible apply Dev.modHs_after)
    | (intro _; try dsimp only)
    | exact within_trans (by decide) hS
    | exact covers_trans (by decide +kernel) hW
    | exact rows_one hW (by decide +kernel)
    | exact rows_row hW (by decide +kernel) (by decide)
    | split

theorem sendSurveys_after (h : Changes S W d e) (hS : within [.regs, .ts, .lq, .out, .sv, .hs] S = true) (hW : covers [.one 262856, .one 1835219, .one 1835262, .one 1835263, .one 1835286, .one 1835287, .one 1835288, .row 0x5014 2 0x800 6, .row 0x5014 2 0x800 24, .row 0x2100c 32 0x40 3, .row 0x2100c 32 0x40 4, .row 0x2100c 32 0x40 5, .row 0x21024 32 0x40 0, .row 0x40108 24 0x2000 29] W = true) :
    Changes S W d (sendSurveys e) := by
  unfold sendSurveys
  try dsimp only
  repeat' first
    | (with_reducible assumption)
    | (with_reducible refine ite_after ?_ ?_)
    | (with_reducible apply each_after)
    | (with_reducible apply sendFrom_after)
    | (with_reducible apply Dev.modHs_after)
    | (intro _; try dsimp only)
    | exact within_trans (by decide) hS
    | exact covers_trans (by decide +kernel) hW
    | exact rows_one hW (by decide +kernel)
    | exact rows_row hW (by decide +kernel) (by decide)
    | split
    | (with_reducible apply set_ts_after)
    | ((with_reducible show Changes _ _ _ (Dev.mk _ _ _ _ _ _ _ _ _ _ _ _ _ _ _ _ _ _ _ _ _ _ _ _ _ _ _ _ _ _)); refine mk_after ?_ (.inl rfl) (.inl rfl) (.inl rfl) (.inl rfl) (.inl rfl) (.inr (within_mem hS (by decide))) (.inl rfl) (.inl rfl) (.inl rfl) (.inl rfl) (.inl rfl) (.inl rfl) (.inl rfl) (.inl rfl) (.inl rfl) (.inl rfl) (.inl rfl) (.inl rfl) (.inl rfl) (.inl rfl) (.inl rfl) (.inl rfl) (.inl rfl) (.inl rfl) (.inl rfl) (.inl rfl) (.inl rfl) (.inl rfl) (.inl rfl) (fun can => can.mem) (fun can => can.shadow))

theorem bootRequest_after (h : Changes S W d e) (hS : within [.regs, .lq, .out, .sv, .hs] S = true) (hW : covers [.one 262856, .row 0x5014 2 0x800 6, .row 0x5014 2 0x800 24, .row 0x2100c 32 0x40 3, .row 0x2100c 32 0x40 4, .row 0x2100c 32 0x40 5, .row 0x21024 32 0x40 0] W = true) (p : Nat) :
    Changes S W d (bootRequest p e) := by
  unfold bootRequest
  try dsimp only
  repeat' first
    | (with_reducible assumption)
    | (with_reducible refine ite_after ?_ ?_)
    | (with_reducible apply Dev.post_after)
    | (with_reducible apply sendLocal_after)
    | (with_reducible apply Dev.modHs_after)
    | (intro _; try dsimp only)
    | exact within_trans (by decide) hS
    | exact covers_trans (by decide +kernel) hW
    | exact rows_one hW (by decide +kernel)
    | exact rows_row hW (by decide +kernel) (by decide)
    | split

theorem resetDev_after (h : Changes S W d e) (hS : within [.regs, .ts, .lq, .out, .sv, .hs] S = true) (hW : covers [.one 262584, .one 262856, .one 1835219, .one 1835262, .one 1835263, .one 1835286, .one 1835287, .one 1835288, .row 0x5014 2 0x800 6, .row 0x5014 2 0x800 24, .row 0x2100c 32 0x40 3, .row 0x2100c 32 0x40 4, .row 0x2100c 32 0x40 5, .row 0x21024 32 0x40 0, .row 0x40108 24 0x2000 29] W = true) (target : Nat) :
    Changes S W d (resetDev target e) := by
  unfold resetDev
  try dsimp only
  repeat' first
    | (with_reducible assumption)
    | (with_reducible refine ite_after ?_ ?_)
    | (with_reducible apply wr_after)
    | (with_reducible apply sendFrom_after)
    | (with_reducible apply Dev.modHs_after)
    | (intro _; try dsimp only)
    | exact within_trans (by decide) hS
    | exact covers_trans (by decide +kernel) hW
    | exact rows_one hW (by decide +kernel)
    | exact rows_row hW (by decide +kernel) (by decide)
    | split

theorem resetOrder_after (h : Changes S W d e) (hS : within [.regs, .power, .ts, .lq, .out, .sv, .hs] S = true) (hW : covers [.one 262373, .one 262856, .one 1835219, .one 1835262, .one 1835263, .one 1835286, .one 1835287, .one 1835288, .row 0x5014 2 0x800 6, .row 0x5014 2 0x800 24, .row 0x2100c 32 0x40 3, .row 0x2100c 32 0x40 4, .row 0x2100c 32 0x40 5, .row 0x21024 32 0x40 0, .row 0x40108 24 0x2000 29] W = true) (srcAddr : Nat) (srcUnit : Nat) :
    Changes S W d (resetOrder srcAddr srcUnit e) := by
  unfold resetOrder
  try dsimp only
  repeat' first
    | (with_reducible assumption)
    | (with_reducible refine ite_after ?_ ?_)
    | (with_reducible apply raise_after)
    | (with_reducible apply Dev.modPower_after)
    | (with_reducible apply sendFrom_after)
    | (with_reducible apply Dev.modHs_after)
    | (intro _; try dsimp only)
    | exact within_trans (by decide) hS
    | exact covers_trans (by decide +kernel) hW
    | exact rows_one hW (by decide +kernel)
    | exact rows_row hW (by decide +kernel) (by decide)
    | split

theorem resetReply_after (h : Changes S W d e) (hS : within [.regs, .hs] S = true) (hW : covers [.one 262584] W = true) (code : Nat) :
    Changes S W d (resetReply code e) := by
  unfold resetReply
  try dsimp only
  repeat' first
    | (with_reducible assumption)
    | (with_reducible refine ite_after ?_ ?_)
    | (with_reducible apply wr_after)
    | (with_reducible apply Dev.modHs_after)
    | (intro _; try dsimp only)
    | exact within_trans (by decide) hS
    | exact covers_trans (by decide) hW
    | exact rows_one hW (by decide)
    | split

theorem resetReplyTimeout_after (h : Changes S W d e) (hS : within [.regs, .time, .clk, .hs] S = true) (hW : covers [.one 98752, .one 262584] W = true) :
    Changes S W d (resetReplyTimeout e) := by
  unfold resetReplyTimeout
  try dsimp only
  repeat' first
    | (with_reducible assumption)
    | (with_reducible refine ite_after ?_ ?_)
    | (with_reducible apply wr_after)
    | (with_reducible apply Dev.reach_after)
    | (with_reducible apply Dev.modHs_after)
    | (intro _; try dsimp only)
    | exact within_trans (by decide) hS
    | exact covers_trans (by decide) hW
    | exact rows_one hW (by decide)
    | split

theorem reserve_after (h : Changes S W d e) (hS : within [.hs] S = true) (hW : covers [] W = true) (p : Nat) (t0 : TimeFrame) :
    Changes S W d (reserve p t0 e) := by
  unfold reserve
  try dsimp only
  repeat' first
    | (with_reducible assumption)
    | (with_reducible refine ite_after ?_ ?_)
    | (with_reducible apply Dev.modPort_after)
    | (intro _; try dsimp only)
    | exact within_trans (by decide) hS
    | split

theorem beaconSend_after (h : Changes S W d e) (hS : within [.regs, .time, .clk, .hs] S = true) (hW : covers [.one 98752] W = true) :
    Changes S W d (beaconSend e) := by
  unfold beaconSend
  try dsimp only
  repeat' first
    | (with_reducible assumption)
    | (with_reducible refine ite_after ?_ ?_)
    | (with_reducible apply reserve_after)
    | (with_reducible apply each_after)
    | (with_reducible apply Dev.reach_after)
    | (intro _; try dsimp only)
    | exact within_trans (by decide) hS
    | exact covers_trans (by decide) hW
    | exact rows_one hW (by decide)
    | split

theorem beacon_after (h : Changes S W d e) (hS : within [.tc, .hs] S = true) (hW : covers [] W = true) (p : Nat) (t1 : Nat) :
    Changes S W d (beacon p t1 e) := by
  unfold beacon
  try dsimp only
  repeat' first
    | (with_reducible assumption)
    | (with_reducible refine ite_after ?_ ?_)
    | (with_reducible apply reserve_after)
    | (with_reducible apply Dev.modTc_after)
    | (intro _; try dsimp only)
    | exact within_trans (by decide) hS
    | split

theorem dreq_after (h : Changes S W d e) (hS : within [.hs] S = true) (hW : covers [] W = true) (p : Nat) (t3 : Nat) :
    Changes S W d (dreq p t3 e) := by
  unfold dreq
  try dsimp only
  repeat' first
    | (with_reducible assumption)
    | (with_reducible refine ite_after ?_ ?_)
    | (with_reducible apply reserve_after)
    | (intro _; try dsimp only)
    | exact within_trans (by decide) hS
    | split

theorem dresp_after (h : Changes S W d e) (hS : within [.regs, .time, .power, .ts, .lq, .out, .freeCtr, .sv, .tc, .hs] S = true) (hW : covers [.one 32896, .one 33000, .one 33184, .one 33185, .one 33186, .one 33190, .one 33192, .one 33196, .one 34911, .one 131427, .one 131428, .one 131451, .one 131452, .one 131454, .one 131455, .one 131648, .one 131710, .one 131712, .one 131744, .one 131776, .one 131920, .one 131928, .row 0x4090 4 0x4 0, .row 0x4118 4 0x20 0, .row 0x4118 4 0x20 23, .row 0x5014 2 0x800 6, .row 0x5014 2 0x800 24, .row 0x2100c 32 0x40 3, .row 0x2100c 32 0x40 4, .row 0x2100c 32 0x40 5, .row 0x21024 32 0x40 0] W = true) (p : Nat) (t4 : Nat) (t3 : Nat) :
    Changes S W d (dresp p t4 t3 e) := by
  unfold dresp
  try dsimp only
  repeat' first
    | (with_reducible assumption)
    | (with_reducible refine ite_after ?_ ?_)
    | (with_reducible apply wr_after)
    | (with_reducible apply Dev.modTc_after)
    | (with_reducible apply judge_after)
    | (with_reducible apply free_after)
    | (intro _; try dsimp only)
    | exact within_trans (by decide) hS
    | exact covers_trans (by decide +kernel) hW
    | exact rows_one hW (by decide +kernel)
    | exact rows_row hW (by decide +kernel) (by decide)
    | split

theorem execBeaconSend_changes {s t : State} (h : execBeaconSend s = .next t) :
    t.pending = s.pending ∧ Changes [.regs, .time, .out, .clk, .hs] [.one 98752] s.dev t.dev := by
  unfold execBeaconSend at h
  refine act_changes (by decide) h fun e h => ?_
  repeat' first
    | (with_reducible assumption)
    | (with_reducible refine ite_after ?_ ?_)
    | (with_reducible apply beaconSend_after)
    | (intro _; try dsimp only)
    | exact within_trans (by decide) (within_refl _)
    | exact covers_trans (by decide) (covers_refl _)
    | exact rows_one (covers_refl _) (by decide)
    | split

theorem execBeacon_changes {s t : State} (p : Fin 4) (t1 : Nat) (h : execBeacon p t1 s = .next t) :
    t.pending = s.pending ∧ Changes [.out, .tc, .hs] [] s.dev t.dev := by
  unfold execBeacon at h
  refine act_changes (by decide) h fun e h => ?_
  repeat' first
    | (with_reducible assumption)
    | (with_reducible refine ite_after ?_ ?_)
    | (with_reducible apply beacon_after)
    | (intro _; try dsimp only)
    | exact within_trans (by decide) (within_refl _)
    | split

theorem execDreq_changes {s t : State} (p : Fin 4) (t3 : Nat) (h : execDreq p t3 s = .next t) :
    t.pending = s.pending ∧ Changes [.out, .hs] [] s.dev t.dev := by
  unfold execDreq at h
  refine act_changes (by decide) h fun e h => ?_
  repeat' first
    | (with_reducible assumption)
    | (with_reducible refine ite_after ?_ ?_)
    | (with_reducible apply dreq_after)
    | (intro _; try dsimp only)
    | exact within_trans (by decide) (within_refl _)
    | split

theorem execDresp_changes {s t : State} (p : Fin 4) (t4 : Nat) (t3 : Nat) (h : execDresp p t4 t3 s = .next t) :
    t.pending = s.pending ∧ Changes [.regs, .time, .power, .ts, .lq, .out, .freeCtr, .sv, .tc, .hs] [.one 32896, .one 33000, .one 33184, .one 33185, .one 33186, .one 33190, .one 33192, .one 33196, .one 34911, .one 131427, .one 131428, .one 131451, .one 131452, .one 131454, .one 131455, .one 131648, .one 131710, .one 131712, .one 131744, .one 131776, .one 131920, .one 131928, .row 0x4090 4 0x4 0, .row 0x4118 4 0x20 0, .row 0x4118 4 0x20 23, .row 0x5014 2 0x800 6, .row 0x5014 2 0x800 24, .row 0x2100c 32 0x40 3, .row 0x2100c 32 0x40 4, .row 0x2100c 32 0x40 5, .row 0x21024 32 0x40 0] s.dev t.dev := by
  unfold execDresp at h
  refine act_changes (by decide) h fun e h => ?_
  repeat' first
    | (with_reducible assumption)
    | (with_reducible refine ite_after ?_ ?_)
    | (with_reducible apply dresp_after)
    | (intro _; try dsimp only)
    | exact within_trans (by decide) (within_refl _)
    | exact covers_trans (by decide +kernel) (covers_refl _)
    | exact rows_one (covers_refl _) (by decide +kernel)
    | exact rows_row (covers_refl _) (by decide +kernel) (by decide)
    | split

theorem execLinkDetect_changes {s t : State} (p : Fin 4) (h : execLinkDetect p s = .next t) :
    t.pending = s.pending ∧ Changes [.regs, .out, .freeCtr, .hs] [.row 0x8100 4 0x40 0, .row 0x8104 4 0x40 28] s.dev t.dev := by
  unfold execLinkDetect at h
  refine act_changes (by decide) h fun e h => ?_
  repeat' first
    | (with_reducible assumption)
    | (with_reducible refine ite_after ?_ ?_)
    | (with_reducible apply linkDetect_after)
    | (intro _; try dsimp only)
    | exact within_trans (by decide) (within_refl _)
    | exact covers_trans (by decide) (covers_refl _)
    | exact rows_row (covers_refl _) (by decide) (by decide)
    | split

theorem execLinkTrainDone_changes {s t : State} (p : Fin 4) (h : execLinkTrainDone p s = .next t) :
    t.pending = s.pending ∧ Changes [.regs, .out] [.row 0x8100 4 0x40 0, .row 0x8104 4 0x40 28] s.dev t.dev := by
  unfold execLinkTrainDone at h
  refine act_changes (by decide) h fun e h => ?_
  repeat' first
    | (with_reducible assumption)
    | (with_reducible refine ite_after ?_ ?_)
    | (with_reducible apply linkTrainDone_after)
    | (intro _; try dsimp only)
    | exact within_trans (by decide) (within_refl _)
    | exact covers_trans (by decide) (covers_refl _)
    | exact rows_row (covers_refl _) (by decide) (by decide)
    | split

theorem execLinkAlignDone_changes {s t : State} (p : Fin 4) (h : execLinkAlignDone p s = .next t) :
    t.pending = s.pending ∧ Changes [.regs, .out] [.row 0x8100 4 0x40 0, .row 0x8104 4 0x40 28] s.dev t.dev := by
  unfold execLinkAlignDone at h
  refine act_changes (by decide) h fun e h => ?_
  repeat' first
    | (with_reducible assumption)
    | (with_reducible refine ite_after ?_ ?_)
    | (with_reducible apply linkAlignDone_after)
    | (intro _; try dsimp only)
    | exact within_trans (by decide) (within_refl _)
    | exact covers_trans (by decide) (covers_refl _)
    | exact rows_row (covers_refl _) (by decide) (by decide)
    | split

theorem execTrainInfo_changes {s t : State} (p : Fin 4) (info : TrainInfo) (h : execTrainInfo p info s = .next t) :
    t.pending = s.pending ∧ Changes [.regs, .lq, .out, .sv, .tc, .hs] [.one 131425, .one 131840, .one 131904, .one 262368, .one 262369, .one 262370, .one 262372, .one 262375, .one 262380, .one 262392, .one 262393, .one 262396, .one 262400, .one 262476, .one 262488, .one 262496, .one 262508, .one 262524, .one 262527, .one 262856, .row 0x5014 2 0x800 6, .row 0x5014 2 0x800 24, .row 0x8100 4 0x40 0, .row 0x8104 4 0x40 1, .row 0x8104 4 0x40 2, .row 0x8104 4 0x40 14, .row 0x8104 4 0x40 28, .row 0x8108 4 0x40 0, .row 0x8110 4 0x40 8, .row 0x8110 4 0x40 24, .row 0x2100c 32 0x40 3, .row 0x2100c 32 0x40 4, .row 0x2100c 32 0x40 5, .row 0x21024 32 0x40 0] s.dev t.dev := by
  unfold execTrainInfo at h
  refine act_changes (by decide) h fun e h => ?_
  repeat' first
    | (with_reducible assumption)
    | (with_reducible refine ite_after ?_ ?_)
    | (with_reducible apply trainInfo_after)
    | (intro _; try dsimp only)
    | exact within_trans (by decide) (within_refl _)
    | exact covers_trans (by decide +kernel) (covers_refl _)
    | exact rows_one (covers_refl _) (by decide +kernel)
    | exact rows_row (covers_refl _) (by decide +kernel) (by decide)
    | split

theorem execLinkTrainTimeout_changes {s t : State} (p : Fin 4) (h : execLinkTrainTimeout p s = .next t) :
    t.pending = s.pending ∧ Changes [.regs, .out] [.row 0x8100 4 0x40 0, .row 0x8104 4 0x40 0, .row 0x8104 4 0x40 28] s.dev t.dev := by
  unfold execLinkTrainTimeout at h
  refine act_changes (by decide) h fun e h => ?_
  repeat' first
    | (with_reducible assumption)
    | (with_reducible refine ite_after ?_ ?_)
    | (with_reducible apply linkTrainTimeout_after)
    | (intro _; try dsimp only)
    | exact within_trans (by decide) (within_refl _)
    | exact covers_trans (by decide) (covers_refl _)
    | exact rows_row (covers_refl _) (by decide) (by decide)
    | split

theorem execLinkRedetect_changes {s t : State} (p : Fin 4) (h : execLinkRedetect p s = .next t) :
    t.pending = s.pending ∧ Changes [.out, .hs] [] s.dev t.dev := by
  unfold execLinkRedetect at h
  refine act_changes (by decide) h fun e h => ?_
  repeat' first
    | (with_reducible assumption)
    | (with_reducible refine ite_after ?_ ?_)
    | (with_reducible apply linkRedetect_after)
    | (intro _; try dsimp only)
    | exact within_trans (by decide) (within_refl _)
    | split

theorem execLineEnergyLost_changes {s t : State} (p : Fin 4) (h : execLineEnergyLost p s = .next t) :
    t.pending = s.pending ∧ Changes [.regs, .out] [.row 0x8100 4 0x40 0, .row 0x8104 4 0x40 28] s.dev t.dev := by
  unfold execLineEnergyLost at h
  refine act_changes (by decide) h fun e h => ?_
  repeat' first
    | (with_reducible assumption)
    | (with_reducible refine ite_after ?_ ?_)
    | (with_reducible apply lineEnergyLost_after)
    | (intro _; try dsimp only)
    | exact within_trans (by decide) (within_refl _)
    | exact covers_trans (by decide) (covers_refl _)
    | exact rows_row (covers_refl _) (by decide) (by decide)
    | split

theorem execPacketReceived_changes {s t : State} (p : Fin 4) (h : execPacketReceived p s = .next t) :
    t.pending = s.pending ∧ Changes [.regs, .ts, .lq, .out, .sv, .hs] [.one 262856, .one 262864, .one 262872, .one 1835219, .one 1835262, .one 1835263, .one 1835286, .one 1835287, .one 1835288, .row 0x5014 2 0x800 6, .row 0x5014 2 0x800 24, .row 0x2100c 32 0x40 3, .row 0x2100c 32 0x40 4, .row 0x2100c 32 0x40 5, .row 0x21024 32 0x40 0, .row 0x40108 24 0x2000 29] s.dev t.dev := by
  unfold execPacketReceived at h
  refine act_changes (by decide) h fun e h => ?_
  repeat' first
    | (with_reducible assumption)
    | (with_reducible refine ite_after ?_ ?_)
    | (with_reducible apply packetReceived_after)
    | (intro _; try dsimp only)
    | exact within_trans (by decide) (within_refl _)
    | exact covers_trans (by decide +kernel) (covers_refl _)
    | exact rows_one (covers_refl _) (by decide +kernel)
    | exact rows_row (covers_refl _) (by decide +kernel) (by decide)
    | split

theorem execHelloSend_changes {s t : State} (h : execHelloSend s = .next t) :
    t.pending = s.pending ∧ Changes [.regs, .out, .hs] [.one 262856] s.dev t.dev := by
  unfold execHelloSend at h
  refine act_changes (by decide) h fun e h => ?_
  repeat' first
    | (with_reducible assumption)
    | (with_reducible refine ite_after ?_ ?_)
    | (with_reducible apply helloSend_after)
    | (intro _; try dsimp only)
    | exact within_trans (by decide) (within_refl _)
    | exact covers_trans (by decide) (covers_refl _)
    | exact rows_one (covers_refl _) (by decide)
    | split

theorem execHello_changes {s t : State} (p : Fin 4) (priority : Byte) (unit : BitVec 64) (hops : BitVec 16) (h : execHello p priority unit hops s = .next t) :
    t.pending = s.pending ∧ Changes [.regs, .out, .hs] [.one 262393] s.dev t.dev := by
  unfold execHello at h
  refine act_changes (by decide) h fun e h => ?_
  repeat' first
    | (with_reducible assumption)
    | (with_reducible refine ite_after ?_ ?_)
    | (with_reducible apply hello_after)
    | (intro _; try dsimp only)
    | exact within_trans (by decide) (within_refl _)
    | exact covers_trans (by decide) (covers_refl _)
    | exact rows_one (covers_refl _) (by decide)
    | split

theorem execElectEnd_changes {s t : State} (h : execElectEnd s = .next t) :
    t.pending = s.pending ∧ Changes [.regs, .time, .lq, .out, .clk, .sv, .tc, .hs] [.one 98752, .one 131425, .one 131840, .one 131904, .one 262369, .one 262370, .one 262372, .one 262375, .one 262376, .one 262380, .one 262392, .one 262393, .one 262396, .one 262400, .one 262476, .one 262488, .one 262856, .row 0x5014 2 0x800 6, .row 0x5014 2 0x800 24, .row 0x2100c 32 0x40 3, .row 0x2100c 32 0x40 4, .row 0x2100c 32 0x40 5, .row 0x21024 32 0x40 0] s.dev t.dev := by
  unfold execElectEnd at h
  refine act_changes (by decide) h fun e h => ?_
  repeat' first
    | (with_reducible assumption)
    | (with_reducible refine ite_after ?_ ?_)
    | (with_reducible apply electEnd_after)
    | (intro _; try dsimp only)
    | exact within_trans (by decide) (within_refl _)
    | exact covers_trans (by decide +kernel) (covers_refl _)
    | exact rows_one (covers_refl _) (by decide +kernel)
    | exact rows_row (covers_refl _) (by decide +kernel) (by decide)
    | split

theorem execAddressRequest_changes {s t : State} (p : Fin 4) (unit : BitVec 64) (held : Option (BitVec 12)) (h : execAddressRequest p unit held s = .next t) :
    t.pending = s.pending ∧ Changes [.regs, .out, .hs] [.one 262856] s.dev t.dev := by
  unfold execAddressRequest at h
  refine act_changes (by decide) h fun e h => ?_
  repeat' first
    | (with_reducible assumption)
    | (with_reducible refine ite_after ?_ ?_)
    | (with_reducible apply addressRequest_after)
    | (intro _; try dsimp only)
    | exact within_trans (by decide) (within_refl _)
    | exact covers_trans (by decide) (covers_refl _)
    | exact rows_one (covers_refl _) (by decide)
    | split

theorem execAddressAssign_changes {s t : State} (p : Fin 4) (unit : BitVec 64) (addr : Option (BitVec 12)) (conflict : Bool) (rootAddr : BitVec 12) (h : execAddressAssign p unit addr conflict rootAddr s = .next t) :
    t.pending = s.pending ∧ Changes [.regs, .lq, .out, .sv, .hs] [.one 262370, .one 262372, .one 262375, .one 262376, .one 262380, .one 262392, .one 262393, .one 262476, .one 262856, .row 0x5014 2 0x800 6, .row 0x5014 2 0x800 24, .row 0x2100c 32 0x40 3, .row 0x2100c 32 0x40 4, .row 0x2100c 32 0x40 5, .row 0x21024 32 0x40 0] s.dev t.dev := by
  unfold execAddressAssign at h
  refine act_changes (by decide) h fun e h => ?_
  repeat' first
    | (with_reducible assumption)
    | (with_reducible refine ite_after ?_ ?_)
    | (with_reducible apply addressAssign_after)
    | (intro _; try dsimp only)
    | exact within_trans (by decide) (within_refl _)
    | exact covers_trans (by decide +kernel) (covers_refl _)
    | exact rows_one (covers_refl _) (by decide +kernel)
    | exact rows_row (covers_refl _) (by decide +kernel) (by decide)
    | split

theorem execBind_changes {s t : State} (p : Fin 4) (unit : BitVec 64) (addr : BitVec 12) (h : execBind p unit addr s = .next t) :
    t.pending = s.pending ∧ Changes [.regs, .out, .hs] [.one 262856] s.dev t.dev := by
  unfold execBind at h
  refine act_changes (by decide) h fun e h => ?_
  repeat' first
    | (with_reducible assumption)
    | (with_reducible refine ite_after ?_ ?_)
    | (with_reducible apply bindPacket_after)
    | (intro _; try dsimp only)
    | exact within_trans (by decide) (within_refl _)
    | exact covers_trans (by decide) (covers_refl _)
    | exact rows_one (covers_refl _) (by decide)
    | split

theorem execBindingExpiry_changes {s t : State} (addr : BitVec 12) (h : execBindingExpiry addr s = .next t) :
    t.pending = s.pending ∧ Changes [.regs, .time, .out, .clk, .hs] [.one 98752] s.dev t.dev := by
  unfold execBindingExpiry at h
  refine act_changes (by decide) h fun e h => ?_
  repeat' first
    | (with_reducible assumption)
    | (with_reducible refine ite_after ?_ ?_)
    | (with_reducible apply bindingExpiry_after)
    | (intro _; try dsimp only)
    | exact within_trans (by decide) (within_refl _)
    | exact covers_trans (by decide) (covers_refl _)
    | exact rows_one (covers_refl _) (by decide)
    | split

theorem execDiscoveryTimeout_changes {s t : State} (h : execDiscoveryTimeout s = .next t) :
    t.pending = s.pending ∧ Changes [.regs, .time, .lq, .out, .clk, .sv, .tc, .hs] [.one 98752, .one 131425, .one 131840, .one 131904, .one 262368, .one 262369, .one 262370, .one 262371, .one 262372, .one 262375, .one 262376, .one 262380, .one 262392, .one 262393, .one 262396, .one 262398, .one 262400, .one 262476, .one 262488, .one 262496, .one 262508, .one 262524, .one 262527, .one 262848, .one 262856, .row 0x5014 2 0x800 6, .row 0x5014 2 0x800 24, .row 0x8100 4 0x40 0, .row 0x8104 4 0x40 14, .row 0x8104 4 0x40 15, .row 0x8104 4 0x40 16, .row 0x8104 4 0x40 28, .row 0x2100c 32 0x40 3, .row 0x2100c 32 0x40 4, .row 0x2100c 32 0x40 5, .row 0x21024 32 0x40 0] s.dev t.dev := by
  unfold execDiscoveryTimeout at h
  refine act_changes (by decide) h fun e h => ?_
  repeat' first
    | (with_reducible assumption)
    | (with_reducible refine ite_after ?_ ?_)
    | (with_reducible apply discoveryTimeout_after)
    | (intro _; try dsimp only)
    | exact within_trans (by decide) (within_refl _)
    | exact covers_trans (by decide +kernel) (covers_refl _)
    | exact rows_one (covers_refl _) (by decide +kernel)
    | exact rows_row (covers_refl _) (by decide +kernel) (by decide)
    | split

theorem execLsa_changes {s t : State} (p : Fin 4) (info : LsaInfo) (h : execLsa p info s = .next t) :
    t.pending = s.pending ∧ Changes [.regs, .out, .hs] [.one 262476, .one 262856, .row 0x8104 4 0x40 15, .row 0x8104 4 0x40 16] s.dev t.dev := by
  unfold execLsa at h
  refine act_changes (by decide) h fun e h => ?_
  repeat' first
    | (with_reducible assumption)
    | (with_reducible refine ite_after ?_ ?_)
    | (with_reducible apply lsa_after)
    | (intro _; try dsimp only)
    | exact within_trans (by decide) (within_refl _)
    | exact covers_trans (by decide +kernel) (covers_refl _)
    | exact rows_one (covers_refl _) (by decide +kernel)
    | exact rows_row (covers_refl _) (by decide +kernel) (by decide)
    | split

theorem execLsaRefresh_changes {s t : State} (h : execLsaRefresh s = .next t) :
    t.pending = s.pending ∧ Changes [.regs, .out, .hs] [.one 262856] s.dev t.dev := by
  unfold execLsaRefresh at h
  refine act_changes (by decide) h fun e h => ?_
  repeat' first
    | (with_reducible assumption)
    | (with_reducible refine ite_after ?_ ?_)
    | (with_reducible apply lsaRefresh_after)
    | (intro _; try dsimp only)
    | exact within_trans (by decide) (within_refl _)
    | exact covers_trans (by decide) (covers_refl _)
    | exact rows_one (covers_refl _) (by decide)
    | split

theorem execLsaAgeOut_changes {s t : State} (unit : BitVec 64) (h : execLsaAgeOut unit s = .next t) :
    t.pending = s.pending ∧ Changes [.regs, .time, .out, .clk, .hs] [.one 98752, .one 262393] s.dev t.dev := by
  unfold execLsaAgeOut at h
  refine act_changes (by decide) h fun e h => ?_
  repeat' first
    | (with_reducible assumption)
    | (with_reducible refine ite_after ?_ ?_)
    | (with_reducible apply lsaAgeOut_after)
    | (intro _; try dsimp only)
    | exact within_trans (by decide) (within_refl _)
    | exact covers_trans (by decide) (covers_refl _)
    | exact rows_one (covers_refl _) (by decide)
    | split

theorem execHsSendWord_changes {s t : State} (path : Path) (w : Word) (h : execHsSendWord path w s = .next t) :
    t.pending = s.pending ∧ Changes [.regs, .ts, .lq, .out, .hawserStatus, .jtagStatus, .sv, .hs] [.one 262816, .one 262840, .one 262856, .one 1835219, .one 1835262, .one 1835263, .one 1835286, .one 1835287, .one 1835288, .row 0x5014 2 0x800 1, .row 0x5014 2 0x800 6, .row 0x5014 2 0x800 24, .row 0x2100c 32 0x40 3, .row 0x2100c 32 0x40 4, .row 0x2100c 32 0x40 5, .row 0x21024 32 0x40 0, .row 0x40108 24 0x2000 29] s.dev t.dev := by
  unfold execHsSendWord at h
  refine act_changes (by decide) h fun e h => ?_
  repeat' first
    | (with_reducible assumption)
    | (with_reducible refine ite_after ?_ ?_)
    | (with_reducible apply hsSendWord_after)
    | (with_reducible apply onPort_after)
    | (intro _; try dsimp only)
    | exact within_trans (by decide) (within_refl _)
    | exact covers_trans (by decide +kernel) (covers_refl _)
    | exact rows_one (covers_refl _) (by decide +kernel)
    | exact rows_row (covers_refl _) (by decide +kernel) (by decide)
    | split

theorem execBootRequest_changes {s t : State} (p : Fin 4) (h : execBootRequest p s = .next t) :
    t.pending = s.pending ∧ Changes [.regs, .lq, .out, .sv, .hs] [.one 262856, .row 0x5014 2 0x800 6, .row 0x5014 2 0x800 24, .row 0x2100c 32 0x40 3, .row 0x2100c 32 0x40 4, .row 0x2100c 32 0x40 5, .row 0x21024 32 0x40 0] s.dev t.dev := by
  unfold execBootRequest at h
  refine act_changes (by decide) h fun e h => ?_
  repeat' first
    | (with_reducible assumption)
    | (with_reducible refine ite_after ?_ ?_)
    | (with_reducible apply bootRequest_after)
    | (intro _; try dsimp only)
    | exact within_trans (by decide) (within_refl _)
    | exact covers_trans (by decide +kernel) (covers_refl _)
    | exact rows_one (covers_refl _) (by decide +kernel)
    | exact rows_row (covers_refl _) (by decide +kernel) (by decide)
    | split

theorem execResetDev_changes {s t : State} (path : Path) (target : BitVec 12) (h : execResetDev path target s = .next t) :
    t.pending = s.pending ∧ Changes [.regs, .ts, .lq, .out, .hawserStatus, .jtagStatus, .sv, .hs] [.one 262584, .one 262856, .one 1835219, .one 1835262, .one 1835263, .one 1835286, .one 1835287, .one 1835288, .row 0x5014 2 0x800 1, .row 0x5014 2 0x800 6, .row 0x5014 2 0x800 24, .row 0x2100c 32 0x40 3, .row 0x2100c 32 0x40 4, .row 0x2100c 32 0x40 5, .row 0x21024 32 0x40 0, .row 0x40108 24 0x2000 29] s.dev t.dev := by
  unfold execResetDev at h
  refine act_changes (by decide) h fun e h => ?_
  repeat' first
    | (with_reducible assumption)
    | (with_reducible refine ite_after ?_ ?_)
    | (with_reducible apply onPort_after)
    | (with_reducible apply resetDev_after)
    | (intro _; try dsimp only)
    | exact within_trans (by decide) (within_refl _)
    | exact covers_trans (by decide +kernel) (covers_refl _)
    | exact rows_one (covers_refl _) (by decide +kernel)
    | exact rows_row (covers_refl _) (by decide +kernel) (by decide)
    | split

theorem execResetReply_changes {s t : State} (code : Byte) (h : execResetReply code s = .next t) :
    t.pending = s.pending ∧ Changes [.regs, .out, .hs] [.one 262584] s.dev t.dev := by
  unfold execResetReply at h
  refine act_changes (by decide) h fun e h => ?_
  repeat' first
    | (with_reducible assumption)
    | (with_reducible refine ite_after ?_ ?_)
    | (with_reducible apply resetReply_after)
    | (intro _; try dsimp only)
    | exact within_trans (by decide) (within_refl _)
    | exact covers_trans (by decide) (covers_refl _)
    | exact rows_one (covers_refl _) (by decide)
    | split

theorem execResetReplyTimeout_changes {s t : State} (h : execResetReplyTimeout s = .next t) :
    t.pending = s.pending ∧ Changes [.regs, .time, .out, .clk, .hs] [.one 98752, .one 262584] s.dev t.dev := by
  unfold execResetReplyTimeout at h
  refine act_changes (by decide) h fun e h => ?_
  repeat' first
    | (with_reducible assumption)
    | (with_reducible refine ite_after ?_ ?_)
    | (with_reducible apply resetReplyTimeout_after)
    | (intro _; try dsimp only)
    | exact within_trans (by decide) (within_refl _)
    | exact covers_trans (by decide) (covers_refl _)
    | exact rows_one (covers_refl _) (by decide)
    | split

theorem execRediscover_changes {s t : State} (path : Path) (h : execRediscover path s = .next t) :
    t.pending = s.pending ∧ Changes [.regs, .out, .hawserStatus, .jtagStatus, .hs] [.one 262376, .one 262393, .one 262396, .one 262398, .one 262584, .one 262848, .row 0x5014 2 0x800 1, .row 0x5014 2 0x800 24, .row 0x8100 4 0x40 0, .row 0x8104 4 0x40 15, .row 0x8104 4 0x40 16, .row 0x8104 4 0x40 28] s.dev t.dev := by
  unfold execRediscover at h
  refine act_changes (by decide) h fun e h => ?_
  repeat' first
    | (with_reducible assumption)
    | (with_reducible refine ite_after ?_ ?_)
    | (with_reducible apply rediscover_after)
    | (with_reducible apply onPort_after)
    | (intro _; try dsimp only)
    | exact within_trans (by decide) (within_refl _)
    | exact covers_trans (by decide +kernel) (covers_refl _)
    | exact rows_one (covers_refl _) (by decide +kernel)
    | exact rows_row (covers_refl _) (by decide +kernel) (by decide)
    | split

theorem execChain_changes {s t : State} (p : Fin 2) (position : Int) (strapped : Bool) (master : BitVec 64) (h : execChain p position strapped master s = .next t) :
    t.pending = s.pending ∧ Changes [.regs, .lq, .out, .sv, .tc, .hs] [.one 131425, .one 131840, .one 131904, .one 262368, .one 262369, .one 262370, .one 262372, .one 262375, .one 262380, .one 262392, .one 262393, .one 262396, .one 262400, .one 262488, .one 262496, .one 262508, .one 262524, .one 262527, .one 262856, .row 0x5014 2 0x800 6, .row 0x5014 2 0x800 24, .row 0x8104 4 0x40 14, .row 0x2100c 32 0x40 3, .row 0x2100c 32 0x40 4, .row 0x2100c 32 0x40 5, .row 0x21024 32 0x40 0] s.dev t.dev := by
  unfold execChain at h
  refine act_changes (by decide) h fun e h => ?_
  repeat' first
    | (with_reducible assumption)
    | (with_reducible refine ite_after ?_ ?_)
    | (with_reducible apply chain_after)
    | (intro _; try dsimp only)
    | exact within_trans (by decide) (within_refl _)
    | exact covers_trans (by decide +kernel) (covers_refl _)
    | exact rows_one (covers_refl _) (by decide +kernel)
    | exact rows_row (covers_refl _) (by decide +kernel) (by decide)
    | split

end

end Sys2Proof.Machine
end

