-- ==== Sys2Proof/Laws/ChangesPower.lean ====
section
/-!
SUPPORT. What every operation of Machine/Power can change.
-/

set_option Elab.async false
set_option linter.all false

namespace Sys2Proof.Machine

section
variable {S : List Part} {W : List Span} {d e : Dev}

theorem dramLost_after (h : Changes S W d e) (hS : within [.mem, .power] S = true) (hW : covers [] W = true) :
    Changes S W d (dramLost e) := by
  unfold dramLost
  try dsimp only
  repeat' first
    | (with_reducible assumption)
    | (with_reducible refine ite_after ?_ ?_)
    | (with_reducible apply Dev.modPower_after)
    | (intro _; try dsimp only)
    | exact within_trans (by decide) hS
    | split
    | (with_reducible apply set_mem_after)
    | (with_reducible exact Dev.Canonical.mem ‹_›)
    | (with_reducible apply Memory.wf_write)
    | (with_reducible apply Memory.wf_set)
    | (with_reducible apply Memory.wf_forget)
    | (with_reducible apply Memory.wf_foldl)
    | (with_reducible apply applyEntries_wf)
    | (rename_i can; exact can.mem)
    | ((with_reducible show Changes _ _ _ (Dev.mk _ _ _ _ _ _ _ _ _ _ _ _ _ _ _ _ _ _ _ _ _ _ _ _ _ _ _ _ _ _)); refine mk_after ?_ (.inr (within_mem hS (by decide))) (.inl rfl) (.inl rfl) (.inl rfl) (.inl rfl) (.inl rfl) (.inl rfl) (.inl rfl) (.inl rfl) (.inl rfl) (.inl rfl) (.inl rfl) (.inl rfl) (.inl rfl) (.inl rfl) (.inl rfl) (.inl rfl) (.inl rfl) (.inl rfl) (.inl rfl) (.inl rfl) (.inl rfl) (.inl rfl) (.inl rfl) (.inl rfl) (.inl rfl) (.inl rfl) (.inl rfl) (.inl rfl) (fun can => by repeat' first | (with_reducible exact can.mem) | (with_reducible assumption) | (with_reducible apply Memory.wf_foldl) | intro _ | (with_reducible apply Memory.wf_write) | (with_reducible apply Memory.wf_set) | (with_reducible apply applyEntries_wf) | (with_reducible apply Memory.wf_forget) | (with_reducible apply Memory.wf_filter) | exact can.mem) (fun can => can.shadow))

theorem settlePfail_after (h : Changes S W d e) (hS : within [.regs, .mem, .power, .chans, .ts, .lq, .out, .freeCtr, .sv, .hs, .fd] S = true) (hW : covers [.one 32989, .one 32990, .one 32991, .one 1704158, .one 1835219, .one 1835262, .one 1835263, .one 1835288, .row 0x5014 2 0x800 6, .row 0x5014 2 0x800 24, .row 0x2100c 32 0x40 3, .row 0x2100c 32 0x40 4, .row 0x2100c 32 0x40 5, .row 0x21024 32 0x40 0, .row 0x40034 24 0x2000 2, .row 0x40034 24 0x2000 16, .row 0x40034 24 0x2000 28, .row 0x40034 24 0x2000 29, .row 0x40104 24 0x2000 3, .row 0x40108 24 0x2000 3, .row 0x40108 24 0x2000 29, .row 0x40218 24 0x2000 2, .row 0x40218 24 0x2000 28, .row 0x4021c 24 0x2000 8, .row 0x40304 24 0x2000 1, .row 0x40304 24 0x2000 2, .row 0x40304 24 0x2000 20, .row 0x40304 24 0x2000 22, .row 0x40304 24 0x2000 29, .row 0x40308 24 0x2000 0, .row 0x40308 24 0x2000 8, .row 0x40308 24 0x2000 16, .row 0x40308 24 0x2000 24] W = true) :
    Changes S W d (settlePfail e) := by
  unfold settlePfail
  try dsimp only
  repeat' first
    | (with_reducible assumption)
    | (with_reducible refine ite_after ?_ ?_)
    | (with_reducible apply raise_after)
    | (with_reducible apply Dev.modSv_after)
    | (with_reducible apply raiseIf_after)
    | (with_reducible apply each_after)
    | (with_reducible apply lower_after)
    | (with_reducible apply Dev.modPower_after)
    | (with_reducible apply settleServices_after)
    | (with_reducible apply reconcileNext_after)
    | (with_reducible apply drain_after)
    | (with_reducible apply abortSurvey_after)
    | (intro _; try dsimp only)
    | exact within_trans (by decide) hS
    | exact covers_trans (by decide +kernel) hW
    | exact rows_one hW (by decide +kernel)
    | exact rows_row hW (by decide +kernel) (by decide)
    | split
    | (with_reducible apply set_fd_after)
    | ((with_reducible show Changes _ _ _ (Dev.mk _ _ _ _ _ _ _ _ _ _ _ _ _ _ _ _ _ _ _ _ _ _ _ _ _ _ _ _ _ _)); refine mk_after ?_ (.inl rfl) (.inl rfl) (.inl rfl) (.inl rfl) (.inl rfl) (.inl rfl) (.inl rfl) (.inl rfl) (.inl rfl) (.inl rfl) (.inl rfl) (.inl rfl) (.inl rfl) (.inl rfl) (.inl rfl) (.inl rfl) (.inl rfl) (.inl rfl) (.inl rfl) (.inl rfl) (.inl rfl) (.inl rfl) (.inl rfl) (.inl rfl) (.inl rfl) (.inl rfl) (.inl rfl) (.inr (within_mem hS (by decide))) (.inl rfl) (fun can => can.mem) (fun can => can.shadow))

theorem dropPen_after (h : Changes S W d e) (hS : within [.regs, .mem, .power, .chans, .ts, .lq, .out, .freeCtr, .sv, .hs, .fd] S = true) (hW : covers [.one 32989, .one 32990, .one 32991, .one 32994, .one 32995, .one 32996, .one 32997, .one 33000, .one 1704158, .one 1835219, .one 1835262, .one 1835263, .one 1835288, .row 0x5014 2 0x800 6, .row 0x5014 2 0x800 24, .row 0x2100c 32 0x40 3, .row 0x2100c 32 0x40 4, .row 0x2100c 32 0x40 5, .row 0x21024 32 0x40 0, .row 0x40034 24 0x2000 2, .row 0x40034 24 0x2000 16, .row 0x40034 24 0x2000 28, .row 0x40034 24 0x2000 29, .row 0x40104 24 0x2000 3, .row 0x40108 24 0x2000 3, .row 0x40108 24 0x2000 29, .row 0x40218 24 0x2000 2, .row 0x40218 24 0x2000 28, .row 0x4021c 24 0x2000 8, .row 0x40304 24 0x2000 1, .row 0x40304 24 0x2000 2, .row 0x40304 24 0x2000 20, .row 0x40304 24 0x2000 22, .row 0x40304 24 0x2000 29, .row 0x40308 24 0x2000 0, .row 0x40308 24 0x2000 8, .row 0x40308 24 0x2000 16, .row 0x40308 24 0x2000 24] W = true) (k : Nat) :
    Changes S W d (dropPen k e) := by
  unfold dropPen
  try dsimp only
  repeat' first
    | (with_reducible assumption)
    | (with_reducible refine ite_after ?_ ?_)
    | (with_reducible apply settlePfail_after)
    | (with_reducible apply Dev.penDown_after)
    | (with_reducible apply dramLost_after)
    | (intro _; try dsimp only)
    | exact within_trans (by decide) hS
    | exact covers_trans (by decide +kernel) hW
    | exact rows_one hW (by decide +kernel)
    | exact rows_row hW (by decide +kernel) (by decide)
    | split

theorem dropsDone_after (h : Changes S W d e) (hS : within [.regs, .power, .ts] S = true) (hW : covers [.one 32896, .one 32912, .one 33000, .one 33184, .one 33185, .one 33186, .one 33190, .one 33192, .one 33196, .one 34911] W = true) :
    Changes S W d (dropsDone e) := by
  unfold dropsDone
  try dsimp only
  repeat' first
    | (with_reducible assumption)
    | (with_reducible refine ite_after ?_ ?_)
    | (with_reducible apply wr_after)
    | (with_reducible apply takeDeferred_after)
    | (with_reducible apply lower_after)
    | (with_reducible apply Dev.modPower_after)
    | (intro _; try dsimp only)
    | exact within_trans (by decide) hS
    | exact covers_trans (by decide +kernel) hW
    | exact rows_one hW (by decide +kernel)
    | split

theorem startDrops_after (h : Changes S W d e) (hS : within [.regs, .mem, .power, .chans, .ts, .lq, .out, .freeCtr, .sv, .hs, .fd] S = true) (hW : covers [.one 32896, .one 32912, .one 32989, .one 32990, .one 32991, .one 32994, .one 32995, .one 32996, .one 32997, .one 33000, .one 33184, .one 33185, .one 33186, .one 33190, .one 33192, .one 33196, .one 34911, .one 1704158, .one 1835219, .one 1835262, .one 1835263, .one 1835288, .row 0x5014 2 0x800 6, .row 0x5014 2 0x800 24, .row 0x2100c 32 0x40 3, .row 0x2100c 32 0x40 4, .row 0x2100c 32 0x40 5, .row 0x21024 32 0x40 0, .row 0x40034 24 0x2000 2, .row 0x40034 24 0x2000 16, .row 0x40034 24 0x2000 28, .row 0x40034 24 0x2000 29, .row 0x40104 24 0x2000 3, .row 0x40108 24 0x2000 3, .row 0x40108 24 0x2000 29, .row 0x40218 24 0x2000 2, .row 0x40218 24 0x2000 28, .row 0x4021c 24 0x2000 8, .row 0x40304 24 0x2000 1, .row 0x40304 24 0x2000 2, .row 0x40304 24 0x2000 20, .row 0x40304 24 0x2000 22, .row 0x40304 24 0x2000 29, .row 0x40308 24 0x2000 0, .row 0x40308 24 0x2000 8, .row 0x40308 24 0x2000 16, .row 0x40308 24 0x2000 24] W = true) (ks : List Nat) (after : AfterDrop) :
    Changes S W d (startDrops ks after e) := by
  unfold startDrops
  try dsimp only
  repeat' first
    | (with_reducible assumption)
    | (with_reducible refine ite_after ?_ ?_)
    | (with_reducible apply dropPen_after)
    | (with_reducible apply Dev.modPower_after)
    | (with_reducible apply dropsDone_after)
    | (intro _; try dsimp only)
    | exact within_trans (by decide) hS
    | exact covers_trans (by decide +kernel) hW
    | exact rows_one hW (by decide +kernel)
    | exact rows_row hW (by decide +kernel) (by decide)
    | split

theorem enableDropStep_after (h : Changes S W d e) (hS : within [.regs, .mem, .power, .chans, .ts, .lq, .out, .freeCtr, .sv, .hs, .fd] S = true) (hW : covers [.one 32896, .one 32912, .one 32989, .one 32990, .one 32991, .one 32994, .one 32995, .one 32996, .one 32997, .one 33000, .one 33184, .one 33185, .one 33186, .one 33190, .one 33192, .one 33196, .one 34911, .one 1704158, .one 1835219, .one 1835262, .one 1835263, .one 1835288, .row 0x5014 2 0x800 6, .row 0x5014 2 0x800 24, .row 0x2100c 32 0x40 3, .row 0x2100c 32 0x40 4, .row 0x2100c 32 0x40 5, .row 0x21024 32 0x40 0, .row 0x40034 24 0x2000 2, .row 0x40034 24 0x2000 16, .row 0x40034 24 0x2000 28, .row 0x40034 24 0x2000 29, .row 0x40104 24 0x2000 3, .row 0x40108 24 0x2000 3, .row 0x40108 24 0x2000 29, .row 0x40218 24 0x2000 2, .row 0x40218 24 0x2000 28, .row 0x4021c 24 0x2000 8, .row 0x40304 24 0x2000 1, .row 0x40304 24 0x2000 2, .row 0x40304 24 0x2000 20, .row 0x40304 24 0x2000 22, .row 0x40304 24 0x2000 29, .row 0x40308 24 0x2000 0, .row 0x40308 24 0x2000 8, .row 0x40308 24 0x2000 16, .row 0x40308 24 0x2000 24] W = true) :
    Changes S W d (enableDropStep e) := by
  unfold enableDropStep
  try dsimp only
  repeat' first
    | (with_reducible assumption)
    | (with_reducible refine ite_after ?_ ?_)
    | (with_reducible apply dropPen_after)
    | (with_reducible apply Dev.modPower_after)
    | (with_reducible apply dropsDone_after)
    | (intro _; try dsimp only)
    | exact within_trans (by decide) hS
    | exact covers_trans (by decide +kernel) hW
    | exact rows_one hW (by decide +kernel)
    | exact rows_row hW (by decide +kernel) (by decide)
    | split

theorem vaonPowerOn_after (h : Changes S W d e) (hS : within [.regs, .power] S = true) (hW : covers [.one 32992, .one 33000] W = true) :
    Changes S W d (vaonPowerOn e) := by
  unfold vaonPowerOn
  try dsimp only
  repeat' first
    | (with_reducible assumption)
    | (with_reducible refine ite_after ?_ ?_)
    | (with_reducible apply wr_after)
    | (with_reducible apply raise_after)
    | (intro _; try dsimp only)
    | exact within_trans (by decide) hS
    | exact covers_trans (by decide) hW
    | exact rows_one hW (by decide)
    | split
    | (with_reducible apply set_power_after)
    | ((with_reducible show Changes _ _ _ (Dev.mk _ _ _ _ _ _ _ _ _ _ _ _ _ _ _ _ _ _ _ _ _ _ _ _ _ _ _ _ _ _)); refine mk_after ?_ (.inl rfl) (.inl rfl) (.inr (within_mem hS (by decide))) (.inl rfl) (.inl rfl) (.inl rfl) (.inl rfl) (.inl rfl) (.inl rfl) (.inl rfl) (.inl rfl) (.inl rfl) (.inl rfl) (.inl rfl) (.inl rfl) (.inl rfl) (.inl rfl) (.inl rfl) (.inl rfl) (.inl rfl) (.inl rfl) (.inl rfl) (.inl rfl) (.inl rfl) (.inl rfl) (.inl rfl) (.inl rfl) (.inl rfl) (.inl rfl) (fun can => can.mem) (fun can => can.shadow))

theorem crystalStable_after (h : Changes S W d e) (hS : within [.regs, .power] S = true) (hW : covers [.one 33000] W = true) :
    Changes S W d (crystalStable e) := by
  unfold crystalStable
  try dsimp only
  repeat' first
    | (with_reducible assumption)
    | (with_reducible refine ite_after ?_ ?_)
    | (with_reducible apply Dev.penUp_after)
    | (with_reducible apply Dev.modPower_after)
    | (intro _; try dsimp only)
    | exact within_trans (by decide) hS
    | exact covers_trans (by decide) hW
    | exact rows_one hW (by decide)
    | split

theorem powerUpNext_after (h : Changes S W d e) (hS : within [.regs, .power] S = true) (hW : covers [.one 512, .one 513, .one 33000] W = true) :
    Changes S W d (powerUpNext e) := by
  unfold powerUpNext
  try dsimp only
  repeat' first
    | (with_reducible assumption)
    | (with_reducible refine ite_after ?_ ?_)
    | (with_reducible apply Dev.penUp_after)
    | (with_reducible apply lower_after)
    | (with_reducible apply Dev.modPower_after)
    | (intro _; try dsimp only)
    | exact within_trans (by decide) hS
    | exact covers_trans (by decide) hW
    | exact rows_one hW (by decide)
    | split

theorem powerUpFail_after (h : Changes S W d e) (hS : within [.regs, .mem, .power, .chans, .ts, .lq, .out, .freeCtr, .sv, .hs, .fd] S = true) (hW : covers [.one 32896, .one 32912, .one 32989, .one 32990, .one 32991, .one 32994, .one 32995, .one 32996, .one 32997, .one 33000, .one 33184, .one 33185, .one 33186, .one 33190, .one 33192, .one 33196, .one 34911, .one 1704158, .one 1835219, .one 1835262, .one 1835263, .one 1835288, .row 0x5014 2 0x800 6, .row 0x5014 2 0x800 24, .row 0x2100c 32 0x40 3, .row 0x2100c 32 0x40 4, .row 0x2100c 32 0x40 5, .row 0x21024 32 0x40 0, .row 0x40034 24 0x2000 2, .row 0x40034 24 0x2000 16, .row 0x40034 24 0x2000 28, .row 0x40034 24 0x2000 29, .row 0x40104 24 0x2000 3, .row 0x40108 24 0x2000 3, .row 0x40108 24 0x2000 29, .row 0x40218 24 0x2000 2, .row 0x40218 24 0x2000 28, .row 0x4021c 24 0x2000 8, .row 0x40304 24 0x2000 1, .row 0x40304 24 0x2000 2, .row 0x40304 24 0x2000 20, .row 0x40304 24 0x2000 22, .row 0x40304 24 0x2000 29, .row 0x40308 24 0x2000 0, .row 0x40308 24 0x2000 8, .row 0x40308 24 0x2000 16, .row 0x40308 24 0x2000 24] W = true) :
    Changes S W d (powerUpFail e) := by
  unfold powerUpFail
  try dsimp only
  repeat' first
    | (with_reducible assumption)
    | (with_reducible refine ite_after ?_ ?_)
    | (with_reducible apply Dev.modPower_after)
    | (with_reducible apply startDrops_after)
    | (intro _; try dsimp only)
    | exact within_trans (by decide) hS
    | exact covers_trans (by decide +kernel) hW
    | exact rows_one hW (by decide +kernel)
    | exact rows_row hW (by decide +kernel) (by decide)
    | split

theorem xtalFail_after (h : Changes S W d e) (hS : within [.regs, .mem, .power, .chans, .ts, .lq, .out, .freeCtr, .sv, .hs, .fd] S = true) (hW : covers [.one 32896, .one 32912, .one 32984, .one 32989, .one 32990, .one 32991, .one 32994, .one 32995, .one 32996, .one 32997, .one 33000, .one 33184, .one 33185, .one 33186, .one 33190, .one 33192, .one 33196, .one 34911, .one 1704158, .one 1835219, .one 1835262, .one 1835263, .one 1835288, .row 0x5014 2 0x800 6, .row 0x5014 2 0x800 24, .row 0x2100c 32 0x40 3, .row 0x2100c 32 0x40 4, .row 0x2100c 32 0x40 5, .row 0x21024 32 0x40 0, .row 0x40034 24 0x2000 2, .row 0x40034 24 0x2000 16, .row 0x40034 24 0x2000 28, .row 0x40034 24 0x2000 29, .row 0x40104 24 0x2000 3, .row 0x40108 24 0x2000 3, .row 0x40108 24 0x2000 29, .row 0x40218 24 0x2000 2, .row 0x40218 24 0x2000 28, .row 0x4021c 24 0x2000 8, .row 0x40304 24 0x2000 1, .row 0x40304 24 0x2000 2, .row 0x40304 24 0x2000 20, .row 0x40304 24 0x2000 22, .row 0x40304 24 0x2000 29, .row 0x40308 24 0x2000 0, .row 0x40308 24 0x2000 8, .row 0x40308 24 0x2000 16, .row 0x40308 24 0x2000 24] W = true) :
    Changes S W d (xtalFail e) := by
  unfold xtalFail
  try dsimp only
  repeat' first
    | (with_reducible assumption)
    | (with_reducible refine ite_after ?_ ?_)
    | (with_reducible apply powerUpFail_after)
    | (with_reducible apply raise_after)
    | (intro _; try dsimp only)
    | exact within_trans (by decide) hS
    | exact covers_trans (by decide +kernel) hW
    | exact rows_one hW (by decide +kernel)
    | exact rows_row hW (by decide +kernel) (by decide)
    | split

theorem powerUpRetry_after (h : Changes S W d e) (hS : within [.power] S = true) (hW : covers [] W = true) :
    Changes S W d (powerUpRetry e) := by
  unfold powerUpRetry
  try dsimp only
  repeat' first
    | (with_reducible assumption)
    | (with_reducible refine ite_after ?_ ?_)
    | (with_reducible apply Dev.modPower_after)
    | (intro _; try dsimp only)
    | exact within_trans (by decide) hS
    | split

theorem handlerBegins_after (h : Changes S W d e) (hS : within [.regs, .mem, .fd] S = true) (hW : covers [.one 98576, .one 98591] W = true) :
    Changes S W d (handlerBegins e) := by
  unfold handlerBegins
  try dsimp only
  repeat' first
    | (with_reducible assumption)
    | (with_reducible refine ite_after ?_ ?_)
    | (with_reducible apply wr_after)
    | (with_reducible apply mramWrite_after)
    | (with_reducible apply flag_after)
    | (intro _; try dsimp only)
    | exact within_trans (by decide) hS
    | exact covers_trans (by decide) hW
    | exact rows_one hW (by decide)
    | split
    | (with_reducible apply set_fd_after)
    | ((with_reducible show Changes _ _ _ (Dev.mk _ _ _ _ _ _ _ _ _ _ _ _ _ _ _ _ _ _ _ _ _ _ _ _ _ _ _ _ _ _)); refine mk_after ?_ (.inl rfl) (.inl rfl) (.inl rfl) (.inl rfl) (.inl rfl) (.inl rfl) (.inl rfl) (.inl rfl) (.inl rfl) (.inl rfl) (.inl rfl) (.inl rfl) (.inl rfl) (.inl rfl) (.inl rfl) (.inl rfl) (.inl rfl) (.inl rfl) (.inl rfl) (.inl rfl) (.inl rfl) (.inl rfl) (.inl rfl) (.inl rfl) (.inl rfl) (.inl rfl) (.inl rfl) (.inr (within_mem hS (by decide))) (.inl rfl) (fun can => can.mem) (fun can => can.shadow))

theorem handlerCut_after (h : Changes S W d e) (hS : within [.regs, .mem, .fd] S = true) (hW : covers [.one 98576, .one 98591] W = true) :
    Changes S W d (handlerCut e) := by
  unfold handlerCut
  try dsimp only
  repeat' first
    | (with_reducible assumption)
    | (with_reducible refine ite_after ?_ ?_)
    | (with_reducible apply handlerBegins_after)
    | (intro _; try dsimp only)
    | exact within_trans (by decide) hS
    | exact covers_trans (by decide) hW
    | exact rows_one hW (by decide)
    | split

theorem coreReset_after (h : Changes S W d e) (hS : within allParts S = true) (hW : covers [.every] W = true) (deck : Bool) :
    Changes S W d (coreReset deck e) := by
  have k : Changes S W d (handlerCut (calAbort (commitCut (burnCut e)))) := by
    repeat' first
      | (with_reducible assumption)
      | (with_reducible refine ite_after ?_ ?_)
      | (with_reducible apply calAbort_after)
      | (with_reducible apply commitCut_after)
      | (with_reducible apply lower_after)
      | (with_reducible apply flag_after)
      | (with_reducible apply handlerCut_after)
      | (with_reducible apply burnCut_after)
      | (intro _; try dsimp only)
      | exact within_trans (by decide) hS
      | exact covers_trans (by decide) hW
      | exact rows_every hW _
      | split
      | (with_reducible apply set_regs_after)
      | (with_reducible apply set_power_after)
      | (with_reducible apply set_boot_after)
      | (with_reducible apply set_cy_after)
      | ((with_reducible show Changes _ _ _ (Dev.mk _ _ _ _ _ _ _ _ _ _ _ _ _ _ _ _ _ _ _ _ _ _ _ _ _ _ _ _ _ _)); refine mk_after ?_ (.inl rfl) (.inl rfl) (.inr (within_mem hS (by decide))) (.inr (within_mem hS (by decide))) (.inl rfl) (.inl rfl) (.inl rfl) (.inl rfl) (.inl rfl) (.inl rfl) (.inr (within_mem hS (by decide))) (.inl rfl) (.inl rfl) (.inl rfl) (.inl rfl) (.inl rfl) (.inl rfl) (.inl rfl) (.inl rfl) (.inl rfl) (.inl rfl) (.inl rfl) (.inl rfl) (.inl rfl) (.inl rfl) (.inl rfl) (.inl rfl) (.inl rfl) (.inl rfl) (fun can => can.mem) (fun can => can.shadow))
  replace k := fun can => k.canonical can
  unfold coreReset
  try dsimp only
  repeat' first
    | (with_reducible assumption)
    | (with_reducible refine ite_after ?_ ?_)
    | (with_reducible apply calAbort_after)
    | (with_reducible apply commitCut_after)
    | (with_reducible apply lower_after)
    | (with_reducible apply flag_after)
    | (with_reducible apply handlerCut_after)
    | (with_reducible apply burnCut_after)
    | (intro _; try dsimp only)
    | exact within_trans (by decide) hS
    | exact covers_trans (by decide) hW
    | exact rows_every hW _
    | split
    | (with_reducible apply set_regs_after)
    | (with_reducible apply set_power_after)
    | (with_reducible apply set_boot_after)
    | (with_reducible apply set_cy_after)
    | ((with_reducible show Changes _ _ _ (Dev.mk _ _ _ _ _ _ _ _ _ _ _ _ _ _ _ _ _ _ _ _ _ _ _ _ _ _ _ _ _ _)); refine mk_after ?_ (.inl rfl) (.inl rfl) (.inr (within_mem hS (by decide))) (.inr (within_mem hS (by decide))) (.inl rfl) (.inl rfl) (.inl rfl) (.inl rfl) (.inl rfl) (.inl rfl) (.inr (within_mem hS (by decide))) (.inl rfl) (.inl rfl) (.inl rfl) (.inl rfl) (.inl rfl) (.inl rfl) (.inl rfl) (.inl rfl) (.inl rfl) (.inl rfl) (.inl rfl) (.inl rfl) (.inl rfl) (.inl rfl) (.inl rfl) (.inl rfl) (.inl rfl) (.inl rfl) (fun can => can.mem) (fun can => can.shadow))
    | exact Changes.any hS hW fun can => have k := k can; ⟨k.mem, rfl, RegFile.wf_filter _ k.regs⟩

theorem recordReset_after (h : Changes S W d e) (hS : within [.regs] S = true) (hW : covers [.one 98432, .one 98440, .one 98448, .one 98462, .one 98463, .one 98464, .one 98496] W = true) (c : ResetClass) (src : Nat) :
    Changes S W d (recordReset c src e) := by
  unfold recordReset
  try dsimp only
  repeat' first
    | (with_reducible assumption)
    | (with_reducible refine ite_after ?_ ?_)
    | (with_reducible apply setBit_after)
    | (with_reducible apply wr_after)
    | (with_reducible apply countSat_after)
    | (with_reducible apply lower_after)
    | (intro _; try dsimp only)
    | exact within_trans (by decide) hS
    | exact covers_trans (by decide +kernel) hW
    | exact rows_one hW (by decide +kernel)
    | split

theorem resetHold_after (h : Changes S W d e) (hS : within [.regs, .mem, .power, .chans, .ts, .lq, .out, .freeCtr, .sv, .hs, .fd] S = true) (hW : covers [.one 512, .one 513, .one 32896, .one 32904, .one 32912, .one 32985, .one 32989, .one 32990, .one 32991, .one 32994, .one 32995, .one 32996, .one 32997, .one 33000, .one 33184, .one 33185, .one 33186, .one 33190, .one 33192, .one 33196, .one 34911, .one 1704158, .one 1835219, .one 1835262, .one 1835263, .one 1835288, .row 0x5014 2 0x800 6, .row 0x5014 2 0x800 24, .row 0x2100c 32 0x40 3, .row 0x2100c 32 0x40 4, .row 0x2100c 32 0x40 5, .row 0x21024 32 0x40 0, .row 0x40034 24 0x2000 2, .row 0x40034 24 0x2000 16, .row 0x40034 24 0x2000 28, .row 0x40034 24 0x2000 29, .row 0x40104 24 0x2000 3, .row 0x40108 24 0x2000 3, .row 0x40108 24 0x2000 29, .row 0x40218 24 0x2000 2, .row 0x40218 24 0x2000 28, .row 0x4021c 24 0x2000 8, .row 0x40304 24 0x2000 1, .row 0x40304 24 0x2000 2, .row 0x40304 24 0x2000 20, .row 0x40304 24 0x2000 22, .row 0x40304 24 0x2000 29, .row 0x40308 24 0x2000 0, .row 0x40308 24 0x2000 8, .row 0x40308 24 0x2000 16, .row 0x40308 24 0x2000 24] W = true) (c : ResetClass) (keep : Bool) (old : Option ResetClass) :
    Changes S W d (resetHold c keep old e) := by
  unfold resetHold
  try dsimp only
  repeat' first
    | (with_reducible assumption)
    | (with_reducible refine ite_after ?_ ?_)
    | (with_reducible apply wr_after)
    | (with_reducible apply lower_after)
    | (with_reducible apply flag_after)
    | (with_reducible apply Dev.modPower_after)
    | (with_reducible apply powerUpNext_after)
    | (with_reducible apply startDrops_after)
    | (intro _; try dsimp only)
    | exact within_trans (by decide) hS
    | exact covers_trans (by decide +kernel) hW
    | exact rows_one hW (by decide +kernel)
    | exact rows_row hW (by decide +kernel) (by decide)
    | split

theorem startReset_after (h : Changes S W d e) (hS : within allParts S = true) (hW : covers [.every] W = true) (c : ResetClass) (deck : Bool) (src : Nat) :
    Changes S W d (startReset c deck src e) := by
  unfold startReset
  try dsimp only
  repeat' first
    | (with_reducible assumption)
    | (with_reducible refine ite_after ?_ ?_)
    | (with_reducible apply resetHold_after)
    | (with_reducible apply coreReset_after)
    | (with_reducible apply dramLost_after)
    | (with_reducible apply recordReset_after)
    | (intro _; try dsimp only)
    | exact within_trans (by decide) hS
    | exact covers_trans (by decide) hW
    | exact rows_every hW _
    | split

theorem coldReset_after (h : Changes S W d e) (hS : within allParts S = true) (hW : covers [.every] W = true) :
    Changes S W d (coldReset e) := by
  have k : Changes S W d (handlerCut (commitCut (burnCut e))) := by
    repeat' first
      | (with_reducible assumption)
      | (with_reducible refine ite_after ?_ ?_)
      | (with_reducible apply wr_after)
      | (with_reducible apply commitCut_after)
      | (with_reducible apply lower_after)
      | (with_reducible apply handlerCut_after)
      | (with_reducible apply burnCut_after)
      | (with_reducible apply startDrops_after)
      | (intro _; try dsimp only)
      | exact within_trans (by decide) hS
      | exact covers_trans (by decide) hW
      | exact rows_every hW _
      | split
      | (with_reducible apply set_mem_after)
      | (with_reducible apply set_power_after)
      | (with_reducible exact Dev.Canonical.mem ‹_›)
      | (with_reducible apply Memory.wf_write)
      | (with_reducible apply Memory.wf_set)
      | (with_reducible apply Memory.wf_forget)
      | (with_reducible apply Memory.wf_foldl)
      | (with_reducible apply applyEntries_wf)
      | (rename_i can; exact can.mem)
      | ((with_reducible show Changes _ _ _ (Dev.mk _ _ _ _ _ _ _ _ _ _ _ _ _ _ _ _ _ _ _ _ _ _ _ _ _ _ _ _ _ _)); refine mk_after ?_ (.inr (within_mem hS (by decide))) (.inl rfl) (.inr (within_mem hS (by decide))) (.inl rfl) (.inl rfl) (.inl rfl) (.inl rfl) (.inl rfl) (.inl rfl) (.inl rfl) (.inl rfl) (.inl rfl) (.inl rfl) (.inl rfl) (.inl rfl) (.inl rfl) (.inl rfl) (.inl rfl) (.inl rfl) (.inl rfl) (.inl rfl) (.inl rfl) (.inl rfl) (.inl rfl) (.inl rfl) (.inl rfl) (.inl rfl) (.inl rfl) (.inl rfl) (fun can => by repeat' first | (with_reducible exact can.mem) | (with_reducible assumption) | (with_reducible apply Memory.wf_foldl) | intro _ | (with_reducible apply Memory.wf_write) | (with_reducible apply Memory.wf_set) | (with_reducible apply applyEntries_wf) | (with_reducible apply Memory.wf_forget) | (with_reducible apply Memory.wf_filter) | exact can.mem) (fun can => can.shadow))
  replace k := fun can => k.canonical can
  unfold coldReset
  try dsimp only
  repeat' first
    | (with_reducible assumption)
    | (with_reducible refine ite_after ?_ ?_)
    | (with_reducible apply wr_after)
    | (with_reducible apply commitCut_after)
    | (with_reducible apply lower_after)
    | (with_reducible apply handlerCut_after)
    | (with_reducible apply burnCut_after)
    | (with_reducible apply startDrops_after)
    | (intro _; try dsimp only)
    | exact within_trans (by decide) hS
    | exact covers_trans (by decide) hW
    | exact rows_every hW _
    | split
    | (with_reducible apply set_mem_after)
    | (with_reducible apply set_power_after)
    | (with_reducible exact Dev.Canonical.mem ‹_›)
    | (with_reducible apply Memory.wf_write)
    | (with_reducible apply Memory.wf_set)
    | (with_reducible apply Memory.wf_forget)
    | (with_reducible apply Memory.wf_foldl)
    | (with_reducible apply applyEntries_wf)
    | (rename_i can; exact can.mem)
    | ((with_reducible show Changes _ _ _ (Dev.mk _ _ _ _ _ _ _ _ _ _ _ _ _ _ _ _ _ _ _ _ _ _ _ _ _ _ _ _ _ _)); refine mk_after ?_ (.inr (within_mem hS (by decide))) (.inl rfl) (.inr (within_mem hS (by decide))) (.inl rfl) (.inl rfl) (.inl rfl) (.inl rfl) (.inl rfl) (.inl rfl) (.inl rfl) (.inl rfl) (.inl rfl) (.inl rfl) (.inl rfl) (.inl rfl) (.inl rfl) (.inl rfl) (.inl rfl) (.inl rfl) (.inl rfl) (.inl rfl) (.inl rfl) (.inl rfl) (.inl rfl) (.inl rfl) (.inl rfl) (.inl rfl) (.inl rfl) (.inl rfl) (fun can => by repeat' first | (with_reducible exact can.mem) | (with_reducible assumption) | (with_reducible apply Memory.wf_foldl) | intro _ | (with_reducible apply Memory.wf_write) | (with_reducible apply Memory.wf_set) | (with_reducible apply applyEntries_wf) | (with_reducible apply Memory.wf_forget) | (with_reducible apply Memory.wf_filter) | exact can.mem) (fun can => can.shadow))
    | exact Changes.any hS hW fun can => have k := k can; ⟨Memory.wf_forget _ _ k.mem, rfl, rfl⟩

theorem brownReset_after (h : Changes S W d e) (hS : within allParts S = true) (hW : covers [.every] W = true) (r : Rail) :
    Changes S W d (brownReset r e) := by
  unfold brownReset
  try dsimp only
  repeat' first
    | (with_reducible assumption)
    | (with_reducible refine ite_after ?_ ?_)
    | (with_reducible apply startReset_after)
    | (with_reducible apply lower_after)
    | (intro _; try dsimp only)
    | exact within_trans (by decide) hS
    | exact covers_trans (by decide) hW
    | exact rows_every hW _
    | split
    | ((with_reducible show Rows _ (Fld.bit (railOk _))); unfold railOk; split)

theorem pinReset_after (h : Changes S W d e) (hS : within allParts S = true) (hW : covers [.every] W = true) :
    Changes S W d (pinReset e) := by
  unfold pinReset
  try dsimp only
  repeat' first
    | (with_reducible assumption)
    | (with_reducible refine ite_after ?_ ?_)
    | (with_reducible apply startReset_after)
    | (with_reducible apply Dev.modPower_after)
    | (intro _; try dsimp only)
    | exact within_trans (by decide) hS
    | exact covers_trans (by decide) hW
    | exact rows_every hW _
    | split

theorem gcReset_after (h : Changes S W d e) (hS : within [.regs, .power] S = true) (hW : covers [.errors] W = true) (p : Path) (w : Word) :
    Changes S W d (gcReset p w e) := by
  unfold gcReset
  try dsimp only
  repeat' first
    | (with_reducible assumption)
    | (with_reducible refine ite_after ?_ ?_)
    | (with_reducible apply Dev.modPower_after)
    | (with_reducible apply errRange_after)
    | (intro _; try dsimp only)
    | exact within_trans (by decide) hS
    | exact covers_trans (by decide) hW
    | split

theorem softReset_after (h : Changes S W d e) (hS : within allParts S = true) (hW : covers [.every] W = true) :
    Changes S W d (softReset e) := by
  unfold softReset
  try dsimp only
  repeat' first
    | (with_reducible assumption)
    | (with_reducible refine ite_after ?_ ?_)
    | (with_reducible apply startReset_after)
    | (with_reducible apply Dev.reach_after)
    | (intro _; try dsimp only)
    | exact within_trans (by decide) hS
    | exact covers_trans (by decide) hW
    | exact rows_every hW _
    | split

theorem linkReset_after (h : Changes S W d e) (hS : within allParts S = true) (hW : covers [.every] W = true) :
    Changes S W d (linkReset e) := by
  unfold linkReset
  try dsimp only
  repeat' first
    | (with_reducible assumption)
    | (with_reducible refine ite_after ?_ ?_)
    | (with_reducible apply startReset_after)
    | (with_reducible apply Dev.modPower_after)
    | (intro _; try dsimp only)
    | exact within_trans (by decide) hS
    | exact covers_trans (by decide) hW
    | exact rows_every hW _
    | split

theorem supplyFail_after (h : Changes S W d e) (hS : within allParts S = true) (hW : covers [.every] W = true) :
    Changes S W d (supplyFail e) := by
  unfold supplyFail
  try dsimp only
  repeat' first
    | (with_reducible assumption)
    | (with_reducible refine ite_after ?_ ?_)
    | (with_reducible apply powerUpFail_after)
    | (with_reducible apply wr_after)
    | (with_reducible apply raise_after)
    | (with_reducible apply lower_after)
    | (with_reducible apply Dev.modPower_after)
    | (with_reducible apply coreReset_after)
    | (intro _; try dsimp only)
    | exact within_trans (by decide) hS
    | exact covers_trans (by decide) hW
    | exact rows_every hW _
    | split

theorem railFail_after (h : Changes S W d e) (hS : within allParts S = true) (hW : covers [.every] W = true) (what : Supply) :
    Changes S W d (railFail what e) := by
  unfold railFail
  try dsimp only
  repeat' first
    | (with_reducible assumption)
    | (with_reducible refine ite_after ?_ ?_)
    | (with_reducible apply powerUpFail_after)
    | (with_reducible apply raise_after)
    | (with_reducible apply supplyFail_after)
    | (intro _; try dsimp only)
    | exact within_trans (by decide) hS
    | exact covers_trans (by decide) hW
    | exact rows_every hW _
    | split

theorem pfailAssert_after (h : Changes S W d e) (hS : within [.regs, .mem, .power, .chans, .ts, .lq, .out, .freeCtr, .sv, .hs, .fd] S = true) (hW : covers [.one 32989, .one 32990, .one 32991, .one 1704158, .one 1835219, .one 1835262, .one 1835263, .one 1835288, .row 0x5014 2 0x800 6, .row 0x5014 2 0x800 24, .row 0x2100c 32 0x40 3, .row 0x2100c 32 0x40 4, .row 0x2100c 32 0x40 5, .row 0x21024 32 0x40 0, .row 0x40034 24 0x2000 2, .row 0x40034 24 0x2000 16, .row 0x40034 24 0x2000 28, .row 0x40034 24 0x2000 29, .row 0x40104 24 0x2000 3, .row 0x40108 24 0x2000 3, .row 0x40108 24 0x2000 29, .row 0x40218 24 0x2000 2, .row 0x40218 24 0x2000 28, .row 0x4021c 24 0x2000 8, .row 0x40304 24 0x2000 1, .row 0x40304 24 0x2000 2, .row 0x40304 24 0x2000 20, .row 0x40304 24 0x2000 22, .row 0x40304 24 0x2000 29, .row 0x40308 24 0x2000 0, .row 0x40308 24 0x2000 8, .row 0x40308 24 0x2000 16, .row 0x40308 24 0x2000 24] W = true) (i : PfailInput) :
    Changes S W d (pfailAssert i e) := by
  unfold pfailAssert
  try dsimp only
  repeat' first
    | (with_reducible assumption)
    | (with_reducible refine ite_after ?_ ?_)
    | (with_reducible apply settlePfail_after)
    | (with_reducible apply Dev.modPower_after)
    | (intro _; try dsimp only)
    | exact within_trans (by decide) hS
    | exact covers_trans (by decide +kernel) hW
    | exact rows_one hW (by decide +kernel)
    | exact rows_row hW (by decide +kernel) (by decide)
    | split

theorem pfailRelease_after (h : Changes S W d e) (hS : within [.regs, .mem, .power, .chans, .ts, .lq, .out, .freeCtr, .sv, .hs, .fd] S = true) (hW : covers [.one 32989, .one 32990, .one 32991, .one 1704158, .one 1835219, .one 1835262, .one 1835263, .one 1835288, .row 0x5014 2 0x800 6, .row 0x5014 2 0x800 24, .row 0x2100c 32 0x40 3, .row 0x2100c 32 0x40 4, .row 0x2100c 32 0x40 5, .row 0x21024 32 0x40 0, .row 0x40034 24 0x2000 2, .row 0x40034 24 0x2000 16, .row 0x40034 24 0x2000 28, .row 0x40034 24 0x2000 29, .row 0x40104 24 0x2000 3, .row 0x40108 24 0x2000 3, .row 0x40108 24 0x2000 29, .row 0x40218 24 0x2000 2, .row 0x40218 24 0x2000 28, .row 0x4021c 24 0x2000 8, .row 0x40304 24 0x2000 1, .row 0x40304 24 0x2000 2, .row 0x40304 24 0x2000 20, .row 0x40304 24 0x2000 22, .row 0x40304 24 0x2000 29, .row 0x40308 24 0x2000 0, .row 0x40308 24 0x2000 8, .row 0x40308 24 0x2000 16, .row 0x40308 24 0x2000 24] W = true) (i : PfailInput) :
    Changes S W d (pfailRelease i e) := by
  unfold pfailRelease
  try dsimp only
  repeat' first
    | (with_reducible assumption)
    | (with_reducible refine ite_after ?_ ?_)
    | (with_reducible apply settlePfail_after)
    | (with_reducible apply Dev.modPower_after)
    | (intro _; try dsimp only)
    | exact within_trans (by decide) hS
    | exact covers_trans (by decide +kernel) hW
    | exact rows_one hW (by decide +kernel)
    | exact rows_row hW (by decide +kernel) (by decide)
    | split

theorem mramFence_after (h : Changes S W d e) (hS : within allParts S = true) (hW : covers [.every] W = true) :
    Changes S W d (mramFence e) := by
  unfold mramFence
  try dsimp only
  repeat' first
    | (with_reducible assumption)
    | (with_reducible refine ite_after ?_ ?_)
    | (with_reducible apply startReset_after)
    | (with_reducible apply Dev.modPower_after)
    | (with_reducible apply Dev.reach_after)
    | (intro _; try dsimp only)
    | exact within_trans (by decide) hS
    | exact covers_trans (by decide) hW
    | exact rows_every hW _
    | split

theorem vrfLevel_after (h : Changes S W d e) (hS : within [.regs, .power] S = true) (hW : covers [.one 33008, .row 0x40034 24 0x2000 2, .row 0x40034 24 0x2000 29] W = true) (g : Nat) (mv : Nat) :
    Changes S W d (vrfLevel g mv e) := by
  unfold vrfLevel
  try dsimp only
  repeat' first
    | (with_reducible assumption)
    | (with_reducible refine ite_after ?_ ?_)
    | (with_reducible apply each_after)
    | (with_reducible apply headroom_after)
    | (with_reducible apply putBit_after)
    | (with_reducible apply Dev.modPower_after)
    | (intro _; try dsimp only)
    | exact within_trans (by decide) hS
    | exact covers_trans (by decide) hW
    | exact rows_one hW (by decide)
    | exact rows_row hW (by decide) (by decide)
    | split

theorem pllaUnlock_after (h : Changes S W d e) (hS : within [.regs, .power, .chans, .ts, .lq, .out, .freeCtr, .ce, .shadow, .sv, .tc, .hs, .cl] S = true) (hW : covers [.grid 0x70120 8 0x80 8 0x4 0, .one 512, .one 516, .one 98782, .one 131426, .one 131453, .one 131454, .one 131712, .one 131776, .one 131912, .one 3670176, .one 3670188, .one 3670196, .one 3670200, .row 0x5014 2 0x800 6, .row 0x5014 2 0x800 24, .row 0x2100c 32 0x40 3, .row 0x2100c 32 0x40 4, .row 0x2100c 32 0x40 5, .row 0x21024 32 0x40 0, .row 0x40034 24 0x2000 3, .row 0x40034 24 0x2000 4, .row 0x40034 24 0x2000 29, .row 0x40104 24 0x2000 3, .row 0x40108 24 0x2000 3, .row 0x40108 24 0x2000 29, .row 0x40218 24 0x2000 2, .row 0x40218 24 0x2000 28, .row 0x4021c 24 0x2000 8, .row 0x40304 24 0x2000 1, .row 0x40304 24 0x2000 2, .row 0x40304 24 0x2000 20, .row 0x40304 24 0x2000 22, .row 0x40304 24 0x2000 29, .row 0x40308 24 0x2000 0, .row 0x40308 24 0x2000 8, .row 0x40308 24 0x2000 16, .row 0x40308 24 0x2000 24, .row 0x70108 8 0x80 0, .row 0x70108 8 0x80 16, .row 0x70108 8 0x80 25, .row 0x70108 8 0x80 26, .row 0x70108 8 0x80 29, .row 0x70140 8 0x80 0] W = true) (frs : List (Fin 24 × RxFrame)) :
    Changes S W d (pllaUnlock frs e) := by
  unfold pllaUnlock
  try dsimp only
  repeat' first
    | (with_reducible assumption)
    | (with_reducible refine ite_after ?_ ?_)
    | (with_reducible apply raise_after)
    | (with_reducible apply each_after)
    | (with_reducible apply cutField_after)
    | (with_reducible apply lower_after)
    | (with_reducible apply Dev.modPower_after)
    | (with_reducible apply calUnlock_after)
    | (with_reducible apply ceCut_after)
    | (with_reducible apply enterHoldover_after)
    | (intro _; try dsimp only)
    | exact within_trans (by decide) hS
    | exact covers_trans (by decide +kernel) hW
    | exact rows_one hW (by decide +kernel)
    | exact rows_row hW (by decide +kernel) (by decide)
    | exact rows_grid hW (by decide +kernel) (by decide) (by decide)
    | split

theorem plldUnlock_after (h : Changes S W d e) (hS : within [.regs, .power] S = true) (hW : covers [.one 513, .one 517] W = true) :
    Changes S W d (plldUnlock e) := by
  unfold plldUnlock
  try dsimp only
  repeat' first
    | (with_reducible assumption)
    | (with_reducible refine ite_after ?_ ?_)
    | (with_reducible apply raise_after)
    | (with_reducible apply lower_after)
    | (with_reducible apply Dev.modPower_after)
    | (intro _; try dsimp only)
    | exact within_trans (by decide) hS
    | exact covers_trans (by decide) hW
    | exact rows_one hW (by decide)
    | split

theorem plleUnlock_after (h : Changes S W d e) (hS : within [.regs, .en] S = true) (hW : covers [.one 514, .one 518, .row 0x6014 2 0x800 2, .row 0x6014 2 0x800 31] W = true) :
    Changes S W d (plleUnlock e) := by
  unfold plleUnlock
  try dsimp only
  repeat' first
    | (with_reducible assumption)
    | (with_reducible refine ite_after ?_ ?_)
    | (with_reducible apply raise_after)
    | (with_reducible apply lower_after)
    | (with_reducible apply enDropAll_after)
    | (intro _; try dsimp only)
    | exact within_trans (by decide) hS
    | exact covers_trans (by decide +kernel) hW
    | exact rows_one hW (by decide +kernel)
    | exact rows_row hW (by decide +kernel) (by decide)
    | split

theorem tempSample_after (h : Changes S W d e) (hS : within [.regs, .power] S = true) (hW : covers [.one 32987, .one 33120, .one 33151] W = true) (t0 : Nat) :
    Changes S W d (tempSample t0 e) := by
  unfold tempSample
  try dsimp only
  repeat' first
    | (with_reducible assumption)
    | (with_reducible refine ite_after ?_ ?_)
    | (with_reducible apply wr_after)
    | (with_reducible apply lower_after)
    | (with_reducible apply Dev.modPower_after)
    | (intro _; try dsimp only)
    | exact within_trans (by decide) hS
    | exact covers_trans (by decide) hW
    | exact rows_one hW (by decide)
    | split

theorem thermalShutdown_after (h : Changes S W d e) (hS : within [.regs, .chans, .ts, .lq, .out, .freeCtr, .ce, .shadow, .sv, .hs] S = true) (hW : covers [.grid 0x70120 8 0x80 8 0x4 0, .one 32986, .one 32987, .one 1835219, .one 1835262, .one 1835263, .one 1835288, .one 3670176, .one 3670188, .one 3670196, .one 3670200, .row 0x5014 2 0x800 6, .row 0x5014 2 0x800 24, .row 0x2100c 32 0x40 3, .row 0x2100c 32 0x40 4, .row 0x2100c 32 0x40 5, .row 0x21024 32 0x40 0, .row 0x40034 24 0x2000 2, .row 0x40034 24 0x2000 3, .row 0x40034 24 0x2000 4, .row 0x40034 24 0x2000 16, .row 0x40034 24 0x2000 28, .row 0x40034 24 0x2000 29, .row 0x40104 24 0x2000 3, .row 0x40108 24 0x2000 3, .row 0x40108 24 0x2000 29, .row 0x40218 24 0x2000 2, .row 0x40218 24 0x2000 28, .row 0x4021c 24 0x2000 8, .row 0x40304 24 0x2000 1, .row 0x40304 24 0x2000 2, .row 0x40304 24 0x2000 20, .row 0x40304 24 0x2000 22, .row 0x40304 24 0x2000 29, .row 0x40308 24 0x2000 0, .row 0x40308 24 0x2000 8, .row 0x40308 24 0x2000 16, .row 0x40308 24 0x2000 24, .row 0x70108 8 0x80 0, .row 0x70108 8 0x80 16, .row 0x70108 8 0x80 25, .row 0x70108 8 0x80 26, .row 0x70108 8 0x80 29, .row 0x70140 8 0x80 0] W = true) (frs : List (Fin 24 × RxFrame)) :
    Changes S W d (thermalShutdown frs e) := by
  unfold thermalShutdown
  try dsimp only
  repeat' first
    | (with_reducible assumption)
    | (with_reducible refine ite_after ?_ ?_)
    | (with_reducible apply raise_after)
    | (with_reducible apply each_after)
    | (with_reducible apply cutField_after)
    | (with_reducible apply ceCut_after)
    | (with_reducible apply abortSurvey_after)
    | (intro _; try dsimp only)
    | exact within_trans (by decide) hS
    | exact covers_trans (by decide +kernel) hW
    | exact rows_one hW (by decide +kernel)
    | exact rows_row hW (by decide +kernel) (by decide)
    | exact rows_grid hW (by decide +kernel) (by decide) (by decide)
    | split

theorem pwStateWrite_after (h : Changes S W d e) (hS : within [.regs, .power, .chans, .ts, .lq, .out, .freeCtr, .sv, .hs] S = true) (hW : covers [.errors, .one 32896, .one 32904, .one 1835219, .one 1835262, .one 1835263, .one 1835288, .row 0x5014 2 0x800 6, .row 0x5014 2 0x800 24, .row 0x2100c 32 0x40 3, .row 0x2100c 32 0x40 4, .row 0x2100c 32 0x40 5, .row 0x21024 32 0x40 0, .row 0x40034 24 0x2000 2, .row 0x40034 24 0x2000 16, .row 0x40034 24 0x2000 28, .row 0x40034 24 0x2000 29, .row 0x40104 24 0x2000 3, .row 0x40108 24 0x2000 3, .row 0x40108 24 0x2000 29, .row 0x40218 24 0x2000 2, .row 0x40218 24 0x2000 28, .row 0x4021c 24 0x2000 8, .row 0x40304 24 0x2000 1, .row 0x40304 24 0x2000 2, .row 0x40304 24 0x2000 20, .row 0x40304 24 0x2000 22, .row 0x40304 24 0x2000 29, .row 0x40308 24 0x2000 0, .row 0x40308 24 0x2000 8, .row 0x40308 24 0x2000 16, .row 0x40308 24 0x2000 24] W = true) (p : Path) (w : Word) :
    Changes S W d (pwStateWrite p w e) := by
  unfold pwStateWrite
  try dsimp only
  repeat' first
    | (with_reducible assumption)
    | (with_reducible refine ite_after ?_ ?_)
    | (with_reducible apply wr_after)
    | (with_reducible apply raise_after)
    | (with_reducible apply accessError_after)
    | (with_reducible apply Dev.modPower_after)
    | (with_reducible apply abortSurvey_after)
    | (intro _; try dsimp only)
    | exact within_trans (by decide) hS
    | exact covers_trans (by decide +kernel) hW
    | exact rows_one hW (by decide +kernel)
    | exact rows_row hW (by decide +kernel) (by decide)
    | exact blockBase_mem _
    | (with_reducible show _ ∈ blockBases; decide)
    | split

theorem stateRequest_after (h : Changes S W d e) (hS : within [.regs, .power, .chans, .ts, .lq, .out, .freeCtr, .hawserStatus, .jtagStatus, .sv, .hs] S = true) (hW : covers [.errors, .one 32896, .one 32904, .one 1835219, .one 1835262, .one 1835263, .one 1835288, .row 0x5014 2 0x800 1, .row 0x5014 2 0x800 6, .row 0x5014 2 0x800 24, .row 0x2100c 32 0x40 3, .row 0x2100c 32 0x40 4, .row 0x2100c 32 0x40 5, .row 0x21024 32 0x40 0, .row 0x40034 24 0x2000 2, .row 0x40034 24 0x2000 16, .row 0x40034 24 0x2000 28, .row 0x40034 24 0x2000 29, .row 0x40104 24 0x2000 3, .row 0x40108 24 0x2000 3, .row 0x40108 24 0x2000 29, .row 0x40218 24 0x2000 2, .row 0x40218 24 0x2000 28, .row 0x4021c 24 0x2000 8, .row 0x40304 24 0x2000 1, .row 0x40304 24 0x2000 2, .row 0x40304 24 0x2000 20, .row 0x40304 24 0x2000 22, .row 0x40304 24 0x2000 29, .row 0x40308 24 0x2000 0, .row 0x40308 24 0x2000 8, .row 0x40308 24 0x2000 16, .row 0x40308 24 0x2000 24] W = true) (req : Nat) (p : Path) :
    Changes S W d (stateRequest req p e) := by
  unfold stateRequest
  try dsimp only
  repeat' first
    | (with_reducible assumption)
    | (with_reducible refine ite_after ?_ ?_)
    | (with_reducible apply pwStateWrite_after)
    | (with_reducible apply onPort_after)
    | (intro _; try dsimp only)
    | exact within_trans (by decide) hS
    | exact covers_trans (by decide +kernel) hW
    | exact rows_one hW (by decide +kernel)
    | exact rows_row hW (by decide +kernel) (by decide)
    | split

theorem trimEntry_after (h : Changes S W d e) (hS : within [.regs, .time, .power, .clk, .cl] S = true) (hW : covers [.one 32896, .one 32904, .one 32912, .one 33151, .one 65692, .one 65695, .one 98752, .row 0x40038 24 0x2000 31, .row 0x4010c 24 0x2000 31, .row 0x40110 24 0x2000 31] W = true) :
    Changes S W d (trimEntry e) := by
  unfold trimEntry
  try dsimp only
  repeat' first
    | (with_reducible assumption)
    | (with_reducible refine ite_after ?_ ?_)
    | (with_reducible apply wr_after)
    | (with_reducible apply lower_after)
    | (with_reducible apply Dev.modPower_after)
    | (with_reducible apply staleAll_after)
    | (with_reducible apply Dev.reach_after)
    | (with_reducible apply calStart_after)
    | (intro _; try dsimp only)
    | exact within_trans (by decide) hS
    | exact covers_trans (by decide +kernel) hW
    | exact rows_one hW (by decide +kernel)
    | exact rows_row hW (by decide +kernel) (by decide)
    | split

theorem stopPorts_after (h : Changes S W d e) (hS : within [.regs, .hs, .en] S = true) (hW : covers [.one 512, .one 513, .one 514, .one 98782, .one 131453, .one 262848, .row 0x6014 2 0x800 2, .row 0x6014 2 0x800 31, .row 0x8100 4 0x40 0, .row 0x8104 4 0x40 15, .row 0x8104 4 0x40 16, .row 0x8104 4 0x40 28] W = true) :
    Changes S W d (stopPorts e) := by
  unfold stopPorts
  try dsimp only
  repeat' first
    | (with_reducible assumption)
    | (with_reducible refine ite_after ?_ ?_)
    | (with_reducible apply raise_after)
    | (with_reducible apply lower_after)
    | (with_reducible apply enDropAll_after)
    | (with_reducible apply powerPorts_after)
    | (intro _; try dsimp only)
    | exact within_trans (by decide) hS
    | exact covers_trans (by decide +kernel) hW
    | exact rows_one hW (by decide +kernel)
    | exact rows_row hW (by decide +kernel) (by decide)
    | split

theorem commitOpen_after (h : Changes S W d e) (hS : within [.regs, .mem, .lq, .out, .freeCtr, .sv, .hs] S = true) (hW : covers [.grid 0x70120 8 0x80 8 0x4 0, .one 65667, .one 1573054, .one 1704158, .one 1835222, .row 0x5014 2 0x800 6, .row 0x5014 2 0x800 24, .row 0x2100c 32 0x40 3, .row 0x2100c 32 0x40 4, .row 0x2100c 32 0x40 5, .row 0x21024 32 0x40 0] W = true) :
    Changes S W d (commitOpen e) := by
  unfold commitOpen
  try dsimp only
  repeat' first
    | (with_reducible assumption)
    | (with_reducible refine ite_after ?_ ?_)
    | (with_reducible apply settleServices_after)
    | (with_reducible apply journalCommit_after)
    | (intro _; try dsimp only)
    | exact within_trans (by decide) hS
    | exact covers_trans (by decide +kernel) hW
    | exact rows_one hW (by decide +kernel)
    | exact rows_row hW (by decide +kernel) (by decide)
    | exact rows_grid hW (by decide +kernel) (by decide) (by decide)
    | split

theorem watchEntry_after (h : Changes S W d e) (hS : within [.regs, .mem, .power, .chans, .ts, .lq, .out, .freeCtr, .sv, .tc, .hs, .en, .fd] S = true) (hW : covers [.grid 0x70120 8 0x80 8 0x4 0, .one 512, .one 513, .one 514, .one 32896, .one 32912, .one 32989, .one 32990, .one 32991, .one 32994, .one 32995, .one 32996, .one 32997, .one 33000, .one 33184, .one 33185, .one 33186, .one 33190, .one 33192, .one 33196, .one 34910, .one 34911, .one 65667, .one 98782, .one 131426, .one 131453, .one 131454, .one 131712, .one 131776, .one 131912, .one 262848, .one 1573054, .one 1704158, .one 1835219, .one 1835222, .one 1835262, .one 1835263, .one 1835288, .row 0x1200 256 0x4 30, .row 0x5014 2 0x800 6, .row 0x5014 2 0x800 24, .row 0x6014 2 0x800 2, .row 0x6014 2 0x800 31, .row 0x8100 4 0x40 0, .row 0x8104 4 0x40 15, .row 0x8104 4 0x40 16, .row 0x8104 4 0x40 28, .row 0x2100c 32 0x40 3, .row 0x2100c 32 0x40 4, .row 0x2100c 32 0x40 5, .row 0x21024 32 0x40 0, .row 0x40034 24 0x2000 2, .row 0x40034 24 0x2000 16, .row 0x40034 24 0x2000 28, .row 0x40034 24 0x2000 29, .row 0x40104 24 0x2000 3, .row 0x40108 24 0x2000 3, .row 0x40108 24 0x2000 29, .row 0x40218 24 0x2000 2, .row 0x40218 24 0x2000 28, .row 0x4021c 24 0x2000 8, .row 0x40304 24 0x2000 1, .row 0x40304 24 0x2000 2, .row 0x40304 24 0x2000 20, .row 0x40304 24 0x2000 22, .row 0x40304 24 0x2000 29, .row 0x40308 24 0x2000 0, .row 0x40308 24 0x2000 8, .row 0x40308 24 0x2000 16, .row 0x40308 24 0x2000 24] W = true) :
    Changes S W d (watchEntry e) := by
  unfold watchEntry
  try dsimp only
  repeat' first
    | (with_reducible assumption)
    | (with_reducible refine ite_after ?_ ?_)
    | (with_reducible apply dropPen_after)
    | (with_reducible apply wr_after)
    | (with_reducible apply takeDeferred_after)
    | (with_reducible apply lower_after)
    | (with_reducible apply Dev.modPower_after)
    | (with_reducible apply commitOpen_after)
    | (with_reducible apply stopPorts_after)
    | (with_reducible apply startSniffs_after)
    | (with_reducible apply startDrops_after)
    | (with_reducible apply enterHoldover_after)
    | (intro _; try dsimp only)
    | exact within_trans (by decide) hS
    | exact covers_trans (by decide +kernel) hW
    | exact rows_one hW (by decide +kernel)
    | exact rows_row hW (by decide +kernel) (by decide)
    | exact rows_grid hW (by decide +kernel) (by decide) (by decide)
    | split

theorem dormantEntry_after (h : Changes S W d e) (hS : within allParts S = true) (hW : covers [.every] W = true) :
    Changes S W d (dormantEntry e) := by
  unfold dormantEntry
  try dsimp only
  repeat' first
    | (with_reducible assumption)
    | (with_reducible refine ite_after ?_ ?_)
    | (with_reducible apply Dev.modPower_after)
    | (with_reducible apply commitOpen_after)
    | (with_reducible apply coreReset_after)
    | (with_reducible apply stopPorts_after)
    | (with_reducible apply startDrops_after)
    | (with_reducible apply enterHoldover_after)
    | (intro _; try dsimp only)
    | exact within_trans (by decide) hS
    | exact covers_trans (by decide) hW
    | exact rows_every hW _
    | split

theorem loadPrograms_after (h : Changes S W d e) (hS : within [.mem] S = true) (hW : covers [] W = true) :
    Changes S W d (loadPrograms e) := by
  unfold loadPrograms
  try dsimp only
  repeat' first
    | (with_reducible assumption)
    | (with_reducible refine ite_after ?_ ?_)
    | (with_reducible apply foldl_after)
    | (intro _; try dsimp only)
    | exact within_trans (by decide) hS
    | split
    | (with_reducible apply set_mem_after)
    | (with_reducible exact Dev.Canonical.mem ‹_›)
    | (with_reducible apply Memory.wf_write)
    | (with_reducible apply Memory.wf_set)
    | (with_reducible apply Memory.wf_forget)
    | (with_reducible apply Memory.wf_foldl)
    | (with_reducible apply applyEntries_wf)
    | (rename_i can; exact can.mem)
    | ((with_reducible show Changes _ _ _ (Dev.mk _ _ _ _ _ _ _ _ _ _ _ _ _ _ _ _ _ _ _ _ _ _ _ _ _ _ _ _ _ _)); refine mk_after ?_ (.inr (within_mem hS (by decide))) (.inl rfl) (.inl rfl) (.inl rfl) (.inl rfl) (.inl rfl) (.inl rfl) (.inl rfl) (.inl rfl) (.inl rfl) (.inl rfl) (.inl rfl) (.inl rfl) (.inl rfl) (.inl rfl) (.inl rfl) (.inl rfl) (.inl rfl) (.inl rfl) (.inl rfl) (.inl rfl) (.inl rfl) (.inl rfl) (.inl rfl) (.inl rfl) (.inl rfl) (.inl rfl) (.inl rfl) (.inl rfl) (fun can => by repeat' first | (with_reducible exact can.mem) | (with_reducible assumption) | (with_reducible apply Memory.wf_foldl) | intro _ | (with_reducible apply Memory.wf_write) | (with_reducible apply Memory.wf_set) | (with_reducible apply applyEntries_wf) | (with_reducible apply Memory.wf_forget) | (with_reducible apply Memory.wf_filter) | exact can.mem) (fun can => can.shadow))

theorem restartPilot_after (h : Changes S W d e) (hS : within [.boot, .sv] S = true) (hW : covers [] W = true) :
    Changes S W d (restartPilot e) := by
  unfold restartPilot
  try dsimp only
  repeat' first
    | (with_reducible assumption)
    | (with_reducible refine ite_after ?_ ?_)
    | (with_reducible apply Dev.modSv_after)
    | (intro _; try dsimp only)
    | exact within_trans (by decide) hS
    | split
    | (with_reducible apply set_boot_after)
    | ((with_reducible show Changes _ _ _ (Dev.mk _ _ _ _ _ _ _ _ _ _ _ _ _ _ _ _ _ _ _ _ _ _ _ _ _ _ _ _ _ _)); refine mk_after ?_ (.inl rfl) (.inl rfl) (.inl rfl) (.inr (within_mem hS (by decide))) (.inl rfl) (.inl rfl) (.inl rfl) (.inl rfl) (.inl rfl) (.inl rfl) (.inl rfl) (.inl rfl) (.inl rfl) (.inl rfl) (.inl rfl) (.inl rfl) (.inl rfl) (.inl rfl) (.inl rfl) (.inl rfl) (.inl rfl) (.inl rfl) (.inl rfl) (.inl rfl) (.inl rfl) (.inl rfl) (.inl rfl) (.inl rfl) (.inl rfl) (fun can => can.mem) (fun can => can.shadow))

theorem wakeDone_after (h : Changes S W d e) (hS : within [.regs, .mem, .power, .boot, .chans, .lq, .out, .freeCtr, .cy, .fuses, .epoch, .sv, .tc, .hs] S = true) (hW : covers [.one 32896, .one 32904, .one 32912, .one 32985, .one 98782, .one 131453, .one 262848, .one 1573032, .one 1573055, .one 1573218, .one 1573219, .one 1573278, .one 1704158, .row 0x5014 2 0x800 6, .row 0x5014 2 0x800 24, .row 0x8100 4 0x40 0, .row 0x8104 4 0x40 15, .row 0x8104 4 0x40 16, .row 0x8104 4 0x40 28, .row 0x2100c 32 0x40 3, .row 0x2100c 32 0x40 4, .row 0x2100c 32 0x40 5, .row 0x21024 32 0x40 0] W = true) :
    Changes S W d (wakeDone e) := by
  unfold wakeDone
  try dsimp only
  repeat' first
    | (with_reducible assumption)
    | (with_reducible refine ite_after ?_ ?_)
    | (with_reducible apply wr_after)
    | (with_reducible apply tamperDue_after)
    | (with_reducible apply lower_after)
    | (with_reducible apply flag_after)
    | (with_reducible apply flushTimeEvents_after)
    | (with_reducible apply Dev.modPower_after)
    | (with_reducible apply settleServices_after)
    | (with_reducible apply powerPorts_after)
    | (with_reducible apply restartPilot_after)
    | (intro _; try dsimp only)
    | exact within_trans (by decide) hS
    | exact covers_trans (by decide +kernel) hW
    | exact rows_one hW (by decide +kernel)
    | exact rows_row hW (by decide +kernel) (by decide)
    | split

theorem railInRegulation_after (h : Changes S W d e) (hS : within [.regs, .mem, .power, .boot, .chans, .lq, .out, .freeCtr, .cy, .fuses, .epoch, .sv, .tc, .hs] S = true) (hW : covers [.one 512, .one 513, .one 32896, .one 32904, .one 32912, .one 32985, .one 32994, .one 32995, .one 32996, .one 32997, .one 33000, .one 98782, .one 131453, .one 262848, .one 1573032, .one 1573055, .one 1573218, .one 1573219, .one 1573278, .one 1704158, .row 0x5014 2 0x800 6, .row 0x5014 2 0x800 24, .row 0x8100 4 0x40 0, .row 0x8104 4 0x40 15, .row 0x8104 4 0x40 16, .row 0x8104 4 0x40 28, .row 0x2100c 32 0x40 3, .row 0x2100c 32 0x40 4, .row 0x2100c 32 0x40 5, .row 0x21024 32 0x40 0] W = true) (r : Rail) :
    Changes S W d (railInRegulation r e) := by
  unfold railInRegulation
  try dsimp only
  repeat' first
    | (with_reducible assumption)
    | (with_reducible refine ite_after ?_ ?_)
    | (with_reducible apply raise_after)
    | (with_reducible apply wakeDone_after)
    | (with_reducible apply powerUpNext_after)
    | (intro _; try dsimp only)
    | exact within_trans (by decide) hS
    | exact covers_trans (by decide +kernel) hW
    | exact rows_one hW (by decide +kernel)
    | exact rows_row hW (by decide +kernel) (by decide)
    | split
    | ((with_reducible show Rows _ (Fld.bit (railOk _))); unfold railOk; split)

theorem execVaonPowerOn_changes {s t : State} (h : execVaonPowerOn s = .next t) :
    t.pending = s.pending ∧ Changes [.regs, .power, .out] [.one 32992, .one 33000] s.dev t.dev := by
  unfold execVaonPowerOn at h
  refine act_changes (by decide) h fun e h => ?_
  repeat' first
    | (with_reducible assumption)
    | (with_reducible refine ite_after ?_ ?_)
    | (with_reducible apply vaonPowerOn_after)
    | (intro _; try dsimp only)
    | exact within_trans (by decide) (within_refl _)
    | exact covers_trans (by decide) (covers_refl _)
    | exact rows_one (covers_refl _) (by decide)
    | split

theorem execCrystalStable_changes {s t : State} (h : execCrystalStable s = .next t) :
    t.pending = s.pending ∧ Changes [.regs, .power, .out] [.one 33000] s.dev t.dev := by
  unfold execCrystalStable at h
  refine act_changes (by decide) h fun e h => ?_
  repeat' first
    | (with_reducible assumption)
    | (with_reducible refine ite_after ?_ ?_)
    | (with_reducible apply crystalStable_after)
    | (intro _; try dsimp only)
    | exact within_trans (by decide) (within_refl _)
    | exact covers_trans (by decide) (covers_refl _)
    | exact rows_one (covers_refl _) (by decide)
    | split

theorem execRailFail_changes {s t : State} (what : Supply) (h : execRailFail what s = .next t) :
    t.pending = s.pending ∧ Changes allParts [.every] s.dev t.dev := by
  unfold execRailFail at h
  refine act_changes (by decide) h fun e h => ?_
  repeat' first
    | (with_reducible assumption)
    | (with_reducible refine ite_after ?_ ?_)
    | (with_reducible apply railFail_after)
    | (intro _; try dsimp only)
    | exact within_trans (by decide) (within_refl _)
    | exact covers_trans (by decide) (covers_refl _)
    | exact rows_every (covers_refl _) _
    | split

theorem execXtalFail_changes {s t : State} (h : execXtalFail s = .next t) :
    t.pending = s.pending ∧ Changes [.regs, .mem, .power, .chans, .ts, .lq, .out, .freeCtr, .sv, .hs, .fd] [.one 32896, .one 32912, .one 32984, .one 32989, .one 32990, .one 32991, .one 32994, .one 32995, .one 32996, .one 32997, .one 33000, .one 33184, .one 33185, .one 33186, .one 33190, .one 33192, .one 33196, .one 34911, .one 1704158, .one 1835219, .one 1835262, .one 1835263, .one 1835288, .row 0x5014 2 0x800 6, .row 0x5014 2 0x800 24, .row 0x2100c 32 0x40 3, .row 0x2100c 32 0x40 4, .row 0x2100c 32 0x40 5, .row 0x21024 32 0x40 0, .row 0x40034 24 0x2000 2, .row 0x40034 24 0x2000 16, .row 0x40034 24 0x2000 28, .row 0x40034 24 0x2000 29, .row 0x40104 24 0x2000 3, .row 0x40108 24 0x2000 3, .row 0x40108 24 0x2000 29, .row 0x40218 24 0x2000 2, .row 0x40218 24 0x2000 28, .row 0x4021c 24 0x2000 8, .row 0x40304 24 0x2000 1, .row 0x40304 24 0x2000 2, .row 0x40304 24 0x2000 20, .row 0x40304 24 0x2000 22, .row 0x40304 24 0x2000 29, .row 0x40308 24 0x2000 0, .row 0x40308 24 0x2000 8, .row 0x40308 24 0x2000 16, .row 0x40308 24 0x2000 24] s.dev t.dev := by
  unfold execXtalFail at h
  refine act_changes (by decide) h fun e h => ?_
  repeat' first
    | (with_reducible assumption)
    | (with_reducible refine ite_after ?_ ?_)
    | (with_reducible apply xtalFail_after)
    | (intro _; try dsimp only)
    | exact within_trans (by decide) (within_refl _)
    | exact covers_trans (by decide +kernel) (covers_refl _)
    | exact rows_one (covers_refl _) (by decide +kernel)
    | exact rows_row (covers_refl _) (by decide +kernel) (by decide)
    | split

theorem execEnableDropStep_changes {s t : State} (h : execEnableDropStep s = .next t) :
    t.pending = s.pending ∧ Changes [.regs, .mem, .power, .chans, .ts, .lq, .out, .freeCtr, .sv, .hs, .fd] [.one 32896, .one 32912, .one 32989, .one 32990, .one 32991, .one 32994, .one 32995, .one 32996, .one 32997, .one 33000, .one 33184, .one 33185, .one 33186, .one 33190, .one 33192, .one 33196, .one 34911, .one 1704158, .one 1835219, .one 1835262, .one 1835263, .one 1835288, .row 0x5014 2 0x800 6, .row 0x5014 2 0x800 24, .row 0x2100c 32 0x40 3, .row 0x2100c 32 0x40 4, .row 0x2100c 32 0x40 5, .row 0x21024 32 0x40 0, .row 0x40034 24 0x2000 2, .row 0x40034 24 0x2000 16, .row 0x40034 24 0x2000 28, .row 0x40034 24 0x2000 29, .row 0x40104 24 0x2000 3, .row 0x40108 24 0x2000 3, .row 0x40108 24 0x2000 29, .row 0x40218 24 0x2000 2, .row 0x40218 24 0x2000 28, .row 0x4021c 24 0x2000 8, .row 0x40304 24 0x2000 1, .row 0x40304 24 0x2000 2, .row 0x40304 24 0x2000 20, .row 0x40304 24 0x2000 22, .row 0x40304 24 0x2000 29, .row 0x40308 24 0x2000 0, .row 0x40308 24 0x2000 8, .row 0x40308 24 0x2000 16, .row 0x40308 24 0x2000 24] s.dev t.dev := by
  unfold execEnableDropStep at h
  refine act_changes (by decide) h fun e h => ?_
  repeat' first
    | (with_reducible assumption)
    | (with_reducible refine ite_after ?_ ?_)
    | (with_reducible apply enableDropStep_after)
    | (intro _; try dsimp only)
    | exact within_trans (by decide) (within_refl _)
    | exact covers_trans (by decide +kernel) (covers_refl _)
    | exact rows_one (covers_refl _) (by decide +kernel)
    | exact rows_row (covers_refl _) (by decide +kernel) (by decide)
    | split

theorem execPowerUpRetry_changes {s t : State} (h : execPowerUpRetry s = .next t) :
    t.pending = s.pending ∧ Changes [.power, .out] [] s.dev t.dev := by
  unfold execPowerUpRetry at h
  refine act_changes (by decide) h fun e h => ?_
  repeat' first
    | (with_reducible assumption)
    | (with_reducible refine ite_after ?_ ?_)
    | (with_reducible apply powerUpRetry_after)
    | (intro _; try dsimp only)
    | exact within_trans (by decide) (within_refl _)
    | split

theorem execPllaUnlock_changes {s t : State} (frags : List (Fin 24 × RxFrame)) (h : execPllaUnlock frags s = .next t) :
    t.pending = s.pending ∧ Changes [.regs, .power, .chans, .ts, .lq, .out, .freeCtr, .ce, .shadow, .sv, .tc, .hs, .cl] [.grid 0x70120 8 0x80 8 0x4 0, .one 512, .one 516, .one 98782, .one 131426, .one 131453, .one 131454, .one 131712, .one 131776, .one 131912, .one 3670176, .one 3670188, .one 3670196, .one 3670200, .row 0x5014 2 0x800 6, .row 0x5014 2 0x800 24, .row 0x2100c 32 0x40 3, .row 0x2100c 32 0x40 4, .row 0x2100c 32 0x40 5, .row 0x21024 32 0x40 0, .row 0x40034 24 0x2000 3, .row 0x40034 24 0x2000 4, .row 0x40034 24 0x2000 29, .row 0x40104 24 0x2000 3, .row 0x40108 24 0x2000 3, .row 0x40108 24 0x2000 29, .row 0x40218 24 0x2000 2, .row 0x40218 24 0x2000 28, .row 0x4021c 24 0x2000 8, .row 0x40304 24 0x2000 1, .row 0x40304 24 0x2000 2, .row 0x40304 24 0x2000 20, .row 0x40304 24 0x2000 22, .row 0x40304 24 0x2000 29, .row 0x40308 24 0x2000 0, .row 0x40308 24 0x2000 8, .row 0x40308 24 0x2000 16, .row 0x40308 24 0x2000 24, .row 0x70108 8 0x80 0, .row 0x70108 8 0x80 16, .row 0x70108 8 0x80 25, .row 0x70108 8 0x80 26, .row 0x70108 8 0x80 29, .row 0x70140 8 0x80 0] s.dev t.dev := by
  unfold execPllaUnlock at h
  refine act_changes (by decide) h fun e h => ?_
  repeat' first
    | (with_reducible assumption)
    | (with_reducible refine ite_after ?_ ?_)
    | (with_reducible apply pllaUnlock_after)
    | (intro _; try dsimp only)
    | exact within_trans (by decide) (within_refl _)
    | exact covers_trans (by decide +kernel) (covers_refl _)
    | exact rows_one (covers_refl _) (by decide +kernel)
    | exact rows_row (covers_refl _) (by decide +kernel) (by decide)
    | exact rows_grid (covers_refl _) (by decide +kernel) (by decide) (by decide)
    | split

theorem execPlldUnlock_changes {s t : State} (h : execPlldUnlock s = .next t) :
    t.pending = s.pending ∧ Changes [.regs, .power, .out] [.one 513, .one 517] s.dev t.dev := by
  unfold execPlldUnlock at h
  refine act_changes (by decide) h fun e h => ?_
  repeat' first
    | (with_reducible assumption)
    | (with_reducible refine ite_after ?_ ?_)
    | (with_reducible apply plldUnlock_after)
    | (intro _; try dsimp only)
    | exact within_trans (by decide) (within_refl _)
    | exact covers_trans (by decide) (covers_refl _)
    | exact rows_one (covers_refl _) (by decide)
    | split

theorem execPlleUnlock_changes {s t : State} (h : execPlleUnlock s = .next t) :
    t.pending = s.pending ∧ Changes [.regs, .out, .en] [.one 514, .one 518, .row 0x6014 2 0x800 2, .row 0x6014 2 0x800 31] s.dev t.dev := by
  unfold execPlleUnlock at h
  refine act_changes (by decide) h fun e h => ?_
  repeat' first
    | (with_reducible assumption)
    | (with_reducible refine ite_after ?_ ?_)
    | (with_reducible apply plleUnlock_after)
    | (intro _; try dsimp only)
    | exact within_trans (by decide) (within_refl _)
    | exact covers_trans (by decide +kernel) (covers_refl _)
    | exact rows_one (covers_refl _) (by decide +kernel)
    | exact rows_row (covers_refl _) (by decide +kernel) (by decide)
    | split

theorem execTempSample_changes {s t : State} (t0 : BitVec 11) (h : execTempSample t0 s = .next t) :
    t.pending = s.pending ∧ Changes [.regs, .power, .out] [.one 32987, .one 33120, .one 33151] s.dev t.dev := by
  unfold execTempSample at h
  refine act_changes (by decide) h fun e h => ?_
  repeat' first
    | (with_reducible assumption)
    | (with_reducible refine ite_after ?_ ?_)
    | (with_reducible apply tempSample_after)
    | (intro _; try dsimp only)
    | exact within_trans (by decide) (within_refl _)
    | exact covers_trans (by decide) (covers_refl _)
    | exact rows_one (covers_refl _) (by decide)
    | split

theorem execThermalShutdown_changes {s t : State} (frags : List (Fin 24 × RxFrame)) (h : execThermalShutdown frags s = .next t) :
    t.pending = s.pending ∧ Changes [.regs, .chans, .ts, .lq, .out, .freeCtr, .ce, .shadow, .sv, .hs] [.grid 0x70120 8 0x80 8 0x4 0, .one 32986, .one 32987, .one 1835219, .one 1835262, .one 1835263, .one 1835288, .one 3670176, .one 3670188, .one 3670196, .one 3670200, .row 0x5014 2 0x800 6, .row 0x5014 2 0x800 24, .row 0x2100c 32 0x40 3, .row 0x2100c 32 0x40 4, .row 0x2100c 32 0x40 5, .row 0x21024 32 0x40 0, .row 0x40034 24 0x2000 2, .row 0x40034 24 0x2000 3, .row 0x40034 24 0x2000 4, .row 0x40034 24 0x2000 16, .row 0x40034 24 0x2000 28, .row 0x40034 24 0x2000 29, .row 0x40104 24 0x2000 3, .row 0x40108 24 0x2000 3, .row 0x40108 24 0x2000 29, .row 0x40218 24 0x2000 2, .row 0x40218 24 0x2000 28, .row 0x4021c 24 0x2000 8, .row 0x40304 24 0x2000 1, .row 0x40304 24 0x2000 2, .row 0x40304 24 0x2000 20, .row 0x40304 24 0x2000 22, .row 0x40304 24 0x2000 29, .row 0x40308 24 0x2000 0, .row 0x40308 24 0x2000 8, .row 0x40308 24 0x2000 16, .row 0x40308 24 0x2000 24, .row 0x70108 8 0x80 0, .row 0x70108 8 0x80 16, .row 0x70108 8 0x80 25, .row 0x70108 8 0x80 26, .row 0x70108 8 0x80 29, .row 0x70140 8 0x80 0] s.dev t.dev := by
  unfold execThermalShutdown at h
  refine act_changes (by decide) h fun e h => ?_
  repeat' first
    | (with_reducible assumption)
    | (with_reducible refine ite_after ?_ ?_)
    | (with_reducible apply thermalShutdown_after)
    | (intro _; try dsimp only)
    | exact within_trans (by decide) (within_refl _)
    | exact covers_trans (by decide +kernel) (covers_refl _)
    | exact rows_one (covers_refl _) (by decide +kernel)
    | exact rows_row (covers_refl _) (by decide +kernel) (by decide)
    | exact rows_grid (covers_refl _) (by decide +kernel) (by decide) (by decide)
    | split

theorem execVrfGroupLevelChange_changes {s t : State} (g : Fin 6) (mv : Nat) (h : execVrfGroupLevelChange g mv s = .next t) :
    t.pending = s.pending ∧ Changes [.regs, .power, .out] [.one 33008, .row 0x40034 24 0x2000 2, .row 0x40034 24 0x2000 29] s.dev t.dev := by
  unfold execVrfGroupLevelChange at h
  refine act_changes (by decide) h fun e h => ?_
  repeat' first
    | (with_reducible assumption)
    | (with_reducible refine ite_after ?_ ?_)
    | (with_reducible apply vrfLevel_after)
    | (intro _; try dsimp only)
    | exact within_trans (by decide) (within_refl _)
    | exact covers_trans (by decide) (covers_refl _)
    | exact rows_one (covers_refl _) (by decide)
    | exact rows_row (covers_refl _) (by decide) (by decide)
    | split

theorem execTrimRequest_changes {s t : State} (p : Path) (h : execTrimRequest p s = .next t) :
    t.pending = s.pending ∧ Changes [.regs, .power, .chans, .ts, .lq, .out, .freeCtr, .hawserStatus, .jtagStatus, .sv, .hs] [.errors, .one 32896, .one 32904, .one 1835219, .one 1835262, .one 1835263, .one 1835288, .row 0x5014 2 0x800 1, .row 0x5014 2 0x800 6, .row 0x5014 2 0x800 24, .row 0x2100c 32 0x40 3, .row 0x2100c 32 0x40 4, .row 0x2100c 32 0x40 5, .row 0x21024 32 0x40 0, .row 0x40034 24 0x2000 2, .row 0x40034 24 0x2000 16, .row 0x40034 24 0x2000 28, .row 0x40034 24 0x2000 29, .row 0x40104 24 0x2000 3, .row 0x40108 24 0x2000 3, .row 0x40108 24 0x2000 29, .row 0x40218 24 0x2000 2, .row 0x40218 24 0x2000 28, .row 0x4021c 24 0x2000 8, .row 0x40304 24 0x2000 1, .row 0x40304 24 0x2000 2, .row 0x40304 24 0x2000 20, .row 0x40304 24 0x2000 22, .row 0x40304 24 0x2000 29, .row 0x40308 24 0x2000 0, .row 0x40308 24 0x2000 8, .row 0x40308 24 0x2000 16, .row 0x40308 24 0x2000 24] s.dev t.dev := by
  unfold execTrimRequest at h
  refine act_changes (by decide) h fun e h => ?_
  repeat' first
    | (with_reducible assumption)
    | (with_reducible refine ite_after ?_ ?_)
    | (with_reducible apply stateRequest_after)
    | (intro _; try dsimp only)
    | exact within_trans (by decide) (within_refl _)
    | exact covers_trans (by decide +kernel) (covers_refl _)
    | exact rows_one (covers_refl _) (by decide +kernel)
    | exact rows_row (covers_refl _) (by decide +kernel) (by decide)
    | split

theorem execTrimEntry_changes {s t : State} (h : execTrimEntry s = .next t) :
    t.pending = s.pending ∧ Changes [.regs, .time, .power, .out, .clk, .cl] [.one 32896, .one 32904, .one 32912, .one 33151, .one 65692, .one 65695, .one 98752, .row 0x40038 24 0x2000 31, .row 0x4010c 24 0x2000 31, .row 0x40110 24 0x2000 31] s.dev t.dev := by
  unfold execTrimEntry at h
  refine act_changes (by decide) h fun e h => ?_
  repeat' first
    | (with_reducible assumption)
    | (with_reducible refine ite_after ?_ ?_)
    | (with_reducible apply trimEntry_after)
    | (intro _; try dsimp only)
    | exact within_trans (by decide) (within_refl _)
    | exact covers_trans (by decide +kernel) (covers_refl _)
    | exact rows_one (covers_refl _) (by decide +kernel)
    | exact rows_row (covers_refl _) (by decide +kernel) (by decide)
    | split

theorem execWatchRequest_changes {s t : State} (p : Path) (h : execWatchRequest p s = .next t) :
    t.pending = s.pending ∧ Changes [.regs, .power, .chans, .ts, .lq, .out, .freeCtr, .hawserStatus, .jtagStatus, .sv, .hs] [.errors, .one 32896, .one 32904, .one 1835219, .one 1835262, .one 1835263, .one 1835288, .row 0x5014 2 0x800 1, .row 0x5014 2 0x800 6, .row 0x5014 2 0x800 24, .row 0x2100c 32 0x40 3, .row 0x2100c 32 0x40 4, .row 0x2100c 32 0x40 5, .row 0x21024 32 0x40 0, .row 0x40034 24 0x2000 2, .row 0x40034 24 0x2000 16, .row 0x40034 24 0x2000 28, .row 0x40034 24 0x2000 29, .row 0x40104 24 0x2000 3, .row 0x40108 24 0x2000 3, .row 0x40108 24 0x2000 29, .row 0x40218 24 0x2000 2, .row 0x40218 24 0x2000 28, .row 0x4021c 24 0x2000 8, .row 0x40304 24 0x2000 1, .row 0x40304 24 0x2000 2, .row 0x40304 24 0x2000 20, .row 0x40304 24 0x2000 22, .row 0x40304 24 0x2000 29, .row 0x40308 24 0x2000 0, .row 0x40308 24 0x2000 8, .row 0x40308 24 0x2000 16, .row 0x40308 24 0x2000 24] s.dev t.dev := by
  unfold execWatchRequest at h
  refine act_changes (by decide) h fun e h => ?_
  repeat' first
    | (with_reducible assumption)
    | (with_reducible refine ite_after ?_ ?_)
    | (with_reducible apply stateRequest_after)
    | (intro _; try dsimp only)
    | exact within_trans (by decide) (within_refl _)
    | exact covers_trans (by decide +kernel) (covers_refl _)
    | exact rows_one (covers_refl _) (by decide +kernel)
    | exact rows_row (covers_refl _) (by decide +kernel) (by decide)
    | split

theorem execWatchEntryContinue_changes {s t : State} (h : execWatchEntryContinue s = .next t) :
    t.pending = s.pending ∧ Changes [.regs, .mem, .power, .chans, .ts, .lq, .out, .freeCtr, .sv, .tc, .hs, .en, .fd] [.grid 0x70120 8 0x80 8 0x4 0, .one 512, .one 513, .one 514, .one 32896, .one 32912, .one 32989, .one 32990, .one 32991, .one 32994, .one 32995, .one 32996, .one 32997, .one 33000, .one 33184, .one 33185, .one 33186, .one 33190, .one 33192, .one 33196, .one 34910, .one 34911, .one 65667, .one 98782, .one 131426, .one 131453, .one 131454, .one 131712, .one 131776, .one 131912, .one 262848, .one 1573054, .one 1704158, .one 1835219, .one 1835222, .one 1835262, .one 1835263, .one 1835288, .row 0x1200 256 0x4 30, .row 0x5014 2 0x800 6, .row 0x5014 2 0x800 24, .row 0x6014 2 0x800 2, .row 0x6014 2 0x800 31, .row 0x8100 4 0x40 0, .row 0x8104 4 0x40 15, .row 0x8104 4 0x40 16, .row 0x8104 4 0x40 28, .row 0x2100c 32 0x40 3, .row 0x2100c 32 0x40 4, .row 0x2100c 32 0x40 5, .row 0x21024 32 0x40 0, .row 0x40034 24 0x2000 2, .row 0x40034 24 0x2000 16, .row 0x40034 24 0x2000 28, .row 0x40034 24 0x2000 29, .row 0x40104 24 0x2000 3, .row 0x40108 24 0x2000 3, .row 0x40108 24 0x2000 29, .row 0x40218 24 0x2000 2, .row 0x40218 24 0x2000 28, .row 0x4021c 24 0x2000 8, .row 0x40304 24 0x2000 1, .row 0x40304 24 0x2000 2, .row 0x40304 24 0x2000 20, .row 0x40304 24 0x2000 22, .row 0x40304 24 0x2000 29, .row 0x40308 24 0x2000 0, .row 0x40308 24 0x2000 8, .row 0x40308 24 0x2000 16, .row 0x40308 24 0x2000 24] s.dev t.dev := by
  unfold execWatchEntryContinue at h
  refine act_changes (by decide) h fun e h => ?_
  repeat' first
    | (with_reducible assumption)
    | (with_reducible refine ite_after ?_ ?_)
    | (with_reducible apply watchEntry_after)
    | (intro _; try dsimp only)
    | exact within_trans (by decide) (within_refl _)
    | exact covers_trans (by decide +kernel) (covers_refl _)
    | exact rows_one (covers_refl _) (by decide +kernel)
    | exact rows_row (covers_refl _) (by decide +kernel) (by decide)
    | exact rows_grid (covers_refl _) (by decide +kernel) (by decide) (by decide)
    | split

theorem execDormantRequest_changes {s t : State} (p : Path) (h : execDormantRequest p s = .next t) :
    t.pending = s.pending ∧ Changes [.regs, .power, .chans, .ts, .lq, .out, .freeCtr, .hawserStatus, .jtagStatus, .sv, .hs] [.errors, .one 32896, .one 32904, .one 1835219, .one 1835262, .one 1835263, .one 1835288, .row 0x5014 2 0x800 1, .row 0x5014 2 0x800 6, .row 0x5014 2 0x800 24, .row 0x2100c 32 0x40 3, .row 0x2100c 32 0x40 4, .row 0x2100c 32 0x40 5, .row 0x21024 32 0x40 0, .row 0x40034 24 0x2000 2, .row 0x40034 24 0x2000 16, .row 0x40034 24 0x2000 28, .row 0x40034 24 0x2000 29, .row 0x40104 24 0x2000 3, .row 0x40108 24 0x2000 3, .row 0x40108 24 0x2000 29, .row 0x40218 24 0x2000 2, .row 0x40218 24 0x2000 28, .row 0x4021c 24 0x2000 8, .row 0x40304 24 0x2000 1, .row 0x40304 24 0x2000 2, .row 0x40304 24 0x2000 20, .row 0x40304 24 0x2000 22, .row 0x40304 24 0x2000 29, .row 0x40308 24 0x2000 0, .row 0x40308 24 0x2000 8, .row 0x40308 24 0x2000 16, .row 0x40308 24 0x2000 24] s.dev t.dev := by
  unfold execDormantRequest at h
  refine act_changes (by decide) h fun e h => ?_
  repeat' first
    | (with_reducible assumption)
    | (with_reducible refine ite_after ?_ ?_)
    | (with_reducible apply stateRequest_after)
    | (intro _; try dsimp only)
    | exact within_trans (by decide) (within_refl _)
    | exact covers_trans (by decide +kernel) (covers_refl _)
    | exact rows_one (covers_refl _) (by decide +kernel)
    | exact rows_row (covers_refl _) (by decide +kernel) (by decide)
    | split

theorem execDormantEntryContinue_changes {s t : State} (h : execDormantEntryContinue s = .next t) :
    t.pending = s.pending ∧ Changes allParts [.every] s.dev t.dev := by
  unfold execDormantEntryContinue at h
  refine act_changes (by decide) h fun e h => ?_
  repeat' first
    | (with_reducible assumption)
    | (with_reducible refine ite_after ?_ ?_)
    | (with_reducible apply dormantEntry_after)
    | (intro _; try dsimp only)
    | exact within_trans (by decide) (within_refl _)
    | exact covers_trans (by decide) (covers_refl _)
    | exact rows_every (covers_refl _) _
    | split

theorem execColdReset_changes {s t : State} (h : execColdReset s = .next t) :
    t.pending = s.pending ∧ Changes allParts [.every] s.dev t.dev := by
  unfold execColdReset at h
  refine act_changes (by decide) h fun e h => ?_
  repeat' first
    | (with_reducible assumption)
    | (with_reducible refine ite_after ?_ ?_)
    | (with_reducible apply coldReset_after)
    | (intro _; try dsimp only)
    | exact within_trans (by decide) (within_refl _)
    | exact covers_trans (by decide) (covers_refl _)
    | exact rows_every (covers_refl _) _
    | split

theorem execBrownReset_changes {s t : State} (r : Rail) (h : execBrownReset r s = .next t) :
    t.pending = s.pending ∧ Changes allParts [.every] s.dev t.dev := by
  unfold execBrownReset at h
  refine act_changes (by decide) h fun e h => ?_
  repeat' first
    | (with_reducible assumption)
    | (with_reducible refine ite_after ?_ ?_)
    | (with_reducible apply brownReset_after)
    | (intro _; try dsimp only)
    | exact within_trans (by decide) (within_refl _)
    | exact covers_trans (by decide) (covers_refl _)
    | exact rows_every (covers_refl _) _
    | split

theorem execPinReset_changes {s t : State} (h : execPinReset s = .next t) :
    t.pending = s.pending ∧ Changes allParts [.every] s.dev t.dev := by
  unfold execPinReset at h
  refine act_changes (by decide) h fun e h => ?_
  repeat' first
    | (with_reducible assumption)
    | (with_reducible refine ite_after ?_ ?_)
    | (with_reducible apply pinReset_after)
    | (intro _; try dsimp only)
    | exact within_trans (by decide) (within_refl _)
    | exact covers_trans (by decide) (covers_refl _)
    | exact rows_every (covers_refl _) _
    | split

theorem execGcReset_changes {s t : State} (p : Path) (w : Word) (h : execGcReset p w s = .next t) :
    t.pending = s.pending ∧ Changes [.regs, .power, .out, .hawserStatus, .jtagStatus, .hs] [.errors, .row 0x5014 2 0x800 1, .row 0x5014 2 0x800 24] s.dev t.dev := by
  unfold execGcReset at h
  refine act_changes (by decide) h fun e h => ?_
  repeat' first
    | (with_reducible assumption)
    | (with_reducible refine ite_after ?_ ?_)
    | (with_reducible apply gcReset_after)
    | (with_reducible apply onPort_after)
    | (intro _; try dsimp only)
    | exact within_trans (by decide) (within_refl _)
    | exact covers_trans (by decide) (covers_refl _)
    | exact rows_row (covers_refl _) (by decide) (by decide)
    | split

theorem execSoftReset_changes {s t : State} (h : execSoftReset s = .next t) :
    t.pending = s.pending ∧ Changes allParts [.every] s.dev t.dev := by
  unfold execSoftReset at h
  refine act_changes (by decide) h fun e h => ?_
  repeat' first
    | (with_reducible assumption)
    | (with_reducible refine ite_after ?_ ?_)
    | (with_reducible apply softReset_after)
    | (intro _; try dsimp only)
    | exact within_trans (by decide) (within_refl _)
    | exact covers_trans (by decide) (covers_refl _)
    | exact rows_every (covers_refl _) _
    | split

theorem execPfailAssert_changes {s t : State} (input : PfailInput) (h : execPfailAssert input s = .next t) :
    t.pending = s.pending ∧ Changes [.regs, .mem, .power, .chans, .ts, .lq, .out, .freeCtr, .sv, .hs, .fd] [.one 32989, .one 32990, .one 32991, .one 1704158, .one 1835219, .one 1835262, .one 1835263, .one 1835288, .row 0x5014 2 0x800 6, .row 0x5014 2 0x800 24, .row 0x2100c 32 0x40 3, .row 0x2100c 32 0x40 4, .row 0x2100c 32 0x40 5, .row 0x21024 32 0x40 0, .row 0x40034 24 0x2000 2, .row 0x40034 24 0x2000 16, .row 0x40034 24 0x2000 28, .row 0x40034 24 0x2000 29, .row 0x40104 24 0x2000 3, .row 0x40108 24 0x2000 3, .row 0x40108 24 0x2000 29, .row 0x40218 24 0x2000 2, .row 0x40218 24 0x2000 28, .row 0x4021c 24 0x2000 8, .row 0x40304 24 0x2000 1, .row 0x40304 24 0x2000 2, .row 0x40304 24 0x2000 20, .row 0x40304 24 0x2000 22, .row 0x40304 24 0x2000 29, .row 0x40308 24 0x2000 0, .row 0x40308 24 0x2000 8, .row 0x40308 24 0x2000 16, .row 0x40308 24 0x2000 24] s.dev t.dev := by
  unfold execPfailAssert at h
  refine act_changes (by decide) h fun e h => ?_
  repeat' first
    | (with_reducible assumption)
    | (with_reducible refine ite_after ?_ ?_)
    | (with_reducible apply pfailAssert_after)
    | (intro _; try dsimp only)
    | exact within_trans (by decide) (within_refl _)
    | exact covers_trans (by decide +kernel) (covers_refl _)
    | exact rows_one (covers_refl _) (by decide +kernel)
    | exact rows_row (covers_refl _) (by decide +kernel) (by decide)
    | split

theorem execPfailRelease_changes {s t : State} (input : PfailInput) (h : execPfailRelease input s = .next t) :
    t.pending = s.pending ∧ Changes [.regs, .mem, .power, .chans, .ts, .lq, .out, .freeCtr, .sv, .hs, .fd] [.one 32989, .one 32990, .one 32991, .one 1704158, .one 1835219, .one 1835262, .one 1835263, .one 1835288, .row 0x5014 2 0x800 6, .row 0x5014 2 0x800 24, .row 0x2100c 32 0x40 3, .row 0x2100c 32 0x40 4, .row 0x2100c 32 0x40 5, .row 0x21024 32 0x40 0, .row 0x40034 24 0x2000 2, .row 0x40034 24 0x2000 16, .row 0x40034 24 0x2000 28, .row 0x40034 24 0x2000 29, .row 0x40104 24 0x2000 3, .row 0x40108 24 0x2000 3, .row 0x40108 24 0x2000 29, .row 0x40218 24 0x2000 2, .row 0x40218 24 0x2000 28, .row 0x4021c 24 0x2000 8, .row 0x40304 24 0x2000 1, .row 0x40304 24 0x2000 2, .row 0x40304 24 0x2000 20, .row 0x40304 24 0x2000 22, .row 0x40304 24 0x2000 29, .row 0x40308 24 0x2000 0, .row 0x40308 24 0x2000 8, .row 0x40308 24 0x2000 16, .row 0x40308 24 0x2000 24] s.dev t.dev := by
  unfold execPfailRelease at h
  refine act_changes (by decide) h fun e h => ?_
  repeat' first
    | (with_reducible assumption)
    | (with_reducible refine ite_after ?_ ?_)
    | (with_reducible apply pfailRelease_after)
    | (intro _; try dsimp only)
    | exact within_trans (by decide) (within_refl _)
    | exact covers_trans (by decide +kernel) (covers_refl _)
    | exact rows_one (covers_refl _) (by decide +kernel)
    | exact rows_row (covers_refl _) (by decide +kernel) (by decide)
    | split

theorem execMramFence_changes {s t : State} (h : execMramFence s = .next t) :
    t.pending = s.pending ∧ Changes allParts [.every] s.dev t.dev := by
  unfold execMramFence at h
  refine act_changes (by decide) h fun e h => ?_
  repeat' first
    | (with_reducible assumption)
    | (with_reducible refine ite_after ?_ ?_)
    | (with_reducible apply mramFence_after)
    | (intro _; try dsimp only)
    | exact within_trans (by decide) (within_refl _)
    | exact covers_trans (by decide) (covers_refl _)
    | exact rows_every (covers_refl _) _
    | split

theorem execLinkDrop_changes {s t : State} (p : Fin 4) (h : execLinkDrop p s = .next t) :
    t.pending = s.pending ∧ Changes allParts [.every] s.dev t.dev := by
  unfold execLinkDrop at h
  refine act_changes (by decide) h fun e h => ?_
  repeat' first
    | (with_reducible assumption)
    | (with_reducible refine ite_after ?_ ?_)
    | (with_reducible apply linkReset_after)
    | (with_reducible apply linkDropEvent_after)
    | (intro _; try dsimp only)
    | exact within_trans (by decide) (within_refl _)
    | exact covers_trans (by decide) (covers_refl _)
    | exact rows_every (covers_refl _) _
    | split

theorem execRetrain_changes {s t : State} (path : Path) (p : Fin 4) (command : Bool) (h : execRetrain path p command s = .next t) :
    t.pending = s.pending ∧ Changes allParts [.every] s.dev t.dev := by
  unfold execRetrain at h
  refine act_changes (by decide) h fun e h => ?_
  repeat' first
    | (with_reducible assumption)
    | (with_reducible refine ite_after ?_ ?_)
    | (with_reducible apply wr_after)
    | (with_reducible apply linkReset_after)
    | (with_reducible apply onPort_after)
    | (with_reducible apply retrain_after)
    | (intro _; try dsimp only)
    | exact within_trans (by decide) (within_refl _)
    | exact covers_trans (by decide) (covers_refl _)
    | exact rows_every (covers_refl _) _
    | split

theorem execCodewordReceived_changes {s t : State} (p : Fin 4) (frame : Option LinkFrame) (corrected : Bool) (iterAvg : Byte) (snr : Byte) (h : execCodewordReceived p frame corrected iterAvg snr s = .next t) :
    t.pending = s.pending ∧ Changes allParts [.every] s.dev t.dev := by
  unfold execCodewordReceived at h
  refine act_changes (by decide) h fun e h => ?_
  repeat' first
    | (with_reducible assumption)
    | (with_reducible refine ite_after ?_ ?_)
    | (with_reducible apply codeword_after)
    | (with_reducible apply linkReset_after)
    | (with_reducible apply withDrop_after)
    | (intro _; try dsimp only)
    | exact within_trans (by decide) (within_refl _)
    | exact covers_trans (by decide) (covers_refl _)
    | exact rows_every (covers_refl _) _
    | split

theorem execAckTimeout_changes {s t : State} (p : Fin 4) (h : execAckTimeout p s = .next t) :
    t.pending = s.pending ∧ Changes allParts [.every] s.dev t.dev := by
  unfold execAckTimeout at h
  refine act_changes (by decide) h fun e h => ?_
  repeat' first
    | (with_reducible assumption)
    | (with_reducible refine ite_after ?_ ?_)
    | (with_reducible apply linkReset_after)
    | (with_reducible apply ackTimeout_after)
    | (with_reducible apply withDrop_after)
    | (intro _; try dsimp only)
    | exact within_trans (by decide) (within_refl _)
    | exact covers_trans (by decide) (covers_refl _)
    | exact rows_every (covers_refl _) _
    | split

theorem execRoutingTableUpdate_changes {s t : State} (h : execRoutingTableUpdate s = .next t) :
    t.pending = s.pending ∧ Changes allParts [.every] s.dev t.dev := by
  unfold execRoutingTableUpdate at h
  refine act_changes (by decide) h fun e h => ?_
  repeat' first
    | (with_reducible assumption)
    | (with_reducible refine ite_after ?_ ?_)
    | (with_reducible apply routingUpdate_after)
    | (with_reducible apply linkReset_after)
    | (intro _; try dsimp only)
    | exact within_trans (by decide) (within_refl _)
    | exact covers_trans (by decide) (covers_refl _)
    | exact rows_every (covers_refl _) _
    | split

theorem execResetOrder_changes {s t : State} (srcAddr : BitVec 12) (srcUnit : BitVec 64) (h : execResetOrder srcAddr srcUnit s = .next t) :
    t.pending = s.pending ∧ Changes allParts [.every] s.dev t.dev := by
  unfold execResetOrder at h
  refine act_changes (by decide) h fun e h => ?_
  repeat' first
    | (with_reducible assumption)
    | (with_reducible refine ite_after ?_ ?_)
    | (with_reducible apply linkReset_after)
    | (with_reducible apply resetOrder_after)
    | (intro _; try dsimp only)
    | exact within_trans (by decide) (within_refl _)
    | exact covers_trans (by decide) (covers_refl _)
    | exact rows_every (covers_refl _) _
    | split

end

end Sys2Proof.Machine
end

