-- ==== Sys2Proof/Laws/ChangesImage.lean ====
section
/-!
SUPPORT. What every operation of Machine/Image can change.
-/

set_option Elab.async false
set_option linter.all false

namespace Sys2Proof.Machine

section
variable {S : List Part} {W : List Span} {d e : Dev}

theorem noteKeyMode_after (h : Changes S W d e) (hS : within [.regs] S = true) (hW : covers [.one 688] W = true) (img : List Byte) (slotSize : Option Nat) :
    Changes S W d (noteKeyMode img slotSize e) := by
  unfold noteKeyMode
  try dsimp only
  repeat' first
    | (with_reducible assumption)
    | (with_reducible refine ite_after ?_ ?_)
    | (with_reducible apply wr_after)
    | (intro _; try dsimp only)
    | exact within_trans (by decide) hS
    | exact covers_trans (by decide) hW
    | exact rows_one hW (by decide)
    | split

theorem Dev.modBoot_after (h : Changes S W d e) (hS : within [.boot] S = true) (hW : covers [] W = true) (f : BootSt → BootSt) :
    Changes S W d (Dev.modBoot e f) := by
  unfold Dev.modBoot
  try dsimp only
  repeat' first
    | (with_reducible assumption)
    | (with_reducible refine ite_after ?_ ?_)
    | (intro _; try dsimp only)
    | exact within_trans (by decide) hS
    | split
    | (with_reducible apply set_boot_after)
    | ((with_reducible show Changes _ _ _ (Dev.mk _ _ _ _ _ _ _ _ _ _ _ _ _ _ _ _ _ _ _ _ _ _ _ _ _ _ _ _ _ _)); refine mk_after ?_ (.inl rfl) (.inl rfl) (.inl rfl) (.inr (within_mem hS (by decide))) (.inl rfl) (.inl rfl) (.inl rfl) (.inl rfl) (.inl rfl) (.inl rfl) (.inl rfl) (.inl rfl) (.inl rfl) (.inl rfl) (.inl rfl) (.inl rfl) (.inl rfl) (.inl rfl) (.inl rfl) (.inl rfl) (.inl rfl) (.inl rfl) (.inl rfl) (.inl rfl) (.inl rfl) (.inl rfl) (.inl rfl) (.inl rfl) (.inl rfl) (fun can => can.mem) (fun can => can.shadow))

theorem setEntry_after (h : Changes S W d e) (hS : within [.boot] S = true) (hW : covers [] W = true) (slot : Nat) (e0 : Option DirEntry) :
    Changes S W d (setEntry slot e0 e) := by
  unfold setEntry
  try dsimp only
  repeat' first
    | (with_reducible assumption)
    | (with_reducible refine ite_after ?_ ?_)
    | (with_reducible apply Dev.modBoot_after)
    | (intro _; try dsimp only)
    | exact within_trans (by decide) hS
    | split

theorem romFrames_after (h : Changes S W d e) (hS : within [.regs, .freeCtr] S = true) (hW : covers [.row 0x5018 2 0x800 16] W = true) :
    Changes S W d (romFrames e) := by
  unfold romFrames
  try dsimp only
  repeat' first
    | (with_reducible assumption)
    | (with_reducible refine ite_after ?_ ?_)
    | (with_reducible apply count_after)
    | (with_reducible apply free_after)
    | (intro _; try dsimp only)
    | exact within_trans (by decide) hS
    | exact covers_trans (by decide) hW
    | exact rows_row hW (by decide) (by decide)
    | split

theorem flashRead_after (h : Changes S W d e) (hS : within [.regs, .boot, .freeCtr] S = true) (hW : covers [.row 0x5018 2 0x800 16] W = true) (r : FlashRead) :
    Changes S W d (flashRead r e) := by
  unfold flashRead
  try dsimp only
  repeat' first
    | (with_reducible assumption)
    | (with_reducible refine ite_after ?_ ?_)
    | (with_reducible apply Dev.modBoot_after)
    | (with_reducible apply romFrames_after)
    | (intro _; try dsimp only)
    | exact within_trans (by decide) hS
    | exact covers_trans (by decide) hW
    | exact rows_row hW (by decide) (by decide)
    | split

theorem flashOp_after (h : Changes S W d e) (hS : within [.regs, .boot, .freeCtr] S = true) (hW : covers [.row 0x5018 2 0x800 16] W = true) (op : Nat) (off : Nat) (len : Nat) :
    Changes S W d (flashOp op off len e) := by
  unfold flashOp
  try dsimp only
  repeat' first
    | (with_reducible assumption)
    | (with_reducible refine ite_after ?_ ?_)
    | (with_reducible apply Dev.modBoot_after)
    | (with_reducible apply romFrames_after)
    | (intro _; try dsimp only)
    | exact within_trans (by decide) hS
    | exact covers_trans (by decide) hW
    | exact rows_row hW (by decide) (by decide)
    | split

theorem countTrial_after (h : Changes S W d e) (hS : within [.regs, .boot, .freeCtr] S = true) (hW : covers [.row 0x5018 2 0x800 16] W = true) (slot : Nat) :
    Changes S W d (countTrial slot e) := by
  unfold countTrial
  try dsimp only
  repeat' first
    | (with_reducible assumption)
    | (with_reducible refine ite_after ?_ ?_)
    | (with_reducible apply setEntry_after)
    | (with_reducible apply flashOp_after)
    | (intro _; try dsimp only)
    | exact within_trans (by decide) hS
    | exact covers_trans (by decide) hW
    | exact rows_row hW (by decide) (by decide)
    | split

end

end Sys2Proof.Machine
end

