-- ==== Sys2Proof/Laws/ChangesBoot.lean ====
section
/-!
SUPPORT. What every operation of Machine/Boot can change.
-/

set_option Elab.async false
set_option linter.all false

namespace Sys2Proof.Machine

section
variable {S : List Part} {W : List Span} {d e : Dev}

theorem recoveryFrames_after (h : Changes S W d e) (hS : within [.regs, .freeCtr] S = true) (hW : covers [.row 0x5018 2 0x800 16] W = true) :
    Changes S W d (recoveryFrames e) := by
  unfold recoveryFrames
  try dsimp only
  repeat' first
    | (with_reducible assumption)
    | (with_reducible refine ite_after ?_ ?_)
    | (with_reducible apply romFrames_after)
    | (with_reducible apply count_after)
    | (intro _; try dsimp only)
    | exact within_trans (by decide) hS
    | exact covers_trans (by decide) hW
    | exact rows_row hW (by decide) (by decide)
    | split

theorem bootErr_after (h : Changes S W d e) (hS : within [.regs] S = true) (hW : covers [.one 704, .one 712, .one 720, .one 728] W = true) (err : Nat) (sect : Nat) :
    Changes S W d (bootErr err sect e) := by
  unfold bootErr
  try dsimp only
  repeat' first
    | (with_reducible assumption)
    | (with_reducible refine ite_after ?_ ?_)
    | (with_reducible apply wr_after)
    | (intro _; try dsimp only)
    | exact within_trans (by decide) hS
    | exact covers_trans (by decide +kernel) hW
    | exact rows_one hW (by decide +kernel)
    | split

theorem noteTried_after (h : Changes S W d e) (hS : within [.regs, .boot] S = true) (hW : covers [.one 704, .one 712, .one 720, .one 728] W = true) (id : Nat) (err : Nat) (sect : Nat) :
    Changes S W d (noteTried id err sect e) := by
  unfold noteTried
  try dsimp only
  repeat' first
    | (with_reducible assumption)
    | (with_reducible refine ite_after ?_ ?_)
    | (with_reducible apply Dev.modBoot_after)
    | (with_reducible apply bootErr_after)
    | (intro _; try dsimp only)
    | exact within_trans (by decide) hS
    | exact covers_trans (by decide +kernel) hW
    | exact rows_one hW (by decide +kernel)
    | split

theorem clearDeck_after (h : Changes S W d e) (hS : within [.regs, .boot] S = true) (hW : covers [.one 524416, .one 524424, .one 524448, .row 0x10100 64 0x4 0, .row 0x10100 64 0x4 8] W = true) :
    Changes S W d (clearDeck e) := by
  unfold clearDeck
  try dsimp only
  repeat' first
    | (with_reducible assumption)
    | (with_reducible refine ite_after ?_ ?_)
    | (with_reducible apply wr_after)
    | (with_reducible apply each_after)
    | (with_reducible apply lower_after)
    | (with_reducible apply Dev.modBoot_after)
    | (intro _; try dsimp only)
    | exact within_trans (by decide) hS
    | exact covers_trans (by decide +kernel) hW
    | exact rows_one hW (by decide +kernel)
    | exact rows_row hW (by decide +kernel) (by decide)
    | split

theorem enterBare_after (h : Changes S W d e) (hS : within [.regs, .boot, .hs] S = true) (hW : covers [.one 680, .one 691, .one 692, .one 736, .one 800, .one 262848, .one 524416, .one 524424, .one 524448, .one 1704188, .row 0x8100 4 0x40 0, .row 0x8104 4 0x40 15, .row 0x8104 4 0x40 16, .row 0x8104 4 0x40 28, .row 0x10100 64 0x4 0, .row 0x10100 64 0x4 8] W = true) (cause : Nat) :
    Changes S W d (enterBare cause e) := by
  unfold enterBare
  try dsimp only
  repeat' first
    | (with_reducible assumption)
    | (with_reducible refine ite_after ?_ ?_)
    | (with_reducible apply wr_after)
    | (with_reducible apply raise_after)
    | (with_reducible apply clearDeck_after)
    | (with_reducible apply Dev.modBoot_after)
    | (with_reducible apply powerPorts_after)
    | (intro _; try dsimp only)
    | exact within_trans (by decide) hS
    | exact covers_trans (by decide +kernel) hW
    | exact rows_one hW (by decide +kernel)
    | exact rows_row hW (by decide +kernel) (by decide)
    | split

theorem startFetch_after (h : Changes S W d e) (hS : within [.regs, .boot, .hs] S = true) (hW : covers [.one 672, .one 262848, .row 0x8100 4 0x40 0, .row 0x8104 4 0x40 15, .row 0x8104 4 0x40 16, .row 0x8104 4 0x40 28] W = true) (source : Nat) :
    Changes S W d (startFetch source e) := by
  unfold startFetch
  try dsimp only
  repeat' first
    | (with_reducible assumption)
    | (with_reducible refine ite_after ?_ ?_)
    | (with_reducible apply wr_after)
    | (with_reducible apply Dev.modBoot_after)
    | (with_reducible apply powerPorts_after)
    | (intro _; try dsimp only)
    | exact within_trans (by decide) hS
    | exact covers_trans (by decide +kernel) hW
    | exact rows_one hW (by decide +kernel)
    | exact rows_row hW (by decide +kernel) (by decide)
    | split

theorem nextFlash_after (h : Changes S W d e) (hS : within [.regs, .boot, .freeCtr, .hs] S = true) (hW : covers [.one 672, .one 680, .one 691, .one 692, .one 704, .one 712, .one 720, .one 728, .one 736, .one 800, .one 262848, .one 524416, .one 524424, .one 524448, .one 1704188, .row 0x5018 2 0x800 16, .row 0x8100 4 0x40 0, .row 0x8104 4 0x40 15, .row 0x8104 4 0x40 16, .row 0x8104 4 0x40 28, .row 0x10100 64 0x4 0, .row 0x10100 64 0x4 8] W = true) (x0 : List Nat) :
    Changes S W d (nextFlash x0 e) := by
  induction x0 generalizing e with
  | nil =>
    unfold nextFlash
    try dsimp only
    repeat' first
      | (with_reducible assumption)
      | (with_reducible refine ite_after ?_ ?_)
      | (with_reducible apply ih)
      | (with_reducible apply countTrial_after)
      | (with_reducible apply startFetch_after)
      | (with_reducible apply Dev.modBoot_after)
      | (with_reducible apply enterBare_after)
      | (with_reducible apply noteTried_after)
      | (with_reducible apply bootErr_after)
      | (intro _; try dsimp only)
      | exact within_trans (by decide) hS
      | exact covers_trans (by decide +kernel) hW
      | exact rows_one hW (by decide +kernel)
      | exact rows_row hW (by decide +kernel) (by decide)
      | split
      | (have q := congrArg Prod.snd ‹(_ : Dev → Dev) = _›; dsimp only at q; rw [← q]; clear q)
  | cons _ _ ih =>
    unfold nextFlash
    try dsimp only
    repeat' first
      | (with_reducible assumption)
      | (with_reducible refine ite_after ?_ ?_)
      | (with_reducible apply ih)
      | (with_reducible apply countTrial_after)
      | (with_reducible apply startFetch_after)
      | (with_reducible apply Dev.modBoot_after)
      | (with_reducible apply enterBare_after)
      | (with_reducible apply noteTried_after)
      | (with_reducible apply bootErr_after)
      | (intro _; try dsimp only)
      | exact within_trans (by decide) hS
      | exact covers_trans (by decide +kernel) hW
      | exact rows_one hW (by decide +kernel)
      | exact rows_row hW (by decide +kernel) (by decide)
      | split
      | (have q := congrArg Prod.snd ‹(_ : Dev → Dev) = _›; dsimp only at q; rw [← q]; clear q)

theorem takePort_after (h : Changes S W d e) (hS : within [.regs, .boot, .hs] S = true) (hW : covers [.one 672, .one 262848, .row 0x8100 4 0x40 0, .row 0x8104 4 0x40 15, .row 0x8104 4 0x40 16, .row 0x8104 4 0x40 28] W = true) (port : Nat) (round : Nat) :
    Changes S W d (takePort port round e) := by
  unfold takePort
  try dsimp only
  repeat' first
    | (with_reducible assumption)
    | (with_reducible refine ite_after ?_ ?_)
    | (with_reducible apply startFetch_after)
    | (with_reducible apply Dev.modBoot_after)
    | (intro _; try dsimp only)
    | exact within_trans (by decide) hS
    | exact covers_trans (by decide +kernel) hW
    | exact rows_one hW (by decide +kernel)
    | exact rows_row hW (by decide +kernel) (by decide)
    | split

theorem nextPort_after (h : Changes S W d e) (hS : within [.regs, .boot, .hs] S = true) (hW : covers [.one 672, .one 680, .one 691, .one 692, .one 704, .one 712, .one 720, .one 728, .one 736, .one 800, .one 262848, .one 524416, .one 524424, .one 524448, .one 1704188, .row 0x8100 4 0x40 0, .row 0x8104 4 0x40 15, .row 0x8104 4 0x40 16, .row 0x8104 4 0x40 28, .row 0x10100 64 0x4 0, .row 0x10100 64 0x4 8] W = true) :
    Changes S W d (nextPort e) := by
  unfold nextPort
  try dsimp only
  repeat' first
    | (with_reducible assumption)
    | (with_reducible refine ite_after ?_ ?_)
    | (with_reducible apply takePort_after)
    | (with_reducible apply enterBare_after)
    | (with_reducible apply bootErr_after)
    | (intro _; try dsimp only)
    | exact within_trans (by decide) hS
    | exact covers_trans (by decide +kernel) hW
    | exact rows_one hW (by decide +kernel)
    | exact rows_row hW (by decide +kernel) (by decide)
    | split

theorem startSource_after (h : Changes S W d e) (hS : within [.regs, .boot, .freeCtr, .hs] S = true) (hW : covers [.one 672, .one 680, .one 691, .one 692, .one 704, .one 712, .one 720, .one 728, .one 736, .one 800, .one 262848, .one 524416, .one 524424, .one 524448, .one 1704188, .row 0x5018 2 0x800 16, .row 0x8100 4 0x40 0, .row 0x8104 4 0x40 15, .row 0x8104 4 0x40 16, .row 0x8104 4 0x40 28, .row 0x10100 64 0x4 0, .row 0x10100 64 0x4 8] W = true) (skip : Nat) :
    Changes S W d (startSource skip e) := by
  unfold startSource
  try dsimp only
  repeat' first
    | (with_reducible assumption)
    | (with_reducible refine ite_after ?_ ?_)
    | (with_reducible apply takePort_after)
    | (with_reducible apply enterBare_after)
    | (with_reducible apply nextFlash_after)
    | (intro _; try dsimp only)
    | exact within_trans (by decide) hS
    | exact covers_trans (by decide +kernel) hW
    | exact rows_one hW (by decide +kernel)
    | exact rows_row hW (by decide +kernel) (by decide)
    | split

theorem nextCandidate_after (h : Changes S W d e) (hS : within [.regs, .boot, .freeCtr, .hs] S = true) (hW : covers [.one 672, .one 680, .one 691, .one 692, .one 704, .one 712, .one 720, .one 728, .one 736, .one 800, .one 262848, .one 524416, .one 524424, .one 524448, .one 1704188, .row 0x5018 2 0x800 16, .row 0x8100 4 0x40 0, .row 0x8104 4 0x40 15, .row 0x8104 4 0x40 16, .row 0x8104 4 0x40 28, .row 0x10100 64 0x4 0, .row 0x10100 64 0x4 8] W = true) :
    Changes S W d (nextCandidate e) := by
  unfold nextCandidate
  try dsimp only
  repeat' first
    | (with_reducible assumption)
    | (with_reducible refine ite_after ?_ ?_)
    | (with_reducible apply clearDeck_after)
    | (with_reducible apply Dev.modBoot_after)
    | (with_reducible apply enterBare_after)
    | (with_reducible apply nextFlash_after)
    | (with_reducible apply nextPort_after)
    | (with_reducible apply startSource_after)
    | (intro _; try dsimp only)
    | exact within_trans (by decide) hS
    | exact covers_trans (by decide +kernel) hW
    | exact rows_one hW (by decide +kernel)
    | exact rows_row hW (by decide +kernel) (by decide)
    | split

theorem checkImage_after (h : Changes S W d e) (hS : within [.regs, .boot, .freeCtr, .hs] S = true) (hW : covers [.one 672, .one 680, .one 688, .one 691, .one 692, .one 704, .one 712, .one 720, .one 728, .one 736, .one 800, .one 262848, .one 524416, .one 524424, .one 524448, .one 1704188, .row 0x5018 2 0x800 16, .row 0x8100 4 0x40 0, .row 0x8104 4 0x40 15, .row 0x8104 4 0x40 16, .row 0x8104 4 0x40 28, .row 0x10100 64 0x4 0, .row 0x10100 64 0x4 8] W = true) (img : List Byte) (slotSize : Option Nat) :
    Changes S W d (checkImage img slotSize e) := by
  unfold checkImage
  try dsimp only
  repeat' first
    | (with_reducible assumption)
    | (with_reducible refine ite_after ?_ ?_)
    | (with_reducible apply nextCandidate_after)
    | (with_reducible apply wr_after)
    | (with_reducible apply clearDeck_after)
    | (with_reducible apply Dev.modBoot_after)
    | (with_reducible apply noteKeyMode_after)
    | (with_reducible apply noteTried_after)
    | (with_reducible apply powerPorts_after)
    | (intro _; try dsimp only)
    | exact within_trans (by decide) hS
    | exact covers_trans (by decide +kernel) hW
    | exact rows_one hW (by decide +kernel)
    | exact rows_row hW (by decide +kernel) (by decide)
    | split
    | (with_reducible apply set_boot_after)
    | ((with_reducible show Changes _ _ _ (Dev.mk _ _ _ _ _ _ _ _ _ _ _ _ _ _ _ _ _ _ _ _ _ _ _ _ _ _ _ _ _ _)); refine mk_after ?_ (.inl rfl) (.inl rfl) (.inl rfl) (.inr (within_mem hS (by decide))) (.inl rfl) (.inl rfl) (.inl rfl) (.inl rfl) (.inl rfl) (.inl rfl) (.inl rfl) (.inl rfl) (.inl rfl) (.inl rfl) (.inl rfl) (.inl rfl) (.inl rfl) (.inl rfl) (.inl rfl) (.inl rfl) (.inl rfl) (.inl rfl) (.inl rfl) (.inl rfl) (.inl rfl) (.inl rfl) (.inl rfl) (.inl rfl) (.inl rfl) (fun can => can.mem) (fun can => can.shadow))

theorem programsReloaded_after (h : Changes S W d e) (hS : within [.regs, .mem, .boot, .chans, .ts, .lq, .out, .freeCtr, .cy, .shadow, .sv, .tc, .hs] S = true) (hW : covers [.one 672, .one 262848, .one 1573032, .one 1573054, .one 1573055, .one 1704158, .one 1704160, .one 1704188, .one 1704212, .one 1835223, .row 0x5014 2 0x800 6, .row 0x5014 2 0x800 24, .row 0x8100 4 0x40 0, .row 0x8104 4 0x40 15, .row 0x8104 4 0x40 16, .row 0x8104 4 0x40 28, .row 0x2100c 32 0x40 3, .row 0x2100c 32 0x40 4, .row 0x2100c 32 0x40 5, .row 0x21024 32 0x40 0] W = true) (m : Manifest) :
    Changes S W d (programsReloaded m e) := by
  unfold programsReloaded
  try dsimp only
  repeat' first
    | (with_reducible assumption)
    | (with_reducible refine ite_after ?_ ?_)
    | (with_reducible apply enterRuntime_after)
    | (with_reducible apply Dev.modBoot_after)
    | (with_reducible apply loadPrograms_after)
    | (with_reducible apply powerPorts_after)
    | (intro _; try dsimp only)
    | exact within_trans (by decide) hS
    | exact covers_trans (by decide +kernel) hW
    | exact rows_one hW (by decide +kernel)
    | exact rows_row hW (by decide +kernel) (by decide)
    | split

theorem reloadImage_after (h : Changes S W d e) (hS : within [.regs, .mem, .boot, .chans, .ts, .lq, .out, .freeCtr, .cy, .shadow, .sv, .tc, .hs] S = true) (hW : covers [.one 672, .one 262848, .one 1573032, .one 1573054, .one 1573055, .one 1704158, .one 1704160, .one 1704188, .one 1704212, .one 1835223, .row 0x5014 2 0x800 6, .row 0x5014 2 0x800 24, .row 0x8100 4 0x40 0, .row 0x8104 4 0x40 15, .row 0x8104 4 0x40 16, .row 0x8104 4 0x40 28, .row 0x2100c 32 0x40 3, .row 0x2100c 32 0x40 4, .row 0x2100c 32 0x40 5, .row 0x21024 32 0x40 0] W = true) (img : List Byte) (slotSize : Option Nat) :
    Changes S W d (reloadImage img slotSize e) := by
  unfold reloadImage
  try dsimp only
  repeat' first
    | (with_reducible assumption)
    | (with_reducible refine ite_after ?_ ?_)
    | (with_reducible apply programsReloaded_after)
    | (intro _; try dsimp only)
    | exact within_trans (by decide) hS
    | exact covers_trans (by decide +kernel) hW
    | exact rows_one hW (by decide +kernel)
    | exact rows_row hW (by decide +kernel) (by decide)
    | split

theorem useImage_after (h : Changes S W d e) (hS : within [.regs, .mem, .boot, .chans, .ts, .lq, .out, .freeCtr, .cy, .shadow, .sv, .tc, .hs] S = true) (hW : covers [.one 672, .one 680, .one 688, .one 691, .one 692, .one 704, .one 712, .one 720, .one 728, .one 736, .one 800, .one 262848, .one 524416, .one 524424, .one 524448, .one 1573032, .one 1573054, .one 1573055, .one 1704158, .one 1704160, .one 1704188, .one 1704212, .one 1835223, .row 0x5014 2 0x800 6, .row 0x5014 2 0x800 24, .row 0x5018 2 0x800 16, .row 0x8100 4 0x40 0, .row 0x8104 4 0x40 15, .row 0x8104 4 0x40 16, .row 0x8104 4 0x40 28, .row 0x10100 64 0x4 0, .row 0x10100 64 0x4 8, .row 0x2100c 32 0x40 3, .row 0x2100c 32 0x40 4, .row 0x2100c 32 0x40 5, .row 0x21024 32 0x40 0] W = true) (img : List Byte) (slotSize : Option Nat) :
    Changes S W d (useImage img slotSize e) := by
  unfold useImage
  try dsimp only
  repeat' first
    | (with_reducible assumption)
    | (with_reducible refine ite_after ?_ ?_)
    | (with_reducible apply reloadImage_after)
    | (with_reducible apply checkImage_after)
    | (intro _; try dsimp only)
    | exact within_trans (by decide) hS
    | exact covers_trans (by decide +kernel) hW
    | exact rows_one hW (by decide +kernel)
    | exact rows_row hW (by decide +kernel) (by decide)
    | split

theorem imageFetchDone_after (h : Changes S W d e) (hS : within [.regs, .mem, .boot, .chans, .ts, .lq, .out, .freeCtr, .cy, .shadow, .sv, .tc, .hs] S = true) (hW : covers [.one 672, .one 680, .one 688, .one 691, .one 692, .one 704, .one 712, .one 720, .one 728, .one 736, .one 800, .one 262848, .one 524416, .one 524424, .one 524448, .one 1573032, .one 1573054, .one 1573055, .one 1704158, .one 1704160, .one 1704188, .one 1704212, .one 1835223, .row 0x5014 2 0x800 6, .row 0x5014 2 0x800 24, .row 0x5018 2 0x800 16, .row 0x8100 4 0x40 0, .row 0x8104 4 0x40 15, .row 0x8104 4 0x40 16, .row 0x8104 4 0x40 28, .row 0x10100 64 0x4 0, .row 0x10100 64 0x4 8, .row 0x2100c 32 0x40 3, .row 0x2100c 32 0x40 4, .row 0x2100c 32 0x40 5, .row 0x21024 32 0x40 0] W = true) (img : Option (List Byte)) :
    Changes S W d (imageFetchDone img e) := by
  unfold imageFetchDone
  try dsimp only
  repeat' first
    | (with_reducible assumption)
    | (with_reducible refine ite_after ?_ ?_)
    | (with_reducible apply nextCandidate_after)
    | (with_reducible apply flashRead_after)
    | (with_reducible apply noteTried_after)
    | (with_reducible apply useImage_after)
    | (intro _; try dsimp only)
    | exact within_trans (by decide) hS
    | exact covers_trans (by decide +kernel) hW
    | exact rows_one hW (by decide +kernel)
    | exact rows_row hW (by decide +kernel) (by decide)
    | split
    | (with_reducible apply set_mem_after)
    | (with_reducible apply set_boot_after)
    | (with_reducible exact Dev.Canonical.mem ‹_›)
    | (with_reducible apply Memory.wf_write)
    | (with_reducible apply Memory.wf_set)
    | (with_reducible apply Memory.wf_forget)
    | (with_reducible apply Memory.wf_foldl)
    | (with_reducible apply applyEntries_wf)
    | (rename_i can; exact can.mem)
    | ((with_reducible show Changes _ _ _ (Dev.mk _ _ _ _ _ _ _ _ _ _ _ _ _ _ _ _ _ _ _ _ _ _ _ _ _ _ _ _ _ _)); refine mk_after ?_ (.inr (within_mem hS (by decide))) (.inl rfl) (.inl rfl) (.inr (within_mem hS (by decide))) (.inl rfl) (.inl rfl) (.inl rfl) (.inl rfl) (.inl rfl) (.inl rfl) (.inl rfl) (.inl rfl) (.inl rfl) (.inl rfl) (.inl rfl) (.inl rfl) (.inl rfl) (.inl rfl) (.inl rfl) (.inl rfl) (.inl rfl) (.inl rfl) (.inl rfl) (.inl rfl) (.inl rfl) (.inl rfl) (.inl rfl) (.inl rfl) (.inl rfl) (fun can => by repeat' first | (with_reducible exact can.mem) | (with_reducible assumption) | (with_reducible apply Memory.wf_foldl) | intro _ | (with_reducible apply Memory.wf_write) | (with_reducible apply Memory.wf_set) | (with_reducible apply applyEntries_wf) | (with_reducible apply Memory.wf_forget) | (with_reducible apply Memory.wf_filter) | exact can.mem) (fun can => can.shadow))

theorem bootDeckParity_after (h : Changes S W d e) (hS : within [.regs, .boot, .freeCtr, .hs] S = true) (hW : covers [.one 672, .one 680, .one 691, .one 692, .one 704, .one 712, .one 720, .one 728, .one 736, .one 800, .one 262848, .one 524416, .one 524424, .one 524448, .one 1704188, .row 0x5018 2 0x800 16, .row 0x8100 4 0x40 0, .row 0x8104 4 0x40 15, .row 0x8104 4 0x40 16, .row 0x8104 4 0x40 28, .row 0x10100 64 0x4 0, .row 0x10100 64 0x4 8] W = true) :
    Changes S W d (bootDeckParity e) := by
  unfold bootDeckParity
  try dsimp only
  repeat' first
    | (with_reducible assumption)
    | (with_reducible refine ite_after ?_ ?_)
    | (with_reducible apply nextCandidate_after)
    | (with_reducible apply clearDeck_after)
    | (with_reducible apply noteTried_after)
    | (intro _; try dsimp only)
    | exact within_trans (by decide) hS
    | exact covers_trans (by decide +kernel) hW
    | exact rows_one hW (by decide +kernel)
    | exact rows_row hW (by decide +kernel) (by decide)
    | split

theorem portLeft_after (h : Changes S W d e) (hS : within [.regs, .boot, .freeCtr, .hs] S = true) (hW : covers [.one 672, .one 680, .one 691, .one 692, .one 704, .one 712, .one 720, .one 728, .one 736, .one 800, .one 262848, .one 524416, .one 524424, .one 524448, .one 1704188, .row 0x5018 2 0x800 16, .row 0x8100 4 0x40 0, .row 0x8104 4 0x40 15, .row 0x8104 4 0x40 16, .row 0x8104 4 0x40 28, .row 0x10100 64 0x4 0, .row 0x10100 64 0x4 8] W = true) :
    Changes S W d (portLeft e) := by
  unfold portLeft
  try dsimp only
  repeat' first
    | (with_reducible assumption)
    | (with_reducible refine ite_after ?_ ?_)
    | (with_reducible apply clearDeck_after)
    | (with_reducible apply Dev.modBoot_after)
    | (with_reducible apply nextPort_after)
    | (with_reducible apply startSource_after)
    | (intro _; try dsimp only)
    | exact within_trans (by decide) hS
    | exact covers_trans (by decide +kernel) hW
    | exact rows_one hW (by decide +kernel)
    | exact rows_row hW (by decide +kernel) (by decide)
    | split

theorem portTimeout_after (h : Changes S W d e) (hS : within [.regs, .time, .boot, .freeCtr, .clk, .hs] S = true) (hW : covers [.one 672, .one 680, .one 691, .one 692, .one 704, .one 712, .one 720, .one 728, .one 736, .one 800, .one 98752, .one 262848, .one 524416, .one 524424, .one 524448, .one 1704188, .row 0x5018 2 0x800 16, .row 0x8100 4 0x40 0, .row 0x8104 4 0x40 15, .row 0x8104 4 0x40 16, .row 0x8104 4 0x40 28, .row 0x10100 64 0x4 0, .row 0x10100 64 0x4 8] W = true) :
    Changes S W d (portTimeout e) := by
  unfold portTimeout
  try dsimp only
  repeat' first
    | (with_reducible assumption)
    | (with_reducible refine ite_after ?_ ?_)
    | (with_reducible apply portLeft_after)
    | (with_reducible apply Dev.reach_after)
    | (intro _; try dsimp only)
    | exact within_trans (by decide) hS
    | exact covers_trans (by decide +kernel) hW
    | exact rows_one hW (by decide +kernel)
    | exact rows_row hW (by decide +kernel) (by decide)
    | split

theorem stageBytes_after (h : Changes S W d e) (hS : within [.mem, .dramWait] S = true) (hW : covers [] W = true) (x0 : Nat) (bs : List Byte) :
    Changes S W d (stageBytes x0 bs e) := by
  unfold stageBytes
  try dsimp only
  repeat' first
    | (with_reducible assumption)
    | (with_reducible refine ite_after ?_ ?_)
    | (intro _; try dsimp only)
    | exact within_trans (by decide) hS
    | split
    | (with_reducible apply set_mem_after)
    | (with_reducible apply set_dramWait_after)
    | (with_reducible exact Dev.Canonical.mem ‹_›)
    | (with_reducible apply Memory.wf_write)
    | (with_reducible apply Memory.wf_set)
    | (with_reducible apply Memory.wf_forget)
    | (with_reducible apply Memory.wf_foldl)
    | (with_reducible apply applyEntries_wf)
    | (rename_i can; exact can.mem)
    | ((with_reducible show Changes _ _ _ (Dev.mk _ _ _ _ _ _ _ _ _ _ _ _ _ _ _ _ _ _ _ _ _ _ _ _ _ _ _ _ _ _)); refine mk_after ?_ (.inr (within_mem hS (by decide))) (.inl rfl) (.inl rfl) (.inl rfl) (.inl rfl) (.inl rfl) (.inl rfl) (.inl rfl) (.inl rfl) (.inl rfl) (.inl rfl) (.inl rfl) (.inl rfl) (.inl rfl) (.inl rfl) (.inl rfl) (.inl rfl) (.inl rfl) (.inl rfl) (.inl rfl) (.inl rfl) (.inr (within_mem hS (by decide))) (.inl rfl) (.inl rfl) (.inl rfl) (.inl rfl) (.inl rfl) (.inl rfl) (.inl rfl) (fun can => by repeat' first | (with_reducible exact can.mem) | (with_reducible assumption) | (with_reducible apply Memory.wf_foldl) | intro _ | (with_reducible apply Memory.wf_write) | (with_reducible apply Memory.wf_set) | (with_reducible apply applyEntries_wf) | (with_reducible apply Memory.wf_forget) | (with_reducible apply Memory.wf_filter) | exact can.mem) (fun can => can.shadow))

theorem bootData_after (h : Changes S W d e) (hS : within [.mem, .boot, .dramWait] S = true) (hW : covers [] W = true) (p : Nat) (off : Nat) (bs : List Byte) :
    Changes S W d (bootData p off bs e) := by
  unfold bootData
  try dsimp only
  repeat' first
    | (with_reducible assumption)
    | (with_reducible refine ite_after ?_ ?_)
    | (with_reducible apply stageBytes_after)
    | (with_reducible apply Dev.modBoot_after)
    | (intro _; try dsimp only)
    | exact within_trans (by decide) hS
    | split

theorem bootEnd_after (h : Changes S W d e) (hS : within [.regs, .mem, .boot, .chans, .ts, .lq, .out, .freeCtr, .cy, .shadow, .sv, .tc, .hs] S = true) (hW : covers [.one 672, .one 680, .one 688, .one 691, .one 692, .one 704, .one 712, .one 720, .one 728, .one 736, .one 800, .one 262848, .one 524416, .one 524424, .one 524448, .one 1573032, .one 1573054, .one 1573055, .one 1704158, .one 1704160, .one 1704188, .one 1704212, .one 1835223, .row 0x5014 2 0x800 6, .row 0x5014 2 0x800 24, .row 0x5018 2 0x800 16, .row 0x8100 4 0x40 0, .row 0x8104 4 0x40 15, .row 0x8104 4 0x40 16, .row 0x8104 4 0x40 28, .row 0x10100 64 0x4 0, .row 0x10100 64 0x4 8, .row 0x2100c 32 0x40 3, .row 0x2100c 32 0x40 4, .row 0x2100c 32 0x40 5, .row 0x21024 32 0x40 0] W = true) (p : Nat) (total : Nat) :
    Changes S W d (bootEnd p total e) := by
  unfold bootEnd
  try dsimp only
  repeat' first
    | (with_reducible assumption)
    | (with_reducible refine ite_after ?_ ?_)
    | (with_reducible apply Dev.modBoot_after)
    | (with_reducible apply useImage_after)
    | (intro _; try dsimp only)
    | exact within_trans (by decide) hS
    | exact covers_trans (by decide +kernel) hW
    | exact rows_one hW (by decide +kernel)
    | exact rows_row hW (by decide +kernel) (by decide)
    | split

theorem bootResume_after (h : Changes S W d e) (hS : within [.regs, .mem, .boot, .chans, .ts, .lq, .out, .freeCtr, .cy, .shadow, .sv, .tc, .hs] S = true) (hW : covers [.one 672, .one 680, .one 688, .one 691, .one 692, .one 704, .one 712, .one 720, .one 728, .one 736, .one 800, .one 262848, .one 524416, .one 524424, .one 524448, .one 1573032, .one 1573054, .one 1573055, .one 1704158, .one 1704160, .one 1704188, .one 1704212, .one 1835223, .row 0x5014 2 0x800 6, .row 0x5014 2 0x800 24, .row 0x5018 2 0x800 16, .row 0x8100 4 0x40 0, .row 0x8104 4 0x40 15, .row 0x8104 4 0x40 16, .row 0x8104 4 0x40 28, .row 0x10100 64 0x4 0, .row 0x10100 64 0x4 8, .row 0x2100c 32 0x40 3, .row 0x2100c 32 0x40 4, .row 0x2100c 32 0x40 5, .row 0x21024 32 0x40 0] W = true) :
    Changes S W d (bootResume e) := by
  unfold bootResume
  try dsimp only
  repeat' first
    | (with_reducible assumption)
    | (with_reducible refine ite_after ?_ ?_)
    | (with_reducible apply Dev.modBoot_after)
    | (with_reducible apply bootEnd_after)
    | (intro _; try dsimp only)
    | exact within_trans (by decide) hS
    | exact covers_trans (by decide +kernel) hW
    | exact rows_one hW (by decide +kernel)
    | exact rows_row hW (by decide +kernel) (by decide)
    | split

theorem bootDeny_after (h : Changes S W d e) (hS : within [.regs, .boot, .freeCtr, .hs] S = true) (hW : covers [.one 672, .one 680, .one 691, .one 692, .one 704, .one 712, .one 720, .one 728, .one 736, .one 800, .one 262848, .one 524416, .one 524424, .one 524448, .one 1704188, .row 0x5018 2 0x800 16, .row 0x8100 4 0x40 0, .row 0x8104 4 0x40 15, .row 0x8104 4 0x40 16, .row 0x8104 4 0x40 28, .row 0x10100 64 0x4 0, .row 0x10100 64 0x4 8] W = true) (p : Nat) :
    Changes S W d (bootDeny p e) := by
  unfold bootDeny
  try dsimp only
  repeat' first
    | (with_reducible assumption)
    | (with_reducible refine ite_after ?_ ?_)
    | (with_reducible apply portLeft_after)
    | (intro _; try dsimp only)
    | exact within_trans (by decide) hS
    | exact covers_trans (by decide +kernel) hW
    | exact rows_one hW (by decide +kernel)
    | exact rows_row hW (by decide +kernel) (by decide)
    | split

theorem placeTiles_after (h : Changes S W d e) (hS : within [.regs] S = true) (hW : covers [.one 524424, .one 524448, .row 0x10100 64 0x4 0, .row 0x10100 64 0x4 8] W = true) (m : Manifest) :
    Changes S W d (placeTiles m e) := by
  unfold placeTiles
  try dsimp only
  repeat' first
    | (with_reducible assumption)
    | (with_reducible refine ite_after ?_ ?_)
    | (with_reducible apply wr_after)
    | (with_reducible apply each_after)
    | (intro _; try dsimp only)
    | exact within_trans (by decide) hS
    | exact covers_trans (by decide +kernel) hW
    | exact rows_one hW (by decide +kernel)
    | exact rows_row hW (by decide +kernel) (by decide)
    | split

theorem placeQueues_after (h : Changes S W d e) (hS : within [.regs] S = true) (hW : covers [.row 0x21010 32 0x40 31, .row 0x21014 32 0x40 0, .row 0x21014 32 0x40 19] W = true) (x0 : Nat) (x1 : Nat) (x2 : List (Nat × Nat)) :
    Changes S W d (placeQueues x0 x1 x2 e) := by
  induction x2 generalizing x0 x1 e with
  | nil =>
    unfold placeQueues
    try dsimp only
    repeat' first
      | (with_reducible assumption)
      | (with_reducible refine ite_after ?_ ?_)
      | (with_reducible apply ih)
      | (with_reducible apply wr_after)
      | (intro _; try dsimp only)
      | exact within_trans (by decide) hS
      | exact covers_trans (by decide) hW
      | exact rows_row hW (by decide) (by decide)
      | split
  | cons _ _ ih =>
    unfold placeQueues
    try dsimp only
    repeat' first
      | (with_reducible assumption)
      | (with_reducible refine ite_after ?_ ?_)
      | (with_reducible apply ih)
      | (with_reducible apply wr_after)
      | (intro _; try dsimp only)
      | exact within_trans (by decide) hS
      | exact covers_trans (by decide) hW
      | exact rows_row hW (by decide) (by decide)
      | split

theorem profileXip_after (h : Changes S W d e) (hS : within [.regs] S = true) (hW : covers [.grid 0x5040 2 0x800 4 0x8 0, .grid 0x5040 2 0x800 4 0x8 23, .grid 0x5040 2 0x800 4 0x8 24, .one 184328, .one 184336, .one 184345, .one 184346, .one 184348, .one 184349, .one 184351] W = true) :
    Changes S W d (profileXip e) := by
  unfold profileXip
  try dsimp only
  repeat' first
    | (with_reducible assumption)
    | (with_reducible refine ite_after ?_ ?_)
    | (with_reducible apply wr_after)
    | (with_reducible apply raise_after)
    | (with_reducible apply lower_after)
    | (intro _; try dsimp only)
    | exact within_trans (by decide) hS
    | exact covers_trans (by decide +kernel) hW
    | exact rows_one hW (by decide +kernel)
    | exact rows_grid hW (by decide +kernel) (by decide) (by decide)
    | split

theorem oweSelects_after (h : Changes S W d e) (hS : within [.ts] S = true) (hW : covers [] W = true) :
    Changes S W d (oweSelects e) := by
  unfold oweSelects
  try dsimp only
  repeat' first
    | (with_reducible assumption)
    | (with_reducible refine ite_after ?_ ?_)
    | (intro _; try dsimp only)
    | exact within_trans (by decide) hS
    | split
    | (with_reducible apply set_ts_after)
    | ((with_reducible show Changes _ _ _ (Dev.mk _ _ _ _ _ _ _ _ _ _ _ _ _ _ _ _ _ _ _ _ _ _ _ _ _ _ _ _ _ _)); refine mk_after ?_ (.inl rfl) (.inl rfl) (.inl rfl) (.inl rfl) (.inl rfl) (.inr (within_mem hS (by decide))) (.inl rfl) (.inl rfl) (.inl rfl) (.inl rfl) (.inl rfl) (.inl rfl) (.inl rfl) (.inl rfl) (.inl rfl) (.inl rfl) (.inl rfl) (.inl rfl) (.inl rfl) (.inl rfl) (.inl rfl) (.inl rfl) (.inl rfl) (.inl rfl) (.inl rfl) (.inl rfl) (.inl rfl) (.inl rfl) (.inl rfl) (fun can => can.mem) (fun can => can.shadow))

theorem noteExhausted_after (h : Changes S W d e) (hS : within [.regs, .boot] S = true) (hW : covers [.one 704, .one 712, .one 720, .one 728] W = true) :
    Changes S W d (noteExhausted e) := by
  unfold noteExhausted
  try dsimp only
  repeat' first
    | (with_reducible assumption)
    | (with_reducible refine ite_after ?_ ?_)
    | (with_reducible apply each_after)
    | (with_reducible apply Dev.modBoot_after)
    | (with_reducible apply noteTried_after)
    | (intro _; try dsimp only)
    | exact within_trans (by decide) hS
    | exact covers_trans (by decide +kernel) hW
    | exact rows_one hW (by decide +kernel)
    | split

theorem configApplyDone_after (h : Changes S W d e) (hS : within [.regs, .mem, .boot, .ts, .lq, .out, .sv, .tc, .hs] S = true) (hW : covers [.grid 0x5040 2 0x800 4 0x8 0, .grid 0x5040 2 0x800 4 0x8 23, .grid 0x5040 2 0x800 4 0x8 24, .one 672, .one 680, .one 690, .one 704, .one 712, .one 720, .one 728, .one 736, .one 800, .one 131425, .one 131840, .one 131904, .one 184328, .one 184336, .one 184345, .one 184346, .one 184348, .one 184349, .one 184351, .one 262304, .one 262336, .one 262340, .one 262344, .one 262352, .one 262368, .one 262369, .one 262370, .one 262372, .one 262375, .one 262380, .one 262392, .one 262393, .one 262396, .one 262398, .one 262400, .one 262476, .one 262488, .one 262496, .one 262508, .one 262524, .one 262527, .one 262848, .one 262856, .one 524416, .one 524424, .one 524448, .one 1704188, .row 0x5014 2 0x800 6, .row 0x5014 2 0x800 24, .row 0x8100 4 0x40 0, .row 0x8104 4 0x40 14, .row 0x8104 4 0x40 15, .row 0x8104 4 0x40 16, .row 0x8104 4 0x40 28, .row 0x10100 64 0x4 0, .row 0x10100 64 0x4 8, .row 0x2100c 32 0x40 3, .row 0x2100c 32 0x40 4, .row 0x2100c 32 0x40 5, .row 0x21010 32 0x40 31, .row 0x21014 32 0x40 0, .row 0x21014 32 0x40 19, .row 0x21024 32 0x40 0] W = true) :
    Changes S W d (configApplyDone e) := by
  unfold configApplyDone
  try dsimp only
  repeat' first
    | (with_reducible assumption)
    | (with_reducible refine ite_after ?_ ?_)
    | (with_reducible apply profileXip_after)
    | (with_reducible apply noteExhausted_after)
    | (with_reducible apply wr_after)
    | (with_reducible apply raise_after)
    | (with_reducible apply flag_after)
    | (with_reducible apply Dev.modBoot_after)
    | (with_reducible apply loadPrograms_after)
    | (with_reducible apply placeTiles_after)
    | (with_reducible apply oweSelects_after)
    | (with_reducible apply placeQueues_after)
    | (with_reducible apply noteTried_after)
    | (with_reducible apply enterCascade_after)
    | (with_reducible apply powerPorts_after)
    | (intro _; try dsimp only)
    | exact within_trans (by decide) hS
    | exact covers_trans (by decide +kernel) hW
    | exact rows_one hW (by decide +kernel)
    | exact rows_row hW (by decide +kernel) (by decide)
    | exact rows_grid hW (by decide +kernel) (by decide) (by decide)
    | split

theorem recoverRecord_after (h : Changes S W d e) (hS : within [.mem] S = true) (hW : covers [] W = true) (seq : Nat) (next : Nat) (es : List (Nat × List Byte)) :
    Changes S W d (recoverRecord seq next es e) := by
  unfold recoverRecord
  try dsimp only
  repeat' first
    | (with_reducible assumption)
    | (with_reducible refine ite_after ?_ ?_)
    | (with_reducible apply each_after)
    | (with_reducible apply mramWrite_after)
    | (intro _; try dsimp only)
    | exact within_trans (by decide) hS
    | split

theorem scanJournal_after (h : Changes S W d e) (hS : within [.mem] S = true) (hW : covers [] W = true) (x0 : Nat) (x1 : Nat) (x2 : Nat) (x3 : Option Nat) (x4 : Nat) :
    Changes S W d (scanJournal x0 x1 x2 x3 x4 e).2.2.2.2 := by
  induction x0 generalizing x1 x2 x3 x4 e with
  | zero =>
    unfold scanJournal
    try dsimp only
    repeat' first
      | (with_reducible assumption)
      | (with_reducible refine ite_after ?_ ?_)
      | (with_reducible apply ih)
      | (with_reducible apply mramWrite_after)
      | (with_reducible apply recoverRecord_after)
      | (intro _; try dsimp only)
      | exact within_trans (by decide) hS
      | split
  | succ _ ih =>
    unfold scanJournal
    try dsimp only
    repeat' first
      | (with_reducible assumption)
      | (with_reducible refine ite_after ?_ ?_)
      | (with_reducible apply ih)
      | (with_reducible apply mramWrite_after)
      | (with_reducible apply recoverRecord_after)
      | (intro _; try dsimp only)
      | exact within_trans (by decide) hS
      | split

theorem recoverJournal_after (h : Changes S W d e) (hS : within [.regs, .mem, .sv] S = true) (hW : covers [.one 65824, .one 65856, .one 1704192, .one 1704221, .one 1704222, .one 1704223, .one 1704224] W = true) (ecc : Option Nat) :
    Changes S W d (recoverJournal ecc e) := by
  unfold recoverJournal
  try dsimp only
  repeat' first
    | (with_reducible assumption)
    | (with_reducible refine ite_after ?_ ?_)
    | (with_reducible apply wr_after)
    | (with_reducible apply raise_after)
    | (with_reducible apply Dev.modSv_after)
    | (with_reducible apply raiseIf_after)
    | (with_reducible apply each_after)
    | (with_reducible apply mramWrite_after)
    | (with_reducible apply commitRecord_after)
    | (with_reducible apply scanJournal_after)
    | (with_reducible apply recoverRecord_after)
    | (intro _; try dsimp only)
    | exact within_trans (by decide) hS
    | exact covers_trans (by decide +kernel) hW
    | exact rows_one hW (by decide +kernel)
    | split

theorem raiseRf_after (h : Changes S W d e) (hS : within [.regs, .power] S = true) (hW : covers [.one 33000] W = true) :
    Changes S W d (raiseRf e) := by
  unfold raiseRf
  try dsimp only
  repeat' first
    | (with_reducible assumption)
    | (with_reducible refine ite_after ?_ ?_)
    | (with_reducible apply Dev.penUp_after)
    | (with_reducible apply Dev.modPower_after)
    | (intro _; try dsimp only)
    | exact within_trans (by decide) hS
    | exact covers_trans (by decide) hW
    | exact rows_one hW (by decide)
    | split

theorem recoveryDone_after (h : Changes S W d e) (hS : within [.regs, .mem, .power, .boot, .chans, .ts, .lq, .out, .freeCtr, .cy, .shadow, .sv, .tc, .hs] S = true) (hW : covers [.one 672, .one 33000, .one 65824, .one 65856, .one 1573032, .one 1573054, .one 1573055, .one 1704158, .one 1704160, .one 1704188, .one 1704192, .one 1704212, .one 1704221, .one 1704222, .one 1704223, .one 1704224, .one 1835223, .row 0x5014 2 0x800 6, .row 0x5014 2 0x800 24, .row 0x2100c 32 0x40 3, .row 0x2100c 32 0x40 4, .row 0x2100c 32 0x40 5, .row 0x21024 32 0x40 0] W = true) (ecc : Option Nat) :
    Changes S W d (recoveryDone ecc e) := by
  unfold recoveryDone
  try dsimp only
  repeat' first
    | (with_reducible assumption)
    | (with_reducible refine ite_after ?_ ?_)
    | (with_reducible apply wr_after)
    | (with_reducible apply enterRuntime_after)
    | (with_reducible apply Dev.modBoot_after)
    | (with_reducible apply settleServices_after)
    | (with_reducible apply raiseRf_after)
    | (with_reducible apply recoverJournal_after)
    | (intro _; try dsimp only)
    | exact within_trans (by decide) hS
    | exact covers_trans (by decide +kernel) hW
    | exact rows_one hW (by decide +kernel)
    | exact rows_row hW (by decide +kernel) (by decide)
    | split

theorem rebuildCrash_after (h : Changes S W d e) (hS : within [.regs] S = true) (hW : covers [.one 98576, .one 98584, .one 98591, .one 98592] W = true) :
    Changes S W d (rebuildCrash e) := by
  unfold rebuildCrash
  try dsimp only
  repeat' first
    | (with_reducible assumption)
    | (with_reducible refine ite_after ?_ ?_)
    | (with_reducible apply wr_after)
    | (with_reducible apply raise_after)
    | (with_reducible apply lower_after)
    | (with_reducible apply foldl_after)
    | (intro _; try dsimp only)
    | exact within_trans (by decide) hS
    | exact covers_trans (by decide +kernel) hW
    | exact rows_one hW (by decide +kernel)
    | split

theorem bootFrom_after (h : Changes S W d e) (hS : within [.regs, .boot, .freeCtr, .hs] S = true) (hW : covers [.one 672, .one 680, .one 691, .one 692, .one 704, .one 712, .one 720, .one 728, .one 736, .one 800, .one 262848, .one 524416, .one 524424, .one 524448, .one 1704188, .row 0x5018 2 0x800 16, .row 0x8100 4 0x40 0, .row 0x8104 4 0x40 15, .row 0x8104 4 0x40 16, .row 0x8104 4 0x40 28, .row 0x10100 64 0x4 0, .row 0x10100 64 0x4 8] W = true) (last : Nat) :
    Changes S W d (bootFrom last e) := by
  unfold bootFrom
  try dsimp only
  repeat' first
    | (with_reducible assumption)
    | (with_reducible refine ite_after ?_ ?_)
    | (with_reducible apply nextCandidate_after)
    | (with_reducible apply countTrial_after)
    | (with_reducible apply startFetch_after)
    | (with_reducible apply clearDeck_after)
    | (with_reducible apply takePort_after)
    | (with_reducible apply Dev.modBoot_after)
    | (with_reducible apply noteTried_after)
    | (with_reducible apply startSource_after)
    | (intro _; try dsimp only)
    | exact within_trans (by decide) hS
    | exact covers_trans (by decide +kernel) hW
    | exact rows_one hW (by decide +kernel)
    | exact rows_row hW (by decide +kernel) (by decide)
    | split

theorem coreRelease_after (h : Changes S W d e) (hS : within [.regs, .power, .boot, .chans, .lq, .out, .freeCtr, .cy, .fuses, .epoch, .sv, .tc, .hs] S = true) (hW : covers [.one 640, .one 644, .one 672, .one 680, .one 691, .one 692, .one 704, .one 712, .one 720, .one 728, .one 736, .one 800, .one 32896, .one 32904, .one 32912, .one 32985, .one 65666, .one 65675, .one 65680, .one 66052, .one 66054, .one 66056, .one 66064, .one 66072, .one 66080, .one 66112, .one 98432, .one 98440, .one 98448, .one 98462, .one 98463, .one 98471, .one 98496, .one 98576, .one 98584, .one 98591, .one 98592, .one 98820, .one 131426, .one 131453, .one 131454, .one 131712, .one 131776, .one 131912, .one 262848, .one 524416, .one 524424, .one 524448, .one 1573032, .one 1573055, .one 1573218, .one 1573219, .one 1573278, .one 1704188, .row 0x2100 24 0x4 7, .row 0x2100 24 0x4 16, .row 0x2100 24 0x4 21, .row 0x2100 24 0x4 26, .row 0x5014 2 0x800 6, .row 0x5014 2 0x800 24, .row 0x5018 2 0x800 16, .row 0x8100 4 0x40 0, .row 0x8104 4 0x40 15, .row 0x8104 4 0x40 16, .row 0x8104 4 0x40 28, .row 0x10100 64 0x4 0, .row 0x10100 64 0x4 8, .row 0x2100c 32 0x40 3, .row 0x2100c 32 0x40 4, .row 0x2100c 32 0x40 5, .row 0x21024 32 0x40 0] W = true) (env : BootEnv) :
    Changes S W d (coreRelease env e) := by
  unfold coreRelease
  try dsimp only
  repeat' first
    | (with_reducible assumption)
    | (with_reducible refine ite_after ?_ ?_)
    | (with_reducible apply wr_after)
    | (with_reducible apply tamperDue_after)
    | (with_reducible apply raise_after)
    | (with_reducible apply countSat_after)
    | (with_reducible apply raiseIf_after)
    | (with_reducible apply bootFrom_after)
    | (with_reducible apply lower_after)
    | (with_reducible apply flag_after)
    | (with_reducible apply Dev.modBoot_after)
    | (with_reducible apply Dev.modPower_after)
    | (with_reducible apply recoveryFrames_after)
    | (with_reducible apply loadTrims_after)
    | (with_reducible apply rebuildCrash_after)
    | (with_reducible apply flashRead_after)
    | (with_reducible apply enterHoldover_after)
    | (with_reducible apply readSlots_after)
    | (intro _; try dsimp only)
    | exact within_trans (by decide) hS
    | exact covers_trans (by decide +kernel) hW
    | exact rows_one hW (by decide +kernel)
    | exact rows_row hW (by decide +kernel) (by decide)
    | split

theorem resetRelease_after (h : Changes S W d e) (hS : within [.regs, .time, .power, .boot, .chans, .lq, .out, .freeCtr, .clk, .cy, .fuses, .epoch, .sv, .tc, .hs] S = true) (hW : covers [.one 640, .one 644, .one 672, .one 680, .one 691, .one 692, .one 704, .one 712, .one 720, .one 728, .one 736, .one 800, .one 32896, .one 32904, .one 32912, .one 32985, .one 65666, .one 65675, .one 65680, .one 66052, .one 66054, .one 66056, .one 66064, .one 66072, .one 66080, .one 66112, .one 98432, .one 98440, .one 98448, .one 98462, .one 98463, .one 98471, .one 98496, .one 98576, .one 98584, .one 98591, .one 98592, .one 98752, .one 98820, .one 131426, .one 131453, .one 131454, .one 131712, .one 131776, .one 131912, .one 262848, .one 524416, .one 524424, .one 524448, .one 1573032, .one 1573055, .one 1573218, .one 1573219, .one 1573278, .one 1704188, .row 0x2100 24 0x4 7, .row 0x2100 24 0x4 16, .row 0x2100 24 0x4 21, .row 0x2100 24 0x4 26, .row 0x5014 2 0x800 6, .row 0x5014 2 0x800 24, .row 0x5018 2 0x800 16, .row 0x8100 4 0x40 0, .row 0x8104 4 0x40 15, .row 0x8104 4 0x40 16, .row 0x8104 4 0x40 28, .row 0x10100 64 0x4 0, .row 0x10100 64 0x4 8, .row 0x2100c 32 0x40 3, .row 0x2100c 32 0x40 4, .row 0x2100c 32 0x40 5, .row 0x21024 32 0x40 0] W = true) (env : BootEnv) :
    Changes S W d (resetRelease env e) := by
  unfold resetRelease
  try dsimp only
  repeat' first
    | (with_reducible assumption)
    | (with_reducible refine ite_after ?_ ?_)
    | (with_reducible apply coreRelease_after)
    | (with_reducible apply Dev.reach_after)
    | (intro _; try dsimp only)
    | exact within_trans (by decide) hS
    | exact covers_trans (by decide +kernel) hW
    | exact rows_one hW (by decide +kernel)
    | exact rows_row hW (by decide +kernel) (by decide)
    | split

theorem pllLock.afterLock_after (h : Changes S W d e) (hS : within [.regs, .mem, .power, .boot, .chans, .lq, .out, .freeCtr, .cy, .fuses, .epoch, .sv, .tc, .hs] S = true) (hW : covers [.one 640, .one 644, .one 672, .one 680, .one 691, .one 692, .one 704, .one 712, .one 720, .one 728, .one 736, .one 800, .one 32896, .one 32904, .one 32912, .one 32985, .one 65666, .one 65675, .one 65680, .one 66052, .one 66054, .one 66056, .one 66064, .one 66072, .one 66080, .one 66112, .one 98432, .one 98440, .one 98448, .one 98462, .one 98463, .one 98471, .one 98496, .one 98576, .one 98584, .one 98591, .one 98592, .one 98782, .one 98820, .one 131426, .one 131453, .one 131454, .one 131712, .one 131776, .one 131912, .one 262848, .one 524416, .one 524424, .one 524448, .one 1573032, .one 1573055, .one 1573218, .one 1573219, .one 1573278, .one 1704158, .one 1704188, .row 0x2100 24 0x4 7, .row 0x2100 24 0x4 16, .row 0x2100 24 0x4 21, .row 0x2100 24 0x4 26, .row 0x5014 2 0x800 6, .row 0x5014 2 0x800 24, .row 0x5018 2 0x800 16, .row 0x8100 4 0x40 0, .row 0x8104 4 0x40 15, .row 0x8104 4 0x40 16, .row 0x8104 4 0x40 28, .row 0x10100 64 0x4 0, .row 0x10100 64 0x4 8, .row 0x2100c 32 0x40 3, .row 0x2100c 32 0x40 4, .row 0x2100c 32 0x40 5, .row 0x21024 32 0x40 0] W = true) (env : BootEnv) :
    Changes S W d (pllLock.afterLock env e) := by
  unfold pllLock.afterLock
  try dsimp only
  repeat' first
    | (with_reducible assumption)
    | (with_reducible refine ite_after ?_ ?_)
    | (with_reducible apply wakeDone_after)
    | (with_reducible apply lower_after)
    | (with_reducible apply Dev.modPower_after)
    | (with_reducible apply coreRelease_after)
    | (intro _; try dsimp only)
    | exact within_trans (by decide) hS
    | exact covers_trans (by decide +kernel) hW
    | exact rows_one hW (by decide +kernel)
    | exact rows_row hW (by decide +kernel) (by decide)
    | split

theorem pllLock_after (h : Changes S W d e) (hS : within [.regs, .mem, .power, .boot, .chans, .lq, .out, .freeCtr, .cy, .fuses, .epoch, .sv, .tc, .hs, .cl] S = true) (hW : covers [.one 512, .one 513, .one 514, .one 640, .one 644, .one 672, .one 680, .one 691, .one 692, .one 704, .one 712, .one 720, .one 728, .one 736, .one 800, .one 32896, .one 32904, .one 32912, .one 32985, .one 65666, .one 65675, .one 65680, .one 65692, .one 65695, .one 66052, .one 66054, .one 66056, .one 66064, .one 66072, .one 66080, .one 66112, .one 98432, .one 98440, .one 98448, .one 98462, .one 98463, .one 98471, .one 98496, .one 98576, .one 98584, .one 98591, .one 98592, .one 98782, .one 98820, .one 131426, .one 131453, .one 131454, .one 131712, .one 131776, .one 131912, .one 262848, .one 524416, .one 524424, .one 524448, .one 1573032, .one 1573055, .one 1573218, .one 1573219, .one 1573278, .one 1704158, .one 1704188, .row 0x2100 24 0x4 7, .row 0x2100 24 0x4 16, .row 0x2100 24 0x4 21, .row 0x2100 24 0x4 26, .row 0x5014 2 0x800 6, .row 0x5014 2 0x800 24, .row 0x5018 2 0x800 16, .row 0x8100 4 0x40 0, .row 0x8104 4 0x40 15, .row 0x8104 4 0x40 16, .row 0x8104 4 0x40 28, .row 0x10100 64 0x4 0, .row 0x10100 64 0x4 8, .row 0x2100c 32 0x40 3, .row 0x2100c 32 0x40 4, .row 0x2100c 32 0x40 5, .row 0x21024 32 0x40 0] W = true) (pll : Pll) (env : BootEnv) :
    Changes S W d (pllLock pll env e) := by
  unfold pllLock
  try dsimp only
  repeat' first
    | (with_reducible assumption)
    | (with_reducible refine ite_after ?_ ?_)
    | (with_reducible apply tamperDue_after)
    | (with_reducible apply raise_after)
    | (with_reducible apply calRelock_after)
    | (with_reducible apply pllLock.afterLock_after)
    | (with_reducible apply lower_after)
    | (with_reducible apply flushTimeEvents_after)
    | (with_reducible apply settleServices_after)
    | (intro _; try dsimp only)
    | exact within_trans (by decide) hS
    | exact covers_trans (by decide +kernel) hW
    | exact rows_one hW (by decide +kernel)
    | exact rows_row hW (by decide +kernel) (by decide)
    | split

theorem statusCmd_after (h : Changes S W d e) (hS : within [.regs, .mem, .lq, .out, .sv, .hs] S = true) (hW : covers [.one 1704158, .row 0x5014 2 0x800 6, .row 0x5014 2 0x800 24, .row 0x2100c 32 0x40 3, .row 0x2100c 32 0x40 4, .row 0x2100c 32 0x40 5, .row 0x21024 32 0x40 0] W = true) (c : SvcCmd) :
    Changes S W d (statusCmd c e) := by
  unfold statusCmd
  try dsimp only
  repeat' first
    | (with_reducible assumption)
    | (with_reducible refine ite_after ?_ ?_)
    | (with_reducible apply reply_after)
    | (intro _; try dsimp only)
    | exact within_trans (by decide) hS
    | exact covers_trans (by decide +kernel) hW
    | exact rows_one hW (by decide +kernel)
    | exact rows_row hW (by decide +kernel) (by decide)
    | split

theorem bootReport_after (h : Changes S W d e) (hS : within [.regs, .mem, .lq, .out, .sv, .hs] S = true) (hW : covers [.one 1704158, .row 0x5014 2 0x800 6, .row 0x5014 2 0x800 24, .row 0x2100c 32 0x40 3, .row 0x2100c 32 0x40 4, .row 0x2100c 32 0x40 5, .row 0x21024 32 0x40 0] W = true) (c : SvcCmd) :
    Changes S W d (bootReport c e) := by
  unfold bootReport
  try dsimp only
  repeat' first
    | (with_reducible assumption)
    | (with_reducible refine ite_after ?_ ?_)
    | (with_reducible apply reply_after)
    | (intro _; try dsimp only)
    | exact within_trans (by decide) hS
    | exact covers_trans (by decide +kernel) hW
    | exact rows_one hW (by decide +kernel)
    | exact rows_row hW (by decide +kernel) (by decide)
    | split

theorem manifestBoot_after (h : Changes S W d e) (hS : within [.regs, .mem, .boot, .lq, .out, .sv, .hs] S = true) (hW : covers [.one 672, .one 688, .one 691, .one 692, .one 704, .one 712, .one 720, .one 728, .one 1704158, .one 1704159, .row 0x5014 2 0x800 6, .row 0x5014 2 0x800 24, .row 0x2100c 32 0x40 3, .row 0x2100c 32 0x40 4, .row 0x2100c 32 0x40 5, .row 0x21024 32 0x40 0] W = true) (c : SvcCmd) :
    Changes S W d (manifestBoot c e) := by
  unfold manifestBoot
  try dsimp only
  repeat' first
    | (with_reducible assumption)
    | (with_reducible refine ite_after ?_ ?_)
    | (with_reducible apply wr_after)
    | (with_reducible apply Dev.modSv_after)
    | (with_reducible apply lower_after)
    | (with_reducible apply Dev.modBoot_after)
    | (with_reducible apply noteKeyMode_after)
    | (with_reducible apply noteTried_after)
    | (with_reducible apply reply_after)
    | (intro _; try dsimp only)
    | exact within_trans (by decide) hS
    | exact covers_trans (by decide +kernel) hW
    | exact rows_one hW (by decide +kernel)
    | exact rows_row hW (by decide +kernel) (by decide)
    | split

theorem slotWrite_after (h : Changes S W d e) (hS : within [.regs, .mem, .boot, .lq, .out, .freeCtr, .sv, .hs] S = true) (hW : covers [.one 688, .one 1704158, .row 0x5014 2 0x800 6, .row 0x5014 2 0x800 24, .row 0x5018 2 0x800 16, .row 0x2100c 32 0x40 3, .row 0x2100c 32 0x40 4, .row 0x2100c 32 0x40 5, .row 0x21024 32 0x40 0] W = true) (same : Bool) (c : SvcCmd) :
    Changes S W d (slotWrite same c e) := by
  unfold slotWrite
  try dsimp only
  repeat' first
    | (with_reducible assumption)
    | (with_reducible refine ite_after ?_ ?_)
    | (with_reducible apply noteKeyMode_after)
    | (with_reducible apply setEntry_after)
    | (with_reducible apply reply_after)
    | (with_reducible apply free_after)
    | (with_reducible apply flashOp_after)
    | (intro _; try dsimp only)
    | exact within_trans (by decide) hS
    | exact covers_trans (by decide +kernel) hW
    | exact rows_one hW (by decide +kernel)
    | exact rows_row hW (by decide +kernel) (by decide)
    | split

theorem slotConfirm_after (h : Changes S W d e) (hS : within [.regs, .mem, .boot, .lq, .out, .freeCtr, .fuses, .sv, .hs] S = true) (hW : covers [.one 1704158, .row 0x5014 2 0x800 6, .row 0x5014 2 0x800 24, .row 0x5018 2 0x800 16, .row 0x2100c 32 0x40 3, .row 0x2100c 32 0x40 4, .row 0x2100c 32 0x40 5, .row 0x21024 32 0x40 0] W = true) (c : SvcCmd) :
    Changes S W d (slotConfirm c e) := by
  unfold slotConfirm
  try dsimp only
  repeat' first
    | (with_reducible assumption)
    | (with_reducible refine ite_after ?_ ?_)
    | (with_reducible apply setEntry_after)
    | (with_reducible apply reply_after)
    | (with_reducible apply flashOp_after)
    | (intro _; try dsimp only)
    | exact within_trans (by decide) hS
    | exact covers_trans (by decide +kernel) hW
    | exact rows_one hW (by decide +kernel)
    | exact rows_row hW (by decide +kernel) (by decide)
    | split
    | (with_reducible apply set_fuses_after)
    | ((with_reducible show Changes _ _ _ (Dev.mk _ _ _ _ _ _ _ _ _ _ _ _ _ _ _ _ _ _ _ _ _ _ _ _ _ _ _ _ _ _)); refine mk_after ?_ (.inl rfl) (.inl rfl) (.inl rfl) (.inl rfl) (.inl rfl) (.inl rfl) (.inl rfl) (.inl rfl) (.inl rfl) (.inl rfl) (.inl rfl) (.inr (within_mem hS (by decide))) (.inl rfl) (.inl rfl) (.inl rfl) (.inl rfl) (.inl rfl) (.inl rfl) (.inl rfl) (.inl rfl) (.inl rfl) (.inl rfl) (.inl rfl) (.inl rfl) (.inl rfl) (.inl rfl) (.inl rfl) (.inl rfl) (.inl rfl) (fun can => can.mem) (fun can => can.shadow))

theorem resetCmd_after (h : Changes S W d e) (hS : within [.regs, .mem, .power, .lq, .out, .sv, .hs] S = true) (hW : covers [.errors, .one 1704158, .row 0x5014 2 0x800 6, .row 0x5014 2 0x800 24, .row 0x2100c 32 0x40 3, .row 0x2100c 32 0x40 4, .row 0x2100c 32 0x40 5, .row 0x21024 32 0x40 0] W = true) (c : SvcCmd) :
    Changes S W d (resetCmd c e) := by
  unfold resetCmd
  try dsimp only
  repeat' first
    | (with_reducible assumption)
    | (with_reducible refine ite_after ?_ ?_)
    | (with_reducible apply gcReset_after)
    | (with_reducible apply reply_after)
    | (intro _; try dsimp only)
    | exact within_trans (by decide) hS
    | exact covers_trans (by decide +kernel) hW
    | exact rows_one hW (by decide +kernel)
    | exact rows_row hW (by decide +kernel) (by decide)
    | split

theorem freshFlash_after (h : Changes S W d e) (hS : within [.boot] S = true) (hW : covers [] W = true) :
    Changes S W d (freshFlash e) := by
  unfold freshFlash
  try dsimp only
  repeat' first
    | (with_reducible assumption)
    | (with_reducible refine ite_after ?_ ?_)
    | (with_reducible apply Dev.modBoot_after)
    | (intro _; try dsimp only)
    | exact within_trans (by decide) hS
    | split

theorem execResetRelease_changes {s t : State} (env : BootEnv) (h : execResetRelease env s = .next t) :
    t.pending = s.pending ∧ Changes [.regs, .time, .power, .boot, .chans, .lq, .out, .freeCtr, .clk, .cy, .fuses, .epoch, .sv, .tc, .hs] [.one 640, .one 644, .one 672, .one 680, .one 691, .one 692, .one 704, .one 712, .one 720, .one 728, .one 736, .one 800, .one 32896, .one 32904, .one 32912, .one 32985, .one 65666, .one 65675, .one 65680, .one 66052, .one 66054, .one 66056, .one 66064, .one 66072, .one 66080, .one 66112, .one 98432, .one 98440, .one 98448, .one 98462, .one 98463, .one 98471, .one 98496, .one 98576, .one 98584, .one 98591, .one 98592, .one 98752, .one 98820, .one 131426, .one 131453, .one 131454, .one 131712, .one 131776, .one 131912, .one 262848, .one 524416, .one 524424, .one 524448, .one 1573032, .one 1573055, .one 1573218, .one 1573219, .one 1573278, .one 1704188, .row 0x2100 24 0x4 7, .row 0x2100 24 0x4 16, .row 0x2100 24 0x4 21, .row 0x2100 24 0x4 26, .row 0x5014 2 0x800 6, .row 0x5014 2 0x800 24, .row 0x5018 2 0x800 16, .row 0x8100 4 0x40 0, .row 0x8104 4 0x40 15, .row 0x8104 4 0x40 16, .row 0x8104 4 0x40 28, .row 0x10100 64 0x4 0, .row 0x10100 64 0x4 8, .row 0x2100c 32 0x40 3, .row 0x2100c 32 0x40 4, .row 0x2100c 32 0x40 5, .row 0x21024 32 0x40 0] s.dev t.dev := by
  unfold execResetRelease at h
  refine act_changes (by decide) h fun e h => ?_
  repeat' first
    | (with_reducible assumption)
    | (with_reducible refine ite_after ?_ ?_)
    | (with_reducible apply resetRelease_after)
    | (with_reducible apply freshFlash_after)
    | (intro _; try dsimp only)
    | exact within_trans (by decide) (within_refl _)
    | exact covers_trans (by decide +kernel) (covers_refl _)
    | exact rows_one (covers_refl _) (by decide +kernel)
    | exact rows_row (covers_refl _) (by decide +kernel) (by decide)
    | split

theorem execImageFetchDone_changes {s t : State} (img : Option (List Byte)) (h : execImageFetchDone img s = .next t) :
    t.pending = s.pending ∧ Changes [.regs, .mem, .boot, .chans, .ts, .lq, .out, .freeCtr, .cy, .shadow, .sv, .tc, .hs] [.one 672, .one 680, .one 688, .one 691, .one 692, .one 704, .one 712, .one 720, .one 728, .one 736, .one 800, .one 262848, .one 524416, .one 524424, .one 524448, .one 1573032, .one 1573054, .one 1573055, .one 1704158, .one 1704160, .one 1704188, .one 1704212, .one 1835223, .row 0x5014 2 0x800 6, .row 0x5014 2 0x800 24, .row 0x5018 2 0x800 16, .row 0x8100 4 0x40 0, .row 0x8104 4 0x40 15, .row 0x8104 4 0x40 16, .row 0x8104 4 0x40 28, .row 0x10100 64 0x4 0, .row 0x10100 64 0x4 8, .row 0x2100c 32 0x40 3, .row 0x2100c 32 0x40 4, .row 0x2100c 32 0x40 5, .row 0x21024 32 0x40 0] s.dev t.dev := by
  unfold execImageFetchDone at h
  refine act_changes (by decide) h fun e h => ?_
  repeat' first
    | (with_reducible assumption)
    | (with_reducible refine ite_after ?_ ?_)
    | (with_reducible apply imageFetchDone_after)
    | (with_reducible apply freshFlash_after)
    | (intro _; try dsimp only)
    | exact within_trans (by decide) (within_refl _)
    | exact covers_trans (by decide +kernel) (covers_refl _)
    | exact rows_one (covers_refl _) (by decide +kernel)
    | exact rows_row (covers_refl _) (by decide +kernel) (by decide)
    | split

theorem execConfigApplyDone_changes {s t : State} (h : execConfigApplyDone s = .next t) :
    t.pending = s.pending ∧ Changes [.regs, .mem, .boot, .ts, .lq, .out, .sv, .tc, .hs] [.grid 0x5040 2 0x800 4 0x8 0, .grid 0x5040 2 0x800 4 0x8 23, .grid 0x5040 2 0x800 4 0x8 24, .one 672, .one 680, .one 690, .one 704, .one 712, .one 720, .one 728, .one 736, .one 800, .one 131425, .one 131840, .one 131904, .one 184328, .one 184336, .one 184345, .one 184346, .one 184348, .one 184349, .one 184351, .one 262304, .one 262336, .one 262340, .one 262344, .one 262352, .one 262368, .one 262369, .one 262370, .one 262372, .one 262375, .one 262380, .one 262392, .one 262393, .one 262396, .one 262398, .one 262400, .one 262476, .one 262488, .one 262496, .one 262508, .one 262524, .one 262527, .one 262848, .one 262856, .one 524416, .one 524424, .one 524448, .one 1704188, .row 0x5014 2 0x800 6, .row 0x5014 2 0x800 24, .row 0x8100 4 0x40 0, .row 0x8104 4 0x40 14, .row 0x8104 4 0x40 15, .row 0x8104 4 0x40 16, .row 0x8104 4 0x40 28, .row 0x10100 64 0x4 0, .row 0x10100 64 0x4 8, .row 0x2100c 32 0x40 3, .row 0x2100c 32 0x40 4, .row 0x2100c 32 0x40 5, .row 0x21010 32 0x40 31, .row 0x21014 32 0x40 0, .row 0x21014 32 0x40 19, .row 0x21024 32 0x40 0] s.dev t.dev := by
  unfold execConfigApplyDone at h
  refine act_changes (by decide) h fun e h => ?_
  repeat' first
    | (with_reducible assumption)
    | (with_reducible refine ite_after ?_ ?_)
    | (with_reducible apply configApplyDone_after)
    | (intro _; try dsimp only)
    | exact within_trans (by decide) (within_refl _)
    | exact covers_trans (by decide +kernel) (covers_refl _)
    | exact rows_one (covers_refl _) (by decide +kernel)
    | exact rows_row (covers_refl _) (by decide +kernel) (by decide)
    | exact rows_grid (covers_refl _) (by decide +kernel) (by decide) (by decide)
    | split

theorem execBootDeckParity_changes {s t : State} (h : execBootDeckParity s = .next t) :
    t.pending = s.pending ∧ Changes [.regs, .boot, .out, .freeCtr, .hs] [.one 672, .one 680, .one 691, .one 692, .one 704, .one 712, .one 720, .one 728, .one 736, .one 800, .one 262848, .one 524416, .one 524424, .one 524448, .one 1704188, .row 0x5018 2 0x800 16, .row 0x8100 4 0x40 0, .row 0x8104 4 0x40 15, .row 0x8104 4 0x40 16, .row 0x8104 4 0x40 28, .row 0x10100 64 0x4 0, .row 0x10100 64 0x4 8] s.dev t.dev := by
  unfold execBootDeckParity at h
  refine act_changes (by decide) h fun e h => ?_
  repeat' first
    | (with_reducible assumption)
    | (with_reducible refine ite_after ?_ ?_)
    | (with_reducible apply bootDeckParity_after)
    | (with_reducible apply freshFlash_after)
    | (intro _; try dsimp only)
    | exact within_trans (by decide) (within_refl _)
    | exact covers_trans (by decide +kernel) (covers_refl _)
    | exact rows_one (covers_refl _) (by decide +kernel)
    | exact rows_row (covers_refl _) (by decide +kernel) (by decide)
    | split

theorem execJournalRecoveryDone_changes {s t : State} (ecc : Option Nat) (h : execJournalRecoveryDone ecc s = .next t) :
    t.pending = s.pending ∧ Changes [.regs, .mem, .power, .boot, .chans, .ts, .lq, .out, .freeCtr, .cy, .shadow, .sv, .tc, .hs] [.one 672, .one 33000, .one 65824, .one 65856, .one 1573032, .one 1573054, .one 1573055, .one 1704158, .one 1704160, .one 1704188, .one 1704192, .one 1704212, .one 1704221, .one 1704222, .one 1704223, .one 1704224, .one 1835223, .row 0x5014 2 0x800 6, .row 0x5014 2 0x800 24, .row 0x2100c 32 0x40 3, .row 0x2100c 32 0x40 4, .row 0x2100c 32 0x40 5, .row 0x21024 32 0x40 0] s.dev t.dev := by
  unfold execJournalRecoveryDone at h
  refine act_changes (by decide) h fun e h => ?_
  repeat' first
    | (with_reducible assumption)
    | (with_reducible refine ite_after ?_ ?_)
    | (with_reducible apply recoveryDone_after)
    | (intro _; try dsimp only)
    | exact within_trans (by decide) (within_refl _)
    | exact covers_trans (by decide +kernel) (covers_refl _)
    | exact rows_one (covers_refl _) (by decide +kernel)
    | exact rows_row (covers_refl _) (by decide +kernel) (by decide)
    | split

theorem execNeighbourBootPortTimeout_changes {s t : State} (h : execNeighbourBootPortTimeout s = .next t) :
    t.pending = s.pending ∧ Changes [.regs, .time, .boot, .out, .freeCtr, .clk, .hs] [.one 672, .one 680, .one 691, .one 692, .one 704, .one 712, .one 720, .one 728, .one 736, .one 800, .one 98752, .one 262848, .one 524416, .one 524424, .one 524448, .one 1704188, .row 0x5018 2 0x800 16, .row 0x8100 4 0x40 0, .row 0x8104 4 0x40 15, .row 0x8104 4 0x40 16, .row 0x8104 4 0x40 28, .row 0x10100 64 0x4 0, .row 0x10100 64 0x4 8] s.dev t.dev := by
  unfold execNeighbourBootPortTimeout at h
  refine act_changes (by decide) h fun e h => ?_
  repeat' first
    | (with_reducible assumption)
    | (with_reducible refine ite_after ?_ ?_)
    | (with_reducible apply portTimeout_after)
    | (intro _; try dsimp only)
    | exact within_trans (by decide) (within_refl _)
    | exact covers_trans (by decide +kernel) (covers_refl _)
    | exact rows_one (covers_refl _) (by decide +kernel)
    | exact rows_row (covers_refl _) (by decide +kernel) (by decide)
    | split

theorem execStatus_changes {s t : State} (via : Via) (h : execStatus via s = .next t) :
    t.pending = s.pending ∧ Changes [.regs, .mem, .lq, .out, .sv, .hs] [.one 1704158, .row 0x5014 2 0x800 6, .row 0x5014 2 0x800 24, .row 0x2100c 32 0x40 3, .row 0x2100c 32 0x40 4, .row 0x2100c 32 0x40 5, .row 0x21024 32 0x40 0] s.dev t.dev := by
  unfold execStatus at h
  refine act_changes (by decide) h fun e h => ?_
  repeat' first
    | (with_reducible assumption)
    | (with_reducible refine ite_after ?_ ?_)
    | (with_reducible apply statusCmd_after)
    | (with_reducible apply serve_after)
    | (intro _; try dsimp only)
    | exact within_trans (by decide) (within_refl _)
    | exact covers_trans (by decide +kernel) (covers_refl _)
    | exact rows_one (covers_refl _) (by decide +kernel)
    | exact rows_row (covers_refl _) (by decide +kernel) (by decide)
    | split

theorem execBootReport_changes {s t : State} (via : Via) (h : execBootReport via s = .next t) :
    t.pending = s.pending ∧ Changes [.regs, .mem, .lq, .out, .sv, .hs] [.one 1704158, .row 0x5014 2 0x800 6, .row 0x5014 2 0x800 24, .row 0x2100c 32 0x40 3, .row 0x2100c 32 0x40 4, .row 0x2100c 32 0x40 5, .row 0x21024 32 0x40 0] s.dev t.dev := by
  unfold execBootReport at h
  refine act_changes (by decide) h fun e h => ?_
  repeat' first
    | (with_reducible assumption)
    | (with_reducible refine ite_after ?_ ?_)
    | (with_reducible apply bootReport_after)
    | (with_reducible apply serve_after)
    | (intro _; try dsimp only)
    | exact within_trans (by decide) (within_refl _)
    | exact covers_trans (by decide +kernel) (covers_refl _)
    | exact rows_one (covers_refl _) (by decide +kernel)
    | exact rows_row (covers_refl _) (by decide +kernel) (by decide)
    | split

theorem execManifestBoot_changes {s t : State} (via : Via) (h : execManifestBoot via s = .next t) :
    t.pending = s.pending ∧ Changes [.regs, .mem, .boot, .lq, .out, .sv, .hs] [.one 672, .one 688, .one 691, .one 692, .one 704, .one 712, .one 720, .one 728, .one 1704158, .one 1704159, .row 0x5014 2 0x800 6, .row 0x5014 2 0x800 24, .row 0x2100c 32 0x40 3, .row 0x2100c 32 0x40 4, .row 0x2100c 32 0x40 5, .row 0x21024 32 0x40 0] s.dev t.dev := by
  unfold execManifestBoot at h
  refine act_changes (by decide) h fun e h => ?_
  repeat' first
    | (with_reducible assumption)
    | (with_reducible refine ite_after ?_ ?_)
    | (with_reducible apply manifestBoot_after)
    | (with_reducible apply serve_after)
    | (intro _; try dsimp only)
    | exact within_trans (by decide) (within_refl _)
    | exact covers_trans (by decide +kernel) (covers_refl _)
    | exact rows_one (covers_refl _) (by decide +kernel)
    | exact rows_row (covers_refl _) (by decide +kernel) (by decide)
    | split

theorem execSlotWrite_changes {s t : State} (via : Via) (same : Bool) (h : execSlotWrite via same s = .next t) :
    t.pending = s.pending ∧ Changes [.regs, .mem, .boot, .lq, .out, .freeCtr, .sv, .hs] [.one 688, .one 1704158, .row 0x5014 2 0x800 6, .row 0x5014 2 0x800 24, .row 0x5018 2 0x800 16, .row 0x2100c 32 0x40 3, .row 0x2100c 32 0x40 4, .row 0x2100c 32 0x40 5, .row 0x21024 32 0x40 0] s.dev t.dev := by
  unfold execSlotWrite at h
  refine act_changes (by decide) h fun e h => ?_
  repeat' first
    | (with_reducible assumption)
    | (with_reducible refine ite_after ?_ ?_)
    | (with_reducible apply freshFlash_after)
    | (with_reducible apply slotWrite_after)
    | (with_reducible apply serve_after)
    | (intro _; try dsimp only)
    | exact within_trans (by decide) (within_refl _)
    | exact covers_trans (by decide +kernel) (covers_refl _)
    | exact rows_one (covers_refl _) (by decide +kernel)
    | exact rows_row (covers_refl _) (by decide +kernel) (by decide)
    | split

theorem execSlotConfirm_changes {s t : State} (via : Via) (h : execSlotConfirm via s = .next t) :
    t.pending = s.pending ∧ Changes [.regs, .mem, .boot, .lq, .out, .freeCtr, .fuses, .sv, .hs] [.one 1704158, .row 0x5014 2 0x800 6, .row 0x5014 2 0x800 24, .row 0x5018 2 0x800 16, .row 0x2100c 32 0x40 3, .row 0x2100c 32 0x40 4, .row 0x2100c 32 0x40 5, .row 0x21024 32 0x40 0] s.dev t.dev := by
  unfold execSlotConfirm at h
  refine act_changes (by decide) h fun e h => ?_
  repeat' first
    | (with_reducible assumption)
    | (with_reducible refine ite_after ?_ ?_)
    | (with_reducible apply freshFlash_after)
    | (with_reducible apply slotConfirm_after)
    | (with_reducible apply serve_after)
    | (intro _; try dsimp only)
    | exact within_trans (by decide) (within_refl _)
    | exact covers_trans (by decide +kernel) (covers_refl _)
    | exact rows_one (covers_refl _) (by decide +kernel)
    | exact rows_row (covers_refl _) (by decide +kernel) (by decide)
    | split

theorem execReset_changes {s t : State} (via : Via) (h : execReset via s = .next t) :
    t.pending = s.pending ∧ Changes [.regs, .mem, .power, .lq, .out, .sv, .hs] [.errors, .one 1704158, .row 0x5014 2 0x800 6, .row 0x5014 2 0x800 24, .row 0x2100c 32 0x40 3, .row 0x2100c 32 0x40 4, .row 0x2100c 32 0x40 5, .row 0x21024 32 0x40 0] s.dev t.dev := by
  unfold execReset at h
  refine act_changes (by decide) h fun e h => ?_
  repeat' first
    | (with_reducible assumption)
    | (with_reducible refine ite_after ?_ ?_)
    | (with_reducible apply resetCmd_after)
    | (with_reducible apply serve_after)
    | (intro _; try dsimp only)
    | exact within_trans (by decide) (within_refl _)
    | exact covers_trans (by decide +kernel) (covers_refl _)
    | exact rows_one (covers_refl _) (by decide +kernel)
    | exact rows_row (covers_refl _) (by decide +kernel) (by decide)
    | split

theorem execBootData_changes {s t : State} (p : Fin 4) (offset : Word) (chunk : List Byte) (h : execBootData p offset chunk s = .next t) :
    t.pending = s.pending ∧ Changes [.mem, .boot, .out, .dramWait] [] s.dev t.dev := by
  unfold execBootData at h
  refine act_changes (by decide) h fun e h => ?_
  repeat' first
    | (with_reducible assumption)
    | (with_reducible refine ite_after ?_ ?_)
    | (with_reducible apply bootData_after)
    | (intro _; try dsimp only)
    | exact within_trans (by decide) (within_refl _)
    | split

theorem execBootEnd_changes {s t : State} (p : Fin 4) (total : Word) (h : execBootEnd p total s = .next t) :
    t.pending = s.pending ∧ Changes [.regs, .mem, .boot, .chans, .ts, .lq, .out, .freeCtr, .cy, .shadow, .sv, .tc, .hs] [.one 672, .one 680, .one 688, .one 691, .one 692, .one 704, .one 712, .one 720, .one 728, .one 736, .one 800, .one 262848, .one 524416, .one 524424, .one 524448, .one 1573032, .one 1573054, .one 1573055, .one 1704158, .one 1704160, .one 1704188, .one 1704212, .one 1835223, .row 0x5014 2 0x800 6, .row 0x5014 2 0x800 24, .row 0x5018 2 0x800 16, .row 0x8100 4 0x40 0, .row 0x8104 4 0x40 15, .row 0x8104 4 0x40 16, .row 0x8104 4 0x40 28, .row 0x10100 64 0x4 0, .row 0x10100 64 0x4 8, .row 0x2100c 32 0x40 3, .row 0x2100c 32 0x40 4, .row 0x2100c 32 0x40 5, .row 0x21024 32 0x40 0] s.dev t.dev := by
  unfold execBootEnd at h
  refine act_changes (by decide) h fun e h => ?_
  repeat' first
    | (with_reducible assumption)
    | (with_reducible refine ite_after ?_ ?_)
    | (with_reducible apply bootEnd_after)
    | (intro _; try dsimp only)
    | exact within_trans (by decide) (within_refl _)
    | exact covers_trans (by decide +kernel) (covers_refl _)
    | exact rows_one (covers_refl _) (by decide +kernel)
    | exact rows_row (covers_refl _) (by decide +kernel) (by decide)
    | split

theorem execBootDeny_changes {s t : State} (p : Fin 4) (h : execBootDeny p s = .next t) :
    t.pending = s.pending ∧ Changes [.regs, .boot, .out, .freeCtr, .hs] [.one 672, .one 680, .one 691, .one 692, .one 704, .one 712, .one 720, .one 728, .one 736, .one 800, .one 262848, .one 524416, .one 524424, .one 524448, .one 1704188, .row 0x5018 2 0x800 16, .row 0x8100 4 0x40 0, .row 0x8104 4 0x40 15, .row 0x8104 4 0x40 16, .row 0x8104 4 0x40 28, .row 0x10100 64 0x4 0, .row 0x10100 64 0x4 8] s.dev t.dev := by
  unfold execBootDeny at h
  refine act_changes (by decide) h fun e h => ?_
  repeat' first
    | (with_reducible assumption)
    | (with_reducible refine ite_after ?_ ?_)
    | (with_reducible apply bootDeny_after)
    | (intro _; try dsimp only)
    | exact within_trans (by decide) (within_refl _)
    | exact covers_trans (by decide +kernel) (covers_refl _)
    | exact rows_one (covers_refl _) (by decide +kernel)
    | exact rows_row (covers_refl _) (by decide +kernel) (by decide)
    | split

end

end Sys2Proof.Machine
end

