-- ==== Sys2Proof/Laws/ChangesFaults.lean ====
section
/-!
SUPPORT. What every operation of Machine/Faults can change.
-/

set_option Elab.async false
set_option linter.all false

namespace Sys2Proof.Machine

section
variable {S : List Part} {W : List Span} {d e : Dev}

theorem loadFatal_after (h : Changes S W d e) (hS : within [.regs] S = true) (hW : covers [.one 98470, .one 98528, .one 98536, .one 98544, .one 98545, .one 98546, .one 98547, .one 98548, .one 98552] W = true) (src : Nat) :
    Changes S W d (loadFatal src e) := by
  unfold loadFatal
  try dsimp only
  repeat' first
    | (with_reducible assumption)
    | (with_reducible refine ite_after ?_ ?_)
    | (with_reducible apply wr_after)
    | (with_reducible apply raise_after)
    | (with_reducible apply countSat_after)
    | (with_reducible apply lower_after)
    | (with_reducible apply flag_after)
    | (intro _; try dsimp only)
    | exact within_trans (by decide) hS
    | exact covers_trans (by decide +kernel) hW
    | exact rows_one hW (by decide +kernel)
    | split

theorem handlerReset_after (h : Changes S W d e) (hS : within allParts S = true) (hW : covers [.every] W = true) :
    Changes S W d (handlerReset e) := by
  unfold handlerReset
  try dsimp only
  repeat' first
    | (with_reducible assumption)
    | (with_reducible refine ite_after ?_ ?_)
    | (with_reducible apply startReset_after)
    | (with_reducible apply raiseIf_after)
    | (intro _; try dsimp only)
    | exact within_trans (by decide) hS
    | exact covers_trans (by decide) hW
    | exact rows_every hW _
    | split

theorem fatal_after (h : Changes S W d e) (hS : within allParts S = true) (hW : covers [.every] W = true) (src : Nat) (hart : Nat) (detail : List Byte) :
    Changes S W d (fatal src hart detail e) := by
  unfold fatal
  try dsimp only
  repeat' first
    | (with_reducible assumption)
    | (with_reducible refine ite_after ?_ ?_)
    | (with_reducible apply setBit_after)
    | (with_reducible apply wr_after)
    | (with_reducible apply raise_after)
    | (with_reducible apply loadFatal_after)
    | (with_reducible apply handlerReset_after)
    | (intro _; try dsimp only)
    | exact within_trans (by decide) hS
    | exact covers_trans (by decide) hW
    | exact rows_every hW _
    | split
    | (with_reducible apply set_fd_after)
    | ((with_reducible show Changes _ _ _ (Dev.mk _ _ _ _ _ _ _ _ _ _ _ _ _ _ _ _ _ _ _ _ _ _ _ _ _ _ _ _ _ _)); refine mk_after ?_ (.inl rfl) (.inl rfl) (.inl rfl) (.inl rfl) (.inl rfl) (.inl rfl) (.inl rfl) (.inl rfl) (.inl rfl) (.inl rfl) (.inl rfl) (.inl rfl) (.inl rfl) (.inl rfl) (.inl rfl) (.inl rfl) (.inl rfl) (.inl rfl) (.inl rfl) (.inl rfl) (.inl rfl) (.inl rfl) (.inl rfl) (.inl rfl) (.inl rfl) (.inl rfl) (.inl rfl) (.inr (within_mem hS (by decide))) (.inl rfl) (fun can => can.mem) (fun can => can.shadow))

theorem fatalOrPin_after (h : Changes S W d e) (hS : within allParts S = true) (hW : covers [.every] W = true) (src : Nat) (hart : Nat) (detail : List Byte) :
    Changes S W d (fatalOrPin src hart detail e) := by
  unfold fatalOrPin
  try dsimp only
  repeat' first
    | (with_reducible assumption)
    | (with_reducible refine ite_after ?_ ?_)
    | (with_reducible apply loadFatal_after)
    | (with_reducible apply fatal_after)
    | (intro _; try dsimp only)
    | exact within_trans (by decide) hS
    | exact covers_trans (by decide) hW
    | exact rows_every hW _
    | split

theorem doubleTrap_after (h : Changes S W d e) (hS : within allParts S = true) (hW : covers [.every] W = true) (hart : Nat) (first : Nat) (second : Nat) :
    Changes S W d (doubleTrap hart first second e) := by
  unfold doubleTrap
  try dsimp only
  repeat' first
    | (with_reducible assumption)
    | (with_reducible refine ite_after ?_ ?_)
    | (with_reducible apply fatalOrPin_after)
    | (intro _; try dsimp only)
    | exact within_trans (by decide) hS
    | exact covers_trans (by decide) hW
    | exact rows_every hW _
    | split

theorem deckParity_after (h : Changes S W d e) (hS : within allParts S = true) (hW : covers [.every] W = true) (tile : Nat) :
    Changes S W d (deckParity tile e) := by
  unfold deckParity
  try dsimp only
  repeat' first
    | (with_reducible assumption)
    | (with_reducible refine ite_after ?_ ?_)
    | (with_reducible apply fatal_after)
    | (intro _; try dsimp only)
    | exact within_trans (by decide) hS
    | exact covers_trans (by decide) hW
    | exact rows_every hW _
    | split

theorem wdogPre_after (h : Changes S W d e) (hS : within allParts S = true) (hW : covers [.every] W = true) :
    Changes S W d (wdogPre e) := by
  unfold wdogPre
  try dsimp only
  repeat' first
    | (with_reducible assumption)
    | (with_reducible refine ite_after ?_ ?_)
    | (with_reducible apply fatal_after)
    | (with_reducible apply Dev.elapse_after)
    | (intro _; try dsimp only)
    | exact within_trans (by decide) hS
    | exact covers_trans (by decide) hW
    | exact rows_every hW _
    | split

theorem watchdogExpiry_after (h : Changes S W d e) (hS : within allParts S = true) (hW : covers [.every] W = true) :
    Changes S W d (watchdogExpiry e) := by
  unfold watchdogExpiry
  try dsimp only
  repeat' first
    | (with_reducible assumption)
    | (with_reducible refine ite_after ?_ ?_)
    | (with_reducible apply startReset_after)
    | (with_reducible apply raise_after)
    | (with_reducible apply handlerReset_after)
    | (with_reducible apply Dev.elapse_after)
    | (intro _; try dsimp only)
    | exact within_trans (by decide) hS
    | exact covers_trans (by decide) hW
    | exact rows_every hW _
    | split

theorem journalEcc_after (h : Changes S W d e) (hS : within allParts S = true) (hW : covers [.every] W = true) (x0 : Nat) (seq : Nat) :
    Changes S W d (journalEcc x0 seq e) := by
  unfold journalEcc
  try dsimp only
  repeat' first
    | (with_reducible assumption)
    | (with_reducible refine ite_after ?_ ?_)
    | (with_reducible apply fatal_after)
    | (intro _; try dsimp only)
    | exact within_trans (by decide) hS
    | exact covers_trans (by decide) hW
    | exact rows_every hW _
    | split

theorem crashSlotWritten_after (h : Changes S W d e) (hS : within [.regs, .mem, .freeCtr, .fd] S = true) (hW : covers [.one 98546, .one 98576, .one 98584, .one 98591, .one 98592] W = true) (harts : List (List Byte)) (ring : Nat) :
    Changes S W d (crashSlotWritten harts ring e) := by
  unfold crashSlotWritten
  try dsimp only
  repeat' first
    | (with_reducible assumption)
    | (with_reducible refine ite_after ?_ ?_)
    | (with_reducible apply handlerBegins_after)
    | (with_reducible apply wr_after)
    | (with_reducible apply raise_after)
    | (with_reducible apply mramWrite_after)
    | (intro _; try dsimp only)
    | exact within_trans (by decide) hS
    | exact covers_trans (by decide +kernel) hW
    | exact rows_one hW (by decide +kernel)
    | split
    | (with_reducible apply set_fd_after)
    | (with_reducible apply set_freeCtr_after)
    | ((with_reducible show Changes _ _ _ (Dev.mk _ _ _ _ _ _ _ _ _ _ _ _ _ _ _ _ _ _ _ _ _ _ _ _ _ _ _ _ _ _)); refine mk_after ?_ (.inl rfl) (.inl rfl) (.inl rfl) (.inl rfl) (.inl rfl) (.inl rfl) (.inl rfl) (.inl rfl) (.inr (within_mem hS (by decide))) (.inl rfl) (.inl rfl) (.inl rfl) (.inl rfl) (.inl rfl) (.inl rfl) (.inl rfl) (.inl rfl) (.inl rfl) (.inl rfl) (.inl rfl) (.inl rfl) (.inl rfl) (.inl rfl) (.inl rfl) (.inl rfl) (.inl rfl) (.inl rfl) (.inr (within_mem hS (by decide))) (.inl rfl) (fun can => can.mem) (fun can => can.shadow))

theorem dramDumpWritten_after (h : Changes S W d e) (hS : within allParts S = true) (hW : covers [.every] W = true) :
    Changes S W d (dramDumpWritten e) := by
  unfold dramDumpWritten
  try dsimp only
  repeat' first
    | (with_reducible assumption)
    | (with_reducible refine ite_after ?_ ?_)
    | (with_reducible apply raise_after)
    | (with_reducible apply handlerReset_after)
    | (intro _; try dsimp only)
    | exact within_trans (by decide) hS
    | exact covers_trans (by decide) hW
    | exact rows_every hW _
    | split
    | (with_reducible apply set_mem_after)
    | (with_reducible apply set_freeCtr_after)
    | (with_reducible exact Dev.Canonical.mem ‹_›)
    | (with_reducible apply Memory.wf_write)
    | (with_reducible apply Memory.wf_set)
    | (with_reducible apply Memory.wf_forget)
    | (with_reducible apply Memory.wf_foldl)
    | (with_reducible apply applyEntries_wf)
    | (rename_i can; exact can.mem)
    | ((with_reducible show Changes _ _ _ (Dev.mk _ _ _ _ _ _ _ _ _ _ _ _ _ _ _ _ _ _ _ _ _ _ _ _ _ _ _ _ _ _)); refine mk_after ?_ (.inr (within_mem hS (by decide))) (.inl rfl) (.inl rfl) (.inl rfl) (.inl rfl) (.inl rfl) (.inl rfl) (.inl rfl) (.inr (within_mem hS (by decide))) (.inl rfl) (.inl rfl) (.inl rfl) (.inl rfl) (.inl rfl) (.inl rfl) (.inl rfl) (.inl rfl) (.inl rfl) (.inl rfl) (.inl rfl) (.inl rfl) (.inl rfl) (.inl rfl) (.inl rfl) (.inl rfl) (.inl rfl) (.inl rfl) (.inl rfl) (.inl rfl) (fun can => by repeat' first | (with_reducible exact can.mem) | (with_reducible assumption) | (with_reducible apply Memory.wf_foldl) | intro _ | (with_reducible apply Memory.wf_write) | (with_reducible apply Memory.wf_set) | (with_reducible apply applyEntries_wf) | (with_reducible apply Memory.wf_forget) | (with_reducible apply Memory.wf_filter) | exact can.mem) (fun can => can.shadow))

theorem handlerTimeout_after (h : Changes S W d e) (hS : within allParts S = true) (hW : covers [.every] W = true) :
    Changes S W d (handlerTimeout e) := by
  unfold handlerTimeout
  try dsimp only
  repeat' first
    | (with_reducible assumption)
    | (with_reducible refine ite_after ?_ ?_)
    | (with_reducible apply raise_after)
    | (with_reducible apply handlerReset_after)
    | (with_reducible apply Dev.reach_after)
    | (intro _; try dsimp only)
    | exact within_trans (by decide) hS
    | exact covers_trans (by decide) hW
    | exact rows_every hW _
    | split

theorem wdogKick_after (h : Changes S W d e) (hS : within [.regs, .clk] S = true) (hW : covers [.errors, .one 98752] W = true) (p : Path) (w : Word) :
    Changes S W d (wdogKick p w e) := by
  unfold wdogKick
  try dsimp only
  repeat' first
    | (with_reducible assumption)
    | (with_reducible refine ite_after ?_ ?_)
    | (with_reducible apply wr_after)
    | (with_reducible apply errRange_after)
    | (intro _; try dsimp only)
    | exact within_trans (by decide) hS
    | exact covers_trans (by decide) hW
    | exact rows_one hW (by decide)
    | split
    | (with_reducible apply set_clk_after)
    | ((with_reducible show Changes _ _ _ (Dev.mk _ _ _ _ _ _ _ _ _ _ _ _ _ _ _ _ _ _ _ _ _ _ _ _ _ _ _ _ _ _)); refine mk_after ?_ (.inl rfl) (.inl rfl) (.inl rfl) (.inl rfl) (.inl rfl) (.inl rfl) (.inl rfl) (.inl rfl) (.inl rfl) (.inr (within_mem hS (by decide))) (.inl rfl) (.inl rfl) (.inl rfl) (.inl rfl) (.inl rfl) (.inl rfl) (.inl rfl) (.inl rfl) (.inl rfl) (.inl rfl) (.inl rfl) (.inl rfl) (.inl rfl) (.inl rfl) (.inl rfl) (.inl rfl) (.inl rfl) (.inl rfl) (.inl rfl) (fun can => can.mem) (fun can => can.shadow))

theorem wdogCfgWrite_after (h : Changes S W d e) (hS : within [.regs, .clk] S = true) (hW : covers [.errors, .one 98688, .one 98704, .one 98719, .one 98752] W = true) (p : Path) (w : Word) :
    Changes S W d (wdogCfgWrite p w e) := by
  unfold wdogCfgWrite
  try dsimp only
  repeat' first
    | (with_reducible assumption)
    | (with_reducible refine ite_after ?_ ?_)
    | (with_reducible apply wr_after)
    | (with_reducible apply raise_after)
    | (with_reducible apply accessError_after)
    | (intro _; try dsimp only)
    | exact within_trans (by decide) hS
    | exact covers_trans (by decide +kernel) hW
    | exact rows_one hW (by decide +kernel)
    | exact blockBase_mem _
    | (with_reducible show _ ∈ blockBases; decide)
    | split
    | (with_reducible apply set_clk_after)
    | ((with_reducible show Changes _ _ _ (Dev.mk _ _ _ _ _ _ _ _ _ _ _ _ _ _ _ _ _ _ _ _ _ _ _ _ _ _ _ _ _ _)); refine mk_after ?_ (.inl rfl) (.inl rfl) (.inl rfl) (.inl rfl) (.inl rfl) (.inl rfl) (.inl rfl) (.inl rfl) (.inl rfl) (.inr (within_mem hS (by decide))) (.inl rfl) (.inl rfl) (.inl rfl) (.inl rfl) (.inl rfl) (.inl rfl) (.inl rfl) (.inl rfl) (.inl rfl) (.inl rfl) (.inl rfl) (.inl rfl) (.inl rfl) (.inl rfl) (.inl rfl) (.inl rfl) (.inl rfl) (.inl rfl) (.inl rfl) (fun can => can.mem) (fun can => can.shadow))

theorem eccError_after (h : Changes S W d e) (hS : within [.regs, .pilotFault] S = true) (hW : covers [.one 98816, .one 98817, .one 98818, .one 98848, .one 98880, .one 98896] W = true) (x0 : Nat) (corrected : Bool) (pilot : Bool) :
    Changes S W d (eccError x0 corrected pilot e) := by
  unfold eccError
  try dsimp only
  repeat' first
    | (with_reducible assumption)
    | (with_reducible refine ite_after ?_ ?_)
    | (with_reducible apply wr_after)
    | (with_reducible apply raise_after)
    | (with_reducible apply countSat_after)
    | (intro _; try dsimp only)
    | exact within_trans (by decide) hS
    | exact covers_trans (by decide +kernel) hW
    | exact rows_one hW (by decide +kernel)
    | split
    | (with_reducible apply set_pilotFault_after)
    | ((with_reducible show Changes _ _ _ (Dev.mk _ _ _ _ _ _ _ _ _ _ _ _ _ _ _ _ _ _ _ _ _ _ _ _ _ _ _ _ _ _)); refine mk_after ?_ (.inl rfl) (.inl rfl) (.inl rfl) (.inl rfl) (.inl rfl) (.inl rfl) (.inl rfl) (.inl rfl) (.inl rfl) (.inl rfl) (.inl rfl) (.inl rfl) (.inl rfl) (.inl rfl) (.inl rfl) (.inl rfl) (.inl rfl) (.inl rfl) (.inl rfl) (.inl rfl) (.inl rfl) (.inl rfl) (.inl rfl) (.inl rfl) (.inl rfl) (.inl rfl) (.inl rfl) (.inl rfl) (.inr (within_mem hS (by decide))) (fun can => can.mem) (fun can => can.shadow))

theorem execDoubleTrap_changes {s t : State} (hart : Fin 4) (first : Word) (second : Word) (h : execDoubleTrap hart first second s = .next t) :
    t.pending = s.pending ∧ Changes allParts [.every] s.dev t.dev := by
  unfold execDoubleTrap at h
  refine act_changes (by decide) h fun e h => ?_
  repeat' first
    | (with_reducible assumption)
    | (with_reducible refine ite_after ?_ ?_)
    | (with_reducible apply doubleTrap_after)
    | (intro _; try dsimp only)
    | exact within_trans (by decide) (within_refl _)
    | exact covers_trans (by decide) (covers_refl _)
    | exact rows_every (covers_refl _) _
    | split

theorem execDeckParity_changes {s t : State} (tile : Fin 64) (h : execDeckParity tile s = .next t) :
    t.pending = s.pending ∧ Changes allParts [.every] s.dev t.dev := by
  unfold execDeckParity at h
  refine act_changes (by decide) h fun e h => ?_
  repeat' first
    | (with_reducible assumption)
    | (with_reducible refine ite_after ?_ ?_)
    | (with_reducible apply deckParity_after)
    | (intro _; try dsimp only)
    | exact within_trans (by decide) (within_refl _)
    | exact covers_trans (by decide) (covers_refl _)
    | exact rows_every (covers_refl _) _
    | split

theorem execWdogPre_changes {s t : State} (h : execWdogPre s = .next t) :
    t.pending = s.pending ∧ Changes allParts [.every] s.dev t.dev := by
  unfold execWdogPre at h
  refine act_changes (by decide) h fun e h => ?_
  repeat' first
    | (with_reducible assumption)
    | (with_reducible refine ite_after ?_ ?_)
    | (with_reducible apply wdogPre_after)
    | (intro _; try dsimp only)
    | exact within_trans (by decide) (within_refl _)
    | exact covers_trans (by decide) (covers_refl _)
    | exact rows_every (covers_refl _) _
    | split

theorem execJournalEcc_changes {s t : State} (x0 : Word) (seq : BitVec 64) (h : execJournalEcc x0 seq s = .next t) :
    t.pending = s.pending ∧ Changes allParts [.every] s.dev t.dev := by
  unfold execJournalEcc at h
  refine act_changes (by decide) h fun e h => ?_
  repeat' first
    | (with_reducible assumption)
    | (with_reducible refine ite_after ?_ ?_)
    | (with_reducible apply journalEcc_after)
    | (intro _; try dsimp only)
    | exact within_trans (by decide) (within_refl _)
    | exact covers_trans (by decide) (covers_refl _)
    | exact rows_every (covers_refl _) _
    | split

theorem execCrashSlotWritten_changes {s t : State} (harts : List (List Byte)) (ring : Nat) (h : execCrashSlotWritten harts ring s = .next t) :
    t.pending = s.pending ∧ Changes [.regs, .mem, .out, .freeCtr, .fd] [.one 98546, .one 98576, .one 98584, .one 98591, .one 98592] s.dev t.dev := by
  unfold execCrashSlotWritten at h
  refine act_changes (by decide) h fun e h => ?_
  repeat' first
    | (with_reducible assumption)
    | (with_reducible refine ite_after ?_ ?_)
    | (with_reducible apply crashSlotWritten_after)
    | (intro _; try dsimp only)
    | exact within_trans (by decide) (within_refl _)
    | exact covers_trans (by decide +kernel) (covers_refl _)
    | exact rows_one (covers_refl _) (by decide +kernel)
    | split

theorem execDramDumpWritten_changes {s t : State} (h : execDramDumpWritten s = .next t) :
    t.pending = s.pending ∧ Changes allParts [.every] s.dev t.dev := by
  unfold execDramDumpWritten at h
  refine act_changes (by decide) h fun e h => ?_
  repeat' first
    | (with_reducible assumption)
    | (with_reducible refine ite_after ?_ ?_)
    | (with_reducible apply dramDumpWritten_after)
    | (intro _; try dsimp only)
    | exact within_trans (by decide) (within_refl _)
    | exact covers_trans (by decide) (covers_refl _)
    | exact rows_every (covers_refl _) _
    | split

theorem execHandlerTimeout_changes {s t : State} (h : execHandlerTimeout s = .next t) :
    t.pending = s.pending ∧ Changes allParts [.every] s.dev t.dev := by
  unfold execHandlerTimeout at h
  refine act_changes (by decide) h fun e h => ?_
  repeat' first
    | (with_reducible assumption)
    | (with_reducible refine ite_after ?_ ?_)
    | (with_reducible apply handlerTimeout_after)
    | (intro _; try dsimp only)
    | exact within_trans (by decide) (within_refl _)
    | exact covers_trans (by decide) (covers_refl _)
    | exact rows_every (covers_refl _) _
    | split

theorem execWatchdogExpiry_changes {s t : State} (h : execWatchdogExpiry s = .next t) :
    t.pending = s.pending ∧ Changes allParts [.every] s.dev t.dev := by
  unfold execWatchdogExpiry at h
  refine act_changes (by decide) h fun e h => ?_
  repeat' first
    | (with_reducible assumption)
    | (with_reducible refine ite_after ?_ ?_)
    | (with_reducible apply watchdogExpiry_after)
    | (intro _; try dsimp only)
    | exact within_trans (by decide) (within_refl _)
    | exact covers_trans (by decide) (covers_refl _)
    | exact rows_every (covers_refl _) _
    | split

theorem execWdogKick_changes {s t : State} (p : Path) (w : Word) (h : execWdogKick p w s = .next t) :
    t.pending = s.pending ∧ Changes [.regs, .out, .clk, .hawserStatus, .jtagStatus, .hs] [.errors, .one 98752, .row 0x5014 2 0x800 1, .row 0x5014 2 0x800 24] s.dev t.dev := by
  unfold execWdogKick at h
  refine act_changes (by decide) h fun e h => ?_
  repeat' first
    | (with_reducible assumption)
    | (with_reducible refine ite_after ?_ ?_)
    | (with_reducible apply wdogKick_after)
    | (with_reducible apply onPort_after)
    | (intro _; try dsimp only)
    | exact within_trans (by decide) (within_refl _)
    | exact covers_trans (by decide +kernel) (covers_refl _)
    | exact rows_one (covers_refl _) (by decide +kernel)
    | exact rows_row (covers_refl _) (by decide +kernel) (by decide)
    | split

theorem execWdogEnable_changes {s t : State} (p : Path) (w : Word) (h : execWdogEnable p w s = .next t) :
    t.pending = s.pending ∧ Changes [.regs, .out, .clk, .hawserStatus, .jtagStatus, .hs] [.errors, .one 98688, .one 98704, .one 98719, .one 98752, .row 0x5014 2 0x800 1, .row 0x5014 2 0x800 24] s.dev t.dev := by
  unfold execWdogEnable at h
  refine act_changes (by decide) h fun e h => ?_
  repeat' first
    | (with_reducible assumption)
    | (with_reducible refine ite_after ?_ ?_)
    | (with_reducible apply wdogCfgWrite_after)
    | (with_reducible apply onPort_after)
    | (intro _; try dsimp only)
    | exact within_trans (by decide) (within_refl _)
    | exact covers_trans (by decide +kernel) (covers_refl _)
    | exact rows_one (covers_refl _) (by decide +kernel)
    | exact rows_row (covers_refl _) (by decide +kernel) (by decide)
    | split

theorem execEccError_changes {s t : State} (x0 : Word) (corrected : Bool) (pilot : Bool) (h : execEccError x0 corrected pilot s = .next t) :
    t.pending = s.pending ∧ Changes [.regs, .out, .pilotFault] [.one 98816, .one 98817, .one 98818, .one 98848, .one 98880, .one 98896] s.dev t.dev := by
  unfold execEccError at h
  refine act_changes (by decide) h fun e h => ?_
  repeat' first
    | (with_reducible assumption)
    | (with_reducible refine ite_after ?_ ?_)
    | (with_reducible apply eccError_after)
    | (intro _; try dsimp only)
    | exact within_trans (by decide) (within_refl _)
    | exact covers_trans (by decide +kernel) (covers_refl _)
    | exact rows_one (covers_refl _) (by decide +kernel)
    | split

end

end Sys2Proof.Machine
end

