-- ==== Sys2Proof/Laws/ChangesMaster.lean ====
section
/-!
SUPPORT. What every operation of Machine/Master can change.
-/

set_option Elab.async false
set_option linter.all false

namespace Sys2Proof.Machine

section
variable {S : List Part} {W : List Span} {d e : Dev}

theorem gwBase_mem (n : Nat) : gwBase n ∈ blockBases := by
  have : n % 2 = 0 ∨ n % 2 = 1 := by omega
  unfold gwBase
  rcases this with h | h <;> rw [h] <;> decide

theorem Dev.modGw_after (h : Changes S W d e) (hS : within [.gw] S = true) (hW : covers [] W = true) (n : Nat) (f : GwPort → GwPort) :
    Changes S W d (Dev.modGw e n f) := by
  unfold Dev.modGw
  try dsimp only
  repeat' first
    | (with_reducible assumption)
    | (with_reducible refine ite_after ?_ ?_)
    | (intro _; try dsimp only)
    | exact within_trans (by decide) hS
    | split
    | (with_reducible apply set_gw_after)
    | ((with_reducible show Changes _ _ _ (Dev.mk _ _ _ _ _ _ _ _ _ _ _ _ _ _ _ _ _ _ _ _ _ _ _ _ _ _ _ _ _ _)); refine mk_after ?_ (.inl rfl) (.inl rfl) (.inl rfl) (.inl rfl) (.inl rfl) (.inl rfl) (.inl rfl) (.inl rfl) (.inl rfl) (.inl rfl) (.inl rfl) (.inl rfl) (.inl rfl) (.inl rfl) (.inl rfl) (.inl rfl) (.inl rfl) (.inl rfl) (.inl rfl) (.inl rfl) (.inl rfl) (.inl rfl) (.inr (within_mem hS (by decide))) (.inl rfl) (.inl rfl) (.inl rfl) (.inl rfl) (.inl rfl) (.inl rfl) (fun can => can.mem) (fun can => can.shadow))

theorem sendMaster_after (h : Changes S W d e) (hS : within [.regs, .gw] S = true) (hW : covers [.row 0x5018 2 0x800 16] W = true) (n : Nat) (f : MasterFrame) :
    Changes S W d (sendMaster n f e) := by
  unfold sendMaster
  try dsimp only
  repeat' first
    | (with_reducible assumption)
    | (with_reducible refine ite_after ?_ ?_)
    | (with_reducible apply Dev.modGw_after)
    | (with_reducible apply count_after)
    | (intro _; try dsimp only)
    | exact within_trans (by decide) hS
    | exact covers_trans (by decide) hW
    | exact rows_row hW (by decide) (by decide)
    | split

theorem exitFrame_after (h : Changes S W d e) (hS : within [.regs, .gw] S = true) (hW : covers [.row 0x5018 2 0x800 16] W = true) :
    Changes S W d (exitFrame e) := by
  unfold exitFrame
  try dsimp only
  repeat' first
    | (with_reducible assumption)
    | (with_reducible refine ite_after ?_ ?_)
    | (with_reducible apply sendMaster_after)
    | (with_reducible apply Dev.modGw_after)
    | (intro _; try dsimp only)
    | exact within_trans (by decide) hS
    | exact covers_trans (by decide) hW
    | exact rows_row hW (by decide) (by decide)
    | split

theorem beginCommand_after (h : Changes S W d e) (hS : within [.regs, .gw] S = true) (hW : covers [.row 0x5018 2 0x800 16] W = true) (n : Nat) :
    Changes S W d (beginCommand n e) := by
  unfold beginCommand
  try dsimp only
  repeat' first
    | (with_reducible assumption)
    | (with_reducible refine ite_after ?_ ?_)
    | (with_reducible apply sendMaster_after)
    | (with_reducible apply Dev.modGw_after)
    | (with_reducible apply exitFrame_after)
    | (intro _; try dsimp only)
    | exact within_trans (by decide) hS
    | exact covers_trans (by decide) hW
    | exact rows_row hW (by decide) (by decide)
    | split

theorem startFill_after (h : Changes S W d e) (hS : within [.regs, .gw] S = true) (hW : covers [.row 0x5018 2 0x800 16] W = true) (l : Nat) :
    Changes S W d (startFill l e) := by
  unfold startFill
  try dsimp only
  repeat' first
    | (with_reducible assumption)
    | (with_reducible refine ite_after ?_ ?_)
    | (with_reducible apply sendMaster_after)
    | (with_reducible apply Dev.modGw_after)
    | (intro _; try dsimp only)
    | exact within_trans (by decide) hS
    | exact covers_trans (by decide) hW
    | exact rows_row hW (by decide) (by decide)
    | split

theorem xipServe_after (h : Changes S W d e) (hS : within [.regs, .out, .hawserStatus, .jtagStatus, .gw, .hs] S = true) (hW : covers [.one 184384, .one 184400, .row 0x5014 2 0x800 1, .row 0x5014 2 0x800 24, .row 0x5018 2 0x800 16] W = true) (x0 : Nat) (x1 : XipRead) :
    Changes S W d (xipServe x0 x1 e).2 := by
  induction x0 generalizing x1 e with
  | zero =>
    unfold xipServe
    try dsimp only
    repeat' first
      | (with_reducible assumption)
      | (with_reducible refine ite_after ?_ ?_)
      | (with_reducible apply ih)
      | (with_reducible apply Dev.modGw_after)
      | (with_reducible apply countSat_after)
      | (with_reducible apply startFill_after)
      | (with_reducible apply Dev.hole_after)
      | (with_reducible apply Dev.give_after)
      | (intro _; try dsimp only)
      | exact within_trans (by decide) hS
      | exact covers_trans (by decide +kernel) hW
      | exact rows_one hW (by decide +kernel)
      | exact rows_row hW (by decide +kernel) (by decide)
      | split
  | succ _ ih =>
    unfold xipServe
    try dsimp only
    repeat' first
      | (with_reducible assumption)
      | (with_reducible refine ite_after ?_ ?_)
      | (with_reducible apply ih)
      | (with_reducible apply Dev.modGw_after)
      | (with_reducible apply countSat_after)
      | (with_reducible apply startFill_after)
      | (with_reducible apply Dev.hole_after)
      | (with_reducible apply Dev.give_after)
      | (intro _; try dsimp only)
      | exact within_trans (by decide) hS
      | exact covers_trans (by decide +kernel) hW
      | exact rows_one hW (by decide +kernel)
      | exact rows_row hW (by decide +kernel) (by decide)
      | split

theorem xipProceed_after (h : Changes S W d e) (hS : within [.regs, .out, .hawserStatus, .jtagStatus, .gw, .hs] S = true) (hW : covers [.one 184384, .one 184400, .row 0x5014 2 0x800 1, .row 0x5014 2 0x800 24, .row 0x5018 2 0x800 16] W = true) :
    Changes S W d (xipProceed e) := by
  unfold xipProceed
  try dsimp only
  repeat' first
    | (with_reducible assumption)
    | (with_reducible refine ite_after ?_ ?_)
    | (with_reducible apply xipServe_after)
    | (with_reducible apply Dev.modGw_after)
    | (with_reducible apply each_after)
    | (intro _; try dsimp only)
    | exact within_trans (by decide) hS
    | exact covers_trans (by decide +kernel) hW
    | exact rows_one hW (by decide +kernel)
    | exact rows_row hW (by decide +kernel) (by decide)
    | split
    | (have q := congrArg Prod.snd ‹(_ : Option XipRead × Dev) = _›; dsimp only at q; rw [← q]; clear q)
    | (have q := congrArg Prod.snd ‹(_ : Dev → Dev) = _›; dsimp only at q; rw [← q]; clear q)

theorem xipAccess_after (h : Changes S W d e) (hS : within [.regs, .out, .hawserStatus, .jtagStatus, .gw, .hs] S = true) (hW : covers [.one 184384, .one 184400, .row 0x5014 2 0x800 1, .row 0x5014 2 0x800 24, .row 0x5018 2 0x800 16] W = true) (p : Path) (x : Nat) (size : Nat) (n : Nat) (pad : Nat) :
    Changes S W d (xipAccess p x size n pad e) := by
  unfold xipAccess
  try dsimp only
  repeat' first
    | (with_reducible assumption)
    | (with_reducible refine ite_after ?_ ?_)
    | (with_reducible apply xipProceed_after)
    | (with_reducible apply Dev.modGw_after)
    | (with_reducible apply Dev.hole_after)
    | (with_reducible apply Dev.give_after)
    | (intro _; try dsimp only)
    | exact within_trans (by decide) hS
    | exact covers_trans (by decide +kernel) hW
    | exact rows_one hW (by decide +kernel)
    | exact rows_row hW (by decide +kernel) (by decide)
    | split

theorem xipLoad_after (h : Changes S W d e) (hS : within [.regs, .out, .hawserStatus, .jtagStatus, .gw, .hs] S = true) (hW : covers [.one 184384, .one 184400, .row 0x5014 2 0x800 1, .row 0x5014 2 0x800 24, .row 0x5018 2 0x800 16] W = true) (p : Path) (x : Nat) (n : Nat) :
    Changes S W d (xipLoad p x n e) := by
  unfold xipLoad
  try dsimp only
  repeat' first
    | (with_reducible assumption)
    | (with_reducible refine ite_after ?_ ?_)
    | (with_reducible apply Dev.beginAccess_after)
    | (with_reducible apply xipAccess_after)
    | (intro _; try dsimp only)
    | exact within_trans (by decide) hS
    | exact covers_trans (by decide +kernel) hW
    | exact rows_one hW (by decide +kernel)
    | exact rows_row hW (by decide +kernel) (by decide)
    | split

theorem xipLineFill_after (h : Changes S W d e) (hS : within [.regs, .out, .hawserStatus, .jtagStatus, .gw, .hs] S = true) (hW : covers [.one 184384, .one 184400, .row 0x5014 2 0x800 1, .row 0x5014 2 0x800 24, .row 0x5018 2 0x800 16] W = true) (data : List Byte) :
    Changes S W d (xipLineFill data e) := by
  unfold xipLineFill
  try dsimp only
  repeat' first
    | (with_reducible assumption)
    | (with_reducible refine ite_after ?_ ?_)
    | (with_reducible apply xipProceed_after)
    | (with_reducible apply Dev.modGw_after)
    | (with_reducible apply beginCommand_after)
    | (intro _; try dsimp only)
    | exact within_trans (by decide) hS
    | exact covers_trans (by decide +kernel) hW
    | exact rows_one hW (by decide +kernel)
    | exact rows_row hW (by decide +kernel) (by decide)
    | split

theorem xipEmpty_after (h : Changes S W d e) (hS : within [.gw] S = true) (hW : covers [] W = true) :
    Changes S W d (xipEmpty e) := by
  unfold xipEmpty
  try dsimp only
  repeat' first
    | (with_reducible assumption)
    | (with_reducible refine ite_after ?_ ?_)
    | (with_reducible apply Dev.modGw_after)
    | (intro _; try dsimp only)
    | exact within_trans (by decide) hS
    | split

theorem xipCommand_after (h : Changes S W d e) (hS : within [.gw] S = true) (hW : covers [] W = true) (w : Word) :
    Changes S W d (xipCommand w e) := by
  unfold xipCommand
  try dsimp only
  repeat' first
    | (with_reducible assumption)
    | (with_reducible refine ite_after ?_ ?_)
    | (with_reducible apply xipEmpty_after)
    | (intro _; try dsimp only)
    | exact within_trans (by decide) hS
    | split

theorem xipCfgWrite_after (h : Changes S W d e) (hS : within [.regs, .out, .hawserStatus, .jtagStatus, .gw, .hs] S = true) (hW : covers [.errors, .one 184320, .one 184328, .one 184336, .one 184345, .one 184346, .one 184348, .one 184349, .one 184350, .one 184351, .one 184384, .one 184400, .row 0x5014 2 0x800 1, .row 0x5014 2 0x800 24, .row 0x5018 2 0x800 16] W = true) (p : Path) (w : Word) :
    Changes S W d (xipCfgWrite p w e) := by
  unfold xipCfgWrite
  try dsimp only
  repeat' first
    | (with_reducible assumption)
    | (with_reducible refine ite_after ?_ ?_)
    | (with_reducible apply xipEmpty_after)
    | (with_reducible apply xipProceed_after)
    | (with_reducible apply wr_after)
    | (with_reducible apply flag_after)
    | (with_reducible apply errLocked_after)
    | (with_reducible apply exitFrame_after)
    | (intro _; try dsimp only)
    | exact within_trans (by decide) hS
    | exact covers_trans (by decide +kernel) hW
    | exact rows_one hW (by decide +kernel)
    | exact rows_row hW (by decide +kernel) (by decide)
    | split

theorem masterCommand_after (h : Changes S W d e) (hS : within [.regs, .gw] S = true) (hW : covers [.errors, .row 0x5014 2 0x800 3, .row 0x5018 2 0x800 16, .row 0x5110 2 0x800 16] W = true) (p : Path) (n : Nat) (w : Word) :
    Changes S W d (masterCommand p n w e) := by
  unfold masterCommand
  try dsimp only
  repeat' first
    | (with_reducible assumption)
    | (with_reducible refine ite_after ?_ ?_)
    | (with_reducible apply wr_after)
    | (with_reducible apply Dev.modGw_after)
    | (with_reducible apply raise_after)
    | (with_reducible apply accessError_after)
    | (with_reducible apply beginCommand_after)
    | (intro _; try dsimp only)
    | exact within_trans (by decide) hS
    | exact covers_trans (by decide +kernel) hW
    | exact rows_row hW (by decide +kernel) (by decide)
    | exact blockBase_mem _
    | exact gwBase_mem _
    | (with_reducible show _ ∈ blockBases; decide)
    | split

theorem masterDone_after (h : Changes S W d e) (hS : within [.regs, .out, .hawserStatus, .jtagStatus, .gw, .hs] S = true) (hW : covers [.one 184384, .one 184400, .row 0x5014 2 0x800 1, .row 0x5014 2 0x800 24, .row 0x5018 2 0x800 16, .row 0x5110 2 0x800 16] W = true) (n : Nat) (data : List Word) :
    Changes S W d (masterDone n data e) := by
  unfold masterDone
  try dsimp only
  repeat' first
    | (with_reducible assumption)
    | (with_reducible refine ite_after ?_ ?_)
    | (with_reducible apply xipProceed_after)
    | (with_reducible apply wr_after)
    | (with_reducible apply Dev.modGw_after)
    | (intro _; try dsimp only)
    | exact within_trans (by decide) hS
    | exact covers_trans (by decide +kernel) hW
    | exact rows_one hW (by decide +kernel)
    | exact rows_row hW (by decide +kernel) (by decide)
    | split

theorem mdataWrite_after (h : Changes S W d e) (hS : within [.gw] S = true) (hW : covers [] W = true) (n : Nat) (w : Word) :
    Changes S W d (mdataWrite n w e) := by
  unfold mdataWrite
  try dsimp only
  repeat' first
    | (with_reducible assumption)
    | (with_reducible refine ite_after ?_ ?_)
    | (with_reducible apply Dev.modGw_after)
    | (intro _; try dsimp only)
    | exact within_trans (by decide) hS
    | split

theorem mdataRead_after (h : Changes S W d e) (hS : within [.regs, .out, .gw, .hs] S = true) (hW : covers [.row 0x5014 2 0x800 24] W = true) (p : Path) (n : Nat) :
    Changes S W d (mdataRead p n e) := by
  unfold mdataRead
  try dsimp only
  repeat' first
    | (with_reducible assumption)
    | (with_reducible refine ite_after ?_ ?_)
    | (with_reducible apply Dev.modGw_after)
    | (with_reducible apply Dev.give_after)
    | (intro _; try dsimp only)
    | exact within_trans (by decide) hS
    | exact covers_trans (by decide) hW
    | exact rows_row hW (by decide) (by decide)
    | split

theorem gwCfgWrite_after (h : Changes S W d e) (hS : within [.regs] S = true) (hW : covers [.errors, .row 0x5010 2 0x800 0, .row 0x5010 2 0x800 16, .row 0x5010 2 0x800 25, .row 0x5010 2 0x800 26, .row 0x5010 2 0x800 31] W = true) (p : Path) (n : Nat) (w : Word) :
    Changes S W d (gwCfgWrite p n w e) := by
  unfold gwCfgWrite
  try dsimp only
  repeat' first
    | (with_reducible assumption)
    | (with_reducible refine ite_after ?_ ?_)
    | (with_reducible apply wr_after)
    | (with_reducible apply accessError_after)
    | (intro _; try dsimp only)
    | exact within_trans (by decide) hS
    | exact covers_trans (by decide +kernel) hW
    | exact rows_row hW (by decide +kernel) (by decide)
    | exact blockBase_mem _
    | exact gwBase_mem _
    | (with_reducible show _ ∈ blockBases; decide)
    | split

end

end Sys2Proof.Machine
end

