-- ==== Sys2Proof/Laws/ChangesBus.lean ====
section
/-!
SUPPORT. What every operation of Machine/Bus can change.
-/

set_option Elab.async false
set_option linter.all false

namespace Sys2Proof.Machine

section
variable {S : List Part} {W : List Span} {d e : Dev}

theorem clearRead_after (h : Changes S W d e) (hS : within [.regs] S = true) (hW : covers [.every] W = true) (h0 : RegHit) :
    Changes S W d (clearRead h0 e) := by
  unfold clearRead
  try dsimp only
  repeat' first
    | (with_reducible assumption)
    | (with_reducible refine ite_after ?_ ?_)
    | (with_reducible apply wr_after)
    | (with_reducible apply each_after)
    | (intro _; try dsimp only)
    | exact within_trans (by decide) hS
    | exact covers_trans (by decide) hW
    | exact rows_every hW _
    | split

theorem readReg_after (h : Changes S W d e) (hS : within [.regs, .latch] S = true) (hW : covers [.every] W = true) (p : Path) (x1 : Nat) (h0 : RegHit) :
    Changes S W d (readReg p x1 h0 e).2 := by
  unfold readReg
  try dsimp only
  repeat' first
    | (with_reducible assumption)
    | (with_reducible refine ite_after ?_ ?_)
    | (with_reducible apply clearRead_after)
    | (intro _; try dsimp only)
    | exact within_trans (by decide) hS
    | exact covers_trans (by decide) hW
    | exact rows_every hW _
    | split
    | (with_reducible apply set_latch_after)
    | ((with_reducible show Changes _ _ _ (Dev.mk _ _ _ _ _ _ _ _ _ _ _ _ _ _ _ _ _ _ _ _ _ _ _ _ _ _ _ _ _ _)); refine mk_after ?_ (.inl rfl) (.inl rfl) (.inl rfl) (.inl rfl) (.inl rfl) (.inl rfl) (.inl rfl) (.inl rfl) (.inl rfl) (.inl rfl) (.inl rfl) (.inl rfl) (.inl rfl) (.inl rfl) (.inl rfl) (.inl rfl) (.inl rfl) (.inl rfl) (.inl rfl) (.inl rfl) (.inr (within_mem hS (by decide))) (.inl rfl) (.inl rfl) (.inl rfl) (.inl rfl) (.inl rfl) (.inl rfl) (.inl rfl) (.inl rfl) (fun can => can.mem) (fun can => can.shadow))

theorem memRun_after (h : Changes S W d e) (hS : within [.regs, .mem, .out, .hs] S = true) (hW : covers [.row 0x5014 2 0x800 24] W = true) (x : DramWait) :
    Changes S W d (memRun x e) := by
  unfold memRun
  try dsimp only
  repeat' first
    | (with_reducible assumption)
    | (with_reducible refine ite_after ?_ ?_)
    | (with_reducible apply Dev.give_after)
    | (intro _; try dsimp only)
    | exact within_trans (by decide) hS
    | exact covers_trans (by decide) hW
    | exact rows_row hW (by decide) (by decide)
    | split
    | (with_reducible apply set_mem_after)
    | (with_reducible exact Dev.Canonical.mem ‹_›)
    | (with_reducible apply Memory.wf_write)
    | (with_reducible apply Memory.wf_set)
    | (with_reducible apply Memory.wf_forget)
    | (with_reducible apply Memory.wf_foldl)
    | (with_reducible apply applyEntries_wf)
    | (rename_i can; exact can.mem)
    | ((with_reducible show Changes _ _ _ (Dev.mk _ _ _ _ _ _ _ _ _ _ _ _ _ _ _ _ _ _ _ _ _ _ _ _ _ _ _ _ _ _)); refine mk_after ?_ (.inr (within_mem hS (by decide))) (.inl rfl) (.inl rfl) (.inl rfl) (.inl rfl) (.inl rfl) (.inl rfl) (.inl rfl) (.inl rfl) (.inl rfl) (.inl rfl) (.inl rfl) (.inl rfl) (.inl rfl) (.inl rfl) (.inl rfl) (.inl rfl) (.inl rfl) (.inl rfl) (.inl rfl) (.inl rfl) (.inl rfl) (.inl rfl) (.inl rfl) (.inl rfl) (.inl rfl) (.inl rfl) (.inl rfl) (.inl rfl) (fun can => by repeat' first | (with_reducible exact can.mem) | (with_reducible assumption) | (with_reducible apply Memory.wf_foldl) | intro _ | (with_reducible apply Memory.wf_write) | (with_reducible apply Memory.wf_set) | (with_reducible apply applyEntries_wf) | (with_reducible apply Memory.wf_forget) | (with_reducible apply Memory.wf_filter) | exact can.mem) (fun can => can.shadow))

theorem dramAccess_after (h : Changes S W d e) (hS : within [.regs, .mem, .out, .dramWait, .hs] S = true) (hW : covers [.row 0x5014 2 0x800 24] W = true) (x : DramWait) :
    Changes S W d (dramAccess x e) := by
  unfold dramAccess
  try dsimp only
  repeat' first
    | (with_reducible assumption)
    | (with_reducible refine ite_after ?_ ?_)
    | (with_reducible apply memRun_after)
    | (intro _; try dsimp only)
    | exact within_trans (by decide) hS
    | exact covers_trans (by decide) hW
    | exact rows_row hW (by decide) (by decide)
    | split
    | (with_reducible apply set_dramWait_after)
    | ((with_reducible show Changes _ _ _ (Dev.mk _ _ _ _ _ _ _ _ _ _ _ _ _ _ _ _ _ _ _ _ _ _ _ _ _ _ _ _ _ _)); refine mk_after ?_ (.inl rfl) (.inl rfl) (.inl rfl) (.inl rfl) (.inl rfl) (.inl rfl) (.inl rfl) (.inl rfl) (.inl rfl) (.inl rfl) (.inl rfl) (.inl rfl) (.inl rfl) (.inl rfl) (.inl rfl) (.inl rfl) (.inl rfl) (.inl rfl) (.inl rfl) (.inl rfl) (.inl rfl) (.inr (within_mem hS (by decide))) (.inl rfl) (.inl rfl) (.inl rfl) (.inl rfl) (.inl rfl) (.inl rfl) (.inl rfl) (fun can => can.mem) (fun can => can.shadow))

theorem serveDram_after (h : Changes S W d e) (hS : within [.regs, .mem, .out, .dramWait, .hs] S = true) (hW : covers [.row 0x5014 2 0x800 24] W = true) :
    Changes S W d (serveDram e) := by
  unfold serveDram
  try dsimp only
  repeat' first
    | (with_reducible assumption)
    | (with_reducible refine ite_after ?_ ?_)
    | (with_reducible apply each_after)
    | (with_reducible apply memRun_after)
    | (intro _; try dsimp only)
    | exact within_trans (by decide) hS
    | exact covers_trans (by decide) hW
    | exact rows_row hW (by decide) (by decide)
    | split
    | (with_reducible apply set_dramWait_after)
    | ((with_reducible show Changes _ _ _ (Dev.mk _ _ _ _ _ _ _ _ _ _ _ _ _ _ _ _ _ _ _ _ _ _ _ _ _ _ _ _ _ _)); refine mk_after ?_ (.inl rfl) (.inl rfl) (.inl rfl) (.inl rfl) (.inl rfl) (.inl rfl) (.inl rfl) (.inl rfl) (.inl rfl) (.inl rfl) (.inl rfl) (.inl rfl) (.inl rfl) (.inl rfl) (.inl rfl) (.inl rfl) (.inl rfl) (.inl rfl) (.inl rfl) (.inl rfl) (.inl rfl) (.inr (within_mem hS (by decide))) (.inl rfl) (.inl rfl) (.inl rfl) (.inl rfl) (.inl rfl) (.inl rfl) (.inl rfl) (fun can => can.mem) (fun can => can.shadow))

theorem mramStore_after (h : Changes S W d e) (hS : within [.regs, .mem, .hawserStatus, .jtagStatus] S = true) (hW : covers [.row 0x5014 2 0x800 1] W = true) (p : Path) (x1 : Nat) (bs : List Byte) :
    Changes S W d (mramStore p x1 bs e) := by
  unfold mramStore
  try dsimp only
  repeat' first
    | (with_reducible assumption)
    | (with_reducible refine ite_after ?_ ?_)
    | (with_reducible apply mramWrite_after)
    | (with_reducible apply Dev.hole_after)
    | (intro _; try dsimp only)
    | exact within_trans (by decide) hS
    | exact covers_trans (by decide) hW
    | exact rows_row hW (by decide) (by decide)
    | split

theorem putReg_after (h : Changes S W d e) (hS : within [.regs] S = true) (hW : covers [.every] W = true) (h0 : RegHit) (v : Nat) :
    Changes S W d (putReg h0 v e) := by
  unfold putReg
  try dsimp only
  repeat' first
    | (with_reducible assumption)
    | (with_reducible refine ite_after ?_ ?_)
    | (with_reducible apply wr_after)
    | (with_reducible apply each_after)
    | (intro _; try dsimp only)
    | exact within_trans (by decide) hS
    | exact covers_trans (by decide) hW
    | exact rows_every hW _
    | split

theorem afterWrite_after (h : Changes S W d e) (hS : within [.regs, .mem, .power, .chans, .ts, .lq, .out, .freeCtr, .sv, .hs, .en, .fd] S = true) (hW : covers [.one 514, .one 32989, .one 32990, .one 32991, .one 1704158, .one 1835219, .one 1835262, .one 1835263, .one 1835288, .row 0x5014 2 0x800 6, .row 0x5014 2 0x800 24, .row 0x6014 2 0x800 2, .row 0x6014 2 0x800 31, .row 0x2100c 32 0x40 3, .row 0x2100c 32 0x40 4, .row 0x2100c 32 0x40 5, .row 0x21024 32 0x40 0, .row 0x40034 24 0x2000 2, .row 0x40034 24 0x2000 16, .row 0x40034 24 0x2000 28, .row 0x40034 24 0x2000 29, .row 0x40104 24 0x2000 3, .row 0x40108 24 0x2000 3, .row 0x40108 24 0x2000 29, .row 0x40218 24 0x2000 2, .row 0x40218 24 0x2000 28, .row 0x4021c 24 0x2000 8, .row 0x40304 24 0x2000 1, .row 0x40304 24 0x2000 2, .row 0x40304 24 0x2000 20, .row 0x40304 24 0x2000 22, .row 0x40304 24 0x2000 29, .row 0x40308 24 0x2000 0, .row 0x40308 24 0x2000 8, .row 0x40308 24 0x2000 16, .row 0x40308 24 0x2000 24] W = true) (x0 : Nat) :
    Changes S W d (afterWrite x0 e) := by
  unfold afterWrite
  try dsimp only
  repeat' first
    | (with_reducible assumption)
    | (with_reducible refine ite_after ?_ ?_)
    | (with_reducible apply enCheck_after)
    | (with_reducible apply settlePfail_after)
    | (with_reducible apply lower_after)
    | (intro _; try dsimp only)
    | exact within_trans (by decide) hS
    | exact covers_trans (by decide +kernel) hW
    | exact rows_one hW (by decide +kernel)
    | exact rows_row hW (by decide +kernel) (by decide)
    | split

theorem writeValue_after (h : Changes S W d e) (hS : within [.regs, .mem, .power, .chans, .ts, .lq, .out, .freeCtr, .sv, .hs, .en, .fd] S = true) (hW : covers [.every] W = true) (p : Path) (x1 : Nat) (h0 : RegHit) (v : Nat) :
    Changes S W d (writeValue p x1 h0 v e) := by
  unfold writeValue
  try dsimp only
  repeat' first
    | (with_reducible assumption)
    | (with_reducible refine ite_after ?_ ?_)
    | (with_reducible apply accessError_after)
    | (with_reducible apply putReg_after)
    | (with_reducible apply afterWrite_after)
    | (intro _; try dsimp only)
    | exact within_trans (by decide) hS
    | exact covers_trans (by decide) hW
    | exact rows_every hW _
    | exact blockBase_mem _
    | exact gwBase_mem _
    | (with_reducible show _ ∈ blockBases; decide)
    | split

theorem writeReg_after (h : Changes S W d e) (hS : within [.regs, .mem, .power, .chans, .ts, .lq, .out, .freeCtr, .sv, .stage, .hs, .en, .fd] S = true) (hW : covers [.every] W = true) (p : Path) (x1 : Nat) (h0 : RegHit) (w : Word) :
    Changes S W d (writeReg p x1 h0 w e) := by
  unfold writeReg
  try dsimp only
  repeat' first
    | (with_reducible assumption)
    | (with_reducible refine ite_after ?_ ?_)
    | (with_reducible apply writeValue_after)
    | (with_reducible apply Dev.unstage_after)
    | (with_reducible apply Dev.stageWord_after)
    | (with_reducible apply foldl_after)
    | (intro _; try dsimp only)
    | exact within_trans (by decide) hS
    | exact covers_trans (by decide) hW
    | exact rows_every hW _
    | split

theorem queueCommand_after (h : Changes S W d e) (hS : within [.regs, .lq, .out, .sv, .hs] S = true) (hW : covers [.errors, .row 0x5014 2 0x800 6, .row 0x5014 2 0x800 24, .row 0x2100c 32 0x40 2, .row 0x2100c 32 0x40 24] W = true) (p : Path) (i : Nat) (w : Word) :
    Changes S W d (queueCommand p i w e) := by
  unfold queueCommand
  try dsimp only
  repeat' first
    | (with_reducible assumption)
    | (with_reducible refine ite_after ?_ ?_)
    | (with_reducible apply dropRestCmd_after)
    | (with_reducible apply flushCmd_after)
    | (with_reducible apply markCmd_after)
    | (with_reducible apply rewindCmd_after)
    | (with_reducible apply errRange_after)
    | (with_reducible apply clearMarkCmd_after)
    | (intro _; try dsimp only)
    | exact within_trans (by decide) hS
    | exact covers_trans (by decide +kernel) hW
    | exact rows_row hW (by decide +kernel) (by decide)
    | split

theorem tideCommand_after (h : Changes S W d e) (hS : within [.regs, .time, .power, .ts, .lq, .out, .sv, .tc, .hs] S = true) (hW : covers [.errors, .one 32896, .one 33000, .one 33184, .one 33185, .one 33186, .one 33190, .one 33192, .one 33196, .one 34911, .one 131426, .one 131427, .one 131451, .one 131454, .one 131455, .one 131512, .one 131712, .one 131776, .one 131912, .one 131920, .row 0x4118 4 0x20 0, .row 0x4118 4 0x20 23, .row 0x5014 2 0x800 6, .row 0x5014 2 0x800 24, .row 0x2100c 32 0x40 3, .row 0x2100c 32 0x40 4, .row 0x2100c 32 0x40 5, .row 0x21024 32 0x40 0] W = true) (p : Path) (w : Word) :
    Changes S W d (tideCommand p w e) := by
  unfold tideCommand
  try dsimp only
  repeat' first
    | (with_reducible assumption)
    | (with_reducible refine ite_after ?_ ?_)
    | (with_reducible apply tcStep_after)
    | (with_reducible apply tcHold_after)
    | (with_reducible apply errRange_after)
    | (with_reducible apply tcAcceptStep_after)
    | (intro _; try dsimp only)
    | exact within_trans (by decide) hS
    | exact covers_trans (by decide +kernel) hW
    | exact rows_one hW (by decide +kernel)
    | exact rows_row hW (by decide +kernel) (by decide)
    | split

theorem hawserCommand_after (h : Changes S W d e) (hS : within allParts S = true) (hW : covers [.every] W = true) (p : Path) (w : Word) :
    Changes S W d (hawserCommand p w e) := by
  unfold hawserCommand
  try dsimp only
  repeat' first
    | (with_reducible assumption)
    | (with_reducible refine ite_after ?_ ?_)
    | (with_reducible apply wr_after)
    | (with_reducible apply linkReset_after)
    | (with_reducible apply rediscover_after)
    | (with_reducible apply errRange_after)
    | (with_reducible apply resetDev_after)
    | (with_reducible apply retrain_after)
    | (intro _; try dsimp only)
    | exact within_trans (by decide) hS
    | exact covers_trans (by decide) hW
    | exact rows_every hW _
    | split

theorem calCommand_after (h : Changes S W d e) (hS : within [.regs, .cl] S = true) (hW : covers [.errors, .one 65792, .one 65808, .one 65823] W = true) (p : Path) (w : Word) :
    Changes S W d (calCommand p w e) := by
  unfold calCommand
  try dsimp only
  repeat' first
    | (with_reducible assumption)
    | (with_reducible refine ite_after ?_ ?_)
    | (with_reducible apply commitCmd_after)
    | (with_reducible apply accessError_after)
    | (intro _; try dsimp only)
    | exact within_trans (by decide) hS
    | exact covers_trans (by decide +kernel) hW
    | exact rows_one hW (by decide +kernel)
    | exact blockBase_mem _
    | exact gwBase_mem _
    | (with_reducible show _ ∈ blockBases; decide)
    | split

theorem portCfgWrite_after (h : Changes S W d e) (hS : within allParts S = true) (hW : covers [.every] W = true) (p : Path) (x1 : Nat) (h0 : RegHit) (w : Word) :
    Changes S W d (portCfgWrite p x1 h0 w e) := by
  unfold portCfgWrite
  try dsimp only
  repeat' first
    | (with_reducible assumption)
    | (with_reducible refine ite_after ?_ ?_)
    | (with_reducible apply linkReset_after)
    | (with_reducible apply accessError_after)
    | (with_reducible apply putReg_after)
    | (with_reducible apply retrain_after)
    | (intro _; try dsimp only)
    | exact within_trans (by decide) hS
    | exact covers_trans (by decide) hW
    | exact rows_every hW _
    | exact blockBase_mem _
    | exact gwBase_mem _
    | (with_reducible show _ ∈ blockBases; decide)
    | split

theorem eqCfgWrite_after (h : Changes S W d e) (hS : within [.regs, .chans] S = true) (hW : covers [.every] W = true) (p : Path) (x1 : Nat) (h0 : RegHit) (w : Word) :
    Changes S W d (eqCfgWrite p x1 h0 w e) := by
  unfold eqCfgWrite
  try dsimp only
  repeat' first
    | (with_reducible assumption)
    | (with_reducible refine ite_after ?_ ?_)
    | (with_reducible apply seedClear_after)
    | (with_reducible apply accessError_after)
    | (with_reducible apply putReg_after)
    | (intro _; try dsimp only)
    | exact within_trans (by decide) hS
    | exact covers_trans (by decide) hW
    | exact rows_every hW _
    | exact blockBase_mem _
    | exact gwBase_mem _
    | (with_reducible show _ ∈ blockBases; decide)
    | split

theorem surveyWrite_after (h : Changes S W d e) (hS : within [.regs, .chans, .ts, .lq, .out, .freeCtr, .sv, .hs] S = true) (hW : covers [.errors, .one 1835219, .one 1835232, .one 1835242, .one 1835248, .one 1835261, .one 1835262, .one 1835263, .one 1835286, .one 1835287, .one 1835288, .row 0x5014 2 0x800 6, .row 0x5014 2 0x800 24, .row 0x2100c 32 0x40 3, .row 0x2100c 32 0x40 4, .row 0x2100c 32 0x40 5, .row 0x21024 32 0x40 0, .row 0x40034 24 0x2000 2, .row 0x40034 24 0x2000 16, .row 0x40034 24 0x2000 28, .row 0x40034 24 0x2000 29, .row 0x40104 24 0x2000 3, .row 0x40108 24 0x2000 3, .row 0x40108 24 0x2000 29, .row 0x40218 24 0x2000 2, .row 0x40218 24 0x2000 28, .row 0x4021c 24 0x2000 8, .row 0x40304 24 0x2000 1, .row 0x40304 24 0x2000 2, .row 0x40304 24 0x2000 20, .row 0x40304 24 0x2000 22, .row 0x40304 24 0x2000 29, .row 0x40308 24 0x2000 0, .row 0x40308 24 0x2000 8, .row 0x40308 24 0x2000 16, .row 0x40308 24 0x2000 24] W = true) (p : Path) (w : Word) :
    Changes S W d (surveyWrite p w e) := by
  unfold surveyWrite
  try dsimp only
  repeat' first
    | (with_reducible assumption)
    | (with_reducible refine ite_after ?_ ?_)
    | (with_reducible apply surveyGo_after)
    | (with_reducible apply accessError_after)
    | (with_reducible apply surveyAbort_after)
    | (intro _; try dsimp only)
    | exact within_trans (by decide) hS
    | exact covers_trans (by decide +kernel) hW
    | exact rows_one hW (by decide +kernel)
    | exact rows_row hW (by decide +kernel) (by decide)
    | exact blockBase_mem _
    | exact gwBase_mem _
    | (with_reducible show _ ∈ blockBases; decide)
    | split

theorem tableWrite_after (h : Changes S W d e) (hS : within [.regs, .ts] S = true) (hW : covers [.errors] W = true) (p : Path) (x1 : Nat) (w : Word) :
    Changes S W d (tableWrite p x1 w e) := by
  unfold tableWrite
  try dsimp only
  repeat' first
    | (with_reducible assumption)
    | (with_reducible refine ite_after ?_ ?_)
    | (with_reducible apply Dev.modTable_after)
    | (with_reducible apply accessError_after)
    | (intro _; try dsimp only)
    | exact within_trans (by decide) hS
    | exact covers_trans (by decide) hW
    | exact blockBase_mem _
    | exact gwBase_mem _
    | (with_reducible show _ ∈ blockBases; decide)
    | split

theorem storeWord_after (h : Changes S W d e) (hS : within allParts S = true) (hW : covers [.every] W = true) (p : Path) (x1 : Nat) (h0 : RegHit) (w : Word) (frs : List (Fin 24 × RxFrame)) :
    Changes S W d (storeWord p x1 h0 w frs e) := by
  unfold storeWord
  try dsimp only
  repeat' first
    | (with_reducible assumption)
    | (with_reducible refine ite_after ?_ ?_)
    | (with_reducible apply wdogCfgWrite_after)
    | (with_reducible apply calCommand_after)
    | (with_reducible apply srcWrite_after)
    | (with_reducible apply writeReg_after)
    | (with_reducible apply ceRspWrite_after)
    | (with_reducible apply rampInOne_after)
    | (with_reducible apply ceLockWrite_after)
    | (with_reducible apply xipCommand_after)
    | (with_reducible apply queueCfgWriteCmd_after)
    | (with_reducible apply wr_after)
    | (with_reducible apply queuePushCmd_after)
    | (with_reducible apply mdataWrite_after)
    | (with_reducible apply offsetCommit_after)
    | (with_reducible apply gcReset_after)
    | (with_reducible apply tideCommand_after)
    | (with_reducible apply masterCommit_after)
    | (with_reducible apply xipCfgWrite_after)
    | (with_reducible apply pcmdWord_after)
    | (with_reducible apply surveyWrite_after)
    | (with_reducible apply pwStateWrite_after)
    | (with_reducible apply hsSendWord_after)
    | (with_reducible apply pulseCtl_after)
    | (with_reducible apply masterCommand_after)
    | (with_reducible apply grantRequest_after)
    | (with_reducible apply queueCommand_after)
    | (with_reducible apply hawserCommand_after)
    | (with_reducible apply tableWrite_after)
    | (with_reducible apply gwCfgWrite_after)
    | (with_reducible apply txAmpWrite_after)
    | (with_reducible apply mdioCmd_after)
    | (with_reducible apply wdogKick_after)
    | (with_reducible apply eqCfgWrite_after)
    | (with_reducible apply kcmdWrite_after)
    | (with_reducible apply kdataWrite_after)
    | (with_reducible apply Dev.stageWord_after)
    | (with_reducible apply ceEnable_after)
    | (with_reducible apply nbSelWrite_after)
    | (with_reducible apply mboxWord_after)
    | (with_reducible apply portCfgWrite_after)
    | (with_reducible apply ringTailWrite_after)
    | (intro _; try dsimp only)
    | exact within_trans (by decide) hS
    | exact covers_trans (by decide) hW
    | exact rows_every hW _
    | split

theorem unassigned_after (h : Changes S W d e) (hS : within [.regs, .hawserStatus, .jtagStatus, .pilotFault] S = true) (hW : covers [.row 0x5014 2 0x800 1] W = true) (p : Path) (store : Bool) (x2 : Nat) :
    Changes S W d (unassigned p store x2 e) := by
  unfold unassigned
  try dsimp only
  repeat' first
    | (with_reducible assumption)
    | (with_reducible refine ite_after ?_ ?_)
    | (with_reducible apply Dev.hole_after)
    | (intro _; try dsimp only)
    | exact within_trans (by decide) hS
    | exact covers_trans (by decide) hW
    | exact rows_row hW (by decide) (by decide)
    | split
    | (with_reducible apply set_pilotFault_after)
    | ((with_reducible show Changes _ _ _ (Dev.mk _ _ _ _ _ _ _ _ _ _ _ _ _ _ _ _ _ _ _ _ _ _ _ _ _ _ _ _ _ _)); refine mk_after ?_ (.inl rfl) (.inl rfl) (.inl rfl) (.inl rfl) (.inl rfl) (.inl rfl) (.inl rfl) (.inl rfl) (.inl rfl) (.inl rfl) (.inl rfl) (.inl rfl) (.inl rfl) (.inl rfl) (.inl rfl) (.inl rfl) (.inl rfl) (.inl rfl) (.inl rfl) (.inl rfl) (.inl rfl) (.inl rfl) (.inl rfl) (.inl rfl) (.inl rfl) (.inl rfl) (.inl rfl) (.inl rfl) (.inr (within_mem hS (by decide))) (fun can => can.mem) (fun can => can.shadow))

theorem portReads_after (h : Changes S W d e) (hS : within [.regs, .mem, .chans, .lq, .out, .freeCtr, .cy, .hawserStatus, .jtagStatus, .sv, .gw, .hs] S = true) (hW : covers [.errors, .one 1704158, .one 1704159, .row 0x5014 2 0x800 1, .row 0x5014 2 0x800 6, .row 0x5014 2 0x800 24, .row 0x2100c 32 0x40 1, .row 0x2100c 32 0x40 3, .row 0x2100c 32 0x40 4, .row 0x2100c 32 0x40 5, .row 0x2100c 32 0x40 24, .row 0x21024 32 0x40 0, .row 0x40304 24 0x2000 1, .row 0x40308 24 0x2000 8, .row 0x40308 24 0x2000 24, .row 0x403e4 24 0x2000 31] W = true) (p : Path) (x1 : Nat) (n : Nat) :
    Changes S W d (portReads p x1 n e) := by
  unfold portReads
  try dsimp only
  repeat' first
    | (with_reducible assumption)
    | (with_reducible refine ite_after ?_ ?_)
    | (with_reducible apply mdataRead_after)
    | (with_reducible apply kdataRead_after)
    | (with_reducible apply mboxRead_after)
    | (with_reducible apply each_after)
    | (with_reducible apply popBurst_after)
    | (with_reducible apply Dev.hole_after)
    | (with_reducible apply Dev.give_after)
    | (with_reducible apply runtimeTakes_after)
    | (intro _; try dsimp only)
    | exact within_trans (by decide) hS
    | exact covers_trans (by decide +kernel) hW
    | exact rows_one hW (by decide +kernel)
    | exact rows_row hW (by decide +kernel) (by decide)
    | split

theorem loadWord_after (h : Changes S W d e) (hS : within [.regs, .mem, .chans, .lq, .out, .freeCtr, .cy, .hawserStatus, .ce, .shadow, .jtagStatus, .sv, .latch, .gw, .hs] S = true) (hW : covers [.every] W = true) (p : Path) (x1 : Nat) :
    Changes S W d (loadWord p x1 e) := by
  unfold loadWord
  try dsimp only
  repeat' first
    | (with_reducible assumption)
    | (with_reducible refine ite_after ?_ ?_)
    | (with_reducible apply shadowBurst_after)
    | (with_reducible apply portReads_after)
    | (with_reducible apply readReg_after)
    | (with_reducible apply Dev.hole_after)
    | (with_reducible apply Dev.give_after)
    | (intro _; try dsimp only)
    | exact within_trans (by decide) hS
    | exact covers_trans (by decide) hW
    | exact rows_every hW _
    | split

theorem storeAddr_after (h : Changes S W d e) (hS : within allParts S = true) (hW : covers [.every] W = true) (p : Path) (x1 : Nat) (w : Word) (narrow : Bool) (frs : List (Fin 24 × RxFrame)) :
    Changes S W d (storeAddr p x1 w narrow frs e) := by
  unfold storeAddr
  try dsimp only
  repeat' first
    | (with_reducible assumption)
    | (with_reducible refine ite_after ?_ ?_)
    | (with_reducible apply shadowBurst_after)
    | (with_reducible apply errWidth_after)
    | (with_reducible apply Dev.hole_after)
    | (with_reducible apply storeWord_after)
    | (intro _; try dsimp only)
    | exact within_trans (by decide) hS
    | exact covers_trans (by decide) hW
    | exact rows_every hW _
    | split

theorem memLoad_after (h : Changes S W d e) (hS : within [.regs, .mem, .out, .hawserStatus, .jtagStatus, .dramWait, .gw, .hs] S = true) (hW : covers [.one 184384, .one 184400, .row 0x5014 2 0x800 1, .row 0x5014 2 0x800 24, .row 0x5018 2 0x800 16] W = true) (p : Path) (x1 : Nat) (n : Nat) (pad : Nat) :
    Changes S W d (memLoad p x1 n pad e) := by
  unfold memLoad
  try dsimp only
  repeat' first
    | (with_reducible assumption)
    | (with_reducible refine ite_after ?_ ?_)
    | (with_reducible apply dramAccess_after)
    | (with_reducible apply Dev.hole_after)
    | (with_reducible apply xipAccess_after)
    | (with_reducible apply Dev.give_after)
    | (with_reducible apply memRun_after)
    | (intro _; try dsimp only)
    | exact within_trans (by decide) hS
    | exact covers_trans (by decide +kernel) hW
    | exact rows_one hW (by decide +kernel)
    | exact rows_row hW (by decide +kernel) (by decide)
    | split

theorem memStore_after (h : Changes S W d e) (hS : within [.regs, .mem, .out, .hawserStatus, .jtagStatus, .dramWait, .hs] S = true) (hW : covers [.row 0x5014 2 0x800 1, .row 0x5014 2 0x800 24] W = true) (p : Path) (x1 : Nat) (bs : List Byte) :
    Changes S W d (memStore p x1 bs e) := by
  unfold memStore
  try dsimp only
  repeat' first
    | (with_reducible assumption)
    | (with_reducible refine ite_after ?_ ?_)
    | (with_reducible apply dramAccess_after)
    | (with_reducible apply Dev.hole_after)
    | (with_reducible apply mramStore_after)
    | (intro _; try dsimp only)
    | exact within_trans (by decide) hS
    | exact covers_trans (by decide) hW
    | exact rows_row hW (by decide) (by decide)
    | split

theorem putBehind_after (h : Changes S W d e) (hS : within [.lq] S = true) (hW : covers [] W = true) (i : Nat) (b : BurstRest) :
    Changes S W d (putBehind i b e) := by
  unfold putBehind
  try dsimp only
  repeat' first
    | (with_reducible assumption)
    | (with_reducible refine ite_after ?_ ?_)
    | (with_reducible apply Dev.modQ_after)
    | (intro _; try dsimp only)
    | exact within_trans (by decide) hS
    | split

theorem burstReads_after (h : Changes S W d e) (hS : within [.regs, .mem, .chans, .lq, .out, .freeCtr, .cy, .hawserStatus, .ce, .shadow, .jtagStatus, .sv, .latch, .gw, .hs] S = true) (hW : covers [.every] W = true) (p : Path) (code : Nat) (pad : Nat) (x3 : Nat) (x4 : Nat) :
    Changes S W d (burstReads p code pad x3 x4 e) := by
  induction x3 generalizing x4 e with
  | zero =>
    unfold burstReads
    try dsimp only
    repeat' first
      | (with_reducible assumption)
      | (with_reducible refine ite_after ?_ ?_)
      | (with_reducible apply ih)
      | (with_reducible apply loadWord_after)
      | (with_reducible apply putBehind_after)
      | (with_reducible apply Dev.give_after)
      | (with_reducible apply frameCode_after)
      | (intro _; try dsimp only)
      | exact within_trans (by decide) hS
      | exact covers_trans (by decide) hW
      | exact rows_every hW _
      | split
  | succ _ ih =>
    unfold burstReads
    try dsimp only
    repeat' first
      | (with_reducible assumption)
      | (with_reducible refine ite_after ?_ ?_)
      | (with_reducible apply ih)
      | (with_reducible apply loadWord_after)
      | (with_reducible apply putBehind_after)
      | (with_reducible apply Dev.give_after)
      | (with_reducible apply frameCode_after)
      | (intro _; try dsimp only)
      | exact within_trans (by decide) hS
      | exact covers_trans (by decide) hW
      | exact rows_every hW _
      | split

theorem burstsGoOn_after (h : Changes S W d e) (hS : within [.regs, .mem, .chans, .lq, .out, .freeCtr, .cy, .hawserStatus, .ce, .shadow, .jtagStatus, .sv, .latch, .gw, .hs] S = true) (hW : covers [.every] W = true) :
    Changes S W d (burstsGoOn e) := by
  unfold burstsGoOn
  try dsimp only
  repeat' first
    | (with_reducible assumption)
    | (with_reducible refine ite_after ?_ ?_)
    | (with_reducible apply each_after)
    | (with_reducible apply burstReads_after)
    | (with_reducible apply Dev.modQ_after)
    | (intro _; try dsimp only)
    | exact within_trans (by decide) hS
    | exact covers_trans (by decide) hW
    | exact rows_every hW _
    | split

theorem readBurst_after (h : Changes S W d e) (hS : within [.regs, .mem, .chans, .lq, .out, .freeCtr, .cy, .hawserStatus, .ce, .shadow, .jtagStatus, .sv, .latch, .dramWait, .gw, .hs] S = true) (hW : covers [.every] W = true) (p : Path) (x1 : Nat) (n : Nat) :
    Changes S W d (readBurst p x1 n e) := by
  unfold readBurst
  try dsimp only
  repeat' first
    | (with_reducible assumption)
    | (with_reducible refine ite_after ?_ ?_)
    | (with_reducible apply shadowBurst_after)
    | (with_reducible apply portReads_after)
    | (with_reducible apply Dev.hole_after)
    | (with_reducible apply Dev.give_after)
    | (with_reducible apply burstReads_after)
    | (with_reducible apply memLoad_after)
    | (with_reducible apply Dev.pageEnd_after)
    | (intro _; try dsimp only)
    | exact within_trans (by decide) hS
    | exact covers_trans (by decide) hW
    | exact rows_every hW _
    | split

theorem pilotLoads_after (h : Changes S W d e) (hS : within [.regs, .mem, .chans, .lq, .out, .freeCtr, .cy, .hawserStatus, .ce, .shadow, .jtagStatus, .sv, .latch, .dramWait, .gw, .hs, .pilotFault] S = true) (hW : covers [.every] W = true) (x0 : Nat) (x1 : Nat) :
    Changes S W d (pilotLoads x0 x1 e) := by
  induction x1 generalizing x0 e with
  | zero =>
    unfold pilotLoads
    try dsimp only
    repeat' first
      | (with_reducible assumption)
      | (with_reducible refine ite_after ?_ ?_)
      | (with_reducible apply ih)
      | (with_reducible apply loadWord_after)
      | (with_reducible apply unassigned_after)
      | (with_reducible apply memLoad_after)
      | (intro _; try dsimp only)
      | exact within_trans (by decide) hS
      | exact covers_trans (by decide) hW
      | exact rows_every hW _
      | split
      | (have q := congrArg Prod.snd ‹(_ : Dev → Dev) = _›; dsimp only at q; rw [← q]; clear q)
  | succ _ ih =>
    unfold pilotLoads
    try dsimp only
    repeat' first
      | (with_reducible assumption)
      | (with_reducible refine ite_after ?_ ?_)
      | (with_reducible apply ih)
      | (with_reducible apply loadWord_after)
      | (with_reducible apply unassigned_after)
      | (with_reducible apply memLoad_after)
      | (intro _; try dsimp only)
      | exact within_trans (by decide) hS
      | exact covers_trans (by decide) hW
      | exact rows_every hW _
      | split
      | (have q := congrArg Prod.snd ‹(_ : Dev → Dev) = _›; dsimp only at q; rw [← q]; clear q)

theorem narrowed_after (h : Changes S W d e) (hS : within [.out] S = true) (hW : covers [] W = true) (x0 : Nat) (n : Nat) (old : Nat) :
    Changes S W d (narrowed x0 n old e) := by
  unfold narrowed
  try dsimp only
  repeat' first
    | (with_reducible assumption)
    | (with_reducible refine ite_after ?_ ?_)
    | (intro _; try dsimp only)
    | exact within_trans (by decide) hS
    | split
    | (with_reducible apply set_out_after)
    | ((with_reducible show Changes _ _ _ (Dev.mk _ _ _ _ _ _ _ _ _ _ _ _ _ _ _ _ _ _ _ _ _ _ _ _ _ _ _ _ _ _)); refine mk_after ?_ (.inl rfl) (.inl rfl) (.inl rfl) (.inl rfl) (.inl rfl) (.inl rfl) (.inl rfl) (.inr (within_mem hS (by decide))) (.inl rfl) (.inl rfl) (.inl rfl) (.inl rfl) (.inl rfl) (.inl rfl) (.inl rfl) (.inl rfl) (.inl rfl) (.inl rfl) (.inl rfl) (.inl rfl) (.inl rfl) (.inl rfl) (.inl rfl) (.inl rfl) (.inl rfl) (.inl rfl) (.inl rfl) (.inl rfl) (.inl rfl) (fun can => can.mem) (fun can => can.shadow))

theorem narrowLoad_after (h : Changes S W d e) (hS : within [.regs, .mem, .chans, .lq, .out, .freeCtr, .cy, .hawserStatus, .ce, .shadow, .jtagStatus, .sv, .latch, .dramWait, .gw, .hs, .pilotFault] S = true) (hW : covers [.every] W = true) (x0 : Nat) (n : Nat) :
    Changes S W d (narrowLoad x0 n e) := by
  unfold narrowLoad
  try dsimp only
  repeat' first
    | (with_reducible assumption)
    | (with_reducible refine ite_after ?_ ?_)
    | (with_reducible apply loadWord_after)
    | (with_reducible apply narrowed_after)
    | (with_reducible apply unassigned_after)
    | (with_reducible apply memLoad_after)
    | (intro _; try dsimp only)
    | exact within_trans (by decide) hS
    | exact covers_trans (by decide) hW
    | exact rows_every hW _
    | split

theorem busRead_after (h : Changes S W d e) (hS : within [.regs, .mem, .chans, .lq, .out, .freeCtr, .cy, .hawserStatus, .ce, .shadow, .jtagStatus, .sv, .latch, .dramWait, .gw, .hs, .pilotFault] S = true) (hW : covers [.every] W = true) (p : Path) (x1 : Nat) (n : Nat) :
    Changes S W d (busRead p x1 n e) := by
  unfold busRead
  try dsimp only
  repeat' first
    | (with_reducible assumption)
    | (with_reducible refine ite_after ?_ ?_)
    | (with_reducible apply readBurst_after)
    | (with_reducible apply Dev.beginAccess_after)
    | (with_reducible apply pilotLoads_after)
    | (with_reducible apply burstsGoOn_after)
    | (intro _; try dsimp only)
    | exact within_trans (by decide) hS
    | exact covers_trans (by decide) hW
    | exact rows_every hW _
    | split

theorem busLoad_after (h : Changes S W d e) (hS : within [.regs, .mem, .chans, .lq, .out, .freeCtr, .cy, .hawserStatus, .ce, .shadow, .jtagStatus, .sv, .latch, .dramWait, .gw, .hs, .pilotFault] S = true) (hW : covers [.every] W = true) (p : Path) (x1 : Nat) (n : Nat) :
    Changes S W d (busLoad p x1 n e) := by
  unfold busLoad
  try dsimp only
  repeat' first
    | (with_reducible assumption)
    | (with_reducible refine ite_after ?_ ?_)
    | (with_reducible apply narrowLoad_after)
    | (with_reducible apply busRead_after)
    | (with_reducible apply burstsGoOn_after)
    | (intro _; try dsimp only)
    | exact within_trans (by decide) hS
    | exact covers_trans (by decide) hW
    | exact rows_every hW _
    | split

theorem writeBurst_after (h : Changes S W d e) (hS : within allParts S = true) (hW : covers [.every] W = true) (p : Path) (x1 : Nat) (bs : List Byte) (frs : List (Fin 24 × RxFrame)) :
    Changes S W d (writeBurst p x1 bs frs e) := by
  unfold writeBurst
  try dsimp only
  repeat' first
    | (with_reducible assumption)
    | (with_reducible refine ite_after ?_ ?_)
    | (with_reducible apply shadowBurst_after)
    | (with_reducible apply each_after)
    | (with_reducible apply memStore_after)
    | (with_reducible apply Dev.hole_after)
    | (with_reducible apply storeAddr_after)
    | (with_reducible apply Dev.pageEnd_after)
    | (intro _; try dsimp only)
    | exact within_trans (by decide) hS
    | exact covers_trans (by decide) hW
    | exact rows_every hW _
    | split

theorem pilotStores_after (h : Changes S W d e) (hS : within allParts S = true) (hW : covers [.every] W = true) (frs : List (Fin 24 × RxFrame)) (x1 : Nat) (x2 : List Word) :
    Changes S W d (pilotStores frs x1 x2 e) := by
  induction x2 generalizing x1 e with
  | nil =>
    unfold pilotStores
    try dsimp only
    repeat' first
      | (with_reducible assumption)
      | (with_reducible refine ite_after ?_ ?_)
      | (with_reducible apply ih)
      | (with_reducible apply memStore_after)
      | (with_reducible apply storeAddr_after)
      | (with_reducible apply unassigned_after)
      | (intro _; try dsimp only)
      | exact within_trans (by decide) hS
      | exact covers_trans (by decide) hW
      | exact rows_every hW _
      | split
  | cons _ _ ih =>
    unfold pilotStores
    try dsimp only
    repeat' first
      | (with_reducible assumption)
      | (with_reducible refine ite_after ?_ ?_)
      | (with_reducible apply ih)
      | (with_reducible apply memStore_after)
      | (with_reducible apply storeAddr_after)
      | (with_reducible apply unassigned_after)
      | (intro _; try dsimp only)
      | exact within_trans (by decide) hS
      | exact covers_trans (by decide) hW
      | exact rows_every hW _
      | split

theorem busWrite_after (h : Changes S W d e) (hS : within allParts S = true) (hW : covers [.every] W = true) (p : Path) (x1 : Nat) (bs : List Byte) (frs : List (Fin 24 × RxFrame)) :
    Changes S W d (busWrite p x1 bs frs e) := by
  unfold busWrite
  try dsimp only
  repeat' first
    | (with_reducible assumption)
    | (with_reducible refine ite_after ?_ ?_)
    | (with_reducible apply writeBurst_after)
    | (with_reducible apply memStore_after)
    | (with_reducible apply Dev.beginAccess_after)
    | (with_reducible apply pilotStores_after)
    | (with_reducible apply storeAddr_after)
    | (with_reducible apply burstsGoOn_after)
    | (with_reducible apply unassigned_after)
    | (intro _; try dsimp only)
    | exact within_trans (by decide) hS
    | exact covers_trans (by decide) hW
    | exact rows_every hW _
    | split

theorem pilotAccess_after (h : Changes S W d e) (hS : within [.pilotFault] S = true) (hW : covers [] W = true) (store : Bool) (customer : Bool) (x2 : Nat) :
    Changes S W d (pilotAccess store customer x2 e) := by
  unfold pilotAccess
  try dsimp only
  repeat' first
    | (with_reducible assumption)
    | (with_reducible refine ite_after ?_ ?_)
    | (intro _; try dsimp only)
    | exact within_trans (by decide) hS
    | split
    | (with_reducible apply set_pilotFault_after)
    | ((with_reducible show Changes _ _ _ (Dev.mk _ _ _ _ _ _ _ _ _ _ _ _ _ _ _ _ _ _ _ _ _ _ _ _ _ _ _ _ _ _)); refine mk_after ?_ (.inl rfl) (.inl rfl) (.inl rfl) (.inl rfl) (.inl rfl) (.inl rfl) (.inl rfl) (.inl rfl) (.inl rfl) (.inl rfl) (.inl rfl) (.inl rfl) (.inl rfl) (.inl rfl) (.inl rfl) (.inl rfl) (.inl rfl) (.inl rfl) (.inl rfl) (.inl rfl) (.inl rfl) (.inl rfl) (.inl rfl) (.inl rfl) (.inl rfl) (.inl rfl) (.inl rfl) (.inl rfl) (.inr (within_mem hS (by decide))) (fun can => can.mem) (fun can => can.shadow))

theorem execMasterCommand_changes {s t : State} (p : Path) (n : Fin 2) (w : Word) (h : execMasterCommand p n w s = .next t) :
    t.pending = s.pending ∧ Changes [.regs, .out, .hawserStatus, .jtagStatus, .gw, .hs] [.errors, .row 0x5014 2 0x800 1, .row 0x5014 2 0x800 3, .row 0x5014 2 0x800 24, .row 0x5018 2 0x800 16, .row 0x5110 2 0x800 16] s.dev t.dev := by
  unfold execMasterCommand at h
  refine act_changes (by decide) h fun e h => ?_
  repeat' first
    | (with_reducible assumption)
    | (with_reducible refine ite_after ?_ ?_)
    | (with_reducible apply masterCommand_after)
    | (with_reducible apply onPort_after)
    | (intro _; try dsimp only)
    | exact within_trans (by decide) (within_refl _)
    | exact covers_trans (by decide +kernel) (covers_refl _)
    | exact rows_row (covers_refl _) (by decide +kernel) (by decide)
    | split

theorem execMasterCommandDone_changes {s t : State} (n : Fin 2) (data : List Word) (h : execMasterCommandDone n data s = .next t) :
    t.pending = s.pending ∧ Changes [.regs, .out, .hawserStatus, .jtagStatus, .gw, .hs] [.one 184384, .one 184400, .row 0x5014 2 0x800 1, .row 0x5014 2 0x800 24, .row 0x5018 2 0x800 16, .row 0x5110 2 0x800 16] s.dev t.dev := by
  unfold execMasterCommandDone at h
  refine act_changes (by decide) h fun e h => ?_
  repeat' first
    | (with_reducible assumption)
    | (with_reducible refine ite_after ?_ ?_)
    | (with_reducible apply masterDone_after)
    | (intro _; try dsimp only)
    | exact within_trans (by decide) (within_refl _)
    | exact covers_trans (by decide +kernel) (covers_refl _)
    | exact rows_one (covers_refl _) (by decide +kernel)
    | exact rows_row (covers_refl _) (by decide +kernel) (by decide)
    | split

theorem execMdataWrite_changes {s t : State} (p : Path) (n : Fin 2) (w : Word) (h : execMdataWrite p n w s = .next t) :
    t.pending = s.pending ∧ Changes [.regs, .out, .hawserStatus, .jtagStatus, .gw, .hs] [.row 0x5014 2 0x800 1, .row 0x5014 2 0x800 24] s.dev t.dev := by
  unfold execMdataWrite at h
  refine act_changes (by decide) h fun e h => ?_
  repeat' first
    | (with_reducible assumption)
    | (with_reducible refine ite_after ?_ ?_)
    | (with_reducible apply mdataWrite_after)
    | (with_reducible apply onPort_after)
    | (intro _; try dsimp only)
    | exact within_trans (by decide) (within_refl _)
    | exact covers_trans (by decide) (covers_refl _)
    | exact rows_row (covers_refl _) (by decide) (by decide)
    | split

theorem execMdataRead_changes {s t : State} (p : Path) (n : Fin 2) (h : execMdataRead p n s = .next t) :
    t.pending = s.pending ∧ Changes [.regs, .out, .hawserStatus, .jtagStatus, .gw, .hs] [.row 0x5014 2 0x800 1, .row 0x5014 2 0x800 24] s.dev t.dev := by
  unfold execMdataRead at h
  refine act_changes (by decide) h fun e h => ?_
  repeat' first
    | (with_reducible assumption)
    | (with_reducible refine ite_after ?_ ?_)
    | (with_reducible apply mdataRead_after)
    | (with_reducible apply onPort_after)
    | (intro _; try dsimp only)
    | exact within_trans (by decide) (within_refl _)
    | exact covers_trans (by decide) (covers_refl _)
    | exact rows_row (covers_refl _) (by decide) (by decide)
    | split

theorem execXipRead_changes {s t : State} (p : Path) (x : Fin 268435456) (size : Fin 4) (h : execXipRead p x size s = .next t) :
    t.pending = s.pending ∧ Changes [.regs, .out, .hawserStatus, .jtagStatus, .gw, .hs] [.one 184384, .one 184400, .row 0x5014 2 0x800 1, .row 0x5014 2 0x800 24, .row 0x5018 2 0x800 16] s.dev t.dev := by
  unfold execXipRead at h
  refine act_changes (by decide) h fun e h => ?_
  repeat' first
    | (with_reducible assumption)
    | (with_reducible refine ite_after ?_ ?_)
    | (with_reducible apply xipLoad_after)
    | (intro _; try dsimp only)
    | exact within_trans (by decide) (within_refl _)
    | exact covers_trans (by decide +kernel) (covers_refl _)
    | exact rows_one (covers_refl _) (by decide +kernel)
    | exact rows_row (covers_refl _) (by decide +kernel) (by decide)
    | split

theorem execXipLineFill_changes {s t : State} (data : List Byte) (h : execXipLineFill data s = .next t) :
    t.pending = s.pending ∧ Changes [.regs, .out, .hawserStatus, .jtagStatus, .gw, .hs] [.one 184384, .one 184400, .row 0x5014 2 0x800 1, .row 0x5014 2 0x800 24, .row 0x5018 2 0x800 16] s.dev t.dev := by
  unfold execXipLineFill at h
  refine act_changes (by decide) h fun e h => ?_
  repeat' first
    | (with_reducible assumption)
    | (with_reducible refine ite_after ?_ ?_)
    | (with_reducible apply xipLineFill_after)
    | (intro _; try dsimp only)
    | exact within_trans (by decide) (within_refl _)
    | exact covers_trans (by decide +kernel) (covers_refl _)
    | exact rows_one (covers_refl _) (by decide +kernel)
    | exact rows_row (covers_refl _) (by decide +kernel) (by decide)
    | split

theorem execInval_changes {s t : State} (p : Path) (h : execInval p s = .next t) :
    t.pending = s.pending ∧ Changes [.regs, .out, .hawserStatus, .jtagStatus, .gw, .hs] [.row 0x5014 2 0x800 1, .row 0x5014 2 0x800 24] s.dev t.dev := by
  unfold execInval at h
  refine act_changes (by decide) h fun e h => ?_
  repeat' first
    | (with_reducible assumption)
    | (with_reducible refine ite_after ?_ ?_)
    | (with_reducible apply xipEmpty_after)
    | (with_reducible apply onPort_after)
    | (intro _; try dsimp only)
    | exact within_trans (by decide) (within_refl _)
    | exact covers_trans (by decide) (covers_refl _)
    | exact rows_row (covers_refl _) (by decide) (by decide)
    | split

theorem execXipCfgWrite_changes {s t : State} (p : Path) (w : Word) (h : execXipCfgWrite p w s = .next t) :
    t.pending = s.pending ∧ Changes [.regs, .out, .hawserStatus, .jtagStatus, .gw, .hs] [.errors, .one 184320, .one 184328, .one 184336, .one 184345, .one 184346, .one 184348, .one 184349, .one 184350, .one 184351, .one 184384, .one 184400, .row 0x5014 2 0x800 1, .row 0x5014 2 0x800 24, .row 0x5018 2 0x800 16] s.dev t.dev := by
  unfold execXipCfgWrite at h
  refine act_changes (by decide) h fun e h => ?_
  repeat' first
    | (with_reducible assumption)
    | (with_reducible refine ite_after ?_ ?_)
    | (with_reducible apply xipCfgWrite_after)
    | (with_reducible apply onPort_after)
    | (intro _; try dsimp only)
    | exact within_trans (by decide) (within_refl _)
    | exact covers_trans (by decide +kernel) (covers_refl _)
    | exact rows_one (covers_refl _) (by decide +kernel)
    | exact rows_row (covers_refl _) (by decide +kernel) (by decide)
    | split

theorem execPilotAccessFault_changes {s t : State} (x0 : Word) (store : Bool) (customer : Bool) (h : execPilotAccessFault x0 store customer s = .next t) :
    t.pending = s.pending ∧ Changes [.out, .pilotFault] [] s.dev t.dev := by
  unfold execPilotAccessFault at h
  refine act_changes (by decide) h fun e h => ?_
  repeat' first
    | (with_reducible assumption)
    | (with_reducible refine ite_after ?_ ?_)
    | (with_reducible apply pilotAccess_after)
    | (intro _; try dsimp only)
    | exact within_trans (by decide) (within_refl _)
    | split

theorem execLatchedRead_changes {s t : State} (p : Path) (x1 : Word) (h : execLatchedRead p x1 s = .next t) :
    t.pending = s.pending ∧ Changes [.regs, .mem, .chans, .lq, .out, .freeCtr, .cy, .hawserStatus, .ce, .shadow, .jtagStatus, .sv, .latch, .dramWait, .gw, .hs, .pilotFault] [.every] s.dev t.dev := by
  unfold execLatchedRead at h
  refine act_changes (by decide) h fun e h => ?_
  repeat' first
    | (with_reducible assumption)
    | (with_reducible refine ite_after ?_ ?_)
    | (with_reducible apply busRead_after)
    | (intro _; try dsimp only)
    | exact within_trans (by decide) (within_refl _)
    | exact covers_trans (by decide) (covers_refl _)
    | exact rows_every (covers_refl _) _
    | split

theorem execStagedWrite_changes {s t : State} (p : Path) (x1 : Word) (w : Word) (h : execStagedWrite p x1 w s = .next t) :
    t.pending = s.pending ∧ Changes allParts [.every] s.dev t.dev := by
  unfold execStagedWrite at h
  refine act_changes (by decide) h fun e h => ?_
  repeat' first
    | (with_reducible assumption)
    | (with_reducible refine ite_after ?_ ?_)
    | (with_reducible apply busWrite_after)
    | (intro _; try dsimp only)
    | exact within_trans (by decide) (within_refl _)
    | exact covers_trans (by decide) (covers_refl _)
    | exact rows_every (covers_refl _) _
    | split

theorem execRcRead_changes {s t : State} (p : Path) (x1 : Word) (size : AccessSize) (h : execRcRead p x1 size s = .next t) :
    t.pending = s.pending ∧ Changes [.regs, .mem, .chans, .lq, .out, .freeCtr, .cy, .hawserStatus, .ce, .shadow, .jtagStatus, .sv, .latch, .dramWait, .gw, .hs, .pilotFault] [.every] s.dev t.dev := by
  unfold execRcRead at h
  refine act_changes (by decide) h fun e h => ?_
  repeat' first
    | (with_reducible assumption)
    | (with_reducible refine ite_after ?_ ?_)
    | (with_reducible apply busLoad_after)
    | (with_reducible apply busRead_after)
    | (intro _; try dsimp only)
    | exact within_trans (by decide) (within_refl _)
    | exact covers_trans (by decide) (covers_refl _)
    | exact rows_every (covers_refl _) _
    | split

theorem execRegisterWrite_changes {s t : State} (p : Path) (x1 : Word) (data : List Byte) (frags : List (Fin 24 × RxFrame)) (h : execRegisterWrite p x1 data frags s = .next t) :
    t.pending = s.pending ∧ Changes allParts [.every] s.dev t.dev := by
  unfold execRegisterWrite at h
  refine act_changes (by decide) h fun e h => ?_
  repeat' first
    | (with_reducible assumption)
    | (with_reducible refine ite_after ?_ ?_)
    | (with_reducible apply busWrite_after)
    | (intro _; try dsimp only)
    | exact within_trans (by decide) (within_refl _)
    | exact covers_trans (by decide) (covers_refl _)
    | exact rows_every (covers_refl _) _
    | split

end

end Sys2Proof.Machine
end

