-- ==== Sys2Proof/Laws/ChangesGangway.lean ====
section
/-!
SUPPORT. What every operation of Machine/Gangway can change.
-/

set_option Elab.async false
set_option linter.all false

namespace Sys2Proof.Machine

section
variable {S : List Part} {W : List Span} {d e : Dev}

theorem dropReads_after (h : Changes S W d e) (hS : within [.lq, .ce, .dramWait, .gw] S = true) (hW : covers [] W = true) (p : Path) :
    Changes S W d (dropReads p e) := by
  unfold dropReads
  try dsimp only
  repeat' first
    | (with_reducible assumption)
    | (with_reducible refine ite_after ?_ ?_)
    | (with_reducible apply Dev.modGw_after)
    | (with_reducible apply each_after)
    | (with_reducible apply Dev.modCe_after)
    | (with_reducible apply Dev.modQ_after)
    | (intro _; try dsimp only)
    | exact within_trans (by decide) hS
    | split
    | (with_reducible apply set_dramWait_after)
    | ((with_reducible show Changes _ _ _ (Dev.mk _ _ _ _ _ _ _ _ _ _ _ _ _ _ _ _ _ _ _ _ _ _ _ _ _ _ _ _ _ _)); refine mk_after ?_ (.inl rfl) (.inl rfl) (.inl rfl) (.inl rfl) (.inl rfl) (.inl rfl) (.inl rfl) (.inl rfl) (.inl rfl) (.inl rfl) (.inl rfl) (.inl rfl) (.inl rfl) (.inl rfl) (.inl rfl) (.inl rfl) (.inl rfl) (.inl rfl) (.inl rfl) (.inl rfl) (.inl rfl) (.inr (within_mem hS (by decide))) (.inl rfl) (.inl rfl) (.inl rfl) (.inl rfl) (.inl rfl) (.inl rfl) (.inl rfl) (fun can => can.mem) (fun can => can.shadow))

theorem frameBegins_after (h : Changes S W d e) (hS : within [.regs] S = true) (hW : covers [.row 0x5018 2 0x800 0] W = true) (n : Nat) :
    Changes S W d (frameBegins n e) := by
  unfold frameBegins
  try dsimp only
  repeat' first
    | (with_reducible assumption)
    | (with_reducible refine ite_after ?_ ?_)
    | (with_reducible apply count_after)
    | (intro _; try dsimp only)
    | exact within_trans (by decide) hS
    | exact covers_trans (by decide) hW
    | exact rows_row hW (by decide) (by decide)
    | split

theorem readFrame_after (h : Changes S W d e) (hS : within [.regs] S = true) (hW : covers [.row 0x5014 2 0x800 3, .row 0x5014 2 0x800 5, .row 0x5014 2 0x800 24, .row 0x5018 2 0x800 0] W = true) (n : Nat) (bits : Nat) (waited : Bool)
    {f : Nat → Dev → Dev} (hf : ∀ x0 e, Changes S W d e → Changes S W d (f x0 e)) :
    Changes S W d (readFrame n bits waited f e) := by
  unfold readFrame
  try dsimp only
  repeat' first
    | (with_reducible assumption)
    | (with_reducible refine ite_after ?_ ?_)
    | (with_reducible apply hf)
    | (with_reducible apply wr_after)
    | (with_reducible apply raiseIf_after)
    | (with_reducible apply frameBegins_after)
    | (intro _; try dsimp only)
    | exact within_trans (by decide) hS
    | exact covers_trans (by decide +kernel) hW
    | exact rows_row hW (by decide +kernel) (by decide)
    | split

theorem ownWords_after (h : Changes S W d e) (hS : within [.regs, .out, .hs] S = true) (hW : covers [.row 0x5014 2 0x800 24] W = true) (n : Nat) (ws : List Word) (k : Nat) :
    Changes S W d (ownWords n ws k e) := by
  unfold ownWords
  try dsimp only
  repeat' first
    | (with_reducible assumption)
    | (with_reducible refine ite_after ?_ ?_)
    | (with_reducible apply Dev.give_after)
    | (intro _; try dsimp only)
    | exact within_trans (by decide) hS
    | exact covers_trans (by decide) hW
    | exact rows_row hW (by decide) (by decide)
    | split

theorem popFrame_after (h : Changes S W d e) (hS : within [.regs, .out, .hawserStatus, .jtagStatus, .hs] S = true) (hW : covers [.row 0x5014 2 0x800 1, .row 0x5014 2 0x800 24] W = true) (n : Nat) (q : Nat)
    {f : Nat → Dev → Dev} (hf : ∀ x0 e, Changes S W d e → Changes S W d (f x0 e)) (k : Nat) :
    Changes S W d (popFrame n q f k e) := by
  unfold popFrame
  try dsimp only
  repeat' first
    | (with_reducible assumption)
    | (with_reducible refine ite_after ?_ ?_)
    | (with_reducible apply hf)
    | (with_reducible apply ownWords_after)
    | (with_reducible apply Dev.hole_after)
    | (intro _; try dsimp only)
    | exact within_trans (by decide) hS
    | exact covers_trans (by decide) hW
    | exact rows_row hW (by decide) (by decide)
    | split

theorem writeFrame_after (h : Changes S W d e) (hS : within allParts S = true) (hW : covers [.every] W = true) (n : Nat) (x1 : Nat) (bits : Nat) (data : List Byte) (frs : List (Fin 24 × RxFrame)) :
    Changes S W d (writeFrame n x1 bits data frs e) := by
  unfold writeFrame
  try dsimp only
  repeat' first
    | (with_reducible assumption)
    | (with_reducible refine ite_after ?_ ?_)
    | (with_reducible apply wr_after)
    | (with_reducible apply raise_after)
    | (with_reducible apply busWrite_after)
    | (with_reducible apply frameBegins_after)
    | (intro _; try dsimp only)
    | exact within_trans (by decide) hS
    | exact covers_trans (by decide) hW
    | exact rows_every hW _
    | split

theorem runFrame_after (h : Changes S W d e) (hS : within allParts S = true) (hW : covers [.every] W = true) (n : Nat) (f : SlaveFrame) :
    Changes S W d (runFrame n f e) := by
  unfold runFrame
  try dsimp only
  repeat' first
    | (with_reducible assumption)
    | (with_reducible refine ite_after ?_ ?_)
    | (with_reducible apply popItemBurst_after)
    | (with_reducible apply writeFrame_after)
    | (with_reducible apply popFrame_after)
    | (with_reducible apply wr_after)
    | (with_reducible apply raise_after)
    | (with_reducible apply ownWords_after)
    | (with_reducible apply readFrame_after)
    | (with_reducible apply popBurst_after)
    | (with_reducible apply busRead_after)
    | (intro _; try dsimp only)
    | exact within_trans (by decide) hS
    | exact covers_trans (by decide) hW
    | exact rows_every hW _
    | split

theorem runHeld_after (h : Changes S W d e) (hS : within allParts S = true) (hW : covers [.every] W = true) (n : Nat) (x1 : List SlaveFrame) :
    Changes S W d (runHeld n x1 e) := by
  induction x1 generalizing e with
  | nil =>
    unfold runHeld
    try dsimp only
    repeat' first
      | (with_reducible assumption)
      | (with_reducible refine ite_after ?_ ?_)
      | (with_reducible apply ih)
      | (with_reducible apply runFrame_after)
      | (with_reducible apply Dev.modGw_after)
      | (with_reducible apply dropReads_after)
      | (intro _; try dsimp only)
      | exact within_trans (by decide) hS
      | exact covers_trans (by decide) hW
      | exact rows_every hW _
      | split
      | (have q := congrArg Prod.snd ‹(_ : Dev → Dev) = _›; dsimp only at q; rw [← q]; clear q)
  | cons _ _ ih =>
    unfold runHeld
    try dsimp only
    repeat' first
      | (with_reducible assumption)
      | (with_reducible refine ite_after ?_ ?_)
      | (with_reducible apply ih)
      | (with_reducible apply runFrame_after)
      | (with_reducible apply Dev.modGw_after)
      | (with_reducible apply dropReads_after)
      | (intro _; try dsimp only)
      | exact within_trans (by decide) hS
      | exact covers_trans (by decide) hW
      | exact rows_every hW _
      | split
      | (have q := congrArg Prod.snd ‹(_ : Dev → Dev) = _›; dsimp only at q; rw [← q]; clear q)

theorem settleFrames_after (h : Changes S W d e) (hS : within allParts S = true) (hW : covers [.every] W = true) :
    Changes S W d (settleFrames e) := by
  unfold settleFrames
  try dsimp only
  repeat' first
    | (with_reducible assumption)
    | (with_reducible refine ite_after ?_ ?_)
    | (with_reducible apply each_after)
    | (with_reducible apply runHeld_after)
    | (intro _; try dsimp only)
    | exact within_trans (by decide) hS
    | exact covers_trans (by decide) hW
    | exact rows_every hW _
    | split

theorem slaveFrame_after (h : Changes S W d e) (hS : within allParts S = true) (hW : covers [.every] W = true) (n : Nat) (f : SlaveFrame) :
    Changes S W d (slaveFrame n f e) := by
  unfold slaveFrame
  try dsimp only
  repeat' first
    | (with_reducible assumption)
    | (with_reducible refine ite_after ?_ ?_)
    | (with_reducible apply runFrame_after)
    | (with_reducible apply settleFrames_after)
    | (with_reducible apply Dev.modGw_after)
    | (with_reducible apply raise_after)
    | (with_reducible apply dropReads_after)
    | (with_reducible apply fireWake_after)
    | (intro _; try dsimp only)
    | exact within_trans (by decide) hS
    | exact covers_trans (by decide) hW
    | exact rows_every hW _
    | split

theorem regFinish_after (h : Changes S W d e) (hS : within [.regs, .ts, .lq, .out, .sv, .hs] S = true) (hW : covers [.one 262856, .one 262864, .one 1835219, .one 1835262, .one 1835263, .one 1835286, .one 1835287, .one 1835288, .row 0x5014 2 0x800 6, .row 0x5014 2 0x800 24, .row 0x2100c 32 0x40 3, .row 0x2100c 32 0x40 4, .row 0x2100c 32 0x40 5, .row 0x21024 32 0x40 0, .row 0x40108 24 0x2000 29] W = true) :
    Changes S W d (regFinish e) := by
  unfold regFinish
  try dsimp only
  repeat' first
    | (with_reducible assumption)
    | (with_reducible refine ite_after ?_ ?_)
    | (with_reducible apply countSat_after)
    | (with_reducible apply sendOn_after)
    | (with_reducible apply sendFrom_after)
    | (with_reducible apply Dev.modHs_after)
    | (intro _; try dsimp only)
    | exact within_trans (by decide) hS
    | exact covers_trans (by decide +kernel) hW
    | exact rows_one hW (by decide +kernel)
    | exact rows_row hW (by decide +kernel) (by decide)
    | split

theorem regPacket_after (h : Changes S W d e) (hS : within allParts S = true) (hW : covers [.every] W = true) (typ : Nat) (frs : List (Fin 24 × RxFrame)) :
    Changes S W d (regPacket typ frs e) := by
  unfold regPacket
  try dsimp only
  repeat' first
    | (with_reducible assumption)
    | (with_reducible refine ite_after ?_ ?_)
    | (with_reducible apply busWrite_after)
    | (with_reducible apply Dev.beginAccess_after)
    | (with_reducible apply busRead_after)
    | (with_reducible apply regFinish_after)
    | (with_reducible apply Dev.modHs_after)
    | (intro _; try dsimp only)
    | exact within_trans (by decide) hS
    | exact covers_trans (by decide) hW
    | exact rows_every hW _
    | split

theorem resumeDram_after (h : Changes S W d e) (hS : within [.regs, .mem, .boot, .chans, .ts, .lq, .out, .freeCtr, .cy, .shadow, .sv, .tc, .dramWait, .hs, .en] S = true) (hW : covers [.grid 0x6088 2 0x800 6 0x10 0, .one 672, .one 680, .one 688, .one 691, .one 692, .one 704, .one 712, .one 720, .one 728, .one 736, .one 800, .one 262848, .one 524416, .one 524424, .one 524448, .one 1573032, .one 1573054, .one 1573055, .one 1704158, .one 1704160, .one 1704188, .one 1704212, .one 1835223, .row 0x5014 2 0x800 6, .row 0x5014 2 0x800 24, .row 0x5018 2 0x800 16, .row 0x6014 2 0x800 0, .row 0x602c 2 0x800 16, .row 0x602c 2 0x800 24, .row 0x6030 2 0x800 0, .row 0x8100 4 0x40 0, .row 0x8104 4 0x40 15, .row 0x8104 4 0x40 16, .row 0x8104 4 0x40 28, .row 0x10100 64 0x4 0, .row 0x10100 64 0x4 8, .row 0x2100c 32 0x40 3, .row 0x2100c 32 0x40 4, .row 0x2100c 32 0x40 5, .row 0x21024 32 0x40 0] W = true) :
    Changes S W d (resumeDram e) := by
  unfold resumeDram
  try dsimp only
  repeat' first
    | (with_reducible assumption)
    | (with_reducible refine ite_after ?_ ?_)
    | (with_reducible apply serveDram_after)
    | (with_reducible apply placeWaiting_after)
    | (with_reducible apply bootResume_after)
    | (intro _; try dsimp only)
    | exact within_trans (by decide) hS
    | exact covers_trans (by decide +kernel) hW
    | exact rows_one hW (by decide +kernel)
    | exact rows_row hW (by decide +kernel) (by decide)
    | exact rows_grid hW (by decide +kernel) (by decide) (by decide)
    | split

theorem execRailInRegulation_changes {s t : State} (r : Rail) (h : execRailInRegulation r s = .next t) :
    t.pending = s.pending ∧ Changes allParts [.every] s.dev t.dev := by
  unfold execRailInRegulation at h
  refine act_changes (by decide) h fun e h => ?_
  repeat' first
    | (with_reducible assumption)
    | (with_reducible refine ite_after ?_ ?_)
    | (with_reducible apply settleFrames_after)
    | (with_reducible apply resumeDram_after)
    | (with_reducible apply railInRegulation_after)
    | (intro _; try dsimp only)
    | exact within_trans (by decide) (within_refl _)
    | exact covers_trans (by decide) (covers_refl _)
    | exact rows_every (covers_refl _) _
    | split

theorem execPllLock_changes {s t : State} (pll : Pll) (env : BootEnv) (h : execPllLock pll env s = .next t) :
    t.pending = s.pending ∧ Changes allParts [.every] s.dev t.dev := by
  unfold execPllLock at h
  refine act_changes (by decide) h fun e h => ?_
  repeat' first
    | (with_reducible assumption)
    | (with_reducible refine ite_after ?_ ?_)
    | (with_reducible apply settleFrames_after)
    | (with_reducible apply resumeDram_after)
    | (with_reducible apply pllLock_after)
    | (with_reducible apply freshFlash_after)
    | (intro _; try dsimp only)
    | exact within_trans (by decide) (within_refl _)
    | exact covers_trans (by decide) (covers_refl _)
    | exact rows_every (covers_refl _) _
    | split

theorem execPhoneFieldLost_changes {s t : State} (k : Fin 8) (level : Nat) (h : execPhoneFieldLost k level s = .next t) :
    t.pending = s.pending ∧ Changes allParts [.every] s.dev t.dev := by
  unfold execPhoneFieldLost at h
  refine act_changes (by decide) h fun e h => ?_
  repeat' first
    | (with_reducible assumption)
    | (with_reducible refine ite_after ?_ ?_)
    | (with_reducible apply settleFrames_after)
    | (with_reducible apply phoneLost_after)
    | (intro _; try dsimp only)
    | exact within_trans (by decide) (within_refl _)
    | exact covers_trans (by decide) (covers_refl _)
    | exact rows_every (covers_refl _) _
    | split

theorem execEmulationGrantEnd_changes {s t : State} (k : Fin 8) (h : execEmulationGrantEnd k s = .next t) :
    t.pending = s.pending ∧ Changes allParts [.every] s.dev t.dev := by
  unfold execEmulationGrantEnd at h
  refine act_changes (by decide) h fun e h => ?_
  repeat' first
    | (with_reducible assumption)
    | (with_reducible refine ite_after ?_ ?_)
    | (with_reducible apply settleFrames_after)
    | (with_reducible apply emuGrantEnd_after)
    | (intro _; try dsimp only)
    | exact within_trans (by decide) (within_refl _)
    | exact covers_trans (by decide) (covers_refl _)
    | exact rows_every (covers_refl _) _
    | split

theorem execFieldTransactionEnd_changes {s t : State} (k : Fin 8) (whole : Bool) (h : execFieldTransactionEnd k whole s = .next t) :
    t.pending = s.pending ∧ Changes allParts [.every] s.dev t.dev := by
  unfold execFieldTransactionEnd at h
  refine act_changes (by decide) h fun e h => ?_
  repeat' first
    | (with_reducible assumption)
    | (with_reducible refine ite_after ?_ ?_)
    | (with_reducible apply fieldTxnEnd_after)
    | (with_reducible apply settleFrames_after)
    | (intro _; try dsimp only)
    | exact within_trans (by decide) (within_refl _)
    | exact covers_trans (by decide) (covers_refl _)
    | exact rows_every (covers_refl _) _
    | split

theorem execCeEnable_changes {s t : State} (p : Path) (k : Fin 8) (w : Word) (h : execCeEnable p k w s = .next t) :
    t.pending = s.pending ∧ Changes allParts [.every] s.dev t.dev := by
  unfold execCeEnable at h
  refine act_changes (by decide) h fun e h => ?_
  repeat' first
    | (with_reducible assumption)
    | (with_reducible refine ite_after ?_ ?_)
    | (with_reducible apply settleFrames_after)
    | (with_reducible apply ceEnable_after)
    | (with_reducible apply onPort_after)
    | (intro _; try dsimp only)
    | exact within_trans (by decide) (within_refl _)
    | exact covers_trans (by decide) (covers_refl _)
    | exact rows_every (covers_refl _) _
    | split

theorem execHostWaitExpiry_changes {s t : State} (k : Fin 8) (h : execHostWaitExpiry k s = .next t) :
    t.pending = s.pending ∧ Changes allParts [.every] s.dev t.dev := by
  unfold execHostWaitExpiry at h
  refine act_changes (by decide) h fun e h => ?_
  repeat' first
    | (with_reducible assumption)
    | (with_reducible refine ite_after ?_ ?_)
    | (with_reducible apply settleFrames_after)
    | (with_reducible apply hostWaitExpiry_after)
    | (intro _; try dsimp only)
    | exact within_trans (by decide) (within_refl _)
    | exact covers_trans (by decide) (covers_refl _)
    | exact rows_every (covers_refl _) _
    | split

theorem execRegReadPacket_changes {s t : State} (h : execRegReadPacket s = .next t) :
    t.pending = s.pending ∧ Changes allParts [.every] s.dev t.dev := by
  unfold execRegReadPacket at h
  refine act_changes (by decide) h fun e h => ?_
  repeat' first
    | (with_reducible assumption)
    | (with_reducible refine ite_after ?_ ?_)
    | (with_reducible apply regPacket_after)
    | (intro _; try dsimp only)
    | exact within_trans (by decide) (within_refl _)
    | exact covers_trans (by decide) (covers_refl _)
    | exact rows_every (covers_refl _) _
    | split

theorem execRegWritePacket_changes {s t : State} (frags : List (Fin 24 × RxFrame)) (h : execRegWritePacket frags s = .next t) :
    t.pending = s.pending ∧ Changes allParts [.every] s.dev t.dev := by
  unfold execRegWritePacket at h
  refine act_changes (by decide) h fun e h => ?_
  repeat' first
    | (with_reducible assumption)
    | (with_reducible refine ite_after ?_ ?_)
    | (with_reducible apply regPacket_after)
    | (intro _; try dsimp only)
    | exact within_trans (by decide) (within_refl _)
    | exact covers_trans (by decide) (covers_refl _)
    | exact rows_every (covers_refl _) _
    | split

theorem execGwWrite_changes {s t : State} (n : Fin 2) (x1 : Word) (bits : Nat) (data : List Byte) (frags : List (Fin 24 × RxFrame)) (h : execGwWrite n x1 bits data frags s = .next t) :
    t.pending = s.pending ∧ Changes allParts [.every] s.dev t.dev := by
  unfold execGwWrite at h
  refine act_changes (by decide) h fun e h => ?_
  repeat' first
    | (with_reducible assumption)
    | (with_reducible refine ite_after ?_ ?_)
    | (with_reducible apply slaveFrame_after)
    | (intro _; try dsimp only)
    | exact within_trans (by decide) (within_refl _)
    | exact covers_trans (by decide) (covers_refl _)
    | exact rows_every (covers_refl _) _
    | split

theorem execGwRead_changes {s t : State} (n : Fin 2) (x1 : Word) (bits : Nat) (waited : Bool) (h : execGwRead n x1 bits waited s = .next t) :
    t.pending = s.pending ∧ Changes allParts [.every] s.dev t.dev := by
  unfold execGwRead at h
  refine act_changes (by decide) h fun e h => ?_
  repeat' first
    | (with_reducible assumption)
    | (with_reducible refine ite_after ?_ ?_)
    | (with_reducible apply slaveFrame_after)
    | (intro _; try dsimp only)
    | exact within_trans (by decide) (within_refl _)
    | exact covers_trans (by decide) (covers_refl _)
    | exact rows_every (covers_refl _) _
    | split

theorem execGwPop_changes {s t : State} (n : Fin 2) (q : Word) (bits : Nat) (waited : Bool) (h : execGwPop n q bits waited s = .next t) :
    t.pending = s.pending ∧ Changes allParts [.every] s.dev t.dev := by
  unfold execGwPop at h
  refine act_changes (by decide) h fun e h => ?_
  repeat' first
    | (with_reducible assumption)
    | (with_reducible refine ite_after ?_ ?_)
    | (with_reducible apply slaveFrame_after)
    | (intro _; try dsimp only)
    | exact within_trans (by decide) (within_refl _)
    | exact covers_trans (by decide) (covers_refl _)
    | exact rows_every (covers_refl _) _
    | split

theorem execGwPopItem_changes {s t : State} (n : Fin 2) (q : Word) (bits : Nat) (waited : Bool) (h : execGwPopItem n q bits waited s = .next t) :
    t.pending = s.pending ∧ Changes allParts [.every] s.dev t.dev := by
  unfold execGwPopItem at h
  refine act_changes (by decide) h fun e h => ?_
  repeat' first
    | (with_reducible assumption)
    | (with_reducible refine ite_after ?_ ?_)
    | (with_reducible apply slaveFrame_after)
    | (intro _; try dsimp only)
    | exact within_trans (by decide) (within_refl _)
    | exact covers_trans (by decide) (covers_refl _)
    | exact rows_every (covers_refl _) _
    | split

theorem execGwStatus_changes {s t : State} (n : Fin 2) (bits : Nat) (h : execGwStatus n bits s = .next t) :
    t.pending = s.pending ∧ Changes allParts [.every] s.dev t.dev := by
  unfold execGwStatus at h
  refine act_changes (by decide) h fun e h => ?_
  repeat' first
    | (with_reducible assumption)
    | (with_reducible refine ite_after ?_ ?_)
    | (with_reducible apply slaveFrame_after)
    | (intro _; try dsimp only)
    | exact within_trans (by decide) (within_refl _)
    | exact covers_trans (by decide) (covers_refl _)
    | exact rows_every (covers_refl _) _
    | split

theorem execGwId_changes {s t : State} (n : Fin 2) (bits : Nat) (h : execGwId n bits s = .next t) :
    t.pending = s.pending ∧ Changes allParts [.every] s.dev t.dev := by
  unfold execGwId at h
  refine act_changes (by decide) h fun e h => ?_
  repeat' first
    | (with_reducible assumption)
    | (with_reducible refine ite_after ?_ ?_)
    | (with_reducible apply slaveFrame_after)
    | (intro _; try dsimp only)
    | exact within_trans (by decide) (within_refl _)
    | exact covers_trans (by decide) (covers_refl _)
    | exact rows_every (covers_refl _) _
    | split

theorem execModeReset_changes {s t : State} (n : Fin 2) (h : execModeReset n s = .next t) :
    t.pending = s.pending ∧ Changes allParts [.every] s.dev t.dev := by
  unfold execModeReset at h
  refine act_changes (by decide) h fun e h => ?_
  repeat' first
    | (with_reducible assumption)
    | (with_reducible refine ite_after ?_ ?_)
    | (with_reducible apply slaveFrame_after)
    | (intro _; try dsimp only)
    | exact within_trans (by decide) (within_refl _)
    | exact covers_trans (by decide) (covers_refl _)
    | exact rows_every (covers_refl _) _
    | split

theorem execBadOp_changes {s t : State} (n : Fin 2) (h : execBadOp n s = .next t) :
    t.pending = s.pending ∧ Changes allParts [.every] s.dev t.dev := by
  unfold execBadOp at h
  refine act_changes (by decide) h fun e h => ?_
  repeat' first
    | (with_reducible assumption)
    | (with_reducible refine ite_after ?_ ?_)
    | (with_reducible apply slaveFrame_after)
    | (intro _; try dsimp only)
    | exact within_trans (by decide) (within_refl _)
    | exact covers_trans (by decide) (covers_refl _)
    | exact rows_every (covers_refl _) _
    | split

theorem execLinkFrameSend_changes {s t : State} (p : Fin 4) (h : execLinkFrameSend p s = .next t) :
    t.pending = s.pending ∧ Changes allParts [.every] s.dev t.dev := by
  unfold execLinkFrameSend at h
  refine act_changes (by decide) h fun e h => ?_
  repeat' first
    | (with_reducible assumption)
    | (with_reducible refine ite_after ?_ ?_)
    | (with_reducible apply linkReset_after)
    | (with_reducible apply sendSurveys_after)
    | (with_reducible apply linkFrameSend_after)
    | (with_reducible apply regFinish_after)
    | (intro _; try dsimp only)
    | exact within_trans (by decide) (within_refl _)
    | exact covers_trans (by decide) (covers_refl _)
    | exact rows_every (covers_refl _) _
    | split

end

end Sys2Proof.Machine
end

