-- ==== Sys2Proof/Laws/Operands.lean ====
section
/-!
SUPPORT. The laws of the operand forms: single bits of numbers, flags after a write, words and their bytes.
-/

namespace Sys2Proof.Machine

theorem bit_eq_testBit (v i : Nat) : bit v i = v.testBit i := by
  unfold bit
  rw [Nat.testBit_eq_decide_div_mod_eq]
  by_cases h : v / 2 ^ i % 2 = 1 <;> simp [h]

/-- A bit that is set reads 1, and every other bit reads as before. -/
theorem bit_setBit (v i j : Nat) : bit (setBit v i) j = (decide (i = j) || bit v j) := by
  simp only [bit_eq_testBit, setBit, Nat.testBit_or, Nat.testBit_two_pow]
  cases v.testBit j <;> simp

theorem clearBit_testBit (v i j : Nat) : (clearBit v i).testBit j = (!decide (i = j) && v.testBit j) := by
  unfold clearBit
  by_cases h : bit v i = true
  · rw [if_pos h]
    rw [bit_eq_testBit] at h
    simp only [Nat.testBit_xor, Nat.testBit_two_pow]
    by_cases hk : i = j
    · subst hk; simp [h]
    · simp [hk]
  · rw [if_neg h]
    rw [bit_eq_testBit] at h
    by_cases hk : i = j
    · subst hk; simpa using h
    · simp [hk]

/-- A bit that is cleared reads 0, and every other bit reads as before. -/
theorem bit_clearBit (v i j : Nat) : bit (clearBit v i) j = (!decide (i = j) && bit v j) := by
  simp only [bit_eq_testBit, clearBit_testBit]

/-- A field's width keeps the bits below it. -/
theorem bit_mod (v w i : Nat) (h : i < w) : bit (v % 2 ^ w) i = bit v i := by
  simp only [bit_eq_testBit, Nat.testBit_mod_two_pow, h, decide_true, Bool.true_and]

theorem Dev.bitOn_setBit (d : Dev) (f : Fld) (i j : Nat) (h : j < f.w) :
    (d.setBit f i).bitOn f j = (decide (i = j) || d.bitOn f j) := by
  unfold Dev.bitOn Dev.setBit
  rw [Dev.rd_wr_same, bit_mod _ _ _ h, bit_setBit]

theorem Dev.bitOn_clearBit (d : Dev) (f : Fld) (i j : Nat) (h : j < f.w) :
    (d.clearBit f i).bitOn f j = (!decide (i = j) && d.bitOn f j) := by
  unfold Dev.bitOn Dev.clearBit
  rw [Dev.rd_wr_same, bit_mod _ _ _ h, bit_clearBit]

/-- A word's bytes make the word again (R28). -/
theorem leNat_leBytes (n v : Nat) : leNat (leBytes n v) = v % 256 ^ n := by
  induction n generalizing v with
  | zero => simp [leBytes, leNat, Nat.mod_one]
  | succ n ih =>
    simp only [leBytes, leNat, ih, BitVec.toNat_ofNat]
    have : (2 : Nat) ^ 8 = 256 := rfl
    rw [this, Nat.pow_succ, Nat.mul_comm (256 ^ n) 256, Nat.mod_mul]

theorem leBytes_length (n v : Nat) : (leBytes n v).length = n := by
  induction n generalizing v with
  | zero => rfl
  | succ n ih => simp [leBytes, ih]

end Sys2Proof.Machine
end

