-- ==== Sys2Proof/Laws/Effects.lean ====
section
/-!
SUPPORT. What the shared operations do: the laws that statements about single commands rest on.
-/

set_option Elab.async false
set_option linter.all false

namespace Sys2Proof.Machine

/-! Flags. -/

@[simp] theorem Dev.rd_raise_same (d : Dev) (f : Fld) : (d.raise f).rd f = 1 % 2 ^ f.w := Dev.rd_wr_same d f 1
theorem Dev.rd_raise_ne (d : Dev) {f g : Fld} (h : f.bit ≠ g.bit) : (d.raise g).rd f = d.rd f := Dev.rd_wr_ne d 1 h
@[simp] theorem Dev.rd_lower_same (d : Dev) (f : Fld) : (d.lower f).rd f = 0 := (Dev.rd_wr_same d f 0).trans (Nat.zero_mod _)
theorem Dev.rd_lower_ne (d : Dev) {f g : Fld} (h : f.bit ≠ g.bit) : (d.lower g).rd f = d.rd f := Dev.rd_wr_ne d 0 h
@[simp] theorem Dev.rd_flag_same (d : Dev) (f : Fld) (c : Bool) : (d.flag f c).rd f = b2n c % 2 ^ f.w := Dev.rd_wr_same d f _
theorem Dev.rd_flag_ne (d : Dev) {f g : Fld} (c : Bool) (h : f.bit ≠ g.bit) : (d.flag g c).rd f = d.rd f := Dev.rd_wr_ne d _ h
theorem Dev.rd_count_ne (d : Dev) {f g : Fld} (k : Nat) (h : f.bit ≠ g.bit) : (d.count g k).rd f = d.rd f := Dev.rd_wr_ne d _ h
theorem Dev.rd_countSat_ne (d : Dev) {f g : Fld} (k : Nat) (h : f.bit ≠ g.bit) : (d.countSat g k).rd f = d.rd f := Dev.rd_wr_ne d _ h
theorem Dev.rd_setBit_ne (d : Dev) {f g : Fld} (k : Nat) (h : f.bit ≠ g.bit) : (d.setBit g k).rd f = d.rd f := Dev.rd_wr_ne d _ h
theorem Dev.rd_clearBit_ne (d : Dev) {f g : Fld} (k : Nat) (h : f.bit ≠ g.bit) : (d.clearBit g k).rd f = d.rd f := Dev.rd_wr_ne d _ h
theorem Dev.rd_raiseIf_ne (d : Dev) {f g : Fld} (c : Bool) (h : f.bit ≠ g.bit) : (d.raiseIf c g).rd f = d.rd f := by
  unfold Dev.raiseIf; split
  · exact Dev.rd_raise_ne d h
  · rfl
theorem Dev.rd_of_regs {d e : Dev} (h : e.regs = d.regs) (f : Fld) : e.rd f = d.rd f := by unfold Dev.rd; rw [h]
theorem Dev.bitOn_of_rd {d e : Dev} {f : Fld} (h : e.rd f = d.rd f) (i : Nat) : e.bitOn f i = d.bitOn f i := by unfold Dev.bitOn; rw [h]
theorem Dev.on_of_rd {d e : Dev} {f : Fld} (h : e.rd f = d.rd f) : e.on f = d.on f := by unfold Dev.on; rw [h]

/-! Access paths. -/

@[simp] theorem Dev.beginAccess_regs (d : Dev) (p : Path) : (d.beginAccess p).regs = d.regs := by cases p <;> rfl
@[simp] theorem Dev.beginAccess_mem (d : Dev) (p : Path) : (d.beginAccess p).mem = d.mem := by cases p <;> rfl
@[simp] theorem Dev.beginAccess_time (d : Dev) (p : Path) : (d.beginAccess p).time = d.time := by cases p <;> rfl
@[simp] theorem Dev.beginAccess_power (d : Dev) (p : Path) : (d.beginAccess p).power = d.power := by cases p <;> rfl
@[simp] theorem Dev.beginAccess_boot (d : Dev) (p : Path) : (d.beginAccess p).boot = d.boot := by cases p <;> rfl
@[simp] theorem Dev.beginAccess_chans (d : Dev) (p : Path) : (d.beginAccess p).chans = d.chans := by cases p <;> rfl
@[simp] theorem Dev.beginAccess_ts (d : Dev) (p : Path) : (d.beginAccess p).ts = d.ts := by cases p <;> rfl
@[simp] theorem Dev.beginAccess_lq (d : Dev) (p : Path) : (d.beginAccess p).lq = d.lq := by cases p <;> rfl
@[simp] theorem Dev.beginAccess_out (d : Dev) (p : Path) : (d.beginAccess p).out = d.out := by cases p <;> rfl
@[simp] theorem Dev.beginAccess_freeCtr (d : Dev) (p : Path) : (d.beginAccess p).freeCtr = d.freeCtr := by cases p <;> rfl
@[simp] theorem Dev.beginAccess_clk (d : Dev) (p : Path) : (d.beginAccess p).clk = d.clk := by cases p <;> rfl
@[simp] theorem Dev.beginAccess_cy (d : Dev) (p : Path) : (d.beginAccess p).cy = d.cy := by cases p <;> rfl
@[simp] theorem Dev.beginAccess_fuses (d : Dev) (p : Path) : (d.beginAccess p).fuses = d.fuses := by cases p <;> rfl
@[simp] theorem Dev.beginAccess_epoch (d : Dev) (p : Path) : (d.beginAccess p).epoch = d.epoch := by cases p <;> rfl
@[simp] theorem Dev.beginAccess_ce (d : Dev) (p : Path) : (d.beginAccess p).ce = d.ce := by cases p <;> rfl
@[simp] theorem Dev.beginAccess_shadow (d : Dev) (p : Path) : (d.beginAccess p).shadow = d.shadow := by cases p <;> rfl
@[simp] theorem Dev.beginAccess_sv (d : Dev) (p : Path) : (d.beginAccess p).sv = d.sv := by cases p <;> rfl
@[simp] theorem Dev.beginAccess_tc (d : Dev) (p : Path) : (d.beginAccess p).tc = d.tc := by cases p <;> rfl
@[simp] theorem Dev.beginAccess_stage (d : Dev) (p : Path) : (d.beginAccess p).stage = d.stage := by cases p <;> rfl
@[simp] theorem Dev.beginAccess_latch (d : Dev) (p : Path) : (d.beginAccess p).latch = d.latch := by cases p <;> rfl
@[simp] theorem Dev.beginAccess_dramWait (d : Dev) (p : Path) : (d.beginAccess p).dramWait = d.dramWait := by cases p <;> rfl
@[simp] theorem Dev.beginAccess_gw (d : Dev) (p : Path) : (d.beginAccess p).gw = d.gw := by cases p <;> rfl
@[simp] theorem Dev.beginAccess_hs (d : Dev) (p : Path) : (d.beginAccess p).hs = d.hs := by cases p <;> rfl
@[simp] theorem Dev.beginAccess_en (d : Dev) (p : Path) : (d.beginAccess p).en = d.en := by cases p <;> rfl
@[simp] theorem Dev.beginAccess_gpio (d : Dev) (p : Path) : (d.beginAccess p).gpio = d.gpio := by cases p <;> rfl
@[simp] theorem Dev.beginAccess_cl (d : Dev) (p : Path) : (d.beginAccess p).cl = d.cl := by cases p <;> rfl
@[simp] theorem Dev.beginAccess_fd (d : Dev) (p : Path) : (d.beginAccess p).fd = d.fd := by cases p <;> rfl
@[simp] theorem Dev.beginAccess_pilotFault (d : Dev) (p : Path) : (d.beginAccess p).pilotFault = d.pilotFault := by cases p <;> rfl
@[simp] theorem Dev.beginAccess_rd (d : Dev) (p : Path) (f : Fld) : (d.beginAccess p).rd f = d.rd f := by cases p <;> rfl
@[simp] theorem Dev.beginAccess_on (d : Dev) (p : Path) (f : Fld) : (d.beginAccess p).on f = d.on f := by cases p <;> rfl
@[simp] theorem Dev.beginAccess_bitOn (d : Dev) (p : Path) (f : Fld) (i : Nat) : (d.beginAccess p).bitOn f i = d.bitOn f i := by cases p <;> rfl
@[simp] theorem Dev.beginAccess_coreRuns (d : Dev) (p : Path) : (d.beginAccess p).coreRuns = d.coreRuns := by cases p <;> rfl
@[simp] theorem Dev.beginAccess_applied (d : Dev) (p : Path) : (d.beginAccess p).applied = d.applied := by cases p <;> rfl
@[simp] theorem Dev.beginAccess_ns (d : Dev) (p : Path) : (d.beginAccess p).ns = d.ns := by cases p <;> rfl

/-- An access over an open path to a block that runs has its effect. -/
theorem onPort_open {b : Nat} {p : Path} {d : Dev} (f : Dev → Dev) (hp : d.pathOpen p = true) (hb : d.blockRuns b = true) :
    onPort b p f d = f (d.beginAccess p) := by
  have h1 : (d.beginAccess p).pathOpen p = true := by rw [← hp]; cases p <;> rfl
  have h2 : (d.beginAccess p).blockRuns b = true := by rw [← hb]; cases p <;> rfl
  unfold onPort
  simp only [h1, h2, Bool.not_true, Bool.false_eq_true, if_false, if_true]

/-- The identity block runs whenever the CORE blocks do. -/
theorem Dev.blockRuns_gc {d : Dev} (h : d.coreRuns = true) : d.blockRuns 0 = true := by
  unfold Dev.blockRuns; simp [h]

/-! Capstan. -/

@[simp] theorem Dev.modPower_rd (d : Dev) (g : PowerSt → PowerSt) (f : Fld) : (d.modPower g).rd f = d.rd f := rfl
@[simp] theorem Dev.modPower_on (d : Dev) (g : PowerSt → PowerSt) (f : Fld) : (d.modPower g).on f = d.on f := rfl
@[simp] theorem Dev.modPower_bitOn (d : Dev) (g : PowerSt → PowerSt) (f : Fld) (i : Nat) : (d.modPower g).bitOn f i = d.bitOn f i := rfl

theorem Dev.penUp_bit (d : Dev) {k : Nat} (h : k < 6) : (d.penUp k).bitOn PW_RAIL_PEN k = true := by
  have : (d.setBit PW_RAIL_PEN k).bitOn PW_RAIL_PEN k = true := by rw [Dev.bitOn_setBit _ _ _ _ h]; simp
  unfold Dev.penUp; dsimp only; split
  · exact this
  · exact this

theorem Dev.penUp_rd (d : Dev) (k : Nat) {f : Fld} (h : f.bit ≠ PW_RAIL_PEN.bit) : (d.penUp k).rd f = d.rd f := by
  have : (d.setBit PW_RAIL_PEN k).rd f = d.rd f := Dev.rd_wr_ne _ _ h
  unfold Dev.penUp; dsimp only; split
  · exact this
  · exact this

theorem Dev.penUp_mem (d : Dev) (k : Nat) : (d.penUp k).mem = d.mem := by
  unfold Dev.penUp; dsimp only; split <;> rfl

end Sys2Proof.Machine
end

