-- ==== Sys2Proof/Laws/EffectsPower.lean ====
section
/-!
SUPPORT. What the operations of Machine/Power do.
-/

set_option Elab.async false
set_option linter.all false

namespace Sys2Proof.Machine

/-- The register fields that a head of the command queues and a reconciliation can change. -/
def drainAllW : List Span :=
  [.row 0x2100c 32 0x40 3, .row 0x2100c 32 0x40 4, .row 0x2100c 32 0x40 5, .row 0x21024 32 0x40 0, .row 0x40218 24 0x2000 28, .row 0x40304 24 0x2000 1, .row 0x40308 24 0x2000 24, .row 0x40308 24 0x2000 8, .row 0x5014 2 0x800 24, .row 0x5014 2 0x800 6]

/-- What the channels' queues and reconciliations change as the power-fail source is released. -/
theorem drainAll_changes (x : Dev) : Changes [.regs, .chans, .lq, .out, .sv, .hs] drainAllW x
    (x.each (upTo 24) fun n => fun d => drain n (reconcileNext n d)) :=
  each_after (Changes.refl _ _ x) _ fun n e h => drain_after (reconcileNext_after h (by decide) (by decide) n) (by decide) (by decide) n

theorem settlePfail_power (d : Dev) : ∃ x, (settlePfail d).power = { d.power with pfailAt := x } := by
  unfold settlePfail
  dsimp only
  split
  · exact ⟨_, rfl⟩
  · split
    · split
      · exact ⟨d.ns, ((abortSurvey_after (Changes.refl _ _ _) (within_refl _) (covers_refl _)).parts .power (by decide)).trans rfl⟩
      · exact ⟨d.ns, rfl⟩
    · refine ⟨d.power.pfailAt, ?_⟩
      generalize hx : settleServices _ = x
      have hp : x.power = d.power := by
        subst hx
        refine ((settleServices_after (Changes.refl _ _ _) (within_refl _) (covers_refl _)).parts .power (by decide)).trans ?_
        unfold Dev.raiseIf; split <;> rfl
      clear hx
      split
      · exact ((drainAll_changes x).parts .power (by decide)).trans hp
      · exact hp

theorem dropPen_power (k : Nat) (d : Dev) :
    ∃ a v p m w, (dropPen k d).power = { d.power with pfailAt := a, vinArmed := v, pfailVin := p, dram := m, vrfWait := w } := by
  have hd : ∃ v p w, (d.penDown k).power = { d.power with vinArmed := v, pfailVin := p, vrfWait := w } := by
    unfold Dev.penDown; dsimp only
    split
    · exact ⟨_, _, _, rfl⟩
    split
    · exact ⟨_, _, _, rfl⟩
    split
    · exact ⟨_, _, _, rfl⟩
    split
    · exact ⟨_, _, _, rfl⟩
    split
    · exact ⟨_, _, _, rfl⟩
    · exact ⟨_, _, _, rfl⟩
  obtain ⟨v, p, w, hd⟩ := hd
  unfold dropPen; dsimp only
  split
  · exact ⟨d.power.pfailAt, v, p, false, w, by unfold dramLost; simp [Dev.modPower, hd]⟩
  split
  · obtain ⟨x, hx⟩ := settlePfail_power (d.penDown k)
    exact ⟨x, v, p, d.power.dram, w, by rw [hx, hd]⟩
  · exact ⟨d.power.pfailAt, v, p, d.power.dram, w, by rw [hd]⟩

theorem penDown_bit (d : Dev) {k : Nat} (h : k < 6) : (d.penDown k).bitOn PW_RAIL_PEN k = false := by
  have a : (d.clearBit PW_RAIL_PEN k).bitOn PW_RAIL_PEN k = false := by rw [Dev.bitOn_clearBit _ _ _ _ h]; simp
  unfold Dev.penDown; dsimp only
  split
  · rw [Dev.bitOn_of_rd (Dev.rd_lower_ne _ (by decide))]; exact a
  split
  · rw [Dev.bitOn_of_rd (Dev.rd_lower_ne _ (by decide))]; exact a
  split
  · rw [Dev.bitOn_of_rd (Dev.rd_lower_ne _ (by decide))]; exact a
  split
  · rw [Dev.bitOn_of_rd (Dev.rd_lower_ne _ (by decide))]; exact a
  split
  · exact a
  · exact a

theorem dropPen_bit (d : Dev) {k : Nat} (h : k < 6) : (dropPen k d).bitOn PW_RAIL_PEN k = false := by
  unfold dropPen; dsimp only
  split
  · exact penDown_bit d h
  split
  · rw [Dev.bitOn_of_rd ((settlePfail_after (Changes.refl _ _ _) (within_refl _) (covers_refl _)).rd (rows_not (by decide)))]
    exact penDown_bit d h
  · exact penDown_bit d h

theorem startDrops_retry (ks : List Nat) (d : Dev) :
    (startDrops ks .retry d).power.step = d.power.step ∧ (startDrops ks .retry d).power.after = .retry := by
  have hdd : ∀ d : Dev, d.power.after = .retry → dropsDone d = d := fun d h => by unfold dropsDone; rw [h]
  unfold startDrops; dsimp only
  split
  · rw [hdd _ rfl]; exact ⟨rfl, rfl⟩
  · rename_i k r _
    obtain ⟨a, v, p, m, w, hx⟩ := dropPen_power k (d.modPower fun p => { p with after := .retry, asserts := [] })
    have h2 : (((dropPen k (d.modPower fun p => { p with after := .retry, asserts := [] })).modPower fun p => { p with drops := r })).power.after
        = .retry := by rw [Dev.modPower_power, hx]; rfl
    rw [hdd _ h2, ite_self]
    exact ⟨by rw [Dev.modPower_power, hx]; rfl, h2⟩

theorem powerUpFail_eff (d : Dev) {f : Fld} (hf : f = PW_RAIL_RAIL_FAIL ∨ f = PW_STATUS_XTAL_FAIL) :
    (powerUpFail (d.raise f)).power.step = .failed ∧ (powerUpFail (d.raise f)).power.after = .retry ∧ (powerUpFail (d.raise f)).rd f = 1 := by
  have h1 := startDrops_retry downOrder ((d.raise f).modPower fun p => { p with step := .failed })
  refine ⟨h1.1, h1.2, ?_⟩
  have h2 := powerUpFail_after (Changes.refl _ _ (d.raise f)) (within_refl _) (covers_refl _)
  rcases hf with rfl | rfl
  · rw [h2.rd (rows_not (by decide))]; exact Dev.rd_raise_same _ _
  · rw [h2.rd (rows_not (by decide))]; exact Dev.rd_raise_same _ _

theorem railInRegulation_eff (r : Rail) (d : Dev) (h : d.power.step = .rail r) (hb : d.bitOn PW_RAIL_PEN (railPen r) = true) :
    (railInRegulation r d).rd (railOk r) = 1 ∧ (railInRegulation r d).mem = d.mem ∧
      match railOrder.find? fun q => !d.bitOn PW_RAIL_PEN (railPen q) with
      | some q => (railInRegulation r d).power.step = .rail q ∧ (railInRegulation r d).bitOn PW_RAIL_PEN (railPen q) = true
      | none => (railInRegulation r d).power.step = .plls ∧ (railInRegulation r d).rd GC_STATUS_PLLA_LOCK = 0 ∧
          (railInRegulation r d).rd GC_STATUS_PLLD_LOCK = 0 := by
  have e : railInRegulation r d = powerUpNext (d.raise (railOk r)) := by
    unfold railInRegulation
    simp only [hb, h]
    simp [Dev.raise, h]
  rw [e]
  have hq : ∀ q, (d.raise (railOk r)).bitOn PW_RAIL_PEN (railPen q) = d.bitOn PW_RAIL_PEN (railPen q) := fun q =>
    Dev.bitOn_of_rd (Dev.rd_raise_ne _ (by cases r <;> decide)) _
  have hr : (d.raise (railOk r)).rd (railOk r) = 1 := by rw [Dev.rd_raise_same]; cases r <;> rfl
  have n1 : (railOk r).bit ≠ PW_RAIL_PEN.bit := by cases r <;> decide
  unfold powerUpNext
  simp only [hq]
  cases hf : railOrder.find? fun q => !d.bitOn PW_RAIL_PEN (railPen q) with
  | some q => exact ⟨(Dev.penUp_rd _ _ n1).trans hr, Dev.penUp_mem _ _, rfl, Dev.penUp_bit _ (by cases q <;> decide)⟩
  | none =>
    refine ⟨?_, rfl, rfl, ?_, ?_⟩
    · rw [Dev.modPower_rd, Dev.rd_lower_ne, Dev.rd_lower_ne, hr] <;> cases r <;> decide
    · rw [Dev.modPower_rd, Dev.rd_lower_ne, Dev.rd_lower_same]; decide
    · rw [Dev.modPower_rd, Dev.rd_lower_same]

theorem vaonPowerOn_eff (d : Dev) (h : d.power.step = .off) : (vaonPowerOn d).power = PowerSt.reset ∧ (vaonPowerOn d).rd PW_RAIL_PEN = 0 ∧
    (vaonPowerOn d).rd PW_RAIL_VAON_OK = 1 ∧ (vaonPowerOn d).mem = d.mem := by
  have e : vaonPowerOn d = ((d.wr PW_RAIL_PEN 0).raise PW_RAIL_VAON_OK).modPower fun _ => PowerSt.reset := if_neg (fun x => x h)
  rw [e]
  exact ⟨rfl, by simp (disch := decide) [Dev.rd_raise_ne], by simp, rfl⟩

theorem RegFile.get_filter (f : RegFile) (q : Nat × Nat → Bool) (b r : Nat) (h : ∀ v, q (b, v) = true) :
    RegFile.get (f.filter q) b r = RegFile.get f b r := by
  induction f with
  | nil => rfl
  | cons x f ih =>
    obtain ⟨k, v⟩ := x
    by_cases hk : k = b
    · subst hk; simp [List.filter, h v, RegFile.get]
    · by_cases hq : q (k, v) = true
      · simp only [List.filter, hq, RegFile.get, hk, if_false, ih]
      · simp only [Bool.not_eq_true] at hq
        simp only [List.filter, hq, RegFile.get, hk, if_false, ih]

/-- A register that a CORE reset keeps reads as before. -/
theorem coreReset_kept (deck : Bool) (d : Dev) (f : Fld) (hk : keptField deck f.bit = true)
    (hn : ([65692, 65695, 98576, 98591, GC_STATUS_PLLA_LOCK.bit, GC_STATUS_PLLD_LOCK.bit, PW_WK_STATUS_RUN.bit, TC_STATUS_XTAL_MODE.bit] : List Nat).all (· != f.bit) = true) :
    (coreReset deck d).rd f = d.rd f := by
  simp only [List.all_cons, List.all_nil, Bool.and_true, Bool.and_eq_true, bne_iff_ne, ne_eq] at hn
  unfold coreReset
  dsimp only
  rw [Dev.rd_flag_ne _ _ (fun h => hn.2.2.2.2.2.2.2 h.symm), Dev.rd_lower_ne _ (fun h => hn.2.2.2.2.2.2.1 h.symm),
    Dev.rd_flag_ne _ _ (fun h => hn.2.2.2.2.2.1 h.symm), Dev.rd_flag_ne _ _ (fun h => hn.2.2.2.2.1 h.symm)]
  refine (RegFile.get_filter _ _ _ _ fun v => hk).trans ?_
  have h1 : (handlerCut (calAbort (commitCut (burnCut d)))).rd f = d.rd f :=
    (handlerCut_after (calAbort_after (commitCut_after (burnCut_after (Changes.refl [.regs, .mem, .fd, .cl, .freeCtr, .fuses] [.one 65692, .one 65695, .one 98576, .one 98591] d)
      (by decide) (by decide)) (by decide) (by decide)) (by decide) (by decide)) (by decide) (by decide)).rd
      (rows_not (by simp [Span.misses, bne_iff_ne]; exact ⟨fun h => hn.1 h.symm, fun h => hn.2.1 h.symm, fun h => hn.2.2.1 h.symm, fun h => hn.2.2.2.1 h.symm⟩))
  exact h1

/-- The register fields that dropping an enable can change. -/
def dropW : List Span :=
  [.one 32989, .one 32990, .one 32991, .one 32994, .one 32995, .one 32996, .one 32997, .one 33000, .one 1704158, .one 1835219, .one 1835262, .one 1835263, .one 1835288, .row 0x5014 2 0x800 6, .row 0x5014 2 0x800 24, .row 0x2100c 32 0x40 3, .row 0x2100c 32 0x40 4, .row 0x2100c 32 0x40 5, .row 0x21024 32 0x40 0, .row 0x40034 24 0x2000 2, .row 0x40034 24 0x2000 16, .row 0x40034 24 0x2000 28, .row 0x40034 24 0x2000 29, .row 0x40104 24 0x2000 3, .row 0x40108 24 0x2000 3, .row 0x40108 24 0x2000 29, .row 0x40218 24 0x2000 2, .row 0x40218 24 0x2000 28, .row 0x4021c 24 0x2000 8, .row 0x40304 24 0x2000 1, .row 0x40304 24 0x2000 2, .row 0x40304 24 0x2000 20, .row 0x40304 24 0x2000 22, .row 0x40304 24 0x2000 29, .row 0x40308 24 0x2000 0, .row 0x40308 24 0x2000 8, .row 0x40308 24 0x2000 16, .row 0x40308 24 0x2000 24]

theorem startDrops_plain (ks : List Nat) (a : AfterDrop) (d : Dev) (ha : a ≠ .dormant) :
    (∃ x v p m r w, (startDrops ks a d).power = { d.power with after := a, asserts := [], pfailAt := x, vinArmed := v, pfailVin := p, dram := m, drops := r, vrfWait := w }) ∧
    ∀ S W, within [.regs, .mem, .power, .chans, .ts, .lq, .out, .freeCtr, .sv, .hs, .fd] S = true → covers dropW W = true →
      Changes S W d (startDrops ks a d) := by
  have hdd : ∀ d : Dev, d.power.after = a → dropsDone d = d := fun d h => by
    unfold dropsDone; rw [h]; cases a <;> first | rfl | exact absurd rfl ha
  unfold startDrops; dsimp only
  split
  · rw [hdd _ rfl]
    exact ⟨⟨_, _, _, _, _, _, rfl⟩, fun S W hS hW => Dev.modPower_after (Dev.modPower_after (Changes.refl S W d) (within_trans (by decide) hS) (covers_trans (by decide) hW) _) (within_trans (by decide) hS) (covers_trans (by decide) hW) _⟩
  · rename_i k r _
    obtain ⟨x, v, p, m, w, hx⟩ := dropPen_power k (d.modPower fun p => { p with after := a, asserts := [] })
    have h2 : (((dropPen k (d.modPower fun p => { p with after := a, asserts := [] })).modPower fun p => { p with drops := r })).power.after
        = a := by rw [Dev.modPower_power, hx]; rfl
    rw [hdd _ h2, ite_self]
    exact ⟨⟨x, v, p, m, r, w, by rw [Dev.modPower_power, hx]; rfl⟩, fun S W hS hW => (Dev.modPower_after (dropPen_after (Dev.modPower_after (Changes.refl S W d) (within_trans (by decide) hS) (covers_trans (by decide) hW) _) (within_trans (by decide) hS) (covers_trans (by decide) hW) k) (within_trans (by decide) hS) (covers_trans (by decide) hW) _)⟩

theorem startDrops_rd (ks : List Nat) (a : AfterDrop) (d : Dev) (ha : a ≠ .dormant) {f : Fld} (hf : ¬ Rows dropW f.bit) :
    (startDrops ks a d).rd f = d.rd f := ((startDrops_plain ks a d ha).2 _ _ (within_refl _) (covers_refl _)).rd hf

theorem powerUpNext_eff (d : Dev) : (powerUpNext d).power.hold = d.power.hold ∧ (powerUpNext d).power.fence = d.power.fence ∧
    (powerUpNext d).power.softDue = d.power.softDue ∧
    ∀ f : Fld, f.bit ≠ PW_RAIL_PEN.bit → f.bit ≠ GC_STATUS_PLLA_LOCK.bit → f.bit ≠ GC_STATUS_PLLD_LOCK.bit → (powerUpNext d).rd f = d.rd f := by
  have hp : ∀ k, ∃ v w, (d.penUp k).power = { d.power with vinArmed := v, vrfWait := w } := by
    intro k; unfold Dev.penUp; dsimp only; split
    · exact ⟨_, _, rfl⟩
    · exact ⟨_, _, rfl⟩
  unfold powerUpNext
  split
  · rename_i r _
    obtain ⟨v, w, hv⟩ := hp (railPen r)
    refine ⟨?_, ?_, ?_, fun f h _ _ => Dev.penUp_rd _ _ h⟩ <;> rw [Dev.modPower_power, hv]
  · exact ⟨rfl, rfl, rfl, fun f _ h1 h2 => by rw [Dev.modPower_rd, Dev.rd_lower_ne _ h2, Dev.rd_lower_ne _ h1]⟩

theorem coreReset_power (deck : Bool) (d : Dev) : (coreReset deck d).power.step = d.power.step ∧ (coreReset deck d).power.fence = d.power.fence ∧
    (coreReset deck d).power.softDue = none := by
  have h : (handlerCut (calAbort (commitCut (burnCut d)))).power = d.power :=
    (handlerCut_after (calAbort_after (commitCut_after (burnCut_after (Changes.refl [.regs, .mem, .fd, .cl, .freeCtr, .fuses] [.one 65692, .one 65695, .one 98576, .one 98591] d)
      (by decide) (by decide)) (by decide) (by decide)) (by decide) (by decide)) (by decide) (by decide)).parts .power (by decide)
  unfold coreReset
  dsimp only
  refine ⟨?_, ?_, rfl⟩
  · show (handlerCut (calAbort (commitCut (burnCut d)))).power.step = _
    rw [h]
  · show (handlerCut (calAbort (commitCut (burnCut d)))).power.fence = _
    rw [h]

theorem recordReset_fresh (c : ResetClass) (src : Nat) (d : Dev) (hh : d.power.hold = none) (hs : src < 16) :
    (recordReset c src d).rd FD_CAUSE_CLASS = classCode c ∧ (recordReset c src d).rd FD_CAUSE_BROWN_SRC = src ∧
    (recordReset c src d).power = d.power := by
  have hc : classCode c < 16 := by cases c <;> decide
  unfold recordReset
  simp only [hh, Option.isNone_none, Bool.true_or, if_true]
  split <;> refine ⟨?_, ?_, rfl⟩ <;>
    simp (disch := decide) [Dev.rd_wr_ne, Dev.rd_setBit_ne, Dev.rd_lower_ne, Dev.rd_countSat_ne, Nat.mod_eq_of_lt, hc, hs]

theorem resetHold_eff (c : ResetClass) (keep : Bool) (old : Option ResetClass) (d : Dev) :
    (resetHold c keep old d).power.hold = some c ∧ (resetHold c keep old d).power.fence = d.power.fence ∧
    (resetHold c keep old d).power.softDue = d.power.softDue ∧ (resetHold c keep old d).rd PW_STATE_CUR = 1 ∧
    (resetHold c keep old d).rd FD_CAUSE_CLASS = d.rd FD_CAUSE_CLASS ∧
    (resetHold c keep old d).rd FD_CAUSE_BROWN_SRC = d.rd FD_CAUSE_BROWN_SRC := by
  unfold resetHold
  dsimp only
  generalize hx : Dev.modPower _ _ = x
  have hp : x.power.hold = some c ∧ x.power.fence = d.power.fence ∧ x.power.softDue = d.power.softDue := by subst hx; exact ⟨rfl, rfl, rfl⟩
  have h1 : x.rd PW_STATE_CUR = 1 := by subst hx; simp (disch := decide) [Dev.rd_wr_ne, Dev.rd_lower_ne]
  have h2 : x.rd FD_CAUSE_CLASS = d.rd FD_CAUSE_CLASS := by subst hx; simp (disch := decide) [Dev.rd_wr_ne, Dev.rd_lower_ne, Dev.rd_flag_ne]
  have h3 : x.rd FD_CAUSE_BROWN_SRC = d.rd FD_CAUSE_BROWN_SRC := by subst hx; simp (disch := decide) [Dev.rd_wr_ne, Dev.rd_lower_ne, Dev.rd_flag_ne]
  clear hx
  split
  · exact ⟨hp.1, hp.2.1, hp.2.2, h1, h2, h3⟩
  · obtain ⟨_, _, _, _, _, _, hy⟩ := (startDrops_plain [5, 4] .nothing x (by decide)).1
    have f1 := startDrops_rd [5, 4] .nothing x (by decide) (f := FD_CAUSE_CLASS) (rows_not (by decide))
    have f2 := startDrops_rd [5, 4] .nothing x (by decide) (f := FD_CAUSE_BROWN_SRC) (rows_not (by decide))
    have f3 := startDrops_rd [5, 4] .nothing x (by decide) (f := PW_STATE_CUR) (rows_not (by decide))
    generalize startDrops [5, 4] .nothing x = y at hy f1 f2 f3 ⊢
    have e : y.power.hold = some c ∧ y.power.fence = d.power.fence ∧ y.power.softDue = d.power.softDue ∧ y.rd PW_STATE_CUR = 1 ∧
        y.rd FD_CAUSE_CLASS = d.rd FD_CAUSE_CLASS ∧ y.rd FD_CAUSE_BROWN_SRC = d.rd FD_CAUSE_BROWN_SRC := by
      rw [hy, f1, f2, f3]; exact ⟨hp.1, hp.2.1, hp.2.2, h1, h2, h3⟩
    obtain ⟨n1, n2, n3, n4⟩ := powerUpNext_eff y
    split
    · split
      · rw [n1, n2, n3, n4 _ (by decide) (by decide) (by decide), n4 _ (by decide) (by decide) (by decide), n4 _ (by decide) (by decide) (by decide)]
        exact e
      · exact e
    · exact e

/-- A reset that no other holds against takes hold and is recorded. -/
theorem startReset_eff (c : ResetClass) (deck : Bool) (src : Nat) (d : Dev) (hs : d.power.step ≠ .off) (hh : d.power.hold = none) (hsrc : src < 16) :
    (startReset c deck src d).power.hold = some c ∧ (startReset c deck src d).power.fence = d.power.fence ∧
    (startReset c deck src d).power.softDue = none ∧ (startReset c deck src d).rd PW_STATE_CUR = 1 ∧
    (startReset c deck src d).rd FD_CAUSE_CLASS = classCode c ∧ (startReset c deck src d).rd FD_CAUSE_BROWN_SRC = src := by
  obtain ⟨r1, r2, r3⟩ := recordReset_fresh c src d hh hsrc
  have e : ∃ keep : Bool, startReset c deck src d = resetHold c keep none (if keep = true then coreReset deck (recordReset c src d) else dramLost (coreReset deck (recordReset c src d))) := by
    unfold startReset
    rw [if_neg hs, hh]
    exact ⟨_, rfl⟩
  obtain ⟨keep, e⟩ := e
  rw [e]
  have k1 := coreReset_power deck (recordReset c src d)
  have c1 := coreReset_kept deck (recordReset c src d) FD_CAUSE_CLASS (by cases deck <;> decide +kernel) (by decide)
  have c2 := coreReset_kept deck (recordReset c src d) FD_CAUSE_BROWN_SRC (by cases deck <;> decide +kernel) (by decide)
  rw [r3] at k1; rw [r1] at c1; rw [r2] at c2
  have hx : ∀ x : Dev, x.power.fence = d.power.fence → x.power.softDue = none → x.rd FD_CAUSE_CLASS = classCode c → x.rd FD_CAUSE_BROWN_SRC = src →
      (resetHold c keep none x).power.hold = some c ∧ (resetHold c keep none x).power.fence = d.power.fence ∧
      (resetHold c keep none x).power.softDue = none ∧ (resetHold c keep none x).rd PW_STATE_CUR = 1 ∧
      (resetHold c keep none x).rd FD_CAUSE_CLASS = classCode c ∧ (resetHold c keep none x).rd FD_CAUSE_BROWN_SRC = src := by
    intro x a b c' e
    obtain ⟨h1, h2, h3, h4, h5, h6⟩ := resetHold_eff c keep none x
    exact ⟨h1, h2.trans a, h3.trans b, h4, h5.trans c', h6.trans e⟩
  cases keep
  · exact hx (dramLost _) k1.2.1 k1.2.2 c1 c2
  · exact hx _ k1.2.1 k1.2.2 c1 c2

theorem coldReset_eff (d : Dev) (h : d.power.step ≠ .off) :
    (coldReset d).power.step = .off ∧ (coldReset d).power.after = .off ∧ (coldReset d).rd PW_RAIL_VAON_OK = 0 := by
  unfold coldReset
  rw [if_neg h]
  dsimp only
  generalize hx : Dev.lower _ PW_RAIL_VAON_OK = x
  have h1 : x.power.step = .off := by subst hx; rfl
  have h2 : x.rd PW_RAIL_VAON_OK = 0 := by subst hx; simp
  obtain ⟨_, _, _, _, _, _, hp⟩ := (startDrops_plain downOrder .off x (by decide)).1
  rw [hp, startDrops_rd _ _ _ (by decide) (rows_not (by decide))]
  exact ⟨h1, rfl, h2⟩

/-- The register fields that a cut of a field can change. -/
def cutW : List Span :=
  [.row 0x5014 2 0x800 6, .row 0x5014 2 0x800 24, .row 0x2100c 32 0x40 3, .row 0x2100c 32 0x40 4, .row 0x2100c 32 0x40 5, .row 0x21024 32 0x40 0, .row 0x40034 24 0x2000 3, .row 0x40034 24 0x2000 4, .row 0x40034 24 0x2000 29, .row 0x40104 24 0x2000 3, .row 0x40108 24 0x2000 3, .row 0x40108 24 0x2000 29, .row 0x40218 24 0x2000 2, .row 0x40218 24 0x2000 28, .row 0x4021c 24 0x2000 8, .row 0x40304 24 0x2000 1, .row 0x40304 24 0x2000 2, .row 0x40304 24 0x2000 20, .row 0x40304 24 0x2000 22, .row 0x40304 24 0x2000 29, .row 0x40308 24 0x2000 0, .row 0x40308 24 0x2000 8, .row 0x40308 24 0x2000 16, .row 0x40308 24 0x2000 24]

theorem cutAll_rd (cause : Nat) (fr : Nat → RxFrame) (d : Dev) {f : Fld} (hf : ¬ Rows cutW f.bit) :
    (d.each (upTo 24) fun n d => cutField n cause (fr n) d).rd f = d.rd f :=
  (each_after (Changes.refl _ _ d) _ fun n e h => cutField_after h (within_refl _) (covers_refl _) n cause (fr n)).rd hf

theorem pllaUnlock_eff (frs : List (Fin 24 × RxFrame)) (d : Dev) (h : d.power.step = .up) (hl : d.on GC_STATUS_PLLA_LOCK = true) (hc : d.power.waking = false) :
    (pllaUnlock frs d).rd GC_STATUS_PLLA_UNLOCK = 1 ∧ (pllaUnlock frs d).rd GC_STATUS_PLLA_LOCK = 0 ∧
    (pllaUnlock frs d).rd TC_STATUS_XTAL_MODE = 1 ∧ (pllaUnlock frs d).rd FD_WDOG_STATUS_PAUSED = 1 := by
  unfold pllaUnlock
  simp only [h, hl, hc, Bool.not_true, decide_true, decide_false, Bool.true_or, Bool.or_self, Bool.false_eq_true, if_false, reduceCtorEq]
  generalize Dev.each d _ _ = e1
  have key : ∀ x : Dev, ∀ b : Bool, ∀ g : PowerSt → PowerSt, ∀ f : Fld, (if b = true then x.modPower g else x).rd f = x.rd f := by
    intro x b g f; cases b <;> rfl
  simp only [key]
  rw [(enterHoldover_after (Changes.refl _ _ _) (within_refl _) (covers_refl _)).rd (rows_not (by decide)), (enterHoldover_after (Changes.refl _ _ _) (within_refl _) (covers_refl _)).rd (rows_not (by decide)), (enterHoldover_after (Changes.refl _ _ _) (within_refl _) (covers_refl _)).rd (rows_not (by decide)), (enterHoldover_after (Changes.refl _ _ _) (within_refl _) (covers_refl _)).rd (rows_not (by decide)), (calUnlock_after (Changes.refl _ _ _) (within_refl _) (covers_refl _)).rd (rows_not (by decide)), (calUnlock_after (Changes.refl _ _ _) (within_refl _) (covers_refl _)).rd (rows_not (by decide)), (calUnlock_after (Changes.refl _ _ _) (within_refl _) (covers_refl _)).rd (rows_not (by decide)), (calUnlock_after (Changes.refl _ _ _) (within_refl _) (covers_refl _)).rd (rows_not (by decide))]
  refine ⟨?_, ?_, ?_, ?_⟩ <;> simp (disch := decide) [Dev.rd_raise_ne, Dev.rd_lower_ne]

theorem plldUnlock_eff (d : Dev) (h : d.power.step = .up) (hl : d.on GC_STATUS_PLLD_LOCK = true) :
    (plldUnlock d).rd GC_STATUS_PLLD_UNLOCK = 1 ∧ (plldUnlock d).rd GC_STATUS_PLLD_LOCK = 0 ∧ (plldUnlock d).mem = d.mem := by
  unfold plldUnlock
  simp only [h, hl]
  simp only [Bool.not_true, decide_true, decide_false, Bool.true_or, Bool.or_self, Bool.false_eq_true, if_false, reduceCtorEq]
  split <;> refine ⟨?_, ?_, rfl⟩ <;> simp (disch := decide) [Dev.rd_raise_ne, Dev.rd_lower_ne]

theorem plleUnlock_eff (d : Dev) (hl : d.on GC_STATUS_PLLE_LOCK = true) :
    (plleUnlock d).rd GC_STATUS_PLLE_UNLOCK = 1 ∧ (plleUnlock d).rd GC_STATUS_PLLE_LOCK = 0 ∧ (plleUnlock d).mem = d.mem := by
  unfold plleUnlock
  simp only [hl, Bool.not_true, Bool.false_eq_true, if_false]
  refine ⟨?_, ?_, ?_⟩
  · rw [(enDropAll_after (Changes.refl _ _ _) (within_refl _) (covers_refl _)).rd (rows_not (by decide))]; simp (disch := decide) [Dev.rd_lower_ne]
  · rw [(enDropAll_after (Changes.refl _ _ _) (within_refl _) (covers_refl _)).rd (rows_not (by decide))]; simp
  · exact (enDropAll_after (Changes.refl _ _ _) (within_refl _) (covers_refl _)).parts .mem (by decide)

theorem tempSample_eff (t : Nat) (d : Dev) (h : d.power.step = .up) (hc : d.rd PW_STATE_CUR = 1 ∨ d.rd PW_STATE_CUR = 3) :
    (tempSample t d).rd PW_TEMP_TEMP = t % 2 ^ 11 ∧ (tempSample t d).rd PW_TEMP_STALE = 0 ∧ (tempSample t d).mem = d.mem ∧
    (tempSample t d).power = { d.power with temp := t } ∧
    (tempSample t d).rd PW_STATUS_THERM_SHUT = (if toSigned 11 t < 4 * (d.rd PW_THERM_THROTTLE : Int) then 0 else d.rd PW_STATUS_THERM_SHUT) := by
  have hw : d.dieWatched = true := by unfold Dev.dieWatched; rw [h]; rcases hc with hc | hc <;> rw [hc] <;> rfl
  have h2 : d.rd PW_STATE_CUR ≠ 2 := by omega
  unfold tempSample
  rw [hw, if_neg (by decide)]
  dsimp only
  rw [if_neg (show ¬ (d.modPower fun p => { p with temp := t }).rd PW_STATE_CUR = 2 from h2)]
  have hr : (((d.modPower fun p => { p with temp := t }).wr PW_TEMP_TEMP t).lower PW_TEMP_STALE).rd PW_THERM_THROTTLE = d.rd PW_THERM_THROTTLE := by
    rw [Dev.rd_lower_ne _ (by decide), Dev.rd_wr_ne _ _ (by decide)]; rfl
  have hs : (((d.modPower fun p => { p with temp := t }).wr PW_TEMP_TEMP t).lower PW_TEMP_STALE).rd PW_STATUS_THERM_SHUT = d.rd PW_STATUS_THERM_SHUT := by
    rw [Dev.rd_lower_ne _ (by decide), Dev.rd_wr_ne _ _ (by decide)]; rfl
  rw [hr]
  split
  · refine ⟨?_, ?_, rfl, rfl, ?_⟩
    · rw [Dev.rd_lower_ne _ (by decide), Dev.rd_lower_ne _ (by decide), Dev.rd_wr_same]
    · rw [Dev.rd_lower_ne _ (by decide), Dev.rd_lower_same]
    · rw [Dev.rd_lower_same]
  · refine ⟨?_, ?_, rfl, rfl, hs⟩
    · rw [Dev.rd_lower_ne _ (by decide), Dev.rd_wr_same]
    · rw [Dev.rd_lower_same]

theorem thermalShutdown_eff (frs : List (Fin 24 × RxFrame)) (d : Dev) (h : d.power.step = .up) (hc : d.rd PW_STATE_CUR ≠ 4) :
    (thermalShutdown frs d).rd PW_STATUS_THERM_SHUT = 1 ∧ (thermalShutdown frs d).rd PW_STATUS_THERM_SHUT_SEEN = 1 ∧
    (thermalShutdown frs d).mem = d.mem := by
  have hw : d.dieWatched = true := by unfold Dev.dieWatched; rw [h]; simp [hc]
  unfold thermalShutdown
  rw [hw, if_neg (by decide)]
  dsimp only
  split
  · refine ⟨?_, ?_, rfl⟩ <;> simp (disch := decide) [Dev.rd_raise_ne]
  · refine ⟨?_, ?_, ?_⟩
    · rw [(abortSurvey_after (Changes.refl _ _ _) (within_refl _) (covers_refl _)).rd (rows_not (by decide)), (ceCut_after (Changes.refl _ _ _) (within_refl _) (covers_refl _)).rd (rows_not (by decide)), cutAll_rd _ _ _ (rows_not (by decide))]; simp (disch := decide) [Dev.rd_raise_ne]
    · rw [(abortSurvey_after (Changes.refl _ _ _) (within_refl _) (covers_refl _)).rd (rows_not (by decide)), (ceCut_after (Changes.refl _ _ _) (within_refl _) (covers_refl _)).rd (rows_not (by decide)), cutAll_rd _ _ _ (rows_not (by decide))]; simp
    · refine ((abortSurvey_after (Changes.refl _ _ _) (within_refl _) (covers_refl _)).parts .mem (by decide)).trans (((ceCut_after (Changes.refl _ _ _) (within_refl _) (covers_refl _)).parts .mem (by decide)).trans ?_)
      exact (each_after (Changes.refl _ _ _) _ fun n e h => cutField_after h (within_refl _) (covers_refl _) n _ _).parts .mem (by decide)

theorem vrfLevel_eff (g mv : Nat) (d : Dev) (h : d.power.step ≠ .off) (hg : g < 6) :
    (vrfLevel g mv d).bitOn PW_RAIL_VRF_OK g = decide (4750 ≤ mv) ∧ (vrfLevel g mv d).power.vrf = lmod d.power.vrf g (fun _ => mv) ∧
    (vrfLevel g mv d).mem = d.mem := by
  have hb : ∀ (x : Dev) (c : Bool), (x.putBit PW_RAIL_VRF_OK g c).bitOn PW_RAIL_VRF_OK g = c := by
    intro x c; cases c
    · exact (Dev.bitOn_clearBit _ _ _ _ hg).trans (by simp)
    · exact (Dev.bitOn_setBit _ _ _ _ hg).trans (by simp)
  have hp : ∀ (x : Dev) (c : Bool), (x.putBit PW_RAIL_VRF_OK g c).power = x.power ∧ (x.putBit PW_RAIL_VRF_OK g c).mem = x.mem := by
    intro x c; cases c <;> exact ⟨rfl, rfl⟩
  unfold vrfLevel
  rw [if_neg h]
  dsimp only
  generalize hx : Dev.putBit _ PW_RAIL_VRF_OK g (decide (4750 ≤ mv)) = x
  have x1 : x.bitOn PW_RAIL_VRF_OK g = decide (4750 ≤ mv) := by subst hx; exact hb _ _
  have x2 : x.power.vrf = lmod d.power.vrf g (fun _ => mv) := by subst hx; rw [(hp _ _).1]; rfl
  have x3 : x.mem = d.mem := by subst hx; rw [(hp _ _).2]; rfl
  clear hx
  generalize hy : (if x.groupUp g = true then x.modPower fun p => { p with vrfWait := p.vrfWait.filter (· ≠ g) } else x) = y
  have y1 : y.bitOn PW_RAIL_VRF_OK g = decide (4750 ≤ mv) ∧ y.power.vrf = lmod d.power.vrf g (fun _ => mv) ∧ y.mem = d.mem := by
    subst hy; split
    · exact ⟨x1, x2, x3⟩
    · exact ⟨x1, x2, x3⟩
  clear hy
  generalize hz : Dev.each y _ _ = z
  have k := each_after (Changes.refl _ _ y) (upTo 4) fun j e h => headroom_after h (within_refl _) (covers_refl _) (4 * g + j)
  rw [hz] at k
  have z1 : z.bitOn PW_RAIL_VRF_OK g = decide (4750 ≤ mv) ∧ z.power.vrf = lmod d.power.vrf g (fun _ => mv) ∧ z.mem = d.mem :=
    ⟨(Dev.bitOn_of_rd (k.rd (rows_not (by decide))) g).trans y1.1, (congrArg PowerSt.vrf (k.parts .power (by decide))).trans y1.2.1,
     (k.parts .mem (by decide)).trans y1.2.2⟩
  split
  · exact z1
  · exact z1

theorem settlePfail_on (d : Dev) (hn : d.pfailNow = true) (hp : d.rd PW_STATUS_PFAIL = 0) :
    (settlePfail d).rd PW_STATUS_PFAIL = 1 ∧ (settlePfail d).rd PW_STATUS_PFAIL_SEEN = 1 ∧
    (settlePfail d).power = { d.power with pfailAt := d.ns } := by
  have h0 : d.on PW_STATUS_PFAIL = false := by unfold Dev.on; rw [hp]; rfl
  unfold settlePfail
  simp only [hn, h0, Bool.true_eq_false, if_false, if_true]
  have key : ∀ x : Dev, x.regs = ((d.raise PW_STATUS_PFAIL).raise PW_STATUS_PFAIL_SEEN).regs → x.power = { d.power with pfailAt := d.ns } →
      (if x.coreRuns = true then abortSurvey x else x).rd PW_STATUS_PFAIL = 1 ∧ (if x.coreRuns = true then abortSurvey x else x).rd PW_STATUS_PFAIL_SEEN = 1 ∧
      (if x.coreRuns = true then abortSurvey x else x).power = { d.power with pfailAt := d.ns } := by
    intro x hx hy
    have a : x.rd PW_STATUS_PFAIL = 1 := (Dev.rd_of_regs hx _).trans (by simp (disch := decide) [Dev.rd_raise_ne])
    have b : x.rd PW_STATUS_PFAIL_SEEN = 1 := (Dev.rd_of_regs hx _).trans (by simp)
    split
    · exact ⟨((abortSurvey_after (Changes.refl _ _ _) (within_refl _) (covers_refl _)).rd (rows_not (by decide))).trans a, ((abortSurvey_after (Changes.refl _ _ _) (within_refl _) (covers_refl _)).rd (rows_not (by decide))).trans b, ((abortSurvey_after (Changes.refl _ _ _) (within_refl _) (covers_refl _)).parts .power (by decide)).trans hy⟩
    · exact ⟨a, b, hy⟩
  exact key _ rfl rfl

theorem settlePfail_off (d : Dev) (hn : d.pfailNow = false) (hp : d.rd PW_STATUS_PFAIL = 1) (hf : d.power.fence = false) :
    (settlePfail d).rd PW_STATUS_PFAIL = 0 ∧ (settlePfail d).rd PW_STATUS_PFAIL_GLITCH = 1 ∧ (settlePfail d).power = d.power := by
  have h0 : d.on PW_STATUS_PFAIL = true := by unfold Dev.on; rw [hp]; rfl
  unfold settlePfail
  simp only [hn, h0, Bool.false_eq_true, if_false]
  have e : (d.lower PW_STATUS_PFAIL).raiseIf (!d.power.fence) PW_STATUS_PFAIL_GLITCH = (d.lower PW_STATUS_PFAIL).raise PW_STATUS_PFAIL_GLITCH := by
    unfold Dev.raiseIf; rw [hf]; rfl
  rw [e]
  generalize hx : settleServices _ = x
  have k := settleServices_after (Changes.refl _ _ ((d.lower PW_STATUS_PFAIL).raise PW_STATUS_PFAIL_GLITCH)) (within_refl _) (covers_refl _)
  rw [hx] at k
  have x1 : x.rd PW_STATUS_PFAIL = 0 := by rw [k.rd (rows_not (by decide))]; simp (disch := decide) [Dev.rd_raise_ne]
  have x2 : x.rd PW_STATUS_PFAIL_GLITCH = 1 := by rw [k.rd (rows_not (by decide))]; simp
  have x3 : x.power = d.power := k.parts .power (by decide)
  clear hx k
  split
  · have k := drainAll_changes x
    exact ⟨(k.rd (rows_not (by decide))).trans x1, (k.rd (rows_not (by decide))).trans x2, (k.parts .power (by decide)).trans x3⟩
  · exact ⟨x1, x2, x3⟩

theorem pwStateWrite_eff (p : Path) (req : Nat) (d : Dev) (hr : req = 2 ∨ req = 3 ∨ req = 4) (h : d.power.step = .up) (hh : d.power.hold = none)
    (hc : d.rd PW_STATE_CUR = 1) (hb : d.rd PW_STATE_BUSY = 0) (ho : d.rd GC_BOOT_BARE = 0) :
    (pwStateWrite p (nw (req * 256)) d).rd PW_STATE_REQ = req ∧ (pwStateWrite p (nw (req * 256)) d).rd PW_STATE_BUSY = 1 ∧
    (pwStateWrite p (nw (req * 256)) d).rd PW_STATE_CUR = 1 ∧
    (pwStateWrite p (nw (req * 256)) d).power.entry = (if req = 2 then .trim else if req = 3 then .watch else .dormant) := by
  have e0 : bits (nw (req * 256)).toNat 10 8 = req := by rcases hr with rfl | rfl | rfl <;> decide
  have b1 : d.on PW_STATE_BUSY = false := by unfold Dev.on; rw [hb]; rfl
  have b2 : d.on GC_BOOT_BARE = false := by unfold Dev.on; rw [ho]; rfl
  have hm : req < 8 := by omega
  have hx : ∀ x : Dev, x.regs = ((d.wr PW_STATE_REQ req).raise PW_STATE_BUSY).regs → ∀ r : Prop, ∀ _ : Decidable r,
      (if r then x else abortSurvey x).rd PW_STATE_REQ = req ∧ (if r then x else abortSurvey x).rd PW_STATE_BUSY = 1 ∧
      (if r then x else abortSurvey x).rd PW_STATE_CUR = 1 ∧ (if r then x else abortSurvey x).power = x.power := by
    intro x hx r _
    have a : x.rd PW_STATE_REQ = req := (Dev.rd_of_regs hx _).trans (by simp (disch := decide) [Dev.rd_raise_ne, hm])
    have b : x.rd PW_STATE_BUSY = 1 := (Dev.rd_of_regs hx _).trans (by simp)
    have c : x.rd PW_STATE_CUR = 1 := (Dev.rd_of_regs hx _).trans (by simp (disch := decide) [Dev.rd_raise_ne, Dev.rd_wr_ne, hc])
    split
    · exact ⟨a, b, c, rfl⟩
    · exact ⟨((abortSurvey_after (Changes.refl _ _ _) (within_refl _) (covers_refl _)).rd (rows_not (by decide))).trans a, ((abortSurvey_after (Changes.refl _ _ _) (within_refl _) (covers_refl _)).rd (rows_not (by decide))).trans b, ((abortSurvey_after (Changes.refl _ _ _) (within_refl _) (covers_refl _)).rd (rows_not (by decide))).trans c, (abortSurvey_after (Changes.refl _ _ _) (within_refl _) (covers_refl _)).parts .power (by decide)⟩
  have n2 : ¬ (req < 2 ∨ 4 < req) := by omega
  have e : ∃ r : Bool, pwStateWrite p (nw (req * 256)) d =
      if r = true then (((d.wr PW_STATE_REQ req).raise PW_STATE_BUSY).modPower fun q => { q with entry := if req = 2 then .trim else if req = 3 then .watch else .dormant })
      else abortSurvey (((d.wr PW_STATE_REQ req).raise PW_STATE_BUSY).modPower fun q => { q with entry := if req = 2 then .trim else if req = 3 then .watch else .dormant }) := by
    refine ⟨decide (req = 2), ?_⟩
    unfold pwStateWrite
    simp only [e0, b1, b2, hc, hh, h, n2, decide_false, Bool.false_and, Bool.not_false, Bool.and_true, decide_true, Bool.true_or, Bool.not_true,
      Bool.or_self, Bool.false_eq_true, if_false, Option.isSome_none, ne_eq, not_true_eq_false, Bool.and_false, Bool.or_false, decide_eq_true_eq]
  obtain ⟨r, e⟩ := e
  rw [e]
  obtain ⟨e1, e2, e3, e4⟩ := hx _ (rfl : (((d.wr PW_STATE_REQ req).raise PW_STATE_BUSY).modPower fun q => { q with entry := if req = 2 then .trim else if req = 3 then .watch else .dormant }).regs = _) (r = true) _
  exact ⟨e1, e2, e3, by rw [e4]; rfl⟩

theorem stateRequest_eff (p : Path) (req : Nat) (d : Dev) (hr : req = 2 ∨ req = 3 ∨ req = 4) (hp : d.pathOpen p = true) (h : d.power.step = .up)
    (hh : d.power.hold = none) (hc : d.rd PW_STATE_CUR = 1) (hb : d.rd PW_STATE_BUSY = 0) (ho : d.rd GC_BOOT_BARE = 0) :
    (stateRequest req p d).rd PW_STATE_REQ = req ∧ (stateRequest req p d).rd PW_STATE_BUSY = 1 ∧ (stateRequest req p d).rd PW_STATE_CUR = 1 ∧
    (stateRequest req p d).power.entry = (if req = 2 then .trim else if req = 3 then .watch else .dormant) := by
  have hbr : d.blockRuns 0x1000 = true := by unfold Dev.blockRuns; simp [h]
  have e : stateRequest req p d = pwStateWrite p (nw (req * 256)) (d.beginAccess p) := onPort_open _ hp hbr
  rw [e]
  exact pwStateWrite_eff p req (d.beginAccess p) hr (by simpa using h) (by simpa using hh) (by simpa using hc) (by simpa using hb) (by simpa using ho)

theorem calStart_running (d : Dev) : (calStart d).rd CL_STATUS_RUNNING = 1 := by
  have e : (calStart d).regs = ((d.raise CL_STATUS_RUNNING).wr CL_STATUS_STEP 1).regs := rfl
  rw [Dev.rd_of_regs e]
  simp (disch := decide) [Dev.rd_wr_ne]

theorem trimEntry_eff (d : Dev) (hr : d.coreRuns = true) (hc : d.rd PW_STATE_CUR = 1) (he : d.power.entry = .trim) (hd : d.drained = true) :
    (trimEntry d).rd PW_STATE_CUR = 2 ∧ (trimEntry d).rd PW_STATE_REQ = 1 ∧ (trimEntry d).rd PW_STATE_BUSY = 0 ∧
    (trimEntry d).rd CL_STATUS_RUNNING = 1 ∧ (trimEntry d).power.entry = .none := by
  unfold trimEntry
  simp only [hr, hc, he, hd, Bool.not_true, ne_eq, not_true_eq_false, decide_false, decide_true, Bool.true_or, Bool.or_self, Bool.false_eq_true, if_false]
  generalize hx : Dev.modPower _ _ = x
  have h1 : x.rd PW_STATE_CUR = 2 := by subst hx; simp (disch := decide) [Dev.rd_wr_ne, Dev.rd_lower_ne]
  have h2 : x.rd PW_STATE_REQ = 1 := by subst hx; simp (disch := decide) [Dev.rd_wr_ne, Dev.rd_lower_ne]
  have h3 : x.rd PW_STATE_BUSY = 0 := by subst hx; simp
  have h4 : x.power.entry = .none := by subst hx; rfl
  clear hx
  refine ⟨?_, ?_, ?_, ?_, ?_⟩
  · rw [(calStart_after (Changes.refl _ _ _) (within_refl _) (covers_refl _)).rd (rows_not (by decide)), (staleAll_after (Changes.refl _ _ _) (within_refl _) (covers_refl _)).rd (rows_not (by decide)), h1]
  · rw [(calStart_after (Changes.refl _ _ _) (within_refl _) (covers_refl _)).rd (rows_not (by decide)), (staleAll_after (Changes.refl _ _ _) (within_refl _) (covers_refl _)).rd (rows_not (by decide)), h2]
  · rw [(calStart_after (Changes.refl _ _ _) (within_refl _) (covers_refl _)).rd (rows_not (by decide)), (staleAll_after (Changes.refl _ _ _) (within_refl _) (covers_refl _)).rd (rows_not (by decide)), h3]
  · exact calStart_running _
  · rw [(calStart_after (Changes.refl _ _ _) (within_refl _) (covers_refl _)).parts .power (by decide), (staleAll_after (Changes.refl _ _ _) (within_refl _) (covers_refl _)).parts .power (by decide), h4]

theorem watchEntry_eff (d : Dev) (hr : d.coreRuns = true) (he : d.power.entry = .watch) (hd : d.drained = true) (h0 : d.power.deferred = 0) :
    (watchEntry d).rd PW_STATE_CUR = 3 ∧ (watchEntry d).rd PW_STATE_BUSY = 0 ∧ (watchEntry d).rd GC_STATUS_PLLA_LOCK = 0 ∧
    (watchEntry d).rd GC_STATUS_PLLD_LOCK = 0 ∧ (watchEntry d).rd TC_STATUS_XTAL_MODE = 1 ∧ (watchEntry d).power.entry = .none := by
  have htd : ∀ x : Dev, x.power.deferred = 0 → takeDeferred x = x := by intro x hx; unfold takeDeferred; simp [hx]
  have s1 : (stopPorts (commitOpen d)).rd GC_STATUS_PLLA_LOCK = 0 ∧ (stopPorts (commitOpen d)).rd GC_STATUS_PLLD_LOCK = 0 ∧ (stopPorts (commitOpen d)).rd TC_STATUS_XTAL_MODE = 1 := by
    unfold stopPorts
    dsimp only
    refine ⟨?_, ?_, ?_⟩ <;> rw [(powerPorts_after (Changes.refl _ _ _) (within_refl _) (covers_refl _)).rd (rows_not (by decide))] <;> simp (disch := decide) [Dev.rd_raise_ne, Dev.rd_lower_ne]
  have s2 : (stopPorts (commitOpen d)).power.deferred = 0 := by rw [(stopPorts_after (Changes.refl _ _ _) (within_refl _) (covers_refl _)).parts .power (by decide)]; exact (congrArg PowerSt.deferred ((commitOpen_after (Changes.refl _ _ d) (within_refl _) (covers_refl _)).parts .power (by decide))).trans h0
  have e : ∃ b : Bool, watchEntry d = takeDeferred (startDrops ([5, 4].filter fun k =>
      !(((if b = true then stopPorts (commitOpen d) else dropPen 2 (stopPorts (commitOpen d))).wr PW_STATE_CUR 3).lower PW_STATE_BUSY).wkNeeds k) .nothing
      (startSniffs (enterHoldover ((((if b = true then stopPorts (commitOpen d) else dropPen 2 (stopPorts (commitOpen d))).wr PW_STATE_CUR 3).lower PW_STATE_BUSY).modPower fun p => { p with entry := .none })))) := by
    refine ⟨(stopPorts (commitOpen d)).on PW_CFG_DRAM_KEEP, ?_⟩
    unfold watchEntry
    simp only [hr, he, hd, Bool.not_true, ne_eq, not_true_eq_false, decide_false, Bool.or_self, Bool.false_eq_true, if_false]
    generalize stopPorts (commitOpen d) = y
    rfl
  obtain ⟨b, e⟩ := e
  generalize stopPorts (commitOpen d) = q at s1 s2 e
  rw [e]
  generalize hx : (if b = true then q else dropPen 2 (q)) = x
  have k1 : x.rd GC_STATUS_PLLA_LOCK = 0 := by
    subst hx; cases b
    · exact ((dropPen_after (Changes.refl _ _ _) (within_refl _) (covers_refl _) 2).rd (rows_not (by decide))).trans s1.1
    · exact s1.1
  have k2 : x.rd GC_STATUS_PLLD_LOCK = 0 := by
    subst hx; cases b
    · exact ((dropPen_after (Changes.refl _ _ _) (within_refl _) (covers_refl _) 2).rd (rows_not (by decide))).trans s1.2.1
    · exact s1.2.1
  have k3 : x.rd TC_STATUS_XTAL_MODE = 1 := by
    subst hx; cases b
    · exact ((dropPen_after (Changes.refl _ _ _) (within_refl _) (covers_refl _) 2).rd (rows_not (by decide))).trans s1.2.2
    · exact s1.2.2
  have k4 : x.power.deferred = 0 := by
    subst hx; cases b
    · obtain ⟨_, _, _, _, _, h⟩ := dropPen_power 2 (q)
      show (dropPen 2 (q)).power.deferred = 0
      rw [h]; exact s2
    · exact s2
  clear hx e
  generalize List.filter _ [5, 4] = ks
  generalize hy : ((x.wr PW_STATE_CUR 3).lower PW_STATE_BUSY).modPower _ = y
  have y1 : y.rd GC_STATUS_PLLA_LOCK = 0 := by subst hy; simp (disch := decide) [Dev.rd_wr_ne, Dev.rd_lower_ne, k1]
  have y2 : y.rd GC_STATUS_PLLD_LOCK = 0 := by subst hy; simp (disch := decide) [Dev.rd_wr_ne, Dev.rd_lower_ne, k2]
  have y3 : y.rd TC_STATUS_XTAL_MODE = 1 := by subst hy; simp (disch := decide) [Dev.rd_wr_ne, Dev.rd_lower_ne, k3]
  have y4 : y.rd PW_STATE_CUR = 3 := by subst hy; simp (disch := decide) [Dev.rd_wr_ne, Dev.rd_lower_ne]
  have y5 : y.rd PW_STATE_BUSY = 0 := by subst hy; simp
  have y6 : y.power.deferred = 0 ∧ y.power.entry = .none := by subst hy; exact ⟨k4, rfl⟩
  clear hy
  have hq : (startSniffs (enterHoldover y)).power = y.power := ((startSniffs_after (Changes.refl _ _ _) (within_refl _) (covers_refl _)).parts .power (by decide)).trans ((enterHoldover_after (Changes.refl _ _ _) (within_refl _) (covers_refl _)).parts .power (by decide))
  obtain ⟨_, _, _, _, _, _, hz⟩ := (startDrops_plain ks .nothing (startSniffs (enterHoldover y)) (by decide)).1
  rw [htd _ (by rw [hz, hq]; exact y6.1)]
  have hf : ∀ {f : Fld}, ¬ Rows dropW f.bit → ¬ Rows [.one 34910, .row 0x1200 256 0x4 30] f.bit → ¬ Rows [.one 131426, .one 131454, .one 131712, .one 131776, .one 131912, .row 0x5014 2 0x800 6, .row 0x5014 2 0x800 24, .row 0x2100c 32 0x40 3, .row 0x2100c 32 0x40 4, .row 0x2100c 32 0x40 5, .row 0x21024 32 0x40 0] f.bit →
      (startDrops ks .nothing (startSniffs (enterHoldover y))).rd f = y.rd f := fun h1 h2 h3 =>
    (startDrops_rd _ _ _ (by decide) h1).trans
      (((startSniffs_after (Changes.refl _ _ _) (within_refl _) (covers_refl _)).rd h2).trans ((enterHoldover_after (Changes.refl _ _ _) (within_refl _) (covers_refl _)).rd h3))
  refine ⟨?_, ?_, ?_, ?_, ?_, ?_⟩
  · rw [hf (rows_not (by decide)) (rows_not (by decide +kernel)) (rows_not (by decide))]; exact y4
  · rw [hf (rows_not (by decide)) (rows_not (by decide +kernel)) (rows_not (by decide))]; exact y5
  · rw [hf (rows_not (by decide)) (rows_not (by decide +kernel)) (rows_not (by decide))]; exact y1
  · rw [hf (rows_not (by decide)) (rows_not (by decide +kernel)) (rows_not (by decide))]; exact y2
  · rw [hf (rows_not (by decide)) (rows_not (by decide +kernel)) (rows_not (by decide))]; exact y3
  · rw [hz, hq]; exact y6.2

/-- What a wake leaves of Capstan beside the enables. -/
theorem penUp_power (d : Dev) (k : Nat) : ∃ v w, (d.penUp k).power = { d.power with vinArmed := v, vrfWait := w } := by
  unfold Dev.penUp; dsimp only; split
  · exact ⟨_, _, rfl⟩
  · exact ⟨_, _, rfl⟩

theorem startDrops_dormant (k j : Nat) (d : Dev) (hk : k ≠ j) (hks : k ∈ downOrder) (hjs : j ∈ downOrder) (h1 : d.bitOn PW_RAIL_PEN k = true)
    (h2 : d.bitOn PW_RAIL_PEN j = true) :
    (startDrops downOrder .dormant d).power.after = .dormant ∧ (startDrops downOrder .dormant d).power.entry = d.power.entry ∧
    (startDrops downOrder .dormant d).power.drops ≠ [] := by
  have hf : k ∈ downOrder.filter (fun k => (d.modPower fun p => { p with after := .dormant, asserts := [] }).bitOn PW_RAIL_PEN k) ∧
      j ∈ downOrder.filter (fun k => (d.modPower fun p => { p with after := .dormant, asserts := [] }).bitOn PW_RAIL_PEN k) :=
    ⟨List.mem_filter.2 ⟨hks, h1⟩, List.mem_filter.2 ⟨hjs, h2⟩⟩
  unfold startDrops
  dsimp only
  split
  · rename_i hn; rw [hn] at hf; exact absurd hf.1 (by simp)
  · rename_i a r hn
    rw [hn] at hf
    have hr : r ≠ [] := by
      rintro rfl
      simp only [List.mem_singleton] at hf
      exact hk (hf.1.trans hf.2.symm)
    obtain ⟨x, v, p, m, w, hx⟩ := dropPen_power a (d.modPower fun p => { p with after := .dormant, asserts := [] })
    have hre : r.isEmpty = false := by cases r <;> simp_all
    rw [hre, if_neg (by simp)]
    refine ⟨?_, ?_, hr⟩
    · rw [Dev.modPower_power, hx]; rfl
    · rw [Dev.modPower_power, hx]; rfl

theorem coreReset_pen (d : Dev) (deck : Bool) (i : Nat) : (coreReset deck d).bitOn PW_RAIL_PEN i = d.bitOn PW_RAIL_PEN i :=
  Dev.bitOn_of_rd (coreReset_kept deck d PW_RAIL_PEN (by cases deck <;> decide +kernel) (by decide)) i

theorem coreReset_phase (x : Dev) : (coreReset false x).boot.phase = .held := by
  unfold coreReset
  dsimp only
  generalize handlerCut (calAbort (commitCut (burnCut x))) = y
  rfl

theorem dormantEntry_eff (d : Dev) (hr : d.coreRuns = true) (he : d.power.entry = .dormant) (h0 : d.power.drops = []) (hd : d.drained = true)
    (b0 : d.bitOn PW_RAIL_PEN 0 = true) (b1 : d.bitOn PW_RAIL_PEN 1 = true) :
    (dormantEntry d).power.entry = .dormant ∧ (dormantEntry d).power.after = .dormant ∧ (dormantEntry d).power.drops ≠ [] ∧
    (dormantEntry d).boot.phase = .held := by
  have e : dormantEntry d = startDrops downOrder .dormant ((coreReset false (enterHoldover (stopPorts (commitOpen d)))).modPower fun p =>
      { p with entry := .dormant, deferred := d.power.deferred, trimDue := true }) := by
    unfold dormantEntry
    simp only [hr, he, hd, h0, Bool.not_true, ne_eq, not_true_eq_false, decide_false, Bool.or_self, Bool.false_eq_true, if_false, List.isEmpty_nil,
      Bool.false_and, Bool.and_self, Bool.or_true]
  have hb : ∀ i, ((coreReset false (enterHoldover (stopPorts (commitOpen d)))).modPower fun p =>
      { p with entry := .dormant, deferred := d.power.deferred, trimDue := true }).bitOn PW_RAIL_PEN i = d.bitOn PW_RAIL_PEN i := fun i => by
    rw [Dev.modPower_bitOn, coreReset_pen]
    exact (Dev.bitOn_of_rd (((enterHoldover_after (Changes.refl _ _ _) (within_refl _) (covers_refl _)).rd (rows_not (by decide))).trans (((stopPorts_after (Changes.refl _ _ _) (within_refl _) (covers_refl _)).rd (rows_not (by decide))).trans ((commitOpen_after (Changes.refl _ _ _) (within_refl _) (covers_refl _)).rd (rows_not (by decide))))) i)
  rw [e]
  obtain ⟨e1, e2, e3⟩ := startDrops_dormant 0 1 _ (by decide) (by decide) (by decide) ((hb 0).trans b0) ((hb 1).trans b1)
  refine ⟨e2, e1, e3, ?_⟩
  rw [(startDrops_after (Changes.refl _ _ _) (within_refl _) (covers_refl _) _ _).parts .boot (by decide)]
  have : (coreReset false (enterHoldover (stopPorts (commitOpen d)))).boot.phase = .held := by
    generalize enterHoldover (stopPorts (commitOpen d)) = x
    exact coreReset_phase x
  exact this

theorem wakeWatch_eff (m : Nat) (d : Dev) : (wakeWatch m d).rd PW_STATE_BUSY = 1 ∧ (wakeWatch m d).rd PW_WK_STATUS_RUN = 0 ∧
    (wakeWatch m d).power.waking = true ∧ (wakeWatch m d).mem = d.mem := by
  have hr : ∀ (x : Dev) (c : Prop) [Decidable c] (k : Nat), (if c then x else x.penUp k).rd PW_STATE_BUSY = x.rd PW_STATE_BUSY ∧
      (if c then x else x.penUp k).power.waking = x.power.waking ∧ (if c then x else x.penUp k).mem = x.mem := by
    intro x c _ k; split
    · exact ⟨rfl, rfl, rfl⟩
    · obtain ⟨v, w, hv⟩ := penUp_power x k
      exact ⟨Dev.penUp_rd _ _ (by decide), by rw [hv], Dev.penUp_mem _ _⟩
  have hr' : ∀ (x : Dev) (c : Prop) [Decidable c] (k : Nat), (if c then x.penUp k else x).rd PW_STATE_BUSY = x.rd PW_STATE_BUSY ∧
      (if c then x.penUp k else x).power.waking = x.power.waking ∧ (if c then x.penUp k else x).mem = x.mem := by
    intro x c _ k; split
    · obtain ⟨v, w, hv⟩ := penUp_power x k
      exact ⟨Dev.penUp_rd _ _ (by decide), by rw [hv], Dev.penUp_mem _ _⟩
    · exact ⟨rfl, rfl, rfl⟩
  unfold wakeWatch
  dsimp only
  generalize hx : Dev.modPower ((recordWake m d).raise PW_STATE_BUSY) _ = x
  have x1 : x.rd PW_STATE_BUSY = 1 := by subst hx; simp
  have x2 : x.power.waking = true := by subst hx; rfl
  have x3 : x.mem = d.mem := by subst hx; exact (recordWake_after (Changes.refl _ _ _) (within_refl _) (covers_refl _) m).parts .mem (by decide)
  clear hx
  have a := hr x (x.bitOn PW_RAIL_PEN 2 = true) 2
  generalize (if x.bitOn PW_RAIL_PEN 2 = true then x else x.penUp 2) = y at a ⊢
  have b := hr' y ((y.power.pen4Role && !y.bitOn PW_RAIL_PEN 4) = true) 4
  generalize hz : (if (y.power.pen4Role && !y.bitOn PW_RAIL_PEN 4) = true then y.penUp 4 else y) = z at b ⊢
  generalize (y.power.pen5Role && !y.bitOn PW_RAIL_PEN 5) = c
  have e : ∀ g : Dev, g.regs = (((z.modPower fun p => { p with asserts := if c = true then [5] else [] }).lower PW_WK_STATUS_RUN)).regs → g.rd PW_STATE_BUSY = 1 ∧ g.rd PW_WK_STATUS_RUN = 0 := by
    intro g hg
    refine ⟨(Dev.rd_of_regs hg _).trans ?_, (Dev.rd_of_regs hg _).trans ?_⟩
    · rw [Dev.rd_lower_ne _ (by decide), Dev.modPower_rd, b.1, a.1, x1]
    · simp
  obtain ⟨e1, e2⟩ := e _ (rfl : ({ (z.modPower fun p => { p with asserts := if c = true then [5] else [] }).lower PW_WK_STATUS_RUN with ts := { z.ts with burst := [], resniff := [] } } : Dev).regs = _)
  refine ⟨e1, e2, ?_, ?_⟩
  · show z.power.waking = true
    rw [b.2.1, a.2.1, x2]
  · show z.mem = _
    rw [b.2.2, a.2.2, x3]

theorem fireWake_eff (w : WakeSource) (d : Dev) (hw : d.wakeEnabled w = true) (he : d.power.entry = .none) (hc : d.rd PW_STATE_CUR = 3)
    (hk : d.power.waking = false) : (fireWake w d).rd PW_STATE_BUSY = 1 ∧ (fireWake w d).rd PW_WK_STATUS_RUN = 0 ∧
    (fireWake w d).power.waking = true ∧ (fireWake w d).mem = d.mem := by
  have e : fireWake w d = wakeWatch (2 ^ wakeBit w) d := by
    unfold fireWake
    simp [hw, he, hc, hk]
  rw [e]; exact wakeWatch_eff _ _

theorem enableAssertStep_eff (k : Nat) (r : List Nat) (d : Dev) (h : d.power.asserts = k :: r) (hk : k < 6) :
    (enableAssertStep d).bitOn PW_RAIL_PEN k = true ∧ (enableAssertStep d).power.asserts = r ∧ (enableAssertStep d).mem = d.mem := by
  unfold enableAssertStep
  rw [h]
  exact ⟨Dev.penUp_bit _ hk, rfl, Dev.penUp_mem _ _⟩

theorem reach_rd (n : Nat) (d : Dev) {f : Fld} (h : f.bit ≠ FD_WDOG_STATUS_ELAPSED.bit) : (d.reach n).rd f = d.rd f := by
  refine (Dev.reach_after (Changes.refl _ _ d) (within_refl _) (covers_refl _) n).rd ?_
  rintro ⟨w, hm, hh⟩
  simp only [List.mem_singleton] at hm
  subst hm
  exact h hh

theorem row_bit_ne {b i s lo n k : Nat} (h : lo < 8 * s) (hb : n < b * 8 ∨ b * 8 + k ≤ n) (hi : i * s * 8 + lo < k) : (b + i * s) * 8 + lo ≠ n := by
  intro h'; omega

theorem sniffBurst_eff (d : Dev) (hc : d.rd PW_STATE_CUR = 3) (hk : d.power.waking = false) :
    (sniffBurst d).rd PW_WK_STATUS_RUN = 1 ∧ (sniffBurst d).ts.burst = d.wkEnabled.filter fun e => !d.excluded (d.rd (PW_WK_ENT_BERTH e)) := by
  have hen : ∀ n e, (d.reach n).rd (PW_WK_ENT_EN e) = d.rd (PW_WK_ENT_EN e) := fun n e => reach_rd _ _ (by
    simp only [PW_WK_ENT_EN, FD_WDOG_STATUS_ELAPSED]; omega)
  have hbe : ∀ n e, (d.reach n).rd (PW_WK_ENT_BERTH e) = d.rd (PW_WK_ENT_BERTH e) := fun n e => reach_rd _ _ (by
    simp only [PW_WK_ENT_BERTH, FD_WDOG_STATUS_ELAPSED]; omega)
  have hex : ∀ n b, (d.reach n).excluded b = d.excluded b := fun n b => Dev.bitOn_of_rd (reach_rd _ _ (by
    simp only [TS_EXCL_BERTHS, FD_WDOG_STATUS_ELAPSED]; omega)) _
  have hwk : ∀ n, (d.reach n).wkEnabled = d.wkEnabled := fun n => by
    unfold Dev.wkEnabled; congr 1; funext e; exact Dev.on_of_rd (hen n e)
  unfold sniffBurst
  simp only [hc, hk, ne_eq, not_true_eq_false, decide_false, Bool.or_self, Bool.false_eq_true, if_false, hwk, hbe, hex]
  exact ⟨(Dev.rd_of_regs (d := (Dev.reach d _).raise PW_WK_STATUS_RUN) rfl _).trans (by simp), trivial⟩

theorem trip_frame (e dev : Nat) (d : Dev) : (trip e dev d).mem = d.mem ∧ (trip e dev d).freeCtr = d.freeCtr ∧
    ∀ x, x ∉ d.ts.burst → x ∉ (trip e dev d).ts.burst := by
  refine ⟨(trip_after (Changes.refl _ _ _) (within_refl _) (covers_refl _) e dev).parts .mem (by decide), (trip_after (Changes.refl _ _ _) (within_refl _) (covers_refl _) e dev).parts .freeCtr (by decide), fun x hx => ?_⟩
  have hw : ∀ m (y : Dev), x ∉ y.ts.burst → x ∉ (wakeWatch m y).ts.burst := by
    intro m y hy; unfold wakeWatch; simp
  have hf : ∀ y : Dev, x ∉ y.ts.burst → x ∉ (fireWake .detect y).ts.burst := by
    intro y hy
    unfold fireWake wakeDormant
    dsimp only
    split
    · exact hy
    split
    · split
      · exact hy
      · exact hy
    split
    · exact hw _ _ hy
    split
    · show x ∉ (Dev.penUp _ 1).ts.burst
      unfold Dev.penUp recordWake Dev.raiseIf
      dsimp only
      repeat' split
      all_goals exact hy
    · exact hy
  unfold trip
  dsimp only
  apply hf
  split <;> exact hx

/-- The register fields that a sniff's field can change. -/
def sniffFieldW : List Span :=
  [.one 98752, .row 0x40030 24 0x2000 0, .row 0x40030 24 0x2000 7, .row 0x40030 24 0x2000 16]

theorem sniffField_ts (b t : Nat) (d : Dev) : (sniffField b t d).ts.detectors = d.ts.detectors ∧ (sniffField b t d).ts.burst = d.ts.burst ∧
    (sniffField b t d).ts.resniff = d.ts.resniff := by
  have hr : ∀ (x : Dev) n, (x.reach n).ts = x.ts := fun x n => (Dev.reach_after (Changes.refl _ _ x) (within_refl _) (covers_refl _) n).parts .ts (by decide)
  have e : ∀ z : Dev, ∀ n f, ((z.reach n).modField (b / 64) f).ts = z.ts := fun z n f => hr z n
  have k : ∀ (p : Bool) (x y : Dev), x.ts = d.ts → y.ts = d.ts → (if p = true then x else y).ts = d.ts := by
    intro p x y hx hy
    cases p <;> assumption
  unfold sniffField
  dsimp only
  rw [e]
  dsimp only
  rw [hr, k _ _ _ (hr _ _) (((each_after (Changes.refl _ _ _) _ fun j e h => ?_ : Changes [.regs, .chans] [.every] _ _).parts .ts (by decide)).trans (hr _ _))]
  rotate_left
  · split
    · exact sendSelect_after h (by decide) (by decide) ..
    · exact sendSelect_after h (by decide) (by decide) ..
  exact ⟨rfl, rfl, rfl⟩

/-- A sniff that is due: its field stands, then its measurement is taken. -/
theorem sniff_eff (e x t : Nat) (d : Dev) (hs : d.sniffDue e = some t) (hc : d.rd PW_STATE_CUR = 3) (hk : d.power.waking = false)
    (hn : d.on (PW_WK_ENT_EN e) = true) (hx : d.excluded (d.rd (PW_WK_ENT_BERTH e)) = false) :
    (sniff e x d).mem = d.mem ∧ ∃ (y : Dev) (c : Bool), y.ts.detectors = d.ts.detectors ∧ sniff e x d = (sniffed e x t y).flag PW_WK_STATUS_RUN c ∧
      Changes [.regs, .time, .chans, .ts, .clk] sniffFieldW d y := by
  have hd : (takeSniff e d).ts.detectors = d.ts.detectors := by unfold takeSniff; split <;> rfl
  refine ⟨(sniff_after (Changes.refl _ _ d) (within_refl _) (covers_refl _) e x).parts .mem (by decide),
    sniffField (d.rd (PW_WK_ENT_BERTH e)) t (takeSniff e d),
    (let z := sniffed e x t (sniffField (d.rd (PW_WK_ENT_BERTH e)) t (takeSniff e d)); !z.ts.burst.isEmpty || !z.ts.resniff.isEmpty), (sniffField_ts _ _ _).1.trans hd, ?_,
    sniffField_after (takeSniff_after (Changes.refl _ _ d) (by decide) (by decide) e) (by decide) (by decide) _ _⟩
  unfold sniff
  simp only [hs, hc, hk, hn, hx, ne_eq, not_true_eq_false, decide_false, Bool.or_self, Bool.not_true, Bool.false_eq_true, if_false]

end Sys2Proof.Machine
end

