-- ==== Sys2Proof/Laws/EffectsBoot.lean ====
section
/-!
SUPPORT. What the operations of Machine/Boot do.
-/

set_option Elab.async false
set_option linter.all false

namespace Sys2Proof.Machine

theorem verify_of_fuses {d e : Dev} (h : e.fuses = d.fuses) (img : List Byte) (sz : Option Nat) : e.verify img sz = d.verify img sz := by
  have h1 : e.secureFuses = d.secureFuses := by unfold Dev.secureFuses; rw [h]
  have h2 : ∀ k p, e.imageKeyOk k p = d.imageKeyOk k p := by
    intro k p; unfold Dev.imageKeyOk Dev.hashFuse; rw [h1, h]
  have h3 : ∀ i, e.decrypted i = d.decrypted i := by intro i; unfold Dev.decrypted; rw [h]
  unfold Dev.verify
  simp only [h2, h3, h]

/-- What the choice of the source leaves: Capstan, memory, and every register but those of the boot. -/
theorem bootFrom_eff (last : Nat) (x : Dev) :
    (bootFrom last x).power = x.power ∧ (bootFrom last x).rd PW_STATE_CUR = x.rd PW_STATE_CUR ∧ (bootFrom last x).rd PW_STATE_BUSY = x.rd PW_STATE_BUSY ∧
    (bootFrom last x).rd GC_STRAP_BOOT_SRC = x.rd GC_STRAP_BOOT_SRC := by
  unfold bootFrom
  have k : ∀ z w : Dev, z.power = w.power ∧ z.rd PW_STATE_CUR = w.rd PW_STATE_CUR ∧ z.rd PW_STATE_BUSY = w.rd PW_STATE_BUSY ∧
      z.rd GC_STRAP_BOOT_SRC = w.rd GC_STRAP_BOOT_SRC → w.power = x.power ∧ w.rd PW_STATE_CUR = x.rd PW_STATE_CUR ∧ w.rd PW_STATE_BUSY = x.rd PW_STATE_BUSY ∧
      w.rd GC_STRAP_BOOT_SRC = x.rd GC_STRAP_BOOT_SRC → z.power = x.power ∧ z.rd PW_STATE_CUR = x.rd PW_STATE_CUR ∧ z.rd PW_STATE_BUSY = x.rd PW_STATE_BUSY ∧
      z.rd GC_STRAP_BOOT_SRC = x.rd GC_STRAP_BOOT_SRC := by
    rintro z w ⟨a, b, c, e⟩ ⟨a', b', c', e'⟩; exact ⟨a.trans a', b.trans b', c.trans c', e.trans e'⟩
  split
  · exact k _ _ ⟨((startSource_after (Changes.refl _ _ _) (within_refl _) (covers_refl _) 0).parts .power (by decide)), ((startSource_after (Changes.refl _ _ _) (within_refl _) (covers_refl _) 0).rd (rows_not (by decide))), ((startSource_after (Changes.refl _ _ _) (within_refl _) (covers_refl _) 0).rd (rows_not (by decide))), ((startSource_after (Changes.refl _ _ _) (within_refl _) (covers_refl _) 0).rd (rows_not (by decide)))⟩ ⟨((clearDeck_after (Changes.refl _ _ _) (within_refl _) (covers_refl _)).parts .power (by decide)), ((clearDeck_after (Changes.refl _ _ _) (within_refl _) (covers_refl _)).rd (rows_not (by decide))), ((clearDeck_after (Changes.refl _ _ _) (within_refl _) (covers_refl _)).rd (rows_not (by decide))), ((clearDeck_after (Changes.refl _ _ _) (within_refl _) (covers_refl _)).rd (rows_not (by decide)))⟩
  split
  · exact ⟨((startFetch_after (Changes.refl _ _ _) (within_refl _) (covers_refl _) 3).parts .power (by decide)), ((startFetch_after (Changes.refl _ _ _) (within_refl _) (covers_refl _) 3).rd (rows_not (by decide))), ((startFetch_after (Changes.refl _ _ _) (within_refl _) (covers_refl _) 3).rd (rows_not (by decide))), ((startFetch_after (Changes.refl _ _ _) (within_refl _) (covers_refl _) 3).rd (rows_not (by decide)))⟩
  split
  · exact ⟨((takePort_after (Changes.refl _ _ _) (within_refl _) (covers_refl _) _ 0).parts .power (by decide)), ((takePort_after (Changes.refl _ _ _) (within_refl _) (covers_refl _) _ 0).rd (rows_not (by decide))), ((takePort_after (Changes.refl _ _ _) (within_refl _) (covers_refl _) _ 0).rd (rows_not (by decide))), ((takePort_after (Changes.refl _ _ _) (within_refl _) (covers_refl _) _ 0).rd (rows_not (by decide)))⟩
  split
  · exact k _ _ ⟨((startFetch_after (Changes.refl _ _ _) (within_refl _) (covers_refl _) _).parts .power (by decide)), ((startFetch_after (Changes.refl _ _ _) (within_refl _) (covers_refl _) _).rd (rows_not (by decide))), ((startFetch_after (Changes.refl _ _ _) (within_refl _) (covers_refl _) _).rd (rows_not (by decide))), ((startFetch_after (Changes.refl _ _ _) (within_refl _) (covers_refl _) _).rd (rows_not (by decide)))⟩ ⟨((countTrial_after (Changes.refl _ _ _) (within_refl _) (covers_refl _) _).parts .power (by decide)), ((countTrial_after (Changes.refl _ _ _) (within_refl _) (covers_refl _) _).rd (rows_not (by decide))), ((countTrial_after (Changes.refl _ _ _) (within_refl _) (covers_refl _) _).rd (rows_not (by decide))), ((countTrial_after (Changes.refl _ _ _) (within_refl _) (covers_refl _) _).rd (rows_not (by decide)))⟩
  · exact k _ _ ⟨((nextCandidate_after (Changes.refl _ _ _) (within_refl _) (covers_refl _)).parts .power (by decide)), ((nextCandidate_after (Changes.refl _ _ _) (within_refl _) (covers_refl _)).rd (rows_not (by decide))), ((nextCandidate_after (Changes.refl _ _ _) (within_refl _) (covers_refl _)).rd (rows_not (by decide))), ((nextCandidate_after (Changes.refl _ _ _) (within_refl _) (covers_refl _)).rd (rows_not (by decide)))⟩ ⟨((noteTried_after (Changes.refl _ _ _) (within_refl _) (covers_refl _) _ _ _).parts .power (by decide)), ((noteTried_after (Changes.refl _ _ _) (within_refl _) (covers_refl _) _ _ _).rd (rows_not (by decide))), ((noteTried_after (Changes.refl _ _ _) (within_refl _) (covers_refl _) _ _ _).rd (rows_not (by decide))), ((noteTried_after (Changes.refl _ _ _) (within_refl _) (covers_refl _) _ _ _).rd (rows_not (by decide)))⟩

/-- What the reads of the directory at the release leave. -/
theorem releaseReads (q : Dev) :
    (flashRead (dirRead 2) (flashRead (dirRead 1) (recoveryFrames (tamperDue (enterHoldover q))))).power = q.power ∧
    (flashRead (dirRead 2) (flashRead (dirRead 1) (recoveryFrames (tamperDue (enterHoldover q))))).rd PW_STATE_CUR = q.rd PW_STATE_CUR ∧
    (flashRead (dirRead 2) (flashRead (dirRead 1) (recoveryFrames (tamperDue (enterHoldover q))))).rd PW_STATE_BUSY = q.rd PW_STATE_BUSY ∧
    (flashRead (dirRead 2) (flashRead (dirRead 1) (recoveryFrames (tamperDue (enterHoldover q))))).rd GC_STRAP_BOOT_SRC = q.rd GC_STRAP_BOOT_SRC :=
  ⟨((flashRead_after (Changes.refl _ _ _) (within_refl _) (covers_refl _) _).parts .power (by decide)).trans (((flashRead_after (Changes.refl _ _ _) (within_refl _) (covers_refl _) _).parts .power (by decide)).trans (((recoveryFrames_after (Changes.refl _ _ _) (within_refl _) (covers_refl _)).parts .power (by decide)).trans (((tamperDue_after (Changes.refl _ _ _) (within_refl _) (covers_refl _)).parts .power (by decide)).trans ((enterHoldover_after (Changes.refl _ _ _) (within_refl _) (covers_refl _)).parts .power (by decide))))),
   ((flashRead_after (Changes.refl _ _ _) (within_refl _) (covers_refl _) _).rd (rows_not (by decide))).trans (((flashRead_after (Changes.refl _ _ _) (within_refl _) (covers_refl _) _).rd (rows_not (by decide))).trans (((recoveryFrames_after (Changes.refl _ _ _) (within_refl _) (covers_refl _)).rd (rows_not (by decide))).trans (((tamperDue_after (Changes.refl _ _ _) (within_refl _) (covers_refl _)).rd (rows_not (by decide))).trans ((enterHoldover_after (Changes.refl _ _ _) (within_refl _) (covers_refl _)).rd (rows_not (by decide)))))),
   ((flashRead_after (Changes.refl _ _ _) (within_refl _) (covers_refl _) _).rd (rows_not (by decide))).trans (((flashRead_after (Changes.refl _ _ _) (within_refl _) (covers_refl _) _).rd (rows_not (by decide))).trans (((recoveryFrames_after (Changes.refl _ _ _) (within_refl _) (covers_refl _)).rd (rows_not (by decide))).trans (((tamperDue_after (Changes.refl _ _ _) (within_refl _) (covers_refl _)).rd (rows_not (by decide))).trans ((enterHoldover_after (Changes.refl _ _ _) (within_refl _) (covers_refl _)).rd (rows_not (by decide)))))),
   ((flashRead_after (Changes.refl _ _ _) (within_refl _) (covers_refl _) _).rd (rows_not (by decide))).trans (((flashRead_after (Changes.refl _ _ _) (within_refl _) (covers_refl _) _).rd (rows_not (by decide))).trans (((recoveryFrames_after (Changes.refl _ _ _) (within_refl _) (covers_refl _)).rd (rows_not (by decide))).trans (((tamperDue_after (Changes.refl _ _ _) (within_refl _) (covers_refl _)).rd (rows_not (by decide))).trans ((enterHoldover_after (Changes.refl _ _ _) (within_refl _) (covers_refl _)).rd (rows_not (by decide))))))⟩

theorem coreRelease_eff (env : BootEnv) (d : Dev) :
    (coreRelease env d).power.hold = none ∧ (coreRelease env d).power.fence = false ∧ (coreRelease env d).rd PW_STATE_CUR = 1 ∧
    (coreRelease env d).rd PW_STATE_BUSY = 0 ∧ (coreRelease env d).rd GC_STRAP_BOOT_SRC = env.bootSrc.val := by
  unfold coreRelease
  dsimp only
  generalize hx : Dev.modBoot _ _ = x
  obtain ⟨a, b, c, e⟩ := bootFrom_eff x.boot.lastSource x
  rw [a, b, c, e]
  clear a b c e
  subst hx
  generalize hz : Dev.flag (Dev.wr _ GC_STRAP_BOOT_SRC _) GC_STRAP_CASCADE_MASTER _ = z
  have z1 : z.power.hold = none ∧ z.power.fence = false := by subst hz; exact ⟨rfl, rfl⟩
  have z2 : z.rd PW_STATE_CUR = 1 := by subst hz; simp (disch := decide) [Dev.rd_flag_ne, Dev.rd_wr_ne, Dev.rd_lower_ne]
  have z3 : z.rd PW_STATE_BUSY = 0 := by subst hz; simp (disch := decide) [Dev.rd_flag_ne, Dev.rd_wr_ne, Dev.rd_lower_ne]
  have z4 : z.rd GC_STRAP_BOOT_SRC = env.bootSrc.val := by
    subst hz; rw [Dev.rd_flag_ne _ _ (by decide), Dev.rd_wr_same]; exact Nat.mod_eq_of_lt env.bootSrc.isLt
  clear hz
  generalize hw : readSlots _ = w
  have hw' : w.power = z.power ∧ w.rd PW_STATE_CUR = z.rd PW_STATE_CUR ∧ w.rd PW_STATE_BUSY = z.rd PW_STATE_BUSY ∧
      w.rd GC_STRAP_BOOT_SRC = z.rd GC_STRAP_BOOT_SRC := by
    subst hw
    refine ⟨((readSlots_after (Changes.refl _ _ _) (within_refl _) (covers_refl _)).parts .power (by decide)).trans ?_, (((readSlots_after (Changes.refl _ _ _) (within_refl _) (covers_refl _)).rd (rows_not (by decide)))).trans (Dev.rd_raiseIf_ne _ _ (by decide)), (((readSlots_after (Changes.refl _ _ _) (within_refl _) (covers_refl _)).rd (rows_not (by decide)))).trans (Dev.rd_raiseIf_ne _ _ (by decide)),
      (((readSlots_after (Changes.refl _ _ _) (within_refl _) (covers_refl _)).rd (rows_not (by decide)))).trans (Dev.rd_raiseIf_ne _ _ (by decide))⟩
    unfold Dev.raiseIf; split <;> rfl
  clear hw
  have hv : ∀ c : Prop, ∀ _ : Decidable c, (if c then rebuildCrash (loadTrims w) else w).power = z.power ∧
      (if c then rebuildCrash (loadTrims w) else w).rd PW_STATE_CUR = z.rd PW_STATE_CUR ∧
      (if c then rebuildCrash (loadTrims w) else w).rd PW_STATE_BUSY = z.rd PW_STATE_BUSY ∧
      (if c then rebuildCrash (loadTrims w) else w).rd GC_STRAP_BOOT_SRC = z.rd GC_STRAP_BOOT_SRC := by
    intro c _; split
    · exact ⟨(((rebuildCrash_after (Changes.refl _ _ _) (within_refl _) (covers_refl _)).parts .power (by decide)).trans ((loadTrims_after (Changes.refl _ _ _) (within_refl _) (covers_refl _)).parts .power (by decide))).trans hw'.1, ((((rebuildCrash_after (Changes.refl _ _ _) (within_refl _) (covers_refl _)).rd (rows_not (by decide)))).trans ((loadTrims_after (Changes.refl _ _ _) (within_refl _) (covers_refl _)).rd (rows_not (by decide)))).trans hw'.2.1,
        ((((rebuildCrash_after (Changes.refl _ _ _) (within_refl _) (covers_refl _)).rd (rows_not (by decide)))).trans ((loadTrims_after (Changes.refl _ _ _) (within_refl _) (covers_refl _)).rd (rows_not (by decide)))).trans hw'.2.2.1, ((((rebuildCrash_after (Changes.refl _ _ _) (within_refl _) (covers_refl _)).rd (rows_not (by decide)))).trans ((loadTrims_after (Changes.refl _ _ _) (within_refl _) (covers_refl _)).rd (rows_not (by decide)))).trans hw'.2.2.2⟩
    · exact hw'
  have hq' := hv (d.power.hold = some .cold) inferInstance
  generalize ite (d.power.hold = some .cold) (rebuildCrash (loadTrims w)) w = q at hq' ⊢
  obtain ⟨r1, r2, r3, r4⟩ := releaseReads q
  generalize flashRead (dirRead 2) (flashRead (dirRead 1) (recoveryFrames (tamperDue (enterHoldover q)))) = y at r1 r2 r3 r4 ⊢
  refine ⟨?_, ?_, ?_, ?_, ?_⟩
  · show (y.wr GC_BOOT_STAGE 2).power.hold = none
    rw [Dev.wr_power, r1, hq'.1, z1.1]
  · show (y.wr GC_BOOT_STAGE 2).power.fence = false
    rw [Dev.wr_power, r1, hq'.1, z1.2]
  · show (y.wr GC_BOOT_STAGE 2).rd _ = _
    rw [Dev.rd_wr_ne _ _ (by decide), r2, hq'.2.1, z2]
  · show (y.wr GC_BOOT_STAGE 2).rd _ = _
    rw [Dev.rd_wr_ne _ _ (by decide), r3, hq'.2.2.1, z3]
  · show (y.wr GC_BOOT_STAGE 2).rd _ = _
    rw [Dev.rd_wr_ne _ _ (by decide), r4, hq'.2.2.2, z4]

theorem resetRelease_eff (env : BootEnv) (c : ResetClass) (d : Dev) (hh : d.power.hold = some c) (hc : c ≠ .brown) (hs : d.power.step = .up)
    (hr : d.railsOk = true) : (resetRelease env d).power.hold = none ∧ (resetRelease env d).power.fence = false ∧
    (resetRelease env d).rd PW_STATE_CUR = 1 ∧ (resetRelease env d).rd PW_STATE_BUSY = 0 ∧ (resetRelease env d).rd GC_STRAP_BOOT_SRC = env.bootSrc.val := by
  unfold resetRelease
  rw [hh]
  simp only [hs, hr, hc, ne_eq, not_true_eq_false, decide_false, Bool.not_true, Bool.false_and, Bool.or_self, Bool.false_eq_true, if_false]
  exact coreRelease_eff _ _

theorem pllLock_d (env : BootEnv) (d : Dev) (hs : d.power.step = .up) (hw : d.power.waking = false) (hc : d.rd PW_STATE_CUR = 1)
    (hl : d.on GC_STATUS_PLLD_LOCK = false) : pllLock .d env d = d.raise GC_STATUS_PLLD_LOCK := by
  unfold pllLock
  simp only [hs, hw, hc, hl]
  simp only [decide_true, Bool.true_and, Bool.or_true, Bool.not_true, Bool.or_self, Bool.false_eq_true, if_false, show (1 : Nat) < 3 by decide]
  unfold pllLock.afterLock
  simp [Dev.raise, hs, hw]

theorem pllLock_e (env : BootEnv) (d : Dev) (hs : d.power.step = .up) (hh : d.power.hold = none) (hc : d.rd PW_STATE_CUR < 3) (hw : d.power.waking = false)
    (he : d.on GC_CFG_PLLE_EN = true) : pllLock .e env d = d.raise GC_STATUS_PLLE_LOCK := by
  unfold pllLock
  simp [hs, hh, hc, hw, he]

theorem pllLock_a (env : BootEnv) (d : Dev) (hs : d.power.step = .up) (hw : d.power.waking = false) (hh : d.power.hold = none) (hc : d.rd PW_STATE_CUR = 1)
    (hl : d.on GC_STATUS_PLLA_LOCK = false) :
    pllLock .a env d = settleServices (flushTimeEvents (calRelock (tamperDue (((d.raise GC_STATUS_PLLA_LOCK).lower TC_STATUS_XTAL_MODE).lower FD_WDOG_STATUS_PAUSED)))) := by
  unfold pllLock
  simp only [hs, hw, hc, hl]
  simp only [decide_true, Bool.true_and, Bool.or_true, Bool.not_true, Bool.or_self, Bool.false_eq_true, if_false, show (1 : Nat) < 3 by decide]
  simp [Dev.raise, hs, hw, hh]

/-- With nothing held and no access waiting, a lock lets nothing else run. -/
theorem settle_none (d : Dev) (h0 : d.dramWait = []) (g0 : (d.gwp 0).held = []) (g1 : (d.gwp 1).held = []) :
    (settleFrames (serveDram d)).regs = d.regs ∧ (settleFrames (serveDram d)).mem = d.mem := by
  have e1 : ∀ x : Dev, (x.gwp 0).held = [] → (x.gwp 1).held = [] → settleFrames x = x := by
    intro x a b; unfold settleFrames Dev.each; simp [a, b]
  have e2 : (serveDram d).regs = d.regs ∧ (serveDram d).mem = d.mem ∧ (serveDram d).gw = d.gw := by
    unfold serveDram; split
    · rw [h0]; exact ⟨rfl, rfl, rfl⟩
    · exact ⟨rfl, rfl, rfl⟩
  rw [e1 _ (by unfold Dev.gwp; rw [e2.2.2]; exact g0) (by unfold Dev.gwp; rw [e2.2.2]; exact g1)]
  exact ⟨e2.1, e2.2.1⟩

theorem checkImage_ok (img : List Byte) (sz : Option Nat) (d : Dev) (m : Manifest) (hk : d.boot.keepDeck = false) (h : d.verify img sz = .ok m) :
    (checkImage img sz d).boot.phase = .apply ∧ (checkImage img sz d).boot.manifest = some m ∧ (checkImage img sz d).boot.staged = d.boot.staged ∧
    (checkImage img sz d).rd GC_BOOT_STAGE = 4 ∧ (checkImage img sz d).mem = d.mem := by
  have e : checkImage img sz d = powerPorts (((noteKeyMode img sz (d.wr GC_BOOT_STAGE 3)).wr GC_BOOT_STAGE 4).modBoot fun b =>
      { b with phase := .apply, manifest := some m, fetched := img.length }) := by
    have hb : (noteKeyMode img sz (d.wr GC_BOOT_STAGE 3)).boot = d.boot := ((noteKeyMode_after (Changes.refl _ _ _) (within_refl _) (covers_refl _) img sz).parts .boot (by decide))
    have hv : (noteKeyMode img sz (d.wr GC_BOOT_STAGE 3)).verify img sz = .ok m := by
      rw [verify_of_fuses (show (noteKeyMode img sz (d.wr GC_BOOT_STAGE 3)).fuses = d.fuses from ((noteKeyMode_after (Changes.refl _ _ _) (within_refl _) (covers_refl _) img sz).parts .fuses (by decide)))]; exact h
    unfold checkImage
    simp only [hv, hb, hk, Bool.false_and, Bool.false_eq_true, if_false]
  rw [e]
  generalize hx : noteKeyMode img sz (d.wr GC_BOOT_STAGE 3) = x
  have h1 : x.boot = d.boot := by subst hx; exact ((noteKeyMode_after (Changes.refl _ _ _) (within_refl _) (covers_refl _) img sz).parts .boot (by decide))
  have h2 : x.mem = d.mem := by subst hx; exact ((noteKeyMode_after (Changes.refl _ _ _) (within_refl _) (covers_refl _) img sz).parts .mem (by decide))
  have hb : ∀ y : Dev, (powerPorts y).boot = y.boot := fun y => ((powerPorts_after (Changes.refl _ _ _) (within_refl _) (covers_refl _)).parts .boot (by decide))
  have hm : ∀ y : Dev, (powerPorts y).mem = y.mem := fun y => ((powerPorts_after (Changes.refl _ _ _) (within_refl _) (covers_refl _)).parts .mem (by decide))
  rw [hb, hm, ((powerPorts_after (Changes.refl _ _ _) (within_refl _) (covers_refl _)).rd (rows_not (by decide)))]
  refine ⟨rfl, rfl, ?_, ?_, h2⟩
  · show x.boot.staged = _
    rw [h1]
  · show (x.wr GC_BOOT_STAGE 4).rd GC_BOOT_STAGE = 4
    simp

theorem noteTried_first (id err sect : Nat) (d : Dev) (ht : d.boot.tried = []) :
    (noteTried id err sect d).rd GC_BOOT_ERR_FIRST = err % 256 ∧ (noteTried id err sect d).boot.tried ≠ [] ∧
    (noteTried id err sect d).boot.keepDeck = d.boot.keepDeck ∧ (noteTried id err sect d).boot.source = d.boot.source ∧
    (noteTried id err sect d).boot.others = d.boot.others ∧ (noteTried id err sect d).mem = d.mem := by
  have e : (noteTried id err sect d).regs = ((d.wr GC_BOOT_ERR_FIRST err).wr GC_BOOT_ERR_FIRST_SECT sect).regs := by
    unfold noteTried bootErr; simp only [ht]; rfl
  refine ⟨?_, ?_, ?_, ?_, ?_, ((noteTried_after (Changes.refl _ _ _) (within_refl _) (covers_refl _) _ _ _).parts .mem (by decide))⟩
  · rw [Dev.rd_of_regs e, Dev.rd_wr_ne _ _ (by decide), Dev.rd_wr_same]; rfl
  · unfold noteTried bootErr; simp [Dev.modBoot]
  · unfold noteTried bootErr; simp only [ht]; rfl
  · unfold noteTried bootErr; simp only [ht]; rfl
  · unfold noteTried bootErr; simp only [ht]; rfl

theorem enterBare_eff (c : Nat) (d : Dev) : (enterBare c d).boot.phase = .recover ∧ (enterBare c d).boot.manifest = none ∧
    (enterBare c d).rd GC_BOOT_BARE = 1 ∧ (enterBare c d).rd GC_BOOT_ERR_FIRST = d.rd GC_BOOT_ERR_FIRST := by
  unfold enterBare
  dsimp only
  generalize hx : clearDeck d = x
  have x1 : x.rd GC_BOOT_ERR_FIRST = d.rd GC_BOOT_ERR_FIRST := by subst hx; exact ((clearDeck_after (Changes.refl _ _ _) (within_refl _) (covers_refl _)).rd (rows_not (by decide)))
  clear hx
  refine ⟨?_, ?_, ?_, ?_⟩
  · rw [((powerPorts_after (Changes.refl _ _ _) (within_refl _) (covers_refl _)).parts .boot (by decide))]; rfl
  · rw [((powerPorts_after (Changes.refl _ _ _) (within_refl _) (covers_refl _)).parts .boot (by decide))]; rfl
  · rw [((powerPorts_after (Changes.refl _ _ _) (within_refl _) (covers_refl _)).rd (rows_not (by decide)))]
    refine (Dev.rd_of_regs (d := ((((((x.raise GC_BOOT_BARE).wr GC_BOOT_BARE_CAUSE c).wr GC_BOOT_SOURCE 0).wr GC_MANIFEST_ID_ID 0).wr GC_SECVER_RUNNING 0).wr SV_RUNTIME_STATE 1)) rfl _).trans ?_
    simp (disch := decide) [Dev.rd_wr_ne]
  · rw [((powerPorts_after (Changes.refl _ _ _) (within_refl _) (covers_refl _)).rd (rows_not (by decide)))]
    refine (Dev.rd_of_regs (d := ((((((x.raise GC_BOOT_BARE).wr GC_BOOT_BARE_CAUSE c).wr GC_BOOT_SOURCE 0).wr GC_MANIFEST_ID_ID 0).wr GC_SECVER_RUNNING 0).wr SV_RUNTIME_STATE 1)) rfl _).trans ?_
    simp (disch := decide) [Dev.rd_wr_ne, Dev.rd_raise_ne, x1]

theorem checkImage_error (img : List Byte) (sz : Option Nat) (d : Dev) (er : Nat × Nat) (h : d.verify img sz = .error er) (ht : d.boot.tried = []) :
    ∃ x : Dev, checkImage img sz d = nextCandidate x ∧ x.rd GC_BOOT_ERR_FIRST = er.1 % 256 ∧ x.boot.tried ≠ [] ∧ x.boot.keepDeck = d.boot.keepDeck ∧
      x.boot.source = d.boot.source ∧ x.boot.others = d.boot.others ∧ x.mem = d.mem := by
  have hb : (noteKeyMode img sz (d.wr GC_BOOT_STAGE 3)).boot = d.boot := ((noteKeyMode_after (Changes.refl _ _ _) (within_refl _) (covers_refl _) img sz).parts .boot (by decide))
  have hm : (noteKeyMode img sz (d.wr GC_BOOT_STAGE 3)).mem = d.mem := ((noteKeyMode_after (Changes.refl _ _ _) (within_refl _) (covers_refl _) img sz).parts .mem (by decide))
  have hv : (noteKeyMode img sz (d.wr GC_BOOT_STAGE 3)).verify img sz = .error er := by
    rw [verify_of_fuses (show (noteKeyMode img sz (d.wr GC_BOOT_STAGE 3)).fuses = d.fuses from ((noteKeyMode_after (Changes.refl _ _ _) (within_refl _) (covers_refl _) img sz).parts .fuses (by decide)))]; exact h
  obtain ⟨a, b, c, f, g, k⟩ := noteTried_first (imageId img) er.1 er.2 (noteKeyMode img sz (d.wr GC_BOOT_STAGE 3)) (by rw [hb]; exact ht)
  refine ⟨noteTried (imageId img) er.1 er.2 (noteKeyMode img sz (d.wr GC_BOOT_STAGE 3)), ?_, a, b, c.trans (by rw [hb]), f.trans (by rw [hb]), g.trans (by rw [hb]), k.trans hm⟩
  unfold checkImage
  dsimp only
  rw [hv]

/-- The image of a slot is fetched into the staging area, and judged. -/
theorem imageFetchDone_use (bs : List Byte) (d : Dev) (hr : d.fetching = true) (hd : d.on GC_STATUS_PLLD_LOCK = true) (hs : d.boot.source = 1)
    (hl : bs.length ≤ stagingLen) :
    ∃ y : Dev, imageFetchDone (some bs) d = useImage bs ((d.dirEntry 1).map (·.slotSize)) y ∧ y.boot.keepDeck = d.boot.keepDeck ∧ y.boot.phase = d.boot.phase ∧
      y.boot.staged = (0, bs.length) ∧ y.mem = Memory.write d.mem stagingAt bs ∧ y.fuses = d.fuses ∧ y.boot.tried = d.boot.tried ∧
      y.boot.others = d.boot.others ∧ y.boot.source = 1 ∧ y.rd GC_MANIFEST_ID_ID = d.rd GC_MANIFEST_ID_ID := by
  unfold imageFetchDone
  rw [if_neg (by simp [hr, hd, hs]), if_neg (by simp [hs])]
  simp only [hs, List.take_of_length_le hl]
  cases hx : d.dirEntry 1 with
  | none => exact ⟨_, rfl, rfl, rfl, rfl, rfl, rfl, rfl, rfl, hs, rfl⟩
  | some e =>
    dsimp only
    have hb : (flashRead (imageRead e bs.length) d).boot = { d.boot with flashReads := d.boot.flashReads ++ [imageRead e bs.length] } :=
      (romFrames_after (Changes.refl _ _ _) (within_refl _) (covers_refl _)).parts .boot (by decide)
    have hm := (flashRead_after (Changes.refl _ _ _) (within_refl _) (covers_refl _) (imageRead e bs.length) (e := d)).parts .mem (by decide)
    have hf := (flashRead_after (Changes.refl _ _ _) (within_refl _) (covers_refl _) (imageRead e bs.length) (e := d)).parts .fuses (by decide)
    have hi : (flashRead (imageRead e bs.length) d).rd GC_MANIFEST_ID_ID = d.rd GC_MANIFEST_ID_ID := (flashRead_after (Changes.refl _ _ _) (within_refl _) (covers_refl _) _).rd (rows_not (by decide))
    generalize flashRead (imageRead e bs.length) d = x at hb hm hf hi ⊢
    refine ⟨_, rfl, ?_, ?_, rfl, ?_, hf, ?_, ?_, ?_, hi⟩ <;> dsimp only
    · rw [hb]
    · rw [hb]
    · rw [hm]
    · rw [hb]
    · rw [hb]
    · rw [hb]; exact hs

theorem imageFetchDone_eff (bs : List Byte) (d : Dev) (hr : d.coreRuns = true) (hd : d.on GC_STATUS_PLLD_LOCK = true) (hp : d.boot.phase = .fetch)
    (hs : d.boot.source = 1)
    (hl : bs.length ≤ stagingLen) (hk : d.boot.keepDeck = false) (ht : d.boot.tried = []) (ho : d.boot.others = []) :
    (imageFetchDone (some bs) d).mem = Memory.write d.mem stagingAt bs ∧
    match d.verify bs ((d.dirEntry 1).map (·.slotSize)) with
    | .ok m => (imageFetchDone (some bs) d).boot.phase = .apply ∧ (imageFetchDone (some bs) d).boot.manifest = some m ∧
        (imageFetchDone (some bs) d).boot.staged = (0, bs.length) ∧ (imageFetchDone (some bs) d).rd GC_BOOT_STAGE = 4
    | .error e => (imageFetchDone (some bs) d).boot.phase = .recover ∧ (imageFetchDone (some bs) d).boot.manifest = none ∧
        (imageFetchDone (some bs) d).rd GC_BOOT_BARE = 1 ∧ (imageFetchDone (some bs) d).rd GC_BOOT_ERR_FIRST = e.1 % 256 := by
  obtain ⟨y, e, y1, y0, y2, y3, y4, y5, y6, y7, -⟩ := imageFetchDone_use bs d (by simp [Dev.fetching, hr, hp]) hd hs hl
  have e : imageFetchDone (some bs) d = checkImage bs ((d.dirEntry 1).map (·.slotSize)) y := by
    rw [e]; unfold useImage; rw [if_neg (by rw [y0, hp]; decide)]
  replace y1 := y1.trans hk
  replace y5 := y5.trans ht
  replace y6 := y6.trans ho
  have hv := verify_of_fuses y4 bs ((d.dirEntry 1).map (·.slotSize))
  rw [e]
  cases h : d.verify bs ((d.dirEntry 1).map (·.slotSize)) with
  | ok m =>
    obtain ⟨a, b, c, f, g⟩ := checkImage_ok bs ((d.dirEntry 1).map (·.slotSize)) y m y1 (hv.trans h)
    exact ⟨g.trans y3, a, b, c.trans y2, f⟩
  | error er =>
    obtain ⟨x, e2, x1, x2, x3, x4, x5, x6⟩ := checkImage_error bs ((d.dirEntry 1).map (·.slotSize)) y er (hv.trans h) y5
    rw [e2]
    have e3 : ∃ c z, nextCandidate x = enterBare c z ∧ z.regs = x.regs := by
      unfold nextCandidate
      dsimp only
      rw [if_neg (by show ¬ x.boot.keepDeck = true; rw [x3, y1]; decide), if_neg (by show ¬ x.boot.source = 4; rw [x4, y7]; decide),
        if_neg (by show ¬ x.boot.source = 3; rw [x4, y7]; decide)]
      rw [show (x.modBoot fun b => { b with manifest := none }).boot.others = [] from x5.trans y6]
      unfold nextFlash
      refine ⟨_, _, rfl, ?_⟩
      rw [if_neg (by show ¬ x.boot.tried.isEmpty = true; simpa using x2)]
      rfl
    obtain ⟨c, z, e3, z1⟩ := e3
    refine ⟨(((nextCandidate_after (Changes.refl _ _ _) (within_refl _) (covers_refl _)).parts .mem (by decide))).trans (x6.trans y3), ?_⟩
    rw [e3]
    obtain ⟨a, b, f, g⟩ := enterBare_eff c z
    exact ⟨a, b, f, g.trans ((Dev.rd_of_regs z1 _).trans x1)⟩

theorem enterRuntime_eff (d : Dev) : (enterRuntime d).boot.phase = .runtime ∧ (enterRuntime d).boot.manifest = d.boot.manifest ∧
    (enterRuntime d).rd SV_RUNTIME_STATE = 2 := by
  unfold enterRuntime
  rw [(flushTimeEvents_after (Changes.refl _ _ _) (within_refl _) (covers_refl _)).parts .boot (by decide), (settleServices_after (Changes.refl _ _ _) (within_refl _) (covers_refl _)).parts .boot (by decide),
    (flushTimeEvents_after (Changes.refl _ _ _) (within_refl _) (covers_refl _)).rd (rows_not (by decide)), (settleServices_after (Changes.refl _ _ _) (within_refl _) (covers_refl _)).rd (rows_not (by decide))]
  unfold runtimeStart
  dsimp only
  generalize hx : closeIntents _ = x
  have x1 : x.boot.phase = .runtime ∧ x.boot.manifest = d.boot.manifest := by
    subst hx
    rw [(closeIntents_after (Changes.refl _ _ _) (within_refl _) (covers_refl _)).parts .boot (by decide), (restoreImages_after (Changes.refl _ _ _) (within_refl _) (covers_refl _)).parts .boot (by decide),
      (restoreTables_after (Changes.refl _ _ _) (within_refl _) (covers_refl _)).parts .boot (by decide), (restoreKeys_after (Changes.refl _ _ _) (within_refl _) (covers_refl _)).parts .boot (by decide)]
    exact ⟨rfl, rfl⟩
  have x2 : x.rd SV_RUNTIME_STATE = 2 := by
    subst hx
    rw [(closeIntents_after (Changes.refl _ _ _) (within_refl _) (covers_refl _)).rd (rows_not (by decide)), (restoreImages_after (Changes.refl _ _ _) (within_refl _) (covers_refl _)).rd (rows_not (by decide)),
      (restoreTables_after (Changes.refl _ _ _) (within_refl _) (covers_refl _)).rd (rows_not (by decide)), (restoreKeys_after (Changes.refl _ _ _) (within_refl _) (covers_refl _)).rd (rows_not (by decide))]
    refine (Dev.rd_of_regs (d := ((d.free.2.wr SV_RUNTIME_STATE 2).wr SV_RUNTIME_VERSION d.free.1).wr GC_BOOT_STAGE 7) rfl _).trans ?_
    simp (disch := decide) [Dev.rd_wr_ne]
  clear hx
  split
  · rw [(audit_after (Changes.refl _ _ _) (within_refl _) (covers_refl _) _).parts .boot (by decide), (audit_after (Changes.refl _ _ _) (within_refl _) (covers_refl _) _).rd (rows_not (by decide))]; exact ⟨x1.1, x1.2, x2⟩
  · exact ⟨x1.1, x1.2, x2⟩

/-- The same image fetched again brings its programs back, and the runtime starts (R63). -/
theorem imageReload_eff (bs : List Byte) (m : Manifest) (d : Dev) (hr : d.coreRuns = true) (hd : d.on GC_STATUS_PLLD_LOCK = true) (hp : d.boot.phase = .reload)
    (hs : d.boot.source = 1) (hl : bs.length ≤ stagingLen) (hv : d.verify bs ((d.dirEntry 1).map (·.slotSize)) = .ok m) :
    (m.id = d.rd GC_MANIFEST_ID_ID → (imageFetchDone (some bs) d).boot.phase = .runtime ∧ (imageFetchDone (some bs) d).boot.manifest = some m ∧
      (imageFetchDone (some bs) d).rd SV_RUNTIME_STATE = 2) ∧
    (m.id ≠ d.rd GC_MANIFEST_ID_ID → (imageFetchDone (some bs) d).boot.phase = .reload ∧ (imageFetchDone (some bs) d).mem = Memory.write d.mem stagingAt bs) := by
  obtain ⟨y, e, -, y0, -, y3, y4, -, -, -, y8⟩ := imageFetchDone_use bs d (by simp [Dev.fetching, hr, hp]) hd hs hl
  have hv' := (verify_of_fuses y4 bs ((d.dirEntry 1).map (·.slotSize))).trans hv
  have e : imageFetchDone (some bs) d = if m.id = d.rd GC_MANIFEST_ID_ID then programsReloaded m y else y := by
    rw [e]; unfold useImage reloadImage; rw [if_pos (by rw [y0, hp]), hv', y8]
  refine ⟨fun h => ?_, fun h => ?_⟩
  · rw [e, if_pos h]; unfold programsReloaded
    obtain ⟨a, b, c⟩ := enterRuntime_eff (powerPorts (loadPrograms (y.modBoot fun b => { b with manifest := some m })))
    have k : ∀ w : Dev, (powerPorts (loadPrograms w)).boot = w.boot := fun w =>
      ((powerPorts_after (Changes.refl _ _ _) (within_refl _) (covers_refl _)).parts .boot (by decide)).trans ((loadPrograms_after (Changes.refl _ _ _) (within_refl _) (covers_refl _)).parts .boot (by decide))
    refine ⟨a, b.trans ?_, c⟩
    rw [k]; rfl
  · rw [e, if_neg h]; exact ⟨y0.trans hp, y3⟩

theorem takePort_first (port round : Nat) (d : Dev) : (takePort port round d).boot.manifest = d.boot.manifest ∧
    (takePort port round d).rd GC_BOOT_ERR_FIRST = d.rd GC_BOOT_ERR_FIRST := by
  refine ⟨?_, ((takePort_after (Changes.refl _ _ _) (within_refl _) (covers_refl _) port round).rd (rows_not (by decide)))⟩
  unfold takePort startFetch
  rw [((powerPorts_after (Changes.refl _ _ _) (within_refl _) (covers_refl _)).parts .boot (by decide))]; rfl

theorem bootEnd_eff (p total : Nat) (d : Dev) (hb : d.bootsOn p = true) (hd : d.on GC_STATUS_PLLD_LOCK = true) (hf : d.boot.phase = .fetch) (hk : d.boot.keepDeck = false) (ht : d.boot.tried = []) :
    (bootEnd p total d).mem = d.mem ∧
    match d.verify (Memory.read d.mem stagingAt (min total d.boot.got)) none with
    | .ok m => (bootEnd p total d).boot.phase = .apply ∧ (bootEnd p total d).boot.manifest = some m ∧ (bootEnd p total d).rd GC_BOOT_STAGE = 4
    | .error e => (bootEnd p total d).boot.manifest = none ∧ (bootEnd p total d).rd GC_BOOT_ERR_FIRST = e.1 % 256 := by
  have hq : d.boot.source = 4 := by
    unfold Dev.bootsOn at hb
    simp only [Bool.and_eq_true, beq_iff_eq] at hb
    exact hb.1.1.2
  have e : bootEnd p total d = checkImage (Memory.read d.mem stagingAt (min total d.boot.got)) none
      (d.modBoot fun b => { b with staged := (0, min total d.boot.got), ended := none }) := by
    unfold bootEnd
    rw [if_neg (by simp [hb]), if_neg (by simp [hd])]
    unfold useImage
    rw [if_neg (by show ¬ d.boot.phase = .reload; rw [hf]; decide)]
  rw [e]
  have hv := verify_of_fuses (rfl : (d.modBoot fun b => { b with staged := (0, min total d.boot.got), ended := none }).fuses = d.fuses)
    (Memory.read d.mem stagingAt (min total d.boot.got)) none
  cases h : d.verify (Memory.read d.mem stagingAt (min total d.boot.got)) none with
  | ok m =>
    obtain ⟨a, b, -, f, g⟩ := checkImage_ok (Memory.read d.mem stagingAt (min total d.boot.got)) none
      (d.modBoot fun b => { b with staged := (0, min total d.boot.got), ended := none }) m hk (hv.trans h)
    exact ⟨g, a, b, f⟩
  | error er =>
    obtain ⟨x, e2, x1, x2, x3, x4, x5, x6⟩ := checkImage_error (Memory.read d.mem stagingAt (min total d.boot.got)) none
      (d.modBoot fun b => { b with staged := (0, min total d.boot.got), ended := none }) er (hv.trans h) ht
    rw [e2]
    have e3 : ∃ z, nextCandidate x = nextPort z ∧ z.regs = x.regs ∧ z.boot.manifest = none ∧ z.boot.tried ≠ [] := by
      unfold nextCandidate
      dsimp only
      rw [if_neg (by show ¬ x.boot.keepDeck = true; rw [x3]; show ¬ d.boot.keepDeck = true; rw [hk]; decide), if_pos (by show x.boot.source = 4; rw [x4]; exact hq)]
      exact ⟨_, rfl, rfl, rfl, x2⟩
    obtain ⟨z, e3, z1, z2, z3⟩ := e3
    refine ⟨(((nextCandidate_after (Changes.refl _ _ _) (within_refl _) (covers_refl _)).parts .mem (by decide))).trans x6, ?_⟩
    rw [e3]
    have hz : z.rd GC_BOOT_ERR_FIRST = er.1 % 256 := (Dev.rd_of_regs z1 _).trans x1
    unfold nextPort
    dsimp only
    split
    · exact ⟨(takePort_first _ _ _).1.trans z2, (takePort_first _ _ _).2.trans hz⟩
    split
    · exact ⟨(takePort_first _ _ _).1.trans z2, (takePort_first _ _ _).2.trans hz⟩
    · rw [if_neg (by simpa using z3)]
      obtain ⟨-, b, -, g⟩ := enterBare_eff 5 z
      exact ⟨b, g.trans hz⟩

theorem bootData_eff (p off : Nat) (bs : List Byte) (d : Dev) (hb : d.bootsOn p = true) (hd : d.on GC_STATUS_PLLD_LOCK = true) (hw : d.dramWait = [])
    (hl : bs.length ≤ 1004) (ho : off + bs.length ≤ stagingLen) :
    (∀ i, i < bs.length → Memory.get (bootData p off bs d).mem (stagingAt + off + i) = bs.getD i 0) ∧
    (∀ a, a < stagingAt + off ∨ stagingAt + off + bs.length ≤ a → Memory.get (bootData p off bs d).mem a = Memory.get d.mem a) ∧
    (bootData p off bs d).regs = d.regs := by
  have e : (bootData p off bs d).mem = Memory.write d.mem (stagingAt + off) bs ∧ (bootData p off bs d).regs = d.regs := by
    unfold bootData stageBytes
    simp only [hb, hd, hw, List.take_of_length_le hl, show ¬ stagingLen < off + bs.length by omega, decide_false, Bool.not_true, Bool.or_self,
      Bool.false_eq_true, if_false, List.isEmpty_nil, Bool.and_self, if_true]
    exact ⟨rfl, rfl⟩
  rw [e.1]
  exact ⟨fun i hi => by rw [Memory.get_write_inside _ _ _ _ hi]; simp [List.getD, hi], fun a ha => Memory.get_write_outside _ _ _ _ ha, e.2⟩

/-- The chunk waits for PLL_D. -/
theorem bootData_waits (p off : Nat) (bs : List Byte) (d : Dev) (hb : d.bootsOn p = true) (hd : d.on GC_STATUS_PLLD_LOCK = false) (hn : bs ≠ [])
    (hl : bs.length ≤ 1004) (ho : off + bs.length ≤ stagingLen) :
    (bootData p off bs d).dramWait = d.dramWait ++ [⟨.pilot, stagingAt + off, bs, 0, 0⟩] ∧ (bootData p off bs d).mem = d.mem ∧
    (bootData p off bs d).regs = d.regs := by
  unfold bootData stageBytes
  have hn' : bs.isEmpty = false := by cases bs <;> simp_all
  simp only [hb, hd, hn', List.take_of_length_le hl, show ¬ stagingLen < off + bs.length by omega, decide_false, Bool.not_true, Bool.or_self,
    Bool.false_eq_true, if_false, Bool.false_and]
  exact ⟨rfl, rfl, rfl⟩

theorem bootEnd_waits (p total : Nat) (d : Dev) (hb : d.bootsOn p = true) (hd : d.on GC_STATUS_PLLD_LOCK = false) :
    (bootEnd p total d).boot.ended = some (p, total) ∧ (bootEnd p total d).mem = d.mem ∧ (bootEnd p total d).regs = d.regs := by
  unfold bootEnd
  rw [if_neg (by simp [hb]), if_pos (by simp [hd])]
  exact ⟨rfl, rfl, rfl⟩

theorem takePort_eff (port round : Nat) (d : Dev) : (takePort port round d).boot.phase = .fetch ∧ (takePort port round d).boot.port = port ∧
    (takePort port round d).boot.round = round ∧ (takePort port round d).boot.got = 0 ∧ (takePort port round d).mem = d.mem := by
  have e : (takePort port round d).boot = (((d.modBoot fun b => { b with source := 4, port := port, round := round }).wr GC_BOOT_STAGE 2).modBoot fun b =>
      { b with phase := .fetch, source := 4, got := 0, since := d.ns }).boot := by
    unfold takePort startFetch
    exact ((powerPorts_after (Changes.refl _ _ _) (within_refl _) (covers_refl _)).parts .boot (by decide))
  rw [e]
  exact ⟨rfl, rfl, rfl, rfl, ((takePort_after (Changes.refl _ _ _) (within_refl _) (covers_refl _) port round).parts .mem (by decide))⟩

theorem bootDeny_eff (p : Nat) (d : Dev) (hb : d.bootsOn p = true) (hf : d.boot.phase = .fetch) (hk : d.boot.keepDeck = false) (hp : p < 3) :
    (bootDeny p d).boot.phase = .fetch ∧ (bootDeny p d).boot.port = p + 1 ∧ (bootDeny p d).boot.round = d.boot.round ∧ (bootDeny p d).boot.got = 0 ∧
    (bootDeny p d).mem = d.mem := by
  have hq : d.boot.port = p := by
    unfold Dev.bootsOn at hb
    simp only [Bool.and_eq_true, beq_iff_eq] at hb
    exact hb.1.2
  have e : bootDeny p d = takePort (p + 1) d.boot.round d := by
    unfold bootDeny portLeft nextPort; simp [hb, hq, hp, hf, hk]
  rw [e]; exact takePort_eff _ _ _

theorem bootDeny_reload (p : Nat) (d : Dev) (hb : d.bootsOn p = true) (hf : d.boot.phase = .reload) :
    (bootDeny p d).boot.phase = .reload ∧ (bootDeny p d).boot.port = p ∧ (bootDeny p d).boot.got = 0 ∧ (bootDeny p d).mem = d.mem := by
  have hq : d.boot.port = p := by
    unfold Dev.bootsOn at hb
    simp only [Bool.and_eq_true, beq_iff_eq] at hb
    exact hb.1.2
  unfold bootDeny portLeft
  rw [if_pos hb, if_pos hf]
  exact ⟨hf, hq, rfl, rfl⟩

theorem portTimeout_eff (d : Dev) (hr : d.coreRuns = true) (hp : d.boot.phase = .fetch) (hs : d.boot.source = 4) (hk : d.boot.keepDeck = false)
    (hl : d.boot.port < 3) :
    (portTimeout d).boot.phase = .fetch ∧ (portTimeout d).boot.port = d.boot.port + 1 ∧ (portTimeout d).boot.round = d.boot.round ∧
    (portTimeout d).boot.got = 0 ∧ (portTimeout d).mem = d.mem := by
  have hb : ∀ n, (d.reach n).boot = d.boot := fun n => ((Dev.reach_after (Changes.refl _ _ _) (within_refl _) (covers_refl _) n).parts .boot (by decide))
  have e : portTimeout d = takePort (d.boot.port + 1) d.boot.round (d.reach (d.boot.since + 200000000)) := by
    unfold portTimeout portLeft nextPort; simp [Dev.fetching, hr, hp, hs, hb, hl, hk]
  rw [e]
  obtain ⟨a, b, c, f, g⟩ := takePort_eff (d.boot.port + 1) d.boot.round (d.reach (d.boot.since + 200000000))
  exact ⟨a, b, c, f, g.trans ((Dev.reach_after (Changes.refl _ _ _) (within_refl _) (covers_refl _) _).parts .mem (by decide))⟩

theorem configApplyDone_eff (d : Dev) (m : Manifest) (hr : d.coreRuns = true) (hp : d.boot.phase = .apply) (hm : d.boot.manifest = some m)
    (hf : m.fabricMode ≠ 2) :
    (configApplyDone d).boot.phase = .recover ∧ (configApplyDone d).rd DK_STATUS_LOADED = 1 ∧ (configApplyDone d).rd GC_BOOT_STAGE = 5 ∧
    (configApplyDone d).rd SV_RUNTIME_STATE = 1 ∧ (configApplyDone d).rd GC_MANIFEST_ID_ID = m.id % 2 ^ 64 := by
  unfold configApplyDone
  rw [if_neg (by simp [hr, hp]), hm]
  dsimp only
  rw [if_neg hf]
  generalize hx : Dev.raise _ DK_STATUS_LOADED = x
  have x1 : x.rd DK_STATUS_LOADED = 1 := by subst hx; simp
  clear hx
  generalize hy : Dev.wr (Dev.wr (Dev.wr _ GC_BOOT_SOURCE _) GC_MANIFEST_ID_ID _) GC_SECVER_RUNNING _ = y
  have y1 : y.rd DK_STATUS_LOADED = 1 := by subst hy; simp (disch := decide) [Dev.rd_wr_ne, Dev.rd_flag_ne, x1]
  have y2 : y.rd GC_MANIFEST_ID_ID = m.id % 2 ^ 64 := by subst hy; simp (disch := decide) [Dev.rd_wr_ne]
  clear hy
  generalize hz : placeQueues 0 0 m.queues y = z
  have z1 : z.rd DK_STATUS_LOADED = 1 := by subst hz; rw [((placeQueues_after (Changes.refl _ _ _) (within_refl _) (covers_refl _) _ _ _).rd (rows_not (by decide)))]; exact y1
  have z2 : z.rd GC_MANIFEST_ID_ID = m.id % 2 ^ 64 := by subst hz; rw [((placeQueues_after (Changes.refl _ _ _) (within_refl _) (covers_refl _) _ _ _).rd (rows_not (by decide)))]; exact y2
  clear hz
  generalize hw : Dev.wr (Dev.wr _ HS_FABRIC_ID_ID _) HS_STATUS_MODE _ = w
  have w1 : w.rd DK_STATUS_LOADED = 1 := by subst hw; simp (disch := decide) [Dev.rd_wr_ne, Dev.rd_flag_ne, z1]
  have w2 : w.rd GC_MANIFEST_ID_ID = m.id % 2 ^ 64 := by subst hw; simp (disch := decide) [Dev.rd_wr_ne, Dev.rd_flag_ne, z2]
  clear hw
  generalize hv : profileXip (loadPrograms w) = v
  have v1 : v.rd DK_STATUS_LOADED = 1 := by subst hv; rw [((profileXip_after (Changes.refl _ _ _) (within_refl _) (covers_refl _)).rd (rows_not (by decide))), ((loadPrograms_after (Changes.refl _ _ _) (within_refl _) (covers_refl _)).rd (rows_not (by decide)))]; exact w1
  have v2 : v.rd GC_MANIFEST_ID_ID = m.id % 2 ^ 64 := by subst hv; rw [((profileXip_after (Changes.refl _ _ _) (within_refl _) (covers_refl _)).rd (rows_not (by decide))), ((loadPrograms_after (Changes.refl _ _ _) (within_refl _) (covers_refl _)).rd (rows_not (by decide)))]; exact w2
  clear hv
  generalize hu : Dev.modBoot (Dev.wr (Dev.wr v GC_BOOT_STAGE 5) SV_RUNTIME_STATE 1) _ = u
  have u0 : u.boot.phase = .recover := by subst hu; rfl
  have ur : u.regs = ((v.wr GC_BOOT_STAGE 5).wr SV_RUNTIME_STATE 1).regs := by subst hu; rfl
  have u1 : u.rd DK_STATUS_LOADED = 1 := (Dev.rd_of_regs ur _).trans (by simp (disch := decide) [Dev.rd_wr_ne, v1])
  have u2 : u.rd GC_MANIFEST_ID_ID = m.id % 2 ^ 64 := (Dev.rd_of_regs ur _).trans (by simp (disch := decide) [Dev.rd_wr_ne, v2])
  have u3 : u.rd GC_BOOT_STAGE = 5 := (Dev.rd_of_regs ur _).trans (by simp (disch := decide) [Dev.rd_wr_ne])
  have u4 : u.rd SV_RUNTIME_STATE = 1 := (Dev.rd_of_regs ur _).trans (by simp)
  clear hu ur
  refine ⟨?_, ?_, ?_, ?_, ?_⟩
  · rw [((powerPorts_after (Changes.refl _ _ _) (within_refl _) (covers_refl _)).parts .boot (by decide)), ((oweSelects_after (Changes.refl _ _ _) (within_refl _) (covers_refl _)).parts .boot (by decide))]; exact u0
  · rw [((powerPorts_after (Changes.refl _ _ _) (within_refl _) (covers_refl _)).rd (rows_not (by decide))), ((oweSelects_after (Changes.refl _ _ _) (within_refl _) (covers_refl _)).rd (rows_not (by decide)))]; exact u1
  · rw [((powerPorts_after (Changes.refl _ _ _) (within_refl _) (covers_refl _)).rd (rows_not (by decide))), ((oweSelects_after (Changes.refl _ _ _) (within_refl _) (covers_refl _)).rd (rows_not (by decide)))]; exact u3
  · rw [((powerPorts_after (Changes.refl _ _ _) (within_refl _) (covers_refl _)).rd (rows_not (by decide))), ((oweSelects_after (Changes.refl _ _ _) (within_refl _) (covers_refl _)).rd (rows_not (by decide)))]; exact u4
  · rw [((powerPorts_after (Changes.refl _ _ _) (within_refl _) (covers_refl _)).rd (rows_not (by decide))), ((oweSelects_after (Changes.refl _ _ _) (within_refl _) (covers_refl _)).rd (rows_not (by decide)))]; exact u2

theorem bootDeckParity_eff (d : Dev) (m : Manifest) (hr : d.coreRuns = true) (hp : d.boot.phase = .apply) (hm : d.boot.manifest = some m)
    (hk : d.boot.keepDeck = false) (hs : d.boot.source = 3) (ht : d.boot.tried = []) :
    (bootDeckParity d).boot.phase = .recover ∧ (bootDeckParity d).boot.manifest = none ∧ (bootDeckParity d).rd GC_BOOT_BARE = 1 ∧
    (bootDeckParity d).rd GC_BOOT_ERR_FIRST = eDECK_PARITY := by
  have h1 : (noteTried m.id eDECK_PARITY 0 d).rd GC_BOOT_ERR_FIRST = eDECK_PARITY := by
    have e : (noteTried m.id eDECK_PARITY 0 d).regs = ((d.wr GC_BOOT_ERR_FIRST eDECK_PARITY).wr GC_BOOT_ERR_FIRST_SECT 0).regs := by
      unfold noteTried bootErr; simp only [ht]; rfl
    rw [Dev.rd_of_regs e]; simp (disch := decide) [Dev.rd_wr_ne]; decide
  have h2 : (noteTried m.id eDECK_PARITY 0 d).boot.source = 3 ∧ (noteTried m.id eDECK_PARITY 0 d).boot.keepDeck = false := by
    unfold noteTried bootErr; simp only [ht]; exact ⟨hs, hk⟩
  generalize hx : noteTried m.id eDECK_PARITY 0 d = x at h1 h2
  have hc : (clearDeck x).boot.source = 3 ∧ (clearDeck x).boot.keepDeck = false := by
    have e : (clearDeck x).boot = { x.boot with keepDeck := false, lastSource := 0 } := by
      unfold clearDeck
      dsimp only
      refine (((each_after (Changes.refl [.regs] [.every] _) _ fun t e h => ?_)).parts .boot (by decide)).trans rfl
      exact wr_after (wr_after h (by decide) (rows_every (by decide) _) _) (by decide) (rows_every (by decide) _) _
    rw [e]; exact ⟨h2.1, rfl⟩
  have h3 : (clearDeck x).rd GC_BOOT_ERR_FIRST = eDECK_PARITY := (((clearDeck_after (Changes.refl _ _ _) (within_refl _) (covers_refl _)).rd (rows_not (by decide)))).trans h1
  have e1 : bootDeckParity d = nextCandidate (clearDeck x) := by
    unfold bootDeckParity
    rw [if_neg (by simp [hr, hp]), hm]
    simp only [hx, hk, Bool.false_eq_true, if_false]
  rw [e1]
  generalize clearDeck x = z at hc h3
  have e : ∃ c y, nextCandidate z = enterBare c y ∧ y.regs = z.regs := by
    unfold nextCandidate
    dsimp only
    rw [if_neg (by show ¬ z.boot.keepDeck = true; rw [hc.2]; decide), if_neg (by show ¬ z.boot.source = 4; rw [hc.1]; decide),
      if_pos (by exact hc.1)]
    exact ⟨_, _, rfl, rfl⟩
  obtain ⟨c, y, e, hy⟩ := e
  rw [e]
  obtain ⟨a, b, f, g⟩ := enterBare_eff c y
  exact ⟨a, b, f, g.trans ((Dev.rd_of_regs hy _).trans h3)⟩

theorem recoverJournal_done (ecc : Option Nat) (d : Dev) : (recoverJournal ecc d).rd SV_RECOV_DONE = 1 := by
  unfold recoverJournal; dsimp only; simp

theorem recoveryDone_bare (ecc : Option Nat) (d : Dev) (hr : d.coreRuns = true) (hp : d.boot.phase = .recover) (hb : d.on GC_BOOT_BARE = true) :
    (recoveryDone ecc d).boot.phase = .bare ∧ (recoveryDone ecc d).rd SV_RECOV_DONE = 1 ∧ (recoveryDone ecc d).rd SV_RUNTIME_STATE = 0 := by
  have h1 := recoverJournal_done ecc d
  have h2 : (recoverJournal ecc d).on GC_BOOT_BARE = true := by rw [Dev.on_of_rd ((recoverJournal_after (Changes.refl _ _ _) (within_refl _) (covers_refl _) ecc).rd (rows_not (by decide)))]; exact hb
  unfold recoveryDone
  rw [if_neg (by simp [hr, hp])]
  dsimp only
  generalize recoverJournal ecc d = x at h1 h2
  rw [if_pos (by rw [Dev.on_of_rd (Dev.rd_wr_ne _ _ (by decide))]; exact h2)]
  refine ⟨?_, ?_, ?_⟩
  · rw [((settleServices_after (Changes.refl _ _ _) (within_refl _) (covers_refl _)).parts .boot (by decide))]; rfl
  · rw [((settleServices_after (Changes.refl _ _ _) (within_refl _) (covers_refl _)).rd (rows_not (by decide)))]
    refine (Dev.rd_of_regs (d := x.wr SV_RUNTIME_STATE 0) rfl _).trans ?_
    rw [Dev.rd_wr_ne _ _ (by decide)]; exact h1
  · rw [((settleServices_after (Changes.refl _ _ _) (within_refl _) (covers_refl _)).rd (rows_not (by decide)))]
    refine (Dev.rd_of_regs (d := x.wr SV_RUNTIME_STATE 0) rfl _).trans ?_
    simp

theorem coreRuns_of {d e : Dev} (hp : e.power = d.power) (h1 : e.rd PW_STATE_CUR = d.rd PW_STATE_CUR) (h2 : e.rd GC_STATUS_PLLA_LOCK = d.rd GC_STATUS_PLLA_LOCK) :
    e.coreRuns = d.coreRuns := by
  unfold Dev.coreRuns; rw [hp, h1, Dev.on_of_rd h2]

theorem applied_of {d e : Dev} (hp : e.power = d.power) (hb : e.boot = d.boot) (h1 : e.rd PW_STATE_CUR = d.rd PW_STATE_CUR)
    (h2 : e.rd GC_STATUS_PLLA_LOCK = d.rd GC_STATUS_PLLA_LOCK) (h3 : e.rd DK_STATUS_LOADED = d.rd DK_STATUS_LOADED) (h4 : e.rd GC_BOOT_BARE = d.rd GC_BOOT_BARE) :
    e.applied = d.applied := by
  unfold Dev.applied; rw [coreRuns_of hp h1 h2, Dev.on_of_rd h3, Dev.on_of_rd h4, hb]

/-- Whether the runtime serves rests on Capstan, the boot ROM, the fault block and a few registers. -/
theorem runtime_of {d e : Dev} (hp : e.power = d.power) (hb : e.boot = d.boot) (hf : e.fd = d.fd) (h1 : e.rd PW_STATE_CUR = d.rd PW_STATE_CUR)
    (h2 : e.rd GC_STATUS_PLLA_LOCK = d.rd GC_STATUS_PLLA_LOCK) (h3 : e.rd DK_STATUS_LOADED = d.rd DK_STATUS_LOADED) (h4 : e.rd GC_BOOT_BARE = d.rd GC_BOOT_BARE) :
    e.runtime = d.runtime := by
  unfold Dev.runtime; rw [applied_of hp hb h1 h2 h3 h4, hb, hf]

theorem bootRequest_eff (p : Nat) (d : Dev) (ha : d.applied = true) (hl : d.link p = lBOOT_PEER) (hr : d.runtime = true)
    (hs : d.on HS_MCFG_SERVE_BOOT = true) (h0 : d.boot.staged.2 ≠ 0) :
    (bootRequest p d).hs.serving = some (p, 0) ∧ (bootRequest p d).mem = d.mem := by
  unfold bootRequest
  rw [if_neg (by simp [ha, hl])]
  dsimp only
  generalize hx : Dev.post d 28 0x72 _ = x
  have x1 : x.runtime = true := by
    subst hx; rw [runtime_of ((Dev.post_after (Changes.refl _ _ _) (within_refl _) (covers_refl _) _ _ _).parts .power (by decide)) ((Dev.post_after (Changes.refl _ _ _) (within_refl _) (covers_refl _) _ _ _).parts .boot (by decide)) ((Dev.post_after (Changes.refl _ _ _) (within_refl _) (covers_refl _) _ _ _).parts .fd (by decide)) ((Dev.post_after (Changes.refl _ _ _) (within_refl _) (covers_refl _) _ _ _).rd (rows_not (by decide))) ((Dev.post_after (Changes.refl _ _ _) (within_refl _) (covers_refl _) _ _ _).rd (rows_not (by decide))) ((Dev.post_after (Changes.refl _ _ _) (within_refl _) (covers_refl _) _ _ _).rd (rows_not (by decide))) ((Dev.post_after (Changes.refl _ _ _) (within_refl _) (covers_refl _) _ _ _).rd (rows_not (by decide)))]
    exact hr
  have x2 : x.on HS_MCFG_SERVE_BOOT = true := by subst hx; rw [Dev.on_of_rd ((Dev.post_after (Changes.refl _ _ _) (within_refl _) (covers_refl _) _ _ _).rd (rows_not (by decide)))]; exact hs
  have x3 : x.boot.staged.2 ≠ 0 := by subst hx; rw [((Dev.post_after (Changes.refl _ _ _) (within_refl _) (covers_refl _) _ _ _).parts .boot (by decide))]; exact h0
  have x4 : x.mem = d.mem := by subst hx; exact ((Dev.post_after (Changes.refl _ _ _) (within_refl _) (covers_refl _) _ _ _).parts .mem (by decide))
  rw [x1, if_neg (by simp), if_pos (by simp [x2, x3])]
  exact ⟨rfl, x4⟩

end Sys2Proof.Machine
end

