-- ==== Sys2Proof/Laws/EffectsServices.lean ====
section
/-!
SUPPORT. What the operations of Machine/Services do.
-/

set_option Elab.async false
set_option linter.all false

namespace Sys2Proof.Machine

theorem refuseUnlisted_empty (v : Via) (n : Nat) (d : Dev) (h : d.sv.waiting = []) : refuseUnlisted v n d = d := by
  cases n with
  | zero => rfl
  | succ n =>
    unfold refuseUnlisted
    rw [h]; simp

/-- With no command waiting, nothing is refused for its code. -/
theorem settleServices_empty (d : Dev) (h : d.sv.waiting = []) : settleServices d = d := by
  unfold settleServices Dev.each
  simp only [List.foldl_cons, List.foldl_nil, h, List.length_nil, refuseUnlisted_empty _ _ d h]

theorem serve_offers {via : Via} {code : Nat} {c : SvcCmd} (f : SvcCmd → Dev → Dev) (d : Dev) (h : d.Offers via code c)
    (hw : (f c (d.serving c)).sv.waiting = []) : serve via code f { d with out := [] } = f c (d.serving c) := by
  obtain ⟨h1, h2, h3, h4, h5, h6, h7, h8⟩ := h
  have hs : ({ d with out := [] } : Dev).pathServed via = true := by
    unfold Dev.pathServed
    show ((d.runtime || (via == .mailbox && d.bareServes)) && !d.sv.running.any (·.via = via)) = true
    rw [h2]
    rcases h8 with h | ⟨h, h', -⟩ <;> simp [h, *]
  have hc : (d.runtime || bareCode code) = true := by
    rcases h8 with h | ⟨-, -, h⟩ <;> simp [h]
  unfold serve
  rw [hs, if_neg (by decide : ¬ (!true) = true)]
  have e : ({ d with out := [] } : Dev).sv.waiting.find? (fun x => x.via = via) = some c := by
    show d.sv.waiting.find? _ = _
    rw [h1]; simp [h3]
  rw [e]
  have e2 : Dev.modSv { d with out := [] } (fun s => { s with waiting := s.waiting.erase c, running := s.running ++ [c] }) = d.serving c := by
    unfold Dev.modSv Dev.serving
    simp [h1, h2]
  dsimp only
  have n1 : (decide (c.code ≠ code) || !(({ d with out := [] } : Dev).runtime || bareCode code)) = false := by
    rw [h4]; show (decide (code ≠ code) || !(d.runtime || bareCode code)) = false
    rw [hc]; simp
  rw [if_neg (by rw [n1]; decide), e2]
  rw [if_neg (by rw [h5, Bool.or_assoc]; simp; omega), settleServices_empty _ hw]

/-- Two states of the runtime agree but for the words that Pilot has popped. -/
def SvSt.SameBut (s t : SvSt) : Prop := { t with popped := [] } = { s with popped := [] }

theorem setTaken_sv (d : Dev) (i : Nat) (ws : List Word) : d.sv.SameBut (d.setTaken i ws).sv := rfl
theorem SvSt.SameBut.trans {s t u : SvSt} (h : s.SameBut t) (k : t.SameBut u) : s.SameBut u := Eq.trans k h
theorem SvSt.SameBut.waiting {s t : SvSt} (h : s.SameBut t) : t.waiting = s.waiting := (congrArg SvSt.waiting h : _)
theorem SvSt.sameBut_of {s t : SvSt} (h : t = s) : s.SameBut t := by subst h; rfl

theorem take1_sv (d : Dev) (i : Nat) (w : Word) : d.sv.SameBut (d.take1 i w).sv := by
  unfold Dev.take1; split
  · rfl
  · exact setTaken_sv _ _ _

theorem give_sv (d : Dev) (p : Path) (ws : List Word) : (d.give p ws).sv = d.sv := ((Dev.give_after (Changes.refl _ _ _) (within_refl _) (covers_refl _) p ws).parts .sv (by decide))
theorem modQ_sv (d : Dev) (i : Nat) (f : Queue → Queue) : (d.modQ i f).sv = d.sv := ((Dev.modQ_after (Changes.refl _ _ _) (within_refl _) (covers_refl _) i f).parts .sv (by decide))

theorem popWords_sv (i n : Nat) (d : Dev) : d.sv.SameBut (popWords i n d).2.2.sv := by
  induction n generalizing d with
  | zero => rfl
  | succ n ih =>
    unfold popWords; split
    · rfl
    · exact ((SvSt.sameBut_of (modQ_sv d _ _)).trans (take1_sv _ _ _)).trans (ih _)

theorem beyondItem_sv (p : Path) (k : Nat) (d : Dev) : (beyondItem p k d).sv = d.sv := ((beyondItem_after (Changes.refl _ _ _) (within_refl _) (covers_refl _) p k).parts .sv (by decide))

theorem popOneItem_sv (p : Path) (i n : Nat) (d : Dev) : d.sv.SameBut (popOneItem p i n d).sv := by
  unfold popOneItem
  exact (popWords_sv _ _ _).trans (SvSt.sameBut_of ((beyondItem_sv _ _ _).trans (give_sv _ _ _)))

theorem serveReads_sv (i k : Nat) (d : Dev) : d.sv.SameBut (serveReads i k d).sv := by
  induction k generalizing d with
  | zero => rfl
  | succ k ih =>
    unfold serveReads; split
    · rename_i s ss w q' _ _
      have h : d.sv.SameBut (((d.modQ i fun _ => q').take1 i w).give s.path [w]).sv :=
        ((SvSt.sameBut_of (modQ_sv d _ _)).trans (take1_sv _ _ _)).trans (SvSt.sameBut_of (give_sv _ _ _))
      dsimp only
      generalize ((d.modQ i fun _ => q').take1 i w).give s.path [w] = x at h ⊢
      have g : ∀ c : Bool, d.sv.SameBut (if c = true then beyondItem s.path (s.words - 1) x else x).sv := by
        intro c; split
        · exact h.trans (SvSt.sameBut_of (beyondItem_sv _ _ _))
        · exact h
      refine SvSt.SameBut.trans ?_ (ih _)
      split
      · exact (g _).trans (SvSt.sameBut_of (modQ_sv _ _ _))
      · exact (g _).trans (SvSt.sameBut_of (modQ_sv _ _ _))
    · rfl

theorem serveStalled_sv (i : Nat) (d : Dev) : d.sv.SameBut (serveStalled i d).sv := serveReads_sv i _ d

theorem SvSt.sameBut_ite {s : SvSt} {p : Prop} {_ : Decidable p} {a b : Dev} (h : s.SameBut a.sv) (k : s.SameBut b.sv) :
    s.SameBut (if p then a else b).sv := by split <;> assumption

theorem raiseIf_sv (b : Bool) (f : Fld) (e : Dev) : (e.raiseIf b f).sv = e.sv := by unfold Dev.raiseIf; split <;> rfl

theorem post_sv (d : Dev) (i typ : Nat) (ws : List Word) : d.sv.SameBut (d.post i typ ws).sv := by
  unfold Dev.post; dsimp only
  refine SvSt.sameBut_ite rfl (SvSt.sameBut_ite ?_ ?_)
  · refine SvSt.SameBut.trans (SvSt.sameBut_of ?_) (serveStalled_sv _ _); rw [modQ_sv, raiseIf_sv]
  · refine SvSt.SameBut.trans (SvSt.sameBut_of ?_) (serveStalled_sv _ _); rw [modQ_sv]; exact (raiseIf_sv _ _ _).trans (raiseIf_sv _ _ _)

theorem reply_waiting (c : SvcCmd) (rc : Nat) (data : List Byte) (d : Dev) : (reply c rc data d).sv.waiting = d.sv.waiting := by
  unfold reply
  cases c.via with
  | mailbox => rfl
  | queue => exact Eq.trans (SvSt.SameBut.waiting (post_sv _ _ _ _)) rfl
  | ecall k => dsimp only; split <;> rfl

theorem replyApplied_waiting (c : SvcCmd) (rc : Nat) (data : List Byte) (d : Dev) : (replyApplied c rc data d).sv.waiting = d.sv.waiting := by
  unfold replyApplied
  split
  · exact reply_waiting _ _ _ _
  · rfl

theorem answersApplied_of {via : Via} {code : Nat} {c : SvcCmd} (f : SvcCmd → Dev → Dev) (s : State) (h : s.dev.Offers via code c) {rc : Nat}
    {data : List Byte} (hf : f c (s.dev.serving c) = replyApplied c rc data (s.dev.serving c)) :
    serve via code f { s.dev with out := [] } = replyApplied c rc data (s.dev.serving c) := by
  rw [serve_offers f _ h (by rw [hf, replyApplied_waiting]; rfl), hf]

theorem answers_of {via : Via} {code : Nat} {c : SvcCmd} (f : SvcCmd → Dev → Dev) (s : State) (h : s.dev.Offers via code c) {rc : Nat}
    {data : List Byte} (hf : f c (s.dev.serving c) = reply c rc data (s.dev.serving c)) :
    serve via code f { s.dev with out := [] } = reply c rc data (s.dev.serving c) := by
  rw [serve_offers f _ h (by rw [hf, reply_waiting]; rfl), hf]

/-- What the journal holds committed and applied decides a view of the records. -/
theorem Dev.vread_of {d e : Dev} (hm : e.mem = d.mem) (hs : e.sv.committed = d.sv.committed) (off n : Nat) : e.vread off n = d.vread off n := by
  unfold Dev.vread Dev.mview; rw [hm, hs]

theorem probe_of {d e : Dev} (h : e.vread = d.vread) (key : List Byte) (n i : Nat) (slot : Option Nat) : probe e key n i slot = probe d key n i slot := by
  induction n generalizing i slot with
  | zero => rfl
  | succ n ih => unfold probe Dev.regRecord; simp only [h, ih]

theorem queryScan_of {d e : Dev} (h : e.vread = d.vread) (q : List Byte) (n i k : Nat) : queryScan e q n i k = queryScan d q n i k := by
  induction n generalizing i k with
  | zero => rfl
  | succ n ih => unfold queryScan Dev.regRecord; simp only [h, ih]

theorem Dev.serving_vread (c : SvcCmd) (d : Dev) : (d.serving c).vread = d.vread := rfl

theorem Dev.serving_policy (c : SvcCmd) (d : Dev) : (d.serving c).policy = d.policy := by
  funext k; unfold Dev.policy Dev.serviceRecord Dev.forced Dev.storedRecord Dev.manifestRecord; rfl

theorem Dev.serving_record (c : SvcCmd) (d : Dev) (t : Nat) : (d.serving c).serviceRecord t = d.serviceRecord t := by
  unfold Dev.serviceRecord Dev.forced Dev.storedRecord Dev.manifestRecord; rfl

theorem waits_of {via : Via} {code : Nat} {c : SvcCmd} {w : Work} (f : SvcCmd → Dev → Dev) (s : State) (h : s.dev.Offers via code c)
    (hf : f c (s.dev.serving c) = (s.dev.serving c).owe w) : serve via code f { s.dev with out := [] } = (s.dev.serving c).owe w := by
  rw [serve_offers f _ h (by rw [hf]; rfl), hf]

theorem Dev.serving_lookup (c : SvcCmd) (d : Dev) (key : List Byte) : (d.serving c).lookup key = d.lookup key := by
  unfold Dev.lookup; exact probe_of (Dev.serving_vread c d) _ _ _ _

theorem Dev.serving_forced (c : SvcCmd) (d : Dev) (t : Nat) : (d.serving c).forced t = d.forced t := by
  unfold Dev.forced Dev.manifestRecord; rfl

theorem configSet_ok (c : SvcCmd) (d : Dev)
    (ok : 1 ≤ le16At c.payload 0 ∧ le16At c.payload 0 ≤ 4 ∧ c.payload.length = 8 + roundUp (le16At c.payload 2) 4 ∧ le16At c.payload 4 < 2 ∧
      le16At c.payload 6 = 0 ∧ (le16At c.payload 0 = 1 → leNat ((c.payload.drop 8).take (le16At c.payload 2)) ≤ 60000)) :
    configSet c d = if d.forced (le16At c.payload 0) then reply c cREFUSED [] d else d.owe (.cmd c) := by
  obtain ⟨h1, h2, h3, h4, h5, h6⟩ := ok
  unfold configSet; dsimp only
  rw [if_neg]
  simp only [Bool.or_eq_true, Bool.and_eq_true, decide_eq_true_eq]
  rintro (((((h | h) | h) | h) | h) | ⟨h, h'⟩)
  · omega
  · omega
  · exact h h3
  · omega
  · exact h h5
  · exact absurd (h6 h) (by omega)

theorem configSet_range (c : SvcCmd) (d : Dev)
    (no : ¬ (1 ≤ le16At c.payload 0 ∧ le16At c.payload 0 ≤ 4 ∧ c.payload.length = 8 + roundUp (le16At c.payload 2) 4 ∧ le16At c.payload 4 < 2 ∧
      le16At c.payload 6 = 0 ∧ (le16At c.payload 0 = 1 → leNat ((c.payload.drop 8).take (le16At c.payload 2)) ≤ 60000))) :
    configSet c d = reply c cRANGE [] d := by
  unfold configSet; dsimp only
  rw [if_pos]
  simp only [Bool.or_eq_true, Bool.and_eq_true, decide_eq_true_eq]
  by_cases h1 : le16At c.payload 0 = 0
  · exact .inl (.inl (.inl (.inl (.inl h1))))
  by_cases h2 : 4 < le16At c.payload 0
  · exact .inl (.inl (.inl (.inl (.inr h2))))
  by_cases h3 : c.payload.length = 8 + roundUp (le16At c.payload 2) 4
  · by_cases h4 : 2 ≤ le16At c.payload 4
    · exact .inl (.inl (.inr h4))
    by_cases h5 : le16At c.payload 6 = 0
    · refine .inr ?_
      by_cases h6 : le16At c.payload 0 = 1
      · refine ⟨h6, ?_⟩
        rcases Nat.lt_or_ge 60000 (leNat ((c.payload.drop 8).take (le16At c.payload 2))) with k | k
        · exact k
        · exact absurd ⟨by omega, by omega, h3, by omega, h5, fun _ => k⟩ no
      · exact absurd ⟨by omega, by omega, h3, by omega, h5, fun h => absurd h h6⟩ no
    · exact .inl (.inr h5)
  · exact .inl (.inl (.inl (.inr h3)))

@[simp] theorem Dev.modBoot_rd (d : Dev) (g : BootSt → BootSt) (f : Fld) : (d.modBoot g).rd f = d.rd f := rfl
@[simp] theorem Dev.modSv_rd (d : Dev) (g : SvSt → SvSt) (f : Fld) : (d.modSv g).rd f = d.rd f := rfl
@[simp] theorem Dev.modSv_on (d : Dev) (g : SvSt → SvSt) (f : Fld) : (d.modSv g).on f = d.on f := rfl

theorem rawWord_of {d e : Dev} (h : e.regs = d.regs) (a : Nat) : e.rawWord a = d.rawWord a := by
  have k : e.rd = d.rd := by funext f; exact Dev.rd_of_regs h f
  unfold Dev.rawWord; rw [k]

theorem reply_boot (c : SvcCmd) (rc : Nat) (data : List Byte) (d : Dev) : (reply c rc data d).boot = d.boot := ((reply_after (Changes.refl _ _ _) (within_refl _) (covers_refl _) c rc data).parts .boot (by decide))
theorem reply_fuses (c : SvcCmd) (rc : Nat) (data : List Byte) (d : Dev) : (reply c rc data d).fuses = d.fuses := ((reply_after (Changes.refl _ _ _) (within_refl _) (covers_refl _) c rc data).parts .fuses (by decide))
theorem reply_time (c : SvcCmd) (rc : Nat) (data : List Byte) (d : Dev) : (reply c rc data d).time = d.time := ((reply_after (Changes.refl _ _ _) (within_refl _) (covers_refl _) c rc data).parts .time (by decide))
theorem Dev.ns_of_time {d e : Dev} (h : e.time = d.time) : e.ns = d.ns := by unfold Dev.ns; rw [h]
theorem reply_power (c : SvcCmd) (rc : Nat) (data : List Byte) (d : Dev) : (reply c rc data d).power = d.power := ((reply_after (Changes.refl _ _ _) (within_refl _) (covers_refl _) c rc data).parts .power (by decide))

/-- The flash operations noted before a service command are those of the command alone. -/
def Dev.fresh (d : Dev) : Dev := { d with boot := { d.boot with flashOps := [] } }

theorem Dev.Offers.fresh {d : Dev} {via : Via} {code : Nat} {c : SvcCmd} (h : d.Offers via code c) : d.fresh.Offers via code c := h

theorem manifestBoot_stage (c : SvcCmd) (d : Dev) (hr : d.runtime = false) : manifestBoot c d =
    match stagedCode (le32At c.payload 0) (le32At c.payload 4) with
    | some e => reply c e [] d
    | none => manifestBoot c d := by
  split
  · rename_i e h
    unfold manifestBoot; rw [if_neg (by rw [hr]; decide)]; dsimp only; rw [h]
  · rfl

theorem noteKeyMode_sv (img : List Byte) (sz : Option Nat) (d : Dev) : (noteKeyMode img sz d).sv = d.sv := ((noteKeyMode_after (Changes.refl _ _ _) (within_refl _) (covers_refl _) img sz).parts .sv (by decide))

theorem manifestBoot_eff (c : SvcCmd) (d : Dev) (hr : d.runtime = false) (hv : c.via = .mailbox) (hrun : d.sv.running = [c]) (h0 : 0 < le32At c.payload 4)
    (h1 : le32At c.payload 0 + le32At c.payload 4 ≤ stagingLen) :
    (manifestBoot c d).mem = d.mem ∧ (manifestBoot c d).sv.running = [] ∧ (manifestBoot c d).sv.waiting = d.sv.waiting ∧
    match d.verify (Memory.read d.mem (stagingAt + le32At c.payload 0) (le32At c.payload 4)) none with
    | .ok m => (manifestBoot c d).boot.phase = .apply ∧ (manifestBoot c d).boot.manifest = some m ∧
        (manifestBoot c d).boot.staged = (le32At c.payload 0, le32At c.payload 4) ∧ (manifestBoot c d).sv.mboxOut = [] ∧
        (manifestBoot c d).rd GC_BOOT_BARE = 0 ∧ (manifestBoot c d).rd SV_MBOX_STATUS_BUSY = 0 ∧ (manifestBoot c d).rd SV_MBOX_STATUS_OUT_READY = 0 ∧
        (manifestBoot c d).rd GC_BOOT_STAGE = 4
    | .error e => (manifestBoot c d).boot.phase = d.boot.phase ∧ (manifestBoot c d).rd GC_BOOT_STAGE = 3 ∧ (manifestBoot c d).rd GC_BOOT_BARE = d.rd GC_BOOT_BARE ∧
        (manifestBoot c d).rd SV_MBOX_STATUS_OUT_READY = 1 ∧
        (manifestBoot c d).sv.mboxOut = itemHeader 0x51 4 false false 0 :: responseWords c 0x10 (leBytes 1 e.1 ++ leBytes 1 e.2) := by
  have st : stagedCode (le32At c.payload 0) (le32At c.payload 4) = none := by
    unfold stagedCode; rw [if_neg (by omega), if_neg (by omega)]
  unfold manifestBoot
  rw [if_neg (by rw [hr]; decide)]
  dsimp only
  rw [st]
  dsimp only
  generalize hi : Memory.read d.mem (stagingAt + le32At c.payload 0) (le32At c.payload 4) = img
  have hv' := verify_of_fuses (d := d) (e := noteKeyMode img none ((d.wr GC_BOOT_STAGE 3).modBoot fun b => { b with source := 3 })) ((noteKeyMode_after (Changes.refl _ _ _) (within_refl _) (covers_refl _) img none).parts .fuses (by decide)) img none
  rw [hv']
  have k1 : (noteKeyMode img none ((d.wr GC_BOOT_STAGE 3).modBoot fun b => { b with source := 3 })).mem = d.mem := ((noteKeyMode_after (Changes.refl _ _ _) (within_refl _) (covers_refl _) img none).parts .mem (by decide))
  have k2 : (noteKeyMode img none ((d.wr GC_BOOT_STAGE 3).modBoot fun b => { b with source := 3 })).sv = d.sv := noteKeyMode_sv _ _ _
  have k3 : (noteKeyMode img none ((d.wr GC_BOOT_STAGE 3).modBoot fun b => { b with source := 3 })).boot = { d.boot with source := 3 } := ((noteKeyMode_after (Changes.refl _ _ _) (within_refl _) (covers_refl _) img none).parts .boot (by decide))
  have k4 : (noteKeyMode img none ((d.wr GC_BOOT_STAGE 3).modBoot fun b => { b with source := 3 })).rd GC_BOOT_BARE = d.rd GC_BOOT_BARE := ((noteKeyMode_after (Changes.refl _ _ _) (within_refl _) (covers_refl _) img none).rd (rows_not (by decide))).trans ((Dev.rd_of_regs (d := d.wr GC_BOOT_STAGE 3) rfl _).trans (Dev.rd_wr_ne _ _ (by decide)))
  have k5 : (noteKeyMode img none ((d.wr GC_BOOT_STAGE 3).modBoot fun b => { b with source := 3 })).rd GC_BOOT_STAGE = 3 := ((noteKeyMode_after (Changes.refl _ _ _) (within_refl _) (covers_refl _) img none).rd (rows_not (by decide))).trans ((Dev.rd_of_regs (d := d.wr GC_BOOT_STAGE 3) rfl _).trans (Dev.rd_wr_same d GC_BOOT_STAGE 3))
  generalize noteKeyMode img none ((d.wr GC_BOOT_STAGE 3).modBoot fun b => { b with source := 3 }) = x at k1 k2 k3 k4 k5
  cases d.verify img none with
  | error er =>
    obtain ⟨e, sct⟩ := er
    dsimp only
    have n1 : (noteTried (imageId img) e sct x).mem = x.mem := ((noteTried_after (Changes.refl _ _ _) (within_refl _) (covers_refl _) (imageId img) e sct).parts .mem (by decide))
    have n2 : (noteTried (imageId img) e sct x).sv = x.sv := ((noteTried_after (Changes.refl _ _ _) (within_refl _) (covers_refl _) (imageId img) e sct).parts .sv (by decide))
    have n3 : (noteTried (imageId img) e sct x).rd GC_BOOT_BARE = x.rd GC_BOOT_BARE := ((noteTried_after (Changes.refl _ _ _) (within_refl _) (covers_refl _) (imageId img) e sct).rd (rows_not (by decide)))
    have n5 : (noteTried (imageId img) e sct x).rd GC_BOOT_STAGE = x.rd GC_BOOT_STAGE := ((noteTried_after (Changes.refl _ _ _) (within_refl _) (covers_refl _) (imageId img) e sct).rd (rows_not (by decide)))
    have n4 : (noteTried (imageId img) e sct x).boot.phase = x.boot.phase := by unfold noteTried bootErr; dsimp only; split <;> rfl
    unfold reply; rw [hv]; dsimp only
    refine ⟨n1.trans k1, ?_, ?_, n4.trans (by rw [k3]), ?_, ?_, ?_, ?_⟩
    · show List.filter _ (noteTried (imageId img) e sct x).sv.running = []
      rw [n2, k2, hrun]; simp [hv]
    · show (noteTried (imageId img) e sct x).sv.waiting = _
      rw [n2, k2]
    · rw [Dev.rd_raise_ne _ (by decide)]; exact n5.trans k5
    · rw [Dev.rd_raise_ne _ (by decide)]; exact n3.trans k4
    · rw [Dev.rd_raise_same]; rfl
    · rfl
  | ok m =>
    dsimp only
    refine ⟨k1, ?_, ?_, rfl, rfl, rfl, rfl, ?_, ?_, ?_, ?_⟩
    · show List.filter _ x.sv.running = []
      rw [k2, hrun]; simp [hv]
    · show x.sv.waiting = _
      rw [k2]
    · rw [Dev.modBoot_rd, Dev.rd_wr_ne _ _ (by decide), Dev.rd_wr_ne _ _ (by decide), Dev.rd_lower_same]
    · rw [Dev.modBoot_rd, Dev.rd_wr_ne _ _ (by decide), Dev.rd_wr_ne _ _ (by decide), Dev.rd_lower_ne _ (by decide), Dev.rd_lower_ne _ (by decide), Dev.rd_lower_same]
    · rw [Dev.modBoot_rd, Dev.rd_wr_ne _ _ (by decide), Dev.rd_wr_ne _ _ (by decide), Dev.rd_lower_ne _ (by decide), Dev.rd_lower_same]
    · rw [Dev.modBoot_rd, Dev.rd_wr_same]; rfl

theorem slotWrite_refused (same : Bool) (c : SvcCmd) (d : Dev) (rc : Nat)
    (h : (2 < u8At c.payload 0 + 1 ∧ rc = 3) ∨ (u8At c.payload 0 + 1 ≤ 2 ∧ d.rd GC_BOOT_SOURCE = u8At c.payload 0 + 1 ∧ rc = 4) ∨
      (u8At c.payload 0 + 1 ≤ 2 ∧ d.rd GC_BOOT_SOURCE ≠ u8At c.payload 0 + 1 ∧ le32At c.payload 8 = 0 ∧ rc = 1) ∨
      (u8At c.payload 0 + 1 ≤ 2 ∧ d.rd GC_BOOT_SOURCE ≠ u8At c.payload 0 + 1 ∧ 0 < le32At c.payload 8 ∧
        stagingLen < le32At c.payload 4 + le32At c.payload 8 ∧ rc = 3)) : slotWrite same c d = reply c rc [] d := by
  unfold slotWrite; dsimp only
  rcases h with ⟨h, rfl⟩ | ⟨h, h', rfl⟩ | ⟨h, h', h'', rfl⟩ | ⟨h, h', h'', h3, rfl⟩
  · rw [if_pos h]
  · rw [if_neg (by omega), if_pos h']
  · rw [if_neg (by omega), if_neg h']; unfold stagedCode; rw [if_pos h'']
  · rw [if_neg (by omega), if_neg h']; unfold stagedCode; rw [if_neg (by omega), if_pos h3]

theorem romFrames_boot (d : Dev) : (romFrames d).boot = d.boot := ((romFrames_after (Changes.refl _ _ _) (within_refl _) (covers_refl _)).parts .boot (by decide))
theorem flashOp_boot (op off len : Nat) (d : Dev) : (flashOp op off len d).boot = { d.boot with flashOps := d.boot.flashOps ++ [(op, off, len)] } := by
  unfold flashOp; rw [romFrames_boot]; rfl

theorem slotWrite_eff (same : Bool) (c : SvcCmd) (d : Dev) (booted old : DirEntry) (hs : u8At c.payload 0 + 1 ≤ 2)
    (hb : d.rd GC_BOOT_SOURCE ≠ u8At c.payload 0 + 1) (h0 : 0 < le32At c.payload 8) (h1 : le32At c.payload 4 + le32At c.payload 8 ≤ stagingLen)
    (hbo : d.dirEntry (d.rd GC_BOOT_SOURCE) = some booted) (ho : d.dirEntry (u8At c.payload 0 + 1) = some old) (hq : booted.sequence + 1 < 0xFFFFFFFF)
    (hf : d.boot.flashOps = []) :
    ∃ (rc : Nat) (data : List Byte) (x : Dev), slotWrite same c d = reply c rc data x ∧ x.sv = d.sv ∧
      match d.verify (Memory.read d.mem (stagingAt + le32At c.payload 4) (le32At c.payload 8)) (some old.slotSize) with
      | .error _ => x.boot.flashOps = [] ∧ x.dirEntry (u8At c.payload 0 + 1) = some old
      | .ok m => if same then x.boot.flashOps = [(0x20, old.slotOffset, m.totalLen), (0x02, old.slotOffset, m.totalLen),
            (0x20, dirAt (u8At c.payload 0 + 1), 0x1000), (0x02, dirAt (u8At c.payload 0 + 1), 32)] ∧
            x.dirEntry (u8At c.payload 0 + 1) = some { old with sequence := booted.sequence + 1, attempts := 7, confirm := 0xFF }
          else x.boot.flashOps = [(0x20, old.slotOffset, m.totalLen), (0x02, old.slotOffset, m.totalLen)] ∧ x.dirEntry (u8At c.payload 0 + 1) = some old := by
  have st : stagedCode (le32At c.payload 4) (le32At c.payload 8) = none := by
    unfold stagedCode; rw [if_neg (by omega), if_neg (by omega)]
  unfold slotWrite
  dsimp only
  rw [if_neg (by omega), if_neg hb, st]
  dsimp only
  rw [hbo]
  dsimp only
  rw [if_neg (by omega)]
  have e1 : d.free.2.free.2.dirEntry (u8At c.payload 0 + 1) = some old := ho
  rw [e1]
  simp only [Option.getD_some]
  have e2 : Memory.read d.free.2.free.2.mem = Memory.read d.mem := rfl
  generalize hi : Memory.read d.mem (stagingAt + le32At c.payload 4) (le32At c.payload 8) = img
  have e3 : ∀ y : Dev, y.fuses = d.fuses → y.verify img (some old.slotSize) = d.verify img (some old.slotSize) := fun y h => verify_of_fuses h _ _
  rw [e3 (noteKeyMode img (some old.slotSize) d.free.2.free.2) ((noteKeyMode_after (Changes.refl _ _ _) (within_refl _) (covers_refl _) img (some old.slotSize)).parts .fuses (by decide))]
  have k1 : (noteKeyMode img (some old.slotSize) d.free.2.free.2).boot = d.boot := ((noteKeyMode_after (Changes.refl _ _ _) (within_refl _) (covers_refl _) img (some old.slotSize)).parts .boot (by decide))
  have k2 : (noteKeyMode img (some old.slotSize) d.free.2.free.2).sv = d.sv := ((noteKeyMode_after (Changes.refl _ _ _) (within_refl _) (covers_refl _) img (some old.slotSize)).parts .sv (by decide))
  generalize noteKeyMode img (some old.slotSize) d.free.2.free.2 = x at k1 k2
  have dir : ∀ (y : Dev), y.boot.dirA = x.boot.dirA → y.boot.dirB = x.boot.dirB → y.dirEntry (u8At c.payload 0 + 1) = some old := by
    intro y a b
    rw [← ho]; unfold Dev.dirEntry; rw [a, b, k1]
  cases d.verify img (some old.slotSize) with
  | error er => exact ⟨_, _, x, rfl, k2, by rw [k1]; exact hf, dir x rfl rfl⟩
  | ok m =>
    dsimp only
    have f1 : (flashOp 0x02 old.slotOffset m.totalLen (flashOp 0x20 old.slotOffset m.totalLen x)).boot =
        { x.boot with flashOps := [(0x20, old.slotOffset, m.totalLen), (0x02, old.slotOffset, m.totalLen)] } := by
      rw [flashOp_boot, flashOp_boot, k1, hf]; rfl
    have f2 : (flashOp 0x02 old.slotOffset m.totalLen (flashOp 0x20 old.slotOffset m.totalLen x)).sv = d.sv := by
      have a : ∀ o f l y, (flashOp o f l y).sv = y.sv := fun o f l y => ((flashOp_after (Changes.refl _ _ _) (within_refl _) (covers_refl _) o f l).parts .sv (by decide))
      rw [a, a]; exact k2
    generalize flashOp 0x02 old.slotOffset m.totalLen (flashOp 0x20 old.slotOffset m.totalLen x) = y at f1 f2
    cases same with
    | false => exact ⟨_, _, y.free.2, rfl, f2, by show y.boot.flashOps = _; rw [f1], dir _ (by show y.boot.dirA = _; rw [f1]) (by show y.boot.dirB = _; rw [f1])⟩
    | true =>
      refine ⟨_, _, _, rfl, ?_, ?_, ?_⟩
      · have a : ∀ o f l z, (flashOp o f l z).sv = z.sv := fun o f l z => ((flashOp_after (Changes.refl _ _ _) (within_refl _) (covers_refl _) o f l).parts .sv (by decide))
        have q : ∀ sl e z, (setEntry sl e z).sv = z.sv := fun _ _ _ => rfl
        rw [q, a, a]; exact f2
      · have q : ∀ e z, (setEntry (u8At c.payload 0 + 1) e z).boot.flashOps = z.boot.flashOps := by
          intro e z; unfold setEntry Dev.modBoot; dsimp only; split <;> rfl
        rw [q, flashOp_boot, flashOp_boot, f1]; rfl
      · have q : ∀ e z, (setEntry (u8At c.payload 0 + 1) e z).dirEntry (u8At c.payload 0 + 1) = e := by
          intro e z; unfold setEntry Dev.dirEntry Dev.modBoot
          rcases (by omega : u8At c.payload 0 = 0 ∨ u8At c.payload 0 = 1) with h | h <;> rw [h] <;> rfl
        rw [q]

theorem slotConfirm_eff (c : SvcCmd) (d : Dev) (e : DirEntry) (m : Manifest) (he : d.dirEntry (d.rd GC_BOOT_SOURCE) = some e)
    (hm : d.boot.manifest = some m) (hc : e.confirm = 0xFF) (hf : d.boot.flashOps = []) :
    ∃ x, slotConfirm c d = reply c 0 [] x ∧ x.sv = d.sv ∧ x.dirEntry (d.rd GC_BOOT_SOURCE) = some { e with confirm := 0 } ∧
      x.boot.flashOps = [(0x02, dirAt (d.rd GC_BOOT_SOURCE) + 0x19, 1)] ∧
      x.fuses.secMin = if m.advance then max d.fuses.secMin m.secVersion else d.fuses.secMin := by
  unfold slotConfirm; dsimp only; rw [he, hm]; dsimp only
  rw [if_neg (by rw [hc]; decide)]
  have q1 : ∀ e' z, (setEntry (d.rd GC_BOOT_SOURCE) e' z).boot.flashOps = z.boot.flashOps := by
    intro e' z; unfold setEntry Dev.modBoot; dsimp only; split <;> rfl
  have q2 : (setEntry (d.rd GC_BOOT_SOURCE) (some { e with confirm := 0 }) d).dirEntry (d.rd GC_BOOT_SOURCE) = some { e with confirm := 0 } := by
    unfold setEntry Dev.dirEntry Dev.modBoot
    unfold Dev.dirEntry at he
    split at he
    · rename_i h; rw [h]; rfl
    · split at he
      · rename_i h; rw [h]; rfl
      · cases he
  have q3 : (setEntry (d.rd GC_BOOT_SOURCE) (some { e with confirm := 0 }) d).fuses = d.fuses := rfl
  have q4 : (setEntry (d.rd GC_BOOT_SOURCE) (some { e with confirm := 0 }) d).sv = d.sv := rfl
  generalize hz : setEntry (d.rd GC_BOOT_SOURCE) (some { e with confirm := 0 }) d = z at q2 q3 q4
  have f1 := flashOp_boot 0x02 (dirAt (d.rd GC_BOOT_SOURCE) + 0x19) 1 z
  have f2 : (flashOp 0x02 (dirAt (d.rd GC_BOOT_SOURCE) + 0x19) 1 z).fuses = z.fuses := ((flashOp_after (Changes.refl _ _ _) (within_refl _) (covers_refl _) 0x02 (dirAt (d.rd GC_BOOT_SOURCE) + 0x19) 1).parts .fuses (by decide))
  have f3 : (flashOp 0x02 (dirAt (d.rd GC_BOOT_SOURCE) + 0x19) 1 z).sv = z.sv := ((flashOp_after (Changes.refl _ _ _) (within_refl _) (covers_refl _) 0x02 (dirAt (d.rd GC_BOOT_SOURCE) + 0x19) 1).parts .sv (by decide))
  have zf : z.boot.flashOps = [] := by rw [← hz, q1, hf]
  generalize flashOp 0x02 (dirAt (d.rd GC_BOOT_SOURCE) + 0x19) 1 z = y at f1 f2 f3
  have hd : ∀ w : Dev, w.boot = y.boot → w.dirEntry (d.rd GC_BOOT_SOURCE) = some { e with confirm := 0 } := by
    intro w hw; rw [← q2]; unfold Dev.dirEntry; rw [hw, f1]
  cases hadv : m.advance
  · exact ⟨y, rfl, f3.trans q4, hd y rfl, by rw [f1]; simp [zf], by rw [f2, q3]; rfl⟩
  · refine ⟨_, rfl, ?_, ?_, ?_, ?_⟩
    · exact f3.trans q4
    · exact hd _ rfl
    · show y.boot.flashOps = _; rw [f1]; simp [zf]
    · show max y.fuses.secMin _ = _; rw [f2, q3]; rfl

theorem slotConfirm_refused (c : SvcCmd) (d : Dev) (h : d.dirEntry (d.rd GC_BOOT_SOURCE) = none ∨ ∃ e, d.dirEntry (d.rd GC_BOOT_SOURCE) = some e ∧ e.confirm ≠ 0xFF) :
    slotConfirm c d = reply c 4 [] d := by
  unfold slotConfirm; dsimp only
  rcases h with h | ⟨e, h, h'⟩
  · rw [h]
  · rw [h]
    cases d.boot.manifest with
    | none => rfl
    | some m => dsimp only; rw [if_pos h']

theorem resetCmd_eff (c : SvcCmd) (d : Dev) : (resetCmd c d).sv.waiting = d.sv.waiting ∧ (resetCmd c d).power.softDue =
    if d.power.softDue.isSome then d.power.softDue else some (bit (u8At c.payload 0) 0, d.ns) := by
  have hx : ∀ x : Dev, gcReset .pilot (nw (0x5A01 + 2 * (u8At c.payload 0 % 2))) x = if x.power.softDue.isSome then x else
      x.modPower fun q => { q with softDue := some (bit (u8At c.payload 0) 0, x.ns) } := by
    intro x
    rcases Nat.mod_two_eq_zero_or_one (u8At c.payload 0) with h | h
    · have hb : bit (u8At c.payload 0) 0 = false := by unfold bit; simp [h]
      rw [h, hb]; rfl
    · have hb : bit (u8At c.payload 0) 0 = true := by unfold bit; simp [h]
      rw [h, hb]; rfl
  have p := reply_power c cDONE [] d
  have w := reply_waiting c cDONE [] d
  have t : (reply c cDONE [] d).ns = d.ns := Dev.ns_of_time (reply_time _ _ _ _)
  unfold resetCmd; rw [hx, p, t]
  cases hh : d.power.softDue with
  | none => exact ⟨w, rfl⟩
  | some y => exact ⟨w, by show (reply c cDONE [] d).power.softDue = _; rw [p, hh]; rfl⟩

theorem queueConsumer_eff (c : SvcCmd) (d : Dev) (h0 : u8At c.payload 0 < 32) (h1 : u8At c.payload 1 < 2) :
    queueConsumer c d = reply c (if u8At c.payload 1 ≠ d.rd (LQN_CFG_CONSUMER (u8At c.payload 0)) ∧ (d.q (u8At c.payload 0)).mid = true then 4 else 0) []
      (queueCfgWriteCmd .pilot (u8At c.payload 0) (nw (d.rawWord (0x21010 + 0x40 * u8At c.payload 0) % 2 ^ 31 + u8At c.payload 1 * 2 ^ 31)) d) := by
  unfold queueConsumer; dsimp only; rw [if_neg (by simp; omega)]
  by_cases h : u8At c.payload 1 ≠ d.rd (LQN_CFG_CONSUMER (u8At c.payload 0)) ∧ (d.q (u8At c.payload 0)).mid = true
  · rw [if_pos h, if_pos (by simp [h.1, h.2])]
  · rw [if_neg h, if_neg (by simpa using h)]

theorem kdatas_sv (ws : List Word) (d : Dev) : (ws.foldl (fun d w => kdataWrite .pilot w d) d).sv = d.sv := by
  induction ws generalizing d with
  | nil => rfl
  | cons w ws ih => rw [List.foldl_cons, ih]; exact ((kdataWrite_after (Changes.refl _ _ _) (within_refl _) (covers_refl _) .pilot w).parts .sv (by decide))

theorem keyOpEnd_waiting (c : SvcCmd) (d : Dev) : (keyOpEnd c d).sv.waiting = d.sv.waiting := by
  unfold keyOpEnd maybeAudit Dev.free
  dsimp only
  by_cases h : Config.freeValue (d.modCy fun s => { s with outp := [] }).freeCtr % 2 = 1
  · simp only [h, if_true]
    split
    · rfl
    · exact reply_waiting _ _ _ _
  · simp only [h, if_false]
    split
    · rfl
    · exact reply_waiting _ _ _ _

theorem keyOp_eff (c : SvcCmd) (d : Dev) (hl : c.payload.length % 4 = 0) (hb : d.rd CY_KSTATUS_BUSY = 0) :
    keyOp c d =
      let e := kcmdWrite .pilot (bits (le32At c.payload 0) 31 24) (bits (le32At c.payload 0) 23 18) (bits (le32At c.payload 0) 17 12)
        (bits (le32At c.payload 0) 11 10) (bits (le32At c.payload 0) 7 0)
        ((bytesToWords (c.payload.drop 4)).foldl (fun d w => kdataWrite .pilot w d) d)
      if e.on CY_KSTATUS_BUSY then { e with sv := { e.sv with keyOp := some c } } else keyOpEnd c e := by
  unfold keyOp; rw [if_neg (by omega), if_neg (by unfold Dev.on; rw [hb]; decide)]; rfl

theorem programStart_eff (c : SvcCmd) (d : Dev) (m : Manifest) (h0 : 0 < u8At c.payload 0) (h1 : u8At c.payload 0 < 4)
    (hz : (c.payload.drop 1).take 7 = zeros 7) (hm : d.boot.manifest = some m) :
    programStart c d = if m.programs.any (fun p => bit p.cores (u8At c.payload 0)) || (vget d.sv.cores (u8At c.payload 0) none).isSome then reply c 4 [] d
      else reply c 0 [] (d.modSv fun s => { s with cores := vmod s.cores (u8At c.payload 0) fun _ => some (leNat (c.payload.drop 8)) }) := by
  unfold programStart; dsimp only
  rw [if_neg (by rw [hz]; simp; omega), hm]

theorem reply_cores (c : SvcCmd) (rc : Nat) (data : List Byte) (d : Dev) (h : d.sv.running = [c]) :
    (reply c rc data d).sv.cores = d.sv.cores ∧ (reply c rc data d).sv.running = [] := by
  unfold reply
  cases hv : c.via with
  | mailbox => exact ⟨rfl, by show List.filter _ d.sv.running = _; rw [h]; simp [hv]⟩
  | queue =>
    have k := post_sv (d.modSv fun s => { s with running := s.running.filter (·.via ≠ .queue) }) 25 0x51 (responseWords c rc (data.take 1012))
    refine ⟨(congrArg SvSt.cores k : _), ?_⟩
    have r := (congrArg SvSt.running k : _)
    refine Eq.trans r ?_
    show List.filter _ d.sv.running = _; rw [h]; simp [hv]
  | ecall k =>
    dsimp only; split
    · exact ⟨rfl, by show List.filter _ d.sv.running = _; rw [h]; simp [hv]⟩
    · exact ⟨rfl, by show List.filter _ d.sv.running = _; rw [h]; simp [hv]⟩

theorem Dev.reaches_open {d : Dev} {p : Path} {b : Nat} (h : d.reaches p b = true) (f : Dev → Dev) :
    onPort b p f { d with out := [] } = f (({ d with out := [] } : Dev).beginAccess p) := by
  unfold Dev.reaches at h
  rw [Bool.and_eq_true] at h
  exact onPort_open f h.1 h.2

theorem give_out (d : Dev) (p : Path) (ws : List Word) : (d.give p ws).out = d.out ++ ws := by
  unfold Dev.give
  cases ws with
  | nil => simp
  | cons w ws => cases p <;> rfl
theorem give_mem (d : Dev) (p : Path) (ws : List Word) : (d.give p ws).mem = d.mem := ((Dev.give_after (Changes.refl _ _ _) (within_refl _) (covers_refl _) p ws).parts .mem (by decide))

theorem refuseUnlisted_listed (v : Via) (n : Nat) (d : Dev) (c : SvcCmd) (hw : d.sv.waiting = [c]) (hr : d.runtime = true) (hc : listedCode c.code = true) :
    refuseUnlisted v n d = d := by
  cases n with
  | zero => rfl
  | succ n =>
    unfold refuseUnlisted
    split
    · rfl
    · rw [hw]
      by_cases h : c.via = v
      · simp [h, hr, hc]
      · simp [h]

/-- A lone command whose code is served stays. -/
theorem settleServices_listed (d : Dev) (c : SvcCmd) (hw : d.sv.waiting = [c]) (hr : d.runtime = true) (hc : listedCode c.code = true) : settleServices d = d := by
  unfold settleServices Dev.each
  simp only [List.foldl_cons, List.foldl_nil, refuseUnlisted_listed _ _ d c hw hr hc]

theorem errLocked_same (p : Path) (a : Nat) (d : Dev) (c : Part) (h : c ∉ [Part.regs]) : c.same d (d.errLocked p a) :=
  (accessError_after (Changes.refl _ _ _) (within_refl _) (covers_refl _) (blockBase_mem a) p true (a / 4 * 4) ⟨false, true, false⟩).parts c h

theorem mboxWord_busy (p : Path) (w : Word) (d : Dev) (h : d.on SV_MBOX_STATUS_BUSY = true) :
    (mboxWord p w d).rd SV_MBOX_STATUS_OVERFLOW = 1 ∧ (mboxWord p w d).sv = d.sv ∧ (mboxWord p w d).mem = d.mem := by
  unfold mboxWord; rw [if_pos h]
  exact ⟨Dev.rd_raise_same _ _, errLocked_same p 0x34010 d .sv (by decide), errLocked_same p 0x34010 d .mem (by decide)⟩

theorem mboxWord_more (p : Path) (w : Word) (d : Dev) (h : d.on SV_MBOX_STATUS_BUSY = false) (hl : (d.sv.mboxIn ++ [w]).length < bits (wordAt (d.sv.mboxIn ++ [w]) 0) 23 15) :
    mboxWord p w d = d.modSv fun s => { s with mboxIn := d.sv.mboxIn ++ [w] } := by
  unfold mboxWord; rw [if_neg (by rw [h]; decide)]; dsimp only; rw [if_pos hl]

theorem mboxWord_last (p : Path) (w : Word) (d : Dev) (h : d.on SV_MBOX_STATUS_BUSY = false) (hl : bits (wordAt (d.sv.mboxIn ++ [w]) 0) 23 15 ≤ (d.sv.mboxIn ++ [w]).length)
    (hw : d.sv.waiting = []) (hr : d.runtime = true) (hc : listedCode (svcOfWords .mailbox (d.sv.mboxIn ++ [w])).code = true) :
    mboxWord p w d = (((d.modSv fun s => { s with mboxIn := [] }).raise SV_MBOX_STATUS_BUSY).modSv fun s => { s with waiting := [svcOfWords .mailbox (d.sv.mboxIn ++ [w])] }) := by
  unfold mboxWord; rw [if_neg (by rw [h]; decide)]; dsimp only; rw [if_neg (by omega)]
  unfold arrive
  generalize svcOfWords .mailbox (d.sv.mboxIn ++ [w]) = c at hc ⊢
  have e : Dev.modSv ((d.modSv fun s => { s with mboxIn := [] }).raise SV_MBOX_STATUS_BUSY) (fun s => { s with waiting := s.waiting ++ [c] }) =
      Dev.modSv ((d.modSv fun s => { s with mboxIn := [] }).raise SV_MBOX_STATUS_BUSY) (fun s => { s with waiting := [c] }) := by
    unfold Dev.modSv
    show Dev.mk .. = Dev.mk ..
    congr 1
    show SvSt.mk .. = SvSt.mk ..
    congr 1
    show d.sv.waiting ++ [c] = [c]
    rw [hw]; rfl
  rw [e]
  refine settleServices_listed _ c rfl ?_ hc
  show (Dev.raise (d.modSv fun s => { s with mboxIn := [] }) SV_MBOX_STATUS_BUSY).runtime = true
  exact (runtime_of (d := d.modSv fun s => { s with mboxIn := [] }) (e := Dev.raise (d.modSv fun s => { s with mboxIn := [] }) SV_MBOX_STATUS_BUSY) rfl rfl rfl (Dev.rd_raise_ne _ (by decide)) (Dev.rd_raise_ne _ (by decide)) (Dev.rd_raise_ne _ (by decide)) (Dev.rd_raise_ne _ (by decide))).trans hr

theorem mboxRead_eff (p : Path) (d : Dev) : (mboxRead p d).mem = d.mem ∧ match d.sv.mboxOut with
    | [] => (mboxRead p d).out = d.out ++ [0] ∧ (mboxRead p d).sv = d.sv
    | w :: r => (mboxRead p d).out = d.out ++ [w] ∧ (mboxRead p d).sv = { d.sv with mboxOut := r } ∧
        (r = [] → (mboxRead p d).rd SV_MBOX_STATUS_OUT_READY = 0 ∧ (mboxRead p d).rd SV_MBOX_STATUS_BUSY = 0) := by
  unfold mboxRead
  cases h : d.sv.mboxOut with
  | nil => exact ⟨give_mem _ _ _, give_out _ _ _, give_sv _ _ _⟩
  | cons w r =>
    dsimp only
    cases r with
    | nil =>
      rw [if_pos (show ([] : List Word).isEmpty = true from rfl)]
      refine ⟨give_mem _ _ _, give_out _ _ _, give_sv _ _ _, fun _ => ⟨?_, Dev.rd_lower_same _ _⟩⟩
      rw [Dev.rd_lower_ne _ (by decide), Dev.rd_lower_same]
    | cons v r =>
      rw [if_neg (by simp)]
      exact ⟨give_mem _ _ _, give_out _ _ _, give_sv _ _ _, fun h => nomatch h⟩

theorem serviceEcall_eff (core : Fin 4) (code addr plen buf size : Nat) (d : Dev) (hr : d.runtime = true) (hc : (vget d.sv.cores core.val none).isSome = true)
    (hw : d.sv.waiting = []) (hu : d.sv.running = []) (hl : listedCode code = true) : serviceEcall core code addr plen buf size d =
      d.modSv fun s => { s with
        ecall := vmod s.ecall core.val fun _ => none
        waiting := [{ via := .ecall core, code := code, tag := 0, payload := Memory.read d.mem addr (min plen 1012), lenOk := decide (plen ≤ 1012), buf := (buf, size) }] } := by
  unfold serviceEcall; dsimp only
  rw [if_neg (by rw [hr, hw, hu]; simp [Option.isNone_iff_eq_none]; intro h; rw [h] at hc; cases hc)]
  unfold arrive
  generalize hc' : SvcCmd.mk _ _ _ _ _ _ = c
  have e : Dev.modSv (d.modSv fun s => { s with ecall := vmod s.ecall core.val fun _ => none }) (fun s => { s with waiting := s.waiting ++ [c] }) =
      d.modSv fun s => { s with ecall := vmod s.ecall core.val fun _ => none, waiting := [c] } := by
    unfold Dev.modSv; simp [hw]
  rw [e]
  exact settleServices_listed (d.modSv fun s => { s with ecall := vmod s.ecall core.val fun _ => none, waiting := [c] }) c rfl hr (by rw [← hc']; exact hl)

/-- The parts of the runtime's state that no answer changes. -/
def SvSt.Kept (s t : SvSt) : Prop := t.committed = s.committed ∧ t.writes = s.writes ∧ t.todo = s.todo ∧ t.jseq = s.jseq ∧ t.jpos = s.jpos

theorem SvSt.Kept.trans {s t u : SvSt} (h : s.Kept t) (k : t.Kept u) : s.Kept u :=
  ⟨k.1.trans h.1, k.2.1.trans h.2.1, k.2.2.1.trans h.2.2.1, k.2.2.2.1.trans h.2.2.2.1, k.2.2.2.2.trans h.2.2.2.2⟩
theorem SvSt.kept_refl (s : SvSt) : s.Kept s := ⟨rfl, rfl, rfl, rfl, rfl⟩
theorem SvSt.SameBut.kept {s t : SvSt} (h : s.SameBut t) : s.Kept t :=
  ⟨(congrArg SvSt.committed h : _), (congrArg SvSt.writes h : _), (congrArg SvSt.todo h : _), (congrArg SvSt.jseq h : _), (congrArg SvSt.jpos h : _)⟩

theorem reply_kept (c : SvcCmd) (rc : Nat) (data : List Byte) (d : Dev) : d.sv.Kept (reply c rc data d).sv := by
  unfold reply
  dsimp only
  generalize responseWords c rc _ = ws
  have k : d.sv.Kept (d.modSv fun s => { s with running := s.running.filter (·.via ≠ c.via) }).sv := ⟨rfl, rfl, rfl, rfl, rfl⟩
  generalize (d.modSv fun s => { s with running := s.running.filter (·.via ≠ c.via) }) = x at k ⊢
  cases c.via with
  | mailbox => exact k.trans ⟨rfl, rfl, rfl, rfl, rfl⟩
  | queue => exact k.trans (post_sv _ _ _ _).kept
  | ecall j =>
    dsimp only
    generalize Memory.write _ _ _ = m
    generalize List.take 1012 data = bs
    split
    · exact k.trans ⟨rfl, rfl, rfl, rfl, rfl⟩
    · exact k.trans ⟨rfl, rfl, rfl, rfl, rfl⟩

theorem post_mem (d : Dev) (i typ : Nat) (ws : List Word) : (d.post i typ ws).mem = d.mem := ((Dev.post_after (Changes.refl _ _ _) (within_refl _) (covers_refl _) i typ ws).parts .mem (by decide))

theorem reply_empty_mem (c : SvcCmd) (rc : Nat) (d : Dev) : (reply c rc [] d).mem = d.mem := by
  unfold reply
  cases c.via with
  | mailbox => rfl
  | queue => exact post_mem _ _ _ _
  | ecall k =>
    dsimp only; split
    · have e : ∀ (m : Memory) (a n k : Nat), Memory.write m a (List.take n (List.take k [])) = m := by intros; simp [Memory.write]
      exact e _ _ _ _
    · rfl

theorem refuseUnlisted_kept (v : Via) (n : Nat) (d : Dev) : d.sv.Kept (refuseUnlisted v n d).sv ∧ (refuseUnlisted v n d).mem = d.mem := by
  induction n generalizing d with
  | zero => exact ⟨SvSt.kept_refl _, rfl⟩
  | succ n ih =>
    unfold refuseUnlisted
    split
    · exact ⟨SvSt.kept_refl _, rfl⟩
    · split
      · exact ⟨SvSt.kept_refl _, rfl⟩
      · rename_i c _
        have key : d.sv.Kept (refuseUnlisted v n (reply c cREFUSED [] (d.modSv fun s => { s with waiting := s.waiting.erase c }))).sv ∧
            (refuseUnlisted v n (reply c cREFUSED [] (d.modSv fun s => { s with waiting := s.waiting.erase c }))).mem = d.mem :=
          ⟨(SvSt.Kept.trans (s := d.sv) (t := (d.modSv fun s => { s with waiting := s.waiting.erase c }).sv) ⟨rfl, rfl, rfl, rfl, rfl⟩ (reply_kept _ _ _ _)).trans (ih _).1,
            (ih _).2.trans (reply_empty_mem _ _ _)⟩
        by_cases hq : (if d.runtime = true then listedCode c.code else bareCode c.code) = true
        · rw [if_pos hq]; exact ⟨SvSt.kept_refl _, rfl⟩
        · rw [if_neg hq]; exact key

/-- Refusing commands for their code changes neither memory nor the journal. -/
theorem settleServices_kept (d : Dev) : d.sv.Kept (settleServices d).sv ∧ (settleServices d).mem = d.mem := by
  have key : ∀ (vs : List Via) (e : Dev), e.sv.Kept (e.each vs fun v d => refuseUnlisted v d.sv.waiting.length d).sv ∧
      (e.each vs fun v d => refuseUnlisted v d.sv.waiting.length d).mem = e.mem := by
    intro vs
    induction vs with
    | nil => exact fun e => ⟨SvSt.kept_refl _, rfl⟩
    | cons v vs ih =>
      intro e
      have k := refuseUnlisted_kept v e.sv.waiting.length e
      have l := ih (refuseUnlisted v e.sv.waiting.length e)
      exact ⟨k.1.trans l.1, l.2.trans k.2⟩
  exact key _ d

theorem posts_kept (l : List (List Word)) (d : Dev) : d.sv.SameBut (d.each l fun ws => (·.post 24 0x30 ws)).sv ∧ (d.each l fun ws => (·.post 24 0x30 ws)).mem = d.mem := by
  induction l generalizing d with
  | nil => exact ⟨rfl, rfl⟩
  | cons w l ih =>
    have k := ih (d.post 24 0x30 w)
    exact ⟨(post_sv _ _ _ _).trans k.1, k.2.trans (post_mem _ _ _ _)⟩

theorem mramWrite_open {off : Nat} {bs : List Byte} {d : Dev} (h : d.power.fence = false) :
    mramWrite off bs d = { d with mem := Memory.write d.mem (mramBase + off) bs } := by
  unfold mramWrite; exact if_neg (by rw [h]; decide)

theorem writeRecord_eff (kind len : Nat) (es : List (Nat × List Byte)) (rs : List (SvcCmd × Nat × List Byte)) (post : Option TagWrite) (d : Dev) (hf : d.power.fence = false) :
    writeRecord kind len es rs post d = { d with
      mem := Memory.write d.mem (mramBase + (journalAt + d.sv.jpos)) (recordBytes kind d.sv.jseq len es)
      sv := { d.sv with committed := d.sv.committed ++ [⟨d.sv.jseq, es, (d.sv.jpos + len) % journalSize, rs, post⟩], jpos := (d.sv.jpos + len) % journalSize,
                        jseq := d.sv.jseq + 1 } } := by
  unfold writeRecord; dsimp only; rw [mramWrite_open hf]; rfl

theorem mayCommit_facts {d : Dev} (h : d.mayCommit = true) : d.runtime = true ∧ d.power.fence = false := by
  unfold Dev.mayCommit at h
  simp only [Bool.and_eq_true, Bool.not_eq_true'] at h
  exact h.1

theorem journalCommit_full (d : Dev) (w : Work) (rest : List Work) (b : Built) (e : Dev) (h : d.mayCommit = true) (ht : d.sv.todo = w :: rest)
    (hb : buildWork w (d.modSv fun s => { s with todo := rest }) = (some b, e)) (hf : d.journalFits (recordLen b.entries) = false) :
    journalCommit d = d.modSv fun s => { s with waitAt := some (s.waitAt.getD d.ns) } := by
  unfold journalCommit
  rw [if_neg (by rw [h]; decide), ht]; dsimp only; rw [hb]; dsimp only
  rw [if_pos (by rw [hf]; rfl)]

theorem journalCommit_fits (d : Dev) (w : Work) (rest : List Work) (b : Built) (e : Dev) (h : d.mayCommit = true) (ht : d.sv.todo = w :: rest)
    (hb : buildWork w (d.modSv fun s => { s with todo := rest }) = (some b, e)) (hf : d.journalFits (recordLen b.entries) = true) :
    journalCommit d = (commitRecord b.kind b.entries b.replies b.post (e.modSv fun s => { s with begun := false, waitAt := none })).each b.events fun ws => (·.post 24 0x30 ws) := by
  unfold journalCommit
  rw [if_neg (by rw [h]; decide), ht]; dsimp only; rw [hb]; dsimp only
  rw [if_neg (by rw [hf]; decide)]

theorem journalApply_eff (d : Dev) (r : JRecord) (rest : List JRecord) (hr : d.runtime = true) (hf : d.power.fence = false) (hc : d.sv.committed = r :: rest) :
    (journalApply d).rd SV_APPLIED_SEQ = r.seq % 2 ^ 64 ∧ (r.post = none → (journalApply d).sv.committed = rest) ∧
    (∀ t, r.post = some t → t ∈ (journalApply d).sv.writes) ∧
    (r.replies = [] → (journalApply d).mem = Memory.write (Memory.write (applyEntries d.mem r.entries) (mramBase + controlAt) (leBytes 8 r.seq))
        (mramBase + (controlAt + 8)) (leBytes 4 r.next ++ leBytes 4 0)) := by
  unfold journalApply
  rw [if_neg (by rw [hr, hf]; decide), hc]
  dsimp only
  rw [mramWrite_open (d := { d with mem := applyEntries d.mem r.entries }) hf]
  rw [mramWrite_open (d := { d with mem := Memory.write (applyEntries d.mem r.entries) (mramBase + controlAt) (leBytes 8 r.seq) }) hf]
  generalize hy : Dev.modSv _ _ = y
  have y1 : y.rd SV_APPLIED_SEQ = r.seq % 2 ^ 64 := by subst hy; rw [Dev.modSv_rd, Dev.rd_wr_same]
  have y2 : y.sv.committed = rest := by subst hy; rfl
  have y3 : y.mem = Memory.write (Memory.write (applyEntries d.mem r.entries) (mramBase + controlAt) (leBytes 8 r.seq)) (mramBase + (controlAt + 8)) (leBytes 4 r.next ++ leBytes 4 0) := by subst hy; rfl
  have rs : ∀ (l : List (SvcCmd × Nat × List Byte)) (z : Dev), z.sv.Kept (z.each l fun x => reply x.1 x.2.1 x.2.2).sv ∧
      (z.each l fun x => reply x.1 x.2.1 x.2.2).rd SV_APPLIED_SEQ = z.rd SV_APPLIED_SEQ := by
    intro l
    induction l with
    | nil => exact fun z => ⟨SvSt.kept_refl _, rfl⟩
    | cons x l ih =>
      intro z
      have k := ih (reply x.1 x.2.1 x.2.2 z)
      exact ⟨(reply_kept _ _ _ _).trans k.1, k.2.trans ((reply_after (Changes.refl _ _ _) (within_refl _) (covers_refl _) x.1 x.2.1 x.2.2).rd (rows_not (by decide +kernel)))⟩
  obtain ⟨k1, k2⟩ := rs r.replies y
  have k3 : r.replies = [] → (y.each r.replies fun x => reply x.1 x.2.1 x.2.2).mem = y.mem := by intro h; rw [h]; rfl
  generalize Dev.each y r.replies _ = z at k1 k2 k3
  have pm : ∀ (n : Nat) (ws : List Word) (u : Dev), (postCmd n ws u).mem = u.mem ∧ (postCmd n ws u).rd SV_APPLIED_SEQ = u.rd SV_APPLIED_SEQ :=
    fun n ws u => ⟨((postCmd_after (Changes.refl _ _ _) (within_refl _) (covers_refl _) n ws).parts .mem (by decide)), ((postCmd_after (Changes.refl _ _ _) (within_refl _) (covers_refl _) n ws).rd (rows_not (by decide +kernel)))⟩
  cases hp : r.post with
  | none =>
    refine ⟨k2.trans y1, fun _ => k1.1.trans y2, ?_, fun h => (k3 h).trans y3⟩
    intro t h; simp at h
  | some t =>
    refine ⟨?_, ?_, ?_, fun h => ?_⟩
    · show (Dev.modSv _ _).rd _ = _
      rw [Dev.modSv_rd, (pm _ _ _).2, k2, y1]
    · intro h; simp at h
    · intro t' h; simp at h; subst h
      show t ∈ _ ++ [t]; simp
    · show (postCmd _ _ _).mem = _; rw [(pm _ _ _).1, k3 h, y3]

theorem journalWaitExpiry_eff (d : Dev) (w : Work) (rest : List Work) (c : SvcCmd) (b : Built) (e : Dev) (h : d.mayCommit = true) (ht : d.sv.todo = w :: rest) (hc : w.command = some c)
    (hb : buildWork w (d.modSv fun s => { s with todo := rest }) = (some b, e)) (hf : d.journalFits (recordLen b.entries) = false) :
    journalWaitExpiry d = replyApplied c 0x13 [] ((d.reach (d.sv.waitAt.getD d.ns + 50000000)).modSv fun s => { s with todo := rest, waitAt := none }) := by
  unfold journalWaitExpiry
  rw [if_neg (by rw [h]; decide), ht]; dsimp only; rw [hc, hb]; dsimp only
  rw [if_neg (by rw [hf]; decide)]

theorem absenceTimeout_eff (k : Nat) (d : Dev) (hr : d.runtime = true) (hk : k < 1048576) (h1 : recState (d.vread (64 * k) 64) = 1)
    (h2 : u8At (d.vread (64 * k) 64) 0x1F = 1) (h3 : le16At (d.policy (le16At (d.vread (64 * k) 64) 0x10)) 1 ≠ 0) :
    (recKey (d.vread (64 * k) 64), 9) ∈ (absenceTimeout k d).sv.verdicts ∧ (absenceTimeout k d).sv.held = d.sv.held.filter (·.1 ≠ k) ∧ (absenceTimeout k d).mem = d.mem ∧
    (∀ x, d.sv.held.find? (·.1 = k) = some x → Work.refresh k x.2 ∈ (absenceTimeout k d).sv.todo) ∧
    ∃ a, (absenceTimeout k d).sv.todo.getLast? = some (.absent k a) ∧ a.typ = some 1 ∧ a.record = k ∧ a.berth = some (le16At (d.vread (64 * k) 64) 0x1C) := by
  unfold absenceTimeout Dev.regRecord
  rw [if_neg (by rw [hr]; simp [registrySize]; omega)]
  dsimp only
  rw [if_neg (by simp [h1, h2, h3])]
  have vd : ∀ (l : List (List Byte × Nat)) (key : List Byte), (key, 9) ∈ l ++ [(key, 9)] := by intros; simp
  cases hh : d.sv.held.find? (fun x => decide (x.1 = k)) with
  | none =>
    dsimp only [Option.map_none]
    generalize stampNs _ + _ = t
    have r1 : (d.reach t).sv = d.sv := ((Dev.reach_after (Changes.refl _ _ _) (within_refl _) (covers_refl _) t).parts .sv (by decide))
    have r2 : (d.reach t).mem = d.mem := ((Dev.reach_after (Changes.refl _ _ _) (within_refl _) (covers_refl _) t).parts .mem (by decide))
    generalize d.reach t = e at r1 r2
    refine ⟨vd _ _, by rw [← r1]; rfl, r2, ?_, _, List.getLast?_concat, rfl, rfl, rfl⟩
    intro x h; simp at h
  | some x =>
    dsimp only [Option.map_some]
    generalize stampNs _ + _ = t
    have r1 : (d.reach t).sv = d.sv := ((Dev.reach_after (Changes.refl _ _ _) (within_refl _) (covers_refl _) t).parts .sv (by decide))
    have r2 : (d.reach t).mem = d.mem := ((Dev.reach_after (Changes.refl _ _ _) (within_refl _) (covers_refl _) t).parts .mem (by decide))
    generalize d.reach t = e at r1 r2
    refine ⟨vd _ _, by rw [← r1]; rfl, r2, ?_, _, List.getLast?_concat, rfl, rfl, rfl⟩
    intro y h; simp at h; subst h
    have : ∀ (l : List Work) (a b : Work), a ∈ (l ++ [a]) ++ [b] := by intros; simp
    exact this _ _ _

theorem commitRecord_one (kind : Nat) (es : List (Nat × List Byte)) (rs : List (SvcCmd × Nat × List Byte)) (post : Option TagWrite) (d : Dev)
    (hf : d.power.fence = false) (hl : d.sv.jpos + recordLen es ≤ journalSize) :
    commitRecord kind es rs post d = writeRecord kind (recordLen es) es rs post d := by
  unfold commitRecord; dsimp only; rw [if_neg (by omega)]

theorem commitRecord_two (kind : Nat) (es : List (Nat × List Byte)) (rs : List (SvcCmd × Nat × List Byte)) (post : Option TagWrite) (d : Dev)
    (hl : journalSize < d.sv.jpos + recordLen es) :
    commitRecord kind es rs post d = writeRecord kind (recordLen es) es rs post (writeRecord 4 (journalSize - d.sv.jpos) [] [] none d) := by
  unfold commitRecord; dsimp only; rw [if_pos hl]

theorem Dev.reaches_eq {d : Dev} {p : Path} {b : Nat} (h : d.reaches p b = true) (f : Dev → Dev) : onPort b p f d = f (d.beginAccess p) := by
  unfold Dev.reaches at h
  rw [Bool.and_eq_true] at h
  exact onPort_open f h.1 h.2

theorem mboxWord_port (p : Path) (w : Word) (d : Dev) (h : d.reaches p 0x34000 = true) :
    (d.on SV_MBOX_STATUS_BUSY = true → (onPort 0x34000 p (mboxWord p w) d).rd SV_MBOX_STATUS_OVERFLOW = 1 ∧
      (onPort 0x34000 p (mboxWord p w) d).sv = d.sv ∧ (onPort 0x34000 p (mboxWord p w) d).mem = d.mem) ∧
    (d.on SV_MBOX_STATUS_BUSY = false → (d.sv.mboxIn ++ [w]).length < bits (wordAt (d.sv.mboxIn ++ [w]) 0) 23 15 →
      (onPort 0x34000 p (mboxWord p w) d).sv = { d.sv with mboxIn := d.sv.mboxIn ++ [w] } ∧ (onPort 0x34000 p (mboxWord p w) d).regs = d.regs ∧
      (onPort 0x34000 p (mboxWord p w) d).mem = d.mem) ∧
    (d.on SV_MBOX_STATUS_BUSY = false → bits (wordAt (d.sv.mboxIn ++ [w]) 0) 23 15 ≤ (d.sv.mboxIn ++ [w]).length →
      d.sv.waiting = [] → d.runtime = true → listedCode (svcOfWords .mailbox (d.sv.mboxIn ++ [w])).code = true →
      (onPort 0x34000 p (mboxWord p w) d).rd SV_MBOX_STATUS_BUSY = 1 ∧ (onPort 0x34000 p (mboxWord p w) d).mem = d.mem ∧
      (onPort 0x34000 p (mboxWord p w) d).sv = { d.sv with mboxIn := [], waiting := [svcOfWords .mailbox (d.sv.mboxIn ++ [w])] }) := by
  rw [Dev.reaches_eq h]
  refine ⟨fun hb => ?_, fun hb hl => ?_, fun hb hl hw hr hc => ?_⟩
  · have k := mboxWord_busy p w (d.beginAccess p) (by simpa using hb)
    exact ⟨k.1, k.2.1.trans (Dev.beginAccess_sv _ _), k.2.2.trans (Dev.beginAccess_mem _ _)⟩
  · rw [mboxWord_more p w _ (by simpa using hb) (by simpa using hl)]
    refine ⟨?_, Dev.beginAccess_regs _ _, Dev.beginAccess_mem _ _⟩
    show SvSt.mk .. = _
    simp only [Dev.beginAccess_sv]
  · have hr' : (d.beginAccess p).runtime = true := by rw [← hr]; cases p <;> rfl
    rw [mboxWord_last p w _ (by simpa using hb) (by simpa using hl) (by simpa using hw) hr' (by simpa using hc)]
    refine ⟨?_, Dev.beginAccess_mem _ _, ?_⟩
    · rw [Dev.modSv_rd, Dev.rd_raise_same]; rfl
    · have xs : (d.beginAccess p).sv = d.sv := Dev.beginAccess_sv _ _
      generalize d.beginAccess p = x at xs
      rw [← xs]; rfl

theorem mboxRead_port (p : Path) (d : Dev) (h : d.reaches p 0x34000 = true) : (onPort 0x34000 p (mboxRead p) d).mem = d.mem ∧ match d.sv.mboxOut with
    | [] => (onPort 0x34000 p (mboxRead p) d).out = d.out ++ [0] ∧ (onPort 0x34000 p (mboxRead p) d).sv = d.sv
    | w :: r => (onPort 0x34000 p (mboxRead p) d).out = d.out ++ [w] ∧ (onPort 0x34000 p (mboxRead p) d).sv = { d.sv with mboxOut := r } ∧
        (r = [] → (onPort 0x34000 p (mboxRead p) d).rd SV_MBOX_STATUS_OUT_READY = 0 ∧ (onPort 0x34000 p (mboxRead p) d).rd SV_MBOX_STATUS_BUSY = 0) := by
  rw [Dev.reaches_eq h]
  have k := mboxRead_eff p (d.beginAccess p)
  simp only [Dev.beginAccess_sv, Dev.beginAccess_out, Dev.beginAccess_mem] at k
  exact k

theorem commit_settled (b : Built) (y : Dev) : (settleServices (y.each b.events fun ws => (·.post 24 0x30 ws))).sv.committed = y.sv.committed ∧
    (settleServices (y.each b.events fun ws => (·.post 24 0x30 ws))).sv.jseq = y.sv.jseq ∧ (settleServices (y.each b.events fun ws => (·.post 24 0x30 ws))).sv.todo = y.sv.todo ∧
    (settleServices (y.each b.events fun ws => (·.post 24 0x30 ws))).mem = y.mem := by
  obtain ⟨p1, p2⟩ := posts_kept b.events y
  obtain ⟨q1, q2⟩ := settleServices_kept (y.each b.events fun ws => (·.post 24 0x30 ws))
  have k := p1.kept.trans q1
  exact ⟨k.1, k.2.2.2.1, k.2.2.1, q2.trans p2⟩

theorem buildWork_power {w : Work} {d e : Dev} {b : Built} (h : buildWork w d = (some b, e)) : e.power = d.power := by
  have k := (buildWork_after (Changes.refl _ _ _) (within_refl _) (covers_refl _) w).parts (d := d) .power (by decide)
  rw [h] at k; exact k

theorem journalCommit_eff (d : Dev) (w : Work) (rest : List Work) (b : Built) (e : Dev) (hm : d.mayCommit = true) (ht : d.sv.todo = w :: rest)
    (hb : buildWork w (d.modSv fun s => { s with todo := rest }) = (some b, e)) (hf : d.journalFits (recordLen b.entries) = true) :
    (e.sv.jpos + recordLen b.entries ≤ journalSize →
      (settleServices (journalCommit d)).sv.committed = e.sv.committed ++ [⟨e.sv.jseq, b.entries, (e.sv.jpos + recordLen b.entries) % journalSize, b.replies, b.post⟩] ∧
      (settleServices (journalCommit d)).sv.jseq = e.sv.jseq + 1 ∧ (settleServices (journalCommit d)).sv.todo = e.sv.todo ∧
      (settleServices (journalCommit d)).mem = Memory.write e.mem (mramBase + (journalAt + e.sv.jpos)) (recordBytes b.kind e.sv.jseq (recordLen b.entries) b.entries)) ∧
    (journalSize < e.sv.jpos + recordLen b.entries → e.sv.jpos ≤ journalSize →
      (settleServices (journalCommit d)).sv.committed = e.sv.committed ++ [⟨e.sv.jseq, [], 0, [], none⟩] ++
              [⟨e.sv.jseq + 1, b.entries, recordLen b.entries % journalSize, b.replies, b.post⟩] ∧
      (settleServices (journalCommit d)).sv.jseq = e.sv.jseq + 2 ∧ (settleServices (journalCommit d)).sv.todo = e.sv.todo ∧
      (settleServices (journalCommit d)).mem = Memory.write (Memory.write e.mem (mramBase + (journalAt + e.sv.jpos)) (recordBytes 4 e.sv.jseq (journalSize - e.sv.jpos) []))
              (mramBase + journalAt) (recordBytes b.kind (e.sv.jseq + 1) (recordLen b.entries) b.entries)) := by
  have ef : e.power.fence = false := by rw [buildWork_power hb]; exact (mayCommit_facts hm).2
  rw [journalCommit_fits d w rest b e hm ht hb hf]
  obtain ⟨c1, c2, c3, c4⟩ := commit_settled b (commitRecord b.kind b.entries b.replies b.post (e.modSv fun s => { s with begun := false, waitAt := none }))
  rw [c1, c2, c3, c4]
  have ef' : (e.modSv fun s => { s with begun := false, waitAt := none }).power.fence = false := ef
  constructor
  · intro hj
    rw [commitRecord_one _ _ _ _ (e.modSv fun s => { s with begun := false, waitAt := none }) ef hj, writeRecord_eff _ _ _ _ _ _ ef']
    exact ⟨rfl, rfl, rfl, rfl⟩
  · intro hj hp
    have z : (e.sv.jpos + (journalSize - e.sv.jpos)) % journalSize = 0 := by
      rw [Nat.add_sub_cancel' hp]; exact Nat.mod_self _
    have w1 := writeRecord_eff 4 (journalSize - e.sv.jpos) [] [] none (e.modSv fun s => { s with begun := false, waitAt := none }) ef'
    have x1 := congrArg Dev.mem w1
    have x2 := congrArg (fun x => x.sv.committed) w1
    have x3 := congrArg (fun x => x.sv.jpos) w1
    have x4 := congrArg (fun x => x.sv.jseq) w1
    have x5 := congrArg (fun x => x.sv.todo) w1
    have x6 := congrArg (fun x => x.power.fence) w1
    dsimp only [Dev.modSv] at x1 x2 x3 x4 x5 x6
    rw [z] at x2 x3
    obtain ⟨x, hx, x1, x2, x3, x4, x5, x6⟩ : ∃ x, commitRecord b.kind b.entries b.replies b.post (e.modSv fun s => { s with begun := false, waitAt := none }) =
        writeRecord b.kind (recordLen b.entries) b.entries b.replies b.post x ∧
        x.mem = Memory.write e.mem (mramBase + (journalAt + e.sv.jpos)) (recordBytes 4 e.sv.jseq (journalSize - e.sv.jpos) []) ∧
        x.sv.committed = e.sv.committed ++ [JRecord.mk e.sv.jseq [] 0 [] none] ∧ x.sv.jpos = 0 ∧ x.sv.jseq = e.sv.jseq + 1 ∧ x.sv.todo = e.sv.todo ∧ x.power.fence = false :=
      ⟨_, commitRecord_two _ _ _ _ (e.modSv fun s => { s with begun := false, waitAt := none }) hj, x1, x2, x3, x4, x5, x6.trans ef⟩
    rw [hx, writeRecord_eff b.kind _ _ _ _ x x6]
    refine ⟨?_, ?_, x5, ?_⟩
    · show x.sv.committed ++ [JRecord.mk x.sv.jseq b.entries ((x.sv.jpos + recordLen b.entries) % journalSize) b.replies b.post] = _
      rw [x2, x3, x4, Nat.zero_add]
    · show x.sv.jseq + 1 = _; rw [x4]
    · show Memory.write x.mem (mramBase + (journalAt + x.sv.jpos)) (recordBytes b.kind x.sv.jseq (recordLen b.entries) b.entries) = _
      rw [x1, x3, x4, Nat.add_zero]

theorem coalesceTimer_eff (d e : Dev) (k : Nat) (x : Sighting) (rest : List (Nat × Sighting)) (hr : d.runtime = true) (hh : d.sv.held = (k, x) :: rest)
    (he : e = d.reach (stampNs (((d.regRecord k).drop 0x20).take 12) + d.coalesceMs * 1000000)) :
    coalesceTimer d = { e with sv := { e.sv with held := rest, todo := e.sv.todo ++ [.refresh k x] } } := by
  unfold coalesceTimer
  rw [if_neg (by rw [hr]; decide), hh]
  subst he; rfl

theorem saves_owe (d : Dev) (hr : d.runtime = true) :
    (d.on TS_STATUS_NB_DIRTY = true → (∀ a l, Work.tables a l ∉ d.sv.todo) → nbTableSave d = d.owe (.tables 0 d.ts.tables)) ∧
    (d.on CY_KSTATUS_DIRTY = true → (∀ c, Work.keys c ∉ d.sv.todo) → keyBlobSave d = d.owe (.keys none)) ∧
    (∀ k, d.dirtyBlocks k ≠ [] → emuImagePersist k d = d.owe (.image k)) ∧ (d.on CL_STATUS_COUNT_DIRTY = true → calCountJournal d = d.owe .count) := by
  refine ⟨fun h n => ?_, fun h n => ?_, fun k h => ?_, fun h => ?_⟩
  · unfold nbTableSave
    refine if_pos ?_
    rw [hr, h, Bool.true_and, Bool.true_and, Bool.not_eq_true', List.any_eq_false]
    intro w hw
    cases w <;> first | exact Bool.false_ne_true | exact absurd hw (n _ _)
  · unfold keyBlobSave
    refine if_pos ?_
    rw [hr, h, Bool.true_and, Bool.true_and, Bool.not_eq_true', List.any_eq_false]
    intro w hw
    cases w <;> first | exact Bool.false_ne_true | exact absurd hw (n _)
  · unfold emuImagePersist
    refine if_pos ?_
    rw [hr]
    cases hq : d.dirtyBlocks k with
    | nil => exact absurd hq h
    | cons a l => rfl
  · unfold calCountJournal; exact if_pos (by rw [hr, h]; rfl)

theorem journalApply_settled (d : Dev) (r : JRecord) (rest : List JRecord) (hr : d.runtime = true) (hf : d.power.fence = false) (hc : d.sv.committed = r :: rest) :
    (settleServices (journalApply d)).rd SV_APPLIED_SEQ = r.seq % 2 ^ 64 ∧ (r.post = none → (settleServices (journalApply d)).sv.committed = rest) ∧
    (∀ t, r.post = some t → t ∈ (settleServices (journalApply d)).sv.writes) ∧
    (r.replies = [] → (settleServices (journalApply d)).mem = Memory.write (Memory.write (applyEntries d.mem r.entries) (mramBase + controlAt) (leBytes 8 r.seq))
        (mramBase + (controlAt + 8)) (leBytes 4 r.next ++ leBytes 4 0)) := by
  have k := journalApply_eff d r rest hr hf hc
  generalize journalApply d = y at k
  obtain ⟨q1, q2⟩ := settleServices_kept y
  have q3 : (settleServices y).rd SV_APPLIED_SEQ = y.rd SV_APPLIED_SEQ := ((settleServices_after (Changes.refl _ _ _) (within_refl _) (covers_refl _)).rd (rows_not (by decide +kernel)))
  exact ⟨q3.trans k.1, fun h => q1.1.trans (k.2.1 h), fun t h => by rw [q1.2.1]; exact k.2.2.1 t h, fun h => q2.trans (k.2.2.2 h)⟩

theorem Dev.out_fits (d : Dev) (ws : List Word) (n : Nat) : ({ d with out := ws } : Dev).journalFits n = d.journalFits n := by
  unfold Dev.journalFits Dev.journalUsed Dev.tail; rfl
theorem Dev.out_mayCommit (d : Dev) (ws : List Word) : ({ d with out := ws } : Dev).mayCommit = d.mayCommit := rfl
theorem Dev.out_vread (d : Dev) (ws : List Word) : ({ d with out := ws } : Dev).vread = d.vread := rfl
theorem Dev.out_policy (d : Dev) (ws : List Word) : ({ d with out := ws } : Dev).policy = d.policy := by
  funext k; unfold Dev.policy Dev.serviceRecord Dev.forced Dev.storedRecord Dev.manifestRecord; rfl

/-- A command completes with what its effect gives. -/
theorem Completes.of {c : Instr} {s : State} {P : Dev → Prop} (f : Dev → Dev) (h : exec c s = s.act f) (k : P (f { s.dev with out := [] })) : Completes c s P :=
  ⟨_, h, rfl, k⟩



end Sys2Proof.Machine
end

