-- ==== Sys2Proof/Laws/EffectsRegisters.lean ====
section
/-!
SUPPORT. What the operations of Machine/Registers do.
-/

set_option Elab.async false
set_option linter.all false

namespace Sys2Proof.Machine

theorem inWindow_registers {a : Nat} (h : inRegisterSpace a = true) : inWindow a = false := by
  unfold inRegisterSpace at h
  unfold inWindow Dev.inDram Dev.inMram Dev.inXip
  simp only [Bool.or_eq_true, Bool.and_eq_true, decide_eq_true_eq] at h
  simp only [Bool.or_eq_false_iff, Bool.and_eq_false_iff, decide_eq_false_iff_not]
  omega

theorem regionEnd_room {a : Nat} (h : a % 4 = 0) : min 1 ((regionEnd a - a) / 4) = 1 := by
  unfold regionEnd; split <;> omega

theorem give_none (d : Dev) (p : Path) : d.give p [] = d := rfl

theorem Dev.accessed_open {d : Dev} {p : Path} (h : d.pathOpen p = true) : (d.accessed p).pathOpen p = true := by
  rw [← h]; cases p <;> rfl
theorem Dev.accessed_runs (d : Dev) (p : Path) (b : Nat) : (d.accessed p).blockRuns b = d.blockRuns b := by cases p <;> rfl
theorem Dev.accessed_regAt (d : Dev) (p : Path) (a : Nat) : (d.accessed p).regAt a = d.regAt a := by
  unfold Dev.regAt Dev.ceChan; cases p <;> rfl
theorem Dev.accessed_mem (d : Dev) (p : Path) : (d.accessed p).mem = d.mem := Dev.beginAccess_mem _ _
theorem Dev.accessed_out (d : Dev) (p : Path) : (d.accessed p).out = [] := Dev.beginAccess_out _ _
theorem Dev.accessed_latch (d : Dev) (p : Path) : (d.accessed p).latch = d.latch := Dev.beginAccess_latch _ _

theorem loadWord_names {e : Dev} {p : Path} {a : Nat} {h : RegHit} (hn : e.Names p a h) :
    loadWord p a e = (readReg p a h e).2.give p [(readReg p a h e).1] := by
  obtain ⟨h1, h2, h3, h4, h5, h6⟩ := hn
  unfold Dev.reaches at h1; rw [Bool.and_eq_true] at h1
  have e' : a / 4 * 4 = a := by omega
  unfold loadWord
  dsimp only
  rw [e', h1.2, if_neg (by decide), h4, if_neg (by decide), h5, if_neg (by decide), h6]

/-- With no burst to go on, the part is met as it stands. -/
theorem met_quiet {d : Dev} (h : d.Quiet) (p : Path) : d.met p = d.accessed p := by
  have k : ∀ (xs : List Nat), (∀ i ∈ xs, i < 32) → ∀ e : Dev, e.lq = d.lq → (e.each xs fun i d =>
      let rs := (d.q i).resumed
      if rs.isEmpty then d
      else (d.modQ i fun q => { q with resumed := [] }).each rs fun b => burstReads b.path b.code b.pad b.words b.addr) = e := by
    intro xs
    induction xs with
    | nil => intros; rfl
    | cons i xs ih =>
      intro hi e he
      have q : (e.q i).resumed = [] := by
        have := h ⟨i, hi i (List.mem_cons_self)⟩
        unfold Dev.q at this ⊢; rw [he]; exact this
      show Dev.each _ xs _ = e
      dsimp only
      rw [q]
      exact ih (fun j hj => hi j (List.mem_cons_of_mem _ hj)) e he
  unfold Dev.met burstsGoOn Dev.accessed
  exact congrArg (fun e : Dev => e.beginAccess p) (k (upTo 32) (fun i hi => by unfold upTo at hi; exact List.mem_range.1 hi) { d with out := [] } rfl)

/-- A burst of one word that names a register. -/
theorem burstReads_one {e : Dev} {p : Path} {a : Nat} {h : RegHit} (hn : e.Names p a h) :
    burstReads p (e.rd (GW_STATUS_CODE (if p = .gw1 then 1 else 0))) 0 1 a e = loadWord p a e := by
  have f : frameCode p (e.rd (GW_STATUS_CODE (if p = .gw1 then 1 else 0))) e = e := by cases p <;> simp [frameCode]
  have l : (loadWord p a e).lq = e.lq := by
    rw [loadWord_names hn]
    exact ((Dev.give_after (Changes.refl _ _ _) (within_refl _) (covers_refl _) _ _).parts .lq (by decide)).trans
      ((readReg_after (Changes.refl _ _ _) (within_refl _) (covers_refl _) _ _ _).parts .lq (by decide))
  unfold burstReads
  dsimp only
  rw [f]
  rw [if_neg (by unfold Dev.q; rw [l]; exact Nat.lt_irrefl _)]
  rfl

theorem busRead_names {d : Dev} {p : Path} {a : Nat} {h : RegHit} (hn : (d.met p).Names p a h) :
    busRead p a 1 { d with out := [] } = (readReg p a h (d.met p)).2.give p [(readReg p a h (d.met p)).1] := by
  rw [← loadWord_names hn]
  show (if !(d.met p).pathOpen p then d.met p else if p = .pilot then pilotLoads a 1 (d.met p) else readBurst p a 1 (d.met p)) = _
  generalize d.met p = x at hn ⊢
  have hn' := hn
  obtain ⟨h1, h2, h3, h4, h5, h6⟩ := hn
  unfold Dev.reaches at h1; rw [Bool.and_eq_true] at h1
  rw [h1.1, if_neg (by decide)]
  have e : a / 4 * 4 = a := by omega
  by_cases hp : p = .pilot
  · rw [if_pos hp]
    unfold pilotLoads
    rw [inWindow_registers h2, h2, if_neg (by decide), if_neg (by decide), hp]; rfl
  · rw [if_neg hp]
    unfold readBurst
    dsimp only
    rw [inWindow_registers h2, h2, h4, if_neg (by decide), if_neg (by decide), if_neg (by decide), if_neg (by decide), e, regionEnd_room h3, h5]
    simp only [Bool.false_and, Bool.false_eq_true, if_false, Nat.lt_irrefl, Nat.sub_self]
    exact burstReads_one hn'

theorem word_bytes (w : Nat) : bytesToWords (leBytes 4 w) = [nw (w % 2 ^ 32)] := by
  have e : leNat (leBytes 4 w) = w % 2 ^ 32 := leNat_leBytes 4 w
  show [nw (leNat (leBytes 4 w))] = _
  rw [e]

theorem busWrite_names {d : Dev} {p : Path} {a : Nat} {h : RegHit} (hn : (d.met p).Names p a h) (w : Nat) (frs : List (Fin 24 × RxFrame)) :
    busWrite p a (leBytes 4 w) frs { d with out := [] } = storeWord p a h (nw (w % 2 ^ 32)) frs (d.met p) := by
  show (if (!(d.met p).pathOpen p || (leBytes 4 w).isEmpty) = true then d.met p else if p = .pilot then _ else writeBurst p a (leBytes 4 w) frs (d.met p)) = _
  show (if (!(d.met p).pathOpen p || (leBytes 4 w).isEmpty) = true then d.met p else if p = .pilot then
      (if (leBytes 4 w).length < 4 then (if inWindow a then memStore p a (leBytes 4 w) (d.met p) else if inRegisterSpace a then storeAddr p a 0 true frs (d.met p) else unassigned p true a (d.met p))
        else pilotStores frs a (bytesToWords (leBytes 4 w)) (d.met p)) else writeBurst p a (leBytes 4 w) frs (d.met p)) = _
  generalize d.met p = x at hn ⊢
  obtain ⟨h1, h2, h3, h4, h5, h6⟩ := hn
  unfold Dev.reaches at h1; rw [Bool.and_eq_true] at h1
  have e : a / 4 * 4 = a := by omega
  have st : storeAddr p a (nw (w % 2 ^ 32)) false frs x = storeWord p a h (nw (w % 2 ^ 32)) frs x := by
    unfold storeAddr
    dsimp only
    rw [e, h1.2, if_neg (by decide), if_neg (by decide), h5, if_neg (by decide), h6]
  rw [← st]
  rw [h1.1, if_neg (by show ¬ (!true || false) = true; decide)]
  by_cases hp : p = .pilot
  · rw [if_pos hp, if_neg (by rw [leBytes_length]; decide), word_bytes]
    unfold pilotStores
    rw [inWindow_registers h2, h2, if_neg (by decide), if_neg (by decide), hp]; rfl
  · rw [if_neg hp]
    unfold writeBurst
    dsimp only
    rw [inWindow_registers h2, h2, e, h4, if_neg (by decide), if_neg (by decide), if_neg (by decide), word_bytes]
    rw [show ([nw (w % 2 ^ 32)] : List Word).length = 1 from rfl, regionEnd_room h3, h5]
    rfl

theorem storeWord_plain {p : Path} {a : Nat} {h : RegHit} {w : Word} {frs : List (Fin 24 × RxFrame)} {d : Dev} (hn : h.spec.addr ∉ ownWrite) :
    storeWord p a h w frs d = writeReg p a h w d := by
  unfold ownWrite at hn
  simp only [List.mem_cons, List.not_mem_nil, or_false, not_or] at hn
  unfold storeWord
  split <;> first | rfl | (exfalso; simp_all)

theorem beginAccess_port {d : Dev} {p : Path} {b : Nat} (hp : d.reaches p b = true) : (d.accessed p).pathOpen p = true := by
  unfold Dev.reaches at hp; rw [Bool.and_eq_true] at hp; exact Dev.accessed_open hp.1

theorem Dev.names_of {d : Dev} {p : Path} {a b : Nat} {h : RegHit} (hb : blockBase a = b) (hr : d.reaches p b = true) (h1 : inRegisterSpace a = true) (h2 : a % 4 = 0)
    (h3 : portAddress a = false) (h4 : inShadowWindow a = false) (h5 : d.regAt a = some h) : d.Names p a h := ⟨by rw [hb]; exact hr, h1, h2, h3, h4, h5⟩

theorem clearRead_mem (h : RegHit) (d : Dev) : (clearRead h d).mem = d.mem := ((clearRead_after (Changes.refl _ _ _) (within_refl _) (covers_refl _) h).parts .mem (by decide))
theorem clearRead_out (h : RegHit) (d : Dev) : (clearRead h d).out = d.out := ((clearRead_after (Changes.refl _ _ _) (within_refl _) (covers_refl _) h).parts .out (by decide))

theorem readReg_live {p : Path} {a : Nat} {h : RegHit} {d : Dev} (hw : h.spec.words = 1) : readReg p a h d = (nw (d.wordNow h), clearRead h d) := by
  unfold readReg; dsimp only; rw [if_pos hw]

theorem readReg_low {p : Path} {a : Nat} {h : RegHit} {d : Dev} (hw : 1 < h.spec.words) (h0 : h.word = 0) :
    (readReg p a h d).1 = nw (d.wordNow h) ∧ (readReg p a h d).2.mem = d.mem ∧ (readReg p a h d).2.out = d.out ∧
    ∃ l, l ∈ (readReg p a h d).2.latch ∧ l.path = p ∧ l.addr = a - 4 * h.word ∧ l.words = (upTo (h.spec.words - 1)).map fun k => nw (d.wordNow { h with word := k + 1 }) := by
  unfold readReg; dsimp only; rw [if_neg (by omega), if_pos h0]
  refine ⟨rfl, clearRead_mem _ _, clearRead_out _ _, _, List.mem_append_right _ (List.mem_singleton.2 rfl), rfl, rfl, rfl⟩

theorem readReg_held {p : Path} {a : Nat} {h : RegHit} {d : Dev} {l : Latch} (hw : 1 < h.spec.words) (h0 : h.word ≠ 0)
    (hl : d.latch.find? (fun x => x.path == p && x.addr == a - 4 * h.word) = some l) :
    (readReg p a h d).1 = l.words.getD (h.word - 1) 0 ∧ (readReg p a h d).2.mem = d.mem ∧ (readReg p a h d).2.out = d.out := by
  unfold readReg; dsimp only; rw [if_neg (by omega), if_neg h0, hl]
  exact ⟨rfl, rfl, rfl⟩

theorem give_latch (d : Dev) (p : Path) (ws : List Word) : (d.give p ws).latch = d.latch := ((Dev.give_after (Changes.refl _ _ _) (within_refl _) (covers_refl _) p ws).parts .latch (by decide))

theorem writeReg_stage {p : Path} {a : Nat} {h : RegHit} {w : Word} {d : Dev} (hw : (h.spec.flds h.i h.j).any (·.writable h.i) = true) (hl : h.word + 1 < h.spec.words) :
    writeReg p a h w d = d.stageWord p a w := by
  unfold writeReg; dsimp only
  rw [if_neg (by rw [hw]; simp; omega), if_pos hl]

theorem writeReg_commit {p : Path} {a : Nat} {h : RegHit} {w : Word} {d : Dev} (hw : (h.spec.flds h.i h.j).any (·.writable h.i) = true) (h1 : 1 < h.spec.words)
    (hl : h.word + 1 = h.spec.words) : writeReg p a h w d = writeValue p a h
      ((upTo (h.spec.words - 1)).foldl (fun v k => v + 2 ^ (32 * k) * d.staged p (a - 4 * h.word + 4 * k) (d.wordNow { h with word := k }))
            (2 ^ (32 * (h.spec.words - 1)) * w.toNat)) (d.unstage p) := by
  unfold writeReg; dsimp only
  rw [if_neg (by rw [hw]; simp; omega), if_neg (by omega)]

theorem writeReg_one {p : Path} {a : Nat} {h : RegHit} {w : Word} {d : Dev} (h1 : h.spec.words = 1) : writeReg p a h w d = writeValue p a h w.toNat d := by
  unfold writeReg; dsimp only
  rw [if_pos (by rw [h1]; rfl), if_pos h1]

theorem writeValue_locked {p : Path} {a : Nat} {h : RegHit} {v : Nat} {d : Dev} (hl : d.regFixed h.spec.addr h.i h.j = true) :
    (writeValue p a h v d).rd (ERR_LOCKED (blockBase a)) = 1 ∧ d.Keeps [.regs] [.errors] (writeValue p a h v d) := by
  unfold writeValue; dsimp only
  rw [hl, Bool.or_true, if_pos rfl]
  generalize ((_ : Bool) || _) = r
  refine ⟨?_, (accessError_after (Changes.refl _ _ d) (within_refl _) (covers_refl _) (blockBase_mem a) p true a ⟨r, true, false⟩).keeps⟩
  unfold Dev.accessError
  dsimp only
  show Dev.rd (Dev.raiseIf (Dev.raiseIf _ true _) false _) _ = 1
  show Dev.rd (Dev.raise _ _) _ = 1
  rw [Dev.rd_raise_same]; rfl

theorem pilotAccess_eff (store customer : Bool) (a : Nat) (d : Dev) (hp : d.pathOpen .pilot = true) :
    pilotAccess store customer a d = if ((inRegisterSpace a || inWindow a) && !(customer && customerDenied store a)) = true then d else { d with pilotFault := some (store, a) } := by
  unfold pilotAccess; rw [hp, if_neg (by decide)]

theorem latched_reads {d : Dev} {p : Path} {a : Nat} {h : RegHit} (hn : (d.met p).Names p a h) :
    (h.spec.words = 1 → (busRead p a 1 { d with out := [] }).out = (d.met p).out ++ [nw ((d.met p).wordNow h)] ∧ (busRead p a 1 { d with out := [] }).mem = (d.met p).mem) ∧
    (1 < h.spec.words → h.word = 0 → (busRead p a 1 { d with out := [] }).out = (d.met p).out ++ [nw ((d.met p).wordNow h)] ∧ (busRead p a 1 { d with out := [] }).mem = (d.met p).mem ∧
      ∃ l, l ∈ (busRead p a 1 { d with out := [] }).latch ∧ l.path = p ∧ l.addr = a - 4 * h.word ∧
        l.words = (upTo (h.spec.words - 1)).map fun k => nw ((d.met p).wordNow { h with word := k + 1 })) ∧
    (∀ l, 1 < h.spec.words → h.word ≠ 0 → (d.met p).latch.find? (fun x => x.path == p && x.addr == a - 4 * h.word) = some l →
      (busRead p a 1 { d with out := [] }).out = (d.met p).out ++ [l.words.getD (h.word - 1) 0] ∧ (busRead p a 1 { d with out := [] }).mem = (d.met p).mem) := by
  rw [busRead_names hn]
  generalize d.met p = e
  refine ⟨fun hw => ?_, fun hw h0 => ?_, fun l hw h0 hl => ?_⟩
  · rw [readReg_live hw, give_out, give_mem, clearRead_out, clearRead_mem]; exact ⟨rfl, rfl⟩
  · obtain ⟨k1, k2, k3, k4⟩ := readReg_low (p := p) (a := a) (d := e) hw h0
    rw [give_out, give_mem, give_latch, k1, k2, k3]
    exact ⟨rfl, rfl, k4⟩
  · obtain ⟨k1, k2, k3⟩ := readReg_held (p := p) (a := a) (d := e) hw h0 hl
    rw [give_out, give_mem, k1, k2, k3]; exact ⟨rfl, rfl⟩

theorem staged_writes {d : Dev} {p : Path} {a : Nat} {h : RegHit} (hn : (d.met p).Names p a h) (w : Word) (ho : h.spec.addr ∉ ownWrite)
    (hw : (h.spec.flds h.i h.j).any (·.writable h.i) = true) :
    (h.word + 1 < h.spec.words → busWrite p a (leBytes 4 w.toNat) [] { d with out := [] } = (d.met p).stageWord p a w) ∧
    (1 < h.spec.words → h.word + 1 = h.spec.words → busWrite p a (leBytes 4 w.toNat) [] { d with out := [] } = writeValue p a h
      ((upTo (h.spec.words - 1)).foldl (fun v k => v + 2 ^ (32 * k) * (d.met p).staged p (a - 4 * h.word + 4 * k) ((d.met p).wordNow { h with word := k }))
            (2 ^ (32 * (h.spec.words - 1)) * w.toNat)) ((d.met p).unstage p)) := by
  have e : nw (w.toNat % 2 ^ 32) = w := by
    unfold nw; apply BitVec.eq_of_toNat_eq; rw [BitVec.toNat_ofNat]; have := w.isLt; omega
  rw [busWrite_names hn, e, storeWord_plain ho]
  exact ⟨fun hl => writeReg_stage hw hl, fun h1 hl => writeReg_commit hw h1 hl⟩

theorem register_writes {d : Dev} {p : Path} {a : Nat} {h : RegHit} (hn : (d.met p).Names p a h) (w : Nat) (frs : List (Fin 24 × RxFrame)) (ho : h.spec.addr ∉ ownWrite)
    (h1 : h.spec.words = 1) : busWrite p a (leBytes 4 w) frs { d with out := [] } = writeValue p a h (w % 2 ^ 32) (d.met p) := by
  rw [busWrite_names hn, storeWord_plain ho, writeReg_one h1]
  congr 1
  rw [BitVec.toNat_ofNat]; omega

theorem stageWord_facts (d : Dev) (p : Path) (a : Nat) (w : Word) :
    (p, a, w) ∈ (d.stageWord p a w).stage ∧ (∀ x ∈ (d.stageWord p a w).stage, x.1 = p → x.2.1 = a → x.2.2 = w) := by
  unfold Dev.stageWord
  refine ⟨List.mem_append_right _ (List.mem_singleton.2 rfl), fun x hx h1 h2 => ?_⟩
  rcases List.mem_append.1 hx with hx | hx
  · have := (List.mem_filter.1 hx).2
    simp [h1, h2] at this
  · rw [List.mem_singleton.1 hx]

/-- The register at 0x4068 and the one at 0x100. -/
theorem counts_hit (d : Dev) : d.regAt 0x4068 = some ⟨⟨0x4068, 1, 1, 4, 1, 4, true, fun _ _ =>
     [⟨24, TC_COUNTS_REFUSED, .rc, .any⟩, ⟨16, TC_COUNTS_STEPS, .rc, .any⟩, ⟨8, TC_COUNTS_HOLDS, .rc, .any⟩, ⟨0, TC_COUNTS_MASTERS, .rc, .any⟩]⟩, 0, 0, 0⟩ := rfl
theorem gpioDir_hit (d : Dev) : d.regAt 0x100 = some ⟨⟨0x100, 1, 1, 4, 1, 4, false, fun _ _ => [⟨0, GC_GPIO_DIR_DIR, .rw, .any⟩]⟩, 0, 0, 0⟩ := rfl

theorem counts_read (d : Dev) (p : Path) (hr : (d.met p).reaches p 0x4000 = true) :
    (busRead p 0x4068 1 { d with out := [] }).rd TC_COUNTS_REFUSED = 0 ∧ (busRead p 0x4068 1 { d with out := [] }).rd TC_COUNTS_STEPS = 0 ∧
    (busRead p 0x4068 1 { d with out := [] }).rd TC_COUNTS_HOLDS = 0 ∧ (busRead p 0x4068 1 { d with out := [] }).rd TC_COUNTS_MASTERS = 0 := by
  rw [busRead_names (Dev.names_of (by decide) hr (by decide) (by decide) (by decide) (by decide) (counts_hit _)), readReg_live rfl]
  have g : ∀ (e : Dev) (ws : List Word), (e.give p ws).rd TC_COUNTS_REFUSED = e.rd TC_COUNTS_REFUSED ∧ (e.give p ws).rd TC_COUNTS_STEPS = e.rd TC_COUNTS_STEPS ∧
      (e.give p ws).rd TC_COUNTS_HOLDS = e.rd TC_COUNTS_HOLDS ∧ (e.give p ws).rd TC_COUNTS_MASTERS = e.rd TC_COUNTS_MASTERS :=
    fun e ws => ⟨((Dev.give_after (Changes.refl _ _ _) (within_refl _) (covers_refl _) p ws).rd (rows_not (by decide))), ((Dev.give_after (Changes.refl _ _ _) (within_refl _) (covers_refl _) p ws).rd (rows_not (by decide))), ((Dev.give_after (Changes.refl _ _ _) (within_refl _) (covers_refl _) p ws).rd (rows_not (by decide))), ((Dev.give_after (Changes.refl _ _ _) (within_refl _) (covers_refl _) p ws).rd (rows_not (by decide)))⟩
  dsimp only
  rw [(g _ _).1, (g _ _).2.1, (g _ _).2.2.1, (g _ _).2.2.2]
  generalize d.met p = e
  show Dev.rd ((((e.wr TC_COUNTS_REFUSED 0).wr TC_COUNTS_STEPS 0).wr TC_COUNTS_HOLDS 0).wr TC_COUNTS_MASTERS 0) _ = 0 ∧
    Dev.rd ((((e.wr TC_COUNTS_REFUSED 0).wr TC_COUNTS_STEPS 0).wr TC_COUNTS_HOLDS 0).wr TC_COUNTS_MASTERS 0) _ = 0 ∧
    Dev.rd ((((e.wr TC_COUNTS_REFUSED 0).wr TC_COUNTS_STEPS 0).wr TC_COUNTS_HOLDS 0).wr TC_COUNTS_MASTERS 0) _ = 0 ∧
    Dev.rd ((((e.wr TC_COUNTS_REFUSED 0).wr TC_COUNTS_STEPS 0).wr TC_COUNTS_HOLDS 0).wr TC_COUNTS_MASTERS 0) _ = 0
  refine ⟨?_, ?_, ?_, ?_⟩
  · rw [Dev.rd_wr_ne _ _ (by decide), Dev.rd_wr_ne _ _ (by decide), Dev.rd_wr_ne _ _ (by decide), Dev.rd_wr_same]; rfl
  · rw [Dev.rd_wr_ne _ _ (by decide), Dev.rd_wr_ne _ _ (by decide), Dev.rd_wr_same]; rfl
  · rw [Dev.rd_wr_ne _ _ (by decide), Dev.rd_wr_same]; rfl
  · rw [Dev.rd_wr_same]; rfl

theorem gpioDir_write (d : Dev) (p : Path) (w : Nat) (frs : List (Fin 24 × RxFrame)) (hr : (d.met p).reaches p 0 = true) :
    (busWrite p 0x100 (leBytes 4 w) frs { d with out := [] }).rd GC_GPIO_DIR_DIR = w % 2 ^ 32 ∧ (busWrite p 0x100 (leBytes 4 w) frs { d with out := [] }).mem = (d.met p).mem := by
  rw [register_writes (Dev.names_of (by decide) hr (by decide) (by decide) (by decide) (by decide) (gpioDir_hit _)) w frs (by decide) rfl]
  generalize d.met p = e
  have k : ∀ v, writeValue p 0x100 ⟨⟨0x100, 1, 1, 4, 1, 4, false, fun _ _ => [⟨0, GC_GPIO_DIR_DIR, .rw, .any⟩]⟩, 0, 0, 0⟩ v e = e.wr GC_GPIO_DIR_DIR (bits v 31 0) := fun _ => rfl
  rw [k]
  refine ⟨?_, rfl⟩
  rw [Dev.rd_wr_same]
  unfold bits
  show w % 2 ^ 32 / 2 ^ 0 % 2 ^ 32 % 2 ^ 32 = _
  omega

end Sys2Proof.Machine
end

