-- ==== Sys2Proof/Laws/EffectsGangway.lean ====
section
/-!
SUPPORT. What the operations of Machine/Gangway do.
-/

set_option Elab.async false
set_option linter.all false

namespace Sys2Proof.Machine

theorem settleFrames_idle (d : Dev) (h : ∀ k, k < 2 → (d.gwp k).held = []) : settleFrames d = d := by
  have h0 : (if (d.gwp 0).held.isEmpty || !d.pathOpen (gwPath 0) then d else runHeld 0 (d.gwp 0).held d) = d := by
    rw [h 0 (by omega)]; rfl
  have h1 : (if (d.gwp 1).held.isEmpty || !d.pathOpen (gwPath 1) then d else runHeld 1 (d.gwp 1).held d) = d := by
    rw [h 1 (by omega)]; rfl
  have e : settleFrames d = (let x := (if (d.gwp 0).held.isEmpty || !d.pathOpen (gwPath 0) then d else runHeld 0 (d.gwp 0).held d)
    if (x.gwp 1).held.isEmpty || !x.pathOpen (gwPath 1) then x else runHeld 1 (x.gwp 1).held x) := rfl
  rw [e, h0]; exact h1

theorem frameWakes_open {n : Nat} {d : Dev} (hp : d.pathOpen (gwPath n) = true) : d.frameWakes n = false := by
  unfold Dev.frameWakes
  by_cases h0 : n = 0
  · subst h0
    have hp : d.pathOpen .gw0 = true := hp
    have : d.rd PW_STATE_CUR ≠ 3 := by
      intro h; unfold Dev.pathOpen Dev.coreRuns at hp; rw [h] at hp; simp at hp
    rw [beq_false_of_ne this]; simp
  · rw [beq_false_of_ne h0]; simp

theorem slaveFrame_now (n : Nat) (f : SlaveFrame) (d : Dev) (hp : d.pathOpen (gwPath n) = true) (hh : ∀ k, k < 2 → (d.gwp k).held = [])
    (hw : d.writeWaits (gwPath n) = false) : slaveFrame n f d = runFrame n f (dropReads (gwPath n) d) := by
  unfold slaveFrame
  dsimp only
  rw [frameWakes_open hp, hp, settleFrames_idle d hh, hw]; rfl

theorem dropReads_rd (p : Path) (d : Dev) (f : Fld) : (dropReads p d).rd f = d.rd f := (dropReads_after (Changes.refl _ _ _) (within_refl _) (covers_refl _) p).rd fun ⟨_, m, _⟩ => by cases m
theorem dropReads_mem (p : Path) (d : Dev) : (dropReads p d).mem = d.mem := ((dropReads_after (Changes.refl _ _ _) (within_refl _) (covers_refl _) p).parts .mem (by decide))
theorem dropReads_out (p : Path) (d : Dev) : (dropReads p d).out = d.out := ((dropReads_after (Changes.refl _ _ _) (within_refl _) (covers_refl _) p).parts .out (by decide))

theorem raiseIf_out (d : Dev) (c : Bool) (f : Fld) : (d.raiseIf c f).out = d.out := by cases c <;> rfl
theorem raiseIf_mem (d : Dev) (c : Bool) (f : Fld) : (d.raiseIf c f).mem = d.mem := by cases c <;> rfl
theorem raiseIf_lq (d : Dev) (c : Bool) (f : Fld) : (d.raiseIf c f).lq = d.lq := by cases c <;> rfl
theorem frameBegins_out (n : Nat) (d : Dev) : (frameBegins n d).out = d.out := rfl
theorem frameBegins_mem (n : Nat) (d : Dev) : (frameBegins n d).mem = d.mem := rfl
theorem frameBegins_rd (n : Nat) (d : Dev) {f : Fld} (h : f.bit ≠ (GW_FRAMES_SLAVE n).bit) : (frameBegins n d).rd f = d.rd f := Dev.rd_count_ne _ _ h

theorem give_code (n : Fin 2) (ws : List Word) (d : Dev) (h : ws ≠ []) : (d.give (gwPath n.val) ws).rd (GW_STATUS_CODE n.val) = 0 := by
  cases ws with
  | nil => exact absurd rfl h
  | cons w ws => match n with
    | 0 => exact Dev.rd_wr_same _ _ _
    | 1 => exact Dev.rd_wr_same _ _ _

/-- What a read frame leaves, where its words are delivered at once. -/
theorem readFrame_eff (n : Fin 2) (bits : Nat) (f : Nat → Dev → Dev) (d : Dev) (ho : d.out = []) :
    (readFrame n.val bits false f d).out = (f (bits / 32) (frameBegins n.val d)).out ∧
    (readFrame n.val bits false f d).mem = (f (bits / 32) (frameBegins n.val d)).mem ∧
    (readFrame n.val bits false f d).lq = (f (bits / 32) (frameBegins n.val d)).lq ∧
    (bits % 32 ≠ 0 → (readFrame n.val bits false f d).rd (GW_STATUS_FRAME_ODD n.val) = 1) ∧
    ((readFrame n.val bits false f d).rd (GW_STATUS_HOLE n.val) = (f (bits / 32) (frameBegins n.val d)).rd (GW_STATUS_HOLE n.val)) ∧
    ((readFrame n.val bits false f d).rd (GW_STATUS_CODE n.val) =
      (if (f (bits / 32) (frameBegins n.val d)).out = [] then 1 else (f (bits / 32) (frameBegins n.val d)).rd (GW_STATUS_CODE n.val))) := by
  unfold readFrame
  dsimp only
  rw [frameBegins_out, ho]
  generalize f (bits / 32) (frameBegins n.val d) = e
  have hlen : (e.out.length = ([] : List Word).length) = (e.out = []) := by rw [List.length_nil, List.length_eq_zero_iff]
  have hn : ∀ a b : Nat, ((0x5014 + n.val % 2 * 0x800) * 8 + a = (0x5014 + n.val % 2 * 0x800) * 8 + b) → a = b := fun a b h => by omega
  have q1 : (GW_STATUS_HOLE n.val).bit ≠ (GW_STATUS_WAITED n.val).bit := fun h => absurd (hn _ _ h) (by decide)
  have q2 : (GW_STATUS_HOLE n.val).bit ≠ (GW_STATUS_FRAME_ODD n.val).bit := fun h => absurd (hn _ _ h) (by decide)
  have q3 : (GW_STATUS_HOLE n.val).bit ≠ (GW_STATUS_CODE n.val).bit := fun h => absurd (hn _ _ h) (by decide)
  have q4 : (GW_STATUS_CODE n.val).bit ≠ (GW_STATUS_WAITED n.val).bit := fun h => absurd (hn _ _ h) (by decide)
  have q5 : (GW_STATUS_CODE n.val).bit ≠ (GW_STATUS_FRAME_ODD n.val).bit := fun h => absurd (hn _ _ h) (by decide)
  have q6 : (GW_STATUS_FRAME_ODD n.val).bit ≠ (GW_STATUS_WAITED n.val).bit := fun h => absurd (hn _ _ h) (by decide)
  refine ⟨?_, ?_, ?_, fun hb => ?_, ?_, ?_⟩
  · rw [raiseIf_out, raiseIf_out]; split <;> rfl
  · rw [raiseIf_mem, raiseIf_mem]; split <;> rfl
  · rw [raiseIf_lq, raiseIf_lq]; split <;> rfl
  · rw [Dev.rd_raiseIf_ne _ _ q6]
    have c : (bits % 32 != 0) = true := by simpa using hb
    rw [c]; exact Dev.rd_raise_same _ _
  · rw [Dev.rd_raiseIf_ne _ _ q1, Dev.rd_raiseIf_ne _ _ q2]
    split
    · exact Dev.rd_wr_ne _ _ q3
    · rfl
  · rw [Dev.rd_raiseIf_ne _ _ q4, Dev.rd_raiseIf_ne _ _ q5]
    by_cases h : e.out = []
    · rw [if_pos (by rw [hlen]; exact h), if_pos h]; exact Dev.rd_wr_same e (GW_STATUS_CODE n.val) 1
    · rw [if_neg (by rw [hlen]; exact h), if_neg h]

theorem ownWords_out (n : Nat) (ws : List Word) (k : Nat) (d : Dev) : (ownWords n ws k d).out = d.out ++ (ws ++ List.replicate k 0).take k := give_out _ _ _
theorem ownWords_mem (n : Nat) (ws : List Word) (k : Nat) (d : Dev) : (ownWords n ws k d).mem = d.mem := give_mem _ _ _

theorem ownFrame_eff (n : Fin 2) (bits : Nat) (g : Dev → List Word) (d : Dev) (ho : d.out = []) :
    let r := readFrame n.val bits false (fun k x => ownWords n.val (g x) k x) d
    r.out = (g (frameBegins n.val d) ++ List.replicate (bits / 32) 0).take (bits / 32) ∧
    r.rd (GW_STATUS_CODE n.val) = (if bits / 32 = 0 then 1 else 0) ∧ (bits % 32 ≠ 0 → r.rd (GW_STATUS_FRAME_ODD n.val) = 1) ∧ r.mem = d.mem := by
  obtain ⟨a, b, _, c, _, e⟩ := readFrame_eff n bits (fun k x => ownWords n.val (g x) k x) d ho
  dsimp only at a b c e ⊢
  rw [ownWords_out, frameBegins_out, ho, List.nil_append] at a
  rw [ownWords_mem, frameBegins_mem] at b
  refine ⟨a, ?_, c, b⟩
  rw [e, ownWords_out, frameBegins_out, ho, List.nil_append]
  by_cases h : bits / 32 = 0
  · rw [h]; rfl
  · have hne : (g (frameBegins n.val d) ++ List.replicate (bits / 32) 0).take (bits / 32) ≠ [] := by
      intro x
      have l := congrArg List.length x
      rw [List.length_take, List.length_append, List.length_replicate, List.length_nil] at l
      omega
    rw [if_neg hne, if_neg h]
    exact give_code n _ _ hne

theorem popWords_out (i n : Nat) (d : Dev) : (popWords i n d).2.2.out = d.out := ((popWords_after (Changes.refl _ _ _) (within_refl _) (covers_refl _) i n).parts .out (by decide))
theorem popWords_mem (i n : Nat) (d : Dev) : (popWords i n d).2.2.mem = d.mem := ((popWords_after (Changes.refl _ _ _) (within_refl _) (covers_refl _) i n).parts .mem (by decide))
theorem give_lq (d : Dev) (p : Path) (ws : List Word) : (d.give p ws).lq = d.lq := ((Dev.give_after (Changes.refl _ _ _) (within_refl _) (covers_refl _) p ws).parts .lq (by decide))

theorem hole_eff (n : Fin 2) (x : Dev) : (x.hole (gwPath n.val)).out = x.out ∧ (x.hole (gwPath n.val)).mem = x.mem ∧ (x.hole (gwPath n.val)).lq = x.lq ∧
    (x.hole (gwPath n.val)).rd (GW_STATUS_HOLE n.val) = 1 := by
  match n with
  | 0 => exact ⟨rfl, rfl, rfl, Dev.rd_raise_same _ _⟩
  | 1 => exact ⟨rfl, rfl, rfl, Dev.rd_raise_same _ _⟩

theorem gw_begins (n : Fin 2) (x : Dev) : x.beginAccess (gwPath n.val) = x := by
  match n with
  | 0 => rfl
  | 1 => rfl

theorem give_hole (n : Fin 2) (d : Dev) (ws : List Word) : (d.give (gwPath n.val) ws).rd (GW_STATUS_HOLE n.val) = d.rd (GW_STATUS_HOLE n.val) := by
  unfold Dev.give
  cases ws with
  | nil => rfl
  | cons w ws => match n with
    | 0 => exact Dev.rd_wr_ne _ _ (by decide)
    | 1 => exact Dev.rd_wr_ne _ _ (by decide)

theorem popFrame_none (n : Fin 2) (q bits : Nat) (f : Nat → Dev → Dev) (d : Dev) (ho : d.out = []) (hq : 32 ≤ q) (hb : 32 ≤ bits) :
    let r := readFrame n.val bits false (popFrame n.val q f) d
    r.out = List.replicate (bits / 32) 0 ∧ r.rd (GW_STATUS_HOLE n.val) = 1 ∧ r.lq = d.lq ∧ r.mem = d.mem := by
  obtain ⟨a, b, c, _, e, _⟩ := readFrame_eff n bits (popFrame n.val q f) d ho
  have hp : popFrame n.val q f (bits / 32) (frameBegins n.val d) = ownWords n.val [] (bits / 32) ((frameBegins n.val d).hole (gwPath n.val)) := by
    unfold popFrame
    rw [if_neg (by omega), decide_eq_false (by omega : ¬ q < 32)]; rfl
  dsimp only
  rw [hp] at a b c e
  have hd := (frameBegins_out n.val d).trans ho
  have h1 : ((frameBegins n.val d).hole (gwPath n.val)).out = [] ∧ ((frameBegins n.val d).hole (gwPath n.val)).mem = d.mem ∧
      ((frameBegins n.val d).hole (gwPath n.val)).lq = d.lq ∧ ((frameBegins n.val d).hole (gwPath n.val)).rd (GW_STATUS_HOLE n.val) = 1 := by
    have e1 := frameBegins_mem n.val d
    have e2 : (frameBegins n.val d).lq = d.lq := rfl
    generalize frameBegins n.val d = x at hd e1 e2 ⊢
    obtain ⟨y1, y2, y3, y4⟩ := hole_eff n x
    exact ⟨y1.trans hd, y2.trans e1, y3.trans e2, y4⟩
  obtain ⟨o1, o2, o3, o4⟩ := h1
  have g : (List.replicate (bits / 32) (0 : Word)).take (bits / 32) = List.replicate (bits / 32) 0 := by rw [List.take_replicate, Nat.min_self]
  unfold ownWords at a b c e
  rw [List.nil_append, g] at a b c e
  refine ⟨?_, ?_, ?_, ?_⟩
  · rw [a, give_out, o1, List.nil_append]
  · rw [e, give_hole, o4]
  · rw [c, give_lq, o3]
  · rw [b, give_mem, o2]

theorem popBurst_all (p : Path) (i n : Nat) (d : Dev) (hn : n ≠ 0) (hc : d.isConsumer p i = true) (hr : (popWords i n d).2.1 = 0) :
    popBurst p i n d = (popWords i n d).2.2.give p (popWords i n d).1 := by
  unfold popBurst
  dsimp only
  rw [if_neg hn, hc, hr]; rfl

theorem popWords_length (i n : Nat) (d : Dev) : (popWords i n d).1.length + (popWords i n d).2.1 = n := by
  induction n generalizing d with
  | zero => rfl
  | succ n ih =>
    unfold popWords
    split
    · exact Nat.zero_add _
    · rename_i w q' _
      have := ih ((d.modQ i fun _ => q').take1 i w)
      show (w :: (popWords i n ((d.modQ i fun _ => q').take1 i w)).1).length + (popWords i n ((d.modQ i fun _ => q').take1 i w)).2.1 = n + 1
      rw [List.length_cons]; omega

theorem popFrame_pop (n : Fin 2) (q bits : Nat) (d : Dev) (ho : d.out = []) (hq : q < 32) (hb : 32 ≤ bits)
    (hr : (frameBegins n.val d).blockRuns 0x20000 = true) (hc : (frameBegins n.val d).isConsumer (gwPath n.val) q = true)
    (h0 : (popWords q (bits / 32) (frameBegins n.val d)).2.1 = 0) :
    let r := readFrame n.val bits false (popFrame n.val q (popBurst (gwPath n.val) q)) d
    let w := popWords q (bits / 32) (frameBegins n.val d)
    r.out = w.1 ∧ r.lq = w.2.2.lq ∧ r.rd (GW_STATUS_CODE n.val) = 0 ∧ r.mem = d.mem := by
  obtain ⟨a, b, c, _, _, e⟩ := readFrame_eff n bits (popFrame n.val q (popBurst (gwPath n.val) q)) d ho
  have hp : popFrame n.val q (popBurst (gwPath n.val) q) (bits / 32) (frameBegins n.val d) =
      (popWords q (bits / 32) (frameBegins n.val d)).2.2.give (gwPath n.val) (popWords q (bits / 32) (frameBegins n.val d)).1 := by
    unfold popFrame
    rw [if_neg (by omega), decide_eq_true hq, hr, ← popBurst_all _ _ _ _ (by omega) hc h0]; rfl
  have hl := popWords_length q (bits / 32) (frameBegins n.val d)
  dsimp only
  rw [hp] at a b c e
  rw [give_out, popWords_out, frameBegins_out, ho, List.nil_append] at a e
  have hne : (popWords q (bits / 32) (frameBegins n.val d)).1 ≠ [] := by
    intro x; rw [x, h0] at hl; have : 0 < bits / 32 := by omega
    have hl' : 0 + 0 = bits / 32 := hl
    omega
  refine ⟨a, ?_, ?_, ?_⟩
  · rw [c, give_lq]
  · rw [e, if_neg hne]; exact give_code n _ _ hne
  · rw [b, give_mem, popWords_mem]; rfl

theorem beyondItem_eff (p : Path) (k : Nat) (d : Dev) : (beyondItem p k d).out = d.out ++ List.replicate k 0 ∧ (beyondItem p k d).lq = d.lq ∧
    (beyondItem p k d).mem = d.mem := by
  unfold beyondItem
  refine ⟨?_, ?_, ?_⟩
  · cases p <;> dsimp only <;> (try rw [raiseIf_out]) <;> exact give_out _ _ _
  · cases p <;> dsimp only <;> (try rw [raiseIf_lq]) <;> exact give_lq _ _ _
  · cases p <;> dsimp only <;> (try rw [raiseIf_mem]) <;> exact give_mem _ _ _

theorem popFrame_item (n : Fin 2) (q bits : Nat) (d : Dev) (ho : d.out = []) (hq : q < 32) (hb : 32 ≤ bits)
    (hr : (frameBegins n.val d).blockRuns 0x20000 = true) (hc : (frameBegins n.val d).isConsumer (gwPath n.val) q = true)
    (x : Entry) (xs : List Entry) (hw : ((frameBegins n.val d).q q).waiting = x :: xs) :
    let r := readFrame n.val bits false (popFrame n.val q (popItemBurst (gwPath n.val) q)) d
    let left := x.words.length - ((frameBegins n.val d).q q).popped
    let w := popWords q (min (bits / 32) left) (frameBegins n.val d)
    r.out = w.1 ++ List.replicate (bits / 32 - left) 0 ∧ r.lq = w.2.2.lq ∧ r.mem = d.mem := by
  obtain ⟨a, b, c, _, _, _⟩ := readFrame_eff n bits (popFrame n.val q (popItemBurst (gwPath n.val) q)) d ho
  have hp : popFrame n.val q (popItemBurst (gwPath n.val) q) (bits / 32) (frameBegins n.val d) =
      popOneItem (gwPath n.val) q (bits / 32) (frameBegins n.val d) := by
    unfold popFrame popItemBurst
    rw [decide_eq_true hq, hr, hc, hw, if_neg (by omega : ¬ bits / 32 = 0)]
    simp only [Bool.and_self, if_true]
    rw [if_neg (by omega : ¬ bits / 32 = 0)]; rfl
  have hi : popOneItem (gwPath n.val) q (bits / 32) (frameBegins n.val d) =
      beyondItem (gwPath n.val) (bits / 32 - (x.words.length - ((frameBegins n.val d).q q).popped))
        ((popWords q (min (bits / 32) (x.words.length - ((frameBegins n.val d).q q).popped)) (frameBegins n.val d)).2.2.give (gwPath n.val)
          (popWords q (min (bits / 32) (x.words.length - ((frameBegins n.val d).q q).popped)) (frameBegins n.val d)).1) := by
    unfold popOneItem
    dsimp only
    rw [hw]
  dsimp only
  rw [hp, hi] at a b c
  obtain ⟨f1, f2, f3⟩ := beyondItem_eff (gwPath n.val) (bits / 32 - (x.words.length - ((frameBegins n.val d).q q).popped))
        ((popWords q (min (bits / 32) (x.words.length - ((frameBegins n.val d).q q).popped)) (frameBegins n.val d)).2.2.give (gwPath n.val)
          (popWords q (min (bits / 32) (x.words.length - ((frameBegins n.val d).q q).popped)) (frameBegins n.val d)).1)
  refine ⟨?_, ?_, ?_⟩
  · rw [a, f1, give_out, popWords_out, frameBegins_out, ho, List.nil_append]
  · rw [c, f2, give_lq]
  · rw [b, f3, give_mem, popWords_mem]; rfl

theorem writeFrame_eff (n : Fin 2) (a bits : Nat) (data : List Byte) (frs : List (Fin 24 × RxFrame)) (d : Dev) :
    (bits = 0 → (writeFrame n.val a bits data frs d).rd (GW_STATUS_CODE n.val) = 1 ∧ (writeFrame n.val a bits data frs d).mem = d.mem ∧
      (writeFrame n.val a bits data frs d).out = d.out) ∧
    (bits ≠ 0 → (bits % d.rd (GW_CFG_UNIT n.val) ≠ 0 ∨ bits % (if Dev.inDram a || Dev.inMram a then 8 else 32) ≠ 0) →
      (writeFrame n.val a bits data frs d).rd (GW_STATUS_CODE n.val) = 3 ∧ (writeFrame n.val a bits data frs d).rd (GW_STATUS_FRAME_ODD n.val) = 1 ∧
      (writeFrame n.val a bits data frs d).mem = d.mem ∧ (writeFrame n.val a bits data frs d).out = d.out) ∧
    (bits % d.rd (GW_CFG_UNIT n.val) = 0 → bits % (if Dev.inDram a || Dev.inMram a then 8 else 32) = 0 → 8192 < bits →
      (writeFrame n.val a bits data frs d).rd (GW_STATUS_CODE n.val) = 3 ∧ (writeFrame n.val a bits data frs d).rd (GW_STATUS_LONG n.val) = 1 ∧
      (writeFrame n.val a bits data frs d).mem = d.mem ∧ (writeFrame n.val a bits data frs d).out = d.out) ∧
    (bits % d.rd (GW_CFG_UNIT n.val) = 0 → bits % (if Dev.inDram a || Dev.inMram a then 8 else 32) = 0 → 0 < bits → bits ≤ 8192 →
      writeFrame n.val a bits data frs d = busWrite (gwPath n.val) a (fitBytes (bits / 8) data) frs ((frameBegins n.val d).wr (GW_STATUS_CODE n.val) 0)) := by
  have hn : ∀ a b : Nat, ((0x5014 + n.val % 2 * 0x800) * 8 + a = (0x5014 + n.val % 2 * 0x800) * 8 + b) → a = b := fun a b h => by omega
  have q5 : (GW_STATUS_CODE n.val).bit ≠ (GW_STATUS_FRAME_ODD n.val).bit := fun h => absurd (hn _ _ h) (by decide)
  have q6 : (GW_STATUS_CODE n.val).bit ≠ (GW_STATUS_LONG n.val).bit := fun h => absurd (hn _ _ h) (by decide)
  unfold writeFrame
  dsimp only
  refine ⟨fun h => ?_, fun h0 h => ?_, fun h1 h2 h3 => ?_, fun h1 h2 h3 h4 => ?_⟩
  · rw [if_pos h]
    exact ⟨Dev.rd_wr_same (frameBegins n.val d) (GW_STATUS_CODE n.val) 1, rfl, rfl⟩
  · rw [if_neg h0, if_pos (by simpa using h)]
    exact ⟨(Dev.rd_raise_ne _ q5).trans (Dev.rd_wr_same (frameBegins n.val d) (GW_STATUS_CODE n.val) 3), Dev.rd_raise_same _ _, rfl, rfl⟩
  · rw [if_neg (by omega), h1, h2, if_neg (by decide), if_pos h3]
    exact ⟨(Dev.rd_raise_ne _ q6).trans (Dev.rd_wr_same (frameBegins n.val d) (GW_STATUS_CODE n.val) 3), Dev.rd_raise_same _ _, rfl, rfl⟩
  · rw [if_neg (by omega), h1, h2, if_neg (by decide), if_neg (by omega)]

theorem wordRead_out (n : Fin 2) {a : Nat} {h : RegHit} {d : Dev} (ho : d.out = []) (hq : d.Quiet) (hn : (frameBegins n.val d).Names (gwPath n.val) a h)
    (hw : h.spec.words = 1) :
    let r := readFrame n.val 32 false (busRead (gwPath n.val) a) d
    r.out = [nw ((frameBegins n.val d).wordNow h)] ∧ r.rd (GW_STATUS_CODE n.val) = 0 ∧ r.mem = d.mem := by
  obtain ⟨e1, e2, _, _, _, e6⟩ := readFrame_eff n 32 (busRead (gwPath n.val) a) d ho
  have hd : ({ frameBegins n.val d with out := [] } : Dev) = frameBegins n.val d := by
    have := (frameBegins_out n.val d).trans ho
    generalize frameBegins n.val d = x at this ⊢
    rw [← this]
  have acc : (frameBegins n.val d).met (gwPath n.val) = frameBegins n.val d := by
    rw [met_quiet (show (frameBegins n.val d).Quiet from hq)]
    unfold Dev.accessed; rw [hd]
    exact gw_begins n _
  have hn' : ((frameBegins n.val d).met (gwPath n.val)).Names (gwPath n.val) a h := by rw [acc]; exact hn
  have k := (latched_reads hn').1 hw
  have b := busRead_names hn'
  rw [hd, acc] at k b
  have h32 : 32 / 32 = 1 := rfl
  dsimp only
  rw [h32] at e1 e2 e6
  have o := (frameBegins_out n.val d).trans ho
  rw [o, List.nil_append] at k
  refine ⟨e1.trans k.1, ?_, e2.trans (k.2.trans (frameBegins_mem _ _))⟩
  rw [e6, k.1, if_neg (by simp), b]
  exact give_code n _ _ (by simp)

theorem gwp_modGw (n : Nat) (g : GwPort → GwPort) (d : Dev) (h : n < 2) : (d.modGw n g).gwp n = g (d.gwp n) := vget_vmod_same _ _ _ _ h
theorem modGw_rd (n : Nat) (g : GwPort → GwPort) (d : Dev) (f : Fld) : (d.modGw n g).rd f = d.rd f := rfl
theorem modGw_on (n : Nat) (g : GwPort → GwPort) (d : Dev) (f : Fld) : (d.modGw n g).on f = d.on f := rfl
theorem modGw_mem (n : Nat) (g : GwPort → GwPort) (d : Dev) : (d.modGw n g).mem = d.mem := rfl
theorem modGw_out (n : Nat) (g : GwPort → GwPort) (d : Dev) : (d.modGw n g).out = d.out := rfl

theorem sendMaster_eff (n : Nat) (f : MasterFrame) (d : Dev) (h : n < 2) :
    (sendMaster n f d).gwp n = { d.gwp n with frame := some f } ∧ (sendMaster n f d).rd (GW_FRAMES_MASTER n) = (d.rd (GW_FRAMES_MASTER n) + 1) % 2 ^ 16 ∧
    (sendMaster n f d).mem = d.mem :=
  ⟨gwp_modGw n _ (d.count (GW_FRAMES_MASTER n) 1) h, Dev.rd_wr_same d (GW_FRAMES_MASTER n) _, rfl⟩

theorem beginCommand_eff (n : Nat) (f : MasterFrame) (d : Dev) (h : n < 2) (hc : (d.gwp n).cmd = some f) (hs : (d.gwp n).started = false) (hf : (d.gwp n).fill = [])
    (hx : d.xipSelect n f.cs = false) :
    (beginCommand n d).gwp n = { d.gwp n with frame := some f, started := true, mdata := [] } ∧
    (beginCommand n d).rd (GW_FRAMES_MASTER n) = (d.rd (GW_FRAMES_MASTER n) + 1) % 2 ^ 16 ∧ (beginCommand n d).mem = d.mem := by
  unfold beginCommand
  dsimp only
  rw [hc, hs, hf]
  simp only [List.isEmpty_nil, Bool.not_true, Bool.or_false, hx, Bool.false_eq_true, if_false]
  obtain ⟨a, b, c⟩ := sendMaster_eff n f d h
  refine ⟨?_, b, c⟩
  rw [gwp_modGw n _ _ h, a]
  dsimp only
  rw [hc, hf]

theorem masterCommand_eff (p : Path) (n : Nat) (w : Word) (d : Dev) (h : n < 2) (hm : d.on (GW_CFG_ROLE n) = true) (hc : (d.gwp n).cmd = none)
    (hf : (d.gwp n).fill = []) (ha : bits w.toNat 28 26 ≤ 4) (hx : d.xipSelect n (bits w.toNat 31 30) = false)
    (hu : d.rd (GW_MLEN_DLEN n) % d.rd (GW_CS_CFG_UNIT n (bits w.toNat 31 30)) = 0)
    (hl : masterWords (d.rd (GW_CS_CFG_UNIT n (bits w.toNat 31 30))) (d.rd (GW_MLEN_DLEN n)) ≤ 256)
    (hw : bit w.toNat 29 = false → (d.gwp n).mdata.length = masterWords (d.rd (GW_CS_CFG_UNIT n (bits w.toNat 31 30))) (d.rd (GW_MLEN_DLEN n))) :
    let f : MasterFrame := ⟨bits w.toNat 31 30, if bit w.toNat 25 then none else some (bits w.toNat 7 0),
            beBytes (bits w.toNat 28 26) (d.rd (GW_MADDR_ADDR n)), none, if d.rd (GW_MLEN_DLEN n) = 0 then 0 else bits w.toNat 24 20, bit w.toNat 29,
            d.rd (GW_MLEN_DLEN n), if bit w.toNat 29 then [] else (d.gwp n).mdata⟩
    ((masterCommand p n w d).gwp n).cmd = some f ∧ ((masterCommand p n w d).gwp n).frame = some f ∧ ((masterCommand p n w d).gwp n).started = true ∧
    ((masterCommand p n w d).gwp n).mdata = [] ∧
    (masterCommand p n w d).rd (GW_FRAMES_MASTER n) = (d.rd (GW_FRAMES_MASTER n) + 1) % 2 ^ 16 ∧ (masterCommand p n w d).mem = d.mem := by
  unfold masterCommand
  dsimp only
  rw [hc, hm, hu, decide_eq_false (by omega : ¬ 4 < bits w.toNat 28 26), if_neg (by decide), if_neg (by decide), if_neg (by decide)]
  have hw' : (decide (256 < masterWords (d.rd (GW_CS_CFG_UNIT n (bits w.toNat 31 30))) (d.rd (GW_MLEN_DLEN n))) ||
      (!bit w.toNat 29 && decide ((d.gwp n).mdata.length ≠ masterWords (d.rd (GW_CS_CFG_UNIT n (bits w.toNat 31 30))) (d.rd (GW_MLEN_DLEN n))))) = false := by
    rw [decide_eq_false (by omega)]
    cases hb : bit w.toNat 29 with
    | true => rfl
    | false => rw [decide_eq_false (by rw [hw hb]; simp)]; rfl
  rw [if_neg (by rw [hw']; decide)]
  generalize hg : (MasterFrame.mk _ _ _ _ _ _ _ _) = f
  have hcs : f.cs = bits w.toNat 31 30 := by rw [← hg]
  have e := gwp_modGw n (fun g => { g with cmd := some f, started := false }) d h
  obtain ⟨k1, k2, k3⟩ := beginCommand_eff n f (d.modGw n fun g => { g with cmd := some f, started := false }) h (by rw [e]) (by rw [e]) (by rw [e]; exact hf)
    (by rw [hcs]; exact hx)
  rw [k1, e]
  exact ⟨rfl, rfl, rfl, rfl, k2, k3⟩

theorem masterDone_eff (n : Nat) (data : List Word) (d : Dev) (f : MasterFrame) (h : n < 2) (hc : (d.gwp n).cmd = some f) (hs : (d.gwp n).started = true)
    (hw : (d.gwp 1).waits = []) :
    ((masterDone n data d).gwp n).cmd = none ∧
    ((masterDone n data d).gwp n).mdata = (if f.read then packRead (d.rd (GW_CS_CFG_UNIT n f.cs)) f.bits data else (d.gwp n).mdata) ∧
    (masterDone n data d).rd (GW_MSTATUS_CODE n) = (if f.bits = 0 then 1 else 0) ∧ (masterDone n data d).mem = d.mem := by
  unfold masterDone
  dsimp only
  rw [hc, hs]
  dsimp only
  have e := gwp_modGw n (fun g => { g with cmd := none, started := false, mdata := if f.read then packRead (d.rd (GW_CS_CFG_UNIT n f.cs)) f.bits data else g.mdata }) d h
  generalize hx : d.modGw n (fun g => { g with cmd := none, started := false, mdata := if f.read then packRead (d.rd (GW_CS_CFG_UNIT n f.cs)) f.bits data else g.mdata }) = x at e
  have hcode : (x.wr (GW_MSTATUS_CODE n) (if f.bits = 0 then cEMPTY else cDONE)).rd (GW_MSTATUS_CODE n) = (if f.bits = 0 then 1 else 0) :=
    (Dev.rd_wr_same _ _ _).trans (by split <;> rfl)
  have hm : x.mem = d.mem := by rw [← hx]; rfl
  by_cases h1 : n = 1
  · rw [if_pos h1]
    have hwx : (x.gwp 1).waits = [] := by rw [h1] at e; rw [e]; exact hw
    have hp : xipProceed (x.wr (GW_MSTATUS_CODE n) (if f.bits = 0 then cEMPTY else cDONE)) =
        (x.wr (GW_MSTATUS_CODE n) (if f.bits = 0 then cEMPTY else cDONE)).modGw 1 fun g => { g with waits := [] } := by
      unfold xipProceed
      dsimp only
      rw [show ((x.wr (GW_MSTATUS_CODE n) (if f.bits = 0 then cEMPTY else cDONE)).gwp 1).waits = [] from hwx]; rfl
    rw [hp]
    have e2 := gwp_modGw 1 (fun g => { g with waits := [] }) (x.wr (GW_MSTATUS_CODE n) (if f.bits = 0 then cEMPTY else cDONE)) (by omega)
    rw [h1] at e e2 hcode ⊢
    rw [e2]
    refine ⟨congrArg GwPort.cmd e, ?_, hcode, hm⟩
    exact congrArg GwPort.mdata e
  · rw [if_neg h1]
    exact ⟨congrArg GwPort.cmd e, congrArg GwPort.mdata e, hcode, hm⟩

theorem xipProceed_idle (d : Dev) (h : (d.gwp 1).waits = []) : xipProceed d = d.modGw 1 fun g => { g with waits := [] } := by
  unfold xipProceed
  dsimp only
  rw [h]; rfl

theorem upTo_zero : upTo 0 = [] := rfl

/-- A read whose line the buffer holds. -/
theorem xipServe_hit (k : Nat) (r : XipRead) (d : Dev) (hs : r.size = r.left) (h0 : 0 < r.left) (hm : r.missed = false) (hp : r.pad = 0)
    (hl : (r.addr + r.left - 1) / 64 = r.addr / 64) (hh : (d.gwp 1).lines.any (·.1 == r.addr / 64) = true) :
    xipServe (k + 2) r d = (none, ((d.give r.path (bytesToWords ((upTo r.left).map fun i => lineByte (d.gwp 1).lines (r.addr + i)))).modGw 1 fun g =>
      { g with lines := touch (r.addr / 64) g.lines }).countSat GW1_XIP_STATS_HITS 1) := by
  conv => lhs; unfold xipServe
  dsimp only
  rw [if_neg (by omega), hs, Nat.min_self, hl]
  have hf : [r.addr / 64, r.addr / 64].find? (fun l => !(d.gwp 1).lines.any (·.1 == l)) = none := by
    simp only [List.find?, hh, Bool.not_true]
  rw [hf]
  dsimp only
  rw [hm, if_neg (by decide)]
  unfold xipServe
  dsimp only
  rw [if_pos (Nat.sub_self _), hp]
  rfl

theorem xipServe_miss (k : Nat) (r : XipRead) (d : Dev) (hs : r.size = r.left) (h0 : 0 < r.left) (hm : r.missed = false)
    (hh : (d.gwp 1).lines.any (·.1 == r.addr / 64) = false) (hf : (d.gwp 1).fill = []) (ho : d.xipOpen = true) (hd : d.on GW1_XIP_CFG_HOLD = false)
    (hc : (d.gwp 1).cmd = none) :
    xipServe (k + 1) r d = (some { r with missed := true }, startFill (r.addr / 64) (d.countSat GW1_XIP_STATS_MISSES 1)) := by
  unfold xipServe
  dsimp only
  rw [if_neg (by omega)]
  have hx : [r.addr / 64, (r.addr + min r.size r.left - 1) / 64].find? (fun l => !(d.gwp 1).lines.any (·.1 == l)) = some (r.addr / 64) := by
    simp only [List.find?, hh, Bool.not_false]
  rw [hx]
  dsimp only
  rw [hf, hm, ho, hd, hc]
  rfl

theorem startFill_eff (l : Nat) (d : Dev) :
    ((startFill l d).gwp 1).fill.head? = some (l, false) ∧ ((startFill l d).gwp 1).waits = (d.gwp 1).waits ∧
    (startFill l d).rd (GW_FRAMES_MASTER 1) = (d.rd (GW_FRAMES_MASTER 1) + 1) % 2 ^ 16 ∧ (startFill l d).out = d.out ∧
    (startFill l d).rd GW1_XIP_STATS_MISSES = d.rd GW1_XIP_STATS_MISSES := by
  unfold startFill
  dsimp only
  generalize hf : (MasterFrame.mk _ _ _ _ _ _ _ _) = f
  obtain ⟨a, b, c⟩ := sendMaster_eff 1 f d (by omega)
  refine ⟨?_, ?_, b, rfl, Dev.rd_count_ne _ _ (by decide)⟩
  · rw [gwp_modGw 1 _ _ (by omega)]; rfl
  · rw [gwp_modGw 1 _ _ (by omega), a]

theorem pow_pos2 (k : Nat) : 0 < 2 ^ k := Nat.pos_of_ne_zero (by simp)

/-- An aligned access of 1, 2, 4 or 8 bytes lies in one line. -/
theorem one_line (x : Nat) (k : Fin 4) (h : x % 2 ^ k.val = 0) : (x + 2 ^ k.val - 1) / 64 = x / 64 := by
  match k with
  | 0 => show (x + 1 - 1) / 64 = _; omega
  | 1 => have : x % 2 = 0 := h; show (x + 2 - 1) / 64 = _; omega
  | 2 => have : x % 4 = 0 := h; show (x + 4 - 1) / 64 = _; omega
  | 3 => have : x % 8 = 0 := h; show (x + 8 - 1) / 64 = _; omega

theorem in_window (x : Fin 268435456) (k : Fin 4) (h : x.val % 2 ^ k.val = 0) : ¬ 0x10000000 < x.val + 2 ^ k.val := by
  have := x.isLt
  match k with
  | 0 => show ¬ _ < x.val + 1; omega
  | 1 => have : x.val % 2 = 0 := h; show ¬ _ < x.val + 2; omega
  | 2 => have : x.val % 4 = 0 := h; show ¬ _ < x.val + 4; omega
  | 3 => have : x.val % 8 = 0 := h; show ¬ _ < x.val + 8; omega

/-- The one read of the window that waits is served. -/
theorem xipProceed_one (d : Dev) (r : XipRead) (h : (d.gwp 1).waits = []) :
    xipProceed (d.modGw 1 fun g => { g with waits := g.waits ++ [r] }) =
      (match xipServe (r.left + 1) r ((d.modGw 1 fun g => { g with waits := g.waits ++ [r] }).modGw 1 fun g => { g with waits := [] }) with
      | (some r', d') => d'.modGw 1 fun g => { g with waits := g.waits ++ [r'] }
      | (none, d') => d') := by
  unfold xipProceed
  dsimp only
  rw [gwp_modGw 1 _ d (by omega), h]; rfl

theorem modGw_twice (d : Dev) (r : XipRead) (h : (d.gwp 1).waits = []) :
    (((d.modGw 1 fun g => { g with waits := g.waits ++ [r] }).modGw 1 fun g => { g with waits := [] }).gwp 1) = d.gwp 1 := by
  rw [gwp_modGw 1 _ _ (by omega), gwp_modGw 1 _ _ (by omega)]
  rw [← h]

theorem xipLoad_open (p : Path) (x n : Nat) (d : Dev) (hp : d.pathOpen p = true) (ho : d.xipOpen = true) (hw : ¬ 0x10000000 < x + n) :
    xipLoad p x n d = xipProceed ((d.beginAccess p).modGw 1 fun g => { g with waits := g.waits ++ [⟨p, x, n, n, false, 0⟩] }) := by
  unfold xipLoad
  dsimp only
  have h1 : (d.beginAccess p).pathOpen p = true := by rw [← hp]; cases p <;> rfl
  have h2 : (d.beginAccess p).xipOpen = true := by rw [← ho]; cases p <;> rfl
  rw [if_pos h1]
  unfold xipAccess
  rw [h2, decide_eq_false hw]; rfl

theorem beginAccess_gwp (d : Dev) (p : Path) (n : Nat) : (d.beginAccess p).gwp n = d.gwp n := by cases p <;> rfl

theorem xipHit_eff (p : Path) (x : Fin 268435456) (k : Fin 4) (d : Dev) (ho : d.out = []) (hp : d.pathOpen p = true) (hx : d.xipOpen = true) (hw : (d.gwp 1).waits = [])
    (ha : x.val % 2 ^ k.val = 0) (hl : (d.gwp 1).lines.any (·.1 == x.val / 64) = true) :
    (xipLoad p x.val (2 ^ k.val) d).out = bytesToWords ((upTo (2 ^ k.val)).map fun i => lineByte (d.gwp 1).lines (x.val + i)) ∧
    (xipLoad p x.val (2 ^ k.val) d).rd GW1_XIP_STATS_HITS = min (d.rd GW1_XIP_STATS_HITS + 1) (2 ^ 16 - 1) ∧
    ((xipLoad p x.val (2 ^ k.val) d).gwp 1).waits = [] ∧ (xipLoad p x.val (2 ^ k.val) d).mem = d.mem := by
  have hpos := pow_pos2 k.val
  rw [xipLoad_open p _ _ d hp hx (in_window x k ha), xipProceed_one _ _ (by rw [beginAccess_gwp]; exact hw)]
  have g2 := modGw_twice (d.beginAccess p) ⟨p, x.val, 2 ^ k.val, 2 ^ k.val, false, 0⟩ (by rw [beginAccess_gwp]; exact hw)
  rw [beginAccess_gwp] at g2
  have o2 : (((d.beginAccess p).modGw 1 fun g => { g with waits := g.waits ++ [⟨p, x.val, 2 ^ k.val, 2 ^ k.val, false, 0⟩] }).modGw 1 fun g => { g with waits := [] }).out = [] :=
    (Dev.beginAccess_out d p).trans ho
  have m2 : (((d.beginAccess p).modGw 1 fun g => { g with waits := g.waits ++ [⟨p, x.val, 2 ^ k.val, 2 ^ k.val, false, 0⟩] }).modGw 1 fun g => { g with waits := [] }).mem = d.mem :=
    Dev.beginAccess_mem d p
  have r2 : (((d.beginAccess p).modGw 1 fun g => { g with waits := g.waits ++ [⟨p, x.val, 2 ^ k.val, 2 ^ k.val, false, 0⟩] }).modGw 1 fun g => { g with waits := [] }).rd
      GW1_XIP_STATS_HITS = d.rd GW1_XIP_STATS_HITS := Dev.beginAccess_rd d p _
  generalize (((d.beginAccess p).modGw 1 fun g => { g with waits := g.waits ++ [⟨p, x.val, 2 ^ k.val, 2 ^ k.val, false, 0⟩] }).modGw 1 fun g => { g with waits := [] }) = e
    at g2 o2 m2 r2 ⊢
  obtain ⟨j, hj⟩ : ∃ j, 2 ^ k.val + 1 = j + 2 := ⟨2 ^ k.val - 1, by omega⟩
  show ((match xipServe (2 ^ k.val + 1) ⟨p, x.val, 2 ^ k.val, 2 ^ k.val, false, 0⟩ e with | (some r', d') => _ | (none, d') => d') : Dev).out = _ ∧ _
  rw [hj, xipServe_hit j _ e rfl hpos rfl rfl (one_line x.val k ha) (by rw [g2]; exact hl), g2]
  dsimp only
  generalize hbs : bytesToWords _ = ws
  have gg : ∀ m, (e.give p ws).gwp m = e.gwp m := fun m => by unfold Dev.give; cases ws <;> cases p <;> rfl
  have gr : (e.give p ws).rd GW1_XIP_STATS_HITS = e.rd GW1_XIP_STATS_HITS := ((Dev.give_after (Changes.refl _ _ _) (within_refl _) (covers_refl _) p ws).rd (rows_not (by decide)))
  refine ⟨?_, ?_, ?_, ?_⟩
  · exact (give_out e p ws).trans (by rw [o2]; rfl)
  · refine (Dev.rd_wr_same _ GW1_XIP_STATS_HITS _).trans ?_
    rw [modGw_rd, gr, r2]
    show min (d.rd GW1_XIP_STATS_HITS + 1) 65535 % 65536 = min (d.rd GW1_XIP_STATS_HITS + 1) 65535
    omega
  · show (((e.give p ws).modGw 1 _).gwp 1).waits = []
    rw [gwp_modGw 1 _ _ (by omega)]
    show ((e.give p ws).gwp 1).waits = []
    rw [gg, g2, hw]
  · exact (give_mem e p ws).trans m2

theorem xipMiss_eff (p : Path) (x : Fin 268435456) (k : Fin 4) (d : Dev) (ho : d.out = []) (hp : d.pathOpen p = true) (hx : d.xipOpen = true) (hw : (d.gwp 1).waits = [])
    (ha : x.val % 2 ^ k.val = 0) (hl : (d.gwp 1).lines.any (·.1 == x.val / 64) = false) (hf : (d.gwp 1).fill = []) (hc : (d.gwp 1).cmd = none)
    (hd : d.on GW1_XIP_CFG_HOLD = false) :
    (xipLoad p x.val (2 ^ k.val) d).out = [] ∧
    (xipLoad p x.val (2 ^ k.val) d).rd GW1_XIP_STATS_MISSES = min (d.rd GW1_XIP_STATS_MISSES + 1) (2 ^ 16 - 1) ∧
    ((xipLoad p x.val (2 ^ k.val) d).gwp 1).waits = [⟨p, x.val, 2 ^ k.val, 2 ^ k.val, true, 0⟩] ∧
    ((xipLoad p x.val (2 ^ k.val) d).gwp 1).fill.head? = some (x.val / 64, false) ∧
    (xipLoad p x.val (2 ^ k.val) d).rd (GW_FRAMES_MASTER 1) = (d.rd (GW_FRAMES_MASTER 1) + 1) % 2 ^ 16 := by
  have hpos := pow_pos2 k.val
  rw [xipLoad_open p _ _ d hp hx (in_window x k ha), xipProceed_one _ _ (by rw [beginAccess_gwp]; exact hw)]
  have g2 := modGw_twice (d.beginAccess p) ⟨p, x.val, 2 ^ k.val, 2 ^ k.val, false, 0⟩ (by rw [beginAccess_gwp]; exact hw)
  rw [beginAccess_gwp] at g2
  have o2 : (((d.beginAccess p).modGw 1 fun g => { g with waits := g.waits ++ [⟨p, x.val, 2 ^ k.val, 2 ^ k.val, false, 0⟩] }).modGw 1 fun g => { g with waits := [] }).out = [] :=
    (Dev.beginAccess_out d p).trans ho
  have r2 : ∀ f, (((d.beginAccess p).modGw 1 fun g => { g with waits := g.waits ++ [⟨p, x.val, 2 ^ k.val, 2 ^ k.val, false, 0⟩] }).modGw 1 fun g => { g with waits := [] }).rd f
      = d.rd f := fun f => Dev.beginAccess_rd d p f
  have x2 : (((d.beginAccess p).modGw 1 fun g => { g with waits := g.waits ++ [⟨p, x.val, 2 ^ k.val, 2 ^ k.val, false, 0⟩] }).modGw 1 fun g => { g with waits := [] }).xipOpen = true := by
    rw [← hx]; cases p <;> rfl
  generalize (((d.beginAccess p).modGw 1 fun g => { g with waits := g.waits ++ [⟨p, x.val, 2 ^ k.val, 2 ^ k.val, false, 0⟩] }).modGw 1 fun g => { g with waits := [] }) = e
    at g2 o2 r2 x2 ⊢
  show ((match xipServe (2 ^ k.val + 1) ⟨p, x.val, 2 ^ k.val, 2 ^ k.val, false, 0⟩ e with | (some r', d') => (d'.modGw 1 fun g => { g with waits := g.waits ++ [r'] }) | (none, d') => d') : Dev).out = _ ∧ _
  rw [xipServe_miss _ _ e rfl hpos rfl (by rw [g2]; exact hl) (by rw [g2]; exact hf) x2 ((Dev.on_of_rd (r2 _)).trans hd) (by rw [g2]; exact hc)]
  dsimp only
  obtain ⟨f1, f2, f3, f4, f5⟩ := startFill_eff (x.val / 64) (e.countSat GW1_XIP_STATS_MISSES 1)
  generalize startFill (x.val / 64) (e.countSat GW1_XIP_STATS_MISSES 1) = y at f1 f2 f3 f4 f5 ⊢
  have f2' : (y.gwp 1).waits = [] := f2.trans ((congrArg GwPort.waits g2).trans hw)
  refine ⟨f4.trans o2, ?_, ?_, ?_, ?_⟩
  · refine f5.trans ((Dev.rd_wr_same _ GW1_XIP_STATS_MISSES _).trans ?_)
    rw [r2]
    show min (d.rd GW1_XIP_STATS_MISSES + 1) 65535 % 65536 = min (d.rd GW1_XIP_STATS_MISSES + 1) 65535
    omega
  · rw [gwp_modGw 1 _ _ (by omega), f2']; rfl
  · rw [gwp_modGw 1 _ _ (by omega)]; exact f1
  · refine f3.trans ?_
    rw [Dev.rd_countSat_ne _ _ (by decide), r2]

theorem lineFill_eff (l : Nat) (rest : List (Nat × Bool)) (data : List Byte) (d : Dev) (hf : (d.gwp 1).fill = (l, false) :: rest) (hw : (d.gwp 1).waits = [])
    (hc : (d.gwp 1).cmd = none) :
    ((xipLineFill data d).gwp 1).lines = ((l, fitBytes 64 data) :: (d.gwp 1).lines.filter (·.1 != l)).take 4 ∧ ((xipLineFill data d).gwp 1).fill = rest ∧
    (xipLineFill data d).regs = d.regs := by
  unfold xipLineFill
  rw [hf]
  dsimp only
  have e := gwp_modGw 1 (fun g => { g with lines := ((l, fitBytes 64 data) :: g.lines.filter (·.1 != l)).take 4, fill := rest }) d (by omega)
  have er : (d.modGw 1 (fun g => { g with lines := ((l, fitBytes 64 data) :: g.lines.filter (·.1 != l)).take 4, fill := rest })).regs = d.regs := rfl
  generalize d.modGw 1 (fun g => { g with lines := ((l, fitBytes 64 data) :: g.lines.filter (·.1 != l)).take 4, fill := rest }) = x at e er ⊢
  rw [xipProceed_idle x (by rw [e]; exact hw), if_neg (by decide)]
  have e2 := gwp_modGw 1 (fun g => { g with waits := [] }) x (by omega)
  have er2 : (x.modGw 1 (fun g => { g with waits := [] })).regs = d.regs := er
  generalize x.modGw 1 (fun g => { g with waits := [] }) = y at e2 er2 ⊢
  have hb : beginCommand 1 y = y := by
    unfold beginCommand
    dsimp only
    rw [show (y.gwp 1).cmd = none by rw [e2, e]; exact hc]
  rw [hb, xipProceed_idle y (by rw [e2])]
  rw [gwp_modGw 1 _ _ (by omega), e2, e]
  exact ⟨rfl, rfl, er2⟩

theorem Dev.out_reaches {d : Dev} {p : Path} {b : Nat} (h : d.reaches p b = true) :
    ({ d with out := [] } : Dev).pathOpen p = true ∧ ({ d with out := [] } : Dev).blockRuns b = true := by
  unfold Dev.reaches at h; rw [Bool.and_eq_true] at h
  exact ⟨h.1, h.2⟩

theorem onPort_reached {b : Nat} {p : Path} {d : Dev} (f : Dev → Dev) (h : d.reaches p b = true) :
    onPort b p f { d with out := [] } = f (d.accessed p) := onPort_open f (Dev.out_reaches h).1 (Dev.out_reaches h).2

theorem accessed_gwp (d : Dev) (p : Path) (n : Nat) : (d.accessed p).gwp n = d.gwp n := beginAccess_gwp _ p n
theorem accessed_rd (d : Dev) (p : Path) (f : Fld) : (d.accessed p).rd f = d.rd f := Dev.beginAccess_rd _ p f
theorem accessed_on (d : Dev) (p : Path) (f : Fld) : (d.accessed p).on f = d.on f := Dev.beginAccess_on _ p f
theorem accessed_out (d : Dev) (p : Path) : (d.accessed p).out = [] := Dev.beginAccess_out _ p

theorem mdataWrite_eff (n : Nat) (w : Word) (d : Dev) (hn : n < 2) (h : (d.gwp n).mdata.length < 256) :
    ((mdataWrite n w d).gwp n).mdata = (d.gwp n).mdata ++ [w] ∧ (mdataWrite n w d).regs = d.regs ∧ (mdataWrite n w d).mem = d.mem := by
  unfold mdataWrite
  rw [if_neg (by omega)]
  refine ⟨?_, rfl, rfl⟩
  rw [gwp_modGw n _ d hn]

theorem mdataRead_eff (p : Path) (n : Nat) (d : Dev) (x : Word) (xs : List Word) (hn : n < 2) (ho : d.out = []) (h : (d.gwp n).mdata = x :: xs) :
    (mdataRead p n d).out = [x] ∧ ((mdataRead p n d).gwp n).mdata = xs ∧ (mdataRead p n d).mem = d.mem := by
  unfold mdataRead
  dsimp only
  have e := gwp_modGw n (fun g => { g with mdata := g.mdata.drop 1 }) d hn
  have eo : (d.modGw n (fun g => { g with mdata := g.mdata.drop 1 })).out = [] := ho
  have em : (d.modGw n (fun g => { g with mdata := g.mdata.drop 1 })).mem = d.mem := rfl
  generalize d.modGw n (fun g => { g with mdata := g.mdata.drop 1 }) = y at e eo em ⊢
  rw [h]
  refine ⟨?_, ?_, ?_⟩
  · rw [give_out, eo]; rfl
  · have gg : (y.give p [(x :: xs).headD 0]).gwp n = y.gwp n := by cases p <;> rfl
    rw [gg, e, h]; rfl
  · rw [give_mem, em]

theorem xipEmpty_eff (d : Dev) : ((xipEmpty d).gwp 1).lines = [] ∧ ((xipEmpty d).gwp 1).fill = (d.gwp 1).fill.map (fun x => (x.1, true)) ∧
    (xipEmpty d).regs = d.regs ∧ (xipEmpty d).mem = d.mem := by
  unfold xipEmpty
  rw [gwp_modGw 1 _ d (by omega)]
  exact ⟨rfl, rfl, rfl, rfl⟩

theorem bits_lt (v h l : Nat) : bits v h l < 2 ^ (h + 1 - l) := Nat.mod_lt _ (pow_pos2 _)

theorem xipProceed_regs (d : Dev) (h : (d.gwp 1).waits = []) : (xipProceed d).regs = d.regs := by rw [xipProceed_idle d h]; rfl

theorem xipCfg_eff (p : Path) (w : Word) (d : Dev) (he : d.on GW1_XIP_CFG_EN = false) (hw : (d.gwp 1).waits = []) :
    (xipCfgWrite p w d).on GW1_XIP_CFG_EN = bit w.toNat 31 ∧ (xipCfgWrite p w d).on GW1_XIP_CFG_HOLD = bit w.toNat 30 ∧
    (xipCfgWrite p w d).rd GW1_XIP_CFG_CONT = bits w.toNat 29 29 ∧
    (xipCfgWrite p w d).rd GW1_XIP_CFG_PREFETCH = bits w.toNat 28 28 ∧ (xipCfgWrite p w d).rd GW1_XIP_CFG_CS = bits w.toNat 27 26 ∧
    (xipCfgWrite p w d).rd GW1_XIP_CFG_A4 = bits w.toNat 25 25 ∧
    (xipCfgWrite p w d).rd GW1_XIP_CFG_DUMMY = bits w.toNat 20 16 ∧ (xipCfgWrite p w d).rd GW1_XIP_CFG_OPCODE = bits w.toNat 15 8 ∧
    (xipCfgWrite p w d).rd GW1_XIP_CFG_MODE = bits w.toNat 7 0 := by
  have hregs : (xipCfgWrite p w d).regs = (((((((((d.wr GW1_XIP_CFG_CONT (bits w.toNat 29 29)).wr GW1_XIP_CFG_PREFETCH (bits w.toNat 28 28)).wr GW1_XIP_CFG_CS (bits w.toNat 27 26)).wr
      GW1_XIP_CFG_A4 (bits w.toNat 25 25)).wr GW1_XIP_CFG_DUMMY (bits w.toNat 20 16)).wr GW1_XIP_CFG_OPCODE (bits w.toNat 15 8)).wr GW1_XIP_CFG_MODE (bits w.toNat 7 0)).flag
      GW1_XIP_CFG_EN (bit w.toNat 31)).flag GW1_XIP_CFG_HOLD (bit w.toNat 30)).regs := by
    unfold xipCfgWrite
    dsimp only
    simp only [he, Bool.false_and, Bool.false_eq_true, if_false]
    split
    · rw [xipProceed_regs _ (by unfold xipEmpty; rw [gwp_modGw 1 _ _ (by omega)]; exact hw)]; rfl
    · exact xipProceed_regs _ hw
  have rd := fun f => Dev.rd_of_regs hregs f
  have on : ∀ f, (xipCfgWrite p w d).on f = _ := fun f => Dev.on_of_rd (rd f)
  have b2 : ∀ c : Bool, b2n c % 2 = b2n c := fun c => by cases c <;> rfl
  have l1 := bits_lt w.toNat 29 29
  have l2 := bits_lt w.toNat 28 28
  have l3 := bits_lt w.toNat 27 26
  have l4 := bits_lt w.toNat 25 25
  have l5 := bits_lt w.toNat 20 16
  have l6 := bits_lt w.toNat 15 8
  have l7 := bits_lt w.toNat 7 0
  generalize bits w.toNat 29 29 = v1 at *
  generalize bits w.toNat 28 28 = v2 at *
  generalize bits w.toNat 27 26 = v3 at *
  generalize bits w.toNat 25 25 = v4 at *
  generalize bits w.toNat 20 16 = v5 at *
  generalize bits w.toNat 15 8 = v6 at *
  generalize bits w.toNat 7 0 = v7 at *
  refine ⟨?_, ?_, ?_, ?_, ?_, ?_, ?_, ?_, ?_⟩
  · rw [on]; unfold Dev.on; rw [Dev.rd_flag_ne _ _ (by decide), Dev.rd_flag_same]; cases bit w.toNat 31 <;> rfl
  · rw [on]; unfold Dev.on; rw [Dev.rd_flag_same]; cases bit w.toNat 30 <;> rfl
  · rw [rd, Dev.rd_flag_ne _ _ (by decide), Dev.rd_flag_ne _ _ (by decide), Dev.rd_wr_ne _ _ (by decide), Dev.rd_wr_ne _ _ (by decide), Dev.rd_wr_ne _ _ (by decide),
      Dev.rd_wr_ne _ _ (by decide), Dev.rd_wr_ne _ _ (by decide), Dev.rd_wr_ne _ _ (by decide), Dev.rd_wr_same]; exact Nat.mod_eq_of_lt l1
  · rw [rd, Dev.rd_flag_ne _ _ (by decide), Dev.rd_flag_ne _ _ (by decide), Dev.rd_wr_ne _ _ (by decide), Dev.rd_wr_ne _ _ (by decide), Dev.rd_wr_ne _ _ (by decide),
      Dev.rd_wr_ne _ _ (by decide), Dev.rd_wr_ne _ _ (by decide), Dev.rd_wr_same]; exact Nat.mod_eq_of_lt l2
  · rw [rd, Dev.rd_flag_ne _ _ (by decide), Dev.rd_flag_ne _ _ (by decide), Dev.rd_wr_ne _ _ (by decide), Dev.rd_wr_ne _ _ (by decide), Dev.rd_wr_ne _ _ (by decide),
      Dev.rd_wr_ne _ _ (by decide), Dev.rd_wr_same]; exact Nat.mod_eq_of_lt l3
  · rw [rd, Dev.rd_flag_ne _ _ (by decide), Dev.rd_flag_ne _ _ (by decide), Dev.rd_wr_ne _ _ (by decide), Dev.rd_wr_ne _ _ (by decide), Dev.rd_wr_ne _ _ (by decide),
      Dev.rd_wr_same]; exact Nat.mod_eq_of_lt l4
  · rw [rd, Dev.rd_flag_ne _ _ (by decide), Dev.rd_flag_ne _ _ (by decide), Dev.rd_wr_ne _ _ (by decide), Dev.rd_wr_ne _ _ (by decide), Dev.rd_wr_same]
    exact Nat.mod_eq_of_lt l5
  · rw [rd, Dev.rd_flag_ne _ _ (by decide), Dev.rd_flag_ne _ _ (by decide), Dev.rd_wr_ne _ _ (by decide), Dev.rd_wr_same]; exact Nat.mod_eq_of_lt l6
  · rw [rd, Dev.rd_flag_ne _ _ (by decide), Dev.rd_flag_ne _ _ (by decide), Dev.rd_wr_same]; exact Nat.mod_eq_of_lt l7

end Sys2Proof.Machine
end

