-- ==== Sys2Proof/Laws/EffectsLinks.lean ====
section
/-!
SUPPORT. What the operations of Machine/Links do.
-/

set_option Elab.async false
set_option linter.all false

namespace Sys2Proof.Machine

theorem setLink_link (p s : Nat) (d : Dev) (h : s < 16) (hp : p < 4) : (setLink p s d).link p = s := by
  have e : (HSP_STATUS_LINK p).bit ≠ (HSP_CFG_RETRAIN p).bit := by
    obtain rfl | rfl | rfl | rfl : p = 0 ∨ p = 1 ∨ p = 2 ∨ p = 3 := by omega
    all_goals decide
  exact (Dev.rd_lower_ne _ e).trans ((Dev.rd_wr_same d (HSP_STATUS_LINK p) s).trans (Nat.mod_eq_of_lt h))

theorem setLink_rd (p s : Nat) (d : Dev) {f : Fld} (h1 : f.bit ≠ (HSP_STATUS_LINK p).bit) (h2 : f.bit ≠ (HSP_CFG_RETRAIN p).bit) : (setLink p s d).rd f = d.rd f :=
  (Dev.rd_lower_ne _ h2).trans (Dev.rd_wr_ne _ _ h1)

theorem linkReset_idle (d : Dev) (h : d.power.linkDue = false) : linkReset d = d := by unfold linkReset; rw [h]; rfl

theorem afterDrop_link (p : Nat) (d : Dev) (q : Fin 4) : (afterDrop p d).link q.val = d.link q.val := ((afterDrop_after (Changes.refl _ _ _) (within_refl _) (covers_refl _) p).rd (rows_not ((by decide +kernel : ∀ q : Fin 4, List.all _ (Span.misses (HSP_STATUS_LINK q.val).bit) = true) q)))
theorem afterDrop_seen (p : Nat) (d : Dev) (q : Fin 4) : (afterDrop p d).rd (HSP_STATUS_DOWN_SEEN q.val) = d.rd (HSP_STATUS_DOWN_SEEN q.val) := ((afterDrop_after (Changes.refl _ _ _) (within_refl _) (covers_refl _) p).rd (rows_not ((by decide +kernel : ∀ q : Fin 4, List.all _ (Span.misses (HSP_STATUS_DOWN_SEEN q.val).bit) = true) q)))
theorem afterDrop_down (p : Nat) (d : Dev) (q : Fin 4) : (afterDrop p d).rd (HSP_ERR_DOWN q.val) = d.rd (HSP_ERR_DOWN q.val) := ((afterDrop_after (Changes.refl _ _ _) (within_refl _) (covers_refl _) p).rd (rows_not ((by decide +kernel : ∀ q : Fin 4, List.all _ (Span.misses (HSP_ERR_DOWN q.val).bit) = true) q)))
theorem afterDrop_neigh (p : Nat) (d : Dev) (q : Fin 4) : (afterDrop p d).rd (HSP_STATUS_NEIGH_VALID q.val) = d.rd (HSP_STATUS_NEIGH_VALID q.val) := ((afterDrop_after (Changes.refl _ _ _) (within_refl _) (covers_refl _) p).rd (rows_not ((by decide +kernel : ∀ q : Fin 4, List.all _ (Span.misses (HSP_STATUS_NEIGH_VALID q.val).bit) = true) q)))
theorem afterDrop_mem (p : Nat) (d : Dev) : (afterDrop p d).mem = d.mem := ((afterDrop_after (Changes.refl _ _ _) (within_refl _) (covers_refl _) p).parts .mem (by decide))
theorem afterDrop_power (p : Nat) (d : Dev) : (afterDrop p d).power = d.power := ((afterDrop_after (Changes.refl _ _ _) (within_refl _) (covers_refl _) p).parts .power (by decide))

theorem linkDrop_eq (p : Nat) (d : Dev) : linkDrop p d = setLink p lDETECT ((emptyLink p ((d.raise (HSP_STATUS_DOWN_SEEN p)).countSat (HSP_ERR_DOWN p) 1)).modPort p fun x =>
    { x with holdoff := true }) := rfl

theorem emptyLink_seen (p : Fin 4) (d : Dev) : (emptyLink p.val d).rd (HSP_STATUS_DOWN_SEEN p.val) = d.rd (HSP_STATUS_DOWN_SEEN p.val) :=
  ((emptyLink_after (Changes.refl _ _ _) (within_refl _) (covers_refl _) p.val).rd (rows_not ((by decide +kernel : ∀ q : Fin 4, List.all _ (Span.misses (HSP_STATUS_DOWN_SEEN q.val).bit) = true) p)))
theorem emptyLink_down (p : Fin 4) (d : Dev) : (emptyLink p.val d).rd (HSP_ERR_DOWN p.val) = d.rd (HSP_ERR_DOWN p.val) :=
  ((emptyLink_after (Changes.refl _ _ _) (within_refl _) (covers_refl _) p.val).rd (rows_not ((by decide +kernel : ∀ q : Fin 4, List.all _ (Span.misses (HSP_ERR_DOWN q.val).bit) = true) p)))
theorem emptyLink_neigh (p : Nat) (d : Dev) : (emptyLink p d).rd (HSP_STATUS_NEIGH_VALID p) = 0 := by
  unfold emptyLink
  exact Dev.rd_lower_same _ _
theorem modPort_rd (p : Nat) (g : HsPort → HsPort) (d : Dev) (f : Fld) : (d.modPort p g).rd f = d.rd f := rfl

theorem bit_ne (p : Fin 4) (f g : Nat → Fld) (h : ∀ q : Fin 4, (f q.val).bit ≠ (g q.val).bit) : (f p.val).bit ≠ (g p.val).bit := h p

theorem linkDrop_rd (p : Fin 4) (d : Dev) (f : Nat → Fld) (h1 : ∀ q : Fin 4, (f q.val).bit ≠ (HSP_STATUS_LINK q.val).bit)
    (h2 : ∀ q : Fin 4, (f q.val).bit ≠ (HSP_CFG_RETRAIN q.val).bit) :
    (linkDrop p.val d).rd (f p.val) = (emptyLink p.val ((d.raise (HSP_STATUS_DOWN_SEEN p.val)).countSat (HSP_ERR_DOWN p.val) 1)).rd (f p.val) := by
  rw [linkDrop_eq, setLink_rd _ _ _ (h1 p) (h2 p), modPort_rd]

theorem linkDrop_link (p : Fin 4) (d : Dev) : (linkDrop p.val d).link p.val = 1 := by
  rw [linkDrop_eq]
  exact setLink_link p.val 1 _ (by omega) p.isLt
theorem linkDrop_seen (p : Fin 4) (d : Dev) : (linkDrop p.val d).rd (HSP_STATUS_DOWN_SEEN p.val) = 1 := by
  rw [linkDrop_rd p d HSP_STATUS_DOWN_SEEN (by decide) (by decide), emptyLink_seen, Dev.rd_countSat_ne _ _ (bit_ne p HSP_STATUS_DOWN_SEEN HSP_ERR_DOWN (by decide))]
  exact Dev.rd_raise_same _ _
theorem linkDrop_down (p : Fin 4) (d : Dev) : (linkDrop p.val d).rd (HSP_ERR_DOWN p.val) = min (d.rd (HSP_ERR_DOWN p.val) + 1) 255 := by
  rw [linkDrop_rd p d HSP_ERR_DOWN (by decide) (by decide), emptyLink_down]
  refine (Dev.rd_wr_same _ (HSP_ERR_DOWN p.val) _).trans ?_
  rw [Dev.rd_raise_ne _ (bit_ne p HSP_ERR_DOWN HSP_STATUS_DOWN_SEEN (by decide))]
  show min (d.rd (HSP_ERR_DOWN p.val) + 1) 255 % 256 = _
  omega
theorem linkDrop_neigh (p : Fin 4) (d : Dev) : (linkDrop p.val d).rd (HSP_STATUS_NEIGH_VALID p.val) = 0 := by
  rw [linkDrop_rd p d HSP_STATUS_NEIGH_VALID (by decide) (by decide), emptyLink_neigh]
theorem linkDrop_mem (p : Nat) (d : Dev) : (linkDrop p d).mem = d.mem := ((linkDrop_after (Changes.refl _ _ _) (within_refl _) (covers_refl _) p).parts .mem (by decide))
theorem linkDrop_power (p : Nat) (d : Dev) : (linkDrop p d).power = d.power := ((linkDrop_after (Changes.refl _ _ _) (within_refl _) (covers_refl _) p).parts .power (by decide))

theorem setLink_mem (p s : Nat) (d : Dev) : (setLink p s d).mem = d.mem := rfl

theorem trainInfo_booting (p : Fin 4) (i : TrainInfo) (d : Dev) (hr : d.coreRuns = true) (hl : d.link p.val = 4) (hb : i.booting = true) :
    (Machine.trainInfo p.val i d).link p.val = 8 ∧ (Machine.trainInfo p.val i d).mem = d.mem := by
  have hg : (!d.hsRuns || decide (d.link p.val ≠ lEXCHANGE)) = false := by
    show (!d.coreRuns || _) = false; rw [hr, hl]; rfl
  unfold Machine.trainInfo
  dsimp only
  rw [if_neg (by rw [hg]; decide), hb, if_pos rfl]
  exact ⟨setLink_link p.val 8 _ (by omega) p.isLt, rfl⟩

/-- What TRAIN_INFO leaves, before the port takes its new state. -/
def trainNoted (p : Nat) (i : TrainInfo) (d : Dev) : Dev :=
  (((d.wr (HSP_NEIGH_ID p) i.unit.toNat).wr (HSP_DIAG_LEN_M p) i.length.toNat).wr (HSP_DIAG_SNR p) i.snr.toNat).modPort p fun x =>
    { HsPort.reset with priority := i.priority.toNat, seed := x.seed, peerSeed := i.seed.toNat }

theorem trainNoted_rd (p : Fin 4) (i : TrainInfo) (d : Dev) : (trainNoted p.val i d).rd (HSP_NEIGH_ID p.val) = i.unit.toNat ∧
    (trainNoted p.val i d).rd (HSP_DIAG_LEN_M p.val) = i.length.toNat ∧ (trainNoted p.val i d).rd (HSP_DIAG_SNR p.val) = i.snr.toNat := by
  have hb : ∀ f g : Nat → Fld, (∀ q : Fin 4, (f q.val).bit ≠ (g q.val).bit) → (f p.val).bit ≠ (g p.val).bit := fun f g h => h p
  refine ⟨?_, ?_, ?_⟩
  · refine (Dev.rd_wr_ne _ _ (hb HSP_NEIGH_ID HSP_DIAG_SNR (by decide))).trans ((Dev.rd_wr_ne _ _ (hb HSP_NEIGH_ID HSP_DIAG_LEN_M (by decide))).trans
      ((Dev.rd_wr_same _ (HSP_NEIGH_ID p.val) _).trans (Nat.mod_eq_of_lt i.unit.isLt)))
  · exact (Dev.rd_wr_ne _ _ (hb HSP_DIAG_LEN_M HSP_DIAG_SNR (by decide))).trans ((Dev.rd_wr_same _ (HSP_DIAG_LEN_M p.val) _).trans (Nat.mod_eq_of_lt i.length.isLt))
  · exact (Dev.rd_wr_same _ (HSP_DIAG_SNR p.val) _).trans (Nat.mod_eq_of_lt i.snr.isLt)

/-- The state a port takes on TRAIN_INFO. -/
theorem trainInfo_to (p : Fin 4) (i : TrainInfo) (d : Dev) (hr : d.coreRuns = true) (hl : d.link p.val = 4) (hb : i.booting = false) (hf : d.marksBooting p.val = false) :
    Machine.trainInfo p.val i d =
      (if i.unit.toNat = d.rd GC_UNITID_ID then (setLink p.val lLOOP (trainNoted p.val i d)).raise (HSP_STATUS_LOOP_SEEN p.val)
       else if i.fabric.toNat ≠ d.rd HS_FABRIC_ID_ID then (setLink p.val lFOREIGN (trainNoted p.val i d)).raise (HSP_STATUS_FOREIGN_SEEN p.val)
       else
        let e := setLink p.val lUP (trainNoted p.val i d)
        floodOwn (extendChain p.val (checkCascade (if e.hsMode = 1 && e.disc ≠ 0 && e.disc ≠ 1 && better (i.priority.toNat, i.unit.toNat, 0) (e.rd HS_ROOTINFO_PRIORITY, e.rd HS_ROOT_ID, 0) then
          startElect e else checkDiscovery e)))) := by
  have hg : (!d.hsRuns || decide (d.link p.val ≠ lEXCHANGE)) = false := by
    show (!d.coreRuns || _) = false; rw [hr, hl]; rfl
  have u : (trainNoted p.val i d).rd GC_UNITID_ID = d.rd GC_UNITID_ID := by
    have : ∀ f : Nat → Fld, (∀ q : Fin 4, GC_UNITID_ID.bit ≠ (f q.val).bit) → GC_UNITID_ID.bit ≠ (f p.val).bit := fun f h => h p
    exact (Dev.rd_wr_ne _ _ (this HSP_DIAG_SNR (by decide))).trans ((Dev.rd_wr_ne _ _ (this HSP_DIAG_LEN_M (by decide))).trans (Dev.rd_wr_ne _ _ (this HSP_NEIGH_ID (by decide))))
  have w : (trainNoted p.val i d).rd HS_FABRIC_ID_ID = d.rd HS_FABRIC_ID_ID := by
    have : ∀ f : Nat → Fld, (∀ q : Fin 4, HS_FABRIC_ID_ID.bit ≠ (f q.val).bit) → HS_FABRIC_ID_ID.bit ≠ (f p.val).bit := fun f h => h p
    exact (Dev.rd_wr_ne _ _ (this HSP_DIAG_SNR (by decide))).trans ((Dev.rd_wr_ne _ _ (this HSP_DIAG_LEN_M (by decide))).trans (Dev.rd_wr_ne _ _ (this HSP_NEIGH_ID (by decide))))
  have ph : (trainNoted p.val i d).marksBooting p.val = d.marksBooting p.val := rfl
  unfold Machine.trainInfo
  dsimp only
  rw [if_neg (by rw [hg]; decide), hb, if_neg (by decide)]
  change (if (trainNoted p.val i d).marksBooting p.val = true then _ else if i.unit.toNat = (trainNoted p.val i d).rd GC_UNITID_ID then _ else
    if i.fabric.toNat ≠ (trainNoted p.val i d).rd HS_FABRIC_ID_ID then _ else _) = _
  rw [ph, if_neg (by rw [hf]; decide), u, w]
  rfl

theorem settled_link (p : Fin 4) (d : Dev) : (floodOwn (extendChain p.val (checkCascade d))).link p.val = d.link p.val :=
  ((floodOwn_after (Changes.refl _ _ _) (within_refl _) (covers_refl _)).rd (rows_not ((by decide +kernel : ∀ q : Fin 4, List.all _ (Span.misses (HSP_STATUS_LINK q.val).bit) = true) p))).trans (((extendChain_after (Changes.refl _ _ _) (within_refl _) (covers_refl _) _).rd (rows_not ((by decide +kernel : ∀ q : Fin 4, List.all _ (Span.misses (HSP_STATUS_LINK q.val).bit) = true) p))).trans
    ((checkCascade_after (Changes.refl _ _ _) (within_refl _) (covers_refl _)).rd (rows_not ((by decide +kernel : ∀ q : Fin 4, List.all _ (Span.misses (HSP_STATUS_LINK q.val).bit) = true) p))))
theorem settled_neigh (p : Fin 4) (d : Dev) : (floodOwn (extendChain p.val (checkCascade d))).rd (HSP_NEIGH_ID p.val) = d.rd (HSP_NEIGH_ID p.val) :=
  ((floodOwn_after (Changes.refl _ _ _) (within_refl _) (covers_refl _)).rd (rows_not ((by decide +kernel : ∀ q : Fin 4, List.all _ (Span.misses (HSP_NEIGH_ID q.val).bit) = true) p))).trans (((extendChain_after (Changes.refl _ _ _) (within_refl _) (covers_refl _) _).rd (rows_not ((by decide +kernel : ∀ q : Fin 4, List.all _ (Span.misses (HSP_NEIGH_ID q.val).bit) = true) p))).trans
    ((checkCascade_after (Changes.refl _ _ _) (within_refl _) (covers_refl _)).rd (rows_not ((by decide +kernel : ∀ q : Fin 4, List.all _ (Span.misses (HSP_NEIGH_ID q.val).bit) = true) p))))
theorem settled_len (p : Fin 4) (d : Dev) : (floodOwn (extendChain p.val (checkCascade d))).rd (HSP_DIAG_LEN_M p.val) = d.rd (HSP_DIAG_LEN_M p.val) :=
  ((floodOwn_after (Changes.refl _ _ _) (within_refl _) (covers_refl _)).rd (rows_not ((by decide +kernel : ∀ q : Fin 4, List.all _ (Span.misses (HSP_DIAG_LEN_M q.val).bit) = true) p))).trans (((extendChain_after (Changes.refl _ _ _) (within_refl _) (covers_refl _) _).rd (rows_not ((by decide +kernel : ∀ q : Fin 4, List.all _ (Span.misses (HSP_DIAG_LEN_M q.val).bit) = true) p))).trans
    ((checkCascade_after (Changes.refl _ _ _) (within_refl _) (covers_refl _)).rd (rows_not ((by decide +kernel : ∀ q : Fin 4, List.all _ (Span.misses (HSP_DIAG_LEN_M q.val).bit) = true) p))))
theorem settled_snr (p : Fin 4) (d : Dev) : (floodOwn (extendChain p.val (checkCascade d))).rd (HSP_DIAG_SNR p.val) = d.rd (HSP_DIAG_SNR p.val) :=
  ((floodOwn_after (Changes.refl _ _ _) (within_refl _) (covers_refl _)).rd (rows_not ((by decide +kernel : ∀ q : Fin 4, List.all _ (Span.misses (HSP_DIAG_SNR q.val).bit) = true) p))).trans (((extendChain_after (Changes.refl _ _ _) (within_refl _) (covers_refl _) _).rd (rows_not ((by decide +kernel : ∀ q : Fin 4, List.all _ (Span.misses (HSP_DIAG_SNR q.val).bit) = true) p))).trans
    ((checkCascade_after (Changes.refl _ _ _) (within_refl _) (covers_refl _)).rd (rows_not ((by decide +kernel : ∀ q : Fin 4, List.all _ (Span.misses (HSP_DIAG_SNR q.val).bit) = true) p))))
theorem settled_mem (p : Nat) (d : Dev) : (floodOwn (extendChain p (checkCascade d))).mem = d.mem :=
  ((floodOwn_after (Changes.refl _ _ _) (within_refl _) (covers_refl _)).parts .mem (by decide)).trans (((extendChain_after (Changes.refl _ _ _) (within_refl _) (covers_refl _) _).parts .mem (by decide)).trans ((checkCascade_after (Changes.refl _ _ _) (within_refl _) (covers_refl _)).parts .mem (by decide)))

theorem elect_rd (e : Dev) (c : Prop) [Decidable c] {f : Fld} (h : f.bit ≠ HS_STATUS_DISC.bit) : (if c then startElect e else checkDiscovery e).rd f = e.rd f := by
  have w : ¬ Rows [.one HS_STATUS_DISC.bit] f.bit := by
    rintro ⟨x, hx, hy⟩
    rw [List.mem_singleton] at hx; subst hx; exact h hy
  split
  · exact (startElect_after (Changes.refl allParts [.one HS_STATUS_DISC.bit] e) (by decide) (by decide)).rd w
  · exact (checkDiscovery_after (Changes.refl allParts [.one HS_STATUS_DISC.bit] e) (by decide) (by decide)).rd w
theorem elect_mem (e : Dev) (c : Prop) [Decidable c] : (if c then startElect e else checkDiscovery e).mem = e.mem := by
  split
  · exact ((startElect_after (Changes.refl _ _ _) (within_refl _) (covers_refl _)).parts .mem (by decide))
  · exact ((checkDiscovery_after (Changes.refl _ _ _) (within_refl _) (covers_refl _)).parts .mem (by decide))

theorem trainInfo_eff (p : Fin 4) (i : TrainInfo) (d : Dev) (hr : d.coreRuns = true) (hl : d.link p.val = 4) (hb : i.booting = false) (hf : d.marksBooting p.val = false) :
    let e := Machine.trainInfo p.val i d
    e.link p.val = (if i.unit.toNat = d.rd GC_UNITID_ID then 7 else if i.fabric.toNat ≠ d.rd HS_FABRIC_ID_ID then 6 else 5) ∧
    e.rd (HSP_NEIGH_ID p.val) = i.unit.toNat ∧ e.rd (HSP_DIAG_LEN_M p.val) = i.length.toNat ∧ e.rd (HSP_DIAG_SNR p.val) = i.snr.toNat ∧
    (i.unit.toNat = d.rd GC_UNITID_ID → e.rd (HSP_STATUS_LOOP_SEEN p.val) = 1) ∧
    (i.unit.toNat ≠ d.rd GC_UNITID_ID → i.fabric.toNat ≠ d.rd HS_FABRIC_ID_ID → e.rd (HSP_STATUS_FOREIGN_SEEN p.val) = 1) ∧ e.mem = d.mem := by
  obtain ⟨n1, n2, n3⟩ := trainNoted_rd p i d
  have nm : (trainNoted p.val i d).mem = d.mem := rfl
  dsimp only
  rw [trainInfo_to p i d hr hl hb hf]
  generalize trainNoted p.val i d = x at n1 n2 n3 nm ⊢
  by_cases h1 : i.unit.toNat = d.rd GC_UNITID_ID
  · rw [if_pos h1, if_pos h1]
    refine ⟨(Dev.rd_raise_ne _ (bit_ne p HSP_STATUS_LINK HSP_STATUS_LOOP_SEEN (by decide))).trans (setLink_link _ 7 x (by omega) p.isLt), ?_, ?_, ?_,
      fun _ => Dev.rd_raise_same _ _, fun h => absurd h1 h, nm⟩
    · exact ((Dev.rd_raise_ne _ (bit_ne p HSP_NEIGH_ID HSP_STATUS_LOOP_SEEN (by decide))).trans (setLink_rd _ _ _ (bit_ne p HSP_NEIGH_ID HSP_STATUS_LINK (by decide)) (bit_ne p HSP_NEIGH_ID HSP_CFG_RETRAIN (by decide)))).trans n1
    · exact ((Dev.rd_raise_ne _ (bit_ne p HSP_DIAG_LEN_M HSP_STATUS_LOOP_SEEN (by decide))).trans (setLink_rd _ _ _ (bit_ne p HSP_DIAG_LEN_M HSP_STATUS_LINK (by decide)) (bit_ne p HSP_DIAG_LEN_M HSP_CFG_RETRAIN (by decide)))).trans n2
    · exact ((Dev.rd_raise_ne _ (bit_ne p HSP_DIAG_SNR HSP_STATUS_LOOP_SEEN (by decide))).trans (setLink_rd _ _ _ (bit_ne p HSP_DIAG_SNR HSP_STATUS_LINK (by decide)) (bit_ne p HSP_DIAG_SNR HSP_CFG_RETRAIN (by decide)))).trans n3
  · rw [if_neg h1, if_neg h1]
    by_cases h2 : i.fabric.toNat ≠ d.rd HS_FABRIC_ID_ID
    · rw [if_pos h2, if_pos h2]
      refine ⟨(Dev.rd_raise_ne _ (bit_ne p HSP_STATUS_LINK HSP_STATUS_FOREIGN_SEEN (by decide))).trans (setLink_link _ 6 x (by omega) p.isLt), ?_, ?_, ?_,
        fun h => absurd h h1, fun _ _ => Dev.rd_raise_same _ _, nm⟩
      · exact ((Dev.rd_raise_ne _ (bit_ne p HSP_NEIGH_ID HSP_STATUS_FOREIGN_SEEN (by decide))).trans (setLink_rd _ _ _ (bit_ne p HSP_NEIGH_ID HSP_STATUS_LINK (by decide)) (bit_ne p HSP_NEIGH_ID HSP_CFG_RETRAIN (by decide)))).trans n1
      · exact ((Dev.rd_raise_ne _ (bit_ne p HSP_DIAG_LEN_M HSP_STATUS_FOREIGN_SEEN (by decide))).trans (setLink_rd _ _ _ (bit_ne p HSP_DIAG_LEN_M HSP_STATUS_LINK (by decide)) (bit_ne p HSP_DIAG_LEN_M HSP_CFG_RETRAIN (by decide)))).trans n2
      · exact ((Dev.rd_raise_ne _ (bit_ne p HSP_DIAG_SNR HSP_STATUS_FOREIGN_SEEN (by decide))).trans (setLink_rd _ _ _ (bit_ne p HSP_DIAG_SNR HSP_STATUS_LINK (by decide)) (bit_ne p HSP_DIAG_SNR HSP_CFG_RETRAIN (by decide)))).trans n3
    · rw [if_neg h2, if_neg h2]
      dsimp only
      have l := setLink_link p.val lUP x (by decide) p.isLt
      have m1 := (setLink_rd p.val lUP x (bit_ne p HSP_NEIGH_ID HSP_STATUS_LINK (by decide)) (bit_ne p HSP_NEIGH_ID HSP_CFG_RETRAIN (by decide))).trans n1
      have m2 := (setLink_rd p.val lUP x (bit_ne p HSP_DIAG_LEN_M HSP_STATUS_LINK (by decide)) (bit_ne p HSP_DIAG_LEN_M HSP_CFG_RETRAIN (by decide))).trans n2
      have m3 := (setLink_rd p.val lUP x (bit_ne p HSP_DIAG_SNR HSP_STATUS_LINK (by decide)) (bit_ne p HSP_DIAG_SNR HSP_CFG_RETRAIN (by decide))).trans n3
      have m4 : (setLink p.val lUP x).mem = d.mem := nm
      generalize setLink p.val lUP x = e at l m1 m2 m3 m4 ⊢
      refine ⟨?_, ?_, ?_, ?_, fun h => absurd h h1, fun _ h => absurd h h2, ?_⟩
      · rw [settled_link]; exact (elect_rd e _ ((by decide : ∀ q : Fin 4, (HSP_STATUS_LINK q.val).bit ≠ HS_STATUS_DISC.bit) p)).trans l
      · rw [settled_neigh]; exact (elect_rd e _ ((by decide : ∀ q : Fin 4, (HSP_NEIGH_ID q.val).bit ≠ HS_STATUS_DISC.bit) p)).trans m1
      · rw [settled_len]; exact (elect_rd e _ ((by decide : ∀ q : Fin 4, (HSP_DIAG_LEN_M q.val).bit ≠ HS_STATUS_DISC.bit) p)).trans m2
      · rw [settled_snr]; exact (elect_rd e _ ((by decide : ∀ q : Fin 4, (HSP_DIAG_SNR q.val).bit ≠ HS_STATUS_DISC.bit) p)).trans m3
      · rw [settled_mem]; exact (elect_mem e _).trans m4

theorem linkDropEvent_eff (p : Fin 4) (d : Dev) (hr : d.coreRuns = true) (hl : d.link p.val = 5 ∨ d.link p.val = 8) :
    let e := linkDropEvent p.val d
    e.link p.val = 1 ∧ e.rd (HSP_STATUS_DOWN_SEEN p.val) = 1 ∧ e.rd (HSP_ERR_DOWN p.val) = min (d.rd (HSP_ERR_DOWN p.val) + 1) 255 ∧
    e.rd (HSP_STATUS_NEIGH_VALID p.val) = 0 ∧ e.mem = d.mem ∧ e.power = d.power := by
  have hc : d.carries p.val = true := by
    show (d.coreRuns && _) = true
    rw [hr]; obtain h | h := hl <;> rw [h] <;> rfl
  dsimp only
  unfold linkDropEvent
  rw [if_pos hc]
  exact ⟨(afterDrop_link _ _ p).trans (linkDrop_link p d), (afterDrop_seen _ _ p).trans (linkDrop_seen p d), (afterDrop_down _ _ p).trans (linkDrop_down p d),
    (afterDrop_neigh _ _ p).trans (linkDrop_neigh p d), (afterDrop_mem _ _).trans (linkDrop_mem _ d), (afterDrop_power _ _).trans (linkDrop_power _ d)⟩

theorem retrain_eff (p : Fin 4) (d : Dev) (h0 : d.link p.val ≠ 0) :
    (Machine.retrain p.val d).link p.val = 1 ∧ (Machine.retrain p.val d).mem = d.mem ∧ (Machine.retrain p.val d).power = d.power ∧
    ((d.link p.val = 5 ∨ d.link p.val = 8) → (Machine.retrain p.val d).rd (HSP_STATUS_DOWN_SEEN p.val) = 1) := by
  unfold Machine.retrain
  rw [if_neg h0]
  by_cases h : d.link p.val = 5 ∨ d.link p.val = 8
  · rw [if_pos (by rw [Bool.or_eq_true, decide_eq_true_eq, decide_eq_true_eq]; exact h)]
    exact ⟨(afterDrop_link _ _ p).trans (linkDrop_link p d), (afterDrop_mem _ _).trans (linkDrop_mem _ d), (afterDrop_power _ _).trans (linkDrop_power _ d),
      fun _ => (afterDrop_seen _ _ p).trans (linkDrop_seen p d)⟩
  · rw [if_neg (by rw [Bool.or_eq_true, decide_eq_true_eq, decide_eq_true_eq]; exact h)]
    exact ⟨setLink_link p.val 1 d (by omega) p.isLt, rfl, rfl, fun k => absurd k h⟩

/-- RETRAIN as its row runs it, over a path that reaches the Hawser. -/
theorem retrain_row (a : Path) (p : Fin 4) (c : Bool) (d : Dev) (hr : d.reaches a 0x8000 = true) (h0 : d.link p.val ≠ 0) (hd : d.power.linkDue = false) :
    let e := linkReset (onPort 0x8000 a (fun d => Machine.retrain p.val (if c then d.wr HS_CMD_STATUS_CODE cDONE else d)) { d with out := [] })
    e.link p.val = 1 ∧ e.mem = d.mem ∧ ((d.link p.val = 5 ∨ d.link p.val = 8) → e.rd (HSP_STATUS_DOWN_SEEN p.val) = 1) := by
  have hx : ∀ y : Dev, (if c then y.wr HS_CMD_STATUS_CODE cDONE else y).link p.val = y.link p.val := fun y => by
    cases c
    · rfl
    · exact Dev.rd_wr_ne _ _ ((by decide : ∀ q : Fin 4, (HSP_STATUS_LINK q.val).bit ≠ HS_CMD_STATUS_CODE.bit) p)
  have hl : (if c then (d.accessed a).wr HS_CMD_STATUS_CODE cDONE else d.accessed a).link p.val = d.link p.val := (hx _).trans (accessed_rd d a _)
  have hm : (if c then (d.accessed a).wr HS_CMD_STATUS_CODE cDONE else d.accessed a).mem = d.mem := by
    cases c <;> exact Dev.accessed_mem d a
  have hp : (if c then (d.accessed a).wr HS_CMD_STATUS_CODE cDONE else d.accessed a).power = d.power := by
    cases c <;> exact Dev.beginAccess_power _ a
  dsimp only
  rw [onPort_reached _ hr]
  generalize (if c then (d.accessed a).wr HS_CMD_STATUS_CODE cDONE else d.accessed a) = y at hl hm hp ⊢
  obtain ⟨k1, k2, k3, k4⟩ := retrain_eff p y (by rw [hl]; exact h0)
  rw [linkReset_idle _ (by rw [k3, hp]; exact hd)]
  exact ⟨k1, k2.trans hm, fun h => k4 (by rw [hl]; exact h)⟩

theorem half_fields (q l s : Nat) (hl : l ≤ 1) (hs : s < 4096) : (q * 16384 + l * 8192 + s) / 16384 = q ∧ (q * 16384 + l * 8192 + s) % 4096 = s ∧
    (q * 16384 + l * 8192 + s) / 8192 % 2 = l := by omega

theorem leNat_two (n : Nat) (h : n < 65536) : leNat [BitVec.ofNat 8 n, BitVec.ofNat 8 (n / 256)] = n := by
  have := leNat_leBytes 2 n
  show leNat (leBytes 2 n) = n
  rw [this]; exact Nat.mod_eq_of_lt h

theorem leNat_four (n : Nat) (h : n < 4294967296) : leNat (leBytes 4 n) = n := by
  rw [leNat_leBytes]; exact Nat.mod_eq_of_lt h

theorem crc32_lt (bs : List Byte) : crc32 bs < 4294967296 := Nat.lt_of_le_of_lt (Nat.sub_le _ _) (by decide)

/-- The bytes of a packet, one by one. -/
theorem packet_bytes (x : Packet) : ∃ c : Nat, x.bytes = leBytes 2 (x.cls * 4096 + x.dst % 4096) ++ (leBytes 2 (x.qsel * 16384 + b2n x.loc * 8192 + x.src % 4096) ++
    ([BitVec.ofNat 8 x.ttl, BitVec.ofNat 8 x.typ] ++ (leBytes 2 x.body.length ++ (leBytes 2 x.pseq ++ ([0, 0] ++ (leBytes 4 c ++ x.body)))))) ∧
    c = crc32 ((x.bytes).take 12 ++ x.body) := by
  refine ⟨_, ?_, rfl⟩
  unfold Packet.bytes
  dsimp only
  simp only [List.append_assoc]
  rfl

theorem port_modPort (p : Nat) (g : HsPort → HsPort) (d : Dev) (h : p < 4) : (d.modPort p g).port p = g (d.port p) := vget_vmod_same _ _ _ _ h
theorem port_of_hs {d e : Dev} (h : e.hs = d.hs) (p : Nat) : e.port p = d.port p := by unfold Dev.port; rw [h]
theorem modPort_mem (p : Nat) (g : HsPort → HsPort) (d : Dev) : (d.modPort p g).mem = d.mem := rfl
theorem modPort_power (p : Nat) (g : HsPort → HsPort) (d : Dev) : (d.modPort p g).power = d.power := rfl
theorem modPort_regs (p : Nat) (g : HsPort → HsPort) (d : Dev) : (d.modPort p g).regs = d.regs := rfl
theorem link_of_regs {d e : Dev} (h : e.regs = d.regs) (p : Nat) : e.link p = d.link p := Dev.rd_of_regs h _

theorem carries_link {d : Dev} {p : Nat} (h : d.carries p = true) : d.coreRuns = true ∧ (d.link p = 5 ∨ d.link p = 8) := by
  have : (d.coreRuns && (d.link p == 5 || d.link p == 8)) = true := h
  rw [Bool.and_eq_true, Bool.or_eq_true, beq_iff_eq, beq_iff_eq] at this
  exact this

theorem withDrop_kept (p : Nat) (f : Dev → Dev) (d : Dev) (h : (f d).link p ≠ 1) : withDrop p f d = f d := by
  unfold withDrop
  dsimp only
  rw [decide_eq_false h, Bool.and_false, if_neg (by decide)]

/-- What a codeword leaves before its frame is looked at. -/
def codewordNoted (p : Nat) (i n : Byte) (d : Dev) : Dev := ((d.count (HSP_CW_COUNT p) 1).wr (HSP_DIAG_ITER_AVG p) i.toNat).wr (HSP_DIAG_SNR p) n.toNat

theorem codewordNoted_eff (p : Fin 4) (i n : Byte) (d : Dev) : (codewordNoted p.val i n d).rd (HSP_CW_COUNT p.val) = (d.rd (HSP_CW_COUNT p.val) + 1) % 2 ^ 64 ∧
    (codewordNoted p.val i n d).rd (HSP_DIAG_ITER_AVG p.val) = i.toNat ∧ (codewordNoted p.val i n d).link p.val = d.link p.val ∧
    (codewordNoted p.val i n d).rd (HSP_ERR_CW_FAIL p.val) = d.rd (HSP_ERR_CW_FAIL p.val) := by
  refine ⟨?_, ?_, ?_, ?_⟩
  · refine (Dev.rd_wr_ne _ _ (bit_ne p HSP_CW_COUNT HSP_DIAG_SNR (by decide))).trans ((Dev.rd_wr_ne _ _ (bit_ne p HSP_CW_COUNT HSP_DIAG_ITER_AVG (by decide))).trans ?_)
    exact Dev.rd_wr_same d (HSP_CW_COUNT p.val) _
  · exact (Dev.rd_wr_ne _ _ (bit_ne p HSP_DIAG_ITER_AVG HSP_DIAG_SNR (by decide))).trans ((Dev.rd_wr_same _ (HSP_DIAG_ITER_AVG p.val) _).trans (Nat.mod_eq_of_lt i.isLt))
  · exact (Dev.rd_wr_ne _ _ (bit_ne p HSP_STATUS_LINK HSP_DIAG_SNR (by decide))).trans ((Dev.rd_wr_ne _ _ (bit_ne p HSP_STATUS_LINK HSP_DIAG_ITER_AVG (by decide))).trans
      (Dev.rd_count_ne _ _ (bit_ne p HSP_STATUS_LINK HSP_CW_COUNT (by decide))))
  · exact (Dev.rd_wr_ne _ _ (bit_ne p HSP_ERR_CW_FAIL HSP_DIAG_SNR (by decide))).trans ((Dev.rd_wr_ne _ _ (bit_ne p HSP_ERR_CW_FAIL HSP_DIAG_ITER_AVG (by decide))).trans
      (Dev.rd_count_ne _ _ (bit_ne p HSP_ERR_CW_FAIL HSP_CW_COUNT (by decide))))

theorem gapSeen_port (p : Nat) (d : Dev) (h : p < 4) : ((gapSeen p d).port p).failed = (d.port p).failed ∧ ((gapSeen p d).port p).gap = true ∧
    ((d.port p).gap = false → ((gapSeen p d).port p).nakDue = true) ∧ (gapSeen p d).regs = d.regs ∧ (gapSeen p d).mem = d.mem ∧ (gapSeen p d).power = d.power := by
  unfold gapSeen
  rw [port_modPort _ _ _ h]
  by_cases hg : (d.port p).gap = true
  · rw [if_pos hg]
    exact ⟨rfl, hg, fun h => absurd (hg.symm.trans h) (by decide), rfl, rfl, rfl⟩
  · rw [if_neg hg]
    exact ⟨rfl, rfl, fun _ => rfl, rfl, rfl, rfl⟩

theorem codeword_failed (p : Fin 4) (c : Bool) (i n : Byte) (d : Dev) (hc : d.carries p.val = true) (hf : (d.port p.val).failed < 31) :
    let e := codeword p.val none c i n d
    (e.port p.val).failed = (d.port p.val).failed + 1 ∧ (e.port p.val).gap = true ∧ ((d.port p.val).gap = false → (e.port p.val).nakDue = true) ∧
    e.rd (HSP_CW_COUNT p.val) = (d.rd (HSP_CW_COUNT p.val) + 1) % 2 ^ 64 ∧ e.rd (HSP_ERR_CW_FAIL p.val) = min (d.rd (HSP_ERR_CW_FAIL p.val) + 1) 255 ∧
    e.rd (HSP_DIAG_ITER_AVG p.val) = i.toNat ∧ e.mem = d.mem ∧ e.power = d.power ∧ e.link p.val = d.link p.val := by
  obtain ⟨n1, n2, n3, n4⟩ := codewordNoted_eff p i n d
  have nh : (codewordNoted p.val i n d).port p.val = d.port p.val := rfl
  have nm : (codewordNoted p.val i n d).mem = d.mem := rfl
  have np : (codewordNoted p.val i n d).power = d.power := rfl
  have e : codeword p.val none c i n d =
      (let x := gapSeen p.val (((codewordNoted p.val i n d).countSat (HSP_ERR_CW_FAIL p.val) 1).modPort p.val fun x => { x with failed := x.failed + 1 })
       if 32 ≤ (x.port p.val).failed then linkDrop p.val x else x) := by
    unfold codeword
    rw [hc]; rfl
  dsimp only at e ⊢
  rw [e]
  generalize codewordNoted p.val i n d = x at n1 n2 n3 n4 nh nm np ⊢
  have y := port_modPort p.val (fun x => { x with failed := x.failed + 1 }) (x.countSat (HSP_ERR_CW_FAIL p.val) 1) p.isLt
  have yh : ((x.countSat (HSP_ERR_CW_FAIL p.val) 1).modPort p.val fun x => { x with failed := x.failed + 1 }).port p.val = { d.port p.val with failed := (d.port p.val).failed + 1 } :=
    y.trans (by rw [← nh]; rfl)
  have yc : ((x.countSat (HSP_ERR_CW_FAIL p.val) 1).modPort p.val fun x => { x with failed := x.failed + 1 }).rd (HSP_CW_COUNT p.val) = (d.rd (HSP_CW_COUNT p.val) + 1) % 2 ^ 64 :=
    (Dev.rd_countSat_ne _ _ (bit_ne p HSP_CW_COUNT HSP_ERR_CW_FAIL (by decide))).trans n1
  have yf : ((x.countSat (HSP_ERR_CW_FAIL p.val) 1).modPort p.val fun x => { x with failed := x.failed + 1 }).rd (HSP_ERR_CW_FAIL p.val) = min (d.rd (HSP_ERR_CW_FAIL p.val) + 1) 255 := by
    refine (Dev.rd_wr_same x (HSP_ERR_CW_FAIL p.val) _).trans ?_
    rw [n4]; show min (d.rd (HSP_ERR_CW_FAIL p.val) + 1) 255 % 256 = _; omega
  have yi : ((x.countSat (HSP_ERR_CW_FAIL p.val) 1).modPort p.val fun x => { x with failed := x.failed + 1 }).rd (HSP_DIAG_ITER_AVG p.val) = i.toNat :=
    (Dev.rd_countSat_ne _ _ (bit_ne p HSP_DIAG_ITER_AVG HSP_ERR_CW_FAIL (by decide))).trans n2
  have yl : ((x.countSat (HSP_ERR_CW_FAIL p.val) 1).modPort p.val fun x => { x with failed := x.failed + 1 }).link p.val = d.link p.val :=
    (Dev.rd_countSat_ne _ _ (bit_ne p HSP_STATUS_LINK HSP_ERR_CW_FAIL (by decide))).trans n3
  have ym : ((x.countSat (HSP_ERR_CW_FAIL p.val) 1).modPort p.val fun x => { x with failed := x.failed + 1 }).mem = d.mem := nm
  have yp : ((x.countSat (HSP_ERR_CW_FAIL p.val) 1).modPort p.val fun x => { x with failed := x.failed + 1 }).power = d.power := np
  generalize (x.countSat (HSP_ERR_CW_FAIL p.val) 1).modPort p.val (fun x => { x with failed := x.failed + 1 }) = z at yh yc yf yi yl ym yp ⊢
  obtain ⟨g1, g2, g3, g4, g5, g6⟩ := gapSeen_port p.val z p.isLt
  rw [if_neg (by rw [g1, yh]; show ¬ 32 ≤ (d.port p.val).failed + 1; omega)]
  rw [yh] at g1 g3
  exact ⟨g1, g2, g3, (Dev.rd_of_regs g4 _).trans yc, (Dev.rd_of_regs g4 _).trans yf, (Dev.rd_of_regs g4 _).trans yi, g5.trans ym, g6.trans yp, (link_of_regs g4 _).trans yl⟩

/-- A decoded codeword, before its acknowledgement. -/
def codewordGood (p : Nat) (c : Bool) (i n : Byte) (d : Dev) : Dev :=
  (if c then (codewordNoted p i n d).count (HSP_CORR_COUNT p) 1 else codewordNoted p i n d).modPort p fun x => { x with failed := 0 }

theorem codewordGood_eff (p : Fin 4) (c : Bool) (i n : Byte) (d : Dev) :
    (codewordGood p.val c i n d).port p.val = { d.port p.val with failed := 0 } ∧ (codewordGood p.val c i n d).rd (HSP_CW_COUNT p.val) = (d.rd (HSP_CW_COUNT p.val) + 1) % 2 ^ 64 ∧
    (codewordGood p.val c i n d).link p.val = d.link p.val ∧ (codewordGood p.val c i n d).mem = d.mem ∧ (codewordGood p.val c i n d).power = d.power ∧
    (codewordGood p.val c i n d).coreRuns = d.coreRuns := by
  obtain ⟨n1, n2, n3, n4⟩ := codewordNoted_eff p i n d
  have nh : (codewordNoted p.val i n d).port p.val = d.port p.val := rfl
  have cur : (codewordNoted p.val i n d).rd PW_STATE_CUR = d.rd PW_STATE_CUR :=
    (Dev.rd_wr_ne _ _ ((by decide : ∀ q : Fin 4, PW_STATE_CUR.bit ≠ (HSP_DIAG_SNR q.val).bit) p)).trans
      ((Dev.rd_wr_ne _ _ ((by decide : ∀ q : Fin 4, PW_STATE_CUR.bit ≠ (HSP_DIAG_ITER_AVG q.val).bit) p)).trans
        (Dev.rd_count_ne _ _ ((by decide : ∀ q : Fin 4, PW_STATE_CUR.bit ≠ (HSP_CW_COUNT q.val).bit) p)))
  have pll : (codewordNoted p.val i n d).rd GC_STATUS_PLLA_LOCK = d.rd GC_STATUS_PLLA_LOCK :=
    (Dev.rd_wr_ne _ _ ((by decide : ∀ q : Fin 4, GC_STATUS_PLLA_LOCK.bit ≠ (HSP_DIAG_SNR q.val).bit) p)).trans
      ((Dev.rd_wr_ne _ _ ((by decide : ∀ q : Fin 4, GC_STATUS_PLLA_LOCK.bit ≠ (HSP_DIAG_ITER_AVG q.val).bit) p)).trans
        (Dev.rd_count_ne _ _ ((by decide : ∀ q : Fin 4, GC_STATUS_PLLA_LOCK.bit ≠ (HSP_CW_COUNT q.val).bit) p)))
  have np : (codewordNoted p.val i n d).power = d.power := rfl
  have nm : (codewordNoted p.val i n d).mem = d.mem := rfl
  unfold codewordGood
  generalize codewordNoted p.val i n d = x at n1 n2 n3 n4 nh cur pll np nm ⊢
  cases c with
  | false =>
    refine ⟨(port_modPort _ _ x p.isLt).trans (by rw [nh]), n1, n3, nm, np, coreRuns_of np cur pll⟩
  | true =>
    have q1 : (x.count (HSP_CORR_COUNT p.val) 1).rd PW_STATE_CUR = d.rd PW_STATE_CUR :=
      (Dev.rd_count_ne _ _ ((by decide : ∀ q : Fin 4, PW_STATE_CUR.bit ≠ (HSP_CORR_COUNT q.val).bit) p)).trans cur
    have q2 : (x.count (HSP_CORR_COUNT p.val) 1).rd GC_STATUS_PLLA_LOCK = d.rd GC_STATUS_PLLA_LOCK :=
      (Dev.rd_count_ne _ _ ((by decide : ∀ q : Fin 4, GC_STATUS_PLLA_LOCK.bit ≠ (HSP_CORR_COUNT q.val).bit) p)).trans pll
    refine ⟨(port_modPort _ _ _ p.isLt).trans (by rw [← nh]; rfl), ?_, ?_, nm, np, coreRuns_of np q1 q2⟩
    · exact (Dev.rd_count_ne _ _ (bit_ne p HSP_CW_COUNT HSP_CORR_COUNT (by decide))).trans n1
    · exact (Dev.rd_count_ne _ _ (bit_ne p HSP_STATUS_LINK HSP_CORR_COUNT (by decide))).trans n3

theorem codeword_some (p : Nat) (f : LinkFrame) (c : Bool) (i n : Byte) (d : Dev) (hc : d.carries p = true) (hn : f.nak = false) :
    codeword p (some f) c i n d =
      (let z := ackFrames p f.ack.toNat (codewordGood p c i n d)
       if f.kind.val = 1 && z.carries p then dataFrame p f z else z) := by
  unfold codeword
  rw [hc]
  dsimp only
  rw [hn]; rfl

theorem carries_of {d e : Dev} (p : Nat) (hr : e.coreRuns = d.coreRuns) (hl : e.link p = d.link p) : e.carries p = d.carries p := by
  unfold Dev.carries Dev.hsRuns; rw [hr, hl]

theorem codeword_data (p : Fin 4) (f : LinkFrame) (c : Bool) (i n : Byte) (d : Dev) (hc : d.carries p.val = true) (hk : f.kind.val = 1) (hn : f.nak = false)
    (hs : f.fseq.toNat = (d.port p.val).expect) (hw : (d.port p.val).window = []) :
    let e := codeword p.val (some f) c i n d
    let r := takeStream (if f.control then (d.port p.val).rxControl else (d.port p.val).rxMessage) f.start.val f.payload
    (e.port p.val).expect = (f.fseq.toNat + 1) % 256 ∧ (e.port p.val).arrived = (d.port p.val).arrived ++ r.1 ∧
    (if f.control then (e.port p.val).rxControl = r.2 else (e.port p.val).rxMessage = r.2) ∧ (e.port p.val).failed = 0 ∧
    e.rd (HSP_CW_COUNT p.val) = (d.rd (HSP_CW_COUNT p.val) + 1) % 2 ^ 64 ∧ e.mem = d.mem ∧ e.power = d.power ∧ e.link p.val = d.link p.val := by
  obtain ⟨g1, g2, g3, g4, g5, g6⟩ := codewordGood_eff p c i n d
  dsimp only
  rw [codeword_some p.val f c i n d hc hn]
  generalize codewordGood p.val c i n d = x at g1 g2 g3 g4 g5 g6 ⊢
  have ha : ackFrames p.val f.ack.toNat x = x := by
    unfold ackFrames
    dsimp only
    rw [g1, hw]; rfl
  dsimp only
  rw [ha, hk, carries_of p.val g6 g3, hc, if_pos (by decide)]
  have hd : dataFrame p.val f x = x.modPort p.val fun y =>
      let r := takeStream (if f.control then (x.port p.val).rxControl else (x.port p.val).rxMessage) f.start.val f.payload
      let y := { y with expect := (y.expect + 1) % 256, gap := false, arrived := y.arrived ++ r.1 }
      if f.control then { y with rxControl := r.2 } else { y with rxMessage := r.2 } := by
    unfold dataFrame
    dsimp only
    rw [g1, if_neg (by show ¬ f.fseq.toNat ≠ (d.port p.val).expect; exact not_not_intro hs)]
  rw [hd, port_modPort _ _ _ p.isLt, g1]
  dsimp only
  cases hf : f.control with
  | true => exact ⟨by rw [hs]; rfl, rfl, by rfl, rfl, g2, g4, g5, g3⟩
  | false => exact ⟨by rw [hs]; rfl, rfl, by rfl, rfl, g2, g4, g5, g3⟩

theorem codeword_ack (p : Fin 4) (f : LinkFrame) (c : Bool) (i n : Byte) (d : Dev) (k : Nat) (hc : d.carries p.val = true) (hk : f.kind.val = 0) (hn : f.nak = false)
    (hw : (d.port p.val).window.findIdx? (·.fseq = f.ack.toNat) = some k) :
    let e := codeword p.val (some f) c i n d
    (e.port p.val).window = (d.port p.val).window.drop (k + 1) ∧ (e.port p.val).expect = (d.port p.val).expect ∧ e.mem = d.mem ∧ e.power = d.power ∧
    e.link p.val = d.link p.val := by
  obtain ⟨g1, g2, g3, g4, g5, g6⟩ := codewordGood_eff p c i n d
  dsimp only
  rw [codeword_some p.val f c i n d hc hn]
  generalize codewordGood p.val c i n d = x at g1 g2 g3 g4 g5 g6 ⊢
  have ha : ackFrames p.val f.ack.toNat x = x.modPort p.val fun y => { y with window := (d.port p.val).window.drop (k + 1), cursor := y.cursor - (k + 1) } := by
    unfold ackFrames
    dsimp only
    rw [g1, hw]
  dsimp only
  rw [ha, hk, if_neg (by simp), port_modPort _ _ _ p.isLt, g1]
  exact ⟨rfl, rfl, g4, g5, g3⟩

theorem ackTimeout_eff (p : Fin 4) (d : Dev) (f : TxFrame) (fs : List TxFrame) (hc : d.carries p.val = true) (hw : (d.port p.val).window = f :: fs)
    (hr : f.resent < d.rd (HSP_CFG_RETRY_MAX p.val)) :
    Machine.ackTimeout p.val d = d.modPort p.val fun x => { x with window := { f with resent := f.resent + 1 } :: fs, cursor := 0 } := by
  unfold Machine.ackTimeout
  rw [if_pos hc]
  unfold goBack
  rw [hw]
  exact if_neg (by omega)

theorem regFinish_none (d : Dev) (h : d.hs.reply = none) : regFinish d = d := by unfold regFinish; rw [h]

theorem sendSurveys_none (d : Dev) (h : d.ts.outbox = []) : sendSurveys d = d := by
  unfold sendSurveys
  dsimp only
  rw [h]
  show ({ d with ts := { d.ts with outbox := [] } } : Dev) = d
  rw [← h]

theorem serveBoot_none (p : Nat) (d : Dev) (h : d.hs.serving = none) : serveBoot p d = d := by unfold serveBoot; rw [h]

theorem not_exchange {d : Dev} {p : Nat} (h : d.carries p = true) : ¬ (d.hsRuns && d.link p = lEXCHANGE) = true := by
  rcases (carries_link h).2 with g | g <;> rw [g] <;> simp [lEXCHANGE]

theorem frameSend_idle (p : Fin 4) (d : Dev) (hc : d.carries p.val = true) (hv : d.hs.serving = none) (ht : (d.port p.val).times = []) (hk : (d.port p.val).nakDue = false)
    (hw : (d.port p.val).window.drop (d.port p.val).cursor = []) (h1 : (d.port p.val).control.busy = false) (h2 : (d.port p.val).message.busy = false) :
    Machine.linkFrameSend p.val d = { d with out := bytesToWords (frameBytes 0 0 (((d.port p.val).expect + 255) % 256) false false 0x3FF []) } := by
  unfold Machine.linkFrameSend
  rw [if_neg (not_exchange hc), hc]
  dsimp only
  rw [serveBoot_none p.val d hv, ht, hk]
  dsimp only
  rw [hw, h1, h2]
  simp

theorem frameSend_data (p : Fin 4) (d : Dev) (hc : d.carries p.val = true) (hv : d.hs.serving = none) (ht : (d.port p.val).times = []) (hk : (d.port p.val).nakDue = false)
    (hw : (d.port p.val).window.drop (d.port p.val).cursor = []) (h1 : (d.port p.val).control.busy = false) (h2 : (d.port p.val).message.busy = true)
    (hl : (d.port p.val).window.length < 64) :
    let r := nextData (d.port p.val).message false (d.port p.val).nextSeq
    Machine.linkFrameSend p.val d = { (d.modPort p.val fun x => { x.modLane false (fun _ => r.2) with window := x.window ++ [r.1], cursor := x.cursor + 1, nextSeq := (x.nextSeq + 1) % 256 }) with
      out := bytesToWords (frameBytes 1 r.1.fseq (((d.port p.val).expect + 255) % 256) false false r.1.start r.1.payload) } := by
  have e : (d.port p.val).lane false = (d.port p.val).message := rfl
  unfold Machine.linkFrameSend
  rw [if_neg (not_exchange hc), hc]
  dsimp only
  rw [serveBoot_none p.val d hv, ht, hk]
  dsimp only
  rw [hw, h1, h2, decide_eq_true hl]
  simp only [Bool.not_true, Bool.false_eq_true, if_false, Bool.or_true, Bool.and_self, if_true, e, Bool.false_or]

theorem packetReceived_eff (p : Fin 4) (d : Dev) (bs : List Byte) (rest : List (List Byte)) (hr : d.hsRuns = true) (ha : (d.port p.val).arrived = bs :: rest)
    (hp : d.applied = true) (hl : d.link p.val = 5) :
    let x := parsePacket bs
    let e := d.modPort p.val fun y => { y with arrived := rest }
    Machine.packetReceived p.val d = (if !(x.loc || (d.on HS_STATUS_ADDR_VALID && x.dst = d.rd HS_STATUS_ADDR)) then forward x e
      else if !pcrcOk bs then e.countSat HS_STATS_FWD_DROP 1 else deliver p.val x bs e) := by
  have hl' : (d.modPort p.val fun y => { y with arrived := rest }).link p.val = 5 := hl
  have hp' : (d.modPort p.val fun y => { y with arrived := rest }).applied = true := hp
  dsimp only
  unfold Machine.packetReceived
  rw [ha, hr]
  dsimp only
  rw [hl', hp', if_neg (by simp [lBOOT_PEER]), if_neg (by decide)]
  rfl

theorem ackTimeout_row (p : Fin 4) (d : Dev) (f : TxFrame) (fs : List TxFrame) (hc : d.carries p.val = true) (hd : d.power.linkDue = false)
    (hw : (d.port p.val).window = f :: fs) (hr : f.resent < d.rd (HSP_CFG_RETRY_MAX p.val)) :
    let e := linkReset (withDrop p.val (Machine.ackTimeout p.val) d)
    (e.port p.val).window = { f with resent := f.resent + 1 } :: fs ∧ (e.port p.val).cursor = 0 ∧ e.regs = d.regs ∧ e.mem = d.mem := by
  have hl := (carries_link hc).2
  have k := ackTimeout_eff p d f fs hc hw hr
  dsimp only
  rw [withDrop_kept _ _ _ (by rw [k, show (d.modPort p.val fun x => { x with window := { f with resent := f.resent + 1 } :: fs, cursor := 0 }).link p.val = d.link p.val from rfl]; omega),
    k, linkReset_idle _ (by exact hd), port_modPort _ _ _ p.isLt]
  exact ⟨rfl, rfl, rfl, rfl⟩

theorem frameSend_idle_row (p : Fin 4) (d : Dev) (hc : d.carries p.val = true) (hd : d.power.linkDue = false) (h1 : d.hs.reply = none) (h2 : d.ts.outbox = [])
    (hv : d.hs.serving = none) (ht : (d.port p.val).times = []) (hk : (d.port p.val).nakDue = false)
    (hw : (d.port p.val).window.drop (d.port p.val).cursor = []) (h7 : (d.port p.val).control.busy = false) (h8 : (d.port p.val).message.busy = false) :
    let e := linkReset (Machine.linkFrameSend p.val (sendSurveys (regFinish d)))
    e.out = bytesToWords (frameBytes 0 0 (((d.port p.val).expect + 255) % 256) false false 0x3FF []) ∧ e.hs = d.hs ∧ e.regs = d.regs ∧ e.mem = d.mem := by
  dsimp only
  rw [regFinish_none _ h1, sendSurveys_none _ h2, frameSend_idle p d hc hv ht hk hw h7 h8, linkReset_idle _ (by exact hd)]
  exact ⟨rfl, rfl, rfl, rfl⟩

theorem frameSend_data_row (p : Fin 4) (d : Dev) (hc : d.carries p.val = true) (hd : d.power.linkDue = false) (h1 : d.hs.reply = none) (h2 : d.ts.outbox = [])
    (hv : d.hs.serving = none) (ht : (d.port p.val).times = []) (hk : (d.port p.val).nakDue = false)
    (hw : (d.port p.val).window.drop (d.port p.val).cursor = []) (h7 : (d.port p.val).control.busy = false) (h8 : (d.port p.val).message.busy = true)
    (h9 : (d.port p.val).window.length < 64) :
    let e := linkReset (Machine.linkFrameSend p.val (sendSurveys (regFinish d)))
    let r := nextData (d.port p.val).message false (d.port p.val).nextSeq
    e.out = bytesToWords (frameBytes 1 (d.port p.val).nextSeq (((d.port p.val).expect + 255) % 256) false false r.1.start r.1.payload) ∧
    (e.port p.val).window = (d.port p.val).window ++ [r.1] ∧ (e.port p.val).message = r.2 ∧ (e.port p.val).control = (d.port p.val).control ∧
    (e.port p.val).nextSeq = ((d.port p.val).nextSeq + 1) % 256 ∧ e.regs = d.regs ∧ e.mem = d.mem := by
  have k := frameSend_data p d hc hv ht hk hw h7 h8 h9
  dsimp only at k ⊢
  rw [regFinish_none _ h1, sendSurveys_none _ h2, k, linkReset_idle _ (by exact hd)]
  have e := port_modPort p.val (fun x => { x.modLane false (fun _ => (nextData (d.port p.val).message false (d.port p.val).nextSeq).2) with
      window := x.window ++ [(nextData (d.port p.val).message false (d.port p.val).nextSeq).1], cursor := x.cursor + 1, nextSeq := (x.nextSeq + 1) % 256 }) d p.isLt
  refine ⟨rfl, (congrArg HsPort.window e).trans rfl, (congrArg HsPort.message e).trans rfl, (congrArg HsPort.control e).trans rfl, (congrArg HsPort.nextSeq e).trans rfl, rfl, rfl⟩

theorem packetReceived_mine (p : Fin 4) (d : Dev) (bs : List Byte) (rest : List (List Byte)) (hr : d.hsRuns = true) (ha : (d.port p.val).arrived = bs :: rest)
    (hp : d.applied = true) (hl : d.link p.val = 5) (hok : pcrcOk bs = true) (hcls : (parsePacket bs).cls = 8)
    (hmine : (parsePacket bs).loc = true ∨ (d.on HS_STATUS_ADDR_VALID = true ∧ (parsePacket bs).dst = d.rd HS_STATUS_ADDR)) :
    Machine.packetReceived p.val d = (d.modPort p.val fun y => { y with arrived := rest }).post (28 + (parsePacket bs).qsel) 0x70 (packetItem (parsePacket bs)) := by
  have k := packetReceived_eff p d bs rest hr ha hp hl
  dsimp only at k
  have hm : (!((parsePacket bs).loc || (d.on HS_STATUS_ADDR_VALID && decide ((parsePacket bs).dst = d.rd HS_STATUS_ADDR)))) = false := by
    obtain h | ⟨h1, h2⟩ := hmine
    · rw [h]; rfl
    · rw [h1, decide_eq_true h2, Bool.and_self, Bool.or_true]; rfl
  rw [k, hm, if_neg (by decide), hok, if_neg (by decide)]
  unfold deliver
  rw [hcls]; rfl

theorem packetReceived_other (p : Fin 4) (d : Dev) (bs : List Byte) (rest : List (List Byte)) (q : Nat) (hr : d.hsRuns = true) (ha : (d.port p.val).arrived = bs :: rest)
    (hp : d.applied = true) (hl : d.link p.val = 5) (hloc : (parsePacket bs).loc = false) (hv : d.on HS_STATUS_ADDR_VALID = false) (ht : 1 < (parsePacket bs).ttl)
    (hn : d.nextHop (parsePacket bs).dst = some q) (hq : d.link q = 5) :
    Machine.packetReceived p.val d = sendOn q { parsePacket bs with ttl := (parsePacket bs).ttl - 1 }.bytes (d.modPort p.val fun y => { y with arrived := rest }) := by
  have k := packetReceived_eff p d bs rest hr ha hp hl
  dsimp only at k
  rw [k, hloc, hv, Bool.false_and, Bool.or_false, if_pos (by decide)]
  unfold forward
  have hn' : (d.modPort p.val fun y => { y with arrived := rest }).nextHop (parsePacket bs).dst = some q := hn
  have hq' : (d.modPort p.val fun y => { y with arrived := rest }).link q = 5 := hq
  rw [if_neg (by omega), hn']
  dsimp only
  rw [if_pos hq']

theorem codeword_failed_row (p : Fin 4) (c : Bool) (i n : Byte) (d : Dev) (hc : d.carries p.val = true) (hd : d.power.linkDue = false) (hf : (d.port p.val).failed < 31) :
    linkReset (withDrop p.val (codeword p.val none c i n) d) = codeword p.val none c i n d := by
  have hl := (carries_link hc).2
  obtain ⟨k1, k2, k3, k4, k5, k6, k7, k8, k9⟩ := codeword_failed p c i n d hc hf
  rw [withDrop_kept _ _ _ (by rw [k9]; omega), linkReset_idle _ (by rw [k8]; exact hd)]

theorem codeword_data_row (p : Fin 4) (f : LinkFrame) (c : Bool) (i n : Byte) (d : Dev) (hc : d.carries p.val = true) (hd : d.power.linkDue = false) (hk : f.kind.val = 1)
    (hn : f.nak = false) (hs : f.fseq.toNat = (d.port p.val).expect) (hw : (d.port p.val).window = []) :
    linkReset (withDrop p.val (codeword p.val (some f) c i n) d) = codeword p.val (some f) c i n d := by
  have hl := (carries_link hc).2
  obtain ⟨k1, k2, k3, k4, k5, k6, k7, k8⟩ := codeword_data p f c i n d hc hk hn hs hw
  rw [withDrop_kept _ _ _ (by rw [k8]; omega), linkReset_idle _ (by rw [k7]; exact hd)]

theorem codeword_ack_row (p : Fin 4) (f : LinkFrame) (c : Bool) (i n : Byte) (d : Dev) (k : Nat) (hc : d.carries p.val = true) (hd : d.power.linkDue = false)
    (hk : f.kind.val = 0) (hn : f.nak = false) (hw : (d.port p.val).window.findIdx? (·.fseq = f.ack.toNat) = some k) :
    linkReset (withDrop p.val (codeword p.val (some f) c i n) d) = codeword p.val (some f) c i n d := by
  have hl := (carries_link hc).2
  obtain ⟨k1, k2, k3, k4, k5⟩ := codeword_ack p f c i n d k hc hk hn hw
  rw [withDrop_kept _ _ _ (by rw [k5]; omega), linkReset_idle _ (by rw [k4]; exact hd)]

theorem packet_length (x : Packet) : x.bytes.length = 16 + x.body.length := by
  obtain ⟨c, e, _⟩ := packet_bytes x
  rw [e]; simp [leBytes_length]; omega

/-- Class and type are read back from any packet. -/
theorem packet_cls (x : Packet) (h : x.cls < 16) : (parsePacket x.bytes).cls = x.cls ∧ (parsePacket x.bytes).typ = x.typ % 256 := by
  obtain ⟨c, e, _⟩ := packet_bytes x
  obtain ⟨m, hm⟩ : ∃ m, m = x.cls * 4096 + x.dst % 4096 := ⟨_, rfl⟩
  have h2 : x.dst % 4096 < 4096 := Nat.mod_lt _ (by decide)
  have w0 : le16At x.bytes 0 = m := by rw [e, ← hm]; exact leNat_two _ (by omega)
  have w5 : u8At x.bytes 5 = x.typ % 256 := by rw [e]; rfl
  refine ⟨?_, w5⟩
  show le16At x.bytes 0 / 4096 = x.cls
  rw [w0, hm]; omega

theorem modHs_rd (g : HsSt → HsSt) (d : Dev) (f : Fld) : (d.modHs g).rd f = d.rd f := rfl
theorem modHs_on (g : HsSt → HsSt) (d : Dev) (f : Fld) : (d.modHs g).on f = d.on f := rfl

/-- A packet that fits its lane's buffer waits there. -/
theorem sendOn_eq (q : Nat) (x : Packet) (d : Dev) (h : x.cls < 16) (hr : ((d.port q).lane (controlClass x.cls)).waitingBytes + (16 + x.body.length) ≤ 65536) :
    sendOn q x.bytes d = (d.modHs fun h => { h with pid := d.hs.pid + 1 }).modPort q fun y => y.modLane (controlClass x.cls) fun l => { l with waiting := l.waiting ++ [(d.hs.pid + 1, x.bytes)] } := by
  have e := (packet_cls x h).1
  have hl := packet_length x
  generalize x.bytes = bs at e hl ⊢
  unfold sendOn Dev.room
  dsimp only
  rw [e, hl, decide_eq_true hr]
  rfl

theorem sendOn_port (q : Nat) (x : Packet) (d : Dev) (hq : q < 4) (h : x.cls < 16) (hr : ((d.port q).lane (controlClass x.cls)).waitingBytes + (16 + x.body.length) ≤ 65536) :
    (((sendOn q x.bytes d).port q).lane (controlClass x.cls)).waiting = ((d.port q).lane (controlClass x.cls)).waiting ++ [(d.hs.pid + 1, x.bytes)] ∧
    (sendOn q x.bytes d).regs = d.regs ∧ (sendOn q x.bytes d).mem = d.mem ∧ (sendOn q x.bytes d).hs.pseq = d.hs.pseq ∧ (sendOn q x.bytes d).hs.resetAt = d.hs.resetAt ∧
    (sendOn q x.bytes d).power = d.power := by
  rw [sendOn_eq q x d h hr]
  refine ⟨?_, rfl, rfl, rfl, rfl, rfl⟩
  rw [port_modPort _ _ _ hq]
  cases hc : controlClass x.cls <;> rfl

/-- A packet for another device, on its way. -/
theorem sendFrom_route (x : Packet) (d : Dev) (q : Nat) (h : x.cls < 16) (hl : x.loc = false) (ho : ¬ (d.on HS_STATUS_ADDR_VALID = true ∧ x.dst = d.rd HS_STATUS_ADDR))
    (hn : d.nextHop x.dst = some q) (hu : d.link q = 5) (hr : ((d.port q).lane (controlClass x.cls)).waitingBytes + (16 + x.body.length) ≤ 65536) :
    sendFrom x d = (cDONE, sendOn q x.bytes d) := by
  have hown : (d.on HS_STATUS_ADDR_VALID && decide (x.dst = d.rd HS_STATUS_ADDR)) = false := by
    rw [Bool.eq_false_iff]; intro k; rw [Bool.and_eq_true, decide_eq_true_eq] at k; exact ho k
  unfold sendFrom
  rw [hl, if_neg (by decide), hown, if_neg (by decide), hn]
  dsimp only
  rw [if_neg (by rw [hu]; decide)]
  unfold Dev.room
  rw [packet_length, decide_eq_true hr, if_pos rfl]

theorem hsSend_wait (p : Path) (w : Word) (d : Dev) (h : (((d.hs.asm.find? (·.1 = p)).map (·.2)).getD [] ++ [w]).length <
      2 + (bits (wordAt (((d.hs.asm.find? (·.1 = p)).map (·.2)).getD [] ++ [w]) 0) 11 0 + 3) / 4) :
    (p, ((d.hs.asm.find? (·.1 = p)).map (·.2)).getD [] ++ [w]) ∈ (Machine.hsSendWord p w d).hs.asm ∧ (Machine.hsSendWord p w d).regs = d.regs ∧
    (Machine.hsSendWord p w d).mem = d.mem := by
  unfold Machine.hsSendWord
  dsimp only
  generalize ((d.hs.asm.find? (·.1 = p)).map (·.2)).getD [] ++ [w] = ws at h ⊢
  have hb : bits (wordAt ws 0) 11 0 ≤ 4095 := by have := bits_lt (wordAt ws 0) 11 0; omega
  rw [Nat.min_eq_left hb, if_pos h]
  exact ⟨List.mem_append_right _ (List.mem_singleton.2 rfl), rfl, rfl⟩

theorem take_length_le (n : Nat) (bs : List Byte) : (bs.take n).length ≤ n := by rw [List.length_take]; omega

theorem hsSend_whole (p : Path) (w : Word) (d : Dev) (q : Nat) (ws : List Word) (hws : ((d.hs.asm.find? (·.1 = p)).map (·.2)).getD [] ++ [w] = ws) (hq : q < 4)
    (h1 : 2 + (bits (wordAt ws 0) 11 0 + 3) / 4 ≤ ws.length) (h2 : bits (wordAt ws 0) 11 0 ≤ 1008) (h3 : bits (wordAt ws 0) 16 12 = 8) (h4 : bit (wordAt ws 0) 17 = false)
    (h5 : d.on HS_STATUS_ADDR_VALID = true) (h6 : d.rd HS_STATUS_MODE ≠ 0) (h7 : bits (wordAt ws 0) 31 20 ≠ d.rd HS_STATUS_ADDR)
    (h8 : d.nextHop (bits (wordAt ws 0) 31 20) = some q) (h9 : d.link q = 5) (h10 : (d.port q).message.waitingBytes + 1024 ≤ 65536) :
    ((Machine.hsSendWord p w d).port q).message.waiting = (d.port q).message.waiting ++ [(d.hs.pid + 1,
      (⟨8, bits (wordAt ws 0) 31 20, bits (wordAt ws 0) 19 18, false, d.rd HS_STATUS_ADDR, d.rd HS_CFG_TTL, bits (wordAt ws 1) 31 24, d.hs.pseq,
              (wordsToBytes (ws.drop 2)).take (bits (wordAt ws 0) 11 0)⟩ : Packet).bytes)] ∧
    (Machine.hsSendWord p w d).rd HS_SEND_STATUS_CODE = 0 ∧ (Machine.hsSendWord p w d).rd HS_SEND_STATUS_PSEQ = d.hs.pseq % 65536 ∧
    (Machine.hsSendWord p w d).hs.pseq = (d.hs.pseq + 1) % 65536 ∧ (Machine.hsSendWord p w d).mem = d.mem := by
  have hb : bits (wordAt ws 0) 11 0 ≤ 4095 := by omega
  unfold Machine.hsSendWord
  dsimp only
  rw [hws, Nat.min_eq_left hb, if_neg (by omega), h3, decide_eq_false (by omega : ¬ 1008 < bits (wordAt ws 0) 11 0), if_neg (by decide)]
  have g1 : (!(d.modHs fun h => { h with asm := d.hs.asm.filter (·.1 ≠ p) }).on HS_STATUS_ADDR_VALID ||
      decide ((d.modHs fun h => { h with asm := d.hs.asm.filter (·.1 ≠ p) }).hsMode = 0)) = false := by
    show (!d.on HS_STATUS_ADDR_VALID || decide (d.rd HS_STATUS_MODE = 0)) = false
    rw [h5, decide_eq_false h6]; rfl
  rw [g1, if_neg (by decide), h4]
  have e1 : (d.modHs fun h => { h with asm := d.hs.asm.filter (·.1 ≠ p) }).rd HS_STATUS_ADDR = d.rd HS_STATUS_ADDR := rfl
  have e2 : (d.modHs fun h => { h with asm := d.hs.asm.filter (·.1 ≠ p) }).rd HS_CFG_TTL = d.rd HS_CFG_TTL := rfl
  have e3 : (d.modHs fun h => { h with asm := d.hs.asm.filter (·.1 ≠ p) }).hs.pseq = d.hs.pseq := rfl
  have e4 : (d.modHs fun h => { h with asm := d.hs.asm.filter (·.1 ≠ p) }).hs.pid = d.hs.pid := rfl
  have e5 : (d.modHs fun h => { h with asm := d.hs.asm.filter (·.1 ≠ p) }).port q = d.port q := rfl
  have e6 : (d.modHs fun h => { h with asm := d.hs.asm.filter (·.1 ≠ p) }).nextHop (bits (wordAt ws 0) 31 20) = some q := h8
  have e7 : (d.modHs fun h => { h with asm := d.hs.asm.filter (·.1 ≠ p) }).link q = 5 := h9
  have e8 : (d.modHs fun h => { h with asm := d.hs.asm.filter (·.1 ≠ p) }).mem = d.mem := rfl
  generalize (d.modHs fun h => { h with asm := d.hs.asm.filter (·.1 ≠ p) }) = y at e1 e2 e3 e4 e5 e6 e7 e8 ⊢
  rw [show (if (false = true) then 1 else y.rd HS_CFG_TTL) = y.rd HS_CFG_TTL from rfl, e1, e2, e3]
  have hlen := take_length_le (bits (wordAt ws 0) 11 0) (wordsToBytes (ws.drop 2))
  generalize hx : (Packet.mk 8 (bits (wordAt ws 0) 31 20) (bits (wordAt ws 0) 19 18) false (d.rd HS_STATUS_ADDR) (d.rd HS_CFG_TTL) (bits (wordAt ws 1) 31 24) d.hs.pseq
    ((wordsToBytes (ws.drop 2)).take (bits (wordAt ws 0) 11 0))) = x
  have x1 : x.cls = 8 := by rw [← hx]
  have x2 : x.loc = false := by rw [← hx]
  have x3 : x.dst = bits (wordAt ws 0) 31 20 := by rw [← hx]
  have x4 : x.body.length ≤ 1008 := by rw [← hx]; exact Nat.le_trans hlen h2
  have cc : controlClass x.cls = false := by rw [x1]; rfl
  have hroom : ((y.port q).lane (controlClass x.cls)).waitingBytes + (16 + x.body.length) ≤ 65536 := by
    rw [cc, e5]; show (d.port q).message.waitingBytes + _ ≤ _; omega
  have sf := sendFrom_route x y q (by omega) x2 (by rw [x3, e1]; exact fun k => h7 k.2) (by rw [x3]; exact e6) e7 hroom
  obtain ⟨s1, s2, s3, s4, s5, s6⟩ := sendOn_port q x y hq (by omega) hroom
  rw [sf]
  dsimp only
  rw [if_pos rfl]
  rw [cc] at s1
  generalize sendOn q x.bytes y = z at s1 s2 s3 s4 s5 s6 ⊢
  refine ⟨?_, ?_, ?_, rfl, s3.trans e8⟩
  · have : ((z.port q).lane false).waiting = (z.port q).message.waiting := rfl
    rw [this, e5, e4] at s1
    exact s1
  · exact (Dev.rd_wr_ne _ _ (by decide)).trans (Dev.rd_wr_same z HS_SEND_STATUS_CODE 0)
  · exact Dev.rd_wr_same _ HS_SEND_STATUS_PSEQ d.hs.pseq

theorem regPacket_read (p : Nat) (bs : List Byte) (rest : List (Nat × List Byte)) (frs : List (Fin 24 × RxFrame)) (d : Dev) (ha : d.applied = true) (h0 : d.hs.reply = none)
    (hr : d.hs.regs = (p, bs) :: rest) (h1 : 0 < u8At (parsePacket bs).body 4) (h2 : u8At (parsePacket bs).body 4 ≤ 64) (ht : (parsePacket bs).typ = 1)
    (ho : d.on HS_CFG_REMOTE_RD = true) :
    regPacket 1 frs d = regFinish (busRead .hawser (le32At (parsePacket bs).body 0) (u8At (parsePacket bs).body 4)
      ((d.modHs fun h => { h with regs := rest, reply := some (p, bs, 0), got := [] }).beginAccess .hawser)) := by
  unfold regPacket
  dsimp only
  rw [regFinish_none d h0, hr, ha, h0]
  have b1 : decide (64 < u8At (parsePacket bs).body 4) = false := decide_eq_false (by omega)
  simp only [Option.isNone_none, Bool.and_self, ht, ho, ne_eq, not_true, if_false, if_true, Bool.not_true, Bool.false_eq_true, show ¬ u8At (parsePacket bs).body 4 = 0 by omega, b1,
    show ¬ ((1 : Nat) = 2) by decide, decide_false, Bool.false_and, Bool.or_self]

theorem regPacket_write (p : Nat) (bs : List Byte) (rest : List (Nat × List Byte)) (frs : List (Fin 24 × RxFrame)) (d : Dev) (ha : d.applied = true) (h0 : d.hs.reply = none)
    (hr : d.hs.regs = (p, bs) :: rest) (h1 : 0 < u8At (parsePacket bs).body 4) (h2 : u8At (parsePacket bs).body 4 ≤ 64) (ht : (parsePacket bs).typ = 2)
    (ho : d.on HS_CFG_REMOTE_WR = true) (hl : ((parsePacket bs).body.drop 8).length = 4 * u8At (parsePacket bs).body 4) :
    regPacket 2 frs d = regFinish (busWrite .hawser (le32At (parsePacket bs).body 0) ((parsePacket bs).body.drop 8) frs
      ((d.modHs fun h => { h with regs := rest, reply := some (p, bs, 0), got := [] }).beginAccess .hawser)) := by
  unfold regPacket
  dsimp only
  rw [regFinish_none d h0, hr, ha, h0]
  have b1 : decide (64 < u8At (parsePacket bs).body 4) = false := decide_eq_false (by omega)
  simp only [Option.isNone_none, Bool.and_self, ht, ho, ne_eq, not_true, if_false, if_true, Bool.not_true, Bool.false_eq_true, show ¬ u8At (parsePacket bs).body 4 = 0 by omega, b1,
    hl, decide_true, decide_false, Bool.and_false, Bool.or_self, show ¬ ((2 : Nat) = 1) by decide]

theorem resetDev_eff (t q : Nat) (d : Dev) (hrole : d.rd HS_STATUS_ROLE = 2 ∨ d.rd HS_STATUS_ROLE = 3) (hq : q < 4)
    (ho : ¬ (d.on HS_STATUS_ADDR_VALID = true ∧ t = d.rd HS_STATUS_ADDR)) (hn : d.nextHop t = some q) (hu : d.link q = 5)
    (hr : (d.port q).control.waitingBytes + 24 ≤ 65536) :
    ((Machine.resetDev t d).port q).control.waiting = (d.port q).control.waiting ++ [(d.hs.pid + 1,
      (⟨6, t, 0, false, d.rd HS_STATUS_ADDR, d.rd HS_CFG_TTL, 1, d.hs.pseq, leBytes 8 (d.rd GC_UNITID_ID)⟩ : Packet).bytes)] ∧
    (Machine.resetDev t d).hs.resetAt = some d.ns ∧ (Machine.resetDev t d).hs.pseq = (d.hs.pseq + 1) % 65536 ∧ (Machine.resetDev t d).mem = d.mem := by
  unfold Machine.resetDev
  dsimp only
  rw [if_neg (by obtain h | h := hrole <;> rw [h] <;> decide)]
  generalize hx : (Packet.mk 6 t 0 false (d.rd HS_STATUS_ADDR) (d.rd HS_CFG_TTL) 1 d.hs.pseq (leBytes 8 d.unitId)) = x
  have x1 : x.cls = 6 := by rw [← hx]
  have x2 : x.loc = false := by rw [← hx]
  have x3 : x.dst = t := by rw [← hx]
  have x4 : x.body.length = 8 := by rw [← hx]; exact leBytes_length _ _
  have xe : (⟨6, t, 0, false, d.rd HS_STATUS_ADDR, d.rd HS_CFG_TTL, 1, d.hs.pseq, leBytes 8 (d.rd GC_UNITID_ID)⟩ : Packet) = x := by rw [← hx]; rfl
  rw [xe]
  have e1 : (d.modHs fun h => { h with pseq := (d.hs.pseq + 1) % 65536, resetAt := some d.ns }).rd HS_STATUS_ADDR = d.rd HS_STATUS_ADDR := rfl
  have e2 : (d.modHs fun h => { h with pseq := (d.hs.pseq + 1) % 65536, resetAt := some d.ns }).on HS_STATUS_ADDR_VALID = d.on HS_STATUS_ADDR_VALID := rfl
  have e3 : (d.modHs fun h => { h with pseq := (d.hs.pseq + 1) % 65536, resetAt := some d.ns }).hs.pid = d.hs.pid := rfl
  have e4 : (d.modHs fun h => { h with pseq := (d.hs.pseq + 1) % 65536, resetAt := some d.ns }).nextHop t = some q := hn
  have e5 : (d.modHs fun h => { h with pseq := (d.hs.pseq + 1) % 65536, resetAt := some d.ns }).link q = 5 := hu
  have e6 : (d.modHs fun h => { h with pseq := (d.hs.pseq + 1) % 65536, resetAt := some d.ns }).port q = d.port q := rfl
  have e7 : (d.modHs fun h => { h with pseq := (d.hs.pseq + 1) % 65536, resetAt := some d.ns }).mem = d.mem := rfl
  have e8 : (d.modHs fun h => { h with pseq := (d.hs.pseq + 1) % 65536, resetAt := some d.ns }).hs.pseq = (d.hs.pseq + 1) % 65536 := rfl
  have e9 : (d.modHs fun h => { h with pseq := (d.hs.pseq + 1) % 65536, resetAt := some d.ns }).hs.resetAt = some d.ns := rfl
  generalize (d.modHs fun h => { h with pseq := (d.hs.pseq + 1) % 65536, resetAt := some d.ns }) = y at e1 e2 e3 e4 e5 e6 e7 e8 e9 ⊢
  have cc : controlClass x.cls = true := by rw [x1]; rfl
  have hroom : ((y.port q).lane (controlClass x.cls)).waitingBytes + (16 + x.body.length) ≤ 65536 := by
    rw [cc, e6, x4]; exact hr
  have sf := sendFrom_route x y q (by omega) x2 (by rw [x3, e1, e2]; exact ho) (by rw [x3]; exact e4) e5 hroom
  obtain ⟨s1, s2, s3, s4, s5, s6⟩ := sendOn_port q x y hq (by omega) hroom
  rw [sf]
  dsimp only
  have ctl : ∀ z : HsPort, z.lane true = z.control := fun _ => rfl
  rw [cc, ctl, ctl, e6, e3] at s1
  exact ⟨s1, s5.trans e9, s4.trans e8, s3.trans e7⟩

/-- A packet of the router's control class goes out toward another device. -/
theorem sendFrom_control (x : Packet) (y : Dev) (q : Nat) (hq : q < 4) (x1 : x.cls = 6) (x2 : x.loc = false) (ho : ¬ (y.on HS_STATUS_ADDR_VALID = true ∧ x.dst = y.rd HS_STATUS_ADDR))
    (hn : y.nextHop x.dst = some q) (hu : y.link q = 5) (hr : (y.port q).control.waitingBytes + (16 + x.body.length) ≤ 65536) :
    ((sendFrom x y).2.port q).control.waiting = (y.port q).control.waiting ++ [(y.hs.pid + 1, x.bytes)] ∧ (sendFrom x y).2.mem = y.mem ∧ (sendFrom x y).2.power = y.power := by
  have cc : controlClass x.cls = true := by rw [x1]; rfl
  have hlane : (y.port q).lane (controlClass x.cls) = (y.port q).control := by rw [cc]; rfl
  have hroom : ((y.port q).lane (controlClass x.cls)).waitingBytes + (16 + x.body.length) ≤ 65536 := by rw [hlane]; exact hr
  have h16 : x.cls < 16 := by rw [x1]; decide
  obtain ⟨s1, s2, s3, s4, s5, s6⟩ := sendOn_port q x y hq h16 hroom
  rw [sendFrom_route x y q h16 x2 ho hn hu hroom]
  refine ⟨?_, s3, s6⟩
  have hl : ∀ z : HsPort, z.lane (controlClass x.cls) = z.control := fun z => by rw [cc]; rfl
  rw [hl, hl] at s1
  exact s1

theorem resetOrder_eq (t u : Nat) (d : Dev) (ha : d.applied = true) (hu : u = d.rd HS_ROOT_ID) (hk : d.on GC_CFG_LINK_RESET_OK = true) :
    Machine.resetOrder t u d = (sendFrom ⟨6, t, 0, false, d.rd HS_STATUS_ADDR, d.rd HS_CFG_TTL, 0x81, d.hs.pseq, [0]⟩
      (d.modHs fun h => { h with pseq := (d.hs.pseq + 1) % 65536 })).2.modPower fun p => { p with linkDue := true } := by
  unfold Machine.resetOrder
  rw [ha, hk, decide_eq_true hu]
  rfl

theorem resetOrder_eff (t u q : Nat) (d : Dev) (ha : d.applied = true) (hu : u = d.rd HS_ROOT_ID) (hk : d.on GC_CFG_LINK_RESET_OK = true) (hq : q < 4)
    (ho : ¬ (d.on HS_STATUS_ADDR_VALID = true ∧ t = d.rd HS_STATUS_ADDR)) (hn : d.nextHop t = some q) (hl : d.link q = 5)
    (hr : (d.port q).control.waitingBytes + 17 ≤ 65536) :
    ((Machine.resetOrder t u d).port q).control.waiting = (d.port q).control.waiting ++ [(d.hs.pid + 1,
      (⟨6, t, 0, false, d.rd HS_STATUS_ADDR, d.rd HS_CFG_TTL, 0x81, d.hs.pseq, [0]⟩ : Packet).bytes)] ∧
    (Machine.resetOrder t u d).power.linkDue = true ∧ (Machine.resetOrder t u d).power.hold = d.power.hold ∧ (Machine.resetOrder t u d).mem = d.mem := by
  rw [resetOrder_eq t u d ha hu hk]
  obtain ⟨s1, s2, s3⟩ := sendFrom_control ⟨6, t, 0, false, d.rd HS_STATUS_ADDR, d.rd HS_CFG_TTL, 0x81, d.hs.pseq, [0]⟩
    (d.modHs fun h => { h with pseq := (d.hs.pseq + 1) % 65536 }) q hq rfl rfl ho hn hl hr
  generalize (⟨6, t, 0, false, d.rd HS_STATUS_ADDR, d.rd HS_CFG_TTL, 0x81, d.hs.pseq, [0]⟩ : Packet) = x at s1 s2 s3 ⊢
  generalize (sendFrom x (d.modHs fun h => { h with pseq := (d.hs.pseq + 1) % 65536 })).2 = z at s1 s2 s3 ⊢
  refine ⟨s1, rfl, ?_, s2⟩
  show z.power.hold = d.power.hold
  rw [s3]; rfl

/-- A reset that is owed waits for its reply. -/
theorem linkReset_waits (d : Dev) (q : Fin 4) (i : Nat) (bs : List Byte) (h : d.power.linkDue = true) (hm : (i, bs) ∈ (d.port q.val).control.waiting) (hb : isResetReply bs = true) :
    ∃ j, linkReset d = d.modPower fun p => { p with replyId := j } := by
  unfold linkReset
  rw [h, if_neg (by decide)]
  dsimp only
  have hin : (i, bs) ∈ (upTo 4).flatMap fun p => (d.port p).control.waiting.filter fun x => isResetReply x.2 := by
    rw [List.mem_flatMap]
    refine ⟨q.val, ?_, List.mem_filter.2 ⟨hm, hb⟩⟩
    match q with
    | 0 => decide
    | 1 => decide
    | 2 => decide
    | 3 => decide
  generalize hl : ((upTo 4).flatMap fun p => (d.port p).control.waiting.filter fun x => isResetReply x.2) = xs at hin ⊢
  cases xs with
  | nil => cases hin
  | cons x xs => exact ⟨x.1, rfl⟩

theorem resetOrder_row (t u q : Nat) (d : Dev) (ha : d.applied = true) (hu : u = d.rd HS_ROOT_ID) (hk : d.on GC_CFG_LINK_RESET_OK = true) (hq : q < 4)
    (ho : ¬ (d.on HS_STATUS_ADDR_VALID = true ∧ t = d.rd HS_STATUS_ADDR)) (hn : d.nextHop t = some q) (hl : d.link q = 5)
    (hr : (d.port q).control.waitingBytes + 17 ≤ 65536) :
    let e := linkReset (Machine.resetOrder t u d)
    e.power.linkDue = true ∧ e.power.hold = d.power.hold ∧ (e.port q).control.waiting = (d.port q).control.waiting ++ [(d.hs.pid + 1,
      (⟨6, t, 0, false, d.rd HS_STATUS_ADDR, d.rd HS_CFG_TTL, 0x81, d.hs.pseq, [0]⟩ : Packet).bytes)] ∧ e.mem = d.mem := by
  obtain ⟨k1, k2, k3, k4⟩ := resetOrder_eff t u q d ha hu hk hq ho hn hl hr
  obtain ⟨c1, c2⟩ := packet_cls (⟨6, t, 0, false, d.rd HS_STATUS_ADDR, d.rd HS_CFG_TTL, 0x81, d.hs.pseq, [0]⟩   : Packet) (show 6 < 16 by decide)
  generalize (⟨6, t, 0, false, d.rd HS_STATUS_ADDR, d.rd HS_CFG_TTL, 0x81, d.hs.pseq, [0]⟩ : Packet).bytes = bs at k1 c1 c2 ⊢
  have hb : isResetReply bs = true := by unfold isResetReply; rw [c1, c2]; rfl
  generalize Machine.resetOrder t u d = x at k1 k2 k3 k4 ⊢
  obtain ⟨j, e⟩ := linkReset_waits x ⟨q, hq⟩ (d.hs.pid + 1) bs k2 (by rw [k1]; exact List.mem_append_right _ (List.mem_singleton.2 rfl)) hb
  dsimp only
  rw [e]
  exact ⟨k2, k3, k1, k4⟩

theorem resetReply_eff (c : Nat) (d : Dev) (t : Nat) (h : d.hs.resetAt = some t) (ha : d.applied = true) (hc : c < 256) :
    (Machine.resetReply c d).rd HS_CMD_STATUS_CODE = c ∧ (Machine.resetReply c d).hs.resetAt = none ∧ (Machine.resetReply c d).mem = d.mem := by
  unfold Machine.resetReply
  rw [h, ha, if_neg (by simp)]
  exact ⟨(Dev.rd_wr_same d HS_CMD_STATUS_CODE c).trans (Nat.mod_eq_of_lt hc), rfl, rfl⟩

theorem resetReplyTimeout_eff (d : Dev) (t : Nat) (h : d.hs.resetAt = some t) :
    (Machine.resetReplyTimeout d).rd HS_CMD_STATUS_CODE = 0x11 ∧ (Machine.resetReplyTimeout d).hs.resetAt = none ∧ (Machine.resetReplyTimeout d).mem = d.mem := by
  unfold Machine.resetReplyTimeout
  rw [h]
  exact ⟨Dev.rd_wr_same (d.reach (t + 10000000)) HS_CMD_STATUS_CODE 0x11, rfl, ((Dev.reach_after (Changes.refl _ _ _) (within_refl _) (covers_refl _) (t + 10000000)).parts .mem (by decide))⟩

theorem powerPorts_rd (d : Dev) {f : Fld} (h : ¬ Rows [.one 262848, .row 0x8100 4 0x40 0, .row 0x8104 4 0x40 15, .row 0x8104 4 0x40 16, .row 0x8104 4 0x40 28] f.bit) :
    (powerPorts d).rd f = d.rd f := (powerPorts_after (Changes.refl _ _ _) (within_refl _) (covers_refl _)).rd h

theorem startElect_rd (d : Dev) {f : Fld} (h : f.bit ≠ HS_STATUS_DISC.bit) : (startElect d).rd f = d.rd f := by
  show (d.wr HS_STATUS_DISC 1).rd f = _
  exact Dev.rd_wr_ne _ _ h

theorem rediscover_rd (d : Dev) (hm : d.rd HS_MCFG_MODE = 1) {f : Fld} (h1 : f.bit ≠ HS_STATUS_DISC.bit) (h2 : f.bit ≠ HS_STATUS_ROLE.bit)
    (h : ¬ Rows [.one 262848, .row 0x8100 4 0x40 0, .row 0x8104 4 0x40 15, .row 0x8104 4 0x40 16, .row 0x8104 4 0x40 28] f.bit) :
    (Machine.rediscover d).rd f = (((d.wr HS_CMD_STATUS_CODE cDONE).wr HS_STATUS_FAILS 0).wr HS_STATUS_MODE 1).rd f := by
  unfold Machine.rediscover
  dsimp only
  have m : ((d.wr HS_CMD_STATUS_CODE cDONE).wr HS_STATUS_FAILS 0).rd HS_MCFG_MODE = 1 := (Dev.rd_wr_ne _ _ (by decide)).trans ((Dev.rd_wr_ne _ _ (by decide)).trans hm)
  rw [if_pos m]
  generalize ((d.wr HS_CMD_STATUS_CODE cDONE).wr HS_STATUS_FAILS 0) = y
  have k : ∀ z : Dev, (if (powerPorts z).upPorts.isEmpty then (powerPorts z).wr HS_STATUS_DISC 0 else startElect (powerPorts z)).rd f = z.rd f := fun z => by
    split
    · exact (Dev.rd_wr_ne _ _ h1).trans (powerPorts_rd z h)
    · exact (startElect_rd _ h1).trans (powerPorts_rd z h)
  rw [k]
  split
  · exact (Dev.rd_wr_ne _ _ h2).trans (Dev.rd_wr_ne _ _ h1)
  · rfl

theorem rediscover_eff (d : Dev) (hm : d.rd HS_MCFG_MODE = 1) :
    (Machine.rediscover d).rd HS_CMD_STATUS_CODE = 0 ∧ (Machine.rediscover d).rd HS_STATUS_FAILS = 0 ∧ (Machine.rediscover d).rd HS_STATUS_MODE = 1 ∧
    (Machine.rediscover d).mem = d.mem := by
  refine ⟨?_, ?_, ?_, ((rediscover_after (Changes.refl _ _ _) (within_refl _) (covers_refl _)).parts .mem (by decide))⟩
  · rw [rediscover_rd d hm (by decide) (by decide) (rows_not (by decide)), Dev.rd_wr_ne _ _ (by decide), Dev.rd_wr_ne _ _ (by decide)]; exact Dev.rd_wr_same d HS_CMD_STATUS_CODE 0
  · rw [rediscover_rd d hm (by decide) (by decide) (rows_not (by decide)), Dev.rd_wr_ne _ _ (by decide)]; exact Dev.rd_wr_same _ HS_STATUS_FAILS 0
  · rw [rediscover_rd d hm (by decide) (by decide) (rows_not (by decide))]; exact Dev.rd_wr_same _ HS_STATUS_MODE 1

theorem nextHop_of {d e : Dev} (hh : e.hs = d.hs) (hr : e.regs = d.regs) (a : Nat) : e.nextHop a = d.nextHop a := by
  unfold Dev.nextHop Dev.hsMode Dev.disc
  rw [hh, Dev.rd_of_regs hr, Dev.rd_of_regs hr]

end Sys2Proof.Machine
end

