-- ==== Sys2Proof/Laws/EffectsFabric.lean ====
section
/-!
SUPPORT. What the operations of Machine/Fabric do.
-/

set_option Elab.async false
set_option linter.all false

namespace Sys2Proof.Machine

/-- The router's state but for its ports, its counters of packets and the words delivered. -/
def HsSt.norm (h : HsSt) : HsSt := { h with ports := HsSt.reset.ports, pseq := 0, pid := 0, got := [] }
/-- Two states of the router agree but for these. -/
def HsSt.Sent (a b : HsSt) : Prop := b.norm = a.norm

theorem HsSt.Sent.trans {a b c : HsSt} (h : a.Sent b) (k : b.Sent c) : a.Sent c := Eq.trans k h
theorem HsSt.Sent.of {a b : HsSt} (h : b = a) : a.Sent b := by subst h; rfl
theorem HsSt.Sent.lsas {a b : HsSt} (h : a.Sent b) : b.lsas = a.lsas := (congrArg HsSt.lsas h : _)
theorem HsSt.Sent.lsaSeq {a b : HsSt} (h : a.Sent b) : b.lsaSeq = a.lsaSeq := (congrArg HsSt.lsaSeq h : _)
theorem HsSt.Sent.routes {a b : HsSt} (h : a.Sent b) : b.routes = a.routes := (congrArg HsSt.routes h : _)
theorem HsSt.Sent.stale {a b : HsSt} (h : a.Sent b) : b.stale = a.stale := (congrArg HsSt.stale h : _)
theorem HsSt.Sent.bindings {a b : HsSt} (h : a.Sent b) : b.bindings = a.bindings := (congrArg HsSt.bindings h : _)
theorem HsSt.Sent.position {a b : HsSt} (h : a.Sent b) : b.position = a.position := (congrArg HsSt.position h : _)
theorem HsSt.Sent.cand {a b : HsSt} (h : a.Sent b) : b.cand = a.cand := (congrArg HsSt.cand h : _)

theorem sent_ite {a : HsSt} {p : Prop} {_ : Decidable p} {x y : Dev} (h : a.Sent x.hs) (k : a.Sent y.hs) : a.Sent (if p then x else y).hs := by split <;> assumption
theorem sent_each {α : Type} (xs : List α) (f : α → Dev → Dev) (d : Dev) (h : ∀ (x : α) (e : Dev), e.hs.Sent (f x e).hs) : d.hs.Sent (d.each xs f).hs := by
  induction xs generalizing d with
  | nil => rfl
  | cons x xs ih => exact (h x d).trans (ih (f x d))

theorem sendOn_sent (p : Nat) (bs : List Byte) (d : Dev) : d.hs.Sent (sendOn p bs d).hs := by
  unfold sendOn
  dsimp only
  exact sent_ite rfl rfl
theorem sendLocal_sent (p cls typ : Nat) (body : List Byte) (d : Dev) : d.hs.Sent (sendLocal p cls typ body d).hs := by
  unfold sendLocal
  exact HsSt.Sent.trans rfl (sendOn_sent _ _ _)
theorem flood_sent (skip : Option Nat) (cls typ : Nat) (body : List Byte) (d : Dev) : d.hs.Sent (flood skip cls typ body d).hs := by
  unfold flood
  exact sent_each _ _ _ fun _ _ => sendLocal_sent _ _ _ _ _
theorem sendChain_sent (p : Nat) (pos : Int) (st : Bool) (d : Dev) : d.hs.Sent (sendChain p pos st d).hs := by
  unfold sendChain
  exact sent_ite (sendLocal_sent _ _ _ _ _) rfl

theorem give_sent (d : Dev) (p : Path) (ws : List Word) : d.hs.Sent (d.give p ws).hs := by
  unfold Dev.give
  exact sent_ite rfl (by cases p <;> rfl)
theorem take1_hs (d : Dev) (i : Nat) (w : Word) : (d.take1 i w).hs = d.hs := by unfold Dev.take1; split <;> rfl
theorem modQ_hs (d : Dev) (i : Nat) (f : Queue → Queue) : (d.modQ i f).hs = d.hs := rfl
theorem popWords_hs (i n : Nat) (d : Dev) : (popWords i n d).2.2.hs = d.hs := ((popWords_after (Changes.refl _ _ _) (within_refl _) (covers_refl _) i n).parts .hs (by decide))
theorem beyondItem_sent (p : Path) (k : Nat) (d : Dev) : d.hs.Sent (beyondItem p k d).hs := by
  have g := give_sent d p (List.replicate k 0)
  unfold beyondItem
  cases p with
  | gw0 => cases hk : (k != 0) <;> (simp only [Dev.raiseIf]; exact g)
  | gw1 => cases hk : (k != 0) <;> (simp only [Dev.raiseIf]; exact g)
  | _ => exact g
theorem popOneItem_sent (p : Path) (i n : Nat) (d : Dev) : d.hs.Sent (popOneItem p i n d).hs := by
  unfold popOneItem
  dsimp only
  exact ((HsSt.Sent.of (popWords_hs _ _ _)).trans (give_sent _ _ _)).trans (beyondItem_sent _ _ _)
theorem serveReads_sent (i k : Nat) (d : Dev) : d.hs.Sent (serveReads i k d).hs := by
  induction k generalizing d with
  | zero => rfl
  | succ k ih =>
    unfold serveReads; split
    · rename_i s ss w q' _ _
      have h : d.hs.Sent (((d.modQ i fun _ => q').take1 i w).give s.path [w]).hs :=
        ((HsSt.Sent.of (modQ_hs d _ _)).trans (HsSt.Sent.of (take1_hs _ _ _))).trans (give_sent _ _ _)
      dsimp only
      generalize ((d.modQ i fun _ => q').take1 i w).give s.path [w] = x at h ⊢
      have g : ∀ c : Bool, d.hs.Sent (if c = true then beyondItem s.path (s.words - 1) x else x).hs := by
        intro c; split
        · exact h.trans (beyondItem_sent _ _ _)
        · exact h
      refine HsSt.Sent.trans ?_ (ih _)
      split
      · exact (g _).trans (HsSt.Sent.of (modQ_hs _ _ _))
      · exact (g _).trans (HsSt.Sent.of (modQ_hs _ _ _))
    · rfl

theorem serveStalled_sent (i : Nat) (d : Dev) : d.hs.Sent (serveStalled i d).hs := serveReads_sent i _ d
theorem post_sent (d : Dev) (i typ : Nat) (ws : List Word) : d.hs.Sent (d.post i typ ws).hs := by
  unfold Dev.post; dsimp only
  refine sent_ite rfl (sent_ite ?_ ?_)
  · refine HsSt.Sent.trans (HsSt.Sent.of ?_) (serveStalled_sent _ _); rw [modQ_hs]; unfold Dev.raiseIf; split <;> rfl
  · refine HsSt.Sent.trans (HsSt.Sent.of ?_) (serveStalled_sent _ _); rw [modQ_hs]; unfold Dev.raiseIf; split <;> split <;> rfl
theorem fabricEvent_sent (kind prev : Nat) (d : Dev) : d.hs.Sent (fabricEvent kind prev d).hs := post_sent _ _ _ _

theorem Dev.applied_out (d : Dev) : ({ d with out := [] } : Dev).applied = d.applied := rfl

theorem reach_hs (d : Dev) (t : Nat) : (d.reach t).hs = d.hs := ((Dev.reach_after (Changes.refl _ _ _) (within_refl _) (covers_refl _) t).parts .hs (by decide))
theorem reach_mem (d : Dev) (t : Nat) : (d.reach t).mem = d.mem := ((Dev.reach_after (Changes.refl _ _ _) (within_refl _) (covers_refl _) t).parts .mem (by decide))
theorem reach_rdw (d : Dev) (t : Nat) {f : Fld} (h : ¬ Rows [.one 98752] f.bit) : (d.reach t).rd f = d.rd f := (Dev.reach_after (Changes.refl _ _ _) (within_refl _) (covers_refl _) t).rd h
theorem reach_power (d : Dev) (t : Nat) : (d.reach t).power = d.power := ((Dev.reach_after (Changes.refl _ _ _) (within_refl _) (covers_refl _) t).parts .power (by decide))

theorem setRoot_rd (prio unit : Nat) (d : Dev) : (setRoot prio unit d).rd HS_ROOT_ID = unit % 2 ^ 64 ∧ (setRoot prio unit d).rd HS_ROOTINFO_PRIORITY = prio % 2 ^ 8 := by
  have h1 : ((d.wr HS_ROOT_ID unit).wr HS_ROOTINFO_PRIORITY prio).rd HS_ROOT_ID = unit % 2 ^ 64 := (Dev.rd_wr_ne _ _ (by decide)).trans (Dev.rd_wr_same d HS_ROOT_ID unit)
  have h2 : ((d.wr HS_ROOT_ID unit).wr HS_ROOTINFO_PRIORITY prio).rd HS_ROOTINFO_PRIORITY = prio % 2 ^ 8 := Dev.rd_wr_same (d.wr HS_ROOT_ID unit) HS_ROOTINFO_PRIORITY prio
  unfold setRoot
  dsimp only
  generalize (d.wr HS_ROOT_ID unit).wr HS_ROOTINFO_PRIORITY prio = x at h1 h2 ⊢
  have k : ∀ f : Fld, f = HS_ROOT_ID ∨ f = HS_ROOTINFO_PRIORITY → ∀ y : Dev, (fabricEvent 4 0 (y.raise HS_STATUS_ROOT_CHANGED_SEEN)).rd f = y.rd f := by
    rintro f (rfl | rfl) y
    · exact (((fabricEvent_after (Changes.refl _ _ _) (within_refl _) (covers_refl _) 4 0).rd (rows_not (by decide)))).trans (Dev.rd_raise_ne _ (by decide))
    · exact (((fabricEvent_after (Changes.refl _ _ _) (within_refl _) (covers_refl _) 4 0).rd (rows_not (by decide)))).trans (Dev.rd_raise_ne _ (by decide))
  have m1 : ∀ y : Dev, (setMaster unit y).rd HS_ROOT_ID = y.rd HS_ROOT_ID := fun y => ((setMaster_after (Changes.refl _ _ _) (within_refl _) (covers_refl _) unit).rd (rows_not (by decide)))
  have m2 : ∀ y : Dev, (setMaster unit y).rd HS_ROOTINFO_PRIORITY = y.rd HS_ROOTINFO_PRIORITY := fun y => ((setMaster_after (Changes.refl _ _ _) (within_refl _) (covers_refl _) unit).rd (rows_not (by decide)))
  split
  · exact ⟨h1, h2⟩
  · refine ⟨?_, ?_⟩
    · split <;> split
      all_goals first | rw [m1, k _ (Or.inl rfl), h1] | rw [k _ (Or.inl rfl), h1] | rw [m1, h1] | exact h1
    · split <;> split
      all_goals first | rw [m2, k _ (Or.inr rfl), h2] | rw [k _ (Or.inr rfl), h2] | rw [m2, h2] | exact h2

theorem floodOwn_rd (d : Dev) {f : Fld} (h : ¬ Rows [.one 262856] f.bit) : (floodOwn d).rd f = d.rd f := (floodOwn_after (Changes.refl _ _ _) (within_refl _) (covers_refl _)).rd h
theorem floodOwn_mem (d : Dev) : (floodOwn d).mem = d.mem := ((floodOwn_after (Changes.refl _ _ _) (within_refl _) (covers_refl _)).parts .mem (by decide))

theorem reachRun_rd (d : Dev) {f : Fld} (h : ¬ Rows [.one 262856] f.bit) : (reachRun d).rd f = ((d.wr HS_STATUS_DISC 3).wr HS_STATUS_FAILS 0).rd f := floodOwn_rd _ h

theorem electEnd_eff (d : Dev) (ha : d.applied = true) (hm : d.rd HS_STATUS_MODE = 1) (hd : d.rd HS_STATUS_DISC = 1) (hc : d.hs.cand.2.1 ≠ d.rd GC_UNITID_ID)
    (hv : d.on HS_STATUS_ADDR_VALID = true) :
    (Machine.electEnd d).rd HS_STATUS_ROLE = 1 ∧ (Machine.electEnd d).rd HS_STATUS_DISC = 3 ∧ (Machine.electEnd d).rd HS_STATUS_FAILS = 0 ∧
    (Machine.electEnd d).rd HS_ROOT_ID = d.hs.cand.2.1 % 2 ^ 64 ∧ (Machine.electEnd d).rd HS_ROOTINFO_PRIORITY = d.hs.cand.1 % 2 ^ 8 ∧ (Machine.electEnd d).mem = d.mem := by
  have e : Machine.electEnd d = reachRun ((setRoot d.hs.cand.1 d.hs.cand.2.1 (d.reach (d.hs.candAt + 100000000))).wr HS_STATUS_ROLE 1) := by
    have g : (!d.applied || decide (d.hsMode ≠ 1) || decide (d.disc ≠ 1)) = false := by
      show (!d.applied || decide (d.rd HS_STATUS_MODE ≠ 1) || decide (d.rd HS_STATUS_DISC ≠ 1)) = false
      rw [ha, hm, hd]; rfl
    unfold Machine.electEnd
    rw [g, if_neg (by decide)]
    dsimp only
    rw [reach_hs]
    have u : (setRoot d.hs.cand.1 d.hs.cand.2.1 (d.reach (d.hs.candAt + 100000000))).unitId = d.rd GC_UNITID_ID :=
      (((setRoot_after (Changes.refl _ _ _) (within_refl _) (covers_refl _) d.hs.cand.1 d.hs.cand.2.1).rd (rows_not (by decide)))).trans (reach_rdw _ _ (rows_not (by decide)))
    have v : ((setRoot d.hs.cand.1 d.hs.cand.2.1 (d.reach (d.hs.candAt + 100000000))).wr HS_STATUS_ROLE 1).on HS_STATUS_ADDR_VALID = true := by
      refine (Dev.on_of_rd ?_).trans hv
      exact (Dev.rd_wr_ne _ _ (by decide)).trans ((((setRoot_after (Changes.refl _ _ _) (within_refl _) (covers_refl _) d.hs.cand.1 d.hs.cand.2.1).rd (rows_not (by decide)))).trans (reach_rdw _ _ (rows_not (by decide))))
    rw [if_neg (by rw [u]; exact hc), v, if_pos rfl]
  obtain ⟨r1, r2⟩ := setRoot_rd d.hs.cand.1 d.hs.cand.2.1 (d.reach (d.hs.candAt + 100000000))
  have r3 : (setRoot d.hs.cand.1 d.hs.cand.2.1 (d.reach (d.hs.candAt + 100000000))).mem = d.mem := ((setRoot_after (Changes.refl _ _ _) (within_refl _) (covers_refl _) d.hs.cand.1 d.hs.cand.2.1).parts .mem (by decide)).trans (reach_mem _ _)
  rw [e]
  generalize setRoot d.hs.cand.1 d.hs.cand.2.1 (d.reach (d.hs.candAt + 100000000)) = x at r1 r2 r3 ⊢
  refine ⟨?_, ?_, ?_, ?_, ?_, (floodOwn_mem _).trans r3⟩
  · exact (reachRun_rd _ (rows_not (by decide))).trans ((Dev.rd_wr_ne _ _ (by decide)).trans ((Dev.rd_wr_ne _ _ (by decide)).trans (Dev.rd_wr_same x HS_STATUS_ROLE 1)))
  · exact (reachRun_rd _ (rows_not (by decide))).trans ((Dev.rd_wr_ne _ _ (by decide)).trans (Dev.rd_wr_same _ HS_STATUS_DISC 3))
  · exact (reachRun_rd _ (rows_not (by decide))).trans (Dev.rd_wr_same _ HS_STATUS_FAILS 0)
  · exact (reachRun_rd _ (rows_not (by decide))).trans ((Dev.rd_wr_ne _ _ (by decide)).trans ((Dev.rd_wr_ne _ _ (by decide)).trans ((Dev.rd_wr_ne _ _ (by decide)).trans r1)))
  · exact (reachRun_rd _ (rows_not (by decide))).trans ((Dev.rd_wr_ne _ _ (by decide)).trans ((Dev.rd_wr_ne _ _ (by decide)).trans ((Dev.rd_wr_ne _ _ (by decide)).trans r2)))

theorem discoveryTimeout_eff (d : Dev) (ha : d.applied = true) (hm : d.rd HS_STATUS_MODE = 1) (hd : d.rd HS_STATUS_DISC = 1 ∨ d.rd HS_STATUS_DISC = 2)
    (hf : d.on HS_STATUS_ADDR_FULL = false) (hn : d.rd HS_STATUS_FAILS < 7) :
    (Machine.discoveryTimeout d).rd HS_STATUS_FAILS = d.rd HS_STATUS_FAILS + 1 ∧ (Machine.discoveryTimeout d).rd HS_STATUS_DISC = 1 ∧ (Machine.discoveryTimeout d).mem = d.mem := by
  have g : (!d.applied || decide (d.hsMode ≠ 1) || (decide (d.disc ≠ 1) && decide (d.disc ≠ 2))) = false := by
    show (!d.applied || decide (d.rd HS_STATUS_MODE ≠ 1) || (decide (d.rd HS_STATUS_DISC ≠ 1) && decide (d.rd HS_STATUS_DISC ≠ 2))) = false
    rw [ha, hm]; obtain h | h := hd <;> rw [h] <;> rfl
  unfold Machine.discoveryTimeout
  rw [g, if_neg (by decide)]
  dsimp only
  have f1 : (d.reach (d.hs.electAt + d.rd HS_CFG_DISC_TIMEOUT * 10000000)).on HS_STATUS_ADDR_FULL = false := (Dev.on_of_rd (reach_rdw _ _ (rows_not (by decide)))).trans hf
  have f2 : (d.reach (d.hs.electAt + d.rd HS_CFG_DISC_TIMEOUT * 10000000)).rd HS_STATUS_FAILS = d.rd HS_STATUS_FAILS := reach_rdw _ _ (rows_not (by decide))
  have f3 := reach_mem d (d.hs.electAt + d.rd HS_CFG_DISC_TIMEOUT * 10000000)
  generalize d.reach (d.hs.electAt + d.rd HS_CFG_DISC_TIMEOUT * 10000000) = x at f1 f2 f3 ⊢
  rw [f1, if_neg (by decide), f2, Nat.min_eq_right (by omega : d.rd HS_STATUS_FAILS + 1 ≤ 8), decide_eq_false (by omega : ¬ d.rd HS_STATUS_FAILS + 1 = 8)]
  simp only [Bool.false_and, Bool.false_eq_true, if_false]
  refine ⟨?_, Dev.rd_wr_same _ HS_STATUS_DISC 1, f3⟩
  exact (startElect_rd _ (by decide)).trans ((Dev.rd_wr_same x HS_STATUS_FAILS _).trans (Nat.mod_eq_of_lt (by show d.rd HS_STATUS_FAILS + 1 < 16; omega)))

theorem floodOwn_run (d : Dev) (h : d.rd HS_STATUS_DISC = 3) :
    floodOwn d = flood none 2 1 d.ownLsa.bytes (putLsa d.ownLsa (d.modHs fun h => { h with lsaSeq := d.ownLsa.seq })) := by
  unfold floodOwn
  exact if_neg (by show ¬ d.rd HS_STATUS_DISC ≠ 3; exact not_not_intro h)

theorem lsaRefresh_eff (d : Dev) (ha : d.applied = true) (hm : d.rd HS_STATUS_MODE = 1) (hd : d.rd HS_STATUS_DISC = 3) :
    (Machine.lsaRefresh d).hs.lsaSeq = (d.hs.lsaSeq + 1) % 2 ^ 32 ∧ d.ownLsa ∈ (Machine.lsaRefresh d).hs.lsas ∧ (Machine.lsaRefresh d).mem = d.mem := by
  unfold Machine.lsaRefresh
  rw [ha, show d.hsMode = 1 from hm]
  simp only [decide_true, Bool.and_self, if_true]
  refine ⟨?_, ?_, floodOwn_mem d⟩
  · rw [floodOwn_run d hd, (flood_sent _ _ _ _ _).lsaSeq]; rfl
  · rw [floodOwn_run d hd, (flood_sent _ _ _ _ _).lsas]
    exact List.mem_append_right _ (List.mem_singleton.2 rfl)

theorem lsaAgeOut_eff (u : Nat) (d : Dev) (l : Lsa) (ha : d.applied = true) (hl : d.hs.lsas.find? (fun x => decide (x.unit = u)) = some l) (hu : u ≠ d.rd GC_UNITID_ID) :
    (Machine.lsaAgeOut u d).hs.lsas = d.hs.lsas.filter (fun x => decide (x.unit ≠ u)) ∧ (Machine.lsaAgeOut u d).mem = d.mem := by
  unfold Machine.lsaAgeOut
  rw [hl]
  dsimp only
  have g : (!d.applied || decide (u = d.unitId)) = false := by rw [ha, decide_eq_false (show ¬ u = d.unitId from hu)]; rfl
  rw [g, if_neg (by decide)]
  have e1 := reach_hs d (l.at_ + 4000000000)
  have e2 := reach_mem d (l.at_ + 4000000000)
  generalize d.reach (l.at_ + 4000000000) = x at e1 e2 ⊢
  rw [← e1]
  split
  · exact ⟨rfl, e2⟩
  · exact ⟨rfl, e2⟩

theorem bindingExpiry_eff (a : Nat) (d : Dev) (b : Binding) (ha : d.applied = true) (hb : d.hs.bindings.find? (fun x => x.addr == a && !x.present) = some b) :
    (Machine.bindingExpiry a d).hs.bindings = d.hs.bindings.filter (· ≠ b) ∧ (Machine.bindingExpiry a d).mem = d.mem := by
  unfold Machine.bindingExpiry
  rw [hb]
  dsimp only
  rw [ha, if_neg (by decide)]
  have e1 := reach_hs d (b.last + 86400 * 1000000000)
  have e2 := reach_mem d (b.last + 86400 * 1000000000)
  generalize d.reach (b.last + 86400 * 1000000000) = x at e1 e2 ⊢
  rw [← e1]
  exact ⟨rfl, e2⟩

theorem floodOwn_hs (d : Dev) : (floodOwn d).hs.routes = d.hs.routes ∧ (floodOwn d).hs.bindings = d.hs.bindings ∧ (floodOwn d).hs.position = d.hs.position := by
  unfold floodOwn
  split
  · exact ⟨rfl, rfl, rfl⟩
  · dsimp only
    have k := flood_sent none 2 1 d.ownLsa.bytes (putLsa d.ownLsa (d.modHs fun h => { h with lsaSeq := d.ownLsa.seq }))
    exact ⟨k.routes.trans rfl, k.bindings.trans rfl, k.position.trans rfl⟩

theorem setUpstream_sent (v : Option (Nat × Nat × Nat)) (r : Bool) (d : Dev) : d.hs.Sent (setUpstream v r d).hs := by
  have each_hs : ∀ (xs : List Nat) (f : Nat → Bool) (e : Dev), (e.each xs fun p d => d.flag (HSP_STATUS_UPSTREAM p) (f p)).hs = e.hs := fun xs f e => by
    induction xs generalizing e with
    | nil => rfl
    | cons x xs ih => exact (ih _).trans rfl
  unfold setUpstream
  dsimp only
  refine sent_ite ?_ ?_
  · refine HsSt.Sent.trans ?_ (fabricEvent_sent _ _ _)
    refine HsSt.Sent.of ?_
    cases v with
    | none => dsimp only; split <;> exact each_hs _ _ _
    | some x => dsimp only; split <;> exact each_hs _ _ _
  · refine HsSt.Sent.of ?_
    cases v with
    | none => dsimp only; split <;> exact each_hs _ _ _
    | some x => dsimp only; split <;> exact each_hs _ _ _

theorem floodIf_routes (c : Prop) {_ : Decidable c} (y : Dev) : (if c then floodOwn y else y).hs.routes = y.hs.routes := by
  split
  · exact (floodOwn_hs y).1
  · rfl

theorem routingUpdate_eff (d : Dev) (ha : d.applied = true) (hm : d.rd HS_STATUS_MODE = 1) (hd : d.rd HS_STATUS_DISC = 3) (ho : d.hs.orphans = []) :
    (routingUpdate d).hs.routes = d.computeRoutes ∧ (routingUpdate d).mem = d.mem ∧ (routingUpdate d).power = d.power := by
  refine ⟨?_, ((routingUpdate_after (Changes.refl _ _ _) (within_refl _) (covers_refl _)).parts .mem (by decide)), ((routingUpdate_after (Changes.refl _ _ _) (within_refl _) (covers_refl _)).parts .power (by decide))⟩
  have g : (!d.applied || decide (d.hsMode ≠ 1)) = false := by
    show (!d.applied || decide (d.rd HS_STATUS_MODE ≠ 1)) = false; rw [ha, hm]; rfl
  unfold routingUpdate
  rw [g, if_neg (by decide), ho]
  dsimp only
  rw [if_pos (show d.disc = 3 from hd)]
  show (if (d.modHs fun h => { h with routes := d.computeRoutes, stale := false, orphans := [] }).disc ≠ 3 then _ else _ : Dev).hs.routes = _
  rw [if_neg (show ¬ (d.modHs fun h => { h with routes := d.computeRoutes, stale := false, orphans := [] }).disc ≠ 3 from not_not_intro hd)]
  rw [floodIf_routes]
  exact (setUpstream_sent _ _ _).routes

theorem hello_eff (p : Fin 4) (prio u hops : Nat) (d : Dev) (ha : d.applied = true) (hl : d.link p.val = 5) (hm : d.rd HS_STATUS_MODE = 1) (hd : d.rd HS_STATUS_DISC = 1)
    (hb : better (prio, u, hops) d.hs.cand = true) :
    (Machine.hello p.val prio u hops d).hs.cand = (prio, u, hops + 1) ∧ (Machine.hello p.val prio u hops d).hs.candAt = d.ns ∧
    ((Machine.hello p.val prio u hops d).port p.val).heard = some (prio, u, hops) ∧ (Machine.hello p.val prio u hops d).regs = d.regs ∧
    (Machine.hello p.val prio u hops d).mem = d.mem := by
  have g : (!d.applied || decide (d.link p.val ≠ lUP) || decide (d.hsMode ≠ 1)) = false := by
    show (!d.applied || decide (d.link p.val ≠ 5) || decide (d.rd HS_STATUS_MODE ≠ 1)) = false; rw [ha, hm, hl]; rfl
  have e : Machine.hello p.val prio u hops d = (d.modPort p.val fun x => { x with heard := some (prio, u, hops) }).modHs fun h =>
      { h with cand := (prio, u, hops + 1), candAt := d.ns } := by
    have hd' : (d.modPort p.val fun x => { x with heard := some (prio, u, hops) }).disc = 1 := hd
    have hb' : better (prio, u, hops) (d.modPort p.val fun x => { x with heard := some (prio, u, hops) }).hs.cand = true := hb
    unfold Machine.hello
    rw [g, if_neg (by decide)]
    dsimp only
    have c0 : (decide ((d.modPort p.val fun x => { x with heard := some (prio, u, hops) }).disc ≠ 1) && better (prio, u, hops)
        ((d.modPort p.val fun x => { x with heard := some (prio, u, hops) }).rd HS_ROOTINFO_PRIORITY, (d.modPort p.val fun x => { x with heard := some (prio, u, hops) }).rd HS_ROOT_ID, 0)) = false := by
      rw [decide_eq_false (not_not_intro hd'), Bool.false_and]
    simp only [c0, Bool.false_eq_true, if_false]
    rw [hd', hb', if_pos (by decide)]
    rfl
  rw [e]
  refine ⟨rfl, rfl, ?_, rfl, rfl⟩
  have k := port_modPort p.val (fun x => { x with heard := some (prio, u, hops) }) d p.isLt
  exact congrArg HsPort.heard k

theorem bind_mem (u a : Nat) (d : Dev) : ∃ b ∈ (bind u a d).hs.bindings, b.unit = u ∧ b.addr = a ∧ b.present = true :=
  ⟨_, List.mem_append_right _ (List.mem_singleton.2 rfl), rfl, rfl, rfl⟩

theorem addressRequest_eff (p : Fin 4) (u a : Nat) (h : Option Nat) (d : Dev) (ha : d.applied = true) (hl : d.link p.val = 5) (hm : d.rd HS_STATUS_MODE = 1)
    (hr : d.rd HS_STATUS_ROLE = 2) (hc : d.choose u h = some a) :
    Machine.addressRequest p.val u h d = sendLocal p.val 1 3 (leBytes 8 u ++ leBytes 2 a ++ [0, 0]) (assignAs u a d) ∧
    ∃ b ∈ (Machine.addressRequest p.val u h d).hs.bindings, b.unit = u ∧ b.addr = a ∧ b.present = true := by
  have g : (!d.applied || decide (d.link p.val ≠ lUP) || decide (d.hsMode ≠ 1)) = false := by
    show (!d.applied || decide (d.link p.val ≠ 5) || decide (d.rd HS_STATUS_MODE ≠ 1)) = false; rw [ha, hm, hl]; rfl
  have e : Machine.addressRequest p.val u h d = sendLocal p.val 1 3 (leBytes 8 u ++ leBytes 2 a ++ [0, 0]) (assignAs u a d) := by
    unfold Machine.addressRequest
    rw [g, if_neg (by decide), if_pos hr, hc]
  refine ⟨e, ?_⟩
  have k := (flood_sent none 1 4 (leBytes 8 u ++ leBytes 2 a) (bind u a d)).trans (sendLocal_sent p.val 1 3 (leBytes 8 u ++ leBytes 2 a ++ [0, 0]) (assignAs u a d))
  rw [e, k.bindings]
  exact bind_mem u a d

theorem bindPacket_eff (p : Fin 4) (u a : Nat) (d : Dev) (ha : d.applied = true) (hl : d.link p.val = 5) (hm : d.rd HS_STATUS_MODE = 1)
    (hb : d.hs.bindings.any (fun x => x.unit == u && x.addr == a) = false) :
    (∃ b ∈ (bindPacket p.val u a d).hs.bindings, b.unit = u ∧ b.addr = a ∧ b.present = true) ∧ (bindPacket p.val u a d).mem = d.mem := by
  have g : (!d.applied || decide (d.link p.val ≠ lUP) || decide (d.hsMode ≠ 1)) = false := by
    show (!d.applied || decide (d.link p.val ≠ 5) || decide (d.rd HS_STATUS_MODE ≠ 1)) = false; rw [ha, hm, hl]; rfl
  have e : bindPacket p.val u a d = flood (some p.val) 1 4 (leBytes 8 u ++ leBytes 2 a) (bind u a d) := by
    unfold bindPacket
    rw [g, if_neg (by decide), hb, if_neg (by decide)]
  refine ⟨?_, ((bindPacket_after (Changes.refl _ _ _) (within_refl _) (covers_refl _) p.val u a).parts .mem (by decide))⟩
  rw [e, (flood_sent _ _ _ _ _).bindings]
  exact bind_mem u a d

theorem setAddr_eff (a : Nat) (c : Bool) (d : Dev) : (setAddr a c d).rd HS_STATUS_ADDR = a % 2 ^ 12 ∧ (setAddr a c d).rd HS_STATUS_ADDR_VALID = 1 ∧
    (setAddr a c d).rd HS_STATUS_ADDR_FULL = 0 ∧ (setAddr a c d).mem = d.mem ∧ (setAddr a c d).hs.position = d.hs.position := by
  have h1 : ((((d.wr HS_STATUS_ADDR a).raise HS_STATUS_ADDR_VALID).lower HS_STATUS_ADDR_FULL).modHs fun h => { h with stale := true }).rd HS_STATUS_ADDR = a % 2 ^ 12 :=
    (modHs_rd _ _ _).trans <| (Dev.rd_lower_ne _ (by decide)).trans ((Dev.rd_raise_ne _ (by decide)).trans (Dev.rd_wr_same d HS_STATUS_ADDR a))
  have h2 : ((((d.wr HS_STATUS_ADDR a).raise HS_STATUS_ADDR_VALID).lower HS_STATUS_ADDR_FULL).modHs fun h => { h with stale := true }).rd HS_STATUS_ADDR_VALID = 1 :=
    (modHs_rd _ _ _).trans <| (Dev.rd_lower_ne _ (by decide)).trans (Dev.rd_raise_same _ _)
  have h3 : ((((d.wr HS_STATUS_ADDR a).raise HS_STATUS_ADDR_VALID).lower HS_STATUS_ADDR_FULL).modHs fun h => { h with stale := true }).rd HS_STATUS_ADDR_FULL = 0 :=
    (modHs_rd _ _ _).trans <| Dev.rd_lower_same _ _
  have h4 : ((((d.wr HS_STATUS_ADDR a).raise HS_STATUS_ADDR_VALID).lower HS_STATUS_ADDR_FULL).modHs fun h => { h with stale := true }).hs.position = d.hs.position := rfl
  have k : ∀ (y : Dev) (kind prev : Nat) (g f : Fld), ¬ Rows [.row 0x5014 2 0x800 6, .row 0x5014 2 0x800 24, .row 0x2100c 32 0x40 3, .row 0x2100c 32 0x40 4, .row 0x2100c 32 0x40 5, .row 0x21024 32 0x40 0] f.bit →
      f.bit ≠ g.bit → (fabricEvent kind prev (y.raise g)).rd f = y.rd f := fun y kind prev g f hf hg =>
    ((fabricEvent_after (Changes.refl _ _ _) (within_refl _) (covers_refl _) kind prev).rd hf).trans (Dev.rd_raise_ne _ hg)
  have kp : ∀ (y : Dev) (kind prev : Nat) (g : Fld), (fabricEvent kind prev (y.raise g)).hs.position = y.hs.position := fun y kind prev g => (fabricEvent_sent kind prev (y.raise g)).position
  refine ⟨?_, ?_, ?_, ((setAddr_after (Changes.refl _ _ _) (within_refl _) (covers_refl _) a c).parts .mem (by decide)), ?_⟩
  all_goals
    unfold setAddr
    dsimp only
    generalize (((d.wr HS_STATUS_ADDR a).raise HS_STATUS_ADDR_VALID).lower HS_STATUS_ADDR_FULL).modHs (fun h => { h with stale := true }) = x at h1 h2 h3 h4 ⊢
  · split <;> split
    all_goals first
      | (rw [k _ _ _ _ _ (rows_not (by decide)) (by decide), k _ _ _ _ _ (rows_not (by decide)) (by decide), h1])
      | (rw [k _ _ _ _ _ (rows_not (by decide)) (by decide), h1])
      | exact h1
  · split <;> split
    all_goals first
      | (rw [k _ _ _ _ _ (rows_not (by decide)) (by decide), k _ _ _ _ _ (rows_not (by decide)) (by decide), h2])
      | (rw [k _ _ _ _ _ (rows_not (by decide)) (by decide), h2])
      | exact h2
  · split <;> split
    all_goals first
      | (rw [k _ _ _ _ _ (rows_not (by decide)) (by decide), k _ _ _ _ _ (rows_not (by decide)) (by decide), h3])
      | (rw [k _ _ _ _ _ (rows_not (by decide)) (by decide), h3])
      | exact h3
  · split <;> split
    all_goals first
      | (rw [kp, kp, h4])
      | (rw [kp, h4])
      | exact h4

theorem addressAssign_eff (p : Fin 4) (a r : Nat) (c : Bool) (d : Dev) (ha : d.applied = true) (hl : d.link p.val = 5) (hm : d.rd HS_STATUS_MODE = 1) :
    let e := Machine.addressAssign p.val (d.rd GC_UNITID_ID) (some a) c r d
    e.rd HS_STATUS_ADDR = a % 2 ^ 12 ∧ e.rd HS_STATUS_ADDR_VALID = 1 ∧ e.rd HS_STATUS_ADDR_FULL = 0 ∧ e.rd HS_ROOTINFO_ADDR = r % 2 ^ 12 ∧
    (d.rd HS_STATUS_DISC = 2 → e.rd HS_STATUS_DISC = 3) ∧ e.mem = d.mem := by
  have g : (!d.applied || decide (d.link p.val ≠ lUP) || decide (d.hsMode ≠ 1)) = false := by
    show (!d.applied || decide (d.link p.val ≠ 5) || decide (d.rd HS_STATUS_MODE ≠ 1)) = false; rw [ha, hm, hl]; rfl
  have e : Machine.addressAssign p.val (d.rd GC_UNITID_ID) (some a) c r d =
      (if ((setAddr a c d).wr HS_ROOTINFO_ADDR r).disc = 2 then reachRun ((setAddr a c d).wr HS_ROOTINFO_ADDR r) else floodOwn ((setAddr a c d).wr HS_ROOTINFO_ADDR r)) := by
    unfold Machine.addressAssign
    rw [g, if_neg (by decide), if_pos (show d.rd GC_UNITID_ID = d.unitId from rfl)]
  obtain ⟨s1, s2, s3, s4, _⟩ := setAddr_eff a c d
  have s5 : (setAddr a c d).rd HS_STATUS_DISC = d.rd HS_STATUS_DISC := ((setAddr_after (Changes.refl _ _ _) (within_refl _) (covers_refl _) a c).rd (rows_not (by decide)))
  have w1 : ((setAddr a c d).wr HS_ROOTINFO_ADDR r).rd HS_STATUS_ADDR = a % 2 ^ 12 := (Dev.rd_wr_ne _ _ (by decide)).trans s1
  have w2 : ((setAddr a c d).wr HS_ROOTINFO_ADDR r).rd HS_STATUS_ADDR_VALID = 1 := (Dev.rd_wr_ne _ _ (by decide)).trans s2
  have w3 : ((setAddr a c d).wr HS_ROOTINFO_ADDR r).rd HS_STATUS_ADDR_FULL = 0 := (Dev.rd_wr_ne _ _ (by decide)).trans s3
  have w4 : ((setAddr a c d).wr HS_ROOTINFO_ADDR r).rd HS_ROOTINFO_ADDR = r % 2 ^ 12 := Dev.rd_wr_same (setAddr a c d) HS_ROOTINFO_ADDR r
  have w5 : ((setAddr a c d).wr HS_ROOTINFO_ADDR r).disc = d.rd HS_STATUS_DISC := (Dev.rd_wr_ne _ _ (by decide)).trans s5
  have w6 : ((setAddr a c d).wr HS_ROOTINFO_ADDR r).mem = d.mem := s4
  dsimp only
  rw [e]
  generalize (setAddr a c d).wr HS_ROOTINFO_ADDR r = x at w1 w2 w3 w4 w5 w6 ⊢
  by_cases h : x.disc = 2
  · rw [if_pos h]
    have k : ∀ f : Fld, ¬ Rows [.one 262856] f.bit → f.bit ≠ HS_STATUS_DISC.bit → f.bit ≠ HS_STATUS_FAILS.bit → (reachRun x).rd f = x.rd f := fun f h0 h1 h2 =>
      (reachRun_rd x h0).trans ((Dev.rd_wr_ne _ _ h2).trans (Dev.rd_wr_ne _ _ h1))
    refine ⟨(k _ (rows_not (by decide)) (by decide) (by decide)).trans w1, (k _ (rows_not (by decide)) (by decide) (by decide)).trans w2,
      (k _ (rows_not (by decide)) (by decide) (by decide)).trans w3, (k _ (rows_not (by decide)) (by decide) (by decide)).trans w4, fun _ => ?_, (floodOwn_mem _).trans w6⟩
    exact (reachRun_rd x (rows_not (by decide))).trans ((Dev.rd_wr_ne _ _ (by decide)).trans (Dev.rd_wr_same x HS_STATUS_DISC 3))
  · rw [if_neg h]
    exact ⟨(floodOwn_rd x (rows_not (by decide))).trans w1, (floodOwn_rd x (rows_not (by decide))).trans w2, (floodOwn_rd x (rows_not (by decide))).trans w3,
      (floodOwn_rd x (rows_not (by decide))).trans w4, fun hd => absurd (w5.trans hd) h, (floodOwn_mem x).trans w6⟩

/-- An LSA as its row receives it. -/
def lsaKept (i : LsaInfo) (t : Nat) : Lsa :=
  { addr := i.addr.toNat, unit := i.unit.toNat, seq := i.seq.toNat, links := i.links.map fun x => (x.1.val, x.2.1.toNat, x.2.2.toNat),
    upstream := i.upstream.map (·.toNat), at_ := t }

/-- What a newer LSA leaves before it is kept and flooded. -/
def lsaNoted (p : Nat) (l : Lsa) (d : Dev) : Dev :=
  let links := d.ownLsa.links
  let d := if (d.rd (HSP_NEIGH_ID p)) = l.unit then ((d.wr (HSP_STATUS_NEIGH p) l.addr).raise (HSP_STATUS_NEIGH_VALID p)) else d
  let d := if d.ownLsa.links ≠ links then floodOwn d else d
  let d := if d.rd HS_ROOT_ID = l.unit then d.wr HS_ROOTINFO_ADDR l.addr else d
  d.modHs fun h => { h with bindings := h.bindings.map fun b => if b.unit = l.unit then { b with present := true, last := l.at_ } else b }

theorem floodIf_rd (c : Prop) [Decidable c] (y : Dev) {f : Fld} (h : ∀ z, (floodOwn z).rd f = z.rd f) : (if c then floodOwn y else y).rd f = y.rd f := by
  split
  · exact h y
  · rfl

theorem lsaNoted_role (p : Fin 4) (l : Lsa) (d : Dev) : (lsaNoted p.val l d).rd HS_STATUS_ROLE = d.rd HS_STATUS_ROLE := by
  have hn : (if d.rd (HSP_NEIGH_ID p.val) = l.unit then (d.wr (HSP_STATUS_NEIGH p.val) l.addr).raise (HSP_STATUS_NEIGH_VALID p.val) else d).rd HS_STATUS_ROLE = d.rd HS_STATUS_ROLE := by
    split
    · exact (Dev.rd_raise_ne _ ((by decide : ∀ q : Fin 4, HS_STATUS_ROLE.bit ≠ (HSP_STATUS_NEIGH_VALID q.val).bit) p)).trans
        (Dev.rd_wr_ne _ _ ((by decide : ∀ q : Fin 4, HS_STATUS_ROLE.bit ≠ (HSP_STATUS_NEIGH q.val).bit) p))
    · rfl
  unfold lsaNoted
  dsimp only
  generalize (if d.rd (HSP_NEIGH_ID p.val) = l.unit then (d.wr (HSP_STATUS_NEIGH p.val) l.addr).raise (HSP_STATUS_NEIGH_VALID p.val) else d) = e at hn ⊢
  have hf := floodIf_rd (e.ownLsa.links ≠ d.ownLsa.links) e (f := HS_STATUS_ROLE) fun z => floodOwn_rd z (rows_not (by decide))
  generalize (if e.ownLsa.links ≠ d.ownLsa.links then floodOwn e else e) = g at hf ⊢
  rw [modHs_rd]
  split
  · exact (Dev.rd_wr_ne _ _ (by decide)).trans (hf.trans hn)
  · exact hf.trans hn

theorem putLsa_rd (l : Lsa) (y : Dev) (f : Fld) : (putLsa l y).rd f = y.rd f := rfl

theorem checkConflict_member (l : Lsa) (d : Dev) (h : d.rd HS_STATUS_ROLE ≠ 2) : checkConflict l d = d := by unfold checkConflict; exact if_pos h

theorem lsa_eq (p : Fin 4) (i : LsaInfo) (d : Dev) (ha : d.applied = true) (hl : d.link p.val = 5) (hm : d.rd HS_STATUS_MODE = 1)
    (hn : d.hs.lsas.find? (fun x => decide (x.unit = i.unit.toNat)) = none) (hu : i.unit.toNat ≠ d.rd GC_UNITID_ID) :
    Machine.lsa p.val i d = checkConflict (lsaKept i d.ns) (flood (some p.val) 2 1 (lsaKept i d.ns).bytes (putLsa (lsaKept i d.ns) (lsaNoted p.val (lsaKept i d.ns) d))) := by
  have g : (!d.applied || decide (d.link p.val ≠ lUP) || decide (d.hsMode ≠ 1)) = false := by
    show (!d.applied || decide (d.link p.val ≠ 5) || decide (d.rd HS_STATUS_MODE ≠ 1)) = false; rw [ha, hm, hl]; rfl
  unfold Machine.lsa
  rw [g, if_neg (by decide)]
  dsimp only
  rw [hn]
  dsimp only
  rw [if_neg (show ¬ ((!true || decide (i.unit.toNat = d.unitId)) = true) by simp [show ¬ i.unit.toNat = d.unitId from hu])]
  unfold lsaNoted
  rfl

theorem lsa_eff (p : Fin 4) (i : LsaInfo) (d : Dev) (ha : d.applied = true) (hl : d.link p.val = 5) (hm : d.rd HS_STATUS_MODE = 1)
    (hn : d.hs.lsas.find? (fun x => decide (x.unit = i.unit.toNat)) = none) (hu : i.unit.toNat ≠ d.rd GC_UNITID_ID) (hr : d.rd HS_STATUS_ROLE ≠ 2) :
    (∃ l ∈ (Machine.lsa p.val i d).hs.lsas, l.unit = i.unit.toNat ∧ l.addr = i.addr.toNat ∧ l.seq = i.seq.toNat) ∧ (Machine.lsa p.val i d).hs.stale = true ∧
    (Machine.lsa p.val i d).mem = d.mem := by
  have hm' : (Machine.lsa p.val i d).mem = d.mem := ((Machine.lsa_after (Changes.refl _ _ _) (within_refl _) (covers_refl _) p.val i).parts .mem (by decide))
  rw [lsa_eq p i d ha hl hm hn hu] at hm' ⊢
  have role : (flood (some p.val) 2 1 (lsaKept i d.ns).bytes (putLsa (lsaKept i d.ns) (lsaNoted p.val (lsaKept i d.ns) d))).rd HS_STATUS_ROLE = d.rd HS_STATUS_ROLE :=
    (((flood_after (Changes.refl _ _ _) (within_refl _) (covers_refl _) (some p.val) 2 1 (lsaKept i d.ns).bytes).rd (rows_not (by decide)))).trans ((putLsa_rd _ _ _).trans (lsaNoted_role p _ d))
  rw [checkConflict_member _ _ (by rw [role]; exact hr)] at hm' ⊢
  have k := flood_sent (some p.val) 2 1 (lsaKept i d.ns).bytes (putLsa (lsaKept i d.ns) (lsaNoted p.val (lsaKept i d.ns) d))
  refine ⟨⟨lsaKept i d.ns, ?_, rfl, rfl, rfl⟩, ?_, hm'⟩
  · rw [k.lsas]; unfold putLsa; exact List.mem_append_right _ (List.mem_singleton.2 rfl)
  · rw [k.stale]; rfl

theorem tcIf_rd (c : Prop) [Decidable c] (g : TcSt → TcSt) (y : Dev) (f : Fld) : (if c then y.modTc g else y).rd f = y.rd f := by split <;> rfl

theorem setUpstream_port (p : Fin 2) (a h : Nat) (r : Bool) (d : Dev) : (setUpstream (some (p.val, a, h)) r d).rd HS_UPSTREAM_PORT = p.val := by
  have k : ∀ y : Dev, ((((y.raise HS_UPSTREAM_VALID).wr HS_UPSTREAM_PORT p.val).wr HS_UPSTREAM_NEIGH a).wr HS_UPSTREAM_HOPS (min h 255)).rd HS_UPSTREAM_PORT = p.val := fun y =>
    (Dev.rd_wr_ne _ _ (by decide)).trans ((Dev.rd_wr_ne _ _ (by decide)).trans ((Dev.rd_wr_same (y.raise HS_UPSTREAM_VALID) HS_UPSTREAM_PORT p.val).trans
      (Nat.mod_eq_of_lt (Nat.lt_of_lt_of_le p.isLt (by decide)))))
  have f : ∀ (prev : Nat) (y : Dev), (fabricEvent 3 prev (y.raise HS_STATUS_PATH_CHANGED_SEEN)).rd HS_UPSTREAM_PORT = y.rd HS_UPSTREAM_PORT := fun prev y =>
    (((fabricEvent_after (Changes.refl _ _ _) (within_refl _) (covers_refl _) 3 prev).rd (rows_not (by decide)))).trans (Dev.rd_raise_ne _ (by decide))
  unfold setUpstream
  dsimp only
  by_cases c : ((!d.on HS_UPSTREAM_VALID || decide ((p.val, a) ≠ (d.rd HS_UPSTREAM_PORT, d.rd HS_UPSTREAM_NEIGH))) && r) = true
  · rw [if_pos c, f, tcIf_rd]; exact k _
  · rw [if_neg c, tcIf_rd]; exact k _

theorem chain_eq (p : Fin 2) (pos : Int) (st : Bool) (m : Nat) (d : Dev) (ha : d.applied = true) (hm : d.rd HS_STATUS_MODE = 2) (hl : d.link p.val = 5)
    (hs : d.on GC_STRAP_CASCADE_MASTER = false) (hf : d.followsChain p.val st = true) :
    ∃ b h q n, Machine.chain p.val pos st m d = sendChain (1 - p.val) q st (setUpstream (some (p.val, b, h)) n
      (setAddr (pos % 4096).toNat false ((setRoot (d.rd HS_ROOTINFO_PRIORITY) m ((d.wr HS_STATUS_ROLE 1).wr HS_STATUS_DISC 4)).modHs fun h => { h with position := pos, strapped := st }))) := by
  have g : (!d.applied || decide (d.hsMode ≠ 2) || decide (d.link p.val ≠ lUP) || decide (1 < p.val)) = false := by
    show (!d.applied || decide (d.rd HS_STATUS_MODE ≠ 2) || decide (d.link p.val ≠ 5) || decide (1 < p.val)) = false
    rw [ha, hm, hl, decide_eq_false (by omega : ¬ 1 < p.val)]; rfl
  unfold Machine.chain
  rw [g, if_neg (by decide), hs, Bool.false_and, if_neg (by decide), hf, if_neg (by decide)]
  exact ⟨_, _, _, _, rfl⟩

theorem chain_eff (p : Fin 2) (pos : Int) (st : Bool) (m : Nat) (d : Dev) (ha : d.applied = true) (hm : d.rd HS_STATUS_MODE = 2) (hl : d.link p.val = 5)
    (hs : d.on GC_STRAP_CASCADE_MASTER = false) (hf : d.followsChain p.val st = true) (hm64 : m < 2 ^ 64) :
    let e := Machine.chain p.val pos st m d
    e.rd HS_STATUS_ROLE = 1 ∧ e.rd HS_STATUS_DISC = 4 ∧ e.rd HS_STATUS_ADDR = (pos % 4096).toNat ∧ e.rd HS_STATUS_ADDR_VALID = 1 ∧ e.rd HS_ROOT_ID = m ∧
    e.hs.position = pos ∧ e.rd HS_UPSTREAM_PORT = p.val ∧ e.mem = d.mem := by
  obtain ⟨b, h, q, n, e⟩ := chain_eq p pos st m d ha hm hl hs hf
  have hmem : (Machine.chain p.val pos st m d).mem = d.mem := ((Machine.chain_after (Changes.refl _ _ _) (within_refl _) (covers_refl _) p.val pos st m).parts .mem (by decide))
  dsimp only
  rw [e] at hmem ⊢
  have c1 : ∀ (y : Dev) (f : Fld), ¬ Rows [.one 262856] f.bit → (sendChain (1 - p.val) q st y).rd f = y.rd f := fun y f hf => (sendChain_after (Changes.refl _ _ _) (within_refl _) (covers_refl _) (1 - p.val) q st).rd hf
  have r1 : (setRoot (d.rd HS_ROOTINFO_PRIORITY) m ((d.wr HS_STATUS_ROLE 1).wr HS_STATUS_DISC 4)).rd HS_STATUS_ROLE = 1 :=
    (((setRoot_after (Changes.refl _ _ _) (within_refl _) (covers_refl _) (d.rd HS_ROOTINFO_PRIORITY) m).rd (rows_not (by decide)))).trans ((Dev.rd_wr_ne _ _ (by decide)).trans (Dev.rd_wr_same d HS_STATUS_ROLE 1))
  have r2 : (setRoot (d.rd HS_ROOTINFO_PRIORITY) m ((d.wr HS_STATUS_ROLE 1).wr HS_STATUS_DISC 4)).rd HS_STATUS_DISC = 4 :=
    (((setRoot_after (Changes.refl _ _ _) (within_refl _) (covers_refl _) (d.rd HS_ROOTINFO_PRIORITY) m).rd (rows_not (by decide)))).trans (Dev.rd_wr_same (d.wr HS_STATUS_ROLE 1) HS_STATUS_DISC 4)
  have r3 := (setRoot_rd (d.rd HS_ROOTINFO_PRIORITY) m ((d.wr HS_STATUS_ROLE 1).wr HS_STATUS_DISC 4)).1
  rw [Nat.mod_eq_of_lt hm64] at r3
  generalize setRoot (d.rd HS_ROOTINFO_PRIORITY) m ((d.wr HS_STATUS_ROLE 1).wr HS_STATUS_DISC 4) = x at r1 r2 r3 hmem ⊢
  have x1 : (x.modHs fun h => { h with position := pos, strapped := st }).rd HS_STATUS_ROLE = 1 := r1
  have x2 : (x.modHs fun h => { h with position := pos, strapped := st }).rd HS_STATUS_DISC = 4 := r2
  have x3 : (x.modHs fun h => { h with position := pos, strapped := st }).rd HS_ROOT_ID = m := r3
  have x4 : (x.modHs fun h => { h with position := pos, strapped := st }).hs.position = pos := rfl
  generalize (x.modHs fun h => { h with position := pos, strapped := st }) = y at x1 x2 x3 x4 hmem ⊢
  obtain ⟨a1, a2, a3, a4, a5⟩ := setAddr_eff (pos % 4096).toNat false y
  have a6 : (setAddr (pos % 4096).toNat false y).rd HS_STATUS_ROLE = 1 := (((setAddr_after (Changes.refl _ _ _) (within_refl _) (covers_refl _) (pos % 4096).toNat false).rd (rows_not (by decide)))).trans x1
  have a7 : (setAddr (pos % 4096).toNat false y).rd HS_STATUS_DISC = 4 := (((setAddr_after (Changes.refl _ _ _) (within_refl _) (covers_refl _) (pos % 4096).toNat false).rd (rows_not (by decide)))).trans x2
  have a8 : (setAddr (pos % 4096).toNat false y).rd HS_ROOT_ID = m := (((setAddr_after (Changes.refl _ _ _) (within_refl _) (covers_refl _) (pos % 4096).toNat false).rd (rows_not (by decide)))).trans x3
  have hp : (pos % 4096).toNat % 2 ^ 12 = (pos % 4096).toNat := Nat.mod_eq_of_lt (by omega)
  rw [hp] at a1
  generalize setAddr (pos % 4096).toNat false y = z at a1 a2 a3 a4 a5 a6 a7 a8 hmem ⊢
  have u : ∀ f : Fld, ¬ Rows [.one 262368, .one 262496, .one 262508, .one 262524, .one 262527, .row 0x5014 2 0x800 6, .row 0x5014 2 0x800 24, .row 0x8104 4 0x40 14, .row 0x2100c 32 0x40 3, .row 0x2100c 32 0x40 4, .row 0x2100c 32 0x40 5, .row 0x21024 32 0x40 0] f.bit →
    (setUpstream (some (p.val, b, h)) n z).rd f = z.rd f := fun f hf => (setUpstream_after (Changes.refl _ _ _) (within_refl _) (covers_refl _) (some (p.val, b, h)) n).rd hf
  refine ⟨?_, ?_, ?_, ?_, ?_, ?_, ?_, hmem⟩
  · exact (c1 _ _ (rows_not (by decide))).trans ((u _ (rows_not (by decide))).trans a6)
  · exact (c1 _ _ (rows_not (by decide))).trans ((u _ (rows_not (by decide))).trans a7)
  · exact (c1 _ _ (rows_not (by decide))).trans ((u _ (rows_not (by decide))).trans a1)
  · exact (c1 _ _ (rows_not (by decide))).trans ((u _ (rows_not (by decide))).trans a2)
  · exact (c1 _ _ (rows_not (by decide))).trans ((u _ (rows_not (by decide))).trans a8)
  · exact (sendChain_sent _ _ _ _).position.trans ((setUpstream_sent _ _ _).position.trans (a5.trans x4))
  · exact (c1 _ _ (rows_not (by decide))).trans (setUpstream_port p b h n z)

theorem helloSend_eff (d : Dev) (ha : d.applied = true) (hd : d.rd HS_STATUS_DISC = 1) :
    Machine.helloSend d = flood none 1 1 (leBytes 1 (d.rd HS_MCFG_PRIORITY) ++ leBytes 8 (d.rd GC_UNITID_ID) ++ leBytes 1 d.hs.cand.1 ++ leBytes 8 d.hs.cand.2.1 ++
        leBytes 2 d.hs.cand.2.2) d := by
  unfold Machine.helloSend
  rw [ha, show d.disc = 1 from hd]
  rfl

theorem addressAssign_row (s : State) (p : Fin 4) (u : BitVec 64) (a : BitVec 12) (c : Bool) (r : BitVec 12) (ha : s.dev.applied = true) (hm : s.dev.rd HS_STATUS_MODE = 1)
    (hl : s.dev.link p.val = 5) (hu : u.toNat = s.dev.rd GC_UNITID_ID) :
    Completes (.addressAssign p u (some a) c r) s fun d =>
      d.rd HS_STATUS_ADDR = a.toNat ∧ d.rd HS_STATUS_ADDR_VALID = 1 ∧ d.rd HS_STATUS_ADDR_FULL = 0 ∧ d.rd HS_ROOTINFO_ADDR = r.toNat ∧
      (s.dev.rd HS_STATUS_DISC = 2 → d.rd HS_STATUS_DISC = 3) ∧ d.mem = s.dev.mem := by
  refine Completes.of (Machine.addressAssign p.val u.toNat (some a.toNat) c r.toNat) rfl ?_
  rw [hu]
  have k := addressAssign_eff p a.toNat r.toNat c { s.dev with out := [] } ha hl hm
  dsimp only at k
  rw [Nat.mod_eq_of_lt a.isLt, Nat.mod_eq_of_lt r.isLt] at k
  exact k

theorem routingUpdate_row (s : State) (ha : s.dev.applied = true) (hm : s.dev.rd HS_STATUS_MODE = 1) (hd : s.dev.rd HS_STATUS_DISC = 3) (hk : s.dev.power.linkDue = false) (ho : s.dev.hs.orphans = []) :
    Completes .routingTableUpdate s fun d => d.hs.routes = s.dev.computeRoutes ∧ d.mem = s.dev.mem := by
  refine Completes.of (fun d => linkReset (routingUpdate d)) rfl ?_
  obtain ⟨k1, k2, k3⟩ := routingUpdate_eff { s.dev with out := [] } ha hm hd ho
  dsimp only
  rw [linkReset_idle _ (by rw [k3]; exact hk)]
  exact ⟨k1, k2⟩

theorem choose_out (d : Dev) (u : Nat) (h : Option Nat) : ({ d with out := [] } : Dev).choose u h = d.choose u h := by
  unfold Dev.choose
  rfl

theorem addressRequest_row (s : State) (p : Fin 4) (u : BitVec 64) (h : Option (BitVec 12)) (a : Nat) (ha : s.dev.applied = true) (hm : s.dev.rd HS_STATUS_MODE = 1)
    (hl : s.dev.link p.val = 5) (hr : s.dev.rd HS_STATUS_ROLE = 2) (hc : s.dev.choose u.toNat (h.map (·.toNat)) = some a) :
    Completes (.addressRequest p u h) s fun d =>
      d = sendLocal p.val 1 3 (leBytes 8 u.toNat ++ leBytes 2 a ++ [0, 0]) (assignAs u.toNat a { s.dev with out := [] }) ∧
      ∃ b ∈ d.hs.bindings, b.unit = u.toNat ∧ b.addr = a ∧ b.present = true   := by
  have hc' : ({ s.dev with out := [] } : Dev).choose u.toNat (h.map (·.toNat)) = some a := (choose_out s.dev _ _).trans hc
  have k := addressRequest_eff p u.toNat a (h.map (·.toNat)) { s.dev with out := [] } ha hl hm hr hc'
  have e : exec (.addressRequest p u h) s = s.act (Machine.addressRequest p.val u.toNat (h.map (·.toNat))) := rfl
  refine Completes.of _ e ?_
  exact ⟨k.1, k.2⟩

theorem lsa_row (s : State) (p : Fin 4) (i : LsaInfo) (ha : s.dev.applied = true) (hm : s.dev.rd HS_STATUS_MODE = 1)
    (hl : s.dev.link p.val = 5) (hn : s.dev.hs.lsas.find? (fun x => decide (x.unit = i.unit.toNat)) = none) (hi : i.unit.toNat ≠ s.dev.rd GC_UNITID_ID)
    (hr : s.dev.rd HS_STATUS_ROLE ≠ 2) :
    Completes (.lsa p i) s fun d =>
      (∃ l ∈ d.hs.lsas, l.unit = i.unit.toNat ∧ l.addr = i.addr.toNat ∧ l.seq = i.seq.toNat) ∧ d.hs.stale = true ∧ d.mem = s.dev.mem :=
  Completes.of (Machine.lsa p.val i) rfl (lsa_eff p i { s.dev with out := [] } ha hl hm hn hi hr)

theorem hello_row (s : State) (p : Fin 4) (prio : Byte) (u : BitVec 64) (hops : BitVec 16) (ha : s.dev.applied = true) (hm : s.dev.rd HS_STATUS_MODE = 1)
    (hl : s.dev.link p.val = 5) (hd : s.dev.rd HS_STATUS_DISC = 1) (hb : better (prio.toNat, u.toNat, hops.toNat) s.dev.hs.cand = true) :
    Completes (.hello p prio u hops) s fun d =>
          d.hs.cand = (prio.toNat, u.toNat, hops.toNat + 1) ∧ d.hs.candAt = s.dev.ns ∧ (d.port p.val).heard = some (prio.toNat, u.toNat, hops.toNat) ∧
          d.regs = s.dev.regs ∧ d.mem = s.dev.mem :=
  Completes.of (Machine.hello p.val prio.toNat u.toNat hops.toNat) rfl (hello_eff p prio.toNat u.toNat hops.toNat { s.dev with out := [] } ha hl hm hd hb)

end Sys2Proof.Machine
end

