-- ==== Sys2Proof/Laws/EffectsClock.lean ====
section
/-!
SUPPORT. What the operations of Machine/Clock do.
-/

set_option Elab.async false
set_option linter.all false

namespace Sys2Proof.Machine

/-- Two states of the Tideclock agree but for the items owed to Q24. -/
def TcSt.Told (a b : TcSt) : Prop := { b with owed := [] } = { a with owed := [] }

theorem TcSt.Told.trans {a b c : TcSt} (h : a.Told b) (k : b.Told c) : a.Told c := Eq.trans k h
theorem TcSt.Told.of {a b : TcSt} (h : b = a) : a.Told b := by subst h; rfl
theorem TcSt.Told.held {a b : TcSt} (h : a.Told b) : b.held = a.held := (congrArg TcSt.held h : _)
theorem TcSt.Told.pulses {a b : TcSt} (h : a.Told b) : b.pulses = a.pulses := (congrArg TcSt.pulses h : _)
theorem TcSt.Told.caps {a b : TcSt} (h : a.Told b) : b.caps = a.caps := (congrArg TcSt.caps h : _)
theorem TcSt.Told.dlyPort {a b : TcSt} (h : a.Told b) : b.dlyPort = a.dlyPort := (congrArg TcSt.dlyPort h : _)

theorem post_tc (d : Dev) (i typ : Nat) (ws : List Word) : (d.post i typ ws).tc = d.tc := ((Dev.post_after (Changes.refl _ _ _) (within_refl _) (covers_refl _) i typ ws).parts .tc (by decide))

theorem timeEvent_told (kind : Nat) (x : Int) (d : Dev) : d.tc.Told (timeEvent kind x d).tc := by
  unfold timeEvent; dsimp only; split
  · exact .of (post_tc _ _ _ _)
  · rfl

theorem ofSigned_mod (w : Nat) (v : Int) : ofSigned w v % 2 ^ w = ofSigned w v := by
  unfold ofSigned
  have h : (0 : Int) < 2 ^ w := Int.pow_pos (by decide)
  have a := Int.emod_nonneg v (Int.ne_of_gt h)
  have b := Int.emod_lt_of_pos v h
  apply Nat.mod_eq_of_lt
  have : (2 : Int) ^ w = ((2 ^ w : Nat) : Int) := by push_cast; rfl
  omega

theorem modTc_rd (d : Dev) (g : TcSt → TcSt) (f : Fld) : (d.modTc g).rd f = d.rd f := rfl

/-! Steps and offsets. -/

/-- What follows a step once it is noted. -/
theorem applyStep_tail (x : Int) (c : Nat) (d : Dev) :
    Changes [.regs, .power, .ts, .lq, .out, .sv, .tc, .hs] [.one 32896, .one 33000, .one 33184, .one 33185, .one 33186, .one 33190, .one 33192, .one 33196, .one 34911, .one 131920, .row 0x4118 4 0x20 0, .row 0x4118 4 0x20 23, .row 0x5014 2 0x800 6, .row 0x5014 2 0x800 24, .row 0x2100c 32 0x40 3, .row 0x2100c 32 0x40 4, .row 0x2100c 32 0x40 5, .row 0x21024 32 0x40 0]
      (({ (if x < 0 then beginGrants d else d) with time := ((d.time : Int) + x).toNat }.raise TC_STATUS_SET).raise TC_STATUS_STEPPED) (applyStep x c d) := by
  unfold applyStep
  dsimp only
  generalize (if x < 0 then beginGrants d else d) = e
  generalize ({ e with time := ((d.time : Int) + x).toNat }.raise TC_STATUS_SET).raise TC_STATUS_STEPPED = g
  repeat' first
    | (with_reducible exact Changes.refl _ _ _)
    | (with_reducible assumption)
    | (with_reducible refine ite_after ?_ ?_)
    | (with_reducible apply passEdges_after)
    | (with_reducible apply fireWake_after)
    | (with_reducible apply Dev.modTc_after)
    | (with_reducible apply timeEvent_after)
    | (with_reducible apply audit_after)
    | (with_reducible apply raise_after)
    | (with_reducible apply lower_after)
    | (with_reducible apply wr_after)
    | (with_reducible apply flag_after)
    | (with_reducible apply countSat_after)
    | (with_reducible apply raiseIf_after)
    | (with_reducible apply when_after)
    | (with_reducible apply each_after)
    | (intro _; try dsimp only)
    | exact within_trans (by decide) (within_refl _)
    | exact covers_trans (by decide +kernel) (covers_refl _)
    | exact rows_one (covers_refl _) (by decide +kernel)
    | exact rows_row (covers_refl _) (by decide +kernel) (by decide)
    | split

theorem applyStep_eff (x : Int) (c : Nat) (d : Dev) : (applyStep x c d).time = ((d.time : Int) + x).toNat ∧ (applyStep x c d).rd TC_STATUS_SET = 1 ∧
    (applyStep x c d).rd TC_STATUS_STEPPED = 1 := by
  have k := applyStep_tail x c d
  exact ⟨k.parts .time (by decide), (k.rd (rows_not (by decide))).trans ((Dev.rd_raise_ne _ (by decide)).trans (Dev.rd_raise_same _ _)),
    (k.rd (rows_not (by decide))).trans (Dev.rd_raise_same _ _)⟩

theorem passEdges_held (k : Nat) (d : Dev) : (passEdges k d).tc.held = d.tc.held := by
  unfold passEdges
  dsimp only
  split
  · rfl
  · split
    · split <;> rfl
    · rfl
theorem passAll_held (xs : List Nat) (d : Dev) : (d.each xs passEdges).tc.held = d.tc.held := by
  induction xs generalizing d with
  | nil => rfl
  | cons x xs ih => exact (ih (passEdges x d)).trans (passEdges_held x d)
theorem fireWake_tc (w : WakeSource) (d : Dev) : (fireWake w d).tc = d.tc := ((fireWake_after (Changes.refl _ _ _) (within_refl _) (covers_refl _) w).parts .tc (by decide))
theorem audit_tc (a : AuditJob) (d : Dev) : (audit a d).tc = d.tc := ((audit_after (Changes.refl _ _ _) (within_refl _) (covers_refl _) a).parts .tc (by decide))
theorem tcHeld_ite {p : Prop} {_ : Decidable p} {x y : Dev} {h : Option Int} (a : x.tc.held = h) (b : y.tc.held = h) : (if p then x else y).tc.held = h := by split <;> assumption

theorem applyStep_held (x : Int) (c : Nat) (d : Dev) : (applyStep x c d).tc.held = d.tc.held := by
  unfold applyStep
  dsimp only
  rw [(timeEvent_told _ _ _).held, audit_tc]
  have h : (if x < 0 then beginGrants d else d).tc = d.tc := by split <;> rfl
  generalize (if x < 0 then beginGrants d else d) = e at h ⊢
  have b := (passAll_held (upTo 4) ((({ e with time := ((d.time : Int) + x).toNat }.raise TC_STATUS_SET).raise TC_STATUS_STEPPED).countSat TC_COUNTS_STEPS 1)).trans
    (congrArg TcSt.held h)
  have f : ∀ y : Dev, (y.modTc fun t => { t with fresh := true }).tc.held = y.tc.held := fun _ => rfl
  refine tcHeld_ite ?_ ((f _).trans ?_)
  · exact tcHeld_ite ((congrArg TcSt.held (fireWake_tc _ _)).trans b) b
  · exact tcHeld_ite ((congrArg TcSt.held (fireWake_tc _ _)).trans b) b

theorem stepped_time {t : Nat} {x z : Int} (hz : z = -x * 2 ^ 24) (hx : x ≤ 0) : (((t : Int) + z).toNat : Int) = t - x * 2 ^ 24 := by omega

theorem judge_acquired (x : Int) (d : Dev) (h : d.on TC_STATUS_SET = false) (hx : x < 0) :
    ((judge x d).time : Int) = d.time - x * 2 ^ 24 ∧ (judge x d).rd TC_STATUS_SET = 1 ∧ (judge x d).rd TC_STATUS_STEPPED = 1 ∧
    (judge x d).rd TC_LAST_OFFSET_VERDICT = 3 := by
  obtain ⟨z, hz⟩ : ∃ z : Int, z = -x * 2 ^ 24 := ⟨_, rfl⟩
  have e : judge x d = applyStep z 1 (lastOffset x 3 d) := by
    unfold judge; dsimp only; rw [h, decide_eq_true hx, ← hz]; exact if_pos rfl
  have k : (lastOffset x 3 d).time = d.time := rfl
  have v : (lastOffset x 3 d).rd TC_LAST_OFFSET_VERDICT = 3 := (Dev.rd_wr_ne _ _ (by decide)).trans (Dev.rd_wr_same d TC_LAST_OFFSET_VERDICT 3)
  generalize lastOffset x 3 d = y at e k v
  obtain ⟨a, b, c⟩ := applyStep_eff z 1 y
  rw [e]
  refine ⟨?_, b, c, (((applyStep_after (Changes.refl _ _ _) (within_refl _) (covers_refl _) z 1).rd (rows_not (by decide)))).trans v⟩
  rw [a, k]
  exact stepped_time hz (by omega)

theorem judge_refused (x : Int) (d : Dev) (h : d.on TC_STATUS_SET = true ∨ 0 ≤ x)
    (hl : ((d.rd TC_JUMP_LIMIT_LIMIT * 65536 : Nat) : Int) < x ∨ x < -((d.rd TC_JUMP_LIMIT_LIMIT * 65536 : Nat) : Int)) :
    (judge x d).time = d.time ∧ (judge x d).tc.held = some x ∧ (judge x d).rd TC_LAST_OFFSET_VERDICT = 2 ∧ (judge x d).rd TC_STATUS_STEP_REFUSED = 1 ∧
    (judge x d).rd TC_STATUS_REFUSED_PENDING = 1 ∧ (judge x d).mem = d.mem := by
  have g : (!d.on TC_STATUS_SET && decide (x < 0)) = false := by
    rcases h with h | h
    · rw [h]; rfl
    · rw [decide_eq_false (by omega), Bool.and_false]
  have e : judge x d = timeEvent 1 x ((((((lastOffset x 2 d).raise TC_STATUS_STEP_REFUSED).raise TC_STATUS_REFUSED_PENDING).countSat TC_COUNTS_REFUSED 1)).modTc fun t =>
      { t with held := some x }) := by
    unfold judge; dsimp only; rw [g]; exact (if_neg (by decide)).trans (if_pos (by rw [Bool.or_eq_true, decide_eq_true_eq, decide_eq_true_eq]; exact hl))
  rw [e]
  refine ⟨((timeEvent_after (Changes.refl _ _ _) (within_refl _) (covers_refl _) 1 x).parts .time (by decide)), (timeEvent_told _ _ _).held, ?_, ?_, ?_, ((timeEvent_after (Changes.refl _ _ _) (within_refl _) (covers_refl _) 1 x).parts .mem (by decide))⟩
  · exact (((timeEvent_after (Changes.refl _ _ _) (within_refl _) (covers_refl _) 1 x).rd (rows_not (by decide)))).trans ((modTc_rd _ _ _).trans ((Dev.rd_countSat_ne _ _ (by decide)).trans ((Dev.rd_raise_ne _ (by decide)).trans ((Dev.rd_raise_ne _ (by decide)).trans
      ((Dev.rd_wr_ne _ _ (by decide)).trans (Dev.rd_wr_same d TC_LAST_OFFSET_VERDICT 2))))))
  · exact (((timeEvent_after (Changes.refl _ _ _) (within_refl _) (covers_refl _) 1 x).rd (rows_not (by decide)))).trans ((modTc_rd _ _ _).trans ((Dev.rd_countSat_ne _ _ (by decide)).trans ((Dev.rd_raise_ne _ (by decide)).trans (Dev.rd_raise_same _ _))))
  · exact (((timeEvent_after (Changes.refl _ _ _) (within_refl _) (covers_refl _) 1 x).rd (rows_not (by decide)))).trans ((modTc_rd _ _ _).trans ((Dev.rd_countSat_ne _ _ (by decide)).trans (Dev.rd_raise_same _ _)))

theorem leaveHoldover_told (d : Dev) : d.tc.Told (leaveHoldover d).tc := by
  unfold leaveHoldover; split
  · exact timeEvent_told 4 0 (d.lower TC_STATUS_HOLDOVER)
  · rfl

theorem judge_accepted (x : Int) (d : Dev) (h : d.on TC_STATUS_SET = true ∨ 0 ≤ x) (h1 : x ≤ ((d.rd TC_JUMP_LIMIT_LIMIT * 65536 : Nat) : Int))
    (h2 : -((d.rd TC_JUMP_LIMIT_LIMIT * 65536 : Nat) : Int) ≤ x) :
    (judge x d).time = d.time ∧ (judge x d).tc.held = none ∧ (judge x d).rd TC_LAST_OFFSET_VERDICT = 1 ∧ (judge x d).rd TC_STATUS_REFUSED_PENDING = 0 ∧
    (judge x d).mem = d.mem := by
  have g : (!d.on TC_STATUS_SET && decide (x < 0)) = false := by
    rcases h with h | h
    · rw [h]; rfl
    · rw [decide_eq_false (by omega), Bool.and_false]
  have hl : ¬ (((d.rd TC_JUMP_LIMIT_LIMIT * 65536 : Nat) : Int) < x ∨ x < -((d.rd TC_JUMP_LIMIT_LIMIT * 65536 : Nat) : Int)) := by
    rintro (k | k)
    · exact absurd h1 (by omega)
    · exact absurd h2 (by omega)
  have e : judge x d = leaveHoldover (((servo x (lastOffset x 1 d)).lower TC_STATUS_REFUSED_PENDING).modTc fun t => { t with held := none }) := by
    unfold judge; dsimp only; rw [g]; exact (if_neg (by decide)).trans (if_neg (by rw [Bool.or_eq_true, decide_eq_true_eq, decide_eq_true_eq]; exact hl))
  rw [e]
  refine ⟨((leaveHoldover_after (Changes.refl _ _ _) (within_refl _) (covers_refl _)).parts .time (by decide)).trans ((servo_after (Changes.refl _ _ _) (within_refl _) (covers_refl _) x).parts .time (by decide)), (leaveHoldover_told _).held, ?_, ?_, ((leaveHoldover_after (Changes.refl _ _ _) (within_refl _) (covers_refl _)).parts .mem (by decide)).trans ((servo_after (Changes.refl _ _ _) (within_refl _) (covers_refl _) x).parts .mem (by decide))⟩
  · exact (((leaveHoldover_after (Changes.refl _ _ _) (within_refl _) (covers_refl _)).rd (rows_not (by decide)))).trans ((modTc_rd _ _ _).trans ((Dev.rd_lower_ne _ (by decide)).trans ((((servo_after (Changes.refl _ _ _) (within_refl _) (covers_refl _) x).rd (rows_not (by decide)))).trans
      ((Dev.rd_wr_ne _ _ (by decide)).trans (Dev.rd_wr_same d TC_LAST_OFFSET_VERDICT 1)))))
  · exact (((leaveHoldover_after (Changes.refl _ _ _) (within_refl _) (covers_refl _)).rd (rows_not (by decide)))).trans ((modTc_rd _ _ _).trans (Dev.rd_lower_same _ _))

theorem offsetCommit_eff (p : Path) (w : Word) (d : Dev) (h : d.rd TC_CFG_SRC = 1) :
    offsetCommit p w d = judge (toSigned 64 (join64 (d.staged p 0x4040 0) w.toNat)) (d.unstage p) := by
  unfold offsetCommit; dsimp only
  exact if_neg (not_not_intro h)

theorem tcAcceptStep_eq (x z : Int) (d : Dev) (h : d.tc.held = some x) (hx : x ≤ 0) (hz : z = -x * 2 ^ 24) :
    tcAcceptStep d = tcEnd cDONE (applyStep z 3 ((d.modTc fun t => { t with held := none }).lower TC_STATUS_REFUSED_PENDING)) := by
  unfold tcAcceptStep; rw [h]; dsimp only; rw [← hz, if_neg (by omega)]

theorem tcEnd_time (c : Nat) (y : Dev) : (tcEnd c y).time = y.time := rfl
theorem tcEnd_tc (c : Nat) (y : Dev) : (tcEnd c y).tc = y.tc := rfl
theorem tcEnd_rd (c : Nat) (y : Dev) {f : Fld} (h : f.bit ≠ TC_CMD_STATUS_CODE.bit) : (tcEnd c y).rd f = y.rd f := Dev.rd_wr_ne y c h
theorem tcEnd_code (c : Nat) (y : Dev) : (tcEnd c y).rd TC_CMD_STATUS_CODE = c % 2 ^ 8 := Dev.rd_wr_same y TC_CMD_STATUS_CODE c
theorem stepPending (z : Int) (c : Nat) (y : Dev) : (applyStep z c y).rd TC_STATUS_REFUSED_PENDING = y.rd TC_STATUS_REFUSED_PENDING := ((applyStep_after (Changes.refl _ _ _) (within_refl _) (covers_refl _) z c).rd (rows_not (by decide)))

theorem accepted_eff (z : Int) (y : Dev) (h : y.tc.held = none) (k : y.rd TC_STATUS_REFUSED_PENDING = 0) :
    (tcEnd cDONE (applyStep z 3 y)).time = ((y.time : Int) + z).toNat ∧ (tcEnd cDONE (applyStep z 3 y)).tc.held = none ∧
    (tcEnd cDONE (applyStep z 3 y)).rd TC_STATUS_REFUSED_PENDING = 0 ∧ (tcEnd cDONE (applyStep z 3 y)).rd TC_CMD_STATUS_CODE = 0 := by
  rw [tcEnd_time, tcEnd_tc, tcEnd_rd _ _ (by decide), tcEnd_code, stepPending, applyStep_held, (applyStep_eff z 3 y).1]
  exact ⟨rfl, h, k, rfl⟩

theorem tcAcceptStep_eff (x : Int) (d : Dev) (h : d.tc.held = some x) (hx : x ≤ 0) :
    ((tcAcceptStep d).time : Int) = d.time - x * 2 ^ 24 ∧ (tcAcceptStep d).tc.held = none ∧ (tcAcceptStep d).rd TC_STATUS_REFUSED_PENDING = 0 ∧
    (tcAcceptStep d).rd TC_CMD_STATUS_CODE = 0 := by
  obtain ⟨z, hz⟩ : ∃ z : Int, z = -x * 2 ^ 24 := ⟨_, rfl⟩
  have k := accepted_eff z ((d.modTc fun t => { t with held := none }).lower TC_STATUS_REFUSED_PENDING) rfl (Dev.rd_lower_same _ _)
  rw [tcAcceptStep_eq x z d h hx hz]
  refine ⟨?_, k.2⟩
  rw [k.1]
  exact stepped_time hz hx

/-- A new source's registers, before its event. -/
def sourced (w : Word) (d : Dev) : Dev :=
  let e := ((((d.wr TC_CFG_SRC (bits w.toNat 31 30)).wr TC_CFG_ALLOW_BACK (bits w.toNat 29 29)).wr TC_CFG_KP_SHIFT (bits w.toNat 27 24)).wr TC_CFG_KI_SHIFT (bits w.toNat 23 20))
  let e := e.modTc fun t => { t with fresh := true, beaconAt := e.ns }
  (e.wr TC_MASTER_ID (if bits w.toNat 31 30 = 0 then 0 else if bits w.toNat 31 30 = 2 then e.rootUnit else e.rd TC_MASTER_ID)).raise TC_STATUS_MASTER_CHANGED

theorem srcWrite_tail (p : Path) (w : Word) (d : Dev) (h : bits w.toNat 31 30 ≠ 3) (hn : bits w.toNat 31 30 ≠ d.rd TC_CFG_SRC) :
    Changes [.regs, .lq, .out, .sv, .tc, .hs] [.one 131454, .one 131904, .row 0x5014 2 0x800 6, .row 0x5014 2 0x800 24, .row 0x2100c 32 0x40 3, .row 0x2100c 32 0x40 4, .row 0x2100c 32 0x40 5, .row 0x21024 32 0x40 0]
      (sourced w d) (Machine.srcWrite p w d) := by
  unfold Machine.srcWrite
  dsimp only
  rw [if_neg h, if_neg hn]
  change Changes _ _ _ (if _ then leaveHoldover (timeEvent 5 0 ((sourced w d).countSat TC_COUNTS_MASTERS 1)) else timeEvent 5 0 ((sourced w d).countSat TC_COUNTS_MASTERS 1))
  repeat' first
    | (with_reducible exact Changes.refl _ _ _)
    | (with_reducible assumption)
    | (with_reducible refine ite_after ?_ ?_)
    | (with_reducible apply leaveHoldover_after)
    | (with_reducible apply timeEvent_after)
    | (with_reducible apply raise_after)
    | (with_reducible apply lower_after)
    | (with_reducible apply wr_after)
    | (with_reducible apply flag_after)
    | (with_reducible apply countSat_after)
    | (with_reducible apply raiseIf_after)
    | (with_reducible apply when_after)
    | (with_reducible apply each_after)
    | (intro _; try dsimp only)
    | exact within_trans (by decide) (within_refl _)
    | exact covers_trans (by decide +kernel) (covers_refl _)
    | exact rows_one (covers_refl _) (by decide +kernel)
    | exact rows_row (covers_refl _) (by decide +kernel) (by decide)
    | split

theorem srcWrite_eff (p : Path) (w : Word) (d : Dev) (h : bits w.toNat 31 30 ≠ 3) (hn : bits w.toNat 31 30 ≠ d.rd TC_CFG_SRC) :
    (Machine.srcWrite p w d).rd TC_CFG_SRC = bits w.toNat 31 30 ∧ (Machine.srcWrite p w d).rd TC_STATUS_MASTER_CHANGED = 1 ∧ (Machine.srcWrite p w d).mem = d.mem := by
  have k := srcWrite_tail p w d h hn
  refine ⟨(k.rd (rows_not (by decide))).trans ?_, (k.rd (rows_not (by decide))).trans (Dev.rd_raise_same _ _), k.parts .mem (by decide)⟩
  unfold sourced
  dsimp only
  exact (Dev.rd_raise_ne _ (by decide)).trans ((Dev.rd_wr_ne _ _ (by decide)).trans ((modTc_rd _ _ _).trans ((Dev.rd_wr_ne _ _ (by decide)).trans ((Dev.rd_wr_ne _ _ (by decide)).trans
    ((Dev.rd_wr_ne _ _ (by decide)).trans ((Dev.rd_wr_same d TC_CFG_SRC _).trans (Nat.mod_eq_of_lt (bits_lt w.toNat 31 30))))))))

theorem masterCommit_eff (p : Path) (w : Word) (d : Dev) (v : Nat) (hv : v = join64 (d.staged p 0x4060 (d.rd TC_MASTER_ID % 2 ^ 32)) w.toNat) (hn : v ≠ d.rd TC_MASTER_ID) :
    (masterCommit p w d).rd TC_MASTER_ID = v % 2 ^ 64 ∧ (masterCommit p w d).rd TC_STATUS_MASTER_CHANGED = 1 ∧ (masterCommit p w d).mem = d.mem := by
  have u : (d.unstage p).rd TC_MASTER_ID = d.rd TC_MASTER_ID := rfl
  have e : masterCommit p w d = timeEvent 5 0 (((((d.unstage p).wr TC_MASTER_ID v).raise TC_STATUS_MASTER_CHANGED).countSat TC_COUNTS_MASTERS 1).modTc fun t => { t with fresh := true }) := by
    unfold masterCommit setMaster
    dsimp only
    rw [← hv, if_neg (by rw [u]; exact fun k => hn k.symm)]
  rw [e]
  have m : (d.unstage p).mem = d.mem := rfl
  generalize d.unstage p = y at m
  refine ⟨?_, ?_, ((timeEvent_after (Changes.refl _ _ _) (within_refl _) (covers_refl _) 5 0).parts .mem (by decide)).trans m⟩
  · exact (((timeEvent_after (Changes.refl _ _ _) (within_refl _) (covers_refl _) 5 0).rd (rows_not (by decide)))).trans ((modTc_rd _ _ _).trans ((Dev.rd_countSat_ne _ _ (by decide)).trans ((Dev.rd_raise_ne _ (by decide)).trans (Dev.rd_wr_same y TC_MASTER_ID v))))
  · exact (((timeEvent_after (Changes.refl _ _ _) (within_refl _) (covers_refl _) 5 0).rd (rows_not (by decide)))).trans ((modTc_rd _ _ _).trans ((Dev.rd_countSat_ne _ _ (by decide)).trans (Dev.rd_raise_same _ _)))

theorem enterHoldover_eff (d : Dev) (h : d.rd TC_CFG_SRC = 2) (hh : d.on TC_STATUS_HOLDOVER = false) :
    (enterHoldover d).rd TC_STATUS_HOLDOVER = 1 ∧ (enterHoldover d).rd TC_STATUS_HOLD_SEEN = 1 ∧ (enterHoldover d).rd TC_RATE_VALUE = ofSigned 32 d.integ ∧
    (enterHoldover d).mem = d.mem := by
  have e : enterHoldover d = timeEvent 3 0 (((((setRate d.integ d).raise TC_STATUS_HOLDOVER).raise TC_STATUS_HOLD_SEEN).countSat TC_COUNTS_HOLDS 1).modTc fun t => { t with fresh := true }) := by
    unfold enterHoldover
    rw [h, hh]; rfl
  have r : (setRate d.integ d).rd TC_RATE_VALUE = ofSigned 32 d.integ := by
    unfold setRate
    dsimp only
    exact (Dev.rd_wr_ne _ _ (by decide)).trans ((Dev.rd_wr_same d TC_RATE_VALUE _).trans (ofSigned_mod 32 _))
  have m : (setRate d.integ d).mem = d.mem := rfl
  rw [e]
  generalize setRate d.integ d = y at r m
  refine ⟨?_, ?_, ?_, ?_⟩
  · exact (((timeEvent_after (Changes.refl _ _ _) (within_refl _) (covers_refl _) 3 0).rd (rows_not (by decide)))).trans ((modTc_rd _ _ _).trans ((Dev.rd_countSat_ne _ _ (by decide)).trans ((Dev.rd_raise_ne _ (by decide)).trans (Dev.rd_raise_same _ _))))
  · exact (((timeEvent_after (Changes.refl _ _ _) (within_refl _) (covers_refl _) 3 0).rd (rows_not (by decide)))).trans ((modTc_rd _ _ _).trans ((Dev.rd_countSat_ne _ _ (by decide)).trans (Dev.rd_raise_same _ _)))
  · exact (((timeEvent_after (Changes.refl _ _ _) (within_refl _) (covers_refl _) 3 0).rd (rows_not (by decide)))).trans ((modTc_rd _ _ _).trans ((Dev.rd_countSat_ne _ _ (by decide)).trans ((Dev.rd_raise_ne _ (by decide)).trans ((Dev.rd_raise_ne _ (by decide)).trans r))))
  · exact ((timeEvent_after (Changes.refl _ _ _) (within_refl _) (covers_refl _) 3 0).parts .mem (by decide)).trans m

theorem beaconTimeout_eff (d : Dev) (hs : d.power.step ≠ .off) (h : d.rd TC_CFG_SRC = 2) (hh : d.on TC_STATUS_HOLDOVER = false) :
    (beaconTimeout d).rd TC_STATUS_HOLDOVER = 1 ∧ (beaconTimeout d).rd TC_STATUS_HOLD_SEEN = 1 ∧ (beaconTimeout d).rd TC_RATE_VALUE = ofSigned 32 d.integ ∧
    (beaconTimeout d).mem = d.mem := by
  obtain ⟨t, e⟩ : ∃ t, beaconTimeout d = enterHoldover (d.reach t) := by
    unfold beaconTimeout
    rw [h]
    exact ⟨_, (if_neg (by simp [hs]))⟩
  rw [e]
  have k := enterHoldover_eff (d.reach t) ((reach_rdw _ _ (rows_not (by decide))).trans h) ((Dev.on_of_rd (reach_rdw _ _ (rows_not (by decide)))).trans hh)
  refine ⟨k.1, k.2.1, k.2.2.1.trans ?_, k.2.2.2.trans (reach_mem _ _)⟩
  unfold Dev.integ
  rw [reach_rdw _ _ (rows_not (by decide))]

/-! Pulses, the alarm and captures. -/

theorem pulse_modPulse (k : Fin 4) (g : PulseSt → PulseSt) (d : Dev) : (d.modPulse k.val g).pulse k.val = g (d.pulse k.val) := vget_vmod_same _ _ _ _ k.isLt

theorem pulseArm_eff (k : Fin 4) (d : Dev) (hw : d.rd (TC_PULSE_WIDTH_NS k.val) ≠ 0)
    (h : d.rd (TC_PULSE_PERIOD_NS k.val) = 0 ∧ d.time + 1000 * 2 ^ 40 ≤ d.pulseStart k.val * 2 ^ 40 ∨ d.rd (TC_PULSE_WIDTH_NS k.val) + 5 ≤ d.rd (TC_PULSE_PERIOD_NS k.val)) :
    (Machine.pulseArm k.val d).rd (TC_PULSE_STAT_CODE k.val) = 0 ∧ (Machine.pulseArm k.val d).rd (TC_PULSE_STAT_ACTIVE k.val) = 1 ∧ (Machine.pulseArm k.val d).mem = d.mem := by
  have e : ∃ m, Machine.pulseArm k.val d = ((d.wr (TC_PULSE_STAT_CODE k.val) cDONE).raise (TC_PULSE_STAT_ACTIVE k.val)).modPulse k.val fun p => { p with edge := m } := by
    unfold Machine.pulseArm
    dsimp only
    have c1 : (decide (0 < d.rd (TC_PULSE_PERIOD_NS k.val)) && decide (d.rd (TC_PULSE_PERIOD_NS k.val) < d.rd (TC_PULSE_WIDTH_NS k.val) + 5)) = false := by
      rcases h with ⟨h, _⟩ | h
      · rw [h]; rfl
      · rw [decide_eq_false (by omega : ¬ d.rd (TC_PULSE_PERIOD_NS k.val) < d.rd (TC_PULSE_WIDTH_NS k.val) + 5), Bool.and_false]
    have c2 : (decide (d.rd (TC_PULSE_PERIOD_NS k.val) = 0) && decide (d.pulseStart k.val * 2 ^ 40 < d.time + 1000 * 2 ^ 40)) = false := by
      rcases h with ⟨_, h⟩ | h
      · rw [decide_eq_false (Nat.not_lt.2 h), Bool.and_false]
      · rw [decide_eq_false (by omega : ¬ d.rd (TC_PULSE_PERIOD_NS k.val) = 0), Bool.false_and]
    rw [if_neg hw, c1, c2, if_neg (by decide), if_neg (by decide)]
    exact ⟨_, rfl⟩
  obtain ⟨m, e⟩ := e
  rw [e]
  refine ⟨?_, ?_, rfl⟩
  · exact (Dev.rd_raise_ne _ ((by decide : ∀ q : Fin 4, (TC_PULSE_STAT_CODE q.val).bit ≠ (TC_PULSE_STAT_ACTIVE q.val).bit) k)).trans (Dev.rd_wr_same d (TC_PULSE_STAT_CODE k.val) 0)
  · exact Dev.rd_raise_same (d.wr (TC_PULSE_STAT_CODE k.val) cDONE) (TC_PULSE_STAT_ACTIVE k.val)

theorem bit_testBit (v i : Nat) : bit v i = v.testBit i := by
  unfold bit; rw [Nat.testBit_eq_decide_div_mod_eq]; rfl
theorem bit_or31 (w : Word) : bit (w ||| 0x80000000#32).toNat 31 = true := by
  rw [bit_testBit, BitVec.toNat_or, Nat.testBit_or, (by decide : (0x80000000#32).toNat.testBit 31 = true), Bool.or_true]
theorem bit_or30 (w : Word) : bit (w ||| 0x40000000#32).toNat 30 = true := by
  rw [bit_testBit, BitVec.toNat_or, Nat.testBit_or, (by decide : (0x40000000#32).toNat.testBit 30 = true), Bool.or_true]

theorem pulseCtl_arm (p : Path) (k : Fin 4) (v : Word) (d : Dev) (h1 : bit v.toNat 31 = true) (h0 : bit v.toNat 30 = false)
    (hp : d.on (TC_PULSE_STAT_ACTIVE k.val) = true → bits v.toNat 0 0 = d.rd (TC_PULSE_CTL_POL k.val)) :
    pulseCtl p k.val v d = Machine.pulseArm k.val (d.wr (TC_PULSE_CTL_POL k.val) (bits v.toNat 0 0)) := by
  have g : (d.on (TC_PULSE_STAT_ACTIVE k.val) && decide (bits v.toNat 0 0 ≠ d.rd (TC_PULSE_CTL_POL k.val))) = false := by
    by_cases c : d.on (TC_PULSE_STAT_ACTIVE k.val) = true
    · rw [decide_eq_false (not_not_intro (hp c)), Bool.and_false]
    · rw [Bool.not_eq_true] at c; rw [c]; rfl
  unfold pulseCtl
  dsimp only
  rw [g, h1, h0]; rfl

theorem pulseCtl_stop (p : Path) (k : Fin 4) (v : Word) (d : Dev) (h1 : bit v.toNat 31 = false) (h0 : bit v.toNat 30 = true)
    (hp : d.on (TC_PULSE_STAT_ACTIVE k.val) = true → bits v.toNat 0 0 = d.rd (TC_PULSE_CTL_POL k.val)) :
    pulseCtl p k.val v d = Machine.pulseStop k.val (d.wr (TC_PULSE_CTL_POL k.val) (bits v.toNat 0 0)) := by
  have g : (d.on (TC_PULSE_STAT_ACTIVE k.val) && decide (bits v.toNat 0 0 ≠ d.rd (TC_PULSE_CTL_POL k.val))) = false := by
    by_cases c : d.on (TC_PULSE_STAT_ACTIVE k.val) = true
    · rw [decide_eq_false (not_not_intro (hp c)), Bool.and_false]
    · rw [Bool.not_eq_true] at c; rw [c]; rfl
  unfold pulseCtl
  dsimp only
  rw [g, h1, h0]; rfl

theorem pulse_pol (k : Fin 4) (x : Nat) (d : Dev) : (d.wr (TC_PULSE_CTL_POL k.val) x).rd (TC_PULSE_CTL_POL k.val) = x % 2 := Dev.rd_wr_same d (TC_PULSE_CTL_POL k.val) x

theorem armed_eff (k : Fin 4) (x : Nat) (d : Dev) (hx : x < 2) (hw : d.rd (TC_PULSE_WIDTH_NS k.val) ≠ 0)
    (h : d.rd (TC_PULSE_PERIOD_NS k.val) = 0 ∧ d.time + 1000 * 2 ^ 40 ≤ d.pulseStart k.val * 2 ^ 40 ∨ d.rd (TC_PULSE_WIDTH_NS k.val) + 5 ≤ d.rd (TC_PULSE_PERIOD_NS k.val)) :
    (Machine.pulseArm k.val (d.wr (TC_PULSE_CTL_POL k.val) x)).rd (TC_PULSE_STAT_CODE k.val) = 0 ∧
    (Machine.pulseArm k.val (d.wr (TC_PULSE_CTL_POL k.val) x)).rd (TC_PULSE_STAT_ACTIVE k.val) = 1 ∧
    (Machine.pulseArm k.val (d.wr (TC_PULSE_CTL_POL k.val) x)).rd (TC_PULSE_CTL_POL k.val) = x ∧
    (Machine.pulseArm k.val (d.wr (TC_PULSE_CTL_POL k.val) x)).mem = d.mem := by
  have n : ∀ f : Fld, f.bit ≠ (TC_PULSE_CTL_POL k.val).bit → (d.wr (TC_PULSE_CTL_POL k.val) x).rd f = d.rd f := fun f hf => Dev.rd_wr_ne d x hf
  have n1 := n _ ((by decide : ∀ q : Fin 4, (TC_PULSE_WIDTH_NS q.val).bit ≠ (TC_PULSE_CTL_POL q.val).bit) k)
  have n2 := n _ ((by decide : ∀ q : Fin 4, (TC_PULSE_PERIOD_NS q.val).bit ≠ (TC_PULSE_CTL_POL q.val).bit) k)
  have n3 : (d.wr (TC_PULSE_CTL_POL k.val) x).pulseStart k.val = d.pulseStart k.val := by
    unfold Dev.pulseStart
    rw [n _ ((by decide : ∀ q : Fin 4, (TC_PULSE_START_SEC_LO_SEC q.val).bit ≠ (TC_PULSE_CTL_POL q.val).bit) k),
      n _ ((by decide : ∀ q : Fin 4, (TC_PULSE_START_SEC_HI_SEC q.val).bit ≠ (TC_PULSE_CTL_POL q.val).bit) k),
      n _ ((by decide : ∀ q : Fin 4, (TC_PULSE_START_NS_NS q.val).bit ≠ (TC_PULSE_CTL_POL q.val).bit) k)]
  have n4 : (d.wr (TC_PULSE_CTL_POL k.val) x).time = d.time := rfl
  have n5 : (d.wr (TC_PULSE_CTL_POL k.val) x).mem = d.mem := rfl
  have n6 : (d.wr (TC_PULSE_CTL_POL k.val) x).rd (TC_PULSE_CTL_POL k.val) = x := (pulse_pol k x d).trans (Nat.mod_eq_of_lt hx)
  generalize d.wr (TC_PULSE_CTL_POL k.val) x = y at n1 n2 n3 n4 n5 n6
  have m := pulseArm_eff k y (by rw [n1]; exact hw) (by rw [n1, n2, n3, n4]; exact h)
  exact ⟨m.1, m.2.1, (((Machine.pulseArm_after (Changes.refl _ _ _) (within_refl _) (covers_refl _) k.val).rd (rows_not ((by decide +kernel : ∀ q : Fin 4, List.all _ (Span.misses (TC_PULSE_CTL_POL q.val).bit) = true) k)))).trans n6, m.2.2.trans n5⟩

theorem stopped_eff (k : Fin 4) (x : Nat) (d : Dev) : (Machine.pulseStop k.val (d.wr (TC_PULSE_CTL_POL k.val) x)).rd (TC_PULSE_STAT_ACTIVE k.val) = 0 ∧
    ((Machine.pulseStop k.val (d.wr (TC_PULSE_CTL_POL k.val) x)).pulse k.val).high = false ∧
    (Machine.pulseStop k.val (d.wr (TC_PULSE_CTL_POL k.val) x)).mem = d.mem := by
  unfold Machine.pulseStop
  exact ⟨(modTc_rd _ _ _).trans (Dev.rd_lower_same (d.wr (TC_PULSE_CTL_POL k.val) x) (TC_PULSE_STAT_ACTIVE k.val)), by rw [pulse_modPulse], rfl⟩

theorem accessed_pulseStart (d : Dev) (p : Path) (k : Nat) : (d.accessed p).pulseStart k = d.pulseStart k := by
  unfold Dev.pulseStart; rw [accessed_rd, accessed_rd, accessed_rd]
theorem accessed_time (d : Dev) (p : Path) : (d.accessed p).time = d.time := Dev.beginAccess_time _ p

theorem pulseArm_row (s : State) (p : Path) (k : Fin 4) (w : Word) (hr : s.dev.reaches p 0x4000 = true) (h0 : bit (w ||| 0x80000000#32).toNat 30 = false)
    (hp : s.dev.on (TC_PULSE_STAT_ACTIVE k.val) = true → bits (w ||| 0x80000000#32).toNat 0 0 = s.dev.rd (TC_PULSE_CTL_POL k.val))
    (hw : s.dev.rd (TC_PULSE_WIDTH_NS k.val) ≠ 0)
    (h : s.dev.rd (TC_PULSE_PERIOD_NS k.val) = 0 ∧ s.dev.time + 1000 * 2 ^ 40 ≤ s.dev.pulseStart k.val * 2 ^ 40 ∨
      s.dev.rd (TC_PULSE_WIDTH_NS k.val) + 5 ≤ s.dev.rd (TC_PULSE_PERIOD_NS k.val)) :
    Completes (.pulseArm p k w) s fun d =>
      d.rd (TC_PULSE_STAT_CODE k.val) = 0 ∧ d.rd (TC_PULSE_STAT_ACTIVE k.val) = 1 ∧ d.rd (TC_PULSE_CTL_POL k.val) = bits (w ||| 0x80000000#32).toNat 0 0 ∧ d.mem = s.dev.mem := by
  have e : exec (.pulseArm p k w) s = s.act (onPort 0x4000 p (pulseCtl p k.val (w ||| 0x80000000#32))) := rfl
  refine Completes.of _ e ?_
  have h1 := bit_or31 w
  generalize (w ||| 0x80000000#32) = v at h0 h1 hp ⊢
  rw [onPort_reached _ hr, pulseCtl_arm p k v _ h1 h0 (by rw [accessed_on, accessed_rd]; exact hp)]
  have m := armed_eff k (bits v.toNat 0 0) (s.dev.accessed p) (bits_lt v.toNat 0 0) (by rw [accessed_rd]; exact hw)
    (by rw [accessed_rd, accessed_rd, accessed_time, accessed_pulseStart]; exact h)
  exact ⟨m.1, m.2.1, m.2.2.1, m.2.2.2.trans (Dev.accessed_mem _ _)⟩

theorem pulseStop_row (s : State) (p : Path) (k : Fin 4) (w : Word) (hr : s.dev.reaches p 0x4000 = true) (h0 : bit (w ||| 0x40000000#32).toNat 31 = false)
    (hp : s.dev.on (TC_PULSE_STAT_ACTIVE k.val) = true → bits (w ||| 0x40000000#32).toNat 0 0 = s.dev.rd (TC_PULSE_CTL_POL k.val)) :
    Completes (.pulseStop p k w) s fun d => d.rd (TC_PULSE_STAT_ACTIVE k.val) = 0 ∧ (d.pulse k.val).high = false ∧ d.mem = s.dev.mem := by
  have e : exec (.pulseStop p k w) s = s.act (onPort 0x4000 p (pulseCtl p k.val (w ||| 0x40000000#32))) := rfl
  refine Completes.of _ e ?_
  have h1 := bit_or30 w
  generalize (w ||| 0x40000000#32) = v at h0 h1 hp ⊢
  rw [onPort_reached _ hr, pulseCtl_stop p k v _ h0 h1 (by rw [accessed_on, accessed_rd]; exact hp)]
  have m := stopped_eff k (bits v.toNat 0 0) (s.dev.accessed p)
  exact ⟨m.1, m.2.1, m.2.2.trans (Dev.accessed_mem _ _)⟩

theorem reach_tc (d : Dev) (t : Nat) : (d.reach t).tc = d.tc := ((Dev.reach_after (Changes.refl _ _ _) (within_refl _) (covers_refl _) t).parts .tc (by decide))

theorem pulseEdge_eff (k : Fin 4) (d : Dev) (hs : d.power.step ≠ .off) (ha : d.on (TC_PULSE_STAT_ACTIVE k.val) = true) :
    (Machine.pulseEdge k.val d).pulse k.val = { edge := (d.pulse k.val).edge + 1, high := true, endAt := d.pulseStart k.val + (d.pulse k.val).edge * d.rd (TC_PULSE_PERIOD_NS k.val) + d.rd (TC_PULSE_WIDTH_NS k.val) } ∧ (Machine.pulseEdge k.val d).mem = d.mem := by
  have hm : (Machine.pulseEdge k.val d).mem = d.mem := ((Machine.pulseEdge_after (Changes.refl _ _ _) (within_refl _) (covers_refl _) k.val).parts .mem (by decide))
  refine ⟨?_, hm⟩
  have g : (decide (d.power.step = .off) || !d.on (TC_PULSE_STAT_ACTIVE k.val)) = false := by rw [decide_eq_false hs, ha]; rfl
  have r1 : ∀ t, (d.reach t).rd (TC_PULSE_WIDTH_NS k.val) = d.rd (TC_PULSE_WIDTH_NS k.val) := fun t => reach_rdw d t (rows_not ((by decide : ∀ q : Fin 4, List.all _ (Span.misses (TC_PULSE_WIDTH_NS q.val).bit) = true) k))
  have low : ∀ y : Dev, (y.lower (TC_PULSE_STAT_ACTIVE k.val)).pulse k.val = y.pulse k.val := fun _ => rfl
  have p1 : ∀ t, (d.reach t).pulse k.val = d.pulse k.val := fun t => by unfold Dev.pulse; rw [reach_tc]
  unfold Machine.pulseEdge
  rw [g, if_neg (by decide)]
  dsimp only
  split
  · rw [low, pulse_modPulse, p1]
  · rw [pulse_modPulse, p1]

theorem pulseEnd_eff (k : Fin 4) (d : Dev) (hs : d.power.step ≠ .off) (ha : (d.pulse k.val).high = true) :
    ((Machine.pulseEnd k.val d).pulse k.val).high = false ∧ (Machine.pulseEnd k.val d).mem = d.mem := by
  have hm : (Machine.pulseEnd k.val d).mem = d.mem := ((Machine.pulseEnd_after (Changes.refl _ _ _) (within_refl _) (covers_refl _) k.val).parts .mem (by decide))
  refine ⟨?_, hm⟩
  have g : (decide (d.power.step = .off) || !(d.pulse k.val).high) = false := by rw [decide_eq_false hs, ha]; rfl
  unfold Machine.pulseEnd
  rw [g, if_neg (by decide), pulse_modPulse]

theorem tcAlarm_eff (d : Dev) (hs : d.power.step ≠ .off) (ht : d.time < d.pulseStart 0 * 2 ^ 40) (hw : d.wakeEnabled .alarm = true) (he : d.power.entry = .none)
    (hc : d.rd PW_STATE_CUR = 3) (hk : d.power.waking = false) :
    (Machine.tcAlarm d).rd PW_STATE_BUSY = 1 ∧ (Machine.tcAlarm d).power.waking = true ∧ (Machine.tcAlarm d).mem = d.mem := by
  have g : (decide (d.power.step = .off) || decide (d.pulseStart 0 * 2 ^ 40 ≤ d.time)) = false := by rw [decide_eq_false hs, decide_eq_false (Nat.not_le.2 ht)]; rfl
  have e : Machine.tcAlarm d = fireWake .alarm (d.reach (d.pulseStart 0)) := by
    unfold Machine.tcAlarm; dsimp only; rw [g, if_neg (by decide)]
  have w : ∀ t, (d.reach t).wakeEnabled .alarm = true := fun t => (Dev.on_of_rd (reach_rdw _ _ (rows_not (by decide)))).trans hw
  rw [e]
  have m := fireWake_eff .alarm (d.reach (d.pulseStart 0)) (w _) (by rw [reach_power]; exact he) ((reach_rdw _ _ (rows_not (by decide))).trans hc) (by rw [reach_power]; exact hk)
  exact ⟨m.1, m.2.2.1, m.2.2.2.trans (reach_mem _ _)⟩

theorem cap_mod (k : Fin 4) (g : CapSt → CapSt) (d : Dev) : (d.modTc fun t => { t with caps := vmod t.caps k.val g }).cap k.val = g (d.cap k.val) := vget_vmod_same _ _ _ _ k.isLt

theorem captureEdge_eff (k : Fin 4) (up : Bool) (d : Dev) (hs : d.power.step ≠ .off) (he : d.on (TC_CAP_CFG_EN k.val) = true)
    (hb : bit (d.rd (TC_CAP_CFG_EDGE k.val)) (if up then 0 else 1) = true) (hq : (d.cap k.val).quietUntil ≤ d.time) (hl : (d.cap k.val).buf.length < 4) :
    ((Machine.captureEdge k up d).cap k.val).buf = (d.cap k.val).buf ++ [(up, d.stamp)] ∧ (Machine.captureEdge k up d).mem = d.mem := by
  have hm : (Machine.captureEdge k up d).mem = d.mem := ((Machine.captureEdge_after (Changes.refl _ _ _) (within_refl _) (covers_refl _) k up).parts .mem (by decide))
  refine ⟨?_, hm⟩
  unfold Machine.captureEdge
  dsimp only
  rw [he, hb, decide_eq_false hs, decide_eq_false (Nat.not_lt.2 hq)]
  rw [if_neg (by decide), if_neg (Nat.not_le.2 hl)]
  have f : ∀ (x : Nat) (y : Dev), ((fireWake (.tcap k) (y.wr (TC_CAP_STAT_FILL k.val) x)).cap k.val) = y.cap k.val := fun x y => by
    unfold Dev.cap; rw [fireWake_tc]; rfl
  rw [f, cap_mod]

theorem captureItem_eff (k : Fin 4) (d : Dev) (x : Bool × List Word) (rest : List (Bool × List Word)) (h : (d.cap k.val).buf = x :: rest) (hb : d.blockRuns 0x20000 = true) :
    ((Machine.captureItem k.val d).cap k.val).buf = rest ∧ (Machine.captureItem k.val d).rd (TC_CAP_STAT_FILL k.val) = rest.length % 8 ∧
    (Machine.captureItem k.val d).rd (TC_CAP_STAT_LOST k.val) = 0 ∧ (Machine.captureItem k.val d).mem = d.mem := by
  have hm : (Machine.captureItem k.val d).mem = d.mem := ((Machine.captureItem_after (Changes.refl _ _ _) (within_refl _) (covers_refl _) k.val).parts .mem (by decide))
  obtain ⟨ws, e⟩ : ∃ ws, Machine.captureItem k.val d = ((((d.modTc fun t => { t with caps := vmod t.caps k.val fun c => { c with buf := rest } }).wr (TC_CAP_STAT_FILL k.val) rest.length).wr
      (TC_CAP_STAT_LOST k.val) 0).post 24 0x40 ws) := by
    unfold Machine.captureItem
    rw [h, hb]
    exact ⟨_, rfl⟩
  rw [e] at hm ⊢
  refine ⟨?_, ?_, ?_, hm⟩
  · unfold Dev.cap
    rw [post_tc]
    exact congrArg CapSt.buf (cap_mod k (fun c => { c with buf := rest }) d)
  · exact (((Dev.post_after (Changes.refl _ _ _) (within_refl _) (covers_refl _) 24 0x40 ws).rd (rows_not ((by decide +kernel : ∀ q : Fin 4, List.all _ (Span.misses (TC_CAP_STAT_FILL q.val).bit) = true) k)))).trans ((Dev.rd_wr_ne _ _ ((by decide : ∀ q : Fin 4, (TC_CAP_STAT_FILL q.val).bit ≠ (TC_CAP_STAT_LOST q.val).bit) k)).trans
      (Dev.rd_wr_same (d.modTc fun t => { t with caps := vmod t.caps k.val fun c => { c with buf := rest } }) (TC_CAP_STAT_FILL k.val) rest.length))
  · exact (((Dev.post_after (Changes.refl _ _ _) (within_refl _) (covers_refl _) 24 0x40 ws).rd (rows_not ((by decide +kernel : ∀ q : Fin 4, List.all _ (Span.misses (TC_CAP_STAT_LOST q.val).bit) = true) k)))).trans (Dev.rd_wr_same _ (TC_CAP_STAT_LOST k.val) 0)

/-! Time frames. -/

theorem reserve_port (p : Fin 4) (t : TimeFrame) (d : Dev) : ((reserve p.val t d).port p.val).times = (d.port p.val).times ++ [t] :=
  congrArg HsPort.times (port_modPort p.val _ d p.isLt)

theorem beacon_eff (p : Fin 4) (t1 : Nat) (d : Dev) (ha : d.applied = true) (hs : d.rd TC_CFG_SRC = 2) (hv : d.on HS_UPSTREAM_VALID = true) (hu : d.rd HS_UPSTREAM_PORT = p.val) :
    (Machine.beacon p.val t1 d).tc.t1 = t1 ∧ (Machine.beacon p.val t1 d).tc.t2 = d.time / 2 ^ 24 ∧ ((Machine.beacon p.val t1 d).port p.val).times = (d.port p.val).times ++ [⟨4, 0, 0⟩] ∧
    (Machine.beacon p.val t1 d).regs = d.regs ∧ (Machine.beacon p.val t1 d).mem = d.mem := by
  have e : Machine.beacon p.val t1 d = reserve p.val ⟨4, 0, 0⟩ (d.modTc fun t => { t with t1 := t1, t2 := d.time16, beaconAt := d.ns }) := by
    unfold Machine.beacon; rw [ha, hs, hv, hu]; simp
  rw [e]
  exact ⟨rfl, rfl, reserve_port p _ _, rfl, rfl⟩

theorem dreq_eff (p : Fin 4) (t3 : Nat) (d : Dev) (ha : d.applied = true) (hl : d.link p.val = 5) :
    ((Machine.dreq p.val t3 d).port p.val).times = (d.port p.val).times ++ [⟨5, d.time / 2 ^ 24, t3⟩] ∧ (Machine.dreq p.val t3 d).regs = d.regs ∧ (Machine.dreq p.val t3 d).mem = d.mem := by
  have e : Machine.dreq p.val t3 d = reserve p.val ⟨5, d.time16, t3⟩ d := by
    unfold Machine.dreq; rw [ha, show d.link p.val = lUP from hl]; simp
  rw [e]
  exact ⟨reserve_port p _ _, rfl, rfl⟩

theorem divEither_near (a : Int) (b : Nat) (u : Nat) (hb : 0 < b) : (b : Int) * divEither a b u - a < b ∧ a - (b : Int) * divEither a b u < b := by
  have h := Int.emod_add_mul_ediv a b
  have h1 := Int.emod_nonneg a (show (b : Int) ≠ 0 by omega)
  have h2 := Int.emod_lt_of_pos a (show (0 : Int) < b by omega)
  unfold divEither
  split
  · constructor <;> omega
  · rename_i c
    have : (b : Int) * (a / b + 1) = b * (a / b) + b := by rw [Int.mul_add, Int.mul_one]
    have c' : ¬ a % b = 0 := fun k => c (by rw [k]; rfl)
    constructor <;> omega

theorem reserve_ne (t : TimeFrame) (d : Dev) {p q : Nat} (h : q ≠ p) : (reserve p t d).port q = d.port q := vget_vmod_ne _ _ _ h

theorem reserveAll (t : TimeFrame) (q : Fin 4) (xs : List Nat) (h : xs.Nodup) (d : Dev) :
    (q.val ∈ xs → ((d.each xs fun p => reserve p t).port q.val).times = (d.port q.val).times ++ [t]) ∧ (q.val ∉ xs → (d.each xs fun p => reserve p t).port q.val = d.port q.val) := by
  induction xs generalizing d with
  | nil => exact ⟨fun k => absurd k (by simp), fun _ => rfl⟩
  | cons x xs ih =>
    obtain ⟨h1, h2⟩ := List.nodup_cons.1 h
    have i := ih h2 (reserve x t d)
    refine ⟨fun k => ?_, fun k => ?_⟩
    · by_cases c : q.val = x
      · subst c
        exact (congrArg HsPort.times (i.2 h1)).trans (reserve_port q t d)
      · refine (i.1 ((List.mem_cons.1 k).resolve_left c)).trans ?_
        rw [reserve_ne t d c]
    · have c : q.val ≠ x := fun c => k (c ▸ List.mem_cons_self)
      exact (i.2 fun m => k (List.mem_cons_of_mem _ m)).trans (reserve_ne t d c)

theorem reach_hsPort (d : Dev) (t p : Nat) : (d.reach t).port p = d.port p := by unfold Dev.port; rw [reach_hs]

theorem not_row_one {a b : Nat} (h : b ≠ a) : ¬ Rows [.one a] b := by
  rintro ⟨w, hw, k⟩
  rw [List.mem_singleton.1 hw] at k
  exact h k

theorem reach_beaconPorts (d : Dev) (t : Nat) : (d.reach t).beaconPorts = d.beaconPorts := by
  have hr : ∀ f : Fld, f.bit ≠ 98752 → (d.reach t).rd f = d.rd f := fun f h => reach_rdw d t (not_row_one h)
  have hl : ∀ p, (d.reach t).link p = d.link p := fun p => hr _ (show (0x8104 + p % 4 * 0x40) * 8 + 28 ≠ 98752 by omega)
  have hn : ∀ p, (d.reach t).rd (HSP_NEIGH_ID p) = d.rd (HSP_NEIGH_ID p) := fun p => hr _ (show (0x8108 + p % 4 * 0x40) * 8 + 0 ≠ 98752 by omega)
  have h1 : (d.reach t).hsMode = d.hsMode := hr HS_STATUS_MODE (by decide)
  have h2 : (d.reach t).on HS_UPSTREAM_VALID = d.on HS_UPSTREAM_VALID := Dev.on_of_rd (hr _ (by decide))
  have h3 : (d.reach t).on HS_STATUS_ADDR_VALID = d.on HS_STATUS_ADDR_VALID := Dev.on_of_rd (hr _ (by decide))
  have h4 := hr HS_UPSTREAM_PORT (by decide)
  have h5 := hr HS_STATUS_ADDR (by decide)
  unfold Dev.beaconPorts Dev.upPorts
  simp only [hl, hn, h1, h2, h3, h4, h5, reach_hs]

theorem beaconSend_eff (d : Dev) (ha : d.applied = true) :
    (∀ q : Fin 4, q.val ∈ d.beaconPorts → ((Machine.beaconSend d).port q.val).times = (d.port q.val).times ++ [⟨3, 0, 0⟩]) ∧
    (∀ q : Fin 4, q.val ∉ d.beaconPorts → (Machine.beaconSend d).port q.val = d.port q.val) ∧ (Machine.beaconSend d).mem = d.mem := by
  have hm : (Machine.beaconSend d).mem = d.mem := ((Machine.beaconSend_after (Changes.refl _ _ _) (within_refl _) (covers_refl _)).parts .mem (by decide))
  have e : ∃ t, Machine.beaconSend d = (d.reach t).each d.beaconPorts fun p => reserve p ⟨3, 0, 0⟩ := by
    unfold Machine.beaconSend
    dsimp only
    rw [ha, if_neg (by decide), reach_beaconPorts]
    exact ⟨_, rfl⟩
  obtain ⟨t, e⟩ := e
  rw [e] at hm ⊢
  have n : d.beaconPorts.Nodup := by
    unfold Dev.beaconPorts Dev.upPorts
    exact ((by decide : (upTo 4).Nodup).sublist (List.filter_sublist.trans List.filter_sublist))
  refine ⟨fun q hq => ?_, fun q hq => ?_, hm⟩
  · rw [(reserveAll _ q _ n _).1 hq, reach_hsPort]
  · rw [(reserveAll _ q _ n _).2 hq, reach_hsPort]

theorem dresp_eff (p : Fin 4) (t4 : Nat) (d : Dev) (ha : d.applied = true) (hs : d.rd TC_CFG_SRC = 2) (hv : d.on HS_UPSTREAM_VALID = true) (hu : d.rd HS_UPSTREAM_PORT = p.val)
    (hd : d.tc.dlyPort ≠ some p.val) :
    ∃ m : Int, (Machine.dresp p.val t4 d.tc.t3 d).rd (TC_LINKDLY_M p.val) = ofSigned 32 m ∧
      8192 * m - (((t4 : Int) - d.tc.t1) - ((d.tc.t3 : Int) - d.tc.t2)) < 8192 ∧ (((t4 : Int) - d.tc.t1) - ((d.tc.t3 : Int) - d.tc.t2)) - 8192 * m < 8192 := by
  have g : (!d.applied || decide (d.rd TC_CFG_SRC ≠ 2) || !(d.on HS_UPSTREAM_VALID && decide (d.rd HS_UPSTREAM_PORT = p.val)) || decide (d.tc.t3 ≠ d.tc.t3)) = false := by
    rw [ha, hs, hv, hu]; simp
  obtain ⟨u, x, y, e⟩ : ∃ (u : Nat) (x : Int) (y : Dev), Machine.dresp p.val t4 d.tc.t3 d =
      judge x ((y.wr (TC_LINKDLY_M p.val) (ofSigned 32 (divEither (((t4 : Int) - d.tc.t1) - ((d.tc.t3 : Int) - d.tc.t2)) 8192 u))).modTc fun t => { t with dlyPort := some p.val }) := by
    unfold Machine.dresp
    dsimp only
    rw [g, if_neg (by decide)]
    simp only [if_neg hd]
    exact ⟨d.free.1, _, d.free.2.free.2.free.2, rfl⟩
  have n := divEither_near (((t4 : Int) - d.tc.t1) - ((d.tc.t3 : Int) - d.tc.t2)) 8192 u (by decide)
  refine ⟨divEither (((t4 : Int) - d.tc.t1) - ((d.tc.t3 : Int) - d.tc.t2)) 8192 u, ?_, n.1, n.2⟩
  rw [e]
  exact (((judge_after (Changes.refl _ _ _) (within_refl _) (covers_refl _) x).rd (rows_not ((by decide +kernel : ∀ q : Fin 4, List.all _ (Span.misses (TC_LINKDLY_M q.val).bit) = true) p)))).trans ((modTc_rd _ _ _).trans ((Dev.rd_wr_same y (TC_LINKDLY_M p.val) _).trans (ofSigned_mod 32 _)))

theorem accessed_tc (d : Dev) (p : Path) : (d.accessed p).tc = d.tc := Dev.beginAccess_tc _ p
theorem accessed_staged (d : Dev) (p q : Path) (a c : Nat) : (d.accessed p).staged q a c = d.staged q a c := by
  unfold Dev.staged
  rw [show (d.accessed p).stage = d.stage from Dev.beginAccess_stage _ p]

theorem offset_row (s : State) (p : Path) (w : Word) (hr : s.dev.reaches p 0x4000 = true) (hs : s.dev.rd TC_CFG_SRC = 1) (P : Dev → Prop)
    (h : P (judge (toSigned 64 (join64 (s.dev.staged p 0x4040 0) w.toNat)) ((s.dev.accessed p).unstage p))) : Completes (.offsetDelivered p w) s P := by
  have e : exec (.offsetDelivered p w) s = s.act (onPort 0x4000 p (offsetCommit p w)) := rfl
  refine Completes.of _ e ?_
  rw [onPort_reached _ hr, offsetCommit_eff p w _ (by rw [accessed_rd]; exact hs), accessed_staged]
  exact h

theorem offset_cases (s : State) (p : Path) (w : Word) (hr : s.dev.reaches p 0x4000 = true) (hs : s.dev.rd TC_CFG_SRC = 1) (x : Int)
    (hx : x = toSigned 64 (join64 (s.dev.staged p 0x4040 0) w.toNat)) (lim : Int) (hlim : lim = (s.dev.rd TC_JUMP_LIMIT_LIMIT * 65536 : Nat)) :
    (s.dev.on TC_STATUS_SET = false → x < 0 → Completes (.offsetDelivered p w) s fun d =>
      (d.time : Int) = s.dev.time - x * 2 ^ 24 ∧ d.rd TC_STATUS_SET = 1 ∧ d.rd TC_STATUS_STEPPED = 1 ∧ d.rd TC_LAST_OFFSET_VERDICT = 3) ∧
    (s.dev.on TC_STATUS_SET = true ∨ 0 ≤ x → lim < x ∨ x < -lim → Completes (.offsetDelivered p w) s fun d =>
      d.time = s.dev.time ∧ d.tc.held = some x ∧ d.rd TC_LAST_OFFSET_VERDICT = 2 ∧ d.rd TC_STATUS_STEP_REFUSED = 1 ∧ d.rd TC_STATUS_REFUSED_PENDING = 1 ∧
      d.mem = s.dev.mem) ∧
    (s.dev.on TC_STATUS_SET = true ∨ 0 ≤ x → x ≤ lim → -lim ≤ x → Completes (.offsetDelivered p w) s fun d =>
      d.time = s.dev.time ∧ d.tc.held = none ∧ d.rd TC_LAST_OFFSET_VERDICT = 1 ∧ d.rd TC_STATUS_REFUSED_PENDING = 0 ∧ d.mem = s.dev.mem) := by
  have k1 : ((s.dev.accessed p).unstage p).time = s.dev.time := accessed_time _ _
  have k2 : ((s.dev.accessed p).unstage p).on TC_STATUS_SET = s.dev.on TC_STATUS_SET := accessed_on _ _ _
  have k3 : ((s.dev.accessed p).unstage p).rd TC_JUMP_LIMIT_LIMIT = s.dev.rd TC_JUMP_LIMIT_LIMIT := accessed_rd _ _ _
  have k4 : ((s.dev.accessed p).unstage p).mem = s.dev.mem := Dev.accessed_mem _ _
  have row := offset_row s p w hr hs
  rw [← hx] at row
  generalize (s.dev.accessed p).unstage p = y at k1 k2 k3 k4 row
  rw [← k1, ← k2, ← k4]
  rw [← k3] at hlim
  subst hlim
  exact ⟨fun a b => row _ (judge_acquired x y a b), fun a b => row _ (judge_refused x y a b), fun a b c => row _ (judge_accepted x y a b c)⟩

theorem acceptStep_row (s : State) (p : Path) (x : Int) (hr : s.dev.reaches p 0x4000 = true) (h : s.dev.tc.held = some x) (hx : x ≤ 0) :
    Completes (.acceptStep p) s fun d =>
        (d.time : Int) = s.dev.time - x * 2 ^ 24 ∧ d.tc.held = none ∧ d.rd TC_STATUS_REFUSED_PENDING = 0 ∧ d.rd TC_CMD_STATUS_CODE = 0 := by
  have e : exec (.acceptStep p) s = s.act (onPort 0x4000 p tcAcceptStep) := rfl
  refine Completes.of _ e ?_
  rw [onPort_reached _ hr]
  have k1 := accessed_time s.dev p
  have k := tcAcceptStep_eff x (s.dev.accessed p) (by rw [accessed_tc]; exact h) hx
  rw [k1] at k
  exact k

theorem srcWrite_row (s : State) (p : Path) (w : Word) (hr : s.dev.reaches p 0x4000 = true) (h : bits w.toNat 31 30 ≠ 3) (hn : bits w.toNat 31 30 ≠ s.dev.rd TC_CFG_SRC) :
    Completes (.srcWrite p w) s fun d => d.rd TC_CFG_SRC = bits w.toNat 31 30 ∧ d.rd TC_STATUS_MASTER_CHANGED = 1 ∧ d.mem = s.dev.mem := by
  have e : exec (.srcWrite p w) s = s.act (onPort 0x4000 p (Machine.srcWrite p w)) := rfl
  refine Completes.of _ e ?_
  rw [onPort_reached _ hr]
  have k := srcWrite_eff p w (s.dev.accessed p) h (by rw [accessed_rd]; exact hn)
  exact ⟨k.1, k.2.1, k.2.2.trans (Dev.accessed_mem _ _)⟩

theorem masterChange_row (s : State) (p : Path) (w : Word) (hr : s.dev.reaches p 0x4000 = true) (v : Nat)
    (hv : v = join64 (s.dev.staged p 0x4060 (s.dev.rd TC_MASTER_ID % 2 ^ 32)) w.toNat) (hn : v ≠ s.dev.rd TC_MASTER_ID) :
    Completes (.masterChange p w) s fun d => d.rd TC_MASTER_ID = v % 2 ^ 64 ∧ d.rd TC_STATUS_MASTER_CHANGED = 1 ∧ d.mem = s.dev.mem := by
  have e : exec (.masterChange p w) s = s.act (onPort 0x4000 p (masterCommit p w)) := rfl
  refine Completes.of _ e ?_
  rw [onPort_reached _ hr]
  have k := masterCommit_eff p w (s.dev.accessed p) v (by rw [accessed_staged, accessed_rd]; exact hv) (by rw [accessed_rd]; exact hn)
  exact ⟨k.1, k.2.1, k.2.2.trans (Dev.accessed_mem _ _)⟩

theorem timeFrames_rows (s : State) (ha : s.dev.applied = true) :
      (Completes .beaconSend s fun d =>
        (∀ q : Fin 4, q.val ∈ s.dev.beaconPorts → (d.port q.val).times = (s.dev.port q.val).times ++ [⟨3, 0, 0⟩]) ∧
        (∀ q : Fin 4, q.val ∉ s.dev.beaconPorts → d.port q.val = s.dev.port q.val) ∧ d.mem = s.dev.mem) ∧
      (∀ (p : Fin 4) t3, s.dev.link p.val = 5 → Completes (.dreq p t3) s fun d =>
        (d.port p.val).times = (s.dev.port p.val).times ++ [⟨5, s.dev.time / 2 ^ 24, t3⟩] ∧ d.regs = s.dev.regs ∧ d.mem = s.dev.mem) :=
  ⟨Completes.of Machine.beaconSend rfl (beaconSend_eff { s.dev with out := [] } ha),
   fun p t3 hl => Completes.of (Machine.dreq p.val t3) rfl (dreq_eff p t3 { s.dev with out := [] } ha hl)⟩

theorem beacon_rows (s : State) (ha : s.dev.applied = true) (p : Fin 4) (hs : s.dev.rd TC_CFG_SRC = 2) (hv : s.dev.on HS_UPSTREAM_VALID = true)
    (hu : s.dev.rd HS_UPSTREAM_PORT = p.val) :
        (∀ t1, Completes (.beacon p t1) s fun d =>
          d.tc.t1 = t1 ∧ d.tc.t2 = s.dev.time / 2 ^ 24 ∧ (d.port p.val).times = (s.dev.port p.val).times ++ [⟨4, 0, 0⟩] ∧ d.regs = s.dev.regs ∧ d.mem = s.dev.mem) ∧
        (∀ t4, s.dev.tc.dlyPort ≠ some p.val → Completes (.dresp p t4 s.dev.tc.t3) s fun d =>
          ∃ m : Int, d.rd (TC_LINKDLY_M p.val) = ofSigned 32 m ∧
            8192 * m - (((t4 : Int) - s.dev.tc.t1) - ((s.dev.tc.t3 : Int) - s.dev.tc.t2)) < 8192 ∧
            (((t4 : Int) - s.dev.tc.t1) - ((s.dev.tc.t3 : Int) - s.dev.tc.t2)) - 8192 * m < 8192) :=
  ⟨fun t1 => Completes.of (Machine.beacon p.val t1) rfl (beacon_eff p t1 { s.dev with out := [] } ha hs hv hu),
   fun t4 hd => Completes.of (Machine.dresp p.val t4 s.dev.tc.t3) rfl (dresp_eff p t4 { s.dev with out := [] } ha hs hv hu hd)⟩

theorem pulseEnd_row (s : State) (k : Fin 4) (hs : s.dev.power.step ≠ .off) :
        (s.dev.on (TC_PULSE_STAT_ACTIVE k.val) = true → Completes (.pulseEdge k) s fun d =>
          let t := s.dev.pulseStart k.val + (s.dev.pulse k.val).edge * s.dev.rd (TC_PULSE_PERIOD_NS k.val)
          d.pulse k.val = { edge := (s.dev.pulse k.val).edge + 1, high := true, endAt := t + s.dev.rd (TC_PULSE_WIDTH_NS k.val) } ∧ d.mem = s.dev.mem) ∧
        ((s.dev.pulse k.val).high = true → Completes (.pulseEnd k) s fun d => (d.pulse k.val).high = false ∧ d.mem = s.dev.mem) :=
  ⟨fun h => Completes.of (Machine.pulseEdge k.val) rfl (pulseEdge_eff k { s.dev with out := [] } hs h),
   fun h => Completes.of (Machine.pulseEnd k.val) rfl (pulseEnd_eff k { s.dev with out := [] } hs h)⟩

theorem capture_row (s : State) (k : Fin 4) (hs : s.dev.power.step ≠ .off) (up : Bool) (he : s.dev.on (TC_CAP_CFG_EN k.val) = true)
    (hb : bit (s.dev.rd (TC_CAP_CFG_EDGE k.val)) (if up then 0 else 1) = true) (hq : (s.dev.cap k.val).quietUntil ≤ s.dev.time) (hl : (s.dev.cap k.val).buf.length < 4) :
    Completes (.captureEdge k up) s fun d => (d.cap k.val).buf = (s.dev.cap k.val).buf ++ [(up, s.dev.stamp)] ∧ d.mem = s.dev.mem :=
  Completes.of (Machine.captureEdge k up) rfl (captureEdge_eff k up { s.dev with out := [] } hs he hb hq hl)

end Sys2Proof.Machine
end

