-- ==== Sys2Proof/Laws/EffectsField.lean ====
section
/-!
SUPPORT. What the operations of Machine/Field do.
-/

set_option Elab.async false
set_option linter.all false

namespace Sys2Proof.Machine

theorem chan_modChan (n : Fin 24) (g : Chan → Chan) (d : Dev) : (d.modChan n.val g).chan n.val = g (d.chan n.val) := vget_vmod_same _ _ _ _ n.isLt
theorem field_modField (n : Fin 24) (g : FieldSt → FieldSt) (d : Dev) : ((d.modField n.val g).chan n.val).field = g (d.chan n.val).field := congrArg Chan.field (chan_modChan n _ d)
theorem modChan_rd (n : Nat) (g : Chan → Chan) (d : Dev) (f : Fld) : (d.modChan n g).rd f = d.rd f := rfl
theorem modField_rd (n : Nat) (g : FieldSt → FieldSt) (d : Dev) (f : Fld) : (d.modField n g).rd f = d.rd f := rfl
theorem wr_chan (d : Dev) (f : Fld) (v n : Nat) : (d.wr f v).chan n = d.chan n := rfl

theorem currentLimit_eff (n : Fin 24) (d : Dev) : (currentLimit n.val d).bitOn PW_CHREG_FAULT_CH n.val = true ∧ (currentLimit n.val d).chans = d.chans ∧ (currentLimit n.val d).mem = d.mem := by
  refine ⟨?_, rfl, rfl⟩
  unfold currentLimit
  rw [Dev.bitOn_setBit _ _ _ _ n.isLt]; simp

theorem headroom_rd (n : Fin 24) (d : Dev) {f : Fld} (h1 : f.bit ≠ (CH_TX_STATUS_HEADROOM n.val).bit) (h2 : f.bit ≠ (CH_TX_STATUS_HEADROOM_SEEN n.val).bit) :
    (headroom n.val d).rd f = d.rd f := by
  unfold headroom; split
  · exact (Dev.rd_raiseIf_ne _ _ h2).trans (Dev.rd_flag_ne _ _ h1)
  · exact Dev.rd_wr_ne _ _ h1
theorem headroom_chans (n : Nat) (d : Dev) : (headroom n d).chans = d.chans := (headroom_after (Changes.refl _ _ _) (within_refl _) (covers_refl _) n).parts .chans (by decide)
theorem headroom_mem (n : Nat) (d : Dev) : (headroom n d).mem = d.mem := (headroom_after (Changes.refl _ _ _) (within_refl _) (covers_refl _) n).parts .mem (by decide)
theorem headroom_ts (n : Nat) (d : Dev) : (headroom n d).ts = d.ts := (headroom_after (Changes.refl _ _ _) (within_refl _) (covers_refl _) n).parts .ts (by decide)
theorem headroom_chan (m n : Nat) (d : Dev) : (headroom m d).chan n = d.chan n := by unfold Dev.chan; rw [headroom_chans]

/-- `headroom` writes two registers of its channel. -/
theorem headroom_keeps (n : Fin 24) (d : Dev) : d.Keeps [.regs] [.one (CH_TX_STATUS_HEADROOM n.val).bit, .one (CH_TX_STATUS_HEADROOM_SEEN n.val).bit] (headroom n.val d) := by
  have h1 : Rows [.one (CH_TX_STATUS_HEADROOM n.val).bit, .one (CH_TX_STATUS_HEADROOM_SEEN n.val).bit] (CH_TX_STATUS_HEADROOM n.val).bit := ⟨_, List.mem_cons_self, rfl⟩
  have h2 : Rows [.one (CH_TX_STATUS_HEADROOM n.val).bit, .one (CH_TX_STATUS_HEADROOM_SEEN n.val).bit] (CH_TX_STATUS_HEADROOM_SEEN n.val).bit :=
    ⟨_, List.mem_cons_of_mem _ List.mem_cons_self, rfl⟩
  refine Changes.keeps ?_
  unfold headroom; split
  · exact raiseIf_after (flag_after (Changes.refl _ _ _) (by decide) h1 _) (by decide) h2 _
  · exact lower_after (Changes.refl _ _ _) (by decide) h1

theorem headroom_eff (n : Fin 24) (c : Bool) (d : Dev) (hc : c = decide (1023 * (d.power.vrf.getD (n.val / 4) 0 - 800) < 6200 * d.rd (CH_TX_STATUS_ACTIVE_CODE n.val)))
    (h : (d.chan n.val).field.lit = true) :
    (headroom n.val d).rd (CH_TX_STATUS_HEADROOM n.val) = b2n c ∧ (c = true → (headroom n.val d).rd (CH_TX_STATUS_HEADROOM_SEEN n.val) = 1) ∧
    (headroom n.val d).chans = d.chans ∧ (headroom n.val d).mem = d.mem := by
  have e : headroom n.val d = (d.flag (CH_TX_STATUS_HEADROOM n.val) c).raiseIf c (CH_TX_STATUS_HEADROOM_SEEN n.val) := by
    unfold headroom; rw [h, if_pos rfl, ← hc]
  refine ⟨?_, fun hc => ?_, headroom_chans _ _, headroom_mem _ _⟩
  · rw [e]
    refine (Dev.rd_raiseIf_ne _ _ ((by decide : ∀ q : Fin 24, (CH_TX_STATUS_HEADROOM q.val).bit ≠ (CH_TX_STATUS_HEADROOM_SEEN q.val).bit) n)).trans ((Dev.rd_flag_same d _ c).trans ?_)
    cases c <;> rfl
  · rw [e, hc]
    exact Dev.rd_raise_same (d.flag (CH_TX_STATUS_HEADROOM n.val) true) (CH_TX_STATUS_HEADROOM_SEEN n.val)

theorem headroom_dark (n : Fin 24) (d : Dev) (h : (d.chan n.val).field.lit = false) :
    (headroom n.val d).rd (CH_TX_STATUS_HEADROOM n.val) = 0 ∧ (headroom n.val d).chans = d.chans ∧ (headroom n.val d).mem = d.mem := by
  refine ⟨?_, headroom_chans _ _, headroom_mem _ _⟩
  unfold headroom; rw [h, if_neg (by decide)]
  exact Dev.rd_lower_same _ (CH_TX_STATUS_HEADROOM n.val)

theorem inOne_not (n : Nat) (d : Dev) (h : (d.chan n).field.st = .rampUp → d.rd (CH_TX_RAMP_RAMP_ON n) ≠ 0) : rampInOne n d = d := by
  unfold rampInOne
  by_cases c : (d.chan n).field.st = .rampUp
  · rw [c, decide_eq_false (h c)]; rfl
  · rw [decide_eq_false c]; rfl

theorem wr_fieldGrant (d : Dev) (f : Fld) (v n : Nat) : (d.wr f v).fieldGrant n = d.fieldGrant n := rfl

/-- A write of CHn_TX_AMP, before what it means for a grant. -/
def ampNoted (n code pw : Nat) (d : Dev) : Dev := (d.wr (CH_TX_AMP_CODE n) code).wr (CH_TX_AMP_PWR n) pw

theorem ampNoted_rd (n : Fin 24) (code pw : Nat) (d : Dev) (hl : code < 1024) : (ampNoted n.val code pw d).rd (CH_TX_AMP_CODE n.val) = code ∧
    (ampNoted n.val code pw d).rd (CH_TX_AMP_PWR n.val) = pw % 256 ∧
    (ampNoted n.val code pw d).rd (CH_TX_STATUS_ACTIVE_CODE n.val) = d.rd (CH_TX_STATUS_ACTIVE_CODE n.val) := by
  refine ⟨(Dev.rd_wr_ne _ _ ((by decide : ∀ q : Fin 24, (CH_TX_AMP_CODE q.val).bit ≠ (CH_TX_AMP_PWR q.val).bit) n)).trans ((Dev.rd_wr_same d (CH_TX_AMP_CODE n.val) _).trans (Nat.mod_eq_of_lt hl)),
    Dev.rd_wr_same _ (CH_TX_AMP_PWR n.val) _, ?_⟩
  exact (Dev.rd_wr_ne _ _ ((by decide : ∀ q : Fin 24, (CH_TX_STATUS_ACTIVE_CODE q.val).bit ≠ (CH_TX_AMP_PWR q.val).bit) n)).trans (Dev.rd_wr_ne _ _ ((by decide : ∀ q : Fin 24, (CH_TX_STATUS_ACTIVE_CODE q.val).bit ≠ (CH_TX_AMP_CODE q.val).bit) n))

theorem nextCode_none (n code : Nat) (d : Dev) (h : (d.chan n).field.next = none) : nextCode n code d = d := by unfold nextCode; rw [h]

theorem txAmp_idle (p : Path) (n : Fin 24) (w : Word) (fr : RxFrame) (d : Dev) (pw code : Nat) (hc : code = bits w.toNat 9 0) (hw : pw = powerOf code)
    (hp : pw ≤ (d.decl n.val).maxPower) (hg : d.fieldGrant n.val = none) (hn : (d.chan n.val).field.next = none) :
    txAmpWrite p n.val w fr d = ampNoted n.val code pw d := by
  unfold txAmpWrite
  dsimp only
  rw [← hc, ← hw, if_neg (Nat.not_lt.2 hp)]
  have nx : nextCode n.val code ((d.wr (CH_TX_AMP_CODE n.val) code).wr (CH_TX_AMP_PWR n.val) pw) = ampNoted n.val code pw d := nextCode_none _ _ _ hn
  have hn' : (((d.wr (CH_TX_AMP_CODE n.val) code).wr (CH_TX_AMP_PWR n.val) pw).chan n.val).field.next = none := hn
  rw [nx, hn', show (ampNoted n.val code pw d).fieldGrant n.val = none from hg]
  dsimp only
  rfl

theorem txAmp_now (p : Path) (n : Fin 24) (w : Word) (fr : RxFrame) (d : Dev) (g : Grant) (pw code : Nat) (hc : code = bits w.toNat 9 0) (hw : pw = powerOf code) (hl : code < 1024)
    (hp : pw ≤ (d.decl n.val).maxPower) (hg : d.fieldGrant n.val = some g)
    (hn : (d.chan n.val).field.next = none) (h0 : code ≠ 0) (ha : pw ≤ powerOf (d.rd (CH_TX_STATUS_ACTIVE_CODE n.val))) :
    txAmpWrite p n.val w fr d = headroom n.val (charge g pw (((ampNoted n.val code pw d).flag (CH_TX_STATUS_AMP_PENDING n.val) false).wr (CH_TX_STATUS_ACTIVE_CODE n.val) code)) := by
  unfold txAmpWrite
  dsimp only
  rw [← hc, ← hw, if_neg (Nat.not_lt.2 hp)]
  have nx : nextCode n.val code ((d.wr (CH_TX_AMP_CODE n.val) code).wr (CH_TX_AMP_PWR n.val) pw) = ampNoted n.val code pw d := nextCode_none _ _ _ hn
  have hn' : (((d.wr (CH_TX_AMP_CODE n.val) code).wr (CH_TX_AMP_PWR n.val) pw).chan n.val).field.next = none := hn
  have ha' := (ampNoted_rd n code pw d hl).2.2
  rw [nx, hn', show (ampNoted n.val code pw d).fieldGrant n.val = some g from hg]
  dsimp only
  rw [ha', decide_eq_true ha]
  simp only [Bool.not_true, Bool.false_or, Bool.or_false, Bool.false_eq_true, if_false, if_neg h0]

theorem txAmp_later (p : Path) (n : Fin 24) (w : Word) (fr : RxFrame) (d : Dev) (g : Grant) (pw code : Nat) (hc : code = bits w.toNat 9 0) (hw : pw = powerOf code) (hl : code < 1024)
    (hp : pw ≤ (d.decl n.val).maxPower) (hg : d.fieldGrant n.val = some g)
    (hn : (d.chan n.val).field.next = none) (ha : powerOf (d.rd (CH_TX_STATUS_ACTIVE_CODE n.val)) < pw) :
    txAmpWrite p n.val w fr d = (ampNoted n.val code pw d).flag (CH_TX_STATUS_AMP_PENDING n.val) true := by
  unfold txAmpWrite
  dsimp only
  rw [← hc, ← hw, if_neg (Nat.not_lt.2 hp)]
  have nx : nextCode n.val code ((d.wr (CH_TX_AMP_CODE n.val) code).wr (CH_TX_AMP_PWR n.val) pw) = ampNoted n.val code pw d := nextCode_none _ _ _ hn
  have hn' : (((d.wr (CH_TX_AMP_CODE n.val) code).wr (CH_TX_AMP_PWR n.val) pw).chan n.val).field.next = none := hn
  have ha' := (ampNoted_rd n code pw d hl).2.2
  rw [nx, hn', show (ampNoted n.val code pw d).fieldGrant n.val = some g from hg]
  dsimp only
  rw [ha', decide_eq_false (Nat.not_le.2 ha)]
  simp only [Bool.not_false, Bool.true_or, if_true]

theorem code_lt (w : Word) : bits w.toNat 9 0 < 1024 := bits_lt w.toNat 9 0

theorem txAmp_none (p : Path) (n : Fin 24) (w : Word) (fr : RxFrame) (d : Dev) (pw code : Nat) (hc : code = bits w.toNat 9 0) (hw : pw = powerOf code) (hl : code < 1024)
    (hp : pw ≤ (d.decl n.val).maxPower) (hg : d.fieldGrant n.val = none) (hn : (d.chan n.val).field.next = none) :
    (txAmpWrite p n.val w fr d).rd (CH_TX_AMP_CODE n.val) = code ∧ (txAmpWrite p n.val w fr d).rd (CH_TX_AMP_PWR n.val) = pw % 256 ∧ (txAmpWrite p n.val w fr d).chans = d.chans ∧
    (txAmpWrite p n.val w fr d).mem = d.mem := by
  rw [txAmp_idle p n w fr d pw code hc hw hp hg hn]
  exact ⟨(ampNoted_rd n code pw d hl).1, (ampNoted_rd n code pw d hl).2.1, rfl, rfl⟩

theorem txAmp_some (p : Path) (n : Fin 24) (w : Word) (fr : RxFrame) (d : Dev) (g : Grant) (pw code : Nat) (hc : code = bits w.toNat 9 0) (hw : pw = powerOf code) (hl : code < 1024)
    (hp : pw ≤ (d.decl n.val).maxPower) (hg : d.fieldGrant n.val = some g)
    (hn : (d.chan n.val).field.next = none) (h0 : code ≠ 0) (ha : pw ≤ powerOf (d.rd (CH_TX_STATUS_ACTIVE_CODE n.val))) :
    (txAmpWrite p n.val w fr d).rd (CH_TX_AMP_CODE n.val) = code ∧ (txAmpWrite p n.val w fr d).rd (CH_TX_STATUS_ACTIVE_CODE n.val) = code ∧
    (txAmpWrite p n.val w fr d).rd (CH_TX_STATUS_AMP_PENDING n.val) = 0 ∧ (txAmpWrite p n.val w fr d).ts.grants = (d.ts.grants.map fun x => if x = g then { x with power := pw } else x) ∧
    (txAmpWrite p n.val w fr d).chans = d.chans ∧ (txAmpWrite p n.val w fr d).mem = d.mem := by
  have a1 := (ampNoted_rd n code pw d hl).1
  have e0 : (ampNoted n.val code pw d).ts = d.ts := rfl
  have e1 : (ampNoted n.val code pw d).chans = d.chans := rfl
  have e2 : (ampNoted n.val code pw d).mem = d.mem := rfl
  rw [txAmp_now p n w fr d g pw code hc hw hl hp hg hn h0 ha]
  rw [headroom_chans, headroom_mem, headroom_ts]
  generalize ampNoted n.val code pw d = y at a1 e0 e1 e2 ⊢
  have c : ∀ f : Fld, (charge g pw ((y.flag (CH_TX_STATUS_AMP_PENDING n.val) false).wr (CH_TX_STATUS_ACTIVE_CODE n.val) code)).rd f =
    ((y.flag (CH_TX_STATUS_AMP_PENDING n.val) false).wr (CH_TX_STATUS_ACTIVE_CODE n.val) code).rd f := fun _ => rfl
  refine ⟨?_, ?_, ?_, ?_, e1, e2⟩
  · exact (headroom_rd n _ ((by decide : ∀ q : Fin 24, (CH_TX_AMP_CODE q.val).bit ≠ (CH_TX_STATUS_HEADROOM q.val).bit) n) ((by decide : ∀ q : Fin 24, (CH_TX_AMP_CODE q.val).bit ≠ (CH_TX_STATUS_HEADROOM_SEEN q.val).bit) n)).trans ((c _).trans
      ((Dev.rd_wr_ne _ _ ((by decide : ∀ q : Fin 24, (CH_TX_AMP_CODE q.val).bit ≠ (CH_TX_STATUS_ACTIVE_CODE q.val).bit) n)).trans ((Dev.rd_flag_ne _ _ ((by decide : ∀ q : Fin 24, (CH_TX_AMP_CODE q.val).bit ≠ (CH_TX_STATUS_AMP_PENDING q.val).bit) n)).trans a1)))
  · exact (headroom_rd n _ ((by decide : ∀ q : Fin 24, (CH_TX_STATUS_ACTIVE_CODE q.val).bit ≠ (CH_TX_STATUS_HEADROOM q.val).bit) n) ((by decide : ∀ q : Fin 24, (CH_TX_STATUS_ACTIVE_CODE q.val).bit ≠ (CH_TX_STATUS_HEADROOM_SEEN q.val).bit) n)).trans ((c _).trans
      ((Dev.rd_wr_same _ (CH_TX_STATUS_ACTIVE_CODE n.val) _).trans (Nat.mod_eq_of_lt hl)))
  · exact (headroom_rd n _ ((by decide : ∀ q : Fin 24, (CH_TX_STATUS_AMP_PENDING q.val).bit ≠ (CH_TX_STATUS_HEADROOM q.val).bit) n) ((by decide : ∀ q : Fin 24, (CH_TX_STATUS_AMP_PENDING q.val).bit ≠ (CH_TX_STATUS_HEADROOM_SEEN q.val).bit) n)).trans ((c _).trans
      ((Dev.rd_wr_ne _ _ ((by decide : ∀ q : Fin 24, (CH_TX_STATUS_AMP_PENDING q.val).bit ≠ (CH_TX_STATUS_ACTIVE_CODE q.val).bit) n)).trans (Dev.rd_flag_same _ (CH_TX_STATUS_AMP_PENDING n.val) false)))
  · unfold charge; exact congrArg (fun t : TsSt => t.grants.map fun x => if x = g then { x with power := pw } else x) e0

theorem txAmp_row (s : State) (p : Path) (n : Fin 24) (w : Word) (fr : RxFrame) (hr : s.dev.reaches p (0x40000 + n.val * 0x2000) = true)
    (hq : (s.dev.chan n.val).field.st = .rampUp → s.dev.rd (CH_TX_RAMP_RAMP_ON n.val) ≠ 0) (pw code : Nat)
    (hc : code = bits w.toNat 9 0) (hw : pw = powerOf code) (hp : pw ≤ (s.dev.decl n.val).maxPower) :
        (s.dev.fieldGrant n.val = none → (s.dev.chan n.val).field.next = none → Completes (.txAmpWrite p n w fr) s fun d =>
          d.rd (CH_TX_AMP_CODE n.val) = code ∧ d.rd (CH_TX_AMP_PWR n.val) = pw % 256 ∧ d.chans = s.dev.chans ∧ d.mem = s.dev.mem) ∧
        (∀ g, s.dev.fieldGrant n.val = some g → (s.dev.chan n.val).field.next = none → code ≠ 0 →
          pw ≤ powerOf (s.dev.rd (CH_TX_STATUS_ACTIVE_CODE n.val)) → Completes (.txAmpWrite p n w fr) s fun d =>
            d.rd (CH_TX_AMP_CODE n.val) = code ∧ d.rd (CH_TX_STATUS_ACTIVE_CODE n.val) = code ∧ d.rd (CH_TX_STATUS_AMP_PENDING n.val) = 0 ∧
            d.ts.grants = (s.dev.ts.grants.map fun x => if x = g then { x with power := pw } else x) ∧ d.chans = s.dev.chans ∧ d.mem = s.dev.mem) := by
  have hl : code < 1024 := hc ▸ bits_lt w.toNat 9 0
  have e : exec (.txAmpWrite p n w fr) s = s.act (onPort (0x40000 + n.val * 0x2000) p fun d => rampInOne n.val (txAmpWrite p n.val w fr d)) := rfl
  have k1 : (s.dev.accessed p).decl n.val = s.dev.decl n.val := by unfold Dev.decl; rw [show (s.dev.accessed p).boot = s.dev.boot from Dev.beginAccess_boot _ p]
  have k2 : (s.dev.accessed p).chans = s.dev.chans := Dev.beginAccess_chans _ p
  have k3 : (s.dev.accessed p).mem = s.dev.mem := Dev.accessed_mem _ _
  have k4 : (s.dev.accessed p).chan n.val = s.dev.chan n.val := by unfold Dev.chan; rw [k2]
  have k8 : (s.dev.accessed p).ts = s.dev.ts := Dev.beginAccess_ts _ p
  have k6 : (s.dev.accessed p).grantNow n.val = s.dev.grantNow n.val := by cases p <;> rfl
  have k5 : (s.dev.accessed p).fieldGrant n.val = s.dev.fieldGrant n.val := by
    unfold Dev.fieldGrant Dev.lastGrant
    rw [k4, k6, k8]
  have k7 : (s.dev.accessed p).rd (CH_TX_STATUS_ACTIVE_CODE n.val) = s.dev.rd (CH_TX_STATUS_ACTIVE_CODE n.val) := accessed_rd _ _ _
  have k9 : (s.dev.accessed p).rd (CH_TX_RAMP_RAMP_ON n.val) = s.dev.rd (CH_TX_RAMP_RAMP_ON n.val) := accessed_rd _ _ _
  have one : ∀ y : Dev, (y.chan n.val).field.st = (s.dev.chan n.val).field.st → y.rd (CH_TX_RAMP_RAMP_ON n.val) = s.dev.rd (CH_TX_RAMP_RAMP_ON n.val) → rampInOne n.val y = y :=
    fun y h1 h2 => inOne_not n.val y fun h => h2 ▸ hq (h1 ▸ h)
  refine ⟨fun hg hn => Completes.of _ e ?_, fun g hg hn h0 ha => Completes.of _ e ?_⟩
  · rw [onPort_reached _ hr]
    generalize s.dev.accessed p = y at k1 k2 k3 k4 k5 k9
    have hg' := k5.trans hg
    have hn' : (y.chan n.val).field.next = none := by rw [k4]; exact hn
    have hp' : pw ≤ (y.decl n.val).maxPower := by rw [k1]; exact hp
    have z := txAmp_none p n w fr y pw code hc hw hl hp' hg' hn'
    rw [one _ (by rw [txAmp_idle p n w fr y pw code hc hw hp' hg' hn']; exact congrArg (fun c : Chan => c.field.st) k4) (by
      rw [txAmp_idle p n w fr y pw code hc hw hp' hg' hn']
      exact (Dev.rd_wr_ne _ _ ((by decide : ∀ q : Fin 24, (CH_TX_RAMP_RAMP_ON q.val).bit ≠ (CH_TX_AMP_PWR q.val).bit) n)).trans ((Dev.rd_wr_ne _ _ ((by decide : ∀ q : Fin 24, (CH_TX_RAMP_RAMP_ON q.val).bit ≠ (CH_TX_AMP_CODE q.val).bit) n)).trans k9)), ← k2, ← k3]
    exact z
  · rw [onPort_reached _ hr]
    generalize s.dev.accessed p = y at k1 k2 k3 k4 k5 k7 k8 k9
    have hg' := k5.trans hg
    have hn' : (y.chan n.val).field.next = none := by rw [k4]; exact hn
    have hp' : pw ≤ (y.decl n.val).maxPower := by rw [k1]; exact hp
    have ha' : pw ≤ powerOf (y.rd (CH_TX_STATUS_ACTIVE_CODE n.val)) := by rw [k7]; exact ha
    have z := txAmp_some p n w fr y g pw code hc hw hl hp' hg' hn' h0 ha'
    have zc : (txAmpWrite p n.val w fr y).chan n.val = s.dev.chan n.val := by unfold Dev.chan; rw [z.2.2.2.2.1, k2]
    rw [one _ (congrArg (fun c : Chan => c.field.st) zc) (by
      rw [txAmp_now p n w fr y g pw code hc hw hl hp' hg' hn' h0 ha']
      refine (headroom_rd n _ ((by decide : ∀ q : Fin 24, (CH_TX_RAMP_RAMP_ON q.val).bit ≠ (CH_TX_STATUS_HEADROOM q.val).bit) n) ((by decide : ∀ q : Fin 24, (CH_TX_RAMP_RAMP_ON q.val).bit ≠ (CH_TX_STATUS_HEADROOM_SEEN q.val).bit) n)).trans ?_
      exact (Dev.rd_wr_ne _ _ ((by decide : ∀ q : Fin 24, (CH_TX_RAMP_RAMP_ON q.val).bit ≠ (CH_TX_STATUS_ACTIVE_CODE q.val).bit) n)).trans ((Dev.rd_flag_ne _ _ ((by decide : ∀ q : Fin 24, (CH_TX_RAMP_RAMP_ON q.val).bit ≠ (CH_TX_STATUS_AMP_PENDING q.val).bit) n)).trans ((Dev.rd_wr_ne _ _ ((by decide : ∀ q : Fin 24, (CH_TX_RAMP_RAMP_ON q.val).bit ≠ (CH_TX_AMP_PWR q.val).bit) n)).trans ((Dev.rd_wr_ne _ _ ((by decide : ∀ q : Fin 24, (CH_TX_RAMP_RAMP_ON q.val).bit ≠ (CH_TX_AMP_CODE q.val).bit) n)).trans k9)))), ← k2, ← k3, ← k8]
    exact z

theorem modField_keeps (n : Nat) (g : FieldSt → FieldSt) (d : Dev) (W : List Span) : Changes [.regs, .chans, .out] W d (d.modField n g) :=
  Dev.modField_after (Changes.refl _ _ _) (by decide) (by simp [covers, within]) n g

/-- The outputs clamp and the field is off, where no grant is confirmed behind it. -/
theorem rampDown_off (n : Fin 24) (d : Dev) (h : (d.chan n.val).field.st = .rampDown) (hn : (d.chan n.val).field.next = none) :
    ((rampDownDone n.val d).chan n.val).field.st = .off ∧ ((rampDownDone n.val d).chan n.val).field.offAt = some d.ns ∧
    d.Keeps [.regs, .chans, .out] [.one (CH_TX_STATUS_HEADROOM n.val).bit] (rampDownDone n.val d) ∧ (rampDownDone n.val d).rd (CH_TX_STATUS_HEADROOM n.val) = 0 := by
  have e : rampDownDone n.val d = (d.modField n.val fun f =>
      { f with st := .off, guard := false, boundary := false, settled := false, thenOff := false, next := none, offAt := if f.lit then some d.ns else f.offAt }).lower
      (CH_TX_STATUS_HEADROOM n.val) := by
    unfold rampDownDone
    dsimp only
    rw [if_pos h]
    unfold fieldOff
    dsimp only
    rw [hn]
  rw [e]
  have k := field_modField n (fun f => { f with st := .off, guard := false, boundary := false, settled := false, thenOff := false, next := none, offAt := if f.lit then some d.ns else f.offAt }) d
  refine ⟨congrArg FieldSt.st k, (congrArg FieldSt.offAt k).trans (if_pos (by unfold FieldSt.lit; rw [h])), Changes.keeps ?_, Dev.rd_lower_same _ (CH_TX_STATUS_HEADROOM n.val)⟩
  exact lower_after (modField_keeps _ _ _ _) (by decide) ⟨_, List.mem_cons_self, rfl⟩

theorem rampDown_reset (n : Fin 24) (d : Dev) (h : (d.chan n.val).field.st = .resetDown) (hn : (d.chan n.val).field.thenOff = false) :
    ((rampDownDone n.val d).chan n.val).field.st = .resetOff ∧ ((rampDownDone n.val d).chan n.val).field.offAt = some d.ns ∧
    d.Keeps [.regs, .chans, .out] [.one (CH_TX_STATUS_HEADROOM n.val).bit] (rampDownDone n.val d) ∧ (rampDownDone n.val d).rd (CH_TX_STATUS_HEADROOM n.val) = 0 := by
  have e : rampDownDone n.val d = (d.modField n.val fun f => { f with st := .resetOff, offAt := some d.ns }).lower (CH_TX_STATUS_HEADROOM n.val) := by
    unfold rampDownDone
    dsimp only
    rw [if_neg (by rw [h]; decide), if_pos h, hn]; rfl
  rw [e]
  have k := field_modField n (fun f => { f with st := .resetOff, offAt := some d.ns }) d
  exact ⟨congrArg FieldSt.st k, congrArg FieldSt.offAt k, Changes.keeps (lower_after (modField_keeps _ _ _ _) (by decide) ⟨_, List.mem_cons_self, rfl⟩),
    Dev.rd_lower_same _ (CH_TX_STATUS_HEADROOM n.val)⟩

theorem fieldDown_st (n : Fin 24) (d : Dev) : ((fieldDown n.val d).chan n.val).field.st = .rampDown := congrArg FieldSt.st (field_modField n _ d)

theorem loseField_rampOff (n : Fin 24) (cut : Nat) (fr : RxFrame) (mine : Bool) (d : Dev) : (loseField n.val cut fr mine d).rd (CH_TX_RAMP_RAMP_OFF n.val) = d.rd (CH_TX_RAMP_RAMP_OFF n.val) :=
  (loseField_after (Changes.refl _ _ _) (within_refl _) (covers_refl _) n.val cut fr mine).rd (rows_not ((by decide +kernel : ∀ q : Fin 24, List.all _ (Span.misses (CH_TX_RAMP_RAMP_OFF q.val).bit) = true) n))

theorem endField_on (n : Fin 24) (cut : Nat) (fr : RxFrame) (mine : Bool) (d : Dev) (h : (d.chan n.val).field.st = .on) (hr : d.rd (CH_TX_RAMP_RAMP_OFF n.val) ≠ 0) :
    ((endField n.val cut fr mine d).chan n.val).field.st = .rampDown := by
  unfold endField
  rw [h]
  dsimp only
  rw [if_neg hr]
  exact fieldDown_st n _

theorem release_eff (n : Fin 24) (fr : RxFrame) (d : Dev) (g : Grant) (h : d.fieldGrant n.val = some g) (ho : g.owner = .pontoon) :
    releaseGrant n.val fr d = endField n.val cutGRANT_END fr true
      { d with ts := { d.ts with grants := d.ts.grants.map fun x => if x = g then { x with released := some d.time } else x } } := by
  unfold releaseGrant
  rw [h]
  dsimp only
  rw [ho]
  rfl

theorem release_row (s : State) (n : Fin 24) (g : Grant) (fr : RxFrame) (h : s.dev.fieldGrant n.val = some g) (ho : g.owner = .pontoon)
    (hs : (s.dev.chan n.val).field.st = .on) (hr : s.dev.rd (CH_TX_RAMP_RAMP_OFF n.val) ≠ 0) :
    Completes (.grantRelease n fr) s fun d => (d.chan n.val).field.st = .rampDown ∧ d.mem = s.dev.mem := by
  have e : exec (.grantRelease n fr) s = s.act (fun d => rampInOne n.val (releaseGrant n.val fr d)) := rfl
  have m : ∀ d : Dev, (releaseGrant n.val fr d).mem = d.mem := fun d => ((releaseGrant_after (Changes.refl _ _ _) (within_refl _) (covers_refl _) n.val fr).parts .mem (by decide))
  have k : ((releaseGrant n.val fr { s.dev with out := [] }).chan n.val).field.st = .rampDown := by
    rw [release_eff n fr { s.dev with out := [] } g h ho]
    exact endField_on n _ _ _ _ hs hr
  refine Completes.of _ e ?_
  dsimp only
  rw [inOne_not n.val _ (fun c => by rw [k] at c; exact absurd c (by decide))]
  exact ⟨k, m _⟩

/-- RAMP_UP begins. -/
theorem rampUp_eff (n : Fin 24) (d : Dev) : ((rampUp n.val d).chan n.val).field.st = .rampUp ∧ ((rampUp n.val d).chan n.val).field.guard = false ∧
    ((rampUp n.val d).chan n.val).field.settled = (d.chan n.val).field.settled ∧ ((rampUp n.val d).chan n.val).job = (d.chan n.val).job ∧
    ((rampUp n.val d).chan n.val).exch = (d.chan n.val).exch ∧
    Changes [.regs, .chans, .out] [.one (CH_TX_STATUS_HEADROOM n.val).bit, .one (CH_TX_STATUS_HEADROOM_SEEN n.val).bit] d (rampUp n.val d) := by
  have k := chan_modChan n (fun c => { c with field := { c.field with st := .rampUp, guard := false, measured := false, thenOff := false } }) d
  have h1 : Rows [.one (CH_TX_STATUS_HEADROOM n.val).bit, .one (CH_TX_STATUS_HEADROOM_SEEN n.val).bit] (CH_TX_STATUS_HEADROOM n.val).bit := ⟨_, List.mem_cons_self, rfl⟩
  have h2 : Rows [.one (CH_TX_STATUS_HEADROOM n.val).bit, .one (CH_TX_STATUS_HEADROOM_SEEN n.val).bit] (CH_TX_STATUS_HEADROOM_SEEN n.val).bit :=
    ⟨_, List.mem_cons_of_mem _ List.mem_cons_self, rfl⟩
  unfold rampUp
  rw [headroom_chan]
  refine ⟨congrArg (fun c : Chan => c.field.st) k, congrArg (fun c : Chan => c.field.guard) k, (congrArg (fun c : Chan => c.field.settled) k).trans rfl, (congrArg Chan.job k).trans rfl, (congrArg Chan.exch k).trans rfl, ?_⟩
  unfold headroom; split
  · exact raiseIf_after (flag_after (modField_keeps _ _ _ _) (by decide) h1 _) (by decide) h2 _
  · exact lower_after (modField_keeps _ _ _ _) (by decide) h1

theorem rampUp_rd (n : Fin 24) (d : Dev) {f : Fld} (h1 : f.bit ≠ (CH_TX_STATUS_HEADROOM n.val).bit) (h2 : f.bit ≠ (CH_TX_STATUS_HEADROOM_SEEN n.val).bit) :
    (rampUp n.val d).rd f = d.rd f := by unfold rampUp; exact (headroom_rd n _ h1 h2).trans rfl

theorem rampUp_runs (n : Fin 24) (d : Dev) : (rampUp n.val d).coreRuns = d.coreRuns := by
  have p : (rampUp n.val d).power = d.power := (rampUp_eff n d).2.2.2.2.2.parts .power (by decide)
  unfold Dev.coreRuns Dev.on
  rw [p, rampUp_rd n d ((by decide : ∀ q : Fin 24, PW_STATE_CUR.bit ≠ (CH_TX_STATUS_HEADROOM q.val).bit) n) ((by decide : ∀ q : Fin 24, PW_STATE_CUR.bit ≠ (CH_TX_STATUS_HEADROOM_SEEN q.val).bit) n),
    rampUp_rd n d ((by decide : ∀ q : Fin 24, GC_STATUS_PLLA_LOCK.bit ≠ (CH_TX_STATUS_HEADROOM q.val).bit) n) ((by decide : ∀ q : Fin 24, GC_STATUS_PLLA_LOCK.bit ≠ (CH_TX_STATUS_HEADROOM_SEEN q.val).bit) n)]

theorem supplySettled_to (n : Fin 24) (d : Dev) (hc : d.coreRuns = true) (h : (d.chan n.val).field.st = .supply) (hb : (d.chan n.val).field.boundary = true) :
    supplySettled n.val d = rampUp n.val (d.modField n.val fun f => { f with settled := true }) := by
  have k := field_modField n (fun f => { f with settled := true }) d
  unfold supplySettled tryRampUp
  dsimp only
  rw [h, hc, k, h, hb]; rfl

theorem supplySettled_eff (n : Fin 24) (d : Dev) (hc : d.coreRuns = true) (h : (d.chan n.val).field.st = .supply) (hb : (d.chan n.val).field.boundary = true) :
    ((supplySettled n.val d).chan n.val).field.st = .rampUp ∧ ((supplySettled n.val d).chan n.val).field.settled = true ∧
    Changes [.regs, .chans, .out] [.one (CH_TX_STATUS_HEADROOM n.val).bit, .one (CH_TX_STATUS_HEADROOM_SEEN n.val).bit] d (supplySettled n.val d) := by
  have k := field_modField n (fun f => { f with settled := true }) d
  rw [supplySettled_to n d hc h hb]
  have r := rampUp_eff n (d.modField n.val fun f => { f with settled := true })
  exact ⟨r.1, r.2.2.1.trans (congrArg FieldSt.settled k), (modField_keeps _ _ _ _).trans r.2.2.2.2.2⟩

theorem supplyWaits_eff (n : Fin 24) (d : Dev) (hc : d.coreRuns = true) (h : (d.chan n.val).field.st = .supply) (hb : (d.chan n.val).field.boundary = false) :
    ((supplySettled n.val d).chan n.val).field.st = .supply ∧ ((supplySettled n.val d).chan n.val).field.settled = true ∧ (supplySettled n.val d).regs = d.regs ∧
    (supplySettled n.val d).mem = d.mem := by
  have k := field_modField n (fun f => { f with settled := true }) d
  have e : supplySettled n.val d = d.modField n.val fun f => { f with settled := true } := by
    unfold supplySettled tryRampUp
    dsimp only
    rw [h, hc, k, h, hb]; rfl
  rw [e]
  exact ⟨(congrArg FieldSt.st k).trans h, congrArg FieldSt.settled k, rfl, rfl⟩

theorem kick_none (n : Nat) (d : Dev) (h : (d.chan n).exch = none) : kick n d = d := by unfold kick; dsimp only; rw [h]

theorem rampUpDone_to (n : Fin 24) (d : Dev) (hc : d.coreRuns = true) (h : (d.chan n.val).field.st = .rampUp) (hg : (d.chan n.val).field.guard = false)
    (h0 : d.rd (CH_TX_GUARD_GUARD n.val) ≠ 0) (hj : (d.chan n.val).job = none) (hx : (d.chan n.val).exch = none) :
    rampUpDone n.val d = d.modField n.val fun f => { f with st := .on } := by
  have k := field_modField n (fun f => { f with st := .on }) d
  have kj : ((d.modField n.val fun f => { f with st := .on }).chan n.val).job = none := (congrArg Chan.job (chan_modChan n _ d)).trans hj
  have kx : ((d.modField n.val fun f => { f with st := .on }).chan n.val).exch = none := (congrArg Chan.exch (chan_modChan n _ d)).trans hx
  have kr : (d.modField n.val fun f => { f with st := .on }).rd (CH_TX_GUARD_GUARD n.val) = d.rd (CH_TX_GUARD_GUARD n.val) := rfl
  unfold rampUpDone
  rw [h, hc]
  dsimp only
  rw [if_neg (by decide), kick_none _ _ kx, kj]
  dsimp only
  rw [kr, if_neg h0]
  unfold fieldReady
  dsimp only
  rw [k, hg]
  rfl

theorem rampUpDone_eff (n : Fin 24) (d : Dev) (hc : d.coreRuns = true) (h : (d.chan n.val).field.st = .rampUp) (hg : (d.chan n.val).field.guard = false)
    (h0 : d.rd (CH_TX_GUARD_GUARD n.val) ≠ 0) (hj : (d.chan n.val).job = none) (hx : (d.chan n.val).exch = none) :
    ((rampUpDone n.val d).chan n.val).field.st = .on ∧ (rampUpDone n.val d).regs = d.regs ∧ (rampUpDone n.val d).mem = d.mem := by
  rw [rampUpDone_to n d hc h hg h0 hj hx]
  exact ⟨congrArg FieldSt.st (field_modField n _ d), rfl, rfl⟩

theorem rfResetOff_eff (n : Fin 24) (d : Dev) (hc : d.coreRuns = true) (h : (d.chan n.val).field.st = .resetOff) (hg : (d.grantNow n.val).isSome = true) :
    ((rfResetOffExpiry n.val d).chan n.val).field.st = .rampUp ∧ ((rfResetOffExpiry n.val d).chan n.val).field.guard = false ∧
    Changes [.regs, .chans, .out] [.one (CH_TX_STATUS_HEADROOM n.val).bit, .one (CH_TX_STATUS_HEADROOM_SEEN n.val).bit] d (rfResetOffExpiry n.val d) := by
  have e : rfResetOffExpiry n.val d = rampUp n.val d := by
    unfold rfResetOffExpiry
    rw [h, hc, hg]; rfl
  rw [e]
  have r := rampUp_eff n d
  exact ⟨r.1, r.2.1, r.2.2.2.2.2⟩

theorem reach_chans (d : Dev) (t : Nat) : (d.reach t).chans = d.chans := ((Dev.reach_after (Changes.refl _ _ _) (within_refl _) (covers_refl _) t).parts .chans (by decide))
theorem reach_ts (d : Dev) (t : Nat) : (d.reach t).ts = d.ts := ((Dev.reach_after (Changes.refl _ _ _) (within_refl _) (covers_refl _) t).parts .ts (by decide))

theorem reach_rampOff (n : Fin 24) (t : Nat) (d : Dev) : (d.reach t).rd (CH_TX_RAMP_RAMP_OFF n.val) = d.rd (CH_TX_RAMP_RAMP_OFF n.val) :=
  (Dev.reach_after (Changes.refl _ _ _) (within_refl _) (covers_refl _) t).rd (rows_not ((by decide +kernel : ∀ q : Fin 24, List.all _ (Span.misses (CH_TX_RAMP_RAMP_OFF q.val).bit) = true) n))

theorem fieldEndPoint_eff (n : Fin 24) (fr : RxFrame) (d : Dev) (g : Grant) (hc : d.coreRuns = true) (hg : d.fieldGrant n.val = some g) (ho : g.isOpen = false)
    (he : g.start + g.slots ≤ d.nextBoundary) (h : (d.chan n.val).field.st = .on) (hr : d.rd (CH_TX_RAMP_RAMP_OFF n.val) ≠ 0) :
    ((fieldEndPoint n.val fr d).chan n.val).field.st = .rampDown ∧ (fieldEndPoint n.val fr d).mem = d.mem := by
  have m : (fieldEndPoint n.val fr d).mem = d.mem := ((fieldEndPoint_after (Changes.refl _ _ _) (within_refl _) (covers_refl _) n.val fr).parts .mem (by decide))
  refine ⟨?_, m⟩
  unfold fieldEndPoint
  rw [hg]
  dsimp only
  rw [hc, ho, decide_eq_false (Nat.not_lt.2 he)]
  refine endField_on n _ _ _ _ ?_ ((reach_rampOff n _ d).symm ▸ hr)
  unfold Dev.chan
  rw [reach_chans]
  exact h

theorem grantEnd_eff (n : Fin 24) (d : Dev) (g : Grant) (hg : d.grantNow n.val = some g) (ho : g.isOpen = false) :
    grantEnd n.val d = followListeners (endGrants (d.reach ((g.start + g.slots) * 1000000))) ∧ (grantEnd n.val d).mem = d.mem := by
  have m : (grantEnd n.val d).mem = d.mem := ((grantEnd_after (Changes.refl _ _ _) (within_refl _) (covers_refl _) n.val).parts .mem (by decide))
  refine ⟨?_, m⟩
  unfold grantEnd
  rw [hg]
  dsimp only
  rw [ho]; rfl

theorem selectOne_ts (i : Bool) (cc m n : Nat) (d : Dev) : (selectOne i cc m n d).ts = d.ts := ((selectOne_after (Changes.refl _ _ _) (within_refl _) (covers_refl _) i cc m n).parts .ts (by decide))
theorem selectAll_ts (xs : List Nat) (f : Nat → Dev → Dev) (h : ∀ x e, (f x e).ts = e.ts) (d : Dev) : (d.each xs f).ts = d.ts := by
  induction xs generalizing d with
  | nil => rfl
  | cons x xs ih => exact (ih (f x d)).trans (h x d)

theorem selectFrame_eff (g : Nat) (d e : Dev) (lead m : Nat) (ha : d.applied = true) (hl : lead = d.rd (CH_SEL_CFG_LEAD (4 * g))) (hm : m = d.boundaryAfterLead lead)
    (he : e = d.reach (m * 1000000 - lead * 1000)) (hf : e.frameDue g m = true) :
    selectFrame g d = ({ e with ts := { e.ts with selInit := e.ts.selInit.filter (·.1 ≠ g) } } : Dev).each (upTo 4) (fun j => selectOne (e.ts.selInit.contains (g, m)) (4 * 2 ^ e.rd (CH_SEL_CFG_SELDIV (4 * g))) m (4 * g + j)) ∧
    (∀ x ∈ (selectFrame g d).ts.selInit, x.1 ≠ g) ∧ (selectFrame g d).mem = d.mem := by
  have hmem : (selectFrame g d).mem = d.mem := ((selectFrame_after (Changes.refl _ _ _) (within_refl _) (covers_refl _) g).parts .mem (by decide))
  have k : selectFrame g d = ({ e with ts := { e.ts with selInit := e.ts.selInit.filter (·.1 ≠ g) } } : Dev).each (upTo 4) (fun j => selectOne (e.ts.selInit.contains (g, m)) (4 * 2 ^ e.rd (CH_SEL_CFG_SELDIV (4 * g))) m (4 * g + j)) := by
    unfold selectFrame
    dsimp only
    rw [ha, ← hl, ← hm, ← he, hf]
    rfl
  refine ⟨k, ?_, hmem⟩
  rw [k, selectAll_ts _ _ (fun _ _ => selectOne_ts _ _ _ _ _)]
  intro x hx
  have := (List.mem_filter.1 hx).2
  simpa using this

theorem grantRequest_first (p : Path) (w : Word) (d : Dev) (h : d.ts.asm.find? (·.1 = p) = none) :
    grantRequest p w d = { d with ts := { d.ts with asm := d.ts.asm ++ [(p, w)] } } := by unfold grantRequest; rw [h]

theorem requestUrgent_eff (d : Dev) : (requestUrgent d).ts.reqs = d.ts.reqs.map (fun r =>
      { r with urgent := r.urgent || (decide (0 < d.rd TS_CFG_AGE) && decide (d.rd TS_CFG_AGE ≤ r.waited)) }) ∧ (requestUrgent d).regs = d.regs ∧ (requestUrgent d).mem = d.mem := ⟨rfl, rfl, rfl⟩

theorem confirmation_eff (d e : Dev) (m : Nat) (hc : d.coreRuns = true) (hm : m = d.boundaryAfterLead 150) (he : e = d.reach (m * 1000000 - 150000)) (hg : e.grantsAllowed = true)
    (hs : e.surveying = false) :
    confirmationPoint d = ((e.ts.reqs.filter fun r => match r.owner with | .emulation _ => true | _ => false) ++
             (e.ts.reqs.filter fun r => match r.owner with | .emulation _ => false | _ => true)).foldl (consider m) e ∧ (confirmationPoint d).mem = d.mem := by
  have hmem : (confirmationPoint d).mem = d.mem := ((confirmationPoint_after (Changes.refl _ _ _) (within_refl _) (covers_refl _)).parts .mem (by decide))
  refine ⟨?_, hmem⟩
  unfold confirmationPoint
  rw [hc]
  dsimp only
  rw [← hm, ← he, hg, hs]
  rfl

/-- The registers of a load measurement, before it is judged. -/
def loadNoted (n mag phase level : Nat) (d : Dev) : Dev :=
  let coil := d.selected n
  let d := d.modField n fun f => { f with measured := true }
  let d := ((((d.lower (CH_TX_LOAD_STALE n)).flag (CH_TX_LOAD_UNTRACED n) (d.untraced n)).wr (CH_TX_LOAD_COIL n) coil).wr (CH_TX_LOAD_PHASE n) phase).wr (CH_TX_LOAD_MAG n) mag
  ((((d.lower (CH_RX_CARRIER_STALE n)).flag (CH_RX_CARRIER_UNTRACED n) (d.untraced n)).raise (CH_RX_CARRIER_OWN n)).wr (CH_RX_CARRIER_COIL n) coil).wr (CH_RX_CARRIER_LEVEL n) level

/-- Does a load lie outside its limits, as `d` has them (R124)? -/
def loadBad (n mag phase : Nat) (d : Dev) : Bool :=
  mag < d.rd (CH_TX_LIMIT_MAG_MIN n) || d.rd (CH_TX_LIMIT_MAG_MAX n) < mag || (d.rd (CH_TX_LIMIT_PHASE_MAX n) : Int) < max (toSigned 8 phase) (-toSigned 8 phase)

/-- Is the field the survey's own (R213)? -/
def surveyField (n : Nat) (d : Dev) : Bool :=
  match d.fieldGrant n with
  | some g => g.owner == .survey
  | none => false

/-- What a load measurement leads to, once it is noted (R124, R213). -/
def loadJudged (n level cphase coil : Nat) (bad own : Bool) (d : Dev) : Dev :=
  let e := if own then { d with ts := { d.ts with survey := { d.ts.survey with ownLevel := level, ownPhase := cphase, refused := d.ts.survey.refused || bad } } } else d
  if bad then exclude (berthOf n coil) ((e.raise (CH_TX_STATUS_LOAD_FAULT n)).wr (CH_TX_STATUS_LOAD_COIL n) coil) else e

theorem loadMeasured_judged (n mag phase level cp : Nat) (d : Dev) : loadMeasured n mag phase level cp d =
    if (d.chan n).field.st ≠ .on || (d.chan n).field.measured || !d.coreRuns then d else loadJudged n level cp (d.selected n) (loadBad n mag phase (loadNoted n mag phase level d))
      (surveyField n (loadNoted n mag phase level d)) (loadNoted n mag phase level d) := rfl

theorem loadJudged_changes (n : Fin 24) (level cp coil : Nat) (bad own : Bool) (d : Dev) :
    Changes [.regs, .chans, .ts, .lq, .out, .sv, .hs] [.one 1835202, .row 0x5014 2 0x800 6, .row 0x5014 2 0x800 24, .row 0x2100c 32 0x40 3, .row 0x2100c 32 0x40 4, .row 0x2100c 32 0x40 5, .row 0x21024 32 0x40 0, .row 0x38100 48 0x4 0, .row 0x40034 24 0x2000 1, .row 0x40034 24 0x2000 10, .row 0x40108 24 0x2000 29, .row 0x40218 24 0x2000 28, .row 0x40304 24 0x2000 1, .row 0x40304 24 0x2000 20, .row 0x40304 24 0x2000 22, .row 0x40304 24 0x2000 29, .row 0x40308 24 0x2000 8, .row 0x40308 24 0x2000 24]
      d (loadJudged n.val level cp coil bad own d) := by
  unfold loadJudged
  dsimp only
  cases own <;> cases bad <;> simp only [Bool.false_eq_true, if_false, if_true]
  · exact Changes.refl _ _ _
  · repeat' first
      | (with_reducible exact Changes.refl _ _ _)
      | (with_reducible assumption)
      | (with_reducible refine ite_after ?_ ?_)
      | (with_reducible apply exclude_after)
      | (with_reducible apply raise_after)
      | (with_reducible apply lower_after)
      | (with_reducible apply wr_after)
      | (with_reducible apply flag_after)
      | (with_reducible apply countSat_after)
      | (with_reducible apply raiseIf_after)
      | (with_reducible apply when_after)
      | (with_reducible apply each_after)
      | (intro _; try dsimp only)
      | exact within_trans (by decide) (within_refl _)
      | exact covers_trans (by decide +kernel) (covers_refl _)
      | exact rows_one (covers_refl _) (by decide +kernel)
      | exact rows_row (covers_refl _) (by decide +kernel) (by decide)
      | split
  · exact set_ts_after (Changes.refl _ _ _) (by decide)
  · have k : Changes [.regs, .chans, .ts, .lq, .out, .sv, .hs] [.one 1835202, .row 0x5014 2 0x800 6, .row 0x5014 2 0x800 24, .row 0x2100c 32 0x40 3, .row 0x2100c 32 0x40 4, .row 0x2100c 32 0x40 5, .row 0x21024 32 0x40 0, .row 0x38100 48 0x4 0, .row 0x40034 24 0x2000 1, .row 0x40034 24 0x2000 10, .row 0x40108 24 0x2000 29, .row 0x40218 24 0x2000 28, .row 0x40304 24 0x2000 1, .row 0x40304 24 0x2000 20, .row 0x40304 24 0x2000 22, .row 0x40304 24 0x2000 29, .row 0x40308 24 0x2000 8, .row 0x40308 24 0x2000 24]
      d { d with ts := { d.ts with survey := { d.ts.survey with ownLevel := level, ownPhase := cp, refused := d.ts.survey.refused || true } } } := set_ts_after (Changes.refl _ _ _) (by decide)
    generalize ({ d with ts := { d.ts with survey := { d.ts.survey with ownLevel := level, ownPhase := cp, refused := d.ts.survey.refused || true } } } : Dev) = y at k ⊢
    repeat' first
      | (with_reducible exact Changes.refl _ _ _)
      | (with_reducible assumption)
      | (with_reducible refine ite_after ?_ ?_)
      | (with_reducible apply exclude_after)
      | (with_reducible apply raise_after)
      | (with_reducible apply lower_after)
      | (with_reducible apply wr_after)
      | (with_reducible apply flag_after)
      | (with_reducible apply countSat_after)
      | (with_reducible apply raiseIf_after)
      | (with_reducible apply when_after)
      | (with_reducible apply each_after)
      | (intro _; try dsimp only)
      | exact within_trans (by decide) (within_refl _)
      | exact covers_trans (by decide +kernel) (covers_refl _)
      | exact rows_one (covers_refl _) (by decide +kernel)
      | exact rows_row (covers_refl _) (by decide +kernel) (by decide)
      | split

theorem loadMeasured_tail (n : Fin 24) (mag phase level cp : Nat) (d : Dev) (hc : d.coreRuns = true) (h : (d.chan n.val).field.st = .on) (hm : (d.chan n.val).field.measured = false) :
    ∃ bad own, loadMeasured n.val mag phase level cp d = loadJudged n.val level cp (d.selected n.val) bad own (loadNoted n.val mag phase level d) := by
  have g : (decide ((d.chan n.val).field.st ≠ .on) || (d.chan n.val).field.measured || !d.coreRuns) = false := by rw [h, hm, hc]; rfl
  rw [loadMeasured_judged, g, if_neg (by decide)]
  exact ⟨_, _, rfl⟩

theorem loadNoted_rd (n : Fin 24) (mag phase level : Nat) (d : Dev) :
    (loadNoted n.val mag phase level d).rd (CH_TX_LOAD_MAG n.val) = mag % 4096 ∧ (loadNoted n.val mag phase level d).rd (CH_TX_LOAD_PHASE n.val) = phase % 256 ∧
    (loadNoted n.val mag phase level d).rd (CH_TX_LOAD_STALE n.val) = 0 ∧ (loadNoted n.val mag phase level d).rd (CH_RX_CARRIER_LEVEL n.val) = level % 256 ∧
    (loadNoted n.val mag phase level d).rd (CH_RX_CARRIER_OWN n.val) = 1 := by
  unfold loadNoted
  dsimp only
  refine ⟨?_, ?_, ?_, ?_, ?_⟩
  · exact ((Dev.rd_wr_ne _ _ ((by decide : ∀ q : Fin 24, (CH_TX_LOAD_MAG q.val).bit ≠ (CH_RX_CARRIER_LEVEL q.val).bit) n)).trans ((Dev.rd_wr_ne _ _ ((by decide : ∀ q : Fin 24, (CH_TX_LOAD_MAG q.val).bit ≠ (CH_RX_CARRIER_COIL q.val).bit) n)).trans ((Dev.rd_wr_ne _ _ ((by decide : ∀ q : Fin 24, (CH_TX_LOAD_MAG q.val).bit ≠ (CH_RX_CARRIER_OWN q.val).bit) n)).trans ((Dev.rd_wr_ne _ _ ((by decide : ∀ q : Fin 24, (CH_TX_LOAD_MAG q.val).bit ≠ (CH_RX_CARRIER_UNTRACED q.val).bit) n)).trans ((Dev.rd_wr_ne _ _ ((by decide : ∀ q : Fin 24, (CH_TX_LOAD_MAG q.val).bit ≠ (CH_RX_CARRIER_STALE q.val).bit) n)).trans (Dev.rd_wr_same _ (CH_TX_LOAD_MAG n.val) _))))))
  · exact ((Dev.rd_wr_ne _ _ ((by decide : ∀ q : Fin 24, (CH_TX_LOAD_PHASE q.val).bit ≠ (CH_RX_CARRIER_LEVEL q.val).bit) n)).trans ((Dev.rd_wr_ne _ _ ((by decide : ∀ q : Fin 24, (CH_TX_LOAD_PHASE q.val).bit ≠ (CH_RX_CARRIER_COIL q.val).bit) n)).trans ((Dev.rd_wr_ne _ _ ((by decide : ∀ q : Fin 24, (CH_TX_LOAD_PHASE q.val).bit ≠ (CH_RX_CARRIER_OWN q.val).bit) n)).trans ((Dev.rd_wr_ne _ _ ((by decide : ∀ q : Fin 24, (CH_TX_LOAD_PHASE q.val).bit ≠ (CH_RX_CARRIER_UNTRACED q.val).bit) n)).trans ((Dev.rd_wr_ne _ _ ((by decide : ∀ q : Fin 24, (CH_TX_LOAD_PHASE q.val).bit ≠ (CH_RX_CARRIER_STALE q.val).bit) n)).trans ((Dev.rd_wr_ne _ _ ((by decide : ∀ q : Fin 24, (CH_TX_LOAD_PHASE q.val).bit ≠ (CH_TX_LOAD_MAG q.val).bit) n)).trans (Dev.rd_wr_same _ (CH_TX_LOAD_PHASE n.val) _)))))))
  · exact ((Dev.rd_wr_ne _ _ ((by decide : ∀ q : Fin 24, (CH_TX_LOAD_STALE q.val).bit ≠ (CH_RX_CARRIER_LEVEL q.val).bit) n)).trans ((Dev.rd_wr_ne _ _ ((by decide : ∀ q : Fin 24, (CH_TX_LOAD_STALE q.val).bit ≠ (CH_RX_CARRIER_COIL q.val).bit) n)).trans ((Dev.rd_wr_ne _ _ ((by decide : ∀ q : Fin 24, (CH_TX_LOAD_STALE q.val).bit ≠ (CH_RX_CARRIER_OWN q.val).bit) n)).trans ((Dev.rd_wr_ne _ _ ((by decide : ∀ q : Fin 24, (CH_TX_LOAD_STALE q.val).bit ≠ (CH_RX_CARRIER_UNTRACED q.val).bit) n)).trans ((Dev.rd_wr_ne _ _ ((by decide : ∀ q : Fin 24, (CH_TX_LOAD_STALE q.val).bit ≠ (CH_RX_CARRIER_STALE q.val).bit) n)).trans ((Dev.rd_wr_ne _ _ ((by decide : ∀ q : Fin 24, (CH_TX_LOAD_STALE q.val).bit ≠ (CH_TX_LOAD_MAG q.val).bit) n)).trans ((Dev.rd_wr_ne _ _ ((by decide : ∀ q : Fin 24, (CH_TX_LOAD_STALE q.val).bit ≠ (CH_TX_LOAD_PHASE q.val).bit) n)).trans ((Dev.rd_wr_ne _ _ ((by decide : ∀ q : Fin 24, (CH_TX_LOAD_STALE q.val).bit ≠ (CH_TX_LOAD_COIL q.val).bit) n)).trans ((Dev.rd_wr_ne _ _ ((by decide : ∀ q : Fin 24, (CH_TX_LOAD_STALE q.val).bit ≠ (CH_TX_LOAD_UNTRACED q.val).bit) n)).trans (Dev.rd_wr_same _ (CH_TX_LOAD_STALE n.val) _))))))))))
  · exact (Dev.rd_wr_same _ (CH_RX_CARRIER_LEVEL n.val) _)
  · exact ((Dev.rd_wr_ne _ _ ((by decide : ∀ q : Fin 24, (CH_RX_CARRIER_OWN q.val).bit ≠ (CH_RX_CARRIER_LEVEL q.val).bit) n)).trans ((Dev.rd_wr_ne _ _ ((by decide : ∀ q : Fin 24, (CH_RX_CARRIER_OWN q.val).bit ≠ (CH_RX_CARRIER_COIL q.val).bit) n)).trans (Dev.rd_wr_same _ (CH_RX_CARRIER_OWN n.val) _)))

theorem loadMeasured_eff (n : Fin 24) (mag phase level cp : Nat) (d : Dev) (hc : d.coreRuns = true) (h : (d.chan n.val).field.st = .on) (hm : (d.chan n.val).field.measured = false)
    (h1 : mag < 4096) (h2 : phase < 256) (h3 : level < 256) :
    let e := loadMeasured n.val mag phase level cp d
    e.rd (CH_TX_LOAD_MAG n.val) = mag ∧ e.rd (CH_TX_LOAD_PHASE n.val) = phase ∧ e.rd (CH_TX_LOAD_STALE n.val) = 0 ∧ e.rd (CH_RX_CARRIER_LEVEL n.val) = level ∧
    e.rd (CH_RX_CARRIER_OWN n.val) = 1 ∧ e.mem = d.mem := by
  obtain ⟨bad, own, e⟩ := loadMeasured_tail n mag phase level cp d hc h hm
  have k := loadJudged_changes n level cp (d.selected n.val) bad own (loadNoted n.val mag phase level d)
  rw [← e] at k
  have hm : (loadNoted n.val mag phase level d).mem = d.mem := rfl
  obtain ⟨r1, r2, r3, r4, r5⟩ := loadNoted_rd n mag phase level d
  rw [Nat.mod_eq_of_lt h1] at r1; rw [Nat.mod_eq_of_lt h2] at r2; rw [Nat.mod_eq_of_lt h3] at r4
  have q : ∀ F : Nat → Fld, (∀ q : Fin 24, ¬ Rows _ (F q.val).bit) → (loadMeasured n.val mag phase level cp d).rd (F n.val) = (loadNoted n.val mag phase level d).rd (F n.val) := fun F h => k.rd (h n)
  refine ⟨(q CH_TX_LOAD_MAG fun p => rows_not ?_).trans r1, (q CH_TX_LOAD_PHASE fun p => rows_not ?_).trans r2, (q CH_TX_LOAD_STALE fun p => rows_not ?_).trans r3,
    (q CH_RX_CARRIER_LEVEL fun p => rows_not ?_).trans r4, (q CH_RX_CARRIER_OWN fun p => rows_not ?_).trans r5, (k.parts .mem (by decide)).trans hm⟩
  all_goals (revert p; decide +kernel)

theorem addRequest_eff (r : GrantReq) (d : Dev) (h1 : d.reader r.ch = true) (h2 : r.coil < d.coils r.ch)
    (h3 : r.handover = true → r.slots ≤ 8 ∧ d.berthExists r.partner = true) (h4 : r.slots ≠ 0)
    (h5 : d.excluded (berthOf r.ch r.coil) = false) : addRequest r d = { d with ts := { d.ts with reqs := d.ts.reqs ++ [r] } } := by
  have g : (decide (d.coils r.ch ≤ r.coil) || (r.handover && (decide (8 < r.slots) || !d.berthExists r.partner))) = false := by
    rw [decide_eq_false (Nat.not_le.2 h2)]
    by_cases c : r.handover = true
    · rw [decide_eq_false (Nat.not_lt.2 (h3 c).1), (h3 c).2]; simp
    · rw [Bool.not_eq_true] at c; rw [c]; rfl
  unfold addRequest
  rw [h1, g, h5, if_neg (by decide), if_neg (by decide), if_neg h4, if_neg (by decide)]

theorem grantRequest_second (p : Path) (w w0 : Word) (d : Dev) (hf : d.ts.asm.find? (·.1 = p) = some (p, w0)) (r : GrantReq)
    (hr : r = { owner := .firmware (bits w.toNat 15 0), ch := bits w0.toNat 31 27, coil := bits w0.toNat 26 21, slots := bits w0.toNat 7 0,
                              handover := bit w0.toNat 20, partner := bits w.toNat 26 16, waited := 0, urgent := false })
    (hc : r.ch < 24) (hn : d.fwRequests < 16) (h1 : d.reader r.ch = true) (h2 : r.coil < d.coils r.ch) (h3 : r.handover = true → r.slots ≤ 8 ∧ d.berthExists r.partner = true) (h4 : r.slots ≠ 0)
    (h5 : d.excluded (berthOf r.ch r.coil) = false) :
    grantRequest p w d = { d with ts := { d.ts with asm := d.ts.asm.filter (·.1 ≠ p), reqs := d.ts.reqs ++ [r] } } := by
  have hc' : bits w0.toNat 31 27 < 24 := by rw [hr] at hc; exact hc
  unfold grantRequest
  rw [hf]
  dsimp only
  have k : ({ d with ts := { d.ts with asm := d.ts.asm.filter (·.1 ≠ p) } } : Dev).fwRequests = d.fwRequests := rfl
  rw [if_neg (Nat.not_le.2 hc'), if_neg (by rw [k]; exact Nat.not_le.2 hn), ← hr]
  exact addRequest_eff r _ h1 h2 h3 h4 h5

theorem grantRequest_row (s : State) (p : Path) (w : Word) (hr : s.dev.reaches p 0x38000 = true) :
      (s.dev.ts.asm.find? (·.1 = p) = none → Completes (.grantRequest p w) s fun d => d.ts.asm = s.dev.ts.asm ++ [(p, w)] ∧ d.regs = s.dev.regs ∧ d.mem = s.dev.mem) ∧
      (∀ w0 : Word, s.dev.ts.asm.find? (·.1 = p) = some (p, w0) →
        let r : GrantReq := { owner := .firmware (bits w.toNat 15 0), ch := bits w0.toNat 31 27, coil := bits w0.toNat 26 21, slots := bits w0.toNat 7 0,
                              handover := bit w0.toNat 20, partner := bits w.toNat 26 16, waited := 0, urgent := false }
        r.ch < 24 → s.dev.fwRequests < 16 → s.dev.reader r.ch = true → r.coil < s.dev.coils r.ch → (r.handover = true → r.slots ≤ 8 ∧ s.dev.berthExists r.partner = true) → r.slots ≠ 0 →
        s.dev.excluded (berthOf r.ch r.coil) = false → Completes (.grantRequest p w) s fun d =>
          d.ts.reqs = s.dev.ts.reqs ++ [r] ∧ d.ts.asm = s.dev.ts.asm.filter (·.1 ≠ p) ∧ d.regs = s.dev.regs ∧ d.mem = s.dev.mem) := by
  have e : exec (.grantRequest p w) s = s.act (onPort 0x38000 p (grantRequest p w)) := rfl
  have k1 : (s.dev.accessed p).ts = s.dev.ts := Dev.beginAccess_ts _ p
  have k2 : (s.dev.accessed p).regs = s.dev.regs := Dev.beginAccess_regs _ p
  have k3 : (s.dev.accessed p).mem = s.dev.mem := Dev.accessed_mem _ _
  have k4 : (s.dev.accessed p).boot = s.dev.boot := Dev.beginAccess_boot _ p
  refine ⟨fun h => Completes.of _ e ?_, ?_⟩
  · rw [onPort_reached _ hr]
    generalize s.dev.accessed p = y at k1 k2 k3
    rw [grantRequest_first p w y (by rw [k1]; exact h), ← k1, ← k2, ← k3]
    exact ⟨rfl, rfl, rfl⟩
  · intro w0 h r hc hn h1 h2 h3 h4 h5
    refine Completes.of _ e ?_
    rw [onPort_reached _ hr]
    have m1 : (s.dev.accessed p).fwRequests = s.dev.fwRequests := by unfold Dev.fwRequests; rw [k1]
    have m2 : (s.dev.accessed p).reader r.ch = s.dev.reader r.ch := by unfold Dev.reader Dev.decl; rw [k4]
    have m3 : (s.dev.accessed p).coils r.ch = s.dev.coils r.ch := by unfold Dev.coils Dev.decl; rw [k4]
    have m4 : (s.dev.accessed p).excluded (berthOf r.ch r.coil) = s.dev.excluded (berthOf r.ch r.coil) := by unfold Dev.excluded; exact Dev.bitOn_of_rd (accessed_rd _ _ _) _
    have m5 : (s.dev.accessed p).berthExists r.partner = s.dev.berthExists r.partner := by unfold Dev.berthExists Dev.coils Dev.decl; rw [k4]
    generalize s.dev.accessed p = y at k1 k2 k3 m1 m2 m3 m4 m5
    rw [grantRequest_second p w w0 y (by rw [k1]; exact h) r rfl hc (by rw [m1]; exact hn) (by rw [m2]; exact h1) (by rw [m3]; exact h2) (by rw [m5]; exact h3) h4 (by rw [m4]; exact h5), ← k1, ← k2, ← k3]
    exact ⟨rfl, rfl, rfl, rfl⟩

theorem measured_rows (s : State) (n : Fin 24) (hc : s.dev.coreRuns = true) (mag : Fin 4096) (phase level cp : Byte) (h : (s.dev.chan n.val).field.st = .on)
    (hm : (s.dev.chan n.val).field.measured = false) :
    Completes (.loadMeasurementDone n mag phase level cp) s fun d =>
      d.rd (CH_TX_LOAD_MAG n.val) = mag.val ∧ d.rd (CH_TX_LOAD_PHASE n.val) = phase.toNat ∧ d.rd (CH_TX_LOAD_STALE n.val) = 0 ∧
      d.rd (CH_RX_CARRIER_LEVEL n.val) = level.toNat ∧ d.rd (CH_RX_CARRIER_OWN n.val) = 1 ∧
      d.mem = s.dev.mem :=
  Completes.of (loadMeasured n.val mag.val phase.toNat level.toNat cp.toNat) rfl
    (loadMeasured_eff n mag.val phase.toNat level.toNat cp.toNat { s.dev with out := [] } hc h hm mag.isLt phase.isLt level.isLt)

theorem field_rows (s : State) (n : Fin 24) (hc : s.dev.coreRuns = true) :
        ((s.dev.chan n.val).field.st = .supply → (s.dev.chan n.val).field.boundary = true → s.dev.rd (CH_TX_RAMP_RAMP_ON n.val) ≠ 0 → Completes (.supplySettled n) s fun d =>
          (d.chan n.val).field.st = .rampUp ∧ (d.chan n.val).field.settled = true ∧
          s.dev.Keeps [.regs, .chans, .out] [.one (CH_TX_STATUS_HEADROOM n.val).bit, .one (CH_TX_STATUS_HEADROOM_SEEN n.val).bit] d) ∧
        ((s.dev.chan n.val).field.st = .supply → (s.dev.chan n.val).field.boundary = true → s.dev.rd (CH_TX_RAMP_RAMP_ON n.val) = 0 →
          s.dev.rd (CH_TX_GUARD_GUARD n.val) ≠ 0 → (s.dev.chan n.val).job = none → (s.dev.chan n.val).exch = none → Completes (.supplySettled n) s fun d =>
          (d.chan n.val).field.st = .on ∧ (d.chan n.val).field.guard = false ∧
          s.dev.Keeps [.regs, .chans, .out] [.one (CH_TX_STATUS_HEADROOM n.val).bit, .one (CH_TX_STATUS_HEADROOM_SEEN n.val).bit] d) ∧
        ((s.dev.chan n.val).field.st = .supply → (s.dev.chan n.val).field.boundary = false → Completes (.supplySettled n) s fun d =>
          (d.chan n.val).field.st = .supply ∧ (d.chan n.val).field.settled = true ∧ d.regs = s.dev.regs ∧ d.mem = s.dev.mem) ∧
        ((s.dev.chan n.val).field.st = .rampUp → (s.dev.chan n.val).field.guard = false → s.dev.rd (CH_TX_GUARD_GUARD n.val) ≠ 0 → (s.dev.chan n.val).job = none →
          (s.dev.chan n.val).exch = none →
          Completes (.rampUpDone n) s fun d => (d.chan n.val).field.st = .on ∧ d.regs = s.dev.regs ∧ d.mem = s.dev.mem) ∧
        ((s.dev.chan n.val).field.st = .resetOff → (s.dev.grantNow n.val).isSome = true → s.dev.rd (CH_TX_RAMP_RAMP_ON n.val) ≠ 0 → Completes (.rfResetOffExpiry n) s fun d =>
          (d.chan n.val).field.st = .rampUp ∧ (d.chan n.val).field.guard = false ∧
          s.dev.Keeps [.regs, .chans, .out] [.one (CH_TX_STATUS_HEADROOM n.val).bit, .one (CH_TX_STATUS_HEADROOM_SEEN n.val).bit] d) := by
  have ro : ∀ (y : Dev) (f : FieldSt → FieldSt), (rampUp n.val (y.modField n.val f)).rd (CH_TX_RAMP_RAMP_ON n.val) = y.rd (CH_TX_RAMP_RAMP_ON n.val) := fun y f =>
    (rampUp_rd n _ ((by decide : ∀ q : Fin 24, (CH_TX_RAMP_RAMP_ON q.val).bit ≠ (CH_TX_STATUS_HEADROOM q.val).bit) n) ((by decide : ∀ q : Fin 24, (CH_TX_RAMP_RAMP_ON q.val).bit ≠ (CH_TX_STATUS_HEADROOM_SEEN q.val).bit) n)).trans rfl
  have out : ∀ d : Dev, Changes [.regs, .chans, .out] [.one (CH_TX_STATUS_HEADROOM n.val).bit, .one (CH_TX_STATUS_HEADROOM_SEEN n.val).bit] { s.dev with out := [] } d →
      s.dev.Keeps [.regs, .chans, .out] [.one (CH_TX_STATUS_HEADROOM n.val).bit, .one (CH_TX_STATUS_HEADROOM_SEEN n.val).bit] d := fun d k =>
    Changes.keeps ((set_out_after (Changes.refl _ _ _) (by decide)).trans k)
  refine ⟨fun a b c => ?_, fun a b c e j x => ?_, fun a b => ?_, fun a b c e x => Completes.of (rampUpDone n.val) rfl (rampUpDone_eff n { s.dev with out := [] } hc a b c e x),
    fun a b c => ?_⟩
  · refine Completes.of (fun d => rampInOne n.val (supplySettled n.val d)) rfl ?_
    have r := supplySettled_eff n { s.dev with out := [] } hc a b
    dsimp only
    rw [inOne_not n.val _ fun _ => by rw [supplySettled_to n { s.dev with out := [] } hc a b, ro]; exact c]
    exact ⟨r.1, r.2.1, out _ r.2.2⟩
  · refine Completes.of (fun d => rampInOne n.val (supplySettled n.val d)) rfl ?_
    have r := supplySettled_eff n { s.dev with out := [] } hc a b
    have w := rampUp_eff n (({ s.dev with out := [] } : Dev).modField n.val fun f => { f with settled := true })
    have k := chan_modChan n (fun c => { c with field := { c.field with settled := true } }) { s.dev with out := [] }
    have z := supplySettled_to n { s.dev with out := [] } hc a b
    have g0 := (rampUp_rd n (({ s.dev with out := [] } : Dev).modField n.val fun f => { f with settled := true }) (f := CH_TX_GUARD_GUARD n.val) ((by decide : ∀ q : Fin 24, (CH_TX_GUARD_GUARD q.val).bit ≠ (CH_TX_STATUS_HEADROOM q.val).bit) n) ((by decide : ∀ q : Fin 24, (CH_TX_GUARD_GUARD q.val).bit ≠ (CH_TX_STATUS_HEADROOM_SEEN q.val).bit) n))
    have one : rampInOne n.val (supplySettled n.val { s.dev with out := [] }) = rampUpDone n.val (supplySettled n.val { s.dev with out := [] }) := by
      unfold rampInOne
      rw [r.1, z, ro, show ({ s.dev with out := [] } : Dev).rd (CH_TX_RAMP_RAMP_ON n.val) = 0 from c]; rfl
    have run : (supplySettled n.val { s.dev with out := [] }).coreRuns = true := by rw [z, rampUp_runs]; exact hc
    have g1 : ((supplySettled n.val { s.dev with out := [] }).chan n.val).field.guard = false := by rw [z]; exact w.2.1
    have g2 : (supplySettled n.val { s.dev with out := [] }).rd (CH_TX_GUARD_GUARD n.val) ≠ 0 := by rw [z, g0]; exact e
    have g3 : ((supplySettled n.val { s.dev with out := [] }).chan n.val).job = none := by rw [z, w.2.2.2.1]; exact (congrArg Chan.job k).trans j
    have g4 : ((supplySettled n.val { s.dev with out := [] }).chan n.val).exch = none := by rw [z, w.2.2.2.2.1]; exact (congrArg Chan.exch k).trans x
    dsimp only
    rw [one]
    have kk := r.2.2
    have st := r.1
    generalize supplySettled n.val { s.dev with out := [] } = y at run g1 g2 g3 g4 kk st ⊢
    rw [rampUpDone_to n y run st g1 g2 g3 g4]
    have q := field_modField n (fun f => { f with st := .on }) y
    exact ⟨congrArg FieldSt.st q, (congrArg FieldSt.guard q).trans g1, out _ (kk.trans (modField_keeps _ _ _ _))⟩
  · refine Completes.of (fun d => rampInOne n.val (supplySettled n.val d)) rfl ?_
    have r := supplyWaits_eff n { s.dev with out := [] } hc a b
    dsimp only
    rw [inOne_not n.val _ fun h => by rw [r.1] at h; exact absurd h (by decide)]
    exact r
  · refine Completes.of (fun d => rampInOne n.val (rfResetOffExpiry n.val d)) rfl ?_
    have r := rfResetOff_eff n { s.dev with out := [] } hc a b
    have e : (rfResetOffExpiry n.val { s.dev with out := [] }).rd (CH_TX_RAMP_RAMP_ON n.val) = s.dev.rd (CH_TX_RAMP_RAMP_ON n.val) := by
      refine r.2.2.rd ?_
      rintro ⟨x, hx, hy⟩
      rcases List.mem_cons.1 hx with g | g
      · subst g; exact ((by decide : ∀ q : Fin 24, (CH_TX_RAMP_RAMP_ON q.val).bit ≠ (CH_TX_STATUS_HEADROOM q.val).bit) n) hy
      · rw [List.mem_singleton] at g; subst g; exact ((by decide : ∀ q : Fin 24, (CH_TX_RAMP_RAMP_ON q.val).bit ≠ (CH_TX_STATUS_HEADROOM_SEEN q.val).bit) n) hy
    dsimp only
    rw [inOne_not n.val _ fun _ => by rw [e]; exact c]
    exact ⟨r.1, r.2.1, out _ r.2.2⟩

theorem fieldEnd_row (s : State) (n : Fin 24) (hc : s.dev.coreRuns = true) (g : Grant) (fr : RxFrame) (hg : s.dev.fieldGrant n.val = some g) (ho : g.isOpen = false)
    (he : g.start + g.slots ≤ s.dev.nextBoundary) (h : (s.dev.chan n.val).field.st = .on) (hr : s.dev.rd (CH_TX_RAMP_RAMP_OFF n.val) ≠ 0) :
    Completes (.fieldEndPoint n fr) s fun d => (d.chan n.val).field.st = .rampDown ∧ d.mem = s.dev.mem := by
  refine Completes.of (fun d => rampInOne n.val (fieldEndPoint n.val fr d)) rfl ?_
  have r := fieldEndPoint_eff n fr { s.dev with out := [] } g hc hg ho he h hr
  dsimp only
  rw [inOne_not n.val _ fun c => by rw [r.1] at c; exact absurd c (by decide)]
  exact r

theorem inOne_mem (n : Nat) (d : Dev) : (rampInOne n d).mem = d.mem := (rampInOne_after (Changes.refl _ _ _) (within_refl _) (covers_refl _) n).parts .mem (by decide)

theorem grantEnd_row (s : State) (n : Fin 24) (g : Grant) (hg : s.dev.grantNow n.val = some g) (ho : g.isOpen = false) :
    Completes (.grantEnd n) s fun d =>
      d = rampInOne n.val (followListeners (endGrants (({ s.dev with out := [] } : Dev).reach ((g.start + g.slots) * 1000000)))) ∧ d.mem = s.dev.mem := by
  have e : exec (.grantEnd n) s = s.act (fun d => rampInOne n.val (grantEnd n.val d)) := rfl
  have r := grantEnd_eff n { s.dev with out := [] } g hg ho
  exact Completes.of _ e ⟨congrArg (rampInOne n.val) r.1, (inOne_mem _ _).trans r.2⟩

theorem offRows (s : State) (n : Fin 24) :
      Completes (.regulatorCurrentLimit n) s (fun d => d.bitOn PW_CHREG_FAULT_CH n.val = true ∧ d.chans = s.dev.chans ∧ d.mem = s.dev.mem) ∧
      (∀ c, c = decide (1023 * (s.dev.power.vrf.getD (n.val / 4) 0 - 800) < 6200 * s.dev.rd (CH_TX_STATUS_ACTIVE_CODE n.val)) →
        (s.dev.chan n.val).field.lit = true → Completes (.regulatorDropout n) s fun d =>
        d.rd (CH_TX_STATUS_HEADROOM n.val) = b2n c ∧ (c = true → d.rd (CH_TX_STATUS_HEADROOM_SEEN n.val) = 1) ∧ d.chans = s.dev.chans ∧ d.mem = s.dev.mem) ∧
      ((s.dev.chan n.val).field.lit = false → Completes (.regulatorDropout n) s fun d =>
        d.rd (CH_TX_STATUS_HEADROOM n.val) = 0 ∧ d.chans = s.dev.chans ∧ d.mem = s.dev.mem) ∧
      ((s.dev.chan n.val).field.st = .rampDown → (s.dev.chan n.val).field.next = none → Completes (.rampDownDone n) s fun d =>
        (d.chan n.val).field.st = .off ∧ (d.chan n.val).field.offAt = some s.dev.ns ∧
        s.dev.Keeps [.regs, .chans, .out] [.one (CH_TX_STATUS_HEADROOM n.val).bit] d ∧ d.rd (CH_TX_STATUS_HEADROOM n.val) = 0) ∧
      ((s.dev.chan n.val).field.st = .resetDown → (s.dev.chan n.val).field.thenOff = false → Completes (.rampDownDone n) s fun d =>
        (d.chan n.val).field.st = .resetOff ∧ (d.chan n.val).field.offAt = some s.dev.ns ∧
        s.dev.Keeps [.regs, .chans, .out] [.one (CH_TX_STATUS_HEADROOM n.val).bit] d ∧ d.rd (CH_TX_STATUS_HEADROOM n.val) = 0) := by
  have out : ∀ d : Dev, ({ s.dev with out := [] } : Dev).Keeps [.regs, .chans, .out] [.one (CH_TX_STATUS_HEADROOM n.val).bit] d →
      s.dev.Keeps [.regs, .chans, .out] [.one (CH_TX_STATUS_HEADROOM n.val).bit] d := fun d k =>
    ⟨fun c hc => by have := k.1 c hc; cases c <;> first | exact this | exact absurd (by decide) hc, k.2⟩
  refine ⟨Completes.of (currentLimit n.val) rfl (currentLimit_eff n { s.dev with out := [] }),
   fun c hc h => Completes.of (headroom n.val) rfl (headroom_eff n c { s.dev with out := [] } hc h),
   fun h => Completes.of (headroom n.val) rfl (headroom_dark n { s.dev with out := [] } h), fun a b => ?_, fun a b => ?_⟩
  · refine Completes.of (fun d => rampInOne n.val (rampDownDone n.val d)) rfl ?_
    have r := rampDown_off n { s.dev with out := [] } a b
    dsimp only
    rw [inOne_not n.val _ fun h => by rw [r.1] at h; exact absurd h (by decide)]
    exact ⟨r.1, r.2.1, out _ r.2.2.1, r.2.2.2⟩
  · refine Completes.of (fun d => rampInOne n.val (rampDownDone n.val d)) rfl ?_
    have r := rampDown_reset n { s.dev with out := [] } a b
    dsimp only
    rw [inOne_not n.val _ fun h => by rw [r.1] at h; exact absurd h (by decide)]
    exact ⟨r.1, r.2.1, out _ r.2.2.1, r.2.2.2⟩

theorem selectFrame_row (s : State) (g : Fin 6) (ha : s.dev.applied = true) (lead m : Nat) (e : Dev) (hl : lead = s.dev.rd (CH_SEL_CFG_LEAD (4 * g.val)))
    (hm : m = s.dev.boundaryAfterLead lead) (he : e = ({ s.dev with out := [] } : Dev).reach (m * 1000000 - lead * 1000)) (hf : e.frameDue g.val m = true) :
    Completes (.selectFrame g) s fun d =>
        d = ({ e with ts := { e.ts with selInit := e.ts.selInit.filter (·.1 ≠ g.val) } } : Dev).each (upTo 4) (fun j => selectOne (e.ts.selInit.contains (g.val, m)) (4 * 2 ^ e.rd (CH_SEL_CFG_SELDIV (4 * g.val))) m (4 * g.val + j)) ∧
        (∀ x ∈ d.ts.selInit, x.1 ≠ g.val) ∧ d.mem = s.dev.mem := by
  have x : exec (.selectFrame g) s = s.act (selectFrame g.val) := rfl
  exact Completes.of _ x (selectFrame_eff g.val { s.dev with out := [] } e lead m ha hl hm he hf)

theorem confirmation_row (s : State) (hc : s.dev.coreRuns = true) (m : Nat) (e : Dev) (hm : m = s.dev.boundaryAfterLead 150)
    (he : e = ({ s.dev with out := [] } : Dev).reach (m * 1000000 - 150000)) (hg : e.grantsAllowed = true) (hs : e.surveying = false) :
    Completes .confirmationPoint s fun d =>
        d = ((e.ts.reqs.filter fun r => match r.owner with | .emulation _ => true | _ => false) ++
             (e.ts.reqs.filter fun r => match r.owner with | .emulation _ => false | _ => true)).foldl (consider m) e ∧ d.mem = s.dev.mem := by
  have x : exec .confirmationPoint s = s.act confirmationPoint := rfl
  exact Completes.of _ x (confirmation_eff { s.dev with out := [] } e m hc hm he hg hs)

end Sys2Proof.Machine
end

