-- ==== Sys2Proof/Laws/EffectsReceiver.lean ====
section
/-!
SUPPORT. What the operations of Machine/Receiver do.
-/

set_option Elab.async false
set_option linter.all false

namespace Sys2Proof.Machine

theorem rx_modRx (n : Fin 24) (g : RxSt → RxSt) (d : Dev) : ((d.modRx n.val g).chan n.val).rx = g (d.chan n.val).rx := congrArg Chan.rx (chan_modChan n _ d)
theorem chan_of {d e : Dev} (h : e.chans = d.chans) (n : Nat) : e.chan n = d.chan n := by unfold Dev.chan; rw [h]
theorem kick_chans (n : Nat) (d : Dev) : (kick n d).chans = d.chans := ((kick_after (Changes.refl _ _ _) (within_refl _) (covers_refl _) n).parts .chans (by decide))
theorem seq_rd (n : Fin 24) (v : Nat) (d : Dev) (h : v < 16) : (d.seq n.val v).rd (CH_FT_STATUS_SEQ n.val) = v := (Dev.rd_wr_same d (CH_FT_STATUS_SEQ n.val) v).trans (Nat.mod_eq_of_lt h)
theorem arm_seq (n : Fin 24) (d : Dev) : (arm n.val d).rd (CH_FT_STATUS_SEQ n.val) = d.rd (CH_FT_STATUS_SEQ n.val) := ((arm_after (Changes.refl _ _ _) (within_refl _) (covers_refl _) n.val).rd (rows_not ((by decide +kernel : ∀ q : Fin 24, List.all _ (Span.misses (CH_FT_STATUS_SEQ q.val).bit) = true) n)))
theorem arm_armed (n : Fin 24) (d : Dev) : ((arm n.val d).chan n.val).rx.armed = true := by
  have k := congrArg RxSt.armed (rx_modRx n (fun r => { r with armed := true, held := none }) d)
  unfold arm
  dsimp only
  split <;> exact k

theorem guardExpiry_eff (n : Fin 24) (d : Dev) (hc : d.coreRuns = true) (h : (d.chan n.val).field.st = .rampUp) (hg : (d.chan n.val).field.guard = false) :
    ((guardExpiry n.val d).chan n.val).field.guard = true ∧ ((guardExpiry n.val d).chan n.val).nextRef = 3 ∧ (guardExpiry n.val d).regs = d.regs ∧ (guardExpiry n.val d).mem = d.mem := by
  have k := field_modField n (fun f => { f with guard := true }) d
  have k2 := chan_modChan n (fun c => { c with nextRef := 3, exch := c.exch.map fun e => if e.sent then e else { e with ref := 3 } }) (d.modField n.val fun f => { f with guard := true })
  have e : guardExpiry n.val d = (d.modField n.val fun f => { f with guard := true }).modChan n.val fun c =>
      { c with nextRef := 3, exch := c.exch.map fun e => if e.sent then e else { e with ref := 3 } } := by
    unfold guardExpiry
    dsimp only
    rw [hc, hg, h]
    simp only [Bool.not_true, Bool.false_or, ne_eq, reduceCtorEq, not_false_eq_true, decide_true, not_true_eq_false, decide_false, Bool.and_false, Bool.false_eq_true, if_false]
    unfold fieldReady
    dsimp only
    rw [k2]
    dsimp only
    rw [k, h]
    rfl
  rw [e]
  refine ⟨?_, congrArg Chan.nextRef k2, rfl, rfl⟩
  rw [k2]
  exact congrArg FieldSt.guard k

/-- What starts a frame does before the frame is in TX (R164, R178, R194). -/
def txNoted (n : Nat) (late : Option Nat) (e : Exch) (d : Dev) : Dev :=
  let at_ := d.placedAt n e (late.getD 0)
  let oct := d.csOctant n e (late.getD 0)
  let d := firstCs n oct (flushTag n d)
  let d := match late with
    | some _ => (d.raise (CH_FT_STATUS_LATE_SEEN n)).countSat (CH_FT_STATS_LATE n) 1
    | none => d
  (d.modChan n fun c => { c with exch := c.exch.map fun e => { e with sent := true, late := late.isSome, lateOct := late.getD 0, csOct := oct,
                                                                      placed := at_, air := e.frame.air } }).seq n 3

theorem startTx_noted (n : Nat) (late : Option Nat) (e : Exch) (d : Dev) :
    startTx n late e d = if e.frame.cls = .none then txNoted n late e d else arm n (txNoted n late e d) := rfl

theorem txNoted_seq (n : Fin 24) (late : Option Nat) (e : Exch) (d : Dev) : (txNoted n.val late e d).rd (CH_FT_STATUS_SEQ n.val) = 3 := seq_rd n 3 _ (by decide)

theorem startTx_eff (n : Fin 24) (late : Option Nat) (e : Exch) (d : Dev) :
    (startTx n.val late e d).rd (CH_FT_STATUS_SEQ n.val) = 3 ∧ (e.frame.cls ≠ .none → ((startTx n.val late e d).chan n.val).rx.armed = true) := by
  rw [startTx_noted]
  refine ⟨?_, fun h => ?_⟩
  · split
    · exact txNoted_seq n late e d
    · rw [arm_seq, txNoted_seq]
  · rw [if_neg h]; exact arm_armed n _

theorem startTx_late (n : Fin 24) (lo : Nat) (e : Exch) (d : Dev) : (startTx n.val (some lo) e d).rd (CH_FT_STATUS_LATE_SEEN n.val) = 1 := by
  have k : (txNoted n.val (some lo) e d).rd (CH_FT_STATUS_LATE_SEEN n.val) = 1 := by
    unfold txNoted
    dsimp only
    exact (Dev.rd_wr_ne _ _ ((by decide : ∀ q : Fin 24, (CH_FT_STATUS_LATE_SEEN q.val).bit ≠ (CH_FT_STATUS_SEQ q.val).bit) n)).trans ((modChan_rd _ _ _ _).trans ((Dev.rd_countSat_ne _ _ ((by decide : ∀ q : Fin 24, (CH_FT_STATUS_LATE_SEEN q.val).bit ≠ (CH_FT_STATS_LATE q.val).bit) n)).trans
      (Dev.rd_raise_same _ (CH_FT_STATUS_LATE_SEEN n.val))))
  rw [startTx_noted]
  split
  · exact k
  · exact (((arm_after (Changes.refl _ _ _) (within_refl _) (covers_refl _) n.val).rd (rows_not ((by decide +kernel : ∀ q : Fin 24, List.all _ (Span.misses (CH_FT_STATUS_LATE_SEEN q.val).bit) = true) n)))).trans k

theorem placementPoint_eff (n : Fin 24) (ready : Bool) (d : Dev) (e : Exch) (hc : d.coreRuns = true) (he : (d.chan n.val).exch = some e) (hl : lostSession (d.chan n.val) = none)
    (hs : d.rd (CH_FT_STATUS_SEQ n.val) = 2) (h : e.late = false) (hr : (ready || !(d.chan n.val).mayBeLate e) = true) : placementPoint n.val ready true d = startTx n.val none e d := by
  unfold placementPoint
  rw [he]
  dsimp only
  rw [hc, hs, h, hl]
  dsimp only
  have k : (!ready && (d.chan n.val).mayBeLate e) = false := by
    cases ready
    · cases hm : (d.chan n.val).mayBeLate e
      · rfl
      · rw [hm] at hr; exact absurd hr (by decide)
    · rfl
  rw [k]; rfl

theorem placementPoint_late (n : Fin 24) (fits : Bool) (d : Dev) (e : Exch) (hc : d.coreRuns = true) (he : (d.chan n.val).exch = some e) (hl : lostSession (d.chan n.val) = none)
    (hs : d.rd (CH_FT_STATUS_SEQ n.val) = 2) (h : e.late = false) (hr : (d.chan n.val).mayBeLate e = true) :
    ((placementPoint n.val false fits d).chan n.val).exch = some { e with late := true } ∧ (placementPoint n.val false fits d).regs = d.regs ∧ (placementPoint n.val false fits d).mem = d.mem := by
  have k : placementPoint n.val false fits d = d.modChan n.val fun c => { c with exch := c.exch.map fun e => { e with late := true } } := by
    unfold placementPoint
    rw [he]
    dsimp only
    rw [hc, hs, h, hl]
    dsimp only
    rw [hr]; rfl
  rw [k]
  refine ⟨?_, rfl, rfl⟩
  rw [chan_modChan n _ d, he]; rfl

theorem frameReady_eff (n : Fin 24) (lo : Nat) (d : Dev) (e : Exch) (hc : d.coreRuns = true) (he : (d.chan n.val).exch = some e) (hl : lostSession (d.chan n.val) = none)
    (hs : d.rd (CH_FT_STATUS_SEQ n.val) = 2) (h : e.late = true) : frameReady n.val lo true d = startTx n.val (some lo) e d := by
  unfold frameReady
  rw [he]
  dsimp only
  rw [hc, hs, h, hl]
  rfl

/-- CE sets the deadline. -/
def deadlined (n : Nat) (dl : Option Nat) (d : Dev) : Dev := (d.modChan n fun c => { c with exch := c.exch.map fun e => { e with deadline := dl } }).seq n 4

theorem deadlined_eff (n : Fin 24) (dl : Option Nat) (d : Dev) (e : Exch) (he : (d.chan n.val).exch = some e) :
    (deadlined n.val dl d).rd (CH_FT_STATUS_SEQ n.val) = 4 ∧ ((deadlined n.val dl d).chan n.val).exch = some { e with deadline := dl } ∧ (deadlined n.val dl d).mem = d.mem := by
  refine ⟨seq_rd n 4 _ (by decide), ?_, rfl⟩
  refine (congrArg Chan.exch (chan_modChan n (fun c => { c with exch := c.exch.map fun e => { e with deadline := dl } }) d)).trans ?_
  rw [he]; rfl

theorem commandEnd_to (n : Fin 24) (d : Dev) (e : Exch) (hc : d.coreRuns = true) (he : (d.chan n.val).exch = some e) (hs : d.rd (CH_FT_STATUS_SEQ n.val) = 3) (hw : e.withdrawn = false)
    (h : e.frame.cls ≠ .none) :
    commandEnd n.val d = (if e.frame.cls = .fOther then deadlined n.val (deadlineOct e.frame (d.free.2.rd (CH_FT_WIN_LATE_TOL n.val)) (d.free.2.fwiOf n.val e.ctx) d.free.1) d.free.2
      else deadlined n.val (deadlineOct e.frame (d.rd (CH_FT_WIN_LATE_TOL n.val)) (d.fwiOf n.val e.ctx) e.wtxm) d) := by
  unfold commandEnd
  dsimp only
  rw [he]
  dsimp only
  rw [hc, hs, hw]
  simp only [Bool.not_true, ne_eq, not_true_eq_false, decide_false, Bool.or_false, Bool.false_eq_true, if_false, if_neg h]
  split <;> rfl

theorem free_chan (d : Dev) (n : Nat) : d.free.2.chan n = d.chan n := rfl
theorem free_fwi (d : Dev) (n k : Nat) : d.free.2.fwiOf n k = d.fwiOf n k := rfl

theorem commandEnd_eff (n : Fin 24) (d : Dev) (e : Exch) (hc : d.coreRuns = true) (he : (d.chan n.val).exch = some e) (hs : d.rd (CH_FT_STATUS_SEQ n.val) = 3) (hw : e.withdrawn = false)
    (h : e.frame.cls ≠ .none) (ho : e.frame.cls ≠ .fOther) :
    (commandEnd n.val d).rd (CH_FT_STATUS_SEQ n.val) = 4 ∧
    ((commandEnd n.val d).chan n.val).exch = some { e with deadline := deadlineOct e.frame (d.rd (CH_FT_WIN_LATE_TOL n.val)) (d.fwiOf n.val e.ctx) e.wtxm } ∧ (commandEnd n.val d).mem = d.mem := by
  rw [commandEnd_to n d e hc he hs hw h, if_neg ho]
  exact deadlined_eff n _ d e he

theorem commandEnd_other (n : Fin 24) (d : Dev) (e : Exch) (hc : d.coreRuns = true) (he : (d.chan n.val).exch = some e) (hs : d.rd (CH_FT_STATUS_SEQ n.val) = 3) (hw : e.withdrawn = false)
    (ho : e.frame.cls = .fOther) :
    (commandEnd n.val d).rd (CH_FT_STATUS_SEQ n.val) = 4 ∧
    (∃ t, ((commandEnd n.val d).chan n.val).exch = some { e with deadline := deadlineOct e.frame (d.rd (CH_FT_WIN_LATE_TOL n.val)) (d.fwiOf n.val e.ctx) t }) ∧ (commandEnd n.val d).mem = d.mem := by
  rw [commandEnd_to n d e hc he hs hw (by rw [ho]; decide), if_pos ho]
  obtain ⟨a, b, c⟩ := deadlined_eff n (deadlineOct e.frame (d.free.2.rd (CH_FT_WIN_LATE_TOL n.val)) (d.free.2.fwiOf n.val e.ctx) d.free.1) d.free.2 e he
  exact ⟨a, ⟨d.free.1, b⟩, c⟩

/-- The records of a reply that never came (R168, R178, R204). -/
def unanswered (n : Nat) (e : Exch) (w : List Word) (d : Dev) : Dev :=
  let x := exchangeWord e false 0 false 0
  let d := ((d.wr (CH_FT_LAST_REF n) e.ref).wr (CH_FT_LAST_DELAY n) 0).wr (CH_FT_LASTX_WORD n) x.toNat
  pushRecord n (noReplyDescriptor ++ [w.headD 0, x] ++ noStamp) (d.countSat (CH_FT_STATS_TIMEOUT n) 1)

theorem unanswered_rd (n : Fin 24) (e : Exch) (w : List Word) (d : Dev) :
    (unanswered n.val e w d).rd (CH_FT_LAST_REF n.val) = e.ref % 4 ∧ (unanswered n.val e w d).rd (CH_FT_LAST_DELAY n.val) = 0 ∧
    (unanswered n.val e w d).rd (CH_FT_LASTX_WORD n.val) = (exchangeWord e false 0 false 0).toNat := by
  unfold unanswered
  dsimp only
  generalize hx : (exchangeWord e false 0 false 0).toNat = x
  have hl : x < 2 ^ 32 := hx ▸ BitVec.isLt _
  generalize (noReplyDescriptor ++ [w.headD 0, exchangeWord e false 0 false 0] ++ noStamp) = rec_
  have p : ∀ (F : Fld) (y : Dev), (pushRecord n.val rec_ y).rd F = y.rd F := fun _ _ => rfl
  refine ⟨?_, ?_, ?_⟩
  · exact (p _ _).trans ((Dev.rd_wr_ne _ _ ((by decide : ∀ q : Fin 24, (CH_FT_LAST_REF q.val).bit ≠ (CH_FT_STATS_TIMEOUT q.val).bit) n)).trans ((Dev.rd_wr_ne _ _ ((by decide : ∀ q : Fin 24, (CH_FT_LAST_REF q.val).bit ≠ (CH_FT_LASTX_WORD q.val).bit) n)).trans ((Dev.rd_wr_ne _ _ ((by decide : ∀ q : Fin 24, (CH_FT_LAST_REF q.val).bit ≠ (CH_FT_LAST_DELAY q.val).bit) n)).trans (Dev.rd_wr_same d (CH_FT_LAST_REF n.val) _))))
  · exact (p _ _).trans ((Dev.rd_wr_ne _ _ ((by decide : ∀ q : Fin 24, (CH_FT_LAST_DELAY q.val).bit ≠ (CH_FT_STATS_TIMEOUT q.val).bit) n)).trans ((Dev.rd_wr_ne _ _ ((by decide : ∀ q : Fin 24, (CH_FT_LAST_DELAY q.val).bit ≠ (CH_FT_LASTX_WORD q.val).bit) n)).trans (Dev.rd_wr_same _ (CH_FT_LAST_DELAY n.val) _)))
  · exact (p _ _).trans ((Dev.rd_wr_ne _ _ ((by decide : ∀ q : Fin 24, (CH_FT_LASTX_WORD q.val).bit ≠ (CH_FT_STATS_TIMEOUT q.val).bit) n)).trans ((Dev.rd_wr_same _ (CH_FT_LASTX_WORD n.val) _).trans (Nat.mod_eq_of_lt hl)))

theorem onReply_last (n : Fin 24) (p : Option (Parsed × List Word)) (d : Dev) :
    (onReply n.val p d).rd (CH_FT_LAST_REF n.val) = d.rd (CH_FT_LAST_REF n.val) ∧ (onReply n.val p d).rd (CH_FT_LAST_DELAY n.val) = d.rd (CH_FT_LAST_DELAY n.val) ∧
    (onReply n.val p d).rd (CH_FT_LASTX_WORD n.val) = d.rd (CH_FT_LASTX_WORD n.val) ∧ (onReply n.val p d).rd (CH_RX_FRAMES_COUNT n.val) = d.rd (CH_RX_FRAMES_COUNT n.val) :=
  ⟨((onReply_after (Changes.refl _ _ _) (within_refl _) (covers_refl _) n.val p).rd (rows_not ((by decide +kernel : ∀ q : Fin 24, List.all _ (Span.misses (CH_FT_LAST_REF q.val).bit) = true) n))), ((onReply_after (Changes.refl _ _ _) (within_refl _) (covers_refl _) n.val p).rd (rows_not ((by decide +kernel : ∀ q : Fin 24, List.all _ (Span.misses (CH_FT_LAST_DELAY q.val).bit) = true) n))), ((onReply_after (Changes.refl _ _ _) (within_refl _) (covers_refl _) n.val p).rd (rows_not ((by decide +kernel : ∀ q : Fin 24, List.all _ (Span.misses (CH_FT_LASTX_WORD q.val).bit) = true) n))), ((onReply_after (Changes.refl _ _ _) (within_refl _) (covers_refl _) n.val p).rd (rows_not ((by decide +kernel : ∀ q : Fin 24, List.all _ (Span.misses (CH_RX_FRAMES_COUNT q.val).bit) = true) n)))⟩

theorem replyDeadline_eff (n : Fin 24) (d : Dev) (e : Exch) (hc : d.coreRuns = true) (he : (d.chan n.val).exch = some e) (hs : d.rd (CH_FT_STATUS_SEQ n.val) = 4)
    (hr : d.rd (CH_RX_STATUS_STATE n.val) = 1) (hh : (d.chan n.val).heard = false) (hf : e.eofDue = false) :
    (replyDeadline n.val d).rd (CH_FT_LAST_REF n.val) = e.ref % 4 ∧ (replyDeadline n.val d).rd (CH_FT_LAST_DELAY n.val) = 0 ∧
    (replyDeadline n.val d).rd (CH_FT_LASTX_WORD n.val) = (exchangeWord e false 0 false 0).toNat ∧ (replyDeadline n.val d).mem = d.mem := by
  have hm : (replyDeadline n.val d).mem = d.mem := ((replyDeadline_after (Changes.refl _ _ _) (within_refl _) (covers_refl _) n.val).parts .mem (by decide))
  obtain ⟨w, y, k⟩ : ∃ w y, replyDeadline n.val d = onReply n.val none (unanswered n.val e w y) := by
    unfold replyDeadline
    dsimp only
    rw [he]
    dsimp only
    rw [hc, hs, hr, hh, hf]
    exact ⟨_, _, rfl⟩
  obtain ⟨a, b, c⟩ := unanswered_rd n e w y
  obtain ⟨a', b', c', _⟩ := onReply_last n none (unanswered n.val e w y)
  rw [k] at hm ⊢
  exact ⟨a'.trans a, b'.trans b, c'.trans c, hm⟩

/-- A write-alternative request goes on with its EOF (R167). -/
theorem replyDeadline_eof (n : Fin 24) (d : Dev) (e : Exch) (hc : d.coreRuns = true) (he : (d.chan n.val).exch = some e) (hs : d.rd (CH_FT_STATUS_SEQ n.val) = 4)
    (hr : d.rd (CH_RX_STATUS_STATE n.val) = 1) (hh : (d.chan n.val).heard = false) (hf : e.eofDue = true) :
    ((replyDeadline n.val d).chan n.val).exch = some { e with frame := fEof, ref := 1, sent := false, late := false, lateOct := 0, deadline := none } ∧
    ((replyDeadline n.val d).chan n.val).nextRef = 1 ∧ (replyDeadline n.val d).mem = d.mem := by
  have hm : (replyDeadline n.val d).mem = d.mem := ((replyDeadline_after (Changes.refl _ _ _) (within_refl _) (covers_refl _) n.val).parts .mem (by decide))
  obtain ⟨y, hy, k⟩ : ∃ y : Dev, (y.chan n.val).exch = some e ∧ replyDeadline n.val d = relaunch n.val fEof id (y.modChan n.val fun c => { c with nextRef := 1, refOct := e.csOct }) := by
    refine ⟨disarm n.val emptyFrame d, ?_, ?_⟩
    · have q := congrArg Chan.exch (chan_modChan n (fun c => { c with rx := { c.rx with armed := false, held := none } }) d)
      unfold disarm
      dsimp only
      rw [hr]
      exact q.trans he
    · unfold replyDeadline
      dsimp only
      rw [he]
      dsimp only
      rw [hc, hs, hr, hh, hf]
      rfl
  have q := chan_modChan n (fun c => { c with nextRef := 1, refOct := e.csOct }) y
  have r := chan_modChan n (fun c => { c with exch := c.exch.map fun e => id { e with frame := fEof, ref := c.nextRef, sent := false, late := false, lateOct := 0, deadline := none } }) (y.modChan n.val fun c => { c with nextRef := 1, refOct := e.csOct })
  have z : (relaunch n.val fEof id (y.modChan n.val fun c => { c with nextRef := 1, refOct := e.csOct })).chan n.val = _ := (chan_of (kick_chans _ _) _).trans r
  refine ⟨?_, ?_, hm⟩
  · rw [k, z, q]; dsimp only; rw [hy]; rfl
  · rw [k, z, q]

/-- The verdict before the sequencer acts (R153, R154, R169). -/
def counted (n : Nat) (c : Chan) (fr : RxFrame) (p : Parsed) (v : Bool) (d : Dev) : Dev :=
  let d := (d.modChan n fun c => { c with clean := p.flags.isEmpty }).count (CH_RX_FRAMES_COUNT n) 1
  let d := if p.crcChecked && !p.crcOk then d.countSat (CH_STATS_CRC_ERR n) 1 else d
  updateSeed n (c.rx.eqUsed && p.crcOk && !v) fr d

/-- The timing of the reply to exchange `e` (R174, R178). -/
def timed2 (n : Nat) (e : Exch) (delay lx : Nat) (d : Dev) : Dev :=
  ((d.wr (CH_FT_LAST_REF n) e.ref).wr (CH_FT_LAST_DELAY n) (min delay 0x3FFFFFFF)).wr (CH_FT_LASTX_WORD n) lx

/-- What follows: the reply record, and what the Pontoon does next (R174). -/
def answeredBy (n oct : Nat) (x : Word) (p : Parsed) (rec_ : List Word) (polling : Bool) (d : Dev) : Dev :=
  let d := countDev n x d
  let d := d.raiseIf p.fmtErr (CH_FT_STATUS_FMT_SEEN n)
  let d := pushRecord n rec_ d
  if polling then leaveCheck n (onReply n (some (p, rec_)) (d.seq n 4))
  else leaveCheck n (onReply n (some (p, rec_)) (d.modChan n fun c => { c with nextRef := 0, refOct := c.rx.cur.oct, rx := { c.rx with armed := false } }))

/-- The verdict with the frame and the exchange that it is about. -/
def verdictOn (n : Nat) (d : Dev) (fr : RxFrame) (e : Exch) : Dev :=
  let c := d.chan n
  let x := expectation c.rx.sent fr.bits.length
  let proto := match c.rx.sent with
    | some f => f.proto
    | none => 1
  let p := parseReply proto x.1 x.2.1 x.2.2.1 x.2.2.2 fr (d.frameFlags n fr)
  let v := d.diverged n fr
  let d := counted n c fr p v d
  if d.rd (CH_FT_STATUS_SEQ n) ≠ 5 then leaveCheck n d
  else
    let w := exchWords (some e) fr.delay (d.rd (CH_FT_WIN_DEV_TOL n)) p.fmtErr p.fmtCount
    let lx := (w.getD 1 0).toNat
    let rec_ := descriptor 1 c.rx fr v p (d.untraced n) ++ w ++ c.rx.cur.stamp
    answeredBy n c.rx.cur.oct (w.getD 1 0) p rec_ (match e.frame.cls with | .fPoll _ => true | _ => false) (timed2 n e fr.delay lx d)

def verdictOpt (n : Nat) (d : Dev) (fo : Option RxFrame) (eo : Option Exch) : Dev :=
  match fo with
  | none => d
  | some fr =>
    if !d.coreRuns || d.rd (CH_RX_STATUS_STATE n) ≠ 5 then d
    else
      let c := d.chan n
      let x := expectation c.rx.sent fr.bits.length
      let proto := match c.rx.sent with
        | some f => f.proto
        | none => 1
      let p := parseReply proto x.1 x.2.1 x.2.2.1 x.2.2.2 fr (d.frameFlags n fr)
      let v := d.diverged n fr
      let d := counted n c fr p v d
      match eo with
      | none => leaveCheck n d
      | some e =>
        if d.rd (CH_FT_STATUS_SEQ n) ≠ 5 then leaveCheck n d
        else
          let w := exchWords (some e) fr.delay (d.rd (CH_FT_WIN_DEV_TOL n)) p.fmtErr p.fmtCount
          let lx := (w.getD 1 0).toNat
          let rec_ := descriptor 1 c.rx fr v p (d.untraced n) ++ w ++ c.rx.cur.stamp
          answeredBy n c.rx.cur.oct (w.getD 1 0) p rec_ (match e.frame.cls with | .fPoll _ => true | _ => false) (timed2 n e fr.delay lx d)

theorem verdict_opt (n : Nat) (d : Dev) : verdict n d = verdictOpt n d (d.chan n).rx.frame (d.chan n).exch := rfl

theorem verdict_on (n : Nat) (d : Dev) (fr : RxFrame) (e : Exch) (hf : (d.chan n).rx.frame = some fr) (he : (d.chan n).exch = some e) :
    verdict n d = if !d.coreRuns || d.rd (CH_RX_STATUS_STATE n) ≠ 5 then d else verdictOn n d fr e := by
  rw [verdict_opt, hf, he]; rfl

theorem updateSeed_rd (n : Fin 24) (g : Bool) (fr : RxFrame) (d : Dev) : (updateSeed n.val g fr d).rd (CH_RX_FRAMES_COUNT n.val) = d.rd (CH_RX_FRAMES_COUNT n.val) ∧
    (updateSeed n.val g fr d).rd (CH_FT_STATUS_SEQ n.val) = d.rd (CH_FT_STATUS_SEQ n.val) :=
  ⟨((updateSeed_after (Changes.refl _ _ _) (within_refl _) (covers_refl _) n.val g fr).rd (rows_not ((by decide +kernel : ∀ q : Fin 24, List.all _ (Span.misses (CH_RX_FRAMES_COUNT q.val).bit) = true) n))), ((updateSeed_after (Changes.refl _ _ _) (within_refl _) (covers_refl _) n.val g fr).rd (rows_not ((by decide +kernel : ∀ q : Fin 24, List.all _ (Span.misses (CH_FT_STATUS_SEQ q.val).bit) = true) n)))⟩

theorem counted_rd (n : Fin 24) (c : Chan) (fr : RxFrame) (p : Parsed) (v : Bool) (d : Dev) :
    (counted n.val c fr p v d).rd (CH_RX_FRAMES_COUNT n.val) = (d.rd (CH_RX_FRAMES_COUNT n.val) + 1) % 2 ^ 64 ∧
    (counted n.val c fr p v d).rd (CH_FT_STATUS_SEQ n.val) = d.rd (CH_FT_STATUS_SEQ n.val) := by
  unfold counted
  dsimp only
  obtain ⟨u1, u2⟩ := updateSeed_rd n (c.rx.eqUsed && p.crcOk && !v) fr
    (if (p.crcChecked && !p.crcOk) = true then ((d.modChan n.val fun c => { c with clean := p.flags.isEmpty }).count (CH_RX_FRAMES_COUNT n.val) 1).countSat (CH_STATS_CRC_ERR n.val) 1
     else (d.modChan n.val fun c => { c with clean := p.flags.isEmpty }).count (CH_RX_FRAMES_COUNT n.val) 1)
  have k : ((d.modChan n.val fun c => { c with clean := p.flags.isEmpty }).count (CH_RX_FRAMES_COUNT n.val) 1).rd (CH_RX_FRAMES_COUNT n.val) = (d.rd (CH_RX_FRAMES_COUNT n.val) + 1) % 2 ^ 64 :=
    Dev.rd_wr_same (d.modChan n.val fun c => { c with clean := p.flags.isEmpty }) (CH_RX_FRAMES_COUNT n.val) _
  have k2 : ((d.modChan n.val fun c => { c with clean := p.flags.isEmpty }).count (CH_RX_FRAMES_COUNT n.val) 1).rd (CH_FT_STATUS_SEQ n.val) = d.rd (CH_FT_STATUS_SEQ n.val) := Dev.rd_count_ne _ _ ((by decide : ∀ q : Fin 24, (CH_FT_STATUS_SEQ q.val).bit ≠ (CH_RX_FRAMES_COUNT q.val).bit) n)
  refine ⟨u1.trans ?_, u2.trans ?_⟩
  · split
    · exact (Dev.rd_countSat_ne _ _ ((by decide : ∀ q : Fin 24, (CH_RX_FRAMES_COUNT q.val).bit ≠ (CH_STATS_CRC_ERR q.val).bit) n)).trans k
    · exact k
  · split
    · exact (Dev.rd_countSat_ne _ _ ((by decide : ∀ q : Fin 24, (CH_FT_STATUS_SEQ q.val).bit ≠ (CH_STATS_CRC_ERR q.val).bit) n)).trans k2
    · exact k2

theorem timed2_rd (n : Fin 24) (e : Exch) (delay lx : Nat) (d : Dev) :
    (timed2 n.val e delay lx d).rd (CH_FT_LAST_REF n.val) = e.ref % 4 ∧ (timed2 n.val e delay lx d).rd (CH_FT_LAST_DELAY n.val) = min delay 0x3FFFFFFF ∧
    (timed2 n.val e delay lx d).rd (CH_RX_FRAMES_COUNT n.val) = d.rd (CH_RX_FRAMES_COUNT n.val) := by
  unfold timed2
  generalize hm : min delay 0x3FFFFFFF = m
  have hl : m < 2 ^ 30 := hm ▸ Nat.lt_of_le_of_lt (Nat.min_le_right _ _) (by decide)
  refine ⟨?_, ?_, ?_⟩
  · exact ((Dev.rd_wr_ne _ _ ((by decide : ∀ q : Fin 24, (CH_FT_LAST_REF q.val).bit ≠ (CH_FT_LASTX_WORD q.val).bit) n)).trans ((Dev.rd_wr_ne _ _ ((by decide : ∀ q : Fin 24, (CH_FT_LAST_REF q.val).bit ≠ (CH_FT_LAST_DELAY q.val).bit) n)).trans (Dev.rd_wr_same d (CH_FT_LAST_REF n.val) _)))
  · exact ((Dev.rd_wr_ne _ _ ((by decide : ∀ q : Fin 24, (CH_FT_LAST_DELAY q.val).bit ≠ (CH_FT_LASTX_WORD q.val).bit) n)).trans ((Dev.rd_wr_same _ (CH_FT_LAST_DELAY n.val) _).trans (Nat.mod_eq_of_lt hl)))
  · exact ((Dev.rd_wr_ne _ _ ((by decide : ∀ q : Fin 24, (CH_RX_FRAMES_COUNT q.val).bit ≠ (CH_FT_LASTX_WORD q.val).bit) n)).trans ((Dev.rd_wr_ne _ _ ((by decide : ∀ q : Fin 24, (CH_RX_FRAMES_COUNT q.val).bit ≠ (CH_FT_LAST_DELAY q.val).bit) n)).trans ((Dev.rd_wr_ne _ _ ((by decide : ∀ q : Fin 24, (CH_RX_FRAMES_COUNT q.val).bit ≠ (CH_FT_LAST_REF q.val).bit) n)).trans (rfl))))

theorem leaveCheck_last (n : Fin 24) (d : Dev) :
    (leaveCheck n.val d).rd (CH_FT_LAST_REF n.val) = d.rd (CH_FT_LAST_REF n.val) ∧ (leaveCheck n.val d).rd (CH_FT_LAST_DELAY n.val) = d.rd (CH_FT_LAST_DELAY n.val) ∧
    (leaveCheck n.val d).rd (CH_RX_FRAMES_COUNT n.val) = d.rd (CH_RX_FRAMES_COUNT n.val) :=
  ⟨((leaveCheck_after (Changes.refl _ _ _) (within_refl _) (covers_refl _) n.val).rd (rows_not ((by decide +kernel : ∀ q : Fin 24, List.all _ (Span.misses (CH_FT_LAST_REF q.val).bit) = true) n))), ((leaveCheck_after (Changes.refl _ _ _) (within_refl _) (covers_refl _) n.val).rd (rows_not ((by decide +kernel : ∀ q : Fin 24, List.all _ (Span.misses (CH_FT_LAST_DELAY q.val).bit) = true) n))), ((leaveCheck_after (Changes.refl _ _ _) (within_refl _) (covers_refl _) n.val).rd (rows_not ((by decide +kernel : ∀ q : Fin 24, List.all _ (Span.misses (CH_RX_FRAMES_COUNT q.val).bit) = true) n)))⟩

theorem answeredBy_rd (n : Fin 24) (oct : Nat) (x : Word) (p : Parsed) (rec_ : List Word) (polling : Bool) (d : Dev) (F : Nat → Fld)
    (h1 : ∀ y, (leaveCheck n.val y).rd (F n.val) = y.rd (F n.val)) (h2 : ∀ q y, (onReply n.val q y).rd (F n.val) = y.rd (F n.val))
    (h3 : (F n.val).bit ≠ (CH_FT_STATUS_DEV_SEEN n.val).bit) (h4 : (F n.val).bit ≠ (CH_FT_STATS_DEV n.val).bit) (h5 : (F n.val).bit ≠ (CH_FT_STATUS_FMT_SEEN n.val).bit)
    (h6 : (F n.val).bit ≠ (CH_FT_STATUS_SEQ n.val).bit) : (answeredBy n.val oct x p rec_ polling d).rd (F n.val) = d.rd (F n.val) := by
  have k : (pushRecord n.val rec_ ((countDev n.val x d).raiseIf p.fmtErr (CH_FT_STATUS_FMT_SEEN n.val))).rd
      (F n.val) = d.rd (F n.val) := by
    refine (show (pushRecord n.val rec_ _).rd (F n.val) = _ from rfl : _).trans ((Dev.rd_raiseIf_ne _ _ h5).trans ?_)
    unfold countDev
    split
    · exact (Dev.rd_countSat_ne _ _ h4).trans (Dev.rd_raise_ne _ h3)
    · rfl
  unfold answeredBy
  dsimp only
  split
  · rw [h1, h2]; exact (Dev.rd_wr_ne _ _ h6).trans k
  · rw [h1, h2, modChan_rd]; exact k

theorem verdict_eff (n : Fin 24) (d : Dev) (fr : RxFrame) (e : Exch) (hc : d.coreRuns = true) (hf : (d.chan n.val).rx.frame = some fr) (he : (d.chan n.val).exch = some e)
    (hr : d.rd (CH_RX_STATUS_STATE n.val) = 5) (hs : d.rd (CH_FT_STATUS_SEQ n.val) = 5) :
    (verdict n.val d).rd (CH_RX_FRAMES_COUNT n.val) = (d.rd (CH_RX_FRAMES_COUNT n.val) + 1) % 2 ^ 64 ∧ (verdict n.val d).rd (CH_FT_LAST_REF n.val) = e.ref % 4 ∧
    (verdict n.val d).rd (CH_FT_LAST_DELAY n.val) = min fr.delay 0x3FFFFFFF ∧ (verdict n.val d).mem = d.mem := by
  have hm : (verdict n.val d).mem = d.mem := ((verdict_after (Changes.refl _ _ _) (within_refl _) (covers_refl _) n.val).parts .mem (by decide))
  obtain ⟨c, p, v, oct, x, lx, rec_, pol, k⟩ : ∃ c p v oct x lx rec_ pol, verdict n.val d = answeredBy n.val oct x p rec_ pol (timed2 n.val e fr.delay lx (counted n.val c fr p v d)) := by
    rw [verdict_on n.val d fr e hf he, hc, hr, if_neg (by decide)]
    exact ⟨_, _, _, _, _, _, _, _, if_neg (not_not_intro ((counted_rd n (d.chan n.val) fr _ _ d).2.trans hs))⟩
  obtain ⟨t1, t2, t3⟩ := timed2_rd n e fr.delay lx (counted n.val c fr p v d)
  have q := answeredBy_rd n oct x p rec_ pol (timed2 n.val e fr.delay lx (counted n.val c fr p v d))
  rw [← k] at q
  refine ⟨?_, ?_, ?_, hm⟩
  · exact (q CH_RX_FRAMES_COUNT (fun y => (leaveCheck_last n y).2.2) (fun p y => (onReply_last n p y).2.2.2) ((by decide : ∀ q : Fin 24, (CH_RX_FRAMES_COUNT q.val).bit ≠ (CH_FT_STATUS_DEV_SEEN q.val).bit) n)
      ((by decide : ∀ q : Fin 24, (CH_RX_FRAMES_COUNT q.val).bit ≠ (CH_FT_STATS_DEV q.val).bit) n) ((by decide : ∀ q : Fin 24, (CH_RX_FRAMES_COUNT q.val).bit ≠ (CH_FT_STATUS_FMT_SEEN q.val).bit) n) ((by decide : ∀ q : Fin 24, (CH_RX_FRAMES_COUNT q.val).bit ≠ (CH_FT_STATUS_SEQ q.val).bit) n)).trans (t3.trans (counted_rd n c fr p v d).1)
  · exact (q CH_FT_LAST_REF (fun y => (leaveCheck_last n y).1) (fun p y => (onReply_last n p y).1) ((by decide : ∀ q : Fin 24, (CH_FT_LAST_REF q.val).bit ≠ (CH_FT_STATUS_DEV_SEEN q.val).bit) n)
      ((by decide : ∀ q : Fin 24, (CH_FT_LAST_REF q.val).bit ≠ (CH_FT_STATS_DEV q.val).bit) n) ((by decide : ∀ q : Fin 24, (CH_FT_LAST_REF q.val).bit ≠ (CH_FT_STATUS_FMT_SEEN q.val).bit) n) ((by decide : ∀ q : Fin 24, (CH_FT_LAST_REF q.val).bit ≠ (CH_FT_STATUS_SEQ q.val).bit) n)).trans t1
  · exact (q CH_FT_LAST_DELAY (fun y => (leaveCheck_last n y).2.1) (fun p y => (onReply_last n p y).2.1) ((by decide : ∀ q : Fin 24, (CH_FT_LAST_DELAY q.val).bit ≠ (CH_FT_STATUS_DEV_SEEN q.val).bit) n)
      ((by decide : ∀ q : Fin 24, (CH_FT_LAST_DELAY q.val).bit ≠ (CH_FT_STATS_DEV q.val).bit) n) ((by decide : ∀ q : Fin 24, (CH_FT_LAST_DELAY q.val).bit ≠ (CH_FT_STATUS_FMT_SEEN q.val).bit) n) ((by decide : ∀ q : Fin 24, (CH_FT_LAST_DELAY q.val).bit ≠ (CH_FT_STATUS_SEQ q.val).bit) n)).trans t2

/-! The receiver. -/

theorem seedsDue_look (n : Fin 24) (d : Dev) : ((seedsDue n.val d).chan n.val).rx.look = (d.chan n.val).rx.look := by
  have k := congrArg RxSt.look (rx_modRx n (fun r => { r with seeds := [], clearSeeds := false }) d)
  unfold seedsDue
  split
  · exact k
  · rfl

theorem openFrame_eff (n : Fin 24) (st : Nat) (c : Corr) (replayed : Bool) (d : Dev) (hs : st < 8) :
    (openFrame n.val st c replayed d).rd (CH_RX_STATUS_STATE n.val) = st ∧ (openFrame n.val st c replayed d).rd (CH_FT_STATUS_SEQ n.val) = 5 ∧
    ((openFrame n.val st c replayed d).chan n.val).rx.cur = c ∧ ((openFrame n.val st c replayed d).chan n.val).rx.frame = none ∧
    ((openFrame n.val st c replayed d).chan n.val).rx.look = (d.chan n.val).rx.look ∧ (openFrame n.val st c replayed d).mem = d.mem := by
  have hm : (openFrame n.val st c replayed d).mem = d.mem := (openFrame_after (Changes.refl _ _ _) (within_refl _) (covers_refl _) n.val st c replayed).parts .mem (by decide)
  have hl := seedsDue_look n d
  refine ⟨?_, seq_rd n 5 _ (by decide), ?_, ?_, ?_, hm⟩
  all_goals unfold openFrame; dsimp only
  · exact (Dev.rd_wr_ne _ _ ((by decide : ∀ q : Fin 24, (CH_RX_STATUS_STATE q.val).bit ≠ (CH_FT_STATUS_SEQ q.val).bit) n)).trans
      ((Dev.rd_wr_same _ (CH_RX_STATUS_STATE n.val) st).trans (Nat.mod_eq_of_lt hs))
  all_goals generalize (match (match (d.chan n.val).exch with | some e => some e.frame | none => (d.chan n.val).rx.sent) with
    | some f => d.equalises n.val f.proto f.rate | none => false) = eq
  · exact congrArg (fun c : Chan => c.rx.cur) (chan_modChan n _ (seedsDue n.val d))
  · exact congrArg (fun c : Chan => c.rx.frame) (chan_modChan n _ (seedsDue n.val d))
  · exact (congrArg (fun c : Chan => c.rx.look) (chan_modChan n _ (seedsDue n.val d))).trans hl

theorem correlation_none (n : Fin 24) (level floor oct at_ : Nat) (look : List Word) (fr : RxFrame) (d : Dev)
    (h : d.overThreshold n.val level floor = false ∨ d.blanked n.val at_ = true) : correlation n.val level floor oct at_ look fr d = d := by
  unfold correlation
  dsimp only
  refine if_pos ?_
  obtain h | h := h <;> rw [h] <;> simp

theorem inTime_of (c : Chan) (at_ : Nat) (e : Exch) (he : c.exch = some e) (hd : ∀ dl, e.deadline = some dl → at_ ≤ dl) : inTime c at_ = true := by
  unfold inTime
  rw [he]
  cases hdl : e.deadline with
  | none => simp only [hdl]
  | some dl => simp only [hdl]; exact decide_eq_true (hd dl hdl)

theorem correlation_eff (n : Fin 24) (level floor oct at_ : Nat) (look : List Word) (fr : RxFrame) (d : Dev) (e : Exch) (hc : d.coreRuns = true)
    (ht : d.overThreshold n.val level floor = true) (hb : d.blanked n.val at_ = false) (he : (d.chan n.val).exch = some e)
    (hr : d.rd (CH_RX_STATUS_STATE n.val) = 1) (ha : (d.chan n.val).rx.armed = true) (hd : ∀ dl, e.deadline = some dl → at_ ≤ dl) :
    (correlation n.val level floor oct at_ look fr d).rd (CH_RX_STATUS_STATE n.val) = 2 ∧ (correlation n.val level floor oct at_ look fr d).rd (CH_FT_STATUS_SEQ n.val) = 5 ∧
    ((correlation n.val level floor oct at_ look fr d).chan n.val).rx.cur = { level := level, oct := oct, stamp := d.stamp } ∧
    ((correlation n.val level floor oct at_ look fr d).chan n.val).rx.frame = none ∧ ((correlation n.val level floor oct at_ look fr d).chan n.val).rx.look = look ∧
    (correlation n.val level floor oct at_ look fr d).mem = d.mem := by
  have k : correlation n.val level floor oct at_ look fr d = openFrame n.val 2 { level := level, oct := oct, stamp := d.stamp } false (d.modRx n.val fun r => { r with look := look }) := by
    unfold correlation
    dsimp only
    rw [hc, hr, ha, inTime_of _ _ e he hd, ht, hb]
    rfl
  rw [k]
  obtain ⟨a, b, c, f, g, h⟩ := openFrame_eff n 2 { level := level, oct := oct, stamp := d.stamp } false (d.modRx n.val fun r => { r with look := look }) (by decide)
  exact ⟨a, b, c, f, g.trans (congrArg RxSt.look (rx_modRx n (fun r => { r with look := look }) d)), h⟩

/-- A newcomer in RX_EARLY (R141, R142). -/
theorem newcomer_eff (n : Fin 24) (level floor oct at_ : Nat) (look : List Word) (fr : RxFrame) (d : Dev) (e : Exch) (hc : d.coreRuns = true)
    (ht : d.overThreshold n.val level floor = true) (hb : d.blanked n.val at_ = false) (he : (d.chan n.val).exch = some e)
    (hr : d.rd (CH_RX_STATUS_STATE n.val) = 2) (ha : (d.chan n.val).rx.aged = false) (hd : ∀ dl, e.deadline = some dl → at_ ≤ dl) :
    correlation n.val level floor oct at_ look fr d =
      if level + 6 ≤ (d.chan n.val).rx.cur.level then openFrame n.val 4 { level := level, oct := oct, stamp := d.stamp } true
        ((d.modRx n.val fun r => { r with look := look }).countSat (CH_STATS_FALSE_SOF n.val) 1)
      else interfere n.val fr.bits.length (d.modRx n.val fun r => { r with look := look }) := by
  unfold correlation
  dsimp only
  rw [hc, hr, inTime_of _ _ e he hd, ht, hb, ha]
  rfl

/-- The level registers at the end of a frame (R148). -/
def endLevels (n : Nat) (fr : RxFrame) (c : Chan) (d : Dev) : Dev :=
  (((((d.lower (CH_RX_LEVEL_STALE n)).flag (CH_RX_LEVEL_UNTRACED n) (d.untraced n)).wr (CH_RX_LEVEL_COIL n)
    (d.selected n)).wr (CH_RX_LEVEL_PHASE n) fr.phase.toNat).wr (CH_RX_LEVEL_SB_AMP n) fr.sbAmp.toNat).wr (CH_RX_LEVEL_LEVEL n) c.rx.cur.level

/-- The collision map and the tap snapshot at the end of a frame (R139, R149). -/
def endMaps (n : Nat) (fr : RxFrame) (c : Chan) (d : Dev) : Dev :=
  let d := collMap n (d.frameFlags n fr) d
  if c.rx.eqUsed then eqSnapshot n fr (d.raiseIf (d.diverged n fr) (CH_RX_STATUS_EQ_DIVERGED_SEEN n)) else d

theorem endOfFrame_noted (n : Nat) (fr : RxFrame) (d : Dev) : endOfFrame n fr d =
    if !d.coreRuns || !(d.rd (CH_RX_STATUS_STATE n) = 2 || d.rd (CH_RX_STATUS_STATE n) = 3 || d.rd (CH_RX_STATUS_STATE n) = 4) || (d.chan n).rx.ended then d
    else if d.rd (CH_RX_STATUS_STATE n) = 4 then endMaps n fr (d.chan n) (endLevels n fr (d.chan n) (d.modRx n fun r => { r with frame := some fr, ended := true }))
    else (endMaps n fr (d.chan n) (endLevels n fr (d.chan n) (d.modRx n fun r => { r with frame := some fr, ended := true }))).wr (CH_RX_STATUS_STATE n) 5 := rfl

theorem collMap_chans (n : Nat) (l : List Nat) (d : Dev) : (collMap n l d).chans = d.chans := ((collMap_after (Changes.refl _ _ _) (within_refl _) (covers_refl _) n l).parts .chans (by decide))
theorem eqSnapshot_chans (n : Nat) (fr : RxFrame) (d : Dev) : (eqSnapshot n fr d).chans = d.chans := ((eqSnapshot_after (Changes.refl _ _ _) (within_refl _) (covers_refl _) n fr).parts .chans (by decide))
theorem endLevels_chans (n : Nat) (fr : RxFrame) (c : Chan) (d : Dev) : (endLevels n fr c d).chans = d.chans := rfl
theorem raiseIf_chans (b : Bool) (f : Fld) (d : Dev) : (d.raiseIf b f).chans = d.chans := by cases b <;> rfl
theorem endMaps_chans (n : Nat) (fr : RxFrame) (c : Chan) (d : Dev) : (endMaps n fr c d).chans = d.chans := by
  unfold endMaps
  dsimp only
  split
  · exact (eqSnapshot_chans _ _ _).trans ((raiseIf_chans _ _ _).trans (collMap_chans _ _ _))
  · exact collMap_chans _ _ _
theorem endNoted_chans (n : Nat) (fr : RxFrame) (c : Chan) (d : Dev) : (endMaps n fr c (endLevels n fr c d)).chans = d.chans :=
  (endMaps_chans _ _ _ _).trans (endLevels_chans _ _ _ _)

theorem endOfFrame_eff (n : Fin 24) (fr : RxFrame) (d : Dev) (hc : d.coreRuns = true) (hr : d.rd (CH_RX_STATUS_STATE n.val) = 2 ∨ d.rd (CH_RX_STATUS_STATE n.val) = 3)
    (he : (d.chan n.val).rx.ended = false) :
    (endOfFrame n.val fr d).rd (CH_RX_STATUS_STATE n.val) = 5 ∧ ((endOfFrame n.val fr d).chan n.val).rx.frame = some fr ∧ ((endOfFrame n.val fr d).chan n.val).rx.ended = true ∧
    (endOfFrame n.val fr d).mem = d.mem := by
  have hm : (endOfFrame n.val fr d).mem = d.mem := ((endOfFrame_after (Changes.refl _ _ _) (within_refl _) (covers_refl _) n.val fr).parts .mem (by decide))
  have k : endOfFrame n.val fr d = (endMaps n.val fr (d.chan n.val) (endLevels n.val fr (d.chan n.val) (d.modRx n.val fun r => { r with frame := some fr, ended := true }))).wr (CH_RX_STATUS_STATE n.val) 5 := by
    rw [endOfFrame_noted, hc, he]
    obtain h | h := hr <;> rw [h] <;> rfl
  have x := rx_modRx n (fun r => { r with frame := some fr, ended := true }) d
  have z : ((endOfFrame n.val fr d).chan n.val) = ((d.modRx n.val fun r => { r with frame := some fr, ended := true }).chan n.val) := by
    rw [k, wr_chan]; exact chan_of (endNoted_chans _ _ _ _) _
  refine ⟨?_, ?_, ?_, hm⟩
  · rw [k]; exact Dev.rd_wr_same _ (CH_RX_STATUS_STATE n.val) 5
  · rw [z, x]
  · rw [z, x]

theorem foreign_eff (n : Fin 24) (level : Nat) (d : Dev) (hl : level < 256) (hc : d.coreRuns = true) (h : (d.chan n.val).field.lit = false) (ho : d.on (CH_SEL_STATUS_ON n.val) = true)
    (hp : d.rd PW_STATE_CUR ≠ 2) :
    (foreignCarrier n.val level d).rd (CH_RX_CARRIER_LEVEL n.val) = level ∧ (foreignCarrier n.val level d).rd (CH_RX_CARRIER_OWN n.val) = 0 ∧
    (foreignCarrier n.val level d).rd (CH_RX_CARRIER_STALE n.val) = 0 ∧ (foreignCarrier n.val level d).rd (CH_RX_STATUS_FOREIGN n.val) = (if level < 106 then 1 else 0) ∧
    (foreignCarrier n.val level d).chans = d.chans ∧ (foreignCarrier n.val level d).mem = d.mem := by
  have g : (!d.coreRuns || (d.chan n.val).field.lit || !d.on (CH_SEL_STATUS_ON n.val) || decide (d.rd PW_STATE_CUR = 2)) = false := by rw [hc, h, ho, decide_eq_false hp]; rfl
  have p1 : (foreignCarrier n.val level d).chans = d.chans := ((foreignCarrier_after (Changes.refl _ _ _) (within_refl _) (covers_refl _) n.val level).parts .chans (by decide))
  have p2 : (foreignCarrier n.val level d).mem = d.mem := ((foreignCarrier_after (Changes.refl _ _ _) (within_refl _) (covers_refl _) n.val level).parts .mem (by decide))
  have k : foreignCarrier n.val level d = (((((d.lower (CH_RX_CARRIER_STALE n.val)).flag (CH_RX_CARRIER_UNTRACED n.val) (d.untraced n.val)).lower (CH_RX_CARRIER_OWN n.val)).wr
      (CH_RX_CARRIER_COIL n.val) (d.selected n.val)).wr (CH_RX_CARRIER_LEVEL n.val) level).flag (CH_RX_STATUS_FOREIGN n.val) (decide (level < 106)) := by
    unfold foreignCarrier
    rw [g, if_neg (by decide)]
  refine ⟨?_, ?_, ?_, ?_, p1, p2⟩
  · rw [k]; exact ((Dev.rd_wr_ne _ _ ((by decide : ∀ q : Fin 24, (CH_RX_CARRIER_LEVEL q.val).bit ≠ (CH_RX_STATUS_FOREIGN q.val).bit) n)).trans ((Dev.rd_wr_same _ (CH_RX_CARRIER_LEVEL n.val) _).trans (Nat.mod_eq_of_lt hl)))
  · rw [k]; exact ((Dev.rd_wr_ne _ _ ((by decide : ∀ q : Fin 24, (CH_RX_CARRIER_OWN q.val).bit ≠ (CH_RX_STATUS_FOREIGN q.val).bit) n)).trans ((Dev.rd_wr_ne _ _ ((by decide : ∀ q : Fin 24, (CH_RX_CARRIER_OWN q.val).bit ≠ (CH_RX_CARRIER_LEVEL q.val).bit) n)).trans ((Dev.rd_wr_ne _ _ ((by decide : ∀ q : Fin 24, (CH_RX_CARRIER_OWN q.val).bit ≠ (CH_RX_CARRIER_COIL q.val).bit) n)).trans (Dev.rd_lower_same _ (CH_RX_CARRIER_OWN n.val)))))
  · rw [k]; exact ((Dev.rd_wr_ne _ _ ((by decide : ∀ q : Fin 24, (CH_RX_CARRIER_STALE q.val).bit ≠ (CH_RX_STATUS_FOREIGN q.val).bit) n)).trans ((Dev.rd_wr_ne _ _ ((by decide : ∀ q : Fin 24, (CH_RX_CARRIER_STALE q.val).bit ≠ (CH_RX_CARRIER_LEVEL q.val).bit) n)).trans ((Dev.rd_wr_ne _ _ ((by decide : ∀ q : Fin 24, (CH_RX_CARRIER_STALE q.val).bit ≠ (CH_RX_CARRIER_COIL q.val).bit) n)).trans ((Dev.rd_wr_ne _ _ ((by decide : ∀ q : Fin 24, (CH_RX_CARRIER_STALE q.val).bit ≠ (CH_RX_CARRIER_OWN q.val).bit) n)).trans ((Dev.rd_wr_ne _ _ ((by decide : ∀ q : Fin 24, (CH_RX_CARRIER_STALE q.val).bit ≠ (CH_RX_CARRIER_UNTRACED q.val).bit) n)).trans (Dev.rd_lower_same d (CH_RX_CARRIER_STALE n.val)))))))
  · rw [k]
    refine (Dev.rd_flag_same _ (CH_RX_STATUS_FOREIGN n.val) (decide (level < 106))).trans ?_
    by_cases c : level < 106
    · rw [decide_eq_true c, if_pos c]; rfl
    · rw [decide_eq_false c, if_neg c]; rfl

theorem vget_vmod8 (v : Vector Ctx 8) (k : Fin 8) (g : Ctx → Ctx) : vget (vmod v k.val g) k.val Ctx.free = g (vget v k.val Ctx.free) := vget_vmod_same _ _ _ _ k.isLt

theorem sfgt_eff (n : Fin 24) (k : Fin 8) (d : Dev) (h : ((d.chan n.val).context k.val).sfgt = true) (hb : (d.chan n.val).building.any (·.sfgt) = false) :
    (((Machine.sfgtExpiry n.val k.val d).chan n.val).context k.val).sfgt = false ∧ ((Machine.sfgtExpiry n.val k.val d).chan n.val).nextRef = 3 ∧ (Machine.sfgtExpiry n.val k.val d).mem = d.mem := by
  have hm : (Machine.sfgtExpiry n.val k.val d).mem = d.mem := ((Machine.sfgtExpiry_after (Changes.refl _ _ _) (within_refl _) (covers_refl _) n.val k.val).parts .mem (by decide))
  have c1 := chan_modChan n (fun c => { c with ctx := vmod c.ctx k.val fun c => { c with sfgt := false } }) d
  have c2 := chan_modChan n (fun c => { c with nextRef := 3, exch := c.exch.map fun e => if (false || e.ctx = k.val) && !e.sent then { e with ref := 3 } else e, job := if false then c.job.map Job.sfgtOver else c.job })
    (d.modCtx n.val k.val fun c => { c with sfgt := false })
  have e : Machine.sfgtExpiry n.val k.val d = kick n.val ((d.modCtx n.val k.val fun c => { c with sfgt := false }).modChan n.val fun c =>
      { c with nextRef := 3, exch := c.exch.map fun e => if (false || e.ctx = k.val) && !e.sent then { e with ref := 3 } else e, job := if false then c.job.map Job.sfgtOver else c.job }) := by
    unfold Machine.sfgtExpiry
    dsimp only
    rw [h, hb]; rfl
  refine ⟨?_, ?_, hm⟩
  · rw [e, chan_of (kick_chans _ _), c2]
    show ((Chan.context ((d.modCtx n.val k.val _).chan n.val) k.val)).sfgt = false
    rw [show (d.modCtx n.val k.val fun c => { c with sfgt := false }).chan n.val = _ from c1]
    exact congrArg Ctx.sfgt (vget_vmod8 (d.chan n.val).ctx k fun c => { c with sfgt := false })
  · rw [e, chan_of (kick_chans _ _), c2]

theorem early_eff (n : Fin 24) (d : Dev) (h : d.rd (CH_RX_STATUS_STATE n.val) = 2) :
    (rxEarlyWindowEnd n.val d).rd (CH_RX_STATUS_STATE n.val) = 3 ∧ ((rxEarlyWindowEnd n.val d).chan n.val).rx.aged = true ∧ (rxEarlyWindowEnd n.val d).mem = d.mem := by
  have e : rxEarlyWindowEnd n.val d = (d.modRx n.val fun r => { r with aged := true }).wr (CH_RX_STATUS_STATE n.val) 3 := by unfold rxEarlyWindowEnd; exact if_pos h
  rw [e]
  exact ⟨Dev.rd_wr_same _ (CH_RX_STATUS_STATE n.val) 3, congrArg RxSt.aged (rx_modRx n (fun r => { r with aged := true }) d), rfl⟩

theorem catchUp_eff (n : Fin 24) (d : Dev) (h : d.rd (CH_RX_STATUS_STATE n.val) = 4) :
    (replayCatchUp n.val d).rd (CH_RX_STATUS_STATE n.val) = (if (d.chan n.val).rx.ended then 5 else if (d.chan n.val).rx.aged then 3 else 2) ∧
    (replayCatchUp n.val d).chans = d.chans ∧ (replayCatchUp n.val d).mem = d.mem := by
  have e : replayCatchUp n.val d = d.wr (CH_RX_STATUS_STATE n.val) (if (d.chan n.val).rx.ended then 5 else if (d.chan n.val).rx.aged then 3 else 2) := by
    unfold replayCatchUp; exact if_neg (not_not_intro h)
  rw [e]
  refine ⟨(Dev.rd_wr_same d (CH_RX_STATUS_STATE n.val) _).trans (Nat.mod_eq_of_lt ?_), rfl, rfl⟩
  show _ < 8
  split <;> (try split) <;> decide

theorem busyRx {d : Dev} {n : Nat} (h : d.rd (CH_RX_STATUS_STATE n) ∈ [2, 3, 4]) :
    (decide (d.rd (CH_RX_STATUS_STATE n) = 2) || decide (d.rd (CH_RX_STATUS_STATE n) = 3) || decide (d.rd (CH_RX_STATUS_STATE n) = 4)) = true := by
  simp only [List.mem_cons, List.not_mem_nil, or_false] at h
  obtain h | h | h := h <;> rw [h] <;> rfl

theorem interference_eff (n : Fin 24) (b : Nat) (d : Dev) (h : d.rd (CH_RX_STATUS_STATE n.val) ∈ [2, 3, 4]) :
    ((interferenceEnd n.val b d).chan n.val).rx.interf = closeSpan b (d.chan n.val).rx.interf ∧ (interferenceEnd n.val b d).regs = d.regs ∧ (interferenceEnd n.val b d).mem = d.mem := by
  have e : interferenceEnd n.val b d = d.modRx n.val fun r => { r with interf := closeSpan b r.interf } := by unfold interferenceEnd; exact if_pos (busyRx h)
  rw [e]
  exact ⟨congrArg RxSt.interf (rx_modRx n (fun r => { r with interf := closeSpan b r.interf }) d), rfl, rfl⟩

theorem overload_eff (n : Fin 24) (d : Dev) (h : d.rd (CH_RX_STATUS_STATE n.val) ∈ [2, 3, 4]) (ho : (d.chan n.val).rx.overload = false) :
    ((adcOverload n.val d).chan n.val).rx.overload = true ∧ (adcOverload n.val d).rd (CH_RX_STATUS_OVERLOAD_SEEN n.val) = 1 ∧ (adcOverload n.val d).mem = d.mem := by
  have e : adcOverload n.val d = ((d.modRx n.val fun r => { r with overload := true }).raise (CH_RX_STATUS_OVERLOAD_SEEN n.val)).countSat (CH_STATS_OVERLOAD n.val) 1 := by
    unfold adcOverload; exact if_pos (by rw [ho]; exact (Bool.and_true _).trans (busyRx h))
  rw [e]
  exact ⟨congrArg RxSt.overload (rx_modRx n (fun r => { r with overload := true }) d), ((Dev.rd_wr_ne _ _ ((by decide : ∀ q : Fin 24, (CH_RX_STATUS_OVERLOAD_SEEN q.val).bit ≠ (CH_STATS_OVERLOAD q.val).bit) n)).trans (Dev.rd_raise_same _ (CH_RX_STATUS_OVERLOAD_SEEN n.val))), rfl⟩

theorem listener_eff (n : Fin 24) (l amp phase : Nat) (below : Bool) (d : Dev) (g : Grant) (x : Listen) (w : List Word) (hg : d.grantNow n.val = some g)
    (hw : (d.chan n.val).rx.window = some w) (hx : g.listeners.find? (·.ch = l) = some x)
    (hs : d.selected l = x.coil) (ho : d.on (CH_SEL_STATUS_ON l) = true) (hu : d.ms < x.until_) (hr : d.reader l = true → d.rd (CH_RX_STATUS_STATE l) = 6) :
    ((listenerMeasurement n.val l amp phase below d).chan n.val).terms = (d.chan n.val).terms.filter (·.1 ≠ l) ++ [(l, x.coil, amp, phase, below)] ∧
    ((listenerMeasurement n.val l amp phase below d).chan n.val).termsAt = w ∧
    (listenerMeasurement n.val l amp phase below d).regs = d.regs ∧ (listenerMeasurement n.val l amp phase below d).mem = d.mem := by
  have e : listenerMeasurement n.val l amp phase below d = d.modChan n.val fun c => { c with terms := c.terms.filter (·.1 ≠ l) ++ [(l, x.coil, amp, phase, below)], termsAt := w } := by
    unfold listenerMeasurement
    rw [hg, hw]
    dsimp only
    rw [hx]
    refine if_neg ?_
    have a : (d.reader l && decide (d.rd (CH_RX_STATUS_STATE l) ≠ 6)) = false := by
      cases c : d.reader l with
      | false => rfl
      | true => rw [hr c]; rfl
    rw [hs, ho, decide_eq_false (Nat.not_le.2 hu), a]; simp
  rw [e]
  exact ⟨congrArg Chan.terms (chan_modChan n _ d), congrArg Chan.termsAt (chan_modChan n _ d), rfl, rfl⟩

theorem sequencer_rows (s : State) (n : Fin 24) (hc : s.dev.coreRuns = true) :
      ((s.dev.chan n.val).field.st = .rampUp → (s.dev.chan n.val).field.guard = false → Completes (.guardExpiry n) s fun d =>
        (d.chan n.val).field.guard = true ∧ (d.chan n.val).nextRef = 3 ∧ d.regs = s.dev.regs ∧ d.mem = s.dev.mem) ∧
      (∀ e, (s.dev.chan n.val).exch = some e → lostSession (s.dev.chan n.val) = none → s.dev.rd (CH_FT_STATUS_SEQ n.val) = 2 →
        (e.late = false → ∀ ready, (ready || !(s.dev.chan n.val).mayBeLate e) = true → Completes (.placementPoint n ready true) s fun d =>
          d.rd (CH_FT_STATUS_SEQ n.val) = 3 ∧ (e.frame.cls ≠ .none → (d.chan n.val).rx.armed = true) ∧ d.mem = s.dev.mem) ∧
        (e.late = true → ∀ lo, Completes (.frameReady n lo true) s fun d =>
          d.rd (CH_FT_STATUS_SEQ n.val) = 3 ∧ d.rd (CH_FT_STATUS_LATE_SEEN n.val) = 1 ∧ (e.frame.cls ≠ .none → (d.chan n.val).rx.armed = true) ∧ d.mem = s.dev.mem)) ∧
      (∀ e, (s.dev.chan n.val).exch = some e → s.dev.rd (CH_FT_STATUS_SEQ n.val) = 3 → e.withdrawn = false → e.frame.cls ≠ .none → e.frame.cls ≠ .fOther → Completes (.commandEnd n) s fun d =>
        d.rd (CH_FT_STATUS_SEQ n.val) = 4 ∧
        (d.chan n.val).exch = some { e with deadline := deadlineOct e.frame (s.dev.rd (CH_FT_WIN_LATE_TOL n.val)) (s.dev.fwiOf n.val e.ctx) e.wtxm } ∧ d.mem = s.dev.mem) ∧
      (∀ e, (s.dev.chan n.val).exch = some e → s.dev.rd (CH_FT_STATUS_SEQ n.val) = 4 → s.dev.rd (CH_RX_STATUS_STATE n.val) = 1 → (s.dev.chan n.val).heard = false → e.eofDue = false →
        Completes (.replyDeadline n) s fun d =>
          d.rd (CH_FT_LAST_REF n.val) = e.ref % 4 ∧ d.rd (CH_FT_LAST_DELAY n.val) = 0 ∧ d.rd (CH_FT_LASTX_WORD n.val) = (exchangeWord e false 0 false 0).toNat ∧
          d.mem = s.dev.mem) ∧
      (∀ e fr, (s.dev.chan n.val).rx.frame = some fr → (s.dev.chan n.val).exch = some e → s.dev.rd (CH_RX_STATUS_STATE n.val) = 5 → s.dev.rd (CH_FT_STATUS_SEQ n.val) = 5 →
        Completes (.verdictDelivered n) s fun d =>
          d.rd (CH_RX_FRAMES_COUNT n.val) = (s.dev.rd (CH_RX_FRAMES_COUNT n.val) + 1) % 2 ^ 64 ∧ d.rd (CH_FT_LAST_REF n.val) = e.ref % 4 ∧
          d.rd (CH_FT_LAST_DELAY n.val) = min fr.delay 0x3FFFFFFF ∧ d.mem = s.dev.mem) := by
  refine ⟨fun h hg => Completes.of _ rfl (guardExpiry_eff n { s.dev with out := [] } hc h hg), fun e he hl hs => ⟨fun h ready hr => ?_, fun h lo => ?_⟩,
    fun e he hs hw h ho => Completes.of _ rfl (commandEnd_eff n { s.dev with out := [] } e hc he hs hw h ho),
    fun e he hs hr hh hf => Completes.of _ rfl (replyDeadline_eff n { s.dev with out := [] } e hc he hs hr hh hf),
    fun e fr hf he hr hs => Completes.of _ rfl (verdict_eff n { s.dev with out := [] } fr e hc hf he hr hs)⟩
  · have q : exec (.placementPoint n ready true) s = s.act (placementPoint n.val ready true) := rfl
    refine Completes.of _ q ?_
    have m : (placementPoint n.val ready true { s.dev with out := [] }).mem = s.dev.mem := ((placementPoint_after (Changes.refl _ _ _) (within_refl _) (covers_refl _) n.val ready true).parts .mem (by decide))
    rw [placementPoint_eff n ready { s.dev with out := [] } e hc he hl hs h hr] at m ⊢
    obtain ⟨a, b⟩ := startTx_eff n none e { s.dev with out := [] }
    exact ⟨a, b, m⟩
  · have q : exec (.frameReady n lo true) s = s.act (frameReady n.val lo true) := rfl
    refine Completes.of _ q ?_
    have m : (frameReady n.val lo true { s.dev with out := [] }).mem = s.dev.mem := ((frameReady_after (Changes.refl _ _ _) (within_refl _) (covers_refl _) n.val lo true).parts .mem (by decide))
    rw [frameReady_eff n lo { s.dev with out := [] } e hc he hl hs h] at m ⊢
    obtain ⟨a, b⟩ := startTx_eff n (some lo) e { s.dev with out := [] }
    exact ⟨a, startTx_late n lo e _, b, m⟩

theorem seedClr_row (s : State) (n : Fin 24) (p : Path) (hr : s.dev.reaches p (0x40000 + n.val * 0x2000) = true) :
      (s.dev.rd (CH_RX_STATUS_STATE n.val) < 2 → Completes (.seedClr p n) s fun d => (d.chan n.val).rx.seeds = [] ∧ d.regs = s.dev.regs ∧ d.mem = s.dev.mem) ∧
      (2 ≤ s.dev.rd (CH_RX_STATUS_STATE n.val) → s.dev.rd (CH_RX_STATUS_STATE n.val) ≤ 5 → Completes (.seedClr p n) s fun d =>
        (d.chan n.val).rx.clearSeeds = true ∧ d.rd (CH_EQ_CFG_SEED_CLR n.val) = 1 ∧ d.mem = s.dev.mem) := by
  have e : exec (.seedClr p n) s = s.act (onPort (0x40000 + n.val * 0x2000) p (seedClear n.val)) := rfl
  have k1 : (s.dev.accessed p).regs = s.dev.regs := Dev.beginAccess_regs _ p
  have k2 : (s.dev.accessed p).mem = s.dev.mem := Dev.accessed_mem _ _
  have k3 : (s.dev.accessed p).rd (CH_RX_STATUS_STATE n.val) = s.dev.rd (CH_RX_STATUS_STATE n.val) := accessed_rd _ _ _
  refine ⟨fun h => Completes.of _ e ?_, fun h h' => Completes.of _ e ?_⟩
  · rw [onPort_reached _ hr]
    generalize s.dev.accessed p = y at k1 k2 k3
    have q : seedClear n.val y = y.modRx n.val fun r => { r with seeds := [] } := by
      unfold seedClear; exact if_neg (by rw [k3, decide_eq_false (Nat.not_le.2 h)]; simp)
    rw [q]
    exact ⟨congrArg RxSt.seeds (rx_modRx n (fun r => { r with seeds := [] }) y), k1, k2⟩
  · rw [onPort_reached _ hr]
    generalize s.dev.accessed p = y at k1 k2 k3
    have q : seedClear n.val y = (y.modRx n.val fun r => { r with clearSeeds := true }).raise (CH_EQ_CFG_SEED_CLR n.val) := by
      unfold seedClear; exact if_pos (by rw [k3, decide_eq_true h, decide_eq_true h']; rfl)
    rw [q]
    exact ⟨congrArg RxSt.clearSeeds (rx_modRx n (fun r => { r with clearSeeds := true }) y), Dev.rd_raise_same _ (CH_EQ_CFG_SEED_CLR n.val), k2⟩

end Sys2Proof.Machine
end

