-- ==== Sys2Proof/WellFormed.lean ====
section
/-!
DEFINITION. Which commands are well formed: operands that some access, frame or event of the part can have. The meanings are total and
answer for every operand; an ill-formed command stands for nothing that can happen.
-/

namespace Sys2Proof

/-- What can reach the slicer: no more stop bits than bits of the frame (R162), and an MSE for the pattern and for no more than one a bit
(R145, R146). -/
def RxFrame.wf (f : RxFrame) : Bool :=
  f.stops ≤ f.slices.length && f.mses.length ≤ f.slices.length + 1

/-- The replies in the air that a burst meets are frames. -/
def fragsWf (fs : List (Fin 24 × RxFrame)) : Bool := fs.all fun c => c.2.wf

/-- A flash directory entry has 32 bytes, or the flash does not answer (R90). -/
def BootEnv.wf (e : BootEnv) : Bool :=
  (e.dirA.isEmpty || e.dirA.length == 32) && (e.dirB.isEmpty || e.dirB.length == 32)

/-- A write is one byte or halfword (Pilot, R31), or one word or more (R36). -/
def burstLength (n : Nat) : Bool := n == 1 || n == 2 || (n != 0 && n % 4 == 0)

/-- A link frame holds 216 payload bytes and has one of the kinds that R362 lists; START lies in the payload or is 0x3FF. -/
def LinkFrame.wf (f : LinkFrame) : Bool :=
  f.payload.length == 216 && [0, 1, 3, 4, 5, 6].contains f.kind.val && (f.start.val < 216 || f.start.val == 0x3FF)

/-- A codeword fails, or holds a link frame. -/
def linkWf (f : Option LinkFrame) : Bool :=
  match f with
  | none => true
  | some f => f.wf

/-- An image fits into the staging area of 32 MiB (R76). -/
def imageWf (img : Option (List Byte)) : Bool :=
  match img with
  | none => true
  | some bs => bs.length ≤ 0x2000000

/-- Is a command well formed? -/
def Instr.wf (i : Instr) : Bool :=
  match i with
  | .pllLock _ env => env.wf
  | .pllaUnlock fs => fragsWf fs
  | .thermalShutdown fs => fragsWf fs
  | .resetRelease env => env.wf
  | .imageFetchDone img => imageWf img
  | .txAmpWrite _ _ _ f => f.wf
  | .fieldEndPoint _ f => f.wf
  | .grantRelease _ f => f.wf
  | .correlation _ _ _ _ _ look f => f.wf && look.length ≤ 128
  | .endOfFrame _ fr => fr.wf
  | .surveyProposal _ _ _ _ src => src.all (fun b => b < 1536)
  | .surveyResults vs => vs.all (fun v => v.src < 1536 && v.dst < 1536 && v.mag < 4096 && v.phase < 256)
  | .shadowHostBurst _ _ data n => data.isEmpty != (n == 0)
  | .queueItemComplete _ typ ps => 0x20 ≤ typ.toNat && ps.length ≤ 255
  | .codewordReceived _ fr _ _ _ => linkWf fr
  | .regWritePacket fs => fragsWf fs
  | .bootData _ _ chunk => chunk.length ≤ 1004
  | .ethFrameReceived _ fr _ _ _ => fr.length ≤ 16384
  | .gwWrite _ _ bits data fs => data.length == bits / 8 && fragsWf fs
  | .masterCommandDone _ data => data.length ≤ 256
  | .xipLineFill data => data.length == 64
  | .crashSlotWritten harts ring => harts.length == 4 && harts.all (fun h => h.length ≤ 4096) && ring < 0x100000
  | .registerWrite _ _ data fs => burstLength data.length && fragsWf fs
  | .vaonPowerOn | .crystalStable | .railInRegulation _ | .railFail _ | .xtalFail | .enableDropStep | .powerUpRetry
  | .plldUnlock | .plleUnlock | .tempSample _ | .slotBoundary | .vrfGroupLevelChange _ _ | .regulatorCurrentLimit _
  | .regulatorDropout _ | .trimRequest _ | .trimEntry | .watchRequest _ | .watchEntryContinue | .dormantRequest _
  | .dormantEntryContinue | .wakeEvent _ | .coldReset | .brownReset _ | .pinReset | .gcReset _ _ | .softReset
  | .pfailAssert _ | .pfailRelease _ | .mramFence | .configApplyDone | .bootDeckParity | .journalRecoveryDone _
  | .neighbourBootPortTimeout | .status _ | .bootReport _ | .manifestBoot _ | .slotWrite _ _ | .slotConfirm _
  | .reset _ | .supplySettled _ | .rampUpDone _ | .loadMeasurementDone _ _ _ _ _ | .guardExpiry _ | .rampDownDone _
  | .rfResetOffExpiry _ | .grantEnd _ | .selectFrame _ | .rxEarlyWindowEnd _ | .replayCatchUp _ | .interferenceEnd _ _
  | .adcOverload _ | .verdictDelivered _ | .listenerMeasurement _ _ _ _ _ | .foreignCarrierMeasurement _ _
  | .seedClr _ _ | .placementPoint _ _ _ | .frameReady _ _ _ | .commandEnd _ | .replyDeadline _ | .sfgtExpiry _ _
  | .pcmdWord _ _ _ | .inventory _ | .activate _ | .exchange _ | .halt _ | .release _ | .migrate _ | .rfReset _
  | .cancel _ | .auth _ | .smExchange _ | .smEnd _ | .surveyGo _ _ | .surveyAbort _ _ | .surveyDrainDone
  | .surveyStartSlot _ | .surveyMeasurement _ _ _ _ | .surveyCommit | .surveyBlockResult _ _ _ | .surveyPeerTimeout
  | .nbCommit _ _ | .nbClear _ _ | .grantRequest _ _ | .confirmationPoint | .requestUrgent | .attribution _
  | .sniffBurst | .sniff _ _ | .kdataWrite _ _ | .kdataRead _ | .generate _ _ _ _ | .importPlain _ _ _ _
  | .importWrapped _ _ _ _ _ | .exportWrapped _ _ _ | .erase _ _ | .info _ _ | .saveBlob _ _ | .loadBlob _ _ _ _
  | .ecdhStart _ | .ecdhImport _ _ _ _ | .burnHash _ | .revokeHash _ | .burnMkey _ | .fuseBurnDone _ | .keyBlobSave
  | .tguardToggle | .tamperSample _ _ | .tamperEvent _ | .trngStartupDone _ | .trngHealthFailure _ | .drbgReseed
  | .carrierLock _ | .phoneFieldDetected _ _ | .phoneFieldLost _ _ | .emulationGrantEnd _ | .emuFrameReceived _ _ _ _
  | .emuReplyStart _ _ | .fieldTransactionEnd _ _ | .emuWtxPoint _ | .ceRspWrite _ _ _ | .ceEnable _ _ _
  | .ceLockWrite _ _ _ _ | .hostWaitExpiry _ | .emuImagePersist _ | .queuePop _ _ | .queueStallExpiry _
  | .queuePush _ _ _ | .dropRest _ _ | .flush _ _ | .mark _ _ | .rewind _ _ | .clearMark _ _ | .queueCfgWrite _ _ _
  | .mboxWord _ _ | .mboxRead _ | .regLookup _ | .regPut _ | .regDelete _ | .regQuery _ | .regStats _ | .regCompact _
  | .regScrub _ | .policySet _ | .policyGet _ | .auditRead _ | .auditHead _ | .queueConsumer _ | .keyOp _ | .tagWrite _
  | .programStart _ | .configGet _ | .configSet _ | .serviceEcall _ _ _ _ _ _ | .journalCommit | .journalApply
  | .journalWaitExpiry | .coalesceTimer | .absenceTimeout _ | .nbTableSave | .offsetDelivered _ _ | .step _
  | .acceptStep _ | .hold _ | .srcWrite _ _ | .masterChange _ _ | .beaconHoldoverTimeout | .beaconSend | .beacon _ _
  | .dreq _ _ | .dresp _ _ _ | .pulseArm _ _ _ | .pulseStop _ _ _ | .pulseEdge _ | .pulseEnd _ | .tcAlarm
  | .captureEdge _ _ | .captureItem _ | .linkDetect _ | .linkTrainDone _ | .linkAlignDone _ | .trainInfo _ _
  | .linkTrainTimeout _ | .linkDrop _ | .linkRedetect _ | .lineEnergyLost _ | .retrain _ _ _ | .ackTimeout _
  | .packetReceived _ | .helloSend | .hello _ _ _ _ | .electEnd | .addressRequest _ _ _ | .addressAssign _ _ _ _ _
  | .bind _ _ _ | .bindingExpiry _ | .discoveryTimeout | .lsa _ _ | .lsaRefresh | .lsaAgeOut _ | .routingTableUpdate
  | .hsSendWord _ _ | .regReadPacket | .bootRequest _ | .bootEnd _ _ | .bootDeny _ | .resetDev _ _ | .resetOrder _ _
  | .resetReply _ | .resetReplyTimeout | .rediscover _ | .chain _ _ _ _ | .sgmiiAutoneg _ _ _ _
  | .ringTailWrite _ _ _ _ | .ethFrameTransmitted _ _ | .mdioCmd _ _ | .mdioDone _ _ | .gwRead _ _ _ _ | .gwPop _ _ _ _
  | .gwPopItem _ _ _ _ | .gwStatus _ _ | .gwId _ _ | .modeReset _ | .badOp _ | .masterCommand _ _ _ | .mdataWrite _ _ _
  | .mdataRead _ _ | .xipRead _ _ _ | .inval _ | .xipCfgWrite _ _ | .calStepDone _ _ _ _ _ _ | .calBlock _ _ _ _
  | .calFinish | .calCountJournal | .commit _ | .commitBurnDone _ | .doubleTrap _ _ _ | .deckParity _ | .wdogPre
  | .journalEcc _ _ | .dramDumpWritten | .handlerTimeout | .watchdogExpiry | .wdogKick _ _ | .wdogEnable _ _
  | .eccError _ _ _ | .gpioEdge _ _ | .pilotAccessFault _ _ _ | .latchedRead _ _ | .stagedWrite _ _ _ | .rcRead _ _ _
  | .enableAssertStep | .linkFrameSend _ | .pauseHoldEnd _ => true

end Sys2Proof
end

