-- ==== Sys2Proof/Tests/Slice0.lean ====
section
/-!
SUPPORT. Tests: for every statement with hypotheses, states and operands that meet them; one step of many commands on a small state, with the
results that the named rules of spec/ give; and one ill-formed command for every check of `Instr.wf`.
-/

open Sys2Proof Sys2Proof.Machine

namespace Sys2Proof.Machine

set_option Elab.async false

/-! Small parts for the witnesses. -/

/-- The part in Run with the CORE blocks running, before a Manifest is applied. -/
def upDev : Dev := { Dev.reset with power := { PowerSt.reset with step := .up, hold := none, dram := true } }

/-- The part in Run with a Manifest applied and the runtime running. -/
def runDev : Dev := { (upDev.raise DK_STATUS_LOADED) with boot := { BootSt.reset with phase := .runtime } }

/-- A state that holds a part, with no command waiting. -/
def holds (d : Dev) : State := { pending := [], dev := d }

/-- What the outside gives at a reset's release. -/
def noBoot : BootEnv := ⟨3, false, [], []⟩

theorem witness_PowerUpGoesOn :
    (upDev.modPower fun p => { p with step := .off }).power.step = .off ∧ Dev.reset.power.step = .crystal ∧
    (let d := (upDev.modPower fun p => { p with step := .rail .vana }).setBit PW_RAIL_PEN 1; d.power.step = .rail .vana ∧ d.bitOn PW_RAIL_PEN (railPen .vana) = true ∧
        d.NothingWaits) ∧
    (let d := upDev.modPower fun p => { p with vrfWait := [3] }; d.power.step = .up ∧ (3 : Fin 6).val ∈ d.power.vrfWait) ∧
    (let d := upDev.modPower fun p => { p with step := .failed, drops := [0, 1], after := .retry }; d.power.drops = 0 :: [1] ∧ 0 < 6 ∧ d.power.after = .retry) ∧
    (let d := upDev.modPower fun p => { p with step := .failed, drops := [] }; d.power.step = .failed ∧ d.power.drops = []) ∧
    (upDev.modPower fun p => { p with asserts := [5] }).power.asserts = 5 :: [] := by
  decide +kernel

theorem witness_PllsLockAndUnlock :
    (let d := (upDev.modPower fun p => { p with step := .plls, hold := some .cold }).lower GC_STATUS_PLLA_LOCK
     d.power.step = .plls ∧ d.power.waking = false ∧ d.power.hold = some .cold ∧ d.power.resetPin = false ∧ d.on GC_STATUS_PLLA_LOCK = false ∧
     d.on GC_STATUS_PLLD_LOCK = true ∧ d.NothingWaits) ∧
    (let d := upDev.lower GC_STATUS_PLLA_LOCK
     d.power.step = .up ∧ d.rd PW_STATE_CUR = 1 ∧ d.power.waking = false ∧ d.power.hold = none ∧ d.on GC_STATUS_PLLA_LOCK = false) ∧
    (upDev.lower GC_STATUS_PLLD_LOCK).on GC_STATUS_PLLD_LOCK = false ∧
    (let d := upDev.raise GC_CFG_PLLE_EN; d.power.hold = none ∧ d.power.waking = false ∧ d.rd PW_STATE_CUR < 3 ∧ d.on GC_CFG_PLLE_EN = true ∧ d.NothingWaits) ∧
    (upDev.modPower fun p => { p with waking := true }).power.waking = true ∧
    (upDev.on GC_STATUS_PLLA_LOCK = true ∧ upDev.on GC_STATUS_PLLD_LOCK = true) ∧
    (upDev.raise GC_STATUS_PLLE_LOCK).on GC_STATUS_PLLE_LOCK = true := by
  decide +kernel

theorem witness_CapstanMeasurements :
    upDev.power.step = .up ∧ upDev.rd PW_STATE_CUR = 1 ∧ (upDev.wr PW_STATE_CUR 2).rd PW_STATE_CUR = 2 ∧ (upDev.wr PW_STATE_CUR 3).rd PW_STATE_CUR = 3 ∧ upDev.rd
        PW_STATE_CUR ≠ 4 ∧ upDev.power.step ≠ .off := by
  decide +kernel

theorem witness_PowerStatesChange :
    (runDev.pathOpen .gw0 = true ∧ runDev.power.step = .up ∧ runDev.power.hold = none ∧ runDev.rd PW_STATE_CUR = 1 ∧ runDev.rd PW_STATE_BUSY = 0 ∧
      runDev.rd GC_BOOT_BARE = 0) ∧
    (let d := runDev.modPower fun p => { p with entry := .trim }; d.coreRuns = true ∧ d.rd PW_STATE_CUR = 1 ∧ d.power.entry = .trim ∧ d.drained = true) ∧
    (let d := runDev.modPower fun p => { p with entry := .watch }; d.coreRuns = true ∧ d.power.entry = .watch ∧ d.drained = true ∧ d.power.deferred = 0) ∧
    (let d := (runDev.modPower fun p => { p with entry := .dormant }).wr PW_RAIL_PEN 15
     d.coreRuns = true ∧ d.power.entry = .dormant ∧ d.power.drops = [] ∧ d.drained = true ∧ d.bitOn PW_RAIL_PEN 0 = true ∧ d.bitOn PW_RAIL_PEN 1 = true) ∧
    (let d := runDev.wr PW_STATE_CUR 3; d.wakeEnabled .alarm = true ∧ d.power.entry = .none ∧ d.rd PW_STATE_CUR = 3 ∧ d.power.waking = false) := by
  decide +kernel

theorem witness_BusyRequestIsLocked :
    (let d := runDev.raise PW_STATE_BUSY; d.pathOpen .gw0 = true ∧ d.power.step = .up ∧ d.on PW_STATE_BUSY = true) := by
  decide +kernel

theorem witness_ResetsHoldAndRelease :
    upDev.power.step ≠ .off ∧
    (let d := (upDev.wr PW_RAIL_PEN 15).raise PW_RAIL_VCORE_OK
     d.power.step = .up ∧ d.power.hold = none ∧ d.rd PW_STATE_CUR = 1 ∧ Rail.vcore ≠ .vio ∧ d.bitOn PW_RAIL_PEN (railPen .vcore) = true ∧ d.on (railOk .vcore) = true) ∧
    (let d := (upDev.wr PW_RAIL_PEN 15).raise PW_RAIL_VIO_OK; d.bitOn PW_RAIL_PEN (railPen .vio) = true ∧ d.on PW_RAIL_VIO_OK = true) ∧
    (let d := ((upDev.wr PW_RAIL_PEN 15).raise PW_RAIL_VANA_OK).wr PW_STATE_CUR 3
     d.rd PW_STATE_CUR = 3 ∧ d.bitOn PW_RAIL_PEN (railPen .vana) = true ∧ d.on (railOk .vana) = true) ∧
    (upDev.reaches .gw0 0 = true ∧ upDev.power.softDue = none ∧ bit (0x5A01#32).toNat 0 = true ∧ bits (0x5A01#32).toNat 15 8 = 0x5A) ∧
    (bit (0x1101#32).toNat 0 = true ∧ bits (0x1101#32).toNat 15 8 ≠ 0x5A) ∧
    (let d := upDev.modPower fun p => { p with softDue := some (true, 0) }; d.power.softDue = some (true, 0) ∧ d.power.step ≠ .off ∧ d.power.hold = none) ∧
    (let d := (upDev.modPower fun p => { p with hold := some .pin }).raise PW_RAIL_VCORE_OK |>.raise PW_RAIL_VANA_OK |>.raise PW_RAIL_VDDR_OK |>.raise PW_RAIL_VIO_OK
     d.power.hold = some .pin ∧ ResetClass.pin ≠ .brown ∧ d.power.step = .up ∧ d.railsOk = true) := by
  decide +kernel

theorem witness_PowerFailAndFence :
    upDev.power.step ≠ .off ∧
    (upDev.on PW_CFG_PFAIL_PIN = true ∧ upDev.rd PW_STATUS_PFAIL = 0) ∧
    (let d := (upDev.modPower fun p => { p with vinArmed := true }).raise PW_CFG_VIN_MON
     d.on PW_CFG_VIN_MON = true ∧ d.power.vinArmed = true ∧ d.power.vrf.getD 0 0 < 4000 + 250 * d.rd PW_CFG_VIN_TRIP ∧ d.rd PW_STATUS_PFAIL = 0) ∧
    (let d := upDev.raise PW_STATUS_PFAIL; d.rd PW_STATUS_PFAIL = 1 ∧ d.on PW_CFG_VIN_MON = false ∧ d.power.fence = false ∧ d.power.hold = none) ∧
    (let d := (upDev.raise PW_STATUS_PFAIL).lower PW_CFG_PFAIL_PIN; d.rd PW_STATUS_PFAIL = 1 ∧ d.on PW_CFG_PFAIL_PIN = false ∧ d.power.fence = false) := by
  decide +kernel

/-- A small Manifest: channel 0 is a reader of 4 coils. -/
def smallManifest : Manifest :=
  { id := 1, secVersion := 0, advance := false, deck := [⟨1, 0, 0⟩], channels := [⟨1, 4, 15, 150⟩], queues := [], fabricMode := 0, ports := 0,
    rootPriority := 0, serveBoot := false, fabricId := 0, programs := [], service := [], totalLen := 64 }

/-- The part in Run with that Manifest applied. -/
def deskDev : Dev := { runDev with boot := { runDev.boot with manifest := some smallManifest } }

/-- A grant of channel 0 for 5 slots. -/
def deskGrant : Grant := ⟨.pontoon, 0, 1, 0, 5, false, 10, [], none, false⟩

/-- The part with that grant in force, and the field of channel 0 in a state. -/
def fieldDev (st : FieldState) : Dev :=
  ({ deskDev with ts := { deskDev.ts with grants := [deskGrant] } } : Dev).modField 0 fun f => { f with st := st }

theorem witness_TrackingRegulators : ((fieldDev .on).chan 0).field.lit = true ∧ ((fieldDev .supply).chan 0).field.lit = false := by decide +kernel

theorem witness_AmplitudeWrites :
    deskDev.reaches .gw0 (0x40000 + 0 * 0x2000) = true ∧
    (upDev.decl 0).maxPower < powerOf (bits (0x108#32).toNat 9 0) ∧ upDev.reaches .gw0 0x40000 = true ∧
    ((deskDev.chan 0).field.st = .off ∧ (fieldDev .rampUp).rd (CH_TX_RAMP_RAMP_ON 0) ≠ 0) ∧
    (powerOf (bits (0x108#32).toNat 9 0) ≤ (deskDev.decl 0).maxPower ∧ deskDev.fieldGrant 0 = none ∧ (deskDev.chan 0).field.next = none) ∧
    (let d := deskDev.modField 0 fun f => { f with st := .rampDown, next := some 100 }
     powerOf (bits (0x108#32).toNat 9 0) ≤ (d.decl 0).maxPower ∧ d.fieldGrant 0 = none ∧ (d.chan 0).field.next = some 100) ∧
    (let d := (fieldDev .on).wr (CH_TX_STATUS_ACTIVE_CODE 0) 560
     d.fieldGrant 0 ≠ none ∧ (d.chan 0).field.next = none ∧ bits (0x108#32).toNat 9 0 ≠ 0 ∧
       powerOf (bits (0x108#32).toNat 9 0) ≤ powerOf (d.rd (CH_TX_STATUS_ACTIVE_CODE 0)) ∧
       powerOf (bits (0x108#32).toNat 9 0) ≤ (d.decl 0).maxPower) ∧
    (let d := (fieldDev .on).wr (CH_TX_STATUS_ACTIVE_CODE 0) 100
     d.fieldGrant 0 ≠ none ∧ powerOf (d.rd (CH_TX_STATUS_ACTIVE_CODE 0)) < powerOf (bits (0x108#32).toNat 9 0)) := by decide +kernel

theorem witness_FieldRises :
    (fieldDev .supply).coreRuns = true ∧ ((fieldDev .supply).chan 0).field.boundary = false ∧
    (let d := (fieldDev .supply).modField 0 fun f => { f with boundary := true }; (d.chan 0).field.st = .supply ∧ (d.chan 0).field.boundary = true) ∧
    (let d := fieldDev .rampUp
     (d.chan 0).field.st = .rampUp ∧ (d.chan 0).field.guard = false ∧ d.rd (CH_TX_GUARD_GUARD 0) ≠ 0 ∧ (d.chan 0).job = none ∧ (d.chan 0).exch = none) ∧
    ((fieldDev .on).chan 0).field.measured = false ∧
    ((fieldDev .resetOff).grantNow 0).isSome = true ∧ (fieldDev .supply).rd (CH_TX_RAMP_RAMP_ON 0) ≠ 0 ∧
    (let d := ((fieldDev .supply).modField 0 fun f => { f with boundary := true }).wr (CH_TX_RAMP_RAMP_ON 0) 0
     (d.chan 0).field.st = .supply ∧ (d.chan 0).field.boundary = true ∧ d.rd (CH_TX_RAMP_RAMP_ON 0) = 0 ∧ d.rd (CH_TX_GUARD_GUARD 0) ≠ 0 ∧
       (d.chan 0).job = none ∧ (d.chan 0).exch = none) := by decide +kernel

theorem witness_FieldGoes :
    (let d := { fieldDev .on with time := 4500000 * 2 ^ 40 }
     d.coreRuns = true ∧ d.fieldGrant 0 = some deskGrant ∧ deskGrant.isOpen = false ∧ deskGrant.start + deskGrant.slots ≤ d.nextBoundary ∧
       (d.chan 0).field.st = .on ∧ deskGrant.owner = .pontoon ∧ d.rd (CH_TX_RAMP_RAMP_OFF 0) ≠ 0) ∧
    (((fieldDev .rampDown).chan 0).field.st = .rampDown ∧ ((fieldDev .rampDown).chan 0).field.next = none) ∧
    (((fieldDev .resetDown).chan 0).field.st = .resetDown ∧ ((fieldDev .resetDown).chan 0).field.thenOff = false) := by decide +kernel

theorem witness_GrantsAreRequestedAndEnd :
    (deskDev.reaches .gw0 0x38000 = true ∧ deskDev.ts.asm.find? (·.1 = Path.gw0) = none) ∧
    (let d := { deskDev with ts := { deskDev.ts with asm := [(Path.gw0, 0x00200005#32)] } }
     d.ts.asm.find? (·.1 = Path.gw0) = some (Path.gw0, 0x00200005#32) ∧ bits (0x00200005#32).toNat 31 27 < 24 ∧ d.fwRequests < 16 ∧ d.reader 0 = true ∧
       bits (0x00200005#32).toNat 26 21 < d.coils 0 ∧ bit (0x00200005#32).toNat 20 = false ∧ bits (0x00200005#32).toNat 7 0 ≠ 0 ∧
       d.excluded (berthOf 0 1) = false) ∧
    (let e := ({ deskDev with out := [] } : Dev).reach (deskDev.boundaryAfterLead 150 * 1000000 - 150000)
     deskDev.coreRuns = true ∧ e.grantsAllowed = true ∧ e.surveying = false) ∧
    (let d := { deskDev with ts := { deskDev.ts with selInit := [(0, deskDev.boundaryAfterLead 100)] } }
     d.applied = true ∧ d.rd (CH_SEL_CFG_LEAD (4 * 0)) = 100 ∧
       (({ d with out := [] } : Dev).reach (d.boundaryAfterLead 100 * 1000000 - 100 * 1000)).frameDue 0 (d.boundaryAfterLead 100) = true) ∧
    ((fieldDev .on).grantNow 0 = some deskGrant ∧ deskGrant.isOpen = false) := by decide +kernel

/-- The part in Run with its boot ROM at a step of the boot. -/
def bootDev (f : BootSt → BootSt) : Dev := { upDev with boot := f BootSt.reset }

/-- A directory entry on trial, and one confirmed. -/
def trialEntry : DirEntry := { slotOffset := 0x10000, slotSize := 0x100000, sequence := 5, profile := 3, attempts := 7, confirm := 0xFF }
def settledEntry : DirEntry := { trialEntry with sequence := 4, confirm := 0 }

/-- A command that is offered through the mailbox. -/
def offered (code : Nat) (payload : List Byte) : SvcCmd := ⟨.mailbox, code, 7, payload, true, (0, 0)⟩

/-- The part with one service command there. -/
def withOffer (d : Dev) (c : SvcCmd) : Dev := d.modSv fun v => { v with waiting := [c] }

/-- What makes a service command served, as it can be evaluated. -/
def offers (d : Dev) (via : Via) (code : Nat) (c : SvcCmd) : Bool :=
  decide (d.sv.waiting = [c]) && decide (d.sv.running = []) && decide (c.via = via) && decide (c.code = code) && c.lenOk &&
    decide ((payloadLens code).1 ≤ c.payload.length) && decide (c.payload.length ≤ (payloadLens code).2) && d.runtime

/-- The same in Bare deck, through the mailbox. -/
def offersBare (d : Dev) (code : Nat) (c : SvcCmd) : Bool :=
  decide (d.sv.waiting = [c]) && decide (d.sv.running = []) && decide (c.via = .mailbox) && decide (c.code = code) && c.lenOk &&
    decide ((payloadLens code).1 ≤ c.payload.length) && decide (c.payload.length ≤ (payloadLens code).2) && d.bareServes && bareCode code

theorem witness_BootAppliesOnlyCheckedImages :
    (let d := bootDev fun b => { b with phase := .fetch, source := 1 }
     d.coreRuns = true ∧ d.on GC_STATUS_PLLD_LOCK = true ∧ d.boot.phase = .fetch ∧ d.boot.source = 1 ∧ d.boot.keepDeck = false ∧ d.boot.tried = [] ∧ d.boot.others = []) ∧
    (let d := (bootDev fun b => { b with phase := .reload, source := 1 }).wr GC_MANIFEST_ID_ID smallManifest.id
     d.coreRuns = true ∧ d.on GC_STATUS_PLLD_LOCK = true ∧ d.boot.phase = .reload ∧ d.boot.source = 1 ∧ smallManifest.id = d.rd GC_MANIFEST_ID_ID ∧
       smallManifest.id + 1 ≠ d.rd GC_MANIFEST_ID_ID) ∧
    (let d := bootDev fun b => { b with phase := .apply, source := 3, manifest := some smallManifest }
     d.coreRuns = true ∧ d.boot.phase = .apply ∧ d.boot.manifest = some smallManifest ∧ smallManifest.fabricMode ≠ 2 ∧ d.boot.keepDeck = false ∧
       d.boot.source = 3 ∧ d.boot.tried = []) ∧
    (let d := (bootDev fun b => { b with phase := .recover }).raise GC_BOOT_BARE; d.coreRuns = true ∧ d.boot.phase = .recover ∧ d.on GC_BOOT_BARE = true) ∧
    (let d := ((bootDev fun b => { b with phase := .recover }).lower GC_BOOT_BARE).modPower fun p => { p with trimDue := true }
     d.coreRuns = true ∧ d.boot.phase = .recover ∧ d.on GC_BOOT_BARE = false ∧ d.power.trimDue = true) := by decide +kernel

theorem witness_NeighbourBoot :
    (let d := (bootDev fun b => { b with phase := .fetch, source := 4, port := 2 }).wr (HSP_STATUS_LINK 2) lUP
     d.bootsOn 2 = true ∧ d.on GC_STATUS_PLLD_LOCK = true ∧ d.dramWait = [] ∧ d.boot.keepDeck = false ∧ d.boot.tried = [] ∧ d.coreRuns = true ∧
       d.boot.phase = .fetch ∧ d.boot.source = 4 ∧ d.boot.port < 3 ∧ (d.lower GC_STATUS_PLLD_LOCK).bootsOn 2 = true ∧
       (d.lower GC_STATUS_PLLD_LOCK).on GC_STATUS_PLLD_LOCK = false) ∧
    (let d := (bootDev fun b => { b with phase := .reload, source := 4, port := 2 }).wr (HSP_STATUS_LINK 2) lUP
     d.bootsOn 2 = true ∧ d.boot.phase = .reload) ∧
    (let d := ({ deskDev with boot := { deskDev.boot with staged := (0, 512) } } : Dev).wr (HSP_STATUS_LINK 1) lBOOT_PEER |>.raise HS_MCFG_SERVE_BOOT
     d.applied = true ∧ d.link 1 = lBOOT_PEER ∧ d.runtime = true ∧ d.on HS_MCFG_SERVE_BOOT = true ∧ d.boot.staged.2 ≠ 0) := by decide +kernel

theorem witness_BootServices :
    (let bare := (bootDev fun b => { b with phase := .bare }).raise GC_BOOT_BARE
     let c := offered 0x10 (zeros 4 ++ leBytes 4 512)
     offersBare (withOffer bare (offered 1 [])) 1 (offered 1 []) = true ∧ offersBare (withOffer bare (offered 2 [])) 2 (offered 2 []) = true ∧
     offersBare (withOffer bare c) 0x10 c = true ∧ bare.runtime = false ∧ 0 < le32At c.payload 4 ∧ le32At c.payload 0 + le32At c.payload 4 ≤ stagingLen) ∧
    (let c := offered 0x10 (zeros 8); offers (withOffer deskDev c) .mailbox 0x10 c = true) ∧
    (let d := { deskDev with boot := { deskDev.boot with dirA := some settledEntry, dirB := some trialEntry } }.wr GC_BOOT_SOURCE 1
     let c := offered 0x11 ([1#8, 0#8, 0#8, 0#8] ++ zeros 4 ++ leBytes 4 512)
     offers (withOffer d c) .mailbox 0x11 c = true ∧ u8At c.payload 0 < 2 ∧ d.rd GC_BOOT_SOURCE ≠ u8At c.payload 0 + 1 ∧ 0 < le32At c.payload 8 ∧
       le32At c.payload 4 + le32At c.payload 8 ≤ stagingLen ∧ d.dirEntry (d.rd GC_BOOT_SOURCE) = some settledEntry ∧
       d.dirEntry (u8At c.payload 0 + 1) = some trialEntry ∧ settledEntry.sequence + 1 < 0xFFFFFFFF) ∧
    (let d := { deskDev with boot := { deskDev.boot with dirA := some trialEntry } }.wr GC_BOOT_SOURCE 1
     let c := offered 0x12 []
     offers (withOffer d c) .mailbox 0x12 c = true ∧ d.dirEntry (d.rd GC_BOOT_SOURCE) = some trialEntry ∧ d.boot.manifest = some smallManifest ∧
       trialEntry.confirm = 0xFF ∧ (d.wr GC_BOOT_SOURCE 2).dirEntry ((d.wr GC_BOOT_SOURCE 2).rd GC_BOOT_SOURCE) = none) ∧
    (let c := offered 0x1F [1#8]; offers (withOffer deskDev c) .mailbox 0x1F c = true ∧ (withOffer deskDev c).power.softDue = none) := by decide +kernel

/-- An exchange under way on channel 0, with a reply expected. -/
def deskExch : Exch :=
  { frame := fReqa false, ref := 3, sent := false, late := false, lateOct := 0, retries := 0, wtx := 0, wtxm := 0, lastBlock := fReqa false, ctx := 15,
    deadline := some 1000, withdrawn := false, csOct := 0, placed := 0, air := [], fmtCount := 0 }

/-- A frame with no bits, as the receiver decoded it. -/
def quietFrame : RxFrame := { slices := [], stops := 0, noEof := false, sbAmp := 0, phase := 0, delay := 7, mses := [] }

/-- The part with that exchange, the receiver in a state and the sequencer in a state. -/
def rxDev (rx seq : Nat) : Dev :=
  ((fieldDev .on).modChan 0 fun c => { c with exch := some deskExch, rx := { c.rx with armed := true, cur := { c.rx.cur with level := 40 } } }).wr
    (CH_RX_STATUS_STATE 0) rx |>.wr (CH_FT_STATUS_SEQ 0) seq

theorem witness_ReceiverFollowsFrames :
    (let d := rxDev 1 4
     d.coreRuns = true ∧ (d.chan 0).exch = some deskExch ∧ d.rd (CH_RX_STATUS_STATE 0) = 1 ∧ (d.chan 0).rx.armed = true ∧ deskExch.deadline = some 1000 ∧ 900 ≤ 1000 ∧
       d.overThreshold 0 (40#8).toNat (160#8).toNat = true ∧ d.blanked 0 900 = false ∧ d.overThreshold 0 (159#8).toNat (160#8).toNat = false) ∧
    (let d := rxDev 2 5
     d.rd (CH_RX_STATUS_STATE 0) = 2 ∧ (d.chan 0).rx.aged = false ∧ (30#8).toNat + 6 ≤ (d.chan 0).rx.cur.level ∧ (d.chan 0).rx.cur.level < (38#8).toNat + 6 ∧
       (d.chan 0).rx.overload = false ∧ (d.chan 0).rx.ended = false ∧ d.rd (CH_RX_STATUS_STATE 0) ∈ [2, 3, 4]) ∧
    (rxDev 4 5).rd (CH_RX_STATUS_STATE 0) = 4 := by decide +kernel

theorem witness_ReceiverMeasurements :
    (let d := (fieldDev .off).raise (CH_SEL_STATUS_ON 0)
     d.coreRuns = true ∧ (d.chan 0).field.lit = false ∧ d.on (CH_SEL_STATUS_ON 0) = true ∧ d.rd PW_STATE_CUR ≠ 2) ∧
    (let g : Grant := { deskGrant with listeners := [⟨2, 3, 5⟩] }
     let d := ({ deskDev with ts := { deskDev.ts with grants := [g] } } : Dev).raise (CH_SEL_STATUS_ON 2) |>.wr (CH_SEL_STATUS_COIL 2) 3
     let d := d.modRx 0 fun r => { r with window := some [1#32, 2#32, 3#32] }
     d.grantNow 0 = some g ∧ (d.chan 0).rx.window = some [1#32, 2#32, 3#32] ∧ d.ms < 5 ∧ d.reader 2 = false ∧ g.listeners.find? (·.ch = 2) = some ⟨2, 3, 5⟩ ∧
         d.selected 2 = 3 ∧ d.on (CH_SEL_STATUS_ON 2) = true) ∧
    ((rxDev 1 4).reaches .gw0 0x40000 = true ∧ (rxDev 1 4).rd (CH_RX_STATUS_STATE 0) < 2) ∧
    (2 ≤ (rxDev 3 5).rd (CH_RX_STATUS_STATE 0) ∧ (rxDev 3 5).rd (CH_RX_STATUS_STATE 0) ≤ 5) := by decide +kernel

/-- The same exchange with a frame of another class. -/
def classExch (c : CmdClass) : Exch := { deskExch with frame := { deskExch.frame with cls := c } }

/-- A raw exchange as a Pontoon's command. -/
def rawJob : CmdSt :=
  { cmd := { opcode := 3, tag := 1, args := [] }, ctx := 15, gen := 0, step := .raw, toSend := [], data := [], ra := [], rb := [], sm := none,
    begun := true, repeat_ := false, notReceived := false, chaining := false, build := Ctx.free }

theorem witness_SequencerRunsExchanges :
    (let d := rxDev 0 2
     d.coreRuns = true ∧ (d.chan 0).exch = some deskExch ∧ lostSession (d.chan 0) = none ∧ d.rd (CH_FT_STATUS_SEQ 0) = 2 ∧ deskExch.late = false ∧
       (d.chan 0).mayBeLate deskExch = false) ∧
    (let d := (rxDev 0 2).modChan 0 fun c => { c with job := some (.cmd rawJob) }
     (d.chan 0).exch = some deskExch ∧ lostSession (d.chan 0) = none ∧ d.rd (CH_FT_STATUS_SEQ 0) = 2 ∧ (d.chan 0).mayBeLate deskExch = true) ∧
    (let d := (rxDev 0 2).modChan 0 fun c => { c with exch := some { deskExch with late := true } }
     (d.chan 0).exch = some { deskExch with late := true } ∧ lostSession (d.chan 0) = none ∧ d.rd (CH_FT_STATUS_SEQ 0) = 2) ∧
    ((rxDev 0 3).rd (CH_FT_STATUS_SEQ 0) = 3 ∧ deskExch.withdrawn = false ∧ deskExch.frame.cls ≠ .none ∧ deskExch.frame.cls ≠ .fOther) ∧
    (((rxDev 0 3).modChan 0 fun c => { c with exch := some (classExch .fOther) }).rd (CH_FT_STATUS_SEQ 0) = 3 ∧ (classExch .fOther).frame.cls = .fOther) ∧
    ((rxDev 1 4).rd (CH_FT_STATUS_SEQ 0) = 4 ∧ (rxDev 1 4).rd (CH_RX_STATUS_STATE 0) = 1 ∧ ((rxDev 1 4).chan 0).heard = false ∧ deskExch.eofDue = false ∧ (classExch
        .vWrite).eofDue = true) ∧
    (let d := (rxDev 5 5).modRx 0 fun r => { r with frame := some quietFrame }
     (d.chan 0).rx.frame = some quietFrame ∧ (d.chan 0).exch = some deskExch ∧ d.rd (CH_RX_STATUS_STATE 0) = 5 ∧ d.rd (CH_FT_STATUS_SEQ 0) = 5) ∧
    (let d := ((fieldDev .on).modField 0 fun f => { f with guard := true }).modChan 0 fun c =>
       { c with exch := some { deskExch with ctx := 2 }, ctx := vmod c.ctx 2 fun _ => { Ctx.free with sfgt := true } }
     ((d.chan 0).context 2).sfgt = true ∧ (d.chan 0).building.any (·.sfgt) = false ∧ (d.chan 0).exch = some { deskExch with ctx := 2 } ∧ (d.chan 0).field.st = .on ∧
         (d.chan 0).field.guard = true) := by
  decide +kernel

/-- A command of channel 0. -/
def askCmd (op : Nat) (args : List Word) : PCmd := { opcode := op, tag := 9, args := args }

/-- The part with that command at the head of the queue of channel 0, and context 2 of a protocol in a state. -/
def askDev (op : Nat) (args : List Word) (proto st : Nat) : Dev :=
  (fieldDev .on).modChan 0 fun c =>
    { c with queue := [askCmd op args], ctx := vmod c.ctx 2 fun _ => { Ctx.free with proto := proto, st := st, fsc := 32, id := [1, 2, 3, 4], cid := 1 } }

/-- Does the command stand at the head, as `Dev.Heads` asks? -/
def standsAtHead (d : Dev) (op : Nat) (cmd : PCmd) : Bool :=
  decide ((d.chan 0).queue = cmd :: [] ∧ cmd.opcode = op ∧ cmd.valid = true ∧ (d.chan 0).job = none ∧ d.mayTake = true ∧ d.reader 0 = true)

/-- The command that channel 0 runs while others wait. -/
def busyJob : Job := .cmd (mkCmd (askCmd 3 [0x20000004#32, 0#32]) 2 Ctx.free .data)

theorem witness_CommandWords :
    deskDev.reaches .gw0 (0x40000 + 0 * 0x2000) = true ∧
    (let d := deskDev.modChan 0 fun c => { c with asm := [(.gw0, [], 2)] }
     ((d.chan 0).asm.find? (·.1 = Path.gw0)).getD (.gw0, [], 0) = (.gw0, [], 2)) ∧
    (((deskDev.chan 0).asm.find? (·.1 = Path.gw0)).getD (.gw0, [], 0) = (.gw0, [], 0) ∧ (deskDev.chan 0).queue.length < 16 ∧
      (deskDev.chan 0).queueWords + 1 + bits (wordAt ([] ++ [0x05010009#32]) 0) 23 16 ≤ 1024 ∧ ([] : List Word).length < bits (wordAt ([] ++ [0x05010009#32]) 0) 23 16) ∧
    (let d := deskDev.modChan 0 fun c => { c with asm := [(.gw0, [0x05010009#32], 0)], job := some busyJob }
     ((d.chan 0).asm.find? (·.1 = Path.gw0)).getD (.gw0, [], 0) = (.gw0, [0x05010009#32], 0) ∧
       bits (wordAt ([0x05010009#32] ++ [0x20000000#32]) 0) 23 16 ≤ [0x05010009#32].length ∧ (d.chan 0).job.isSome = true) ∧
    (let d := deskDev.modChan 0 fun c => { c with queue := List.replicate 16 (askCmd 7 []) }; 16 ≤ (d.chan 0).queue.length) := by decide +kernel

theorem witness_RoundAndResetCommands :
    (let cmd := askCmd 1 [0x10000101#32, 0#32]
     let d := askDev 1 [0x10000101#32, 0#32] 1 1
     standsAtHead d 1 cmd ∧ bits cmd.w1 31 28 = 1 ∧ bits cmd.w1 27 22 = 0 ∧ 0 < d.coils 0 ∧ bits cmd.w1 15 8 ≠ 0 ∧ bits cmd.w1 7 0 ≠ 0 ∧
       bit (d.decl 0).protocols 0 = true) ∧
    (standsAtHead (askDev 7 [] 1 1) 7 (askCmd 7 []) ∧ ((askDev 7 [] 1 1).chan 0).field.st = .on) ∧
    (let d := (askDev 7 [] 1 1).modField 0 fun f => { f with st := .off }; standsAtHead d 7 (askCmd 7 []) ∧ (d.chan 0).field.st ≠ .on) := by decide +kernel

theorem witness_SessionCommands :
    (let cmd := askCmd 2 [0x20000000#32]
     bits cmd.w1 31 28 = 2 ∧ bits cmd.w1 7 4 ≤ 8 ∧ bits cmd.w1 3 0 ≤ 6 ∧
     (let d := askDev 2 [0x20000000#32] 1 1
      standsAtHead d 2 cmd ∧ ((d.chan 0).context 2).leaving = false ∧ ((d.chan 0).context 2).st = 1 ∧ ((d.chan 0).context 2).proto = 1 ∧
        (upTo 8).all (fun j => ((d.chan 0).context j).st != 2) = true) ∧
     (let d := (askDev 2 [0x20000000#32] 1 1).modCtx 0 0 fun c => { c with proto := 1, st := 2 }
      standsAtHead d 2 cmd ∧ ((d.chan 0).context 0).proto = 1 ∧ ((d.chan 0).context 0).st = 2) ∧
     standsAtHead (askDev 2 [0x20000000#32] 2 4) 2 cmd ∧ standsAtHead (askDev 2 [0x20000000#32] 3 4) 2 cmd) ∧
    (standsAtHead (askDev 3 [0x28000002#32, 7#32] 1 2) 3 (askCmd 3 [0x28000002#32, 7#32]) ∧ bits (askCmd 3 [0x28000002#32, 7#32]).w1 15 0 ≠ 0 ∧
      bit (askCmd 3 [0x28000002#32, 7#32]).w1 27 = true) ∧
    (standsAtHead (askDev 3 [0x20000002#32, 7#32] 1 3) 3 (askCmd 3 [0x20000002#32, 7#32]) ∧ bit (askCmd 3 [0x20000002#32, 7#32]).w1 27 = false) ∧
    (standsAtHead (askDev 4 [0x20000000#32] 1 3) 4 (askCmd 4 [0x20000000#32]) ∧ standsAtHead (askDev 4 [0x20000000#32] 1 2) 4 (askCmd 4 [0x20000000#32]) ∧
      standsAtHead (askDev 4 [0x20000000#32] 3 2) 4 (askCmd 4 [0x20000000#32])) ∧
    standsAtHead (askDev 5 [0x20000000#32] 1 1) 5 (askCmd 5 [0x20000000#32]) := by decide +kernel

theorem witness_SessionsMigrate :
    (let cmd := askCmd 6 [0x20800000#32]
     let d := ({ askDev 6 [0x20800000#32] 1 1 with
       boot := { deskDev.boot with manifest := some { smallManifest with channels := [⟨1, 4, 15, 150⟩, ⟨1, 4, 15, 150⟩] } } } : Dev).modField 1 fun f => { f with st
           := .on }
     (d.chan 0).migrateReady = some (cmd, []) ∧ d.mayTake = true ∧ (d.chan 0).job = none ∧ bits cmd.w1 31 28 = 2 ∧ bits cmd.w1 27 23 = 1 ∧
       migrateRefusal 0 2 1 ((d.chan 0).context 2) d = none ∧ (d.chan 1).freeCtx = some 0 ∧ ((d.chan 0).context 2).st ≠ 3) ∧
    migrateRefusal 0 2 1 (((askDev 6 [0x20800000#32] 1 1).chan 0).context 2) (askDev 6 [0x20800000#32] 1 1) ≠ none := by decide +kernel

theorem witness_CancelTakesAQueuedCommand :
    let d := (fieldDev .on).modChan 0 fun c => { c with job := some busyJob, queue := [askCmd 5 [0x20000000#32], { askCmd 8 [9#32] with tag := 10 }] }
    d.mayTake = true ∧ (d.chan 0).job.isSome = true ∧
      takeFirst (fun c => c.opcode == 8 && c.valid) (d.chan 0).queue = some ({ askCmd 8 [9#32] with tag := 10 }, [askCmd 5 [0x20000000#32]]) ∧
      takeFirst (·.tag == bits ({ askCmd 8 [9#32] with tag := 10 } : PCmd).w1 15 0) [askCmd 5 [0x20000000#32]] = some (askCmd 5 [0x20000000#32], []) := by
  decide +kernel

theorem witness_SecureSessionCommands :
    (let cmd := askCmd 0x10 [0x20030000#32]
     let d := ({ askDev 0x10 [0x20030000#32] 1 3 with
       cy := { CySt.reset with slots := vmod CySt.reset.slots 3 fun _ => some ⟨1, 16, 0, zeros 16⟩ }
           } : Dev).raise CY_TRNG_READY |>.raise CY_TAMPER_LOOP0_OK |>.raise CY_TAMPER_LOOP1_OK
     standsAtHead d 0x10 cmd ∧ ((d.chan 0).context 2).st = 3 ∧ d.keySlot (bits cmd.w1 21 16) = some ⟨1, 16, 0, zeros 16⟩ ∧ d.loopsClosed = true ∧ d.entropy = true ∧
       bits cmd.w1 31 28 = 2 ∧ ((d.chan 0).context 2).leaving = false) ∧
    (let cmd := askCmd 0x11 [0x20000001#32, 0#32, 0#32, 0#32]
     let d := (askDev 0x11 [0x20000001#32, 0#32, 0#32, 0#32] 1 3).modCtx 0 2 fun c => { c with sm := some ⟨zeros 16, zeros 16, 5, 3, 0, false⟩ }
     standsAtHead d 0x11 cmd ∧ bits cmd.w1 15 0 ≤ 239 ∧ bits (wordAt cmd.args 2) 8 0 ≤ 256 ∧ ((d.chan 0).context 2).sm = some ⟨zeros 16, zeros 16, 5, 3, 0, false⟩) ∧
    (let d := (askDev 0x12 [0x20000000#32] 1 3).modCtx 0 2 fun c => { c with sm := some ⟨zeros 16, zeros 16, 5, 3, 0, false⟩ }
     standsAtHead d 0x12 (askCmd 0x12 [0x20000000#32]) ∧ ((d.chan 0).context 2).sm.isSome = true) := by decide +kernel

/-- The small Manifest with a survey engine. -/
def surveyDev : Dev :=
  { deskDev with boot := { deskDev.boot with manifest := some { smallManifest with deck := [⟨1, 0, 0⟩, ⟨4, 0, 4⟩], channels := [⟨1, 4, 15, 150⟩, ⟨1, 4, 15, 150⟩] } } }

/-- The part with a survey in a state. -/
def surveyAt (st : Nat) (f : SurveySt → SurveySt) : Dev := (surveyDev.modSurvey f).wr TS_STATUS_SURVEY st

theorem witness_SlotBoundaries : surveyDev.coreRuns = true ∧ surveyDev.ts.grants = [] ∧ surveyDev.rd TC_INC_INC ≠ 0 := by decide +kernel

theorem witness_OneDeviceSurveysRun :
    (surveyDev.reaches .gw0 0x38000 = true ∧ bits (0x2108#32).toNat 9 0 ≠ 0 ∧ bits (0x2108#32).toNat 13 10 ≠ 0 ∧ bit (0x2108#32).toNat 29 = false ∧
      surveyDev.on TS_SURVEY_GO = false ∧ surveyDev.surveying = false ∧ surveyDev.rd PW_STATE_CUR = 1 ∧ surveyDev.engine = true ∧
      (surveyDev.readerBerths.any fun b => decide ((surveyDev.decl (b / 64)).maxPower < powerOf (bits (0x2108#32).toNat 9 0))) = false) ∧
    ((surveyAt 3 id).surveying = true ∧ (surveyAt 3 id).ts.grants = [] ∧ (surveyAt 3 id).reaches .gw0 0x38000 = true) ∧
    ((surveyAt 1 id).rd TS_STATUS_SURVEY = 1 ∧ (surveyAt 1 id).ts.grants = []) ∧
    (let d := surveyAt 3 fun x => { x with pos := 1, sources := [1], len := 4 }
     d.listening 1 = true ∧ (10#8).toNat + 12 ≤ (40#8).toNat ∧ d.ts.survey.pos = 1) ∧
    (let d := (surveyAt 3 fun x => { x with pos := 3, sources := [1], len := 4 }).raise (CH_SEL_STATUS_ON 1) |>.wr (CH_SEL_STATUS_COIL 1) 1
     d.listening 1 = true ∧ 2 ≤ d.ts.survey.pos ∧ d.selected 1 = d.ts.survey.pos - 2 ∧ d.on (CH_SEL_STATUS_ON 1) = true) ∧
    (surveyAt 5 id).rd TS_STATUS_SURVEY = 5 := by decide +kernel

theorem witness_CrossSurveysRun :
    (let d := (surveyDev.raise TS_STATUS_NB_VALID).raise TS_CFG_XEN
     d.coreRuns = true ∧ d.on TS_STATUS_NB_VALID = true ∧ d.surveying = false ∧ d.on TS_SURVEY_GO = false ∧ d.on TS_CFG_XEN = true ∧
       d.on TC_STATUS_HOLDOVER = false ∧ d.engine = true) ∧
    (surveyAt 2 id).rd TS_STATUS_SURVEY = 2 ∧
    (let d := surveyAt 3 fun x => { x with cross := true }
     d.rd TS_STATUS_SURVEY = 3 ∧ d.ts.survey.cross = true ∧ d.ts.survey.initiator = true ∧ d.ts.survey.sources = [] ∧ d.ts.survey.again = []) ∧
    (surveyAt 0 fun x => { x with waiting := true }).ts.survey.waiting = true := by decide +kernel

/-- A cross survey at the peer whose blocks wait for their own carriers. -/
def peerSurvey : Dev := surveyAt 4 fun x => { x with initiator := false, cross := true, closed := [(5, false, []), (6, true, [])] }

theorem witness_CrossSurveysRun_blocks :
    peerSurvey.rd TS_STATUS_SURVEY = 4 ∧ peerSurvey.ts.survey.initiator = false ∧ peerSurvey.ts.survey.repeating = false ∧
    peerSurvey.ts.survey.closed.map (·.2.1) = [false, true] := by decide +kernel

theorem witness_NeighbourTablesAndAttribution :
    surveyDev.reaches .gw0 0x38000 = true ∧ surveyDev.berthExists (bits (0x3#32).toNat 10 0) = true ∧ surveyDev.surveying = false ∧
    bit (0x3#32).toNat 30 = false ∧ bit (0x3#32).toNat 31 = false ∧ surveyDev.engine = true ∧ ((surveyDev.modChan 0 fun c => { c with clean := true }).chan 0).clean =
        true ∧ (surveyDev.chan 0).job = none := by decide +kernel

theorem witness_SniffsDetectCards :
    let d := (surveyDev.wr PW_STATE_CUR 3).raise (PW_WK_ENT_EN 7)
    d.rd PW_STATE_CUR = 3 ∧ d.power.waking = false ∧ d.on (PW_WK_ENT_EN 7) = true ∧ d.excluded (d.rd (PW_WK_ENT_BERTH 7)) = false ∧
    (d.detector 7).learned < 3 ∧ d.sniffDue 7 = none ∧ ({ d with ts := { d.ts with burst := [7], sniffAt := 9 } } : Dev).sniffDue 7 = some 9 ∧
    (let e := { d with ts := { d.ts with detectors := [⟨7, 4, 100, 0⟩], burst := [7], sniffAt := 9 } }
     e.sniffDue 7 = some 9 ∧ 4 ≤ (e.detector 7).learned ∧ e.rd (PW_WK_ENT_THR 7) ≤ (max ((200 : Int) - (e.detector 7).baseline) ((e.detector 7).baseline - 200)).toNat ∧
       (e.detector 7).streak + 1 < e.rd PW_WK_CFG_CONFIRM) ∧
    (let e := { d with ts := { d.ts with detectors := [⟨7, 4, 100, 5⟩], resniff := [(7, 9)] } }
     e.sniffDue 7 = some 9 ∧ e.rd PW_WK_CFG_CONFIRM ≤ (e.detector 7).streak + 1 ∧ e.on PW_WK_STATUS_LEARNING = false ∧ e.on (PW_WK_ENT_TRIPPED 7) = false) := by
         decide +kernel

/-- The part with its tamper loops closed, the entropy source ready, and words written to CY_KDATA. -/
def keyDev (inp : List Word) : Dev :=
  (({ runDev with cy := { CySt.reset with inp := inp } } : Dev).raise CY_TRNG_READY).raise CY_TAMPER_LOOP0_OK |>.raise CY_TAMPER_LOOP1_OK |>.lower CY_TRNG_STARTUP

/-- The same part with a key in slot 3 that wraps, and one in slot 4 that may leave the part. -/
def keyedDev (inp : List Word) : Dev :=
  { keyDev inp with cy := { (keyDev inp).cy with slots := vmod (vmod CySt.reset.slots 3 fun _ => some ⟨4, 0, 0, zeros 16⟩) 4 fun _ => some ⟨0x81, 0, 0, zeros 16⟩ } }

/-- The words of a plain key for slot 5. -/
def plainWords : List Word := [0x00000105#32, 0#32] ++ List.replicate 8 7#32

theorem witness_KeyCommandsFillSlots :
    (let d := keyDev plainWords |>.wr GC_BOOT_KEYMODE 2
     d.reaches .gw0 0x30000 = true ∧ d.on CY_KSTATUS_BUSY = false ∧ d.loopsClosed = true ∧ d.keySlot 5 = none ∧ headerOk 1 0 = true ∧ headerOk 0xFF 0 = false ∧
         d.entropy = true ∧
       d.cy.tamperAt ≠ some d.time ∧ ((wordsToBytes d.cy.inp).drop 4).take 4 = zeros 4 ∧
       10 ≤ d.cy.inp.length ∧ d.rd GC_BOOT_KEYMODE = 2 ∧ headerOk (u8At (wordsToBytes d.cy.inp) 1) (u8At (wordsToBytes d.cy.inp) 2) = true ∧
       (recordKey 5 ⟨5, 0, 0, 1⟩ (wordsToBytes d.cy.inp)).isSome = true) ∧
    (let d := keyedDev (List.replicate 60 0#32)
     d.keySlot 5 = none ∧ 60 ≤ d.cy.inp.length ∧ d.keySlot 3 = some ⟨4, 0, 0, zeros 16⟩ ∧ bit 4 2 = true ∧ d.reaches .gw0 0x30000 = true) := by decide +kernel

theorem witness_KeyCommandsUseSlots :
    (keyedDev []).reaches .gw0 0x30000 = true ∧ (keyedDev []).cy.inp.length < 64 ∧ 64 ≤ (keyedDev (List.replicate 64 0#32)).cy.inp.length ∧
    (keyedDev []).on CY_KSTATUS_BUSY = false ∧ (keyedDev []).cy.tamperAt ≠ some (keyedDev []).time ∧ (keyedDev []).keySlot 4 = some ⟨0x81, 0, 0, zeros 16⟩ ∧ bit 0x81
        7 = true ∧
    (keyedDev []).keySlot 3 = some ⟨4, 0, 0, zeros 16⟩ ∧ (keyedDev []).entropy = true := by decide +kernel

theorem witness_FuseKeyBurns :
    (let inp : List Word := [0x0000010B#32] ++ List.replicate 10 5#32
     let d := (keyDev inp |>.wr GC_BOOT_KEYMODE 2).wr GC_UNITID_ID 0x0000000500000005
     let bs := wordsToBytes d.cy.inp
     d.reaches .gw0 0x30000 = true ∧ d.on CY_KSTATUS_BUSY = false ∧ d.on PW_STATUS_PFAIL = false ∧ d.cl.burn = none ∧ d.cy.tamperAt ≠ some d.time ∧ 11 ≤ d.cy.inp.length ∧
       d.rd GC_BOOT_KEYMODE = 2 ∧ u8At bs 0 = 0x0B ∧ u8At bs 1 < 4 ∧ le16At bs 2 = 0 ∧ (bs.drop 4).take 8 = d.unitBytes ∧
       (d.hashFuse (u8At bs 1)).valid = false ∧ (d.hashFuse (u8At bs 1)).damaged = false) ∧
    (let inp : List Word := [0x0000010C#32] ++ List.replicate 34 5#32
     let f : FuseKey := ⟨zeros 32, true, false, false⟩
     let d := { (keyDev inp).wr GC_UNITID_ID 0x0000000500000005 with fuses := { Fuses.blank with hash := vmod (vmod Fuses.blank.hash 1 fun _ => f) 2 fun _ => f } }
     let bs := wordsToBytes d.cy.inp
     35 ≤ d.cy.inp.length ∧ u8At bs 0 = 0x0C ∧ u8At bs 1 < 4 ∧ le16At bs 2 = 0 ∧ (bs.drop 4).take 8 = d.unitBytes ∧ (d.hashFuse (u8At bs 1)).valid = true ∧
       (d.hashFuse (u8At bs 1)).revoked = false ∧
       ((upTo 4).any fun k => k != u8At bs 1 && (d.hashFuse k).valid && !(d.hashFuse k).revoked) = true) ∧
    (let d := keyDev (List.replicate 60 0#32); 60 ≤ d.cy.inp.length ∧ d.fuses.mkey.valid = false ∧ d.fuses.mkey.damaged = false) ∧
    (let d := (keyDev []).modCy fun c => { c with burn := some ⟨0x0B, 1, zeros 32⟩ }; d.cy.burn = some ⟨0x0B, 1, zeros 32⟩) := by decide +kernel

theorem witness_TamperResponse :
    (let d := (keyDev []).modCy fun c => { c with doneAt := some 0, tamperAt := some 0 }
     d.cy.doneAt = some d.time ∧ d.cy.tamperAt = some d.time ∧ d.reaches .gw0 0x30000 = true ∧ d.on CY_KSTATUS_BUSY = false) ∧
    (keyDev []).power.step ≠ .off ∧ (keyDev []).cy.miss0 < 3 ∧ (keyDev []).coreRuns = true := by decide +kernel

theorem witness_EntropySource :
    ((keyDev []).coreRuns = true ∧ (keyDev []).on CY_TRNG_HALT = false ∧ (keyDev []).on CY_TRNG_READY = true) ∧
    (let d := (keyDev []).raise CY_TRNG_STARTUP; d.on CY_TRNG_STARTUP = true ∧ d.rd CY_TRNG_FAILS < 3) ∧
    (let d := ((keyDev []).raise CY_TRNG_STARTUP).wr CY_TRNG_FAILS 3; d.rd CY_TRNG_FAILS = 3) ∧
    1024 ≤ ((keyDev []).modCy fun c => { c with requests := 1024 }).cy.requests := by decide +kernel

/-- The part with queue 3 of 128 words on the host's side, in a state. -/
def queueDev (q : Queue) : Dev := ((runDev.wr (LQN_POOL_SIZE 3) 2).wr (LQN_CFG_CONSUMER 3) 1).modQ 3 fun _ => q

/-- A stored item of two words. -/
def twoWords : Entry := ⟨.item 0x20 0 [7], false, false⟩

theorem witness_QueuesDeliverItems :
    (let q := { Queue.empty with waiting := [twoWords] }; let d := queueDev q
     d.q 3 = q ∧ q.stalled = [] ∧ q.fits (d.qSize 3) 2 = true ∧ d.reaches .gw0 0x20000 = true ∧ d.taken 3 = [] ∧ d.isConsumer .gw0 3 = true ∧
       q.heldGap = none ∧ 0 < twoWords.words.length ∧ d.isConsumer .pilot 3 = false) ∧
    (let q := { Queue.empty with waiting := List.replicate 50 twoWords }; let d := queueDev q
     d.q 3 = q ∧ d.qSize 3 < q.used + 40 + 2 ∧ q.used + 1 ≤ d.qSize 3 ∧ q.mark = false ∧ mergeGap q.waiting q.nextIn = none) ∧
    (let q := { Queue.empty with stalled := [⟨.gw0, 1, false, none, 0⟩] }; (queueDev q).q 3 = q ∧ q.stalled = ⟨.gw0, 1, false, none, 0⟩ :: []) ∧
    ((queueDev Queue.empty).qSize 3 ≠ 0 ∧ (queueDev Queue.empty).rd LQ_STALL_STALL ≠ 0 ∧ ((queueDev Queue.empty).wr LQ_STALL_STALL 0).rd LQ_STALL_STALL = 0 ∧
      (queueDev Queue.empty).isConsumer .gw0 3 = true) := by decide +kernel

theorem witness_QueueCommands :
    (let d := (queueDev Queue.empty).wr (LQN_POOL_SIZE 26) 1
     d.reaches .gw0 0x20000 = true ∧ mayPush .gw0 26 = true ∧ d.qSize 26 ≠ 0 ∧ ((d.q 26).buf .gw0).absorb = 0 ∧ ((d.q 26).buf .gw0).words = [] ∧
       2 ≤ bits (0x20010000#32).toNat 23 15 ∧ bits (0x20010000#32).toNat 23 15 ≤ 256 ∧ 0x20 ≤ bits (0x20010000#32).toNat 31 24 ∧
       bits (0x20000000#32).toNat 23 15 = 0 ∧ mayPush .gw0 3 = false ∧
       (let d := d.modQ 26 fun q => { q with push := [⟨.gw0, [0x20010000#32], 0⟩] }
        ((d.q 26).buf .gw0).words = 0x20010000#32 :: [] ∧ (d.q 26).stalled = [] ∧ (d.q 26).fits (d.qSize 26) 2 = true)) ∧
    (let q := { Queue.empty with waiting := [{ twoWords with begun := true }], popped := 1 }; let d := queueDev q
     d.q 3 = q ∧ q.mid = true ∧ q.heldGap = none ∧ d.isConsumer .gw0 3 = true ∧ d.isConsumer .pilot 3 = false ∧ d.reaches .pilot 0x20000 = true) ∧
    (let q := { Queue.empty with mark := true, retained := [twoWords] }; let d := queueDev q
     d.q 3 = q ∧ q.mark = true ∧ q.mid = false ∧ q.stalled = [] ∧ d.qSize 3 ≠ 0) ∧
    ((queueDev Queue.empty).rd (LQN_CFG_CONSUMER 3) = bits (0x81000010#32).toNat 31 31 ∧ bits (0x81000010#32).toNat 19 0 ≤ 524288 ∧
      bits (0x10#32).toNat 31 31 ≠ (queueDev Queue.empty).rd (LQN_CFG_CONSUMER 3)) := by decide +kernel

/-- The part with the runtime's state changed. -/
def svDev (f : SvSt → SvSt) : Dev := deskDev.modSv f

theorem witness_CommandsArrive :
    deskDev.reaches .gw0 0x34000 = true ∧ deskDev.on SV_MBOX_STATUS_BUSY = false ∧
    deskDev.sv.mboxIn.length + 1 < bits (wordAt (deskDev.sv.mboxIn ++ [0x50018000#32]) 0) 23 15 ∧
    (let d := svDev fun v => { v with mboxIn := [0x50018000#32, 0x00390007#32] }
     bits (wordAt (d.sv.mboxIn ++ [0#32]) 0) 23 15 ≤ d.sv.mboxIn.length + 1 ∧ d.runtime = true ∧
       listedCode (svcOfWords .mailbox (d.sv.mboxIn ++ [0#32])).code = true ∧ d.sv.waiting = [] ∧ d.sv.running = []) ∧
    (deskDev.raise SV_MBOX_STATUS_BUSY).on SV_MBOX_STATUS_BUSY = true ∧
    (let d := svDev fun v => { v with cores := vmod v.cores 2 fun _ => some 0 }
     d.runtime = true ∧ (vget d.sv.cores 2 none).isSome = true ∧ d.sv.waiting = [] ∧ d.sv.running = [] ∧ listedCode 0x39 = true) ∧
    (let c := offered 0x48 [0x00#8, 0x00#8, 0x0C#8, 0x03#8]
     let d := svDev fun v => { v with waiting := [c] }
     d.sv.waiting = [c] ∧ d.sv.running = [] ∧ c.via = .mailbox ∧ c.code = 0x48 ∧ c.lenOk = true ∧ (payloadLens 0x48).1 ≤ c.payload.length ∧
       c.payload.length ≤ (payloadLens 0x48).2 ∧ d.runtime = true ∧ c.payload.length % 4 = 0 ∧ d.on CY_KSTATUS_BUSY = false ∧
       (kcmdWrite .pilot 3 3 0 0 0 (d.serving c)).on CY_KSTATUS_BUSY = false) := by decide +kernel

theorem witness_JournalAndTimers :
    (let d := svDev fun v => { v with todo := [.count] }
     d.mayCommit = true ∧ d.sv.todo = Work.count :: [] ∧ (buildWork .count ({ d with out := [] } : Dev)).1.isSome = true ∧ d.journalFits 64 = true ∧
       d.sv.jpos + 64 ≤ journalSize) ∧
    (let r : JRecord := ⟨1, [(0, [5#8])], 64, [], none⟩
     let d := svDev fun v => { v with committed := [r] }
     d.runtime = true ∧ d.power.fence = false ∧ d.sv.committed = r :: [] ∧ r.post = none ∧ r.replies = []) ∧
    (let x : Sighting := ⟨[], 0, 0, 0x7FF, false, 0, 15, [], 1⟩
     let d := svDev fun v => { v with held := [(4, x)] }
     d.sv.held = (4, x) :: []) ∧
    ((deskDev.raise CY_KSTATUS_DIRTY).on CY_KSTATUS_DIRTY = true ∧ deskDev.sv.todo = [] ∧ (deskDev.raise TS_STATUS_NB_DIRTY).on TS_STATUS_NB_DIRTY = true ∧
      (deskDev.raise CL_STATUS_COUNT_DIRTY).on CL_STATUS_COUNT_DIRTY = true ∧ (deskDev.setBit (CE_INST_DIRTY_BLOCKS 2 1) 5).dirtyBlocks 2 ≠ []) := by
  decide +kernel

/-- A registry record in use, of a tag that is present, in class 1. -/
def presentRecord : List Byte :=
  let r := [1#8, 0x17#8] ++ zeros 10 ++ zeros 4 ++ [1#8, 0#8] ++ zeros 13 ++ [1#8] ++ zeros 28
  r ++ leBytes 4 (crc32 r)

/-- The part with that record first, and a policy of 5 s for its class. -/
def registryDev : Dev :=
  { deskDev with mem := (Memory.write (Memory.write [] mramBase presentRecord) (mramBase + serviceAt 2) ([2#8, 0#8, 24#8, 0#8, 0#8, 0#8, 0#8, 0#8] ++ zeros 8 ++ [0#8, 5#8, 0#8])) }

theorem witness_absenceTimeout :
    registryDev.runtime = true ∧ recState (registryDev.vread 0 64) = 1 ∧ u8At (registryDev.vread 0 64) 0x1F = 1 ∧
    le16At (registryDev.policy (le16At (registryDev.vread 0 64) 0x10)) 1 ≠ 0 := by decide +kernel

/-- The part with a journal that has no room for one more record. -/
def fullJournal : Dev :=
  { (svDev fun v => { v with todo := [.cmd (offered 0x61 ([3#8, 0#8, 0#8, 0#8] ++ zeros 4))], jpos := 64 }) with
      mem := Memory.write [] (mramBase + controlAt + 8) (leBytes 4 128) }

theorem witness_journalWaitExpiry :
    fullJournal.mayCommit = true ∧
    (buildWork (.cmd (offered 0x61 ([3#8, 0#8, 0#8, 0#8] ++ zeros 4))) ({ fullJournal with out := [] }.modSv fun v => { v with todo := [] })).1.isSome = true ∧
    fullJournal.journalFits (recordLen [(serviceAt 3, [3#8, 0#8, 0#8, 0#8] ++ zeros 4)]) = false := by decide +kernel

theorem witness_RegistryReadCommands :
    (let c := offered 0x20 (zeros 12); offers (withOffer deskDev c) .mailbox 0x20 c = true ∧ ((withOffer deskDev c).lookup (c.payload.take 11)).1 = none) ∧
    (let c := offered 0x20 (0x17#8 :: zeros 11)
     let r := [1#8, 0x17#8] ++ zeros 58
     let key := c.payload.take 11
     let d := withOffer { deskDev with mem := Memory.write [] (mramBase + 64 * homeIndex key) (r ++ leBytes 4 (crc32 r)) } c
     offers d .mailbox 0x20 c = true ∧ (d.lookup key).1 = some (homeIndex key)) ∧
    (let c := offered 0x23 (zeros 12); offers (withOffer deskDev c) .mailbox 0x23 c = true ∧ le16At c.payload 4 = 0) ∧
    (let c := offered 0x23 (zeros 4 ++ [15#8] ++ zeros 7); offers (withOffer deskDev c) .mailbox 0x23 c = true ∧ 14 < le16At c.payload 4) ∧
    (let c := offered 0x23 (zeros 4 ++ [14#8] ++ zeros 3 ++ [0xFF#8, 0x07#8] ++ zeros 2)
     offers (withOffer deskDev c) .mailbox 0x23 c = true ∧ 1 ≤ le16At c.payload 4 ∧ le16At c.payload 4 ≤ 14 ∧ le32At c.payload 0 < registrySize ∧
       le16At c.payload 8 = 0x7FF) ∧
    (let c := offered 0x23 (zeros 4 ++ [14#8] ++ zeros 3 ++ [0xFF#8, 0x05#8] ++ zeros 2); let d := withOffer deskDev c
     offers d .mailbox 0x23 c = true ∧ le16At c.payload 4 ≠ 0 ∧ le16At c.payload 8 ≠ 0x7FF ∧ d.berthExists (le16At c.payload 8) = false) ∧
    (let c := offered 0x26 (zeros 8); offers (withOffer deskDev c) .mailbox 0x26 c = true ∧ le32At c.payload 4 = 0) ∧
    (let c := offered 0x26 (zeros 4 ++ leBytes 4 65536)
     offers (withOffer deskDev c) .mailbox 0x26 c = true ∧ 0 < le32At c.payload 4 ∧ le32At c.payload 4 ≤ 65536 ∧ le32At c.payload 0 + le32At c.payload 4 ≤ registrySize) ∧
    (let c := offered 0x24 []; offers (withOffer deskDev c) .mailbox 0x24 c = true) := by decide +kernel

theorem witness_JournalledCommandsWait :
    (let c := offered 0x21 (0x11#8 :: zeros 23 ++ [0xFF#8, 0x07#8] ++ zeros 12)
     offers (withOffer deskDev c) .mailbox 0x21 c = true ∧ keyOk (c.payload.take 12) = true ∧ putFieldsOk (withOffer deskDev c) (c.payload.drop 16) = true) ∧
    (let c := offered 0x21 (zeros 17 ++ [1#8] ++ zeros 20); offers (withOffer deskDev c) .mailbox 0x21 c = true ∧ putFieldsOk (withOffer deskDev c) (c.payload.drop
        16) = false) ∧
    (let c := offered 0x22 (zeros 16); offers (withOffer deskDev c) (.mailbox) 0x22 c = true) ∧
    (let c := offered 0x25 (leBytes 2 255); offers (withOffer deskDev c) .mailbox 0x25 c = true ∧ le16At c.payload 0 ≤ 255) ∧
    (let c := offered 0x25 (leBytes 2 256); offers (withOffer deskDev c) .mailbox 0x25 c = true ∧ 255 < le16At c.payload 0) ∧
    (let c := offered 0x30 (leBytes 2 255 ++ zeros 8); offers (withOffer deskDev c) .mailbox 0x30 c = true ∧ le16At c.payload 0 ≤ 255) ∧
    (let c := offered 0x30 (leBytes 2 256 ++ zeros 8); offers (withOffer deskDev c) .mailbox 0x30 c = true ∧ 255 < le16At c.payload 0) ∧
    (let c := offered 0x50 [23#8, 7#8, 1#8, 0#8]
     offers (withOffer deskDev c) .mailbox 0x50 c = true ∧ u8At c.payload 0 < 24 ∧ u8At c.payload 1 < 8 ∧ u8At c.payload 2 < 2 ∧ u8At c.payload 3 = 0) ∧
    (let c := offered 0x50 [24#8, 7#8, 1#8, 0#8]; offers (withOffer deskDev c) .mailbox 0x50 c = true ∧ 24 ≤ u8At c.payload 0) ∧
    (let c := offered 0x61 ([1#8, 0#8, 4#8, 0#8, 0#8, 0#8, 0#8, 0#8] ++ leBytes 4 60000)
     let d := withOffer deskDev c
     offers d .mailbox 0x61 c = true ∧ 1 ≤ le16At c.payload 0 ∧ le16At c.payload 0 ≤ 4 ∧ c.payload.length = 8 + roundUp (le16At c.payload 2) 4 ∧
       le16At c.payload 4 < 2 ∧ le16At c.payload 6 = 0 ∧ leNat ((c.payload.drop 8).take (le16At c.payload 2)) ≤ 60000 ∧ d.forced (le16At c.payload 0) = false ∧
       (let d := { d with boot := { d.boot with manifest := some { smallManifest with service := [1#8, 0#8, 0#8, 0#8, 1#8, 0#8, 0#8, 0#8] } } }
        d.forced (le16At c.payload 0) = true)) := by decide +kernel

theorem witness_ResidentServices :
    (let c := offered 0x31 (leBytes 2 255); offers (withOffer deskDev c) .mailbox 0x31 c = true ∧ le16At c.payload 0 ≤ 255) ∧
    (let c := offered 0x31 (leBytes 2 256); offers (withOffer deskDev c) .mailbox 0x31 c = true ∧ 255 < le16At c.payload 0) ∧
    (let c := offered 0x38 (zeros 8 ++ [16#8]); offers (withOffer deskDev c) .mailbox 0x38 c = true ∧ 15 < u8At c.payload 8) ∧
    (let c := offered 0x38 (zeros 8 ++ [15#8]); offers (withOffer deskDev c) .mailbox 0x38 c = true ∧ 1 ≤ u8At c.payload 8 ∧ u8At c.payload 8 ≤ 15) ∧
    (let c := offered 0x39 []; offers (withOffer deskDev c) .mailbox 0x39 c = true) ∧
    (let c := offered 0x60 [1#8, 0#8]
     let d := withOffer deskDev c
     let d := { d with boot := { d.boot with manifest := some { smallManifest with service := [1#8, 0#8, 0#8, 0#8, 1#8, 0#8, 0#8, 0#8] } } }
     offers d .mailbox 0x60 c = true ∧ d.serviceRecord (le16At c.payload 0) = some (1, [])) ∧
    (let c := offered 0x40 [32#8, 1#8]; offers (withOffer deskDev c) .mailbox 0x40 c = true ∧ 32 ≤ u8At c.payload 0) ∧
    (let c := offered 0x40 [31#8, 1#8]
     offers (withOffer deskDev c) .mailbox 0x40 c = true ∧ u8At c.payload 0 < 32 ∧ u8At c.payload 1 < 2 ∧ ((withOffer deskDev c).q (u8At c.payload 0)).mid = false) ∧
    (let c := offered 0x48 (zeros 5); offers (withOffer deskDev c) .mailbox 0x48 c = true ∧ c.payload.length % 4 ≠ 0) ∧
    (let c := offered 0x48 (zeros 4); offers (withOffer deskDev c) .mailbox 0x48 c = true ∧ c.payload.length % 4 = 0 ∧ (deskDev.raise CY_KSTATUS_BUSY).on
        CY_KSTATUS_BUSY = true) ∧
    (let c := offered 0x58 ([3#8] ++ zeros 15)
     let d := withOffer deskDev c
     offers d .mailbox 0x58 c = true ∧ 0 < u8At c.payload 0 ∧ u8At c.payload 0 < 4 ∧ (c.payload.drop 1).take 7 = zeros 7 ∧ d.boot.manifest = some smallManifest ∧
       smallManifest.programs.any (fun p => bit p.cores (u8At c.payload 0)) = false ∧ vget d.sv.cores (u8At c.payload 0) none = none ∧
       ({ smallManifest with programs := [⟨2, 8, 0, 0, []⟩] } : Manifest).programs.any (fun p => bit p.cores (u8At c.payload 0)) = true) := by decide +kernel

/-- The part with the Tideclock's source chosen, and with its beacons' way known. -/
def srcDev (v : Nat) : Dev := deskDev.wr TC_CFG_SRC v
def hawserTime : Dev := ((srcDev 2).raise HS_UPSTREAM_VALID).wr HS_UPSTREAM_PORT 1

theorem witness_OffsetsAndSteps :
    (srcDev 1).reaches .gw0 0x4000 = true ∧ (srcDev 1).rd TC_CFG_SRC = 1 ∧ ((srcDev 1).lower TC_STATUS_SET).on TC_STATUS_SET = false ∧
    ((srcDev 1).raise TC_STATUS_SET).on TC_STATUS_SET = true ∧
    toSigned 64 (join64 ((srcDev 1).staged .gw0 0x4040 0) (0xFFFFFFFF#32).toNat) < 0 ∧
    ((srcDev 1).rd TC_JUMP_LIMIT_LIMIT * 65536 : Nat) < toSigned 64 (join64 ((srcDev 1).staged .gw0 0x4040 0) (0x7FFFFFFF#32).toNat) ∧
    toSigned 64 (join64 ((srcDev 1).staged .gw0 0x4040 0) (0#32).toNat) ≤ ((srcDev 1).rd TC_JUMP_LIMIT_LIMIT * 65536 : Nat) ∧
    toSigned 64 (((srcDev 1).wr TC_STEP_NS 5).rd TC_STEP_NS) * 2 ^ 40 ≠ 0 ∧ 0 ≤ (((srcDev 1).time : Int) + 5 * 2 ^ 40) ∧
    toSigned 64 ((srcDev 1).rd TC_STEP_NS) * 2 ^ 40 = 0 ∧
    (let d := { (srcDev 1).wr TC_STEP_NS (2 ^ 64 - 5) with time := 2 ^ 60 }
     toSigned 64 (d.rd TC_STEP_NS) * 2 ^ 40 < 0 ∧ 0 ≤ (d.time : Int) + toSigned 64 (d.rd TC_STEP_NS) * 2 ^ 40 ∧ d.on TC_CFG_ALLOW_BACK = false ∧
       (d.raise TC_CFG_ALLOW_BACK).on TC_CFG_ALLOW_BACK = true) ∧
    ((srcDev 1).modTc fun t => { t with held := some (-3) }).tc.held = some (-3) ∧ ((srcDev 1).modTc fun t => { t with held := some 3 }).tc.held = some 3 ∧
    (srcDev 1).tc.held = none ∧ (srcDev 1).on TC_STATUS_HOLDOVER = false ∧ (srcDev 0).rd TC_CFG_SRC = 0 ∧
    bits (0x80000000#32).toNat 31 30 ≠ 3 ∧ bits (0x80000000#32).toNat 31 30 ≠ (srcDev 1).rd TC_CFG_SRC ∧ bits (0xC0000000#32).toNat 31 30 = 3 ∧
    join64 ((srcDev 1).staged .gw0 0x4060 ((srcDev 1).rd TC_MASTER_ID % 2 ^ 32)) (1#32).toNat ≠ (srcDev 1).rd TC_MASTER_ID := by decide +kernel

theorem witness_TimeEventsHappen :
    (hawserTime.applied = true ∧ hawserTime.rd TC_CFG_SRC = 2 ∧ hawserTime.on HS_UPSTREAM_VALID = true ∧ hawserTime.rd HS_UPSTREAM_PORT = 1 ∧
      hawserTime.tc.dlyPort ≠ some 1 ∧ (hawserTime.wr (HSP_STATUS_LINK 2) lUP).link 2 = lUP ∧ hawserTime.power.step ≠ .off ∧
      hawserTime.on TC_STATUS_HOLDOVER = false) ∧
    (let d := (deskDev.wr PW_STATE_CUR 3).wr (TC_PULSE_START_SEC_LO_SEC 0) 100
     d.time < d.pulseStart 0 * 2 ^ 40 ∧ d.wakeEnabled .alarm = true ∧ d.power.entry = .none ∧ d.rd PW_STATE_CUR = 3 ∧ d.power.waking = false) ∧
    ((deskDev.raise (TC_PULSE_STAT_ACTIVE 3)).on (TC_PULSE_STAT_ACTIVE 3) = true ∧
      ((deskDev.modPulse 3 fun x => { x with high := true }).pulse 3).high = true) ∧
    (let d := (deskDev.raise (TC_CAP_CFG_EN 3)).wr (TC_CAP_CFG_EDGE 3) 3
     d.on (TC_CAP_CFG_EN 3) = true ∧ bit (d.rd (TC_CAP_CFG_EDGE 3)) 0 = true ∧ bit (d.rd (TC_CAP_CFG_EDGE 3)) 1 = true ∧ (d.cap 3).quietUntil ≤ d.time ∧
       (d.cap 3).buf.length < 4) ∧
    (let x : Bool × List Word := (true, [])
     let d := deskDev.modTc fun t => { t with caps := vmod t.caps 3 fun c => { c with buf := [x, x, x, x] } }
     4 ≤ (d.cap 3).buf.length ∧ (d.cap 3).buf = x :: [x, x, x] ∧ d.blockRuns 0x20000 = true) ∧
    (let d := (deskDev.wr (TC_PULSE_WIDTH_NS 2) 10).wr (TC_PULSE_START_SEC_LO_SEC 2) 100
     d.reaches .gw0 0x4000 = true ∧ d.on (TC_PULSE_STAT_ACTIVE 2) = false ∧ bit (0x80000000#32).toNat 31 = true ∧ bit (0x80000000#32).toNat 30 = false ∧
       d.rd (TC_PULSE_WIDTH_NS 2) ≠ 0 ∧ d.rd (TC_PULSE_PERIOD_NS 2) = 0 ∧ d.time + 1000 * 2 ^ 40 ≤ d.pulseStart 2 * 2 ^ 40 ∧
       (d.wr (TC_PULSE_START_SEC_LO_SEC 2) 0).pulseStart 2 * 2 ^ 40 < d.time + 1000 * 2 ^ 40 ∧
       d.rd (TC_PULSE_WIDTH_NS 2) + 5 ≤ (d.wr (TC_PULSE_PERIOD_NS 2) 15).rd (TC_PULSE_PERIOD_NS 2) ∧
       (d.wr (TC_PULSE_PERIOD_NS 2) 14).rd (TC_PULSE_PERIOD_NS 2) < d.rd (TC_PULSE_WIDTH_NS 2) + 5 ∧
       bit (0x40000000#32).toNat 31 = false ∧ bits (0x40000000#32).toNat 0 0 = d.rd (TC_PULSE_CTL_POL 2) ∧ bit (0x40000000#32).toNat 30 = true) := by
  decide +kernel

/-- The part with a Manifest applied and a link in a state. -/
def linkDev (p st : Nat) : Dev := deskDev.wr (HSP_STATUS_LINK p) st

/-- The part in a fabric: port 2 up, an address, a root, a phase of discovery. -/
def fabricDev (disc role : Nat) : Dev :=
  (((((linkDev 2 lUP).wr HS_STATUS_MODE 1).wr HS_STATUS_DISC disc).wr HS_STATUS_ROLE role).wr HS_STATUS_ADDR 5).wr HS_ROOT_ID 77

/-- The same with a valid address and a route to address 9 by port 2. -/
def routedDev : Dev := ((fabricDev 3 1).raise HS_STATUS_ADDR_VALID).modHs fun h => { h with routes := [⟨9, 1, 1, 9, 2⟩] }

/-- A retry window's frame, and a link frame as received. -/
def sentFrame (n : Nat) : TxFrame := ⟨n, false, 0x3FF, zeros 216, [], true, 0⟩
def gotFrame (kind : Fin 16) (n a : Byte) : LinkFrame := ⟨kind, n, a, false, false, 0x3FF, zeros 216⟩

theorem witness_LinksTrainAndCarry :
    (deskDev.power.linkDue = false ∧ deskDev.coreRuns = true ∧ (linkDev 3 lDETECT).link 3 = lDETECT ∧ ((linkDev 3 lDETECT).port 3).holdoff = false ∧
      (linkDev 3 lTRAIN).link 3 = lTRAIN ∧ (linkDev 3 lALIGN).link 3 = lALIGN ∧ (linkDev 3 lEXCHANGE).link 3 = lEXCHANGE ∧
      (linkDev 3 lEXCHANGE).marksBooting 3 = false ∧
      ({ linkDev 3 lEXCHANGE with boot := { (linkDev 3 lEXCHANGE).boot with phase := .reload, source := 4, port := 3 } } : Dev).marksBooting 3 = true ∧ (linkDev 3
          lFOREIGN).link 3 = lFOREIGN ∧ (linkDev 3 lBOOT_PEER).link 3 = lBOOT_PEER ∧
      (linkDev 3 lUP).reaches .gw0 0x8000 = true ∧ (linkDev 3 lUP).link 3 ≠ lOFF ∧ (linkDev 3 lUP).carries 3 = true) ∧
    (let d := linkDev 3 lUP
     let x := d.port 3
     x.failed < 31 ∧ (gotFrame 1 0 0).fseq.toNat = x.expect ∧ x.window = [] ∧ d.hs.reply = none ∧ d.ts.outbox = [] ∧ d.hs.serving = none ∧ x.times = [] ∧
       x.nakDue = false ∧ x.window.drop x.cursor = [] ∧ x.control.busy = false ∧ x.message.busy = false) ∧
    (let d := (linkDev 3 lUP).modPort 3 fun x => { x with window := [sentFrame 4, sentFrame 5] }
     (d.port 3).window.findIdx? (·.fseq = (gotFrame 0 0 5).ack.toNat) = some 1 ∧ (d.port 3).window = sentFrame 4 :: [sentFrame 5] ∧
       (sentFrame 4).resent < d.rd (HSP_CFG_RETRY_MAX 3)) ∧
    (let d := (linkDev 3 lUP).modPort 3 fun x => { x with message := ⟨[(1, zeros 20)], (0, [])⟩ }
     (d.port 3).message.busy = true ∧ (d.port 3).window.length < 64 ∧ (d.port 3).control.busy = false) := by decide +kernel

theorem witness_DiscoveryAndRouting :
    ((fabricDev 1 0).applied = true ∧ (fabricDev 1 0).rd HS_STATUS_DISC = 1 ∧ (fabricDev 1 0).rd HS_STATUS_MODE = 1 ∧ (fabricDev 1 0).link 2 = lUP ∧
      (fabricDev 1 0).rd HS_STATUS_ROLE ≠ 2) ∧
    (let d := (fabricDev 1 0).modHs fun h => { h with cand := (9, 500, 0) }
     better (8, 77, 0) d.hs.cand = true ∧ d.hs.cand = (9, 500, 0) ∧ 500 < 2 ^ 64 ∧ 500 ≠ d.rd GC_UNITID_ID ∧ (d.wr GC_UNITID_ID 500).rd GC_UNITID_ID = 500 ∧
       d.hs.bindings = [] ∧ d.on HS_STATUS_ADDR_VALID = false) ∧
    ((fabricDev 3 2).rd HS_STATUS_ROLE = 2 ∧ (fabricDev 3 2).choose 88 none = some 0 ∧ (fabricDev 2 1).rd HS_STATUS_DISC = 2 ∧
      (fabricDev 3 1).hs.bindings.any (fun x => x.unit == 88 && x.addr == 4) = false) ∧
    (let l : Lsa := ⟨4, 88, 6, [], none, 0⟩
     let d := (fabricDev 3 1).modHs fun h => { h with lsas := [l] }
     (fabricDev 3 1).hs.lsas.find? (fun x => decide (x.unit = 88)) = none ∧ d.hs.lsas.find? (fun x => decide (x.unit = 88)) = some l ∧ 6 ≤ l.seq ∧
       88 ≠ d.rd GC_UNITID_ID) ∧
    ((fabricDev 2 1).on HS_STATUS_ADDR_FULL = false ∧ (fabricDev 2 1).rd HS_STATUS_FAILS < 7 ∧ (fabricDev 3 1).power.linkDue = false ∧ (fabricDev 3 1).hs.orphans = []) ∧
    (let b : Binding := ⟨88, 4, false, 0, 0⟩
     ((fabricDev 3 1).modHs fun h => { h with bindings := [b] }).hs.bindings.find? (fun x => x.addr == 4 && !x.present) = some b) ∧
    ((fabricDev 3 1).reaches .gw0 0x8000 = true ∧ ((fabricDev 3 1).wr HS_MCFG_MODE 1).rd HS_MCFG_MODE = 1) ∧
    (let d := (linkDev 1 lUP).wr HS_STATUS_MODE 2; d.rd HS_STATUS_MODE = 2 ∧ d.link 1 = lUP ∧ d.on GC_STRAP_CASCADE_MASTER = false ∧ d.followsChain 1 true = true) :=
        by decide +kernel

/-- The words of a packet to address 9, with no payload, and of one that is out of range. -/
def sendWords : List Word := [0x00908000#32]

theorem witness_HawserPackets :
    (routedDev.applied = true ∧ routedDev.reaches .gw0 0x8000 = true ∧ ([0x00988004#32] : List Word).length < 2 + (min (bits (wordAt [0x00988004#32] 0) 11 0) 4095 +
        3) / 4) ∧
    (let d := routedDev.modHs fun h => { h with asm := [(.gw0, sendWords)] }
     let ws := ((d.hs.asm.find? (·.1 = Path.gw0)).map (·.2)).getD [] ++ [0x11000000#32]
     2 + (min (bits (wordAt ws 0) 11 0) 4095 + 3) / 4 ≤ ws.length ∧ bits (wordAt ws 0) 11 0 ≤ 1008 ∧ bits (wordAt ws 0) 16 12 = 8 ∧
       bit (wordAt ws 0) 17 = false ∧ bits (wordAt ws 0) 31 20 = 9 ∧ d.on HS_STATUS_ADDR_VALID = true ∧ d.rd HS_STATUS_MODE ≠ 0 ∧ 9 ≠ d.rd HS_STATUS_ADDR ∧
       d.nextHop 9 = some 2 ∧ d.link 2 = lUP ∧ d.room 2 false 16 = true ∧ (d.lower HS_STATUS_ADDR_VALID).on HS_STATUS_ADDR_VALID = false ∧
       bits (wordAt [0x00900000#32, 0#32] 0) 16 12 ≠ 8 ∧ bits (wordAt [0x00900000#32, 0#32] 0) 16 12 ≠ 3) ∧
    (let d := routedDev.modPort 2 fun x => { x with arrived := [zeros 16] }; (d.port 2).arrived = zeros 16 :: []) ∧
    (let rd := (⟨3, 5, 0, false, 9, 4, 1, 0, leBytes 4 0 ++ [1#8, 0#8, 0#8, 0#8]⟩ : Packet).bytes
     let wr := (⟨3, 5, 0, false, 9, 4, 2, 0, leBytes 4 0x5010 ++ [1#8, 0#8, 0#8, 0#8] ++ zeros 4⟩ : Packet).bytes
     let d := ((routedDev.raise HS_CFG_REMOTE_RD).raise HS_CFG_REMOTE_WR).modHs fun h => { h with regs := [(2, rd)] }
     d.hs.regs = (2, rd) :: [] ∧ d.hs.reply = none ∧ (parsePacket rd).typ = 1 ∧ d.on HS_CFG_REMOTE_RD = true ∧ u8At (parsePacket rd).body 4 = 1 ∧
       (d.lower HS_CFG_REMOTE_RD).on HS_CFG_REMOTE_RD = false ∧ (parsePacket wr).typ = 2 ∧ d.on HS_CFG_REMOTE_WR = true ∧ u8At (parsePacket wr).body 4 = 1 ∧
       ((parsePacket wr).body.drop 8).length = 4 * u8At (parsePacket wr).body 4 ∧ (d.lower HS_CFG_REMOTE_WR).on HS_CFG_REMOTE_WR = false) ∧
    (let d := (routedDev.wr HS_STATUS_ROLE 2).raise GC_CFG_LINK_RESET_OK
     d.nextHop 9 = some 2 ∧ d.link 2 = lUP ∧ ¬ (d.on HS_STATUS_ADDR_VALID = true ∧ 9 = d.rd HS_STATUS_ADDR) ∧ (d.port 2).control.waitingBytes + 24 ≤ 65536 ∧
       d.rd HS_STATUS_ROLE = 2 ∧ 77 = d.rd HS_ROOT_ID ∧ d.on GC_CFG_LINK_RESET_OK = true ∧ routedDev.rd HS_STATUS_ROLE < 2 ∧ d.power.linkDue = false ∧ 78 ≠ d.rd
           HS_ROOT_ID) ∧
    (routedDev.modHs fun h => { h with resetAt := some 5 }).hs.resetAt = some 5 := by decide +kernel

/-- A Manifest that places emulation instance 0 on channel 4, with 2 coils. -/
def emuManifest : Manifest :=
  { smallManifest with deck := [⟨1, 0, 0⟩, ⟨3, 4, 8⟩], channels := [⟨1, 4, 15, 150⟩, ⟨0, 0, 0, 0⟩, ⟨0, 0, 0, 0⟩, ⟨0, 0, 0, 0⟩, ⟨2, 2, 1, 150⟩] }

/-- The part with that Manifest applied and an image whose header is right. -/
def emuBase : Dev :=
  { deskDev with boot := { deskDev.boot with manifest := some emuManifest }, shadow := [(0, 0xCE#8), (1, 0x01#8)] }

/-- Instance 0 enabled in the phone's field with a grant, in a card state. -/
def emuDev (st : Nat) : Dev :=
  (((emuBase.raise (CE_INST_CFG_EN 0)).raise (CE_INST_STATUS_FIELD 0)).raise (CE_INST_STATUS_GRANT 0)).wr (CE_INST_STATUS_STATE 0) st

/-- The same with the instance changed. -/
def emuWith (st : Nat) (f : CeInst → CeInst) : Dev := (emuDev st).modCe 0 f

/-- The 7 bits of REQA and WUPA. -/
def shortBits (v : Nat) : List Bool := (upTo 7).map fun i => bit v i

theorem witness_EmulationFollowsThePhone :
    (let d := emuBase.raise (CE_INST_STATUS_FIELD 0); d.coreRuns = true ∧ d.on (CE_INST_STATUS_FIELD 0) = true ∧ d.on (CE_INST_STATUS_GRANT 0) = false) ∧
    (let d := { emuDev 0 with shadow := [(0, 0xCE#8), (1, 0x01#8), (2, 2#8)] }; d.ceState 0 = 0 ∧ d.img 0 2 = 2 ∧ d.on (CE_INST_STATUS_GRANT 0) = true) ∧
    (let d := emuBase.raise (CE_INST_CFG_EN 0)
     d.ceChan 0 = some 4 ∧ d.on (CE_INST_CFG_EN 0) = true ∧ d.on (CE_INST_STATUS_FIELD 0) = false ∧ (d.chan 4).field.lit = false ∧ d.grantNow 4 = none ∧ d.listening 4
         = false ∧ 0 ≤ 50 * d.rd (CE_INST_CFG_FIELD_THR 0) ∧
       d.on (CE_INST_STATUS_GRANT 0) = false ∧ d.ts.reqs.any (·.owner == Owner.emulation 0) = false) ∧
    ((emuDev 3).on (CE_INST_STATUS_FIELD 0) = true ∧ 50 * (emuDev 3).rd (CE_INST_CFG_FIELD_THR 0) + 300 < 5000 ∧ ((emuDev 3).gwp 0).held = [] ∧ ((emuDev 3).gwp
        1).held = [] ∧ (emuDev 3).ceState 0 = 3) ∧
    ((shortBits 0x26).length = 7 ∧ packLsb (shortBits 0x26) = 0x26 ∧ packLsb (shortBits 0x52) = 0x52 ∧ (emuDev 1).ceState 0 = 1 ∧ (emuDev 4).ceState 0 = 4 ∧
      (0x80#8).toNat % 16 ≠ 15) ∧
    (let d := { emuWith 3 fun c => { c with lostAt := some 0 } with time := 10000000 * 2 ^ 40 }; (d.inst 0).lostAt = some 0 ∧ 0 + 10000000 ≤ d.ns) ∧
    (let d := (emuDev 3).raise PW_STATE_BUSY; d.preempts = true ∧ (d.inst 0).txn = none ∧ (d.inst 0).lostAt = none) ∧
    (let d := emuWith 7 fun c => { c with reply := some [true], toHalt := true }; (d.inst 0).reply = some [true] ∧ (d.inst 0).newRate = none ∧ (d.inst 0).toHalt =
        true ∧ (d.inst 0).guardAt = none) ∧
    (let t : FieldTxn := ⟨[0, 2], [(600, 7#8)]⟩
     let d := emuWith 7 fun c => { c with txn := some t, status := true }
     (d.inst 0).txn = some t ∧ (d.inst 0).status = true ∧ (d.inst 0).host = [] ∧ t.writes ≠ []) ∧
    (let d := (emuWith 7 fun c => { c with fwd := some 3 }).wr (CE_INST_WTX_WTX_MAX 0) 1
     (d.inst 0).fwd ≠ none ∧ (d.inst 0).wtxAwait = false ∧ (d.inst 0).reply = none ∧ d.ceState 0 = 7 ∧ (d.inst 0).wtx < d.rd (CE_INST_WTX_WTX_MAX 0) ∧
       (d.wr (CE_INST_WTX_WTX_MAX 0) 0).rd (CE_INST_WTX_WTX_MAX 0) ≤ (d.inst 0).wtx) := by decide +kernel

theorem witness_EmulationHostSide :
    (let b : HostBurst := ⟨.gw0, [], 512, 1, 0, 2, 0⟩; ((emuWith 7 fun c => { c with host := [b] }).inst 0).host = b :: []) ∧
    (let d := emuWith 7 fun c => { c with fwd := some 3, asm := [(.gw0, [0x00030002#32])] }
     let ws := (((d.inst 0).asm.find? (·.1 = Path.gw0)).map (·.2)).getD [] ++ [0x00000090#32]
     d.reaches .gw0 0x70000 = true ∧ 1 + (bits (wordAt ws 0) 8 0 + 3) / 4 ≤ ws.length ∧ 2 ≤ bits (wordAt ws 0) 8 0 ∧ (d.inst 0).fwd = some (bits (wordAt ws 0) 31 16)
         ∧ (d.inst 0).wtxAwait = false ∧
       d.ceState 0 = 7 ∧ (emuDev 3).ceState 0 ≠ 7 ∧ bits (wordAt [0x00030001#32, 0#32] 0) 8 0 < 2 ∧ ([0x00030002#32] : List Word).length < 1 + (2 + 3) / 4) ∧
    (let w : Word := 0x90804020#32
     let d := emuBase
     d.ceChan 0 = some 4 ∧ bits w.toNat 29 20 ≠ 0 ∧ powerOf (bits w.toNat 29 20) ≤ (d.decl 4).maxPower ∧ bits w.toNat 13 8 ≤ 59 ∧ 2 ≤ bits w.toNat 7 0 ∧
       bits w.toNat 7 0 ≤ 80 ∧ d.on (CE_INST_CFG_EN 0) = false ∧ bit w.toNat 31 = true ∧ d.headerOk 0 = true ∧ bits w.toNat 19 14 < d.coils 4 ∧
       ({ d with shadow := [] } : Dev).headerOk 0 = false) ∧
    (let w : Word := 0x10804020#32
     let d := ((emuDev 1).wr (CE_INST_CFG_ALM_CODE 0) (bits w.toNat 29 20)).wr (CE_INST_CFG_COIL 0) (bits w.toNat 19 14)
     d.on (CE_INST_CFG_EN 0) = true ∧ bit w.toNat 31 = false ∧ bits w.toNat 29 20 = d.rd (CE_INST_CFG_ALM_CODE 0) ∧ bits w.toNat 19 14 = d.rd (CE_INST_CFG_COIL 0) ∧
       bits w.toNat 30 30 = d.rd (CE_INST_CFG_FWD 0)) ∧
    (bits (0x02010000#32).toNat 31 24 ≠ 0 ∧ bits (0x02010000#32).toNat 23 15 ≤ 255 ∧ bits (0x02010000#32).toNat 31 24 + bits (0x02010000#32).toNat 23 15 ≤ 256 ∧
      256 < bits (0xFF010000#32).toNat 31 24 + bits (0xFF010000#32).toNat 23 15) ∧
    (emuBase.rd CE_WIN_INST = 0 ∧ emuBase.ceChan 0 ≠ none ∧ (emuBase.inst 0).txn = none ∧ emuBase.rd CE_WIN_HALF = 0) ∧
    (let t : FieldTxn := ⟨[0, 2], []⟩
     let d := emuWith 7 fun c => { c with txn := some t }
     (d.inst 0).txn = some t ∧ (emuBase.rd CE_WIN_HALF * 32768 + 512) / 256 ∈ t.blocks ∧ (d.wr CE_CFG_HOST_WAIT 5).rd CE_CFG_HOST_WAIT ≠ 0 ∧
       (d.wr CE_CFG_HOST_WAIT 0).rd CE_CFG_HOST_WAIT = 0 ∧ d.on (CE_INST_CFG_EN 0) = true) := by decide +kernel

/-- The register that holds an address. -/
def hitAt (a : Nat) : RegHit := (findReg a).getD ⟨⟨0, 1, 1, 4, 1, 4, false, fun _ _ => []⟩, 0, 0, 0⟩

theorem named {d : Dev} {p : Path} {a : Nat} (hr : d.reaches p (blockBase a) = true) (h1 : inRegisterSpace a = true) (h2 : a % 4 = 0)
    (h3 : portAddress a = false) (h4 : inShadowWindow a = false) (h5 : (d.regAt a).isSome = true) (h6 : ¬ (0x70100 ≤ a ∧ a < 0x70500)) :
    d.Names p a (hitAt a) := by
  refine ⟨hr, h1, h2, h3, h4, ?_⟩
  unfold Dev.regAt at h5 ⊢
  have e : (decide (0x70100 ≤ a) && decide (a < 0x70500) && (d.ceChan ((a - 0x70100) / 0x80)).isNone) = false := by
    simp only [Bool.and_eq_false_iff, decide_eq_false_iff_not]
    omega
  rw [e] at h5 ⊢
  unfold hitAt
  cases hf : findReg a with
  | none => rw [hf] at h5; simp at h5
  | some h => simp

theorem witness_RegisterReads_names :
    (runDev.met .gw0).Names .gw0 0x100 (hitAt 0x100) ∧ (runDev.met .gw0).Names .gw0 0x4038 (hitAt 0x4038) ∧ (runDev.met .gw0).Names .gw0 0x403C (hitAt 0x403C) :=
  ⟨named (by decide +kernel) (by decide) (by decide) (by decide) (by decide) (by decide +kernel) (by decide),
   named (by decide +kernel) (by decide) (by decide) (by decide) (by decide) (by decide +kernel) (by decide),
   named (by decide +kernel) (by decide) (by decide) (by decide) (by decide) (by decide +kernel) (by decide)⟩

theorem witness_RegisterReads :
    (hitAt 0x100).spec.words = 1 ∧ (1 < (hitAt 0x4038).spec.words ∧ (hitAt 0x4038).word = 0) ∧
    (1 < (hitAt 0x403C).spec.words ∧ (hitAt 0x403C).word = 1 ∧
      (({ runDev with latch := [⟨.gw0, 0x4038, [7], [1]⟩] } : Dev).met .gw0).latch.find? (fun x => x.path == .gw0 && x.addr == 0x403C - 4 * (hitAt 0x403C).word)
        = some ⟨.gw0, 0x4038, [7], [1]⟩) ∧
    (runDev.met .gw0).latch.find? (fun x => x.path == .gw0 && x.addr == 0x403C - 4 * (hitAt 0x403C).word) = none ∧
    (runDev.met .gw0).reaches .gw0 0x4000 = true ∧ (runDev.met .pilot).reaches .pilot 0x4000 = true ∧ Path.gw0 ≠ .pilot := by decide +kernel

theorem witness_RegisterWrites_names :
    ((fieldDev .on).met .gw0).Names .gw0 0x40014 (hitAt 0x40014) ∧ (deskDev.met .gw0).Names .gw0 0x6020 (hitAt 0x6020) :=
  ⟨named (by decide +kernel) (by decide) (by decide) (by decide) (by decide) (by decide +kernel) (by decide),
   named (by decide +kernel) (by decide) (by decide) (by decide) (by decide) (by decide +kernel) (by decide)⟩

theorem witness_RegisterWrites :
    ((runDev.met .gw0).reaches .gw0 0 = true ∧ (runDev.met .gw0).reaches .gw0 0x1000 = true ∧ 10 ≤ bits (500#32).toNat 10 0 ∧ bits (500#32).toNat 10 0 ≤ 1800 ∧
      bits (9#32).toNat 10 0 < 10 ∧ 1800 < bits (1801#32).toNat 10 0) ∧
    ((hitAt 0x40014).spec.words = 1 ∧ (hitAt 0x40014).spec.addr ∉ ownWrite ∧
      ((fieldDev .on).met .gw0).regFixed (hitAt 0x40014).spec.addr (hitAt 0x40014).i (hitAt 0x40014).j = true) ∧
    ((hitAt 0x6020).spec.addr ∉ ownWrite ∧ ((hitAt 0x6020).spec.flds (hitAt 0x6020).i (hitAt 0x6020).j).any (·.writable (hitAt 0x6020).i) = true ∧
      (hitAt 0x6020).word + 1 < (hitAt 0x6020).spec.words) ∧
    (let d := { deskDev with stage := [(.gw0, 0x6020, 5#32)] }
     (d.met .gw0).reaches .gw0 0x6000 = true ∧ (d.met .gw0).stage.find? (fun x => x.1 == .gw0 && x.2.1 == 0x6020) = some (.gw0, 0x6020, 5#32) ∧ (d.met .gw0).on
         (EN_CFG_RX_EN 0) = false ∧
       ((d.raise (EN_CFG_RX_EN 0)).met .gw0).on (EN_CFG_RX_EN 0) = true ∧ (d.met .pilot).reaches .pilot 0 = true) ∧
    (runDev.pathOpen .pilot = true ∧ inRegisterSpace (0x80000#32).toNat = false ∧ inWindow (0x80000#32).toNat = false ∧
      customerDenied true (0x20000000#32).toNat = true ∧ inWindow (0x20000000#32).toNat = true ∧ customerDenied false (0x20000000#32).toNat = false) := by
  decide +kernel

/-- The part with Ethernet 0 up: rings 1 and 4 of 8 descriptors at two places of DRAM, each handing over its first. -/
def etherDev : Dev :=
  let d := ((((runDev.raise GC_CFG_PLLE_EN).raise GC_STATUS_PLLE_LOCK).raise (EN_CFG_RX_EN 0)).raise (EN_CFG_TX_EN 0)).raise (EN_STATUS_LINK 0)
  let d := ((d.raise (EN_CFG_ACCEPT_UNTAG 0)).raise (EN_CFG_PAUSE_RX 0)).raise (EN_CFG_PROMISC 0)
  let d := ((d.wr (EN_RING_BASE_ADDR 0 1) 0x10000000).wr (EN_RING_SIZE_N 0 1) 8).wr (EN_RING_TAIL_IDX 0 1) 1
  let d := ((d.wr (EN_RING_BASE_ADDR 0 4) 0x10001000).wr (EN_RING_SIZE_N 0 4) 8).wr (EN_RING_TAIL_IDX 0 4) 1
  let m := Memory.write (Memory.write [] 0x10000000 (leBytes 4 0x80000000 ++ leBytes 4 0x10002000)) 0x10001000
    (leBytes 4 (0x80000000 + 60) ++ leBytes 4 0x10003000)
  { d.wr (EN_CFG_BUF_LEN 0) 1522 with mem := m }

/-- A frame of 60 bytes with an Ethertype, zero elsewhere. -/
def etherFrame (t : List Byte) : List Byte := zeros 12 ++ t ++ zeros (48 - t.length)

/-- The same with a PTP event message, and a queue Q27, ready to be sent with its timestamp. -/
def stampDev : Dev :=
  let m := Memory.write (Memory.write etherDev.mem 0x10001000 (leBytes 4 (0xC0000000 + 60))) 0x10003000 (etherFrame [0x88, 0xF7])
  { etherDev.wr (LQN_POOL_SIZE 27) 2 with mem := m }

theorem witness_EthernetReceives :
    etherDev.enAble 0 = true ∧ etherDev.applied = true ∧ etherDev.on (EN_CFG_RX_EN 0) = true ∧ etherDev.on (EN_STATUS_LINK 0) = true ∧
    etherDev.on GC_STATUS_PLLD_LOCK = true ∧ (etherDev.lower GC_STATUS_PLLD_LOCK).on GC_STATUS_PLLD_LOCK = false ∧
    (etherDev.lower GC_STATUS_PLLD_LOCK).applied = true ∧ (etherDev.lower GC_STATUS_PLLD_LOCK).rxRing 0 (etherFrame [0x08, 0x06]) = some 1 ∧
    (let f := [0x01, 0x80, 0xC2, 0, 0, 0x01] ++ zeros 6 ++ [0x88, 0x08, 0, 1, 0, 9] ++ zeros 42
     60 ≤ f.length ∧ f.length ≤ 1518 ∧ f.take 6 = [0x01, 0x80, 0xC2, 0, 0, 0x01] ∧ beNat ((f.drop 12).take 2) = 0x8808 ∧
       beNat ((f.drop 14).take 2) = 1 ∧ etherDev.on (EN_CFG_PAUSE_RX 0) = true) ∧
    (let f := etherFrame [0x08, 0x06]
     beNat ((f.drop 12).take 2) ≠ 0x8808 ∧ beNat ((f.drop 12).take 2) ≠ 0x8100 ∧ ptpAt f = none ∧ etherDev.destOk 0 (f.take 6) = true ∧
       etherDev.on (EN_CFG_ACCEPT_UNTAG 0) = true ∧ etherDev.ringOwned 0 1 = true ∧ f.length ≤ etherDev.rd (EN_CFG_BUF_LEN 0) ∧
       etherDev.on (EN_CFG_PAUSE_TX 0) = false ∧ 0x10000000 ≤ etherDev.ringAt 0 1 ∧ etherDev.ringAt 0 1 + 32 ≤ 0x20000000 ∧
       0x10000000 ≤ Memory.word etherDev.mem (etherDev.ringAt 0 1 + 4) ∧ Memory.word etherDev.mem (etherDev.ringAt 0 1 + 4) + f.length ≤ 0x20000000 ∧
       etherDev.rxRing 0 f = some 1 ∧ (etherDev.wr (EN_RING_TAIL_IDX 0 1) 0).rxRing 0 f = some 1 ∧
       (etherDev.wr (EN_RING_TAIL_IDX 0 1) 0).ringOwned 0 1 = false) := by decide +kernel

theorem witness_EthernetSends :
    (let d := etherDev
     d.reaches .pilot (enBase 0) = true ∧ d.on (EN_CFG_PAUSE_TX 0) = false ∧ (3#32).toNat % 65536 < d.rd (EN_RING_SIZE_N 0 4) ∧
       d.rd (EN_RING_SIZE_N 0 4) ≤ (8#32).toNat % 65536 ∧
       d.applied = true ∧ d.on (EN_STATUS_LINK 0) = true ∧ d.on (EN_CFG_TX_EN 0) = true ∧ d.on GC_STATUS_PLLD_LOCK = true ∧ (d.enPort 0).held = false ∧ d.ringOwned 0
           4 = true ∧
       Memory.word d.mem (d.ringAt 0 4) % 2 ^ 14 ≠ 0 ∧ bit (Memory.word d.mem (d.ringAt 0 4)) 28 = false ∧ bit (Memory.word d.mem (d.ringAt 0 4)) 29 = false ∧
       0x10000000 ≤ d.ringAt 0 4 ∧ d.ringAt 0 4 + 32 ≤ 0x20000000 ∧ bit (Memory.word d.mem (d.ringAt 0 4)) 30 = false) ∧
    (let d := stampDev
     let w0 := Memory.word d.mem (d.ringAt 0 4)
     let f := Memory.read d.mem (Memory.word d.mem (d.ringAt 0 4 + 4)) (w0 % 2 ^ 14)
     d.applied = true ∧ d.ringOwned 0 4 = true ∧ w0 % 2 ^ 14 ≠ 0 ∧ bit w0 28 = false ∧ bit w0 29 = false ∧ bit w0 30 = true ∧ ptpAt f = some (14, none) ∧
       u8At f 14 % 16 < 4 ∧ (d.q 27).stalled = [] ∧ (d.q 27).fits (d.qSize 27) 5 = true ∧
       ((d.q 27).waiting.filter Entry.isItem).length + ((d.q 27).retained.filter Entry.isItem).length < 16) ∧
    (runDev.reaches .pilot 0x6000 = true ∧ runDev.on EN0_MDIO_CMD_BUSY = false ∧ bit (0x60840000#32).toNat 30 = true ∧ bits (0x70840000#32).toNat 29 28 ≠ 2 ∧
      bit (0x10000000#32).toNat 30 = false ∧ bits (0x10000000#32).toNat 29 28 = 1 ∧ (runDev.raise EN0_MDIO_CMD_BUSY).on EN0_MDIO_CMD_BUSY = true ∧
      (runDev.raise EN0_MDIO_CMD_BUSY).rd EN0_MDIO_CMD_OP = 2 ∧ (runDev.raise EN0_MDIO_CMD_BUSY).on EN0_MDIO_CMD_C45 = false ∧
      ((runDev.raise EN0_MDIO_CMD_BUSY).wr EN0_MDIO_CMD_OP 1).rd EN0_MDIO_CMD_OP ≠ 2) := by decide +kernel

theorem witness_OneGpioEdge :
    runDev.power.step ≠ .off ∧ runDev.gpioDriven 7 = none ∧ bit runDev.gpio 7 ≠ true ∧ bit runDev.gpio 7 = false := by decide +kernel

theorem witness_PilotInterrupts :
    (let d := runDev.setBit GC_GPIO_RISE_EN 7
     d.coreRuns = true ∧ d.gpioDriven 7 = none ∧ bit d.gpio 7 ≠ true ∧ d.bitOn GC_GPIO_RISE_EN 7 = true ∧ d.serviceRecord 4 = none) := by decide +kernel

theorem witness_PilotInterrupts_pending : (runDev.raise PW_STATUS_PFAIL).irqPending { core := 0, supervisor := false } ≠ [] := by
  have h : (runDev.raise PW_STATUS_PFAIL).coreRuns = true := by decide +kernel
  unfold Dev.irqPending
  rw [if_pos h]
  exact List.ne_nil_of_mem (a := 33) (List.mem_filter.2 ⟨by decide +kernel, by decide +kernel⟩)

/-- The part with Gangway 1 as master of a flash, its window open, and line 2 in the prefetch buffer. -/
def flashDev : Dev :=
  (runDev.raise GW1_XIP_CFG_EN).modGw 1 fun g => { g with lines := [(2, zeros 64)] }

theorem witness_SlaveFrames :
    (let d := (queueDev { Queue.empty with waiting := [twoWords] })
     d.pathOpen (gwPath 0) = true ∧ d.Quiet ∧ (d.gwp 0).held = [] ∧ (d.gwp 1).held = [] ∧ d.writeWaits (gwPath 0) = false ∧ d.readWaits (gwPath 0) = false ∧
       40 % d.rd (GW_CFG_UNIT 0) ≠ 0 ∧ 32 % d.rd (GW_CFG_UNIT 0) = 0 ∧ 64 % 8 = 0 ∧ Dev.inDram (0x10000000#32).toNat = true ∧
       8224 % d.rd (GW_CFG_UNIT 0) = 0 ∧ (0x10000000#32).toNat + 64 / 8 ≤ (0x10000000#32).toNat / 4096 * 4096 + 4096 ∧
       d.on GC_STATUS_PLLD_LOCK = true ∧ d.dramWait = [] ∧ Dev.inXip (0x10000000#32).toNat = false ∧ inShadowWindow (0x10000000#32).toNat = false ∧
       inRegisterSpace (0x80000#32).toNat = false ∧ inWindow (0x80000#32).toNat = false ∧ d.blockRuns 0x20000 = true ∧
       d.isConsumer (gwPath 0) 3 = true ∧ (d.q 3).heldGap = none ∧ (d.q 3).waiting = twoWords :: [] ∧ (d.q 3).popped < twoWords.words.length ∧
       twoWords.words.length - (d.q 3).popped ≤ 3) := by decide +kernel

theorem witness_MasterCommands :
    (let d := runDev
     d.reaches .pilot (gwBase 1) = true ∧ d.on (GW_CFG_ROLE 1) = true ∧ (d.gwp 1).cmd = none ∧ bits (0x20000003#32).toNat 28 26 ≤ 4 ∧
       d.rd (GW_MLEN_DLEN 1) % d.rd (GW_CS_CFG_UNIT 1 (bits (0x20000003#32).toNat 31 30)) = 0 ∧ bit (0x20000003#32).toNat 29 ≠ false ∧
       masterWords (d.rd (GW_CS_CFG_UNIT 1 0)) (d.rd (GW_MLEN_DLEN 1)) ≤ 256 ∧ (d.gwp 1).fill = [] ∧ d.xipSelect 1 0 = false ∧
       (d.wr (GW_MLEN_DLEN 1) 12).rd (GW_MLEN_DLEN 1) % d.rd (GW_CS_CFG_UNIT 1 0) ≠ 0 ∧ (d.gwp 1).mdata = [] ∧ (d.gwp 1).mdata.length < 256) ∧
    (let f : MasterFrame := ⟨0, some 3, [], none, 8, true, 32, []⟩
     let d := runDev.modGw 1 fun g => { g with cmd := some f, started := true, mdata := [5] }
     (d.gwp 1).cmd = some f ∧ (d.gwp 1).started = true ∧ (d.gwp 1).waits = [] ∧ (d.gwp 1).mdata = 5 :: []) := by decide +kernel

theorem witness_ExecuteInPlace :
    (flashDev.pathOpen .pilot = true ∧ flashDev.xipOpen = true ∧ (flashDev.gwp 1).waits = [] ∧ 132 % 2 ^ 2 = 0 ∧
       (flashDev.gwp 1).lines.any (·.1 == 132 / 64) = true ∧ (flashDev.gwp 1).lines.any (·.1 == 64 / 64) = false ∧ (flashDev.gwp 1).fill = [] ∧
       (flashDev.gwp 1).cmd = none ∧ flashDev.on GW1_XIP_CFG_HOLD = false ∧ runDev.xipOpen = false ∧ flashDev.reaches .pilot 0x5800 = true ∧
       runDev.on GW1_XIP_CFG_EN = false ∧ flashDev.on GW1_XIP_CFG_EN = true ∧ flashDev.rd GW1_XIP_CFG_OPCODE ≠ bits (0xC00#32).toNat 15 8) ∧
    (let d := flashDev.modGw 1 fun g => { g with fill := [(1, false)], waits := [⟨.pilot, 64, 4, 4, true, 0⟩] }
     (d.gwp 1).fill = [(1, false)] ∧ (d.gwp 1).waits = [⟨.pilot, 64, 4, 4, true, 0⟩] ∧ (d.gwp 1).cmd = none ∧ 64 / 64 = 1 ∧ (64 + 4 - 1) / 64 = 1) := by
  decide +kernel

/-- The part in Trim with a calibration at a step. -/
def calDev (step : Nat) : Dev := ((runDev.raise CL_STATUS_RUNNING).wr CL_STATUS_STEP step).wr PW_STATE_CUR 2

/-- Measurements with no field in the air. -/
def calmMeas : CalMeas := ⟨false, false, 33, 7, 3, 0, 0, 0, 31, 6, 2⟩

/-- A fuse record slot that is used. -/
def usedSlot : List Byte := 1 :: zeros 63

theorem witness_CalibrationRuns :
    (calDev 1).on CL_STATUS_RUNNING = true ∧ (calDev 1).coreRuns = true ∧ (calDev 1).rd CL_STATUS_STEP = 1 ∧ (calDev 4).rd CL_STATUS_STEP = 4 ∧
    ((calDev 2).cl.block = 0 ∧ (calDev 2).rd CL_STATUS_STEP = 2) ∧
    (let d := (calDev 3).modCl fun c => { c with block := 131 }; d.cl.block = 131 ∧ d.rd CL_STATUS_STEP = 3 ∧ d.on PW_STATUS_THERM_SHUT = false) ∧
    ((calDev 2).clChan 0).aside = false ∧ (((calDev 2).modClChan 0 fun c => { c with aside := true }).clChan 0).aside = true ∧
    (calmMeas.before || calmMeas.after) = false ∧ (calDev 6).rd CL_STATUS_STEP = 6 ∧ (calDev 6).boot.phase = .runtime := by decide +kernel

theorem witness_CommitsBurnARecord :
    (let d := runDev.raise CL_STATUS_ALL_TRACED
     d.reaches .pilot 0x2000 = true ∧ d.on CL_CMD_STATUS_BUSY = false ∧ d.cy.burn = none ∧ d.rd PW_STATE_CUR = 1 ∧ d.on PW_STATUS_PFAIL = false ∧
       d.on CL_STATUS_ALL_TRACED = true ∧ runDev.on CL_STATUS_ALL_TRACED = false ∧ (d.raise CL_CMD_STATUS_BUSY).on CL_CMD_STATUS_BUSY = true ∧
       (upTo 24).find? (fun k => !slotUsed (d.recordSlot k)) = some 0 ∧
       (let e := { d with fuses := { d.fuses with records := Vector.replicate 24 usedSlot } }
        e.on CL_STATUS_ALL_TRACED = true ∧ (upTo 24).all (fun k => slotUsed (e.recordSlot k)) = true) ∧
       (d.modCl fun c => { c with burn := some (0, usedSlot) }).cl.burn = some (0, usedSlot)) := by decide +kernel

theorem witness_CommitsBurnARecord_keyBurn :
    (let d := { runDev with cy := { runDev.cy with burn := some ⟨0x0B, 1, zeros 32⟩ } }
     d.reaches .pilot 0x2000 = true ∧ d.on CL_CMD_STATUS_BUSY = false ∧ d.cy.burn ≠ none) := by decide +kernel

/-- The part with the fault handler running, from an instant that has passed. -/
def faultDev : Dev :=
  { ((runDev.wr FD_FATAL_SOURCE 2).wr FD_FATAL_BITS 2) with time := 2 ^ 50, fd := { FdSt.reset with handling := true, entry := 2 ^ 49, slot := 1, seq := 7 } }

theorem witness_FatalErrors :
    runDev.coreRuns = true ∧ runDev.fd.handling = false ∧ runDev.applied = true ∧ (runDev.wr (DK_TILE_FUNC 3) 5).rd (DK_TILE_FUNC 3) ≠ 0 ∧
    (let d := runDev.raise FD_WDOG_CFG_EN
     d.wdogCounts = true ∧ d.fd.handling = false ∧
       d.rd FD_WDOG_STATUS_ELAPSED * 406800 + d.clk.wdog ≤ (d.rd FD_WDOG_CFG_TIMEOUT - d.rd FD_WDOG_CFG_PRE) * 406800) ∧
    runDev.boot.phase ≠ .recover ∧ journalAddress (BitVec.ofNat 32 (mramBase + journalAt)).toNat = true ∧
    (faultDev.coreRuns = true ∧ faultDev.fd.handling = true ∧ faultDev.time ≠ faultDev.fd.entry) ∧
    (let d := { faultDev with time := 2 ^ 49 }
     d.coreRuns = true ∧ d.fd.handling = true ∧ d.time = d.fd.entry ∧ 1 < d.rd FD_FATAL_SOURCE) := by decide +kernel

theorem witness_FaultHandlerRecords :
    faultDev.coreRuns = true ∧ faultDev.fd.handling = true ∧ faultDev.on FD_FATAL_SLOT_OK = false ∧ faultDev.fd.slot < 4 ∧ faultDev.fd.begun = false ∧
    faultDev.power.fence = false ∧ (faultDev.modPower fun p => { p with fence := true }).power.fence = true ∧
    (faultDev.raise FD_FATAL_SLOT_OK).on FD_FATAL_SLOT_OK = true ∧ (faultDev.raise FD_FATAL_SLOT_OK).dumpSkipped = false ∧
    (faultDev.lower GC_STATUS_PLLD_LOCK).dumpSkipped = true := by decide +kernel

theorem witness_WatchdogAndEcc :
    (let d := runDev.raise FD_WDOG_CFG_EN
     d.coreRuns = true ∧ d.wdogCounts = true ∧ d.reaches .pilot 0x3000 = true ∧ d.on FD_WDOG_CFG_EN = true ∧
       bits (500#32).toNat 15 0 ≠ d.rd FD_WDOG_CFG_TIMEOUT) ∧
    (runDev.reaches .pilot 0x3000 = true ∧ bits (0x4B1C#32).toNat 15 0 = 0x4B1C ∧ bits (1#32).toNat 15 0 ≠ 0x4B1C ∧ runDev.on FD_WDOG_CFG_EN = false ∧
      10 ≤ bits (0x00140032#32).toNat 15 0 ∧ 0 < bits (0x00140032#32).toNat 27 16 ∧ bits (0x00140032#32).toNat 27 16 < bits (0x00140032#32).toNat 15 0) ∧
    Dev.inDram (0x10000000#32).toNat = true ∧ journalAddress (0x10000000#32).toNat = false := by decide +kernel

theorem witness_GrantsAndFatalErrorsComplete_grants :
    (deskDev.reaches .gw0 0x38000 = true ∧ deskDev.ts.asm.find? (·.1 = Path.gw0) = none) ∧
    (let d := { deskDev with ts := { deskDev.ts with asm := [(Path.gw0, 0x00200005#32)] } }
     d.ts.asm.find? (·.1 = Path.gw0) = some (Path.gw0, 0x00200005#32) ∧ bits (0x00200005#32).toNat 31 27 < 24 ∧ d.fwRequests < 16 ∧ d.reader 0 = true ∧
       bits (0x00200005#32).toNat 26 21 < d.coils 0 ∧ bit (0x00200005#32).toNat 20 = false ∧ bits (0x00200005#32).toNat 7 0 ≠ 0 ∧
       d.excluded (berthOf 0 1) = false) ∧
    (deskDev.coreRuns = true ∧ deskDev.surveying = false ∧ deskDev.ts.reqs = []) ∧
    (let d := { deskDev with ts := { deskDev.ts with selInit := [(0, deskDev.boundaryAfterLead 100)] } }
     d.applied = true ∧ d.rd (CH_SEL_CFG_LEAD (4 * 0)) = 100 ∧ d.ts.selInit.contains (0, d.boundaryAfterLead 100) = true ∧
       (d.chan 1).field.lit = false ∧ (d.chan 1).field.offAt = none) ∧
    ((fieldDev .on).rd TC_INC_INC ≠ 0 ∧ (fieldDev .on).ts.grants = [deskGrant] ∧ (fieldDev .on).grantNow 0 = some deskGrant ∧ deskGrant.isOpen = false) := by
  decide +kernel

/-- A request of a round, waiting where every slot may be used and power is left. -/
def askingDev : Dev :=
  let d := ((deskDev.wr (CH_TX_AMP_CODE 0) 100).wr PW_RF_BUDGET_BUDGET 1000).wr PW_RAIL_VRF_OK 63
  let d := d.each (upTo (d.rd TS_CYCLE_SLOTS)) fun k => (·.setBit (TS_SLOT_TXEN k) 0)
  { d with ts := { d.ts with reqs := [⟨.pontoon, 0, 1, 5, false, 0, 0, false⟩] } }

theorem witness_GrantsAndFatalErrorsComplete_confirm :
    let d := askingDev
    let m := d.boundaryAfterLead 150
    let e := ({ d with out := [] } : Dev).reach (m * 1000000 - 150000)
    d.coreRuns = true ∧ d.surveying = false ∧ d.ts.reqs = [⟨.pontoon, 0, 1, 5, false, 0, 0, false⟩] ∧ d.rd (CH_TX_AMP_CODE 0) ≠ 0 ∧
      e.grantsAllowed = true ∧ e.eligible ⟨.pontoon, 0, 1, 5, false, 0, 0, false⟩ m = true := by decide +kernel

theorem witness_GrantsAndFatalErrorsComplete :
    runDev.coreRuns = true ∧ runDev.fd.handling = false ∧ runDev.applied = true ∧ (runDev.wr (DK_TILE_FUNC 3) 5).rd (DK_TILE_FUNC 3) ≠ 0 ∧
    (runDev.raise FD_WDOG_CFG_EN).wdogCounts = true ∧ runDev.boot.phase ≠ .recover ∧ journalAddress (BitVec.ofNat 32 (mramBase + journalAt)).toNat = true ∧
    faultDev.coreRuns = true ∧ faultDev.fd.handling = true ∧ faultDev.time ≠ faultDev.fd.entry ∧
    (let d := { faultDev with time := 2 ^ 49 }; d.time = d.fd.entry) ∧
    faultDev.on FD_FATAL_SLOT_OK = false ∧ (faultDev.raise FD_FATAL_SLOT_OK).on FD_FATAL_SLOT_OK = true ∧ (faultDev.raise FD_FATAL_SLOT_OK).dumpSkipped = false := by
  decide +kernel

theorem witness_EmptyQueueCountsTime :
    (holds runDev).pending = [] ∧ (∀ i : Fin 32, (runDev.q i.val).resumed = []) ∧ (burstsGoOn State.reset.dev).power.hold = some .cold ∧
    (let e := burstsGoOn runDev
     e.power.step ≠ .off ∧ e.power.hold = none ∧ e.on TC_STATUS_XTAL_MODE = false ∧ e.wdogCounts = false) ∧
    (let e := burstsGoOn (runDev.raise TC_STATUS_XTAL_MODE)
     e.power.step ≠ .off ∧ e.power.hold ≠ some .cold ∧ e.on TC_STATUS_XTAL_MODE = true) ∧
    (let e := burstsGoOn (runDev.raise FD_WDOG_CFG_EN)
     e.wdogCounts = true ∧ e.clk.wdog < 406800 ∧ e.rd FD_WDOG_STATUS_ELAPSED < 65535) := by decide +kernel

theorem witness_StepKeepsCanonicalForm : State.reset.Canonical ∧ ∃ t, step State.reset = .next t :=
  ⟨⟨by decide, by decide, by decide⟩, _, rfl⟩

theorem runDev_quiet : runDev.Quiet := by decide +kernel

theorem witness_UnassignedAddresses :
    inRegisterSpace (0x7000#32).toNat = false ∧ inWindow (0x7000#32).toNat = false ∧ (runDev.met .gw0).pathOpen .gw0 = true ∧
    (runDev.met .pilot).pathOpen .pilot = true ∧ runDev.pathOpen .pilot = true ∧ (runDev.met .hawser).pathOpen .hawser = true ∧
    (runDev.met .jtag).pathOpen .jtag = true ∧ ((runDev.wr (GW_CFG_ROLE 1) 0).met .gw1).pathOpen .gw1 = true ∧
    inRegisterSpace (0x200#32).toNat = true ∧ (runDev.met .pilot).reaches .pilot (blockBase ((0x200#32).toNat / 4 * 4)) = true ∧
    portAddress ((0x200#32).toNat / 4 * 4) = false ∧ inShadowWindow ((0x200#32).toNat / 4 * 4) = false ∧
    ((runDev.met .pilot).regAt ((0x200#32).toNat / 4 * 4)).isNone = true := by decide +kernel

theorem witness_XipWindowIsReadOnly :
    (runDev.met .pilot).pathOpen .pilot = true ∧ Dev.inXip (0x40000000#32).toNat = true ∧ (0x40000000#32).toNat + 4 ≤ 0x50000000 ∧
    (runDev.met .gw0).pathOpen .gw0 = true ∧ (runDev.met .gw0).on GW1_XIP_CFG_EN = false ∧
    ((runDev.wr (GW_CFG_ROLE 1) 0).met .gw0).on (GW_CFG_ROLE 1) = false ∧ runDev.pathOpen .gw0 = true ∧ runDev.on GW1_XIP_CFG_EN = false := by decide +kernel

/-! Statements of two parts. -/

theorem witness_NeighbourBootAndBootServices :
    ((let d := (bootDev fun b => { b with phase := .fetch, source := 4, port := 2 }).wr (HSP_STATUS_LINK 2) lUP
     d.bootsOn 2 = true ∧ d.on GC_STATUS_PLLD_LOCK = true ∧ d.dramWait = [] ∧ d.boot.keepDeck = false ∧ d.boot.tried = [] ∧ d.coreRuns = true ∧
       d.boot.phase = .fetch ∧ d.boot.source = 4 ∧ d.boot.port < 3 ∧ (d.lower GC_STATUS_PLLD_LOCK).bootsOn 2 = true ∧
       (d.lower GC_STATUS_PLLD_LOCK).on GC_STATUS_PLLD_LOCK = false) ∧
    (let d := (bootDev fun b => { b with phase := .reload, source := 4, port := 2 }).wr (HSP_STATUS_LINK 2) lUP
     d.bootsOn 2 = true ∧ d.boot.phase = .reload) ∧
    (let d := ({ deskDev with boot := { deskDev.boot with staged := (0, 512) } } : Dev).wr (HSP_STATUS_LINK 1) lBOOT_PEER |>.raise HS_MCFG_SERVE_BOOT
     d.applied = true ∧ d.link 1 = lBOOT_PEER ∧ d.runtime = true ∧ d.on HS_MCFG_SERVE_BOOT = true ∧ d.boot.staged.2 ≠ 0)) ∧
    ((let bare := (bootDev fun b => { b with phase := .bare }).raise GC_BOOT_BARE
     let c := offered 0x10 (zeros 4 ++ leBytes 4 512)
     offersBare (withOffer bare (offered 1 [])) 1 (offered 1 []) = true ∧ offersBare (withOffer bare (offered 2 [])) 2 (offered 2 []) = true ∧
     offersBare (withOffer bare c) 0x10 c = true ∧ bare.runtime = false ∧ 0 < le32At c.payload 4 ∧ le32At c.payload 0 + le32At c.payload 4 ≤ stagingLen) ∧
    (let c := offered 0x10 (zeros 8); offers (withOffer deskDev c) .mailbox 0x10 c = true) ∧
    (let d := { deskDev with boot := { deskDev.boot with dirA := some settledEntry, dirB := some trialEntry } }.wr GC_BOOT_SOURCE 1
     let c := offered 0x11 ([1#8, 0#8, 0#8, 0#8] ++ zeros 4 ++ leBytes 4 512)
     offers (withOffer d c) .mailbox 0x11 c = true ∧ u8At c.payload 0 < 2 ∧ d.rd GC_BOOT_SOURCE ≠ u8At c.payload 0 + 1 ∧ 0 < le32At c.payload 8 ∧
       le32At c.payload 4 + le32At c.payload 8 ≤ stagingLen ∧ d.dirEntry (d.rd GC_BOOT_SOURCE) = some settledEntry ∧
       d.dirEntry (u8At c.payload 0 + 1) = some trialEntry ∧ settledEntry.sequence + 1 < 0xFFFFFFFF) ∧
    (let d := { deskDev with boot := { deskDev.boot with dirA := some trialEntry } }.wr GC_BOOT_SOURCE 1
     let c := offered 0x12 []
     offers (withOffer d c) .mailbox 0x12 c = true ∧ d.dirEntry (d.rd GC_BOOT_SOURCE) = some trialEntry ∧ d.boot.manifest = some smallManifest ∧
       trialEntry.confirm = 0xFF ∧ (d.wr GC_BOOT_SOURCE 2).dirEntry ((d.wr GC_BOOT_SOURCE 2).rd GC_BOOT_SOURCE) = none) ∧
    (let c := offered 0x1F [1#8]; offers (withOffer deskDev c) .mailbox 0x1F c = true ∧ (withOffer deskDev c).power.softDue = none)) :=
  ⟨witness_NeighbourBoot, witness_BootServices⟩

theorem witness_AmplitudeAndRegulators :
    (((fieldDev .on).chan 0).field.lit = true ∧ ((fieldDev .supply).chan 0).field.lit = false) ∧
    (deskDev.reaches .gw0 (0x40000 + 0 * 0x2000) = true ∧
    (upDev.decl 0).maxPower < powerOf (bits (0x108#32).toNat 9 0) ∧ upDev.reaches .gw0 0x40000 = true ∧
    ((deskDev.chan 0).field.st = .off ∧ (fieldDev .rampUp).rd (CH_TX_RAMP_RAMP_ON 0) ≠ 0) ∧
    (powerOf (bits (0x108#32).toNat 9 0) ≤ (deskDev.decl 0).maxPower ∧ deskDev.fieldGrant 0 = none ∧ (deskDev.chan 0).field.next = none) ∧
    (let d := deskDev.modField 0 fun f => { f with st := .rampDown, next := some 100 }
     powerOf (bits (0x108#32).toNat 9 0) ≤ (d.decl 0).maxPower ∧ d.fieldGrant 0 = none ∧ (d.chan 0).field.next = some 100) ∧
    (let d := (fieldDev .on).wr (CH_TX_STATUS_ACTIVE_CODE 0) 560
     d.fieldGrant 0 ≠ none ∧ (d.chan 0).field.next = none ∧ bits (0x108#32).toNat 9 0 ≠ 0 ∧
       powerOf (bits (0x108#32).toNat 9 0) ≤ powerOf (d.rd (CH_TX_STATUS_ACTIVE_CODE 0)) ∧
       powerOf (bits (0x108#32).toNat 9 0) ≤ (d.decl 0).maxPower) ∧
    (let d := (fieldDev .on).wr (CH_TX_STATUS_ACTIVE_CODE 0) 100
     d.fieldGrant 0 ≠ none ∧ powerOf (d.rd (CH_TX_STATUS_ACTIVE_CODE 0)) < powerOf (bits (0x108#32).toNat 9 0))) :=
  ⟨witness_TrackingRegulators, witness_AmplitudeWrites⟩

theorem witness_FieldRisesAndGoes :
    ((fieldDev .supply).coreRuns = true ∧ ((fieldDev .supply).chan 0).field.boundary = false ∧
    (let d := (fieldDev .supply).modField 0 fun f => { f with boundary := true }; (d.chan 0).field.st = .supply ∧ (d.chan 0).field.boundary = true) ∧
    (let d := fieldDev .rampUp
     (d.chan 0).field.st = .rampUp ∧ (d.chan 0).field.guard = false ∧ d.rd (CH_TX_GUARD_GUARD 0) ≠ 0 ∧ (d.chan 0).job = none ∧ (d.chan 0).exch = none) ∧
    ((fieldDev .on).chan 0).field.measured = false ∧
    ((fieldDev .resetOff).grantNow 0).isSome = true ∧ (fieldDev .supply).rd (CH_TX_RAMP_RAMP_ON 0) ≠ 0 ∧
    (let d := ((fieldDev .supply).modField 0 fun f => { f with boundary := true }).wr (CH_TX_RAMP_RAMP_ON 0) 0
     (d.chan 0).field.st = .supply ∧ (d.chan 0).field.boundary = true ∧ d.rd (CH_TX_RAMP_RAMP_ON 0) = 0 ∧ d.rd (CH_TX_GUARD_GUARD 0) ≠ 0 ∧
       (d.chan 0).job = none ∧ (d.chan 0).exch = none)) ∧
    ((let d := { fieldDev .on with time := 4500000 * 2 ^ 40 }
     d.coreRuns = true ∧ d.fieldGrant 0 = some deskGrant ∧ deskGrant.isOpen = false ∧ deskGrant.start + deskGrant.slots ≤ d.nextBoundary ∧
       (d.chan 0).field.st = .on ∧ deskGrant.owner = .pontoon ∧ d.rd (CH_TX_RAMP_RAMP_OFF 0) ≠ 0) ∧
    (((fieldDev .rampDown).chan 0).field.st = .rampDown ∧ ((fieldDev .rampDown).chan 0).field.next = none) ∧
    (((fieldDev .resetDown).chan 0).field.st = .resetDown ∧ ((fieldDev .resetDown).chan 0).field.thenOff = false)) :=
  ⟨witness_FieldRises, witness_FieldGoes⟩

theorem witness_KeyCommands :
    ((let d := keyDev plainWords |>.wr GC_BOOT_KEYMODE 2
     d.reaches .gw0 0x30000 = true ∧ d.on CY_KSTATUS_BUSY = false ∧ d.loopsClosed = true ∧ d.keySlot 5 = none ∧ headerOk 1 0 = true ∧ headerOk 0xFF 0 = false ∧
         d.entropy = true ∧
       d.cy.tamperAt ≠ some d.time ∧ ((wordsToBytes d.cy.inp).drop 4).take 4 = zeros 4 ∧
       10 ≤ d.cy.inp.length ∧ d.rd GC_BOOT_KEYMODE = 2 ∧ headerOk (u8At (wordsToBytes d.cy.inp) 1) (u8At (wordsToBytes d.cy.inp) 2) = true ∧
       (recordKey 5 ⟨5, 0, 0, 1⟩ (wordsToBytes d.cy.inp)).isSome = true) ∧
    (let d := keyedDev (List.replicate 60 0#32)
     d.keySlot 5 = none ∧ 60 ≤ d.cy.inp.length ∧ d.keySlot 3 = some ⟨4, 0, 0, zeros 16⟩ ∧ bit 4 2 = true ∧ d.reaches .gw0 0x30000 = true)) ∧
    ((keyedDev []).reaches .gw0 0x30000 = true ∧ (keyedDev []).cy.inp.length < 64 ∧ 64 ≤ (keyedDev (List.replicate 64 0#32)).cy.inp.length ∧
    (keyedDev []).on CY_KSTATUS_BUSY = false ∧ (keyedDev []).cy.tamperAt ≠ some (keyedDev []).time ∧ (keyedDev []).keySlot 4 = some ⟨0x81, 0, 0, zeros 16⟩ ∧ bit 0x81
        7 = true ∧
    (keyedDev []).keySlot 3 = some ⟨4, 0, 0, zeros 16⟩ ∧ (keyedDev []).entropy = true) :=
  ⟨witness_KeyCommandsFillSlots, witness_KeyCommandsUseSlots⟩

theorem witness_TamperAndEntropy :
    ((let d := (keyDev []).modCy fun c => { c with doneAt := some 0, tamperAt := some 0 }
     d.cy.doneAt = some d.time ∧ d.cy.tamperAt = some d.time ∧ d.reaches .gw0 0x30000 = true ∧ d.on CY_KSTATUS_BUSY = false) ∧
    (keyDev []).power.step ≠ .off ∧ (keyDev []).cy.miss0 < 3 ∧ (keyDev []).coreRuns = true) ∧
    (((keyDev []).coreRuns = true ∧ (keyDev []).on CY_TRNG_HALT = false ∧ (keyDev []).on CY_TRNG_READY = true) ∧
    (let d := (keyDev []).raise CY_TRNG_STARTUP; d.on CY_TRNG_STARTUP = true ∧ d.rd CY_TRNG_FAILS < 3) ∧
    (let d := ((keyDev []).raise CY_TRNG_STARTUP).wr CY_TRNG_FAILS 3; d.rd CY_TRNG_FAILS = 3) ∧
    1024 ≤ ((keyDev []).modCy fun c => { c with requests := 1024 }).cy.requests) :=
  ⟨witness_TamperResponse, witness_EntropySource⟩

theorem witness_SessionsMigrateAndCommandsAreCancelled :
    ((let cmd := askCmd 6 [0x20800000#32]
     let d := ({ askDev 6 [0x20800000#32] 1 1 with
       boot := { deskDev.boot with manifest := some { smallManifest with channels := [⟨1, 4, 15, 150⟩, ⟨1, 4, 15, 150⟩] } } } : Dev).modField 1 fun f => { f with st
           := .on }
     (d.chan 0).migrateReady = some (cmd, []) ∧ d.mayTake = true ∧ (d.chan 0).job = none ∧ bits cmd.w1 31 28 = 2 ∧ bits cmd.w1 27 23 = 1 ∧
       migrateRefusal 0 2 1 ((d.chan 0).context 2) d = none ∧ (d.chan 1).freeCtx = some 0 ∧ ((d.chan 0).context 2).st ≠ 3) ∧
    migrateRefusal 0 2 1 (((askDev 6 [0x20800000#32] 1 1).chan 0).context 2) (askDev 6 [0x20800000#32] 1 1) ≠ none) ∧
    (let d := (fieldDev .on).modChan 0 fun c => { c with job := some busyJob, queue := [askCmd 5 [0x20000000#32], { askCmd 8 [9#32] with tag := 10 }] }
    d.mayTake = true ∧ (d.chan 0).job.isSome = true ∧
      takeFirst (fun c => c.opcode == 8 && c.valid) (d.chan 0).queue = some ({ askCmd 8 [9#32] with tag := 10 }, [askCmd 5 [0x20000000#32]]) ∧
      takeFirst (·.tag == bits ({ askCmd 8 [9#32] with tag := 10 } : PCmd).w1 15 0) [askCmd 5 [0x20000000#32]] = some (askCmd 5 [0x20000000#32], [])) :=
  ⟨witness_SessionsMigrate, witness_CancelTakesAQueuedCommand⟩

theorem witness_SniffsTablesAndAttribution :
    (let d := (surveyDev.wr PW_STATE_CUR 3).raise (PW_WK_ENT_EN 7)
    d.rd PW_STATE_CUR = 3 ∧ d.power.waking = false ∧ d.on (PW_WK_ENT_EN 7) = true ∧ d.excluded (d.rd (PW_WK_ENT_BERTH 7)) = false ∧
    (d.detector 7).learned < 3 ∧ d.sniffDue 7 = none ∧ ({ d with ts := { d.ts with burst := [7], sniffAt := 9 } } : Dev).sniffDue 7 = some 9 ∧
    (let e := { d with ts := { d.ts with detectors := [⟨7, 4, 100, 0⟩], burst := [7], sniffAt := 9 } }
     e.sniffDue 7 = some 9 ∧ 4 ≤ (e.detector 7).learned ∧ e.rd (PW_WK_ENT_THR 7) ≤ (max ((200 : Int) - (e.detector 7).baseline) ((e.detector 7).baseline - 200)).toNat ∧
       (e.detector 7).streak + 1 < e.rd PW_WK_CFG_CONFIRM) ∧
    (let e := { d with ts := { d.ts with detectors := [⟨7, 4, 100, 5⟩], resniff := [(7, 9)] } }
     e.sniffDue 7 = some 9 ∧ e.rd PW_WK_CFG_CONFIRM ≤ (e.detector 7).streak + 1 ∧ e.on PW_WK_STATUS_LEARNING = false ∧ e.on (PW_WK_ENT_TRIPPED 7) = false)) ∧
    (surveyDev.reaches .gw0 0x38000 = true ∧ surveyDev.berthExists (bits (0x3#32).toNat 10 0) = true ∧ surveyDev.surveying = false ∧
    bit (0x3#32).toNat 30 = false ∧ bit (0x3#32).toNat 31 = false ∧ surveyDev.engine = true ∧ ((surveyDev.modChan 0 fun c => { c with clean := true }).chan 0).clean =
        true ∧ (surveyDev.chan 0).job = none) :=
  ⟨witness_SniffsDetectCards, witness_NeighbourTablesAndAttribution⟩

theorem witness_SurveysRun :
    ((surveyDev.reaches .gw0 0x38000 = true ∧ bits (0x2108#32).toNat 9 0 ≠ 0 ∧ bits (0x2108#32).toNat 13 10 ≠ 0 ∧ bit (0x2108#32).toNat 29 = false ∧
      surveyDev.on TS_SURVEY_GO = false ∧ surveyDev.surveying = false ∧ surveyDev.rd PW_STATE_CUR = 1 ∧ surveyDev.engine = true ∧
      (surveyDev.readerBerths.any fun b => decide ((surveyDev.decl (b / 64)).maxPower < powerOf (bits (0x2108#32).toNat 9 0))) = false) ∧
    ((surveyAt 3 id).surveying = true ∧ (surveyAt 3 id).ts.grants = [] ∧ (surveyAt 3 id).reaches .gw0 0x38000 = true) ∧
    ((surveyAt 1 id).rd TS_STATUS_SURVEY = 1 ∧ (surveyAt 1 id).ts.grants = []) ∧
    (let d := surveyAt 3 fun x => { x with pos := 1, sources := [1], len := 4 }
     d.listening 1 = true ∧ (10#8).toNat + 12 ≤ (40#8).toNat ∧ d.ts.survey.pos = 1) ∧
    (let d := (surveyAt 3 fun x => { x with pos := 3, sources := [1], len := 4 }).raise (CH_SEL_STATUS_ON 1) |>.wr (CH_SEL_STATUS_COIL 1) 1
     d.listening 1 = true ∧ 2 ≤ d.ts.survey.pos ∧ d.selected 1 = d.ts.survey.pos - 2 ∧ d.on (CH_SEL_STATUS_ON 1) = true) ∧
    (surveyAt 5 id).rd TS_STATUS_SURVEY = 5) ∧
    ((let d := (surveyDev.raise TS_STATUS_NB_VALID).raise TS_CFG_XEN
     d.coreRuns = true ∧ d.on TS_STATUS_NB_VALID = true ∧ d.surveying = false ∧ d.on TS_SURVEY_GO = false ∧ d.on TS_CFG_XEN = true ∧
       d.on TC_STATUS_HOLDOVER = false ∧ d.engine = true) ∧
    (surveyAt 2 id).rd TS_STATUS_SURVEY = 2 ∧
    (let d := surveyAt 3 fun x => { x with cross := true }
     d.rd TS_STATUS_SURVEY = 3 ∧ d.ts.survey.cross = true ∧ d.ts.survey.initiator = true ∧ d.ts.survey.sources = [] ∧ d.ts.survey.again = []) ∧
    (surveyAt 0 fun x => { x with waiting := true }).ts.survey.waiting = true) :=
  ⟨witness_OneDeviceSurveysRun, witness_CrossSurveysRun⟩

theorem witness_GangwayMaster :
    ((let d := runDev
     d.reaches .pilot (gwBase 1) = true ∧ d.on (GW_CFG_ROLE 1) = true ∧ (d.gwp 1).cmd = none ∧ bits (0x20000003#32).toNat 28 26 ≤ 4 ∧
       d.rd (GW_MLEN_DLEN 1) % d.rd (GW_CS_CFG_UNIT 1 (bits (0x20000003#32).toNat 31 30)) = 0 ∧ bit (0x20000003#32).toNat 29 ≠ false ∧
       masterWords (d.rd (GW_CS_CFG_UNIT 1 0)) (d.rd (GW_MLEN_DLEN 1)) ≤ 256 ∧ (d.gwp 1).fill = [] ∧ d.xipSelect 1 0 = false ∧
       (d.wr (GW_MLEN_DLEN 1) 12).rd (GW_MLEN_DLEN 1) % d.rd (GW_CS_CFG_UNIT 1 0) ≠ 0 ∧ (d.gwp 1).mdata = [] ∧ (d.gwp 1).mdata.length < 256) ∧
    (let f : MasterFrame := ⟨0, some 3, [], none, 8, true, 32, []⟩
     let d := runDev.modGw 1 fun g => { g with cmd := some f, started := true, mdata := [5] }
     (d.gwp 1).cmd = some f ∧ (d.gwp 1).started = true ∧ (d.gwp 1).waits = [] ∧ (d.gwp 1).mdata = 5 :: [])) ∧
    ((flashDev.pathOpen .pilot = true ∧ flashDev.xipOpen = true ∧ (flashDev.gwp 1).waits = [] ∧ 132 % 2 ^ 2 = 0 ∧
       (flashDev.gwp 1).lines.any (·.1 == 132 / 64) = true ∧ (flashDev.gwp 1).lines.any (·.1 == 64 / 64) = false ∧ (flashDev.gwp 1).fill = [] ∧
       (flashDev.gwp 1).cmd = none ∧ flashDev.on GW1_XIP_CFG_HOLD = false ∧ runDev.xipOpen = false ∧ flashDev.reaches .pilot 0x5800 = true ∧
       runDev.on GW1_XIP_CFG_EN = false ∧ flashDev.on GW1_XIP_CFG_EN = true ∧ flashDev.rd GW1_XIP_CFG_OPCODE ≠ bits (0xC00#32).toNat 15 8) ∧
    (let d := flashDev.modGw 1 fun g => { g with fill := [(1, false)], waits := [⟨.pilot, 64, 4, 4, true, 0⟩] }
     (d.gwp 1).fill = [(1, false)] ∧ (d.gwp 1).waits = [⟨.pilot, 64, 4, 4, true, 0⟩] ∧ (d.gwp 1).cmd = none ∧ 64 / 64 = 1 ∧ (64 + 4 - 1) / 64 = 1)) :=
  ⟨witness_MasterCommands, witness_ExecuteInPlace⟩

theorem witness_CalibrationAndCommits :
    ((calDev 1).on CL_STATUS_RUNNING = true ∧ (calDev 1).coreRuns = true ∧ (calDev 1).rd CL_STATUS_STEP = 1 ∧ (calDev 4).rd CL_STATUS_STEP = 4 ∧
    ((calDev 2).cl.block = 0 ∧ (calDev 2).rd CL_STATUS_STEP = 2) ∧
    (let d := (calDev 3).modCl fun c => { c with block := 131 }; d.cl.block = 131 ∧ d.rd CL_STATUS_STEP = 3 ∧ d.on PW_STATUS_THERM_SHUT = false) ∧
    ((calDev 2).clChan 0).aside = false ∧ (((calDev 2).modClChan 0 fun c => { c with aside := true }).clChan 0).aside = true ∧
    (calmMeas.before || calmMeas.after) = false ∧ (calDev 6).rd CL_STATUS_STEP = 6 ∧ (calDev 6).boot.phase = .runtime) ∧
    ((let d := runDev.raise CL_STATUS_ALL_TRACED
     d.reaches .pilot 0x2000 = true ∧ d.on CL_CMD_STATUS_BUSY = false ∧ d.cy.burn = none ∧ d.rd PW_STATE_CUR = 1 ∧ d.on PW_STATUS_PFAIL = false ∧
       d.on CL_STATUS_ALL_TRACED = true ∧ runDev.on CL_STATUS_ALL_TRACED = false ∧ (d.raise CL_CMD_STATUS_BUSY).on CL_CMD_STATUS_BUSY = true ∧
       (upTo 24).find? (fun k => !slotUsed (d.recordSlot k)) = some 0 ∧
       (let e := { d with fuses := { d.fuses with records := Vector.replicate 24 usedSlot } }
        e.on CL_STATUS_ALL_TRACED = true ∧ (upTo 24).all (fun k => slotUsed (e.recordSlot k)) = true) ∧
       (d.modCl fun c => { c with burn := some (0, usedSlot) }).cl.burn = some (0, usedSlot))) :=
  ⟨witness_CalibrationRuns, witness_CommitsBurnARecord⟩

theorem witness_Reception :
    ((let d := rxDev 1 4
     d.coreRuns = true ∧ (d.chan 0).exch = some deskExch ∧ d.rd (CH_RX_STATUS_STATE 0) = 1 ∧ (d.chan 0).rx.armed = true ∧ deskExch.deadline = some 1000 ∧ 900 ≤ 1000 ∧
       d.overThreshold 0 (40#8).toNat (160#8).toNat = true ∧ d.blanked 0 900 = false ∧ d.overThreshold 0 (159#8).toNat (160#8).toNat = false) ∧
    (let d := rxDev 2 5
     d.rd (CH_RX_STATUS_STATE 0) = 2 ∧ (d.chan 0).rx.aged = false ∧ (30#8).toNat + 6 ≤ (d.chan 0).rx.cur.level ∧ (d.chan 0).rx.cur.level < (38#8).toNat + 6 ∧
       (d.chan 0).rx.overload = false ∧ (d.chan 0).rx.ended = false ∧ d.rd (CH_RX_STATUS_STATE 0) ∈ [2, 3, 4]) ∧
    (rxDev 4 5).rd (CH_RX_STATUS_STATE 0) = 4) ∧
    ((let d := (fieldDev .off).raise (CH_SEL_STATUS_ON 0)
     d.coreRuns = true ∧ (d.chan 0).field.lit = false ∧ d.on (CH_SEL_STATUS_ON 0) = true ∧ d.rd PW_STATE_CUR ≠ 2) ∧
    (let g : Grant := { deskGrant with listeners := [⟨2, 3, 5⟩] }
     let d := ({ deskDev with ts := { deskDev.ts with grants := [g] } } : Dev).raise (CH_SEL_STATUS_ON 2) |>.wr (CH_SEL_STATUS_COIL 2) 3
     let d := d.modRx 0 fun r => { r with window := some [1#32, 2#32, 3#32] }
     d.grantNow 0 = some g ∧ (d.chan 0).rx.window = some [1#32, 2#32, 3#32] ∧ d.ms < 5 ∧ d.reader 2 = false ∧ g.listeners.find? (·.ch = 2) = some ⟨2, 3, 5⟩ ∧
         d.selected 2 = 3 ∧ d.on (CH_SEL_STATUS_ON 2) = true) ∧
    ((rxDev 1 4).reaches .gw0 0x40000 = true ∧ (rxDev 1 4).rd (CH_RX_STATUS_STATE 0) < 2) ∧
    (2 ≤ (rxDev 3 5).rd (CH_RX_STATUS_STATE 0) ∧ (rxDev 3 5).rd (CH_RX_STATUS_STATE 0) ≤ 5)) :=
  ⟨witness_ReceiverFollowsFrames, witness_ReceiverMeasurements⟩

theorem witness_EthernetPorts :
    (etherDev.enAble 0 = true ∧ etherDev.applied = true ∧ etherDev.on (EN_CFG_RX_EN 0) = true ∧ etherDev.on (EN_STATUS_LINK 0) = true ∧
    etherDev.on GC_STATUS_PLLD_LOCK = true ∧ (etherDev.lower GC_STATUS_PLLD_LOCK).on GC_STATUS_PLLD_LOCK = false ∧
    (etherDev.lower GC_STATUS_PLLD_LOCK).applied = true ∧ (etherDev.lower GC_STATUS_PLLD_LOCK).rxRing 0 (etherFrame [0x08, 0x06]) = some 1 ∧
    (let f := [0x01, 0x80, 0xC2, 0, 0, 0x01] ++ zeros 6 ++ [0x88, 0x08, 0, 1, 0, 9] ++ zeros 42
     60 ≤ f.length ∧ f.length ≤ 1518 ∧ f.take 6 = [0x01, 0x80, 0xC2, 0, 0, 0x01] ∧ beNat ((f.drop 12).take 2) = 0x8808 ∧
       beNat ((f.drop 14).take 2) = 1 ∧ etherDev.on (EN_CFG_PAUSE_RX 0) = true) ∧
    (let f := etherFrame [0x08, 0x06]
     beNat ((f.drop 12).take 2) ≠ 0x8808 ∧ beNat ((f.drop 12).take 2) ≠ 0x8100 ∧ ptpAt f = none ∧ etherDev.destOk 0 (f.take 6) = true ∧
       etherDev.on (EN_CFG_ACCEPT_UNTAG 0) = true ∧ etherDev.ringOwned 0 1 = true ∧ f.length ≤ etherDev.rd (EN_CFG_BUF_LEN 0) ∧
       etherDev.on (EN_CFG_PAUSE_TX 0) = false ∧ 0x10000000 ≤ etherDev.ringAt 0 1 ∧ etherDev.ringAt 0 1 + 32 ≤ 0x20000000 ∧
       0x10000000 ≤ Memory.word etherDev.mem (etherDev.ringAt 0 1 + 4) ∧ Memory.word etherDev.mem (etherDev.ringAt 0 1 + 4) + f.length ≤ 0x20000000 ∧
       etherDev.rxRing 0 f = some 1 ∧ (etherDev.wr (EN_RING_TAIL_IDX 0 1) 0).rxRing 0 f = some 1 ∧
       (etherDev.wr (EN_RING_TAIL_IDX 0 1) 0).ringOwned 0 1 = false)) ∧
    ((let d := etherDev
     d.reaches .pilot (enBase 0) = true ∧ d.on (EN_CFG_PAUSE_TX 0) = false ∧ (3#32).toNat % 65536 < d.rd (EN_RING_SIZE_N 0 4) ∧
       d.rd (EN_RING_SIZE_N 0 4) ≤ (8#32).toNat % 65536 ∧
       d.applied = true ∧ d.on (EN_STATUS_LINK 0) = true ∧ d.on (EN_CFG_TX_EN 0) = true ∧ d.on GC_STATUS_PLLD_LOCK = true ∧ (d.enPort 0).held = false ∧ d.ringOwned 0
           4 = true ∧
       Memory.word d.mem (d.ringAt 0 4) % 2 ^ 14 ≠ 0 ∧ bit (Memory.word d.mem (d.ringAt 0 4)) 28 = false ∧ bit (Memory.word d.mem (d.ringAt 0 4)) 29 = false ∧
       0x10000000 ≤ d.ringAt 0 4 ∧ d.ringAt 0 4 + 32 ≤ 0x20000000 ∧ bit (Memory.word d.mem (d.ringAt 0 4)) 30 = false) ∧
    (let d := stampDev
     let w0 := Memory.word d.mem (d.ringAt 0 4)
     let f := Memory.read d.mem (Memory.word d.mem (d.ringAt 0 4 + 4)) (w0 % 2 ^ 14)
     d.applied = true ∧ d.ringOwned 0 4 = true ∧ w0 % 2 ^ 14 ≠ 0 ∧ bit w0 28 = false ∧ bit w0 29 = false ∧ bit w0 30 = true ∧ ptpAt f = some (14, none) ∧
       u8At f 14 % 16 < 4 ∧ (d.q 27).stalled = [] ∧ (d.q 27).fits (d.qSize 27) 5 = true ∧
       ((d.q 27).waiting.filter Entry.isItem).length + ((d.q 27).retained.filter Entry.isItem).length < 16) ∧
    (runDev.reaches .pilot 0x6000 = true ∧ runDev.on EN0_MDIO_CMD_BUSY = false ∧ bit (0x60840000#32).toNat 30 = true ∧ bits (0x70840000#32).toNat 29 28 ≠ 2 ∧
      bit (0x10000000#32).toNat 30 = false ∧ bits (0x10000000#32).toNat 29 28 = 1 ∧ (runDev.raise EN0_MDIO_CMD_BUSY).on EN0_MDIO_CMD_BUSY = true ∧
      (runDev.raise EN0_MDIO_CMD_BUSY).rd EN0_MDIO_CMD_OP = 2 ∧ (runDev.raise EN0_MDIO_CMD_BUSY).on EN0_MDIO_CMD_C45 = false ∧
      ((runDev.raise EN0_MDIO_CMD_BUSY).wr EN0_MDIO_CMD_OP 1).rd EN0_MDIO_CMD_OP ≠ 2)) :=
  ⟨witness_EthernetReceives, witness_EthernetSends⟩

theorem witness_FatalErrorsAndTheirRecords :
    (runDev.coreRuns = true ∧ runDev.fd.handling = false ∧ runDev.applied = true ∧ (runDev.wr (DK_TILE_FUNC 3) 5).rd (DK_TILE_FUNC 3) ≠ 0 ∧
    (let d := runDev.raise FD_WDOG_CFG_EN
     d.wdogCounts = true ∧ d.fd.handling = false ∧
       d.rd FD_WDOG_STATUS_ELAPSED * 406800 + d.clk.wdog ≤ (d.rd FD_WDOG_CFG_TIMEOUT - d.rd FD_WDOG_CFG_PRE) * 406800) ∧
    runDev.boot.phase ≠ .recover ∧ journalAddress (BitVec.ofNat 32 (mramBase + journalAt)).toNat = true ∧
    (faultDev.coreRuns = true ∧ faultDev.fd.handling = true ∧ faultDev.time ≠ faultDev.fd.entry) ∧
    (let d := { faultDev with time := 2 ^ 49 }
     d.coreRuns = true ∧ d.fd.handling = true ∧ d.time = d.fd.entry ∧ 1 < d.rd FD_FATAL_SOURCE)) ∧
    (faultDev.coreRuns = true ∧ faultDev.fd.handling = true ∧ faultDev.on FD_FATAL_SLOT_OK = false ∧ faultDev.fd.slot < 4 ∧ faultDev.fd.begun = false ∧
    faultDev.power.fence = false ∧ (faultDev.modPower fun p => { p with fence := true }).power.fence = true ∧
    (faultDev.raise FD_FATAL_SLOT_OK).on FD_FATAL_SLOT_OK = true ∧ (faultDev.raise FD_FATAL_SLOT_OK).dumpSkipped = false ∧
    (faultDev.lower GC_STATUS_PLLD_LOCK).dumpSkipped = true) :=
  ⟨witness_FatalErrors, witness_FaultHandlerRecords⟩

theorem witness_GpioEdges :
    (runDev.power.step ≠ .off ∧ runDev.gpioDriven 7 = none ∧ bit runDev.gpio 7 ≠ true ∧ bit runDev.gpio 7 = false) ∧
    ((let d := runDev.setBit GC_GPIO_RISE_EN 7
     d.coreRuns = true ∧ d.gpioDriven 7 = none ∧ bit d.gpio 7 ≠ true ∧ d.bitOn GC_GPIO_RISE_EN 7 = true ∧ d.serviceRecord 4 = none)) :=
  ⟨witness_OneGpioEdge, witness_PilotInterrupts⟩

/-! The frame statements say what holds when a command answers a next state: every command does, in every state. -/

theorem witness_Frames (i : Instr) (s : State) : ∃ t, exec i s = .next t := by
  cases i <;> exact ⟨_, rfl⟩

theorem witness_PowerBootAndCalibrationFrames : ∃ t, exec .crystalStable State.reset = .next t := witness_Frames _ _
theorem witness_PowerBootAndCalibrationFrames_rail : runDev.NothingWaits ∧ ∃ t, exec (.railInRegulation .vddr) (holds runDev) = .next t :=
  ⟨by decide +kernel, witness_Frames _ _⟩
theorem witness_ChannelAndScheduleFrames : ∃ t, exec .slotBoundary State.reset = .next t := witness_Frames _ _
theorem witness_QueueServiceAndKeyFrames : ∃ t, exec (.queuePop .gw0 0) State.reset = .next t := witness_Frames _ _
theorem witness_ClockFabricAndPortFrames : ∃ t, exec (.pulseEdge 0) State.reset = .next t := witness_Frames _ _

/-! An ill-formed command for each check of `Instr.wf`, and a well-formed one beside it. -/

/-- A frame with no bit and one stop bit. -/
def loneStop : RxFrame := { quietFrame with slices := [], stops := 1 }

/-- A frame with no bit and the MSE of two. -/
def looseMse : RxFrame := { quietFrame with slices := [], mses := [0, 0] }

/-- A boot environment whose first directory entry has 31 bytes. -/
def shortDirA : BootEnv := { noBoot with dirA := zeros 31 }

/-- A boot environment whose second directory entry has 33 bytes. -/
def longDirB : BootEnv := { noBoot with dirB := zeros 33 }

theorem smoke_frame_stops : (Instr.fieldEndPoint 0 loneStop).wf = false ∧ (Instr.fieldEndPoint 0 quietFrame).wf = true := by decide +kernel
theorem smoke_frame_mse : (Instr.grantRelease 0 looseMse).wf = false := by decide +kernel
theorem smoke_directory : (Instr.resetRelease shortDirA).wf = false ∧ (Instr.pllLock .a longDirB).wf = false ∧ (Instr.resetRelease noBoot).wf = true := by
  decide +kernel
theorem smoke_frames_of_a_burst : (Instr.pllaUnlock [(0, looseMse)]).wf = false ∧ (Instr.thermalShutdown [(0, loneStop)]).wf = false ∧
    (Instr.regWritePacket [(0, looseMse)]).wf = false := by decide +kernel
theorem smoke_frame_events : (Instr.txAmpWrite .gw0 0 0 looseMse).wf = false ∧ (Instr.correlation 0 0 0 0 0 [] loneStop).wf = false ∧
    (Instr.correlation 0 0 0 0 0 (List.replicate 129 0) quietFrame).wf = false ∧
    (Instr.endOfFrame 0 looseMse).wf = false ∧ (Instr.endOfFrame 0 quietFrame).wf = true := by decide +kernel
theorem smoke_image_too_long (img : List Byte) (h : 0x2000000 < img.length) : (Instr.imageFetchDone (some img)).wf = false := by
  simpa [Instr.wf, imageWf] using h
theorem smoke_survey_source : (Instr.surveyProposal 1 0 0 0 [1536]).wf = false ∧ (Instr.surveyProposal 1 0 0 0 [1535]).wf = true := by decide +kernel
theorem smoke_survey_value : (Instr.surveyResults [⟨1536, 0, 0, 0⟩]).wf = false ∧ (Instr.surveyResults [⟨0, 1536, 0, 0⟩]).wf = false ∧
    (Instr.surveyResults [⟨0, 0, 4096, 0⟩]).wf = false ∧ (Instr.surveyResults [⟨0, 0, 0, 256⟩]).wf = false ∧
    (Instr.surveyResults [⟨1535, 1535, 4095, 255⟩]).wf = true := by decide +kernel
theorem smoke_shadow_burst : (Instr.shadowHostBurst .gw0 0 [1] 1).wf = false ∧ (Instr.shadowHostBurst .gw0 0 [] 0).wf = false ∧
    (Instr.shadowHostBurst .gw0 0 [] 1).wf = true := by decide +kernel
theorem smoke_item_type : (Instr.queueItemComplete 0 0x1F []).wf = false ∧ (Instr.queueItemComplete 0 0x20 (List.replicate 256 0)).wf = false ∧
    (Instr.queueItemComplete 0 0x20 (List.replicate 255 0)).wf = true := by decide +kernel
theorem smoke_link_frame :
    (Instr.codewordReceived 0 (some ⟨1, 0, 0, false, false, 0, zeros 215⟩) false 0 0).wf = false ∧
    (Instr.codewordReceived 0 (some ⟨2, 0, 0, false, false, 0, zeros 216⟩) false 0 0).wf = false ∧
    (Instr.codewordReceived 0 (some ⟨1, 0, 0, false, false, 216, zeros 216⟩) false 0 0).wf = false ∧
    (Instr.codewordReceived 0 (some ⟨1, 0, 0, false, false, 0x3FF, zeros 216⟩) false 0 0).wf = true ∧
    (Instr.codewordReceived 0 none false 0 0).wf = true := by decide +kernel
theorem smoke_boot_chunk : (Instr.bootData 0 0 (zeros 1005)).wf = false ∧ (Instr.bootData 0 0 (zeros 1004)).wf = true := by decide +kernel
theorem smoke_ethernet_frame (fr : List Byte) (h : 16384 < fr.length) : (Instr.ethFrameReceived 0 fr true false 0).wf = false := by
  simpa [Instr.wf] using h
theorem smoke_gangway_write : (Instr.gwWrite 0 0 32 (zeros 3) []).wf = false ∧ (Instr.gwWrite 0 0 32 (zeros 4) [(0, looseMse)]).wf = false ∧
    (Instr.gwWrite 0 0 33 (zeros 4) []).wf = true := by decide +kernel
theorem smoke_master_data : (Instr.masterCommandDone 0 (List.replicate 257 0)).wf = false ∧
    (Instr.masterCommandDone 0 (List.replicate 256 0)).wf = true := by decide +kernel
theorem smoke_line_fill : (Instr.xipLineFill (zeros 63)).wf = false ∧ (Instr.xipLineFill (zeros 64)).wf = true := by decide +kernel
theorem smoke_crash_slot : (Instr.crashSlotWritten [[], [], []] 0).wf = false ∧ (Instr.crashSlotWritten [[], [], [], zeros 4097] 0).wf = false ∧
    (Instr.crashSlotWritten [[], [], [], []] 0x100000).wf = false ∧ (Instr.crashSlotWritten [[], [], [], []] 0).wf = true := by decide +kernel
theorem smoke_write_length : (Instr.registerWrite .gw0 0 [] []).wf = false ∧ (Instr.registerWrite .gw0 0 (zeros 3) []).wf = false ∧
    (Instr.registerWrite .gw0 0 (zeros 4) [(0, looseMse)]).wf = false ∧ (Instr.registerWrite .pilot 0 (zeros 2) []).wf = true := by decide +kernel

/-! One step of a command, by the rules named. -/

/-- Does a command lead to a next state of the part that has a property? -/
def chk (i : Instr) (d : Dev) (P : Dev → Bool) : Bool :=
  match exec i (holds d) with
  | .next t => P t.dev
  | _ => false

/-- Is an outcome a next state of the part that has a property? -/
def chk2 (o : Host.Outcome State Fault Refusal) (P : Dev → Bool) : Bool :=
  match o with
  | .next t => P t.dev
  | _ => false

/-- By R105. -/
theorem test_txAmpWrite_1 :
    (chk (.txAmpWrite .gw0 3 0x108 quietFrame) (upDev.raise DK_STATUS_LOADED) (fun d => decide (d.rd (ERR_RANGE (0x40000 + 3 * 0x2000)) = 1 ∧ d.rd (CH_TX_AMP_CODE 3)
        = 0))) = true := by
  decide +kernel

/-- By R18. -/
theorem test_slotBoundary_1 :
    (chk .slotBoundary surveyDev (fun d => decide (surveyDev.ms + 1 ≤ d.ms ∧ d.rd TS_STATUS_SLOT = d.slotIndex d.ms % 2 ^ 8 ∧
        d.rd PW_RF_BUDGET_BUDGET = budgetOf (surveyDev.rd PW_RF_CAP_CAP) (surveyDev.rd PW_THERM_THROTTLE) (toSigned 11 (surveyDev.rd PW_TEMP_TEMP)) % 2 ^ 11))) = true
            := by
  decide +kernel

/-- By R211. -/
theorem test_surveyAbort_1 :
    (chk (.surveyAbort .gw0 0) (surveyAt 3 id) (fun d => decide (d.rd TS_STATUS_SURVEY = 0 ∧ d.rd TS_SURVEY_GO = 0 ∧ d.rd TS_SURVEY_STATUS_CODE = cABORTED))) = true := by
  decide +kernel

/-- By R211. -/
theorem test_surveyGo_1 :
    (chk (.surveyGo .gw0 0x2108) surveyDev (fun d => decide (d.rd TS_STATUS_SURVEY = 1 ∧ d.rd TS_SURVEY_GO = 1 ∧ d.rd TS_SURVEY_CODE = bits (0x2108#32).toNat 9 0 ∧
        d.rd TS_SURVEY_AVG = 8 ∧ d.ts.survey.sources = surveyDev.readerBerths))) = true := by
  decide +kernel

/-- By R212. -/
theorem test_surveyMeasurement_1 :
    (chk (.surveyMeasurement 1 10 3 40) ((surveyAt 3 fun x => { x with pos := 3, sources := [1], len := 4 }).raise (CH_SEL_STATUS_ON 1) |>.wr (CH_SEL_STATUS_COIL 1)
        1) (fun d => decide (d.ts.survey.raw = [(berthOf 1 1, 10, 3)]))) = true := by
  decide +kernel

/-- By R215. -/
theorem test_surveyBlockResult_1 :
    (chk (.surveyBlockResult 3 4 false) (surveyAt 4 fun x => { x with initiator := false, sources := [6], cross := true, closed := [(5, false, [(66, 30, 1)])] }) (fun
        d => decide (d.rd TS_STATUS_SURVEY = 4 ∧ d.ts.survey.sources = [6] ∧ d.ts.survey.values = [⟨5, 66, 27, 253⟩]))) = true := by
  decide +kernel

/-- By R210. -/
theorem test_nbCommit_1 :
    (chk (.nbCommit .gw0 3) surveyDev (fun d => decide (d.rd TS_STATUS_NB_VALID = 1 ∧ d.rd TS_NB_SEL_BERTH = 3))) = true := by
  decide +kernel

/-- By R210. -/
theorem test_nbClear_1 :
    (chk (.nbClear .gw0 3) surveyDev (fun d => decide (d.rd TS_STATUS_NB_VALID = 0 ∧ d.rd TS_NB_SEL_BERTH = 3))) = true := by
  decide +kernel

def probe_e1_wd0 := (surveyDev.wr PW_STATE_CUR 3).raise (PW_WK_ENT_EN 7)

def probe_e1_wd := ({ probe_e1_wd0 with ts := { probe_e1_wd0.ts with burst := [7], sniffAt := probe_e1_wd0.ns + 5 } } : Dev)

/-- By R232. -/
theorem test_sniff_1 :
    (chk (.sniff 7 200) probe_e1_wd (fun d => decide (d.detector 7 = ⟨7,1,200,0⟩))) = true := by
  decide +kernel

/-- By R231. -/
theorem test_sniffBurst_1 :
    (chk .sniffBurst probe_e1_wd (fun d => decide (d.rd PW_WK_STATUS_RUN = 1 ∧ d.ts.burst = [7]))) = true := by
  decide +kernel

/-- By R136. -/
theorem test_correlation_1 :
    (chk (.correlation 0 30 160 1 900 [] quietFrame) (rxDev 2 5) (fun d => decide (d.rd (CH_RX_STATUS_STATE 0) = 4 ∧ d.rd (CH_STATS_FALSE_SOF 0) = 1 ∧ (d.chan
        0).rx.cur.level = 30))) = true := by
  decide +kernel

/-- By R184. -/
theorem test_inventory_1 :
    (chk (.inventory 0) (askDev 1 [0x10000101#32, 0#32] 1 1) (fun d => decide (d.ts.reqs.length = 1 ∧ (d.chan 0).queue = []))) = true := by
  decide +kernel

/-- By R112. -/
theorem test_rfReset_1 :
    (chk (.rfReset 0) (askDev 7 [] 1 1) (fun d => decide ((d.chan 0).field.st = .resetDown ∧ ((d.chan 0).context 2).st = 0))) = true := by
  decide +kernel

/-- By R196. -/
theorem test_activate_1 :
    (chk (.activate 0) (askDev 2 [0x20000000#32] 1 1) (fun d => decide ((d.chan 0).exch.map (·.frame) = some (fReqa true) ∧ (d.chan 0).exch.map (·.ctx) = some 2))) =
        true := by
  decide +kernel

/-- By R184. -/
theorem test_exchange_1 :
    (chk (.exchange 0) (askDev 3 [0x20000002#32, 7#32] 1 3) (fun d => decide ((d.chan 0).exch.map (·.frame) = some (firstBlock (((askDev 3 [0x20000002#32, 7#32] 1
        3).chan 0).context 2) [7,0])))) = true := by
  decide +kernel

/-- By R184. -/
theorem test_halt_1 :
    (chk (.halt 0) (askDev 4 [0x20000000#32] 3 2) (fun d => decide ((d.chan 0).exch.map (·.frame) = some (fQuiet [1,2,3,4])))) = true := by
  decide +kernel

/-- By R184. -/
theorem test_release_1 :
    (chk (.release 0) (askDev 5 [0x20000000#32] 1 1) (fun d => decide ((d.chan 0).context 2 = Ctx.free))) = true := by
  decide +kernel

def probe_e1_mig := ({ askDev 6 [0x20800000#32] 1 1 with
       boot := { deskDev.boot with manifest := some { smallManifest with channels := [⟨1, 4, 15, 150⟩, ⟨1, 4, 15, 150⟩] } } } : Dev).modField 1 fun f => { f with st
           := .on }

/-- By R200. -/
theorem test_migrate_1 :
    (chk (.migrate 0) probe_e1_mig (fun d => decide ((d.chan 0).context 2 = Ctx.free ∧ (d.chan 1).context 0 =
        { (probe_e1_mig.chan 0).context 2 with prev := 1, gen := 1, coil := probe_e1_mig.selected 1 }))) = true := by
  decide +kernel

/-- By R239. -/
theorem test_importPlain_1 :
    (chk (.importPlain .gw0 5 0 1) ((keyDev plainWords).wr GC_BOOT_KEYMODE 2) (fun d => decide (d.keySlot 5 = some ⟨1,0,0,wordsToBytes (List.replicate 4 7#32)⟩ ∧ d.rd
        CY_KSTATUS_DIRTY = 1 ∧ d.rd CY_KSTATUS_CODE = 0 ∧ d.cy.inp = []))) = true := by
  decide +kernel

/-- By R242. -/
theorem test_erase_1 :
    (chk (.erase .gw0 4) (keyedDev []) (fun d => decide (d.keySlot 4 = none ∧ d.rd CY_KSTATUS_DIRTY = 1 ∧ d.rd CY_KSTATUS_CODE = 0))) = true := by
  decide +kernel

/-- By R238. -/
theorem test_kdataWrite_1 :
    (chk (.kdataWrite .gw0 4) (keyedDev (List.replicate 64 0#32)) (fun d => decide (d.rd (ERR_RANGE 0x30000) = 1))) = true := by
  decide +kernel

/-- By R238. -/
theorem test_kdataRead_1 :
    (chk (.kdataRead .gw0) { keyedDev [] with cy := { (keyedDev []).cy with outp := [7,8] } } (fun d => decide (d.out = [7] ∧ d.cy.outp = [8]))) = true := by
  decide +kernel

/-- By R257. -/
theorem test_tamperEvent_1 :
    (chk (.tamperEvent 0) (keyedDev []) (fun d => decide (d.epoch = 1 ∧ d.keySlot 4 = none ∧ d.rd CY_TRNG_READY = 0 ∧ d.rd (tamperFlag 0) = 1))) = true := by
  decide +kernel

/-- By R256. -/
theorem test_tamperSample_1 :
    (chk (.tamperSample 0 (!(keyedDev []).cy.guard0)) (keyedDev []) (fun d => decide (d.cy.miss0 = 1 ∧ d.rd CY_TAMPER_LOOP0_OK = 0))) = true := by
  decide +kernel

/-- By R259. -/
theorem test_trngStartupDone_1 :
    (chk (.trngStartupDone false) (((keyDev []).raise CY_TRNG_STARTUP).wr CY_TRNG_FAILS 3) (fun d => decide (d.rd CY_TRNG_HALT = 1))) = true := by
  decide +kernel

/-- By R245. -/
theorem test_fuseBurnDone_1 :
    (chk (.fuseBurnDone false) ((keyDev []).modCy fun c => { c with burn := some ⟨0x0B, 1, zeros 32⟩ }) (fun d => decide (d.hashFuse 1 = ⟨zeros 32, false, false,
        true⟩ ∧ d.rd CY_KSTATUS_CODE = kFUSE))) = true := by
  decide +kernel

/-- By R246. -/
theorem test_burnHash_1 :
    (chk (.burnHash .gw0) (((keyDev ([0x0000010B#32] ++ List.replicate 10 5#32)).wr GC_BOOT_KEYMODE 2).wr GC_UNITID_ID 0x0000000500000005) (fun d => decide (d.rd
        CY_KSTATUS_BUSY = 1))) = true := by
  decide +kernel

/-- By R34. -/
theorem test_latchedRead_1 :
    (chk2 (execLatchedRead .gw0 0x4038 (holds { runDev with time := 5000000000000000000000 })) fun d => decide (d.latch.length = 1 ∧ d.out = [nw
        (({ runDev with time := 5000000000000000000000 } : Dev).wordNow (hitAt 0x4038))])) = true := by
  decide +kernel

/-- By R44. -/
theorem test_rcRead_1 :
    (chk2 (execRcRead .gw0 0x4068 (.words 1) (holds ((runDev.wr TC_COUNTS_REFUSED 3).wr TC_COUNTS_MASTERS 9))) fun d => decide (d.out = [packW [(24, 8, 3), (16, 8,
        0), (8, 8, 0), (0, 8, 9)]] ∧ d.rd TC_COUNTS_MASTERS = 0)) = true := by
  decide +kernel

/-- By R45. -/
theorem test_registerWrite_1 :
    (chk2 (execRegisterWrite .gw0 0x1020 (leBytes 4 (0xFFFF0000+500)) [] (holds runDev)) fun d => decide (d.rd PW_RF_CAP_CAP = 500)) = true := by
  decide +kernel

/-- By R35. -/
theorem test_stagedWrite_1 :
    (chk2 (execStagedWrite .gw0 0x6020 9 (holds deskDev)) fun d => decide (d.stage = [(.gw0, 0x6020, 9)] ∧ d.regs = deskDev.regs)) = true := by
  decide +kernel

def probe_e04_a1 := bootDev fun b => { b with phase := .apply, source := 3, manifest := some smallManifest }

/-- By R76. -/
theorem test_configApplyDone_1 :
    (chk .configApplyDone probe_e04_a1 fun d => decide (d.boot.phase = .recover ∧ d.rd DK_STATUS_LOADED = 1 ∧ d.rd GC_BOOT_STAGE = 5 ∧ d.rd SV_RUNTIME_STATE = 1 ∧
        d.rd GC_MANIFEST_ID_ID = 1)) = true := by
  decide +kernel

/-- By R79. -/
theorem test_bootDeckParity_1 :
    (chk .bootDeckParity probe_e04_a1 fun d => decide (d.boot.phase = .recover ∧ d.boot.manifest = none ∧ d.rd GC_BOOT_BARE = 1 ∧ d.rd GC_BOOT_ERR_FIRST = 0x1C)) =
        true := by
  decide +kernel

/-- By R317. -/
theorem test_journalRecoveryDone_1 :
    (chk (.journalRecoveryDone none) ((bootDev fun b => { b with phase := .recover }).raise GC_BOOT_BARE) fun d => decide (d.boot.phase = .bare ∧ d.rd SV_RECOV_DONE =
        1 ∧ d.rd SV_RUNTIME_STATE = 0)) = true := by
  decide +kernel

def probe_e04_n1 := (bootDev fun b => { b with phase := .fetch, source := 4, port := 2 }).wr (HSP_STATUS_LINK 2) lUP

/-- By R379. -/
theorem test_bootData_1 :
    (chk (.bootData 2 0 [1,2,3]) probe_e04_n1 fun d => decide (d.mem = Memory.write [] stagingAt [1,2,3] ∧ d.regs = probe_e04_n1.regs)) = true := by
  decide +kernel

/-- By R379, R77. -/
theorem test_bootEnd_1 :
    (chk (.bootEnd 2 0) probe_e04_n1 fun d => decide (d.boot.manifest = none)) = true := by
  decide +kernel

/-- By R379. -/
theorem test_bootDeny_1 :
    (chk (.bootDeny 2) probe_e04_n1 fun d => decide (d.boot.phase = .fetch ∧ d.boot.port = 3 ∧ d.boot.got = 0)) = true := by
  decide +kernel

/-- By R94. -/
theorem test_neighbourBootPortTimeout_1 :
    (chk .neighbourBootPortTimeout probe_e04_n1 fun d => decide (d.boot.phase = .fetch ∧ d.boot.port = 3 ∧ d.boot.got = 0)) = true := by
  decide +kernel

/-- By R379. -/
theorem test_bootRequest_1 :
    (chk (.bootRequest 1) (({ deskDev with boot := { deskDev.boot with staged := (0, 512) } } : Dev).wr (HSP_STATUS_LINK 1) lBOOT_PEER |>.raise HS_MCFG_SERVE_BOOT)
        fun d => decide (d.hs.serving = some (1,0))) = true := by
  decide +kernel

def probe_e04_bare := (bootDev fun b => { b with phase := .bare }).raise GC_BOOT_BARE

/-- By R97. -/
theorem test_manifestBoot_1 :
    (chk (.manifestBoot .mailbox) (withOffer probe_e04_bare (offered 0x10 (zeros 4 ++ leBytes 4 512))) fun d => decide (d.boot.phase = .bare ∧ d.rd GC_BOOT_BARE = 1 ∧
        d.rd SV_MBOX_STATUS_OUT_READY = 1)) = true := by
  decide +kernel

/-- By R92. -/
theorem test_slotConfirm_1 :
    (chk (.slotConfirm .mailbox) (withOffer ({ deskDev with boot := { deskDev.boot with dirA := some trialEntry } }.wr GC_BOOT_SOURCE 1) (offered 0x12 [])) fun d =>
        decide (d.dirEntry 1 = some {trialEntry with confirm := 0} ∧ d.fuses.secMin = 0)) = true := by
  decide +kernel

/-- By R97. -/
theorem test_reset_1 :
    (chk (.reset .mailbox) (withOffer deskDev (offered 0x1f [1])) fun d => decide (d.power.softDue = some (true, deskDev.ns))) = true := by
  decide +kernel

/-- By R93. -/
theorem test_slotWrite_1 :
    (chk (.slotWrite .mailbox true) (withOffer ({ deskDev with boot := { deskDev.boot with dirA := some settledEntry, dirB := some trialEntry } }.wr GC_BOOT_SOURCE 1)
        (offered 0x11 ([1#8, 0#8, 0#8, 0#8] ++ zeros 4 ++ leBytes 4 512))) fun d => decide (d.boot.flashOps = [] ∧ d.dirEntry 2 = some trialEntry)) = true := by
  decide +kernel

/-- By R264. -/
theorem test_carrierLock_1 :
    (chk (.carrierLock 0) { emuDev 0 with shadow := [(0, 0xCE#8), (1, 0x01#8), (2, 2#8), (4,9#8)] } fun d => decide (d.ceState 0 = 1 ∧ (d.inst 0).uid = d.imgBytes 0 3
        7)) = true := by
  decide +kernel

/-- By R265. -/
theorem test_phoneFieldDetected_1 :
    (chk (.phoneFieldDetected 0 0) (emuBase.raise (CE_INST_CFG_EN 0)) fun d => decide (d.rd (CE_INST_STATUS_FIELD 0) = 1 ∧ d.ts.reqs = [⟨.emulation 0, 4, 0, 1, false,
        0, 0, false⟩])) = true := by
  decide +kernel

/-- By R265. -/
theorem test_phoneFieldLost_1 :
    (chk (.phoneFieldLost 0 15000) (emuDev 3) fun d => decide (d.rd (CE_INST_STATUS_FIELD 0) = 0 ∧ d.ceState 0 = 0 ∧ (d.inst 0).lostAt = some (emuDev 3).ns ∧ d.rd
        (CE_INST_STATUS_FIELD_LOSS_SEEN 0) = 1)) = true := by
  decide +kernel

/-- By R268. -/
theorem test_emuFrameReceived_1 :
    (chk (.emuFrameReceived 0 (shortBits 0x26) false 0) (emuDev 1) fun d => decide (d.ceState 0 = 2 ∧ (d.inst 0).reply = some (bitsA 8 (d.imgBytes 0 0x0A 2)))) = true
        := by
  decide +kernel

/-- By R266. -/
theorem test_emulationGrantEnd_1 :
    (chk (.emulationGrantEnd 0) { emuWith 3 fun c => { c with lostAt := some 0 } with time := 10000000 * 2 ^ 40 } fun d => decide (d.rd (CE_INST_STATUS_GRANT 0) = 0 ∧
        d.ceState 0 = 0)) = true := by
  decide +kernel

/-- By R270, R270. -/
theorem test_emuReplyStart_1 :
    (chk (.emuReplyStart 0 0) (emuWith 7 fun c => { c with reply := some [true], toHalt := true }) fun d => decide ((d.inst 0).reply = none ∧ d.ceState 0 = 4)) = true
        := by
  decide +kernel

def probe_e11_ft : FieldTxn := ⟨[0, 2], [(600, 7#8)]⟩

/-- By R278. -/
theorem test_fieldTransactionEnd_1 :
    (chk (.fieldTransactionEnd 0 true) (emuWith 7 fun c => { c with txn := some probe_e11_ft, status := true }) fun d => decide ((d.inst 0).txn = none ∧ d.rd
        (CE_INST_CSEQ_CSEQ 0) = 1 ∧ d.shadow = Memory.set (emuDev 7).shadow 600 7)) = true := by
  decide +kernel

def probe_e11_wt := (emuWith 7 fun c => { c with fwd := some 3 }).wr (CE_INST_WTX_WTX_MAX 0) 1

/-- By R273. -/
theorem test_emuWtxPoint_1 :
    (chk (.emuWtxPoint 0) probe_e11_wt fun d => decide ((d.inst 0).wtx = 1 ∧ (d.inst 0).wtxAwait ∧ (d.inst 0).fwd = some 3 ∧ (d.inst 0).reply.isSome)) = true := by
  decide +kernel

def probe_e11_rs := emuWith 7 fun c => { c with fwd := some 3, asm := [(.gw0, [0x00030002#32])] }

/-- By R273. -/
theorem test_ceRspWrite_1 :
    (chk (.ceRspWrite .gw0 0 0x90) probe_e11_rs fun d => decide (d.rd (CE_INST_STATUS_RSP_CODE 0) = 0 ∧ (d.inst 0).fwd = none ∧ (d.inst 0).reply.isSome)) = true := by
  decide +kernel

/-- By R275. -/
theorem test_ceEnable_1 :
    (chk (.ceEnable .gw0 0 0x90804020) emuBase fun d => decide (d.rd (CE_INST_CFG_EN 0) = 1 ∧ d.rd (CE_INST_CFG_ALM_CODE 0) = bits 0x90804020 29 20 ∧ d.rd
        (CE_INST_CFG_COIL 0) = 1)) = true := by
  decide +kernel

/-- By R280. -/
theorem test_ceLockWrite_1 :
    (chk (.ceLockWrite .gw0 0 2 0x02010000) emuBase fun d => decide (d.rd (CE_INST_LOCK_START 0 2) = 2 ∧ d.rd (CE_INST_LOCK_LEN 0 2) = 2 ∧ d.rd CE_ACC_CODE = 0)) =
        true := by
  decide +kernel

/-- By R279. -/
theorem test_shadowHostBurst_1 :
    (chk (.shadowHostBurst .gw0 0 [] 2) emuBase fun d => decide (d.out = bytesToWords (emuBase.imgBytes 0 0 8) ∧ d.rd CE_ACC_CODE = 0)) = true := by
  decide +kernel

/-- By R279. -/
theorem test_hostWaitExpiry_1 :
    (chk (.hostWaitExpiry 0) (emuWith 7 fun c => { c with host := [⟨.gw0, [], 512, 1, 0, 2, 0⟩] }) fun d => decide ((d.inst 0).host = [] ∧ d.rd CE_ACC_CODE = 2 ∧ d.rd
        CE_ACC_BUSY_SEEN = 1)) = true := by
  decide +kernel

def probe_e12_qm := { Queue.empty with waiting := [{ twoWords with begun := true }], popped := 1, mark := true, retained := [twoWords] }

def probe_e12_q0 := { Queue.empty with waiting := [twoWords, twoWords] }

/-- By R296, R301. -/
theorem test_queueItemComplete_1 :
    (chk (.queueItemComplete 3 0x20 [1,2]) (queueDev probe_e12_q0) fun d => decide ((d.q 3).waiting = probe_e12_q0.waiting ++ [⟨.item 0x20 0 [1,2], false, false⟩] ∧
        (d.q 3).nextIn = 1 ∧ d.regs = (queueDev probe_e12_q0).regs)) = true := by
  decide +kernel

/-- By R295. -/
theorem test_queueStallExpiry_1 :
    (chk (.queueStallExpiry 3) (queueDev { Queue.empty with stalled := [⟨.gw0, 3, false, none, 0⟩] }) fun d => decide (d.out = Queue.empty.emptyMarker :: [0,0] ∧ (d.q
        3).stalled = [] ∧ d.rd (LQN_STATUS_STALL_SEEN 3) = 1)) = true := by
  decide +kernel

/-- By R294. -/
theorem test_queuePop_1 :
    (chk (.queuePop .gw0 3) (queueDev probe_e12_q0) fun d => decide (d.out = [itemHeader 0x20 2 false false 0] ∧ (d.q 3).waiting = [{twoWords with begun:=true},
        twoWords] ∧ (d.q 3).popped = 1)) = true := by
  decide +kernel

/-- By R298. -/
theorem test_dropRest_1 :
    (chk (.dropRest .gw0 3) (queueDev probe_e12_qm) fun d => decide ((d.q 3).waiting = [] ∧ (d.q 3).retained.length = 2 ∧ d.rd (LQN_STATUS_CODE 3) = 0)) = true := by
  decide +kernel

/-- By R300. -/
theorem test_rewind_1 :
    (chk (.rewind .gw0 3) (queueDev {probe_e12_qm with popped := 0}) fun d => decide ((d.q 3).waiting.length = 2 ∧ (d.q 3).retained.length = 0 ∧ (d.q 3).mark = true))
        = true := by
  decide +kernel

/-- By R300. -/
theorem test_mark_1 :
    (chk (.mark .gw0 3) (queueDev probe_e12_qm) fun d => decide ((d.q 3).waiting = probe_e12_qm.waiting ∧ (d.q 3).retained.length = 0 ∧ (d.q 3).mark = true)) = true := by
  decide +kernel

/-- By R299. -/
theorem test_flush_1 :
    (chk (.flush .pilot 3) (queueDev probe_e12_qm) fun d => decide ((d.q 3).waiting = [⟨.flushed 0 1 false, false, false⟩] ∧ (d.q 3).retained.length = 0 ∧ (d.q
        3).mark = false)) = true := by
  decide +kernel

/-- By R302. -/
theorem test_queuePush_1 :
    (chk (.queuePush .gw0 26 5) (((queueDev Queue.empty).wr (LQN_POOL_SIZE 26) 1).modQ 26 fun q => { q with push := [⟨.gw0, [0x20010000#32], 0⟩] }) fun d => decide
        ((d.q 26).waiting = [⟨.item 0x20 0 [5], false, false⟩])) = true := by
  decide +kernel

/-- By R304. -/
theorem test_queueCfgWrite_1 :
    (chk (.queueCfgWrite .gw0 3 0x8F000010) (queueDev probe_e12_qm) fun d => decide (d.rd (LQN_CFG_THRESH 3) = 16 ∧ d.rd (LQN_CFG_IE_MARK_LOST 3) = 1 ∧ d.rd
        (LQN_CFG_IE_GAP 3) = 1)) = true := by
  decide +kernel

/-- By R331. -/
theorem test_mboxWord_1 :
    (chk (.mboxWord .gw0 0x50018000) deskDev fun d => decide (d.sv.mboxIn = [0x50018000] ∧ d.regs = deskDev.regs)) = true := by
  decide +kernel

/-- By R331. -/
theorem test_mboxRead_1 :
    (chk (.mboxRead .hawser) (svDev fun v => {v with mboxOut := [5]}) fun d => decide (d.out = [5] ∧ d.rd SV_MBOX_STATUS_OUT_READY = 0 ∧ d.sv = deskDev.sv)) = true := by
  decide +kernel

/-- By R328. -/
theorem test_serviceEcall_1 :
    (chk (.serviceEcall 2 0x39 0 4 5 6) (svDev fun v => { v with cores := vmod v.cores 2 fun _ => some 0 }) fun d => decide (d.sv.waiting = [⟨.ecall 2, 0x39, 0,
        Memory.read [] 0 4, true, (5,6)⟩])) = true := by
  decide +kernel

/-- By R315. -/
theorem test_journalCommit_1 :
    (chk .journalCommit (svDev fun v => { v with todo := [.count] }) fun d => decide (d.sv.committed.length = 1 ∧ d.sv.jseq = 2 ∧ d.sv.todo = [])) = true := by
  decide +kernel

/-- By R315. -/
theorem test_journalWaitExpiry_1 :
    (chk .journalWaitExpiry fullJournal fun d => decide (d.sv.mboxOut.length = 3 ∧ d.sv.mboxOut = itemHeader 0x51 3 false false 0 :: responseWords (offered 0x61
        ([3#8, 0#8, 0#8, 0#8] ++ zeros 4)) 0x13 [] ∧ d.sv.todo = [] ∧ d.mem = fullJournal.mem)) = true := by
  decide +kernel

/-- By R315. -/
theorem test_journalApply_1 :
    (chk .journalApply (svDev fun v => { v with committed := [⟨1, [(0, [5#8])], 64, [], none⟩] }) fun d => decide (d.sv.committed = [] ∧ d.rd SV_APPLIED_SEQ = 1)) =
        true := by
  decide +kernel

/-- By R325. -/
theorem test_absenceTimeout_1 :
    (chk (.absenceTimeout 0) registryDev fun d => decide ((recKey (registryDev.vread 0 64), 9) ∈ d.sv.verdicts ∧ d.sv.todo.length = 1)) = true := by
  decide +kernel

/-- By R243. -/
theorem test_keyBlobSave_1 :
    (chk .keyBlobSave (deskDev.raise CY_KSTATUS_DIRTY) fun d => decide (d.sv.todo = [.keys none])) = true := by
  decide +kernel

/-- By R282. -/
theorem test_emuImagePersist_1 :
    (chk (.emuImagePersist 2) (deskDev.setBit (CE_INST_DIRTY_BLOCKS 2 1) 5) fun d => decide (d.sv.todo = [.image 2])) = true := by
  decide +kernel

/-- By R337. -/
theorem test_offsetDelivered_1 :
    (chk (.offsetDelivered .gw0 0xFFFFFFFF) ((srcDev 1).lower TC_STATUS_SET) fun d => decide (d.time ≠ 0 ∧ (d.time:Int) = (srcDev 1).time - toSigned 64 (join64 0
        0xFFFFFFFF) * 2 ^ 24 ∧ d.rd TC_STATUS_SET = 1 ∧ d.rd TC_STATUS_STEPPED = 1 ∧ d.rd TC_LAST_OFFSET_VERDICT = 3)) = true := by
  decide +kernel

/-- By R339. -/
theorem test_step_1 :
    (chk (.step .gw0) ((srcDev 1).wr TC_STEP_NS 5) fun d => decide (d.time = (srcDev 1).time + 5*2^40 ∧ d.rd TC_STATUS_SET = 1 ∧ d.rd TC_STATUS_STEPPED = 1 ∧ d.rd
        TC_CMD_STATUS_CODE = 0)) = true := by
  decide +kernel

/-- By R342. -/
theorem test_hold_1 :
    (chk (.hold .gw0) (srcDev 1) fun d => decide (d.rd TC_STATUS_HOLDOVER = 1 ∧ d.rd TC_STATUS_HOLD_SEEN = 1 ∧ d.rd TC_CMD_STATUS_CODE = 0)) = true := by
  decide +kernel

/-- By R350. -/
theorem test_pulseArm_1 :
    (chk (.pulseArm .gw0 2 0x80000000) ((deskDev.wr (TC_PULSE_WIDTH_NS 2) 10).wr (TC_PULSE_START_SEC_LO_SEC 2) 100) fun d => decide (d.rd (TC_PULSE_STAT_ACTIVE 2) = 1
        ∧ d.rd (TC_PULSE_STAT_CODE 2) = 0 ∧ (d.pulse 2).edge = 0)) = true := by
  decide +kernel

/-- By R350. -/
theorem test_pulseEdge_1 :
    (chk (.pulseEdge 3) (deskDev.raise (TC_PULSE_STAT_ACTIVE 3)) fun d => decide (d.rd (TC_PULSE_STAT_ACTIVE 3) = 0 ∧ (d.pulse 3).edge = 1 ∧ (d.pulse 3).high)) = true
        := by
  decide +kernel

/-- By R360. -/
theorem test_linkDetect_1 :
    (chk (.linkDetect 3) (linkDev 3 lDETECT) fun d => decide (d.link 3 = lTRAIN)) = true := by
  decide +kernel

/-- By R360. -/
theorem test_trainInfo_1 :
    (chk (.trainInfo 3 ⟨5, 0, 0, true, 6, 3, 4⟩) (linkDev 3 lEXCHANGE) fun d => decide (d.link 3 = lBOOT_PEER ∧ d.rd (HSP_NEIGH_ID 3) = 5)) = true := by
  decide +kernel

/-- By R360. -/
theorem test_linkTrainTimeout_1 :
    (chk (.linkTrainTimeout 3) (linkDev 3 lDETECT) fun d => decide (d.link 3 = lDETECT ∧ d.rd (HSP_STATUS_NO_SIGNAL_SEEN 3) = 1)) = true := by
  decide +kernel

/-- By R360. -/
theorem test_lineEnergyLost_1 :
    (chk (.lineEnergyLost 3) (linkDev 3 lLOOP) fun d => decide (d.link 3 = lDETECT)) = true := by
  decide +kernel

def probe_e15_ec := (fabricDev 1 0).modHs fun h => { h with cand := (9, 500, 0) }

/-- By R369. -/
theorem test_electEnd_1 :
    (chk .electEnd probe_e15_ec fun d => decide (d.rd HS_STATUS_ROLE = 1 ∧ d.rd HS_ROOT_ID = 500 ∧ d.rd HS_STATUS_DISC = 2)) = true := by
  decide +kernel

def probe_e15_sd := routedDev.modHs fun h => { h with asm := [(.gw0, sendWords)] }

/-- By R377. -/
theorem test_hsSendWord_1 :
    (chk (.hsSendWord .gw0 0x11000000) probe_e15_sd fun d => decide (d.rd HS_SEND_STATUS_CODE = 0 ∧ d.hs.pseq = 1 ∧ (d.port 2).message.waiting = [(1,
        (⟨8,9,0,false,5,probe_e15_sd.rd HS_CFG_TTL,0x11,0,[]⟩ : Packet).bytes)])) = true := by
  decide +kernel

def probe_e15_rg := (routedDev.raise HS_CFG_REMOTE_RD).modHs fun h =>
    { h with regs := [(2, (⟨3, 5, 0, false, 9, 4, 1, 0, leBytes 4 0 ++ [1#8, 0#8, 0#8, 0#8]⟩ : Packet).bytes)] }

/-- By R378. -/
theorem test_regReadPacket_1 :
    (chk .regReadPacket probe_e15_rg fun d => decide ((d.port 2).message.waiting.length = 1 ∧ d.hs.reply = none)) = true := by
  decide +kernel

/-- By R380. -/
theorem test_resetOrder_1 :
    (chk (.resetOrder 9 78) routedDev fun d => decide (d.rd HS_STATUS_RESET_REFUSED_SEEN = 1)) = true := by
  decide +kernel

/-- By R380. -/
theorem test_resetDev_1 :
    (chk (.resetDev .gw0 9) routedDev fun d => decide (d.rd HS_CMD_STATUS_CODE = 4 ∧ d.hs = routedDev.hs)) = true := by
  decide +kernel

def probe_e16_ff := etherFrame [0x08, 0x06]

/-- By R387. -/
theorem test_sgmiiAutoneg_1 :
    (chk2 (execSgmiiAutoneg 0 true true 2 (holds (etherDev.lower (EN_STATUS_LINK 0)))) fun d => decide (d.rd (EN_STATUS_LINK 0) = 1 ∧ d.rd (EN_STATUS_SPEED 0) = 2 ∧
        d.rd (EN_STATUS_LINK_CHG_SEEN 0) = 1)) = true := by
  decide +kernel

/-- By R390. -/
theorem test_ethFrameReceived_1 :
    (chk2 (execEthFrameReceived 0 probe_e16_ff true false 0 (holds { etherDev with time := 77 * 2^60 })) fun d =>
      let s := ({ etherDev with time := 77 * 2^60 } : Dev); let desc := s.ringAt 0 1; let buf := Memory.word s.mem (desc + 4)
      decide (d.mem = Memory.write (Memory.write (Memory.write s.mem buf probe_e16_ff) desc (leBytes 4 probe_e16_ff.length)) (desc + 8)
                  (zeros 8 ++ wordsToBytes (s.stampOf (min 0 s.time - s.rd (EN_TS_LAT_INGRESS 0) * 2 ^ 40)) ++ zeros 4) ∧ d.rd (EN_RING_HEAD_IDX 0 1) = 1 ∧ d.rd
                      (EN_FRAMES_RX 0) = 1)) = true := by
  decide +kernel

/-- By R394. -/
theorem test_ethFrameTransmitted_1 :
    (chk2 (execEthFrameTransmitted 0 0 (holds etherDev)) fun d => decide ((d.enPort 0).sent = zeros 60 ∧ d.rd (EN_FRAMES_TX 0) = 1 ∧ d.rd (EN_RING_HEAD_IDX 0 4) = 1 ∧
        d.lq = etherDev.lq ∧ d.mem = Memory.write etherDev.mem 0x10001000 (leBytes 4 60))) = true := by
  decide +kernel

/-- By R397. -/
theorem test_mdioCmd_1 :
    (chk2 (execMdioCmd .pilot 0x70840005 (holds runDev)) fun d => decide (d.rd EN0_MDIO_CMD_BUSY = 1 ∧ d.rd EN0_MDIO_CMD_DATA = 5 ∧ d.rd EN0_MDIO_CMD_OP = 3)) = true
        := by
  decide +kernel

/-- By R397. -/
theorem test_mdioDone_1 :
    (chk2 (execMdioDone false 5 (holds (runDev.raise EN0_MDIO_CMD_BUSY))) fun d => decide (d.rd EN0_MDIO_CMD_BUSY = 0 ∧ d.rd EN0_MDIO_CMD_DATA = 0xFFFF ∧ d.rd
        EN0_MDIO_CMD_CODE = 1)) = true := by
  decide +kernel

/-- By R463. -/
theorem test_gpioEdge_1 :
    (chk2 (execGpioEdge 7 true (holds (runDev.wr GC_GPIO_RISE_EN 0x80))) fun d => decide (d.gpio = Machine.setBit runDev.gpio 7 ∧ d.rd GC_GPIO_PEND_PEND = 128)) =
        true := by
  decide +kernel

/-- By R389. -/
theorem test_ringTailWrite_1 :
    (chk2 (execRingTailWrite .pilot 0 4 8 (holds etherDev)) fun d => decide (d.rd (ERR_RANGE (enBase 0)) = 1 ∧ d.rd (EN_RING_TAIL_IDX 0 4) = 1)) = true := by
  decide +kernel

def probe_e17_qd := queueDev { Queue.empty with waiting := [twoWords] }

/-- By R409. -/
theorem test_gwWrite_1 :
    (chk (.gwWrite 0 0x10000000 64 [1,2,3] []) probe_e17_qd fun d => decide (d.mem = Memory.write probe_e17_qd.mem 0x10000000 (fitBytes 8 [1,2,3]) ∧ d.rd
        (GW_STATUS_CODE 0) = 0 ∧ d.out = [] ∧ d.rd (GW_FRAMES_SLAVE 0) = 1)) = true := by
  decide +kernel

def probe_e17_md := { probe_e17_qd with mem := Memory.write probe_e17_qd.mem 0x10000FF0 (List.replicate 16 0x11) }

/-- By R403. -/
theorem test_gwRead_1 :
    (chk (.gwRead 0 0x10000FF0 (32*4+7) false) probe_e17_md fun d => decide (d.out = List.replicate 4 0x11111111#32 ∧ d.rd (GW_STATUS_CODE 0) = 0 ∧ d.rd
        (GW_STATUS_FRAME_ODD 0) = 1)) = true := by
  decide +kernel

/-- By R403. -/
theorem test_gwPop_1 :
    (chk (.gwPop 0 3 32 false) probe_e17_qd fun d => decide (d.out = [itemHeader 0x20 2 false false 0] ∧ (d.q 3).popped = 1)) = true := by
  decide +kernel

/-- By R408. -/
theorem test_gwPopItem_1 :
    (chk (.gwPopItem 0 3 96 false) probe_e17_qd fun d => decide (d.out = twoWords.words ++ [0] ∧ (d.q 3).popped = 0 ∧ (d.q 3).waiting = [] ∧ d.rd (GW_STATUS_ITEM_END
        0) = 1 ∧ d.rd (GW_STATUS_CODE 0) = 0)) = true := by
  decide +kernel

/-- By R403. -/
theorem test_gwStatus_1 :
    (chk (.gwStatus 0 32) (probe_e17_qd.wr (GW_STATUS_CODE 0) 3) fun d => decide (d.out = [(probe_e17_qd.wr (GW_STATUS_CODE 0) 3).shown (gwBase 0 + 0x14)] ∧ d.out =
        [0x03000000] ∧ d.lq = probe_e17_qd.lq ∧ d.rd (GW_STATUS_CODE 0) = 0)) = true := by
  decide +kernel

/-- By R403. -/
theorem test_gwId_1 :
    (chk (.gwId 0 160) probe_e17_qd fun d => decide (d.out = [probe_e17_qd.shown 0, probe_e17_qd.shown 0x10, probe_e17_qd.shown 0x14, probe_e17_qd.shown 0x18,
        probe_e17_qd.shown 0x1C])) = true := by
  decide +kernel

/-- By R404. -/
theorem test_modeReset_1 :
    (chk (.modeReset 0) (probe_e17_qd.wr (GW_CFG_LANES 0) 3) fun d => decide (d.rd (GW_CFG_LANES 0) = 0 ∧ d.rd (GW_STATUS_MODE_RESET_SEEN 0) = 1)) = true := by
  decide +kernel

/-- By R403. -/
theorem test_badOp_1 :
    (chk (.badOp 0) probe_e17_qd fun d => decide (d.rd (GW_STATUS_BAD_OP 0) = 1 ∧ d.rd (GW_STATUS_CODE 0) = 16)) = true := by
  decide +kernel

def probe_e17_fd := flashDev.modGw 1 fun g => { g with fill := [(1, false)], waits := [⟨.pilot, 70, 4, 4, true, 0⟩] }

/-- By R413. -/
theorem test_xipLineFill_1 :
    (chk (.xipLineFill ((upTo 64).map (BitVec.ofNat 8))) probe_e17_fd fun d => decide (d.out = bytesToWords (((fitBytes 64 ((upTo 64).map (BitVec.ofNat 8))).drop
        6).take 4) ∧ (d.gwp 1).waits = [])) = true := by
  decide +kernel

/-- By R412. -/
theorem test_xipRead_1 :
    (chk (.xipRead .pilot 132 2) flashDev fun d => decide (d.out = [0] ∧ d.rd GW1_XIP_STATS_HITS = 1)) = true := by
  decide +kernel

/-- By R414. -/
theorem test_xipCfgWrite_1 :
    (chk (.xipCfgWrite .pilot 0x00000C00) flashDev fun d => decide (d.rd (ERR_LOCKED 0x5800) = 1 ∧ d.gw = flashDev.gw ∧ d.rd GW1_XIP_CFG_OPCODE = flashDev.rd
        GW1_XIP_CFG_OPCODE)) = true := by
  decide +kernel

/-- By R411. -/
theorem test_masterCommand_1 :
    (chk (.masterCommand .pilot 1 0x20000003) runDev fun d => decide ((d.gwp 1).started = true ∧ (d.gwp 1).frame = (d.gwp 1).cmd ∧ d.rd (GW_FRAMES_MASTER 1) =
        (runDev.rd (GW_FRAMES_MASTER 1) + 1) % 65536)) = true := by
  decide +kernel

/-- By R423. -/
theorem test_calStepDone_1 :
    (chk2 (execCalStepDone 0 0 0 1 2 3 (holds (calDev 1))) fun d => decide (d.cl.refres = 0 ∧ d.cl.reftone = 0 ∧ d.rd CL_STATUS_STEP = 2 ∧ d.cl.iref = 1)) = true := by
  decide +kernel

/-- By R424. -/
theorem test_calBlock_1 :
    (chk2 (execCalBlock calmMeas calmMeas {calmMeas with after := true} calmMeas (holds ((calDev 3).modCl fun c => { c with block := 131 }))) fun d => decide
        (d.cl.block = 132 ∧ d.rd CL_STATUS_STEP = 4 ∧ (d.clChan 22).aside = true ∧ (d.clChan 23).done = 1 ∧ (d.clChan 23).trim.gain = 33)) = true := by
  decide +kernel

/-- By R425. -/
theorem test_calFinish_1 :
    (chk2 (execCalFinish (holds (((calDev 6).modCl fun c => { c with refres := 0, reftone := 0 }).modClChan 3 fun c => { c with done := 22 }))) fun d => decide (d.rd
        CL_STATUS_RUNNING = 0 ∧ d.rd PW_STATE_CUR = 1 ∧ d.rd CL_COUNT_COUNT = 1 ∧ d.rd CL_STATUS_COUNT_DIRTY = 1 ∧ d.rd CL_STATUS_IREF_TRACED = 1 ∧ d.rd (CL_CH_TRACED 3)
        = 1 ∧ d.rd (CL_CH_TRACED 4) = 0)) = true := by
  decide +kernel

def probe_e18_cd := runDev.raise CL_STATUS_ALL_TRACED

/-- By R432. -/
theorem test_commit_1 :
    (chk2 (execCommit .pilot (holds probe_e18_cd)) fun d => decide (d.rd CL_CMD_STATUS_BUSY = 1 ∧ d.cl.burn = some (0, recordOf probe_e18_cd.cl.held 0))) = true := by
  decide +kernel

/-- By R433. -/
theorem test_commitBurnDone_1 :
    (chk2 (execCommitBurnDone false (holds (probe_e18_cd.modCl fun c => { c with burn := some (2, usedSlot) }))) fun d => decide (d.recordSlot 2 = usedSlot.take 58 ++
        zeros 6 ∧ d.rd CL_CMD_STATUS_CODE = 0x11 ∧ d.cl.burn = none)) = true := by
  decide +kernel

/-- By R439. -/
theorem test_doubleTrap_1 :
    (chk2 (execDoubleTrap 2 5 6 (holds runDev)) fun d => decide (d.rd FD_FATAL_SOURCE = 1 ∧ d.rd FD_FATAL_BITS = 1 ∧ d.rd FD_FATAL_COUNT = 1 ∧ d.fd.handling = true ∧
        d.fd.hart = 2)) = true := by
  decide +kernel

/-- By R445. -/
theorem test_wdogPre_1 :
    (chk2 (execWdogPre (holds (runDev.raise FD_WDOG_CFG_EN))) fun d => decide (d.rd FD_FATAL_SOURCE = 3 ∧ d.rd FD_WDOG_STATUS_ELAPSED = 900 ∧ d.rd FD_FATAL_BITS = 4))
        = true := by
  decide +kernel

/-- By R439. -/
theorem test_journalEcc_1 :
    (chk2 (execJournalEcc (BitVec.ofNat 32 (mramBase + journalAt)) 9 (holds runDev)) fun d => decide (d.rd FD_FATAL_SOURCE = 4 ∧ d.rd FD_FATAL_BITS = 8 ∧
        d.fd.handling = true)) = true := by
  decide +kernel

/-- By R441. -/
theorem test_handlerTimeout_1 :
    (chk2 (execHandlerTimeout (holds faultDev)) fun d => decide (d.rd FD_FATAL_TIMEOUT = 1 ∧ d.power.hold = some .wdog ∧ d.rd FD_CAUSE_FATAL = 1 ∧ d.rd FD_CAUSE_CLASS
        = 4)) = true := by
  decide +kernel

/-- By R445. -/
theorem test_watchdogExpiry_1 :
    (chk2 (execWatchdogExpiry (holds (runDev.raise FD_WDOG_CFG_EN))) fun d => decide (d.power.hold = some .wdog ∧ d.rd FD_CAUSE_FATAL = 0 ∧ d.rd FD_CAUSE_CLASS = 4))
        = true := by
  decide +kernel

/-- By R445. -/
theorem test_wdogEnable_1 :
    (chk2 (execWdogEnable .pilot 0x00140032 (holds runDev)) fun d => decide (d.rd FD_WDOG_CFG_EN = 1 ∧ d.rd FD_WDOG_CFG_PRE = 20 ∧ d.rd FD_WDOG_CFG_TIMEOUT = 50)) =
        true := by
  decide +kernel

/-- By R439. -/
theorem test_eccError_1 :
    (chk2 (execEccError 0x10000000 false true (holds runDev)) fun d => decide (d.rd FD_STATUS_DRAM_UE_SEEN = 1 ∧ d.rd FD_ECC_ADDR_ADDR = 0x10000000 ∧ d.pilotFault =
        some (false, 0x10000000))) = true := by
  decide +kernel

end Sys2Proof.Machine
end

section
/-!
Register access of addresses that no register answers (02_register_access.md, R36, R38, R39): what a hole does to the part, which branch an access over
an open path takes, and the statements about unassigned addresses and the XIP window.
-/

namespace Sys2Proof.Machine

/-! The marks of a path: a hole, and the end of a region (R36, R50). -/

theorem Dev.hole_holeMarked (d : Dev) (p : Path) : (d.hole p).holeMarked p := by
  cases p with
  | gw0 | gw1 => exact Dev.rd_raise_same _ _
  | hawser | jtag =>
    show bit (Machine.setBit _ 0) 0 = true
    simp [bit_setBit]
  | pilot | watchkeeper => trivial

theorem Dev.hole_changes (d : Dev) (p : Path) : Changes [.regs, .hawserStatus, .jtagStatus] [.arr GW_STATUS_HOLE 2 0x800] d (d.hole p) :=
  Dev.hole_after (Changes.refl _ _ d) (by decide) (by decide) p

@[simp] theorem Dev.hole_pilot (d : Dev) : d.hole .pilot = d := rfl

@[simp] theorem Dev.hole_out (d : Dev) (p : Path) : (d.hole p).out = d.out := (d.hole_changes p).parts .out (by decide)

theorem Dev.give_changes (d : Dev) (p : Path) (ws : List Word) : Changes [.regs, .out, .hs] [.arr GW_STATUS_CODE 2 0x800] d (d.give p ws) :=
  Dev.give_after (Changes.refl _ _ d) (by decide) (by decide) p ws

theorem Dev.give_holeMarked {d : Dev} {p : Path} (h : d.holeMarked p) (ws : List Word) : (d.give p ws).holeMarked p := by
  have hc := d.give_changes p ws
  cases p with
  | gw0 | gw1 => exact (hc.rd (rows_not (by decide))).trans h
  | hawser => exact (congrArg (bit · 0) (hc.parts .hawserStatus (by decide))).trans h
  | jtag => exact (congrArg (bit · 0) (hc.parts .jtagStatus (by decide))).trans h
  | pilot | watchkeeper => trivial

theorem Dev.hole_give_holeMarked (d : Dev) (p : Path) (ws : List Word) : ((d.hole p).give p ws).holeMarked p :=
  Dev.give_holeMarked (d.hole_holeMarked p) ws

theorem Dev.hole_give_out (d : Dev) (p : Path) (ws : List Word) : ((d.hole p).give p ws).out = d.out ++ ws := by
  rw [give_out, Dev.hole_out]

theorem Dev.hole_give_changes (d : Dev) (p : Path) (ws : List Word) :
    Changes [.regs, .out, .hawserStatus, .jtagStatus, .hs] replyFlags d ((d.hole p).give p ws) :=
  ((d.hole_changes p).mono (by decide) (by decide)).trans (((d.hole p).give_changes p ws).mono (by decide) (by decide))

/-- A burst that goes on past the end of its region marks it. -/
theorem Dev.pageEnd_changes (d : Dev) (p : Path) (c : Prop) [Decidable c] :
    Changes [.regs, .hawserStatus, .jtagStatus] [.arr GW_STATUS_PAGE_END 2 0x800] d (if c then d.pageEnd p else d) :=
  ite_after (fun _ => Dev.pageEnd_after (Changes.refl _ _ d) (by decide) (by decide) p) fun _ => Changes.refl _ _ d

theorem Dev.pageEnd_hole_changes (d : Dev) (p : Path) (c : Prop) [Decidable c] :
    Changes [.regs, .out, .hawserStatus, .jtagStatus] [.arr GW_STATUS_HOLE 2 0x800, .arr GW_STATUS_PAGE_END 2 0x800] d
      ((if c then d.pageEnd p else d).hole p) :=
  ((d.pageEnd_changes p c).mono (by decide) (by decide)).trans ((Dev.hole_changes _ p).mono (by decide) (by decide))

/-! Bytes, words and regions. -/

theorem bytesToWords_length (bs : List Byte) : (bytesToWords bs).length = (bs.length + 3) / 4 := by
  induction bs using bytesToWords.induct with
  | case1 | case2 | case3 | case4 => simp [bytesToWords]
  | case5 a b c d bs ih =>
    simp only [bytesToWords, List.length_cons, ih]
    omega

theorem lt_regionEnd (a : Nat) : a < regionEnd a := by
  unfold regionEnd; split <;> omega

theorem regionEnd_holds_word (a : Nat) : 1 ≤ (regionEnd a - a / 4 * 4) / 4 := by
  unfold regionEnd; split <;> omega

theorem inXip_regions {a : Nat} (h : Dev.inXip a = true) : inWindow a = true ∧ Dev.inDram a = false ∧ Dev.inMram a = false := by
  refine ⟨by simp [inWindow, h], ?_⟩
  simp only [Dev.inXip, Bool.and_eq_true, decide_eq_true_eq] at h
  simp only [Dev.inDram, Dev.inMram, Bool.and_eq_false_iff, decide_eq_false_iff_not]
  omega

/-! Which access a path makes over an open path (R31, R36). -/

section
variable {d : Dev} {a : Nat} {data : List Byte}

theorem busRead_met (p : Path) (n : Nat) :
    busRead p a n { d with out := [] } =
      if !(d.met p).pathOpen p then d.met p else if p = .pilot then pilotLoads a n (d.met p) else readBurst p a n (d.met p) := rfl

theorem busWrite_met (p : Path) (frs : List (Fin 24 × RxFrame)) :
    busWrite p a data frs { d with out := [] } =
      if !(d.met p).pathOpen p || data.isEmpty then d.met p
      else if p = .pilot then
        if data.length < 4 then
          if inWindow a then memStore p a data (d.met p)
          else if inRegisterSpace a then storeAddr p a 0 true frs (d.met p)
          else unassigned p true a (d.met p)
        else pilotStores frs a (bytesToWords data) (d.met p)
      else writeBurst p a data frs (d.met p) := rfl

theorem busRead_pilot (ho : (d.met .pilot).pathOpen .pilot = true) (n : Nat) :
    busRead .pilot a n { d with out := [] } = pilotLoads a n (d.met .pilot) := by
  rw [busRead_met, ho, if_neg (by decide), if_pos rfl]

theorem busRead_host {p : Path} (hp : p ≠ .pilot) (ho : (d.met p).pathOpen p = true) (n : Nat) :
    busRead p a n { d with out := [] } = readBurst p a n (d.met p) := by
  rw [busRead_met, ho, if_neg (by decide), if_neg hp]

theorem busWrite_host {p : Path} (hp : p ≠ .pilot) (ho : (d.met p).pathOpen p = true) (hd : data ≠ []) (frs : List (Fin 24 × RxFrame)) :
    busWrite p a data frs { d with out := [] } = writeBurst p a data frs (d.met p) := by
  rw [busWrite_met, ho, if_neg (by simpa using hd), if_neg hp]

theorem busWrite_pilot_narrow (ho : (d.met .pilot).pathOpen .pilot = true) (hd : data ≠ []) (hl : data.length < 4) (frs : List (Fin 24 × RxFrame)) :
    busWrite .pilot a data frs { d with out := [] } =
      if inWindow a then memStore .pilot a data (d.met .pilot)
      else if inRegisterSpace a then storeAddr .pilot a 0 true frs (d.met .pilot)
      else unassigned .pilot true a (d.met .pilot) := by
  rw [busWrite_met, ho, if_neg (by simpa using hd), if_pos rfl, if_pos hl]

theorem busWrite_pilot_words (ho : (d.met .pilot).pathOpen .pilot = true) (hl : ¬ data.length < 4) (frs : List (Fin 24 × RxFrame)) :
    busWrite .pilot a data frs { d with out := [] } = pilotStores frs a (bytesToWords data) (d.met .pilot) := by
  have hd : data ≠ [] := by rintro rfl; exact hl (by decide)
  rw [busWrite_met, ho, if_neg (by simpa using hd), if_pos rfl, if_neg hl]

end

/-! Addresses outside every block and window (R38). -/

section
variable {a : Nat} (hr : inRegisterSpace a = false) (hw : inWindow a = false)
include hr hw

theorem readBurst_unassigned (p : Path) (d : Dev) : readBurst p a 1 d = (d.hole p).give p [0] := by
  have hroom : ¬ (regionEnd a - a / 4 * 4) / 4 < 1 := Nat.not_lt.2 (regionEnd_holds_word a)
  simp [readBurst, hr, hw, hroom]

theorem writeBurst_unassigned (p : Path) (data : List Byte) (frs : List (Fin 24 × RxFrame)) (d : Dev) :
    writeBurst p a data frs d = (if (regionEnd a - a / 4 * 4) / 4 < (bytesToWords data).length then d.pageEnd p else d).hole p := by
  simp [writeBurst, hr, hw]

theorem writeBurst_word_unassigned (p : Path) {data : List Byte} (hl : data.length ≤ 4) (frs : List (Fin 24 × RxFrame)) (d : Dev) :
    writeBurst p a data frs d = d.hole p := by
  rw [writeBurst_unassigned hr hw, if_neg]
  have := regionEnd_holds_word a
  rw [bytesToWords_length]
  omega

theorem pilotLoads_unassigned (d : Dev) : pilotLoads a 1 d = { d with pilotFault := some (false, a) } := by
  simp [pilotLoads, unassigned, hr, hw]

theorem pilotStores_unassigned (frs : List (Fin 24 × RxFrame)) {ws : List Word} (hws : ws ≠ []) (d : Dev) :
    pilotStores frs a ws d = { d with pilotFault := some (true, a) } := by
  cases ws with
  | nil => exact absurd rfl hws
  | cons w ws => simp [pilotStores, unassigned, hr, hw]

theorem busWrite_pilot_unassigned {d : Dev} (ho : (d.met .pilot).pathOpen .pilot = true) {data : List Byte} (hd : data ≠ [])
    (frs : List (Fin 24 × RxFrame)) :
    busWrite .pilot a data frs { d with out := [] } = { d.met .pilot with pilotFault := some (true, a) } := by
  by_cases hl : data.length < 4
  · rw [busWrite_pilot_narrow ho hd hl]
    simp [unassigned, hr, hw]
  · rw [busWrite_pilot_words ho hl]
    refine pilotStores_unassigned hr hw frs ?_ _
    rw [← List.length_pos_iff, bytesToWords_length]
    omega

end

/-! Holes inside a block, as Pilot meets them (R38). -/

section
variable {a : Nat} {d : Dev} (hb : d.blockRuns (blockBase (a / 4 * 4)) = true) (hsh : inShadowWindow (a / 4 * 4) = false)
  (hnone : d.regAt (a / 4 * 4) = none)
include hb hsh hnone

theorem loadWord_hole (hport : portAddress (a / 4 * 4) = false) (p : Path) : loadWord p a d = (d.hole p).give p [0] := by
  simp [loadWord, hb, hport, hsh, hnone]

theorem storeAddr_hole (p : Path) (w : Word) (frs : List (Fin 24 × RxFrame)) : storeAddr p a w false frs d = d.hole p := by
  simp [storeAddr, hb, hsh, hnone]

theorem pilotLoads_hole (hs : inRegisterSpace a = true) (hport : portAddress (a / 4 * 4) = false) :
    pilotLoads a 1 d = { d with out := d.out ++ [0] } := by
  simp [pilotLoads, inWindow_registers hs, hs, loadWord_hole hb hsh hnone hport, Dev.give]

theorem pilotStores_hole (hs : inRegisterSpace a = true) (frs : List (Fin 24 × RxFrame)) (w : Word) : pilotStores frs a [w] d = d := by
  simp [pilotStores, inWindow_registers hs, hs, storeAddr_hole hb hsh hnone]

end

/-! The XIP window (R39). -/

section
variable {a : Nat} (ha : Dev.inXip a = true)
include ha

theorem memStore_xip (p : Path) {bs : List Byte} (hbs : bs ≠ []) (d : Dev) : memStore p a bs d = d.hole p := by
  obtain ⟨-, hdram, hmram⟩ := inXip_regions ha
  simp [memStore, hbs, hdram, hmram]

theorem memLoad_xip_closed (p : Path) (n pad : Nat) {d : Dev} (hx : d.xipOpen = false) :
    memLoad p a n pad d = (d.hole p).give p (List.replicate ((n + 3) / 4 + pad) 0) := by
  obtain ⟨-, hdram, hmram⟩ := inXip_regions ha
  simp [memLoad, xipAccess, hx, hdram, hmram]

theorem writeBurst_xip (p : Path) {data : List Byte} (hd : data ≠ []) (frs : List (Fin 24 × RxFrame)) (d : Dev) :
    writeBurst p a data frs d = (if min data.length (regionEnd a - a) < data.length then d.pageEnd p else d).hole p := by
  have hlen := List.length_pos_iff.2 hd
  have hend := lt_regionEnd a
  have htake : data.take (min data.length (regionEnd a - a)) ≠ [] := by
    rw [← List.length_pos_iff, List.length_take]
    omega
  obtain ⟨hwin, -, -⟩ := inXip_regions ha
  simp only [writeBurst, hwin, if_true, memStore_xip ha p htake]

end

theorem pilotStores_xip (frs : List (Fin 24 × RxFrame)) {a : Nat} {ws : List Word} (h : ∀ k < ws.length, Dev.inXip (a + 4 * k) = true) (d : Dev) :
    pilotStores frs a ws d = d := by
  induction ws generalizing a with
  | nil => rfl
  | cons w ws ih =>
    have h0 : Dev.inXip a = true := h 0 (Nat.zero_lt_succ _)
    obtain ⟨hwin, -, -⟩ := inXip_regions h0
    have hne : leBytes 4 w.toNat ≠ [] := by simp [← List.length_pos_iff, leBytes_length]
    rw [pilotStores, hwin, if_pos rfl, memStore_xip h0 .pilot hne, Dev.hole_pilot]
    refine ih fun k hk => ?_
    have := h (k + 1) (Nat.succ_lt_succ hk)
    rwa [show a + 4 * (k + 1) = a + 4 + 4 * k by omega] at this

/-- Pilot's stores that end inside the window leave the part as it stands. -/
theorem busWrite_pilot_xip {d : Dev} {a : Nat} (ha : Dev.inXip a = true) (ho : (d.met .pilot).pathOpen .pilot = true) {data : List Byte}
    (hd : data ≠ []) (hend : a + data.length ≤ 0x50000000) (frs : List (Fin 24 × RxFrame)) :
    busWrite .pilot a data frs { d with out := [] } = d.met .pilot := by
  by_cases hl : data.length < 4
  · obtain ⟨hwin, -, -⟩ := inXip_regions ha
    rw [busWrite_pilot_narrow ho hd hl, hwin, if_pos rfl, memStore_xip ha .pilot hd, Dev.hole_pilot]
  · rw [busWrite_pilot_words ho hl]
    refine pilotStores_xip frs (fun k hk => ?_) _
    rw [bytesToWords_length] at hk
    simp only [Dev.inXip, Bool.and_eq_true, decide_eq_true_eq] at ha ⊢
    omega

/-! Reads while the window is closed. -/

theorem Dev.xipOpen_false {d : Dev} (h : d.on (GW_CFG_ROLE 1) = false ∨ d.on GW1_XIP_CFG_EN = false) : d.xipOpen = false := by
  rcases h with h | h <;> simp [Dev.xipOpen, h]

/-- The end of a region does not open the window. -/
theorem Dev.pageEnd_xipOpen {d : Dev} (p : Path) (c : Prop) [Decidable c] (h : d.on (GW_CFG_ROLE 1) = false ∨ d.on GW1_XIP_CFG_EN = false) :
    (if c then d.pageEnd p else d).xipOpen = false := by
  refine Dev.xipOpen_false (h.imp ?_ ?_) <;>
    exact (Dev.on_of_rd ((d.pageEnd_changes p c).rd (rows_not (by decide)))).trans

theorem Dev.pageEnd_out (d : Dev) (p : Path) (c : Prop) [Decidable c] : (if c then d.pageEnd p else d).out = d.out :=
  (d.pageEnd_changes p c).parts .out (by decide)

theorem readBurst_xip_closed {a : Nat} (ha : Dev.inXip a = true) (p : Path) {d : Dev}
    (hx : d.on (GW_CFG_ROLE 1) = false ∨ d.on GW1_XIP_CFG_EN = false) :
    readBurst p a 1 d = ((if min (4 * 1) (regionEnd a - a) < 4 * 1 then d.pageEnd p else d).hole p).give p [0] := by
  obtain ⟨hwin, -, -⟩ := inXip_regions ha
  have hend := lt_regionEnd a
  have hword : (min (4 * 1) (regionEnd a - a) + 3) / 4 = 1 := by omega
  rw [readBurst, if_neg (by decide), hwin, if_pos rfl]
  dsimp only
  rw [memLoad_xip_closed ha _ _ _ (Dev.pageEnd_xipOpen p _ hx), hword]
  rfl

/-- A read of one word in the closed window, whatever its path, is a hole; it may reach past the end of its region. -/
theorem busRead_xip_closed {d : Dev} {p : Path} {a : Nat} (ha : Dev.inXip a = true) (ho : (d.met p).pathOpen p = true)
    (hx : (d.met p).on (GW_CFG_ROLE 1) = false ∨ (d.met p).on GW1_XIP_CFG_EN = false) :
    ∃ e, busRead p a 1 { d with out := [] } = (e.hole p).give p [0] ∧ e.out = (d.met p).out ∧
      Changes [.regs, .hawserStatus, .jtagStatus] [.arr GW_STATUS_PAGE_END 2 0x800] (d.met p) e := by
  obtain ⟨hwin, -, -⟩ := inXip_regions ha
  by_cases hp : p = .pilot
  · subst hp
    refine ⟨d.met .pilot, ?_, rfl, Changes.refl _ _ _⟩
    rw [busRead_pilot ho, pilotLoads, hwin, if_pos rfl, memLoad_xip_closed ha _ _ _ (Dev.xipOpen_false hx)]
    rfl
  · exact ⟨_, (busRead_host hp ho 1).trans (readBurst_xip_closed ha p hx), Dev.pageEnd_out _ p _, Dev.pageEnd_changes _ p _⟩

/-! The statements. -/

theorem unassigned_host_accesses (s : State) (a : Word) (hr : inRegisterSpace a.toNat = false) (hw : inWindow a.toNat = false) (p : Path) (hp : p ≠ .pilot)
    (ho : (s.dev.met p).pathOpen p = true) :
    (Completes (.latchedRead p a) s fun d =>
      d.out = (s.dev.met p).out ++ [0] ∧ d.holeMarked p ∧ (s.dev.met p).Keeps [.regs, .out, .hawserStatus, .jtagStatus, .hs] replyFlags d) ∧
    (∀ data frs, data ≠ [] → data.length ≤ 4 → Completes (.registerWrite p a data frs) s fun d =>
      d.holeMarked p ∧ (s.dev.met p).Keeps [.regs, .out, .hawserStatus, .jtagStatus] [.arr GW_STATUS_HOLE 2 0x800] d) ∧
    (∀ data frs, data ≠ [] → Completes (.registerWrite p a data frs) s fun d => d.holeMarked p ∧
      (s.dev.met p).Keeps [.regs, .out, .hawserStatus, .jtagStatus] [.arr GW_STATUS_HOLE 2 0x800, .arr GW_STATUS_PAGE_END 2 0x800] d) := by
  refine ⟨Completes.of _ rfl ?_, fun data frs hd hl => Completes.of _ rfl ?_, fun data frs hd => Completes.of _ rfl ?_⟩
  · rw [busRead_host hp ho, readBurst_unassigned hr hw]
    exact ⟨Dev.hole_give_out _ _ _, Dev.hole_give_holeMarked _ _ _, (Dev.hole_give_changes _ _ _).keeps⟩
  · rw [busWrite_host hp ho hd, writeBurst_word_unassigned hr hw _ hl]
    exact ⟨Dev.hole_holeMarked _ _, ((Dev.hole_changes _ _).mono (by decide) (by decide)).keeps⟩
  · rw [busWrite_host hp ho hd, writeBurst_unassigned hr hw]
    exact ⟨Dev.hole_holeMarked _ _, (Dev.pageEnd_hole_changes _ _ _).keeps⟩

theorem unassigned_pilot_accesses (s : State) (a : Word) (hr : inRegisterSpace a.toNat = false) (hw : inWindow a.toNat = false)
    (ho : (s.dev.met .pilot).pathOpen .pilot = true) :
    (Completes (.latchedRead .pilot a) s fun d => d = { s.dev.met .pilot with pilotFault := some (false, a.toNat) }) ∧
    (∀ data frs, data ≠ [] → Completes (.registerWrite .pilot a data frs) s fun d =>
      d = { s.dev.met .pilot with pilotFault := some (true, a.toNat) }) :=
  ⟨Completes.of _ rfl ((busRead_pilot ho 1).trans (pilotLoads_unassigned hr hw _)),
    fun _ frs hd => Completes.of _ rfl (busWrite_pilot_unassigned hr hw ho hd frs)⟩

theorem unassigned_pilot_fault (s : State) (a : Word) (hr : inRegisterSpace a.toNat = false) (hw : inWindow a.toNat = false)
    (ho : s.dev.pathOpen .pilot = true) (store customer : Bool) :
    Completes (.pilotAccessFault a store customer) s fun d => d = { s.dev with out := [], pilotFault := some (store, a.toNat) } := by
  refine Completes.of _ rfl ((pilotAccess_eff store customer a.toNat { s.dev with out := [] } ho).trans ?_)
  rw [hr, hw]
  rfl

theorem block_hole_pilot_accesses (s : State) (a : Word) (hs : inRegisterSpace a.toNat = true)
    (hreach : (s.dev.met .pilot).reaches .pilot (blockBase (a.toNat / 4 * 4)) = true) (hport : portAddress (a.toNat / 4 * 4) = false)
    (hsh : inShadowWindow (a.toNat / 4 * 4) = false) (hnone : (s.dev.met .pilot).regAt (a.toNat / 4 * 4) = none) :
    (Completes (.latchedRead .pilot a) s fun d => d = { s.dev.met .pilot with out := (s.dev.met .pilot).out ++ [0] }) ∧
    (∀ w frs, Completes (.registerWrite .pilot a (leBytes 4 w) frs) s fun d => d = s.dev.met .pilot) := by
  obtain ⟨ho, hb⟩ := Bool.and_eq_true_iff.1 hreach
  refine ⟨Completes.of _ rfl ((busRead_pilot ho 1).trans (pilotLoads_hole hb hsh hnone hs hport)), fun w frs => Completes.of _ rfl ?_⟩
  rw [busWrite_pilot_words ho (by rw [leBytes_length]; decide), word_bytes]
  exact pilotStores_hole hb hsh hnone hs frs _

/-- Settles O6, branch by branch of `readBurst`, `writeBurst`, `pilotLoads` and `pilotStores` for an address that nothing answers. -/
theorem unassignedAddresses : Obligations.UnassignedAddresses := by
  intro s a
  refine ⟨fun p hq => met_quiet hq p, fun hr hw => ⟨fun p hp ho => ?_, unassigned_pilot_accesses s a hr hw, unassigned_pilot_fault s a hr hw⟩,
    block_hole_pilot_accesses s a⟩
  exact unassigned_host_accesses s a hr hw p (by rintro rfl; simp at hp) ho

theorem xip_write_discarded (s : State) (p : Path) (a : Word) (ha : Dev.inXip a.toNat = true) (ho : (s.dev.met p).pathOpen p = true)
    (data : List Byte) (frs : List (Fin 24 × RxFrame)) (hd : data ≠ []) (hend : p = .pilot → a.toNat + data.length ≤ 0x50000000) :
    Completes (.registerWrite p a data frs) s fun d => d.holeMarked p ∧
      (s.dev.met p).Keeps [.regs, .out, .hawserStatus, .jtagStatus] [.arr GW_STATUS_HOLE 2 0x800, .arr GW_STATUS_PAGE_END 2 0x800] d := by
  refine Completes.of _ rfl ?_
  by_cases hp : p = .pilot
  · subst hp
    rw [busWrite_pilot_xip ha ho hd (hend rfl)]
    exact ⟨trivial, (Changes.refl _ _ _).keeps⟩
  · rw [busWrite_host hp ho hd, writeBurst_xip ha p hd]
    exact ⟨Dev.hole_holeMarked _ _, (Dev.pageEnd_hole_changes _ _ _).keeps⟩

theorem xip_word_read_closed (s : State) (p : Path) (a : Word) (ha : Dev.inXip a.toNat = true) (ho : (s.dev.met p).pathOpen p = true)
    (hx : (s.dev.met p).on (GW_CFG_ROLE 1) = false ∨ (s.dev.met p).on GW1_XIP_CFG_EN = false) :
    Completes (.latchedRead p a) s fun d => d.out = (s.dev.met p).out ++ [0] ∧ d.holeMarked p ∧
      (s.dev.met p).Keeps [.regs, .out, .hawserStatus, .jtagStatus, .hs]
        [.arr GW_STATUS_HOLE 2 0x800, .arr GW_STATUS_PAGE_END 2 0x800, .arr GW_STATUS_CODE 2 0x800] d := by
  obtain ⟨e, hread, hout, hchanges⟩ := busRead_xip_closed ha ho hx
  refine Completes.of _ rfl ?_
  rw [hread, ← hout]
  exact ⟨Dev.hole_give_out _ _ _, Dev.hole_give_holeMarked _ _ _,
    ((hchanges.mono (by decide) (by decide)).trans ((Dev.hole_give_changes e p [0]).mono (by decide) (by decide))).keeps⟩

theorem xip_read_closed (s : State) (p : Path) (ho : s.dev.pathOpen p = true)
    (hx : s.dev.on (GW_CFG_ROLE 1) = false ∨ s.dev.on GW1_XIP_CFG_EN = false) (x : Fin 268435456) (k : Fin 4) :
    Completes (.xipRead p x k) s fun d => d.out = List.replicate ((2 ^ k.val + 3) / 4) 0 ∧ d.holeMarked p ∧
      s.dev.Keeps [.regs, .out, .hawserStatus, .jtagStatus, .hs] replyFlags d := by
  refine Completes.of _ rfl ?_
  have hclosed : (s.dev.accessed p).xipOpen = false :=
    Dev.xipOpen_false (hx.imp (accessed_on s.dev p _).trans (accessed_on s.dev p _).trans)
  have hload : xipLoad p x.val (2 ^ k.val) { s.dev with out := [] } =
      ((s.dev.accessed p).hole p).give p (List.replicate ((2 ^ k.val + 3) / 4) 0) := by
    show (if (s.dev.accessed p).pathOpen p then xipAccess p x.val (2 ^ k.val) (2 ^ k.val) 0 (s.dev.accessed p) else s.dev.accessed p) = _
    rw [Dev.accessed_open ho, if_pos rfl, xipAccess, hclosed]
    rfl
  rw [hload]
  refine ⟨?_, Dev.hole_give_holeMarked _ _ _, (Changes.trans ?_ (Dev.hole_give_changes _ _ _)).keeps⟩
  · rw [Dev.hole_give_out, Dev.accessed_out, List.nil_append]
  · exact Dev.beginAccess_after (set_out_after (Changes.refl _ _ _) (by decide)) (by decide) (by decide) p

/-- Settles O7: in the window `memStore` is the hole of the path, and so is `memLoad` while `Dev.xipOpen` is false. -/
theorem xipWindowIsReadOnly : Obligations.XipWindowIsReadOnly := by
  intro s p a ha
  exact ⟨fun ho data frs hd hend => xip_write_discarded s p a ha ho data frs hd hend,
    xip_word_read_closed s p a ha, xip_read_closed s p⟩

end Sys2Proof.Machine
end

section
/-!
What waits for DRAM, for a port or for a neighbour boot (R59, R63, R409): where nothing waits, nothing goes on when DRAM answers again, and the
operations of power-up and of a wake from Watch leave it so.
-/

namespace Sys2Proof.Machine

/-- A change that leaves element `i` as it is leaves the vector. -/
theorem vmod_fixed {α : Type} {n : Nat} (v : Vector α n) (i : Nat) (f : α → α) (x : α) (h : f (vget v i x) = vget v i x) : vmod v i f = v := by
  unfold vmod
  split
  next hi =>
    have hv : vget v i x = v[i] := by simp [vget, hi]
    rw [hv] at h
    rw [h]
    simp
  next => rfl

theorem Dev.enPort_clear_waiting {d : Dev} {n : Nat} (h : (d.enPort n).waiting = []) :
    (d.modEn n fun p => { p with waiting := [] }) = d := by
  have hp : ({ d.enPort n with waiting := [] } : EnPort) = d.enPort n := by rw [← h]
  unfold Dev.modEn
  rw [vmod_fixed d.en n (fun p => { p with waiting := [] }) EnPort.reset hp]

theorem serveDram_none {d : Dev} (h : d.dramWait = []) : serveDram d = d := by
  have hd : ({ d with dramWait := [] } : Dev) = d := by rw [← h]
  unfold serveDram
  rw [hd, h]
  exact ite_self _

theorem placeWaiting_none {d : Dev} (h : ∀ n : Fin 2, (d.enPort n.val).waiting = []) : placeWaiting d = d := by
  unfold placeWaiting
  have h0 := h 0
  have h1 := h 1
  simp only [Fin.val_zero, Fin.val_one] at h0 h1
  simp [Dev.each, Dev.enPort_clear_waiting h0, Dev.enPort_clear_waiting h1, h0, h1]

theorem bootResume_none {d : Dev} (h : d.boot.ended = none) : bootResume d = d := by
  unfold bootResume
  rw [h]

theorem settleFrames_none {d : Dev} (h : ∀ n : Fin 2, (d.gwp n.val).held = []) : settleFrames d = d :=
  settleFrames_idle d fun k hk => h ⟨k, hk⟩

/-- Where nothing waits, DRAM that answers again and ports that are free have nothing to go on with. -/
theorem Dev.NothingWaits.resume {d : Dev} (h : d.NothingWaits) : settleFrames (resumeDram d) = d := by
  obtain ⟨hd, hf, he, hb⟩ := h
  unfold resumeDram
  rw [serveDram_none hd, placeWaiting_none he, bootResume_none hb, settleFrames_none hf]

/-- What changes neither what waits for DRAM or a port, nor a neighbour boot that has ended, leaves nothing waiting. -/
theorem Dev.NothingWaits.of_changes {S : List Part} {W : List Span} {d e : Dev} (h : d.NothingWaits) (hc : Changes S W d e)
    (hS : [Part.dramWait, .gw, .en].all (decide <| · ∉ S) = true) (hb : e.boot.ended = d.boot.ended) : e.NothingWaits := by
  obtain ⟨h1, h2, h3, h4⟩ := h
  simp only [List.all_cons, List.all_nil, Bool.and_true, Bool.and_eq_true, decide_eq_true_eq] at hS
  obtain ⟨sd, sg, se⟩ := hS
  have ed : e.dramWait = d.dramWait := hc.parts .dramWait sd
  have eg : e.gw = d.gw := hc.parts .gw sg
  have ee : e.en = d.en := hc.parts .en se
  refine ⟨ed.trans h1, fun n => ?_, fun n => ?_, hb.trans h4⟩
  · rw [Dev.gwp, eg]; exact h2 n
  · rw [Dev.enPort, ee]; exact h3 n

theorem restartPilot_ended (d : Dev) : (restartPilot d).boot.ended = d.boot.ended := by
  unfold restartPilot
  dsimp only
  split <;> rfl

/-- Every part but one. -/
def partsBut (c : Part) : List Part := allParts.filter (· ≠ c)

theorem wakeDone_ended (d : Dev) : (wakeDone d).boot.ended = d.boot.ended := by
  have power : ∀ e : Dev, (settleServices (flushTimeEvents (powerPorts e))).boot = e.boot := fun e =>
    (settleServices_after (S := partsBut .boot) (W := [.every]) (flushTimeEvents_after (powerPorts_after (Changes.refl _ _ e)
      (by decide) (by decide)) (by decide) (by decide)) (by decide) (by decide)).parts .boot (by decide)
  have tamper : ∀ e : Dev, (tamperDue e).boot = e.boot := fun e =>
    (tamperDue_after (S := partsBut .boot) (W := [.every]) (Changes.refl _ _ e) (by decide) (by decide)).parts .boot (by decide)
  unfold wakeDone
  dsimp only
  split
  · rfl
  · rw [power]
    split
    · rw [tamper]; rfl
    · rw [restartPilot_ended, tamper]; rfl

theorem railInRegulation_ended (r : Rail) (d : Dev) : (railInRegulation r d).boot.ended = d.boot.ended := by
  unfold railInRegulation
  dsimp only
  split
  · rfl
  · split
    · rw [(powerUpNext_after (S := partsBut .boot) (W := [.every]) (Changes.refl _ _ _) (by decide) (by decide)).parts .boot (by decide)]; rfl
    · rw [wakeDone_ended]; rfl

/-- RAIL_IN_REGULATION with nothing waiting is the rail's own step (R52, R63). -/
theorem execRailInRegulation_quiet (r : Rail) {s : State} (h : s.dev.NothingWaits) :
    exec (.railInRegulation r) s = s.act (railInRegulation r) := by
  have hw : (railInRegulation r { s.dev with out := [] }).NothingWaits :=
    Dev.NothingWaits.of_changes (d := { s.dev with out := [] }) h (railInRegulation_after (Changes.refl _ _ _) (within_refl _) (covers_refl _) r)
      (by decide) (railInRegulation_ended r _)
  show s.act (fun d => settleFrames (resumeDram (railInRegulation r d))) = _
  rw [State.act_eq, State.act_eq, hw.resume]

end Sys2Proof.Machine
end

section
/-!
What every command keeps (01_architecture.md, 02_register_access.md, 95_what_each_step_holds.md): the canonical form of the sparse lists, and, chapter by
chapter, the parts and register fields that a command leaves alone. Each clause is the command's own lemma of Laws/Changes*.
-/

namespace Sys2Proof.Machine

/-- Whatever the command, and whatever it does, it keeps the canonical form. -/
theorem exec_canonical {s t : State} : ∀ c : Instr, exec c s = .next t → s.Canonical → t.Canonical
  | .vaonPowerOn, h, hs => (execVaonPowerOn_changes h).2.canonical hs
  | .crystalStable, h, hs => (execCrystalStable_changes h).2.canonical hs
  | .railInRegulation r, h, hs => (execRailInRegulation_changes r h).2.canonical hs
  | .railFail what, h, hs => (execRailFail_changes what h).2.canonical hs
  | .xtalFail, h, hs => (execXtalFail_changes h).2.canonical hs
  | .enableDropStep, h, hs => (execEnableDropStep_changes h).2.canonical hs
  | .powerUpRetry, h, hs => (execPowerUpRetry_changes h).2.canonical hs
  | .pllLock pll env, h, hs => (execPllLock_changes pll env h).2.canonical hs
  | .pllaUnlock frags, h, hs => (execPllaUnlock_changes frags h).2.canonical hs
  | .plldUnlock, h, hs => (execPlldUnlock_changes h).2.canonical hs
  | .plleUnlock, h, hs => (execPlleUnlock_changes h).2.canonical hs
  | .tempSample t, h, hs => (execTempSample_changes t h).2.canonical hs
  | .thermalShutdown frags, h, hs => (execThermalShutdown_changes frags h).2.canonical hs
  | .slotBoundary, h, hs => (execSlotBoundary_changes h).2.canonical hs
  | .vrfGroupLevelChange g mv, h, hs => (execVrfGroupLevelChange_changes g mv h).2.canonical hs
  | .regulatorCurrentLimit n, h, hs => (execRegulatorCurrentLimit_changes n h).2.canonical hs
  | .regulatorDropout n, h, hs => (execRegulatorDropout_changes n h).2.canonical hs
  | .trimRequest p, h, hs => (execTrimRequest_changes p h).2.canonical hs
  | .trimEntry, h, hs => (execTrimEntry_changes h).2.canonical hs
  | .watchRequest p, h, hs => (execWatchRequest_changes p h).2.canonical hs
  | .watchEntryContinue, h, hs => (execWatchEntryContinue_changes h).2.canonical hs
  | .dormantRequest p, h, hs => (execDormantRequest_changes p h).2.canonical hs
  | .dormantEntryContinue, h, hs => (execDormantEntryContinue_changes h).2.canonical hs
  | .wakeEvent source, h, hs => (execWakeEvent_changes source h).2.canonical hs
  | .coldReset, h, hs => (execColdReset_changes h).2.canonical hs
  | .brownReset r, h, hs => (execBrownReset_changes r h).2.canonical hs
  | .pinReset, h, hs => (execPinReset_changes h).2.canonical hs
  | .gcReset p w, h, hs => (execGcReset_changes p w h).2.canonical hs
  | .softReset, h, hs => (execSoftReset_changes h).2.canonical hs
  | .resetRelease env, h, hs => (execResetRelease_changes env h).2.canonical hs
  | .pfailAssert input, h, hs => (execPfailAssert_changes input h).2.canonical hs
  | .pfailRelease input, h, hs => (execPfailRelease_changes input h).2.canonical hs
  | .mramFence, h, hs => (execMramFence_changes h).2.canonical hs
  | .imageFetchDone img, h, hs => (execImageFetchDone_changes img h).2.canonical hs
  | .configApplyDone, h, hs => (execConfigApplyDone_changes h).2.canonical hs
  | .bootDeckParity, h, hs => (execBootDeckParity_changes h).2.canonical hs
  | .journalRecoveryDone ecc, h, hs => (execJournalRecoveryDone_changes ecc h).2.canonical hs
  | .neighbourBootPortTimeout, h, hs => (execNeighbourBootPortTimeout_changes h).2.canonical hs
  | .status via, h, hs => (execStatus_changes via h).2.canonical hs
  | .bootReport via, h, hs => (execBootReport_changes via h).2.canonical hs
  | .manifestBoot via, h, hs => (execManifestBoot_changes via h).2.canonical hs
  | .slotWrite via same, h, hs => (execSlotWrite_changes via same h).2.canonical hs
  | .slotConfirm via, h, hs => (execSlotConfirm_changes via h).2.canonical hs
  | .reset via, h, hs => (execReset_changes via h).2.canonical hs
  | .txAmpWrite p n w soFar, h, hs => (execTxAmpWrite_changes p n w soFar h).2.canonical hs
  | .supplySettled n, h, hs => (execSupplySettled_changes n h).2.canonical hs
  | .rampUpDone n, h, hs => (execRampUpDone_changes n h).2.canonical hs
  | .loadMeasurementDone n mag phase level carrierPhase, h, hs => (execLoadMeasurementDone_changes n mag phase level carrierPhase h).2.canonical hs
  | .guardExpiry n, h, hs => (execGuardExpiry_changes n h).2.canonical hs
  | .fieldEndPoint n soFar, h, hs => (execFieldEndPoint_changes n soFar h).2.canonical hs
  | .rampDownDone n, h, hs => (execRampDownDone_changes n h).2.canonical hs
  | .rfResetOffExpiry n, h, hs => (execRfResetOffExpiry_changes n h).2.canonical hs
  | .grantRelease n soFar, h, hs => (execGrantRelease_changes n soFar h).2.canonical hs
  | .grantEnd n, h, hs => (execGrantEnd_changes n h).2.canonical hs
  | .selectFrame g, h, hs => (execSelectFrame_changes g h).2.canonical hs
  | .correlation n level floor oct at_ look soFar, h, hs => (execCorrelation_changes n level floor oct at_ look soFar h).2.canonical hs
  | .rxEarlyWindowEnd n, h, hs => (execRxEarlyWindowEnd_changes n h).2.canonical hs
  | .replayCatchUp n, h, hs => (execReplayCatchUp_changes n h).2.canonical hs
  | .interferenceEnd n b, h, hs => (execInterferenceEnd_changes n b h).2.canonical hs
  | .adcOverload n, h, hs => (execAdcOverload_changes n h).2.canonical hs
  | .endOfFrame n fr, h, hs => (execEndOfFrame_changes n fr h).2.canonical hs
  | .verdictDelivered n, h, hs => (execVerdictDelivered_changes n h).2.canonical hs
  | .listenerMeasurement n l amp phase below, h, hs => (execListenerMeasurement_changes n l amp phase below h).2.canonical hs
  | .foreignCarrierMeasurement n level, h, hs => (execForeignCarrierMeasurement_changes n level h).2.canonical hs
  | .seedClr p n, h, hs => (execSeedClr_changes p n h).2.canonical hs
  | .placementPoint n ready fits, h, hs => (execPlacementPoint_changes n ready fits h).2.canonical hs
  | .frameReady n lateOct fits, h, hs => (execFrameReady_changes n lateOct fits h).2.canonical hs
  | .commandEnd n, h, hs => (execCommandEnd_changes n h).2.canonical hs
  | .replyDeadline n, h, hs => (execReplyDeadline_changes n h).2.canonical hs
  | .sfgtExpiry n k, h, hs => (execSfgtExpiry_changes n k h).2.canonical hs
  | .pcmdWord p n w, h, hs => (execPcmdWord_changes p n w h).2.canonical hs
  | .inventory n, h, hs => (execInventory_changes n h).2.canonical hs
  | .activate n, h, hs => (execActivate_changes n h).2.canonical hs
  | .exchange n, h, hs => (execExchange_changes n h).2.canonical hs
  | .halt n, h, hs => (execHalt_changes n h).2.canonical hs
  | .release n, h, hs => (execRelease_changes n h).2.canonical hs
  | .migrate n, h, hs => (execMigrate_changes n h).2.canonical hs
  | .rfReset n, h, hs => (execRfReset_changes n h).2.canonical hs
  | .cancel n, h, hs => (execCancel_changes n h).2.canonical hs
  | .auth n, h, hs => (execAuth_changes n h).2.canonical hs
  | .smExchange n, h, hs => (execSmExchange_changes n h).2.canonical hs
  | .smEnd n, h, hs => (execSmEnd_changes n h).2.canonical hs
  | .surveyGo p w, h, hs => (execSurveyGo_changes p w h).2.canonical hs
  | .surveyAbort p w, h, hs => (execSurveyAbort_changes p w h).2.canonical hs
  | .surveyDrainDone, h, hs => (execSurveyDrainDone_changes h).2.canonical hs
  | .surveyStartSlot peerCoils, h, hs => (execSurveyStartSlot_changes peerCoils h).2.canonical hs
  | .surveyMeasurement n level phase floor, h, hs => (execSurveyMeasurement_changes n level phase floor h).2.canonical hs
  | .surveyCommit, h, hs => (execSurveyCommit_changes h).2.canonical hs
  | .surveyProposal peer startMs code avg sources, h, hs => (execSurveyProposal_changes peer startMs code avg sources h).2.canonical hs
  | .surveyBlockResult level phase refused, h, hs => (execSurveyBlockResult_changes level phase refused h).2.canonical hs
  | .surveyResults values, h, hs => (execSurveyResults_changes values h).2.canonical hs
  | .surveyPeerTimeout, h, hs => (execSurveyPeerTimeout_changes h).2.canonical hs
  | .nbCommit p w, h, hs => (execNbCommit_changes p w h).2.canonical hs
  | .nbClear p w, h, hs => (execNbClear_changes p w h).2.canonical hs
  | .grantRequest p w, h, hs => (execGrantRequest_changes p w h).2.canonical hs
  | .confirmationPoint, h, hs => (execConfirmationPoint_changes h).2.canonical hs
  | .requestUrgent, h, hs => (execRequestUrgent_changes h).2.canonical hs
  | .attribution n, h, hs => (execAttribution_changes n h).2.canonical hs
  | .sniffBurst, h, hs => (execSniffBurst_changes h).2.canonical hs
  | .sniff e x, h, hs => (execSniff_changes e x h).2.canonical hs
  | .kdataWrite p w, h, hs => (execKdataWrite_changes p w h).2.canonical hs
  | .kdataRead p, h, hs => (execKdataRead_changes p h).2.canonical hs
  | .generate p slot len attr, h, hs => (execGenerate_changes p slot len attr h).2.canonical hs
  | .importPlain p slot len attr, h, hs => (execImportPlain_changes p slot len attr h).2.canonical hs
  | .importWrapped p slot kek len attr, h, hs => (execImportWrapped_changes p slot kek len attr h).2.canonical hs
  | .exportWrapped p slot kek, h, hs => (execExportWrapped_changes p slot kek h).2.canonical hs
  | .erase p slot, h, hs => (execErase_changes p slot h).2.canonical hs
  | .info p slot, h, hs => (execInfo_changes p slot h).2.canonical hs
  | .saveBlob p slot, h, hs => (execSaveBlob_changes p slot h).2.canonical hs
  | .loadBlob p slot len attr, h, hs => (execLoadBlob_changes p slot len attr h).2.canonical hs
  | .ecdhStart p, h, hs => (execEcdhStart_changes p h).2.canonical hs
  | .ecdhImport p slot len attr, h, hs => (execEcdhImport_changes p slot len attr h).2.canonical hs
  | .burnHash p, h, hs => (execBurnHash_changes p h).2.canonical hs
  | .revokeHash p, h, hs => (execRevokeHash_changes p h).2.canonical hs
  | .burnMkey p, h, hs => (execBurnMkey_changes p h).2.canonical hs
  | .fuseBurnDone ok, h, hs => (execFuseBurnDone_changes ok h).2.canonical hs
  | .keyBlobSave, h, hs => (execKeyBlobSave_changes h).2.canonical hs
  | .tguardToggle, h, hs => (execTguardToggle_changes h).2.canonical hs
  | .tamperSample loop level, h, hs => (execTamperSample_changes loop level h).2.canonical hs
  | .tamperEvent loop, h, hs => (execTamperEvent_changes loop h).2.canonical hs
  | .trngStartupDone pass, h, hs => (execTrngStartupDone_changes pass h).2.canonical hs
  | .trngHealthFailure adaptive, h, hs => (execTrngHealthFailure_changes adaptive h).2.canonical hs
  | .drbgReseed, h, hs => (execDrbgReseed_changes h).2.canonical hs
  | .carrierLock k, h, hs => (execCarrierLock_changes k h).2.canonical hs
  | .phoneFieldDetected k level, h, hs => (execPhoneFieldDetected_changes k level h).2.canonical hs
  | .phoneFieldLost k level, h, hs => (execPhoneFieldLost_changes k level h).2.canonical hs
  | .emulationGrantEnd k, h, hs => (execEmulationGrantEnd_changes k h).2.canonical hs
  | .emuFrameReceived k bits parityOk ctr, h, hs => (execEmuFrameReceived_changes k bits parityOk ctr h).2.canonical hs
  | .emuReplyStart k ready, h, hs => (execEmuReplyStart_changes k ready h).2.canonical hs
  | .fieldTransactionEnd k whole, h, hs => (execFieldTransactionEnd_changes k whole h).2.canonical hs
  | .emuWtxPoint k, h, hs => (execEmuWtxPoint_changes k h).2.canonical hs
  | .ceRspWrite p k w, h, hs => (execCeRspWrite_changes p k w h).2.canonical hs
  | .ceEnable p k w, h, hs => (execCeEnable_changes p k w h).2.canonical hs
  | .ceLockWrite p k m w, h, hs => (execCeLockWrite_changes p k m w h).2.canonical hs
  | .shadowHostBurst p off data n, h, hs => (execShadowHostBurst_changes p off data n h).2.canonical hs
  | .hostWaitExpiry k, h, hs => (execHostWaitExpiry_changes k h).2.canonical hs
  | .emuImagePersist k, h, hs => (execEmuImagePersist_changes k h).2.canonical hs
  | .queuePop p q, h, hs => (execQueuePop_changes p q h).2.canonical hs
  | .queueStallExpiry q, h, hs => (execQueueStallExpiry_changes q h).2.canonical hs
  | .queueItemComplete q typ payload, h, hs => (execQueueItemComplete_changes q typ payload h).2.canonical hs
  | .queuePush p q w, h, hs => (execQueuePush_changes p q w h).2.canonical hs
  | .dropRest p q, h, hs => (execDropRest_changes p q h).2.canonical hs
  | .flush p q, h, hs => (execFlush_changes p q h).2.canonical hs
  | .mark p q, h, hs => (execMark_changes p q h).2.canonical hs
  | .rewind p q, h, hs => (execRewind_changes p q h).2.canonical hs
  | .clearMark p q, h, hs => (execClearMark_changes p q h).2.canonical hs
  | .queueCfgWrite p q w, h, hs => (execQueueCfgWrite_changes p q w h).2.canonical hs
  | .mboxWord p w, h, hs => (execMboxWord_changes p w h).2.canonical hs
  | .mboxRead p, h, hs => (execMboxRead_changes p h).2.canonical hs
  | .regLookup via, h, hs => (execRegLookup_changes via h).2.canonical hs
  | .regPut via, h, hs => (execRegPut_changes via h).2.canonical hs
  | .regDelete via, h, hs => (execRegDelete_changes via h).2.canonical hs
  | .regQuery via, h, hs => (execRegQuery_changes via h).2.canonical hs
  | .regStats via, h, hs => (execRegStats_changes via h).2.canonical hs
  | .regCompact via, h, hs => (execRegCompact_changes via h).2.canonical hs
  | .regScrub via, h, hs => (execRegScrub_changes via h).2.canonical hs
  | .policySet via, h, hs => (execPolicySet_changes via h).2.canonical hs
  | .policyGet via, h, hs => (execPolicyGet_changes via h).2.canonical hs
  | .auditRead via, h, hs => (execAuditRead_changes via h).2.canonical hs
  | .auditHead via, h, hs => (execAuditHead_changes via h).2.canonical hs
  | .queueConsumer via, h, hs => (execQueueConsumer_changes via h).2.canonical hs
  | .keyOp via, h, hs => (execKeyOp_changes via h).2.canonical hs
  | .tagWrite via, h, hs => (execTagWrite_changes via h).2.canonical hs
  | .programStart via, h, hs => (execProgramStart_changes via h).2.canonical hs
  | .configGet via, h, hs => (execConfigGet_changes via h).2.canonical hs
  | .configSet via, h, hs => (execConfigSet_changes via h).2.canonical hs
  | .serviceEcall core code addr plen buf size, h, hs => (execServiceEcall_changes core code addr plen buf size h).2.canonical hs
  | .journalCommit, h, hs => (execJournalCommit_changes h).2.canonical hs
  | .journalApply, h, hs => (execJournalApply_changes h).2.canonical hs
  | .journalWaitExpiry, h, hs => (execJournalWaitExpiry_changes h).2.canonical hs
  | .coalesceTimer, h, hs => (execCoalesceTimer_changes h).2.canonical hs
  | .absenceTimeout rec, h, hs => (execAbsenceTimeout_changes rec h).2.canonical hs
  | .nbTableSave, h, hs => (execNbTableSave_changes h).2.canonical hs
  | .offsetDelivered p w, h, hs => (execOffsetDelivered_changes p w h).2.canonical hs
  | .step p, h, hs => (execStep_changes p h).2.canonical hs
  | .acceptStep p, h, hs => (execAcceptStep_changes p h).2.canonical hs
  | .hold p, h, hs => (execHold_changes p h).2.canonical hs
  | .srcWrite p w, h, hs => (execSrcWrite_changes p w h).2.canonical hs
  | .masterChange p w, h, hs => (execMasterChange_changes p w h).2.canonical hs
  | .beaconHoldoverTimeout, h, hs => (execBeaconHoldoverTimeout_changes h).2.canonical hs
  | .beaconSend, h, hs => (execBeaconSend_changes h).2.canonical hs
  | .beacon p t1, h, hs => (execBeacon_changes p t1 h).2.canonical hs
  | .dreq p t3, h, hs => (execDreq_changes p t3 h).2.canonical hs
  | .dresp p t4 t3, h, hs => (execDresp_changes p t4 t3 h).2.canonical hs
  | .pulseArm p k w, h, hs => (execPulseArm_changes p k w h).2.canonical hs
  | .pulseStop p k w, h, hs => (execPulseStop_changes p k w h).2.canonical hs
  | .pulseEdge k, h, hs => (execPulseEdge_changes k h).2.canonical hs
  | .pulseEnd k, h, hs => (execPulseEnd_changes k h).2.canonical hs
  | .tcAlarm, h, hs => (execTcAlarm_changes h).2.canonical hs
  | .captureEdge k rising, h, hs => (execCaptureEdge_changes k rising h).2.canonical hs
  | .captureItem k, h, hs => (execCaptureItem_changes k h).2.canonical hs
  | .linkDetect p, h, hs => (execLinkDetect_changes p h).2.canonical hs
  | .linkTrainDone p, h, hs => (execLinkTrainDone_changes p h).2.canonical hs
  | .linkAlignDone p, h, hs => (execLinkAlignDone_changes p h).2.canonical hs
  | .trainInfo p info, h, hs => (execTrainInfo_changes p info h).2.canonical hs
  | .linkTrainTimeout p, h, hs => (execLinkTrainTimeout_changes p h).2.canonical hs
  | .linkDrop p, h, hs => (execLinkDrop_changes p h).2.canonical hs
  | .linkRedetect p, h, hs => (execLinkRedetect_changes p h).2.canonical hs
  | .lineEnergyLost p, h, hs => (execLineEnergyLost_changes p h).2.canonical hs
  | .retrain path p command, h, hs => (execRetrain_changes path p command h).2.canonical hs
  | .codewordReceived p frame corrected iterAvg snr, h, hs => (execCodewordReceived_changes p frame corrected iterAvg snr h).2.canonical hs
  | .ackTimeout p, h, hs => (execAckTimeout_changes p h).2.canonical hs
  | .packetReceived p, h, hs => (execPacketReceived_changes p h).2.canonical hs
  | .helloSend, h, hs => (execHelloSend_changes h).2.canonical hs
  | .hello p priority unit hops, h, hs => (execHello_changes p priority unit hops h).2.canonical hs
  | .electEnd, h, hs => (execElectEnd_changes h).2.canonical hs
  | .addressRequest p unit held, h, hs => (execAddressRequest_changes p unit held h).2.canonical hs
  | .addressAssign p unit addr conflict rootAddr, h, hs => (execAddressAssign_changes p unit addr conflict rootAddr h).2.canonical hs
  | .bind p unit addr, h, hs => (execBind_changes p unit addr h).2.canonical hs
  | .bindingExpiry addr, h, hs => (execBindingExpiry_changes addr h).2.canonical hs
  | .discoveryTimeout, h, hs => (execDiscoveryTimeout_changes h).2.canonical hs
  | .lsa p info, h, hs => (execLsa_changes p info h).2.canonical hs
  | .lsaRefresh, h, hs => (execLsaRefresh_changes h).2.canonical hs
  | .lsaAgeOut unit, h, hs => (execLsaAgeOut_changes unit h).2.canonical hs
  | .routingTableUpdate, h, hs => (execRoutingTableUpdate_changes h).2.canonical hs
  | .hsSendWord path w, h, hs => (execHsSendWord_changes path w h).2.canonical hs
  | .regReadPacket, h, hs => (execRegReadPacket_changes h).2.canonical hs
  | .regWritePacket frags, h, hs => (execRegWritePacket_changes frags h).2.canonical hs
  | .bootRequest p, h, hs => (execBootRequest_changes p h).2.canonical hs
  | .bootData p offset chunk, h, hs => (execBootData_changes p offset chunk h).2.canonical hs
  | .bootEnd p total, h, hs => (execBootEnd_changes p total h).2.canonical hs
  | .bootDeny p, h, hs => (execBootDeny_changes p h).2.canonical hs
  | .resetDev path target, h, hs => (execResetDev_changes path target h).2.canonical hs
  | .resetOrder srcAddr srcUnit, h, hs => (execResetOrder_changes srcAddr srcUnit h).2.canonical hs
  | .resetReply code, h, hs => (execResetReply_changes code h).2.canonical hs
  | .resetReplyTimeout, h, hs => (execResetReplyTimeout_changes h).2.canonical hs
  | .rediscover path, h, hs => (execRediscover_changes path h).2.canonical hs
  | .chain p position strapped master, h, hs => (execChain_changes p position strapped master h).2.canonical hs
  | .sgmiiAutoneg n link full speed, h, hs => (execSgmiiAutoneg_changes n link full speed h).2.canonical hs
  | .ethFrameReceived n frame fcsOk cut sfd, h, hs => (execEthFrameReceived_changes n frame fcsOk cut sfd h).2.canonical hs
  | .ringTailWrite p n r w, h, hs => (execRingTailWrite_changes p n r w h).2.canonical hs
  | .ethFrameTransmitted n sfd, h, hs => (execEthFrameTransmitted_changes n sfd h).2.canonical hs
  | .mdioCmd p w, h, hs => (execMdioCmd_changes p w h).2.canonical hs
  | .mdioDone phy data, h, hs => (execMdioDone_changes phy data h).2.canonical hs
  | .gwWrite n a bits data frags, h, hs => (execGwWrite_changes n a bits data frags h).2.canonical hs
  | .gwRead n a bits waited, h, hs => (execGwRead_changes n a bits waited h).2.canonical hs
  | .gwPop n q bits waited, h, hs => (execGwPop_changes n q bits waited h).2.canonical hs
  | .gwPopItem n q bits waited, h, hs => (execGwPopItem_changes n q bits waited h).2.canonical hs
  | .gwStatus n bits, h, hs => (execGwStatus_changes n bits h).2.canonical hs
  | .gwId n bits, h, hs => (execGwId_changes n bits h).2.canonical hs
  | .modeReset n, h, hs => (execModeReset_changes n h).2.canonical hs
  | .badOp n, h, hs => (execBadOp_changes n h).2.canonical hs
  | .masterCommand p n w, h, hs => (execMasterCommand_changes p n w h).2.canonical hs
  | .masterCommandDone n data, h, hs => (execMasterCommandDone_changes n data h).2.canonical hs
  | .mdataWrite p n w, h, hs => (execMdataWrite_changes p n w h).2.canonical hs
  | .mdataRead p n, h, hs => (execMdataRead_changes p n h).2.canonical hs
  | .xipRead p x size, h, hs => (execXipRead_changes p x size h).2.canonical hs
  | .xipLineFill data, h, hs => (execXipLineFill_changes data h).2.canonical hs
  | .inval p, h, hs => (execInval_changes p h).2.canonical hs
  | .xipCfgWrite p w, h, hs => (execXipCfgWrite_changes p w h).2.canonical hs
  | .calStepDone dev lvl ppm iref ofs slope, h, hs => (execCalStepDone_changes dev lvl ppm iref ofs slope h).2.canonical hs
  | .calBlock m0 m1 m2 m3, h, hs => (execCalBlock_changes m0 m1 m2 m3 h).2.canonical hs
  | .calFinish, h, hs => (execCalFinish_changes h).2.canonical hs
  | .calCountJournal, h, hs => (execCalCountJournal_changes h).2.canonical hs
  | .commit p, h, hs => (execCommit_changes p h).2.canonical hs
  | .commitBurnDone ok, h, hs => (execCommitBurnDone_changes ok h).2.canonical hs
  | .doubleTrap hart first second, h, hs => (execDoubleTrap_changes hart first second h).2.canonical hs
  | .deckParity tile, h, hs => (execDeckParity_changes tile h).2.canonical hs
  | .wdogPre, h, hs => (execWdogPre_changes h).2.canonical hs
  | .journalEcc a seq, h, hs => (execJournalEcc_changes a seq h).2.canonical hs
  | .crashSlotWritten harts ring, h, hs => (execCrashSlotWritten_changes harts ring h).2.canonical hs
  | .dramDumpWritten, h, hs => (execDramDumpWritten_changes h).2.canonical hs
  | .handlerTimeout, h, hs => (execHandlerTimeout_changes h).2.canonical hs
  | .watchdogExpiry, h, hs => (execWatchdogExpiry_changes h).2.canonical hs
  | .wdogKick p w, h, hs => (execWdogKick_changes p w h).2.canonical hs
  | .wdogEnable p w, h, hs => (execWdogEnable_changes p w h).2.canonical hs
  | .eccError a corrected pilot, h, hs => (execEccError_changes a corrected pilot h).2.canonical hs
  | .gpioEdge m rising, h, hs => (execGpioEdge_changes m rising h).2.canonical hs
  | .pilotAccessFault a store customer, h, hs => (execPilotAccessFault_changes a store customer h).2.canonical hs
  | .latchedRead p a, h, hs => (execLatchedRead_changes p a h).2.canonical hs
  | .stagedWrite p a w, h, hs => (execStagedWrite_changes p a w h).2.canonical hs
  | .rcRead p a size, h, hs => (execRcRead_changes p a size h).2.canonical hs
  | .registerWrite p a data frags, h, hs => (execRegisterWrite_changes p a data frags h).2.canonical hs
  | .enableAssertStep, h, hs => (execEnableAssertStep_changes h).2.canonical hs
  | .linkFrameSend p, h, hs => (execLinkFrameSend_changes p h).2.canonical hs
  | .pauseHoldEnd n, h, hs => (execPauseHoldEnd_changes n h).2.canonical hs

/-- With no command waiting, bursts that go on and time that passes keep it too. -/
theorem tick_canonical {d : Dev} (h : d.Canonical) : (burstsGoOn d).tick.Canonical := by
  have hb : (burstsGoOn d).Canonical := (burstsGoOn_after (Changes.refl _ [.every] d) (within_refl _) (covers_refl _)).canonical h
  exact (Dev.tick_after (Changes.refl _ _ _) (within_refl _) (covers_refl _)).canonical hb

theorem step_idle {s : State} (h : s.pending = []) : step s = .next { s with dev := (burstsGoOn s.dev).tick } := by
  unfold step
  rw [h]

theorem step_front {s : State} {c : Instr} {rest : List Instr} (h : s.pending = c :: rest) : step s = exec c { s with pending := rest } := by
  unfold step
  rw [h]

/-- Settles O5: by the command at the front of the queue, or the tick where there is none. -/
theorem stepKeepsCanonicalForm : Obligations.StepKeepsCanonicalForm := by
  intro s t hs h
  cases hp : s.pending with
  | nil =>
    rw [step_idle hp] at h
    have ht : t.dev = (burstsGoOn s.dev).tick := by rw [← Host.Outcome.next.inj h]
    rw [State.Canonical, ht]
    exact tick_canonical hs
  | cons c rest =>
    rw [step_front hp] at h
    exact exec_canonical c h hs

/-- What a command changes at most keeps every part and every field outside any larger set. -/
theorem State.keeps_of_changes {S T : List Part} {W V : List Span} {s t : State} (h : t.pending = s.pending ∧ Changes S W s.dev t.dev)
    (hS : within S T = true) (hW : covers W V = true) : s.Keeps T V t :=
  ⟨h.1, (h.2.mono hS hW).keeps⟩

/-- RAIL_IN_REGULATION with nothing waiting changes what the rail's own step changes. -/
theorem railInRegulation_keeps {s t : State} (r : Rail) (hw : s.dev.NothingWaits) (h : exec (.railInRegulation r) s = .next t) {T : List Part} {V : List Span}
    (hS : within [.regs, .mem, .power, .boot, .chans, .lq, .out, .freeCtr, .cy, .fuses, .epoch, .sv, .tc, .hs] T = true)
    (hW : covers [.one 512, .one 513, .one 32896, .one 32904, .one 32912, .one 32985, .one 32994, .one 32995, .one 32996, .one 32997, .one 33000, .one 98782, .one 131453, .one 262848, .one 1573032, .one 1573055, .one 1573218, .one 1573219, .one 1573278, .one 1704158, .row 0x5014 2 0x800 6, .row 0x5014 2 0x800 24, .row 0x8100 4 0x40 0, .row 0x8104 4 0x40 15, .row 0x8104 4 0x40 16, .row 0x8104 4 0x40 28, .row 0x2100c 32 0x40 3, .row 0x2100c 32 0x40 4, .row 0x2100c 32 0x40 5, .row 0x21024 32 0x40 0] V = true) : s.Keeps T V t :=
  State.keeps_of_changes (act_changes (S := [.regs, .mem, .power, .boot, .chans, .lq, .out, .freeCtr, .cy, .fuses, .epoch, .sv, .tc, .hs]) (by decide)
    ((execRailInRegulation_quiet r hw).symm.trans h) fun _ h => railInRegulation_after h (within_refl _) (covers_refl _) r) hS hW

/-- Settles O57, command by command: what the lemma of Laws/Changes names lies within what the statement names. -/
theorem powerBootAndCalibrationFrames : Obligations.PowerBootAndCalibrationFrames := by
  intro s t
  exact ⟨
    fun env h => State.keeps_of_changes (execResetRelease_changes env h) (by decide) (by decide +kernel),
    fun img h => State.keeps_of_changes (execImageFetchDone_changes img h) (by decide) (by decide +kernel),
    fun h => State.keeps_of_changes (execConfigApplyDone_changes h) (by decide) (by decide +kernel),
    fun h => State.keeps_of_changes (execBootDeckParity_changes h) (by decide) (by decide +kernel),
    fun ecc h => State.keeps_of_changes (execJournalRecoveryDone_changes ecc h) (by decide) (by decide +kernel),
    fun h => State.keeps_of_changes (execNeighbourBootPortTimeout_changes h) (by decide) (by decide +kernel),
    fun via h => State.keeps_of_changes (execStatus_changes via h) (by decide) (by decide +kernel),
    fun via h => State.keeps_of_changes (execBootReport_changes via h) (by decide) (by decide +kernel),
    fun via h => State.keeps_of_changes (execManifestBoot_changes via h) (by decide) (by decide +kernel),
    fun via same h => State.keeps_of_changes (execSlotWrite_changes via same h) (by decide) (by decide +kernel),
    fun via h => State.keeps_of_changes (execSlotConfirm_changes via h) (by decide) (by decide +kernel),
    fun via h => State.keeps_of_changes (execReset_changes via h) (by decide) (by decide +kernel),
    fun p offset chunk h => State.keeps_of_changes (execBootData_changes p offset chunk h) (by decide) (by decide +kernel),
    fun p total h => State.keeps_of_changes (execBootEnd_changes p total h) (by decide) (by decide +kernel),
    fun p h => State.keeps_of_changes (execBootDeny_changes p h) (by decide) (by decide +kernel),
    fun dev lvl ppm iref ofs slope h => State.keeps_of_changes (execCalStepDone_changes dev lvl ppm iref ofs slope h) (by decide) (by decide +kernel),
    fun m0 m1 m2 m3 h => State.keeps_of_changes (execCalBlock_changes m0 m1 m2 m3 h) (by decide) (by decide +kernel),
    fun h => State.keeps_of_changes (execCalFinish_changes h) (by decide) (by decide +kernel),
    fun p h => State.keeps_of_changes (execCommit_changes p h) (by decide) (by decide +kernel),
    fun ok h => State.keeps_of_changes (execCommitBurnDone_changes ok h) (by decide) (by decide +kernel),
    fun harts ring h => State.keeps_of_changes (execCrashSlotWritten_changes harts ring h) (by decide) (by decide +kernel),
    fun p w h => State.keeps_of_changes (execWdogKick_changes p w h) (by decide) (by decide +kernel),
    fun p w h => State.keeps_of_changes (execWdogEnable_changes p w h) (by decide) (by decide +kernel),
    fun x0 corrected pilot h => State.keeps_of_changes (execEccError_changes x0 corrected pilot h) (by decide) (by decide +kernel),
    fun m rising h => State.keeps_of_changes (execGpioEdge_changes m rising h) (by decide) (by decide +kernel),
    fun h => State.keeps_of_changes (execVaonPowerOn_changes h) (by decide) (by decide +kernel),
    fun h => State.keeps_of_changes (execCrystalStable_changes h) (by decide) (by decide +kernel),
    fun h => State.keeps_of_changes (execXtalFail_changes h) (by decide) (by decide +kernel),
    fun h => State.keeps_of_changes (execEnableDropStep_changes h) (by decide) (by decide +kernel),
    fun h => State.keeps_of_changes (execPowerUpRetry_changes h) (by decide) (by decide +kernel),
    fun frags h => State.keeps_of_changes (execPllaUnlock_changes frags h) (by decide) (by decide +kernel),
    fun h => State.keeps_of_changes (execPlldUnlock_changes h) (by decide) (by decide +kernel),
    fun h => State.keeps_of_changes (execPlleUnlock_changes h) (by decide) (by decide +kernel),
    fun t0 h => State.keeps_of_changes (execTempSample_changes t0 h) (by decide) (by decide +kernel),
    fun frags h => State.keeps_of_changes (execThermalShutdown_changes frags h) (by decide) (by decide +kernel),
    fun g mv h => State.keeps_of_changes (execVrfGroupLevelChange_changes g mv h) (by decide) (by decide +kernel),
    fun p h => State.keeps_of_changes (execTrimRequest_changes p h) (by decide) (by decide +kernel),
    fun h => State.keeps_of_changes (execTrimEntry_changes h) (by decide) (by decide +kernel),
    fun p h => State.keeps_of_changes (execWatchRequest_changes p h) (by decide) (by decide +kernel),
    fun h => State.keeps_of_changes (execWatchEntryContinue_changes h) (by decide) (by decide +kernel),
    fun p h => State.keeps_of_changes (execDormantRequest_changes p h) (by decide) (by decide +kernel),
    fun p w h => State.keeps_of_changes (execGcReset_changes p w h) (by decide) (by decide +kernel),
    fun input h => State.keeps_of_changes (execPfailAssert_changes input h) (by decide) (by decide +kernel),
    fun input h => State.keeps_of_changes (execPfailRelease_changes input h) (by decide) (by decide +kernel),
    fun source h => State.keeps_of_changes (execWakeEvent_changes source h) (by decide) (by decide +kernel),
    fun h => State.keeps_of_changes (execSniffBurst_changes h) (by decide) (by decide +kernel),
    fun e0 x h => State.keeps_of_changes (execSniff_changes e0 x h) (by decide) (by decide +kernel),
    fun h => State.keeps_of_changes (execEnableAssertStep_changes h) (by decide) (by decide +kernel),
    fun r hw h => railInRegulation_keeps r hw h (by decide) (by decide +kernel)⟩

/-- Settles O58, command by command: what the lemma of Laws/Changes names lies within what the statement names. -/
theorem channelAndScheduleFrames : Obligations.ChannelAndScheduleFrames := by
  intro s t
  exact ⟨
    fun p n w h => State.keeps_of_changes (execPcmdWord_changes p n w h) (by decide) (by decide +kernel),
    fun n h => State.keeps_of_changes (execInventory_changes n h) (by decide) (by decide +kernel),
    fun n h => State.keeps_of_changes (execActivate_changes n h) (by decide) (by decide +kernel),
    fun n h => State.keeps_of_changes (execExchange_changes n h) (by decide) (by decide +kernel),
    fun n h => State.keeps_of_changes (execHalt_changes n h) (by decide) (by decide +kernel),
    fun n h => State.keeps_of_changes (execRelease_changes n h) (by decide) (by decide +kernel),
    fun n h => State.keeps_of_changes (execMigrate_changes n h) (by decide) (by decide +kernel),
    fun n h => State.keeps_of_changes (execRfReset_changes n h) (by decide) (by decide +kernel),
    fun n h => State.keeps_of_changes (execCancel_changes n h) (by decide) (by decide +kernel),
    fun n h => State.keeps_of_changes (execAuth_changes n h) (by decide) (by decide +kernel),
    fun n h => State.keeps_of_changes (execSmExchange_changes n h) (by decide) (by decide +kernel),
    fun n h => State.keeps_of_changes (execSmEnd_changes n h) (by decide) (by decide +kernel),
    fun n h => State.keeps_of_changes (execRegulatorCurrentLimit_changes n h) (by decide) (by decide +kernel),
    fun n h => State.keeps_of_changes (execRegulatorDropout_changes n h) (by decide) (by decide +kernel),
    fun p n w soFar h => State.keeps_of_changes (execTxAmpWrite_changes p n w soFar h) (by decide) (by decide +kernel),
    fun n h => State.keeps_of_changes (execSupplySettled_changes n h) (by decide) (by decide +kernel),
    fun n h => State.keeps_of_changes (execRampUpDone_changes n h) (by decide) (by decide +kernel),
    fun n mag phase level carrierPhase h => State.keeps_of_changes (execLoadMeasurementDone_changes n mag phase level carrierPhase h) (by decide) (by decide +kernel),
    fun n h => State.keeps_of_changes (execRampDownDone_changes n h) (by decide) (by decide +kernel),
    fun n h => State.keeps_of_changes (execRfResetOffExpiry_changes n h) (by decide) (by decide +kernel),
    fun n soFar h => State.keeps_of_changes (execGrantRelease_changes n soFar h) (by decide) (by decide +kernel),
    fun n level floor oct at_ look soFar h => State.keeps_of_changes (execCorrelation_changes n level floor oct at_ look soFar h) (by decide) (by decide +kernel),
    fun n h => State.keeps_of_changes (execRxEarlyWindowEnd_changes n h) (by decide) (by decide +kernel),
    fun n h => State.keeps_of_changes (execReplayCatchUp_changes n h) (by decide) (by decide +kernel),
    fun n b h => State.keeps_of_changes (execInterferenceEnd_changes n b h) (by decide) (by decide +kernel),
    fun n h => State.keeps_of_changes (execAdcOverload_changes n h) (by decide) (by decide +kernel),
    fun n fr h => State.keeps_of_changes (execEndOfFrame_changes n fr h) (by decide) (by decide +kernel),
    fun n l amp phase below h => State.keeps_of_changes (execListenerMeasurement_changes n l amp phase below h) (by decide) (by decide +kernel),
    fun n level h => State.keeps_of_changes (execForeignCarrierMeasurement_changes n level h) (by decide) (by decide +kernel),
    fun p n h => State.keeps_of_changes (execSeedClr_changes p n h) (by decide) (by decide +kernel),
    fun n soFar h => State.keeps_of_changes (execFieldEndPoint_changes n soFar h) (by decide) (by decide +kernel),
    fun n h => State.keeps_of_changes (execGrantEnd_changes n h) (by decide) (by decide +kernel),
    fun g h => State.keeps_of_changes (execSelectFrame_changes g h) (by decide) (by decide +kernel),
    fun p w h => State.keeps_of_changes (execGrantRequest_changes p w h) (by decide) (by decide +kernel),
    fun h => State.keeps_of_changes (execConfirmationPoint_changes h) (by decide) (by decide +kernel),
    fun h => State.keeps_of_changes (execRequestUrgent_changes h) (by decide) (by decide +kernel),
    fun n h => State.keeps_of_changes (execGuardExpiry_changes n h) (by decide) (by decide +kernel),
    fun n h => State.keeps_of_changes (execVerdictDelivered_changes n h) (by decide) (by decide +kernel),
    fun n ready fits h => State.keeps_of_changes (execPlacementPoint_changes n ready fits h) (by decide) (by decide +kernel),
    fun n lateOct fits h => State.keeps_of_changes (execFrameReady_changes n lateOct fits h) (by decide) (by decide +kernel),
    fun n h => State.keeps_of_changes (execCommandEnd_changes n h) (by decide) (by decide +kernel),
    fun n h => State.keeps_of_changes (execReplyDeadline_changes n h) (by decide) (by decide +kernel),
    fun n k h => State.keeps_of_changes (execSfgtExpiry_changes n k h) (by decide) (by decide +kernel),
    fun h => State.keeps_of_changes (execSlotBoundary_changes h) (by decide) (by decide +kernel),
    fun p w h => State.keeps_of_changes (execSurveyGo_changes p w h) (by decide) (by decide +kernel),
    fun p w h => State.keeps_of_changes (execSurveyAbort_changes p w h) (by decide) (by decide +kernel),
    fun h => State.keeps_of_changes (execSurveyDrainDone_changes h) (by decide) (by decide +kernel),
    fun peerCoils h => State.keeps_of_changes (execSurveyStartSlot_changes peerCoils h) (by decide) (by decide +kernel),
    fun n level phase floor h => State.keeps_of_changes (execSurveyMeasurement_changes n level phase floor h) (by decide) (by decide +kernel),
    fun h => State.keeps_of_changes (execSurveyCommit_changes h) (by decide) (by decide +kernel),
    fun peer startMs code avg sources h => State.keeps_of_changes (execSurveyProposal_changes peer startMs code avg sources h) (by decide) (by decide +kernel),
    fun level phase refused h => State.keeps_of_changes (execSurveyBlockResult_changes level phase refused h) (by decide) (by decide +kernel),
    fun values h => State.keeps_of_changes (execSurveyResults_changes values h) (by decide) (by decide +kernel),
    fun h => State.keeps_of_changes (execSurveyPeerTimeout_changes h) (by decide) (by decide +kernel),
    fun p w h => State.keeps_of_changes (execNbCommit_changes p w h) (by decide) (by decide +kernel),
    fun p w h => State.keeps_of_changes (execNbClear_changes p w h) (by decide) (by decide +kernel),
    fun n h => State.keeps_of_changes (execAttribution_changes n h) (by decide) (by decide +kernel)⟩

/-- Settles O59, command by command: what the lemma of Laws/Changes names lies within what the statement names. -/
theorem queueServiceAndKeyFrames : Obligations.QueueServiceAndKeyFrames := by
  intro s t
  exact ⟨
    fun k h => State.keeps_of_changes (execCarrierLock_changes k h) (by decide) (by decide +kernel),
    fun k level h => State.keeps_of_changes (execPhoneFieldDetected_changes k level h) (by decide) (by decide +kernel),
    fun k bits parityOk ctr h => State.keeps_of_changes (execEmuFrameReceived_changes k bits parityOk ctr h) (by decide) (by decide +kernel),
    fun k ready h => State.keeps_of_changes (execEmuReplyStart_changes k ready h) (by decide) (by decide +kernel),
    fun k h => State.keeps_of_changes (execEmuWtxPoint_changes k h) (by decide) (by decide +kernel),
    fun p k w h => State.keeps_of_changes (execCeRspWrite_changes p k w h) (by decide) (by decide +kernel),
    fun p k m w h => State.keeps_of_changes (execCeLockWrite_changes p k m w h) (by decide) (by decide +kernel),
    fun p off data n h => State.keeps_of_changes (execShadowHostBurst_changes p off data n h) (by decide) (by decide +kernel),
    fun p w h => State.keeps_of_changes (execKdataWrite_changes p w h) (by decide) (by decide +kernel),
    fun p h => State.keeps_of_changes (execKdataRead_changes p h) (by decide) (by decide +kernel),
    fun p slot len attr h => State.keeps_of_changes (execGenerate_changes p slot len attr h) (by decide) (by decide +kernel),
    fun p slot len attr h => State.keeps_of_changes (execImportPlain_changes p slot len attr h) (by decide) (by decide +kernel),
    fun p slot kek len attr h => State.keeps_of_changes (execImportWrapped_changes p slot kek len attr h) (by decide) (by decide +kernel),
    fun p slot kek h => State.keeps_of_changes (execExportWrapped_changes p slot kek h) (by decide) (by decide +kernel),
    fun p slot h => State.keeps_of_changes (execErase_changes p slot h) (by decide) (by decide +kernel),
    fun p slot h => State.keeps_of_changes (execInfo_changes p slot h) (by decide) (by decide +kernel),
    fun p slot h => State.keeps_of_changes (execSaveBlob_changes p slot h) (by decide) (by decide +kernel),
    fun p slot len attr h => State.keeps_of_changes (execLoadBlob_changes p slot len attr h) (by decide) (by decide +kernel),
    fun p h => State.keeps_of_changes (execEcdhStart_changes p h) (by decide) (by decide +kernel),
    fun p slot len attr h => State.keeps_of_changes (execEcdhImport_changes p slot len attr h) (by decide) (by decide +kernel),
    fun p h => State.keeps_of_changes (execBurnHash_changes p h) (by decide) (by decide +kernel),
    fun p h => State.keeps_of_changes (execRevokeHash_changes p h) (by decide) (by decide +kernel),
    fun p h => State.keeps_of_changes (execBurnMkey_changes p h) (by decide) (by decide +kernel),
    fun h => State.keeps_of_changes (execTguardToggle_changes h) (by decide) (by decide +kernel),
    fun pass h => State.keeps_of_changes (execTrngStartupDone_changes pass h) (by decide) (by decide +kernel),
    fun adaptive h => State.keeps_of_changes (execTrngHealthFailure_changes adaptive h) (by decide) (by decide +kernel),
    fun h => State.keeps_of_changes (execDrbgReseed_changes h) (by decide) (by decide +kernel),
    fun q h => State.keeps_of_changes (execQueueStallExpiry_changes q h) (by decide) (by decide +kernel),
    fun q typ payload h => State.keeps_of_changes (execQueueItemComplete_changes q typ payload h) (by decide) (by decide +kernel),
    fun p q w h => State.keeps_of_changes (execQueuePush_changes p q w h) (by decide) (by decide +kernel),
    fun p q h => State.keeps_of_changes (execDropRest_changes p q h) (by decide) (by decide +kernel),
    fun p q h => State.keeps_of_changes (execFlush_changes p q h) (by decide) (by decide +kernel),
    fun p q h => State.keeps_of_changes (execMark_changes p q h) (by decide) (by decide +kernel),
    fun p q h => State.keeps_of_changes (execRewind_changes p q h) (by decide) (by decide +kernel),
    fun p q h => State.keeps_of_changes (execClearMark_changes p q h) (by decide) (by decide +kernel),
    fun p q w h => State.keeps_of_changes (execQueueCfgWrite_changes p q w h) (by decide) (by decide +kernel),
    fun h => State.keeps_of_changes (execKeyBlobSave_changes h) (by decide) (by decide +kernel),
    fun k h => State.keeps_of_changes (execEmuImagePersist_changes k h) (by decide) (by decide +kernel),
    fun h => State.keeps_of_changes (execJournalCommit_changes h) (by decide) (by decide +kernel),
    fun h => State.keeps_of_changes (execJournalWaitExpiry_changes h) (by decide) (by decide +kernel),
    fun h => State.keeps_of_changes (execCoalesceTimer_changes h) (by decide) (by decide +kernel),
    fun rec h => State.keeps_of_changes (execAbsenceTimeout_changes rec h) (by decide) (by decide +kernel),
    fun h => State.keeps_of_changes (execNbTableSave_changes h) (by decide) (by decide +kernel),
    fun h => State.keeps_of_changes (execCalCountJournal_changes h) (by decide) (by decide +kernel),
    fun ok h => State.keeps_of_changes (execFuseBurnDone_changes ok h) (by decide) (by decide +kernel),
    fun loop level h => State.keeps_of_changes (execTamperSample_changes loop level h) (by decide) (by decide +kernel),
    fun loop h => State.keeps_of_changes (execTamperEvent_changes loop h) (by decide) (by decide +kernel),
    fun p q h => State.keeps_of_changes (execQueuePop_changes p q h) (by decide) (by decide +kernel),
    fun p w h => State.keeps_of_changes (execMboxWord_changes p w h) (by decide) (by decide +kernel),
    fun p h => State.keeps_of_changes (execMboxRead_changes p h) (by decide) (by decide +kernel),
    fun via h => State.keeps_of_changes (execRegLookup_changes via h) (by decide) (by decide +kernel),
    fun via h => State.keeps_of_changes (execRegPut_changes via h) (by decide) (by decide +kernel),
    fun via h => State.keeps_of_changes (execRegDelete_changes via h) (by decide) (by decide +kernel),
    fun via h => State.keeps_of_changes (execRegQuery_changes via h) (by decide) (by decide +kernel),
    fun via h => State.keeps_of_changes (execRegStats_changes via h) (by decide) (by decide +kernel),
    fun via h => State.keeps_of_changes (execRegCompact_changes via h) (by decide) (by decide +kernel),
    fun via h => State.keeps_of_changes (execRegScrub_changes via h) (by decide) (by decide +kernel),
    fun via h => State.keeps_of_changes (execPolicySet_changes via h) (by decide) (by decide +kernel),
    fun via h => State.keeps_of_changes (execPolicyGet_changes via h) (by decide) (by decide +kernel),
    fun via h => State.keeps_of_changes (execAuditRead_changes via h) (by decide) (by decide +kernel),
    fun via h => State.keeps_of_changes (execAuditHead_changes via h) (by decide) (by decide +kernel),
    fun via h => State.keeps_of_changes (execQueueConsumer_changes via h) (by decide) (by decide +kernel),
    fun via h => State.keeps_of_changes (execKeyOp_changes via h) (by decide) (by decide +kernel),
    fun via h => State.keeps_of_changes (execTagWrite_changes via h) (by decide) (by decide +kernel),
    fun via h => State.keeps_of_changes (execProgramStart_changes via h) (by decide) (by decide +kernel),
    fun via h => State.keeps_of_changes (execConfigGet_changes via h) (by decide) (by decide +kernel),
    fun via h => State.keeps_of_changes (execConfigSet_changes via h) (by decide) (by decide +kernel),
    fun core code addr plen buf size h => State.keeps_of_changes (execServiceEcall_changes core code addr plen buf size h) (by decide) (by decide +kernel),
    fun h => State.keeps_of_changes (execJournalApply_changes h) (by decide) (by decide +kernel)⟩

/-- Settles O60, command by command: what the lemma of Laws/Changes names lies within what the statement names. -/
theorem clockFabricAndPortFrames : Obligations.ClockFabricAndPortFrames := by
  intro s t
  exact ⟨
    fun p n w h => State.keeps_of_changes (execMasterCommand_changes p n w h) (by decide) (by decide +kernel),
    fun n data h => State.keeps_of_changes (execMasterCommandDone_changes n data h) (by decide) (by decide +kernel),
    fun p n w h => State.keeps_of_changes (execMdataWrite_changes p n w h) (by decide) (by decide +kernel),
    fun p n h => State.keeps_of_changes (execMdataRead_changes p n h) (by decide) (by decide +kernel),
    fun p x size h => State.keeps_of_changes (execXipRead_changes p x size h) (by decide) (by decide +kernel),
    fun data h => State.keeps_of_changes (execXipLineFill_changes data h) (by decide) (by decide +kernel),
    fun p h => State.keeps_of_changes (execInval_changes p h) (by decide) (by decide +kernel),
    fun p w h => State.keeps_of_changes (execXipCfgWrite_changes p w h) (by decide) (by decide +kernel),
    fun x0 store customer h => State.keeps_of_changes (execPilotAccessFault_changes x0 store customer h) (by decide) (by decide +kernel),
    fun p x1 h => State.keeps_of_changes (execLatchedRead_changes p x1 h) (by decide) (by decide +kernel),
    fun p x1 size h => State.keeps_of_changes (execRcRead_changes p x1 size h) (by decide) (by decide +kernel),
    fun p w h => State.keeps_of_changes (execOffsetDelivered_changes p w h) (by decide) (by decide +kernel),
    fun p h => State.keeps_of_changes (execStep_changes p h) (by decide) (by decide +kernel),
    fun p h => State.keeps_of_changes (execAcceptStep_changes p h) (by decide) (by decide +kernel),
    fun p h => State.keeps_of_changes (execHold_changes p h) (by decide) (by decide +kernel),
    fun p w h => State.keeps_of_changes (execSrcWrite_changes p w h) (by decide) (by decide +kernel),
    fun p w h => State.keeps_of_changes (execMasterChange_changes p w h) (by decide) (by decide +kernel),
    fun h => State.keeps_of_changes (execBeaconHoldoverTimeout_changes h) (by decide) (by decide +kernel),
    fun p k w h => State.keeps_of_changes (execPulseArm_changes p k w h) (by decide) (by decide +kernel),
    fun p k w h => State.keeps_of_changes (execPulseStop_changes p k w h) (by decide) (by decide +kernel),
    fun k h => State.keeps_of_changes (execPulseEdge_changes k h) (by decide) (by decide +kernel),
    fun k h => State.keeps_of_changes (execPulseEnd_changes k h) (by decide) (by decide +kernel),
    fun h => State.keeps_of_changes (execTcAlarm_changes h) (by decide) (by decide +kernel),
    fun k rising h => State.keeps_of_changes (execCaptureEdge_changes k rising h) (by decide) (by decide +kernel),
    fun k h => State.keeps_of_changes (execCaptureItem_changes k h) (by decide) (by decide +kernel),
    fun n link full speed h => State.keeps_of_changes (execSgmiiAutoneg_changes n link full speed h) (by decide) (by decide +kernel),
    fun n frame fcsOk cut sfd h => State.keeps_of_changes (execEthFrameReceived_changes n frame fcsOk cut sfd h) (by decide) (by decide +kernel),
    fun p n r w h => State.keeps_of_changes (execRingTailWrite_changes p n r w h) (by decide) (by decide +kernel),
    fun n sfd h => State.keeps_of_changes (execEthFrameTransmitted_changes n sfd h) (by decide) (by decide +kernel),
    fun p w h => State.keeps_of_changes (execMdioCmd_changes p w h) (by decide) (by decide +kernel),
    fun phy data h => State.keeps_of_changes (execMdioDone_changes phy data h) (by decide) (by decide +kernel),
    fun n h => State.keeps_of_changes (execPauseHoldEnd_changes n h) (by decide) (by decide +kernel),
    fun h => State.keeps_of_changes (execBeaconSend_changes h) (by decide) (by decide +kernel),
    fun p t1 h => State.keeps_of_changes (execBeacon_changes p t1 h) (by decide) (by decide +kernel),
    fun p t3 h => State.keeps_of_changes (execDreq_changes p t3 h) (by decide) (by decide +kernel),
    fun p t4 t3 h => State.keeps_of_changes (execDresp_changes p t4 t3 h) (by decide) (by decide +kernel),
    fun p h => State.keeps_of_changes (execLinkDetect_changes p h) (by decide) (by decide +kernel),
    fun p h => State.keeps_of_changes (execLinkTrainDone_changes p h) (by decide) (by decide +kernel),
    fun p h => State.keeps_of_changes (execLinkAlignDone_changes p h) (by decide) (by decide +kernel),
    fun p info h => State.keeps_of_changes (execTrainInfo_changes p info h) (by decide) (by decide +kernel),
    fun p h => State.keeps_of_changes (execLinkTrainTimeout_changes p h) (by decide) (by decide +kernel),
    fun p h => State.keeps_of_changes (execLinkRedetect_changes p h) (by decide) (by decide +kernel),
    fun p h => State.keeps_of_changes (execLineEnergyLost_changes p h) (by decide) (by decide +kernel),
    fun p h => State.keeps_of_changes (execPacketReceived_changes p h) (by decide) (by decide +kernel),
    fun h => State.keeps_of_changes (execHelloSend_changes h) (by decide) (by decide +kernel),
    fun p priority unit hops h => State.keeps_of_changes (execHello_changes p priority unit hops h) (by decide) (by decide +kernel),
    fun h => State.keeps_of_changes (execElectEnd_changes h) (by decide) (by decide +kernel),
    fun p unit held h => State.keeps_of_changes (execAddressRequest_changes p unit held h) (by decide) (by decide +kernel),
    fun p unit addr conflict rootAddr h => State.keeps_of_changes (execAddressAssign_changes p unit addr conflict rootAddr h) (by decide) (by decide +kernel),
    fun p unit addr h => State.keeps_of_changes (execBind_changes p unit addr h) (by decide) (by decide +kernel),
    fun addr h => State.keeps_of_changes (execBindingExpiry_changes addr h) (by decide) (by decide +kernel),
    fun h => State.keeps_of_changes (execDiscoveryTimeout_changes h) (by decide) (by decide +kernel),
    fun p info h => State.keeps_of_changes (execLsa_changes p info h) (by decide) (by decide +kernel),
    fun h => State.keeps_of_changes (execLsaRefresh_changes h) (by decide) (by decide +kernel),
    fun unit h => State.keeps_of_changes (execLsaAgeOut_changes unit h) (by decide) (by decide +kernel),
    fun path w h => State.keeps_of_changes (execHsSendWord_changes path w h) (by decide) (by decide +kernel),
    fun p h => State.keeps_of_changes (execBootRequest_changes p h) (by decide) (by decide +kernel),
    fun path target h => State.keeps_of_changes (execResetDev_changes path target h) (by decide) (by decide +kernel),
    fun code h => State.keeps_of_changes (execResetReply_changes code h) (by decide) (by decide +kernel),
    fun h => State.keeps_of_changes (execResetReplyTimeout_changes h) (by decide) (by decide +kernel),
    fun path h => State.keeps_of_changes (execRediscover_changes path h) (by decide) (by decide +kernel),
    fun p position strapped master h => State.keeps_of_changes (execChain_changes p position strapped master h) (by decide) (by decide +kernel)⟩

end Sys2Proof.Machine
end

section
/-!
What a refused access marks (R30, R45), and access paths: shared by the statements about registers and requests.
-/

namespace Sys2Proof.Machine

/-- The error registers of the block at base `b` (R30). -/
abbrev errorsOf (b : Nat) : List Span :=
  [.one (ERR_LOCKED b).bit, .one (ERR_RANGE b).bit, .one (ERR_WIDTH b).bit, .one (ERRADDR_SRC b).bit, .one (ERRADDR_WRITE b).bit,
    .one (ERRADDR_OFFSET b).bit]

theorem rows_errorsOf {b x : Nat}
    (h : x ∈ [(ERR_LOCKED b).bit, (ERR_RANGE b).bit, (ERR_WIDTH b).bit, (ERRADDR_SRC b).bit, (ERRADDR_WRITE b).bit, (ERRADDR_OFFSET b).bit]) :
    Rows (errorsOf b) x :=
  ⟨.one x, by simpa [errorsOf] using h, rfl⟩

/-- A refused access changes the error registers of its block alone. -/
theorem Dev.accessError_changes (d : Dev) (b : Nat) (p : Path) (write : Bool) (addr : Nat) (x : AccErr) :
    Changes [.regs] (errorsOf b) d (d.accessError b p write addr x) := by
  have hS : within [Part.regs] [Part.regs] = true := within_refl _
  unfold Dev.accessError
  refine raiseIf_after (raiseIf_after (raiseIf_after (when_after (Changes.refl _ _ d) _ fun e h => ?_) hS ?_ _) hS ?_ _) hS ?_ _
  · refine wr_after (flag_after (wr_after h hS ?_ _) hS ?_ _) hS ?_ _ <;> exact rows_errorsOf (by simp)
  all_goals exact rows_errorsOf (by simp)

/-- The flag of an error that the access made stands. -/
theorem Dev.accessError_flags (d : Dev) (b : Nat) (p : Path) (write : Bool) (addr : Nat) (x : AccErr) :
    (x.range = true → (d.accessError b p write addr x).rd (ERR_RANGE b) = 1) ∧
    (x.locked = true → (d.accessError b p write addr x).rd (ERR_LOCKED b) = 1) ∧
    (x.width = true → (d.accessError b p write addr x).rd (ERR_WIDTH b) = 1) := by
  have raised : ∀ (e : Dev) {c : Bool} (f : Fld), c = true → (e.raiseIf c f).rd f = 1 % 2 ^ f.w := fun e c f h => by
    subst h
    exact Dev.rd_raise_same e f
  have rl : (ERR_RANGE b).bit ≠ (ERR_LOCKED b).bit := by simp
  have rw' : (ERR_RANGE b).bit ≠ (ERR_WIDTH b).bit := by simp
  have lw : (ERR_LOCKED b).bit ≠ (ERR_WIDTH b).bit := by simp
  unfold Dev.accessError
  refine ⟨fun h => ?_, fun h => ?_, fun h => raised _ _ h⟩
  · rw [Dev.rd_raiseIf_ne _ _ rw', Dev.rd_raiseIf_ne _ _ rl]
    exact raised _ _ h
  · rw [Dev.rd_raiseIf_ne _ _ lw]
    exact raised _ _ h

/-- A write refused with RANGE marks it. -/
theorem Dev.errRange_flag (d : Dev) (p : Path) (a : Nat) : (d.errRange p a).rd (ERR_RANGE (blockBase a)) = 1 :=
  (d.accessError_flags (blockBase a) p true _ _).1 rfl

/-- A write refused with LOCKED marks it. -/
theorem Dev.errLocked_flag (d : Dev) (p : Path) (a : Nat) : (d.errLocked p a).rd (ERR_LOCKED (blockBase a)) = 1 :=
  (d.accessError_flags (blockBase a) p true _ _).2.1 rfl

theorem Dev.errRange_changes (d : Dev) (p : Path) (a : Nat) : Changes [.regs] (errorsOf (blockBase a)) d (d.errRange p a) :=
  d.accessError_changes _ _ _ _ _

theorem Dev.errLocked_changes (d : Dev) (p : Path) (a : Nat) : Changes [.regs] (errorsOf (blockBase a)) d (d.errLocked p a) :=
  d.accessError_changes _ _ _ _ _

/-- What the start of an access changes: the status that the path keeps. -/
theorem Dev.accessed_changes (d : Dev) (p : Path) : Changes [.out, .hawserStatus, .jtagStatus] [] d (d.accessed p) :=
  Dev.accessed_after (Changes.refl _ _ d) (within_refl _) (covers_refl _) p

/-- The part as a command finds it: what the last command delivered is gone. -/
def Dev.begun (d : Dev) : Dev := { d with out := [] }

/-- A command that is one effect on the part completes with what that effect does. -/
theorem Completes.effect {c : Instr} {s : State} {P : Dev → Prop} (f : Dev → Dev) (h : exec c s = s.act f) (k : P (f s.dev.begun)) : Completes c s P :=
  Completes.of f h k

/-- A command on a port whose block runs, over an open path, acts on the part as the access finds it. -/
theorem Completes.ofPort {c : Instr} {s : State} {P : Dev → Prop} {b : Nat} {p : Path} (f : Dev → Dev) (h : exec c s = s.act (onPort b p f))
    (hr : s.dev.reaches p b = true) (k : P (f (s.dev.accessed p))) : Completes c s P :=
  Completes.of _ h (by rw [onPort_reached f hr]; exact k)

/-- A decidable fact of every index holds of each, whatever else is known of that one. -/
theorem every_index {m : Nat} {p : Fin m → Prop} (h : ∀ i, p i) (k : Fin m) : p k := h k

/-- The same for two indices. -/
theorem every_pair {m l : Nat} {p : Fin m → Fin l → Prop} (h : ∀ i j, p i j) (k : Fin m) (j : Fin l) : p k j := h k j

end Sys2Proof.Machine
end

section
/-!
Power, clocks, states and resets (03_power_clocks_resets.md): the statements about Capstan. Each clause is the effect of one operation
(Laws/EffectsPower) under the command that runs it.
-/

namespace Sys2Proof.Machine

/-! Power-up (R52, R53, R63). -/

theorem crystalStable_eff (d : Dev) (h : d.power.step = .crystal) :
    (crystalStable d).power.step = .rail .vana ∧ (crystalStable d).bitOn PW_RAIL_PEN 1 = true ∧ (crystalStable d).mem = d.mem := by
  have e : crystalStable d = (d.penUp 1).modPower fun p => { p with step := .rail .vana } := if_neg (fun x => x h)
  rw [e]
  exact ⟨rfl, Dev.penUp_bit d (by decide), Dev.penUp_mem d 1⟩

/-- A failed power-up leaves the fields that the dropped enables do not show. -/
theorem powerUpFail_rd (d : Dev) {f : Fld} (hf : ¬ Rows dropW f.bit) : (powerUpFail d).rd f = d.rd f :=
  startDrops_rd downOrder .retry _ (by decide) hf

theorem supplyFail_eff (d : Dev) : (supplyFail d).power.step = .failed ∧ (supplyFail d).power.after = .retry ∧
    (supplyFail d).rd PW_RAIL_RAIL_FAIL = 1 ∧ (supplyFail d).rd PW_STATE_CUR = 1 := by
  obtain ⟨e, he, hcur⟩ : ∃ e : Dev, supplyFail d = powerUpFail (e.raise PW_RAIL_RAIL_FAIL) ∧ e.rd PW_STATE_CUR = 1 := by
    refine ⟨(((((coreReset false d).wr PW_STATE_CUR 1).wr PW_STATE_REQ 1).lower PW_STATE_BUSY).lower PW_STATUS_DRAM_VALID).modPower
      fun p => { p with hold := some .restart, holdAt := (coreReset false d).ns, trimDue := true }, rfl, ?_⟩
    rw [Dev.modPower_rd, Dev.rd_lower_ne _ (by decide), Dev.rd_lower_ne _ (by decide), Dev.rd_wr_ne _ _ (by decide), Dev.rd_wr_same]
    rfl
  rw [he]
  obtain ⟨hstep, hafter, hfail⟩ := powerUpFail_eff e (.inl rfl)
  refine ⟨hstep, hafter, hfail, ?_⟩
  rw [powerUpFail_rd _ (rows_not (by decide)), Dev.rd_raise_ne _ (by decide), hcur]

theorem railFail_rail (r : Rail) (d : Dev) (h : d.power.step = .rail r) :
    (railFail (.rail r) d).power.step = .failed ∧ (railFail (.rail r) d).power.after = .retry ∧ (railFail (.rail r) d).rd PW_RAIL_RAIL_FAIL = 1 := by
  have e : railFail (.rail r) d = powerUpFail (d.raise PW_RAIL_RAIL_FAIL) := if_pos h
  rw [e]
  exact powerUpFail_eff d (.inl rfl)

theorem railFail_vrf (g : Fin 6) (d : Dev) (h : d.power.step = .up) (hg : g.val ∈ d.power.vrfWait) : railFail (.vrf g) d = supplyFail d :=
  if_pos (by simp [h, hg])

theorem xtalFail_eff (d : Dev) (h : d.power.step = .crystal) :
    (xtalFail d).power.step = .failed ∧ (xtalFail d).power.after = .retry ∧ (xtalFail d).rd PW_STATUS_XTAL_FAIL = 1 := by
  have e : xtalFail d = powerUpFail (d.raise PW_STATUS_XTAL_FAIL) := if_neg fun x => x h
  rw [e]
  exact powerUpFail_eff d (.inr rfl)

theorem enableDropStep_eff (k : Nat) (r : List Nat) (d : Dev) (h : d.power.drops = k :: r) (hk : k < 6) (ha : d.power.after = .retry) :
    (enableDropStep d).bitOn PW_RAIL_PEN k = false ∧ (enableDropStep d).power.drops = r ∧ (enableDropStep d).power.step = d.power.step := by
  obtain ⟨a, v, p, m, w, hp⟩ := dropPen_power k d
  have e : enableDropStep d = (dropPen k d).modPower fun p => { p with drops := r } := by
    have hafter : ((dropPen k d).modPower fun p => { p with drops := r }).power.after = .retry := by rw [Dev.modPower_power, hp]; exact ha
    unfold enableDropStep
    rw [h]
    dsimp only
    rw [dropsDone, hafter]
    exact ite_self _
  rw [e]
  refine ⟨dropPen_bit d hk, rfl, ?_⟩
  rw [Dev.modPower_power, hp]

theorem powerUpRetry_eff (d : Dev) (h : d.power.step = .failed) (hd : d.power.drops = []) :
    powerUpRetry d = d.modPower fun p => { p with step := .crystal } :=
  if_pos (by simp [h, hd])

/-- Settles O10, row by row of the power-up order. -/
theorem powerUpGoesOn : Obligations.PowerUpGoesOn := by
  intro s
  refine ⟨fun h => Completes.effect _ rfl (vaonPowerOn_eff _ h), fun h => Completes.effect _ rfl (crystalStable_eff _ h),
    fun r h hb hw => Completes.effect _ (execRailInRegulation_quiet r hw) (railInRegulation_eff r s.dev.begun h hb),
    fun r h => Completes.effect _ rfl (railFail_rail r _ h), fun g h hg => Completes.effect _ rfl ?_, fun h => Completes.effect _ rfl (xtalFail_eff _ h),
    fun k r h hk ha => Completes.effect _ rfl (enableDropStep_eff k r _ h hk ha), fun h hd => Completes.effect _ rfl ?_,
    fun k r h hk => Completes.effect _ rfl (enableAssertStep_eff k r _ h hk)⟩
  · rw [railFail_vrf g s.dev.begun h hg]
    exact supplyFail_eff _
  · rw [powerUpRetry_eff s.dev.begun h hd]
    exact ⟨rfl, rfl, rfl⟩

end Sys2Proof.Machine
end

section
/-!
What a release of the CORE reset leaves (R66, R76): a BOOT_END that waits for DRAM stands through every step of the boot ROM.
-/

namespace Sys2Proof.Machine

@[simp] theorem powerPorts_boot (d : Dev) : (powerPorts d).boot = d.boot :=
  (powerPorts_after (Changes.refl _ _ d) (within_refl _) (covers_refl _)).parts .boot (by decide)

@[simp] theorem bootErr_boot (e x : Nat) (d : Dev) : (bootErr e x d).boot = d.boot := by
  unfold bootErr
  split <;> rfl

/-- A loop of steps that keep a part of the boot ROM's state keeps it. -/
theorem Dev.each_boot {α : Type} (xs : List α) (f : α → Dev → Dev) (h : ∀ x e, (f x e).boot = e.boot) (d : Dev) : (d.each xs f).boot = d.boot := by
  unfold Dev.each
  induction xs generalizing d with
  | nil => rfl
  | cons x xs ih => exact (ih _).trans (h x d)

@[simp] theorem clearDeck_ended (d : Dev) : (clearDeck d).boot.ended = d.boot.ended := by
  unfold clearDeck
  dsimp only
  refine (congrArg BootSt.ended (Dev.each_boot _ _ (by intros; rfl) _)).trans ?_
  rfl

@[simp] theorem noteTried_ended (i e x : Nat) (d : Dev) : (noteTried i e x d).boot.ended = d.boot.ended := by
  show (bootErr e x d).boot.ended = _
  rw [bootErr_boot]

@[simp] theorem enterBare_ended (c : Nat) (d : Dev) : (enterBare c d).boot.ended = d.boot.ended := by
  unfold enterBare
  dsimp only
  rw [powerPorts_boot]
  exact clearDeck_ended d

@[simp] theorem startFetch_ended (n : Nat) (d : Dev) : (startFetch n d).boot.ended = d.boot.ended := by
  unfold startFetch
  rw [powerPorts_boot]
  rfl

@[simp] theorem flashRead_ended (r : FlashRead) (d : Dev) : (flashRead r d).boot.ended = d.boot.ended := by
  unfold flashRead
  rw [romFrames_boot]
  rfl

@[simp] theorem countTrial_ended (n : Nat) (d : Dev) : (countTrial n d).boot.ended = d.boot.ended := by
  have entry : ∀ x, (setEntry n x d).boot.ended = d.boot.ended := fun x => by unfold setEntry; split <;> rfl
  unfold countTrial
  split
  · rfl
  · split
    · rfl
    · rw [flashOp_boot]
      exact entry _

@[simp] theorem nextFlash_ended (xs : List Nat) (d : Dev) : (nextFlash xs d).boot.ended = d.boot.ended := by
  induction xs generalizing d with
  | nil =>
    unfold nextFlash
    rw [enterBare_ended]
    split <;> simp
  | cons x xs ih =>
    unfold nextFlash
    dsimp only
    split
    · rw [ih]; rfl
    · split
      · rw [ih, noteTried_ended]; rfl
      · rw [startFetch_ended, countTrial_ended]; rfl

@[simp] theorem takePort_ended (p r : Nat) (d : Dev) : (takePort p r d).boot.ended = d.boot.ended :=
  startFetch_ended _ _

@[simp] theorem nextPort_ended (d : Dev) : (nextPort d).boot.ended = d.boot.ended := by
  unfold nextPort
  dsimp only
  split
  · simp
  · split
    · simp
    · rw [enterBare_ended]
      split <;> simp

@[simp] theorem startSource_ended (n : Nat) (d : Dev) : (startSource n d).boot.ended = d.boot.ended := by
  unfold startSource
  split <;> simp

@[simp] theorem nextCandidate_ended (d : Dev) : (nextCandidate d).boot.ended = d.boot.ended := by
  unfold nextCandidate
  dsimp only
  split
  · rw [startSource_ended, clearDeck_ended]; rfl
  · split
    · rw [nextPort_ended]; rfl
    · split
      · rw [enterBare_ended]; rfl
      · rw [nextFlash_ended]; rfl

@[simp] theorem bootFrom_ended (n : Nat) (d : Dev) : (bootFrom n d).boot.ended = d.boot.ended := by
  unfold bootFrom
  split
  · simp
  · split
    · simp
    · split
      · simp
      · split
        · rw [startFetch_ended, countTrial_ended]; rfl
        · rw [nextCandidate_ended, noteTried_ended]; rfl

/-- What a release does before the boot ROM looks at the flash keeps the boot ROM's state. -/
theorem releaseChecks_boot (c : Prop) [Decidable c] (d : Dev) :
    (recoveryFrames (tamperDue (enterHoldover (if c then rebuildCrash (loadTrims (readSlots d)) else readSlots d)))).boot = d.boot := by
  have checks : ∀ e, Changes (partsBut .boot) [.every] d e →
      Changes (partsBut .boot) [.every] d (recoveryFrames (tamperDue (enterHoldover e))) := fun e h =>
    recoveryFrames_after (tamperDue_after (enterHoldover_after h (by decide) (by decide)) (by decide) (by decide)) (by decide) (by decide)
  have slots : Changes (partsBut .boot) [.every] d (readSlots d) := readSlots_after (Changes.refl _ _ d) (by decide) (by decide)
  refine (checks _ (ite_after (fun _ => ?_) fun _ => slots)).parts .boot (by decide)
  exact rebuildCrash_after (loadTrims_after slots (by decide) (by decide)) (by decide) (by decide)

theorem coreRelease_ended (env : BootEnv) (d : Dev) : (coreRelease env d).boot.ended = d.boot.ended := by
  unfold coreRelease
  dsimp only
  rw [bootFrom_ended]
  show (flashRead (dirRead 2) (flashRead (dirRead 1) _)).boot.ended = _
  simp only [flashRead_ended, releaseChecks_boot]
  generalize hx : (if d.power.dormantWake && d.power.hold.isNone then _ else d : Dev) = x
  have hw : x.boot = d.boot := by subst hx; split <;> rfl
  rw [← hw]
  unfold Dev.raiseIf
  split <;> split <;> rfl

theorem afterLock_ended (env : BootEnv) (d : Dev) : (pllLock.afterLock env d).boot.ended = d.boot.ended := by
  unfold pllLock.afterLock
  dsimp only
  split
  · exact wakeDone_ended d
  · split
    · rfl
    · split
      · rw [coreRelease_ended]; rfl
      · rfl

/-- What a lock in Run lets go on keeps the boot ROM's state. -/
theorem relock_boot (d : Dev) : (settleServices (flushTimeEvents (calRelock (tamperDue d)))).boot = d.boot :=
  (settleServices_after (S := partsBut .boot) (W := [.every]) (flushTimeEvents_after (calRelock_after (tamperDue_after (Changes.refl _ _ d)
    (by decide) (by decide)) (by decide) (by decide)) (by decide) (by decide)) (by decide) (by decide)).parts .boot (by decide)

theorem pllLock_ended (pll : Pll) (env : BootEnv) (d : Dev) : (pllLock pll env d).boot.ended = d.boot.ended := by
  cases pll with
  | e => unfold pllLock; dsimp only; split <;> rfl
  | d =>
    unfold pllLock
    dsimp only
    split
    · rfl
    · rw [afterLock_ended]; rfl
  | a =>
    unfold pllLock
    dsimp only
    split
    · rfl
    · split
      · rw [relock_boot]; rfl
      · rw [afterLock_ended]; rfl

/-- PLL_LOCK with nothing waiting is the lock's own step (R59). -/
theorem execPllLock_quiet (pll : Pll) (env : BootEnv) {s : State} (h : s.dev.NothingWaits) :
    exec (.pllLock pll env) s = s.act fun d => pllLock pll env (freshFlash d) := by
  have hw : (pllLock pll env (freshFlash s.dev.begun)).NothingWaits :=
    Dev.NothingWaits.of_changes (d := freshFlash s.dev.begun) h (pllLock_after (Changes.refl _ _ _) (within_refl _) (covers_refl _) pll env)
      (by decide) (pllLock_ended pll env _)
  show s.act (fun d => settleFrames (resumeDram (pllLock pll env (freshFlash d)))) = _
  rw [State.act_eq, State.act_eq]
  exact congrArg _ (congrArg (fun e => ({ s with dev := e } : State)) hw.resume)

end Sys2Proof.Machine
end

section
/-!
Power, clocks, states and resets (03_power_clocks_resets.md): the statements about the PLLs, measurements, power states, resets and power failure.
-/

namespace Sys2Proof.Machine

/-! The PLLs (R19, R52, R59). -/

theorem pllLock_powerUp (env : BootEnv) (d : Dev) (hs : d.power.step = .plls) (hw : d.power.waking = false) (hh : d.power.hold = some .cold)
    (hp : d.power.resetPin = false) (ha : d.on GC_STATUS_PLLA_LOCK = false) (hd : d.on GC_STATUS_PLLD_LOCK = true) :
    ∃ e, pllLock .a env d = coreRelease env e := by
  have la : (d.raise GC_STATUS_PLLA_LOCK).on GC_STATUS_PLLA_LOCK = true := by simp [Dev.on]
  have ld : (d.raise GC_STATUS_PLLA_LOCK).on GC_STATUS_PLLD_LOCK = true := (Dev.on_of_rd (Dev.rd_raise_ne _ (by decide))).trans hd
  have hpow : (d.raise GC_STATUS_PLLA_LOCK).power = d.power := rfl
  refine ⟨((d.raise GC_STATUS_PLLA_LOCK).lower TC_STATUS_XTAL_MODE).modPower fun p => { p with step := .up }, ?_⟩
  unfold pllLock pllLock.afterLock
  simp [ha, hs, hw, hh, hp, hpow, la, ld, Dev.lower]

theorem relock_rd (d : Dev) {f : Fld} (hf : ¬ Rows ([.one 65692, .one 65695, .one 1573032, .one 1573055, .one 1573218, .one 1573219, .one 1573278,
      .one 1704158, .row 0x5014 2 0x800 6, .row 0x5014 2 0x800 24, .row 0x2100c 32 0x40 3, .row 0x2100c 32 0x40 4, .row 0x2100c 32 0x40 5,
      .row 0x21024 32 0x40 0]) f.bit) :
    (settleServices (flushTimeEvents (calRelock (tamperDue d)))).rd f = d.rd f :=
  (settleServices_after (S := allParts) (flushTimeEvents_after (calRelock_after (tamperDue_after (Changes.refl _ _ d)
    (by decide) (by decide)) (by decide) (by decide)) (by decide) (by decide)) (by decide) (by decide)).rd hf

theorem pllLock_run (env : BootEnv) (d : Dev) (hs : d.power.step = .up) (hc : d.rd PW_STATE_CUR = 1) (hw : d.power.waking = false)
    (hh : d.power.hold = none) (hl : d.on GC_STATUS_PLLA_LOCK = false) :
    (pllLock .a env d).rd GC_STATUS_PLLA_LOCK = 1 ∧ (pllLock .a env d).rd TC_STATUS_XTAL_MODE = 0 ∧
    (pllLock .a env d).rd FD_WDOG_STATUS_PAUSED = 0 := by
  rw [pllLock_a env d hs hw hh hc hl, relock_rd _ (rows_not (by decide)), relock_rd _ (rows_not (by decide)), relock_rd _ (rows_not (by decide))]
  simp (disch := decide) [Dev.rd_lower_ne]

theorem pllaUnlock_waking (frs : List (Fin 24 × RxFrame)) (d : Dev) (hs : d.power.step = .up) (hw : d.power.waking = true)
    (hl : d.on GC_STATUS_PLLA_LOCK = true) : pllaUnlock frs d = (d.raise GC_STATUS_PLLA_UNLOCK).lower GC_STATUS_PLLA_LOCK := by
  unfold pllaUnlock
  simp [hs, hw, hl]

/-- Settles O11: at power-up both locks release the CORE reset; later a lock or its loss shows, and what depends on PLL_A halts or goes on. -/
theorem pllsLockAndUnlock : Obligations.PllsLockAndUnlock := by
  intro s env frs
  refine ⟨fun hs hw hh hp ha hd hn => Completes.effect _ (execPllLock_quiet .a env hn) ?_, fun hs => ⟨fun hc hw hh hl hn => ?_,
    fun hc hw hl hn => Completes.effect _ (execPllLock_quiet .d env hn) ?_, fun hh hw hc he hn => Completes.effect _ (execPllLock_quiet .e env hn) ?_,
    fun hw hl => Completes.effect _ rfl (pllaUnlock_eff frs _ hs hl hw), fun hw hl => Completes.effect _ rfl ?_,
    fun hl => Completes.effect _ rfl (plldUnlock_eff _ hs hl), fun hl => Completes.effect _ rfl (plleUnlock_eff _ hl)⟩⟩
  · obtain ⟨e, he⟩ := pllLock_powerUp env (freshFlash s.dev.begun) hs hw hh hp ha hd
    obtain ⟨hhold, -, hcur, hbusy, hstrap⟩ := coreRelease_eff env e
    rw [he]
    exact ⟨hhold, hcur, hbusy, hstrap⟩
  · exact Completes.effect _ (execPllLock_quiet .a env hn) (pllLock_run env (freshFlash s.dev.begun) hs hc hw hh hl)
  · rw [pllLock_d env (freshFlash s.dev.begun) hs hw hc hl]
    exact ⟨Dev.rd_raise_same _ _, rfl⟩
  · rw [pllLock_e env (freshFlash s.dev.begun) hs hh hc hw he]
    exact ⟨Dev.rd_raise_same _ _, rfl⟩
  · rw [pllaUnlock_waking frs s.dev.begun hs hw hl]
    refine ⟨?_, Dev.rd_lower_same _ _, rfl, rfl⟩
    rw [Dev.rd_lower_ne _ (by decide)]
    exact Dev.rd_raise_same _ _

/-! Measurements (R54, R57, R58). -/

theorem tempSample_trim (t : Nat) (d : Dev) (h : d.power.step = .up) (hc : d.rd PW_STATE_CUR = 2) :
    (tempSample t d).rd PW_TEMP_TEMP = d.rd PW_TEMP_TEMP ∧ (tempSample t d).power.temp = t ∧ (tempSample t d).mem = d.mem := by
  have hw : d.dieWatched = true := by simp [Dev.dieWatched, h, hc]
  have hcur : (d.modPower fun p => { p with temp := t }).rd PW_STATE_CUR = 2 := hc
  unfold tempSample
  rw [if_neg (by simp [hw])]
  dsimp only
  rw [if_pos hcur]
  split
  · exact ⟨Dev.rd_lower_ne _ (by decide), rfl, rfl⟩
  · exact ⟨rfl, rfl, rfl⟩

/-- Settles O12, measurement by measurement. -/
theorem capstanMeasurements : Obligations.CapstanMeasurements := by
  intro s
  refine ⟨fun t hs hc => Completes.effect _ rfl ?_, fun t hs hc => Completes.effect _ rfl (tempSample_trim t.toNat _ hs hc),
    fun frs hs hc => Completes.effect _ rfl (thermalShutdown_eff frs _ hs hc), fun g mv hs => Completes.effect _ rfl (vrfLevel_eff g mv _ hs g.isLt)⟩
  obtain ⟨htemp, hstale, hmem, hpower, hshut⟩ := tempSample_eff t.toNat s.dev.begun hs hc
  exact ⟨htemp.trans (Nat.mod_eq_of_lt t.isLt), hstale, congrArg PowerSt.temp hpower, hshut, hmem⟩

/-! Power states (R61 to R65). -/

/-- Settles O13: the requests, the entries that follow once all is drained, and the wake. -/
theorem powerStatesChange : Obligations.PowerStatesChange := by
  intro s
  refine ⟨fun p hp hs hh hc hb ho => ?_, fun hr hc he hd => Completes.effect _ rfl (trimEntry_eff _ hr hc he hd),
    fun hr he hd h0 => Completes.effect _ rfl (watchEntry_eff _ hr he hd h0),
    fun hr he h0 hd b0 b1 => Completes.effect _ rfl (dormantEntry_eff _ hr he h0 hd b0 b1),
    fun w hw he hc hk => Completes.effect _ rfl (fireWake_eff w _ hw he hc hk)⟩
  have request : ∀ req, req = 2 ∨ req = 3 ∨ req = 4 → _ := fun req hr => stateRequest_eff p req s.dev.begun hr hp hs hh hc hb ho
  exact ⟨Completes.effect _ rfl (request 2 (.inl rfl)), Completes.effect _ rfl (request 3 (.inr (.inl rfl))),
    Completes.effect _ rfl (request 4 (.inr (.inr rfl)))⟩

theorem Dev.blockRuns_pw {d : Dev} (h : d.power.step = .up) : d.blockRuns 0x1000 = true := by
  simp [Dev.blockRuns, h]

theorem pwStateWrite_busy (p : Path) (w : Word) (d : Dev) (h : d.on PW_STATE_BUSY = true) :
    ∃ r, pwStateWrite p w d = d.accessError 0x1000 p true 0x1010 ⟨r, true, false⟩ := by
  unfold pwStateWrite
  simp only [h, Bool.true_or, Bool.or_true, if_true]
  exact ⟨_, rfl⟩

theorem stateRequest_busy (req : Nat) (p : Path) (s : State) (hp : s.dev.pathOpen p = true) (hs : s.dev.power.step = .up)
    (hb : s.dev.on PW_STATE_BUSY = true) {i : Instr} (h : exec i s = s.act (stateRequest req p)) : Completes i s fun d =>
      d.rd (ERR_LOCKED 0x1000) = 1 ∧ s.dev.Keeps [.regs, .out, .hawserStatus, .jtagStatus] (errorsOf 0x1000) d := by
  have hr : s.dev.reaches p 0x1000 = true := by rw [Dev.reaches, hp, Dev.blockRuns_pw hs]; rfl
  refine Completes.ofPort _ h hr ?_
  obtain ⟨r, he⟩ := pwStateWrite_busy p (nw (req * 256)) (s.dev.accessed p) ((accessed_on _ _ _).trans hb)
  rw [he]
  exact ⟨(Dev.accessError_flags _ _ _ _ _ _).2.1 rfl, (((s.dev.accessed_changes p).mono (by decide) (by decide)).trans
    ((Dev.accessError_changes _ _ _ _ _ _).mono (by decide) (covers_refl _))).keeps⟩

/-- Settles O14: while BUSY stands, a write of PW_STATE is an access error. -/
theorem busyRequestIsLocked : Obligations.BusyRequestIsLocked := by
  intro s p hp hs hb i hi
  simp only [List.mem_cons, List.not_mem_nil, or_false] at hi
  obtain rfl | rfl | rfl := hi
  · exact stateRequest_busy 2 p s hp hs hb rfl
  · exact stateRequest_busy 3 p s hp hs hb rfl
  · exact stateRequest_busy 4 p s hp hs hb rfl

/-! Resets (R61, R66). -/

/-- The bit of FD_CAUSE.BROWN_SRC that a rail sets (R66). -/
def brownSource : Rail → Nat
  | .vcore => 1 | .vana => 2 | .vddr => 4 | .vio => 0

theorem brownReset_run (r : Rail) (d : Dev) (hs : d.power.step = .up) (hh : d.power.hold = none) (hc : d.rd PW_STATE_CUR = 1) (hr : r ≠ .vio)
    (hp : d.bitOn PW_RAIL_PEN (railPen r) = true) (ho : d.on (railOk r) = true) :
    (brownReset r d).power.hold = some .brown ∧ (brownReset r d).rd FD_CAUSE_CLASS = 2 ∧ (brownReset r d).rd PW_STATE_CUR = 1 ∧
    (brownReset r d).rd FD_CAUSE_BROWN_SRC = brownSource r := by
  have e : brownReset r d = startReset .brown false (brownSource r) (d.lower (railOk r)) := by
    unfold brownReset
    cases r with
    | vio => exact absurd rfl hr
    | vcore => simp [hp, ho, brownSource]
    | vana => simp [hp, ho, hs, hc, brownSource]
    | vddr => simp [hp, ho, hs, hc, brownSource]
  obtain ⟨hhold, -, -, hcur, hclass, hsrc⟩ := startReset_eff .brown false (brownSource r) (d.lower (railOk r))
    (by rw [show (d.lower (railOk r)).power = d.power from rfl, hs]; decide) hh (by cases r <;> decide)
  rw [e]
  exact ⟨hhold, hclass, hcur, hsrc⟩

theorem brownReset_shown (r : Rail) (d : Dev) (hr : r = .vio ∨ (r ∈ [Rail.vana, .vddr] ∧ d.rd PW_STATE_CUR = 3))
    (hp : d.bitOn PW_RAIL_PEN (railPen r) = true) (ho : d.on (railOk r) = true) : brownReset r d = d.lower (railOk r) := by
  unfold brownReset
  rcases hr with rfl | ⟨hr, hc⟩
  · simp [hp, ho]
  · simp only [List.mem_cons, List.not_mem_nil, or_false] at hr
    rcases hr with rfl | rfl <;> simp [hp, ho, hc]

theorem gcReset_key (p : Path) (w : Word) (d : Dev) (hd : d.power.softDue = none) (h0 : bit w.toNat 0 = true) (hk : bits w.toNat 15 8 = 0x5A) :
    gcReset p w d = d.modPower fun q => { q with softDue := some (bit w.toNat 1, d.ns) } := by
  simp [gcReset, hd, h0, hk]

theorem gcReset_refused (p : Path) (w : Word) (d : Dev) (h0 : bit w.toNat 0 = true) (hk : bits w.toNat 15 8 ≠ 0x5A) :
    gcReset p w d = d.errRange p 0x48 := by
  simp [gcReset, h0, hk]

theorem softReset_due (k : Bool) (t : Nat) (d : Dev) (h : d.power.softDue = some (k, t)) : softReset d = startReset .soft k 0 (d.reach (t + 1000)) := by
  unfold softReset
  rw [h]

/-- Settles O15, cause by cause, and the release. -/
theorem resetsHoldAndRelease : Obligations.ResetsHoldAndRelease := by
  intro s
  refine ⟨fun hs => Completes.effect _ rfl (coldReset_eff _ hs), fun hs hh hc r hr hp ho => Completes.effect _ rfl ?_,
    fun hp ho => Completes.effect _ rfl ?_, fun r hr hc hp ho => Completes.effect _ rfl ?_, fun hs hh => Completes.effect _ rfl ?_,
    fun p w hr hd h0 hk => Completes.ofPort _ rfl hr ?_, fun p w hr h0 hk => Completes.ofPort _ rfl hr ?_, fun k t hd hs hh => Completes.effect _ rfl ?_,
    fun env c hh hc hs hr => Completes.effect (fun d => resetRelease env (freshFlash d)) rfl ?_⟩
  · obtain ⟨hhold, hclass, hcur, hsrc⟩ := brownReset_run r s.dev.begun hs hh hc hr hp ho
    exact ⟨hhold, hclass, hcur, hsrc.trans (by cases r <;> rfl)⟩
  · rw [brownReset_shown .vio s.dev.begun (.inl rfl) hp ho]
    exact ⟨Dev.rd_lower_same _ _, rfl, rfl⟩
  · rw [brownReset_shown r s.dev.begun (.inr ⟨hr, hc⟩) hp ho]
    exact ⟨Dev.rd_lower_same _ _, rfl, rfl⟩
  · obtain ⟨hhold, -, -, hcur, hclass, -⟩ := startReset_eff .pin false 0 s.dev.begun hs hh (by decide)
    have e : pinReset s.dev.begun = (startReset .pin false 0 s.dev.begun).modPower fun p => { p with resetPin := true } := if_neg hs
    rw [e]
    exact ⟨hhold, rfl, hclass, hcur⟩
  · rw [gcReset_key p w (s.dev.accessed p) ((congrArg PowerSt.softDue (Dev.beginAccess_power _ p)).trans hd) h0 hk]
    refine ⟨?_, Dev.beginAccess_regs _ p, Dev.beginAccess_mem _ p⟩
    exact congrArg (fun t => some (bit w.toNat 1, t)) (Dev.beginAccess_ns _ p)
  · rw [gcReset_refused p w _ h0 hk]
    have kept := ((s.dev.accessed_changes p).mono (T := [.regs, .out, .hawserStatus, .jtagStatus]) (V := errorsOf 0) (by decide) (by decide)).trans
      ((Dev.errRange_changes _ p 0x48).mono (by decide) (covers_refl _))
    exact ⟨Dev.errRange_flag _ p 0x48, kept.parts .power (by decide), kept.parts .mem (by decide)⟩
  · rw [softReset_due k t s.dev.begun hd]
    have hpow := reach_power s.dev.begun (t + 1000)
    obtain ⟨hhold, -, hdue, hcur, hclass, -⟩ :=
      startReset_eff .soft k 0 (s.dev.begun.reach (t + 1000)) (by rw [hpow]; exact hs) (by rw [hpow]; exact hh) (by decide)
    exact ⟨hhold, hdue, hclass, hcur⟩
  · obtain ⟨hhold, -, hcur, hbusy, hstrap⟩ := resetRelease_eff env c (freshFlash s.dev.begun) hh hc hs hr
    exact ⟨hhold, hcur, hbusy, hstrap⟩

/-! Power failure (R70, R72, R73). -/

theorem pfailAssert_pin (d : Dev) (hs : d.power.step ≠ .off) (hc : d.on PW_CFG_PFAIL_PIN = true) (hp : d.rd PW_STATUS_PFAIL = 0) :
    (pfailAssert .pin d).rd PW_STATUS_PFAIL = 1 ∧ (pfailAssert .pin d).rd PW_STATUS_PFAIL_SEEN = 1 ∧ (pfailAssert .pin d).power.pfailPin = true ∧
    (pfailAssert .pin d).power.pfailAt = d.ns := by
  have e : pfailAssert .pin d = settlePfail (d.modPower fun p => { p with pfailPin := true }) := if_neg hs
  have now : (d.modPower fun p => { p with pfailPin := true }).pfailNow = true := by simp [Dev.pfailNow, hc]
  rw [e]
  obtain ⟨hpf, hseen, hpow⟩ := settlePfail_on _ now hp
  rw [hpow]
  exact ⟨hpf, hseen, rfl, rfl⟩

theorem pfailAssert_vin (d : Dev) (hs : d.power.step ≠ .off) (hc : d.on PW_CFG_VIN_MON = true) (ha : d.power.vinArmed = true)
    (hv : d.power.vrf.getD 0 0 < 4000 + 250 * d.rd PW_CFG_VIN_TRIP) (hp : d.rd PW_STATUS_PFAIL = 0) :
    (pfailAssert .vin d).rd PW_STATUS_PFAIL = 1 ∧ (pfailAssert .vin d).rd PW_STATUS_PFAIL_SEEN = 1 ∧ (pfailAssert .vin d).power.pfailVin = true ∧
    (pfailAssert .vin d).power.pfailAt = d.ns := by
  have e : pfailAssert .vin d = settlePfail (d.modPower fun p => { p with pfailVin := true }) :=
    (if_neg hs).trans (if_pos (by rw [ha, decide_eq_true hv]; rfl))
  have now : (d.modPower fun p => { p with pfailVin := true }).pfailNow = true := by simp [Dev.pfailNow, hc, ha]
  rw [e]
  obtain ⟨hpf, hseen, hpow⟩ := settlePfail_on _ now hp
  rw [hpow]
  exact ⟨hpf, hseen, rfl, rfl⟩

/-- An input is released that was the only one selected. -/
theorem pfailRelease_last (i : PfailInput) (d : Dev) (hs : d.power.step ≠ .off) (hp : d.rd PW_STATUS_PFAIL = 1) (hf : d.power.fence = false)
    (hc : match i with | .pin => d.on PW_CFG_VIN_MON = false | .vin => d.on PW_CFG_PFAIL_PIN = false) :
    (pfailRelease i d).rd PW_STATUS_PFAIL = 0 ∧ (pfailRelease i d).rd PW_STATUS_PFAIL_GLITCH = 1 ∧ (pfailRelease i d).power.fence = false := by
  cases i with
  | pin =>
    have e : pfailRelease .pin d = settlePfail (d.modPower fun p => { p with pfailPin := false }) := if_neg hs
    obtain ⟨hpf, hglitch, hpow⟩ := settlePfail_off (d.modPower fun p => { p with pfailPin := false }) (by simp [Dev.pfailNow, hc]) hp hf
    rw [e, hpow]
    exact ⟨hpf, hglitch, hf⟩
  | vin =>
    have e : pfailRelease .vin d = settlePfail (d.modPower fun p => { p with pfailVin := false }) := if_neg hs
    obtain ⟨hpf, hglitch, hpow⟩ := settlePfail_off (d.modPower fun p => { p with pfailVin := false }) (by simp [Dev.pfailNow, hc]) hp hf
    rw [e, hpow]
    exact ⟨hpf, hglitch, hf⟩

theorem mramFence_eff (d : Dev) (hs : d.power.step ≠ .off) (hp : d.rd PW_STATUS_PFAIL = 1) (hf : d.power.fence = false) (hh : d.power.hold = none) :
    (mramFence d).power.fence = true ∧ (mramFence d).power.hold = some .brown ∧ (mramFence d).rd FD_CAUSE_CLASS = 2 ∧
    (mramFence d).rd FD_CAUSE_BROWN_SRC = 8 := by
  have e : mramFence d = startReset .brown false 8 ((d.reach (d.power.pfailAt + 1200000)).modPower fun p => { p with fence := true }) :=
    if_neg (by simp [hs, hf, Dev.on, hp])
  have hpow := reach_power d (d.power.pfailAt + 1200000)
  rw [e]
  obtain ⟨hhold, hfence, -, -, hclass, hsrc⟩ :=
    startReset_eff .brown false 8 ((d.reach (d.power.pfailAt + 1200000)).modPower fun p => { p with fence := true })
      (by rw [Dev.modPower_power, hpow]; exact hs) (by rw [Dev.modPower_power, hpow]; exact hh) (by decide)
  exact ⟨hfence, hhold, hclass, hsrc⟩

/-- Settles O16: each input by what PW_CFG selects, and the fence 1.2 ms after the assertion. -/
theorem powerFailAndFence : Obligations.PowerFailAndFence := by
  intro s hs
  exact ⟨fun hc hp => Completes.effect _ rfl (pfailAssert_pin _ hs hc hp), fun hc ha hv hp => Completes.effect _ rfl (pfailAssert_vin _ hs hc ha hv hp),
    fun hp hc hf => Completes.effect _ rfl (pfailRelease_last .pin _ hs hp hf hc), fun hp hc hf => Completes.effect _ rfl (pfailRelease_last .vin _ hs hp hf hc),
    fun hp hf hh => Completes.effect _ rfl (mramFence_eff _ hs hp hf hh)⟩

end Sys2Proof.Machine
end

section
/-!
Boot (04_boot_manifest.md): the statements about images, the boot from a neighbour and the service commands of the boot ROM.
-/

namespace Sys2Proof.Machine

/-! Images (R76 to R79, R91). -/

theorem recoverJournal_spares (ecc : Option Nat) (d : Dev) :
    (recoverJournal ecc d).power = d.power ∧ (recoverJournal ecc d).on GC_BOOT_BARE = d.on GC_BOOT_BARE := by
  have h := recoverJournal_after (Changes.refl _ _ d) (within_refl _) (covers_refl _) ecc
  exact ⟨h.parts .power (by decide), Dev.on_of_rd (h.rd (rows_not (by decide)))⟩

theorem raiseRf_spares (d : Dev) : (raiseRf d).power.trimDue = d.power.trimDue ∧ (raiseRf d).rd SV_RECOV_DONE = d.rd SV_RECOV_DONE := by
  have h := raiseRf_after (Changes.refl _ _ d) (within_refl _) (covers_refl _)
  have keeps : ∀ (x : Dev) (c : Prop) [Decidable c] (k : Nat), (if c then x.penUp k else x).power.trimDue = x.power.trimDue := fun x c _ k => by
    split
    · obtain ⟨v, w, hv⟩ := penUp_power x k
      rw [hv]
    · rfl
  refine ⟨?_, h.rd (rows_not (by decide))⟩
  unfold raiseRf
  dsimp only
  rw [keeps, keeps]
  rfl

/-- Recovery under a Manifest whose first power-up stops in Trim (R91). -/
theorem recoveryDone_trim (ecc : Option Nat) (d : Dev) (hr : d.coreRuns = true) (hp : d.boot.phase = .recover) (hb : d.on GC_BOOT_BARE = false)
    (ht : d.power.trimDue = true) :
    (recoveryDone ecc d).boot.phase = .trim ∧ (recoveryDone ecc d).rd SV_RECOV_DONE = 1 ∧ (recoveryDone ecc d).rd GC_BOOT_STAGE = 6 := by
  obtain ⟨hpow, hbare⟩ := recoverJournal_spares ecc d
  have hdone := recoverJournal_done ecc d
  unfold recoveryDone
  rw [if_neg (by simp [hr, hp])]
  generalize recoverJournal ecc d = x at hpow hbare hdone ⊢
  obtain ⟨hdue, hkept⟩ := raiseRf_spares (x.wr SV_RUNTIME_STATE 0)
  dsimp only
  rw [if_neg (by rw [Dev.on_of_rd (Dev.rd_wr_ne _ _ (by decide)), hbare, hb]; decide),
    if_pos (show ((raiseRf (x.wr SV_RUNTIME_STATE 0)).wr GC_BOOT_STAGE 6).power.trimDue = true from
      hdue.trans ((congrArg PowerSt.trimDue hpow).trans ht))]
  refine ⟨rfl, ?_, ?_⟩ <;> rw [Dev.modBoot_rd]
  · exact (Dev.rd_wr_ne _ _ (by decide)).trans (hkept.trans ((Dev.rd_wr_ne _ _ (by decide)).trans hdone))
  · exact Dev.rd_wr_same _ _ _

/-- Settles O17: each clause is what the command's own step does to an image in the staging area. -/
theorem bootAppliesOnlyCheckedImages : Obligations.BootAppliesOnlyCheckedImages := by
  intro s
  refine ⟨fun bs hr hd hp hs hl hk ht ho => Completes.effect (fun d => imageFetchDone (some bs) (freshFlash d)) rfl
      (imageFetchDone_eff bs (freshFlash s.dev.begun) hr hd hp hs hl hk ht ho), fun bs m hr hd hp hs hl hv => ?_,
    fun m hr hp hm hf => Completes.effect _ rfl (configApplyDone_eff _ m hr hp hm hf),
    fun m hr hp hm hk hs ht => Completes.effect (fun d => bootDeckParity (freshFlash d)) rfl (bootDeckParity_eff (freshFlash s.dev.begun) m hr hp hm hk hs ht),
    fun ecc hr hp hb => Completes.effect _ rfl (recoveryDone_bare ecc _ hr hp hb),
    fun ecc hr hp hb ht => Completes.effect _ rfl (recoveryDone_trim ecc _ hr hp hb ht)⟩
  obtain ⟨same, other⟩ := imageReload_eff bs m (freshFlash s.dev.begun) hr hd hp hs hl hv
  exact ⟨fun h => Completes.effect (fun d => imageFetchDone (some bs) (freshFlash d)) rfl (same h),
    fun h => Completes.effect (fun d => imageFetchDone (some bs) (freshFlash d)) rfl (other h)⟩

/-! Service commands (R320 to R323): one that waits alone is served at once. -/

/-- A service command that is offered, under its own function, completes with what the function does to the part that serves it. -/
theorem Completes.serves {i : Instr} {s : State} {P : Dev → Prop} {via : Via} {code : Nat} {c : SvcCmd} (f : SvcCmd → Dev → Dev)
    (h : exec i s = s.act (serve via code f)) (ho : s.dev.Offers via code c) (hw : (f c (s.dev.serving c)).sv.waiting = [])
    (k : P (f c (s.dev.serving c))) : Completes i s P :=
  Completes.of _ h (by rw [serve_offers f s.dev ho hw]; exact k)

/-- The same for the commands that read or write the boot flash. -/
theorem Completes.servesFlash {i : Instr} {s : State} {P : Dev → Prop} {via : Via} {code : Nat} {c : SvcCmd} (f : SvcCmd → Dev → Dev)
    (h : exec i s = s.act (fun d => serve via code f (freshFlash d))) (ho : s.dev.Offers via code c)
    (hw : (f c ((freshFlash s.dev).serving c)).sv.waiting = []) (k : P (f c ((freshFlash s.dev).serving c))) : Completes i s P :=
  Completes.of _ h (by
    have e := serve_offers f (freshFlash s.dev) ho hw
    exact (congrArg P e).mpr k)

/-- A service command that is offered and answers without a change is answered. -/
theorem Completes.answers {i : Instr} {s : State} {via : Via} {code : Nat} {c : SvcCmd} (f : SvcCmd → Dev → Dev) {rc : Nat} {data : List Byte}
    (h : exec i s = s.act (serve via code f)) (ho : s.dev.Offers via code c)
    (hf : f c (s.dev.serving c) = reply c rc data (s.dev.serving c)) : Answers c rc data i s :=
  Completes.of _ h (answers_of f s ho hf)

theorem Dev.dirEntry_of_boot {d e : Dev} (h : e.boot = d.boot) (n : Nat) : e.dirEntry n = d.dirEntry n := by
  unfold Dev.dirEntry
  rw [h]

theorem slotWrite_offered (same : Bool) {via : Via} {c : SvcCmd} {booted old : DirEntry} {s : State} (ho : s.dev.Offers via 0x11 c)
    (hs : u8At c.payload 0 < 2) (hb : s.dev.rd GC_BOOT_SOURCE ≠ u8At c.payload 0 + 1) (h0 : 0 < le32At c.payload 8)
    (h1 : le32At c.payload 4 + le32At c.payload 8 ≤ stagingLen) (hbo : s.dev.dirEntry (s.dev.rd GC_BOOT_SOURCE) = some booted)
    (hold : s.dev.dirEntry (u8At c.payload 0 + 1) = some old) (hq : booted.sequence + 1 < 0xFFFFFFFF) :
    Completes (.slotWrite via same) s fun d =>
      match s.dev.verify (Memory.read s.dev.mem (stagingAt + le32At c.payload 4) (le32At c.payload 8)) (some old.slotSize) with
      | .error _ => d.boot.flashOps = [] ∧ d.dirEntry (u8At c.payload 0 + 1) = some old
      | .ok m =>
        if same then
          d.boot.flashOps = [(0x20, old.slotOffset, m.totalLen), (0x02, old.slotOffset, m.totalLen), (0x20, dirAt (u8At c.payload 0 + 1), 0x1000),
            (0x02, dirAt (u8At c.payload 0 + 1), 32)] ∧
          d.dirEntry (u8At c.payload 0 + 1) = some { old with sequence := booted.sequence + 1, attempts := 7, confirm := 0xFF }
        else d.boot.flashOps = [(0x20, old.slotOffset, m.totalLen), (0x02, old.slotOffset, m.totalLen)] := by
  obtain ⟨rc, data, x, he, hsv, hx⟩ := slotWrite_eff same c ((freshFlash s.dev).serving c) booted old (by omega) hb h0 h1 hbo hold hq rfl
  refine Completes.servesFlash (slotWrite same) rfl ho ?_ ?_ <;> rw [he]
  · rw [reply_waiting, hsv]
    rfl
  · simp only [reply_boot, Dev.dirEntry_of_boot (reply_boot c rc data x)]
    change (match s.dev.verify (Memory.read s.dev.mem (stagingAt + le32At c.payload 4) (le32At c.payload 8)) (some old.slotSize) with
      | .error _ => _
      | .ok m => _) at hx
    revert hx
    cases s.dev.verify (Memory.read s.dev.mem (stagingAt + le32At c.payload 4) (le32At c.payload 8)) (some old.slotSize) with
    | error e => exact id
    | ok m =>
      cases same with
      | false => exact fun h => h.1
      | true => exact id

theorem slotConfirm_offered {via : Via} {c : SvcCmd} {e : DirEntry} {m : Manifest} {s : State} (ho : s.dev.Offers via 0x12 c)
    (he : s.dev.dirEntry (s.dev.rd GC_BOOT_SOURCE) = some e) (hm : s.dev.boot.manifest = some m) (hc : e.confirm = 0xFF) :
    Completes (.slotConfirm via) s fun d =>
      d.dirEntry (s.dev.rd GC_BOOT_SOURCE) = some { e with confirm := 0 } ∧
      d.fuses.secMin = if m.advance then max s.dev.fuses.secMin m.secVersion else s.dev.fuses.secMin := by
  obtain ⟨x, hx, hsv, hdir, -, hmin⟩ := slotConfirm_eff c ((freshFlash s.dev).serving c) e m he hm hc rfl
  refine Completes.servesFlash slotConfirm rfl ho ?_ ?_ <;> rw [hx]
  · rw [reply_waiting, hsv]
    rfl
  · rw [Dev.dirEntry_of_boot (reply_boot c 0 [] x), reply_fuses]
    exact ⟨hdir, hmin⟩

theorem bootServices (s : State) (via : Via) (c : SvcCmd) : (s.dev.Offers via 0x10 c → s.dev.runtime = false → 0 < le32At c.payload 4 →
    le32At c.payload 0 + le32At c.payload 4 ≤ stagingLen → Completes (.manifestBoot via) s fun d =>
      d.mem = s.dev.mem ∧
      match s.dev.verify (Memory.read s.dev.mem (stagingAt + le32At c.payload 0) (le32At c.payload 4)) none with
      | .ok m => d.boot.phase = .apply ∧ d.boot.manifest = some m ∧ d.boot.staged = (le32At c.payload 0, le32At c.payload 4) ∧
          d.sv.mboxOut = [] ∧ d.rd GC_BOOT_BARE = 0 ∧ d.rd SV_MBOX_STATUS_BUSY = 0 ∧ d.rd SV_MBOX_STATUS_OUT_READY = 0 ∧ d.rd GC_BOOT_STAGE = 4
      | .error e => d.boot.phase = s.dev.boot.phase ∧ d.rd GC_BOOT_STAGE = 3 ∧ d.rd GC_BOOT_BARE = s.dev.rd GC_BOOT_BARE ∧
          d.rd SV_MBOX_STATUS_OUT_READY = 1 ∧
          d.sv.mboxOut = itemHeader 0x51 4 false false 0 :: responseWords c 0x10 (leBytes 1 e.1 ++ leBytes 1 e.2)) := by
  intro ho hr h0 h1
  have hv : c.via = .mailbox := by
    obtain ⟨-, -, hv, -, -, -, -, hrun⟩ := ho
    simp only [hr, Bool.false_eq_true, false_or] at hrun
    exact hv.trans hrun.1
  obtain ⟨hmem, -, hw, hx⟩ := manifestBoot_eff c (s.dev.serving c) hr hv rfl h0 h1
  exact Completes.serves manifestBoot rfl ho hw ⟨hmem, hx⟩

/-- Settles O18: the chunks and orders of a neighbour, then the service commands. -/
theorem neighbourBootAndBootServices : Obligations.NeighbourBootAndBootServices := by
  refine ⟨fun s => ⟨fun p off bs hb hd hw hl ho => Completes.effect _ rfl (bootData_eff p off.toNat bs _ hb hd hw hl ho),
    fun p off bs hb hd hn hl ho => Completes.effect _ rfl (bootData_waits p off.toNat bs _ hb hd hn hl ho),
    fun p total hb hd => Completes.effect _ rfl (bootEnd_waits p total.toNat _ hb hd),
    fun p total hb hd hf hk ht => Completes.effect _ rfl (bootEnd_eff p total.toNat s.dev.begun hb hd hf hk ht),
    fun p hb hf hk hp => Completes.effect _ rfl (bootDeny_eff p _ hb hf hk hp), fun p hb hf => Completes.effect _ rfl (bootDeny_reload p _ hb hf),
    fun hr hp hs hk hl => Completes.effect _ rfl (portTimeout_eff _ hr hp hs hk hl),
    fun p ha hl hr hs h0 => Completes.effect _ rfl (bootRequest_eff p _ ha hl hr hs h0)⟩, fun s via c => ?_⟩
  refine ⟨fun ho => Completes.answers statusCmd rfl ho rfl, fun ho => Completes.answers bootReport rfl ho rfl, bootServices s via c,
    fun ho hr => Completes.answers manifestBoot rfl ho (if_pos hr),
    fun same booted old ho hs hb h0 h1 hbo hold hq => slotWrite_offered same ho hs hb h0 h1 hbo hold hq,
    fun e m ho he hm hc => slotConfirm_offered ho he hm hc, fun ho h => ?_, fun ho h => ?_⟩
  · have hx := slotConfirm_refused c ((freshFlash s.dev).serving c) h
    refine Completes.servesFlash slotConfirm rfl ho ?_ hx
    rw [hx, reply_waiting]
    rfl
  · obtain ⟨hw, hdue⟩ := resetCmd_eff c (s.dev.serving c)
    refine Completes.serves resetCmd rfl ho hw (hdue.trans ?_)
    rw [show (s.dev.serving c).power.softDue = none from h]
    rfl

end Sys2Proof.Machine
end

section
/-!
RF channels, field generation (05_transmit.md): amplitude writes, the rise and end of a field, grants.
-/

namespace Sys2Proof.Machine

theorem Completes.imp {c : Instr} {s : State} {P Q : Dev → Prop} (h : Completes c s P) (k : ∀ d, P d → Q d) : Completes c s Q := by
  obtain ⟨t, hx, hp, ht⟩ := h
  exact ⟨t, hx, hp, k _ ht⟩

/-! A write of CHn_TX_AMP while a next field is confirmed (R103, R105). -/

/-- A grant as `charge` leaves it. -/
def recharged (g : Grant) (pw : Nat) (x : Grant) : Grant := if x = g then { x with power := pw } else x

theorem charge_grants (g : Grant) (pw : Nat) (d : Dev) : (charge g pw d).ts.grants = d.ts.grants.map (recharged g pw) := rfl

/-- Whether a grant belongs to channel `n` and is not released does not depend on its power. -/
theorem recharged_running (g : Grant) (pw n : Nat) :
    (fun x : Grant => x.ch == n && !x.isEmu && x.released.isNone) ∘ recharged g pw = fun x => x.ch == n && !x.isEmu && x.released.isNone := by
  funext x
  simp only [Function.comp_apply, recharged]
  split <;> rfl

theorem recharged_now (g : Grant) (pw n ms : Nat) :
    (fun x : Grant => x.ch == n && !x.isEmu && x.covers ms && x.released.isNone) ∘ recharged g pw =
      fun x => x.ch == n && !x.isEmu && x.covers ms && x.released.isNone := by
  funext x
  simp only [Function.comp_apply, recharged]
  split <;> rfl

/-- A grant charged anew stays the grant of its field. -/
theorem fieldGrant_charge (g : Grant) (pw n : Nat) (d : Dev) : (charge g pw d).fieldGrant n = (d.fieldGrant n).map (recharged g pw) := by
  have now : (charge g pw d).grantNow n = (d.grantNow n).map (recharged g pw) := by
    unfold Dev.grantNow
    rw [charge_grants, List.find?_map, show (charge g pw d).ms = d.ms from rfl, recharged_now]
  have last : (charge g pw d).lastGrant n = (d.lastGrant n).map (recharged g pw) := by
    unfold Dev.lastGrant
    rw [charge_grants, ← List.map_reverse, List.find?_map, recharged_running]
  unfold Dev.fieldGrant
  rw [show (charge g pw d).chan n = d.chan n from rfl]
  dsimp only
  split
  · split
    · rw [charge_grants, List.filter_map, recharged_running, ← List.map_dropLast, List.getLast?_map]
    · exact last
  · exact now

theorem nextCode_eff (n : Fin 24) (code c0 : Nat) (d : Dev) (hn : (d.chan n.val).field.next = some c0) (hg : d.fieldGrant n.val = none) :
    (nextCode n.val code d).fieldGrant n.val = none ∧ ((nextCode n.val code d).chan n.val).field.st = (d.chan n.val).field.st ∧
    ((nextCode n.val code d).chan n.val).field.next = some (if powerOf c0 < powerOf code then c0 else code) := by
  unfold nextCode
  rw [hn]
  dsimp only
  by_cases hlt : powerOf c0 < powerOf code
  · rw [if_pos hlt, if_pos hlt]
    exact ⟨hg, rfl, hn⟩
  · rw [if_neg hlt, if_neg hlt]
    have hf := field_modField n (fun f => { f with next := some code }) d
    have hgrant : (d.modField n.val fun f => { f with next := some code }).fieldGrant n.val = none := by
      rw [← hg]
      unfold Dev.fieldGrant
      rw [hf]
      dsimp only
      rw [hn]
      rfl
    generalize d.modField n.val (fun f => { f with next := some code }) = e at hf hgrant ⊢
    have hst := congrArg FieldSt.st hf
    have hnext := congrArg FieldSt.next hf
    cases e.lastGrant n.val with
    | none => exact ⟨hgrant, hst, hnext⟩
    | some g => exact ⟨by rw [fieldGrant_charge, hgrant]; rfl, hst, hnext⟩

theorem recordCut_field (n : Fin 24) (cause : Nat) (d : Dev) :
    ((recordCut n.val cause d).chan n.val).field = { (d.chan n.val).field with cutAt := some d.time } :=
  field_modField n (fun f => { f with cutAt := some d.time }) _

/-- A write of CHn_TX_AMP with a next field confirmed and no grant now: AMP_PENDING tells whether the code fits, and a code 0 records a cut. -/
theorem txAmp_next (p : Path) (n : Fin 24) (w : Word) (fr : RxFrame) (d : Dev) {pw code c0 : Nat} (hc : code = bits w.toNat 9 0) (hw : pw = powerOf code)
    (hp : pw ≤ (d.decl n.val).maxPower) (hg : d.fieldGrant n.val = none) (hn : (d.chan n.val).field.next = some c0) :
    txAmpWrite p n.val w fr d =
      let e := (nextCode n.val code (ampNoted n.val code pw d)).flag (CH_TX_STATUS_AMP_PENDING n.val) (decide (powerOf c0 < pw))
      if code = 0 then recordCut n.val cutZERO_CODE e else e := by
  have hgrant := (nextCode_eff n code c0 (ampNoted n.val code pw d) hn hg).1
  have hnext : ((ampNoted n.val code pw d).chan n.val).field.next = some c0 := hn
  have hpend : (!decide (pw ≤ powerOf c0)) = decide (powerOf c0 < pw) := by simp [← decide_not]
  subst hw
  subst hc
  unfold txAmpWrite
  dsimp only
  rw [if_neg (Nat.not_lt.mpr hp)]
  unfold ampNoted at hgrant hnext ⊢
  rw [hnext, hgrant]
  dsimp only [Option.isNone]
  rw [hpend, if_neg Bool.false_ne_true]

theorem flag_chan (d : Dev) (f : Fld) (c : Bool) (n : Nat) : (d.flag f c).chan n = d.chan n := rfl

/-- A one-bit field holds the flag that is stored. -/
theorem rd_flag_bit (d : Dev) {f : Fld} (h : f.w = 1) (c : Bool) : (d.flag f c).rd f = b2n c := by
  rw [Dev.rd_flag_same, h]
  cases c <;> rfl

theorem recordCut_mem (n cause : Nat) (d : Dev) : (recordCut n cause d).mem = d.mem := rfl

theorem flag_mem (d : Dev) (f : Fld) (c : Bool) : (d.flag f c).mem = d.mem := rfl

theorem recordCut_rd (n : Fin 24) (cause : Nat) (d : Dev) {f : Fld} (h1 : f.bit ≠ (CH_TX_STATUS_CUT_CAUSE n.val).bit)
    (h2 : f.bit ≠ (CH_TX_STATUS_CUT_SEEN n.val).bit) : (recordCut n.val cause d).rd f = d.rd f :=
  (Dev.rd_raise_ne _ h2).trans (Dev.rd_wr_ne _ _ h1)

theorem ampNoted_rd_ne (n : Fin 24) (code pw : Nat) (d : Dev) {f : Fld} (h1 : f.bit ≠ (CH_TX_AMP_CODE n.val).bit)
    (h2 : f.bit ≠ (CH_TX_AMP_PWR n.val).bit) : (ampNoted n.val code pw d).rd f = d.rd f :=
  (Dev.rd_wr_ne _ _ h2).trans (Dev.rd_wr_ne _ _ h1)

/-- A command that writes CHn_TX_AMP completes with what the write does, where the ramp takes time. -/
theorem Completes.ofTxAmp {s : State} {p : Path} {n : Fin 24} {w : Word} {fr : RxFrame} {P : Dev → Prop}
    (hr : s.dev.reaches p (0x40000 + n.val * 0x2000) = true) (hq : (s.dev.chan n.val).field.st = .rampUp → s.dev.rd (CH_TX_RAMP_RAMP_ON n.val) ≠ 0)
    (hst : ((txAmpWrite p n.val w fr (s.dev.accessed p)).chan n.val).field.st = (s.dev.chan n.val).field.st)
    (hon : (txAmpWrite p n.val w fr (s.dev.accessed p)).rd (CH_TX_RAMP_RAMP_ON n.val) = s.dev.rd (CH_TX_RAMP_RAMP_ON n.val))
    (k : P (txAmpWrite p n.val w fr (s.dev.accessed p))) : Completes (.txAmpWrite p n w fr) s P := by
  refine Completes.ofPort _ rfl hr ?_
  rw [inOne_not n.val _ fun h => by rw [hon]; exact hq (hst ▸ h)]
  exact k

theorem accessed_chan (d : Dev) (p : Path) (n : Nat) : (d.accessed p).chan n = d.chan n := chan_of (Dev.beginAccess_chans _ p) n

theorem accessed_decl (d : Dev) (p : Path) (n : Nat) : (d.accessed p).decl n = d.decl n := by
  unfold Dev.decl
  rw [show (d.accessed p).boot = d.boot from Dev.beginAccess_boot _ p]

theorem accessed_fieldGrant (d : Dev) (p : Path) (n : Nat) : (d.accessed p).fieldGrant n = d.fieldGrant n := by
  cases p <;> rfl

theorem txAmp_refused (p : Path) (n : Fin 24) (w : Word) (fr : RxFrame) (d : Dev) (h : (d.decl n.val).maxPower < powerOf (bits w.toNat 9 0)) :
    txAmpWrite p n.val w fr d = d.errRange p (0x40010 + n.val * 0x2000) := if_pos h

theorem blockBase_txAmp (n : Fin 24) : blockBase (0x40010 + n.val * 0x2000) = 0x40000 + n.val * 0x2000 := by
  decide +revert


theorem txAmp_range (s : State) (p : Path) (n : Fin 24) (w : Word) (fr : RxFrame) (hr : s.dev.reaches p (0x40000 + n.val * 0x2000) = true)
    (hq : (s.dev.chan n.val).field.st = .rampUp → s.dev.rd (CH_TX_RAMP_RAMP_ON n.val) ≠ 0)
    (h : (s.dev.decl n.val).maxPower < powerOf (bits w.toNat 9 0)) : Completes (.txAmpWrite p n w fr) s fun d =>
      d.rd (ERR_RANGE (0x40000 + n.val * 0x2000)) = 1 ∧ d.rd (CH_TX_AMP_CODE n.val) = s.dev.rd (CH_TX_AMP_CODE n.val) ∧ d.chans = s.dev.chans := by
  have he := txAmp_refused p n w fr (s.dev.accessed p) (by rwa [accessed_decl])
  have hch := (Dev.errRange_changes (s.dev.accessed p) p (0x40010 + n.val * 0x2000))
  rw [blockBase_txAmp] at hch
  have hchans : (txAmpWrite p n.val w fr (s.dev.accessed p)).chans = s.dev.chans := by
    rw [he]
    exact (hch.parts .chans (by decide)).trans (Dev.beginAccess_chans _ p)
  refine Completes.ofTxAmp hr hq (by rw [chan_of hchans]) ?_ ⟨?_, ?_, hchans⟩ <;> rw [he]
  · exact (hch.rd (rows_not (by apply every_index _ n; decide))).trans (accessed_rd _ _ _)
  · rw [← blockBase_txAmp n]
    exact Dev.errRange_flag _ _ _
  · exact (hch.rd (rows_not (by apply every_index _ n; decide))).trans (accessed_rd _ _ _)

theorem txAmp_pending (s : State) (p : Path) (n : Fin 24) (w : Word) (fr : RxFrame) (hr : s.dev.reaches p (0x40000 + n.val * 0x2000) = true)
    (hq : (s.dev.chan n.val).field.st = .rampUp → s.dev.rd (CH_TX_RAMP_RAMP_ON n.val) ≠ 0) {c q c0 : Nat} (hc : c = bits w.toNat 9 0) (hw : q = powerOf c)
    (hp : q ≤ (s.dev.decl n.val).maxPower) (hg : s.dev.fieldGrant n.val = none) (hn : (s.dev.chan n.val).field.next = some c0) :
    Completes (.txAmpWrite p n w fr) s fun d =>
      d.rd (CH_TX_AMP_CODE n.val) = c ∧ d.rd (CH_TX_STATUS_AMP_PENDING n.val) = b2n (decide (powerOf c0 < q)) ∧
      (d.chan n.val).field.next = some (if powerOf c0 < q then c0 else c) ∧ d.mem = s.dev.mem := by
  rw [← accessed_decl s.dev p] at hp
  rw [← accessed_fieldGrant s.dev p] at hg
  rw [← accessed_chan s.dev p] at hn
  have he := txAmp_next p n w fr (s.dev.accessed p) hc hw hp hg hn
  obtain ⟨-, hst, hnext⟩ := nextCode_eff n c c0 (ampNoted n.val c q (s.dev.accessed p)) hn hg
  have hch := nextCode_after (Changes.refl [.chans, .ts] [] (ampNoted n.val c q (s.dev.accessed p))) (within_refl _) (covers_refl _) n.val c
  have hcode : (nextCode n.val c (ampNoted n.val c q (s.dev.accessed p))).rd (CH_TX_AMP_CODE n.val) = c :=
    (hch.rd (rows_not rfl)).trans (ampNoted_rd n c q _ (hc ▸ code_lt w)).1
  have hon : (nextCode n.val c (ampNoted n.val c q (s.dev.accessed p))).rd (CH_TX_RAMP_RAMP_ON n.val) = s.dev.rd (CH_TX_RAMP_RAMP_ON n.val) :=
    (hch.rd (rows_not rfl)).trans ((ampNoted_rd_ne n c q _ (by apply every_index _ n; decide) (by apply every_index _ n; decide)).trans (accessed_rd _ _ _))
  have hmem : (nextCode n.val c (ampNoted n.val c q (s.dev.accessed p))).mem = s.dev.mem := (hch.parts .mem (by decide)).trans (Dev.accessed_mem _ _)
  generalize nextCode n.val c (ampNoted n.val c q (s.dev.accessed p)) = e at he hst hnext hcode hon hmem
  have hst' : (e.chan n.val).field.st = (s.dev.chan n.val).field.st := hst.trans (by rw [← accessed_chan s.dev p]; rfl)
  dsimp only at he
  subst hw
  by_cases h0 : c = 0
  · rw [if_pos h0] at he
    refine Completes.ofTxAmp hr hq ?_ ?_ ⟨?_, ?_, ?_, ?_⟩ <;> rw [he]
    · rw [recordCut_field, flag_chan]
      exact hst'
    · rw [recordCut_rd n _ _ (by apply every_index _ n; decide) (by apply every_index _ n; decide), Dev.rd_flag_ne _ _ (by apply every_index _ n; decide)]
      exact hon
    · rw [recordCut_rd n _ _ (by apply every_index _ n; decide) (by apply every_index _ n; decide), Dev.rd_flag_ne _ _ (by apply every_index _ n; decide)]
      exact hcode
    · rw [recordCut_rd n _ _ (by apply every_index _ n; decide) (by apply every_index _ n; decide)]
      exact rd_flag_bit _ rfl _
    · rw [recordCut_field, flag_chan]
      exact hnext
    · rw [recordCut_mem, flag_mem, hmem]
  · rw [if_neg h0] at he
    refine Completes.ofTxAmp hr hq ?_ ?_ ⟨?_, ?_, ?_, ?_⟩ <;> rw [he]
    · rw [flag_chan]
      exact hst'
    · rw [Dev.rd_flag_ne _ _ (by apply every_index _ n; decide)]
      exact hon
    · rw [Dev.rd_flag_ne _ _ (by apply every_index _ n; decide)]
      exact hcode
    · exact rd_flag_bit _ rfl _
    · rw [flag_chan]
      exact hnext
    · rw [flag_mem, hmem]

theorem txAmp_rises (s : State) (p : Path) (n : Fin 24) (w : Word) (fr : RxFrame) (hr : s.dev.reaches p (0x40000 + n.val * 0x2000) = true)
    (hq : (s.dev.chan n.val).field.st = .rampUp → s.dev.rd (CH_TX_RAMP_RAMP_ON n.val) ≠ 0) {c q : Nat} {g : Grant} (hc : c = bits w.toNat 9 0)
    (hw : q = powerOf c) (hp : q ≤ (s.dev.decl n.val).maxPower) (hg : s.dev.fieldGrant n.val = some g) (hn : (s.dev.chan n.val).field.next = none)
    (ha : powerOf (s.dev.rd (CH_TX_STATUS_ACTIVE_CODE n.val)) < q) : Completes (.txAmpWrite p n w fr) s fun d =>
      d.rd (CH_TX_AMP_CODE n.val) = c ∧ d.rd (CH_TX_STATUS_ACTIVE_CODE n.val) = s.dev.rd (CH_TX_STATUS_ACTIVE_CODE n.val) ∧
      d.rd (CH_TX_STATUS_AMP_PENDING n.val) = 1 ∧ d.chans = s.dev.chans ∧ d.mem = s.dev.mem := by
  have hl : c < 1024 := hc ▸ code_lt w
  have he := txAmp_later p n w fr (s.dev.accessed p) g q c hc hw hl (by rwa [accessed_decl]) (by rwa [accessed_fieldGrant]) (by rwa [accessed_chan])
    (by rwa [accessed_rd])
  obtain ⟨hcode, -, hactive⟩ := ampNoted_rd n c q (s.dev.accessed p) hl
  have hchans : (txAmpWrite p n.val w fr (s.dev.accessed p)).chans = s.dev.chans := by
    rw [he]
    exact Dev.beginAccess_chans _ p
  refine Completes.ofTxAmp hr hq (by rw [chan_of hchans]) ?_ ⟨?_, ?_, ?_, hchans, ?_⟩ <;> rw [he]
  · rw [Dev.rd_flag_ne _ _ (by apply every_index _ n; decide), ampNoted_rd_ne n c q _ (by apply every_index _ n; decide) (by apply every_index _ n; decide)]
    exact accessed_rd _ _ _
  · rw [Dev.rd_flag_ne _ _ (by apply every_index _ n; decide)]
    exact hcode
  · rw [Dev.rd_flag_ne _ _ (by apply every_index _ n; decide)]
    exact hactive.trans (accessed_rd _ _ _)
  · exact Dev.rd_flag_same _ _ true
  · exact Dev.accessed_mem _ _

/-- Settles O19: the regulators, then a write of CHn_TX_AMP by how its power stands to the limit, to the next field and to the code in force. -/
theorem amplitudeAndRegulators : Obligations.AmplitudeAndRegulators := by
  refine ⟨fun s n => ?_, fun s p n w fr hr hq c q hc hw => ?_⟩
  · obtain ⟨hlimit, hlit, hdark, -⟩ := offRows s n
    exact ⟨hlimit, hlit, hdark⟩
  · refine ⟨fun h => txAmp_range s p n w fr hr hq (by rw [← hc, ← hw]; exact h), fun hp => (txAmp_row s p n w fr hr hq q c hc hw hp).1,
      fun c0 hp hg hn => txAmp_pending s p n w fr hr hq hc hw hp hg hn,
      fun g hp hg hn h0 => ⟨(txAmp_row s p n w fr hr hq q c hc hw hp).2 g hg hn h0, txAmp_rises s p n w fr hr hq hc hw hp hg hn⟩⟩

/-- Settles O20: each row of the field's states. -/
theorem fieldRisesAndGoes : Obligations.FieldRisesAndGoes := by
  refine ⟨fun s n hc => ?_, fun s n => ?_⟩
  · obtain ⟨hsettled, hatOnce, hwaits, hup, hoff⟩ := field_rows s n hc
    exact ⟨hsettled, hatOnce, hwaits, hup, (sequencer_rows s n hc).1, fun mag phase level cp => measured_rows s n hc mag phase level cp, hoff⟩
  · obtain ⟨-, -, -, hdown, hreset⟩ := offRows s n
    exact ⟨fun g fr hc hg ho he h hr => fieldEnd_row s n hc g fr hg ho he h hr, fun g fr => release_row s n g fr, hdown, hreset⟩

/-- Settles O21: the requests, their confirmation, the selection frames and the ends. -/
theorem grantsAreRequestedAndEnd : Obligations.GrantsAreRequestedAndEnd := by
  intro s
  exact ⟨grantRequest_row s, Completes.effect _ rfl (requestUrgent_eff _), fun m e hc hm he hg hs => confirmation_row s hc m e hm he hg hs,
    fun g lead m e ha hl hm he hf => (selectFrame_row s g ha lead m e hl hm he hf).imp fun d h => ⟨h.1, h.2.2⟩, fun n g hg ho => grantEnd_row s n g hg ho⟩

end Sys2Proof.Machine
end

section
/-!
RF channels, reception and the frame sequencer (06_receive.md, 07_framing_timing.md).
-/

namespace Sys2Proof.Machine

/-! Reception (R135, R136, R138, R140 to R142). -/

theorem rd_countSat_same (d : Dev) (f : Fld) (k : Nat) : (d.countSat f k).rd f = min (d.rd f + k) (2 ^ f.w - 1) :=
  (Dev.rd_wr_same _ _ _).trans (Nat.mod_eq_of_lt (by have := Nat.two_pow_pos f.w; omega))

/-- A newcomer weaker by 6 dB opens the frame anew, replayed from the window; the frame before counts as a false start (R138). -/
theorem newcomer_opens (n : Fin 24) (level floor oct at_ : Nat) (look : List Word) (fr : RxFrame) (d : Dev) (e : Exch) (hc : d.coreRuns = true)
    (ht : d.overThreshold n.val level floor = true) (hb : d.blanked n.val at_ = false) (he : (d.chan n.val).exch = some e)
    (hr : d.rd (CH_RX_STATUS_STATE n.val) = 2) (ha : (d.chan n.val).rx.aged = false) (hd : ∀ dl, e.deadline = some dl → at_ ≤ dl)
    (hl : level + 6 ≤ (d.chan n.val).rx.cur.level) :
    (correlation n.val level floor oct at_ look fr d).rd (CH_RX_STATUS_STATE n.val) = 4 ∧
    ((correlation n.val level floor oct at_ look fr d).chan n.val).rx.cur.level = level ∧
    (correlation n.val level floor oct at_ look fr d).rd (CH_STATS_FALSE_SOF n.val) = min (d.rd (CH_STATS_FALSE_SOF n.val) + 1) 255 ∧
    (correlation n.val level floor oct at_ look fr d).mem = d.mem := by
  rw [newcomer_eff n level floor oct at_ look fr d e hc ht hb he hr ha hd, if_pos hl]
  obtain ⟨hst, -, hcur, -, -, hmem⟩ := openFrame_eff n 4 { level := level, oct := oct, stamp := d.stamp } true
    ((d.modRx n.val fun r => { r with look := look }).countSat (CH_STATS_FALSE_SOF n.val) 1) (by decide)
  refine ⟨hst, congrArg Corr.level hcur, ?_, hmem⟩
  rw [(openFrame_after (Changes.refl _ _ _) (within_refl _) (covers_refl _) n.val 4 _ true).rd (rows_not (by apply every_index _ n; decide)), rd_countSat_same]
  rfl

/-- A newcomer that is stronger is interference (R138). -/
theorem newcomer_interferes (n : Fin 24) (level floor oct at_ : Nat) (look : List Word) (fr : RxFrame) (d : Dev) (e : Exch) (hc : d.coreRuns = true)
    (ht : d.overThreshold n.val level floor = true) (hb : d.blanked n.val at_ = false) (he : (d.chan n.val).exch = some e)
    (hr : d.rd (CH_RX_STATUS_STATE n.val) = 2) (ha : (d.chan n.val).rx.aged = false) (hd : ∀ dl, e.deadline = some dl → at_ ≤ dl)
    (hl : (d.chan n.val).rx.cur.level < level + 6) :
    (correlation n.val level floor oct at_ look fr d).rd (CH_RX_STATUS_STATE n.val) = 2 ∧
    (correlation n.val level floor oct at_ look fr d).rd (CH_RX_STATUS_INTERF_SEEN n.val) = 1 ∧
    ((correlation n.val level floor oct at_ look fr d).chan n.val).rx.interf = (d.chan n.val).rx.interf ++ [(fr.bits.length, none)] ∧
    (correlation n.val level floor oct at_ look fr d).mem = d.mem := by
  rw [newcomer_eff n level floor oct at_ look fr d e hc ht hb he hr ha hd, if_neg (Nat.not_le.mpr hl)]
  have hlook := rx_modRx n (fun r => { r with look := look }) d
  have hrx := rx_modRx n (fun r => { r with interf := r.interf ++ [(fr.bits.length, none)] }) (d.modRx n.val fun r => { r with look := look })
  rw [hlook] at hrx
  refine ⟨(Dev.rd_raise_ne _ (by apply every_index _ n; decide)).trans hr, Dev.rd_raise_same _ _, congrArg RxSt.interf hrx, rfl⟩

/-- Settles O22: what counts as a correlation and what a newcomer does, the ends of windows and frames, then the measurements and seeds. -/
theorem reception : Obligations.Reception := by
  refine ⟨fun s n => ⟨fun level floor oct at_ look fr h => Completes.effect _ rfl ?_, fun level floor oct at_ look fr hc ht hb => ⟨fun e he hr ha hd =>
      Completes.effect _ rfl (correlation_eff n level.toNat floor.toNat oct.val at_ look fr s.dev.begun e hc ht hb he hr ha hd),
      fun e he hr ha hd => ⟨fun hl => Completes.effect _ rfl (newcomer_opens n level.toNat floor.toNat oct.val at_ look fr s.dev.begun e hc ht hb he hr ha hd hl),
        fun hl => Completes.effect _ rfl (newcomer_interferes n level.toNat floor.toNat oct.val at_ look fr s.dev.begun e hc ht hb he hr ha hd hl)⟩⟩,
    fun h => Completes.effect _ rfl (early_eff n _ h), fun h => Completes.effect _ rfl (catchUp_eff n _ h),
    fun b h => Completes.effect _ rfl (interference_eff n b _ h), fun h ho => Completes.effect _ rfl (overload_eff n _ h ho),
    fun fr hc hr he => Completes.effect _ rfl (endOfFrame_eff n fr _ hc hr he)⟩,
    fun s n => ⟨fun level hc h ho hp => Completes.effect _ rfl (foreign_eff n level.toNat _ level.isLt hc h ho hp),
    fun l amp phase below g x w hg hw hx hs ho hu hr =>
      Completes.effect _ rfl (listener_eff n l.val amp.toNat phase.toNat below s.dev.begun g x w hg hw hx hs ho hu hr), fun p hr => seedClr_row s n p hr⟩⟩
  rw [correlation_none n _ _ _ _ look fr s.dev.begun h]
  exact ⟨rfl, rfl, rfl⟩

/-! The sequencer (R163 to R175). -/

/-- What the end of a card's SFGT does to its channel, where the Pontoon builds no command for it. -/
def sfgtPassed (k : Nat) (c : Chan) : Chan :=
  { c with ctx := vmod c.ctx k fun x => { x with sfgt := false }, nextRef := 3,
           exch := c.exch.map fun e => if e.ctx = k && !e.sent then { e with ref := 3 } else e }

theorem sfgtExpiry_passed (n : Fin 24) (k : Nat) (d : Dev) (h : ((d.chan n.val).context k).sfgt = true)
    (hb : (d.chan n.val).building.any (·.sfgt) = false) :
    ∃ x : Dev, sfgtExpiry n.val k d = kick n.val x ∧ x.chan n.val = sfgtPassed k (d.chan n.val) := by
  refine ⟨(d.modCtx n.val k fun c => { c with sfgt := false }).modChan n.val fun c =>
    { c with nextRef := 3, exch := c.exch.map fun e => if (false || e.ctx = k) && !e.sent then { e with ref := 3 } else e,
             job := if false then c.job.map Job.sfgtOver else c.job }, ?_, ?_⟩
  · unfold sfgtExpiry
    dsimp only
    rw [h, hb]
    rfl
  · rw [chan_modChan, Dev.modCtx, chan_modChan]
    simp [sfgtPassed]

/-- An unsent exchange whose card's SFGT ended has its reference and waits for its placement (R164). -/
theorem sfgtExpiry_places (n : Fin 24) (k : Fin 8) (d : Dev) (e : Exch) (h : ((d.chan n.val).context k.val).sfgt = true)
    (hb : (d.chan n.val).building.any (·.sfgt) = false) (he : (d.chan n.val).exch = some e) (hk : e.ctx = k.val) (hs : e.sent = false)
    (hf : (d.chan n.val).field.st = .on) (hg : (d.chan n.val).field.guard = true) :
    (sfgtExpiry n.val k.val d).rd (CH_FT_STATUS_SEQ n.val) = 2 := by
  obtain ⟨x, hx, hc⟩ := sfgtExpiry_passed n k.val d h hb
  have hctx : (x.chan n.val).context k.val = { (d.chan n.val).context k.val with sfgt := false } := by
    rw [hc]
    exact vget_vmod8 (d.chan n.val).ctx k _
  have hexch : (x.chan n.val).exch = some { e with ref := 3 } := by
    rw [hc]
    simp [sfgtPassed, he, hk, hs]
  have hfield : (x.chan n.val).field = (d.chan n.val).field := by rw [hc]; rfl
  have hbuild : (x.chan n.val).building = (d.chan n.val).building := by rw [hc]; rfl
  rw [hx]
  unfold kick
  simp only [hexch, hs, hfield, hf, hg, hbuild, hb, hk, hctx]
  exact seq_rd n 2 _ (by decide)

theorem placementPoint_waits (n : Fin 24) (fits : Bool) (d : Dev) (e : Exch) (hc : d.coreRuns = true) (he : (d.chan n.val).exch = some e)
    (hl : lostSession (d.chan n.val) = none) (hs : d.rd (CH_FT_STATUS_SEQ n.val) = 2) (h : e.late = false) (hr : (d.chan n.val).mayBeLate e = true) :
    (placementPoint n.val false fits d).rd (CH_FT_STATUS_SEQ n.val) = 2 ∧
    ((placementPoint n.val false fits d).chan n.val).exch = some { e with late := true } ∧ (placementPoint n.val false fits d).regs = d.regs ∧
    (placementPoint n.val false fits d).mem = d.mem := by
  obtain ⟨hx, hregs, hmem⟩ := placementPoint_late n fits d e hc he hl hs h hr
  refine ⟨?_, hx, hregs, hmem⟩
  rw [Dev.rd, hregs]
  exact hs

/-- Settles O23: each point of an exchange, by the sequencer's state. -/
theorem sequencerRunsExchanges : Obligations.SequencerRunsExchanges := by
  intro s n hc
  obtain ⟨-, hplace, hend, hdead, hverdict⟩ := sequencer_rows s n hc
  refine ⟨fun e he hl hs => ⟨(hplace e he hl hs).1, fun h hr fits =>
      Completes.effect _ rfl (placementPoint_waits n fits s.dev.begun e hc he hl hs h hr), (hplace e he hl hs).2⟩,
    fun e he hs hw h => ⟨hend e he hs hw h, fun ho => Completes.effect _ rfl (commandEnd_other n s.dev.begun e hc he hs hw ho)⟩,
    fun e he hs hr hh => ⟨hdead e he hs hr hh, fun hf => Completes.effect _ rfl (replyDeadline_eof n s.dev.begun e hc he hs hr hh hf)⟩, hverdict,
    fun k e h hb he hk hs hf hg => ?_⟩
  obtain ⟨hsfgt, href, hmem⟩ := sfgt_eff n k s.dev.begun h hb
  exact Completes.effect _ rfl ⟨hsfgt, href, sfgtExpiry_places n k s.dev.begun e h hb he hk hs hf hg, hmem⟩

end Sys2Proof.Machine
end

section
/-!
Register accesses (02_register_access.md).
-/

namespace Sys2Proof.Machine

/-! Reads (R28, R34, R44). The register file lists contents as they are given: a state may list more under a field than its width holds. -/

/-- A part in Run whose register file lists 300 for the eight-bit counter MASTERS of TC_COUNTS. -/
def wideCountDev : Dev :=
  { Dev.reset with
    power := { PowerSt.reset with step := .up, hold := none, waking := false },
    regs := [(TC_COUNTS_MASTERS.bit, 300), (PW_STATE_CUR.bit, 1), (GC_STATUS_PLLA_LOCK.bit, 1)] }

theorem wideCount_reaches : (wideCountDev.met .pilot).reaches .pilot 0x4000 = true := by
  decide +kernel

/-- A load of one byte delivers the counter's eight bits. -/
theorem wideCount_delivers : (busLoad .pilot (0x4068 + BitVec.ofNat 32 (0 : Fin 4).val).toNat 1 wideCountDev.begun).out = [44#32] := by
  decide +kernel

theorem wideCount_claimed : (wideCountDev.met .pilot).out ++ [nw ((wideCountDev.met .pilot).rd
    ([TC_COUNTS_MASTERS, TC_COUNTS_HOLDS, TC_COUNTS_STEPS, TC_COUNTS_REFUSED].getD (0 : Fin 4).val TC_COUNTS_MASTERS))] = [300#32] := by
  decide +kernel

/-- What a command that is one effect on the part leaves. -/
theorem act_dev {s t : State} {f : Dev → Dev} (h : s.act f = .next t) : t.dev = f s.dev.begun := by
  rw [← Host.Outcome.next.inj h]
  rfl

theorem byteRead_dev {s t : State} {p : Path} {a : Word} (h : exec (.rcRead p a .byte) s = .next t) : t.dev = busLoad p a.toNat 1 s.dev.begun :=
  act_dev (f := busLoad p a.toNat 1) h

/-- Refutes O8: the clause for a load of one byte of TC_COUNTS claims that the word delivered is the counter as the register file lists it.
The load delivers the counter's eight bits. They differ where the file lists 300 for it, which a state may, as the statement asks for no
well-formed register file. -/
theorem not_registerReads : ¬ Obligations.RegisterReads := by
  intro h
  obtain ⟨s, hs⟩ : ∃ s : State, s.dev = wideCountDev := ⟨⟨[], wideCountDev⟩, rfl⟩
  obtain ⟨-, -, byteClause, -⟩ := h s .pilot
  rw [hs] at byteClause
  obtain ⟨t, hx, -, hout, -⟩ := byteClause 0 wideCount_reaches
  have ht := byteRead_dev hx
  rw [hs] at ht
  rw [ht, wideCount_delivers, wideCount_claimed] at hout
  exact absurd hout (by decide)

/-! Writes (R31, R35, R38, R45). -/

theorem word_mod (w : Word) : w.toNat % 2 ^ 32 = w.toNat := Nat.mod_eq_of_lt w.isLt

/-- PW_RF_CAP as an access names it. -/
def rfCapHit : RegHit := ⟨⟨0x1020, 1, 1, 4, 1, 4, true, fun _ _ => [⟨0, PW_RF_CAP_CAP, .rw, .span 10 1800⟩]⟩, 0, 0, 0⟩

theorem rfCap_hit (d : Dev) : d.regAt 0x1020 = some rfCapHit := rfl

theorem rfCap_writes {d : Dev} {p : Path} (hr : (d.met p).reaches p 0x1000 = true) (w : Word) (frs : List (Fin 24 × RxFrame)) :
    busWrite p 0x1020 (leBytes 4 w.toNat) frs d.begun = writeValue p 0x1020 rfCapHit w.toNat (d.met p) := by
  have e := register_writes (Dev.names_of (a := 0x1020) (by decide) hr (by decide) (by decide) (by decide) (by decide) (rfCap_hit _)) w.toNat frs
    (by decide) rfl
  rw [word_mod] at e
  exact e

theorem rfCap_in (p : Path) (v : Nat) (d : Dev) (h : 10 ≤ bits v 10 0) (k : bits v 10 0 ≤ 1800) :
    writeValue p 0x1020 rfCapHit v d = d.wr PW_RF_CAP_CAP (bits v 10 0) := by
  have inside : (!(decide (10 ≤ bits v 10 0) && decide (bits v 10 0 ≤ 1800))) = false := by simp [h, k]
  show (if (((true && !(decide (10 ≤ bits v 10 0) && decide (bits v 10 0 ≤ 1800))) || false || false) || false) = true then _ else _) = _
  rw [inside]
  rfl

theorem rfCap_out (p : Path) (v : Nat) (d : Dev) (h : bits v 10 0 < 10 ∨ 1800 < bits v 10 0) :
    writeValue p 0x1020 rfCapHit v d = d.accessError 0x1000 p true 0x1020 ⟨true, false, false⟩ := by
  have outside : (!(decide (10 ≤ bits v 10 0) && decide (bits v 10 0 ≤ 1800))) = true := by
    simp only [Bool.not_eq_true', Bool.and_eq_false_iff, decide_eq_false_iff_not]
    omega
  show (if (((true && !(decide (10 ≤ bits v 10 0) && decide (bits v 10 0 ≤ 1800))) || false || false) || false) = true then
    d.accessError 0x1000 p true 0x1020 ⟨((true && !(decide (10 ≤ bits v 10 0) && decide (bits v 10 0 ≤ 1800))) || false || false), false, false⟩ else _) = _
  rw [outside]
  rfl

/-- The high word of the multicast hash of port 0, as an access names it. -/
def hashHit : RegHit := ⟨⟨0x6020, 2, 2, 0x800, 1, 4, false, fun n _ => [⟨0, EN_HASH_BITS n, .rw, .any⟩]⟩, 0, 0, 1⟩

theorem hash_hit (d : Dev) : d.regAt 0x6024 = some hashHit := rfl

/-- The high word commits the value with the low word that the path has staged. -/
theorem hash_commits {d : Dev} {p : Path} (hr : (d.met p).reaches p 0x6000 = true) (lo hi : Word)
    (hs : (d.met p).stage.find? (fun x => x.1 == p && x.2.1 == 0x6020) = some (p, 0x6020, lo)) :
    busWrite p 0x6024 (leBytes 4 hi.toNat) [] d.begun = writeValue p 0x6024 hashHit (2 ^ 32 * hi.toNat + lo.toNat) ((d.met p).unstage p) := by
  have e := (staged_writes (Dev.names_of (a := 0x6024) (by decide) hr (by decide) (by decide) (by decide) (by decide) (hash_hit _)) hi (by decide) rfl).2
    (by decide) rfl
  have staged : ∀ cur, (d.met p).staged p 0x6020 cur = lo.toNat := fun cur => by
    unfold Dev.staged
    rw [hs]
  obtain ⟨v, hv, hw⟩ : ∃ v, v = 2 ^ 32 * hi.toNat + lo.toNat ∧
      busWrite p 0x6024 (leBytes 4 hi.toNat) [] d.begun = writeValue p 0x6024 hashHit v ((d.met p).unstage p) := by
    refine ⟨_, ?_, e⟩
    simp [hashHit, upTo, staged]
  subst hv
  exact hw

theorem writeValue_hash (p : Path) (v : Nat) (d : Dev) : writeValue p 0x6024 hashHit v d =
    if d.on (EN_CFG_RX_EN 0) = true then d.accessError 0x6000 p true 0x6024 ⟨false, true, false⟩ else d.wr (EN_HASH_BITS 0) (bits v 63 0) := by
  show (if (false || d.on (EN_CFG_RX_EN 0)) = true then d.accessError 0x6000 p true 0x6024 ⟨false, d.on (EN_CFG_RX_EN 0), false⟩ else _) = _
  rw [Bool.false_or]
  split
  · rename_i h
    rw [h]
  · rfl

/-- A store of Pilot that is narrower than a word marks WIDTH. -/
theorem narrowStore_marks {d : Dev} (hr : (d.met .pilot).reaches .pilot 0 = true) (data : List Byte) (frs : List (Fin 24 × RxFrame))
    (h0 : 0 < data.length) (h4 : data.length < 4) :
    busWrite .pilot 0x100 data frs d.begun = (d.met .pilot).accessError 0 .pilot true 0x100 ⟨false, false, true⟩ := by
  have hempty : data.isEmpty = false := by cases data with
    | nil => exact absurd h0 (by decide)
    | cons => rfl
  rw [Dev.reaches, Bool.and_eq_true] at hr
  obtain ⟨hopen, hruns⟩ := hr
  unfold busWrite
  rw [show (burstsGoOn d.begun).beginAccess .pilot = d.met .pilot from rfl]
  generalize d.met .pilot = x at hopen hruns
  dsimp only
  rw [hopen, hempty, if_neg (by decide), if_pos rfl, if_pos h4, if_neg (by decide), if_pos (by decide)]
  unfold storeAddr
  dsimp only
  rw [show blockBase (0x100 / 4 * 4) = 0 from by decide, hruns]
  rfl

theorem pilotAccess_faults (store customer : Bool) (a : Nat) (d : Dev) (hp : d.pathOpen .pilot = true)
    (h : (inRegisterSpace a = false ∧ inWindow a = false) ∨ (customer = true ∧ customerDenied store a = true)) :
    pilotAccess store customer a d = { d with pilotFault := some (store, a) } := by
  rw [pilotAccess_eff store customer a d hp, if_neg]
  rcases h with ⟨hreg, hwin⟩ | ⟨hcust, hden⟩
  · simp [hreg, hwin]
  · simp [hcust, hden]

theorem pilotAccess_allowed (store customer : Bool) (a : Nat) (d : Dev) (hp : d.pathOpen .pilot = true)
    (h : inRegisterSpace a = true ∨ inWindow a = true) (k : customer = false ∨ customerDenied store a = false) :
    pilotAccess store customer a d = d := by
  have reads : (inRegisterSpace a || inWindow a) = true := (Bool.or_eq_true ..).mpr h
  have free : (customer && customerDenied store a) = false := (Bool.and_eq_false_iff ..).mpr k
  rw [pilotAccess_eff store customer a d hp, if_pos]
  rw [reads, free]
  rfl

theorem rfCap_write (s : State) (p : Path) (w : Word) (frs : List (Fin 24 × RxFrame)) (hr : (s.dev.met p).reaches p 0x1000 = true) :
    (10 ≤ bits w.toNat 10 0 → bits w.toNat 10 0 ≤ 1800 → Completes (.registerWrite p 0x1020 (leBytes 4 w.toNat) frs) s fun d =>
      d.rd PW_RF_CAP_CAP = bits w.toNat 10 0 ∧ d.mem = (s.dev.met p).mem) ∧
    (bits w.toNat 10 0 < 10 ∨ 1800 < bits w.toNat 10 0 → Completes (.registerWrite p 0x1020 (leBytes 4 w.toNat) frs) s fun d =>
      d.rd PW_RF_CAP_CAP = (s.dev.met p).rd PW_RF_CAP_CAP ∧ d.rd (ERR_RANGE 0x1000) = 1 ∧ d.mem = (s.dev.met p).mem) := by
  refine ⟨fun h k => Completes.effect (busWrite p 0x1020 (leBytes 4 w.toNat) frs) rfl ?_,
    fun h => Completes.effect (busWrite p 0x1020 (leBytes 4 w.toNat) frs) rfl ?_⟩ <;> rw [rfCap_writes hr]
  · rw [rfCap_in p _ _ h k]
    exact ⟨(Dev.rd_wr_same _ _ _).trans (Nat.mod_eq_of_lt (by show _ < 2048; omega)), rfl⟩
  · rw [rfCap_out p _ _ h]
    have hch := Dev.accessError_changes (s.dev.met p) 0x1000 p true 0x1020 ⟨true, false, false⟩
    exact ⟨hch.rd (rows_not (by decide)), (Dev.accessError_flags _ _ _ _ _ _).1 rfl, hch.parts .mem (by decide)⟩

theorem hash_write (s : State) (p : Path) (hr : (s.dev.met p).reaches p 0x6000 = true) (lo hi : Word)
    (hs : (s.dev.met p).stage.find? (fun x => x.1 == p && x.2.1 == 0x6020) = some (p, 0x6020, lo)) :
    ((s.dev.met p).on (EN_CFG_RX_EN 0) = false → Completes (.stagedWrite p 0x6024 hi) s fun d =>
      d.rd (EN_HASH_BITS 0) = lo.toNat + 2 ^ 32 * hi.toNat ∧ d.stage = (s.dev.met p).stage.filter (·.1 ≠ p) ∧ d.mem = (s.dev.met p).mem) ∧
    ((s.dev.met p).on (EN_CFG_RX_EN 0) = true → Completes (.stagedWrite p 0x6024 hi) s fun d =>
      d.rd (EN_HASH_BITS 0) = (s.dev.met p).rd (EN_HASH_BITS 0) ∧ d.rd (ERR_LOCKED 0x6000) = 1 ∧
      d.stage = (s.dev.met p).stage.filter (·.1 ≠ p) ∧ d.mem = (s.dev.met p).mem) := by
  refine ⟨fun h => Completes.effect (busWrite p 0x6024 (leBytes 4 hi.toNat) []) rfl ?_,
    fun h => Completes.effect (busWrite p 0x6024 (leBytes 4 hi.toNat) []) rfl ?_⟩ <;>
    rw [hash_commits hr lo hi hs, writeValue_hash]
  · rw [if_neg (by rw [show ((s.dev.met p).unstage p).on (EN_CFG_RX_EN 0) = _ from h]; decide)]
    refine ⟨(Dev.rd_wr_same _ _ _).trans ?_, rfl, rfl⟩
    have hlo := lo.isLt
    have hhi := hi.isLt
    unfold bits
    show _ / 2 ^ 0 % 2 ^ 64 % 2 ^ 64 = _
    omega
  · rw [if_pos (show ((s.dev.met p).unstage p).on (EN_CFG_RX_EN 0) = true from h)]
    have hch := Dev.accessError_changes ((s.dev.met p).unstage p) 0x6000 p true 0x6024 ⟨false, true, false⟩
    exact ⟨hch.rd (rows_not (by decide)), (Dev.accessError_flags _ _ _ _ _ _).2.1 rfl, hch.parts .stage (by decide), hch.parts .mem (by decide)⟩

/-- Settles O9, register by register, then for every register that an access names. -/
theorem registerWrites : Obligations.RegisterWrites := by
  intro s p
  refine ⟨fun w frs => ⟨fun hr => Completes.effect (busWrite p 0x100 (leBytes 4 w.toNat) frs) rfl ?_, fun hr => (rfCap_write s p w frs hr).1,
      fun hr => (rfCap_write s p w frs hr).2⟩,
    fun a w frs h hn h1 ho hl => Completes.effect (busWrite p a.toNat (leBytes 4 w.toNat) frs) rfl ?_,
    fun a w h hn ho hw hl => Completes.effect (busWrite p a.toNat (leBytes 4 w.toNat) []) rfl ?_, fun hr lo hi hs => hash_write s p hr lo hi hs,
    fun hr data frs h0 h4 => Completes.effect (busWrite .pilot 0x100 data frs) rfl ?_,
    fun hp a store customer => ⟨fun h => Completes.effect _ rfl (pilotAccess_faults store customer a.toNat _ hp h),
      fun h k => Completes.effect _ rfl (pilotAccess_allowed store customer a.toNat _ hp h k)⟩⟩
  · obtain ⟨hrd, hmem⟩ := gpioDir_write s.dev p w.toNat frs hr
    exact ⟨hrd.trans (word_mod w), hmem⟩
  · have e := register_writes hn w.toNat frs ho h1
    exact (congrArg (fun x : Dev => x.rd (ERR_LOCKED (blockBase a.toNat)) = 1 ∧ (s.dev.met p).Keeps [.regs] [.errors] x) e).mpr (writeValue_locked hl)
  · have e := (staged_writes hn w ho hw).1 hl
    exact (congrArg (fun x : Dev => x.stage = (s.dev.met p).stage.filter (fun x => !(x.1 == p && x.2.1 == a.toNat)) ++ [(p, a.toNat, w)] ∧
      x.regs = (s.dev.met p).regs ∧ x.mem = (s.dev.met p).mem) e).mpr ⟨rfl, rfl, rfl⟩
  · rw [narrowStore_marks hr data frs h0 h4]
    have hch := Dev.accessError_changes (s.dev.met .pilot) 0 .pilot true 0x100 ⟨false, false, true⟩
    exact ⟨(Dev.accessError_flags _ _ _ _ _ _).2.2 rfl, hch.rd (rows_not (by decide)), hch.parts .mem (by decide)⟩

end Sys2Proof.Machine
end

section
/-!
Services (13_registry_services.md): the registry, journalled commands, residents, the mailbox and the journal.
-/

namespace Sys2Proof.Machine

/-! How a service command ends, once it is offered (R315, R321). -/

/-- A command whose answer waits for the committed records. -/
theorem Completes.answersApplied {i : Instr} {s : State} {via : Via} {code : Nat} {c : SvcCmd} (f : SvcCmd → Dev → Dev) {rc : Nat} {data : List Byte}
    (h : exec i s = s.act (serve via code f)) (ho : s.dev.Offers via code c)
    (hf : f c (s.dev.serving c) = replyApplied c rc data (s.dev.serving c)) : AnswersApplied c rc data i s :=
  Completes.of _ h (answersApplied_of f s ho hf)

/-- A command that waits for a journal record of its own. -/
theorem Completes.owes {i : Instr} {s : State} {via : Via} {code : Nat} {c : SvcCmd} {w : Work} (f : SvcCmd → Dev → Dev)
    (h : exec i s = s.act (serve via code f)) (ho : s.dev.Offers via code c) (hf : f c (s.dev.serving c) = (s.dev.serving c).owe w) :
    Completes i s fun d => d = (s.dev.serving c).owe w :=
  Completes.of _ h (waits_of f s ho hf)

/-! The registry's read commands (R310, R311, R323). -/

theorem regLookup_none {c : SvcCmd} {d : Dev} (h : (d.lookup (c.payload.take 11)).1 = none) : regLookup c d = replyApplied c 0x11 [] d := by
  unfold regLookup
  rw [h]

theorem regLookup_some {c : SvcCmd} {d : Dev} {i : Nat} (h : (d.lookup (c.payload.take 11)).1 = some i) :
    regLookup c d = replyApplied c 0 (leBytes 4 i ++ d.regRecord i) d := by
  unfold regLookup
  rw [h]

theorem regQuery_range {c : SvcCmd} {d : Dev} (h0 : le16At c.payload 4 ≠ 0)
    (h : 14 < le16At c.payload 4 ∨ registrySize ≤ le32At c.payload 0 ∨ le16At c.payload 8 ≠ 0x7FF ∧ d.berthExists (le16At c.payload 8) = false) :
    regQuery c d = reply c 3 [] d := by
  unfold regQuery
  dsimp only
  rw [if_neg h0, if_pos (by simpa [or_assoc] using h)]

theorem regQuery_found {c : SvcCmd} {d : Dev} {is : List Nat} {next : Nat} (h1 : 1 ≤ le16At c.payload 4) (h14 : le16At c.payload 4 ≤ 14)
    (hs : le32At c.payload 0 < registrySize) (hb : le16At c.payload 8 = 0x7FF ∨ d.berthExists (le16At c.payload 8) = true)
    (hq : queryScan d c.payload 65536 (le32At c.payload 0) (le16At c.payload 4) = (is, next)) :
    regQuery c d = replyApplied c 0 (leBytes 2 is.length ++ [0, 0] ++ leBytes 4 (if registrySize ≤ next then 0xFFFFFFFF else next)
      ++ (is.map fun i => leBytes 4 i ++ d.regRecord i).flatten) d := by
  unfold regQuery
  dsimp only
  rw [if_neg (by omega), if_neg, hq]
  · simp only [Bool.or_eq_true, Bool.and_eq_true, decide_eq_true_eq, Bool.not_eq_true']
    rintro ((h | h) | ⟨h, k⟩)
    · omega
    · omega
    · rcases hb with hb | hb
      · exact h hb
      · rw [hb] at k
        exact absurd k (by decide)

theorem regScrub_range {c : SvcCmd} {d : Dev}
    (h : le32At c.payload 4 = 0 ∨ 65536 < le32At c.payload 4 ∨ registrySize < le32At c.payload 0 + le32At c.payload 4) :
    regScrub c d = reply c 3 [] d := by
  unfold regScrub
  dsimp only
  rw [if_pos (by simpa [or_assoc] using h)]

theorem regScrub_found {c : SvcCmd} {d : Dev} (h0 : 0 < le32At c.payload 4) (h : le32At c.payload 4 ≤ 65536)
    (hr : le32At c.payload 0 + le32At c.payload 4 ≤ registrySize) :
    regScrub c d = replyApplied c 0 ((((upTo (le32At c.payload 4)).map (le32At c.payload 0 + ·)).filter fun i => !checkOk (d.regRecord i)).take 200
      |>.map (leBytes 4)).flatten d := by
  unfold regScrub
  dsimp only
  rw [if_neg]
  simp only [Bool.or_eq_true, decide_eq_true_eq]
  omega

/-- The first word of bytes that begin with a number of four bytes. -/
theorem le32At_leBytes (v : Nat) (bs : List Byte) (h : v < 2 ^ 32) : le32At (leBytes 4 v ++ bs) 0 = v := by
  unfold le32At
  rw [List.drop_zero, List.take_append_of_le_length (Nat.le_of_eq (leBytes_length 4 v).symm), List.take_of_length_le (Nat.le_of_eq (leBytes_length 4 v)), leNat_leBytes]
  exact Nat.mod_eq_of_lt h

/-- The second word. -/
theorem le32At_leBytes_next (u v : Nat) (bs : List Byte) (h : v < 2 ^ 32) : le32At (leBytes 4 u ++ (leBytes 4 v ++ bs)) 4 = v := by
  have e := le32At_leBytes v bs h
  unfold le32At at e ⊢
  rw [List.drop_append_of_le_length (Nat.le_of_eq (leBytes_length 4 u).symm), List.drop_of_length_le (Nat.le_of_eq (leBytes_length 4 u))]
  exact e

/-- How many records of the registry a predicate holds of fits a word. -/
theorem countRecords_lt (p : Nat → Bool) : ((upTo registrySize).filter p).length < 2 ^ 32 := by
  have h := List.length_filter_le p (upTo registrySize)
  rw [show (upTo registrySize).length = registrySize from List.length_range] at h
  exact Nat.lt_of_le_of_lt h (by decide)

/-- Settles O39: each read command answers as its own function does on the part that serves it. -/
theorem registryReadCommands : Obligations.RegistryReadCommands := by
  intro s via c
  have hlook : (s.dev.serving c).lookup (c.payload.take 11) = s.dev.lookup (c.payload.take 11) := Dev.serving_lookup c s.dev _
  refine ⟨fun ho h => Completes.answersApplied regLookup rfl ho (regLookup_none (by rw [hlook]; exact h)),
    fun i ho h => Completes.answersApplied regLookup rfl ho (regLookup_some (by rw [hlook]; exact h)),
    fun ho h => Completes.answers regQuery rfl ho (if_pos h), fun ho h => ?_,
    fun ho h0 h7 hb => Completes.answers regQuery rfl ho (regQuery_range h0 (.inr (.inr ⟨h7, hb⟩))),
    fun is next ho h1 h14 hs hb hq => Completes.answersApplied regQuery rfl ho (regQuery_found h1 h14 hs hb ?_),
    fun ho h => Completes.answers regScrub rfl ho (regScrub_range h),
    fun ho h0 h hr => Completes.answersApplied regScrub rfl ho (regScrub_found h0 h hr),
    fun ho => ⟨_, Completes.answersApplied regStats rfl ho rfl, ?_, ?_⟩⟩
  · exact Completes.answers regQuery rfl ho (regQuery_range (by omega) (h.imp_right fun k => .inl k.2))
  · rw [queryScan_of (Dev.serving_vread c s.dev)]
    exact hq
  · rw [List.append_assoc, List.append_assoc]
    exact le32At_leBytes _ _ (countRecords_lt _)
  · rw [List.append_assoc, List.append_assoc]
    exact le32At_leBytes_next _ _ _ (countRecords_lt _)

/-! The journalled commands (R311 to R327). -/

theorem byJournal_ok {ok : SvcCmd → Bool} {c : SvcCmd} {d : Dev} (h : ok c = true) : byJournal ok c d = d.owe (.cmd c) := if_pos h

theorem byJournal_range {ok : SvcCmd → Bool} {c : SvcCmd} {d : Dev} (h : ok c = false) : byJournal ok c d = reply c 3 [] d :=
  if_neg (by rw [h]; decide)

theorem tagWrite_ok {c : SvcCmd} {d : Dev} (h : u8At c.payload 0 < 24) (h1 : u8At c.payload 1 < 8) (h2 : u8At c.payload 2 < 2)
    (h3 : u8At c.payload 3 = 0) : ∃ k, tagWrite c d = d.owe (.intent c k) := by
  unfold tagWrite
  dsimp only
  rw [if_neg]
  · exact ⟨_, rfl⟩
  · simp only [Bool.or_eq_true, decide_eq_true_eq]
    omega

theorem tagWrite_range {c : SvcCmd} {d : Dev} (h : 24 ≤ u8At c.payload 0 ∨ 8 ≤ u8At c.payload 1 ∨ 2 ≤ u8At c.payload 2 ∨ u8At c.payload 3 ≠ 0) :
    tagWrite c d = reply c 3 [] d := by
  unfold tagWrite
  dsimp only
  rw [if_pos (by simpa [or_assoc] using h)]

/-- Settles O40: a command in its ranges owes its record, one outside them answers RANGE. -/
theorem journalledCommandsWait : Obligations.JournalledCommandsWait := by
  intro s via c
  refine ⟨fun ho hk hp => Completes.owes regPut rfl ho (byJournal_ok (Bool.and_eq_true_iff.2 ⟨hk, hp⟩)),
    fun ho h => Completes.answers regPut rfl ho (byJournal_range (Bool.and_eq_false_iff.2 h)),
    fun ho => Completes.owes (byJournal fun _ => true) rfl ho (byJournal_ok rfl), fun ho h => Completes.owes regCompact rfl ho (if_neg (by omega)),
    fun ho h => Completes.answers regCompact rfl ho (if_pos h),
    fun ho h => Completes.owes (byJournal fun c => decide (le16At c.payload 0 ≤ 255)) rfl ho (byJournal_ok (decide_eq_true h)),
    fun ho h => Completes.answers (byJournal fun c => decide (le16At c.payload 0 ≤ 255)) rfl ho (byJournal_range (decide_eq_false (by omega))),
    fun ho h h1 h2 h3 => ?_, fun ho h => Completes.answers tagWrite rfl ho (tagWrite_range h), fun ho h1 h4 hl hf hz ht => ?_⟩
  · obtain ⟨k, hk⟩ := tagWrite_ok (d := s.dev.serving c) h h1 h2 h3
    exact ⟨k, Completes.owes tagWrite rfl ho hk⟩
  · have e := configSet_ok c (s.dev.serving c) ⟨h1, h4, hl, hf, hz, ht⟩
    rw [Dev.serving_forced] at e
    exact ⟨fun h => Completes.owes configSet rfl ho (e.trans (if_neg (by rw [h]; decide))),
      fun h => Completes.answers configSet rfl ho (e.trans (if_pos h))⟩

/-! Residents and arrivals (R304, R323, R328). -/

/-- A part in Run with a Manifest applied and the runtime running. -/
def runningDev : Dev :=
  { Dev.reset with
    power := { PowerSt.reset with step := .up, hold := none },
    boot := { BootSt.reset with phase := .runtime },
    regs := [(DK_STATUS_LOADED.bit, 1)] }

/-- QUEUE_CONSUMER for queue 0, which makes the host side its consumer. -/
def hostConsumes : SvcCmd := ⟨.mailbox, 0x40, 0, [0, 1], true, (0, 0)⟩

/-- A running part to which `hostConsumes` is offered, and whose queue 0 has a threshold beyond its range. -/
def wideThreshDev : Dev :=
  { runningDev with
    regs := [((LQN_CFG_THRESH 0).bit, 600000), (DK_STATUS_LOADED.bit, 1)],
    sv := { SvSt.reset with waiting := [hostConsumes] } }

theorem wideThresh_offers : wideThreshDev.Offers .mailbox 0x40 hostConsumes := by
  unfold Dev.Offers
  decide +kernel

theorem wideThresh_stays : (serve .mailbox 0x40 queueConsumer wideThreshDev.begun).rd (LQN_CFG_CONSUMER 0) = 0 := by
  decide +kernel

theorem wideThresh_idle : (wideThreshDev.q (u8At hostConsumes.payload 0)).mid = false := by
  decide +kernel

theorem queueConsumer_dev {s t : State} {via : Via} (h : exec (.queueConsumer via) s = .next t) :
    t.dev = serve via 0x40 queueConsumer s.dev.begun :=
  act_dev (f := serve via 0x40 queueConsumer) h

/-- Refutes O41: QUEUE_CONSUMER writes LQn_CFG whole, with the other fields as they stand, and where THRESH stands beyond its range, as it may
in a state of the statement, the write is refused and the consumer stays. -/
theorem not_residentServices : ¬ Obligations.ResidentServices := by
  intro h
  obtain ⟨s, hs⟩ : ∃ s : State, s.dev = wideThreshDev := ⟨⟨[], wideThreshDev⟩, rfl⟩
  obtain ⟨-, -, -, -, -, -, -, consumerClause, -⟩ := h s .mailbox hostConsumes
  rw [hs] at consumerClause
  obtain ⟨t, hx, -, hrd, -⟩ := consumerClause wideThresh_offers (by decide) (by decide) wideThresh_idle
  have ht := queueConsumer_dev hx
  rw [hs] at ht
  rw [ht, show u8At hostConsumes.payload 0 = 0 from by decide, wideThresh_stays] at hrd
  exact absurd hrd (by decide)

/-- A running part on whose core 1 a customer program runs. -/
def callingDev : Dev := { runningDev with sv := { SvSt.reset with cores := vmod SvSt.reset.cores 1 fun _ => some 0 } }

theorem calling_runs : callingDev.runtime = true ∧ (vget callingDev.sv.cores (1 : Fin 4).val none).isSome = true ∧ callingDev.sv.waiting = [] ∧
    callingDev.sv.running = [] := by
  decide +kernel

theorem serviceEcall_dev {s t : State} {core : Fin 4} {code : BitVec 16} {addr plen buf size : Word}
    (h : exec (.serviceEcall core code addr plen buf size) s = .next t) :
    t.dev = serviceEcall core code.toNat addr.toNat plen.toNat buf.toNat size.toNat s.dev.begun :=
  act_dev (f := serviceEcall core code.toNat addr.toNat plen.toNat buf.toNat size.toNat) h

/-- Refutes O42: its clause on ECALL takes the operands as natural numbers, of which the registers hold 32 bits, and claims that the command
arrives with the numbers. With a buffer of 2 ^ 32 bytes it arrives with a buffer of none. -/
theorem not_commandsArrive : ¬ Obligations.CommandsArrive := by
  intro h
  obtain ⟨s, hs⟩ : ∃ s : State, s.dev = callingDev := ⟨⟨[], callingDev⟩, rfl⟩
  obtain ⟨hrun, hcore, hwait, hrunning⟩ := calling_runs
  obtain ⟨-, ecallClause, -⟩ := h s
  rw [hs] at ecallClause
  obtain ⟨t, hx, -, hclaim, -⟩ := ecallClause 1 0x20 0 0 0 (2 ^ 32) hrun hcore hwait hrunning (by decide)
  have ht := serviceEcall_dev hx
  rw [hs, serviceEcall_eff 1 _ _ _ _ _ callingDev.begun hrun hcore hwait hrunning (by decide)] at ht
  rw [ht] at hclaim
  have hbuf := congrArg (fun l : List SvcCmd => l.map (·.buf.2)) hclaim
  exact absurd hbuf (by decide)

/-! The journal and the runtime's timers (R313, R315, R325). -/

/-- A command of the mailbox that is answered with no committed record to wait for. -/
theorem replyApplied_mailbox (c : SvcCmd) (rc : Nat) (d : Dev) (hc : d.sv.committed = []) (hv : c.via = .mailbox) :
    (replyApplied c rc [] d).sv.mboxOut = itemHeader 0x51 3 false false 0 :: responseWords c rc [] ∧
    (replyApplied c rc [] d).rd SV_MBOX_STATUS_OUT_READY = 1 ∧ (replyApplied c rc [] d).sv.todo = d.sv.todo ∧
    (replyApplied c rc [] d).sv.waiting = d.sv.waiting ∧ (replyApplied c rc [] d).mem = d.mem := by
  have e : replyApplied c rc [] d = reply c rc [] d := by
    unfold replyApplied
    rw [hc]
    rfl
  rw [e, reply_waiting, reply_empty_mem]
  obtain ⟨-, -, htodo, -, -⟩ := reply_kept c rc [] d
  unfold reply at htodo ⊢
  simp only [hv] at htodo ⊢
  exact ⟨rfl, Dev.rd_raise_same _ _, htodo, trivial, trivial⟩

/-- A command that waits too long for journal space is answered JOURNAL_BUSY (R315). -/
theorem journalWait_answers (d : Dev) (w : Work) (rest : List Work) (c : SvcCmd) (b : Built) (e : Dev) (h : d.mayCommit = true)
    (ht : d.sv.todo = w :: rest) (hc : w.command = some c) (hb : buildWork w (d.modSv fun s => { s with todo := rest }) = (some b, e))
    (hf : d.journalFits (recordLen b.entries) = false) (hcom : d.sv.committed = []) (hv : c.via = .mailbox) (hw : d.sv.waiting = []) :
    (settleServices (journalWaitExpiry d)).sv.mboxOut = itemHeader 0x51 3 false false 0 :: responseWords c 0x13 [] ∧
    (settleServices (journalWaitExpiry d)).rd SV_MBOX_STATUS_OUT_READY = 1 ∧ (settleServices (journalWaitExpiry d)).sv.todo = rest ∧
    (settleServices (journalWaitExpiry d)).mem = d.mem := by
  rw [journalWaitExpiry_eff d w rest c b e h ht hc hb hf]
  have hreach := Dev.reach_after (Changes.refl _ _ d) (within_refl _) (covers_refl _) (d.sv.waitAt.getD d.ns + 50000000)
  have hsv : (d.reach (d.sv.waitAt.getD d.ns + 50000000)).sv = d.sv := hreach.parts .sv (by decide)
  have hmem : (d.reach (d.sv.waitAt.getD d.ns + 50000000)).mem = d.mem := hreach.parts .mem (by decide)
  generalize d.reach (d.sv.waitAt.getD d.ns + 50000000) = x at hsv hmem
  obtain ⟨hout, hready, htodo, hwait, hmem'⟩ := replyApplied_mailbox c 0x13 (x.modSv fun s => { s with todo := rest, waitAt := none })
    (by rw [← hsv] at hcom; exact hcom) hv
  rw [settleServices_empty _ (hwait.trans (by rw [← hsv] at hw; exact hw))]
  exact ⟨hout, hready, htodo, hmem'.trans hmem⟩

theorem elapse_time (d : Dev) (n : Nat) : (d.elapse n).time = d.time + n * d.rd TC_INC_INC := by
  unfold Dev.elapse
  dsimp only
  split <;> rfl

theorem begun_coalesceMs (d : Dev) : d.begun.coalesceMs = d.coalesceMs := by
  unfold Dev.coalesceMs Dev.serviceRecord Dev.forced Dev.storedRecord Dev.manifestRecord
  rfl

theorem begun_reach_time (d : Dev) (k : Nat) :
    (d.begun.reach (stampNs (((d.begun.regRecord k).drop 0x20).take 12) + d.begun.coalesceMs * 1000000)).time =
      (d.reach (stampNs (((d.regRecord k).drop 0x20).take 12) + d.coalesceMs * 1000000)).time := by
  rw [begun_coalesceMs, Dev.reach, Dev.reach, elapse_time, elapse_time]
  rfl

/-- Settles O43: the journal's commit, its wait and its applier, then the timers. -/
theorem journalAndTimers : Obligations.JournalAndTimers := by
  intro s
  have hfits : ∀ n, s.dev.begun.journalFits n = s.dev.journalFits n := fun n => Dev.out_fits s.dev [] n
  refine ⟨fun w rest b e hm ht hb => ⟨fun hf hj => Completes.effect (fun d => settleServices (journalCommit d)) rfl
      ((journalCommit_eff s.dev.begun w rest b e hm ht hb ((hfits _).trans hf)).1 hj), fun c hc hf hcom hv hw =>
      Completes.effect (fun d => settleServices (journalWaitExpiry d)) rfl
        (journalWait_answers s.dev.begun w rest c b e hm ht hc hb ((hfits _).trans hf) hcom hv hw)⟩,
    fun r rest hr hf hc hp hre => Completes.effect (fun d => settleServices (journalApply d)) rfl ?_,
    fun hr => ⟨fun k x rest hh => Completes.effect _ rfl ?_, fun k hk r hrec h1 h2 h3 => Completes.effect _ rfl ?_,
      fun h hx => Completes.effect _ rfl ((saves_owe s.dev.begun hr).2.1 h hx), fun h hx => Completes.effect _ rfl ((saves_owe s.dev.begun hr).1 h hx),
      fun k h => Completes.effect _ rfl ((saves_owe s.dev.begun hr).2.2.1 k.val h), fun h => Completes.effect _ rfl ((saves_owe s.dev.begun hr).2.2.2 h)⟩⟩
  · obtain ⟨hseq, hcom, -, hmem⟩ := journalApply_settled s.dev.begun r rest hr hf hc
    exact ⟨hseq, hcom hp, hmem hre⟩
  · rw [coalesceTimer_eff s.dev.begun _ k x rest hr hh rfl]
    have hreach := Dev.reach_after (Changes.refl _ _ s.dev.begun) (within_refl _) (covers_refl _)
      (stampNs (((s.dev.begun.regRecord k).drop 0x20).take 12) + s.dev.begun.coalesceMs * 1000000)
    refine ⟨?_, hreach.parts .mem (by decide), begun_reach_time s.dev k⟩
    dsimp only
    rw [show (s.dev.begun.reach _).sv = s.dev.sv from hreach.parts .sv (by decide)]
  · subst hrec
    obtain ⟨hv, hheld, hmem, -, ha⟩ := absenceTimeout_eff k s.dev.begun hr hk h1 h2 (by
      rw [show s.dev.begun.policy = s.dev.policy from Dev.out_policy s.dev []]
      exact h3)
    exact ⟨hv, hheld, hmem, ha⟩

end Sys2Proof.Machine
end

section
/-!
The Tideclock (14_tideclock.md): measured offsets and steps, and events of time.
-/

namespace Sys2Proof.Machine

/-! Offsets (R337 to R340). -/

theorem offset_inside {x l : Int} (h1 : x ≤ l) (h2 : -l ≤ x) : ¬ (decide (l < x) || decide (x < -l)) = true := by
  simp only [Bool.or_eq_true, decide_eq_true_eq]
  omega

/-- An offset within the limit goes to the servo, and holdover ends. -/
theorem judge_takes (x : Int) (d : Dev) (h : d.on TC_STATUS_SET = true ∨ 0 ≤ x) (h1 : x ≤ ((d.rd TC_JUMP_LIMIT_LIMIT * 65536 : Nat) : Int))
    (h2 : -((d.rd TC_JUMP_LIMIT_LIMIT * 65536 : Nat) : Int) ≤ x) :
    judge x d = leaveHoldover (((servo x (lastOffset x 1 d)).lower TC_STATUS_REFUSED_PENDING).modTc fun t => { t with held := none }) := by
  have hset : (!d.on TC_STATUS_SET && decide (x < 0)) = false := by
    rcases h with h | h
    · rw [h]; rfl
    · rw [decide_eq_false (by omega), Bool.and_false]
  unfold judge
  dsimp only
  rw [if_neg (by rw [hset]; decide), if_neg (offset_inside h1 h2)]

theorem leaveHoldover_clears (d : Dev) : (leaveHoldover d).rd TC_STATUS_HOLDOVER = 0 := by
  unfold leaveHoldover
  split
  · exact ((timeEvent_after (Changes.refl _ _ _) (within_refl _) (covers_refl _) 4 0).rd (rows_not (by decide))).trans (Dev.rd_lower_same _ _)
  · rename_i h
    simpa [Dev.on] using h

theorem servo_lastAt (x : Int) (d : Dev) : (servo x d).tc.lastAt = d.time := by
  unfold servo
  dsimp only
  repeat' split
  all_goals rfl

theorem judge_servoed (x : Int) (d : Dev) (h : d.on TC_STATUS_SET = true ∨ 0 ≤ x) (h1 : x ≤ ((d.rd TC_JUMP_LIMIT_LIMIT * 65536 : Nat) : Int))
    (h2 : -((d.rd TC_JUMP_LIMIT_LIMIT * 65536 : Nat) : Int) ≤ x) :
    (judge x d).rd TC_STATUS_HOLDOVER = 0 ∧ (judge x d).tc.lastAt = d.time := by
  rw [judge_takes x d h h1 h2]
  refine ⟨leaveHoldover_clears _, ?_⟩
  exact (congrArg TcSt.lastAt (leaveHoldover_told _)).trans (servo_lastAt x (lastOffset x 1 d))

theorem judge_mem (x : Int) (d : Dev) : (judge x d).mem = d.mem :=
  (judge_after (Changes.refl _ _ _) (within_refl _) (covers_refl _) x).parts .mem (by decide)

/-! Steps and holdover (R341, R342). -/

/-- An operation of the clock over an open path completes with what it does to the part as the access finds it. -/
theorem Completes.ofClock {i : Instr} {s : State} {p : Path} {P : Dev → Prop} (f : Dev → Dev) (h : exec i s = s.act (onPort 0x4000 p f))
    (hr : s.dev.reaches p 0x4000 = true) (k : P (f (s.dev.accessed p))) : Completes i s P :=
  Completes.ofPort f h hr k

theorem applyStep_mem (x : Int) (c : Nat) (d : Dev) : (applyStep x c d).mem = d.mem :=
  (applyStep_after (Changes.refl _ _ _) (within_refl _) (covers_refl _) x c).parts .mem (by decide)

theorem tcEnd_mem (c : Nat) (d : Dev) : (tcEnd c d).mem = d.mem := rfl

/-- STEP with a time that stands in range, and forward or allowed (R341). -/
theorem tcStep_done (d : Dev) {x : Int} (hx : x = toSigned 64 (d.rd TC_STEP_NS) * 2 ^ 40) (h0 : x ≠ 0) (ht : 0 ≤ (d.time : Int) + x)
    (hb : 0 < x ∨ d.on TC_CFG_ALLOW_BACK = true) : tcStep d = tcEnd cDONE (applyStep x 2 d) := by
  have back : ¬ (decide (x < 0) && !d.on TC_CFG_ALLOW_BACK) = true := by
    rcases hb with h | h
    · rw [decide_eq_false (by omega)]; simp
    · rw [h]; simp
  unfold tcStep
  dsimp only
  rw [← hx, if_neg h0, if_neg (by omega), if_neg back]

theorem tcStep_empty (d : Dev) {x : Int} (hx : x = toSigned 64 (d.rd TC_STEP_NS) * 2 ^ 40) (h0 : x = 0) : tcStep d = tcEnd cEMPTY d := by
  unfold tcStep
  dsimp only
  rw [← hx, if_pos h0]

theorem tcStep_back (d : Dev) {x : Int} (hx : x = toSigned 64 (d.rd TC_STEP_NS) * 2 ^ 40) (h0 : x < 0) (ht : 0 ≤ (d.time : Int) + x)
    (hb : d.on TC_CFG_ALLOW_BACK = false) : tcStep d = tcEnd cREFUSED d := by
  unfold tcStep
  dsimp only
  rw [← hx, if_neg (by omega), if_neg (by omega), if_pos (by rw [hb, decide_eq_true h0]; rfl)]

theorem step_rows (s : State) (p : Path) (hr : s.dev.reaches p 0x4000 = true) (x : Int) (hx : x = toSigned 64 (s.dev.rd TC_STEP_NS) * 2 ^ 40) :
    (x ≠ 0 → 0 ≤ (s.dev.time : Int) + x → 0 < x ∨ s.dev.on TC_CFG_ALLOW_BACK = true → Completes (.step p) s fun d =>
      (d.time : Int) = s.dev.time + x ∧ d.rd TC_STATUS_SET = 1 ∧ d.rd TC_STATUS_STEPPED = 1 ∧ d.rd TC_CMD_STATUS_CODE = cDONE ∧ d.mem = s.dev.mem) ∧
    (x = 0 → Completes (.step p) s fun d => d.time = s.dev.time ∧ d.rd TC_CMD_STATUS_CODE = cEMPTY ∧ d.mem = s.dev.mem) ∧
    (x < 0 → 0 ≤ (s.dev.time : Int) + x → s.dev.on TC_CFG_ALLOW_BACK = false → Completes (.step p) s fun d =>
      d.time = s.dev.time ∧ d.rd TC_CMD_STATUS_CODE = cREFUSED ∧ d.mem = s.dev.mem) := by
  have hx' : x = toSigned 64 ((s.dev.accessed p).rd TC_STEP_NS) * 2 ^ 40 := by rw [accessed_rd]; exact hx
  have htime := accessed_time s.dev p
  have hmem := Dev.accessed_mem s.dev p
  refine ⟨fun h0 ht hb => Completes.ofClock _ rfl hr ?_, fun h0 => Completes.ofClock _ rfl hr ?_, fun h0 ht hb => Completes.ofClock _ rfl hr ?_⟩
  · rw [tcStep_done _ hx' h0 (by rw [htime]; exact ht) (by rw [accessed_on]; exact hb)]
    obtain ⟨hto, hset, hstepped⟩ := applyStep_eff x 2 (s.dev.accessed p)
    refine ⟨?_, (tcEnd_rd _ _ (by decide)).trans hset, (tcEnd_rd _ _ (by decide)).trans hstepped, tcEnd_code _ _,
      (tcEnd_mem _ _).trans ((applyStep_mem _ _ _).trans hmem)⟩
    rw [tcEnd_time, hto, htime]
    exact Int.toNat_of_nonneg ht
  · rw [tcStep_empty _ hx' h0]
    exact ⟨htime, tcEnd_code _ _, hmem⟩
  · rw [tcStep_back _ hx' h0 (by rw [htime]; exact ht) (by rw [accessed_on]; exact hb)]
    exact ⟨htime, tcEnd_code _ _, hmem⟩

/-- Holdover begins with the rate of the integrator (R342). -/
theorem enterHoldover_begins (d : Dev) (h : d.rd TC_CFG_SRC ≠ 0) (hh : d.on TC_STATUS_HOLDOVER = false) :
    (enterHoldover d).rd TC_STATUS_HOLDOVER = 1 ∧ (enterHoldover d).rd TC_STATUS_HOLD_SEEN = 1 ∧
    (enterHoldover d).rd TC_RATE_VALUE = ofSigned 32 d.integ ∧ (enterHoldover d).mem = d.mem := by
  have hrate : (setRate d.integ d).rd TC_RATE_VALUE = ofSigned 32 d.integ :=
    (Dev.rd_wr_ne _ _ (by decide)).trans ((Dev.rd_wr_same d TC_RATE_VALUE _).trans (ofSigned_mod 32 _))
  have hev : ∀ (y : Dev) {f : Fld}, ¬ Rows [.row 0x5014 2 0x800 6, .row 0x5014 2 0x800 24, .row 0x2100c 32 0x40 3, .row 0x2100c 32 0x40 4,
      .row 0x2100c 32 0x40 5, .row 0x21024 32 0x40 0] f.bit → (timeEvent 3 0 y).rd f = y.rd f :=
    fun y f hf => (timeEvent_after (Changes.refl _ _ y) (within_refl _) (covers_refl _) 3 0).rd hf
  have e : enterHoldover d = timeEvent 3 0 (((((setRate d.integ d).raise TC_STATUS_HOLDOVER).raise TC_STATUS_HOLD_SEEN).countSat
      TC_COUNTS_HOLDS 1).modTc fun t => { t with fresh := true }) := by
    unfold enterHoldover
    rw [if_neg (by simp [h, hh])]
  have hmem : (setRate d.integ d).mem = d.mem := rfl
  rw [e]
  generalize setRate d.integ d = y at hrate hmem
  refine ⟨(hev _ (rows_not (by decide))).trans ?_, (hev _ (rows_not (by decide))).trans ?_, (hev _ (rows_not (by decide))).trans ?_, ?_⟩
  · rw [modTc_rd, Dev.rd_countSat_ne _ _ (by decide), Dev.rd_raise_ne _ (by decide)]
    exact Dev.rd_raise_same _ _
  · rw [modTc_rd, Dev.rd_countSat_ne _ _ (by decide)]
    exact Dev.rd_raise_same _ _
  · rw [modTc_rd, Dev.rd_countSat_ne _ _ (by decide), Dev.rd_raise_ne _ (by decide), Dev.rd_raise_ne _ (by decide), hrate]
  · exact ((timeEvent_after (Changes.refl _ _ _) (within_refl _) (covers_refl _) 3 0).parts .mem (by decide)).trans hmem

theorem tcHold_holds (d : Dev) (h : d.rd TC_CFG_SRC ≠ 0) : tcHold d = tcEnd cDONE (enterHoldover d) := if_neg h

theorem tcHold_refused (d : Dev) (h : d.rd TC_CFG_SRC = 0) : tcHold d = tcEnd cREFUSED d := if_pos h

theorem accessed_integ (d : Dev) (p : Path) : (d.accessed p).integ = d.integ := by
  rw [Dev.integ, accessed_rd]
  rfl

theorem tcAcceptStep_later (x : Int) (d : Dev) (h : d.tc.held = some x) (hx : 0 < x) : tcAcceptStep d = tcEnd cREFUSED d := by
  unfold tcAcceptStep
  rw [h]
  exact if_pos hx

theorem tcAcceptStep_none (d : Dev) (h : d.tc.held = none) : tcAcceptStep d = tcEnd cEMPTY d := by
  unfold tcAcceptStep
  rw [h]

theorem offset_rows (s : State) (p : Path) (hr : s.dev.reaches p 0x4000 = true) (w : Word) (x lim : Int) (hs : s.dev.rd TC_CFG_SRC = 1)
    (hx : x = toSigned 64 (join64 (s.dev.staged p 0x4040 0) w.toNat)) (hl : lim = (s.dev.rd TC_JUMP_LIMIT_LIMIT * 65536 : Nat)) :
    (s.dev.on TC_STATUS_SET = false → x < 0 → Completes (.offsetDelivered p w) s fun d =>
      (d.time : Int) = s.dev.time - x * 2 ^ 24 ∧ d.rd TC_STATUS_SET = 1 ∧ d.rd TC_STATUS_STEPPED = 1 ∧ d.rd TC_LAST_OFFSET_VERDICT = 3 ∧
      d.mem = s.dev.mem) ∧
    ((s.dev.on TC_STATUS_SET = true ∨ 0 ≤ x) → x ≤ lim → -lim ≤ x → Completes (.offsetDelivered p w) s fun d =>
      d.time = s.dev.time ∧ d.tc.held = none ∧ d.rd TC_LAST_OFFSET_VERDICT = 1 ∧ d.rd TC_STATUS_REFUSED_PENDING = 0 ∧
      d.rd TC_STATUS_HOLDOVER = 0 ∧ d.tc.lastAt = s.dev.time ∧ d.mem = s.dev.mem) := by
  subst hx
  subst hl
  have hset : ((s.dev.accessed p).unstage p).on TC_STATUS_SET = s.dev.on TC_STATUS_SET := accessed_on _ _ _
  have hlim : ((s.dev.accessed p).unstage p).rd TC_JUMP_LIMIT_LIMIT = s.dev.rd TC_JUMP_LIMIT_LIMIT := accessed_rd _ _ _
  have htime : ((s.dev.accessed p).unstage p).time = s.dev.time := accessed_time _ _
  have hmem : ((s.dev.accessed p).unstage p).mem = s.dev.mem := Dev.accessed_mem _ _
  refine ⟨fun h hx => offset_row s p w hr hs _ ?_, fun h h1 h2 => offset_row s p w hr hs _ ?_⟩ <;>
    generalize (s.dev.accessed p).unstage p = y at hset hlim htime hmem
  · obtain ⟨hto, hs1, hst, hv⟩ := judge_acquired _ y (hset.trans h) hx
    rw [htime] at hto
    exact ⟨hto, hs1, hst, hv, (judge_mem _ _).trans hmem⟩
  · rw [← hset] at h
    rw [← hlim] at h1 h2
    obtain ⟨hto, hheld, hv, hpend, hm⟩ := judge_accepted _ y h h1 h2
    obtain ⟨hhold, hat⟩ := judge_servoed _ y h h1 h2
    exact ⟨hto.trans htime, hheld, hv, hpend, hhold, hat.trans htime, hm.trans hmem⟩

/-- Settles O44: an offset by its size, STEP and the held step by their sign, holdover, the source and the master. -/
theorem offsetsAndSteps : Obligations.OffsetsAndSteps := by
  intro s p hr
  refine ⟨fun w x lim hs hx hl => ⟨(offset_rows s p hr w x lim hs hx hl).1, (offset_cases s p w hr hs x hx lim hl).2.1,
      (offset_rows s p hr w x lim hs hx hl).2⟩, fun x hx => step_rows s p hr x hx, fun x h hx => acceptStep_row s p x hr h hx,
    fun x h hx => Completes.ofClock _ rfl hr ?_, fun h => Completes.ofClock _ rfl hr ?_, fun h hh => Completes.ofClock _ rfl hr ?_,
    fun h => Completes.ofClock _ rfl hr ?_, fun w h hn => srcWrite_row s p w hr h hn, fun w h => Completes.ofClock _ rfl hr ?_,
    fun w v hv hn => masterChange_row s p w hr v hv hn⟩
  · rw [tcAcceptStep_later x _ (by rw [accessed_tc]; exact h) hx]
    exact ⟨accessed_time _ _, by rw [tcEnd_tc, accessed_tc]; exact h, tcEnd_code _ _, Dev.accessed_mem _ _⟩
  · rw [tcAcceptStep_none _ (by rw [accessed_tc]; exact h)]
    exact ⟨accessed_time _ _, tcEnd_code _ _, Dev.accessed_mem _ _⟩
  · have hsrc : (s.dev.accessed p).rd TC_CFG_SRC ≠ 0 := by rw [accessed_rd]; exact h
    have hoff : (s.dev.accessed p).on TC_STATUS_HOLDOVER = false := by rw [accessed_on]; exact hh
    obtain ⟨hhold, hseen, hrate, hmem⟩ := enterHoldover_begins _ hsrc hoff
    rw [tcHold_holds _ hsrc]
    rw [accessed_integ] at hrate
    exact ⟨(tcEnd_rd _ _ (by decide)).trans hhold, (tcEnd_rd _ _ (by decide)).trans hseen, (tcEnd_rd _ _ (by decide)).trans hrate, tcEnd_code _ _,
      (tcEnd_mem _ _).trans (hmem.trans (Dev.accessed_mem _ _))⟩
  · rw [tcHold_refused _ (by rw [accessed_rd]; exact h)]
    exact ⟨tcEnd_code _ _, Dev.accessed_mem _ _⟩
  · have e : srcWrite p w (s.dev.accessed p) = (s.dev.accessed p).errRange p 0x4020 := if_pos h
    have hch := Dev.errRange_changes (s.dev.accessed p) p 0x4020
    rw [e]
    exact ⟨(hch.rd (rows_not (by decide))).trans (accessed_rd _ _ _), Dev.errRange_flag _ _ _,
      (hch.parts .mem (by decide)).trans (Dev.accessed_mem _ _)⟩

/-! Timed pulses and captures (R350 to R353). -/

theorem pulseArm_far (k : Nat) (d : Dev) (hw : d.rd (TC_PULSE_WIDTH_NS k) ≠ 0) (hp : d.rd (TC_PULSE_PERIOD_NS k) = 0)
    (h : d.time + 1000 * 2 ^ 40 ≤ d.pulseStart k * 2 ^ 40) :
    pulseArm k d = ((d.wr (TC_PULSE_STAT_CODE k) cDONE).raise (TC_PULSE_STAT_ACTIVE k)).modPulse k fun p => { p with edge := 0 } := by
  unfold pulseArm
  dsimp only
  rw [if_neg hw, if_neg (by rw [hp]; simp), if_neg (by rw [decide_eq_false (Nat.not_lt.2 h), Bool.and_false]; decide), if_neg (by omega)]

theorem pulseArm_late (k : Nat) (d : Dev) (hw : d.rd (TC_PULSE_WIDTH_NS k) ≠ 0) (hp : d.rd (TC_PULSE_PERIOD_NS k) = 0)
    (h : d.pulseStart k * 2 ^ 40 < d.time + 1000 * 2 ^ 40) : pulseArm k d = d.wr (TC_PULSE_STAT_CODE k) 0x10 := by
  unfold pulseArm
  dsimp only
  rw [if_neg hw, if_neg (by rw [hp]; simp), if_pos (by rw [hp, decide_eq_true h]; rfl)]

theorem pulseArm_short (k : Nat) (d : Dev) (hw : d.rd (TC_PULSE_WIDTH_NS k) ≠ 0) (hp : 0 < d.rd (TC_PULSE_PERIOD_NS k))
    (h : d.rd (TC_PULSE_PERIOD_NS k) < d.rd (TC_PULSE_WIDTH_NS k) + 5) : pulseArm k d = d.wr (TC_PULSE_STAT_CODE k) cRANGE := by
  unfold pulseArm
  dsimp only
  rw [if_neg hw, if_pos (by rw [decide_eq_true hp, decide_eq_true h]; rfl)]

theorem bit_or31_low (w : Word) : bit (w ||| 0x80000000#32).toNat 30 = bit w.toNat 30 := by
  rw [bit_testBit, bit_testBit, BitVec.toNat_or, Nat.testBit_or]
  rw [show (0x80000000#32).toNat.testBit 30 = false from by decide, Bool.or_false]

theorem bit_or30_high (w : Word) : bit (w ||| 0x40000000#32).toNat 31 = bit w.toNat 31 := by
  rw [bit_testBit, bit_testBit, BitVec.toNat_or, Nat.testBit_or]
  rw [show (0x40000000#32).toNat.testBit 31 = false from by decide, Bool.or_false]

theorem bits_or30_pol (w : Word) : bits (w ||| 0x40000000#32).toNat 0 0 = bits w.toNat 0 0 := by
  unfold bits
  rw [BitVec.toNat_or, Nat.or_div_two_pow, Nat.or_mod_two_pow]
  exact Nat.or_zero _

theorem modPulse_rd (k : Nat) (g : PulseSt → PulseSt) (d : Dev) (f : Fld) : (d.modPulse k g).rd f = d.rd f := rfl

theorem rd_of_off {d : Dev} {f : Fld} (h : d.on f = false) : d.rd f = 0 := by
  simpa [Dev.on] using h

/-- What the polarity that TC_PULSE_CTL stores leaves alone. -/
theorem polarised (k : Fin 4) (x : Nat) (d : Dev) :
    (d.wr (TC_PULSE_CTL_POL k.val) x).rd (TC_PULSE_WIDTH_NS k.val) = d.rd (TC_PULSE_WIDTH_NS k.val) ∧
    (d.wr (TC_PULSE_CTL_POL k.val) x).rd (TC_PULSE_PERIOD_NS k.val) = d.rd (TC_PULSE_PERIOD_NS k.val) ∧
    (d.wr (TC_PULSE_CTL_POL k.val) x).rd (TC_PULSE_STAT_ACTIVE k.val) = d.rd (TC_PULSE_STAT_ACTIVE k.val) ∧
    (d.wr (TC_PULSE_CTL_POL k.val) x).pulseStart k.val = d.pulseStart k.val := by
  have n : ∀ f : Fld, f.bit ≠ (TC_PULSE_CTL_POL k.val).bit → (d.wr (TC_PULSE_CTL_POL k.val) x).rd f = d.rd f := fun f hf => Dev.rd_wr_ne d x hf
  refine ⟨n _ (by apply every_index _ k; decide), n _ (by apply every_index _ k; decide), n _ (by apply every_index _ k; decide), ?_⟩
  unfold Dev.pulseStart
  rw [n (TC_PULSE_START_SEC_LO_SEC k.val) (by apply every_index _ k; decide), n (TC_PULSE_START_SEC_HI_SEC k.val) (by apply every_index _ k; decide),
    n (TC_PULSE_START_NS_NS k.val) (by apply every_index _ k; decide)]

/-- PULSE_ARM acts on the part with its polarity stored. -/
theorem Completes.ofPulseArm {s : State} {p : Path} {k : Fin 4} {w : Word} {P : Dev → Prop} (hr : s.dev.reaches p 0x4000 = true)
    (ha : s.dev.on (TC_PULSE_STAT_ACTIVE k.val) = false) (h0 : bit w.toNat 30 = false)
    (h : P (pulseArm k.val ((s.dev.accessed p).wr (TC_PULSE_CTL_POL k.val) (bits (w ||| 0x80000000#32).toNat 0 0)))) :
    Completes (.pulseArm p k w) s P := by
  refine Completes.ofClock _ rfl hr ?_
  rw [pulseCtl_arm p k _ _ (bit_or31 w) ((bit_or31_low w).trans h0) (fun h => by rw [accessed_on, ha] at h; exact absurd h (by decide))]
  exact h

theorem pulseArm_rows (s : State) (p : Path) (k : Fin 4) (w : Word) (hr : s.dev.reaches p 0x4000 = true)
    (ha : s.dev.on (TC_PULSE_STAT_ACTIVE k.val) = false) (h0 : bit w.toNat 30 = false) (hw : s.dev.rd (TC_PULSE_WIDTH_NS k.val) ≠ 0) :
    (s.dev.rd (TC_PULSE_PERIOD_NS k.val) = 0 → s.dev.time + 1000 * 2 ^ 40 ≤ s.dev.pulseStart k.val * 2 ^ 40 → Completes (.pulseArm p k w) s fun d =>
      d.rd (TC_PULSE_STAT_ACTIVE k.val) = 1 ∧ d.rd (TC_PULSE_STAT_CODE k.val) = cDONE ∧ (d.pulse k.val).edge = 0 ∧ d.mem = s.dev.mem) ∧
    (s.dev.rd (TC_PULSE_PERIOD_NS k.val) = 0 → s.dev.pulseStart k.val * 2 ^ 40 < s.dev.time + 1000 * 2 ^ 40 → Completes (.pulseArm p k w) s fun d =>
      d.rd (TC_PULSE_STAT_ACTIVE k.val) = 0 ∧ d.rd (TC_PULSE_STAT_CODE k.val) = 0x10 ∧ d.mem = s.dev.mem) ∧
    (s.dev.rd (TC_PULSE_WIDTH_NS k.val) + 5 ≤ s.dev.rd (TC_PULSE_PERIOD_NS k.val) → Completes (.pulseArm p k w) s fun d =>
      d.rd (TC_PULSE_STAT_ACTIVE k.val) = 1 ∧ d.rd (TC_PULSE_STAT_CODE k.val) = cDONE ∧ d.mem = s.dev.mem) ∧
    (0 < s.dev.rd (TC_PULSE_PERIOD_NS k.val) → s.dev.rd (TC_PULSE_PERIOD_NS k.val) < s.dev.rd (TC_PULSE_WIDTH_NS k.val) + 5 →
      Completes (.pulseArm p k w) s fun d =>
        d.rd (TC_PULSE_STAT_ACTIVE k.val) = 0 ∧ d.rd (TC_PULSE_STAT_CODE k.val) = cRANGE ∧ d.mem = s.dev.mem) := by
  obtain ⟨hwidth, hperiod, hactive, hstart⟩ := polarised k (bits (w ||| 0x80000000#32).toNat 0 0) (s.dev.accessed p)
  rw [accessed_rd] at hwidth hperiod hactive
  rw [accessed_pulseStart] at hstart
  rw [rd_of_off ha] at hactive
  have htime : ((s.dev.accessed p).wr (TC_PULSE_CTL_POL k.val) (bits (w ||| 0x80000000#32).toNat 0 0)).time = s.dev.time := accessed_time _ _
  have hmem : ((s.dev.accessed p).wr (TC_PULSE_CTL_POL k.val) (bits (w ||| 0x80000000#32).toNat 0 0)).mem = s.dev.mem := Dev.accessed_mem _ _
  refine ⟨fun hp h => Completes.ofPulseArm hr ha h0 ?_, fun hp h => Completes.ofPulseArm hr ha h0 ?_, fun h => Completes.ofPulseArm hr ha h0 ?_,
    fun hp h => Completes.ofPulseArm hr ha h0 ?_⟩ <;>
    generalize (s.dev.accessed p).wr (TC_PULSE_CTL_POL k.val) (bits (w ||| 0x80000000#32).toNat 0 0) = y at hwidth hperiod hactive hstart htime hmem
  · rw [pulseArm_far k.val y (by rw [hwidth]; exact hw) (by rw [hperiod]; exact hp) (by rw [htime, hstart]; exact h)]
    refine ⟨(modPulse_rd _ _ _ _).trans (Dev.rd_raise_same _ _), (modPulse_rd _ _ _ _).trans ?_, congrArg PulseSt.edge (pulse_modPulse k _ _), hmem⟩
    exact (Dev.rd_raise_ne _ (by apply every_index _ k; decide)).trans (Dev.rd_wr_same _ _ _)
  · rw [pulseArm_late k.val y (by rw [hwidth]; exact hw) (by rw [hperiod]; exact hp) (by rw [htime, hstart]; exact h)]
    exact ⟨(Dev.rd_wr_ne _ _ (by apply every_index _ k; decide)).trans hactive, Dev.rd_wr_same _ _ _, hmem⟩
  · obtain ⟨hcode, hact, hm⟩ := pulseArm_eff k y (by rw [hwidth]; exact hw) (.inr (by rw [hwidth, hperiod]; exact h))
    exact ⟨hact, hcode, hm.trans hmem⟩
  · rw [pulseArm_short k.val y (by rw [hwidth]; exact hw) (by rw [hperiod]; exact hp) (by rw [hwidth, hperiod]; exact h)]
    exact ⟨(Dev.rd_wr_ne _ _ (by apply every_index _ k; decide)).trans hactive, Dev.rd_wr_same _ _ _, hmem⟩

theorem pulseEdge_active (k : Fin 4) (d : Dev) (hs : d.power.step ≠ .off) (ha : d.on (TC_PULSE_STAT_ACTIVE k.val) = true) :
    (pulseEdge k.val d).rd (TC_PULSE_STAT_ACTIVE k.val) =
      if d.rd (TC_PULSE_PERIOD_NS k.val) = 0 then 0 else d.rd (TC_PULSE_STAT_ACTIVE k.val) := by
  unfold pulseEdge
  rw [if_neg (by rw [decide_eq_false hs, ha]; decide)]
  dsimp only
  split
  · exact Dev.rd_lower_same _ _
  · exact reach_rdw d _ (rows_not (by apply every_index _ k; decide))

theorem captureEdge_lost (k : Fin 4) (up : Bool) (d : Dev) (hs : d.power.step ≠ .off) (he : d.on (TC_CAP_CFG_EN k.val) = true)
    (hb : bit (d.rd (TC_CAP_CFG_EDGE k.val)) (if up then 0 else 1) = true) (hq : (d.cap k.val).quietUntil ≤ d.time)
    (hl : 4 ≤ (d.cap k.val).buf.length) :
    ((captureEdge k up d).cap k.val).buf = (d.cap k.val).buf ∧ (captureEdge k up d).rd TC_STATUS_CAP_LOST = 1 ∧ (captureEdge k up d).mem = d.mem := by
  have e : captureEdge k up d = fireWake (.tcap k) ((d.countSat (TC_CAP_STAT_LOST k.val) 1).raise TC_STATUS_CAP_LOST) := by
    unfold captureEdge
    dsimp only
    rw [if_neg (by rw [decide_eq_false hs, he, hb, decide_eq_false (Nat.not_lt.2 hq)]; decide), if_pos hl]
  have hch := fireWake_after (Changes.refl _ _ ((d.countSat (TC_CAP_STAT_LOST k.val) 1).raise TC_STATUS_CAP_LOST)) (within_refl _) (covers_refl _) (.tcap k)
  rw [e]
  refine ⟨?_, (hch.rd (rows_not (by decide))).trans (Dev.rd_raise_same _ _), hch.parts .mem (by decide)⟩
  unfold Dev.cap
  rw [hch.parts .tc (by decide)]
  rfl

/-- Settles O45: the time frames of links, then pulses, alarm and captures, then PULSE_CTL. -/
theorem timeEventsHappen : Obligations.TimeEventsHappen := by
  intro s
  refine ⟨fun ha => ⟨(timeFrames_rows s ha).1, (timeFrames_rows s ha).2, fun p hs hv hu => beacon_rows s ha p hs hv hu⟩,
    fun hs => ⟨fun h hh => Completes.effect _ rfl (beaconTimeout_eff s.dev.begun hs h hh),
      fun ht hw he hc hk => Completes.effect _ rfl (tcAlarm_eff s.dev.begun hs ht hw he hc hk), fun k => ⟨fun ha => Completes.effect _ rfl ?_,
        fun h => Completes.effect _ rfl (pulseEnd_eff k s.dev.begun hs h), fun up he hb hq => ⟨fun hl =>
          Completes.effect _ rfl (captureEdge_eff k up s.dev.begun hs he hb hq hl), fun hl =>
          Completes.effect _ rfl (captureEdge_lost k up s.dev.begun hs he hb hq hl)⟩, fun x rest h hb =>
          Completes.effect _ rfl (captureItem_eff k s.dev.begun x rest h hb)⟩⟩,
    fun p k w hr => ⟨fun ha h1 h0 width period start hwi hpe hst hw => ?_, fun h1 hp h0 => ?_⟩⟩
  · obtain ⟨hpulse, hmem⟩ := pulseEdge_eff k s.dev.begun hs ha
    exact ⟨_, rfl, hpulse, pulseEdge_active k s.dev.begun hs ha, hmem⟩
  · subst hwi
    subst hpe
    subst hst
    exact pulseArm_rows s p k w hr ha h0 hw
  · exact pulseStop_row s p k w hr ((bit_or30_high w).trans h1) (by rw [bits_or30_pol]; exact hp)

end Sys2Proof.Machine
end

section
/-!
The Hawser fabric (15_hawser_fabric.md): links, discovery and routing, packets.
-/

namespace Sys2Proof.Machine

/-! A port in EXCHANGE and a reply that cannot be sent (R360, R378). -/

/-- A running part whose port 0 is in EXCHANGE, and which owes the reply of a remote access to a device that it knows no way to. -/
def replyingDev : Dev :=
  { runningDev with
    regs := [((HSP_STATUS_LINK 0).bit, 4), (DK_STATUS_LOADED.bit, 1)],
    hs := { HsSt.reset with reply := some (0, [], 0) } }

theorem replying_exchanges : replyingDev.coreRuns = true ∧ replyingDev.power.linkDue = false ∧ replyingDev.link (0 : Fin 4).val = lEXCHANGE := by
  decide +kernel

theorem replying_counts : (linkReset (linkFrameSend (0 : Fin 4).val (sendSurveys (regFinish replyingDev.begun)))).rd HS_STATS_NO_ROUTE = 1 := by
  decide +kernel

theorem replying_counted : replyingDev.rd HS_STATS_NO_ROUTE = 0 := by
  decide +kernel

theorem linkFrameSend_dev {s t : State} {p : Fin 4} (h : exec (.linkFrameSend p) s = .next t) :
    t.dev = linkReset (linkFrameSend p.val (sendSurveys (regFinish s.dev.begun))) :=
  act_dev (f := fun d => linkReset (linkFrameSend p.val (sendSurveys (regFinish d)))) h

/-- Refutes O46: at a codeword boundary a reply of a remote access is sent off first, and one that finds no route counts in HS_STATS_NO_ROUTE;
the clause on EXCHANGE claims that no register changes, whatever waits. -/
theorem not_linksTrainAndCarry : ¬ Obligations.LinksTrainAndCarry := by
  intro h
  obtain ⟨s, hs⟩ : ∃ s : State, s.dev = replyingDev := ⟨⟨[], replyingDev⟩, rfl⟩
  obtain ⟨hrun, hdue, hlink⟩ := replying_exchanges
  obtain ⟨trains, -⟩ := h s 0 (by rw [hs]; exact hdue)
  obtain ⟨-, -, -, exchangeClause, -⟩ := trains (by rw [hs]; exact hrun)
  obtain ⟨t, hx, -, -, hregs, -⟩ := exchangeClause (by rw [hs]; exact hlink)
  have hcount : t.dev.rd HS_STATS_NO_ROUTE = 1 := by
    rw [linkFrameSend_dev hx, hs]
    exact replying_counts
  rw [Dev.rd_of_regs hregs, hs, replying_counted] at hcount
  exact absurd hcount (by decide)

/-! Elections (R369 to R371). -/

theorem timeEvent_sent (kind : Nat) (x : Int) (d : Dev) : d.hs.Sent (timeEvent kind x d).hs := by
  unfold timeEvent
  exact sent_ite (post_sent _ _ _ _) (HsSt.Sent.of rfl)

theorem setMaster_sent (v : Nat) (d : Dev) : d.hs.Sent (setMaster v d).hs := by
  unfold setMaster
  exact sent_ite (HsSt.Sent.of rfl) (timeEvent_sent 5 0 _)

theorem setRoot_sent (prio unit : Nat) (d : Dev) : d.hs.Sent (setRoot prio unit d).hs := by
  have event : ∀ y : Dev, y.hs.Sent (if unit ≠ 0 then fabricEvent 4 0 (y.raise HS_STATUS_ROOT_CHANGED_SEEN) else y).hs := fun y =>
    sent_ite (fabricEvent_sent 4 0 _) (HsSt.Sent.of rfl)
  unfold setRoot
  dsimp only
  have kept := event ((d.wr HS_ROOT_ID unit).wr HS_ROOTINFO_PRIORITY prio)
  exact sent_ite (HsSt.Sent.of rfl) (sent_ite (kept.trans (setMaster_sent _ _)) kept)

/-- The part as an election leaves it, before it acts on who was elected. -/
def Dev.elected (d : Dev) : Dev := setRoot d.hs.cand.1 d.hs.cand.2.1 (d.reach (d.hs.candAt + 100000000))

theorem electEnd_eq (d : Dev) (ha : d.applied = true) (hm : d.rd HS_STATUS_MODE = 1) (hd : d.rd HS_STATUS_DISC = 1) :
    electEnd d = if d.hs.cand.2.1 = d.elected.unitId then rootAddress (d.elected.wr HS_STATUS_ROLE 2)
      else if (d.elected.wr HS_STATUS_ROLE 1).on HS_STATUS_ADDR_VALID then reachRun (d.elected.wr HS_STATUS_ROLE 1)
      else sendRequest (d.elected.wr HS_STATUS_ROLE 1).unitId none ((d.elected.wr HS_STATUS_ROLE 1).wr HS_STATUS_DISC 2) := by
  have guard : (!d.applied || decide (d.hsMode ≠ 1) || decide (d.disc ≠ 1)) = false := by
    rw [ha, show d.hsMode = 1 from hm, show d.disc = 1 from hd]; rfl
  unfold electEnd
  rw [guard, if_neg (by decide)]
  dsimp only
  rw [reach_hs]
  rfl

theorem elected_rd (d : Dev) {f : Fld} (h : ¬ Rows [.one 98752, .one 131425, .one 131840, .one 131904, .one 262369, .one 262400, .one 262488,
    .row 0x5014 2 0x800 6, .row 0x5014 2 0x800 24, .row 0x2100c 32 0x40 3, .row 0x2100c 32 0x40 4, .row 0x2100c 32 0x40 5, .row 0x21024 32 0x40 0] f.bit) :
    d.elected.rd f = d.rd f :=
  (setRoot_after (Dev.reach_after (Changes.refl allParts _ d) (by decide) (by decide) _) (by decide) (by decide) _ _).rd h

theorem elected_eff (d : Dev) : d.elected.rd HS_ROOT_ID = d.hs.cand.2.1 % 2 ^ 64 ∧ d.elected.hs.bindings = d.hs.bindings ∧ d.elected.mem = d.mem :=
  ⟨(setRoot_rd _ _ _).1, (setRoot_sent _ _ _).bindings.trans (by rw [reach_hs]),
    ((setRoot_after (Changes.refl _ _ _) (within_refl _) (covers_refl _) _ _).parts .mem (by decide)).trans (reach_mem _ _)⟩

/-- ELECT ends with another device as the root (R369, R370). -/
theorem electEnd_member (d : Dev) (ha : d.applied = true) (hm : d.rd HS_STATUS_MODE = 1) (hd : d.rd HS_STATUS_DISC = 1)
    (hu : d.hs.cand.2.1 ≠ d.rd GC_UNITID_ID) : (electEnd d).rd HS_STATUS_ROLE = 1 ∧ (electEnd d).rd HS_ROOT_ID = d.hs.cand.2.1 % 2 ^ 64 ∧
      (electEnd d).rd HS_STATUS_DISC = (if d.on HS_STATUS_ADDR_VALID then 3 else 2) ∧ (electEnd d).mem = d.mem := by
  obtain ⟨hroot, -, hmem⟩ := elected_eff d
  have hunit : d.elected.unitId = d.rd GC_UNITID_ID := elected_rd d (rows_not (by decide))
  have hvalid : (d.elected.wr HS_STATUS_ROLE 1).on HS_STATUS_ADDR_VALID = d.on HS_STATUS_ADDR_VALID :=
    Dev.on_of_rd ((Dev.rd_wr_ne _ _ (by decide)).trans (elected_rd d (rows_not (by decide))))
  rw [electEnd_eq d ha hm hd, if_neg (by rw [hunit]; exact hu), hvalid]
  generalize d.elected = x at hroot hmem
  have hrole := Dev.rd_wr_same x HS_STATUS_ROLE 1
  split
  · refine ⟨?_, ?_, ?_, (floodOwn_mem _).trans hmem⟩
    · rw [reachRun_rd _ (rows_not (by decide)), Dev.rd_wr_ne _ _ (by decide), Dev.rd_wr_ne _ _ (by decide)]
      exact hrole
    · rw [reachRun_rd _ (rows_not (by decide)), Dev.rd_wr_ne _ _ (by decide), Dev.rd_wr_ne _ _ (by decide), Dev.rd_wr_ne _ _ (by decide)]
      exact hroot
    · rw [reachRun_rd _ (rows_not (by decide)), Dev.rd_wr_ne _ _ (by decide)]
      exact Dev.rd_wr_same _ HS_STATUS_DISC 3
  · have sent : ∀ (y : Dev) (f : Fld), ¬ Rows [.one 262856] f.bit → (sendRequest (x.wr HS_STATUS_ROLE 1).unitId none y).rd f = y.rd f := fun y f h =>
      (sendRequest_after (Changes.refl _ _ _) (within_refl _) (covers_refl _) _ _).rd h
    refine ⟨?_, ?_, ?_, ((sendRequest_after (Changes.refl _ _ _) (within_refl _) (covers_refl _) _ _).parts .mem (by decide)).trans hmem⟩
    · rw [sent _ _ (rows_not (by decide)), Dev.rd_wr_ne _ _ (by decide)]
      exact hrole
    · rw [sent _ _ (rows_not (by decide)), Dev.rd_wr_ne _ _ (by decide), Dev.rd_wr_ne _ _ (by decide)]
      exact hroot
    · rw [sent _ _ (rows_not (by decide))]
      exact Dev.rd_wr_same _ HS_STATUS_DISC 2

theorem choose_first (d : Dev) (unit : Nat) (h : d.hs.bindings = []) : d.choose unit none = some 0 := by
  unfold Dev.choose
  rw [h]
  show (List.range (4095 + 1)).find? _ = some 0
  rw [List.range_succ_eq_map]
  rfl

/-- The root takes address 0 where no binding is known and it holds no address (R371). -/
theorem rootAddress_first (d : Dev) (hb : d.hs.bindings = []) (hv : d.on HS_STATUS_ADDR_VALID = false) :
    rootAddress d = reachRun ((assignAs d.unitId 0 (setAddr 0 false d)).wr HS_ROOTINFO_ADDR 0) := by
  unfold rootAddress
  dsimp only
  rw [if_neg (by rw [hv]; decide), choose_first d d.unitId hb]

theorem rootAddress_rd (d : Dev) (hb : d.hs.bindings = []) (hv : d.on HS_STATUS_ADDR_VALID = false) :
    (rootAddress d).rd HS_STATUS_ROLE = d.rd HS_STATUS_ROLE ∧ (rootAddress d).rd HS_ROOT_ID = d.rd HS_ROOT_ID ∧ (rootAddress d).rd HS_STATUS_DISC = 3 ∧
    (rootAddress d).rd HS_STATUS_ADDR = 0 ∧ (rootAddress d).rd HS_STATUS_ADDR_VALID = 1 ∧ (rootAddress d).mem = d.mem := by
  obtain ⟨haddr, hvalid, -, -, -⟩ := setAddr_eff 0 false d
  have frame : ∀ f : Fld, ¬ Rows [.one 262856] f.bit → f.bit ≠ HS_ROOTINFO_ADDR.bit → f.bit ≠ HS_STATUS_DISC.bit → f.bit ≠ HS_STATUS_FAILS.bit →
      (reachRun ((assignAs d.unitId 0 (setAddr 0 false d)).wr HS_ROOTINFO_ADDR 0)).rd f = (setAddr 0 false d).rd f := by
    intro f hrows hinfo hdisc hfails
    rw [reachRun_rd _ hrows, Dev.rd_wr_ne _ _ hfails, Dev.rd_wr_ne _ _ hdisc, Dev.rd_wr_ne _ _ hinfo]
    exact (assignAs_after (Changes.refl _ _ _) (within_refl _) (covers_refl _) _ _).rd hrows
  refine ⟨?_, ?_, ?_, ?_, ?_, (rootAddress_after (Changes.refl _ _ _) (within_refl _) (covers_refl _)).parts .mem (by decide)⟩
  all_goals rw [rootAddress_first d hb hv]
  · rw [frame _ (rows_not (by decide)) (by decide) (by decide) (by decide)]
    exact (setAddr_after (Changes.refl _ _ _) (within_refl _) (covers_refl _) 0 false).rd (rows_not (by decide))
  · rw [frame _ (rows_not (by decide)) (by decide) (by decide) (by decide)]
    exact (setAddr_after (Changes.refl _ _ _) (within_refl _) (covers_refl _) 0 false).rd (rows_not (by decide))
  · rw [reachRun_rd _ (rows_not (by decide)), Dev.rd_wr_ne _ _ (by decide)]
    exact Dev.rd_wr_same _ HS_STATUS_DISC 3
  · rw [frame _ (rows_not (by decide)) (by decide) (by decide) (by decide)]
    exact haddr
  · rw [frame _ (rows_not (by decide)) (by decide) (by decide) (by decide)]
    exact hvalid

/-- ELECT ends with this device as the root of a fabric in which no address is bound (R369 to R371). -/
theorem electEnd_root (d : Dev) (ha : d.applied = true) (hm : d.rd HS_STATUS_MODE = 1) (hd : d.rd HS_STATUS_DISC = 1)
    (hu : d.hs.cand.2.1 = d.rd GC_UNITID_ID) (hb : d.hs.bindings = []) (hv : d.on HS_STATUS_ADDR_VALID = false) :
    (electEnd d).rd HS_STATUS_ROLE = 2 ∧ (electEnd d).rd HS_ROOT_ID = d.hs.cand.2.1 % 2 ^ 64 ∧ (electEnd d).rd HS_STATUS_DISC = 3 ∧
    (electEnd d).rd HS_STATUS_ADDR = 0 ∧ (electEnd d).rd HS_STATUS_ADDR_VALID = 1 ∧ (electEnd d).mem = d.mem := by
  obtain ⟨hroot, hbind, hmem⟩ := elected_eff d
  have hunit : d.elected.unitId = d.rd GC_UNITID_ID := elected_rd d (rows_not (by decide))
  have hvalid : (d.elected.wr HS_STATUS_ROLE 2).on HS_STATUS_ADDR_VALID = false :=
    (Dev.on_of_rd ((Dev.rd_wr_ne _ _ (by decide)).trans (elected_rd d (rows_not (by decide))))).trans hv
  rw [electEnd_eq d ha hm hd, if_pos (by rw [hunit]; exact hu)]
  generalize d.elected = x at hroot hbind hmem hvalid
  obtain ⟨krole, kroot, kdisc, kaddr, kvalid, kmem⟩ := rootAddress_rd (x.wr HS_STATUS_ROLE 2) (hbind.trans hb) hvalid
  exact ⟨krole.trans (Dev.rd_wr_same x HS_STATUS_ROLE 2), kroot.trans ((Dev.rd_wr_ne _ _ (by decide)).trans hroot), kdisc, kaddr, kvalid, kmem.trans hmem⟩

/-! Assignments and LSAs that change little (R371, R373). -/

/-- No address is free for this device (R371). -/
theorem addressAssign_full (p : Fin 4) (c : Bool) (r : Nat) (d : Dev) (ha : d.applied = true) (hl : d.link p.val = 5) (hm : d.rd HS_STATUS_MODE = 1) :
    addressAssign p.val (d.rd GC_UNITID_ID) none c r d = d.raise HS_STATUS_ADDR_FULL := by
  have guard : (!d.applied || decide (d.link p.val ≠ lUP) || decide (d.hsMode ≠ 1)) = false := by
    rw [ha, hl, show d.hsMode = 1 from hm]; rfl
  unfold addressAssign
  rw [guard, if_neg (by decide)]
  exact if_pos rfl

/-- An LSA that is not newer is discarded (R373). -/
theorem lsa_discarded (p : Fin 4) (i : LsaInfo) (l : Lsa) (d : Dev) (hl : d.hs.lsas.find? (fun x => decide (x.unit = i.unit.toNat)) = some l)
    (hs : i.seq.toNat ≤ l.seq) : lsa p.val i d = d := by
  unfold lsa
  dsimp only
  split
  · rfl
  · refine if_pos ?_
    rw [hl]
    dsimp only
    rw [decide_eq_false (by omega : ¬ l.seq < i.seq.toNat)]
    rfl

/-- Settles O47: each clause is what its operation does, a case of the election or of the tables at a time. -/
theorem discoveryAndRouting : Obligations.DiscoveryAndRouting := by
  intro s ha
  refine ⟨fun hd => ?_, fun hm => ⟨fun p hl => ⟨?_, ?_, ?_, ?_, ?_, ?_, ?_⟩, ?_, ?_, ?_, ?_⟩, ?_, ?_, ?_, ?_⟩
  · exact Completes.effect _ rfl (helloSend_eff s.dev.begun ha hd)
  · exact fun prio u hops hd hb => hello_row s p prio u hops ha hm hl hd hb
  · exact fun u h a hr hc => addressRequest_row s p u h a ha hm hl hr hc
  · exact fun u a c r hu => addressAssign_row s p u a c r ha hm hl hu
  · intro u c r hu
    refine Completes.effect (addressAssign p.val u.toNat none c r.toNat) rfl ?_
    rw [hu]
    have k := addressAssign_full p c r.toNat s.dev.begun ha hl hm
    exact ⟨(congrArg (fun e : Dev => e.rd HS_STATUS_ADDR_FULL) k).trans (Dev.rd_raise_same _ _), (congrArg Dev.hs k).trans rfl,
      (congrArg Dev.mem k).trans rfl⟩
  · exact fun u a hb => Completes.effect _ rfl (bindPacket_eff p u.toNat a.toNat s.dev.begun ha hl hm hb)
  · exact fun i hn hi hr => lsa_row s p i ha hm hl hn hi hr
  · exact fun i l hl hs => Completes.effect (lsa p.val i) rfl (lsa_discarded p i l s.dev.begun hl hs)
  · intro hd prio u h hc hu
    have hcand : s.dev.begun.hs.cand.2.1 = u := congrArg (fun c : Nat × Nat × Nat => c.2.1) hc
    refine ⟨fun hne => ?_, fun heq hb hv => ?_⟩
    · obtain ⟨krole, kroot, kdisc, kmem⟩ := electEnd_member s.dev.begun ha hm hd (by rw [hcand]; exact hne)
      rw [hcand, Nat.mod_eq_of_lt hu] at kroot
      exact Completes.effect _ rfl ⟨krole, kroot, kdisc, kmem⟩
    · obtain ⟨krole, kroot, krest⟩ := electEnd_root s.dev.begun ha hm hd (by rw [hcand]; exact heq) hb hv
      rw [hcand, Nat.mod_eq_of_lt hu] at kroot
      exact Completes.effect _ rfl ⟨krole, kroot, krest⟩
  · exact fun hd hf hn => Completes.effect _ rfl (discoveryTimeout_eff s.dev.begun ha hm hd hf hn)
  · exact fun hd => Completes.effect _ rfl (lsaRefresh_eff s.dev.begun ha hm hd)
  · exact fun hd hk ho => routingUpdate_row s ha hm hd hk ho
  · exact fun u l hl hu => Completes.effect _ rfl (lsaAgeOut_eff u.toNat s.dev.begun l ha hl hu)
  · exact fun a b hb => Completes.effect _ rfl (bindingExpiry_eff a.toNat s.dev.begun b ha hb)
  · intro a hr hm
    have k := rediscover_eff (s.dev.accessed a) (by rw [accessed_rd]; exact hm)
    rw [Dev.accessed_mem] at k
    exact Completes.ofPort rediscover rfl hr k
  · exact fun p pos st m hm hl hs hf => Completes.effect _ rfl (chain_eff p pos st m.toNat s.dev.begun ha hm hl hs hf m.isLt)

/-! Words written to HS_SEND (R377). -/

/-- The words of a path's packet, with the one that arrives. -/
def Dev.sendWords (d : Dev) (p : Path) (w : Word) : List Word := ((d.hs.asm.find? (·.1 = p)).map (·.2)).getD [] ++ [w]

/-- How many words the packet of a path has, by its first. -/
def sendTotal (ws : List Word) : Nat := 2 + (min (bits (wordAt ws 0) 11 0) 4095 + 3) / 4

/-- The part once a packet's last word has arrived. -/
def Dev.sendTaken (d : Dev) (p : Path) : Dev := d.modHs fun h => { h with asm := d.hs.asm.filter (·.1 ≠ p) }

theorem hsSendWord_waits (p : Path) (w : Word) (d : Dev) (h : (d.sendWords p w).length < sendTotal (d.sendWords p w)) :
    hsSendWord p w d = d.modHs fun x => { x with asm := d.hs.asm.filter (·.1 ≠ p) ++ [(p, d.sendWords p w)] } := if_pos h

theorem hsSendWord_range (p : Path) (w : Word) (d : Dev) (h : sendTotal (d.sendWords p w) ≤ (d.sendWords p w).length)
    (hr : 1008 < bits (wordAt (d.sendWords p w) 0) 11 0 ∨ (bits (wordAt (d.sendWords p w) 0) 16 12 ≠ 3 ∧ bits (wordAt (d.sendWords p w) 0) 16 12 ≠ 8)) :
    hsSendWord p w d = (d.sendTaken p).wr HS_SEND_STATUS_CODE cRANGE := by
  refine (if_neg (Nat.not_lt.2 h)).trans (if_pos ?_)
  simp only [Bool.or_eq_true, Bool.and_eq_true, decide_eq_true_eq]
  exact hr

theorem hsSendWord_refused (p : Path) (w : Word) (d : Dev) (h : sendTotal (d.sendWords p w) ≤ (d.sendWords p w).length)
    (hl : bits (wordAt (d.sendWords p w) 0) 11 0 ≤ 1008) (hc : bits (wordAt (d.sendWords p w) 0) 16 12 = 8) (hv : d.on HS_STATUS_ADDR_VALID = false) :
    hsSendWord p w d = (d.sendTaken p).wr HS_SEND_STATUS_CODE cREFUSED := by
  refine (if_neg (Nat.not_lt.2 h)).trans ((if_neg ?_).trans (if_pos ?_))
  · simp only [Bool.or_eq_true, Bool.and_eq_true, decide_eq_true_eq]
    change ¬ (1008 < bits (wordAt (d.sendWords p w) 0) 11 0 ∨ (bits (wordAt (d.sendWords p w) 0) 16 12 ≠ 3 ∧ bits (wordAt (d.sendWords p w) 0) 16 12 ≠ 8))
    omega
  · rw [Bool.or_eq_true]
    refine Or.inl ?_
    change (!d.on HS_STATUS_ADDR_VALID) = true
    rw [hv]
    rfl

/-- The packet that the words of HS_SEND make, where it leaves the device. -/
def Dev.sendPacket (d : Dev) (ws : List Word) : Packet :=
  ⟨8, bits (wordAt ws 0) 31 20, bits (wordAt ws 0) 19 18, false, d.rd HS_STATUS_ADDR, d.rd HS_CFG_TTL, bits (wordAt ws 1) 31 24, d.hs.pseq,
    (wordsToBytes (ws.drop 2)).take (bits (wordAt ws 0) 11 0)⟩

theorem hsSendWord_sends (p : Path) (w : Word) (d : Dev) (q : Fin 4) (ws : List Word) (hws : d.sendWords p w = ws) (h : sendTotal ws ≤ ws.length)
    (hl : bits (wordAt ws 0) 11 0 ≤ 1008) (hc : bits (wordAt ws 0) 16 12 = 8) (hv : d.on HS_STATUS_ADDR_VALID = true)
    (hm : d.rd HS_STATUS_MODE ≠ 0) (hloc : bit (wordAt ws 0) 17 = false) (ho : (d.sendPacket ws).dst ≠ d.rd HS_STATUS_ADDR)
    (hn : d.nextHop (d.sendPacket ws).dst = some q.val) (hu : d.link q.val = lUP) (hroom : d.room q.val false (d.sendPacket ws).bytes.length = true) :
    (hsSendWord p w d).rd HS_SEND_STATUS_CODE = cDONE ∧ (hsSendWord p w d).hs.pseq = (d.hs.pseq + 1) % 65536 ∧
    ((hsSendWord p w d).port q.val).message.waiting = (d.port q.val).message.waiting ++ [(d.hs.pid + 1, (d.sendPacket ws).bytes)] ∧
    (hsSendWord p w d).mem = d.mem := by
  have fits : (((d.sendTaken p).port q.val).lane (controlClass (d.sendPacket ws).cls)).waitingBytes + (16 + (d.sendPacket ws).body.length) ≤ 65536 := by
    rw [Dev.room, decide_eq_true_eq, packet_length] at hroom
    exact hroom
  have sent : sendFrom (d.sendPacket ws) (d.sendTaken p) = (cDONE, sendOn q.val (d.sendPacket ws).bytes (d.sendTaken p)) :=
    sendFrom_route _ (d.sendTaken p) q.val (by show 8 < 16; decide) rfl (fun k => ho k.2) hn hu fits
  have result : hsSendWord p w d = (((sendOn q.val (d.sendPacket ws).bytes (d.sendTaken p)).wr HS_SEND_STATUS_CODE cDONE).modHs
      fun h => { h with pseq := (d.hs.pseq + 1) % 65536 }).wr HS_SEND_STATUS_PSEQ d.hs.pseq := by
    have inRange : (decide (1008 < bits (wordAt ws 0) 11 0) || (decide (8 ≠ 3) && decide (8 ≠ 8))) = false := by
      rw [decide_eq_false (Nat.not_lt.2 hl)]; decide
    have opens : (!(d.sendTaken p).on HS_STATUS_ADDR_VALID || decide ((d.sendTaken p).hsMode = 0)) = false := by
      rw [show (d.sendTaken p).on HS_STATUS_ADDR_VALID = true from hv, decide_eq_false (show ¬ (d.sendTaken p).hsMode = 0 from hm)]; rfl
    unfold Dev.sendTaken at opens
    unfold sendTotal at h
    unfold hsSendWord
    dsimp only
    rw [show ((d.hs.asm.find? (·.1 = p)).map (·.2)).getD [] ++ [w] = ws from hws, if_neg (Nat.not_lt.2 h), hc, inRange, if_neg (by decide), opens,
      if_neg (by decide), hloc]
    change (if (sendFrom (d.sendPacket ws) (d.sendTaken p)).1 = cDONE then _ else _) = _
    rw [if_pos (by rw [sent])]
    change (((sendFrom (d.sendPacket ws) (d.sendTaken p)).2.wr _ _).modHs _).wr _ _ = _
    rw [sent]
    rfl
  obtain ⟨kwait, -, kmem, -⟩ := sendOn_port q.val (d.sendPacket ws) (d.sendTaken p) q.isLt (by show 8 < 16; decide) fits
  rw [result]
  generalize (d.sendPacket ws).bytes = bs at kwait kmem ⊢
  generalize sendOn q.val bs (d.sendTaken p) = y at kwait kmem ⊢
  exact ⟨(Dev.rd_wr_ne _ _ (by decide)).trans (Dev.rd_wr_same y HS_SEND_STATUS_CODE cDONE), rfl, kwait, kmem⟩

/-! Remote accesses and resets (R378, R380). -/

/-- The oldest request, as the router takes it up with the code of its answer (R378). -/
def Dev.regTaken (d : Dev) (p : Nat) (bs : List Byte) (rest : List (Nat × List Byte)) (code : Nat) : Dev :=
  (d.modHs fun h => { h with regs := rest, reply := some (p, bs, code), got := [] }).beginAccess .hawser

theorem regPacket_refused (typ p : Nat) (bs : List Byte) (rest : List (Nat × List Byte)) (frs : List (Fin 24 × RxFrame)) (d : Dev) (ha : d.applied = true)
    (h0 : d.hs.reply = none) (hr : d.hs.regs = (p, bs) :: rest) (ht : (parsePacket bs).typ = typ)
    (ho : d.on (if typ = 1 then HS_CFG_REMOTE_RD else HS_CFG_REMOTE_WR) = false) :
    regPacket typ frs d = regFinish (d.regTaken p bs rest cREFUSED) := by
  unfold regPacket
  dsimp only
  rw [regFinish_none d h0, hr, ha, h0]
  refine (if_neg (not_not_intro ht)).trans ?_
  rw [ho]
  rfl

/-- A reset order that this part does not obey (R380). -/
theorem resetOrder_refused (t u : Nat) (d : Dev) (ha : d.applied = true) (h : u ≠ d.rd HS_ROOT_ID ∨ d.on GC_CFG_LINK_RESET_OK = false) :
    (resetOrder t u d).power = d.power ∧ (resetOrder t u d).rd HS_STATUS_RESET_REFUSED_SEEN = 1 := by
  have hok : (decide (u = d.rd HS_ROOT_ID) && d.on GC_CFG_LINK_RESET_OK) = false := by
    rcases h with h | h
    · rw [decide_eq_false h, Bool.false_and]
    · rw [h, Bool.and_false]
  have power : ∀ x y, (sendFrom x y).2.power = y.power := fun x y =>
    (sendFrom_after (Changes.refl _ _ _) (within_refl _) (covers_refl _) x).parts .power (by decide)
  unfold resetOrder
  rw [ha, if_neg (by decide)]
  dsimp only
  rw [hok]
  exact ⟨power _ _, Dev.rd_raise_same _ _⟩

theorem accessed_hs (d : Dev) (p : Path) : (d.accessed p).hs = d.hs := Dev.beginAccess_hs _ p
theorem accessed_regs (d : Dev) (p : Path) : (d.accessed p).regs = d.regs := Dev.beginAccess_regs _ p
theorem accessed_link (d : Dev) (p : Path) (n : Nat) : (d.accessed p).link n = d.link n := accessed_rd d p _
theorem accessed_port (d : Dev) (p : Path) (n : Nat) : (d.accessed p).port n = d.port n := port_of_hs (accessed_hs d p) n
theorem accessed_nextHop (d : Dev) (p : Path) (a : Nat) : (d.accessed p).nextHop a = d.nextHop a := nextHop_of (accessed_hs d p) (accessed_regs d p) a
theorem accessed_ns (d : Dev) (p : Path) : (d.accessed p).ns = d.ns := Dev.beginAccess_ns _ p
theorem accessed_sendWords (d : Dev) (p q : Path) (w : Word) : (d.accessed p).sendWords q w = d.sendWords q w := by
  unfold Dev.sendWords
  rw [accessed_hs]
theorem accessed_sendPacket (d : Dev) (p : Path) (ws : List Word) : (d.accessed p).sendPacket ws = d.sendPacket ws := by
  unfold Dev.sendPacket
  rw [accessed_hs, accessed_rd, accessed_rd]

/-- HS_SEND, by the words of the packet (R377). -/
theorem hsSendWord_completes (s : State) (a : Path) (w : Word) (hr : s.dev.reaches a 0x8000 = true) :
    (((s.dev.sendWords a w).length < sendTotal (s.dev.sendWords a w) → Completes (.hsSendWord a w) s fun d =>
      d.hs.asm = s.dev.hs.asm.filter (·.1 ≠ a) ++ [(a, s.dev.sendWords a w)] ∧ d.regs = s.dev.regs ∧ d.mem = s.dev.mem)) ∧
    (sendTotal (s.dev.sendWords a w) ≤ (s.dev.sendWords a w).length →
      (1008 < bits (wordAt (s.dev.sendWords a w) 0) 11 0 ∨
        (bits (wordAt (s.dev.sendWords a w) 0) 16 12 ≠ 3 ∧ bits (wordAt (s.dev.sendWords a w) 0) 16 12 ≠ 8) → Completes (.hsSendWord a w) s fun d =>
        d.rd HS_SEND_STATUS_CODE = cRANGE ∧ d.hs.asm = s.dev.hs.asm.filter (·.1 ≠ a) ∧ d.hs.ports = s.dev.hs.ports ∧ d.mem = s.dev.mem) ∧
      (bits (wordAt (s.dev.sendWords a w) 0) 11 0 ≤ 1008 → bits (wordAt (s.dev.sendWords a w) 0) 16 12 = 8 → s.dev.on HS_STATUS_ADDR_VALID = false →
        Completes (.hsSendWord a w) s fun d => d.rd HS_SEND_STATUS_CODE = cREFUSED ∧ d.hs.ports = s.dev.hs.ports ∧ d.mem = s.dev.mem)) := by
  have words := accessed_sendWords s.dev a a w
  have hhs := accessed_hs s.dev a
  refine ⟨fun h => Completes.ofPort (hsSendWord a w) rfl hr ?_, fun h => ⟨fun hc => Completes.ofPort (hsSendWord a w) rfl hr ?_,
    fun hl hc hv => Completes.ofPort (hsSendWord a w) rfl hr ?_⟩⟩
  · rw [hsSendWord_waits a w _ (by rw [words]; exact h), words, hhs]
    exact ⟨rfl, accessed_regs _ _, Dev.accessed_mem _ _⟩
  · rw [hsSendWord_range a w _ (by rw [words]; exact h) (by rw [words]; exact hc), ← hhs]
    exact ⟨Dev.rd_wr_same ((s.dev.accessed a).sendTaken a) HS_SEND_STATUS_CODE cRANGE, rfl, rfl, Dev.accessed_mem _ _⟩
  · rw [hsSendWord_refused a w _ (by rw [words]; exact h) (by rw [words]; exact hl) (by rw [words]; exact hc) (by rw [accessed_on]; exact hv), ← hhs]
    exact ⟨Dev.rd_wr_same ((s.dev.accessed a).sendTaken a) HS_SEND_STATUS_CODE cREFUSED, rfl, Dev.accessed_mem _ _⟩

/-- A message to another device leaves on the port of its next hop (R377). -/
theorem hsSendWord_leaves (s : State) (a : Path) (w : Word) (q : Fin 4) (hr : s.dev.reaches a 0x8000 = true)
    (h : sendTotal (s.dev.sendWords a w) ≤ (s.dev.sendWords a w).length) (hl : bits (wordAt (s.dev.sendWords a w) 0) 11 0 ≤ 1008)
    (hc : bits (wordAt (s.dev.sendWords a w) 0) 16 12 = 8) (hv : s.dev.on HS_STATUS_ADDR_VALID = true) (hm : s.dev.rd HS_STATUS_MODE ≠ 0)
    (hloc : bit (wordAt (s.dev.sendWords a w) 0) 17 = false) (ho : (s.dev.sendPacket (s.dev.sendWords a w)).dst ≠ s.dev.rd HS_STATUS_ADDR)
    (hn : s.dev.nextHop (s.dev.sendPacket (s.dev.sendWords a w)).dst = some q.val) (hu : s.dev.link q.val = lUP)
    (hroom : s.dev.room q.val false (s.dev.sendPacket (s.dev.sendWords a w)).bytes.length = true) : Completes (.hsSendWord a w) s fun d =>
      d.rd HS_SEND_STATUS_CODE = cDONE ∧ d.hs.pseq = (s.dev.hs.pseq + 1) % 65536 ∧ (d.port q.val).message.waiting =
        (s.dev.port q.val).message.waiting ++ [(s.dev.hs.pid + 1, (s.dev.sendPacket (s.dev.sendWords a w)).bytes)] ∧ d.mem = s.dev.mem := by
  have hport : (s.dev.accessed a).room q.val false (s.dev.sendPacket (s.dev.sendWords a w)).bytes.length = true := by
    unfold Dev.room
    rw [accessed_port]
    exact hroom
  have k := hsSendWord_sends a w (s.dev.accessed a) q _ (accessed_sendWords s.dev a a w) h hl hc (by rw [accessed_on]; exact hv)
    (by rw [accessed_rd]; exact hm) hloc (by rw [accessed_sendPacket, accessed_rd]; exact ho) (by rw [accessed_sendPacket, accessed_nextHop]; exact hn)
    (by rw [accessed_link]; exact hu) (by rw [accessed_sendPacket]; exact hport)
  rw [accessed_sendPacket, accessed_port, accessed_hs, Dev.accessed_mem] at k
  exact Completes.ofPort (hsSendWord a w) rfl hr k

/-- Settles O48: HS_SEND by the words that have arrived, requests and resets by what the part allows. -/
theorem hawserPackets : Obligations.HawserPackets := by
  intro s ha
  have runs : s.dev.coreRuns = true := by
    have k := ha
    simp only [Dev.applied, Bool.and_eq_true] at k
    exact k.1.1.1
  refine ⟨?_, ?_, ?_, ?_, ?_, ?_, ?_⟩
  · rintro a w ws hr rfl
    obtain ⟨waits, whole⟩ := hsSendWord_completes s a w hr
    refine ⟨waits, fun h => ⟨(whole h).1, fun hl hc => ⟨(whole h).2 hl hc, ?_⟩⟩⟩
    rintro q x hv hm hloc rfl ho hn hu hroom
    exact hsSendWord_leaves s a w q hr h hl hc hv hm hloc ho hn hu hroom
  · rintro p bs rest x e harr hl rfl rfl
    exact Completes.effect _ rfl (packetReceived_eff p s.dev.begun bs rest runs harr ha hl)
  · rintro p bs rest x e hregs hreply rfl rfl
    refine ⟨fun ht ho h1 h2 => ?_, fun ht ho => ?_, fun frs ht ho h1 h2 hlen => ?_, fun frs ht ho => ?_⟩
    · exact Completes.effect (regPacket 1 []) rfl (regPacket_read p bs rest [] s.dev.begun ha hreply hregs h1 h2 ht ho)
    · exact Completes.effect (regPacket 1 []) rfl (regPacket_refused 1 p bs rest [] s.dev.begun ha hreply hregs ht ho)
    · exact Completes.effect (regPacket 2 frs) rfl (regPacket_write p bs rest frs s.dev.begun ha hreply hregs h1 h2 ht ho hlen)
    · exact Completes.effect (regPacket 2 frs) rfl (regPacket_refused 2 p bs rest frs s.dev.begun ha hreply hregs ht ho)
  · intro t q hn hl ho hroom
    refine ⟨fun a hr hrole => ?_, fun u hu hk => ?_⟩
    · have k := resetDev_eff t.toNat q.val (s.dev.accessed a) (by rw [accessed_rd]; exact hrole) q.isLt (by rw [accessed_on, accessed_rd]; exact ho)
        (by rw [accessed_nextHop]; exact hn) (by rw [accessed_link]; exact hl) (by rw [accessed_port]; exact hroom)
      rw [accessed_port, accessed_hs, accessed_rd, accessed_rd, accessed_rd, accessed_ns, Dev.accessed_mem] at k
      obtain ⟨kwait, kat, -, kmem⟩ := k
      exact Completes.ofPort (resetDev t.toNat) rfl hr ⟨kwait, kat, kmem⟩
    · obtain ⟨kdue, khold, kwait, kmem⟩ := resetOrder_row t.toNat u.toNat q.val s.dev.begun ha hu hk q.isLt ho hn hl
        (Nat.le_trans (Nat.add_le_add_left (by decide) (s.dev.port q.val).control.waitingBytes) hroom)
      exact Completes.effect (fun d => linkReset (resetOrder t.toNat u.toNat d)) rfl ⟨kdue, khold, kwait, kmem⟩
  · intro t u hdue h
    obtain ⟨kpower, kseen⟩ := resetOrder_refused t.toNat u.toNat s.dev.begun ha h
    refine Completes.effect (fun d => linkReset (resetOrder t.toNat u.toNat d)) rfl ?_
    have due : (resetOrder t.toNat u.toNat s.dev.begun).power.linkDue = false := by
      rw [kpower]
      exact hdue
    rw [linkReset_idle _ due]
    exact ⟨congrArg PowerSt.hold kpower, due, kseen⟩
  · intro a t hr hrole
    have role : (s.dev.accessed a).rd HS_STATUS_ROLE < 2 := by rw [accessed_rd]; exact hrole
    have k : resetDev t.toNat (s.dev.accessed a) = (s.dev.accessed a).wr HS_CMD_STATUS_CODE cREFUSED := by
      unfold resetDev
      dsimp only
      refine if_pos ?_
      simp only [Bool.and_eq_true, decide_eq_true_eq]
      omega
    refine Completes.ofPort (resetDev t.toNat) rfl hr ?_
    rw [k]
    exact ⟨Dev.rd_wr_same _ HS_CMD_STATUS_CODE cREFUSED, accessed_hs _ _, Dev.accessed_mem _ _⟩
  · intro t ht
    exact ⟨fun c => Completes.effect _ rfl (resetReply_eff c.toNat s.dev.begun t ht ha c.isLt),
      Completes.effect _ rfl (resetReplyTimeout_eff s.dev.begun t ht)⟩

end Sys2Proof.Machine
end

section
/-!
The Gangway (17_gangway.md): slave frames, master commands, execute in place.
-/

namespace Sys2Proof.Machine

/-! Frames on a port where nothing waits (R399, R406). -/

theorem getD_of_lt {α : Type} {xs : List α} {i : Nat} {a : α} (h : i < xs.length) : xs.getD i a = xs[i] := by
  rw [List.getD_eq_getElem?_getD, List.getElem?_eq_getElem h, Option.getD_some]

theorem each_keeps {α β : Type} (g : Dev → β) (xs : List α) (f : α → Dev → Dev) (h : ∀ x e, g (f x e) = g e) (d : Dev) : g (d.each xs f) = g d := by
  induction xs generalizing d with
  | nil => rfl
  | cons x xs ih => exact (ih (f x d)).trans (h x d)

theorem each_still {α : Type} (xs : List α) (f : α → Dev → Dev) (d : Dev) (h : ∀ x ∈ xs, f x d = d) : d.each xs f = d := by
  induction xs with
  | nil => rfl
  | cons x xs ih =>
    show (f x d).each xs f = d
    rw [h x (List.mem_cons_self ..)]
    exact ih fun y hy => h y (List.mem_cons_of_mem _ hy)

/-- The reads of a path that stall at queue `i` end. -/
def dropAt (p : Path) (i : Nat) (d : Dev) : Dev :=
  if (d.q i).stalled.any (·.path == p) || (d.q i).resumed.any (·.path == p) then
    d.modQ i fun q => { q with stalled := q.stalled.filter (·.path != p), resumed := q.resumed.filter (·.path != p) }
  else d

/-- The reads of a path that wait at a card emulation end. -/
def dropHost (p : Path) (k : Nat) (d : Dev) : Dev := d.modCe k fun c => { c with host := c.host.filter fun b => b.path != p || !b.writes.isEmpty }

theorem dropReads_eq (p : Path) (d : Dev) : dropReads p d =
    { (((d.each (upTo 32) (dropAt p)).each (upTo 8) (dropHost p)).modGw 1 fun g => { g with waits := g.waits.filter (·.path != p) }) with
      dramWait := ((d.each (upTo 32) (dropAt p)).each (upTo 8) (dropHost p)).dramWait.filter fun x => x.path != p || !x.data.isEmpty } := rfl

/-- Reads of a path that do not wait leave the queues alone as they end. -/
theorem dropReads_lq (p : Path) (d : Dev) (h : d.readWaits p = false) : (dropReads p d).lq = d.lq := by
  have quiet : ∀ i ∈ upTo 32, dropAt p i d = d := by
    intro i hi
    simp only [Dev.readWaits, Bool.or_eq_false_iff] at h
    have k := List.any_eq_false.1 h.1.1.1 i hi
    exact if_neg k
  have queues := each_still (upTo 32) (dropAt p) d quiet
  have hosts := each_keeps Dev.lq (upTo 8) (dropHost p) (fun _ _ => rfl) d
  rw [dropReads_eq, queues]
  generalize d.each (upTo 8) (dropHost p) = e at hosts ⊢
  exact hosts

theorem dropReads_dramWait (p : Path) (d : Dev) (h : d.dramWait = []) : (dropReads p d).dramWait = [] := by
  have still : ∀ i x, (dropAt p i x).dramWait = x.dramWait := fun i x => by
    unfold dropAt
    split <;> rfl
  have queues := each_keeps Dev.dramWait (upTo 32) (dropAt p) still d
  have hosts := each_keeps Dev.dramWait (upTo 8) (dropHost p) (fun _ _ => rfl) (d.each (upTo 32) (dropAt p))
  rw [dropReads_eq]
  generalize (d.each (upTo 32) (dropAt p)).each (upTo 8) (dropHost p) = e at hosts ⊢
  show e.dramWait.filter _ = []
  rw [hosts, queues, h]
  rfl

theorem quiet_of_lq {d e : Dev} (h : e.lq = d.lq) (hq : d.Quiet) : e.Quiet := fun i => by
  rw [show e.q i.val = d.q i.val from congrArg (fun l => vget l i.val Queue.empty) h]
  exact hq i

theorem burstsGoOn_quiet {d : Dev} (h : d.Quiet) (ho : d.out = []) : burstsGoOn d = d := by
  have k : burstsGoOn { d with out := [] } = { d with out := [] } := met_quiet h .gw0
  rwa [← ho] at k

theorem gwOpen_iff (d : Dev) (n : Fin 2) : d.pathOpen (gwPath n.val) = true ↔
    d.coreRuns = true ∧ (n = 0 ∨ d.on GC_BOOT_BARE = false) ∧ d.on (GW_CFG_ROLE n.val) = false := by
  match n with
  | 0 =>
    show (d.coreRuns && !d.on (GW_CFG_ROLE 0)) = true ↔ _
    simp
  | 1 =>
    show (d.coreRuns && !d.on GC_BOOT_BARE && !d.on (GW_CFG_ROLE 1)) = true ↔ _
    simp [and_assoc]

theorem gwOpen_of {d e : Dev} (n : Fin 2) (hp : e.power = d.power) (h1 : e.rd PW_STATE_CUR = d.rd PW_STATE_CUR)
    (h2 : e.rd GC_STATUS_PLLA_LOCK = d.rd GC_STATUS_PLLA_LOCK) (h3 : e.rd GC_BOOT_BARE = d.rd GC_BOOT_BARE)
    (h4 : e.rd (GW_CFG_ROLE n.val) = d.rd (GW_CFG_ROLE n.val)) (h : d.pathOpen (gwPath n.val) = true) : e.pathOpen (gwPath n.val) = true := by
  rw [gwOpen_iff] at h ⊢
  rw [coreRuns_of hp h1 h2, Dev.on_of_rd h3, Dev.on_of_rd h4]
  exact h

theorem coreRuns_of_open {d : Dev} (n : Fin 2) (h : d.pathOpen (gwPath n.val) = true) : d.coreRuns = true := ((gwOpen_iff d n).1 h).1

/-- The part as a slave frame on port `n` finds it. -/
def Dev.framed (d : Dev) (n : Nat) : Dev := dropReads (gwPath n) d.begun

/-- What a frame on an open port keeps of the part, where no read of the port waits. -/
theorem framed_eff (d : Dev) (n : Fin 2) (hr : d.readWaits (gwPath n.val) = false) :
    (d.framed n.val).out = [] ∧ (d.framed n.val).mem = d.mem ∧ (d.framed n.val).lq = d.lq ∧ (d.framed n.val).power = d.power ∧
    (d.framed n.val).regs = d.regs :=
  ⟨dropReads_out _ _, dropReads_mem _ _, dropReads_lq _ _ hr,
    (dropReads_after (Changes.refl _ _ _) (within_refl _) (covers_refl _) _).parts .power (by decide),
    (dropReads_after (Changes.refl [.lq, .ce, .dramWait, .gw] [] _) (by decide) (by decide) _).parts .regs (by decide)⟩

/-- A frame on an open port where nothing waits runs at once. -/
theorem Completes.frame {c : Instr} {s : State} {P : Dev → Prop} (n : Fin 2) (f : SlaveFrame) (h : exec c s = s.act (slaveFrame n.val f))
    (hp : s.dev.pathOpen (gwPath n.val) = true) (h0 : (s.dev.gwp 0).held = []) (h1 : (s.dev.gwp 1).held = []) (hw : s.dev.writeWaits (gwPath n.val) = false)
    (k : P (runFrame n.val f (s.dev.framed n.val))) : Completes c s P := by
  have held : ∀ m, m < 2 → (s.dev.begun.gwp m).held = [] := fun m hm => by
    obtain rfl | rfl : m = 0 ∨ m = 1 := by omega
    · exact h0
    · exact h1
  refine Completes.effect _ h ?_
  rw [slaveFrame_now n.val f s.dev.begun hp held hw]
  exact k

/-! What a read frame leaves, stalled or not (R405, R407). -/

/-- A read frame that has waited differs in its WAITED flag alone. -/
theorem readFrame_waited (n : Fin 2) (bits : Nat) (f : Nat → Dev → Dev) (d : Dev) (waited : Bool) :
    (readFrame n.val bits waited f d).out = (readFrame n.val bits false f d).out ∧ (readFrame n.val bits waited f d).mem = (readFrame n.val bits false f d).mem ∧
    (readFrame n.val bits waited f d).lq = (readFrame n.val bits false f d).lq ∧
    ∀ g : Fld, g.bit ≠ (GW_STATUS_WAITED n.val).bit → (readFrame n.val bits waited f d).rd g = (readFrame n.val bits false f d).rd g := by
  unfold readFrame
  dsimp only
  refine ⟨?_, ?_, ?_, fun g hg => ?_⟩
  · rw [raiseIf_out, raiseIf_out (c := false || _)]
  · rw [raiseIf_mem, raiseIf_mem (c := false || _)]
  · rw [raiseIf_lq, raiseIf_lq (c := false || _)]
  · rw [Dev.rd_raiseIf_ne _ _ hg, Dev.rd_raiseIf_ne (c := false || _) _ hg]

/-! Registers that a STATUS or ID frame shows (R403). -/

/-- Does the register file alone give the word at an address of the blocks below the queues? -/
def plainAt (d : Dev) (a : Nat) : Bool :=
  match findReg a with
  | some h => decide (h.spec.addr < 0x21000) && (h.spec.flds h.i h.j).all fun fs => (d.viewOther h.spec.addr h.i fs.lo).isNone
  | none => false
theorem shown_of_regs {d e : Dev} (h : d.regs = e.regs) {a : Nat} (ha : a < 0x70100) (hp : ∀ x : Dev, plainAt x a = true) : d.shown a = e.shown a := by
  have at_ : ∀ x : Dev, x.regAt a = findReg a := fun x => if_neg (by simp; omega)
  have kd := hp d
  have ke := hp e
  unfold plainAt at kd ke
  unfold Dev.shown
  rw [at_, at_]
  obtain ⟨o, ho⟩ : ∃ o, findReg a = o := ⟨_, rfl⟩
  rw [ho] at kd ke ⊢
  cases o with
  | none => rw [Option.map_none, Option.map_none]
  | some hit =>
    dsimp only at kd ke
    simp only [Bool.and_eq_true, decide_eq_true_eq, List.all_eq_true, Option.isNone_iff_eq_none] at kd ke
    have fields : d.regNow hit = e.regNow hit := by
      unfold Dev.regNow
      refine congrArg List.sum (List.map_congr_left fun fs hfs => ?_)
      have field : ∀ x : Dev, x.viewOther hit.spec.addr hit.i fs.lo = none → x.fieldNow hit.spec.addr hit.i hit.j fs =
          match fs.acc with | .wo => 0 | _ => x.rd fs.fld % 2 ^ fs.fld.w := by
        intro x hx
        unfold Dev.fieldNow
        rw [if_neg (by simp; omega), if_neg (by simp; omega), hx]
        rfl
      rw [field d (kd.2 fs hfs), field e (ke.2 fs hfs), Dev.rd_of_regs h]
    simp only [Option.map_some, Option.getD_some, Dev.wordNow, fields]

/-! Frames of reads and pops (R403, R407, R408). -/

theorem readFrame_any (n : Fin 2) (bits : Nat) (waited : Bool) (f : Nat → Dev → Dev) (d : Dev) (ho : d.out = []) :
    (readFrame n.val bits waited f d).out = (f (bits / 32) (frameBegins n.val d)).out ∧
    (readFrame n.val bits waited f d).mem = (f (bits / 32) (frameBegins n.val d)).mem ∧
    (readFrame n.val bits waited f d).lq = (f (bits / 32) (frameBegins n.val d)).lq ∧
    (bits % 32 ≠ 0 → (readFrame n.val bits waited f d).rd (GW_STATUS_FRAME_ODD n.val) = 1) ∧
    (readFrame n.val bits waited f d).rd (GW_STATUS_HOLE n.val) = (f (bits / 32) (frameBegins n.val d)).rd (GW_STATUS_HOLE n.val) ∧
    (readFrame n.val bits waited f d).rd (GW_STATUS_CODE n.val) =
      (if (f (bits / 32) (frameBegins n.val d)).out = [] then 1 else (f (bits / 32) (frameBegins n.val d)).rd (GW_STATUS_CODE n.val)) := by
  obtain ⟨kout, kmem, klq, krd⟩ := readFrame_waited n bits f d waited
  obtain ⟨eout, emem, elq, eodd, ehole, ecode⟩ := readFrame_eff n bits f d ho
  refine ⟨kout.trans eout, kmem.trans emem, klq.trans elq, fun h => (krd _ (by apply every_index _ n; decide)).trans (eodd h),
    (krd _ (by apply every_index _ n; decide)).trans ehole, (krd _ (by apply every_index _ n; decide)).trans ecode⟩

theorem readFrame_itemEnd (n : Fin 2) (bits : Nat) (waited : Bool) (f : Nat → Dev → Dev) (d : Dev) :
    (readFrame n.val bits waited f d).rd (GW_STATUS_ITEM_END n.val) = (f (bits / 32) (frameBegins n.val d)).rd (GW_STATUS_ITEM_END n.val) := by
  unfold readFrame
  dsimp only
  rw [Dev.rd_raiseIf_ne _ _ (by apply every_index _ n; decide), Dev.rd_raiseIf_ne _ _ (by apply every_index _ n; decide)]
  split
  · exact Dev.rd_wr_ne _ _ (by apply every_index _ n; decide)
  · rfl

theorem busRead_none (n : Fin 2) (a : Nat) (d : Dev) (hq : d.Quiet) (ho : d.out = []) : busRead (gwPath n.val) a 0 d = d := by
  unfold busRead
  dsimp only
  rw [burstsGoOn_quiet hq ho, gw_begins]
  match n with
  | 0 => exact (ite_self _ : _)
  | 1 => exact (ite_self _ : _)

theorem gwPath_ne_pilot (n : Fin 2) : gwPath n.val ≠ .pilot := by decide +revert

theorem busRead_open (n : Fin 2) (a k : Nat) (d : Dev) (hq : d.Quiet) (ho : d.out = []) (hp : d.pathOpen (gwPath n.val) = true) :
    busRead (gwPath n.val) a k d = readBurst (gwPath n.val) a k d := by
  unfold busRead
  dsimp only
  rw [burstsGoOn_quiet hq ho, gw_begins, hp, if_neg (by decide), if_neg (gwPath_ne_pilot n)]

theorem busWrite_open (n : Fin 2) (a : Nat) (bs : List Byte) (frs : List (Fin 24 × RxFrame)) (d : Dev) (hq : d.Quiet) (ho : d.out = [])
    (hp : d.pathOpen (gwPath n.val) = true) (hb : bs ≠ []) : busWrite (gwPath n.val) a bs frs d = writeBurst (gwPath n.val) a bs frs d := by
  unfold busWrite
  dsimp only
  rw [burstsGoOn_quiet hq ho, gw_begins, hp, List.isEmpty_eq_false_iff.2 hb, if_neg (by decide), if_neg (gwPath_ne_pilot n)]

theorem regionEnd_dram {a : Nat} (h : Dev.inDram a = true) : regionEnd a = a / 4096 * 4096 + 4096 := by
  simp only [Dev.inDram, Bool.and_eq_true, decide_eq_true_eq] at h
  unfold regionEnd
  rw [if_neg (by simp only [Bool.and_eq_true, decide_eq_true_eq]; omega)]

theorem inWindow_dram {a : Nat} (h : Dev.inDram a = true) : inWindow a = true := by
  unfold inWindow
  rw [h]
  rfl

theorem dramAccess_now (x : DramWait) (d : Dev) (hl : d.on GC_STATUS_PLLD_LOCK = true) (hw : d.dramWait = []) : dramAccess x d = memRun x d := by
  unfold dramAccess
  rw [hl, hw]
  rfl

theorem readBurst_dram (p : Path) (a k : Nat) (d : Dev) (hk : k ≠ 0) (hr : d.coreRuns = true) (ha : Dev.inDram a = true)
    (he : a + 4 * k ≤ a / 4096 * 4096 + 4096) (hl : d.on GC_STATUS_PLLD_LOCK = true) (hw : d.dramWait = []) :
    readBurst p a k d = d.give p (bytesToWords (Memory.read d.mem a (4 * k))) := by
  have whole : min (4 * k) (regionEnd a - a) = 4 * k := by rw [regionEnd_dram ha]; omega
  unfold readBurst
  rw [if_neg hk, inWindow_dram ha, if_pos rfl]
  dsimp only
  rw [whole, if_neg (Nat.lt_irrefl _), show k - (4 * k + 3) / 4 = 0 by omega]
  unfold memLoad
  rw [hr, if_neg (by decide), ha, if_pos rfl, dramAccess_now _ d hl hw]
  exact congrArg (d.give p) (List.append_nil _)

theorem writeBurst_dram (p : Path) (a : Nat) (bs : List Byte) (frs : List (Fin 24 × RxFrame)) (d : Dev) (hb : bs ≠ []) (hr : d.coreRuns = true)
    (ha : Dev.inDram a = true) (he : a + bs.length ≤ a / 4096 * 4096 + 4096) (hl : d.on GC_STATUS_PLLD_LOCK = true) (hw : d.dramWait = []) :
    writeBurst p a bs frs d = { d with mem := Memory.write d.mem a bs } := by
  have whole : min bs.length (regionEnd a - a) = bs.length := by rw [regionEnd_dram ha]; omega
  unfold writeBurst
  rw [inWindow_dram ha, if_pos rfl]
  dsimp only
  rw [whole, if_neg (Nat.lt_irrefl _), List.take_length]
  unfold memStore
  rw [List.isEmpty_eq_false_iff.2 hb, if_neg (by decide), hr, if_neg (by decide), ha, if_pos rfl, dramAccess_now _ d hl hw]
  unfold memRun
  dsimp only
  rw [List.isEmpty_eq_false_iff.2 hb, if_neg (by decide)]

theorem bytesToWords_ne_nil {bs : List Byte} (h : bs ≠ []) : bytesToWords bs ≠ [] := by
  match bs with
  | [] => exact absurd rfl h
  | [_] | [_, _] | [_, _, _] | _ :: _ :: _ :: _ :: _ => simp [bytesToWords]

/-- A read of a Gangway outside register space and the windows reads 0 and sets HOLE (R36, R39). -/
theorem readBurst_hole (n : Fin 2) (a k : Nat) (d : Dev) (hk : k ≠ 0) (hs : inRegisterSpace a = false) (hw : inWindow a = false) :
    (readBurst (gwPath n.val) a k d).out = d.out ++ List.replicate k 0 ∧ (readBurst (gwPath n.val) a k d).rd (GW_STATUS_HOLE n.val) = 1 ∧
    (readBurst (gwPath n.val) a k d).mem = d.mem := by
  have ended : ∀ c : Prop, [Decidable c] → (if c then d.pageEnd (gwPath n.val) else d).out = d.out ∧ (if c then d.pageEnd (gwPath n.val) else d).mem = d.mem := by
    intro c _
    split
    · match n with
      | 0 => exact ⟨rfl, rfl⟩
      | 1 => exact ⟨rfl, rfl⟩
    · exact ⟨rfl, rfl⟩
  unfold readBurst
  rw [if_neg hk, hw, if_neg (by decide), hs, if_pos (by decide)]
  dsimp only
  obtain ⟨eout, emem⟩ := ended ((regionEnd a - a / 4 * 4) / 4 < k)
  generalize (if (regionEnd a - a / 4 * 4) / 4 < k then d.pageEnd (gwPath n.val) else d) = e at eout emem ⊢
  obtain ⟨hout, hmem, -, hhole⟩ := hole_eff n e
  refine ⟨?_, ?_, ?_⟩
  · rw [give_out, hout, eout]
  · rw [give_hole, hhole]
  · rw [give_mem, hmem, emem]

theorem take1_q (d : Dev) (i j : Nat) (w : Word) : (d.take1 i w).q j = d.q j := by
  unfold Dev.take1
  split <;> rfl

theorem modQ_q (d : Dev) {i : Nat} (hi : i < 32) (f : Queue → Queue) : (d.modQ i f).q i = f (d.q i) := vget_vmod_same _ _ _ _ hi

/-- Words of the item at the head of a queue leave in order; its last takes it off the queue (R294). -/
theorem popWords_head (i : Nat) (hi : i < 32) (m : Nat) : ∀ (d : Dev) (e : Entry) (rest : List Entry), (d.q i).waiting = e :: rest → (d.q i).heldGap = none →
    (d.q i).popped + (m + 1) ≤ e.words.length →
    (popWords i (m + 1) d).1 = (e.words.drop (d.q i).popped).take (m + 1) ∧ (popWords i (m + 1) d).2.1 = 0 ∧
    (if (d.q i).popped + (m + 1) < e.words.length then
      ((popWords i (m + 1) d).2.2.q i).waiting = { e with begun := true } :: rest ∧ ((popWords i (m + 1) d).2.2.q i).popped = (d.q i).popped + (m + 1)
     else ((popWords i (m + 1) d).2.2.q i).waiting = rest ∧ ((popWords i (m + 1) d).2.2.q i).popped = 0) := by
  induction m with
  | zero =>
    intro d e rest hw hg hl
    have first : (e.words.drop (d.q i).popped).take 1 = [e.words.getD (d.q i).popped 0] := by
      rw [List.drop_eq_getElem_cons (by omega), List.take_succ_cons, List.take_zero, getD_of_lt (by omega)]
    rw [first]
    unfold popWords Queue.take
    rw [hw]
    dsimp only
    by_cases h : (d.q i).popped + 1 < e.words.length
    · rw [if_pos h, if_pos (show (d.q i).popped + (0 + 1) < e.words.length from h)]
      refine ⟨rfl, rfl, ?_, ?_⟩
      · show (Dev.q (Dev.take1 _ i _) i).waiting = _
        rw [take1_q, modQ_q _ hi]
      · show (Dev.q (Dev.take1 _ i _) i).popped = _
        rw [take1_q, modQ_q _ hi]
    · rw [if_neg h, if_neg (show ¬ (d.q i).popped + (0 + 1) < e.words.length from h)]
      refine ⟨rfl, rfl, ?_, ?_⟩
      · show (Dev.q (Dev.take1 _ i _) i).waiting = _
        rw [take1_q, modQ_q _ hi]
        unfold Queue.settle
        dsimp only
        rw [hg]
      · show (Dev.q (Dev.take1 _ i _) i).popped = _
        rw [take1_q, modQ_q _ hi]
        unfold Queue.settle
        dsimp only
        rw [hg]
  | succ m ih =>
    intro d e rest hw hg hl
    have step : popWords i (m + 1 + 1) d =
        (let d' := (d.modQ i fun _ => { d.q i with waiting := { e with begun := true } :: rest, popped := (d.q i).popped + 1 }).take1 i (e.words.getD (d.q i).popped 0)
         (e.words.getD (d.q i).popped 0 :: (popWords i (m + 1) d').1, (popWords i (m + 1) d').2.1, (popWords i (m + 1) d').2.2)) := by
      conv => lhs; unfold popWords Queue.take
      rw [hw]
      dsimp only
      rw [if_pos (by omega)]
    have head : ((d.modQ i fun _ => { d.q i with waiting := { e with begun := true } :: rest, popped := (d.q i).popped + 1 }).take1 i
        (e.words.getD (d.q i).popped 0)).q i = { d.q i with waiting := { e with begun := true } :: rest, popped := (d.q i).popped + 1 } := by
      rw [take1_q, modQ_q _ hi]
    have k := ih _ { e with begun := true } rest (congrArg Queue.waiting head) ((congrArg Queue.heldGap head).trans hg)
      (by rw [head]; show (d.q i).popped + 1 + (m + 1) ≤ e.words.length; omega)
    rw [step]
    rw [head] at k
    dsimp only at k ⊢
    have words : ({ e with begun := true } : Entry).words = e.words := rfl
    rw [words] at k
    obtain ⟨k1, k2, k3⟩ := k
    refine ⟨?_, k2, ?_⟩
    · rw [k1, List.drop_eq_getElem_cons (i := (d.q i).popped) (by omega), List.take_succ_cons, getD_of_lt (by omega)]
    · rw [show (d.q i).popped + (m + 1 + 1) = (d.q i).popped + 1 + (m + 1) by omega]
      exact k3

theorem popFrame_open (n : Nat) {i : Nat} (hi : i < 32) (f : Nat → Dev → Dev) {k : Nat} (hk : k ≠ 0) (d : Dev) (hb : d.blockRuns 0x20000 = true) :
    popFrame n i f k d = f k d := by
  unfold popFrame
  rw [if_neg hk, decide_eq_true hi, hb]
  rfl

/-- A POP_ITEM of the rest of the item at the head, and of words beyond it (R408). -/
theorem popItemBurst_head (p : Path) (i k : Nat) (d : Dev) (e : Entry) (rest : List Entry) (hc : d.isConsumer p i = true) (hw : (d.q i).waiting = e :: rest)
    (hk : e.words.length - (d.q i).popped ≤ k) (h0 : k ≠ 0) : popItemBurst p i k d =
      beyondItem p (k - (e.words.length - (d.q i).popped)) ((popWords i (e.words.length - (d.q i).popped) d).2.2.give p
        (popWords i (e.words.length - (d.q i).popped) d).1) := by
  unfold popItemBurst
  rw [if_neg h0, hc, if_neg (by decide), hw, if_pos (by rfl)]
  unfold popOneItem
  dsimp only
  rw [hw]
  dsimp only
  rw [Nat.min_eq_right hk]

theorem beyondItem_flags (n : Fin 2) (k : Nat) (d : Dev) (h : d.rd (GW_STATUS_CODE n.val) = 0) :
    (beyondItem (gwPath n.val) k d).rd (GW_STATUS_CODE n.val) = 0 ∧ (k ≠ 0 → (beyondItem (gwPath n.val) k d).rd (GW_STATUS_ITEM_END n.val) = 1) := by
  have shape : beyondItem (gwPath n.val) k d = (d.give (gwPath n.val) (List.replicate k 0)).raiseIf (k != 0) (GW_STATUS_ITEM_END n.val) := by
    unfold beyondItem
    dsimp only
    generalize d.give (gwPath n.val) (List.replicate k 0) = x
    obtain ⟨n, hn⟩ := n
    obtain rfl | rfl : n = 0 ∨ n = 1 := by omega
    · rfl
    · rfl
  rw [shape]
  refine ⟨?_, fun hk => ?_⟩
  · rw [Dev.rd_raiseIf_ne _ _ (by apply every_index _ n; decide)]
    by_cases hk : k = 0
    · rw [hk]
      exact h
    · exact give_code n _ d (by simp [hk])
  · rw [show (k != 0) = true by simpa using hk]
    exact Dev.rd_raise_same _ _

/-! Slave frames, opcode by opcode (R403 to R409). -/

theorem frameBegins_lq (n : Nat) (d : Dev) : (frameBegins n d).lq = d.lq := rfl
theorem wr_power (d : Dev) (f : Fld) (v : Nat) : (d.wr f v).power = d.power := rfl
theorem frameBegins_power (n : Nat) (d : Dev) : (frameBegins n d).power = d.power := rfl
theorem frameBegins_dramWait (n : Nat) (d : Dev) : (frameBegins n d).dramWait = d.dramWait := rfl

/-- What a slave frame that is counted finds, where nothing waits. -/
structure Dev.Counted (d : Dev) (n : Fin 2) (e : Dev) : Prop where
  out : e.out = []
  mem : e.mem = d.mem
  lq : e.lq = d.lq
  quiet : e.Quiet
  isOpen : e.pathOpen (gwPath n.val) = true
  rd : ∀ f : Fld, f.bit ≠ (GW_FRAMES_SLAVE n.val).bit → e.rd f = d.rd f
  frames : e.rd (GW_FRAMES_SLAVE n.val) = (d.rd (GW_FRAMES_SLAVE n.val) + 1) % 65536
  power : e.power = d.power

theorem framed_counted (d : Dev) (n : Fin 2) (hp : d.pathOpen (gwPath n.val) = true) (hq : d.Quiet) (hr : d.readWaits (gwPath n.val) = false) :
    d.Counted n (frameBegins n.val (d.framed n.val)) := by
  obtain ⟨hout, hmem, hlq, hpower, hregs⟩ := framed_eff d n hr
  have hrd : ∀ f : Fld, f.bit ≠ (GW_FRAMES_SLAVE n.val).bit → (frameBegins n.val (d.framed n.val)).rd f = d.rd f := fun f hf =>
    (frameBegins_rd n.val _ hf).trans (Dev.rd_of_regs hregs f)
  have lq := (frameBegins_lq n.val (d.framed n.val)).trans hlq
  have power := (frameBegins_power n.val (d.framed n.val)).trans hpower
  refine ⟨(frameBegins_out _ _).trans hout, (frameBegins_mem _ _).trans hmem, lq, quiet_of_lq (e := frameBegins n.val (d.framed n.val)) lq hq, ?_,
    hrd, ?_, power⟩
  · exact gwOpen_of n power (hrd _ (by apply every_index _ n; decide)) (hrd _ (by apply every_index _ n; decide)) (hrd _ (by apply every_index _ n; decide))
      (hrd _ (by apply every_index _ n; decide)) hp
  · exact (Dev.rd_wr_same (d.framed n.val) (GW_FRAMES_SLAVE n.val) _).trans (by rw [Dev.rd_of_regs hregs]; rfl)

theorem slave_write (s : State) (n : Fin 2) (hp : s.dev.pathOpen (gwPath n.val) = true) (hq : s.dev.Quiet) (h0 : (s.dev.gwp 0).held = [])
    (h1 : (s.dev.gwp 1).held = []) (hw : s.dev.writeWaits (gwPath n.val) = false) (hr : s.dev.readWaits (gwPath n.val) = false)
    (a : Word) (bits : Nat) (data : List Byte) (frs : List (Fin 24 × RxFrame)) :
    (Completes (.gwWrite n a 0 data frs) s fun d => d.rd (GW_STATUS_CODE n.val) = 1 ∧ d.mem = s.dev.mem ∧ d.out = []) ∧
    (bits ≠ 0 → bits % s.dev.rd (GW_CFG_UNIT n.val) ≠ 0 ∨ bits % (if Dev.inDram a.toNat || Dev.inMram a.toNat then 8 else 32) ≠ 0 →
      Completes (.gwWrite n a bits data frs) s fun d =>
      d.rd (GW_STATUS_CODE n.val) = 3 ∧ d.rd (GW_STATUS_FRAME_ODD n.val) = 1 ∧ d.mem = s.dev.mem ∧ d.out = []) ∧
    (8192 < bits → bits % s.dev.rd (GW_CFG_UNIT n.val) = 0 → bits % (if Dev.inDram a.toNat || Dev.inMram a.toNat then 8 else 32) = 0 →
      Completes (.gwWrite n a bits data frs) s fun d =>
      d.rd (GW_STATUS_CODE n.val) = 3 ∧ d.rd (GW_STATUS_LONG n.val) = 1 ∧ d.mem = s.dev.mem ∧ d.out = []) ∧
    (0 < bits → bits ≤ 8192 → bits % s.dev.rd (GW_CFG_UNIT n.val) = 0 → bits % 8 = 0 → Dev.inDram a.toNat = true →
      a.toNat + bits / 8 ≤ a.toNat / 4096 * 4096 + 4096 → s.dev.on GC_STATUS_PLLD_LOCK = true → s.dev.dramWait = [] →
      Completes (.gwWrite n a bits data frs) s fun d =>
      d.rd (GW_STATUS_CODE n.val) = 0 ∧ d.rd (GW_FRAMES_SLAVE n.val) = (s.dev.rd (GW_FRAMES_SLAVE n.val) + 1) % 65536 ∧
      d.mem = Memory.write s.dev.mem a.toNat (fitBytes (bits / 8) data) ∧ d.out = []) := by
  obtain ⟨yout, ymem, -, -, yregs⟩ := framed_eff s.dev n hr
  have unit : (s.dev.framed n.val).rd (GW_CFG_UNIT n.val) = s.dev.rd (GW_CFG_UNIT n.val) := Dev.rd_of_regs yregs _
  have x := framed_counted s.dev n hp hq hr
  have wait := dropReads_dramWait (gwPath n.val) s.dev.begun
  have frame : ∀ (bits : Nat) (P : Dev → Prop), P (writeFrame n.val a.toNat bits data frs (s.dev.framed n.val)) → Completes (.gwWrite n a bits data frs) s P :=
    fun bits P k => Completes.frame n (.write a bits data frs) rfl hp h0 h1 hw k
  change s.dev.dramWait = [] → (s.dev.framed n.val).dramWait = [] at wait
  generalize s.dev.framed n.val = y at yout ymem unit x wait frame
  obtain ⟨empty, odd, long, -⟩ := writeFrame_eff n a.toNat bits data frs y
  obtain ⟨emptyNow, -, -, -⟩ := writeFrame_eff n a.toNat 0 data frs y
  rw [unit, yout, ymem] at odd long
  rw [yout, ymem] at emptyNow
  refine ⟨frame _ _ (emptyNow rfl), fun hb h => frame _ _ (odd hb h), fun hb hu hg => frame _ _ (long hu hg hb), ?_⟩
  intro hb hmax hu hg ha he hl hd
  have granule : bits % (if Dev.inDram a.toNat || Dev.inMram a.toNat then 8 else 32) = 0 := by rw [ha]; exact hg
  have run := (writeFrame_eff n a.toNat bits data frs y).2.2.2 (by rw [unit]; exact hu) granule hb hmax
  have code := Dev.rd_wr_same (frameBegins n.val y) (GW_STATUS_CODE n.val) 0
  have frames : ((frameBegins n.val y).wr (GW_STATUS_CODE n.val) 0).rd (GW_FRAMES_SLAVE n.val) = (s.dev.rd (GW_FRAMES_SLAVE n.val) + 1) % 65536 :=
    (Dev.rd_wr_ne _ _ (by apply every_index _ n; decide)).trans x.frames
  have opens := gwOpen_of (d := frameBegins n.val y) (e := (frameBegins n.val y).wr (GW_STATUS_CODE n.val) 0) n (wr_power _ _ _) (Dev.rd_wr_ne _ _ (by apply every_index _ n; decide))
    (Dev.rd_wr_ne _ _ (by apply every_index _ n; decide)) (Dev.rd_wr_ne _ _ (by apply every_index _ n; decide)) (Dev.rd_wr_ne _ _ (by apply every_index _ n; decide)) x.isOpen
  have lock : ((frameBegins n.val y).wr (GW_STATUS_CODE n.val) 0).on GC_STATUS_PLLD_LOCK = true :=
    (Dev.on_of_rd ((Dev.rd_wr_ne _ _ (by apply every_index _ n; decide)).trans (x.rd _ (by apply every_index _ n; decide)))).trans hl
  have length : (fitBytes (bits / 8) data).length = bits / 8 := by simp [fitBytes, zeros]
  have bytes : fitBytes (bits / 8) data ≠ [] := by
    intro h
    rw [h, List.length_nil] at length
    omega
  refine frame _ _ ?_
  rw [run]
  have dram := (wait hd : y.dramWait = [])
  have xout := x.out
  have xmem := x.mem
  have xquiet := x.quiet
  have xdram := (frameBegins_dramWait n.val y).trans dram
  clear run x wait frame empty odd long emptyNow unit
  generalize frameBegins n.val y = e at *
  rw [busWrite_open n _ _ frs (e.wr (GW_STATUS_CODE n.val) 0) (quiet_of_lq (d := e) rfl xquiet) xout opens bytes,
    writeBurst_dram _ _ _ frs _ bytes (coreRuns_of_open n opens) ha (by rw [length]; exact he) lock xdram]
  exact ⟨code, frames, congrArg (fun m => Memory.write m a.toNat (fitBytes (bits / 8) data)) xmem, xout⟩

/-- The part that a register access of a Gangway meets where nothing goes on. -/
theorem met_still (n : Fin 2) (d : Dev) (hq : d.Quiet) (ho : d.out = []) : d.met (gwPath n.val) = d := by
  have still : ({ d with out := [] } : Dev) = d := by rw [← ho]
  rw [met_quiet hq]
  unfold Dev.accessed
  rw [still, gw_begins]

theorem wr_direction (n : Fin 2) (d : Dev) (w : Nat) (frs : List (Fin 24 × RxFrame)) (hq : d.Quiet) (ho : d.out = []) (hp : d.pathOpen (gwPath n.val) = true) :
    busWrite (gwPath n.val) 0x100 (leBytes 4 w) frs d = d.wr GC_GPIO_DIR_DIR (bits (w % 2 ^ 32) 31 0) := by
  have met := met_still n d hq ho
  have still : ({ d with out := [] } : Dev) = d := by rw [← ho]
  have runs : d.blockRuns 0 = true := by
    show (d.coreRuns && _) = true
    rw [coreRuns_of_open n hp]
    simp
  have reach : (d.met (gwPath n.val)).reaches (gwPath n.val) 0 = true := by
    rw [met]
    unfold Dev.reaches
    rw [hp, runs]
    rfl
  have k := register_writes (Dev.names_of (by decide) reach (by decide) (by decide) (by decide) (by decide) (gpioDir_hit _)) w frs (by decide) rfl
  rw [met, still] at k
  exact k

theorem slave_writesDirection (s : State) (n : Fin 2) (hp : s.dev.pathOpen (gwPath n.val) = true) (hq : s.dev.Quiet) (h0 : (s.dev.gwp 0).held = [])
    (h1 : (s.dev.gwp 1).held = []) (hw : s.dev.writeWaits (gwPath n.val) = false) (hr : s.dev.readWaits (gwPath n.val) = false)
    (w : Nat) (frs : List (Fin 24 × RxFrame)) (hu : 32 % s.dev.rd (GW_CFG_UNIT n.val) = 0) :
    Completes (.gwWrite n 0x100 32 (leBytes 4 w) frs) s fun d =>
      d.rd (GW_STATUS_CODE n.val) = 0 ∧ d.rd GC_GPIO_DIR_DIR = w % 2 ^ 32 ∧ d.mem = s.dev.mem := by
  obtain ⟨yout, ymem, -, -, yregs⟩ := framed_eff s.dev n hr
  have unit : (s.dev.framed n.val).rd (GW_CFG_UNIT n.val) = s.dev.rd (GW_CFG_UNIT n.val) := Dev.rd_of_regs yregs _
  have x := framed_counted s.dev n hp hq hr
  refine Completes.frame n (.write 0x100 32 (leBytes 4 w) frs) rfl hp h0 h1 hw ?_
  change (writeFrame n.val 0x100 32 (leBytes 4 w) frs (s.dev.framed n.val)).rd _ = _ ∧ _
  have run := (writeFrame_eff n 0x100 32 (leBytes 4 w) frs (s.dev.framed n.val)).2.2.2 (by rw [unit]; exact hu) (by decide) (by decide) (by decide)
  have data : fitBytes (32 / 8) (leBytes 4 w) = leBytes 4 w := by
    have hl := leBytes_length 4 w
    simp [fitBytes, hl]
  have opens := gwOpen_of (d := frameBegins n.val (s.dev.framed n.val)) (e := (frameBegins n.val (s.dev.framed n.val)).wr (GW_STATUS_CODE n.val) 0) n (wr_power _ _ _)
    (Dev.rd_wr_ne _ _ (by apply every_index _ n; decide)) (Dev.rd_wr_ne _ _ (by apply every_index _ n; decide)) (Dev.rd_wr_ne _ _ (by apply every_index _ n; decide))
    (Dev.rd_wr_ne _ _ (by apply every_index _ n; decide)) x.isOpen
  have xmem := x.mem
  have xout := x.out
  have xquiet := x.quiet
  rw [data] at run
  change (writeFrame n.val 0x100 32 (leBytes 4 w) frs (s.dev.framed n.val)).rd _ = _ ∧ (writeFrame n.val 0x100 32 (leBytes 4 w) frs (s.dev.framed n.val)).rd _ = _ ∧
    (writeFrame n.val 0x100 32 (leBytes 4 w) frs (s.dev.framed n.val)).mem = _
  rw [run]
  clear run x unit
  generalize frameBegins n.val (s.dev.framed n.val) = e at *
  rw [wr_direction n (e.wr (GW_STATUS_CODE n.val) 0) w frs (quiet_of_lq (d := e) rfl xquiet) xout opens]
  refine ⟨(Dev.rd_wr_ne _ _ (by apply every_index _ n; decide)).trans (Dev.rd_wr_same e (GW_STATUS_CODE n.val) 0), ?_, xmem⟩
  rw [Dev.rd_wr_same]
  unfold bits
  show w % 2 ^ 32 / 2 ^ 0 % 2 ^ 32 % 2 ^ 32 = _
  omega

theorem slave_read (s : State) (n : Fin 2) (hp : s.dev.pathOpen (gwPath n.val) = true) (hq : s.dev.Quiet) (h0 : (s.dev.gwp 0).held = [])
    (h1 : (s.dev.gwp 1).held = []) (hw : s.dev.writeWaits (gwPath n.val) = false) (hr : s.dev.readWaits (gwPath n.val) = false)
    (a : Word) (bits : Nat) (waited : Bool) :
    (bits < 32 → Completes (.gwRead n a bits waited) s fun d =>
      d.out = [] ∧ d.rd (GW_STATUS_CODE n.val) = 1 ∧ d.mem = s.dev.mem ∧ (bits ≠ 0 → d.rd (GW_STATUS_FRAME_ODD n.val) = 1)) ∧
    (32 ≤ bits → Dev.inDram a.toNat = true → a.toNat + 4 * (bits / 32) ≤ a.toNat / 4096 * 4096 + 4096 → s.dev.on GC_STATUS_PLLD_LOCK = true →
      s.dev.dramWait = [] → Completes (.gwRead n a bits waited) s fun d =>
      d.out = bytesToWords (Memory.read s.dev.mem a.toNat (4 * (bits / 32))) ∧ d.rd (GW_STATUS_CODE n.val) = 0 ∧ d.mem = s.dev.mem ∧
      (bits % 32 ≠ 0 → d.rd (GW_STATUS_FRAME_ODD n.val) = 1)) ∧
    (32 ≤ bits → inRegisterSpace a.toNat = false → inWindow a.toNat = false → Completes (.gwRead n a bits waited) s fun d =>
      d.out = List.replicate (bits / 32) 0 ∧ d.rd (GW_STATUS_HOLE n.val) = 1 ∧ d.mem = s.dev.mem) := by
  obtain ⟨yout, ymem, -, -, yregs⟩ := framed_eff s.dev n hr
  have x := framed_counted s.dev n hp hq hr
  have wait : s.dev.dramWait = [] → (s.dev.framed n.val).dramWait = [] := fun h => dropReads_dramWait (gwPath n.val) s.dev.begun h
  have frame : ∀ (P : Dev → Prop), P (readFrame n.val bits waited (busRead (gwPath n.val) a.toNat) (s.dev.framed n.val)) → Completes (.gwRead n a bits waited) s P :=
    fun P k => Completes.frame n (.read a bits waited) rfl hp h0 h1 hw k
  obtain ⟨kout, kmem, -, kodd, khole, kcode⟩ := readFrame_any n bits waited (busRead (gwPath n.val) a.toNat) (s.dev.framed n.val) yout
  have xout := x.out
  have xmem := x.mem
  have xquiet := x.quiet
  have xopen := x.isOpen
  have lock : s.dev.on GC_STATUS_PLLD_LOCK = true → (frameBegins n.val (s.dev.framed n.val)).on GC_STATUS_PLLD_LOCK = true := fun h =>
    (Dev.on_of_rd (x.rd _ (by apply every_index _ n; decide))).trans h
  have dram : s.dev.dramWait = [] → (frameBegins n.val (s.dev.framed n.val)).dramWait = [] := fun h => (frameBegins_dramWait _ _).trans (wait h)
  clear x wait
  generalize readFrame n.val bits waited (busRead (gwPath n.val) a.toNat) (s.dev.framed n.val) = r at *
  generalize frameBegins n.val (s.dev.framed n.val) = e at *
  refine ⟨fun hb => frame _ ?_, fun hb ha he hl hd => frame _ ?_, fun hb hs hwin => frame _ ?_⟩
  · rw [show bits / 32 = 0 by omega, busRead_none n _ e xquiet xout] at kout kmem kcode
    rw [xout, if_pos rfl] at kcode
    exact ⟨kout.trans xout, kcode, kmem.trans xmem, fun h => kodd (by omega)⟩
  · rw [busRead_open n _ _ e xquiet xout xopen, readBurst_dram _ _ _ e (by omega) (coreRuns_of_open n xopen) ha he (lock hl) (dram hd)] at kout kmem kcode
    have words : bytesToWords (Memory.read e.mem a.toNat (4 * (bits / 32))) ≠ [] := by
      refine bytesToWords_ne_nil fun h => ?_
      have hlen := Memory.read_length e.mem a.toNat (4 * (bits / 32))
      rw [h, List.length_nil] at hlen
      omega
    rw [give_out, xout, List.nil_append] at kout kcode
    rw [if_neg words, give_code n _ _ words] at kcode
    rw [xmem] at kout
    exact ⟨kout, kcode, kmem.trans ((give_mem _ _ _).trans xmem), kodd⟩
  · obtain ⟨hout, hhole, hmem⟩ := readBurst_hole n a.toNat (bits / 32) e (by omega) hs hwin
    rw [busRead_open n _ _ e xquiet xout xopen] at kout kmem khole
    rw [xout, List.nil_append] at hout
    exact ⟨kout.trans hout, khole.trans hhole, kmem.trans (hmem.trans xmem)⟩

theorem runFrame_pop (n : Nat) (q : Word) (bits : Nat) (waited : Bool) (d : Dev) :
    runFrame n (.pop q bits waited) d = readFrame n bits waited (popFrame n q.toNat (popBurst (gwPath n) q.toNat)) d := rfl
theorem runFrame_popItem (n : Nat) (q : Word) (bits : Nat) (waited : Bool) (d : Dev) :
    runFrame n (.popItem q bits waited) d = readFrame n bits waited (popFrame n q.toNat (popItemBurst (gwPath n) q.toNat)) d := rfl
theorem runFrame_status (n bits : Nat) (d : Dev) : runFrame n (.status bits) d = readFrame n bits false (ownWords n [d.shown (gwBase n + 0x14)]) d := rfl
theorem runFrame_id (n bits : Nat) (d : Dev) : runFrame n (.id bits) d = readFrame n bits false (ownWords n ([0, 0x10, 0x14, 0x18, 0x1C].map d.shown)) d := rfl
theorem runFrame_modeReset (n : Nat) (d : Dev) :
    runFrame n .modeReset d = ((d.wr (GW_CFG_LANES n) 0).wr (GW_CFG_DDR n) 0).raise (GW_STATUS_MODE_RESET_SEEN n) := rfl
theorem runFrame_badOp (n : Nat) (d : Dev) : runFrame n .badOp d = (d.raise (GW_STATUS_BAD_OP n)).wr (GW_STATUS_CODE n) 0x10 := rfl

theorem Dev.Counted.queue {d e : Dev} {n : Fin 2} (x : d.Counted n e) (i : Nat) : e.q i = d.q i := congrArg (fun l => vget l i Queue.empty) x.lq

theorem Dev.Counted.runs {d e : Dev} {n : Fin 2} (x : d.Counted n e) (h : d.blockRuns 0x20000 = true) : e.blockRuns 0x20000 = true := by
  have runs := coreRuns_of x.power (x.rd PW_STATE_CUR (by apply every_index _ n; decide)) (x.rd GC_STATUS_PLLA_LOCK (by apply every_index _ n; decide))
  have bare : e.on GC_BOOT_BARE = d.on GC_BOOT_BARE := Dev.on_of_rd (x.rd _ (by apply every_index _ n; decide))
  unfold Dev.blockRuns at h ⊢
  rw [runs, bare]
  exact h

theorem Dev.Counted.consumer {d e : Dev} {n : Fin 2} (x : d.Counted n e) (p : Path) (i : Fin 32) : e.isConsumer p i.val = d.isConsumer p i.val := by
  have host : e.qHost i.val = d.qHost i.val := Dev.on_of_rd (x.rd _ (by apply every_pair _ i n; decide))
  unfold Dev.isConsumer
  rw [host]

theorem queueWord (i : Fin 32) : (nw i.val).toNat = i.val := by
  have := i.isLt
  simp only [nw, BitVec.toNat_ofNat]
  omega

theorem q_of_lq {d e : Dev} (h : e.lq = d.lq) (i : Nat) : e.q i = d.q i := congrArg (fun l => vget l i Queue.empty) h

theorem slave_pop (s : State) (n : Fin 2) (hp : s.dev.pathOpen (gwPath n.val) = true) (hq : s.dev.Quiet) (h0 : (s.dev.gwp 0).held = [])
    (h1 : (s.dev.gwp 1).held = []) (hw : s.dev.writeWaits (gwPath n.val) = false) (hr : s.dev.readWaits (gwPath n.val) = false)
    (hb : s.dev.blockRuns 0x20000 = true) (i : Fin 32) (hc : s.dev.isConsumer (gwPath n.val) i.val = true) (hg : (s.dev.q i.val).heldGap = none)
    (e : Entry) (rest : List Entry) (waited : Bool) (he : (s.dev.q i.val).waiting = e :: rest) (hl : (s.dev.q i.val).popped < e.words.length) :
    (Completes (.gwPop n (nw i.val) 32 waited) s fun d =>
      d.out = [e.words.getD (s.dev.q i.val).popped 0] ∧ d.rd (GW_STATUS_CODE n.val) = 0 ∧ d.mem = s.dev.mem ∧
      if (s.dev.q i.val).popped + 1 < e.words.length then
        (d.q i.val).waiting = { e with begun := true } :: rest ∧ (d.q i.val).popped = (s.dev.q i.val).popped + 1
      else (d.q i.val).waiting = rest ∧ (d.q i.val).popped = 0) ∧
    (∀ k, e.words.length - (s.dev.q i.val).popped ≤ k → Completes (.gwPopItem n (nw i.val) (32 * k) waited) s fun d =>
      d.out = e.words.drop (s.dev.q i.val).popped ++ List.replicate (k - (e.words.length - (s.dev.q i.val).popped)) 0 ∧ (d.q i.val).waiting = rest ∧
      (d.q i.val).popped = 0 ∧ (e.words.length - (s.dev.q i.val).popped < k → d.rd (GW_STATUS_ITEM_END n.val) = 1) ∧
      d.rd (GW_STATUS_CODE n.val) = 0 ∧ d.mem = s.dev.mem) := by
  obtain ⟨yout, -, -, -, -⟩ := framed_eff s.dev n hr
  have x := framed_counted s.dev n hp hq hr
  have runs := x.runs hb
  have consumer := (x.consumer (gwPath n.val) i).trans hc
  have queue := x.queue i.val
  have xout := x.out
  have xmem := x.mem
  clear x
  refine ⟨?_, fun k hk => ?_⟩
  · refine Completes.frame n (.pop (nw i.val) 32 waited) rfl hp h0 h1 hw ?_
    rw [runFrame_pop, queueWord]
    obtain ⟨kout, kmem, klq, -, -, kcode⟩ := readFrame_any n 32 waited (popFrame n.val i.val (popBurst (gwPath n.val) i.val)) (s.dev.framed n.val) yout
    generalize readFrame n.val 32 waited (popFrame n.val i.val (popBurst (gwPath n.val) i.val)) (s.dev.framed n.val) = r at *
    generalize frameBegins n.val (s.dev.framed n.val) = y at *
    obtain ⟨words, left, after⟩ := popWords_head i.val i.isLt 0 y e rest (by rw [queue]; exact he) (by rw [queue]; exact hg) (by rw [queue]; omega)
    rw [show 32 / 32 = 1 from rfl, popFrame_open n.val i.isLt _ (by decide) y runs, popBurst_all _ _ _ _ (by decide) consumer left] at kout kmem klq kcode
    have pmem := popWords_mem i.val 1 y
    have pout := popWords_out i.val 1 y
    rw [queue] at words after
    have one : (popWords i.val 1 y).1 = [e.words.getD (s.dev.q i.val).popped 0] := by
      rw [words, List.drop_eq_getElem_cons (by omega), List.take_succ_cons, List.take_zero, getD_of_lt (by omega)]
    rw [give_out, one, pout, xout, List.nil_append] at kout kcode
    have qr : r.q i.val = (popWords i.val 1 y).2.2.q i.val := q_of_lq (klq.trans (give_lq _ _ _)) i.val
    refine ⟨kout, ?_, kmem.trans ((give_mem _ _ _).trans (pmem.trans xmem)), ?_⟩
    · rw [kcode, if_neg (by simp)]
      exact give_code n _ _ (by simp)
    · rw [qr]
      exact after
  · refine Completes.frame n (.popItem (nw i.val) (32 * k) waited) rfl hp h0 h1 hw ?_
    rw [runFrame_popItem, queueWord]
    obtain ⟨kout, kmem, klq, -, -, kcode⟩ := readFrame_any n (32 * k) waited (popFrame n.val i.val (popItemBurst (gwPath n.val) i.val)) (s.dev.framed n.val) yout
    have kend := readFrame_itemEnd n (32 * k) waited (popFrame n.val i.val (popItemBurst (gwPath n.val) i.val)) (s.dev.framed n.val)
    generalize readFrame n.val (32 * k) waited (popFrame n.val i.val (popItemBurst (gwPath n.val) i.val)) (s.dev.framed n.val) = r at *
    generalize frameBegins n.val (s.dev.framed n.val) = y at *
    obtain ⟨m, hm⟩ : ∃ m, e.words.length - (s.dev.q i.val).popped = m + 1 := ⟨e.words.length - (s.dev.q i.val).popped - 1, by omega⟩
    obtain ⟨words, -, after⟩ := popWords_head i.val i.isLt m y e rest (by rw [queue]; exact he) (by rw [queue]; exact hg) (by rw [queue]; omega)
    rw [show 32 * k / 32 = k by omega, popFrame_open n.val i.isLt _ (by omega) y runs,
      popItemBurst_head _ _ _ y e rest consumer (by rw [queue]; exact he) (by rw [queue]; exact hk) (by omega), queue, hm] at kout kmem klq kcode kend
    rw [queue] at words after
    have pmem := popWords_mem i.val (m + 1) y
    have pout := popWords_out i.val (m + 1) y
    rw [if_neg (by omega)] at after
    have all : (popWords i.val (m + 1) y).1 = e.words.drop (s.dev.q i.val).popped := by
      rw [words, ← hm]
      exact List.take_of_length_le (Nat.le_of_eq List.length_drop)
    have some_ : (popWords i.val (m + 1) y).1 ≠ [] := by
      intro h
      rw [all] at h
      have := congrArg List.length h
      rw [List.length_drop, List.length_nil] at this
      omega
    have code := give_code n (popWords i.val (m + 1) y).1 (popWords i.val (m + 1) y).2.2 some_
    obtain ⟨bout, blq, bmem⟩ := beyondItem_eff (gwPath n.val) (k - (m + 1)) ((popWords i.val (m + 1) y).2.2.give (gwPath n.val) (popWords i.val (m + 1) y).1)
    obtain ⟨bcode, bend⟩ := beyondItem_flags n (k - (m + 1)) _ code
    rw [give_out, pout, xout, List.nil_append] at bout
    have qr : r.q i.val = (popWords i.val (m + 1) y).2.2.q i.val := q_of_lq (klq.trans (blq.trans (give_lq _ _ _))) i.val
    rw [hm]
    refine ⟨?_, ?_, ?_, fun h => kend.trans (bend (by omega)), ?_, kmem.trans (bmem.trans ((give_mem _ _ _).trans (pmem.trans xmem)))⟩
    · rw [kout, bout, all]
    · rw [qr]
      exact after.1
    · rw [qr]
      exact after.2
    · rw [kcode, if_neg (by rw [bout]; simp [some_])]
      exact bcode

theorem slave_popsNone (s : State) (n : Fin 2) (hp : s.dev.pathOpen (gwPath n.val) = true) (h0 : (s.dev.gwp 0).held = [])
    (h1 : (s.dev.gwp 1).held = []) (hw : s.dev.writeWaits (gwPath n.val) = false) (hr : s.dev.readWaits (gwPath n.val) = false)
    (q : Word) (k : Nat) (waited : Bool) (hq : 32 ≤ q.toNat) (hk : 0 < k) :
    (Completes (.gwPop n q (32 * k) waited) s fun d => d.out = List.replicate k 0 ∧ d.rd (GW_STATUS_HOLE n.val) = 1 ∧ d.lq = s.dev.lq ∧ d.mem = s.dev.mem) ∧
    (Completes (.gwPopItem n q (32 * k) waited) s fun d =>
      d.out = List.replicate k 0 ∧ d.rd (GW_STATUS_HOLE n.val) = 1 ∧ d.lq = s.dev.lq ∧ d.mem = s.dev.mem) := by
  obtain ⟨yout, ymem, ylq, -, -⟩ := framed_eff s.dev n hr
  have none_ : ∀ f : Nat → Dev → Dev, (fun r : Dev => r.out = List.replicate k 0 ∧ r.rd (GW_STATUS_HOLE n.val) = 1 ∧ r.lq = s.dev.lq ∧ r.mem = s.dev.mem)
      (readFrame n.val (32 * k) waited (popFrame n.val q.toNat f) (s.dev.framed n.val)) := by
    intro f
    obtain ⟨kout, khole, klq, kmem⟩ := popFrame_none n q.toNat (32 * k) f (s.dev.framed n.val) yout hq (by omega)
    obtain ⟨wout, wmem, wlq, wrd⟩ := readFrame_waited n (32 * k) (popFrame n.val q.toNat f) (s.dev.framed n.val) waited
    rw [show 32 * k / 32 = k by omega] at kout
    exact ⟨wout.trans kout, (wrd _ (by apply every_index _ n; decide)).trans khole, wlq.trans (klq.trans ylq), wmem.trans (kmem.trans ymem)⟩
  exact ⟨Completes.frame n (.pop q (32 * k) waited) rfl hp h0 h1 hw (none_ _), Completes.frame n (.popItem q (32 * k) waited) rfl hp h0 h1 hw (none_ _)⟩

theorem ownWords_lq (n : Nat) (ws : List Word) (k : Nat) (d : Dev) : (ownWords n ws k d).lq = d.lq := give_lq _ _ _

/-- A frame of as many words as the port holds for it. -/
theorem ownFrame_whole (n : Fin 2) (bits : Nat) (ws : List Word) (d : Dev) (ho : d.out = []) (h : ws ≠ []) (hb : bits / 32 = ws.length) :
    (readFrame n.val bits false (ownWords n.val ws) d).out = ws ∧ (readFrame n.val bits false (ownWords n.val ws) d).rd (GW_STATUS_CODE n.val) = 0 ∧
    (readFrame n.val bits false (ownWords n.val ws) d).lq = d.lq ∧ (readFrame n.val bits false (ownWords n.val ws) d).mem = d.mem := by
  obtain ⟨kout, kmem, klq, -, -, kcode⟩ := readFrame_any n bits false (ownWords n.val ws) d ho
  rw [hb] at kout kmem klq kcode
  rw [ownWords_out, frameBegins_out, ho, List.nil_append, List.take_left] at kout kcode
  rw [if_neg h] at kcode
  refine ⟨kout, kcode.trans (give_code n _ _ ?_), klq.trans ((ownWords_lq _ _ _ _).trans (frameBegins_lq _ _)),
    kmem.trans ((ownWords_mem _ _ _ _).trans (frameBegins_mem _ _))⟩
  rw [List.take_left]
  exact h

theorem gwStatus_plain (d : Dev) (n : Fin 2) : plainAt d (gwBase n.val + 0x14) = true := by
  have first : plainAt d 0x5014 = true := rfl
  have second : plainAt d 0x5814 = true := rfl
  have base : gwBase n.val + 0x14 = 0x5014 ∨ gwBase n.val + 0x14 = 0x5814 := by apply every_index _ n; decide
  rcases base with h | h
  · rw [h]
    exact first
  · rw [h]
    exact second

theorem id_plain (d : Dev) (a : Nat) (h : a ∈ [0, 0x10, 0x14, 0x18, 0x1C]) : plainAt d a = true := by
  have k0 : plainAt d 0 = true := rfl
  have k1 : plainAt d 0x10 = true := rfl
  have k2 : plainAt d 0x14 = true := rfl
  have k3 : plainAt d 0x18 = true := rfl
  have k4 : plainAt d 0x1C = true := rfl
  simp only [List.mem_cons, List.not_mem_nil, or_false] at h
  rcases h with rfl | rfl | rfl | rfl | rfl
  · exact k0
  · exact k1
  · exact k2
  · exact k3
  · exact k4

theorem slave_answers (s : State) (n : Fin 2) (hp : s.dev.pathOpen (gwPath n.val) = true) (h0 : (s.dev.gwp 0).held = [])
    (h1 : (s.dev.gwp 1).held = []) (hw : s.dev.writeWaits (gwPath n.val) = false) (hr : s.dev.readWaits (gwPath n.val) = false) :
    (Completes (.gwStatus n 32) s fun d => d.out = [s.dev.shown (gwBase n.val + 0x14)] ∧ d.rd (GW_STATUS_CODE n.val) = 0 ∧ d.lq = s.dev.lq ∧ d.mem =
        s.dev.mem) ∧
    (Completes (.gwId n 160) s fun d =>
      d.out = [s.dev.shown 0, s.dev.shown 0x10, s.dev.shown 0x14, s.dev.shown 0x18, s.dev.shown 0x1C] ∧ d.rd (GW_STATUS_CODE n.val) = 0 ∧
      d.lq = s.dev.lq ∧ d.mem = s.dev.mem) := by
  obtain ⟨yout, ymem, ylq, -, yregs⟩ := framed_eff s.dev n hr
  have status : (s.dev.framed n.val).shown (gwBase n.val + 0x14) = s.dev.shown (gwBase n.val + 0x14) := by
    have below : gwBase n.val + 0x14 < 0x70100 := by apply every_index _ n; decide
    exact shown_of_regs yregs below fun x => gwStatus_plain x n
  have ids : [0, 0x10, 0x14, 0x18, 0x1C].map (s.dev.framed n.val).shown = [0, 0x10, 0x14, 0x18, 0x1C].map s.dev.shown := by
    refine List.map_congr_left fun a ha => ?_
    have below : a < 0x70100 := by
      simp only [List.mem_cons, List.not_mem_nil, or_false] at ha
      omega
    exact shown_of_regs yregs below fun x => id_plain x a ha
  refine ⟨Completes.frame n (.status 32) rfl hp h0 h1 hw ?_, Completes.frame n (.id 160) rfl hp h0 h1 hw ?_⟩
  · rw [runFrame_status, status]
    generalize s.dev.framed n.val = y at yout ymem ylq ⊢
    obtain ⟨kout, kcode, klq, kmem⟩ := ownFrame_whole n 32 [s.dev.shown (gwBase n.val + 0x14)] y yout (List.cons_ne_nil _ _) rfl
    exact ⟨kout, kcode, klq.trans ylq, kmem.trans ymem⟩
  · rw [runFrame_id, ids]
    generalize s.dev.framed n.val = y at yout ymem ylq ⊢
    obtain ⟨kout, kcode, klq, kmem⟩ := ownFrame_whole n 160 ([0, 0x10, 0x14, 0x18, 0x1C].map s.dev.shown) y yout (List.cons_ne_nil _ _) rfl
    exact ⟨kout, kcode, klq.trans ylq, kmem.trans ymem⟩

theorem slave_modes (s : State) (n : Fin 2) (hp : s.dev.pathOpen (gwPath n.val) = true) (h0 : (s.dev.gwp 0).held = [])
    (h1 : (s.dev.gwp 1).held = []) (hw : s.dev.writeWaits (gwPath n.val) = false) (hr : s.dev.readWaits (gwPath n.val) = false) :
    (Completes (.modeReset n) s fun d =>
      d.rd (GW_CFG_LANES n.val) = 0 ∧ d.rd (GW_CFG_DDR n.val) = 0 ∧ d.rd (GW_STATUS_MODE_RESET_SEEN n.val) = 1 ∧
      d.rd (GW_STATUS_CODE n.val) = s.dev.rd (GW_STATUS_CODE n.val) ∧ d.lq = s.dev.lq ∧ d.mem = s.dev.mem) ∧
    (Completes (.badOp n) s fun d =>
      d.rd (GW_STATUS_BAD_OP n.val) = 1 ∧ d.rd (GW_STATUS_CODE n.val) = 0x10 ∧ d.lq = s.dev.lq ∧ d.mem = s.dev.mem) := by
  obtain ⟨-, ymem, ylq, -, yregs⟩ := framed_eff s.dev n hr
  have yrd := fun f => Dev.rd_of_regs yregs f
  refine ⟨Completes.frame n .modeReset rfl hp h0 h1 hw ?_, Completes.frame n .badOp rfl hp h0 h1 hw ?_⟩
  · rw [runFrame_modeReset]
    generalize s.dev.framed n.val = y at *
    refine ⟨?_, ?_, Dev.rd_raise_same _ _, ?_, ylq, ymem⟩
    · rw [Dev.rd_raise_ne _ (by apply every_index _ n; decide), Dev.rd_wr_ne _ _ (by apply every_index _ n; decide)]
      exact Dev.rd_wr_same y (GW_CFG_LANES n.val) 0
    · rw [Dev.rd_raise_ne _ (by apply every_index _ n; decide)]
      exact Dev.rd_wr_same _ (GW_CFG_DDR n.val) 0
    · rw [Dev.rd_raise_ne _ (by apply every_index _ n; decide), Dev.rd_wr_ne _ _ (by apply every_index _ n; decide), Dev.rd_wr_ne _ _ (by apply every_index _ n; decide)]
      exact yrd _
  · rw [runFrame_badOp]
    generalize s.dev.framed n.val = y at *
    exact ⟨(Dev.rd_wr_ne _ _ (by apply every_index _ n; decide)).trans (Dev.rd_raise_same _ _), Dev.rd_wr_same _ (GW_STATUS_CODE n.val) 0x10, ylq, ymem⟩

/-- Settles O51: on a port where nothing waits, each frame runs at once, opcode by opcode. -/
theorem slaveFrames : Obligations.SlaveFrames := by
  intro s n hp hq h0 h1 hw hr
  refine ⟨fun a bits data frs => slave_write s n hp hq h0 h1 hw hr a bits data frs, fun w frs hu => slave_writesDirection s n hp hq h0 h1 hw hr w frs hu,
    fun a bits waited => slave_read s n hp hq h0 h1 hw hr a bits waited, fun hb i q => ?_, fun q k waited hq hk => slave_popsNone s n hp h0 h1 hw hr q k waited hq hk,
    (slave_answers s n hp h0 h1 hw hr).1, (slave_answers s n hp h0 h1 hw hr).2, slave_modes s n hp h0 h1 hw hr⟩
  rintro rfl hc hg e rest waited he
  exact ⟨fun hl => (slave_pop s n hp hq h0 h1 hw hr hb i hc hg e rest waited he hl).1,
    fun hl => (slave_pop s n hp hq h0 h1 hw hr hb i hc hg e rest waited he hl).2⟩

end Sys2Proof.Machine
end

section
/-!
The Gangway as master, and execute in place: what the prepared facts leave open, and O52.
-/

namespace Sys2Proof.Machine

theorem accessed_gw (d : Dev) (p : Path) : (d.accessed p).gw = d.gw := Dev.beginAccess_gw _ p
theorem accessed_xipSelect (d : Dev) (p : Path) (n c : Nat) : (d.accessed p).xipSelect n c = d.xipSelect n c := by
  unfold Dev.xipSelect
  rw [accessed_on, accessed_rd]

/-- A master command while another is in progress is refused (R411). -/
theorem masterCommand_busy (p : Path) (n : Nat) (w : Word) (d : Dev) (ha : bits w.toNat 28 26 ≤ 4) (hc : (d.gwp n).cmd ≠ none) :
    masterCommand p n w d = d.accessError (gwBase n) p true (gwBase n + 0x100) ⟨false, true, false⟩ := by
  have hs : (d.gwp n).cmd.isSome = true := Option.isSome_iff_ne_none.mpr hc
  unfold masterCommand
  dsimp only
  rw [hs, decide_eq_false (by omega : ¬ 4 < bits w.toNat 28 26), if_pos (by decide)]

/-- A master command whose length is no multiple of the unit fails, and its data is dropped (R411). -/
theorem masterCommand_odd (p : Path) (n : Nat) (w : Word) (d : Dev) (ha : bits w.toNat 28 26 ≤ 4) (hm : d.on (GW_CFG_ROLE n) = true) (hc : (d.gwp n).cmd = none)
    (hu : d.rd (GW_MLEN_DLEN n) % d.rd (GW_CS_CFG_UNIT n (bits w.toNat 31 30)) ≠ 0) :
    masterCommand p n w d = ((d.raise (GW_STATUS_FRAME_ODD n)).wr (GW_MSTATUS_CODE n) cRANGE).modGw n fun g => { g with mdata := [] } := by
  unfold masterCommand
  dsimp only
  rw [hc, hm, decide_eq_false (by omega : ¬ 4 < bits w.toNat 28 26), if_neg (by decide), if_neg (by decide), if_pos hu]

theorem masterCommand_starts (s : State) (n : Fin 2) (p : Path) (hr : s.dev.reaches p (gwBase n.val) = true) (w : Word)
    (hm : s.dev.on (GW_CFG_ROLE n.val) = true) (hc : (s.dev.gwp n.val).cmd = none) (ha : bits w.toNat 28 26 ≤ 4)
    (hu : s.dev.rd (GW_MLEN_DLEN n.val) % s.dev.rd (GW_CS_CFG_UNIT n.val (bits w.toNat 31 30)) = 0)
    (hl : masterWords (s.dev.rd (GW_CS_CFG_UNIT n.val (bits w.toNat 31 30))) (s.dev.rd (GW_MLEN_DLEN n.val)) ≤ 256)
    (hw : bit w.toNat 29 = false →
      (s.dev.gwp n.val).mdata.length = masterWords (s.dev.rd (GW_CS_CFG_UNIT n.val (bits w.toNat 31 30))) (s.dev.rd (GW_MLEN_DLEN n.val)))
    (hf : (s.dev.gwp n.val).fill = []) (hx : s.dev.xipSelect n.val (bits w.toNat 31 30) = false) : Completes (.masterCommand p n w) s fun d =>
      (d.gwp n.val).cmd = some ⟨bits w.toNat 31 30, if bit w.toNat 25 then none else some (bits w.toNat 7 0),
        beBytes (bits w.toNat 28 26) (s.dev.rd (GW_MADDR_ADDR n.val)), none, if s.dev.rd (GW_MLEN_DLEN n.val) = 0 then 0 else bits w.toNat 24 20,
        bit w.toNat 29, s.dev.rd (GW_MLEN_DLEN n.val), if bit w.toNat 29 then [] else (s.dev.gwp n.val).mdata⟩ ∧
      (d.gwp n.val).frame = (d.gwp n.val).cmd ∧ (d.gwp n.val).started = true ∧ (d.gwp n.val).mdata = [] ∧
      d.rd (GW_FRAMES_MASTER n.val) = (s.dev.rd (GW_FRAMES_MASTER n.val) + 1) % 65536 ∧ d.mem = s.dev.mem := by
  refine Completes.ofPort (masterCommand p n.val w) rfl hr ?_
  have e := masterCommand_eff p n.val w (s.dev.accessed p) n.isLt ((accessed_on _ p _).trans hm) (by rw [accessed_gwp]; exact hc) (by rw [accessed_gwp]; exact hf)
    ha ((accessed_xipSelect _ p _ _).trans hx) (by rw [accessed_rd, accessed_rd]; exact hu) (by rw [accessed_rd, accessed_rd]; exact hl)
    (by rw [accessed_rd, accessed_rd, accessed_gwp]; exact hw)
  rw [accessed_rd, accessed_rd, accessed_rd, accessed_gwp, Dev.accessed_mem] at e
  obtain ⟨e1, e2, e3, e4, e5, e6⟩ := e
  exact ⟨e1, e2.trans e1.symm, e3, e4, e5, e6⟩

theorem masterCommand_refused (s : State) (n : Fin 2) (p : Path) (hr : s.dev.reaches p (gwBase n.val) = true) (w : Word) (ha : bits w.toNat 28 26 ≤ 4)
    (hc : (s.dev.gwp n.val).cmd ≠ none) : Completes (.masterCommand p n w) s fun d =>
      d.rd (ERR_LOCKED (gwBase n.val)) = 1 ∧ d.gw = s.dev.gw ∧ d.mem = s.dev.mem := by
  refine Completes.ofPort (masterCommand p n.val w) rfl hr ?_
  rw [masterCommand_busy p n.val w _ ha (by rw [accessed_gwp]; exact hc)]
  have c := (s.dev.accessed p).accessError_changes (gwBase n.val) p true (gwBase n.val + 0x100) ⟨false, true, false⟩
  exact ⟨((s.dev.accessed p).accessError_flags (gwBase n.val) p true _ ⟨false, true, false⟩).2.1 rfl, (c.parts .gw (by decide)).trans (accessed_gw _ p),
    (c.parts .mem (by decide)).trans (Dev.accessed_mem _ p)⟩

theorem masterCommand_fails (s : State) (n : Fin 2) (p : Path) (hr : s.dev.reaches p (gwBase n.val) = true) (w : Word)
    (hm : s.dev.on (GW_CFG_ROLE n.val) = true) (ha : bits w.toNat 28 26 ≤ 4) (hc : (s.dev.gwp n.val).cmd = none)
    (hu : s.dev.rd (GW_MLEN_DLEN n.val) % s.dev.rd (GW_CS_CFG_UNIT n.val (bits w.toNat 31 30)) ≠ 0) : Completes (.masterCommand p n w) s fun d =>
      d.rd (GW_MSTATUS_CODE n.val) = 3 ∧ d.rd (GW_STATUS_FRAME_ODD n.val) = 1 ∧ (d.gwp n.val).cmd = none ∧ (d.gwp n.val).mdata = [] ∧
      (d.gwp n.val).frame = (s.dev.gwp n.val).frame ∧ d.mem = s.dev.mem := by
  refine Completes.ofPort (masterCommand p n.val w) rfl hr ?_
  have hg := accessed_gwp s.dev p n.val
  have hmem := Dev.accessed_mem s.dev p
  have hu' : (s.dev.accessed p).rd (GW_MLEN_DLEN n.val) % (s.dev.accessed p).rd (GW_CS_CFG_UNIT n.val (bits w.toNat 31 30)) ≠ 0 := by
    rw [accessed_rd, accessed_rd]; exact hu
  rw [masterCommand_odd p n.val w _ ha ((accessed_on _ p _).trans hm) (by rw [hg]; exact hc) hu']
  generalize s.dev.accessed p = a at hg hmem ⊢
  refine ⟨Dev.rd_wr_same (a.raise (GW_STATUS_FRAME_ODD n.val)) (GW_MSTATUS_CODE n.val) cRANGE,
    (Dev.rd_wr_ne (f := GW_STATUS_FRAME_ODD n.val) (g := GW_MSTATUS_CODE n.val) (a.raise (GW_STATUS_FRAME_ODD n.val)) cRANGE (by apply every_index _ n; decide)).trans (Dev.rd_raise_same a (GW_STATUS_FRAME_ODD n.val)), ?_, ?_, ?_, hmem⟩
  all_goals rw [gwp_modGw n.val _ _ n.isLt]
  · exact (congrArg GwPort.cmd hg).trans hc
  · exact (congrArg GwPort.frame (a₁ := ((a.raise (GW_STATUS_FRAME_ODD n.val)).wr (GW_MSTATUS_CODE n.val) cRANGE).gwp n.val) hg)

theorem mdataRead_none (p : Path) (n : Nat) (d : Dev) (hn : n < 2) (ho : d.out = []) (h : (d.gwp n).mdata = []) :
    (mdataRead p n d).out = [0] ∧ ((mdataRead p n d).gwp n).mdata = [] ∧ (mdataRead p n d).mem = d.mem := by
  unfold mdataRead
  dsimp only
  have e := gwp_modGw n (fun g => { g with mdata := g.mdata.drop 1 }) d hn
  have eo : (d.modGw n (fun g => { g with mdata := g.mdata.drop 1 })).out = [] := ho
  have em : (d.modGw n (fun g => { g with mdata := g.mdata.drop 1 })).mem = d.mem := rfl
  generalize d.modGw n (fun g => { g with mdata := g.mdata.drop 1 }) = y at e eo em ⊢
  rw [h]
  refine ⟨by rw [give_out, eo]; rfl, ?_, by rw [give_mem, em]⟩
  rw [show (y.give p [([] : List Word).headD 0]).gwp n = y.gwp n by cases p <;> rfl, e, h]
  rfl

/-- Read data, whether any is left or not (R411). -/
theorem mdata_completes (s : State) (n : Fin 2) (p : Path) (hr : s.dev.reaches p (gwBase n.val) = true) :
    (∀ w, (s.dev.gwp n.val).mdata.length < 256 → Completes (.mdataWrite p n w) s fun d =>
      (d.gwp n.val).mdata = (s.dev.gwp n.val).mdata ++ [w] ∧ d.regs = s.dev.regs ∧ d.mem = s.dev.mem) ∧
    (∀ w ws, (s.dev.gwp n.val).mdata = w :: ws → Completes (.mdataRead p n) s fun d =>
      d.out = [w] ∧ (d.gwp n.val).mdata = ws ∧ d.mem = s.dev.mem) ∧
    ((s.dev.gwp n.val).mdata = [] → Completes (.mdataRead p n) s fun d => d.out = [0] ∧ (d.gwp n.val).mdata = [] ∧ d.mem = s.dev.mem) := by
  have hg := accessed_gwp s.dev p n.val
  have hmem := Dev.accessed_mem s.dev p
  refine ⟨fun w hl => Completes.ofPort (mdataWrite n.val w) rfl hr ?_, fun w ws hd => Completes.ofPort (mdataRead p n.val) rfl hr ?_,
    fun hd => Completes.ofPort (mdataRead p n.val) rfl hr ?_⟩
  · obtain ⟨e1, e2, e3⟩ := mdataWrite_eff n.val w (s.dev.accessed p) n.isLt (by rw [hg]; exact hl)
    exact ⟨e1.trans (by rw [hg]), e2.trans (accessed_regs _ p), e3.trans hmem⟩
  · obtain ⟨e1, e2, e3⟩ := mdataRead_eff p n.val (s.dev.accessed p) w ws n.isLt (accessed_out _ p) (by rw [hg]; exact hd)
    exact ⟨e1, e2, e3.trans hmem⟩
  · obtain ⟨e1, e2, e3⟩ := mdataRead_none p n.val (s.dev.accessed p) n.isLt (accessed_out _ p) (by rw [hg]; exact hd)
    exact ⟨e1, e2, e3.trans hmem⟩

/-! Execute in place. -/

theorem hole_out (d : Dev) (p : Path) : (d.hole p).out = d.out := by cases p <;> rfl
theorem hole_gw (d : Dev) (p : Path) : (d.hole p).gw = d.gw := by cases p <;> rfl
theorem hole_mem (d : Dev) (p : Path) : (d.hole p).mem = d.mem := by cases p <;> rfl
theorem give_gw (d : Dev) (p : Path) (ws : List Word) : (d.give p ws).gw = d.gw := by cases ws <;> cases p <;> rfl

/-- The closed window reads as a hole (R39). -/
theorem xipLoad_closed (p : Path) (x : Fin 268435456) (k : Nat) (d : Dev) (ho : d.out = []) (hp : d.pathOpen p = true) (hx : d.xipOpen = false) :
    (xipLoad p x.val (2 ^ k) d).out = List.replicate ((2 ^ k + 3) / 4) 0 ∧ (xipLoad p x.val (2 ^ k) d).gw = d.gw ∧ (xipLoad p x.val (2 ^ k) d).mem = d.mem := by
  have h1 : (d.beginAccess p).pathOpen p = true := by rw [← hp]; cases p <;> rfl
  have h2 : (d.beginAccess p).xipOpen = false := by rw [← hx]; cases p <;> rfl
  have ho' : (d.beginAccess p).out = [] := (Dev.beginAccess_out d p).trans ho
  have hg : (d.beginAccess p).gw = d.gw := Dev.beginAccess_gw d p
  have hm : (d.beginAccess p).mem = d.mem := Dev.beginAccess_mem d p
  unfold xipLoad
  dsimp only
  generalize d.beginAccess p = e at h1 h2 ho' hg hm ⊢
  rw [if_pos h1]
  unfold xipAccess
  rw [h2, if_pos (by rw [Bool.not_false, Bool.true_or])]
  exact ⟨by rw [give_out, hole_out, ho']; rfl, by rw [give_gw, hole_gw, hg], by rw [give_mem, hole_mem, hm]⟩

/-- A read that has missed, and whose line the buffer now holds: it counts no hit. -/
theorem xipServe_late (k : Nat) (r : XipRead) (d : Dev) (hs : r.left ≤ r.size) (h0 : 0 < r.left) (hm : r.missed = true) (hp : r.pad = 0)
    (hl : (r.addr + r.left - 1) / 64 = r.addr / 64) (hh : (d.gwp 1).lines.any (·.1 == r.addr / 64) = true) :
    xipServe (k + 2) r d = (none, (d.give r.path (bytesToWords ((upTo r.left).map fun i => lineByte (d.gwp 1).lines (r.addr + i)))).modGw 1 fun g =>
      { g with lines := touch (r.addr / 64) g.lines }) := by
  conv => lhs; unfold xipServe
  dsimp only
  rw [if_neg (by omega), Nat.min_eq_right hs, hl]
  have hf : [r.addr / 64, r.addr / 64].find? (fun l => !(d.gwp 1).lines.any (·.1 == l)) = none := by
    simp only [List.find?, hh, Bool.not_true]
  rw [hf]
  dsimp only
  rw [hm, if_pos rfl]
  unfold xipServe
  dsimp only
  rw [if_pos (Nat.sub_self _), hp]
  rfl

/-- The one read that waits. -/
theorem xipProceed_single (d : Dev) (r : XipRead) (h : (d.gwp 1).waits = [r]) :
    xipProceed d = (match xipServe (r.left + 1) r (d.modGw 1 fun g => { g with waits := [] }) with
      | (some r', d') => d'.modGw 1 fun g => { g with waits := g.waits ++ [r'] }
      | (none, d') => d') := by
  unfold xipProceed
  dsimp only
  rw [h]; rfl

theorem fitBytes_length (n : Nat) (bs : List Byte) : (fitBytes n bs).length = n := by
  simp [fitBytes, zeros]

/-- Bytes of the most recent line. -/
theorem lineBytes_head (l : Nat) (data : List Byte) (ls : List (Nat × List Byte)) (x k : Nat) (hx : x / 64 = l) (hk : (x + k - 1) / 64 = l) :
    ((upTo k).map fun i => lineByte (((l, fitBytes 64 data) :: ls).take 4) (x + i)) = ((fitBytes 64 data).drop (x % 64)).take k := by
  have hlen := fitBytes_length 64 data
  apply List.ext_getElem
  · simp [upTo]; omega
  · intro i h1 h2
    have hi : i < k := by simpa [upTo] using h1
    have hq : (x + i) / 64 = l := by omega
    have hr : (x + i) % 64 = x % 64 + i := by omega
    simp [upTo, lineByte, hq, hr, List.getElem?_eq_getElem (show x % 64 + i < (fitBytes 64 data).length by omega)]

/-- A line that arrives serves the read that waits for it (R413). -/
theorem lineFill_serves (p : Path) (l : Nat) (data : List Byte) (x sz k : Nat) (d : Dev) (ho : d.out = []) (hf : (d.gwp 1).fill = [(l, false)])
    (hw : (d.gwp 1).waits = [⟨p, x, sz, k, true, 0⟩]) (hc : (d.gwp 1).cmd = none) (h0 : 0 < k) (hk : k ≤ sz) (hx : x / 64 = l) (hxk : (x + k - 1) / 64 = l) :
    (xipLineFill data d).out = bytesToWords (((fitBytes 64 data).drop (x % 64)).take k) ∧ ((xipLineFill data d).gwp 1).waits = [] := by
  unfold xipLineFill
  rw [hf]
  dsimp only
  have e := gwp_modGw 1 (fun g => { g with lines := ((l, fitBytes 64 data) :: g.lines.filter (·.1 != l)).take 4, fill := [] }) d (by omega)
  have eo : (d.modGw 1 (fun g => { g with lines := ((l, fitBytes 64 data) :: g.lines.filter (·.1 != l)).take 4, fill := [] })).out = [] := ho
  generalize d.modGw 1 (fun g => { g with lines := ((l, fitBytes 64 data) :: g.lines.filter (·.1 != l)).take 4, fill := [] }) = y at e eo ⊢
  rw [xipProceed_single y ⟨p, x, sz, k, true, 0⟩ (by rw [e]; exact hw)]
  have e2 := gwp_modGw 1 (fun g => { g with waits := [] }) y (by omega)
  have eo2 : (y.modGw 1 (fun g => { g with waits := [] })).out = [] := eo
  generalize y.modGw 1 (fun g => { g with waits := [] }) = z at e2 eo2 ⊢
  have hz : (z.gwp 1).lines = ((l, fitBytes 64 data) :: (d.gwp 1).lines.filter (·.1 != l)).take 4 := by rw [e2, e]
  obtain ⟨j, rfl⟩ : ∃ j, k = j + 1 := ⟨k - 1, by omega⟩
  have hs := xipServe_late j ⟨p, x, sz, j + 1, true, 0⟩ z hk h0 rfl rfl (hxk.trans hx.symm) (by rw [hz, hx]; simp)
  dsimp only at hs
  rw [hs, hz, lineBytes_head l data _ x (j + 1) hx hxk]
  dsimp only
  rw [if_neg (by decide)]
  generalize bytesToWords _ = ws
  have g1 : (z.give p ws).gwp 1 = z.gwp 1 := by unfold Dev.gwp; rw [give_gw]
  have e3 := gwp_modGw 1 (fun g => { g with lines := touch (x / 64) g.lines }) (z.give p ws) (by omega)
  have eo3 : ((z.give p ws).modGw 1 (fun g => { g with lines := touch (x / 64) g.lines })).out = ws := (give_out z p ws).trans (by rw [eo2]; rfl)
  generalize (z.give p ws).modGw 1 (fun g => { g with lines := touch (x / 64) g.lines }) = u at e3 eo3 ⊢
  have hcu : (u.gwp 1).cmd = none := by rw [e3, g1, e2, e]; exact hc
  have hwu : (u.gwp 1).waits = [] := by rw [e3, g1, e2]
  have hb : beginCommand 1 u = u := by
    unfold beginCommand
    dsimp only
    rw [hcu]
  rw [hb, xipProceed_idle u hwu]
  exact ⟨eo3, by rw [gwp_modGw 1 _ _ (by omega)]⟩

/-- A write of GW1_XIP_CFG that changes the opcode while EN = 1 is refused (R419). -/
theorem xipCfgWrite_locked (p : Path) (w : Word) (d : Dev) (he : d.on GW1_XIP_CFG_EN = true) (ho : d.rd GW1_XIP_CFG_OPCODE ≠ bits w.toNat 15 8) :
    xipCfgWrite p w d = d.errLocked p 0x5A00 := by
  unfold xipCfgWrite
  dsimp only
  rw [if_pos]
  simp [he, ho]

/-- Reads of the XIP window, open or closed (R39, R412, R413). -/
theorem xipRead_completes (s : State) (p : Path) (x : Fin 268435456) (k : Fin 4) (hp : s.dev.pathOpen p = true) (ha : x.val % 2 ^ k.val = 0) :
    (s.dev.xipOpen = true → (s.dev.gwp 1).waits = [] →
      ((s.dev.gwp 1).lines.any (·.1 == x.val / 64) = true → Completes (.xipRead p x k) s fun d =>
        d.out = bytesToWords ((upTo (2 ^ k.val)).map fun i => lineByte (s.dev.gwp 1).lines (x.val + i)) ∧
        d.rd GW1_XIP_STATS_HITS = min (s.dev.rd GW1_XIP_STATS_HITS + 1) 65535 ∧ (d.gwp 1).waits = [] ∧ d.mem = s.dev.mem) ∧
      ((s.dev.gwp 1).lines.any (·.1 == x.val / 64) = false → (s.dev.gwp 1).fill = [] → (s.dev.gwp 1).cmd = none → s.dev.on GW1_XIP_CFG_HOLD = false →
        Completes (.xipRead p x k) s fun d =>
        d.out = [] ∧ d.rd GW1_XIP_STATS_MISSES = min (s.dev.rd GW1_XIP_STATS_MISSES + 1) 65535 ∧
        (d.gwp 1).waits = [⟨p, x.val, 2 ^ k.val, 2 ^ k.val, true, 0⟩] ∧ (d.gwp 1).fill.head? = some (x.val / 64, false) ∧
        d.rd (GW_FRAMES_MASTER 1) = (s.dev.rd (GW_FRAMES_MASTER 1) + 1) % 65536)) ∧
    (s.dev.xipOpen = false → Completes (.xipRead p x k) s fun d =>
      d.out = List.replicate ((2 ^ k.val + 3) / 4) 0 ∧ d.gw = s.dev.gw ∧ d.mem = s.dev.mem) := by
  refine ⟨fun ho hw => ⟨fun hl => ?_, fun hl hf hc hd => ?_⟩, fun ho => ?_⟩
  · exact Completes.effect (xipLoad p x.val (2 ^ k.val)) rfl (xipHit_eff p x k s.dev.begun rfl hp ho hw ha hl)
  · exact Completes.effect (xipLoad p x.val (2 ^ k.val)) rfl (xipMiss_eff p x k s.dev.begun rfl hp ho hw ha hl hf hc hd)
  · exact Completes.effect (xipLoad p x.val (2 ^ k.val)) rfl (xipLoad_closed p x k.val s.dev.begun rfl hp ho)

/-- The port's registers of execute in place (R414, R415, R419). -/
theorem xipRegisters_complete (s : State) (p : Path) (hr : s.dev.reaches p 0x5800 = true) :
    (Completes (.inval p) s fun d =>
      (d.gwp 1).lines = [] ∧ (d.gwp 1).fill = (s.dev.gwp 1).fill.map (fun x => (x.1, true)) ∧ d.regs = s.dev.regs ∧ d.mem = s.dev.mem) ∧
    (∀ w, s.dev.on GW1_XIP_CFG_EN = false → (s.dev.gwp 1).waits = [] → Completes (.xipCfgWrite p w) s fun d =>
      d.on GW1_XIP_CFG_EN = bit w.toNat 31 ∧ d.on GW1_XIP_CFG_HOLD = bit w.toNat 30 ∧ d.rd GW1_XIP_CFG_CONT = bits w.toNat 29 29 ∧
      d.rd GW1_XIP_CFG_PREFETCH = bits w.toNat 28 28 ∧ d.rd GW1_XIP_CFG_CS = bits w.toNat 27 26 ∧ d.rd GW1_XIP_CFG_A4 = bits w.toNat 25 25 ∧
      d.rd GW1_XIP_CFG_DUMMY = bits w.toNat 20 16 ∧ d.rd GW1_XIP_CFG_OPCODE = bits w.toNat 15 8 ∧ d.rd GW1_XIP_CFG_MODE = bits w.toNat 7 0) ∧
    (∀ w, s.dev.on GW1_XIP_CFG_EN = true → s.dev.rd GW1_XIP_CFG_OPCODE ≠ bits w.toNat 15 8 → Completes (.xipCfgWrite p w) s fun d =>
      d.rd (ERR_LOCKED 0x5800) = 1 ∧ d.gw = s.dev.gw ∧ d.rd GW1_XIP_CFG_OPCODE = s.dev.rd GW1_XIP_CFG_OPCODE ∧ d.mem = s.dev.mem) := by
  have hg := accessed_gwp s.dev p 1
  have hmem := Dev.accessed_mem s.dev p
  refine ⟨Completes.ofPort xipEmpty rfl hr ?_, fun w he hw => Completes.ofPort (xipCfgWrite p w) rfl hr ?_,
    fun w he ho => Completes.ofPort (xipCfgWrite p w) rfl hr ?_⟩
  · obtain ⟨e1, e2, e3, e4⟩ := xipEmpty_eff (s.dev.accessed p)
    exact ⟨e1, e2.trans (by rw [hg]), e3.trans (accessed_regs _ p), e4.trans hmem⟩
  · exact xipCfg_eff p w (s.dev.accessed p) ((accessed_on _ p _).trans he) (by rw [hg]; exact hw)
  · rw [xipCfgWrite_locked p w _ ((accessed_on _ p _).trans he) (by rw [accessed_rd]; exact ho)]
    have c := (s.dev.accessed p).errLocked_changes p 0x5A00
    exact ⟨(s.dev.accessed p).errLocked_flag p 0x5A00, (c.parts .gw (by decide)).trans (accessed_gw _ p),
      (c.rd (rows_not (by decide))).trans (accessed_rd _ p _), (c.parts .mem (by decide)).trans hmem⟩

/-- Settles O52: each command of the master and of the XIP window by the effect of its operation. -/
theorem gangwayMaster : Obligations.GangwayMaster := by
  refine ⟨fun s n p hr => ⟨?_, fun w hm ha => ⟨masterCommand_refused s n p hr w ha, masterCommand_fails s n p hr w hm ha⟩, ?_, mdata_completes s n p hr⟩,
    fun s p => ⟨fun x k hp ha => xipRead_completes s p x k hp ha, ?_, ?_, xipRegisters_complete s p⟩⟩
  · exact fun w hm hc ha hu hl hw hf hx => masterCommand_starts s n p hr w hm hc ha hu hl hw hf hx
  · exact fun f data hc hs hw => Completes.effect (masterDone n.val data) rfl (masterDone_eff n.val data s.dev.begun f n.isLt hc hs hw)
  · exact fun l rest data hf hw hc => Completes.effect (xipLineFill data) rfl (lineFill_eff l rest data s.dev.begun hf hw hc)
  · exact fun l data x sz k hf hw hc h0 hk hx hxk =>
      Completes.effect (xipLineFill data) rfl (lineFill_serves p l data x sz k s.dev.begun rfl hf hw hc h0 hk hx hxk)

end Sys2Proof.Machine
end

section
/-!
The Pontoon's commands (08_inventory.md, 10_secure_sessions.md): what result items leave of a channel, and how a command takes its turn,
posts its frame, or ends.
-/

namespace Sys2Proof.Machine

/-! Result items. -/

/-- A channel without the items that wait behind others and the records of its exchange, which result items use up. -/
def Chan.apartItems (c : Chan) : Chan := { c with behind := [], recs := Records.none }

/-- From `d` to `e`, result items have left the channels as they were. -/
def Dev.ItemsOnly (d e : Dev) : Prop := ∀ m, (e.chan m).apartItems = (d.chan m).apartItems

theorem Dev.ItemsOnly.refl (d : Dev) : d.ItemsOnly d := fun _ => rfl
theorem Dev.ItemsOnly.trans {d e f : Dev} (h : d.ItemsOnly e) (k : e.ItemsOnly f) : d.ItemsOnly f := fun m => (k m).trans (h m)
theorem Dev.ItemsOnly.of_chans {d e : Dev} (h : e.chans = d.chans) : d.ItemsOnly e := fun m => congrArg _ (chan_of h m)

theorem Dev.ItemsOnly.ctx {d e : Dev} (h : d.ItemsOnly e) (m : Nat) : (e.chan m).ctx = (d.chan m).ctx := by
  have k := congrArg Chan.ctx (h m)
  exact k
theorem Dev.ItemsOnly.queue {d e : Dev} (h : d.ItemsOnly e) (m : Nat) : (e.chan m).queue = (d.chan m).queue := by
  have k := congrArg Chan.queue (h m)
  exact k
theorem Dev.ItemsOnly.job {d e : Dev} (h : d.ItemsOnly e) (m : Nat) : (e.chan m).job = (d.chan m).job := by
  have k := congrArg Chan.job (h m)
  exact k
theorem Dev.ItemsOnly.exch {d e : Dev} (h : d.ItemsOnly e) (m : Nat) : (e.chan m).exch = (d.chan m).exch := by
  have k := congrArg Chan.exch (h m)
  exact k

/-- A change of one channel shows there alone. -/
theorem chan_modChan_cases (d : Dev) (n : Nat) (f : Chan → Chan) (m : Nat) :
    (d.modChan n f).chan m = f (d.chan m) ∨ (d.modChan n f).chan m = d.chan m := by
  by_cases hm : m = n
  · subst hm
    by_cases hn : m < 24
    · exact Or.inl (vget_vmod_same _ _ _ _ hn)
    · exact Or.inr (by simp [Dev.chan, Dev.modChan, vmod, hn])
  · exact Or.inr (vget_vmod_ne _ _ _ hm)

theorem modChan_of {α : Type} (g : Chan → α) {f : Chan → Chan} (hf : ∀ c, g (f c) = g c) (d : Dev) (n m : Nat) : g ((d.modChan n f).chan m) = g (d.chan m) := by
  obtain h | h := chan_modChan_cases d n f m
  · rw [h, hf]
  · rw [h]

theorem modChan_itemsOnly (d : Dev) (n : Nat) {f : Chan → Chan} (hf : ∀ c, (f c).apartItems = c.apartItems) : d.ItemsOnly (d.modChan n f) :=
  modChan_of Chan.apartItems hf d n

theorem post_chans (d : Dev) (i typ : Nat) (ws : List Word) : (d.post i typ ws).chans = d.chans :=
  (Dev.post_after (Changes.refl _ _ _) (within_refl _) (covers_refl _) i typ ws).parts .chans (by decide)

theorem postIn_items (n typ : Nat) (ws : List Word) (d : Dev) : d.ItemsOnly (postIn n typ ws d) := by
  unfold postIn
  dsimp only
  split
  · exact .of_chans (post_chans d n typ ws)
  · exact modChan_itemsOnly d n fun _ => rfl

theorem exchangeItems_items (n : Nat) (w0 : Word) (w1 : Bool → Word) (cs : List Word) (fuel : Nat) (recs : List (List Word)) (data : List Byte) (d : Dev) :
    d.ItemsOnly (exchangeItems n w0 w1 cs fuel recs data d) := by
  induction fuel generalizing recs data d with
  | zero => exact .refl d
  | succ k ih =>
    unfold exchangeItems
    dsimp only
    have h := postIn_items n 0x23 ([w0, w1 (decide (868 < data.length))] ++ cs ++ recs.flatten ++ [nw (data.take 868).length] ++ bytesToWords (data.take 868)) d
    split
    · exact h.trans (ih _ _ _)
    · exact h

theorem commandItem_items (n : Nat) (cmd : PCmd) (ctx gen : Nat) (stale : Bool) (code cut : Nat) (rep notRec : Bool) (data : List Byte) (d : Dev) :
    d.ItemsOnly (commandItem n cmd ctx gen stale code cut rep notRec data d) := by
  unfold commandItem
  dsimp only
  refine Dev.ItemsOnly.trans ?_ (modChan_itemsOnly _ n fun _ => rfl)
  cases stale with
  | false => exact exchangeItems_items n _ _ _ _ _ _ d
  | true => exact (exchangeItems_items n _ _ _ _ _ _ d).trans (.of_chans rfl)

theorem plainItemAs_items (n : Nat) (cmd : PCmd) (ctx gen : Nat) (stale : Bool) (code cut : Nat) (d : Dev) :
    d.ItemsOnly (plainItemAs n cmd ctx gen stale code cut d) := by
  unfold plainItemAs
  dsimp only
  have h1 : d.ItemsOnly (d.modChan n fun c => { c with recs := Records.none }) := modChan_itemsOnly d n fun _ => rfl
  generalize (d.modChan n fun c => { c with recs := Records.none }) = e at h1 ⊢
  have h2 := h1.trans (commandItem_items n cmd ctx gen stale code cut false false [] e)
  generalize commandItem n cmd ctx gen stale code cut false false [] e = x at h2 ⊢
  exact h2.trans (modChan_itemsOnly x n fun _ => rfl)

theorem plainItem_items (n : Nat) (cmd : PCmd) (ctx code cut : Nat) (d : Dev) : d.ItemsOnly (plainItem n cmd ctx code cut d) :=
  plainItemAs_items n cmd ctx _ _ code cut d

theorem emptyRound_items (n tag code cut : Nat) (d : Dev) : d.ItemsOnly (emptyRound n tag code cut d) :=
  (postIn_items n 0x21 _ d).trans (.of_chans rfl)

/-! Turns (R183). -/

theorem drain_busy (n : Nat) (d : Dev) (h : (d.chan n).job.isSome = true) : drain n d = d := by
  unfold drain
  dsimp only
  rw [h, if_pos (by rw [Bool.true_or])]

/-- Where the next command is valid, or none waits, none is discarded. -/
theorem drain_valid (n : Nat) (d : Dev) (h : ∀ x xs, (d.chan n).queue = x :: xs → x.valid = true) : drain n d = d := by
  unfold drain
  dsimp only
  split
  · rfl
  · cases hq : (d.chan n).queue with
    | nil => rfl
    | cons x xs => unfold drainHeads; rw [if_pos (h x xs hq)]

/-- Discarded commands leave every context. -/
theorem drain_ctx (n : Nat) (d : Dev) (m : Nat) : ((drain n d).chan m).ctx = (d.chan m).ctx := by
  have heads : ∀ cs d, ((drainHeads n cs d).chan m).ctx = (d.chan m).ctx := by
    intro cs
    induction cs with
    | nil => exact fun _ => rfl
    | cons c cs ih =>
      intro d
      unfold drainHeads
      dsimp only
      split
      · rfl
      · rw [ih]
        have hq := modChan_of Chan.ctx (f := fun ch => { ch with queue := cs }) (fun _ => rfl) d n m
        split
        · exact ((emptyRound_items n c.tag cRANGE 0 _).ctx m).trans hq
        · exact ((plainItem_items n c 15 cRANGE 0 _).ctx m).trans hq
  unfold drain
  dsimp only
  split
  · rfl
  · exact heads _ _

/-- The part once the command at the head of a queue has left it. -/
def Dev.dequeued (d : Dev) (n : Nat) (rest : List PCmd) : Dev := d.modChan n fun c => { c with queue := rest }

theorem dequeued_chan (d : Dev) (n : Fin 24) (rest : List PCmd) : (d.dequeued n.val rest).chan n.val = { d.chan n.val with queue := rest } := chan_modChan n _ d

/-- A command at the head of an idle Pontoon's queue runs (R183). -/
theorem takeHead_heads {d : Dev} {n op : Nat} {cmd : PCmd} {rest : List PCmd} (h : d.Heads n op cmd rest) (f : PCmd → Dev → Dev) :
    takeHead n op f d = drain n (f cmd (d.dequeued n rest)) := by
  obtain ⟨hq, ho, hv, hj, ht, hr⟩ := h
  have hr' : (d.modChan n fun c => { c with queue := rest }).reader n = true := hr
  unfold takeHead
  dsimp only
  rw [hq]
  dsimp only
  rw [ho, hj, ht, hv, if_neg (by simp), if_pos hr']
  rfl

theorem Dev.Heads.begun {d : Dev} {n op : Nat} {cmd : PCmd} {rest : List PCmd} (h : d.Heads n op cmd rest) : d.begun.Heads n op cmd rest := h

/-- No command waits behind the power-fail source (R72). -/
theorem Dev.Heads.powered {d : Dev} {n op : Nat} {cmd : PCmd} {rest : List PCmd} (h : d.Heads n op cmd rest) : d.on PW_STATUS_PFAIL = false := by
  obtain ⟨-, -, -, -, ht, -⟩ := h
  unfold Dev.mayTake at ht
  rw [Bool.and_eq_true, Bool.not_eq_true'] at ht
  exact ht.2

/-! Frames that a command posts (R175, R184). -/

/-- Channel `n` runs a command whose frame `f`, addressed to context `k`, has been posted, and the other commands wait on. -/
structure Posted (n k : Nat) (f : AirFrame) (d e : Dev) : Prop where
  posts : e.Posts n k f
  job : (e.chan n).job.isSome = true
  queue : (e.chan n).queue = (d.chan n).queue
  ctx : (e.chan n).ctx = (d.chan n).ctx
  cy : e.cy = d.cy

theorem kick_chan (n : Nat) (d : Dev) (m : Nat) : (kick n d).chan m = d.chan m := chan_of (kick_chans n d) m

theorem launch_posted (n : Fin 24) (k : Nat) (f : AirFrame) (d : Dev) (hj : (d.chan n.val).job.isSome = true) : Posted n.val k f d (launch n.val k f d) := by
  have hc : (launch n.val k f d).chan n.val = _ := (kick_chan n.val _ n.val).trans (chan_modChan n _ d)
  have hcy := (launch_after (Changes.refl _ _ d) (within_refl _) (covers_refl _) n.val k f).parts .cy (by decide)
  refine ⟨⟨_, by rw [hc], rfl, rfl, rfl⟩, ?_, ?_, ?_, hcy⟩ <;> rw [hc]
  exact hj

theorem nextFrame_posted (n : Fin 24) (k : Nat) (f : AirFrame) (d : Dev) (hp : d.on PW_STATUS_PFAIL = false) (hj : (d.chan n.val).job.isSome = true) :
    Posted n.val k f d (nextFrame n.val k f d) := by
  unfold nextFrame
  rw [hp, if_neg (by decide)]
  exact launch_posted n k f d hj

theorem setJob_chan (n : Fin 24) (j : Job) (d : Dev) : (d.setJob n.val j).chan n.val = { d.chan n.val with job := some j } := chan_modChan n _ d

/-- A step of a command that posts its frame, at a placement whose session has not moved on. -/
theorem goCmd_posted (n : Fin 24) (s : CmdSt) (f : AirFrame) (d : Dev) (hp : d.on PW_STATUS_PFAIL = false) (hl : ((d.chan n.val).context s.ctx).leaving = false) :
    Posted n.val s.ctx f d (goCmd n.val s f d) := by
  have hc := setJob_chan n (.cmd s) d
  unfold goCmd
  rw [hl, if_neg (by decide)]
  obtain ⟨h1, h2, h3, h4, h5⟩ := nextFrame_posted n s.ctx f (d.setJob n.val (.cmd s)) hp (by rw [hc]; rfl)
  exact ⟨h1, h2, h3.trans (by rw [hc]), h4.trans (by rw [hc]), h5⟩

/-- An exchange of blocks begins with its first I-block (R184). -/
theorem beginBlocks_posted (n : Fin 24) (s : CmdSt) (bs : List Byte) (d : Dev) (hp : d.on PW_STATUS_PFAIL = false)
    (hl : ((d.chan n.val).context s.ctx).leaving = false) :
    Posted n.val s.ctx (firstBlock ((d.chan n.val).context s.ctx) bs) d (beginBlocks n.val s bs d) := by
  have hx := chan_modChan n (fun c => { c with exch := none }) d
  have hpx : (d.modChan n.val fun c => { c with exch := none }).on PW_STATUS_PFAIL = false := hp
  have hcy : (d.modChan n.val fun c => { c with exch := none }).cy = d.cy := rfl
  unfold beginBlocks
  rw [hl, if_neg (by decide)]
  generalize (d.modChan n.val fun c => { c with exch := none }) = e at hx hpx hcy ⊢
  have hctx : (e.chan n.val).context s.ctx = (d.chan n.val).context s.ctx := by rw [hx]; rfl
  unfold sendChunk
  dsimp only
  rw [hctx]
  generalize hs : ({ s with toSend := bs.drop ((d.chan n.val).context s.ctx).chunk, data := [], chaining := false } : CmdSt) = s'
  have hc := setJob_chan n (.cmd s') e
  have hn : ((e.setJob n.val (.cmd s')).chan n.val).exch = none := by rw [hc, hx]
  rw [hn]
  dsimp only
  obtain ⟨h1, h2, h3, h4, h5⟩ := nextFrame_posted n s.ctx (firstBlock ((d.chan n.val).context s.ctx) bs) (e.setJob n.val (.cmd s')) hpx (by rw [hc]; rfl)
  exact ⟨h1, h2, h3.trans (by rw [hc, hx]), h4.trans (by rw [hc, hx]), h5.trans hcy⟩

/-- A command that posts its frame leaves the queue behind it. -/
theorem takeHead_posted {d : Dev} {n : Fin 24} {op k : Nat} {cmd : PCmd} {rest : List PCmd} {f : PCmd → Dev → Dev} {a : AirFrame}
    (h : d.Heads n.val op cmd rest) (hp : Posted n.val k a (d.dequeued n.val rest) (f cmd (d.dequeued n.val rest))) :
    (takeHead n.val op f d).Posts n.val k a ∧ ((takeHead n.val op f d).chan n.val).queue = rest := by
  rw [takeHead_heads h, drain_busy _ _ hp.job]
  exact ⟨hp.posts, hp.queue.trans (by rw [dequeued_chan])⟩

/-- A context that a command names, in a state in which it runs. -/
theorem onContext_runs (n : Nat) (cmd : PCmd) (sts : List Nat) (f : Nat → Ctx → Dev → Dev) (d : Dev) {k : Nat} {c : Ctx} (hk : k = bits cmd.w1 31 28) (h8 : k < 8)
    (hc : (d.chan n).context k = c) (hl : c.leaving = false) (hs : sts.contains c.st = true) : onContext n cmd sts f d = f k c d := by
  subst hk hc
  unfold onContext
  dsimp only
  rw [if_neg (by omega), hl, hs, if_neg (by decide)]

theorem dequeued_context (d : Dev) (n : Fin 24) (rest : List PCmd) (k : Nat) : ((d.dequeued n.val rest).chan n.val).context k = (d.chan n.val).context k := by
  rw [dequeued_chan]
  rfl

/-! Words of commands (O24). -/

theorem modChan_chan_regs_mem (s : State) (p : Path) (n : Fin 24) (f : Chan → Chan) :
    ((s.dev.accessed p).modChan n.val f).chan n.val = f (s.dev.chan n.val) ∧ ((s.dev.accessed p).modChan n.val f).regs = s.dev.regs ∧
    ((s.dev.accessed p).modChan n.val f).mem = s.dev.mem :=
  ⟨(chan_modChan n f _).trans (congrArg f (accessed_chan _ p _)), accessed_regs _ p, Dev.accessed_mem _ p⟩

/-- Settles O24: by what the path has collected so far, and the room in the queue. -/
theorem commandWords : Obligations.CommandWords := by
  intro s p n w hr c rest ws left ha len
  have hc : c = s.dev.chan n.val := rfl
  have run : ∀ {P : Dev → Prop}, P (pcmdWord p n.val w (s.dev.accessed p)) → Completes (.pcmdWord p n w) s P := fun k => Completes.ofPort (pcmdWord p n.val w) rfl hr k
  have hx := accessed_chan s.dev p n.val
  rw [← hc] at hx
  have eqn := modChan_chan_regs_mem s p n
  rw [← hc] at eqn
  have unfolded : pcmdWord p n.val w (s.dev.accessed p) =
      if left ≠ 0 then (s.dev.accessed p).modChan n.val fun c => { c with asm := if left - 1 = 0 then rest else rest ++ [(p, [], left - 1)] }
      else
        let full := decide (16 ≤ c.queue.length) || decide (1024 < c.queueWords + 1 + len)
        if ws.isEmpty && full then
          ((s.dev.accessed p).modChan n.val fun c => { c with asm := if len = 0 then rest else rest ++ [(p, [], len)] }).raise (CH_PCMD_STATUS_OVERFLOW n.val)
        else if (ws ++ [w]).length < len + 1 then (s.dev.accessed p).modChan n.val fun c => { c with asm := rest ++ [(p, ws ++ [w], 0)] }
        else if full then ((s.dev.accessed p).modChan n.val fun c => { c with asm := rest }).raise (CH_PCMD_STATUS_OVERFLOW n.val)
        else drain n.val ((s.dev.accessed p).modChan n.val fun c => { c with asm := rest, queue := c.queue ++
          [{ opcode := bits (wordAt (ws ++ [w]) 0) 31 24, tag := bits (wordAt (ws ++ [w]) 0) 15 0, args := (ws ++ [w]).drop 1 }] }) := by
    unfold pcmdWord
    dsimp only
    rw [hx, ha]
  refine ⟨fun hl => run ?_, fun hl hq hw hs => run ?_, fun hl hq hw hs hj => run ?_, fun hl hs hf => run ?_⟩
  · rw [unfolded, if_pos hl]
    obtain ⟨e1, e2, e3⟩ := eqn fun c => { c with asm := if left - 1 = 0 then rest else rest ++ [(p, [], left - 1)] }
    refine ⟨?_, by rw [e1], e2, e3⟩
    rw [e1]
    simp only [show (left - 1 = 0) = (left = 1) from propext (by omega)]
  all_goals
    rw [unfolded, if_neg (by omega)]
    dsimp only
  · rw [show (decide (16 ≤ c.queue.length) || decide (1024 < c.queueWords + 1 + len)) = false by simp; omega, Bool.and_false, if_neg (by decide),
      if_pos (by rw [List.length_append]; exact Nat.add_lt_add_right hs 1)]
    obtain ⟨e1, e2, e3⟩ := eqn fun c => { c with asm := rest ++ [(p, ws ++ [w], 0)] }
    exact ⟨by rw [e1], by rw [e1], e2, e3⟩
  · rw [show (decide (16 ≤ c.queue.length) || decide (1024 < c.queueWords + 1 + len)) = false by simp; omega, Bool.and_false, if_neg (by decide),
      if_neg (by rw [List.length_append]; exact Nat.not_lt.mpr (Nat.add_le_add_right hs 1)), if_neg (by decide)]
    obtain ⟨e1, e2, e3⟩ := eqn fun c => { c with asm := rest, queue := c.queue ++
      [{ opcode := bits (wordAt (ws ++ [w]) 0) 31 24, tag := bits (wordAt (ws ++ [w]) 0) 15 0, args := (ws ++ [w]).drop 1 }] }
    rw [drain_busy _ _ (by rw [e1]; exact hj)]
    exact ⟨by rw [e1], by rw [e1], e2, e3⟩
  · have hfull : (decide (16 ≤ c.queue.length) || decide (1024 < c.queueWords + 1 + len)) = true := by simpa using hf
    rw [hfull, hs, if_pos (by decide)]
    obtain ⟨e1, e2, e3⟩ := eqn fun c => { c with asm := if len = 0 then rest else rest ++ [(p, [], len)] }
    exact ⟨Dev.rd_raise_same _ (CH_PCMD_STATUS_OVERFLOW n.val), (congrArg Chan.queue e1 : _), e3⟩

/-! Sessions (O26). -/

section Sessions

variable {s : State} {n : Fin 24} {cmd : PCmd} {rest : List PCmd} {k : Nat} {c : Ctx}

/-- What the statements say of a command that posts frame `a`. -/
abbrev PostsFrame (s : State) (n : Fin 24) (rest : List PCmd) (k : Nat) (a : AirFrame) (d : Dev) : Prop :=
  d.Posts n.val k a ∧ (d.chan n.val).queue = rest ∧ d.mem = s.dev.mem

theorem Completes.posts {i : Instr} {op : Nat} {f : PCmd → Dev → Dev} {a : AirFrame} {S : List Part} {W : List Span} (hx : exec i s = s.act (takeHead n.val op f))
    (hc : ∀ {t : State}, exec i s = .next t → t.pending = s.pending ∧ Changes S W s.dev t.dev) (hm : Part.mem ∉ S) (h : s.dev.Heads n.val op cmd rest)
    (hp : Posted n.val k a (s.dev.begun.dequeued n.val rest) (f cmd (s.dev.begun.dequeued n.val rest))) : Completes i s (PostsFrame s n rest k a) := by
  obtain ⟨h1, h2⟩ := takeHead_posted h.begun hp
  exact Completes.effect _ hx ⟨h1, h2, (hc hx).2.parts .mem hm⟩

theorem dequeued_named (h : c = (s.dev.chan n.val).context k) : ((s.dev.begun.dequeued n.val rest).chan n.val).context k = c :=
  (dequeued_context _ n rest k).trans h.symm

theorem dequeued_stays (h : c = (s.dev.chan n.val).context k) (hl : c.leaving = false) :
    (((s.dev.begun.dequeued n.val rest).chan n.val).context k).leaving = false := by
  rw [dequeued_named h]
  exact hl

theorem activeA_iff (c : Chan) : c.activeA = true ↔ ∃ j, j < 8 ∧ (c.context j).proto = 1 ∧ (c.context j).st = 2 := by
  simp [Chan.activeA, upTo]

/-- An ACTIVATE in range, on a context that waits to be activated. -/
theorem cmdActivate_runs (d : Dev) (hk : k = bits cmd.w1 31 28) (h8 : k < 8) (hc : (d.chan n.val).context k = c) (hl : c.leaving = false)
    (hs : c.st = 1 ∨ c.st = 4) (hf : bits cmd.w1 7 4 ≤ 8) (hm : bits cmd.w1 3 0 ≤ 6) :
    cmdActivate n.val cmd d = if c.proto = 3 then goCmd n.val (mkCmd cmd k c (.vSelect 0)) (fVSelect c.id) d
      else goWup n.val (mkCmd cmd k c (.wup 0)) 0 d := by
  have hst : [1, 4].contains c.st = true := by obtain h | h := hs <;> rw [h] <;> rfl
  unfold cmdActivate
  dsimp only
  rw [decide_eq_false (by omega : ¬ 8 < bits cmd.w1 7 4), decide_eq_false (by omega : ¬ 6 < bits cmd.w1 3 0), if_neg (by decide),
    onContext_runs n.val cmd [1, 4] _ d hk h8 hc hl hst]
  rfl

theorem goWup_posted (d : Dev) (st : CmdSt) (tries : Nat) (hp : d.on PW_STATUS_PFAIL = false) (hc : (d.chan n.val).context st.ctx = c) (hl : c.leaving = false) :
    Posted n.val st.ctx (if c.proto = 1 ∧ (d.chan n.val).activeA = true then fHlta else if c.proto = 1 then fReqa true else fReqb true 0 1) d
      (goWup n.val st tries d) := by
  subst hc
  unfold goWup
  dsimp only
  by_cases ha : ((d.chan n.val).context st.ctx).proto = 1 ∧ (d.chan n.val).activeA = true
  · have hb : (decide (((d.chan n.val).context st.ctx).proto = 1) && (d.chan n.val).activeA) = true := by simpa using ha
    rw [if_pos ha, if_pos hb]
    exact goCmd_posted n { st with step := .hlta tries } _ d hp hl
  · have hb : ¬ (decide (((d.chan n.val).context st.ctx).proto = 1) && (d.chan n.val).activeA) = true := by simpa using ha
    rw [if_neg ha, if_neg hb]
    exact goCmd_posted n { st with step := .wup tries } _ d hp hl

/-- ACTIVATE posts the frame of its protocol (R182, R196). -/
theorem activate_posts (h : s.dev.Heads n.val 2 cmd rest) (hk : k = bits cmd.w1 31 28) (h8 : k < 8) (hc : c = (s.dev.chan n.val).context k) (hl : c.leaving = false)
    (hs : c.st = 1 ∨ c.st = 4) (hf : bits cmd.w1 7 4 ≤ 8) (hm : bits cmd.w1 3 0 ≤ 6) :
    (c.proto = 3 → Completes (.activate n) s (PostsFrame s n rest k (fVSelect c.id))) ∧
    (c.proto ≠ 3 → Completes (.activate n) s (PostsFrame s n rest k (if c.proto = 1 ∧ (s.dev.chan n.val).activeA = true then fHlta
      else if c.proto = 1 then fReqa true else fReqb true 0 1))) := by
  have hd := dequeued_named (rest := rest) hc
  have hrun := cmdActivate_runs (s.dev.begun.dequeued n.val rest) hk h8 hd hl hs hf hm
  have hact : ((s.dev.begun.dequeued n.val rest).chan n.val).activeA = (s.dev.chan n.val).activeA := by rw [dequeued_chan]; rfl
  refine ⟨fun hp => Completes.posts (f := cmdActivate n.val) rfl (execActivate_changes n) (by decide) h ?_,
    fun hp => Completes.posts (f := cmdActivate n.val) rfl (execActivate_changes n) (by decide) h ?_⟩
  · rw [hrun, if_pos hp]
    exact goCmd_posted n (mkCmd cmd k c (.vSelect 0)) _ _ h.powered (dequeued_stays hc hl)
  · rw [hrun, if_neg hp, ← hact]
    exact goWup_posted _ (mkCmd cmd k c (.wup 0)) 0 h.powered hd hl

/-- EXCHANGE posts a raw frame or the first block (R184). -/
theorem exchange_posts (h : s.dev.Heads n.val 3 cmd rest) (hk : k = bits cmd.w1 31 28) (h8 : k < 8) (hc : c = (s.dev.chan n.val).context k) (hl : c.leaving = false)
    (h0 : bits cmd.w1 15 0 ≠ 0) {data : List Byte} (hdata : data = (wordsToBytes (cmd.args.drop 1)).take (bits cmd.w1 15 0)) :
    (c.st = 2 → bit cmd.w1 27 = true → Completes (.exchange n) s (PostsFrame s n rest k (fRaw c data))) ∧
    (c.st = 3 → bit cmd.w1 27 = false → Completes (.exchange n) s (PostsFrame s n rest k (firstBlock c data))) := by
  have hd := dequeued_named (rest := rest) hc
  subst hdata
  refine ⟨fun hs hb => Completes.posts (f := cmdExchange n.val) rfl (execExchange_changes n) (by decide) h ?_,
    fun hs hb => Completes.posts (f := cmdExchange n.val) rfl (execExchange_changes n) (by decide) h ?_⟩
  · unfold cmdExchange
    dsimp only
    rw [onContext_runs n.val cmd [2, 3] _ _ hk h8 hd hl (by rw [hs]; rfl), if_neg h0, hs, hb, if_neg (by decide), if_pos rfl]
    exact goCmd_posted n (mkCmd cmd k c .raw) _ _ h.powered (dequeued_stays hc hl)
  · unfold cmdExchange
    dsimp only
    rw [onContext_runs n.val cmd [2, 3] _ _ hk h8 hd hl (by rw [hs]; rfl), if_neg h0, hs, hb, if_neg (by decide), if_neg (by decide)]
    have e := beginBlocks_posted n (mkCmd cmd k c .data) ((wordsToBytes (cmd.args.drop 1)).take (bits cmd.w1 15 0)) (s.dev.begun.dequeued n.val rest) h.powered
    rw [show (mkCmd cmd k c .data).ctx = k from rfl, hd] at e
    exact e hl

/-- HALT posts the frame that halts a tag of its protocol (R180, R184). -/
theorem halt_posts (h : s.dev.Heads n.val 4 cmd rest) (hk : k = bits cmd.w1 31 28) (h8 : k < 8) (hc : c = (s.dev.chan n.val).context k) (hl : c.leaving = false) :
    (c.st = 3 → Completes (.halt n) s (PostsFrame s n rest k (blockFrame c .deselect))) ∧
    (c.st = 2 → c.proto = 1 → Completes (.halt n) s (PostsFrame s n rest k fHlta)) ∧
    (c.st = 2 → c.proto = 3 → Completes (.halt n) s (PostsFrame s n rest k (fQuiet c.id))) := by
  have hd := dequeued_named (rest := rest) hc
  have go := fun a => goCmd_posted n (mkCmd cmd k c .halt) a (s.dev.begun.dequeued n.val rest) h.powered (dequeued_stays hc hl)
  refine ⟨fun hs => Completes.posts (f := cmdHalt n.val) rfl (execHalt_changes n) (by decide) h ?_,
    fun hs hp => Completes.posts (f := cmdHalt n.val) rfl (execHalt_changes n) (by decide) h ?_,
    fun hs hp => Completes.posts (f := cmdHalt n.val) rfl (execHalt_changes n) (by decide) h ?_⟩
  all_goals
    unfold cmdHalt
    rw [onContext_runs n.val cmd [2, 3] _ _ hk h8 hd hl (by rw [hs]; rfl)]
    dsimp only
  · rw [if_pos hs]
    exact go _
  · rw [if_neg (by omega), if_pos hp]
    exact go _
  · rw [if_neg (by omega), if_neg (by omega), if_pos hp]
    exact go _

/-! The end of a session (R180). -/

/-- A channel without its sessions and what result items use up. -/
def Chan.apartSessions (c : Chan) : Chan := { c.apartItems with ctx := Vector.replicate 8 Ctx.free, arrived := [] }

theorem Dev.ItemsOnly.apartSessions {d e : Dev} (h : d.ItemsOnly e) (m : Nat) : (e.chan m).apartSessions = (d.chan m).apartSessions := by
  have k := congrArg (fun c : Chan => ({ c with ctx := Vector.replicate 8 Ctx.free, arrived := [] } : Chan)) (h m)
  exact k

theorem sessionEnd_apart (n k cause : Nat) (d : Dev) (m : Nat) : ((sessionEnd n k cause d).chan m).apartSessions = (d.chan m).apartSessions := by
  unfold sessionEnd
  dsimp only
  split
  · rfl
  · have h := (postIn_items n 0x24 (packW [(28, 4, k), (20, 8, ((d.chan n).context k).gen), (16, 4, cause)] :: idWords ((d.chan n).context k).id ++ d.stamp) d).apartSessions m
    generalize postIn n 0x24 (packW [(28, 4, k), (20, 8, ((d.chan n).context k).gen), (16, 4, cause)] :: idWords ((d.chan n).context k).id ++ d.stamp) d = e at h ⊢
    have h1 := modChan_of Chan.apartSessions (f := fun c => { c with ctx := vmod c.ctx k fun _ => Ctx.free }) (fun _ => rfl) e n m
    generalize hx : e.modChan n (fun c => { c with ctx := vmod c.ctx k fun _ => Ctx.free }) = x at h1
    unfold Dev.modCtx
    rw [hx]
    have h2 := modChan_of Chan.apartSessions (f := fun c => { c with arrived := c.arrived.filter (·.1 ≠ k) }) (fun _ => rfl) x n m
    exact h2.trans (h1.trans h)

/-- The context whose session ends is free, the others are as they were. -/
theorem sessionEnd_context (n : Fin 24) (k cause : Nat) (h8 : k < 8) (d : Dev) (j : Nat) :
    ((sessionEnd n.val k cause d).chan n.val).context j =
      if j = k ∧ ((d.chan n.val).context k).st ≠ 0 then Ctx.free else (d.chan n.val).context j := by
  unfold sessionEnd
  dsimp only
  split
  next h0 => rw [if_neg (by simp [h0])]
  next h0 =>
    have h := (postIn_items n.val 0x24 (packW [(28, 4, k), (20, 8, ((d.chan n.val).context k).gen), (16, 4, cause)] :: idWords ((d.chan n.val).context k).id ++ d.stamp) d).ctx
      n.val
    generalize postIn n.val 0x24 (packW [(28, 4, k), (20, 8, ((d.chan n.val).context k).gen), (16, 4, cause)] :: idWords ((d.chan n.val).context k).id ++ d.stamp) d = e at h ⊢
    rw [chan_modChan]
    show vget ((e.modCtx n.val k fun _ => Ctx.free).chan n.val).ctx j Ctx.free = _
    unfold Dev.modCtx
    rw [chan_modChan, h]
    by_cases hj : j = k
    · subst hj
      rw [if_pos ⟨rfl, h0⟩]
      exact vget_vmod_same _ _ _ _ h8
    · rw [if_neg fun x => hj x.1]
      exact vget_vmod_ne _ _ _ hj

theorem plainItem_context (n : Nat) (cmd : PCmd) (ctx code cut : Nat) (d : Dev) (m j : Nat) :
    ((plainItem n cmd ctx code cut d).chan m).context j = (d.chan m).context j := by
  unfold Chan.context
  rw [(plainItem_items n cmd ctx code cut d).ctx m]

/-- RELEASE frees the context with no frame (R180, R184). -/
theorem release_frees (h : s.dev.Heads n.val 5 cmd rest) (hk : k = bits cmd.w1 31 28) (h8 : k < 8) (hc : c = (s.dev.chan n.val).context k) (hl : c.leaving = false)
    (h1 : 1 ≤ c.st) (h5 : c.st ≤ 5) (hv : ∀ x xs, rest = x :: xs → x.valid = true) : Completes (.release n) s fun d =>
      (d.chan n.val).context k = Ctx.free ∧ (d.chan n.val).exch = (s.dev.chan n.val).exch ∧ (d.chan n.val).job = none ∧ (d.chan n.val).queue = rest ∧
      d.mem = s.dev.mem := by
  have hd := dequeued_named (rest := rest) hc
  have hst : [1, 2, 3, 4, 5].contains c.st = true := by
    obtain h | h | h | h | h : c.st = 1 ∨ c.st = 2 ∨ c.st = 3 ∨ c.st = 4 ∨ c.st = 5 := by omega
    all_goals rw [h]; rfl
  have hch := dequeued_chan s.dev.begun n rest
  have hj : (s.dev.chan n.val).job = none := h.2.2.2.1
  have hm : (takeHead n.val 5 (cmdRelease n.val) s.dev.begun).mem = s.dev.mem := (execRelease_changes (s := s) n rfl).2.parts .mem (by decide)
  refine Completes.effect (takeHead n.val 5 (cmdRelease n.val)) rfl ?_
  rw [takeHead_heads h.begun]
  have hrun : cmdRelease n.val cmd (s.dev.begun.dequeued n.val rest) = sessionEnd n.val k seRELEASED (plainItem n.val cmd k cDONE 0 (s.dev.begun.dequeued n.val rest)) := by
    unfold cmdRelease
    exact onContext_runs n.val cmd [1, 2, 3, 4, 5] _ _ hk h8 hd hl hst
  rw [hrun]
  have hc1 := (sessionEnd_context n k seRELEASED h8 (plainItem n.val cmd k cDONE 0 (s.dev.begun.dequeued n.val rest)) k)
  rw [plainItem_context, hd, if_pos ⟨rfl, by omega⟩] at hc1
  have ha := (sessionEnd_apart n.val k seRELEASED (plainItem n.val cmd k cDONE 0 (s.dev.begun.dequeued n.val rest)) n.val).trans
    ((plainItem_items n.val cmd k cDONE 0 (s.dev.begun.dequeued n.val rest)).apartSessions n.val)
  rw [hch] at ha
  rw [takeHead_heads h.begun, hrun] at hm
  generalize sessionEnd n.val k seRELEASED (plainItem n.val cmd k cDONE 0 (s.dev.begun.dequeued n.val rest)) = e at hc1 ha hm ⊢
  have hq := congrArg Chan.queue ha
  have hex := congrArg Chan.exch ha
  have hjob := congrArg Chan.job ha
  have hdr := drain_valid n.val e fun x xs hx => hv x xs (hq.symm.trans hx)
  rw [hdr] at hm ⊢
  exact ⟨hc1, hex, hjob.trans hj, hq, hm⟩

end Sessions

/-- Settles O26: each command posts the frame of its case; RELEASE ends the session alone. -/
theorem sessionCommands : Obligations.SessionCommands := by
  intro s n cmd rest k c hk h8 hc hl
  refine ⟨fun h hs hf hm => ?_, fun h h0 data hd => exchange_posts h hk h8 hc hl h0 hd, fun h => halt_posts h hk h8 hc hl,
    fun h h1 h5 hv => release_frees h hk h8 hc hl h1 h5 hv⟩
  obtain ⟨hV, hA⟩ := activate_posts h hk h8 hc hl hs hf hm
  refine ⟨fun hp hj => ?_, fun hp hp0 hs0 => ?_, fun hp => ?_, hV⟩
  · have hno : ¬ (s.dev.chan n.val).activeA = true := fun ha => by
      obtain ⟨j, h, -, hs⟩ := (activeA_iff _).mp ha
      exact hj j h hs
    have e := hA (by omega)
    rw [if_neg fun x => hno x.2, if_pos hp] at e
    exact e
  · have hyes : (s.dev.chan n.val).activeA = true := (activeA_iff _).mpr ⟨0, by decide, hp0, hs0⟩
    have e := hA (by omega)
    rw [if_pos ⟨hp, hyes⟩] at e
    exact e
  · have e := hA (by omega)
    rw [if_neg (by omega), if_neg (by omega)] at e
    exact e

/-! Secure sessions (O28). -/

section Secure

variable {s : State} {n : Fin 24} {cmd : PCmd} {rest : List PCmd} {k : Nat} {c : Ctx}

theorem dropSession_chan (n : Fin 24) (k : Nat) (d : Dev) : (dropSession n.val k d).chan n.val = { d.chan n.val with ctx := vmod (d.chan n.val).ctx k fun c => { c with sm := none } } :=
  chan_modChan n _ d

theorem dropSession_context (n : Fin 24) (k : Nat) (h8 : k < 8) (d : Dev) :
    ((dropSession n.val k d).chan n.val).context k = { (d.chan n.val).context k with sm := none } := by
  rw [dropSession_chan]
  exact vget_vmod_same _ _ _ _ h8

/-- AUTH asks for the tag's random number (R247). -/
theorem auth_posts (h : s.dev.Heads n.val 0x10 cmd rest) (hk : k = bits cmd.w1 31 28) (h8 : k < 8) (hc : c = (s.dev.chan n.val).context k) (hl : c.leaving = false)
    {key : KeySlot} (hs : c.st = 3) (hkey : s.dev.keySlot (bits cmd.w1 21 16) = some key) (ha : bit key.attr 0 = true) (hloops : s.dev.loopsClosed = true)
    (hent : s.dev.entropy = true) : Completes (.auth n) s fun d =>
      d.Posts n.val k (firstBlock c [byte (bits cmd.w1 7 0), 0x84, 0x00, 0x00, 0x10]) ∧ ((d.chan n.val).context k).sm = none ∧
      d.cy.requests = s.dev.cy.requests + 1 ∧ d.mem = s.dev.mem := by
  have hd := dequeued_named (rest := rest) hc
  have hm : (takeHead n.val 0x10 (cmdAuth n.val) s.dev.begun).mem = s.dev.mem := (execAuth_changes (s := s) n rfl).2.parts .mem (by decide)
  refine Completes.effect (takeHead n.val 0x10 (cmdAuth n.val)) rfl ?_
  have hx := dropSession_context n k h8 (s.dev.begun.dequeued n.val rest)
  rw [hd] at hx
  have hpow : (dropSession n.val k (s.dev.begun.dequeued n.val rest)).on PW_STATUS_PFAIL = false := h.powered
  have hkey' : (dropSession n.val k (s.dev.begun.dequeued n.val rest)).keySlot (bits cmd.w1 21 16) = some key := hkey
  have hloops' : (dropSession n.val k (s.dev.begun.dequeued n.val rest)).loopsClosed = true := hloops
  have hent' : (dropSession n.val k (s.dev.begun.dequeued n.val rest)).entropy = true := hent
  have hcy : (dropSession n.val k (s.dev.begun.dequeued n.val rest)).cy = s.dev.cy := rfl
  have hrun : cmdAuth n.val cmd (s.dev.begun.dequeued n.val rest) =
      (let r := (dropSession n.val k (s.dev.begun.dequeued n.val rest)).random 16
       beginBlocks n.val { mkCmd cmd k c .auth1 with ra := r.1 } [byte (bits cmd.w1 7 0), 0x84, 0x00, 0x00, 0x10] r.2) := by
    unfold cmdAuth
    rw [onContext_runs n.val cmd [3] _ _ hk h8 hd hl (by rw [hs]; rfl)]
    simp only [hkey', hloops', hent', ha, Bool.not_true, Bool.or_false, Bool.false_eq_true, if_false]
  generalize dropSession n.val k (s.dev.begun.dequeued n.val rest) = e at hx hpow hcy hrun
  have hp := beginBlocks_posted n { mkCmd cmd k c .auth1 with ra := (e.random 16).1 } [byte (bits cmd.w1 7 0), 0x84, 0x00, 0x00, 0x10] (e.random 16).2 hpow
    (show ((e.chan n.val).context k).leaving = false by rw [hx]; exact hl)
  rw [takeHead_heads h.begun, hrun] at hm ⊢
  dsimp only at hm ⊢
  generalize beginBlocks n.val { mkCmd cmd k c .auth1 with ra := (e.random 16).1 } [byte (bits cmd.w1 7 0), 0x84, 0x00, 0x00, 0x10] (e.random 16).2 = y at hp hm ⊢
  obtain ⟨h1, h2, h3, h4, h5⟩ := hp
  rw [drain_busy _ _ h2] at hm ⊢
  refine ⟨?_, ?_, ?_, hm⟩
  · have e1 : firstBlock (((e.random 16).2.chan n.val).context k) [byte (bits cmd.w1 7 0), 0x84, 0x00, 0x00, 0x10] =
        firstBlock c [byte (bits cmd.w1 7 0), 0x84, 0x00, 0x00, 0x10] := by
      rw [show ((e.random 16).2.chan n.val).context k = { c with sm := none } from hx]
      rfl
    rw [← e1]
    exact h1
  · have e2 : (y.chan n.val).context k = { c with sm := none } := by
      unfold Chan.context
      rw [h4]
      exact hx
    rw [e2]
  · rw [h5]
    exact congrArg (fun x : CySt => x.requests + 1) hcy

/-- SM_EXCHANGE wraps its APDU under the next counter (R249). -/
theorem smExchange_posts (h : s.dev.Heads n.val 0x11 cmd rest) (hk : k = bits cmd.w1 31 28) (h8 : k < 8) (hc : c = (s.dev.chan n.val).context k) (hl : c.leaving = false)
    {x : SmSession} (hs : c.st = 3) (hlen : bits cmd.w1 15 0 ≤ 239) (hle : bits (wordAt cmd.args 2) 8 0 ≤ 256) (hx : c.sm = some x) (hn : x.c ≠ 0xFFFFFFFF) :
    Completes (.smExchange n) s (PostsFrame s n rest k (firstBlock c (smWrap { x with c := x.c + 1 } (bits (wordAt cmd.args 1) 31 24) (bits (wordAt cmd.args 1) 23 16)
      (bits (wordAt cmd.args 1) 15 8) (bits (wordAt cmd.args 1) 7 0) (bits (wordAt cmd.args 2) 8 0)
      ((wordsToBytes (cmd.args.drop 3)).take (bits cmd.w1 15 0))))) := by
  have hd := dequeued_named (rest := rest) hc
  refine Completes.posts (f := cmdSm n.val) rfl (execSmExchange_changes n) (by decide) h ?_
  unfold cmdSm
  dsimp only
  rw [decide_eq_false (by omega : ¬ 239 < bits cmd.w1 15 0), decide_eq_false (by omega : ¬ 256 < bits (wordAt cmd.args 2) 8 0), if_neg (by decide),
    onContext_runs n.val cmd [3] _ _ hk h8 hd hl (by rw [hs]; rfl), hx]
  dsimp only
  rw [if_neg hn]
  generalize smWrap { x with c := x.c + 1 } _ _ _ _ _ _ = bs
  have e := beginBlocks_posted n { mkCmd cmd k c .sm with sm := some { x with c := x.c + 1 } } bs (s.dev.begun.dequeued n.val rest) h.powered (dequeued_stays hc hl)
  have hf : firstBlock (((s.dev.begun.dequeued n.val rest).chan n.val).context k) bs = firstBlock c bs := by rw [hd]
  rw [← hf]
  exact e

/-- SM_END ends the secure session alone (R251). -/
theorem smEnd_ends (h : s.dev.Heads n.val 0x12 cmd rest) (hk : k = bits cmd.w1 31 28) (h8 : k < 8) (hc : c = (s.dev.chan n.val).context k)
    (hsm : c.sm.isSome = true) (hv : ∀ x xs, rest = x :: xs → x.valid = true) : Completes (.smEnd n) s fun d =>
      (d.chan n.val).context k = { c with sm := none } ∧ (d.chan n.val).exch = (s.dev.chan n.val).exch ∧ d.mem = s.dev.mem := by
  have hd := dequeued_named (rest := rest) hc
  have hm : (takeHead n.val 0x12 (cmdSmEnd n.val) s.dev.begun).mem = s.dev.mem := (execSmEnd_changes (s := s) n rfl).2.parts .mem (by decide)
  have hch := dropSession_chan n k (s.dev.begun.dequeued n.val rest)
  rw [dequeued_chan] at hch
  have hx := dropSession_context n k h8 (s.dev.begun.dequeued n.val rest)
  rw [hd] at hx
  have hrun : cmdSmEnd n.val cmd (s.dev.begun.dequeued n.val rest) = plainItem n.val cmd k cDONE 0 (dropSession n.val k (s.dev.begun.dequeued n.val rest)) := by
    subst hk
    unfold cmdSmEnd
    dsimp only
    rw [if_neg (by omega), hd, if_neg (by rw [← Option.not_isSome, hsm]; decide)]
  refine Completes.effect (takeHead n.val 0x12 (cmdSmEnd n.val)) rfl ?_
  rw [takeHead_heads h.begun, hrun] at hm ⊢
  generalize dropSession n.val k (s.dev.begun.dequeued n.val rest) = e at hch hx hm ⊢
  have hi := plainItem_items n.val cmd k cDONE 0 e
  have hcx := plainItem_context n.val cmd k cDONE 0 e n.val k
  generalize plainItem n.val cmd k cDONE 0 e = y at hi hcx hm ⊢
  have hq : (y.chan n.val).queue = rest := (hi.queue n.val).trans (by rw [hch])
  rw [drain_valid n.val y fun a as ha => hv a as (hq.symm.trans ha)] at hm ⊢
  exact ⟨hcx.trans hx, (hi.exch n.val).trans (by rw [hch]; rfl), hm⟩

end Secure

/-- Settles O28: AUTH and SM_EXCHANGE by the first block that they post, SM_END by what it drops. -/
theorem secureSessionCommands : Obligations.SecureSessionCommands := by
  intro s n cmd rest k c hk h8 hc hl
  exact ⟨fun key h hs hkey ha hlo he => auth_posts h hk h8 hc hl hs hkey ha hlo he, fun x h hs hlen hle hx hn => smExchange_posts h hk h8 hc hl hs hlen hle hx hn,
    fun h hsm hv => smEnd_ends h hk h8 hc hsm hv⟩

/-! Rounds and resets of the field (O25). -/

theorem sessionsEnd_rampOff (n : Fin 24) (cause : Nat) (d : Dev) :
    (sessionsEnd n.val cause d).rd (CH_TX_RAMP_RAMP_OFF n.val) = d.rd (CH_TX_RAMP_RAMP_OFF n.val) :=
  (sessionsEnd_after (Changes.refl _ _ d) (within_refl _) (covers_refl _) n.val cause).rd (rows_not (by apply every_index _ n; decide))

section RoundsAndResets

variable {s : State} {n : Fin 24} {cmd : PCmd} {rest : List PCmd}

theorem setInv_chan (n : Fin 24) (i : InvSt) (d : Dev) : (setInv n.val i d).chan n.val = { d.chan n.val with job := some (.inv { i with maxDepth := max i.maxDepth i.stack.length }) } :=
  chan_modChan n _ d

/-- INVENTORY asks for its grant (R184). -/
theorem inventory_asks (h : s.dev.Heads n.val 1 cmd rest) {proto coil : Nat} (hp : proto = bits cmd.w1 31 28) (hc : coil = bits cmd.w1 27 22) (h1 : 1 ≤ proto)
    (h4 : proto ≤ 4) (hcoil : coil < s.dev.coils n.val) (hmask : proto = 3 → bits (wordAt cmd.args 1) 21 16 ≤ 60) (hl : bits cmd.w1 15 8 ≠ 0)
    (hs : bits cmd.w1 7 0 ≠ 0) (hd : bit (s.dev.decl n.val).protocols (proto - 1) = true) : Completes (.inventory n) s fun d =>
      (d.chan n.val).queue = rest ∧
      (∃ i, (d.chan n.val).job = some (.inv i) ∧ i.step = .grant ∧ i.proto = proto ∧ i.coil = coil ∧ i.limit = bits cmd.w1 15 8 ∧ i.tag = cmd.tag) ∧
      d.ts.reqs = s.dev.ts.reqs ++ [{ owner := .pontoon, ch := n.val, coil := coil, slots := bits cmd.w1 7 0, handover := false, partner := 0, waited := 0,
                                      urgent := false }] ∧ d.mem = s.dev.mem := by
  have hm : (takeHead n.val 1 (cmdInventory n.val) s.dev.begun).mem = s.dev.mem := (execInventory_changes (s := s) n rfl).2.parts .mem (by decide)
  refine Completes.effect (takeHead n.val 1 (cmdInventory n.val)) rfl ?_
  rw [takeHead_heads h.begun] at hm ⊢
  have hcoil' : coil < (s.dev.begun.dequeued n.val rest).coils n.val := hcoil
  have hd' : bit ((s.dev.begun.dequeued n.val rest).decl n.val).protocols (proto - 1) = true := hd
  have hts : (s.dev.begun.dequeued n.val rest).ts = s.dev.ts := rfl
  have hch := dequeued_chan s.dev.begun n rest
  generalize s.dev.begun.dequeued n.val rest = e at hcoil' hd' hts hch hm ⊢
  have hrange : (decide (proto = 0) || decide (4 < proto) || decide (e.coils n.val ≤ coil) || (decide (proto = 3) && decide (60 < bits (wordAt cmd.args 1) 21 16))) = false := by
    simp only [Bool.or_eq_false_iff, Bool.and_eq_false_iff, decide_eq_false_iff_not]
    omega
  have hempty : (decide (bits cmd.w1 15 8 = 0) || decide (bits cmd.w1 7 0 = 0)) = false := by simp [hl, hs]
  subst hp hc
  unfold cmdInventory at hm ⊢
  dsimp only at hm ⊢
  rw [hrange, if_neg (by decide), hempty, if_neg (by decide), hd', if_neg (by decide)] at hm ⊢
  generalize hi : (InvSt.mk _ _ _ _ _ _ _ _ _ _ _ _ _ _ _ _ _ _ _ _ _ _ _ _ _ _ _ _ _ _ _ _ _ _ _ _ _ _ _) = i at hm ⊢
  have hstep : i.step = .grant ∧ i.proto = bits cmd.w1 31 28 ∧ i.coil = bits cmd.w1 27 22 ∧ i.limit = bits cmd.w1 15 8 ∧ i.tag = cmd.tag := by
    subst hi
    exact ⟨rfl, rfl, rfl, rfl, rfl⟩
  have hc2 := chan_modChan n (fun c => { c with recs := Records.none }) e
  have ht2 : (e.modChan n.val fun c => { c with recs := Records.none }).ts = s.dev.ts := hts
  generalize (e.modChan n.val fun c => { c with recs := Records.none }) = x at hc2 ht2 hm ⊢
  have hset := setInv_chan n i x
  have ht3 : (setInv n.val i x).ts = s.dev.ts := ht2
  generalize setInv n.val i x = y at hset ht3 hm ⊢
  rw [ht3] at hm ⊢
  have hyc : ∀ t : TsSt, ({ y with ts := t } : Dev).chan n.val = y.chan n.val := fun _ => rfl
  rw [drain_busy _ _ (by rw [hyc, hset]; rfl)] at hm ⊢
  exact ⟨by rw [hyc, hset, hc2, hch], ⟨{ i with maxDepth := max i.maxDepth i.stack.length }, congrArg Chan.job hset, hstep⟩, rfl, hm⟩

/-- Every session of the channel has ended, and the rest of the channel stands. -/
theorem sessionsEnd_context (n : Fin 24) (cause : Nat) (d : Dev) (j : Nat) (h8 : j < 8) : (((sessionsEnd n.val cause d).chan n.val).context j).st = 0 := by
  have steps : ∀ (ks : List Nat) (d : Dev), (∀ k ∈ ks, k < 8) → (j ∈ ks ∨ ((d.chan n.val).context j).st = 0) →
      (((d.each ks fun k => sessionEnd n.val k cause).chan n.val).context j).st = 0 := by
    intro ks
    induction ks with
    | nil => exact fun d _ h => h.resolve_left (by simp)
    | cons k ks ih =>
      intro d hk h
      refine ih (sessionEnd n.val k cause d) (fun x hx => hk x (List.mem_cons_of_mem _ hx)) ?_
      rw [sessionEnd_context n k cause (hk k List.mem_cons_self)]
      by_cases hj : j = k ∧ ((d.chan n.val).context k).st ≠ 0
      · exact Or.inr (by rw [if_pos hj]; rfl)
      · rw [if_neg hj]
        obtain hm | h0 := h
        · obtain rfl | hm := List.mem_cons.mp hm
          · exact Or.inr (by simpa using hj)
          · exact Or.inl hm
        · exact Or.inr h0
  exact steps (upTo 8) d (fun k hk => List.mem_range.mp hk) (Or.inl (List.mem_range.mpr h8))

theorem sessionsEnd_apart (n cause : Nat) (d : Dev) (m : Nat) : ((sessionsEnd n cause d).chan m).apartSessions = (d.chan m).apartSessions :=
  each_keeps (fun e => (e.chan m).apartSessions) (upTo 8) _ (fun k e => sessionEnd_apart n k cause e m) d

/-- A reset of the field from ON (R109, R112). -/
theorem resetField_eff (n : Fin 24) (d : Dev) :
    ((resetField n.val d).chan n.val).field.guard = false ∧
    ((resetField n.val d).chan n.val).field.st = (if d.rd (CH_TX_RAMP_RAMP_OFF n.val) = 0 then .resetOff else .resetDown) ∧
    ((resetField n.val d).chan n.val).ctx = (d.chan n.val).ctx ∧ ((resetField n.val d).chan n.val).queue = (d.chan n.val).queue ∧
    ((resetField n.val d).chan n.val).job = (d.chan n.val).job := by
  have h1 := chan_modChan n (fun c => { c with field := { c.field with st := .resetDown, guard := false, thenOff := false } }) d
  have hr : (d.modChan n.val fun c => { c with field := { c.field with st := .resetDown, guard := false, thenOff := false } }).rd (CH_TX_RAMP_RAMP_OFF n.val) =
    d.rd (CH_TX_RAMP_RAMP_OFF n.val) := rfl
  unfold resetField Dev.modField
  dsimp only
  generalize (d.modChan n.val fun c => { c with field := { c.field with st := .resetDown, guard := false, thenOff := false } }) = e at h1 hr ⊢
  rw [hr]
  split
  · have h2 := chan_modChan n (fun c => { c with field := { c.field with st := .resetOff, offAt := some e.ns } }) e
    unfold resetClamp Dev.modField
    rw [show ∀ x : Dev, (x.lower (CH_TX_STATUS_HEADROOM n.val)).chan n.val = x.chan n.val from fun _ => rfl, h2, h1]
    exact ⟨rfl, rfl, rfl, rfl, rfl⟩
  · rw [h1]
    exact ⟨rfl, rfl, rfl, rfl, rfl⟩

/-- RF_RESET from ON ends every session (R112, R180, R184). -/
theorem rfReset_runs (h : s.dev.Heads n.val 7 cmd rest) (hf : (s.dev.chan n.val).field.st = .on) : Completes (.rfReset n) s fun d =>
      (d.chan n.val).queue = rest ∧ (d.chan n.val).field.guard = false ∧
      (d.chan n.val).field.st = (if s.dev.rd (CH_TX_RAMP_RAMP_OFF n.val) = 0 then .resetOff else .resetDown) ∧
      (∀ k, k < 8 → ((d.chan n.val).context k).st = 0) ∧ d.mem = s.dev.mem := by
  have hm : (takeHead n.val 7 (cmdRfReset n.val) s.dev.begun).mem = s.dev.mem := (execRfReset_changes (s := s) n rfl).2.parts .mem (by decide)
  have hrun : cmdRfReset n.val cmd (s.dev.begun.dequeued n.val rest) =
      resetField n.val (sessionsEnd n.val seFIELD_OFF ((s.dev.begun.dequeued n.val rest).setJob n.val (.cmd { mkCmd cmd 15 Ctx.free .rfReset with begun := true }))) := by
    unfold cmdRfReset startRfReset
    rw [dequeued_chan]
    exact if_pos hf
  refine Completes.effect (takeHead n.val 7 (cmdRfReset n.val)) rfl ?_
  rw [takeHead_heads h.begun, hrun] at hm ⊢
  have hj := setJob_chan n (.cmd { mkCmd cmd 15 Ctx.free .rfReset with begun := true }) (s.dev.begun.dequeued n.val rest)
  rw [dequeued_chan] at hj
  have hr : ((s.dev.begun.dequeued n.val rest).setJob n.val (.cmd { mkCmd cmd 15 Ctx.free .rfReset with begun := true })).rd (CH_TX_RAMP_RAMP_OFF n.val) =
    s.dev.rd (CH_TX_RAMP_RAMP_OFF n.val) := rfl
  generalize (s.dev.begun.dequeued n.val rest).setJob n.val (.cmd { mkCmd cmd 15 Ctx.free .rfReset with begun := true }) = x at hj hr hm ⊢
  have hc := sessionsEnd_context n seFIELD_OFF x
  have ha := sessionsEnd_apart n.val seFIELD_OFF x n.val
  rw [hj] at ha
  have hr2 : (sessionsEnd n.val seFIELD_OFF x).rd (CH_TX_RAMP_RAMP_OFF n.val) = s.dev.rd (CH_TX_RAMP_RAMP_OFF n.val) :=
    (sessionsEnd_rampOff n seFIELD_OFF x).trans hr
  generalize sessionsEnd n.val seFIELD_OFF x = y at hc ha hr2 hm ⊢
  obtain ⟨e1, e2, e3, e4, e5⟩ := resetField_eff n y
  have hq := congrArg Chan.queue ha
  have hjob := congrArg Chan.job ha
  rw [drain_busy _ _ (by rw [e5, show (y.chan n.val).job = _ from hjob]; rfl)] at hm ⊢
  refine ⟨e4.trans hq, e1, by rw [e2, hr2], fun k h8 => ?_, hm⟩
  unfold Chan.context
  rw [e3]
  exact hc k h8

/-- RF_RESET waits for the field otherwise (R112, R184). -/
theorem rfReset_waits (h : s.dev.Heads n.val 7 cmd rest) (hf : (s.dev.chan n.val).field.st ≠ .on) : Completes (.rfReset n) s fun d =>
      (d.chan n.val).queue = rest ∧ (d.chan n.val).field = (s.dev.chan n.val).field ∧
      (d.chan n.val).job = some (.cmd (mkCmd cmd 15 Ctx.free .rfReset)) ∧ d.regs = s.dev.regs ∧ d.mem = s.dev.mem := by
  have hrun : cmdRfReset n.val cmd (s.dev.begun.dequeued n.val rest) = (s.dev.begun.dequeued n.val rest).setJob n.val (.cmd (mkCmd cmd 15 Ctx.free .rfReset)) := by
    unfold cmdRfReset
    dsimp only
    rw [dequeued_chan]
    exact if_neg hf
  have hj := setJob_chan n (.cmd (mkCmd cmd 15 Ctx.free .rfReset)) (s.dev.begun.dequeued n.val rest)
  rw [dequeued_chan] at hj
  refine Completes.effect (takeHead n.val 7 (cmdRfReset n.val)) rfl ?_
  rw [takeHead_heads h.begun, hrun, drain_busy _ _ (by rw [hj]; rfl), hj]
  exact ⟨rfl, rfl, rfl, rfl, rfl⟩

end RoundsAndResets

/-- Settles O25: a round asks for its grant; a reset of the field runs from ON and waits otherwise. -/
theorem roundAndResetCommands : Obligations.RoundAndResetCommands := by
  intro s n cmd rest
  exact ⟨fun h proto coil hp hc h1 h4 hco hmask hl hs hd => inventory_asks h hp hc h1 h4 hco hmask hl hs hd, fun h hf => rfReset_runs h hf, fun h hf => rfReset_waits h hf⟩

/-! Migration and CANCEL (O27). -/

theorem dequeued_ctx (d : Dev) (n : Nat) (rest : List PCmd) (m : Nat) : ((d.dequeued n rest).chan m).ctx = (d.chan m).ctx :=
  modChan_of Chan.ctx (f := fun c => { c with queue := rest }) (fun _ => rfl) d n m

theorem freeCtx_of_ctx {a b : Chan} (h : a.ctx = b.ctx) : a.freeCtx = b.freeCtx := by unfold Chan.freeCtx Chan.context; rw [h]

/-- The queue plays no part in a refusal. -/
theorem migrateRefusal_dequeued (n k t : Nat) (c : Ctx) (d : Dev) (rest : List PCmd) :
    migrateRefusal n k t c (d.dequeued n rest) = migrateRefusal n k t c d := by
  unfold migrateRefusal
  by_cases ht : t = n
  · simp [ht]
  · have h : (d.dequeued n rest).chan t = d.chan t := vget_vmod_ne _ _ _ ht
    rw [h]
    rfl

/-- A target that is not refused is another channel of the part. -/
theorem migrateRefusal_target {n k t : Nat} {c : Ctx} {d : Dev} (h : migrateRefusal n k t c d = none) : t ≠ n ∧ t < 24 := by
  unfold migrateRefusal at h
  dsimp only at h
  split at h
  · exact absurd h (by simp)
  · split at h
    · exact absurd h (by simp)
    next hn => exact ⟨fun x => hn (by simp [x]), Nat.lt_of_not_le fun x => hn (by simp [x])⟩

theorem sessionEnd_other (n k cause : Nat) (d : Dev) {m : Nat} (hm : m ≠ n) : ((sessionEnd n k cause d).chan m).ctx = (d.chan m).ctx := by
  unfold sessionEnd
  dsimp only
  split
  · rfl
  · have h := (postIn_items n 0x24 (packW [(28, 4, k), (20, 8, ((d.chan n).context k).gen), (16, 4, cause)] :: idWords ((d.chan n).context k).id ++ d.stamp) d).ctx m
    generalize postIn n 0x24 (packW [(28, 4, k), (20, 8, ((d.chan n).context k).gen), (16, 4, cause)] :: idWords ((d.chan n).context k).id ++ d.stamp) d = e at h ⊢
    rw [show ((e.modCtx n k fun _ => Ctx.free).modChan n fun c => { c with arrived := c.arrived.filter (·.1 ≠ k) }).chan m = e.chan m from
      (vget_vmod_ne _ _ _ hm).trans (vget_vmod_ne _ _ _ hm)]
    exact h

theorem modCtx_context (n : Fin 24) (k : Nat) (h8 : k < 8) (f : Ctx → Ctx) (d : Dev) :
    ((d.modCtx n.val k f).chan n.val).context k = f ((d.chan n.val).context k) := by
  unfold Dev.modCtx
  rw [chan_modChan]
  exact vget_vmod_same _ _ _ _ h8

theorem modCtx_other (n k : Nat) (f : Ctx → Ctx) (d : Dev) {m : Nat} (hm : m ≠ n) : (d.modCtx n k f).chan m = d.chan m := vget_vmod_ne _ _ _ hm

theorem modCtx_job (n k : Nat) (f : Ctx → Ctx) (d : Dev) (m : Nat) : ((d.modCtx n k f).chan m).job = (d.chan m).job :=
  modChan_of Chan.job (f := fun c => { c with ctx := vmod c.ctx k f }) (fun _ => rfl) d n m

/-- Items of the commands that a migration aborts, and the commands that end behind them, leave every context. -/
theorem aborted_ctx (n k gen : Nat) (cs : List PCmd) (d : Dev) (m : Nat) :
    ((drain n (d.each cs fun x => plainItemAs n x k gen true cABORTED cutMIGRATED)).chan m).ctx = (d.chan m).ctx :=
  (drain_ctx n _ m).trans (each_keeps (fun e => (e.chan m).ctx) cs _ (fun x e => (plainItemAs_items n x k gen true cABORTED cutMIGRATED e).ctx m) d)

/-- With no command running, the old placement of a session that moves on ends at once (R177, R201). -/
theorem withdraw_idle (n k : Nat) (d : Dev) (h : (d.chan n).job = none) : withdraw n k d = leaveOld n k d := by
  unfold withdraw
  dsimp only
  rw [h]

/-- A session that is not in ACTIVE_4 passes to its target, and its old placement is free (R201). -/
theorem migrate_moves (n t : Fin 24) (ht : t.val ≠ n.val) {k j : Nat} (h8 : k < 8) (hj8 : j < 8) (cmd : PCmd) (c : Ctx) (hc : c.st ≠ 3) (d : Dev)
    (hjob : (d.chan n.val).job = none) :
    ((migrate n.val k t.val j cmd c d).chan t.val).context j = { c with prev := c.st, gen := (c.gen + 1) % 256, coil := d.selected t.val } ∧
    ((migrate n.val k t.val j cmd c d).chan n.val).context k = Ctx.free := by
  unfold migrate
  dsimp only
  rw [if_neg hc]
  generalize hx : ({ c with st := 5, prev := c.st, gen := (c.gen + 1) % 256, coil := d.selected t.val } : Ctx) = x
  have t2 := modCtx_context t j hj8 (fun _ => x) d
  have n2 := (modCtx_job t.val j (fun _ => x) d n.val).trans hjob
  generalize d.modCtx t.val j (fun _ => x) = d2 at t2 n2 ⊢
  have n3 := modCtx_context n k h8 (fun c => { c with st := 5, leaving := true, sm := none }) d2
  have t3 := modCtx_other n.val k (fun c => { c with st := 5, leaving := true, sm := none }) d2 ht
  have j3 := (modCtx_job n.val k (fun c => { c with st := 5, leaving := true, sm := none }) d2 n.val).trans n2
  generalize d2.modCtx n.val k (fun c => { c with st := 5, leaving := true, sm := none }) = d3 at n3 t3 j3 ⊢
  have j4 := (modChan_of Chan.job (f := fun c => { c with queue := c.queue.filter fun x => !x.names k }) (fun _ => rfl) d3 n.val n.val).trans j3
  have c4 := modChan_of Chan.ctx (f := fun c => { c with queue := c.queue.filter fun x => !x.names k }) (fun _ => rfl) d3 n.val
  generalize d3.modChan n.val (fun c => { c with queue := c.queue.filter fun x => !x.names k }) = d4 at j4 c4 ⊢
  have n4 : (d4.chan n.val).context k = (d3.chan n.val).context k := by unfold Chan.context; rw [c4]
  rw [withdraw_idle n.val k d4 j4]
  have n5 := sessionEnd_context n k seMIGRATED_OUT h8 d4 k
  rw [n4, n3, if_pos ⟨rfl, (by decide : ¬ 5 = 0)⟩] at n5
  have t5 := sessionEnd_other n.val k seMIGRATED_OUT d4 ht
  unfold leaveOld
  rw [n4, n3, if_pos rfl]
  generalize sessionEnd n.val k seMIGRATED_OUT d4 = d5 at n5 t5 ⊢
  have c6 := aborted_ctx n.val k c.gen ((d3.chan n.val).queue.filter (·.names k)) (d5.countSat (CH_INV_STATS_MIGRATED n.val) 1)
  generalize drain n.val ((d5.countSat (CH_INV_STATS_MIGRATED n.val) 1).each _ fun x => plainItemAs n.val x k c.gen true cABORTED cutMIGRATED) = d6 at c6 ⊢
  have ctxOf : ∀ {a b : Chan} (i : Nat), a.ctx = b.ctx → a.context i = b.context i := fun i h => by unfold Chan.context; rw [h]
  rw [plainItem_context, plainItem_context, modCtx_context t j hj8, modCtx_other t.val j _ d6 (Ne.symm ht)]
  constructor
  · rw [ctxOf j (c6 t.val), show ((d5.countSat (CH_INV_STATS_MIGRATED n.val) 1).chan t.val) = d5.chan t.val from rfl, ctxOf j t5, ctxOf j (c4 t.val), t3, t2, ← hx]
  · rw [ctxOf k (c6 n.val)]
    exact n5

theorem freeCtx_lt {c : Chan} {j : Nat} (h : c.freeCtx = some j) : j < 8 := List.mem_range.mp (List.mem_of_find?_eq_some h)

/-- Settles O27: the migration step by step; CANCEL takes one command out of the queue. -/
theorem sessionsMigrateAndCommandsAreCancelled : Obligations.SessionsMigrateAndCommandsAreCancelled := by
  constructor
  · intro s n cmd rest k t j c hready ht hjob hk h8 htgt hc
    have hd := dequeued_named (rest := rest) hc
    have href := migrateRefusal_dequeued n.val k t c s.dev.begun rest
    have hfree := freeCtx_of_ctx (dequeued_ctx s.dev.begun n.val rest t)
    have hrun : cmdMigrate n.val s.dev.begun =
        match migrateRefusal n.val k t c s.dev.begun, (s.dev.begun.chan t).freeCtx with
        | some code, _ => drain n.val (plainItem n.val cmd k code 0 (s.dev.begun.dequeued n.val rest))
        | none, none => drain n.val (plainItem n.val cmd k cNO_CONTEXT 0 (s.dev.begun.dequeued n.val rest))
        | none, some j => migrate n.val k t j cmd c (s.dev.begun.dequeued n.val rest) := by
      rw [← href, ← hfree, hc, hk, htgt]
      have hready' : (s.dev.begun.chan n.val).migrateReady = some (cmd, rest) := hready
      unfold cmdMigrate
      rw [show s.dev.begun.mayTake = true from ht, if_neg (by decide), hready']
      dsimp only
      rw [if_neg (by omega)]
      rfl
    have hm : (cmdMigrate n.val s.dev.begun).mem = s.dev.mem := (execMigrate_changes (s := s) n rfl).2.parts .mem (by decide)
    refine ⟨fun hno hj hst => Completes.effect (cmdMigrate n.val) rfl ?_, fun hyes hv => Completes.effect (cmdMigrate n.val) rfl ?_⟩
    · obtain ⟨hn, h24⟩ := migrateRefusal_target hno
      rw [hrun, show migrateRefusal n.val k t c s.dev.begun = none from hno, show (s.dev.begun.chan t).freeCtx = some j from hj] at hm ⊢
      obtain ⟨e1, e2⟩ := migrate_moves n ⟨t, h24⟩ hn h8 (freeCtx_lt hj) cmd c hst (s.dev.begun.dequeued n.val rest) (by rw [dequeued_chan]; exact hjob)
      exact ⟨e1, e2, hm⟩
    · obtain ⟨code, hcode⟩ := Option.ne_none_iff_exists'.mp hyes
      rw [hrun, show migrateRefusal n.val k t c s.dev.begun = some code from hcode] at hm ⊢
      dsimp only at hm ⊢
      have hi := plainItem_items n.val cmd k code 0 (s.dev.begun.dequeued n.val rest)
      generalize plainItem n.val cmd k code 0 (s.dev.begun.dequeued n.val rest) = y at hi hm ⊢
      have hq : (y.chan n.val).queue = rest := (hi.queue n.val).trans (by rw [dequeued_chan])
      rw [drain_valid n.val y fun a as ha => hv a as (hq.symm.trans ha)] at hm ⊢
      refine ⟨fun i => ?_, hq, hm⟩
      unfold Chan.context
      rw [hi.ctx, dequeued_ctx]
      rfl
  · intro s n cmd x rest left ht hjob hfirst hsecond
    have hm : (cmdCancel n.val s.dev.begun).mem = s.dev.mem := (execCancel_changes (s := s) n rfl).2.parts .mem (by decide)
    refine Completes.effect (cmdCancel n.val) rfl ?_
    have hfirst' : takeFirst (fun c => c.opcode == 8 && c.valid) (s.dev.begun.chan n.val).queue = some (cmd, rest) := hfirst
    unfold cmdCancel at hm ⊢
    rw [show s.dev.begun.mayTake = true from ht, if_neg (by decide), hfirst'] at hm ⊢
    dsimp only at hm ⊢
    rw [hsecond] at hm ⊢
    dsimp only at hm ⊢
    have hch := dequeued_chan s.dev.begun n left
    have hi : (s.dev.begun.dequeued n.val left).ItemsOnly (plainItem n.val cmd 15 cDONE 0 (if x.opcode = 1 then emptyRound n.val x.tag cABORTED 0 (s.dev.begun.dequeued n.val left)
        else plainItem n.val x 15 cABORTED 0 (s.dev.begun.dequeued n.val left))) := by
      refine Dev.ItemsOnly.trans ?_ (plainItem_items n.val cmd 15 cDONE 0 _)
      split
      · exact emptyRound_items n.val x.tag cABORTED 0 _
      · exact plainItem_items n.val x 15 cABORTED 0 _
    generalize hy : plainItem n.val cmd 15 cDONE 0 _ = y at hi
    have hy' : plainItem n.val cmd 15 cDONE 0 (if x.opcode = 1 then emptyRound n.val x.tag cABORTED 0 (s.dev.begun.modChan n.val fun c => { c with queue := left })
        else plainItem n.val x 15 cABORTED 0 (s.dev.begun.modChan n.val fun c => { c with queue := left })) = y := hy
    rw [hy'] at hm ⊢
    have hyj := (hi.job n.val).trans (congrArg Chan.job hch)
    rw [drain_busy _ _ (by rw [hyj]; exact hjob)] at hm ⊢
    exact ⟨(hi.queue n.val).trans (by rw [hch]), hyj, (hi.exch n.val).trans (by rw [hch]; rfl), hm⟩

end Sys2Proof.Machine
end

section
/-!
The Crossing survey (09_survey_scheduling.md): a survey's states, measurements and end, on one device and across devices.
-/

namespace Sys2Proof.Machine

/-- The survey engine depends on the Manifest and on whether it runs. -/
theorem engine_of {d e : Dev} (hp : e.power = d.power) (hb : e.boot = d.boot) (h1 : e.rd PW_STATE_CUR = d.rd PW_STATE_CUR)
    (h2 : e.rd GC_STATUS_PLLA_LOCK = d.rd GC_STATUS_PLLA_LOCK) (h3 : e.rd DK_STATUS_LOADED = d.rd DK_STATUS_LOADED)
    (h4 : e.rd GC_BOOT_BARE = d.rd GC_BOOT_BARE) : e.engine = d.engine := by
  unfold Dev.engine
  rw [hb, applied_of hp hb h1 h2 h3 h4]

theorem accessed_engine (d : Dev) (p : Path) : (d.accessed p).engine = d.engine :=
  engine_of (Dev.beginAccess_power _ p) (Dev.beginAccess_boot _ p) (accessed_rd d p _) (accessed_rd d p _) (accessed_rd d p _) (accessed_rd d p _)

theorem accessed_boot (d : Dev) (p : Path) : (d.accessed p).boot = d.boot := Dev.beginAccess_boot _ p
theorem accessed_ts (d : Dev) (p : Path) : (d.accessed p).ts = d.ts := Dev.beginAccess_ts _ p
theorem decl_of {d e : Dev} (h : e.boot = d.boot) (n : Nat) : e.decl n = d.decl n := by unfold Dev.decl; rw [h]
theorem readerBerths_of {d e : Dev} (h : e.boot = d.boot) : e.readerBerths = d.readerBerths := by
  have hr : ∀ n, e.reader n = d.reader n := fun n => by unfold Dev.reader; rw [decl_of h]
  unfold Dev.readerBerths Dev.coils
  simp only [hr, decl_of h]

theorem followListeners_mem (d : Dev) : (followListeners d).mem = d.mem :=
  (followListeners_after (Changes.refl _ _ d) (within_refl _) (covers_refl _)).parts .mem (by decide)
theorem followListeners_ts (d : Dev) : (followListeners d).ts = d.ts :=
  (followListeners_after (Changes.refl _ _ d) (within_refl _) (covers_refl _)).parts .ts (by decide)

/-- A field outside the receivers' state reads as before. -/
theorem followListeners_rd (d : Dev) {f : Fld} (h : ¬ Rows [.row 0x40108 24 0x2000 29] f.bit) : (followListeners d).rd f = d.rd f :=
  (followListeners_after (Changes.refl _ _ d) (within_refl _) (covers_refl _)).rd h

/-- The end of a survey (R211). -/
theorem endSurvey_eff (code : Nat) (d : Dev) :
    (endSurvey code d).rd TS_STATUS_SURVEY = 0 ∧ (endSurvey code d).rd TS_SURVEY_GO = 0 ∧ (endSurvey code d).rd TS_SURVEY_ABORT = 0 ∧
    (endSurvey code d).rd TS_SURVEY_STATUS_CODE = code % 256 ∧ (endSurvey code d).ts.tables = d.ts.tables ∧ (endSurvey code d).mem = d.mem ∧
    (endSurvey code d).rd TS_STATUS_NB_VALID = d.rd TS_STATUS_NB_VALID ∧ (endSurvey code d).rd TS_STATUS_NB_DIRTY = d.rd TS_STATUS_NB_DIRTY := by
  unfold endSurvey
  dsimp only
  generalize hx : (((((d.wr TS_STATUS_SURVEY 0).lower TS_SURVEY_GO).lower TS_SURVEY_ABORT).wr TS_SURVEY_STATUS_CODE code).modSurvey fun s =>
    { SurveySt.reset with peer := s.peer }) = x
  rw [followListeners_ts, followListeners_mem, followListeners_rd x (rows_not (by decide)), followListeners_rd x (rows_not (by decide)),
    followListeners_rd x (rows_not (by decide)), followListeners_rd x (rows_not (by decide)), followListeners_rd x (rows_not (by decide)),
    followListeners_rd x (rows_not (by decide))]
  have hr : ∀ f, x.rd f = ((((d.wr TS_STATUS_SURVEY 0).lower TS_SURVEY_GO).lower TS_SURVEY_ABORT).wr TS_SURVEY_STATUS_CODE code).rd f := fun f => by subst hx; rfl
  have ht : x.ts.tables = d.ts.tables := by subst hx; rfl
  have hm : x.mem = d.mem := by subst hx; rfl
  simp (disch := decide) [hr, ht, hm, Dev.rd_wr_ne, Dev.rd_lower_ne]

/-- A write of TS_SURVEY starts a survey on this device (R211, R212). -/
theorem surveyGo_starts (p : Path) (w : Word) (d : Dev) (hc : bits w.toNat 9 0 ≠ 0) (ha : bits w.toNat 13 10 ≠ 0) (hx : bit w.toNat 29 = false)
    (hg : d.on TS_SURVEY_GO = false) (hs : d.surveying = false) (hp : d.rd PW_STATE_CUR = 1) (he : d.engine = true)
    (hr : (d.readerBerths.any fun b => decide ((d.decl (b / 64)).maxPower < powerOf (bits w.toNat 9 0))) = false) :
    (surveyGo p w d).rd TS_STATUS_SURVEY = 1 ∧ (surveyGo p w d).rd TS_SURVEY_GO = 1 ∧ (surveyGo p w d).rd TS_SURVEY_CODE = bits w.toNat 9 0 ∧
    (surveyGo p w d).rd TS_SURVEY_AVG = bits w.toNat 13 10 ∧ (surveyGo p w d).ts.survey.sources = d.readerBerths ∧
    (surveyGo p w d).ts.tables = d.ts.tables ∧ (surveyGo p w d).mem = d.mem := by
  have h9 : bits w.toNat 9 0 % 1024 = bits w.toNat 9 0 := Nat.mod_eq_of_lt (bits_lt _ 9 0)
  have h13 : bits w.toNat 13 10 % 16 = bits w.toNat 13 10 := Nat.mod_eq_of_lt (bits_lt _ 13 10)
  unfold surveyGo
  dsimp only
  rw [hg, hs, hp, hx, decide_eq_false hc, decide_eq_false ha, if_neg (by decide)]
  generalize hy : (((((((d.raise TS_SURVEY_GO).flag TS_SURVEY_CROSS false).wr TS_SURVEY_PEER (bits w.toNat 27 16)).wr TS_SURVEY_AVG (bits w.toNat 13 10)).wr
    TS_SURVEY_CODE (bits w.toNat 9 0)).lower TS_SURVEY_STATUS_FOREIGN).lower TS_SURVEY_STATUS_MISSING) = y
  have hb : y.boot = d.boot := by subst hy; rfl
  have hm : y.mem = d.mem := by subst hy; rfl
  have ht : y.ts.tables = d.ts.tables := by subst hy; rfl
  have hk : y.rd TS_SURVEY_GO = 1 ∧ y.rd TS_SURVEY_CODE = bits w.toNat 9 0 ∧ y.rd TS_SURVEY_AVG = bits w.toNat 13 10 := by
    subst hy
    simp (disch := decide) [Dev.rd_wr_ne, Dev.rd_lower_ne, Dev.rd_flag_ne, h9, h13]
  have heng : y.engine = true := by
    rw [← he]
    subst hy
    refine engine_of rfl rfl ?_ ?_ ?_ ?_ <;> simp (disch := decide) [Dev.rd_wr_ne, Dev.rd_lower_ne, Dev.rd_flag_ne, Dev.rd_raise_ne]
  have hany : (y.readerBerths.any fun b => decide ((y.decl (b / 64)).maxPower < powerOf (bits w.toNat 9 0))) = false := by
    rw [readerBerths_of hb]
    simp only [decl_of hb]
    exact hr
  rw [heng, if_neg (by decide), hany, if_neg (by decide), if_pos (by decide)]
  obtain ⟨k1, k2, k3⟩ := hk
  refine ⟨Dev.rd_wr_same _ TS_STATUS_SURVEY 1, ?_, ?_, ?_, readerBerths_of hb, ht, hm⟩
  · exact (Dev.rd_wr_ne _ _ (by decide)).trans k1
  · exact (Dev.rd_wr_ne _ _ (by decide)).trans k2
  · exact (Dev.rd_wr_ne _ _ (by decide)).trans k3

/-- A survey that holds no grant of its own is aborted (R211, R214). -/
theorem surveyAbort_ends (p : Path) (w : Word) (d : Dev) (hs : d.surveying = true) (hg : ∀ g ∈ d.ts.grants, g.owner ≠ .survey) :
    surveyAbort p w d = endSurvey cABORTED d := by
  have hown : d.ts.grants.filter (·.owner == .survey) = [] := List.filter_eq_nil_iff.mpr fun g h => by simpa using hg g h
  unfold surveyAbort abortSurvey
  rw [hs, if_pos rfl, hown]
  rfl

theorem surveyMeasurement_quiet (n level phase floor : Nat) (d : Dev) (hl : d.listening n = true) (hf : level + 12 ≤ floor) (hp : d.ts.survey.pos = 1) :
    surveyMeasurement n level phase floor d = (d.modSurvey fun s => { s with spoiled := true }).raise TS_SURVEY_STATUS_FOREIGN := by
  unfold surveyMeasurement
  dsimp only
  rw [hl, hp, if_neg (by decide), if_pos rfl, if_pos hf]

theorem surveyMeasurement_coupling (n level phase floor : Nat) (d : Dev) (hl : d.listening n = true) (hf : level + 12 ≤ floor) (hp : 2 ≤ d.ts.survey.pos)
    (hs : d.selected n = d.ts.survey.pos - 2) (ho : d.on (CH_SEL_STATUS_ON n) = true) :
    surveyMeasurement n level phase floor d = d.modSurvey fun s =>
      { s with raw := s.raw.filter (·.1 ≠ berthOf n (d.ts.survey.pos - 2)) ++ [(berthOf n (d.ts.survey.pos - 2), level, phase)] } := by
  unfold surveyMeasurement
  dsimp only
  rw [hl, decide_eq_false (by omega : ¬ d.ts.survey.pos = 0), if_neg (by decide), if_neg (by omega), ho, decide_eq_false (by simp [hs]), decide_eq_false (by omega : ¬ floor < level + 12),
    if_neg (by decide)]
  rfl

/-- The commit of the tables sets them alone (R210, R214). -/
theorem surveyCommit_ends (d : Dev) (h : d.rd TS_STATUS_SURVEY = 5) :
    ∃ x : Dev, x.regs = d.regs ∧ x.mem = d.mem ∧ surveyCommit d = endSurvey cDONE ((x.raise TS_STATUS_NB_VALID).raise TS_STATUS_NB_DIRTY) := by
  refine ⟨if d.ts.survey.cross then commitCross d else commitInternal d, ?_, ?_, ?_⟩
  · split
    · exact (commitCross_after (Changes.refl _ _ d) (within_refl _) (covers_refl _)).parts .regs (by decide)
    · exact (commitInternal_after (Changes.refl _ _ d) (within_refl _) (covers_refl _)).parts .regs (by decide)
  · split
    · exact (commitCross_after (Changes.refl _ _ d) (within_refl _) (covers_refl _)).parts .mem (by decide)
    · exact (commitInternal_after (Changes.refl _ _ d) (within_refl _) (covers_refl _)).parts .mem (by decide)
  · unfold surveyCommit
    exact if_neg fun x => x h

theorem oneDeviceSurveys (s : State) :
    (∀ (p : Path) (w : Word), s.dev.reaches p 0x38000 = true → bits w.toNat 9 0 ≠ 0 → bits w.toNat 13 10 ≠ 0 → bit w.toNat 29 = false →
      s.dev.on TS_SURVEY_GO = false → s.dev.surveying = false → s.dev.rd PW_STATE_CUR = 1 → s.dev.engine = true →
      (s.dev.readerBerths.any fun b => decide ((s.dev.decl (b / 64)).maxPower < powerOf (bits w.toNat 9 0))) = false →
      Completes (.surveyGo p w) s fun d =>
        d.rd TS_STATUS_SURVEY = 1 ∧ d.rd TS_SURVEY_GO = 1 ∧ d.rd TS_SURVEY_CODE = bits w.toNat 9 0 ∧ d.rd TS_SURVEY_AVG = bits w.toNat 13 10 ∧
        d.ts.survey.sources = s.dev.readerBerths ∧ d.ts.tables = s.dev.ts.tables ∧ d.mem = s.dev.mem) ∧
    (∀ (p : Path) (w : Word), s.dev.reaches p 0x38000 = true → s.dev.surveying = true → (∀ g ∈ s.dev.ts.grants, g.owner ≠ .survey) →
      Completes (.surveyAbort p w) s fun d =>
        d.rd TS_STATUS_SURVEY = 0 ∧ d.rd TS_SURVEY_GO = 0 ∧ d.rd TS_SURVEY_ABORT = 0 ∧ d.rd TS_SURVEY_STATUS_CODE = cABORTED ∧
        d.ts.tables = s.dev.ts.tables ∧ d.rd TS_STATUS_NB_VALID = s.dev.rd TS_STATUS_NB_VALID ∧ d.mem = s.dev.mem) ∧
    (s.dev.rd TS_STATUS_SURVEY = 1 → s.dev.ts.grants = [] → Completes .surveyDrainDone s fun d =>
      d.rd TS_STATUS_SURVEY = (if s.dev.ts.survey.cross then 2 else 3) ∧ d.ts = s.dev.ts ∧ d.mem = s.dev.mem) ∧
    (∀ (n : Fin 24) (level phase floor : Byte), s.dev.listening n.val = true → level.toNat + 12 ≤ floor.toNat →
      (s.dev.ts.survey.pos = 1 → Completes (.surveyMeasurement n level phase floor) s fun d =>
        d.ts.survey.spoiled = true ∧ d.rd TS_SURVEY_STATUS_FOREIGN = 1 ∧ d.mem = s.dev.mem) ∧
      (2 ≤ s.dev.ts.survey.pos → s.dev.selected n.val = s.dev.ts.survey.pos - 2 → s.dev.on (CH_SEL_STATUS_ON n.val) = true →
        Completes (.surveyMeasurement n level phase floor) s fun d =>
        d.ts.survey.raw = s.dev.ts.survey.raw.filter (·.1 ≠ berthOf n.val (s.dev.ts.survey.pos - 2))
          ++ [(berthOf n.val (s.dev.ts.survey.pos - 2), level.toNat, phase.toNat)] ∧ d.regs = s.dev.regs ∧ d.mem = s.dev.mem)) ∧
    (s.dev.rd TS_STATUS_SURVEY = 5 → Completes .surveyCommit s fun d =>
      d.rd TS_STATUS_SURVEY = 0 ∧ d.rd TS_STATUS_NB_VALID = 1 ∧ d.rd TS_STATUS_NB_DIRTY = 1 ∧ d.rd TS_SURVEY_STATUS_CODE = cDONE ∧ d.mem = s.dev.mem) := by
  refine ⟨fun p w hr hc ha hx hg hs hp he hany => Completes.ofPort (surveyGo p w) rfl hr ?_, fun p w hr hs hg => Completes.ofPort (surveyAbort p w) rfl hr ?_,
    fun h1 hg => Completes.effect surveyDrainDone rfl ?_, fun n level phase floor hl hf => ⟨fun hp => Completes.effect (surveyMeasurement n.val level.toNat phase.toNat floor.toNat) rfl ?_,
      fun hp hs ho => Completes.effect (surveyMeasurement n.val level.toNat phase.toNat floor.toNat) rfl ?_⟩, fun h5 => Completes.effect surveyCommit rfl ?_⟩
  · have hb := accessed_boot s.dev p
    have e := surveyGo_starts p w (s.dev.accessed p) hc ha hx ((accessed_on _ p _).trans hg) (by unfold Dev.surveying; rw [accessed_rd]; exact hs)
      ((accessed_rd _ p _).trans hp) ((accessed_engine _ p).trans he) (by rw [readerBerths_of hb]; simp only [decl_of hb]; exact hany)
    rw [readerBerths_of hb, accessed_ts, Dev.accessed_mem] at e
    exact e
  · rw [surveyAbort_ends p w _ (by unfold Dev.surveying; rw [accessed_rd]; exact hs) (by rw [accessed_ts]; exact hg)]
    obtain ⟨e1, e2, e3, e4, e5, e6, e7, -⟩ := endSurvey_eff cABORTED (s.dev.accessed p)
    exact ⟨e1, e2, e3, e4, e5.trans (by rw [accessed_ts]), e7.trans (accessed_rd _ p _), e6.trans (Dev.accessed_mem _ p)⟩
  · have hrun : surveyDrainDone s.dev.begun = s.dev.begun.wr TS_STATUS_SURVEY (if s.dev.begun.ts.survey.cross then 2 else 3) := by
      have h1' : s.dev.begun.rd TS_STATUS_SURVEY = 1 := h1
      have hg' : s.dev.begun.ts.grants = [] := hg
      unfold surveyDrainDone
      rw [h1', hg']
      exact if_neg (by decide)
    rw [hrun]
    refine ⟨(Dev.rd_wr_same _ TS_STATUS_SURVEY _).trans ?_, rfl, rfl⟩
    show (if s.dev.ts.survey.cross then 2 else 3) % 8 = _
    split <;> rfl
  · rw [surveyMeasurement_quiet _ _ _ _ s.dev.begun hl hf hp]
    exact ⟨rfl, Dev.rd_raise_same _ TS_SURVEY_STATUS_FOREIGN, rfl⟩
  · rw [surveyMeasurement_coupling _ _ _ _ s.dev.begun hl hf hp hs ho]
    exact ⟨rfl, rfl, rfl⟩
  · obtain ⟨x, -, hm, hrun⟩ := surveyCommit_ends s.dev.begun h5
    rw [hrun]
    obtain ⟨e1, -, -, e4, -, e6, e7, e8⟩ := endSurvey_eff cDONE ((x.raise TS_STATUS_NB_VALID).raise TS_STATUS_NB_DIRTY)
    exact ⟨e1, e7.trans ((Dev.rd_raise_ne _ (by decide)).trans (Dev.rd_raise_same x TS_STATUS_NB_VALID)), e8.trans (Dev.rd_raise_same _ TS_STATUS_NB_DIRTY), e4, e6.trans hm⟩

/-! Surveys across devices (R211, R213, R215). -/

theorem surveyProposal_accepted (peer startMs code avg : Nat) (srcs : List Nat) (d : Dev) (hc : d.coreRuns = true) (hn : d.on TS_STATUS_NB_VALID = true)
    (hs : d.surveying = false) (hg : d.on TS_SURVEY_GO = false) (hx : d.on TS_CFG_XEN = true) (hh : d.on TC_STATUS_HOLDOVER = false) (he : d.engine = true) :
    surveyProposal peer startMs code avg srcs d = ((surveySend peer 2 [nw 0] d).modSurvey fun _ =>
      { SurveySt.reset with cross := true, initiator := false, peer := peer, code := code, avg := avg, sources := srcs, startMs := startMs }).wr TS_STATUS_SURVEY 1 := by
  unfold surveyProposal
  simp only [hc, hn, hs, hg, hx, hh, he, Bool.not_true, Bool.or_self, Bool.false_eq_true, if_false, ne_eq, not_true_eq_false]

/-- The start slot of a cross survey (R215). -/
theorem surveyStartSlot_eff (peerCoils : Nat) (d : Dev) (h : d.rd TS_STATUS_SURVEY = 2) :
    (surveyStartSlot peerCoils d).rd TS_STATUS_SURVEY = (if d.ts.survey.initiator then 3 else 4) := by
  unfold surveyStartSlot
  rw [if_neg fun x => x h]
  dsimp only
  have ht : (d.reach (d.ts.survey.startMs * 1000000)).ts = d.ts := (Dev.reach_after (Changes.refl _ _ d) (within_refl _) (covers_refl _) _).parts .ts (by decide)
  rw [ht]
  generalize d.reach (d.ts.survey.startMs * 1000000) = x
  rw [followListeners_rd _ (rows_not (by decide)), (beginBlock_after (Changes.refl _ _ _) (within_refl _) (covers_refl _) 1).rd (rows_not (by decide))]
  refine (Dev.rd_wr_same x TS_STATUS_SURVEY _).trans ?_
  show (if d.ts.survey.initiator then 3 else 4) % 8 = _
  split <;> rfl

/-- What a block's result leads to at the peer (R213, R215): whether its quiet check counts against it, and whether it was the last. -/
def blockJudged (level phase : Nat) (refused : Bool) (b : Nat) (spoiled : Bool) (raw : List (Nat × Nat × Nat)) (rest : List (Nat × Bool × List (Nat × Nat × Nat)))
    (d : Dev) : Dev :=
  let bad := spoiled && !refused
  ((if bad then surveySend d.ts.survey.peer 5 [nw b] d else d).raiseIf (refused || (bad && d.ts.survey.repeating)) TS_SURVEY_STATUS_MISSING).modSurvey fun s =>
    { s with closed := rest, again := if bad && !s.repeating then s.again ++ [b] else s.again,
             values := s.values ++ if spoiled || refused then [] else blockValues b level phase raw }

theorem surveyBlockResult_run (level phase : Nat) (refused : Bool) (d : Dev) {b : Nat} {spoiled : Bool} {raw : List (Nat × Nat × Nat)}
    {rest : List (Nat × Bool × List (Nat × Nat × Nat))} (h : d.rd TS_STATUS_SURVEY = 4) (hi : d.ts.survey.initiator = false)
    (hc : d.ts.survey.closed = (b, spoiled, raw) :: rest) :
    surveyBlockResult level phase refused d =
      let e := blockJudged level phase refused b spoiled raw rest d
      let s := e.ts.survey
      if s.sources.isEmpty && s.closed.isEmpty && (s.again.isEmpty || s.repeating) then
        surveySend s.peer 4 (s.values.flatMap fun v => [packW [(16, 11, v.src), (0, 11, v.dst)], packW [(8, 8, v.mag), (0, 8, v.phase)]]) (e.wr TS_STATUS_SURVEY 5)
      else e := by
  unfold surveyBlockResult
  dsimp only
  rw [h, hi, if_neg (by decide), hc]
  rfl

theorem raiseIf_ts (d : Dev) (c : Bool) (f : Fld) : (d.raiseIf c f).ts = d.ts := by cases c <;> rfl

theorem blockJudged_survey (level phase : Nat) (refused : Bool) (b : Nat) (spoiled : Bool) (raw : List (Nat × Nat × Nat))
    (rest : List (Nat × Bool × List (Nat × Nat × Nat))) (d : Dev) :
    (blockJudged level phase refused b spoiled raw rest d).ts.survey =
      { d.ts.survey with closed := rest, again := if (spoiled && !refused) && !d.ts.survey.repeating then d.ts.survey.again ++ [b] else d.ts.survey.again,
                         values := d.ts.survey.values ++ if spoiled || refused then [] else blockValues b level phase raw } := by
  have sent : ∀ (bad c : Bool), ((if bad then surveySend d.ts.survey.peer 5 [nw b] d else d).raiseIf c TS_SURVEY_STATUS_MISSING).ts.survey = d.ts.survey := by
    intro bad c
    rw [raiseIf_ts]
    split <;> rfl
  unfold blockJudged Dev.modSurvey
  dsimp only
  rw [sent]

theorem blockJudged_rest (level phase : Nat) (refused : Bool) (b : Nat) (spoiled : Bool) (raw : List (Nat × Nat × Nat))
    (rest : List (Nat × Bool × List (Nat × Nat × Nat))) (d : Dev) :
    (blockJudged level phase refused b spoiled raw rest d).mem = d.mem ∧
    (blockJudged level phase refused b spoiled raw rest d).rd TS_STATUS_SURVEY = d.rd TS_STATUS_SURVEY ∧
    (refused = true → (blockJudged level phase refused b spoiled raw rest d).rd TS_SURVEY_STATUS_MISSING = 1) ∧
    (spoiled = true → refused = false →
      (blockJudged level phase refused b spoiled raw rest d).ts.outbox = d.ts.outbox ++ [(d.ts.survey.peer, 5, [nw b])]) := by
  unfold blockJudged
  dsimp only
  refine ⟨?_, ?_, ?_, ?_⟩
  · have hm : ∀ (y : Dev) f, (y.modSurvey f).mem = y.mem := fun _ _ => rfl
    rw [hm, raiseIf_mem]
    split <;> rfl
  · have hm : ∀ (y : Dev) f, (y.modSurvey f).rd TS_STATUS_SURVEY = y.rd TS_STATUS_SURVEY := fun _ _ => rfl
    rw [hm, Dev.rd_raiseIf_ne _ _ (by decide)]
    split <;> rfl
  · rintro rfl
    exact Dev.rd_raise_same _ TS_SURVEY_STATUS_MISSING
  · rintro rfl rfl
    have ho : ∀ (y : Dev) f, (y.modSurvey f).ts.outbox = y.ts.outbox := fun _ _ => rfl
    rw [ho, raiseIf_ts]
    rfl

/-- Whether the survey goes on at the peer, or its values go back. -/
theorem surveyBlockResult_eff (level phase : Nat) (refused : Bool) (d : Dev) {b : Nat} {spoiled : Bool} {raw : List (Nat × Nat × Nat)}
    {rest : List (Nat × Bool × List (Nat × Nat × Nat))} (h : d.rd TS_STATUS_SURVEY = 4) (hi : d.ts.survey.initiator = false)
    (hc : d.ts.survey.closed = (b, spoiled, raw) :: rest) :
    (surveyBlockResult level phase refused d).ts.survey = (blockJudged level phase refused b spoiled raw rest d).ts.survey ∧
    (surveyBlockResult level phase refused d).mem = d.mem ∧
    (surveyBlockResult level phase refused d).rd TS_SURVEY_STATUS_MISSING = (blockJudged level phase refused b spoiled raw rest d).rd TS_SURVEY_STATUS_MISSING ∧
    (((blockJudged level phase refused b spoiled raw rest d).ts.survey.sources.isEmpty && rest.isEmpty &&
        ((blockJudged level phase refused b spoiled raw rest d).ts.survey.again.isEmpty || d.ts.survey.repeating)) = true →
      (surveyBlockResult level phase refused d).rd TS_STATUS_SURVEY = 5) ∧
    (((blockJudged level phase refused b spoiled raw rest d).ts.survey.sources.isEmpty && rest.isEmpty &&
        ((blockJudged level phase refused b spoiled raw rest d).ts.survey.again.isEmpty || d.ts.survey.repeating)) = false →
      (surveyBlockResult level phase refused d).rd TS_STATUS_SURVEY = 4 ∧
      (surveyBlockResult level phase refused d).ts.outbox = (blockJudged level phase refused b spoiled raw rest d).ts.outbox) := by
  have hsv := blockJudged_survey level phase refused b spoiled raw rest d
  obtain ⟨hm, hst, -, -⟩ := blockJudged_rest level phase refused b spoiled raw rest d
  have hcl := congrArg SurveySt.closed hsv
  have hrep := congrArg SurveySt.repeating hsv
  rw [surveyBlockResult_run level phase refused d h hi hc]
  generalize blockJudged level phase refused b spoiled raw rest d = e at hm hst hcl hrep ⊢
  dsimp only at hcl hrep ⊢
  rw [hcl, hrep]
  cases hend : (e.ts.survey.sources.isEmpty && rest.isEmpty && (e.ts.survey.again.isEmpty || d.ts.survey.repeating)) with
  | true =>
    rw [if_pos rfl]
    exact ⟨rfl, hm, Dev.rd_wr_ne (f := TS_SURVEY_STATUS_MISSING) (g := TS_STATUS_SURVEY) e 5 (by decide), fun _ => Dev.rd_wr_same e TS_STATUS_SURVEY 5, fun x => absurd x (by decide)⟩
  | false =>
    rw [if_neg (by decide)]
    exact ⟨rfl, hm, rfl, fun x => absurd x (by decide), fun _ => ⟨hst.trans h, rfl⟩⟩

theorem crossSurveys (s : State) :
    (∀ (peer : BitVec 12) startMs (code : Fin 1024) (avg : Fin 16) sources, s.dev.coreRuns = true → s.dev.on TS_STATUS_NB_VALID = true →
      s.dev.surveying = false → s.dev.on TS_SURVEY_GO = false → s.dev.on TS_CFG_XEN = true → s.dev.on TC_STATUS_HOLDOVER = false → s.dev.engine = true →
      Completes (.surveyProposal peer startMs code avg sources) s fun d =>
        d.rd TS_STATUS_SURVEY = 1 ∧ d.ts.survey.cross = true ∧ d.ts.survey.initiator = false ∧ d.ts.survey.peer = peer.toNat ∧
        d.ts.survey.sources = sources ∧ d.ts.survey.startMs = startMs ∧
        d.ts.outbox = s.dev.ts.outbox ++ [(peer.toNat, 2, [nw 0])] ∧ d.mem = s.dev.mem) ∧
    (∀ n : Fin 65, s.dev.rd TS_STATUS_SURVEY = 2 → Completes (.surveyStartSlot n) s fun d =>
      d.rd TS_STATUS_SURVEY = (if s.dev.ts.survey.initiator then 3 else 4) ∧ d.mem = s.dev.mem) ∧
    (∀ (level phase : Byte) b sp raw r, s.dev.rd TS_STATUS_SURVEY = 4 → s.dev.ts.survey.initiator = false → s.dev.ts.survey.closed = (b, sp, raw) :: r →
      (sp = false → Completes (.surveyBlockResult level phase false) s fun d =>
        d.rd TS_STATUS_SURVEY = (if s.dev.ts.survey.sources.isEmpty && r.isEmpty && (s.dev.ts.survey.again.isEmpty || s.dev.ts.survey.repeating) then 5
            else 4) ∧
        d.ts.survey.closed = r ∧
        d.ts.survey.values = s.dev.ts.survey.values ++ raw.map (fun x =>
          { src := b, dst := x.1, mag := min (x.2.1 - level.toNat) 255, phase := (x.2.2 + 256 - phase.toNat) % 256 }) ∧ d.mem = s.dev.mem) ∧
      (sp = true → s.dev.ts.survey.repeating = false → Completes (.surveyBlockResult level phase false) s fun d =>
        d.rd TS_STATUS_SURVEY = 4 ∧ d.ts.survey.again = s.dev.ts.survey.again ++ [b] ∧ d.ts.survey.values = s.dev.ts.survey.values ∧
        d.ts.outbox = s.dev.ts.outbox ++ [(s.dev.ts.survey.peer, 5, [nw b])] ∧ d.mem = s.dev.mem) ∧
      (Completes (.surveyBlockResult level phase true) s fun d =>
        d.rd TS_SURVEY_STATUS_MISSING = 1 ∧ d.ts.survey.values = s.dev.ts.survey.values ∧ d.mem = s.dev.mem)) ∧
    (∀ values : List SurveyValue, s.dev.rd TS_STATUS_SURVEY = 3 → s.dev.ts.survey.cross = true → s.dev.ts.survey.initiator = true →
      s.dev.ts.survey.sources = [] → s.dev.ts.survey.again = [] → Completes (.surveyResults values) s fun d =>
        d.rd TS_STATUS_SURVEY = 5 ∧ d.ts.survey.values = values.map (fun v => ⟨v.src, v.dst, v.mag, v.phase⟩) ∧ d.mem = s.dev.mem) ∧
    (s.dev.ts.survey.waiting = true → Completes .surveyPeerTimeout s fun d =>
      d.rd TS_STATUS_SURVEY = 0 ∧ d.rd TS_SURVEY_GO = 0 ∧ d.rd TS_SURVEY_STATUS_CODE = 0x11 ∧ d.ts.tables = s.dev.ts.tables ∧ d.mem = s.dev.mem) := by
  refine ⟨fun peer startMs code avg sources hc hn hs hg hx hh he => Completes.effect (surveyProposal peer.toNat startMs code.val avg.val sources) rfl ?_,
    fun n h2 => Completes.effect (surveyStartSlot n.val) rfl ⟨surveyStartSlot_eff n.val s.dev.begun h2, (execSurveyStartSlot_changes (s := s) n rfl).2.parts .mem (by decide)⟩,
    fun level phase b sp raw r h4 hi hcl => ?_, fun values h3 hc hi hs ha => Completes.effect (surveyResults (values.map fun v => ⟨v.src, v.dst, v.mag, v.phase⟩)) rfl ?_,
    fun hw => Completes.effect surveyPeerTimeout rfl ?_⟩
  · rw [surveyProposal_accepted peer.toNat startMs code.val avg.val sources s.dev.begun hc hn hs hg hx hh he]
    exact ⟨Dev.rd_wr_same _ TS_STATUS_SURVEY 1, rfl, rfl, rfl, rfl, rfl, rfl, rfl⟩
  · have hsv := fun refused => blockJudged_survey level.toNat phase.toNat refused b sp raw r s.dev.begun
    have hbr := fun refused => blockJudged_rest level.toNat phase.toNat refused b sp raw r s.dev.begun
    have heff := fun refused => surveyBlockResult_eff level.toNat phase.toNat refused s.dev.begun h4 hi hcl
    refine ⟨fun hsp => Completes.effect (surveyBlockResult level.toNat phase.toNat false) rfl ?_, fun hsp hrep => Completes.effect (surveyBlockResult level.toNat phase.toNat false) rfl ?_,
      Completes.effect (surveyBlockResult level.toNat phase.toNat true) rfl ?_⟩
    · subst hsp
      obtain ⟨e1, e2, -, e4, e5⟩ := heff false
      rw [hsv false] at e1 e4 e5
      refine ⟨?_, by rw [e1], by rw [e1]; rfl, e2⟩
      split
      next h => exact e4 h
      next h => exact (e5 (Bool.eq_false_iff.mpr h)).1
    · subst hsp
      obtain ⟨e1, e2, -, -, e5⟩ := heff false
      obtain ⟨-, -, -, ho⟩ := hbr false
      rw [hsv false] at e1 e5
      have hrep' : s.dev.begun.ts.survey.repeating = false := hrep
      rw [hrep'] at e1 e5
      obtain ⟨e6, e7⟩ := e5 (by simp)
      exact ⟨e6, by rw [e1]; rfl, by rw [e1]; exact List.append_nil _, e7.trans (ho rfl rfl), e2⟩
    · obtain ⟨e1, e2, e3, -, -⟩ := heff true
      obtain ⟨-, -, hm, -⟩ := hbr true
      rw [hsv true] at e1
      refine ⟨e3.trans (hm rfl), ?_, e2⟩
      rw [e1]
      dsimp only
      rw [Bool.or_true, if_pos rfl]
      exact List.append_nil _
  · have hrun : surveyResults (values.map fun v => ⟨v.src, v.dst, v.mag, v.phase⟩) s.dev.begun =
        (s.dev.begun.modSurvey fun s => { s with values := values.map fun v => ⟨v.src, v.dst, v.mag, v.phase⟩ }).wr TS_STATUS_SURVEY 5 := by
      have h3' : s.dev.begun.rd TS_STATUS_SURVEY = 3 := h3
      have hc' : s.dev.begun.ts.survey.cross = true := hc
      have hi' : s.dev.begun.ts.survey.initiator = true := hi
      have hs' : s.dev.begun.ts.survey.sources = [] := hs
      have ha' : s.dev.begun.ts.survey.again = [] := ha
      unfold surveyResults
      dsimp only
      rw [h3', hc', hi', hs', ha']
      exact if_neg (by decide)
    rw [hrun]
    exact ⟨Dev.rd_wr_same _ TS_STATUS_SURVEY 5, rfl, rfl⟩
  · have hrun : surveyPeerTimeout s.dev.begun = endSurvey 0x11 s.dev.begun := if_pos hw
    rw [hrun]
    obtain ⟨e1, e2, -, e4, e5, e6, -, -⟩ := endSurvey_eff 0x11 s.dev.begun
    exact ⟨e1, e2, e4, e5, e6⟩

/-- Settles O30: the clauses on one device, and those across devices. -/
theorem surveysRun : Obligations.SurveysRun := ⟨oneDeviceSurveys, crossSurveys⟩

/-! Sniffs of Watch (R231, R232). -/

theorem detector_putDetector (t : Detector) (d : Dev) : (putDetectorOf t d).detector t.entry = t := by
  unfold Dev.detector putDetectorOf putDetector
  rw [List.find?_append, List.find?_eq_none.mpr fun x hx => by
    have := (List.mem_filter.mp hx).2
    simp only [decide_eq_true_eq] at this ⊢
    omega]
  simp

theorem detector_entry (d : Dev) (e : Nat) : (d.detector e).entry = e := by
  unfold Dev.detector
  cases h : d.ts.detectors.find? (·.entry = e) with
  | none => rfl
  | some t =>
    have ht := List.find?_some h
    exact of_decide_eq_true ht

theorem detector_of {d e : Dev} (h : e.ts.detectors = d.ts.detectors) (k : Nat) : e.detector k = d.detector k := by unfold Dev.detector; rw [h]

/-- A sniff that is due leaves its field on record, and takes its measurement (R231, R232). -/
theorem sniff_run (e x t : Nat) (d : Dev) (hs : d.sniffDue e = some t) (hc : d.rd PW_STATE_CUR = 3) (hk : d.power.waking = false)
    (hn : d.on (PW_WK_ENT_EN e) = true) (hx : d.excluded (d.rd (PW_WK_ENT_BERTH e)) = false) :
    ∃ c, sniff e x d = (sniffed e x t (sniffField (d.rd (PW_WK_ENT_BERTH e)) t (takeSniff e d))).flag PW_WK_STATUS_RUN c := by
  refine ⟨(let z := sniffed e x t (sniffField (d.rd (PW_WK_ENT_BERTH e)) t (takeSniff e d)); !z.ts.burst.isEmpty || !z.ts.resniff.isEmpty), ?_⟩
  unfold sniff
  simp only [hs, hc, hk, hn, hx, ne_eq, not_true_eq_false, decide_false, Bool.or_self, Bool.not_true, Bool.false_eq_true, if_false]

/-- The coil's selection before a sniff changes the selections alone. -/
theorem sniffSelect_changes (n b : Nat) (d : Dev) (S : List Part) (W : List Span) (hS : within [.regs, .chans] S = true)
    (hW : covers [.row 0x40030 24 0x2000 0, .row 0x40030 24 0x2000 7, .row 0x40030 24 0x2000 16] W = true) {z : Dev} (h : Changes S W z d) :
    Changes S W z (d.each (upTo 4) fun j d =>
      let k := n / 4 * 4 + j
      if k = n then sendSelect n 8 true (b % 64) d else sendSelect k 8 (d.on (CH_SEL_STATUS_ON k)) (d.selected k) d) := by
  refine each_after h _ fun j e he => ?_
  dsimp only
  split
  · exact sendSelect_after he hS hW ..
  · exact sendSelect_after he hS hW ..

theorem sniffField_sniffed (b t : Nat) (d : Dev) : ∃ u, (sniffField b t d).ts.sniffed = some (b, d.sniffCode (b / 64), u) := by
  have hr : ∀ (x : Dev) n, (x.reach n).ts = x.ts := fun x n => (Dev.reach_after (Changes.refl _ _ x) (within_refl _) (covers_refl _) n).parts .ts (by decide)
  have e : ∀ z : Dev, ∀ n f, ((z.reach n).modField (b / 64) f).ts = z.ts := fun z n f => hr z n
  have from_ : ∀ q : Dev, Changes [.regs, .time, .chans, .clk] sniffFieldW d q →
      ∃ u, some (b, (q.reach (t + 30000)).sniffCode (b / 64), (q.reach (t + 30000)).ns) = some (b, d.sniffCode (b / 64), u) := by
    intro q h3
    have h4 := Dev.reach_after h3 (by decide) (by decide) (t + 30000)
    refine ⟨(q.reach (t + 30000)).ns, ?_⟩
    unfold Dev.sniffCode
    rw [h4.rd (f := PW_WK_CFG_CODE) (rows_not (by decide)), decl_of (h4.parts .boot (by decide))]
  unfold sniffField
  dsimp only
  rw [e]
  dsimp only
  have h1 : Changes [.regs, .time, .chans, .clk] sniffFieldW d (d.reach t) := Dev.reach_after (Changes.refl _ _ d) (by decide) (by decide) t
  have h2 := sniffSelect_changes (b / 64) b (d.reach t) [.regs, .time, .chans, .clk] sniffFieldW (by decide) (by decide) h1
  split
  · exact from_ _ h1
  · exact from_ _ h2

/-- A measurement that teaches (R232). -/
theorem sniffed_learns (e x t : Nat) (d : Dev) (h : (d.detector e).learned < 3) :
    (sniffed e x t d).detector e = { d.detector e with learned := (d.detector e).learned + 1, baseline := (d.detector e).baseline + x, streak := 0 } ∧
    (sniffed e x t d).ts.sniffed = d.ts.sniffed := by
  have hd : d.free.2.detector e = d.detector e := rfl
  have hs : d.free.2.ts.sniffed = d.ts.sniffed := rfl
  have he := detector_entry d e
  unfold sniffed
  dsimp only
  rw [hd]
  generalize d.free.2 = z at hs ⊢
  generalize d.detector e = u at h he ⊢
  subst he
  rw [if_pos (by omega), if_neg (by omega)]
  exact ⟨detector_putDetector { u with learned := u.learned + 1, baseline := u.baseline + x, streak := 0 } z, hs⟩

/-- A measurement that deviates: the entry's streak grows, and after CONFIRM deviations it trips (R232). -/
theorem sniffed_deviates (e x t : Nat) (d : Dev) {dev : Nat} (h : 4 ≤ (d.detector e).learned)
    (hdev : dev = (max ((x : Int) - (d.detector e).baseline) ((d.detector e).baseline - x)).toNat) (ht : d.rd (PW_WK_ENT_THR e) ≤ dev) :
    ∃ y : Dev, y.regs = (d.wr (PW_WK_ENT_LAST e) (min dev 255)).regs ∧ y.detector e = { d.detector e with streak := (d.detector e).streak + 1 } ∧
      sniffed e x t d = if (decide (d.rd PW_WK_CFG_CONFIRM ≤ (d.detector e).streak + 1) && !d.on PW_WK_STATUS_LEARNING && !d.on (PW_WK_ENT_TRIPPED e)) = true then trip e dev y
        else y := by
  have he := detector_entry d e
  have hneg : -((x : Int) - (d.detector e).baseline) = (d.detector e).baseline - x := by omega
  rw [← hneg] at hdev
  have hrd : ∀ f : Fld, f.bit ≠ (PW_WK_ENT_LAST e).bit → (d.free.2.wr (PW_WK_ENT_LAST e) (min dev 255)).rd f = d.rd f := fun f hf => Dev.rd_wr_ne d.free.2 _ hf
  have hthr := hrd (PW_WK_ENT_THR e) (by dsimp only; omega)
  have htrip := hrd (PW_WK_ENT_TRIPPED e) (by dsimp only; omega)
  have hconf := hrd PW_WK_CFG_CONFIRM (by dsimp only; omega)
  have hlearn := hrd PW_WK_STATUS_LEARNING (by dsimp only; omega)
  have hregs : (d.free.2.wr (PW_WK_ENT_LAST e) (min dev 255)).regs = (d.wr (PW_WK_ENT_LAST e) (min dev 255)).regs := rfl
  unfold sniffed
  dsimp only
  rw [show d.free.2.detector e = d.detector e from rfl, if_neg (by omega), ← hdev]
  generalize d.free.2.wr (PW_WK_ENT_LAST e) (min dev 255) = z at hthr htrip hconf hlearn hregs ⊢
  rw [hthr, if_neg (by omega)]
  have k : (putDetectorOf { d.detector e with streak := (d.detector e).streak + 1 } z).detector e = { d.detector e with streak := (d.detector e).streak + 1 } := by
    have k := detector_putDetector { d.detector e with streak := (d.detector e).streak + 1 } z
    exact (congrArg _ he.symm).trans k
  have hp : ∀ f, (putDetectorOf { d.detector e with streak := (d.detector e).streak + 1 } z).rd f = z.rd f := fun _ => rfl
  have hpr : (putDetectorOf { d.detector e with streak := (d.detector e).streak + 1 } z).regs = z.regs := rfl
  generalize putDetectorOf { d.detector e with streak := (d.detector e).streak + 1 } z = q at k hp hpr ⊢
  refine ⟨{ q with ts := { q.ts with resniff := q.ts.resniff ++ [(e, t + 1000000)] } }, hpr.trans hregs, k, ?_⟩
  have c1 : ({ q with ts := { q.ts with resniff := q.ts.resniff ++ [(e, t + 1000000)] } } : Dev).rd PW_WK_CFG_CONFIRM = d.rd PW_WK_CFG_CONFIRM := (hp _).trans hconf
  have c2 : ({ q with ts := { q.ts with resniff := q.ts.resniff ++ [(e, t + 1000000)] } } : Dev).on PW_WK_STATUS_LEARNING = d.on PW_WK_STATUS_LEARNING :=
    Dev.on_of_rd ((hp _).trans hlearn)
  have c3 : ({ q with ts := { q.ts with resniff := q.ts.resniff ++ [(e, t + 1000000)] } } : Dev).on (PW_WK_ENT_TRIPPED e) = d.on (PW_WK_ENT_TRIPPED e) :=
    Dev.on_of_rd ((hp _).trans htrip)
  rw [c1, c2, c3]

/-- A trip is marked on its entry and in WK_STATUS (R232). -/
theorem trip_marks (e dev : Nat) (d : Dev) : (trip e dev d).rd (PW_WK_ENT_TRIPPED e) = 1 ∧ (trip e dev d).rd PW_WK_STATUS_TRIP_SEEN = 1 := by
  have hf : ∀ (y : Dev) (f : Fld), ¬ Rows [.one 32896, .one 33000, .one 33184, .one 33185, .one 33186, .one 33190, .one 33192, .one 33196, .one 34911] f.bit →
      (fireWake .detect y).rd f = y.rd f := fun y f h => (fireWake_after (Changes.refl _ _ y) (within_refl _) (covers_refl _) .detect).rd h
  unfold trip
  dsimp only
  have h1 : ((d.raise (PW_WK_ENT_TRIPPED e)).raise PW_WK_STATUS_TRIP_SEEN).rd (PW_WK_ENT_TRIPPED e) = 1 :=
    (Dev.rd_raise_ne _ (by dsimp only; omega)).trans (Dev.rd_raise_same d (PW_WK_ENT_TRIPPED e))
  have h2 : ((d.raise (PW_WK_ENT_TRIPPED e)).raise PW_WK_STATUS_TRIP_SEEN).rd PW_WK_STATUS_TRIP_SEEN = 1 := Dev.rd_raise_same _ PW_WK_STATUS_TRIP_SEEN
  generalize (d.raise (PW_WK_ENT_TRIPPED e)).raise PW_WK_STATUS_TRIP_SEEN = z at h1 h2 ⊢
  rw [hf _ (PW_WK_ENT_TRIPPED e) (by
    rintro ⟨w, hm, hh⟩
    simp only [List.mem_cons, List.not_mem_nil, or_false] at hm
    rcases hm with rfl | rfl | rfl | rfl | rfl | rfl | rfl | rfl | rfl <;> (simp only [Span.has] at hh; omega)), hf _ PW_WK_STATUS_TRIP_SEEN (rows_not (by decide))]
  split
  · refine ⟨?_, ?_⟩
    · rw [Dev.rd_wr_ne _ _ (by dsimp only; omega), Dev.rd_wr_ne _ _ (by dsimp only; omega),
        Dev.rd_wr_ne _ _ (by dsimp only; omega)]
      exact h1
    · rw [Dev.rd_wr_ne _ _ (by decide), Dev.rd_wr_ne _ _ (by decide), Dev.rd_wr_ne _ _ (by decide)]
      exact h2
  · exact ⟨h1, h2⟩


/-- What the field of a sniff leaves: everything the sniff itself reads. -/
theorem sniffField_rd (b t e : Nat) (d : Dev) {f : Fld} (h : ¬ Rows sniffFieldW f.bit) : (sniffField b t (takeSniff e d)).rd f = d.rd f :=
  (sniffField_after (takeSniff_after (Changes.refl _ _ d) (S := [.regs, .time, .chans, .ts, .clk]) (W := sniffFieldW) (by decide) (by decide) e) (by decide) (by decide) b t).rd h

/-- The entries' registers stand below the field's. -/
theorem entry_apart {b : Nat} (h : b < 50000) : ¬ Rows sniffFieldW b := by
  rintro ⟨w, hm, hh⟩
  simp only [sniffFieldW, List.mem_cons, List.not_mem_nil, or_false] at hm
  rcases hm with rfl | rfl | rfl | rfl <;> (simp only [Span.has] at hh; omega)

theorem takeSniff_keeps (e : Nat) (d : Dev) : (takeSniff e d).ts.detectors = d.ts.detectors ∧ (takeSniff e d).regs = d.regs ∧ (takeSniff e d).boot = d.boot := by
  unfold takeSniff
  split <;> exact ⟨rfl, rfl, rfl⟩

theorem sniffField_detector (b t e : Nat) (d : Dev) : (sniffField b t (takeSniff e d)).detector e = d.detector e :=
  detector_of ((sniffField_ts b t (takeSniff e d)).1.trans (takeSniff_keeps e d).1) e

theorem sniff_none (e x : Nat) (d : Dev) (h : d.sniffDue e = none) : sniff e x d = d := by
  unfold sniff
  rw [h]

/-- A sniff that teaches leaves its measurement, and the berth and code that it used (R232). -/
theorem sniff_learns (e x t : Nat) (d : Dev) (hs : d.sniffDue e = some t) (hc : d.rd PW_STATE_CUR = 3) (hk : d.power.waking = false)
    (hn : d.on (PW_WK_ENT_EN e) = true) (hx : d.excluded (d.rd (PW_WK_ENT_BERTH e)) = false) (hl : (d.detector e).learned < 3) :
    (sniff e x d).detector e = { d.detector e with learned := (d.detector e).learned + 1, baseline := (d.detector e).baseline + x, streak := 0 } ∧
    ∃ u, (sniff e x d).ts.sniffed = some (d.rd (PW_WK_ENT_BERTH e), d.sniffCode (d.rd (PW_WK_ENT_BERTH e) / 64), u) := by
  obtain ⟨c, hc⟩ := sniff_run e x t d hs hc hk hn hx
  obtain ⟨-, hr, hb⟩ := takeSniff_keeps e d
  obtain ⟨u, hu⟩ := sniffField_sniffed (d.rd (PW_WK_ENT_BERTH e)) t (takeSniff e d)
  have hd := sniffField_detector (d.rd (PW_WK_ENT_BERTH e)) t e d
  have hcode : ∀ k, (takeSniff e d).sniffCode k = d.sniffCode k := fun k => by
    unfold Dev.sniffCode
    rw [decl_of hb, Dev.rd_of_regs hr]
  rw [hcode] at hu
  rw [hc]
  generalize sniffField (d.rd (PW_WK_ENT_BERTH e)) t (takeSniff e d) = z at hd hu ⊢
  obtain ⟨h1, h2⟩ := sniffed_learns e x t z (by rw [hd]; exact hl)
  rw [hd] at h1
  exact ⟨h1, u, h2.trans hu⟩

/-- A sniff that deviates shows its deviation, and trips its entry where the streak has reached CONFIRM (R232). -/
theorem sniff_deviates (e x t : Nat) (d : Dev) {dev : Nat} (hs : d.sniffDue e = some t) (hc : d.rd PW_STATE_CUR = 3) (hk : d.power.waking = false)
    (hn : d.on (PW_WK_ENT_EN e) = true) (hx : d.excluded (d.rd (PW_WK_ENT_BERTH e)) = false) (h : 4 ≤ (d.detector e).learned)
    (hdev : dev = (max ((x : Int) - (d.detector e).baseline) ((d.detector e).baseline - x)).toNat) (ht : d.rd (PW_WK_ENT_THR e) ≤ dev) :
    ((d.detector e).streak + 1 < d.rd PW_WK_CFG_CONFIRM →
      (sniff e x d).detector e = { d.detector e with streak := (d.detector e).streak + 1 } ∧ (sniff e x d).rd (PW_WK_ENT_LAST e) = min dev 255) ∧
    (d.rd PW_WK_CFG_CONFIRM ≤ (d.detector e).streak + 1 → d.on PW_WK_STATUS_LEARNING = false → d.on (PW_WK_ENT_TRIPPED e) = false →
      (sniff e x d).rd (PW_WK_ENT_TRIPPED e) = 1 ∧ (sniff e x d).rd PW_WK_STATUS_TRIP_SEEN = 1) := by
  obtain ⟨c, hc⟩ := sniff_run e x t d hs hc hk hn hx
  have hd := sniffField_detector (d.rd (PW_WK_ENT_BERTH e)) t e d
  have hrd : ∀ {f : Fld}, f.bit < 50000 → (sniffField (d.rd (PW_WK_ENT_BERTH e)) t (takeSniff e d)).rd f = d.rd f := fun hf =>
    sniffField_rd _ t e d (entry_apart hf)
  have hthr := hrd (f := PW_WK_ENT_THR e) (by dsimp only; omega)
  have htrip := hrd (f := PW_WK_ENT_TRIPPED e) (by dsimp only; omega)
  have hconf := hrd (f := PW_WK_CFG_CONFIRM) (by decide)
  have hlearn := hrd (f := PW_WK_STATUS_LEARNING) (by decide)
  rw [hc]
  generalize sniffField (d.rd (PW_WK_ENT_BERTH e)) t (takeSniff e d) = z at hd hthr htrip hconf hlearn ⊢
  obtain ⟨y, hreg, hdet, hrun⟩ := sniffed_deviates e x t z (dev := dev) (by rw [hd]; exact h) (by rw [hd]; exact hdev) (by rw [hthr]; exact ht)
  rw [hd] at hdet hrun
  rw [hrun, hconf, Dev.on_of_rd hlearn, Dev.on_of_rd htrip]
  refine ⟨fun hlt => ?_, fun hle hl htr => ?_⟩
  · rw [show (decide (d.rd PW_WK_CFG_CONFIRM ≤ (d.detector e).streak + 1) && !d.on PW_WK_STATUS_LEARNING && !d.on (PW_WK_ENT_TRIPPED e)) = false from by
      rw [decide_eq_false (by omega)]; rfl, if_neg (by decide)]
    refine ⟨hdet, (Dev.rd_flag_ne (f := PW_WK_ENT_LAST e) (g := PW_WK_STATUS_RUN) y c (by dsimp only; omega)).trans ?_⟩
    rw [Dev.rd_of_regs hreg]
    refine (Dev.rd_wr_same z (PW_WK_ENT_LAST e) _).trans (Nat.mod_eq_of_lt ?_)
    show min dev 255 < 256
    omega
  · rw [show (decide (d.rd PW_WK_CFG_CONFIRM ≤ (d.detector e).streak + 1) && !d.on PW_WK_STATUS_LEARNING && !d.on (PW_WK_ENT_TRIPPED e)) = true from by
      rw [decide_eq_true hle, hl, htr]; rfl, if_pos rfl]
    obtain ⟨h1, h2⟩ := trip_marks e dev y
    exact ⟨(Dev.rd_flag_ne (f := PW_WK_ENT_TRIPPED e) (g := PW_WK_STATUS_RUN) _ c (by dsimp only; omega)).trans h1,
      (Dev.rd_flag_ne (f := PW_WK_STATUS_TRIP_SEEN) (g := PW_WK_STATUS_RUN) _ c (by decide)).trans h2⟩

theorem sniffsInWatch (s : State) (hc : s.dev.rd PW_STATE_CUR = 3) (hk : s.dev.power.waking = false) :
    (Completes .sniffBurst s fun d =>
      d.rd PW_WK_STATUS_RUN = 1 ∧ d.ts.burst = s.dev.wkEnabled.filter (fun e => !s.dev.excluded (s.dev.rd (PW_WK_ENT_BERTH e))) ∧ d.mem = s.dev.mem) ∧
    (∀ (e : Byte) (x : Fin 4096) t, s.dev.on (PW_WK_ENT_EN e.toNat) = true → s.dev.excluded (s.dev.rd (PW_WK_ENT_BERTH e.toNat)) = false →
      t = s.dev.detector e.toNat →
      (s.dev.sniffDue e.toNat = none → Completes (.sniff e x) s fun d => d.regs = s.dev.regs ∧ d.ts = s.dev.ts ∧ d.mem = s.dev.mem) ∧
      ∀ at_, s.dev.sniffDue e.toNat = some at_ →
      (t.learned < 3 → Completes (.sniff e x) s fun d =>
        d.detector e.toNat = { t with learned := t.learned + 1, baseline := t.baseline + x.val, streak := 0 } ∧
        (∃ u, d.ts.sniffed = some (s.dev.rd (PW_WK_ENT_BERTH e.toNat), s.dev.sniffCode (s.dev.rd (PW_WK_ENT_BERTH e.toNat) / 64), u)) ∧ d.mem = s.dev.mem) ∧
      (∀ dev, 4 ≤ t.learned → dev = (max ((x.val : Int) - t.baseline) (t.baseline - x.val)).toNat → s.dev.rd (PW_WK_ENT_THR e.toNat) ≤ dev →
        (t.streak + 1 < s.dev.rd PW_WK_CFG_CONFIRM → Completes (.sniff e x) s fun d =>
          d.detector e.toNat = { t with streak := t.streak + 1 } ∧ d.rd (PW_WK_ENT_LAST e.toNat) = min dev 255 ∧ d.mem = s.dev.mem) ∧
        (s.dev.rd PW_WK_CFG_CONFIRM ≤ t.streak + 1 → s.dev.on PW_WK_STATUS_LEARNING = false → s.dev.on (PW_WK_ENT_TRIPPED e.toNat) = false →
          Completes (.sniff e x) s fun d =>
          d.rd (PW_WK_ENT_TRIPPED e.toNat) = 1 ∧ d.rd PW_WK_STATUS_TRIP_SEEN = 1 ∧ d.mem = s.dev.mem))) := by
  refine ⟨Completes.effect sniffBurst rfl ?_, fun e x t hn hx ht => ?_⟩
  · obtain ⟨h1, h2⟩ := sniffBurst_eff s.dev.begun hc hk
    exact ⟨h1, h2, (execSniffBurst_changes (s := s) rfl).2.parts .mem (by decide)⟩
  · subst ht
    have hm : (sniff e.toNat x.val s.dev.begun).mem = s.dev.mem := (execSniff_changes (s := s) e x rfl).2.parts .mem (by decide)
    refine ⟨fun hs => Completes.effect (sniff e.toNat x.val) rfl ?_, fun t hs => ⟨fun hl => Completes.effect (sniff e.toNat x.val) rfl ?_,
      fun dev h4 hdev hthr => ⟨fun hlt => Completes.effect (sniff e.toNat x.val) rfl ?_, fun hle hlearn htrip => Completes.effect (sniff e.toNat x.val) rfl ?_⟩⟩⟩
    · rw [sniff_none _ _ s.dev.begun hs]
      exact ⟨rfl, rfl, rfl⟩
    · obtain ⟨h1, h2⟩ := sniff_learns e.toNat x.val t s.dev.begun hs hc hk hn hx hl
      exact ⟨h1, h2, hm⟩
    · obtain ⟨h1, h2⟩ := (sniff_deviates e.toNat x.val t s.dev.begun hs hc hk hn hx h4 hdev hthr).1 hlt
      exact ⟨h1, h2, hm⟩
    · obtain ⟨h1, h2⟩ := (sniff_deviates e.toNat x.val t s.dev.begun hs hc hk hn hx h4 hdev hthr).2 hle hlearn htrip
      exact ⟨h1, h2, hm⟩

/-! The neighbour tables and attribution (R210, R228). -/

theorem bits_or31_berth (w : Word) : bits (w ||| 0x80000000#32).toNat 10 0 = bits w.toNat 10 0 := by
  unfold bits
  rw [BitVec.toNat_or, Nat.pow_zero, Nat.div_one, Nat.div_one, Nat.or_mod_two_pow]
  exact Nat.or_zero _

theorem bits_or30_berth (w : Word) : bits (w ||| 0x40000000#32).toNat 10 0 = bits w.toNat 10 0 := by
  unfold bits
  rw [BitVec.toNat_or, Nat.pow_zero, Nat.div_one, Nat.div_one, Nat.or_mod_two_pow]
  exact Nat.or_zero _

theorem accessed_berthExists (d : Dev) (p : Path) (b : Nat) : (d.accessed p).berthExists b = d.berthExists b := by
  unfold Dev.berthExists Dev.coils
  rw [decl_of (accessed_boot d p)]

theorem accessed_surveying (d : Dev) (p : Path) : (d.accessed p).surveying = d.surveying := by
  unfold Dev.surveying
  rw [accessed_rd]

/-- COMMIT makes the tables valid (R210). -/
theorem nbSelWrite_commits (p : Path) (w : Word) (d : Dev) (h31 : bit w.toNat 31 = true) (h30 : bit w.toNat 30 = false)
    (hb : d.berthExists (bits w.toNat 10 0) = true) (hs : d.surveying = false) :
    nbSelWrite p w d = (d.wr TS_NB_SEL_BERTH (bits w.toNat 10 0)).raise TS_STATUS_NB_VALID := by
  unfold nbSelWrite
  dsimp only
  rw [h31, h30, hb, hs]
  rfl

/-- CLEAR empties them (R210). -/
theorem nbSelWrite_clears (p : Path) (w : Word) (d : Dev) (h31 : bit w.toNat 31 = false) (h30 : bit w.toNat 30 = true)
    (hb : d.berthExists (bits w.toNat 10 0) = true) (hs : d.surveying = false) :
    nbSelWrite p w d = { (d.wr TS_NB_SEL_BERTH (bits w.toNat 10 0)).lower TS_STATUS_NB_VALID with ts := { d.ts with tables := [] } } := by
  unfold nbSelWrite
  dsimp only
  rw [h31, h30, hb, hs]
  rfl

theorem neighbourTables (s : State) :
    ∀ (p : Path) (w : Word), s.dev.reaches p 0x38000 = true → s.dev.berthExists (bits w.toNat 10 0) = true → s.dev.surveying = false →
      (bit w.toNat 30 = false → Completes (.nbCommit p w) s fun d =>
        d.rd TS_STATUS_NB_VALID = 1 ∧ d.rd TS_NB_SEL_BERTH = bits w.toNat 10 0 ∧ d.ts = s.dev.ts ∧ d.mem = s.dev.mem) ∧
      (bit w.toNat 31 = false → Completes (.nbClear p w) s fun d =>
        d.rd TS_STATUS_NB_VALID = 0 ∧ d.rd TS_NB_SEL_BERTH = bits w.toNat 10 0 ∧ d.ts.tables = [] ∧ d.mem = s.dev.mem) := by
  intro p w hr hb hs
  have hb' : (s.dev.accessed p).berthExists (bits w.toNat 10 0) = true := (accessed_berthExists s.dev p _).trans hb
  have hs' := (accessed_surveying s.dev p).trans hs
  have hlt : bits w.toNat 10 0 % 2048 = bits w.toNat 10 0 := Nat.mod_eq_of_lt (bits_lt _ 10 0)
  refine ⟨fun h30 => Completes.ofPort (nbSelWrite p (w ||| 0x80000000#32)) rfl hr ?_, fun h31 => Completes.ofPort (nbSelWrite p (w ||| 0x40000000#32)) rfl hr ?_⟩
  · rw [nbSelWrite_commits p _ _ (bit_or31 w) ((bit_or31_low w).trans h30) (by rw [bits_or31_berth]; exact hb') hs', bits_or31_berth]
    exact ⟨Dev.rd_raise_same _ TS_STATUS_NB_VALID,
      (Dev.rd_raise_ne (f := TS_NB_SEL_BERTH) (g := TS_STATUS_NB_VALID) _ (by decide)).trans ((Dev.rd_wr_same _ TS_NB_SEL_BERTH _).trans hlt), accessed_ts s.dev p, Dev.accessed_mem s.dev p⟩
  · rw [nbSelWrite_clears p _ _ ((bit_or30_high w).trans h31) (bit_or30 w) (by rw [bits_or30_berth]; exact hb') hs', bits_or30_berth]
    refine ⟨Dev.rd_lower_same _ TS_STATUS_NB_VALID, ?_, rfl, Dev.accessed_mem s.dev p⟩
    exact (Dev.rd_lower_ne (f := TS_NB_SEL_BERTH) (g := TS_STATUS_NB_VALID) _ (by decide)).trans ((Dev.rd_wr_same _ TS_NB_SEL_BERTH _).trans hlt)

/-- Settles O31: the sniffs of Watch, and the tables with the attribution of a frame. -/
theorem sniffsTablesAndAttribution : Obligations.SniffsTablesAndAttribution := by
  refine ⟨sniffsInWatch, fun s => ⟨neighbourTables s, fun n he hc hj => Completes.effect (attribution n.val) rfl ?_⟩⟩
  unfold attribution
  dsimp only
  rw [if_neg (by rw [show s.dev.begun.engine = true from he, show (s.dev.begun.chan n.val).clean = true from hc]; decide), chan_modChan,
    show (s.dev.begun.chan n.val).job = none from hj]
  dsimp only
  rw [chan_modChan]
  exact ⟨rfl, rfl, rfl, rfl, rfl⟩

end Sys2Proof.Machine
end

section
/-!
Crypto (10_secure_sessions.md): key commands, fuse keys, the tamper loops and the entropy source.
-/

namespace Sys2Proof.Machine

/-! What a step over many places leaves at each. -/

theorem each_settles {α : Type} (Q : α → Dev → Prop) (xs : List α) (f : α → Dev → Dev) (hit : ∀ x e, x ∈ xs → Q x (f x e))
    (keep : ∀ x y e, Q x e → Q x (f y e)) (d : Dev) : ∀ x ∈ xs, Q x (d.each xs f) := by
  have stays : ∀ (ys : List α) x e, Q x e → Q x (Dev.each e ys f) := by
    intro ys
    induction ys with
    | nil => exact fun x e h => h
    | cons y ys ih => exact fun x e h => ih x _ (keep x y e h)
  induction xs generalizing d with
  | nil => exact fun x hx => absurd hx List.not_mem_nil
  | cons y ys ih =>
    intro x hx
    rcases List.mem_cons.mp hx with rfl | hm
    · exact stays ys x _ (hit x d List.mem_cons_self)
    · exact ih (fun z e hz => hit z e (List.mem_cons_of_mem _ hz)) (f y d) x hm

theorem modCtx_context_ne (n k : Nat) (g : Ctx → Ctx) (d : Dev) {m j : Nat} (h : m ≠ n ∨ j ≠ k) :
    ((d.modCtx n k g).chan m).context j = (d.chan m).context j := by
  by_cases hm : m = n
  · subst hm
    rcases h with h | h
    · exact absurd rfl h
    · have e : ((d.modCtx m k g).chan m) = (d.chan m) ∨ ((d.modCtx m k g).chan m) = { d.chan m with ctx := vmod (d.chan m).ctx k g } :=
        (chan_modChan_cases d m (fun c => { c with ctx := vmod c.ctx k g }) m).symm
      rcases e with e | e <;> rw [e]
      exact vget_vmod_ne _ _ _ h
  · rw [modCtx_other n k g d hm]

/-- A change of every context holds at every context. -/
theorem eachContext_settles (g : Ctx → Ctx) (R : Ctx → Prop) (hR : ∀ c, R (g c)) (d : Dev) {n k : Nat} (hn : n < 24) (hk : k < 8) :
    R (((d.each (upTo 24) fun n d => d.each (upTo 8) fun k d => d.modCtx n k g).chan n).context k) := by
  have keep : ∀ (m j n' k' : Nat) (e : Dev), R ((e.chan m).context j) → m < 24 → j < 8 → R (((e.modCtx n' k' g).chan m).context j) := by
    intro m j n' k' e h hm hj
    by_cases hs : m = n' ∧ j = k'
    · obtain ⟨rfl, rfl⟩ := hs
      rw [modCtx_context ⟨m, hm⟩ j hj]
      exact hR _
    · rw [modCtx_context_ne n' k' g e (by omega)]
      exact h
  have keeps : ∀ (ys : List Nat) (m j n' : Nat) (e : Dev), R ((e.chan m).context j) → m < 24 → j < 8 →
      R (((e.each ys fun k d => d.modCtx n' k g).chan m).context j) := by
    intro ys m j n'
    induction ys with
    | nil => exact fun e h _ _ => h
    | cons y ys ih => exact fun e h hm hj => ih _ (keep m j n' y e h hm hj) hm hj
  have hit := each_settles (fun m e => m < 24 → ∀ j, j < 8 → R ((e.chan m).context j)) (upTo 24)
    (fun n d => d.each (upTo 8) fun k d => d.modCtx n k g)
    (fun m e _ hm j hj => each_settles (fun k e => k < 8 → R ((e.chan m).context k)) (upTo 8) (fun k d => d.modCtx m k g)
      (fun k e _ hk => by rw [modCtx_context ⟨m, hm⟩ k hk]; exact hR _)
      (fun k y e h hk => keep m k m y e (h hk) hm hk) e j (List.mem_range.mpr hj) hj)
    (fun m y e h hm j hj => keeps (upTo 8) m j y e (h hm j hj) hm hj) d
  exact hit n (List.mem_range.mpr hn) hn k hk

/-! What Crypto's readings depend on. -/

theorem keySlot_of {d e : Dev} (h : e.cy.slots = d.cy.slots) (k : Nat) : e.keySlot k = d.keySlot k := by unfold Dev.keySlot; rw [h]

theorem kekOf_of {d e : Dev} (h : e.cy.slots = d.cy.slots) (k : Nat) : e.kekOf k = d.kekOf k := by unfold Dev.kekOf; rw [keySlot_of h]

theorem signerOk_of {d e : Dev} (h : e.fuses = d.fuses) (pub : List Byte) (x : Option Nat) : e.signerOk pub x = d.signerOk pub x := by
  unfold Dev.signerOk Dev.secureFuses
  rw [h]

theorem openEnvelope_of {d e : Dev} (hf : e.fuses = d.fuses) (he : e.cy.ecdh = d.cy.ecdh) (hu : e.unitBytes = d.unitBytes) (env : List Byte) :
    e.openEnvelope env = d.openEnvelope env := by
  unfold Dev.openEnvelope
  simp only [he, hu, signerOk_of hf]

/-- What a key command finds: Crypto with its input taken and the last output gone, and everything else as the write of CY_KCMD met it. -/
structure KeyTaken (d x : Dev) : Prop where
  cy : x.cy = { d.cy with inp := [], outp := [] }
  rd : ∀ f, x.rd f = d.rd f
  fuses : x.fuses = d.fuses
  epoch : x.epoch = d.epoch
  mem : x.mem = d.mem

namespace KeyTaken

variable {d x : Dev} (h : KeyTaken d x)
include h

theorem slots : x.cy.slots = d.cy.slots := by rw [h.cy]
theorem keySlot (k : Nat) : x.keySlot k = d.keySlot k := keySlot_of (by rw [h.cy]) k
theorem kekOf (k : Nat) : x.kekOf k = d.kekOf k := kekOf_of (by rw [h.cy]) k
theorem on (f : Fld) : x.on f = d.on f := Dev.on_of_rd (h.rd f)
theorem entropy : x.entropy = d.entropy := by unfold Dev.entropy; rw [h.on, h.on]
theorem loopsClosed : x.loopsClosed = d.loopsClosed := by unfold Dev.loopsClosed; rw [h.on, h.on]
theorem unitBytes : x.unitBytes = d.unitBytes := by unfold Dev.unitBytes; rw [h.rd]
theorem rootKey : x.rootKey = d.rootKey := by unfold Dev.rootKey; rw [h.unitBytes, h.epoch]
theorem blob (s : Nat) (k : KeySlot) : x.blob s k = d.blob s k := by unfold Dev.blob; rw [h.rootKey]
theorem openEnvelope (env : List Byte) : x.openEnvelope env = d.openEnvelope env := openEnvelope_of h.fuses (by rw [h.cy]) h.unitBytes env

end KeyTaken

/-- A key command that may run takes its input. -/
theorem Completes.ofKey {c : Instr} {s : State} {P : Dev → Prop} {p : Path} (op slot kek len attr : Nat) (run : KeyArgs → List Word → Dev → Dev)
    (he : exec c s = s.act (onPort 0x30000 p (kcmdWrite p op slot kek len attr))) (hr : s.dev.reaches p 0x30000 = true)
    (hb : s.dev.on CY_KSTATUS_BUSY = false) (ht : s.dev.cy.tamperAt ≠ some s.dev.time)
    (hrun : ∀ d : Dev, d.cy.tamperAt ≠ some d.time →
      keyCommand op ⟨slot, kek, len, attr⟩ d = run ⟨slot, kek, len, attr⟩ d.cy.inp (d.modCy fun c => { c with inp := [], outp := [] }))
    (k : ∀ x, KeyTaken s.dev x → P (run ⟨slot, kek, len, attr⟩ s.dev.cy.inp x)) : Completes c s P := by
  have hcy : (s.dev.accessed p).cy = s.dev.cy := Dev.beginAccess_cy _ p
  have hx : KeyTaken s.dev ((s.dev.accessed p).modCy fun c => { c with inp := [], outp := [] }) :=
    { cy := congrArg (fun c : CySt => { c with inp := [], outp := [] }) hcy
      rd := fun f => accessed_rd s.dev p f
      fuses := Dev.beginAccess_fuses _ p
      epoch := Dev.beginAccess_epoch _ p
      mem := Dev.accessed_mem s.dev p }
  refine Completes.ofPort _ he hr ?_
  have hb' : (s.dev.accessed p).on CY_KSTATUS_BUSY = false := (accessed_on s.dev p _).trans hb
  have hw : kcmdWrite p op slot kek len attr (s.dev.accessed p) = keyCommand op ⟨slot, kek, len, attr⟩ (s.dev.accessed p) := by
    unfold kcmdWrite
    rw [hb']
    rfl
  rw [hw, hrun _ (by rw [hcy, accessed_time]; exact ht), hcy]
  exact k _ hx

/-! The ends of a key command (R238, R241). -/

theorem keyEnd_code (code : Nat) (d : Dev) : (keyEnd code d).rd CY_KSTATUS_CODE = code % 256 :=
  Dev.rd_wr_same (d.lower CY_KSTATUS_BUSY) CY_KSTATUS_CODE code

theorem keyEnd_rd (code : Nat) (d : Dev) {f : Fld} (h1 : f.bit ≠ CY_KSTATUS_CODE.bit) (h2 : f.bit ≠ CY_KSTATUS_BUSY.bit) : (keyEnd code d).rd f = d.rd f :=
  (Dev.rd_wr_ne (f := f) (g := CY_KSTATUS_CODE) (d.lower CY_KSTATUS_BUSY) code h1).trans (Dev.rd_lower_ne (f := f) (g := CY_KSTATUS_BUSY) d h2)

theorem keyEnd_mem (code : Nat) (d : Dev) : (keyEnd code d).mem = d.mem := rfl
theorem keyEnd_keySlot (code : Nat) (d : Dev) (k : Nat) : (keyEnd code d).keySlot k = d.keySlot k := keySlot_of rfl k
theorem keyEnd_chan (code : Nat) (d : Dev) (n : Nat) : (keyEnd code d).chan n = d.chan n := chan_of rfl n

theorem fillSlot_keySlot (n : Fin 64) (k : KeySlot) (d : Dev) : (fillSlot n.val k d).keySlot n.val = some k := by
  have e := vget_vmod_same d.cy.slots n.val (fun _ => some k) none n.isLt
  unfold fillSlot
  dsimp only
  cases (!d.keySlot n.val == some k) <;> exact e

theorem fillSlot_dirty (n : Nat) (k : KeySlot) (d : Dev) (h : d.keySlot n = none) : (fillSlot n k d).rd CY_KSTATUS_DIRTY = 1 := by
  unfold fillSlot
  dsimp only
  rw [h, keyEnd_rd _ _ (by decide) (by decide)]
  exact Dev.rd_raise_same _ CY_KSTATUS_DIRTY

theorem fillSlot_code (n : Nat) (k : KeySlot) (d : Dev) : (fillSlot n k d).rd CY_KSTATUS_CODE = cDONE := keyEnd_code cDONE _

theorem fillSlot_cy (n : Nat) (k : KeySlot) (d : Dev) : (fillSlot n k d).cy.inp = d.cy.inp ∧ (fillSlot n k d).cy.ecdh = d.cy.ecdh := by
  unfold fillSlot
  dsimp only
  cases (!d.keySlot n == some k) <;> exact ⟨rfl, rfl⟩

theorem fillSlot_mem (n : Nat) (k : KeySlot) (d : Dev) : (fillSlot n k d).mem = d.mem :=
  (fillSlot_after (Changes.refl _ _ d) (within_refl _) (covers_refl _) n k).parts .mem (by decide)

/-- A key that was unwrapped into its slot, or what refuses it (R239). -/
def fillWith (n : Nat) (r : Option KeySlot) (d : Dev) : Dev :=
  match r with
  | some k => fillSlot n k d
  | none => keyEnd kUNWRAP d

theorem fillWith_cy (n : Nat) (r : Option KeySlot) (d : Dev) : (fillWith n r d).cy.inp = d.cy.inp ∧ (fillWith n r d).cy.ecdh = d.cy.ecdh := by
  cases r with
  | none => exact ⟨rfl, rfl⟩
  | some k => exact fillSlot_cy n k d

theorem fillWith_mem (n : Nat) (r : Option KeySlot) (d : Dev) : (fillWith n r d).mem = d.mem := by
  cases r with
  | none => rfl
  | some k => exact fillSlot_mem n k d

/-- What an unwrapped record leaves of an empty slot (R239, R241). -/
theorem fillWith_settles (n : Fin 64) (r : Option KeySlot) (d : Dev) (h : d.keySlot n.val = none) :
    match r with
    | some k => (fillWith n.val r d).keySlot n.val = some k ∧ (fillWith n.val r d).rd CY_KSTATUS_DIRTY = 1 ∧ (fillWith n.val r d).rd CY_KSTATUS_CODE = cDONE
    | none => (fillWith n.val r d).keySlot n.val = none ∧ (fillWith n.val r d).rd CY_KSTATUS_CODE = kUNWRAP := by
  cases r with
  | none => exact ⟨h, keyEnd_code kUNWRAP d⟩
  | some k => exact ⟨fillSlot_keySlot n k d, fillSlot_dirty n.val k d h, fillSlot_code n.val k d⟩

/-! Key commands that fill a slot (R239, R243, R244). -/

section Fill

variable {x : Dev} {a : KeyArgs} {inp : List Word}

theorem keyGenerate_range (h : headerOk a.attr a.len = false) : keyGenerate a x = keyEnd cRANGE x := by
  unfold keyGenerate
  rw [h]
  rfl

theorem keyGenerate_fills (h : headerOk a.attr a.len = true) (hl : x.loopsClosed = true) (hs : x.keySlot a.slot = none) (he : x.entropy = true) :
    keyGenerate a x = fillSlot a.slot { attr := a.attr, len := a.len, version := 0, key := (x.random (keyBytes a.len)).1 } (x.random (keyBytes a.len)).2 := by
  unfold keyGenerate
  rw [h, hl, hs, he]
  rfl

theorem keyImportPlain_fills (h10 : 10 ≤ inp.length) (h : headerOk a.attr a.len = true) (hm : x.rd GC_BOOT_KEYMODE = 2)
    (hb : headerOk (u8At (wordsToBytes inp) 1) (u8At (wordsToBytes inp) 2) = true) (hz : ((wordsToBytes inp).drop 4).take 4 = zeros 4)
    (hl : x.loopsClosed = true) (hs : x.keySlot a.slot = none) : keyImportPlain a inp x = fillWith a.slot (recordKey a.slot a (wordsToBytes inp)) x := by
  unfold keyImportPlain fillWith
  dsimp only
  rw [decide_eq_false (by omega : ¬ inp.length < 10), h, hm, hb, hz, hl, hs]
  rfl

theorem keyImportWrapped_range (h : headerOk a.attr a.len = false) : keyImportWrapped a inp x = keyEnd cRANGE x := by
  unfold keyImportWrapped
  rw [h, Bool.not_false, Bool.or_true, if_pos rfl]

theorem keyImportWrapped_fills {key : List Byte} (h12 : 12 ≤ inp.length) (h : headerOk a.attr a.len = true) (hl : x.loopsClosed = true)
    (hs : x.keySlot a.slot = none) (hk : x.kekOf a.kek = .ok key) :
    keyImportWrapped a inp x = fillWith a.slot ((keyUnwrap key ((wordsToBytes inp).take 48)).bind (recordKey a.slot a)) x := by
  unfold keyImportWrapped fillWith
  rw [decide_eq_false (by omega : ¬ inp.length < 12), h, hl, hs, hk, if_neg (by decide), if_neg (by decide), if_neg (by decide)]
  dsimp only
  cases keyUnwrap key ((wordsToBytes inp).take 48) <;> rfl

theorem keyLoad_range (h : headerOk a.attr a.len = false) : keyLoad a inp x = keyEnd cRANGE x := by
  unfold keyLoad
  rw [h, Bool.not_false, Bool.or_true, if_pos rfl]

/-- The key of a blob, where its record repeats the header (R243). -/
def blobKey (a : KeyArgs) (bs r : List Byte) : Option KeySlot := if r.take 8 == bs.take 8 then recordKey a.slot a r else none

theorem keyLoad_fills (h16 : 16 ≤ inp.length) (h : headerOk a.attr a.len = true) (hl : x.loopsClosed = true) :
    keyLoad a inp x = fillWith a.slot ((keyUnwrap x.rootKey (((wordsToBytes inp).drop 8).take 48)).bind (blobKey a (wordsToBytes inp))) x := by
  unfold keyLoad fillWith
  dsimp only
  rw [decide_eq_false (by omega : ¬ inp.length < 16), h, hl, if_neg (by decide), if_neg (by decide)]
  cases keyUnwrap x.rootKey (((wordsToBytes inp).drop 8).take 48) with
  | none => rfl
  | some r =>
    show (match recordKey a.slot a r with
      | some k => if (r.take 8 == (wordsToBytes inp).take 8) = true then fillSlot a.slot k x else keyEnd kUNWRAP x
      | none => keyEnd kUNWRAP x) = _
    rw [Option.bind_some]
    unfold blobKey
    cases recordKey a.slot a r <;> cases (r.take 8 == (wordsToBytes inp).take 8) <;> rfl

theorem keyEcdhImport_range (h : headerOk a.attr a.len = false) : keyEcdhImport a inp x = keyEnd cRANGE (x.modCy fun c => { c with ecdh := none }) := by
  unfold keyEcdhImport
  dsimp only
  rw [h, Bool.not_false, Bool.or_true, if_pos rfl]

theorem keyEcdhImport_fills (h60 : 60 ≤ inp.length) (h : headerOk a.attr a.len = true) (hl : x.loopsClosed = true) (hs : x.keySlot a.slot = none) :
    keyEcdhImport a inp x =
      match x.openEnvelope (wordsToBytes inp) with
      | .error c => keyEnd c (x.modCy fun c => { c with ecdh := none })
      | .ok r => fillWith a.slot (recordKey a.slot a r) (x.modCy fun c => { c with ecdh := none }) := by
  unfold keyEcdhImport fillWith
  dsimp only
  rw [decide_eq_false (by omega : ¬ inp.length < 60), h, hl, hs]
  rfl

end Fill

section SlotCommands

variable {s : State} {p : Path} {slot : Fin 64} {len : Fin 4} {attr : Byte} (hr : s.dev.reaches p 0x30000 = true)
  (hb : s.dev.on CY_KSTATUS_BUSY = false) (ht : s.dev.cy.tamperAt ≠ some s.dev.time) (h2 : len.val ≤ 2)
include hr hb ht h2

theorem generate_completes {P : Dev → Prop}
    (k : ∀ x, KeyTaken s.dev x → P (keyGenerate ⟨slot.val, 0, len.val, attr.toNat⟩ x)) : Completes (.generate p slot len attr) s P :=
  Completes.ofKey 0x01 slot.val 0 len.val attr.toNat (fun a _ => keyGenerate a) rfl hr hb ht (fun _ h => (if_neg h).trans (if_neg (by dsimp only; omega))) k

theorem importPlain_completes {P : Dev → Prop}
    (k : ∀ x, KeyTaken s.dev x → P (keyImportPlain ⟨slot.val, 0, len.val, attr.toNat⟩ s.dev.cy.inp x)) : Completes (.importPlain p slot len attr) s P :=
  Completes.ofKey 0x02 slot.val 0 len.val attr.toNat keyImportPlain rfl hr hb ht (fun _ h => (if_neg h).trans (if_neg (by dsimp only; omega))) k

theorem importWrapped_completes {kek : Fin 64} {P : Dev → Prop}
    (k : ∀ x, KeyTaken s.dev x → P (keyImportWrapped ⟨slot.val, kek.val, len.val, attr.toNat⟩ s.dev.cy.inp x)) : Completes (.importWrapped p slot kek len attr) s P :=
  Completes.ofKey 0x03 slot.val kek.val len.val attr.toNat keyImportWrapped rfl hr hb ht (fun _ h => (if_neg h).trans (if_neg (by dsimp only; omega))) k

theorem loadBlob_completes {P : Dev → Prop}
    (k : ∀ x, KeyTaken s.dev x → P (keyLoad ⟨slot.val, 0, len.val, attr.toNat⟩ s.dev.cy.inp x)) : Completes (.loadBlob p slot len attr) s P :=
  Completes.ofKey 0x08 slot.val 0 len.val attr.toNat keyLoad rfl hr hb ht (fun _ h => (if_neg h).trans (if_neg (by dsimp only; omega))) k

theorem ecdhImport_completes {P : Dev → Prop}
    (k : ∀ x, KeyTaken s.dev x → P (keyEcdhImport ⟨slot.val, 0, len.val, attr.toNat⟩ s.dev.cy.inp x)) : Completes (.ecdhImport p slot len attr) s P :=
  Completes.ofKey 0x0A slot.val 0 len.val attr.toNat keyEcdhImport rfl hr hb ht (fun _ h => (if_neg h).trans (if_neg (by dsimp only; omega))) k

/-- A header out of range leaves the slot empty (R235, R239). -/
theorem badHeader_leaves (hs : s.dev.keySlot slot.val = none) (h : headerOk attr.toNat len.val = false) (kek : Fin 64) :
    ∀ c ∈ [Instr.generate p slot len attr, .importWrapped p slot kek len attr, .loadBlob p slot len attr, .ecdhImport p slot len attr],
      Completes c s fun d => d.keySlot slot.val = none ∧ d.rd CY_KSTATUS_CODE = cRANGE ∧ d.cy.inp = [] ∧ d.mem = s.dev.mem := by
  have ends : ∀ x, KeyTaken s.dev x → (keyEnd cRANGE x).keySlot slot.val = none ∧ (keyEnd cRANGE x).rd CY_KSTATUS_CODE = cRANGE ∧
      (keyEnd cRANGE x).cy.inp = [] ∧ (keyEnd cRANGE x).mem = s.dev.mem := fun x hx =>
    ⟨(hx.keySlot _).trans hs, keyEnd_code cRANGE x, congrArg CySt.inp hx.cy, hx.mem⟩
  intro c hc
  simp only [List.mem_cons, List.not_mem_nil, or_false] at hc
  rcases hc with rfl | rfl | rfl | rfl
  · refine generate_completes hr hb ht h2 fun x hx => ?_
    rw [keyGenerate_range h]
    exact ends x hx
  · refine importWrapped_completes hr hb ht h2 fun x hx => ?_
    rw [keyImportWrapped_range h]
    exact ends x hx
  · refine loadBlob_completes hr hb ht h2 fun x hx => ?_
    rw [keyLoad_range h]
    exact ends x hx
  · refine ecdhImport_completes hr hb ht h2 fun x hx => ?_
    rw [keyEcdhImport_range h]
    exact ⟨(hx.keySlot _).trans hs, keyEnd_code cRANGE _, congrArg CySt.inp hx.cy, hx.mem⟩

end SlotCommands

/-- The commands that fill a slot, on an empty one (R239, R241, R243, R244). -/
theorem slotCommands (s : State) (p : Path) (slot : Fin 64) (len : Fin 4) (attr : Byte) (hr : s.dev.reaches p 0x30000 = true)
    (hb : s.dev.on CY_KSTATUS_BUSY = false) (ht : s.dev.cy.tamperAt ≠ some s.dev.time) (h2 : len.val ≤ 2) (hl : s.dev.loopsClosed = true)
    (hs : s.dev.keySlot slot.val = none) : ∀ a bs, a = (⟨slot.val, 0, len.val, attr.toNat⟩ : KeyArgs) → bs = wordsToBytes s.dev.cy.inp →
      (headerOk attr.toNat len.val = true → s.dev.entropy = true → Completes (.generate p slot len attr) s fun d =>
        (∃ key, d.keySlot slot.val = some ⟨attr.toNat, len.val, 0, key⟩ ∧ key.length = keyBytes len.val) ∧
        d.rd CY_KSTATUS_DIRTY = 1 ∧ d.rd CY_KSTATUS_CODE = cDONE ∧ d.cy.inp = [] ∧ d.mem = s.dev.mem) ∧
      (∀ k, 10 ≤ s.dev.cy.inp.length → s.dev.rd GC_BOOT_KEYMODE = 2 → headerOk attr.toNat len.val = true → headerOk (u8At bs 1) (u8At bs 2) = true →
        (bs.drop 4).take 4 = zeros 4 → recordKey slot.val a bs = some k →
        Completes (.importPlain p slot len attr) s fun d =>
        d.keySlot slot.val = some k ∧ d.rd CY_KSTATUS_DIRTY = 1 ∧ d.rd CY_KSTATUS_CODE = cDONE ∧ d.cy.inp = [] ∧ d.mem = s.dev.mem) ∧
      (∀ (kek : Fin 64) key, 12 ≤ s.dev.cy.inp.length → headerOk attr.toNat len.val = true → s.dev.kekOf kek.val = .ok key → Completes (.importWrapped p
          slot kek len attr) s fun d =>
        d.cy.inp = [] ∧ d.mem = s.dev.mem ∧
        match (keyUnwrap key (bs.take 48)).bind (recordKey slot.val a) with
        | some k => d.keySlot slot.val = some k ∧ d.rd CY_KSTATUS_DIRTY = 1 ∧ d.rd CY_KSTATUS_CODE = cDONE
        | none => d.keySlot slot.val = none ∧ d.rd CY_KSTATUS_CODE = kUNWRAP) ∧
      (16 ≤ s.dev.cy.inp.length → headerOk attr.toNat len.val = true → Completes (.loadBlob p slot len attr) s fun d =>
        d.cy.inp = [] ∧ d.mem = s.dev.mem ∧
        match (keyUnwrap s.dev.rootKey ((bs.drop 8).take 48)).bind (fun r => if r.take 8 == bs.take 8 then recordKey slot.val a r else none) with
        | some k => d.keySlot slot.val = some k ∧ d.rd CY_KSTATUS_DIRTY = 1 ∧ d.rd CY_KSTATUS_CODE = cDONE
        | none => d.keySlot slot.val = none ∧ d.rd CY_KSTATUS_CODE = kUNWRAP) ∧
      (60 ≤ s.dev.cy.inp.length → headerOk attr.toNat len.val = true → Completes (.ecdhImport p slot len attr) s fun d =>
        d.cy.inp = [] ∧ d.cy.ecdh = none ∧ d.mem = s.dev.mem ∧
        match s.dev.openEnvelope bs with
        | .error c => d.keySlot slot.val = none ∧ d.rd CY_KSTATUS_CODE = c % 256
        | .ok r =>
          match recordKey slot.val a r with
          | some k => d.keySlot slot.val = some k ∧ d.rd CY_KSTATUS_DIRTY = 1 ∧ d.rd CY_KSTATUS_CODE = cDONE
          | none => d.keySlot slot.val = none ∧ d.rd CY_KSTATUS_CODE = kUNWRAP) ∧
      (headerOk attr.toNat len.val = false → ∀ kek : Fin 64,
        ∀ c ∈ [Instr.generate p slot len attr, .importWrapped p slot kek len attr, .loadBlob p slot len attr, .ecdhImport p slot len attr],
          Completes c s fun d => d.keySlot slot.val = none ∧ d.rd CY_KSTATUS_CODE = cRANGE ∧ d.cy.inp = [] ∧ d.mem = s.dev.mem) := by
  have hi : ∀ {x}, KeyTaken s.dev x → x.cy.inp = [] := fun hx => congrArg CySt.inp hx.cy
  rintro a bs rfl rfl
  refine ⟨fun h he => generate_completes hr hb ht h2 fun x hx => ?_, fun k h10 hm h hb' hz hk => importPlain_completes hr hb ht h2 fun x hx => ?_,
    fun kek key h12 h hk => importWrapped_completes hr hb ht h2 fun x hx => ?_, fun h16 h => loadBlob_completes hr hb ht h2 fun x hx => ?_,
    fun h60 h => ecdhImport_completes hr hb ht h2 fun x hx => ?_, fun h kek => badHeader_leaves hr hb ht h2 hs h kek⟩
  · have hi' := hi hx
    rw [keyGenerate_fills h (hx.loopsClosed.trans hl) ((hx.keySlot _).trans hs) (hx.entropy.trans he)]
    refine ⟨⟨_, fillSlot_keySlot slot _ _, ?_⟩, fillSlot_dirty _ _ _ ((hx.keySlot _).trans hs), fillSlot_code _ _ _, (fillSlot_cy _ _ _).1.trans hi', (fillSlot_mem _ _ _).trans hx.mem⟩
    exact (List.length_map _).trans List.length_range
  · rw [keyImportPlain_fills h10 h ((hx.rd _).trans hm) hb' hz (hx.loopsClosed.trans hl) ((hx.keySlot _).trans hs), show recordKey slot.val _ _ = some k from hk]
    exact ⟨fillSlot_keySlot slot k x, fillSlot_dirty _ k x ((hx.keySlot _).trans hs), fillSlot_code _ k x, (fillSlot_cy _ k x).1.trans (hi hx), (fillSlot_mem _ k x).trans hx.mem⟩
  · rw [keyImportWrapped_fills h12 h (hx.loopsClosed.trans hl) ((hx.keySlot _).trans hs) ((hx.kekOf _).trans hk)]
    refine ⟨(fillWith_cy _ _ x).1.trans (hi hx), (fillWith_mem _ _ x).trans hx.mem, ?_⟩
    exact fillWith_settles slot _ x ((hx.keySlot _).trans hs)
  · rw [keyLoad_fills h16 h (hx.loopsClosed.trans hl), hx.rootKey]
    refine ⟨(fillWith_cy _ _ x).1.trans (hi hx), (fillWith_mem _ _ x).trans hx.mem, ?_⟩
    exact fillWith_settles slot _ x ((hx.keySlot _).trans hs)
  · have hi' := hi hx
    rw [keyEcdhImport_fills h60 h (hx.loopsClosed.trans hl) ((hx.keySlot _).trans hs), hx.openEnvelope]
    have hs' : (x.modCy fun c => { c with ecdh := none }).keySlot slot.val = none := (hx.keySlot _).trans hs
    cases s.dev.openEnvelope (wordsToBytes s.dev.cy.inp) with
    | error c => exact ⟨hi', rfl, hx.mem, hs', keyEnd_code c _⟩
    | ok r => exact ⟨(fillWith_cy _ _ _).1.trans hi', (fillWith_cy _ _ _).2, (fillWith_mem _ _ _).trans hx.mem, fillWith_settles slot _ _ hs'⟩

/-! The key port, and key commands that read or empty a slot (R238, R239, R242 to R244). -/

/-- No session of a slot is left where its sessions are dropped (R242). -/
theorem dropSlotSessions_drops (k : Nat) (d : Dev) (n j : Nat) (z : SmSession) (hn : n < 24) (hj : j < 8)
    (h : (((dropSlotSessions k d).chan n).context j).sm = some z) : z.slot ≠ k := by
  unfold dropSlotSessions at h
  refine eachContext_settles (fun c => { c with sm := c.sm.filter fun x => x.slot != k }) (fun c => ∀ z, c.sm = some z → z.slot ≠ k) (fun c z hz => ?_) d hn hj z h
  simpa using (Option.filter_eq_some_iff.mp hz).2

section SlotReads

variable {s : State} {p : Path} {slot : Fin 64} (hr : s.dev.reaches p 0x30000 = true) (hb : s.dev.on CY_KSTATUS_BUSY = false)
  (ht : s.dev.cy.tamperAt ≠ some s.dev.time)
include hr hb ht

theorem erase_empties {k : KeySlot} (hk : s.dev.keySlot slot.val = some k) : Completes (.erase p slot) s fun d =>
    d.keySlot slot.val = none ∧ d.rd CY_KSTATUS_DIRTY = 1 ∧ d.rd CY_KSTATUS_CODE = cDONE ∧
    (∀ n j x, n < 24 → j < 8 → ((d.chan n).context j).sm = some x → x.slot ≠ slot.val) ∧ d.mem = s.dev.mem := by
  refine Completes.ofKey 0x05 slot.val 0 0 0 (fun a _ => keyErase a) rfl hr hb ht (fun _ h => (if_neg h).trans (if_neg (by dsimp only; omega))) fun x hx => ?_
  unfold keyErase
  dsimp only
  rw [hx.keySlot, hk]
  have hs : (x.modCy fun c => { c with slots := vmod c.slots slot.val fun _ => none }).keySlot slot.val = none :=
    vget_vmod_same x.cy.slots slot.val (fun _ => none) none slot.isLt
  have hd := Dev.rd_raise_same (x.modCy fun c => { c with slots := vmod c.slots slot.val fun _ => none }) CY_KSTATUS_DIRTY
  have hm : ((x.modCy fun c => { c with slots := vmod c.slots slot.val fun _ => none }).raise CY_KSTATUS_DIRTY).mem = s.dev.mem := hx.mem
  dsimp only
  generalize hy : (x.modCy fun c => { c with slots := vmod c.slots slot.val fun _ => none }).raise CY_KSTATUS_DIRTY = y at hd hm
  have hs' : y.keySlot slot.val = none := by subst hy; exact hs
  have hch := dropSlotSessions_after (Changes.refl _ _ y) (within_refl _) (covers_refl _) slot.val
  have hsm := dropSlotSessions_drops slot.val y
  generalize dropSlotSessions slot.val y = z at hch hsm ⊢
  refine ⟨(keyEnd_keySlot cDONE z _).trans ?_, ?_, keyEnd_code cDONE z, fun n j w hn hj hw => ?_, (keyEnd_mem cDONE z).trans ((hch.parts .mem (by decide)).trans hm)⟩
  · exact (keySlot_of (congrArg CySt.slots (hch.parts .cy (by decide))) _).trans hs'
  · rw [keyEnd_rd _ _ (by decide) (by decide), hch.rd (rows_not (by decide))]
    exact hd
  · rw [keyEnd_chan] at hw
    exact hsm n j w hn hj hw

theorem info_outputs {k : KeySlot} (hk : s.dev.keySlot slot.val = some k) : Completes (.info p slot) s fun d =>
    d.cy.outp = bytesToWords (headerBytes slot.val k ++ (cmac k.key (zeros 16)).take 3) ∧ d.rd CY_KSTATUS_CODE = cDONE ∧
    d.cy.slots = s.dev.cy.slots ∧ d.mem = s.dev.mem := by
  refine Completes.ofKey 0x06 slot.val 0 0 0 (fun a _ => keyInfo a) rfl hr hb ht (fun _ h => (if_neg h).trans (if_neg (by dsimp only; omega))) fun x hx => ?_
  unfold keyInfo
  dsimp only
  rw [hx.keySlot, hk]
  exact ⟨rfl, keyEnd_code cDONE _, hx.slots, hx.mem⟩

theorem exportWrapped_outputs {k : KeySlot} (hk : s.dev.keySlot slot.val = some k) {kek : Fin 64} {key : List Byte} (hkek : s.dev.kekOf kek.val = .ok key)
    (h7 : bit k.attr 7 = true) : Completes (.exportWrapped p slot kek) s fun d =>
      d.cy.outp = bytesToWords (keyWrap key (keyRecord slot.val k)) ∧ d.rd CY_KSTATUS_CODE = cDONE ∧ d.cy.slots = s.dev.cy.slots ∧ d.mem = s.dev.mem := by
  refine Completes.ofKey 0x04 slot.val kek.val 0 0 (fun a _ => keyExport a) rfl hr hb ht (fun _ h => (if_neg h).trans (if_neg (by dsimp only; omega))) fun x hx => ?_
  unfold keyExport
  dsimp only
  rw [hx.keySlot, hx.kekOf, hk, hkek]
  dsimp only
  rw [h7]
  exact ⟨rfl, keyEnd_code cDONE _, hx.slots, hx.mem⟩

theorem saveBlob_outputs {k : KeySlot} (hk : s.dev.keySlot slot.val = some k) : Completes (.saveBlob p slot) s fun d =>
    d.cy.outp = bytesToWords (s.dev.blob slot.val k) ∧ d.rd CY_KSTATUS_CODE = cDONE ∧ d.cy.slots = s.dev.cy.slots ∧ d.mem = s.dev.mem := by
  refine Completes.ofKey 0x07 slot.val 0 0 0 (fun a _ => keySave a) rfl hr hb ht (fun _ h => (if_neg h).trans (if_neg (by dsimp only; omega))) fun x hx => ?_
  unfold keySave
  dsimp only
  rw [hx.keySlot, hk]
  dsimp only
  rw [hx.blob]
  exact ⟨rfl, keyEnd_code cDONE _, hx.slots, hx.mem⟩

theorem ecdhStart_outputs (he : s.dev.entropy = true) : Completes (.ecdhStart p) s fun d =>
    (∃ key, d.cy.ecdh = some key ∧ key.length = 32 ∧ d.cy.outp = bytesToWords (Config.p256Public key)) ∧ d.rd CY_KSTATUS_CODE = cDONE ∧
    d.mem = s.dev.mem := by
  refine Completes.ofKey 0x09 0 0 0 0 (fun _ _ => keyEcdhStart) rfl hr hb ht (fun _ h => (if_neg h).trans (if_neg (by dsimp only; omega))) fun x hx => ?_
  unfold keyEcdhStart
  rw [hx.entropy, he]
  exact ⟨⟨_, rfl, (List.length_map _).trans List.length_range, rfl⟩, keyEnd_code cDONE _, hx.mem⟩

end SlotReads

theorem kdataWrite_fits (p : Path) (w : Word) (d : Dev) (h : d.cy.inp.length < 64) : kdataWrite p w d = d.modCy fun c => { c with inp := c.inp ++ [w] } :=
  if_neg (by omega)

theorem kdataWrite_full (p : Path) (w : Word) (d : Dev) (h : 64 ≤ d.cy.inp.length) : kdataWrite p w d = d.errRange p 0x30018 := if_pos h

/-- The key port, and the commands that read or empty a slot. -/
theorem keyPort (s : State) (p : Path) (hr : s.dev.reaches p 0x30000 = true) :
    (∀ w : Word, s.dev.cy.inp.length < 64 → Completes (.kdataWrite p w) s fun d =>
      d.cy.inp = s.dev.cy.inp ++ [w] ∧ d.regs = s.dev.regs ∧ d.mem = s.dev.mem) ∧
    (∀ w : Word, 64 ≤ s.dev.cy.inp.length → Completes (.kdataWrite p w) s fun d =>
      d.cy = s.dev.cy ∧ d.rd (ERR_RANGE 0x30000) = 1 ∧ d.mem = s.dev.mem) ∧
    (Completes (.kdataRead p) s fun d =>
      d.out = [s.dev.cy.outp.headD 0] ∧ d.cy.outp = s.dev.cy.outp.drop 1 ∧ d.mem = s.dev.mem) := by
  have hcy : (s.dev.accessed p).cy = s.dev.cy := Dev.beginAccess_cy _ p
  refine ⟨fun w h => Completes.ofPort (kdataWrite p w) rfl hr ?_, fun w h => Completes.ofPort (kdataWrite p w) rfl hr ?_, Completes.ofPort (kdataRead p) rfl hr ?_⟩
  · rw [kdataWrite_fits p w _ (by rw [hcy]; exact h)]
    refine ⟨?_, accessed_regs s.dev p, Dev.accessed_mem s.dev p⟩
    show (s.dev.accessed p).cy.inp ++ [w] = _
    rw [hcy]
  · rw [kdataWrite_full p w _ (by rw [hcy]; exact h)]
    have hch := Dev.errRange_changes (s.dev.accessed p) p 0x30018
    exact ⟨(hch.parts .cy (by decide)).trans hcy, Dev.errRange_flag _ p _, (hch.parts .mem (by decide)).trans (Dev.accessed_mem s.dev p)⟩
  · unfold kdataRead
    rw [hcy]
    have hch := Dev.give_after (Changes.refl _ _ ((s.dev.accessed p).modCy fun c => { c with outp := c.outp.drop 1 })) (within_refl _) (covers_refl _) p [s.dev.cy.outp.headD 0]
    refine ⟨?_, ?_, (give_mem _ _ _).trans (Dev.accessed_mem s.dev p)⟩
    · rw [give_out]
      show (s.dev.accessed p).out ++ _ = _
      rw [accessed_out]
      rfl
    · rw [hch.parts .cy (by decide)]
      show (s.dev.accessed p).cy.outp.drop 1 = _
      rw [hcy]

/-- Settles O32: the commands that fill a slot, the key port, and the commands that read or empty a slot. -/
theorem keyCommands : Obligations.KeyCommands := by
  refine ⟨slotCommands, fun s p hr => ?_⟩
  obtain ⟨h1, h2, h3⟩ := keyPort s p hr
  exact ⟨h1, h2, h3, fun hb ht slot => ⟨fun k hk => ⟨erase_empties hr hb ht hk, info_outputs hr hb ht hk,
    fun kek key hkek h7 => exportWrapped_outputs hr hb ht hk hkek h7, saveBlob_outputs hr hb ht hk⟩, ecdhStart_outputs hr hb ht⟩⟩

end Sys2Proof.Machine
end

section
/-!
Fuse burns and the tamper loops while a KEY_OP of a customer core waits (10_secure_sessions.md, R323): its reply goes into the core's buffer.
-/

namespace Sys2Proof.Machine

/-- A KEY_OP whose key command changed no slot is answered, whether or not it is audited. -/
theorem keyOpEnd_clean (c : SvcCmd) (d : Dev) (h : d.on CY_KSTATUS_DIRTY = false) :
    ∃ y : Dev, y.mem = d.mem ∧ y.sv.waiting = d.sv.waiting ∧
      keyOpEnd c d = reply c cDONE (leBytes 4 (d.rd CY_KSTATUS_CODE) ++ wordsToBytes d.cy.outp) y := by
  unfold keyOpEnd maybeAudit
  dsimp only
  split
  · refine ⟨_, ?_, ?_, if_neg (fun q => absurd (q.symm.trans h) (by decide))⟩ <;> rfl
  · refine ⟨_, ?_, ?_, if_neg (fun q => absurd (q.symm.trans h) (by decide))⟩ <;> rfl

/-- The reply to a core goes into its buffer in DRAM. -/
theorem reply_ecall (c : SvcCmd) (k : Fin 4) (rc : Nat) (data : List Byte) (d : Dev) (hv : c.via = .ecall k)
    (hb : 0x14000000 ≤ c.buf.1 ∧ c.buf.1 + ((data.take 1012).take c.buf.2).length ≤ 0x1FE00000) :
    (reply c rc data d).mem = Memory.write d.mem c.buf.1 ((data.take 1012).take c.buf.2) ∧ (reply c rc data d).sv.waiting = d.sv.waiting := by
  unfold reply
  dsimp only
  rw [hv]
  dsimp only
  rw [decide_eq_true hb]
  exact ⟨rfl, rfl⟩

/-- A waiting KEY_OP of a core is answered in memory once Crypto is idle. -/
theorem keyOpSettle_writes {d : Dev} {c : SvcCmd} {k : Fin 4} (hk : d.sv.keyOp = some c) (hb : d.on CY_KSTATUS_BUSY = false) (hr : d.runtime = true)
    (hd : d.on CY_KSTATUS_DIRTY = false) (hw : d.sv.waiting = []) (hv : c.via = .ecall k) {bs : List Byte}
    (hbs : bs = ((leBytes 4 (d.rd CY_KSTATUS_CODE) ++ wordsToBytes d.cy.outp).take 1012).take c.buf.2)
    (ho : 0x14000000 ≤ c.buf.1 ∧ c.buf.1 + bs.length ≤ 0x1FE00000) : (keyOpSettle d).mem = Memory.write d.mem c.buf.1 bs := by
  subst hbs
  obtain ⟨y, hm, hy, he⟩ := keyOpEnd_clean c (d.modSv fun s => { s with keyOp := none }) hd
  obtain ⟨h1, h2⟩ := reply_ecall c k cDONE (leBytes 4 (d.rd CY_KSTATUS_CODE) ++ wordsToBytes d.cy.outp) y hv ho
  have hrun : keyOpSettle d = settleServices (keyOpEnd c (d.modSv fun s => { s with keyOp := none })) := by
    unfold keyOpSettle
    rw [hk]
    dsimp only
    rw [hb, hr]
    rfl
  have he' : keyOpEnd c (d.modSv fun s => { s with keyOp := none }) = reply c cDONE (leBytes 4 (d.rd CY_KSTATUS_CODE) ++ wordsToBytes d.cy.outp) y := he
  rw [hrun, he', settleServices_empty _ (h2.trans (hy.trans hw)), h1, hm]
  rfl

/-- A KEY_OP of core 1 that waits for a fuse burn, with the core's buffer. -/
def waitingOp : SvcCmd := { via := .ecall 1, code := 0x48, tag := 0, payload := [], lenOk := true, buf := (0x14000000, 4) }

/-- A part that burns a hash for a core. -/
def burningDev : Dev :=
  { runningDev with
    cy := { CySt.reset with burn := some { op := 0x0B, slot := 0, data := [] } },
    sv := { SvSt.reset with keyOp := some waitingOp } }

theorem burning_met : (fuseBurnDone false burningDev.begun).sv.keyOp = some waitingOp ∧ (fuseBurnDone false burningDev.begun).on CY_KSTATUS_BUSY = false ∧
    (fuseBurnDone false burningDev.begun).runtime = true ∧ (fuseBurnDone false burningDev.begun).on CY_KSTATUS_DIRTY = false ∧
    (fuseBurnDone false burningDev.begun).sv.waiting = [] ∧
    leBytes 4 0x17 = ((leBytes 4 ((fuseBurnDone false burningDev.begun).rd CY_KSTATUS_CODE) ++ wordsToBytes (fuseBurnDone false burningDev.begun).cy.outp).take 1012).take
      waitingOp.buf.2 ∧
    Memory.write (fuseBurnDone false burningDev.begun).mem 0x14000000 (leBytes 4 0x17) ≠ burningDev.mem := by
  decide +kernel

/-- Refutes O33: the end of a burn that a customer core's KEY_OP awaits answers it, which writes the reply into the core's buffer in DRAM. -/
theorem not_fuseKeyBurns : ¬ Obligations.FuseKeyBurns := by
  intro h
  obtain ⟨s, hs⟩ : ∃ s : State, s.dev = burningDev := ⟨⟨[], burningDev⟩, rfl⟩
  obtain ⟨-, h⟩ := h s
  have hb : s.dev.cy.burn = some { op := 0x0B, slot := 0, data := [] } := by rw [hs]; rfl
  obtain ⟨t, hx, -, -, -, -, hm, -⟩ := h _ false hb
  have ht := act_dev (f := fun d => keyOpSettle (fuseBurnDone false d)) hx
  obtain ⟨h1, h2, h3, h4, h5, h6, h7⟩ := burning_met
  have hw := keyOpSettle_writes h1 h2 h3 h4 h5 rfl h6 ⟨by decide, by decide⟩
  rw [ht, hs] at hm
  exact h7 (hw.symm.trans hm)

/-- A part whose last key command ended with a code, with a KEY_OP still to be answered. -/
def endedDev : Dev :=
  { runningDev with
    regs := [(CY_KSTATUS_CODE.bit, 0x17), (DK_STATUS_LOADED.bit, 1)],
    sv := { SvSt.reset with keyOp := some waitingOp } }

theorem ended_met : (tamperSample 0 endedDev.cy.guard0 endedDev.begun).sv.keyOp = some waitingOp ∧
    (tamperSample 0 endedDev.cy.guard0 endedDev.begun).on CY_KSTATUS_BUSY = false ∧ (tamperSample 0 endedDev.cy.guard0 endedDev.begun).runtime = true ∧
    (tamperSample 0 endedDev.cy.guard0 endedDev.begun).on CY_KSTATUS_DIRTY = false ∧ (tamperSample 0 endedDev.cy.guard0 endedDev.begun).sv.waiting = [] ∧
    leBytes 4 0x17 = ((leBytes 4 ((tamperSample 0 endedDev.cy.guard0 endedDev.begun).rd CY_KSTATUS_CODE) ++
      wordsToBytes (tamperSample 0 endedDev.cy.guard0 endedDev.begun).cy.outp).take 1012).take waitingOp.buf.2 ∧
    Memory.write (tamperSample 0 endedDev.cy.guard0 endedDev.begun).mem 0x14000000 (leBytes 4 0x17) ≠ endedDev.mem := by
  decide +kernel

/-- Refutes O34: a sample of a tamper loop also lets a KEY_OP that waits for Crypto go on, whose reply is written into the core's buffer in DRAM. -/
theorem not_tamperAndEntropy : ¬ Obligations.TamperAndEntropy := by
  rintro ⟨h, -⟩
  obtain ⟨s, hs⟩ : ∃ s : State, s.dev = endedDev := ⟨⟨[], endedDev⟩, rfl⟩
  obtain ⟨-, h, -⟩ := h s (by rw [hs]; decide)
  obtain ⟨t, hx, -, -, -, hm⟩ := h
  have ht := act_dev (f := fun d => keyOpSettle (tamperSample 0 s.dev.cy.guard0 d)) hx
  obtain ⟨h1, h2, h3, h4, h5, h6, h7⟩ := ended_met
  have hw := keyOpSettle_writes h1 h2 h3 h4 h5 rfl h6 ⟨by decide, by decide⟩
  rw [ht, hs] at hm
  exact h7 (hw.symm.trans hm)

end Sys2Proof.Machine
end

section
/-!
The Ethernet ports (16_ethernet.md): a frame that waits for DRAM.
-/

namespace Sys2Proof.Machine

/-- A port that is up, accepts every destination and untagged frames, while PLL_D is unlocked. -/
def listeningDev : Dev :=
  { runningDev with
    regs := [((EN_CFG_RX_EN 0).bit, 1), ((EN_STATUS_LINK 0).bit, 1), ((EN_CFG_PROMISC 0).bit, 1), (GC_STATUS_PLLD_LOCK.bit, 0),
             (DK_STATUS_LOADED.bit, 1)] }

theorem listening_met : listeningDev.applied = true ∧ listeningDev.on (EN_CFG_RX_EN 0) = true ∧ listeningDev.on (EN_STATUS_LINK 0) = true ∧
    listeningDev.on GC_STATUS_PLLD_LOCK = false ∧ listeningDev.rxRing 0 (zeros 60) = some 1 := by
  decide +kernel

/-- What waits is the frame with a timestamp that the counter has reached. -/
theorem listening_waits : ((ethFrameReceived 0 (zeros 60) true false 1 listeningDev.begun).enPort 0).waiting ≠
    (listeningDev.enPort 0).waiting ++ [(1, zeros 60, 1)] := by
  decide +kernel

/-- Refutes O49: a frame given with a counter value that the counter has not reached waits for DRAM with the counter's value. -/
theorem not_ethernetPorts : ¬ Obligations.EthernetPorts := by
  rintro ⟨h, -⟩
  obtain ⟨s, hs⟩ : ∃ s : State, s.dev = listeningDev := ⟨⟨[], listeningDev⟩, rfl⟩
  obtain ⟨ha, hrx, hl, hd, hr⟩ := listening_met
  obtain ⟨-, h, -⟩ := h s 0
  obtain ⟨-, h⟩ := h (by rw [hs]; exact ha) (by rw [hs]; exact hrx) (zeros 60) 1
  obtain ⟨-, h⟩ := h (by rw [hs]; exact hl)
  obtain ⟨-, -, -, h⟩ := h (by decide) (by decide)
  obtain ⟨t, hx, -, hw, -⟩ := h (by decide) (by rw [hs]; exact hd) 1 (by rw [hs]; exact hr)
  rw [act_dev (f := ethFrameReceived 0 (zeros 60) true false 1) hx, hs] at hw
  exact listening_waits hw

end Sys2Proof.Machine
end

section
/-!
The Landing queues (12_landing_queues.md): producers, reads and the stall; pushes, the consumer commands and LQn_CFG.
-/

namespace Sys2Proof.Machine

/-! What queues depend on, and what they leave. -/

theorem qSize_of {d e : Dev} {i : Nat} (h : e.rd (LQN_POOL_SIZE i) = d.rd (LQN_POOL_SIZE i)) : e.qSize i = d.qSize i := by unfold Dev.qSize; rw [h]

theorem isConsumer_of {d e : Dev} {i : Nat} (h : e.rd (LQN_CFG_CONSUMER i) = d.rd (LQN_CFG_CONSUMER i)) (p : Path) : e.isConsumer p i = d.isConsumer p i := by
  unfold Dev.isConsumer Dev.qHost
  rw [Dev.on_of_rd h]

theorem accessed_q (d : Dev) (p : Path) (i : Nat) : (d.accessed p).q i = d.q i := q_of_lq (Dev.beginAccess_lq _ p) i
theorem accessed_qSize (d : Dev) (p : Path) (i : Nat) : (d.accessed p).qSize i = d.qSize i := qSize_of (accessed_rd d p _)
theorem accessed_isConsumer (d : Dev) (p r : Path) (i : Nat) : (d.accessed p).isConsumer r i = d.isConsumer r i := isConsumer_of (accessed_rd d p _) r
theorem accessed_lq (d : Dev) (p : Path) : (d.accessed p).lq = d.lq := Dev.beginAccess_lq _ p
theorem accessed_taken (d : Dev) (p : Path) (i : Nat) : (d.accessed p).taken i = d.taken i := by
  unfold Dev.taken
  rw [show (d.accessed p).sv = d.sv from Dev.beginAccess_sv _ p]

theorem give_q (d : Dev) (p : Path) (ws : List Word) (i : Nat) : (d.give p ws).q i = d.q i :=
  q_of_lq ((Dev.give_after (Changes.refl _ _ d) (within_refl _) (covers_refl _) p ws).parts .lq (by decide)) i

theorem give_taken (d : Dev) (p : Path) (ws : List Word) (i : Nat) : (d.give p ws).taken i = d.taken i := by
  unfold Dev.taken
  rw [give_sv]

theorem taken_setTaken (d : Dev) (i : Nat) (ws : List Word) : (d.setTaken i ws).taken i = ws := by
  unfold Dev.taken Dev.setTaken
  dsimp only
  rw [List.find?_append, List.find?_eq_none.mpr fun x hx => by
    have h := (List.mem_filter.mp hx).2
    simp only [decide_eq_true_eq, ne_eq, decide_not, Bool.not_eq_true', decide_eq_false_iff_not] at h ⊢
    exact h]
  cases ws with
  | nil => rfl
  | cons w ws => simp

/-- A queue that no read waits at serves none. -/
theorem serveStalled_idle {i : Nat} {d : Dev} (h : (d.q i).stalled = []) : serveStalled i d = d := by
  unfold serveStalled
  rw [h]
  rfl

theorem settle_idle {q : Queue} (h : q.heldGap = none) (size : Nat) : q.settle size = q := by
  unfold Queue.settle
  rw [h]

/-! Producers (R289, R290, R296). -/

/-- An item that fits is stored with the next number (R289, R296). -/
theorem post_stores {i : Nat} (hi : i < 32) (h27 : i ≠ 27) {d : Dev} (typ : Nat) (ws : List Word) (hs : (d.q i).stalled = [])
    (hf : (d.q i).fits (d.qSize i) (ws.length + 1) = true) : d.post i typ ws = d.modQ i fun _ =>
      { d.q i with nextIn := ((d.q i).nextIn + 1) % 4096, waiting := (d.q i).waiting ++ [⟨.item typ (d.q i).nextIn ws, false, false⟩] } := by
  have hfit := hf
  unfold Queue.fits at hfit
  obtain ⟨-, hroom⟩ := Bool.and_eq_true_iff.mp hfit
  have hroom := of_decide_eq_true hroom
  have hf' : Queue.fits { d.q i with nextIn := ((d.q i).nextIn + 1) % 4096 } (d.qSize i) (ws.length + 1) = true := hf
  have h27' : (i == 27) = false := by simpa using h27
  unfold Dev.post
  dsimp only
  rw [if_neg (by omega)]
  simp only [h27', hf', decide_eq_false (by omega : ¬ d.qSize i - 1 < ws.length + 1), Bool.false_and, Bool.not_false, Bool.and_true, Bool.not_true,
    Bool.and_false, Bool.false_eq_true, if_false, if_true]
  exact serveStalled_idle (by rw [modQ_q _ hi]; exact hs)

/-- An item that does not fit is dropped into a GAP marker behind what waits (R296). -/
theorem post_drops {i : Nat} (hi : i < 32) (h27 : i ≠ 27) {d : Dev} (typ : Nat) (ws : List Word) (hs : (d.q i).stalled = [])
    (hl : d.qSize i < (d.q i).used + ws.length + 2) (hu : (d.q i).used + 1 ≤ d.qSize i) (hm : (d.q i).mark = false) (hg : (d.q i).heldGap = none)
    (hgap : mergeGap (d.q i).waiting (d.q i).nextIn = none) :
    ∃ c, d.post i typ ws = (((d.raiseIf c (LQN_STATUS_OVERSIZE_SEEN i)).raise (LQN_STATUS_GAP_SEEN i)).count (LQN_DROPPED_COUNT i) 1).modQ i fun _ =>
      { d.q i with nextIn := ((d.q i).nextIn + 1) % 4096, waiting := (d.q i).waiting ++ [⟨.gap (d.q i).nextIn 1 (d.q i).nextIn, false, false⟩] } := by
  have hf : Queue.fits { d.q i with nextIn := ((d.q i).nextIn + 1) % 4096 } (d.qSize i) (ws.length + 1) = false := by
    unfold Queue.fits
    rw [decide_eq_false, Bool.and_false]
    show ¬ (d.q i).used + (ws.length + 1) + 1 ≤ d.qSize i
    omega
  have h27' : (i == 27) = false := by simpa using h27
  have hgap' : Queue.gapFor { d.q i with nextIn := ((d.q i).nextIn + 1) % 4096 } (d.qSize i) (d.q i).nextIn =
      { d.q i with nextIn := ((d.q i).nextIn + 1) % 4096, waiting := (d.q i).waiting ++ [⟨.gap (d.q i).nextIn 1 (d.q i).nextIn, false, false⟩] } := by
    unfold Queue.gapFor
    dsimp only
    rw [hg, hgap]
    dsimp only
    exact (if_pos hu).trans (by rw [← hg])
  simp only [hm] at hf hgap'
  refine ⟨decide (d.qSize i - 1 < ws.length + 1), ?_⟩
  unfold Dev.post
  dsimp only
  rw [if_neg (by omega)]
  simp only [h27', hf, hm, Bool.false_and, Bool.and_false, Bool.not_false, Bool.and_true, Bool.false_eq_true, if_false, hgap']
  exact serveStalled_idle (by rw [modQ_q _ hi]; exact hs)

/-! Reads (R287, R294, R295). -/

theorem popWords_one {i : Nat} {d : Dev} {w : Word} {q' : Queue} (h : (d.q i).take (d.qSize i) = some (w, q')) :
    popWords i 1 d = ([w], 0, (d.modQ i fun _ => q').take1 i w) := by
  unfold popWords
  rw [h]
  rfl

theorem popWords_empty {i : Nat} {d : Dev} (h : (d.q i).waiting = []) : popWords i 1 d = ([], 1, d) := by
  unfold popWords Queue.take
  rw [h]

/-- A read of one word of a queue that has one (R294). -/
theorem popBurst_word {p : Path} {i : Nat} {d : Dev} {w : Word} {q' : Queue} (hc : d.isConsumer p i = true)
    (h : (d.q i).take (d.qSize i) = some (w, q')) : popBurst p i 1 d = ((d.modQ i fun _ => q').take1 i w).give p [w] := by
  unfold popBurst
  rw [if_neg (by decide), hc, popWords_one h]
  rfl

/-- A read of one word of an empty queue (R292, R295). -/
theorem popBurst_empty {p : Path} {i : Nat} {d : Dev} (hc : d.isConsumer p i = true) (h : (d.q i).waiting = []) :
    popBurst p i 1 d = if d.qSize i = 0 || d.rd LQ_STALL_STALL = 0 then d.give p [(d.q i).emptyMarker]
      else d.modQ i fun q => { q with stalled := q.stalled ++ [⟨p, 1, false, none, d.ns⟩] } := by
  unfold popBurst
  rw [if_neg (by decide), hc, popWords_empty h]
  rfl

theorem popBurst_refused {p : Path} {i : Nat} {d : Dev} (hc : d.isConsumer p i = false) : popBurst p i 1 d = (d.popRefused p i).give p [0] := by
  unfold popBurst
  rw [if_neg (by decide), hc]
  rfl

/-- What the runtime has taken nothing of stays as it is. -/
theorem runtimeTakes_none {i : Nat} {d : Dev} (h : d.taken i = []) : runtimeTakes i (d.taken i).length d = d := by
  rw [h]
  rfl

/-- The runtime waits for the rest of an item (R287). -/
theorem runtimeTakes_part {i : Nat} {d : Dev} {w : Word} (h : d.taken i = [w]) (hl : 2 ≤ bits w.toNat 23 15) : runtimeTakes i (d.taken i).length d = d := by
  rw [h]
  show runtimeTakes i 1 d = d
  unfold runtimeTakes
  dsimp only
  have e : bits (wordAt [w] 0) 23 15 = bits w.toNat 23 15 := rfl
  rw [h, e, decide_eq_true (show [w].length < max 1 (bits w.toNat 23 15) by simp only [List.length_singleton]; omega), Bool.true_or, if_pos rfl]

theorem header_len (t n : Nat) (sys rep : Bool) (seq : Nat) (h : n < 512) : bits (itemHeader t n sys rep seq).toNat 23 15 = n := by
  unfold itemHeader packW bits
  simp only [List.foldl_cons, List.foldl_nil, BitVec.toNat_ofNat]
  have hs : b2n sys ≤ 1 := by cases sys <;> decide
  have hr : b2n rep ≤ 1 := by cases rep <;> decide
  omega

theorem Completes.ofPop {s : State} {p : Path} {i : Fin 32} {y : Dev} {P : Dev → Prop} (hr : s.dev.reaches p 0x20000 = true)
    (hy : popBurst p i.val 1 (s.dev.accessed p) = y) (ht : runtimeTakes i.val (y.taken i.val).length y = y) (k : P y) : Completes (.queuePop p i) s P := by
  refine Completes.effect (popAndTake p i.val) rfl ?_
  have e : onPort 0x20000 p (popBurst p i.val 1) s.dev.begun = y := (onPort_reached _ hr).trans hy
  unfold popAndTake
  rw [e]
  dsimp only
  rw [ht]
  exact k

theorem item_words {e : Entry} {t n : Nat} {ws : List Word} (h : e.body = .item t n ws) :
    e.words = itemHeader t (ws.length + 1) false e.replayed n :: ws := by
  unfold Entry.words
  rw [h]

theorem take_more {q : Queue} {e : Entry} {rest : List Entry} (h : q.waiting = e :: rest) (hp : q.popped + 1 < e.words.length) (size : Nat) :
    q.take size = some (e.words.getD q.popped 0, { q with waiting := { e with begun := true } :: rest, popped := q.popped + 1 }) := by
  unfold Queue.take
  rw [h]
  exact if_pos hp

theorem take_last {q : Queue} {e : Entry} {rest : List Entry} (h : q.waiting = e :: rest) (hp : e.words.length ≤ q.popped + 1) (hg : q.heldGap = none) (size : Nat) :
    q.take size = some (e.words.getD q.popped 0,
      { q with waiting := rest, popped := 0, retained := if q.mark then q.retained ++ [{ e with begun := true }] else q.retained }) := by
  unfold Queue.take
  rw [h]
  dsimp only
  rw [if_neg (by omega)]
  exact congrArg (fun z => some (_, z)) (settle_idle (by exact hg) size)

theorem popRefused_eff (i : Fin 32) (p : Path) (d : Dev) :
    (d.popRefused p i.val).rd (ERR_LOCKED 0x20000) = 1 ∧ (d.popRefused p i.val).rd (LQN_STATUS_REFUSED_SEEN i.val) = 1 ∧
    (d.popRefused p i.val).rd (LQN_STATUS_CODE i.val) = cREFUSED := by
  unfold Dev.popRefused
  dsimp only
  have h1 := (d.accessError_flags 0x20000 p false (0x1000 + 0x40 * i.val + 0x20000) ⟨false, true, false⟩).2.1 rfl
  generalize d.accessError 0x20000 p false (0x1000 + 0x40 * i.val + 0x20000) ⟨false, true, false⟩ = x at h1 ⊢
  refine ⟨?_, ?_, Dev.rd_wr_same _ (LQN_STATUS_CODE i.val) cREFUSED⟩
  · rw [Dev.rd_wr_ne _ _ (by dsimp only; omega), Dev.rd_raise_ne _ (by dsimp only; omega)]
    exact h1
  · rw [Dev.rd_wr_ne _ _ (by dsimp only; omega)]
    exact Dev.rd_raise_same x (LQN_STATUS_REFUSED_SEEN i.val)

theorem popRefused_changes (p : Path) (i : Nat) (d : Dev) :
    Changes [.regs] [.errors, .row 0x2100c 32 0x40 1, .row 0x2100c 32 0x40 24] d (d.popRefused p i) :=
  Dev.popRefused_after (Changes.refl _ _ d) (within_refl _) (covers_refl _) p i

/-- What a delivery leaves of a queue's status. -/
theorem give_status (i : Fin 32) (p : Path) (ws : List Word) (d : Dev) :
    (d.give p ws).rd (ERR_LOCKED 0x20000) = d.rd (ERR_LOCKED 0x20000) ∧
    (d.give p ws).rd (LQN_STATUS_REFUSED_SEEN i.val) = d.rd (LQN_STATUS_REFUSED_SEEN i.val) ∧
    (d.give p ws).rd (LQN_STATUS_CODE i.val) = d.rd (LQN_STATUS_CODE i.val) := by
  have h := Dev.give_after (Changes.refl _ _ d) (within_refl _) (covers_refl _) p ws
  exact ⟨h.rd (rows_not (by decide)), h.rd (rows_not (by apply every_index _ i; decide)), h.rd (rows_not (by apply every_index _ i; decide))⟩

section Pop

variable {s : State} {p : Path} {i : Fin 32} (hr : s.dev.reaches p 0x20000 = true) (ht : s.dev.taken i.val = [])
include hr ht

/-- A word that the host's side takes, and what is left of the queue. -/
theorem pop_takes (hc : s.dev.isConsumer p i.val = true) {w : Word} {q' : Queue} (h : (s.dev.q i.val).take (s.dev.qSize i.val) = some (w, q'))
    (hw : p ≠ .pilot ∨ 2 ≤ bits w.toNat 23 15) : Completes (.queuePop p i) s fun d => d.out = [w] ∧ d.mem = s.dev.mem ∧ d.q i.val = q' := by
  have hy := popBurst_word (d := s.dev.accessed p) ((accessed_isConsumer s.dev p p i.val).trans hc) (by rw [accessed_q, accessed_qSize]; exact h)
  have hq : ∀ z : Dev, ((z.modQ i.val fun _ => q').take1 i.val w).q i.val = q' := fun z => by rw [take1_q, modQ_q _ i.isLt]
  have htk : ((s.dev.accessed p).modQ i.val fun _ => q').taken i.val = [] := (accessed_taken s.dev p i.val).trans ht
  refine Completes.ofPop hr hy ?_ ⟨?_, ?_, ?_⟩
  · cases hh : ((s.dev.accessed p).modQ i.val fun _ => q').qHost i.val with
    | true =>
      have e : ((s.dev.accessed p).modQ i.val fun _ => q').take1 i.val w = (s.dev.accessed p).modQ i.val fun _ => q' := if_pos hh
      refine runtimeTakes_none ?_
      rw [give_taken, e]
      exact htk
    | false =>
      have e : ((s.dev.accessed p).modQ i.val fun _ => q').take1 i.val w = ((s.dev.accessed p).modQ i.val fun _ => q').setTaken i.val [w] := by
        unfold Dev.take1
        rw [hh, htk]
        rfl
      have hpilot : p = .pilot := by
        have hh' : s.dev.qHost i.val = false := (accessed_on s.dev p _).symm.trans hh
        have hc' := hc
        unfold Dev.isConsumer at hc'
        rw [hh'] at hc'
        simpa using hc'
      refine runtimeTakes_part (w := w) ?_ (hw.resolve_left fun x => x hpilot)
      rw [give_taken, e]
      exact taken_setTaken _ _ _
  · rw [give_out]
    have e : (((s.dev.accessed p).modQ i.val fun _ => q').take1 i.val w).out = [] := by
      unfold Dev.take1
      split <;> exact accessed_out s.dev p
    rw [e]
    rfl
  · rw [give_mem]
    have e : (((s.dev.accessed p).modQ i.val fun _ => q').take1 i.val w).mem = s.dev.mem := by
      unfold Dev.take1
      split <;> exact Dev.accessed_mem s.dev p
    exact e
  · rw [give_q]
    exact hq _

theorem pop_stalls (hc : s.dev.isConsumer p i.val = true) (hw : (s.dev.q i.val).waiting = []) (hs : s.dev.qSize i.val ≠ 0) (hl : s.dev.rd LQ_STALL_STALL ≠ 0) :
    Completes (.queuePop p i) s fun d => d.out = [] ∧ (d.q i.val).stalled = (s.dev.q i.val).stalled ++ [⟨p, 1, false, none, s.dev.ns⟩] ∧
      d.regs = s.dev.regs ∧ d.mem = s.dev.mem := by
  have hy := popBurst_empty (d := s.dev.accessed p) ((accessed_isConsumer s.dev p p i.val).trans hc) (by rw [accessed_q]; exact hw)
  rw [accessed_qSize, accessed_rd, decide_eq_false hs, decide_eq_false hl, Bool.or_self, if_neg (by decide)] at hy
  have hns : (s.dev.accessed p).ns = s.dev.ns := by
    unfold Dev.ns
    rw [accessed_time]
  refine Completes.ofPop hr hy (runtimeTakes_none ((accessed_taken s.dev p i.val).trans ht)) ⟨accessed_out s.dev p, ?_, accessed_regs s.dev p, Dev.accessed_mem s.dev p⟩
  rw [modQ_q _ i.isLt, accessed_q, hns]

theorem pop_marks (hc : s.dev.isConsumer p i.val = true) (hw : (s.dev.q i.val).waiting = []) (hs : s.dev.qSize i.val = 0 ∨ s.dev.rd LQ_STALL_STALL = 0) :
    Completes (.queuePop p i) s fun d => d.out = [(s.dev.q i.val).emptyMarker] ∧ (d.q i.val).stalled = (s.dev.q i.val).stalled ∧ d.mem = s.dev.mem := by
  have hy := popBurst_empty (d := s.dev.accessed p) ((accessed_isConsumer s.dev p p i.val).trans hc) (by rw [accessed_q]; exact hw)
  rw [accessed_qSize, accessed_rd, if_pos (by simpa using hs), accessed_q] at hy
  refine Completes.ofPop hr hy (runtimeTakes_none ?_) ⟨?_, ?_, ?_⟩
  · rw [give_taken, accessed_taken]
    exact ht
  · rw [give_out, accessed_out]
    rfl
  · rw [give_q, accessed_q]
  · rw [give_mem]
    exact Dev.accessed_mem s.dev p

theorem pop_refused (hc : s.dev.isConsumer p i.val = false) : Completes (.queuePop p i) s fun d =>
    d.out = [0] ∧ d.rd (ERR_LOCKED 0x20000) = 1 ∧ d.rd (LQN_STATUS_REFUSED_SEEN i.val) = 1 ∧ d.rd (LQN_STATUS_CODE i.val) = cREFUSED ∧
    d.lq = s.dev.lq ∧ d.mem = s.dev.mem := by
  have hy := popBurst_refused (d := s.dev.accessed p) ((accessed_isConsumer s.dev p p i.val).trans hc)
  obtain ⟨h1, h2, h3⟩ := popRefused_eff i p (s.dev.accessed p)
  have hch := popRefused_changes p i.val (s.dev.accessed p)
  generalize (s.dev.accessed p).popRefused p i.val = x at hy h1 h2 h3 hch
  have hgv := Dev.give_after (Changes.refl _ _ x) (within_refl _) (covers_refl _) p [0]
  refine Completes.ofPop hr hy (runtimeTakes_none ?_) ⟨?_, ?_, ?_, ?_, ?_, ?_⟩
  · rw [give_taken]
    have e : x.taken i.val = (s.dev.accessed p).taken i.val := by unfold Dev.taken; rw [hch.parts .sv (by decide)]
    exact e.trans ((accessed_taken s.dev p i.val).trans ht)
  · rw [give_out, hch.parts .out (by decide), accessed_out]
    rfl
  · exact (give_status i p [0] x).1.trans h1
  · exact (give_status i p [0] x).2.1.trans h2
  · exact (give_status i p [0] x).2.2.trans h3
  · exact (hgv.parts .lq (by decide)).trans ((hch.parts .lq (by decide)).trans (accessed_lq s.dev p))
  · exact (give_mem _ _ _).trans ((hch.parts .mem (by decide)).trans (Dev.accessed_mem s.dev p))

end Pop

/-- A stall that ends (R295). -/
theorem stall_ends (s : State) (i : Fin 32) {st : StalledRead} {ss : List StalledRead} (h : (s.dev.q i.val).stalled = st :: ss) (ho : st.oneItem = false) :
    Completes (.queueStallExpiry i) s fun d =>
      d.out = (s.dev.q i.val).emptyMarker :: List.replicate (st.words - 1) 0 ∧ (d.q i.val).stalled = ss ∧
      (∀ b, st.behind = some b → (d.q i.val).resumed = (s.dev.q i.val).resumed ++ [b]) ∧ d.rd (LQN_STATUS_STALL_SEEN i.val) = 1 ∧ d.mem = s.dev.mem := by
  refine Completes.effect (queueStallExpiry i.val) rfl ?_
  have hreach := Dev.reach_after (Changes.refl _ _ s.dev.begun) (within_refl _) (covers_refl _) (st.since + s.dev.begun.rd LQ_STALL_STALL * 1000)
  have hout := hreach.parts .out (by decide)
  have hmem := hreach.parts .mem (by decide)
  have hlq := hreach.parts .lq (by decide)
  have hrun : queueStallExpiry i.val s.dev.begun =
      (readOver i.val st ss (((s.dev.begun.reach (st.since + s.dev.begun.rd LQ_STALL_STALL * 1000)).give st.path
        [((s.dev.begun.reach (st.since + s.dev.begun.rd LQ_STALL_STALL * 1000)).q i.val).emptyMarker]).give st.path (List.replicate (st.words - 1) 0))).raise
        (LQN_STATUS_STALL_SEEN i.val) := by
    unfold queueStallExpiry
    rw [show (s.dev.begun.q i.val).stalled = st :: ss from h]
    dsimp only
    rw [ho]
    rfl
  rw [hrun]
  generalize s.dev.begun.reach (st.since + s.dev.begun.rd LQ_STALL_STALL * 1000) = x at hout hmem hlq ⊢
  have hxq : x.q i.val = s.dev.q i.val := q_of_lq hlq i.val
  have hq : ((x.give st.path [(x.q i.val).emptyMarker]).give st.path (List.replicate (st.words - 1) 0)).q i.val = s.dev.q i.val := by
    rw [give_q, give_q, hxq]
  have ho : ((x.give st.path [(x.q i.val).emptyMarker]).give st.path (List.replicate (st.words - 1) 0)).out =
      (s.dev.q i.val).emptyMarker :: List.replicate (st.words - 1) 0 := by
    rw [give_out, give_out, hout, hxq]
    rfl
  have hm : ((x.give st.path [(x.q i.val).emptyMarker]).give st.path (List.replicate (st.words - 1) 0)).mem = s.dev.mem := by
    rw [give_mem, give_mem]
    exact hmem
  generalize (x.give st.path [(x.q i.val).emptyMarker]).give st.path (List.replicate (st.words - 1) 0) = y at hq ho hm ⊢
  have hr : (readOver i.val st ss y).q i.val = { s.dev.q i.val with stalled := ss, resumed := (s.dev.q i.val).resumed ++ st.behind.toList } := by
    unfold readOver
    rw [modQ_q _ i.isLt, hq]
  refine ⟨ho, congrArg Queue.stalled hr, fun b hb => (congrArg Queue.resumed hr).trans ?_, Dev.rd_raise_same _ (LQN_STATUS_STALL_SEEN i.val), hm⟩
  rw [hb]
  rfl

/-- A producer's item that fits, and one that does not. -/
theorem item_completes (s : State) (i : Fin 32) (typ : Byte) (ws : List Word) (hl : ws.length ≤ 255) (h27 : i.val ≠ 27) (hs : (s.dev.q i.val).stalled = []) :
    ((s.dev.q i.val).fits (s.dev.qSize i.val) (ws.length + 1) = true → Completes (.queueItemComplete i typ ws) s fun d =>
      (d.q i.val).waiting = (s.dev.q i.val).waiting ++ [⟨.item typ.toNat (s.dev.q i.val).nextIn ws, false, false⟩] ∧
      (d.q i.val).nextIn = ((s.dev.q i.val).nextIn + 1) % 4096 ∧ d.regs = s.dev.regs ∧ d.mem = s.dev.mem) ∧
    (s.dev.qSize i.val < (s.dev.q i.val).used + ws.length + 2 → (s.dev.q i.val).used + 1 ≤ s.dev.qSize i.val → (s.dev.q i.val).mark = false →
      (s.dev.q i.val).heldGap = none → mergeGap (s.dev.q i.val).waiting (s.dev.q i.val).nextIn = none → Completes (.queueItemComplete i typ ws) s fun d =>
      (d.q i.val).waiting = (s.dev.q i.val).waiting ++ [⟨.gap (s.dev.q i.val).nextIn 1 (s.dev.q i.val).nextIn, false, false⟩] ∧
      (d.q i.val).nextIn = ((s.dev.q i.val).nextIn + 1) % 4096 ∧ d.rd (LQN_STATUS_GAP_SEEN i.val) = 1 ∧ d.mem = s.dev.mem) := by
  have htake : queueItemComplete i.val typ.toNat ws s.dev.begun = s.dev.begun.post i.val typ.toNat ws := by
    unfold queueItemComplete
    rw [List.take_of_length_le hl]
  refine ⟨fun hf => Completes.effect (queueItemComplete i.val typ.toNat ws) rfl ?_, fun h1 h2 h3 h4 h5 => Completes.effect (queueItemComplete i.val typ.toNat ws) rfl ?_⟩
  · rw [htake, post_stores i.isLt h27 typ.toNat ws (d := s.dev.begun) hs hf, modQ_q _ i.isLt]
    exact ⟨rfl, rfl, rfl, rfl⟩
  · obtain ⟨c, hc⟩ := post_drops i.isLt h27 (d := s.dev.begun) typ.toNat ws hs h1 h2 h3 h4 h5
    rw [htake, hc, modQ_q _ i.isLt]
    refine ⟨rfl, rfl, ?_, raiseIf_mem _ _ _⟩
    have hm : ∀ (y : Dev) f, (y.modQ i.val f).rd (LQN_STATUS_GAP_SEEN i.val) = y.rd (LQN_STATUS_GAP_SEEN i.val) := fun _ _ => rfl
    rw [hm, Dev.rd_count_ne _ _ (by dsimp only; omega)]
    exact Dev.rd_raise_same _ (LQN_STATUS_GAP_SEEN i.val)

/-- Settles O37: producers, the stall, and reads of LQn_POP. -/
theorem queuesDeliverItems : Obligations.QueuesDeliverItems := by
  rintro s i q rfl
  refine ⟨fun typ ws hl h27 hs => item_completes s i typ ws hl h27 hs, fun st ss h ho _ => stall_ends s i h ho, fun p hr ht => ⟨fun hc hg e rest hw => ?_,
    fun hc hw hs hl => pop_stalls hr ht hc hw hs hl, fun hc hw hs => pop_marks hr ht hc hw hs, fun hc => pop_refused hr ht hc⟩⟩
  refine ⟨fun hp hlt => ?_, fun h0 t n ws hb hpos hle => ?_⟩
  · by_cases hm : (s.dev.q i.val).popped + 1 < e.words.length
    · refine (pop_takes hr ht hc (take_more hw hm _) (Or.inl hp)).imp fun d ⟨ho, hmem, hq⟩ => ⟨ho, hmem, ?_⟩
      rw [if_pos hm, hq]
      exact ⟨rfl, rfl⟩
    · refine (pop_takes hr ht hc (take_last hw (by omega) hg _) (Or.inl hp)).imp fun d ⟨ho, hmem, hq⟩ => ⟨ho, hmem, ?_⟩
      rw [if_neg hm, hq]
      exact ⟨rfl, rfl⟩
  · have hwords := item_words hb
    have hlen : (s.dev.q i.val).popped + 1 < e.words.length := by
      rw [hwords, h0, List.length_cons]
      omega
    have hhead : e.words.getD (s.dev.q i.val).popped 0 = itemHeader t (ws.length + 1) false e.replayed n := by
      rw [hwords, h0]
      rfl
    have htake := take_more hw hlen (s.dev.qSize i.val)
    rw [hhead] at htake
    refine (pop_takes hr ht hc htake (Or.inr ?_)).imp fun d ⟨ho, hmem, hq⟩ => ⟨ho, ?_, ?_, hmem⟩
    · rw [header_len _ _ _ _ _ (by omega)]
      omega
    · rw [hq]
    · rw [hq, h0]

end Sys2Proof.Machine
end

section
/-!
Pushes, the consumer commands and LQn_CFG (12_landing_queues.md, R298 to R304).
-/

namespace Sys2Proof.Machine

theorem blockBase_push (i : Fin 32) : blockBase (0x21004 + 0x40 * i.val) = 0x20000 := by decide +revert

/-! Pushes (R302). -/

theorem buf_path (q : Queue) (p : Path) : (q.buf p).path = p := by
  unfold Queue.buf
  cases h : q.push.find? (·.path = p) with
  | none => rfl
  | some b =>
    have hb := List.find?_some h
    exact of_decide_eq_true hb

theorem buf_setBuf (q : Queue) (b : PushBuf) : (q.setBuf b).buf b.path = if b.words.isEmpty && b.absorb = 0 then ⟨b.path, [], 0⟩ else b := by
  have hnone : (q.push.filter (·.path ≠ b.path)).find? (·.path = b.path) = none := List.find?_eq_none.mpr fun x hx => by
    have h := (List.mem_filter.mp hx).2
    simpa using h
  unfold Queue.setBuf Queue.buf
  dsimp only
  split
  · rw [hnone]
    rfl
  · rw [List.find?_append, hnone]
    simp

/-- A first word that spells an item's header begins the item. -/
theorem push_begins {p : Path} {i : Nat} {w : Word} {d : Dev} (hp : mayPush p i = true) (hs : d.qSize i ≠ 0) (ha : ((d.q i).buf p).absorb = 0)
    (hw : ((d.q i).buf p).words = []) (h2 : 2 ≤ bits w.toNat 23 15) (h256 : bits w.toNat 23 15 ≤ 256) (ht : 0x20 ≤ bits w.toNat 31 24) :
    queuePushCmd p i w d = d.modQ i (·.setBuf { (d.q i).buf p with words := [w] }) := by
  have hwd : wordAt [w] 0 = w.toNat := rfl
  unfold queuePushCmd
  dsimp only
  rw [hp, if_neg (by decide), if_neg hs, if_neg (fun x => x ha), hw, List.nil_append, hwd, decide_eq_false (by omega : ¬ bits w.toNat 23 15 = 0),
    decide_eq_false (by omega : ¬ 256 < bits w.toNat 23 15), decide_eq_false (by omega : ¬ bits w.toNat 31 24 < 0x20), if_neg (by decide),
    if_pos (by rw [List.length_singleton]; omega)]

theorem push_badHeader {p : Path} {i : Nat} {w : Word} {d : Dev} (hp : mayPush p i = true) (hs : d.qSize i ≠ 0) (ha : ((d.q i).buf p).absorb = 0)
    (hw : ((d.q i).buf p).words = []) (h : bits w.toNat 23 15 = 0 ∨ 256 < bits w.toNat 23 15 ∨ bits w.toNat 31 24 < 0x20) :
    queuePushCmd p i w d = d.errRange p (0x21004 + 0x40 * i) := by
  have hwd : wordAt [w] 0 = w.toNat := rfl
  unfold queuePushCmd
  dsimp only
  rw [hp, if_neg (by decide), if_neg hs, if_neg (fun x => x ha), hw, List.nil_append, hwd, if_pos]
  simp only [List.isEmpty_nil, Bool.true_and, Bool.or_eq_true, decide_eq_true_eq]
  omega

theorem push_ends {p : Path} {i : Nat} {w h : Word} {ws : List Word} {d : Dev} (hp : mayPush p i = true) (hs : d.qSize i ≠ 0)
    (ha : ((d.q i).buf p).absorb = 0) (hw : ((d.q i).buf p).words = h :: ws) (hl : ws.length + 2 = bits h.toNat 23 15) :
    queuePushCmd p i w d = (d.modQ i (·.setBuf { (d.q i).buf p with words := [] })).post i (bits h.toNat 31 24) (ws ++ [w]) := by
  have hwd : wordAt (h :: ws ++ [w]) 0 = h.toNat := rfl
  unfold queuePushCmd
  dsimp only
  rw [hp, if_neg (by decide), if_neg hs, if_neg (fun x => x ha), hw, hwd, if_neg (by simp), if_neg (by simp only [List.length_append, List.length_cons, List.length_nil]; omega)]
  rfl

theorem push_refused {p : Path} {i : Nat} {w : Word} {d : Dev} (hp : mayPush p i = false) : queuePushCmd p i w d = d.errLocked p (0x21004 + 0x40 * i) := by
  unfold queuePushCmd
  rw [hp]
  rfl

theorem accessed_buf (d : Dev) (p : Path) (i : Nat) : ((d.accessed p).q i).buf p = (d.q i).buf p := by rw [accessed_q]

section Push

variable {s : State} {i : Fin 32} {p : Path} (hr : s.dev.reaches p 0x20000 = true)
include hr

/-- A push that its header or its path refuses. -/
theorem push_completes (w : Word) (hp : mayPush p i.val = true) (hs : s.dev.qSize i.val ≠ 0) (ha : ((s.dev.q i.val).buf p).absorb = 0) :
    (((s.dev.q i.val).buf p).words = [] → 2 ≤ bits w.toNat 23 15 → bits w.toNat 23 15 ≤ 256 → 0x20 ≤ bits w.toNat 31 24 → Completes (.queuePush p i w) s fun d =>
      ((d.q i.val).buf p).words = [w] ∧ (d.q i.val).waiting = (s.dev.q i.val).waiting ∧ d.regs = s.dev.regs ∧ d.mem = s.dev.mem) ∧
    (((s.dev.q i.val).buf p).words = [] → bits w.toNat 23 15 = 0 ∨ 256 < bits w.toNat 23 15 ∨ bits w.toNat 31 24 < 0x20 → Completes (.queuePush p i w) s fun d =>
      d.rd (ERR_RANGE 0x20000) = 1 ∧ d.lq = s.dev.lq ∧ d.mem = s.dev.mem) ∧
    (∀ h ws, ((s.dev.q i.val).buf p).words = h :: ws → ws.length + 2 = bits h.toNat 23 15 → (s.dev.q i.val).stalled = [] → i.val ≠ 27 →
      (s.dev.q i.val).fits (s.dev.qSize i.val) (ws.length + 2) = true → Completes (.queuePush p i w) s fun d =>
      (d.q i.val).waiting = (s.dev.q i.val).waiting ++ [⟨.item (bits h.toNat 31 24) (s.dev.q i.val).nextIn (ws ++ [w]), false, false⟩] ∧
      ((d.q i.val).buf p).words = [] ∧ (d.q i.val).nextIn = ((s.dev.q i.val).nextIn + 1) % 4096 ∧ d.mem = s.dev.mem) := by
  have hs' : (s.dev.accessed p).qSize i.val ≠ 0 := by rw [accessed_qSize]; exact hs
  have ha' : (((s.dev.accessed p).q i.val).buf p).absorb = 0 := by rw [accessed_buf]; exact ha
  have hpath := buf_path (s.dev.q i.val) p
  refine ⟨fun hw h2 h256 ht => Completes.ofPort (queuePushCmd p i.val w) rfl hr ?_, fun hw h => Completes.ofPort (queuePushCmd p i.val w) rfl hr ?_,
    fun h ws hw hl hst h27 hf => Completes.ofPort (queuePushCmd p i.val w) rfl hr ?_⟩
  · rw [push_begins hp hs' ha' (by rw [accessed_buf]; exact hw) h2 h256 ht, modQ_q _ i.isLt, accessed_q]
    refine ⟨?_, rfl, accessed_regs s.dev p, Dev.accessed_mem s.dev p⟩
    have e := buf_setBuf (s.dev.q i.val) { (s.dev.q i.val).buf p with words := [w] }
    rw [show ({ (s.dev.q i.val).buf p with words := [w] } : PushBuf).path = p from hpath] at e
    rw [e]
    rfl
  · rw [push_badHeader hp hs' ha' (by rw [accessed_buf]; exact hw) h]
    have hch := Dev.errRange_changes (s.dev.accessed p) p (0x21004 + 0x40 * i.val)
    have hfl := Dev.errRange_flag (s.dev.accessed p) p (0x21004 + 0x40 * i.val)
    rw [blockBase_push] at hfl
    exact ⟨hfl, (hch.parts .lq (by decide)).trans (accessed_lq s.dev p), (hch.parts .mem (by decide)).trans (Dev.accessed_mem s.dev p)⟩
  · rw [push_ends hp hs' ha' (by rw [accessed_buf]; exact hw) hl]
    have hq : ((s.dev.accessed p).modQ i.val (·.setBuf { ((s.dev.accessed p).q i.val).buf p with words := [] })).q i.val =
        (s.dev.q i.val).setBuf { (s.dev.q i.val).buf p with words := [] } := by rw [modQ_q _ i.isLt, accessed_q]
    have hz : ((s.dev.accessed p).modQ i.val (·.setBuf { ((s.dev.accessed p).q i.val).buf p with words := [] })).qSize i.val = s.dev.qSize i.val := accessed_qSize s.dev p i.val
    have hm : ((s.dev.accessed p).modQ i.val (·.setBuf { ((s.dev.accessed p).q i.val).buf p with words := [] })).mem = s.dev.mem := Dev.accessed_mem s.dev p
    generalize (s.dev.accessed p).modQ i.val (·.setBuf { ((s.dev.accessed p).q i.val).buf p with words := [] }) = x at hq hz hm ⊢
    have hlen : (ws ++ [w]).length + 1 = ws.length + 2 := by simp
    rw [post_stores i.isLt h27 _ _ (by rw [hq]; exact hst) (by rw [hq, hz, hlen]; exact hf), modQ_q _ i.isLt, hq]
    have e := buf_setBuf (s.dev.q i.val) { (s.dev.q i.val).buf p with words := [] }
    rw [show ({ (s.dev.q i.val).buf p with words := [] } : PushBuf).path = p from hpath] at e
    refine ⟨rfl, ?_, rfl, hm⟩
    show (((s.dev.q i.val).setBuf { (s.dev.q i.val).buf p with words := [] }).buf p).words = []
    rw [e]
    split <;> rfl

theorem push_locked (w : Word) (hp : mayPush p i.val = false) : Completes (.queuePush p i w) s fun d =>
    d.rd (ERR_LOCKED 0x20000) = 1 ∧ d.lq = s.dev.lq ∧ d.mem = s.dev.mem := by
  refine Completes.ofPort (queuePushCmd p i.val w) rfl hr ?_
  rw [push_refused hp]
  have hch := Dev.errLocked_changes (s.dev.accessed p) p (0x21004 + 0x40 * i.val)
  have hfl := Dev.errLocked_flag (s.dev.accessed p) p (0x21004 + 0x40 * i.val)
  rw [blockBase_push] at hfl
  exact ⟨hfl, (hch.parts .lq (by decide)).trans (accessed_lq s.dev p), (hch.parts .mem (by decide)).trans (Dev.accessed_mem s.dev p)⟩

end Push

/-! The consumer commands (R298 to R301). -/

theorem modQ_wr_q (i : Fin 32) (d : Dev) (f : Queue → Queue) (g : Fld) (v : Nat) : ((d.modQ i.val f).wr g v).q i.val = f (d.q i.val) := modQ_q d i.isLt f

/-- Completion with a code alone. -/
theorem coded (s : State) (i : Fin 32) (p : Path) (c : Nat) (h : c < 256) :
    ((s.dev.accessed p).wr (LQN_STATUS_CODE i.val) c).rd (LQN_STATUS_CODE i.val) = c ∧ ((s.dev.accessed p).wr (LQN_STATUS_CODE i.val) c).lq = s.dev.lq ∧
    ((s.dev.accessed p).wr (LQN_STATUS_CODE i.val) c).mem = s.dev.mem :=
  ⟨(Dev.rd_wr_same _ (LQN_STATUS_CODE i.val) c).trans (Nat.mod_eq_of_lt h), accessed_lq s.dev p, Dev.accessed_mem s.dev p⟩

theorem consumer_runs {s : State} {i : Fin 32} {p : Path} (hs : s.dev.qSize i.val ≠ 0) (hc : s.dev.isConsumer p i.val = true) (f : Dev → Dev) :
    consumerCmd p i.val f (s.dev.accessed p) = f (s.dev.accessed p) := by
  unfold consumerCmd
  rw [accessed_isConsumer, hc, accessed_qSize, if_neg (by decide), if_neg hs]

section Consumer

variable {s : State} {i : Fin 32} {p : Path} (hr : s.dev.reaches p 0x20000 = true)
include hr

theorem consumer_refused (hc : s.dev.isConsumer p i.val = false) :
    ∀ c ∈ [Instr.dropRest p i, .mark p i, .rewind p i, .clearMark p i], Completes c s fun d =>
      d.rd (LQN_STATUS_CODE i.val) = cREFUSED ∧ d.lq = s.dev.lq ∧ d.mem = s.dev.mem := by
  have refuses : ∀ f, consumerCmd p i.val f (s.dev.accessed p) = (s.dev.accessed p).wr (LQN_STATUS_CODE i.val) cREFUSED := fun f => by
    unfold consumerCmd
    rw [accessed_isConsumer, hc]
    rfl
  intro c hm
  simp only [List.mem_cons, List.not_mem_nil, or_false] at hm
  rcases hm with rfl | rfl | rfl | rfl
  · refine Completes.ofPort (dropRestCmd p i.val) rfl hr ?_
    rw [dropRestCmd, refuses]
    exact coded s i p cREFUSED (by decide)
  · refine Completes.ofPort (markCmd p i.val) rfl hr ?_
    rw [markCmd, refuses]
    exact coded s i p cREFUSED (by decide)
  · refine Completes.ofPort (rewindCmd p i.val) rfl hr ?_
    rw [rewindCmd, refuses]
    exact coded s i p cREFUSED (by decide)
  · refine Completes.ofPort (clearMarkCmd p i.val) rfl hr ?_
    rw [clearMarkCmd, refuses]
    exact coded s i p cREFUSED (by decide)

variable (hs : s.dev.qSize i.val ≠ 0) (hc : s.dev.isConsumer p i.val = true)
include hs hc

theorem dropRest_drops {e : Entry} {rest : List Entry} (hm : (s.dev.q i.val).mid = true) (hw : (s.dev.q i.val).waiting = e :: rest)
    (hg : (s.dev.q i.val).heldGap = none) : Completes (.dropRest p i) s fun d =>
      (d.q i.val).waiting = rest ∧ (d.q i.val).popped = 0 ∧
      (d.q i.val).retained = (if (s.dev.q i.val).mark then (s.dev.q i.val).retained ++ [e] else (s.dev.q i.val).retained) ∧
      d.rd (LQN_STATUS_CODE i.val) = cDONE ∧ d.mem = s.dev.mem := by
  refine Completes.ofPort (dropRestCmd p i.val) rfl hr ?_
  rw [dropRestCmd, consumer_runs hs hc, accessed_q, hm, if_neg (by decide)]
  dsimp only
  rw [modQ_wr_q, show ((s.dev.accessed p).setTaken i.val []).q i.val = s.dev.q i.val from accessed_q s.dev p i.val, hw]
  dsimp only
  rw [settle_idle (by exact hg)]
  exact ⟨rfl, rfl, rfl, Dev.rd_wr_same _ (LQN_STATUS_CODE i.val) cDONE, Dev.accessed_mem s.dev p⟩

theorem dropRest_idle (hm : (s.dev.q i.val).mid = false) : Completes (.dropRest p i) s fun d =>
    d.rd (LQN_STATUS_CODE i.val) = cEMPTY ∧ d.lq = s.dev.lq ∧ d.mem = s.dev.mem := by
  refine Completes.ofPort (dropRestCmd p i.val) rfl hr ?_
  rw [dropRestCmd, consumer_runs hs hc, accessed_q, hm]
  exact coded s i p cEMPTY (by decide)

theorem mark_marks (hg : (s.dev.q i.val).heldGap = none) : Completes (.mark p i) s fun d =>
    (d.q i.val).mark = true ∧ (d.q i.val).markLost = false ∧ (d.q i.val).retained = [] ∧ (d.q i.val).waiting = (s.dev.q i.val).waiting ∧
    d.rd (LQN_STATUS_CODE i.val) = cDONE ∧ d.mem = s.dev.mem := by
  refine Completes.ofPort (markCmd p i.val) rfl hr ?_
  rw [markCmd, consumer_runs hs hc]
  dsimp only
  rw [modQ_wr_q, accessed_q, settle_idle (by exact hg)]
  exact ⟨rfl, rfl, rfl, rfl, Dev.rd_wr_same _ (LQN_STATUS_CODE i.val) cDONE, Dev.accessed_mem s.dev p⟩

theorem rewind_replays (hm : (s.dev.q i.val).mark = true) (hmid : (s.dev.q i.val).mid = false) (hst : (s.dev.q i.val).stalled = []) :
    Completes (.rewind p i) s fun d =>
      (d.q i.val).waiting = (s.dev.q i.val).retained.map (fun e => { e with replayed := true }) ++ (s.dev.q i.val).waiting ∧ (d.q i.val).mark = true ∧
      d.rd (LQN_STATUS_CODE i.val) = cDONE ∧ d.mem = s.dev.mem := by
  refine Completes.ofPort (rewindCmd p i.val) rfl hr ?_
  rw [rewindCmd, consumer_runs hs hc]
  dsimp only
  rw [accessed_q, hm, hmid, if_pos rfl]
  have hx : ((s.dev.accessed p).setTaken i.val []).q i.val = s.dev.q i.val := accessed_q s.dev p i.val
  rw [serveStalled_idle (by rw [modQ_wr_q, hx]; exact hst), modQ_wr_q, hx]
  refine ⟨?_, hm, Dev.rd_wr_same _ (LQN_STATUS_CODE i.val) cDONE, Dev.accessed_mem s.dev p⟩
  cases (s.dev.q i.val).waiting <;> rfl

theorem rewind_refused (hm : (s.dev.q i.val).mark = false) : Completes (.rewind p i) s fun d =>
    d.rd (LQN_STATUS_CODE i.val) = (if (s.dev.q i.val).markLost then 0x10 else cREFUSED) ∧ d.lq = s.dev.lq ∧ d.mem = s.dev.mem := by
  refine Completes.ofPort (rewindCmd p i.val) rfl hr ?_
  rw [rewindCmd, consumer_runs hs hc]
  dsimp only
  rw [accessed_q, hm, if_neg (by decide)]
  exact coded s i p _ (by cases (s.dev.q i.val).markLost <;> decide)

theorem clearMark_clears (h : (s.dev.q i.val).mark = true ∨ (s.dev.q i.val).markLost = true) (hg : (s.dev.q i.val).heldGap = none) :
    Completes (.clearMark p i) s fun d =>
      (d.q i.val).mark = false ∧ (d.q i.val).markLost = false ∧ (d.q i.val).retained = [] ∧ (d.q i.val).waiting = (s.dev.q i.val).waiting ∧
      d.rd (LQN_STATUS_CODE i.val) = cDONE ∧ d.mem = s.dev.mem := by
  refine Completes.ofPort (clearMarkCmd p i.val) rfl hr ?_
  rw [clearMarkCmd, consumer_runs hs hc]
  dsimp only
  rw [accessed_q, if_neg (by rcases h with h | h <;> simp [h]), modQ_wr_q, accessed_q, settle_idle (by exact hg)]
  exact ⟨rfl, rfl, rfl, rfl, Dev.rd_wr_same _ (LQN_STATUS_CODE i.val) cDONE, Dev.accessed_mem s.dev p⟩

theorem clearMark_idle (h : (s.dev.q i.val).mark = false) (hl : (s.dev.q i.val).markLost = false) : Completes (.clearMark p i) s fun d =>
    d.rd (LQN_STATUS_CODE i.val) = cEMPTY ∧ d.lq = s.dev.lq ∧ d.mem = s.dev.mem := by
  refine Completes.ofPort (clearMarkCmd p i.val) rfl hr ?_
  rw [clearMarkCmd, consumer_runs hs hc]
  dsimp only
  rw [accessed_q, h, hl]
  exact coded s i p cEMPTY (by decide)

end Consumer

/-- FLUSH leaves a FLUSHED marker alone (R299). -/
theorem flush_flushes {s : State} {i : Fin 32} {p : Path} (hr : s.dev.reaches p 0x20000 = true) (hs : s.dev.qSize i.val ≠ 0)
    (hc : s.dev.isConsumer p i.val = true ∨ p = .pilot) (hst : (s.dev.q i.val).stalled = []) : Completes (.flush p i) s fun d =>
      (d.q i.val).waiting = [⟨.flushed (s.dev.q i.val).nextIn ((s.dev.q i.val).waiting.filter Entry.isItem).length
        ((s.dev.q i.val).push.any fun b => !b.words.isEmpty), false, false⟩] ∧
      (d.q i.val).retained = [] ∧ (d.q i.val).mark = false ∧ (d.q i.val).popped = 0 ∧ d.rd (LQN_STATUS_FLUSH_SEEN i.val) = 1 ∧
      d.rd (LQN_STATUS_CODE i.val) = cDONE ∧ d.mem = s.dev.mem := by
  refine Completes.ofPort (flushCmd p i.val) rfl hr ?_
  have hmay : ((s.dev.accessed p).isConsumer p i.val || p == .pilot) = true := by
    rw [accessed_isConsumer]
    rcases hc with h | rfl
    · rw [h]
      rfl
    · exact Bool.or_true _
  unfold flushCmd
  rw [hmay, accessed_qSize, if_neg (by decide), if_neg hs]
  have hq : ((((s.dev.accessed p).setTaken i.val []).modQ i.val Queue.flush).raise (LQN_STATUS_FLUSH_SEEN i.val) |>.wr (LQN_STATUS_CODE i.val) cDONE).q i.val =
      (s.dev.q i.val).flush := by
    refine (modQ_q _ i.isLt _).trans (congrArg Queue.flush ?_)
    exact accessed_q s.dev p i.val
  rw [serveStalled_idle (by rw [hq]; exact hst), hq]
  refine ⟨rfl, rfl, rfl, rfl, ?_, Dev.rd_wr_same _ (LQN_STATUS_CODE i.val) cDONE, Dev.accessed_mem s.dev p⟩
  exact (Dev.rd_wr_ne (f := LQN_STATUS_FLUSH_SEEN i.val) (g := LQN_STATUS_CODE i.val) _ cDONE (by dsimp only; omega)).trans (Dev.rd_raise_same _ (LQN_STATUS_FLUSH_SEEN i.val))

/-! LQn_CFG (R45, R304). -/

/-- What LQn_CFG takes from a write. -/
def Dev.configured (d : Dev) (i : Nat) (v : Nat) : Dev :=
  (((((d.wr (LQN_CFG_CONSUMER i) (bits v 31 31)).wr (LQN_CFG_IE_MARK_LOST i) (bits v 27 27)).wr
    (LQN_CFG_IE_GAP i) (bits v 26 26)).wr (LQN_CFG_IE_THRESH i) (bits v 25 25)).wr
    (LQN_CFG_IE_NONEMPTY i) (bits v 24 24)).wr (LQN_CFG_THRESH i) (bits v 19 0)

theorem queueCfg_takes {p : Path} {i : Nat} {w : Word} {d : Dev} (hr : bits w.toNat 19 0 ≤ 524288)
    (hc : bits w.toNat 31 31 = d.rd (LQN_CFG_CONSUMER i) ∨ (p = .pilot ∧ (d.q i).mid = false)) :
    queueCfgWriteCmd p i w d = refuseStalled i (d.configured i w.toNat) := by
  unfold queueCfgWriteCmd
  dsimp only
  rw [decide_eq_false (by omega : ¬ 524288 < bits w.toNat 19 0), if_neg]
  · rfl
  · rcases hc with h | ⟨rfl, h⟩
    · simp [h]
    · simp [h]

theorem queueCfg_locked {p : Path} {i : Nat} {w : Word} {d : Dev} (hr : bits w.toNat 19 0 ≤ 524288)
    (hc : bits w.toNat 31 31 ≠ d.rd (LQN_CFG_CONSUMER i)) (hp : p ≠ .pilot ∨ (d.q i).mid = true) :
    queueCfgWriteCmd p i w d = d.accessError 0x20000 p true (0x21010 + 0x40 * i) ⟨false, true, false⟩ := by
  have hl : ((bits w.toNat 31 31 != d.rd (LQN_CFG_CONSUMER i)) && (p != .pilot || (d.q i).mid)) = true := by
    rw [Bool.and_eq_true, bne_iff_ne, Bool.or_eq_true, bne_iff_ne]
    exact ⟨hc, hp⟩
  unfold queueCfgWriteCmd
  dsimp only
  rw [decide_eq_false (by omega : ¬ 524288 < bits w.toNat 19 0), hl]
  rfl

theorem configured_rd (i : Fin 32) (v : Nat) (d : Dev) :
    (d.configured i.val v).rd (LQN_CFG_CONSUMER i.val) = bits v 31 31 ∧ (d.configured i.val v).rd (LQN_CFG_THRESH i.val) = bits v 19 0 ∧
    (d.configured i.val v).rd (LQN_CFG_IE_NONEMPTY i.val) = bits v 24 24 ∧ (d.configured i.val v).rd (LQN_CFG_IE_THRESH i.val) = bits v 25 25 ∧
    (d.configured i.val v).rd (LQN_CFG_IE_GAP i.val) = bits v 26 26 ∧ (d.configured i.val v).rd (LQN_CFG_IE_MARK_LOST i.val) = bits v 27 27 := by
  have low : ∀ hi lo, bits v hi lo % 2 ^ (hi + 1 - lo) = bits v hi lo := fun hi lo => Nat.mod_eq_of_lt (bits_lt v hi lo)
  unfold Dev.configured
  refine ⟨?_, (Dev.rd_wr_same _ (LQN_CFG_THRESH i.val) _).trans (low 19 0), ?_, ?_, ?_, ?_⟩
  · rw [Dev.rd_wr_ne _ _ (by dsimp only; omega), Dev.rd_wr_ne _ _ (by dsimp only; omega), Dev.rd_wr_ne _ _ (by dsimp only; omega),
      Dev.rd_wr_ne _ _ (by dsimp only; omega), Dev.rd_wr_ne _ _ (by dsimp only; omega)]
    exact (Dev.rd_wr_same _ (LQN_CFG_CONSUMER i.val) _).trans (low 31 31)
  · rw [Dev.rd_wr_ne _ _ (by dsimp only; omega)]
    exact (Dev.rd_wr_same _ (LQN_CFG_IE_NONEMPTY i.val) _).trans (low 24 24)
  · rw [Dev.rd_wr_ne _ _ (by dsimp only; omega), Dev.rd_wr_ne _ _ (by dsimp only; omega)]
    exact (Dev.rd_wr_same _ (LQN_CFG_IE_THRESH i.val) _).trans (low 25 25)
  · rw [Dev.rd_wr_ne _ _ (by dsimp only; omega), Dev.rd_wr_ne _ _ (by dsimp only; omega), Dev.rd_wr_ne _ _ (by dsimp only; omega)]
    exact (Dev.rd_wr_same _ (LQN_CFG_IE_GAP i.val) _).trans (low 26 26)
  · rw [Dev.rd_wr_ne _ _ (by dsimp only; omega), Dev.rd_wr_ne _ _ (by dsimp only; omega), Dev.rd_wr_ne _ _ (by dsimp only; omega),
      Dev.rd_wr_ne _ _ (by dsimp only; omega)]
    exact (Dev.rd_wr_same _ (LQN_CFG_IE_MARK_LOST i.val) _).trans (low 27 27)

/-- Reads that are refused leave LQn_CFG. -/
theorem refuseStalled_cfg (i : Fin 32) (d : Dev) :
    (refuseStalled i.val d).rd (LQN_CFG_CONSUMER i.val) = d.rd (LQN_CFG_CONSUMER i.val) ∧
    (refuseStalled i.val d).rd (LQN_CFG_THRESH i.val) = d.rd (LQN_CFG_THRESH i.val) ∧
    (refuseStalled i.val d).rd (LQN_CFG_IE_NONEMPTY i.val) = d.rd (LQN_CFG_IE_NONEMPTY i.val) ∧
    (refuseStalled i.val d).rd (LQN_CFG_IE_THRESH i.val) = d.rd (LQN_CFG_IE_THRESH i.val) ∧
    (refuseStalled i.val d).rd (LQN_CFG_IE_GAP i.val) = d.rd (LQN_CFG_IE_GAP i.val) ∧
    (refuseStalled i.val d).rd (LQN_CFG_IE_MARK_LOST i.val) = d.rd (LQN_CFG_IE_MARK_LOST i.val) := by
  have h := refuseStalled_after (Changes.refl _ _ d) (within_refl _) (covers_refl _) i.val
  exact ⟨h.rd (rows_not (by apply every_index _ i; decide)), h.rd (rows_not (by apply every_index _ i; decide)), h.rd (rows_not (by apply every_index _ i; decide)),
    h.rd (rows_not (by apply every_index _ i; decide)), h.rd (rows_not (by apply every_index _ i; decide)), h.rd (rows_not (by apply every_index _ i; decide))⟩

theorem queueCfg_completes {s : State} {i : Fin 32} {p : Path} (hr : s.dev.reaches p 0x20000 = true) (w : Word) (h : bits w.toNat 19 0 ≤ 524288) :
    (bits w.toNat 31 31 = s.dev.rd (LQN_CFG_CONSUMER i.val) ∨ (p = .pilot ∧ (s.dev.q i.val).mid = false) → Completes (.queueCfgWrite p i w) s fun d =>
      d.rd (LQN_CFG_CONSUMER i.val) = bits w.toNat 31 31 ∧ d.rd (LQN_CFG_THRESH i.val) = bits w.toNat 19 0 ∧
      d.rd (LQN_CFG_IE_NONEMPTY i.val) = bits w.toNat 24 24 ∧ d.rd (LQN_CFG_IE_THRESH i.val) = bits w.toNat 25 25 ∧
      d.rd (LQN_CFG_IE_GAP i.val) = bits w.toNat 26 26 ∧ d.rd (LQN_CFG_IE_MARK_LOST i.val) = bits w.toNat 27 27 ∧ d.mem = s.dev.mem) ∧
    (bits w.toNat 31 31 ≠ s.dev.rd (LQN_CFG_CONSUMER i.val) → p ≠ .pilot ∨ (s.dev.q i.val).mid = true → Completes (.queueCfgWrite p i w) s fun d =>
      d.rd (ERR_LOCKED 0x20000) = 1 ∧ d.rd (LQN_CFG_CONSUMER i.val) = s.dev.rd (LQN_CFG_CONSUMER i.val) ∧ d.mem = s.dev.mem) := by
  have hmem : (queueCfgWriteCmd p i.val w (s.dev.accessed p)).mem = s.dev.mem :=
    ((queueCfgWriteCmd_after (Changes.refl _ _ (s.dev.accessed p)) (within_refl _) (covers_refl _) p i.val w).parts .mem (by decide)).trans (Dev.accessed_mem s.dev p)
  refine ⟨fun hc => Completes.ofPort (queueCfgWriteCmd p i.val w) rfl hr ?_, fun hc hp => Completes.ofPort (queueCfgWriteCmd p i.val w) rfl hr ?_⟩
  · rw [queueCfg_takes h (by rw [accessed_rd, accessed_q]; exact hc)] at hmem ⊢
    obtain ⟨r1, r2, r3, r4, r5, r6⟩ := refuseStalled_cfg i ((s.dev.accessed p).configured i.val w.toNat)
    obtain ⟨c1, c2, c3, c4, c5, c6⟩ := configured_rd i w.toNat (s.dev.accessed p)
    exact ⟨r1.trans c1, r2.trans c2, r3.trans c3, r4.trans c4, r5.trans c5, r6.trans c6, hmem⟩
  · rw [queueCfg_locked h (by rw [accessed_rd]; exact hc) (by rw [accessed_q]; exact hp)] at hmem ⊢
    refine ⟨((s.dev.accessed p).accessError_flags 0x20000 p true _ _).2.1 rfl, ?_, hmem⟩
    exact (((s.dev.accessed p).accessError_changes 0x20000 p true _ _).rd (rows_not (by apply every_index _ i; decide))).trans (accessed_rd s.dev p _)

/-- Settles O38: pushes, the consumer commands, and LQn_CFG. -/
theorem queueCommands : Obligations.QueueCommands := by
  rintro s i p hr q rfl
  exact ⟨fun w hp hs ha => push_completes hr w hp hs ha, fun w hp => push_locked hr w hp,
    fun hs hc => ⟨fun e rest hm hw hg => dropRest_drops hr hs hc hm hw hg, fun hm => dropRest_idle hr hs hc hm, fun hg => mark_marks hr hs hc hg,
      fun hm hmid hst => rewind_replays hr hs hc hm hmid hst, fun hm => rewind_refused hr hs hc hm, fun h hg => clearMark_clears hr hs hc h hg,
      fun h hl => clearMark_idle hr hs hc h hl⟩,
    fun hs hc hst => flush_flushes hr hs hc hst, fun hc => consumer_refused hr hc, fun w h => queueCfg_completes hr w h⟩

end Sys2Proof.Machine
end

section
/-!
GPIO edges and Pilot's interrupts (20_signals.md, 13_registry_services.md R329).
-/

namespace Sys2Proof.Machine

/-! Edges (R463). -/

/-- The ball's new level, and the edge's PEND bit where it is enabled. -/
def Dev.edged (d : Dev) (m : Nat) (rising : Bool) : Dev :=
  { d with gpio := if rising then Machine.setBit d.gpio m else Machine.clearBit d.gpio m }

theorem gpioEdge_run {m : Nat} {rising : Bool} {d : Dev} (hs : d.power.step ≠ .off) (hd : d.gpioDriven m = none) (hb : bit d.gpio m ≠ rising) :
    gpioEdge m rising d =
      if d.coreRuns && d.bitOn (if rising then GC_GPIO_RISE_EN else GC_GPIO_FALL_EN) m then (d.edged m rising).setBit GC_GPIO_PEND_PEND m else d.edged m rising := by
  have hne : (bit d.gpio m == rising) = false := by simpa using hb
  unfold gpioEdge
  dsimp only
  rw [hd]
  dsimp only
  rw [hne, decide_eq_false hs, if_neg (by decide)]
  rfl

/-- What an edge leaves of PEND. -/
theorem gpioEdge_eff {m : Fin 32} {rising : Bool} {d : Dev} (hs : d.power.step ≠ .off) (hd : d.gpioDriven m.val = none) (hb : bit d.gpio m.val ≠ rising) :
    (gpioEdge m.val rising d).gpio = (if rising then Machine.setBit d.gpio m.val else Machine.clearBit d.gpio m.val) ∧
    (∀ k, k < 32 → (gpioEdge m.val rising d).bitOn GC_GPIO_PEND_PEND k = (d.bitOn GC_GPIO_PEND_PEND k ||
      (decide (m.val = k) && (d.coreRuns && d.bitOn (if rising then GC_GPIO_RISE_EN else GC_GPIO_FALL_EN) m.val)))) ∧
    (gpioEdge m.val rising d).power = d.power ∧ (gpioEdge m.val rising d).mem = d.mem ∧
    (∀ f : Fld, f.bit ≠ GC_GPIO_PEND_PEND.bit → (gpioEdge m.val rising d).rd f = d.rd f) := by
  have hon : ∀ k, (d.edged m.val rising).bitOn GC_GPIO_PEND_PEND k = d.bitOn GC_GPIO_PEND_PEND k := fun _ => rfl
  rw [gpioEdge_run hs hd hb]
  cases d.coreRuns && d.bitOn (if rising then GC_GPIO_RISE_EN else GC_GPIO_FALL_EN) m.val with
  | true =>
    rw [if_pos rfl]
    refine ⟨rfl, fun k hk => ?_, rfl, rfl, fun f hf => Dev.rd_setBit_ne _ _ hf⟩
    rw [Dev.bitOn_setBit _ GC_GPIO_PEND_PEND _ _ hk, hon, Bool.and_true, Bool.or_comm]
  | false =>
    rw [if_neg (by decide)]
    refine ⟨rfl, fun k _ => ?_, rfl, rfl, fun f _ => rfl⟩
    rw [hon, Bool.and_false, Bool.or_false]

theorem gpioEdge_still {m : Nat} {rising : Bool} {d : Dev} (h : bit d.gpio m = rising) : gpioEdge m rising d = d := by
  unfold gpioEdge
  dsimp only
  rw [h, beq_self_eq_true, Bool.true_or, Bool.true_or, if_pos rfl]

theorem edges (s : State) (m : Fin 32) (rising : Bool) :
    (s.dev.power.step ≠ .off → s.dev.gpioDriven m.val = none → bit s.dev.gpio m.val ≠ rising → Completes (.gpioEdge m rising) s fun d =>
      d.gpio = (if rising then Machine.setBit s.dev.gpio m.val else clearBit s.dev.gpio m.val) ∧
      d.bitOn GC_GPIO_PEND_PEND m.val = (s.dev.bitOn GC_GPIO_PEND_PEND m.val ||
        (s.dev.coreRuns && s.dev.bitOn (if rising then GC_GPIO_RISE_EN else GC_GPIO_FALL_EN) m.val)) ∧
      (∀ k, k < 32 → k ≠ m.val → d.bitOn GC_GPIO_PEND_PEND k = s.dev.bitOn GC_GPIO_PEND_PEND k) ∧ d.mem = s.dev.mem) ∧
    (bit s.dev.gpio m.val = rising → Completes (.gpioEdge m rising) s fun d => d = { s.dev with out := [] }) := by
  refine ⟨fun hs hd hb => Completes.effect (gpioEdge m.val rising) rfl ?_, fun h => Completes.effect (gpioEdge m.val rising) rfl (gpioEdge_still (d := s.dev.begun) h)⟩
  obtain ⟨h1, h2, -, h4, -⟩ := gpioEdge_eff (d := s.dev.begun) hs hd hb
  refine ⟨h1, ?_, fun k hk hne => ?_, h4⟩
  · rw [h2 m.val m.isLt, decide_eq_true rfl, Bool.true_and]
    rfl
  · rw [h2 k hk, decide_eq_false (fun x => hne x.symm), Bool.false_and, Bool.or_false]
    rfl

/-! Interrupts (R329). -/

/-- The claim of a context keeps the source of the highest priority, the lowest number among equals. -/
def claimStep (best src : Nat) : Nat := if best = 0 || irqPriority best < irqPriority src then src else best

theorem claim_best (xs : List Nat) (b : Nat) (hb : b ≠ 0) (h : (b :: xs).Pairwise (· < ·)) :
    xs.foldl claimStep b ∈ b :: xs ∧ ∀ x ∈ b :: xs, irqPriority x ≤ irqPriority (xs.foldl claimStep b) ∧
      (irqPriority x = irqPriority (xs.foldl claimStep b) → xs.foldl claimStep b ≤ x) := by
  induction xs generalizing b with
  | nil =>
    refine ⟨List.mem_cons_self, fun x hx => ?_⟩
    rw [List.mem_singleton.mp hx]
    exact ⟨Nat.le_refl _, fun _ => Nat.le_refl _⟩
  | cons y ys ih =>
    obtain ⟨hby, hys⟩ := List.pairwise_cons.mp h
    have hlt : b < y := hby y List.mem_cons_self
    rw [List.foldl_cons]
    by_cases hp : irqPriority b < irqPriority y
    · have hstep : claimStep b y = y := by
        unfold claimStep
        rw [decide_eq_true hp, Bool.or_true, if_pos rfl]
      rw [hstep]
      obtain ⟨hm, hall⟩ := ih y (by omega) hys
      refine ⟨List.mem_cons_of_mem _ hm, fun x hx => ?_⟩
      rcases List.mem_cons.mp hx with rfl | hx
      · have := (hall y List.mem_cons_self).1
        exact ⟨by omega, fun e => by omega⟩
      · exact hall x hx
    · have hstep : claimStep b y = b := by
        unfold claimStep
        rw [decide_eq_false hp, Bool.or_false, decide_eq_false hb, if_neg (by decide)]
      rw [hstep]
      have hb' : (b :: ys).Pairwise (· < ·) :=
        List.pairwise_cons.mpr ⟨fun z hz => hby z (List.mem_cons_of_mem _ hz), (List.pairwise_cons.mp hys).2⟩
      obtain ⟨hm, hall⟩ := ih b hb hb'
      refine ⟨?_, fun x hx => ?_⟩
      · rcases List.mem_cons.mp hm with hm | hm
        · rw [hm]
          exact List.mem_cons_self
        · exact List.mem_cons_of_mem _ (List.mem_cons_of_mem _ hm)
      · rcases List.mem_cons.mp hx with rfl | hx
        · exact hall x List.mem_cons_self
        · rcases List.mem_cons.mp hx with rfl | hx
          · obtain ⟨h1, h2⟩ := hall b List.mem_cons_self
            exact ⟨by omega, fun e => by have := h2 (by omega); omega⟩
          · exact hall x (List.mem_cons_of_mem _ hx)

/-- Pending sources come in the order of their numbers, from 1. -/
theorem irqPending_sorted (d : Dev) (c : IrqCtx) : (d.irqPending c).Pairwise (· < ·) ∧ ∀ x ∈ d.irqPending c, x ≠ 0 := by
  unfold Dev.irqPending
  split
  · refine ⟨(List.pairwise_map.mpr ?_).filter _, fun x hx => ?_⟩
    · exact List.pairwise_lt_range.imp fun h => Nat.add_lt_add_right h 1
    · obtain ⟨y, -, rfl⟩ := List.mem_map.mp (List.mem_filter.mp hx).1
      omega
  · exact ⟨List.Pairwise.nil, fun x hx => absurd hx List.not_mem_nil⟩

theorem irqClaim_eq (d : Dev) (c : IrqCtx) : d.irqClaim c = (d.irqPending c).foldl claimStep 0 := rfl

/-- A claim answers the pending source of the highest priority (R329). -/
theorem irqClaim_best (d : Dev) (c : IrqCtx) :
    (d.irqPending c = [] → d.irqClaim c = 0) ∧
    (d.irqPending c ≠ [] → d.irqClaim c ∈ d.irqPending c ∧ ∀ src ∈ d.irqPending c, irqPriority src ≤ irqPriority (d.irqClaim c) ∧
      (irqPriority src = irqPriority (d.irqClaim c) → d.irqClaim c ≤ src)) := by
  obtain ⟨hs, h0⟩ := irqPending_sorted d c
  rw [irqClaim_eq]
  cases hp : d.irqPending c with
  | nil => exact ⟨fun _ => rfl, fun x => absurd rfl x⟩
  | cons y ys =>
    rw [hp] at hs h0
    exact ⟨fun x => absurd x (List.cons_ne_nil _ _), fun _ => claim_best ys y (h0 y List.mem_cons_self) hs⟩

theorem irqLevel_queue (d : Dev) (i : Fin 32) : d.irqLevel (i.val + 1) = (!d.on (LQN_CFG_CONSUMER i.val) && d.qIrq i.val) := by
  unfold Dev.irqLevel
  rw [decide_eq_true (by omega : 1 ≤ i.val + 1), decide_eq_true (by omega : i.val + 1 ≤ 32), Bool.and_self, if_pos rfl, Nat.add_sub_cancel]
  rfl

theorem irqLevel_gpio (d : Dev) (m : Fin 32) : d.irqLevel (71 + m.val) = d.bitOn GC_GPIO_PEND_PEND m.val := by
  unfold Dev.irqLevel
  rw [decide_eq_false (by omega : ¬ 71 + m.val ≤ 32), Bool.and_false, if_neg (by decide), decide_eq_true (by omega : 71 ≤ 71 + m.val),
    decide_eq_true (by omega : 71 + m.val ≤ 102), Bool.and_self, if_pos rfl, Nat.add_sub_cancel_left]

/-- A source whose origin raises it is pending at its own context. -/
theorem irqPending_of {d : Dev} {src : Nat} (hc : d.coreRuns = true) (h1 : 1 ≤ src) (h2 : src ≤ 102) (hp : irqPriority src ≠ 0) (hl : d.irqLevel src = true) :
    src ∈ d.irqPending (d.irqContext src) := by
  unfold Dev.irqPending
  rw [if_pos hc]
  refine List.mem_filter.mpr ⟨List.mem_map.mpr ⟨src - 1, List.mem_range.mpr (by omega), by omega⟩, ?_⟩
  rw [hl, bne_iff_ne.mpr hp, Bool.and_true, Bool.and_true]
  exact beq_self_eq_true _

theorem interrupts (s : State) :
    (∀ i : Fin 32, s.dev.irqLevel (i.val + 1) = (!s.dev.on (LQN_CFG_CONSUMER i.val) && s.dev.qIrq i.val)) ∧
    s.dev.irqLevel 33 = s.dev.on PW_STATUS_PFAIL ∧ irqPriority 33 = 7 ∧ s.dev.irqContext 33 = { core := 0, supervisor := false } ∧
    (s.dev.serviceRecord 4 = none → ∀ src, s.dev.irqContext src = { core := 0, supervisor := false }) ∧
    (∀ (m : Fin 32) (rising : Bool), s.dev.coreRuns = true → s.dev.gpioDriven m.val = none → bit s.dev.gpio m.val ≠ rising →
      s.dev.bitOn (if rising then GC_GPIO_RISE_EN else GC_GPIO_FALL_EN) m.val = true → Completes (.gpioEdge m rising) s fun d =>
        d.irqLevel (71 + m.val) = true ∧ (irqPriority (71 + m.val) ≠ 0 → 71 + m.val ∈ d.irqPending (d.irqContext (71 + m.val)))) ∧
    (∀ c : IrqCtx, (s.dev.irqPending c = [] → s.dev.irqClaim c = 0) ∧
      (s.dev.irqPending c ≠ [] → s.dev.irqClaim c ∈ s.dev.irqPending c ∧
        ∀ src ∈ s.dev.irqPending c, irqPriority src ≤ irqPriority (s.dev.irqClaim c) ∧
          (irqPriority src = irqPriority (s.dev.irqClaim c) → s.dev.irqClaim c ≤ src))) ∧
    (∀ n, (s.dev.elapse n).mtime = if s.dev.timerCounts then (s.dev.clk.deck + n) / 4 % 2 ^ 64 else s.dev.mtime) := by
  refine ⟨irqLevel_queue s.dev, rfl, rfl, rfl, fun h src => ?_, fun m rising hc hd hb hen => Completes.effect (gpioEdge m.val rising) rfl ?_,
    irqClaim_best s.dev, fun n => ?_⟩
  · unfold Dev.irqContext Dev.irqDelegated
    rw [h]
    by_cases h33 : src = 33
    · rw [if_pos h33]
    · rw [if_neg h33]
  · have hstep : s.dev.begun.power.step ≠ .off := by
      intro h
      unfold Dev.coreRuns at hc
      rw [show s.dev.power.step = .off from h] at hc
      exact absurd hc (by simp)
    obtain ⟨-, h2, h3, -, h5⟩ := gpioEdge_eff (d := s.dev.begun) (m := m) hstep hd hb
    have hbit : (gpioEdge m.val rising s.dev.begun).bitOn GC_GPIO_PEND_PEND m.val = true := by
      rw [h2 m.val m.isLt, decide_eq_true rfl, Bool.true_and, show s.dev.begun.coreRuns = true from hc,
        show s.dev.begun.bitOn (if rising then GC_GPIO_RISE_EN else GC_GPIO_FALL_EN) m.val = true from hen]
      exact Bool.or_true _
    have hruns : (gpioEdge m.val rising s.dev.begun).coreRuns = true :=
      (coreRuns_of h3 (h5 PW_STATE_CUR (by decide)) (h5 GC_STATUS_PLLA_LOCK (by decide))).trans hc
    generalize gpioEdge m.val rising s.dev.begun = y at hbit hruns ⊢
    have hl := (irqLevel_gpio y m).trans hbit
    exact ⟨hl, fun hp => irqPending_of hruns (by omega) (by omega) hp hl⟩
  · unfold Dev.elapse Dev.mtime
    dsimp only
    cases s.dev.wdogCounts <;> cases s.dev.timerCounts <;> rfl

/-- Settles O50: the edges, and the interrupts. -/
theorem gpioEdges : Obligations.GpioEdges := ⟨edges, interrupts⟩

end Sys2Proof.Machine
end

section
/-!
The queue of commands, reset, and the passage of time (01_architecture.md, 03_power_clocks_resets.md).
-/

namespace Sys2Proof.Machine

/-- Settles O1: the queue that `step` takes apart is the command in front of the queue's rest. -/
theorem stepRunsTheFrontCommand : Obligations.StepRunsTheFrontCommand := by
  intro c s
  rfl

/-- The Deck clocks that one step with an empty queue counts. -/
def Dev.tickClocks (d : Dev) : Nat := if d.on TC_STATUS_XTAL_MODE then 15 else 1

theorem tick_stopped {d : Dev} (h : d.power.step = .off ∨ d.power.hold = some .cold) : d.tick = d := by
  unfold Dev.tick
  rw [if_pos (by simpa using h)]

theorem tick_runs {d : Dev} (hs : d.power.step ≠ .off) (hh : d.power.hold ≠ some .cold) : d.tick = d.elapse d.tickClocks := by
  unfold Dev.tick
  rw [if_neg (by simp [hs, hh])]
  rfl

theorem elapse_deck (d : Dev) (n : Nat) : (d.elapse n).clk.deck = if d.timerCounts then d.clk.deck + n else d.clk.deck := by
  unfold Dev.elapse
  cases d.wdogCounts <;> rfl

theorem elapse_paused {d : Dev} (h : d.wdogCounts = false) (n : Nat) : (d.elapse n).clk.wdog = d.clk.wdog ∧ (d.elapse n).regs = d.regs := by
  unfold Dev.elapse
  rw [h]
  exact ⟨rfl, rfl⟩

theorem elapse_counts {d : Dev} (h : d.wdogCounts = true) (n : Nat) :
    (d.elapse n).clk.wdog = (d.clk.wdog + n) % 406800 ∧
    (d.elapse n).rd FD_WDOG_STATUS_ELAPSED = min (d.rd FD_WDOG_STATUS_ELAPSED + (d.clk.wdog + n) / 406800) 65535 := by
  unfold Dev.elapse
  rw [h]
  exact ⟨rfl, rd_countSat_same _ _ _⟩

theorem tickClocks_le (d : Dev) : d.tickClocks ≤ 15 := by
  unfold Dev.tickClocks
  split <;> decide

/-- Below the saturation of ELAPSED, the watchdog's two counters are one counter of Deck clocks. -/
theorem elapse_watchdog {d : Dev} {n : Nat} (h : d.wdogCounts = true) (hw : d.clk.wdog < 406800) (he : d.rd FD_WDOG_STATUS_ELAPSED < 65535)
    (hn : n ≤ 15) : (d.elapse n).clk.wdog < 406800 ∧ (d.elapse n).rd FD_WDOG_STATUS_ELAPSED * 406800 + (d.elapse n).clk.wdog =
      d.rd FD_WDOG_STATUS_ELAPSED * 406800 + d.clk.wdog + n := by
  obtain ⟨sub, ms⟩ := elapse_counts h n
  rw [sub, ms]
  omega

/-- With nothing released from its stall, no burst goes on. -/
theorem burstsGoOn_still {d : Dev} (h : d.Quiet) : burstsGoOn d = d := by
  refine each_still _ _ d fun i hi => if_pos ?_
  rw [h ⟨i, List.mem_range.1 hi⟩]
  rfl

/-- Settles O2: one step with an empty queue is `burstsGoOn`, then `Dev.tick`. -/
theorem emptyQueueCountsTime : Obligations.EmptyQueueCountsTime := by
  intro s hp
  refine ⟨burstsGoOn s.dev, burstsGoOn_still, (burstsGoOn_after (Changes.refl _ _ s.dev) (within_refl _) (covers_refl _)).keeps, ?_, ?_⟩
  · intro h
    rw [step_idle hp, tick_stopped h]
  · intro hs hh
    rw [step_idle hp]
    generalize burstsGoOn s.dev = e at hs hh
    have ticks : e.tick = e.elapse e.tickClocks := tick_runs hs hh
    refine ⟨{ s with dev := e.tick }, rfl, hp, ?_, ?_, ?_, ?_, ?_, (Dev.tick_after (Changes.refl _ _ e) (within_refl _) (covers_refl _)).keeps⟩
    · show e.tick.time = e.time + e.tickClocks * e.rd TC_INC_INC
      rw [ticks, elapse_time]
    · intro h
      rw [ticks]
      exact elapse_paused h _
    · intro h hw he
      rw [ticks]
      exact elapse_watchdog h hw he (tickClocks_le e)
    · intro hx hold
      have one : e.tickClocks = 1 := if_neg (by rw [hx]; decide)
      have counts : e.timerCounts = true := by simp [Dev.timerCounts, hx, hold]
      rw [ticks, elapse_deck, if_pos counts, one]
    · intro h
      have stops : e.timerCounts = false := by
        rcases h with h | h
        · simp [Dev.timerCounts, h]
        · simp [Dev.timerCounts, Option.isSome_iff_ne_none, h]
      rw [ticks, elapse_deck, if_neg (by rw [stops]; decide)]

/-- Settles O3, by evaluation of the reset state. -/
theorem resetValues : Obligations.ResetValues := by
  unfold Obligations.ResetValues
  decide +kernel

/-- Settles O4: no byte and no register field is listed. -/
theorem resetIsCanonical : Obligations.ResetIsCanonical := ⟨rfl, rfl, rfl⟩

end Sys2Proof.Machine
end

section
/-!
Fatal errors, the handler's records and its end, the watchdog and the errors of memory (19_faults_identity.md).
-/

namespace Sys2Proof.Machine

/-! A reset while the part is up and no reset holds (R66 to R68). -/

theorem up_of_coreRuns {d : Dev} (h : d.coreRuns = true) : d.power.step = .up ∧ d.power.hold = none := by
  simp only [Dev.coreRuns, Bool.and_eq_true, beq_iff_eq, Option.isNone_iff_eq_none] at h
  exact ⟨h.1.1.1.1, h.1.1.1.2⟩

/-- The power-fail source starts and ends no handler. -/
theorem settlePfail_handling (d : Dev) : (settlePfail d).fd.handling = d.fd.handling := by
  have aborted : ∀ e : Dev, (abortSurvey e).fd.handling = e.fd.handling := fun e => by
    have k := (abortSurvey_after (Changes.refl _ _ e) (within_refl _) (covers_refl _)).parts .fd (by decide)
    exact congrArg FdSt.handling k
  have drained : ∀ (n : Nat) (e : Dev), (drain n (reconcileNext n e)).fd = e.fd := fun n e =>
    Eq.trans ((drain_after (Changes.refl _ _ _) (within_refl _) (covers_refl _) n).parts .fd (by decide))
      ((reconcileNext_after (Changes.refl _ _ e) (within_refl _) (covers_refl _) n).parts .fd (by decide))
  unfold settlePfail
  dsimp only
  split
  · rfl
  · split
    · split
      · exact aborted _
      · rfl
    · generalize hx : Dev.raiseIf _ _ _ = x
      have hf : x.fd = d.fd := by
        subst hx
        cases d.power.fence <;> rfl
      have settled : (settleServices x).fd = x.fd := (settleServices_after (Changes.refl _ _ x) (within_refl _) (covers_refl _)).parts .fd (by decide)
      rw [← hf, ← settled]
      split
      · exact each_keeps (fun e => e.fd.handling) (upTo 24) _ (fun n e => congrArg FdSt.handling (drained n e)) _
      · rfl

theorem dropPen_handling (k : Nat) (d : Dev) : (dropPen k d).fd.handling = d.fd.handling := by
  have down : (d.penDown k).fd = d.fd := (Dev.penDown_after (Changes.refl _ _ d) (within_refl _) (covers_refl _) k).parts .fd (by decide)
  unfold dropPen
  dsimp only
  rw [← down]
  split
  · rfl
  · split
    · exact settlePfail_handling _
    · rfl

theorem startDrops_handling (ks : List Nat) (d : Dev) : (startDrops ks .nothing d).fd.handling = d.fd.handling := by
  have done : ∀ e : Dev, e.power.after = .nothing → dropsDone e = e := fun e h => by
    unfold dropsDone
    rw [h]
  unfold startDrops
  dsimp only
  split
  · rw [done _ rfl]
    rfl
  next k r _ =>
    obtain ⟨x, v, p, q, w, hp⟩ := dropPen_power k (d.modPower fun p => { p with after := .nothing, asserts := [] })
    rw [done _ (by rw [Dev.modPower_power, hp]; rfl), ite_self]
    exact dropPen_handling k _

theorem resetHold_handling (c : ResetClass) (keep : Bool) (old : Option ResetClass) (d : Dev) :
    (resetHold c keep old d).fd.handling = d.fd.handling := by
  unfold resetHold
  dsimp only
  generalize hx : Dev.modPower _ _ = x
  have hf : x.fd = d.fd := by subst hx; rfl
  have drops := startDrops_handling [5, 4] x
  have next : (powerUpNext (startDrops [5, 4] .nothing x)).fd = (startDrops [5, 4] .nothing x).fd :=
    (powerUpNext_after (Changes.refl _ _ _) (within_refl _) (covers_refl _)).parts .fd (by decide)
  rw [← hf]
  split
  · rfl
  · split
    · split
      · rw [next]
        exact drops
      · exact drops
    · exact drops

/-- What a WDOG reset does to the part where none holds (R52, R66 to R68). -/
theorem startReset_wdog {d : Dev} (hr : d.coreRuns = true) : ∃ x : Dev, startReset .wdog false 0 d = resetHold .wdog d.power.dram none x ∧
    x = if d.power.dram then coreReset false (recordReset .wdog 0 d) else dramLost (coreReset false (recordReset .wdog 0 d)) := by
  obtain ⟨up, free⟩ := up_of_coreRuns hr
  obtain ⟨-, -, hp⟩ := recordReset_fresh .wdog 0 d free (by decide)
  refine ⟨_, ?_, rfl⟩
  unfold startReset
  rw [if_neg (by rw [up]; decide), free]
  simp only [Bool.not_true, Bool.false_eq_true, if_false, hp, ne_eq, reduceCtorEq, not_false_eq_true, decide_true, Bool.true_and]

/-- What FD_FATAL and its like read after a WDOG reset: an AON field that the reset does not record (R68). -/
theorem startReset_wdog_rd {d : Dev} (hr : d.coreRuns = true) {f : Fld} (hk : keptField false f.bit = true)
    (hn : ([65692, 65695, 98576, 98591, GC_STATUS_PLLA_LOCK.bit, GC_STATUS_PLLD_LOCK.bit, PW_WK_STATUS_RUN.bit, TC_STATUS_XTAL_MODE.bit] : List Nat).all (· != f.bit) = true)
    (hh : ∀ (keep : Bool) (x : Dev), (resetHold .wdog keep none x).rd f = x.rd f) :
    (startReset .wdog false 0 d).rd f = (recordReset .wdog 0 d).rd f := by
  obtain ⟨x, e, hx⟩ := startReset_wdog hr
  have kept := coreReset_kept false (recordReset .wdog 0 d) f hk hn
  have hd : x.rd f = (coreReset false (recordReset .wdog 0 d)).rd f := by
    rw [hx]
    cases d.power.dram <;> rfl
  rw [e, hh, hd, kept]

theorem startReset_wdog_handling {d : Dev} (hr : d.coreRuns = true) : (startReset .wdog false 0 d).fd.handling = false := by
  obtain ⟨x, e, hx⟩ := startReset_wdog hr
  have hf : x.fd.handling = false := by
    rw [hx]
    cases d.power.dram <;> rfl
  rw [e, resetHold_handling, hf]

theorem recordReset_fatal {d : Dev} (hh : d.power.hold = none) : (recordReset .wdog 0 d).rd FD_CAUSE_FATAL = 0 := by
  unfold recordReset
  simp only [hh, Option.isNone_none, Bool.true_or, if_true]
  split <;> simp (disch := decide) [Dev.rd_wr_ne, Dev.rd_setBit_ne, Dev.rd_countSat_ne, Dev.rd_lower_ne]

/-- A WDOG reset where none holds: it takes hold with its class and no fatal error of its own, and ends the handler. -/
theorem startReset_wdog_eff {d : Dev} (hr : d.coreRuns = true) : (startReset .wdog false 0 d).power.hold = some .wdog ∧
    (startReset .wdog false 0 d).rd FD_CAUSE_CLASS = 4 ∧ (startReset .wdog false 0 d).rd FD_CAUSE_FATAL = 0 ∧
    (startReset .wdog false 0 d).fd.handling = false := by
  obtain ⟨up, free⟩ := up_of_coreRuns hr
  obtain ⟨hold, -, -, -, cls, -⟩ := startReset_eff .wdog false 0 d (by rw [up]; decide) free (by decide)
  have cause := startReset_wdog_rd hr (f := FD_CAUSE_FATAL) (by decide +kernel) (by decide)
    fun keep x => (resetHold_after (Changes.refl _ _ x) (within_refl _) (covers_refl _) .wdog keep none).rd (rows_not (by decide))
  exact ⟨hold, cls, cause.trans (recordReset_fatal free), startReset_wdog_handling hr⟩

/-- The handler's end where no reset holds: its WDOG reset is fatal (R440). -/
theorem handlerReset_eff {d : Dev} (hr : d.coreRuns = true) : (handlerReset d).power.hold = some .wdog ∧ (handlerReset d).rd FD_CAUSE_CLASS = 4 ∧
    (handlerReset d).rd FD_CAUSE_FATAL = 1 ∧ (handlerReset d).fd.handling = false := by
  obtain ⟨hold, cls, -, ended⟩ := startReset_wdog_eff hr
  unfold handlerReset
  dsimp only
  generalize startReset .wdog false 0 d = e at hold cls ended
  rw [Dev.raiseIf, if_pos (by simpa using cls)]
  exact ⟨hold, (Dev.rd_raise_ne _ (by decide)).trans cls, Dev.rd_raise_same _ _, ended⟩

theorem handlerReset_rd {d : Dev} (hr : d.coreRuns = true) {f : Fld} (hk : keptField false f.bit = true)
    (hn : ([65692, 65695, 98576, 98591, GC_STATUS_PLLA_LOCK.bit, GC_STATUS_PLLD_LOCK.bit, PW_WK_STATUS_RUN.bit, TC_STATUS_XTAL_MODE.bit] : List Nat).all (· != f.bit) = true)
    (hh : ∀ (keep : Bool) (x : Dev), (resetHold .wdog keep none x).rd f = x.rd f) (hc : f.bit ≠ FD_CAUSE_FATAL.bit)
    (hw : (recordReset .wdog 0 d).rd f = d.rd f) : (handlerReset d).rd f = d.rd f :=
  (Dev.rd_raiseIf_ne _ _ hc).trans ((startReset_wdog_rd hr hk hn hh).trans hw)

/-! Fatal errors (R439 to R441). -/

/-- FD_FATAL after an error from source `src` is loaded. -/
theorem loadFatal_loads {src : Nat} (h1 : 0 < src) (h4 : src ≤ 4) (d : Dev) :
    (loadFatal src d).rd FD_FATAL_SOURCE = src ∧ (loadFatal src d).rd FD_FATAL_BITS = 2 ^ (src - 1) ∧
    (loadFatal src d).rd FD_FATAL_COUNT = min (d.rd FD_FATAL_COUNT + 1) 255 ∧ (loadFatal src d).rd FD_HIST_FATAL_SEEN = 1 := by
  have bits : 2 ^ (src - 1) < 16 := by
    have hp : 2 ^ (src - 1) ≤ 2 ^ 3 := Nat.pow_le_pow_right (by decide) (by omega)
    omega
  unfold loadFatal
  refine ⟨?_, ?_, ?_, Dev.rd_raise_same _ _⟩
  · rw [Dev.rd_raise_ne _ (by decide), Dev.rd_wr_same]
    exact Nat.mod_eq_of_lt (show src < 16 by omega)
  · rw [Dev.rd_raise_ne _ (by decide), Dev.rd_wr_ne _ _ (by decide), Dev.rd_wr_same]
    exact Nat.mod_eq_of_lt bits
  · simp (disch := decide) only [Dev.rd_raise_ne, Dev.rd_wr_ne, Dev.rd_lower_ne, Dev.rd_flag_ne]
    exact rd_countSat_same _ _ _

theorem loadFatal_rd (src : Nat) (d : Dev) {f : Fld}
    (h : ([FD_FATAL_COUNT, FD_FATAL_BARE, FD_FATAL_DRAM_OK, FD_FATAL_SLOT_OK, FD_FATAL_TIMEOUT, FD_FATAL_NESTED, FD_FATAL_BITS, FD_FATAL_SOURCE,
      FD_HIST_FATAL_SEEN] : List Fld).all (f.bit != ·.bit) = true) : (loadFatal src d).rd f = d.rd f := by
  simp only [List.all_cons, List.all_nil, Bool.and_true, Bool.and_eq_true, bne_iff_ne] at h
  obtain ⟨h1, h2, h3, h4, h5, h6, h7, h8, h9⟩ := h
  unfold loadFatal
  rw [Dev.rd_raise_ne _ h9, Dev.rd_wr_ne _ _ h8, Dev.rd_wr_ne _ _ h7, Dev.rd_lower_ne _ h6, Dev.rd_lower_ne _ h5, Dev.rd_lower_ne _ h4,
    Dev.rd_lower_ne _ h3, Dev.rd_flag_ne _ _ h2, Dev.rd_countSat_ne _ _ h1]

/-- The first fatal error starts the handler. -/
theorem fatal_first (src hart : Nat) (detail : List Byte) {d : Dev} (h : d.fd.handling = false) : ∃ fd : FdSt,
    fatal src hart detail d = { loadFatal src d with fd := fd } ∧ fd.handling = true ∧ fd.hart = hart ∧ fd.detail = detail ∧
    fd.slot = d.rd FD_CRASH_NEXT ∧ fd.seq = (d.rd FD_CRASH_SEQ_SEQ + 1) % 2 ^ 32 := by
  unfold fatal
  rw [h, if_neg (by decide)]
  exact ⟨_, rfl, rfl, rfl, rfl, loadFatal_rd src d (by decide), congrArg (fun x => (x + 1) % 2 ^ 32) (loadFatal_rd src d (by decide))⟩

/-- What the first fatal error leaves, from source `src`. -/
theorem fatal_starts {src : Nat} (h1 : 0 < src) (h4 : src ≤ 4) (hart : Nat) (detail : List Byte) {d : Dev} (h : d.fd.handling = false) :
    (fatal src hart detail d).rd FD_FATAL_SOURCE = src ∧ (fatal src hart detail d).rd FD_FATAL_BITS = 2 ^ (src - 1) ∧
    (fatal src hart detail d).rd FD_FATAL_COUNT = min (d.rd FD_FATAL_COUNT + 1) 255 ∧ (fatal src hart detail d).rd FD_HIST_FATAL_SEEN = 1 ∧
    (fatal src hart detail d).fd.handling = true ∧ (fatal src hart detail d).fd.hart = hart ∧
    (fatal src hart detail d).fd.slot = d.rd FD_CRASH_NEXT ∧ (fatal src hart detail d).fd.seq = (d.rd FD_CRASH_SEQ_SEQ + 1) % 2 ^ 32 ∧
    (fatal src hart detail d).fd.detail = detail ∧ (fatal src hart detail d).mem = d.mem := by
  obtain ⟨fd, e, hh, ha, hd, hs, hq⟩ := fatal_first src hart detail h
  obtain ⟨f1, f2, f3, f4⟩ := loadFatal_loads h1 h4 d
  rw [e]
  exact ⟨f1, f2, f3, f4, hh, ha, hs, hq, hd, rfl⟩

/-- A later fatal error ends the handler (R441). -/
theorem fatal_nested (src hart : Nat) (detail : List Byte) {d : Dev} (h : d.fd.handling = true) (ht : d.time ≠ d.fd.entry) :
    fatal src hart detail d = handlerReset (d.raise FD_FATAL_NESTED) := by
  unfold fatal
  rw [if_pos h, if_neg ht]

/-- A further source of the Deck clock of the error (R440). -/
theorem fatal_joins {src : Nat} (h1 : 0 < src) (h4 : src ≤ 4) (hart : Nat) (detail : List Byte) {d : Dev} (h : d.fd.handling = true)
    (ht : d.time = d.fd.entry) :
    (fatal src hart detail d).rd FD_FATAL_SOURCE = (if src < d.rd FD_FATAL_SOURCE then src else d.rd FD_FATAL_SOURCE) ∧
    (fatal src hart detail d).bitOn FD_FATAL_BITS (src - 1) = true ∧ (fatal src hart detail d).fd.handling = true ∧
    (src < d.rd FD_FATAL_SOURCE → (fatal src hart detail d).fd.hart = hart) ∧ (fatal src hart detail d).power = d.power ∧
    (fatal src hart detail d).mem = d.mem := by
  have set : (d.setBit FD_FATAL_BITS (src - 1)).bitOn FD_FATAL_BITS (src - 1) = true := by
    rw [Dev.bitOn_setBit _ _ _ _ (show src - 1 < 4 by omega)]
    simp
  unfold fatal
  rw [if_pos h, if_pos ht]
  dsimp only
  by_cases hl : src < d.rd FD_FATAL_SOURCE
  · rw [if_pos (decide_eq_true hl), if_pos hl]
    exact ⟨(Dev.rd_wr_same _ _ _).trans (Nat.mod_eq_of_lt (show src < 16 by omega)),
      (Dev.bitOn_of_rd (Dev.rd_wr_ne _ _ (by decide)) _).trans set, h, fun _ => rfl, rfl, rfl⟩
  · rw [if_neg (by simpa using hl), if_neg hl]
    exact ⟨Dev.rd_setBit_ne _ _ (by decide), set, h, fun x => absurd x hl, rfl, rfl⟩

theorem doubleTrap_runs {d : Dev} (h : d.coreRuns = true) (hart first second : Nat) :
    doubleTrap hart first second d = fatal 1 hart (leBytes 4 hart ++ leBytes 4 first ++ leBytes 4 second ++ leBytes 4 0) d := if_pos h

theorem deckParity_runs {d : Dev} {tile : Nat} (h : d.applied = true) (hf : d.rd (DK_TILE_FUNC tile) ≠ 0) : deckParity tile d =
    fatal 2 0xFF (leBytes 1 tile ++ leBytes 1 (d.rd (DK_TILE_FUNC tile)) ++ leBytes 1 (d.rd (DK_TILE_CHANNEL tile)) ++ zeros 13) d :=
  if_neg (by simp [h, hf])

theorem journalEcc_runs {d : Dev} {a : Nat} (seq : Nat) (h : d.coreRuns = true) (hp : d.boot.phase ≠ .recover) (ha : journalAddress a = true) :
    journalEcc a seq d = fatal 4 0xFF (leBytes 4 a ++ leBytes 4 0 ++ leBytes 8 seq) d := if_neg (by simp [h, hp, ha])

/-- The part as the watchdog's count reaches `ms`. -/
def Dev.atCount (d : Dev) (ms : Nat) : Dev := d.elapse (d.clocksToCount ms)

theorem atCount_fd (d : Dev) (ms : Nat) : (d.atCount ms).fd = d.fd :=
  (Dev.elapse_after (Changes.refl _ _ d) (within_refl _) (covers_refl _) _).parts .fd (by decide)

theorem atCount_mem (d : Dev) (ms : Nat) : (d.atCount ms).mem = d.mem :=
  (Dev.elapse_after (Changes.refl _ _ d) (within_refl _) (covers_refl _) _).parts .mem (by decide)

theorem atCount_rd (d : Dev) (ms : Nat) {f : Fld} (h : ¬ Rows [.one 98752] f.bit) : (d.atCount ms).rd f = d.rd f :=
  (Dev.elapse_after (Changes.refl _ _ d) (within_refl _) (covers_refl _) _).rd h

theorem atCount_power (d : Dev) (ms : Nat) : (d.atCount ms).power = d.power :=
  (Dev.elapse_after (Changes.refl _ _ d) (within_refl _) (covers_refl _) _).parts .power (by decide)

theorem wdogPre_runs {d : Dev} (hr : d.coreRuns = true) (hc : d.wdogCounts = true) (hf : d.fd.handling = false) : wdogPre d =
    fatal 3 0xFF (leBytes 4 ((d.atCount (d.rd FD_WDOG_CFG_TIMEOUT - d.rd FD_WDOG_CFG_PRE)).rd FD_WDOG_STATUS_ELAPSED) ++ zeros 12)
      (d.atCount (d.rd FD_WDOG_CFG_TIMEOUT - d.rd FD_WDOG_CFG_PRE)) := if_neg (by simp [hr, hc, hf])

/-! The records (R442 to R444). -/

theorem mramWrite_eff (off : Nat) (bs : List Byte) (d : Dev) : ∃ m : Memory, mramWrite off bs d = { d with mem := m } := by
  unfold mramWrite
  split
  · exact ⟨d.mem, rfl⟩
  · exact ⟨_, rfl⟩

theorem handlerBegins_handling {d : Dev} (h : d.fd.handling = true) : (handlerBegins d).fd.handling = true := by
  unfold handlerBegins
  split
  · exact h
  · dsimp only
    generalize hx : Dev.mk .. = x
    obtain ⟨m, e⟩ := mramWrite_eff (crashAt + 0x10000 * d.fd.slot + 0x7C) (leBytes 4 0) x
    rw [e]
    subst hx
    exact h

/-- The handler on its slot, with what it found of the harts and of the event log ring. -/
def Dev.slotReady (d : Dev) (harts : List (List Byte)) (ring : Nat) : Dev :=
  { handlerBegins d with fd := { (handlerBegins d).fd with harts := harts, ring := ring % 0x100000 } }

/-- The record of the crash slot that is committed. -/
def Dev.slotRecorded (d : Dev) : Dev :=
  mramWrite (crashAt + 0x10000 * d.fd.slot) (slotImage d.dumpSkipped d) { d with freeCtr := d.freeCtr + 96 }

theorem crashSlotWritten_runs (harts : List (List Byte)) (ring : Nat) {d : Dev} (hr : d.coreRuns = true) (h : d.fd.handling = true)
    (ho : d.on FD_FATAL_SLOT_OK = false) : crashSlotWritten harts ring d =
      ((((d.slotReady harts ring).slotRecorded.raise FD_FATAL_SLOT_OK).raise FD_CRASH_LAST_VALID).wr FD_CRASH_LAST
        (d.slotReady harts ring).slotRecorded.fd.slot).wr FD_CRASH_SEQ_SEQ (d.slotReady harts ring).slotRecorded.fd.seq :=
  if_neg (by simp [h, hr, ho])

/-- The crash slot's record stands, and says so (R443). -/
theorem crashSlotWritten_eff (harts : List (List Byte)) (ring : Nat) {d : Dev} (hr : d.coreRuns = true) (h : d.fd.handling = true)
    (ho : d.on FD_FATAL_SLOT_OK = false) :
    let e := crashSlotWritten harts ring d
    e.rd FD_FATAL_SLOT_OK = 1 ∧ e.rd FD_CRASH_LAST_VALID = 1 ∧ e.fd.handling = true := by
  have ready : (d.slotReady harts ring).fd.handling = true := handlerBegins_handling h
  have runs := crashSlotWritten_runs harts ring hr h ho
  generalize d.slotReady harts ring = y at ready runs
  obtain ⟨m, e⟩ := mramWrite_eff (crashAt + 0x10000 * y.fd.slot) (slotImage y.dumpSkipped y) { y with freeCtr := y.freeCtr + 96 }
  have recorded : y.slotRecorded.fd.handling = true := by
    rw [Dev.slotRecorded, e]
    exact ready
  generalize y.slotRecorded = z at runs recorded
  intro r
  have hx : r = _ := runs
  clear_value r
  subst hx
  refine ⟨?_, ?_, recorded⟩
  · simp (disch := decide) only [Dev.rd_wr_ne, Dev.rd_raise_ne]
    exact Dev.rd_raise_same _ _
  · simp (disch := decide) only [Dev.rd_wr_ne]
    exact Dev.rd_raise_same _ _

/-- The fields of FD_FATAL stand through the reset that ends the handler. -/
theorem handlerReset_fatal {d : Dev} (hr : d.coreRuns = true) : (handlerReset d).rd FD_FATAL_NESTED = d.rd FD_FATAL_NESTED ∧
    (handlerReset d).rd FD_FATAL_TIMEOUT = d.rd FD_FATAL_TIMEOUT ∧ (handlerReset d).rd FD_FATAL_DRAM_OK = d.rd FD_FATAL_DRAM_OK := by
  refine ⟨handlerReset_rd hr (by decide +kernel) (by decide) (fun keep x => ?_) (by decide) ?_,
    handlerReset_rd hr (by decide +kernel) (by decide) (fun keep x => ?_) (by decide) ?_,
    handlerReset_rd hr (by decide +kernel) (by decide) (fun keep x => ?_) (by decide) ?_⟩
  case refine_2 => exact (recordReset_after (Changes.refl _ _ d) (within_refl _) (covers_refl _) .wdog 0).rd (rows_not (by decide))
  case refine_4 => exact (recordReset_after (Changes.refl _ _ d) (within_refl _) (covers_refl _) .wdog 0).rd (rows_not (by decide))
  case refine_6 => exact (recordReset_after (Changes.refl _ _ d) (within_refl _) (covers_refl _) .wdog 0).rd (rows_not (by decide))
  all_goals exact (resetHold_after (Changes.refl _ _ x) (within_refl _) (covers_refl _) .wdog keep none).rd (rows_not (by decide))

theorem raise_coreRuns (d : Dev) {f : Fld} (h1 : PW_STATE_CUR.bit ≠ f.bit) (h2 : GC_STATUS_PLLA_LOCK.bit ≠ f.bit) : (d.raise f).coreRuns = d.coreRuns :=
  coreRuns_of rfl (Dev.rd_raise_ne _ h1) (Dev.rd_raise_ne _ h2)

/-- A handler that ends with one of its flags raised. -/
theorem handlerReset_raised {d : Dev} (hr : d.coreRuns = true) {f : Fld} (h1 : PW_STATE_CUR.bit ≠ f.bit) (h2 : GC_STATUS_PLLA_LOCK.bit ≠ f.bit) :
    let e := handlerReset (d.raise f)
    e.power.hold = some .wdog ∧ e.rd FD_CAUSE_CLASS = 4 ∧ e.rd FD_CAUSE_FATAL = 1 ∧ e.fd.handling = false :=
  handlerReset_eff ((raise_coreRuns d h1 h2).trans hr)

theorem handlerReset_nested {d : Dev} (hr : d.coreRuns = true) : (handlerReset (d.raise FD_FATAL_NESTED)).rd FD_FATAL_NESTED = 1 :=
  (handlerReset_fatal ((raise_coreRuns d (by decide) (by decide)).trans hr)).1.trans (Dev.rd_raise_same _ _)

theorem handlerReset_timeout {d : Dev} (hr : d.coreRuns = true) : (handlerReset (d.raise FD_FATAL_TIMEOUT)).rd FD_FATAL_TIMEOUT = 1 :=
  (handlerReset_fatal ((raise_coreRuns d (by decide) (by decide)).trans hr)).2.1.trans (Dev.rd_raise_same _ _)

theorem handlerReset_dramOk {d : Dev} (hr : d.coreRuns = true) : (handlerReset (d.raise FD_FATAL_DRAM_OK)).rd FD_FATAL_DRAM_OK = 1 :=
  (handlerReset_fatal ((raise_coreRuns d (by decide) (by decide)).trans hr)).2.2.trans (Dev.rd_raise_same _ _)

/-- The handler's last steps (R440, R442). -/
theorem dramDumpWritten_eff {d : Dev} (hr : d.coreRuns = true) (h : d.fd.handling = true) (ho : d.on FD_FATAL_SLOT_OK = true) :
    let e := dramDumpWritten d
    (e.power.hold = some .wdog ∧ e.rd FD_CAUSE_CLASS = 4 ∧ e.rd FD_CAUSE_FATAL = 1 ∧ e.fd.handling = false) ∧
    (d.dumpSkipped = false → e.rd FD_FATAL_DRAM_OK = 1) := by
  have runs : dramDumpWritten d = if d.dumpSkipped then handlerReset d
      else handlerReset (({ d with mem := Memory.write d.mem 0x1FF00000 (dumpImage d), freeCtr := d.freeCtr + 96 } : Dev).raise FD_FATAL_DRAM_OK) :=
    if_neg (by simp [h, hr, ho])
  generalize Memory.write d.mem 0x1FF00000 (dumpImage d) = m at runs
  generalize hy : ({ d with mem := m, freeCtr := d.freeCtr + 96 } : Dev) = y at runs
  have hr' : y.coreRuns = true := by subst hy; exact hr
  clear hy
  intro e
  have he : e = _ := runs
  clear_value e
  cases hk : d.dumpSkipped
  · rw [hk, if_neg (by decide)] at he
    rw [he]
    exact ⟨handlerReset_raised hr' (by decide) (by decide), fun _ => handlerReset_dramOk hr'⟩
  · rw [hk, if_pos rfl] at he
    rw [he]
    exact ⟨handlerReset_eff hr, fun k => absurd k (by decide)⟩

theorem handlerTimeout_eff {d : Dev} (hr : d.coreRuns = true) (h : d.fd.handling = true) :
    let e := handlerTimeout d
    e.rd FD_FATAL_TIMEOUT = 1 ∧ e.power.hold = some .wdog ∧ e.rd FD_CAUSE_CLASS = 4 ∧ e.rd FD_CAUSE_FATAL = 1 ∧ e.fd.handling = false := by
  have runs : handlerTimeout d = handlerReset ((d.reach (d.fd.entry / 2 ^ 40 + 50000000)).raise FD_FATAL_TIMEOUT) := if_neg (by simp [h])
  have reached : (d.reach (d.fd.entry / 2 ^ 40 + 50000000)).coreRuns = true :=
    (coreRuns_of (reach_power _ _) (reach_rd _ _ (by decide)) (reach_rd _ _ (by decide))).trans hr
  intro e
  have he : e = _ := runs
  clear_value e
  subst he
  exact ⟨handlerReset_timeout reached, handlerReset_raised reached (by decide) (by decide)⟩

/-- The watchdog's reset, whatever the handler is doing (R441, R445). -/
theorem watchdogExpiry_eff {d : Dev} (hr : d.coreRuns = true) (hc : d.wdogCounts = true) :
    let e := watchdogExpiry d
    e.power.hold = some .wdog ∧ e.rd FD_CAUSE_CLASS = 4 ∧ e.rd FD_CAUSE_FATAL = (if d.fd.handling then 1 else 0) ∧
    (d.fd.handling = true → e.rd FD_FATAL_TIMEOUT = 1) := by
  have runs : watchdogExpiry d = if (d.atCount (d.rd FD_WDOG_CFG_TIMEOUT)).fd.handling then
      handlerReset ((d.atCount (d.rd FD_WDOG_CFG_TIMEOUT)).raise FD_FATAL_TIMEOUT) else startReset .wdog false 0 (d.atCount (d.rd FD_WDOG_CFG_TIMEOUT)) :=
    if_neg (by simp [hr, hc])
  have counted : (d.atCount (d.rd FD_WDOG_CFG_TIMEOUT)).coreRuns = true :=
    (coreRuns_of (atCount_power _ _) (atCount_rd _ _ (rows_not (by decide))) (atCount_rd _ _ (rows_not (by decide)))).trans hr
  rw [atCount_fd] at runs
  intro e
  have he : e = _ := runs
  clear_value e
  cases h : d.fd.handling
  · rw [h, if_neg (by decide)] at he
    subst he
    obtain ⟨hold, cls, cause, -⟩ := startReset_wdog_eff counted
    exact ⟨hold, cls, cause, fun k => absurd k (by decide)⟩
  · rw [h, if_pos rfl] at he
    subst he
    obtain ⟨hold, cls, cause, -⟩ := handlerReset_raised counted (f := FD_FATAL_TIMEOUT) (by decide) (by decide)
    exact ⟨hold, cls, cause, fun _ => handlerReset_timeout counted⟩

/-! The statements. -/

/-- A running part whose watchdog counts towards a limit beyond what ELAPSED can show. -/
def wideTimeoutDev : Dev :=
  { runningDev with regs := [(FD_WDOG_CFG_TIMEOUT.bit, 70000), (FD_WDOG_CFG_EN.bit, 1), (DK_STATUS_LOADED.bit, 1)] }

theorem wideTimeout_counts : wideTimeoutDev.coreRuns = true ∧ wideTimeoutDev.fd.handling = false ∧ wideTimeoutDev.wdogCounts = true ∧
    wideTimeoutDev.rd FD_WDOG_STATUS_ELAPSED * 406800 + wideTimeoutDev.clk.wdog ≤
      (wideTimeoutDev.rd FD_WDOG_CFG_TIMEOUT - wideTimeoutDev.rd FD_WDOG_CFG_PRE) * 406800 := by
  decide +kernel

theorem wideTimeout_saturates : (wdogPre wideTimeoutDev.begun).rd FD_WDOG_STATUS_ELAPSED ≠
    wideTimeoutDev.rd FD_WDOG_CFG_TIMEOUT - wideTimeoutDev.rd FD_WDOG_CFG_PRE := by
  decide +kernel

/-- Refutes O54: its clause on WDOG_PRE claims that ELAPSED reads TIMEOUT - PRE, in states whose register file may hold a TIMEOUT that its
16 bits do not. ELAPSED saturates at 65535; with TIMEOUT = 70000 and PRE = 100 it does not read 69900. -/
theorem not_fatalErrorsAndTheirRecords : ¬ Obligations.FatalErrorsAndTheirRecords := by
  intro h
  obtain ⟨s, hs⟩ : ∃ s : State, s.dev = wideTimeoutDev := ⟨⟨[], wideTimeoutDev⟩, rfl⟩
  obtain ⟨fatals, -⟩ := h
  obtain ⟨first, -⟩ := fatals s (by rw [hs]; exact wideTimeout_counts.1)
  rw [hs] at first
  obtain ⟨-, handling, counts, before⟩ := wideTimeout_counts
  obtain ⟨-, -, pre, -⟩ := first handling
  obtain ⟨t, hx, -, -, -, -, -, elapsed, -⟩ := pre counts before
  have ht : t.dev = wdogPre s.dev.begun := act_dev (f := wdogPre) hx
  rw [ht, hs] at elapsed
  exact wideTimeout_saturates elapsed

end Sys2Proof.Machine
end

section
/-!
The watchdog's registers and the errors of memory (R439, R445, R453).
-/

namespace Sys2Proof.Machine

theorem accessed_clk (d : Dev) (p : Path) : (d.accessed p).clk = d.clk := by
  cases p <;> rfl

theorem wdogKick_key {p : Path} {w : Word} (h : bits w.toNat 15 0 = 0x4B1C) (d : Dev) :
    wdogKick p w d = { d.wr FD_WDOG_STATUS_ELAPSED 0 with clk := { d.clk with wdog := 0 } } := if_pos h

theorem wdogKick_other {p : Path} {w : Word} (h : bits w.toNat 15 0 ≠ 0x4B1C) (d : Dev) : wdogKick p w d = d.errRange p 0x3034 := if_neg h

/-- A write of FD_WDOG_CFG that starts the count (R445). -/
theorem wdogCfgWrite_starts (p : Path) {w : Word} {d : Dev} (he : d.on FD_WDOG_CFG_EN = false) (ho : 10 ≤ bits w.toNat 15 0) (hp : 0 < bits w.toNat 27 16)
    (hlt : bits w.toNat 27 16 < bits w.toNat 15 0) (h31 : bit w.toNat 31 = true) :
    let e := wdogCfgWrite p w d
    e.rd FD_WDOG_CFG_EN = 1 ∧ e.rd FD_WDOG_CFG_PRE = bits w.toNat 27 16 ∧ e.rd FD_WDOG_CFG_TIMEOUT = bits w.toNat 15 0 ∧
    e.rd FD_WDOG_STATUS_ELAPSED = 0 ∧ e.clk.wdog = 0 ∧ e.mem = d.mem := by
  have range : (bits w.toNat 27 16 = 0 || bits w.toNat 15 0 < 10 || bits w.toNat 15 0 ≤ bits w.toNat 27 16) = false := by
    simp only [Bool.or_eq_false_iff, decide_eq_false_iff_not]
    omega
  have pre : bits w.toNat 27 16 < 4096 := bits_lt _ _ _
  have out : bits w.toNat 15 0 < 65536 := bits_lt _ _ _
  have runs : wdogCfgWrite p w d = { ((((d.wr FD_WDOG_CFG_PRE (bits w.toNat 27 16)).wr FD_WDOG_CFG_TIMEOUT (bits w.toNat 15 0)).raise FD_WDOG_CFG_EN).wr
      FD_WDOG_STATUS_ELAPSED 0) with clk := { d.clk with wdog := 0 } } := by
    have en : ((d.wr FD_WDOG_CFG_PRE (bits w.toNat 27 16)).wr FD_WDOG_CFG_TIMEOUT (bits w.toNat 15 0)).on FD_WDOG_CFG_EN = false := by
      rw [Dev.on_of_rd (Dev.rd_wr_ne _ _ (by decide)), Dev.on_of_rd (Dev.rd_wr_ne _ _ (by decide)), he]
    unfold wdogCfgWrite
    dsimp only
    rw [range, he, Bool.false_and, if_neg (by decide), en, h31, if_pos (by decide)]
    rfl
  generalize bits w.toNat 27 16 = x at pre runs
  generalize bits w.toNat 15 0 = y at out runs
  generalize hv : (((d.wr FD_WDOG_CFG_PRE x).wr FD_WDOG_CFG_TIMEOUT y).raise FD_WDOG_CFG_EN).wr FD_WDOG_STATUS_ELAPSED 0 = v at runs
  intro e
  have ee : e = _ := runs
  clear_value e
  subst ee
  have fields : v.rd FD_WDOG_CFG_EN = 1 ∧ v.rd FD_WDOG_CFG_PRE = x ∧ v.rd FD_WDOG_CFG_TIMEOUT = y ∧ v.rd FD_WDOG_STATUS_ELAPSED = 0 ∧ v.mem = d.mem := by
    subst hv
    refine ⟨?_, ?_, ?_, Dev.rd_wr_same _ _ _, rfl⟩
    · rw [Dev.rd_wr_ne _ _ (by decide)]
      exact Dev.rd_raise_same _ _
    · rw [Dev.rd_wr_ne _ _ (by decide), Dev.rd_raise_ne _ (by decide), Dev.rd_wr_ne _ _ (by decide), Dev.rd_wr_same]
      exact Nat.mod_eq_of_lt pre
    · rw [Dev.rd_wr_ne _ _ (by decide), Dev.rd_raise_ne _ (by decide), Dev.rd_wr_same]
      exact Nat.mod_eq_of_lt out
  obtain ⟨en, fpre, fout, elapsed, mem⟩ := fields
  exact ⟨en, fpre, fout, elapsed, rfl, mem⟩

/-- A write that changes the limit of a watchdog that runs (R445). -/
theorem wdogCfgWrite_locked (p : Path) {w : Word} {d : Dev} (he : d.on FD_WDOG_CFG_EN = true) (ho : bits w.toNat 15 0 ≠ d.rd FD_WDOG_CFG_TIMEOUT) :
    ∃ r : Bool, wdogCfgWrite p w d = d.accessError 0x3000 p true 0x3030 ⟨r, true, false⟩ := by
  refine ⟨bits w.toNat 27 16 = 0 || bits w.toNat 15 0 < 10 || bits w.toNat 15 0 ≤ bits w.toNat 27 16, ?_⟩
  have locked : (d.on FD_WDOG_CFG_EN && (bits w.toNat 27 16 ≠ d.rd FD_WDOG_CFG_PRE || bits w.toNat 15 0 ≠ d.rd FD_WDOG_CFG_TIMEOUT)) = true := by
    simp [he, ho]
  unfold wdogCfgWrite
  dsimp only
  rw [locked, Bool.or_true, if_pos rfl]

theorem bits_or31_pre (w : Word) : bits (w ||| 0x80000000#32).toNat 27 16 = bits w.toNat 27 16 := by
  unfold bits
  rw [BitVec.toNat_or, Nat.or_div_two_pow, Nat.or_mod_two_pow]
  exact Nat.or_zero _

theorem bits_or31_timeout (w : Word) : bits (w ||| 0x80000000#32).toNat 15 0 = bits w.toNat 15 0 := by
  unfold bits
  rw [BitVec.toNat_or, Nat.or_div_two_pow, Nat.or_mod_two_pow]
  exact Nat.or_zero _

theorem memoryError_guard {a : Nat} {d : Dev} (hr : d.coreRuns = true) (ha : Dev.inDram a = true ∨ Dev.inMram a = true) :
    (!d.coreRuns || !(decide (0x10000000 ≤ a ∧ a < 0x20000000) || decide (0x20000000 ≤ a ∧ a < 0x25000000))) = false := by
  have memory : (decide (0x10000000 ≤ a ∧ a < 0x20000000) || decide (0x20000000 ≤ a ∧ a < 0x25000000)) = true := by
    simpa [Dev.inDram, Dev.inMram] using ha
  rw [hr, memory]
  rfl

/-- An access of memory that meets a corrected error (R439). -/
theorem eccError_corrected {a : Nat} (pilot : Bool) {d : Dev} (hr : d.coreRuns = true) (ha : Dev.inDram a = true ∨ Dev.inMram a = true) :
    eccError a true pilot d = (d.raise FD_STATUS_CE_SEEN).countSat FD_ECC_STATS_CORR 1 := by
  unfold eccError
  dsimp only
  rw [memoryError_guard hr ha, if_neg (by decide), if_pos rfl]

/-- The record of an uncorrectable error (R439). -/
def Dev.eccMarked (d : Dev) (a : Nat) : Dev :=
  ((if !d.on FD_STATUS_MRAM_UE_SEEN && !d.on FD_STATUS_DRAM_UE_SEEN then d.wr FD_ECC_ADDR_ADDR a else d).raise
    (if Dev.inDram a then FD_STATUS_DRAM_UE_SEEN else FD_STATUS_MRAM_UE_SEEN)).countSat FD_ECC_STATS_UNCORR 1

theorem eccError_uncorrectable {a : Nat} (pilot : Bool) {d : Dev} (hr : d.coreRuns = true) (ha : Dev.inDram a = true ∨ Dev.inMram a = true)
    (hj : journalAddress a = false) :
    eccError a false pilot d = if pilot then { d.eccMarked a with pilotFault := some (false, a) } else d.eccMarked a := by
  have dram : decide (0x10000000 ≤ a ∧ a < 0x20000000) = Dev.inDram a := by simp [Dev.inDram]
  unfold eccError
  dsimp only
  rw [memoryError_guard hr ha, if_neg (by decide), if_neg (by decide), if_neg (by simp [hj]), dram]
  rfl

theorem eccMarked_eff {a : Nat} (h32 : a < 2 ^ 32) (d : Dev) :
    (d.eccMarked a).rd (if Dev.inDram a then FD_STATUS_DRAM_UE_SEEN else FD_STATUS_MRAM_UE_SEEN) = 1 ∧
    (d.eccMarked a).rd FD_ECC_ADDR_ADDR = (if d.on FD_STATUS_MRAM_UE_SEEN || d.on FD_STATUS_DRAM_UE_SEEN then d.rd FD_ECC_ADDR_ADDR else a) ∧
    (d.eccMarked a).rd FD_ECC_STATS_UNCORR = min (d.rd FD_ECC_STATS_UNCORR + 1) 65535 ∧ (d.eccMarked a).pilotFault = d.pilotFault ∧
    (d.eccMarked a).mem = d.mem := by
  generalize hx : (if !d.on FD_STATUS_MRAM_UE_SEEN && !d.on FD_STATUS_DRAM_UE_SEEN then d.wr FD_ECC_ADDR_ADDR a else d) = x
  have addr : x.rd FD_ECC_ADDR_ADDR = if d.on FD_STATUS_MRAM_UE_SEEN || d.on FD_STATUS_DRAM_UE_SEEN then d.rd FD_ECC_ADDR_ADDR else a := by
    rw [← hx]
    cases d.on FD_STATUS_MRAM_UE_SEEN <;> cases d.on FD_STATUS_DRAM_UE_SEEN
    · exact (Dev.rd_wr_same _ _ _).trans (Nat.mod_eq_of_lt h32)
    all_goals rfl
  have uncorr : x.rd FD_ECC_STATS_UNCORR = d.rd FD_ECC_STATS_UNCORR := by
    rw [← hx]
    split
    · exact Dev.rd_wr_ne _ _ (by decide)
    · rfl
  have rest : x.pilotFault = d.pilotFault ∧ x.mem = d.mem := by
    rw [← hx]
    split <;> exact ⟨rfl, rfl⟩
  unfold Dev.eccMarked
  rw [hx]
  refine ⟨?_, ?_, (rd_countSat_same _ _ _).trans ?_, rest⟩
  · split
    all_goals exact (Dev.rd_countSat_ne _ _ (by decide)).trans (Dev.rd_raise_same _ _)
  · refine (Dev.rd_countSat_ne _ _ (by decide)).trans ((Dev.rd_raise_ne _ ?_).trans addr)
    split <;> decide
  · refine congrArg (fun c => min (c + 1) 65535) ((Dev.rd_raise_ne _ ?_).trans uncorr)
    split <;> decide

/-- Settles O55, command by command. -/
theorem watchdogAndEcc : Obligations.WatchdogAndEcc := by
  intro s
  refine ⟨fun hr hc => Completes.effect _ rfl (watchdogExpiry_eff (d := s.dev.begun) hr hc),
    fun p w hr => ⟨fun hk => Completes.ofPort _ rfl hr ?_, fun hk => Completes.ofPort _ rfl hr ?_,
      fun he ho hp hlt => Completes.ofPort _ rfl hr ?_, fun he ho => Completes.ofPort _ rfl hr ?_⟩,
    fun a pilot hr ha => ⟨Completes.effect _ rfl ?_, fun hj => Completes.effect _ rfl ?_⟩⟩
  · rw [wdogKick_key hk]
    refine ⟨?_, rfl, Dev.accessed_mem _ _⟩
    show ((s.dev.accessed p).wr FD_WDOG_STATUS_ELAPSED 0).rd FD_WDOG_STATUS_ELAPSED = 0
    exact Dev.rd_wr_same _ _ _
  · rw [wdogKick_other hk]
    have hch := Dev.errRange_changes (s.dev.accessed p) p 0x3034
    exact ⟨Dev.errRange_flag _ p 0x3034, (hch.rd (rows_not (by decide))).trans (accessed_rd _ _ _),
      congrArg ClockSt.wdog ((hch.parts .clk (by decide)).trans (accessed_clk _ _)), (hch.parts .mem (by decide)).trans (Dev.accessed_mem _ _)⟩
  · have set := wdogCfgWrite_starts p (w := w ||| 0x80000000#32) (d := s.dev.accessed p) (by rw [accessed_on]; exact he)
      (by rw [bits_or31_timeout]; exact ho) (by rw [bits_or31_pre]; exact hp) (by rw [bits_or31_pre, bits_or31_timeout]; exact hlt) (bit_or31 w)
    rw [bits_or31_pre, bits_or31_timeout, Dev.accessed_mem] at set
    exact set
  · obtain ⟨r, e⟩ := wdogCfgWrite_locked p (w := w ||| 0x80000000#32) (d := s.dev.accessed p) (by rw [accessed_on]; exact he)
      (by rw [bits_or31_timeout, accessed_rd]; exact ho)
    have hch := (s.dev.accessed p).accessError_changes 0x3000 p true 0x3030 ⟨r, true, false⟩
    rw [e]
    exact ⟨((s.dev.accessed p).accessError_flags 0x3000 p true 0x3030 ⟨r, true, false⟩).2.1 rfl, (hch.rd (rows_not (by decide))).trans (accessed_rd _ _ _),
      (hch.rd (rows_not (by decide))).trans (accessed_rd _ _ _), (hch.rd (rows_not (by decide))).trans (accessed_rd _ _ _),
      (hch.parts .mem (by decide)).trans (Dev.accessed_mem _ _)⟩
  · rw [eccError_corrected pilot (by exact hr) ha]
    exact ⟨(Dev.rd_countSat_ne _ _ (by decide)).trans (Dev.rd_raise_same _ _),
      (rd_countSat_same _ _ _).trans (congrArg (fun c => min (c + 1) 65535) (Dev.rd_raise_ne _ (by decide))), rfl, rfl⟩
  · rw [eccError_uncorrectable pilot (by exact hr) ha hj]
    obtain ⟨seen, addr, uncorr, fault, mem⟩ := eccMarked_eff a.isLt s.dev.begun
    cases pilot
    · exact ⟨seen, addr, uncorr, fault, mem⟩
    · exact ⟨seen, addr, uncorr, rfl, mem⟩

end Sys2Proof.Machine
end

section
/-!
What the loss and the rise of a field leave of the schedule, and the completion of the scheduler's commands (05_transmit.md,
09_survey_scheduling.md, 19_faults_identity.md).
-/

namespace Sys2Proof.Machine

/-! The schedule's grants and requests through the loss of a field (R108, R175, R195). -/

/-- The grants and the requests of the schedule stand. -/
def Dev.ScheduleStands (d e : Dev) : Prop := e.ts.grants = d.ts.grants ∧ e.ts.reqs = d.ts.reqs

theorem Dev.ScheduleStands.of_ts {d e : Dev} (h : e.ts = d.ts) : d.ScheduleStands e := by
  unfold Dev.ScheduleStands
  rw [h]
  exact ⟨rfl, rfl⟩

theorem Dev.ScheduleStands.trans {d e f : Dev} (h : d.ScheduleStands e) (k : e.ScheduleStands f) : d.ScheduleStands f :=
  ⟨k.1.trans h.1, k.2.trans h.2⟩

/-- A change that leaves the schedule's part alone. -/
theorem Changes.schedule {S : List Part} {W : List Span} {d e : Dev} (h : Changes S W d e) (hts : Part.ts ∉ S) : d.ScheduleStands e :=
  .of_ts (h.parts .ts hts)

theorem tagItem_schedule (n coil : Nat) (t : FoundTag) (d : Dev) : d.ScheduleStands (tagItem n coil t d).2 := by
  unfold tagItem
  dsimp only
  have marked : ∀ (twin : Bool) (c : Option Nat), (match c with
      | some k => if twin = true then (d.raiseIf twin (CH_INV_STATUS_TWIN_SEEN n)).modCtx n k fun c => { c with twin := true }
        else d.raiseIf twin (CH_INV_STATUS_TWIN_SEEN n)
      | none => d.raiseIf twin (CH_INV_STATUS_TWIN_SEEN n)).ts = d.ts := fun twin c => by
    cases twin <;> cases c <;> rfl
  have posted : ∀ (e : Dev) (typ : Nat) (ws : List Word), (postBehind n 1 ((e.post n typ ws).countSat (CH_INV_STATS_TAGS n) 1)).ts = e.ts := fun e typ ws =>
    ((postBehind_after (Changes.refl _ _ _) (within_refl _) (covers_refl _) n 1).parts .ts (by decide)).trans
      ((Dev.post_after (Changes.refl _ _ e) (within_refl _) (covers_refl _) n typ ws).parts .ts (by decide))
  generalize hx : postBehind n 1 _ = x
  have hts : x.ts = d.ts := by
    rw [← hx]
    exact (posted _ _ _).trans (marked _ _)
  split
  · exact (Dev.ScheduleStands.of_ts hts).trans ⟨rfl, rfl⟩
  · exact .of_ts hts

theorem flushTag_schedule (n : Nat) (d : Dev) : d.ScheduleStands (flushTag n d) := by
  unfold flushTag
  split
  · split
    · split
      · exact tagItem_schedule n _ _ d
      · exact .of_ts rfl
    · exact .of_ts rfl
  · exact .of_ts rfl

theorem flushTags_schedule (n : Nat) (ts : List FoundTag) (d : Dev) : d.ScheduleStands (flushTags n ts d) := by
  induction ts generalizing d with
  | nil => exact .of_ts rfl
  | cons t ts ih =>
    unfold flushTags
    split
    · exact (Dev.ScheduleStands.of_ts (d := d) rfl).trans ((flushTag_schedule n (d.setJob n _)).trans (ih _))
    · exact .of_ts rfl

theorem flushCut_schedule (n : Nat) (d : Dev) : d.ScheduleStands (flushCut n d) := by
  unfold flushCut
  split
  · exact flushTags_schedule n _ d
  · exact .of_ts rfl

theorem abortJob_schedule (n cut : Nat) (d : Dev) : d.ScheduleStands (abortJob n cut d) := by
  refine (flushCut_schedule n d).trans ?_
  unfold abortJob
  dsimp only
  split
  · exact (closeExchange_after (Changes.refl _ _ _) (within_refl _) (covers_refl _) n).schedule (by decide)
  · exact (endInventory_after (Changes.refl _ _ _) (within_refl _) (covers_refl _) n _ _ _).schedule (by decide)
  · split
    · exact (Dev.ScheduleStands.of_ts rfl).trans
        (((sessionEnd_after (Changes.refl _ _ (Dev.modChan _ n _)) (within_refl _) (covers_refl _) n _ _).schedule (by decide)).trans
          ((closeExchange_after (Changes.refl _ _ _) (within_refl _) (covers_refl _) n).schedule (by decide)))
    · exact (endCommand_after (Changes.refl _ _ _) (within_refl _) (covers_refl _) n _ _ _ _).schedule (by decide)

theorem loseField_schedule (n cut : Nat) (fr : RxFrame) (mine : Bool) (d : Dev) : d.ScheduleStands (loseField n cut fr mine d) := by
  have flushed : ∀ b : Bool, d.ScheduleStands (if b = true then flushCut n d else d) := fun b => by
    cases b
    · exact .of_ts rfl
    · exact flushCut_schedule n d
  have aborted : ∀ (b : Bool) (e : Dev), e.ScheduleStands (if b = true then abortJob n cut e else e) := fun b e => by
    cases b
    · exact .of_ts rfl
    · exact abortJob_schedule n cut e
  have disarmed : ∀ e : Dev, e.ScheduleStands (disarm n fr e) := fun e =>
    (disarm_after (Changes.refl _ _ e) (within_refl _) (covers_refl _) n fr).schedule (by decide)
  have ended : ∀ (as : List (Nat × PCmd)) (e : Dev), e.ScheduleStands (sessionsEnd n seFIELD_OFF (abortArrived n cut as e)) := fun as e =>
    ((abortArrived_after (Changes.refl _ _ e) (within_refl _) (covers_refl _) n cut as).schedule (by decide)).trans
      ((sessionsEnd_after (Changes.refl _ _ _) (within_refl _) (covers_refl _) n seFIELD_OFF).schedule (by decide))
  unfold loseField
  dsimp only
  exact (flushed _).trans ((disarmed _).trans ((Dev.ScheduleStands.of_ts rfl).trans ((aborted _ (Dev.modChan _ n _)).trans (ended _ _))))

theorem fieldOff_schedule (n : Nat) (d : Dev) : d.ScheduleStands (fieldOff n d) := by
  unfold fieldOff
  dsimp only
  generalize hx : Dev.lower _ (CH_TX_STATUS_HEADROOM n) = x
  have hts : d.ScheduleStands x := .of_ts (by rw [← hx]; rfl)
  refine hts.trans ?_
  split
  · split
    · exact loseField_schedule n _ _ _ x
    · exact (supplyRamp_after (Changes.refl _ _ x) (within_refl _) (covers_refl _) n _ _ _).schedule (by decide)
  · exact .of_ts rfl

theorem endField_schedule (n cut : Nat) (fr : RxFrame) (mine : Bool) (d : Dev) : d.ScheduleStands (endField n cut fr mine d) := by
  have lost := loseField_schedule n cut fr mine d
  unfold endField
  generalize loseField n cut fr mine d = x at lost
  have off := lost.trans (fieldOff_schedule n x)
  split
  · exact off
  · exact off
  · split
    · exact off
    · exact lost.trans (.of_ts rfl)
  · split
    · exact off
    · exact lost.trans (.of_ts rfl)
  · exact lost.trans (.of_ts rfl)
  · exact .of_ts rfl
  · exact .of_ts rfl

/-! The same through the rise of a field, which may release its grant but asks for none (R72, R108, R112). -/

/-- The requests of the schedule stand, and no grant comes to one that has none. -/
def Dev.NoneGranted (d e : Dev) : Prop := e.ts.reqs = d.ts.reqs ∧ (d.ts.grants = [] → e.ts.grants = [])

theorem Dev.ScheduleStands.noneGranted {d e : Dev} (h : d.ScheduleStands e) : d.NoneGranted e := ⟨h.2, fun k => h.1.trans k⟩

theorem Dev.NoneGranted.trans {d e f : Dev} (h : d.NoneGranted e) (k : e.NoneGranted f) : d.NoneGranted f :=
  ⟨k.1.trans h.1, fun x => k.2 (h.2 x)⟩

theorem Dev.NoneGranted.of_ts {d e : Dev} (h : e.ts = d.ts) : d.NoneGranted e := (Dev.ScheduleStands.of_ts h).noneGranted

theorem releaseGrant_noneGranted (n : Nat) (fr : RxFrame) (d : Dev) : d.NoneGranted (releaseGrant n fr d) := by
  unfold releaseGrant
  split
  · exact .of_ts rfl
  · split
    · exact .of_ts rfl
    · refine Dev.NoneGranted.trans ?_ (endField_schedule n cutGRANT_END fr _ _).noneGranted
      exact ⟨rfl, fun k => by rw [k]; rfl⟩

theorem nextFrame_noneGranted (n k : Nat) (f : AirFrame) (d : Dev) : d.NoneGranted (nextFrame n k f d) := by
  unfold nextFrame
  split
  · exact (abortJob_schedule n cutPOWER_FAIL d).noneGranted.trans (releaseGrant_noneGranted n emptyFrame _)
  · exact ((launch_after (Changes.refl _ _ d) (within_refl _) (covers_refl _) n k f).schedule (by decide)).noneGranted

theorem setInv_schedule (n : Nat) (i : InvSt) (d : Dev) : d.ScheduleStands (setInv n i d) :=
  (setInv_after (Changes.refl _ _ d) (within_refl _) (covers_refl _) n i).schedule (by decide)

theorem goInv_noneGranted (n : Nat) (i : InvSt) (f : AirFrame) (d : Dev) : d.NoneGranted (goInv n i f d) :=
  (setInv_schedule n i d).noneGranted.trans (nextFrame_noneGranted n 15 f _)

theorem startRound_noneGranted (n : Nat) (i : InvSt) (d : Dev) : d.NoneGranted (startRound n i d) := by
  unfold startRound
  split
  · unfold startA
    split <;> exact goInv_noneGranted n _ _ d
  · split
    · exact goInv_noneGranted n _ _ d
    · split
      · exact goInv_noneGranted n _ _ d
      · exact goInv_noneGranted n _ _ d

theorem fieldReady_noneGranted (n : Nat) (d : Dev) : d.NoneGranted (fieldReady n d) := by
  have kicked : d.NoneGranted (kick n d) := ((kick_after (Changes.refl _ _ d) (within_refl _) (covers_refl _) n).schedule (by decide)).noneGranted
  unfold fieldReady
  dsimp only
  split
  · exact .of_ts rfl
  · split
    · split
      · split
        · split
          · exact ((inventoryReset_after (Changes.refl _ _ d) (within_refl _) (covers_refl _) n _).schedule (by decide)).noneGranted
          · exact startRound_noneGranted n _ d
        · exact .of_ts rfl
      · exact startRound_noneGranted n _ d
      · exact kicked
    · split
      · exact ((endCommand_after (Changes.refl _ _ d) (within_refl _) (covers_refl _) n _ _ _ _).schedule (by decide)).noneGranted
      · exact kicked
    · exact kicked

theorem guardExpiry_noneGranted (n : Nat) (d : Dev) : d.NoneGranted (guardExpiry n d) := by
  unfold guardExpiry
  dsimp only
  split
  · exact .of_ts rfl
  · exact (Dev.NoneGranted.of_ts rfl).trans (fieldReady_noneGranted n (Dev.modChan _ n _))

theorem rampUpDone_noneGranted (n : Nat) (d : Dev) : d.NoneGranted (rampUpDone n d) := by
  unfold rampUpDone
  split
  · exact .of_ts rfl
  · dsimp only
    generalize hx : kick n _ = x
    have start : d.NoneGranted x := by
      rw [← hx]
      exact (Dev.NoneGranted.of_ts rfl).trans ((kick_after (Changes.refl _ _ (d.modField n _)) (within_refl _) (covers_refl _) n).schedule (by decide)).noneGranted
    refine start.trans ?_
    split
    · split
      · exact ((startRfReset_after (Changes.refl _ _ x) (within_refl _) (covers_refl _) n _).schedule (by decide)).noneGranted
      · split
        · exact guardExpiry_noneGranted n x
        · exact fieldReady_noneGranted n x
    · split
      · exact guardExpiry_noneGranted n x
      · exact fieldReady_noneGranted n x

theorem rampInOne_noneGranted (n : Nat) (d : Dev) : d.NoneGranted (rampInOne n d) := by
  unfold rampInOne
  split
  · exact rampUpDone_noneGranted n d
  · exact .of_ts rfl

/-! Slot boundaries (R57, R216, R220). -/

/-- While the Tideclock counts, it reaches the time that it is to reach. -/
theorem reach_time_le (d : Dev) (ns : Nat) (h : d.rd TC_INC_INC ≠ 0) : ns * 2 ^ 40 ≤ (d.reach ns).time := by
  have clocks : d.clocksTo ns = if ns * 2 ^ 40 ≤ d.time || d.tickClocks * d.rd TC_INC_INC = 0 then 0
      else d.tickClocks * ((ns * 2 ^ 40 - d.time + d.tickClocks * d.rd TC_INC_INC - 1) / (d.tickClocks * d.rd TC_INC_INC)) := rfl
  have pos : 0 < d.tickClocks * d.rd TC_INC_INC := Nat.mul_pos (by unfold Dev.tickClocks; split <;> decide) (Nat.pos_of_ne_zero h)
  rw [Dev.reach, elapse_time, clocks]
  by_cases far : ns * 2 ^ 40 ≤ d.time
  · exact Nat.le_trans far (Nat.le_add_right _ _)
  · rw [if_neg (by rw [decide_eq_false far, decide_eq_false (Nat.pos_iff_ne_zero.1 pos)]; decide)]
    have div := Nat.div_add_mod (ns * 2 ^ 40 - d.time + d.tickClocks * d.rd TC_INC_INC - 1) (d.tickClocks * d.rd TC_INC_INC)
    have mod := Nat.mod_lt (ns * 2 ^ 40 - d.time + d.tickClocks * d.rd TC_INC_INC - 1) pos
    rw [Nat.mul_right_comm]
    omega

theorem reach_ms_le (d : Dev) (m : Nat) (h : d.rd TC_INC_INC ≠ 0) : m ≤ (d.reach (m * 1000000)).ms := by
  have k := reach_time_le d (m * 1000000) h
  rw [Dev.ms, Dev.ns, Nat.le_div_iff_mul_le (by decide), Nat.le_div_iff_mul_le (by decide)]
  exact k

theorem endGrants_none {d : Dev} (h : d.ts.grants = []) : endGrants d = d := by
  unfold endGrants
  rw [h]
  rfl

theorem beginBlock_schedule (pos : Nat) (d : Dev) : d.ScheduleStands (beginBlock pos d) := by
  unfold beginBlock
  dsimp only
  split <;> exact ⟨rfl, rfl⟩

theorem closeBlock_schedule (d : Dev) : d.ScheduleStands (closeBlock d) := by
  have noted : ∀ (b : Bool), d.ScheduleStands (d.raiseIf b TS_SURVEY_STATUS_MISSING) := fun b => .of_ts (by cases b <;> rfl)
  have sent : ∀ (b : Bool) (e : Dev) (ws : List Word), e.ScheduleStands (if b = true then surveySend d.ts.survey.peer 3 ws e else e) := fun b e ws => by
    cases b <;> exact ⟨rfl, rfl⟩
  unfold closeBlock
  dsimp only
  split
  · exact ⟨rfl, rfl⟩
  · exact (noted _).trans ((sent _ _ _).trans ⟨rfl, rfl⟩)

theorem startRepeats_schedule (d : Dev) : d.ScheduleStands (startRepeats d) :=
  Dev.ScheduleStands.trans (e := d.modSurvey fun s => { s with sources := s.again, again := [], repeating := true }) ⟨rfl, rfl⟩ (beginBlock_schedule 1 _)

theorem surveySlot_schedule (d : Dev) : d.ScheduleStands (surveySlot d) := by
  have same : ∀ e : Dev, e.ScheduleStands e := fun e => ⟨rfl, rfl⟩
  have closed : ∀ b : Prop, [Decidable b] → d.ScheduleStands (if b then peerBlockDone d else closeBlock d) := fun b _ => by
    split
    · exact ⟨rfl, rfl⟩
    · exact closeBlock_schedule d
  unfold surveySlot
  dsimp only
  split
  · exact same d
  · split
    · split
      · exact startRepeats_schedule d
      · exact same d
    · split
      · exact beginBlock_schedule 1 d
      · split
        · exact ⟨rfl, rfl⟩
        · have done := closed (d.rd TS_STATUS_SURVEY = 4)
          generalize (if d.rd TS_STATUS_SURVEY = 4 then peerBlockDone d else closeBlock d) = x at done
          refine done.trans ?_
          split
          · exact beginBlock_schedule 1 x
          · split
            · exact startRepeats_schedule x
            · split <;> exact ⟨rfl, rfl⟩

theorem raiseFields_noneGranted (d : Dev) : d.NoneGranted (raiseFields d) := by
  have one : ∀ (n : Nat) (e : Dev), e.NoneGranted (rampInOne n (match e.fieldGrant n with
      | some g =>
        if (e.chan n).field.st = .supply && g.start ≤ e.ms && e.coilApplied g then tryRampUp n (e.modField n fun f => { f with boundary := true }) else e
      | none => e)) := fun n e => by
    refine Dev.NoneGranted.trans ?_ (rampInOne_noneGranted n _)
    split
    · split
      · exact (Dev.NoneGranted.of_ts rfl).trans
          ((tryRampUp_after (Changes.refl _ _ (e.modField n _)) (within_refl _) (covers_refl _) n).schedule (by decide)).noneGranted
      · exact .of_ts rfl
    · exact .of_ts rfl
  have each : ∀ (xs : List Nat) (e : Dev), e.NoneGranted (e.each xs fun n d => rampInOne n (match d.fieldGrant n with
      | some g =>
        if (d.chan n).field.st = .supply && g.start ≤ d.ms && d.coilApplied g then tryRampUp n (d.modField n fun f => { f with boundary := true }) else d
      | none => d)) := fun xs => by
    induction xs with
    | nil => exact fun e => .of_ts rfl
    | cons x xs ih => exact fun e => (one x e).trans (ih _)
  exact each (upTo 24) d

/-- What a slot boundary runs, from the part at its start. -/
theorem slotBoundary_runs {d e : Dev} (he : e = d.reach (d.nextBoundary * 1000000)) (hr : e.coreRuns = true) (hg : e.ts.grants = []) :
    slotBoundary d = raiseFields (followListeners (surveySlot (({ rfBudget e with ts := { (rfBudget e).ts with
      reqs := (rfBudget e).ts.reqs.map GrantReq.age } } : Dev).wr TS_STATUS_SLOT (e.slotIndex e.ms)))) := by
  have up := (up_of_coreRuns hr).1
  have budget := rfBudget_after (Changes.refl _ _ e) (within_refl _) (covers_refl _)
  have runs : (rfBudget e).coreRuns = true :=
    (coreRuns_of (d := e) (e := rfBudget e) rfl (budget.rd (rows_not (by decide))) (budget.rd (rows_not (by decide)))).trans hr
  have cycle : (rfBudget e).rd TS_CYCLE_SLOTS = e.rd TS_CYCLE_SLOTS := budget.rd (rows_not (by decide))
  unfold slotBoundary
  dsimp only
  rw [← he, if_neg (by rw [up]; decide), if_neg (by rw [runs]; decide), endGrants_none (by exact hg)]
  have index : (({ rfBudget e with ts := { (rfBudget e).ts with reqs := (rfBudget e).ts.reqs.map GrantReq.age } } : Dev).slotIndex
      ({ rfBudget e with ts := { (rfBudget e).ts with reqs := (rfBudget e).ts.reqs.map GrantReq.age } } : Dev).ms) = e.slotIndex e.ms :=
    congrArg (fun c => e.ms % max 1 c) cycle
  rw [index]

theorem slotBoundary_eff {d : Dev} (hr : d.coreRuns = true) (hg : d.ts.grants = []) (hi : d.rd TC_INC_INC ≠ 0) :
    d.ms + 1 ≤ (slotBoundary d).ms ∧ (slotBoundary d).rd TS_STATUS_SLOT = (slotBoundary d).slotIndex (slotBoundary d).ms % 2 ^ 8 ∧
    (slotBoundary d).rd PW_RF_BUDGET_BUDGET = budgetOf (d.rd PW_RF_CAP_CAP) (d.rd PW_THERM_THROTTLE) (toSigned 11 d.power.temp) % 2 ^ 11 ∧
    (slotBoundary d).ts.reqs = d.ts.reqs.map GrantReq.age := by
  generalize he : d.reach (d.nextBoundary * 1000000) = e
  have power : e.power = d.power := by rw [← he]; exact reach_power _ _
  have ts : e.ts = d.ts := by rw [← he]; exact reach_ts _ _
  have rd : ∀ {f : Fld}, f.bit ≠ FD_WDOG_STATUS_ELAPSED.bit → e.rd f = d.rd f := fun hf => by rw [← he]; exact reach_rd _ _ hf
  have ms : d.ms + 1 ≤ e.ms := by rw [← he]; exact reach_ms_le d _ hi
  rw [slotBoundary_runs he.symm ((coreRuns_of power (rd (by decide)) (rd (by decide))).trans hr) (by rw [ts]; exact hg)]
  have budget : (rfBudget e).rd PW_RF_BUDGET_BUDGET = budgetOf (d.rd PW_RF_CAP_CAP) (d.rd PW_THERM_THROTTLE) (toSigned 11 d.power.temp) % 2 ^ 11 := by
    rw [rfBudget, Dev.rd_wr_same, rd (by decide), rd (by decide), power]
  have cycle : (rfBudget e).rd TS_CYCLE_SLOTS = e.rd TS_CYCLE_SLOTS :=
    (rfBudget_after (Changes.refl _ _ e) (within_refl _) (covers_refl _)).rd (rows_not (by decide))
  have aged : (rfBudget e).ts = e.ts := rfl
  have time : (rfBudget e).time = e.time := rfl
  generalize rfBudget e = x at budget cycle aged time
  generalize hy : Dev.wr _ TS_STATUS_SLOT _ = y
  have yslot : y.rd TS_STATUS_SLOT = e.slotIndex e.ms % 2 ^ 8 := by rw [← hy]; exact Dev.rd_wr_same _ _ _
  have ybudget : y.rd PW_RF_BUDGET_BUDGET = x.rd PW_RF_BUDGET_BUDGET := by rw [← hy]; exact Dev.rd_wr_ne _ _ (by decide)
  have ycycle : y.rd TS_CYCLE_SLOTS = x.rd TS_CYCLE_SLOTS := by rw [← hy]; exact Dev.rd_wr_ne _ _ (by decide)
  have yreqs : y.ts.reqs = x.ts.reqs.map GrantReq.age := by rw [← hy]; rfl
  have ytime : y.time = x.time := by rw [← hy]; rfl
  clear hy
  have slot := surveySlot_after (Changes.refl _ _ y) (within_refl _) (covers_refl _)
  have listen := followListeners_after (Changes.refl _ _ (surveySlot y)) (within_refl _) (covers_refl _)
  have raised := raiseFields_after (Changes.refl _ _ (followListeners (surveySlot y))) (within_refl _) (covers_refl _)
  have kept : (raiseFields (followListeners (surveySlot y))).time = e.time :=
    (raised.parts .time (by decide)).trans ((listen.parts .time (by decide)).trans ((slot.parts .time (by decide)).trans (ytime.trans time)))
  have cycles : (raiseFields (followListeners (surveySlot y))).rd TS_CYCLE_SLOTS = e.rd TS_CYCLE_SLOTS :=
    (raised.rd (rows_not (by decide))).trans ((listen.rd (rows_not (by decide))).trans ((slot.rd (rows_not (by decide))).trans (ycycle.trans cycle)))
  have reqs := (surveySlot_schedule y).noneGranted.trans ((listen.schedule (by decide)).noneGranted.trans (raiseFields_noneGranted _))
  have shown : (raiseFields (followListeners (surveySlot y))).rd TS_STATUS_SLOT = y.rd TS_STATUS_SLOT :=
    (raised.rd (rows_not (by decide))).trans ((listen.rd (rows_not (by decide))).trans (slot.rd (rows_not (by decide))))
  have given : (raiseFields (followListeners (surveySlot y))).rd PW_RF_BUDGET_BUDGET = y.rd PW_RF_BUDGET_BUDGET :=
    (raised.rd (rows_not (by decide))).trans ((listen.rd (rows_not (by decide))).trans (slot.rd (rows_not (by decide))))
  generalize raiseFields (followListeners (surveySlot y)) = z at kept cycles reqs shown given
  have zms : z.ms = e.ms := congrArg (fun t => t / 2 ^ 40 / 1000000) kept
  refine ⟨by rw [zms]; exact ms, ?_, given.trans (ybudget.trans budget), ?_⟩
  · rw [shown, yslot, zms, Dev.slotIndex, Dev.slotIndex, cycles]
  · rw [reqs.1, yreqs, aged, ts]

/-- Settles O29: nothing that a slot boundary lets run, through the fields that rise at it, adds a request or takes one. -/
theorem slotBoundaries : Obligations.SlotBoundaries := by
  intro s hr hg hi
  refine Completes.effect slotBoundary rfl ?_
  obtain ⟨ms, slot, budget, reqs⟩ := slotBoundary_eff (d := s.dev.begun) hr hg hi
  exact ⟨ms, slot, budget, reqs, (execSlotBoundary_changes (s := s) rfl).2.parts .mem (by decide)⟩

end Sys2Proof.Machine
end

section
/-!
Every command of the scheduler and of the fault handler completes (05_transmit.md, 09_survey_scheduling.md, 19_faults_identity.md).
-/

namespace Sys2Proof.Machine

/-! Requests (R220, R223). -/

theorem requestUrgent_urgent (d : Dev) : ∀ r ∈ (requestUrgent d).ts.reqs, 0 < d.rd TS_CFG_AGE → d.rd TS_CFG_AGE ≤ r.waited → r.urgent = true := by
  intro r hr h0 hw
  rw [(requestUrgent_eff d).1] at hr
  obtain ⟨q, -, rfl⟩ := List.mem_map.1 hr
  show (q.urgent || (decide (0 < d.rd TS_CFG_AGE) && decide (d.rd TS_CFG_AGE ≤ q.waited))) = true
  rw [decide_eq_true h0, decide_eq_true hw]
  exact Bool.or_true _

theorem requestUrgent_rest (d : Dev) : (requestUrgent d).ts.reqs.map (fun r : GrantReq => { r with urgent := false }) =
    d.ts.reqs.map (fun r : GrantReq => { r with urgent := false }) := by
  rw [(requestUrgent_eff d).1, List.map_map]
  rfl

/-! Confirmation (R218, R219). -/

theorem confirmationPoint_empty {d : Dev} (hr : d.coreRuns = true) (hs : d.surveying = false) (hq : d.ts.reqs = []) :
    confirmationPoint d = d.reach (d.boundaryAfterLead 150 * 1000000 - 150000) := by
  have same : (d.reach (d.boundaryAfterLead 150 * 1000000 - 150000)).surveying = false := by
    rw [Dev.surveying, reach_rd _ _ (by decide)]
    exact hs
  have none : (d.reach (d.boundaryAfterLead 150 * 1000000 - 150000)).ts.reqs = [] := by rw [reach_ts, hq]
  unfold confirmationPoint
  rw [hr]
  dsimp only
  rw [if_neg (by decide), if_neg (by rw [same]; decide), none]
  exact ite_self _

/-- What the scheduler notes at a confirmation point is no part of the conditions for a grant. -/
theorem eligible_raiseIf (d : Dev) (c : Bool) {g : Fld} (hg : g = TS_STATUS_NOWIN_SEEN ∨ g = TS_STATUS_HOLD_BLOCK) (r : GrantReq) (m : Nat) :
    (d.raiseIf c g).eligible r m = d.eligible r m := by
  cases c
  · rfl
  have rd : ∀ f : Fld, f.bit ≠ TS_STATUS_NOWIN_SEEN.bit → f.bit ≠ TS_STATUS_HOLD_BLOCK.bit → (d.raiseIf true g).rd f = d.rd f := fun f h1 h2 => by
    rcases hg with rfl | rfl
    · exact Dev.rd_raise_ne _ h1
    · exact Dev.rd_raise_ne _ h2
  have ts : (d.raiseIf true g).ts = d.ts := rfl
  have boot : (d.raiseIf true g).boot = d.boot := rfl
  have time : (d.raiseIf true g).time = d.time := rfl
  generalize d.raiseIf true g = e at rd ts boot time
  unfold Dev.eligible Dev.slotOk Dev.slotIndex Dev.crossConflict Dev.entries Dev.table Dev.excluded Dev.supplyOk Dev.beside Dev.committed Dev.during Dev.holds
    Dev.noBerth Dev.coils Dev.decl Dev.conflict Dev.coupled Dev.entries Dev.table Dev.reqPower Dev.on Dev.bitOn
  simp (disch := (dsimp only; omega)) only [ts, boot, time, rd]

/-- A request that is eligible and alone at its confirmation point is confirmed. -/
theorem consider_confirms {m : Nat} {d : Dev} {r : GrantReq} (hq : d.ts.reqs = [r]) (ho : r.owner = .pontoon) (hc : d.rd (CH_TX_AMP_CODE r.ch) ≠ 0)
    (he : d.eligible r m = true) : ∃ x : Dev, consider m d r = confirm r m x ∧ x.ts = d.ts ∧ x.rd (CH_TX_AMP_CODE r.ch) = d.rd (CH_TX_AMP_CODE r.ch) := by
  have first : ([r] : List GrantReq).takeWhile (· ≠ r) = [] := by simp
  have code : ∀ (b c : Bool), ((d.raiseIf b TS_STATUS_NOWIN_SEEN).raiseIf c TS_STATUS_HOLD_BLOCK).rd (CH_TX_AMP_CODE r.ch) = d.rd (CH_TX_AMP_CODE r.ch) :=
    fun b c => (Dev.rd_raiseIf_ne _ _ (by dsimp only; omega)).trans (Dev.rd_raiseIf_ne _ _ (by dsimp only; omega))
  unfold consider
  rw [hq, if_neg (by simp)]
  simp only [ho]
  rw [if_neg (by simp [hc]), raiseIf_ts, raiseIf_ts, hq, first, if_pos ?_]
  · exact ⟨_, rfl, by rw [raiseIf_ts, raiseIf_ts], code _ _⟩
  · rw [eligible_raiseIf _ _ (.inr rfl), eligible_raiseIf _ _ (.inl rfl), he]
    rfl

theorem confirm_pontoon {m : Nat} {d : Dev} {r : GrantReq} (ho : r.owner = .pontoon) : (confirm r m d).ts.reqs = d.ts.reqs.erase r ∧
    ∃ g ∈ (confirm r m d).ts.grants, g.owner = .pontoon ∧ g.ch = r.ch ∧ g.coil = r.coil ∧ g.start = m ∧ g.slots = r.slots ∧
      g.power = powerOf (d.rd (CH_TX_AMP_CODE r.ch)) := by
  have supply : ∀ e : Dev, (startSupply r.ch (e.rd (CH_TX_AMP_CODE r.ch)) e).ts = e.ts := fun e =>
    (startSupply_after (Changes.refl _ _ e) (within_refl _) (covers_refl _) r.ch _).parts .ts (by decide)
  unfold confirm
  simp only [ho]
  rw [supply]
  refine ⟨rfl, _, List.mem_append_right _ (List.mem_singleton_self _), rfl, rfl, rfl, rfl, rfl, ?_⟩
  show d.reqPower r = _
  rw [Dev.reqPower, ho]

theorem confirmationPoint_grants {d e : Dev} {m : Nat} {r : GrantReq} (hr : d.coreRuns = true) (hs : d.surveying = false) (hq : d.ts.reqs = [r])
    (ho : r.owner = .pontoon) (hc : d.rd (CH_TX_AMP_CODE r.ch) ≠ 0) (hm : m = d.boundaryAfterLead 150) (he : e = d.reach (m * 1000000 - 150000))
    (hg : e.grantsAllowed = true) (hel : e.eligible r m = true) :
    (confirmationPoint d).ts.reqs = [] ∧ ∃ g ∈ (confirmationPoint d).ts.grants, g.owner = .pontoon ∧ g.ch = r.ch ∧ g.coil = r.coil ∧ g.start = m ∧
      g.slots = r.slots ∧ g.power = powerOf (d.rd (CH_TX_AMP_CODE r.ch)) := by
  have ts : e.ts = d.ts := by rw [he]; exact reach_ts _ _
  have code : e.rd (CH_TX_AMP_CODE r.ch) = d.rd (CH_TX_AMP_CODE r.ch) := by rw [he]; exact reach_rd _ _ (by dsimp only; omega)
  have surveying : e.surveying = false := by rw [he, Dev.surveying, reach_rd _ _ (by decide)]; exact hs
  have runs : confirmationPoint d = consider m e r := by
    rw [(confirmation_eff d e m hr hm he hg surveying).1, ts, hq]
    simp only [List.filter, ho, List.nil_append, List.foldl_cons, List.foldl_nil]
  obtain ⟨x, confirmed, xts, xcode⟩ := consider_confirms (m := m) (d := e) (by rw [ts, hq]) ho (by rw [code]; exact hc) hel
  obtain ⟨reqs, g, hmem, own, ch, coil, start, slots, power⟩ := confirm_pontoon (m := m) (d := x) ho
  rw [runs, confirmed]
  refine ⟨?_, g, hmem, own, ch, coil, start, slots, power.trans ?_⟩
  · rw [reqs, xts, ts, hq]
    simp
  · rw [xcode, code]

/-! The first selection of a group (R122). -/

/-- A dark channel whose outputs clamp as they have since reset. -/
def Dev.neverLit (d : Dev) (n : Nat) : Prop := (d.chan n).field.lit = false ∧ (d.chan n).field.offAt = none

theorem sendSelect_dark (k cc : Nat) (on : Bool) (coil n : Nat) {d : Dev} (h : d.neverLit n) : (sendSelect k cc on coil d).neverLit n := by
  unfold sendSelect
  dsimp only
  generalize hx : Dev.wr _ (CH_SEL_STATUS_COIL k) _ = x
  have same : x.chan n = d.chan n := by rw [← hx]; rfl
  unfold Dev.neverLit at h ⊢
  rw [← same] at h
  rcases chan_modChan_cases x k (fun c => { c with field := { c.field with sel := _ } }) n with e | e
  · exact e.symm ▸ h
  · exact e.symm ▸ h

theorem sendSelect_dark_at (k cc : Nat) (on : Bool) (coil n : Nat) (d : Dev) (hk : k < 24) (hn : n < 24) (h : k ≠ n) :
    (sendSelect k cc on coil d).rd (CH_SEL_STATUS_ON n) = d.rd (CH_SEL_STATUS_ON n) ∧
    (sendSelect k cc on coil d).rd (CH_SEL_STATUS_COIL n) = d.rd (CH_SEL_STATUS_COIL n) := by
  unfold sendSelect
  refine ⟨?_, ?_⟩
  all_goals
    refine (Dev.rd_wr_ne _ _ ?_).trans ((Dev.rd_flag_ne _ _ ?_).trans (Dev.rd_count_ne _ _ ?_))
    all_goals
      dsimp only
      omega

/-- The frame of R122 deselects a dark channel. -/
theorem selectOne_initial {d : Dev} {n : Nat} (cc m : Nat) (h : d.neverLit n) :
    (selectOne true cc m n d).rd (CH_SEL_STATUS_ON n) = 0 ∧ (selectOne true cc m n d).rd (CH_SEL_STATUS_COIL n) = 0 := by
  obtain ⟨dark, never⟩ := h
  have decayed : d.decayed n = true := by rw [Dev.decayed, never]
  have sent : selectOne true cc m n d = sendSelect n cc false 0 d := by
    unfold selectOne
    dsimp only
    rw [dark, decayed]
    rfl
  rw [sent]
  unfold sendSelect
  dsimp only
  generalize hx : (d.count (CH_SEL_STATUS_FRAMES n) 1).flag (CH_SEL_STATUS_ON n) false = x
  have off : x.rd (CH_SEL_STATUS_ON n) = 0 := by
    rw [← hx]
    exact Dev.rd_flag_same _ _ _
  show (x.wr (CH_SEL_STATUS_COIL n) 0).rd (CH_SEL_STATUS_ON n) = 0 ∧ (x.wr (CH_SEL_STATUS_COIL n) 0).rd (CH_SEL_STATUS_COIL n) = 0
  exact ⟨(Dev.rd_wr_ne _ _ (by dsimp only; omega)).trans off, (Dev.rd_wr_same _ _ _).trans (Nat.zero_mod _)⟩

theorem selectOne_sends (initial : Bool) (cc m k : Nat) (d : Dev) : ∃ (on : Bool) (coil : Nat), selectOne initial cc m k d = sendSelect k cc on coil d := by
  unfold selectOne
  dsimp only
  split
  · exact ⟨_, _, rfl⟩
  · split
    · exact ⟨_, _, rfl⟩
    · split
      · exact ⟨_, _, rfl⟩
      · split
        · exact ⟨_, _, rfl⟩
        · exact ⟨_, _, rfl⟩

/-- A dark channel that a frame of R122 passes, or that is deselected as it begins, is deselected at its end. -/
theorem selectAll_initial (cc m b n : Nat) (xs : List Nat) {d : Dev} (hn : n < 24) (hb : ∀ j ∈ xs, b + j < 24) (h : d.neverLit n)
    (hx : (∃ j ∈ xs, b + j = n) ∨ (d.rd (CH_SEL_STATUS_ON n) = 0 ∧ d.rd (CH_SEL_STATUS_COIL n) = 0)) :
    (d.each xs fun j => selectOne true cc m (b + j)).rd (CH_SEL_STATUS_ON n) = 0 ∧
    (d.each xs fun j => selectOne true cc m (b + j)).rd (CH_SEL_STATUS_COIL n) = 0 := by
  induction xs generalizing d with
  | nil =>
    rcases hx with ⟨j, hj, -⟩ | hx
    · exact absurd hj (by simp)
    · exact hx
  | cons x xs ih =>
    obtain ⟨on, coil, e⟩ := selectOne_sends true cc m (b + x) d
    refine ih (d := selectOne true cc m (b + x) d) (fun j hj => hb j (List.mem_cons_of_mem _ hj)) (by rw [e]; exact sendSelect_dark _ _ _ _ _ h) ?_
    by_cases hat : b + x = n
    · exact .inr (by rw [hat]; exact selectOne_initial cc m h)
    · rcases hx with ⟨j, hj, hjn⟩ | hx
      · rcases List.mem_cons.1 hj with rfl | hj
        · exact absurd hjn hat
        · exact .inl ⟨j, hj, hjn⟩
      · refine .inr ?_
        have kept := sendSelect_dark_at _ cc on coil n d (hb x List.mem_cons_self) hn hat
        rw [e, kept.1, kept.2]
        exact hx

theorem selectFrame_initial {d : Dev} {g : Nat} (hg : g < 6) (ha : d.applied = true)
    (hi : d.ts.selInit.contains (g, d.boundaryAfterLead (d.rd (CH_SEL_CFG_LEAD (4 * g)))) = true) :
    (selectFrame g d).ts.selInit = d.ts.selInit.filter (·.1 ≠ g) ∧
    ∀ n, n / 4 = g → d.neverLit n → (selectFrame g d).rd (CH_SEL_STATUS_ON n) = 0 ∧ (selectFrame g d).selected n = 0 := by
  generalize hl : d.rd (CH_SEL_CFG_LEAD (4 * g)) = lead at hi
  generalize hm : d.boundaryAfterLead lead = m at hi
  generalize he : d.reach (m * 1000000 - lead * 1000) = e
  have ts : e.ts = d.ts := by rw [← he]; exact reach_ts _ _
  have chans : e.chans = d.chans := by rw [← he]; exact reach_chans _ _
  have due : e.frameDue g m = true := by rw [Dev.frameDue, ts, hi]; rfl
  rw [(selectFrame_eff g d e lead m ha hl.symm hm.symm he.symm due).1, ts, hi]
  refine ⟨?_, fun n hn hd => ?_⟩
  · rw [selectAll_ts _ _ (fun _ _ => selectOne_ts _ _ _ _ _)]
  · refine selectAll_initial _ m (4 * g) n (upTo 4) (by omega) (fun j hj => by have := List.mem_range.1 hj; omega) ?_ (.inl ⟨n % 4, List.mem_range.2 (Nat.mod_lt _ (by decide)), by omega⟩)
    show e.neverLit n
    unfold Dev.neverLit
    rw [chan_of chans]
    exact hd

/-! The end of the only grant (R499). -/

theorem refuseReq_grants (r : GrantReq) (code : Nat) (d : Dev) : (refuseReq r code d).ts.grants = d.ts.grants := by
  unfold refuseReq
  split
  · exact congrArg TsSt.grants ((postIn_after (Changes.refl _ _ d) (within_refl _) (covers_refl _) _ _ _).parts .ts (by decide))
  · split
    · exact congrArg TsSt.grants ((endInventory_after (Changes.refl _ _ d) (within_refl _) (covers_refl _) _ _ _ _).parts .ts (by decide))
    · rfl
  · rfl
  · rfl

theorem dropReqs_grants (c : GrantReq → Bool) (code : Nat) (d : Dev) : (dropReqs c code d).ts.grants = d.ts.grants := by
  unfold dropReqs
  exact each_keeps (fun e : Dev => e.ts.grants) _ _ (fun r e => refuseReq_grants r code e) _

theorem endGrant_only (g : Grant) {d : Dev} (h : d.ts.grants = [g]) : (endGrant g d).ts.grants = [] := by
  have ended : ∀ b : Bool, (if b = true then endField g.ch cutGRANT_END emptyFrame (g.owner == .pontoon) d else d).ts.grants = [g] := fun b => by
    cases b
    · exact h
    · exact (endField_schedule g.ch cutGRANT_END emptyFrame _ d).1.trans h
  unfold endGrant
  dsimp only
  rw [dropReqs_grants]
  show (Dev.ts (if _ then _ else d)).grants.filter _ = []
  rw [ended]
  simp

theorem endGrants_only {d : Dev} {g : Grant} (h : d.ts.grants = [g]) (ho : g.isOpen = false) (hm : g.start + g.slots ≤ d.ms) :
    (endGrants d).ts.grants = [] := by
  unfold endGrants
  rw [h, List.filter_cons_of_pos (by simp [ho, hm]), List.filter_nil]
  exact endGrant_only g h

/-- Settles O56: the schedule's commands by their effects, the fatal errors by whether the handler runs already. -/
theorem grantsAndFatalErrorsComplete : Obligations.GrantsAndFatalErrorsComplete := by
  intro s
  have core : ∀ ms, s.dev.coreRuns = true → (s.dev.begun.atCount ms).coreRuns = true := fun ms h =>
    (coreRuns_of (atCount_power _ ms) (atCount_rd _ ms (rows_not (by decide))) (atCount_rd _ ms (rows_not (by decide)))).trans h
  refine ⟨fun p w hr h => Completes.ofPort _ rfl hr ?_, ?_, Completes.effect _ rfl ⟨requestUrgent_urgent _, requestUrgent_rest _, rfl, rfl⟩,
    fun hr hs hq => Completes.effect _ rfl ?_, fun r m e hr hs hq ho hc hm he hg hel => Completes.effect _ rfl ?_,
    fun g lead ha hl hi => Completes.effect _ rfl ?_, fun n g hi hg hn ho => ?_, fun hr hh => ⟨fun hart first second => Completes.effect _ rfl ?_,
      fun tile ha hf => Completes.effect _ rfl ?_, fun hw => Completes.effect _ rfl ?_, fun a seq hp ha => Completes.effect _ rfl ?_⟩,
    fun hr hh => ⟨fun hart first second ht => Completes.effect _ rfl ?_, fun hart first second ht => Completes.effect _ rfl ?_,
      fun ho harts ring => Completes.effect _ rfl ?_, fun ho => Completes.effect _ rfl ?_, Completes.effect _ rfl ?_⟩⟩
  · rw [grantRequest_first p w _ (by rw [accessed_ts]; exact h)]
    refine ⟨?_, accessed_regs _ _, Dev.accessed_mem _ _⟩
    show { (s.dev.accessed p).ts with asm := (s.dev.accessed p).ts.asm ++ [(p, w)] } = _
    rw [accessed_ts]
  · rintro p w w0 ch coil slots hr h rfl rfl rfl hch hfw hrd hcoil hhand hslots hexc
    refine ((grantRequest_row s p w hr).2 w0 h hch hfw hrd hcoil (fun k => ?_) hslots hexc).imp fun d k => ?_
    · rw [hhand] at k
      exact absurd k Bool.false_ne_true
    · obtain ⟨reqs, -, regs, mem⟩ := k
      rw [hhand] at reqs
      exact ⟨reqs, regs, mem⟩
  · rw [confirmationPoint_empty (d := s.dev.begun) (by exact hr) (by exact hs) (by exact hq)]
    exact ⟨reach_ts _ _, reach_chans _ _, reach_mem _ _⟩
  · obtain ⟨reqs, granted⟩ := confirmationPoint_grants (d := s.dev.begun) hr hs hq ho hc hm he hg hel
    exact ⟨reqs, granted,
      (confirmationPoint_after (Changes.refl _ _ s.dev.begun) (within_refl _) (covers_refl _)).parts .mem (by decide)⟩
  · obtain ⟨init, sel⟩ := selectFrame_initial (d := s.dev.begun) g.isLt ha (by rw [hl] at hi; exact hi)
    exact ⟨init, (selectFrame_after (Changes.refl _ _ s.dev.begun) (within_refl _) (covers_refl _) g.val).parts .mem (by decide),
      fun n hn dark never => sel n hn ⟨dark, never⟩⟩
  · refine (grantEnd_row s n g hn ho).imp fun d k => ?_
    obtain ⟨ended, mem⟩ := k
    rw [ended]
    refine ⟨(rampInOne_noneGranted _ _).2 ?_, ended ▸ mem⟩
    rw [followListeners_ts]
    exact endGrants_only ((congrArg TsSt.grants (reach_ts _ _)).trans hg) ho (reach_ms_le s.dev.begun _ hi)
  · rw [doubleTrap_runs (d := s.dev.begun) (by exact hr)]
    obtain ⟨source, bits, -, -, handling, of, -, -, -, mem⟩ := fatal_starts (src := 1) (by decide) (by decide) hart.val
      (leBytes 4 hart ++ leBytes 4 first.toNat ++ leBytes 4 second.toNat ++ leBytes 4 0) (d := s.dev.begun) hh
    exact ⟨source, bits, handling, of, mem⟩
  · rw [deckParity_runs (d := s.dev.begun) (by exact ha) (by exact hf)]
    generalize leBytes 1 tile.val ++ _ ++ _ ++ _ = detail
    obtain ⟨source, bits, -, -, handling, -, -, -, -, mem⟩ := fatal_starts (src := 2) (by decide) (by decide) 0xFF detail (d := s.dev.begun) hh
    exact ⟨source, bits, handling, mem⟩
  · rw [wdogPre_runs (d := s.dev.begun) (by exact hr) (by exact hw) (by exact hh)]
    generalize leBytes 4 _ ++ _ = detail
    obtain ⟨source, bits, -, -, handling, -, -, -, -, mem⟩ := fatal_starts (src := 3) (by decide) (by decide) 0xFF detail
      ((congrArg FdSt.handling (atCount_fd s.dev.begun _)).trans hh)
    exact ⟨source, bits, handling, mem.trans (atCount_mem _ _)⟩
  · rw [journalEcc_runs (d := s.dev.begun) seq.toNat (by exact hr) (by exact hp) ha]
    obtain ⟨source, bits, -, -, handling, -, -, -, -, mem⟩ := fatal_starts (src := 4) (by decide) (by decide) 0xFF
      (leBytes 4 a.toNat ++ leBytes 4 0 ++ leBytes 8 seq.toNat) (d := s.dev.begun) hh
    exact ⟨source, bits, handling, mem⟩
  · rw [doubleTrap_runs (d := s.dev.begun) (by exact hr)]
    obtain ⟨source, set, handling, -, -, mem⟩ := fatal_joins (src := 1) (by decide) (by decide) hart.val
      (leBytes 4 hart ++ leBytes 4 first.toNat ++ leBytes 4 second.toNat ++ leBytes 4 0) (d := s.dev.begun) hh ht
    exact ⟨set, source, handling, mem⟩
  · rw [doubleTrap_runs (d := s.dev.begun) (by exact hr), fatal_nested _ _ _ (by exact hh) (by exact ht)]
    obtain ⟨hold, -, -, ended⟩ := handlerReset_raised (d := s.dev.begun) hr (f := FD_FATAL_NESTED) (by decide) (by decide)
    exact ⟨handlerReset_nested (d := s.dev.begun) hr, hold, ended⟩
  · exact crashSlotWritten_eff _ _ (d := s.dev.begun) hr hh ho
  · obtain ⟨⟨hold, -, fatal, ended⟩, dram⟩ := dramDumpWritten_eff (d := s.dev.begun) hr hh ho
    exact ⟨hold, fatal, ended, dram⟩
  · obtain ⟨out, hold, -, fatal, ended⟩ := handlerTimeout_eff (d := s.dev.begun) hr hh
    exact ⟨out, hold, fatal, ended⟩

end Sys2Proof.Machine
end

section
/-!
Calibration and its fuse records (18_calibration.md).
-/

namespace Sys2Proof.Machine

/-- What each item of a list without repetitions leads to, where the others keep what it meets and what it leads to. -/
theorem each_once {α : Type} {f : α → Dev → Dev} {xs : List α} {x : α} (P Q : Dev → Prop) (nd : xs.Nodup) (hx : x ∈ xs)
    (before : ∀ y ∈ xs, y ≠ x → ∀ e, P e → P (f y e)) (hit : ∀ e, P e → Q (f x e)) (after : ∀ y ∈ xs, y ≠ x → ∀ e, Q e → Q (f y e))
    {d : Dev} (hd : P d) : Q (d.each xs f) := by
  have stays : ∀ (ys : List α) (e : Dev), (∀ y ∈ ys, y ∈ xs ∧ y ≠ x) → Q e → Q (e.each ys f) := fun ys => by
    induction ys with
    | nil => exact fun e _ h => h
    | cons y ys ih =>
      exact fun e hy h => ih _ (fun z hz => hy z (List.mem_cons_of_mem _ hz))
        (after y (hy y List.mem_cons_self).1 (hy y List.mem_cons_self).2 e h)
  have reaches : ∀ (ys : List α) (e : Dev), (∀ y ∈ ys, y ∈ xs) → ys.Nodup → x ∈ ys → P e → Q (e.each ys f) := fun ys => by
    induction ys with
    | nil => exact fun e _ _ h => absurd h List.not_mem_nil
    | cons y ys ih =>
      intro e sub nd hm he
      obtain ⟨fresh, nd⟩ := List.nodup_cons.1 nd
      by_cases hy : y = x
      · subst hy
        exact stays ys _ (fun z hz => ⟨sub z (List.mem_cons_of_mem _ hz), fun k => fresh (k ▸ hz)⟩) (hit e he)
      · exact ih _ (fun z hz => sub z (List.mem_cons_of_mem _ hz)) nd ((List.mem_cons.1 hm).resolve_left (Ne.symm hy))
          (before y (sub y List.mem_cons_self) hy e he)
  exact reaches xs d (fun _ h => h) nd hx hd

/-! Steps 1 and 4 (R421 to R423). -/

theorem calWait_cl (us : Nat) (d : Dev) : (calWait us d).cl = d.cl :=
  (calWait_after (Changes.refl _ _ d) (within_refl _) (covers_refl _) us).parts .cl (by decide)

theorem calWait_rd (us : Nat) (d : Dev) {f : Fld} (h : ¬ Rows [.one 98752] f.bit) : (calWait us d).rd f = d.rd f :=
  (calWait_after (Changes.refl _ _ d) (within_refl _) (covers_refl _) us).rd h

theorem calWait_mem (us : Nat) (d : Dev) : (calWait us d).mem = d.mem :=
  (calWait_after (Changes.refl _ _ d) (within_refl _) (covers_refl _) us).parts .mem (by decide)

theorem calStepDone_references {d : Dev} (hr : d.on CL_STATUS_RUNNING = true) (hc : d.coreRuns = true) (hs : d.rd CL_STATUS_STEP = 1)
    (dev lvl ppm : Int) (iref ofs slope : Nat) :
    let e := calStepDone dev lvl ppm iref ofs slope d
    e.cl.refres = refresState dev ∧ e.cl.reftone = (if refresState dev = 0 then reftoneState lvl ppm else 3) ∧ e.cl.iref = iref ∧
    e.rd CL_STATUS_STEP = (if e.cl.reftone = 0 then 2 else 4) ∧ e.mem = d.mem := by
  intro e
  have he : e = calStepDone dev lvl ppm iref ofs slope d := rfl
  clear_value e
  unfold calStepDone at he
  rw [if_neg (by simp [hr, hc]), if_pos hs] at he
  subst he
  refine ⟨rfl, rfl, rfl, (Dev.rd_wr_same _ _ _).trans ?_, calWait_mem _ _⟩
  show (if (if refresState dev = 0 then reftoneState lvl ppm else 3) = 0 then 2 else 4) % 2 ^ 3 =
    if (if refresState dev = 0 then reftoneState lvl ppm else 3) = 0 then 2 else 4
  generalize (if refresState dev = 0 then reftoneState lvl ppm else 3) = tone
  split <;> rfl

theorem calStepDone_temperature {d : Dev} (hr : d.on CL_STATUS_RUNNING = true) (hc : d.coreRuns = true) (hs : d.rd CL_STATUS_STEP = 4)
    (dev lvl ppm : Int) (iref ofs slope : Nat) :
    let e := calStepDone dev lvl ppm iref ofs slope d
    e.cl.tempOfs = ofs ∧ e.cl.tempSlope = slope ∧
    e.rd CL_STATUS_STEP = (if d.cl.chans.toList.any fun c => c.aside && !c.lost then 5 else 6) ∧ e.mem = d.mem := by
  intro e
  have he : e = calStepDone dev lvl ppm iref ofs slope d := rfl
  clear_value e
  unfold calStepDone at he
  rw [if_neg (by simp [hr, hc]), if_neg (by rw [hs]; decide), if_pos hs] at he
  subst he
  refine ⟨rfl, rfl, (Dev.rd_wr_same _ _ _).trans ?_, calWait_mem _ _⟩
  show (if ((calWait 12000 d).cl.chans.toList.any fun c => c.aside && !c.lost) = true then 5 else 6) % 2 ^ 3 = _
  rw [calWait_cl]
  split <;> rfl

/-! The blocks of steps 2 and 3 (R424, R429). -/

/-- The channel after a block on it. -/
def judgeBlock (m : CalMeas) (c : ClChan) : ClChan :=
  if m.before || m.after then { c with aside := true, fails := c.fails + 1, lost := decide (4 ≤ c.fails + 1) }
  else
    let c := { c with done := c.done + 1, fails := 0 }
    let c := if c.done ≤ 8 then
        { c with trim := { c.trim with gain := m.gain.toNat, offset := m.offset.toNat }, cmpSpares := m.cmpSpares.val,
                 capSpares := m.capSpares.val, factory := { c.factory with gain := m.fGain.toNat, offset := m.fOffset.toNat } }
      else { c with trim := { c.trim with amp := m.amp.toNat }, txSpares := m.txSpares.val,
                    factory := { c.factory with amp := m.fAmp.toNat } }
    if c.done = 22 then { c with aside := false } else c

theorem calOne_at (m : CalMeas) {n : Nat} (hn : n < 24) (d : Dev) : (calOne m n d).clChan n = judgeBlock m (d.clChan n) := vget_vmod_same _ _ _ _ hn

theorem calOne_other (m : CalMeas) {n k : Nat} (h : k ≠ n) (d : Dev) : (calOne m n d).clChan k = d.clChan k := vget_vmod_ne _ _ _ h

/-- A block on one channel of the group, unless it has been set aside. -/
def blockOn (x : Nat × CalMeas) (d : Dev) : Dev := if (d.clChan x.1).aside then d else calOne x.2 x.1 d

/-- A regular block for VRF group `g`. -/
def groupBlock (g : Nat) (m : Fin 4 → CalMeas) (d : Dev) : Dev := d.each (((upTo 4).map (4 * g + ·)).zip [m 0, m 1, m 2, m 3]) blockOn

theorem blockOn_cl (x : Nat × CalMeas) (d : Dev) : ∃ c : ClSt, blockOn x d = { d with cl := c } ∧ c.block = d.cl.block := by
  unfold blockOn
  split
  · exact ⟨d.cl, rfl, rfl⟩
  · exact ⟨_, rfl, rfl⟩

theorem groupBlock_cl (g : Nat) (m : Fin 4 → CalMeas) (d : Dev) : ∃ c : ClSt, groupBlock g m d = { d with cl := c } ∧ c.block = d.cl.block := by
  unfold groupBlock
  generalize List.zip _ _ = xs
  induction xs generalizing d with
  | nil => exact ⟨d.cl, rfl, rfl⟩
  | cons x xs ih =>
    obtain ⟨c, e, hb⟩ := blockOn_cl x d
    obtain ⟨c', e', hb'⟩ := ih (blockOn x d)
    refine ⟨c', e'.trans ?_, hb'.trans ?_⟩
    · rw [e]
    · rw [e]
      exact hb

/-- A regular block on each channel of its group. -/
theorem groupBlock_at {g : Nat} (hg : g < 6) (m : Fin 4 → CalMeas) (k : Fin 4) (d : Dev) : (groupBlock g m d).clChan (4 * g + k.val) =
    if (d.clChan (4 * g + k.val)).aside then d.clChan (4 * g + k.val) else judgeBlock (m k) (d.clChan (4 * g + k.val)) := by
  generalize hc : d.clChan (4 * g + k.val) = c
  have items : ((upTo 4).map (4 * g + ·)).zip [m 0, m 1, m 2, m 3] = [(4 * g + 0, m 0), (4 * g + 1, m 1), (4 * g + 2, m 2), (4 * g + 3, m 3)] := rfl
  have distinct : ∀ y ∈ ((upTo 4).map (4 * g + ·)).zip [m 0, m 1, m 2, m 3], y ≠ (4 * g + k.val, m k) → 4 * g + k.val ≠ y.1 := by
    rw [items]
    intro y hy hne hk
    simp only [List.mem_cons, List.not_mem_nil, or_false] at hy
    have same : k.val = y.1 - 4 * g := by omega
    rcases hy with rfl | rfl | rfl | rfl
    · have at_ : k = 0 := Fin.ext (show k.val = 0 by dsimp only at same; omega)
      exact hne (by rw [at_]; rfl)
    · have at_ : k = 1 := Fin.ext (show k.val = 1 by dsimp only at same; omega)
      exact hne (by rw [at_]; rfl)
    · have at_ : k = 2 := Fin.ext (show k.val = 2 by dsimp only at same; omega)
      exact hne (by rw [at_]; rfl)
    · have at_ : k = 3 := Fin.ext (show k.val = 3 by dsimp only at same; omega)
      exact hne (by rw [at_]; rfl)
  have others : ∀ (v : ClChan), ∀ y ∈ ((upTo 4).map (4 * g + ·)).zip [m 0, m 1, m 2, m 3], y ≠ (4 * g + k.val, m k) → ∀ e : Dev,
      e.clChan (4 * g + k.val) = v → (blockOn y e).clChan (4 * g + k.val) = v := fun v y hy hne e he => by
    unfold blockOn
    split
    · exact he
    · exact (calOne_other _ (distinct y hy hne) _).trans he
  unfold groupBlock
  refine each_once (x := (4 * g + k.val, m k)) (fun e => e.clChan (4 * g + k.val) = c)
    (fun e => e.clChan (4 * g + k.val) = if c.aside then c else judgeBlock (m k) c) ?_ ?_ (others c) (fun e he => ?_) (others _) hc
  · rw [items]
    simp
  · rw [items]
    obtain ⟨k, hk⟩ := k
    match k, hk with
    | 0, _ => simp
    | 1, _ => simp
    | 2, _ => simp
    | 3, _ => simp
  · unfold blockOn
    rw [he]
    split
    · exact he
    · rw [calOne_at _ (by omega), he]

/-- What a regular block finds of a channel that is not set aside. -/
theorem judgeBlock_spec (m : CalMeas) (c : ClChan) (h : c.aside = false) :
    ((m.before || m.after) = true → (judgeBlock m c).aside = true ∧ (judgeBlock m c).fails = c.fails + 1 ∧ (judgeBlock m c).done = c.done) ∧
    ((m.before || m.after) = false → (judgeBlock m c).aside = false ∧ (judgeBlock m c).fails = 0 ∧ (judgeBlock m c).done = c.done + 1 ∧
      (if c.done < 8 then (judgeBlock m c).trim.gain = m.gain.toNat ∧ (judgeBlock m c).trim.offset = m.offset.toNat else (judgeBlock m c).trim.amp = m.amp.toNat)) := by
  refine ⟨fun hm => ?_, fun hm => ?_⟩
  · unfold judgeBlock
    rw [hm, if_pos rfl]
    exact ⟨rfl, rfl, rfl⟩
  · unfold judgeBlock
    rw [hm, if_neg (by decide)]
    dsimp only
    by_cases h8 : c.done + 1 ≤ 8
    · rw [if_pos h8, if_pos (show c.done < 8 by omega), if_neg (show ¬ c.done + 1 = 22 by omega)]
      exact ⟨h, rfl, rfl, rfl, rfl⟩
    · rw [if_neg h8, if_neg (show ¬ c.done < 8 by omega)]
      split
      · exact ⟨rfl, rfl, rfl, rfl⟩
      · exact ⟨h, rfl, rfl, rfl⟩

/-- The part as the next block begins. -/
def Dev.blockBegun (d : Dev) : Dev := d.reach (d.blockSlot * 1000000 + 100000)

theorem blockBegun_cl (d : Dev) : d.blockBegun.cl = d.cl :=
  (Dev.elapse_after (Changes.refl _ _ d) (within_refl _) (covers_refl _) _).parts .cl (by decide)

theorem slotOver_cl (d : Dev) : (slotOver d).cl = d.cl :=
  (slotOver_after (Changes.refl _ _ d) (within_refl _) (covers_refl _)).parts .cl (by decide)

theorem slotOver_mem (d : Dev) : (slotOver d).mem = d.mem :=
  (slotOver_after (Changes.refl _ _ d) (within_refl _) (covers_refl _)).parts .mem (by decide)

theorem calBlock_runs {d : Dev} {b g : Nat} (m : Fin 4 → CalMeas) (hr : d.on CL_STATUS_RUNNING = true) (hc : d.coreRuns = true) (hb : d.cl.block = b)
    (hs : d.rd CL_STATUS_STEP = 2 ∨ d.rd CL_STATUS_STEP = 3 ∧ d.on PW_STATUS_THERM_SHUT = false) (hg : g = if b < 48 then b / 8 else (b - 48) / 14) :
    let x := (groupBlock g m d.blockBegun).modCl fun c => { c with block := b + 1 }
    calBlock [m 0, m 1, m 2, m 3] d =
      if b + 1 < 132 then x.wr CL_STATUS_STEP (if b + 1 < 48 then 2 else 3) else (slotOver x).wr CL_STATUS_STEP 4 := by
  have begun : d.blockBegun.cl.block = b := (congrArg ClSt.block (blockBegun_cl d)).trans hb
  have go : ¬ (d.rd CL_STATUS_STEP = 3 ∧ d.on PW_STATUS_THERM_SHUT = true) := by
    rintro ⟨h3, ht⟩
    rcases hs with h | ⟨-, h⟩
    · omega
    · rw [h] at ht
      exact Bool.false_ne_true ht
  have phase : d.rd CL_STATUS_STEP = 2 ∨ d.rd CL_STATUS_STEP = 3 := hs.imp_right And.left
  unfold calBlock
  dsimp only
  rw [if_neg (by simp [hr, hc]), if_pos (by simpa using phase), if_neg (by simpa using go)]
  rw [show d.reach (d.blockSlot * 1000000 + 100000) = d.blockBegun from rfl, begun, ← hg]
  rfl

theorem calBlock_eff {d : Dev} {b g : Nat} (m : Fin 4 → CalMeas) (hr : d.on CL_STATUS_RUNNING = true) (hc : d.coreRuns = true) (hb : d.cl.block = b)
    (hs : d.rd CL_STATUS_STEP = 2 ∧ b < 48 ∨ d.rd CL_STATUS_STEP = 3 ∧ 48 ≤ b ∧ b < 132 ∧ d.on PW_STATUS_THERM_SHUT = false)
    (hg : g = if b < 48 then b / 8 else (b - 48) / 14) :
    let e := calBlock [m 0, m 1, m 2, m 3] d
    e.cl.block = b + 1 ∧ e.rd CL_STATUS_STEP = (if b + 1 < 48 then 2 else if b + 1 < 132 then 3 else 4) ∧ e.mem = d.mem ∧
    ∀ k : Fin 4, e.clChan (4 * g + k.val) =
      if (d.clChan (4 * g + k.val)).aside then d.clChan (4 * g + k.val) else judgeBlock (m k) (d.clChan (4 * g + k.val)) := by
  have hg6 : g < 6 := by
    rw [hg]
    split <;> omega
  have runs := calBlock_runs m hr hc hb (hs.imp And.left fun k => ⟨k.1, k.2.2.2⟩) hg
  have at_ := fun k => groupBlock_at hg6 m k d.blockBegun
  obtain ⟨c, grouped, -⟩ := groupBlock_cl g m d.blockBegun
  have mem : (groupBlock g m d.blockBegun).mem = d.mem := by
    rw [grouped]
    exact reach_mem _ _
  have begun : ∀ n, d.blockBegun.clChan n = d.clChan n := fun n => by
    unfold Dev.clChan
    rw [blockBegun_cl]
  dsimp only at runs
  generalize groupBlock g m d.blockBegun = y at runs at_ mem
  simp only [begun] at at_
  intro e
  have he : e = _ := runs
  clear_value e
  by_cases hl : b + 1 < 132
  · rw [if_pos hl] at he
    subst he
    refine ⟨rfl, (Dev.rd_wr_same _ _ _).trans ?_, mem, at_⟩
    rw [if_pos hl]
    split <;> rfl
  · rw [if_neg hl] at he
    subst he
    have stands : ((slotOver (y.modCl fun c => { c with block := b + 1 })).wr CL_STATUS_STEP 4).cl = { y.cl with block := b + 1 } := slotOver_cl _
    refine ⟨congrArg ClSt.block stands, (Dev.rd_wr_same _ _ _).trans ?_, (slotOver_mem _).trans mem, fun k => ?_⟩
    · rw [if_neg hl, if_neg (by omega)]
      rfl
    · unfold Dev.clChan
      rw [stands]
      exact at_ k


/-! Finishing (R425, R427, R436). -/

/-- The channels that trace, and those that a foreign field has left untraced. -/
def Dev.tracedChans (d : Dev) : List Nat :=
  (upTo 24).filter fun n => decide (d.cl.refres = 0) && decide (d.cl.reftone = 0) && decide ((d.clChan n).done = 22) && !(d.clChan n).lost
def Dev.foreignChans (d : Dev) : List Nat := (upTo 24).filter fun n => (d.clChan n).lost


/-- The results beside the channels', from the fallback trims and their source. -/
def globalResults (fb : Trims) (src : Nat) (d : Dev) : Dev :=
  let c := d.cl
  let s1 := c.refres = 0
  let tone := c.reftone = 0
  let mask (ks : List Nat) : Nat := (ks.map (2 ^ ·)).sum
  let x := ((d.wr CL_STATUS_REFRES c.refres).wr CL_STATUS_REFTONE c.reftone).flag CL_STATUS_IREF_TRACED s1
  let x := (x.flag CL_STATUS_TEMP_TRACED s1).flag CL_STATUS_ALL_TRACED (decide (d.tracedChans.length = 24))
  let x := (x.raiseIf (!d.foreignChans.isEmpty) CL_STATUS_FOREIGN_SEEN).raiseIf (!(s1 && tone)) CL_STATUS_REF_SEEN
  let x := (x.wr CL_TRACE_CH (mask d.tracedChans)).wr CL_FOREIGN_CH (mask d.foreignChans)
  let x := ((x.wr CL_REF_RES_DEV (satSigned 8 c.resDev)).wr CL_REF_TONE_LVL (satSigned 8 c.toneLvl)).wr CL_REF_TONE_PPM (satSigned 16 c.tonePpm)
  let x := (x.wr CL_GLOBAL_IREF (if s1 then c.iref else fb.iref)).wr CL_GLOBAL_TEMP_OFS (if s1 then c.tempOfs else fb.tempOfs)
  let x := (x.wr CL_GLOBAL_TEMP_SLOPE (if s1 then c.tempSlope else fb.tempSlope)).wr CL_GLOBAL_IREF_SOURCE (if s1 then 0 else src)
  x.wr CL_GLOBAL_TEMP_SOURCE (if s1 then 0 else src)

/-- One channel's results. -/
def channelResults (traced foreign : List Nat) (fb : Trims) (src n : Nat) (d : Dev) : Dev :=
  let x := d.clChan n
  let ok := traced.contains n
  let d := putChTrim n (if ok then x.trim else fb.ch.getD n ChTrim.zero) (if ok then 0 else src) d
  let d := ((d.wr (CL_CH_TX_SPARES n) (if ok then x.txSpares else 0)).wr (CL_CH_CMP_SPARES n) (if ok then x.cmpSpares else 0)).wr
    (CL_CH_CAP_SPARES n) (if ok then x.capSpares else 0)
  (d.flag (CL_CH_FOREIGN n) (foreign.contains n)).flag (CL_CH_TRACED n) ok

theorem calResults_rd (d : Dev) (f : Fld) : (calResults d).rd f =
    ((globalResults d.fallback.1 d.fallback.2 d).each (upTo 24) (channelResults d.tracedChans d.foreignChans d.fallback.1 d.fallback.2)).rd f := by
  unfold calResults globalResults Dev.tracedChans Dev.foreignChans
  dsimp only
  generalize upTo 24 = xs
  rfl

theorem channelResults_rd (traced foreign : List Nat) (fb : Trims) (src n : Nat) (d : Dev) {f : Fld}
    (h : ∀ b, b < 32 → f.bit ≠ (0x2100 + n % 24 * 4) * 8 + b) : (channelResults traced foreign fb src n d).rd f = d.rd f := by
  unfold channelResults putChTrim
  rw [Dev.rd_flag_ne _ _ (h 5 (by decide)), Dev.rd_flag_ne _ _ (h 6 (by decide)), Dev.rd_wr_ne _ _ (h 9 (by decide)),
    Dev.rd_wr_ne _ _ (h 11 (by decide)), Dev.rd_wr_ne _ _ (h 13 (by decide)), Dev.rd_wr_ne _ _ (h 7 (by decide)),
    Dev.rd_wr_ne _ _ (h 16 (by decide)), Dev.rd_wr_ne _ _ (h 21 (by decide)), Dev.rd_wr_ne _ _ (h 26 (by decide))]

theorem calResults_channels (n : Nat) (hn : n < 24) (d : Dev) :
    (calResults d).rd (CL_CH_TRACED n) = b2n (d.tracedChans.contains n) ∧ (calResults d).rd (CL_CH_FOREIGN n) = b2n (d.foreignChans.contains n) := by
  rw [calResults_rd, calResults_rd]
  generalize globalResults _ _ d = x
  generalize d.tracedChans = traced
  generalize d.foreignChans = foreign
  refine each_once (x := n) (fun _ => True) (fun e => e.rd (CL_CH_TRACED n) = b2n (traced.contains n) ∧ e.rd (CL_CH_FOREIGN n) = b2n (foreign.contains n))
    List.nodup_range (List.mem_range.2 hn) (fun _ _ _ _ h => h) (fun e _ => ⟨?_, ?_⟩) (fun y hy hne e h => ?_) trivial
  · refine (Dev.rd_flag_same _ _ _).trans ?_
    cases traced.contains n <;> rfl
  · refine (Dev.rd_flag_ne _ _ (by dsimp only; omega)).trans ((Dev.rd_flag_same _ _ _).trans ?_)
    cases foreign.contains n <;> rfl
  · have hy := List.mem_range.1 hy
    exact ⟨(channelResults_rd _ _ _ _ _ _ fun b hb => by dsimp only; omega).trans h.1,
      (channelResults_rd _ _ _ _ _ _ fun b hb => by dsimp only; omega).trans h.2⟩

theorem calResults_globals (d : Dev) : (calResults d).rd CL_STATUS_IREF_TRACED = (if d.cl.refres = 0 then 1 else 0) ∧
    (calResults d).rd CL_STATUS_TEMP_TRACED = (if d.cl.refres = 0 then 1 else 0) := by
  have flag : ∀ (x : Dev) (f : Fld), f.w = 1 → (x.flag f (decide (d.cl.refres = 0))).rd f = if d.cl.refres = 0 then 1 else 0 := fun x f h => by
    rw [Dev.rd_flag_same, h]
    by_cases hr : d.cl.refres = 0
    · rw [decide_eq_true hr, if_pos hr]
      rfl
    · rw [decide_eq_false hr, if_neg hr]
      rfl
  have kept : ∀ (f : Fld), f.bit < 0x2100 * 8 → (calResults d).rd f = (globalResults d.fallback.1 d.fallback.2 d).rd f := fun f h =>
    (calResults_rd d f).trans (each_keeps (fun e : Dev => e.rd f) _ _ (fun n e => channelResults_rd _ _ _ _ _ _ fun b _ => by omega) _)
  rw [kept _ (by decide), kept _ (by decide)]
  unfold globalResults
  simp (disch := decide) only [Dev.rd_wr_ne, Dev.rd_raiseIf_ne, Dev.rd_flag_ne]
  exact ⟨flag _ _ rfl, flag _ _ rfl⟩

theorem contains_tracedChans (d : Dev) {n : Nat} (hn : n < 24) : b2n (d.tracedChans.contains n) =
    if d.cl.refres = 0 ∧ d.cl.reftone = 0 ∧ (d.clChan n).done = 22 ∧ (d.clChan n).lost = false then 1 else 0 := by
  have hm : d.tracedChans.contains n = true ↔ d.cl.refres = 0 ∧ d.cl.reftone = 0 ∧ (d.clChan n).done = 22 ∧ (d.clChan n).lost = false := by
    simp [Dev.tracedChans, upTo, hn, and_assoc]
  by_cases h : d.tracedChans.contains n = true
  · rw [h, if_pos (hm.1 h)]
    rfl
  · rw [Bool.eq_false_iff.2 h, if_neg fun k => h (hm.2 k)]
    rfl

theorem contains_foreignChans (d : Dev) {n : Nat} (hn : n < 24) : b2n (d.foreignChans.contains n) = if (d.clChan n).lost then 1 else 0 := by
  have hm : d.foreignChans.contains n = (d.clChan n).lost := by simp [Dev.foreignChans, upTo, hn]
  rw [hm]
  cases (d.clChan n).lost <;> rfl

theorem calFinish_runs {d : Dev} (hr : d.on CL_STATUS_RUNNING = true) (hc : d.coreRuns = true) (hs : d.rd CL_STATUS_STEP = 6)
    (hp : d.boot.phase = .runtime) :
    calFinish d = (((calCount (calResults (calWait 4000 d))).lower CL_STATUS_RUNNING).wr CL_STATUS_STEP 0).wr PW_STATE_CUR 1 := by
  have boot : (calCount (calResults (calWait 4000 d))).boot = d.boot :=
    ((calCount_after (Changes.refl _ _ _) (within_refl _) (covers_refl _)).parts .boot (by decide)).trans
      (((calResults_after (Changes.refl _ _ _) (within_refl _) (covers_refl _)).parts .boot (by decide)).trans
        ((calWait_after (Changes.refl _ _ d) (within_refl _) (covers_refl _) 4000).parts .boot (by decide)))
  unfold calFinish
  rw [if_neg (by simp [hr, hc, hs])]
  refine if_neg ?_
  show (calCount (calResults (calWait 4000 d))).boot.phase ≠ .trim
  rw [boot, hp]
  decide

/-- Finishing: the results, the count, and Run. -/
theorem calFinish_eff {d : Dev} (hr : d.on CL_STATUS_RUNNING = true) (hc : d.coreRuns = true) (hs : d.rd CL_STATUS_STEP = 6)
    (hp : d.boot.phase = .runtime) :
    let e := calFinish d
    e.rd CL_STATUS_RUNNING = 0 ∧ e.rd CL_STATUS_STEP = 0 ∧ e.rd PW_STATE_CUR = 1 ∧
    e.rd CL_COUNT_COUNT = min (d.rd CL_COUNT_COUNT + 1) 0xFFFFFFFF ∧ e.rd CL_STATUS_COUNT_DIRTY = 1 ∧
    e.rd CL_STATUS_IREF_TRACED = (if d.cl.refres = 0 then 1 else 0) ∧ e.rd CL_STATUS_TEMP_TRACED = (if d.cl.refres = 0 then 1 else 0) ∧
    (∀ n : Fin 24, e.rd (CL_CH_TRACED n.val) =
      (if d.cl.refres = 0 ∧ d.cl.reftone = 0 ∧ (d.clChan n.val).done = 22 ∧ (d.clChan n.val).lost = false then 1 else 0)) ∧
    (∀ n : Fin 24, e.rd (CL_CH_FOREIGN n.val) = (if (d.clChan n.val).lost then 1 else 0)) := by
  have runs := calFinish_runs hr hc hs hp
  have cl := calWait_cl 4000 d
  have count := calWait_rd 4000 d (f := CL_COUNT_COUNT) (rows_not (by decide))
  generalize calWait 4000 d = w at runs cl count
  have chan : ∀ n, w.clChan n = d.clChan n := fun n => by
    unfold Dev.clChan
    rw [cl]
  have channels : ∀ n : Fin 24, (calResults w).rd (CL_CH_TRACED n.val) =
      (if d.cl.refres = 0 ∧ d.cl.reftone = 0 ∧ (d.clChan n.val).done = 22 ∧ (d.clChan n.val).lost = false then 1 else 0) ∧
      (calResults w).rd (CL_CH_FOREIGN n.val) = (if (d.clChan n.val).lost then 1 else 0) := fun n => by
    obtain ⟨traced, foreign⟩ := calResults_channels n.val n.isLt w
    rw [contains_tracedChans w n.isLt, cl, chan] at traced
    rw [contains_foreignChans w n.isLt, chan] at foreign
    exact ⟨traced, foreign⟩
  have globals := calResults_globals w
  rw [cl] at globals
  have uncounted : (calResults w).rd CL_COUNT_COUNT = d.rd CL_COUNT_COUNT :=
    ((calResults_after (Changes.refl _ _ w) (within_refl _) (covers_refl _)).rd (rows_not (by decide))).trans count
  generalize calResults w = y at runs channels globals uncounted
  have counted : (calCount y).rd CL_COUNT_COUNT = min (d.rd CL_COUNT_COUNT + 1) 0xFFFFFFFF ∧ (calCount y).rd CL_STATUS_COUNT_DIRTY = 1 := by
    unfold calCount
    refine ⟨?_, ?_⟩
    · simp (disch := decide) only [Dev.rd_wr_ne, Dev.rd_raise_ne]
      refine (Dev.rd_wr_same _ _ _).trans ?_
      rw [uncounted]
      exact Nat.mod_eq_of_lt (show min (d.rd CL_COUNT_COUNT + 1) 0xFFFFFFFF < 2 ^ 32 by omega)
    · exact (Dev.rd_wr_ne _ _ (by decide)).trans (Dev.rd_raise_same _ _)
  have kept : ∀ f : Fld, ¬ Rows [.one 65667, .one 65824, .one 65920] f.bit → (calCount y).rd f = y.rd f :=
    fun f h => (calCount_after (Changes.refl _ _ y) (within_refl _) (covers_refl _)).rd h
  generalize calCount y = z at runs counted kept
  intro e
  have he : e = _ := runs
  clear_value e
  subst he
  refine ⟨?_, ?_, Dev.rd_wr_same _ _ _, ?_, ?_, ?_, ?_, fun n => ?_, fun n => ?_⟩
  · simp (disch := decide) only [Dev.rd_wr_ne, Dev.rd_lower_same]
  · exact (Dev.rd_wr_ne _ _ (by decide)).trans (Dev.rd_wr_same _ _ _)
  · simp (disch := decide) only [Dev.rd_wr_ne, Dev.rd_lower_ne, counted]
  · simp (disch := decide) only [Dev.rd_wr_ne, Dev.rd_lower_ne, counted]
  · simp (disch := decide) only [Dev.rd_wr_ne, Dev.rd_lower_ne]
    exact (kept _ (rows_not (by decide))).trans globals.1
  · simp (disch := decide) only [Dev.rd_wr_ne, Dev.rd_lower_ne]
    exact (kept _ (rows_not (by decide))).trans globals.2
  · simp (disch := (dsimp only; omega)) only [Dev.rd_wr_ne, Dev.rd_lower_ne]
    exact (kept _ (rows_not (by apply every_index _ n; decide))).trans (channels n).1
  · simp (disch := (dsimp only; omega)) only [Dev.rd_wr_ne, Dev.rd_lower_ne]
    exact (kept _ (rows_not (by apply every_index _ n; decide))).trans (channels n).2

/-! Commits (R432 to R435). -/

theorem recordSlot_of {d e : Dev} (h : e.fuses = d.fuses) (k : Nat) : e.recordSlot k = d.recordSlot k := by
  unfold Dev.recordSlot
  rw [h]

theorem readSlots_fuses (d : Dev) : (readSlots d).fuses = d.fuses ∧ (readSlots d).cl = d.cl ∧ (readSlots d).mem = d.mem :=
  have ch := readSlots_after (Changes.refl _ _ d) (within_refl _) (covers_refl _)
  ⟨ch.parts .fuses (by decide), ch.parts .cl (by decide), ch.parts .mem (by decide)⟩

theorem commitBurnDone_eff {d : Dev} {k : Nat} {r : List Byte} (hb : d.cl.burn = some (k, r)) (hk : k < 24) (ok : Bool) :
    let e := commitBurnDone ok d
    e.recordSlot k = (if ok then r else r.take 58 ++ zeros 6) ∧ (∀ j, j < 24 → j ≠ k → e.recordSlot j = d.recordSlot j) ∧
    e.cl.burn = none ∧ e.rd CL_CMD_STATUS_BUSY = 0 ∧ e.rd CL_CMD_STATUS_CODE = (if ok then 0 else 0x11) ∧
    e.fuses.factory = d.fuses.factory ∧ e.mem = d.mem := by
  have runs : commitBurnDone ok d = readSlots ((((putSlot k (if ok then r else r.take 58 ++ zeros 6) d).modCl fun c => { c with burn := none }).lower
      CL_CMD_STATUS_BUSY).wr CL_CMD_STATUS_CODE (if ok then cDONE else 0x11)) := by
    unfold commitBurnDone
    rw [hb]
  generalize hx : Dev.wr _ CL_CMD_STATUS_CODE _ = x at runs
  have slots : x.fuses = { d.fuses with records := vmod d.fuses.records k fun _ => if ok then r else r.take 58 ++ zeros 6 } := by rw [← hx]; rfl
  have burn : x.cl.burn = none := by rw [← hx]; rfl
  have busy : x.rd CL_CMD_STATUS_BUSY = 0 := by
    rw [← hx]
    exact (Dev.rd_wr_ne _ _ (by decide)).trans (Dev.rd_lower_same _ _)
  have code : x.rd CL_CMD_STATUS_CODE = if ok then 0 else 0x11 := by
    rw [← hx]
    refine (Dev.rd_wr_same _ _ _).trans ?_
    cases ok <;> rfl
  have mem : x.mem = d.mem := by rw [← hx]; rfl
  clear hx
  obtain ⟨fuses, cl, kept⟩ := readSlots_fuses x
  have rd : ∀ f : Fld, ¬ Rows [.one 65666, .one 65675, .one 65680, .one 66080, .one 66112] f.bit → (readSlots x).rd f = x.rd f :=
    fun f h => (readSlots_after (Changes.refl _ _ x) (within_refl _) (covers_refl _)).rd h
  intro e
  have he : e = _ := runs
  clear_value e
  subst he
  refine ⟨?_, fun j _ hj => ?_, (congrArg ClSt.burn cl).trans burn, (rd _ (rows_not (by decide))).trans busy, (rd _ (rows_not (by decide))).trans code, ?_,
    kept.trans mem⟩
  · rw [recordSlot_of fuses, Dev.recordSlot, slots]
    exact vget_vmod_same _ _ _ _ hk
  · rw [recordSlot_of fuses, Dev.recordSlot, slots]
    exact vget_vmod_ne _ _ _ hj
  · rw [fuses, slots]

theorem commitCmd_idle (p : Path) {d : Dev} (h : d.on CL_CMD_STATUS_BUSY = false) (hb : d.cy.burn = none) (hc : d.rd PW_STATE_CUR = 1)
    (hp : d.on PW_STATUS_PFAIL = false) (ht : d.on CL_STATUS_ALL_TRACED = true) : commitCmd p d =
      match (upTo 24).find? fun k => !slotUsed (d.recordSlot k) with
      | none => d.wr CL_CMD_STATUS_CODE 0x10
      | some k => ((d.raise CL_CMD_STATUS_BUSY).wr CL_CMD_STATUS_SLOT k).modCl fun c =>
          { c with burn := some (k, recordOf c.held (d.rd CL_COUNT_COUNT)) } := by
  unfold commitCmd
  rw [if_neg (by rw [h]; decide), if_neg (by rw [hb]; decide), if_neg (by simp [hc, hp, ht])] <;> rfl

theorem commitCmd_blank (p : Path) {d : Dev} {k : Nat} (h : d.on CL_CMD_STATUS_BUSY = false) (hb : d.cy.burn = none) (hc : d.rd PW_STATE_CUR = 1)
    (hp : d.on PW_STATUS_PFAIL = false) (ht : d.on CL_STATUS_ALL_TRACED = true) (hk : (upTo 24).find? (fun k => !slotUsed (d.recordSlot k)) = some k) :
    let e := commitCmd p d
    e.rd CL_CMD_STATUS_BUSY = 1 ∧ e.rd CL_CMD_STATUS_SLOT = k ∧ e.cl.burn = some (k, recordOf d.cl.held (d.rd CL_COUNT_COUNT)) ∧
    e.fuses = d.fuses ∧ e.mem = d.mem := by
  have runs := commitCmd_idle p h hb hc hp ht
  rw [hk] at runs
  have hk24 : k < 24 := List.mem_range.1 (List.mem_of_find?_eq_some hk)
  intro e
  have he : e = _ := runs
  clear_value e
  subst he
  exact ⟨(Dev.rd_wr_ne _ _ (by decide)).trans (Dev.rd_raise_same _ _), (Dev.rd_wr_same _ _ _).trans (Nat.mod_eq_of_lt (show k < 2 ^ 5 by omega)),
    rfl, rfl, rfl⟩

theorem commitCmd_full (p : Path) {d : Dev} (h : d.on CL_CMD_STATUS_BUSY = false) (hb : d.cy.burn = none) (hc : d.rd PW_STATE_CUR = 1)
    (hp : d.on PW_STATUS_PFAIL = false) (ht : d.on CL_STATUS_ALL_TRACED = true) (hu : ∀ k, k < 24 → slotUsed (d.recordSlot k) = true) :
    commitCmd p d = d.wr CL_CMD_STATUS_CODE 0x10 := by
  have none : (upTo 24).find? (fun k => !slotUsed (d.recordSlot k)) = none := by
    rw [List.find?_eq_none]
    intro k hk
    rw [hu k (List.mem_range.1 hk)]
    decide
  rw [commitCmd_idle p h hb hc hp ht, none]

theorem commitCmd_refused (p : Path) {d : Dev} (h : d.on CL_CMD_STATUS_BUSY = false) (hb : d.cy.burn = none)
    (hn : d.rd PW_STATE_CUR ≠ 1 ∨ d.on PW_STATUS_PFAIL = true ∨ d.on CL_STATUS_ALL_TRACED = false) :
    commitCmd p d = d.wr CL_CMD_STATUS_CODE cREFUSED := by
  unfold commitCmd
  rw [if_neg (by rw [h]; decide), if_neg (by rw [hb]; decide), if_pos]
  rcases hn with hn | hn | hn
  all_goals simp [hn]

theorem commitCmd_busy (p : Path) {d : Dev} (h : d.on CL_CMD_STATUS_BUSY = false) (hb : d.cy.burn ≠ none) :
    commitCmd p d = d.wr CL_CMD_STATUS_CODE cBUSY := by
  unfold commitCmd
  rw [if_neg (by rw [h]; decide), if_pos (Option.isSome_iff_ne_none.2 hb)]

theorem accessed_cl (d : Dev) (p : Path) : (d.accessed p).cl = d.cl := Dev.beginAccess_cl _ p
theorem accessed_fuses (d : Dev) (p : Path) : (d.accessed p).fuses = d.fuses := Dev.beginAccess_fuses _ p

/-- Settles O53: the run step by step, the commit by what the part holds, and its burn. -/
theorem calibrationAndCommits : Obligations.CalibrationAndCommits := by
  refine ⟨fun s hr hc => ⟨fun dev lvl ppm iref ofs slope => ⟨fun hs => Completes.effect _ rfl ?_, fun hs => Completes.effect _ rfl ?_⟩,
    fun m b hb hs => Completes.effect _ rfl ?_, fun hs hp => Completes.effect _ rfl (calFinish_eff (d := s.dev.begun) hr hc hs hp)⟩,
    fun s p => ⟨fun hr => ?_, fun k r hb hk ok => Completes.effect _ rfl (commitBurnDone_eff (d := s.dev.begun) hb hk ok)⟩⟩
  · exact calStepDone_references (d := s.dev.begun) hr hc hs dev lvl ppm iref.toNat ofs.toNat slope.toNat
  · exact calStepDone_temperature (d := s.dev.begun) hr hc hs dev lvl ppm iref.toNat ofs.toNat slope.toNat
  · obtain ⟨block, step, mem, at_⟩ := calBlock_eff (d := s.dev.begun) m hr hc hb hs rfl
    refine ⟨block, step, mem, ?_⟩
    rintro k n rfl
    have here := at_ k
    refine ⟨fun ha => here.trans (if_pos ha), fun ha => ?_⟩
    rw [here.trans (if_neg fun k => Bool.false_ne_true (ha.symm.trans k))]
    exact judgeBlock_spec (m k) _ ha
  · have cy : (s.dev.accessed p).cy = s.dev.cy := Dev.beginAccess_cy _ p
    have slots : ∀ k, (s.dev.accessed p).recordSlot k = s.dev.recordSlot k := recordSlot_of (accessed_fuses _ p)
    refine ⟨fun h => Completes.ofPort _ rfl hr ?_, fun h => ⟨fun hb => Completes.ofPort _ rfl hr ?_, fun hb =>
      ⟨fun hn => Completes.ofPort _ rfl hr ?_, fun hw hp ht => ⟨fun k hk => Completes.ofPort _ rfl hr ?_, fun hu => Completes.ofPort _ rfl hr ?_⟩⟩⟩⟩
    · rw [show commitCmd p (s.dev.accessed p) = (s.dev.accessed p).errLocked p 0x201C from if_pos (by rw [accessed_on]; exact h)]
      have ch := Dev.errLocked_changes (s.dev.accessed p) p 0x201C
      exact ⟨Dev.errLocked_flag _ p 0x201C, (ch.parts .cl (by decide)).trans (accessed_cl _ p), (ch.parts .fuses (by decide)).trans (accessed_fuses _ p),
        (ch.parts .mem (by decide)).trans (Dev.accessed_mem _ p)⟩
    · rw [commitCmd_busy p (by rw [accessed_on]; exact h) (by rw [cy]; exact hb)]
      exact ⟨Dev.rd_wr_same _ _ _, accessed_cl _ p, accessed_fuses _ p⟩
    · rw [commitCmd_refused p (by rw [accessed_on]; exact h) (by rw [cy]; exact hb) (by rw [accessed_rd, accessed_on, accessed_on]; exact hn)]
      exact ⟨Dev.rd_wr_same _ _ _, accessed_cl _ p, accessed_fuses _ p⟩
    · obtain ⟨busy, slot, burn, fuses, mem⟩ := commitCmd_blank p (d := s.dev.accessed p) (k := k) (by rw [accessed_on]; exact h) (by rw [cy]; exact hb)
        (by rw [accessed_rd]; exact hw) (by rw [accessed_on]; exact hp) (by rw [accessed_on]; exact ht) (by simpa only [slots] using hk)
      rw [accessed_cl, accessed_rd] at burn
      exact ⟨busy, slot, burn, fuses.trans (accessed_fuses _ p), mem.trans (Dev.accessed_mem _ p)⟩
    · rw [commitCmd_full p (by rw [accessed_on]; exact h) (by rw [cy]; exact hb) (by rw [accessed_rd]; exact hw) (by rw [accessed_on]; exact hp)
        (by rw [accessed_on]; exact ht) (fun k hk => by rw [slots]; exact hu k hk)]
      exact ⟨Dev.rd_wr_same _ _ _, accessed_cl _ p, accessed_fuses _ p⟩

end Sys2Proof.Machine
end

section
/-!
What each emulated card holds after the operations on it (11_card_emulation.md).
-/

namespace Sys2Proof.Machine

theorem inst_of {d e : Dev} (h : e.ce = d.ce) (k : Nat) : e.inst k = d.inst k := by
  unfold Dev.inst
  rw [h]

theorem modCe_inst (d : Dev) {k : Nat} (hk : k < 8) (f : CeInst → CeInst) : (d.modCe k f).inst k = f (d.inst k) := vget_vmod_same _ _ _ _ hk

theorem gwp_of {d e : Dev} (h : e.gw = d.gw) (n : Nat) : e.gwp n = d.gwp n := by
  unfold Dev.gwp
  rw [h]

/-- No slave frame waits on the ports, before or after. -/
theorem settleFrames_of {d e : Dev} (h : e.gw = d.gw) (h0 : (d.gwp 0).held = []) (h1 : (d.gwp 1).held = []) : settleFrames e = e := by
  refine settleFrames_none fun n => ?_
  rw [gwp_of h]
  obtain ⟨n, hn⟩ := n
  match n, hn with
  | 0, _ => exact h0
  | 1, _ => exact h1

/-! Events, ends and host bursts. -/

theorem ceEvent_changes (k ev : Nat) (map : List Word) (d : Dev) : Changes [.regs, .chans, .lq, .out, .sv, .hs]
    [.row 0x5014 2 0x800 6, .row 0x5014 2 0x800 24, .row 0x2100c 32 0x40 3, .row 0x2100c 32 0x40 4, .row 0x2100c 32 0x40 5, .row 0x21024 32 0x40 0]
    d (ceEvent k ev map d) :=
  ceEvent_after (Changes.refl _ _ d) (within_refl _) (covers_refl _) k ev map

theorem ceEvent_ce (k ev : Nat) (map : List Word) (d : Dev) : (ceEvent k ev map d).ce = d.ce := (ceEvent_changes k ev map d).parts .ce (by decide)
theorem ceEvent_inst (k ev : Nat) (map : List Word) (d : Dev) (j : Nat) : (ceEvent k ev map d).inst j = d.inst j := inst_of (ceEvent_ce k ev map d) j
theorem ceEvent_mem (k ev : Nat) (map : List Word) (d : Dev) : (ceEvent k ev map d).mem = d.mem := (ceEvent_changes k ev map d).parts .mem (by decide)
theorem ceEvent_ts (k ev : Nat) (map : List Word) (d : Dev) : (ceEvent k ev map d).ts = d.ts := (ceEvent_changes k ev map d).parts .ts (by decide)

theorem hostRun_ce (k : Nat) (b : HostBurst) (d : Dev) : (hostRun k b d).ce = d.ce :=
  (hostRun_after (Changes.refl _ _ d) (within_refl _) (covers_refl _) k b).parts .ce (by decide)

theorem hostProceed_inst (k : Fin 8) (d : Dev) : (hostProceed k.val d).inst k.val = { d.inst k.val with host := [] } := by
  unfold hostProceed
  refine (modCe_inst _ k.isLt _).trans ?_
  rw [inst_of (each_keeps (fun e : Dev => e.ce) _ _ (fun b e => hostRun_ce k.val b e) d)]

theorem hostProceed_idle {k : Nat} {d : Dev} (h : (d.inst k).host = []) : hostProceed k d = d.modCe k fun c => { c with host := [] } := by
  unfold hostProceed
  dsimp only
  rw [h]
  rfl

theorem ceOff_state (k : Fin 8) (d : Dev) : (ceOff k.val d).ceState k.val = 0 := (Dev.rd_wr_same _ _ _).trans (Nat.zero_mod _)

theorem ceUngrant_off (k : Fin 8) (d : Dev) : (ceUngrant k.val d).rd (CE_INST_STATUS_GRANT k.val) = 0 ∧ (ceUngrant k.val d).ceState k.val = 0 := by
  unfold ceUngrant
  refine ⟨?_, ceOff_state k _⟩
  refine ((ceOff_after (Changes.refl _ _ _) (within_refl _) (covers_refl _) k.val).rd (rows_not (by apply every_index _ k; decide))).trans ?_
  exact Dev.rd_lower_same _ _

theorem ceUngrant_grants (k : Nat) (d : Dev) : (ceUngrant k d).ts.grants = d.ts.grants.filter (·.owner ≠ Owner.emulation k) := by
  unfold ceUngrant
  exact congrArg TsSt.grants ((ceOff_after (Changes.refl _ _ _) (within_refl _) (covers_refl _) k).parts .ts (by decide))

/-! Replies. -/

theorem ceReply_inst {k : Nat} (hk : k < 8) (bs : List Byte) (d : Dev) :
    (ceReply k bs d).inst k = { d.inst k with reply := some (bitsA 8 (bs ++ crcBytes 1 bs)) } := modCe_inst d hk _

theorem ceSendI_replies {k : Nat} (hk : k < 8) (d : Dev) : ((ceSendI k d).inst k).reply.isSome = true ∧ ((ceSendI k d).inst k).fwd = (d.inst k).fwd := by
  unfold ceSendI
  dsimp only
  rw [ceReply_inst hk, modCe_inst _ hk]
  exact ⟨rfl, rfl⟩

/-- The record of a host access (R279). -/
theorem ceAcc_code {code : Nat} (hc : code < 256) (k b : Nat) (d : Dev) : (ceAcc code k b d).rd CE_ACC_CODE = code := by
  unfold ceAcc
  rw [Dev.rd_raiseIf_ne _ _ (by decide), Dev.rd_wr_ne _ _ (by decide), Dev.rd_wr_ne _ _ (by decide), Dev.rd_wr_same]
  exact Nat.mod_eq_of_lt hc

theorem ceAcc_busy (k b : Nat) (d : Dev) : (ceAcc cBUSY k b d).rd CE_ACC_BUSY_SEEN = 1 := Dev.rd_raise_same _ _

theorem ceAcc_changes (code k b : Nat) (d : Dev) : Changes [.regs] [.one 3670176, .one 3670188, .one 3670196, .one 3670200] d (ceAcc code k b d) :=
  ceAcc_after (Changes.refl _ _ d) (within_refl _) (covers_refl _) code k b

end Sys2Proof.Machine
end

section
/-!
The host's side of an emulated card (11_card_emulation.md).
-/

namespace Sys2Proof.Machine

/-! Responses (R273). -/

/-- The words of a response so far. -/
def Dev.rspWords (d : Dev) (k : Nat) (p : Path) (w : Word) : List Word := (((d.inst k).asm.find? (·.1 = p)).map (·.2)).getD [] ++ [w]

/-- The emulated card once its response is complete. -/
def Dev.rspTaken (d : Dev) (k : Nat) (p : Path) : Dev := d.modCe k fun c => { c with asm := (d.inst k).asm.filter (·.1 ≠ p) }

theorem ceRspWrite_collects {p : Path} {k : Nat} {w : Word} {d : Dev} {ws : List Word} (hw : ws = d.rspWords k p w)
    (hl : ws.length < 1 + (bits (wordAt ws 0) 8 0 + 3) / 4) :
    ceRspWrite p k w d = d.modCe k fun c => { c with asm := (d.inst k).asm.filter (·.1 ≠ p) ++ [(p, ws)] } := by
  subst hw
  exact if_pos hl

theorem ceRspWrite_completes {p : Path} {k : Nat} {w : Word} {d : Dev} {ws : List Word} {len id : Nat} (hw : ws = d.rspWords k p w)
    (hlen : len = bits (wordAt ws 0) 8 0) (hid : id = bits (wordAt ws 0) 31 16) (hl : 1 + (len + 3) / 4 ≤ ws.length) : ceRspWrite p k w d =
      if len < 2 ∨ 258 < len then (d.rspTaken k p).wr (CE_INST_STATUS_RSP_CODE k) cRANGE
      else if (d.inst k).fwd ≠ some id ∨ d.ceState k ≠ 7 then (d.rspTaken k p).wr (CE_INST_STATUS_RSP_CODE k) cREFUSED
      else if (d.inst k).wtxAwait = true then
        ((d.rspTaken k p).modCe k fun c => { c with fwd := none, late := true, tx := (wordsToBytes (ws.drop 1)).take len }).wr (CE_INST_STATUS_RSP_CODE k) cDONE
      else ceSendI k
        (((d.rspTaken k p).modCe k fun c => { c with fwd := none, late := true, tx := (wordsToBytes (ws.drop 1)).take len }).wr (CE_INST_STATUS_RSP_CODE k) cDONE) := by
  subst hlen hid hw
  unfold Dev.rspWords at hl ⊢
  unfold ceRspWrite
  dsimp only
  rw [if_neg (Nat.not_lt.2 hl)]
  simp only [Bool.or_eq_true, decide_eq_true_eq]
  rfl

/-! The enable (R265, R275). -/

/-- The fields of CE_INSTk_CFG as a write sets them. -/
def Dev.cfgSet (d : Dev) (k v : Nat) : Dev :=
  (((((d.flag (CE_INST_CFG_EN k) (bit v 31)).flag (CE_INST_CFG_FWD k) (bit v 30)).wr (CE_INST_CFG_ALM_CODE k) (bits v 29 20)).wr
    (CE_INST_CFG_COIL k) (bits v 19 14)).wr (CE_INST_CFG_ALM_PHASE k) (bits v 13 8)).wr (CE_INST_CFG_FIELD_THR k) (bits v 7 0)

theorem cfgSet_rd (d : Dev) (k : Fin 8) (v : Nat) : (d.cfgSet k.val v).rd (CE_INST_CFG_EN k.val) = b2n (bit v 31) ∧
    (d.cfgSet k.val v).rd (CE_INST_CFG_ALM_CODE k.val) = bits v 29 20 ∧ (d.cfgSet k.val v).rd (CE_INST_CFG_COIL k.val) = bits v 19 14 ∧
    (d.cfgSet k.val v).rd (CE_INST_CFG_FWD k.val) = b2n (bit v 30) := by
  have flag : ∀ b : Bool, b2n b % 2 ^ 1 = b2n b := fun b => by cases b <;> rfl
  unfold Dev.cfgSet
  refine ⟨?_, ?_, ?_, ?_⟩
  all_goals simp (disch := (dsimp only; omega)) only [Dev.rd_wr_ne, Dev.rd_flag_ne]
  · exact (Dev.rd_flag_same _ _ _).trans (flag _)
  · exact (Dev.rd_wr_same _ _ _).trans (Nat.mod_eq_of_lt (bits_lt v 29 20))
  · exact (Dev.rd_wr_same _ _ _).trans (Nat.mod_eq_of_lt (bits_lt v 19 14))
  · exact (Dev.rd_flag_same _ _ _).trans (flag _)

/-- The operands of a write of CE_INSTk_CFG that its ranges admit. -/
def Dev.cfgInRange (d : Dev) (n v : Nat) : Prop :=
  bits v 29 20 ≠ 0 ∧ powerOf (bits v 29 20) ≤ (d.decl n).maxPower ∧ bits v 13 8 ≤ 59 ∧ 2 ≤ bits v 7 0 ∧ bits v 7 0 ≤ 80

theorem ceEnable_starts {p : Path} {k n : Nat} {w : Word} {d : Dev} (hn : d.ceChan k = some n) (hr : d.cfgInRange n w.toNat)
    (hw : d.on (CE_INST_CFG_EN k) = false) (he : bit w.toNat 31 = true) (hh : d.headerOk k = true) (hc : bits w.toNat 19 14 < d.coils n ∨ d.coils n = 0) :
    ceEnable p k w d = d.cfgSet k w.toNat := by
  obtain ⟨h1, h2, h3, h4, h5⟩ := hr
  unfold ceEnable
  rw [hn]
  dsimp only
  rw [if_neg, if_neg (by rw [hw]; simp)]
  · rfl
  · simp only [hw, he, hh, Bool.false_and, Bool.or_false, Bool.not_false, Bool.not_true, Bool.false_or, Bool.true_and, Bool.or_eq_true,
      Bool.and_eq_true, decide_eq_true_eq]
    omega

theorem ceEnable_header {p : Path} {k n : Nat} {w : Word} {d : Dev} (hn : d.ceChan k = some n)
    (hw : d.on (CE_INST_CFG_EN k) = false) (he : bit w.toNat 31 = true) (hh : d.headerOk k = false) :
    ceEnable p k w d = d.accessError 0x70000 p true (0x70100 + k * 0x80) ⟨true, false, false⟩ := by
  unfold ceEnable
  rw [hn]
  dsimp only
  rw [hw, he, hh]
  simp

theorem ceEnable_ends {p : Path} {k n : Nat} {w : Word} {d : Dev} (hn : d.ceChan k = some n) (hr : d.cfgInRange n w.toNat)
    (hw : d.on (CE_INST_CFG_EN k) = true) (he : bit w.toNat 31 = false) (h1 : bits w.toNat 29 20 = d.rd (CE_INST_CFG_ALM_CODE k))
    (h2 : bits w.toNat 19 14 = d.rd (CE_INST_CFG_COIL k)) (h3 : bits w.toNat 30 30 = d.rd (CE_INST_CFG_FWD k)) :
    ceEnable p k w d = ((ceUngrant k (d.cfgSet k w.toNat)).lower (CE_INST_STATUS_FIELD k)).lower (CE_INST_STATUS_CARRIER k) := by
  obtain ⟨r1, r2, r3, r4, r5⟩ := hr
  unfold ceEnable
  rw [hn]
  dsimp only
  rw [if_neg, if_pos (by rw [hw, he]; rfl)]
  · rfl
  · simp only [hw, he, h3, h2, ← h1, Bool.false_and, Bool.or_false, Bool.true_and, Bool.or_eq_true, decide_eq_true_eq, ne_eq, not_true_eq_false, or_false]
    omega

/-! Bursts to the window of the shadow (R274, R279). -/

/-- The blocks that words from byte `start` on touch. -/
def burstBlocks (start n : Nat) : List Nat := (upTo ((start + 4 * n - 1) / 256 - start / 256 + 1)).map (start / 256 + ·)

/-- A read burst of `n` words from byte `start` of the image on. -/
def Dev.readBurst (d : Dev) (p : Path) (start n : Nat) : HostBurst :=
  { path := p, writes := [], offset := start, words := n, pad := n - n, block := 0, since := d.ns }

theorem shadowBurst_reads {p : Path} {off n k start : Nat} {d : Dev} (hk : d.rd CE_WIN_INST = k) (hc : d.ceChan k ≠ none) (ho : off % 4 = 0)
    (hn : 1 ≤ n) (hp : off % 4096 + 4 * n ≤ 4096) (hs : start = d.rd CE_WIN_HALF * 32768 + off) : shadowBurst p off [] n d =
      match d.blockInUse k (burstBlocks start n) with
      | none => hostRun k (d.readBurst p start n) d
      | some x =>
        if d.rd CE_CFG_HOST_WAIT = 0 then ceAcc cBUSY k x (d.give p (List.replicate n 0))
        else d.modCe k fun c => { c with host := c.host ++ [{ d.readBurst p start n with block := x }] } := by
  have at_ : off / 4 * 4 = off := by omega
  have fits : ¬ (4096 - off % 4096) / 4 < n := by omega
  have all : min n ((4096 - off % 4096) / 4) = n := by omega
  subst hs
  unfold shadowBurst
  dsimp only
  rw [hk, if_neg (by simpa using hc)]
  simp only [at_, List.isEmpty_nil, if_true, if_neg fits, all, Bool.not_true, Bool.false_and, List.take_nil]
  rw [if_neg Bool.false_ne_true, if_neg (by omega), if_neg Bool.false_ne_true]
  rfl

/-- The bytes that a burst of one word writes. -/
def wordWrites (start : Nat) (w : Word) : List (Nat × Byte) := (upTo 4).map fun i => (start + i, (leBytes 4 w.toNat).getD i 0)

theorem map_wordWrites (start : Nat) (w : Word) :
    ((upTo (wordsToBytes [w]).length).map fun i => (start + i, (wordsToBytes [w]).getD i 0)) = wordWrites start w := by
  have bytes : wordsToBytes [w] = leBytes 4 w.toNat := List.append_nil _
  rw [bytes, leBytes_length]
  rfl

theorem shadowBurst_writes {p : Path} {off k start : Nat} {w : Word} {d : Dev} (hk : d.rd CE_WIN_INST = k) (hc : d.ceChan k ≠ none) (ho : off % 4 = 0)
    (hs : start = d.rd CE_WIN_HALF * 32768 + off) (h256 : 256 ≤ start) (ht : (d.inst k).txn = none) :
    ∃ b : HostBurst, shadowBurst p off [w] 0 d = hostRun k b d ∧ b.writes = wordWrites start w := by
  have at_ : off / 4 * 4 = off := by omega
  have fits : ¬ (4096 - off % 4096) / 4 < 1 := by omega
  have all : min 1 ((4096 - off % 4096) / 4) = 1 := by omega
  have taken : [w].take ((4096 - off % 4096) / 4) = [w] := List.take_of_length_le (by simp; omega)
  have block : ¬ start / 256 = 0 := by omega
  subst hs
  have free : ∀ bs, d.blockInUse k bs = none := fun bs => by
    unfold Dev.blockInUse
    rw [ht]
  have kept : (wordWrites (d.rd CE_WIN_HALF * 32768 + off) w).filter (fun _ => !false) = wordWrites (d.rd CE_WIN_HALF * 32768 + off) w :=
    List.filter_eq_self.2 fun _ _ => rfl
  unfold shadowBurst
  dsimp only
  rw [hk, if_neg (by simpa using hc)]
  simp only [at_, List.isEmpty_cons, List.length_singleton, if_neg fits, all, taken, block, decide_false, Bool.and_false, Bool.false_and,
    Bool.false_eq_true, if_false, free, map_wordWrites, kept]
  exact ⟨_, rfl, rfl⟩

theorem shadowBurst_header {p : Path} {off k : Nat} {w : Word} {d : Dev} (hk : d.rd CE_WIN_INST = k) (hc : d.ceChan k ≠ none) (ho : off % 4 = 0)
    (hh : d.rd CE_WIN_HALF = 0) (h256 : off < 256) (he : d.on (CE_INST_CFG_EN k) = true) :
    shadowBurst p off [w] 0 d = ceAcc cDONE k 0 (d.accessError 0x70000 p true (0x78000 + off) ⟨false, true, false⟩) := by
  have at_ : off / 4 * 4 = off := by omega
  have fits : ¬ (4096 - off % 4096) / 4 < 1 := by omega
  have all : min 1 ((4096 - off % 4096) / 4) = 1 := by omega
  have taken : [w].take ((4096 - off % 4096) / 4) = [w] := List.take_of_length_le (by simp; omega)
  have block : off / 256 = 0 := by omega
  have dropped : (wordWrites off w).filter (fun x => !decide (x.1 < 256)) = [] := by
    rw [List.filter_eq_nil_iff]
    intro x hx
    obtain ⟨i, hi, rfl⟩ := List.mem_map.1 hx
    have := List.mem_range.1 hi
    simp only [Bool.not_eq_true', decide_eq_false_iff_not, Decidable.not_not]
    omega
  unfold shadowBurst
  dsimp only
  rw [hk, if_neg (by simpa using hc)]
  simp only [at_, List.isEmpty_cons, List.length_singleton, if_neg fits, all, taken, hh, Nat.zero_mul, Nat.zero_add, block, he, decide_true, Bool.not_false,
    Bool.true_and, Bool.false_eq_true, if_true, if_false, map_wordWrites, dropped]
  rfl

/-! What bursts, expiries and locks leave (R279, R280). -/

/-- The image after writes to it. -/
theorem ceCommit_eff (k : Fin 8) (ws : List (Nat × Byte)) (d : Dev) :
    (ceCommit k.val ws d).shadow = ws.foldl (fun m w => Memory.set m (k.val * 65536 + w.1) w.2) d.shadow ∧
    (ceCommit k.val ws d).rd (CE_INST_CSEQ_CSEQ k.val) = (d.rd (CE_INST_CSEQ_CSEQ k.val) + 1) % 2 ^ 16 := by
  unfold ceCommit
  dsimp only
  generalize hx : Dev.mk .. = x
  generalize hs : ws.foldl (fun (m : Memory) (w : Nat × Byte) => Memory.set m (k.val * 65536 + w.1) w.2) d.shadow = m at hx
  have shadow : x.shadow = m := by rw [← hx]
  have seq : x.rd (CE_INST_CSEQ_CSEQ k.val) = d.rd (CE_INST_CSEQ_CSEQ k.val) := by rw [← hx]; rfl
  refine ⟨?_, (Dev.rd_wr_same _ _ _).trans (congrArg (fun v => (v + 1) % 2 ^ 16) ?_)⟩
  · exact (each_keeps (fun e : Dev => e.shadow) _ (fun b e => e.setBit (CE_INST_DIRTY_BLOCKS k.val (b / 32)) (b % 32)) (fun _ _ => rfl) x).trans shadow
  · exact (each_keeps (fun e : Dev => e.rd (CE_INST_CSEQ_CSEQ k.val)) _ _ (fun b e => Dev.rd_setBit_ne _ _ (by dsimp only; omega)) x).trans seq

theorem hostRun_reads {k : Nat} {b : HostBurst} (d : Dev) (h : b.writes = []) (hp : b.pad = 0) :
    (hostRun k b d).out = d.out ++ bytesToWords (d.imgBytes k b.offset (4 * b.words)) ∧ (hostRun k b d).rd CE_ACC_CODE = cDONE ∧
    (hostRun k b d).shadow = d.shadow := by
  unfold hostRun
  dsimp only
  rw [h, hp]
  refine ⟨(ceAcc_changes _ _ _ _).parts .out (by decide) |>.trans ?_, ceAcc_code (by decide) _ _ _,
    ((ceAcc_changes _ _ _ _).parts .shadow (by decide)).trans ?_⟩
  · refine (give_out _ _ _).trans ?_
    simp
  · exact (Dev.give_after (Changes.refl _ _ d) (within_refl _) (covers_refl _) _ _).parts .shadow (by decide)

theorem hostRun_writes {k : Fin 8} {b : HostBurst} (d : Dev) (h : b.writes ≠ []) :
    (hostRun k.val b d).shadow = b.writes.foldl (fun m w => Memory.set m (k.val * 65536 + w.1) w.2) d.shadow ∧
    (hostRun k.val b d).rd (CE_INST_CSEQ_CSEQ k.val) = (d.rd (CE_INST_CSEQ_CSEQ k.val) + 1) % 2 ^ 16 ∧ (hostRun k.val b d).rd CE_ACC_CODE = cDONE := by
  obtain ⟨shadow, seq⟩ := ceCommit_eff k b.writes d
  unfold hostRun
  dsimp only
  rw [if_neg (by simpa using h)]
  exact ⟨((ceAcc_changes _ _ _ _).parts .shadow (by decide)).trans shadow,
    ((ceAcc_changes _ _ _ _).rd (rows_not (by apply every_index _ k; decide))).trans seq, ceAcc_code (by decide) _ _ _⟩

theorem hostWaitExpiry_eff {k : Fin 8} {d : Dev} {b : HostBurst} {rest : List HostBurst} (h : (d.inst k.val).host = b :: rest) :
    ((hostWaitExpiry k.val d).inst k.val).host = rest ∧ (hostWaitExpiry k.val d).rd CE_ACC_CODE = cBUSY ∧
    (hostWaitExpiry k.val d).rd CE_ACC_BUSY_SEEN = 1 := by
  unfold hostWaitExpiry
  rw [h]
  dsimp only
  refine ⟨?_, ceAcc_code (by decide) _ _ _, ceAcc_busy _ _ _⟩
  refine (congrArg CeInst.host (inst_of ((ceAcc_changes _ _ _ _).parts .ce (by decide)) _)).trans ?_
  refine (congrArg CeInst.host (inst_of
    ((Dev.give_after (Changes.refl _ _ _) (within_refl _) (covers_refl _) _ _).parts .ce (by decide)) _)).trans ?_
  rw [modCe_inst _ k.isLt]

theorem ceLockWrite_sets {p : Path} {k : Fin 8} {m : Fin 4} {w : Word} {d : Dev} (hc : d.ceChan k.val ≠ none) (h0 : bits w.toNat 31 24 ≠ 0)
    (h255 : bits w.toNat 23 15 ≤ 255) (h256 : bits w.toNat 31 24 + bits w.toNat 23 15 ≤ 256) :
    let e := ceLockWrite p k.val m.val w d
    e.rd (CE_INST_LOCK_START k.val m.val) = bits w.toNat 31 24 ∧ e.rd (CE_INST_LOCK_LEN k.val m.val) = bits w.toNat 23 15 ∧
    e.rd (CE_INST_LOCK_MODE k.val m.val) = bits w.toNat 14 14 ∧ e.rd CE_ACC_CODE = (if bits w.toNat 23 15 = 0 then cEMPTY else cDONE) := by
  have code : (if bits w.toNat 23 15 = 0 then cEMPTY else cDONE) < 256 := by split <;> decide
  intro e
  have he : e = ceLockWrite p k.val m.val w d := rfl
  clear_value e
  unfold ceLockWrite at he
  dsimp only at he
  rw [if_neg (by simpa using hc), if_neg (by simp only [Bool.or_eq_true, decide_eq_true_eq]; omega)] at he
  subst he
  refine ⟨?_, ?_, ?_, ceAcc_code code _ _ _⟩
  all_goals refine ((ceAcc_changes _ _ _ _).rd (rows_not (by apply every_pair _ k m; decide))).trans ?_
  · exact (Dev.rd_wr_ne _ _ (by dsimp only; omega)).trans
      ((Dev.rd_wr_ne _ _ (by dsimp only; omega)).trans ((Dev.rd_wr_same _ _ _).trans (Nat.mod_eq_of_lt (bits_lt _ 31 24))))
  · exact (Dev.rd_wr_ne _ _ (by dsimp only; omega)).trans ((Dev.rd_wr_same _ _ _).trans (Nat.mod_eq_of_lt (bits_lt _ 23 15)))
  · exact (Dev.rd_wr_same _ _ _).trans (Nat.mod_eq_of_lt (bits_lt _ 14 14))

theorem ceLockWrite_range {p : Path} {k : Fin 8} {m : Fin 4} {w : Word} {d : Dev} (hc : d.ceChan k.val ≠ none)
    (h : bits w.toNat 31 24 = 0 ∨ 256 < bits w.toNat 31 24 + bits w.toNat 23 15) :
    ceLockWrite p k.val m.val w d = d.errRange p (0x70110 + k.val * 0x80 + m.val * 4) := by
  unfold ceLockWrite
  dsimp only
  rw [if_neg (by simpa using hc), if_pos (by simp only [Bool.or_eq_true, decide_eq_true_eq]; omega)]

theorem blockBase_lock : ∀ (k : Fin 8) (m : Fin 4), blockBase (0x70110 + k.val * 0x80 + m.val * 4) = 0x70000 := by decide

theorem blockInUse_first {k start n : Nat} {d : Dev} {t : FieldTxn} (ht : (d.inst k).txn = some t) (hb : start / 256 ∈ t.blocks) :
    d.blockInUse k (burstBlocks start n) = some (start / 256) := by
  have first : burstBlocks start n = start / 256 :: ((upTo ((start + 4 * n - 1) / 256 - start / 256)).map fun i => start / 256 + (i + 1)) := by
    unfold burstBlocks upTo
    rw [List.range_succ_eq_map]
    simp
  unfold Dev.blockInUse
  rw [ht, first]
  exact List.find?_cons_of_pos (by simpa using hb)

/-- The image is a matter of the shadow alone. -/
theorem headerOk_of {d e : Dev} (h : e.shadow = d.shadow) (k : Nat) : e.headerOk k = d.headerOk k := by
  unfold Dev.headerOk Dev.emuFiles Dev.aidOk Dev.imgZero Dev.img16 Dev.imgBytes Dev.img
  have files : e.emuFile k = d.emuFile k := by
    unfold Dev.emuFile Dev.img16 Dev.img
    rw [h]
  simp only [h, files]

theorem b2n_bit30 (v : Nat) : b2n (bit v 30) = bits v 30 30 := by
  show (if (v / 2 ^ 30 % 2 == 1) = true then 1 else 0) = v / 2 ^ 30 % 2
  simp only [beq_iff_eq]
  split <;> omega

/-- A write of CE_INSTk_CFG over a path that is open, with no slave frame waiting. -/
theorem Completes.ofEnable {s : State} {p : Path} {k : Fin 8} {w : Word} {P : Dev → Prop} (hr : s.dev.reaches p 0x70000 = true)
    (h0 : (s.dev.gwp 0).held = []) (h1 : (s.dev.gwp 1).held = []) (h : P (ceEnable p k.val w (s.dev.accessed p))) : Completes (.ceEnable p k w) s P := by
  refine Completes.effect (fun d => settleFrames (onPort 0x70000 p (ceEnable p k.val w) d)) rfl ?_
  rw [show onPort 0x70000 p (ceEnable p k.val w) s.dev.begun = ceEnable p k.val w (s.dev.accessed p) from onPort_reached _ hr]
  rw [settleFrames_of (d := s.dev) ?_ h0 h1]
  · exact h
  · exact ((ceEnable_after (Changes.refl _ _ (s.dev.accessed p)) (within_refl _) (covers_refl _) p k.val w).parts .gw (by decide)).trans (accessed_gw _ p)

theorem ceEnable_mem (p : Path) (k : Nat) (w : Word) (d : Dev) : (ceEnable p k w d).mem = d.mem :=
  (ceEnable_after (Changes.refl _ _ d) (within_refl _) (covers_refl _) p k w).parts .mem (by decide)

theorem ceLockWrite_mem (p : Path) (k m : Nat) (w : Word) (d : Dev) : (ceLockWrite p k m w d).mem = d.mem :=
  (ceLockWrite_after (Changes.refl _ _ d) (within_refl _) (covers_refl _) p k m w).parts .mem (by decide)

theorem shadowBurst_mem (p : Path) (off : Nat) (ws : List Word) (n : Nat) (d : Dev) : (shadowBurst p off ws n d).mem = d.mem :=
  (shadowBurst_after (Changes.refl _ _ d) (within_refl _) (covers_refl _) p off ws n).parts .mem (by decide)

/-- Settles O36, command by command. -/
theorem emulationHostSide : Obligations.EmulationHostSide := by
  intro s k c hc
  subst hc
  refine ⟨fun b rest hh h0 h1 => Completes.effect (fun d => settleFrames (hostWaitExpiry k.val d)) rfl ?_, fun p hr => ?_⟩
  · obtain ⟨host, code, busy⟩ := hostWaitExpiry_eff (d := s.dev.begun) hh
    have ch := hostWaitExpiry_after (Changes.refl _ _ s.dev.begun) (within_refl _) (covers_refl _) k.val
    rw [settleFrames_of (d := s.dev) (ch.parts .gw (by decide)) h0 h1]
    exact ⟨host, code, busy, ch.parts .shadow (by decide), ch.parts .mem (by decide)⟩
  have ce : (s.dev.accessed p).ce = s.dev.ce := Dev.beginAccess_ce _ p
  have inst : (s.dev.accessed p).inst k.val = s.dev.inst k.val := inst_of ce _
  have boot : (s.dev.accessed p).boot = s.dev.boot := Dev.beginAccess_boot _ p
  have shadow : (s.dev.accessed p).shadow = s.dev.shadow := Dev.beginAccess_shadow _ p
  have chan : (s.dev.accessed p).ceChan k.val = s.dev.ceChan k.val := by unfold Dev.ceChan; rw [boot]
  have decl : ∀ n, (s.dev.accessed p).decl n = s.dev.decl n := decl_of boot
  have coils : ∀ n, (s.dev.accessed p).coils n = s.dev.coils n := fun n => by unfold Dev.coils; rw [decl]
  have mem : (s.dev.accessed p).mem = s.dev.mem := Dev.accessed_mem _ p
  refine ⟨fun w ws len id hw hlen hid => ?_, fun w n hn h0 h1 alm coil ha hco hz hpw hph ht2 ht80 => ?_,
    fun m w hn => ⟨fun h0 h255 h256 => Completes.ofPort _ rfl hr ?_, fun h => Completes.ofPort _ rfl hr ?_⟩, fun hk hn => ?_⟩
  · have words : ws = (s.dev.accessed p).rspWords k.val p w := by
      unfold Dev.rspWords
      rw [inst]
      exact hw
    have taken : (((s.dev.accessed p).rspTaken k.val p).inst k.val).fwd = (s.dev.inst k.val).fwd ∧
        (((s.dev.accessed p).rspTaken k.val p).inst k.val).reply = (s.dev.inst k.val).reply := by
      unfold Dev.rspTaken
      rw [modCe_inst _ k.isLt, inst]
      exact ⟨rfl, rfl⟩
    have state : (s.dev.accessed p).ceState k.val = s.dev.ceState k.val := accessed_rd _ p _
    refine ⟨fun hl => Completes.ofPort _ rfl hr ?_, fun hl =>
      ⟨fun hn => Completes.ofPort _ rfl hr ?_, fun h2 h258 hn => Completes.ofPort _ rfl hr ?_, fun h2 h258 hf hs hx => Completes.ofPort _ rfl hr ?_⟩⟩
    · rw [ceRspWrite_collects words (by rw [← hlen]; exact hl)]
      refine ⟨?_, accessed_regs _ p, mem⟩
      rw [modCe_inst _ k.isLt, inst]
    · rw [ceRspWrite_completes words hlen hid hl, if_pos hn]
      exact ⟨Dev.rd_wr_same _ _ _, taken.1, taken.2, mem⟩
    · rw [ceRspWrite_completes words hlen hid hl, if_neg (by omega), if_pos (by rw [inst, state]; exact hn)]
      exact ⟨Dev.rd_wr_same _ _ _, taken.1, taken.2, mem⟩
    · rw [ceRspWrite_completes words hlen hid hl, if_neg (by omega), if_neg (by rw [inst, state]; simp [hf, hs]), if_neg (by rw [inst, hx]; decide)]
      generalize hy : Dev.wr _ (CE_INST_STATUS_RSP_CODE k.val) cDONE = y
      obtain ⟨reply, fwd⟩ := ceSendI_replies k.isLt y
      have sent : (y.inst k.val).fwd = none := by
        rw [← hy]
        exact congrArg CeInst.fwd (modCe_inst _ k.isLt _)
      refine ⟨?_, fwd.trans sent, reply, ?_⟩
      · show y.rd (CE_INST_STATUS_RSP_CODE k.val) = cDONE
        rw [← hy]
        exact Dev.rd_wr_same _ _ _
      · show y.mem = s.dev.mem
        rw [← hy]
        exact mem
  · subst ha hco
    have range : (s.dev.accessed p).cfgInRange n w.toNat := ⟨hz, by rw [decl]; exact hpw, hph, ht2, ht80⟩
    have on_ : ∀ {b}, s.dev.on (CE_INST_CFG_EN k.val) = b → (s.dev.accessed p).on (CE_INST_CFG_EN k.val) = b := fun h => (accessed_on _ p _).trans h
    refine ⟨fun hw he hh hcl => Completes.ofEnable hr h0 h1 ?_, fun hw he hh => Completes.ofEnable hr h0 h1 ?_,
      fun hw he h1' h2' h3' => Completes.ofEnable hr h0 h1 ?_⟩
    · have set := ceEnable_starts (p := p) (chan.trans hn) range (on_ hw) he ((headerOk_of shadow _).trans hh) (by rw [coils]; exact hcl)
      have kept := ceEnable_mem p k.val w (s.dev.accessed p)
      obtain ⟨en, code, coil, fwd⟩ := cfgSet_rd (s.dev.accessed p) k w.toNat
      rw [set] at kept ⊢
      exact ⟨en.trans (by rw [he]; rfl), code, coil, fwd.trans (b2n_bit30 _), kept.trans mem⟩
    · rw [ceEnable_header (chan.trans hn) (on_ hw) he ((headerOk_of shadow _).trans hh)]
      have ch := (s.dev.accessed p).accessError_changes 0x70000 p true (0x70100 + k.val * 0x80) ⟨true, false, false⟩
      exact ⟨((ch.rd (rows_not (by apply every_index _ k; decide))).trans (accessed_rd _ p _)).trans (rd_of_off hw),
        ((s.dev.accessed p).accessError_flags 0x70000 p true _ ⟨true, false, false⟩).1 rfl, (ch.parts .ce (by decide)).trans ce,
        (ch.parts .mem (by decide)).trans mem⟩
    · have ends := ceEnable_ends (p := p) (chan.trans hn) range (on_ hw) he (by rw [accessed_rd]; exact h1') (by rw [accessed_rd]; exact h2')
        (by rw [accessed_rd]; exact h3')
      have kept := ceEnable_mem p k.val w (s.dev.accessed p)
      obtain ⟨en, -⟩ := cfgSet_rd (s.dev.accessed p) k w.toNat
      rw [ends] at kept ⊢
      generalize (s.dev.accessed p).cfgSet k.val w.toNat = x at en kept
      obtain ⟨grant, state⟩ := ceUngrant_off k x
      have off : (ceUngrant k.val x).rd (CE_INST_CFG_EN k.val) = 0 :=
        ((ceUngrant_after (Changes.refl _ _ x) (within_refl _) (covers_refl _) k.val).rd (rows_not (by apply every_index _ k; decide))).trans
          (en.trans (by rw [he]; rfl))
      generalize ceUngrant k.val x = y at grant state off kept
      refine ⟨?_, ?_, ?_, ?_, kept.trans mem⟩
      · simpa (disch := (dsimp only; omega)) only [Dev.rd_lower_ne] using off
      · simpa (disch := (dsimp only; omega)) only [Dev.rd_lower_ne] using grant
      · exact (Dev.rd_lower_ne _ (by dsimp only; omega)).trans (Dev.rd_lower_same _ _)
      · exact (Dev.rd_lower_ne _ (by dsimp only; omega)).trans ((Dev.rd_lower_ne _ (by dsimp only; omega)).trans state)
  · obtain ⟨start, len, mode, code⟩ := ceLockWrite_sets (p := p) (d := s.dev.accessed p) (by rw [chan]; exact hn) h0 h255 h256
    exact ⟨start, len, mode, code, (ceLockWrite_mem _ _ _ _ _).trans mem⟩
  · rw [ceLockWrite_range (by rw [chan]; exact hn) h]
    have flag := Dev.errRange_flag (s.dev.accessed p) p (0x70110 + k.val * 0x80 + m.val * 4)
    have ch := Dev.errRange_changes (s.dev.accessed p) p (0x70110 + k.val * 0x80 + m.val * 4)
    rw [blockBase_lock] at flag ch
    exact ⟨flag, (ch.rd (rows_not (by apply every_pair _ k m; decide))).trans (accessed_rd _ p _), (ch.parts .mem (by decide)).trans mem⟩
  · have inst' : (s.dev.accessed p).rd CE_WIN_INST = k.val := (accessed_rd _ p _).trans hk
    have chan' : (s.dev.accessed p).ceChan k.val ≠ none := by rw [chan]; exact hn
    have half : (s.dev.accessed p).rd CE_WIN_HALF = s.dev.rd CE_WIN_HALF := accessed_rd _ p _
    refine ⟨fun off n start ho h1 hpg hst => ?_, fun off w start ho hst h256 ht => Completes.ofPort _ rfl hr ?_,
      fun off w ho hh h256 he => Completes.ofPort _ rfl hr ?_⟩
    · have runs := shadowBurst_reads (p := p) (start := start) inst' chan' ho h1 hpg (by rw [half]; exact hst)
      have kept := shadowBurst_mem p off.val [] n (s.dev.accessed p)
      refine ⟨fun ht => Completes.ofPort _ rfl hr ?_, fun t ht hb => ?_⟩
      · have free : (s.dev.accessed p).blockInUse k.val (burstBlocks start n) = none := by
          unfold Dev.blockInUse
          rw [inst, ht]
        rw [free] at runs
        obtain ⟨out, code, same⟩ := hostRun_reads (k := k.val) (b := (s.dev.accessed p).readBurst p start n) (s.dev.accessed p) rfl (Nat.sub_self n)
        rw [runs] at kept ⊢
        refine ⟨out.trans ?_, code, same.trans shadow, kept.trans mem⟩
        rw [accessed_out]
        unfold Dev.imgBytes
        rw [shadow]
        rfl
      · rw [blockInUse_first (by rw [inst]; exact ht) hb] at runs
        dsimp only at runs
        refine ⟨fun hw => Completes.ofPort _ rfl hr ?_, fun hw => Completes.ofPort _ rfl hr ?_⟩
        · rw [if_neg (by rw [accessed_rd]; exact hw)] at runs
          rw [runs] at kept ⊢
          refine ⟨accessed_out _ p, ⟨{ (s.dev.accessed p).readBurst p start n with block := start / 256 }, ?_, rfl, rfl, rfl, rfl⟩, shadow, kept.trans mem⟩
          rw [modCe_inst _ k.isLt, inst]
        · rw [if_pos (by rw [accessed_rd]; exact hw)] at runs
          rw [runs] at kept ⊢
          have ch := ceAcc_changes cBUSY k.val (start / 256) ((s.dev.accessed p).give p (List.replicate n 0))
          refine ⟨(ch.parts .out (by decide)).trans ?_, ceAcc_code (by decide) _ _ _, ceAcc_busy _ _ _, (ch.parts .shadow (by decide)).trans ?_, kept.trans mem⟩
          · rw [give_out, accessed_out]
            rfl
          · exact ((Dev.give_after (Changes.refl _ _ _) (within_refl _) (covers_refl _) _ _).parts .shadow (by decide)).trans shadow
    · obtain ⟨b, runs, writes⟩ := shadowBurst_writes (p := p) (w := w) (start := start) inst' chan' ho (by rw [half]; exact hst) h256 (by rw [inst]; exact ht)
      have kept := shadowBurst_mem p off.val [w] 0 (s.dev.accessed p)
      obtain ⟨image, seq, code⟩ := hostRun_writes (k := k) (b := b) (s.dev.accessed p) (by rw [writes]; exact List.cons_ne_nil _ _)
      rw [runs] at kept ⊢
      refine ⟨image.trans ?_, seq.trans ?_, code, kept.trans mem⟩
      · rw [writes, shadow, wordWrites, List.foldl_map]
      · rw [accessed_rd]
    · have kept := shadowBurst_mem p off.val [w] 0 (s.dev.accessed p)
      have runs := shadowBurst_header (p := p) (w := w) inst' chan' ho (by rw [half]; exact hh) h256 (by rw [accessed_on]; exact he)
      rw [runs] at kept ⊢
      have ch := ceAcc_changes cDONE k.val 0 ((s.dev.accessed p).accessError 0x70000 p true (0x78000 + off.val) ⟨false, true, false⟩)
      have err := (s.dev.accessed p).accessError_changes 0x70000 p true (0x78000 + off.val) ⟨false, true, false⟩
      exact ⟨((ch.parts .shadow (by decide)).trans (err.parts .shadow (by decide))).trans shadow,
        (ch.rd (rows_not (by decide))).trans (((s.dev.accessed p).accessError_flags 0x70000 p true _ ⟨false, true, false⟩).2.1 rfl), kept.trans mem⟩

end Sys2Proof.Machine
end

section
/-!
The phone's field, its carrier and frames (11_card_emulation.md).
-/

namespace Sys2Proof.Machine

/-! Bytes on the air (R267, R268). -/

theorem packByteBits : ∀ b : Byte, BitVec.ofNat 8 (packLsb (byteBits b)) = b := by decide +kernel

theorem byteBits_length (b : Byte) : (byteBits b).length = 8 := rfl

theorem bytesBits_length (bs : List Byte) : (bytesBits bs).length = 8 * bs.length := by
  induction bs with
  | nil => rfl
  | cons b bs ih =>
    rw [bytesBits, List.flatMap_cons, List.length_append, byteBits_length]
    rw [bytesBits] at ih
    rw [ih, List.length_cons]
    omega

/-- Whole bytes sent are the bytes received. -/
theorem packBytes_bytesBits (bs : List Byte) : packBytes false (bs.length + 1) (bytesBits bs) = bs := by
  induction bs with
  | nil => rfl
  | cons b bs ih =>
    have first : bytesBits (b :: bs) = byteBits b ++ bytesBits bs := List.flatMap_cons
    have len : ¬ (bytesBits (b :: bs)).length < 8 := by
      rw [bytesBits_length, List.length_cons]
      omega
    rw [List.length_cons, packBytes, if_neg len, first]
    dsimp only
    rw [if_neg Bool.false_ne_true, List.take_left' (byteBits_length b), List.drop_left' (byteBits_length b), packByteBits, ih]

theorem crcBytes_length (bs : List Byte) : (crcBytes 1 bs).length = 2 := leBytes_length _ _

/-- What the emulated card has found out of a frame before its state is taken into account. -/
def Dev.frameTaken (d : Dev) (k : Nat) (last : Bool) : Dev :=
  d.modCe k fun c => { c with reply := none, toHalt := false, newRate := none, lastBit := last, late := false }

/-- The answer to a request: the ATQA of the image. -/
def ceAtqa (k s : Nat) (d : Dev) : Dev := (ceTo k s d).modCe k fun c => { c with level := 1, reply := some (bitsA 8 (d.imgBytes k 0x0A 2)) }

/-- A frame reaches an emulated card that is enabled, in the phone's field. -/
def Dev.hearsPhone (d : Dev) (k : Nat) : Prop :=
  d.coreRuns = true ∧ d.on (CE_INST_CFG_EN k) = true ∧ d.on (CE_INST_STATUS_FIELD k) = true

theorem emuFrame_deaf {k : Nat} {d : Dev} (h : d.hearsPhone k) (hg : d.on (CE_INST_STATUS_GRANT k) = false) (bits_ : List Bool) (ok : Bool) (ctr : Nat) :
    emuFrame k bits_ ok ctr d = ceDeaf k d := by
  obtain ⟨h1, h2, h3⟩ := h
  unfold emuFrame
  rw [if_neg (by simp [h1, h2, h3]), if_pos (by rw [hg]; rfl)]

theorem emuFrame_request {k : Nat} {d : Dev} (h : d.hearsPhone k) (hg : d.on (CE_INST_STATUS_GRANT k) = true) {bits_ : List Bool} (h7 : bits_.length = 7)
    (hr : packLsb bits_ = 0x26 ∨ packLsb bits_ = 0x52) (hs : d.ceState k = 1) (ok : Bool) (ctr : Nat) :
    ∃ last : Bool, emuFrame k bits_ ok ctr d = ceAtqa k 2 (d.frameTaken k last) := by
  obtain ⟨h1, h2, h3⟩ := h
  unfold emuFrame
  rw [if_neg (by simp [h1, h2, h3]), if_neg (by rw [hg]; decide)]
  dsimp only
  rw [if_pos hs, if_pos h7, if_pos (by simpa using hr)]
  exact ⟨_, rfl⟩

theorem emuFrame_wakes {k : Nat} {d : Dev} (h : d.hearsPhone k) (hg : d.on (CE_INST_STATUS_GRANT k) = true) {bits_ : List Bool} (h7 : bits_.length = 7)
    (hr : packLsb bits_ = 0x52) (hs : d.ceState k = 4) (ok : Bool) (ctr : Nat) :
    ∃ last : Bool, emuFrame k bits_ ok ctr d = ceAtqa k 5 (d.frameTaken k last) := by
  obtain ⟨h1, h2, h3⟩ := h
  unfold emuFrame
  rw [if_neg (by simp [h1, h2, h3]), if_neg (by rw [hg]; decide)]
  dsimp only
  rw [if_neg (by rw [hs]; decide), if_pos hs, if_pos h7, if_pos hr]
  exact ⟨_, rfl⟩

/-- The emulated card as it answers a RATS (R268, R271). -/
def Dev.ratsTaken (d : Dev) (k p : Nat) : Dev := d.modCe k fun c =>
  { c with block := 1, cid := if bit (d.img k 0x0F) 0 then p % 16 else 15, fsd := fscOf (p / 16), rx := [], tx := [],
           lastBlock := [], df := none, file := none, guardAt := none }

/-- A frame of two bytes and their CRC in ACTIVE or ACTIVE*. -/
theorem emuFrame_active {k : Nat} {d : Dev} (h : d.hearsPhone k) (hg : d.on (CE_INST_STATUS_GRANT k) = true) (hs : d.ceState k = 3 ∨ d.ceState k = 6)
    (a b : Byte) (ctr : Nat) :
    ∃ last : Bool, emuFrame k (bytesBits ([a, b] ++ crcBytes 1 [a, b])) true ctr d =
      if [a, b] = [0x50, 0x00] then ceTo k 4 (d.frameTaken k last)
      else if a.toNat = 0xE0 ∧ b.toNat % 16 ≠ 15 then
        let x := (d.frameTaken k last).ratsTaken k b.toNat
        ceEvent k 3 noBlocks (ceReply k (x.ats k) (ceTo k 7 x))
      else ceReject k (d.frameTaken k last) := by
  obtain ⟨h1, h2, h3⟩ := h
  have len : (bytesBits ([a, b] ++ crcBytes 1 [a, b])).length = 32 := by
    rw [bytesBits_length, List.length_append, crcBytes_length]
    rfl
  have bytes : packBytes false (32 / 8 + 1) (bytesBits ([a, b] ++ crcBytes 1 [a, b])) = [a, b] ++ crcBytes 1 [a, b] := by
    have whole := packBytes_bytesBits ([a, b] ++ crcBytes 1 [a, b])
    rwa [List.length_append, crcBytes_length] at whole
  have size : ([a, b] ++ crcBytes 1 [a, b]).length = 4 := by
    rw [List.length_append, crcBytes_length]
    rfl
  have body : ([a, b] ++ crcBytes 1 [a, b]).take 2 = [a, b] := rfl
  have tail : ([a, b] ++ crcBytes 1 [a, b]).drop 2 = crcBytes 1 [a, b] := rfl
  have waits : d.ceState k ≠ 1 ∧ d.ceState k ≠ 4 ∧ d.ceState k ≠ 2 ∧ d.ceState k ≠ 5 := by omega
  obtain ⟨w1, w4, w2, w5⟩ := waits
  refine ⟨lastBitOf (bytesBits ([a, b] ++ crcBytes 1 [a, b])) ([a, b] ++ crcBytes 1 [a, b]), ?_⟩
  unfold emuFrame
  rw [if_neg (by simp [h1, h2, h3]), if_neg (by rw [hg]; decide)]
  dsimp only
  rw [len, bytes, size, body, tail, if_neg w1, if_neg w4, if_neg (by simp [w2, w5]), if_pos (by simpa using hs)]
  have checked : (true && decide (32 % 8 = 0) && decide (3 ≤ 4) && crcBytes 1 [a, b] == crcBytes 1 [a, b]) = true := by
    rw [beq_self_eq_true]
    rfl
  by_cases h50 : [a, b] = [0x50, 0x00]
  · rw [if_pos (by rw [checked, decide_eq_true h50]; rfl), if_pos h50]
    rfl
  · rw [if_neg (by rw [checked, decide_eq_false h50]; decide), if_neg h50]
    by_cases hr : a.toNat = 0xE0 ∧ b.toNat % 16 ≠ 15
    · obtain ⟨ha, hb⟩ := hr
      have rats : (decide (u8At [a, b] 0 = 0xE0) && decide (u8At [a, b] 1 % 16 ≠ 15)) = true := by
        rw [decide_eq_true (show u8At [a, b] 0 = 0xE0 from ha), decide_eq_true (show u8At [a, b] 1 % 16 ≠ 15 from hb)]
        rfl
      rw [if_pos (show a.toNat = 0xE0 ∧ b.toNat % 16 ≠ 15 from ⟨ha, hb⟩)]
      exact if_pos (by rw [checked, Bool.and_assoc, rats]; rfl)
    · have other : (decide (u8At [a, b] 0 = 0xE0) && decide (u8At [a, b] 1 % 16 ≠ 15)) = false := by
        rw [← Bool.decide_and]
        exact decide_eq_false hr
      rw [if_neg hr]
      exact if_neg (by rw [checked, Bool.and_assoc, other, Bool.and_false]; decide)

/-! The carrier and the field (R264, R265). -/

theorem on_raise_ne (d : Dev) {f g : Fld} (h : f.bit ≠ g.bit) : (d.raise g).on f = d.on f := Dev.on_of_rd (Dev.rd_raise_ne _ h)

theorem carrierLock_ungranted {k : Nat} {d : Dev} (hr : d.coreRuns = true) (hf : d.on (CE_INST_STATUS_FIELD k) = true)
    (hg : d.on (CE_INST_STATUS_GRANT k) = false) : carrierLock k d = d.raise (CE_INST_STATUS_CARRIER k) := by
  have still : (d.raise (CE_INST_STATUS_CARRIER k)).on (CE_INST_STATUS_GRANT k) = false := (on_raise_ne d (by dsimp only; omega)).trans hg
  unfold carrierLock
  rw [if_neg (by simp [hr, hf])]
  unfold ceIdle
  rw [if_pos (by rw [still]; simp)]

theorem read_eq_map (m : Memory) (a n : Nat) : Memory.read m a n = (upTo n).map fun i => Memory.get m (a + i) := by
  induction n generalizing a with
  | zero => rfl
  | succ n ih =>
    rw [Memory.read, ih, upTo, upTo, List.range_succ_eq_map, List.map_cons, List.map_map]
    refine congrArg _ (List.map_congr_left fun i _ => ?_)
    rw [Function.comp_apply, Nat.succ_eq_add_one, Nat.add_assoc, Nat.add_comm 1 i]

theorem imgBytes_eq (d : Dev) (k off n : Nat) : d.imgBytes k off n = (upTo n).map fun i => BitVec.ofNat 8 (d.img k (off + i)) := by
  unfold Dev.imgBytes Dev.img
  rw [read_eq_map]
  refine List.map_congr_left fun i _ => ?_
  rw [BitVec.ofNat_toNat, BitVec.setWidth_eq, Nat.add_assoc]

/-- The emulated card as it comes to IDLE with a UID. -/
def Dev.idleWith (d : Dev) (k : Nat) (uid : List Byte) : Dev :=
  (d.modCe k fun c => { CeInst.reset with uid := uid, cmdId := c.cmdId, asm := c.asm, host := c.host }).wr (CE_INST_STATUS_STATE k) 1

theorem carrierLock_idles {k : Nat} {d : Dev} (hr : d.coreRuns = true) (hf : d.on (CE_INST_STATUS_FIELD k) = true)
    (hg : d.on (CE_INST_STATUS_GRANT k) = true) (hs : d.ceState k = 0) (hm : d.img k 2 = 2) :
    carrierLock k d = (d.raise (CE_INST_STATUS_CARRIER k)).idleWith k (d.imgBytes k 3 7) := by
  have granted : (d.raise (CE_INST_STATUS_CARRIER k)).on (CE_INST_STATUS_GRANT k) = true := (on_raise_ne d (by dsimp only; omega)).trans hg
  have field : (d.raise (CE_INST_STATUS_CARRIER k)).on (CE_INST_STATUS_FIELD k) = true := (on_raise_ne d (by dsimp only; omega)).trans hf
  have locked : (d.raise (CE_INST_STATUS_CARRIER k)).on (CE_INST_STATUS_CARRIER k) = true := by
    rw [Dev.on, Dev.rd_raise_same]
    rfl
  have off : (d.raise (CE_INST_STATUS_CARRIER k)).rd (CE_INST_STATUS_STATE k) = 0 := (Dev.rd_raise_ne _ (by dsimp only; omega)).trans hs
  have mode : (d.raise (CE_INST_STATUS_CARRIER k)).img k 2 = 2 := hm
  unfold carrierLock
  rw [if_neg (by simp [hr, hf])]
  unfold ceIdle
  rw [if_neg (by simp [granted, field, locked, off])]
  dsimp only
  rw [mode, if_neg (by decide), if_pos rfl, imgBytes_eq]
  rfl

theorem phoneDetected_requests {k n level : Nat} {d : Dev} (hn : d.ceChan k = some n) (hr : d.coreRuns = true) (he : d.on (CE_INST_CFG_EN k) = true)
    (hf : d.on (CE_INST_STATUS_FIELD k) = false) (hl : (d.chan n).field.lit = false) (hg : d.grantNow n = none) (hi : d.listening n = false)
    (ht : level ≤ 50 * d.rd (CE_INST_CFG_FIELD_THR k)) :
    phoneDetected k level d = ceRequest k n (ceEvent k 1 noBlocks ((d.raise (CE_INST_STATUS_FIELD k)).modCe k fun c => { c with lostAt := none })) := by
  unfold phoneDetected
  rw [hn]
  dsimp only
  rw [if_neg]
  simp only [hr, he, hf, hl, hg, hi, Bool.not_true, Bool.false_or, Option.isSome_none, Bool.or_self, decide_eq_true_eq]
  omega

theorem ceRequest_asks {k n : Nat} {d : Dev} (hg : d.on (CE_INST_STATUS_GRANT k) = false)
    (hq : d.ts.reqs.any (·.owner == Owner.emulation k) = false) :
    ceRequest k n d = { d with ts := { d.ts with reqs := d.ts.reqs ++ [⟨.emulation k, n, d.rd (CE_INST_CFG_COIL k), 1, false, 0, 0, false⟩] } } :=
  if_neg (by rw [hg, hq]; decide)

/-- The emulated card as its field goes at an instant. -/
def Dev.fieldGone (d : Dev) (k t : Nat) : Dev :=
  (((ceOff k d).modCe k fun c => { c with lostAt := some t }).lower (CE_INST_STATUS_FIELD k)).lower (CE_INST_STATUS_CARRIER k)

theorem phoneLost_runs {k level : Nat} {d : Dev} (hr : d.coreRuns = true) (hf : d.on (CE_INST_STATUS_FIELD k) = true)
    (hl : 50 * d.rd (CE_INST_CFG_FIELD_THR k) + 300 < level) :
    let x := (d.raiseIf (d.ceState k != 0) (CE_INST_STATUS_FIELD_LOSS_SEEN k)).fieldGone k d.ns
    phoneLost k level d = ceEvent k 2 noBlocks { x with ts := { x.ts with reqs := x.ts.reqs.filter (·.owner ≠ Owner.emulation k) } } := by
  have now : (d.raiseIf (d.ceState k != 0) (CE_INST_STATUS_FIELD_LOSS_SEEN k)).ns = d.ns := by cases d.ceState k != 0 <;> rfl
  unfold phoneLost
  dsimp only
  rw [if_neg (by simp [hr, hf]; omega), now]
  rfl

theorem phoneLost_eff {k : Fin 8} {level : Nat} {d : Dev} (hr : d.coreRuns = true) (hf : d.on (CE_INST_STATUS_FIELD k.val) = true)
    (hl : 50 * d.rd (CE_INST_CFG_FIELD_THR k.val) + 300 < level) :
    let e := phoneLost k.val level d
    e.rd (CE_INST_STATUS_FIELD k.val) = 0 ∧ e.rd (CE_INST_STATUS_CARRIER k.val) = 0 ∧ e.ceState k.val = 0 ∧ (e.inst k.val).lostAt = some d.ns ∧
    (d.ceState k.val ≠ 0 → e.rd (CE_INST_STATUS_FIELD_LOSS_SEEN k.val) = 1) := by
  have runs := phoneLost_runs hr hf hl
  generalize hy : d.raiseIf (d.ceState k.val != 0) (CE_INST_STATUS_FIELD_LOSS_SEEN k.val) = y at runs
  have seen : d.ceState k.val ≠ 0 → y.rd (CE_INST_STATUS_FIELD_LOSS_SEEN k.val) = 1 := fun h => by
    rw [← hy, Dev.raiseIf, if_pos (by simpa using h)]
    exact Dev.rd_raise_same _ _
  have kept : (ceOff k.val y).rd (CE_INST_STATUS_FIELD_LOSS_SEEN k.val) = y.rd (CE_INST_STATUS_FIELD_LOSS_SEEN k.val) :=
    (ceOff_after (Changes.refl _ _ y) (within_refl _) (covers_refl _) k.val).rd (rows_not (by apply every_index _ k; decide))
  have off := ceOff_state k y
  have lost : ((y.fieldGone k.val d.ns).inst k.val).lostAt = some d.ns := congrArg CeInst.lostAt (modCe_inst (ceOff k.val y) k.isLt _)
  have gone : (y.fieldGone k.val d.ns).rd (CE_INST_STATUS_FIELD k.val) = 0 ∧ (y.fieldGone k.val d.ns).rd (CE_INST_STATUS_CARRIER k.val) = 0 ∧
      (y.fieldGone k.val d.ns).ceState k.val = 0 ∧
      (y.fieldGone k.val d.ns).rd (CE_INST_STATUS_FIELD_LOSS_SEEN k.val) = (ceOff k.val y).rd (CE_INST_STATUS_FIELD_LOSS_SEEN k.val) := by
    unfold Dev.fieldGone
    refine ⟨(Dev.rd_lower_ne _ (by dsimp only; omega)).trans (Dev.rd_lower_same _ _), Dev.rd_lower_same _ _, ?_, ?_⟩
    · exact (Dev.rd_lower_ne _ (by dsimp only; omega)).trans ((Dev.rd_lower_ne _ (by dsimp only; omega)).trans off)
    · exact (Dev.rd_lower_ne _ (by dsimp only; omega)).trans (Dev.rd_lower_ne _ (by dsimp only; omega))
  generalize y.fieldGone k.val d.ns = z at runs lost gone
  obtain ⟨field, carrier, state, loss⟩ := gone
  dsimp only at runs
  generalize hw : ({ z with ts := { z.ts with reqs := z.ts.reqs.filter (·.owner ≠ Owner.emulation k.val) } } : Dev) = w at runs
  have ch := ceEvent_changes k.val 2 noBlocks w
  have rd : ∀ f, w.rd f = z.rd f := fun f => by rw [← hw]; rfl
  have inst : w.inst k.val = z.inst k.val := by rw [← hw]; rfl
  intro e
  have he : e = _ := runs
  clear_value e
  subst he
  refine ⟨?_, ?_, ?_, ?_, fun h => ?_⟩
  · exact (ch.rd (rows_not (by apply every_index _ k; decide))).trans ((rd _).trans field)
  · exact (ch.rd (rows_not (by apply every_index _ k; decide))).trans ((rd _).trans carrier)
  · exact (ch.rd (rows_not (by apply every_index _ k; decide))).trans ((rd _).trans state)
  · rw [ceEvent_inst, inst, lost]
  · exact (ch.rd (rows_not (by apply every_index _ k; decide))).trans ((rd _).trans (loss.trans (kept.trans (seen h))))

/-! The end of an emulation grant (R266). -/

/-- The slot boundary at which a grant may end. -/
def Dev.atSlotEnd (d : Dev) : Dev := if d.atBoundary then d else d.reach (d.nextBoundary * 1000000)

theorem atSlotEnd_changes (d : Dev) : Changes [.regs, .time, .clk] [.one 98752] d d.atSlotEnd := by
  unfold Dev.atSlotEnd
  split
  · exact Changes.refl _ _ d
  · exact Dev.elapse_after (Changes.refl _ _ d) (within_refl _) (covers_refl _) _

theorem atSlotEnd_ns (d : Dev) : d.ns ≤ d.atSlotEnd.ns := by
  unfold Dev.atSlotEnd
  split
  · exact Nat.le_refl _
  · refine Nat.div_le_div_right ?_
    rw [Dev.reach, elapse_time]
    exact Nat.le_add_right _ _

theorem emuGrantEnd_runs {k : Nat} {d : Dev} (hg : d.on (CE_INST_STATUS_GRANT k) = true) : emuGrantEnd k d =
    if (match (d.atSlotEnd.inst k).lostAt with
      | some t => decide (t + 10000000 ≤ d.atSlotEnd.ns)
      | none => false) = true then ceUngrant k d.atSlotEnd
    else if (d.atSlotEnd.preempts && (d.atSlotEnd.inst k).txn.isNone) = true then ceEvent k 9 noBlocks (ceUngrant k d.atSlotEnd)
    else d.atSlotEnd := by
  unfold emuGrantEnd
  rw [if_neg (by rw [hg]; decide)]
  rfl

theorem emuGrantEnd_lost {k : Nat} {d : Dev} {t : Nat} (hg : d.on (CE_INST_STATUS_GRANT k) = true) (hl : (d.inst k).lostAt = some t)
    (ht : t + 10000000 ≤ d.ns) : emuGrantEnd k d = ceUngrant k d.atSlotEnd := by
  have inst : d.atSlotEnd.inst k = d.inst k := inst_of ((atSlotEnd_changes d).parts .ce (by decide)) k
  rw [emuGrantEnd_runs hg, inst, hl]
  exact if_pos (decide_eq_true (Nat.le_trans ht (atSlotEnd_ns d)))

theorem emuGrantEnd_preempted {k : Nat} {d : Dev} (hg : d.on (CE_INST_STATUS_GRANT k) = true) (hl : (d.inst k).lostAt = none) (hp : d.preempts = true)
    (ht : (d.inst k).txn = none) : emuGrantEnd k d = ceEvent k 9 noBlocks (ceUngrant k d.atSlotEnd) := by
  have inst : d.atSlotEnd.inst k = d.inst k := inst_of ((atSlotEnd_changes d).parts .ce (by decide)) k
  have rd : ∀ f : Fld, ¬ Rows [.one 98752] f.bit → d.atSlotEnd.rd f = d.rd f := fun f h => (atSlotEnd_changes d).rd h
  have still : d.atSlotEnd.preempts = true := by
    rw [← hp]
    unfold Dev.preempts Dev.surveying Dev.on
    rw [rd _ (rows_not (by decide)), rd _ (rows_not (by decide)), rd _ (rows_not (by decide))]
  rw [emuGrantEnd_runs hg, inst, hl, ht, still]
  rfl

/-! Replies, transactions and waits (R270, R273, R278). -/

theorem emuReplyStart_sends {k ready : Nat} {d : Dev} {b : List Bool} (hg : d.on (CE_INST_STATUS_GRANT k) = true) (hb : (d.inst k).reply = some b)
    (hr : (d.inst k).newRate = none) (hh : (d.inst k).toHalt = false) (ht : (d.inst k).guardAt = none) :
    emuReplyStart k ready d = { d.modCe k (fun c => { c with
      reply := none, toHalt := false, newRate := none, startAt := replyAt (d.inst k).lastBit (d.inst k).late ready,
      guardAt := if d.ceState k = 7 then some (d.ns + d.cardGuard k) else none }) with out := packWords 80 (true :: b) } := by
  unfold emuReplyStart
  dsimp only
  rw [hb]
  dsimp only
  rw [if_neg (by rw [hg]; decide), ht, hr, hh, if_neg (by decide)]
  by_cases h7 : d.ceState k = 7
  · rw [if_pos h7, decide_eq_true h7]
    rfl
  · rw [if_neg h7, decide_eq_false h7]
    rfl

/-- A deselected card goes to HALT after its reply. -/
theorem emuReplyStart_halts {k : Fin 8} {ready : Nat} {d : Dev} {b : List Bool} (hg : d.on (CE_INST_STATUS_GRANT k.val) = true)
    (hb : (d.inst k.val).reply = some b) (hr : (d.inst k.val).newRate = none) (hh : (d.inst k.val).toHalt = true) :
    ∃ x : Dev, emuReplyStart k.val ready d = ceEvent k.val 4 noBlocks (ceTo k.val 4 (ceEndSession k.val (ceBegin k.val x))) ∧
      (x.inst k.val).reply = none := by
  unfold emuReplyStart
  dsimp only
  rw [hb]
  dsimp only
  rw [if_neg (by rw [hg]; decide), hr, hh, if_pos rfl]
  refine ⟨_, rfl, ?_⟩
  exact congrArg CeInst.reply (modCe_inst _ k.isLt _)

theorem ceDiscard_inst (k : Fin 8) (d : Dev) : (ceDiscard k.val d).inst k.val =
    if (d.inst k.val).txn.isSome then { d.inst k.val with txn := none, status := false } else d.inst k.val := by
  unfold ceDiscard
  cases ht : (d.inst k.val).txn with
  | none => rfl
  | some t =>
    dsimp only
    rw [ceEvent_inst]
    exact modCe_inst _ k.isLt _

theorem ceBegin_reply (k : Fin 8) (d : Dev) : ((ceBegin k.val d).inst k.val).reply = (d.inst k.val).reply := by
  have ended : ((if (d.inst k.val).txn.isSome then hostProceed k.val (ceDiscard k.val d) else d).inst k.val).reply = (d.inst k.val).reply := by
    cases ht : (d.inst k.val).txn with
    | none => rfl
    | some t =>
      rw [if_pos (Option.isSome_some), hostProceed_inst, ceDiscard_inst, ht]
      rfl
  unfold ceBegin
  dsimp only
  rw [modCe_inst _ k.isLt]
  exact ended

theorem fieldTxnEnd_commits {k : Nat} {d : Dev} {t : FieldTxn} (ht : (d.inst k).txn = some t) (hs : (d.inst k).status = true) (hw : t.writes ≠ []) :
    fieldTxnEnd k true d =
      hostProceed k (ceEvent k 5 (blockMap t.writes) (ceCommit k t.writes (d.modCe k fun c => { c with txn := none, status := false }))) := by
  unfold fieldTxnEnd
  dsimp only
  rw [ht]
  dsimp only
  rw [if_neg (by rw [hs]; decide), if_neg (by decide), if_neg (by simpa using hw)]

theorem fieldTxnEnd_discards {k : Nat} {d : Dev} {t : FieldTxn} (ht : (d.inst k).txn = some t) (hs : (d.inst k).status = true) :
    fieldTxnEnd k false d = hostProceed k (ceDiscard k d) := by
  unfold fieldTxnEnd
  dsimp only
  rw [ht]
  dsimp only
  rw [if_neg (by rw [hs]; decide), if_pos (by decide)]

/-- The S(WTX) request of the session. -/
def Dev.wtxBlock (d : Dev) (k : Nat) : List Byte := cePcb (d.inst k) 0xF2 ++ [BitVec.ofNat 8 (d.rd (CE_INST_WTX_WTXM k))]

/-- A forwarded command waits in PROTOCOL, with no reply under way. -/
theorem wtxPoint_goes {k : Nat} {d : Dev} (hf : (d.inst k).fwd ≠ none) (ha : (d.inst k).wtxAwait = false) (hr : (d.inst k).reply = none)
    (hs : d.ceState k = 7) :
    ¬ ((d.inst k).fwd.isNone || (d.inst k).wtxAwait || (d.inst k).reply.isSome || decide (d.ceState k ≠ 7)) = true := by
  simpa [ha, hr, hs] using hf

theorem emuWtxPoint_asks {k : Nat} {d : Dev} (hf : (d.inst k).fwd ≠ none) (ha : (d.inst k).wtxAwait = false) (hr : (d.inst k).reply = none)
    (hs : d.ceState k = 7) (hw : (d.inst k).wtx < d.rd (CE_INST_WTX_WTX_MAX k)) : emuWtxPoint k d =
      ceReply k (d.wtxBlock k) (d.modCe k fun c => { c with wtx := c.wtx + 1, wtxAwait := true, late := true, lastBlock := d.wtxBlock k,
                                                            status := false }) := by
  unfold emuWtxPoint
  dsimp only
  rw [if_neg (wtxPoint_goes hf ha hr hs), if_pos hw]
  rfl

theorem emuWtxPoint_expires {k : Nat} {d : Dev} (hf : (d.inst k).fwd ≠ none) (ha : (d.inst k).wtxAwait = false) (hr : (d.inst k).reply = none)
    (hs : d.ceState k = 7) (hw : d.rd (CE_INST_WTX_WTX_MAX k) ≤ (d.inst k).wtx) : emuWtxPoint k d =
      ceEvent k 7 noBlocks (ceAnswer k [] 0x6F00 ((d.modCe k fun c => { c with fwd := none, late := true }).raise (CE_INST_STATUS_EXPIRED_SEEN k))) := by
  unfold emuWtxPoint
  dsimp only
  rw [if_neg (wtxPoint_goes hf ha hr hs), if_neg (by omega)]

/-! What the frames leave. -/

theorem modCe_rd (k : Nat) (f : CeInst → CeInst) (d : Dev) (g : Fld) : (d.modCe k f).rd g = d.rd g := rfl

theorem ceCommit_ce (k : Nat) (ws : List (Nat × Byte)) (d : Dev) : (ceCommit k ws d).ce = d.ce :=
  (ceCommit_after (Changes.refl _ _ d) (within_refl _) (covers_refl _) k ws).parts .ce (by decide)

/-- A transaction that commits, with no burst waiting. -/
theorem fieldTxnEnd_commits_eff {k : Fin 8} {d : Dev} {t : FieldTxn} (ht : (d.inst k.val).txn = some t) (hs : (d.inst k.val).status = true)
    (hh : (d.inst k.val).host = []) (hw : t.writes ≠ []) :
    ((fieldTxnEnd k.val true d).inst k.val).txn = none ∧
    (fieldTxnEnd k.val true d).rd (CE_INST_CSEQ_CSEQ k.val) = (d.rd (CE_INST_CSEQ_CSEQ k.val) + 1) % 2 ^ 16 ∧
    (fieldTxnEnd k.val true d).shadow = t.writes.foldl (fun m w => Memory.set m (k.val * 65536 + w.1) w.2) d.shadow := by
  generalize hx : (d.modCe k.val fun c => { c with txn := none, status := false }) = x
  have inst : (x.inst k.val).txn = none ∧ (x.inst k.val).host = [] := by
    rw [← hx, modCe_inst _ k.isLt]
    exact ⟨rfl, hh⟩
  obtain ⟨shadow, seq⟩ := ceCommit_eff k t.writes x
  have same : x.shadow = d.shadow ∧ x.rd (CE_INST_CSEQ_CSEQ k.val) = d.rd (CE_INST_CSEQ_CSEQ k.val) := by
    rw [← hx]
    exact ⟨rfl, rfl⟩
  rw [same.1] at shadow
  rw [same.2] at seq
  have held := ceCommit_ce k.val t.writes x
  rw [fieldTxnEnd_commits ht hs hw, hx]
  generalize ceCommit k.val t.writes x = y at shadow seq held
  have ch := ceEvent_changes k.val 5 (blockMap t.writes) y
  have inst' : (ceEvent k.val 5 (blockMap t.writes) y).inst k.val = x.inst k.val := (ceEvent_inst _ _ _ _ _).trans (inst_of held _)
  have seq' := (ch.rd (f := CE_INST_CSEQ_CSEQ k.val) (rows_not (by apply every_index _ k; decide))).trans seq
  have shadow' := (ch.parts .shadow (by decide)).trans shadow
  generalize ceEvent k.val 5 (blockMap t.writes) y = z at inst' seq' shadow'
  rw [hostProceed_idle (by rw [inst']; exact inst.2)]
  refine ⟨?_, seq', shadow'⟩
  rw [modCe_inst _ k.isLt, inst']
  exact inst.1

/-- A transaction that is discarded, with no burst waiting. -/
theorem fieldTxnEnd_discards_eff {k : Fin 8} {d : Dev} {t : FieldTxn} (ht : (d.inst k.val).txn = some t) (hs : (d.inst k.val).status = true)
    (hh : (d.inst k.val).host = []) :
    ((fieldTxnEnd k.val false d).inst k.val).txn = none ∧ (fieldTxnEnd k.val false d).shadow = d.shadow ∧
    (fieldTxnEnd k.val false d).rd (CE_INST_STATUS_DISCARD_SEEN k.val) = 1 := by
  have inst : (ceDiscard k.val d).inst k.val = { d.inst k.val with txn := none, status := false } := by
    rw [ceDiscard_inst, if_pos (by rw [ht]; rfl)]
  have shadow : (ceDiscard k.val d).shadow = d.shadow :=
    (ceDiscard_after (Changes.refl _ _ d) (within_refl _) (covers_refl _) k.val).parts .shadow (by decide)
  have seen : (ceDiscard k.val d).rd (CE_INST_STATUS_DISCARD_SEEN k.val) = 1 := by
    unfold ceDiscard
    rw [ht]
    exact ((ceEvent_changes _ _ _ _).rd (rows_not (by apply every_index _ k; decide))).trans (Dev.rd_raise_same _ _)
  rw [fieldTxnEnd_discards ht hs]
  generalize ceDiscard k.val d = y at inst shadow seen
  rw [hostProceed_idle (by rw [inst]; exact hh)]
  refine ⟨?_, shadow, seen⟩
  rw [modCe_inst _ k.isLt, inst]

theorem ceAtqa_eff (k : Fin 8) {st : Nat} (h : st < 8) (last : Bool) (d : Dev) :
    (ceAtqa k.val st (d.frameTaken k.val last)).ceState k.val = st ∧
    ((ceAtqa k.val st (d.frameTaken k.val last)).inst k.val).reply = some (bitsA 8 (d.imgBytes k.val 0x0A 2)) ∧
    (ceAtqa k.val st (d.frameTaken k.val last)).mem = d.mem :=
  ⟨(Dev.rd_wr_same _ _ _).trans (Nat.mod_eq_of_lt h), congrArg CeInst.reply (modCe_inst _ k.isLt _), rfl⟩

/-- The reply to a RATS: the ATS, and PROTOCOL. -/
theorem ratsTaken_eff (k : Fin 8) (p : Nat) (last : Bool) (d : Dev) :
    let x := (d.frameTaken k.val last).ratsTaken k.val p
    let e := ceEvent k.val 3 noBlocks (ceReply k.val (x.ats k.val) (ceTo k.val 7 x))
    e.ceState k.val = 7 ∧ (e.inst k.val).reply = some (bitsA 8 (d.ats k.val ++ crcBytes 1 (d.ats k.val))) ∧ (e.inst k.val).fsd = fscOf (p / 16) ∧
    e.mem = d.mem := by
  intro x e
  have fsd : (x.inst k.val).fsd = fscOf (p / 16) := congrArg CeInst.fsd (modCe_inst _ k.isLt _)
  have ats : x.ats k.val = d.ats k.val := rfl
  have mem : x.mem = d.mem := rfl
  have he : e = ceEvent k.val 3 noBlocks (ceReply k.val (x.ats k.val) (ceTo k.val 7 x)) := rfl
  clear_value e x
  rw [ats] at he
  have reply := ceReply_inst k.isLt (d.ats k.val) (ceTo k.val 7 x)
  have inst : (ceTo k.val 7 x).inst k.val = x.inst k.val := rfl
  have state : (ceReply k.val (d.ats k.val) (ceTo k.val 7 x)).rd (CE_INST_STATUS_STATE k.val) = 7 :=
    (modCe_rd _ _ _ _).trans (Dev.rd_wr_same _ _ _)
  have mem' : (ceReply k.val (d.ats k.val) (ceTo k.val 7 x)).mem = d.mem := mem
  generalize ceReply k.val (d.ats k.val) (ceTo k.val 7 x) = y at he reply state mem'
  subst he
  refine ⟨((ceEvent_changes _ _ _ y).rd (rows_not (by apply every_index _ k; decide))).trans state, ?_, ?_, (ceEvent_mem _ _ _ y).trans mem'⟩
  · rw [ceEvent_inst, reply]
  · rw [ceEvent_inst, reply, inst]
    exact fsd

/-- Settles O35, command by command. -/
theorem emulationFollowsThePhone : Obligations.EmulationFollowsThePhone := by
  intro s k c hc
  subst hc
  refine ⟨fun hr => ⟨fun hf hg => Completes.effect _ rfl ?_, fun hf hg hs hm => Completes.effect _ rfl ?_,
      fun n level hn he hf hl hg hi ht hgr hq => Completes.effect _ rfl ?_,
      fun level hf hl h0 h1 => Completes.effect (fun d => settleFrames (phoneLost k.val level d)) rfl ?_, fun he hf => ?_⟩,
    fun hg => ⟨fun h0 h1 => ⟨fun t hl ht => Completes.effect (fun d => settleFrames (emuGrantEnd k.val d)) rfl ?_,
        fun hl hp ht => Completes.effect (fun d => settleFrames (emuGrantEnd k.val d)) rfl ?_⟩,
      fun b ready hb hr => ⟨fun hh ht => Completes.effect _ rfl ?_, fun hh => Completes.effect _ rfl ?_⟩⟩,
    fun t ht hs hh h0 h1 => ⟨fun hw => Completes.effect (fun d => settleFrames (fieldTxnEnd k.val true d)) rfl ?_,
      Completes.effect (fun d => settleFrames (fieldTxnEnd k.val false d)) rfl ?_⟩,
    fun hf ha hr hs => ⟨fun hw => Completes.effect _ rfl ?_, fun hw => Completes.effect _ rfl ?_⟩⟩
  · rw [carrierLock_ungranted (d := s.dev.begun) hr hf hg]
    exact ⟨Dev.rd_raise_same _ _, Dev.rd_raise_ne _ (by dsimp only; omega), rfl, rfl⟩
  · rw [carrierLock_idles (d := s.dev.begun) hr hf hg hs hm]
    refine ⟨?_, Dev.rd_wr_same _ _ _, congrArg CeInst.uid (modCe_inst _ k.isLt _), rfl⟩
    exact (Dev.rd_wr_ne _ _ (by dsimp only; omega)).trans ((modCe_rd _ _ _ _).trans (Dev.rd_raise_same _ _))
  · rw [phoneDetected_requests (d := s.dev.begun) hn hr he hf hl hg hi ht]
    generalize hx : (s.dev.begun.raise (CE_INST_STATUS_FIELD k.val)).modCe k.val _ = x
    have field : x.rd (CE_INST_STATUS_FIELD k.val) = 1 := by rw [← hx, modCe_rd]; exact Dev.rd_raise_same _ _
    have grant : x.rd (CE_INST_STATUS_GRANT k.val) = s.dev.rd (CE_INST_STATUS_GRANT k.val) := by
      rw [← hx, modCe_rd]
      exact Dev.rd_raise_ne _ (by dsimp only; omega)
    have coil : x.rd (CE_INST_CFG_COIL k.val) = s.dev.rd (CE_INST_CFG_COIL k.val) := by
      rw [← hx, modCe_rd]
      exact Dev.rd_raise_ne _ (by dsimp only; omega)
    have lost : (x.inst k.val).lostAt = none := by rw [← hx]; exact congrArg CeInst.lostAt (modCe_inst _ k.isLt _)
    have ts : x.ts = s.dev.ts := by rw [← hx]; rfl
    have mem : x.mem = s.dev.mem := by rw [← hx]; rfl
    clear hx
    have ch := ceEvent_changes k.val 1 noBlocks x
    have grant' := (ch.rd (f := CE_INST_STATUS_GRANT k.val) (rows_not (by apply every_index _ k; decide))).trans grant
    have coil' := (ch.rd (f := CE_INST_CFG_COIL k.val) (rows_not (by apply every_index _ k; decide))).trans coil
    rw [ceRequest_asks ((Dev.on_of_rd grant').trans hgr) (by rw [ceEvent_ts, ts]; exact hq), coil', ceEvent_ts, ts]
    refine ⟨?_, ?_, rfl, (ceEvent_mem _ _ _ x).trans mem⟩
    · exact (ch.rd (rows_not (by apply every_index _ k; decide))).trans field
    · exact (congrArg CeInst.lostAt (ceEvent_inst k.val 1 noBlocks x k.val)).trans lost
  · have ch := phoneLost_after (Changes.refl _ _ s.dev.begun) (within_refl _) (covers_refl _) k.val level
    obtain ⟨field, carrier, state, lost, seen⟩ := phoneLost_eff (d := s.dev.begun) hr hf hl
    rw [settleFrames_of (d := s.dev) (ch.parts .gw (by decide)) h0 h1]
    exact ⟨field, carrier, state, lost, seen, ch.parts .mem (by decide)⟩
  · have hears : s.dev.begun.hearsPhone k.val := ⟨hr, he, hf⟩
    refine ⟨fun bits ok ctr hg => Completes.effect _ rfl ?_, fun hg => ⟨fun bits ok ctr h7 hq hs => Completes.effect _ rfl ?_,
      fun bits ok ctr h7 hq hs => Completes.effect _ rfl ?_, fun hs => ⟨fun ctr => Completes.effect _ rfl ?_, fun p ctr hp => Completes.effect _ rfl ?_⟩⟩⟩
    · rw [emuFrame_deaf hears hg]
      have ch := ceEvent_changes k.val 8 noBlocks (s.dev.begun.raise (CE_INST_STATUS_DEAF_SEEN k.val))
      refine ⟨(ch.rd (rows_not (by apply every_index _ k; decide))).trans (Dev.rd_raise_same _ _), ?_, ch.parts .ce (by decide), ch.parts .mem (by decide)⟩
      exact (ch.rd (rows_not (by apply every_index _ k; decide))).trans (Dev.rd_raise_ne _ (by dsimp only; omega))
    · obtain ⟨last, runs⟩ := emuFrame_request hears hg h7 hq hs ok ctr.toNat
      rw [runs]
      exact ceAtqa_eff k (by decide) last s.dev.begun
    · obtain ⟨last, runs⟩ := emuFrame_wakes hears hg h7 hq hs ok ctr.toNat
      rw [runs]
      exact ceAtqa_eff k (by decide) last s.dev.begun
    · obtain ⟨last, runs⟩ := emuFrame_active hears hg hs 0x50 0x00 ctr.toNat
      rw [runs, if_pos rfl]
      exact ⟨Dev.rd_wr_same _ _ _, congrArg CeInst.reply (modCe_inst _ k.isLt _), rfl⟩
    · obtain ⟨last, runs⟩ := emuFrame_active hears hg hs 0xE0 p ctr.toNat
      rw [runs, if_neg (by simp), if_pos ⟨rfl, hp⟩]
      exact ratsTaken_eff k p.toNat last s.dev.begun
  · have ch := emuGrantEnd_after (Changes.refl _ _ s.dev.begun) (within_refl _) (covers_refl _) k.val
    rw [settleFrames_of (d := s.dev) (ch.parts .gw (by decide)) h0 h1]
    have mem := ch.parts .mem (by decide)
    rw [emuGrantEnd_lost (d := s.dev.begun) hg hl ht] at mem ⊢
    obtain ⟨grant, state⟩ := ceUngrant_off k s.dev.begun.atSlotEnd
    refine ⟨grant, state, ?_, mem⟩
    rw [ceUngrant_grants, (atSlotEnd_changes _).parts .ts (by decide)]
    rfl
  · have ch := emuGrantEnd_after (Changes.refl _ _ s.dev.begun) (within_refl _) (covers_refl _) k.val
    rw [settleFrames_of (d := s.dev) (ch.parts .gw (by decide)) h0 h1]
    have mem := ch.parts .mem (by decide)
    rw [emuGrantEnd_preempted (d := s.dev.begun) hg hl hp ht] at mem ⊢
    obtain ⟨grant, state⟩ := ceUngrant_off k s.dev.begun.atSlotEnd
    have ev := ceEvent_changes k.val 9 noBlocks (ceUngrant k.val s.dev.begun.atSlotEnd)
    exact ⟨(ev.rd (rows_not (by apply every_index _ k; decide))).trans grant, (ev.rd (rows_not (by apply every_index _ k; decide))).trans state, mem⟩
  · rw [emuReplyStart_sends (d := s.dev.begun) hg hb hr hh ht]
    have inst := modCe_inst s.dev.begun k.isLt fun c => { c with
      reply := none, toHalt := false, newRate := none,
      startAt := replyAt (s.dev.begun.inst k.val).lastBit (s.dev.begun.inst k.val).late ready,
      guardAt := if s.dev.begun.ceState k.val = 7 then some (s.dev.begun.ns + s.dev.begun.cardGuard k.val) else none }
    exact ⟨rfl, congrArg CeInst.reply inst, congrArg CeInst.startAt inst, fun h7 => (congrArg CeInst.guardAt inst).trans (if_pos h7), rfl, rfl⟩
  · have ch := emuReplyStart_after (Changes.refl _ _ s.dev.begun) (within_refl _) (covers_refl _) k.val ready
    have mem := ch.parts .mem (by decide)
    obtain ⟨x, runs, none⟩ := emuReplyStart_halts (ready := ready) (d := s.dev.begun) hg hb hr hh
    rw [runs] at mem ⊢
    refine ⟨?_, ?_, mem⟩
    · rw [ceEvent_inst]
      show ((ceEndSession k.val (ceBegin k.val x)).inst k.val).reply = _
      refine (congrArg CeInst.reply (modCe_inst (ceBegin k.val x) k.isLt _)).trans ?_
      exact (ceBegin_reply k x).trans none
    · exact ((ceEvent_changes _ _ _ _).rd (rows_not (by apply every_index _ k; decide))).trans (Dev.rd_wr_same _ _ _)
  · have ch := fieldTxnEnd_after (Changes.refl _ _ s.dev.begun) (within_refl _) (covers_refl _) k.val true
    rw [settleFrames_of (d := s.dev) (ch.parts .gw (by decide)) h0 h1]
    have mem := ch.parts .mem (by decide)
    obtain ⟨txn, seq, shadow⟩ := fieldTxnEnd_commits_eff (d := s.dev.begun) ht hs hh hw
    exact ⟨txn, seq, shadow, mem⟩
  · have ch := fieldTxnEnd_after (Changes.refl _ _ s.dev.begun) (within_refl _) (covers_refl _) k.val false
    rw [settleFrames_of (d := s.dev) (ch.parts .gw (by decide)) h0 h1]
    have mem := ch.parts .mem (by decide)
    obtain ⟨txn, shadow, seen⟩ := fieldTxnEnd_discards_eff (d := s.dev.begun) ht hs hh
    exact ⟨txn, shadow, seen, mem⟩
  · rw [emuWtxPoint_asks (d := s.dev.begun) hf ha hr hs hw]
    rw [ceReply_inst k.isLt, modCe_inst _ k.isLt]
    exact ⟨rfl, rfl, rfl, rfl, rfl⟩
  · have ch := emuWtxPoint_after (Changes.refl _ _ s.dev.begun) (within_refl _) (covers_refl _) k.val
    have mem := ch.parts .mem (by decide)
    rw [emuWtxPoint_expires (d := s.dev.begun) hf ha hr hs hw] at mem ⊢
    generalize hx : (s.dev.begun.modCe k.val _).raise (CE_INST_STATUS_EXPIRED_SEEN k.val) = x at mem
    have fwd : (x.inst k.val).fwd = none := by
      rw [← hx]
      exact congrArg CeInst.fwd (modCe_inst _ k.isLt _)
    have seen : x.rd (CE_INST_STATUS_EXPIRED_SEEN k.val) = 1 := by
      rw [← hx]
      exact Dev.rd_raise_same _ _
    unfold ceAnswer at mem ⊢
    generalize hy : x.modCe k.val _ = y at mem
    obtain ⟨reply, sent⟩ := ceSendI_replies k.isLt y
    have inst : (y.inst k.val).fwd = none := by
      rw [← hy, modCe_inst _ k.isLt]
      exact fwd
    refine ⟨?_, ?_, ?_, mem⟩
    · rw [ceEvent_inst]
      exact sent.trans inst
    · refine ((ceEvent_changes _ _ _ _).rd (rows_not (by apply every_index _ k; decide))).trans ?_
      show y.rd (CE_INST_STATUS_EXPIRED_SEEN k.val) = 1
      rw [← hy]
      exact seen
    · rw [ceEvent_inst]
      exact reply

end Sys2Proof.Machine
end
